-- ==== Sys2Proof/Word.lean ====
section
/-!
DEFINITION. The words of the hardware: bytes and 32-bit register words (R15), with their plainest conversions.
-/
namespace Sys2Proof

/-- One byte, the unit of frames, packets and host memory. -/
abbrev Byte := BitVec 8

/-- One 32-bit register word. -/
abbrev Word := BitVec 32

/-- The byte whose value is `n` modulo 256. -/
abbrev byte (n : Nat) : Byte := BitVec.ofNat 8 n

/-- The word whose value is `n` modulo 2^32. -/
abbrev word (n : Nat) : Word := BitVec.ofNat 32 n

end Sys2Proof
end

