-- ==== Sys2Proof/Syntax.lean ====
section
/-!
DEFINITION. The commands the block takes: one constructor per row of the opcode table. The operands say what the command
brings from outside the block: the sender and value of a register access, the bytes of a packet or frame, a measured
physical quantity, or which instance an event concerns.
-/
namespace Sys2Proof

/-- Who makes an access (R513, R592): the control complex, a host request with its PCIe Requester ID and IDE T bit, or a
request of another node that carries the SID given at the root. -/
inductive Sender where
  | cc
  | host (rid : Nat) (tBit : Bool)
  | tree (sid : Nat)
  deriving DecidableEq, Repr

/-- A command packet as a sender posts it (R488): its channel, header fields and parameter bytes; with what a DMA
reference of it meets outside the block: the bytes of the buffer the device reads (R495) and whether a transfer fails on
PCIe (R496). -/
structure Packet where
  chan : Nat
  version : Nat := 0x0100
  flags : Nat := 0
  zero : Nat := 0
  tag : Nat
  params : List Byte := []
  dma : List Byte := []
  dmaFault : Bool := false
  deriving DecidableEq, Repr

/-- The fields of a HELLO (R570); `flags` is ROOT, PREF_UP, ACKED and HAS_PARENT in bits 0 to 3. -/
structure Hello where
  vmin : Nat
  vmax : Nat
  hops : Nat
  flags : Nat
  port : Nat
  node : Nat
  deriving DecidableEq, Repr

/-- A Rhogen packet (R566). -/
structure RlPacket where
  typ : Nat
  seqd : Bool := false
  seq : Nat := 0
  dst : Nat := 0
  src : Nat := 0
  sid : Nat := 0
  tag : Nat := 0
  ack : Nat := 0
  ackV : Bool := false
  arg : Nat := 0
  payload : List Byte := []
  deriving DecidableEq, Repr

/-- A transmit descriptor as the device reads it (R561), with the bytes of its buffer. -/
structure TxDesc where
  addr : Nat
  blen : Nat
  first : Bool
  last : Bool
  hdr : Bool := false
  txhdr : List Byte := []
  data : List Byte := []
  deriving DecidableEq, Repr


/-- The commands of the block, one constructor per row of the opcode table, in its order. -/
inductive Instr where
  /-- R581: PORST_N low or VAO below its power-on threshold resets everything, including the always-on island, and samples the straps. -/
  | powerOnReset (straps : Nat) (flash : List (Nat × List Byte))
  /-- R42: The slot PLL locks after VAO and REFCLK are valid; slot 0 begins and the whorl starts from 0. -/
  | pllLock
  /-- R43: REFCLK stops or drifts beyond its limits; the PLL holds its control value and sets REF_LOSS. -/
  | referenceLost
  /-- R43: The reference returns; the PLL relocks without a phase step and sets RELOCK. -/
  | referenceRestored
  /-- R585: The boot ROM reads the fuses and the flash directory, then chooses, copies and verifies boot code. -/
  | bootRomStart
  /-- R586: Boot code writes and locks the protection set-up, then chooses, verifies and starts a firmware image, or enters recovery mode. -/
  | bootCodeStart (setup : List (Nat × Word))
  /-- R585: Firmware reads its keep-store records, loads the Cemond table, initialises the blocks, answers its journal and begins consuming mailboxes. -/
  | firmwareStart
  /-- R581: PROT_RST.CORE resets the data path of every slice and quadrant and the control complex; the island continues. -/
  | coreReset (who : Sender)
  /-- R581: PROT_RST.CC resets the control complex cores and working memory; the data plane continues. -/
  | controlComplexReset (who : Sender)
  /-- R582: A PROT_RST.QUAD bit resets one quadrant's tables, slices, deep tier and counters. -/
  | quadrantReset (who : Sender) (quads : Nat)
  /-- R581: After a core or quadrant reset has held its blocks for 1,024 slots, the blocks are released and begin initialising. -/
  | resetRelease
  /-- R227: The free-list load of a slice completes after 4,096 slots and INIT_DONE sets. -/
  | cbInitDone (sl : Nat)
  /-- R259: The allocator finishes rebuilding the quadrant's free page lists and INIT_DONE sets. -/
  | dtInitDone (q : Nat)
  /-- R583: Firmware restores cleared blocks from its shadows after a reset, re-enables ports and then runs the held commands. -/
  | firmwareRestoration
  /-- R595: A write of PROT_CTL.LOCK locks the protection set-up until power-on. -/
  | protLock (who : Sender) (v : Word)
  /-- R600: A write of PROT_WDT.KICK restarts the 1,024-epoch watchdog count. -/
  | watchdogKick (who : Sender) (v : Word)
  /-- R600: No kick arrives within 1,024 epochs; the control complex is reset with cause 3. -/
  | watchdogExpire
  /-- R594: A write of PROT_DMA_REVOKE bit k clears the window's VALID for good. -/
  | dmaWindowRevoke (who : Sender) (v : Word)
  /-- R598: Once the conditions of R597 hold, firmware drains its started commands, writes the handover and resets into the staged image. -/
  | fwSwitch
  /-- R600: The slot count reaches DEADLINE while trial firmware runs, and the firmware reverts to PREV. -/
  | trialDeadline
  /-- R610: VAO falls below 3.0 V or PWRSAG_N is held low; the island moves to VHOLD and the emergency save starts. -/
  | sagBegin (source : Nat)
  /-- R622: The emergency save finishes writing its slot, header last, and sets SAVE_DONE or SAVE_FAIL. -/
  | saveComplete (ok : Bool)
  /-- R613: VAO is restored and PWRSAG_N is high; the island returns to VAO and the charger recharges. -/
  | sagEnd
  /-- R612: A core rail fails or PG_CORE/PG_LANE falls; every unit outside the island stops. -/
  | coreSupplyLoss (rails : Nat)
  /-- R612: The core rails have been good for 1 ms after a loss while held, and a core reset with cause 1 follows. -/
  | coreSupplyRestored
  /-- R609: VHOLD falls below 4.0 V while the island is on hold, giving a power-on reset. -/
  | vholdExhausted
  /-- R615: The power-up charge test of the hold-up capacitor ends and sets CAP_STATE, C and ESR. -/
  | capTestComplete (low : Bool) (rise esr : Nat)
  /-- R616: VHOLD stays below 10.0 V for a full epoch with the charger on, and CAP_STATE becomes SHORT. -/
  | capRuntimeCheck (mv : Nat)
  /-- R616: VHOLD exceeds 12.0 V; the charger turns off and CAP_STATE becomes OVERVOLTAGE. -/
  | capOvervoltage (mv : Nat)
  /-- R619: At its epoch offset, firmware recomputes E_avail and sets or clears SAVE_RISK. -/
  | holdupEnergyCheck (mv : Nat)
  /-- R621: Firmware refreshes the island's save buffer at least once per epoch and at each servo state change. -/
  | saveImageUpdate
  /-- R618: A keep-store write session finishes its writes and read-back, with spare-page replacement where needed. -/
  | ksSessionComplete (worn : Nat)
  /-- R627: Every 1,024 slots THM takes Tj from the die sensors and enters or leaves warning levels. -/
  | thermalSample (temps : List Int)
  /-- R551: A PCIe reset of the endpoint resets configuration space, disables DMA rings, discards remote reads and requests incarnation increments on the root. -/
  | pcieReset
  /-- R330: Every 2^10 slots each queue's depth and head delay are sampled into its live accumulators. -/
  | sampleIntervalBoundary
  /-- R331: At offset 0 of each epoch the live depth and delay accumulators merge into the pending set and the REQUEST filters clear. -/
  | epochBoundary
  /-- R147: At offset 4,096 each table engine hands its notice buffer to firmware, ending with a LOST record after an overflow. -/
  | learnNoticeFlush (q : Nat)
  /-- R142: At an epoch boundary whose number is a multiple of PERIOD, an aging sweep starts or merges into the one pending. -/
  | agingSweepStart (q : Nat)
  /-- R142: At offset 65,536, a sweep step visits a quarter of the table, clearing HIT or deleting idle dynamic entries. -/
  | agingSweepStep (q : Nat)
  /-- R481: At offset 262,144 the counter-array images are added into firmware's 64-bit totals and cleared. -/
  | arrayTransfer
  /-- R392: At offset 524,288 each scanning lane moves its offset sampler to the next point and counts mismatches. -/
  | eyeScanStep (l errs : Nat) (void : Bool)
  /-- R395: Each epoch the leg monitors average level and swing and update LN_FAULT after two consistent checks. -/
  | legMonitorCheck (l codes : Nat)
  /-- R54: Firmware sets TICK_SCH_ACT.ARM; an entry whose target is already due is missed with cause 2. -/
  | scheduleEntryArm (who : Sender) (e : Nat) (v : Word)
  /-- R53: The whorl reaches an armed entry's target; the entry executes at the slot edge or is missed. -/
  | scheduleEntryDue
  /-- R60: Firmware places held commands, event outputs and gate swaps whose time is near into hardware, or records misses with cause 3. -/
  | heldListCheck
  /-- R62: After the whorl-to-network mapping changes, firmware reconverts every held and armed command and gate time. -/
  | scheduleReconvert
  /-- R67: A read of TICK_SLOT_LO returns the slot count and latches the high half into TICK_SLOT_HI. -/
  | tickSlotRead (who : Sender)
  /-- R413: The whorl ns passes 2^32; PARITY inverts and the next base becomes active, or STALE is raised if it is unarmed. -/
  | whorlWrap
  /-- R406: A write of TS_INC_NS commits the shadowed fraction, and the new increment governs from the next slot. -/
  | tsIncCommit (who : Sender) (v : Word)
  /-- R407: A write of TS_SLEW_COUNT ends any running slew and starts one of N slots with DELTA. -/
  | slewStart (who : Sender) (v : Word)
  /-- R407: A slew's slot count runs out; SLEW_ACT clears and SLEW_DONE sets. -/
  | slewEnd
  /-- R412: TS_BASE_CTL.LOAD copies the staged base into the named base, arming it or replacing the active mapping. -/
  | baseLoad (who : Sender) (v : Word)
  /-- R415: At the first epoch boundary after a wrap, firmware loads the next base with the active base plus 2^32 ns. -/
  | nextBaseLoad
  /-- R418: A read of TS_WHORL_NS returns the whorl and latches the fraction, parity and network time. -/
  | whorlRead (who : Sender)
  /-- R419: At each measurement the servo steps through its state machine and corrects frequency, phase or base. -/
  | servoMeasurement (offset : Int) (qualifies : Bool)
  /-- R419: HOLD_MAX epochs pass in HOLDOVER and the servo falls to FREE_RUN. -/
  | holdoverExpire
  /-- R423: Setting TS_EVT_CTL.EN arms an event output, or marks it MISSED if START is already due. -/
  | eventOutputArm (who : Sender) (n : Nat) (v : Word)
  /-- R422: An event output asserts or deasserts at its whorl time; a one-shot then clears EN and sets DONE. -/
  | eventOutputEdge (n : Nat)
  /-- R424: PPS_OUT rises at each network-second boundary while network time is valid, and falls WIDTH later. -/
  | ppsOutPulse
  /-- R425: A selected edge on TCAP or PPS_IN is stamped into the input's FIFO, or lost with OVF. -/
  | captureEdge (j sub : Nat) (rise : Bool)
  /-- R426: A read of TS_CAP_NS pops the oldest capture record and latches its other fields. -/
  | capturePop (who : Sender) (j : Nat)
  /-- R432: No PPS_IN record arrives within 1.5 s of a hint, and the hint lapses. -/
  | todHintLapse
  /-- R432: No PPS_IN edge arrives for 1.1 s in servo mode 2, and the source is lost. -/
  | ppsSourceTimeout
  /-- R427: A recovered-clock output enters or leaves squelch as its lane's state changes. -/
  | rclkSquelchChange (r : Nat)
  /-- R354: A start-of-frame delimiter reaches the MAC; the frame is admitted to the receive FIFO or refused, and is stamped. -/
  | frameStart (p : Nat) (bytes : List Byte) (edge phase sym : Nat)
  /-- R353: A received frame ends and is classified good, runt, oversize or in error, with corrections or stomps for copies already released. -/
  | frameEnd (p : Nat) (pcsErr : Bool)
  /-- R657: A frame's header becomes ready for dispatch, or is dropped for a full header buffer or a faulty transmit header. -/
  | frameReady (p : Nat) (fw : List Byte)
  /-- R85: Each slot the dispatcher grants up to eight ready headers to strands by rotation. -/
  | headerDispatch (sl : Nat)
  /-- R108: A frame completes its strand after its latency, with its disposition and drop decided. -/
  | strandComplete (p seq : Nat) (faults : List (Nat × Nat))
  /-- R109: A completed frame is released once every earlier frame of its input port has completed. -/
  | reorderRelease (sl : Nat)
  /-- R197: A released frame enters staging 14 slots later, once per egress slice, or is dropped or spilled. -/
  | fabricEntry (p seq : Nat)
  /-- R200: A frame held in the deep-tier spill returns in order to its staging queue. -/
  | spillReturn (ing sq : Nat)
  /-- R202: Each slot the egress slice grants staged cells under its write credit: continuations, lossless starts, then lossy starts. -/
  | cellGrant
  /-- R203: The write queue performs up to 12 granted cell writes per slot into skeins or the deep write buffer. -/
  | cellWrite (sl : Nat) (errs : List (Nat × Nat))
  /-- R103: When a policed frame ends, its buckets are corrected by the difference between charged and true length. -/
  | policerCorrection (p seq : Nat)
  /-- R105: Every 16 slots the refresh walk brings one policer's tokens up to date. -/
  | policerRefresh (q x : Nat)
  /-- R313: When a port's line falls free, the scheduler chooses a control frame, a queue head, or nothing. -/
  | startDecision (p edge sym : Nat)
  /-- R358: At the start instant the MAC checks the gate and begins sending the frame with corrections and insertions. -/
  | transmitStart (p : Nat)
  /-- R241: The transmit read path reads a cell and checks its state, owner, code and CRC. -/
  | cellRead (p ecc : Nat)
  /-- R451: A frame's last byte leaves the MAC; counters, queue arrays and the timestamp ring are updated. -/
  | transmitEnd (p : Nat)
  /-- R235: The read path frees each transmitted cell in the slot after its last byte, under the free checks. -/
  | cellTransmitFree (sl : Nat) (wrong : Option Nat)
  /-- R236: The free walker returns up to 16 cells per slot of requested skeins along NEXT. -/
  | walkerFree (sl : Nat) (wrong : Option Nat)
  /-- R244: A requested reclaim sweep starts once its queue's on-die part is empty, and advances SWN. -/
  | reclaimSweepStart (sl : Nat)
  /-- R244: The sweep has read every descriptor and freed the queue's leaked cells. -/
  | reclaimSweepEnd (sl : Nat)
  /-- R248: The data scrub reads one ALLOC cell and handles single and uncorrectable errors. -/
  | cbDataScrubVisit (sl c err : Nat)
  /-- R248: A corrected word is written back in the first slot with fewer than 12 writes. -/
  | scrubWriteBack (sl : Nat)
  /-- R249: The descriptor scrub reads one descriptor, corrects or quarantines it, and pushes stray free cells. -/
  | descriptorScrubVisit (sl c err : Nat)
  /-- R261: An open hank page closes when full, after FLUSH_SLOTS, or when its queue's on-die part empties. -/
  | pageClose (qu : Nat)
  /-- R261: A closed page's write to its stack completes and its write-buffer units are released. -/
  | pageWriteComplete (qu : Nat)
  /-- R266: A deep queue below its low mark reserves cells and issues a page read. -/
  | readbackIssue (qu : Nat)
  /-- R267: A page read completes; frames join the on-die part, errors are handled and the page is freed. -/
  | pageReadComplete (qu : Nat) (faults : List (Nat × Nat))
  /-- R262: A DEEP queue whose both parts and buffers are empty returns to ON_DIE. -/
  | deepExit (qu : Nat)
  /-- R275: Each stack's scrub reads one burst and repairs, posts or retires as the outer code finds. -/
  | hbmScrubVisit (page burst err inner : Nat)
  /-- R276: A stack signals a fatal fault or PG_HBM falls, and the stack is retired at once with its hanks dropped. -/
  | stackFatalFault (h : Nat)
  /-- R276: A draining stack holds no allocated page and becomes retired. -/
  | stackDrainComplete (h : Nat)
  /-- R296: A received flow-control load governs scheduling 32 slots after the frame's last byte. -/
  | pauseLoadApply (p : Nat)
  /-- R296: A class's pause timer reaches zero and the class may start frames again. -/
  | pauseTimerExpire (p c : Nat)
  /-- R297: A change of XOFF request makes the generator send a flow-control frame within 64 slots. -/
  | pfcGenerate (p : Nat)
  /-- R297: While a request stands, XOFF is resent at half the QUANTA time. -/
  | pfcRefresh (p : Nat)
  /-- R350: A link condition fails; the frame in transmission ends stomped, pause state clears, and queues hold or flush. -/
  | linkLoss (p : Nat) (aligned lf rf hiBer : Bool)
  /-- R350: Every link condition has held for 65,536 slots; the port resumes or starts with empty queues. -/
  | linkUp (p : Nat)
  /-- R303: A HELD port reaches its deadline and its queues are flushed. -/
  | holdDeadline (p : Nat)
  /-- R361: 391 slots after a wake match the link is reported up without the long wait. -/
  | wakeLinkUp (p : Nat)
  /-- R323: The whorl reaches the next gate-list entry and its gate vector takes effect. -/
  | gateEntryBoundary (p : Nat)
  /-- R323: GCL_CYC_START falls due; entry 0 begins and the start advances by CYCLE. -/
  | gclCycleStart (p : Nat)
  /-- R328: An armed swap target falls due and the admin list becomes operational. -/
  | gclSwap (p : Nat)
  /-- R324: A write of GCL_CYC_START ends the running cycle at the written instant and sets REALIGN. -/
  | gclCycStartWrite (who : Sender) (p : Nat) (v : Word)
  /-- R328: A write of GCL_SWAP_CTL.ARM arms a swap, which executes next slot if already due. -/
  | gclSwapArm (who : Sender) (p : Nat) (v : Word)
  /-- R123: The table scrub reads one bucket, correcting single errors and invalidating double-bit errors. -/
  | tbScrubVisit (q bucketIdx k err : Nat)
  /-- R132: The table engine takes a learn request and inserts, moves or refreshes the entry. -/
  | learnRequestServe (q : Nat)
  /-- R150: A waiting FDB_NEXT or FDB_FLUSH_PORT gets its scan pass over all positions. -/
  | scanPass (q : Nat)
  /-- R148: Firmware writes learn notices to the host ring, updates the producer index and rings the doorbell. -/
  | noticeRingDelivery (cons : Nat)
  /-- R100: The classification scrub checks one entry's parity and invalidates it on error. -/
  | clsScrubVisit (q x : Nat) (bad : Bool)
  /-- R178: The layer-3 scrub reads one entry of each table and handles parity and code errors. -/
  | fwdScrubVisit (q table idx kind : Nat)
  /-- R100: Firmware rewrites an entry invalidated by a memory error from its shadow within one epoch. -/
  | shadowRestore (table q idx : Nat)
  /-- R173: The prefix engine inserts an entry into one bank by moving region boundaries. -/
  | prefixBankInsert (q : Nat)
  /-- R175: The prefix engine invalidates an entry in one bank and closes the hole. -/
  | prefixBankDelete (q : Nat)
  /-- R183: An old member range is freed at the first epoch boundary 128 slots after a group replacement. -/
  | ecmpRangeFree (q : Nat)
  /-- R379: A lane finds two valid alignment markers one period apart and locks. -/
  | laneLock (l : Nat) (half : Bool) (pcsl : Nat) (inverted : Bool) (skew : Nat)
  /-- R379: A lane misses four markers or sees a wrong one, and loses lock. -/
  | laneLockLoss (l : Nat)
  /-- R385: A write of LN_CEM_COMMIT.COMMIT requests the shadow settings at the next codeword boundaries. -/
  | cemondCommit (who : Sender) (l : Nat) (v : Word)
  /-- R385: Both halves of a commit take effect; COMMIT clears and CEM_DONE sets. -/
  | cemondCommitApply (l : Nat)
  /-- R387: No frame has been chosen for DELAY slots; the port's lanes send IES and enter electrical idle. -/
  | idleEntry (p : Nat)
  /-- R388: A request starts the wake, training and resume-marker sequence. -/
  | idleExit (p : Nat)
  /-- R388: Idle exit reaches the codeword boundary after the resume marker, and data transmission restarts. -/
  | idleResume (p : Nat)
  /-- R390: The receiver sees IES and holds its CDR and equalisation. -/
  | rxIdleEnter (l : Nat)
  /-- R390: The idle receiver detects signal and trains on the burst. -/
  | rxSignalDetect (l : Nat)
  /-- R390: A resume marker with a good CRC returns the receiver to ACTIVE at the marked phase. -/
  | rxResumeMarker (l : Nat) (field : Word)
  /-- R390: No good marker arrives within 390 slots of signal detect, and the lane loses lock. -/
  | rxResumeTimeout (l : Nat)
  /-- R517: The bound sender's POST makes an inbound slot POSTED at the slot edge. -/
  | mbInPost (who : Sender) (n : Nat)
  /-- R524: Firmware consumes an inbound slot, latching the incarnation, and takes the command. -/
  | mbInConsume (n : Nat) (dma : List Byte) (dmaFault : Bool)
  /-- R517: Firmware posts a reply into an outbound slot once it is EMPTY. -/
  | mbOutPost (n : Nat)
  /-- R522: The bound receiver consumes an outbound slot, freeing it for the next reply. -/
  | mbOutConsume (who : Sender) (n : Nat)
  /-- R523: The bound sender requests a sender-incarnation increment. -/
  | mbNewInc (who : Sender) (n : Nat)
  /-- R524: A waiting incarnation increment applies at the first edge with the slot EMPTY. -/
  | incarnationApply (n : Nat)
  /-- R528: A host writes the set alias of a host-to-device doorbell, raising an event to firmware. -/
  | doorbellH2dSet (who : Sender) (hi : Bool) (bits : Word)
  /-- R528: The control complex clears a host-to-device doorbell bit. -/
  | doorbellH2dClear (hi : Bool) (bits : Word)
  /-- R528: The control complex sets a device-to-host doorbell bit. -/
  | doorbellD2hSet (n : Nat)
  /-- R528: Host software clears a device-to-host doorbell bit by W1C. -/
  | doorbellD2hClear (who : Sender) (hi : Bool) (bits : Word)
  /-- R541: A write to a register without a row of its own acts field by field under its access codes, firewall and same-slot rules. -/
  | registerWrite (who : Sender) (offset : Nat) (words : List Word) (enables : Bool)
  /-- R540: A write at a set alias sets the named RW bits. -/
  | aliasSet (who : Sender) (offset : Nat) (bits : Word)
  /-- R540: A write at a clear alias clears the named RW bits. -/
  | aliasClear (who : Sender) (offset : Nat) (bits : Word)
  /-- R540: A write at a toggle alias inverts the named RW bits. -/
  | aliasToggle (who : Sender) (offset : Nat) (bits : Word)
  /-- R475: A read of an RC holding image returns it and clears it in the same slot. -/
  | rcRead (who : Sender) (offset : Nat)
  /-- R332: A read of a SUM_LO returns the low half, latches the high half and clears the sum. -/
  | holdingSumRead (who : Sender) (offset : Nat)
  /-- R478: A write of CNT_SNAP.SNAP requests a snapshot at the end of the slot. -/
  | cntSnapRequest (who : Sender) (v : Word)
  /-- R477: Firmware takes a snapshot when none has occurred for 65,536 epochs. -/
  | firmwareSnapshot
  /-- R546: A vector whose OR is 1 and FIRED is 0 sends its MSI-X message, or INT on a non-root node. -/
  | vectorFire (v : Nat)
  /-- R553: A host write of a ring's TAIL hands descriptors to the device, or is ignored with TAIL_ERR. -/
  | dmaTailWrite (who : Sender) (tx : Bool) (r : Nat) (v : Word)
  /-- R558: The engine writes a reserved frame's bytes and then its descriptors to host memory. -/
  | dmaRxFrameWrite (r : Nat) (bufs : List Nat) (fault : Bool)
  /-- R560: COAL_US elapses after the first pending completion and the ring's status bit sets. -/
  | dmaCoalesceTimer (tx : Bool) (r : Nat)
  /-- R562: A transmit ring granted by rotation has one frame read, checked and released to dispatch. -/
  | dmaTxFrameFetch (r : Nat) (descs : List TxDesc) (fault : Bool)
  /-- R452: The ring owner writes CONS to free timestamp-ring entries. -/
  | tsRingConsWrite (who : Sender) (q : Nat) (v : Word)
  /-- R568: A BAR2 access to another node becomes an RD_REQ or WR_REQ on the Rhogen links. -/
  | treeRemoteAccess (who : Sender) (offset : Nat) (write : Bool) (words : List Word) (n : Nat) (enables : Bool) (tag : Nat)
  /-- R569: A remote read has no completion within 100 µs and returns all ones. -/
  | remoteReadTimeout (tag : Nat)
  /-- R567: A Rhogen packet is accepted in sequence and routed, served or acknowledged, or NAKed. -/
  | rhogenPacketReceive (k : Nat) (pkt : RlPacket) (crcOk : Bool)
  /-- R570: A received HELLO updates version agreement, HOPS and the link's role. -/
  | rhogenHelloReceive (k : Nat) (h : Hello)
  /-- R570: A Rhogen port sends its periodic HELLO. -/
  | rhogenHelloTimer (k : Nat)
  /-- R567: 1 µs passes since an unacknowledged accepted packet and an ACK is sent. -/
  | rhogenAckTimer (k : Nat)
  /-- R567: 20 µs pass without acknowledgement and the sender replays, taking the link down after 16 replays. -/
  | rhogenReplayTimeout (k : Nat)
  /-- R574: A downstream link leaves ACTIVE; routes are invalidated and LOST is sent upstream. -/
  | rhogenLinkDown (k : Nat)
  /-- R573: Root firmware numbers a newly reported child and sends ASSIGN along its path. -/
  | nodeEnumerate (path : List Nat)
  /-- R498: Negotiates the protocol version and reports build, image, channel and incarnation. -/
  | hello (p : Packet)
  /-- R508: Returns its parameter bytes unchanged. -/
  | echo (p : Packet)
  /-- R508: Returns event-log records from a sequence number by DMA. -/
  | eventLogRead (p : Packet)
  /-- R59: Accepts a command to act at a network time, and fans it out to tree nodes from the root. -/
  | schedule (p : Packet)
  /-- R59: Removes a held or armed scheduled command that has not executed. -/
  | scheduleCancel (p : Packet)
  /-- R61: Returns the held and armed scheduled commands. -/
  | scheduleList (p : Packet)
  /-- R364: Sets a port's mode, enable, maximum frame, address and pause handling, removing hidden numbers. -/
  | portConfig (p : Packet)
  /-- R81: Changes a port's mode bits and DEEP bits, at once or at a network time. -/
  | portModeSet (p : Packet)
  /-- R82: Returns a port's mode registers and any pending timed change. -/
  | portModeGet (p : Packet)
  /-- R367: Returns a port's configuration, link and mode state. -/
  | portStatusGet (p : Packet)
  /-- R366: Writes one wake pattern of a port. -/
  | wakeSet (p : Packet)
  /-- R112: Writes a classification entry or pair in the named quadrants. -/
  | clsWrite (p : Packet)
  /-- R113: Returns a classification entry and its logged error. -/
  | clsRead (p : Packet)
  /-- R113: Clears a range of classification entries, 64 per slot. -/
  | clsInvalidate (p : Packet)
  /-- R114: Configures a policer's rates, sizes, mode and actions. -/
  | polSet (p : Packet)
  /-- R114: Returns a policer's configuration and current tokens. -/
  | polGet (p : Packet)
  /-- R115: Writes a port's ingress configuration and profile. -/
  | ingPortSet (p : Packet)
  /-- R115: Returns a port's ingress configuration and profile. -/
  | ingPortGet (p : Packet)
  /-- R154: Inserts or replaces an address entry in the named quadrants. -/
  | fdbInsert (p : Packet)
  /-- R155: Deletes an address entry of a type in the named quadrants. -/
  | fdbDelete (p : Packet)
  /-- R155: Returns the address entry for a key in each named quadrant. -/
  | fdbSearch (p : Packet)
  /-- R156: Returns the entries following a cursor key from one scan pass. -/
  | fdbNext (p : Packet)
  /-- R157: Deletes matching entries of a port in one scan pass per quadrant. -/
  | fdbFlushPort (p : Packet)
  /-- R158: Sets aging enable, period and destination refresh. -/
  | fdbAgeSet (p : Packet)
  /-- R158: Sets a port's learn mode and limit. -/
  | fdbLearnSet (p : Packet)
  /-- R159: Configures the host learn-notice ring. -/
  | fdbNotifySet (p : Packet)
  /-- R160: Writes a VLAN entry in every present quadrant. -/
  | vlanSet (p : Packet)
  /-- R160: Returns a VLAN entry and the default flood set. -/
  | vlanGet (p : Packet)
  /-- R186: Inserts or replaces a prefix in every bank it covers. -/
  | pfxInsert (p : Packet)
  /-- R187: Deletes every copy of a prefix. -/
  | pfxDelete (p : Packet)
  /-- R187: Returns a prefix's result word and copy count. -/
  | pfxSearch (p : Packet)
  /-- R187: Returns what a data-plane search would find for an address. -/
  | pfxLookup (p : Packet)
  /-- R188: Walks prefixes in key order from firmware's record. -/
  | pfxNext (p : Packet)
  /-- R188: Returns one hardware prefix entry as it stands. -/
  | pfxRead (p : Packet)
  /-- R192: Sets the bank selector while the prefix memories are empty. -/
  | pfxSelSet (p : Packet)
  /-- R189: Writes a next-hop entry. -/
  | nhSet (p : Packet)
  /-- R189: Returns a next-hop entry. -/
  | nhGet (p : Packet)
  /-- R190: Replaces an equal-cost group whole. -/
  | ecmpSet (p : Packet)
  /-- R190: Rewrites one member of a group. -/
  | ecmpMemberSet (p : Packet)
  /-- R190: Returns a group and its members. -/
  | ecmpGet (p : Packet)
  /-- R190: Writes the ECMP hash seed and field enables. -/
  | ecmpHashSet (p : Packet)
  /-- R191: Writes a router interface. -/
  | rifSet (p : Packet)
  /-- R191: Binds a port or VID to a router interface. -/
  | rifBind (p : Packet)
  /-- R191: Returns a router interface and its bindings. -/
  | rifGet (p : Packet)
  /-- R218: Writes a replication set. -/
  | replSet (p : Packet)
  /-- R218: Returns a replication set. -/
  | replGet (p : Packet)
  /-- R219: Sets staging thresholds and recomputes lossless reserves. -/
  | fabStgSet (p : Packet)
  /-- R219: Returns a slice's staging configuration and pair reserves. -/
  | fabStgGet (p : Packet)
  /-- R251: Sets a pool's floor and ceiling. -/
  | cbPoolSet (p : Packet)
  /-- R251: Returns a slice's pool counts. -/
  | cbPoolGet (p : Packet)
  /-- R252: Returns quarantined cells. -/
  | cbQuarList (p : Packet)
  /-- R252: Releases quarantined cells to the free list. -/
  | cbQuarRelease (p : Packet)
  /-- R253: Retires a cell now or when freed. -/
  | cbRetire (p : Packet)
  /-- R254: Requests a reclaim sweep for a queue. -/
  | cbReclaim (p : Packet)
  /-- R254: Sets the data scrub enable and rate. -/
  | cbScrubSet (p : Packet)
  /-- R282: Sets a queue's page reserve, maximum and read-back thresholds. -/
  | dtQueueSet (p : Packet)
  /-- R282: Returns a queue's deep-tier configuration and state. -/
  | dtQueueGet (p : Packet)
  /-- R283: Starts drain or immediate retirement of a stack. -/
  | dtStackRetire (p : Packet)
  /-- R284: Retires a page now or when freed. -/
  | dtPageRetire (p : Packet)
  /-- R284: Frees a page held after an error without the owner check. -/
  | dtPageRelease (p : Packet)
  /-- R284: Sets the HBM scrub enable and rate. -/
  | dtScrubSet (p : Packet)
  /-- R284: Returns a quadrant's deep-tier state. -/
  | dtStatusGet (p : Packet)
  /-- R307: Sets link parameters and quanta and recomputes headroom. -/
  | fcPortSet (p : Packet)
  /-- R307: Returns flow-control parameters and headroom figures. -/
  | fcPortGet (p : Packet)
  /-- R308: Sets a queue's limits and pool. -/
  | qmQueueSet (p : Packet)
  /-- R308: Returns a queue's settings and depth. -/
  | qmQueueGet (p : Packet)
  /-- R309: Sets a port's hold time. -/
  | qmPortSet (p : Packet)
  /-- R305: Flushes a port's queues at once without changing its state. -/
  | qmPortFlush (p : Packet)
  /-- R334: Sets strict classes, length adjustment, quanta and port shaper. -/
  | schPortSet (p : Packet)
  /-- R335: Sets a queue shaper's rate and burst. -/
  | schQueueSet (p : Packet)
  /-- R335: Returns a port's scheduler state. -/
  | schGet (p : Packet)
  /-- R336: Loads an admin gate list and fixes its swap time. -/
  | gclSet (p : Packet)
  /-- R337: Removes a held or armed gate-list swap. -/
  | gclCancel (p : Packet)
  /-- R337: Returns a gate-list bank and its state. -/
  | gclGet (p : Packet)
  /-- R396: Updates a lane's Cemond record and commits it if in use. -/
  | cemondSet (p : Packet)
  /-- R396: Returns a lane's Cemond record for a rate. -/
  | cemondGet (p : Packet)
  /-- R397: Loads a whole Cemond table by DMA. -/
  | cemondLoad (p : Packet)
  /-- R398: Starts an eye scan on a lane. -/
  | eyeScanStart (p : Packet)
  /-- R398: Returns the points measured so far. -/
  | eyeScanGet (p : Packet)
  /-- R398: Ends an eye scan and keeps its results. -/
  | eyeScanStop (p : Packet)
  /-- R399: Sets a lane's pattern generator, checker and loopback. -/
  | laneTestSet (p : Packet)
  /-- R399: Returns a lane's registers and records. -/
  | laneStatusGet (p : Packet)
  /-- R428: Returns the whorl, bases and servo state. -/
  | timeGet (p : Packet)
  /-- R429: Sets network time by loading the active and next bases. -/
  | timeSet (p : Packet)
  /-- R430: Writes the increment and starts a phase slew. -/
  | timeAdj (p : Packet)
  /-- R431: Sets the servo mode and parameters. -/
  | timeServoSet (p : Packet)
  /-- R431: Returns the servo mode, state and statistics. -/
  | timeServoGet (p : Packet)
  /-- R432: Gives the network second of the next PPS_IN edge. -/
  | todHint (p : Packet)
  /-- R433: Configures and arms an event output at a network time. -/
  | timeEvtSet (p : Packet)
  /-- R433: Sets PPS_OUT enable and width. -/
  | timePpsSet (p : Packet)
  /-- R434: Configures a capture input. -/
  | timeCapSet (p : Packet)
  /-- R434: Returns capture records of a firmware-owned input. -/
  | timeCapGet (p : Packet)
  /-- R434: Configures a recovered-clock output. -/
  | timeRclkSet (p : Packet)
  /-- R454: Sets a port's BC domains and stamp trims. -/
  | ptpPortSet (p : Packet)
  /-- R454: Returns a port's time-stamping registers and counters. -/
  | ptpPortGet (p : Packet)
  /-- R455: Sets a timestamp ring's enable and owner. -/
  | tsRingSet (p : Packet)
  /-- R455: Sets the global one-step enable. -/
  | tsStpSet (p : Packet)
  /-- R469: Configures a mirror session. -/
  | mirSessionSet (p : Packet)
  /-- R469: Returns a mirror session and its counters. -/
  | mirSessionGet (p : Packet)
  /-- R470: Sets a port's mirror source masks. -/
  | mirPortSet (p : Packet)
  /-- R483: Takes a snapshot at once and reports its sequence and time. -/
  | snapshot (p : Packet)
  /-- R484: Transfers and returns counter-array totals, optionally clearing them. -/
  | cntRead (p : Packet)
  /-- R577: Configures, enables or stops a host DMA ring. -/
  | dmaRingSet (p : Packet)
  /-- R577: Returns a DMA ring's registers and counters. -/
  | dmaRingGet (p : Packet)
  /-- R578: Returns the management tree's nodes and links. -/
  | treeStatusGet (p : Packet)
  /-- R578: Returns a node's Rhogen port state and counters. -/
  | rlStatusGet (p : Packet)
  /-- R603: Writes and verifies an image into a flash slot. -/
  | fwImageWrite (p : Packet)
  /-- R604: Starts a trial, commit, revert or next-power-on activation of an image. -/
  | fwActivate (p : Packet)
  /-- R605: Returns image slots, boot record and boot state. -/
  | fwStatusGet (p : Packet)
  /-- R605: Returns every protection register and channel binding. -/
  | protStatusGet (p : Packet)
  /-- R628: Writes the host area of the keep store in an energy-checked session. -/
  | ksWrite (p : Packet)
  /-- R629: Reads a keep-store area by DMA. -/
  | ksRead (p : Packet)
  /-- R630: Returns capacitor, energy and save status. -/
  | holdupStatusGet (p : Packet)
  /-- R630: Returns sensor readings, Tj and thermal level. -/
  | thmGet (p : Packet)
  /-- R571: The endpoint's PCIe data link layer comes up, latching the device into the root role for the rest of the power-on. -/
  | pcieDataLinkUp (bme msixOn fnMask : Bool) (vecMask : Nat)
  /-- R609: VDD stays below 0.66 V for 1 µs and PWR_STAT.VDD_UV sets. -/
  | vddUndervoltage
  /-- R654: After a power-on reset VHOLD first reaches 4.0 V, from which sag handling under R610 applies. -/
  | vholdFirstCharge
  /-- R570: A Rhogen port's receiver gains 64b/66b block lock and starts sending HELLO every 1 µs. -/
  | rhogenBlockLock (k : Nat)
  deriving DecidableEq, Repr

end Sys2Proof
end

