-- ==== Sys2Proof/Decode.lean ====
section
/-!
DEFINITION. Words that spell commands. The block has no instruction decoder, and the rows of its opcode table give no bits: no word spells a
command. What a command packet's bytes mean is in Machine/Mailbox.lean and Machine/Layouts.lean.
-/
namespace Sys2Proof

/-- The command that a word spells by the table's bits: none, since no row of the table gives bits. -/
def decodeTableWord (_nbits _w : Nat) : Option Instr := none

end Sys2Proof
end

