-- ==== Sys2Proof/Machine/Bytes.lean ====
section
/-!
DEFINITION. Byte strings: byte order (R15), the check codes the chapters name (R120, R247, R360, R384), and the encoding
of command-packet parameters (R491).
-/
namespace Sys2Proof.Machine
open Sys2Proof

/-! Byte order. -/

/-- The number a byte string spells with its least significant byte first (R15). -/
def leNat : List Byte → Nat
  | [] => 0
  | b :: t => b.toNat + 256 * leNat t

/-- The number a byte string spells in wire order, most significant byte first. -/
def beNat (bs : List Byte) : Nat := bs.foldl (fun n b => 256 * n + b.toNat) 0

/-- `n` bytes of `v`, least significant first. -/
def leBytes : Nat → Nat → List Byte
  | 0, _ => []
  | n + 1, v => byte v :: leBytes n (v / 256)

/-- `n` bytes of `v` in wire order. -/
def beBytes (n v : Nat) : List Byte := (leBytes n v).reverse

/-- Bytes `k` to `k + n - 1`; bytes beyond the end read as zero. -/
def slice (bs : List Byte) (k n : Nat) : List Byte :=
  let t := (bs.drop k).take n
  t ++ List.replicate (n - t.length) 0

/-- The `n`-byte wire-order number at offset `k`. -/
def beAt (bs : List Byte) (k n : Nat) : Nat := beNat (slice bs k n)

/-- The `n`-byte little-endian number at offset `k`. -/
def leAt (bs : List Byte) (k n : Nat) : Nat := leNat (slice bs k n)

/-- Replace the bytes from offset `k` by `new`, inside the string's length. -/
def patch (bs : List Byte) (k : Nat) (new : List Byte) : List Byte :=
  let room := bs.length - k
  bs.take k ++ (new.take room) ++ bs.drop (k + (new.take room).length)

/-- The bits `hi` to `lo` of a number. -/
def bitsOf (v hi lo : Nat) : Nat := (v >>> lo) % 2 ^ (hi - lo + 1)

/-- The number with its bits `hi` to `lo` replaced by `x`. -/
def setBits (v hi lo x : Nat) : Nat :=
  let w := 2 ^ (hi - lo + 1)
  (v / 2 ^ (hi + 1)) * 2 ^ (hi + 1) + (x % w) * 2 ^ lo + v % 2 ^ lo

/-- Bit `k` of a number. -/
def bit (v k : Nat) : Bool := v.testBit k

/-- A Boolean as a bit. -/
def b2n (b : Bool) : Nat := if b then 1 else 0

/-- The two's-complement value of the low `w` bits. -/
def toSigned (w v : Nat) : Int :=
  let u := v % 2 ^ w
  if u < 2 ^ (w - 1) then (u : Int) else (u : Int) - (2 ^ w : Nat)

/-- The `w`-bit two's-complement word of an integer. -/
def ofSigned (w : Nat) (x : Int) : Nat := (x % (2 ^ w : Nat)).toNat

/-- Ceiling division. -/
def cdiv (a b : Nat) : Nat := (a + b - 1) / b

/-- The number of ones among the low `w` bits. -/
def popCount : Nat → Nat → Nat
  | 0, _ => 0
  | w + 1, v => v % 2 + popCount w (v / 2)

/-- The indices below `w` whose bit is set, in rising order. -/
def onesOf (w v : Nat) : List Nat := (List.range w).filter fun k => v.testBit k

/-! Check codes. -/

/-- Eight steps of a reflected CRC with polynomial `p`. -/
def crcBits (p : Nat) : Nat → Nat → Nat
  | 0, c => c
  | n + 1, c => crcBits p n ((c >>> 1) ^^^ (if c % 2 = 1 then p else 0))

/-- A reflected CRC over bytes, from register value `c`, without final inversion. -/
def crcReflected (p : Nat) (c : Nat) (bs : List Byte) : Nat :=
  bs.foldl (fun c b => crcBits p 8 (c ^^^ b.toNat)) c

/-- The CRC-32 of IEEE 802.3 (R247). -/
def crc32 (bs : List Byte) : Nat := crcReflected 0xEDB88320 0xFFFFFFFF bs ^^^ 0xFFFFFFFF

/-- The CRC-32C of R120 with initial register `seed` and no final inversion. -/
def crc32c (seed : Nat) (bs : List Byte) : Nat := crcReflected 0x82F63B78 seed bs

/-- `n` steps of an unreflected CRC of width `w` with polynomial `p`. -/
def crcMsbBits (w p : Nat) : Nat → Nat → Nat
  | 0, c => c
  | n + 1, c => crcMsbBits w p n (((c <<< 1) ^^^ (if c.testBit (w - 1) then p else 0)) % 2 ^ w)

/-- An unreflected CRC of width `w` over bytes, from register value `c`. -/
def crcMsb (w p c : Nat) (bs : List Byte) : Nat :=
  bs.foldl (fun c b => crcMsbBits w p 8 (c ^^^ (b.toNat <<< (w - 8)))) c

/-- The CRC-16 of the wake patterns (R360). -/
def crc16 (bs : List Byte) : Nat := crcMsb 16 0x1021 0xFFFF bs

/-- The CRC-8 of the resume marker (R388). -/
def crc8 (bs : List Byte) : Nat := crcMsb 8 0x07 0 bs

/-! Parameter encoding (R491). -/

/-- The kinds of parameter of R491: numbers of up to 64 bits, wider fields, signed numbers, MAC and IP addresses, flags and
DMA references (R493). -/
inductive Ty where
  | u (bits : Nat) | wide (bits : Nat) | s (bits : Nat) | mac | ip4 | ip6 | flag | dma
  deriving DecidableEq, Repr

/-- The bytes of a number of up to 64 bits (R491 rule 1). -/
def numBytes (bits : Nat) : Nat := if bits ≤ 8 then 1 else if bits ≤ 16 then 2 else if bits ≤ 32 then 4 else 8

/-- The bytes a parameter occupies. -/
def Ty.size : Ty → Nat
  | .u b | .s b => numBytes b
  | .wide b => 2 * cdiv b 16
  | .mac => 8 | .ip4 => 4 | .ip6 => 16 | .flag => 1 | .dma => 16

/-- The multiple at which a parameter starts. -/
def Ty.align : Ty → Nat
  | .u b | .s b => numBytes b
  | .wide _ | .mac | .ip6 | .dma => 8
  | .ip4 => 4 | .flag => 1

/-- The value a parameter's bytes spell. A MAC or IP address is the number of its bytes in wire order. -/
def Ty.decode (t : Ty) (bs : List Byte) : Nat :=
  match t with
  | .mac => beNat (bs.take 6)
  | .ip4 | .ip6 => beNat bs
  | _ => leNat bs

/-- Whether a parameter's unused high bits or bytes are nonzero (R491, R492). -/
def Ty.reservedBad (t : Ty) (bs : List Byte) : Bool :=
  match t with
  | .u b | .wide b => decide (2 ^ b ≤ leNat bs)
  | .flag => decide (2 ≤ leNat bs)
  | .mac => decide (leNat (bs.drop 6) ≠ 0)
  | .dma => decide (2 ^ 97 ≤ leNat bs)
  | .s b => let sz := 8 * numBytes b
            decide (ofSigned sz (toSigned b (leNat bs)) ≠ leNat bs)
  | .ip4 | .ip6 => false

/-- The bytes of a parameter. -/
def Ty.encode (t : Ty) (v : Nat) : List Byte :=
  match t with
  | .mac => beBytes 6 v ++ [0, 0]
  | .ip4 => beBytes 4 v
  | .ip6 => beBytes 16 v
  | t => leBytes t.size v

/-- The bytes skipped from offset `pos` to a multiple of `a`. -/
def padTo (a pos : Nat) : Nat := (a - pos % a) % a

/-- What a parameter block holds: the values in order, and whether a reserved byte or bit is nonzero. -/
structure Args where
  vals : List Nat := []
  bad : Bool := false
  size : Nat := 0
  deriving DecidableEq, Repr

/-- Value `k` of a parameter block. -/
def Args.n (a : Args) (k : Nat) : Nat := a.vals.getD k 0

/-- Flag `k` of a parameter block. -/
def Args.f (a : Args) (k : Nat) : Bool := decide (a.vals.getD k 0 ≠ 0)

/-- Signed value `k`, of `bits` bits. -/
def Args.i (a : Args) (k bits : Nat) : Int := toSigned bits (a.vals.getD k 0)

/-- Read parameters by their layout from offset `pos` of a block. -/
def parseFrom (ps : List Byte) : List Ty → Nat → Args
  | [], pos => { size := pos }
  | t :: ts, pos =>
    let pad := padTo t.align pos
    let at_ := pos + pad
    let bs := slice ps at_ t.size
    let rest := parseFrom ps ts (at_ + t.size)
    { vals := t.decode bs :: rest.vals
      bad := (decide (leNat (slice ps pos pad) ≠ 0)) || t.reservedBad bs || rest.bad
      size := rest.size }

/-- Read a whole parameter block: its fields, then zero padding to a multiple of 4. -/
def parseBlock (ts : List Ty) (ps : List Byte) : Args :=
  let a := parseFrom ps ts 0
  let pad := padTo 4 a.size
  { a with bad := a.bad || decide (leNat (slice ps a.size pad) ≠ 0), size := a.size + pad }

/-- Write parameters by their layout, from offset `pos`. -/
def emitFrom : List (Ty × Nat) → Nat → List Byte
  | [], _ => []
  | (t, v) :: ts, pos =>
    let pad := padTo t.align pos
    List.replicate pad 0 ++ t.encode v ++ emitFrom ts (pos + pad + t.size)

/-- Write a whole reply block, padded to a multiple of 4. -/
def emitBlock (fs : List (Ty × Nat)) : List Byte :=
  let bs := emitFrom fs 0
  bs ++ List.replicate (padTo 4 bs.length) 0

end Sys2Proof.Machine
end

