-- ==== Sys2Proof/Config.lean ====
section
/-!
DEFINITION. What an implementation fixes: the ordering codes and the resources each provides (R7, R8, R12, R17), the
master figures (R27), and the free values: opaque constants that stand for the values the spec leaves undefined.
-/
namespace Sys2Proof.Config

/-- The ordering codes of R7. -/
inductive Code where
  | f | h | q
  deriving DecidableEq, Repr

/-- GLB_ID.CODE of an ordering code (R12). -/
def Code.num : Code → Nat
  | .f => 0 | .h => 1 | .q => 2

/-- Active quadrants (R7). -/
def Code.quads : Code → Nat
  | .f => 4 | .h => 2 | .q => 1

/-- Active slices (R7). -/
def Code.slices (c : Code) : Nat := 8 * c.quads

/-- Active lanes, and front port numbers (R7). -/
def Code.lanes (c : Code) : Nat := 128 * c.quads

/-- HBM stacks (R7). -/
def Code.stacks (c : Code) : Nat := 2 * c.quads

/-- Deep-tier sustained traffic in Mbit/s: 5.6 Tbit/s per stack (R7, R9). -/
def Code.deepMbps (c : Code) : Nat := 5600000 * c.stacks

/-- Whether logical port `p` exists: a front port of the code or one of the internal ports 512 to 515 (R7, R8). -/
def Code.hasPort (c : Code) (p : Nat) : Bool := p < c.lanes || (512 ≤ p && p < 516)

/-! Master figures (R27, R45). -/

/-- Slots in a sample interval. -/
def sampleSlots : Nat := 2 ^ 10
/-- Slots in an epoch. -/
def epochSlots : Nat := 2 ^ 20
/-- Slots in a second: 640 ps each. -/
def slotsPerSec : Nat := 1562500000
/-- Cells in a slice. -/
def cellsPerSlice : Nat := 65536
/-- Bytes in a cell. -/
def cellBytes : Nat := 128
/-- Pages in a stack. -/
def pagesPerStack : Nat := 2 ^ 22
/-- Logical ports numbered by the device. -/
def ports : Nat := 516
/-- Queues numbered by the device. -/
def queues : Nat := 8256
/-- The nominal whorl increment, Q8.32 ns per slot (R404). -/
def nominalInc : Nat := 0xA3D70A3D
/-- The bounds of the effective increment (R405). -/
def incMin : Nat := 0x90000000
def incMax : Nat := 0xB8000000

/-! Placement (R17). -/

/-- The slice of a port: its lane's slice for a front port, and the slices R22 gives the internal ports. -/
def sliceOf (p : Nat) : Nat := if p < 512 then p / 16 else if p = 514 then 1 else if p = 515 then 2 else 0

/-- The quadrant of a slice. -/
def quadOfSlice (s : Nat) : Nat := s / 8

/-- The quadrant of a port. -/
def quadOf (p : Nat) : Nat := quadOfSlice (sliceOf p)

/-- The queue of a port, class and unicast or multicast (R17). -/
def queueOf (p c : Nat) (mc : Bool) : Nat := 16 * p + c + (if mc then 8 else 0)

/-- The port of a queue. -/
def portOfQueue (q : Nat) : Nat := q / 16

/-! Free values. Nothing can evaluate them: a statement about one holds for every value. The argument is the draw counter
of the state, so that two draws are independent. -/

/-- A 32-bit value the spec leaves undefined. -/
opaque freeWord : Nat → BitVec 32

/-- A number the spec leaves undefined. -/
opaque freeNat : Nat → Nat

/-- A byte the spec leaves undefined, by draw and position. -/
opaque freeByte : Nat → Nat → BitVec 8

/-! Functions that R588 names and other standards define. They too have no body here. -/

/-- The SHA3-256 digest of a byte string, as a number. -/
opaque sha3 : List (BitVec 8) → Nat

/-- ML-DSA.Verify of FIPS 204 at parameter set ML-DSA-87 with an empty context: public key, message, signature. -/
opaque mlDsaVerify : List (BitVec 8) → List (BitVec 8) → List (BitVec 8) → Bool

end Sys2Proof.Config
end

