-- ==== Sys2Proof/Machine/Map.lean ====
section
/-!
DEFINITION. Sparse tables: a table of the hardware with many entries is held as the list of the entries that differ from
the table's reset contents, sorted by index without repeats, so that equal tables are equal data. `d` gives the reset
contents of each index.
-/
namespace Sys2Proof.Machine

/-- A sparse table: (index, value) pairs. -/
abbrev Table (V : Type) := List (Nat × V)

namespace Table

/-- The value at index `k`; an index not listed holds its reset contents. -/
def get {V : Type} (d : Nat → V) : Table V → Nat → V
  | [], k => d k
  | (j, v) :: t, k => if j = k then v else if k < j then d k else get d t k

/-- The table with nothing at index `k` listed. -/
def erase {V : Type} : Table V → Nat → Table V
  | [], _ => []
  | (j, v) :: t, k => if j = k then t else if k < j then (j, v) :: t else (j, v) :: erase t k

/-- The table with `v` listed at index `k`. -/
def insert {V : Type} : Table V → Nat → V → Table V
  | [], k, v => [(k, v)]
  | (j, u) :: t, k, v =>
    if j = k then (k, v) :: t else if k < j then (k, v) :: (j, u) :: t else (j, u) :: insert t k v

/-- Write `v` at index `k`: writing the reset contents unlists the index. -/
def set {V : Type} [DecidableEq V] (d : Nat → V) (t : Table V) (k : Nat) (v : V) : Table V :=
  if v = d k then erase t k else insert t k v

/-- Indices strictly rise from `lo` on. -/
def sortedFrom {V : Type} : Nat → Table V → Bool
  | _, [] => true
  | lo, (j, _) :: t => decide (lo ≤ j) && sortedFrom (j + 1) t

/-- No listed entry holds the reset contents of its index. -/
def noDefault {V : Type} [DecidableEq V] (d : Nat → V) (t : Table V) : Bool :=
  t.all fun e => !decide (e.2 = d e.1)

/-- The canonical form of a table. -/
def wf {V : Type} [DecidableEq V] (d : Nat → V) (t : Table V) : Bool :=
  sortedFrom 0 t && noDefault d t

/-- The listed entries that satisfy `p` stay; the others return to their reset contents. -/
def keep {V : Type} (p : Nat → V → Bool) (t : Table V) : Table V := t.filter fun e => p e.1 e.2

/-- Change every listed entry; an entry that becomes its reset contents is unlisted. -/
def mapListed {V : Type} [DecidableEq V] (d : Nat → V) (f : Nat → V → V) (t : Table V) : Table V :=
  (t.map fun e => (e.1, f e.1 e.2)).filter fun e => !decide (e.2 = d e.1)

end Table

/-- A table whose entries are absent at reset. -/
abbrev OTable (V : Type) := Table V

namespace OTable

/-- The entry at index `k`, if there is one. -/
def get? {V : Type} : OTable V → Nat → Option V
  | [], _ => none
  | (j, v) :: t, k => if j = k then some v else if k < j then none else get? t k

/-- Whether there is an entry at index `k`. -/
def has {V : Type} (t : OTable V) (k : Nat) : Bool := (get? t k).isSome

/-- Change the entry at index `k`, if there is one. -/
def modify {V : Type} (f : V → V) : OTable V → Nat → OTable V
  | [], _ => []
  | (j, v) :: t, k => if j = k then (j, f v) :: t else if k < j then (j, v) :: t else (j, v) :: modify f t k

/-- The canonical form: indices strictly rise. -/
def wf {V : Type} (t : OTable V) : Bool := Table.sortedFrom 0 t

/-- The lowest index not listed from `k` on, at most `fuel` further. -/
def firstFree {V : Type} : OTable V → Nat → Nat
  | [], k => k
  | (j, _) :: t, k => if j = k then firstFree t (k + 1) else if k < j then k else firstFree t k

end OTable

end Sys2Proof.Machine
end

