-- ==== Sys2Proof/Machine/Regs.lean ====
section
/-!
DEFINITION. The register file of R534 and of every chapter's register table: the names of the registers, the window and
offset of each, its index ranges, its reset value and, bit by bit, its access codes (R16); and the named fields.
Rows follow the spec's register tables in the order of the chapters.
-/
namespace Sys2Proof.Machine

/-- The registers, one constructor per row of the spec's register tables. -/
inductive Reg where
  | glbId | glbDevid | glbQpresent | glbSpresent | tickCtl | tickStat | tickSlotLo | tickSlotHi | tickEpoch | tickSchArmed
  | tickSchDone | tickSchMissed | tickSchTgt | tickSchAct | tickSchAddr | tickSchData | macMode | macModeStat | qmQmode | prsCtl
  | prsTpid | prsStat | prsIe | prsDispSat | prsPortcfg | prsPortprof | prsHdrbuf | clsCtl | clsStat | clsErrIdx | clsIe
  | clsValid | clsDscpMap | clsPcpMap | polStat | polIe | polErrIdx | tbCtl | tbStat | tbIe | tbErrIdx | tbOcc | tbOccStatic
  | tbLearnq | tbAgeCfg | tbAgeStat | tbHashSeed | tbLearnCnt | tbMoveCnt | tbAgedCnt | tbLearnOvfCnt | tbLearnFullCnt | tbConflictCnt
  | tbLimitCnt | tbNoticeLostCnt | tbAgeLost | tbPortLearn | tbPortDyn | fwdFloodUcCnt | fwdFloodMcCnt | fwdPfxSel | fwdPfxCtl
  | fwdStat | fwdIe | fwdErrIdx | fwdPfxOcc | fwdPfxBusy | fwdEcmpSeed | fwdEcmpCfg | fwdRoutedCnt | fwdL3TrapCnt | fwdPfxBankFree
  | fabStgCfg | fabStgLossy | fabStat | fabIe | fabErrAddr | fabStgOcc | fabWrStat | fabStgDropCnt | fabSpillCnt | fabCutCnt
  | fabStompCnt | fabUnderrunCnt | fabLenOverCnt | fabCreditSat | cbCtl | cbStat | cbIe | cbErrAddr | cbErrTags | cbFree
  | cbResv | cbFreeing | cbQuar | cbRetired | cbReclaim | cbScrubPos | cbPoolFloor | cbPoolCeil | cbPoolHeld | cbAllocFailCnt
  | cbDfreeCnt | cbNonownerCnt | cbPtrErrCnt | cbEccCeCnt | cbEccUeCnt | cbXferCnt | cbLeakCnt | cbReclaimCnt | cbErrLostCnt
  | dtCtl | dtStat | dtIe | dtErrAddr | dtErrInfo | dtShared | dtWbufOcc | dtEnterCnt | dtExitCnt | dtPageWrCnt | dtPageRdCnt
  | dtRbWaitCnt | dtBwSatCnt | dtCeCnt | dtScrubFixCnt | dtSpillPgCnt | dtStkStat | dtStkFree | dtStkRetpg | dtStkCeCnt | dtStkUeCnt
  | dtQcfgRsv | dtQcfgMax | dtQcfgRb | dtQstat | qmStat | qmIe | qmLlc | qmPushCnt | qmPushFailCnt | qmLlWaitCnt | qmFlushCnt
  | qmPortCfg | qmQpool | qmPortStat | qmQlim | qmQdepth | fcCfg | fcStat | fcEvt | fcIe | fcTxCnt | fcRxCnt | fcRxIgnCnt
  | schPortCfg | schPshpRate | schPshpBurst | schPshpCred | schStat | schIe | schShpBlk | schClsQuant | schQshpRate | schQshpBurst
  | schQshpCred | schGateWaitCnt | schGclOverrunCnt | schShapeWaitCnt | schDepthMinInv | schDepthMax | schDepthSumLo | schDepthSumHi
  | schDelayMinInv | schDelayMax | schDelaySumLo | schDelaySumHi | schDelayCnt | schSampEpochs | gclStat | gclIe | gclGuard
  | gclOperCycle | gclOperLen | gclOperPos | gclCycStart | gclSwapTgt | gclSwapCtl | gclAdminCycle | gclOperMaxwin | gclAdminMaxwin
  | gclAdminDur | gclAdminGates | gclOperDur | gclOperGates | macPortCfg | macAddrLo | macAddrHi | macRxCfg | macLink | macStat
  | macIe | macWakeCtl | macRxfifo | macRxOkCnt | macRxOctLo | macRxOctHi | macRxUcCnt | macRxMcCnt | macRxBcCnt | macRxFcsErrCnt
  | macRxStompCnt | macRxRuntCnt | macRxOversizeCnt | macRxOvfCnt | macRxPcsErrCnt | macRxTruncCnt | macRxPauseCnt | macRxCtrlDropCnt
  | macRxStandbyCnt | macRxSizeCnt | macTxOkCnt | macTxOctLo | macTxOctHi | macTxUcCnt | macTxMcCnt | macTxBcCnt | macTxStompCnt
  | macTxAbortCnt | macTxCtrlCnt | macTxOversizeCnt | macTxPadCnt | macGateHoldCnt | macTxSizeCnt | macFecCorrCnt | macFecUncorrCnt
  | macPcsBlkErrCnt | macLinkDownCnt | macWakeCnt | macWakeMask | macWakePcfg | lnTest | lnStat | lnIe | lnRate | lnRxMap
  | lnFault | lnTxeq | lnTxcfg | lnRxcfg | lnFfe | lnCemCommit | lnCemId | lnEscanCfg | lnEscanErr | lnEscanUi | lnBipErrCnt
  | lnFecSymCnt | lnTestErrCnt | pcsIdleCfg | pcsStat | pcsIe | pcsState | pcsCwPhase | pcsIdleEntryCnt | pcsResumeFailCnt
  | tsCtl | tsStat | tsIe | tsWhorlNs | tsWhorlFrac | tsNtNs | tsNtSecLo | tsNtSecHi | tsIncFrac | tsIncNs | tsSlewDelta
  | tsSlewCount | tsBaseStgNs | tsBaseStgSlo | tsBaseStgShi | tsBaseCtl | tsBaseEvenNs | tsBaseEvenSlo | tsBaseEvenShi | tsBaseOddNs
  | tsBaseOddSlo | tsBaseOddShi | tsPpsCfg | tsStaleCnt | tsEvtCtl | tsEvtStart | tsEvtFrac | tsEvtPeriod | tsEvtWidth | tsEvtStat
  | tsCapCtl | tsCapNs | tsCapInfo | tsCapStat | tsCapOvfCnt | tsRclkCtl | tsRclkStat | tsStpCtl | tsStpStat | tsStpIe | tsOriginInvCnt
  | tsNoCfCnt | tsCfSatCnt | tsRingCtl | tsRingProd | tsRingCons | tsRingStat | tsRingOvfCnt | tsRingCnt | tsRingEnt | tsPortDomLo
  | tsPortDomHi | tsPortDomEn | tsPortTrim | tsPortCorrCnt | tsPortTermCnt | tsPortOriginCnt | tsPortBcPassCnt | mirStat
  | mirIe | mirSessCfg | mirSessTrunc | mirSessRate | mirSessBurst | mirEncDmacHi | mirEncDmacLo | mirEncSmacHi | mirEncSmacLo
  | mirEncL3 | mirEncUdp | mirEncSip | mirEncDip | mirCopyCnt | mirRateDropCnt | mirTruncCnt | mirPortSrc | cntCtl | cntStat
  | cntIe | cntSnap | cntSnapSeq | cntSnapWhorl | cntSnapInfo | cntSnapSlot | cntSnapSkip | cntXfer | mbStat | mbIe | mbErr
  | mbErrInfo | mbViolCnt | mbH2dDbLo | mbH2dDbHi | mbD2hDbLo | mbD2hDbHi | mbD2hIeLo | mbD2hIeHi | mbBind | mbInSlot | mbInCtl
  | mbInInc | mbInCinc | mbOutSlot | mbOutCtl | glbStat | glbIe | glbUpdInfo | glbAccAddr | glbAccInfo | glbUpdCnt | glbIntPendLo
  | glbIntPendHi | glbIntFiredLo | glbIntFiredHi | glbIntRoute | glbIntInst | dmaCtl | dmaStat | dmaIe | dmaErrInfo | dmaRxStat
  | dmaRxIe | dmaTxStat | dmaTxIe | dmaRxqMap | dmaRxBaseLo | dmaRxBaseHi | dmaRxCfg | dmaRxHead | dmaRxTail | dmaRxBuf | dmaRxNodescCnt
  | dmaRxFrameCnt | dmaTxBaseLo | dmaTxBaseHi | dmaTxCfg | dmaTxHead | dmaTxTail | dmaTxErrCnt | dmaTxFrameCnt | rlStat | rlIe
  | rlNodeIntLo | rlNodeIntHi | rlNodeValidLo | rlNodeValidHi | rlNodeIeLo | rlNodeIeHi | rlUnreachCnt | rlLostCnt | rlUnkCnt
  | rlPortStat | rlCrcErrCnt | rlReplayCnt | rlRoute | protCtl | protStat | protIe | protViolAddr | protViolInfo | protViolCnt
  | protRst | protWdt | protBoot | protDmaRevoke | protReqId | protReqCfg | protFwrBase | protFwrLimit | protFwrPerm | protDmaBaseLo
  | protDmaBaseHi | protDmaLimLo | protDmaLimHi | protDmaCfg | pwrCtl | pwrStat | pwrIe | pwrHoldV | pwrCap | pwrRail | pwrSagInfo
  | pwrSagCnt | ksStat | ksIe | ksSaveSeq | ksSaveLen | ksSessionCnt | ksRefuseCnt | thmCtl | thmStat | thmIe | thmMax | thmTemp
  deriving DecidableEq, Repr

/-- The block windows of R534. -/
inductive Win where
  | glb | tick | ts | mb | cnt | mir | prot | pwr | ks | thm | dma | rl | tb | tbPort | fwd | cls | pol | dt | prs | prsPort
  | fab | cb | qm | qmPort | mac | pcs | fc | sch | gcl | ln
  deriving DecidableEq, Repr

/-- What a register table says of one register: its window, its offset in the window, the (stride, count) pairs of its
index variables, its reset value, and the bits of each access code (R16). `ccOnly`: only the control complex writes it
(R538). -/
structure RegDesc where
  win : Win
  off : Nat
  dims : List (Nat × Nat) := []
  reset : Nat := 0
  rw : Nat := 0
  w1c : Nat := 0
  sc : Nat := 0
  mw : Bool := false
  aliased : Bool := false
  rc : Bool := false
  ccOnly : Bool := false
  deriving DecidableEq, Repr

/-- A named field of a register: its lowest bit and its width. -/
structure Fld where
  reg : Reg
  lo : Nat
  width : Nat
  deriving DecidableEq, Repr

/-- The rows of the register tables. -/
def Reg.desc : Reg → RegDesc
  -- R38
  | .glbId => { win := .glb, off := 0 }
  | .glbDevid => { win := .glb, off := 4, rw := 0xFFF }
  | .glbQpresent => { win := .glb, off := 8 }
  | .glbSpresent => { win := .glb, off := 0xC }
  -- R66
  | .tickCtl => { win := .tick, off := 0, rw := 0xF }
  | .tickStat => { win := .tick, off := 4, w1c := 6 }
  | .tickSlotLo => { win := .tick, off := 8 }
  | .tickSlotHi => { win := .tick, off := 0xC }
  | .tickEpoch => { win := .tick, off := 0x10 }
  | .tickSchArmed => { win := .tick, off := 0x14 }
  | .tickSchDone => { win := .tick, off := 0x18, w1c := 0xFFFFFFFF }
  | .tickSchMissed => { win := .tick, off := 0x1C, w1c := 0xFFFFFFFF }
  | .tickSchTgt => { win := .tick, off := 0x100, dims := [(0x10, 32)], rw := 0xFFFFFFFF, ccOnly := true }
  | .tickSchAct => { win := .tick, off := 0x104, dims := [(0x10, 32)], rw := 0x8F00FFFF, ccOnly := true }
  | .tickSchAddr => { win := .tick, off := 0x108, dims := [(0x10, 32)], rw := 0xFFFFFFF, ccOnly := true }
  | .tickSchData => { win := .tick, off := 0x10C, dims := [(0x10, 32)], rw := 0xFFFFFFFF, ccOnly := true }
  -- R84
  | .macMode => { win := .mac, off := 0x40, rw := 0xFFB, mw := true, ccOnly := true }
  | .macModeStat => { win := .mac, off := 0x44, w1c := 0x10 }
  | .qmQmode => { win := .qmPort, off := 0x20, rw := 0xFFFF, mw := true, ccOnly := true }
  -- R116
  | .prsCtl => { win := .prs, off := 0, reset := 0x10, rw := 0x3F }
  | .prsTpid => { win := .prs, off := 4, reset := 0x88A88100, rw := 0xFFFFFFFF }
  | .prsStat => { win := .prs, off := 8, w1c := 7 }
  | .prsIe => { win := .prs, off := 0xC, rw := 7, aliased := true }
  | .prsDispSat => { win := .prs, off := 0x10, rc := true }
  | .prsPortcfg => { win := .prsPort, off := 0, reset := 1, rw := 0x1FFFFFF, ccOnly := true }
  | .prsPortprof => { win := .prsPort, off := 4, rw := 0x1FF, ccOnly := true }
  | .prsHdrbuf => { win := .prsPort, off := 8 }
  -- R117
  | .clsCtl => { win := .cls, off := 0, reset := 1, rw := 1 }
  | .clsStat => { win := .cls, off := 4, w1c := 7 }
  | .clsErrIdx => { win := .cls, off := 8 }
  | .clsIe => { win := .cls, off := 0xC, rw := 7, aliased := true }
  | .clsValid => { win := .cls, off := 0x10 }
  | .clsDscpMap => { win := .cls, off := 0x100, dims := [(0x20, 4), (4, 8)], rw := 0xFFFFFF }
  | .clsPcpMap => { win := .cls, off := 0x180, dims := [(4, 4)], reset := 0xFAC688, rw := 0xFFFFFF }
  -- R118
  | .polStat => { win := .pol, off := 0, w1c := 3 }
  | .polIe => { win := .pol, off := 4, rw := 3, aliased := true }
  | .polErrIdx => { win := .pol, off := 8 }
  -- R161
  | .tbCtl => { win := .tb, off := 0, reset := 1, rw := 1 }
  | .tbStat => { win := .tb, off := 4, w1c := 0x3F }
  | .tbIe => { win := .tb, off := 8, rw := 0x3F, aliased := true }
  | .tbErrIdx => { win := .tb, off := 0x18 }
  | .tbOcc => { win := .tb, off := 0x1C }
  | .tbOccStatic => { win := .tb, off := 0x20 }
  | .tbLearnq => { win := .tb, off := 0x24 }
  | .tbAgeCfg => { win := .tb, off := 0x28, rw := 0xC00FFFFF, ccOnly := true }
  | .tbAgeStat => { win := .tb, off := 0x2C }
  | .tbHashSeed => { win := .tb, off := 0x30, dims := [(4, 4)], rw := 0xFFFFFFFF, ccOnly := true }
  | .tbLearnCnt => { win := .tb, off := 0x40, rc := true }
  | .tbMoveCnt => { win := .tb, off := 0x44, rc := true }
  | .tbAgedCnt => { win := .tb, off := 0x48, rc := true }
  | .tbLearnOvfCnt => { win := .tb, off := 0x4C, rc := true }
  | .tbLearnFullCnt => { win := .tb, off := 0x50, rc := true }
  | .tbConflictCnt => { win := .tb, off := 0x54, rc := true }
  | .tbLimitCnt => { win := .tb, off := 0x58, rc := true }
  | .tbNoticeLostCnt => { win := .tb, off := 0x5C, rc := true }
  | .tbAgeLost => { win := .tb, off := 0x60, rc := true }
  | .tbPortLearn => { win := .tbPort, off := 0, reset := 1, rw := 0xFFFFF803, ccOnly := true }
  | .tbPortDyn => { win := .tbPort, off := 4 }
  | .fwdFloodUcCnt => { win := .fwd, off := 0, rc := true }
  | .fwdFloodMcCnt => { win := .fwd, off := 4, rc := true }
  -- R193
  | .fwdPfxSel => { win := .fwd, off := 0x10, reset := 0x10000000, rw := 0x3F0F1F0F, ccOnly := true }
  | .fwdPfxCtl => { win := .fwd, off := 0x14, reset := 1, rw := 1 }
  | .fwdStat => { win := .fwd, off := 0x18, w1c := 0x1F }
  | .fwdIe => { win := .fwd, off := 0x1C, rw := 0x1F, aliased := true }
  | .fwdErrIdx => { win := .fwd, off := 0x20 }
  | .fwdPfxOcc => { win := .fwd, off := 0x24 }
  | .fwdPfxBusy => { win := .fwd, off := 0x28 }
  | .fwdEcmpSeed => { win := .fwd, off := 0x2C, reset := 0x5A5AA5A5, rw := 0xFFFFFFFF, ccOnly := true }
  | .fwdEcmpCfg => { win := .fwd, off := 0x30, reset := 0x1F, rw := 0x3F, ccOnly := true }
  | .fwdRoutedCnt => { win := .fwd, off := 0x40, rc := true }
  | .fwdL3TrapCnt => { win := .fwd, off := 0x44, rc := true }
  | .fwdPfxBankFree => { win := .fwd, off := 0x400, dims := [(4, 256)], reset := 0x400 }
  -- R220
  | .fabStgCfg => { win := .fab, off := 0, reset := 0x800100, rw := 0x1FFF1FFF, ccOnly := true }
  | .fabStgLossy => { win := .fab, off := 4, reset := 0x1000, rw := 0x7FFF }
  | .fabStat => { win := .fab, off := 8, w1c := 0x3F }
  | .fabIe => { win := .fab, off := 0xC, rw := 0x3F, aliased := true }
  | .fabErrAddr => { win := .fab, off := 0x10 }
  | .fabStgOcc => { win := .fab, off := 0x14 }
  | .fabWrStat => { win := .fab, off := 0x18, reset := 0xC0000 }
  | .fabStgDropCnt => { win := .fab, off := 0x40, rc := true }
  | .fabSpillCnt => { win := .fab, off := 0x44, rc := true }
  | .fabCutCnt => { win := .fab, off := 0x48, rc := true }
  | .fabStompCnt => { win := .fab, off := 0x4C, rc := true }
  | .fabUnderrunCnt => { win := .fab, off := 0x50, rc := true }
  | .fabLenOverCnt => { win := .fab, off := 0x54, rc := true }
  | .fabCreditSat => { win := .fab, off := 0x58, rc := true }
  -- R255
  | .cbCtl => { win := .cb, off := 0, reset := 1, rw := 0x71, ccOnly := true }
  | .cbStat => { win := .cb, off := 4, w1c := 0x7FF }
  | .cbIe => { win := .cb, off := 8, rw := 0x7FF, aliased := true }
  | .cbErrAddr => { win := .cb, off := 0xC }
  | .cbErrTags => { win := .cb, off := 0x10 }
  | .cbFree => { win := .cb, off := 0x14 }
  | .cbResv => { win := .cb, off := 0x18 }
  | .cbFreeing => { win := .cb, off := 0x1C }
  | .cbQuar => { win := .cb, off := 0x20 }
  | .cbRetired => { win := .cb, off := 0x24 }
  | .cbReclaim => { win := .cb, off := 0x28 }
  | .cbScrubPos => { win := .cb, off := 0x2C }
  | .cbPoolFloor => { win := .cb, off := 0x40, dims := [(0x10, 4)], rw := 0x1FFFF, ccOnly := true }
  | .cbPoolCeil => { win := .cb, off := 0x44, dims := [(0x10, 4)], reset := 0x10000, rw := 0x1FFFF, ccOnly := true }
  | .cbPoolHeld => { win := .cb, off := 0x48, dims := [(0x10, 4)] }
  | .cbAllocFailCnt => { win := .cb, off := 0x80, rc := true }
  | .cbDfreeCnt => { win := .cb, off := 0x84, rc := true }
  | .cbNonownerCnt => { win := .cb, off := 0x88, rc := true }
  | .cbPtrErrCnt => { win := .cb, off := 0x8C, rc := true }
  | .cbEccCeCnt => { win := .cb, off := 0x90, rc := true }
  | .cbEccUeCnt => { win := .cb, off := 0x94, rc := true }
  | .cbXferCnt => { win := .cb, off := 0x98, rc := true }
  | .cbLeakCnt => { win := .cb, off := 0x9C, rc := true }
  | .cbReclaimCnt => { win := .cb, off := 0xA0, rc := true }
  | .cbErrLostCnt => { win := .cb, off := 0xA4, rc := true }
  -- R285
  | .dtCtl => { win := .dt, off := 0, reset := 0x40009400, rw := 0xFFFFF7FF, ccOnly := true }
  | .dtStat => { win := .dt, off := 4, w1c := 0xFF }
  | .dtIe => { win := .dt, off := 8, rw := 0xFF, aliased := true }
  | .dtErrAddr => { win := .dt, off := 0xC }
  | .dtErrInfo => { win := .dt, off := 0x10 }
  | .dtShared => { win := .dt, off := 0x14 }
  | .dtWbufOcc => { win := .dt, off := 0x18 }
  | .dtEnterCnt => { win := .dt, off := 0x40, rc := true }
  | .dtExitCnt => { win := .dt, off := 0x44, rc := true }
  | .dtPageWrCnt => { win := .dt, off := 0x48, rc := true }
  | .dtPageRdCnt => { win := .dt, off := 0x4C, rc := true }
  | .dtRbWaitCnt => { win := .dt, off := 0x50, rc := true }
  | .dtBwSatCnt => { win := .dt, off := 0x54, rc := true }
  | .dtCeCnt => { win := .dt, off := 0x58, rc := true }
  | .dtScrubFixCnt => { win := .dt, off := 0x5C, rc := true }
  | .dtSpillPgCnt => { win := .dt, off := 0x60, rc := true }
  | .dtStkStat => { win := .dt, off := 0x100, dims := [(0x20, 2)] }
  | .dtStkFree => { win := .dt, off := 0x104, dims := [(0x20, 2)] }
  | .dtStkRetpg => { win := .dt, off := 0x108, dims := [(0x20, 2)] }
  | .dtStkCeCnt => { win := .dt, off := 0x10C, dims := [(0x20, 2)], rc := true }
  | .dtStkUeCnt => { win := .dt, off := 0x110, dims := [(0x20, 2)], rc := true }
  | .dtQcfgRsv => { win := .dt, off := 0x10000, dims := [(0x10, 8256)], rw := 0x7FFFFF, ccOnly := true }
  | .dtQcfgMax => { win := .dt, off := 0x10004, dims := [(0x10, 8256)], reset := 0x100000, rw := 0x7FFFFF, ccOnly := true }
  | .dtQcfgRb => { win := .dt, off := 0x10008, dims := [(0x10, 8256)], reset := 0x200010, rw := 0xFFF0FFF, ccOnly := true }
  | .dtQstat => { win := .dt, off := 0x1000C, dims := [(0x10, 8256)] }
  -- R310
  | .qmStat => { win := .qm, off := 0, w1c := 7 }
  | .qmIe => { win := .qm, off := 4, rw := 7, aliased := true }
  | .qmLlc => { win := .qm, off := 8 }
  | .qmPushCnt => { win := .qm, off := 0x40, rc := true }
  | .qmPushFailCnt => { win := .qm, off := 0x44, rc := true }
  | .qmLlWaitCnt => { win := .qm, off := 0x48, rc := true }
  | .qmFlushCnt => { win := .qm, off := 0x4C, rc := true }
  | .qmPortCfg => { win := .qmPort, off := 0, rw := 3, ccOnly := true }
  | .qmQpool => { win := .qmPort, off := 4, reset := 0xAAAAAAAA, rw := 0xFFFFFFFF, ccOnly := true }
  | .qmPortStat => { win := .qmPort, off := 8 }
  | .qmQlim => { win := .qmPort, off := 0x40, dims := [(4, 16)], reset := 0x8810000, rw := 0xFF1FFFF, ccOnly := true }
  | .qmQdepth => { win := .qmPort, off := 0x80, dims := [(4, 16)] }
  -- R311
  | .fcCfg => { win := .fc, off := 0, reset := 0xFFFF0000, rw := 0xFFFF00FF, ccOnly := true }
  | .fcStat => { win := .fc, off := 4 }
  | .fcEvt => { win := .fc, off := 8, w1c := 3 }
  | .fcIe => { win := .fc, off := 0xC, rw := 3, aliased := true }
  | .fcTxCnt => { win := .fc, off := 0x40, rc := true }
  | .fcRxCnt => { win := .fc, off := 0x44, rc := true }
  | .fcRxIgnCnt => { win := .fc, off := 0x48, rc := true }
  -- R338
  | .schPortCfg => { win := .sch, off := 0, reset := 0xFF0014, rw := 0xFF007F, ccOnly := true }
  | .schPshpRate => { win := .sch, off := 4, rw := 0x1FFFFFF }
  | .schPshpBurst => { win := .sch, off := 8, reset := 0x2800, rw := 0xFFFFFF }
  | .schPshpCred => { win := .sch, off := 0xC }
  | .schStat => { win := .sch, off := 0x10, w1c := 7 }
  | .schIe => { win := .sch, off := 0x14, rw := 7, aliased := true }
  | .schShpBlk => { win := .sch, off := 0x18 }
  | .schClsQuant => { win := .sch, off := 0x20, dims := [(4, 8)], reset := 0x4000, rw := 0xFFFFF, ccOnly := true }
  | .schQshpRate => { win := .sch, off := 0x100, dims := [(0x10, 16)], rw := 0x1FFFFFF }
  | .schQshpBurst => { win := .sch, off := 0x104, dims := [(0x10, 16)], reset := 0x2800, rw := 0xFFFFFF }
  | .schQshpCred => { win := .sch, off := 0x108, dims := [(0x10, 16)] }
  | .schGateWaitCnt => { win := .sch, off := 0x200, rc := true }
  | .schGclOverrunCnt => { win := .sch, off := 0x204, rc := true }
  | .schShapeWaitCnt => { win := .sch, off := 0x208, rc := true }
  | .schDepthMinInv => { win := .sch, off := 0x400, dims := [(0x40, 16)], rc := true }
  | .schDepthMax => { win := .sch, off := 0x404, dims := [(0x40, 16)], rc := true }
  | .schDepthSumLo => { win := .sch, off := 0x408, dims := [(0x40, 16)], rc := true }
  | .schDepthSumHi => { win := .sch, off := 0x40C, dims := [(0x40, 16)], rc := true }
  | .schDelayMinInv => { win := .sch, off := 0x410, dims := [(0x40, 16)], rc := true }
  | .schDelayMax => { win := .sch, off := 0x414, dims := [(0x40, 16)], rc := true }
  | .schDelaySumLo => { win := .sch, off := 0x418, dims := [(0x40, 16)], rc := true }
  | .schDelaySumHi => { win := .sch, off := 0x41C, dims := [(0x40, 16)], rc := true }
  | .schDelayCnt => { win := .sch, off := 0x420, dims := [(0x40, 16)], rc := true }
  | .schSampEpochs => { win := .sch, off := 0x424, dims := [(0x40, 16)], rc := true }
  -- R339
  | .gclStat => { win := .gcl, off := 0, w1c := 0xC }
  | .gclIe => { win := .gcl, off := 4, rw := 0xC, aliased := true }
  | .gclGuard => { win := .gcl, off := 8, rw := 0xFFFF, ccOnly := true }
  | .gclOperCycle => { win := .gcl, off := 0xC }
  | .gclOperLen => { win := .gcl, off := 0x10 }
  | .gclOperPos => { win := .gcl, off := 0x14, reset := 0xFF0000 }
  | .gclCycStart => { win := .gcl, off := 0x18, rw := 0xFFFFFFFF, ccOnly := true }
  | .gclSwapTgt => { win := .gcl, off := 0x1C, rw := 0xFFFFFFFF, ccOnly := true }
  | .gclSwapCtl => { win := .gcl, off := 0x20, rw := 0x800007FF, ccOnly := true }
  | .gclAdminCycle => { win := .gcl, off := 0x24, rw := 0x3FFFFFFF, ccOnly := true }
  | .gclOperMaxwin => { win := .gcl, off := 0x40, dims := [(4, 8)], reset := 0xFFFFFFFF }
  | .gclAdminMaxwin => { win := .gcl, off := 0x60, dims := [(4, 8)], reset := 0xFFFFFFFF, rw := 0xFFFFFFFF, ccOnly := true }
  | .gclAdminDur => { win := .gcl, off := 0x1000, dims := [(8, 1024)], rw := 0x3FFFFFFF, ccOnly := true }
  | .gclAdminGates => { win := .gcl, off := 0x1004, dims := [(8, 1024)], rw := 0xFF, ccOnly := true }
  | .gclOperDur => { win := .gcl, off := 0x3000, dims := [(8, 1024)] }
  | .gclOperGates => { win := .gcl, off := 0x3004, dims := [(8, 1024)] }
  -- R368
  | .macPortCfg => { win := .mac, off := 0, reset := 0x2800, rw := 0x801F3FFF, ccOnly := true }
  | .macAddrLo => { win := .mac, off := 4, rw := 0xFFFFFFFF, ccOnly := true }
  | .macAddrHi => { win := .mac, off := 8, rw := 0xFFFF, ccOnly := true }
  | .macRxCfg => { win := .mac, off := 0xC, rw := 1, ccOnly := true }
  | .macLink => { win := .mac, off := 0x10 }
  | .macStat => { win := .mac, off := 0x14, w1c := 0x3F }
  | .macIe => { win := .mac, off := 0x18, rw := 0x3F, aliased := true }
  | .macWakeCtl => { win := .mac, off := 0x1C, rw := 0xFF, ccOnly := true }
  | .macRxfifo => { win := .mac, off := 0x20 }
  | .macRxOkCnt => { win := .mac, off := 0x100, rc := true }
  | .macRxOctLo => { win := .mac, off := 0x104, rc := true }
  | .macRxOctHi => { win := .mac, off := 0x108, rc := true }
  | .macRxUcCnt => { win := .mac, off := 0x10C, rc := true }
  | .macRxMcCnt => { win := .mac, off := 0x110, rc := true }
  | .macRxBcCnt => { win := .mac, off := 0x114, rc := true }
  | .macRxFcsErrCnt => { win := .mac, off := 0x118, rc := true }
  | .macRxStompCnt => { win := .mac, off := 0x11C, rc := true }
  | .macRxRuntCnt => { win := .mac, off := 0x120, rc := true }
  | .macRxOversizeCnt => { win := .mac, off := 0x124, rc := true }
  | .macRxOvfCnt => { win := .mac, off := 0x128, rc := true }
  | .macRxPcsErrCnt => { win := .mac, off := 0x12C, rc := true }
  | .macRxTruncCnt => { win := .mac, off := 0x130, rc := true }
  | .macRxPauseCnt => { win := .mac, off := 0x134, rc := true }
  | .macRxCtrlDropCnt => { win := .mac, off := 0x138, rc := true }
  | .macRxStandbyCnt => { win := .mac, off := 0x13C, rc := true }
  | .macRxSizeCnt => { win := .mac, off := 0x140, dims := [(4, 10)], rc := true }
  | .macTxOkCnt => { win := .mac, off := 0x180, rc := true }
  | .macTxOctLo => { win := .mac, off := 0x184, rc := true }
  | .macTxOctHi => { win := .mac, off := 0x188, rc := true }
  | .macTxUcCnt => { win := .mac, off := 0x18C, rc := true }
  | .macTxMcCnt => { win := .mac, off := 0x190, rc := true }
  | .macTxBcCnt => { win := .mac, off := 0x194, rc := true }
  | .macTxStompCnt => { win := .mac, off := 0x198, rc := true }
  | .macTxAbortCnt => { win := .mac, off := 0x19C, rc := true }
  | .macTxCtrlCnt => { win := .mac, off := 0x1A0, rc := true }
  | .macTxOversizeCnt => { win := .mac, off := 0x1A4, rc := true }
  | .macTxPadCnt => { win := .mac, off := 0x1A8, rc := true }
  | .macGateHoldCnt => { win := .mac, off := 0x1AC, rc := true }
  | .macTxSizeCnt => { win := .mac, off := 0x1C0, dims := [(4, 10)], rc := true }
  | .macFecCorrCnt => { win := .mac, off := 0x200, rc := true }
  | .macFecUncorrCnt => { win := .mac, off := 0x204, rc := true }
  | .macPcsBlkErrCnt => { win := .mac, off := 0x208, rc := true }
  | .macLinkDownCnt => { win := .mac, off := 0x20C, rc := true }
  | .macWakeCnt => { win := .mac, off := 0x210, rc := true }
  | .macWakeMask => { win := .mac, off := 0x300, dims := [(0x20, 8), (4, 4)], rw := 0xFFFFFFFF, ccOnly := true }
  | .macWakePcfg => { win := .mac, off := 0x310, dims := [(0x20, 8)], rw := 0xFFFFFF, ccOnly := true }
  -- R400
  | .lnTest => { win := .ln, off := 0, rw := 0x133, ccOnly := true }
  | .lnStat => { win := .ln, off := 4, w1c := 0xF00 }
  | .lnIe => { win := .ln, off := 8, rw := 0xF00, aliased := true }
  | .lnRate => { win := .ln, off := 0xC }
  | .lnRxMap => { win := .ln, off := 0x10 }
  | .lnFault => { win := .ln, off := 0x14 }
  | .lnTxeq => { win := .ln, off := 0x20, rw := 0xFFFFFFFF, ccOnly := true }
  | .lnTxcfg => { win := .ln, off := 0x24, rw := 0x33F, ccOnly := true }
  | .lnRxcfg => { win := .ln, off := 0x28, rw := 0x13F0F1F, ccOnly := true }
  | .lnFfe => { win := .ln, off := 0x30, dims := [(4, 3)], rw := 0xFFFFFFFF, ccOnly := true }
  | .lnCemCommit => { win := .ln, off := 0x40, sc := 1, ccOnly := true }
  | .lnCemId => { win := .ln, off := 0x44 }
  | .lnEscanCfg => { win := .ln, off := 0x50, reset := 0x100000, rw := 0x831FFF3F, ccOnly := true }
  | .lnEscanErr => { win := .ln, off := 0x58 }
  | .lnEscanUi => { win := .ln, off := 0x5C }
  | .lnBipErrCnt => { win := .ln, off := 0x80, rc := true }
  | .lnFecSymCnt => { win := .ln, off := 0x84, rc := true }
  | .lnTestErrCnt => { win := .ln, off := 0x88, rc := true }
  -- R401
  | .pcsIdleCfg => { win := .pcs, off := 0, reset := 0x400, rw := 0xFFFF, ccOnly := true }
  | .pcsStat => { win := .pcs, off := 4, w1c := 3 }
  | .pcsIe => { win := .pcs, off := 8, rw := 3, aliased := true }
  | .pcsState => { win := .pcs, off := 0xC }
  | .pcsCwPhase => { win := .pcs, off := 0x10 }
  | .pcsIdleEntryCnt => { win := .pcs, off := 0x40, rc := true }
  | .pcsResumeFailCnt => { win := .pcs, off := 0x44, rc := true }
  -- R435
  | .tsCtl => { win := .ts, off := 0, rw := 1, ccOnly := true }
  | .tsStat => { win := .ts, off := 4, w1c := 0xF8 }
  | .tsIe => { win := .ts, off := 8, rw := 0xF8, aliased := true }
  | .tsWhorlNs => { win := .ts, off := 0x10 }
  | .tsWhorlFrac => { win := .ts, off := 0x14 }
  | .tsNtNs => { win := .ts, off := 0x18 }
  | .tsNtSecLo => { win := .ts, off := 0x1C }
  | .tsNtSecHi => { win := .ts, off := 0x20 }
  | .tsIncFrac => { win := .ts, off := 0x30, reset := 0xA3D70A3D, rw := 0xFFFFFFFF }
  | .tsIncNs => { win := .ts, off := 0x34, rw := 0xFF }
  | .tsSlewDelta => { win := .ts, off := 0x38, rw := 0xFFFFFFFF }
  | .tsSlewCount => { win := .ts, off := 0x3C, rw := 0xFFFFFFFF }
  | .tsBaseStgNs => { win := .ts, off := 0x40, rw := 0xFFFFFFFF }
  | .tsBaseStgSlo => { win := .ts, off := 0x44, rw := 0xFFFFFFFF }
  | .tsBaseStgShi => { win := .ts, off := 0x48, rw := 0xFFFF }
  | .tsBaseCtl => { win := .ts, off := 0x4C, rw := 0x40000000, sc := 0x80000000 }
  | .tsBaseEvenNs => { win := .ts, off := 0x50 }
  | .tsBaseEvenSlo => { win := .ts, off := 0x54 }
  | .tsBaseEvenShi => { win := .ts, off := 0x58 }
  | .tsBaseOddNs => { win := .ts, off := 0x60 }
  | .tsBaseOddSlo => { win := .ts, off := 0x64 }
  | .tsBaseOddShi => { win := .ts, off := 0x68 }
  | .tsPpsCfg => { win := .ts, off := 0x70, reset := 0x5F5E100, rw := 0xBFFFFFFF, ccOnly := true }
  | .tsStaleCnt => { win := .ts, off := 0x80, rc := true }
  | .tsEvtCtl => { win := .ts, off := 0x100, dims := [(0x20, 8)], rw := 0x8000000E, ccOnly := true }
  | .tsEvtStart => { win := .ts, off := 0x104, dims := [(0x20, 8)], rw := 0xFFFFFFFF, ccOnly := true }
  | .tsEvtFrac => { win := .ts, off := 0x108, dims := [(0x20, 8)], rw := 0xFFFF, ccOnly := true }
  | .tsEvtPeriod => { win := .ts, off := 0x10C, dims := [(0x20, 8)], rw := 0x7FFFFFFF, ccOnly := true }
  | .tsEvtWidth => { win := .ts, off := 0x110, dims := [(0x20, 8)], rw := 0x7FFFFFFF, ccOnly := true }
  | .tsEvtStat => { win := .ts, off := 0x114, dims := [(0x20, 8)], w1c := 6 }
  | .tsCapCtl => { win := .ts, off := 0x200, dims := [(0x20, 5)], rw := 0x8000001E }
  | .tsCapNs => { win := .ts, off := 0x204, dims := [(0x20, 5)] }
  | .tsCapInfo => { win := .ts, off := 0x208, dims := [(0x20, 5)] }
  | .tsCapStat => { win := .ts, off := 0x20C, dims := [(0x20, 5)], w1c := 0x80000000 }
  | .tsCapOvfCnt => { win := .ts, off := 0x210, dims := [(0x20, 5)], rc := true }
  | .tsRclkCtl => { win := .ts, off := 0x300, dims := [(0x10, 2)], rw := 0x81FF0007, ccOnly := true }
  | .tsRclkStat => { win := .ts, off := 0x304, dims := [(0x10, 2)], reset := 1, w1c := 2 }
  -- R456
  | .tsStpCtl => { win := .ts, off := 0x1000, reset := 1, rw := 1, ccOnly := true }
  | .tsStpStat => { win := .ts, off := 0x1004, w1c := 0xF }
  | .tsStpIe => { win := .ts, off := 0x1008, rw := 0xF, aliased := true }
  | .tsOriginInvCnt => { win := .ts, off := 0x1040, rc := true }
  | .tsNoCfCnt => { win := .ts, off := 0x1044, rc := true }
  | .tsCfSatCnt => { win := .ts, off := 0x1048, rc := true }
  | .tsRingCtl => { win := .ts, off := 0x1100, dims := [(0x20, 4)], rw := 0x80000018, ccOnly := true }
  | .tsRingProd => { win := .ts, off := 0x1104, dims := [(0x20, 4)] }
  | .tsRingCons => { win := .ts, off := 0x1108, dims := [(0x20, 4)], rw := 0xFFFF }
  | .tsRingStat => { win := .ts, off := 0x110C, dims := [(0x20, 4)], w1c := 0x80000000 }
  | .tsRingOvfCnt => { win := .ts, off := 0x1110, dims := [(0x20, 4)], rc := true }
  | .tsRingCnt => { win := .ts, off := 0x1114, dims := [(0x20, 4)], rc := true }
  | .tsRingEnt => { win := .ts, off := 0x10000, dims := [(0x4000, 4), (0x10, 1024), (4, 4)] }
  | .tsPortDomLo => { win := .ts, off := 0x2000, dims := [(0x10, 516)], rw := 0xFFFFFFFF, ccOnly := true }
  | .tsPortDomHi => { win := .ts, off := 0x2004, dims := [(0x10, 516)], rw := 0xFFFFFFFF, ccOnly := true }
  | .tsPortDomEn => { win := .ts, off := 0x2008, dims := [(0x10, 516)], rw := 0xFF, ccOnly := true }
  | .tsPortTrim => { win := .ts, off := 0x200C, dims := [(0x10, 516)], rw := 0xFFFFFFFF, ccOnly := true }
  | .tsPortCorrCnt => { win := .ts, off := 0x6000, dims := [(0x10, 516)], rc := true }
  | .tsPortTermCnt => { win := .ts, off := 0x6004, dims := [(0x10, 516)], rc := true }
  | .tsPortOriginCnt => { win := .ts, off := 0x6008, dims := [(0x10, 516)], rc := true }
  | .tsPortBcPassCnt => { win := .ts, off := 0x600C, dims := [(0x10, 516)], rc := true }
  -- R471
  | .mirStat => { win := .mir, off := 0, w1c := 3 }
  | .mirIe => { win := .mir, off := 4, rw := 3, aliased := true }
  | .mirSessCfg => { win := .mir, off := 0x100, dims := [(0x80, 8)], rw := 0xB170FFFF, ccOnly := true }
  | .mirSessTrunc => { win := .mir, off := 0x104, dims := [(0x80, 8)], rw := 0x3FFF, ccOnly := true }
  | .mirSessRate => { win := .mir, off := 0x108, dims := [(0x80, 8)], rw := 0x1FFFFFF, ccOnly := true }
  | .mirSessBurst => { win := .mir, off := 0x10C, dims := [(0x80, 8)], reset := 0x2800, rw := 0xFFFFFF, ccOnly := true }
  | .mirEncDmacHi => { win := .mir, off := 0x110, dims := [(0x80, 8)], rw := 0xFFFF, ccOnly := true }
  | .mirEncDmacLo => { win := .mir, off := 0x114, dims := [(0x80, 8)], rw := 0xFFFFFFFF, ccOnly := true }
  | .mirEncSmacHi => { win := .mir, off := 0x118, dims := [(0x80, 8)], rw := 0xFFFF, ccOnly := true }
  | .mirEncSmacLo => { win := .mir, off := 0x11C, dims := [(0x80, 8)], rw := 0xFFFFFFFF, ccOnly := true }
  | .mirEncL3 => { win := .mir, off := 0x120, dims := [(0x80, 8)], reset := 0x40000000, rw := 0xFF3F0FFF, ccOnly := true }
  | .mirEncUdp => { win := .mir, off := 0x124, dims := [(0x80, 8)], rw := 0xFFFFFFFF, ccOnly := true }
  | .mirEncSip => { win := .mir, off := 0x128, dims := [(0x80, 8), (4, 4)], rw := 0xFFFFFFFF, ccOnly := true }
  | .mirEncDip => { win := .mir, off := 0x138, dims := [(0x80, 8), (4, 4)], rw := 0xFFFFFFFF, ccOnly := true }
  | .mirCopyCnt => { win := .mir, off := 0x800, dims := [(0x80, 4), (0x10, 8)], rc := true }
  | .mirRateDropCnt => { win := .mir, off := 0x804, dims := [(0x80, 4), (0x10, 8)], rc := true }
  | .mirTruncCnt => { win := .mir, off := 0x808, dims := [(0x80, 4), (0x10, 8)], rc := true }
  | .mirPortSrc => { win := .mir, off := 0x1000, dims := [(4, 516)], rw := 0xFFFF, ccOnly := true }
  -- R487
  | .cntCtl => { win := .cnt, off := 0, reset := 1, rw := 1, ccOnly := true }
  | .cntStat => { win := .cnt, off := 4, w1c := 0xF }
  | .cntIe => { win := .cnt, off := 8, rw := 0xF, aliased := true }
  | .cntSnap => { win := .cnt, off := 0xC, sc := 1 }
  | .cntSnapSeq => { win := .cnt, off := 0x10 }
  | .cntSnapWhorl => { win := .cnt, off := 0x14 }
  | .cntSnapInfo => { win := .cnt, off := 0x18 }
  | .cntSnapSlot => { win := .cnt, off := 0x1C }
  | .cntSnapSkip => { win := .cnt, off := 0x20 }
  | .cntXfer => { win := .cnt, off := 0x24 }
  -- R530
  | .mbStat => { win := .mb, off := 0, w1c := 0xFFFFFFFF }
  | .mbIe => { win := .mb, off := 4, rw := 0xFFFFFFFF, aliased := true }
  | .mbErr => { win := .mb, off := 0x10, w1c := 3 }
  | .mbErrInfo => { win := .mb, off := 0x14 }
  | .mbViolCnt => { win := .mb, off := 0x18, rc := true }
  | .mbH2dDbLo => { win := .mb, off := 0x20, rw := 0xFFFFFFFF, aliased := true }
  | .mbH2dDbHi => { win := .mb, off := 0x30, rw := 0xFFFFFFFF, aliased := true }
  | .mbD2hDbLo => { win := .mb, off := 0x40, w1c := 0xFFFFFFFF }
  | .mbD2hDbHi => { win := .mb, off := 0x44, w1c := 0xFFFFFFFF }
  | .mbD2hIeLo => { win := .mb, off := 0x50, rw := 0xFFFFFFFF, aliased := true }
  | .mbD2hIeHi => { win := .mb, off := 0x60, rw := 0xFFFFFFFF, aliased := true }
  | .mbBind => { win := .mb, off := 0x100, dims := [(4, 16)], rw := 0x800000FF, ccOnly := true }
  | .mbInSlot => { win := .mb, off := 0x1000, dims := [(0x400, 16), (4, 128)], rw := 0xFFFFFFFF }
  | .mbInCtl => { win := .mb, off := 0x1200, dims := [(0x400, 16)], sc := 0xE0000000 }
  | .mbInInc => { win := .mb, off := 0x1204, dims := [(0x400, 16)] }
  | .mbInCinc => { win := .mb, off := 0x1208, dims := [(0x400, 16)] }
  | .mbOutSlot => { win := .mb, off := 0x8000, dims := [(0x400, 16), (4, 128)], ccOnly := true }
  | .mbOutCtl => { win := .mb, off := 0x8200, dims := [(0x400, 16)], sc := 0xA0000000 }
  -- R547
  | .glbStat => { win := .glb, off := 0x10, w1c := 0xF }
  | .glbIe => { win := .glb, off := 0x14, rw := 0xF, aliased := true }
  | .glbUpdInfo => { win := .glb, off := 0x18 }
  | .glbAccAddr => { win := .glb, off := 0x1C }
  | .glbAccInfo => { win := .glb, off := 0x20 }
  | .glbUpdCnt => { win := .glb, off := 0x24, rc := true }
  | .glbIntPendLo => { win := .glb, off := 0x40 }
  | .glbIntPendHi => { win := .glb, off := 0x44 }
  | .glbIntFiredLo => { win := .glb, off := 0x50, w1c := 0xFFFFFFFF }
  | .glbIntFiredHi => { win := .glb, off := 0x54, w1c := 0xFFFFFFFF }
  | .glbIntRoute => { win := .glb, off := 0x100, dims := [(4, 64)], rw := 0x8000003F }
  | .glbIntInst => { win := .glb, off := 0x1000, dims := [(0x80, 64), (4, 17)] }
  -- R579
  | .dmaCtl => { win := .dma, off := 0, rw := 1, ccOnly := true }
  | .dmaStat => { win := .dma, off := 4, w1c := 3 }
  | .dmaIe => { win := .dma, off := 8, rw := 3, aliased := true }
  | .dmaErrInfo => { win := .dma, off := 0xC }
  | .dmaRxStat => { win := .dma, off := 0x10, w1c := 0xFFFFFFFF }
  | .dmaRxIe => { win := .dma, off := 0x14, rw := 0xFFFFFFFF, aliased := true }
  | .dmaTxStat => { win := .dma, off := 0x18, w1c := 0xFFFFFFFF }
  | .dmaTxIe => { win := .dma, off := 0x1C, rw := 0xFFFFFFFF, aliased := true }
  | .dmaRxqMap => { win := .dma, off := 0x100, dims := [(4, 16)], rw := 0x31F, ccOnly := true }
  | .dmaRxBaseLo => { win := .dma, off := 0x1000, dims := [(0x100, 32)], rw := 0xFFFFF000, ccOnly := true }
  | .dmaRxBaseHi => { win := .dma, off := 0x1004, dims := [(0x100, 32)], rw := 0xFFFFFFFF, ccOnly := true }
  | .dmaRxCfg => { win := .dma, off := 0x1008, dims := [(0x100, 32)], reset := 0x40, rw := 0x9FFFFFE0, ccOnly := true }
  | .dmaRxHead => { win := .dma, off := 0x100C, dims := [(0x100, 32)] }
  | .dmaRxTail => { win := .dma, off := 0x1010, dims := [(0x100, 32)], rw := 0xFFFFFFFF }
  | .dmaRxBuf => { win := .dma, off := 0x1014, dims := [(0x100, 32)], reset := 0x10, rw := 0xFF, ccOnly := true }
  | .dmaRxNodescCnt => { win := .dma, off := 0x1040, dims := [(0x100, 32)], rc := true }
  | .dmaRxFrameCnt => { win := .dma, off := 0x1044, dims := [(0x100, 32)], rc := true }
  | .dmaTxBaseLo => { win := .dma, off := 0x4000, dims := [(0x100, 32)], rw := 0xFFFFF000, ccOnly := true }
  | .dmaTxBaseHi => { win := .dma, off := 0x4004, dims := [(0x100, 32)], rw := 0xFFFFFFFF, ccOnly := true }
  | .dmaTxCfg => { win := .dma, off := 0x4008, dims := [(0x100, 32)], reset := 0x40, rw := 0x9FFFFFC0, ccOnly := true }
  | .dmaTxHead => { win := .dma, off := 0x400C, dims := [(0x100, 32)] }
  | .dmaTxTail => { win := .dma, off := 0x4010, dims := [(0x100, 32)], rw := 0xFFFFFFFF }
  | .dmaTxErrCnt => { win := .dma, off := 0x4040, dims := [(0x100, 32)], rc := true }
  | .dmaTxFrameCnt => { win := .dma, off := 0x4044, dims := [(0x100, 32)], rc := true }
  -- R580
  | .rlStat => { win := .rl, off := 0, w1c := 7 }
  | .rlIe => { win := .rl, off := 4, rw := 7, aliased := true }
  | .rlNodeIntLo => { win := .rl, off := 8, w1c := 0xFFFFFFFF }
  | .rlNodeIntHi => { win := .rl, off := 0xC, w1c := 0xFFFFFFFF }
  | .rlNodeValidLo => { win := .rl, off := 0x10, reset := 1 }
  | .rlNodeValidHi => { win := .rl, off := 0x14 }
  | .rlNodeIeLo => { win := .rl, off := 0x20, rw := 0xFFFFFFFF, aliased := true }
  | .rlNodeIeHi => { win := .rl, off := 0x24, rw := 0xFFFFFFFF, aliased := true }
  | .rlUnreachCnt => { win := .rl, off := 0x40, rc := true }
  | .rlLostCnt => { win := .rl, off := 0x44, rc := true }
  | .rlUnkCnt => { win := .rl, off := 0x48, rc := true }
  | .rlPortStat => { win := .rl, off := 0x100, dims := [(0x20, 4)] }
  | .rlCrcErrCnt => { win := .rl, off := 0x104, dims := [(0x20, 4)], rc := true }
  | .rlReplayCnt => { win := .rl, off := 0x108, dims := [(0x20, 4)], rc := true }
  | .rlRoute => { win := .rl, off := 0x200, dims := [(4, 64)] }
  -- R606
  | .protCtl => { win := .prot, off := 0, rw := 0x80000000, ccOnly := true }
  | .protStat => { win := .prot, off := 4, w1c := 0x1F }
  | .protIe => { win := .prot, off := 8, rw := 0x1F, aliased := true }
  | .protViolAddr => { win := .prot, off := 0xC }
  | .protViolInfo => { win := .prot, off := 0x10 }
  | .protViolCnt => { win := .prot, off := 0x14, rc := true }
  | .protRst => { win := .prot, off := 0x18, sc := 0x11F }
  | .protWdt => { win := .prot, off := 0x1C, rw := 0x80000000, sc := 1, ccOnly := true }
  | .protBoot => { win := .prot, off := 0x20 }
  | .protDmaRevoke => { win := .prot, off := 0x24, sc := 0xFFFF }
  | .protReqId => { win := .prot, off := 0x100, dims := [(8, 63)], rw := 0xFFFFFFFF, ccOnly := true }
  | .protReqCfg => { win := .prot, off := 0x104, dims := [(8, 63)], rw := 0xE0000000, ccOnly := true }
  | .protFwrBase => { win := .prot, off := 0x400, dims := [(0x10, 32)], rw := 0xFFFF000, ccOnly := true }
  | .protFwrLimit => { win := .prot, off := 0x404, dims := [(0x10, 32)], rw := 0xFFFF000, ccOnly := true }
  | .protFwrPerm => { win := .prot, off := 0x408, dims := [(0x10, 32)], rw := 0x807F000F, ccOnly := true }
  | .protDmaBaseLo => { win := .prot, off := 0x800, dims := [(0x20, 16)], rw := 0xFFFFF000, ccOnly := true }
  | .protDmaBaseHi => { win := .prot, off := 0x804, dims := [(0x20, 16)], rw := 0xFFFFFFFF, ccOnly := true }
  | .protDmaLimLo => { win := .prot, off := 0x808, dims := [(0x20, 16)], rw := 0xFFFFF000, ccOnly := true }
  | .protDmaLimHi => { win := .prot, off := 0x80C, dims := [(0x20, 16)], rw := 0xFFFFFFFF, ccOnly := true }
  | .protDmaCfg => { win := .prot, off := 0x810, dims := [(0x20, 16)], rw := 0x80000007, ccOnly := true }
  -- R631
  | .pwrCtl => { win := .pwr, off := 0, reset := 1, rw := 1, ccOnly := true }
  | .pwrStat => { win := .pwr, off := 4, w1c := 0x1F }
  | .pwrIe => { win := .pwr, off := 8, rw := 0x1F, aliased := true }
  | .pwrHoldV => { win := .pwr, off := 0xC }
  | .pwrCap => { win := .pwr, off := 0x10 }
  | .pwrRail => { win := .pwr, off := 0x14 }
  | .pwrSagInfo => { win := .pwr, off := 0x18 }
  | .pwrSagCnt => { win := .pwr, off := 0x40, rc := true }
  -- R632
  | .ksStat => { win := .ks, off := 0, w1c := 7 }
  | .ksIe => { win := .ks, off := 4, rw := 7, aliased := true }
  | .ksSaveSeq => { win := .ks, off := 8 }
  | .ksSaveLen => { win := .ks, off := 0xC }
  | .ksSessionCnt => { win := .ks, off := 0x40, rc := true }
  | .ksRefuseCnt => { win := .ks, off := 0x44, rc := true }
  -- R633
  | .thmCtl => { win := .thm, off := 0, reset := 0x64, rw := 0xFF, ccOnly := true }
  | .thmStat => { win := .thm, off := 4, w1c := 0xF }
  | .thmIe => { win := .thm, off := 8, rw := 0xF, aliased := true }
  | .thmMax => { win := .thm, off := 0xC }
  | .thmTemp => { win := .thm, off := 0x100, dims := [(4, 32)] }

/-- Every register, in the order of the tables. -/
def Reg.group0 : List Reg :=
  [.glbId, .glbDevid, .glbQpresent, .glbSpresent, .tickCtl, .tickStat, .tickSlotLo, .tickSlotHi, .tickEpoch, .tickSchArmed,
   .tickSchDone, .tickSchMissed, .tickSchTgt, .tickSchAct, .tickSchAddr, .tickSchData, .macMode, .macModeStat, .qmQmode,
   .prsCtl, .prsTpid, .prsStat, .prsIe, .prsDispSat, .prsPortcfg, .prsPortprof, .prsHdrbuf, .clsCtl, .clsStat, .clsErrIdx,
   .clsIe, .clsValid, .clsDscpMap, .clsPcpMap, .polStat, .polIe, .polErrIdx, .tbCtl, .tbStat, .tbIe, .tbErrIdx, .tbOcc,
   .tbOccStatic, .tbLearnq, .tbAgeCfg, .tbAgeStat, .tbHashSeed, .tbLearnCnt, .tbMoveCnt, .tbAgedCnt, .tbLearnOvfCnt, .tbLearnFullCnt,
   .tbConflictCnt, .tbLimitCnt, .tbNoticeLostCnt, .tbAgeLost, .tbPortLearn, .tbPortDyn, .fwdFloodUcCnt, .fwdFloodMcCnt]
def Reg.group1 : List Reg :=
  [.fwdPfxSel, .fwdPfxCtl, .fwdStat, .fwdIe, .fwdErrIdx, .fwdPfxOcc, .fwdPfxBusy, .fwdEcmpSeed, .fwdEcmpCfg, .fwdRoutedCnt,
   .fwdL3TrapCnt, .fwdPfxBankFree, .fabStgCfg, .fabStgLossy, .fabStat, .fabIe, .fabErrAddr, .fabStgOcc, .fabWrStat, .fabStgDropCnt,
   .fabSpillCnt, .fabCutCnt, .fabStompCnt, .fabUnderrunCnt, .fabLenOverCnt, .fabCreditSat, .cbCtl, .cbStat, .cbIe, .cbErrAddr,
   .cbErrTags, .cbFree, .cbResv, .cbFreeing, .cbQuar, .cbRetired, .cbReclaim, .cbScrubPos, .cbPoolFloor, .cbPoolCeil, .cbPoolHeld,
   .cbAllocFailCnt, .cbDfreeCnt, .cbNonownerCnt, .cbPtrErrCnt, .cbEccCeCnt, .cbEccUeCnt, .cbXferCnt, .cbLeakCnt, .cbReclaimCnt,
   .cbErrLostCnt, .dtCtl, .dtStat, .dtIe, .dtErrAddr, .dtErrInfo, .dtShared, .dtWbufOcc, .dtEnterCnt, .dtExitCnt]
def Reg.group2 : List Reg :=
  [.dtPageWrCnt, .dtPageRdCnt, .dtRbWaitCnt, .dtBwSatCnt, .dtCeCnt, .dtScrubFixCnt, .dtSpillPgCnt, .dtStkStat, .dtStkFree,
   .dtStkRetpg, .dtStkCeCnt, .dtStkUeCnt, .dtQcfgRsv, .dtQcfgMax, .dtQcfgRb, .dtQstat, .qmStat, .qmIe, .qmLlc, .qmPushCnt,
   .qmPushFailCnt, .qmLlWaitCnt, .qmFlushCnt, .qmPortCfg, .qmQpool, .qmPortStat, .qmQlim, .qmQdepth, .fcCfg, .fcStat, .fcEvt,
   .fcIe, .fcTxCnt, .fcRxCnt, .fcRxIgnCnt, .schPortCfg, .schPshpRate, .schPshpBurst, .schPshpCred, .schStat, .schIe, .schShpBlk,
   .schClsQuant, .schQshpRate, .schQshpBurst, .schQshpCred, .schGateWaitCnt, .schGclOverrunCnt, .schShapeWaitCnt, .schDepthMinInv,
   .schDepthMax, .schDepthSumLo, .schDepthSumHi, .schDelayMinInv, .schDelayMax, .schDelaySumLo, .schDelaySumHi, .schDelayCnt,
   .schSampEpochs, .gclStat]
def Reg.group3 : List Reg :=
  [.gclIe, .gclGuard, .gclOperCycle, .gclOperLen, .gclOperPos, .gclCycStart, .gclSwapTgt, .gclSwapCtl, .gclAdminCycle,
   .gclOperMaxwin, .gclAdminMaxwin, .gclAdminDur, .gclAdminGates, .gclOperDur, .gclOperGates, .macPortCfg, .macAddrLo,
   .macAddrHi, .macRxCfg, .macLink, .macStat, .macIe, .macWakeCtl, .macRxfifo, .macRxOkCnt, .macRxOctLo, .macRxOctHi, .macRxUcCnt,
   .macRxMcCnt, .macRxBcCnt, .macRxFcsErrCnt, .macRxStompCnt, .macRxRuntCnt, .macRxOversizeCnt, .macRxOvfCnt, .macRxPcsErrCnt,
   .macRxTruncCnt, .macRxPauseCnt, .macRxCtrlDropCnt, .macRxStandbyCnt, .macRxSizeCnt, .macTxOkCnt, .macTxOctLo, .macTxOctHi,
   .macTxUcCnt, .macTxMcCnt, .macTxBcCnt, .macTxStompCnt, .macTxAbortCnt, .macTxCtrlCnt, .macTxOversizeCnt, .macTxPadCnt,
   .macGateHoldCnt, .macTxSizeCnt, .macFecCorrCnt, .macFecUncorrCnt, .macPcsBlkErrCnt, .macLinkDownCnt, .macWakeCnt, .macWakeMask]
def Reg.group4 : List Reg :=
  [.macWakePcfg, .lnTest, .lnStat, .lnIe, .lnRate, .lnRxMap, .lnFault, .lnTxeq, .lnTxcfg, .lnRxcfg, .lnFfe, .lnCemCommit,
   .lnCemId, .lnEscanCfg, .lnEscanErr, .lnEscanUi, .lnBipErrCnt, .lnFecSymCnt, .lnTestErrCnt, .pcsIdleCfg, .pcsStat, .pcsIe,
   .pcsState, .pcsCwPhase, .pcsIdleEntryCnt, .pcsResumeFailCnt, .tsCtl, .tsStat, .tsIe, .tsWhorlNs, .tsWhorlFrac, .tsNtNs,
   .tsNtSecLo, .tsNtSecHi, .tsIncFrac, .tsIncNs, .tsSlewDelta, .tsSlewCount, .tsBaseStgNs, .tsBaseStgSlo, .tsBaseStgShi,
   .tsBaseCtl, .tsBaseEvenNs, .tsBaseEvenSlo, .tsBaseEvenShi, .tsBaseOddNs, .tsBaseOddSlo, .tsBaseOddShi, .tsPpsCfg, .tsStaleCnt,
   .tsEvtCtl, .tsEvtStart, .tsEvtFrac, .tsEvtPeriod, .tsEvtWidth, .tsEvtStat, .tsCapCtl, .tsCapNs, .tsCapInfo, .tsCapStat]
def Reg.group5 : List Reg :=
  [.tsCapOvfCnt, .tsRclkCtl, .tsRclkStat, .tsStpCtl, .tsStpStat, .tsStpIe, .tsOriginInvCnt, .tsNoCfCnt, .tsCfSatCnt, .tsRingCtl,
   .tsRingProd, .tsRingCons, .tsRingStat, .tsRingOvfCnt, .tsRingCnt, .tsRingEnt, .tsPortDomLo, .tsPortDomHi, .tsPortDomEn,
   .tsPortTrim, .tsPortCorrCnt, .tsPortTermCnt, .tsPortOriginCnt, .tsPortBcPassCnt, .mirStat, .mirIe, .mirSessCfg, .mirSessTrunc,
   .mirSessRate, .mirSessBurst, .mirEncDmacHi, .mirEncDmacLo, .mirEncSmacHi, .mirEncSmacLo, .mirEncL3, .mirEncUdp, .mirEncSip,
   .mirEncDip, .mirCopyCnt, .mirRateDropCnt, .mirTruncCnt, .mirPortSrc, .cntCtl, .cntStat, .cntIe, .cntSnap, .cntSnapSeq,
   .cntSnapWhorl, .cntSnapInfo, .cntSnapSlot, .cntSnapSkip, .cntXfer, .mbStat, .mbIe, .mbErr, .mbErrInfo, .mbViolCnt, .mbH2dDbLo,
   .mbH2dDbHi, .mbD2hDbLo]
def Reg.group6 : List Reg :=
  [.mbD2hDbHi, .mbD2hIeLo, .mbD2hIeHi, .mbBind, .mbInSlot, .mbInCtl, .mbInInc, .mbInCinc, .mbOutSlot, .mbOutCtl, .glbStat,
   .glbIe, .glbUpdInfo, .glbAccAddr, .glbAccInfo, .glbUpdCnt, .glbIntPendLo, .glbIntPendHi, .glbIntFiredLo, .glbIntFiredHi,
   .glbIntRoute, .glbIntInst, .dmaCtl, .dmaStat, .dmaIe, .dmaErrInfo, .dmaRxStat, .dmaRxIe, .dmaTxStat, .dmaTxIe, .dmaRxqMap,
   .dmaRxBaseLo, .dmaRxBaseHi, .dmaRxCfg, .dmaRxHead, .dmaRxTail, .dmaRxBuf, .dmaRxNodescCnt, .dmaRxFrameCnt, .dmaTxBaseLo,
   .dmaTxBaseHi, .dmaTxCfg, .dmaTxHead, .dmaTxTail, .dmaTxErrCnt, .dmaTxFrameCnt, .rlStat, .rlIe, .rlNodeIntLo, .rlNodeIntHi,
   .rlNodeValidLo, .rlNodeValidHi, .rlNodeIeLo, .rlNodeIeHi, .rlUnreachCnt, .rlLostCnt, .rlUnkCnt, .rlPortStat, .rlCrcErrCnt,
   .rlReplayCnt]
def Reg.group7 : List Reg :=
  [.rlRoute, .protCtl, .protStat, .protIe, .protViolAddr, .protViolInfo, .protViolCnt, .protRst, .protWdt, .protBoot, .protDmaRevoke,
   .protReqId, .protReqCfg, .protFwrBase, .protFwrLimit, .protFwrPerm, .protDmaBaseLo, .protDmaBaseHi, .protDmaLimLo, .protDmaLimHi,
   .protDmaCfg, .pwrCtl, .pwrStat, .pwrIe, .pwrHoldV, .pwrCap, .pwrRail, .pwrSagInfo, .pwrSagCnt, .ksStat, .ksIe, .ksSaveSeq,
   .ksSaveLen, .ksSessionCnt, .ksRefuseCnt, .thmCtl, .thmStat, .thmIe, .thmMax, .thmTemp]
def Reg.all : List Reg := Reg.group0 ++ Reg.group1 ++ Reg.group2 ++ Reg.group3 ++ Reg.group4 ++ Reg.group5 ++ Reg.group6 ++ Reg.group7

/-! Named fields. -/
def F.glbId_PART : Fld := ⟨.glbId, 16, 16⟩
def F.glbId_STEP : Fld := ⟨.glbId, 8, 4⟩
def F.glbId_GRADE : Fld := ⟨.glbId, 2, 1⟩
def F.glbId_CODE : Fld := ⟨.glbId, 0, 2⟩
def F.glbDevid_NODE : Fld := ⟨.glbDevid, 16, 6⟩
def F.glbDevid_DEVID : Fld := ⟨.glbDevid, 0, 12⟩
def F.glbQpresent_STACK_LIVE : Fld := ⟨.glbQpresent, 12, 8⟩
def F.glbQpresent_STACK : Fld := ⟨.glbQpresent, 4, 8⟩
def F.glbQpresent_QUAD : Fld := ⟨.glbQpresent, 0, 4⟩
def F.glbSpresent_SLICE : Fld := ⟨.glbSpresent, 0, 32⟩
def F.tickCtl_IE_MISS : Fld := ⟨.tickCtl, 3, 1⟩
def F.tickCtl_IE_DONE : Fld := ⟨.tickCtl, 2, 1⟩
def F.tickCtl_IE_REF : Fld := ⟨.tickCtl, 1, 1⟩
def F.tickCtl_SCH_EN : Fld := ⟨.tickCtl, 0, 1⟩
def F.tickStat_RELOCK : Fld := ⟨.tickStat, 2, 1⟩
def F.tickStat_REF_LOSS : Fld := ⟨.tickStat, 1, 1⟩
def F.tickStat_LOCK : Fld := ⟨.tickStat, 0, 1⟩
def F.tickEpoch_EPOCH : Fld := ⟨.tickEpoch, 0, 32⟩
def F.tickSchAct_ARM : Fld := ⟨.tickSchAct, 31, 1⟩
def F.tickSchAct_ACTION : Fld := ⟨.tickSchAct, 24, 4⟩
def F.tickSchAct_MISS_CAUSE : Fld := ⟨.tickSchAct, 16, 4⟩
def F.tickSchAct_HANDLE : Fld := ⟨.tickSchAct, 0, 16⟩
def F.macMode_STANDBY : Fld := ⟨.macMode, 11, 1⟩
def F.macMode_IDLE : Fld := ⟨.macMode, 10, 1⟩
def F.macMode_POLICE : Fld := ⟨.macMode, 9, 1⟩
def F.macMode_PUSHOUT : Fld := ⟨.macMode, 8, 1⟩
def F.macMode_MIRROR : Fld := ⟨.macMode, 7, 1⟩
def F.macMode_ROUTE : Fld := ⟨.macMode, 6, 1⟩
def F.macMode_BC : Fld := ⟨.macMode, 5, 1⟩
def F.macMode_TC : Fld := ⟨.macMode, 4, 1⟩
def F.macMode_GATED : Fld := ⟨.macMode, 3, 1⟩
def F.macMode_DEEP : Fld := ⟨.macMode, 2, 1⟩
def F.macMode_LOSSLESS : Fld := ⟨.macMode, 1, 1⟩
def F.macMode_CUT : Fld := ⟨.macMode, 0, 1⟩
def F.macModeStat_WAKE : Fld := ⟨.macModeStat, 4, 1⟩
def F.macModeStat_HOLD : Fld := ⟨.macModeStat, 3, 1⟩
def F.macModeStat_SB_ACT : Fld := ⟨.macModeStat, 2, 1⟩
def F.macModeStat_IDLE_ACT : Fld := ⟨.macModeStat, 1, 1⟩
def F.macModeStat_GCL_ACT : Fld := ⟨.macModeStat, 0, 1⟩
def F.qmQmode_DEEP : Fld := ⟨.qmQmode, 0, 16⟩
def F.prsCtl_TTL_TRAP : Fld := ⟨.prsCtl, 5, 1⟩
def F.prsCtl_SRCMC_DROP : Fld := ⟨.prsCtl, 4, 1⟩
def F.prsCtl_RSVD_ACT : Fld := ⟨.prsCtl, 2, 2⟩
def F.prsCtl_TRUNC_DROP : Fld := ⟨.prsCtl, 1, 1⟩
def F.prsCtl_ERR_DROP : Fld := ⟨.prsCtl, 0, 1⟩
def F.prsTpid_OUTER : Fld := ⟨.prsTpid, 16, 16⟩
def F.prsTpid_INNER : Fld := ⟨.prsTpid, 0, 16⟩
def F.prsStat_TRUNC : Fld := ⟨.prsStat, 2, 1⟩
def F.prsStat_PERR : Fld := ⟨.prsStat, 1, 1⟩
def F.prsStat_BACKLOG : Fld := ⟨.prsStat, 0, 1⟩
def F.prsIe_TRUNC : Fld := ⟨.prsIe, 2, 1⟩
def F.prsIe_PERR : Fld := ⟨.prsIe, 1, 1⟩
def F.prsIe_BACKLOG : Fld := ⟨.prsIe, 0, 1⟩
def F.prsPortcfg_MAP : Fld := ⟨.prsPortcfg, 23, 2⟩
def F.prsPortcfg_TRUST : Fld := ⟨.prsPortcfg, 21, 2⟩
def F.prsPortcfg_DEF_CLASS : Fld := ⟨.prsPortcfg, 18, 3⟩
def F.prsPortcfg_ACCEPT : Fld := ⟨.prsPortcfg, 16, 2⟩
def F.prsPortcfg_VFILT : Fld := ⟨.prsPortcfg, 15, 1⟩
def F.prsPortcfg_DEF_PCP : Fld := ⟨.prsPortcfg, 12, 3⟩
def F.prsPortcfg_PVID : Fld := ⟨.prsPortcfg, 0, 12⟩
def F.prsPortprof_KEY_L2 : Fld := ⟨.prsPortprof, 8, 1⟩
def F.prsPortprof_PROFILE : Fld := ⟨.prsPortprof, 0, 8⟩
def F.clsCtl_SCRUB_EN : Fld := ⟨.clsCtl, 0, 1⟩
def F.clsStat_ACT_UE : Fld := ⟨.clsStat, 2, 1⟩
def F.clsStat_ACT_CE : Fld := ⟨.clsStat, 1, 1⟩
def F.clsStat_KEY_PERR : Fld := ⟨.clsStat, 0, 1⟩
def F.clsErrIdx_KIND : Fld := ⟨.clsErrIdx, 16, 2⟩
def F.clsErrIdx_INDEX : Fld := ⟨.clsErrIdx, 0, 15⟩
def F.clsIe_ACT_UE : Fld := ⟨.clsIe, 2, 1⟩
def F.clsIe_ACT_CE : Fld := ⟨.clsIe, 1, 1⟩
def F.clsIe_KEY_PERR : Fld := ⟨.clsIe, 0, 1⟩
def F.clsValid_COUNT : Fld := ⟨.clsValid, 0, 16⟩
def F.polStat_UE : Fld := ⟨.polStat, 1, 1⟩
def F.polStat_CE : Fld := ⟨.polStat, 0, 1⟩
def F.polIe_UE : Fld := ⟨.polIe, 1, 1⟩
def F.polIe_CE : Fld := ⟨.polIe, 0, 1⟩
def F.polErrIdx_UE : Fld := ⟨.polErrIdx, 16, 1⟩
def F.polErrIdx_INDEX : Fld := ⟨.polErrIdx, 0, 16⟩
def F.tbCtl_LEARN_EN : Fld := ⟨.tbCtl, 0, 1⟩
def F.tbStat_AGE_LAG : Fld := ⟨.tbStat, 5, 1⟩
def F.tbStat_ECC_UE : Fld := ⟨.tbStat, 4, 1⟩
def F.tbStat_ECC_CE : Fld := ⟨.tbStat, 3, 1⟩
def F.tbStat_INS_FAIL : Fld := ⟨.tbStat, 2, 1⟩
def F.tbStat_NOTICE_OVF : Fld := ⟨.tbStat, 1, 1⟩
def F.tbStat_LEARN_OVF : Fld := ⟨.tbStat, 0, 1⟩
def F.tbIe_AGE_LAG : Fld := ⟨.tbIe, 5, 1⟩
def F.tbIe_ECC_UE : Fld := ⟨.tbIe, 4, 1⟩
def F.tbIe_ECC_CE : Fld := ⟨.tbIe, 3, 1⟩
def F.tbIe_INS_FAIL : Fld := ⟨.tbIe, 2, 1⟩
def F.tbIe_NOTICE_OVF : Fld := ⟨.tbIe, 1, 1⟩
def F.tbIe_LEARN_OVF : Fld := ⟨.tbIe, 0, 1⟩
def F.tbErrIdx_KIND : Fld := ⟨.tbErrIdx, 20, 2⟩
def F.tbErrIdx_INDEX : Fld := ⟨.tbErrIdx, 0, 20⟩
def F.tbOcc_COUNT : Fld := ⟨.tbOcc, 0, 21⟩
def F.tbOccStatic_COUNT : Fld := ⟨.tbOccStatic, 0, 21⟩
def F.tbLearnq_OCC : Fld := ⟨.tbLearnq, 0, 13⟩
def F.tbAgeCfg_AGE_EN : Fld := ⟨.tbAgeCfg, 31, 1⟩
def F.tbAgeCfg_DA_REFRESH : Fld := ⟨.tbAgeCfg, 30, 1⟩
def F.tbAgeCfg_PERIOD : Fld := ⟨.tbAgeCfg, 0, 20⟩
def F.tbAgeStat_ACTIVE : Fld := ⟨.tbAgeStat, 31, 1⟩
def F.tbAgeStat_PENDING : Fld := ⟨.tbAgeStat, 30, 1⟩
def F.tbAgeStat_STEP : Fld := ⟨.tbAgeStat, 16, 2⟩
def F.tbAgeStat_BUCKET : Fld := ⟨.tbAgeStat, 0, 16⟩
def F.tbHashSeed_SEED : Fld := ⟨.tbHashSeed, 0, 32⟩
def F.tbPortLearn_LIMIT : Fld := ⟨.tbPortLearn, 11, 21⟩
def F.tbPortLearn_MODE : Fld := ⟨.tbPortLearn, 0, 2⟩
def F.tbPortDyn_COUNT : Fld := ⟨.tbPortDyn, 0, 21⟩
def F.fwdPfxSel_V6_OFF : Fld := ⟨.fwdPfxSel, 24, 6⟩
def F.fwdPfxSel_V6_VBITS : Fld := ⟨.fwdPfxSel, 16, 4⟩
def F.fwdPfxSel_V4_OFF : Fld := ⟨.fwdPfxSel, 8, 5⟩
def F.fwdPfxSel_V4_VBITS : Fld := ⟨.fwdPfxSel, 0, 4⟩
def F.fwdPfxCtl_SCRUB_EN : Fld := ⟨.fwdPfxCtl, 0, 1⟩
def F.fwdStat_TBL_UE : Fld := ⟨.fwdStat, 4, 1⟩
def F.fwdStat_TBL_CE : Fld := ⟨.fwdStat, 3, 1⟩
def F.fwdStat_RES_UE : Fld := ⟨.fwdStat, 2, 1⟩
def F.fwdStat_RES_CE : Fld := ⟨.fwdStat, 1, 1⟩
def F.fwdStat_KEY_PERR : Fld := ⟨.fwdStat, 0, 1⟩
def F.fwdIe_TBL_UE : Fld := ⟨.fwdIe, 4, 1⟩
def F.fwdIe_TBL_CE : Fld := ⟨.fwdIe, 3, 1⟩
def F.fwdIe_RES_UE : Fld := ⟨.fwdIe, 2, 1⟩
def F.fwdIe_RES_CE : Fld := ⟨.fwdIe, 1, 1⟩
def F.fwdIe_KEY_PERR : Fld := ⟨.fwdIe, 0, 1⟩
def F.fwdErrIdx_TABLE : Fld := ⟨.fwdErrIdx, 28, 3⟩
def F.fwdErrIdx_KIND : Fld := ⟨.fwdErrIdx, 24, 2⟩
def F.fwdErrIdx_INDEX : Fld := ⟨.fwdErrIdx, 0, 18⟩
def F.fwdPfxOcc_COUNT : Fld := ⟨.fwdPfxOcc, 0, 19⟩
def F.fwdPfxBusy_ACTIVE : Fld := ⟨.fwdPfxBusy, 31, 1⟩
def F.fwdPfxBusy_BANK : Fld := ⟨.fwdPfxBusy, 0, 8⟩
def F.fwdEcmpSeed_SEED : Fld := ⟨.fwdEcmpSeed, 0, 32⟩
def F.fwdEcmpCfg_IPORT_EN : Fld := ⟨.fwdEcmpCfg, 5, 1⟩
def F.fwdEcmpCfg_L4DST_EN : Fld := ⟨.fwdEcmpCfg, 4, 1⟩
def F.fwdEcmpCfg_L4SRC_EN : Fld := ⟨.fwdEcmpCfg, 3, 1⟩
def F.fwdEcmpCfg_PROTO_EN : Fld := ⟨.fwdEcmpCfg, 2, 1⟩
def F.fwdEcmpCfg_DIP_EN : Fld := ⟨.fwdEcmpCfg, 1, 1⟩
def F.fwdEcmpCfg_SIP_EN : Fld := ⟨.fwdEcmpCfg, 0, 1⟩
def F.fwdPfxBankFree_FREE : Fld := ⟨.fwdPfxBankFree, 0, 11⟩
def F.fabStgCfg_XON_CELLS : Fld := ⟨.fabStgCfg, 16, 13⟩
def F.fabStgCfg_XOFF_CELLS : Fld := ⟨.fabStgCfg, 0, 13⟩
def F.fabStgLossy_LOSSY_MIN : Fld := ⟨.fabStgLossy, 0, 15⟩
def F.fabStat_SPILL : Fld := ⟨.fabStat, 5, 1⟩
def F.fabStat_UNDERRUN : Fld := ⟨.fabStat, 4, 1⟩
def F.fabStat_ECC_UE : Fld := ⟨.fabStat, 3, 1⟩
def F.fabStat_ECC_CE : Fld := ⟨.fabStat, 2, 1⟩
def F.fabStat_LL_DROP : Fld := ⟨.fabStat, 1, 1⟩
def F.fabStat_STG_DROP : Fld := ⟨.fabStat, 0, 1⟩
def F.fabIe_SPILL : Fld := ⟨.fabIe, 5, 1⟩
def F.fabIe_UNDERRUN : Fld := ⟨.fabIe, 4, 1⟩
def F.fabIe_ECC_UE : Fld := ⟨.fabIe, 3, 1⟩
def F.fabIe_ECC_CE : Fld := ⟨.fabIe, 2, 1⟩
def F.fabIe_LL_DROP : Fld := ⟨.fabIe, 1, 1⟩
def F.fabIe_STG_DROP : Fld := ⟨.fabIe, 0, 1⟩
def F.fabErrAddr_EGRESS : Fld := ⟨.fabErrAddr, 31, 1⟩
def F.fabErrAddr_CELL : Fld := ⟨.fabErrAddr, 0, 15⟩
def F.fabStgOcc_LOSSLESS : Fld := ⟨.fabStgOcc, 16, 16⟩
def F.fabStgOcc_LOSSY : Fld := ⟨.fabStgOcc, 0, 16⟩
def F.fabWrStat_CREDIT : Fld := ⟨.fabWrStat, 16, 6⟩
def F.fabWrStat_WQ : Fld := ⟨.fabWrStat, 0, 6⟩
def F.cbCtl_SCRUB_DIV : Fld := ⟨.cbCtl, 4, 3⟩
def F.cbCtl_SCRUB_EN : Fld := ⟨.cbCtl, 0, 1⟩
def F.cbStat_INIT_DONE : Fld := ⟨.cbStat, 31, 1⟩
def F.cbStat_ERR_LOST : Fld := ⟨.cbStat, 10, 1⟩
def F.cbStat_LIST_ERR : Fld := ⟨.cbStat, 9, 1⟩
def F.cbStat_LEAK : Fld := ⟨.cbStat, 8, 1⟩
def F.cbStat_DESC_UE : Fld := ⟨.cbStat, 7, 1⟩
def F.cbStat_ECC_UE : Fld := ⟨.cbStat, 6, 1⟩
def F.cbStat_ECC_CE : Fld := ⟨.cbStat, 5, 1⟩
def F.cbStat_PTR_RANGE : Fld := ⟨.cbStat, 4, 1⟩
def F.cbStat_PTR_ALIGN : Fld := ⟨.cbStat, 3, 1⟩
def F.cbStat_NONOWNER : Fld := ⟨.cbStat, 2, 1⟩
def F.cbStat_DFREE : Fld := ⟨.cbStat, 1, 1⟩
def F.cbStat_ALLOC_FAIL : Fld := ⟨.cbStat, 0, 1⟩
def F.cbIe_ERR_LOST : Fld := ⟨.cbIe, 10, 1⟩
def F.cbIe_LIST_ERR : Fld := ⟨.cbIe, 9, 1⟩
def F.cbIe_LEAK : Fld := ⟨.cbIe, 8, 1⟩
def F.cbIe_DESC_UE : Fld := ⟨.cbIe, 7, 1⟩
def F.cbIe_ECC_UE : Fld := ⟨.cbIe, 6, 1⟩
def F.cbIe_ECC_CE : Fld := ⟨.cbIe, 5, 1⟩
def F.cbIe_PTR_RANGE : Fld := ⟨.cbIe, 4, 1⟩
def F.cbIe_PTR_ALIGN : Fld := ⟨.cbIe, 3, 1⟩
def F.cbIe_NONOWNER : Fld := ⟨.cbIe, 2, 1⟩
def F.cbIe_DFREE : Fld := ⟨.cbIe, 1, 1⟩
def F.cbIe_ALLOC_FAIL : Fld := ⟨.cbIe, 0, 1⟩
def F.cbErrAddr_KIND : Fld := ⟨.cbErrAddr, 28, 4⟩
def F.cbErrAddr_ADDR : Fld := ⟨.cbErrAddr, 0, 28⟩
def F.cbErrTags_RECORDED : Fld := ⟨.cbErrTags, 16, 14⟩
def F.cbErrTags_CLAIM : Fld := ⟨.cbErrTags, 0, 14⟩
def F.cbFree_COUNT : Fld := ⟨.cbFree, 0, 17⟩
def F.cbResv_COUNT : Fld := ⟨.cbResv, 0, 17⟩
def F.cbFreeing_COUNT : Fld := ⟨.cbFreeing, 0, 17⟩
def F.cbQuar_COUNT : Fld := ⟨.cbQuar, 0, 17⟩
def F.cbRetired_COUNT : Fld := ⟨.cbRetired, 0, 9⟩
def F.cbReclaim_ACTIVE : Fld := ⟨.cbReclaim, 31, 1⟩
def F.cbReclaim_PENDING : Fld := ⟨.cbReclaim, 24, 5⟩
def F.cbReclaim_SWN : Fld := ⟨.cbReclaim, 16, 4⟩
def F.cbReclaim_QUEUE : Fld := ⟨.cbReclaim, 0, 14⟩
def F.cbScrubPos_INDEX : Fld := ⟨.cbScrubPos, 0, 16⟩
def F.cbPoolFloor_COUNT : Fld := ⟨.cbPoolFloor, 0, 17⟩
def F.cbPoolCeil_COUNT : Fld := ⟨.cbPoolCeil, 0, 17⟩
def F.cbPoolHeld_COUNT : Fld := ⟨.cbPoolHeld, 0, 17⟩
def F.dtCtl_WB_LL : Fld := ⟨.dtCtl, 16, 16⟩
def F.dtCtl_SCRUB_DIV : Fld := ⟨.dtCtl, 13, 3⟩
def F.dtCtl_SCRUB_EN : Fld := ⟨.dtCtl, 12, 1⟩
def F.dtCtl_FLUSH_SLOTS : Fld := ⟨.dtCtl, 0, 11⟩
def F.dtStat_INIT_DONE : Fld := ⟨.dtStat, 31, 1⟩
def F.dtStat_DFREE : Fld := ⟨.dtStat, 7, 1⟩
def F.dtStat_META_UE : Fld := ⟨.dtStat, 6, 1⟩
def F.dtStat_UE : Fld := ⟨.dtStat, 5, 1⟩
def F.dtStat_RETIRE_DONE : Fld := ⟨.dtStat, 4, 1⟩
def F.dtStat_STACK_FAULT : Fld := ⟨.dtStat, 3, 1⟩
def F.dtStat_BW_SAT : Fld := ⟨.dtStat, 2, 1⟩
def F.dtStat_WB_DROP : Fld := ⟨.dtStat, 1, 1⟩
def F.dtStat_FULL_DROP : Fld := ⟨.dtStat, 0, 1⟩
def F.dtIe_DFREE : Fld := ⟨.dtIe, 7, 1⟩
def F.dtIe_META_UE : Fld := ⟨.dtIe, 6, 1⟩
def F.dtIe_UE : Fld := ⟨.dtIe, 5, 1⟩
def F.dtIe_RETIRE_DONE : Fld := ⟨.dtIe, 4, 1⟩
def F.dtIe_STACK_FAULT : Fld := ⟨.dtIe, 3, 1⟩
def F.dtIe_BW_SAT : Fld := ⟨.dtIe, 2, 1⟩
def F.dtIe_WB_DROP : Fld := ⟨.dtIe, 1, 1⟩
def F.dtIe_FULL_DROP : Fld := ⟨.dtIe, 0, 1⟩
def F.dtErrAddr_KIND : Fld := ⟨.dtErrAddr, 28, 4⟩
def F.dtErrAddr_PAGE : Fld := ⟨.dtErrAddr, 0, 25⟩
def F.dtErrInfo_BURST : Fld := ⟨.dtErrInfo, 16, 4⟩
def F.dtErrInfo_OWNER : Fld := ⟨.dtErrInfo, 0, 14⟩
def F.dtShared_COUNT : Fld := ⟨.dtShared, 0, 24⟩
def F.dtWbufOcc_UNITS : Fld := ⟨.dtWbufOcc, 0, 17⟩
def F.dtStkStat_SPILL_ONLY : Fld := ⟨.dtStkStat, 2, 1⟩
def F.dtStkStat_STATE : Fld := ⟨.dtStkStat, 0, 2⟩
def F.dtStkFree_COUNT : Fld := ⟨.dtStkFree, 0, 23⟩
def F.dtStkRetpg_COUNT : Fld := ⟨.dtStkRetpg, 0, 17⟩
def F.dtQcfgRsv_PAGES : Fld := ⟨.dtQcfgRsv, 0, 23⟩
def F.dtQcfgMax_PAGES : Fld := ⟨.dtQcfgMax, 0, 23⟩
def F.dtQcfgRb_RB_HIGH : Fld := ⟨.dtQcfgRb, 16, 12⟩
def F.dtQcfgRb_RB_LOW : Fld := ⟨.dtQcfgRb, 0, 12⟩
def F.dtQstat_DEEP : Fld := ⟨.dtQstat, 31, 1⟩
def F.dtQstat_PAGES : Fld := ⟨.dtQstat, 0, 23⟩
def F.qmStat_LL_RSV_FAIL : Fld := ⟨.qmStat, 2, 1⟩
def F.qmStat_FLUSH : Fld := ⟨.qmStat, 1, 1⟩
def F.qmStat_NO_CELL : Fld := ⟨.qmStat, 0, 1⟩
def F.qmIe_LL_RSV_FAIL : Fld := ⟨.qmIe, 2, 1⟩
def F.qmIe_FLUSH : Fld := ⟨.qmIe, 1, 1⟩
def F.qmIe_NO_CELL : Fld := ⟨.qmIe, 0, 1⟩
def F.qmLlc_COUNT : Fld := ⟨.qmLlc, 0, 17⟩
def F.qmPortCfg_HOLD : Fld := ⟨.qmPortCfg, 0, 2⟩
def F.qmPortStat_STATE : Fld := ⟨.qmPortStat, 0, 2⟩
def F.qmQlim_RED : Fld := ⟨.qmQlim, 24, 4⟩
def F.qmQlim_YEL : Fld := ⟨.qmQlim, 20, 4⟩
def F.qmQlim_LIMIT : Fld := ⟨.qmQlim, 0, 17⟩
def F.qmQdepth_CQ : Fld := ⟨.qmQdepth, 0, 17⟩
def F.fcCfg_QUANTA : Fld := ⟨.fcCfg, 16, 16⟩
def F.fcCfg_LL_MASK : Fld := ⟨.fcCfg, 0, 8⟩
def F.fcStat_RX_PAUSED : Fld := ⟨.fcStat, 8, 8⟩
def F.fcStat_TX_XOFF : Fld := ⟨.fcStat, 0, 8⟩
def F.fcEvt_RX_IGN : Fld := ⟨.fcEvt, 1, 1⟩
def F.fcEvt_XOFF_SENT : Fld := ⟨.fcEvt, 0, 1⟩
def F.fcIe_RX_IGN : Fld := ⟨.fcIe, 1, 1⟩
def F.fcIe_XOFF_SENT : Fld := ⟨.fcIe, 0, 1⟩
def F.schPortCfg_SP_MASK : Fld := ⟨.schPortCfg, 16, 8⟩
def F.schPortCfg_LEN_ADJ : Fld := ⟨.schPortCfg, 0, 7⟩
def F.schPshpRate_RATE : Fld := ⟨.schPshpRate, 0, 25⟩
def F.schPshpBurst_BURST : Fld := ⟨.schPshpBurst, 0, 24⟩
def F.schPshpCred_CREDIT : Fld := ⟨.schPshpCred, 0, 25⟩
def F.schStat_OVERRUN : Fld := ⟨.schStat, 2, 1⟩
def F.schStat_GATE_DROP : Fld := ⟨.schStat, 1, 1⟩
def F.schStat_RES_DROP : Fld := ⟨.schStat, 0, 1⟩
def F.schIe_OVERRUN : Fld := ⟨.schIe, 2, 1⟩
def F.schIe_GATE_DROP : Fld := ⟨.schIe, 1, 1⟩
def F.schIe_RES_DROP : Fld := ⟨.schIe, 0, 1⟩
def F.schShpBlk_PORT : Fld := ⟨.schShpBlk, 16, 1⟩
def F.schShpBlk_QUEUE : Fld := ⟨.schShpBlk, 0, 16⟩
def F.schClsQuant_QUANTUM : Fld := ⟨.schClsQuant, 0, 20⟩
def F.schQshpRate_RATE : Fld := ⟨.schQshpRate, 0, 25⟩
def F.schQshpBurst_BURST : Fld := ⟨.schQshpBurst, 0, 24⟩
def F.schQshpCred_CREDIT : Fld := ⟨.schQshpCred, 0, 25⟩
def F.schDepthMinInv_MIN_INV : Fld := ⟨.schDepthMinInv, 0, 32⟩
def F.schDepthMax_MAX : Fld := ⟨.schDepthMax, 0, 32⟩
def F.schDepthSumLo_SUM : Fld := ⟨.schDepthSumLo, 0, 32⟩
def F.schDepthSumHi_SUM : Fld := ⟨.schDepthSumHi, 0, 32⟩
def F.schDelayMinInv_MIN_INV : Fld := ⟨.schDelayMinInv, 0, 32⟩
def F.schDelayMax_MAX : Fld := ⟨.schDelayMax, 0, 32⟩
def F.schDelaySumLo_SUM : Fld := ⟨.schDelaySumLo, 0, 32⟩
def F.schDelaySumHi_SUM : Fld := ⟨.schDelaySumHi, 0, 32⟩
def F.schDelayCnt_COUNT : Fld := ⟨.schDelayCnt, 0, 32⟩
def F.schSampEpochs_LAST : Fld := ⟨.schSampEpochs, 16, 16⟩
def F.schSampEpochs_EPOCHS : Fld := ⟨.schSampEpochs, 0, 16⟩
def F.gclStat_SWAP_DONE : Fld := ⟨.gclStat, 3, 1⟩
def F.gclStat_REALIGN : Fld := ⟨.gclStat, 2, 1⟩
def F.gclStat_ARMED : Fld := ⟨.gclStat, 1, 1⟩
def F.gclStat_VALID : Fld := ⟨.gclStat, 0, 1⟩
def F.gclIe_SWAP_DONE : Fld := ⟨.gclIe, 3, 1⟩
def F.gclIe_REALIGN : Fld := ⟨.gclIe, 2, 1⟩
def F.gclGuard_GUARD_NS : Fld := ⟨.gclGuard, 0, 16⟩
def F.gclOperCycle_CYCLE : Fld := ⟨.gclOperCycle, 0, 30⟩
def F.gclOperLen_LEN : Fld := ⟨.gclOperLen, 0, 11⟩
def F.gclOperPos_GATES : Fld := ⟨.gclOperPos, 16, 8⟩
def F.gclOperPos_ENTRY : Fld := ⟨.gclOperPos, 0, 10⟩
def F.gclCycStart_START : Fld := ⟨.gclCycStart, 0, 32⟩
def F.gclSwapTgt_TGT : Fld := ⟨.gclSwapTgt, 0, 32⟩
def F.gclSwapCtl_ARM : Fld := ⟨.gclSwapCtl, 31, 1⟩
def F.gclSwapCtl_ADMIN_LEN : Fld := ⟨.gclSwapCtl, 0, 11⟩
def F.gclAdminCycle_CYCLE : Fld := ⟨.gclAdminCycle, 0, 30⟩
def F.gclOperMaxwin_MAXWIN : Fld := ⟨.gclOperMaxwin, 0, 32⟩
def F.gclAdminMaxwin_MAXWIN : Fld := ⟨.gclAdminMaxwin, 0, 32⟩
def F.gclAdminDur_DUR : Fld := ⟨.gclAdminDur, 0, 30⟩
def F.gclAdminGates_GATES : Fld := ⟨.gclAdminGates, 0, 8⟩
def F.gclOperDur_DUR : Fld := ⟨.gclOperDur, 0, 30⟩
def F.gclOperGates_GATES : Fld := ⟨.gclOperGates, 0, 8⟩
def F.macPortCfg_EN : Fld := ⟨.macPortCfg, 31, 1⟩
def F.macPortCfg_MODE : Fld := ⟨.macPortCfg, 16, 5⟩
def F.macPortCfg_MFS : Fld := ⟨.macPortCfg, 0, 14⟩
def F.macAddrLo_ADDR : Fld := ⟨.macAddrLo, 0, 32⟩
def F.macAddrHi_ADDR : Fld := ⟨.macAddrHi, 0, 16⟩
def F.macRxCfg_PAUSE_EN : Fld := ⟨.macRxCfg, 0, 1⟩
def F.macLink_HI_BER : Fld := ⟨.macLink, 4, 1⟩
def F.macLink_RF : Fld := ⟨.macLink, 3, 1⟩
def F.macLink_LF : Fld := ⟨.macLink, 2, 1⟩
def F.macLink_ALIGNED : Fld := ⟨.macLink, 1, 1⟩
def F.macLink_UP : Fld := ⟨.macLink, 0, 1⟩
def F.macStat_TX_OVERSIZE : Fld := ⟨.macStat, 5, 1⟩
def F.macStat_RX_OVERSIZE : Fld := ⟨.macStat, 4, 1⟩
def F.macStat_RX_OVF : Fld := ⟨.macStat, 3, 1⟩
def F.macStat_FEC_UE : Fld := ⟨.macStat, 2, 1⟩
def F.macStat_LINK_UP : Fld := ⟨.macStat, 1, 1⟩
def F.macStat_LINK_DOWN : Fld := ⟨.macStat, 0, 1⟩
def F.macIe_TX_OVERSIZE : Fld := ⟨.macIe, 5, 1⟩
def F.macIe_RX_OVERSIZE : Fld := ⟨.macIe, 4, 1⟩
def F.macIe_RX_OVF : Fld := ⟨.macIe, 3, 1⟩
def F.macIe_FEC_UE : Fld := ⟨.macIe, 2, 1⟩
def F.macIe_LINK_UP : Fld := ⟨.macIe, 1, 1⟩
def F.macIe_LINK_DOWN : Fld := ⟨.macIe, 0, 1⟩
def F.macWakeCtl_LAST_V : Fld := ⟨.macWakeCtl, 19, 1⟩
def F.macWakeCtl_LAST : Fld := ⟨.macWakeCtl, 16, 3⟩
def F.macWakeCtl_PAT_EN : Fld := ⟨.macWakeCtl, 0, 8⟩
def F.macRxfifo_BYTES : Fld := ⟨.macRxfifo, 0, 19⟩
def F.macRxOctLo_SUM : Fld := ⟨.macRxOctLo, 0, 32⟩
def F.macRxOctHi_SUM : Fld := ⟨.macRxOctHi, 0, 32⟩
def F.macTxOctLo_SUM : Fld := ⟨.macTxOctLo, 0, 32⟩
def F.macTxOctHi_SUM : Fld := ⟨.macTxOctHi, 0, 32⟩
def F.macWakeMask_MASK : Fld := ⟨.macWakeMask, 0, 32⟩
def F.macWakePcfg_LEN : Fld := ⟨.macWakePcfg, 16, 8⟩
def F.macWakePcfg_CHECK : Fld := ⟨.macWakePcfg, 0, 16⟩
def F.lnTest_LPBK : Fld := ⟨.lnTest, 8, 1⟩
def F.lnTest_CHK : Fld := ⟨.lnTest, 4, 2⟩
def F.lnTest_GEN : Fld := ⟨.lnTest, 0, 2⟩
def F.lnStat_ESCAN_STEP : Fld := ⟨.lnStat, 11, 1⟩
def F.lnStat_CEM_DONE : Fld := ⟨.lnStat, 10, 1⟩
def F.lnStat_FAULT_CHG : Fld := ⟨.lnStat, 9, 1⟩
def F.lnStat_LOCK_LOST : Fld := ⟨.lnStat, 8, 1⟩
def F.lnStat_IDLE : Fld := ⟨.lnStat, 3, 1⟩
def F.lnStat_PN_SWAP : Fld := ⟨.lnStat, 2, 1⟩
def F.lnStat_LOS : Fld := ⟨.lnStat, 1, 1⟩
def F.lnStat_LOCK : Fld := ⟨.lnStat, 0, 1⟩
def F.lnIe_IE : Fld := ⟨.lnIe, 8, 4⟩
def F.lnRate_ACTIVE : Fld := ⟨.lnRate, 4, 1⟩
def F.lnRate_RATE : Fld := ⟨.lnRate, 0, 2⟩
def F.lnRxMap_VALID : Fld := ⟨.lnRxMap, 31, 1⟩
def F.lnRxMap_HALF : Fld := ⟨.lnRxMap, 4, 1⟩
def F.lnRxMap_PCSL : Fld := ⟨.lnRxMap, 0, 4⟩
def F.lnFault_RXN : Fld := ⟨.lnFault, 12, 3⟩
def F.lnFault_RXP : Fld := ⟨.lnFault, 8, 3⟩
def F.lnFault_TXN : Fld := ⟨.lnFault, 4, 3⟩
def F.lnFault_TXP : Fld := ⟨.lnFault, 0, 3⟩
def F.lnTxeq_POST1 : Fld := ⟨.lnTxeq, 24, 8⟩
def F.lnTxeq_MAIN : Fld := ⟨.lnTxeq, 16, 8⟩
def F.lnTxeq_PRE1 : Fld := ⟨.lnTxeq, 8, 8⟩
def F.lnTxeq_PRE2 : Fld := ⟨.lnTxeq, 0, 8⟩
def F.lnTxcfg_TX_INV : Fld := ⟨.lnTxcfg, 9, 1⟩
def F.lnTxcfg_PRECODE : Fld := ⟨.lnTxcfg, 8, 1⟩
def F.lnTxcfg_TX_AMP : Fld := ⟨.lnTxcfg, 0, 6⟩
def F.lnRxcfg_PRECODE : Fld := ⟨.lnRxcfg, 24, 1⟩
def F.lnRxcfg_VGA : Fld := ⟨.lnRxcfg, 16, 6⟩
def F.lnRxcfg_CTLE_DC : Fld := ⟨.lnRxcfg, 8, 4⟩
def F.lnRxcfg_CTLE_PEAK : Fld := ⟨.lnRxcfg, 0, 5⟩
def F.lnCemCommit_COMMIT : Fld := ⟨.lnCemCommit, 0, 1⟩
def F.lnCemId_CRC : Fld := ⟨.lnCemId, 0, 32⟩
def F.lnEscanCfg_EN : Fld := ⟨.lnEscanCfg, 31, 1⟩
def F.lnEscanCfg_EYE : Fld := ⟨.lnEscanCfg, 24, 2⟩
def F.lnEscanCfg_WIN_LOG2 : Fld := ⟨.lnEscanCfg, 16, 5⟩
def F.lnEscanCfg_VOFF : Fld := ⟨.lnEscanCfg, 8, 8⟩
def F.lnEscanCfg_PHOFF : Fld := ⟨.lnEscanCfg, 0, 6⟩
def F.lnEscanErr_ERR : Fld := ⟨.lnEscanErr, 0, 32⟩
def F.lnEscanUi_STALE : Fld := ⟨.lnEscanUi, 31, 1⟩
def F.lnEscanUi_UI : Fld := ⟨.lnEscanUi, 0, 27⟩
def F.pcsIdleCfg_DELAY : Fld := ⟨.pcsIdleCfg, 0, 16⟩
def F.pcsStat_RESUME_FAIL : Fld := ⟨.pcsStat, 1, 1⟩
def F.pcsStat_DESKEW_ERR : Fld := ⟨.pcsStat, 0, 1⟩
def F.pcsIe_RESUME_FAIL : Fld := ⟨.pcsIe, 1, 1⟩
def F.pcsIe_DESKEW_ERR : Fld := ⟨.pcsIe, 0, 1⟩
def F.pcsState_SKEW : Fld := ⟨.pcsState, 16, 8⟩
def F.pcsState_IDLE_RX : Fld := ⟨.pcsState, 4, 2⟩
def F.pcsState_IDLE_TX : Fld := ⟨.pcsState, 0, 2⟩
def F.pcsCwPhase_PHASE : Fld := ⟨.pcsCwPhase, 0, 16⟩
def F.tsCtl_HOST_OWN : Fld := ⟨.tsCtl, 0, 1⟩
def F.tsStat_PARITY : Fld := ⟨.tsStat, 31, 1⟩
def F.tsStat_TOD_SET : Fld := ⟨.tsStat, 30, 1⟩
def F.tsStat_STALE_ACT : Fld := ⟨.tsStat, 29, 1⟩
def F.tsStat_SLEW_ACT : Fld := ⟨.tsStat, 28, 1⟩
def F.tsStat_ACT_LOAD : Fld := ⟨.tsStat, 7, 1⟩
def F.tsStat_BASE_JUMP : Fld := ⟨.tsStat, 6, 1⟩
def F.tsStat_SLEW_DONE : Fld := ⟨.tsStat, 5, 1⟩
def F.tsStat_STALE : Fld := ⟨.tsStat, 4, 1⟩
def F.tsStat_CLAMP : Fld := ⟨.tsStat, 3, 1⟩
def F.tsIe_ACT_LOAD : Fld := ⟨.tsIe, 7, 1⟩
def F.tsIe_BASE_JUMP : Fld := ⟨.tsIe, 6, 1⟩
def F.tsIe_SLEW_DONE : Fld := ⟨.tsIe, 5, 1⟩
def F.tsIe_STALE : Fld := ⟨.tsIe, 4, 1⟩
def F.tsIe_CLAMP : Fld := ⟨.tsIe, 3, 1⟩
def F.tsWhorlNs_NS : Fld := ⟨.tsWhorlNs, 0, 32⟩
def F.tsWhorlFrac_FRAC : Fld := ⟨.tsWhorlFrac, 0, 32⟩
def F.tsNtNs_NS : Fld := ⟨.tsNtNs, 0, 30⟩
def F.tsNtSecLo_SEC : Fld := ⟨.tsNtSecLo, 0, 32⟩
def F.tsNtSecHi_VALID : Fld := ⟨.tsNtSecHi, 31, 1⟩
def F.tsNtSecHi_PARITY : Fld := ⟨.tsNtSecHi, 30, 1⟩
def F.tsNtSecHi_SEC : Fld := ⟨.tsNtSecHi, 0, 16⟩
def F.tsIncFrac_FRAC : Fld := ⟨.tsIncFrac, 0, 32⟩
def F.tsIncNs_NS : Fld := ⟨.tsIncNs, 0, 8⟩
def F.tsSlewDelta_DELTA : Fld := ⟨.tsSlewDelta, 0, 32⟩
def F.tsSlewCount_COUNT : Fld := ⟨.tsSlewCount, 0, 32⟩
def F.tsBaseStgNs_NS : Fld := ⟨.tsBaseStgNs, 0, 32⟩
def F.tsBaseStgSlo_SEC : Fld := ⟨.tsBaseStgSlo, 0, 32⟩
def F.tsBaseStgShi_SEC : Fld := ⟨.tsBaseStgShi, 0, 16⟩
def F.tsBaseCtl_LOAD : Fld := ⟨.tsBaseCtl, 31, 1⟩
def F.tsBaseCtl_TGT : Fld := ⟨.tsBaseCtl, 30, 1⟩
def F.tsBaseCtl_TOD_SET : Fld := ⟨.tsBaseCtl, 2, 1⟩
def F.tsBaseCtl_ARM_ODD : Fld := ⟨.tsBaseCtl, 1, 1⟩
def F.tsBaseCtl_ARM_EVEN : Fld := ⟨.tsBaseCtl, 0, 1⟩
def F.tsBaseEvenNs_NSSEC : Fld := ⟨.tsBaseEvenNs, 0, 32⟩
def F.tsBaseEvenSlo_NSSEC : Fld := ⟨.tsBaseEvenSlo, 0, 32⟩
def F.tsBaseEvenShi_NSSEC : Fld := ⟨.tsBaseEvenShi, 0, 32⟩
def F.tsBaseOddNs_NSSEC : Fld := ⟨.tsBaseOddNs, 0, 32⟩
def F.tsBaseOddSlo_NSSEC : Fld := ⟨.tsBaseOddSlo, 0, 32⟩
def F.tsBaseOddShi_NSSEC : Fld := ⟨.tsBaseOddShi, 0, 32⟩
def F.tsPpsCfg_EN : Fld := ⟨.tsPpsCfg, 31, 1⟩
def F.tsPpsCfg_WIDTH : Fld := ⟨.tsPpsCfg, 0, 30⟩
def F.tsEvtCtl_EN : Fld := ⟨.tsEvtCtl, 31, 1⟩
def F.tsEvtCtl_IE : Fld := ⟨.tsEvtCtl, 3, 1⟩
def F.tsEvtCtl_POL : Fld := ⟨.tsEvtCtl, 2, 1⟩
def F.tsEvtCtl_PERIODIC : Fld := ⟨.tsEvtCtl, 1, 1⟩
def F.tsEvtStart_START : Fld := ⟨.tsEvtStart, 0, 32⟩
def F.tsEvtFrac_PER_FRAC : Fld := ⟨.tsEvtFrac, 8, 8⟩
def F.tsEvtFrac_START_FRAC : Fld := ⟨.tsEvtFrac, 0, 8⟩
def F.tsEvtPeriod_NS : Fld := ⟨.tsEvtPeriod, 0, 31⟩
def F.tsEvtWidth_NS : Fld := ⟨.tsEvtWidth, 0, 31⟩
def F.tsEvtStat_MISSED : Fld := ⟨.tsEvtStat, 2, 1⟩
def F.tsEvtStat_DONE : Fld := ⟨.tsEvtStat, 1, 1⟩
def F.tsEvtStat_ACTIVE : Fld := ⟨.tsEvtStat, 0, 1⟩
def F.tsCapCtl_EN : Fld := ⟨.tsCapCtl, 31, 1⟩
def F.tsCapCtl_OWNER : Fld := ⟨.tsCapCtl, 4, 1⟩
def F.tsCapCtl_IE : Fld := ⟨.tsCapCtl, 3, 1⟩
def F.tsCapCtl_EDGE : Fld := ⟨.tsCapCtl, 1, 2⟩
def F.tsCapNs_NS : Fld := ⟨.tsCapNs, 0, 32⟩
def F.tsCapInfo_VALID : Fld := ⟨.tsCapInfo, 31, 1⟩
def F.tsCapInfo_PARITY : Fld := ⟨.tsCapInfo, 30, 1⟩
def F.tsCapInfo_RISE : Fld := ⟨.tsCapInfo, 29, 1⟩
def F.tsCapInfo_FRAC : Fld := ⟨.tsCapInfo, 0, 8⟩
def F.tsCapStat_OVF : Fld := ⟨.tsCapStat, 31, 1⟩
def F.tsCapStat_LEVEL : Fld := ⟨.tsCapStat, 0, 5⟩
def F.tsRclkCtl_EN : Fld := ⟨.tsRclkCtl, 31, 1⟩
def F.tsRclkCtl_LANE : Fld := ⟨.tsRclkCtl, 16, 9⟩
def F.tsRclkCtl_DIV : Fld := ⟨.tsRclkCtl, 0, 3⟩
def F.tsRclkStat_SQ_CHG : Fld := ⟨.tsRclkStat, 1, 1⟩
def F.tsRclkStat_SQUELCHED : Fld := ⟨.tsRclkStat, 0, 1⟩
def F.tsStpCtl_ONE_STEP_EN : Fld := ⟨.tsStpCtl, 0, 1⟩
def F.tsStpStat_ORIGIN_INV : Fld := ⟨.tsStpStat, 3, 1⟩
def F.tsStpStat_SAT : Fld := ⟨.tsStpStat, 2, 1⟩
def F.tsStpStat_BC_PASS : Fld := ⟨.tsStpStat, 1, 1⟩
def F.tsStpStat_NO_CF : Fld := ⟨.tsStpStat, 0, 1⟩
def F.tsStpIe_ORIGIN_INV : Fld := ⟨.tsStpIe, 3, 1⟩
def F.tsStpIe_SAT : Fld := ⟨.tsStpIe, 2, 1⟩
def F.tsStpIe_BC_PASS : Fld := ⟨.tsStpIe, 1, 1⟩
def F.tsStpIe_NO_CF : Fld := ⟨.tsStpIe, 0, 1⟩
def F.tsRingCtl_EN : Fld := ⟨.tsRingCtl, 31, 1⟩
def F.tsRingCtl_OWNER : Fld := ⟨.tsRingCtl, 4, 1⟩
def F.tsRingCtl_IE : Fld := ⟨.tsRingCtl, 3, 1⟩
def F.tsRingProd_PROD : Fld := ⟨.tsRingProd, 0, 16⟩
def F.tsRingCons_CONS : Fld := ⟨.tsRingCons, 0, 16⟩
def F.tsRingStat_OVF : Fld := ⟨.tsRingStat, 31, 1⟩
def F.tsRingStat_LEVEL : Fld := ⟨.tsRingStat, 0, 11⟩
def F.tsRingEnt_WORD : Fld := ⟨.tsRingEnt, 0, 32⟩
def F.tsPortDomEn_EN : Fld := ⟨.tsPortDomEn, 0, 8⟩
def F.tsPortTrim_TX_TRIM : Fld := ⟨.tsPortTrim, 16, 16⟩
def F.tsPortTrim_RX_TRIM : Fld := ⟨.tsPortTrim, 0, 16⟩
def F.mirStat_SRC_ERR : Fld := ⟨.mirStat, 1, 1⟩
def F.mirStat_RATE : Fld := ⟨.mirStat, 0, 1⟩
def F.mirIe_SRC_ERR : Fld := ⟨.mirIe, 1, 1⟩
def F.mirIe_RATE : Fld := ⟨.mirIe, 0, 1⟩
def F.mirSessCfg_VALID : Fld := ⟨.mirSessCfg, 31, 1⟩
def F.mirSessCfg_KIND : Fld := ⟨.mirSessCfg, 28, 2⟩
def F.mirSessCfg_POINT : Fld := ⟨.mirSessCfg, 24, 1⟩
def F.mirSessCfg_CLASS : Fld := ⟨.mirSessCfg, 20, 3⟩
def F.mirSessCfg_DEST : Fld := ⟨.mirSessCfg, 0, 16⟩
def F.mirSessTrunc_TRUNC_LEN : Fld := ⟨.mirSessTrunc, 0, 14⟩
def F.mirSessRate_RATE : Fld := ⟨.mirSessRate, 0, 25⟩
def F.mirSessBurst_BURST : Fld := ⟨.mirSessBurst, 0, 24⟩
def F.mirEncDmacHi_ADDR : Fld := ⟨.mirEncDmacHi, 0, 16⟩
def F.mirEncDmacLo_ADDR : Fld := ⟨.mirEncDmacLo, 0, 32⟩
def F.mirEncSmacHi_ADDR : Fld := ⟨.mirEncSmacHi, 0, 16⟩
def F.mirEncSmacLo_ADDR : Fld := ⟨.mirEncSmacLo, 0, 32⟩
def F.mirEncL3_TTL : Fld := ⟨.mirEncL3, 24, 8⟩
def F.mirEncL3_DSCP : Fld := ⟨.mirEncL3, 16, 6⟩
def F.mirEncL3_VID : Fld := ⟨.mirEncL3, 0, 12⟩
def F.mirEncUdp_SPORT : Fld := ⟨.mirEncUdp, 16, 16⟩
def F.mirEncUdp_DPORT : Fld := ⟨.mirEncUdp, 0, 16⟩
def F.mirEncSip_ADDR : Fld := ⟨.mirEncSip, 0, 32⟩
def F.mirEncDip_ADDR : Fld := ⟨.mirEncDip, 0, 32⟩
def F.mirPortSrc_EG_MASK : Fld := ⟨.mirPortSrc, 8, 8⟩
def F.mirPortSrc_IN_MASK : Fld := ⟨.mirPortSrc, 0, 8⟩
def F.cntCtl_XFER_EN : Fld := ⟨.cntCtl, 0, 1⟩
def F.cntStat_ARR_SAT : Fld := ⟨.cntStat, 3, 1⟩
def F.cntStat_PARTIAL : Fld := ⟨.cntStat, 2, 1⟩
def F.cntStat_XFER_LATE : Fld := ⟨.cntStat, 1, 1⟩
def F.cntStat_SNAP : Fld := ⟨.cntStat, 0, 1⟩
def F.cntIe_ARR_SAT : Fld := ⟨.cntIe, 3, 1⟩
def F.cntIe_PARTIAL : Fld := ⟨.cntIe, 2, 1⟩
def F.cntIe_XFER_LATE : Fld := ⟨.cntIe, 1, 1⟩
def F.cntIe_SNAP : Fld := ⟨.cntIe, 0, 1⟩
def F.cntSnap_SNAP : Fld := ⟨.cntSnap, 0, 1⟩
def F.cntSnapSeq_SEQ : Fld := ⟨.cntSnapSeq, 0, 32⟩
def F.cntSnapWhorl_NS : Fld := ⟨.cntSnapWhorl, 0, 32⟩
def F.cntSnapInfo_VALID : Fld := ⟨.cntSnapInfo, 1, 1⟩
def F.cntSnapInfo_PARITY : Fld := ⟨.cntSnapInfo, 0, 1⟩
def F.cntSnapSlot_SLOT : Fld := ⟨.cntSnapSlot, 0, 32⟩
def F.cntSnapSkip_SLICE : Fld := ⟨.cntSnapSkip, 0, 32⟩
def F.cntXfer_ACTIVE : Fld := ⟨.cntXfer, 31, 1⟩
def F.cntXfer_POS : Fld := ⟨.cntXfer, 0, 23⟩
def F.mbStat_OUT_POSTED : Fld := ⟨.mbStat, 16, 16⟩
def F.mbStat_IN_FREED : Fld := ⟨.mbStat, 0, 16⟩
def F.mbIe_OUT_POSTED : Fld := ⟨.mbIe, 16, 16⟩
def F.mbIe_IN_FREED : Fld := ⟨.mbIe, 0, 16⟩
def F.mbErr_SEQ : Fld := ⟨.mbErr, 1, 1⟩
def F.mbErr_VIOL : Fld := ⟨.mbErr, 0, 1⟩
def F.mbErrInfo_SID : Fld := ⟨.mbErrInfo, 24, 8⟩
def F.mbErrInfo_CHANNEL : Fld := ⟨.mbErrInfo, 16, 4⟩
def F.mbErrInfo_KIND : Fld := ⟨.mbErrInfo, 0, 4⟩
def F.mbViolCnt_COUNT : Fld := ⟨.mbViolCnt, 0, 32⟩
def F.mbH2dDbLo_DB : Fld := ⟨.mbH2dDbLo, 0, 32⟩
def F.mbH2dDbHi_DB : Fld := ⟨.mbH2dDbHi, 0, 32⟩
def F.mbD2hDbLo_DB : Fld := ⟨.mbD2hDbLo, 0, 32⟩
def F.mbD2hDbHi_DB : Fld := ⟨.mbD2hDbHi, 0, 32⟩
def F.mbD2hIeLo_IE : Fld := ⟨.mbD2hIeLo, 0, 32⟩
def F.mbD2hIeHi_IE : Fld := ⟨.mbD2hIeHi, 0, 32⟩
def F.mbBind_VALID : Fld := ⟨.mbBind, 31, 1⟩
def F.mbBind_SID : Fld := ⟨.mbBind, 0, 8⟩
def F.mbInSlot_DATA : Fld := ⟨.mbInSlot, 0, 32⟩
def F.mbInCtl_POST : Fld := ⟨.mbInCtl, 31, 1⟩
def F.mbInCtl_NEW_INC : Fld := ⟨.mbInCtl, 30, 1⟩
def F.mbInCtl_CONSUME : Fld := ⟨.mbInCtl, 29, 1⟩
def F.mbInCtl_INC_PEND : Fld := ⟨.mbInCtl, 16, 1⟩
def F.mbInCtl_STATE : Fld := ⟨.mbInCtl, 0, 1⟩
def F.mbInInc_INC : Fld := ⟨.mbInInc, 0, 32⟩
def F.mbInCinc_INC : Fld := ⟨.mbInCinc, 0, 32⟩
def F.mbOutSlot_DATA : Fld := ⟨.mbOutSlot, 0, 32⟩
def F.mbOutCtl_POST : Fld := ⟨.mbOutCtl, 31, 1⟩
def F.mbOutCtl_CONSUME : Fld := ⟨.mbOutCtl, 29, 1⟩
def F.mbOutCtl_STATE : Fld := ⟨.mbOutCtl, 0, 1⟩
def F.glbStat_CC_ONLY : Fld := ⟨.glbStat, 3, 1⟩
def F.glbStat_ALIAS : Fld := ⟨.glbStat, 2, 1⟩
def F.glbStat_ACC : Fld := ⟨.glbStat, 1, 1⟩
def F.glbStat_UPD_LOST : Fld := ⟨.glbStat, 0, 1⟩
def F.glbIe_CC_ONLY : Fld := ⟨.glbIe, 3, 1⟩
def F.glbIe_ALIAS : Fld := ⟨.glbIe, 2, 1⟩
def F.glbIe_ACC : Fld := ⟨.glbIe, 1, 1⟩
def F.glbIe_UPD_LOST : Fld := ⟨.glbIe, 0, 1⟩
def F.glbUpdInfo_WRITER : Fld := ⟨.glbUpdInfo, 30, 2⟩
def F.glbUpdInfo_OFFSET : Fld := ⟨.glbUpdInfo, 0, 28⟩
def F.glbAccAddr_OFFSET : Fld := ⟨.glbAccAddr, 0, 28⟩
def F.glbAccInfo_SID : Fld := ⟨.glbAccInfo, 8, 8⟩
def F.glbAccInfo_KIND : Fld := ⟨.glbAccInfo, 0, 3⟩
def F.glbUpdCnt_COUNT : Fld := ⟨.glbUpdCnt, 0, 32⟩
def F.glbIntPendLo_PEND : Fld := ⟨.glbIntPendLo, 0, 32⟩
def F.glbIntPendHi_PEND : Fld := ⟨.glbIntPendHi, 0, 32⟩
def F.glbIntFiredLo_FIRED : Fld := ⟨.glbIntFiredLo, 0, 32⟩
def F.glbIntFiredHi_FIRED : Fld := ⟨.glbIntFiredHi, 0, 32⟩
def F.glbIntRoute_EN : Fld := ⟨.glbIntRoute, 31, 1⟩
def F.glbIntRoute_VECTOR : Fld := ⟨.glbIntRoute, 0, 6⟩
def F.glbIntInst_LINE : Fld := ⟨.glbIntInst, 0, 32⟩
def F.dmaCtl_RO_EN : Fld := ⟨.dmaCtl, 0, 1⟩
def F.dmaStat_TAIL_ERR : Fld := ⟨.dmaStat, 1, 1⟩
def F.dmaStat_FAULT : Fld := ⟨.dmaStat, 0, 1⟩
def F.dmaIe_TAIL_ERR : Fld := ⟨.dmaIe, 1, 1⟩
def F.dmaIe_FAULT : Fld := ⟨.dmaIe, 0, 1⟩
def F.dmaErrInfo_DIR : Fld := ⟨.dmaErrInfo, 7, 1⟩
def F.dmaErrInfo_RING : Fld := ⟨.dmaErrInfo, 0, 5⟩
def F.dmaErrInfo_KIND : Fld := ⟨.dmaErrInfo, 8, 3⟩
def F.dmaRxStat_RING : Fld := ⟨.dmaRxStat, 0, 32⟩
def F.dmaRxIe_IE : Fld := ⟨.dmaRxIe, 0, 32⟩
def F.dmaTxStat_RING : Fld := ⟨.dmaTxStat, 0, 32⟩
def F.dmaTxIe_IE : Fld := ⟨.dmaTxIe, 0, 32⟩
def F.dmaRxqMap_RING_LOG2 : Fld := ⟨.dmaRxqMap, 8, 2⟩
def F.dmaRxqMap_RING_BASE : Fld := ⟨.dmaRxqMap, 0, 5⟩
def F.dmaRxBaseLo_BASE : Fld := ⟨.dmaRxBaseLo, 0, 32⟩
def F.dmaRxBaseHi_BASE : Fld := ⟨.dmaRxBaseHi, 0, 32⟩
def F.dmaRxCfg_EN : Fld := ⟨.dmaRxCfg, 31, 1⟩
def F.dmaRxCfg_LOG2_COUNT : Fld := ⟨.dmaRxCfg, 24, 5⟩
def F.dmaRxCfg_COAL_US : Fld := ⟨.dmaRxCfg, 14, 10⟩
def F.dmaRxCfg_COAL_FRAMES : Fld := ⟨.dmaRxCfg, 6, 8⟩
def F.dmaRxCfg_KEEP_FCS : Fld := ⟨.dmaRxCfg, 5, 1⟩
def F.dmaRxHead_HEAD : Fld := ⟨.dmaRxHead, 0, 32⟩
def F.dmaRxTail_TAIL : Fld := ⟨.dmaRxTail, 0, 32⟩
def F.dmaRxBuf_BUF_128 : Fld := ⟨.dmaRxBuf, 0, 8⟩
def F.dmaTxBaseLo_BASE : Fld := ⟨.dmaTxBaseLo, 0, 32⟩
def F.dmaTxBaseHi_BASE : Fld := ⟨.dmaTxBaseHi, 0, 32⟩
def F.dmaTxCfg_EN : Fld := ⟨.dmaTxCfg, 31, 1⟩
def F.dmaTxCfg_LOG2_COUNT : Fld := ⟨.dmaTxCfg, 24, 5⟩
def F.dmaTxCfg_COAL_US : Fld := ⟨.dmaTxCfg, 14, 10⟩
def F.dmaTxCfg_COAL_FRAMES : Fld := ⟨.dmaTxCfg, 6, 8⟩
def F.dmaTxHead_HEAD : Fld := ⟨.dmaTxHead, 0, 32⟩
def F.dmaTxTail_TAIL : Fld := ⟨.dmaTxTail, 0, 32⟩
def F.rlStat_ROOT : Fld := ⟨.rlStat, 31, 1⟩
def F.rlStat_CONFLICT : Fld := ⟨.rlStat, 2, 1⟩
def F.rlStat_TOPO : Fld := ⟨.rlStat, 1, 1⟩
def F.rlStat_UNREACH : Fld := ⟨.rlStat, 0, 1⟩
def F.rlIe_CONFLICT : Fld := ⟨.rlIe, 2, 1⟩
def F.rlIe_TOPO : Fld := ⟨.rlIe, 1, 1⟩
def F.rlIe_UNREACH : Fld := ⟨.rlIe, 0, 1⟩
def F.rlNodeIntLo_INT : Fld := ⟨.rlNodeIntLo, 0, 32⟩
def F.rlNodeIntHi_INT : Fld := ⟨.rlNodeIntHi, 0, 32⟩
def F.rlNodeValidLo_VALID : Fld := ⟨.rlNodeValidLo, 0, 32⟩
def F.rlNodeValidHi_VALID : Fld := ⟨.rlNodeValidHi, 0, 32⟩
def F.rlNodeIeLo_IE : Fld := ⟨.rlNodeIeLo, 0, 32⟩
def F.rlNodeIeHi_IE : Fld := ⟨.rlNodeIeHi, 0, 32⟩
def F.rlPortStat_UP : Fld := ⟨.rlPortStat, 31, 1⟩
def F.rlPortStat_CROSSED : Fld := ⟨.rlPortStat, 30, 1⟩
def F.rlPortStat_STATE : Fld := ⟨.rlPortStat, 24, 4⟩
def F.rlPortStat_PEER_HOPS : Fld := ⟨.rlPortStat, 20, 4⟩
def F.rlPortStat_VERSION : Fld := ⟨.rlPortStat, 0, 16⟩
def F.rlRoute_VALID : Fld := ⟨.rlRoute, 31, 1⟩
def F.rlRoute_PORT : Fld := ⟨.rlRoute, 0, 2⟩
def F.protCtl_LOCK : Fld := ⟨.protCtl, 31, 1⟩
def F.protStat_WDT : Fld := ⟨.protStat, 4, 1⟩
def F.protStat_DMA_VIOL : Fld := ⟨.protStat, 3, 1⟩
def F.protStat_LATE_WR : Fld := ⟨.protStat, 2, 1⟩
def F.protStat_NOMATCH : Fld := ⟨.protStat, 1, 1⟩
def F.protStat_FW_VIOL : Fld := ⟨.protStat, 0, 1⟩
def F.protIe_WDT : Fld := ⟨.protIe, 4, 1⟩
def F.protIe_DMA_VIOL : Fld := ⟨.protIe, 3, 1⟩
def F.protIe_LATE_WR : Fld := ⟨.protIe, 2, 1⟩
def F.protIe_NOMATCH : Fld := ⟨.protIe, 1, 1⟩
def F.protIe_FW_VIOL : Fld := ⟨.protIe, 0, 1⟩
def F.protViolAddr_ADDR : Fld := ⟨.protViolAddr, 0, 32⟩
def F.protViolInfo_SID : Fld := ⟨.protViolInfo, 24, 8⟩
def F.protViolInfo_WRITE : Fld := ⟨.protViolInfo, 16, 1⟩
def F.protViolInfo_KIND : Fld := ⟨.protViolInfo, 0, 3⟩
def F.protViolCnt_COUNT : Fld := ⟨.protViolCnt, 0, 32⟩
def F.protRst_CORE : Fld := ⟨.protRst, 8, 1⟩
def F.protRst_CC : Fld := ⟨.protRst, 4, 1⟩
def F.protRst_QUAD : Fld := ⟨.protRst, 0, 4⟩
def F.protWdt_EN : Fld := ⟨.protWdt, 31, 1⟩
def F.protWdt_KICK : Fld := ⟨.protWdt, 0, 1⟩
def F.protBoot_RUNNING : Fld := ⟨.protBoot, 31, 1⟩
def F.protBoot_RECOVERY : Fld := ⟨.protBoot, 30, 1⟩
def F.protBoot_CAUSE : Fld := ⟨.protBoot, 24, 4⟩
def F.protBoot_STAGE : Fld := ⟨.protBoot, 20, 2⟩
def F.protBoot_BOOT_SLOT : Fld := ⟨.protBoot, 16, 1⟩
def F.protBoot_TRIAL : Fld := ⟨.protBoot, 9, 1⟩
def F.protBoot_FW_SLOT : Fld := ⟨.protBoot, 8, 1⟩
def F.protBoot_STARTS : Fld := ⟨.protBoot, 0, 8⟩
def F.protDmaRevoke_REVOKE : Fld := ⟨.protDmaRevoke, 0, 16⟩
def F.protReqId_MASK : Fld := ⟨.protReqId, 16, 16⟩
def F.protReqId_RID : Fld := ⟨.protReqId, 0, 16⟩
def F.protReqCfg_VALID : Fld := ⟨.protReqCfg, 31, 1⟩
def F.protReqCfg_SECURE : Fld := ⟨.protReqCfg, 30, 1⟩
def F.protReqCfg_T_REQ : Fld := ⟨.protReqCfg, 29, 1⟩
def F.protFwrBase_PAGE : Fld := ⟨.protFwrBase, 12, 16⟩
def F.protFwrLimit_PAGE : Fld := ⟨.protFwrLimit, 12, 16⟩
def F.protFwrPerm_VALID : Fld := ⟨.protFwrPerm, 31, 1⟩
def F.protFwrPerm_SID_EN : Fld := ⟨.protFwrPerm, 22, 1⟩
def F.protFwrPerm_SID : Fld := ⟨.protFwrPerm, 16, 6⟩
def F.protFwrPerm_NS_RD : Fld := ⟨.protFwrPerm, 0, 1⟩
def F.protFwrPerm_NS_WR : Fld := ⟨.protFwrPerm, 1, 1⟩
def F.protFwrPerm_S_RD : Fld := ⟨.protFwrPerm, 2, 1⟩
def F.protFwrPerm_S_WR : Fld := ⟨.protFwrPerm, 3, 1⟩
def F.protDmaBaseLo_ADDR : Fld := ⟨.protDmaBaseLo, 12, 20⟩
def F.protDmaBaseHi_ADDR : Fld := ⟨.protDmaBaseHi, 0, 32⟩
def F.protDmaLimLo_ADDR : Fld := ⟨.protDmaLimLo, 12, 20⟩
def F.protDmaLimHi_ADDR : Fld := ⟨.protDmaLimHi, 0, 32⟩
def F.protDmaCfg_VALID : Fld := ⟨.protDmaCfg, 31, 1⟩
def F.protDmaCfg_SECURE_ONLY : Fld := ⟨.protDmaCfg, 2, 1⟩
def F.protDmaCfg_RD : Fld := ⟨.protDmaCfg, 0, 1⟩
def F.protDmaCfg_WR : Fld := ⟨.protDmaCfg, 1, 1⟩
def F.pwrCtl_CHG_EN : Fld := ⟨.pwrCtl, 0, 1⟩
def F.pwrStat_ON_HOLD : Fld := ⟨.pwrStat, 31, 1⟩
def F.pwrStat_CHARGED : Fld := ⟨.pwrStat, 30, 1⟩
def F.pwrStat_CAP_STATE : Fld := ⟨.pwrStat, 24, 3⟩
def F.pwrStat_CORE_LOSS : Fld := ⟨.pwrStat, 4, 1⟩
def F.pwrStat_VDD_UV : Fld := ⟨.pwrStat, 3, 1⟩
def F.pwrStat_CAP_FAULT : Fld := ⟨.pwrStat, 2, 1⟩
def F.pwrStat_SAG_END : Fld := ⟨.pwrStat, 1, 1⟩
def F.pwrStat_SAG : Fld := ⟨.pwrStat, 0, 1⟩
def F.pwrIe_CORE_LOSS : Fld := ⟨.pwrIe, 4, 1⟩
def F.pwrIe_VDD_UV : Fld := ⟨.pwrIe, 3, 1⟩
def F.pwrIe_CAP_FAULT : Fld := ⟨.pwrIe, 2, 1⟩
def F.pwrIe_SAG_END : Fld := ⟨.pwrIe, 1, 1⟩
def F.pwrIe_SAG : Fld := ⟨.pwrIe, 0, 1⟩
def F.pwrHoldV_MV : Fld := ⟨.pwrHoldV, 0, 14⟩
def F.pwrCap_ESR : Fld := ⟨.pwrCap, 16, 16⟩
def F.pwrCap_C : Fld := ⟨.pwrCap, 0, 16⟩
def F.pwrRail_GOOD : Fld := ⟨.pwrRail, 0, 5⟩
def F.pwrSagInfo_SOURCE : Fld := ⟨.pwrSagInfo, 0, 2⟩
def F.pwrSagCnt_COUNT : Fld := ⟨.pwrSagCnt, 0, 32⟩
def F.ksStat_SESSION : Fld := ⟨.ksStat, 31, 1⟩
def F.ksStat_SAVE_BUSY : Fld := ⟨.ksStat, 30, 1⟩
def F.ksStat_SAVE_RISK : Fld := ⟨.ksStat, 29, 1⟩
def F.ksStat_WR_ERR : Fld := ⟨.ksStat, 2, 1⟩
def F.ksStat_SAVE_FAIL : Fld := ⟨.ksStat, 1, 1⟩
def F.ksStat_SAVE_DONE : Fld := ⟨.ksStat, 0, 1⟩
def F.ksIe_WR_ERR : Fld := ⟨.ksIe, 2, 1⟩
def F.ksIe_SAVE_FAIL : Fld := ⟨.ksIe, 1, 1⟩
def F.ksIe_SAVE_DONE : Fld := ⟨.ksIe, 0, 1⟩
def F.ksSaveSeq_SEQ : Fld := ⟨.ksSaveSeq, 0, 32⟩
def F.ksSaveLen_SLOT : Fld := ⟨.ksSaveLen, 31, 1⟩
def F.ksSaveLen_LEN : Fld := ⟨.ksSaveLen, 0, 20⟩
def F.thmCtl_WARN_C : Fld := ⟨.thmCtl, 0, 8⟩
def F.thmStat_LEVEL : Fld := ⟨.thmStat, 30, 2⟩
def F.thmStat_SENSOR_FAIL : Fld := ⟨.thmStat, 3, 1⟩
def F.thmStat_CRIT : Fld := ⟨.thmStat, 2, 1⟩
def F.thmStat_HOT : Fld := ⟨.thmStat, 1, 1⟩
def F.thmStat_WARN : Fld := ⟨.thmStat, 0, 1⟩
def F.thmIe_SENSOR_FAIL : Fld := ⟨.thmIe, 3, 1⟩
def F.thmIe_CRIT : Fld := ⟨.thmIe, 2, 1⟩
def F.thmIe_HOT : Fld := ⟨.thmIe, 1, 1⟩
def F.thmIe_WARN : Fld := ⟨.thmIe, 0, 1⟩
def F.thmMax_TJ : Fld := ⟨.thmMax, 0, 12⟩
def F.thmTemp_VALID : Fld := ⟨.thmTemp, 31, 1⟩
def F.thmTemp_TEMP : Fld := ⟨.thmTemp, 0, 12⟩

end Sys2Proof.Machine
end

