-- ==== Sys2Proof/Machine/State.lean ====
section
/-!
DEFINITION. The state of the block: everything the spec gives the machine, as plain data, and the state after power-on
reset. Registers are the sparse table `regs`; the large tables and memories are sparse tables too; what the chapters
describe as queues, lists and pipelines are lists of records.
-/
namespace Sys2Proof.Machine
open Sys2Proof

/-! ### Identity, time and the schedule (chapters 1, 2, 14) -/

/-- What the fuses fix (R7, R12, R38, R589): ordering code, grade, stepping, and the image-verification fuses: the four
public-key digests, a revocation bit for each key slot, and the SVN minimum of boot code and of firmware. -/
structure Fuses where
  code : Config.Code := .f
  grade : Nat := 0
  step : Nat := 1
  keyDigest : List Nat := [0, 0, 0, 0]
  revoked : Nat := 0
  svnMinBoot : Nat := 0
  svnMinFw : Nat := 0
  deriving DecidableEq, Repr

/-- A base register: 48-bit seconds and a 32-bit nanosecond part of any value (R411). -/
structure NetBase where
  sec : Nat := 0
  ns : Nat := 0
  deriving DecidableEq, Repr

/-- A capture record (R425, R426): whorl ns, fraction in 1/256 ns, PARITY and edge of one input. -/
structure CapRec where
  ns : Nat
  frac : Nat
  parity : Bool
  rise : Bool
  deriving DecidableEq, Repr

/-- A running event output (R422): the whorl instant of its next edge in 1/256 ns, modulo 2^40, and whether it is
asserted. -/
structure EvtRun where
  next : Nat
  high : Bool := false
  deriving DecidableEq, Repr

/-- An event output that firmware holds until its start is near (R423): output, network-time start in ns, and the register
values to write. -/
structure EvtHeld where
  out : Nat
  start : Nat
  frac : Nat
  period : Nat
  width : Nat
  ctl : Nat
  deriving DecidableEq, Repr

/-- The states of the servo (R419). -/
inductive ServoState where
  | stopped | freeRun | acquiring | locked | holdover
  deriving DecidableEq, Repr

/-- The servo (R419, R420, R431, R432): its mode and parameters, its state, and what it remembers of its source. -/
structure Servo where
  mode : Nat := 0
  port : Nat := 0
  domain : Nat := 0
  lockNs : Nat := 0
  stepNs : Nat := 0
  slewMax : Nat := 0
  holdMax : Nat := 0
  state : ServoState := .stopped
  lastOffset : Int := 0
  since : Nat := 0
  changes : List Nat := [0, 0, 0, 0, 0]
  goodRun : Nat := 0
  history : List Nat := []
  hint : Option (Nat × Nat) := none
  lastPps : Option (Nat × Nat) := none
  qualified : Bool := false
  lastEdgeSlot : Nat := 0
  deriving DecidableEq, Repr

/-- The whorl and network time (R402 to R418): the Q32.32 whorl as one 64-bit number, PARITY, the Q8.32 increment in force,
its shadow and the increment that governs from the next slot, the running slew and one waiting to start, both bases with
their ARM bits, a base load waiting for the next edge or the one after it (R55), and whether the active base was
loaded since firmware last converted its times (R62). `held` and `evts` are the event outputs that firmware holds and those it has
programmed (R423). -/
structure TimeEng where
  whorl : Nat := 0
  parity : Bool := false
  inc : Nat := Config.nominalInc
  incShadow : Nat := Config.nominalInc % 2 ^ 32
  incPend : Option Nat := none
  slewLeft : Nat := 0
  slewDelta : Int := 0
  slewPend : Option Nat := none
  even : NetBase := {}
  odd : NetBase := {}
  armEven : Bool := false
  armOdd : Bool := false
  todSet : Bool := false
  staleAct : Bool := false
  loadPend : Option Bool := none
  loadSoon : Option Bool := none
  remap : Bool := false
  nextLoadDue : Bool := false
  captures : OTable (List CapRec) := []
  lastEdge : OTable Nat := []
  outputs : OTable EvtRun := []
  ppsHigh : Option Nat := none
  held : List EvtHeld := []
  evts : List EvtHeld := []
  servo : Servo := {}
  deriving DecidableEq, Repr

/-- One write, or other action, of a scheduled command: its action code, address and data (R52, R59). -/
structure SchedAct where
  action : Nat
  addr : Nat := 0
  data : Nat := 0
  deriving DecidableEq, Repr

/-- A scheduled command that firmware has accepted (R59, R60, R81): its handle, network time in ns, its actions, the
hardware entries it is armed in (none while it is held), and the port of a timed mode change. -/
structure Held where
  handle : Nat
  time : Nat
  acts : List SchedAct
  entries : List Nat := []
  modePort : Option Nat := none
  deriving DecidableEq, Repr

/-- The slot counter and the schedule's firmware side (R45, R59, R60). -/
structure Tick where
  slot : Nat := 0
  locked : Bool := false
  refHold : Bool := false
  lastHandle : Nat := 0
  held : List Held := []
  deriving DecidableEq, Repr

/-- What met in the present slot (R541 to R543): the W1C bits that hardware set, the RW bits that hardware updated, and the
register bits that were written, with the party (0 control complex, 1 host, 2 schedule). Keys are register-table keys,
bits are masks. `posts`: the mailbox slots posted, inbound channel `n` as `n`, outbound as `16 + n` (R517, R518). -/
structure Meet where
  sets : List (Nat × Nat) := []
  hw : List (Nat × Nat) := []
  writes : List (Nat × Nat × Nat) := []
  posts : List Nat := []
  deriving DecidableEq, Repr

/-! ### Counters (chapter 17) -/

/-- The counters (R472, R480 to R482): live register counters; 64-bit holding images, by their low register; live and
holding entries of the counter arrays; firmware's totals, the entries whose image saturated, and the snapshot each array's
totals include. Live counters and images are 48 bits wide in the arrays. -/
structure Counters where
  live : Table Nat := []
  sums : Table Nat := []
  arrLive : Table Nat := []
  arrImg : Table Nat := []
  totals : Table Nat := []
  sat : Table Nat := []
  totalsSeq : Nat := 0
  lastSnapEpoch : Nat := 0
  lastSnapSlot : Option Nat := none
  deriving DecidableEq, Repr

/-- What a queue's accumulators hold of its samples (R330, R331): minimum, maximum and sum of the depth, and minimum,
maximum, sum and count of the delay. -/
structure QAcc where
  dMin : Nat := 0
  dMax : Nat := 0
  dSum : Nat := 0
  lMin : Nat := 0
  lMax : Nat := 0
  lSum : Nat := 0
  lCnt : Nat := 0
  deriving DecidableEq, Repr

/-- The sampling of the queues (R330, R331): the samples of the present slot, which its edge adds (a depth, and a delay where one
was taken); by quadrant the samples in the live accumulators, and the epochs in the pending set with the number of the last; the live
accumulators and the pending set; and the number of the epoch now open. A queue not listed had only empty samples. -/
structure Sampling where
  now : Option (Table (Nat × Option Nat)) := none
  liveN : Table Nat := []
  live : Table QAcc := []
  pendEpochs : Table Nat := []
  pendLast : Table Nat := []
  pend : Table QAcc := []
  epoch : Nat := 0
  deriving DecidableEq, Repr

/-! ### Command packets and the event log (chapters 18, 23) -/

/-- The states of a journal entry (R505). -/
inductive JState where
  | consumed | started | done
  deriving DecidableEq, Repr

/-- A journal entry: a command consumed and not yet answered (R505). -/
structure JEntry where
  chan : Nat
  tag : Nat
  inc : Nat
  version : Nat
  opcode : Nat
  state : JState
  deriving DecidableEq, Repr

/-- A command that firmware has consumed and not begun (R501): its opcode, its packet and the incarnation in force. -/
structure Taken where
  opcode : Nat
  pkt : Packet
  inc : Nat
  deriving DecidableEq, Repr

/-- A reply that waits for its outbound slot, or was posted there (R489, R503). -/
structure Reply where
  chan : Nat
  version : Nat
  opcode : Nat
  tag : Nat
  status : Nat
  inc : Nat
  params : List Byte
  deriving DecidableEq, Repr

/-- An event-log record (R625): sequence number, kind, whorl ns, network time in ns, the flags and the data bytes. -/
structure LogRec where
  seq : Nat
  kind : Nat
  whorl : Nat
  nt : Nat
  ntValid : Bool
  parity : Bool
  gap : Bool
  data : List Byte
  deriving DecidableEq, Repr

/-- Firmware's packet state: the journal in always-on RAM (R505), the commands taken and waiting (R501), the replies that
wait for an outbound slot (R503), oldest first, and the commands held through a restoration (R583). -/
structure Packets where
  journal : List JEntry := []
  taken : List Taken := []
  replies : List Reply := []
  deriving DecidableEq, Repr

/-- The event log and configuration journal (R620, R625): stored records, the tails in always-on RAM, the next sequence
number, and whether records were lost since the last one written. -/
structure EventLog where
  stored : List LogRec := []
  tail : List LogRec := []
  nextSeq : Nat := 0
  gap : Bool := false
  cfgStored : List (Nat × List Byte) := []
  cfgTail : List (Nat × List Byte) := []
  cfgGap : Bool := false
  deriving DecidableEq, Repr

/-! ### Boot, power and the keep store (chapters 22, 23) -/

/-- The boot record of the keep store (R586): ACTIVE, PREV, TRIAL and DEADLINE, and what MODE 3 of R604 set for the next
power-on: the ACTIVE firmware slot and the preferred boot slot. -/
structure BootRec where
  active : Nat := 0
  prev : Nat := 0
  trial : Bool := false
  deadline : Nat := 0
  nextActive : Option Nat := none
  bootPref : Option Nat := none
  deriving DecidableEq, Repr

/-- A reset that is running (R581, R582): its kind, what it holds, and the slot it started in. -/
structure RunningReset where
  core : Bool := false
  quads : Nat := 0
  start : Nat := 0
  cause : Nat := 0
  deriving DecidableEq, Repr

/-- Where start-up stands, and the firmware switch (R585 to R600): the BUILD and protocol range of the image running, the trial
starts, a switch waiting for the conditions of R597 with its target and cause and the slot in which consumption stopped for
it, whether a handover is in memory, the epoch of the watchdog's last kick, the cause of the next start, the reset that is
running, and the slot from which each quadrant's blocks initialise after one. -/
structure Boot where
  build : Nat := 0
  protoMin : Nat := 0x0100
  protoMax : Nat := 0x0100
  trialStarts : Nat := 0
  switchTo : Option (Nat × Nat) := none
  switchAt : Option Nat := none
  handover : Bool := false
  kickEpoch : Nat := 0
  nextCause : Nat := 0
  reset : Option RunningReset := none
  initFrom : OTable Nat := []
  deriving DecidableEq, Repr

/-- The image of an emergency save (R621): the header, the time state, the log and journal tails, and DROP totals. -/
structure SaveImage where
  seq : Nat
  len : Nat
  slot : Nat
  whorl : Nat
  parity : Bool
  capState : Nat
  time : TimeEng
  tail : List LogRec
  cfgTail : List (Nat × List Byte)
  drops : List (Nat × Nat)
  omitted : Nat := 0
  dropSeq : Nat := 0
  deriving DecidableEq, Repr

/-- What a keep-store write session writes: the host area, the boot record with a switch that follows it and a slot whose
image is committed, or the log tails as they stood. -/
inductive SessionData where
  | host (offset : Nat) (bytes : List Byte)
  | bootRecord (r : BootRec) (switch : Option (Nat × Nat)) (commit : Option Nat)
  | logs (events journal : Nat)
  deriving DecidableEq, Repr

/-- An open keep-store write session (R617, R618), with the channel and TAG of the command it answers. -/
structure Session where
  data : SessionData
  job : Option (Nat × Nat) := none
  deriving DecidableEq, Repr

/-- The keep store (R620): boot record, retired cells, pages and stacks, the two save slots, the host area, the spare pages left, and
whether it has failed; the open sessions in order, the save that runs with its slot, and firmware's save image. -/
structure KeepStore where
  bootRec : Option BootRec := none
  retiredCells : List Nat := []
  retiredPages : List Nat := []
  retiredStacks : List Nat := []
  saves : OTable SaveImage := []
  hostArea : Table Byte := []
  spares : Nat := 512
  failed : Bool := false
  sessions : List Session := []
  save : Option (Nat × SaveImage) := none
  image : Option SaveImage := none
  deriving DecidableEq, Repr

/-- Power and temperature (R609 to R627): whether the first charge of R654 is past and the core supply is lost, the slot since which
VHOLD has stood below 10.0 V, the runs of samples that enter or leave each thermal level, whether THERMTRIP_N is asserted,
whether operation below the grade was logged, and the straps sampled at power-on (R644). -/
structure Power where
  charged : Bool := false
  coreLost : Bool := false
  lowSince : Option Nat := none
  upRun : Table Nat := []
  downRun : Table Nat := []
  trip : Bool := false
  belowGrade : Bool := false
  straps : Nat := 0
  deriving DecidableEq, Repr

/-! ### Classification, policing, address and layer-3 tables (chapters 4 to 7) -/

/-- An entry of the classification memory (R96, R97): key and mask of 160 bits, the action word of 64 bits, whether it is one
half of a pair, and its valid bit. The pair's action word stands in its even half. -/
structure ClsEnt where
  key : Nat := 0
  mask : Nat := 0
  act : Nat := 0
  pair : Bool := false
  valid : Bool := false
  deriving DecidableEq, Repr

/-- A policer (R102, R114): configuration and buckets, in 1/65,536 byte, with the slot they were last brought up to date. -/
structure Policer where
  cir : Nat := 0
  pir : Nat := 0
  cbs : Nat := 0
  pbs : Nat := 0
  aware : Bool := false
  lenAdj : Int := 0
  yellowAct : Nat := 0
  yellowDscp : Nat := 0
  redAct : Nat := 0
  tc : Nat := 0
  tp : Nat := 0
  last : Nat := 0
  deriving DecidableEq, Repr

/-- A valid entry of the address table (R121). -/
structure AddrEnt where
  mac : Nat
  fid : Nat
  dest : Nat
  static : Bool := false
  hit : Bool := false
  isSet : Bool := false
  copyCpu : Bool := false
  deriving DecidableEq, Repr

/-- An entry of the VLAN table (R124). -/
structure VlanEnt where
  valid : Bool := false
  fid : Nat := 0
  learn : Bool := false
  floodUc : Nat := 0
  floodMc : Nat := 0
  member : Nat := 0
  deriving DecidableEq, Repr

/-- A learn request (R132): quadrant, key, port, kind (1 NEW, 2 MOVE), and the slot it entered the queue in. -/
structure LearnReq where
  quad : Nat
  fid : Nat
  mac : Nat
  port : Nat
  kind : Nat
  entered : Nat
  deriving DecidableEq, Repr

/-- The aging of one quadrant (R142, R143): the sweep running, its next step, whether one is due behind it. -/
structure AgeState where
  active : Bool := false
  step : Nat := 0
  pending : Bool := false
  deriving DecidableEq, Repr

/-- The host notice ring (R148, R159) and the records firmware holds for it. -/
structure NoticeRing where
  enabled : Bool := false
  addr : Nat := 0
  size : Nat := 0
  bell : Nat := 0
  prod : Nat := 0
  held : List (List Byte) := []
  discarded : Nat := 0
  deriving DecidableEq, Repr

/-- A prefix of a bank (R166): `half` 0 for IPv4, 1 for a single IPv6 entry, 2 for an IPv6 pair (both halves); VRF, address
(32 or 128 bits), length, result KIND and INDEX, its valid bit, and whether its result word has an uncorrectable error. -/
structure PfxEnt where
  half : Nat
  vrf : Nat
  addr : Nat
  len : Nat
  group : Bool := false
  idx : Nat := 0
  valid : Bool := true
  bad : Bool := false
  deriving DecidableEq, Repr

/-- A bank of the prefix memory (R168): its pair zone, upward from index 0, and its single zone, ending at index 1,023. -/
structure PfxBank where
  pairs : List PfxEnt := []
  singles : List PfxEnt := []
  deriving DecidableEq, Repr

/-- A router interface (R162). -/
structure Rif where
  valid : Bool := false
  vrf : Nat := 0
  mac : Nat := 0
  v4 : Bool := false
  v6 : Bool := false
  mtu : Nat := 0
  mtuTrap : Bool := false
  egVid : Nat := 0
  deriving DecidableEq, Repr

/-- A next hop (R180): KIND 0 INVALID, 1 FORWARD, 2 TRAP, 3 DROP. -/
structure NextHop where
  kind : Nat := 0
  port : Nat := 0
  rif : Nat := 0
  dmac : Nat := 0
  deriving DecidableEq, Repr

/-- An equal-cost group (R181). -/
structure EcmpGroup where
  base : Nat := 0
  size : Nat := 0
  deriving DecidableEq, Repr

/-- A range of the member table in use by quadrant, base and size; `until_` is the slot of the write that replaced it (R183). -/
structure MemberRange where
  quad : Nat
  base : Nat
  size : Nat
  until_ : Option Nat := none
  deriving DecidableEq, Repr

/-- An entry that a memory error took from the data plane and firmware has not restored (R100, R123, R178): table 0
classification, 1 address, 3 next hop, 4 group, 5 member, 6 interface; quadrant and index; a static address entry
with its contents. -/
structure LostEnt where
  table : Nat
  quad : Nat
  index : Nat
  addr : Option AddrEnt := none
  deriving DecidableEq, Repr

/-- A command that goes on over several operations (R150, R157, R176): its opcode, packet and incarnation, the quadrants it
still works in, and what each quadrant has reported: a status code, and a number. -/
structure Job where
  op : Nat
  pkt : Packet
  inc : Nat
  left : Nat
  status : List Nat := [0, 0, 0, 0]
  number : List Nat := [0, 0, 0, 0]
  params : List Byte := []
  deriving DecidableEq, Repr

/-- A scan pass that waits for its turn in a quadrant (R150, R156, R157): the command's channel and TAG. -/
structure Scan where
  quad : Nat
  chan : Nat
  tag : Nat
  deriving DecidableEq, Repr

/-- A bank operation that waits in a quadrant's prefix engine (R173, R175, R176): insertion, deletion or a new result word. -/
structure PfxOp where
  quad : Nat
  bank : Nat
  kind : Nat
  ent : PfxEnt
  chan : Nat
  tag : Nat
  deriving DecidableEq, Repr

/-- The tables that forwarding reads, each quadrant's in one index space with the quadrant as its upper part, and what the
table engines hold (chapters 4 to 7). -/
structure Tables where
  cls : Table ClsEnt := []
  pol : Table Policer := []
  addr : OTable AddrEnt := []
  vlan : Table VlanEnt := []
  learnQ : List LearnReq := []
  reqSeen : List (Nat × Nat × Nat) := []
  limitSeen : List (Nat × Nat) := []
  notices : OTable (List (List Byte)) := []
  noticeLost : Table Nat := []
  age : Table AgeState := []
  ring : NoticeRing := {}
  scans : List Scan := []
  jobs : List Job := []
  rif : Table Rif := []
  portRif : Table Nat := []
  vidRif : Table Nat := []
  banks : Table PfxBank := []
  pfxOps : List PfxOp := []
  nh : Table NextHop := []
  groups : Table EcmpGroup := []
  members : Table Nat := []
  ranges : List MemberRange := []
  repl : Table Nat := []
  lost : List LostEnt := []
  deriving DecidableEq, Repr

/-! ### Frames, staging, cells, hanks and transmission (chapters 4, 7 to 12, 15, 16) -/

/-- The metadata that travels with a frame (R93, R94). Stamps are in 1/256 ns, modulo 2^40; `dscp` is DSCP_RW; `hash` is the flow
hash of R182, which R555 uses. -/
structure Meta where
  istamp : Nat := 0
  iport : Nat := 0
  seq : Nat := 0
  cls : Nat := 0
  colour : Nat := 0
  dest : Nat := 0
  hdrLen : Nat := 0
  hdrLenV : Bool := false
  ptpEv : Bool := false
  ptpDom : Nat := 0
  ptpType : Nat := 0
  cfOff : Nat := 0
  uckOff : Nat := 0
  mir : Nat := 0
  tsReq : Bool := false
  routed : Bool := false
  dscp : Nat := 0
  originIns : Bool := false
  corrIns : Bool := false
  hdrIstamp : Nat := 0
  cookie : Nat := 0
  cause : Nat := 0
  dei : Bool := false
  hash : Nat := 0
  deriving DecidableEq, Repr

/-- What a transmit header orders at dispatch (R448): DEST and CLASS, each where enabled; on the host port also CAUSE of
nothing. -/
structure TxHdr where
  dest : Option Nat := none
  cls : Option Nat := none
  originIns : Bool := false
  corrIns : Bool := false
  tsReq : Bool := false
  cookie : Nat := 0
  istamp : Nat := 0
  deriving DecidableEq, Repr

/-- What governs a frame from its dispatch on (R72, R115, R454, R470): PRS_PORTCFG, PRS_PORTPROF, MAC_MODE, the learning mode,
IN_MASK and the boundary-clock domains of its port. -/
structure Snap where
  portcfg : Nat := 0
  portprof : Nat := 0
  mode : Nat := 0
  learn : Nat := 0
  inMask : Nat := 0
  domLo : Nat := 0
  domHi : Nat := 0
  domEn : Nat := 0
  deriving DecidableEq, Repr

/-- Where a frame stands: arriving at the MAC; a MAC control frame; for the wake-pattern detector only (R359); refused by the
receive FIFO (R354); dropped with bytes still to come; ready in its header buffer; in a strand; completed; released; in
the fabric and beyond. -/
inductive Stage where
  | arriving | control | detector | refused | dead | ready | strand | complete | released | fabric
  deriving DecidableEq, Repr

/-- A mirror copy's origin (R457 to R465): the session, the frame copied, its direction and source port, and the length that
the copy has, against the length L of its source. -/
structure MirSrc where
  session : Nat
  frame : Nat
  egress : Bool
  port : Nat
  quad : Nat
  deriving DecidableEq, Repr

/-- A frame in the device, from its start-of-frame delimiter to the end of its last copy. `bytes` runs from DMAC to FCS as the
line brings them; `body` is the frame as it enters the fabric, after the strand's rewrite (R184); `ready` is the slot from
which it may be dispatched, `due` the slot in which it completes its strand. -/
structure Frame where
  id : Nat
  port : Nat
  bytes : List Byte
  start : Nat
  md : Meta := {}
  stage : Stage := .arriving
  ended : Option Nat := none
  good : Bool := true
  reason : Nat := 0
  ready : Nat := 0
  tx : Option TxHdr := none
  snap : Snap := {}
  strand : Nat := 0
  dispatched : Nat := 0
  released : Nat := 0
  body : List Byte := []
  dests : List (Nat × Bool) := []
  dropped : Nat := 0
  police : Option (Nat × Nat × Nat × Nat) := none
  mir : Option MirSrc := none
  limit : Nat := 10240
  deriving DecidableEq, Repr

/-- A staged copy (R197 to R200): the frame, its ingress port, its ingress and egress slice and class, its destinations in the slice as queues'
ports with their queue kind, whether its ingress pair is lossless, the cells charged for it, whether it lies in the
spill, and the cells sent. -/
structure Staged where
  fid : Nat
  port : Nat
  ing : Nat
  eg : Nat
  cls : Nat
  dests : List (Nat × Bool)
  lossless : Bool
  charge : Nat
  inSpill : Bool := false
  sent : Nat := 0
  deriving DecidableEq, Repr

/-- A granted cell write that travels to, or waits in, the write queue of an egress slice (R195, R203): cell `k` of a frame for
one destination. `last` marks its last cell, and `need` is the length L of R229 for
its reservation. -/
structure CellWr where
  fid : Nat
  k : Nat
  port : Nat
  mc : Bool
  cls : Nat
  due : Nat
  data : List Byte
  last : Bool
  need : Nat
  lossless : Bool
  deriving DecidableEq, Repr

/-- A commitment of the lossless check (R293, R294) that its first-cell write takes up: `kind` 0 `n` cells committed, 1 pages
reserved in the deep tier, 2 `n` cells by push-out, of them `taken` from queue `from_`, 3 the port is DOWN. -/
structure Commit where
  fid : Nat
  port : Nat
  kind : Nat
  n : Nat
  taken : List Nat := []
  from_ : Nat := 0
  deriving DecidableEq, Repr

/-- A cell descriptor (R224). -/
structure Desc where
  state : Nat := 0
  onlist : Bool := true
  owner : Nat := 0
  pool : Nat := 0
  next : Nat := 0
  last : Bool := false
  bytes : Nat := 0
  crc : Nat := 0
  swn : Nat := 0
  retPend : Bool := false
  qcause : Nat := 0
  debited : Bool := false
  deriving DecidableEq, Repr

/-- The pool manager's counts of a slice (R228), and its free list (R226): the indices from `next` up that have never been given
since the list was loaded, then those pushed since. -/
structure Pool where
  free : Nat := 0
  resv : Nat := 0
  freeing : Nat := 0
  quar : Nat := 0
  retired : Nat := 0
  held : List Nat := [0, 0, 0, 0]
  next : Nat := 65536
  back : List Nat := []
  deriving DecidableEq, Repr

/-- A request of the free walker (R236): the slice, the skein's cells not yet presented, the claiming queue, and how many cells the
skein had. -/
structure Walk where
  slice : Nat
  cells : List Nat
  queue : Nat
  total : Nat
  deriving DecidableEq, Repr

/-- The reclaim sweeps of a slice (R244): the sweep number, the queue of the running sweep with the slot it started in, and the
queues waiting. -/
structure Reclaim where
  swn : Nat := 0
  active : Option Nat := none
  last : Nat := 0
  start : Nat := 0
  waiting : List Nat := []
  deriving DecidableEq, Repr

/-- A copy in its egress queue on die (R206, R222): the frame, its queue's port, class and kind, the skein's cells from the
head, the cells reserved and the victim's cells still to be taken, the pool charged, whether its last cell is written, its
length, its enqueue stamp, whether it is chosen or in transmission, whether a later cell was lost, and whether R212 let it cut
through when it was first considered. -/
structure Copy where
  fid : Nat
  port : Nat
  cls : Nat
  mc : Bool
  cells : List Nat := []
  resv : Nat := 0
  taken : List Nat := []
  from_ : Nat := 0
  pool : Nat := 0
  whole : Bool := false
  len : Nat := 0
  stamp : Nat := 0
  stampEpoch : Nat := 0
  started : Bool := false
  lost : Bool := false
  cutOk : Option Bool := none
  deriving DecidableEq, Repr

/-- A record of a hank (R260): its copy, its size as reserved or, once `whole`, as written, the frame's bytes written so far,
and the frame's bytes and cells read back so far (R266, R267). -/
structure HankRec where
  copy : Copy
  size : Nat
  got : List Byte := []
  whole : Bool := false
  rb : Nat := 0
  cells : List Nat := []
  deriving DecidableEq, Repr

/-- A page of a hank (R257, R261): its number, the stream offset of its first byte, its FILL once closed, the slot of its first
byte, and whether it is closed, written, and in reading since which slot. -/
structure HankPage where
  page : Nat
  base : Nat
  fill : Nat := 0
  first : Nat := 0
  closed : Bool := false
  written : Bool := false
  reading : Option Nat := none
  deriving DecidableEq, Repr

/-- The hank of a queue in deep state, or the spill of a staging queue (R200, R260 to R266), as a stream of bytes: its pages and
records, oldest first; pages reserved and not opened; the stream offsets of the first record held, of the end of the last closed page, and of the end of what has
been written to the stacks; and whether read-back goes on to its upper threshold. -/
structure Hank where
  pages : List HankPage := []
  recs : List HankRec := []
  rsvd : Nat := 0
  headOff : Nat := 0
  closedEnd : Nat := 0
  writtenEnd : Nat := 0
  lastStack : Option Nat := none
  rbOn : Bool := false
  deriving DecidableEq, Repr

/-- The page allocator of a stack (R258, R259): the usable pages from index `next` up that have never been given since the list
was rebuilt, then those freed since; retired pages, and used pages that retire when freed (R284). -/
structure Stack where
  next : Nat := 4194304
  back : List Nat := []
  used : Nat := 0
  retired : List Nat := []
  pending : List Nat := []
  deriving DecidableEq, Repr

/-- A frame on a port's line, or chosen by its scheduler (R312, R313): the copy or a MAC control frame; the start instant and the
end of occupancy in 1/256 slot; the length tested and charged, and whether the shapers took the charge; the egress stamp
with the wrap parity, the network time and its validity at that instant (R438, R449); what the MAC will do to it: 0
nothing, 1 transit correction, 2 the transmit header's insertions, 3 counted as a transit message of a BC domain (R441);
whether its transmission has begun, and began in cut-through; whether it ends stomped or in an underrun; the bytes and
cells read; the drop code of an error its cells showed; and whether its gate closed on it (R327). -/
structure Tx where
  copy : Option Copy := none
  ctl : List Byte := []
  startAt : Nat := 0
  endAt : Nat := 0
  len : Nat := 0
  charged : Nat := 0
  estamp : Nat := 0
  parity : Bool := false
  netNs : Nat := 0
  netValid : Bool := false
  act : Nat := 0
  originInv : Bool := false
  begun : Bool := false
  cut : Bool := false
  stomp : Bool := false
  under : Bool := false
  got : List Byte := []
  nRead : Nat := 0
  code : Nat := 0
  overran : Bool := false
  deriving DecidableEq, Repr

/-- The scheduler of a port (R312, R317, R318): the end of occupancy of its last frame in 1/256 slot, PTR, the deficits and turn
flags by class, and the classes whose multicast queue is next in turn. -/
structure Sched where
  lineEnd : Nat := 0
  ptr : Nat := 7
  dc : List Nat := [0, 0, 0, 0, 0, 0, 0, 0]
  turn : Nat := 0
  mcNext : Nat := 0
  deriving DecidableEq, Repr

/-- The transmit side of a port's lanes (R387, R388): the slot its codewords started in, the slot of the last frame chosen, the
slot of a standing exit request, and the slot in which a running exit or entry completes. -/
structure PortLine where
  txStart : Nat := 0
  lastChosen : Nat := 0
  exitReq : Option Nat := none
  due : Nat := 0
  deriving DecidableEq, Repr

/-- A gate list swap that firmware holds (R328): the port, the swap time in ns, BASE, CYCLE, the entries and MAXWIN. -/
structure GclHeld where
  port : Nat
  time : Nat
  base : Nat
  cycle : Nat
  entries : List (Nat × Nat)
  maxwin : List Nat
  deriving DecidableEq, Repr

/-- The gate hardware of a port (R323, R337): the whorl ns at which the current entry started, the BASE of the operational and
of the admin list, the network time of an armed swap, and whether it was armed when already due. -/
structure GclRun where
  entryStart : Nat := 0
  operBase : Nat := 0
  adminBase : Nat := 0
  armedS : Nat := 0
  late : Bool := false
  deriving DecidableEq, Repr

/-- Flow control of a port (R296 to R298): the pause timers in 160 ps units, the loads that wait for their slot, the XOFF
requests that stand, the classes due in the next frame, the slot of each class's next refresh, and the frames composed. -/
structure Flow where
  timers : List Nat := [0, 0, 0, 0, 0, 0, 0, 0]
  loads : List (Nat × Nat × List Nat) := []
  req : Nat := 0
  due : Nat := 0
  refresh : List Nat := [0, 0, 0, 0, 0, 0, 0, 0]
  frames : List (List Byte) := []
  deriving DecidableEq, Repr

/-- What firmware holds of a port's link (R299, R307): LINK_NS, RESP_NS and PEER_MFS. -/
structure LinkPar where
  linkNs : Nat := 0
  respNs : Nat := 0
  peerMfs : Nat := 10240
  deriving DecidableEq, Repr

/-- A token bucket of a mirror session in a quadrant (R466): tokens in 1/65,536 byte, the slot they were brought up to date to,
and the session's sequence number there (R465). -/
structure MirBucket where
  tokens : Nat := 0
  last : Nat := 0
  seq : Nat := 0
  deriving DecidableEq, Repr

/-- A cell that the transmit read path will free (R235): slice, cell, claiming queue, and the slot its last byte was read. -/
structure CellFree where
  slice : Nat
  cell : Nat
  queue : Nat
  read : Nat
  deriving DecidableEq, Repr

/-- The data path (chapters 4, 7 to 12, 15, 16). -/
structure Path where
  nextId : Nat := 0
  frames : List Frame := []
  seqs : Table Nat := []
  ranNow : List (Nat × Nat) := []
  staged : List Staged := []
  credit : Table Int := []
  writeQ : List (Nat × CellWr) := []
  commits : List Commit := []
  desc : Table Desc := []
  data : Table (List Byte) := []
  pools : Table Pool := []
  walks : List Walk := []
  reclaim : Table Reclaim := []
  posts : List (Nat × List Byte) := []
  fixes : List (Nat × Nat) := []
  badCells : List Nat := []
  copies : List Copy := []
  cq : Table Nat := []
  hanks : OTable Hank := []
  hbm : Table Stack := []
  wbuf : Table Nat := []
  spillRsv : Table Nat := []
  heldPages : List (Nat × Nat) := []
  badPages : List Nat := []
  metaSeen : List Nat := []
  tx : OTable Tx := []
  frees : List CellFree := []
  sched : Table Sched := []
  shaper : Table Int := []
  oldRate : OTable Nat := []
  lines : Table PortLine := []
  gcl : Table GclRun := []
  gclHeld : List GclHeld := []
  flow : Table Flow := []
  linkPar : Table LinkPar := []
  reserves : Table (Nat × Nat) := []
  hold : OTable Nat := []
  linkSince : OTable Nat := []
  wakeAt : OTable Nat := []
  mirBuckets : Table MirBucket := []
  deriving DecidableEq, Repr

/-! ### Serial lanes (chapter 13) -/

/-- A point of an eye scan (R391, R398): phase, voltage, whether it was measured again after a void step, mismatches and UI. -/
structure EyePoint where
  phase : Int
  volt : Int
  again : Bool := false
  errs : Nat := 0
  ui : Nat := 0
  deriving DecidableEq, Repr

/-- An eye scan (R391 to R393, R398): the eye, the ranges and steps of phase and voltage, the window, the epoch it starts in,
the index of its next point, whether that point's last step was void, the results and whether it goes on. -/
structure EyeScan where
  eye : Nat
  ph0 : Int
  ph1 : Int
  phStep : Nat
  v0 : Int
  v1 : Int
  vStep : Nat
  win : Nat
  start : Nat
  idx : Nat := 0
  again : Bool := false
  results : List EyePoint := []
  running : Bool := true
  deriving DecidableEq, Repr

/-- A lane (R385, R390, R395): the settings in force, in the order LN_TXEQ, LN_TXCFG, LN_RXCFG, LN_FFE0 to LN_FFE2; whether a commit waits
for its transmit and its receive boundary, with the CRC of the record written; the receive idle state (0 ACTIVE, 1 IDLE, 2
TRAIN), the slot of the signal, and PHASE of the last resume marker; and the leg codes of the last check. -/
structure LaneSt where
  force : List Nat := [0, 0, 0, 0, 0, 0]
  txPend : Bool := false
  rxPend : Bool := false
  crcPend : Nat := 0
  rx : Nat := 0
  rxAt : Nat := 0
  phase : Nat := 0
  seen : Nat := 0
  deriving DecidableEq, Repr

/-- The lanes: firmware's working copy of the Cemond table by lane·4 + rate code (R383, R384), the lanes, and their scans. -/
structure Lanes where
  cemond : OTable (List Byte) := []
  lane : Table LaneSt := []
  scans : OTable EyeScan := []
  deriving DecidableEq, Repr

/-! ### The host interface and the tree (chapter 21) -/

/-- What the engine keeps of a ring beside its registers (R553, R560): a TAIL written in this slot, the frames completed since
its status bit last set, and the slot of the first of them. -/
structure RingSt where
  tail : Option Nat := none
  done : Nat := 0
  since : Nat := 0
  deriving DecidableEq, Repr

/-- A frame that the receive engine has reserved descriptors for (R557, R558): its frame, ring, first index and count, whether the
ring keeps the FCS, its metadata, and its bytes once the frame has been sent. -/
structure RxJob where
  fid : Nat
  ring : Nat
  idx : Nat
  n : Nat
  fcs : Bool
  md : Meta
  bytes : Option (List Byte) := none
  deriving DecidableEq, Repr

/-- The endpoint and its DMA engine (R548 to R564): Bus Master Enable, the MSI-X enable and function mask with each vector's mask
and pending bit, the rings by direction·32 + ring, the receive frames under way, and when port 512's ingress line falls
free, in 1/256 slot. -/
structure HostIf where
  bme : Bool := false
  msixOn : Bool := false
  fnMask : Bool := false
  vecMask : Nat := 2 ^ 64 - 1
  vecPend : Nat := 0
  rings : Table RingSt := []
  jobs : List RxJob := []
  txLine : Nat := 0
  deriving DecidableEq, Repr

/-- A Rhogen port (R565 to R572): block lock; the last HELLO received; the slot of the last HELLO sent and whether a field has
changed since; the next SEQ to send and to accept; the packets sent and not acknowledged, oldest first, with the slot of
the last sending or acknowledgement; the packets accepted and not acknowledged, with the slot of the first; whether packets
are discarded until the expected one; the replays without progress; and the packets beyond the window. -/
structure RlPort where
  lock : Bool := false
  peer : Option Hello := none
  helloAt : Nat := 0
  dirty : Bool := false
  txSeq : Nat := 0
  rxSeq : Nat := 0
  unacked : List RlPacket := []
  sentAt : Nat := 0
  owed : Nat := 0
  owedAt : Nat := 0
  naking : Bool := false
  replays : Nat := 0
  waiting : List RlPacket := []
  deriving DecidableEq, Repr

/-- A remote read (R569): its node, offset and doublewords, the sender's SID, the request TAG on the links and the slot it was sent in
once it has been sent, and who waits for it: a host request by its own tag, or firmware for a command by channel, TAG and
part. -/
structure RemoteRead where
  node : Nat
  offset : Nat
  n : Nat
  sid : Nat
  tag : Option Nat := none
  at_ : Nat := 0
  host : Nat := 0
  job : Option (Nat × Nat × Nat) := none
  deriving DecidableEq, Repr

/-- A fan-out that waits for a node's reply (R64, R576): the command's channel and TAG, the node, and the TAG of the MSG. -/
structure FanOut where
  chan : Nat
  tag : Nat
  node : Nat
  msg : Nat
  deriving DecidableEq, Repr

/-- The tree (R565 to R576): the latched root role, HOPS, the parent's port, the path ASSIGN gave this node and whether it has
a number; the ports; on the root the numbers bound to paths and the paths refused; the remote reads, oldest first; the
fan-outs that wait, and the number of MSG commands sent. -/
structure Tree where
  root : Bool := false
  hops : Nat := 15
  parent : Option Nat := none
  numbered : Bool := false
  path : List Nat := []
  ports : Table RlPort := []
  bound : OTable (List Nat) := []
  refused : List (List Nat) := []
  reads : List RemoteRead := []
  fans : List FanOut := []
  msgs : Nat := 0
  deriving DecidableEq, Repr

/-- What firmware's shadows hold of the quadrants that a reset cleared, for the restoration (R583): the quadrants, the registers and
tables as they stood, and the link parameters, page reserves and gate lists of their ports. -/
structure Shadow where
  quads : Nat := 0
  regs : Table Word := []
  tab : Tables := {}
  linkPar : Table LinkPar := []
  reserves : Table (Nat × Nat) := []
  gcl : Table GclRun := []
  deriving DecidableEq, Repr

/-- Something the block sends out of itself. -/
inductive Out where
  /-- A frame of MAC `port`, with its bytes from DMAC to FCS. -/
  | frame (port : Nat) (bytes : List Byte)
  /-- An MSI-X message of a vector (R546). -/
  | msix (vector : Nat)
  /-- Bytes written to host memory at a bus address (R495, R552). -/
  | hostWrite (addr : Nat) (bytes : List Byte)
  /-- A packet of a Rhogen port (R566). -/
  | rhogen (port : Nat) (pkt : RlPacket)
  /-- The completion of a host read of BAR2 (R568, R569). -/
  | completion (tag : Nat) (words : List Word)
  /-- The answer of a register read: the sender, the offset and the value returned. -/
  | readData (who : Sender) (offset : Nat) (value : Word)
  /-- A level put on a ball: event outputs, PPS_OUT, THERMTRIP_N, recovered clocks. -/
  | pin (name : Nat) (index : Nat) (level : Bool)
  deriving DecidableEq, Repr

/-- Why the block stops. -/
inductive Fault where
  /-- A write to a reserved offset inside a block's register map under GRD2048-F, whose outcome R536 calls unspecified.
  Raised by the register writes. Safe: the hardware goes on in some way no rule states. -/
  | unspecifiedWrite (offset : Nat)
  deriving DecidableEq, Repr

/-- Why a command is refused. -/
inductive Refusal where
  /-- The command has no meaning in the model. Raised by the arms of exec that name it. Safe. -/
  | notModelled (mnemonic : String)
  deriving DecidableEq, Repr

/-- The state of the block. -/
structure State where
  fuses : Fuses := {}
  tick : Tick := {}
  time : TimeEng := {}
  regs : Table Word := []
  meet : Meet := {}
  cnt : Counters := {}
  samp : Sampling := {}
  pkts : Packets := {}
  log : EventLog := {}
  boot : Boot := {}
  ks : KeepStore := {}
  flash : Table Byte := []
  power : Power := {}
  tab : Tables := {}
  path : Path := {}
  lanes : Lanes := {}
  host : HostIf := {}
  tree : Tree := {}
  shadow : Option Shadow := none
  out : List Out := []
  free : Nat := 0
  pending : List Instr := []
  deriving DecidableEq, Repr

/-- The block right after a power-on reset, before the slot PLL locks (R42, R581): every register at its reset value, the
slot counter and the whorl 0, every table and buffer empty, nothing pending. -/
def State.reset : State := {}

end Sys2Proof.Machine
end

