-- ==== Sys2Proof/Machine/Ops.lean ====
section
/-!
DEFINITION. The named operations over the state that the meanings share: registers and their fields, counters, free values,
what the block sends out, network time and the event log.
-/
namespace Sys2Proof.Machine
open Sys2Proof

/-! ### Registers -/

/-- The place of instance `i` of register `r` in the register table. `i` counts the window instance first, then the index
variables in the order of the offset formula. -/
def regKey (r : Reg) (i : Nat) : Nat := i * 512 + r.ctorIdx

/-- The reset value of instance `i` of a register: the tables' value, with the per-instance values of R117 and R161;
an unconfigured front port stands DOWN (R342). -/
def Reg.resetAt (r : Reg) (i : Nat) : Word :=
  match r with
  | .clsDscpMap => word ((i % 8) * 0x249249)
  | .tbPortLearn => if i % 516 < 512 then 1 else 0
  | .qmPortStat => if i < 512 then 2 else 0
  | .tbHashSeed =>
    match i % 4 with
    | 0 => 0xFFFFFFFF
    | 1 => 0x13579BDF
    | 2 => 0x2468ACE0
    | _ => 0x0F1E2D3C
  | r => word r.desc.reset

/-- The reset contents of the register table, by key. -/
def regDefault (k : Nat) : Word :=
  match Reg.all[k % 512]? with
  | some r => r.resetAt (k / 512)
  | none => 0

/-- The value of instance `i` of a register. -/
def State.reg (s : State) (r : Reg) (i : Nat) : Word := Table.get (fun _ => r.resetAt i) s.regs (regKey r i)

/-- Hardware or firmware puts a value into a register. -/
def State.setReg (s : State) (r : Reg) (i : Nat) (v : Word) : State :=
  { s with regs := Table.set (fun _ => r.resetAt i) s.regs (regKey r i) v }

/-- The value of a field of instance `i`. -/
def State.fld (s : State) (f : Fld) (i : Nat) : Nat := ((s.reg f.reg i).toNat >>> f.lo) % 2 ^ f.width

/-- Whether a field of instance `i` is nonzero. -/
def State.flag (s : State) (f : Fld) (i : Nat) : Bool := decide (s.fld f i ≠ 0)

/-- A register word with a field replaced. -/
def Fld.put (f : Fld) (w : Word) (v : Nat) : Word := word (setBits w.toNat (f.lo + f.width - 1) f.lo v)

/-- Put a value into a field of instance `i`. -/
def State.setFld (s : State) (f : Fld) (i v : Nat) : State := s.setReg f.reg i (f.put (s.reg f.reg i) v)

/-- Hardware sets a status bit; a write that clears it in the same slot leaves it set (R541, W1C). -/
def State.raise (s : State) (f : Fld) (i : Nat) : State :=
  let s := s.setFld f i 1
  { s with meet := { s.meet with sets := (regKey f.reg i, 2 ^ f.lo) :: s.meet.sets } }

/-- Clear a bit. -/
def State.lower (s : State) (f : Fld) (i : Nat) : State := s.setFld f i 0

/-- Set bit `k` of a register. -/
def State.setBit (s : State) (r : Reg) (i k : Nat) : State := s.setReg r i (s.reg r i ||| word (2 ^ k))

/-- Clear bit `k` of a register. -/
def State.clearBit (s : State) (r : Reg) (i k : Nat) : State :=
  s.setReg r i (word (setBits (s.reg r i).toNat k k 0))

/-- Bit `k` of a register. -/
def State.regBit (s : State) (r : Reg) (i k : Nat) : Bool := (s.reg r i).toNat.testBit k

/-- The bits of a field in its word. -/
def Fld.mask (f : Fld) : Nat := (2 ^ f.width - 1) * 2 ^ f.lo

/-- The party whose write of these bits of a register stands in the present slot, the latest one, if any (R542). -/
def State.writtenBy (s : State) (key mask : Nat) : Option Nat :=
  (s.meet.writes.find? fun w => w.1 = key && (w.2.1 &&& mask) != 0).map fun w => w.2.2

/-- The bits of a register that hardware set in the present slot. -/
def State.setNow (s : State) (r : Reg) (i : Nat) : Nat :=
  (s.meet.sets.filter fun e => e.1 = regKey r i).foldl (fun m e => m ||| e.2) 0

/-- A write of ones clears W1C bits, except those that hardware set in the same slot (R16, R541). -/
def State.w1c (s : State) (r : Reg) (i bits : Nat) : State :=
  let keep := (0xFFFFFFFF ^^^ (bits &&& 0xFFFFFFFF)) ||| s.setNow r i
  s.setReg r i (s.reg r i &&& word keep)

/-- Hardware sets several bits of a register. -/
def State.raiseBits (s : State) (r : Reg) (i bits : Nat) : State :=
  let s := s.setReg r i (s.reg r i ||| word bits)
  { s with meet := { s.meet with sets := (regKey r i, bits) :: s.meet.sets } }

/-! ### Resources -/

/-- Whether the ordering code provides logical port `p` (R7, R8). -/
def State.hasPort (s : State) (p : Nat) : Bool := s.fuses.code.hasPort p

/-- Whether quadrant `q` is present. -/
def State.hasQuad (s : State) (q : Nat) : Bool := q < s.fuses.code.quads

/-- Whether slice `sl` is present. -/
def State.hasSlice (s : State) (sl : Nat) : Bool := sl < s.fuses.code.slices

/-- Whether lane `l` is present. -/
def State.hasLane (s : State) (l : Nat) : Bool := l < s.fuses.code.lanes

/-- Whether stack `h` is present. -/
def State.hasStack (s : State) (h : Nat) : Bool := h < s.fuses.code.stacks

/-- The present quadrants of a mask. -/
def State.quadsOf (s : State) (mask : Nat) : List Nat := (onesOf 4 mask).filter s.hasQuad

/-- A mode bit of a port (R68). -/
def State.mode (s : State) (f : Fld) (p : Nat) : Bool := s.flag f p

/-! ### Counters (R472, R473) -/

/-- A live counter saturates at 2^48 - 1 (R472). -/
def sat48 (n : Nat) : Nat := min n (2 ^ 48 - 1)

/-- `n` events enter the live counter of a register image (R473). -/
def State.count (s : State) (r : Reg) (i n : Nat) : State :=
  { s with cnt := { s.cnt with
      live := Table.set (fun _ => 0) s.cnt.live (regKey r i) (sat48 (Table.get (fun _ => 0) s.cnt.live (regKey r i) + n)) } }

/-- The arrays of R480, with their base in one index space: DROP, POLICER and QUEUE in order. -/
def arrBase : Nat → Nat
  | 0 => 0 | 1 => 66048 | _ => 66048 + 1572864

/-- Entries of each array. -/
def arrSize : Nat → Nat
  | 0 => 66048 | 1 => 1572864 | _ => 16512

/-- `n` events enter the live counter of an array entry. -/
def State.countArr (s : State) (arr idx n : Nat) : State :=
  { s with cnt := { s.cnt with
      arrLive := Table.set (fun _ => 0) s.cnt.arrLive (arrBase arr + idx)
        (sat48 (Table.get (fun _ => 0) s.cnt.arrLive (arrBase arr + idx) + n)) } }

/-- A drop of one frame or copy is counted once, against port `p` with its code (R480, R485). -/
def State.drop (s : State) (p code : Nat) : State :=
  if code = 0 then s else s.countArr 0 (p * 128 + code) 1

/-! ### Hardware updates of RW fields (R541, R543) -/

/-- A hardware update of a register was lost to a write of `party` (R543). `offset` is the register's main-view offset. -/
def State.updLost (s : State) (offset party : Nat) : State :=
  ((s.raise F.glbStat_UPD_LOST 0).setReg .glbUpdInfo 0 (word (party * 2 ^ 30 + offset % 2 ^ 28))).count .glbUpdCnt 0 1

/-! ### Free values and outputs -/

/-- The next draw of free values. -/
def State.draw (s : State) : State := { s with free := s.free + 1 }

/-- The block sends something out. -/
def State.emit (s : State) (o : Out) : State := { s with out := s.out ++ [o] }

/-! ### Network time (R402, R411, R414) -/

/-- The whorl nanosecond part. -/
def State.whorlNs (s : State) : Nat := s.time.whorl / 2 ^ 32

/-- The whorl in 1/256 ns, modulo 2^40. -/
def State.whorl256 (s : State) : Nat := s.time.whorl / 2 ^ 24

/-- The value of a base in ns. -/
def NetBase.total (b : NetBase) : Nat := b.sec * 1000000000 + b.ns

/-- The base a number of ns makes, normalised (R411). -/
def NetBase.ofNs (n : Nat) : NetBase := { sec := n / 1000000000 % 2 ^ 48, ns := n % 1000000000 }

/-- The active base (R411). -/
def TimeEng.active (t : TimeEng) : NetBase := if t.parity then t.odd else t.even

/-- The next base (R411). -/
def TimeEng.next (t : TimeEng) : NetBase := if t.parity then t.even else t.odd

/-- Network time in ns: the active base plus the whorl ns (R411). -/
def State.netNs (s : State) : Nat := s.time.active.total + s.whorlNs

/-- Whether network time is valid (R414). -/
def State.netValid (s : State) : Bool := s.time.todSet && !s.time.staleAct

/-- An 80-bit network time as a parameter: ns in bits 31 to 0 and seconds in bits 79 to 32 (R491). -/
def packNet (n : Nat) : Nat := n % 1000000000 + (n / 1000000000 % 2 ^ 48) * 2 ^ 32

/-- The ns an 80-bit network time parameter names. -/
def unpackNet (v : Nat) : Nat := (v / 2 ^ 32) * 1000000000 + v % 2 ^ 32

/-- Whether a 32-bit whorl target is due (R53). -/
def State.dueAt (s : State) (t : Nat) : Bool := (s.whorlNs + 2 ^ 32 - t % 2 ^ 32) % 2 ^ 32 < 2 ^ 31

/-- Whether a target in 1/256 ns is due. -/
def State.due256 (s : State) (t : Nat) : Bool := (s.whorl256 + 2 ^ 40 - t % 2 ^ 40) % 2 ^ 40 < 2 ^ 39

/-- The epoch number (R45). -/
def State.epoch (s : State) : Nat := s.tick.slot / Config.epochSlots

/-- The offset in the epoch (R45). -/
def State.epochOffset (s : State) : Nat := s.tick.slot % Config.epochSlots

/-- The pointer of an arbiter of size `n` (R49). -/
def State.rrPointer (s : State) (n : Nat) : Nat := s.tick.slot % n

/-- The winner of a rotating arbitration of size `n` among the requesters (R49). -/
def State.arbitrate (s : State) (n : Nat) (want : Nat → Bool) : Option Nat :=
  ((List.range n).map fun k => (s.rrPointer n + k) % n).find? want

/-! ### The event log (R620, R625, R626) -/

/-- The records the always-on tail holds: 256 KiB of 64-byte records (R620). -/
def logTailMax : Nat := 4096

/-- Append a record of a kind to the event log's tail; a full tail overwrites its oldest record, and the next record
written carries GAP (R620, R625). -/
def State.logEvent (s : State) (kind : Nat) (data : List Byte) : State :=
  let full := decide (logTailMax ≤ s.log.tail.length)
  let r : LogRec :=
    { seq := s.log.nextSeq, kind := kind, whorl := s.whorlNs, nt := s.netNs, ntValid := s.netValid
      parity := s.time.parity, gap := s.log.gap, data := data.take 32 }
  let old := if full then s.log.tail.drop 1 else s.log.tail
  { s with log := { s.log with tail := old ++ [r], nextSeq := s.log.nextSeq + 1, gap := full } }

/-- The 64 bytes of an event-log record (R625). -/
def LogRec.bytes (r : LogRec) : List Byte :=
  let body := leBytes 8 r.seq ++ leBytes 2 r.kind ++ leBytes 2 r.data.length ++ leBytes 4 r.whorl
    ++ leBytes 10 (packNet r.nt) ++ [byte (b2n r.ntValid + 2 * b2n r.parity + 4 * b2n r.gap), 0]
    ++ slice r.data 0 32
  body ++ leBytes 4 (crc32 body)

/-- The records of the log, stored ones first. -/
def EventLog.all (l : EventLog) : List LogRec := l.stored ++ l.tail

/-- The configuration journal gets a record for each accepted command that changes configuration (R620). -/
def State.logConfig (s : State) (opcode : Nat) (params : List Byte) : State :=
  { s with log := { s.log with cfgTail := s.log.cfgTail ++ [(opcode, params)] } }

/-! ### Lists -/

/-- Replace element `k` of a list by its image. -/
def listModify {α : Type} (f : α → α) : List α → Nat → List α
  | [], _ => []
  | a :: t, 0 => f a :: t
  | a :: t, n + 1 => a :: listModify f t n

/-- Insert by a key, after elements of the same or a smaller key. -/
def insertBy {α : Type} (key : α → Nat) (a : α) : List α → List α
  | [] => [a]
  | b :: t => if key a < key b then a :: b :: t else b :: insertBy key a t

/-- Sort by a key, stable. -/
def sortBy {α : Type} (key : α → Nat) (l : List α) : List α := l.foldl (fun acc a => insertBy key a acc) []

end Sys2Proof.Machine
end

