-- ==== Sys2Proof/Machine/Access.lean ====
section
/-!
DEFINITION. The register space (R531 to R538): windows and offsets, who accesses (R592), the firewall (R593), and what a
read of any register returns.
-/
namespace Sys2Proof.Machine
open Sys2Proof

/-! ### Windows and offsets (R534, R535) -/

/-- Base of a window, the (stride, count) of its instances under GRD2048-F, and its size (R534). -/
def Win.place : Win → Nat × List (Nat × Nat) × Nat
  | .glb => (0x0, [], 0x10000)
  | .tick => (0x10000, [], 0x10000)
  | .ts => (0x20000, [], 0x20000)
  | .mb => (0x40000, [], 0x10000)
  | .cnt => (0x50000, [], 0x10000)
  | .mir => (0x60000, [], 0x10000)
  | .prot => (0x70000, [], 0x10000)
  | .pwr => (0x80000, [], 0x10000)
  | .ks => (0x90000, [], 0x10000)
  | .thm => (0xA0000, [], 0x10000)
  | .dma => (0x100000, [], 0x100000)
  | .rl => (0x200000, [], 0x10000)
  | .tb => (0x400000, [(0x10000, 4)], 0x1000)
  | .tbPort => (0x401000, [(0x10000, 4), (0x10, 516)], 0x10)
  | .fwd => (0x440000, [(0x10000, 4)], 0x1000)
  | .cls => (0x480000, [(0x10000, 4)], 0x1000)
  | .pol => (0x4C0000, [(0x10000, 4)], 0x1000)
  | .dt => (0x500000, [(0x40000, 4)], 0x40000)
  | .prs => (0x600000, [(0x100, 32)], 0x100)
  | .prsPort => (0x610000, [(0x10, 516)], 0x10)
  | .fab => (0x620000, [(0x100, 32)], 0x100)
  | .cb => (0x630000, [(0x100, 32)], 0x100)
  | .qm => (0x640000, [(0x100, 32)], 0x100)
  | .qmPort => (0x650000, [(0x100, 516)], 0x100)
  | .mac => (0x700000, [(0x400, 516)], 0x400)
  | .pcs => (0x800000, [(0x100, 516)], 0x100)
  | .fc => (0x840000, [(0x100, 516)], 0x100)
  | .sch => (0x900000, [(0x1000, 516)], 0x1000)
  | .gcl => (0xC00000, [(0x8000, 516)], 0x8000)
  | .ln => (0x1D00000, [(0x100, 512)], 0x100)

/-- Every window. -/
def Win.all : List Win :=
  [.glb, .tick, .ts, .mb, .cnt, .mir, .prot, .pwr, .ks, .thm, .dma, .rl, .tb, .tbPort, .fwd, .cls, .pol, .dt, .prs,
   .prsPort, .fab, .cb, .qm, .qmPort, .mac, .pcs, .fc, .sch, .gcl, .ln]

/-- The index that the digits of `rem` in the given strides spell, when `rem` is exactly such a sum. -/
def digits : List (Nat × Nat) → Nat → Nat → Option Nat
  | [], rem, acc => if rem = 0 then some acc else none
  | (st, c) :: t, rem, acc => if rem / st < c then digits t (rem % st) (acc * c + rem / st) else none

/-- The offset that an index spells in the given strides. -/
def undigits : List (Nat × Nat) → Nat → Nat
  | [], _ => 0
  | (st, c) :: t, i =>
    let low := t.foldl (fun n d => n * d.2) 1
    st * (i / low % c) + undigits t (i % low)

/-- The index variables of a register, its window's first. -/
def Reg.dims (r : Reg) : List (Nat × Nat) := r.desc.win.place.2.1 ++ r.desc.dims

/-- The main-view offset of instance `i` of a register. -/
def Reg.offset (r : Reg) (i : Nat) : Nat := r.desc.win.place.1 + r.desc.off + undigits r.dims i

/-- The instance of a register at a main-view offset, if it lies there. -/
def Reg.at? (r : Reg) (x : Nat) : Option Nat :=
  let b := r.desc.win.place.1 + r.desc.off
  if x < b then none else digits r.dims (x - b) 0

/-- The register and instance at a main-view offset. -/
def regAt (x : Nat) : Option (Reg × Nat) := Reg.all.findSome? fun r => (r.at? x).map fun i => (r, i)

/-- The largest offset of a window's register map (R535). -/
def Win.top (w : Win) : Nat :=
  (Reg.all.filter fun r => r.desc.win = w).foldl
    (fun m r => max m (r.desc.off + (r.desc.dims.map fun d => d.1 * (d.2 - 1)).foldl (· + ·) 0)) 0

/-- The instance of a window that the strides spell, with the offset inside it, when that lies below `size`. -/
def winDigits (size : Nat) : List (Nat × Nat) → Nat → Nat → Option (Nat × Nat)
  | [], rem, acc => if rem < size then some (acc, rem) else none
  | (st, c) :: t, rem, acc => if rem / st < c then winDigits size t (rem % st) (acc * c + rem / st) else none

/-- The window that holds a main-view offset, with the instance and the offset inside it. -/
def winAt (x : Nat) : Option (Win × Nat × Nat) :=
  Win.all.findSome? fun w =>
    if x < w.place.1 then none
    else (winDigits w.place.2.2 w.place.2.1 (x - w.place.1) 0).map fun r => (w, r.1, r.2)

/-- What a main-view offset names: a register, a gap inside a block's register map (R536), or nothing (R535). -/
inductive Place where
  | reg (r : Reg) (i : Nat)
  | gap
  | empty
  deriving DecidableEq, Repr

/-- What stands at a main-view offset. -/
def placeAt (x : Nat) : Place :=
  match regAt x with
  | some (r, i) => .reg r i
  | none =>
    match winAt x with
    | some (w, _, off) => if off ≤ w.top then .gap else .empty
    | none => .empty

/-! ### Presence and resets (R10, R537, R581) -/

/-- The quadrant, slice, port or lane that instance `i` of a register belongs to is present (R537). The queue numbers of a
DT window belong to the port that owns the queue. -/
def State.regPresent (s : State) (r : Reg) (i : Nat) : Bool :=
  let inner := r.desc.dims.foldl (fun n d => n * d.2) 1
  let w := i / inner
  match r.desc.win with
  | .tb | .fwd | .cls | .pol | .dt => s.hasQuad w
  | .tbPort => s.hasQuad (w / 516) && s.hasPort (w % 516)
  | .prs | .fab | .cb | .qm => s.hasSlice w
  | .prsPort | .qmPort | .mac | .pcs | .fc | .sch | .gcl => s.hasPort w
  | .ln => s.hasLane w
  | _ =>
    match r with
    | .tsPortDomLo | .tsPortDomHi | .tsPortDomEn | .tsPortTrim | .tsPortCorrCnt | .tsPortTermCnt | .tsPortOriginCnt
    | .tsPortBcPassCnt | .mirPortSrc => s.hasPort i
    | .tsRingCtl | .tsRingProd | .tsRingCons | .tsRingStat | .tsRingOvfCnt | .tsRingCnt => s.hasQuad i
    | .tsRingEnt => s.hasQuad (i / 4096)
    | .mirCopyCnt | .mirRateDropCnt | .mirTruncCnt => s.hasQuad (i / 8)
    | _ => true

/-- Blocks that keep serving accesses through a core reset (R581). -/
def Win.keepsServing : Win → Bool
  | .glb | .tick | .ts | .mb | .prot | .pwr | .ks | .thm => true
  | _ => false

/-- The quadrant a register instance's block lies in, for the per-instance windows. -/
def Reg.quadOf (r : Reg) (i : Nat) : Option Nat :=
  let inner := r.desc.dims.foldl (fun n d => n * d.2) 1
  let w := i / inner
  match r.desc.win with
  | .tb | .fwd | .cls | .pol | .dt => some w
  | .tbPort => some (w / 516)
  | .prs | .fab | .cb | .qm => some (w / 8)
  | .prsPort | .qmPort | .mac | .pcs | .fc | .sch | .gcl => some (Config.quadOf w)
  | .ln => some (w / 128)
  | _ => none

/-- Whether the block of a register instance is held in reset (R581): it reads zero and ignores writes. -/
def State.inReset (s : State) (r : Reg) (i : Nat) : Bool :=
  match s.boot.reset with
  | none => false
  | some k =>
    if k.core then !r.desc.win.keepsServing
    else match r.quadOf i with
      | some q => k.quads.testBit q
      | none => false

/-! ### Meetings of writes and hardware updates (R541 to R543) -/

/-- The party number of a sender (R547 GLB_UPD_INFO.WRITER): 0 control complex, 1 host. -/
def partyOf : Sender → Nat
  | .cc => 0
  | _ => 1

/-- Hardware updates an RW field; in a slot in which the field was written, the update is lost (R541, R543). -/
def State.hwFld (s : State) (f : Fld) (i v : Nat) : State :=
  match s.writtenBy (regKey f.reg i) f.mask with
  | some party => s.updLost (f.reg.offset i) party
  | none =>
    let s := s.setFld f i v
    { s with meet := { s.meet with hw := (regKey f.reg i, f.mask) :: s.meet.hw } }

/-- A write of the bits `mask` of a register is noted; a hardware update of the same slot that it overrides is lost
(R541, R543). -/
def State.noteWrite (s : State) (r : Reg) (i mask party : Nat) : State :=
  let key := regKey r i
  let lost := s.meet.hw.any fun h => h.1 = key && (h.2 &&& mask) != 0
  let s := if lost then s.updLost (r.offset i) party else s
  { s with meet := { s.meet with
      writes := (key, mask, party) :: s.meet.writes
      hw := s.meet.hw.filter fun h => !(h.1 = key && (h.2 &&& mask) != 0) } }

/-! ### Senders (R513, R592) -/

/-- Whether requester entry `k` matches a request (R592). -/
def State.reqMatches (s : State) (rid : Nat) (t : Bool) (k : Nat) : Bool :=
  let id := (s.reg .protReqId k).toNat
  let mask := id / 2 ^ 16
  s.flag F.protReqCfg_VALID k && (rid &&& mask) == (id % 2 ^ 16 &&& mask) && (!s.flag F.protReqCfg_T_REQ k || t)

/-- The SID of a host request: the first matching entry, or 0x3F (R592). -/
def State.sidOfHost (s : State) (rid : Nat) (t : Bool) : Nat :=
  match (List.range 63).find? (s.reqMatches rid t) with
  | some k => (if s.flag F.protReqCfg_SECURE k then 128 else 0) + k
  | none => 0x3F

/-- The SID of a sender; the control complex has the identity 0xFF (R532, R547). -/
def State.sid (s : State) : Sender → Nat
  | .cc => 0xFF
  | .host rid t => s.sidOfHost rid t
  | .tree sid => sid

/-- Whether a SID is secure (R513). -/
def sidSecure (sid : Nat) : Bool := sid.testBit 7

/-! ### The firewall (R593) -/

/-- Whether firewall region `j` covers main-view offset `x`. -/
def State.regionCovers (s : State) (x j : Nat) : Bool :=
  s.flag F.protFwrPerm_VALID j && s.fld F.protFwrBase_PAGE j ≤ x / 4096 && x / 4096 ≤ s.fld F.protFwrLimit_PAGE j

/-- Whether a region's permissions allow an access of a SID. -/
def State.regionAdmits (s : State) (sid : Nat) (write : Bool) (j : Nat) : Bool :=
  (!s.flag F.protFwrPerm_SID_EN j || sid % 64 == s.fld F.protFwrPerm_SID j)
  && (match sidSecure sid, write with
      | true, true => s.flag F.protFwrPerm_S_WR j
      | true, false => s.flag F.protFwrPerm_S_RD j
      | false, true => s.flag F.protFwrPerm_NS_WR j
      | false, false => s.flag F.protFwrPerm_NS_RD j)

/-- What every SID may read whatever the regions say: GLB offsets 0x000 to 0x00F and the PROT window (R592). -/
def alwaysReadable (x : Nat) : Bool := x < 0x10 || (0x70000 ≤ x && x < 0x80000)

/-- What SID 0x3F may read: the GLB and PROT windows (R592). -/
def unmatchedReadable (x : Nat) : Bool := x < 0x10000 || (0x70000 ≤ x && x < 0x80000)

/-- The refusal of a host access at main-view offset `x`: 2 for SID 0x3F (R592), 1 by the firewall (R593), none when it
goes on. The control complex is never subject to these checks. -/
def State.refusal (s : State) (who : Sender) (x : Nat) (write : Bool) : Option Nat :=
  match who with
  | .cc => none
  | who =>
    let sid := s.sid who
    if sid = 0x3F then
      if !write && unmatchedReadable x then none else some 2
    else if !write && alwaysReadable x then none
    else
      match (List.range 32).find? (s.regionCovers x) with
      | some j => if s.regionAdmits sid write j then none else some 1
      | none => none

/-- Record a refused access (R593, R594). -/
def State.violation (s : State) (kind sid addr : Nat) (write : Bool) : State :=
  let s := match kind with
    | 1 => s.raise F.protStat_FW_VIOL 0
    | 2 => s.raise F.protStat_NOMATCH 0
    | 3 => s.raise F.protStat_LATE_WR 0
    | _ => s.raise F.protStat_DMA_VIOL 0
  let s := s.setReg .protViolAddr 0 (word addr)
  let s := s.setReg .protViolInfo 0 (word (sid * 2 ^ 24 + b2n write * 2 ^ 16 + kind))
  s.count .protViolCnt 0 1

/-- Record an access error of GLB (R532, R538, R540): kind 1 partial byte enables, 2 alignment or length, 3 alias, 4
control-complex register. -/
def State.accError (s : State) (kind sid offset : Nat) : State :=
  let s := match kind with
    | 3 => s.raise F.glbStat_ALIAS 0
    | 4 => s.raise F.glbStat_CC_ONLY 0
    | _ => s.raise F.glbStat_ACC 0
  let s := s.setReg .glbAccAddr 0 (word (offset % 2 ^ 28))
  s.setReg .glbAccInfo 0 (word (sid % 256 * 256 + kind))

/-- An access at main-view offset `x` that the SID rule and the firewall let pass goes on with `k`; a refused one has no
other effect than its record (R593). -/
def State.access (s : State) (who : Sender) (x : Nat) (write : Bool) (k : State → State) : State :=
  match s.refusal who x write with
  | some kind => s.violation kind (s.sid who) x write
  | none => k s

/-- A read answers its requester; a refused read returns zero (R593). -/
def State.readAccess (s : State) (who : Sender) (x : Nat) (k : State → State × Word) : State :=
  match s.refusal who x false with
  | some kind => (s.violation kind (s.sid who) x false).emit (.readData who x 0)
  | none => (k s).1.emit (.readData who x (k s).2)

/-- A write of a register that only the control complex writes: a host's write is ignored and recorded (R538). -/
def State.ccWrite (s : State) (who : Sender) (x : Nat) (k : State → State) : State :=
  match who with
  | .cc => k s
  | _ => s.access who x true fun s => s.accError 4 (s.sid who) x

/-- The main-view offset at which an access is judged: an alias offset is judged at its register (R593). -/
def judgedAt (y : Nat) : Nat := if y < 0x8000000 then y else (y - 0x8000000) / 16 * 4

end Sys2Proof.Machine
end

