-- ==== Sys2Proof/Machine/Layouts.lean ====
section
/-!
DEFINITION. The parameters of every command packet, in the order its defining statement lists them (R491): the fixed fields, and what
follows them where a count, a kind or a family decides it (R492).
-/
namespace Sys2Proof.Machine
open Sys2Proof

/-- The DMA reference at the end of a block whose count field `k` exceeds `n` (R492). -/
def refWhenAbove (k n : Nat) (a : Args) : List Ty := if n < a.n k then [.dma] else []

/-- The address parameter of a FAMILY: 0 IPv4, 1 IPv6. -/
def famTy (fam : Nat) : Ty := if fam = 0 then .ip4 else .ip6

/-- General (R59, R61, R498, R508). -/
def fixedOf00 (ps : List Byte) : Nat → List Ty
  | 0x01 => [.u 16, .u 16]
  | 0x02 => List.replicate ps.length (.u 8)
  | 0x03 => [.u 64, .u 32, .dma]
  | 0x04 => [.wide 80, .u 8]
  | 0x05 => [.u 16]
  | 0x06 => [.u 16, .u 16]
  | _ => []

/-- Ports (R81, R82, R364, R366, R367). -/
def fixedOf01 : Nat → List Ty
  | 0x00 => [.u 10, .u 8, .flag, .u 16, .mac, .flag]
  | 0x01 => [.u 10, .u 12, .u 12, .u 16, .u 16, .u 8, .wide 80]
  | 0x02 => [.u 10]
  | 0x03 => [.u 10]
  | 0x04 => [.u 10, .u 8, .flag, .u 8, .wide 128, .u 16]
  | _ => []

/-- Ingress (R112 to R115). -/
def fixedOf02 : Nat → List Ty
  | 0x00 => [.u 4, .u 16, .u 2]
  | 0x01 => [.u 2, .u 16]
  | 0x02 => [.u 4, .u 16, .u 16]
  | 0x03 => [.u 4, .u 16, .u 32, .u 32, .u 32, .u 32, .flag, .s 7, .u 2, .u 6, .flag, .flag]
  | 0x04 => [.u 2, .u 16]
  | 0x05 => [.u 10, .u 32, .u 32]
  | 0x06 => [.u 10]
  | _ => []

/-- Address tables (R154 to R160). -/
def fixedOf03 : Nat → List Ty
  | 0x00 => [.u 4, .u 12, .mac, .flag, .flag, .u 16, .flag, .flag]
  | 0x01 => [.u 4, .u 12, .mac, .u 2]
  | 0x02 => [.u 4, .u 12, .mac]
  | 0x03 => [.u 2, .flag, .u 12, .mac, .flag, .u 10, .flag, .u 12, .u 2, .u 16]
  | 0x04 => [.u 4, .u 10, .flag, .flag, .u 12, .u 2]
  | 0x05 => [.flag, .u 32, .flag]
  | 0x06 => [.u 10, .u 2, .u 32]
  | 0x07 => [.flag, .u 64, .u 32, .u 6]
  | 0x08 => [.u 12, .flag, .u 12, .flag, .u 16, .u 16, .wide 516]
  | 0x09 => [.u 12]
  | _ => []

/-- Prefix tables (R186 to R192). -/
def fixedOf04 : Nat → List Ty
  | 0x00 => [.u 4, .u 8, .u 12]
  | 0x01 => [.u 4, .u 8, .u 12]
  | 0x02 => [.u 4, .u 8, .u 12]
  | 0x03 => [.u 2, .u 8, .u 12]
  | 0x04 => [.u 2, .flag, .u 8, .u 12]
  | 0x05 => [.u 2, .u 8, .u 10]
  | 0x06 => [.u 8, .u 8, .u 8, .u 8]
  | 0x07 => [.u 4, .u 32, .u 2, .u 10, .u 12, .mac]
  | 0x08 => [.u 2, .u 32]
  | 0x09 => [.u 4, .u 32, .u 16]
  | 0x0A => [.u 4, .u 32, .u 16, .u 32]
  | 0x0B => [.u 2, .u 32]
  | 0x0C => [.u 32, .u 6]
  | 0x0D => [.u 12, .flag, .u 12, .mac, .flag, .flag, .u 14, .flag, .u 12]
  | 0x0E => [.u 8, .u 16, .u 12]
  | 0x0F => [.u 12]
  | _ => []

/-- Fabric and cell buffer (R218, R219, R251 to R254). -/
def fixedOf05 : Nat → List Ty
  | 0x00 => [.u 4, .u 16, .wide 516]
  | 0x01 => [.u 2, .u 16]
  | 0x02 => [.u 32, .u 16, .u 16, .u 16]
  | 0x03 => [.u 5]
  | 0x04 => [.u 32, .u 8, .u 32, .u 32]
  | 0x05 => [.u 5]
  | 0x06 => [.u 5, .u 16, .u 16]
  | 0x07 => [.u 5, .u 16, .flag, .u 8]
  | 0x08 => [.u 5, .u 16]
  | 0x09 => [.u 5, .u 14]
  | 0x0A => [.u 32, .flag, .u 8]
  | _ => []

/-- Deep tier (R282 to R284). -/
def fixedOf06 : Nat → List Ty
  | 0x00 => [.u 14, .u 32, .u 32, .u 16, .u 16]
  | 0x01 => [.u 14]
  | 0x02 => [.u 3, .u 1]
  | 0x03 => [.u 32]
  | 0x04 => [.u 32]
  | 0x05 => [.u 4, .flag, .u 8]
  | 0x06 => [.u 2]
  | _ => []

/-- Queues and scheduler (R307 to R309, R334 to R337). -/
def fixedOf07 : Nat → List Ty
  | 0x00 => [.u 10, .u 32, .u 32, .u 16, .u 16]
  | 0x01 => [.u 10]
  | 0x02 => [.u 14, .u 32, .u 8, .u 8, .u 8]
  | 0x03 => [.u 14]
  | 0x04 => [.u 10, .u 2]
  | 0x05 => [.u 10]
  | 0x06 => [.u 10, .u 8, .s 7] ++ List.replicate 8 (.u 32) ++ [.u 32, .u 32]
  | 0x07 => [.u 14, .u 32, .u 32]
  | 0x08 => [.u 10]
  | 0x09 => [.u 10, .u 32, .u 16, .wide 80, .wide 80]
  | 0x0A => [.u 10]
  | 0x0B => [.u 10, .u 1]
  | _ => []

/-- Lanes (R396 to R399). -/
def fixedOf08 : Nat → List Ty
  | 0x00 => [.u 16, .wide 256]
  | 0x01 => [.u 16, .u 8]
  | 0x02 => [.dma]
  | 0x03 => [.u 16, .u 8, .s 8, .s 8, .u 8, .s 8, .s 8, .u 8, .u 8]
  | 0x04 => [.u 16, .dma]
  | 0x05 => [.u 16]
  | 0x06 => [.u 16, .u 8, .u 8, .flag]
  | 0x07 => [.u 16]
  | _ => []

/-- Time and stamping (R428 to R434, R454, R455). -/
def fixedOf09 : Nat → List Ty
  | 0x00 => []
  | 0x01 => [.wide 80]
  | 0x02 => [.flag, .u 40, .flag, .s 64, .u 29]
  | 0x03 => [.u 2, .u 10, .u 8, .u 32, .u 32, .u 32, .u 32]
  | 0x04 => []
  | 0x05 => [.u 64]
  | 0x06 => [.u 8, .flag, .flag, .flag, .wide 80, .u 31, .u 8, .u 31]
  | 0x07 => [.flag, .u 30]
  | 0x08 => [.u 8, .flag, .u 2, .flag]
  | 0x09 => [.u 8, .u 8]
  | 0x0A => [.u 8, .flag, .u 16, .u 3]
  | 0x0B => [.u 10, .u 8] ++ List.replicate 8 (.u 8) ++ [.s 16, .s 16]
  | 0x0C => [.u 10]
  | 0x0D => [.u 8, .flag, .flag]
  | 0x0E => [.flag]
  | _ => []

/-- Mirroring and counters (R469, R470, R483, R484). -/
def fixedOf0A : Nat → List Ty
  | 0x00 => [.u 8, .flag, .u 8, .u 8, .u 3, .u 16, .u 14, .u 32, .u 32]
  | 0x01 => [.u 8]
  | 0x02 => [.u 10, .u 8, .u 8]
  | 0x03 => []
  | 0x04 => [.u 8, .u 32, .u 32, .flag, .dma]
  | _ => []

/-- Host and tree (R577, R578). -/
def fixedOf0B : Nat → List Ty
  | 0x00 => [.u 8, .u 8, .flag, .u 64, .u 32, .u 16, .flag, .u 8, .u 16, .u 16, .u 8]
  | 0x01 => [.u 8, .u 8]
  | 0x02 => []
  | 0x03 => [.u 6]
  | _ => []

/-- Firmware (R603 to R605). -/
def fixedOf0C : Nat → List Ty
  | 0x00 => [.u 8, .dma]
  | 0x01 => [.u 8, .u 8, .u 16]
  | 0x02 => []
  | 0x03 => []
  | _ => []

/-- Keep store and power (R628 to R630). -/
def fixedOf0D : Nat → List Ty
  | 0x00 => [.u 32, .dma]
  | 0x01 => [.u 8, .u 32, .dma]
  | 0x02 => []
  | 0x03 => []
  | _ => []

/-- The fixed fields of an opcode. -/
def fixedOf (op : Nat) (ps : List Byte) : List Ty :=
  match op / 256 with
  | 0x00 => fixedOf00 ps (op % 256)
  | 0x01 => fixedOf01 (op % 256)
  | 0x02 => fixedOf02 (op % 256)
  | 0x03 => fixedOf03 (op % 256)
  | 0x04 => fixedOf04 (op % 256)
  | 0x05 => fixedOf05 (op % 256)
  | 0x06 => fixedOf06 (op % 256)
  | 0x07 => fixedOf07 (op % 256)
  | 0x08 => fixedOf08 (op % 256)
  | 0x09 => fixedOf09 (op % 256)
  | 0x0A => fixedOf0A (op % 256)
  | 0x0B => fixedOf0B (op % 256)
  | 0x0C => fixedOf0C (op % 256)
  | 0x0D => fixedOf0D (op % 256)
  | _ => []

/-- What follows the fixed fields `a`: the fields that they call for, the list, or the reference in its place. -/
def tailOf (op : Nat) (ps : List Byte) (a : Args) : List Ty :=
  match op with
  | 0x0004 =>
    (match a.n 1 with
      | 2 => [Ty.u 28, .u 32]
      | 3 => [.u 8]
      | _ => []) ++ [.u 64]
  | 0x0006 => if 28 < a.n 1 && decide (8 < ps.length) then [.dma] else []
  | 0x0200 =>
    let w := if a.n 2 = 2 then 320 else 160
    [.wide w, .wide w, .u 64, .flag]
  | 0x0303 => refWhenAbove 9 28 a
  | 0x0400 => [famTy (a.n 1), .u 8, .flag, .u 32, .flag]
  | 0x0401 => [famTy (a.n 1), .u 8]
  | 0x0402 => [famTy (a.n 1), .u 8]
  | 0x0403 => [famTy (a.n 1)]
  | 0x0404 =>
    [famTy (a.n 2), .u 8, .flag, .u 12, .u 16]
      ++ (if 28 < (parseFrom ps [.u 2, .flag, .u 8, .u 12, famTy (a.n 2), .u 8, .flag, .u 12, .u 16] 0).n 8
      then [.dma] else [])
  | 0x0409 => if a.n 2 ≤ 60 then List.replicate (a.n 2) (.u 32) else [.dma]
  | 0x0506 => refWhenAbove 2 28 a
  | 0x0709 => if a.n 2 ≤ 56 then (List.replicate (a.n 2) [Ty.u 32, .u 8, .u 8, .u 8, .u 8]).flatten else [.dma]
  | 0x0A00 =>
    let ip : Ty := if a.n 2 = 2 then .ip4 else .ip6
    if a.n 2 = 2 ∨ a.n 2 = 3 then [.mac, .mac, .u 12, ip, ip, .u 6, .u 8, .u 16, .u 16] else []
  | 0x0C03 => if ps.isEmpty then [] else [.dma]
  | _ => []

/-- The parameters of a packet, read by its opcode's layout. -/
def readParams (op : Nat) (ps : List Byte) : Args :=
  let fixed := fixedOf op ps
  parseBlock (fixed ++ tailOf op ps (parseFrom ps fixed 0)) ps

/-- Whether a packet's LENGTH differs from what its opcode's layout gives (R500 check 3). -/
def lengthBad (op : Nat) (ps : List Byte) : Bool := (readParams op ps).size != ps.length

end Sys2Proof.Machine
end

