-- ==== Sys2Proof/Machine/Packet.lean ====
section
/-!
DEFINITION. Command packets (R488 to R511): the status codes, the checks on a header and on DMA references, the journal,
and the life of a command from its consumption to its reply, shared by every command packet.
-/
namespace Sys2Proof.Machine
open Sys2Proof

/-- The status codes of R510. -/
inductive Status where
  | ok | partial_ | notApplicable
  | versionUnsupported | opcodeUnknown | lengthInvalid | headerInvalid | notPermitted | tagInUse | queueFull
  | abortedByReset | dmaWindow | dmaFault | busy
  | paramInvalid | resourceAbsent | indexRange | pairAlign | rateInvalid | modeInvalid
  | tableFull | entryExists | notFound | pfxNotEmpty
  | schedPast | schedRange | schedTarget | schedFull | schedGone | servoOwned | todUnset | nodeUnreachable
  | floorExcess | cellState | retireLimit | stackRetired | reserveExcess | longReachLimit
  | portAlign | lanesInUse | portActive | cemondMissing | laneNotLocked
  | holdupLow | ksFault | imageInvalid | protLocked
  deriving DecidableEq, Repr

/-- The code of a status (R510). -/
def Status.code : Status → Nat
  | .ok => 0x0000 | .partial_ => 0x0001 | .notApplicable => 0x0002
  | .versionUnsupported => 0x0100 | .opcodeUnknown => 0x0101 | .lengthInvalid => 0x0102 | .headerInvalid => 0x0103
  | .notPermitted => 0x0104 | .tagInUse => 0x0105 | .queueFull => 0x0106 | .abortedByReset => 0x0107
  | .dmaWindow => 0x0108 | .dmaFault => 0x0109 | .busy => 0x010A
  | .paramInvalid => 0x0200 | .resourceAbsent => 0x0201 | .indexRange => 0x0202 | .pairAlign => 0x0203
  | .rateInvalid => 0x0204 | .modeInvalid => 0x0205
  | .tableFull => 0x0300 | .entryExists => 0x0301 | .notFound => 0x0302 | .pfxNotEmpty => 0x0303
  | .schedPast => 0x0400 | .schedRange => 0x0401 | .schedTarget => 0x0402 | .schedFull => 0x0403
  | .schedGone => 0x0404 | .servoOwned => 0x0405 | .todUnset => 0x0406 | .nodeUnreachable => 0x0407
  | .floorExcess => 0x0500 | .cellState => 0x0501 | .retireLimit => 0x0502 | .stackRetired => 0x0503
  | .reserveExcess => 0x0504 | .longReachLimit => 0x0505
  | .portAlign => 0x0600 | .lanesInUse => 0x0601 | .portActive => 0x0602 | .cemondMissing => 0x0603
  | .laneNotLocked => 0x0604
  | .holdupLow => 0x0700 | .ksFault => 0x0701 | .imageInvalid => 0x0702 | .protLocked => 0x0703

/-- What the body of a command answers: its status, its reply parameters and the state it leaves. A deferred answer has
no reply yet: the command goes on as a job. -/
structure Res where
  status : Status
  params : List Byte
  state : State
  deferred : Bool := false

/-- Answer a status without effect (R500: a discarded command takes no effect). -/
def Res.discard (s : State) (e : Status) : Res := { status := e, params := [], state := s }

/-- Answer OK with reply parameters. -/
def Res.ok (s : State) (ps : List (Ty × Nat)) : Res := { status := .ok, params := emitBlock ps, state := s }

/-- The first check that fails decides (R511); with none failing the command goes on. -/
def firstFail : List (Bool × Status) → Option Status
  | [] => none
  | (true, e) :: _ => some e
  | (false, _) :: t => firstFail t

/-- Run a command's checks, then its effect. -/
def guarded (s : State) (checks : List (Bool × Status)) (k : Res) : Res :=
  match firstFail checks with
  | some e => Res.discard s e
  | none => k

/-! ### The header (R500) and the secure-only opcodes (R507) -/

/-- The secure-only opcodes of R507. -/
def secureOnly : List Nat :=
  [0x0507, 0x0508, 0x0602, 0x0603, 0x0604, 0x0C00, 0x0C01, 0x0D00]

/-- The number of opcodes of each group (R507); group 0 begins at index 1. -/
def groupSize : Nat → Nat
  | 0x00 => 7 | 0x01 => 5 | 0x02 => 7 | 0x03 => 10 | 0x04 => 16 | 0x05 => 11 | 0x06 => 7 | 0x07 => 12 | 0x08 => 8
  | 0x09 => 15 | 0x0A => 5 | 0x0B => 4 | 0x0C => 4 | 0x0D => 4 | _ => 0

/-- Whether version 0x0100 defines an opcode (R507). -/
def opcodeKnown (op : Nat) : Bool := op % 256 < groupSize (op / 256) && op != 0

/-- The opcodes boot code answers in recovery mode (R587). -/
def recoveryOpcodes : List Nat := [0x0001, 0x0002, 0x0C00, 0x0C01, 0x0C02, 0x0C03]

/-- Whether firmware, or boot code in recovery mode, consumes mailboxes (R585, R587). -/
def State.fwRunning (s : State) : Bool := s.flag F.protBoot_RUNNING 0 || s.flag F.protBoot_RECOVERY 0

/-- Whether a version lies in the range that the running firmware supports (R497, R499). -/
def State.versionOk (s : State) (v : Nat) : Bool := s.boot.protoMin ≤ v && v ≤ s.boot.protoMax

/-- The header checks of R500 that do not need the opcode's layout, in order; `lenBad` is check 3. -/
def headerChecks (s : State) (op : Nat) (p : Packet) (lenBad : Bool) : List (Bool × Status) :=
  [ (!s.versionOk p.version && op != 0x0001, .versionUnsupported),
    (!opcodeKnown op || (s.flag F.protBoot_RECOVERY 0 && !recoveryOpcodes.contains op), .opcodeUnknown),
    (decide (496 < p.params.length) || p.params.length % 4 != 0 || lenBad, .lengthInvalid),
    (p.flags != 0 || p.zero != 0, .headerInvalid),
    (secureOnly.contains op && decide (3 < p.chan), .notPermitted),
    (s.pkts.journal.any (fun j => j.chan = p.chan && j.tag = p.tag), .tagInUse),
    (decide (32 ≤ (s.pkts.journal.filter (fun j => j.chan = p.chan)).length), .queueFull) ]

/-! ### DMA references (R493 to R496) -/

/-- A DMA reference's address, length and direction. -/
def dmaAddr (v : Nat) : Nat := v % 2 ^ 64
def dmaLen (v : Nat) : Nat := v / 2 ^ 64 % 2 ^ 32
def dmaDir (v : Nat) : Nat := v / 2 ^ 96

/-- The bus range of DMA window `k` (R594). -/
def State.winBase (s : State) (k : Nat) : Nat :=
  (s.reg .protDmaBaseHi k).toNat * 2 ^ 32 + (s.reg .protDmaBaseLo k).toNat / 4096 * 4096
def State.winLimit (s : State) (k : Nat) : Nat :=
  (s.reg .protDmaLimHi k).toNat * 2 ^ 32 + (s.reg .protDmaLimLo k).toNat / 4096 * 4096 + 4095

/-- Whether a window admits an access of a direction by a secure or non-secure sender (R494, R594). -/
def State.winAdmits (s : State) (addr len : Nat) (write secure : Bool) (k : Nat) : Bool :=
  s.flag F.protDmaCfg_VALID k && s.winBase k ≤ addr && addr + len ≤ s.winLimit k + 1
    && (if write then s.flag F.protDmaCfg_WR k else s.flag F.protDmaCfg_RD k)
    && (secure || !s.flag F.protDmaCfg_SECURE_ONLY k)

/-- Whether some DMA window admits an access (R494, R594). -/
def State.dmaAdmits (s : State) (addr len : Nat) (write secure : Bool) : Bool :=
  (List.range 16).any (s.winAdmits addr len write secure)

/-- The checks of R494 on a reference: outside every window, then malformed, of the wrong direction, or shorter than the
`need` bytes of data. -/
def dmaChecks (s : State) (p : Packet) (v : Nat) (write : Bool) (need : Nat) : List (Bool × Status) :=
  [ (!s.dmaAdmits (dmaAddr v) (dmaLen v) write (decide (p.chan < 4)), .dmaWindow),
    (dmaAddr v % 8 != 0 || dmaLen v % 8 != 0 || decide (dmaLen v < 8) || decide (67108864 < dmaLen v)
      || dmaDir v != b2n write || decide (dmaLen v < need), .paramInvalid) ]

/-- Write a buffer, then apply the effect that assumes the host has the data; a PCIe fault leaves that effect out and
answers DMA_FAULT (R495, R496). -/
def dmaWrite (s : State) (p : Packet) (v : Nat) (bytes : List Byte) (k : State → Res) : Res :=
  if p.dmaFault then Res.discard s .dmaFault else k (s.emit (.hostWrite (dmaAddr v) bytes))

/-! ### The journal and replies (R489, R503, R505, R506) -/

/-- Put the state of a journal entry. -/
def State.setJournal (s : State) (chan tag : Nat) (st : JState) : State :=
  { s with pkts := { s.pkts with
      journal := s.pkts.journal.map fun j => if j.chan = chan ∧ j.tag = tag then { j with state := st } else j } }

/-- Add a journal entry, in consumption order. -/
def State.addJournal (s : State) (j : JEntry) : State :=
  { s with pkts := { s.pkts with journal := s.pkts.journal ++ [j] } }

/-- Hold a reply for its channel's outbound slot (R503). -/
def State.reply (s : State) (r : Reply) : State := { s with pkts := { s.pkts with replies := s.pkts.replies ++ [r] } }

/-- The replies of a channel that wait for its outbound slot. -/
def State.waiting (s : State) (chan : Nat) : Nat := (s.pkts.replies.filter fun r => r.chan = chan).length

/-- The sender-incarnation of a channel (R523). -/
def State.incarnation (s : State) (chan : Nat) : Nat := (s.reg .mbInInc chan).toNat

/-- The reply of a command with a status (R489): VERSION_UNSUPPORTED carries firmware's range (R499). -/
def mkReply (s : State) (op : Nat) (p : Packet) (inc : Nat) (e : Status) (ps : List Byte) : Reply :=
  { chan := p.chan
    version := if e = .versionUnsupported then s.boot.protoMax else p.version
    opcode := op, tag := p.tag, status := e.code, inc := inc % 2 ^ 16
    params := if e = .versionUnsupported ∧ op ≠ 0x0001
      then leBytes 2 s.boot.protoMin ++ leBytes 2 s.boot.protoMax else ps }

/-- The command that firmware has already consumed from the channel with this opcode and packet, if any (R501). -/
def State.takenOf (s : State) (op : Nat) (p : Packet) : Option Taken :=
  s.pkts.taken.find? fun t => t.opcode = op && t.pkt.chan = p.chan && t.pkt.tag = p.tag && t.pkt.params = p.params

/-- Firmware no longer holds a consumed command. -/
def State.untake (s : State) (op : Nat) (p : Packet) : State :=
  { s with pkts := { s.pkts with
      taken := s.pkts.taken.filter fun t => !(t.opcode = op && t.pkt.chan = p.chan && t.pkt.tag = p.tag) } }

/-- The opcodes whose acceptance changes configuration, so that the configuration journal records them (R620). -/
def configOpcodes : List Nat :=
  [0x0100, 0x0101, 0x0104, 0x0200, 0x0202, 0x0203, 0x0205, 0x0300, 0x0301, 0x0305, 0x0306, 0x0307, 0x0308]
  ++ [0x0400, 0x0401, 0x0406, 0x0407, 0x0409, 0x040A, 0x040C, 0x040D, 0x040E]
  ++ [0x0500, 0x0502, 0x0504, 0x0508, 0x050A, 0x0600, 0x0602, 0x0603, 0x0605]
  ++ [0x0700, 0x0702, 0x0704, 0x0706, 0x0707, 0x0709, 0x070A, 0x0800, 0x0802, 0x0806]
  ++ [0x0903, 0x0906, 0x0907, 0x0908, 0x090A, 0x090B, 0x090D, 0x090E, 0x0A00, 0x0A02, 0x0B00]

/-- Record an accepted command that changes configuration (R620). -/
def State.recordConfig (s : State) (op : Nat) (p : Packet) (e : Status) : State :=
  if configOpcodes.contains op && (e == .ok || e == .partial_) then s.logConfig op p.params else s

/-- A command's reply is held for its slot, and its journal entry is DONE (R503, R505). -/
def State.answer (s : State) (op : Nat) (p : Packet) (inc : Nat) (e : Status) (ps : List Byte) : State :=
  ((s.recordConfig op p e).setJournal p.chan p.tag .done).reply (mkReply s op p inc e ps)

/-- Begin a consumed command, run its body and hold its reply: the journal goes from STARTED to DONE (R505). A deferred
command stays STARTED until its job ends. -/
def runBody (op : Nat) (p : Packet) (inc : Nat) (body : State → Res) (s : State) : State :=
  let r := body (s.setJournal p.chan p.tag .started)
  if r.deferred then r.state else r.state.answer op p inc r.status r.params

/-! ### Jobs: commands that go on over several operations -/

/-- The job of a channel and TAG. -/
def State.job? (s : State) (chan tag : Nat) : Option Job :=
  s.tab.jobs.find? fun j => j.pkt.chan = chan && j.pkt.tag = tag

/-- Start a job for a command; its answer is deferred. -/
def Res.job (s : State) (op : Nat) (p : Packet) (left : Nat) (status : List Nat := [0, 0, 0, 0]) : Res :=
  { status := .ok, params := [], deferred := true
    state := { s with tab := { s.tab with
      jobs := s.tab.jobs ++ [{ op := op, pkt := p, inc := s.incarnation p.chan, left := left, status := status }] } } }

/-- Put a job back changed, or end it with its answer when nothing is left. -/
def State.stepJob (s : State) (chan tag : Nat) (f : Job → Job) (answer : Job → State → Status × List Byte) : State :=
  match s.job? chan tag with
  | none => s
  | some j =>
    let j := f j
    let others := s.tab.jobs.filter fun k => !(k.pkt.chan = chan && k.pkt.tag = tag)
    if j.left = 0 then
      let s := { s with tab := { s.tab with jobs := others } }
      let a := answer j s
      s.answer j.op j.pkt j.inc a.1 a.2
    else { s with tab := { s.tab with jobs := others ++ [j] } }

/-- The status of a code (R510), for the codes that quadrants report. -/
def statusOfCode (c : Nat) : Status :=
  if c = Status.tableFull.code then .tableFull
  else if c = Status.entryExists.code then .entryExists
  else if c = Status.notFound.code then .notFound
  else if c = Status.resourceAbsent.code then .resourceAbsent
  else if c = Status.notApplicable.code then .notApplicable
  else .ok

/-- A command consumed under incarnation `inc`: when the sender has restarted since, it is not executed and is answered
with ABORTED_BY_RESET, APPLIED 0 (R506, R525). -/
def runConsumed (op : Nat) (p : Packet) (inc : Nat) (body : State → Res) (s : State) : State :=
  if inc ≠ s.incarnation p.chan then
    (s.setJournal p.chan p.tag .done).reply (mkReply s op p inc .abortedByReset [0, 0, 0, 0])
  else runBody op p inc body s

/-- Consume a command: with 64 replies waiting on the channel it is lost with a log record (R503); with a header at fault it
is discarded and answered (R500, R490); otherwise it enters the journal as CONSUMED and `k` goes on. -/
def consume (op : Nat) (p : Packet) (inc : Nat) (lenBad : Bool) (k : State → State) (s : State) : State :=
  if 64 ≤ s.waiting p.chan then
    s.logEvent 0x4005 (leBytes 4 p.chan ++ leBytes 4 p.tag)
  else
    match firstFail (headerChecks s op p lenBad) with
    | some e => s.reply (mkReply s op p inc e [])
    | none =>
      k (s.addJournal { chan := p.chan, tag := p.tag, inc := inc, version := p.version, opcode := op, state := .consumed })

/-- Firmware holds a consumed command until it begins it. -/
def State.take_ (s : State) (op inc : Nat) (p : Packet) : State :=
  { s with pkts := { s.pkts with taken := s.pkts.taken ++ [{ opcode := op, pkt := p, inc := inc }] } }

/-- The commands that write the blocks of quadrants: those of the groups 0x01 to 0x08 that change configuration (R583). -/
def quadWriter (op : Nat) : Bool := configOpcodes.contains op && decide (op / 256 < 9)

/-- A command packet of opcode `op` with its parameters (R491, R492). A command consumed before by MB_IN_CONSUME runs from its journal
entry; another is consumed here first. While firmware does not run, or has stopped consuming for a switch, the command waits (R520,
R598); while a restoration is due, one that writes the quadrants' blocks is consumed and held (R583). -/
def runPacket (op : Nat) (p : Packet) (body : Args → State → Res) (s : State) : Host.Outcome State Fault Refusal :=
  let inc := s.incarnation p.chan
  let consumed := fun (k : State → State) => consume op p inc (lengthBad op p.params) k s
  if !s.fwRunning || s.boot.switchAt.isSome then .next s
  else
    match s.takenOf op p, s.shadow.isSome && quadWriter op with
    | some _, true => .next s
    | none, true => .next (consumed fun s => s.take_ op inc p)
    | some t, false => .next (runConsumed op p t.inc (body (readParams op p.params)) (s.untake op p))
    | none, false => .next (consumed (runConsumed op p inc (body (readParams op p.params))))

/-! ### Status blocks (R509) -/

/-- The status of each quadrant of a mask under a per-quadrant result. -/
def statusBlock (s : State) (mask : Nat) (st : Nat → Status) : List (Ty × Nat) :=
  let absent := (List.range 4).foldl (fun a q => if mask.testBit q && !s.hasQuad q then a + 2 ^ q else a) 0
  let of_ := fun q => if !mask.testBit q then Status.notApplicable else if !s.hasQuad q then .resourceAbsent else st q
  [ (.u 8, absent), (.u 8, 0), (.u 16, (of_ 0).code), (.u 16, (of_ 1).code), (.u 16, (of_ 2).code),
    (.u 16, (of_ 3).code) ]

/-- The overall status of a command with a quadrant mask: OK when every present named quadrant reports OK, else PARTIAL
(R509). -/
def overall (s : State) (mask : Nat) (st : Nat → Status) : Status :=
  if (s.quadsOf mask).all (fun q => st q = .ok) then .ok else .partial_

end Sys2Proof.Machine
end

