-- ==== Sys2Proof/Machine/Counting.lean ====
section
/-!
DEFINITION. Snapshots, the counter arrays and their transfer (chapter 17), and the merge of the queue samples into their
holding images (R331).
-/
namespace Sys2Proof.Machine
open Sys2Proof

/-! ### Snapshots (R474 to R479) -/

/-- Whether a register's image is a 64-bit sum, read as a LO and HI pair (R332, R363). -/
def Reg.isSumLo : Reg → Bool
  | .schDepthSumLo | .schDelaySumLo | .macRxOctLo | .macTxOctLo => true
  | _ => false

/-- Whether the counting unit of a live counter is held in reset (R476). -/
def State.unitHeld (s : State) (key : Nat) : Bool :=
  match Reg.all[key % 512]? with
  | some r => s.inReset r (key / 512)
  | none => false

/-- Add a live counter into its holding image, with the image's saturation (R472, R474). -/
def State.addImage (s : State) (key n : Nat) : State :=
  match Reg.all[key % 512]? with
  | none => s
  | some r =>
    if r.isSumLo then
      { s with cnt := { s.cnt with
          sums := Table.set (fun _ => 0) s.cnt.sums key (min (Table.get (fun _ => 0) s.cnt.sums key + n) (2 ^ 64 - 1)) } }
    else s.setReg r (key / 512) (word (min ((s.reg r (key / 512)).toNat + n) 0xFFFFFFFF))

/-- Every live register counter whose unit is not in reset goes into its image and is cleared (R474, R476). -/
def State.snapRegs (s : State) : State :=
  let done := s.cnt.live.filter fun e => !s.unitHeld e.1
  let s1 := done.foldl (fun s e => s.addImage e.1 e.2) s
  { s1 with cnt := { s1.cnt with live := s1.cnt.live.filter fun e => s.unitHeld e.1 } }

/-- Add an array entry's live counter into its image; an image that saturates sets ARR_SAT and is marked (R472, R482). -/
def State.addArrImage (s : State) (idx n : Nat) : State :=
  let v := Table.get (fun _ => 0) s.cnt.arrImg idx + n
  let s1 := { s with cnt := { s.cnt with arrImg := Table.set (fun _ => 0) s.cnt.arrImg idx (sat48 v) } }
  if 2 ^ 48 ≤ v then
    ({ s1 with cnt := { s1.cnt with sat := Table.set (fun _ => 0) s1.cnt.sat idx 1 } }).raise F.cntStat_ARR_SAT 0
  else s1

/-- Every live array counter goes into its image (R474). -/
def State.snapArrays (s : State) : State :=
  let s1 := s.cnt.arrLive.foldl (fun s e => s.addArrImage e.1 e.2) s
  { s1 with cnt := { s1.cnt with arrLive := [] } }

/-- The epochs in a quadrant's pending set (R331). -/
def State.pendEpochs (s : State) (quad : Nat) : Nat := Table.get (fun _ => 0) s.samp.pendEpochs quad

/-- Merge one queue's pending set into its holding image (R331, R332): inverted minima, maxima, sums and counts. -/
def State.mergeQueue (s : State) (q : Nat) (a : QAcc) : State :=
  let inv := fun m => 0xFFFFFFFF - min m 0xFFFFFFFF
  let s := s.setReg .schDepthMinInv q (word (max (s.reg .schDepthMinInv q).toNat (inv a.dMin)))
  let s := s.setReg .schDepthMax q (word (max (s.reg .schDepthMax q).toNat a.dMax))
  let s := s.addImage (regKey .schDepthSumLo q) a.dSum
  let s := if a.lCnt = 0 then s else
    let s := s.setReg .schDelayMinInv q (word (max (s.reg .schDelayMinInv q).toNat (inv a.lMin)))
    let s := s.setReg .schDelayMax q (word (max (s.reg .schDelayMax q).toNat a.lMax))
    let s := s.addImage (regKey .schDelaySumLo q) a.lSum
    s.setReg .schDelayCnt q (word (min ((s.reg .schDelayCnt q).toNat + a.lCnt) 0xFFFFFFFF))
  let quad := Config.quadOf (q / 16)
  let e := s.fld F.schSampEpochs_EPOCHS q + s.pendEpochs quad
  s.setReg .schSampEpochs q (word (Table.get (fun _ => 0) s.samp.pendLast quad % 2 ^ 16 * 2 ^ 16 + min e 0xFFFF))

/-- Merge the pending sets of every present queue and clear them (R331, R474). -/
def State.snapSamples (s : State) : State :=
  if s.samp.pendEpochs = [] then s
  else
    let qs := (List.range Config.queues).filter fun q =>
      s.pendEpochs (Config.quadOf (q / 16)) != 0 && s.hasPort (q / 16) && !s.inReset .schDepthMax q
    let s1 := qs.foldl (fun s q => s.mergeQueue q (Table.get (fun _ => {}) s.samp.pend q)) s
    { s1 with samp := { s1.samp with pendEpochs := [], pend := [] } }

/-- The slices whose counting units a running reset holds (R476, CNT_SNAP_SKIP). -/
def State.skippedSlices (s : State) : Nat :=
  match s.boot.reset with
  | none => 0
  | some k =>
    (List.range s.fuses.code.slices).foldl
      (fun m sl => if k.core || k.quads.testBit (sl / 8) then m + 2 ^ sl else m) 0

/-- A snapshot (R474, R478): every live counter into its image, the sequence advances, and the slot's whorl, PARITY, slot
count and skipped units are recorded and logged. All requests of one slot make one snapshot. -/
def State.snapshot (s : State) : State :=
  if s.cnt.lastSnapSlot = some s.tick.slot then s
  else
    let skip := s.skippedSlices
    let s := s.snapRegs.snapArrays.snapSamples
    let seq := word ((s.reg .cntSnapSeq 0).toNat + 1)
    let s := s.setReg .cntSnapSeq 0 seq
    let s := s.setReg .cntSnapWhorl 0 (word s.whorlNs)
    let s := s.setReg .cntSnapInfo 0 (word (b2n s.netValid * 2 + b2n s.time.parity))
    let s := s.setReg .cntSnapSlot 0 (word s.tick.slot)
    let s := s.setReg .cntSnapSkip 0 (word skip)
    let s := if skip = 0 then s else s.raise F.cntStat_PARTIAL 0
    let s := s.raise F.cntStat_SNAP 0
    let s := { s with cnt := { s.cnt with lastSnapSlot := some s.tick.slot, lastSnapEpoch := s.epoch } }
    s.logEvent 0x4002 (leBytes 4 seq.toNat ++ leBytes 4 0 ++ leBytes 8 s.tick.slot)

/-- CNT_SNAP_REQUEST (R478): a write of CNT_SNAP; SNAP = 1 requests a snapshot. Host and control complex may both write. -/
def execCntSnapRequest (who : Sender) (v : Word) (s : State) : Host.Outcome State Fault Refusal :=
  .next (s.access who (Reg.cntSnap.offset 0) true fun s => if v.toNat.testBit 0 then s.snapshot else s)

/-- FIRMWARE_SNAPSHOT (R477): firmware takes a snapshot when none has been taken for 65,536 epochs. -/
def execFirmwareSnapshot (s : State) : Host.Outcome State Fault Refusal :=
  if s.fwRunning && decide (65536 ≤ s.epoch - s.cnt.lastSnapEpoch) then .next s.snapshot else .next s

/-- SNAPSHOT (R483): the reply carries the sequence, the whorl ns, PARITY, network time and VALID of the snapshot; PARTIAL,
with CNT_SNAP_SKIP, if a unit was skipped. -/
def execSnapshot (p : Packet) (s : State) : Host.Outcome State Fault Refusal :=
  runPacket 0x0A03 p (fun _ s =>
    let s1 := s.snapshot
    let skip := (s1.reg .cntSnapSkip 0).toNat
    { status := if skip = 0 then .ok else .partial_
      params := emitBlock [ (.u 32, (s1.reg .cntSnapSeq 0).toNat), (.u 32, s1.whorlNs), (.flag, b2n s1.time.parity),
        (.wide 80, packNet s1.netNs), (.flag, b2n s1.netValid), (.u 32, skip) ]
      state := s1 }) s

/-! ### The array transfer (R481, R482) -/

/-- Transfer the array entries that `p` names into firmware's totals and clear their images. Totals saturate at 2^64 - 1. -/
def State.transfer (s : State) (p : Nat → Bool) : State :=
  let tot := (s.cnt.arrImg.filter fun e => p e.1).foldl
    (fun t e => Table.set (fun _ => 0) t e.1 (min (Table.get (fun _ => 0) t e.1 + e.2) (2 ^ 64 - 1))) s.cnt.totals
  { s with cnt := { s.cnt with
      totals := tot
      arrImg := s.cnt.arrImg.filter fun e => !p e.1
      totalsSeq := (s.reg .cntSnapSeq 0).toNat } }

/-- ARRAY_TRANSFER (R481): at offset 262,144 of an epoch, with the transfer enabled, the array images go into firmware's
totals. With the control complex down none starts, and XFER_LATE sets. -/
def execArrayTransfer (s : State) : Host.Outcome State Fault Refusal :=
  if s.epochOffset != 262144 || !s.flag F.cntCtl_XFER_EN 0 then .next s
  else if s.fwRunning then .next (s.transfer fun _ => true)
  else .next (s.raise F.cntStat_XFER_LATE 0)

/-- Whether an array entry belongs to a present port, quadrant or queue (R480, R484). -/
def State.entryPresent (s : State) (arr idx : Nat) : Bool :=
  match arr with
  | 0 => s.hasPort (idx / 128)
  | 1 => s.hasQuad (idx / 6 / 65536)
  | _ => s.hasPort (idx / 32)

/-- The record of an array entry: bits [62:0] of the total, and SAT in bit 63 (R484). -/
def State.cntRecord (s : State) (arr idx : Nat) : List Byte :=
  let k := arrBase arr + idx
  if s.entryPresent arr idx then
    leBytes 8 (Table.get (fun _ => 0) s.cnt.totals k % 2 ^ 63 + Table.get (fun _ => 0) s.cnt.sat k * 2 ^ 63)
  else leBytes 8 0

/-- CNT_READ (R484): ARRAY, first index, count, CLEAR and a DMA reference. -/
def execCntRead (p : Packet) (s : State) : Host.Outcome State Fault Refusal :=
  runPacket 0x0A04 p (fun a s =>
    let arr := a.n 0
    let first := a.n 1
    let n := a.n 2
    let idxs := (List.range n).map (first + ·)
    guarded s
      ([ (a.bad || decide (2 < arr) || decide (n < 1) || decide (65536 < n), .paramInvalid),
         (decide (arrSize arr < first + n), .indexRange),
         (idxs.all fun k => !s.entryPresent arr k, .resourceAbsent) ]
        ++ dmaChecks s p (a.n 4) true (8 * n))
      (let inRange := fun k => arrBase arr + first ≤ k && k < arrBase arr + first + n
       let s1 := s.transfer inRange
       dmaWrite s1 p (a.n 4) (idxs.flatMap (s1.cntRecord arr)) fun s2 =>
         let s3 := { s2 with cnt := { s2.cnt with sat := s2.cnt.sat.filter fun e => !inRange e.1 } }
         let s4 := if a.f 3 then { s3 with cnt := { s3.cnt with totals := s3.cnt.totals.filter fun e => !inRange e.1 } }
           else s3
         Res.ok s4 [(.u 32, s4.cnt.totalsSeq)])) s

end Sys2Proof.Machine
end

