-- ==== Sys2Proof/Machine/Mailbox.lean ====
section
/-!
DEFINITION. Mailboxes and doorbells (chapter 19): the slots and their ownership, sender incarnations, the consumption of a
command and the posting of a reply, and the doorbell bits.
-/
namespace Sys2Proof.Machine
open Sys2Proof

/-- Record a refused or out-of-sequence access of a channel (R515, R518). Kind 1 and 5 are violations, 2 to 4 sequence
errors. -/
def State.mbError (s : State) (kind chan sid : Nat) : State :=
  let s := s.setReg .mbErrInfo 0 (word (sid * 2 ^ 24 + chan % 16 * 2 ^ 16 + kind))
  if kind = 1 ∨ kind = 5 then (s.raise F.mbErr_VIOL 0).count .mbViolCnt 0 1 else s.raise F.mbErr_SEQ 0

/-- Whether a SID is the one bound to channel `n` (R514, R515). -/
def State.bound (s : State) (n sid : Nat) : Bool := s.flag F.mbBind_VALID n && s.fld F.mbBind_SID n == sid

/-- A waiting increment of a channel's incarnation applies; INC_PEND clears (R524). -/
def State.applyInc (s : State) (n : Nat) : State :=
  if s.flag F.mbInCtl_INC_PEND n then
    (s.setFld F.mbInCtl_INC_PEND n 0).setReg .mbInInc n (s.reg .mbInInc n + 1)
  else s

/-- A POST of inbound slot `n` by its bound sender: a waiting increment applies first, then the slot is POSTED (R517,
R524). -/
def State.postIn (s : State) (n sid : Nat) : State :=
  if s.flag F.mbInCtl_STATE n then s.mbError 2 n sid
  else
    let s := (s.applyInc n).setFld F.mbInCtl_STATE n 1
    { s with meet := { s.meet with posts := n :: s.meet.posts } }

/-- A NEW_INC of the bound sender requests an increment; requests that wait merge (R523, R524). A POST of the same slot is
posted under the new incarnation. -/
def State.newInc (s : State) (n : Nat) : State :=
  let s := s.setFld F.mbInCtl_INC_PEND n 1
  if s.meet.posts.contains n then s.applyInc n else s

/-- MB_IN_POST (R517): the sender writes MB_IN_CTL.POST of channel `n`. -/
def execMbInPost (who : Sender) (n : Nat) (s : State) : Host.Outcome State Fault Refusal :=
  if 16 ≤ n then .next s
  else match who with
    | .cc => .next s
    | who => .next (s.access who (Reg.mbInCtl.offset n) true fun s =>
        if s.bound n (s.sid who) then s.postIn n (s.sid who) else s.mbError 1 n (s.sid who))

/-- MB_NEW_INC (R523): the sender writes MB_IN_CTL.NEW_INC of channel `n`. -/
def execMbNewInc (who : Sender) (n : Nat) (s : State) : Host.Outcome State Fault Refusal :=
  if 16 ≤ n then .next s
  else match who with
    | .cc => .next s
    | who => .next (s.access who (Reg.mbInCtl.offset n) true fun s =>
        if s.bound n (s.sid who) then s.newInc n else s.mbError 1 n (s.sid who))

/-- INCARNATION_APPLY (R524): at an edge with the slot EMPTY, a waiting increment applies. -/
def execIncarnationApply (n : Nat) (s : State) : Host.Outcome State Fault Refusal :=
  if n < 16 && s.flag F.mbInCtl_INC_PEND n && !s.flag F.mbInCtl_STATE n then .next (s.applyInc n) else .next s

/-- The bytes of inbound slot `n`. -/
def State.inSlotBytes (s : State) (n : Nat) : List Byte :=
  (List.range 128).flatMap fun w => leBytes 4 (s.reg .mbInSlot (n * 128 + w)).toNat

/-- The opcode and packet that a slot's bytes spell (R488). LENGTH beyond the slot keeps its value in a parameter block that
is too long, so that the header check refuses it. -/
def parsePacket (n : Nat) (bs : List Byte) : Nat × Packet :=
  let len := leAt bs 8 2
  (leAt bs 2 2,
    { chan := n, version := leAt bs 0 2, flags := leAt bs 10 2, zero := leAt bs 12 4, tag := leAt bs 4 4
      params := if len ≤ 496 then slice bs 16 len else List.replicate 497 0 })

/-- A CONSUME of inbound slot `n` by the control complex: an EMPTY slot, or one posted in this slot, is a sequence error;
otherwise the slot becomes EMPTY, the incarnation in force is latched, IN_FREED sets, and a waiting increment applies
(R518, R519, R524). -/
def State.consumeIn (s : State) (n : Nat) : State :=
  let s := s.setReg .mbInCinc n (s.reg .mbInInc n)
  let s := s.setFld F.mbInCtl_STATE n 0
  (s.raiseBits .mbStat 0 (2 ^ n)).applyInc n

/-- MB_IN_CONSUME (R501, R524): firmware consumes the slot of channel `n`, checks the header (R500) and takes the command
into the journal, discards it with its status, or loses it (R503). `dma` and `dmaFault` are what the command's DMA reference
will meet outside the block. -/
def execMbInConsume (n : Nat) (dma : List Byte) (dmaFault : Bool) (s : State) : Host.Outcome State Fault Refusal :=
  if 16 ≤ n || !s.fwRunning || s.boot.switchAt.isSome then .next s
  else if s.meet.posts.contains n then .next (s.mbError 4 n 0xFF)
  else if !s.flag F.mbInCtl_STATE n then .next (s.mbError 3 n 0xFF)
  else
    let (op, p0) := parsePacket n (s.inSlotBytes n)
    let p := { p0 with dma := dma, dmaFault := dmaFault }
    let s := s.consumeIn n
    let inc := (s.reg .mbInCinc n).toNat
    .next (consume op p inc (lengthBad op p.params) (fun s => s.take_ op inc p) s)

/-- The bytes of a reply packet (R489). -/
def Reply.bytes (r : Reply) : List Byte :=
  leBytes 2 r.version ++ leBytes 2 r.opcode ++ leBytes 4 r.tag ++ leBytes 2 r.params.length ++ leBytes 2 1
    ++ leBytes 2 r.status ++ leBytes 2 r.inc ++ r.params

/-- Write a packet into outbound slot `n`; the words beyond it keep what they held (R517). -/
def State.writeOutSlot (s : State) (n : Nat) (bs : List Byte) : State :=
  (List.range (cdiv bs.length 4)).foldl
    (fun s w => s.setReg .mbOutSlot (n * 128 + w) (word (leAt bs (4 * w) 4))) s

/-- MB_OUT_POST (R517): firmware posts the oldest waiting reply of channel `n` once its outbound slot is EMPTY; OUT_POSTED
sets and the journal entry is removed (R505, R519). Nothing is posted to an unbound channel (R514). -/
def execMbOutPost (n : Nat) (s : State) : Host.Outcome State Fault Refusal :=
  if 16 ≤ n || !s.fwRunning || s.flag F.mbOutCtl_STATE n || !s.flag F.mbBind_VALID n then .next s
  else
    match s.pkts.replies.find? fun r => r.chan = n with
    | none => .next s
    | some r =>
      let s := ((s.writeOutSlot n r.bytes).setFld F.mbOutCtl_STATE n 1).raiseBits .mbStat 0 (2 ^ (16 + n))
      .next { s with
        pkts := { s.pkts with
          replies := s.pkts.replies.erase r
          journal := s.pkts.journal.filter fun j => !(j.chan = n && j.tag = r.tag && j.state == .done) }
        meet := { s.meet with posts := (16 + n) :: s.meet.posts } }

/-- A CONSUME of outbound slot `n` by its bound receiver (R515, R518). -/
def State.consumeOut (s : State) (n sid : Nat) : State :=
  if !s.bound n sid then s.mbError 1 n sid
  else if s.meet.posts.contains (16 + n) then s.mbError 4 n sid
  else if !s.flag F.mbOutCtl_STATE n then s.mbError 3 n sid
  else s.setFld F.mbOutCtl_STATE n 0

/-- MB_OUT_CONSUME (R522): the receiver writes MB_OUT_CTL.CONSUME of channel `n`. -/
def execMbOutConsume (who : Sender) (n : Nat) (s : State) : Host.Outcome State Fault Refusal :=
  if 16 ≤ n then .next s
  else match who with
    | .cc => .next s
    | who => .next (s.access who (Reg.mbOutCtl.offset n) true fun s => s.consumeOut n (s.sid who))

/-! ### Doorbells (R528, R529) -/

/-- The low or high half of a doorbell set. -/
def h2dReg (hi : Bool) : Reg := if hi then .mbH2dDbHi else .mbH2dDbLo
def d2hReg (hi : Bool) : Reg := if hi then .mbD2hDbHi else .mbD2hDbLo

/-- The bits of a doorbell word that a SID may act on: bits 0 to 15 of the low word are secure. -/
def dbRights (hi : Bool) (sid : Nat) : Nat := if hi || sidSecure sid then 0xFFFFFFFF else 0xFFFF0000

/-- A host write at the set alias of host-to-device doorbells: a SID bound to some channel sets the bits it has a right
to. -/
def State.h2dSet (s : State) (hi : Bool) (sid bits : Nat) : State :=
  if !(List.range 16).any (fun n => s.bound n sid) then s.mbError 5 0 sid
  else
    let s1 := s.raiseBits (h2dReg hi) 0 (bits &&& dbRights hi sid)
    if bits &&& dbRights hi sid = bits then s1 else s1.mbError 5 0 sid

/-- DOORBELL_H2D_SET (R528). -/
def execDoorbellH2dSet (who : Sender) (hi : Bool) (bits : Word) (s : State) : Host.Outcome State Fault Refusal :=
  match who with
  | .cc => .next s
  | who => .next (s.access who ((h2dReg hi).offset 0) true fun s => s.h2dSet hi (s.sid who) bits.toNat)

/-- DOORBELL_H2D_CLEAR (R528): the control complex clears bits at the clear alias; a set in the same slot stands. -/
def execDoorbellH2dClear (hi : Bool) (bits : Word) (s : State) : Host.Outcome State Fault Refusal :=
  .next (s.w1c (h2dReg hi) 0 bits.toNat)

/-- Set device-to-host doorbell `n`. -/
def State.d2hSet (s : State) (n : Nat) : State := s.raiseBits (d2hReg (decide (32 ≤ n))) 0 (2 ^ (n % 32))

/-- DOORBELL_D2H_SET (R528). -/
def execDoorbellD2hSet (n : Nat) (s : State) : Host.Outcome State Fault Refusal :=
  if 64 ≤ n then .next s else .next (s.d2hSet n)

/-- A W1C write of device-to-host doorbells by a SID: only a secure SID clears bits 0 to 15. -/
def State.d2hClear (s : State) (hi : Bool) (sid bits : Nat) : State :=
  let s1 := s.w1c (d2hReg hi) 0 (bits &&& dbRights hi sid)
  if bits &&& dbRights hi sid = bits then s1 else s1.mbError 5 0 sid

/-- DOORBELL_D2H_CLEAR (R528). -/
def execDoorbellD2hClear (who : Sender) (hi : Bool) (bits : Word) (s : State) : Host.Outcome State Fault Refusal :=
  .next (s.access who ((d2hReg hi).offset 0) true fun s => s.d2hClear hi (s.sid who) bits.toNat)

/-- The restart of firmware answers every journal entry in consumption order with ABORTED_BY_RESET: APPLIED is 0, 2 or 1 for
a CONSUMED, STARTED or DONE entry. An entry whose reply the outbound slot already holds is removed without a second answer
(R505). Consumed commands and held replies were lost with the working memory. -/
def State.answerJournal (s : State) : State :=
  let posted := fun j : JEntry =>
    s.flag F.mbOutCtl_STATE j.chan && (s.reg .mbOutSlot (j.chan * 128 + 1)).toNat == j.tag
  let live := s.pkts.journal.filter fun j => !posted j
  let answer := fun j : JEntry =>
    let applied := match j.state with
      | .consumed => 0
      | .started => 2
      | .done => 1
    ({ chan := j.chan, version := j.version, opcode := j.opcode, tag := j.tag, status := Status.abortedByReset.code
       inc := j.inc % 2 ^ 16, params := [byte applied, 0, 0, 0] } : Reply)
  { s with pkts := { s.pkts with
      journal := live.map fun j => { j with state := .done }
      taken := []
      replies := live.map answer } }

end Sys2Proof.Machine
end

