-- ==== Sys2Proof/Machine/PortMap.lean ====
section
/-!
DEFINITION. Ports: what the mode of a port fixes (R340), which numbers are unconfigured or hidden (R342), maximum frames and
rates (R22, R343, R368), and the states of R303.
-/
namespace Sys2Proof.Machine
open Sys2Proof

/-- Width in lanes, lane rate code (R369) and port rate in Gbit/s of the modes of R340; other values count as mode 0. -/
def modeRow : Nat → Nat × Nat × Nat
  | 0x01 => (1, 0, 50) | 0x02 => (2, 0, 100) | 0x03 => (4, 0, 200) | 0x04 => (8, 0, 400)
  | 0x05 => (1, 1, 100) | 0x06 => (2, 1, 200) | 0x07 => (4, 1, 400) | 0x08 => (8, 1, 800)
  | 0x09 => (1, 2, 200) | 0x0A => (2, 2, 400) | 0x0B => (4, 2, 800) | 0x0C => (8, 2, 1600)
  | 0x0D => (1, 3, 400) | 0x0E => (2, 3, 800) | 0x0F => (4, 3, 1600) | 0x10 => (8, 3, 3200)
  | _ => (0, 0, 0)

/-- The mode of a front port; undefined values are treated as 0 (R368). -/
def State.portMode (s : State) (p : Nat) : Nat :=
  let m := s.fld F.macPortCfg_MODE p
  if p < 512 && m ≤ 0x10 then m else 0

/-- Width of a front port in lanes; 0 while it is not configured. -/
def State.width (s : State) (p : Nat) : Nat := (modeRow (s.portMode p)).1

/-- Lane rate code of a front port. -/
def State.laneRate (s : State) (p : Nat) : Nat := (modeRow (s.portMode p)).2.1

/-- Line rate of a port in Gbit/s; internal ports have the maximum rates of R22 (R312). -/
def State.rateGbps (s : State) (p : Nat) : Nat :=
  match p with
  | 512 => 400 | 513 => 100 | 514 => 800 | 515 => 800
  | p => (modeRow (s.portMode p)).2.2

/-- Bytes of line in one slot of 640 ps, at least 1. -/
def State.bytesPerSlot (s : State) (p : Nat) : Nat := max 1 (s.rateGbps p * 2 / 25)

/-- The configured port whose span holds lane `l` (R341). -/
def State.ownerOfLane (s : State) (l : Nat) : Option Nat :=
  ((List.range 8).map fun k => l - k).find? fun p => p ≤ l && l < p + s.width p && decide (l < p + 8)

/-- A front number is configured while its mode is not 0 (R342). -/
def State.configured (s : State) (p : Nat) : Bool := s.portMode p != 0

/-- A front number is hidden while it lies inside the span of another configured port (R342). -/
def State.hidden (s : State) (p : Nat) : Bool :=
  decide (p < 512) && (match s.ownerOfLane p with
    | some o => o != p
    | none => false)

/-- A port's maximum frame: clamped to 1,518 to 10,240 (R368); 10,240 for the internal ports (R343). -/
def State.mfs (s : State) (p : Nat) : Nat :=
  if p < 512 then max 1518 (min 10240 (s.fld F.macPortCfg_MFS p)) else 10240

/-- The states of R303 as QM_PORT_STAT.STATE gives them. -/
def State.portState (s : State) (p : Nat) : Nat := if p < 512 then s.fld F.qmPortStat_STATE p else 0

/-- UP: configured and not held or down; internal ports are always UP (R303, R342). -/
def State.portUp (s : State) (p : Nat) : Bool :=
  decide (512 ≤ p) || (s.portState p == 0 && s.configured p && !s.hidden p)

/-- DOWN (R303, R342). -/
def State.portDown (s : State) (p : Nat) : Bool :=
  decide (p < 512) && (s.portState p == 2 || !s.configured p || s.hidden p)

/-- HELD (R303). -/
def State.portHeld (s : State) (p : Nat) : Bool := !s.portUp p && !s.portDown p

/-- The lossless class mask of a port in force: LL_MASK while LOSSLESS is set (R286). -/
def State.llMask (s : State) (p : Nat) : Nat :=
  if s.flag F.macMode_LOSSLESS p then s.fld F.fcCfg_LL_MASK p else 0

/-- A queue is lossless (R286): unicast, LOSSLESS on its port, and its class in the mask. -/
def State.lossless (s : State) (qu : Nat) : Bool :=
  decide (qu % 16 < 8) && (s.llMask (qu / 16)).testBit (qu % 8)

/-- The present front ports, as a mask of port bits. -/
def State.frontMask (s : State) : Nat := 2 ^ s.fuses.code.lanes - 1

/-- The bits of present ports in a port mask (R205). -/
def State.presentMask (s : State) (m : Nat) : Nat :=
  m &&& (s.frontMask + 15 * 2 ^ 512)

/-- The ports a mask names, in rising order. -/
def portsOf (m : Nat) : List Nat := onesOf 516 m

end Sys2Proof.Machine
end

