-- ==== Sys2Proof/Machine/AddressTable.lean ====
section
/-!
DEFINITION. The address table, learning, aging, notices and walks (chapter 5): the table of each quadrant, its engine, and
the commands on it.
-/
namespace Sys2Proof.Machine
open Sys2Proof

/-! ### Keys, buckets and entries (R119 to R121) -/

/-- The key of a FID and MAC (R120). -/
def addrKey (fid mac : Nat) : Nat := fid * 2 ^ 48 + mac

/-- The key of an entry. -/
def AddrEnt.key (e : AddrEnt) : Nat := addrKey e.fid e.mac

/-- The bucket of a way for a key (R120). -/
def State.bucket (s : State) (q w key : Nat) : Nat :=
  crc32c (s.reg .tbHashSeed (q * 4 + w)).toNat (leBytes 8 key) % 65536

/-- The first position of the candidate bucket of a way. -/
def State.bucketPos (s : State) (q w key : Nat) : Nat := w * 2 ^ 18 + s.bucket q w key * 4

/-- The sixteen candidate positions of a key, in rising order (R119). -/
def State.candidates (s : State) (q key : Nat) : List Nat :=
  (List.range 4).flatMap fun w => (List.range 4).map (s.bucketPos q w key + ·)

/-- The valid entry at a position. -/
def State.addrAt (s : State) (q pos : Nat) : Option AddrEnt := OTable.get? s.tab.addr (q * 2 ^ 20 + pos)

/-- Write an entry at a position. -/
def State.putAddr (s : State) (q pos : Nat) (e : AddrEnt) : State :=
  { s with tab := { s.tab with addr := Table.insert s.tab.addr (q * 2 ^ 20 + pos) e } }

/-- Invalidate a position. -/
def State.dropAddr (s : State) (q pos : Nat) : State :=
  { s with tab := { s.tab with addr := Table.erase s.tab.addr (q * 2 ^ 20 + pos) } }

/-- A lookup (R127): the position and entry whose key is equal. -/
def State.lookupAddr (s : State) (q key : Nat) : Option (Nat × AddrEnt) :=
  (s.candidates q key).findSome? fun pos =>
    match s.addrAt q pos with
    | some e => if e.key = key then some (pos, e) else none
    | none => none

/-- The valid entries of a quadrant with their positions, in position order. -/
def State.addrOf (s : State) (q : Nat) : List (Nat × AddrEnt) :=
  (s.tab.addr.filter fun e => q * 2 ^ 20 ≤ e.1 && decide (e.1 < (q + 1) * 2 ^ 20)).map fun e => (e.1 - q * 2 ^ 20, e.2)

/-- The dynamic entries of a quadrant that name a port (R133). -/
def State.portDyn (s : State) (q p : Nat) : Nat :=
  ((s.addrOf q).filter fun e => !e.2.static && !e.2.isSet && e.2.dest == p).length

/-- Set HIT of an entry. -/
def State.setHit (s : State) (q pos : Nat) : State :=
  { s with tab := { s.tab with addr := OTable.modify (fun e => { e with hit := true }) s.tab.addr (q * 2 ^ 20 + pos) } }

/-! ### Records and notices (R146 to R149, R659) -/

/-- The entry fields of a table record's bytes 12 to 14. -/
def entryBits : Option (Nat × AddrEnt) → Nat
  | none => 0
  | some (pos, e) => pos + b2n e.static * 2 ^ 20 + b2n e.isSet * 2 ^ 21 + b2n e.hit * 2 ^ 22 + b2n e.copyCpu * 2 ^ 23

/-- A 16-byte table record (R149). -/
def State.addrRecord (s : State) (kind q fid mac dest old : Nat) (ent : Option (Nat × AddrEnt)) : List Byte :=
  beBytes 6 mac ++ leBytes 2 (fid % 4096 + kind * 4096) ++ leBytes 2 dest ++ leBytes 2 old
    ++ leBytes 3 (entryBits ent) ++ [byte (q + s.epoch % 64 * 4)]

/-- The record of an entry as held (R659, KIND 0). -/
def State.entryRecord (s : State) (q pos : Nat) (e : AddrEnt) : List Byte :=
  s.addrRecord 0 q e.fid e.mac e.dest 0x3FF (some (pos, e))

/-- A LOST record: bytes 8 to 11 hold the number lost (R146). -/
def State.lostRecord (s : State) (q n : Nat) : List Byte :=
  leBytes 6 0 ++ leBytes 2 0x8000 ++ leBytes 4 n ++ leBytes 3 0 ++ [byte (q + s.epoch % 64 * 4)]

/-- The notice buffer of a quadrant. -/
def State.noticesOf (s : State) (q : Nat) : List (List Byte) := (OTable.get? s.tab.notices q).getD []

/-- Raise a notice; with 8,192 waiting it is lost (R147). -/
def State.notice (s : State) (q : Nat) (r : List Byte) : State :=
  let l := s.noticesOf q
  if l.length < 8192 then { s with tab := { s.tab with notices := Table.insert s.tab.notices q (l ++ [r]) } }
  else
    let s := (s.count .tbNoticeLostCnt q 1).raise F.tbStat_NOTICE_OVF q
    { s with tab := { s.tab with
        noticeLost := Table.set (fun _ => 0) s.tab.noticeLost q (Table.get (fun _ => 0) s.tab.noticeLost q + 1) } }

/-- An uncorrectable error invalidates an entry (R123): TB_ERR_IDX, ECC_UE, a DELETED notice; firmware restores a static
entry from its shadow. -/
def State.addrError (s : State) (q pos : Nat) : State :=
  let s := (s.setReg .tbErrIdx q (word (3 * 2 ^ 20 + pos))).raise F.tbStat_ECC_UE q
  match s.addrAt q pos with
  | none => s
  | some e =>
    let s := (s.dropAddr q pos).notice q (s.addrRecord 4 q e.fid e.mac e.dest 0x3FF (some (pos, e)))
    if e.static then
      { s with tab := { s.tab with lost := s.tab.lost ++ [{ table := 1, quad := q, index := pos, addr := some e }] } }
    else s

/-- A corrected error (R123). -/
def State.addrCorrected (s : State) (q pos : Nat) : State :=
  (s.setReg .tbErrIdx q (word (2 * 2 ^ 20 + pos))).raise F.tbStat_ECC_CE q

/-! ### Insertion and relocation (R139, R140) -/

/-- The first free entry of a bucket. -/
def State.freeIn (s : State) (q b : Nat) : Option Nat :=
  ((List.range 4).map (b + ·)).find? fun pos => (s.addrAt q pos).isNone

/-- The other three candidate buckets of the occupant of a position, in rising way order, each with that position. -/
def State.otherBuckets (s : State) (q pos : Nat) : List (Nat × Nat) :=
  match s.addrAt q pos with
  | none => []
  | some e => ((List.range 4).filter fun w => w != pos / 2 ^ 18).map fun w => (pos, s.bucketPos q w e.key)

/-- Move the occupant of a position to a free one, with HIT = 1 (R140). -/
def State.relocate (s : State) (q src dst : Nat) : State :=
  match s.addrAt q src with
  | none => s
  | some e => (s.putAddr q dst { e with hit := true }).dropAddr q src

/-- The level-1 sequence of R139: each occupant of the candidates with its other buckets. -/
def State.level1 (s : State) (q key : Nat) : List (Nat × Nat) := (s.candidates q key).flatMap (s.otherBuckets q)

/-- The level-2 sequence of R139: the level-1 occupant, the level-2 occupant and the bucket searched. -/
def State.level2 (s : State) (q key : Nat) : List (Nat × Nat × Nat) :=
  (s.level1 q key).flatMap fun o =>
    (List.range 4).flatMap fun k => (s.otherBuckets q (o.2 + k)).map fun o2 => (o.1, o2.1, o2.2)

/-- Insert a new entry whose key is absent (R139): a free candidate, one relocation, two, or failure. Answers the state and
the position written. -/
def State.insertAddr (s : State) (q : Nat) (e : AddrEnt) : Option (State × Nat) :=
  match (s.candidates q e.key).find? fun pos => (s.addrAt q pos).isNone with
  | some pos => some (s.putAddr q pos e, pos)
  | none =>
    match (s.level1 q e.key).findSome? fun o => (s.freeIn q o.2).map fun f => (o.1, f) with
    | some (p1, f) => some ((s.relocate q p1 f).putAddr q p1 e, p1)
    | none =>
      match (s.level2 q e.key).findSome? fun o => (s.freeIn q o.2.2).map fun f => (o.1, o.2.1, f) with
      | some (p1, p2, f) => some (((s.relocate q p2 f).relocate q p1 p2).putAddr q p1 e, p1)
      | none => none

/-! ### Learning (R131 to R135) -/

/-- Whether the port's limit refuses one more dynamic entry (R133). -/
def State.overLimit (s : State) (q p : Nat) : Bool :=
  let l := s.fld F.tbPortLearn_LIMIT (q * 516 + p)
  l != 0 && decide (l ≤ s.portDyn q p)

/-- Count a refusal by LIMIT, with one notice per port and epoch (R133). -/
def State.limitRefused (s : State) (r : LearnReq) : State :=
  let s := s.count .tbLimitCnt r.quad 1
  if s.tab.limitSeen.contains (r.quad, r.port) then s
  else
    let s := { s with tab := { s.tab with limitSeen := (r.quad, r.port) :: s.tab.limitSeen } }
    s.notice r.quad (s.addrRecord 6 r.quad r.fid r.mac r.port 0x3FF none)

/-- A learn request enters the queue of 4,096 (R132): a waiting request of its key takes its port and kind. -/
def State.learnRequest (s : State) (r : LearnReq) : State :=
  let same := fun (x : LearnReq) => x.quad == r.quad && x.fid == r.fid && x.mac == r.mac
  if s.tab.learnQ.any same then
    { s with tab := { s.tab with
        learnQ := s.tab.learnQ.map fun x => if same x then { x with port := r.port, kind := r.kind } else x } }
  else if (s.tab.learnQ.filter fun x => x.quad = r.quad).length < 4096 then
    { s with tab := { s.tab with learnQ := s.tab.learnQ ++ [r] } }
  else (s.count .tbLearnOvfCnt r.quad 1).raise F.tbStat_LEARN_OVF r.quad

/-- A REQUEST notice, once per key and epoch under a filter of 4,096 keys (R134). -/
def State.requestNotice (s : State) (q fid mac port : Nat) (hit : Option (Nat × AddrEnt)) : State :=
  if s.tab.reqSeen.contains (q, fid, mac) then s
  else if 4096 ≤ (s.tab.reqSeen.filter fun k => k.1 = q).length then s.count .tbNoticeLostCnt q 1
  else
    let s := { s with tab := { s.tab with reqSeen := (q, fid, mac) :: s.tab.reqSeen } }
    let old := match hit with
      | some (_, e) => e.dest
      | none => 0x3FF
    s.notice q (s.addrRecord 7 q fid mac port old hit)

/-- The learning decision of a frame from port `p` of quadrant `q` (R131): `learnOn` says that neither NO_LEARN nor the VLAN's
LEARN_EN stops it; `mode` is the port's MODE. -/
def State.learnDecision (s : State) (q p fid mac : Nat) (learnOn : Bool) (mode : Nat) : State :=
  if mac = 0 || (mac / 2 ^ 40).testBit 0 then s
  else
    let hit := s.lookupAddr q (addrKey fid mac)
    let mine := match hit with
      | some (_, e) => !e.isSet && e.dest == p
      | none => false
    let s := match hit with
      | some (pos, _) => if mine then s.setHit q pos else s
      | none => s
    if !learnOn || !s.flag F.tbCtl_LEARN_EN q || mode = 0 || mode = 3 || mine then s
    else
      match hit with
      | some (pos, e) =>
        if e.static then
          if e.isSet then s
          else (s.count .tbConflictCnt q 1).notice q (s.addrRecord 5 q fid mac e.dest p (some (pos, e)))
        else if mode = 2 then s.requestNotice q fid mac p hit
        else s.learnRequest { quad := q, fid := fid, mac := mac, port := p, kind := 2, entered := s.tick.slot }
      | none =>
        if mode = 2 then s.requestNotice q fid mac p none
        else s.learnRequest { quad := q, fid := fid, mac := mac, port := p, kind := 1, entered := s.tick.slot }

/-- The engine serves a learn request by the table as it stands (R132, R135). -/
def State.serveLearn (s : State) (r : LearnReq) : State :=
  let q := r.quad
  match s.lookupAddr q (addrKey r.fid r.mac) with
  | some (pos, e) =>
    if !e.isSet && e.dest == r.port then s.setHit q pos
    else if e.static then s
    else if s.overLimit q r.port then s.limitRefused r
    else
      let e' := { e with dest := r.port, hit := true }
      ((s.putAddr q pos e').count .tbMoveCnt q 1).notice q (s.addrRecord 2 q r.fid r.mac r.port e.dest (some (pos, e')))
  | none =>
    if s.overLimit q r.port then s.limitRefused r
    else
      let e : AddrEnt := { mac := r.mac, fid := r.fid, dest := r.port, hit := true }
      match s.insertAddr q e with
      | some (s', pos) => (s'.count .tbLearnCnt q 1).notice q (s'.addrRecord 1 q r.fid r.mac r.port 0x3FF (some (pos, e)))
      | none => (s.count .tbLearnFullCnt q 1).raise F.tbStat_INS_FAIL q

/-- LEARN_REQUEST_SERVE (R132, R137): the oldest request of the quadrant that entered in an earlier slot. -/
def execLearnRequestServe (q : Nat) (s : State) : Host.Outcome State Fault Refusal :=
  match s.tab.learnQ.find? fun r => r.quad = q && r.entered < s.tick.slot with
  | none => .next s
  | some r => .next ({ s with tab := { s.tab with learnQ := s.tab.learnQ.filter fun x => x != r } }.serveLearn r)

/-- TB_SCRUB_VISIT (R123): the scrub reads one bucket of a quadrant and finds `err` at entry `k` of it: 0 none, 1 a single-bit
error, 2 a double-bit error. -/
def execTbScrubVisit (q bucketIdx k err : Nat) (s : State) : Host.Outcome State Fault Refusal :=
  let pos := (bucketIdx * 4 + k % 4) % 2 ^ 20
  if !s.hasQuad q then .next s
  else match err with
    | 0 => .next s
    | 1 => .next (s.addrCorrected q pos)
    | _ => .next (s.addrError q pos)

/-! ### Aging (R142 to R145) -/

/-- The aging state of a quadrant. -/
def State.ageOf (s : State) (q : Nat) : AgeState := Table.get (fun _ => {}) s.tab.age q

/-- Put the aging state of a quadrant. -/
def State.setAge (s : State) (q : Nat) (a : AgeState) : State :=
  { s with tab := { s.tab with age := Table.set (fun _ => {}) s.tab.age q a } }

/-- AGING_SWEEP_START (R142, R143): at an epoch boundary whose number is a multiple of PERIOD (below 4 acts as 4) a sweep starts,
or waits behind the one running. -/
def execAgingSweepStart (q : Nat) (s : State) : Host.Outcome State Fault Refusal :=
  let period := max 4 (s.fld F.tbAgeCfg_PERIOD q)
  if !s.hasQuad q || !s.flag F.tbAgeCfg_AGE_EN q || s.epochOffset != 0 || s.epoch % period != 0 then .next s
  else if (s.ageOf q).active then .next ((s.setAge q { s.ageOf q with pending := true }).raise F.tbStat_AGE_LAG q)
  else .next (s.setAge q { active := true, step := 0, pending := false })

/-- A sweep's visit of one entry (R142). -/
def State.ageVisit (q : Nat) (s : State) (e : Nat × AddrEnt) : State :=
  if e.2.static then s
  else if e.2.hit then s.putAddr q e.1 { e.2 with hit := false }
  else ((s.dropAddr q e.1).count .tbAgedCnt q 1).notice q
    (s.addrRecord 3 q e.2.fid e.2.mac e.2.dest 0x3FF (some e))

/-- AGING_SWEEP_STEP (R142): from offset 65,536 on, a running sweep visits its quarter of the positions; a sweep that was due
behind it starts when it ends. -/
def execAgingSweepStep (q : Nat) (s : State) : Host.Outcome State Fault Refusal :=
  let a := s.ageOf q
  if !a.active || s.epochOffset < 65536 then .next s
  else
    let inStep := (s.addrOf q).filter fun e => a.step * 262144 ≤ e.1 && decide (e.1 < (a.step + 1) * 262144)
    let s := inStep.foldl (State.ageVisit q) s
    if a.step < 3 then .next (s.setAge q { a with step := a.step + 1 })
    else .next (s.setAge q { active := a.pending, step := 0, pending := false })

/-! ### Notices to firmware and the host ring (R147, R148) -/

/-- Firmware holds records for the ring, up to 65,536; beyond that it discards them (R148). -/
def State.holdNotice (s : State) (r : List Byte) : State :=
  let g := s.tab.ring
  if g.held.length < 65536 then { s with tab := { s.tab with ring := { g with held := g.held ++ [r] } } }
  else { s with tab := { s.tab with ring := { g with discarded := g.discarded + 1 } } }

/-- LEARN_NOTICE_FLUSH (R147): at offset 4,096 the quadrant's buffer goes to firmware, with a LOST record after an overflow.
While the control complex is down the buffer fills. -/
def execLearnNoticeFlush (q : Nat) (s : State) : Host.Outcome State Fault Refusal :=
  if s.epochOffset != 4096 || !s.fwRunning then .next s
  else
    let l := s.noticesOf q
    let lost := Table.get (fun _ => 0) s.tab.noticeLost q
    let l := if lost = 0 then l else l ++ [s.lostRecord q lost]
    let s := { s with tab := { s.tab with
        notices := Table.erase s.tab.notices q, noticeLost := Table.erase s.tab.noticeLost q } }
    .next (l.foldl State.holdNotice s)

/-- NOTICE_RING_DELIVERY (R148): firmware writes the records that the ring has room for, by the host's consumer index, then
the producer index, then raises the doorbell bit. -/
def execNoticeRingDelivery (cons : Nat) (s : State) : Host.Outcome State Fault Refusal :=
  let g := s.tab.ring
  if !g.enabled || !s.fwRunning then .next s
  else
    let room := g.size - (g.prod + 2 ^ 32 - cons) % 2 ^ 32
    let lost := if g.discarded = 0 then [] else [s.lostRecord 0 g.discarded]
    let all := g.held ++ lost
    let batch := all.take room
    if batch = [] then .next s
    else
      let put := fun (s : State) (e : List Byte × Nat) =>
        s.emit (.hostWrite (g.addr + 64 + 16 * ((g.prod + e.2) % g.size)) e.1)
      let s := batch.zipIdx.foldl put s
      let prod := (g.prod + batch.length) % 2 ^ 32
      let s := s.emit (.hostWrite g.addr (leBytes 4 prod))
      let ring := { g with
        prod := prod, held := g.held.drop room
        discarded := if batch.length = all.length then 0 else g.discarded }
      .next ({ s with tab := { s.tab with ring := ring } }.d2hSet g.bell)

/-! ### Commands on the table (R154 to R160) -/

/-- The block of a command with a quadrant mask, and its further results at the next multiple of 8 (R509). -/
def blockReply (s : State) (mask : Nat) (st : Nat → Status) (rest : List (Ty × Nat)) : List Byte :=
  let b := emitFrom (statusBlock s mask st) 0
  if rest = [] then b ++ [0, 0] else slice b 0 16 ++ emitBlock rest

/-- Whether no named quadrant is present. -/
def State.noQuad (s : State) (mask : Nat) : Bool := (s.quadsOf mask).isEmpty

/-- FDB_INSERT in one quadrant (R154 step 5). -/
def State.fdbInsert (s : State) (q : Nat) (e : AddrEnt) (replace : Bool) : State × Status :=
  match s.lookupAddr q e.key with
  | some (pos, _) => if replace then (s.putAddr q pos e, .ok) else (s, .entryExists)
  | none =>
    match s.insertAddr q e with
    | some (s', _) => (s', .ok)
    | none => (s, .tableFull)

/-- Act in each quadrant of a list, keeping the status of each. -/
def eachQuad (f : State → Nat → State × Status) : List Nat → State → State × List (Nat × Status)
  | [], s => (s, [])
  | q :: t, s =>
    let r := f s q
    let rest := eachQuad f t r.1
    (rest.1, (q, r.2) :: rest.2)

/-- The status a quadrant reported; OK where it was not asked. -/
def statusIn (l : List (Nat × Status)) (q : Nat) : Status :=
  match l.find? fun e => e.1 = q with
  | some e => e.2
  | none => .ok

/-- A command that acts in each present quadrant of a mask and answers with a status block (R509). -/
def quadCommand (s : State) (mask : Nat) (f : State → Nat → State × Status) : Res :=
  let r := eachQuad f (s.quadsOf mask) s
  { status := overall s mask (statusIn r.2), params := blockReply s mask (statusIn r.2) [], state := r.1 }

/-- FDB_INSERT (R154): QMASK, FID, MAC, STATIC, IS_SET, DEST, COPY_CPU, REPLACE. -/
def execFdbInsert (p : Packet) (s : State) : Host.Outcome State Fault Refusal :=
  runPacket 0x0300 p (fun a s =>
    let mac := a.n 2
    let static := a.f 3
    let isSet := a.f 4
    let dest := a.n 5
    guarded s
      [ (s.noQuad (a.n 0), .resourceAbsent),
        (a.bad || mac == 0 || (!static && ((mac / 2 ^ 40).testBit 0 || isSet)) || (!isSet && decide (515 < dest)), .paramInvalid),
        (!isSet && !s.hasPort dest, .resourceAbsent), (isSet && decide (16383 < dest), .indexRange) ]
      (quadCommand s (a.n 0) fun s q =>
        s.fdbInsert q { mac := mac, fid := a.n 1, dest := dest, static := static, hit := true, isSet := isSet
                        copyCpu := a.f 6 } (a.f 7))) s

/-- Whether an entry is of a TYPE (R155): 0 any, 1 dynamic, 2 static. -/
def AddrEnt.ofType (e : AddrEnt) (t : Nat) : Bool := t = 0 || (t == 1 && !e.static) || (t == 2 && e.static)

/-- FDB_DELETE (R155): QMASK, FID, MAC, TYPE. -/
def execFdbDelete (p : Packet) (s : State) : Host.Outcome State Fault Refusal :=
  runPacket 0x0301 p (fun a s =>
    guarded s [(a.bad || a.n 3 == 3, .paramInvalid), (s.noQuad (a.n 0), .resourceAbsent)]
      (quadCommand s (a.n 0) fun s q =>
        match s.lookupAddr q (addrKey (a.n 1) (a.n 2)) with
        | some (pos, e) => if e.ofType (a.n 3) then (s.dropAddr q pos, .ok) else (s, .notFound)
        | none => (s, .notFound))) s

/-- FDB_SEARCH (R155): QMASK, FID, MAC; a table record of KIND 0 for each quadrant. -/
def execFdbSearch (p : Packet) (s : State) : Host.Outcome State Fault Refusal :=
  runPacket 0x0302 p (fun a s =>
    let find := fun q => s.lookupAddr q (addrKey (a.n 1) (a.n 2))
    let st := fun q => if (find q).isSome then Status.ok else .notFound
    let rec_ := fun q =>
      match if (s.quadsOf (a.n 0)).contains q then find q else none with
      | some (pos, e) => s.entryRecord q pos e
      | none => List.replicate 16 0
    guarded s [(a.bad, .paramInvalid), (s.noQuad (a.n 0), .resourceAbsent)]
      { status := overall s (a.n 0) st
        params := slice (emitFrom (statusBlock s (a.n 0) st) 0) 0 16 ++ (List.range 4).flatMap rec_, state := s }) s

/-- The entries that match FDB_NEXT's filter and follow its cursor, in rising key order (R150, R156). -/
def State.walk (s : State) (a : Args) : List (Nat × AddrEnt) :=
  let q := a.n 0
  let ok := fun (e : Nat × AddrEnt) =>
    (a.f 1 || addrKey (a.n 2) (a.n 3) < e.2.key) && (!a.f 4 || (!e.2.isSet && e.2.dest == a.n 5))
      && (!a.f 6 || e.2.fid == a.n 7) && e.2.ofType (a.n 8)
  sortBy (fun e => e.2.key) ((s.addrOf q).filter ok)

/-- FDB_NEXT (R156): quadrant, START, the cursor's FID and MAC, PORT_EN with PORT, FID_EN with FID, TYPE, MAX, and a DMA reference when
MAX exceeds 28: checks, then one scan pass in its turn (R157). -/
def execFdbNext (p : Packet) (s : State) : Host.Outcome State Fault Refusal :=
  runPacket 0x0303 p (fun a s =>
    let max_ := a.n 9
    guarded s
      ([ (!s.hasQuad (a.n 0), .resourceAbsent),
         (a.bad || decide (max_ < 1) || decide (4096 < max_) || a.n 8 == 3, .paramInvalid) ]
        ++ (if 28 < max_ then dmaChecks s p (a.n 10) true (16 * max_) else [])
        ++ [ (a.f 4 && !s.hasPort (a.n 5), .resourceAbsent) ])
      (let r := Res.job s 0x0303 p 1
       { r with state := { r.state with tab := { r.state.tab with
           scans := r.state.tab.scans ++ [{ quad := a.n 0, chan := p.chan, tag := p.tag }] } } })) s

/-- FDB_FLUSH_PORT (R157): QMASK, PORT or ALL_PORTS, FID_EN with FID, TYPE; one scan pass in each present quadrant. -/
def execFdbFlushPort (p : Packet) (s : State) : Host.Outcome State Fault Refusal :=
  runPacket 0x0304 p (fun a s =>
    let qs := s.quadsOf (a.n 0)
    guarded s
      [ (a.bad || a.n 5 == 3, .paramInvalid),
        (qs.isEmpty || (!a.f 2 && !s.hasPort (a.n 1)), .resourceAbsent) ]
      (let r := Res.job s 0x0304 p qs.length
       { r with state := { r.state with tab := { r.state.tab with
           scans := r.state.tab.scans ++ qs.map fun q => { quad := q, chan := p.chan, tag := p.tag } } } })) s

/-- Delete the entries of a quadrant that satisfy `ok`. -/
def State.flushAddr (s : State) (q : Nat) (ok : AddrEnt → Bool) : State :=
  ((s.addrOf q).filter fun e => ok e.2).foldl (fun s e => s.dropAddr q e.1) s

/-- A pass of FDB_FLUSH_PORT in a quadrant (R150, R152). -/
def State.flushPass (s : State) (q : Nat) (sc : Scan) (a : Args) : State :=
  let ok := fun (e : AddrEnt) =>
    (a.f 2 || (!e.isSet && e.dest == a.n 1)) && (!a.f 3 || e.fid == a.n 4) && e.ofType (a.n 5)
  let n := ((s.addrOf q).filter fun e => ok e.2).length
  let s1 := s.flushAddr q ok
  s1.stepJob sc.chan sc.tag (fun j => { j with left := j.left - 1, number := j.number.set q n }) fun j s =>
    (.ok, blockReply s (a.n 0) (fun _ => .ok) (j.number.map fun n => (.u 32, n)))

/-- A pass of FDB_NEXT (R150, R156): the MAX smallest matching keys, inline or in the buffer; COUNT and END. -/
def State.nextPass (s : State) (q : Nat) (sc : Scan) (j : Job) (a : Args) : State :=
  let l := s.walk a
  let found := l.take (a.n 9)
  let bytes := found.flatMap fun e => s.entryRecord q e.1 e.2
  let head := [(Ty.u 16, found.length), (Ty.flag, b2n (decide (l.length ≤ a.n 9)))]
  if 28 < a.n 9 then
    let r := dmaWrite s j.pkt (a.n 10) bytes fun s => Res.ok s head
    r.state.stepJob sc.chan sc.tag (fun j => { j with left := 0 }) fun _ _ => (r.status, r.params)
  else s.stepJob sc.chan sc.tag (fun j => { j with left := 0 }) fun _ _ => (.ok, emitBlock head ++ bytes)

/-- SCAN_PASS (R150, R157): the oldest FDB_NEXT or FDB_FLUSH_PORT that waits in a quadrant gets its pass. -/
def execScanPass (q : Nat) (s : State) : Host.Outcome State Fault Refusal :=
  match s.tab.scans.find? fun x => x.quad = q with
  | none => .next s
  | some sc =>
    let s := { s with tab := { s.tab with scans := s.tab.scans.filter fun x => x != sc } }
    match s.job? sc.chan sc.tag with
    | none => .next s
    | some j =>
      if j.op = 0x0303 then
        .next (s.nextPass q sc j (readParams 0x0303 j.pkt.params))
      else .next (s.flushPass q sc (readParams 0x0304 j.pkt.params))

/-- The present quadrants. -/
def State.quads (s : State) : List Nat := List.range s.fuses.code.quads

/-- Change the state for each present quadrant. -/
def State.forQuads (s : State) (f : State → Nat → State) : State := s.quads.foldl f s

/-- FDB_AGE_SET (R158): AGE_EN, PERIOD, DA_REFRESH, in every present quadrant. -/
def execFdbAgeSet (p : Packet) (s : State) : Host.Outcome State Fault Refusal :=
  runPacket 0x0305 p (fun a s =>
    guarded s [(a.bad || (a.f 0 && (decide (a.n 1 < 4) || decide (1048575 < a.n 1))), .paramInvalid)]
      (Res.ok (s.forQuads fun s q =>
        s.setReg .tbAgeCfg q (word (a.n 0 * 2 ^ 31 + a.n 2 * 2 ^ 30 + a.n 1 % 2 ^ 20))) [])) s

/-- FDB_LEARN_SET (R158): port, MODE, LIMIT, in every present quadrant. -/
def execFdbLearnSet (p : Packet) (s : State) : Host.Outcome State Fault Refusal :=
  runPacket 0x0306 p (fun a s =>
    guarded s
      [ (!s.hasPort (a.n 0), .resourceAbsent), (s.hidden (a.n 0), .lanesInUse),
        (a.bad || a.n 1 == 3 || decide (1048576 < a.n 2), .paramInvalid) ]
      (Res.ok (s.forQuads fun s q => s.setReg .tbPortLearn (q * 516 + a.n 0) (word (a.n 2 * 2 ^ 11 + a.n 1))) [])) s

/-- FDB_NOTIFY_SET (R159): ENABLE, the ring's address, its records, its doorbell bit. Replacing an enabled ring resets both
indices; the records held go to the new ring. -/
def execFdbNotifySet (p : Packet) (s : State) : Host.Outcome State Fault Refusal :=
  runPacket 0x0307 p (fun a s =>
    let n := a.n 2
    guarded s
      [ (a.f 0 && !s.dmaAdmits (a.n 1) (64 + 16 * n) true (decide (p.chan < 4)), .dmaWindow),
        (a.bad || (a.f 0 && (decide (n < 1024) || decide (1048576 < n) || popCount 32 n != 1 || a.n 1 % 4096 != 0)),
          .paramInvalid) ]
      (Res.ok { s with tab := { s.tab with ring := { s.tab.ring with
          enabled := a.f 0, addr := a.n 1, size := n, bell := a.n 3, prod := 0 } } } [])) s

/-- The VLAN entry of a VID. -/
def State.vlanAt (s : State) (q vid : Nat) : VlanEnt := Table.get (fun _ => {}) s.tab.vlan (q * 4096 + vid)

/-- Write the VLAN entry of a VID. -/
def State.setVlan (s : State) (q vid : Nat) (v : VlanEnt) : State :=
  { s with tab := { s.tab with vlan := Table.set (fun _ => {}) s.tab.vlan (q * 4096 + vid) v } }

/-- The default flood set (R126). -/
def floodSet : Nat := 16383

/-- VLAN_SET (R160): VID and the fields of R124, in every present quadrant. -/
def execVlanSet (p : Packet) (s : State) : Host.Outcome State Fault Refusal :=
  runPacket 0x0308 p (fun a s =>
    let vid := a.n 0
    guarded s
      [ (a.bad || vid == 0 || vid == 4095, .paramInvalid), (decide (16383 < a.n 4) || decide (16383 < a.n 5), .indexRange) ]
      (let v : VlanEnt := { valid := a.f 1, fid := a.n 2, learn := a.f 3, floodUc := a.n 4, floodMc := a.n 5
                            member := s.presentMask (a.n 6) }
       Res.ok (s.forQuads fun s q => s.setVlan q vid v) [])) s

/-- VLAN_GET (R160): the entry as held in quadrant 0, and the default flood set. -/
def execVlanGet (p : Packet) (s : State) : Host.Outcome State Fault Refusal :=
  runPacket 0x0309 p (fun a s =>
    let v := s.vlanAt 0 (a.n 0)
    guarded s [(a.bad || a.n 0 == 0 || a.n 0 == 4095, .paramInvalid)]
      (Res.ok s [ (.flag, b2n v.valid), (.u 12, v.fid), (.flag, b2n v.learn), (.u 16, v.floodUc), (.u 16, v.floodMc),
        (.wide 516, v.member), (.u 16, floodSet) ])) s

end Sys2Proof.Machine
end

