-- ==== Sys2Proof/Machine/Parser.lean ====
section
/-!
DEFINITION. The parser (R89 to R92, R440, R658): what it reads from a frame's parse window, and the classification key it
builds (R96).
-/
namespace Sys2Proof.Machine
open Sys2Proof

/-- What the parser extracts from a frame (R89). `l3` is 0, 4 or 6; `l3off` and `l4off` are byte offsets; `stackEnd` is where the
header stack ends (R658). -/
structure Parsed where
  dmac : Nat := 0
  smac : Nat := 0
  tags : Nat := 0
  vid : Nat := 0
  pcp : Nat := 0
  dei : Bool := false
  etype : Nat := 0
  l3 : Nat := 0
  l3off : Nat := 0
  sip : Nat := 0
  dip : Nat := 0
  proto : Nat := 0
  dscp : Nat := 0
  ecn : Nat := 0
  pktLen : Nat := 0
  ttl : Nat := 0
  fragFirst : Bool := false
  fragLater : Bool := false
  l4valid : Bool := false
  l4 : Nat := 0
  l4off : Nat := 0
  sport : Nat := 0
  dport : Nat := 0
  tcpFlags : Nat := 0
  ptp : Bool := false
  ptpOff : Nat := 0
  ptpType : Nat := 0
  ptpDom : Nat := 0
  noCf : Bool := false
  err : Bool := false
  trunc : Bool := false
  stackEnd : Nat := 0
  hdrLen : Nat := 0
  hdrLenV : Bool := false
  deriving DecidableEq, Repr

/-- The parse window in bytes. -/
def parseWindow : Nat := 256

/-- Whether a header of `n` bytes at `off` can be read in a frame whose last byte before the FCS is at `e` - 1: the frame may
end inside it (R90), or it may reach past the window (R91). -/
inductive HeaderFit where
  | fits | frameEnds | pastWindow
  deriving DecidableEq, Repr

def headerFit (e off n : Nat) : HeaderFit :=
  if e < off + n then .frameEnds else if parseWindow < off + n then .pastWindow else .fits

/-- The parse with a parse error: Ethernet and VLAN fields stay, everything from the IP header on reads as zero (R90). -/
def Parsed.fail (p : Parsed) : Parsed :=
  { dmac := p.dmac, smac := p.smac, tags := p.tags, vid := p.vid, pcp := p.pcp, dei := p.dei, etype := p.etype, err := true
    stackEnd := p.stackEnd }

/-- Continue with `k` when a header fits; otherwise end parsing (R90, R91). -/
def Parsed.header (p : Parsed) (e off n : Nat) (k : Parsed → Parsed) : Parsed :=
  match headerFit e off n with
  | .frameEnds => p.fail
  | .pastWindow => { p with trunc := true, stackEnd := off + n }
  | .fits => k { p with stackEnd := off + n }

/-- The precision-time message at `off` (R89, R440): its fields are taken where they lie within the frame and the window. -/
def Parsed.precision (p : Parsed) (bs : List Byte) (e off : Nat) : Parsed :=
  if e < off + 1 || parseWindow < off + 1 then p
  else
    let dom := if e < off + 5 || parseWindow < off + 5 then 0 else beAt bs (off + 4) 1
    let typ := beAt bs off 1 % 16
    let cf := decide (off + 16 ≤ e) && decide (off + 16 ≤ parseWindow)
    { p with ptp := true, ptpOff := off, ptpType := typ, ptpDom := dom, noCf := decide (typ < 4) && !cf }

/-- The transport header (R89). Non-first fragments carry no L4 fields. -/
def Parsed.transport (p : Parsed) (bs : List Byte) (e off : Nat) : Parsed :=
  if p.fragLater then p
  else if p.proto = 17 then
    p.header e off 8 fun p =>
      let p := { p with l4valid := true, l4 := 17, l4off := off, sport := beAt bs off 2, dport := beAt bs (off + 2) 2 }
      if p.dport = 319 || p.dport = 320 then p.precision bs e (off + 8) else p
  else if p.proto = 6 then
    p.header e off 20 fun p =>
      { p with l4valid := true, l4 := 6, l4off := off, sport := beAt bs off 2, dport := beAt bs (off + 2) 2
               tcpFlags := beAt bs (off + 13) 1 }
  else if (p.l3 = 4 && p.proto = 1) || (p.l3 = 6 && p.proto = 58) then
    p.header e off 4 fun p => { p with l4valid := true, l4 := p.proto, l4off := off, sport := beAt bs off 2 }
  else p

/-- IPv4 (R89, R90). -/
def Parsed.ip4 (p : Parsed) (bs : List Byte) (e off : Nat) : Parsed :=
  let vi := beAt bs off 1
  let ihl := vi % 16
  let tot := beAt bs (off + 2) 2
  if e < off + 1 || vi / 16 != 4 || ihl < 5 then p.fail
  else
    p.header e off (4 * ihl) fun p =>
      if tot < 4 * ihl then p.fail
      else
        let frag := beAt bs (off + 6) 2
        let p := { p with
          l3 := 4, l3off := off, dscp := beAt bs (off + 1) 1 / 4, ecn := beAt bs (off + 1) 1 % 4, pktLen := tot
          ttl := beAt bs (off + 8) 1, proto := beAt bs (off + 9) 1, sip := beAt bs (off + 12) 4, dip := beAt bs (off + 16) 4
          fragLater := decide (frag % 8192 ≠ 0), fragFirst := decide (frag % 8192 = 0) && frag.testBit 13
          hdrLen := off + tot + 4, hdrLenV := decide (off + tot + 4 ≤ 16383) }
        p.transport bs e (off + 4 * ihl)

/-- Whether a next header is an extension header the parser reads (R89). -/
def isExt (nh : Nat) : Bool := nh = 0 || nh = 43 || nh = 60 || nh = 44

/-- Up to `n` IPv6 extension headers, then the transport header; a further one ends parsing (R89). -/
def Parsed.ext (bs : List Byte) (e : Nat) : Nat → Nat → Nat → Parsed → Parsed
  | 0, nh, off, p => let p := { p with proto := nh }; if isExt nh then p else p.transport bs e off
  | n + 1, nh, off, p =>
    if !isExt nh then { p with proto := nh }.transport bs e off
    else
      let len := if nh = 44 then 8 else 8 * (beAt bs (off + 1) 1 + 1)
      let known := nh == 44 || (decide (off + 2 ≤ e) && decide (off + 2 ≤ parseWindow))
      { p with proto := nh }.header e off (if known then len else 8) fun p =>
        let p := if nh = 44 then
            let f := beAt bs (off + 2) 2
            { p with fragLater := decide (f / 8 ≠ 0), fragFirst := decide (f / 8 = 0) && f.testBit 0 }
          else p
        Parsed.ext bs e n (beAt bs off 1) (off + len) p

/-- IPv6 (R89, R90). -/
def Parsed.ip6 (p : Parsed) (bs : List Byte) (e off : Nat) : Parsed :=
  if e < off + 1 || beAt bs off 1 / 16 != 6 then p.fail
  else
    p.header e off 40 fun p =>
      let tc := beAt bs off 2 / 16 % 256
      let plen := beAt bs (off + 4) 2
      Parsed.ext bs e 2 (beAt bs (off + 6) 1) (off + 40)
        { p with l3 := 6, l3off := off, dscp := tc / 4, ecn := tc % 4, pktLen := 40 + plen, ttl := beAt bs (off + 7) 1
                 sip := beAt bs (off + 8) 16, dip := beAt bs (off + 24) 16
                 hdrLen := off + 40 + plen + 4, hdrLenV := decide (off + 40 + plen + 4 ≤ 16383) }

/-- The layer-3 part, by EtherType. -/
def Parsed.layer3 (p : Parsed) (bs : List Byte) (e off : Nat) : Parsed :=
  if p.etype = 0x0800 then p.ip4 bs e off
  else if p.etype = 0x86DD then p.ip6 bs e off
  else if p.etype = 0x88F7 then p.precision bs e off
  else p

/-- Parse a frame of `len` bytes, FCS included; `outer` and `inner` are the TPIDs of PRS_TPID (R89, R116). A frame whose fixed
header does not lie before its FCS has a parse error. -/
def parseFrame (outer inner len : Nat) (bs : List Byte) : Parsed :=
  let e := len - 4
  let p : Parsed := { dmac := beAt bs 0 6, smac := beAt bs 6 6, etype := beAt bs 12 2 }
  p.header e 0 14 fun p =>
    if p.etype = outer || p.etype = inner then
      p.header e 14 4 fun p =>
        let tci := beAt bs 14 2
        let p := { p with tags := 1, vid := tci % 4096, pcp := tci / 8192, dei := tci.testBit 12, etype := beAt bs 16 2 }
        if p.etype = inner then
          p.header e 18 4 fun p =>
            let p := { p with tags := 2, etype := beAt bs 20 2 }
            if p.etype = inner || p.etype = outer then p else p.layer3 bs e 22
        else p.layer3 bs e 18
    else p.layer3 bs e 14

/-- Layer-2 header bytes (R92). -/
def Parsed.l2len (p : Parsed) : Nat := 14 + 4 * p.tags

/-- An event message that can be corrected (R89, R440). -/
def Parsed.ptpEv (p : Parsed) : Bool := p.ptp && decide (p.ptpType < 4) && !p.noCf

/-- FLAGS of the classification key (R96). -/
def Parsed.flags (p : Parsed) (rtr : Bool) : Nat :=
  b2n (decide (1 ≤ p.tags)) + 2 * b2n (decide (2 ≤ p.tags)) + 4 * b2n p.fragFirst + 8 * b2n p.fragLater + 16 * b2n p.ptpEv
    + 32 * b2n p.trunc + 64 * b2n rtr + 128 * b2n p.l4valid

/-- The key type (R96). -/
def Parsed.keyType (p : Parsed) (keyL2 : Bool) : Nat :=
  if keyL2 || p.err then 0 else if p.l3 = 4 then 1 else if p.l3 = 6 then 2 else 0

/-- The key of a frame (R96): `vid` and `pcp` as R98 finds them. -/
def Parsed.key (p : Parsed) (kt profile flags vrf vid pcp : Nat) : Nat :=
  let head := kt + profile * 2 ^ 4 + flags * 2 ^ 12
  match kt with
  | 0 => head + vid * 2 ^ 20 + pcp * 2 ^ 32 + b2n p.dei * 2 ^ 35 + p.etype * 2 ^ 36 + p.dmac * 2 ^ 52 + p.smac * 2 ^ 100
  | 1 => head + vrf * 2 ^ 20 + p.sip * 2 ^ 32 + p.dip * 2 ^ 64 + p.proto * 2 ^ 96 + p.dscp * 2 ^ 104 + p.ecn * 2 ^ 110
      + p.sport * 2 ^ 112 + p.dport * 2 ^ 128 + p.tcpFlags * 2 ^ 144
  | _ => head + vrf * 2 ^ 20 + p.sip * 2 ^ 32 + p.dip * 2 ^ 160 + p.proto * 2 ^ 288 + p.dscp * 2 ^ 296 + p.ecn * 2 ^ 302
      + p.dport * 2 ^ 304

/-- The ones-complement sum of 16-bit words. -/
def onesSum : List Byte → Nat
  | a :: b :: t => let n := a.toNat * 256 + b.toNat + onesSum t; n % 65536 + n / 65536
  | [a] => a.toNat * 256
  | [] => 0

/-- Whether an IPv4 header's checksum is good. -/
def Parsed.ip4Good (p : Parsed) (bs : List Byte) : Bool :=
  onesSum (slice bs p.l3off (4 * (beAt bs p.l3off 1 % 16))) == 0xFFFF

/-- The incremental checksum update of RFC 1624 for one changed word. -/
def rfc1624 (sum old new : Nat) : Nat :=
  let n := (65535 - sum) + (65535 - old) + new
  let n := n % 65536 + n / 65536
  let n := n % 65536 + n / 65536
  65535 - n

/-- The FCS of a frame's bytes, as its four bytes (R356). -/
def fcsBytes (body : List Byte) : List Byte := leBytes 4 (crc32 body)

/-- A stomped FCS: the inverse (R214). -/
def stompBytes (body : List Byte) : List Byte := leBytes 4 (crc32 body ^^^ 0xFFFFFFFF)

end Sys2Proof.Machine
end

