-- ==== Sys2Proof/Machine/PrefixTable.lean ====
section
/-!
DEFINITION. Router interfaces, the prefix memory, next hops and equal-cost groups (chapter 6): the tables of each quadrant,
the prefix engine, memory errors, and the commands on them.
-/
namespace Sys2Proof.Machine
open Sys2Proof

/-! ### Banks (R166 to R170) -/

/-- VBITS of a family; values above 8 are treated as 8 (R193). -/
def State.pfxV (s : State) (q : Nat) (v6 : Bool) : Nat :=
  min 8 (s.fld (if v6 then F.fwdPfxSel_V6_VBITS else F.fwdPfxSel_V4_VBITS) q)

/-- OFF of a family. -/
def State.pfxOff (s : State) (q : Nat) (v6 : Bool) : Nat :=
  s.fld (if v6 then F.fwdPfxSel_V6_OFF else F.fwdPfxSel_V4_OFF) q

/-- The selector of R169: VRF bits, then the address bits after the OFF leading ones. -/
def State.pfxSel (s : State) (q : Nat) (v6 : Bool) (vrf addr : Nat) : Nat :=
  let v := s.pfxV q v6
  let a := 8 - v
  let w := if v6 then 64 else 32
  let top := if v6 then addr / 2 ^ 64 else addr
  (vrf % 2 ^ v) * 2 ^ a + (top >>> (w - s.pfxOff q v6 - a)) % 2 ^ a

/-- The banks that a prefix of length `len` is written into, in rising order (R170). -/
def State.pfxBanks (s : State) (q : Nat) (v6 : Bool) (vrf addr len : Nat) : List Nat :=
  let a := 8 - s.pfxV q v6
  let k := min a (s.pfxOff q v6 + a - len)
  let base := s.pfxSel q v6 vrf addr / 2 ^ k * 2 ^ k
  (List.range (2 ^ k)).map (base + ·)

/-- The family of an entry. -/
def PfxEnt.v6 (e : PfxEnt) : Bool := e.half != 0

/-- Address bits of an entry's family. -/
def PfxEnt.width (e : PfxEnt) : Nat := if e.v6 then 128 else 32

/-- Whether two entries are the same prefix. -/
def PfxEnt.same (e f : PfxEnt) : Bool := e.half == f.half && e.vrf == f.vrf && e.addr == f.addr && e.len == f.len

/-- Whether an address of a VRF and family matches a prefix (R166); an entry whose result word is bad is invalid to the data
plane until firmware rewrites it (R178). -/
def PfxEnt.matches (e : PfxEnt) (v6 : Bool) (vrf dip : Nat) : Bool :=
  e.valid && !e.bad && e.v6 == v6 && e.vrf == vrf && e.addr >>> (e.width - e.len) == dip >>> (e.width - e.len)

/-- A bank of a quadrant. -/
def State.bank (s : State) (q b : Nat) : PfxBank := Table.get (fun _ => {}) s.tab.banks (q * 256 + b)

/-- Write a bank. -/
def State.setBank (s : State) (q b : Nat) (x : PfxBank) : State :=
  { s with tab := { s.tab with banks := Table.set (fun _ => {}) s.tab.banks (q * 256 + b) x } }

/-- The free entries of a bank (R177). -/
def PfxBank.free (b : PfxBank) : Nat := 1024 - 2 * b.pairs.length - b.singles.length

/-- The entries of a bank with their indices, lowest first. -/
def PfxBank.all (b : PfxBank) : List (Nat × PfxEnt) :=
  (b.pairs.zipIdx.map fun e => (2 * e.2, e.1)) ++ (b.singles.zipIdx.map fun e => (1024 - b.singles.length + e.2, e.1))

/-- A search of a bank: the matching entry of lowest index (R166). -/
def PfxBank.search (b : PfxBank) (v6 : Bool) (vrf dip : Nat) : Option (Nat × PfxEnt) :=
  b.all.find? fun e => e.2.matches v6 vrf dip

/-- A search of the prefix memory (R169, R171): bank, index and entry. -/
def State.pfxSearch (s : State) (q : Nat) (v6 : Bool) (vrf dip : Nat) : Option (Nat × Nat × PfxEnt) :=
  let b := s.pfxSel q v6 vrf dip
  ((s.bank q b).search v6 vrf dip).map fun e => (b, e.1, e.2)

/-! ### The prefix engine (R173 to R176) -/

/-- The region of a length, of a zone in falling order of length. -/
def regionOf (l : List PfxEnt) (len : Nat) : List PfxEnt := l.filter fun e => e.len = len

/-- Move the last entry of each region to its front, for lengths above `len`, longest first: what the moves of an insertion
below them leave (R173). -/
def shiftUp (l : List PfxEnt) (len hi : Nat) : List PfxEnt :=
  (List.range (hi - len)).flatMap fun k =>
    let r := regionOf l (hi - k)
    match r.getLast? with
    | some e => e :: r.dropLast
    | none => []

/-- Move the first entry of each region to its end, for lengths from `hi` down to `lo`. -/
def shiftDown (l : List PfxEnt) (lo hi : Nat) : List PfxEnt :=
  (List.range (hi + 1 - lo)).flatMap fun k =>
    let r := regionOf l (hi - k)
    match r with
    | e :: t => t ++ [e]
    | [] => []

/-- The part of a zone in regions of `len` and shorter. -/
def notLonger (l : List PfxEnt) (len : Nat) : List PfxEnt := l.filter fun e => e.len ≤ len

/-- The part of a zone in regions of `len` and longer. -/
def notShorter (l : List PfxEnt) (len : Nat) : List PfxEnt := l.filter fun e => len ≤ e.len

/-- Replace the entry equal to `e` by `d`. -/
def replaceEnt (l : List PfxEnt) (e d : PfxEnt) : List PfxEnt := l.map fun x => if x.same e then d else x

/-- Insert an entry into a bank (R173). -/
def PfxBank.insert (b : PfxBank) (e : PfxEnt) : PfxBank :=
  if e.half = 2 then
    { b with pairs := notShorter b.pairs e.len ++ [e] ++ shiftDown b.pairs 65 (e.len - 1) }
  else { b with singles := shiftUp b.singles e.len 64 ++ [e] ++ notLonger b.singles e.len }

/-- Delete an entry of a bank and close the hole toward the free pool (R175). -/
def PfxBank.delete (b : PfxBank) (e : PfxEnt) : PfxBank :=
  if e.half = 2 then
    let own := regionOf b.pairs e.len
    let own' := match own.getLast? with
      | some d => if d.same e then own.dropLast else replaceEnt own.dropLast e d
      | none => []
    { b with pairs := notShorter b.pairs (e.len + 1) ++ own' ++ shiftUp (notLonger b.pairs (e.len - 1)) 64 (e.len - 1) }
  else
    let own := regionOf b.singles e.len
    let own' := match own with
      | d :: t => if d.same e then t else replaceEnt t e d
      | [] => []
    { b with singles := shiftDown b.singles (e.len + 1) 64 ++ own' ++ b.singles.filter fun x => x.len < e.len }

/-- Rewrite the result word of an entry (R175), restoring it. -/
def PfxBank.rewrite (b : PfxBank) (e : PfxEnt) : PfxBank :=
  { pairs := replaceEnt b.pairs e e, singles := replaceEnt b.singles e e }

/-- The effect of an engine operation on its bank: 0 insertion, 1 deletion, 2 a new result word. -/
def PfxOp.apply (o : PfxOp) (b : PfxBank) : PfxBank :=
  match o.kind with
  | 0 => b.insert o.ent
  | 1 => b.delete o.ent
  | _ => b.rewrite o.ent

/-- Firmware's record of a bank (R177): the bank with every waiting operation done. -/
def State.bankRecord (s : State) (q b : Nat) : PfxBank :=
  (s.tab.pfxOps.filter fun o => o.quad = q && o.bank = b).foldl (fun x o => o.apply x) (s.bank q b)

/-- The recorded entry of a prefix in a bank. -/
def PfxBank.find (b : PfxBank) (e : PfxEnt) : Option PfxEnt := (b.pairs ++ b.singles).find? fun x => x.same e

/-- Queue bank operations of a command. -/
def State.queueOps (s : State) (ops : List PfxOp) : State := { s with tab := { s.tab with pfxOps := s.tab.pfxOps ++ ops } }

/-- The engine of a quadrant does its next operation, when `want` holds of its kind; a command's answer follows its last
operation. -/
def State.pfxStep (s : State) (q : Nat) (want : Nat → Bool) : State :=
  match s.tab.pfxOps.find? fun o => o.quad = q with
  | none => s
  | some o =>
    if !want o.kind then s
    else
      let s := s.setBank q o.bank (o.apply (s.bank q o.bank))
      let s := { s with tab := { s.tab with pfxOps := s.tab.pfxOps.erase o } }
      s.stepJob o.chan o.tag (fun j => { j with left := j.left - 1 }) fun j s =>
        let st := fun q => statusOfCode (j.status.getD q 0)
        let mask := (parseFrom j.pkt.params [.u 4] 0).n 0
        (overall s mask st, blockReply s mask st [])

/-- PREFIX_BANK_INSERT (R173, R176): the quadrant's prefix engine inserts an entry into one bank, or rewrites its result word. -/
def execPrefixBankInsert (q : Nat) (s : State) : Host.Outcome State Fault Refusal := .next (s.pfxStep q (· != 1))

/-- PREFIX_BANK_DELETE (R175): the quadrant's prefix engine deletes an entry from one bank. -/
def execPrefixBankDelete (q : Nat) (s : State) : Host.Outcome State Fault Refusal := .next (s.pfxStep q (· == 1))

/-! ### Next hops, groups and interfaces (R162, R180, R181) -/

/-- Whether a memory error holds an entry from the data plane (R178). -/
def State.isLost (s : State) (table q idx : Nat) : Bool :=
  s.tab.lost.any fun e => e.table = table && e.quad = q && e.index = idx

/-- A rewrite ends the loss of an entry. -/
def State.found (s : State) (table q idx : Nat) : State :=
  { s with tab := { s.tab with lost := s.tab.lost.filter fun e => !(e.table = table && e.quad = q && e.index = idx) } }

/-- A next hop. -/
def State.nhAt (s : State) (q i : Nat) : NextHop := Table.get (fun _ => {}) s.tab.nh (q * 65536 + i)

/-- Write a next hop. -/
def State.setNh (s : State) (q i : Nat) (h : NextHop) : State :=
  { s with tab := { s.tab with nh := Table.set (fun _ => {}) s.tab.nh (q * 65536 + i) h } }.found 3 q i

/-- A group. -/
def State.groupAt (s : State) (q g : Nat) : EcmpGroup := Table.get (fun _ => {}) s.tab.groups (q * 4096 + g)

/-- A member. -/
def State.memberAt (s : State) (q k : Nat) : Nat := Table.get (fun _ => 0) s.tab.members (q * 65536 + k)

/-- Write a member. -/
def State.setMember (s : State) (q k v : Nat) : State :=
  { s with tab := { s.tab with members := Table.set (fun _ => 0) s.tab.members (q * 65536 + k) v } }.found 5 q k

/-- A router interface; entry 0 never exists (R162). -/
def State.rifAt (s : State) (q i : Nat) : Rif := if i = 0 then {} else Table.get (fun _ => {}) s.tab.rif (q * 4096 + i)

/-- Write a router interface. -/
def State.setRif (s : State) (q i : Nat) (r : Rif) : State :=
  { s with tab := { s.tab with rif := Table.set (fun _ => {}) s.tab.rif (q * 4096 + i) r } }.found 6 q i

/-- The interface bound to a port, or to a VID (R163). -/
def State.portRif (s : State) (q p : Nat) : Nat := Table.get (fun _ => 0) s.tab.portRif (q * 516 + p)
def State.vidRif (s : State) (q v : Nat) : Nat := Table.get (fun _ => 0) s.tab.vidRif (q * 4096 + v)

/-- Bind a port, or a VID. -/
def State.bindPort (s : State) (q p i : Nat) : State :=
  { s with tab := { s.tab with portRif := Table.set (fun _ => 0) s.tab.portRif (q * 516 + p) i } }
def State.bindVid (s : State) (q v i : Nat) : State :=
  { s with tab := { s.tab with vidRif := Table.set (fun _ => 0) s.tab.vidRif (q * 4096 + v) i } }

/-- The lowest base of a free range of the member table (R183). -/
def State.freeRange (s : State) (q size : Nat) : Option Nat :=
  let rs := s.tab.ranges.filter fun r => r.quad = q && r.size != 0
  let clear := fun b => decide (b + size ≤ 65536) && rs.all fun r => decide (b + size ≤ r.base) || decide (r.base + r.size ≤ b)
  (sortBy id (0 :: rs.map fun r => r.base + r.size)).find? clear

/-- Replace a group whole (R183): members into a free range, then BASE and SIZE, the old range waiting to be freed. -/
def State.ecmpSet (s : State) (q g : Nat) (ms : List Nat) : State × Status :=
  match s.freeRange q ms.length with
  | none => (s, .tableFull)
  | some b =>
    let old := s.groupAt q g
    let s1 := ms.zipIdx.foldl (fun s e => s.setMember q (b + e.2) e.1) s
    let retire := fun (r : MemberRange) =>
      if r.quad = q && r.base = old.base && r.size = old.size && r.until_ = none then
        { r with until_ := some s1.tick.slot } else r
    let s2 := { s1 with tab := { s1.tab with
      groups := Table.set (fun _ => {}) s1.tab.groups (q * 4096 + g) { base := b, size := ms.length }
      ranges := (if old.size = 0 then s1.tab.ranges else s1.tab.ranges.map retire)
        ++ (if ms = [] then [] else [({ quad := q, base := b, size := ms.length } : MemberRange)]) } }
    (s2.found 4 q g, .ok)

/-- ECMP_RANGE_FREE (R183): an old range is freed at the first epoch boundary at least 128 slots after the write that replaced
it. -/
def execEcmpRangeFree (q : Nat) (s : State) : Host.Outcome State Fault Refusal :=
  let due := fun (r : MemberRange) =>
    match r.until_ with
    | some t => r.quad == q && decide (cdiv (t + 128) Config.epochSlots * Config.epochSlots ≤ s.tick.slot)
    | none => false
  .next { s with tab := { s.tab with ranges := s.tab.ranges.filter fun r => !due r } }

/-! ### Memory errors (R178) -/

/-- Log an error of a layer-3 table: TABLE, KIND and INDEX. -/
def State.fwdErr (s : State) (q table kind idx : Nat) (f : Fld) : State :=
  (s.setReg .fwdErrIdx q (word (table * 2 ^ 28 + kind * 2 ^ 24 + idx))).raise f q

/-- The prefix entry at a hardware index of a bank; a pair holds two. -/
def PfxBank.at? (b : PfxBank) (i : Nat) : Option (Nat × PfxEnt) :=
  b.all.find? fun e => e.1 = i || (e.2.half == 2 && e.1 + 1 == i)

/-- An error in a prefix entry: KIND 1 parity invalidates it, 2 is corrected, 3 leaves its result word bad (R178). -/
def State.pfxError (s : State) (q b i kind : Nat) : State :=
  let idx := b * 1024 + i
  match kind with
  | 1 =>
    let s := s.fwdErr q 0 1 idx F.fwdStat_KEY_PERR
    match (s.bank q b).at? i with
    | some (_, e) => s.setBank q b ((s.bank q b).rewrite { e with valid := false })
    | none => s
  | 2 => s.fwdErr q 0 2 idx F.fwdStat_RES_CE
  | _ =>
    let s := s.fwdErr q 0 3 idx F.fwdStat_RES_UE
    match (s.bank q b).at? i with
    | some (_, e) => s.setBank q b ((s.bank q b).rewrite { e with bad := true })
    | none => s

/-- An error in a next hop, group, member or interface (table 3 to 6 of the lost entries; TABLE 1 to 4 of FWD_ERR_IDX): kind
2 corrected, 3 uncorrectable (R178). -/
def State.l3Error (s : State) (q table idx kind : Nat) : State :=
  if kind = 2 then s.fwdErr q (table - 2) 2 idx F.fwdStat_TBL_CE
  else
    let s := s.fwdErr q (table - 2) 3 idx F.fwdStat_TBL_UE
    if s.isLost table q idx then s
    else { s with tab := { s.tab with lost := s.tab.lost ++ [{ table := table, quad := q, index := idx }] } }

/-- FWD_SCRUB_VISIT (R178): the scrub of a quadrant reads entry `idx` of a table (0 prefix, 1 next hop, 2 group, 3 member, 4
interface) and finds `kind`: 0 nothing, 1 a key parity error, 2 a single-bit error, 3 a double-bit error. -/
def execFwdScrubVisit (q table idx kind : Nat) (s : State) : Host.Outcome State Fault Refusal :=
  if !s.hasQuad q || !s.flag F.fwdPfxCtl_SCRUB_EN q || kind = 0 || 4 < table then .next s
  else if table = 0 then .next (s.pfxError q (idx / 1024 % 256) (idx % 1024) kind)
  else .next (s.l3Error q (table + 2) (idx % 65536) kind)

/-- SHADOW_RESTORE (R100, R123, R178): firmware rewrites an invalidated entry from its shadow: table 0 classification, 1
address, 2 prefix (bank and index), 3 next hop, 4 group, 5 member, 6 interface. -/
def execShadowRestore (table q idx : Nat) (s : State) : Host.Outcome State Fault Refusal :=
  if !s.fwRunning then .next s
  else if table = 2 then
    match (s.bank q (idx / 1024 % 256)).at? (idx % 1024) with
    | some (_, e) => .next (s.setBank q (idx / 1024 % 256)
        ((s.bank q (idx / 1024 % 256)).rewrite { e with valid := true, bad := false }))
    | none => .next s
  else
    match s.tab.lost.find? fun e => e.table = table && e.quad = q && e.index = idx with
    | none => .next s
    | some l =>
      let s := s.found table q idx
      match table, l.addr with
      | 1, some e => .next (if (s.lookupAddr q e.key).isSome then s
          else match s.insertAddr q e with
            | some (s', _) => s'
            | none => s)
      | 0, _ =>
        let fix := fun (c : ClsEnt) => { c with valid := true }
        let put : State → Nat → State := fun s i => { s with tab := { s.tab with
          cls := Table.set (fun _ => {}) s.tab.cls (q * 32768 + i) (fix (Table.get (fun _ => {}) s.tab.cls (q * 32768 + i))) } }
        let c := Table.get (fun _ => {}) s.tab.cls (q * 32768 + idx)
        .next (if c.pair then put (put s (idx / 2 * 2)) (idx / 2 * 2 + 1) else put s idx)
      | _, _ => .next s

/-! ### Prefix commands (R186 to R188, R192) -/

/-- The entry that FAMILY, VRF, address and length name. -/
def mkPfx (v6 : Bool) (vrf addr len : Nat) (group : Bool) (idx : Nat) : PfxEnt :=
  { half := if !v6 then 0 else if len ≤ 64 then 1 else 2, vrf := vrf, addr := addr, len := len, group := group, idx := idx }

/-- The checks on a prefix key: family, length, and address bits below the length. -/
def pfxBad (fam addr len : Nat) : Bool :=
  let w := if fam = 0 then 32 else 128
  decide (1 < fam) || decide (w < len) || addr % 2 ^ (w - len) != 0

/-- Entries a prefix takes in a bank. -/
def PfxEnt.room (e : PfxEnt) : Nat := if e.half = 2 then 2 else 1

/-- PFX_INSERT (R186): QMASK, FAMILY, VRF, address, length, KIND, INDEX, REPLACE. -/
def execPfxInsert (p : Packet) (s : State) : Host.Outcome State Fault Refusal :=
  runPacket 0x0400 p (fun a s =>
    let mask := a.n 0
    let v6 := a.n 1 != 0
    let e := mkPfx v6 (a.n 2) (a.n 3) (a.n 4) (a.f 5) (a.n 6)
    let banks := fun q => s.pfxBanks q v6 (a.n 2) (a.n 3) (a.n 4)
    let present := fun q => (banks q).any fun b => ((s.bankRecord q b).find e).isSome
    let st := fun q =>
      if present q then (if a.f 7 then Status.ok else .entryExists)
      else if (banks q).all fun b => e.room ≤ (s.bankRecord q b).free then .ok else .tableFull
    let qs := (s.quadsOf mask).filter fun q => st q = .ok
    let ops := qs.flatMap fun q =>
      (banks q).map fun b =>
        ({ quad := q, bank := b, kind := if present q then 2 else 0, ent := e, chan := p.chan, tag := p.tag } : PfxOp)
    guarded s
      [ (s.noQuad mask, .resourceAbsent), (a.bad || pfxBad (a.n 1) (a.n 3) (a.n 4), .paramInvalid),
        (decide ((if a.f 5 then 4096 else 65536) ≤ a.n 6), .indexRange) ]
      (if ops.isEmpty then
        { status := overall s mask st, params := blockReply s mask st [], state := s }
       else
        let r := Res.job s 0x0400 p ops.length ((List.range 4).map fun q => (st q).code)
        { r with state := r.state.queueOps ops })) s

/-- PFX_DELETE (R187): QMASK, FAMILY, VRF, address, length. -/
def execPfxDelete (p : Packet) (s : State) : Host.Outcome State Fault Refusal :=
  runPacket 0x0401 p (fun a s =>
    let mask := a.n 0
    let e := mkPfx (a.n 1 != 0) (a.n 2) (a.n 3) (a.n 4) false 0
    let banks := fun q => (s.pfxBanks q (a.n 1 != 0) (a.n 2) (a.n 3) (a.n 4)).filter fun b =>
      ((s.bankRecord q b).find e).isSome
    let st := fun q => if (banks q).isEmpty then Status.notFound else .ok
    let ops := (s.quadsOf mask).flatMap fun q =>
      (banks q).map fun b => ({ quad := q, bank := b, kind := 1, ent := e, chan := p.chan, tag := p.tag } : PfxOp)
    guarded s [(a.bad || pfxBad (a.n 1) (a.n 3) (a.n 4), .paramInvalid), (s.noQuad mask, .resourceAbsent)]
      (if ops.isEmpty then
        { status := overall s mask st, params := blockReply s mask st [], state := s }
       else
        let r := Res.job s 0x0401 p ops.length ((List.range 4).map fun q => (st q).code)
        { r with state := r.state.queueOps ops })) s

/-- PFX_SEARCH (R187): the result word and the number of copies of a prefix in each quadrant. -/
def execPfxSearch (p : Packet) (s : State) : Host.Outcome State Fault Refusal :=
  runPacket 0x0402 p (fun a s =>
    let mask := a.n 0
    let e := mkPfx (a.n 1 != 0) (a.n 2) (a.n 3) (a.n 4) false 0
    let found := fun q => (s.pfxBanks q (a.n 1 != 0) (a.n 2) (a.n 3) (a.n 4)).filterMap fun b => (s.bankRecord q b).find e
    let st := fun q => if (found q).isEmpty then Status.notFound else .ok
    let one := fun q =>
      let l := if (s.quadsOf mask).contains q then found q else []
      match l with
      | [] => [(Ty.u 32, 0), (Ty.u 32, 0)]
      | x :: _ => [(Ty.u 32, b2n x.group * 2 ^ 16 + x.idx), (Ty.u 32, l.length)]
    guarded s [(a.bad || pfxBad (a.n 1) (a.n 3) (a.n 4), .paramInvalid), (s.noQuad mask, .resourceAbsent)]
      { status := overall s mask st, params := blockReply s mask st ((List.range 4).flatMap one), state := s }) s

/-- PFX_LOOKUP (R187): one quadrant, FAMILY, VRF, a full address: what a data-plane search would find now. -/
def execPfxLookup (p : Packet) (s : State) : Host.Outcome State Fault Refusal :=
  runPacket 0x0403 p (fun a s =>
    let v6 := a.n 1 != 0
    guarded s [(a.bad || decide (1 < a.n 1), .paramInvalid), (!s.hasQuad (a.n 0), .resourceAbsent)]
      (match s.pfxSearch (a.n 0) v6 (a.n 2) (a.n 3) with
       | some (b, i, e) => Res.ok s [ (.flag, 1), (.u 8, b), (.u 10, i), (if v6 then .ip6 else .ip4, e.addr), (.u 8, e.len),
           (.u 32, b2n e.group * 2 ^ 16 + e.idx) ]
       | none => Res.ok s [(.flag, 0), (.u 8, 0), (.u 10, 0), (if v6 then .ip6 else .ip4, 0), (.u 8, 0), (.u 32, 0)])) s

/-- The order of walks (R188): FAMILY, VRF, address, length, as one number. -/
def PfxEnt.order (e : PfxEnt) : Nat := ((b2n e.v6 * 4096 + e.vrf) * 2 ^ 128 + e.addr) * 256 + e.len

/-- The prefixes of a quadrant in firmware's record, each once, in rising order (R188). -/
def State.prefixes (s : State) (q : Nat) : List PfxEnt :=
  let all := (List.range 256).flatMap fun b => let x := s.bankRecord q b; x.pairs ++ x.singles
  let once := all.foldl (fun (l : List PfxEnt) e => if l.any (·.same e) then l else l ++ [e]) []
  sortBy PfxEnt.order once

/-- A 32-byte record of a prefix: FAMILY, VRF, address, length, KIND, INDEX (R188, R491). -/
def PfxEnt.record (e : PfxEnt) : List Byte :=
  slice (emitFrom [(.u 8, b2n e.v6), (.u 12, e.vrf), (.ip6, if e.v6 then e.addr else e.addr * 2 ^ 96), (.u 8, e.len),
    (.flag, b2n e.group), (.u 16, e.idx)] 0) 0 32

/-- The records of 32 bytes that fit a reply beside COUNT and END. -/
def inlinePfx : Nat := 15

/-- PFX_NEXT (R188): quadrant, START, cursor FAMILY, VRF, address, length, a VRF filter, MAX; a DMA reference when MAX exceeds
28. -/
def execPfxNext (p : Packet) (s : State) : Host.Outcome State Fault Refusal :=
  runPacket 0x0404 p
    (fun a s =>
      let max_ := a.n 8
      let cur := (mkPfx (a.n 2 != 0) (a.n 3) (a.n 4) (a.n 5) false 0).order
      let l := (s.prefixes (a.n 0)).filter fun e => (a.f 1 || cur < e.order) && (!a.f 6 || e.vrf == a.n 7)
      let n := if 28 < max_ then max_ else min max_ inlinePfx
      let got := l.take n
      let head := [(Ty.u 16, got.length), (Ty.flag, b2n (decide (l.length ≤ n)))]
      let bytes := got.flatMap PfxEnt.record
      guarded s
        ([ (!s.hasQuad (a.n 0), .resourceAbsent),
           (a.bad || decide (max_ < 1) || decide (4096 < max_) || decide (1 < a.n 2), .paramInvalid) ]
          ++ (if 28 < max_ then dmaChecks s p (a.n 9) true (32 * max_) else []))
        (if 28 < max_ then dmaWrite s p (a.n 9) bytes fun s => Res.ok s head
         else { status := .ok, params := slice (emitFrom head 0) 0 8 ++ bytes, state := s })) s

/-- Key, mask and result of a hardware prefix entry (R166, R167): TYPE, VRF and address words. -/
def pfxWords (e : PfxEnt) (lower : Bool) : Nat × Nat :=
  let top := fun (v : Nat) (w keep : Nat) => if keep < w then v / 2 ^ (w - keep) * 2 ^ (w - keep) else v
  let ones := fun (w keep : Nat) => (2 ^ min w keep - 1) * 2 ^ (w - min w keep)
  match e.half with
  | 0 => (e.vrf * 2 ^ 66 + e.addr * 2 ^ 32, (2 ^ 14 - 1) * 2 ^ 66 + ones 32 e.len * 2 ^ 32)
  | 1 => (2 ^ 78 + e.vrf * 2 ^ 66 + top (e.addr / 2 ^ 64) 64 e.len, (2 ^ 14 - 1) * 2 ^ 66 + ones 64 e.len)
  | _ =>
    if lower then (3 * 2 ^ 78 + e.vrf * 2 ^ 66 + e.addr % 2 ^ 64, (2 ^ 14 - 1) * 2 ^ 66 + ones 64 (e.len - 64))
    else (2 * 2 ^ 78 + e.vrf * 2 ^ 66 + e.addr / 2 ^ 64, (2 ^ 14 - 1) * 2 ^ 66 + (2 ^ 64 - 1))

/-- PFX_READ (R188): quadrant, bank, index: the hardware entry as it stands: VALID, key, mask, result word. -/
def execPfxRead (p : Packet) (s : State) : Host.Outcome State Fault Refusal :=
  runPacket 0x0405 p (fun a s =>
    guarded s [(!s.hasQuad (a.n 0), .resourceAbsent), (a.bad, .paramInvalid)]
      (match (s.bank (a.n 0) (a.n 1)).at? (a.n 2) with
       | some (i, e) =>
         let w := pfxWords e (decide (i < a.n 2))
         Res.ok s [(.flag, b2n e.valid), (.wide 80, w.1), (.wide 80, w.2), (.u 17, b2n e.group * 2 ^ 16 + e.idx)]
       | none => Res.ok s [(.flag, 0), (.wide 80, 0), (.wide 80, 0), (.u 17, 0)])) s

/-- Valid prefix entries of a quadrant, each copy and each pair half counting 1 (R193). -/
def State.pfxOcc (s : State) (q : Nat) : Nat :=
  (s.tab.banks.filter fun e => e.1 / 256 = q).foldl
    (fun n e => n + (e.2.pairs.filter (·.valid)).length * 2 + (e.2.singles.filter (·.valid)).length) 0

/-- Whether a quadrant holds any prefix, valid or waiting for restoration or in the engine's queue. -/
def State.pfxHolds (s : State) (q : Nat) : Bool :=
  (s.tab.banks.any fun e => e.1 / 256 = q) || s.tab.pfxOps.any fun o => o.quad = q

/-- PFX_SEL_SET (R192): VBITS and OFF of IPv4, then of IPv6, in every present quadrant. With VBITS 8 no address bit is selected, and an
OFF of 32 or 64 stands as 0 in its field. -/
def execPfxSelSet (p : Packet) (s : State) : Host.Outcome State Fault Refusal :=
  runPacket 0x0406 p (fun a s =>
    guarded s
      [ (a.bad || decide (8 < a.n 0) || decide (8 < a.n 2) || decide (32 < a.n 1 + (8 - a.n 0))
          || decide (64 < a.n 3 + (8 - a.n 2)), .paramInvalid),
        (s.quads.any s.pfxHolds, .pfxNotEmpty) ]
      (Res.ok (s.forQuads fun s q =>
        s.setReg .fwdPfxSel q (word (a.n 3 % 64 * 2 ^ 24 + a.n 2 * 2 ^ 16 + a.n 1 % 32 * 2 ^ 8 + a.n 0))) [])) s

/-! ### Next-hop, group and interface commands (R189 to R191) -/

/-- NH_SET (R189): QMASK, INDEX, KIND, PORT, RIF, DMAC. -/
def execNhSet (p : Packet) (s : State) : Host.Outcome State Fault Refusal :=
  runPacket 0x0407 p (fun a s =>
    let h : NextHop := { kind := a.n 2, port := a.n 3, rif := a.n 4, dmac := a.n 5 }
    guarded s
      [ (decide (65536 ≤ a.n 1), .indexRange),
        (a.bad || (a.n 2 == 1 && (decide (515 < a.n 3) || a.n 4 == 0)), .paramInvalid),
        (s.noQuad (a.n 0) || (a.n 2 == 1 && !s.hasPort (a.n 3)), .resourceAbsent) ]
      (quadCommand s (a.n 0) fun s q => (s.setNh q (a.n 1) h, .ok))) s

/-- NH_GET (R189): one quadrant's entry. -/
def execNhGet (p : Packet) (s : State) : Host.Outcome State Fault Refusal :=
  runPacket 0x0408 p (fun a s =>
    let h := s.nhAt (a.n 0) (a.n 1)
    guarded s [(a.bad, .paramInvalid), (!s.hasQuad (a.n 0), .resourceAbsent), (decide (65536 ≤ a.n 1), .indexRange)]
      (Res.ok s [(.u 2, h.kind), (.u 10, h.port), (.u 12, h.rif), (.mac, h.dmac)])) s

/-- The next-hop indices of ECMP_SET: inline up to 60, otherwise read from the buffer (R190). -/
def ecmpMembers (a : Args) (p : Packet) : List Nat :=
  if a.n 2 ≤ 60 then (List.range (a.n 2)).map fun k => a.n (3 + k)
  else (List.range (a.n 2)).map fun k => leAt p.dma (4 * k) 4

/-- ECMP_SET (R190): QMASK, group, SIZE, the members; each takes 4 bytes. -/
def execEcmpSet (p : Packet) (s : State) : Host.Outcome State Fault Refusal :=
  runPacket 0x0409 p (fun a s =>
    let size := a.n 2
    let ms := ecmpMembers a p
    guarded s
      ([ (decide (4096 ≤ a.n 1) || (decide (size ≤ 60) && ms.any fun m => decide (65536 ≤ m)), .indexRange),
         (a.bad || decide (1024 < size), .paramInvalid), (s.noQuad (a.n 0), .resourceAbsent) ]
        ++ (if 60 < size then dmaChecks s p (a.n 3) false (4 * size)
              ++ [(p.dmaFault, .dmaFault), (ms.any fun m => decide (65536 ≤ m), .indexRange)] else []))
      (quadCommand s (a.n 0) fun s q => s.ecmpSet q (a.n 1) ms)) s

/-- ECMP_MEMBER_SET (R190): QMASK, group, position below SIZE, next-hop index. -/
def execEcmpMemberSet (p : Packet) (s : State) : Host.Outcome State Fault Refusal :=
  runPacket 0x040A p (fun a s =>
    guarded s
      [ (a.bad, .paramInvalid), (s.noQuad (a.n 0), .resourceAbsent),
        (decide (4096 ≤ a.n 1) || decide (65536 ≤ a.n 3)
          || (s.quadsOf (a.n 0)).any (fun q => decide ((s.groupAt q (a.n 1)).size ≤ a.n 2)), .indexRange) ]
      (quadCommand s (a.n 0) fun s q => (s.setMember q ((s.groupAt q (a.n 1)).base + a.n 2) (a.n 3), .ok))) s

/-- ECMP_GET (R190): one quadrant's group, SIZE and members; up to 120 members fit the reply. -/
def execEcmpGet (p : Packet) (s : State) : Host.Outcome State Fault Refusal :=
  runPacket 0x040B p (fun a s =>
    let g := s.groupAt (a.n 0) (a.n 1)
    let n := min g.size 120
    guarded s [(a.bad, .paramInvalid), (!s.hasQuad (a.n 0), .resourceAbsent), (decide (4096 ≤ a.n 1), .indexRange)]
      (Res.ok s ([(.u 16, g.base), (.u 16, g.size)]
        ++ (List.range n).map fun k => (.u 32, s.memberAt (a.n 0) (g.base + k))))) s

/-- ECMP_HASH_SET (R190): the seed and the field enables, in every present quadrant. -/
def execEcmpHashSet (p : Packet) (s : State) : Host.Outcome State Fault Refusal :=
  runPacket 0x040C p (fun a s =>
    guarded s [(a.bad, .paramInvalid)]
      (Res.ok (s.forQuads fun s q => (s.setReg .fwdEcmpSeed q (word (a.n 0))).setReg .fwdEcmpCfg q (word (a.n 1))) [])) s

/-- RIF_SET (R191): interface, VALID, VRF, ROUTER_MAC, V4_EN, V6_EN, MTU, MTU_TRAP, EG_VID, in every present quadrant. -/
def execRifSet (p : Packet) (s : State) : Host.Outcome State Fault Refusal :=
  runPacket 0x040D p (fun a s =>
    let r : Rif := { valid := a.f 1, vrf := a.n 2, mac := a.n 3, v4 := a.f 4, v6 := a.f 5, mtu := a.n 6, mtuTrap := a.f 7
                     egVid := a.n 8 }
    guarded s
      [ (a.n 0 == 0, .indexRange),
        (a.bad || decide (a.n 6 < 68) || decide (10222 < a.n 6) || a.n 8 == 4095, .paramInvalid) ]
      (Res.ok (s.forQuads fun s q => s.setRif q (a.n 0) r) [])) s

/-- RIF_BIND (R191): TARGET 0 port or 1 VID, its number, an interface or 0. -/
def execRifBind (p : Packet) (s : State) : Host.Outcome State Fault Refusal :=
  runPacket 0x040E p (fun a s =>
    guarded s
      [ (a.bad || decide (1 < a.n 0) || (a.n 0 == 1 && (a.n 1 == 0 || decide (4094 < a.n 1))), .paramInvalid),
        (a.n 0 == 0 && !s.hasPort (a.n 1), .resourceAbsent) ]
      (Res.ok (s.forQuads fun s q => if a.n 0 = 0 then s.bindPort q (a.n 1) (a.n 2) else s.bindVid q (a.n 1) (a.n 2)) [])) s

/-- RIF_GET (R191): the interface and its bindings as held in quadrant 0; up to 200 of its ports and VIDs fit the reply. -/
def execRifGet (p : Packet) (s : State) : Host.Outcome State Fault Refusal :=
  runPacket 0x040F p (fun a s =>
    let i := a.n 0
    let r := s.rifAt 0 i
    let ports := (s.tab.portRif.filter fun e => e.1 < 516 && e.2 == i).map (·.1)
    let vids := (s.tab.vidRif.filter fun e => e.1 < 4096 && e.2 == i).map (·.1)
    guarded s [(a.bad, .paramInvalid), (i == 0, .indexRange)]
      (Res.ok s ([ (.flag, b2n r.valid), (.u 12, r.vrf), (.mac, r.mac), (.flag, b2n r.v4), (.flag, b2n r.v6), (.u 14, r.mtu),
          (.flag, b2n r.mtuTrap), (.u 12, r.egVid), (.u 16, ports.length), (.u 16, vids.length) ]
        ++ ((ports ++ vids).take 200).map fun n => (.u 16, n)))) s

end Sys2Proof.Machine
end

