-- ==== Sys2Proof/Machine/Classify.lean ====
section
/-!
DEFINITION. The classification memory (R95 to R100), the policers (R102 to R107), and their commands (R112 to R115).
-/
namespace Sys2Proof.Machine
open Sys2Proof

/-! ### The classification memory (R95 to R97, R99, R100) -/

/-- An entry of a quadrant's classification memory. -/
def State.clsAt (s : State) (q i : Nat) : ClsEnt := Table.get (fun _ => {}) s.tab.cls (q * 32768 + i)

/-- Write one entry. -/
def State.setCls (s : State) (q i : Nat) (e : ClsEnt) : State :=
  { s with tab := { s.tab with cls := Table.set (fun _ => {}) s.tab.cls (q * 32768 + i) e } }

/-- The other half of a pair. -/
def pairHalf (i : Nat) : Nat := if i % 2 = 0 then i + 1 else i - 1

/-- Clear the valid bit of an entry, of both halves of a pair. -/
def State.clsInvalid (s : State) (q i : Nat) : State :=
  let e := s.clsAt q i
  let s := s.setCls q i { e with valid := false }
  if e.pair then s.setCls q (pairHalf i) { s.clsAt q (pairHalf i) with valid := false } else s

/-- Write one entry, or one pair at an even index (R96, R99): a single entry over half of a pair invalidates the other half. -/
def State.clsWrite (s : State) (q i width key mask act : Nat) (valid : Bool) : State :=
  let lo : ClsEnt := { key := key % 2 ^ 160, mask := mask % 2 ^ 160, act := act, pair := width == 2, valid := valid }
  let s := (s.found 0 q (i / 2 * 2)).found 0 q i
  if width = 2 then
    let hi : ClsEnt := { key := key / 2 ^ 160, mask := mask / 2 ^ 160, pair := true, valid := valid }
    ((s.found 0 q (i + 1)).setCls q i lo).setCls q (i + 1) hi
  else
    let s := if (s.clsAt q i).pair
      then s.setCls q (pairHalf i) { s.clsAt q (pairHalf i) with valid := false, pair := false } else s
    s.setCls q i lo

/-- Whether a key matches an entry's key under its mask (R95). -/
def ternaryMatch (key ekey emask : Nat) : Bool := (key ^^^ ekey) &&& emask == 0

/-- The lowest-numbered valid entry that matches a key (R95, R96): a type 2 key searches the pairs, any other the single
entries. Answers its index and its action word. -/
def State.clsSearch (s : State) (q keyType key : Nat) : Option (Nat × Nat) :=
  let hit := fun (e : Nat × ClsEnt) =>
    e.1 / 32768 == q && e.2.valid && e.2.pair == (keyType == 2) && (keyType != 2 || e.1 % 2 == 0)
      && ternaryMatch (key % 2 ^ 160) e.2.key e.2.mask
      && (keyType != 2 || (let h := s.clsAt q (e.1 % 32768 + 1); ternaryMatch (key / 2 ^ 160) h.key h.mask))
  (s.tab.cls.find? hit).map fun e => (e.1 % 32768, e.2.act)

/-- Log an error of the classification memory: KIND 1 key parity, 2 corrected, 3 uncorrectable (R100). -/
def State.clsErr (s : State) (q i kind : Nat) : State :=
  (s.setReg .clsErrIdx q (word (kind * 65536 + i))).raise
    (if kind = 1 then F.clsStat_KEY_PERR else if kind = 2 then F.clsStat_ACT_CE else F.clsStat_ACT_UE) q

/-- A parity error clears the entry's valid bit, and firmware will restore it (R100). -/
def State.clsParity (s : State) (q i : Nat) : State :=
  let e := s.clsAt q i
  let at_ := if e.pair then i / 2 * 2 else i
  let s1 := (s.clsErr q i 1).clsInvalid q i
  if e.valid then { s1 with tab := { s1.tab with lost := s1.tab.lost ++ [{ table := 0, quad := q, index := at_ }] } } else s1

/-- CLS_SCRUB_VISIT (R100): the scrub walk of quadrant `q` checks entry `i` and finds its parity good or bad. -/
def execClsScrubVisit (q x : Nat) (bad : Bool) (s : State) : Host.Outcome State Fault Refusal :=
  .next (if s.hasQuad q && s.flag F.clsCtl_SCRUB_EN q && bad then s.clsParity q (x % 32768) else s)

/-- Fields of an action word (R97). -/
def actField (w lo width : Nat) : Nat := (w >>> lo) % 2 ^ width

/-- CLS_WRITE (R112): QMASK, index, width, key and mask, action word, valid. -/
def execClsWrite (p : Packet) (s : State) : Host.Outcome State Fault Refusal :=
  runPacket 0x0200 p (fun a s =>
    let i := a.n 1
    let act := a.n 5
    let kt := a.n 3 % 16
    guarded s
      [ ((onesOf 4 (a.n 0)).any (fun q => !s.hasQuad q), .resourceAbsent), (decide (32768 ≤ i), .indexRange),
        (a.n 2 == 2 && i % 2 == 1, .pairAlign),
        (a.bad || a.n 2 == 0 || a.n 2 == 3 || (a.n 2 == 2) != (kt == 2) || decide (2 < kt) || decide (2 ^ 54 ≤ act)
          || (decide (515 < actField act 8 10)), .paramInvalid),
        (!s.hasPort (actField act 8 10), .resourceAbsent) ]
      (Res.ok ((s.quadsOf (a.n 0)).foldl (fun s q => s.clsWrite q i (a.n 2) (a.n 3) (a.n 4) act (a.f 6)) s) [])) s

/-- CLS_READ (R113): one quadrant and an index; the entry, its width, its valid bit, and the KIND of an error logged
against it. -/
def execClsRead (p : Packet) (s : State) : Host.Outcome State Fault Refusal :=
  runPacket 0x0201 p (fun a s =>
    let q := a.n 0
    let i := a.n 1
    let e := s.clsAt q i
    let base := i / 2 * 2
    let lo := s.clsAt q base
    let hi := s.clsAt q (base + 1)
    let w := if e.pair then 320 else 160
    let key := if e.pair then lo.key + hi.key * 2 ^ 160 else e.key
    let mask := if e.pair then lo.mask + hi.mask * 2 ^ 160 else e.mask
    let err := if s.fld F.clsErrIdx_INDEX q = i then s.fld F.clsErrIdx_KIND q else 0
    guarded s [(a.bad, .paramInvalid), (!s.hasQuad q, .resourceAbsent), (decide (32768 ≤ i), .indexRange)]
      (Res.ok s [ (.wide w, key), (.wide w, mask), (.u 64, if e.pair then lo.act else e.act), (.u 2, if e.pair then 2 else 1),
        (.flag, b2n e.valid), (.u 2, err) ])) s

/-- CLS_INVALIDATE (R113): QMASK and an index range, first and last. -/
def execClsInvalidate (p : Packet) (s : State) : Host.Outcome State Fault Refusal :=
  runPacket 0x0202 p (fun a s =>
    let inRange := fun q (e : Nat × ClsEnt) => e.1 / 32768 == q && decide (a.n 1 ≤ e.1 % 32768) && decide (e.1 % 32768 ≤ a.n 2)
    let clear := fun (s : State) q =>
      let lost := s.tab.lost.filter fun l =>
        !(l.table = 0 && l.quad = q && decide (a.n 1 ≤ l.index) && decide (l.index ≤ a.n 2))
      (s.tab.cls.filter (inRange q)).foldl (fun s e => s.clsInvalid q (e.1 % 32768))
        { s with tab := { s.tab with lost := lost } }
    guarded s
      [ ((onesOf 4 (a.n 0)).any (fun q => !s.hasQuad q), .resourceAbsent),
        (decide (32768 ≤ a.n 1) || decide (32768 ≤ a.n 2), .indexRange), (a.bad || decide (a.n 2 < a.n 1), .paramInvalid) ]
      (Res.ok ((s.quadsOf (a.n 0)).foldl clear s) [])) s

/-! ### Policers (R102 to R107) -/

/-- A policer of a quadrant. -/
def State.polAt (s : State) (q i : Nat) : Policer := Table.get (fun _ => {}) s.tab.pol (q * 65536 + i)

/-- Write a policer. -/
def State.setPol (s : State) (q i : Nat) (p : Policer) : State :=
  { s with tab := { s.tab with pol := Table.set (fun _ => {}) s.tab.pol (q * 65536 + i) p } }

/-- A policer with its tokens brought up to date to a slot (R102, R105). -/
def Policer.upTo (p : Policer) (now : Nat) : Policer :=
  let dt := now - p.last
  { p with tc := min (p.tc + p.cir * dt) (p.cbs * 65536), tp := min (p.tp + p.pir * dt) (p.pbs * 65536), last := now }

/-- The charge of a frame of `len` bytes, in 1/65,536 byte. -/
def Policer.charge (p : Policer) (len : Nat) : Nat := (max ((len : Int) + p.lenAdj) 1).toNat * 65536

/-- Evaluate a frame (R102): its colour (0 green, 1 yellow, 2 red) and the policer after it. -/
def Policer.eval (p : Policer) (now len pre : Nat) : Nat × Policer :=
  let p := p.upTo now
  let b := p.charge len
  if (p.aware && pre == 2) || decide (p.tp < b) then (2, p)
  else if (p.aware && pre == 1) || decide (p.tc < b) then (1, { p with tp := p.tp - b })
  else (0, { p with tp := p.tp - b, tc := p.tc - b })

/-- The correction of a frame charged at `charged` bytes whose true length is `len` (R103): only the buckets its colour
debited; a credit is capped at the bucket size, a debit clamped at zero. -/
def Policer.correct (p : Policer) (now colour charged len : Nat) : Policer :=
  let p := p.upTo now
  let c := p.charge charged
  let t := p.charge len
  let fix := fun x cap => if t ≤ c then min (x + (c - t)) cap else x - (t - c)
  match colour with
  | 0 => { p with tc := fix p.tc (p.cbs * 65536), tp := fix p.tp (p.pbs * 65536) }
  | 1 => { p with tp := fix p.tp (p.pbs * 65536) }
  | _ => p

/-- Both buckets full. -/
def Policer.full (p : Policer) : Policer := { p with tc := p.cbs * 65536, tp := p.pbs * 65536 }

/-- An error in a policer's state (R106): corrected, or uncorrectable with the buckets reset to full. -/
def State.polError (s : State) (q i : Nat) (ue : Bool) : State :=
  let s := (s.setReg .polErrIdx q (word (b2n ue * 65536 + i))).raise (if ue then F.polStat_UE else F.polStat_CE) q
  if ue then s.setPol q i ((s.polAt q i).upTo s.tick.slot).full else s

/-- Count a policed frame's bytes or frames by colour (R107, R480). -/
def State.polCount (s : State) (q i colour bytes frames : Nat) : State :=
  let base := (q * 65536 + i) * 6 + 2 * colour
  (s.countArr 1 base frames).countArr 1 (base + 1) bytes

/-- POLICER_REFRESH (R105): the refresh walk of quadrant `q` visits policer `i`, unless the slot uses it already. -/
def execPolicerRefresh (q x : Nat) (s : State) : Host.Outcome State Fault Refusal :=
  .next (if s.hasQuad q && decide (x < 65536) then s.setPol q x ((s.polAt q x).upTo s.tick.slot) else s)

/-- POL_SET (R106, R114): QMASK, index, CIR, PIR, CBS, PBS, mode, LEN_ADJ, YELLOW_ACT, YELLOW_DSCP, RED_ACT,
RESET_BUCKETS. -/
def execPolSet (p : Packet) (s : State) : Host.Outcome State Fault Refusal :=
  runPacket 0x0203 p (fun a s =>
    let set := fun (o : Policer) =>
      let o := o.upTo s.tick.slot
      let n : Policer := { o with
        cir := a.n 2, pir := a.n 3, cbs := a.n 4, pbs := a.n 5, aware := a.f 6, lenAdj := a.i 7 7, yellowAct := a.n 8
        yellowDscp := a.n 9, redAct := a.n 10, tc := min o.tc (a.n 4 * 65536), tp := min o.tp (a.n 5 * 65536) }
      if a.f 11 then n.full else n
    guarded s
      [ (a.bad, .paramInvalid), ((onesOf 4 (a.n 0)).any (fun q => !s.hasQuad q), .resourceAbsent),
        (decide (2 ^ 24 < a.n 2) || decide (2 ^ 24 < a.n 3) || decide (a.n 3 < a.n 2) || decide (2 ^ 24 ≤ a.n 4)
          || decide (2 ^ 24 ≤ a.n 5), .rateInvalid) ]
      (Res.ok ((s.quadsOf (a.n 0)).foldl (fun s q => s.setPol q (a.n 1) (set (s.polAt q (a.n 1)))) s) [])) s

/-- POL_GET (R114): one quadrant and an index; the configuration, and tc and tp brought up to date to this slot. -/
def execPolGet (p : Packet) (s : State) : Host.Outcome State Fault Refusal :=
  runPacket 0x0204 p (fun a s =>
    let o := (s.polAt (a.n 0) (a.n 1)).upTo s.tick.slot
    guarded s [(a.bad, .paramInvalid), (!s.hasQuad (a.n 0), .resourceAbsent)]
      (Res.ok s [ (.u 32, o.cir), (.u 32, o.pir), (.u 32, o.cbs), (.u 32, o.pbs), (.flag, b2n o.aware),
        (.s 7, ofSigned 8 o.lenAdj), (.u 2, o.yellowAct), (.u 6, o.yellowDscp), (.flag, o.redAct), (.u 64, o.tc),
        (.u 64, o.tp) ])) s

/-- ING_PORT_SET (R115): port, PRS_PORTCFG, PRS_PORTPROF. -/
def execIngPortSet (p : Packet) (s : State) : Host.Outcome State Fault Refusal :=
  runPacket 0x0205 p (fun a s =>
    let pvid := a.n 1 % 4096
    guarded s
      [ (!s.hasPort (a.n 0), .resourceAbsent), (s.hidden (a.n 0), .lanesInUse),
        (a.bad || pvid == 0 || pvid == 4095 || a.n 1 / 65536 % 4 == 3 || decide (2 ^ 25 ≤ a.n 1) || decide (2 ^ 9 ≤ a.n 2),
          .paramInvalid) ]
      (Res.ok ((s.setReg .prsPortcfg (a.n 0) (word (a.n 1))).setReg .prsPortprof (a.n 0) (word (a.n 2))) [])) s

/-- ING_PORT_GET (R115): both registers of a port. -/
def execIngPortGet (p : Packet) (s : State) : Host.Outcome State Fault Refusal :=
  runPacket 0x0206 p (fun a s =>
    guarded s [(a.bad, .paramInvalid), (!s.hasPort (a.n 0), .resourceAbsent)]
      (Res.ok s [(.u 32, (s.reg .prsPortcfg (a.n 0)).toNat), (.u 32, (s.reg .prsPortprof (a.n 0)).toNat)])) s

end Sys2Proof.Machine
end

