-- ==== Sys2Proof/Machine/CellPool.lean ====
section
/-!
DEFINITION. The pool manager (R221 to R249): reservations and pools, the free list, cell descriptors, transfers, frees and
their checks, the free walker, leaks and reclaim sweeps, and the error posts.
-/
namespace Sys2Proof.Machine
open Sys2Proof

/-! ### Shared access to the data path -/

/-- Change the data path. -/
def State.inPath (s : State) (f : Path → Path) : State := { s with path := f s.path }

/-- The key of a cell. -/
def cellKey (sl c : Nat) : Nat := sl * 65536 + c

/-- The buffer address of a cell (R221). -/
def cellAddr (sl c : Nat) : Nat := (cellKey sl c) * 128

/-- The descriptor of a cell. -/
def State.desc (s : State) (sl c : Nat) : Desc := Table.get (fun _ => {}) s.path.desc (cellKey sl c)

/-- Write a descriptor. -/
def State.setDesc (s : State) (sl c : Nat) (d : Desc) : State :=
  s.inPath fun p => { p with desc := Table.set (fun _ => {}) p.desc (cellKey sl c) d }

/-- The counts of a slice's pool manager. -/
def State.pool (s : State) (sl : Nat) : Pool := Table.get (fun _ => {}) s.path.pools sl

/-- Change them. -/
def State.onPool (s : State) (sl : Nat) (f : Pool → Pool) : State :=
  s.inPath fun p => { p with pools := Table.set (fun _ => {}) p.pools sl (f (Table.get (fun _ => {}) p.pools sl)) }

/-- HELD of a pool. -/
def Pool.heldOf (p : Pool) (i : Nat) : Nat := p.held.getD i 0

/-- HELD rises or falls. -/
def Pool.addHeld (p : Pool) (i n : Nat) : Pool := { p with held := listModify (· + n) p.held i }
def Pool.subHeld (p : Pool) (i n : Nat) : Pool := { p with held := listModify (· - n) p.held i }

/-- CQ of a queue (R287). -/
def State.cq (s : State) (qu : Nat) : Nat := Table.get (fun _ => 0) s.path.cq qu

/-- CQ rises or falls. -/
def State.addCq (s : State) (qu n : Nat) : State :=
  s.inPath fun p => { p with cq := Table.set (fun _ => 0) p.cq qu (Table.get (fun _ => 0) p.cq qu + n) }
def State.subCq (s : State) (qu n : Nat) : State :=
  s.inPath fun p => { p with cq := Table.set (fun _ => 0) p.cq qu (Table.get (fun _ => 0) p.cq qu - n) }

/-- The pool a queue is charged to (R286). -/
def State.poolOf (s : State) (qu : Nat) : Nat :=
  if s.lossless qu then 0
  else
    let n := ((s.reg .qmQpool (qu / 16)).toNat >>> (2 * (qu % 16))) % 4
    if n = 0 then 1 else n

/-- FLOOR and CEIL of a pool, above 65,536 treated as 65,536 (R255). -/
def State.floor (s : State) (sl i : Nat) : Nat := min 65536 (s.fld F.cbPoolFloor_COUNT (sl * 4 + i))
def State.ceil (s : State) (sl i : Nat) : Nat := min 65536 (s.fld F.cbPoolCeil_COUNT (sl * 4 + i))

/-- OWED of a pool (R228). -/
def State.owed (s : State) (sl i : Nat) : Nat := s.floor sl i - (s.pool sl).heldOf i

/-- SHARED of a slice (R228). -/
def State.sharedCells (s : State) (sl : Nat) : Int :=
  ((s.pool sl).free : Int) - (s.pool sl).resv - ((List.range 4).foldl (fun a i => a + s.owed sl i) 0 : Nat)

/-! ### Posts (R242) -/

/-- Post an error to firmware, which copies it to the event log (R242, R626). While firmware does not run, 256 posts wait. -/
def State.post (s : State) (kind : Nat) (data : List Byte) (lost : State → State) : State :=
  if s.flag F.protBoot_RUNNING 0 then s.logEvent kind data
  else if s.path.posts.length < 256 then s.inPath fun p => { p with posts := p.posts ++ [(kind, data)] }
  else lost s

/-- A cell-buffer error: KIND of R255, the address as presented, the claimant and the recorded owner. -/
def State.cbPost (s : State) (sl kind addr claim recorded : Nat) : State :=
  let a := word (kind * 2 ^ 28 + addr % 2 ^ 28)
  let t := word (recorded % 2 ^ 14 * 65536 + claim % 2 ^ 14)
  ((s.setReg .cbErrAddr sl a).setReg .cbErrTags sl t).post 0x1203 (leBytes 4 a.toNat ++ leBytes 4 t.toNat)
    fun s => (s.count .cbErrLostCnt sl 1).raise F.cbStat_ERR_LOST sl

/-! ### Reservations (R231) -/

/-- Whether a reservation of `n` cells in a pool succeeds (R231). -/
def State.canReserve (s : State) (sl i n : Nat) : Bool :=
  s.flag F.cbStat_INIT_DONE sl && decide ((s.pool sl).heldOf i + n ≤ s.ceil sl i)
    && decide ((n : Int) ≤ s.owed sl i + s.sharedCells sl)

/-- A refused reservation is counted. -/
def State.allocFail (s : State) (sl : Nat) : State := (s.count .cbAllocFailCnt sl 1).raise F.cbStat_ALLOC_FAIL sl

/-- Ask for `n` cells: the state, and whether they were granted. -/
def State.reserve (s : State) (sl i n : Nat) : State × Bool :=
  if s.canReserve sl i n then (s.onPool sl fun p => { p.addHeld i n with resv := p.resv + n }, true)
  else (s.allocFail sl, false)

/-- Give unused reserved cells back (R230). -/
def State.unreserve (s : State) (sl i n : Nat) : State :=
  s.onPool sl fun p => { p.subHeld i n with resv := p.resv - n }

/-! ### The free list (R226, R227) -/

/-- The index at the head of the free list, and the list without it. -/
def Pool.pop (p : Pool) : Option (Nat × Pool) :=
  if p.next < 65536 then some (p.next, { p with next := p.next + 1 })
  else match p.back with
    | c :: t => some (c, { p with back := t })
    | [] => none

/-- Pop an index for an allocation (R226): an index taken off the list by retirement is passed over; one with an error, or of
a cell that is not FREE, is discarded with LIST_ERR. At most `fuel` indices are looked at. -/
def State.popCell (sl : Nat) : Nat → Bool → State → Option Nat × State
  | 0, _, s => (none, s)
  | fuel + 1, bad, s =>
    match (s.pool sl).pop with
    | none => (none, s)
    | some (c, p) =>
      let s := s.onPool sl fun _ => p
      let d := s.desc sl c
      if !d.onlist then State.popCell sl fuel bad s
      else
        let s := s.setDesc sl c { d with onlist := false }
        let s := s.onPool sl fun p => { p with free := p.free - 1 }
        if bad || d.state != 0 then State.popCell sl fuel false (s.raise F.cbStat_LIST_ERR sl)
        else (some c, s)

/-- Push a FREE cell's index (R226). -/
def State.pushCell (s : State) (sl c : Nat) : State :=
  let d := s.desc sl c
  if d.state != 0 || d.onlist then s
  else (s.setDesc sl c { d with onlist := true }).onPool sl fun p => { p with free := p.free + 1, back := p.back ++ [c] }

/-- The outer check of a cell (R247). -/
def cellCrc (sl c owner : Nat) (bytes : List Byte) : Nat := crc32 (bytes ++ leBytes 5 (cellKey sl c + owner * 2 ^ 21))

/-- The sweep number that allocations stamp (R244). -/
def State.swn (s : State) (sl : Nat) : Nat := (Table.get (fun _ => {}) s.path.reclaim sl).swn

/-- Write data and descriptor of a cell (R224, R245 to R247), and link it behind `prev`. -/
def State.fillCell (s : State) (sl c owner pool : Nat) (bytes : List Byte) (prev : Option Nat) : State :=
  let d := s.desc sl c
  let s := s.setDesc sl c { d with
    state := 1, owner := owner, pool := pool, last := true, next := 0, bytes := bytes.length - 1
    crc := cellCrc sl c owner bytes, swn := s.swn sl, qcause := 0, debited := false }
  let s := s.inPath fun p => { p with data := Table.set (fun _ => []) p.data (cellKey sl c) bytes }
  match prev with
  | some b => s.setDesc sl b { s.desc sl b with next := c, last := false }
  | none => s

/-- Write a cell from a reservation (R229, R231): the cell's index. -/
def State.writeCell (s : State) (sl owner pool : Nat) (bytes : List Byte) (prev : Option Nat) (bad : Bool) : Option Nat × State :=
  match s.popCell sl 70000 bad with
  | (some c, s) =>
    let s := s.onPool sl fun p => { p with resv := p.resv - 1 }
    (some c, s.fillCell sl c owner pool bytes prev)
  | (none, s) => (none, s)

/-! ### Frees (R237, R238, R240) -/

/-- Quarantine a cell (R240, R241, R249); its charge leaves HELD unless `keep`. -/
def State.quarantine (s : State) (sl c cause : Nat) (keep : Bool) : State :=
  let d := s.desc sl c
  let s := s.setDesc sl c { d with
    state := 2, onlist := d.onlist && d.state == 0, qcause := cause, debited := !keep
    owner := if cause = 2 then 0x3FFF else d.owner }
  s.onPool sl fun p => { (if keep then p else p.subHeld d.pool 1) with quar := p.quar + 1 }

/-- A cell becomes FREE, or RETIRED when it is marked (R237, R238 check 6). -/
def State.release (s : State) (sl c : Nat) : State :=
  let d := s.desc sl c
  if d.retPend then
    s.setDesc sl c { state := 3, onlist := false }
  else (s.setDesc sl c { state := 0, onlist := false, swn := d.swn }).pushCell sl c

/-- The outcome of a presented free. -/
inductive Freed where
  | freed | pointer | double | quarantined | foreign
  deriving DecidableEq, Repr

/-- A free is checked (R238): an address and a claiming queue. `charged` says whether the cell's charge still stands in HELD;
the walker's cells have left it already. -/
def State.freeCell (s : State) (sl addr claim : Nat) (charged : Bool) : State × Freed :=
  let c := addr / 128 % 65536
  let d := s.desc sl c
  if addr % 128 ≠ 0 then
    (((s.raise F.cbStat_PTR_ALIGN sl).count .cbPtrErrCnt sl 1).cbPost sl 3 addr claim d.owner, .pointer)
  else if addr / 2 ^ 23 % 32 ≠ sl ∨ d.state = 3 then
    (((s.raise F.cbStat_PTR_RANGE sl).count .cbPtrErrCnt sl 1).cbPost sl 4 addr claim d.owner, .pointer)
  else if d.state = 0 then
    (((s.raise F.cbStat_DFREE sl).count .cbDfreeCnt sl 1).cbPost sl 1 addr claim d.owner, .double)
  else if d.state = 2 then
    let s := if d.debited then s
      else (s.onPool sl fun p => if charged then p.subHeld (s.poolOf claim) 1 else p).setDesc sl c { d with debited := true }
    (s.cbPost sl 5 addr claim d.owner, .quarantined)
  else if d.owner ≠ claim then
    let s := (s.quarantine sl c 1 false).raise F.cbStat_NONOWNER sl
    ((s.count .cbNonownerCnt sl 1).cbPost sl 2 addr claim d.owner, .foreign)
  else
    let s := if charged then s.onPool sl fun p => p.subHeld d.pool 1 else s
    (s.release sl c, .freed)

/-! ### The free walker (R236, R239), leaks and reclaim (R243, R244) -/

/-- Ask for a reclaim sweep of a queue; 16 wait at most (R244). -/
def State.askReclaim (s : State) (sl qu : Nat) : State :=
  s.inPath fun p =>
    let r := Table.get (fun _ => {}) p.reclaim sl
    if r.waiting.length < 16 then
      { p with reclaim := Table.set (fun _ => {}) p.reclaim sl { r with waiting := r.waiting ++ [qu] } }
    else p

/-- Cells leak (R243): counted, posted, and firmware asks for a sweep. -/
def State.leak (s : State) (sl qu n : Nat) : State :=
  if n = 0 then s
  else
    let s := (s.count .cbLeakCnt sl n).raise F.cbStat_LEAK sl
    let s := s.post 0x1201 (leBytes 4 qu ++ leBytes 4 n) fun s => (s.count .cbErrLostCnt sl 1).raise F.cbStat_ERR_LOST sl
    if s.flag F.protBoot_RUNNING 0 then s.askReclaim sl qu else s

/-- A walker request (R236): the cells leave HELD of their pool and enter FREEING. A quarantined cell has left it already. -/
def State.toWalker (s : State) (sl : Nat) (cells : List Nat) (qu : Nat) : State :=
  if cells = [] then s
  else
    let s := cells.foldl (fun s c =>
      let d := s.desc sl c
      if d.state == 2 then s else s.onPool sl fun p => p.subHeld d.pool 1) s
    let s := s.onPool sl fun p => { p with freeing := p.freeing + cells.length }
    s.inPath fun p => { p with walks := p.walks ++ [{ slice := sl, cells := cells, queue := qu, total := cells.length }] }

/-- Up to `n` cells of a walk (R236, R239). `wrong` is the address presented in place of the first one, after an undetected
fault in a link. Answers the state and the cells still to come, none when the walk has ended. -/
def State.walkCells (sl qu : Nat) : Nat → List Nat → Option Nat → State → State × List Nat
  | 0, cs, _, s => (s, cs)
  | _, [], _, s => (s, [])
  | n + 1, c :: cs, wrong, s =>
    let addr := wrong.getD (cellAddr sl c)
    let d := s.desc sl (addr / 128 % 65536)
    let r := s.freeCell sl addr qu false
    let stop := fun (s : State) quarantined =>
      let pool := s.poolOf qu
      let left := cs.length + 1
      let s := s.onPool sl fun p => { p.addHeld pool left with freeing := p.freeing - left }
      (s.leak sl qu (left - quarantined), [])
    match r.2 with
    | .freed => State.walkCells sl qu n cs none (r.1.onPool sl fun p => { p with freeing := p.freeing - 1 })
    | .quarantined =>
      let s := r.1.onPool sl fun p => { p with freeing := p.freeing - 1 }
      if d.qcause == 1 && d.owner == qu then State.walkCells sl qu n cs none s
      else
        let pool := s.poolOf qu
        let s := s.onPool sl fun p => { p.addHeld pool cs.length with freeing := p.freeing - cs.length }
        (s.leak sl qu cs.length, [])
    | .foreign => stop r.1 1
    | _ => stop r.1 0

/-- WALKER_FREE (R236): the free walker of a slice frees up to 16 cells of its first request. -/
def execWalkerFree (sl : Nat) (wrong : Option Nat) (s : State) : Host.Outcome State Fault Refusal :=
  match s.path.walks.find? fun w => w.slice = sl with
  | none => .next s
  | some w =>
    let r := State.walkCells sl w.queue 16 w.cells wrong s
    let rest := fun (l : List Walk) => if r.2 = [] then l.erase w else l.map fun x => if x = w then { w with cells := r.2 } else x
    .next (r.1.inPath fun p => { p with walks := rest p.walks })

/-- CELL_TRANSMIT_FREE (R235): the read path of a slice frees up to 8 cells, each in a slot after the one it was read in. -/
def execCellTransmitFree (sl : Nat) (wrong : Option Nat) (s : State) : Host.Outcome State Fault Refusal :=
  let due := (s.path.frees.filter fun f => f.slice = sl && decide (f.read < s.tick.slot)).take 8
  let one := fun (acc : State × Option Nat) (f : CellFree) =>
    let r := acc.1.freeCell sl (acc.2.getD (cellAddr sl f.cell)) f.queue true
    (r.1.subCq f.queue 1, none)
  let r := due.foldl one (s.inPath fun p => { p with frees := p.frees.filter fun f => !due.contains f }, wrong)
  .next r.1

/-- Whether a queue's on-die part holds no frame (R244, R262). -/
def State.onDieEmpty (s : State) (qu : Nat) : Bool :=
  !(s.path.copies.any fun c => Config.queueOf c.port c.cls c.mc = qu)
    && !(s.path.tx.any fun t => match t.2.copy with
          | some c => Config.queueOf c.port c.cls c.mc = qu
          | none => false)
    && !(s.path.frees.any fun f => f.queue = qu)

/-- RECLAIM_SWEEP_START (R244): the first waiting queue of the slice whose on-die part is empty. -/
def execReclaimSweepStart (sl : Nat) (s : State) : Host.Outcome State Fault Refusal :=
  let r := Table.get (fun _ => {}) s.path.reclaim sl
  match r.active, r.waiting.find? s.onDieEmpty with
  | none, some qu =>
    let r := { r with
      swn := (r.swn + 1) % 16, active := some qu, last := qu, start := s.tick.slot, waiting := r.waiting.erase qu }
    .next (s.inPath fun p => { p with reclaim := Table.set (fun _ => {}) p.reclaim sl r })
  | _, _ => .next s

/-- RECLAIM_SWEEP_END (R244): after 4,096 slots every ALLOC cell of the queue with another sweep number has been freed. -/
def execReclaimSweepEnd (sl : Nat) (s : State) : Host.Outcome State Fault Refusal :=
  let r := Table.get (fun _ => {}) s.path.reclaim sl
  match r.active with
  | some qu =>
    if s.tick.slot < r.start + 4096 then .next s
    else
      let found := (s.path.desc.filter fun e =>
        e.1 / 65536 = sl && e.2.state == 1 && e.2.owner == qu && e.2.swn != r.swn).map (·.1 % 65536)
      let s := found.foldl (fun s c => (s.freeCell sl (cellAddr sl c) qu true).1.count .cbReclaimCnt sl 1) s
      let s := s.inPath fun p => { p with reclaim := Table.set (fun _ => {}) p.reclaim sl { r with active := none } }
      .next (s.post 0x120A (leBytes 4 qu ++ leBytes 4 found.length) id)
  | none => .next s

/-! ### Scrubs (R248, R249) -/

/-- An uncorrectable descriptor error, found in any access (R249). -/
def State.descError (s : State) (sl c : Nat) : State :=
  if (s.desc sl c).state == 2 then s
  else
    let d := s.desc sl c
    let s := (s.quarantine sl c 2 true).raise F.cbStat_DESC_UE sl
    let s := s.setDesc sl c { s.desc sl c with onlist := d.onlist }
    s.cbPost sl 8 (cellAddr sl c) 0x3FFF 0x3FFF

/-- DESCRIPTOR_SCRUB_VISIT (R249): one descriptor of a slice, with `err` 0 none, 1 corrected, 2 uncorrectable. A FREE cell
that is off the list goes back on it (R226). -/
def execDescriptorScrubVisit (sl c err : Nat) (s : State) : Host.Outcome State Fault Refusal :=
  if !s.hasSlice sl || 65536 ≤ c then .next s
  else
    match err with
    | 0 => .next (if s.flag F.cbStat_INIT_DONE sl then s.pushCell sl c else s)
    | 1 => .next ((s.count .cbEccCeCnt sl 1).raise F.cbStat_ECC_CE sl)
    | _ => .next (s.descError sl c)

/-- Retire a cell (R253): FREE or QUAR at once, ALLOC when freed. -/
def State.retireCell (s : State) (sl c : Nat) : State :=
  let d := s.desc sl c
  let s := s.onPool sl fun p => { p with retired := p.retired + 1 }
  match d.state with
  | 0 => (s.setDesc sl c { state := 3, onlist := false }).onPool sl fun p =>
      { p with free := p.free - b2n d.onlist, back := p.back.erase c }
  | 2 => (s.setDesc sl c { state := 3, onlist := false }).onPool sl fun p =>
      { p with quar := p.quar - 1 }
  | _ => s.setDesc sl c { d with retPend := true }

/-- CB_DATA_SCRUB_VISIT (R248): the data scrub of a slice visits cell `c`, with `err` 0 none, 1 a single-bit error, 2 a double-bit
error, 3 a CRC mismatch. Belber firmware retires a cell bad in two successive passes. -/
def execCbDataScrubVisit (sl c err : Nat) (s : State) : Host.Outcome State Fault Refusal :=
  let div := s.fld F.cbCtl_SCRUB_DIV sl
  let hot := decide (2 ≤ s.fld F.thmStat_LEVEL 0)
  if !s.hasSlice sl || 65536 ≤ c || !s.flag F.cbCtl_SCRUB_EN sl || s.tick.slot % 2 ^ div ≠ 0 || hot then .next s
  else
    let s := s.setReg .cbScrubPos sl (word ((c + 1) % 65536))
    let d := s.desc sl c
    let key := cellKey sl c
    let clean := fun (p : Path) => { p with badCells := p.badCells.erase key }
    if d.state ≠ 1 then .next (s.inPath clean)
    else match err with
      | 0 => .next (s.inPath clean)
      | 1 => .next (((s.count .cbEccCeCnt sl 1).raise F.cbStat_ECC_CE sl).inPath fun p =>
          { clean p with fixes := p.fixes ++ [(sl, c)] })
      | _ =>
        let s := ((s.count .cbEccUeCnt sl 1).raise F.cbStat_ECC_UE sl).cbPost sl (if err = 2 then 6 else 7) (cellAddr sl c) d.owner d.owner
        if s.path.badCells.contains key && s.flag F.protBoot_RUNNING 0 && decide ((s.pool sl).retired < 256) && !d.retPend then
          let k := { s.ks with retiredCells := if s.ks.retiredCells.contains key then s.ks.retiredCells else s.ks.retiredCells ++ [key] }
          .next ({ s.retireCell sl c with ks := k }.inPath clean)
        else .next (s.inPath fun p => { p with badCells := if p.badCells.contains key then p.badCells else p.badCells ++ [key] })

/-- SCRUB_WRITE_BACK (R248): the corrected word of a slice's oldest finding is written back, or abandoned when the cell has
been freed since. -/
def execScrubWriteBack (sl : Nat) (s : State) : Host.Outcome State Fault Refusal :=
  match s.path.fixes.find? fun f => f.1 = sl with
  | some f => .next (s.inPath fun p => { p with fixes := p.fixes.erase f })
  | none => .next s

end Sys2Proof.Machine
end

