-- ==== Sys2Proof/Machine/DeepTier.lean ====
section
/-!
DEFINITION. The deep tier (R256 to R278): the page allocator, hanks and the spill, page reservations, writing and reading back,
stack retirement, and its scrub.
-/
namespace Sys2Proof.Machine
open Sys2Proof

/-! ### Stacks and pages (R256 to R259) -/

/-- The page number of a page of a stack (R256). -/
def pageNo (h k : Nat) : Nat := h * 2 ^ 22 + k

/-- The allocator of a stack. -/
def State.stack (s : State) (h : Nat) : Stack := Table.get (fun _ => {}) s.path.hbm h

/-- Change it. -/
def State.onStack (s : State) (h : Nat) (f : Stack → Stack) : State :=
  s.inPath fun p => { p with hbm := Table.set (fun _ => {}) p.hbm h (f (Table.get (fun _ => {}) p.hbm h)) }

/-- The state of a stack: 0 live, 1 draining, 2 retired. -/
def State.stackState (s : State) (h : Nat) : Nat := s.fld F.dtStkStat_STATE h

/-- Free usable pages of a stack. -/
def Stack.free (k : Stack) : Nat :=
  4194304 - k.next - (k.retired.filter fun i => k.next ≤ i).length + k.back.length

/-- Whether a stack gives pages: live, and its list rebuilt. -/
def State.gives (s : State) (h : Nat) : Bool := s.stackState h == 0 && s.flag F.dtStat_INIT_DONE (h / 2)

/-- The free pages of a quadrant's live stacks (R264). -/
def State.quadFree (s : State) (q : Nat) : Nat :=
  ((List.range 2).map (2 * q + ·)).foldl (fun a h => a + if s.gives h then (s.stack h).free else 0) 0

/-- The next index of a stack's list, passing over retired pages; `fuel` bounds the retired pages passed. -/
def Stack.take (k : Stack) : Nat → Option (Nat × Stack)
  | 0 => none
  | fuel + 1 =>
    if k.next < 4194304 then
      let k' := { k with next := k.next + 1 }
      if k.retired.contains k.next then Stack.take k' fuel else some (k.next, { k' with used := k.used + 1 })
    else match k.back with
      | i :: t => some (i, { k with back := t, used := k.used + 1 })
      | [] => none

/-- The stack the next page of a chain comes from (R258). -/
def State.pickStack (s : State) (q : Nat) (prev : Option Nat) : Option Nat :=
  let a := 2 * q
  let b := 2 * q + 1
  let has := fun h => s.gives h && decide (0 < (s.stack h).free)
  let first := match prev with
    | some h => if h = a then b else a
    | none => if (s.stack a).free < (s.stack b).free && has b then b else a
  let other := if first = a then b else a
  if has first then some first else if has other then some other else none

/-- Free a page (R267, R274): it returns to its stack's list, or retires when it is marked (R284). -/
def State.freePage (s : State) (page : Nat) : State :=
  let h := page / 2 ^ 22
  let i := page % 2 ^ 22
  s.onStack h fun k =>
    if s.stackState h = 2 then k
    else if k.pending.contains i then
      { k with used := k.used - 1, pending := k.pending.erase i, retired := k.retired ++ [i] }
    else { k with used := k.used - 1, back := k.back ++ [i] }

/-- Write-buffer units in use in a quadrant rise or fall (R261). -/
def State.wbuf (s : State) (q : Nat) : Nat := Table.get (fun _ => 0) s.path.wbuf q
def State.setWbuf (s : State) (q n : Nat) : State := s.inPath fun p => { p with wbuf := Table.set (fun _ => 0) p.wbuf q n }

/-! ### Hanks (R260 to R262) -/

/-- The hank of a queue in deep state. -/
def State.hank? (s : State) (qu : Nat) : Option Hank := OTable.get? s.path.hanks qu

/-- Whether a queue is in deep state (R262). -/
def State.inDeep (s : State) (qu : Nat) : Bool := (s.hank? qu).isSome

/-- Put a hank. -/
def State.setHank (s : State) (qu : Nat) (h : Hank) : State := s.inPath fun p => { p with hanks := Table.insert p.hanks qu h }

/-- The key of the spill of a staging queue, beside the queues' hanks. -/
def spillKey (ing sq : Nat) : Nat := 16384 + ing * 256 + sq

/-- Pages that a hank holds, opened or reserved (R264). -/
def Hank.total (h : Hank) : Nat := h.pages.length + h.rsvd

/-- PAGES of a queue. -/
def State.pagesOf (s : State) (qu : Nat) : Nat :=
  match s.hank? qu with
  | some h => h.total
  | none => 0

/-- Bytes that a record of a frame of `len` bytes occupies (R260). -/
def recSize (len : Nat) : Nat := 32 + 32 * cdiv len 32

/-- The end of the last record admitted. -/
def Hank.endOff (h : Hank) : Nat := h.recs.foldl (fun a r => a + r.size) h.headOff

/-- The open page. -/
def Hank.open? (h : Hank) : Option HankPage :=
  match h.pages.getLast? with
  | some p => if p.closed then none else some p
  | none => none

/-- The unused bytes of the pages reserved so far (R of R264). -/
def Hank.room (h : Hank) : Nat :=
  let cap := (match h.open? with
    | some p => p.base + 4096
    | none => h.closedEnd) + 4096 * h.rsvd
  cap - h.endOff

/-- The stream bytes written without a gap. -/
def prefixOf : List HankRec → Nat → Nat
  | [], a => a
  | r :: t, a => if r.whole then prefixOf t (a + r.size) else if r.got = [] then a else a + 32 + r.got.length / 32 * 32

def Hank.filled (h : Hank) : Nat := prefixOf h.recs h.headOff

/-- Close the open page with the bytes it has (R261). -/
def Hank.close (h : Hank) : Hank :=
  match h.open? with
  | some p =>
    let fill := min 4096 (h.filled - p.base)
    if fill = 0 then h
    else { h with pages := h.pages.dropLast ++ [{ p with fill := fill, closed := true }], closedEnd := p.base + fill }
  | none => h

/-- Open the pages that the bytes written need: a full page closes, and the next comes from the other stack (R258, R261). -/
def State.openPages (q : Nat) : Nat → Hank → State → Hank × State
  | 0, h, s => (h, s)
  | fuel + 1, h, s =>
    match h.open? with
    | some p => if p.base + 4096 ≤ h.filled then State.openPages q fuel h.close s else (h, s)
    | none =>
      if h.filled ≤ h.closedEnd then (h, s)
      else
        match s.pickStack q h.lastStack with
        | none => (h, s)
        | some st =>
          match (s.stack st).take 70000 with
          | none => (h, s)
          | some (i, k) =>
            let pg : HankPage := { page := pageNo st i, base := h.closedEnd, first := s.tick.slot }
            State.openPages q fuel { h with pages := h.pages ++ [pg], rsvd := h.rsvd - 1, lastStack := some st }
              (s.onStack st fun _ => k)

/-- Put a changed hank, with the pages its bytes need. -/
def State.putHank (s : State) (q qu : Nat) (h : Hank) : State :=
  let r := State.openPages q 40 h s
  r.2.setHank qu r.1

/-! ### Page reservations (R264) -/

/-- The reserve and the maximum of a queue. -/
def State.rsvPages (s : State) (qu : Nat) : Nat := s.fld F.dtQcfgRsv_PAGES (Config.quadOf (qu / 16) * 8256 + qu)
def State.maxPages (s : State) (qu : Nat) : Nat := s.fld F.dtQcfgMax_PAGES (Config.quadOf (qu / 16) * 8256 + qu)

/-- OWED of a queue. -/
def State.owedPages (s : State) (qu : Nat) : Nat := s.rsvPages qu - s.pagesOf qu

/-- The spill's reserve, and the pages it holds, of a quadrant. -/
def State.spillRsv (s : State) (q : Nat) : Nat := Table.get (fun _ => 0) s.path.spillRsv q
def State.spillPages (s : State) (q : Nat) : Nat :=
  (s.path.hanks.filter fun e => decide (16384 ≤ e.1) && (e.1 - 16384) / 2048 == q).foldl (fun a e => a + e.2.total) 0

/-- The queues of a quadrant with a reserve (R264). -/
def State.rsvQueues (s : State) (q : Nat) : List Nat :=
  (s.regs.filter fun e => e.1 % 512 == Reg.dtQcfgRsv.ctorIdx && e.1 / 512 / 8256 == q).map fun e => e.1 / 512 % 8256

/-- The sum of RSV, and SHARED, of a quadrant (R264). -/
def State.sumRsv (s : State) (q : Nat) : Nat := (s.rsvQueues q).foldl (fun a qu => a + s.rsvPages qu) 0
def State.sharedPages (s : State) (q : Nat) : Int :=
  (s.quadFree q : Int) - ((s.rsvQueues q).foldl (fun a qu => a + s.owedPages qu) 0 : Nat) - (s.spillRsv q - s.spillPages q : Nat)

/-- Whether the quadrant lets a queue stay in deep state, and enter it (R276, R277). -/
def State.mayStay (s : State) (q : Nat) : Bool :=
  s.flag F.dtStat_INIT_DONE q && s.stackState (2 * q) != 2 && s.stackState (2 * q + 1) != 2
def State.mayEnter (s : State) (q : Nat) : Bool :=
  s.mayStay q && s.stackState (2 * q) == 0 && s.stackState (2 * q + 1) == 0

/-- The drop code that refuses a copy of `len` bytes to a queue's hank, or 0 (R264, R281): 0x38 DT_FULL, 0x39 DT_WBUF. -/
def State.deepRefusal (s : State) (qu len : Nat) : Nat :=
  let q := Config.quadOf (qu / 16)
  let h := (s.hank? qu).getD {}
  let m := cdiv (recSize len - h.room) 4096
  let free := 65536 - s.wbuf q
  if !(if s.inDeep qu then s.mayStay q else s.mayEnter q) then 0x38
  else if s.maxPages qu < h.total + m then 0x38
  else if (s.owedPages qu : Int) + s.sharedPages q < m then 0x38
  else if free < cdiv len 32 + 1 || (!s.lossless qu && decide (free ≤ s.fld F.dtCtl_WB_LL q)) then 0x39
  else 0

/-- Admit a copy of reserved length `len` to its queue's hank, entering deep state if it is not in it (R262, R264). -/
def State.deepAdmit (s : State) (c : Copy) (len : Nat) : State :=
  let qu := Config.queueOf c.port c.cls c.mc
  let q := Config.quadOf c.port
  let enter := !s.inDeep qu
  let h := (s.hank? qu).getD {}
  let m := cdiv (recSize len - h.room) 4096
  let s := s.setHank qu { h with rsvd := h.rsvd + m, recs := h.recs ++ [{ copy := c, size := recSize len }] }
  let s := s.setWbuf q (s.wbuf q + cdiv len 32 + 1)
  if enter then s.count .dtEnterCnt q 1 else s

/-- A refused copy is counted, and shown (R270, R281). -/
def State.deepRefused (s : State) (port code : Nat) : State :=
  let q := Config.quadOf port
  let s := s.drop port code
  if code = 0x39 then (s.raise F.dtStat_WB_DROP q).raise F.dtStat_BW_SAT q else s.raise F.dtStat_FULL_DROP q

/-- A DT error post (R273): KIND, page, burst and owner. -/
def State.dtPost (s : State) (q kind page burst owner : Nat) : State :=
  let a := word (kind * 2 ^ 28 + page % 2 ^ 25)
  let i := word (burst % 16 * 65536 + owner % 2 ^ 14)
  ((s.setReg .dtErrAddr q a).setReg .dtErrInfo q i).post 0x1403 (leBytes 4 a.toNat ++ leBytes 4 i.toNat) id

/-! ### Writing (R261) -/

/-- Units of the write buffer that a hank holds: what is admitted and not yet on its stacks. -/
def Hank.units (h : Hank) : Nat := (h.endOff - max h.headOff h.writtenEnd) / 32

/-- Whether a copy has joined its hank: its first cell has been written. A copy that a lossless grant admitted stands behind
those until then (R203, R293). -/
def HankRec.joined (r : HankRec) : Bool := r.got != []

/-- Write bytes of a copy's record (R261). The last ones fix its size: what was held beyond it is returned. -/
def State.deepWrite (s : State) (qu fid : Nat) (bytes : List Byte) (last : Bool) : State :=
  match s.hank? qu with
  | none => s
  | some h =>
    let q := Config.quadOf (qu / 16)
    let put := fun (r : HankRec) =>
      if r.copy.fid = fid && !r.copy.lost then
        let got := r.got ++ bytes
        { r with got := got, whole := last, size := if last then recSize got.length else r.size
                 copy := { r.copy with len := got.length, whole := last } }
      else r
    let before := h.units
    let recs := h.recs.map put
    let h := { h with recs := recs.filter HankRec.joined ++ recs.filter fun (r : HankRec) => !r.joined }
    let spare := if last then h.room / 4096 else 0
    let h := { h with rsvd := h.rsvd - min h.rsvd spare }
    (s.setWbuf q (s.wbuf q - (before - h.units))).putHank q qu h

/-- PAGE_CLOSE (R261): the open page of a queue closes when it is full, when FLUSH_SLOTS have passed since its first byte, or
when the queue's on-die part holds no frame and the page holds a whole record. -/
def execPageClose (qu : Nat) (s : State) : Host.Outcome State Fault Refusal :=
  let q := Config.quadOf (qu / 16)
  match s.hank? qu with
  | none => .next s
  | some h =>
    match h.open? with
    | none => .next s
    | some p =>
      let flush := max 64 (s.fld F.dtCtl_FLUSH_SLOTS q)
      let wholeEnd := h.recs.foldl (fun a r => if r.whole then a + r.size else a) h.headOff
      if p.base + 4096 ≤ h.filled || decide (p.first + flush ≤ s.tick.slot) || (s.onDieEmpty qu && decide (p.base < wholeEnd)) then
        .next (s.setHank qu h.close)
      else .next s

/-- PAGE_WRITE_COMPLETE (R261): the oldest closed page of a queue reaches its stack, and its units are released. -/
def execPageWriteComplete (qu : Nat) (s : State) : Host.Outcome State Fault Refusal :=
  let q := Config.quadOf (qu / 16)
  match s.hank? qu with
  | none => .next s
  | some h =>
    match h.pages.find? fun p => p.closed && !p.written with
    | none => .next s
    | some p =>
      let h := { h with
        pages := h.pages.map fun x => if x.page = p.page then { x with written := true } else x
        writtenEnd := p.base + p.fill }
      .next (((s.setWbuf q (s.wbuf q - p.fill / 32)).setHank qu h).count .dtPageWrCnt q 1)

/-! ### Reading back (R266, R267, R273) -/

/-- The records of a hank with their stream offsets. -/
def recsAt : List HankRec → Nat → List (HankRec × Nat)
  | [], _ => []
  | r :: t, a => (r, a) :: recsAt t (a + r.size)

/-- The bytes of a record's frame in the stream up to `upto`; the header takes 32. -/
def frameBytes (r : HankRec) (off upto : Nat) : Nat := min r.copy.len (upto - (off + 32))

/-- READBACK_ISSUE (R266): the deep tier reserves cells for the oldest written page of a queue and issues its read. -/
def execReadbackIssue (qu : Nat) (s : State) : Host.Outcome State Fault Refusal :=
  let port := qu / 16
  let q := Config.quadOf port
  let sl := Config.sliceOf port
  let cfg := q * 8256 + qu
  match s.hank? qu with
  | none => .next s
  | some h =>
    let cells := s.cq qu
    let on := if cells < 16 * s.fld F.dtQcfgRb_RB_LOW cfg then true
      else h.rbOn && decide (cells < 16 * s.fld F.dtQcfgRb_RB_HIGH cfg)
    let s := s.setHank qu { h with rbOn := on }
    match if on && s.portUp port then h.pages.find? fun p => p.reading.isNone else none with
    | none => .next s
    | some p =>
      if !p.written then .next s
      else
        let upto := p.base + p.fill
        let want := fun (e : HankRec × Nat) => cdiv (frameBytes e.1 e.2 upto) 128
        let recs := recsAt h.recs h.headOff
        let n := recs.foldl (fun a e => a + (want e - e.1.rb)) 0
        let r := s.reserve sl (s.poolOf qu) n
        if !r.2 then .next (r.1.count .dtRbWaitCnt q 1)
        else
          let h := { h with
            rbOn := on, recs := recs.map fun e => { e.1 with rb := max e.1.rb (want e) }
            pages := h.pages.map fun x => if x.page = p.page then { x with reading := some s.tick.slot } else x }
          .next ((r.1.addCq qu n).setHank qu h)

/-- Write a record's bytes up to `n` into its reserved cells (R267): full cells stay, a partial one is filled up. -/
def State.rbCells (s : State) (sl qu pool : Nat) (r : HankRec) (n : Nat) : HankRec × State :=
  (List.range (cdiv n 128)).foldl (fun (acc : HankRec × State) k =>
    let bytes := (r.got.drop (128 * k)).take (min 128 (n - 128 * k))
    let prev := if k = 0 then none else acc.1.cells[k - 1]?
    match acc.1.cells[k]? with
    | some c => if (acc.2.desc sl c).bytes + 1 = bytes.length then acc else (acc.1, acc.2.fillCell sl c qu pool bytes prev)
    | none =>
      match acc.2.writeCell sl qu pool bytes prev false with
      | (some c, s) => ({ acc.1 with cells := acc.1.cells ++ [c] }, s)
      | (none, s) => (acc.1, s)) (r, s)

/-- Give up a record that read-back has begun (R273): its reserved cells return, its cells go to the walker. -/
def State.rbDrop (s : State) (sl qu pool : Nat) (r : HankRec) (code : Nat) : State :=
  let left := r.rb - r.cells.length
  (((s.unreserve sl pool left).subCq qu r.rb).toWalker sl r.cells qu).drop (qu / 16) (if r.copy.lost then 0 else code)

/-- A copy in a hank is dropped before its record is whole (R214, R230): what is written of the record stays in the stream and
is passed over when it is read back; the rest of its reservation returns. -/
def State.hankLose (s : State) (qu fid code : Nat) : State :=
  match s.hank? qu with
  | none => s
  | some h =>
    match h.recs.find? fun r => r.copy.fid = fid && !r.copy.lost with
    | none => s
    | some r =>
      let q := Config.quadOf (qu / 16)
      let s := s.rbDrop (Config.sliceOf (qu / 16)) qu (s.poolOf qu) r code
      let dead : HankRec := { r with
        copy := { r.copy with lost := true, len := 0, whole := true }, whole := true, size := if r.joined then recSize r.got.length else 0
        rb := 0, cells := [] }
      let before := h.units
      let recs := if r.joined then h.recs.map fun x => if x.copy.fid = fid then dead else x
        else h.recs.filter fun x => x.copy.fid != fid
      let h := { h with recs := recs }
      let h := { h with rsvd := h.rsvd - min h.rsvd (h.room / 4096) }
      (s.setWbuf q (s.wbuf q - (before - h.units))).putHank q qu h

/-- A frame read back whole joins its queue (R267). -/
def State.rbJoin (s : State) (pool : Nat) (r : HankRec) : State :=
  s.inPath fun p => { p with copies := p.copies ++ [{ r.copy with
    cells := r.cells, resv := 0, pool := pool, whole := true, stamp := s.whorlNs, stampEpoch := s.epoch % 8192 }] }

/-- PAGE_READ_COMPLETE (R267, R273, R274): the read of a queue's oldest page in reading completes. `faults` lists what the codes
found, each with a burst of the page: 0 a burst corrected, 1 a burst uncorrectable, 2 the descriptor unreadable, 3 its OWNER
another's, 4 a record header whose CRC fails (the burst it starts in), 5 the page already free. -/
def execPageReadComplete (qu : Nat) (faults : List (Nat × Nat)) (s : State) : Host.Outcome State Fault Refusal :=
  let port := qu / 16
  let q := Config.quadOf port
  let sl := Config.sliceOf port
  let pool := s.poolOf qu
  match s.hank? qu with
  | none => .next s
  | some h =>
    match h.pages.find? fun p => p.reading.isSome with
    | none => .next s
    | some p =>
      let upto := p.base + p.fill
      let s := s.count .dtCeCnt q (faults.filter fun f => f.1 = 0).length
      let link := faults.find? fun f => f.1 = 2 || f.1 = 3
      match link with
      | some f =>
        let s := (s.raise F.dtStat_UE q).dtPost q (if f.1 = 2 then 4 else 3) p.page f.2 qu
        let s := h.recs.foldl (fun s r => s.rbDrop sl qu pool r 0x3B) s
        let from_ := h.pages.filter fun x => p.base ≤ x.base
        let s := s.inPath fun t => { t with heldPages := t.heldPages ++ from_.map fun x => (x.page, qu) }
        let s := s.setWbuf q (s.wbuf q - h.units)
        .next (s.setHank qu { lastStack := h.lastStack, headOff := h.endOff, closedEnd := h.endOff, writtenEnd := h.endOff })
      | none =>
        let bad := (faults.filter fun f => f.1 = 1).map (·.2)
        let s := bad.foldl (fun s b => (s.raise F.dtStat_UE q).dtPost q 1 p.page b qu) s
        let s := (faults.filter fun f => f.1 = 4).foldl (fun s f => (s.raise F.dtStat_UE q).dtPost q 2 p.page f.2 qu) s
        let hdrBad := fun off => decide (p.base ≤ off) && decide (off < upto)
          && (bad.contains ((off - p.base) / 256) || faults.contains (4, (off - p.base) / 256))
        let dataBad := fun (r : HankRec) off => bad.any fun b =>
          decide (off + 32 < p.base + 256 * b + 256) && decide (p.base + 256 * b < min upto (off + 32 + r.copy.len))
        let step := fun (acc : State × List HankRec × Nat × Bool) (e : HankRec × Nat) =>
          let (s, keep, head, cut) := acc
          let r := e.1
          let starts := decide (p.base ≤ e.2) && decide (e.2 < upto)
          let cut := cut || hdrBad e.2
          if upto ≤ e.2 then (s, keep ++ [r], head, cut)
          else if (cut && starts) || dataBad r e.2 then
            if r.rb = 0 && r.cells = [] && !starts then (s, keep ++ [r], head, cut)
            else (s.rbDrop sl qu pool r 0x3A, keep, head + r.size, cut)
          else
            let done := r.whole && decide (e.2 + r.size ≤ upto)
            let w := s.rbCells sl qu pool r (frameBytes r e.2 upto)
            if done then (if r.copy.lost then w.2 else w.2.rbJoin pool w.1, keep, head + r.size, cut) else (w.2, keep ++ [w.1], head, cut)
        let r := (recsAt h.recs h.headOff).foldl step (s, [], h.headOff, false)
        let s := r.1
        let s := if faults.any fun f => f.1 = 5 then (s.raise F.dtStat_DFREE q).dtPost q 5 p.page 0 qu else s.freePage p.page
        let h := { h with recs := r.2.1, headOff := r.2.2.1, pages := h.pages.filter fun x => x.page != p.page }
        .next ((s.setHank qu h).count .dtPageRdCnt q 1)

/-- DEEP_EXIT (R262, R263): a queue leaves deep state when no part of it holds anything. -/
def execDeepExit (qu : Nat) (s : State) : Host.Outcome State Fault Refusal :=
  match s.hank? qu with
  | none => .next s
  | some h =>
    if qu < 16384 && s.onDieEmpty qu && s.cq qu == 0 && h.recs = [] && h.pages = [] then
      .next ((s.inPath fun p => { p with hanks := Table.erase p.hanks qu }).count .dtExitCnt (Config.quadOf (qu / 16)) 1)
    else .next s

/-- Drop every record of a hank with a reason, free its pages and release its units, ending deep state (R268, R278). -/
def State.dropHank (s : State) (qu code : Nat) : State :=
  match s.hank? qu with
  | none => s
  | some h =>
    let q := Config.quadOf (qu / 16)
    let sl := Config.sliceOf (qu / 16)
    let s := h.recs.foldl (fun s r => s.rbDrop sl qu (s.poolOf qu) r code) s
    let s := h.pages.foldl (fun s p => s.freePage p.page) s
    let s := s.setWbuf q (s.wbuf q - h.units)
    s.inPath fun p => { p with hanks := Table.erase p.hanks qu }

/-! ### The spill (R200) -/

/-- Reserve and write a spilled copy of a staging queue: none when no page can be had (R200 rule 4, R264). -/
def State.spillAdmit (s : State) (ing sq : Nat) (c : Copy) (bytes : List Byte) : Option State :=
  let q := ing / 8
  let key := spillKey ing sq
  let h := (s.hank? key).getD {}
  let m := cdiv (recSize bytes.length - h.room) 4096
  let owed := s.spillRsv q - s.spillPages q
  if !s.flag F.dtStat_INIT_DONE q || decide ((owed : Int) + s.sharedPages q < m) then none
  else
    let r : HankRec := { copy := { c with len := bytes.length }, size := recSize bytes.length, got := bytes, whole := true }
    some ((s.putHank q key { h with rsvd := h.rsvd + m, recs := h.recs ++ [r] }).count .dtSpillPgCnt q m)

/-- The oldest record of a staging queue's spill leaves it; pages wholly read are freed. -/
def State.spillTake (s : State) (ing sq : Nat) : State :=
  let key := spillKey ing sq
  match s.hank? key with
  | none => s
  | some h =>
    match h.recs with
    | [] => s
    | r :: t =>
      let head := h.headOff + r.size
      let gone := if t = [] then h.pages else h.pages.filter fun p => p.closed && decide (p.base + p.fill ≤ head)
      let s := gone.foldl (fun s p => s.freePage p.page) s
      if t = [] then s.inPath fun p => { p with hanks := Table.erase p.hanks key }
      else s.setHank key { h with recs := t, headOff := head, pages := h.pages.filter fun p => !gone.contains p }

/-! ### Stack retirement (R276 to R279) -/

/-- A stack is retired (R277); firmware logs the long-reach classes that lose the promise of R71 (R279). -/
def State.stackRetired (s : State) (h : Nat) : State :=
  let q := h / 2
  let s := s.setReg .dtStkStat h 2
  let partner := if h % 2 = 0 then h + 1 else h - 1
  let s := if s.stackState partner = 2 then s else s.setFld F.dtStkStat_SPILL_ONLY partner 1
  let s := s.setReg .dtStkStat h 2
  let s := { s with ks := { s.ks with
    retiredStacks := if s.ks.retiredStacks.contains h then s.ks.retiredStacks else s.ks.retiredStacks ++ [h] } }
  let s := s.onStack h fun _ => {}
  let s := (s.raise F.dtStat_RETIRE_DONE q).logEvent 0x1401 (leBytes 4 (s.reg .dtStat q).toNat ++ leBytes 4 h)
  (s.path.reserves.filter fun (e : Nat × Nat × Nat) => e.2.2 != 0 && Config.quadOf (e.1 / 8) == q).foldl (fun s e =>
    s.logEvent 0x1401 (leBytes 4 (s.reg .dtStat q).toNat ++ leBytes 2 (e.1 / 8) ++ leBytes 2 (e.1 % 8))) s

/-- The queues of a quadrant in deep state. -/
def State.deepQueues (s : State) (q : Nat) : List Nat :=
  (s.path.hanks.filter fun e => decide (e.1 < 16384) && Config.quadOf (e.1 / 16) == q).map (·.1)

/-- Immediate retirement (R278): every hank of the quadrant is dropped, and the spill frames with a page on the lost stack. -/
def State.stackLost (s : State) (h : Nat) : State :=
  let q := h / 2
  let s := (s.deepQueues q).foldl (fun s qu => s.dropHank qu 0x3C) s
  let spills := (s.path.hanks.filter fun e => decide (16384 ≤ e.1) && (e.1 - 16384) / 2048 == q).map (·.1)
  let lose := fun (s : State) key =>
    match s.hank? key with
    | none => s
    | some k =>
      let onLost := fun (e : HankRec × Nat) => k.pages.any fun p =>
        p.page / 2 ^ 22 == h && decide (p.base < e.2 + e.1.size) && decide (e.2 < if p.closed then p.base + p.fill else p.base + 4096)
      let ids := ((recsAt k.recs k.headOff).filter onLost).map fun e => e.1.copy.fid
      let ing := (key - 16384) / 256
      let sq := (key - 16384) % 256
      let mine := fun (c : Staged) => c.inSpill && c.ing == ing && c.eg == sq / 8 && c.cls == sq % 8 && ids.contains c.fid
      let s := (s.path.staged.filter mine).foldl (fun s c => c.dests.foldl (fun s d => s.drop d.1 0x3C) s) s
      let s := s.inPath fun p => { p with staged := p.staged.filter fun c => !mine c }
      let s := (k.pages.filter fun p => p.page / 2 ^ 22 != h).foldl (fun s p => s.freePage p.page) s
      let left := (k.recs.filter fun r => !ids.contains r.copy.fid)
      let s := s.inPath fun p => { p with hanks := Table.erase p.hanks key }
      left.foldl (fun s r => (s.spillAdmit ing sq r.copy r.got).getD s) s
  (spills.foldl lose (s.setReg .dtStkStat h 2)).stackRetired h

/-- STACK_FATAL_FAULT (R276): a stack signals a fatal fault. -/
def execStackFatalFault (h : Nat) (s : State) : Host.Outcome State Fault Refusal :=
  if !s.hasStack h || s.stackState h = 2 then .next s
  else .next ((s.raise F.dtStat_STACK_FAULT (h / 2)).stackLost h)

/-- STACK_DRAIN_COMPLETE (R276): a draining stack holds no allocated page. -/
def execStackDrainComplete (h : Nat) (s : State) : Host.Outcome State Fault Refusal :=
  if s.stackState h = 1 && (s.stack h).used = 0 then .next (s.stackRetired h) else .next s

/-- Whether a page is in use: given, and not free or retired. -/
def State.pageUsed (s : State) (page : Nat) : Bool :=
  let k := s.stack (page / 2 ^ 22)
  let i := page % 2 ^ 22
  decide (i < k.next) && !k.back.contains i && !k.retired.contains i

/-- A page leaves service: a free one at once, a used one when it is freed (R284). -/
def State.retirePage (s : State) (page : Nat) : State :=
  let i := page % 2 ^ 22
  let used := s.pageUsed page
  s.onStack (page / 2 ^ 22) fun k =>
    if k.retired.contains i || k.pending.contains i then k
    else if used then { k with pending := k.pending ++ [i] }
    else { k with retired := k.retired ++ [i], back := k.back.erase i }

/-- HBM_SCRUB_VISIT (R275): a stack's scrub reads one burst, with `err` 0 none, 1 corrected by the outer code, 2 uncorrectable;
`inner` says whether the inner code reported a correction (1) or a failure (2). -/
def execHbmScrubVisit (page burst err inner : Nat) (s : State) : Host.Outcome State Fault Refusal :=
  let h := page / 2 ^ 22
  let q := h / 2
  let div := max 2 (s.fld F.dtCtl_SCRUB_DIV q)
  if !s.hasStack h || s.stackState h = 2 || !s.flag F.dtCtl_SCRUB_EN q || s.tick.slot % 2 ^ div ≠ 0
      || 2 ≤ s.fld F.thmStat_LEVEL 0 then .next s
  else
    let s := if inner = 1 then s.count .dtStkCeCnt h 1 else if inner = 2 then s.count .dtStkUeCnt h 1 else s
    let first := page % 2 ^ 22 = 0 && burst = 0
    let s := if first then s.inPath fun p => { p with metaSeen := p.metaSeen.filter fun b => b / 2 ^ 26 != h } else s
    match err with
    | 0 => .next s
    | 1 => .next ((s.count .dtCeCnt q 1).count .dtScrubFixCnt q 1)
    | _ =>
      if page % 2 ^ 22 < 8192 then
        let s := (s.raise F.dtStat_META_UE q).dtPost q 6 page burst 0x3FFF
        let key := page * 16 + burst
        if s.path.metaSeen.contains key then .next ((s.raise F.dtStat_STACK_FAULT q).stackLost h)
        else .next (s.inPath fun p => { p with metaSeen := p.metaSeen ++ [key] })
      else if s.pageUsed page then
        let s := (s.raise F.dtStat_UE q).dtPost q 1 page burst 0x3FFF
        if s.path.badPages.contains page && s.flag F.protBoot_RUNNING 0 then
          let k := { s.ks with retiredPages := if s.ks.retiredPages.contains page then s.ks.retiredPages else s.ks.retiredPages ++ [page] }
          .next { (s.retirePage page).inPath fun p => { p with badPages := p.badPages.erase page } with ks := k }
        else .next (s.inPath fun p => { p with badPages := if p.badPages.contains page then p.badPages else p.badPages ++ [page] })
      else .next (s.retirePage page)

end Sys2Proof.Machine
end

