-- ==== Sys2Proof/Machine/Frames.lean ====
section
/-!
DEFINITION. Frames as the data path holds them: lengths and arrival, copies and their drops, the MAC's counters, and the
receive side up to dispatch (R85 to R88, R353, R354, R437, R657).
-/
namespace Sys2Proof.Machine
open Sys2Proof

/-! ### Frames -/

/-- The frame of a number. -/
def State.frame? (s : State) (id : Nat) : Option Frame := s.path.frames.find? fun f => f.id = id

/-- Change a frame. -/
def State.onFrame (s : State) (id : Nat) (g : Frame → Frame) : State :=
  s.inPath fun p => { p with frames := p.frames.map fun f => if f.id = id then g f else f }

/-- Add a frame under the next number. -/
def State.addFrame (s : State) (f : Frame) : State :=
  s.inPath fun p => { p with nextId := p.nextId + 1, frames := p.frames ++ [{ f with id := p.nextId }] }

/-- The oldest frame of a port that satisfies a test. -/
def State.oldest (s : State) (port : Nat) (ok : Frame → Bool) : Option Frame :=
  s.path.frames.find? fun f => f.port = port && f.mir.isNone && ok f

/-- Whether a frame enters whole (R657); an egress mirror copy grows with its source (R460). -/
def Frame.entersWhole (f : Frame) : Bool :=
  decide (512 ≤ f.port) && (match f.mir with
    | some m => !m.egress
    | none => true)

/-- Bytes of a frame that the MAC has received (R22, R354): whole once ended, else at the port's line rate, no more than MFS. -/
def State.received (s : State) (f : Frame) : Nat :=
  if f.ended.isSome || f.entersWhole then f.bytes.length
  else min (min f.bytes.length f.limit) (s.bytesPerSlot f.port * (s.tick.slot - f.start))

/-- A frame as the fabric carries it: the body and four bytes of FCS as received. -/
def Frame.carried (f : Frame) : List Byte := f.body ++ f.bytes.drop (f.bytes.length - 4)

/-- Bytes of the carried frame that are available (R194, R354). -/
def State.available (s : State) (f : Frame) : Nat :=
  let n := s.received f
  if f.ended.isSome || f.entersWhole then f.body.length + 4
  else n + (f.body.length + 4) - f.bytes.length

/-- The length that charges and fit tests use (R199, R229, R325): true once the frame has ended, else from its header, else
the ingress port's maximum frame. -/
def State.lenFor (s : State) (f : Frame) : Nat :=
  if f.ended.isSome || f.entersWhole then f.body.length + 4 else if f.md.hdrLenV then f.md.hdrLen else s.mfs f.port

/-- Cells of a length. -/
def cellsFor (len : Nat) : Nat := cdiv len 128

/-! ### Copies -/

/-- The copy of a frame for a destination that lies on die. -/
def State.copy? (s : State) (fid port : Nat) : Option Copy := s.path.copies.find? fun c => c.fid = fid && c.port = port

/-- Change it. -/
def State.onCopy (s : State) (fid port : Nat) (g : Copy → Copy) : State :=
  s.inPath fun p => { p with copies := p.copies.map fun c => if c.fid = fid ∧ c.port = port then g c else c }

/-- The queue of a copy (R17, R206). -/
def Copy.queue (c : Copy) : Nat := Config.queueOf c.port c.cls c.mc

/-- The copies of a queue on die, oldest first. -/
def State.queueCopies (s : State) (qu : Nat) : List Copy := s.path.copies.filter fun c => c.queue = qu

/-- Cells of a push-out victim that their beneficiary does not take (R233, R234): they are charged to its pool `b`, and go to
the walker as the victim's. -/
def State.surplus (s : State) (sl b vq : Nat) (cells : List Nat) : State :=
  let s := cells.foldl (fun s c => s.onPool sl fun p => (p.subHeld b 1).addHeld (s.desc sl c).pool 1) s
  s.toWalker sl cells vq

/-- What a copy holds goes back: cells to the walker, its reservation to its pool (R209, R230, R236). -/
def State.giveBack (s : State) (c : Copy) : State :=
  let sl := Config.sliceOf c.port
  let s := (s.unreserve sl c.pool c.resv).subCq c.queue (c.cells.length + c.resv + c.taken.length)
  (s.toWalker sl c.cells c.queue).surplus sl c.pool c.from_ c.taken

/-- Drop a copy from its queue, counted with a reason; 0 counts none. -/
def State.dropCopy (s : State) (c : Copy) (code : Nat) : State :=
  let s := s.inPath fun p => { p with copies := p.copies.filter fun x => !(x.fid = c.fid && x.port = c.port) }
  (s.giveBack c).drop c.port code

/-- Whether anything still refers to a frame. -/
def Path.inUse (p : Path) (f : Frame) : Bool :=
  p.staged.any (fun c => c.fid = f.id) || p.writeQ.any (fun w => w.2.fid = f.id) || p.copies.any (fun c => c.fid = f.id)
    || p.tx.any (fun t => match t.2.copy with
          | some c => c.fid = f.id
          | none => false)
    || p.hanks.any (fun h => h.2.recs.any fun r => r.copy.fid = f.id)
    || p.frames.any (fun g => match g.mir with
          | some m => m.frame = f.id
          | none => false)

/-- Forget the frames that are done: ended, with no copy left and no correction due. -/
def State.settle (s : State) : State :=
  s.inPath fun p => { p with frames := p.frames.filter fun f =>
    !((f.stage == .fabric || f.stage == .dead) && f.ended.isSome && f.police.isNone && !p.inUse f) }

/-! ### The MAC's counters (R353, R363) -/

/-- The size bin of a length (R363). -/
def sizeBin (n : Nat) : Nat :=
  if n ≤ 64 then 0 else if n < 128 then 1 else if n < 256 then 2 else if n < 512 then 3 else if n < 1024 then 4
  else if n ≤ 1518 then 5 else if n < 2048 then 6 else if n < 4096 then 7 else if n < 8192 then 8 else 9

/-- The kind of a DMAC: 0 unicast, 1 multicast, 2 broadcast. -/
def macKind (bs : List Byte) : Nat :=
  let d := beAt bs 0 6
  if d = 2 ^ 48 - 1 then 2 else if (d / 2 ^ 40).testBit 0 then 1 else 0

/-- A good frame received. -/
def State.rxGood (s : State) (p : Nat) (bs : List Byte) : State :=
  let s := ((s.count .macRxOkCnt p 1).count .macRxOctLo p bs.length).count .macRxSizeCnt (p * 10 + sizeBin bs.length) 1
  match macKind bs with
  | 0 => s.count .macRxUcCnt p 1
  | 1 => s.count .macRxMcCnt p 1
  | _ => s.count .macRxBcCnt p 1

/-- A good frame sent. -/
def State.txGood (s : State) (p : Nat) (bs : List Byte) : State :=
  let s := ((s.count .macTxOkCnt p 1).count .macTxOctLo p bs.length).count .macTxSizeCnt (p * 10 + sizeBin bs.length) 1
  match macKind bs with
  | 0 => s.count .macTxUcCnt p 1
  | 1 => s.count .macTxMcCnt p 1
  | _ => s.count .macTxBcCnt p 1

/-! ### Stamps (R436 to R439) -/

/-- LAT_RX and LAT_TX of a lane rate, in 1/256 ns (R439). -/
def latRx : Nat → Nat
  | 3 => 2880 | 2 => 3520 | 1 => 4160 | _ => 5440
def latTx : Nat → Nat
  | 3 => 2240 | 2 => 2560 | 1 => 2880 | _ => 3520

/-- An instant from a whorl value in 1/2^32 ns and an offset in line symbols of a lane rate (R369), in 1/256 ns, rounded to the
nearest with ties downward (R436). The symbol rates are 26.5625 · 2^rate GBd, so 425 symbols take 16 / 2^rate ns. -/
def instant (edge sym rate : Nat) : Nat :=
  let n := edge * 425 + sym * 2 ^ (4 - rate) * 2 ^ 32
  let d := 425 * 2 ^ 24
  cdiv (2 * n - d) (2 * d)

/-- The stamp of a port, moved by a latency and a signed trim (R437, R438), modulo 2^40. -/
def stampOf (base : Nat) (move : Int) : Nat := (((base : Int) + move) % (2 ^ 40 : Nat)).toNat

/-- ISTAMP (R437): `edge` is the whorl value E, `phase` PCS_CW_PHASE in 1/256 ns, `sym` the delimiter's offset in symbols. -/
def State.ingressStamp (s : State) (p edge phase sym : Nat) : Nat :=
  let r := s.laneRate p
  stampOf (instant (edge + 2 ^ 64) sym r) (toSigned 16 (s.fld F.tsPortTrim_RX_TRIM p) - latRx r - phase)

/-- ESTAMP (R438): `edge` is the whorl value S. -/
def State.egressStamp (s : State) (p edge sym : Nat) : Nat :=
  let r := s.laneRate p
  stampOf (instant (edge + 2 ^ 64) sym r) (toSigned 16 (s.fld F.tsPortTrim_TX_TRIM p) + latTx r)

/-! ### Receive (R354) -/

/-- Whether a frame's bytes still lie in the receive FIFO (R354). -/
def Frame.inFifo (f : Frame) : Bool :=
  f.mir.isNone && (f.stage == .arriving || f.stage == .control || f.stage == .ready || f.stage == .strand
    || f.stage == .complete || f.stage == .released) && f.dropped == 0

/-- Bytes a port's receive FIFO holds. -/
def State.fifoBytes (s : State) (p : Nat) : Nat :=
  (s.path.frames.filter fun f => f.port = p && f.inFifo).foldl (fun a f => a + s.received f) 0

/-- EtherType of a frame's bytes. -/
def etherType (bs : List Byte) : Nat := beAt bs 12 2

/-- Whether a port takes frames (R350): its link is up. -/
def State.linkUp (s : State) (p : Nat) : Bool := s.flag F.macLink_UP p

/-- FRAME_START (R350, R354, R359, R437): a start-of-frame delimiter reaches the MAC of front port `p`, and `bytes` follow it,
DMAC to FCS. `edge`, `phase` and `sym` place the delimiter (R437). -/
def execFrameStart (p : Nat) (bytes : List Byte) (edge phase sym : Nat) (s : State) : Host.Outcome State Fault Refusal :=
  let f : Frame := { id := 0, port := p, bytes := bytes, start := s.tick.slot, limit := s.mfs p
                     md := { istamp := s.ingressStamp p edge phase sym, iport := p } }
  if 512 ≤ p || !s.hasPort p || !s.configured p || s.hidden p then .next s
  else if s.flag F.macModeStat_SB_ACT p then .next (s.addFrame { f with stage := .detector })
  else if !s.linkUp p then .next s
  else if 32768 * s.width p < s.fifoBytes p + s.mfs p then
    .next ((((s.addFrame { f with stage := .refused }).count .macRxOvfCnt p 1).drop p 0x04).raise F.macStat_RX_OVF p)
  else .next (s.addFrame { f with stage := if etherType bytes = 0x8808 then .control else .arriving })

/-- Entries of a port's header buffer (R88). -/
def State.headerRoom (s : State) (p : Nat) : Nat := if p < 512 then 16 * s.width p else 32

/-- A port's frames that wait in its header buffer. -/
def State.waitingHeaders (s : State) (p : Nat) : Nat := (s.path.frames.filter fun f => f.port = p && f.stage == .ready).length

/-- A frame becomes ready, or is dropped when its header buffer is full (R88). -/
def State.makeReady (s : State) (f : Frame) (at_ : Nat) : State :=
  if s.headerRoom f.port ≤ s.waitingHeaders f.port then
    ((s.onFrame f.id fun f => { f with stage := .dead, dropped := 0x1B }).drop f.port 0x1B).raise F.prsStat_BACKLOG
      (Config.sliceOf f.port)
  else s.onFrame f.id fun f => { f with stage := .ready, ready := at_ }

/-- A transmit header (R448); none when it is faulty. -/
def State.txHeader (s : State) (h : List Byte) : Option TxHdr :=
  let w0 := leAt h 0 4
  let w1 := leAt h 4 4
  let w3 := leAt h 12 4
  let dest := w0 % 1024
  let en := w0.testBit 10
  if decide (2 ^ 18 ≤ w0) || decide (2 ^ 16 ≤ w1) || decide (256 ≤ w3) || (en && (decide (515 < dest) || !s.hasPort dest)) then none
  else some
    { dest := if en then some dest else none, cls := if w0.testBit 14 then some (w0 / 2 ^ 11 % 8) else none
      originIns := w0.testBit 15, corrIns := w0.testBit 16, tsReq := w0.testBit 17, cookie := w1
      istamp := leAt h 8 4 * 256 + w3 }

/-- A frame that enters whole on an internal port (R343, R353, R657): classified by the MAC, in the order of R353. `fcs` are its
last four bytes. Answers the frame's state of goodness and reason. -/
def State.enterWhole (s : State) (f : Frame) : State :=
  let body := f.bytes.take (f.bytes.length - 4)
  let fcs := f.bytes.drop (f.bytes.length - 4)
  let p := f.port
  let f := { f with ended := some s.tick.slot }
  if etherType f.bytes = 0x8808 then (s.rxGood p f.bytes).count .macRxCtrlDropCnt p 1 |>.drop p 0x07
  else if f.bytes.length < 64 then (s.count .macRxRuntCnt p 1).drop p 0x02
  else if 10240 < f.bytes.length then (s.count .macRxOversizeCnt p 1).drop p 0x03
  else if fcs ≠ fcsBytes body then
    let s := (s.count .macRxFcsErrCnt p 1).drop p 0x01
    if fcs = stompBytes body then s.count .macRxStompCnt p 1 else s
  else (s.rxGood p f.bytes).addFrame f

/-- A frame with a faulty transmit header is dropped as it becomes ready: no strand, no sequence number (R448). -/
def State.refuseHeader (s : State) (f : Frame) : State :=
  ((s.onFrame f.id fun f => { f with stage := .dead, dropped := 0x14 }).drop f.port 0x14).settle

/-- FRAME_READY (R448, R657): on a front port, the oldest frame whose parse window has been received 15 slots ago; on port 512, 514
or 515, the oldest frame that has entered; on port 513, the frame `fw` that firmware sends, transmit header first. -/
def execFrameReady (p : Nat) (fw : List Byte) (s : State) : Host.Outcome State Fault Refusal :=
  if p = 513 then
    if !s.flag F.protBoot_RUNNING 0 then .next s
    else
      let h := s.txHeader (fw.take 16)
      let body := fw.drop 16
      let body := body ++ List.replicate (60 - body.length) 0
      let id := s.path.nextId
      let s := s.enterWhole { id := 0, port := 513, bytes := body ++ fcsBytes body, start := s.tick.slot, tx := h
                              md := { iport := 513 } }
      match s.frame? id with
      | some f => .next (if h.isSome then s.makeReady f s.tick.slot else s.refuseHeader f)
      | none => .next s
  else
    match s.oldest p fun f => f.stage == .arriving with
    | none => .next s
    | some f =>
      if f.entersWhole then .next (if f.start < s.tick.slot then s.makeReady f s.tick.slot else s)
      else
        let at_ := f.start + cdiv (min 256 f.bytes.length) (s.bytesPerSlot p) + 15
        if s.tick.slot < at_ || f.bytes.length < 64 then .next s else .next (s.makeReady f at_)

/-! ### Dispatch (R85 to R88) -/

/-- The configuration that governs a frame from its dispatch (R72). -/
def State.snapOf (s : State) (p : Nat) : Snap :=
  { portcfg := (s.reg .prsPortcfg p).toNat, portprof := (s.reg .prsPortprof p).toNat, mode := (s.reg .macMode p).toNat
    learn := s.fld F.tbPortLearn_MODE (Config.quadOf p * 516 + p), inMask := s.fld F.mirPortSrc_IN_MASK p
    domLo := (s.reg .tsPortDomLo p).toNat, domHi := (s.reg .tsPortDomHi p).toNat, domEn := s.fld F.tsPortDomEn_EN p }

/-- The requester numbers of a slice's ports, with the port of each (R86, R87). -/
def State.dispatchPorts (s : State) (sl : Nat) : List (Nat × Nat) :=
  let lanes := (List.range 16).filterMap fun k => (s.ownerOfLane (sl * 16 + k)).map fun p => (k, p)
  lanes ++ (if sl = 0 then [(16, 512), (17, 512), (18, 513), (19, 513)] else if sl = 1 then [(16, 514), (17, 514)]
    else if sl = 2 then [(16, 515), (17, 515)] else [])

/-- The headers presented in a slot, in rotation order (R86, R87): each port puts its oldest ready headers on those of its numbers
that come first. -/
def presentOn : List Nat → List (Nat × Frame) → List Frame
  | [], _ => []
  | p :: t, fs =>
    match fs.find? fun e => e.1 = p with
    | some e => e.2 :: presentOn t (fs.erase e)
    | none => presentOn t fs

/-- HEADER_DISPATCH (R85 to R88): the dispatcher of a slice grants up to eight headers, once in a slot. -/
def execHeaderDispatch (sl : Nat) (s : State) : Host.Outcome State Fault Refusal :=
  if !s.hasSlice sl || s.path.ranNow.contains (67, sl) then .next s
  else
    let s := s.inPath fun p => { p with ranNow := p.ranNow ++ [(67, sl)] }
    let nums := s.dispatchPorts sl
    let order := ((List.range 20).map fun k => (s.rrPointer 20 + k) % 20).filterMap fun n =>
      (nums.find? fun e => e.1 = n).map (·.2)
    let ready := (s.path.frames.filter fun f => f.stage == .ready && decide (f.ready ≤ s.tick.slot)).map fun f => (f.port, f)
    let shown := presentOn order ready
    let s := if 8 < shown.length then s.count .prsDispSat sl 1 else s
    .next ((shown.take 8).zipIdx.foldl (fun s e =>
      let seq := Table.get (fun _ => 0) s.path.seqs e.1.port
      let s := s.inPath fun p => { p with seqs := Table.set (fun _ => 0) p.seqs e.1.port ((seq + 1) % 65536) }
      s.onFrame e.1.id fun f => { f with
        stage := .strand, strand := e.2, dispatched := s.tick.slot, snap := s.snapOf f.port
        md := { f.md with seq := seq, istamp := if f.port = 512 ∨ f.port = 513 then s.whorl256 else f.md.istamp } }) s)

end Sys2Proof.Machine
end

