-- ==== Sys2Proof/Machine/Mirror.lean ====
section
/-!
DEFINITION. Mirroring (R457 to R470): the sessions, the bytes of a copy, the session buckets, and the commands.
-/
namespace Sys2Proof.Machine
open Sys2Proof

/-! ### Network time of a stamp (R411, R447, R449) -/

/-- Whether the whorl has wrapped between a stamp and now, either way: the stamp is then within 2^31 ns across the wrap. -/
def State.acrossWrap (s : State) (stamp : Nat) : Bool :=
  let st := stamp / 256 % 2 ^ 32
  decide (st + 2 ^ 31 ≤ s.whorlNs) || decide (s.whorlNs + 2 ^ 31 ≤ st)

/-- The wrap parity at a stamp's instant. -/
def State.parityAt (s : State) (stamp : Nat) : Bool := s.time.parity != s.acrossWrap stamp

/-- Network time of a stamp in whole ns: the base active at its instant, plus its ns. -/
def State.netOf (s : State) (stamp : Nat) : Nat :=
  (if s.parityAt stamp then s.time.odd else s.time.even).total + stamp / 256 % 2 ^ 32

/-! ### The content of a copy (R462 to R465) -/

/-- The destination ports of a session in a quadrant (R463). -/
def State.mirDests (s : State) (m q : Nat) : List Nat :=
  let d := s.fld F.mirSessCfg_DEST m
  if s.fld F.mirSessCfg_KIND m = 1 then portsOf (Table.get (fun _ => 0) s.tab.repl (q * 16384 + d)) else [d]

/-- Bytes that a copy has beyond the copied ones (R462, R464): the FCS, and for a remote copy its headers. -/
def State.mirOverhead (s : State) (m : Nat) : Nat :=
  let tag := if s.fld F.mirEncL3_VID m = 0 then 0 else 4
  match s.fld F.mirSessCfg_KIND m with
  | 2 => 70 + tag
  | 3 => 90 + tag
  | _ => 4

/-- The bytes copied of a frame of length `len` (R462). -/
def State.mirBytes (s : State) (m q len : Nat) : Nat :=
  let t := s.fld F.mirSessTrunc_TRUNC_LEN m
  let room := (s.mirDests m q).foldl (fun a p => min a (s.mfs p)) 10240 - s.mirOverhead m
  let c := min (len - 4) room
  if t = 0 then c else min c t

/-- The mirror header (R465). -/
def State.mirHeader (s : State) (m q port len c cls reason : Nat) (egress : Bool) (stamp seq : Nat) : List Byte :=
  let v := s.netValid
  let n := s.netOf stamp
  [byte (16 + 8 * b2n egress + 4 * b2n (decide (c < len - 4)) + 2 * b2n (reason != 0) + b2n v), byte (m * 32 + cls * 4)]
    ++ beBytes 2 (s.fld F.glbDevid_DEVID 0 * 16 + q * 4) ++ beBytes 2 port ++ [byte reason, 0] ++ beBytes 2 len ++ beBytes 2 seq
    ++ (if v then beBytes 6 (n / 1000000000) ++ beBytes 4 (n % 1000000000) ++ [byte stamp]
        else beBytes 6 0 ++ beBytes 4 0xFFFFFFFF ++ [0])
    ++ [0]

/-- Fold a ones-complement sum to 16 bits. -/
def foldSum (n : Nat) : Nat :=
  let n := n % 65536 + n / 65536
  n % 65536 + n / 65536

/-- The remote encapsulation of a payload (R464), without the FCS. -/
def State.mirEncap (s : State) (m : Nat) (payload : List Byte) : List Byte :=
  let dmac := beBytes 2 (s.fld F.mirEncDmacHi_ADDR m) ++ beBytes 4 (s.fld F.mirEncDmacLo_ADDR m)
  let smac := beBytes 2 (s.fld F.mirEncSmacHi_ADDR m) ++ beBytes 4 (s.fld F.mirEncSmacLo_ADDR m)
  let vid := s.fld F.mirEncL3_VID m
  let tag := if vid = 0 then [] else beBytes 2 0x8100 ++ beBytes 2 (s.fld F.mirSessCfg_CLASS m * 8192 + vid)
  let dscp := s.fld F.mirEncL3_DSCP m
  let ttl := s.fld F.mirEncL3_TTL m
  let udpLen := 8 + payload.length
  let ports := beBytes 2 (s.fld F.mirEncUdp_SPORT m) ++ beBytes 2 (s.fld F.mirEncUdp_DPORT m) ++ beBytes 2 udpLen
  if s.fld F.mirSessCfg_KIND m = 2 then
    let head := fun sum => [byte 0x45, byte (dscp * 4)] ++ beBytes 2 (20 + udpLen) ++ [0, 0, byte 0x40, 0, byte ttl, 17]
      ++ beBytes 2 sum ++ beBytes 4 (s.fld F.mirEncSip_ADDR (m * 4)) ++ beBytes 4 (s.fld F.mirEncDip_ADDR (m * 4))
    dmac ++ smac ++ tag ++ beBytes 2 0x0800 ++ head (65535 - onesSum (head 0)) ++ ports ++ [0, 0] ++ payload
  else
    let words := fun f => (List.range 4).flatMap fun w => beBytes 4 (s.fld f (m * 4 + w))
    let sip := words F.mirEncSip_ADDR
    let dip := words F.mirEncDip_ADDR
    let sum := onesSum (sip ++ dip ++ beBytes 4 udpLen ++ [0, 0, 0, 17] ++ ports ++ [0, 0] ++ payload)
    let ck := 65535 - foldSum sum
    dmac ++ smac ++ tag ++ beBytes 2 0x86DD ++ [byte (0x60 + dscp / 4), byte (dscp % 4 * 64), 0, 0] ++ beBytes 2 udpLen
      ++ [17, byte ttl] ++ sip ++ dip ++ ports ++ beBytes 2 (if ck = 0 then 0xFFFF else ck) ++ payload

/-! ### Buckets (R466) -/

/-- The bucket of a session in a quadrant. -/
def State.mirBucket (s : State) (q m : Nat) : MirBucket := Table.get (fun _ => {}) s.path.mirBuckets (q * 8 + m)
def State.setMirBucket (s : State) (q m : Nat) (b : MirBucket) : State :=
  s.inPath fun p => { p with mirBuckets := Table.set (fun _ => {}) p.mirBuckets (q * 8 + m) b }

/-- Charge `len` bytes to a session's bucket (R466): the state, and whether the copy is made. -/
def State.mirCharge (s : State) (q m len : Nat) : State × Bool :=
  let rate := min (2 ^ 24) (s.fld F.mirSessRate_RATE m)
  if rate = 0 then (s, true)
  else
    let b := s.mirBucket q m
    let have_ := min (b.tokens + rate * (s.tick.slot - b.last)) (s.fld F.mirSessBurst_BURST m * 65536)
    let ok := decide (len * 65536 ≤ have_)
    (s.setMirBucket q m { b with tokens := if ok then have_ - len * 65536 else have_, last := s.tick.slot }, ok)

/-- Make a mirror copy (R457 to R466) of frame `f` by session `m`: the copied frame's `bytes` before its FCS, its length with FCS,
its class and stamp, and the drop code of a frame dropped in its strand. The copy becomes a frame of its own; none is made
when the bucket is short. Answers the number of the new frame. -/
def State.mirCopy (s : State) (f : Frame) (m port : Nat) (bytes : List Byte) (len reason : Nat) (egress : Bool) (stamp : Nat) :
    State × Option Nat :=
  let q := Config.quadOf port
  let remote := decide (2 ≤ s.fld F.mirSessCfg_KIND m)
  let c := s.mirBytes m q len
  let total := c + s.mirOverhead m
  let r := s.mirCharge q m total
  if !r.2 then
    ((((r.1.count .mirRateDropCnt (q * 8 + m) 1).drop port 0x50).raise F.mirStat_RATE 0), none)
  else
    let s := r.1
    let b := s.mirBucket q m
    let s := if remote then s.setMirBucket q m { b with seq := (b.seq + 1) % 65536 } else s
    let s := s.count .mirCopyCnt (q * 8 + m) 1
    let s := if c < len - 4 then s.count .mirTruncCnt (q * 8 + m) 1 else s
    let copied := bytes.take c
    let content := if remote
      then s.mirEncap m (s.mirHeader m q port len c f.md.cls reason egress stamp b.seq ++ copied) else copied
    let id := s.path.nextId
    let hl := s.mirBytes m q f.md.hdrLen + s.mirOverhead m
    let md : Meta := { iport := port, cls := s.fld F.mirSessCfg_CLASS m, hdrLen := hl
                       hdrLenV := f.md.hdrLenV && !egress, hash := f.md.hash, dest := s.fld F.mirSessCfg_DEST m }
    let g : Frame := { id := 0, port := port, bytes := content ++ fcsBytes content, md := md, stage := .released
                       start := if egress then s.tick.slot else f.start, ended := if egress then none else f.ended, released := s.tick.slot, body := content
                       dests := (s.mirDests m q).map fun p => (p, true)
                       mir := some { session := m, frame := f.id, egress := egress, port := port, quad := q } }
    (s.addFrame g, some id)

/-- The sessions that make an ingress copy of a frame (R457, R459). -/
def State.mirIngress (s : State) (f : Frame) : List Nat :=
  if !f.snap.mode.testBit 7 then []
  else (List.range 8).filter fun m => s.flag F.mirSessCfg_VALID m && (f.snap.inMask.testBit m || f.md.mir.testBit m)
    && (f.dropped == 0 || s.fld F.mirSessCfg_POINT m == 0)

/-- Make a frame's ingress copies at its release (R459, R462): bytes as received. -/
def State.mirrorIn (s : State) (f : Frame) : State :=
  (s.mirIngress f).foldl (fun s m =>
    (s.mirCopy f m f.port (f.bytes.take (f.bytes.length - 4)) f.bytes.length f.dropped false f.md.istamp).1) s

/-! ### Commands (R469, R470) -/

/-- Words 127 to 96 down to 31 to 0 of an outer address, into a session's registers. -/
def State.setMirAddr (s : State) (r : Reg) (m v : Nat) : State :=
  (List.range 4).foldl (fun s w => s.setReg r (m * 4 + w) (word (v / 2 ^ (96 - 32 * w)))) s

/-- MIR_SESSION_SET (R469): session, VALID, KIND, POINT, CLASS, DEST, TRUNC_LEN, RATE, BURST, and for KIND 2 or 3 DMAC, SMAC,
VID, SIP, DIP, DSCP, TTL, SPORT, DPORT. -/
def execMirSessionSet (p : Packet) (s : State) : Host.Outcome State Fault Refusal :=
  runPacket 0x0A00 p (fun a s =>
    let m := a.n 0
    let kind := a.n 2
    let dest := a.n 5
    let t := a.n 6
    let remote := decide (2 ≤ kind)
    guarded s
      [ (a.bad || decide (7 < m) || decide (3 < kind) || decide (1 < a.n 3) || (t != 0 && (decide (t < 64) || decide (10240 < t)))
          || (kind != 1 && decide (515 < dest)), .paramInvalid),
        (kind == 1 && decide (16384 ≤ dest), .indexRange), (kind != 1 && !s.hasPort dest, .resourceAbsent),
        (remote && (decide (512 ≤ dest) || a.n 11 == 4095 || a.n 15 == 0 || a.n 17 == 0), .paramInvalid),
        (decide (2 ^ 24 < a.n 7) || decide (2 ^ 24 ≤ a.n 8), .rateInvalid) ]
      (let cfg := b2n (a.f 1) * 2 ^ 31 + kind * 2 ^ 28 + a.n 3 * 2 ^ 24 + a.n 4 * 2 ^ 20 + dest
       let s := (((s.setReg .mirSessCfg m (word cfg)).setReg .mirSessTrunc m (word t)).setReg .mirSessRate m (word (a.n 7))).setReg
         .mirSessBurst m (word (a.n 8))
       let s := if !remote then s
         else
           let sh := if kind = 2 then 2 ^ 96 else 1
           let s := (s.setReg .mirEncDmacHi m (word (a.n 9 / 2 ^ 32))).setReg .mirEncDmacLo m (word (a.n 9))
           let s := (s.setReg .mirEncSmacHi m (word (a.n 10 / 2 ^ 32))).setReg .mirEncSmacLo m (word (a.n 10))
           let s := (s.setReg .mirEncL3 m (word (a.n 15 * 2 ^ 24 + a.n 14 * 2 ^ 16 + a.n 11))).setReg .mirEncUdp m
             (word (a.n 16 * 65536 + a.n 17))
           (s.setMirAddr .mirEncSip m (a.n 12 * sh)).setMirAddr .mirEncDip m (a.n 13 * sh)
       Res.ok s [])) s

/-- The holding image of a counter register (R472). -/
def State.image (s : State) (r : Reg) (i : Nat) : Nat := (s.reg r i).toNat

/-- MIR_SESSION_GET (R469): the session, and its counters summed over the quadrants. -/
def execMirSessionGet (p : Packet) (s : State) : Host.Outcome State Fault Refusal :=
  runPacket 0x0A01 p (fun a s =>
    let m := a.n 0
    let sum := fun r => (List.range 4).foldl (fun n q => n + s.image r (q * 8 + m)) 0
    let ip := fun f => (List.range 4).foldl (fun n w => n * 2 ^ 32 + s.fld f (m * 4 + w)) 0
    let kind := s.fld F.mirSessCfg_KIND m
    let addr := fun f => if kind = 2 then (Ty.ip4, ip f / 2 ^ 96) else (Ty.ip6, ip f)
    let outer : List (Ty × Nat) := if kind < 2 then [] else
      [ (.mac, s.fld F.mirEncDmacHi_ADDR m * 2 ^ 32 + s.fld F.mirEncDmacLo_ADDR m),
        (.mac, s.fld F.mirEncSmacHi_ADDR m * 2 ^ 32 + s.fld F.mirEncSmacLo_ADDR m), (.u 12, s.fld F.mirEncL3_VID m),
        addr F.mirEncSip_ADDR, addr F.mirEncDip_ADDR, (.u 6, s.fld F.mirEncL3_DSCP m), (.u 8, s.fld F.mirEncL3_TTL m),
        (.u 16, s.fld F.mirEncUdp_SPORT m), (.u 16, s.fld F.mirEncUdp_DPORT m) ]
    guarded s [(a.bad || decide (7 < m), .paramInvalid)]
      (Res.ok s ([ (.flag, s.fld F.mirSessCfg_VALID m), (.u 8, kind), (.u 8, s.fld F.mirSessCfg_POINT m),
        (.u 3, s.fld F.mirSessCfg_CLASS m), (.u 16, s.fld F.mirSessCfg_DEST m), (.u 14, s.fld F.mirSessTrunc_TRUNC_LEN m),
        (.u 32, s.fld F.mirSessRate_RATE m), (.u 32, s.fld F.mirSessBurst_BURST m) ] ++ outer
        ++ [(.u 64, sum .mirCopyCnt), (.u 64, sum .mirRateDropCnt), (.u 64, sum .mirTruncCnt)]))) s

/-- MIR_PORT_SET (R470): port, IN_MASK, EG_MASK. -/
def execMirPortSet (p : Packet) (s : State) : Host.Outcome State Fault Refusal :=
  runPacket 0x0A02 p (fun a s =>
    guarded s [(!s.hasPort (a.n 0), .resourceAbsent), (s.hidden (a.n 0), .lanesInUse), (a.bad, .paramInvalid)]
      (Res.ok (s.setReg .mirPortSrc (a.n 0) (word (a.n 2 * 256 + a.n 1))) [])) s

end Sys2Proof.Machine
end

