-- ==== Sys2Proof/Machine/Strand.lean ====
section
/-!
DEFINITION. The strand (R89 to R108, R179 to R184): the forwarding decision of a frame, its rewrite, and its completion; and
the correction of policed frames (R103).
-/
namespace Sys2Proof.Machine
open Sys2Proof

/-! ### What a strand decides -/

/-- The decision of a strand as it grows: the state, the frame's metadata and bytes before the FCS, a drop code or 0, the
destination ports, whether COPY or COPY_CPU adds port 513, whether learning still applies, and the slots of its latency. -/
structure Decision where
  state : State
  md : Meta
  body : List Byte
  code : Nat := 0
  dests : List Nat := []
  copy : Bool := false
  learn : Bool := true
  latency : Nat := 100
  police : Option (Nat × Nat × Nat × Nat) := none

/-- Drop the frame. -/
def Decision.drop (d : Decision) (code : Nat) : Decision := { d with code := code, dests := [], copy := false }

/-- Drop the frame in a step after which it is not learned. -/
def Decision.dropEarly (d : Decision) (code : Nat) : Decision := { d.drop code with learn := false }

/-- What the error codes find in the strand's read of a memory: 0 nothing, 1 corrected, 2 uncorrectable. `which` is 0 for the
classification action, 1 the destination address, 2 the source address, 3 the policer, 4 the prefix result, 5 the next hop,
6 the group, 7 the member, 8 the ingress interface, 9 the egress interface. -/
def foundIn (faults : List (Nat × Nat)) (which : Nat) : Nat :=
  match faults.find? fun f => f.1 = which with
  | some f => f.2
  | none => 0

/-! ### Class and flow hash (R98, R182) -/

/-- The class that trust gives a frame (R98, rules 2 to 5). -/
def State.trustClass (s : State) (q : Nat) (p : Parsed) (cfg pcp : Nat) : Nat :=
  let trust := cfg / 2 ^ 21 % 4
  let m := cfg / 2 ^ 23 % 4
  let byPcp := (s.reg .clsPcpMap (q * 4 + m)).toNat >>> (3 * pcp) % 8
  let byDscp := (s.reg .clsDscpMap ((q * 4 + m) * 8 + p.dscp / 8)).toNat >>> (3 * (p.dscp % 8)) % 8
  let ip := p.l3 != 0
  let tagged := decide (1 ≤ p.tags)
  if trust = 1 && tagged then byPcp
  else if (trust = 2 || trust = 3) && ip then byDscp
  else if trust = 3 && tagged then byPcp
  else cfg / 2 ^ 18 % 8

/-- An address in the 16 bytes of the hash vector (R182). -/
def hashAddr (p : Parsed) (a : Nat) : List Byte := if p.l3 = 4 then beBytes 4 a ++ List.replicate 12 0 else beBytes 16 a

/-- The flow hash H (R182). -/
def State.flowHash (s : State) (q : Nat) (p : Parsed) (port : Nat) : Nat :=
  let on := fun (f : Fld) (bs : List Byte) => if s.flag f q then bs else List.replicate bs.length 0
  crc32c (s.fld F.fwdEcmpSeed_SEED q)
    (on F.fwdEcmpCfg_SIP_EN (hashAddr p p.sip) ++ on F.fwdEcmpCfg_DIP_EN (hashAddr p p.dip) ++ on F.fwdEcmpCfg_PROTO_EN [byte p.proto]
      ++ [0] ++ on F.fwdEcmpCfg_L4SRC_EN (beBytes 2 p.sport) ++ on F.fwdEcmpCfg_L4DST_EN (beBytes 2 p.dport)
      ++ on F.fwdEcmpCfg_IPORT_EN (leBytes 2 port))

/-! ### Layer 3 (R162 to R164, R178 to R184) -/

/-- The ingress interface of a frame (R163): its number, 0 for none. -/
def State.ingressRif (s : State) (q port vid : Nat) : Nat :=
  if s.portRif q port = 0 then s.vidRif q vid else s.portRif q port

/-- An interface as the data plane reads it: a lost one is not VALID (R178). -/
def State.liveRif (s : State) (q i : Nat) : Rif := if s.isLost 6 q i then {} else s.rifAt q i

/-- FLAGS.RTR_DMAC (R164). -/
def State.routerDmac (s : State) (q i : Nat) (p : Parsed) (route : Bool) : Bool :=
  let r := s.liveRif q i
  route && !p.err && r.valid && ((p.l3 == 4 && r.v4) || (p.l3 == 6 && r.v6)) && p.dmac == r.mac

/-- A read of a layer-3 table entry meets an error (R178); nothing for severity 0. -/
def State.l3Read (s : State) (q table idx sev : Nat) : State :=
  if sev = 0 then s else s.l3Error q table idx (sev + 1)

/-- The rewrite of a routed frame's header (R184). -/
def rewriteL3 (p : Parsed) (bs : List Byte) (dmac smac egVid cls : Nat) : List Byte :=
  let tag := if egVid = 0 then [] else beBytes 2 0x8100 ++ beBytes 2 (cls * 8192 + egVid)
  let ip := bs.drop p.l3off
  let ip := if p.l3 = 4 then
      let old := beAt ip 8 2
      patch (patch ip 8 (beBytes 1 (p.ttl - 1))) 10 (beBytes 2 (rfc1624 (beAt ip 10 2) old (old - 256)))
    else patch ip 7 (beBytes 1 (p.ttl - 1))
  beBytes 6 dmac ++ beBytes 6 smac ++ tag ++ beBytes 2 p.etype ++ ip

/-- Send a routed frame to port 512 unchanged, with its CAUSE (R101, R179, R559). -/
def Decision.toHost (d : Decision) (q cause : Nat) : Decision :=
  { d with dests := [512], md := { d.md with cause := cause }, state := d.state.count .fwdL3TrapCnt q 1 }

/-- Steps 5 to 8 of R179: the next hop acts. -/
def Decision.nextHop (d : Decision) (q nh : Nat) (p : Parsed) (faults : List (Nat × Nat)) : Decision :=
  let s := d.state.l3Read q 3 nh (foundIn faults 5)
  let d := { d with state := s }
  let h := if s.isLost 3 q nh then ({} : NextHop) else s.nhAt q nh
  if foundIn faults 5 = 2 then d.drop 0x22
  else match h.kind with
    | 0 => d.drop 0x1F
    | 2 => d.toHost q 3
    | 3 => d.drop 0x20
    | _ =>
      let s := d.state.l3Read q 6 h.rif (if h.rif = 0 then 0 else foundIn faults 9)
      let d := { d with state := s }
      let r := s.liveRif q h.rif
      if h.rif != 0 && foundIn faults 9 == 2 then d.drop 0x22
      else if !r.valid then d.drop 0x1F
      else if r.mtu < p.pktLen then if r.mtuTrap then d.toHost q 2 else d.drop 0x21
      else
        let delta := fun n => n + (if r.egVid = 0 then 0 else 4) - 4 * p.tags
        let m := d.md
        let md := { m with
          routed := true, dest := h.port, hdrLen := delta m.hdrLen, cfOff := if m.cfOff = 0 then 0 else delta m.cfOff
          uckOff := if m.uckOff = 0 then 0 else delta m.uckOff }
        { d with md := md, dests := [h.port], body := rewriteL3 p d.body h.dmac r.mac r.egVid m.cls
                 state := d.state.count .fwdRoutedCnt q 1 }

/-- Layer-3 forwarding (R101 step 9, R179). `vrf` is the ingress interface's. -/
def Decision.route (d : Decision) (q vrf : Nat) (p : Parsed) (bs : List Byte) (faults : List (Nat × Nat)) : Decision :=
  let d := { d with latency := d.latency + 8 }
  if p.l3 = 4 && !p.ip4Good bs then d.drop 0x15
  else if p.ttl ≤ 1 then
    if d.state.flag F.prsCtl_TTL_TRAP (Config.sliceOf d.md.iport) then d.toHost q 1 else d.drop 0x16
  else
    match d.state.pfxSearch q (p.l3 == 6) vrf p.dip with
    | none => d.drop 0x17
    | some (b, i, e) =>
      let d := if e.half = 2 then { d with latency := d.latency + 4 } else d
      let sev := foundIn faults 4
      let d := if sev = 0 then d else { d with state := d.state.pfxError q b i (sev + 1) }
      if sev = 2 then d.drop 0x22
      else if !e.group then d.nextHop q e.idx p faults
      else
        let s := d.state.l3Read q 4 e.idx (foundIn faults 6)
        let g := if s.isLost 4 q e.idx then ({} : EcmpGroup) else s.groupAt q e.idx
        let d := { d with state := s }
        if foundIn faults 6 = 2 then d.drop 0x22
        else if g.size = 0 then d.drop 0x1F
        else
          let k := (g.base + d.md.hash / 65536 * g.size / 65536) % 65536
          let s := s.l3Read q 5 k (foundIn faults 7)
          let d := { d with state := s, latency := d.latency + 2 }
          if foundIn faults 7 = 2 then d.drop 0x22
          else if s.isLost 5 q k then d.drop 0x1F
          else d.nextHop q (s.memberAt q k) p faults

/-! ### Layer 2 (R125, R128 to R130) -/

/-- The ports of a replication set without the ingress port (R205). -/
def State.replPorts (s : State) (q i port : Nat) : List Nat :=
  (portsOf (s.presentMask (Table.get (fun _ => 0) s.tab.repl (q * 16384 + i)))).filter (· != port)

/-- A lookup meets an error in the entry it hits (R123): the state, and what the lookup finds. -/
def State.addrRead (s : State) (q key sev : Nat) : State × Option (Nat × AddrEnt) :=
  match s.lookupAddr q key with
  | none => (s, none)
  | some (pos, e) =>
    match sev with
    | 0 => (s, some (pos, e))
    | 1 => (s.addrCorrected q pos, some (pos, e))
    | _ => (s.addrError q pos, none)

/-- Layer-2 forwarding (R128). -/
def Decision.bridge (d : Decision) (q : Nat) (v : VlanEnt) (fid : Nat) (p : Parsed) (faults : List (Nat × Nat)) : Decision :=
  let port := d.md.iport
  let r := d.state.addrRead q (addrKey fid p.dmac) (foundIn faults 1)
  let s := match r.2 with
    | some (pos, _) => if r.1.flag F.tbAgeCfg_DA_REFRESH q then r.1.setHit q pos else r.1
    | none => r.1
  let d := { d with state := s }
  let group := (p.dmac / 2 ^ 40).testBit 0
  let flood := fun (d : Decision) set ports =>
    if ports = [] then d.drop 0x1C else { d with dests := ports, md := { d.md with dest := set } }
  match r.2 with
  | some (_, e) =>
    let d := { d with copy := d.copy || e.copyCpu }
    if e.isSet then flood d e.dest (s.replPorts q e.dest port)
    else if e.dest = port then d.drop 0x18
    else { d with dests := [e.dest], md := { d.md with dest := e.dest } }
  | none =>
    if !v.valid then d.drop 0x1C
    else
      let set := if group then v.floodMc else v.floodUc
      let d := flood d set (s.replPorts q set port)
      if d.code = 0 then { d with state := d.state.count (if group then .fwdFloodMcCnt else .fwdFloodUcCnt) q 1 } else d

/-! ### Policing (R101 step 12, R102, R106, R107) -/

/-- Police a frame with policer `i` of quadrant `q`: `len` is the length of R103, `whole` whether the frame has ended, `pre` its
pre-colour. -/
def Decision.policed (d : Decision) (q i len pre : Nat) (whole : Bool) (sev : Nat) : Decision :=
  let s := if sev = 0 then d.state else d.state.polError q i (sev == 2)
  let r := (s.polAt q i).eval s.tick.slot len pre
  let s := (s.setPol q i r.2).polCount q i r.1 (if whole then len else 0) 1
  let m := { d.md with colour := r.1 }
  let m := if r.1 != 1 then m else if r.2.yellowAct = 1 then { m with dei := true }
    else if r.2.yellowAct = 2 then { m with dscp := 64 + r.2.yellowDscp } else m
  let d := { d with state := s, md := m, police := if whole then none else some (q, i, r.1, len) }
  if r.1 = 2 && r.2.redAct = 0 then d.drop 0x1A else d

/-! ### The decision (R101) -/

/-- Whether an event message's domain is terminated on its port (R446). -/
def Snap.terminates (n : Snap) (dom : Nat) : Bool :=
  (List.range 8).any fun k => n.domEn.testBit k && (n.domLo + n.domHi * 2 ^ 32) / 2 ^ (8 * k) % 256 == dom

/-- Whether PRS_PORTCFG.ACCEPT refuses a frame's tagging (R101 step 3). -/
def tagRefused (accept tags vid : Nat) : Bool :=
  (accept == 1 && (tags == 0 || vid == 0)) || (accept == 2 && tags != 0 && vid != 0)

/-- Steps 7 to 12 of R101 for a frame that no earlier step dropped or terminated. -/
def Decision.forward (d : Decision) (f : Frame) (q vid : Nat) (p : Parsed) (rtr : Bool) (vrf : Nat) (rifLost : Bool)
    (hit : Option (Nat × Nat)) (faults : List (Nat × Nat)) (len : Nat) : Decision :=
  let port := d.md.iport
  let rsvd := if p.dmac / 16 = 0x0180C200000 then d.state.fld F.prsCtl_RSVD_ACT (Config.sliceOf port) else 0
  let v := d.state.vlanAt q vid
  let fid := if v.valid then v.fid else vid
  let act := match hit with
    | some (_, a) => a
    | none => 0
  let sev := if hit.isSome then foundIn faults 0 else 0
  let s := match hit with
    | some (i, _) => if sev = 0 then d.state else d.state.clsErr q i (sev + 1)
    | none => d.state
  let d := { d with state := s }
  let noLearn := rsvd < 2 && sev < 2 && act.testBit 53
  let trap := rsvd == 1 || act.testBit 5
  let one := fun (d : Decision) port => { d with dests := [port], md := { d.md with dest := port } }
  let d :=
    if 2 ≤ rsvd then d.drop 0x1D
    else if sev = 2 then d.drop 0x1E
    else
      let d := { d with
        copy := act.testBit 6
        md := { d.md with
          mir := actField act 37 8, tsReq := d.md.tsReq || act.testBit 45
          dscp := if act.testBit 46 then 64 + actField act 47 6 else 0 } }
      if act.testBit 4 then d.drop 0x14
      else if trap then one d 513
      else match f.tx.bind (·.dest) with
        | some t => one d t
        | none =>
          if act.testBit 7 then one d (actField act 8 10)
          else if rifLost then d.drop 0x22
          else if rtr then d.route q vrf p f.bytes faults
          else d.bridge q v fid p faults
  let src := d.state.addrRead q (addrKey fid p.smac) (foundIn faults 2)
  let d := { d with state := src.1.learnDecision q port fid p.smac (!noLearn && v.valid && v.learn) f.snap.learn }
  if d.code = 0 && f.snap.mode.testBit 9 && act.testBit 20 then
    let pre := actField act 18 2
    d.policed q (actField act 21 16) len (if pre = 3 then b2n p.dei else pre) f.ended.isSome (foundIn faults 3)
  else d

/-- The whole decision of a strand (R101), with its latency (R108). -/
def State.strand (s : State) (f : Frame) (faults : List (Nat × Nat)) : Decision :=
  let port := f.port
  let q := Config.quadOf port
  let sl := Config.sliceOf port
  let cfg := f.snap.portcfg
  let len := f.bytes.length
  let p := parseFrame (s.fld F.prsTpid_OUTER sl) (s.fld F.prsTpid_INNER sl) len f.bytes
  let s := if p.err then s.raise F.prsStat_PERR sl else if p.trunc then s.raise F.prsStat_TRUNC sl else s
  let s := if p.noCf && !p.err then (s.raise F.tsStpStat_NO_CF 0).count .tsNoCfCnt 0 1 else s
  let vid := if p.tags = 0 || p.vid = 0 then cfg % 4096 else p.vid
  let pcp := if p.tags = 0 then cfg / 2 ^ 12 % 8 else p.pcp
  let route := f.snap.mode.testBit 6
  let rif := s.ingressRif q port vid
  let readRif := route && p.l3 != 0 && rif != 0
  let rifSev := if readRif then foundIn faults 8 else 0
  let s := s.l3Read q 6 rif rifSev
  let rtr := s.routerDmac q rif p route
  let vrf := if rtr then (s.liveRif q rif).vrf else 0
  let kt := p.keyType (f.snap.portprof.testBit 8)
  let hit := s.clsSearch q kt (p.key kt (f.snap.portprof % 256) (p.flags rtr) vrf vid pcp)
  let tx := f.tx.getD {}
  let clsAct := match hit with
    | some (_, a) => if a.testBit 3 && foundIn faults 0 != 2 then some (a % 8) else none
    | none => none
  let cls := match tx.cls, clsAct with
    | some c, _ => c
    | none, some c => c
    | none, none => s.trustClass q p cfg pcp
  let m : Meta := { f.md with
    iport := port, cls := cls, hdrLen := p.hdrLen, hdrLenV := p.hdrLenV && !p.err, ptpEv := p.ptpEv && !p.err
    ptpDom := p.ptpDom, ptpType := p.ptpType, cfOff := if p.ptpEv then p.ptpOff + 8 else 0
    uckOff := if p.ptpEv && p.l4 = 17 then p.l4off + 6 else 0, originIns := tx.originIns, corrIns := tx.corrIns
    hdrIstamp := tx.istamp, cookie := tx.cookie, tsReq := tx.tsReq, hash := s.flowHash q p port }
  let d : Decision := { state := s, md := m, body := f.bytes.take (len - 4)
                        latency := 100 + (if 128 < p.stackEnd then 4 else 0) + (if kt = 2 then 2 else 0) }
  let charged := if f.ended.isSome then len else if m.hdrLenV then m.hdrLen else s.mfs port
  let member := (s.vlanAt q vid).valid && (s.vlanAt q vid).member.testBit port
  if p.err && s.flag F.prsCtl_ERR_DROP sl then d.dropEarly 0x10
  else if p.trunc && s.flag F.prsCtl_TRUNC_DROP sl then d.dropEarly 0x11
  else if tagRefused (cfg / 2 ^ 16 % 4) p.tags p.vid then d.dropEarly 0x13
  else if (p.smac / 2 ^ 40).testBit 0 && s.flag F.prsCtl_SRCMC_DROP sl then d.dropEarly 0x19
  else if cfg.testBit 15 && !member then d.dropEarly 0x12
  else if f.snap.mode.testBit 5 && m.ptpEv && f.snap.terminates m.ptpDom then
    { d with dests := [513], md := { m with cls := 7, dest := 513 }, learn := false, state := s.count .tsPortTermCnt port 1 }
  else d.forward f q vid p rtr vrf (rifSev == 2) hit faults charged

/-! ### Completion (R108, R206, R353, R486) -/

/-- The destinations with their queue kinds (R206): multicast for a group address as sent, and for the copy that COPY or
COPY_CPU adds for port 513. -/
def Decision.targets (d : Decision) : List (Nat × Bool) :=
  let group := macKind d.body != 0
  let ports := if d.copy && !d.dests.contains 513 then insertBy id 513 (sortBy id d.dests) else sortBy id d.dests
  ports.map fun p => (p, group || (d.copy && p == 513))

/-- STRAND_COMPLETE (R89 to R108): the frame of port `p` with dispatch number `seq` completes its strand, no earlier than its
latency allows. `faults` lists what the error codes find in the memories that its strand reads. A frame that has ended in
error by then is counted under its row of R353 (R486). -/
def execStrandComplete (p seq : Nat) (faults : List (Nat × Nat)) (s : State) : Host.Outcome State Fault Refusal :=
  match s.oldest p fun f => f.stage == .strand && f.md.seq == seq with
  | none => .next s
  | some f =>
    let d := s.strand f faults
    if s.tick.slot < f.dispatched + d.latency then .next s
    else
      let code := if f.good then d.code else f.reason
      .next ((d.state.onFrame f.id fun f => { f with
        stage := .complete, md := d.md, body := d.body, dropped := code, police := d.police
        dests := if code = 0 then d.targets else [] }).drop p code)

/-- POLICER_CORRECTION (R103): when a policed frame has ended, the buckets it debited are corrected, and its bytes are counted at
its true length. -/
def execPolicerCorrection (p seq : Nat) (s : State) : Host.Outcome State Fault Refusal :=
  match s.oldest p fun f => f.md.seq == seq && f.police.isSome && f.ended.isSome with
  | none => .next s
  | some f =>
    match f.police with
    | none => .next s
    | some (q, i, colour, charged) =>
      let len := f.bytes.length
      let s := (s.setPol q i ((s.polAt q i).correct s.tick.slot colour charged len)).polCount q i colour len 0
      .next (s.onFrame f.id fun f => { f with police := none }).settle

end Sys2Proof.Machine
end

