-- ==== Sys2Proof/Machine/Fabric.lean ====
section
/-!
DEFINITION. The reorder stage and the staging of the ingress slices (R109, R110, R197 to R200): releases, staged copies, the
lossy pool and the lossless reserves, the spill and its return.
-/
namespace Sys2Proof.Machine
open Sys2Proof

/-! ### Once in a slot -/

/-- Whether a stage has acted in this slot: `k` is the row of its command, `i` the instance. -/
def State.ran (s : State) (k i : Nat) : Bool := s.path.ranNow.contains (k, i)

/-- It has. -/
def State.markRan (s : State) (k i : Nat) : State := s.inPath fun p => { p with ranNow := p.ranNow ++ [(k, i)] }

/-! ### Reorder (R109, R110) -/

/-- The frames of a slice that have completed and wait for no earlier frame of their port (R109), oldest dispatch slot first,
then by strand (R110). -/
def State.eligible (s : State) (sl : Nat) : List Frame :=
  let mine := s.path.frames.filter fun f => Config.sliceOf f.port = sl && f.mir.isNone && (f.stage == .strand || f.stage == .complete)
  let free := mine.filter fun f => f.stage == .complete && !(mine.any fun g =>
    g.port = f.port && g.stage == .strand && (decide (g.dispatched < f.dispatched)
      || (g.dispatched == f.dispatched && decide (g.strand < f.strand))))
  sortBy (fun f => f.dispatched * 8 + f.strand) free

/-- Release frames in order, `n` at most; a dropped frame is not released and only makes its PRE copies (R109, R459). -/
def releaseFrames : Nat → List Frame → State → State
  | _, [], s => s
  | n, f :: t, s =>
    if f.dropped != 0 then
      let s := s.onFrame f.id fun f => { f with stage := .dead, released := s.tick.slot }
      releaseFrames n t (if f.good then s.mirrorIn f else s)
    else match n with
      | 0 => s
      | n + 1 => releaseFrames n t ((s.onFrame f.id fun f => { f with stage := .released, released := s.tick.slot }).mirrorIn f)

/-- REORDER_RELEASE (R109, R110, R459): the reorder stage of a slice releases up to eight frames, once in a slot. -/
def execReorderRelease (sl : Nat) (s : State) : Host.Outcome State Fault Refusal :=
  if !s.hasSlice sl || s.ran 70 sl then .next s
  else .next (releaseFrames 8 (s.eligible sl) (s.markRan 70 sl)).settle

/-! ### Staging (R197, R199, R200) -/

/-- The key of a lossless pair. -/
def pairKey (port cls : Nat) : Nat := port * 8 + cls

/-- Cells of staging memory that a staged copy holds. -/
def Staged.held (c : Staged) : Nat := if c.inSpill then 0 else c.charge - c.sent

/-- The staged count of a lossless pair (R200). -/
def State.pairCells (s : State) (port cls : Nat) : Nat :=
  (s.path.staged.filter fun c => c.lossless && c.port = port && c.cls = cls).foldl (fun a c => a + c.held) 0

/-- The on-die reserve of a pair as it applies: a smaller one takes effect when the staged count has fallen to it (R219). -/
def State.onDieReserve (s : State) (port cls : Nat) : Nat :=
  (Table.get (fun _ => (0, 0)) s.path.reserves (pairKey port cls)).1

/-- Cells that lossy copies hold in a slice's staging memory. -/
def State.lossyHeld (s : State) (sl : Nat) : Nat :=
  (s.path.staged.filter fun c => !c.lossless && c.ing = sl).foldl (fun a c => a + c.held) 0

/-- Cells that lossless copies hold there. -/
def State.losslessHeld (s : State) (sl : Nat) : Nat :=
  (s.path.staged.filter fun c => c.lossless && c.ing = sl).foldl (fun a c => a + c.held) 0

/-- Free cells of the lossy pool of a slice: what the pairs' reserves, and what they hold beyond them, leave (R199). -/
def State.lossyFree (s : State) (sl : Nat) : Nat :=
  let pairs := s.path.reserves.filter fun e => Config.sliceOf (e.1 / 8) = sl
  let spare := pairs.foldl (fun a e => a + (e.2.1 - s.pairCells (e.1 / 8) (e.1 % 8))) 0
  32768 - s.losslessHeld sl - spare - s.lossyHeld sl

/-- The flow control of a port. -/
def State.flow (s : State) (p : Nat) : Flow := Table.get (fun _ => {}) s.path.flow p
def State.setFlow (s : State) (p : Nat) (f : Flow) : State :=
  s.inPath fun t => { t with flow := Table.set (fun _ => {}) t.flow p f }

/-- The XOFF request of a pair rises or falls (R297): its class is due in the next flow-control frame. -/
def State.setXoff (s : State) (port cls : Nat) (on : Bool) : State :=
  let f := s.flow port
  if f.req.testBit cls = on then s
  else s.setFlow port { f with req := setBits f.req cls cls (b2n on), due := setBits f.due cls cls 1 }

/-- The staging compares a pair's count with its thresholds (R200). -/
def State.xoffCheck (s : State) (port cls : Nat) : State :=
  let sl := Config.sliceOf port
  let n := s.pairCells port cls
  if (s.llMask port).testBit cls && decide (min 4096 (s.fld F.fabStgCfg_XOFF_CELLS sl) ≤ n) then s.setXoff port cls true
  else if n < s.fld F.fabStgCfg_XON_CELLS sl then s.setXoff port cls false
  else s

/-- The staging cannot take a copy (R199, R200): it is dropped for each of its destinations. -/
def State.stageDrop (s : State) (ing : Nat) (dests : List (Nat × Bool)) (lossless : Bool) : State :=
  let s := dests.foldl (fun s d => (s.drop d.1 0x28).count .fabStgDropCnt ing 1) s
  s.raise (if lossless then F.fabStat_LL_DROP else F.fabStat_STG_DROP) ing

/-- Whether the spill of a staging queue holds frames (R200). -/
def State.spilling (s : State) (ing eg cls : Nat) : Bool :=
  s.path.staged.any fun c => c.inSpill && c.ing = ing && c.eg = eg && c.cls = cls

/-- A frame enters one staging queue (R197, R199, R200). -/
def State.stageOne (s : State) (f : Frame) (ing eg : Nat) (dests : List (Nat × Bool)) : State :=
  let cls := f.md.cls
  let pair := f.mir.isNone && (s.llMask f.port).testBit cls
  let need := cellsFor (s.lenFor f)
  let c : Staged := { fid := f.id, port := f.port, ing := ing, eg := eg, cls := cls, dests := dests, lossless := pair, charge := need }
  let put := fun (s : State) c => s.inPath fun p => { p with staged := p.staged ++ [c] }
  if s.spilling ing eg cls || (pair && decide (s.onDieReserve f.port cls < s.pairCells f.port cls + need)) then
    match s.spillAdmit ing (eg * 8 + cls) { fid := f.id, port := f.port, cls := cls, mc := false } f.carried with
    | none => s.stageDrop ing dests pair
    | some s => ((put s { c with inSpill := true }).count .fabSpillCnt ing 1).raise F.fabStat_SPILL ing
  else if !pair && decide (s.lossyFree ing < need) then s.stageDrop ing dests pair
  else if pair then (put s c).xoffCheck f.port cls else put s c

/-- From the slot in which a reset of its quadrant starts until INIT_DONE, a slice takes no copy (R583). -/
def State.sliceHeld (s : State) (sl : Nat) : Bool :=
  let q := Config.quadOfSlice sl
  let now := match s.boot.reset with
    | some k => k.core || k.quads.testBit q
    | none => false
  now || (OTable.has s.boot.initFrom q && !s.flag F.cbStat_INIT_DONE sl)

/-- A frame enters the staging of slice `ing`, once for each egress slice, in ascending order (R197, R207). -/
def State.enterFabric (s : State) (id ing : Nat) : State :=
  match s.frame? id with
  | none => s
  | some f =>
    let s := s.onFrame id fun f => { f with stage := if f.stage == .dead then .dead else .fabric }
    (List.range 32).foldl (fun s eg =>
      let here := f.dests.filter fun d => Config.sliceOf d.1 = eg
      if here = [] then s
      else if s.sliceHeld eg then here.foldl (fun s d => s.drop d.1 0x45) s
      else s.stageOne f ing eg here) s

/-- The ingress mirror copies of a frame that have been released and not yet staged (R459). -/
def State.waitingCopies (s : State) (id : Nat) : List Frame :=
  s.path.frames.filter fun g => g.stage == .released && (match g.mir with
    | some m => m.frame = id && !m.egress
    | none => false)

/-- FABRIC_ENTRY (R110, R197, R199, R200, R459): the frame of port `p` with dispatch number `seq` passes to the fabric 14 slots
after its release, with its ingress mirror copies. -/
def execFabricEntry (p seq : Nat) (s : State) : Host.Outcome State Fault Refusal :=
  let ok := fun (f : Frame) => f.md.seq == seq && decide (f.released + 14 ≤ s.tick.slot)
    && (f.stage == .released || (f.stage == .dead && !(s.waitingCopies f.id).isEmpty))
  match s.oldest p ok with
  | none => .next s
  | some f =>
    let ing := Config.sliceOf p
    let own := if f.stage == .dead then s else s.enterFabric f.id ing
    .next ((s.waitingCopies f.id).foldl (fun s g => s.enterFabric g.id ing) own).settle

/-- SPILL_RETURN (R200): the oldest frame in the spill of a staging queue returns to it when its pair's reserve, or the lossy pool,
has room. A record whose copy has been dropped is passed over. -/
def execSpillReturn (ing sq : Nat) (s : State) : Host.Outcome State Fault Refusal :=
  match s.hank? (spillKey ing sq) with
  | none => .next s
  | some h =>
    match h.recs with
    | [] => .next s
    | r :: _ =>
      let mine := fun (c : Staged) => c.inSpill && c.ing == ing && c.eg == sq / 8 && c.cls == sq % 8 && c.fid == r.copy.fid
      match s.path.staged.find? mine with
      | none => .next ((s.spillTake ing sq).settle)
      | some c =>
        let room := if c.lossless then s.onDieReserve c.port c.cls - s.pairCells c.port c.cls else s.lossyFree ing
        if room < c.charge then .next s
        else
          let s := (s.spillTake ing sq).inPath fun p => { p with
            staged := p.staged.map fun c => if mine c then { c with inSpill := false } else c }
          .next (if c.lossless then s.xoffCheck c.port c.cls else s)

end Sys2Proof.Machine
end

