-- ==== Sys2Proof/Machine/Admission.lean ====
section
/-!
DEFINITION. Acceptance and admission (R198, R201 to R209, R229 to R234, R288 to R294): push-out, the lossless check, the grants
of an egress slice, and its cell writes.
-/
namespace Sys2Proof.Machine
open Sys2Proof

/-! ### Limits (R287, R294) -/

/-- LIMIT of a queue (R310). -/
def State.qLimit (s : State) (qu : Nat) : Nat := min 65536 (s.fld F.qmQlim_LIMIT qu)

/-- The limit of a coloured copy (R287): lossless copies keep LIMIT. -/
def State.colourLimit (s : State) (qu colour : Nat) : Nat :=
  let eighths := if s.lossless qu then 8 else match colour with
    | 0 => 8
    | 1 => min 8 (s.fld F.qmQlim_YEL qu)
    | _ => min 8 (s.fld F.qmQlim_RED qu)
  s.qLimit qu * eighths / 8

/-- DEEP is enabled for a queue (R84). -/
def State.deepOn (s : State) (qu : Nat) : Bool := (s.fld F.qmQmode_DEEP (qu / 16)).testBit (qu % 16)

/-- LLC of a slice (R294). -/
def State.llc (s : State) (sl : Nat) : Nat :=
  (s.pool sl).heldOf 0 + (s.path.commits.filter fun c => c.kind = 0 && Config.sliceOf c.port = sl).foldl (fun a c => a + c.n) 0

/-! ### Push-out (R233, R289 to R292) -/

/-- The push-out candidates for an arriving class in a slice (R290): the tail frames. -/
def State.victims (s : State) (sl cls : Nat) : List Copy :=
  let tail := fun (v : Copy) => match (s.queueCopies v.queue).getLast? with
    | some t => t.fid == v.fid
    | none => false
  s.path.copies.filter fun v =>
    Config.sliceOf v.port == sl && !s.lossless v.queue && s.flag F.macMode_PUSHOUT v.port && s.portUp v.port
      && !s.inDeep v.queue && decide (v.cls < cls) && v.whole && !v.started && tail v

/-- The victim: lowest class, then the greater CQ, then the lower queue number (R290). -/
def State.victim (s : State) (sl cls : Nat) : Option Copy :=
  (s.victims sl cls).foldl (fun best v =>
    match best with
    | none => some v
    | some b =>
      let better := decide (v.cls < b.cls) || (v.cls == b.cls && (decide (s.cq b.queue < s.cq v.queue)
        || (s.cq b.queue == s.cq v.queue && decide (v.queue < b.queue))))
      if better then some v else best) none

/-- Whether an arriving copy may evict (R289, R75). -/
def State.mayEvict (s : State) (f : Frame) (port : Nat) : Bool :=
  f.mir.isNone && s.flag F.macMode_PUSHOUT port && !s.flag F.macMode_STANDBY port

/-- A push-out for a copy of `n` cells, pool `b` and class `cls` (R233, R291, R292), one per slice and slot. Answers the state and,
on success, the victim's cells to take and its queue. -/
def State.pushOut (s : State) (sl cls b n : Nat) : State × Option (List Nat × Nat) :=
  if s.ran 1000 sl then (s, none)
  else
    match s.victim sl cls with
    | none => (s.count .qmPushFailCnt sl 1, none)
    | some v =>
      let charged := v.cells.filter fun c => (s.desc sl c).state != 2
      let out := charged.foldl (fun s c => s.onPool sl fun p => p.subHeld (s.desc sl c).pool 1) s
      let more := n - v.cells.length
      let fits := decide ((out.pool sl).heldOf b + n ≤ out.ceil sl b) && (more == 0 || out.canReserve sl b more)
      if !fits then (s.count .qmPushFailCnt sl 1, none)
      else
        let s := s.inPath fun p => { p with copies := p.copies.filter fun x => !(x.fid = v.fid && x.port = v.port) }
        let s := s.subCq v.queue v.cells.length
        let s := s.toWalker sl (v.cells.drop n) v.queue
        let taken := v.cells.take n
        let s := taken.foldl (fun s c =>
          if (s.desc sl c).state == 2 then s else s.onPool sl fun p => p.subHeld (s.desc sl c).pool 1) s
        let s := s.onPool sl fun p => { p.addHeld b n with resv := p.resv + more }
        let s := ((s.drop v.port 0x43).count .qmPushCnt sl 1).count .cbXferCnt sl 1
        (s.markRan 1000 sl, some (taken, v.queue))

/-! ### What ends with a copy -/

/-- Give up a commitment (R293). -/
def State.undoCommit (s : State) (c : Commit) : State :=
  match s.frame? c.fid with
  | none => s
  | some f =>
    let qu := Config.queueOf c.port f.md.cls false
    let sl := Config.sliceOf c.port
    let b := s.poolOf qu
    match c.kind with
    | 0 => s.subCq qu c.n
    | 1 => s.hankLose qu c.fid 0
    | 2 => ((s.unreserve sl b (c.n - c.taken.length)).surplus sl b c.from_ c.taken).subCq qu c.n
    | _ => s

/-- The later cells of a copy are neither granted nor written (R209, R304): its place in staging, its waiting writes and its
commitment end. -/
def State.purge (s : State) (fid port : Nat) : State :=
  let mine := fun (c : Commit) => c.fid == fid && c.port == port
  let s := (s.path.commits.filter mine).foldl (fun s c => s.undoCommit c) s
  let cut := fun (c : Staged) => if c.fid = fid then { c with dests := c.dests.filter fun d => d.1 != port } else c
  s.inPath fun p => { p with
    commits := p.commits.filter fun c => !mine c
    writeQ := p.writeQ.filter fun w => !(w.2.fid = fid && w.2.port = port)
    staged := (p.staged.map cut).filter fun c => c.dests != [] }

/-- A copy that is not in transmission is dropped wherever it lies beyond its first-cell write, counted with a reason. -/
def State.loseCopy (s : State) (fid port code : Nat) : State :=
  let s := s.purge fid port
  match s.copy? fid port with
  | some c => s.dropCopy c code
  | none =>
    match s.path.hanks.find? fun h => decide (h.1 < 8256) && h.1 / 16 == port && h.2.recs.any fun r => r.copy.fid = fid && !r.copy.lost with
    | some h => s.hankLose h.1 fid code
    | none => s

/-! ### The lossless check (R293) -/

/-- One lossless destination queue is checked: the state with what it holds for the copy, and whether it passes. -/
def State.llOne (s : State) (sl : Nat) (f : Frame) (port : Nat) : State × Bool :=
  let cls := f.md.cls
  let qu := Config.queueOf port cls false
  let len := s.lenFor f
  let n := cellsFor len
  let commit := fun (s : State) (c : Commit) => (s.inPath fun p => { p with commits := p.commits ++ [c] }, true)
  let deep := fun (s : State) =>
    if s.deepRefusal qu len = 0 then
      commit (s.deepAdmit { fid := f.id, port := port, cls := cls, mc := false } len) { fid := f.id, port := port, kind := 1, n := n }
    else (s, false)
  if s.portDown port then commit s { fid := f.id, port := port, kind := 3, n := n }
  else if s.inDeep qu then deep s
  else if s.cq qu + n ≤ s.qLimit qu && s.llc sl + n ≤ s.floor sl 0 then
    commit (s.addCq qu n) { fid := f.id, port := port, kind := 0, n := n }
  else
    let d := if s.deepOn qu then deep s else (s, false)
    if d.2 then d
    else if !s.mayEvict f port then (s, false)
    else
      match s.pushOut sl cls (s.poolOf qu) n with
      | (s, some (taken, vq)) =>
        commit (s.addCq qu n) { fid := f.id, port := port, kind := 2, n := n, taken := taken, from_ := vq }
      | (s, none) => (s, false)

/-- Every lossless destination queue of a frame in the slice, in ascending port order. -/
def llAll (sl : Nat) (f : Frame) : List Nat → State → State × Bool
  | [], s => (s, true)
  | p :: t, s => match s.llOne sl f p with
    | (s, true) => llAll sl f t s
    | (s, false) => (s, false)

/-- The lossless check of a first cell: none when a queue fails, and everything made for the frame is undone; push-out attempts
that failed and the wait stay counted (R292, R293). -/
def State.losslessCheck (s : State) (sl : Nat) (f : Frame) (dests : List (Nat × Bool)) : State × Bool :=
  let ports := (dests.filter fun d => s.lossless (Config.queueOf d.1 f.md.cls d.2)).map (·.1)
  let r := llAll sl f ports s
  if r.2 then r
  else
    let key := regKey .qmPushFailCnt sl
    let n := Table.get (fun _ => 0) r.1.cnt.live key - Table.get (fun _ => 0) s.cnt.live key
    ((s.count .qmPushFailCnt sl n).count .qmLlWaitCnt sl 1, false)

/-! ### Grants (R198, R201, R202) -/

/-- Whether the next cell of a staged copy lies in staging: the frame has ended, or bytes beyond the cell have come (R194). -/
def State.cellReady (s : State) (c : Staged) : Bool :=
  match s.frame? c.fid with
  | some f => !c.inSpill && (f.ended.isSome || f.entersWhole || decide (128 * (c.sent + 1) < s.available f))
  | none => false

/-- The frame that a staging queue would start next (R197). -/
def State.stagedHead (s : State) (ing eg cls : Nat) : Option Staged :=
  s.path.staged.find? fun c => c.ing = ing && c.eg = eg && c.cls = cls && c.sent = 0

/-- Whether the start of a staged copy is a lossless start: its ingress pair, or a destination queue, is lossless. -/
def State.losslessStart (s : State) (c : Staged) : Bool := c.lossless || c.dests.any fun d => s.lossless (Config.queueOf d.1 c.cls d.2)

/-- What an ingress slice offers an egress slice to start: the frame of its highest class among lossless, or lossy, starts. -/
def State.offer (s : State) (ing eg : Nat) (lossless : Bool) : Option Staged :=
  ([7, 6, 5, 4, 3, 2, 1, 0].filterMap fun c => s.stagedHead ing eg c).find? fun c =>
    s.cellReady c && s.losslessStart c == lossless

/-- The ingress slices in rotation order (R49, N = 32). -/
def State.rotation32 (s : State) : List Nat := (List.range 32).map fun k => (s.rrPointer 32 + k) % 32

/-- Send one cell of a staged copy: a write for each destination port travels to the egress slice (R195, R203, R207). -/
def State.sendCell (s : State) (eg : Nat) (c : Staged) (f : Frame) : State :=
  let data := f.carried
  let k := c.sent
  let last := decide (data.length ≤ 128 * (k + 1))
  let due := s.tick.slot + (if c.ing / 8 = eg / 8 then 50 else 113)
  let w := fun (d : Nat × Bool) => (eg, ({ fid := f.id, k := k, port := d.1, mc := d.2, cls := c.cls, due := due
                                           data := (data.drop (128 * k)).take 128, last := last, need := s.lenFor f
                                           lossless := c.lossless } : CellWr))
  let step := fun (x : Staged) => if x = c then { x with sent := k + 1 } else x
  let s := s.inPath fun p => { p with
    writeQ := p.writeQ ++ c.dests.map w
    staged := if last then p.staged.erase c else p.staged.map step }
  if c.lossless then s.xoffCheck c.port c.cls else s

/-- Acceptance of one egress slice in a slot as it proceeds: the credit the grants leave, what stands of them, whether a request
was refused for credit, and the cells each ingress slice may still send. -/
structure Accept where
  state : State
  credit : Int
  charged : Nat := 0
  refused : Bool := false
  budget : List Nat

/-- A request for one cell (R198, R201, R202, R293). A grant beyond the ingress slice's twelve fails and is not charged. -/
def Accept.ask (a : Accept) (eg : Nat) (c : Staged) : Accept :=
  if a.credit < 1 then { a with refused := true }
  else
    match a.state.frame? c.fid with
    | none => a
    | some f =>
      let n := c.dests.length
      let r := if c.sent = 0 && a.state.losslessStart c then a.state.losslessCheck eg f c.dests else (a.state, true)
      if !r.2 then { a with state := r.1 }
      else if a.budget.getD c.ing 0 = 0 then { a with credit := a.credit - n }
      else { a with state := r.1.sendCell eg c f, credit := a.credit - n, charged := a.charged + n
                    budget := listModify (· - 1) a.budget c.ing }

/-- The grants of one egress slice (R202): continuations, then lossless starts, then lossy starts. -/
def Accept.slice (a : Accept) (eg : Nat) : Accept :=
  let s := a.state
  let c0 := Table.get (fun _ => (12 : Int)) s.path.credit eg
  let a := { a with credit := c0, charged := 0, refused := false }
  let conts := s.rotation32.flatMap fun i => s.path.staged.filter fun c => c.ing = i && c.eg = eg && decide (0 < c.sent) && s.cellReady c
  let offers := fun ll => s.rotation32.filterMap fun i => s.offer i eg ll
  let a := (conts ++ offers true ++ offers false).foldl (fun a c => a.ask eg c) a
  let s := a.state.inPath fun p => { p with credit := Table.set (fun _ => (12 : Int)) p.credit eg (c0 - a.charged) }
  { a with state := if a.refused then s.count .fabCreditSat eg 1 else s }

/-- CELL_GRANT (R198, R201, R202, R293): every egress slice grants staged cells, once in a slot. -/
def execCellGrant (s : State) : Host.Outcome State Fault Refusal :=
  if s.ran 73 0 then .next s
  else
    let s := s.markRan 73 0
    let slices := s.rotation32.filter s.hasSlice
    let start : Accept := { state := s, credit := 0, budget := List.replicate 32 12 }
    .next (slices.foldl (fun (a : Accept) eg => a.slice eg) start).state

/-! ### Cell writes (R203, R229 to R234, R288, R294) -/

/-- What a write's decision comes to: a continuation, nothing left to write, a drop, storage on die with cells reserved and
cells taken from a victim, a wish for push-out, a wish for the deep tier, or a place in the hank. -/
inductive Adm where
  | cont | gone
  | drop (code : Nat)
  | die (pool resv : Nat) (taken : List Nat) (from_ : Nat)
  | push (pool n : Nat)
  | wish
  | deep

/-- The queue of a write. -/
def CellWr.queue (w : CellWr) : Nat := Config.queueOf w.port w.cls w.mc

/-- A copy that outgrows its reservation asks for one cell more (R230), or for a page more (R264). -/
def State.growCopy (s : State) (sl : Nat) (w : CellWr) : State :=
  let qu := w.queue
  match s.copy? w.fid w.port with
  | some c =>
    if c.resv != 0 || c.taken != [] then s
    else
      match s.reserve sl c.pool 1 with
      | (s, true) => (s.addCq qu 1).onCopy w.fid w.port fun c => { c with resv := 1 }
      | (s, false) =>
        if c.started then s.onCopy w.fid w.port fun c => { c with lost := true } else s.loseCopy w.fid w.port 0x32
  | none =>
    match s.hank? qu with
    | none => s
    | some h =>
      match h.recs.find? fun r => r.copy.fid = w.fid && !r.copy.lost with
      | none => s
      | some r =>
        let q := Config.quadOf w.port
        let len := r.got.length + w.data.length
        let more := recSize len - r.size
        if more = 0 then s
        else
          let m := cdiv (more - h.room) 4096
          let ok := decide (h.total + m ≤ s.maxPages qu) && decide ((m : Int) ≤ s.owedPages qu + s.sharedPages q)
            && decide (s.wbuf q + more / 32 ≤ 65536)
          if !ok then s.loseCopy w.fid w.port 0x38
          else
            let grow := fun (x : HankRec) => if x.copy.fid = w.fid then { x with size := recSize len } else x
            (s.setHank qu { h with rsvd := h.rsvd + m, recs := h.recs.map grow }).setWbuf q (s.wbuf q + more / 32)

/-- The first decision on a write (R288 steps 1 to 5, R294). `deepNow` are the queues for which a copy falls back in this slot. -/
def State.admitOnDie (s : State) (sl : Nat) (w : CellWr) (deepNow : List Nat) : State × Adm :=
  let qu := w.queue
  let n := cellsFor w.need
  let pool := s.poolOf qu
  if w.k != 0 then (s.growCopy sl w, .cont)
  else
    match s.frame? w.fid with
    | none => (s, .gone)
    | some f =>
      match s.path.commits.find? fun c => c.fid = w.fid && c.port = w.port with
      | some c =>
        let s' := s.inPath fun p => { p with commits := p.commits.erase c }
        if c.kind = 3 || s.portDown w.port then (s'.undoCommit c, .drop 0x45)
        else match c.kind with
          | 0 =>
            match s'.reserve sl pool n with
            | (s, true) => (s, .die pool n [] 0)
            | (s, false) => ((s.raise F.qmStat_LL_RSV_FAIL sl).subCq qu n, .push pool n)
          | 1 => (s', if (s'.hank? qu).any fun h => h.recs.any fun r => r.copy.fid = w.fid then .deep else .gone)
          | _ => (s', .die pool (n - c.taken.length) c.taken c.from_)
      | none =>
        if s.portDown w.port then (s, .drop 0x45)
        else if s.inDeep qu || deepNow.contains qu then (s, .wish)
        else if f.md.colour != 0 && decide (s.colourLimit qu f.md.colour < s.cq qu + n) then (s, .drop 0x42)
        else if s.qLimit qu < s.cq qu + n then (s, if s.deepOn qu then .wish else .drop 0x41)
        else
          match s.reserve sl pool n with
          | (s, true) => (s.addCq qu n, .die pool n [] 0)
          | (s, false) => (s, .push pool n)

/-- Step 6 of R288, and where it leads. -/
def State.admitPush (s : State) (sl : Nat) (w : CellWr) (pool n : Nat) : State × Adm :=
  let next := fun (s : State) => if s.deepOn w.queue then (s, Adm.wish) else (s.raise F.qmStat_NO_CELL sl, Adm.drop 0x40)
  match s.frame? w.fid with
  | none => (s, .gone)
  | some f =>
    if !s.mayEvict f w.port then next s
    else
      match s.pushOut sl w.cls pool n with
      | (s, some (taken, vq)) => (s.addCq w.queue n, .die pool (n - taken.length) taken vq)
      | (s, none) => next s

/-- The deep tier takes or refuses a copy (R264, R281). -/
def State.admitDeep (s : State) (w : CellWr) : State × Adm :=
  let code := s.deepRefusal w.queue w.need
  if code = 0 then (s.deepAdmit { fid := w.fid, port := w.port, cls := w.cls, mc := w.mc } w.need, .deep)
  else (s.deepRefused w.port code, .gone)

/-- Take the next cell of the victim for a copy (R234): checked, then owned by the copy; a cell that fails is quarantined, the rest
of the chain leaks, and what is due becomes a reservation. -/
def State.takeCell (s : State) (sl : Nat) (c : Copy) (data : List Byte) : State × Bool :=
  match c.taken with
  | [] => (s, false)
  | v :: rest =>
    let d := s.desc sl v
    if d.state = 1 ∧ d.owner = c.from_ then
      let s := s.fillCell sl v c.queue c.pool data c.cells.getLast?
      (s.onCopy c.fid c.port fun c => { c with cells := c.cells ++ [v], taken := rest }, true)
    else
      let due := c.taken.length
      let s := c.taken.foldl (fun s v => s.onPool sl fun p => (p.subHeld c.pool 1).addHeld (s.desc sl v).pool 1) s
      let s := if d.state = 1 then
          ((s.quarantine sl v 1 false).raise F.cbStat_NONOWNER sl).count .cbNonownerCnt sl 1
        else s
      let s := s.cbPost sl 2 (cellAddr sl v) c.from_ d.owner
      let s := (s.leak sl c.from_ rest.length).onCopy c.fid c.port fun c => { c with taken := [] }
      match s.reserve sl c.pool due with
      | (s, true) => (s.onCopy c.fid c.port fun c => { c with resv := c.resv + due }, false)
      | (s, false) =>
        let s := s.subCq c.queue due
        if c.started then (s.onCopy c.fid c.port fun c => { c with lost := true }, true) else (s.loseCopy c.fid c.port 0x32, true)

/-- Write a cell of a copy on die, from the victim's cells or the reservation. `bad` says that the first popped index fails. -/
def State.storeCell (s : State) (sl : Nat) (w : CellWr) (bad : Bool) : State :=
  match s.copy? w.fid w.port with
  | none => s
  | some c =>
    if c.lost then s
    else
      let r := s.takeCell sl c w.data
      if r.2 then r.1
      else
        match r.1.copy? w.fid w.port with
        | none => r.1
        | some c =>
          if c.resv = 0 then r.1
          else
            match r.1.writeCell sl c.queue c.pool w.data c.cells.getLast? bad with
            | (some v, s) => s.onCopy w.fid w.port fun c => { c with cells := c.cells ++ [v], resv := c.resv - 1 }
            | (none, s) => s

/-- The last cell is written: what the copy has not used returns (R230). -/
def State.finishCopy (s : State) (sl : Nat) (w : CellWr) : State :=
  match s.copy? w.fid w.port with
  | none => s
  | some c =>
    let s := (s.unreserve sl c.pool c.resv).subCq c.queue (c.resv + c.taken.length)
    (s.surplus sl c.pool c.from_ c.taken).onCopy w.fid w.port fun c => { c with
      resv := 0, taken := [], whole := !c.lost, len := 128 * w.k + w.data.length }

/-- Perform a write after its decision. `err` is 0 for none, 1 a popped index in error, 2 a corrected cell, 3 an uncorrectable one
(R196, R226). -/
def State.performWrite (s : State) (sl : Nat) (w : CellWr) (a : Adm) (err : Nat) : State :=
  let qu := w.queue
  let s := if err = 2 then s.raise F.fabStat_ECC_CE sl else s
  let s := match a with
    | .drop code => (s.drop w.port code).purge w.fid w.port
    | .gone | .push _ _ | .wish => s.purge w.fid w.port
    | .die pool resv taken from_ =>
      let c : Copy := { fid := w.fid, port := w.port, cls := w.cls, mc := w.mc, resv := resv, taken := taken, from_ := from_, pool := pool
                        stamp := s.whorlNs, stampEpoch := s.epoch % 8192 }
      (s.inPath fun p => { p with copies := p.copies ++ [c] }).storeCell sl w (err == 1)
    | .deep => s.deepWrite qu w.fid w.data w.last
    | .cont => if (s.copy? w.fid w.port).isSome then s.storeCell sl w (err == 1) else s.deepWrite qu w.fid w.data w.last
  let s := if w.last then s.finishCopy sl w else s
  if err != 3 then s
  else
    let s := ((s.raise F.fabStat_ECC_UE sl).setReg .fabErrAddr sl
      (word (2 ^ 31 + (Config.freeWord s.free).toNat % 2 ^ 15))).draw
    match s.copy? w.fid w.port with
    | some c => if c.started then s.onCopy w.fid w.port fun c => { c with lost := true } else s.loseCopy w.fid w.port 0x29
    | none => s.loseCopy w.fid w.port 0x29

/-- The lanes of a slot's writes in the order of a rotating arbiter of size `n` whose number for lane 0 is `base` (R232, R265). -/
def State.laneOrder (s : State) (n base : Nat) (ws : List (CellWr × Nat)) : List (CellWr × Nat) :=
  sortBy (fun w => (base + w.2 + n - s.rrPointer n) % n) ws

/-- The decisions of a slot's writes, by lane. -/
abbrev Decided := List (Nat × Adm)

/-- The decision of a lane. -/
def admOf (l : Decided) (lane : Nat) : Adm :=
  match l.find? fun e => e.1 = lane with
  | some e => e.2
  | none => .gone

/-- Whether a decision wishes for the deep tier. -/
def Adm.isWish : Adm → Bool
  | .wish => true
  | _ => false

/-- CELL_WRITE (R203): the write queue of an egress slice performs up to twelve writes that have arrived, oldest first, once in a
slot. Reservations are decided first, then push-outs, then the deep tier's. `errs` gives what the codes find, by lane. -/
def execCellWrite (sl : Nat) (errs : List (Nat × Nat)) (s : State) : Host.Outcome State Fault Refusal :=
  if !s.hasSlice sl || s.ran 74 sl then .next s
  else
    let s := s.markRan 74 sl
    let due := s.path.writeQ.filter fun w => w.1 = sl && decide (w.2.due ≤ s.tick.slot)
    let now := (sortBy (fun w => w.2.due) due).take 12
    let ws := (now.map (·.2)).zipIdx
    let s := s.inPath fun p => { p with writeQ := p.writeQ.filter fun w => !now.contains w }
    let first := (s.laneOrder 12 0 ws).foldl (fun (acc : State × Decided × List Nat) w =>
      let r := acc.1.admitOnDie sl w.1 acc.2.2
      (r.1, acc.2.1 ++ [(w.2, r.2)], if r.2.isWish then w.1.queue :: acc.2.2 else acc.2.2)) (s, [], [])
    let second := (s.laneOrder 12 0 ws).foldl (fun (acc : State × Decided) w =>
      match admOf acc.2 w.2 with
      | .push pool n =>
        let r := acc.1.admitPush sl w.1 pool n
        (r.1, acc.2.map fun e => if e.1 = w.2 then (w.2, r.2) else e)
      | _ => acc) (first.1, first.2.1)
    let third := (s.laneOrder 104 (sl % 8 * 12) ws).foldl (fun (acc : State × Decided) w =>
      match admOf acc.2 w.2 with
      | .wish =>
        let r := acc.1.admitDeep w.1
        (r.1, acc.2.map fun e => if e.1 = w.2 then (w.2, r.2) else e)
      | _ => acc) second
    let err := fun lane => match errs.find? fun e => e.1 = lane with
      | some e => e.2
      | none => 0
    .next (ws.foldl (fun s w => s.performWrite sl w.1 (admOf third.2 w.2) (err w.2)) third.1).settle

end Sys2Proof.Machine
end

