-- ==== Sys2Proof/Machine/Edge.lean ====
section
/-!
DEFINITION. What a slot edge does in the data path (R201, R296, R320, R321): write credits, shapers, pause timers, and the
stages' marks of having acted in the slot.
-/
namespace Sys2Proof.Machine
open Sys2Proof

/-! ### Shapers (R319 to R321) -/

/-- The key of a port's shaper, beside the queues' own numbers. -/
def portShaper (p : Nat) : Nat := 16384 + p

/-- RATE and BURST of a shaper as its registers stand (R338). -/
def State.rateReg (s : State) (key : Nat) : Nat :=
  min (2 ^ 24) (if key < 16384 then s.fld F.schQshpRate_RATE key else s.fld F.schPshpRate_RATE (key - 16384))
def State.burstReg (s : State) (key : Nat) : Nat :=
  if key < 16384 then s.fld F.schQshpBurst_BURST key else s.fld F.schPshpBurst_BURST (key - 16384)

/-- The RATE that governs in the present slot: a write governs from the next (R321). -/
def State.rateNow (s : State) (key : Nat) : Nat := (OTable.get? s.path.oldRate key).getD (s.rateReg key)

/-- The credit of a shaper in 1/65,536 byte; 0 while it is off. -/
def State.credit (s : State) (key : Nat) : Int := Table.get (fun _ => (0 : Int)) s.path.shaper key

/-- Put a credit. -/
def State.setCredit (s : State) (key : Nat) (c : Int) : State :=
  { s with path := { s.path with shaper := Table.set (fun _ => (0 : Int)) s.path.shaper key c } }

/-- A queue is empty when it holds no frame that has not begun transmission (R320). -/
def State.queueEmpty (s : State) (qu : Nat) : Bool :=
  !(s.path.copies.any fun c => Config.queueOf c.port c.cls c.mc = qu && !c.started)
    && (match OTable.get? s.path.hanks qu with
        | some h => h.recs = []
        | none => true)

/-- Whether the queues of a shaper are empty: for a port shaper, all 16. -/
def State.shaperEmpty (s : State) (key : Nat) : Bool :=
  if key < 16384 then s.queueEmpty key else (List.range 16).all fun i => s.queueEmpty ((key - 16384) * 16 + i)

/-- The end of a slot for one shaper (R320, R321): RATE is added and the credit capped; a shaper turned off loses it. -/
def State.shaperStep (s : State) (key : Nat) : State :=
  let old := s.rateNow key
  let cap : Int := if s.shaperEmpty key then 0 else ((s.burstReg key * 65536 : Nat) : Int)
  let c := if old = 0 then 0 else min (s.credit key + (old : Int)) cap
  s.setCredit key (if s.rateReg key = 0 then 0 else c)

/-- The shapers that are on, or whose RATE was written in the slot. -/
def State.shapersOn (s : State) : List Nat :=
  let on := s.regs.filterMap fun e =>
    if e.1 % 512 = Reg.schQshpRate.ctorIdx then some (e.1 / 512)
    else if e.1 % 512 = Reg.schPshpRate.ctorIdx then some (portShaper (e.1 / 512)) else none
  on ++ (s.path.oldRate.map (·.1)).filter fun k => !on.contains k

/-- A write of RATE is about to change a shaper: the rate of this slot is kept (R321). -/
def State.keepRate (s : State) (key : Nat) : State :=
  if OTable.has s.path.oldRate key then s
  else { s with path := { s.path with oldRate := Table.insert s.path.oldRate key (s.rateReg key) } }

/-! ### Pause timers (R296) -/

/-- The timers of a port fall by 4 units of 160 ps each slot, and FC_STAT shows the classes still paused. -/
def State.timerStep (s : State) (p : Nat) (f : Flow) : State :=
  let ts := f.timers.map fun t => t - 4
  let s := { s with path := { s.path with flow := Table.set (fun _ => {}) s.path.flow p { f with timers := ts } } }
  s.setFld F.fcStat_RX_PAUSED p ((List.range 8).foldl (fun m c => m + if ts.getD c 0 = 0 then 0 else 2 ^ c) 0)

/-! ### Ring indices (R553) -/

/-- A TAIL written in the slot takes effect at its edge: ring `k` by direction·32 + ring. -/
def State.tailEdge (s : State) : State :=
  (s.host.rings.filter fun e => e.2.tail.isSome).foldl (fun s (e : Nat × RingSt) =>
    let s := s.setReg (if e.1 < 32 then .dmaRxTail else .dmaTxTail) (e.1 % 32) (word (e.2.tail.getD 0))
    { s with host := { s.host with rings := Table.set (fun _ => {}) s.host.rings e.1 { e.2 with tail := none } } }) s

/-! ### Samples (R330, R331) -/

/-- The depth and delay of one sample, added to a queue's accumulators; `n` samples have been taken before it (R331). -/
def QAcc.add (a : QAcc) (n depth : Nat) (delay : Option Nat) : QAcc :=
  let a := { a with
    dMin := if n = 0 then depth else min a.dMin depth, dMax := max a.dMax depth, dSum := min (a.dSum + depth) (2 ^ 64 - 1) }
  match delay with
  | none => a
  | some d =>
    { a with lMin := if a.lCnt = 0 then d else min a.lMin d, lMax := max a.lMax d, lSum := min (a.lSum + d) (2 ^ 64 - 1)
             lCnt := a.lCnt + 1 }

/-- The samples taken in the slot are added at its edge (R331): in the quadrants that are present, an unlisted queue's sample
was empty. -/
def State.sampleEdge (s : State) : State :=
  match s.samp.now with
  | none => s
  | some t =>
    let n := fun quad => Table.get (fun _ => 0) s.samp.liveN quad
    let keys := (s.samp.live.map (·.1) ++ t.map (·.1)).eraseDups
    let live := keys.foldl (fun l q =>
      let x := Table.get (fun _ => (0, none)) t q
      Table.set (fun _ => {}) l q ((Table.get (fun _ => ({} : QAcc)) s.samp.live q).add (n (Config.quadOf (q / 16))) x.1 x.2)) s.samp.live
    let liveN := (List.range 4).foldl (fun l q => if s.hasQuad q then Table.set (fun _ => 0) l q (n q + 1) else l) s.samp.liveN
    { s with samp := { s.samp with now := none, live := live, liveN := liveN } }

/-! ### The edge -/

/-- The edge of a slot in the data path. -/
def State.pathEdge (s : State) : State :=
  let s := s.tailEdge.sampleEdge
  let s := s.shapersOn.foldl (fun s k => s.shaperStep k) s
  let s := (s.path.flow.filter fun e => e.2.timers.any fun t => t != 0).foldl (fun s e => s.timerStep e.1 e.2) s
  { s with path := { s.path with
      oldRate := [], ranNow := []
      credit := Table.mapListed (fun _ => (12 : Int)) (fun _ c => min (c + 6) 12) s.path.credit } }

end Sys2Proof.Machine
end

