-- ==== Sys2Proof/Machine/Clock.lean ====
section
/-!
DEFINITION. The slot edge and the whorl (chapters 2 and 14): the core clock and its reference, the increment, slews, bases
and the reads of the counters.
-/
namespace Sys2Proof.Machine
open Sys2Proof

/-! ### The slot edge (R45, R402 to R416) -/

/-- The sum of the increment and, while a slew runs, its DELTA (R405). -/
def TimeEng.rawInc (t : TimeEng) : Int := (t.inc : Int) + (if t.slewLeft = 0 then 0 else t.slewDelta)

/-- The effective increment: the sum, held within the bounds of R405. -/
def TimeEng.effInc (t : TimeEng) : Nat :=
  if t.rawInc < Config.incMin then Config.incMin else if t.rawInc > Config.incMax then Config.incMax else t.rawInc.toNat

/-- Whether the sum lies outside the bounds (R405). -/
def TimeEng.clamps (t : TimeEng) : Bool := t.rawInc < Config.incMin || t.rawInc > Config.incMax

/-- Whether the next slot edge is a wrap (R402). -/
def TimeEng.wraps (t : TimeEng) : Bool := decide (2 ^ 64 ≤ t.whorl + t.effInc)

/-- TS_SLEW_DELTA as a slew uses it: values beyond ±2^28 are treated as ±2^28 (R407). -/
def slewDeltaOf (w : Word) : Int := max (-(2 ^ 28)) (min (2 ^ 28) (toSigned 32 w.toNat))

/-- The addition of one slot: the whorl moves by the effective increment (R402, R405). -/
def TimeEng.advance (t : TimeEng) : TimeEng :=
  { t with whorl := (t.whorl + t.effInc) % 2 ^ 64, parity := if t.wraps then !t.parity else t.parity }

/-- Advance a running slew by one slot; the last slot clears SLEW_ACT and sets SLEW_DONE (R407), unless a write of
TS_SLEW_COUNT in the same slot ends the slew (R408). A slew that was written starts with the DELTA that now stands. -/
def State.slewEdge (s : State) : State :=
  match s.time.slewPend with
  | some n =>
    { s with time := { s.time with
        slewLeft := n, slewDelta := slewDeltaOf (s.reg .tsSlewDelta 0), slewPend := none } }
  | none =>
    let s1 := { s with time := { s.time with slewLeft := s.time.slewLeft - 1 } }
    if s.time.slewLeft = 1 then s1.raise F.tsStat_SLEW_DONE 0 else s1

/-- The increment that a write committed governs from the next slot (R406). -/
def State.incEdge (s : State) : State :=
  match s.time.incPend with
  | some n => { s with time := { s.time with inc := n, incPend := none } }
  | none => s

/-- The ARM bit of a base: even for false, odd for true. -/
def TimeEng.arm (t : TimeEng) (odd : Bool) : Bool := if odd then t.armOdd else t.armEven

/-- Put the ARM bit of a base. -/
def TimeEng.setArm (t : TimeEng) (odd b : Bool) : TimeEng :=
  if odd then { t with armOdd := b } else { t with armEven := b }

/-- The wrap test of R413, after PARITY has inverted: an armed base becomes active, with BASE_JUMP when it does not continue
the one left; an unarmed one is stale once time of day has been set. -/
def State.wrapTest (s : State) : State :=
  let t := s.time
  if t.arm t.parity then
    let s1 := { s with time := { t.setArm t.parity false with nextLoadDue := true } }
    if NetBase.ofNs (t.next.total + 2 ^ 32) = NetBase.ofNs t.active.total then s1 else s1.raise F.tsStat_BASE_JUMP 0
  else if t.todSet then
    (({ s with time := { t with staleAct := true, nextLoadDue := true } }).raise F.tsStat_STALE 0).count .tsStaleCnt 0 1
  else { s with time := { t with nextLoadDue := true } }

/-- Put a base register. -/
def TimeEng.setBase (t : TimeEng) (odd : Bool) (b : NetBase) : TimeEng :=
  if odd then { t with odd := b } else { t with even := b }

/-- A load of a base at an edge (R412): a load of the active base replaces network time, clears STALE_ACT and sets ACT_LOAD;
a load of the other base arms it. TOD_SET sets at the first load. -/
def State.loadBase (s : State) (odd : Bool) (b : NetBase) : State :=
  let t := { s.time.setBase odd b with todSet := true }
  if odd = t.parity then ({ s with time := { t with staleAct := false, remap := true } }).raise F.tsStat_ACT_LOAD 0
  else { s with time := t.setArm odd true }

/-- The staged base (R411). -/
def State.stagedBase (s : State) : NetBase :=
  { sec := (s.reg .tsBaseStgSlo 0).toNat + s.fld F.tsBaseStgShi_SEC 0 * 2 ^ 32, ns := (s.reg .tsBaseStgNs 0).toNat }

/-- A base load that was requested applies at the edge, after the edge's wrap (R412, R416); one that a scheduled write asked for counts
as requested in the next slot (R55). -/
def State.loadEdge (s : State) : State :=
  let next := { s with time := { s.time with loadPend := s.time.loadSoon, loadSoon := none } }
  match s.time.loadPend with
  | some odd => next.loadBase odd s.stagedBase
  | none => next

/-- The edge that ends a slot: the whorl advances by the effective increment, the slew and the increment step, a wrap tests
the next base, a base load applies, the data path takes its edge, and the slot count advances. Before the PLL has locked nothing runs (R42). -/
def slotEdge (s : State) : State :=
  if !s.tick.locked then s
  else
    let wrap := s.time.wraps
    let s := if s.time.clamps then s.raise F.tsStat_CLAMP 0 else s
    let s := ({ s with time := s.time.advance }).slewEdge.incEdge
    let s := if wrap then s.wrapTest else s
    let s := s.loadEdge.pathEdge
    { s with tick := { s.tick with slot := (s.tick.slot + 1) % 2 ^ 64 }, meet := {} }

/-! ### The clock (R42, R43, R67) -/

/-- PLL_LOCK (R42): the PLL locks, LOCK reads 1, and slot 0 begins with the whorl at 0. A PLL that has locked stays so. -/
def execPllLock (s : State) : Host.Outcome State Fault Refusal :=
  if s.tick.locked then .next s
  else .next (({ s with tick := { s.tick with locked := true, slot := 0 }
                        time := { s.time with whorl := 0, parity := false } }).setFld F.tickStat_LOCK 0 1)

/-- REFERENCE_LOST (R43): the PLL holds its control value; LOCK reads 0 and REF_LOSS sets. -/
def execReferenceLost (s : State) : Host.Outcome State Fault Refusal :=
  if s.tick.locked && !s.tick.refHold then
    .next ((({ s with tick := { s.tick with refHold := true } }).setFld F.tickStat_LOCK 0 0).raise F.tickStat_REF_LOSS 0)
  else .next s

/-- REFERENCE_RESTORED (R43): the PLL relocks and sets RELOCK. -/
def execReferenceRestored (s : State) : Host.Outcome State Fault Refusal :=
  if s.tick.refHold then
    .next ((({ s with tick := { s.tick with refHold := false } }).setFld F.tickStat_LOCK 0 1).raise F.tickStat_RELOCK 0)
  else .next s

/-- TICK_SLOT_READ (R67): the read returns slot count [31:0] and latches [63:32] into TICK_SLOT_HI. -/
def execTickSlotRead (who : Sender) (s : State) : Host.Outcome State Fault Refusal :=
  .next (s.readAccess who (Reg.tickSlotLo.offset 0) fun s =>
    (s.setReg .tickSlotHi 0 (word (s.tick.slot / 2 ^ 32)), word s.tick.slot))

/-! ### The whorl (R402 to R418) -/

/-- WHORL_WRAP (R413): the slot edge at which the whorl passes 2^32 ns. When the next edge is no wrap, nothing happens. -/
def execWhorlWrap (s : State) : Host.Outcome State Fault Refusal :=
  if s.tick.locked && s.time.wraps then .next (slotEdge s) else .next s

/-- SLEW_END (R407): the slot edge with the last addition of a running slew. -/
def execSlewEnd (s : State) : Host.Outcome State Fault Refusal :=
  if s.tick.locked && s.time.slewLeft == 1 && s.time.slewPend.isNone then .next (slotEdge s) else .next s

/-- Whether R417 lets a sender write the time registers: the control complex while HOST_OWN = 0, the host while it is 1. -/
def State.ownsTime (s : State) : Sender → Bool
  | .cc => !s.flag F.tsCtl_HOST_OWN 0
  | _ => s.flag F.tsCtl_HOST_OWN 0

/-- A write of TS_INC_FRAC loads the shadow (R406). -/
def State.writeIncFrac (s : State) (v : Word) : State := { s with time := { s.time with incShadow := v.toNat } }

/-- A write of TS_INC_NS commits the shadow with the integer part; the increment governs from the next slot (R406). -/
def State.writeIncNs (s : State) (v : Word) : State :=
  { s with time := { s.time with incPend := some (v.toNat % 256 * 2 ^ 32 + s.time.incShadow) } }

/-- A write of TS_SLEW_COUNT ends the running slew at the edge and starts one of that many slots (R407, R408). -/
def State.writeSlewCount (s : State) (v : Word) : State :=
  { s with time := { s.time with slewPend := some v.toNat } }

/-- A write of TS_BASE_CTL: TGT is stored, and LOAD = 1 loads the staged base into the base it names at the edge (R412). -/
def State.writeBaseCtl (s : State) (v : Word) : State :=
  let s := s.setFld F.tsBaseCtl_TGT 0 (b2n (v.toNat.testBit 30))
  if v.toNat.testBit 31 then { s with time := { s.time with loadPend := some (v.toNat.testBit 30) } } else s

/-- TS_INC_COMMIT (R406). -/
def execTsIncCommit (who : Sender) (v : Word) (s : State) : Host.Outcome State Fault Refusal :=
  .next (s.access who (Reg.tsIncNs.offset 0) true fun s => if s.ownsTime who then s.writeIncNs v else s)

/-- SLEW_START (R407, R408). -/
def execSlewStart (who : Sender) (v : Word) (s : State) : Host.Outcome State Fault Refusal :=
  .next (s.access who (Reg.tsSlewCount.offset 0) true fun s =>
    if s.ownsTime who then (s.noteWrite .tsSlewCount 0 0xFFFFFFFF (partyOf who)).writeSlewCount v else s)

/-- BASE_LOAD (R412). -/
def execBaseLoad (who : Sender) (v : Word) (s : State) : Host.Outcome State Fault Refusal :=
  .next (s.access who (Reg.tsBaseCtl.offset 0) true fun s => if s.ownsTime who then s.writeBaseCtl v else s)

/-- The latches of a read of TS_WHORL_NS (R418). -/
def State.latchWhorl (s : State) : State :=
  let n := s.netNs
  let s := s.setReg .tsWhorlFrac 0 (word (s.time.whorl % 2 ^ 32))
  let s := s.setReg .tsNtNs 0 (word (n % 1000000000))
  let s := s.setReg .tsNtSecLo 0 (word (n / 1000000000))
  s.setReg .tsNtSecHi 0
    (word (b2n s.netValid * 2 ^ 31 + b2n s.time.parity * 2 ^ 30 + n / 1000000000 / 2 ^ 32 % 2 ^ 16))

/-- WHORL_READ (R418): the read returns the whorl ns and latches the fraction, PARITY, VALID and network time. -/
def execWhorlRead (who : Sender) (s : State) : Host.Outcome State Fault Refusal :=
  .next (s.readAccess who (Reg.tsWhorlNs.offset 0) fun s => (s.latchWhorl, word s.whorlNs))

/-- The firmware writes the base that continues the active one by 2^32 ns, and loads it into the next base (R415). -/
def State.loadNextBase (s : State) : State :=
  s.loadBase (!s.time.parity) (NetBase.ofNs (s.time.active.total + 2 ^ 32))

/-- NEXT_BASE_LOAD (R415): at the first epoch boundary after a wrap, firmware loads the next base, unless the host owns the
bases (R417), firmware does not run, or time of day has never been set. -/
def execNextBaseLoad (s : State) : Host.Outcome State Fault Refusal :=
  if s.fwRunning && s.time.nextLoadDue && s.epochOffset == 0 && s.time.todSet && !s.flag F.tsCtl_HOST_OWN 0 then
    .next ({ s.loadNextBase with time := { s.loadNextBase.time with nextLoadDue := false } })
  else .next s

end Sys2Proof.Machine
end

