-- ==== Sys2Proof/Machine/Gates.lean ====
section
/-!
DEFINITION. Gate control lists (R322 to R329, R336, R337): the gates in force, what they will do, the swap of the banks, and
the commands.
-/
namespace Sys2Proof.Machine
open Sys2Proof

/-! ### The lists -/

/-- The gate hardware of a port. -/
def State.gcl (s : State) (p : Nat) : GclRun := Table.get (fun _ => {}) s.path.gcl p
def State.setGcl (s : State) (p : Nat) (g : GclRun) : State :=
  { s with path := { s.path with gcl := Table.set (fun _ => {}) s.path.gcl p g } }

/-- The length, cycle, durations and gates of a bank: the admin bank or the operational one. -/
def State.gclLen (s : State) (p : Nat) (admin : Bool) : Nat :=
  min 1024 (if admin then s.fld F.gclSwapCtl_ADMIN_LEN p else s.fld F.gclOperLen_LEN p)
def State.gclCycle (s : State) (p : Nat) (admin : Bool) : Nat :=
  if admin then s.fld F.gclAdminCycle_CYCLE p else s.fld F.gclOperCycle_CYCLE p
def State.gclDur (s : State) (p e : Nat) (admin : Bool) : Nat :=
  if admin then s.fld F.gclAdminDur_DUR (p * 1024 + e) else s.fld F.gclOperDur_DUR (p * 1024 + e)
def State.gclVec (s : State) (p e : Nat) (admin : Bool) : Nat :=
  if admin then s.fld F.gclAdminGates_GATES (p * 1024 + e) else s.fld F.gclOperGates_GATES (p * 1024 + e)

/-- The gates in force: 0xFF while no list governs (R71, R339). -/
def State.gates (s : State) (p : Nat) : Nat := s.fld F.gclOperPos_GATES p

/-- Whether a list governs the port, or will from its next cycle start or swap (R322, R325). -/
def State.gated (s : State) (p : Nat) : Bool :=
  s.flag F.macMode_GATED p && (s.flag F.gclStat_VALID p || s.flag F.gclSwapCtl_ARM p)

/-- The whorl's distance to a 32-bit target, in 1/2^32 ns; 0 when it is due. -/
def State.untilWhorl (s : State) (t : Nat) : Nat :=
  if s.dueAt t then 0 else (t + 2 ^ 32 - s.whorlNs) % 2 ^ 32 * 2 ^ 32 - s.time.whorl % 2 ^ 32

/-! ### The fit test (R325) -/

/-- The least of some instants. -/
def soonest : List (Option Nat) → Option Nat
  | [] => none
  | none :: t => soonest t
  | some a :: t => match soonest t with
    | some b => some (min a b)
    | none => some a

/-- Where a walk through the gates to come stands: the bank, the gates from `t` on, the entry, and the instants of its end, of the
next cycle start and of an armed swap. Instants are in 1/2^32 ns from now. -/
structure GateWalk where
  admin : Bool := false
  vec : Nat
  t : Nat := 0
  entry : Nat := 0
  tEnd : Option Nat := none
  tCyc : Option Nat := none
  tSwap : Option Nat := none

/-- Entry `e` of a bank begins at `t`. -/
def State.gateEnter (s : State) (p : Nat) (w : GateWalk) (e t : Nat) : GateWalk :=
  { w with entry := e, t := t, vec := s.gclVec p e w.admin
           tEnd := if e + 1 < s.gclLen p w.admin then some (t + s.gclDur p e w.admin * 2 ^ 32) else none }

/-- Whether class `c` is closed at some instant from `a` to before `b`. A change takes effect at the edge of the first slot that
reaches it (R323). `fuel` bounds the changes looked at. -/
def State.gateCloses (s : State) (p c a b : Nat) : Nat → GateWalk → Bool
  | 0, _ => true
  | fuel + 1, w =>
    let inc := max 1 s.time.effInc
    let slot := fun t => cdiv t inc * inc
    let next := soonest [w.tEnd, w.tCyc, w.tSwap]
    let reaches := match next with
      | some n => decide (a < slot n)
      | none => true
    if b ≤ slot w.t then false
    else if !w.vec.testBit c && reaches then true
    else
      match next with
      | none => false
      | some n =>
        if w.tSwap = some n then
          let w := { w with admin := true, tSwap := none }
          if s.gclLen p true = 0 then s.gateCloses p c a b fuel { w with vec := 255, t := n, tEnd := none, tCyc := none }
          else s.gateCloses p c a b fuel { s.gateEnter p w 0 n with tCyc := some (n + max 1 (s.gclCycle p true) * 2 ^ 32) }
        else if w.tCyc = some n then
          s.gateCloses p c a b fuel { s.gateEnter p w 0 n with tCyc := some (n + max 1 (s.gclCycle p w.admin) * 2 ^ 32) }
        else s.gateCloses p c a b fuel (s.gateEnter p w (w.entry + 1) n)

/-- The walk from the present slot. -/
def State.gateNow (s : State) (p : Nat) : GateWalk :=
  let valid := s.flag F.gclStat_VALID p
  let running := s.flag F.macModeStat_GCL_ACT p
  let e := s.fld F.gclOperPos_ENTRY p
  { vec := s.gates p, entry := e
    tEnd := if valid && running && decide (e + 1 < s.gclLen p false)
      then some (s.untilWhorl ((s.gcl p).entryStart + s.gclDur p e false)) else none
    tCyc := if valid then some (s.untilWhorl (s.fld F.gclCycStart_START p)) else none
    tSwap := if s.flag F.gclSwapCtl_ARM p then some (s.untilWhorl (s.fld F.gclSwapTgt_TGT p)) else none }

/-- The occupancy of a frame of `len` bytes on a port's line (R312), in 1/256 slot, and in 1/256 ns. -/
def State.occSlots (s : State) (p len : Nat) : Nat := (len + 20) * 3200 / max 1 (s.rateGbps p)
def State.occNs (s : State) (p len : Nat) : Nat := cdiv ((len + 20) * 2048) (max 1 (s.rateGbps p))

/-- Whether a frame of class `c` and length `len` that starts at `startAt` (1/256 slot) ends, with the guard, before its gate
closes (R325). -/
def State.fits (s : State) (p c startAt len : Nat) : Bool :=
  if !s.gated p then true
  else
    let a := (startAt - s.tick.slot * 256) * s.time.effInc / 256 / 2 ^ 24 * 2 ^ 24
    let b := a + s.occNs p len * 2 ^ 24 + s.fld F.gclGuard_GUARD_NS p * 2 ^ 32
    !s.gateCloses p c a b 16384 (s.gateNow p)

/-- Whether a frame of known length can fit no window of its class (R326). -/
def State.neverFits (s : State) (p c len : Nat) : Bool :=
  let w := s.fld F.gclOperMaxwin_MAXWIN (p * 8 + c)
  s.flag F.macMode_GATED p && s.flag F.gclStat_VALID p && w != 0 && w != 0xFFFFFFFF
    && decide (w * 256 < s.occNs p len + s.fld F.gclGuard_GUARD_NS p * 256)

/-! ### Running the list (R322 to R324, R327) -/

/-- New gates take force; a frame on the line whose gate closes has overrun it (R327). -/
def State.applyGates (s : State) (p v : Nat) : State :=
  let closing := s.gates p &&& (255 ^^^ v % 256)
  let hit := fun (t : Tx) => match t.copy with
    | some c => { t with overran := t.overran || (closing.testBit c.cls && t.begun && decide (s.tick.slot * 256 < t.endAt)) }
    | none => t
  { s.setFld F.gclOperPos_GATES p v with path := { s.path with tx := OTable.modify hit s.path.tx (p * 2) } }

/-- Every gate is open: no list governs (R71, R80). -/
def State.openGates (s : State) (p : Nat) : State := (s.setFld F.macModeStat_GCL_ACT p 0).setFld F.gclOperPos_GATES p 255

/-- Entry `e` of the operational list begins at whorl ns `at_`. -/
def State.enterGate (s : State) (p e at_ : Nat) : State :=
  let s := (s.setGcl p { s.gcl p with entryStart := at_ % 2 ^ 32 }).setFld F.gclOperPos_ENTRY p e
  if s.flag F.macModeStat_GCL_ACT p then s.applyGates p (s.gclVec p e false) else s

/-- A cycle begins at its start: entry 0, and the start advances by CYCLE (R323). While GATED is set the list governs from
here (R80). -/
def State.startCycle (s : State) (p : Nat) : State :=
  let at_ := s.fld F.gclCycStart_START p
  let s := if s.flag F.macMode_GATED p then s.setFld F.macModeStat_GCL_ACT p 1 else s
  (s.enterGate p 0 at_).hwFld F.gclCycStart_START p ((at_ + s.gclCycle p false) % 2 ^ 32)

/-- Whether instant `a` lies before `b` on the 32-bit whorl. -/
def before32 (a b : Nat) : Bool := (b + 2 ^ 32 - a % 2 ^ 32) % 2 ^ 32 != 0 && decide ((b + 2 ^ 32 - a % 2 ^ 32) % 2 ^ 32 < 2 ^ 31)

/-- GATE_ENTRY_BOUNDARY (R322, R323): the whorl reaches the end of the current entry, and the next one begins. The last entry holds
until the cycle start. -/
def execGateEntryBoundary (p : Nat) (s : State) : Host.Outcome State Fault Refusal :=
  let e := s.fld F.gclOperPos_ENTRY p
  let t := ((s.gcl p).entryStart + s.gclDur p e false) % 2 ^ 32
  let cyc := s.fld F.gclCycStart_START p
  if 512 ≤ p || !s.flag F.gclStat_VALID p || s.gclLen p false ≤ e + 1 || !s.dueAt t || (s.dueAt cyc && !before32 t cyc) then .next s
  else .next (s.enterGate p (e + 1) t)

/-- GCL_CYCLE_START (R323): GCL_CYC_START falls due. -/
def execGclCycleStart (p : Nat) (s : State) : Host.Outcome State Fault Refusal :=
  if 512 ≤ p || !s.flag F.gclStat_VALID p || !s.dueAt (s.fld F.gclCycStart_START p) then .next s
  else .next (s.startCycle p)

/-- The whorl ns of the next slot. -/
def State.nextSlotNs (s : State) : Nat := (s.time.whorl + s.time.effInc) / 2 ^ 32 % 2 ^ 32

/-- A write of GCL_CYC_START (R324): the running cycle ends at the written instant, or in the next slot when that is already due. -/
def State.writeCycStart (s : State) (p v : Nat) : State :=
  (s.setFld F.gclCycStart_START p (if s.dueAt v then s.nextSlotNs else v)).raise F.gclStat_REALIGN p

/-- GCL_CYC_START_WRITE (R324): the control complex writes GCL_CYC_START of a front port. -/
def execGclCycStartWrite (who : Sender) (p : Nat) (v : Word) (s : State) : Host.Outcome State Fault Refusal :=
  if 512 ≤ p || !s.hasPort p then .next s
  else .next (s.ccWrite who (Reg.gclCycStart.offset p) fun s =>
    (s.noteWrite .gclCycStart p 0xFFFFFFFF (partyOf who)).writeCycStart p v.toNat)

/-! ### Swaps (R328) -/

/-- Two registers exchange their values. -/
def State.exchange (s : State) (a b : Reg) (i : Nat) : State := (s.setReg a i (s.reg b i)).setReg b i (s.reg a i)

/-- The banks exchange roles: entries, length, cycle, MAXWIN and BASE. -/
def State.exchangeBanks (s : State) (p : Nat) : State :=
  let s := (List.range 1024).foldl (fun s e =>
    (s.exchange .gclOperDur .gclAdminDur (p * 1024 + e)).exchange .gclOperGates .gclAdminGates (p * 1024 + e)) s
  let s := (List.range 8).foldl (fun s c => s.exchange .gclOperMaxwin .gclAdminMaxwin (p * 8 + c)) s
  let s := s.exchange .gclOperCycle .gclAdminCycle p
  let n := s.fld F.gclSwapCtl_ADMIN_LEN p
  let s := (s.setFld F.gclSwapCtl_ADMIN_LEN p (s.fld F.gclOperLen_LEN p)).setFld F.gclOperLen_LEN p n
  let g := s.gcl p
  s.setGcl p { g with operBase := g.adminBase, adminBase := g.operBase }

/-- Arm a swap (R328); one already due executes in the next slot. -/
def State.armSwap (s : State) (p : Nat) : State :=
  let late := s.dueAt (s.fld F.gclSwapTgt_TGT p)
  let s := ((s.setFld F.gclSwapCtl_ARM p 1).setFld F.gclStat_ARMED p 1).setGcl p { s.gcl p with late := late }
  if late then { s with path := { s.path with ranNow := s.path.ranNow ++ [(1001, p)] } } else s

/-- A write of GCL_SWAP_CTL (R328, R337, R339): while ARM = 1 only ARM changes, and a clear in the slot the target falls due does
not prevent the swap. -/
def State.writeSwapCtl (s : State) (p v : Nat) : State :=
  let arm := v.testBit 31
  if s.flag F.gclSwapCtl_ARM p then
    if arm || s.dueAt (s.fld F.gclSwapTgt_TGT p) then s
    else (s.setFld F.gclSwapCtl_ARM p 0).setFld F.gclStat_ARMED p 0
  else
    let s := s.setFld F.gclSwapCtl_ADMIN_LEN p (v % 2048)
    if arm then s.armSwap p else s

/-- GCL_SWAP_ARM (R328): the control complex writes GCL_SWAP_CTL of a front port. -/
def execGclSwapArm (who : Sender) (p : Nat) (v : Word) (s : State) : Host.Outcome State Fault Refusal :=
  if 512 ≤ p || !s.hasPort p then .next s
  else .next (s.ccWrite who (Reg.gclSwapCtl.offset p) fun s =>
    (s.noteWrite .gclSwapCtl p 0x800007FF (partyOf who)).writeSwapCtl p v.toNat)

/-- GCL_SWAP (R328): an armed swap target falls due. The banks exchange roles, the new list starts at the target, or at this slot's
whorl value when it was armed late; a list of no entries clears the operational list. -/
def execGclSwap (p : Nat) (s : State) : Host.Outcome State Fault Refusal :=
  if 512 ≤ p || !s.flag F.gclSwapCtl_ARM p || !s.dueAt (s.fld F.gclSwapTgt_TGT p) || s.path.ranNow.contains (1001, p) then .next s
  else
    let late := (s.gcl p).late
    let at_ := if late then s.whorlNs else s.fld F.gclSwapTgt_TGT p
    let s := (s.exchangeBanks p).hwFld F.gclSwapCtl_ARM p 0
    let s := ((s.setFld F.gclStat_ARMED p 0).setGcl p { s.gcl p with late := false, armedS := 0 }).raise F.gclStat_SWAP_DONE p
    let s := if late then s.raise F.gclStat_REALIGN p else s
    if s.gclLen p false = 0 then .next (((s.setFld F.gclStat_VALID p 0).setFld F.gclOperPos_ENTRY p 0).openGates p)
    else .next (((s.setFld F.gclStat_VALID p 1).hwFld F.gclCycStart_START p at_).startCycle p)

/-! ### Firmware (R328, R329, R336, R337) -/

/-- The run lengths of a class's open time through a list of (duration, gates), the longest. -/
def longestRun (c : Nat) : List (Nat × Nat) → Nat → Nat → Nat
  | [], run, best => max run best
  | (d, v) :: t, run, best => if v.testBit c then longestRun c t (run + d) best else longestRun c t 0 (max run best)

/-- MAXWIN of a class (R326): a window across the end of the cycle counts as one. -/
def maxWindow (cycle : Nat) (es : List (Nat × Nat)) (c : Nat) : Nat :=
  let sum := es.foldl (fun a e => a + e.1) 0
  let es := match es.getLast? with
    | some l => es.dropLast ++ [(l.1 + (cycle - sum), l.2)]
    | none => es
  if es.all fun e => e.2.testBit c then 0xFFFFFFFF else longestRun c (es ++ es) 0 0

/-- The first cycle start of a list at or after network time `t` ns (R322, R328). -/
def cycleAtOrAfter (base cycle t : Nat) : Nat := base + cdiv (t - base) cycle * cycle

/-- The earliest swap time that an acceptance now allows: 2 epochs of 671,088.64 ns ahead (R328). -/
def State.swapFloor (s : State) : Nat :=
  s.netNs + 1342177 + (if 72 * 2 ^ 32 < s.time.whorl % 2 ^ 32 * 100 then 2 else 1)

/-- Firmware writes the admin bank. -/
def State.writeAdmin (s : State) (g : GclHeld) : State :=
  let p := g.port
  let s := g.entries.zipIdx.foldl (fun s e =>
    (s.setReg .gclAdminDur (p * 1024 + e.2) (word e.1.1)).setReg .gclAdminGates (p * 1024 + e.2) (word e.1.2)) s
  let s := g.maxwin.zipIdx.foldl (fun s e => s.setReg .gclAdminMaxwin (p * 8 + e.2) (word e.1)) s
  let s := (s.setReg .gclAdminCycle p (word g.cycle)).setFld F.gclSwapCtl_ADMIN_LEN p g.entries.length
  s.setGcl p { s.gcl p with adminBase := g.base }

/-- Firmware arms the held swap of a port once its time is less than 2^30 ns ahead (R328). -/
def State.armHeld (s : State) (g : GclHeld) : State :=
  if s.netNs + 2 ^ 30 ≤ g.time then s
  else
    let tgt := (s.whorlNs + g.time + 2 ^ 32 - s.netNs % 2 ^ 32) % 2 ^ 32
    let s := { s with path := { s.path with gclHeld := s.path.gclHeld.filter fun h => h.port != g.port } }
    let s := (s.setReg .gclSwapTgt g.port (word tgt)).armSwap g.port
    s.setGcl g.port { s.gcl g.port with armedS := g.time }

/-- Every held swap is looked at, as the held list is (R60, R328). -/
def State.checkSwaps (s : State) : State := s.path.gclHeld.foldl (fun s g => s.armHeld g) s

/-- The entries of a GCL_SET: duration, gates, and whether a zero byte is nonzero. -/
def gclEntries (a : Args) (p : Packet) : List (Nat × Nat × Bool) :=
  (List.range (a.n 2)).map fun k =>
    if a.n 2 ≤ 56 then (a.n (5 + 5 * k), a.n (6 + 5 * k), a.n (7 + 5 * k) + a.n (8 + 5 * k) + a.n (9 + 5 * k) != 0)
    else (leAt p.dma (8 * k) 4, leAt p.dma (8 * k + 4) 1, leAt p.dma (8 * k + 5) 3 != 0)

/-- GCL_SET (R336): port, CYCLE, COUNT, BASE, CHANGE_TIME, then the entries, inline up to 56. -/
def execGclSet (p : Packet) (s : State) : Host.Outcome State Fault Refusal :=
  runPacket 0x0709 p (fun a s =>
    let port := a.n 0
    let cycle := a.n 1
    let es := gclEntries a p
    let base := unpackNet (a.n 3)
    let time := cycleAtOrAfter base (max 1 cycle) (max (unpackNet (a.n 4)) s.swapFloor)
    let list := es.map fun e => (e.1, e.2.1)
    let sum := list.foldl (fun n e => n + e.1) 0
    let badEntries := es.any (fun e => decide (e.1 < 8) || decide (2 ^ 30 ≤ e.1) || e.2.2) || decide (cycle < sum)
    let inline_ := decide (a.n 2 ≤ 56)
    guarded s
      ([ (!s.hasPort port, .resourceAbsent), (s.hidden port, .lanesInUse),
         (a.bad || decide (512 ≤ port) || a.n 2 == 0 || decide (1024 < a.n 2) || decide (cycle < 1000) || decide (1000000000 < cycle)
           || (inline_ && badEntries), .paramInvalid) ]
        ++ (if inline_ then [] else dmaChecks s p (a.n 5) false (8 * a.n 2) ++ [(p.dmaFault, .dmaFault), (badEntries, .paramInvalid)])
        ++ [ (decide (s.netNs + 86400 * 1000000000 < time), .schedRange), (s.flag F.gclSwapCtl_ARM port, .busy) ])
      (let g : GclHeld := { port := port, time := time, base := base, cycle := cycle, entries := list
                            maxwin := (List.range 8).map fun c => maxWindow cycle list c }
       let s := { s with path := { s.path with gclHeld := (s.path.gclHeld.filter fun (h : GclHeld) => h.port != port) ++ [g] } }
       Res.ok ((s.writeAdmin g).armHeld g) [(.wide 80, packNet time)])) s

/-- GCL_CANCEL (R337): a held swap is removed, an armed one disarmed; with none pending, or one that falls due in this slot,
SCHED_GONE. -/
def execGclCancel (p : Packet) (s : State) : Host.Outcome State Fault Refusal :=
  runPacket 0x070A p (fun a s =>
    let port := a.n 0
    let held := s.path.gclHeld.any fun (h : GclHeld) => h.port = port
    let armed := s.flag F.gclSwapCtl_ARM port && !s.dueAt (s.fld F.gclSwapTgt_TGT port)
    guarded s [ (a.bad, .paramInvalid), (!s.hasPort port, .resourceAbsent), (!held && !armed, .schedGone) ]
      (let s := { s with path := { s.path with gclHeld := s.path.gclHeld.filter fun (h : GclHeld) => h.port != port } }
       Res.ok (if armed then s.writeSwapCtl port 0 else s) [])) s

/-- GCL_GET (R337): port and bank; the bank's CYCLE, BASE and MAXWIN, the pending S, GCL_STAT, the current entry, and the entries,
as many as the reply holds. -/
def execGclGet (p : Packet) (s : State) : Host.Outcome State Fault Refusal :=
  runPacket 0x070B p (fun a s =>
    let port := a.n 0
    let admin := a.f 1
    let n := min 52 (s.gclLen port admin)
    let g := s.gcl port
    let pending := match s.path.gclHeld.find? fun h => h.port = port with
      | some h => h.time
      | none => if s.flag F.gclSwapCtl_ARM port then g.armedS else 0
    let win := fun c => if admin then s.fld F.gclAdminMaxwin_MAXWIN (port * 8 + c) else s.fld F.gclOperMaxwin_MAXWIN (port * 8 + c)
    guarded s [(a.bad, .paramInvalid), (!s.hasPort port, .resourceAbsent)]
      (Res.ok s ([ (.u 32, s.gclCycle port admin), (.wide 80, packNet (if admin then g.adminBase else g.operBase)) ]
        ++ (List.range 8).map (fun c => (Ty.u 32, win c))
        ++ [ (.wide 80, packNet pending), (.u 32, (s.reg .gclStat port).toNat), (.u 16, s.fld F.gclOperPos_ENTRY port), (.u 16, n) ]
        ++ (List.range n).flatMap fun e => [(Ty.u 32, s.gclDur port e admin), (Ty.u 32, s.gclVec port e admin)]))) s

end Sys2Proof.Machine
end

