-- ==== Sys2Proof/Machine/Pins.lean ====
section
/-!
DEFINITION. The time pins and the servo (chapter 14): event outputs, PPS_OUT, capture inputs, recovered clocks, the servo
and its sources.
-/
namespace Sys2Proof.Machine
open Sys2Proof

/-! ### Event outputs (R422, R423) -/

/-- The whorl instant in 1/256 ns that START and START_FRAC name. -/
def State.evtStart (s : State) (i : Nat) : Nat :=
  (s.reg .tsEvtStart i).toNat * 256 + s.fld F.tsEvtFrac_START_FRAC i

/-- The level of an output's ball when the output is asserted or not (R422: POL = 0 is active high). -/
def State.evtLevel (s : State) (i : Nat) (high : Bool) : Bool := high != s.flag F.tsEvtCtl_POL i

/-- Stop an output: EN is 0 and nothing runs; an output cut in its pulse deasserts at the next slot edge. A one-shot whose
pulse has begun ends its pulse first (R423). -/
def State.evtStop (s : State) (i : Nat) : State :=
  match OTable.get? s.time.outputs i with
  | some r =>
    if r.high && !s.flag F.tsEvtCtl_PERIODIC i then s
    else
      let s1 := { s with time := { s.time with outputs := Table.erase s.time.outputs i } }
      if r.high then (s1.setFld F.tsEvtStat_ACTIVE i 0).emit (.pin 0 i (s.evtLevel i false)) else s1
  | none => s

/-- EN is set: a START already due is missed, otherwise the output is armed (R423). A pulse that still runs, of a one-shot cleared after
it had begun, ends here: the registers no longer say when (DESIGN CHOICE, log entry 47). -/
def State.evtArm (s : State) (i : Nat) : State :=
  let s := if (OTable.get? s.time.outputs i).any (·.high) then (s.setFld F.tsEvtStat_ACTIVE i 0).emit (.pin 0 i (s.evtLevel i false)) else s
  if s.dueAt (s.reg .tsEvtStart i).toNat then
    (s.setFld F.tsEvtCtl_EN i 0).raise F.tsEvtStat_MISSED i
  else { s with time := { s.time with outputs := Table.insert s.time.outputs i { next := s.evtStart i } } }

/-- A write of TS_EVT_CTL: its fields take the written values; setting EN arms the output and clearing it stops it (R423). -/
def State.writeEvtCtl (s : State) (i : Nat) (v : Word) : State :=
  let was := s.flag F.tsEvtCtl_EN i
  let s0 := if was && !v.toNat.testBit 31 then s.evtStop i else s
  let s1 := s0.setReg .tsEvtCtl i (v &&& 0x8000000E)
  if v.toNat.testBit 31 && !was then s1.evtArm i else s1

/-- EVENT_OUTPUT_ARM (R423): a write of TS_EVT_CTL of output `i`. Only the control complex writes it. -/
def execEventOutputArm (who : Sender) (n : Nat) (v : Word) (s : State) : Host.Outcome State Fault Refusal :=
  if 8 ≤ n then .next s
  else .next (s.ccWrite who (Reg.tsEvtCtl.offset n) fun s =>
    (s.noteWrite .tsEvtCtl n 0x8000000E (partyOf who)).writeEvtCtl n v)

/-- The end of a one-shot: hardware clears EN and sets DONE (R422). -/
def State.evtDone (s : State) (i : Nat) : State :=
  ({ s with time := { s.time with outputs := Table.erase s.time.outputs i } }.hwFld F.tsEvtCtl_EN i 0).raise
    F.tsEvtStat_DONE i

/-- The instant of an output's edge after `t`, `n` 1/256 ns later. -/
def later256 (t n : Nat) : Nat := (t + n) % 2 ^ 40

/-- EVENT_OUTPUT_EDGE (R422): the whorl reaches the output's next edge. An asserting edge is followed WIDTH later by the
deasserting one; a one-shot then ends, a periodic output asserts again PERIOD after the last assertion. -/
def execEventOutputEdge (n : Nat) (s : State) : Host.Outcome State Fault Refusal :=
  match OTable.get? s.time.outputs n with
  | none => .next s
  | some r =>
    if !s.due256 r.next then .next s
    else
      let width := s.fld F.tsEvtWidth_NS n * 256
      let period := s.fld F.tsEvtPeriod_NS n * 256 + s.fld F.tsEvtFrac_PER_FRAC n
      if !r.high then
        .next (({ s with time := { s.time with
            outputs := Table.insert s.time.outputs n { next := later256 r.next width, high := true } } }.setFld
              F.tsEvtStat_ACTIVE n 1).emit (.pin 0 n (s.evtLevel n true)))
      else
        let s1 := (s.setFld F.tsEvtStat_ACTIVE n 0).emit (.pin 0 n (s.evtLevel n false))
        if s.flag F.tsEvtCtl_PERIODIC n then
          .next { s1 with time := { s1.time with
              outputs := Table.insert s1.time.outputs n { next := later256 r.next (period - width) } } }
        else .next (s1.evtDone n)

/-! ### PPS_OUT (R424) -/

/-- Whether the ns field of network time passes 999,999,999 to 0 within the present slot. -/
def State.secondPasses (s : State) : Bool :=
  decide (1000000000 * 2 ^ 32 ≤ s.netNs % 1000000000 * 2 ^ 32 + s.time.whorl % 2 ^ 32 + s.time.effInc)

/-- TS_PPS_CFG.WIDTH, treated as 8 to 500,000,000 ns. -/
def State.ppsWidth (s : State) : Nat := max 8 (min 500000000 (s.fld F.tsPpsCfg_WIDTH 0))

/-- PPS_OUT_PULSE (R424): with EN = 1 and network time valid, PPS_OUT rises at a second boundary of network time and falls
WIDTH later. A pulse in progress completes. -/
def execPpsOutPulse (s : State) : Host.Outcome State Fault Refusal :=
  match s.time.ppsHigh with
  | some t =>
    if s.due256 t then .next ({ s with time := { s.time with ppsHigh := none } }.emit (.pin 1 0 false)) else .next s
  | none =>
    if s.flag F.tsPpsCfg_EN 0 && s.netValid && s.secondPasses then
      let toSecond := ((1000000000 - s.netNs % 1000000000) * 2 ^ 32 - s.time.whorl % 2 ^ 32) / 2 ^ 24
      .next ({ s with time := { s.time with
          ppsHigh := some (later256 s.whorl256 (toSecond + s.ppsWidth * 256)) } }.emit (.pin 1 0 true))
    else .next s

/-! ### The servo (R419 to R421) -/

/-- The number of a servo state in records and replies, in the order of R419's table. -/
def ServoState.num : ServoState → Nat
  | .stopped => 0 | .freeRun => 1 | .acquiring => 2 | .locked => 3 | .holdover => 4

/-- The servo changes state: counted and logged (R420, R626 kind 0x4003). -/
def State.servoTo (s : State) (n : ServoState) : State :=
  if s.time.servo.state = n then s
  else
    let o := s.time.servo
    let s1 := { s with time := { s.time with servo := { o with
        state := n, since := s.epoch, goodRun := 0, changes := listModify (· + 1) o.changes n.num } } }
    s1.logEvent 0x4003 ([byte o.state.num, byte n.num, 0, 0] ++ leBytes 4 (ofSigned 32 o.lastOffset))

/-- The mean of the increments of the last 64 LOCKED epochs; with none recorded, the increment in force. -/
def State.meanInc (s : State) : Nat :=
  match s.time.servo.history with
  | [] => s.time.inc
  | h => h.foldl (· + ·) 0 / h.length

/-- The source of the servo is lost (R419). -/
def State.sourceLost (s : State) : State :=
  let s := { s with time := { s.time with servo := { s.time.servo with qualified := false, lastPps := none } } }
  match s.time.servo.state with
  | .acquiring => s.servoTo .freeRun
  | .locked => ({ s with time := { s.time with incPend := some s.meanInc } }).servoTo .holdover
  | _ => s

/-- The source qualifies (R419). -/
def State.sourceQualifies (s : State) : State :=
  let s := { s with time := { s.time with servo := { s.time.servo with qualified := true } } }
  match s.time.servo.state with
  | .freeRun | .holdover => s.servoTo .acquiring
  | _ => s

/-- Firmware sets network time so that it equals `n` ns in the slot after this one: the active base, then the next base
(R412, R429). Where that slot begins with a wrap, the next base governs it, and continues the active one by 2^32 ns. -/
def State.setNetTime (s : State) (n : Nat) : State :=
  let w := (s.time.whorl + s.time.effInc) / 2 ^ 32
  let all := 2 ^ 48 * 1000000000
  let s := s.loadBase s.time.parity (NetBase.ofNs ((n % all + all - w) % all))
  s.loadNextBase

/-- The servo's correction of an offset up to STEP_NS: a new increment, whose value the servo's control law chooses inside
the bounds of R405 and the spec does not give (a free value), and a slew against the offset at a rate of at most SLEW_MAX. -/
def State.servoCorrect (s : State) (offset : Int) : State :=
  let inc := Config.incMin + Config.freeNat s.free % (Config.incMax - Config.incMin + 1)
  let rate := 1 + Config.freeNat (s.free + 1) % max 1 s.time.servo.slewMax
  let count := (offset.natAbs * 2 ^ 32 + rate / 2) / rate
  let delta : Int := if 0 < offset then -(rate : Int) else rate
  let s := { s with time := { s.time with incPend := some inc }, free := s.free + 2 }
  let s := s.setReg .tsSlewDelta 0 (word (ofSigned 32 delta))
  if count = 0 then s else { s with time := { s.time with slewPend := some (min count (2 ^ 32 - 1)) } }

/-- SERVO_MEASUREMENT (R419): a measurement of the offset of network time from the source, in ns, and whether the source
qualifies or is lost. In modes 0 and 3, and while firmware is down, the servo does not run. -/
def execServoMeasurement (offset : Int) (qualifies : Bool) (s : State) : Host.Outcome State Fault Refusal :=
  let v := s.time.servo
  if !s.fwRunning || v.mode = 0 || v.mode = 3 then .next s
  else
    let s := { s with time := { s.time with servo := { v with lastOffset := offset } } }
    if !qualifies then .next s.sourceLost
    else
      match v.state with
      | .stopped | .freeRun | .holdover => .next s.sourceQualifies
      | st =>
        let big := v.stepNs < offset.natAbs
        if st = .acquiring && big then .next (s.setNetTime (((s.netNs : Int) - offset).toNat))
        else
          let s := if big then s else s.servoCorrect offset
          let run := if offset.natAbs ≤ v.lockNs then v.goodRun + 1 else 0
          let s := { s with time := { s.time with servo := { s.time.servo with goodRun := run } } }
          if st = .acquiring && 16 ≤ run then .next (s.servoTo .locked) else .next s

/-- At each epoch in LOCKED the servo keeps the increment for the mean of the last 64 (R419). -/
def State.servoEpoch (s : State) : State :=
  if s.time.servo.state = .locked then
    { s with time := { s.time with servo := { s.time.servo with
        history := (s.time.inc :: s.time.servo.history).take 64 } } }
  else s

/-- HOLDOVER_EXPIRE (R419): HOLD_MAX epochs pass in HOLDOVER and the servo falls to FREE_RUN with its increment kept. -/
def execHoldoverExpire (s : State) : Host.Outcome State Fault Refusal :=
  let v := s.time.servo
  if s.fwRunning && v.state == .holdover && decide (v.holdMax ≤ s.epoch - v.since) then .next (s.servoTo .freeRun)
  else .next s

/-! ### Capture inputs and PPS_IN (R425, R426, R432) -/

/-- An instant in units of 10 ps since slot 0, `sub` units into the present slot: a slot is 64 units. -/
def State.instant (s : State) (sub : Nat) : Nat := s.tick.slot * 64 + sub

/-- The records an input's FIFO holds, oldest first. -/
def State.captures (s : State) (j : Nat) : List CapRec := (OTable.get? s.time.captures j).getD []

/-- Put an input's FIFO, and its level. -/
def State.setCaptures (s : State) (j : Nat) (l : List CapRec) : State :=
  { s with time := { s.time with captures := Table.set (fun _ => []) s.time.captures j l } }.setFld F.tsCapStat_LEVEL j
    l.length

/-- Whether TS_CAP_CTL.EDGE selects an edge: 1 rising, 2 falling, 3 both. -/
def State.capSelects (s : State) (j : Nat) (rise : Bool) : Bool :=
  s.flag F.tsCapCtl_EN j && (s.fld F.tsCapCtl_EDGE j).testBit (if rise then 0 else 1)

/-- A PPS_IN record in servo mode 2 (R432): the first after a hint is paired with its second; later ones count on while they
lie 1 s ± 100 µs of whorl time apart, and otherwise the source is lost. -/
def State.ppsRecord (s : State) (whorlNs : Nat) : State :=
  let v := s.time.servo
  let s := { s with time := { s.time with servo := { v with lastEdgeSlot := s.tick.slot } } }
  match v.hint with
  | some (sec, _) =>
    let s := { s with time := { s.time with servo := { s.time.servo with hint := none, lastPps := some (sec, whorlNs) } } }
    s.sourceQualifies
  | none =>
    match v.lastPps with
    | some (sec, w) =>
      let gap := (whorlNs + 2 ^ 32 - w) % 2 ^ 32
      if 999900000 ≤ gap && gap ≤ 1000100000 then
        ({ s with time := { s.time with servo := { s.time.servo with lastPps := some (sec + 1, whorlNs) } } }).sourceQualifies
      else s.sourceLost
    | none => s

/-- CAPTURE_EDGE (R425, R426): an edge at input `j`, `sub` units of 10 ps into the slot, is stamped with the whorl value of
its instant. An edge within 100 ns of the last one of the selected kind is not stamped and sets OVF; a record that finds 16
held is lost with OVF and a count. -/
def execCaptureEdge (j sub : Nat) (rise : Bool) (s : State) : Host.Outcome State Fault Refusal :=
  if 5 ≤ j || !s.capSelects j rise then .next s
  else
    let now := s.instant sub
    let close := match OTable.get? s.time.lastEdge j with
      | some t => decide (now - t < 10000)
      | none => false
    let s := { s with time := { s.time with lastEdge := Table.insert s.time.lastEdge j now } }
    if close then .next (s.raise F.tsCapStat_OVF j)
    else
      let at256 := s.whorl256 + sub * 256 / 100
      let wrapped := decide (2 ^ 40 ≤ at256)
      let r : CapRec := { ns := at256 / 256 % 2 ^ 32, frac := at256 % 256, parity := s.time.parity != wrapped, rise := rise }
      let s := if (s.captures j).length < 16 then s.setCaptures j (s.captures j ++ [r])
        else (s.raise F.tsCapStat_OVF j).count .tsCapOvfCnt j 1
      if j = 4 && s.time.servo.mode == 2 then .next (s.ppsRecord r.ns) else .next s

/-- A read of TS_CAP_NS pops the oldest record and latches TS_CAP_INFO; an empty FIFO, or a reader other than its owner, pops nothing
and gives VALID = 0 (R426). -/
def State.capPop (s : State) (who : Sender) (j : Nat) : State × Word :=
  let owner := s.flag F.tsCapCtl_OWNER j
  let mine := match who with
    | .cc => owner
    | _ => !owner
  match mine, s.captures j with
  | true, r :: t =>
    ((s.setReg .tsCapInfo j (word (2 ^ 31 + b2n r.parity * 2 ^ 30 + b2n r.rise * 2 ^ 29 + r.frac))).setCaptures j t, word r.ns)
  | _, _ => (s.setReg .tsCapInfo j 0, 0)

/-- CAPTURE_POP (R426). -/
def execCapturePop (who : Sender) (j : Nat) (s : State) : Host.Outcome State Fault Refusal :=
  if 5 ≤ j then .next s
  else .next (s.readAccess who (Reg.tsCapNs.offset j) fun s => s.capPop who j)

/-- TOD_HINT_LAPSE (R432): 1.5 s after a hint with no PPS_IN record, the hint lapses with a log record. -/
def execTodHintLapse (s : State) : Host.Outcome State Fault Refusal :=
  match s.time.servo.hint with
  | some (sec, t) =>
    if t + 3 * Config.slotsPerSec / 2 ≤ s.tick.slot then
      .next ({ s with time := { s.time with servo := { s.time.servo with hint := none } } }.logEvent 0x4003
        (leBytes 8 sec))
    else .next s
  | none => .next s

/-- PPS_SOURCE_TIMEOUT (R432): in mode 2 no PPS_IN edge for 1.1 s, and the source is lost. -/
def execPpsSourceTimeout (s : State) : Host.Outcome State Fault Refusal :=
  let v := s.time.servo
  if s.fwRunning && v.mode == 2 && v.lastPps.isSome
      && decide (v.lastEdgeSlot + 11 * Config.slotsPerSec / 10 ≤ s.tick.slot) then .next s.sourceLost
  else .next s

/-! ### Recovered clocks (R427) -/

/-- Whether a recovered-clock output is squelched: disabled, its lane in no enabled port, without signal, not locked, or
with an idle or training receiver. -/
def State.rclkSquelched (s : State) (r : Nat) : Bool :=
  let l := s.fld F.tsRclkCtl_LANE r
  !s.flag F.tsRclkCtl_EN r || !s.flag F.lnRate_ACTIVE l || s.flag F.lnStat_LOS l || !s.flag F.lnStat_LOCK l
    || s.flag F.lnStat_IDLE l

/-- RCLK_SQUELCH_CHANGE (R427): SQUELCHED follows the conditions, and each change sets SQ_CHG. -/
def execRclkSquelchChange (r : Nat) (s : State) : Host.Outcome State Fault Refusal :=
  if 2 ≤ r || s.rclkSquelched r == s.flag F.tsRclkStat_SQUELCHED r then .next s
  else .next (((s.setFld F.tsRclkStat_SQUELCHED r (b2n (s.rclkSquelched r))).raise F.tsRclkStat_SQ_CHG r).emit
    (.pin 2 r (s.rclkSquelched r)))

end Sys2Proof.Machine
end

