-- ==== Sys2Proof/Machine/TimeCmds.lean ====
section
/-!
DEFINITION. The command packets of the time group that act on the whorl, the servo and the time pins (R428 to R434).
-/
namespace Sys2Proof.Machine
open Sys2Proof

/-- A Boolean as a reply flag. -/
def flagOf (b : Bool) : Ty × Nat := (.flag, b2n b)

/-- TIME_GET (R428). -/
def execTimeGet (p : Packet) (s : State) : Host.Outcome State Fault Refusal :=
  runPacket 0x0900 p (fun _ s =>
    let t := s.time
    Res.ok s
      [ (.u 32, s.whorlNs), (.u 32, t.whorl % 2 ^ 32), flagOf t.parity, (.wide 80, packNet s.netNs), flagOf s.netValid,
        (.wide 80, t.even.ns + t.even.sec * 2 ^ 32), flagOf t.armEven, (.wide 80, t.odd.ns + t.odd.sec * 2 ^ 32),
        flagOf t.armOdd, flagOf t.todSet, flagOf t.staleAct, (.u 40, t.inc), (.s 32, (s.reg .tsSlewDelta 0).toNat),
        (.u 32, t.slewLeft), (.u 8, t.servo.state.num) ]) s

/-- TIME_SET (R429): an 80-bit network time; the bases are loaded so that network time equals it in the slot after. -/
def execTimeSet (p : Packet) (s : State) : Host.Outcome State Fault Refusal :=
  runPacket 0x0901 p (fun a s =>
    guarded s
      [ (s.time.servo.mode != 0, .servoOwned),
        (a.bad || decide (999999999 < a.n 0 % 2 ^ 32), .paramInvalid) ]
      (Res.ok (s.setNetTime (unpackNet (a.n 0))) [])) s

/-- The slots of a slew of `phase` 1/256 ns by `delta` 2^-32 ns a slot, rounded to the nearest slot (R430). -/
def slewSlots (phase : Int) (delta : Nat) : Nat := (phase.natAbs * 2 ^ 24 + delta / 2) / delta

/-- TIME_ADJ (R430): a flag and a 40-bit increment; a flag, a signed phase in 1/256 ns and a DELTA. -/
def execTimeAdj (p : Packet) (s : State) : Host.Outcome State Fault Refusal :=
  runPacket 0x0902 p (fun a s =>
    let inc := if a.f 0 then a.n 1 else s.time.inc
    let phase := a.i 3 64
    let delta := a.n 4
    let n := if a.f 2 then slewSlots phase delta else 0
    let signed : Int := if phase < 0 then -(delta : Int) else delta
    let sum : Int := (inc : Int) + (if a.f 2 then signed else 0)
    guarded s
      [ (s.time.servo.mode != 0, .servoOwned),
        (a.bad || decide (inc < Config.incMin) || decide (Config.incMax < inc) || decide (sum < Config.incMin)
          || decide ((Config.incMax : Int) < sum)
          || (a.f 2 && (decide (25600000000 < phase.natAbs) || decide (delta < 1) || decide (2 ^ 28 < delta)
            || decide (2 ^ 32 - 1 < n))), .paramInvalid) ]
      (let s := if a.f 0 then { s with time := { s.time with incShadow := inc % 2 ^ 32, incPend := some inc } } else s
       let s := if a.f 2 then
           { s.setReg .tsSlewDelta 0 (word (ofSigned 32 signed)) with
             time := { s.time with slewPend := some n } } else s
       Res.ok s [(.u 32, n)])) s

/-- Whether a BC domain is configured for termination on a port (R446): an enabled entry of the port names it. -/
def State.domainConfigured (s : State) (p d : Nat) : Bool :=
  (List.range 8).any fun k =>
    (s.fld F.tsPortDomEn_EN p).testBit k
      && (if k < 4 then (s.reg .tsPortDomLo p).toNat / 2 ^ (8 * k) % 256 else (s.reg .tsPortDomHi p).toNat / 2 ^ (8 * (k - 4)) % 256) == d

/-- TIME_SERVO_SET (R431). -/
def execTimeServoSet (p : Packet) (s : State) : Host.Outcome State Fault Refusal :=
  runPacket 0x0903 p (fun a s =>
    let mode := a.n 0
    guarded s
      [ (mode == 1 && !s.hasPort (a.n 1), .resourceAbsent),
        (a.bad || (mode == 1 && (!s.flag F.macMode_BC (a.n 1) || !s.domainConfigured (a.n 1) (a.n 2))), .paramInvalid),
        (a.n 3 == 0 || decide (a.n 4 ≤ a.n 3) || decide (a.n 5 < 1) || decide (2 ^ 28 < a.n 5), .paramInvalid) ]
      (let v := s.time.servo
       let s := { s with time := { s.time with servo := { v with
           mode := mode, port := a.n 1, domain := a.n 2, lockNs := a.n 3, stepNs := a.n 4, slewMax := a.n 5
           holdMax := a.n 6 } } }
       let s := s.setFld F.tsCtl_HOST_OWN 0 (b2n (mode == 3))
       let s := if mode = 2 then s.setFld F.tsCapCtl_OWNER 4 1 else s
       let s := if mode = 0 ∨ mode = 3 then s.servoTo .stopped
         else if mode = v.mode then s else s.servoTo .freeRun
       Res.ok s [])) s

/-- TIME_SERVO_GET (R431): mode, parameters, state, last offset, epochs in the present state and the count of each state's
entries. -/
def execTimeServoGet (p : Packet) (s : State) : Host.Outcome State Fault Refusal :=
  runPacket 0x0904 p (fun _ s =>
    let v := s.time.servo
    Res.ok s ([ (.u 2, v.mode), (.u 10, v.port), (.u 8, v.domain), (.u 32, v.lockNs), (.u 32, v.stepNs), (.u 32, v.slewMax),
      (.u 32, v.holdMax), (.u 8, v.state.num), (.s 64, ofSigned 64 v.lastOffset), (.u 32, s.epoch - v.since) ]
      ++ v.changes.map fun n => (.u 32, n))) s

/-- TOD_HINT (R432). -/
def execTodHint (p : Packet) (s : State) : Host.Outcome State Fault Refusal :=
  runPacket 0x0905 p (fun a s =>
    guarded s
      [ (a.bad || s.time.servo.mode != 2, .paramInvalid), (decide (2 ^ 48 - 1 < a.n 0), .paramInvalid) ]
      (Res.ok { s with time := { s.time with servo := { s.time.servo with hint := some (a.n 0, s.tick.slot) } } }
        [(.u 32, s.whorlNs)])) s

/-- Firmware writes an output's registers and sets EN with the whorl instant of its start (R423, R433). -/
def State.evtProgram (s : State) (h : EvtHeld) : State :=
  let s := s.writeEvtCtl h.out 0
  let s := { s with time := { s.time with evts := s.time.evts.filter (fun (e : EvtHeld) => e.out != h.out) ++ [h] } }
  let s := s.setReg .tsEvtStart h.out (word ((s.whorlNs + (h.start - s.netNs)) % 2 ^ 32))
  let s := s.setReg .tsEvtFrac h.out (word h.frac)
  let s := s.setReg .tsEvtPeriod h.out (word h.period)
  let s := s.setReg .tsEvtWidth h.out (word h.width)
  s.writeEvtCtl h.out (word h.ctl)

/-- TIME_EVT_SET (R433): output, EN, PERIODIC, POL, network-time START, PERIOD with fraction, WIDTH. EN = 0 stops the output.
A start less than 2^30 ns ahead is armed at once, a later one is held (R423). -/
def execTimeEvtSet (p : Packet) (s : State) : Host.Outcome State Fault Refusal :=
  runPacket 0x0906 p (fun a s =>
    let i := a.n 0
    let start := unpackNet (a.n 4)
    let periodic := a.f 2
    let breaks := (periodic && (decide (a.n 5 < 16) || decide (a.n 5 < a.n 7 + 8))) || decide (a.n 7 < 8)
    let unheld := { s with time := { s.time with held := s.time.held.filter fun h => h.out != i } }
    if !a.f 1 then
      guarded s [(a.bad || decide (7 < i), .paramInvalid)] (Res.ok (unheld.writeEvtCtl i 0) [])
    else
      guarded s
        [ (a.bad || decide (7 < i) || breaks, .paramInvalid), (!s.netValid, .todUnset),
          (decide (start ≤ s.netNs), .schedPast), (decide (86400 * 1000000000 < start - s.netNs), .schedRange) ]
        (let h : EvtHeld := { out := i, start := start, frac := a.n 6 * 256, period := a.n 5, width := a.n 7
                              ctl := 2 ^ 31 + (s.fld F.tsEvtCtl_IE i) * 8 + b2n (a.f 3) * 4 + b2n periodic * 2 }
         if start - s.netNs < 2 ^ 30 then Res.ok (unheld.evtProgram h) []
         else
           let s := unheld.writeEvtCtl i 0
           Res.ok { s with time := { s.time with held := s.time.held ++ [h] } } [])) s

/-- TIME_PPS_SET (R433): EN, and WIDTH from 8 ns to 500,000,000 ns. -/
def execTimePpsSet (p : Packet) (s : State) : Host.Outcome State Fault Refusal :=
  runPacket 0x0907 p (fun a s =>
    guarded s [(a.bad || decide (a.n 1 < 8) || decide (500000000 < a.n 1), .paramInvalid)]
      (Res.ok (s.setReg .tsPpsCfg 0 (word (a.n 0 * 2 ^ 31 + a.n 1))) [])) s

/-- TIME_CAP_SET (R434): input, EN, EDGE, OWNER. -/
def execTimeCapSet (p : Packet) (s : State) : Host.Outcome State Fault Refusal :=
  runPacket 0x0908 p (fun a s =>
    guarded s
      [ (a.bad || decide (4 < a.n 0) || (a.f 1 && a.n 2 == 0) || (a.n 0 == 4 && !a.f 3 && s.time.servo.mode == 2),
          .paramInvalid) ]
      (let j := a.n 0
       let s := s.setFld F.tsCapCtl_EN j (a.n 1)
       let s := s.setFld F.tsCapCtl_EDGE j (a.n 2)
       Res.ok (s.setFld F.tsCapCtl_OWNER j (a.n 3)) [])) s

/-- A capture record as a reply gives it: the whorl value, the edge, and its network-time form with VALID (R426, R434). -/
def State.capReply (s : State) (r : CapRec) : List (Ty × Nat) :=
  let base := if r.parity then s.time.odd else s.time.even
  [ (.u 32, r.ns), (.u 8, r.frac), flagOf r.parity, flagOf r.rise, flagOf s.netValid,
    (.wide 80, packNet (base.total + r.ns)) ]

/-- TIME_CAP_GET (R434): up to MAX records of an input that firmware owns, taken from its FIFO. -/
def execTimeCapGet (p : Packet) (s : State) : Host.Outcome State Fault Refusal :=
  runPacket 0x0909 p (fun a s =>
    guarded s
      [ (a.bad || decide (4 < a.n 0) || decide (a.n 1 < 1) || decide (16 < a.n 1) || !s.flag F.tsCapCtl_OWNER (a.n 0),
          .paramInvalid) ]
      (let l := (s.captures (a.n 0)).take (a.n 1)
       Res.ok (s.setCaptures (a.n 0) ((s.captures (a.n 0)).drop (a.n 1)))
         ((.u 8, l.length) :: l.flatMap s.capReply))) s

/-- TIME_RCLK_SET (R434): output, EN, lane, DIV. -/
def execTimeRclkSet (p : Packet) (s : State) : Host.Outcome State Fault Refusal :=
  runPacket 0x090A p (fun a s =>
    guarded s
      [ (a.bad || decide (1 < a.n 0), .paramInvalid), (!s.hasLane (a.n 2), .resourceAbsent) ]
      (Res.ok (s.setReg .tsRclkCtl (a.n 0) (word (a.n 1 * 2 ^ 31 + a.n 2 * 2 ^ 16 + a.n 3))) [])) s

end Sys2Proof.Machine
end

