-- ==== Sys2Proof/Machine/Scheduler.lean ====
section
/-!
DEFINITION. The start decision of a port (R312 to R321, R326, R357, R438, R441, R449, R557): heads and their checks, the class, the
queue, the charges, and the reservation of receive descriptors.
-/
namespace Sys2Proof.Machine
open Sys2Proof

/-! ### The line (R312, R388) -/

/-- The scheduler of a port. -/
def State.sched (s : State) (p : Nat) : Sched := Table.get (fun _ => {}) s.path.sched p
def State.setSched (s : State) (p : Nat) (d : Sched) : State :=
  s.inPath fun t => { t with sched := Table.set (fun _ => {}) t.sched p d }

/-- The transmit side of a port's lanes. -/
def State.line (s : State) (p : Nat) : PortLine := Table.get (fun _ => {}) s.path.lines p
def State.setLine (s : State) (p : Nat) (l : PortLine) : State :=
  s.inPath fun t => { t with lines := Table.set (fun _ => {}) t.lines p l }

/-- The frame on a port's line, and the one chosen and not begun. -/
def State.lineTx (s : State) (p : Nat) : Option Tx := OTable.get? s.path.tx (2 * p)
def State.nextTx (s : State) (p : Nat) : Option Tx := OTable.get? s.path.tx (2 * p + 1)
def State.setTx (s : State) (k : Nat) (t : Option Tx) : State :=
  s.inPath fun q => { q with tx := match t with
    | some t => Table.insert q.tx k t
    | none => Table.erase q.tx k }

/-- Slots of a transmit codeword of a front port (R438): 80/w of GL4, else 5,440 bits at the port's rate. -/
def State.codeword (s : State) (p : Nat) : Nat :=
  if s.laneRate p = 3 then 80 / max 1 (s.width p) else 8000 / max 1 (s.rateGbps p)

/-- The first transmit codeword boundary at or after a slot. -/
def State.boundaryFrom (s : State) (p t : Nat) : Nat :=
  let per := max 1 (s.codeword p)
  let o := (s.line p).txStart
  o + cdiv (t - o) per * per

/-- PCS_STATE.IDLE_TX: 0 ACTIVE, 1 ENTERING, 2 IDLE, 3 EXITING. -/
def State.idleTx (s : State) (p : Nat) : Nat := s.fld F.pcsState_IDLE_TX p

/-- The slot from which a port's lanes can transmit, for a request in this slot (R388). -/
def State.awakeAt (s : State) (p : Nat) : Nat :=
  let l := s.line p
  match s.idleTx p with
  | 2 => s.boundaryFrom p (l.exitReq.getD s.tick.slot + 201)
  | 3 => l.due
  | 1 => if s.tick.slot < l.due then 0 else s.boundaryFrom p (l.due + 4 + 200)
  | _ => 0

/-- A choice, or a due control frame, asks for an exit; an entry that has not reached its boundary is abandoned (R387, R388). -/
def State.wakeLine (s : State) (p : Nat) : State :=
  let l := s.line p
  if 512 ≤ p then s
  else
    match s.idleTx p with
    | 0 | 3 => s.setLine p { l with lastChosen := s.tick.slot }
    | 1 =>
      if s.tick.slot < l.due then
        ((s.setLine p { l with lastChosen := s.tick.slot, due := 0 }).setFld F.pcsState_IDLE_TX p 0).setFld F.macModeStat_IDLE_ACT p 0
      else s.setLine p { l with lastChosen := s.tick.slot, exitReq := some (l.exitReq.getD (l.due + 3)) }
    | _ => s.setLine p { l with lastChosen := s.tick.slot, exitReq := some (l.exitReq.getD s.tick.slot) }

/-- The start instant of a frame chosen now, in 1/256 slot (R312, R325). -/
def State.startAt (s : State) (p : Nat) : Nat :=
  max (max (s.sched p).lineEnd (256 * (s.tick.slot + 1))) (256 * s.awakeAt p)

/-- Whether a port decides in this slot (R312): the line is free, or becomes free before the end of the next slot. The end of a
frame that is still arriving is not known. -/
def State.mayDecide (s : State) (p : Nat) : Bool :=
  let known := match s.lineTx p with
    | some t => match t.copy with
      | some c => t.under || (match s.frame? c.fid with
        | some f => f.ended.isSome || f.entersWhole
        | none => true)
      | none => true
    | none => true
  (s.nextTx p).isNone && known && decide ((s.sched p).lineEnd < 256 * (s.tick.slot + 2))

/-! ### Heads (R212, R314) -/

/-- The length that the fit test and the charges use, and whether it is known (R319, R325). -/
def State.startLen (s : State) (p : Nat) (f : Frame) : Nat × Bool :=
  if f.ended.isSome || f.entersWhole then (max 64 (f.body.length + 4), true)
  else if f.md.hdrLenV then (f.md.hdrLen, true)
  else (s.mfs p, false)

/-- Conditions 1 to 5 of R212 for a copy, and R556. -/
def State.mayCut (s : State) (c : Copy) (f : Frame) : Bool :=
  s.flag F.macMode_CUT c.port && f.mir.isNone && c.port != 513 && c.port != 512
    && !(f.port == 513 && f.md.ptpEv && f.md.ptpType == 0)
    && !s.inDeep c.queue && ((s.queueCopies c.queue).filter fun x => !x.started).length == 1
    && (decide (512 ≤ f.port) || decide (s.rateGbps c.port ≤ s.rateGbps f.port))

/-- 1 s in 1/256 ns. -/
def second256 : Nat := 256 * 10 ^ 9

/-- The difference of two stamps modulo 2^32 ns, in 1/256 ns (R442). -/
def stampDiff (later earlier : Nat) : Nat := (later + 2 ^ 40 - earlier % 2 ^ 40) % 2 ^ 40

/-- Whether an event message has stayed 1 s or longer (R73, R314, R450). -/
def State.overstays (s : State) (p : Nat) (f : Frame) (estamp : Nat) : Bool :=
  (s.flag F.macMode_TC p || s.flag F.macMode_BC p) && f.md.ptpEv
    && (decide (second256 ≤ stampDiff estamp f.md.istamp) || decide (Config.slotsPerSec ≤ s.tick.slot - f.start)
      || (f.md.corrIns && decide (second256 ≤ stampDiff estamp f.md.hdrIstamp)))

/-- A head as it was checked: what keeps it from starting. -/
structure Look where
  copy : Copy
  frame : Frame
  len : Nat
  known : Bool
  paused : Bool := false
  debt : Bool := false
  arriving : Bool := false
  closed : Bool := false

/-- An eligible head (R314). -/
def Look.eligible (l : Look) : Bool := !l.paused && !l.debt && !l.arriving && !l.closed

/-- Whether a class is paused by the partner (R296). -/
def State.paused (s : State) (p c : Nat) : Bool := (s.flow p).timers.getD c 0 != 0

/-- Whether a shaper forbids a start (R319). -/
def State.inDebt (s : State) (key : Nat) : Bool := s.rateNow key != 0 && decide (s.credit key < 0)

/-- Check the head of queue offset `i` of a port (R314). -/
def State.lookHead (s : State) (p i startAt estamp : Nat) : State × Option Look :=
  let qu := 16 * p + i
  match (s.queueCopies qu).find? fun (c : Copy) => !c.started with
  | none => (s, none)
  | some c =>
    match s.frame? c.fid with
    | none => (s, none)
    | some f =>
      let l := s.startLen p f
      if s.overstays p f estamp then ((s.loseCopy c.fid p 0x48).raise F.schStat_RES_DROP p, none)
      else
        let done := c.whole && (f.ended.isSome || f.entersWhole)
        if !done && s.inDeep qu then (s, none)
        else
          let cut := c.cutOk.getD (s.mayCut c f)
          let s := if done then s else s.onCopy c.fid p fun c => { c with cutOk := some cut }
          let fits := s.fits p c.cls startAt l.1
          let look : Look := { copy := c, frame := f, len := l.1, known := l.2, paused := s.paused p c.cls, debt := s.inDebt qu
                               arriving := !done && !cut, closed := !fits }
          if !look.paused && !look.debt && !look.arriving && !fits && l.2 && s.neverFits p c.cls l.1 then
            ((s.loseCopy c.fid p 0x49).raise F.schStat_GATE_DROP p, none)
          else (s, some look)

/-- The heads of a port's 16 queues, by queue offset. -/
def State.lookHeads (s : State) (p startAt estamp : Nat) : State × List (Nat × Look) :=
  (List.range 16).foldl (fun (acc : State × List (Nat × Look)) i =>
    match acc.1.lookHead p i startAt estamp with
    | (s, some l) => (s, acc.2 ++ [(i, l)])
    | (s, none) => (s, acc.2)) (s, [])

/-! ### Classes and queues (R316 to R318) -/

/-- The head that a class would send: the queues take turns (R318). -/
def classHead (d : Sched) (ls : List (Nat × Look)) (c : Nat) : Option (Nat × Look) :=
  let at_ := fun i => ls.find? fun (e : Nat × Look) => e.1 = i && e.2.eligible
  if d.mcNext.testBit c then (at_ (c + 8)).or (at_ c) else (at_ c).or (at_ (c + 8))

/-- The next weighted class below `c`, from the highest again after the lowest (R317). -/
def weightedBelow (sp c : Nat) : Nat :=
  let w := fun k => !sp.testBit k
  match (((List.range c).reverse).find? w).or (((List.range 8).reverse).find? w) with
  | some k => k
  | none => c

/-- The deficit round robin of R317: `elig` gives the charged length of an eligible class. -/
def drr (sp : Nat) (quantum : Nat → Nat) (elig : Nat → Option Nat) : Nat → Sched → Sched × Option Nat
  | 0, d => (d, none)
  | n + 1, d =>
    let c := d.ptr
    let pass := fun (d : Sched) => { d with turn := setBits d.turn c c 0, ptr := weightedBelow sp c }
    match elig c with
    | none => drr sp quantum elig n (pass d)
    | some len =>
      let d := if d.turn.testBit c then d
        else { d with dc := listModify (· + quantum c) d.dc c, turn := setBits d.turn c c 1 }
      if len ≤ d.dc.getD c 0 then ({ d with dc := listModify (· - len) d.dc c }, some c)
      else drr sp quantum elig n (pass d)

/-- LEN_ADJ of a port (R317), and the charge of a length. -/
def State.chargeOf (s : State) (p len : Nat) : Nat := ((len : Int) + toSigned 7 (s.fld F.schPortCfg_LEN_ADJ p)).toNat

/-- The class that a decision serves (R316, R317): the highest-ranked entity with an eligible head. -/
def State.pickClass (s : State) (p : Nat) (d : Sched) (ls : List (Nat × Look)) : Sched × Option Nat :=
  let sp := s.fld F.schPortCfg_SP_MASK p
  let elig := fun c => (classHead d ls c).map fun e => s.chargeOf p e.2.len
  let empty := fun c => s.queueEmpty (16 * p + c) && s.queueEmpty (16 * p + c + 8)
  let d := { d with dc := (d.dc.zipIdx).map fun e => if !sp.testBit e.2 && empty e.2 then 0 else e.1 }
  let d := if sp.testBit d.ptr then { d with ptr := weightedBelow sp d.ptr } else d
  let top := ((List.range 8).reverse).find? fun c => !sp.testBit c
  let any := (List.range 8).any fun c => !sp.testBit c && (elig c).isSome
  match ((List.range 8).reverse).find? fun c => if sp.testBit c then (elig c).isSome else top == some c && any with
  | none => (d, none)
  | some c =>
    if sp.testBit c then (d, some c)
    else drr sp (fun k => s.fld F.schClsQuant_QUANTUM (p * 8 + k)) (fun k => if sp.testBit k then none else elig k) 9 d

/-! ### What a chosen frame carries (R441, R449) -/

/-- Whether network time is valid at a stamp's instant: past a wrap still to come, the next base must be armed (R413, R414). -/
def State.validAt (s : State) (stamp : Nat) : Bool :=
  let ahead := decide (stampDiff stamp s.whorl256 < 2 ^ 39)
  s.netValid && (!(s.acrossWrap stamp && ahead) || s.time.arm (!s.time.parity))

/-- What the MAC will do to a copy on port `p` (R441). -/
def State.macAct (s : State) (p : Nat) (f : Frame) : Nat :=
  if 512 ≤ p || !f.md.ptpEv || !s.flag F.tsStpCtl_ONE_STEP_EN 0 || f.mir.isSome then 0
  else if f.md.iport = 512 || f.md.iport = 513 then (if f.md.originIns || f.md.corrIns then 2 else 0)
  else if s.flag F.macMode_BC p && s.domainConfigured p f.md.ptpDom then 3
  else if s.flag F.macMode_TC p then 1
  else 0

/-! ### Receive descriptors (R555 to R557) -/

/-- The receive ring of a copy for port 512 (R555). -/
def State.rxRing (s : State) (i hash : Nat) : Nat :=
  (s.fld F.dmaRxqMap_RING_BASE i + hash % 2 ^ s.fld F.dmaRxqMap_RING_LOG2 i) % 32

/-- BUF_SIZE of a receive ring (R579). -/
def State.rxBuf (s : State) (r : Nat) : Nat := 128 * max 2 (min 128 (s.fld F.dmaRxBuf_BUF_128 r))

/-- Descriptors that the device holds (R553). -/
def State.held32 (s : State) (tail head : Reg) (r : Nat) : Nat :=
  ((s.reg tail r).toNat + 2 ^ 32 - (s.reg head r).toNat) % 2 ^ 32

/-- Reserve descriptors for a frame of length `len` on its ring (R557): none when they cannot be had. -/
def State.reserveRx (s : State) (i : Nat) (f : Frame) (len : Nat) : State × Bool :=
  let r := s.rxRing i f.md.hash
  let keep := s.flag F.dmaRxCfg_KEEP_FCS r
  let n := cdiv (len - 4 + 4 * b2n keep) (s.rxBuf r)
  if s.flag F.dmaRxCfg_EN r && s.host.bme && decide (n ≤ s.held32 .dmaRxTail .dmaRxHead r) then
    let h := (s.reg .dmaRxHead r).toNat
    let s := s.setReg .dmaRxHead r (word (h + n))
    ({ s with host := { s.host with
        jobs := s.host.jobs ++ [{ fid := f.id, ring := r, idx := h, n := n, fcs := keep, md := f.md }] } }, true)
  else (s.count .dmaRxNodescCnt r 1, false)

/-! ### The decision -/

/-- Charge the shapers of a started frame, or give the charge back (R319, R320). -/
def State.chargeShapers (s : State) (p qu : Nat) (bytes : Int) : State :=
  [qu, portShaper p].foldl (fun s key =>
    if s.rateNow key = 0 then s else s.setCredit key (s.credit key - bytes * 65536)) s

/-- A head is chosen (R313 step 6): the MAC's length check, the reservation of port 512, the charges and the start. -/
def State.choose (s : State) (p i startAt estamp : Nat) (d : Sched) (l : Look) : State :=
  let c := l.copy
  if l.known && decide (s.mfs p < l.len) then ((s.loseCopy c.fid p 0x09).raise F.macStat_TX_OVERSIZE p)
  else
    let r := if p = 512 then s.reserveRx i l.frame l.len else (s, true)
    if !r.2 then r.1.loseCopy c.fid p 0x58
    else
      let s := r.1
      let charge := s.chargeOf p l.len
      let s := s.chargeShapers p (16 * p + i) charge
      let endAt := startAt + s.occSlots p l.len
      let act := s.macAct p l.frame
      let t : Tx := { copy := some c, startAt := startAt, endAt := endAt, len := l.len, charged := charge, estamp := estamp
                      parity := s.parityAt estamp, netNs := s.netOf estamp, netValid := s.validAt estamp, act := act
                      originInv := act == 2 && l.frame.md.originIns && !s.validAt estamp }
      let d := { d with lineEnd := endAt }
      let s := (s.onCopy c.fid p fun c => { c with started := true }).setTx (2 * p + 1) (some t)
      (s.setSched p d).wakeLine p

/-- The start decision of R313 to R318 on the queues of a port. -/
def State.decide_ (s : State) (p estamp : Nat) : State :=
  let startAt := s.startAt p
  let r := s.lookHeads p startAt estamp
  let s := r.1
  let debt := s.inDebt (portShaper p)
  let onlyGate := r.2.any fun e => e.2.closed && !e.2.paused && !e.2.debt && !e.2.arriving
  let onlyShape := r.2.any fun e => !e.2.closed && !e.2.paused && !e.2.arriving && (e.2.debt || debt)
  let s := if onlyGate then s.count .schGateWaitCnt p 1 else s
  let s := if onlyShape then s.count .schShapeWaitCnt p 1 else s
  if debt then s
  else
    let k := s.pickClass p (s.sched p) r.2
    match k.2 with
    | none => s.setSched p k.1
    | some c =>
      match classHead k.1 r.2 c with
      | none => s.setSched p k.1
      | some (i, l) => s.choose p i startAt estamp k.1 l

/-- A due MAC control frame is chosen: charged to nothing, held by no gate (R313 step 1). -/
def State.chooseCtl (s : State) (p : Nat) (bs : List Byte) (rest : List (List Byte)) : State :=
  let startAt := s.startAt p
  let endAt := startAt + s.occSlots p 64
  let s := s.setFlow p { s.flow p with frames := rest }
  let s := s.setTx (2 * p + 1) (some { ctl := bs, startAt := startAt, endAt := endAt, len := 64 })
  (s.setSched p { s.sched p with lineEnd := endAt }).wakeLine p

/-- START_DECISION (R312 to R321): port `p` decides once in a slot in which its line falls free. `edge` is the whorl value at the
transmit boundary before the delimiter of the frame that starts, and `sym` the delimiter's offset from it (R438). -/
def execStartDecision (p edge sym : Nat) (s : State) : Host.Outcome State Fault Refusal :=
  if !s.hasPort p || s.ran 76 p || !s.mayDecide p then .next s
  else
    let s := s.markRan 76 p
    match (s.flow p).frames with
    | bs :: rest => .next (s.chooseCtl p bs rest)
    | [] =>
      if !s.portUp p || s.flag F.macMode_STANDBY p then .next s
      else .next (s.decide_ p (s.egressStamp p edge sym)).settle

end Sys2Proof.Machine
end

