-- ==== Sys2Proof/Machine/Transmit.lean ====
section
/-!
DEFINITION. Transmission (R213 to R216, R235, R241, R356 to R358, R440 to R452, R460): the reads of a copy's cells, what the MAC does
to a frame, its end, and the timestamp ring.
-/
namespace Sys2Proof.Machine
open Sys2Proof

/-! ### What the MAC does to a frame's bytes -/

/-- The VLAN TPIDs by which a frame's tags are known as it leaves: its ingress slice's, or 0x8100 after routing (R184). -/
def State.tpids (s : State) (f : Frame) : Nat × Nat :=
  if f.md.routed then (0x8100, 0x8100)
  else (s.fld F.prsTpid_OUTER (Config.sliceOf f.port), s.fld F.prsTpid_INNER (Config.sliceOf f.port))

/-- Set DEI in the outermost tag of a yellow frame (R107); an untagged frame has none. -/
def setDei (tpid : Nat × Nat) (bs : List Byte) : List Byte :=
  if etherType bs = tpid.1 ∨ etherType bs = tpid.2 then patch bs 14 (beBytes 1 (setBits (beAt bs 14 1) 4 4 1)) else bs

/-- Remark the DSCP of an IP header, with the IPv4 header checksum (R93, R97, R107). -/
def remark (p : Parsed) (dscp : Nat) (bs : List Byte) : List Byte :=
  let old := beAt bs p.l3off 2
  if p.l3 = 4 then
    let new := setBits old 7 2 dscp
    patch (patch bs p.l3off (beBytes 2 new)) (p.l3off + 10) (beBytes 2 (rfc1624 (beAt bs (p.l3off + 10) 2) old new))
  else if p.l3 = 6 then patch bs p.l3off (beBytes 2 (setBits old 11 6 dscp))
  else bs

/-- The greatest correctionField (R442). -/
def cfMax : Nat := 2 ^ 63 - 1

/-- Add to a correctionField in units of 2^-16 ns, with saturation (R442): the field, and whether it saturates. -/
def addCf (cf add : Nat) : Nat × Bool :=
  if cf = cfMax then (cf, true)
  else
    let sum := toSigned 64 cf + (add : Int)
    if (cfMax : Int) < sum then (cfMax, true) else (ofSigned 64 sum, false)

/-- The UDP checksum after the words of a frame changed (R444): each changed 16-bit word is patched in as in RFC 1624. -/
def patchUdp (old new : List Byte) (ck : Nat) (v4 : Bool) : List Byte :=
  let c := beAt old ck 2
  if ck = 0 || (v4 && c == 0) then new
  else
    let n := (List.range (new.length / 2)).foldl (fun c k =>
      if 2 * k = ck || beAt old (2 * k) 2 = beAt new (2 * k) 2 then c else rfc1624 c (beAt old (2 * k) 2) (beAt new (2 * k) 2)) c
    patch new ck (beBytes 2 (if n = 0 then 0xFFFF else n))

/-- The correction or insertion of a copy's start (R442, R449, R450), on its bytes: the bytes, and whether the correctionField saturated. -/
def Tx.oneStep (t : Tx) (m : Meta) (bs : List Byte) : List Byte × Bool :=
  let ptp := m.cfOff - 8
  let add := match t.act with
    | 1 => stampDiff t.estamp m.istamp * 256
    | 2 => (if m.originIns && !t.originInv then t.estamp % 256 * 256 else 0)
        + (if m.corrIns then stampDiff t.estamp m.hdrIstamp * 256 else 0)
    | _ => 0
  let bs' := if t.act = 2 ∧ m.originIns then
      let origin := if t.originInv then beBytes 6 0 ++ beBytes 4 0xFFFFFFFF
        else beBytes 6 (t.netNs / 10 ^ 9) ++ beBytes 4 (t.netNs % 10 ^ 9)
      let bs := patch bs (ptp + 34) origin
      if t.originInv then patch bs (ptp + 7) (beBytes 1 (setBits (beAt bs (ptp + 7) 1) 4 4 0)) else bs
    else bs
  if t.act = 1 ∨ (t.act = 2 ∧ (m.corrIns ∨ (m.originIns ∧ !t.originInv))) then
    let r := addCf (beAt bs m.cfOff 8) add
    (patch bs' m.cfOff (beBytes 8 r.1), r.2)
  else (bs', false)

/-- The bytes of a copy as the MAC sends them, before padding and FCS (R107, R356, R440 to R450), and whether its correctionField
saturated. A mirror copy is sent as copied (R441). -/
def State.txBody (s : State) (t : Tx) (f : Frame) (body : List Byte) : List Byte × Bool :=
  if f.mir.isSome then (body, false)
  else
    let tp := s.tpids f
    let p := parseFrame tp.1 tp.2 (body.length + 4) body
    let bs := if f.md.dei then setDei tp body else body
    let bs := if f.md.dscp.testBit 6 then remark p (f.md.dscp % 64) bs else bs
    let r := t.oneStep f.md bs
    (if t.act = 1 ∨ t.act = 2 then patchUdp bs r.1 f.md.uckOff (p.l3 == 4) else r.1, r.2)

/-- Padded with zero bytes to 60 (R356). -/
def padded (bs : List Byte) : List Byte := bs ++ List.replicate (60 - bs.length) 0

/-! ### Beginning -/

/-- A chosen frame that has not begun goes back (R358, R241, R304): its charges return, and its queue's turn stands. -/
def State.withdraw (s : State) (p : Nat) : State :=
  match s.nextTx p with
  | none => s
  | some t =>
    let s := s.setTx (2 * p + 1) none
    let d := s.sched p
    let s := s.setSched p { d with lineEnd := min d.lineEnd t.startAt }
    match t.copy with
    | none => s
    | some c =>
      let s := s.chargeShapers p c.queue (-(t.charged : Int))
      let d := s.sched p
      let s := if (s.fld F.schPortCfg_SP_MASK p).testBit c.cls then s
        else s.setSched p { d with dc := listModify (· + t.charged) d.dc c.cls }
      s.onCopy c.fid p fun c => { c with started := false }

/-- The egress mirror copies of a frame that starts on port `p` (R457, R460): the sessions, and the copies made and staged. -/
def State.mirrorOut (s : State) (p : Nat) (t : Tx) (f : Frame) : State :=
  if !s.flag F.macMode_MIRROR p || f.mir.isSome then s
  else
    let bs := padded (s.txBody t f f.body).1
    (List.range 8).foldl (fun s m =>
      if s.flag F.mirSessCfg_VALID m && (s.fld F.mirPortSrc_EG_MASK p).testBit m then
        match s.mirCopy f m p bs (bs.length + 4) 0 true t.estamp with
        | (s, some id) => s.enterFabric id (Config.sliceOf p)
        | (s, none) => s
      else s) s

/-- The counters of the MAC's precision-time actions at a start (R441, R442, R449). -/
def State.countActs (s : State) (p : Nat) (t : Tx) (f : Frame) : State :=
  let sat := (s.txBody t f f.body).2
  let s := match t.act with
    | 1 => s.count .tsPortCorrCnt p 1
    | 2 =>
      let s := if f.md.originIns && !t.originInv then s.count .tsPortOriginCnt p 1 else s
      if t.originInv then (s.raise F.tsStpStat_ORIGIN_INV 0).count .tsOriginInvCnt 0 1 else s
    | 3 => (s.raise F.tsStpStat_BC_PASS 0).count .tsPortBcPassCnt p 1
    | _ => s
  if sat then (s.raise F.tsStpStat_SAT 0).count .tsCfSatCnt 0 1 else s

/-- The classes of a flow-control frame that the port sends: XOFF holds the class off, a time of 0 releases it (R297). -/
def State.sentPfc (s : State) (p : Nat) (bs : List Byte) : State :=
  let en := beAt bs 16 2
  let next := (List.range 8).foldl (fun m c =>
    if en.testBit c then setBits m c c (b2n (beAt bs (18 + 2 * c) 2 != 0)) else m) (s.fld F.fcStat_TX_XOFF p)
  let xoff := (List.range 8).any fun c => en.testBit c && beAt bs (18 + 2 * c) 2 != 0
  let s := (s.setFld F.fcStat_TX_XOFF p next).count .fcTxCnt p 1
  if xoff then s.raise F.fcEvt_XOFF_SENT p else s

/-- TRANSMIT_START (R312, R358, R388, R460): the start instant of the frame chosen on port `p` lies in this slot. A closed gate holds
it (R358); a copy that is gone is not sent. -/
def execTransmitStart (p : Nat) (s : State) : Host.Outcome State Fault Refusal :=
  match s.nextTx p with
  | none => .next s
  | some t =>
    if s.tick.slot < t.startAt / 256 || (s.lineTx p).isSome || (p < 512 && s.idleTx p != 0) then .next s
    else
      match t.copy with
      | none => .next (((s.setTx (2 * p + 1) none).setTx (2 * p) (some { t with begun := true })).sentPfc p t.ctl)
      | some c =>
        match s.copy? c.fid p, s.frame? c.fid with
        | some c, some f =>
          if !(s.gates p).testBit c.cls then .next ((s.withdraw p).count .macGateHoldCnt p 1)
          else
            let cut := !c.whole
            let s := (s.setTx (2 * p + 1) none).setTx (2 * p) (some { t with begun := true, cut := cut })
            let d := s.sched p
            let s := s.setSched p { d with mcNext := setBits d.mcNext c.cls c.cls (b2n !c.mc) }
            let s := if cut then s.count .fabCutCnt (Config.sliceOf p) 1 else s
            .next ((s.countActs p t f).mirrorOut p t f)
        | _, _ => .next (s.withdraw p)

/-! ### Reading cells (R213, R235, R241) -/

/-- Bytes that the line has sent of a frame (R213). -/
def State.lineSent (s : State) (p : Nat) (t : Tx) : Nat := (s.tick.slot * 256 - t.startAt) * s.rateGbps p * 2 / 25 / 256

/-- A copy that is on the line ends stomped, counted once with a reason (R214, R241). -/
def Tx.spoil (t : Tx) (code : Nat) : Tx := { t with stomp := true, code := if t.code = 0 then code else t.code }

/-- What the read of a cell finds (R241): the state, the bytes as read and a drop code, 0 when the cell is good. `ecc` is 0 for none,
1 a corrected bit, 2 a double-bit error, 3 a CRC mismatch. The bits of a damaged cell are free. -/
def State.readCell (s : State) (sl qu c ecc : Nat) : State × List Byte × Nat :=
  let d := s.desc sl c
  let data := Table.get (fun _ => []) s.path.data (cellKey sl c)
  let junk := (List.range data.length).map fun k => Config.freeByte s.free k
  if d.state ≠ 1 ∨ d.owner ≠ qu then
    let s := (if d.state = 1 then s.quarantine sl c 3 false else s).cbPost sl 5 (cellAddr sl c) qu d.owner
    (s, data, 0x31)
  else match ecc with
    | 0 => (s, data, 0)
    | 1 => ((s.count .cbEccCeCnt sl 1).raise F.cbStat_ECC_CE sl, data, 0)
    | _ =>
      let s := ((s.count .cbEccUeCnt sl 1).raise F.cbStat_ECC_UE sl).cbPost sl (if ecc = 2 then 6 else 7) (cellAddr sl c) qu d.owner
      (s.draw, junk, 0x30)

/-- The next cell of the copy on line entry `k` is read; `begun` says whether its transmission has begun. -/
def State.readNext (s : State) (p k : Nat) (t : Tx) (c : Copy) (v : Nat) (ecc : Nat) : State :=
  let sl := Config.sliceOf p
  let r := s.readCell sl c.queue v ecc
  let s := r.1
  if r.2.2 != 0 && !t.begun then (s.withdraw p).loseCopy c.fid p r.2.2
  else
    let s := s.onCopy c.fid p fun (c : Copy) => { c with cells := c.cells.drop 1 }
    let s := s.inPath fun q => { q with frees := q.frees ++ [{ slice := sl, cell := v, queue := c.queue, read := s.tick.slot }] }
    let t' := { t with got := t.got ++ r.2.1, nRead := t.nRead + 1 }
    let s := s.setTx k (some (if r.2.2 = 0 then t' else t'.spoil r.2.2))
    if r.2.2 != 0 && t.code = 0 then s.drop p r.2.2 else s

/-- The read of the next cell of the transmission `k` on port `p`, or its underrun (R215) when the cell is due and not there; none while
nothing is due. -/
def State.readTx (s : State) (p ecc k : Nat) (t : Tx) : Option State :=
  match t.copy with
  | none => none
  | some c =>
    match s.copy? c.fid p with
    | none => none
    | some c =>
      match c.cells with
      | v :: _ => some (s.readNext p k t c v ecc)
      | [] =>
        if t.begun && !t.under && (!c.whole || c.lost) && decide (128 * t.nRead ≤ s.lineSent p t) && decide (256 * (s.tick.slot) ≥ t.startAt) then
          let s := if t.code = 0 then s.drop p 0x2B else s
          some (((s.setTx k (some { t.spoil 0x2B with under := true })).raise F.fabStat_UNDERRUN (Config.sliceOf p)).count
            .fabUnderrunCnt (Config.sliceOf p) 1)
        else none

/-- CELL_READ (R213, R235, R241): the read path reads the next cell of the frame on port `p`'s line, or of the one chosen, with what the
codes find. A frame in cut-through whose next cell is not there in time ends in an underrun. -/
def execCellRead (p ecc : Nat) (s : State) : Host.Outcome State Fault Refusal :=
  match (s.lineTx p).bind (s.readTx p ecc (2 * p)) with
  | some s => .next s
  | none => .next (((s.nextTx p).bind (s.readTx p ecc (2 * p + 1))).getD s)

/-! ### The timestamp ring (R451, R452) -/

/-- LEVEL of a quadrant's ring. -/
def State.ringLevel (s : State) (q : Nat) : Nat :=
  (s.fld F.tsRingProd_PROD q + 2 ^ 16 - s.fld F.tsRingCons_CONS q) % 2 ^ 16

/-- Write a ring entry, unless the ring is full (R451, R452). -/
def State.ringWrite (s : State) (q : Nat) (w : Nat → Nat) : State :=
  let prod := s.fld F.tsRingProd_PROD q
  if s.ringLevel q = 1024 then (s.raise F.tsRingStat_OVF q).count .tsRingOvfCnt q 1
  else
    let s := (List.range 4).foldl (fun s k => s.setReg .tsRingEnt ((q * 1024 + prod % 1024) * 4 + k) (word (w k))) s
    let s := s.setFld F.tsRingProd_PROD q (prod + 1)
    (s.setFld F.tsRingStat_LEVEL q (s.ringLevel q)).count .tsRingCnt q 1

/-- The entry of a copy that was sent on a front port with TS_REQ (R451). `sent` are its bytes as sent. -/
def State.ringEntry (s : State) (p : Nat) (t : Tx) (c : Copy) (m : Meta) (stomp : Bool) (sent : List Byte) : State :=
  let q := Config.quadOf p
  if 512 ≤ p || !m.tsReq || !s.flag F.tsRingCtl_EN q then s
  else
    let ptp := m.ptpEv
    let seqid := if ptp then beAt sent (m.cfOff - 8 + 30) 2 else 0
    let w1 := t.estamp % 256 + b2n t.parity * 2 ^ 8 + b2n t.netValid * 2 ^ 9 + b2n stomp * 2 ^ 10 + b2n ptp * 2 ^ 11
      + (if ptp then m.ptpType else 0) * 2 ^ 12 + p * 2 ^ 16 + c.cls * 2 ^ 26 + b2n t.originInv * 2 ^ 29
    s.ringWrite q fun k => match k with
      | 0 => t.estamp / 256
      | 1 => w1
      | 2 => seqid + (if ptp then m.ptpDom else 0) * 2 ^ 16
      | _ => m.cookie + s.fld F.tsRingProd_PROD q * 2 ^ 16

/-- TS_RING_CONS is written (R452): by the side that owns the ring, no further than PROD. -/
def State.writeCons (s : State) (q v : Nat) (control : Bool) : State :=
  let lead := (s.fld F.tsRingProd_PROD q + 2 ^ 16 - v % 2 ^ 16) % 2 ^ 16
  if control != s.flag F.tsRingCtl_OWNER q || decide (s.ringLevel q < lead) then s
  else
    let s := s.setFld F.tsRingCons_CONS q v
    s.setFld F.tsRingStat_LEVEL q (s.ringLevel q)

/-- TS_RING_CONS_WRITE (R452): CONS of a quadrant's ring is written. -/
def execTsRingConsWrite (who : Sender) (q : Nat) (v : Word) (s : State) : Host.Outcome State Fault Refusal :=
  if !s.hasQuad q then .next s
  else .next (s.access who (Reg.tsRingCons.offset q) true fun s =>
    s.writeCons q v.toNat (match who with
      | .cc => true
      | _ => false))

/-! ### The end -/

/-- The egress mirror copies of a frame sent on port `p` have their source's end (R460). -/
def State.endMirrors (s : State) (p fid : Nat) (bad : Bool) : State :=
  let mine := s.path.frames.filter fun g => g.ended.isNone && (match g.mir with
    | some m => m.egress && m.frame = fid && m.port = p
    | none => false)
  mine.foldl (fun s g =>
    let s := s.onFrame g.id fun g => { g with ended := some s.tick.slot, good := !bad }
    if !bad then s
    else ((g.dests.foldl (fun s d => s.loseCopy g.id d.1 0) s).drop p 0x51).raise F.mirStat_SRC_ERR 0) s

/-- The copy that has left is forgotten: whatever it still holds goes back. -/
def State.forgetCopy (s : State) (c : Copy) : State :=
  match s.copy? c.fid c.port with
  | some c => (s.purge c.fid c.port).dropCopy c 0
  | none => s

/-- A frame has left port `p`: where it goes (R343, R558). -/
def State.deliver (s : State) (p fid : Nat) (m : Meta) (bs : List Byte) : State :=
  if p = 514 ∨ p = 515 then
    s.enterWhole { id := 0, port := p, bytes := bs, start := s.tick.slot, md := { iport := p, istamp := m.istamp } }
  else if p = 512 then
    { s with host := { s.host with
        jobs := s.host.jobs.map fun (j : RxJob) => if j.fid = fid ∧ j.bytes.isNone then { j with bytes := some bs } else j } }
  else s.emit (.frame p bs)

/-- A copy's transmission ends (R214, R216, R351 apart): counters, FCS, stamps and mirror copies. -/
def State.endTx (s : State) (p : Nat) (t : Tx) (c : Copy) (f : Frame) : State :=
  let sl := Config.sliceOf p
  let stomp := t.stomp || !f.good
  let raw := if t.under then t.got else t.got.take (t.got.length - 4)
  let r := s.txBody t f raw
  let body := padded r.1
  let s := if r.1.length < body.length then s.count .macTxPadCnt p 1 else s
  let bs := body ++ if stomp then stompBytes body else fcsBytes body
  let s := if stomp then s.count .macTxStompCnt p 1 else s.txGood p bs
  let s := if stomp && !t.under && t.code = 0 then s.count .fabStompCnt sl 1 else s
  let s := if s.mfs p < bs.length then (s.count .macTxOversizeCnt p 1).raise F.macStat_TX_OVERSIZE p else s
  let s := if t.under then s else (s.countArr 2 (c.queue * 2) 1).countArr 2 (c.queue * 2 + 1) bs.length
  let s := if t.overran then (s.count .schGclOverrunCnt p 1).raise F.schStat_OVERRUN p else s
  let s := s.ringEntry p t c f.md stomp bs
  let s := (s.deliver p f.id f.md bs).endMirrors p f.id stomp
  let s := if (s.nextTx p).isSome then s else s.setSched p { s.sched p with lineEnd := t.startAt + s.occSlots p bs.length }
  (s.setTx (2 * p) none).forgetCopy c

end Sys2Proof.Machine
end

