-- ==== Sys2Proof/Machine/Link.lean ====
section
/-!
DEFINITION. Links and flow control (R286, R295 to R298, R303 to R305, R350 to R352, R358 to R361): pause and its timers, the pause
generator, link loss and link up, the hold and flush rules, standby and wake; and the mode registers (R70, R80).
-/
namespace Sys2Proof.Machine
open Sys2Proof

/-! ### The pause generator (R295, R297) -/

/-- QUANTA of a port, at least 256 (R311). -/
def State.quanta (s : State) (p : Nat) : Nat := max 256 (s.fld F.fcCfg_QUANTA p)

/-- Slots between refreshes: half the time of QUANTA, rounded down (R297). -/
def State.refreshSlots (s : State) (p : Nat) : Nat := s.quanta p * 400 / max 1 (s.rateGbps p)

/-- A priority flow-control frame of 64 bytes (R295): the classes of `en`, each with its time. -/
def State.pfcFrame (s : State) (p en : Nat) (time : Nat → Nat) : List Byte :=
  let body := beBytes 6 0x0180C2000001 ++ beBytes 2 (s.fld F.macAddrHi_ADDR p) ++ beBytes 4 (s.fld F.macAddrLo_ADDR p)
    ++ beBytes 2 0x8808 ++ beBytes 2 0x0101 ++ beBytes 2 en
    ++ ((List.range 8).flatMap fun c => beBytes 2 (if en.testBit c then time c else 0)) ++ List.replicate 26 0
  body ++ fcsBytes body

/-- PFC_GENERATE (R297, R298): every change and refresh due on port `p` goes into one frame, while its link is up. -/
def execPfcGenerate (p : Nat) (s : State) : Host.Outcome State Fault Refusal :=
  let f := s.flow p
  if 512 ≤ p || f.due = 0 || !s.linkUp p || s.flag F.macMode_STANDBY p then .next s
  else
    let time := fun c => if f.req.testBit c then s.quanta p else 0
    let next := (List.range 8).map fun c =>
      if f.due.testBit c && f.req.testBit c then s.tick.slot + s.refreshSlots p else f.refresh.getD c 0
    let f := { f with due := 0, refresh := next, frames := f.frames ++ [s.pfcFrame p f.due time] }
    .next ((s.setFlow p f).wakeLine p)

/-- PFC_REFRESH (R297): the interval of a standing request has passed, and its class is due again. -/
def execPfcRefresh (p : Nat) (s : State) : Host.Outcome State Fault Refusal :=
  let f := s.flow p
  let due := (List.range 8).filter fun c => f.req.testBit c && decide (f.refresh.getD c 0 ≤ s.tick.slot)
  if 512 ≤ p || !s.linkUp p || due = [] then .next s
  else .next (s.setFlow p { f with due := due.foldl (fun m c => setBits m c c 1) f.due })

/-! ### Pause received (R296, R355) -/

/-- Units of 160 ps in a quantum at a port's rate (R296). -/
def State.quantumUnits (s : State) (p : Nat) : Nat := 3200 / max 1 (s.rateGbps p)

/-- A load of the pause timers of some classes waits for its slot (R296). -/
def State.queueLoad (s : State) (p mask : Nat) (times : List Nat) : State :=
  let f := s.flow p
  s.setFlow p { f with loads := f.loads ++ [(s.tick.slot + 32, mask, times.map (· * s.quantumUnits p))] }

/-- RX_PAUSED follows the timers (R311). -/
def State.showPaused (s : State) (p : Nat) : State :=
  let ts := (s.flow p).timers
  s.setFld F.fcStat_RX_PAUSED p ((List.range 8).foldl (fun m c => if ts.getD c 0 = 0 then m else m + 2 ^ c) 0)

/-- PAUSE_LOAD_APPLY (R296): the loads of port `p` whose slot has come govern. -/
def execPauseLoadApply (p : Nat) (s : State) : Host.Outcome State Fault Refusal :=
  let f := s.flow p
  let due := f.loads.filter fun l => l.1 ≤ s.tick.slot
  if due = [] then .next s
  else
    let load := fun (ts : List Nat) (l : Nat × Nat × List Nat) =>
      (List.range 8).map fun c => if l.2.1.testBit c then l.2.2.getD c 0 else ts.getD c 0
    .next ((s.setFlow p { f with
      timers := due.foldl load f.timers, loads := f.loads.filter fun l => !(decide (l.1 ≤ s.tick.slot)) }).showPaused p)

/-- PAUSE_TIMER_EXPIRE (R296): the slot edge at which the pause timer of a class reaches 0. -/
def execPauseTimerExpire (p c : Nat) (s : State) : Host.Outcome State Fault Refusal :=
  let t := (s.flow p).timers.getD c 0
  if s.tick.locked && c < 8 && t != 0 && t ≤ 4 then .next (slotEdge s) else .next s

/-- A good MAC control frame (R296, R355). -/
def State.control (s : State) (p : Nat) (bs : List Byte) : State :=
  let op := beAt bs 14 2
  let ll := s.flag F.macMode_LOSSLESS p
  let ignore := fun (s : State) => (s.count .fcRxIgnCnt p 1).raise F.fcEvt_RX_IGN p
  let refuse := fun (s : State) => (s.count .macRxCtrlDropCnt p 1).drop p 0x07
  if op = 0x0101 then
    let en := beAt bs 16 2
    let mask := en &&& s.llMask p
    let times := (List.range 8).map fun c => beAt bs (18 + 2 * c) 2
    let s := if mask = 0 then s else (s.queueLoad p mask times).count .fcRxCnt p 1
    if en ^^^ mask = 0 then s else ignore s
  else if op = 0x0001 then
    if ll then ignore s
    else if s.flag F.macRxCfg_PAUSE_EN p then
      (s.queueLoad p 255 (List.replicate 8 (beAt bs 16 2))).count .macRxPauseCnt p 1
    else refuse s
  else refuse s

/-! ### Flush (R303, R304) -/

/-- Copies that stand in a queue of a port: on die and not in transmission, or in its hank. -/
def State.queued (s : State) (p : Nat) : List Nat :=
  let line := match s.lineTx p with
    | some t => t.copy.map (·.fid)
    | none => none
  let die := (s.path.copies.filter fun c => c.port = p && some c.fid != line).map (·.fid)
  let deep := (s.path.hanks.filter fun h => decide (h.1 < 8256) && h.1 / 16 == p).flatMap fun h =>
    (h.2.recs.filter fun r => !r.copy.lost).map fun r => r.copy.fid
  die ++ deep

/-- Flush a port's queues (R304, R268): the state, and the number of frames flushed. -/
def State.flush (s : State) (p : Nat) : State × Nat :=
  let s := s.withdraw p
  let ids := s.queued p
  let s := ids.foldl (fun s id => s.loseCopy id p 0x44) s
  let s := (List.range 16).foldl (fun s i => s.dropHank (16 * p + i) 0x44) s
  let sl := Config.sliceOf p
  (((s.count .qmFlushCnt sl 1).raise F.qmStat_FLUSH sl).settle, ids.length)

/-- The state of R303: 0 UP, 1 HELD, 2 DOWN, as the registers show it. -/
def State.setPortState (s : State) (p st : Nat) : State :=
  (s.setFld F.qmPortStat_STATE p st).setFld F.macModeStat_HOLD p (b2n (st == 1))

/-- HOLD_DEADLINE (R303): the deadline of a held port is reached; its queues are flushed. -/
def execHoldDeadline (p : Nat) (s : State) : Host.Outcome State Fault Refusal :=
  match OTable.get? s.path.hold p with
  | none => .next s
  | some e =>
    if s.tick.slot < e then .next s
    else .next (((s.inPath fun t => { t with hold := Table.erase t.hold p }).setPortState p 2).flush p).1

/-! ### Link loss (R298, R303, R350, R351) -/

/-- The bytes of a frame that its line has sent, ended with a stomped FCS (R351). -/
def State.cutShort (s : State) (p : Nat) (bs : List Byte) (t : Tx) : List Byte :=
  let sent := bs.take (s.lineSent p t - 8)
  sent ++ stompBytes sent

/-- The frame in transmission at link loss is ended by the MAC (R351). -/
def State.abortTx (s : State) (p : Nat) : State :=
  match s.lineTx p with
  | none => s
  | some t =>
    let s := (s.count .macTxAbortCnt p 1).setTx (2 * p) none
    let s := s.setSched p { s.sched p with lineEnd := min (s.sched p).lineEnd (256 * (s.tick.slot + 1)) }
    match t.copy with
    | none => s.emit (.frame p (s.cutShort p t.ctl t))
    | some c =>
      let body := match s.frame? c.fid with
        | some f => (s.txBody t f f.body).1
        | none => []
      let s := (if t.code = 0 then s.drop p 0x44 else s).emit (.frame p (s.cutShort p body t))
      (s.endMirrors p c.fid true).forgetCopy c

/-- The frame's bytes are cut to what the MAC has received, and so is what the fabric carries of it. -/
def Frame.cutTo (f : Frame) (n : Nat) : Frame :=
  let lost := f.bytes.length - n
  { f with bytes := f.bytes.take n, body := f.body.take (f.body.length - lost) }

/-- A copy of a frame that ended in error and has not begun transmission is dropped, wherever it stands (R214). -/
def State.lateDrop (s : State) (fid port code : Nat) : State :=
  let begun : Bool := match s.lineTx port with
    | some t => t.copy.any fun c => c.fid = fid
    | none => false
  let next : Bool := match s.nextTx port with
    | some t => t.copy.any fun c => c.fid = fid
    | none => false
  let starts : Bool := match s.nextTx port with
    | some t => decide (t.startAt / 256 ≤ s.tick.slot)
    | none => false
  if begun || (next && starts) then s
  else
    let s := if next then s.withdraw port else s
    let deep := s.path.hanks.any fun h => decide (h.1 < 8256) && h.1 / 16 == port && h.2.recs.any fun r => r.copy.fid = fid && !r.copy.lost
    if (s.copy? fid port).isSome || deep then s.loseCopy fid port code
    else if s.path.staged.any (fun c => c.fid = fid && c.dests.any fun d => d.1 = port)
        || s.path.writeQ.any (fun w => w.2.fid = fid && w.2.port = port) then (s.purge fid port).drop port code
    else s

/-- The frames that share a frame's end: itself and its ingress mirror copies (R461). -/
def State.withCopies (s : State) (id : Nat) : List Frame :=
  s.path.frames.filter fun g => g.id = id || (match g.mir with
    | some m => m.frame = id && !m.egress
    | none => false)

/-- A frame ends in error (R214, R353, R461): before its release it is marked, and dropped when its strand completes; afterwards
every copy is treated per destination. -/
def State.endBad (s : State) (f : Frame) (reason : Nat) : State :=
  let now := some s.tick.slot
  match f.stage with
  | .arriving =>
    let short := match s.frame? f.id with
      | some g => decide (g.bytes.length < 64)
      | none => true
    let s := s.onFrame f.id fun f => { f with ended := now, good := false, reason := reason, stage := if short then .dead else f.stage }
    if short then s.drop f.port reason else s
  | .ready | .strand => s.onFrame f.id fun f => { f with ended := now, good := false, reason := reason }
  | .complete =>
    let s := s.onFrame f.id fun f => { f with ended := now, good := false, reason := reason, dests := []
                                              dropped := if f.dropped = 0 then reason else f.dropped }
    if f.dropped = 0 then s.drop f.port reason else s
  | _ =>
    (s.withCopies f.id).foldl (fun s g =>
      let staged := g.stage == .fabric
      let s := s.onFrame g.id fun g => { g with ended := now, good := false, reason := reason
                                                stage := if g.stage == .released then .dead else g.stage }
      if g.dropped != 0 then s
      else g.dests.foldl (fun s d => if staged then s.lateDrop g.id d.1 0x2A else s.drop d.1 0x2A) s) s

/-- Frames in reception at link loss end in error (R351, R353 row 2). -/
def State.truncate (s : State) (p : Nat) : State :=
  (s.path.frames.filter fun f => f.port = p && f.mir.isNone && f.ended.isNone).foldl (fun s f =>
    let s := s.onFrame f.id fun g => g.cutTo (s.received f)
    match f.stage with
    | .refused => s.onFrame f.id fun g => { g with ended := some s.tick.slot, stage := .dead }
    | .control =>
      ((s.onFrame f.id fun g => { g with ended := some s.tick.slot, stage := .dead }).count .macRxTruncCnt p 1).drop p 0x06
    | .detector =>
      ((s.onFrame f.id fun g => { g with ended := some s.tick.slot, stage := .dead }).count .macRxStandbyCnt p 1).drop p 0x08
    | _ => (s.endBad f 0x06).count .macRxTruncCnt p 1) s

/-- What a loss of link does to the port's queues and flow control (R298, R303). -/
def State.freeze (s : State) (p : Nat) : State :=
  let s := s.withdraw p
  let s := s.setFlow p { s.flow p with timers := List.replicate 8 0, loads := [], due := 0, frames := [] }
  let s := ((s.setFld F.fcStat_TX_XOFF p 0).showPaused p)
  let hold := min 2 (s.fld F.qmPortCfg_HOLD p)
  if s.portState p != 0 then s
  else if hold = 0 then ((s.setPortState p 2).flush p).1
  else (s.setPortState p 1).inPath fun t => { t with hold := Table.insert t.hold p (s.tick.slot + hold * Config.epochSlots) }

/-- Loss of link in the present slot (R303, R350, R351). -/
def State.linkLoss (s : State) (p : Nat) : State :=
  if !s.linkUp p then s
  else
    let s := ((s.setFld F.macLink_UP p 0).raise F.macStat_LINK_DOWN p).count .macLinkDownCnt p 1
    (((s.abortTx p).truncate p).freeze p).settle

/-- Whether every condition of R350 but the time holds. -/
def State.linkConditions (s : State) (p : Nat) : Bool :=
  s.flag F.macPortCfg_EN p && s.flag F.macLink_ALIGNED p && !s.flag F.macLink_LF p && !s.flag F.macLink_RF p
    && !s.flag F.macLink_HI_BER p

/-- The first slot in which the conditions hold is noted, or forgotten when they fail (R350). -/
def State.noteLink (s : State) (p first : Nat) : State :=
  s.inPath fun t => { t with
    linkSince := if !s.linkConditions p then Table.erase t.linkSince p
      else if OTable.has t.linkSince p then t.linkSince else Table.insert t.linkSince p first }

/-- The conditions of a link change: a failing one loses the link in this slot (R350). -/
def State.linkChanged (s : State) (p : Nat) : State :=
  let s := s.noteLink p s.tick.slot
  if s.linkConditions p then s else s.linkLoss p

/-- LINK_LOSS (R303, R350, R351): the PCS and the reconciliation sublayer of port `p` report their conditions: aligned, local fault,
remote fault and high bit error ratio. The link is lost when one fails. -/
def execLinkLoss (p : Nat) (aligned lf rf hiBer : Bool) (s : State) : Host.Outcome State Fault Refusal :=
  if 512 ≤ p || !s.hasPort p || !s.configured p || s.hidden p || !s.flag F.macPortCfg_EN p then .next s
  else
    let s := (((s.setFld F.macLink_ALIGNED p (b2n aligned)).setFld F.macLink_LF p (b2n lf)).setFld F.macLink_RF p (b2n rf)).setFld
      F.macLink_HI_BER p (b2n hiBer)
    .next (s.linkChanged p)

/-- The link is reported up (R298, R303): a held or down port is UP, and every standing request is due. -/
def State.linkComesUp (s : State) (p : Nat) : State :=
  let s := (s.setFld F.macLink_UP p 1).raise F.macStat_LINK_UP p
  let s := match OTable.get? s.path.hold p with
    | some e =>
      let s := s.inPath fun t => { t with hold := Table.erase t.hold p }
      if e ≤ s.tick.slot then (s.flush p).1 else s
    | none => s
  (s.setPortState p 0).setFlow p { s.flow p with due := (s.flow p).req }

/-- LINK_UP (R303, R350): every condition has held for 65,536 slots. -/
def execLinkUp (p : Nat) (s : State) : Host.Outcome State Fault Refusal :=
  match OTable.get? s.path.linkSince p with
  | none => .next s
  | some t =>
    if s.linkUp p || !s.linkConditions p || s.flag F.macModeStat_SB_ACT p || decide (s.tick.slot < t + 65536)
        || (OTable.has s.path.wakeAt p) then .next s
    else .next (s.linkComesUp p)

/-! ### Standby and wake (R80, R359 to R361) -/

/-- Standby is entered (R359): as on link loss, with frames in reception left to complete. -/
def State.enterStandby (s : State) (p : Nat) : State :=
  let up := s.linkUp p
  let s := s.setFld F.macModeStat_SB_ACT p 1
  let s := s.inPath fun t => { t with wakeAt := Table.erase t.wakeAt p }
  let s := (s.setFld F.pcsState_IDLE_TX p 2).setFld F.macModeStat_IDLE_ACT p 1
  let s := s.setLine p { s.line p with exitReq := none }
  if up then (((s.setFld F.macLink_UP p 0).raise F.macStat_LINK_DOWN p).count .macLinkDownCnt p 1).freeze p else s.freeze p

/-- STANDBY has been set and nothing is in transmission any more: the port enters standby (R80). -/
def State.standbyCheck (s : State) (p : Nat) : State :=
  if s.flag F.macMode_STANDBY p && !s.flag F.macModeStat_SB_ACT p && (s.lineTx p).isNone && s.configured p then s.enterStandby p else s

/-- The port wakes: its lanes start idle exit, and the link is up 391 slots later (R361). -/
def State.wake (s : State) (p : Nat) : State :=
  if !s.flag F.macModeStat_SB_ACT p then s
  else
    let s := (s.setFld F.macModeStat_SB_ACT p 0).setFld F.pcsState_IDLE_TX p 3
    let s := s.setLine p { s.line p with exitReq := none, due := s.boundaryFrom p (s.tick.slot + 201) }
    s.inPath fun t => { t with wakeAt := Table.insert t.wakeAt p (s.tick.slot + 391) }

/-- WAKE_LINK_UP (R303, R361): 391 slots after a wake the link is up, while its lanes are aligned. -/
def execWakeLinkUp (p : Nat) (s : State) : Host.Outcome State Fault Refusal :=
  match OTable.get? s.path.wakeAt p with
  | none => .next s
  | some t =>
    if s.tick.slot < t || s.flag F.macModeStat_SB_ACT p then .next s
    else
      let s := s.inPath fun q => { q with wakeAt := Table.erase q.wakeAt p }
      let s := if s.idleTx p = 3 then (s.setFld F.pcsState_IDLE_TX p 0).setFld F.macModeStat_IDLE_ACT p 0 else s
      .next (if s.linkConditions p then s.linkComesUp p else s)

/-- The bytes of a frame that pattern `i` takes, as their CRC-16 (R360). -/
def State.wakeCrc (s : State) (p i : Nat) (bs : List Byte) : Nat :=
  crc16 ((bs.zipIdx.filter fun (e : Byte × Nat) => decide (e.2 < min 128 (s.fld F.macWakePcfg_LEN (p * 8 + i)))
    && s.regBit .macWakeMask ((p * 8 + i) * 4 + e.2 / 32) (e.2 % 32)).map (·.1))

/-- Whether pattern `i` has a mask bit set below its length. -/
def State.wakeMasked (s : State) (p i : Nat) : Bool :=
  (List.range 4).any fun k => s.reg .macWakeMask ((p * 8 + i) * 4 + k) != 0

/-- The lowest enabled pattern that a good frame matches (R360). -/
def State.wakeMatch (s : State) (p : Nat) (bs : List Byte) : Option Nat :=
  (List.range 8).find? fun i =>
    let len := s.fld F.macWakePcfg_LEN (p * 8 + i)
    (s.fld F.macWakeCtl_PAT_EN p).testBit i && s.wakeMasked p i && decide (0 < len) && decide (len ≤ bs.length)
      && s.wakeCrc p i bs == s.fld F.macWakePcfg_CHECK (p * 8 + i)

/-- A frame's check completes in the wake-pattern detector (R359 to R361). A write of STANDBY in this slot stands. -/
def State.detect (s : State) (p : Nat) (bs : List Byte) (good : Bool) : State :=
  let ignored := fun (s : State) => (s.count .macRxStandbyCnt p 1).drop p 0x08
  let held := (s.writtenBy (regKey .macMode p) F.macMode_STANDBY.mask).isSome && s.flag F.macMode_STANDBY p
  match if good then s.wakeMatch p bs else none with
  | none => ignored s
  | some i =>
    if held then ignored s
    else
      let s := if s.flag F.macMode_STANDBY p then s.hwFld F.macMode_STANDBY p 0 else s
      let s := (s.raise F.macModeStat_WAKE p).count .macWakeCnt p 1
      ((s.setFld F.macWakeCtl_LAST p i).setFld F.macWakeCtl_LAST_V p 1).wake p

/-! ### Mode writes (R70, R80, R84) -/

/-- The modes that a port can carry, as a mask (R70). -/
def modeBits (p : Nat) : Nat := if p < 512 then 0xFFB else 0x3C1

/-- LOSSLESS is cleared: the classes held off are released, and received pause is no longer honoured (R80). -/
def State.losslessOff (s : State) (p : Nat) : State :=
  let f := s.flow p
  let off := s.fld F.fcStat_TX_XOFF p
  (s.setFlow p { f with req := 0, due := f.due ||| off ||| f.req, timers := List.replicate 8 0, loads := [] }).showPaused p

/-- A write of MAC_MODE (R80, R84): bits [31:16] select the bits written. -/
def State.writeMode (s : State) (p v : Nat) : State :=
  let mask := v / 2 ^ 16 % 2 ^ 16 &&& modeBits p
  let old := (s.reg .macMode p).toNat
  let new := (old &&& (0xFFF ^^^ mask)) ||| (v &&& mask)
  let s := s.setReg .macMode p (word new)
  let rises := fun k => !old.testBit k && new.testBit k
  let falls := fun k => old.testBit k && !new.testBit k
  let s := if rises 1 then (List.range 8).foldl (fun s c => s.xoffCheck p c) s else s
  let s := if falls 1 then s.losslessOff p else s
  let s := if falls 3 then s.openGates p else s
  let s := if falls 10 && s.idleTx p == 2 && !s.flag F.macModeStat_SB_ACT p
    then s.setLine p { s.line p with exitReq := some ((s.line p).exitReq.getD s.tick.slot) } else s
  if rises 11 then (s.withdraw p).standbyCheck p else if falls 11 then s.wake p else s

/-- A write of QM_QMODE (R80, R84). -/
def State.writeDeep (s : State) (p v : Nat) : State :=
  let mask := v / 2 ^ 16 % 2 ^ 16
  s.setFld F.qmQmode_DEEP p (((s.fld F.qmQmode_DEEP p) &&& (0xFFFF ^^^ mask)) ||| (v &&& mask))

end Sys2Proof.Machine
end

