-- ==== Sys2Proof/Machine/Headroom.lean ====
section
/-!
DEFINITION. Headroom (R299 to R302): what firmware computes for each lossless pair, the page reserves and the deep queues that
follow from it, and the long-reach share of a quadrant.
-/
namespace Sys2Proof.Machine
open Sys2Proof

/-- What firmware holds of a port's link (R307). -/
def State.linkPar (s : State) (p : Nat) : LinkPar := Table.get (fun _ => {}) s.path.linkPar p

/-- Whether a timed change that firmware holds will set LOSSLESS on a port (R81). -/
def State.losslessHeld_ (s : State) (p : Nat) : Bool :=
  s.tick.held.any fun h => h.modePort == some p && h.acts.any fun a =>
    a.addr == Reg.macMode.offset p && a.data.testBit 17 && a.data.testBit 1

/-- The lossless classes of a front port that firmware plans for: those in force, and those of a timed change to come. -/
def State.planMask (s : State) (p : Nat) : Nat :=
  if s.configured p && !s.hidden p && (s.flag F.macMode_LOSSLESS p || s.losslessHeld_ p) then s.fld F.fcCfg_LL_MASK p else 0

/-- The lossless pairs of a slice (R300). -/
def State.pairsOf (s : State) (sl : Nat) : List (Nat × Nat) :=
  (List.range 16).flatMap fun k => (onesOf 8 (s.planMask (16 * sl + k))).map fun c => (16 * sl + k, c)

/-- The headroom of a pair: W in bytes, the reserve in cells, its on-die part, and the pages of its spill share. -/
structure Headroom where
  w : Nat
  rsv : Nat
  onDie : Nat
  pages : Nat
  deriving DecidableEq, Repr

/-- The delay t_ns of R299, in 1/100 ns. -/
def State.reach (s : State) (p : Nat) : Nat :=
  let l := s.linkPar p
  200 * l.linkNs + 100 * l.respNs + 40096 + (if s.flag F.macMode_IDLE p then 25000 else 0)

/-- W of R299. -/
def State.headBytes (s : State) (p : Nat) : Nat :=
  cdiv (s.rateGbps p * s.reach p) 800 + (s.mfs p + 20) + ((s.linkPar p).peerMfs + 20) + 84

/-- XOFF_CELLS and LOSSY_MIN of a slice, as the hardware treats them (R220). -/
def State.xoffCells (s : State) (sl : Nat) : Nat := min 4096 (s.fld F.fabStgCfg_XOFF_CELLS sl)
def State.lossyMin (s : State) (sl : Nat) : Nat := min 28672 (s.fld F.fabStgLossy_LOSSY_MIN sl)

/-- The headroom of a pair in a slice with `n` lossless pairs (R299, R300). -/
def State.headroom (s : State) (p n : Nat) : Headroom :=
  let sl := Config.sliceOf p
  let xoff := s.xoffCells sl
  let w := s.headBytes p
  let rsv := xoff + cdiv (2 * w) 149
  let o := min rsv ((32768 - s.lossyMin sl) / max 1 n)
  { w := w, rsv := rsv, onDie := o, pages := if o < rsv then cdiv (w - (o - xoff) * 149 / 2) 2720 else 0 }

/-- The headroom of every pair of a slice. -/
def State.plan (s : State) (sl : Nat) : List ((Nat × Nat) × Headroom) :=
  let ps := s.pairsOf sl
  ps.map fun e => (e, s.headroom e.1 ps.length)

/-- The long-reach ports of a quadrant under the present settings (R300). -/
def State.longReach (s : State) (q : Nat) : List Nat :=
  ((List.range 8).flatMap fun k => ((s.plan (8 * q + k)).filter fun e => e.2.pages != 0).map fun e => e.1.1).eraseDups

/-- The share in use of a quadrant: the line rates of its long-reach ports, in Gbit/s (R302). -/
def State.shareUsed (s : State) (q : Nat) : Nat := (s.longReach q).foldl (fun a p => a + s.rateGbps p) 0

/-- The long-reach share of a quadrant in Gbit/s: 11,200, or none once one of its stacks has been retired (R279, R302). -/
def State.share (s : State) (q : Nat) : Nat :=
  if s.stackState (2 * q) = 2 || s.stackState (2 * q + 1) = 2 then 0 else 11200

/-- Whether the change from `s` to `t` breaks the share of a quadrant (R302): it makes a port long-reach, or a long-reach port
faster, and the sum then exceeds the share. -/
def State.shareBroken (s t : State) (q : Nat) : Bool :=
  let old := s.longReach q
  decide (s.share q < t.shareUsed q)
    && (t.longReach q).any fun p => !old.contains p || decide (s.rateGbps p < t.rateGbps p)

/-- Pages that a quadrant's queues and spill can use: free and held ones (R282, R302). -/
def State.usablePages (s : State) (q : Nat) : Nat :=
  ((List.range 2).map (2 * q + ·)).foldl (fun a h =>
    a + match s.stackState h with
      | 0 => if s.hasStack h then 4186112 - ((s.stack h).retired.length + (s.stack h).pending.length) else 0
      | 1 => (s.stack h).used
      | _ => 0) 0

/-- The spill reserve of a quadrant: the spill shares of its pairs (R301). -/
def State.sumSpill (s : State) (q : Nat) : Nat :=
  (s.path.reserves.filter fun e => Config.quadOf (e.1 / 8) = q).foldl (fun a e => a + e.2.2) 0

/-- The page reserves of a quadrant, and whether they exceed its usable pages (R282, R302). -/
def State.reserved (s : State) (q : Nat) : Nat := s.sumRsv q + s.spillRsv q
def State.reserveExcess (s : State) (q : Nat) : Bool := decide (s.usablePages q < s.reserved q)

/-- Put the reserve of a pair; a new spill share is the RSV_PAGES of its queue, which gets DEEP (R301). -/
def State.setReserve (s : State) (p c : Nat) (h : Nat × Nat) : State :=
  let key := pairKey p c
  let old := Table.get (fun _ => (0, 0)) s.path.reserves key
  let s := s.inPath fun t => { t with reserves := Table.set (fun _ => (0, 0)) t.reserves key h }
  if old.2 = h.2 then s
  else
    let s := s.setFld F.dtQcfgRsv_PAGES (Config.quadOf p * 8256 + Config.queueOf p c false) h.2
    if h.2 = 0 then s else s.writeDeep p (2 ^ (16 + c) + 2 ^ c)

/-- Firmware recomputes every pair of a slice, and the spill reserve of its quadrant (R219, R300, R301). -/
def State.recompute (s : State) (sl : Nat) : State :=
  let plan := s.plan sl
  let s := (List.range 128).foldl (fun s k =>
    let p := 16 * sl + k / 8
    let c := k % 8
    match plan.find? fun e => e.1 = (p, c) with
    | some e => s.setReserve p c (e.2.onDie, e.2.pages)
    | none => s.setReserve p c (0, 0)) s
  let q := sl / 8
  s.inPath fun t => { t with spillRsv := Table.set (fun _ => 0) t.spillRsv q (s.sumSpill q) }

/-- The deep headroom that firmware holds for a queue's lossless class (R282). -/
def State.deepHeadroom (s : State) (qu : Nat) : Nat :=
  if qu % 16 < 8 then (Table.get (fun _ => (0, 0)) s.path.reserves (pairKey (qu / 16) (qu % 16))).2 else 0

/-- The checks of R302 on the state `t` that a command would leave. -/
def limitChecks (s t : State) (q : Nat) : List (Bool × Status) :=
  [(s.shareBroken t q, .longReachLimit), (t.reserveExcess q && decide (s.reserved q < t.reserved q), .reserveExcess)]

end Sys2Proof.Machine
end

