-- ==== Sys2Proof/Machine/Host.lean ====
section
/-!
DEFINITION. The host port's DMA (R551 to R564, R577): rings and their indices, the frames written to and read from host memory,
coalescing, ring faults, and the reset of the endpoint.
-/
namespace Sys2Proof.Machine
open Sys2Proof

/-! ### Rings (R553, R554, R579) -/

/-- The configuration register of a ring, by direction. -/
def ringCfg (tx : Bool) : Reg := if tx then .dmaTxCfg else .dmaRxCfg

/-- Whether a ring is enabled. -/
def State.ringOn (s : State) (tx : Bool) (r : Nat) : Bool := s.regBit (ringCfg tx) r 31

/-- COUNT: LOG2_COUNT counts as 6 to 16 (R579). -/
def State.ringCount (s : State) (tx : Bool) (r : Nat) : Nat := 2 ^ max 6 (min 16 (bitsOf (s.reg (ringCfg tx) r).toNat 28 24))

/-- The ring's base, aligned to 4 KiB. -/
def State.ringBase (s : State) (tx : Bool) (r : Nat) : Nat :=
  let lo := (s.reg (if tx then .dmaTxBaseLo else .dmaRxBaseLo) r).toNat
  (s.reg (if tx then .dmaTxBaseHi else .dmaRxBaseHi) r).toNat * 2 ^ 32 + lo / 4096 * 4096

/-- The indices of a ring. -/
def ringHead (tx : Bool) : Reg := if tx then .dmaTxHead else .dmaRxHead
def ringTail (tx : Bool) : Reg := if tx then .dmaTxTail else .dmaRxTail

/-- Bus address of descriptor `i`. -/
def State.descAddr (s : State) (tx : Bool) (r i : Nat) : Nat := s.ringBase tx r + 32 * (i % 2 ^ 32 % s.ringCount tx r)

/-- What the engine keeps of a ring. -/
def ringIdx (tx : Bool) (r : Nat) : Nat := 32 * b2n tx + r
def State.ring (s : State) (tx : Bool) (r : Nat) : RingSt := Table.get (fun _ => {}) s.host.rings (ringIdx tx r)
def State.setRing (s : State) (tx : Bool) (r : Nat) (x : RingSt) : State :=
  { s with host := { s.host with rings := Table.set (fun _ => {}) s.host.rings (ringIdx tx r) x } }

/-- DMA_TAIL_WRITE (R553): host software writes a ring's TAIL. A value that would leave the device more than COUNT descriptors is
ignored with TAIL_ERR; another takes effect at the slot's edge. A device that is not the root ignores writes (R580). -/
def State.writeTail (s : State) (tx : Bool) (r : Nat) (v : Nat) : State :=
  if !s.tree.root then s
  else if s.ringCount tx r < (v + 2 ^ 32 - (s.reg (ringHead tx) r).toNat) % 2 ^ 32 then s.raise F.dmaStat_TAIL_ERR 0
  else s.setRing tx r { s.ring tx r with tail := some v }

/-- The command of the same name. -/
def execDmaTailWrite (who : Sender) (tx : Bool) (r : Nat) (v : Word) (s : State) : Host.Outcome State Fault Refusal :=
  if 32 ≤ r then .next s else .next (s.access who ((ringTail tx).offset r) true fun s => s.writeTail tx r v.toNat)

/-! ### Stops (R551, R554, R577) -/

/-- The stop commands whose ring has no frame under way any more are answered (R577). -/
def State.answerStops (s : State) : State :=
  let done := s.tab.jobs.filter fun j => j.op = 0x0B00
    && !(s.host.jobs.any fun (x : RxJob) => decide (x.ring = leAt j.pkt.params 1 1) && leAt j.pkt.params 0 1 == 0)
  done.foldl (fun s j => s.stepJob j.pkt.chan j.pkt.tag (fun j => { j with left := 0 }) fun _ _ => (.ok, [])) s

/-- A ring's frames under way are abandoned, and its EN clears (R551). -/
def State.ringOff (s : State) (tx : Bool) (r : Nat) : State :=
  let s := s.setReg (ringCfg tx) r (word (setBits (s.reg (ringCfg tx) r).toNat 31 31 0))
  if tx then s
  else { s with host := { s.host with jobs := s.host.jobs.filter fun (j : RxJob) => j.ring != r } }

/-- A ring stops on a fault of kind 1 descriptor window, 2 buffer window, 3 PCIe (R554). -/
def State.ringFault (s : State) (tx : Bool) (r kind : Nat) : State :=
  let s := ((s.ringOff tx r).raise F.dmaStat_FAULT 0).setReg .dmaErrInfo 0 (word (kind * 256 + b2n tx * 128 + r))
  s.answerStops

/-- The engine's access at run time is refused by the windows (R594): the violation is recorded with the address bits [43:12];
the sender's field is free, since the engine has no SID. -/
def State.dmaViolation (s : State) (addr : Nat) (write : Bool) : State :=
  (s.violation 4 (Config.freeNat s.free % 256) (addr / 4096 % 2 ^ 32) write).draw

/-- PCIE_RESET (R551): the endpoint's configuration returns to its reset values, every ring stops, remote reads of the host are
discarded, and on the root every valid inbound channel requests an increment. -/
def execPcieReset (s : State) : Host.Outcome State Fault Refusal :=
  let s := (List.range 32).foldl (fun s r => (s.ringOff false r).ringOff true r) s
  let s := { s with
    host := { s.host with bme := false, msixOn := false, fnMask := false, vecMask := 2 ^ 64 - 1, vecPend := 0, jobs := [] }
    tree := { s.tree with reads := s.tree.reads.filter fun (x : RemoteRead) => x.job.isSome } }
  let s := s.answerStops
  if !s.tree.root then .next s
  else .next (((List.range 16).filter fun n => s.flag F.mbBind_VALID n).foldl (fun s n => s.newInc n) s)

/-! ### Coalescing (R560, R564) -/

/-- The completions of a ring signal: its status bit sets. -/
def State.ringSignal (s : State) (tx : Bool) (r : Nat) : State :=
  (s.setRing tx r { s.ring tx r with done := 0 }).raiseBits (if tx then .dmaTxStat else .dmaRxStat) 0 (2 ^ r)

/-- COAL_FRAMES, where 0 counts as 1, and COAL_US of a ring (R579). -/
def State.coalFrames (s : State) (tx : Bool) (r : Nat) : Nat := max 1 (bitsOf (s.reg (ringCfg tx) r).toNat 13 6)
def State.coalUs (s : State) (tx : Bool) (r : Nat) : Nat := bitsOf (s.reg (ringCfg tx) r).toNat 23 14

/-- A frame of a ring has completed (R560). -/
def State.ringDone (s : State) (tx : Bool) (r : Nat) : State :=
  let x := s.ring tx r
  let s := s.setRing tx r { x with done := x.done + 1, since := if x.done = 0 then s.tick.slot else x.since }
  if s.coalUs tx r = 0 ∨ s.coalFrames tx r ≤ x.done + 1 then s.ringSignal tx r else s

/-- DMA_COALESCE_TIMER (R560): COAL_US microseconds, of 1,562.5 slots each, have passed since the first frame completed. -/
def execDmaCoalesceTimer (tx : Bool) (r : Nat) (s : State) : Host.Outcome State Fault Refusal :=
  let x := s.ring tx r
  if x.done = 0 || decide (2 * (s.tick.slot - x.since) < 3125 * s.coalUs tx r) then .next s
  else .next (s.ringSignal tx r)

/-! ### Receive (R556 to R559) -/

/-- Bytes 8 to 31 of the descriptors of a received frame (R559): descriptor `k` of `n`. -/
def rxDescBytes (j : RxJob) (len buf k : Nat) : List Byte :=
  let m := j.md
  let blen := min buf (len - k * buf)
  let flags := 1 + 2 * b2n (k == 0) + 4 * b2n (k + 1 == j.n) + 8 * b2n j.fcs + 16 * b2n m.routed
  leBytes 2 blen ++ leBytes 2 flags ++ leBytes 2 len ++ leBytes 2 (m.iport + m.cls * 2 ^ 10) ++ leBytes 4 (m.istamp / 256)
    ++ leBytes 1 m.istamp ++ leBytes 1 (m.cause % 16) ++ leBytes 1 (if m.ptpEv then m.ptpDom else 0)
    ++ leBytes 1 ((if m.ptpEv then m.ptpType % 16 else 0) + 16 * b2n m.ptpEv) ++ leBytes 4 m.hash ++ leBytes 4 0

/-- The first refusal among the accesses of a received frame: the descriptors, then the buffers. -/
def State.rxRefusal (s : State) (j : RxJob) (bufs : List Nat) (len buf : Nat) : Option (Nat × Nat) :=
  let ds := (List.range j.n).map fun k => (s.descAddr false j.ring (j.idx + k), 32)
  let bs := (List.range j.n).map fun k => (bufs.getD k 0, min buf (len - k * buf))
  match ds.find? fun a => !s.dmaAdmits a.1 a.2 true true with
  | some a => some (1, a.1)
  | none => (bs.find? fun a => !s.dmaAdmits a.1 a.2 true true).map fun a => (2, a.1)

/-- DMA_RX_FRAME_WRITE (R558, R559): the oldest reserved frame of receive ring `r` is written, its bytes across its buffers and
then its descriptors. `bufs` are the ADDR fields its descriptors hold, `fault` a PCIe error. A refused access stops the ring (R554). -/
def execDmaRxFrameWrite (r : Nat) (bufs : List Nat) (fault : Bool) (s : State) : Host.Outcome State Fault Refusal :=
  match s.host.jobs.find? fun (j : RxJob) => j.ring = r with
  | none => .next s
  | some j =>
    match j.bytes with
    | none => .next s
    | some bytes =>
      let data := if j.fcs then bytes else bytes.take (bytes.length - 4)
      let buf := s.rxBuf r
      match s.rxRefusal j bufs data.length buf with
      | some (kind, addr) => .next ((s.dmaViolation addr true).ringFault false r kind)
      | none =>
        if fault then .next (s.ringFault false r 3)
        else
          let s := (List.range j.n).foldl (fun s k => s.emit (.hostWrite (bufs.getD k 0) ((data.drop (k * buf)).take buf))) s
          let s := (List.range j.n).foldl (fun s k =>
            s.emit (.hostWrite (s.descAddr false r (j.idx + k) + 8) (rxDescBytes j data.length buf k))) s
          let s := { s with host := { s.host with jobs := s.host.jobs.filter fun (x : RxJob) => !(x.ring = r && x.idx = j.idx) } }
          .next ((s.count .dmaRxFrameCnt r 1).ringDone false r).answerStops

/-! ### Transmit (R561 to R564) -/

/-- The descriptors of the frame at the front, and whether its chain holds (R563): from a FIRST to the next LAST. Answers
none while the frame has not been handed over whole. -/
def txChain : List TxDesc → Nat → Option (Nat × Bool)
  | [], _ => none
  | d :: t, k =>
    if k = 0 && !d.first then
      some (1 + (t.takeWhile fun x => !x.first && !d.last).length, false)
    else if k != 0 && d.first then some (k, false)
    else if d.last then some (k + 1, decide (k ≤ 64))
    else if 64 ≤ k then some (k + 1, false)
    else txChain t (k + 1)

/-- The descriptors of a frame are written back with DONE and a STATUS (R561, R563). -/
def State.txWriteBack (s : State) (r idx : Nat) (ds : List TxDesc) (status : Nat) : State :=
  let s := ds.zipIdx.foldl (fun s (e : TxDesc × Nat) =>
    let flags := 1 + 2 * b2n e.1.first + 4 * b2n e.1.last + 8 * b2n e.1.hdr + 16 * status
    s.emit (.hostWrite (s.descAddr true r (idx + e.2) + 10) (leBytes 2 flags))) s
  let s := s.setReg .dmaTxHead r (word (idx + ds.length))
  (if status = 0 then s.count .dmaTxFrameCnt r 1 else s.count .dmaTxErrCnt r 1).ringDone true r

/-- A frame that passed the checks is released to dispatch on port 512, its FCS appended (R562, R448). -/
def State.txRelease (s : State) (ds : List TxDesc) : State :=
  let body := ds.flatMap fun d => slice d.data 0 d.blen
  let first := ds.headD { addr := 0, blen := 0, first := true, last := true }
  let h := if first.hdr then s.txHeader (slice first.txhdr 0 16) else none
  let id := s.path.nextId
  let s := { s with host := { s.host with txLine := max s.host.txLine (256 * s.tick.slot) + 8 * (body.length + 24) } }
  let s := s.enterWhole { id := 0, port := 512, bytes := body ++ fcsBytes body, start := s.tick.slot, tx := h, md := { iport := 512 } }
  match s.frame? id with
  | some f => if first.hdr && h.isNone then s.refuseHeader f else s
  | none => s

/-- DMA_TX_FRAME_FETCH (R561 to R564): transmit ring `r`, granted by rotation, has its next frame read. `descs` are the descriptors
from HEAD on as host memory holds them, with their buffers; `fault` is a PCIe error. Port 512's ingress takes 400 Gbit/s. -/
def execDmaTxFrameFetch (r : Nat) (descs : List TxDesc) (fault : Bool) (s : State) : Host.Outcome State Fault Refusal :=
  let held := s.held32 .dmaTxTail .dmaTxHead r
  let idx := (s.reg .dmaTxHead r).toNat
  if 32 ≤ r || !s.tree.root || !s.ringOn true r || !s.host.bme || decide (256 * (s.tick.slot + 1) ≤ s.host.txLine) then .next s
  else
    match txChain (descs.take held) 0 with
    | none => .next s
    | some (n, chainOk) =>
      let ds := descs.take n
      let at_ := (List.range n).map fun k => s.descAddr true r (idx + k)
      match at_.find? fun a => !s.dmaAdmits a 32 false true with
      | some a => .next ((s.dmaViolation a false).ringFault true r 1)
      | none =>
        let len := (ds.map (·.blen)).sum
        if !chainOk then .next (s.txWriteBack r idx ds 2)
        else if len < 60 ∨ 10236 < len then .next (s.txWriteBack r idx ds 1)
        else match ds.find? fun d => !s.dmaAdmits d.addr d.blen false true with
          | some d => .next (((s.txWriteBack r idx ds 3).dmaViolation d.addr false).ringFault true r 2)
          | none =>
            if fault then .next ((s.txWriteBack r idx ds 4).ringFault true r 3)
            else .next ((s.txRelease ds).txWriteBack r idx ds 0)

/-! ### Commands (R577) -/

/-- Whether a number is a power of two from 64 to 65,536. -/
def countOk (n : Nat) : Bool := ((List.range 11).map fun k => 2 ^ (k + 6)).contains n

/-- Write the registers of a ring. -/
def State.writeRing (s : State) (tx : Bool) (r : Nat) (a : Args) : State :=
  let rise := a.f 2 && !s.ringOn tx r
  let cfg := b2n (a.f 2) * 2 ^ 31 + Nat.log2 (a.n 4) * 2 ^ 24 + a.n 8 * 2 ^ 14 + a.n 7 * 2 ^ 6 + (if tx then 0 else b2n (a.f 6) * 32)
  let s := s.setReg (if tx then .dmaTxBaseLo else .dmaRxBaseLo) r (word (a.n 3 % 2 ^ 32))
  let s := s.setReg (if tx then .dmaTxBaseHi else .dmaRxBaseHi) r (word (a.n 3 / 2 ^ 32))
  let s := s.setReg (ringCfg tx) r (word cfg)
  let s := if rise then ((s.setReg (ringHead tx) r 0).setReg (ringTail tx) r 0).setRing tx r {} else s
  if tx then s
  else (onesOf 16 (a.n 9)).foldl (fun s i => s.setReg .dmaRxqMap i (word (a.n 10 * 256 + r)))
    (s.setReg .dmaRxBuf r (word (a.n 5 / 128)))

/-- DMA_RING_SET (R577): configure, enable or stop a ring. -/
def execDmaRingSet (p : Packet) (s : State) : Host.Outcome State Fault Refusal :=
  runPacket 0x0B00 p (fun a s =>
    let tx := a.n 0 == 1
    let r := a.n 1
    let bad := a.bad || decide (31 < r) || decide (1 < a.n 0) || a.n 3 % 4096 != 0 || !countOk (a.n 4)
      || (!tx && (a.n 5 % 128 != 0 || decide (a.n 5 < 256) || decide (16384 < a.n 5) || decide (3 < a.n 10)))
      || a.n 7 == 0 || decide (1023 < a.n 8)
    guarded s
      [ (!s.tree.root, .resourceAbsent), (bad, .paramInvalid),
        (!s.dmaAdmits (a.n 3) (32 * a.n 4) (!tx) (decide (p.chan < 4)), .dmaWindow),
        (a.f 2 && s.ringOn tx r && (s.ringBase tx r != a.n 3 || s.ringCount tx r != a.n 4), .busy) ]
      (let s := s.writeRing tx r a
       if !a.f 2 && !tx && s.host.jobs.any (fun (j : RxJob) => j.ring = r) then Res.job s 0x0B00 p 1 else Res.ok s [])) s

/-- DMA_RING_GET (R577): one ring's registers and counters. -/
def execDmaRingGet (p : Packet) (s : State) : Host.Outcome State Fault Refusal :=
  runPacket 0x0B01 p (fun a s =>
    let tx := a.n 0 == 1
    let r := a.n 1
    let regs : List Reg := if tx
      then [.dmaTxBaseLo, .dmaTxBaseHi, .dmaTxCfg, .dmaTxHead, .dmaTxTail, .dmaTxErrCnt, .dmaTxFrameCnt]
      else [.dmaRxBaseLo, .dmaRxBaseHi, .dmaRxCfg, .dmaRxHead, .dmaRxTail, .dmaRxBuf, .dmaRxNodescCnt, .dmaRxFrameCnt]
    guarded s [(a.bad || decide (31 < r) || decide (1 < a.n 0), .paramInvalid)]
      (Res.ok s (regs.map fun x => (Ty.u 32, (s.reg x r).toNat)))) s

end Sys2Proof.Machine
end

