-- ==== Sys2Proof/Machine/Lanes.lean ====
section
/-!
DEFINITION. Serial lanes (chapter 13): alignment and lock, the Cemond table and its commits, electrical idle on both sides, eye
scans, the leg checks, and the commands.
-/
namespace Sys2Proof.Machine
open Sys2Proof

/-- A lane. -/
def State.lane (s : State) (l : Nat) : LaneSt := Table.get (fun _ => {}) s.lanes.lane l
def State.setLane (s : State) (l : Nat) (x : LaneSt) : State :=
  { s with lanes := { s.lanes with lane := Table.set (fun _ => {}) s.lanes.lane l x } }

/-- The lanes of a port. -/
def State.lanesOf (s : State) (p : Nat) : List Nat := (List.range (s.width p)).map (p + ·)

/-- Whether a lane is in an enabled port (LN_RATE.ACTIVE). -/
def State.laneOn (s : State) (l : Nat) : Bool := s.flag F.lnRate_ACTIVE l

/-- The port of a lane that runs. -/
def State.runningPort (s : State) (l : Nat) : Option Nat := if s.laneOn l then s.ownerOfLane l else none

/-! ### Alignment (R379, R380, R349, R390) -/

/-- What an instance sees of a lane: its place among the PCS lanes of the port, half B above half A (R348). Outside mode 0x10 only
the bytes of half A name a place (R378). -/
def State.laneCode (s : State) (p l : Nat) : Option Nat :=
  let half := s.fld F.lnRxMap_HALF l
  if s.portMode p = 0x10 then some (4 * half + s.fld F.lnRxMap_PCSL l)
  else if half = 0 then some (s.fld F.lnRxMap_PCSL l) else none

/-- Whether the lanes of a GL4 port carry each PCS lane exactly once (R380). A standard mode reorders as its standard defines. -/
def State.arranged (s : State) (p : Nat) : Bool :=
  s.laneRate p != 3
    || (List.range (s.width p)).all fun k => ((s.lanesOf p).filter fun l => s.laneCode p l == some k).length == 1

/-- The alignment of a port is judged anew (R380): with every lane locked, a wrong arrangement or too much skew leaves it unaligned
with DESKEW_ERR. A change of alignment is a change of the link's conditions (R350). -/
def State.realign (s : State) (p : Nat) : State :=
  let locked := (s.lanesOf p).all fun l => s.flag F.lnStat_LOCK l
  let good := s.arranged p && decide (s.fld F.pcsState_SKEW p ≤ 180)
  let s := if locked && !good then s.raise F.pcsStat_DESKEW_ERR p else s
  (s.setFld F.macLink_ALIGNED p (b2n (locked && good))).linkChanged p

/-- LANE_LOCK (R379, R380): lane `l` finds two valid markers of one half and PCS lane an AM period apart, in the inverted stream or
not; `skew` is the largest skew between the port's lanes, in ns. -/
def execLaneLock (l : Nat) (half : Bool) (pcsl : Nat) (inverted : Bool) (skew : Nat) (s : State) : Host.Outcome State Fault Refusal :=
  match s.runningPort l with
  | none => .next s
  | some p =>
    let w := if s.portMode p = 0x10 then 4 else s.width p
    if s.flag F.lnStat_LOCK l || decide (w ≤ pcsl) then .next s
    else
      let s := (s.setFld F.lnStat_LOCK l 1).setFld F.lnStat_PN_SWAP l (b2n inverted)
      let s := s.setReg .lnRxMap l (word (2 ^ 31 + 16 * b2n half + pcsl))
      let s := s.setFld F.pcsState_SKEW p (min 255 skew)
      .next (s.realign p)

/-- A lane loses lock (R379). -/
def State.loseLock (s : State) (l p : Nat) : State :=
  let s := ((s.setFld F.lnStat_LOCK l 0).setFld F.lnStat_PN_SWAP l 0).raise F.lnStat_LOCK_LOST l
  (s.setFld F.lnRxMap_VALID l 0).realign p

/-- LANE_LOCK_LOSS (R379): four marker positions without a valid marker, or a marker of another half or PCS lane. A lane in
electrical idle holds its lock (R390). -/
def execLaneLockLoss (l : Nat) (s : State) : Host.Outcome State Fault Refusal :=
  match s.runningPort l with
  | none => .next s
  | some p => if !s.flag F.lnStat_LOCK l || (s.lane l).rx != 0 then .next s else .next (s.loseLock l p)

/-! ### The Cemond table (R383 to R385) -/

/-- Whether a record is valid (R384). -/
def recordOk (r : List Byte) : Bool :=
  let at_ := fun k => leAt r k 1
  let mag := fun k => (toSigned 8 (at_ k)).natAbs
  let flags := at_ 3
  r.length == 32 && leAt r 28 4 == crc32 (r.take 28)
    && decide (leAt r 0 2 < 512) && decide (at_ 2 < 4) && decide (flags < 8) && decide (at_ 8 < 64) && decide (at_ 9 < 32)
    && decide (at_ 10 < 16) && decide (at_ 11 < 64) && leAt r 24 4 == 0
    && decide (mag 4 + mag 5 + at_ 6 + mag 7 ≤ 63) && decide (0 < toSigned 8 (at_ 15))
    && (at_ 2 != 3 || (flags.testBit 0 && flags.testBit 1))

/-- The working record of a lane and rate code. -/
def State.record? (s : State) (l rate : Nat) : Option (List Byte) := OTable.get? s.lanes.cemond (4 * l + rate)

/-- The settings that a record holds, in the order LN_TXEQ, LN_TXCFG, LN_RXCFG, LN_FFE0 to LN_FFE2 (R400). -/
def recordWords (r : List Byte) : List Nat :=
  let flags := leAt r 3 1
  [ leAt r 4 4, flags / 4 % 2 * 2 ^ 9 + flags % 2 * 2 ^ 8 + leAt r 8 1,
    flags / 2 % 2 * 2 ^ 24 + leAt r 11 1 * 2 ^ 16 + leAt r 10 1 * 2 ^ 8 + leAt r 9 1, leAt r 12 4, leAt r 16 4, leAt r 20 4 ]

/-- The shadow registers of a lane, in that order. -/
def shadowRegs (l : Nat) : List (Reg × Nat) :=
  [(.lnTxeq, l), (.lnTxcfg, l), (.lnRxcfg, l), (.lnFfe, 3 * l), (.lnFfe, 3 * l + 1), (.lnFfe, 3 * l + 2)]

/-- The shadow as it stands, and as firmware writes it. -/
def State.laneShadow (s : State) (l : Nat) : List Nat := (shadowRegs l).map fun r => (s.reg r.1 r.2).toNat
def State.setShadow (s : State) (l : Nat) (ws : List Nat) : State :=
  let w := fun k => word (ws.getD k 0)
  (((((s.setReg .lnTxeq l (w 0)).setReg .lnTxcfg l (w 1)).setReg .lnRxcfg l (w 2)).setReg .lnFfe (3 * l) (w 3)).setReg .lnFfe (3 * l + 1)
    (w 4)).setReg .lnFfe (3 * l + 2) (w 5)

/-- COMMIT is set: both halves wait for their boundaries (R385). -/
def State.commitLane (s : State) (l : Nat) : State :=
  (s.setFld F.lnCemCommit_COMMIT l 1).setLane l { s.lane l with txPend := true, rxPend := true }

/-- CEMOND_COMMIT (R385): the control complex writes LN_CEM_COMMIT. -/
def execCemondCommit (who : Sender) (l : Nat) (v : Word) (s : State) : Host.Outcome State Fault Refusal :=
  if !s.hasLane l then .next s
  else .next (s.ccWrite who (Reg.lnCemCommit.offset l) fun s => if v.toNat.testBit 0 then s.commitLane l else s)

/-- The transmit half of a commit takes effect, then the receive half, each when it waits and may; when both are done COMMIT
clears, CEM_DONE sets and LN_CEM_ID names the record (R385). -/
def State.applyCommit (s : State) (l : Nat) (tx rx : Bool) : State :=
  let x := s.lane l
  if !x.txPend && !x.rxPend then s
  else
    let doTx := x.txPend && tx
    let doRx := x.rxPend && rx
    let sh := s.laneShadow l
    let force := (if doTx then sh.take 2 else x.force.take 2) ++ (if doRx then sh.drop 2 else x.force.drop 2)
    let y := { x with force := force, txPend := x.txPend && !doTx, rxPend := x.rxPend && !doRx }
    let s := s.setLane l y
    if y.txPend || y.rxPend then s
    else ((s.setFld F.lnCemCommit_COMMIT l 0).raise F.lnStat_CEM_DONE l).setReg .lnCemId l (word x.crcPend)

/-- CEMOND_COMMIT_APPLY (R385): the next codeword boundaries of lane `l`. The transmit settings of a lane in idle wait for the
resume boundary. -/
def execCemondCommitApply (l : Nat) (s : State) : Host.Outcome State Fault Refusal :=
  match s.runningPort l with
  | none => .next s
  | some p => .next (s.applyCommit l (s.idleTx p == 0 || (s.idleTx p == 1 && decide (s.tick.slot < (s.line p).due))) true)

/-- A port is enabled: each lane's record for the port's rate is applied before the first symbol, and a pending commit is
discarded (R385); the codewords start after the leg check of 3,125 slots (R395). -/
def State.enableLanes (s : State) (p : Nat) : State :=
  let rate := s.laneRate p
  let s := (s.lanesOf p).foldl (fun s l =>
    let r := (s.record? l rate).getD []
    let s := ((s.setShadow l (recordWords r)).setReg .lnCemId l (word (leAt r 28 4))).setFld F.lnCemCommit_COMMIT l 0
    let s := (s.setReg .lnRate l (word (16 + rate))).setReg .lnRxMap l 0
    let s := ((s.setFld F.lnStat_LOCK l 0).setFld F.lnStat_IDLE l 0).setFld F.lnStat_PN_SWAP l 0
    s.setLane l { force := recordWords r, seen := (s.lane l).seen }) s
  (s.setReg .pcsState p 0).setLine p { txStart := s.tick.slot + 1 + 3125, lastChosen := s.tick.slot }

/-- A port is disabled: its lanes stop. -/
def State.disableLanes (s : State) (p : Nat) : State :=
  let s := (s.lanesOf p).foldl (fun s l =>
    let s := (s.setReg .lnRate l 0).setReg .lnRxMap l 0
    let s := ((s.setFld F.lnStat_LOCK l 0).setFld F.lnStat_IDLE l 0).setFld F.lnStat_PN_SWAP l 0
    s.setLane l { s.lane l with rx := 0 }) s
  ((s.setReg .pcsState p 0).setLine p {}).setFld F.macModeStat_IDLE_ACT p 0

/-! ### Transmit idle (R387, R388, R75) -/

/-- The next change of a walk through the gates, with its instant. -/
def State.gateNext (s : State) (p : Nat) (w : GateWalk) : Option GateWalk :=
  match soonest [w.tEnd, w.tCyc, w.tSwap] with
  | none => none
  | some n =>
    if w.tSwap = some n then
      let w := { w with admin := true, tSwap := none }
      if s.gclLen p true = 0 then some { w with vec := 255, t := n, tEnd := none, tCyc := none }
      else some { s.gateEnter p w 0 n with tCyc := some (n + max 1 (s.gclCycle p true) * 2 ^ 32) }
    else if w.tCyc = some n then some { s.gateEnter p w 0 n with tCyc := some (n + max 1 (s.gclCycle p w.admin) * 2 ^ 32) }
    else some (s.gateEnter p w (w.entry + 1) n)

/-- Whether an entry that opens a closed gate starts within the horizon, in 1/2^32 ns. -/
def State.gateOpens (s : State) (p horizon : Nat) : Nat → GateWalk → Bool
  | 0, _ => false
  | fuel + 1, w =>
    match s.gateNext p w with
    | none => false
    | some n => decide (n.t ≤ horizon) && ((n.vec &&& (255 ^^^ w.vec % 256)) != 0 || s.gateOpens p horizon fuel n)

/-- The pre-wake of GATED, IDLE: an opening lies within 250 ns (R75). -/
def State.opensSoon (s : State) (p : Nat) : Bool := s.gated p && s.gateOpens p (250 * 2 ^ 32) 256 (s.gateNow p)

/-- The conditions of R387 for entry. A frame in transmission keeps the lanes up. -/
def State.mayIdle (s : State) (p : Nat) : Bool :=
  let f := s.flow p
  s.flag F.macMode_IDLE p && s.configured p && !s.hidden p && s.flag F.macPortCfg_EN p && !s.flag F.macModeStat_SB_ACT p
    && (s.lineTx p).isNone && (s.nextTx p).isNone && f.due == 0 && f.frames.isEmpty
    && decide (max 64 (s.fld F.pcsIdleCfg_DELAY p) ≤ s.tick.slot - (s.line p).lastChosen) && !s.opensSoon p

/-- IDLE_ENTRY (R387): entry is decided and waits for its codeword boundary; 4 slots after that boundary the outputs have fallen to
zero and the port is in idle. -/
def execIdleEntry (p : Nat) (s : State) : Host.Outcome State Fault Refusal :=
  if 512 ≤ p then .next s
  else if s.idleTx p = 0 then
    if s.mayIdle p then
      .next ((s.setLine p { s.line p with due := s.boundaryFrom p (s.tick.slot + 1), exitReq := none }).setFld F.pcsState_IDLE_TX p 1)
    else .next s
  else if s.idleTx p = 1 && decide ((s.line p).due + 4 ≤ s.tick.slot) then
    .next (((s.setFld F.pcsState_IDLE_TX p 2).setFld F.macModeStat_IDLE_ACT p 1).count .pcsIdleEntryCnt p 1)
  else .next s

/-- The request of an exit that stands, or the pre-wake's. -/
def State.exitRequest (s : State) (p : Nat) : Option Nat :=
  match (s.line p).exitReq with
  | some r => if r ≤ s.tick.slot then some r else none
  | none => if s.flag F.macMode_GATED p && s.opensSoon p then some s.tick.slot else none

/-- IDLE_EXIT (R388): a request starts the wake of an idle port. -/
def execIdleExit (p : Nat) (s : State) : Host.Outcome State Fault Refusal :=
  if s.idleTx p != 2 || s.flag F.macModeStat_SB_ACT p then .next s
  else
    match s.exitRequest p with
    | none => .next s
    | some r => .next ((s.setLine p { s.line p with exitReq := none, due := s.boundaryFrom p (r + 201) }).setFld F.pcsState_IDLE_TX p 3)

/-- IDLE_RESUME (R385, R388): the boundary after the resume marker; transmission restarts, and transmit settings that waited take
effect. -/
def execIdleResume (p : Nat) (s : State) : Host.Outcome State Fault Refusal :=
  if s.idleTx p != 3 || decide (s.tick.slot < (s.line p).due) then .next s
  else
    let s := (s.setFld F.pcsState_IDLE_TX p 0).setFld F.macModeStat_IDLE_ACT p 0
    let s := s.setLine p { s.line p with lastChosen := s.tick.slot }
    .next ((s.lanesOf p).foldl (fun s l => s.applyCommit l true false) s)

/-! ### Receive idle (R389, R390) -/

/-- A receiver's state changes; LN_STAT.IDLE and the port's worst lane follow. -/
def State.setRx (s : State) (l p st : Nat) : State :=
  let s := (s.setLane l { s.lane l with rx := st, rxAt := s.tick.slot }).setFld F.lnStat_IDLE l (b2n (st != 0))
  s.setFld F.pcsState_IDLE_RX p ((s.lanesOf p).foldl (fun m k => max m (s.lane k).rx) 0)

/-- Run an event of a lane whose receiver is in state `st`. -/
def State.inRx (s : State) (l st : Nat) (k : State → Nat → State) : Host.Outcome State Fault Refusal :=
  match s.runningPort l with
  | none => .next s
  | some p => if (s.lane l).rx = st then .next (k s p) else .next s

/-- RX_IDLE_ENTER (R390): the idle entry sequence is received. -/
def execRxIdleEnter (l : Nat) (s : State) : Host.Outcome State Fault Refusal := s.inRx l 0 fun s p => s.setRx l p 1

/-- RX_SIGNAL_DETECT (R390): the receiver trains on the burst. -/
def execRxSignalDetect (l : Nat) (s : State) : Host.Outcome State Fault Refusal := s.inRx l 1 fun s p => s.setRx l p 2

/-- RX_RESUME_MARKER (R389, R390): a marker with the 32-bit field `field`; with a good CRC the receiver is ACTIVE at its PHASE. -/
def execRxResumeMarker (l : Nat) (field : Word) (s : State) : Host.Outcome State Fault Refusal :=
  s.inRx l 2 fun s p =>
    let v := field.toNat
    if crc8 (beBytes 3 v) != v / 2 ^ 24 then s
    else
      let s := s.setLane l { s.lane l with phase := v % 2 ^ 20 }
      s.setRx l p 0

/-- RX_RESUME_TIMEOUT (R390): 390 slots after signal detect without a good marker, the lane loses lock. -/
def execRxResumeTimeout (l : Nat) (s : State) : Host.Outcome State Fault Refusal :=
  s.inRx l 2 fun s p =>
    if s.tick.slot < (s.lane l).rxAt + 390 then s
    else (((s.setRx l p 0).count .pcsResumeFailCnt p 1).raise F.pcsStat_RESUME_FAIL p).loseLock l p

/-! ### Eye scans (R391 to R393, R398) -/

/-- Points of a scan along its phase. -/
def EyeScan.phases (e : EyeScan) : Nat := ((e.ph1 - e.ph0) / (e.phStep : Int)).toNat + 1
def EyeScan.volts (e : EyeScan) : Nat := ((e.v1 - e.v0) / (e.vStep : Int)).toNat + 1

/-- The point a scan stands at: the phase ascends inside the voltage (R392). -/
def EyeScan.point (e : EyeScan) : Int × Int :=
  (e.ph0 + ((e.phStep * (e.idx % e.phases) : Nat) : Int), e.v0 + ((e.vStep * (e.idx / e.phases) : Nat) : Int))

/-- The register word of a scan's point (R400). -/
def EyeScan.cfg (e : EyeScan) (on : Bool) : Nat :=
  b2n on * 2 ^ 31 + e.eye * 2 ^ 24 + e.win * 2 ^ 16 + ofSigned 8 e.point.2 * 2 ^ 8 + ofSigned 6 e.point.1

/-- Put a lane's scan. -/
def State.setScan (s : State) (l : Nat) (e : EyeScan) : State :=
  { s with lanes := { s.lanes with scans := Table.insert s.lanes.scans l e } }

/-- EYE_SCAN_STEP (R392, R393): from offset 524,288 of an epoch, the scanning lane measures its point: `errs` mismatches, void when
a commit, a loss of lock or idle entry fell within the count. While the port is down, the lane unlocked or the die HOT (R627) the scan pauses. -/
def execEyeScanStep (l errs : Nat) (void : Bool) (s : State) : Host.Outcome State Fault Refusal :=
  match OTable.get? s.lanes.scans l, s.runningPort l with
  | some e, some p =>
    if !e.running || decide (2 ≤ s.fld F.thmStat_LEVEL 0) || decide (s.epoch < e.start) || decide (s.epochOffset < 524288) || !s.linkUp p || !s.flag F.lnStat_LOCK l then .next s
    else
      let ui := 2 ^ e.win
      let errs := min errs ui
      let s := s.setReg .lnEscanErr l (word errs)
      let s := (s.setReg .lnEscanUi l (word (b2n void * 2 ^ 31 + ui))).raise F.lnStat_ESCAN_STEP l
      let pt : EyePoint := { phase := e.point.1, volt := e.point.2, again := e.again, errs := errs, ui := ui }
      let e' := { e with start := s.epoch + 1, again := void, idx := if void then e.idx else e.idx + 1
                         results := if void then e.results else e.results ++ [pt] }
      let e' := { e' with running := decide (e'.idx < e.phases * e.volts) }
      .next ((s.setScan l e').setReg .lnEscanCfg l (word (e.cfg e'.running)))
  | _, _ => .next s

/-- EYE_SCAN_START (R398). -/
def execEyeScanStart (p : Packet) (s : State) : Host.Outcome State Fault Refusal :=
  runPacket 0x0803 p (fun a s =>
    let l := a.n 0
    let ph0 := a.i 2 8
    let ph1 := a.i 3 8
    let v0 := a.i 5 8
    let v1 := a.i 6 8
    let bad := a.bad || decide (2 < a.n 1) || decide (ph0 < -32) || decide (31 < ph1) || decide (ph1 < ph0) || decide (v0 < -127)
      || decide (127 < v1) || decide (v1 < v0) || a.n 4 == 0 || a.n 7 == 0 || decide (a.n 8 < 16)
      || decide (23 + s.fld F.lnRate_RATE l < a.n 8)
    let busy := match OTable.get? s.lanes.scans l with
      | some e => e.running
      | none => false
    guarded s [ (!s.hasLane l, .resourceAbsent), (bad, .paramInvalid), (busy, .busy), (!s.flag F.lnStat_LOCK l, .laneNotLocked) ]
      (let e : EyeScan := { eye := a.n 1, ph0 := ph0, ph1 := ph1, phStep := a.n 4, v0 := v0, v1 := v1, vStep := a.n 7
                            win := a.n 8, start := s.epoch + 1 }
       Res.ok ((s.setScan l e).setReg .lnEscanCfg l (word (e.cfg true))) [])) s

/-- The 16 bytes of a point (R398). -/
def EyePoint.bytes (e : EyePoint) : List Byte :=
  leBytes 1 (ofSigned 8 e.phase) ++ leBytes 1 (ofSigned 8 e.volt) ++ leBytes 1 (b2n e.again) ++ leBytes 1 0 ++ leBytes 4 e.errs
    ++ leBytes 8 e.ui

/-- EYE_SCAN_GET (R398): the points measured so far; the reply gives their number. -/
def execEyeScanGet (p : Packet) (s : State) : Host.Outcome State Fault Refusal :=
  runPacket 0x0804 p (fun a s =>
    let pts := match OTable.get? s.lanes.scans (a.n 0) with
      | some e => e.results
      | none => []
    guarded s ([(!s.hasLane (a.n 0), .resourceAbsent), (a.bad, .paramInvalid)] ++ dmaChecks s p (a.n 1) true (16 * pts.length))
      (dmaWrite s p (a.n 1) (pts.flatMap EyePoint.bytes) fun s => Res.ok s [(.u 32, pts.length)])) s

/-- EYE_SCAN_STOP (R398): the scan ends and its results stay. -/
def execEyeScanStop (p : Packet) (s : State) : Host.Outcome State Fault Refusal :=
  runPacket 0x0805 p (fun a s =>
    let l := a.n 0
    guarded s [(!s.hasLane l, .resourceAbsent), (a.bad, .paramInvalid)]
      (match OTable.get? s.lanes.scans l with
       | none => Res.ok s []
       | some e => Res.ok ((s.setScan l { e with running := false }).setFld F.lnEscanCfg_EN l 0) [])) s

/-! ### Wiring faults (R395) -/

/-- The four legs: the low bit of the field in LN_FAULT. -/
def legLows : List Nat := [0, 4, 8, 12]

/-- A leg code as the table of R395 names it: others count as outside every band, and a receive leg has no contention. -/
def legCode (lo c : Nat) : Nat :=
  let c := c % 8
  if c = 5 ∨ c = 6 ∨ (8 ≤ lo ∧ c = 4) then 7 else c

/-- LEG_MONITOR_CHECK (R395): one check of the legs of lane `l`, its codes placed as in LN_FAULT. A condition seen in two consecutive
checks is reported, and cleared after two clean ones. A receive leg without signal shows in LOS. -/
def execLegMonitorCheck (l codes : Nat) (s : State) : Host.Outcome State Fault Refusal :=
  if !s.laneOn l then .next s
  else
    let now := legLows.foldl (fun v lo => v + legCode lo (codes / 2 ^ lo) * 2 ^ lo) 0
    let seen := (s.lane l).seen
    let old := (s.reg .lnFault l).toNat
    let new := legLows.foldl (fun v lo => if bitsOf now (lo + 2) lo = bitsOf seen (lo + 2) lo
      then setBits v (lo + 2) lo (bitsOf now (lo + 2) lo) else v) old
    let los := bitsOf now 10 8 == 1 || bitsOf now 14 12 == 1
    let s := (s.setLane l { s.lane l with seen := now }).setFld F.lnStat_LOS l (b2n los)
    if new = old then .next s else .next ((s.setReg .lnFault l (word new)).raise F.lnStat_FAULT_CHG l)

/-! ### Commands (R396 to R399) -/

/-- A valid record enters the working copy; a lane that runs at its rate gets its settings by a commit (R385, R396). -/
def State.setRecord (s : State) (l : Nat) (r : List Byte) : State :=
  let rate := leAt r 2 1
  let s := { s with lanes := { s.lanes with cemond := Table.insert s.lanes.cemond (4 * l + rate) r } }
  if s.laneOn l && s.fld F.lnRate_RATE l == rate then
    let s := (s.setShadow l (recordWords r)).commitLane l
    s.setLane l { s.lane l with crcPend := leAt r 28 4 }
  else s

/-- CEMOND_SET (R396). -/
def execCemondSet (p : Packet) (s : State) : Host.Outcome State Fault Refusal :=
  runPacket 0x0800 p (fun a s =>
    let r := leBytes 32 (a.n 1)
    guarded s [(!s.hasLane (a.n 0), .resourceAbsent), (a.bad || leAt r 0 2 != a.n 0 || !recordOk r, .paramInvalid)]
      (Res.ok (s.setRecord (a.n 0) r) [])) s

/-- CEMOND_GET (R396): the record, or NOT_FOUND. -/
def execCemondGet (p : Packet) (s : State) : Host.Outcome State Fault Refusal :=
  runPacket 0x0801 p (fun a s =>
    match s.record? (a.n 0) (a.n 1) with
    | none => guarded s [(!s.hasLane (a.n 0), .resourceAbsent), (a.bad || decide (3 < a.n 1), .paramInvalid)] (Res.discard s .notFound)
    | some r => guarded s [(!s.hasLane (a.n 0), .resourceAbsent), (a.bad || decide (3 < a.n 1), .paramInvalid)]
        (Res.ok s [(.wide 256, leNat r)])) s

/-- Whether the header of a table holds (R383), for a table of `len` bytes. -/
def tableOk (t : List Byte) (len : Nat) : Bool :=
  leAt t 0 4 == 0x444E4D43 && leAt t 4 2 == 1 && decide (leAt t 6 2 ≤ 2048) && leAt t 12 4 == crc32 (slice t 0 12)
    && len == 16 + 32 * leAt t 6 2

/-- The records of a table. -/
def tableRecords (t : List Byte) : List (List Byte) := (List.range (leAt t 6 2)).map fun k => slice t (16 + 32 * k) 32

/-- The valid records of a table for present lanes enter the working copy, in order (R384, R397). -/
def State.loadTable (s : State) (t : List Byte) : State × Nat :=
  let good := (tableRecords t).filter fun r => recordOk r && s.hasLane (leAt r 0 2)
  (good.foldl (fun s r => s.setRecord (leAt r 0 2) r) s, good.length)

/-- CEMOND_LOAD (R397): a whole table by DMA; the reply gives the numbers accepted and rejected. -/
def execCemondLoad (p : Packet) (s : State) : Host.Outcome State Fault Refusal :=
  runPacket 0x0802 p (fun a s =>
    guarded s (dmaChecks s p (a.n 0) false 16)
      (if p.dmaFault then Res.discard s .dmaFault
       else if a.bad || !tableOk p.dma (dmaLen (a.n 0)) then Res.discard s .paramInvalid
       else
         let r := s.loadTable p.dma
         Res.ok r.1 [(.u 16, r.2), (.u 16, leAt p.dma 6 2 - r.2)])) s

/-- LANE_TEST_SET (R399). -/
def execLaneTestSet (p : Packet) (s : State) : Host.Outcome State Fault Refusal :=
  runPacket 0x0806 p (fun a s =>
    let l := a.n 0
    guarded s [ (!s.hasLane l, .resourceAbsent), (a.bad || decide (2 < a.n 1) || decide (2 < a.n 2), .paramInvalid),
        (s.laneOn l, .portActive) ]
      (Res.ok (s.setReg .lnTest l (word (a.n 3 * 256 + a.n 2 * 16 + a.n 1))) [])) s

/-- A lane register as it reads: precoding reads as 1 at rate code 3 (R400). -/
def State.laneReg (s : State) (r : Reg) (i : Nat) : Word :=
  let on := s.laneOn i && s.fld F.lnRate_RATE i == 3
  match r with
  | .lnTxcfg => if on then F.lnTxcfg_PRECODE.put (s.reg r i) 1 else s.reg r i
  | .lnRxcfg => if on then F.lnRxcfg_PRECODE.put (s.reg r i) 1 else s.reg r i
  | r => s.reg r i

/-- The registers of a lane in the order of R400. -/
def laneRegs (l : Nat) : List (Reg × Nat) :=
  [(.lnTest, l), (.lnStat, l), (.lnIe, l), (.lnRate, l), (.lnRxMap, l), (.lnFault, l)] ++ shadowRegs l
  ++ [(.lnCemCommit, l), (.lnCemId, l), (.lnEscanCfg, l), (.lnEscanErr, l), (.lnEscanUi, l), (.lnBipErrCnt, l), (.lnFecSymCnt, l),
      (.lnTestErrCnt, l)]

/-- LANE_STATUS_GET (R399): every LN register of a lane, the mask of its working records, and the records. -/
def execLaneStatusGet (p : Packet) (s : State) : Host.Outcome State Fault Refusal :=
  runPacket 0x0807 p (fun a s =>
    let l := a.n 0
    let recs := (List.range 4).map fun k => s.record? l k
    let mask := (recs.zipIdx.filter fun (e : Option (List Byte) × Nat) => e.1.isSome).foldl (fun m e => m + 2 ^ e.2) 0
    guarded s [(!s.hasLane l, .resourceAbsent), (a.bad, .paramInvalid)]
      (Res.ok s (((laneRegs l).map fun r => (Ty.u 32, (s.laneReg r.1 r.2).toNat)) ++ [(.u 8, mask)]
        ++ recs.map fun r => (Ty.wide 256, leNat (r.getD []))))) s

end Sys2Proof.Machine
end

