-- ==== Sys2Proof/Machine/Stores.lean ====
section
/-!
DEFINITION. Commands on replication sets and staging (R218, R219), on the cell buffer (R251 to R254) and on the deep tier (R282 to
R284).
-/
namespace Sys2Proof.Machine
open Sys2Proof

/-! ### Replication and staging (R218, R219) -/

/-- REPL_SET (R218): QMASK, set index, port mask. -/
def execReplSet (p : Packet) (s : State) : Host.Outcome State Fault Refusal :=
  runPacket 0x0500 p (fun a s =>
    guarded s
      [ (s.noQuad (a.n 0), .resourceAbsent), (decide (16384 ≤ a.n 1), .indexRange), (a.bad, .paramInvalid) ]
      (quadCommand s (a.n 0) fun s q =>
        ({ s with tab := { s.tab with repl := Table.set (fun _ => 0) s.tab.repl (q * 16384 + a.n 1) (s.presentMask (a.n 2)) } }, .ok))) s

/-- REPL_GET (R218): the set of one quadrant as held. -/
def execReplGet (p : Packet) (s : State) : Host.Outcome State Fault Refusal :=
  runPacket 0x0501 p (fun a s =>
    guarded s [ (a.bad, .paramInvalid), (!s.hasQuad (a.n 0), .resourceAbsent), (decide (16384 ≤ a.n 1), .indexRange) ]
      (Res.ok s [(.wide 516, Table.get (fun _ => 0) s.tab.repl (a.n 0 * 16384 + a.n 1))])) s

/-- The slices a 32-bit mask names, and whether one of them is absent. -/
def slicesOf (m : Nat) : List Nat := onesOf 32 m
def State.slicesBad (s : State) (m : Nat) : Bool := (slicesOf m).any fun sl => !s.hasSlice sl

/-- FAB_STG_SET (R219, R302): slice mask, XOFF_CELLS, XON_CELLS, LOSSY_MIN. -/
def execFabStgSet (p : Packet) (s : State) : Host.Outcome State Fault Refusal :=
  runPacket 0x0502 p (fun a s =>
    let sls := slicesOf (a.n 0)
    let t := sls.foldl (fun s sl =>
      (s.setReg .fabStgCfg sl (word (a.n 2 * 2 ^ 16 + a.n 1))).setReg .fabStgLossy sl (word (a.n 3))) s
    let t := sls.foldl (fun s sl => s.recompute sl) t
    guarded s
      ([ (s.slicesBad (a.n 0), .resourceAbsent),
         (a.bad || decide (a.n 1 ≤ a.n 2) || decide (4096 < a.n 1) || decide (28672 < a.n 3), .paramInvalid) ]
        ++ (List.range 4).flatMap fun q => if sls.any fun sl => sl / 8 = q then limitChecks s t q else [])
      (Res.ok t [])) s

/-- FAB_STG_GET (R219): the registers of a slice, and for each lossless pair its port, class, on-die reserve, spill share and
staged count, as many as the reply holds. -/
def execFabStgGet (p : Packet) (s : State) : Host.Outcome State Fault Refusal :=
  runPacket 0x0503 p (fun a s =>
    let sl := a.n 0
    let ps := (s.path.reserves.filter fun e => Config.sliceOf (e.1 / 8) = sl).take 28
    guarded s [(a.bad, .paramInvalid), (!s.hasSlice sl, .resourceAbsent)]
      (Res.ok s ([ (.u 16, s.fld F.fabStgCfg_XOFF_CELLS sl), (.u 16, s.fld F.fabStgCfg_XON_CELLS sl),
          (.u 16, s.fld F.fabStgLossy_LOSSY_MIN sl), (.u 16, ps.length) ]
        ++ ps.flatMap fun e => [ (Ty.u 32, e.2.2), (.u 16, e.1 / 8), (.u 16, e.1 % 8), (.u 32, e.2.1),
             (.u 32, s.pairCells (e.1 / 8) (e.1 % 8)) ]))) s

/-! ### The cell buffer (R251 to R254) -/

/-- The sum of the floors of a slice with the floor of one pool replaced. -/
def State.floorsWith (s : State) (sl pool v : Nat) : Nat :=
  (List.range 4).foldl (fun a i => a + if i = pool then v else s.floor sl i) 0

/-- CB_POOL_SET (R251): slice mask, pool, FLOOR, CEIL. -/
def execCbPoolSet (p : Packet) (s : State) : Host.Outcome State Fault Refusal :=
  runPacket 0x0504 p (fun a s =>
    let sls := slicesOf (a.n 0)
    guarded s
      [ (s.slicesBad (a.n 0), .resourceAbsent),
        (a.bad || decide (3 < a.n 1) || decide (a.n 3 < a.n 2) || decide (65536 < a.n 3), .paramInvalid),
        (sls.any (fun sl => decide (65536 - (s.pool sl).quar - (s.pool sl).retired < s.floorsWith sl (a.n 1) (a.n 2))), .floorExcess) ]
      (Res.ok (sls.foldl (fun s sl =>
        (s.setReg .cbPoolFloor (sl * 4 + a.n 1) (word (a.n 2))).setReg .cbPoolCeil (sl * 4 + a.n 1) (word (a.n 3))) s) [])) s

/-- CB_POOL_GET (R251): for one slice each pool's FLOOR, CEIL and HELD, then FREE, RESV, FREEING, QUAR, RETIRED. -/
def execCbPoolGet (p : Packet) (s : State) : Host.Outcome State Fault Refusal :=
  runPacket 0x0505 p (fun a s =>
    let sl := a.n 0
    let k := s.pool sl
    guarded s [(a.bad, .paramInvalid), (!s.hasSlice sl, .resourceAbsent)]
      (Res.ok s (((List.range 4).flatMap fun i => [(Ty.u 32, s.floor sl i), (.u 32, s.ceil sl i), (.u 32, k.heldOf i)])
        ++ [(.u 32, k.free), (.u 32, k.resv), (.u 32, k.freeing), (.u 32, k.quar), (.u 32, k.retired)]))) s

/-- The quarantined cells of a slice from an index upward. -/
def State.quarCells (s : State) (sl first : Nat) : List (Nat × Desc) :=
  (s.path.desc.filter fun e => e.1 / 65536 == sl && decide (first ≤ e.1 % 65536) && e.2.state == 2).map fun e => (e.1 % 65536, e.2)

/-- The record of a quarantined cell: index, recorded OWNER, QCAUSE, DEBITED, 16 bytes in all. -/
def quarRecord (e : Nat × Desc) : List Byte :=
  leBytes 4 e.1 ++ leBytes 2 e.2.owner ++ leBytes 1 e.2.qcause ++ leBytes 1 (b2n e.2.debited) ++ leBytes 8 0

/-- CB_QUAR_LIST (R252): slice, starting index, MAX, and a buffer when MAX exceeds 28; COUNT, END and the records. -/
def execCbQuarList (p : Packet) (s : State) : Host.Outcome State Fault Refusal :=
  runPacket 0x0506 p (fun a s =>
    let all := s.quarCells (a.n 0) (a.n 1)
    let found := all.take (a.n 2)
    let bytes := found.flatMap quarRecord
    let head := [(Ty.u 16, found.length), (Ty.flag, b2n (decide (all.length ≤ a.n 2)))]
    guarded s
      ([ (!s.hasSlice (a.n 0), .resourceAbsent), (a.bad || a.n 2 == 0 || decide (4096 < a.n 2), .paramInvalid) ]
        ++ (if 28 < a.n 2 then dmaChecks s p (a.n 3) true (16 * a.n 2) else []))
      (if 28 < a.n 2 then dmaWrite s p (a.n 3) bytes fun s => Res.ok s head
       else { status := .ok, params := emitBlock head ++ bytes, state := s })) s

/-- A quarantined cell is released (R252): it becomes FREE; without a debit made, HELD of the pool named falls by one. -/
def State.unquarantine (s : State) (sl c pool : Nat) : State :=
  let d := s.desc sl c
  let s := s.onPool sl fun k => { (if d.debited then k else k.subHeld pool 1) with quar := k.quar - 1 }
  s.release sl c

/-- CB_QUAR_RELEASE (R252): slice, cell index, ALL, POOL; a POOL of zero bytes is absent (R492). -/
def execCbQuarRelease (p : Packet) (s : State) : Host.Outcome State Fault Refusal :=
  runPacket 0x0507 p (fun a s =>
    let sl := a.n 0
    let d := s.desc sl (a.n 1)
    let quar := s.quarCells sl 0
    guarded s
      [ (!s.hasSlice sl, .resourceAbsent), (a.bad || decide (3 < a.n 3), .paramInvalid),
        (!a.f 2 && d.state != 2, .cellState), (!a.f 2 && !d.debited && a.n 3 == 0, .cellState) ]
      (if a.f 2 then
        Res.ok ((quar.filter fun e => e.2.debited).foldl (fun s e => s.unquarantine sl e.1 0) s)
          [(.u 32, (quar.filter fun e => !e.2.debited).length)]
       else Res.ok (s.unquarantine sl (a.n 1) (a.n 3)) [(.u 32, 0)])) s

/-- Firmware records a retired cell in the keep store (R253). -/
def State.recordCell (s : State) (key : Nat) : State :=
  { s with ks := { s.ks with
      retiredCells := if s.ks.retiredCells.contains key then s.ks.retiredCells else s.ks.retiredCells ++ [key] } }

/-- CB_RETIRE (R253): slice, cell index. -/
def execCbRetire (p : Packet) (s : State) : Host.Outcome State Fault Refusal :=
  runPacket 0x0508 p (fun a s =>
    let sl := a.n 0
    let d := s.desc sl (a.n 1)
    guarded s
      [ (a.bad, .paramInvalid), (!s.hasSlice sl, .resourceAbsent), (d.state == 3, .cellState),
        (decide (256 ≤ (s.pool sl).retired), .retireLimit) ]
      (let s := if d.retPend then s.onPool sl fun k => { k with retired := k.retired - 1 } else s
       Res.ok ((s.retireCell sl (a.n 1)).recordCell (cellKey sl (a.n 1))) [])) s

/-- CB_RECLAIM (R254): slice, queue. -/
def execCbReclaim (p : Packet) (s : State) : Host.Outcome State Fault Refusal :=
  runPacket 0x0509 p (fun a s =>
    let sl := a.n 0
    let r := Table.get (fun _ => {}) s.path.reclaim sl
    guarded s
      [ (!s.hasSlice sl, .resourceAbsent),
        (a.bad || decide (8256 ≤ a.n 1) || Config.sliceOf (a.n 1 / 16) != sl, .paramInvalid), (decide (16 ≤ r.waiting.length), .busy) ]
      (Res.ok (s.askReclaim sl (a.n 1)) [])) s

/-- CB_SCRUB_SET (R254): slice mask, SCRUB_EN, SCRUB_DIV. -/
def execCbScrubSet (p : Packet) (s : State) : Host.Outcome State Fault Refusal :=
  runPacket 0x050A p (fun a s =>
    guarded s [ (s.slicesBad (a.n 0), .resourceAbsent), (a.bad || decide (7 < a.n 2), .paramInvalid) ]
      (Res.ok ((slicesOf (a.n 0)).foldl (fun s sl => s.setReg .cbCtl sl (word (a.n 2 * 16 + a.n 1))) s) [])) s

/-! ### The deep tier (R282 to R284) -/

/-- Whether a stack of a quadrant has been retired. -/
def State.lostStack (s : State) (q : Nat) : Bool := s.stackState (2 * q) = 2 || s.stackState (2 * q + 1) = 2

/-- DT_QUEUE_SET (R282, R342): queue, RSV_PAGES, MAX_PAGES, RB_LOW, RB_HIGH. -/
def execDtQueueSet (p : Packet) (s : State) : Host.Outcome State Fault Refusal :=
  runPacket 0x0600 p (fun a s =>
    let qu := a.n 0
    let q := Config.quadOf (qu / 16)
    let k := q * 8256 + qu
    let t := ((s.setReg .dtQcfgRsv k (word (a.n 1))).setReg .dtQcfgMax k (word (a.n 2))).setReg .dtQcfgRb k
      (word (a.n 4 * 2 ^ 16 + a.n 3))
    guarded s
      [ (!s.hasPort (qu / 16), .resourceAbsent), (s.hidden (qu / 16), .lanesInUse),
        (a.bad || decide (a.n 2 < a.n 1) || decide (8372224 < a.n 2) || a.n 3 == 0 || decide (a.n 4 ≤ a.n 3)
          || decide (4095 < a.n 4) || decide (a.n 1 < s.deepHeadroom qu), .paramInvalid),
        (a.n 1 != 0 && s.lostStack q, .stackRetired), (t.reserveExcess q, .reserveExcess) ]
      (Res.ok t [])) s

/-- DT_QUEUE_GET (R282): the configuration, the state, PAGES and the frames of the hank. -/
def execDtQueueGet (p : Packet) (s : State) : Host.Outcome State Fault Refusal :=
  runPacket 0x0601 p (fun a s =>
    let qu := a.n 0
    let k := Config.quadOf (qu / 16) * 8256 + qu
    guarded s [(a.bad, .paramInvalid), (!s.hasPort (qu / 16), .resourceAbsent)]
      (Res.ok s [ (.u 32, s.rsvPages qu), (.u 32, s.maxPages qu), (.u 16, s.fld F.dtQcfgRb_RB_LOW k), (.u 16, s.fld F.dtQcfgRb_RB_HIGH k),
        (.flag, b2n (s.inDeep qu)), (.u 32, s.pagesOf qu),
        (.u 32, match s.hank? qu with
          | some h => h.recs.length
          | none => 0) ])) s

/-- DT_STACK_RETIRE (R276, R283): stack, MODE 0 drain or 1 immediate. -/
def execDtStackRetire (p : Packet) (s : State) : Host.Outcome State Fault Refusal :=
  runPacket 0x0602 p (fun a s =>
    let h := a.n 0
    let q := h / 2
    guarded s
      [ (a.bad, .paramInvalid), (!s.hasStack h, .resourceAbsent), (s.stackState h == 2, .stackRetired),
        (s.stackState (2 * q) == 1 || s.stackState (2 * q + 1) == 1, .busy) ]
      (Res.ok (if a.n 1 = 0 then s.setFld F.dtStkStat_STATE h 1 else s.stackLost h) [])) s

/-- Whether a page number names a usable page of a present stack in service (R284). -/
def State.pageOk (s : State) (page : Nat) : Bool :=
  decide (8192 ≤ page % 2 ^ 22) && s.hasStack (page / 2 ^ 22) && s.stackState (page / 2 ^ 22) != 2

/-- DT_PAGE_RETIRE (R284): page. -/
def execDtPageRetire (p : Packet) (s : State) : Host.Outcome State Fault Refusal :=
  runPacket 0x0603 p (fun a s =>
    let page := a.n 0
    let k := s.stack (page / 2 ^ 22)
    guarded s
      [ (a.bad || !s.pageOk page, .paramInvalid), (decide (65536 ≤ k.retired.length + k.pending.length), .retireLimit) ]
      (let s := s.retirePage page
       Res.ok { s with ks := { s.ks with
         retiredPages := if s.ks.retiredPages.contains page then s.ks.retiredPages else s.ks.retiredPages ++ [page] } } [])) s

/-- DT_PAGE_RELEASE (R284): a page held under R273 or R274 is freed without the owner check. -/
def execDtPageRelease (p : Packet) (s : State) : Host.Outcome State Fault Refusal :=
  runPacket 0x0604 p (fun a s =>
    let page := a.n 0
    guarded s [ (a.bad, .paramInvalid), (!(s.path.heldPages.any fun e => e.1 = page), .cellState) ]
      (Res.ok ((s.freePage page).inPath fun t => { t with heldPages := t.heldPages.filter fun e => e.1 != page }) [])) s

/-- DT_SCRUB_SET (R284): quadrant mask, SCRUB_EN, SCRUB_DIV. -/
def execDtScrubSet (p : Packet) (s : State) : Host.Outcome State Fault Refusal :=
  runPacket 0x0605 p (fun a s =>
    let qs := onesOf 4 (a.n 0)
    guarded s
      [ (qs.any (fun q => !s.hasQuad q), .resourceAbsent), (a.bad || decide (a.n 2 < 2) || decide (7 < a.n 2), .paramInvalid) ]
      (Res.ok (qs.foldl (fun s q => (s.setFld F.dtCtl_SCRUB_EN q (a.n 1)).setFld F.dtCtl_SCRUB_DIV q (a.n 2)) s) [])) s

/-- DT_STATUS_GET (R284): for one quadrant each stack's state, free and retired pages, then SHARED, the write-buffer occupancy and the
sums of RSV and PAGES. -/
def execDtStatusGet (p : Packet) (s : State) : Host.Outcome State Fault Refusal :=
  runPacket 0x0606 p (fun a s =>
    let q := a.n 0
    let one := fun h => [(Ty.u 2, s.stackState h), (.u 32, (s.stack h).free), (.u 32, (s.stack h).retired.length + (s.stack h).pending.length)]
    let pages := (s.deepQueues q).foldl (fun a qu => a + s.pagesOf qu) 0
    guarded s [(a.bad, .paramInvalid), (!s.hasQuad q, .resourceAbsent)]
      (Res.ok s (one (2 * q) ++ one (2 * q + 1)
        ++ [(.s 24, ofSigned 32 (s.sharedPages q)), (.u 32, s.wbuf q), (.u 32, s.sumRsv q), (.u 32, pages)]))) s

end Sys2Proof.Machine
end

