-- ==== Sys2Proof/Machine/Resets.lean ====
section
/-!
DEFINITION. Resets (R227, R259, R581 to R583, R600): what each clears, the release and the initialisation of the blocks, and
firmware's restoration from its shadows.
-/
namespace Sys2Proof.Machine
open Sys2Proof

/-! ### What a reset clears (R581) -/

/-- Whether a reset of quadrants, or of the core, clears a register instance. The windows that keep serving, and the tree, stay. -/
def Reg.cleared (quads : Nat) (core : Bool) (r : Reg) (i : Nat) : Bool :=
  match r.quadOf i with
  | some q => quads.testBit q
  | none => core && !r.desc.win.keepsServing && r.desc.win != .rl

/-- The same for a key of the register table. -/
def keyCleared (quads : Nat) (core : Bool) (k : Nat) : Bool :=
  match Reg.all[k % 512]? with
  | some r => r.cleared quads core (k / 512)
  | none => false

/-- Whether an array entry counts for a cleared unit (R480): a port, a quadrant's policer or a queue. -/
def entryCleared (quads idx : Nat) : Bool :=
  if idx < arrBase 1 then quads.testBit (Config.quadOf (idx / 128))
  else if idx < arrBase 2 then quads.testBit ((idx - arrBase 1) / (65536 * 6))
  else quads.testBit (Config.quadOf ((idx - arrBase 2) / 32))

/-- The counters of the cleared units. -/
def Counters.clear (c : Counters) (quads : Nat) (core : Bool) : Counters :=
  { c with
    live := c.live.filter fun e => !keyCleared quads core e.1
    sums := c.sums.filter fun e => !keyCleared quads core e.1
    arrLive := c.arrLive.filter fun e => !entryCleared quads e.1
    arrImg := c.arrImg.filter fun e => !entryCleared quads e.1
    sat := c.sat.filter fun e => !entryCleared quads e.1 }

/-- A table whose keys are a quadrant times `n` and more keeps the quadrants that are not cleared. -/
def keepQuads {V : Type} (quads n : Nat) (t : Table V) : Table V := t.filter fun e => !quads.testBit (e.1 / n)

/-- The tables of the cleared quadrants. -/
def Tables.clear (t : Tables) (quads : Nat) : Tables :=
  let gone := fun q => quads.testBit q
  { t with
    cls := keepQuads quads 32768 t.cls, pol := keepQuads quads 65536 t.pol, addr := keepQuads quads (2 ^ 20) t.addr
    vlan := keepQuads quads 4096 t.vlan, learnQ := t.learnQ.filter fun r => !gone r.quad
    reqSeen := t.reqSeen.filter fun e => !gone e.1, limitSeen := t.limitSeen.filter fun e => !gone e.1
    notices := keepQuads quads 1 t.notices, noticeLost := keepQuads quads 1 t.noticeLost, age := keepQuads quads 1 t.age
    rif := keepQuads quads 4096 t.rif, portRif := keepQuads quads 516 t.portRif, vidRif := keepQuads quads 4096 t.vidRif
    banks := keepQuads quads 256 t.banks, pfxOps := t.pfxOps.filter fun o => !gone o.quad
    nh := keepQuads quads 65536 t.nh, groups := keepQuads quads 4096 t.groups, members := keepQuads quads 65536 t.members
    ranges := t.ranges.filter fun r => !gone r.quad, repl := keepQuads quads 16384 t.repl
    lost := t.lost.filter fun e => !gone e.quad }

/-- The accumulators of the cleared quadrants. -/
def Sampling.clear (p : Sampling) (quads : Nat) : Sampling :=
  let quad := fun (t : Table QAcc) => t.filter fun e => !quads.testBit (Config.quadOf (e.1 / 16))
  { p with
    now := p.now.map fun t => t.filter fun e => !quads.testBit (Config.quadOf (e.1 / 16))
    liveN := keepQuads quads 1 p.liveN, live := quad p.live
    pendEpochs := keepQuads quads 1 p.pendEpochs, pendLast := keepQuads quads 1 p.pendLast, pend := quad p.pend }

/-- The data paths of the cleared quadrants: frames in reception, staging, cells, queues, hanks, schedulers, gate lists and lines. -/
def Path.clear (p : Path) (quads : Nat) : Path :=
  let goneP := fun port => quads.testBit (Config.quadOf port)
  let goneS := fun sl => quads.testBit (Config.quadOfSlice sl)
  let goneH := fun h => quads.testBit (h / 2)
  let shp := fun k => if k < 16384 then goneP (k / 16) else goneP (k - 16384)
  { p with
    frames := p.frames.filter fun f => !goneP f.port || f.stage == .fabric
    seqs := p.seqs.filter fun e => !goneP e.1
    staged := p.staged.filter fun c => !goneS c.ing && !goneS c.eg
    credit := p.credit.filter fun e => !goneS e.1
    writeQ := p.writeQ.filter fun w => !goneS w.1
    commits := p.commits.filter fun c => !goneP c.port
    desc := p.desc.filter fun e => !goneS (e.1 / 65536), data := p.data.filter fun e => !goneS (e.1 / 65536)
    pools := p.pools.filter fun e => !goneS e.1, walks := p.walks.filter fun w => !goneS w.slice
    reclaim := p.reclaim.filter fun e => !goneS e.1, fixes := p.fixes.filter fun e => !goneS e.1
    badCells := p.badCells.filter fun c => !goneS (c / 65536)
    copies := p.copies.filter fun c => !goneP c.port, cq := p.cq.filter fun e => !goneP (e.1 / 16)
    hanks := p.hanks.filter fun e => !(if e.1 < 16384 then goneP (e.1 / 16) else goneS ((e.1 - 16384) / 256))
    hbm := p.hbm.filter fun e => !goneH e.1, wbuf := keepQuads quads 1 p.wbuf, spillRsv := keepQuads quads 1 p.spillRsv
    heldPages := p.heldPages.filter fun e => !goneH (e.1 / 2 ^ 22), badPages := p.badPages.filter fun k => !goneH (k / 2 ^ 22)
    metaSeen := p.metaSeen.filter fun b => !goneH (b / 2 ^ 26)
    tx := p.tx.filter fun e => !goneP (e.1 / 2), frees := p.frees.filter fun e => !goneS e.slice
    sched := p.sched.filter fun e => !goneP e.1, shaper := p.shaper.filter fun e => !shp e.1
    oldRate := p.oldRate.filter fun e => !shp e.1, lines := p.lines.filter fun e => !goneP e.1
    gcl := p.gcl.filter fun e => !goneP e.1, flow := p.flow.filter fun e => !goneP e.1
    linkPar := p.linkPar.filter fun e => !goneP e.1, reserves := p.reserves.filter fun e => !goneP (e.1 / 8)
    hold := p.hold.filter fun e => !goneP e.1, linkSince := p.linkSince.filter fun e => !goneP e.1
    wakeAt := p.wakeAt.filter fun e => !goneP e.1, mirBuckets := keepQuads quads 8 p.mirBuckets }

/-- The lanes of the cleared quadrants; firmware's Cemond copy and its scans' results are its own. -/
def Lanes.clear (l : Lanes) (quads : Nat) : Lanes :=
  { l with lane := l.lane.filter fun e => !quads.testBit (e.1 / 128) }

/-- Copies outside the cleared quadrants whose source is lost: those staged for the cleared slices are dropped with PORT_DOWN
(R583), and those whose frame can no longer be completed end as after an error in reception (R214). -/
def State.severCopies (s : State) (quads : Nat) : State :=
  let goneP := fun port => quads.testBit (Config.quadOf port)
  let goneS := fun sl => quads.testBit (Config.quadOfSlice sl)
  let s := (s.path.staged.filter fun c => !goneS c.ing && goneS c.eg).foldl (fun s c =>
    c.dests.foldl (fun s d => s.drop d.1 0x45) s) s
  let s := (s.path.frames.filter fun f => goneP f.port && f.ended.isNone).foldl (fun s f =>
    if f.stage == .fabric then s.endBad f 0x2A else s) s
  (s.path.copies.filter fun c => !goneP c.port && !c.whole).foldl (fun s c =>
    match s.frame? c.fid with
    | some f => if goneP f.port then s.lateDrop c.fid c.port 0x2A else s
    | none => s) s

/-- Firmware's shadows of what a reset is about to clear, joined to those that still wait for their restoration. -/
def State.takeShadow (s : State) (quads : Nat) : State :=
  let old := s.shadow.getD {}
  let fresh := quads &&& (15 ^^^ (old.quads &&& 15))
  let mine := fun k => keyCleared fresh false k
  let sh : Shadow :=
      { quads := old.quads ||| quads
        regs := (s.regs.filter fun e => mine e.1).foldl (fun t e => Table.insert t e.1 e.2) old.regs
        tab := if fresh = 0 then old.tab else
          { s.tab with
            cls := old.tab.cls ++ keepQuads (15 ^^^ fresh) 32768 s.tab.cls
            pol := old.tab.pol ++ keepQuads (15 ^^^ fresh) 65536 s.tab.pol
            addr := old.tab.addr ++ keepQuads (15 ^^^ fresh) (2 ^ 20) s.tab.addr
            vlan := old.tab.vlan ++ keepQuads (15 ^^^ fresh) 4096 s.tab.vlan
            rif := old.tab.rif ++ keepQuads (15 ^^^ fresh) 4096 s.tab.rif
            portRif := old.tab.portRif ++ keepQuads (15 ^^^ fresh) 516 s.tab.portRif
            vidRif := old.tab.vidRif ++ keepQuads (15 ^^^ fresh) 4096 s.tab.vidRif
            banks := old.tab.banks ++ keepQuads (15 ^^^ fresh) 256 s.tab.banks
            nh := old.tab.nh ++ keepQuads (15 ^^^ fresh) 65536 s.tab.nh
            groups := old.tab.groups ++ keepQuads (15 ^^^ fresh) 4096 s.tab.groups
            members := old.tab.members ++ keepQuads (15 ^^^ fresh) 65536 s.tab.members
            ranges := old.tab.ranges ++ s.tab.ranges.filter fun r => fresh.testBit r.quad
            repl := old.tab.repl ++ keepQuads (15 ^^^ fresh) 16384 s.tab.repl }
        linkPar := old.linkPar ++ s.path.linkPar.filter fun e => fresh.testBit (Config.quadOf e.1)
        reserves := old.reserves ++ s.path.reserves.filter fun e => fresh.testBit (Config.quadOf (e.1 / 8))
        gcl := old.gcl ++ s.path.gcl.filter fun e => fresh.testBit (Config.quadOf e.1) }
  { s with shadow := some sh }

/-- The blocks of some quadrants are cleared. -/
def State.clearQuads (s : State) (quads : Nat) (core : Bool) : State :=
  let s := (s.takeShadow quads).severCopies quads
  { s with
    regs := s.regs.filter fun e => !keyCleared quads core e.1
    cnt := s.cnt.clear quads core
    tab := s.tab.clear quads
    path := s.path.clear quads
    samp := s.samp.clear quads
    lanes := s.lanes.clear quads }.settle

/-- The control complex is reset (R581, R596): its working memory is lost, with commands under way, unless a handover holds its
state (R598). Its next start has the given cause. -/
def State.ccReset (s : State) (cause : Nat) (handover : Bool) : State :=
  let s := ((s.setFld F.protBoot_RUNNING 0 0).setFld F.protBoot_RECOVERY 0 0).setFld F.protBoot_STAGE 0 0
  { s with
    boot := { s.boot with nextCause := cause, handover := handover, switchTo := none, switchAt := none }
    pkts := { s.pkts with taken := [], replies := [] }
    tab := { s.tab with jobs := [], scans := [], pfxOps := [], ring := if handover then s.tab.ring else {} }
    cnt := if handover then s.cnt else { s.cnt with totals := [] }
    lanes := if handover then s.lanes else { s.lanes with cemond := [], scans := [] }
    ks := { s.ks with sessions := s.ks.sessions.map fun x => { x with job := none } }
    tree := { s.tree with fans := [], reads := s.tree.reads.filter fun (x : RemoteRead) => x.job.isNone } }

/-- A core reset starts (R581): every quadrant, the host's rings and the control complex. -/
def State.coreReset (s : State) : State :=
  let s := (s.clearQuads 15 true).ccReset 1 false
  { s with
    path := { nextId := s.path.nextId, gclHeld := s.path.gclHeld }
    host := { s.host with rings := [], jobs := [], txLine := 0 }
    boot := { s.boot with reset := some { core := true, quads := 15, start := s.tick.slot, cause := 1 }, initFrom := [] } }

/-- A reset of some quadrants starts (R581, R583). -/
def State.quadReset (s : State) (quads : Nat) : State :=
  let old := match s.boot.reset with
    | some k => k.quads
    | none => 0
  let new := quads &&& (15 ^^^ old)
  let m := (List.range 4).foldl (fun m q => if new.testBit q && s.hasQuad q then m + 2 ^ q else m) 0
  if m = 0 then s
  else
    let s := s.clearQuads m false
    { s with boot := { s.boot with
        reset := some { quads := old ||| m, start := s.tick.slot }
        initFrom := s.boot.initFrom.filter fun e => !m.testBit e.1 } }

/-- Whether a core reset is running. -/
def State.inCore (s : State) : Bool :=
  match s.boot.reset with
  | some k => k.core
  | none => false

/-- A write of PROT_RST (R582): the bits of one write act together; the core reset includes the others, and a reset of the same
kind that runs already is not started again. -/
def State.requestReset (s : State) (v : Nat) : State :=
  if s.inCore then s
  else if v.testBit 8 then s.coreReset
  else
    let s := s.quadReset (v % 16)
    if v.testBit 4 then s.ccReset 2 false else s

/-- PROT_RST and PROT_DMA_REVOKE take writes of the control complex and of secure SIDs; another SID is refused (R582, R593). -/
def State.secureWrite (s : State) (who : Sender) (x : Nat) (k : State → State) : State :=
  match who with
  | .cc => k s
  | _ => s.access who x true fun s => if sidSecure (s.sid who) then k s else s.violation 1 (s.sid who) x true

/-- CORE_RESET (R581, R582). -/
def execCoreReset (who : Sender) (s : State) : Host.Outcome State Fault Refusal :=
  .next (s.secureWrite who (Reg.protRst.offset 0) fun s => s.requestReset 0x100)

/-- CONTROL_COMPLEX_RESET (R581, R582). -/
def execControlComplexReset (who : Sender) (s : State) : Host.Outcome State Fault Refusal :=
  .next (s.secureWrite who (Reg.protRst.offset 0) fun s => s.requestReset 0x10)

/-- QUADRANT_RESET (R581 to R583): the QUAD bits of one write. -/
def execQuadrantReset (who : Sender) (quads : Nat) (s : State) : Host.Outcome State Fault Refusal :=
  .next (s.secureWrite who (Reg.protRst.offset 0) fun s => s.requestReset (quads % 16))

/-- RESET_RELEASE (R581): 1,024 slots after a core or quadrant reset started, its blocks are released and initialise. A core reset
held by the supply (R612) or the temperature (R627) is not. -/
def execResetRelease (s : State) : Host.Outcome State Fault Refusal :=
  match s.boot.reset with
  | none => .next s
  | some k =>
    if s.tick.slot < k.start + 1024 || (k.core && (s.power.coreLost || s.power.trip)) then .next s
    else
      let qs := (onesOf 4 k.quads).filter s.hasQuad
      .next { s with boot := { s.boot with
        reset := none, initFrom := qs.foldl (fun t q => Table.insert t q s.tick.slot) s.boot.initFrom } }

/-! ### Initialisation (R227, R259) -/

/-- The slot from which a quadrant's blocks initialise: after a power-on, slot 0. -/
def State.initFrom (s : State) (q : Nat) : Nat := (OTable.get? s.boot.initFrom q).getD 0

/-- Whether the blocks of a quadrant are out of reset and initialise. -/
def State.initialising (s : State) (q : Nat) : Bool :=
  s.tick.locked && s.hasQuad q && (match s.boot.reset with
    | some k => !(k.core || k.quads.testBit q)
    | none => true)

/-- CB_INIT_DONE (R227): 4,096 slots after the reset the free list is loaded; the cells on record are retired again. -/
def execCbInitDone (sl : Nat) (s : State) : Host.Outcome State Fault Refusal :=
  let q := Config.quadOfSlice sl
  if !s.hasSlice sl || !s.initialising q || s.flag F.cbStat_INIT_DONE sl || decide (s.tick.slot < s.initFrom q + 4096) then .next s
  else
    let s := (s.onPool sl fun p => { p with free := 65536, next := 0, back := [] }).setFld F.cbStat_INIT_DONE sl 1
    .next ((s.ks.retiredCells.filter fun k => k / 65536 = sl).foldl (fun s k => s.retireCell sl (k % 65536)) s)

/-- DT_INIT_DONE (R259): the allocator of a quadrant has rebuilt its free lists; the pages and stacks on record are retired again. -/
def execDtInitDone (q : Nat) (s : State) : Host.Outcome State Fault Refusal :=
  if !s.initialising q || s.flag F.dtStat_INIT_DONE q then .next s
  else
    let s := [2 * q, 2 * q + 1].foldl (fun s h => s.onStack h fun k => { k with next := 0, back := [], used := 0 }) s
    let s := (s.ks.retiredPages.filter fun k => k / 2 ^ 23 = q).foldl (fun s k => s.retirePage k) s
    let s := (s.ks.retiredStacks.filter fun h => h / 2 = q).foldl (fun s h => s.setFld F.dtStkStat_STATE h 2) s
    .next (s.setFld F.dtStat_INIT_DONE q 1)

/-! ### Restoration (R583) -/

/-- The settings of the shadows go back: the bits that software writes of each register. -/
def State.restoreRegs (s : State) (sh : Shadow) : State :=
  sh.regs.foldl (fun s (e : Nat × Word) =>
    match Reg.all[e.1 % 512]? with
    | none => s
    | some r =>
      let i := e.1 / 512
      s.setReg r i ((s.reg r i &&& ~~~(word r.desc.rw)) ||| (e.2 &&& word r.desc.rw))) s

/-- The tables of the shadows go back; dynamic address entries are learned again. -/
def State.restoreTables (s : State) (sh : Shadow) : State :=
  let merge := fun {V : Type} (t u : Table V) => u.foldl (fun t (e : Nat × V) => Table.insert t e.1 e.2) t
  let t := s.tab
  let u := sh.tab
  { s with
    tab := { t with
      cls := merge t.cls u.cls, pol := merge t.pol u.pol, addr := merge t.addr (u.addr.filter fun e => e.2.static)
      vlan := merge t.vlan u.vlan, rif := merge t.rif u.rif, portRif := merge t.portRif u.portRif
      vidRif := merge t.vidRif u.vidRif, banks := merge t.banks u.banks, nh := merge t.nh u.nh
      groups := merge t.groups u.groups, members := merge t.members u.members
      ranges := t.ranges ++ u.ranges, repl := merge t.repl u.repl }
    path := { s.path with linkPar := merge s.path.linkPar sh.linkPar, reserves := merge s.path.reserves sh.reserves } }

/-- The operational gate list of a port goes back as a swap at the first cycle start two epochs ahead. -/
def State.restoreGates (s : State) (sh : Shadow) : State :=
  let val := fun (r : Reg) i => (Table.get (fun _ => r.resetAt i) sh.regs (regKey r i)).toNat
  let ports := sh.gcl.filter fun e => val .gclStat e.1 % 2 = 1
  ports.foldl (fun s (e : Nat × GclRun) =>
    let p := e.1
    let n := min 1024 (val .gclOperLen p)
    let cycle := max 1 (val .gclOperCycle p)
    let g : GclHeld :=
      { port := p, time := cycleAtOrAfter e.2.operBase cycle (s.netNs + 2 * 671088640 / 1000), base := e.2.operBase, cycle := cycle
        entries := (List.range n).map fun k => (val .gclOperDur (p * 1024 + k), val .gclOperGates (p * 1024 + k) % 256)
        maxwin := (List.range 8).map fun c => val .gclOperMaxwin (p * 8 + c) }
    { s with path := { s.path with gclHeld := s.path.gclHeld.filter (fun h => h.port != p) ++ [g] } }) s

/-- Whether a quadrant's blocks have all initialised. -/
def State.quadReady (s : State) (q : Nat) : Bool :=
  s.initialising q && s.flag F.dtStat_INIT_DONE q && (List.range 8).all fun k => s.flag F.cbStat_INIT_DONE (8 * q + k)

/-- FIRMWARE_RESTORATION (R583): once the cleared blocks have initialised, firmware restores them from its shadows and re-enables
the ports; the commands it held may then run. -/
def execFirmwareRestoration (s : State) : Host.Outcome State Fault Refusal :=
  match s.shadow with
  | none => .next s
  | some sh =>
    let qs := (onesOf 4 sh.quads).filter s.hasQuad
    if !s.flag F.protBoot_RUNNING 0 || s.boot.reset.isSome || !qs.all s.quadReady then .next s
    else
      let s := s.logEvent 0x4004 [byte sh.quads, 0]
      let s := ((s.restoreRegs sh).restoreTables sh).restoreGates sh
      let ports := (List.range 512).filter fun p =>
        sh.quads.testBit (Config.quadOf p) && s.flag F.macPortCfg_EN p && s.configured p && !s.hidden p
      let s := ports.foldl (fun s p => (s.enableLanes p).standbyCheck p) s
      .next ({ s with shadow := none }.logEvent 0x4004 [byte sh.quads, 1])

/-! ### The watchdog (R600) -/

/-- The watchdog's count begins again. -/
def State.kick (s : State) : State := { s with boot := { s.boot with kickEpoch := s.epoch } }

/-- WATCHDOG_KICK (R600): the control complex writes PROT_WDT.KICK. -/
def execWatchdogKick (who : Sender) (v : Word) (s : State) : Host.Outcome State Fault Refusal :=
  .next (s.ccWrite who (Reg.protWdt.offset 0) fun s => if v.toNat.testBit 0 then s.kick else s)

/-- WATCHDOG_EXPIRE (R600): 1,024 epochs without a kick reset the control complex with cause 3. During a start it does not count
(R599). -/
def execWatchdogExpire (s : State) : Host.Outcome State Fault Refusal :=
  if !s.flag F.protWdt_EN 0 || !s.fwRunning || s.inCore || decide (s.epoch < s.boot.kickEpoch + 1024) then .next s
  else .next ((s.raise F.protStat_WDT 0).ccReset 3 false)

end Sys2Proof.Machine
end

