-- ==== Sys2Proof/Machine/Images.lean ====
section
/-!
DEFINITION. The flash and its signed images (R584, R588, R589), the choice of images (R586), and the power-on reset (R581).
-/
namespace Sys2Proof.Machine
open Sys2Proof

/-! ### The flash (R584) -/

/-- A byte of the flash; erased flash reads 0xFF. -/
def State.flashByte (s : State) (x : Nat) : Byte := Table.get (fun _ => 0xFF) s.flash x

/-- `n` bytes of the flash from an offset. -/
def State.flashBytes (s : State) (x n : Nat) : List Byte := (List.range n).map fun k => s.flashByte (x + k)

/-- Bytes put into a flash. -/
def programFlash (f : Table Byte) (x : Nat) (bs : List Byte) : Table Byte :=
  bs.zipIdx.foldl (fun f (e : Byte × Nat) => Table.set (fun _ => 0xFF) f (x + e.2) e.1) f

/-- Whether a directory holds (R584). -/
def dirOk (d : List Byte) : Bool :=
  leAt d 0 4 == 0x44524947 && leAt d 4 2 == 1 && decide (1 ≤ leAt d 6 2) && decide (leAt d 6 2 ≤ 8) && leAt d 136 4 == crc32 (d.take 136)

/-- The directory: the first, or its copy. -/
def State.directory (s : State) : Option (List Byte) :=
  let a := s.flashBytes 0 140
  let b := s.flashBytes 0x10000 140
  if dirOk a then some a else if dirOk b then some b else none

/-- The place of a kind of entry: its offset and size. -/
def State.entryOf (s : State) (kind : Nat) : Option (Nat × Nat) :=
  match s.directory with
  | none => none
  | some d => ((List.range (leAt d 6 2)).find? fun k => leAt d (8 + 16 * k) 1 == kind).map fun k =>
      (leAt d (8 + 16 * k + 4) 4, leAt d (8 + 16 * k + 8) 4)

/-- SLOT values of R603: 0 FW_A, 1 FW_B, 2 BOOT_0, 3 BOOT_1; their directory kind, image TYPE and greatest size. -/
def slotKind (slot : Nat) : Nat := if slot < 2 then 3 + slot else slot - 1
def slotType (slot : Nat) : Nat := if slot < 2 then 2 else 1
def slotMax (slot : Nat) : Nat := if slot < 2 then 16 * 2 ^ 20 else 2 ^ 20

/-- What a slot can hold: the directory's size, within the greatest. -/
def State.slotSize (s : State) (slot : Nat) : Nat :=
  match s.entryOf (slotKind slot) with
  | some e => min e.2 (slotMax slot)
  | none => 0

/-- The image that a slot of the flash holds: its header and body. -/
def State.slotImage (s : State) (slot : Nat) : List Byte :=
  match s.entryOf (slotKind slot) with
  | none => []
  | some e =>
    let h := s.flashBytes e.1 8192
    h ++ s.flashBytes (e.1 + 8192) (min (leAt h 16 4) (s.slotSize slot))

/-! ### Images (R588, R589) -/

/-- Whether bytes are all zero. -/
def allZero (bs : List Byte) : Bool := bs.all fun b => b == 0

/-- The fused SVN minimum of a TYPE. -/
def State.svnMin (s : State) (typ : Nat) : Nat := if typ = 1 then s.fuses.svnMinBoot else s.fuses.svnMinFw

/-- The first check of R588 that an image for a slot fails, 1 to 4; 0 when it is valid. -/
def State.imageFault (s : State) (slot : Nat) (img : List Byte) : Nat :=
  let h := img.take 8192
  let len := leAt h 16 4
  let key := leAt h 7 1
  let pub := slice h 64 2592
  if leAt h 0 4 != 0x4D494742 || leAt h 4 2 != 1 || leAt h 6 1 != slotType slot || len % 16 != 0
      || decide (s.slotSize slot < 8192 + len) || decide (img.length < 8192 + len) || decide (4 ≤ leAt h 20 4)
      || !allZero (slice h 28 36) || !allZero (slice h 7283 909) then 1
  else if decide (3 < key) || s.fuses.revoked.testBit key || Config.sha3 pub != s.fuses.keyDigest.getD key 0 then 2
  else if leAt h 8 4 < s.svnMin (slotType slot) then 3
  else if !Config.mlDsaVerify pub (h.take 2656 ++ slice img 8192 len) (slice h 2656 4627) then 4
  else 0

/-- The fault of the image that a slot holds; 1 where the directory names no slot. -/
def State.slotFault (s : State) (slot : Nat) : Nat :=
  match s.entryOf (slotKind slot) with
  | none => 1
  | some _ => s.imageFault slot (s.slotImage slot)

/-- Whether a slot holds a valid image. -/
def State.slotValid (s : State) (slot : Nat) : Bool := s.slotFault slot == 0

/-- SVN, BUILD and protocol range of the image in a slot. -/
def State.slotSvn (s : State) (slot : Nat) : Nat := leAt (s.slotImage slot) 8 4
def State.slotBuild (s : State) (slot : Nat) : Nat := leAt (s.slotImage slot) 12 4
def State.slotProto (s : State) (slot : Nat) : Nat × Nat := (leAt (s.slotImage slot) 24 2, leAt (s.slotImage slot) 26 2)

/-- The fuses advance as an image's FLAGS say (R589): boot code when it starts, firmware when it is committed. -/
def State.advanceFuses (s : State) (slot : Nat) : State :=
  let h := s.slotImage slot
  let flags := leAt h 20 4
  let f := s.fuses
  let svn := min 64 (leAt h 8 4)
  let f := if !flags.testBit 0 then f
    else if slotType slot = 1 then { f with svnMinBoot := max f.svnMinBoot svn } else { f with svnMinFw := max f.svnMinFw svn }
  { s with fuses := if flags.testBit 1 then { f with revoked := f.revoked ||| (2 ^ min 4 (leAt h 7 1) - 1) } else f }

/-- The boot code that the ROM starts (R586): the higher SVN, BOOT_0 on a tie; at a power-on the slot that MODE 3 preferred. -/
def State.chooseBoot (s : State) : Option Nat :=
  let v0 := s.slotValid 2
  let v1 := s.slotValid 3
  let pref := if s.boot.nextCause = 0 then s.ks.bootRec.bind fun r => r.bootPref else none
  match pref with
  | some k => if s.slotValid k then some k else if v0 then some 2 else if v1 then some 3 else none
  | none => if v0 && (!v1 || decide (s.slotSvn 3 ≤ s.slotSvn 2)) then some 2 else if v1 then some 3 else none

/-- The valid firmware slot with the higher SVN, A on a tie. -/
def State.bestFirmware (s : State) : Option Nat :=
  let v0 := s.slotValid 0
  let v1 := s.slotValid 1
  if v0 && (!v1 || decide (s.slotSvn 1 ≤ s.slotSvn 0)) then some 0 else if v1 then some 1 else none

/-! ### Power-on (R581) -/

/-- A power-on reset: everything returns to its reset state but the fuses, the flash, the keep store and the number of the next log
record. A save that was running leaves its slot invalid (R623). -/
def State.powerOn (s : State) (straps : Nat) (flash : Table Byte) : State :=
  let saves := match s.ks.save with
    | some (k, _) => Table.erase s.ks.saves k
    | none => s.ks.saves
  { State.reset with
    fuses := s.fuses, flash := flash
    ks := { bootRec := s.ks.bootRec, retiredCells := s.ks.retiredCells, retiredPages := s.ks.retiredPages
            retiredStacks := s.ks.retiredStacks, saves := saves, hostArea := s.ks.hostArea, spares := s.ks.spares
            failed := s.ks.failed }
    log := { stored := s.log.stored, nextSeq := s.log.nextSeq, gap := !s.log.tail.isEmpty, cfgStored := s.log.cfgStored
             cfgGap := !s.log.cfgTail.isEmpty }
    power := { straps := straps % 4 }
    out := s.out, free := s.free, pending := s.pending }

/-- POWER_ON_RESET (R581, R644): PORST_N low, or VAO below its power-on threshold. `straps` are PCIE_DIS and TEST_MODE as sampled at
the end of the reset; `flash` is what the board's flash was programmed with while the device was off (R587), by offset. -/
def execPowerOnReset (straps : Nat) (flash : List (Nat × List Byte)) (s : State) : Host.Outcome State Fault Refusal :=
  .next (s.powerOn straps (flash.foldl (fun f (e : Nat × List Byte) => programFlash f e.1 e.2) s.flash))

end Sys2Proof.Machine
end

