-- ==== Sys2Proof/Machine/KeepStore.lean ====
section
/-!
DEFINITION. Power, hold-up and the keep store (chapter 23): sags and the emergency save, the capacitor and its energy, write sessions,
the areas of the keep store, and temperature.
-/
namespace Sys2Proof.Machine
open Sys2Proof

/-! ### Energy and sessions (R617, R618) -/

/-- Twice E_avail in 10^-12 J (R617): C in µF times (V² − 16), with V in mV. -/
def State.energy2 (s : State) : Nat :=
  let mv := s.fld F.pwrHoldV_MV 0
  s.fld F.pwrCap_C 0 * (mv * mv - 16000000)

/-- E_avail in µJ. -/
def State.energyUj (s : State) : Nat := s.energy2 / 2000000

/-- Whether the energy covers a session of some bytes and the save reserve of 40 mJ (R617). -/
def State.energyFor (s : State) (bytes : Nat) : Bool := decide (2000000 * (41000 + 24 * cdiv bytes 1024) ≤ s.energy2)

/-- Whether write sessions are refused with KS_FAULT (R602, R616). -/
def State.ksFaulted (s : State) : Bool := s.fld F.pwrStat_CAP_STATE 0 != 1 || s.ks.failed

/-- A write session opens (R618). -/
def State.openSession (s : State) (x : Session) : State :=
  { s with ks := { s.ks with sessions := s.ks.sessions ++ [x] } }.setFld F.ksStat_SESSION 0 1

/-- A command opens its session and is answered when it ends; refused, it is HOLDUP_LOW and counted (R617). -/
def State.sessionCommand (s : State) (op : Nat) (p : Packet) (bytes : Nat) (d : SessionData) : Res :=
  if s.energyFor bytes then
    let r := Res.job s op p 1
    { r with state := r.state.openSession { data := d, job := some (p.chan, p.tag) } }
  else Res.discard (s.count .ksRefuseCnt 0 1) .holdupLow

/-- Firmware's own session: refused, it is reported in the log. -/
def State.ownSession (s : State) (bytes : Nat) (d : SessionData) : State :=
  if s.ksFaulted then s
  else if s.energyFor bytes then s.openSession { data := d }
  else (s.count .ksRefuseCnt 0 1).logEvent 0x4008 (leBytes 4 (s.fld F.pwrStat_CAP_STATE 0) ++ leBytes 4 s.energyUj)

/-- The log records of area 4 (R620): the newest 262,144. -/
def EventLog.keepNewest (l : List LogRec) : List LogRec := l.drop (l.length - 262144)

/-- What a session's data does once written. -/
def State.storeSession (s : State) (d : SessionData) : State :=
  match d with
  | .host off bs =>
    let area := bs.zipIdx.foldl (fun t (e : Byte × Nat) => Table.set (fun _ => 0) t (off + e.2) e.1) s.ks.hostArea
    { s with ks := { s.ks with hostArea := area } }
  | .bootRecord r sw commit =>
    let s := { s with ks := { s.ks with bootRec := some r }
                      boot := { s.boot with switchTo := if sw.isSome then sw else s.boot.switchTo } }
    let s := s.setFld F.protBoot_TRIAL 0 (b2n r.trial)
    match commit with
    | some slot => s.advanceFuses slot
    | none => s
  | .logs upTo n =>
    let l := s.log
    { s with log := { l with
        stored := EventLog.keepNewest (l.stored ++ l.tail.filter fun r => r.seq < upTo)
        tail := l.tail.filter fun r => !(decide (r.seq < upTo))
        cfgStored := l.cfgStored ++ l.cfgTail.take n, cfgTail := l.cfgTail.drop n } }

/-- KS_SESSION_COMPLETE (R618, R620): the first open session has been written and read back; `worn` pages failed their read-back and
are replaced by spare pages. With too few left the session fails with WR_ERR. The command that opened it is answered. -/
def execKsSessionComplete (worn : Nat) (s : State) : Host.Outcome State Fault Refusal :=
  match s.ks.sessions with
  | [] => .next s
  | x :: t =>
    let ok := decide (worn ≤ s.ks.spares)
    let s := { s with ks := { s.ks with sessions := t, spares := s.ks.spares - worn, failed := s.ks.failed || !ok } }
    let s := s.setFld F.ksStat_SESSION 0 (b2n !t.isEmpty)
    let s := if ok then (s.storeSession x.data).count .ksSessionCnt 0 1 else s.raise F.ksStat_WR_ERR 0
    match x.job with
    | none => .next s
    | some (chan, tag) => .next (s.stepJob chan tag (fun j => { j with left := 0 }) fun _ _ => (if ok then .ok else .ksFault, []))

/-! ### The emergency save (R621 to R623) -/

/-- The valid save with the higher SEQ, and its slot (R624). -/
def KeepStore.newest (k : KeepStore) : Option (Nat × SaveImage) :=
  k.saves.foldl (fun (b : Option (Nat × SaveImage)) e => match b with
    | none => some e
    | some x => if x.2.seq < e.2.seq then some e else b) none

/-- The image as firmware keeps it (R621): the log and journal tails, the nonzero DROP totals, and the time state it supplies. -/
def State.freshImage (s : State) : SaveImage :=
  let drops := s.cnt.totals.filter fun e => decide (e.1 < arrBase 1) && e.2 != 0
  { seq := 0, len := 0x74000 + 12 * min 4096 drops.length, slot := 0, whorl := 0, parity := false, capState := 0, time := s.time
    tail := s.log.tail, cfgTail := s.log.cfgTail, drops := drops.take 4096, omitted := drops.length - 4096
    dropSeq := s.cnt.totalsSeq }

/-- What the save engine captures at the sag slot: the header, and the time state that hardware holds. -/
def State.captureSave (s : State) : SaveImage :=
  let img := s.ks.image.getD { s.freshImage with tail := [], cfgTail := [], drops := [], omitted := 0, len := 0x74000, time := {} }
  let next := match s.ks.newest with
    | some e => e.2.seq + 1
    | none => 0
  { img with seq := next, slot := s.tick.slot, whorl := s.whorlNs, parity := s.time.parity
             capState := s.fld F.pwrStat_CAP_STATE 0, time := { s.time with servo := img.time.servo } }

/-- The save starts, into the slot other than the newest valid one; one that runs goes on to its end (R622, R623). -/
def State.startSave (s : State) : State :=
  if s.ks.save.isSome then s
  else
    let slot := match s.ks.newest with
      | some e => 1 - e.1
      | none => 0
    { s with ks := { s.ks with save := some (slot, s.captureSave), saves := Table.erase s.ks.saves slot } }.setFld
      F.ksStat_SAVE_BUSY 0 1

/-- SAVE_IMAGE_UPDATE (R620, R621): firmware refreshes the save buffer, and writes the tails of the log and the journal to their areas
when a session may open. -/
def execSaveImageUpdate (s : State) : Host.Outcome State Fault Refusal :=
  if !s.flag F.protBoot_RUNNING 0 then .next s
  else
    let s := { s with ks := { s.ks with image := some s.freshImage } }
    if (s.log.tail.isEmpty && s.log.cfgTail.isEmpty) || !s.ks.sessions.isEmpty then .next s
    else .next (s.ownSession (min (2 ^ 20) (64 * s.log.tail.length + 4096)) (.logs s.log.nextSeq s.log.cfgTail.length))

/-- SAVE_COMPLETE (R622, R623): the save ends, after any open session; with its header written its slot is valid. -/
def execSaveComplete (ok : Bool) (s : State) : Host.Outcome State Fault Refusal :=
  match s.ks.save with
  | none => .next s
  | some (slot, img) =>
    if !s.ks.sessions.isEmpty then .next s
    else
      let s := s.setFld F.ksStat_SAVE_BUSY 0 0
      if ok then
        let s := { s with ks := { s.ks with save := none, saves := Table.insert s.ks.saves slot img } }
        let s := (s.setReg .ksSaveSeq 0 (word img.seq)).setReg .ksSaveLen 0 (word (slot * 2 ^ 31 + img.len % 2 ^ 20))
        .next (s.raise F.ksStat_SAVE_DONE 0)
      else .next ({ s with ks := { s.ks with save := none } }.raise F.ksStat_SAVE_FAIL 0)

/-! ### Sags and supplies (R609 to R613, R645, R654) -/

/-- SAG_BEGIN (R610, R654): `source` is 1 VAO, 2 PWRSAG_N, 3 both. Before VHOLD has first reached 4.0 V a fall of PWRSAG_N is only
recorded. A sag while the island is on VHOLD starts nothing new. -/
def execSagBegin (source : Nat) (s : State) : Host.Outcome State Fault Refusal :=
  let src := source % 4
  if src = 0 then .next s
  else if !s.power.charged then .next (if 2 ≤ src then s.setReg .pwrSagInfo 0 2 else s)
  else if s.flag F.pwrStat_ON_HOLD 0 then .next s
  else
    let s := ((s.raise F.pwrStat_SAG 0).setFld F.pwrStat_ON_HOLD 0 1).setReg .pwrSagInfo 0 (word src)
    .next (s.count .pwrSagCnt 0 1).startSave

/-- SAG_END (R613): the island returns to VAO; firmware logs the sag and its save. -/
def execSagEnd (s : State) : Host.Outcome State Fault Refusal :=
  if !s.flag F.pwrStat_ON_HOLD 0 then .next s
  else
    let s := (s.setFld F.pwrStat_ON_HOLD 0 0).raise F.pwrStat_SAG_END 0
    if !s.fwRunning then .next s
    else
      let seq := match s.ks.newest with
        | some e => e.2.seq
        | none => 0
      .next (s.logEvent 0x4006 ([byte (s.fld F.pwrSagInfo_SOURCE 0), byte (s.fld F.ksSaveLen_SLOT 0), 0, 0] ++ leBytes 4 0
        ++ leBytes 8 seq ++ leBytes 4 ((s.reg .ksStat 0).toNat % 8)))

/-- CORE_SUPPLY_LOSS (R612, R645): the rails of mask `rails` fail. While the island is held every unit outside it stops, and waits for
the core reset; otherwise the loss ends in a power-on reset. -/
def execCoreSupplyLoss (rails : Nat) (s : State) : Host.Outcome State Fault Refusal :=
  if s.power.coreLost then .next s
  else if !s.flag F.pwrStat_ON_HOLD 0 then .next (s.powerOn s.power.straps s.flash)
  else
    let s := (s.raise F.pwrStat_CORE_LOSS 0).setReg .pwrRail 0
      (word (s.fld F.pwrRail_GOOD 0 &&& (31 ^^^ (rails % 8))))
    let s := s.coreReset
    .next { s with power := { s.power with coreLost := true }
                   host := { s.host with bme := false, msixOn := false, fnMask := false, vecMask := 2 ^ 64 - 1, vecPend := 0 } }

/-- CORE_SUPPLY_RESTORED (R612): the core rails have been good for 1 ms; the core reset runs, with start cause 1. -/
def execCoreSupplyRestored (s : State) : Host.Outcome State Fault Refusal :=
  if !s.power.coreLost then .next s
  else
    let s := s.setReg .pwrRail 0 (word (s.fld F.pwrRail_GOOD 0 ||| 15))
    .next { s with
      power := { s.power with coreLost := false }
      boot := { s.boot with reset := some { core := true, quads := 15, start := s.tick.slot, cause := 1 } } }

/-- VHOLD_EXHAUSTED (R609): VHOLD falls below 4.0 V while the island is on it: a power-on reset. -/
def execVholdExhausted (s : State) : Host.Outcome State Fault Refusal :=
  if s.flag F.pwrStat_ON_HOLD 0 then .next (s.powerOn s.power.straps s.flash) else .next s

/-- VDD_UNDERVOLTAGE (R609). -/
def execVddUndervoltage (s : State) : Host.Outcome State Fault Refusal := .next (s.raise F.pwrStat_VDD_UV 0)

/-- VHOLD_FIRST_CHARGE (R654): VHOLD first reaches 4.0 V; R610 applies from here. -/
def execVholdFirstCharge (s : State) : Host.Outcome State Fault Refusal :=
  .next { s with power := { s.power with charged := true } }

/-! ### The capacitor (R614 to R616, R619) -/

/-- VHOLD as measured, in mV, and CHARGED (R631). -/
def State.setHoldV (s : State) (mv : Nat) : State :=
  (s.setReg .pwrHoldV 0 (word (min mv 16383))).setFld F.pwrStat_CHARGED 0 (b2n (decide (10500 ≤ mv)))

/-- CAP_STATE takes a value; leaving OK, or any other outcome of the test, sets CAP_FAULT, and firmware logs it. -/
def State.setCap (s : State) (n : Nat) : State :=
  let s := s.setFld F.pwrStat_CAP_STATE 0 n
  let s := if n = 1 then s else s.raise F.pwrStat_CAP_FAULT 0
  if s.fwRunning && n != 1 then s.logEvent 0x4008 (leBytes 4 n ++ leBytes 4 s.energyUj) else s

/-- CAP_TEST_COMPLETE (R615): `low` says that VHOLD stayed below 1.0 V, `rise` is the time from 2.0 V to 10.0 V in µs, `esr` in
0.1 mΩ. At 50 mA a rise of 160 µs is 1 µF. -/
def execCapTestComplete (low : Bool) (rise esr : Nat) (s : State) : Host.Outcome State Fault Refusal :=
  if s.fld F.pwrStat_CAP_STATE 0 ≠ 0 then .next s
  else
    let n := if low then 3 else if rise < 80000 then 2 else if rise < 2200 * 160 then 4 else if 500 < esr then 5 else 1
    let s := s.setReg .pwrCap 0 (word (min esr 65535 * 2 ^ 16 + min (rise / 160) 65535))
    .next ((if n = 1 ∨ n = 5 ∨ n = 4 then s.setHoldV 11000 else s).setCap n)

/-- CAP_RUNTIME_CHECK (R616): VHOLD is measured. Below 10.0 V for a full epoch with the charger on, off VHOLD, it is a short. -/
def execCapRuntimeCheck (mv : Nat) (s : State) : Host.Outcome State Fault Refusal :=
  let s := s.setHoldV mv
  let low := decide (mv < 10000) && s.flag F.pwrCtl_CHG_EN 0 && !s.flag F.pwrStat_ON_HOLD 0
  let since := if low then some (s.power.lowSince.getD s.tick.slot) else none
  let s := { s with power := { s.power with lowSince := since } }
  match since with
  | none => .next s
  | some t =>
    if s.fld F.pwrStat_CAP_STATE 0 = 1 && decide (t + Config.epochSlots ≤ s.tick.slot) then .next (s.setCap 3) else .next s

/-- CAP_OVERVOLTAGE (R616): VHOLD exceeds 12.0 V; the charger turns off. A fault that stands goes on. -/
def execCapOvervoltage (mv : Nat) (s : State) : Host.Outcome State Fault Refusal :=
  if mv ≤ 12000 then .next s
  else
    let s := (s.setHoldV mv).setFld F.pwrCtl_CHG_EN 0 0
    .next (if s.fld F.pwrStat_CAP_STATE 0 ≤ 1 then s.setCap 6 else s)

/-- HOLDUP_ENERGY_CHECK (R47, R619): at offset 786,432, with VHOLD at `mv`, firmware recomputes E_avail. -/
def execHoldupEnergyCheck (mv : Nat) (s : State) : Host.Outcome State Fault Refusal :=
  if !s.flag F.protBoot_RUNNING 0 || s.epochOffset != 786432 then .next s
  else
    let s := s.setHoldV mv
    if s.energy2 < 2000000 * 40000 then
      .next ((s.setFld F.ksStat_SAVE_RISK 0 1).logEvent 0x4008 (leBytes 4 (s.fld F.pwrStat_CAP_STATE 0) ++ leBytes 4 s.energyUj))
    else .next (s.setFld F.ksStat_SAVE_RISK 0 0)

/-! ### Temperature (R627) -/

/-- Whether a sensor exists: the die's 16, the control complex's, the island's, and the present stacks'. -/
def State.hasSensor (s : State) (t : Nat) : Bool := decide (t < 18) || (decide (24 ≤ t) && s.hasStack (t - 24))

/-- The thresholds of levels 1 to 3, in 1/8 °C. -/
def State.levelAt (s : State) (k : Nat) : Int :=
  8 * (match k with
    | 1 => (max 60 (min 104 (s.fld F.thmCtl_WARN_C 0)) : Nat)
    | 2 => 105
    | _ => 115)

/-- The readings enter the sensor registers: one out of range is ignored, with SENSOR_FAIL. -/
def State.takeTemps (s : State) (ts : List Int) : State :=
  ts.zipIdx.foldl (fun s (e : Int × Nat) =>
    if !s.hasSensor e.2 then s
    else if e.1 < -320 ∨ 1200 < e.1 then (s.setReg .thmTemp e.2 0).raise F.thmStat_SENSOR_FAIL 0
    else s.setReg .thmTemp e.2 (word (2 ^ 31 + ofSigned 12 e.1))) s

/-- Tj: the highest valid die reading. -/
def State.dieMax (s : State) : Option Int :=
  ((List.range 16).filter fun t => s.flag F.thmTemp_VALID t).foldl (fun (m : Option Int) t =>
    let v := toSigned 12 (s.fld F.thmTemp_TEMP t)
    match m with
    | none => some v
    | some x => some (max x v)) none

/-- The runs of samples of a level, and the level after one sample. -/
def State.levelStep (s : State) (tj : Int) (k : Nat) : State :=
  let th := s.levelAt k
  let up := if th ≤ tj then min 16 (Table.get (fun _ => 0) s.power.upRun k + 1) else 0
  let down := if tj + 40 ≤ th then min 16 (Table.get (fun _ => 0) s.power.downRun k + 1) else 0
  let s := { s with power := { s.power with
    upRun := Table.set (fun _ => 0) s.power.upRun k up, downRun := Table.set (fun _ => 0) s.power.downRun k down } }
  let level := s.fld F.thmStat_LEVEL 0
  if up = 16 && level == k - 1 then
    let s := (s.setFld F.thmStat_LEVEL 0 k).raise (match k with
      | 1 => F.thmStat_WARN
      | 2 => F.thmStat_HOT
      | _ => F.thmStat_CRIT) 0
    let s := if s.fwRunning then s.logEvent 0x4008 (leBytes 4 k ++ leBytes 4 (ofSigned 32 tj)) else s
    if k = 3 then
      let s := if s.inCore then s else s.coreReset
      { s with power := { s.power with trip := true } }.emit (.pin 3 0 false)
    else s
  else if down = 16 && level == k then
    let s := s.setFld F.thmStat_LEVEL 0 (k - 1)
    if s.fwRunning then s.logEvent 0x4008 (leBytes 4 (k - 1) ++ leBytes 4 (ofSigned 32 tj)) else s
  else s

/-- The least junction temperature of the grade (R13): 0 °C commercial, −20 °C extended. -/
def State.gradeMin (s : State) : Int := if s.fuses.grade = 0 then 0 else -160

/-- THERMAL_SAMPLE (R627): every 1,024 slots the sensors are read, in 1/8 °C by number. The core reset of CRIT is held until the level
has been left and Tj is below 95 °C. -/
def execThermalSample (temps : List Int) (s : State) : Host.Outcome State Fault Refusal :=
  if s.tick.slot % 1024 ≠ 0 then .next s
  else
    let s := s.takeTemps temps
    match s.dieMax with
    | none => .next s
    | some tj =>
      let s := if toSigned 12 (s.fld F.thmMax_TJ 0) < tj || s.tick.slot < 1024 then s.setReg .thmMax 0 (word (ofSigned 12 tj)) else s
      let s := [3, 2, 1].foldl (fun s k => if k ≤ s.fld F.thmStat_LEVEL 0 then s.levelStep tj k else s) s
      let s := [1, 2, 3].foldl (fun s k => if s.fld F.thmStat_LEVEL 0 < k then s.levelStep tj k else s) s
      let s := if s.power.trip && decide (s.fld F.thmStat_LEVEL 0 < 3) && decide (tj < 760)
        then { s with power := { s.power with trip := false } }.emit (.pin 3 0 true) else s
      if decide (tj < s.gradeMin) && !s.power.belowGrade && s.fwRunning then
        .next ({ s with power := { s.power with belowGrade := true } }.logEvent 0x4008
          (leBytes 4 (s.fld F.thmStat_LEVEL 0) ++ leBytes 4 (ofSigned 32 tj)))
      else .next s

/-! ### Commands (R628 to R630) -/

/-- KS_WRITE (R628): OFFSET in the host area, and the buffer. -/
def execKsWrite (p : Packet) (s : State) : Host.Outcome State Fault Refusal :=
  runPacket 0x0D00 p (fun a s =>
    let off := a.n 0
    let len := dmaLen (a.n 1)
    guarded s ([ (a.bad || off % 4096 != 0 || len % 4096 != 0 || decide (2 ^ 20 < len), .paramInvalid),
        (decide (2 ^ 22 < off + len), .indexRange) ] ++ dmaChecks s p (a.n 1) false 0 ++ [(s.ksFaulted, .ksFault)])
      (if p.dmaFault then Res.discard s .dmaFault
       else s.sessionCommand 0x0D00 p len (.host off (slice p.dma 0 len)))) s

/-- The sizes of areas 1 to 5 (R620). -/
def areaSize : Nat → Nat
  | 1 => 2 ^ 19 | 2 => 2 ^ 19 | 3 => 2 ^ 23 | 4 => 2 ^ 24 | 5 => 2 ^ 22 | _ => 0

/-- Byte `x` of a save slot (R621), where its place is given: MAGIC and SEQ, the log tail and the DROP totals. -/
def SaveImage.byteAt (i : SaveImage) (x : Nat) : Option Byte :=
  if x < 4 then (leBytes 4 0x45564153)[x]?
  else if x < 12 then (leBytes 8 i.seq)[x - 4]?
  else if 0x1000 ≤ x && x < 0x41000 then
    match i.tail[(x - 0x1000) / 64]? with
    | some r => r.bytes[x % 64]?
    | none => none
  else if 0x74000 ≤ x then
    match i.drops[(x - 0x74000) / 12]? with
    | some e => (leBytes 4 e.1 ++ leBytes 8 e.2)[(x - 0x74000) % 12]?
    | none => none
  else none

/-- Byte `x` of an area. Where the spec gives no content or place, the byte is free. -/
def State.areaByte (s : State) (area x : Nat) : Byte :=
  let known := match area with
    | 1 => (OTable.get? s.ks.saves 0).bind fun i => i.byteAt x
    | 2 => (OTable.get? s.ks.saves 1).bind fun i => i.byteAt x
    | 4 => (s.log.stored.find? fun (r : LogRec) => r.seq % 262144 == x / 64).bind fun (r : LogRec) => r.bytes[x % 64]?
    | 5 => some (Table.get (fun _ => 0) s.ks.hostArea x)
    | _ => none
  known.getD (Config.freeByte s.free x)

/-- KS_READ (R629). -/
def execKsRead (p : Packet) (s : State) : Host.Outcome State Fault Refusal :=
  runPacket 0x0D01 p (fun a s =>
    let area := a.n 0
    let len := dmaLen (a.n 2)
    guarded s ([ (a.bad || area == 0 || decide (5 < area) || a.n 1 % 64 != 0 || len % 64 != 0, .paramInvalid),
        (decide (areaSize area < a.n 1 + len), .indexRange) ] ++ dmaChecks s p (a.n 2) true 0)
      (dmaWrite s p (a.n 2) ((List.range len).map fun k => s.areaByte area (a.n 1 + k)) fun s => Res.ok s.draw [])) s

/-- The largest session now allowed, in KiB (R617). -/
def State.largestSession (s : State) : Nat := min 1024 ((s.energyUj - 41000) / 24)

/-- HOLDUP_STATUS_GET (R630): VHOLD, C, ESR, CAP_STATE, the charger, E_avail and the reserve in µJ, the largest session, SAVE_RISK,
PWR_SAG_CNT, and the newest valid save: present, slot, SEQ, LEN, outcome, slot count and whorl at the sag. -/
def execHoldupStatusGet (p : Packet) (s : State) : Host.Outcome State Fault Refusal :=
  runPacket 0x0D02 p (fun _ s =>
    let save := match s.ks.newest with
      | some e => [(Ty.flag, 1), (.u 8, e.1), (.u 64, e.2.seq), (.u 32, e.2.len), (.u 8, 1), (.u 64, e.2.slot), (.u 32, e.2.whorl)]
      | none => [(Ty.flag, 0), (.u 8, 0), (.u 64, 0), (.u 32, 0), (.u 8, 0), (.u 64, 0), (.u 32, 0)]
    Res.ok s ([ (.u 14, s.fld F.pwrHoldV_MV 0), (.u 16, s.fld F.pwrCap_C 0), (.u 16, s.fld F.pwrCap_ESR 0),
      (.u 3, s.fld F.pwrStat_CAP_STATE 0), (.flag, s.fld F.pwrCtl_CHG_EN 0), (.u 32, s.energyUj), (.u 32, 40000),
      (.u 32, if s.ksFaulted then 0 else s.largestSession), (.flag, s.fld F.ksStat_SAVE_RISK 0),
      (.u 32, (s.reg .pwrSagCnt 0).toNat) ] ++ save)) s

/-- THM_GET (R630): every sensor, Tj, the level, THM_MAX and WARN_C. -/
def execThmGet (p : Packet) (s : State) : Host.Outcome State Fault Refusal :=
  runPacket 0x0D03 p (fun _ s =>
    Res.ok s (((List.range 32).map fun t => (Ty.u 32, (s.reg .thmTemp t).toNat))
      ++ [(.u 12, ofSigned 12 (s.dieMax.getD 0)), (.u 2, s.fld F.thmStat_LEVEL 0), (.u 12, s.fld F.thmMax_TJ 0), (.u 8, s.fld F.thmCtl_WARN_C 0)])) s

end Sys2Proof.Machine
end

