-- ==== Sys2Proof/Machine/RegAccess.lean ====
section
/-!
DEFINITION. Reads and writes of the register space (R531 to R547): what each register shows, what a read and a write of any offset
do, the alias image, and the interrupt lines.
-/
namespace Sys2Proof.Machine
open Sys2Proof

/-! ### What a register shows -/

/-- The bits of a number that a predicate sets below `n`. -/
def bitsWhere (n : Nat) (p : Nat → Bool) : Nat := (List.range n).foldl (fun m k => if p k then m + 2 ^ k else m) 0

/-- GLB_ID, GLB_QPRESENT and GLB_SPRESENT (R38). -/
def State.glbId (s : State) : Nat := 0x2048 * 2 ^ 16 + s.fuses.step % 16 * 2 ^ 8 + s.fuses.grade % 2 * 4 + s.fuses.code.num
def State.glbQpresent (s : State) : Nat :=
  bitsWhere 8 (fun h => s.hasStack h && s.stackState h != 2) * 2 ^ 12 + bitsWhere 8 s.hasStack * 16 + bitsWhere 4 s.hasQuad

/-- CB_RECLAIM (R244). -/
def State.cbReclaimView (s : State) (sl : Nat) : Nat :=
  let r := Table.get (fun _ => {}) s.path.reclaim sl
  b2n r.active.isSome * 2 ^ 31 + r.waiting.length % 32 * 2 ^ 24 + r.swn % 16 * 2 ^ 16 + (r.active.getD r.last) % 2 ^ 14

/-- TB_AGE_STAT (R142): each step of a sweep is one event, so BUCKET stands at its beginning. -/
def State.ageView (s : State) (q : Nat) : Nat :=
  let a := s.ageOf q
  b2n a.active * 2 ^ 31 + b2n a.pending * 2 ^ 30 + a.step % 4 * 2 ^ 16

/-- FWD_PFX_BUSY: the bank of the prefix operation that is next or running. -/
def State.pfxBusyView (s : State) (q : Nat) : Nat :=
  match s.tab.pfxOps.find? fun o => o.quad = q with
  | some o => 2 ^ 31 + o.bank
  | none => 0

/-- A base register's word: 0 ns, 1 and 2 the seconds. -/
def NetBase.word (b : NetBase) (k : Nat) : Word :=
  match k with
  | 0 => Sys2Proof.word b.ns
  | 1 => Sys2Proof.word (b.sec % 2 ^ 32)
  | _ => Sys2Proof.word (b.sec / 2 ^ 32 % 2 ^ 16)

/-- The credit of a shaper in whole bytes (R338). -/
def State.creditView (s : State) (key : Nat) : Word := word (ofSigned 25 (s.credit key / 65536))

/-- What instance `i` of a register shows at the start of the slot, where that is no held value (R38, R66, R84, R112, R161, R195, R220,
R255, R285, R308, R338, R368, R418, R547). The interrupt lines are apart. -/
def State.view (s : State) (r : Reg) (i : Nat) : Word :=
  let nh := fun (n : Nat) => word n
  match r with
  | .glbId => nh s.glbId
  | .glbQpresent => nh s.glbQpresent
  | .glbSpresent => nh (bitsWhere 32 s.hasSlice)
  | .tickEpoch => nh s.epoch
  | .tickSchArmed => nh (bitsWhere 32 fun e => s.flag F.tickSchAct_ARM e)
  | .macMode => F.macMode_DEEP.put (s.reg .macMode i) (b2n (s.flag F.qmQmode_DEEP i))
  | .prsHdrbuf => nh (s.waitingHeaders i)
  | .clsValid => nh ((s.tab.cls.filter fun (e : Nat × ClsEnt) => e.1 / 32768 == i && e.2.valid).length)
  | .tbOcc => nh (s.addrOf i).length
  | .tbOccStatic => nh ((s.addrOf i).filter fun e => e.2.static).length
  | .tbLearnq => nh (s.tab.learnQ.filter fun q => q.quad = i).length
  | .tbAgeStat => nh (s.ageView i)
  | .tbPortDyn => nh (s.portDyn (i / 516) (i % 516))
  | .fwdPfxOcc => nh (s.pfxOcc i)
  | .fwdPfxBusy => nh (s.pfxBusyView i)
  | .fwdPfxBankFree => nh (s.bank (i / 256) (i % 256)).free
  | .fabStgOcc => nh (s.losslessHeld i * 2 ^ 16 + s.lossyHeld i)
  | .fabWrStat => nh (ofSigned 6 (Table.get (fun _ => (12 : Int)) s.path.credit i) * 2 ^ 16
      + (s.path.writeQ.filter fun w => w.1 = i).length)
  | .cbFree => nh (s.pool i).free
  | .cbResv => nh (s.pool i).resv
  | .cbFreeing => nh (s.pool i).freeing
  | .cbQuar => nh (s.pool i).quar
  | .cbRetired => nh (s.pool i).retired
  | .cbReclaim => nh (s.cbReclaimView i)
  | .cbPoolHeld => nh ((s.pool (i / 4)).heldOf (i % 4))
  | .dtShared => nh (ofSigned 24 (s.sharedPages i))
  | .dtWbufOcc => nh (s.wbuf i)
  | .dtStkFree => nh (s.stack i).free
  | .dtStkRetpg => nh ((s.stack i).retired.length + (s.stack i).pending.length)
  | .dtQstat => nh (b2n (s.inDeep (i % 8256)) * 2 ^ 31 + s.pagesOf (i % 8256))
  | .qmLlc => nh (s.llc i)
  | .qmPortStat => if s.portDown i then 2 else s.reg r i
  | .qmQdepth => nh (s.cq i)
  | .schPshpCred => s.creditView (portShaper i)
  | .schQshpCred => s.creditView i
  | .schShpBlk => nh (b2n (decide (s.credit (portShaper i) < 0)) * 2 ^ 16
      + bitsWhere 16 fun k => decide (s.credit (16 * i + k) < 0))
  | .macRxfifo => nh (s.fifoBytes i)
  | .tsStat => nh ((s.reg .tsStat 0).toNat % 2 ^ 28 + b2n s.time.parity * 2 ^ 31 + b2n s.time.todSet * 2 ^ 30
      + b2n s.time.staleAct * 2 ^ 29 + b2n (s.time.slewLeft != 0) * 2 ^ 28)
  | .tsWhorlNs => nh s.whorlNs
  | .tsIncFrac => nh (s.time.inc % 2 ^ 32)
  | .tsIncNs => nh (s.time.inc / 2 ^ 32)
  | .tsSlewCount => nh s.time.slewLeft
  | .tsBaseCtl => nh (s.fld F.tsBaseCtl_TGT 0 * 2 ^ 30 + b2n s.time.todSet * 4 + b2n s.time.armOdd * 2 + b2n s.time.armEven)
  | .tsBaseEvenNs => s.time.even.word 0
  | .tsBaseEvenSlo => s.time.even.word 1
  | .tsBaseEvenShi => s.time.even.word 2
  | .tsBaseOddNs => s.time.odd.word 0
  | .tsBaseOddSlo => s.time.odd.word 1
  | .tsBaseOddShi => s.time.odd.word 2
  | .tickSlotLo => nh s.tick.slot
  | .lnTxcfg | .lnRxcfg => s.laneReg r i
  | r => s.reg r i

/-! ### Interrupt lines (R544, R545) -/

/-- The number of instances of each interrupt source (R545). -/
def srcCount : Nat → Nat
  | 3 => 8 | 4 => 5 | 5 => 2 | 7 => 4 | 12 => 32 | 13 => 4 | 14 => 4 | 15 => 4 | 16 => 4 | 17 => 32 | 18 => 32 | 19 => 32
  | 20 => 4 | 21 => 516 | 22 => 516 | 23 => 516 | 24 => 516 | 25 => 516 | 26 => 512
  | n => if n < 33 then 1 else 0

/-- A status register with its enable register: bits set and enabled. -/
def State.enabled (s : State) (st ie : Reg) (i : Nat) : Bool := (s.reg st i &&& s.reg ie i &&& word st.desc.w1c) != 0

/-- The line of instance `i` of a source (R544, R545). -/
def State.intLine (s : State) (src i : Nat) : Bool :=
  match src with
  | 0 => s.enabled .glbStat .glbIe 0
  | 1 => (s.flag F.tickCtl_IE_REF 0 && (s.flag F.tickStat_REF_LOSS 0 || s.flag F.tickStat_RELOCK 0))
      || (s.flag F.tickCtl_IE_DONE 0 && s.reg .tickSchDone 0 != 0) || (s.flag F.tickCtl_IE_MISS 0 && s.reg .tickSchMissed 0 != 0)
  | 2 => s.enabled .tsStat .tsIe 0
  | 3 => s.flag F.tsEvtCtl_IE i && (s.flag F.tsEvtStat_DONE i || s.flag F.tsEvtStat_MISSED i)
  | 4 => s.flag F.tsCapCtl_IE i && (s.flag F.tsCapStat_LEVEL i || s.flag F.tsCapStat_OVF i)
  | 6 => s.enabled .tsStpStat .tsStpIe 0
  | 7 => s.flag F.tsRingCtl_IE i && (s.flag F.tsRingStat_LEVEL i || s.flag F.tsRingStat_OVF i)
  | 8 => s.enabled .mbStat .mbIe 0
  | 9 => s.enabled .mbD2hDbLo .mbD2hIeLo 0 || s.enabled .mbD2hDbHi .mbD2hIeHi 0
  | 10 => s.enabled .cntStat .cntIe 0
  | 11 => s.enabled .mirStat .mirIe 0
  | 12 => s.enabled .prsStat .prsIe i
  | 13 => s.enabled .clsStat .clsIe i
  | 14 => s.enabled .polStat .polIe i
  | 15 => s.enabled .tbStat .tbIe i
  | 16 => s.enabled .fwdStat .fwdIe i
  | 17 => s.enabled .fabStat .fabIe i
  | 18 => s.enabled .cbStat .cbIe i
  | 19 => s.enabled .qmStat .qmIe i
  | 20 => s.enabled .dtStat .dtIe i
  | 21 => s.enabled .macStat .macIe i
  | 22 => s.enabled .pcsStat .pcsIe i
  | 23 => s.enabled .fcEvt .fcIe i
  | 24 => s.enabled .schStat .schIe i
  | 25 => s.enabled .gclStat .gclIe i
  | 26 => s.enabled .lnStat .lnIe i
  | 27 => s.enabled .dmaStat .dmaIe 0 || s.enabled .dmaRxStat .dmaRxIe 0 || s.enabled .dmaTxStat .dmaTxIe 0
  | 28 => s.enabled .rlStat .rlIe 0 || s.enabled .rlNodeIntLo .rlNodeIeLo 0 || s.enabled .rlNodeIntHi .rlNodeIeHi 0
  | 29 => s.enabled .protStat .protIe 0
  | 30 => s.enabled .pwrStat .pwrIe 0
  | 31 => s.enabled .ksStat .ksIe 0
  | 32 => s.enabled .thmStat .thmIe 0
  | _ => false

/-- Word `w` of GLB_INT_INST of a source. -/
def State.intInst (s : State) (src w : Nat) : Nat :=
  bitsWhere 32 fun k => decide (32 * w + k < srcCount src) && s.intLine src (32 * w + k)

/-- PEND of a source: the OR of its lines. -/
def State.intPend (s : State) (src : Nat) : Bool := (List.range (srcCount src)).any (s.intLine src)

/-! ### Reads (R533, R535 to R537, R475, R515, R528) -/

/-- A read of instance `i` of a register with its side effects: latches, pops and clears. The DMA window of a node that is not the root reads as
zero (R571). -/
def State.readReg (s : State) (who : Sender) (r : Reg) (i : Nat) : State × Word :=
  if !s.regPresent r i || s.inReset r i || (r.desc.win == .dma && !s.tree.root) then (s, 0)
  else if r.isSumLo then
    let key := regKey r i
    let v := Table.get (fun _ => 0) s.cnt.sums key
    let hi : Reg := match r with
      | .schDepthSumLo => .schDepthSumHi
      | .schDelaySumLo => .schDelaySumHi
      | .macRxOctLo => .macRxOctHi
      | _ => .macTxOctHi
    ({ s with cnt := { s.cnt with sums := Table.erase s.cnt.sums key } }.setReg hi i (word (v / 2 ^ 32)), word v)
  else if r.desc.rc then (s.setReg r i 0, s.reg r i)
  else
    match r with
    | .tickSlotLo => (s.setReg .tickSlotHi 0 (word (s.tick.slot / 2 ^ 32)), word s.tick.slot)
    | .tsWhorlNs => (s.latchWhorl, word s.whorlNs)
    | .tsCapNs => s.capPop who i
    | .glbIntPendLo => (s, word (bitsWhere 32 s.intPend))
    | .glbIntPendHi => (s, word (bitsWhere 32 fun k => s.intPend (32 + k)))
    | .glbIntInst => (s, word (s.intInst (i / 17) (i % 17)))
    | .mbOutSlot =>
      match who with
      | .cc => (s, s.reg r i)
      | who => (s, if s.bound (i / 128) (s.sid who) then s.reg r i else 0)
    | .mbOutCtl =>
      match who with
      | .cc => (s, s.reg r i)
      | who => (s, if s.bound i (s.sid who) then s.reg r i else 0)
    | .mbD2hDbLo | .mbD2hDbHi =>
      match who with
      | .cc => (s, s.reg r i)
      | who => (s, s.reg r i &&& word (dbRights (r == .mbD2hDbHi) (s.sid who)))
    | r => (s, s.view r i)

/-- The alias word that an offset of the alias image names: the main-view offset and the word, 0 to 3 (R540). -/
def aliasOf (y : Nat) : Nat × Nat := (judgedAt y, if y < 0x8000000 then 0 else y / 4 % 4)

/-- A read of any offset of BAR0, after the checks of R593. A gap of the map gives a value the spec leaves undefined under GRD2048-F (R536). -/
def State.readWord (s : State) (who : Sender) (y : Nat) : State × Word :=
  let x := (aliasOf y).1
  if 0x2000000 ≤ x then (s, 0)
  else match placeAt x with
    | .empty => (s, 0)
    | .gap => if s.fuses.code = .f then (s.draw, Config.freeWord s.free) else (s, 0)
    | .reg r i =>
      if (aliasOf y).2 = 0 then s.readReg who r i
      else if r.desc.aliased && s.regPresent r i && !s.inReset r i then (s, s.reg r i) else (s, 0)

/-- A read by any sender: the SID rule and the firewall first (R592, R593). -/
def State.busRead (s : State) (who : Sender) (y : Nat) : State × Word :=
  match s.refusal who (judgedAt y) false with
  | some kind => (s.violation kind (s.sid who) (judgedAt y) false, 0)
  | none => s.readWord who y

/-! ### Writes (R16, R535 to R543) -/

/-- The protection set-up that LOCK freezes (R595). -/
def Reg.isSetup : Reg → Bool
  | .protReqId | .protReqCfg | .protFwrBase | .protFwrLimit | .protFwrPerm | .protDmaBaseLo | .protDmaBaseHi | .protDmaLimLo
  | .protDmaLimHi | .protDmaCfg | .mbBind => true
  | _ => false

/-- The registers whose writer R417 names. -/
def Reg.ownedTime : Reg → Bool
  | .tsIncFrac | .tsIncNs | .tsSlewDelta | .tsSlewCount | .tsBaseStgNs | .tsBaseStgSlo | .tsBaseStgShi | .tsBaseCtl => true
  | _ => false

/-- Plain fields take the written value and W1C bits clear (R16). -/
def State.plainWrite (s : State) (r : Reg) (i : Nat) (v : Word) : State :=
  let rw := word r.desc.rw
  let s := if r.desc.rw = 0 then s else s.setReg r i ((s.reg r i &&& ~~~rw) ||| (v &&& rw))
  if r.desc.w1c = 0 then s else s.w1c r i (v.toNat &&& r.desc.w1c)

/-- A window of the DMA protection is revoked (R594). -/
def State.revoke (s : State) (mask : Nat) : State := (onesOf 16 mask).foldl (fun s k => s.setFld F.protDmaCfg_VALID k 0) s

/-- Writing 1 to PROT_CTL.LOCK locks the set-up (R595). -/
def State.lockWrite (s : State) (v : Nat) : State := if v.testBit 31 then s.setFld F.protCtl_LOCK 0 1 else s

/-- A write of PROT_WDT by the control complex: EN until LOCK, KICK always. After LOCK a different EN is a late write (R595, R600). -/
def State.wdtWrite (s : State) (who : Sender) (x v : Nat) : State :=
  let s := if !s.flag F.protCtl_LOCK 0 then s.setFld F.protWdt_EN 0 (b2n (v.testBit 31))
    else if s.flag F.protWdt_EN 0 == v.testBit 31 then s else s.violation 3 (s.sid who) x true
  if v.testBit 0 then s.kick else s

/-- A write of MAC_PORT_CFG: the hardware of a port starts when EN sets in a mode, and loses its link when EN clears (R348, R350, R364). -/
def State.writePortCfg (s : State) (p : Nat) (v : Word) : State :=
  let on := s.flag F.macPortCfg_EN p
  let s := s.plainWrite .macPortCfg p v
  if 512 ≤ p then s
  else if on && !s.flag F.macPortCfg_EN p then
    (((s.linkLoss p).disableLanes p).setReg .macLink p 0).inPath fun t => { t with
      linkSince := Table.erase t.linkSince p, wakeAt := Table.erase t.wakeAt p }
  else if !on && s.flag F.macPortCfg_EN p && s.configured p && !s.hidden p then (s.enableLanes p).standbyCheck p
  else s

/-- A hardware entry is missed with a cause (R54, R58, R66). -/
def State.missEntry (s : State) (e cause : Nat) : State :=
  ((s.setFld F.tickSchAct_ARM e 0).setFld F.tickSchAct_MISS_CAUSE e cause).raiseBits .tickSchMissed 0 (2 ^ e)

/-- A write of TICK_SCH_ACT: setting ARM with the target already due misses with cause 2 (R54), with an
action the tables do not name with cause 7. -/
def State.writeSchAct (s : State) (e : Nat) (v : Word) : State :=
  let was := s.flag F.tickSchAct_ARM e
  let s := s.plainWrite .tickSchAct e v
  if !was && s.flag F.tickSchAct_ARM e then
    if 3 < s.fld F.tickSchAct_ACTION e then s.missEntry e 7
    else if s.dueAt (s.reg .tickSchTgt e).toNat then s.missEntry e 2
    else s
  else s

/-- A host's write of a mailbox register (R515 to R518). -/
def State.mbWrite (s : State) (sid : Nat) (r : Reg) (i : Nat) (v : Word) : State :=
  let n := match r with
    | .mbInSlot => i / 128
    | _ => i
  if !s.bound n sid then s.mbError 1 n sid
  else
    match r with
    | .mbInSlot => if s.flag F.mbInCtl_STATE n then s.mbError 2 n sid else s.setReg .mbInSlot i v
    | .mbInCtl =>
      let s := if v.toNat.testBit 31 then s.postIn n sid else s
      let s := if v.toNat.testBit 30 then s.newInc n else s
      if v.toNat.testBit 29 then s.mbError 1 n sid else s
    | _ => if v.toNat.testBit 29 then s.consumeOut n sid else s

/-- A write of instance `i` of a register by a sender that the checks let pass; `party` is 0 for the control complex, 1 for a host, 2 for
the schedule (R542). -/
def State.writeReg (s : State) (who : Sender) (party : Nat) (r : Reg) (i : Nat) (v : Word) : State :=
  let cc := who == .cc
  let n := v.toNat
  if !s.regPresent r i || s.inReset r i || (r.desc.win == .dma && !s.tree.root) then s
  else if r.desc.ccOnly && !cc then s.accError 4 (s.sid who) (r.offset i)
  else if r.isSetup then
    if s.flag F.protCtl_LOCK 0 then s.violation 3 (s.sid who) (r.offset i) true
    else if r == .mbBind && decide (i < 4) && n.testBit 31 && !n.testBit 7 then s
    else s.plainWrite r i v
  else if r.ownedTime && !s.ownsTime who then s
  else
    let s := if r.desc.rw = 0 then s
      else s.noteWrite r i (if r.desc.mw then n / 2 ^ 16 % 2 ^ 16 &&& r.desc.rw else r.desc.rw) party
    match r with
    | .macMode => s.writeMode i n
    | .qmQmode => s.writeDeep i n
    | .macPortCfg => s.writePortCfg i v
    | .tickSchAct => s.writeSchAct i v
    | .tsIncFrac => s.writeIncFrac v
    | .tsIncNs => s.writeIncNs v
    | .tsSlewCount => s.writeSlewCount v
    | .tsBaseCtl => s.writeBaseCtl v
    | .tsEvtCtl => s.writeEvtCtl i v
    | .tsEvtStart | .tsEvtFrac | .tsEvtPeriod | .tsEvtWidth => if s.flag F.tsEvtCtl_EN i then s else s.plainWrite r i v
    | .tsRingCons => s.writeCons i n cc
    | .tsRingStat => if n.testBit 31 then s.w1c .tsRingStat i (2 ^ 31) else s
    | .gclCycStart => s.writeCycStart i n
    | .gclSwapCtl => s.writeSwapCtl i n
    | .schPshpRate => (s.keepRate (portShaper i)).plainWrite r i v
    | .schQshpRate => (s.keepRate i).plainWrite r i v
    | .cntSnap => if n.testBit 0 then s.snapshot else s
    | .dmaRxTail => s.writeTail false i n
    | .dmaTxTail => s.writeTail true i n
    | .dmaRxCfg => if s.ringOn false i && !n.testBit 31 then (s.plainWrite r i v).ringOff false i else s.plainWrite r i v
    | .dmaTxCfg => if s.ringOn true i && !n.testBit 31 then (s.plainWrite r i v).ringOff true i else s.plainWrite r i v
    | .lnCemCommit => if n.testBit 0 then s.commitLane i else s
    | .protCtl => s.lockWrite n
    | .protWdt => s.wdtWrite who (r.offset i) n
    | .protRst => if cc || sidSecure (s.sid who) then s.requestReset n else s.violation 1 (s.sid who) (r.offset i) true
    | .protDmaRevoke => if cc || sidSecure (s.sid who) then s.revoke n else s.violation 1 (s.sid who) (r.offset i) true
    | .mbH2dDbLo | .mbH2dDbHi => s
    | .mbD2hDbLo | .mbD2hDbHi => if cc then s else s.d2hClear (r == .mbD2hDbHi) (s.sid who) n
    | .mbInSlot | .mbInCtl | .mbOutCtl =>
      if cc then
        match r with
        | .mbInCtl => if n.testBit 29 && s.flag F.mbInCtl_STATE i then s.consumeIn i else s
        | _ => s
      else s.mbWrite (s.sid who) r i v
    | .mbOutSlot => s.setReg r i v
    | r => s.plainWrite r i v

/-- The word that a set, clear or toggle alias leaves in a register: its RW bits with the named ones set, cleared or inverted (R540). -/
def aliasWord (k : Nat) (rw old bits : Word) : Word :=
  match k with
  | 1 => old ||| (bits &&& rw)
  | 2 => old &&& ~~~(bits &&& rw)
  | _ => old ^^^ (bits &&& rw)

/-- A write at alias word `k` of a register (R528, R540). -/
def State.aliasWrite (s : State) (who : Sender) (party k : Nat) (r : Reg) (i : Nat) (v : Word) : State :=
  if !s.regPresent r i || s.inReset r i || (r.desc.win == .dma && !s.tree.root) then s
  else if !r.desc.aliased then s.accError 3 (s.sid who) (r.offset i)
  else
    match r with
    | .mbH2dDbLo | .mbH2dDbHi =>
      let hi := r == .mbH2dDbHi
      match who, k with
      | .cc, 2 => s.w1c r i v.toNat
      | .cc, _ => s
      | who, 1 => s.h2dSet hi (s.sid who) v.toNat
      | _, _ => s
    | r =>
      let rw := word r.desc.rw
      (s.noteWrite r i (v.toNat &&& r.desc.rw) party).setReg r i (aliasWord k rw (s.reg r i) v)

/-- A write of a word at any offset of BAR0, after the checks of R593. None: a gap of the register map under GRD2048-F, whose
outcome R536 leaves unspecified. -/
def State.writeWord (s : State) (who : Sender) (party y : Nat) (v : Word) : Option State :=
  let x := (aliasOf y).1
  if 0x2000000 ≤ x then some s
  else match placeAt x with
    | .empty => some s
    | .gap => if s.fuses.code = .f then none else some s
    | .reg r i => some (if (aliasOf y).2 = 0 then s.writeReg who party r i v else s.aliasWrite who party (aliasOf y).2 r i v)

/-- A write by any sender: the SID rule and the firewall first (R592, R593). -/
def State.busWrite (s : State) (who : Sender) (y : Nat) (v : Word) : Option State :=
  match s.refusal who (judgedAt y) true with
  | some kind => some (s.violation kind (s.sid who) (judgedAt y) true)
  | none => s.writeWord who (partyOf who) y v

/-- The words of a request in ascending address order (R533); at a word without a stated outcome, its offset. -/
def busWrites (who : Sender) : Nat → List Word → State → Except Nat State
  | _, [], s => .ok s
  | y, v :: t, s =>
    match s.busWrite who y v with
    | some s => busWrites who (y + 4) t s
    | none => .error y

/-- The outcome of a write request. -/
def writeOutcome (who : Sender) (y : Nat) (ws : List Word) (s : State) : Host.Outcome State Fault Refusal :=
  match busWrites who y ws s with
  | .ok s => .next s
  | .error x => .fault (.unspecifiedWrite x)

/-! ### The rows -/

/-- REGISTER_WRITE (R532, R533, R541): a write request of one to 16 doublewords at an offset; `enables` says that every byte enable is
set. A request that breaks R532 is ignored and recorded. -/
def execRegisterWrite (who : Sender) (offset : Nat) (words : List Word) (enables : Bool) (s : State) :
    Host.Outcome State Fault Refusal :=
  if offset % 4 ≠ 0 ∨ words.length = 0 ∨ 16 < words.length then .next (s.accError 2 (s.sid who) offset)
  else if !enables then .next (s.accError 1 (s.sid who) offset)
  else writeOutcome who offset words s

/-- A write at an alias word of the register at a main-view offset. -/
def aliasAt (who : Sender) (k offset : Nat) (bits : Word) (s : State) : Host.Outcome State Fault Refusal :=
  if offset % 4 ≠ 0 then .next (s.accError 2 (s.sid who) offset)
  else writeOutcome who (0x8000000 + 4 * (offset % 0x2000000) + 4 * k) [bits] s

/-- ALIAS_SET (R540). -/
def execAliasSet (who : Sender) (offset : Nat) (bits : Word) (s : State) : Host.Outcome State Fault Refusal :=
  aliasAt who 1 offset bits s

/-- ALIAS_CLEAR (R540). -/
def execAliasClear (who : Sender) (offset : Nat) (bits : Word) (s : State) : Host.Outcome State Fault Refusal :=
  aliasAt who 2 offset bits s

/-- ALIAS_TOGGLE (R540). -/
def execAliasToggle (who : Sender) (offset : Nat) (bits : Word) (s : State) : Host.Outcome State Fault Refusal :=
  aliasAt who 3 offset bits s

/-- A single-doubleword read of an offset, answered to its sender. -/
def readAt (who : Sender) (offset : Nat) (s : State) : Host.Outcome State Fault Refusal :=
  if offset % 4 ≠ 0 then .next (s.accError 2 (s.sid who) offset)
  else
    let r := s.busRead who offset
    .next (r.1.emit (.readData who offset r.2))

/-- RC_READ (R475): a read of an RC holding image returns it and clears it. Any other offset is read as R533 to R537 say. -/
def execRcRead (who : Sender) (offset : Nat) (s : State) : Host.Outcome State Fault Refusal := readAt who offset s

/-- HOLDING_SUM_READ (R332, R475): a read of a SUM_LO register returns the low half, latches the high half and clears the sum. -/
def execHoldingSumRead (who : Sender) (offset : Nat) (s : State) : Host.Outcome State Fault Refusal := readAt who offset s

end Sys2Proof.Machine
end

