-- ==== Sys2Proof/Machine/Schedule.lean ====
section
/-!
DEFINITION. Scheduled commands (R52 to R63): the hardware entries, the held list, their conversion, and the packets SCHEDULE_CANCEL and
SCHEDULE_LIST. SCHEDULE itself stands with the tree, over which the root fans it out.
-/
namespace Sys2Proof.Machine
open Sys2Proof

/-! ### Completion (R60) -/

/-- The completion record of a command: handle, 0 executed or 1 missed, cause. -/
def State.schedRecord (s : State) (handle cause : Nat) : State :=
  s.logEvent 0x4001 (leBytes 2 handle ++ [byte (b2n (cause != 0)), byte cause])

/-- The held command that a hardware entry belongs to. -/
def State.heldOf (s : State) (e : Nat) : Option Held := s.tick.held.find? fun h => h.entries.contains e

/-- A timed mode change has ended: firmware recomputes the pairs of its port's slice (R82, R300). -/
def State.modeDone (s : State) (h : Held) : State :=
  match h.modePort with
  | some p => if p < 512 && s.fwRunning then s.recompute (Config.sliceOf p) else s
  | none => s

/-- Entry `e` has executed (cause 0) or been missed: its record, and the command leaves the list when no entry of it is left. -/
def State.entryEnds (s : State) (e cause : Nat) : State :=
  let s := s.schedRecord (s.fld F.tickSchAct_HANDLE e) cause
  let rest := s.tick.held.map fun h => if h.entries.contains e then { h with entries := h.entries.filter (· != e) } else h
  match (s.heldOf e).filter fun h => h.entries = [e] with
  | some k => { s with tick := { s.tick with held := rest.filter fun h => h.handle != k.handle } }.modeDone k
  | none => { s with tick := { s.tick with held := rest } }

/-- A held command is missed without hardware, causes 3 to 5 (R60, R62, R63). -/
def State.missHeld (s : State) (h : Held) (cause : Nat) : State :=
  ({ s with tick := { s.tick with held := s.tick.held.filter fun k => k.handle != h.handle } }.schedRecord h.handle cause).modeDone h

/-! ### Arming (R54, R60) -/

/-- The free hardware entries, lowest first. -/
def State.freeEntries (s : State) : List Nat := (List.range 32).filter fun e => !s.flag F.tickSchAct_ARM e

/-- Firmware writes entry `e` for one action of a command and arms it. -/
def State.armEntry (s : State) (e tgt handle : Nat) (a : SchedAct) : State :=
  let s := ((s.setReg .tickSchTgt e (word tgt)).setReg .tickSchAddr e (word (a.addr % 2 ^ 28))).setReg .tickSchData e (word a.data)
  let s := s.writeSchAct e (word (2 ^ 31 + a.action % 16 * 2 ^ 24 + handle % 2 ^ 16))
  if s.flag F.tickSchAct_ARM e then s else s.entryEnds e (s.fld F.tickSchAct_MISS_CAUSE e)

/-- Firmware places a held command into the lowest free entries, one for each action. -/
def State.placeHeld (s : State) (h : Held) : State :=
  let es := s.freeEntries.take h.acts.length
  let tgt := (s.whorlNs + h.time + 2 ^ 32 - s.netNs % 2 ^ 32) % 2 ^ 32
  let s := { s with tick := { s.tick with
    held := s.tick.held.map fun k => if k.handle = h.handle then { k with entries := es } else k } }
  (h.acts.zip es).foldl (fun s x => s.armEntry x.2 tgt h.handle x.1) s

/-- Firmware looks at one held command (R60): near enough and with room it is placed; within 2^27 ns without room it is missed with
cause 3. -/
def State.checkHeld (s : State) (h : Held) : State :=
  if s.netNs + 2 ^ 30 ≤ h.time then s
  else if h.acts.length ≤ s.freeEntries.length then s.placeHeld h
  else if h.time < s.netNs + 2 ^ 27 then s.missHeld h 3
  else s

/-- The commands held and not armed, nearest first, lower handle first. -/
def State.heldInOrder (s : State) : List Held :=
  sortBy (fun h => h.time * 2 ^ 16 + h.handle) (s.tick.held.filter fun h => h.entries = [])

/-- Firmware looks at every event output it holds (R423). -/
def State.checkOutputs (s : State) : State :=
  s.time.held.foldl (fun s h =>
    if s.netNs + 2 ^ 30 ≤ h.start then s
    else { s with time := { s.time with held := s.time.held.filter fun (k : EvtHeld) => k.out != h.out } }.evtProgram h) s

/-- Firmware's check of everything it holds for a time (R60, R328, R423). -/
def State.checkAll (s : State) : State := ((s.heldInOrder.foldl (fun s h => s.checkHeld h) s).checkOutputs).checkSwaps

/-- HELD_LIST_CHECK (R60, R328, R423). -/
def execHeldListCheck (s : State) : Host.Outcome State Fault Refusal :=
  if s.flag F.protBoot_RUNNING 0 then .next s.checkAll else .next s

/-- SCHEDULE_ENTRY_ARM (R54): the control complex writes TICK_SCH_ACT of an entry. -/
def execScheduleEntryArm (who : Sender) (e : Nat) (v : Word) (s : State) : Host.Outcome State Fault Refusal :=
  if 32 ≤ e then .next s
  else .next (s.ccWrite who (Reg.tickSchAct.offset e) fun s =>
    (s.noteWrite .tickSchAct e Reg.tickSchAct.desc.rw (partyOf who)).writeSchAct e v)

/-! ### Execution (R53 to R58) -/

/-- The hardware entries due in this slot, in rising order. -/
def State.dueEntries (s : State) : List Nat :=
  (List.range 32).filter fun e => s.flag F.tickSchAct_ARM e && s.dueAt (s.reg .tickSchTgt e).toNat

/-- The block that a scheduled write needs is held in reset (R58). -/
def State.targetInReset (s : State) (y : Nat) : Bool :=
  match placeAt (judgedAt y) with
  | .reg r i => s.inReset r i
  | _ => false

/-- The cause for which a due entry is missed; 0 when it executes. -/
def State.dueCause (s : State) (e : Nat) : Nat :=
  if !s.flag F.tickCtl_SCH_EN 0 then 6
  else match s.fld F.tickSchAct_ACTION e with
    | 1 => if s.boot.reset.isSome then 1 else 0
    | 2 => if s.targetInReset (s.reg .tickSchAddr e).toNat then 1 else 0
    | _ => 0

/-- A scheduled register write (R55, R56, R417): a base load that it asks for counts as requested in the next slot. None: an offset
whose write has no stated outcome (R536). -/
def State.regwrite (s : State) (y : Nat) (v : Word) : Option State :=
  let old := s.time.loadPend
  match s.writeWord .cc 2 y v with
  | none => none
  | some t =>
    if placeAt (judgedAt y) = .reg .tsBaseCtl 0 && v.toNat.testBit 31 && t.time.loadPend != old then
      some { t with time := { t.time with loadPend := old, loadSoon := t.time.loadPend } }
    else some t

/-- The register writes due together, in rising order of entry (R55). -/
def regwrites : List Nat → State → Except Nat State
  | [], s => .ok s
  | e :: t, s =>
    match s.regwrite (s.reg .tickSchAddr e).toNat (s.reg .tickSchData e) with
    | some s => regwrites t s
    | none => .error (s.reg .tickSchAddr e).toNat

/-- The end of an entry that has executed or been missed when due: hardware clears ARM (R53, R58). -/
def State.endEntry (s : State) (e cause : Nat) : State :=
  let s := s.hwFld F.tickSchAct_ARM e 0
  let s := if cause = 0 then s.raiseBits .tickSchDone 0 (2 ^ e)
    else (s.setFld F.tickSchAct_MISS_CAUSE e cause).raiseBits .tickSchMissed 0 (2 ^ e)
  s.entryEnds e cause

/-- SCHEDULE_ENTRY_DUE (R53, R55): every entry due in this slot acts: the snapshot, then the register writes, then the doorbells. -/
def execScheduleEntryDue (s : State) : Host.Outcome State Fault Refusal :=
  let due := s.dueEntries.map fun e => (e, s.dueCause e)
  let run := (due.filter fun d => d.2 = 0).map (·.1)
  let act := fun k => run.filter fun e => s.fld F.tickSchAct_ACTION e = k
  let s1 := if act 1 = [] then s else s.snapshot
  match regwrites (act 2) s1 with
  | .error x => .fault (.unspecifiedWrite x)
  | .ok s2 =>
    let s3 := (act 3).foldl (fun s e => s.d2hSet ((s.reg .tickSchData e).toNat % 64)) s2
    .next (due.foldl (fun s d => s.endEntry d.1 d.2) s3)

/-! ### Conversion (R62, R324, R423) -/

/-- Firmware converts one command again: an armed entry is disarmed; with its time past the command is missed with cause 4, else it
is held and placed again. -/
def State.reconvertHeld (s : State) (h : Held) : State :=
  let s := h.entries.foldl (fun s e => s.setFld F.tickSchAct_ARM e 0) s
  let h := { h with entries := [] }
  let s := { s with tick := { s.tick with held := s.tick.held.map fun (k : Held) => if k.handle = h.handle then h else k } }
  if h.time ≤ s.netNs then s.missHeld h 4 else s.checkHeld h

/-- A list's cycle start and an armed swap in the new mapping (R324). -/
def State.reconvertGates (s : State) (p : Nat) : State :=
  let g := s.gcl p
  let s := if s.flag F.gclStat_VALID p then
      let next := cycleAtOrAfter g.operBase (max 1 (s.gclCycle p false)) (s.netNs + 1)
      s.writeCycStart p ((s.whorlNs + next + 2 ^ 32 - s.netNs % 2 ^ 32) % 2 ^ 32)
    else s
  if s.flag F.gclSwapCtl_ARM p then
    s.setReg .gclSwapTgt p (word (s.whorlNs + g.armedS + 2 ^ 32 - s.netNs % 2 ^ 32))
  else s

/-- The start of an event output in the new mapping: a periodic output's next period instant. -/
def State.laterStart (s : State) (h : EvtHeld) : EvtHeld :=
  let per := h.period * 256 + h.frac % 256
  if h.ctl.testBit 1 && decide (h.start ≤ s.netNs) && per != 0 then
    let x := h.start * 256 + h.frac / 256
    let y := x + cdiv (s.netNs * 256 + 256 - x) per * per
    { h with start := y / 256, frac := y % 256 * 256 + h.frac % 256 }
  else h

/-- An armed event output is programmed again (R423); one whose pulse has begun is not. -/
def State.reconvertOutput (s : State) (h : EvtHeld) : State :=
  match OTable.get? s.time.outputs h.out with
  | none => s
  | some r => if r.high then s else s.evtProgram (s.laterStart h)

/-- SCHEDULE_RECONVERT (R62, R410): after a load of the active base, firmware converts what it holds and what is armed. -/
def execScheduleReconvert (s : State) : Host.Outcome State Fault Refusal :=
  if !s.flag F.protBoot_RUNNING 0 || !s.time.remap then .next s
  else
    let s := { s with time := { s.time with remap := false } }
    let s := s.tick.held.foldl (fun s h => s.reconvertHeld h) s
    let s := (s.path.gcl.map (·.1)).foldl (fun s p => s.reconvertGates p) s
    .next ((s.time.evts.foldl (fun s h => s.reconvertOutput h) s).checkAll)

/-! ### Acceptance (R59) -/

/-- Whether a REGWRITE may name an offset: a register of access RW or MW, or an A alias (R56). -/
def State.writable (s : State) (y : Nat) : Bool :=
  y % 4 == 0 && (match placeAt (judgedAt y) with
    | .reg r i =>
      s.regPresent r i && !(r.ownedTime && s.flag F.tsCtl_HOST_OWN 0)
        && (if (aliasOf y).2 = 0 then r.desc.rw != 0 else r.desc.aliased)
    | _ => false)

/-- The next handle: upward from the last given, from 65,535 to 1, skipping those in use. -/
def State.nextHandle (s : State) : Nat :=
  ((List.range 1025).map fun k => (s.tick.lastHandle + k) % 65535 + 1).find? (fun k => !s.tick.held.any fun h => h.handle = k)
    |>.getD 0

/-- The checks of R59 on the time and the room for a command. -/
def State.timeChecks (s : State) (time : Nat) : List (Bool × Status) :=
  [ (decide (time ≤ s.netNs), .schedPast), (decide (86400 * 1000000000 + s.netNs < time), .schedRange) ]

/-- A command is accepted into the held list under the next handle, and placed if it is near. -/
def State.acceptHeld (s : State) (time : Nat) (acts : List SchedAct) (modePort : Option Nat) : State × Nat :=
  let k := s.nextHandle
  let h : Held := { handle := k, time := time, acts := acts, modePort := modePort }
  let s := { s with tick := { s.tick with lastHandle := k, held := s.tick.held ++ [h] } }
  (s.checkHeld h, k)

/-- A SCHEDULE's action and node mask. -/
def schedAct (a : Args) : SchedAct × Nat :=
  match a.n 1 with
  | 2 => ({ action := 2, addr := a.n 2, data := a.n 3 }, a.n 4)
  | 3 => ({ action := 3, data := a.n 2 }, a.n 3)
  | k => ({ action := k }, a.n 2)

/-- The checks of a SCHEDULE that do not concern the tree: 2, then 4 to 7 of R59. -/
def schedBad (a : Args) : Bool :=
  a.bad || a.n 1 == 0 || decide (3 < a.n 1) || (a.n 1 == 3 && decide (63 < a.n 2))
def State.schedChecks (s : State) (a : Args) : List (Bool × Status) :=
  s.timeChecks (unpackNet (a.n 0))
    ++ [ (a.n 1 == 2 && !s.writable (a.n 2), .schedTarget), (decide (1024 ≤ s.tick.held.length), .schedFull) ]

/-- The status, handle and state of a SCHEDULE whose checks answer `o`. -/
def State.scheduleAs (s : State) (a : Args) (o : Option Status) : Status × Nat × State :=
  match o with
  | some e => (e, 0, s)
  | none =>
    let r := s.acceptHeld (unpackNet (a.n 0)) [(schedAct a).1] none
    (.ok, r.2, r.1)

/-- This device takes a SCHEDULE whose checks 1 to 3 have passed: its status, handle and state. -/
def State.scheduleHere (s : State) (a : Args) : Status × Nat × State := s.scheduleAs a (firstFail (s.schedChecks a))

/-! ### Packets (R59, R61) -/

/-- SCHEDULE_CANCEL (R59): a handle. A command of which an entry falls due in this slot executes. -/
def execScheduleCancel (p : Packet) (s : State) : Host.Outcome State Fault Refusal :=
  runPacket 0x0005 p (fun a s =>
    match s.tick.held.find? fun h => h.handle = a.n 0 with
    | none => guarded s [(a.bad, .paramInvalid)] (Res.discard s .schedGone)
    | some h =>
      guarded s [ (a.bad, .paramInvalid), (h.entries.any fun e => s.dueEntries.contains e, .schedGone) ]
        (let s := h.entries.foldl (fun s e => s.setFld F.tickSchAct_ARM e 0) s
         Res.ok ({ s with tick := { s.tick with held := s.tick.held.filter fun k => k.handle != h.handle } }.modeDone h) [])) s

/-- The records of a command (R61): one for each hardware entry it is armed in, or one while it is held. -/
def Held.records (h : Held) : List (List Byte) :=
  let line := fun (entry : Nat) (act : SchedAct) =>
    leBytes 2 h.handle ++ [byte (b2n (entry != 0xFF)), byte entry, byte act.action, 0] ++ leBytes 10 (packNet h.time)
  if h.entries = [] then [line 0xFF (h.acts.headD { action := 0 })]
  else (h.entries.zip (h.acts.drop (h.acts.length - h.entries.length))).map fun x => line x.1 x.2

/-- SCHEDULE_LIST (R61): FIRST, MAX, and a buffer when MAX exceeds 28; COUNT, END and the records. -/
def execScheduleList (p : Packet) (s : State) : Host.Outcome State Fault Refusal :=
  runPacket 0x0006 p (fun a s =>
    let all := (sortBy (fun h => h.handle) (s.tick.held.filter fun h => a.n 0 ≤ h.handle)).flatMap Held.records
    let got := all.take (a.n 1)
    let head := [(Ty.u 16, got.length), (Ty.flag, b2n (decide (all.length ≤ a.n 1)))]
    let far := decide (28 < a.n 1)
    guarded s
      ([ (a.bad || a.n 1 == 0 || decide (1024 < a.n 1) || (far && decide (p.params.length ≤ 8)), .paramInvalid) ]
        ++ (if far then dmaChecks s p (a.n 2) true (16 * a.n 1) else []))
      (if far then dmaWrite s p (a.n 2) got.flatten fun s => Res.ok s head
       else { status := .ok, params := emitBlock head ++ got.flatten, state := s })) s

end Sys2Proof.Machine
end

