-- ==== Sys2Proof/Machine/Tree.lean ====
section
/-!
DEFINITION. The management tree (R565 to R578): links, roles, routing, remote accesses, enumeration, interrupts of other nodes, and the
fan-out of SCHEDULE.
-/
namespace Sys2Proof.Machine
open Sys2Proof

/-! ### Ports -/

/-- The port `k`. -/
def State.rl (s : State) (k : Nat) : RlPort := Table.get (fun _ => {}) s.tree.ports k
def State.setRl (s : State) (k : Nat) (p : RlPort) : State :=
  { s with tree := { s.tree with ports := Table.set (fun _ => {}) s.tree.ports k p } }
def State.onRl (s : State) (k : Nat) (f : RlPort → RlPort) : State := s.setRl k (f (s.rl k))

/-- The state of a link as RL_PORT_STAT shows it (R580). -/
def State.rlState (s : State) (k : Nat) : Nat := s.fld F.rlPortStat_STATE k

/-- Whether a link is used: ACTIVE upstream or downstream. -/
def State.rlActive (s : State) (k : Nat) : Bool := s.rlState k == 7 || s.rlState k == 8

/-- This device's Rhogen version (R570). -/
def rlVersion : Nat := 0x0100

/-- The version both sides support, if any (R570). -/
def selected (h : Hello) : Option Nat :=
  if max h.vmin rlVersion ≤ min h.vmax rlVersion then some (min h.vmax rlVersion) else none

/-- The link is up when both sides send ACKED (R570). -/
def State.rlUp (s : State) (k : Nat) : Bool :=
  (s.rl k).lock && (match (s.rl k).peer with
    | some h => (selected h).isSome && h.flags.testBit 2
    | none => false)

/-- This device's node number, if it has one (R573). -/
def State.node? (s : State) : Option Nat :=
  if s.tree.root then some 0 else if s.tree.numbered then some (s.fld F.glbDevid_NODE 0) else none

/-- The HELLO this device sends on a port (R570). -/
def State.myHello (s : State) (k : Nat) : Hello :=
  let acked := match (s.rl k).peer with
    | some h => (selected h).isSome
    | none => false
  { vmin := rlVersion, vmax := rlVersion, hops := s.tree.hops
    flags := b2n s.tree.root + b2n (k == 0) * 2 + b2n acked * 4 + b2n s.tree.parent.isSome * 8
    port := k, node := s.node?.getD 0xFF }

/-- A HELLO's payload, and the HELLO that a payload spells. -/
def helloBytes (h : Hello) : List Byte :=
  leBytes 2 h.vmin ++ leBytes 2 h.vmax ++ [byte h.hops, byte h.flags, byte h.port, byte h.node] ++ List.replicate 8 0
def helloOf (bs : List Byte) : Hello :=
  { vmin := leAt bs 0 2, vmax := leAt bs 2 2, hops := leAt bs 4 1, flags := leAt bs 5 1, port := leAt bs 6 1, node := leAt bs 7 1 }

/-- A HELLO goes out. -/
def State.sendHello (s : State) (k : Nat) : State :=
  (s.onRl k fun p => { p with helloAt := s.tick.slot, dirty := false }).emit
    (.rhogen k { typ := 0x01, payload := helloBytes (s.myHello k), src := s.node?.getD 0 })

/-! ### Sequenced delivery (R567) -/

/-- Sequence numbers have 12 bits; whether `b` lies at or behind `a`. -/
def seqNext (n : Nat) : Nat := (n + 1) % 4096
def seqPrev (n : Nat) : Nat := (n + 4095) % 4096
def seqUpTo (a b : Nat) : Bool := decide ((a + 4096 - b) % 4096 < 2048)

/-- The bytes of a packet that the window counts. -/
def rlSize (p : RlPacket) : Nat := 20 + p.payload.length

/-- Whether a port's window takes a packet. -/
def RlPort.room (p : RlPort) (x : RlPacket) : Bool :=
  decide (p.unacked.length < 64) && decide (p.unacked.foldl (fun a y => a + rlSize y) (rlSize x) ≤ 32768)

/-- A packet goes out, with the acknowledgement that is due. -/
def State.transmit (s : State) (k : Nat) (x : RlPacket) : State :=
  let p := s.rl k
  (s.setRl k { p with owed := 0 }).emit (.rhogen k { x with ack := seqPrev p.rxSeq, ackV := p.owed != 0 })

/-- A sequenced packet is sent, or waits for the window. -/
def State.sendSeq (s : State) (k : Nat) (x : RlPacket) : State :=
  let p := s.rl k
  if !p.waiting.isEmpty || !p.room x then s.setRl k { p with waiting := p.waiting ++ [x] }
  else
    let x := { x with seqd := true, seq := p.txSeq }
    (s.setRl k { p with txSeq := seqNext p.txSeq, unacked := p.unacked ++ [x]
                        sentAt := if p.unacked.isEmpty then s.tick.slot else p.sentAt }).transmit k x

/-- Packets that wait go out while the window takes them. -/
def releaseWaiting (k : Nat) : List RlPacket → State → State
  | [], s => s
  | x :: t, s =>
    if (s.rl k).room x then
      releaseWaiting k t ((s.setRl k { s.rl k with waiting := [] }).sendSeq k x |>.onRl k fun p => { p with waiting := t })
    else s

/-- An acknowledgement of everything up to `a`. -/
def State.ackUpTo (s : State) (k a : Nat) : State :=
  let p := s.rl k
  let left := p.unacked.filter fun x => !seqUpTo a x.seq
  if left.length = p.unacked.length then s
  else
    let s := s.setRl k { p with unacked := left, sentAt := s.tick.slot, replays := 0 }
    releaseWaiting k p.waiting s

/-- An ACK or a NAK with the last good SEQ. -/
def State.sendAck (s : State) (k : Nat) (nak : Bool) : State :=
  let p := s.rl k
  (s.setRl k { p with owed := 0, naking := p.naking || nak }).emit
    (.rhogen k { typ := if nak then 0x03 else 0x02, ack := seqPrev p.rxSeq, ackV := true, src := s.node?.getD 0 })

/-! ### Routes (R573, R574) -/

/-- Whether a node is routable, as RL_NODE_VALID on the root shows. -/
def State.routable (s : State) (n : Nat) : Bool :=
  if n < 32 then s.regBit .rlNodeValidLo 0 n else s.regBit .rlNodeValidHi 0 (n % 32)
def State.setRoutable (s : State) (n : Nat) (on : Bool) : State :=
  let r : Reg := if n < 32 then .rlNodeValidLo else .rlNodeValidHi
  if on then s.setBit r 0 (n % 32) else s.clearBit r 0 (n % 32)

/-- An access or a packet has no route (R569, R574). -/
def State.unreachable (s : State) : State := (s.raise F.rlStat_UNREACH 0).count .rlUnreachCnt 0 1

/-- The port that leads to a node: the one its route names, else upstream. -/
def State.portTo (s : State) (n : Nat) : Option Nat :=
  if s.flag F.rlRoute_VALID n then some (s.fld F.rlRoute_PORT n) else s.tree.parent

/-- A sequenced packet is sent toward its destination, or dropped without a route. -/
def State.sendTo (s : State) (x : RlPacket) : State :=
  match s.portTo x.dst with
  | some k => if s.rlActive k then s.sendSeq k x else s.unreachable
  | none => s.unreachable

/-- The answer of a fan-out that all its nodes have answered (R64, R509). -/
def fanAnswer (j : Job) (_ : State) : Status × List Byte :=
  let n := leAt j.params 0 2
  (if (List.range n).all fun i => leAt j.params (4 + 4 * i) 2 == 0 then .ok else .partial_, j.params)

/-- The place of a node's record in a fan-out's reply: its mask's nodes in rising order. -/
def fanIndex (mask node : Nat) : Nat := popCount 64 (mask % 2 ^ node)

/-- The node mask of a SCHEDULE's parameters. -/
def fanMask (ps : List Byte) : Nat := (schedAct (readParams 0x0004 ps)).2

/-- A node's answer enters the fan-outs that wait for it. -/
def State.fanResult (s : State) (f : FanOut) (status handle : Nat) : State :=
  let s := { s with tree := { s.tree with fans := s.tree.fans.filter fun g => g != f } }
  s.stepJob f.chan f.tag (fun j =>
    { j with left := j.left - 1
             params := patch j.params (4 + 4 * fanIndex (fanMask j.pkt.params) f.node) (leBytes 2 status ++ leBytes 2 handle) })
    fanAnswer

/-- A read completes to the one that waits for it; for a command its words are put into the reply (R569, R578). -/
def State.readDone (s : State) (x : RemoteRead) (ws : List Word) : State :=
  let s := { s with tree := { s.tree with reads := s.tree.reads.filter fun y => y != x } }
  match x.job with
  | none => s.emit (.completion x.host ws)
  | some (chan, tag, part) =>
    s.stepJob chan tag (fun j => { j with left := j.left - 1
                                          params := patch j.params (12 * part) (ws.flatMap fun w => leBytes 4 w.toNat) })
      fun j _ => (.ok, j.params)

/-- A read fails: all ones to the host; a command of firmware is discarded with NODE_UNREACHABLE. -/
def State.readFails (s : State) (x : RemoteRead) : State :=
  let s := s.unreachable
  match x.job with
  | none => s.readDone x (List.replicate x.n 0xFFFFFFFF)
  | some (chan, tag, _) =>
    let s := { s with tree := { s.tree with reads := s.tree.reads.filter fun y => y.job.map (fun (j : Nat × Nat × Nat) => (j.1, j.2.1)) != some (chan, tag) } }
    s.stepJob chan tag (fun j => { j with left := 0 }) fun _ _ => (.nodeUnreachable, [])

/-- The reads sent and not completed. -/
def State.readsOut (s : State) : List RemoteRead := s.tree.reads.filter fun x => x.tag.isSome

/-- The lowest request TAG not in use. -/
def State.freeTag (s : State) : Nat := ((List.range 32).find? fun t => !s.readsOut.any fun x => x.tag == some t).getD 0

/-- Reads that wait are sent in arrival order while fewer than 32 are out (R569). -/
def pumpReads : List RemoteRead → State → State
  | [], s => s
  | x :: t, s =>
    if 32 ≤ s.readsOut.length then s
    else if !s.routable x.node then pumpReads t (s.readFails x)
    else
      let g := s.freeTag
      let y := { x with tag := some g, at_ := s.tick.slot }
      let s := { s with tree := { s.tree with reads := s.tree.reads.map fun z => if z = x then y else z } }
      pumpReads t (s.sendTo { typ := 0x10, dst := x.node, src := 0, sid := x.sid, tag := g
                              arg := (x.n - 1) * 2 ^ 28 + x.offset % 2 ^ 28 })
def State.pump (s : State) : State := pumpReads (s.tree.reads.filter fun x => x.tag.isNone) s

/-- The routes of the nodes of a mask end; on the root the nodes are lost, and what waits for them fails (R569, R574, R576). -/
def State.loseNodes (s : State) (mask : Nat) : State :=
  let ns := onesOf 64 mask
  let s := ns.foldl (fun s n => s.setFld F.rlRoute_VALID n 0) s
  if !s.tree.root then s
  else
    let s := ns.foldl (fun s n => s.setRoutable n false) s
    let s := if ns.isEmpty then s else s.raise F.rlStat_TOPO 0
    (s.tree.fans.filter fun f => ns.contains f.node).foldl (fun s f => s.fanResult f Status.nodeUnreachable.code 0) s

/-- LOST with a mask goes upstream. -/
def State.sendLost (s : State) (mask : Nat) : State :=
  match s.tree.parent with
  | some k => if mask = 0 || !s.rlActive k then s
    else s.sendSeq k { typ := 0x41, src := s.node?.getD 0, payload := leBytes 8 mask }
  | none => s

/-- The nodes whose route names a port. -/
def State.nodesOn (s : State) (k : Nat) : Nat :=
  (List.range 64).foldl (fun m n => if s.flag F.rlRoute_VALID n && s.fld F.rlRoute_PORT n == k then m + 2 ^ n else m) 0

/-! ### Roles (R571, R572) -/

/-- A peer that may be this device's parent. -/
def State.mayParent (s : State) (k own : Nat) : Bool :=
  s.rlUp k && (match (s.rl k).peer with
    | some h => decide (h.hops < own) && decide (h.hops ≤ 3)
    | none => false)

/-- HOPS of a port's peer. -/
def State.peerHops (s : State) (k : Nat) : Nat := ((s.rl k).peer.map fun h => h.hops).getD 15

/-- The parent and HOPS: the root has none and 0; another device keeps its parent while it may, else takes the lowest port that
offers one. -/
def State.chooseParent (s : State) : Option Nat × Nat :=
  if s.tree.root then (none, 0)
  else
    let keep := match s.tree.parent with
      | some k => if s.mayParent k s.tree.hops then some k else none
      | none => none
    match keep.or ((List.range 4).find? fun k => s.mayParent k 15) with
    | some k => (some k, s.peerHops k + 1)
    | none => (none, 15)

/-- The state of a link in the order of R572, and CROSSED. -/
def State.roleOf (s : State) (k : Nat) : Nat × Bool :=
  match (s.rl k).peer with
  | none => (0, false)
  | some h =>
    if !(s.rl k).lock then (0, false)
    else if (selected h).isNone then (1, false)
    else if !h.flags.testBit 2 then (0, false)
    else
      let own := s.tree.hops
      if s.tree.root && h.flags.testBit 0 then (3, false)
      else if h.hops = own then (if own < 15 then 4 else 2, false)
      else if h.hops < own then
        if s.tree.parent = some k then (7, k != 0 || h.flags.testBit 1)
        else (if h.hops = 4 then 5 else 6, false)
      else if own = 4 then (5, false)
      else if h.flags.testBit 3 && h.hops != own + 1 then (6, false)
      else (8, k == 0 || !h.flags.testBit 1)

/-- A link that is no longer used loses the packets held for it, and a downstream one its nodes (R574). -/
def State.leaveActive (s : State) (k was : Nat) : State :=
  let p := s.rl k
  let s := s.count .rlLostCnt 0 (p.unacked.length + p.waiting.length)
  let s := s.setRl k { p with unacked := [], waiting := [], txSeq := 0, rxSeq := 0, owed := 0, naking := false, replays := 0 }
  if was = 8 then
    let m := s.nodesOn k
    (s.loseNodes m).sendLost m
  else s

/-- The parent's firmware reports a child's path to the root by MSG (R573); the report's bytes are not given. -/
def State.reportChild (s : State) : State :=
  match s.tree.root, s.tree.parent with
  | false, some k =>
    if s.rlActive k then
      (s.sendSeq k { typ := 0x20, dst := 0, src := s.node?.getD 0
                     payload := (List.range 32).map fun i => Config.freeByte s.free i }).draw
    else s
  | _, _ => s

/-- One port's link state is decided again. -/
def State.decideRole (s : State) (k : Nat) : State :=
  let was := s.rlState k
  let now := s.roleOf k
  let stat := b2n (s.rlUp k) * 2 ^ 31 + b2n now.2 * 2 ^ 30 + now.1 * 2 ^ 24 + s.peerHops k % 16 * 2 ^ 20
    + (((s.rl k).peer.bind selected).getD 0)
  let s := s.setReg .rlPortStat k (word stat)
  if was = now.1 then s
  else
    let s := s.raise F.rlStat_TOPO 0
    let s := if now.1 = 3 || now.1 = 4 then s.raise F.rlStat_CONFLICT 0 else s
    let s := if was = 7 || was = 8 then s.leaveActive k was else s
    if now.1 = 8 then s.reportChild else s

/-- Roles are decided again (R572); a change of this device's own fields makes every port send HELLO. -/
def State.decideRoles (s : State) : State :=
  let c := s.chooseParent
  let changed := c.1 != s.tree.parent || c.2 != s.tree.hops
  let s := { s with tree := { s.tree with parent := c.1, hops := c.2 } }
  let s := if changed then (List.range 4).foldl (fun s k => s.onRl k fun p => { p with dirty := p.lock }) s else s
  (List.range 4).foldl (fun s k => s.decideRole k) s

/-- A HELLO arrives (R570). -/
def State.takeHello (s : State) (k : Nat) (h : Hello) : State :=
  if !(s.rl k).lock then s
  else
    let acked := fun (s : State) => (s.myHello k).flags
    let t := s.onRl k fun p => { p with peer := some h }
    let t := if acked t = acked s then t else t.onRl k fun p => { p with dirty := true }
    t.decideRoles

/-- A link goes down: its peer is forgotten (R567, R574). -/
def State.rlDown (s : State) (k : Nat) (lock : Bool) : State :=
  (s.onRl k fun p => { p with lock := lock, peer := none, dirty := false }).decideRoles

/-! ### What a node does with a packet for it -/

/-- The words of a payload. -/
def wordsOf (bs : List Byte) : List Word := (List.range (bs.length / 4)).map fun k => word (leAt bs (4 * k) 4)

/-- Words read from an offset upward, one access after another (R533). -/
def readWords (who : Sender) : Nat → Nat → State → State × List Word
  | _, 0, s => (s, [])
  | y, n + 1, s =>
    let r := s.busRead who y
    let t := readWords who (y + 4) n r.1
    (t.1, r.2 :: t.2)

/-- An RD_REQ is served and answered (R568, R569); a request that breaks R532 is refused. -/
def State.serveRead (s : State) (x : RlPacket) : State :=
  let y := x.arg % 2 ^ 28
  let me := s.node?.getD 0
  if y % 4 ≠ 0 then
    (s.accError 2 x.sid y).sendTo { typ := 0x12, dst := x.src, src := me, sid := x.sid, tag := x.tag, arg := 1 }
  else
    let r := readWords (.tree x.sid) y (x.arg / 2 ^ 28 + 1) s
    r.1.sendTo { typ := 0x12, dst := x.src, src := me, sid := x.sid, tag := x.tag
                 payload := r.2.flatMap fun w => leBytes 4 w.toNat }

/-- A WR_REQ is served. -/
def State.serveWrite (s : State) (x : RlPacket) : Except Nat State :=
  let y := x.arg % 2 ^ 28
  let n := x.payload.length
  if y % 4 ≠ 0 ∨ n % 4 ≠ 0 ∨ n = 0 ∨ 64 < n then .ok (s.accError 2 x.sid y)
  else busWrites (.tree x.sid) y (wordsOf x.payload) s

/-- A command of the root's firmware: a SCHEDULE with mask zero is taken and answered by MSG; nothing else is exchanged (R576). -/
def State.serveMsg (s : State) (x : RlPacket) : State :=
  let (op, p) := parsePacket 0 x.payload
  if leAt x.payload 10 2 = 1 then
    match s.tree.fans.find? fun f => f.node = x.src && f.msg = p.tag with
    | some f => s.fanResult f (leAt x.payload 12 2) (leAt x.payload 16 2)
    | none => s
  else if op ≠ 0x0004 || !s.fwRunning then s
  else
    let a := readParams 0x0004 p.params
    let r := match firstFail [ (!s.versionOk p.version, .versionUnsupported), (a.size != p.params.length, .lengthInvalid),
        ((schedAct a).2 != 0 || schedBad a, .paramInvalid) ] with
      | some e => (e, 0, s)
      | none => s.scheduleHere a
    let reply : Reply :=
      { chan := 0, version := p.version, opcode := op, tag := p.tag, status := r.1.code, inc := 0
        params := if r.1 = .ok then leBytes 2 r.2.1 ++ [0, 0] else [] }
    r.2.2.sendTo { typ := 0x20, dst := x.src, src := s.node?.getD 0, payload := reply.bytes }

/-- The children bound by an ASSIGN pass through, or end here (R573). -/
def State.assign (s : State) (x : RlPacket) : State :=
  let depth := leAt x.payload 0 1
  let n := leAt x.payload 5 1 % 64
  let at_ := s.tree.hops
  if depth = at_ then
    let s := (s.setFld F.glbDevid_NODE 0 n).raise F.rlStat_TOPO 0
    let s := { s with tree := { s.tree with numbered := true, path := (List.range depth).map fun i => leAt x.payload (1 + i) 1 } }
    (List.range 4).foldl (fun s k => s.onRl k fun p => { p with dirty := p.lock }) s
  else
    let k := leAt x.payload (1 + at_) 1 % 4
    let s := s.setReg .rlRoute n (word (2 ^ 31 + k))
    if s.rlState k = 8 then s.sendSeq k x else s.unreachable

/-- A packet that has been accepted from port `k` is served here or sent on (R574). -/
def State.routePacket (s : State) (k : Nat) (x : RlPacket) : Except Nat State :=
  if x.typ = 0x40 then .ok (s.assign x)
  else if x.typ = 0x41 then
    let m := leAt x.payload 0 8 &&& s.nodesOn k
    .ok ((s.loseNodes m).sendLost m)
  else if !([0x10, 0x11, 0x12, 0x20, 0x30].contains x.typ) then .ok (s.count .rlUnkCnt 0 1)
  else if s.node? != some x.dst then .ok (s.sendTo x)
  else match x.typ with
    | 0x10 => .ok (s.serveRead x)
    | 0x11 => s.serveWrite x
    | 0x12 =>
      match s.readsOut.find? fun r => r.tag == some x.tag && r.node == x.src with
      | some r => .ok ((if x.arg = 1 && x.payload.isEmpty then s.readFails r else s.readDone r (wordsOf x.payload)).pump)
      | none => .ok s
    | 0x20 => .ok (s.serveMsg x)
    | _ => .ok (s.raiseBits (if x.src < 32 then .rlNodeIntLo else .rlNodeIntHi) 0 (2 ^ (x.src % 32)))

/-- A packet with a good CRC on a link in use: its acknowledgement, then itself (R567). -/
def State.takePacket (s : State) (k : Nat) (x : RlPacket) : Except Nat State :=
  let s := if x.ackV || x.typ = 0x02 || x.typ = 0x03 then s.ackUpTo k x.ack else s
  if x.typ = 0x03 then
    let p := s.rl k
    let s := if p.unacked.isEmpty then s else (s.setRl k { p with replays := p.replays + 1, sentAt := s.tick.slot }).count .rlReplayCnt k 1
    .ok (if 16 < (s.rl k).replays then s.rlDown k true else p.unacked.foldl (fun s y => s.transmit k y) s)
  else if !x.seqd then .ok (if x.typ = 0x02 then s else s.count .rlUnkCnt 0 1)
  else
    let p := s.rl k
    if x.seq = p.rxSeq then
      let s := s.setRl k { p with rxSeq := seqNext p.rxSeq, naking := false, owed := p.owed + 1
                                  owedAt := if p.owed = 0 then s.tick.slot else p.owedAt }
      let s := if 8 ≤ p.owed + 1 then s.sendAck k false else s
      s.routePacket k x
    else if p.naking then .ok s
    else if seqUpTo (seqPrev p.rxSeq) x.seq then .ok (s.sendAck k false)
    else .ok (s.sendAck k true)

/-! ### The rows of the links -/

/-- PCIE_DATA_LINK_UP (R550, R571): the endpoint's data link layer comes up; the device is the root from here on. The operands are what
the host then writes to the endpoint's configuration: Bus Master Enable, the MSI-X enable and function mask, and the vectors'
masks. With PCIE_DIS strapped the endpoint is off (R644). -/
def execPcieDataLinkUp (bme msixOn fnMask : Bool) (vecMask : Nat) (s : State) : Host.Outcome State Fault Refusal :=
  if s.power.straps.testBit 0 then .next s
  else
    let send := onesOf 64 (if msixOn && !fnMask then s.host.vecPend &&& ((2 ^ 64 - 1) ^^^ (vecMask % 2 ^ 64)) else 0)
    let s := { s with host := { s.host with bme := bme, msixOn := msixOn, fnMask := fnMask, vecMask := vecMask % 2 ^ 64
                                            vecPend := send.foldl (fun m v => m - 2 ^ v) s.host.vecPend } }
    let s := send.foldl (fun s v => s.emit (.msix v)) s
    let s := (s.setFld F.rlStat_ROOT 0 1).setFld F.glbDevid_NODE 0 0
    .next { s with tree := { s.tree with root := true, numbered := false, path := [] } }.decideRoles

/-- RHOGEN_BLOCK_LOCK (R570). -/
def execRhogenBlockLock (k : Nat) (s : State) : Host.Outcome State Fault Refusal :=
  if 4 ≤ k || (s.rl k).lock then .next s
  else .next (s.onRl k fun p => { p with lock := true, peer := none, helloAt := s.tick.slot })

/-- The slots between HELLOs, doubled: 1 µs, 100 µs once up, 1 ms in VERSION (R570). -/
def State.helloEvery (s : State) (k : Nat) : Nat :=
  if s.rlUp k then 312500 else if s.rlState k = 1 then 3125000 else 3125

/-- RHOGEN_HELLO_TIMER (R570): the HELLO that is due, or that a change of a field calls for. -/
def execRhogenHelloTimer (k : Nat) (s : State) : Host.Outcome State Fault Refusal :=
  if 4 ≤ k || !(s.rl k).lock then .next s
  else if (s.rl k).dirty || decide (s.helloEvery k ≤ 2 * (s.tick.slot - (s.rl k).helloAt)) then .next (s.sendHello k)
  else .next s

/-- RHOGEN_HELLO_RECEIVE (R570 to R572). -/
def execRhogenHelloReceive (k : Nat) (h : Hello) (s : State) : Host.Outcome State Fault Refusal :=
  if 4 ≤ k then .next s else .next (s.takeHello k h)

/-- RHOGEN_PACKET_RECEIVE (R566 to R576): a packet and whether its CRC is good. A link that is not ACTIVE carries nothing but HELLO. -/
def execRhogenPacketReceive (k : Nat) (pkt : RlPacket) (crcOk : Bool) (s : State) : Host.Outcome State Fault Refusal :=
  if 4 ≤ k || !(s.rl k).lock then .next s
  else if !crcOk then
    let s := s.count .rlCrcErrCnt k 1
    .next (if s.rlActive k && !(s.rl k).naking then s.sendAck k true else s)
  else if pkt.typ = 0x01 then .next (s.takeHello k (helloOf pkt.payload))
  else if !s.rlActive k then .next s
  else match s.takePacket k pkt with
    | .ok s => .next s
    | .error x => .fault (.unspecifiedWrite x)

/-- RHOGEN_ACK_TIMER (R567): 1 µs after the first accepted packet not yet acknowledged. -/
def execRhogenAckTimer (k : Nat) (s : State) : Host.Outcome State Fault Refusal :=
  if 4 ≤ k || (s.rl k).owed = 0 || decide (2 * (s.tick.slot - (s.rl k).owedAt) < 3125) then .next s
  else .next (s.sendAck k false)

/-- RHOGEN_REPLAY_TIMEOUT (R567): 20 µs without an acknowledgement; after sixteen replays without progress the link goes down. -/
def execRhogenReplayTimeout (k : Nat) (s : State) : Host.Outcome State Fault Refusal :=
  let p := s.rl k
  if 4 ≤ k || p.unacked.isEmpty || decide (s.tick.slot < p.sentAt + 31250) then .next s
  else if 16 ≤ p.replays then .next (s.rlDown k true)
  else
    let s := (s.setRl k { p with replays := p.replays + 1, sentAt := s.tick.slot }).count .rlReplayCnt k 1
    .next (p.unacked.foldl (fun s y => s.transmit k y) s)

/-- RHOGEN_LINK_DOWN (R574): a port's link is lost. -/
def execRhogenLinkDown (k : Nat) (s : State) : Host.Outcome State Fault Refusal :=
  if 4 ≤ k then .next s else .next (s.rlDown k false)

/-! ### Enumeration (R573) -/

/-- The number bound to a path, else the lowest free one. -/
def State.numberFor (s : State) (path : List Nat) : Option Nat :=
  match s.tree.bound.find? fun e => e.2 = path with
  | some e => some e.1
  | none => ((List.range 63).map (· + 1)).find? fun n => !OTable.has s.tree.bound n

/-- NODE_ENUMERATE (R573): the child at a path of downstream ports, reported to the root, gets its number and an ASSIGN. -/
def execNodeEnumerate (path : List Nat) (s : State) : Host.Outcome State Fault Refusal :=
  match path with
  | [] => .next s
  | k :: _ =>
    if !s.tree.root || !s.fwRunning || 4 < path.length || path.any (fun x => 3 < x) || s.rlState k != 8 then .next s
    else match s.numberFor path with
      | none => .next (if s.tree.refused.contains path then s
          else { s with tree := { s.tree with refused := s.tree.refused ++ [path] } })
      | some n =>
        let s := { s with tree := { s.tree with bound := Table.insert s.tree.bound n path, refused := s.tree.refused.filter (· != path) } }
        let s := ((s.setReg .rlRoute n (word (2 ^ 31 + k))).setRoutable n true).raise F.rlStat_TOPO 0
        .next (s.sendSeq k { typ := 0x40, dst := n, payload := byte path.length :: (slice (path.map byte) 0 4) ++ [byte n, 0, 0] })

/-! ### Remote accesses (R568, R569) -/

/-- TREE_REMOTE_ACCESS (R568, R569): a host request to BAR2: its offset, for a write its words, for a read their number and the request's
tag. Node 0's part behaves as BAR0. -/
def execTreeRemoteAccess (who : Sender) (offset : Nat) (write : Bool) (words : List Word) (n : Nat) (enables : Bool) (tag : Nat)
    (s : State) : Host.Outcome State Fault Refusal :=
  let node := offset / 2 ^ 28 % 64
  let y := offset % 2 ^ 28
  let len := if write then words.length else n
  let sid := s.sid who
  if !s.tree.root then .next s
  else if offset % 4 ≠ 0 ∨ len = 0 ∨ 16 < len then .next (s.accError 2 sid y)
  else if write && !enables then .next (s.accError 1 sid y)
  else if node = 0 then
    if write then writeOutcome who y words s
    else
      let r := readWords who y n s
      .next (r.1.emit (.completion tag r.2))
  else if write then
    if s.routable node then
      .next (s.sendTo { typ := 0x11, dst := node, sid := sid, arg := y, payload := words.flatMap fun w => leBytes 4 w.toNat })
    else .next s.unreachable
  else
    let x : RemoteRead := { node := node, offset := y, n := n, sid := sid, host := tag }
    if s.routable node then .next { s with tree := { s.tree with reads := s.tree.reads ++ [x] } }.pump
    else .next (s.unreachable.emit (.completion tag (List.replicate n 0xFFFFFFFF)))

/-- REMOTE_READ_TIMEOUT (R569): 100 µs without a completion. -/
def execRemoteReadTimeout (tag : Nat) (s : State) : Host.Outcome State Fault Refusal :=
  match s.readsOut.find? fun x => x.tag == some tag with
  | none => .next s
  | some x => if s.tick.slot < x.at_ + 156250 then .next s else .next (s.readFails x).pump

/-! ### Interrupts (R546, R550, R575) -/

/-- Whether the OR of a vector is 1. -/
def State.vectorOr (s : State) (v : Nat) : Bool :=
  (List.range 33).any fun src => s.flag F.glbIntRoute_EN src && s.fld F.glbIntRoute_VECTOR src == v && s.intPend src

/-- VECTOR_FIRE (R546, R550, R575): a vector whose OR is 1 and that has not fired; a node that is not the root sends INT to node 0. -/
def execVectorFire (v : Nat) (s : State) : Host.Outcome State Fault Refusal :=
  let r : Reg := if v < 32 then .glbIntFiredLo else .glbIntFiredHi
  if 64 ≤ v || s.regBit r 0 (v % 32) || !s.vectorOr v then .next s
  else
    let s := s.raiseBits r 0 (2 ^ (v % 32))
    if !s.tree.root then .next (s.sendTo { typ := 0x30, dst := 0, src := s.node?.getD 0, arg := v })
    else if s.host.msixOn && !s.host.fnMask && !s.host.vecMask.testBit v then .next (s.emit (.msix v))
    else .next { s with host := { s.host with vecPend := s.host.vecPend ||| 2 ^ v } }

/-! ### Packets (R59, R64, R578) -/

/-- A SCHEDULE for a remote node, its mask zero. -/
def fanPacket (s : State) (ps : List Byte) : List Byte :=
  leBytes 2 s.boot.protoMax ++ leBytes 2 0x0004 ++ leBytes 4 s.tree.msgs ++ leBytes 2 ps.length ++ leBytes 6 0
    ++ patch ps (ps.length - 8) (leBytes 8 0)

/-- What a node reports of its own SCHEDULE: the state, the record, and that nothing is awaited. -/
def fanHere (r : Status × Nat × State) : State × List Byte × Nat := (r.2.2, leBytes 2 r.1.code ++ leBytes 2 r.2.1, 0)

/-- A fan-out is awaited from node `n` after its MSG has been sent. -/
def State.fanSent (s : State) (p : Packet) (n : Nat) : State × List Byte × Nat :=
  ({ s with tree := { s.tree with
      msgs := s.tree.msgs + 1
      fans := s.tree.fans ++ [{ chan := p.chan, tag := p.tag, node := n, msg := s.tree.msgs }] } }, leBytes 4 0, 1)

/-- The root fans a SCHEDULE out to one named node (R64, R576): the state, its record, and whether the answer is still to come. -/
def State.fanOne (s : State) (p : Packet) (a : Args) (n : Nat) : State × List Byte × Nat :=
  if n = 0 then fanHere (s.scheduleHere a)
  else if s.routable n then (s.sendTo { typ := 0x20, dst := n, payload := fanPacket s p.params }).fanSent p n
  else (s, leBytes 2 Status.nodeUnreachable.code ++ leBytes 2 0, 0)

/-- The root takes a SCHEDULE with a nonzero mask: a count and a record for each named node (R509); the reply waits for the nodes'
answers. -/
def State.fanOut (s : State) (p : Packet) (a : Args) (mask : Nat) : Res :=
  let ns := onesOf 64 mask
  let r := ns.foldl (fun (x : State × List Byte × Nat) n =>
    let y := x.1.fanOne p a n
    (y.1, x.2.1 ++ y.2.1, x.2.2 + y.2.2)) (s, leBytes 2 ns.length ++ [0, 0], 0)
  let ok := ns.length = (ns.filter fun n => leAt r.2.1 (4 + 4 * fanIndex mask n) 2 == 0).length
  if r.2.2 = 0 then { status := if ok then .ok else .partial_, params := r.2.1, state := r.1 }
  else
    let j : Job := { op := 0x0004, pkt := p, inc := s.incarnation p.chan, left := r.2.2, params := r.2.1 }
    { status := .ok, params := [], deferred := true
      state := { r.1 with tab := { r.1.tab with jobs := r.1.tab.jobs ++ [j] } } }

/-- SCHEDULE (R59, R64): T, action, its parameters, node mask. -/
def execSchedule (p : Packet) (s : State) : Host.Outcome State Fault Refusal :=
  runPacket 0x0004 p (fun a s =>
    let mask := (schedAct a).2
    let known := fun n => n == 0 || OTable.has s.tree.bound n
    match firstFail [ (!s.tree.root && mask != 0, .paramInvalid), (schedBad a, .paramInvalid),
        (!(onesOf 64 mask).all known, .resourceAbsent) ] with
    | some e => Res.discard s e
    | none =>
      if mask = 0 then
        let r := s.scheduleHere a
        if r.1 = .ok then Res.ok r.2.2 [(.u 16, r.2.1)] else Res.discard s r.1
      else s.fanOut p a mask) s

/-- TREE_STATUS_GET (R578): for each node number the path with two bits for each port, the depth, which is HOPS, the link state, whether
it is routable, and the version; then the number of refused paths and the paths. -/
def execTreeStatusGet (p : Packet) (s : State) : Host.Outcome State Fault Refusal :=
  runPacket 0x0B02 p (fun _ s =>
    let ports := fun (l : List Nat) => (l.take 4).zipIdx.foldl (fun m e => m + e.1 % 4 * 4 ^ e.2) 0
    let node := fun n =>
      let path := (OTable.get? s.tree.bound n).getD []
      let on := s.routable n
      [ (Ty.u 8, ports path), (.u 8, path.length), (.u 8, if on && n != 0 then 7 else 0), (.flag, b2n on), (.u 16, if on then rlVersion else 0) ]
    let refused := s.tree.refused.take 40
    Res.ok s ((List.range 64).flatMap node ++ [(.u 8, refused.length)]
      ++ refused.flatMap fun l => [(Ty.u 8, ports l), (.u 8, l.length)])) s

/-- RL_STATUS_GET (R578): a node; RL_PORT_STAT and both counters of its four ports. Another node's registers are read over the tree. -/
def execRlStatusGet (p : Packet) (s : State) : Host.Outcome State Fault Refusal :=
  runPacket 0x0B03 p (fun a s =>
    let n := a.n 0
    let own := s.node? == some n || (!s.tree.root && s.node?.isNone && n == 0)
    guarded s [ (a.bad, .paramInvalid), (!own && !(s.tree.root && OTable.has s.tree.bound n), .resourceAbsent),
        (!own && !s.routable n, .nodeUnreachable) ]
      (if own then
        Res.ok s ((List.range 4).flatMap fun k => [ (Ty.u 32, (s.reg .rlPortStat k).toNat), (.u 32, (s.reg .rlCrcErrCnt k).toNat),
          (.u 32, (s.reg .rlReplayCnt k).toNat) ])
       else
        let j : Job := { op := 0x0B03, pkt := p, inc := s.incarnation p.chan, left := 4, params := List.replicate 48 0 }
        let reads := (List.range 4).map fun k =>
          ({ node := n, offset := Reg.rlPortStat.offset k, n := 3, sid := 0xFF, job := some (p.chan, p.tag, k) } : RemoteRead)
        { status := .ok, params := [], deferred := true
          state := { s with tab := { s.tab with jobs := s.tab.jobs ++ [j] }
                            tree := { s.tree with reads := s.tree.reads ++ reads } }.pump })) s

end Sys2Proof.Machine
end

