-- ==== Sys2Proof/Machine/Boot.lean ====
section
/-!
DEFINITION. Start-up (R585 to R587), the change of firmware (R597 to R600), the lock and the revocation of the protection set-up, and the
general packets HELLO, ECHO and EVENT_LOG_READ with those of R603 to R605.
-/
namespace Sys2Proof.Machine
open Sys2Proof

/-! ### Start-up (R585 to R587) -/

/-- PROT_BOOT.STAGE. -/
def State.stage (s : State) : Nat := s.fld F.protBoot_STAGE 0

/-- The first start since power-on. -/
def State.powerOnStart (s : State) : Bool := s.fld F.protBoot_STARTS 0 == 1

/-- BOOT_ROM_START (R585, R586, R587, R589): the ROM chooses, verifies and starts boot code; without valid boot code it halts. -/
def execBootRomStart (s : State) : Host.Outcome State Fault Refusal :=
  if !s.tick.locked || s.inCore || s.fwRunning || s.stage != 0 then .next s
  else
    let s1 := (s.setFld F.protBoot_STARTS 0 (min 255 (s.fld F.protBoot_STARTS 0 + 1))).setFld F.protBoot_CAUSE 0 s.boot.nextCause
    let s1 := if s.boot.nextCause = 0 then s1.setFld F.pwrRail_GOOD 0 31 else s1
    match s.chooseBoot with
    | none => .next (s1.setFld F.protBoot_STAGE 0 3)
    | some k =>
      let s2 := (s1.setFld F.protBoot_STAGE 0 1).setFld F.protBoot_BOOT_SLOT 0 (k - 2)
      let r := s2.ks.bootRec.map fun r => if s.boot.nextCause = 0 then { r with bootPref := none } else r
      .next ({ s2 with ks := { s2.ks with bootRec := r } }.advanceFuses k)

/-- Boot code writes one register of the set-up from its own body (R590). -/
def State.setupWrite (s : State) (w : Nat × Word) : State :=
  match regAt w.1 with
  | some (r, i) => if r.isSetup then s.writeReg .cc 0 r i w.2 else s
  | none => s

/-- The firmware slot that the boot record names, the record as boot code leaves it, and whether the start counts as a trial start or is a
revert (R586). -/
structure Choice where
  slot : Option Nat
  record : Option BootRec
  counts : Bool := false
  revert : Bool := false

/-- The choice of a firmware slot before its image is verified (R586). -/
def State.chooseFirmware (s : State) : Choice :=
  match s.ks.bootRec with
  | none => { slot := s.bestFirmware, record := none }
  | some r =>
    if r.trial && (s.powerOnStart || decide (r.deadline ≤ s.tick.slot) || decide (3 ≤ s.boot.trialStarts)) then
      { slot := some r.prev, record := some { r with trial := false }, revert := true }
    else if r.trial then { slot := some r.active, record := some r, counts := true }
    else if s.powerOnStart then { slot := some (r.nextActive.getD r.active), record := some { r with nextActive := none } }
    else { slot := some r.active, record := some r }

/-- The data of a start record (R626): CAUSE, STAGE, slot, BUILD. -/
def State.startRecord (s : State) : State :=
  s.logEvent 0x4000 ([byte (s.fld F.protBoot_CAUSE 0), byte s.stage, byte (s.fld F.protBoot_FW_SLOT 0), 0] ++ leBytes 4 s.boot.build)

/-- Boot code finds no valid firmware and runs in recovery mode (R587). -/
def State.enterRecovery (s : State) : State :=
  { s with boot := { s.boot with build := 0, protoMin := 0x0100, protoMax := 0x0100, handover := false } }.setFld F.protBoot_RECOVERY 0 1

/-- Boot code starts the firmware of a slot. -/
def State.startSlot (s : State) (k : Nat) : State :=
  let p := s.slotProto k
  let s := { s with boot := { s.boot with build := s.slotBuild k, protoMin := p.1, protoMax := p.2 } }
  (s.setFld F.protBoot_FW_SLOT 0 k).setFld F.protBoot_STAGE 0 2

/-- BOOT_CODE_START (R585, R586, R587): boot code writes the set-up of its body, given as offsets and values, and locks it, unless LOCK is
set already; then it chooses and starts a firmware image. -/
def execBootCodeStart (setup : List (Nat × Word)) (s : State) : Host.Outcome State Fault Refusal :=
  if s.stage != 1 || s.fwRunning then .next s
  else
    let s := if s.flag F.protCtl_LOCK 0 then s
      else ((setup.foldl (fun s w => s.setupWrite w) s).setFld F.protWdt_EN 0 1).setFld F.protCtl_LOCK 0 1
    let c := s.chooseFirmware
    let s := { s with ks := { s.ks with bootRec := c.record }
                      boot := { s.boot with trialStarts := s.boot.trialStarts + b2n c.counts } }
    let s := s.setFld F.protBoot_TRIAL 0 (b2n ((c.record.map fun r => r.trial).getD false))
    let s := if c.revert then s.setFld F.protBoot_CAUSE 0 5 else s
    let s := s.kick
    match c.slot with
    | none => .next s.enterRecovery
    | some k =>
      if s.slotValid k then .next (s.startSlot k)
      else if s.slotValid (1 - k) then .next (s.startSlot (1 - k)).startRecord
      else .next s.enterRecovery

/-- Firmware takes what the newest save holds after a power-on (R421, R624). -/
def State.takeSave (s : State) : State :=
  let note := fun (s : State) slot seq (outcome : Nat) =>
    s.logEvent 0x4006 ([byte (s.fld F.pwrSagInfo_SOURCE 0), byte slot, 0, 0] ++ leBytes 4 0 ++ leBytes 8 seq ++ leBytes 4 outcome)
  match s.ks.newest with
  | none => note s 0xFF 0 0
  | some (slot, img) =>
    let l := s.log
    let last := (img.tail.getLast?.map fun (r : LogRec) => r.seq + 1).getD 0
    let fresh := img.tail.filter fun (r : LogRec) => !(l.stored.any fun (x : LogRec) => x.seq = r.seq)
    let l := { l with stored := EventLog.keepNewest (l.stored ++ fresh), gap := l.gap && last != l.nextSeq
                      cfgStored := l.cfgStored ++ img.cfgTail, cfgGap := false }
    let tot := img.drops.foldl (fun t (e : Nat × Nat) => Table.set (fun _ => 0) t e.1 e.2) s.cnt.totals
    let s := { s with log := l, cnt := { s.cnt with totals := tot, totalsSeq := img.dropSeq }
                      time := { s.time with incPend := some img.time.inc } }
    let s := s.logEvent 0x4003 ([byte img.time.servo.state.num, 0, byte img.time.servo.mode, 0] ++ leBytes 4 0)
    note s slot img.seq 1

/-- Firmware loads the Cemond table of the flash (R383, R384): each record it rejects is logged. -/
def State.loadFlashTable (s : State) : State :=
  match s.entryOf 5 with
  | none => s
  | some e =>
    let t := s.flashBytes e.1 e.2
    if !tableOk t e.2 then s
    else
      let bad := (tableRecords t).filter fun r => !(recordOk r && s.hasLane (leAt r 0 2))
      bad.foldl (fun s r => s.logEvent 0x4007 (leBytes 2 (leAt r 0 2) ++ leBytes 1 (leAt r 2 1) ++ [1])) (s.loadTable t).1

/-- The servo after a restart (R421). -/
def State.restartServo (s : State) : State :=
  if s.time.servo.mode = 1 ∨ s.time.servo.mode = 2 then
    s.servoTo (if s.time.servo.state = .locked then .holdover else .freeRun)
  else s.servoTo .stopped

/-- A stale active base is restored from the other base (R415). -/
def State.restartBases (s : State) : State :=
  if s.time.staleAct && !s.flag F.tsCtl_HOST_OWN 0 then
    let other := if s.time.parity then s.time.even else s.time.odd
    let s := (s.loadBase s.time.parity (NetBase.ofNs (other.total + 2 ^ 32))).loadNextBase
    s.logEvent 0x0201 (leBytes 4 (s.view .tsStat 0).toNat)
  else s

/-- The held commands whose time passed while firmware was down are missed with cause 5 (R63). -/
def State.restartHeld (s : State) : State :=
  (s.heldInOrder.filter fun h => h.time ≤ s.netNs).foldl (fun s h => s.missHeld h 5) s

/-- A held swap whose time has passed goes to the first cycle start two epochs on (R329). -/
def State.restartSwaps (s : State) : State :=
  let late := s.path.gclHeld.filter fun g => g.time ≤ s.netNs
  let s := { s with path := { s.path with gclHeld := s.path.gclHeld.map fun g =>
    if g.time ≤ s.netNs then { g with time := cycleAtOrAfter g.base (max 1 g.cycle) (s.netNs + 1342177) } else g } }
  late.foldl (fun s g => s.logEvent 0x1907 (leBytes 2 g.port ++ [0, 0])) s

/-- FIRMWARE_START (R585 step 6): firmware reads its records and begins. -/
def execFirmwareStart (s : State) : Host.Outcome State Fault Refusal :=
  if s.stage != 2 || s.flag F.protBoot_RUNNING 0 || s.inCore then .next s
  else
    let s := if s.powerOnStart then s.takeSave else s.restartServo
    let s := if s.boot.handover then s else s.loadFlashTable
    let s := (s.setFld F.tickCtl_SCH_EN 0 1).answerJournal
    let s := s.restartBases.restartHeld.restartSwaps
    let s := { s with boot := { s.boot with handover := false } }.kick.startRecord
    .next (s.setFld F.protBoot_RUNNING 0 1).checkAll

/-! ### Protection (R594, R595) -/

/-- PROT_LOCK (R595): a write of PROT_CTL. -/
def execProtLock (who : Sender) (v : Word) (s : State) : Host.Outcome State Fault Refusal :=
  .next (s.ccWrite who (Reg.protCtl.offset 0) fun s => s.lockWrite v.toNat)

/-- DMA_WINDOW_REVOKE (R594): a write of PROT_DMA_REVOKE by the control complex or a secure SID. -/
def execDmaWindowRevoke (who : Sender) (v : Word) (s : State) : Host.Outcome State Fault Refusal :=
  .next (s.secureWrite who (Reg.protDmaRevoke.offset 0) fun s => s.revoke v.toNat)

/-! ### The change of firmware (R597 to R600) -/

/-- The conditions of R597. -/
def State.mayStartSwitch (s : State) : Bool :=
  (!s.netValid || s.flag F.tsCtl_HOST_OWN 0
    || (s.time.arm (!s.time.parity) && decide (s.whorlNs ≤ 4044967296)))
  && s.ks.sessions.isEmpty

/-- FW_SWITCH (R597, R598): firmware stops consuming when the conditions hold, lets its commands end for at most 10 ms, and resets the
control complex with its state in the handover region. -/
def execFwSwitch (s : State) : Host.Outcome State Fault Refusal :=
  match s.boot.switchTo with
  | none => .next s
  | some (_, cause) =>
    if !s.fwRunning then .next s
    else
      match s.boot.switchAt with
      | none =>
        if !s.mayStartSwitch then .next s
        else if s.tab.jobs.isEmpty then .next (s.ccReset cause true)
        else .next { s with boot := { s.boot with switchAt := some s.tick.slot } }
      | some t =>
        if s.tab.jobs.isEmpty || decide (t + 15625000 ≤ s.tick.slot) then .next (s.ccReset cause true) else .next s

/-- The boot record as the open sessions will leave it. -/
def State.nextRecord (s : State) : BootRec :=
  s.ks.sessions.foldl (fun (r : BootRec) x => match x.data with
    | .bootRecord b _ _ => b
    | _ => r) (s.ks.bootRec.getD {})

/-- The record and the switch of a revert (R600). -/
def BootRec.revert (r : BootRec) : SessionData := .bootRecord { r with active := r.prev, trial := false } (some (r.prev, 5)) none

/-- TRIAL_DEADLINE (R600): the slot count reaches DEADLINE while the trial firmware runs; it reverts and logs it. -/
def execTrialDeadline (s : State) : Host.Outcome State Fault Refusal :=
  let r := s.nextRecord
  if !s.flag F.protBoot_RUNNING 0 || !r.trial || decide (s.tick.slot < r.deadline) || s.boot.switchTo.isSome then .next s
  else .next ((s.ownSession 64 r.revert).logEvent 0x4000 ([5, 2, byte r.prev, 0] ++ leBytes 4 s.boot.build))

/-! ### General packets (R498, R508) -/

/-- HELLO (R498): MIN and MAX. -/
def execHello (p : Packet) (s : State) : Host.Outcome State Fault Refusal :=
  runPacket 0x0001 p (fun a s =>
    let lo := s.boot.protoMin
    let hi := s.boot.protoMax
    let sel := min (a.n 1) hi
    if a.bad || decide (a.n 1 < a.n 0) then Res.discard s .paramInvalid
    else if sel < max (a.n 0) lo then
      { status := .versionUnsupported, params := emitBlock [(.u 16, lo), (.u 16, hi), (.u 16, 0)], state := s }
    else Res.ok s [ (.u 16, lo), (.u 16, hi), (.u 16, sel), (.u 32, s.boot.build), (.u 8, s.fld F.protBoot_FW_SLOT 0), (.u 8, p.chan),
      (.flag, b2n (decide (p.chan < 4))), (.u 32, s.incarnation p.chan), (.u 8, 32) ]) s

/-- ECHO (R508): its parameter bytes come back. -/
def execEcho (p : Packet) (s : State) : Host.Outcome State Fault Refusal :=
  runPacket 0x0002 p (fun _ s => { status := .ok, params := p.params, state := s }) s

/-- EVENT_LOG_READ (R508): FIRST, MAX, and the buffer. -/
def execEventLogRead (p : Packet) (s : State) : Host.Outcome State Fault Refusal :=
  runPacket 0x0003 p (fun a s =>
    let got := (s.log.all.filter fun (r : LogRec) => decide (a.n 0 ≤ r.seq)).take (a.n 1)
    guarded s ([ (a.bad || a.n 1 == 0 || decide (65536 < a.n 1), .paramInvalid) ] ++ dmaChecks s p (a.n 2) true (64 * a.n 1))
      (dmaWrite s p (a.n 2) (got.flatMap LogRec.bytes) fun s =>
        Res.ok s [ (.u 32, got.length), (.u 64, (got.head?.map fun (r : LogRec) => r.seq).getD 0), (.u 64, s.log.nextSeq) ])) s

/-! ### Images (R603 to R605) -/

/-- The firmware slot that runs; none in recovery mode. -/
def State.runningSlot (s : State) : Option Nat :=
  if s.flag F.protBoot_RUNNING 0 then some (s.fld F.protBoot_FW_SLOT 0) else none

/-- A slot that must not be written: it runs, it is the way back of a trial, or it started this power-on. -/
def State.slotBusy (s : State) (k : Nat) : Bool :=
  s.runningSlot == some k || (s.nextRecord.trial && s.nextRecord.prev == k) || k == 2 + s.fld F.protBoot_BOOT_SLOT 0

/-- A slot is erased, then written with an image. -/
def State.writeSlot (s : State) (k : Nat) (img : List Byte) : State :=
  match s.entryOf (slotKind k) with
  | none => s
  | some e =>
    let erased := s.flash.filter fun x => decide (x.1 < e.1) || decide (e.1 + s.slotSize k ≤ x.1)
    { s with flash := programFlash erased e.1 (img.take (8192 + leAt img 16 4)) }

/-- FW_IMAGE_WRITE (R603): SLOT and the buffer with the image. -/
def execFwImageWrite (p : Packet) (s : State) : Host.Outcome State Fault Refusal :=
  runPacket 0x0C00 p (fun a s =>
    let k := a.n 0
    let img := slice p.dma 0 (dmaLen (a.n 1))
    guarded s ([ (a.bad || decide (3 < k), .paramInvalid) ] ++ dmaChecks s p (a.n 1) false 0
        ++ [ (s.slotBusy k, .busy), (p.dmaFault, .dmaFault), (s.imageFault k img != 0, .imageInvalid) ])
      (let t := s.writeSlot k img
       if t.slotValid k then Res.ok t [] else Res.discard t .imageInvalid)) s

/-- What an accepted FW_ACTIVATE writes (R597, R600, R604). -/
def State.activation (s : State) (k mode trialS : Nat) : SessionData :=
  let r := s.nextRecord
  match mode with
  | 0 => .bootRecord { r with active := k, prev := s.runningSlot.getD r.active, trial := true
                              deadline := s.tick.slot + trialS * Config.slotsPerSec } (some (k, 4)) none
  | 1 => .bootRecord { r with trial := false } none (some k)
  | 2 => r.revert
  | _ => .bootRecord (if k < 2 then { r with nextActive := some k } else { r with bootPref := some k }) none none

/-- FW_ACTIVATE (R604): SLOT, MODE, TRIAL_S. -/
def execFwActivate (p : Packet) (s : State) : Host.Outcome State Fault Refusal :=
  runPacket 0x0C01 p (fun a s =>
    let k := a.n 0
    let mode := a.n 1
    let r := s.nextRecord
    guarded s
      [ (a.bad || decide (3 < k) || decide (3 < mode) || (mode == 0 && (decide (a.n 2 < 10) || decide (3600 < a.n 2))), .paramInvalid),
        (decide (2 ≤ k) && mode != 3, .protLocked),
        (mode == 0 && (s.runningSlot == some k || r.trial), .busy),
        ((mode == 1 || mode == 2) && (!r.trial || r.active != k), .paramInvalid),
        ((mode == 0 || mode == 3) && !s.slotValid k, .imageInvalid), (s.ksFaulted, .ksFault) ]
      (let t := if mode = 0 then { s with boot := { s.boot with trialStarts := 0 } } else s
       if s.energyFor 64 then t.sessionCommand 0x0C01 p 64 (s.activation k mode (a.n 2)) else s.sessionCommand 0x0C01 p 64 (s.activation k mode (a.n 2)))) s

/-- FW_STATUS_GET (R605): for each slot its fault code (0 valid), TYPE, SVN, BUILD and range; the running boot and firmware slots, the boot
record, the trial starts, the SVN minima and PROT_BOOT. -/
def execFwStatusGet (p : Packet) (s : State) : Host.Outcome State Fault Refusal :=
  runPacket 0x0C02 p (fun _ s =>
    let slot := fun k => [ (Ty.u 8, s.slotFault k), (.u 8, slotType k), (.u 32, s.slotSvn k), (.u 32, s.slotBuild k),
      (.u 16, (s.slotProto k).1), (.u 16, (s.slotProto k).2) ]
    let r := s.ks.bootRec.getD {}
    Res.ok s ((List.range 4).flatMap slot ++ [ (.u 8, 2 + s.fld F.protBoot_BOOT_SLOT 0), (.u 8, s.fld F.protBoot_FW_SLOT 0),
      (.u 8, r.active), (.u 8, r.prev), (.flag, b2n r.trial), (.u 64, r.deadline), (.u 8, s.boot.trialStarts),
      (.u 8, s.fuses.svnMinBoot), (.u 8, s.fuses.svnMinFw), (.u 32, (s.reg .protBoot 0).toNat) ])) s

/-- The PROT registers in offset order, then MB_BIND. -/
def protWords : List (Reg × Nat) :=
  [ (.protCtl, 0), (.protStat, 0), (.protIe, 0), (.protViolAddr, 0), (.protViolInfo, 0), (.protViolCnt, 0), (.protRst, 0), (.protWdt, 0),
    (.protBoot, 0), (.protDmaRevoke, 0) ]
  ++ ((List.range 63).flatMap fun i => [(Reg.protReqId, i), (.protReqCfg, i)])
  ++ ((List.range 32).flatMap fun j => [(Reg.protFwrBase, j), (.protFwrLimit, j), (.protFwrPerm, j)])
  ++ ((List.range 16).flatMap fun k => [(Reg.protDmaBaseLo, k), (.protDmaBaseHi, k), (.protDmaLimLo, k), (.protDmaLimHi, k), (.protDmaCfg, k)])
  ++ (List.range 16).map fun n => (Reg.mbBind, n)

/-- PROT_STATUS_GET (R605): every PROT register and every MB_BIND, in a buffer where the packet names one; else as many words as a reply
holds. -/
def execProtStatusGet (p : Packet) (s : State) : Host.Outcome State Fault Refusal :=
  runPacket 0x0C03 p (fun a s =>
    let bytes := protWords.flatMap fun r => leBytes 4 (s.reg r.1 r.2).toNat
    if p.params.isEmpty then { status := .ok, params := bytes.take 496, state := s }
    else guarded s (dmaChecks s p (a.n 0) true bytes.length) (dmaWrite s p (a.n 0) bytes fun s => Res.ok s [])) s

end Sys2Proof.Machine
end

