-- ==== Sys2Proof/Machine/Mac.lean ====
section
/-!
DEFINITION. The ends of frames (R213 to R216, R320, R353 to R355): on receive the outcome of R353 and what follows from it, on transmit
the end of the line's frame.
-/
namespace Sys2Proof.Machine
open Sys2Proof

/-! ### Transmit -/

/-- TRANSMIT_END (R213, R343, R351, R356, R363, R451): the last byte of the frame on port `p`'s line leaves in this slot. -/
def execTransmitEnd (p : Nat) (s : State) : Host.Outcome State Fault Refusal :=
  match s.lineTx p with
  | none => .next s
  | some t =>
    let last := fun len => (t.startAt + (len + 8) * 3200 / max 1 (s.rateGbps p)) / 256
    match t.copy with
    | none =>
      if s.tick.slot < last 64 then .next s
      else .next (((s.setTx (2 * p) none).txGood p t.ctl).count .macTxCtrlCnt p 1 |>.emit (.frame p t.ctl) |>.standbyCheck p)
    | some c =>
      match s.copy? c.fid p, s.frame? c.fid with
      | some c, some f =>
        let done := t.under || (c.whole && c.cells = [] && !c.lost && (f.ended.isSome || f.entersWhole))
        if !done || decide (s.tick.slot < last (max 64 t.got.length)) then .next s
        else .next ((s.endTx p t c f).standbyCheck p).settle
      | _, _ => .next (s.setTx (2 * p) none)

/-! ### Receive -/

/-- The outcome of a received frame of which no link loss is known (R353 rows 3 to 7): the reason, 0 for a good frame. -/
def rxOutcome (limit : Nat) (pcsErr : Bool) (bs : List Byte) : Nat :=
  if bs.length < 64 then 0x02
  else if limit < bs.length then 0x03
  else if pcsErr then 0x05
  else if bs.drop (bs.length - 4) ≠ fcsBytes (bs.take (bs.length - 4)) then 0x01
  else 0

/-- The counters of a frame's row of R353. -/
def State.countRow (s : State) (p reason : Nat) (bs : List Byte) : State :=
  match reason with
  | 0 => s.rxGood p bs
  | 1 =>
    let s := s.count .macRxFcsErrCnt p 1
    if bs.drop (bs.length - 4) = stompBytes (bs.take (bs.length - 4)) then s.count .macRxStompCnt p 1 else s
  | 2 => s.count .macRxRuntCnt p 1
  | 3 => (s.count .macRxOversizeCnt p 1).raise F.macStat_RX_OVERSIZE p
  | _ => s.count .macRxPcsErrCnt p 1

/-- A copy that is in transmission will end stomped (R216). -/
def State.spoilLine (s : State) (fid port : Nat) : State :=
  match s.lineTx port with
  | some t => if t.copy.any fun c => c.fid = fid then s.setTx (2 * port) (some (t.spoil 0)) else s
  | none => s

/-- The staging charge of a copy whose frame has ended (R199, R216). -/
def State.reviseStaged (s : State) (f : Frame) (c : Staged) : State :=
  let n := max c.sent (cellsFor (f.body.length + 4))
  let put := fun (s : State) => s.inPath fun p => { p with staged := p.staged.map fun x => if x = c then { x with charge := n } else x }
  let extra := n - c.charge
  let room := c.inSpill || extra == 0 || decide (extra ≤ s.lossyFree c.ing)
    || (c.lossless && decide (s.pairCells c.port c.cls + extra ≤ s.onDieReserve c.port c.cls))
  let s := if room then put s
    else c.dests.foldl (fun s d => (s.spoilLine f.id d.1).lateDrop f.id d.1 0x28) s
  if c.lossless then s.xoffCheck c.port c.cls else s

/-- A frame charged other than its true length has ended: its shapers get the difference, and the end of its occupancy is known
(R320). -/
def State.reviseTx (s : State) (f : Frame) (k : Nat) (t : Tx) : State :=
  let p := k / 2
  match t.copy with
  | none => s
  | some c =>
    let len := max 64 (f.body.length + 4)
    let charge := s.chargeOf p len
    let endAt := t.startAt + s.occSlots p len
    let s := s.chargeShapers p c.queue ((charge : Int) - t.charged)
    (s.setTx k (some { t with charged := charge, endAt := endAt })).setSched p { s.sched p with lineEnd := endAt }

/-- The true length of a frame is known: charges are revised wherever a copy of it stands. -/
def State.revise (s : State) (f : Frame) : State :=
  let long := f.md.hdrLenV && decide (max f.md.hdrLen 64 < f.body.length + 4) && f.mir.isNone
    && (f.stage == .fabric || f.stage == .released)
  let s := if long then s.count .fabLenOverCnt (Config.sliceOf f.port) 1 else s
  let s := (s.path.staged.filter fun c => c.fid = f.id).foldl (fun s c => s.reviseStaged f c) s
  (s.path.tx.filter fun e => e.2.copy.any fun c => c.fid = f.id).foldl (fun s e => s.reviseTx f e.1 e.2) s

/-- The frame's end is known: it and its ingress mirror copies have ended. -/
def State.endGood (s : State) (f : Frame) : State :=
  let s := (s.withCopies f.id).foldl (fun s g => s.onFrame g.id fun g => { g with ended := some s.tick.slot }) s
  (s.withCopies f.id).foldl (fun s g => s.revise g) s

/-- FRAME_END (R214, R216, R353, R355, R359): the frame in reception on front port `p` ends, at its terminate or at the maximum frame.
`pcsErr` says that a block of it was marked in error. -/
def execFrameEnd (p : Nat) (pcsErr : Bool) (s : State) : Host.Outcome State Fault Refusal :=
  match s.oldest p fun f => f.ended.isNone with
  | none => .next s
  | some f =>
    if 512 ≤ p || s.received f < min f.bytes.length f.limit then .next s
    else
      let r := rxOutcome f.limit pcsErr f.bytes
      let dead := fun (s : State) => s.onFrame f.id fun f => { f with ended := some s.tick.slot, stage := .dead }
      match f.stage with
      | .refused => .next (dead s).settle
      | .detector => .next ((dead s).detect p f.bytes (r == 0)).settle
      | .control => .next (if r = 0 then ((dead s).countRow p 0 f.bytes).control p f.bytes
          else ((dead s).countRow p r f.bytes).drop p r).settle
      | .dead => .next ((dead s).countRow p r f.bytes).settle
      | _ =>
        let s := s.countRow p r f.bytes
        if r = 0 then .next (s.endGood f).settle
        else if r = 2 then .next ((dead s).drop p 0x02).settle
        else
          let s := if r = 3 then s.onFrame f.id fun f => f.cutTo f.limit else s
          let s := s.endBad f r
          .next ((match s.frame? f.id with
            | some g => s.revise g
            | none => s).settle)

end Sys2Proof.Machine
end

