-- ==== Sys2Proof/Machine/Ports.lean ====
section
/-!
DEFINITION. The commands that configure ports (R81, R82, R364 to R367): configuration and removal, modes, status and wake patterns.
-/
namespace Sys2Proof.Machine
open Sys2Proof

/-! ### Removal (R365) -/

/-- The registers that hold a port's settings, with how many each port has (R365 step 5). -/
def portSettings : List (Reg × Nat) :=
  [ (.macMode, 1), (.qmQmode, 1), (.prsPortcfg, 1), (.prsPortprof, 1), (.qmPortCfg, 1), (.qmQpool, 1), (.qmQlim, 16), (.fcCfg, 1),
    (.schPortCfg, 1), (.schPshpRate, 1), (.schPshpBurst, 1), (.schClsQuant, 8), (.schQshpRate, 16), (.schQshpBurst, 16) ]
  ++ [ (.gclGuard, 1), (.gclOperCycle, 1), (.gclOperLen, 1), (.gclOperPos, 1), (.gclCycStart, 1), (.gclSwapTgt, 1), (.gclSwapCtl, 1),
    (.gclAdminCycle, 1), (.gclOperMaxwin, 8), (.gclAdminMaxwin, 8), (.gclAdminDur, 1024), (.gclAdminGates, 1024),
    (.gclOperDur, 1024), (.gclOperGates, 1024) ]
  ++ [ (.tsPortDomLo, 1), (.tsPortDomHi, 1), (.tsPortDomEn, 1), (.tsPortTrim, 1), (.macWakeCtl, 1), (.macWakeMask, 32),
    (.macWakePcfg, 8), (.mirPortSrc, 1) ]

/-- Whether a register of the table is a setting of port `p`. -/
def isSettingOf (p key : Nat) : Bool :=
  portSettings.any fun x => key % 512 = x.1.ctorIdx && key / 512 / x.2 = p

/-- Put a register at its reset value. -/
def State.resetReg (s : State) (r : Reg) (i : Nat) : State := s.setReg r i (r.resetAt i)

/-- The settings of a removed port go back to their reset values (R365 step 5). -/
def State.resetSettings (s : State) (p : Nat) : State :=
  let q := Config.quadOf p
  let s := (List.range 16).foldl (fun s i => s.keepRate (16 * p + i)) (s.keepRate (portShaper p))
  let s := { s with regs := s.regs.filter fun e => !isSettingOf p e.1 }
  let s := (List.range 16).foldl (fun s i =>
    let k := q * 8256 + 16 * p + i
    ((s.resetReg .dtQcfgRsv k).resetReg .dtQcfgMax k).resetReg .dtQcfgRb k) s
  let s := (List.range 4).foldl (fun s q => s.resetReg .tbPortLearn (q * 516 + p)) s
  let s := s.inPath fun t => { t with
    gcl := Table.erase t.gcl p, gclHeld := t.gclHeld.filter fun (g : GclHeld) => g.port != p
    sched := Table.erase t.sched p, flow := Table.erase t.flow p, linkPar := Table.erase t.linkPar p
    hold := Table.erase t.hold p, wakeAt := Table.erase t.wakeAt p, linkSince := Table.erase t.linkSince p }
  (((s.resetReg .fcStat p).setFld F.macModeStat_SB_ACT p 0).setFld F.macModeStat_GCL_ACT p 0).setPortState p 2

/-- Firmware logs the classification entries whose REDIR_PORT is a removed number, and the mirror sessions whose DEST it is (R365). -/
def State.logDangling (s : State) (p : Nat) : State :=
  let cls := s.tab.cls.filter fun (e : Nat × ClsEnt) =>
    e.2.valid && e.2.act.testBit 7 && e.2.act / 2 ^ 8 % 2 ^ 10 == p
  let s := cls.foldl (fun s e =>
    s.logEvent 0x0D01 (leBytes 4 (s.reg .clsStat (e.1 / 32768)).toNat ++ leBytes 2 p ++ leBytes 2 (e.1 % 32768))) s
  let mir := (List.range 8).filter fun m => s.fld F.mirSessCfg_KIND m != 1 && s.fld F.mirSessCfg_DEST m == p && s.flag F.mirSessCfg_VALID m
  mir.foldl (fun s m => s.logEvent 0x0B00 (leBytes 4 (s.reg .mirStat 0).toNat ++ leBytes 2 p ++ leBytes 2 m)) s

/-- The tables of a quadrant forget a port number (R365 steps 2 to 4): address entries, next hops, replication sets, VLAN members
and the router interface. -/
def State.forgetPort (p : Nat) (s : State) (q : Nat) : State :=
  let s := s.flushAddr q fun e => !e.isSet && e.dest == p
  let hops := s.tab.nh.filter fun (e : Nat × NextHop) => e.1 / 65536 == q && e.2.kind == 1 && e.2.port == p
  let s := hops.foldl (fun s e => s.setNh q (e.1 % 65536) { e.2 with kind := 0 }) s
  let off := fun (m : Nat) => if m.testBit p then m - 2 ^ p else m
  let s := { s with tab := { s.tab with
    repl := Table.mapListed (fun _ => (0 : Nat)) (fun k m => if k / 16384 = q then off m else m) s.tab.repl
    vlan := Table.mapListed (fun _ => ({} : VlanEnt))
      (fun k v => if k / 4096 = q then { v with member := off v.member } else v) s.tab.vlan } }
  s.bindPort q p 0

/-- A configured port number is removed (R365). -/
def State.removePort (s : State) (p : Nat) : State :=
  let s := (s.flush p).1
  let s := s.forQuads (State.forgetPort p)
  (s.resetSettings p).logDangling p

/-! ### PORT_CONFIG (R364) -/

/-- RB_LOW and RB_HIGH of a port's queues, in units of 16 cells: 640 ns of its rate, and twice that (R267). -/
def State.setReadBack (s : State) (p : Nat) : State :=
  let low := cdiv (s.rateGbps p * 640 / 8 / 128) 16
  (List.range 16).foldl (fun s i =>
    s.setReg .dtQcfgRb (Config.quadOf p * 8256 + 16 * p + i) (word (2 * low * 2 ^ 16 + low))) s

/-- The bound of R317 on a port's quanta: its maximum frame and a positive LEN_ADJ. -/
def State.quantBound (s : State) (p : Nat) (adj : Int) : Nat := s.mfs p + adj.toNat

/-- LEN_ADJ of a port. -/
def State.lenAdj (s : State) (p : Nat) : Int := toSigned 7 (s.fld F.schPortCfg_LEN_ADJ p)

/-- Firmware raises the quanta that fall below their bound, and logs the change (R334). -/
def State.raiseQuanta (s : State) (p : Nat) : State :=
  let bound := s.quantBound p (s.lenAdj p)
  let low := (List.range 8).filter fun c => decide (s.fld F.schClsQuant_QUANTUM (8 * p + c) < bound)
  if low = [] then s
  else (low.foldl (fun s c => s.setFld F.schClsQuant_QUANTUM (8 * p + c) bound) s).logEvent 0x1804
    (leBytes 4 (s.reg .schStat p).toNat ++ leBytes 2 p)

/-- The configured ports that a span of `w` lanes at `p` would hide (R21, R365). -/
def State.hiddenBy (s : State) (p w : Nat) : List Nat :=
  ((List.range w).map (p + ·)).filter fun x => x != p && s.configured x

/-- The acceptance of a PORT_CONFIG (R364): removals, then headroom, quanta and read-back thresholds, then MAC_PORT_CFG. The new
mode and maximum frame stand in their register while firmware computes from them; EN follows last. -/
def State.portConfig (s : State) (p mode : Nat) (en : Bool) (mfs addr : Nat) (pause : Bool) : State :=
  let old := s.portMode p
  let change := decide (mode != old)
  let gone := (if change && mode == 0 then [p] else []) ++ (if change then s.hiddenBy p (modeRow mode).1 else [])
  let s := gone.foldl (fun s x => s.removePort x) s
  let s := (s.setFld F.macPortCfg_MODE p mode).setFld F.macPortCfg_MFS p mfs
  let s := if change && old == 0 then s.setPortState p 2 else s
  let s := if change && mode != 0 then s.setReadBack p else s
  let s := (s.recompute (Config.sliceOf p)).raiseQuanta p
  let s := ((s.setReg .macAddrHi p (word (addr / 2 ^ 32 % 2 ^ 16))).setReg .macAddrLo p (word (addr % 2 ^ 32))).setFld
    F.macRxCfg_PAUSE_EN p (b2n pause)
  s.writePortCfg p (word (b2n en * 2 ^ 31 + mode * 2 ^ 16 + mfs))

/-- PORT_CONFIG (R364): port, MODE, EN, MFS, the port's address and PAUSE_EN. -/
def execPortConfig (p : Packet) (s : State) : Host.Outcome State Fault Refusal :=
  runPacket 0x0100 p (fun a s =>
    let port := a.n 0
    let mode := a.n 1
    let row := modeRow mode
    let lanes := (List.range row.1).map (port + ·)
    let t := s.portConfig port mode (a.f 2) (a.n 3) (a.n 4) (a.f 5)
    guarded s
      ([ (!s.hasPort port || (decide (port < 512) && lanes.any fun l => !s.hasLane l), .resourceAbsent),
         (a.bad || decide (512 ≤ port) || decide (0x10 < mode) || decide (a.n 3 < 1518) || decide (10240 < a.n 3), .paramInvalid),
         (port % max 1 row.1 != 0, .portAlign),
         (lanes.any (fun l => (s.ownerOfLane l).any fun o => o != port), .lanesInUse),
         (mode != s.portMode port && s.flag F.macPortCfg_EN port, .portActive),
         (lanes.any (fun l => (s.record? l row.2.1).isNone), .cemondMissing) ]
        ++ limitChecks s t (Config.quadOf port))
      (Res.ok t [])) s

/-! ### PORT_MODE_SET (R81) -/

/-- Firmware writes LL_MASK (R311); under LOSSLESS the classes that leave it are released, and those that join it may be due. -/
def State.setLlMask (s : State) (p m : Nat) : State :=
  let old := s.fld F.fcCfg_LL_MASK p
  let s := s.setFld F.fcCfg_LL_MASK p m
  if !s.flag F.macMode_LOSSLESS p then s
  else
    let left := old &&& (255 ^^^ m)
    let f := s.flow p
    let off := s.fld F.fcStat_TX_XOFF p ||| f.req
    let f := { f with
      req := f.req &&& (255 ^^^ left), due := f.due ||| (off &&& left)
      timers := (List.range 8).map fun c => if left.testBit c then 0 else f.timers.getD c 0 }
    let s := (s.setFlow p f).showPaused p
    (onesOf 8 (m &&& (255 ^^^ old))).foldl (fun s c => s.xoffCheck p c) s

/-- What a PORT_MODE_SET asks for: the bits of MAC_MODE and of QM_QMODE that are set and cleared, the lossless class mask, and T. -/
structure ModeAsk where
  port : Nat
  set : Nat
  clr : Nat
  deepSet : Nat
  deepClr : Nat
  ll : Nat
  time : Nat
  deriving DecidableEq, Repr

/-- The words that firmware writes into MAC_MODE and QM_QMODE, their masks in [31:16]. -/
def ModeAsk.modeWord (k : ModeAsk) : Nat := (k.set ||| k.clr) * 2 ^ 16 + k.set
def ModeAsk.deepWord (k : ModeAsk) : Nat := (k.deepSet ||| k.deepClr) * 2 ^ 16 + k.deepSet

/-- The classes' mask, used when LOSSLESS is set (R81). -/
def State.askLl (s : State) (k : ModeAsk) : State := if k.set.testBit 1 then s.setLlMask k.port k.ll else s

/-- The plan that a PORT_MODE_SET would lead to, whenever it takes effect: what checks 3 and 4 look at. -/
def State.modePlan (s : State) (k : ModeAsk) : State :=
  let old := (s.reg .macMode k.port).toNat
  let s := s.setReg .macMode k.port (word ((old &&& (0xFFFF ^^^ k.clr)) ||| k.set))
  let s := if k.set.testBit 1 then s.setFld F.fcCfg_LL_MASK k.port k.ll else s
  if k.port < 512 then s.recompute (Config.sliceOf k.port) else s

/-- A PORT_MODE_SET that takes effect at once. -/
def State.modeNow (s : State) (k : ModeAsk) : State :=
  let s := ((s.askLl k).writeMode k.port k.modeWord).writeDeep k.port k.deepWord
  if k.port < 512 then s.recompute (Config.sliceOf k.port) else s

/-- A PORT_MODE_SET with a time: two REGWRITE entries due in one slot (R55). A queue whose deep headroom the command brings about is
not cleared by it. -/
def State.modeLater (s : State) (k : ModeAsk) (forced : Nat) : State × Nat :=
  let k := { k with deepClr := k.deepClr &&& (0xFFFF ^^^ forced) }
  let acts : List SchedAct := [ { action := 2, addr := Reg.macMode.offset k.port, data := k.modeWord },
    { action := 2, addr := Reg.qmQmode.offset k.port, data := k.deepWord } ]
  let r := (s.askLl k).acceptHeld k.time acts (some k.port)
  (if k.port < 512 then r.1.recompute (Config.sliceOf k.port) else r.1, r.2)

/-- PORT_MODE_SET (R81): port, set and clear masks of the modes, set and clear masks of DEEP, the lossless class mask, T. -/
def execPortModeSet (p : Packet) (s : State) : Host.Outcome State Fault Refusal :=
  runPacket 0x0101 p (fun a s =>
    let port := a.n 0
    let k : ModeAsk := { port := port, set := a.n 1, clr := a.n 2 &&& modeBits port, deepSet := a.n 3, deepClr := a.n 4, ll := a.n 5
                         time := unpackNet (a.n 6) }
    let timed := a.n 6 != 0
    let t := s.modePlan k
    let forced := bitsWhere 8 fun i => t.deepHeadroom (16 * port + i) != 0
    guarded s
      ([ (a.bad, .paramInvalid), (!s.hasPort port, .resourceAbsent), (s.hidden port, .lanesInUse),
         (a.n 1 &&& a.n 2 != 0 || a.n 3 &&& a.n 4 != 0 || (a.n 1).testBit 2 || (a.n 2).testBit 2
           || a.n 1 &&& (0xFFF ^^^ modeBits port) != 0, .modeInvalid),
         ((List.range 8).any (fun i => (a.n 4).testBit i && s.deepHeadroom (16 * port + i) != 0), .modeInvalid) ]
        ++ (if port < 512 then limitChecks s t (Config.quadOf port) else [])
        ++ (if timed then s.timeChecks k.time ++ [(decide (1024 ≤ s.tick.held.length), .schedFull)] else []))
      (if timed then
        let r := s.modeLater k forced
        Res.ok r.1 [(.u 16, r.2)]
      else Res.ok (s.modeNow k) [])) s

/-- The handle of the pending timed mode change of a port; 0 when none is pending (R82). -/
def State.modeHandle (s : State) (p : Nat) : Nat :=
  match s.tick.held.find? fun h => h.modePort = some p with
  | some h => h.handle
  | none => 0

/-- PORT_MODE_GET (R82): MAC_MODE, QM_QMODE, MAC_MODE_STAT, the lossless class mask, the pending handle. -/
def execPortModeGet (p : Packet) (s : State) : Host.Outcome State Fault Refusal :=
  runPacket 0x0102 p (fun a s =>
    let k := a.n 0
    guarded s [(a.bad, .paramInvalid), (!s.hasPort k, .resourceAbsent)]
      (Res.ok s [ (.u 32, (s.view .macMode k).toNat), (.u 32, (s.view .qmQmode k).toNat), (.u 32, (s.view .macModeStat k).toNat),
        (.u 8, s.fld F.fcCfg_LL_MASK k), (.u 16, s.modeHandle k) ])) s

/-! ### PORT_STATUS_GET and WAKE_SET (R366, R367) -/

/-- PORT_STATUS_GET (R367): MAC_PORT_CFG, MAC_LINK, MAC_STAT, MAC_MODE, MAC_MODE_STAT, QM_PORT_STAT, the address, the enabled patterns. -/
def execPortStatusGet (p : Packet) (s : State) : Host.Outcome State Fault Refusal :=
  runPacket 0x0103 p (fun a s =>
    let k := a.n 0
    let word_ := fun (r : Reg) => (Ty.u 32, (s.view r k).toNat)
    guarded s [(a.bad, .paramInvalid), (!s.hasPort k, .resourceAbsent)]
      (Res.ok s [ word_ .macPortCfg, word_ .macLink, word_ .macStat, word_ .macMode, word_ .macModeStat, word_ .qmPortStat,
        (.mac, s.fld F.macAddrHi_ADDR k * 2 ^ 32 + s.fld F.macAddrLo_ADDR k), (.u 8, s.fld F.macWakeCtl_PAT_EN k) ])) s

/-- WAKE_SET (R366, R342): port, pattern, ENABLE, LEN, MASK, CHECK. -/
def execWakeSet (p : Packet) (s : State) : Host.Outcome State Fault Refusal :=
  runPacket 0x0104 p (fun a s =>
    let port := a.n 0
    let i := 8 * port + a.n 1
    let en := s.fld F.macWakeCtl_PAT_EN port
    guarded s
      [ (!s.hasPort port, .resourceAbsent), (s.hidden port, .lanesInUse),
        (a.bad || decide (512 ≤ port) || decide (7 < a.n 1) || a.n 3 == 0 || decide (128 < a.n 3) || a.n 4 / 2 ^ a.n 3 != 0
          || (a.f 2 && a.n 4 == 0), .paramInvalid) ]
      (let s := (List.range 4).foldl (fun s k => s.setReg .macWakeMask (4 * i + k) (word (a.n 4 / 2 ^ (32 * k)))) s
       let s := s.setReg .macWakePcfg i (word (a.n 3 * 2 ^ 16 + a.n 5))
       Res.ok (s.setFld F.macWakeCtl_PAT_EN port (setBits en (a.n 1) (a.n 1) (b2n (a.f 2)))) [])) s

end Sys2Proof.Machine
end

