-- ==== Sys2Proof/Machine/Queues.lean ====
section
/-!
DEFINITION. The commands on flow control, queues and the scheduler (R307 to R309, R334, R335), on stamping (R454, R455), and the sampling
of the queues (R330, R331).
-/
namespace Sys2Proof.Machine
open Sys2Proof

/-! ### Flow control (R307) -/

/-- FC_PORT_SET (R307, R342): port, LINK_NS, RESP_NS, PEER_MFS, QUANTA. -/
def execFcPortSet (p : Packet) (s : State) : Host.Outcome State Fault Refusal :=
  runPacket 0x0700 p (fun a s =>
    let port := a.n 0
    let l : LinkPar := { linkNs := a.n 1, respNs := a.n 2, peerMfs := a.n 3 }
    let t := s.inPath fun t => { t with linkPar := Table.set (fun _ => {}) t.linkPar port l }
    let t := t.recompute (Config.sliceOf port)
    guarded s
      ([ (!s.hasPort port, .resourceAbsent), (s.hidden port, .lanesInUse),
         (a.bad || decide (512 ≤ port) || decide (1000000 < a.n 1) || decide (100000 < a.n 2) || decide (a.n 3 < 64)
           || decide (10240 < a.n 3) || decide (a.n 4 < 256), .paramInvalid) ] ++ limitChecks s t (Config.quadOf port))
      (Res.ok (t.setFld F.fcCfg_QUANTA port (a.n 4)) [])) s

/-- FC_PORT_GET (R307): the parameters, FC_STAT, the mask of the lossless classes and for each of them W, rsv, O, S and whether it is
long-reach, and the quadrant's share in use in Gbit/s. -/
def execFcPortGet (p : Packet) (s : State) : Host.Outcome State Fault Refusal :=
  runPacket 0x0701 p (fun a s =>
    let port := a.n 0
    let l := s.linkPar port
    let sl := Config.sliceOf port
    let mine := if port < 512 then (s.plan sl).filter fun e => e.1.1 = port else []
    guarded s [(a.bad, .paramInvalid), (!s.hasPort port, .resourceAbsent)]
      (Res.ok s ([ (.u 32, l.linkNs), (.u 32, l.respNs), (.u 16, l.peerMfs), (.u 16, s.fld F.fcCfg_QUANTA port),
          (.u 32, (s.view .fcStat port).toNat), (.u 8, if port < 512 then s.planMask port else 0) ]
        ++ (mine.flatMap fun e => [ (Ty.u 32, e.2.w), (.u 32, e.2.rsv), (.u 32, e.2.onDie), (.u 32, e.2.pages),
             (.flag, b2n (e.2.pages != 0)) ])
        ++ [(.u 32, s.shareUsed (Config.quadOf port))]))) s

/-! ### Queues (R308, R309) -/

/-- QM_QUEUE_SET (R308, R342): queue, LIMIT, YEL, RED, POOL. -/
def execQmQueueSet (p : Packet) (s : State) : Host.Outcome State Fault Refusal :=
  runPacket 0x0702 p (fun a s =>
    let qu := a.n 0
    let port := qu / 16
    let pools := setBits (s.reg .qmQpool port).toNat (2 * (qu % 16) + 1) (2 * (qu % 16)) (a.n 4)
    guarded s
      [ (!s.hasPort port, .resourceAbsent), (s.hidden port, .lanesInUse),
        (a.bad || decide (65536 < a.n 1) || decide (8 < a.n 2) || decide (8 < a.n 3) || decide (a.n 2 < a.n 3) || a.n 4 == 0
          || decide (3 < a.n 4), .paramInvalid) ]
      (Res.ok ((s.setReg .qmQlim qu (word (a.n 3 * 2 ^ 24 + a.n 2 * 2 ^ 20 + a.n 1))).setReg .qmQpool port (word pools)) [])) s

/-- QM_QUEUE_GET (R308): LIMIT, YEL, RED, POOL, CQ, and whether the queue is lossless. -/
def execQmQueueGet (p : Packet) (s : State) : Host.Outcome State Fault Refusal :=
  runPacket 0x0703 p (fun a s =>
    let qu := a.n 0
    guarded s [(a.bad, .paramInvalid), (!s.hasPort (qu / 16), .resourceAbsent)]
      (Res.ok s [ (.u 32, s.fld F.qmQlim_LIMIT qu), (.u 8, s.fld F.qmQlim_YEL qu), (.u 8, s.fld F.qmQlim_RED qu),
        (.u 8, (s.reg .qmQpool (qu / 16)).toNat / 4 ^ (qu % 16) % 4), (.u 32, s.cq qu), (.flag, b2n (s.lossless qu)) ])) s

/-- QM_PORT_SET (R309): port, HOLD. -/
def execQmPortSet (p : Packet) (s : State) : Host.Outcome State Fault Refusal :=
  runPacket 0x0704 p (fun a s =>
    guarded s
      [ (!s.hasPort (a.n 0), .resourceAbsent), (s.hidden (a.n 0), .lanesInUse),
        (a.bad || decide (512 ≤ a.n 0) || a.n 1 == 3, .paramInvalid) ]
      (Res.ok (s.setReg .qmPortCfg (a.n 0) (word (a.n 1))) [])) s

/-- QM_PORT_FLUSH (R305, R309, R342): port; the number of frames flushed. An unconfigured or hidden number flushes nothing. -/
def execQmPortFlush (p : Packet) (s : State) : Host.Outcome State Fault Refusal :=
  runPacket 0x0705 p (fun a s =>
    let port := a.n 0
    guarded s [(a.bad, .paramInvalid), (!s.hasPort port, .resourceAbsent)]
      (if port < 512 && (!s.configured port || s.hidden port) then Res.ok s [(.u 32, 0)]
       else
        let r := s.flush port
        Res.ok r.1 [(.u 32, r.2)])) s

/-! ### The scheduler (R334, R335) -/

/-- A class that joins or leaves the weighted group starts without deficit or turn (R334). -/
def Sched.regroup (d : Sched) (changed : Nat) : Sched :=
  { d with
    dc := (List.range 8).map fun c => if changed.testBit c then 0 else d.dc.getD c 0
    turn := d.turn &&& (255 ^^^ changed) }

/-- Firmware writes a shaper (R321). -/
def State.writeShaper (s : State) (key rate burst : Nat) : State :=
  let s := s.keepRate key
  if key < 16384 then (s.setReg .schQshpRate key (word rate)).setReg .schQshpBurst key (word burst)
  else (s.setReg .schPshpRate (key - 16384) (word rate)).setReg .schPshpBurst (key - 16384) (word burst)

/-- Whether a shaper's RATE or BURST lies beyond its limit (R334). -/
def badRate (rate burst : Nat) : Bool := decide (2 ^ 24 < rate) || decide (2 ^ 24 ≤ burst)

/-- SCH_PORT_SET (R334, R342): port, SP_MASK, LEN_ADJ, eight quanta, RATE, BURST. -/
def execSchPortSet (p : Packet) (s : State) : Host.Outcome State Fault Refusal :=
  runPacket 0x0706 p (fun a s =>
    let port := a.n 0
    let quant := (List.range 8).map fun c => a.n (3 + c)
    let bound := s.quantBound port (a.i 2 7)
    guarded s
      [ (!s.hasPort port, .resourceAbsent), (s.hidden port, .lanesInUse),
        (a.bad || quant.any (fun x => decide (x < bound) || decide (1048575 < x)), .paramInvalid),
        (badRate (a.n 11) (a.n 12), .rateInvalid) ]
      (let changed := s.fld F.schPortCfg_SP_MASK port ^^^ a.n 1
       let s := s.setReg .schPortCfg port (word (a.n 1 * 2 ^ 16 + ofSigned 7 (a.i 2 7)))
       let s := quant.zipIdx.foldl (fun s (e : Nat × Nat) => s.setReg .schClsQuant (8 * port + e.2) (word e.1)) s
       let s := s.setSched port ((s.sched port).regroup changed)
       Res.ok (s.writeShaper (portShaper port) (a.n 11) (a.n 12)) [])) s

/-- SCH_QUEUE_SET (R335, R342): queue, RATE, BURST. -/
def execSchQueueSet (p : Packet) (s : State) : Host.Outcome State Fault Refusal :=
  runPacket 0x0707 p (fun a s =>
    guarded s
      [ (a.bad, .paramInvalid), (!s.hasPort (a.n 0 / 16), .resourceAbsent), (s.hidden (a.n 0 / 16), .lanesInUse),
        (badRate (a.n 1) (a.n 2), .rateInvalid) ]
      (Res.ok (s.writeShaper (a.n 0) (a.n 1) (a.n 2)) [])) s

/-- SCH_GET (R335): the SCH registers of a port but for the sampled images, with every shaper's credit; DC of each class and PTR. -/
def execSchGet (p : Packet) (s : State) : Host.Outcome State Fault Refusal :=
  runPacket 0x0708 p (fun a s =>
    let port := a.n 0
    let v := fun (r : Reg) (i : Nat) => (Ty.u 32, (s.view r i).toNat)
    let d := s.sched port
    guarded s [(a.bad, .paramInvalid), (!s.hasPort port, .resourceAbsent)]
      (Res.ok s ([ v .schPortCfg port, v .schPshpRate port, v .schPshpBurst port, v .schPshpCred port, v .schStat port, v .schIe port,
          v .schShpBlk port ]
        ++ ((List.range 8).map fun c => v .schClsQuant (8 * port + c))
        ++ ((List.range 16).flatMap fun i => [v .schQshpRate (16 * port + i), v .schQshpBurst (16 * port + i), v .schQshpCred (16 * port + i)])
        ++ [v .schGateWaitCnt port, v .schGclOverrunCnt port, v .schShapeWaitCnt port]
        ++ ((List.range 8).map fun c => (Ty.u 32, d.dc.getD c 0)) ++ [(.u 8, d.ptr)]))) s

/-! ### Stamping (R454, R455) -/

/-- PTP_PORT_SET (R454, R342): port, DOM_EN, eight domains, RX_TRIM, TX_TRIM. -/
def execPtpPortSet (p : Packet) (s : State) : Host.Outcome State Fault Refusal :=
  runPacket 0x090B p (fun a s =>
    let port := a.n 0
    let on := (onesOf 8 (a.n 1)).map fun i => a.n (2 + i)
    let v := s.time.servo
    let lo := fun k => (List.range 4).foldl (fun n j => n + a.n (2 + k + j) * 256 ^ j) 0
    let was := (List.range 8).any fun i => s.fld F.tsPortDomEn_EN port / 2 ^ i % 2 = 1
      && (s.reg (if i < 4 then .tsPortDomLo else .tsPortDomHi) port).toNat / 256 ^ (i % 4) % 256 = v.domain
    guarded s
      [ (!s.hasPort port, .resourceAbsent), (s.hidden port, .lanesInUse),
        (a.bad || decide (512 ≤ port) || decide (on.eraseDups.length < on.length), .paramInvalid),
        (v.mode == 1 && v.port == port && was && !on.contains v.domain, .servoOwned) ]
      (let s := ((s.setReg .tsPortDomLo port (word (lo 0))).setReg .tsPortDomHi port (word (lo 4))).setReg .tsPortDomEn port (word (a.n 1))
       Res.ok (s.setReg .tsPortTrim port (word (ofSigned 16 (a.i 11 16) * 2 ^ 16 + ofSigned 16 (a.i 10 16)))) [])) s

/-- PTP_PORT_GET (R454): the registers of a port and its stamping counters. -/
def execPtpPortGet (p : Packet) (s : State) : Host.Outcome State Fault Refusal :=
  runPacket 0x090C p (fun a s =>
    let regs : List Reg := [ .tsPortDomLo, .tsPortDomHi, .tsPortDomEn, .tsPortTrim, .tsPortCorrCnt, .tsPortTermCnt, .tsPortOriginCnt,
      .tsPortBcPassCnt ]
    guarded s [(a.bad, .paramInvalid), (!s.hasPort (a.n 0), .resourceAbsent)]
      (Res.ok s (regs.map fun r => (Ty.u 32, (s.view r (a.n 0)).toNat)))) s

/-- TS_RING_SET (R455): quadrant, EN, OWNER. A change of OWNER empties the ring. -/
def execTsRingSet (p : Packet) (s : State) : Host.Outcome State Fault Refusal :=
  runPacket 0x090D p (fun a s =>
    let q := a.n 0
    guarded s [(a.bad, .paramInvalid), (!s.hasQuad q, .resourceAbsent)]
      (let change := s.flag F.tsRingCtl_OWNER q != a.f 2
       let s := (s.setFld F.tsRingCtl_EN q (b2n (a.f 1))).setFld F.tsRingCtl_OWNER q (b2n (a.f 2))
       Res.ok (if change then (s.setReg .tsRingCons q (s.reg .tsRingProd q)).setReg .tsRingStat q 0 else s) [])) s

/-- TS_STP_SET (R455): ONE_STEP_EN. -/
def execTsStpSet (p : Packet) (s : State) : Host.Outcome State Fault Refusal :=
  runPacket 0x090E p (fun a s =>
    guarded s [(a.bad, .paramInvalid)] (Res.ok (s.setReg .tsStpCtl 0 (word (b2n (a.f 0)))) [])) s

/-! ### Sampling and epochs (R47, R134, R330, R331) -/

/-- The depth of a queue: its cells on die and its pages at 32 cells each (R330). -/
def State.depthOf (s : State) (qu : Nat) : Nat := s.cq qu + 32 * s.pagesOf qu

/-- The delay of a queue's head (R330), taken when the queue holds on die a whole frame that has not begun transmission: the whorl ns
since its enqueue stamp, or 0xFFFF_FFFF when the epochs lie 4,096 or more apart. -/
def State.delayOf (s : State) (qu : Nat) : Option Nat :=
  let cs := (s.queueCopies qu).filter fun (c : Copy) => !c.started
  if !cs.any fun c => c.whole then none
  else cs.head?.map fun c =>
    if 4096 ≤ (s.epoch + 8192 - c.stampEpoch) % 8192 then 0xFFFFFFFF else (s.whorlNs + 2 ^ 32 - c.stamp) % 2 ^ 32

/-- The queues that hold anything. -/
def State.busyQueues (s : State) : List Nat :=
  ((s.path.copies.map fun (c : Copy) => Config.queueOf c.port c.cls c.mc) ++ s.path.cq.map (·.1)
    ++ (s.path.hanks.filter fun h => decide (h.1 < 8256)).map (·.1)).eraseDups

/-- SAMPLE_INTERVAL_BOUNDARY (R330): in the first slot of a sample interval every queue is sampled once; the slot's edge adds the
samples (R331). -/
def execSampleIntervalBoundary (s : State) : Host.Outcome State Fault Refusal :=
  if !s.tick.locked || s.tick.slot % 1024 != 0 || s.samp.now.isSome then .next s
  else
    let t := s.busyQueues.foldl (fun t q => Table.set (fun _ => (0, none)) t q (s.depthOf q, s.delayOf q)) []
    .next { s with samp := { s.samp with now := some t } }

/-- Two sets of samples of a queue merged (R331); the sets hold `n` and `m` depth samples. -/
def QAcc.merge (a b : QAcc) (n m : Nat) : QAcc :=
  if m = 0 then a
  else
    { dMin := if n = 0 then b.dMin else min a.dMin b.dMin
      dMax := max a.dMax b.dMax
      dSum := min (a.dSum + b.dSum) (2 ^ 64 - 1)
      lMin := if a.lCnt = 0 then b.lMin else if b.lCnt = 0 then a.lMin else min a.lMin b.lMin
      lMax := max a.lMax b.lMax
      lSum := min (a.lSum + b.lSum) (2 ^ 64 - 1)
      lCnt := a.lCnt + b.lCnt }

/-- The live accumulators of the epoch just ended are merged into the pending set, and new ones open (R331). -/
def Sampling.close (p : Sampling) (epoch : Nat) : Sampling :=
  let n := fun (t : Table Nat) q => Table.get (fun _ => 0) t q
  let at_ := fun (t : Table QAcc) q => Table.get (fun _ => ({} : QAcc)) t q
  let keys := (p.pend.map (·.1) ++ p.live.map (·.1)).eraseDups
  let merged := fun q =>
    let quad := Config.quadOf (q / 16)
    (at_ p.pend q).merge (at_ p.live q) (n p.pendEpochs quad) (n p.liveN quad)
  let quads := (List.range 4).filter fun q => n p.liveN q != 0
  { p with
    liveN := [], live := [], epoch := epoch
    pend := keys.foldl (fun t q => Table.set (fun _ => {}) t q (merged q)) p.pend
    pendEpochs := quads.foldl (fun t q => Table.set (fun _ => 0) t q (n t q + 1)) p.pendEpochs
    pendLast := quads.foldl (fun t q => Table.set (fun _ => 0) t q (epoch - 1)) p.pendLast }

/-- EPOCH_BOUNDARY (R134, R331, R420): in the first slot of an epoch the accumulators of the epoch just ended are merged, the filters
of REQUEST notices clear, and firmware's servo notes its increment. -/
def execEpochBoundary (s : State) : Host.Outcome State Fault Refusal :=
  if !s.tick.locked || s.epochOffset != 0 || s.samp.epoch == s.epoch then .next s
  else
    let s := { s with samp := s.samp.close s.epoch, tab := { s.tab with reqSeen := [], limitSeen := [] } }
    .next (if s.fwRunning then s.servoEpoch else s)

end Sys2Proof.Machine
end

