-- ==== Sys2Proof/Machine/Dispatch.lean ====
section
/-! DEFINITION. One arm per command: the call of its meaning. -/
namespace Sys2Proof.Machine
open Sys2Proof

def exec (i : Instr) (s : State) : Host.Outcome State Fault Refusal :=
  match i with
  | .powerOnReset straps flash => Sys2Proof.Machine.execPowerOnReset straps flash s
  | .pllLock => Sys2Proof.Machine.execPllLock s
  | .referenceLost => Sys2Proof.Machine.execReferenceLost s
  | .referenceRestored => Sys2Proof.Machine.execReferenceRestored s
  | .bootRomStart => Sys2Proof.Machine.execBootRomStart s
  | .bootCodeStart setup => Sys2Proof.Machine.execBootCodeStart setup s
  | .firmwareStart => Sys2Proof.Machine.execFirmwareStart s
  | .coreReset who => Sys2Proof.Machine.execCoreReset who s
  | .controlComplexReset who => Sys2Proof.Machine.execControlComplexReset who s
  | .quadrantReset who quads => Sys2Proof.Machine.execQuadrantReset who quads s
  | .resetRelease => Sys2Proof.Machine.execResetRelease s
  | .cbInitDone sl => Sys2Proof.Machine.execCbInitDone sl s
  | .dtInitDone q => Sys2Proof.Machine.execDtInitDone q s
  | .firmwareRestoration => Sys2Proof.Machine.execFirmwareRestoration s
  | .protLock who v => Sys2Proof.Machine.execProtLock who v s
  | .watchdogKick who v => Sys2Proof.Machine.execWatchdogKick who v s
  | .watchdogExpire => Sys2Proof.Machine.execWatchdogExpire s
  | .dmaWindowRevoke who v => Sys2Proof.Machine.execDmaWindowRevoke who v s
  | .fwSwitch => Sys2Proof.Machine.execFwSwitch s
  | .trialDeadline => Sys2Proof.Machine.execTrialDeadline s
  | .sagBegin source => Sys2Proof.Machine.execSagBegin source s
  | .saveComplete ok => Sys2Proof.Machine.execSaveComplete ok s
  | .sagEnd => Sys2Proof.Machine.execSagEnd s
  | .coreSupplyLoss rails => Sys2Proof.Machine.execCoreSupplyLoss rails s
  | .coreSupplyRestored => Sys2Proof.Machine.execCoreSupplyRestored s
  | .vholdExhausted => Sys2Proof.Machine.execVholdExhausted s
  | .capTestComplete low rise esr => Sys2Proof.Machine.execCapTestComplete low rise esr s
  | .capRuntimeCheck mv => Sys2Proof.Machine.execCapRuntimeCheck mv s
  | .capOvervoltage mv => Sys2Proof.Machine.execCapOvervoltage mv s
  | .holdupEnergyCheck mv => Sys2Proof.Machine.execHoldupEnergyCheck mv s
  | .saveImageUpdate => Sys2Proof.Machine.execSaveImageUpdate s
  | .ksSessionComplete worn => Sys2Proof.Machine.execKsSessionComplete worn s
  | .thermalSample temps => Sys2Proof.Machine.execThermalSample temps s
  | .pcieReset => Sys2Proof.Machine.execPcieReset s
  | .sampleIntervalBoundary => Sys2Proof.Machine.execSampleIntervalBoundary s
  | .epochBoundary => Sys2Proof.Machine.execEpochBoundary s
  | .learnNoticeFlush q => Sys2Proof.Machine.execLearnNoticeFlush q s
  | .agingSweepStart q => Sys2Proof.Machine.execAgingSweepStart q s
  | .agingSweepStep q => Sys2Proof.Machine.execAgingSweepStep q s
  | .arrayTransfer => Sys2Proof.Machine.execArrayTransfer s
  | .eyeScanStep l errs void => Sys2Proof.Machine.execEyeScanStep l errs void s
  | .legMonitorCheck l codes => Sys2Proof.Machine.execLegMonitorCheck l codes s
  | .scheduleEntryArm who e v => Sys2Proof.Machine.execScheduleEntryArm who e v s
  | .scheduleEntryDue => Sys2Proof.Machine.execScheduleEntryDue s
  | .heldListCheck => Sys2Proof.Machine.execHeldListCheck s
  | .scheduleReconvert => Sys2Proof.Machine.execScheduleReconvert s
  | .tickSlotRead who => Sys2Proof.Machine.execTickSlotRead who s
  | .whorlWrap => Sys2Proof.Machine.execWhorlWrap s
  | .tsIncCommit who v => Sys2Proof.Machine.execTsIncCommit who v s
  | .slewStart who v => Sys2Proof.Machine.execSlewStart who v s
  | .slewEnd => Sys2Proof.Machine.execSlewEnd s
  | .baseLoad who v => Sys2Proof.Machine.execBaseLoad who v s
  | .nextBaseLoad => Sys2Proof.Machine.execNextBaseLoad s
  | .whorlRead who => Sys2Proof.Machine.execWhorlRead who s
  | .servoMeasurement offset qualifies => Sys2Proof.Machine.execServoMeasurement offset qualifies s
  | .holdoverExpire => Sys2Proof.Machine.execHoldoverExpire s
  | .eventOutputArm who n v => Sys2Proof.Machine.execEventOutputArm who n v s
  | .eventOutputEdge n => Sys2Proof.Machine.execEventOutputEdge n s
  | .ppsOutPulse => Sys2Proof.Machine.execPpsOutPulse s
  | .captureEdge j sub rise => Sys2Proof.Machine.execCaptureEdge j sub rise s
  | .capturePop who j => Sys2Proof.Machine.execCapturePop who j s
  | .todHintLapse => Sys2Proof.Machine.execTodHintLapse s
  | .ppsSourceTimeout => Sys2Proof.Machine.execPpsSourceTimeout s
  | .rclkSquelchChange r => Sys2Proof.Machine.execRclkSquelchChange r s
  | .frameStart p bytes edge phase sym => Sys2Proof.Machine.execFrameStart p bytes edge phase sym s
  | .frameEnd p pcsErr => Sys2Proof.Machine.execFrameEnd p pcsErr s
  | .frameReady p fw => Sys2Proof.Machine.execFrameReady p fw s
  | .headerDispatch sl => Sys2Proof.Machine.execHeaderDispatch sl s
  | .strandComplete p seq faults => Sys2Proof.Machine.execStrandComplete p seq faults s
  | .reorderRelease sl => Sys2Proof.Machine.execReorderRelease sl s
  | .fabricEntry p seq => Sys2Proof.Machine.execFabricEntry p seq s
  | .spillReturn ing sq => Sys2Proof.Machine.execSpillReturn ing sq s
  | .cellGrant => Sys2Proof.Machine.execCellGrant s
  | .cellWrite sl errs => Sys2Proof.Machine.execCellWrite sl errs s
  | .policerCorrection p seq => Sys2Proof.Machine.execPolicerCorrection p seq s
  | .policerRefresh q x => Sys2Proof.Machine.execPolicerRefresh q x s
  | .startDecision p edge sym => Sys2Proof.Machine.execStartDecision p edge sym s
  | .transmitStart p => Sys2Proof.Machine.execTransmitStart p s
  | .cellRead p ecc => Sys2Proof.Machine.execCellRead p ecc s
  | .transmitEnd p => Sys2Proof.Machine.execTransmitEnd p s
  | .cellTransmitFree sl wrong => Sys2Proof.Machine.execCellTransmitFree sl wrong s
  | .walkerFree sl wrong => Sys2Proof.Machine.execWalkerFree sl wrong s
  | .reclaimSweepStart sl => Sys2Proof.Machine.execReclaimSweepStart sl s
  | .reclaimSweepEnd sl => Sys2Proof.Machine.execReclaimSweepEnd sl s
  | .cbDataScrubVisit sl c err => Sys2Proof.Machine.execCbDataScrubVisit sl c err s
  | .scrubWriteBack sl => Sys2Proof.Machine.execScrubWriteBack sl s
  | .descriptorScrubVisit sl c err => Sys2Proof.Machine.execDescriptorScrubVisit sl c err s
  | .pageClose qu => Sys2Proof.Machine.execPageClose qu s
  | .pageWriteComplete qu => Sys2Proof.Machine.execPageWriteComplete qu s
  | .readbackIssue qu => Sys2Proof.Machine.execReadbackIssue qu s
  | .pageReadComplete qu faults => Sys2Proof.Machine.execPageReadComplete qu faults s
  | .deepExit qu => Sys2Proof.Machine.execDeepExit qu s
  | .hbmScrubVisit page burst err inner => Sys2Proof.Machine.execHbmScrubVisit page burst err inner s
  | .stackFatalFault h => Sys2Proof.Machine.execStackFatalFault h s
  | .stackDrainComplete h => Sys2Proof.Machine.execStackDrainComplete h s
  | .pauseLoadApply p => Sys2Proof.Machine.execPauseLoadApply p s
  | .pauseTimerExpire p c => Sys2Proof.Machine.execPauseTimerExpire p c s
  | .pfcGenerate p => Sys2Proof.Machine.execPfcGenerate p s
  | .pfcRefresh p => Sys2Proof.Machine.execPfcRefresh p s
  | .linkLoss p aligned lf rf hiBer => Sys2Proof.Machine.execLinkLoss p aligned lf rf hiBer s
  | .linkUp p => Sys2Proof.Machine.execLinkUp p s
  | .holdDeadline p => Sys2Proof.Machine.execHoldDeadline p s
  | .wakeLinkUp p => Sys2Proof.Machine.execWakeLinkUp p s
  | .gateEntryBoundary p => Sys2Proof.Machine.execGateEntryBoundary p s
  | .gclCycleStart p => Sys2Proof.Machine.execGclCycleStart p s
  | .gclSwap p => Sys2Proof.Machine.execGclSwap p s
  | .gclCycStartWrite who p v => Sys2Proof.Machine.execGclCycStartWrite who p v s
  | .gclSwapArm who p v => Sys2Proof.Machine.execGclSwapArm who p v s
  | .tbScrubVisit q bucketIdx k err => Sys2Proof.Machine.execTbScrubVisit q bucketIdx k err s
  | .learnRequestServe q => Sys2Proof.Machine.execLearnRequestServe q s
  | .scanPass q => Sys2Proof.Machine.execScanPass q s
  | .noticeRingDelivery cons => Sys2Proof.Machine.execNoticeRingDelivery cons s
  | .clsScrubVisit q x bad => Sys2Proof.Machine.execClsScrubVisit q x bad s
  | .fwdScrubVisit q table idx kind => Sys2Proof.Machine.execFwdScrubVisit q table idx kind s
  | .shadowRestore table q idx => Sys2Proof.Machine.execShadowRestore table q idx s
  | .prefixBankInsert q => Sys2Proof.Machine.execPrefixBankInsert q s
  | .prefixBankDelete q => Sys2Proof.Machine.execPrefixBankDelete q s
  | .ecmpRangeFree q => Sys2Proof.Machine.execEcmpRangeFree q s
  | .laneLock l half pcsl inverted skew => Sys2Proof.Machine.execLaneLock l half pcsl inverted skew s
  | .laneLockLoss l => Sys2Proof.Machine.execLaneLockLoss l s
  | .cemondCommit who l v => Sys2Proof.Machine.execCemondCommit who l v s
  | .cemondCommitApply l => Sys2Proof.Machine.execCemondCommitApply l s
  | .idleEntry p => Sys2Proof.Machine.execIdleEntry p s
  | .idleExit p => Sys2Proof.Machine.execIdleExit p s
  | .idleResume p => Sys2Proof.Machine.execIdleResume p s
  | .rxIdleEnter l => Sys2Proof.Machine.execRxIdleEnter l s
  | .rxSignalDetect l => Sys2Proof.Machine.execRxSignalDetect l s
  | .rxResumeMarker l field => Sys2Proof.Machine.execRxResumeMarker l field s
  | .rxResumeTimeout l => Sys2Proof.Machine.execRxResumeTimeout l s
  | .mbInPost who n => Sys2Proof.Machine.execMbInPost who n s
  | .mbInConsume n dma dmaFault => Sys2Proof.Machine.execMbInConsume n dma dmaFault s
  | .mbOutPost n => Sys2Proof.Machine.execMbOutPost n s
  | .mbOutConsume who n => Sys2Proof.Machine.execMbOutConsume who n s
  | .mbNewInc who n => Sys2Proof.Machine.execMbNewInc who n s
  | .incarnationApply n => Sys2Proof.Machine.execIncarnationApply n s
  | .doorbellH2dSet who hi bits => Sys2Proof.Machine.execDoorbellH2dSet who hi bits s
  | .doorbellH2dClear hi bits => Sys2Proof.Machine.execDoorbellH2dClear hi bits s
  | .doorbellD2hSet n => Sys2Proof.Machine.execDoorbellD2hSet n s
  | .doorbellD2hClear who hi bits => Sys2Proof.Machine.execDoorbellD2hClear who hi bits s
  | .registerWrite who offset words enables => Sys2Proof.Machine.execRegisterWrite who offset words enables s
  | .aliasSet who offset bits => Sys2Proof.Machine.execAliasSet who offset bits s
  | .aliasClear who offset bits => Sys2Proof.Machine.execAliasClear who offset bits s
  | .aliasToggle who offset bits => Sys2Proof.Machine.execAliasToggle who offset bits s
  | .rcRead who offset => Sys2Proof.Machine.execRcRead who offset s
  | .holdingSumRead who offset => Sys2Proof.Machine.execHoldingSumRead who offset s
  | .cntSnapRequest who v => Sys2Proof.Machine.execCntSnapRequest who v s
  | .firmwareSnapshot => Sys2Proof.Machine.execFirmwareSnapshot s
  | .vectorFire v => Sys2Proof.Machine.execVectorFire v s
  | .dmaTailWrite who tx r v => Sys2Proof.Machine.execDmaTailWrite who tx r v s
  | .dmaRxFrameWrite r bufs fault => Sys2Proof.Machine.execDmaRxFrameWrite r bufs fault s
  | .dmaCoalesceTimer tx r => Sys2Proof.Machine.execDmaCoalesceTimer tx r s
  | .dmaTxFrameFetch r descs fault => Sys2Proof.Machine.execDmaTxFrameFetch r descs fault s
  | .tsRingConsWrite who q v => Sys2Proof.Machine.execTsRingConsWrite who q v s
  | .treeRemoteAccess who offset write words n enables tag => Sys2Proof.Machine.execTreeRemoteAccess who offset write words n enables tag s
  | .remoteReadTimeout tag => Sys2Proof.Machine.execRemoteReadTimeout tag s
  | .rhogenPacketReceive k pkt crcOk => Sys2Proof.Machine.execRhogenPacketReceive k pkt crcOk s
  | .rhogenHelloReceive k h => Sys2Proof.Machine.execRhogenHelloReceive k h s
  | .rhogenHelloTimer k => Sys2Proof.Machine.execRhogenHelloTimer k s
  | .rhogenAckTimer k => Sys2Proof.Machine.execRhogenAckTimer k s
  | .rhogenReplayTimeout k => Sys2Proof.Machine.execRhogenReplayTimeout k s
  | .rhogenLinkDown k => Sys2Proof.Machine.execRhogenLinkDown k s
  | .nodeEnumerate path => Sys2Proof.Machine.execNodeEnumerate path s
  | .hello p => Sys2Proof.Machine.execHello p s
  | .echo p => Sys2Proof.Machine.execEcho p s
  | .eventLogRead p => Sys2Proof.Machine.execEventLogRead p s
  | .schedule p => Sys2Proof.Machine.execSchedule p s
  | .scheduleCancel p => Sys2Proof.Machine.execScheduleCancel p s
  | .scheduleList p => Sys2Proof.Machine.execScheduleList p s
  | .portConfig p => Sys2Proof.Machine.execPortConfig p s
  | .portModeSet p => Sys2Proof.Machine.execPortModeSet p s
  | .portModeGet p => Sys2Proof.Machine.execPortModeGet p s
  | .portStatusGet p => Sys2Proof.Machine.execPortStatusGet p s
  | .wakeSet p => Sys2Proof.Machine.execWakeSet p s
  | .clsWrite p => Sys2Proof.Machine.execClsWrite p s
  | .clsRead p => Sys2Proof.Machine.execClsRead p s
  | .clsInvalidate p => Sys2Proof.Machine.execClsInvalidate p s
  | .polSet p => Sys2Proof.Machine.execPolSet p s
  | .polGet p => Sys2Proof.Machine.execPolGet p s
  | .ingPortSet p => Sys2Proof.Machine.execIngPortSet p s
  | .ingPortGet p => Sys2Proof.Machine.execIngPortGet p s
  | .fdbInsert p => Sys2Proof.Machine.execFdbInsert p s
  | .fdbDelete p => Sys2Proof.Machine.execFdbDelete p s
  | .fdbSearch p => Sys2Proof.Machine.execFdbSearch p s
  | .fdbNext p => Sys2Proof.Machine.execFdbNext p s
  | .fdbFlushPort p => Sys2Proof.Machine.execFdbFlushPort p s
  | .fdbAgeSet p => Sys2Proof.Machine.execFdbAgeSet p s
  | .fdbLearnSet p => Sys2Proof.Machine.execFdbLearnSet p s
  | .fdbNotifySet p => Sys2Proof.Machine.execFdbNotifySet p s
  | .vlanSet p => Sys2Proof.Machine.execVlanSet p s
  | .vlanGet p => Sys2Proof.Machine.execVlanGet p s
  | .pfxInsert p => Sys2Proof.Machine.execPfxInsert p s
  | .pfxDelete p => Sys2Proof.Machine.execPfxDelete p s
  | .pfxSearch p => Sys2Proof.Machine.execPfxSearch p s
  | .pfxLookup p => Sys2Proof.Machine.execPfxLookup p s
  | .pfxNext p => Sys2Proof.Machine.execPfxNext p s
  | .pfxRead p => Sys2Proof.Machine.execPfxRead p s
  | .pfxSelSet p => Sys2Proof.Machine.execPfxSelSet p s
  | .nhSet p => Sys2Proof.Machine.execNhSet p s
  | .nhGet p => Sys2Proof.Machine.execNhGet p s
  | .ecmpSet p => Sys2Proof.Machine.execEcmpSet p s
  | .ecmpMemberSet p => Sys2Proof.Machine.execEcmpMemberSet p s
  | .ecmpGet p => Sys2Proof.Machine.execEcmpGet p s
  | .ecmpHashSet p => Sys2Proof.Machine.execEcmpHashSet p s
  | .rifSet p => Sys2Proof.Machine.execRifSet p s
  | .rifBind p => Sys2Proof.Machine.execRifBind p s
  | .rifGet p => Sys2Proof.Machine.execRifGet p s
  | .replSet p => Sys2Proof.Machine.execReplSet p s
  | .replGet p => Sys2Proof.Machine.execReplGet p s
  | .fabStgSet p => Sys2Proof.Machine.execFabStgSet p s
  | .fabStgGet p => Sys2Proof.Machine.execFabStgGet p s
  | .cbPoolSet p => Sys2Proof.Machine.execCbPoolSet p s
  | .cbPoolGet p => Sys2Proof.Machine.execCbPoolGet p s
  | .cbQuarList p => Sys2Proof.Machine.execCbQuarList p s
  | .cbQuarRelease p => Sys2Proof.Machine.execCbQuarRelease p s
  | .cbRetire p => Sys2Proof.Machine.execCbRetire p s
  | .cbReclaim p => Sys2Proof.Machine.execCbReclaim p s
  | .cbScrubSet p => Sys2Proof.Machine.execCbScrubSet p s
  | .dtQueueSet p => Sys2Proof.Machine.execDtQueueSet p s
  | .dtQueueGet p => Sys2Proof.Machine.execDtQueueGet p s
  | .dtStackRetire p => Sys2Proof.Machine.execDtStackRetire p s
  | .dtPageRetire p => Sys2Proof.Machine.execDtPageRetire p s
  | .dtPageRelease p => Sys2Proof.Machine.execDtPageRelease p s
  | .dtScrubSet p => Sys2Proof.Machine.execDtScrubSet p s
  | .dtStatusGet p => Sys2Proof.Machine.execDtStatusGet p s
  | .fcPortSet p => Sys2Proof.Machine.execFcPortSet p s
  | .fcPortGet p => Sys2Proof.Machine.execFcPortGet p s
  | .qmQueueSet p => Sys2Proof.Machine.execQmQueueSet p s
  | .qmQueueGet p => Sys2Proof.Machine.execQmQueueGet p s
  | .qmPortSet p => Sys2Proof.Machine.execQmPortSet p s
  | .qmPortFlush p => Sys2Proof.Machine.execQmPortFlush p s
  | .schPortSet p => Sys2Proof.Machine.execSchPortSet p s
  | .schQueueSet p => Sys2Proof.Machine.execSchQueueSet p s
  | .schGet p => Sys2Proof.Machine.execSchGet p s
  | .gclSet p => Sys2Proof.Machine.execGclSet p s
  | .gclCancel p => Sys2Proof.Machine.execGclCancel p s
  | .gclGet p => Sys2Proof.Machine.execGclGet p s
  | .cemondSet p => Sys2Proof.Machine.execCemondSet p s
  | .cemondGet p => Sys2Proof.Machine.execCemondGet p s
  | .cemondLoad p => Sys2Proof.Machine.execCemondLoad p s
  | .eyeScanStart p => Sys2Proof.Machine.execEyeScanStart p s
  | .eyeScanGet p => Sys2Proof.Machine.execEyeScanGet p s
  | .eyeScanStop p => Sys2Proof.Machine.execEyeScanStop p s
  | .laneTestSet p => Sys2Proof.Machine.execLaneTestSet p s
  | .laneStatusGet p => Sys2Proof.Machine.execLaneStatusGet p s
  | .timeGet p => Sys2Proof.Machine.execTimeGet p s
  | .timeSet p => Sys2Proof.Machine.execTimeSet p s
  | .timeAdj p => Sys2Proof.Machine.execTimeAdj p s
  | .timeServoSet p => Sys2Proof.Machine.execTimeServoSet p s
  | .timeServoGet p => Sys2Proof.Machine.execTimeServoGet p s
  | .todHint p => Sys2Proof.Machine.execTodHint p s
  | .timeEvtSet p => Sys2Proof.Machine.execTimeEvtSet p s
  | .timePpsSet p => Sys2Proof.Machine.execTimePpsSet p s
  | .timeCapSet p => Sys2Proof.Machine.execTimeCapSet p s
  | .timeCapGet p => Sys2Proof.Machine.execTimeCapGet p s
  | .timeRclkSet p => Sys2Proof.Machine.execTimeRclkSet p s
  | .ptpPortSet p => Sys2Proof.Machine.execPtpPortSet p s
  | .ptpPortGet p => Sys2Proof.Machine.execPtpPortGet p s
  | .tsRingSet p => Sys2Proof.Machine.execTsRingSet p s
  | .tsStpSet p => Sys2Proof.Machine.execTsStpSet p s
  | .mirSessionSet p => Sys2Proof.Machine.execMirSessionSet p s
  | .mirSessionGet p => Sys2Proof.Machine.execMirSessionGet p s
  | .mirPortSet p => Sys2Proof.Machine.execMirPortSet p s
  | .snapshot p => Sys2Proof.Machine.execSnapshot p s
  | .cntRead p => Sys2Proof.Machine.execCntRead p s
  | .dmaRingSet p => Sys2Proof.Machine.execDmaRingSet p s
  | .dmaRingGet p => Sys2Proof.Machine.execDmaRingGet p s
  | .treeStatusGet p => Sys2Proof.Machine.execTreeStatusGet p s
  | .rlStatusGet p => Sys2Proof.Machine.execRlStatusGet p s
  | .fwImageWrite p => Sys2Proof.Machine.execFwImageWrite p s
  | .fwActivate p => Sys2Proof.Machine.execFwActivate p s
  | .fwStatusGet p => Sys2Proof.Machine.execFwStatusGet p s
  | .protStatusGet p => Sys2Proof.Machine.execProtStatusGet p s
  | .ksWrite p => Sys2Proof.Machine.execKsWrite p s
  | .ksRead p => Sys2Proof.Machine.execKsRead p s
  | .holdupStatusGet p => Sys2Proof.Machine.execHoldupStatusGet p s
  | .thmGet p => Sys2Proof.Machine.execThmGet p s
  | .pcieDataLinkUp bme msixOn fnMask vecMask => Sys2Proof.Machine.execPcieDataLinkUp bme msixOn fnMask vecMask s
  | .vddUndervoltage => Sys2Proof.Machine.execVddUndervoltage s
  | .vholdFirstCharge => Sys2Proof.Machine.execVholdFirstCharge s
  | .rhogenBlockLock k => Sys2Proof.Machine.execRhogenBlockLock k s

end Sys2Proof.Machine
end

