-- ==== Sys2Proof/Safety.lean ====
section
/-!
DEFINITION. The terms in which claims are stated: when a command packet is accepted, the state in which its body runs and the
state that answers it, when a stop can occur, and the invariant that every step keeps.
-/
namespace Sys2Proof.Machine
open Sys2Proof

/-- A command packet of opcode `op` is accepted (R500, R505, R520): firmware runs and consumes, no restoration holds commands, the
packet has not been consumed before, its channel has room for a reply, and no header check fails. -/
structure Accepts (op : Nat) (p : Packet) (s : State) : Prop where
  running : s.fwRunning = true
  consuming : s.boot.switchAt = none
  noRestore : s.shadow = none
  fresh : s.takenOf op p = none
  room : s.waiting p.chan < 64
  header : firstFail (headerChecks s op p (lengthBad op p.params)) = none

/-- The state in which an accepted packet's body runs: its journal entry is STARTED (R505). -/
def begun (op : Nat) (p : Packet) (s : State) : State :=
  (s.addJournal
    { chan := p.chan, tag := p.tag, inc := s.incarnation p.chan, version := p.version, opcode := op, state := .consumed }).setJournal
    p.chan p.tag .started

/-- A body has left state `t`, and its command, begun in `s`, is answered with status `e` and parameters `ps` (R489, R503). -/
def replied (op : Nat) (p : Packet) (s t : State) (e : Status) (ps : List Byte) : State :=
  t.answer op p (s.incarnation p.chan) e ps

/-- A command packet completes: the next state is the one in which its body left `t` and it has been answered `e` with `ps`. -/
def Completes (c : Instr) (op : Nat) (p : Packet) (s t : State) (e : Status) (ps : List Byte) : Prop :=
  exec c s = .next (replied op p s t e ps)

/-- No command of a queue stops the block. -/
def Runs (o : Host.Outcome State Fault Refusal) : Prop := ∃ t, o = .next t

/-- The sender may write a register that takes writes of the control complex and of secure SIDs (R582, R594): at main-view offset `x` its
write is not refused. -/
def SecureWriter (who : Sender) (x : Nat) (s : State) : Prop := who = .cc ∨ (s.refusal who x true = none ∧ sidSecure (s.sid who) = true)

/-- The register table is in canonical form: keys strictly rise and no entry holds its reset value. -/
abbrev RegsWf (s : State) : Prop := Table.wf regDefault s.regs = true

/-- The invariant of the block: the register table is canonical, and the slot count (R45) and the whorl (R402) are 64-bit numbers. -/
structure Inv (s : State) : Prop where
  regs : RegsWf s
  slot : s.tick.slot < 2 ^ 64
  whorl : s.time.whorl < 2 ^ 64

/-- The parts of the state beside its registers and the queue. -/
inductive Part where
  | fuses | tick | time | meet | cnt | samp | pkts | log | boot | ks | flash | power | tab | path | lanes | host | tree | shadow | out | free
  deriving DecidableEq, Repr

/-- What a command may change: parts of the state, and registers (in any instance). -/
structure Change where
  parts : List Part := []
  regs : List Reg := []
  anyReg : Bool := false
  deriving DecidableEq, Repr

/-- A part is among those that may change. -/
def Change.has (m : Change) (p : Part) : Bool := m.parts.contains p

/-- A register is among those that may change. -/
def Change.may (m : Change) (r : Reg) : Bool := m.anyReg || m.regs.contains r

/-- From state `k` to state `s` nothing has changed but what `m` names; the queue of waiting commands has not. -/
structure Within (m : Change) (k s : State) : Prop where
  fuses : m.has .fuses = false → s.fuses = k.fuses
  tick : m.has .tick = false → s.tick = k.tick
  time : m.has .time = false → s.time = k.time
  meet : m.has .meet = false → s.meet = k.meet
  cnt : m.has .cnt = false → s.cnt = k.cnt
  samp : m.has .samp = false → s.samp = k.samp
  pkts : m.has .pkts = false → s.pkts = k.pkts
  log : m.has .log = false → s.log = k.log
  boot : m.has .boot = false → s.boot = k.boot
  ks : m.has .ks = false → s.ks = k.ks
  flash : m.has .flash = false → s.flash = k.flash
  power : m.has .power = false → s.power = k.power
  tab : m.has .tab = false → s.tab = k.tab
  path : m.has .path = false → s.path = k.path
  lanes : m.has .lanes = false → s.lanes = k.lanes
  host : m.has .host = false → s.host = k.host
  tree : m.has .tree = false → s.tree = k.tree
  shadow : m.has .shadow = false → s.shadow = k.shadow
  out : m.has .out = false → s.out = k.out
  free : m.has .free = false → s.free = k.free
  queue : s.pending = k.pending
  regs : ∀ r i, m.may r = false → s.reg r i = k.reg r i

/-- What no command may lose, from state `k` to state `s`: the identity that the fuses give the device (R7, R12), the image-verification
fuses, whose minima and revocations only grow (R589), the number of the next log record (R625), the invariant, and everything but what `m`
names. -/
structure Keeps (m : Change) (k s : State) : Prop where
  code : s.fuses.code = k.fuses.code
  grade : s.fuses.grade = k.fuses.grade
  step : s.fuses.step = k.fuses.step
  keys : s.fuses.keyDigest = k.fuses.keyDigest
  svnBoot : k.fuses.svnMinBoot ≤ s.fuses.svnMinBoot
  svnFw : k.fuses.svnMinFw ≤ s.fuses.svnMinFw
  revoked : ∀ i, k.fuses.revoked.testBit i = true → s.fuses.revoked.testBit i = true
  seq : k.log.nextSeq ≤ s.log.nextSeq
  regs : RegsWf s
  slot : s.tick.slot < 2 ^ 64
  whorl : s.time.whorl < 2 ^ 64
  within : Within m k s

/-- What the slot edge may change (R45). -/
def edgeMayChange : Change :=
  ⟨[.tick, .time, .meet, .cnt, .samp, .path, .host], [.dmaRxTail, .dmaTxTail, .fcStat, .tsStat], false⟩

/-- What each command may change: an upper bound, over all its operands and states. -/
def mayChange : Instr → Change
  | .powerOnReset _ _ => ⟨[.tick, .time, .meet, .cnt, .samp, .pkts, .log, .boot, .ks, .flash, .power, .tab, .path, .lanes, .host, .tree,
      .shadow], [], true⟩
  | .pllLock => ⟨[.tick, .time], [.tickStat], false⟩
  | .referenceLost => ⟨[.tick, .meet], [.tickStat], false⟩
  | .referenceRestored => ⟨[.tick, .meet], [.tickStat], false⟩
  | .bootRomStart => ⟨[.fuses, .ks], [.protBoot, .pwrRail], false⟩
  | .bootCodeStart _ => ⟨[.time, .meet, .cnt, .samp, .pkts, .log, .boot, .ks, .tab, .path, .lanes, .host, .tree, .shadow, .out], [], true⟩
  | .firmwareStart => ⟨[.tick, .time, .meet, .cnt, .pkts, .log, .boot, .path, .lanes, .out], [.dtQcfgRsv, .gclStat, .gclSwapCtl,
      .gclSwapTgt, .lnCemCommit, .lnFfe, .lnRxcfg, .lnTxcfg, .lnTxeq, .protBoot, .qmQmode, .tickCtl, .tickSchAct, .tickSchAddr,
      .tickSchData, .tickSchMissed, .tickSchTgt, .tsEvtCtl, .tsEvtFrac, .tsEvtPeriod, .tsEvtStart, .tsEvtStat, .tsEvtWidth, .tsStat],
      false⟩
  | .coreReset _ => ⟨[.meet, .cnt, .samp, .pkts, .boot, .ks, .tab, .path, .lanes, .host, .tree, .shadow], [], true⟩
  | .controlComplexReset _ => ⟨[.meet, .cnt, .samp, .pkts, .boot, .ks, .tab, .path, .lanes, .host, .tree, .shadow], [], true⟩
  | .quadrantReset _ _ => ⟨[.meet, .cnt, .samp, .pkts, .boot, .ks, .tab, .path, .lanes, .host, .tree, .shadow], [], true⟩
  | .resetRelease => ⟨[.boot], [], false⟩
  | .cbInitDone _ => ⟨[.path], [.cbStat], false⟩
  | .dtInitDone _ => ⟨[.path], [.dtStat, .dtStkStat], false⟩
  | .firmwareRestoration => ⟨[.meet, .cnt, .log, .tab, .path, .lanes, .shadow], [], true⟩
  | .protLock _ _ => ⟨[.meet, .cnt], [.glbAccAddr, .glbAccInfo, .glbStat, .protCtl, .protStat, .protViolAddr, .protViolInfo], false⟩
  | .watchdogKick _ _ => ⟨[.meet, .cnt, .boot], [.glbAccAddr, .glbAccInfo, .glbStat, .protStat, .protViolAddr, .protViolInfo], false⟩
  | .watchdogExpire => ⟨[.meet, .cnt, .pkts, .boot, .ks, .tab, .lanes, .tree], [.protBoot, .protStat], false⟩
  | .dmaWindowRevoke _ _ => ⟨[.meet, .cnt], [.protDmaCfg, .protStat, .protViolAddr, .protViolInfo], false⟩
  | .fwSwitch => ⟨[.cnt, .pkts, .boot, .ks, .tab, .lanes, .tree], [.protBoot], false⟩
  | .trialDeadline => ⟨[.cnt, .log, .ks], [.ksStat], false⟩
  | .sagBegin _ => ⟨[.meet, .cnt, .ks], [.ksStat, .pwrSagInfo, .pwrStat], false⟩
  | .saveComplete _ => ⟨[.meet, .ks], [.ksSaveLen, .ksSaveSeq, .ksStat], false⟩
  | .sagEnd => ⟨[.meet, .log], [.pwrStat], false⟩
  | .coreSupplyLoss _ => ⟨[.tick, .time, .meet, .cnt, .samp, .pkts, .log, .boot, .ks, .flash, .power, .tab, .path, .lanes, .host, .tree,
      .shadow], [], true⟩
  | .coreSupplyRestored => ⟨[.boot, .power], [.pwrRail], false⟩
  | .vholdExhausted => ⟨[.tick, .time, .meet, .cnt, .samp, .pkts, .log, .boot, .ks, .flash, .power, .tab, .path, .lanes, .host, .tree,
      .shadow], [], true⟩
  | .capTestComplete _ _ _ => ⟨[.meet, .log], [.pwrCap, .pwrHoldV, .pwrStat], false⟩
  | .capRuntimeCheck _ => ⟨[.meet, .log, .power], [.pwrHoldV, .pwrStat], false⟩
  | .capOvervoltage _ => ⟨[.meet, .log], [.pwrCtl, .pwrHoldV, .pwrStat], false⟩
  | .holdupEnergyCheck _ => ⟨[.log], [.ksStat, .pwrHoldV, .pwrStat], false⟩
  | .saveImageUpdate => ⟨[.cnt, .log, .ks], [.ksStat], false⟩
  | .ksSessionComplete _ => ⟨[.fuses, .meet, .cnt, .pkts, .log, .boot, .ks, .tab], [.ksStat, .protBoot], false⟩
  | .thermalSample _ => ⟨[.meet, .cnt, .samp, .pkts, .log, .boot, .ks, .power, .tab, .path, .lanes, .host, .tree, .shadow, .out], [],
      true⟩
  | .pcieReset => ⟨[.pkts, .log, .tab, .host, .tree], [.dmaRxCfg, .dmaTxCfg, .mbInCtl, .mbInInc], false⟩
  | .sampleIntervalBoundary => ⟨[.samp], [], false⟩
  | .epochBoundary => ⟨[.time, .samp, .tab], [], false⟩
  | .learnNoticeFlush _ => ⟨[.tab], [], false⟩
  | .agingSweepStart _ => ⟨[.meet, .tab], [.tbStat], false⟩
  | .agingSweepStep _ => ⟨[.meet, .cnt, .tab], [.tbStat], false⟩
  | .arrayTransfer => ⟨[.meet, .cnt], [.cntStat], false⟩
  | .eyeScanStep _ _ _ => ⟨[.meet, .lanes], [.lnEscanCfg, .lnEscanErr, .lnEscanUi, .lnStat], false⟩
  | .legMonitorCheck _ _ => ⟨[.meet, .lanes], [.lnFault, .lnStat], false⟩
  | .scheduleEntryArm _ _ _ => ⟨[.meet, .cnt], [.glbAccAddr, .glbAccInfo, .glbStat, .glbUpdInfo, .protStat, .protViolAddr, .protViolInfo,
      .tickSchAct, .tickSchMissed], false⟩
  | .scheduleEntryDue => ⟨[.tick, .time, .meet, .cnt, .samp, .pkts, .log, .boot, .ks, .tab, .path, .lanes, .host, .tree, .shadow, .out],
      [], true⟩
  | .heldListCheck => ⟨[.tick, .time, .meet, .log, .path, .out], [.dtQcfgRsv, .gclStat, .gclSwapCtl, .gclSwapTgt, .qmQmode, .tickSchAct,
      .tickSchAddr, .tickSchData, .tickSchMissed, .tickSchTgt, .tsEvtCtl, .tsEvtFrac, .tsEvtPeriod, .tsEvtStart, .tsEvtStat, .tsEvtWidth],
      false⟩
  | .scheduleReconvert => ⟨[.tick, .time, .meet, .log, .path, .out], [.dtQcfgRsv, .gclCycStart, .gclStat, .gclSwapCtl, .gclSwapTgt,
      .qmQmode, .tickSchAct, .tickSchAddr, .tickSchData, .tickSchMissed, .tickSchTgt, .tsEvtCtl, .tsEvtFrac, .tsEvtPeriod, .tsEvtStart,
      .tsEvtStat, .tsEvtWidth], false⟩
  | .tickSlotRead _ => ⟨[.meet, .cnt, .out], [.protStat, .protViolAddr, .protViolInfo, .tickSlotHi], false⟩
  | .whorlWrap => ⟨[.tick, .time, .meet, .cnt, .samp, .path, .host], [.dmaRxTail, .dmaTxTail, .fcStat, .tsStat], false⟩
  | .tsIncCommit _ _ => ⟨[.time, .meet, .cnt], [.protStat, .protViolAddr, .protViolInfo], false⟩
  | .slewStart _ _ => ⟨[.time, .meet, .cnt], [.glbStat, .glbUpdInfo, .protStat, .protViolAddr, .protViolInfo], false⟩
  | .slewEnd => ⟨[.tick, .time, .meet, .cnt, .samp, .path, .host], [.dmaRxTail, .dmaTxTail, .fcStat, .tsStat], false⟩
  | .baseLoad _ _ => ⟨[.time, .meet, .cnt], [.protStat, .protViolAddr, .protViolInfo, .tsBaseCtl], false⟩
  | .nextBaseLoad => ⟨[.time, .meet], [.tsStat], false⟩
  | .whorlRead _ => ⟨[.meet, .cnt, .out], [.protStat, .protViolAddr, .protViolInfo, .tsNtNs, .tsNtSecHi, .tsNtSecLo, .tsWhorlFrac], false⟩
  | .servoMeasurement _ _ => ⟨[.time, .meet, .log, .free], [.tsSlewDelta, .tsStat], false⟩
  | .holdoverExpire => ⟨[.time, .log], [], false⟩
  | .eventOutputArm _ _ _ => ⟨[.time, .meet, .cnt, .out], [.glbAccAddr, .glbAccInfo, .glbStat, .glbUpdInfo, .protStat, .protViolAddr,
      .protViolInfo, .tsEvtCtl, .tsEvtStat], false⟩
  | .eventOutputEdge _ => ⟨[.time, .meet, .cnt, .out], [.glbStat, .glbUpdInfo, .tsEvtCtl, .tsEvtStat], false⟩
  | .ppsOutPulse => ⟨[.time, .out], [], false⟩
  | .captureEdge _ _ _ => ⟨[.time, .meet, .cnt, .log], [.tsCapStat], false⟩
  | .capturePop _ _ => ⟨[.time, .meet, .cnt, .out], [.protStat, .protViolAddr, .protViolInfo, .tsCapInfo, .tsCapStat], false⟩
  | .todHintLapse => ⟨[.time, .log], [], false⟩
  | .ppsSourceTimeout => ⟨[.time, .log], [], false⟩
  | .rclkSquelchChange _ => ⟨[.meet, .out], [.tsRclkStat], false⟩
  | .frameStart _ _ _ _ _ => ⟨[.meet, .cnt, .path], [.macStat], false⟩
  | .frameEnd _ _ => ⟨[.meet, .cnt, .path], [.fcEvt, .glbStat, .glbUpdInfo, .macMode, .macModeStat, .macStat, .macWakeCtl, .pcsState],
      false⟩
  | .frameReady _ _ => ⟨[.meet, .cnt, .path], [.prsStat], false⟩
  | .headerDispatch _ => ⟨[.cnt, .path], [], false⟩
  | .strandComplete _ _ _ => ⟨[.meet, .cnt, .tab, .path], [.clsErrIdx, .clsStat, .fwdErrIdx, .fwdStat, .polErrIdx, .polStat, .prsStat,
      .tbErrIdx, .tbStat, .tsStpStat], false⟩
  | .reorderRelease _ => ⟨[.meet, .cnt, .path], [.mirStat], false⟩
  | .fabricEntry _ _ => ⟨[.meet, .cnt, .path], [.fabStat], false⟩
  | .spillReturn _ _ => ⟨[.path], [], false⟩
  | .cellGrant => ⟨[.cnt, .path], [], false⟩
  | .cellWrite _ _ => ⟨[.meet, .cnt, .log, .path, .free], [.cbErrAddr, .cbErrTags, .cbStat, .dtStat, .fabErrAddr, .fabStat, .qmStat],
      false⟩
  | .policerCorrection _ _ => ⟨[.cnt, .tab, .path], [], false⟩
  | .policerRefresh _ _ => ⟨[.tab], [], false⟩
  | .startDecision _ _ _ => ⟨[.meet, .cnt, .path, .host], [.dmaRxHead, .macModeStat, .macStat, .pcsState, .schStat], false⟩
  | .transmitStart _ => ⟨[.meet, .cnt, .path], [.fabStat, .fcEvt, .fcStat, .mirStat, .tsStpStat], false⟩
  | .cellRead _ _ => ⟨[.meet, .cnt, .log, .path, .free], [.cbErrAddr, .cbErrTags, .cbStat, .fabStat], false⟩
  | .transmitEnd _ => ⟨[.meet, .cnt, .path, .host, .out], [.fcStat, .macLink, .macModeStat, .macStat, .mirStat, .pcsState, .qmPortStat,
      .qmStat, .schStat, .tsRingEnt, .tsRingProd, .tsRingStat], false⟩
  | .cellTransmitFree _ _ => ⟨[.meet, .cnt, .log, .path], [.cbErrAddr, .cbErrTags, .cbStat], false⟩
  | .walkerFree _ _ => ⟨[.meet, .cnt, .log, .path], [.cbErrAddr, .cbErrTags, .cbStat], false⟩
  | .reclaimSweepStart _ => ⟨[.path], [], false⟩
  | .reclaimSweepEnd _ => ⟨[.meet, .cnt, .log, .path], [.cbErrAddr, .cbErrTags, .cbStat], false⟩
  | .cbDataScrubVisit _ _ _ => ⟨[.meet, .cnt, .log, .ks, .path], [.cbErrAddr, .cbErrTags, .cbScrubPos, .cbStat], false⟩
  | .scrubWriteBack _ => ⟨[.path], [], false⟩
  | .descriptorScrubVisit _ _ _ => ⟨[.meet, .cnt, .log, .path], [.cbErrAddr, .cbErrTags, .cbStat], false⟩
  | .pageClose _ => ⟨[.path], [], false⟩
  | .pageWriteComplete _ => ⟨[.cnt, .path], [], false⟩
  | .readbackIssue _ => ⟨[.meet, .cnt, .path], [.cbStat], false⟩
  | .pageReadComplete _ _ => ⟨[.meet, .cnt, .log, .path], [.cbStat, .dtErrAddr, .dtErrInfo, .dtStat], false⟩
  | .deepExit _ => ⟨[.cnt, .path], [], false⟩
  | .hbmScrubVisit _ _ _ _ => ⟨[.meet, .cnt, .log, .ks, .path], [.dtErrAddr, .dtErrInfo, .dtStat, .dtStkStat], false⟩
  | .stackFatalFault _ => ⟨[.meet, .cnt, .log, .ks, .path], [.dtStat, .dtStkStat], false⟩
  | .stackDrainComplete _ => ⟨[.meet, .log, .ks, .path], [.dtStat, .dtStkStat], false⟩
  | .pauseLoadApply _ => ⟨[.path], [.fcStat], false⟩
  | .pauseTimerExpire _ _ => ⟨[.tick, .time, .meet, .cnt, .samp, .path, .host], [.dmaRxTail, .dmaTxTail, .fcStat, .tsStat], false⟩
  | .pfcGenerate _ => ⟨[.path], [.macModeStat, .pcsState], false⟩
  | .pfcRefresh _ => ⟨[.path], [], false⟩
  | .linkLoss _ _ _ _ _ => ⟨[.meet, .cnt, .path, .out], [.fcStat, .macLink, .macModeStat, .macStat, .mirStat, .qmPortStat, .qmStat],
      false⟩
  | .linkUp _ => ⟨[.meet, .cnt, .path], [.macLink, .macModeStat, .macStat, .qmPortStat, .qmStat], false⟩
  | .holdDeadline _ => ⟨[.meet, .cnt, .path], [.macModeStat, .qmPortStat, .qmStat], false⟩
  | .wakeLinkUp _ => ⟨[.meet, .cnt, .path], [.macLink, .macModeStat, .macStat, .pcsState, .qmPortStat, .qmStat], false⟩
  | .gateEntryBoundary _ => ⟨[.path], [.gclOperPos], false⟩
  | .gclCycleStart _ => ⟨[.meet, .cnt, .path], [.gclCycStart, .gclOperPos, .glbStat, .glbUpdInfo, .macModeStat], false⟩
  | .gclSwap _ => ⟨[.meet, .cnt, .path], [.gclAdminCycle, .gclAdminDur, .gclAdminGates, .gclAdminMaxwin, .gclCycStart, .gclOperCycle,
      .gclOperDur, .gclOperGates, .gclOperLen, .gclOperMaxwin, .gclOperPos, .gclStat, .gclSwapCtl, .glbStat, .glbUpdInfo, .macModeStat],
      false⟩
  | .gclCycStartWrite _ _ _ => ⟨[.meet, .cnt], [.gclCycStart, .gclStat, .glbAccAddr, .glbAccInfo, .glbStat, .glbUpdInfo, .protStat,
      .protViolAddr, .protViolInfo], false⟩
  | .gclSwapArm _ _ _ => ⟨[.meet, .cnt, .path], [.gclStat, .gclSwapCtl, .glbAccAddr, .glbAccInfo, .glbStat, .glbUpdInfo, .protStat,
      .protViolAddr, .protViolInfo], false⟩
  | .tbScrubVisit _ _ _ _ => ⟨[.meet, .cnt, .tab], [.tbErrIdx, .tbStat], false⟩
  | .learnRequestServe _ => ⟨[.meet, .cnt, .tab], [.tbStat], false⟩
  | .scanPass _ => ⟨[.pkts, .log, .tab, .out], [], false⟩
  | .noticeRingDelivery _ => ⟨[.meet, .tab, .out], [.mbD2hDbHi, .mbD2hDbLo], false⟩
  | .clsScrubVisit _ _ _ => ⟨[.meet, .tab], [.clsErrIdx, .clsStat], false⟩
  | .fwdScrubVisit _ _ _ _ => ⟨[.meet, .tab], [.fwdErrIdx, .fwdStat], false⟩
  | .shadowRestore _ _ _ => ⟨[.tab], [], false⟩
  | .prefixBankInsert _ => ⟨[.pkts, .log, .tab], [], false⟩
  | .prefixBankDelete _ => ⟨[.pkts, .log, .tab], [], false⟩
  | .ecmpRangeFree _ => ⟨[.tab], [], false⟩
  | .laneLock _ _ _ _ _ => ⟨[.meet, .cnt, .path, .out], [.fcStat, .lnRxMap, .lnStat, .macLink, .macModeStat, .macStat, .mirStat, .pcsStat,
      .pcsState, .qmPortStat, .qmStat], false⟩
  | .laneLockLoss _ => ⟨[.meet, .cnt, .path, .out], [.fcStat, .lnRxMap, .lnStat, .macLink, .macModeStat, .macStat, .mirStat, .pcsStat,
      .qmPortStat, .qmStat], false⟩
  | .cemondCommit _ _ _ => ⟨[.meet, .cnt, .lanes], [.glbAccAddr, .glbAccInfo, .glbStat, .lnCemCommit, .protStat, .protViolAddr,
      .protViolInfo], false⟩
  | .cemondCommitApply _ => ⟨[.meet, .lanes], [.lnCemCommit, .lnCemId, .lnStat], false⟩
  | .idleEntry _ => ⟨[.cnt, .path], [.macModeStat, .pcsState], false⟩
  | .idleExit _ => ⟨[.path], [.pcsState], false⟩
  | .idleResume _ => ⟨[.meet, .path, .lanes], [.lnCemCommit, .lnCemId, .lnStat, .macModeStat, .pcsState], false⟩
  | .rxIdleEnter _ => ⟨[.lanes], [.lnStat, .pcsState], false⟩
  | .rxSignalDetect _ => ⟨[.lanes], [.lnStat, .pcsState], false⟩
  | .rxResumeMarker _ _ => ⟨[.lanes], [.lnStat, .pcsState], false⟩
  | .rxResumeTimeout _ => ⟨[.meet, .cnt, .path, .lanes, .out], [.fcStat, .lnRxMap, .lnStat, .macLink, .macModeStat, .macStat, .mirStat,
      .pcsStat, .pcsState, .qmPortStat, .qmStat], false⟩
  | .mbInPost _ _ => ⟨[.meet, .cnt], [.mbErr, .mbErrInfo, .mbInCtl, .mbInInc, .protStat, .protViolAddr, .protViolInfo], false⟩
  | .mbInConsume _ _ _ => ⟨[.meet, .cnt, .pkts, .log], [.mbErr, .mbErrInfo, .mbInCinc, .mbInCtl, .mbInInc, .mbStat], false⟩
  | .mbOutPost _ => ⟨[.meet, .pkts], [.mbOutCtl, .mbOutSlot, .mbStat], false⟩
  | .mbOutConsume _ _ => ⟨[.meet, .cnt], [.mbErr, .mbErrInfo, .mbOutCtl, .protStat, .protViolAddr, .protViolInfo], false⟩
  | .mbNewInc _ _ => ⟨[.meet, .cnt], [.mbErr, .mbErrInfo, .mbInCtl, .mbInInc, .protStat, .protViolAddr, .protViolInfo], false⟩
  | .incarnationApply _ => ⟨[], [.mbInCtl, .mbInInc], false⟩
  | .doorbellH2dSet _ _ _ => ⟨[.meet, .cnt], [.mbErr, .mbErrInfo, .mbH2dDbHi, .mbH2dDbLo, .protStat, .protViolAddr, .protViolInfo], false⟩
  | .doorbellH2dClear _ _ => ⟨[], [.mbH2dDbHi, .mbH2dDbLo], false⟩
  | .doorbellD2hSet _ => ⟨[.meet], [.mbD2hDbHi, .mbD2hDbLo], false⟩
  | .doorbellD2hClear _ _ _ => ⟨[.meet, .cnt], [.mbD2hDbHi, .mbD2hDbLo, .mbErr, .mbErrInfo, .protStat, .protViolAddr, .protViolInfo],
      false⟩
  | .registerWrite _ _ _ _ => ⟨[.time, .meet, .cnt, .samp, .pkts, .log, .boot, .ks, .tab, .path, .lanes, .host, .tree, .shadow, .out], [],
      true⟩
  | .aliasSet _ _ _ => ⟨[.time, .meet, .cnt, .samp, .pkts, .log, .boot, .ks, .tab, .path, .lanes, .host, .tree, .shadow, .out], [], true⟩
  | .aliasClear _ _ _ => ⟨[.time, .meet, .cnt, .samp, .pkts, .log, .boot, .ks, .tab, .path, .lanes, .host, .tree, .shadow, .out], [],
      true⟩
  | .aliasToggle _ _ _ => ⟨[.time, .meet, .cnt, .samp, .pkts, .log, .boot, .ks, .tab, .path, .lanes, .host, .tree, .shadow, .out], [],
      true⟩
  | .rcRead _ _ => ⟨[.time, .meet, .cnt, .out, .free], [], true⟩
  | .holdingSumRead _ _ => ⟨[.time, .meet, .cnt, .out, .free], [], true⟩
  | .cntSnapRequest _ _ => ⟨[.meet, .cnt, .samp, .log], [], true⟩
  | .firmwareSnapshot => ⟨[.meet, .cnt, .samp, .log], [], true⟩
  | .vectorFire _ => ⟨[.meet, .cnt, .host, .tree, .out], [.glbIntFiredHi, .glbIntFiredLo, .rlStat], false⟩
  | .dmaTailWrite _ _ _ _ => ⟨[.meet, .cnt, .host], [.dmaStat, .protStat, .protViolAddr, .protViolInfo], false⟩
  | .dmaRxFrameWrite _ _ _ => ⟨[.meet, .cnt, .pkts, .log, .tab, .host, .out, .free], [.dmaErrInfo, .dmaRxCfg, .dmaRxStat, .dmaStat,
      .dmaTxCfg, .dmaTxStat, .protStat, .protViolAddr, .protViolInfo], false⟩
  | .dmaCoalesceTimer _ _ => ⟨[.meet, .host], [.dmaRxStat, .dmaTxStat], false⟩
  | .dmaTxFrameFetch _ _ _ => ⟨[.meet, .cnt, .pkts, .log, .tab, .path, .host, .out, .free], [.dmaErrInfo, .dmaRxCfg, .dmaRxStat, .dmaStat,
      .dmaTxCfg, .dmaTxHead, .dmaTxStat, .protStat, .protViolAddr, .protViolInfo], false⟩
  | .tsRingConsWrite _ _ _ => ⟨[.meet, .cnt], [.protStat, .protViolAddr, .protViolInfo, .tsRingCons, .tsRingStat], false⟩
  | .treeRemoteAccess _ _ _ _ _ _ _ => ⟨[.time, .meet, .cnt, .samp, .pkts, .log, .boot, .ks, .tab, .path, .lanes, .host, .tree, .shadow,
      .out, .free], [], true⟩
  | .remoteReadTimeout _ => ⟨[.meet, .cnt, .pkts, .log, .tab, .tree, .out], [.rlStat], false⟩
  | .rhogenPacketReceive _ _ _ => ⟨[.tick, .time, .meet, .cnt, .samp, .pkts, .log, .boot, .ks, .tab, .path, .lanes, .host, .tree, .shadow,
      .out, .free], [], true⟩
  | .rhogenHelloReceive _ _ => ⟨[.meet, .cnt, .pkts, .log, .tab, .tree, .out, .free], [.rlNodeValidHi, .rlNodeValidLo, .rlPortStat,
      .rlRoute, .rlStat], false⟩
  | .rhogenHelloTimer _ => ⟨[.tree, .out], [], false⟩
  | .rhogenAckTimer _ => ⟨[.tree, .out], [], false⟩
  | .rhogenReplayTimeout _ => ⟨[.meet, .cnt, .pkts, .log, .tab, .tree, .out, .free], [.rlNodeValidHi, .rlNodeValidLo, .rlPortStat,
      .rlRoute, .rlStat], false⟩
  | .rhogenLinkDown _ => ⟨[.meet, .cnt, .pkts, .log, .tab, .tree, .out, .free], [.rlNodeValidHi, .rlNodeValidLo, .rlPortStat, .rlRoute,
      .rlStat], false⟩
  | .nodeEnumerate _ => ⟨[.meet, .tree, .out], [.rlNodeValidHi, .rlNodeValidLo, .rlRoute, .rlStat], false⟩
  | .hello _ => ⟨[.pkts, .log], [], false⟩
  | .echo _ => ⟨[.pkts, .log], [], false⟩
  | .eventLogRead _ => ⟨[.pkts, .log, .out], [], false⟩
  | .schedule _ => ⟨[.tick, .meet, .cnt, .pkts, .log, .tab, .path, .tree, .out], [.dtQcfgRsv, .qmQmode, .rlStat, .tickSchAct,
      .tickSchAddr, .tickSchData, .tickSchMissed, .tickSchTgt], false⟩
  | .scheduleCancel _ => ⟨[.tick, .pkts, .log, .path], [.dtQcfgRsv, .qmQmode, .tickSchAct], false⟩
  | .scheduleList _ => ⟨[.pkts, .log, .out], [], false⟩
  | .portConfig _ => ⟨[.meet, .cnt, .pkts, .log, .tab, .path, .lanes, .out], [], true⟩
  | .portModeSet _ => ⟨[.tick, .meet, .cnt, .pkts, .log, .path], [.dtQcfgRsv, .fcCfg, .fcStat, .gclOperPos, .macLink, .macMode,
      .macModeStat, .macStat, .pcsState, .qmPortStat, .qmQmode, .qmStat, .tickSchAct, .tickSchAddr, .tickSchData, .tickSchMissed,
      .tickSchTgt], false⟩
  | .portModeGet _ => ⟨[.pkts, .log], [], false⟩
  | .portStatusGet _ => ⟨[.pkts, .log], [], false⟩
  | .wakeSet _ => ⟨[.pkts, .log], [.macWakeCtl, .macWakeMask, .macWakePcfg], false⟩
  | .clsWrite _ => ⟨[.pkts, .log, .tab], [], false⟩
  | .clsRead _ => ⟨[.pkts, .log], [], false⟩
  | .clsInvalidate _ => ⟨[.pkts, .log, .tab], [], false⟩
  | .polSet _ => ⟨[.pkts, .log, .tab], [], false⟩
  | .polGet _ => ⟨[.pkts, .log], [], false⟩
  | .ingPortSet _ => ⟨[.pkts, .log], [.prsPortcfg, .prsPortprof], false⟩
  | .ingPortGet _ => ⟨[.pkts, .log], [], false⟩
  | .fdbInsert _ => ⟨[.pkts, .log, .tab], [], false⟩
  | .fdbDelete _ => ⟨[.pkts, .log, .tab], [], false⟩
  | .fdbSearch _ => ⟨[.pkts, .log], [], false⟩
  | .fdbNext _ => ⟨[.pkts, .log, .tab], [], false⟩
  | .fdbFlushPort _ => ⟨[.pkts, .log, .tab], [], false⟩
  | .fdbAgeSet _ => ⟨[.pkts, .log], [.tbAgeCfg], false⟩
  | .fdbLearnSet _ => ⟨[.pkts, .log], [.tbPortLearn], false⟩
  | .fdbNotifySet _ => ⟨[.pkts, .log, .tab], [], false⟩
  | .vlanSet _ => ⟨[.pkts, .log, .tab], [], false⟩
  | .vlanGet _ => ⟨[.pkts, .log], [], false⟩
  | .pfxInsert _ => ⟨[.pkts, .log, .tab], [], false⟩
  | .pfxDelete _ => ⟨[.pkts, .log, .tab], [], false⟩
  | .pfxSearch _ => ⟨[.pkts, .log], [], false⟩
  | .pfxLookup _ => ⟨[.pkts, .log], [], false⟩
  | .pfxNext _ => ⟨[.pkts, .log, .out], [], false⟩
  | .pfxRead _ => ⟨[.pkts, .log], [], false⟩
  | .pfxSelSet _ => ⟨[.pkts, .log], [.fwdPfxSel], false⟩
  | .nhSet _ => ⟨[.pkts, .log, .tab], [], false⟩
  | .nhGet _ => ⟨[.pkts, .log], [], false⟩
  | .ecmpSet _ => ⟨[.pkts, .log, .tab], [], false⟩
  | .ecmpMemberSet _ => ⟨[.pkts, .log, .tab], [], false⟩
  | .ecmpGet _ => ⟨[.pkts, .log], [], false⟩
  | .ecmpHashSet _ => ⟨[.pkts, .log], [.fwdEcmpCfg, .fwdEcmpSeed], false⟩
  | .rifSet _ => ⟨[.pkts, .log, .tab], [], false⟩
  | .rifBind _ => ⟨[.pkts, .log, .tab], [], false⟩
  | .rifGet _ => ⟨[.pkts, .log], [], false⟩
  | .replSet _ => ⟨[.pkts, .log, .tab], [], false⟩
  | .replGet _ => ⟨[.pkts, .log], [], false⟩
  | .fabStgSet _ => ⟨[.pkts, .log, .path], [.dtQcfgRsv, .fabStgCfg, .fabStgLossy, .qmQmode], false⟩
  | .fabStgGet _ => ⟨[.pkts, .log], [], false⟩
  | .cbPoolSet _ => ⟨[.pkts, .log], [.cbPoolCeil, .cbPoolFloor], false⟩
  | .cbPoolGet _ => ⟨[.pkts, .log], [], false⟩
  | .cbQuarList _ => ⟨[.pkts, .log, .out], [], false⟩
  | .cbQuarRelease _ => ⟨[.pkts, .log, .path], [], false⟩
  | .cbRetire _ => ⟨[.pkts, .log, .ks, .path], [], false⟩
  | .cbReclaim _ => ⟨[.pkts, .log, .path], [], false⟩
  | .cbScrubSet _ => ⟨[.pkts, .log], [.cbCtl], false⟩
  | .dtQueueSet _ => ⟨[.pkts, .log], [.dtQcfgMax, .dtQcfgRb, .dtQcfgRsv], false⟩
  | .dtQueueGet _ => ⟨[.pkts, .log], [], false⟩
  | .dtStackRetire _ => ⟨[.meet, .cnt, .pkts, .log, .ks, .path], [.dtStat, .dtStkStat], false⟩
  | .dtPageRetire _ => ⟨[.pkts, .log, .ks, .path], [], false⟩
  | .dtPageRelease _ => ⟨[.pkts, .log, .path], [], false⟩
  | .dtScrubSet _ => ⟨[.pkts, .log], [.dtCtl], false⟩
  | .dtStatusGet _ => ⟨[.pkts, .log], [], false⟩
  | .fcPortSet _ => ⟨[.pkts, .log, .path], [.dtQcfgRsv, .fcCfg, .qmQmode], false⟩
  | .fcPortGet _ => ⟨[.pkts, .log], [], false⟩
  | .qmQueueSet _ => ⟨[.pkts, .log], [.qmQlim, .qmQpool], false⟩
  | .qmQueueGet _ => ⟨[.pkts, .log], [], false⟩
  | .qmPortSet _ => ⟨[.pkts, .log], [.qmPortCfg], false⟩
  | .qmPortFlush _ => ⟨[.meet, .cnt, .pkts, .log, .path], [.qmStat], false⟩
  | .schPortSet _ => ⟨[.pkts, .log, .path], [.schClsQuant, .schPortCfg, .schPshpBurst, .schPshpRate, .schQshpBurst, .schQshpRate], false⟩
  | .schQueueSet _ => ⟨[.pkts, .log, .path], [.schPshpBurst, .schPshpRate, .schQshpBurst, .schQshpRate], false⟩
  | .schGet _ => ⟨[.pkts, .log], [], false⟩
  | .gclSet _ => ⟨[.pkts, .log, .path], [.gclAdminCycle, .gclAdminDur, .gclAdminGates, .gclAdminMaxwin, .gclStat, .gclSwapCtl,
      .gclSwapTgt], false⟩
  | .gclCancel _ => ⟨[.pkts, .log, .path], [.gclStat, .gclSwapCtl], false⟩
  | .gclGet _ => ⟨[.pkts, .log], [], false⟩
  | .cemondSet _ => ⟨[.pkts, .log, .lanes], [.lnCemCommit, .lnFfe, .lnRxcfg, .lnTxcfg, .lnTxeq], false⟩
  | .cemondGet _ => ⟨[.pkts, .log], [], false⟩
  | .cemondLoad _ => ⟨[.pkts, .log, .lanes], [.lnCemCommit, .lnFfe, .lnRxcfg, .lnTxcfg, .lnTxeq], false⟩
  | .eyeScanStart _ => ⟨[.pkts, .log, .lanes], [.lnEscanCfg], false⟩
  | .eyeScanGet _ => ⟨[.pkts, .log, .out], [], false⟩
  | .eyeScanStop _ => ⟨[.pkts, .log, .lanes], [.lnEscanCfg], false⟩
  | .laneTestSet _ => ⟨[.pkts, .log], [.lnTest], false⟩
  | .laneStatusGet _ => ⟨[.pkts, .log], [], false⟩
  | .timeGet _ => ⟨[.pkts, .log], [], false⟩
  | .timeSet _ => ⟨[.time, .meet, .pkts, .log], [.tsStat], false⟩
  | .timeAdj _ => ⟨[.time, .pkts, .log], [.tsSlewDelta], false⟩
  | .timeServoSet _ => ⟨[.time, .pkts, .log], [.tsCapCtl, .tsCtl], false⟩
  | .timeServoGet _ => ⟨[.pkts, .log], [], false⟩
  | .todHint _ => ⟨[.time, .pkts, .log], [], false⟩
  | .timeEvtSet _ => ⟨[.time, .meet, .pkts, .log, .out], [.tsEvtCtl, .tsEvtFrac, .tsEvtPeriod, .tsEvtStart, .tsEvtStat, .tsEvtWidth],
      false⟩
  | .timePpsSet _ => ⟨[.pkts, .log], [.tsPpsCfg], false⟩
  | .timeCapSet _ => ⟨[.pkts, .log], [.tsCapCtl], false⟩
  | .timeCapGet _ => ⟨[.time, .pkts, .log], [.tsCapStat], false⟩
  | .timeRclkSet _ => ⟨[.pkts, .log], [.tsRclkCtl], false⟩
  | .ptpPortSet _ => ⟨[.pkts, .log], [.tsPortDomEn, .tsPortDomHi, .tsPortDomLo, .tsPortTrim], false⟩
  | .ptpPortGet _ => ⟨[.pkts, .log], [], false⟩
  | .tsRingSet _ => ⟨[.pkts, .log], [.tsRingCons, .tsRingCtl, .tsRingStat], false⟩
  | .tsStpSet _ => ⟨[.pkts, .log], [.tsStpCtl], false⟩
  | .mirSessionSet _ => ⟨[.pkts, .log], [.mirEncDip, .mirEncDmacHi, .mirEncDmacLo, .mirEncL3, .mirEncSip, .mirEncSmacHi, .mirEncSmacLo,
      .mirEncUdp, .mirSessBurst, .mirSessCfg, .mirSessRate, .mirSessTrunc], false⟩
  | .mirSessionGet _ => ⟨[.pkts, .log], [], false⟩
  | .mirPortSet _ => ⟨[.pkts, .log], [.mirPortSrc], false⟩
  | .snapshot _ => ⟨[.meet, .cnt, .samp, .pkts, .log], [], true⟩
  | .cntRead _ => ⟨[.cnt, .pkts, .log, .out], [], false⟩
  | .dmaRingSet _ => ⟨[.pkts, .log, .tab, .host], [.dmaRxBaseHi, .dmaRxBaseLo, .dmaRxBuf, .dmaRxCfg, .dmaRxHead, .dmaRxTail, .dmaRxqMap,
      .dmaTxBaseHi, .dmaTxBaseLo, .dmaTxCfg, .dmaTxHead, .dmaTxTail], false⟩
  | .dmaRingGet _ => ⟨[.pkts, .log], [], false⟩
  | .treeStatusGet _ => ⟨[.pkts, .log], [], false⟩
  | .rlStatusGet _ => ⟨[.meet, .cnt, .pkts, .log, .tab, .tree, .out], [.rlStat], false⟩
  | .fwImageWrite _ => ⟨[.pkts, .log, .flash], [], false⟩
  | .fwActivate _ => ⟨[.cnt, .pkts, .log, .boot, .ks, .tab], [.ksStat], false⟩
  | .fwStatusGet _ => ⟨[.pkts, .log], [], false⟩
  | .protStatusGet _ => ⟨[.pkts, .log, .out], [], false⟩
  | .ksWrite _ => ⟨[.cnt, .pkts, .log, .ks, .tab], [.ksStat], false⟩
  | .ksRead _ => ⟨[.pkts, .log, .out, .free], [], false⟩
  | .holdupStatusGet _ => ⟨[.pkts, .log], [], false⟩
  | .thmGet _ => ⟨[.pkts, .log], [], false⟩
  | .pcieDataLinkUp _ _ _ _ => ⟨[.meet, .cnt, .pkts, .log, .tab, .host, .tree, .out, .free], [.glbDevid, .rlNodeValidHi, .rlNodeValidLo,
      .rlPortStat, .rlRoute, .rlStat], false⟩
  | .vddUndervoltage => ⟨[.meet], [.pwrStat], false⟩
  | .vholdFirstCharge => ⟨[.power], [], false⟩
  | .rhogenBlockLock _ => ⟨[.tree], [], false⟩

end Sys2Proof.Machine
end

