-- ==== Sys2Proof/Certificates/Slice0/Obligations.lean ====
section
/-!
DEFINITION. The statements about the block, for the provers.
-/
open Sys2Proof Sys2Proof.Machine

/-- For every command, every rest of the queue and every state, the step of the state with that command in front is exec of the command on the state with the rest. The queue is the model's own (assumption 1). -/
def Obligations.StepRunsTheFrontCommand : Prop :=
  ∀ (c : Instr) (rest : List Instr) (s : State), step { s with pending := c :: rest } = exec c { s with pending := rest }

/-- With an empty queue the step answers a next state. Before the PLL has locked nothing changes; after it the slot count rises by one modulo 2^64, the whorl rises by the effective increment modulo 2^64 and PARITY inverts exactly when the addition wraps. That an idle step is a slot edge is the model's choice (assumption 1). -/
def Obligations.AnEmptyQueueIsASlotEdge : Prop :=
  ∀ s : State, s.pending = [] →
    (s.tick.locked = false → step s = .next s)
    ∧ (s.tick.locked = true → ∃ t, step s = .next t ∧ t.tick.slot = (s.tick.slot + 1) % 2 ^ 64
      ∧ t.time.whorl = (s.time.whorl + s.time.effInc) % 2 ^ 64
      ∧ t.time.parity = if 2 ^ 64 ≤ s.time.whorl + s.time.effInc then !s.time.parity else s.time.parity)

/-- At reset the register table is in canonical form, and the slot count and the whorl are 64-bit numbers. -/
def Obligations.ResetMeetsTheInvariant : Prop :=
  Inv State.reset

/-- For every state, reached by a run or not, whose register table is canonical (keys strictly rise, no entry holds its reset value) and whose slot count and whorl are below 2^64: whatever command stands in front of the queue, and also with none, a step that answers a next state leads to a state with the same properties. -/
def Obligations.EveryStepKeepsTheInvariant : Prop :=
  ∀ s t : State, Inv s → step s = .next t → Inv t

/-- From a state that meets the invariant, every step that answers a next state leaves the ordering code, the grade, the stepping and the public-key digests as they are, lowers neither SVN minimum, keeps every revocation bit that is set, and does not lower the number of the next event-log record. -/
def Obligations.NoStepLosesIdentityOrFuses : Prop :=
  ∀ s t : State, Inv s → step s = .next t →
    t.fuses.code = s.fuses.code ∧ t.fuses.grade = s.fuses.grade ∧ t.fuses.step = s.fuses.step ∧ t.fuses.keyDigest = s.fuses.keyDigest
    ∧ s.fuses.svnMinBoot ≤ t.fuses.svnMinBoot ∧ s.fuses.svnMinFw ≤ t.fuses.svnMinFw
    ∧ (∀ i, s.fuses.revoked.testBit i = true → t.fuses.revoked.testBit i = true) ∧ s.log.nextSeq ≤ t.log.nextSeq

/-- From every state that meets the invariant, a command that answers a next state leaves unchanged every part of the state that the table of its possible changes does not name, every register (in every instance) that the table does not name, and the queue of waiting commands; the slot edge leaves unchanged all that its own row does not name. The table is an upper bound for each command, over all operands and states. -/
def Obligations.EveryCommandChangesOnlyItsParts : Prop :=
  (∀ (c : Instr) (s t : State), Inv s → exec c s = .next t → Within (mayChange c) s t)
  ∧ ∀ s : State, Inv s → Within edgeMayChange s (slotEdge s)

/-- POWER_ON_RESET always answers a next state. In it every instance of every register holds its reset value; the slot count, the time engine, the counters, the tables, the data path, the packets, the lanes, the host interface, the tree and the start-up state are as at reset; the straps are the two bits sampled; the fuses, the boot record, the retired cells, pages and stacks, the host area and the stored event log stay; the queue of waiting commands stays. Where the spec gives a register no reset value, the value is the model's choice (assumption 3). -/
def Obligations.PowerOnResetLeavesResetValues : Prop :=
  ∀ (straps : Nat) (flash : List (Nat × List Byte)) (s : State), ∃ t, exec (.powerOnReset straps flash) s = .next t
    ∧ (∀ r i, t.reg r i = r.resetAt i) ∧ t.tick = {} ∧ t.time = {} ∧ t.cnt = {} ∧ t.tab = {} ∧ t.path = {} ∧ t.pkts = {}
    ∧ t.lanes = {} ∧ t.host = {} ∧ t.tree = {} ∧ t.boot = {} ∧ t.samp = {} ∧ t.power = { straps := straps % 4 }
    ∧ t.fuses = s.fuses ∧ t.ks.bootRec = s.ks.bootRec ∧ t.ks.retiredCells = s.ks.retiredCells
    ∧ t.ks.retiredPages = s.ks.retiredPages ∧ t.ks.retiredStacks = s.ks.retiredStacks ∧ t.ks.hostArea = s.ks.hostArea
    ∧ t.log.stored = s.log.stored ∧ t.log.nextSeq = s.log.nextSeq ∧ t.pending = s.pending

/-- In a state that meets the invariant: PLL_LOCK before lock starts slot 0 with the whorl at 0 and sets LOCK; REFERENCE_LOST of a locked PLL clears LOCK, sets REF_LOSS and leaves slot count and whorl alone; REFERENCE_RESTORED sets LOCK and RELOCK. TICK_SLOT_READ by a sender that may read answers the low 32 bits of the slot count and latches the high ones into TICK_SLOT_HI. -/
def Obligations.ClockAndReferenceEvents : Prop :=
  ∀ s : State, Inv s →
    (s.tick.locked = false → ∃ t, exec .pllLock s = .next t ∧ t.tick = { s.tick with locked := true, slot := 0 }
      ∧ t.time = { s.time with whorl := 0, parity := false } ∧ t.flag F.tickStat_LOCK 0 = true)
    ∧ (s.tick.locked = true → s.tick.refHold = false → ∃ t, exec .referenceLost s = .next t ∧ t.tick.refHold = true
      ∧ t.tick.slot = s.tick.slot ∧ t.time = s.time ∧ t.flag F.tickStat_LOCK 0 = false ∧ t.flag F.tickStat_REF_LOSS 0 = true)
    ∧ (s.tick.refHold = true → ∃ t, exec .referenceRestored s = .next t ∧ t.tick.refHold = false
      ∧ t.tick.slot = s.tick.slot ∧ t.time = s.time ∧ t.flag F.tickStat_LOCK 0 = true ∧ t.flag F.tickStat_RELOCK 0 = true)
    ∧ (∀ who, s.refusal who (Reg.tickSlotLo.offset 0) false = none → ∃ t, exec (.tickSlotRead who) s = .next t
      ∧ t.out = s.out ++ [.readData who (Reg.tickSlotLo.offset 0) (word s.tick.slot)]
      ∧ t.reg .tickSlotHi 0 = word (s.tick.slot / 2 ^ 32) ∧ t.tick = s.tick)

/-- In a state that meets the invariant. BOOT_ROM_START, with the clock locked, no core reset, no firmware and STAGE 0, counts STARTS to at most 255, writes CAUSE, and with a boot slot chosen sets STAGE 1 and BOOT_SLOT; with none valid it sets STAGE 3. BOOT_CODE_START in stage 1 leaves the set-up locked, and either STAGE 2 or RECOVERY set, and restarts the watchdog's count. FIRMWARE_START in stage 2 answers a state in which the held commands are checked after RUNNING has been set, no handover is left and the watchdog's count has begun again. -/
def Obligations.StartUpStages : Prop :=
  (∀ s : State, Inv s → s.tick.locked = true → s.inCore = false → s.fwRunning = false → s.stage = 0 →
    (∀ k, s.chooseBoot = some k → ∃ t, exec .bootRomStart s = .next t ∧ t.stage = 1 ∧ t.fld F.protBoot_BOOT_SLOT 0 = (k - 2) % 2
      ∧ t.fld F.protBoot_STARTS 0 = min 255 (s.fld F.protBoot_STARTS 0 + 1) ∧ t.fld F.protBoot_CAUSE 0 = s.boot.nextCause % 16)
    ∧ (s.chooseBoot = none → ∃ t, exec .bootRomStart s = .next t ∧ t.stage = 3
      ∧ t.fld F.protBoot_STARTS 0 = min 255 (s.fld F.protBoot_STARTS 0 + 1)))
  ∧ (∀ (setup : List (Nat × Word)) (s : State), Inv s → s.stage = 1 → s.fwRunning = false →
    ∃ t, exec (.bootCodeStart setup) s = .next t ∧ t.flag F.protCtl_LOCK 0 = true
      ∧ (t.stage = 2 ∨ t.flag F.protBoot_RECOVERY 0 = true) ∧ t.boot.kickEpoch = t.epoch)
  ∧ (∀ s : State, s.stage = 2 → s.flag F.protBoot_RUNNING 0 = false → s.inCore = false →
    ∃ t : State, exec .firmwareStart s = .next (t.setFld F.protBoot_RUNNING 0 1).checkAll ∧ t.boot.handover = false
      ∧ t.boot.kickEpoch = t.epoch)

/-- In a state that meets the invariant, while no core reset runs. CORE_RESET by a sender that may write PROT_RST starts the core reset of all quadrants in the present slot, with the control complex: its jobs and consumed commands are lost and its next start has cause 1; slot count, time and queue stay. CONTROL_COMPLEX_RESET clears the control complex only: the data path, the address tables, the slot count and the time stay, and its next start has cause 2. QUADRANT_RESET with no reset running starts a reset of every present quadrant named, and does nothing where none is present. While a core reset runs, each of them changes nothing (R582). A write by any other SID is refused: the state then differs only as violation or access records it. -/
def Obligations.ResetRequests : Prop :=
  (∀ (who : Sender) (s : State), Inv s → SecureWriter who (Reg.protRst.offset 0) s → s.inCore = false →
    (∃ t, exec (.coreReset who) s = .next t ∧ t.boot.reset = some { core := true, quads := 15, start := s.tick.slot, cause := 1 }
      ∧ t.boot.nextCause = 1 ∧ t.tab.jobs = [] ∧ t.pkts.taken = [] ∧ t.tick = s.tick ∧ t.time = s.time ∧ t.pending = s.pending)
    ∧ (∃ t, exec (.controlComplexReset who) s = .next t ∧ t.boot.reset = s.boot.reset ∧ t.boot.nextCause = 2 ∧ t.tab.jobs = []
      ∧ t.pkts.taken = [] ∧ t.path = s.path ∧ t.tab.addr = s.tab.addr ∧ t.tick = s.tick ∧ t.time = s.time)
    ∧ (∀ quads, s.boot.reset = none → (∀ q, q < 4 → quads.testBit q = true → s.hasQuad q = false) → exec (.quadrantReset who quads) s = .next s)
    ∧ (∀ quads q, s.boot.reset = none → q < 4 → quads.testBit q = true → s.hasQuad q = true →
      ∃ t k, exec (.quadrantReset who quads) s = .next t ∧ t.boot.reset = some k ∧ k.core = false ∧ k.quads.testBit q = true
        ∧ k.start = s.tick.slot ∧ t.tick = s.tick ∧ t.time = s.time))
  ∧ (∀ (who : Sender) (s : State), SecureWriter who (Reg.protRst.offset 0) s → s.inCore = true →
    exec (.coreReset who) s = .next s ∧ exec (.controlComplexReset who) s = .next s ∧ ∀ quads, exec (.quadrantReset who quads) s = .next s)
  ∧ (∀ (rid : Nat) (ide : Bool) (s : State), sidSecure (s.sid (.host rid ide)) = false →
    ∃ kind, exec (.coreReset (.host rid ide)) s = .next (s.violation kind (s.sid (.host rid ide)) (Reg.protRst.offset 0) true))

/-- A core or quadrant reset, with its supply good and no thermal trip, ends at RESET_RELEASE once 1,024 slots have passed since its start, not before; then every present quadrant initialises. CB_INIT_DONE, 4,096 slots after the release, sets INIT_DONE of the slice, and without retired cells on record its pool has 65,536 free cells. DT_INIT_DONE sets INIT_DONE of the quadrant. FIRMWARE_RESTORATION, with firmware running, no reset and every cleared quadrant that is present initialised, ends the restoration. -/
def Obligations.ReleaseAndInitialisation : Prop :=
  (∀ (s : State) (k : RunningReset), s.boot.reset = some k → s.power.coreLost = false → s.power.trip = false →
    (s.tick.slot < k.start + 1024 → exec .resetRelease s = .next s)
    ∧ (k.start + 1024 ≤ s.tick.slot → ∃ t, exec .resetRelease s = .next t ∧ t.boot.reset = none
      ∧ ∀ q, t.initialising q = (s.tick.locked && s.hasQuad q)))
  ∧ (∀ (sl : Nat) (s : State), Inv s → s.hasSlice sl = true → s.initialising (Config.quadOfSlice sl) = true →
    s.flag F.cbStat_INIT_DONE sl = false → s.initFrom (Config.quadOfSlice sl) + 4096 ≤ s.tick.slot →
    ∃ t, exec (.cbInitDone sl) s = .next t ∧ t.flag F.cbStat_INIT_DONE sl = true
      ∧ (s.ks.retiredCells.filter (fun k => k / 65536 = sl) = [] → (t.pool sl).free = 65536))
  ∧ (∀ (q : Nat) (s : State), Inv s → s.initialising q = true → s.flag F.dtStat_INIT_DONE q = false →
    ∃ t, exec (.dtInitDone q) s = .next t ∧ t.flag F.dtStat_INIT_DONE q = true)
  ∧ ∀ (s : State) (sh : Shadow), s.shadow = some sh → s.flag F.protBoot_RUNNING 0 = true → s.boot.reset = none →
    (∀ q, q < 4 → sh.quads.testBit q = true → s.hasQuad q = true → s.quadReady q = true) →
    ∃ t, exec .firmwareRestoration s = .next t ∧ t.shadow = none ∧ s.log.nextSeq + 2 ≤ t.log.nextSeq

/-- In a state that meets the invariant. A write of PROT_CTL by the control complex sets LOCK where bit 31 is 1 and clears it never. A kick writes the epoch of the watchdog's count. An enabled watchdog whose 1,024 epochs have passed resets the control complex: PROT_STAT.WDT sets, the next start has cause 3 and firmware stops. A revocation by a sender that may write PROT_DMA_REVOKE clears VALID of exactly the named windows. With a switch due, the conditions of R597 met and no command under way, FW_SWITCH resets the control complex with its state handed over; with commands under way it stops consuming, and after 15,625,000 slots resets it. At the deadline of a trial, with a healthy keep store and its energy, firmware opens the session of its revert. -/
def Obligations.ProtectionWatchdogAndSwitch : Prop :=
  (∀ (v : Word) (s : State), Inv s → ∃ t, exec (.protLock .cc v) s = .next t
    ∧ t.flag F.protCtl_LOCK 0 = (s.flag F.protCtl_LOCK 0 || v.toNat.testBit 31))
  ∧ (∀ (v : Word) (s : State), v.toNat.testBit 0 = true → ∃ t, exec (.watchdogKick .cc v) s = .next t ∧ t.boot.kickEpoch = s.epoch)
  ∧ (∀ s : State, Inv s → s.flag F.protWdt_EN 0 = true → s.fwRunning = true → s.inCore = false → s.boot.kickEpoch + 1024 ≤ s.epoch →
    ∃ t, exec .watchdogExpire s = .next t ∧ t.flag F.protStat_WDT 0 = true ∧ t.boot.nextCause = 3 ∧ t.fwRunning = false
      ∧ t.boot.handover = false ∧ t.stage = 0 ∧ t.path = s.path)
  ∧ (∀ (who : Sender) (v : Word) (s : State) (k : Nat), Inv s → SecureWriter who (Reg.protDmaRevoke.offset 0) s → k < 16 →
    ∃ t, exec (.dmaWindowRevoke who v) s = .next t
      ∧ t.flag F.protDmaCfg_VALID k = (s.flag F.protDmaCfg_VALID k && !v.toNat.testBit k))
  ∧ (∀ (s : State) (k cause : Nat), Inv s → s.boot.switchTo = some (k, cause) → s.fwRunning = true →
    (s.boot.switchAt = none → s.mayStartSwitch = true → s.tab.jobs = [] → ∃ t, exec .fwSwitch s = .next t ∧ t.boot.nextCause = cause
      ∧ t.boot.handover = true ∧ t.fwRunning = false ∧ t.cnt = s.cnt ∧ t.lanes = s.lanes ∧ t.path = s.path)
    ∧ (s.boot.switchAt = none → s.mayStartSwitch = true → s.tab.jobs ≠ [] →
      ∃ t, exec .fwSwitch s = .next t ∧ t.boot.switchAt = some s.tick.slot ∧ t.tab = s.tab)
    ∧ ∀ at0, s.boot.switchAt = some at0 → at0 + 15625000 ≤ s.tick.slot → ∃ t, exec .fwSwitch s = .next t ∧ t.boot.nextCause = cause
      ∧ t.boot.handover = true ∧ t.tab.jobs = [] ∧ t.fwRunning = false)
  ∧ ∀ s : State, Inv s → s.flag F.protBoot_RUNNING 0 = true → s.nextRecord.trial = true → s.nextRecord.deadline ≤ s.tick.slot →
    s.boot.switchTo = none → s.ksFaulted = false → s.energyFor 64 = true →
    ∃ t, exec .trialDeadline s = .next t ∧ t.ks.sessions = s.ks.sessions ++ [{ data := s.nextRecord.revert }]
      ∧ t.flag F.ksStat_SESSION 0 = true ∧ t.log.nextSeq = s.log.nextSeq + 1

/-- In a state that meets the invariant. A sag of source 1 to 3 with the hold-up charged and the island on VAO sets SAG and ON_HOLD, writes the source, counts, and starts the save into the slot other than the newest one where none runs; on VHOLD a sag starts nothing. A save that ends well, with no session open, makes its slot valid, writes KS_SAVE_SEQ, clears SAVE_BUSY and sets SAVE_DONE; one that fails sets SAVE_FAIL and leaves the slots. The end of a sag clears ON_HOLD and sets SAG_END. The loss of a core rail while the island is held starts the core reset, sets CORE_LOSS and is remembered; otherwise it is a power-on reset. The return of the rails starts the 1,024 slots again. Exhausted hold-up is a power-on reset. VDD undervoltage sets VDD_UV, and the first charge arms the sag detection. -/
def Obligations.SagsAndSupplies : Prop :=
  (∀ (src : Nat) (s : State), Inv s → src % 4 ≠ 0 → s.power.charged = true →
    (s.flag F.pwrStat_ON_HOLD 0 = true → exec (.sagBegin src) s = .next s)
    ∧ (s.flag F.pwrStat_ON_HOLD 0 = false → s.ks.save = none → ∃ t slot img, exec (.sagBegin src) s = .next t
      ∧ t.flag F.pwrStat_SAG 0 = true ∧ t.flag F.pwrStat_ON_HOLD 0 = true ∧ t.fld F.pwrSagInfo_SOURCE 0 = src % 4
      ∧ t.cnt = (s.count .pwrSagCnt 0 1).cnt ∧ t.ks.save = some (slot, img) ∧ img.slot = s.tick.slot ∧ img.whorl = s.whorlNs
      ∧ (∀ e, s.ks.newest = some e → slot = 1 - e.1 ∧ img.seq = e.2.seq + 1) ∧ t.flag F.ksStat_SAVE_BUSY 0 = true))
  ∧ (∀ (s : State) (slot : Nat) (img : SaveImage), Inv s → s.ks.save = some (slot, img) → s.ks.sessions = [] →
    (∃ t, exec (.saveComplete true) s = .next t ∧ t.ks.save = none ∧ OTable.get? t.ks.saves slot = some img
      ∧ t.reg .ksSaveSeq 0 = word img.seq ∧ t.flag F.ksStat_SAVE_BUSY 0 = false ∧ t.flag F.ksStat_SAVE_DONE 0 = true)
    ∧ ∃ t, exec (.saveComplete false) s = .next t ∧ t.ks.save = none ∧ t.ks.saves = s.ks.saves
      ∧ t.flag F.ksStat_SAVE_BUSY 0 = false ∧ t.flag F.ksStat_SAVE_FAIL 0 = true)
  ∧ (∀ s : State, Inv s → s.flag F.pwrStat_ON_HOLD 0 = true → ∃ t, exec .sagEnd s = .next t
    ∧ t.flag F.pwrStat_ON_HOLD 0 = false ∧ t.flag F.pwrStat_SAG_END 0 = true)
  ∧ (∀ (rails : Nat) (s : State), Inv s → s.power.coreLost = false →
    (s.flag F.pwrStat_ON_HOLD 0 = true → ∃ t k, exec (.coreSupplyLoss rails) s = .next t ∧ t.power.coreLost = true
      ∧ t.boot.reset = some k ∧ k.core = true ∧ t.flag F.pwrStat_CORE_LOSS 0 = true ∧ t.tick = s.tick ∧ t.time = s.time
      ∧ t.ks.saves = s.ks.saves)
    ∧ (s.flag F.pwrStat_ON_HOLD 0 = false → exec (.coreSupplyLoss rails) s = .next (s.powerOn s.power.straps s.flash)))
  ∧ (∀ s : State, s.power.coreLost = true → ∃ t k, exec .coreSupplyRestored s = .next t ∧ t.power.coreLost = false
    ∧ t.boot.reset = some k ∧ k.core = true ∧ k.start = s.tick.slot)
  ∧ (∀ s : State, s.flag F.pwrStat_ON_HOLD 0 = true → ∃ t, exec .vholdExhausted s = .next t
    ∧ t = s.powerOn s.power.straps s.flash ∧ t.regs = State.reset.regs ∧ t.tick = State.reset.tick ∧ t.fuses = s.fuses ∧ t.flash = s.flash)
  ∧ (∀ s : State, Inv s → ∃ t, exec .vddUndervoltage s = .next t ∧ t.flag F.pwrStat_VDD_UV 0 = true)
  ∧ ∀ s : State, ∃ t, exec .vholdFirstCharge s = .next t ∧ t.power.charged = true ∧ t.regs = s.regs

/-- In a state that meets the invariant. A completed capacitor test sets CAP_STATE to SHORT, ABSENT, LOW_C, HIGH_ESR or OK by its measurements. A run-time check writes VHOLD, and makes the state SHORT once it has been low for an epoch. Above 12.0 V the charger turns off and OK becomes OVER. The energy check sets SAVE_RISK exactly where E_avail is below the reserve of 40 mJ. SAVE_IMAGE_UPDATE refreshes the save buffer with the log tail. The end of a session without worn pages stores a host write in the host area and counts; with more worn pages than spares it sets WR_ERR and changes neither. A temperature sample puts a valid reading into its sensor register. -/
def Obligations.CapacitorSessionsAndHeat : Prop :=
  (∀ (low : Bool) (rise esr : Nat) (s : State), Inv s → s.fld F.pwrStat_CAP_STATE 0 = 0 →
    ∃ t, exec (.capTestComplete low rise esr) s = .next t
      ∧ t.fld F.pwrStat_CAP_STATE 0 = (if low then 3 else if rise < 80000 then 2 else if rise < 352000 then 4 else if 500 < esr then 5 else 1)
      ∧ t.fld F.pwrCap_C 0 = min (rise / 160) 65535 ∧ t.fld F.pwrCap_ESR 0 = min esr 65535)
  ∧ (∀ (mv : Nat) (s : State), Inv s → (10000 ≤ mv → ∃ t, exec (.capRuntimeCheck mv) s = .next t ∧ t.power.lowSince = none
      ∧ t.fld F.pwrHoldV_MV 0 = min mv 16383 ∧ t.fld F.pwrStat_CAP_STATE 0 = s.fld F.pwrStat_CAP_STATE 0)
    ∧ ∀ at0, mv < 10000 → s.flag F.pwrCtl_CHG_EN 0 = true → s.flag F.pwrStat_ON_HOLD 0 = false → s.power.lowSince = some at0 →
      s.fld F.pwrStat_CAP_STATE 0 = 1 → at0 + 1048576 ≤ s.tick.slot →
      ∃ t, exec (.capRuntimeCheck mv) s = .next t ∧ t.fld F.pwrStat_CAP_STATE 0 = 3 ∧ t.flag F.pwrStat_CAP_FAULT 0 = true)
  ∧ (∀ (mv : Nat) (s : State), Inv s → 12000 < mv → ∃ t, exec (.capOvervoltage mv) s = .next t ∧ t.flag F.pwrCtl_CHG_EN 0 = false
    ∧ (s.fld F.pwrStat_CAP_STATE 0 = 1 → t.fld F.pwrStat_CAP_STATE 0 = 6 ∧ t.flag F.pwrStat_CAP_FAULT 0 = true))
  ∧ (∀ (mv : Nat) (s : State), Inv s → s.flag F.protBoot_RUNNING 0 = true → s.epochOffset = 786432 →
    ∃ t, exec (.holdupEnergyCheck mv) s = .next t ∧ t.flag F.ksStat_SAVE_RISK 0 = decide (t.energy2 < 2000000 * 40000))
  ∧ (∀ s : State, s.flag F.protBoot_RUNNING 0 = true → ∃ t img, exec .saveImageUpdate s = .next t ∧ t.ks.image = some img
    ∧ img.tail = s.log.tail ∧ img.cfgTail = s.log.cfgTail)
  ∧ (∀ (s : State) (off : Nat) (bs : List Byte) (rest : List Session), s.ks.sessions = { data := .host off bs } :: rest →
    (∃ t, exec (.ksSessionComplete 0) s = .next t ∧ t.ks.sessions = rest ∧ t.cnt = (s.count .ksSessionCnt 0 1).cnt
      ∧ t.ks.hostArea = bs.zipIdx.foldl (fun m e => Table.set (fun _ => 0) m (off + e.2) e.1) s.ks.hostArea)
    ∧ ∀ worn, s.ks.spares < worn → Inv s → ∃ t, exec (.ksSessionComplete worn) s = .next t ∧ t.ks.sessions = rest ∧ t.ks.failed = true
      ∧ t.ks.hostArea = s.ks.hostArea ∧ t.cnt = s.cnt ∧ t.flag F.ksStat_WR_ERR 0 = true)
  ∧ ∀ (temp : Int) (s : State), Inv s → s.tick.slot % 1024 = 0 → -320 ≤ temp → temp < 60 * 8 → s.inCore = false → s.power.trip = false →
    ∃ t, exec (.thermalSample [temp]) s = .next t ∧ t.flag F.thmTemp_VALID 0 = true ∧ toSigned 12 (t.fld F.thmTemp_TEMP 0) = temp

/-- A read of TICK_SLOT_LO that is not refused returns the low half of the slot count and latches the high half; a refused one returns 0 and is recorded. A read of TS_WHORL_NS returns the whorl and latches its fraction and network time. The writes of TS_INC_NS, TS_SLEW_COUNT and TS_BASE_CTL take effect for the owner of the time registers and change nothing for another sender. The edge with a wrap inverts PARITY; an unarmed next base then leaves network time stale. The last slot of a slew clears it and sets SLEW_DONE. Firmware's load of the next base continues the active one by 2^32 ns and arms it. -/
def Obligations.TimeRegisterAccesses : Prop :=
  (∀ (who : Sender) (s : State),
    (s.refusal who (Reg.tickSlotLo.offset 0) false = none → exec (.tickSlotRead who) s =
      .next ((s.setReg .tickSlotHi 0 (word (s.tick.slot / 2 ^ 32))).emit (.readData who (Reg.tickSlotLo.offset 0) (word s.tick.slot))))
    ∧ ∀ k, s.refusal who (Reg.tickSlotLo.offset 0) false = some k → ∃ t, exec (.tickSlotRead who) s = .next t
      ∧ t.out = s.out ++ [.readData who (Reg.tickSlotLo.offset 0) 0] ∧ t.cnt = (s.count .protViolCnt 0 1).cnt)
  ∧ (∀ (who : Sender) (s : State), Inv s → s.refusal who (Reg.tsWhorlNs.offset 0) false = none →
    ∃ t, exec (.whorlRead who) s = .next t ∧ t.out = s.out ++ [.readData who (Reg.tsWhorlNs.offset 0) (word s.whorlNs)]
      ∧ t.reg .tsWhorlFrac 0 = word (s.time.whorl % 2 ^ 32) ∧ t.reg .tsNtNs 0 = word (s.netNs % 1000000000)
      ∧ t.reg .tsNtSecLo 0 = word (s.netNs / 1000000000) ∧ t.flag F.tsNtSecHi_VALID 0 = s.netValid
      ∧ t.flag F.tsNtSecHi_PARITY 0 = s.time.parity ∧ t.fld F.tsNtSecHi_SEC 0 = s.netNs / 1000000000 / 2 ^ 32 % 2 ^ 16)
  ∧ (∀ (who : Sender) (v : Word) (s : State), s.refusal who (Reg.tsIncNs.offset 0) true = none →
    (s.ownsTime who = true → exec (.tsIncCommit who v) s =
      .next { s with time := { s.time with incPend := some (v.toNat % 256 * 2 ^ 32 + s.time.incShadow) } })
    ∧ (s.ownsTime who = false → exec (.tsIncCommit who v) s = .next s))
  ∧ (∀ (who : Sender) (v : Word) (s : State), s.refusal who (Reg.tsSlewCount.offset 0) true = none →
    (s.ownsTime who = true → ∃ t, exec (.slewStart who v) s = .next t ∧ t.time = { s.time with slewPend := some v.toNat })
    ∧ (s.ownsTime who = false → exec (.slewStart who v) s = .next s))
  ∧ (∀ (who : Sender) (v : Word) (s : State), Inv s → s.refusal who (Reg.tsBaseCtl.offset 0) true = none →
    (s.ownsTime who = true → ∃ t, exec (.baseLoad who v) s = .next t ∧ t.flag F.tsBaseCtl_TGT 0 = v.toNat.testBit 30
      ∧ t.time = { s.time with loadPend := if v.toNat.testBit 31 then some (v.toNat.testBit 30) else s.time.loadPend })
    ∧ (s.ownsTime who = false → exec (.baseLoad who v) s = .next s))
  ∧ (∀ s : State, s.fwRunning = true → s.time.nextLoadDue = true → s.epochOffset = 0 → s.time.todSet = true →
    s.flag F.tsCtl_HOST_OWN 0 = false → ∃ t, exec .nextBaseLoad s = .next t ∧ t.time.nextLoadDue = false
      ∧ t.time.parity = s.time.parity ∧ t.time.active = s.time.active ∧ t.time.next = NetBase.ofNs (s.time.active.total + 2 ^ 32)
      ∧ t.time.arm (!t.time.parity) = true)
  ∧ (∀ s : State, Inv s → s.tick.locked = true → s.time.wraps = true → ∃ t, exec .whorlWrap s = .next t
    ∧ t.time.whorl + 2 ^ 64 = s.time.whorl + s.time.effInc ∧ t.time.parity = !s.time.parity ∧ t.tick.slot = (s.tick.slot + 1) % 2 ^ 64
    ∧ (s.time.loadPend = none → s.time.todSet = true → s.time.arm (!s.time.parity) = false →
      t.netValid = false ∧ t.flag F.tsStat_STALE 0 = true))
  ∧ ∀ s : State, Inv s → s.tick.locked = true → s.time.slewLeft = 1 → s.time.slewPend = none →
    ∃ t, exec .slewEnd s = .next t ∧ t.time.slewLeft = 0 ∧ t.flag F.tsStat_SLEW_DONE 0 = true
      ∧ t.time.whorl = (s.time.whorl + s.time.effInc) % 2 ^ 64

/-- While firmware runs in a mode with a servo, a measurement is kept as the last offset; a source that qualifies takes FREE_RUN to ACQUIRING; an offset beyond STEP_NS in ACQUIRING loads the active base; the sixteenth good measurement takes ACQUIRING to LOCKED, with an increment inside its bounds; a lost source takes LOCKED to HOLDOVER with the mean increment of its history. HOLD_MAX epochs take HOLDOVER to FREE_RUN with the increment kept. A hint lapses after 1.5 s; without an edge for 1.1 s the source is lost. SQUELCHED of a recovered clock follows its conditions, sets SQ_CHG and shows on its pin. -/
def Obligations.ServoAndItsSources : Prop :=
  (∀ (offset : Int) (s : State), s.fwRunning = true → s.time.servo.mode ≠ 0 → s.time.servo.mode ≠ 3 →
    (s.time.servo.state = .freeRun → ∃ t, exec (.servoMeasurement offset true) s = .next t ∧ t.time.servo.state = .acquiring
      ∧ t.time.servo.lastOffset = offset ∧ t.time.servo.qualified = true)
    ∧ (s.time.servo.state = .acquiring → s.time.servo.stepNs < offset.natAbs → Inv s →
      ∃ t, exec (.servoMeasurement offset true) s = .next t ∧ t.flag F.tsStat_ACT_LOAD 0 = true ∧ t.time.todSet = true
        ∧ t.time.staleAct = false ∧ t.time.servo.state = .acquiring)
    ∧ (s.time.servo.state = .acquiring → offset.natAbs ≤ s.time.servo.stepNs → offset.natAbs ≤ s.time.servo.lockNs →
      15 ≤ s.time.servo.goodRun → ∃ t inc, exec (.servoMeasurement offset true) s = .next t ∧ t.time.servo.state = .locked
        ∧ t.time.servo.lastOffset = offset ∧ t.time.incPend = some inc ∧ Config.incMin ≤ inc ∧ inc ≤ Config.incMax)
    ∧ (s.time.servo.state = .locked → ∃ t, exec (.servoMeasurement offset false) s = .next t ∧ t.time.servo.state = .holdover
      ∧ t.time.incPend = some s.meanInc ∧ t.time.servo.qualified = false))
  ∧ (∀ s : State, s.fwRunning = true → s.time.servo.state = .holdover → s.time.servo.holdMax ≤ s.epoch - s.time.servo.since →
    ∃ t, exec .holdoverExpire s = .next t ∧ t.time.servo.state = .freeRun ∧ t.time.inc = s.time.inc ∧ t.time.incPend = s.time.incPend)
  ∧ (∀ (s : State) (sec at0 : Nat), s.time.servo.hint = some (sec, at0) → at0 + 3 * Config.slotsPerSec / 2 ≤ s.tick.slot →
    ∃ t, exec .todHintLapse s = .next t ∧ t.time.servo.hint = none ∧ t.log.nextSeq = s.log.nextSeq + 1)
  ∧ (∀ s : State, s.fwRunning = true → s.time.servo.mode = 2 → s.time.servo.lastPps.isSome = true →
    s.time.servo.lastEdgeSlot + 11 * Config.slotsPerSec / 10 ≤ s.tick.slot →
    ∃ t, exec .ppsSourceTimeout s = .next t ∧ t.time.servo.qualified = false ∧ t.time.servo.lastPps = none
      ∧ (s.time.servo.state = .acquiring → t.time.servo.state = .freeRun))
  ∧ ∀ (r : Nat) (s : State), Inv s → r < 2 → s.rclkSquelched r ≠ s.flag F.tsRclkStat_SQUELCHED r →
    ∃ t, exec (.rclkSquelchChange r) s = .next t ∧ t.flag F.tsRclkStat_SQUELCHED r = s.rclkSquelched r
      ∧ t.flag F.tsRclkStat_SQ_CHG r = true ∧ t.out = s.out ++ [.pin 2 r (s.rclkSquelched r)]

/-- Setting EN of an event output by the control complex arms it at its start where that lies ahead, and otherwise clears EN and sets MISSED. Its asserting edge sets ACTIVE, drives its pin and puts the next edge WIDTH later; the deasserting edge of a one-shot clears ACTIVE and sets DONE. PPS_OUT rises as the second passes and falls at its time. A selected edge of a capture input is stamped with the whorl and its direction and joins the FIFO, and with 16 records held it is lost with OVF. The owner's read pops the oldest record; of an empty FIFO it returns 0 with VALID 0. -/
def Obligations.EventOutputsAndCaptures : Prop :=
  (∀ (n : Nat) (v : Word) (s : State), Inv s → n < 8 → v.toNat.testBit 31 = true → s.flag F.tsEvtCtl_EN n = false →
    (s.dueAt (s.reg .tsEvtStart n).toNat = false → ∃ t, exec (.eventOutputArm .cc n v) s = .next t
      ∧ OTable.get? t.time.outputs n = some { next := (s.reg .tsEvtStart n).toNat * 256 + s.fld F.tsEvtFrac_START_FRAC n }
      ∧ t.flag F.tsEvtCtl_EN n = true)
    ∧ (s.dueAt (s.reg .tsEvtStart n).toNat = true → ∃ t, exec (.eventOutputArm .cc n v) s = .next t ∧ t.flag F.tsEvtCtl_EN n = false
      ∧ t.flag F.tsEvtStat_MISSED n = true ∧ t.time.outputs = s.time.outputs))
  ∧ (∀ (n : Nat) (r : EvtRun) (s : State), Inv s → OTable.get? s.time.outputs n = some r → s.due256 r.next = true →
    (r.high = false → ∃ t, exec (.eventOutputEdge n) s = .next t ∧ t.flag F.tsEvtStat_ACTIVE n = true
      ∧ t.out = s.out ++ [.pin 0 n (!s.flag F.tsEvtCtl_POL n)]
      ∧ OTable.get? t.time.outputs n = some { next := (r.next + s.fld F.tsEvtWidth_NS n * 256) % 2 ^ 40, high := true })
    ∧ (r.high = true → s.flag F.tsEvtCtl_PERIODIC n = false → ∃ t, exec (.eventOutputEdge n) s = .next t
      ∧ t.flag F.tsEvtStat_ACTIVE n = false ∧ t.flag F.tsEvtStat_DONE n = true ∧ t.out = s.out ++ [.pin 0 n (s.flag F.tsEvtCtl_POL n)]
      ∧ (s.meet.writes = [] → t.flag F.tsEvtCtl_EN n = false)))
  ∧ (∀ s : State, (s.time.ppsHigh = none → s.flag F.tsPpsCfg_EN 0 = true → s.netValid = true → s.secondPasses = true →
      ∃ t, exec .ppsOutPulse s = .next t ∧ t.time.ppsHigh.isSome = true ∧ t.out = s.out ++ [.pin 1 0 true])
    ∧ ∀ at0, s.time.ppsHigh = some at0 → s.due256 at0 = true →
      exec .ppsOutPulse s = .next ({ s with time := { s.time with ppsHigh := none } }.emit (.pin 1 0 false)))
  ∧ (∀ (j sub : Nat) (rise : Bool) (s : State), Inv s → j < 5 → s.capSelects j rise = true → OTable.get? s.time.lastEdge j = none →
    s.time.servo.mode ≠ 2 →
    ((s.captures j).length < 16 → ∃ t r, exec (.captureEdge j sub rise) s = .next t ∧ t.captures j = s.captures j ++ [r]
      ∧ r.rise = rise ∧ r.ns = (s.time.whorl / 2 ^ 24 + sub * 256 / 100) / 256 % 2 ^ 32
      ∧ r.frac = (s.time.whorl / 2 ^ 24 + sub * 256 / 100) % 256 ∧ t.fld F.tsCapStat_LEVEL j = (s.captures j).length + 1)
    ∧ (16 ≤ (s.captures j).length → ∃ t, exec (.captureEdge j sub rise) s = .next t ∧ t.captures j = s.captures j
      ∧ t.flag F.tsCapStat_OVF j = true ∧ t.cnt = (s.count .tsCapOvfCnt j 1).cnt))
  ∧ ∀ (j : Nat) (s : State), Inv s → j < 5 → s.flag F.tsCapCtl_OWNER j = true →
    (∀ r l, s.captures j = r :: l → l.length < 16 → r.frac < 256 → ∃ t, exec (.capturePop .cc j) s = .next t
      ∧ t.out = s.out ++ [.readData .cc (Reg.tsCapNs.offset j) (word r.ns)] ∧ t.flag F.tsCapInfo_VALID j = true
      ∧ t.flag F.tsCapInfo_RISE j = r.rise ∧ t.fld F.tsCapStat_LEVEL j = l.length ∧ (l ≠ [] → t.captures j = l))
    ∧ (s.captures j = [] → ∃ t, exec (.capturePop .cc j) s = .next t
      ∧ t.out = s.out ++ [.readData .cc (Reg.tsCapNs.offset j) 0] ∧ t.flag F.tsCapInfo_VALID j = false)

/-- In a state that meets the invariant. Setting ARM of an entry by the control complex arms it where its action is 0 to 3 and its target lies ahead; a target already due is missed with cause 2 and another action with cause 7. When entries fall due and none of them is a register write, each one without a cause sets its TICK_SCH_DONE bit, a doorbell among them sets its bit, and each with a cause sets its TICK_SCH_MISSED bit. The check of the held list writes a near command of one action into a free entry: its target is the whorl instant of its time, its handle stands in the entry and ARM is set. After a load of the active base, a command whose time has passed leaves the list and its entries are disarmed. -/
def Obligations.ScheduledCommands : Prop :=
  (∀ (e : Nat) (v : Word) (s : State), Inv s → e < 32 → v.toNat.testBit 31 = true → s.flag F.tickSchAct_ARM e = false →
    (v.toNat / 2 ^ 24 % 16 ≤ 3 → s.dueAt (s.reg .tickSchTgt e).toNat = false → ∃ t, exec (.scheduleEntryArm .cc e v) s = .next t
      ∧ t.flag F.tickSchAct_ARM e = true ∧ t.fld F.tickSchAct_ACTION e = v.toNat / 2 ^ 24 % 16 ∧ t.fld F.tickSchAct_HANDLE e = v.toNat % 2 ^ 16)
    ∧ (v.toNat / 2 ^ 24 % 16 ≤ 3 → s.dueAt (s.reg .tickSchTgt e).toNat = true → ∃ t, exec (.scheduleEntryArm .cc e v) s = .next t
      ∧ t.flag F.tickSchAct_ARM e = false ∧ t.fld F.tickSchAct_MISS_CAUSE e = 2 ∧ t.regBit .tickSchMissed 0 e = true)
    ∧ (3 < v.toNat / 2 ^ 24 % 16 → ∃ t, exec (.scheduleEntryArm .cc e v) s = .next t
      ∧ t.flag F.tickSchAct_ARM e = false ∧ t.fld F.tickSchAct_MISS_CAUSE e = 7 ∧ t.regBit .tickSchMissed 0 e = true))
  ∧ (∀ s : State, Inv s → (∀ e, e ∈ s.dueEntries → s.fld F.tickSchAct_ACTION e ≠ 2) → ∃ t, exec .scheduleEntryDue s = .next t
    ∧ ∀ e, e ∈ s.dueEntries →
      (s.dueCause e = 0 → t.regBit .tickSchDone 0 e = true ∧ (s.fld F.tickSchAct_ACTION e = 3 → (s.reg .tickSchData e).toNat % 64 < 32 →
        t.regBit .mbD2hDbLo 0 ((s.reg .tickSchData e).toNat % 64) = true))
      ∧ (s.dueCause e ≠ 0 → t.regBit .tickSchMissed 0 e = true))
  ∧ (∀ (s : State) (h : Held) (a : SchedAct), Inv s → s.flag F.protBoot_RUNNING 0 = true → s.tick.held = [h] → h.entries = [] →
    h.acts = [a] → 1 ≤ a.action → a.action ≤ 3 → s.freeEntries ≠ [] → s.netNs < h.time → h.time < s.netNs + 2 ^ 30 →
    s.time.held = [] → s.path.gclHeld = [] →
    ∃ t e, exec .heldListCheck s = .next t ∧ e ∈ s.freeEntries ∧ t.flag F.tickSchAct_ARM e = true
      ∧ (t.reg .tickSchTgt e).toNat = (s.whorlNs + (h.time - s.netNs)) % 2 ^ 32 ∧ t.fld F.tickSchAct_HANDLE e = h.handle % 2 ^ 16)
  ∧ ∀ (s : State) (h : Held), Inv s → s.flag F.protBoot_RUNNING 0 = true → s.time.remap = true → s.tick.held = [h] → h.time ≤ s.netNs →
    h.modePort = none → s.path.gcl = [] → s.time.evts = [] → s.time.held = [] → s.path.gclHeld = [] →
    ∃ t, exec .scheduleReconvert s = .next t ∧ t.time.remap = false ∧ t.tick.held = [] ∧ ∀ e, e ∈ h.entries → t.flag F.tickSchAct_ARM e = false

/-- A requested snapshot, and firmware's own after 65,536 epochs, advances CNT_SNAP_SEQ, remembers its slot and adds a live counter into its image, saturating; a second one in the same slot changes nothing. A read of an RC image returns it and clears it; a read of a SUM_LO returns the low half of the sum. The array transfer at its offset moves every array image into firmware's totals, and with firmware down sets XFER_LATE and moves nothing. The boundary of a sample interval takes one sample of every busy queue. The boundary of an epoch closes the accumulators: a sampled quadrant's pending count rises by one. -/
def Obligations.SnapshotsAndTransfers : Prop :=
  (∀ (who : Sender) (v : Word) (s : State), Inv s → s.refusal who (Reg.cntSnap.offset 0) true = none → v.toNat.testBit 0 = true →
    (s.cnt.lastSnapSlot = some s.tick.slot → exec (.cntSnapRequest who v) s = .next s)
    ∧ (s.cnt.lastSnapSlot ≠ some s.tick.slot → ∃ t, exec (.cntSnapRequest who v) s = .next t
      ∧ t.cnt.lastSnapSlot = some s.tick.slot ∧ t.log.nextSeq = s.log.nextSeq + 1
      ∧ (s.samp.pendEpochs = [] → t.reg .cntSnapSeq 0 = word ((s.reg .cntSnapSeq 0).toNat + 1)
        ∧ ∀ (r : Reg) (i n : Nat), r.desc.rc = true → r.isSumLo = false → s.inReset r i = false → s.cnt.live = [(regKey r i, n)] →
          s.cnt.arrLive = [] → t.cnt.live = [] ∧ t.reg r i = word (min ((s.reg r i).toNat + n) 0xFFFFFFFF))))
  ∧ (∀ s : State, s.fwRunning = true → 65536 ≤ s.epoch - s.cnt.lastSnapEpoch → s.cnt.lastSnapSlot ≠ some s.tick.slot →
    ∃ t, exec .firmwareSnapshot s = .next t ∧ t.cnt.lastSnapEpoch = s.epoch ∧ t.cnt.lastSnapSlot = some s.tick.slot
      ∧ t.log.nextSeq = s.log.nextSeq + 1)
  ∧ (∀ (who : Sender) (y i : Nat) (r : Reg) (s : State), y % 4 = 0 → y < 0x2000000 → placeAt y = .reg r i → s.refusal who y false = none →
    s.regPresent r i = true → s.inReset r i = false → (r.desc.win = .dma → s.tree.root = true) →
    (r.isSumLo = false → r.desc.rc = true → exec (.rcRead who y) s = .next ((s.setReg r i 0).emit (.readData who y (s.reg r i))))
    ∧ (r.isSumLo = true → ∃ t, exec (.holdingSumRead who y) s = .next t
      ∧ t.out = s.out ++ [.readData who y (word (Table.get (fun _ => 0) s.cnt.sums (regKey r i)))]
      ∧ (Table.wf (fun _ => 0) s.cnt.sums = true → Table.get (fun _ => 0) t.cnt.sums (regKey r i) = 0)
      ∧ (r = .macRxOctLo → Inv s → t.reg .macRxOctHi i = word (Table.get (fun _ => 0) s.cnt.sums (regKey r i) / 2 ^ 32))))
  ∧ (∀ s : State, s.epochOffset = 262144 → s.flag F.cntCtl_XFER_EN 0 = true →
    (s.fwRunning = true → ∃ t, exec .arrayTransfer s = .next t ∧ t.cnt.arrImg = [] ∧ t.cnt.totalsSeq = (s.reg .cntSnapSeq 0).toNat
      ∧ ∀ k n, s.cnt.arrImg = [(k, n)] → 0 < n →
        Table.get (fun _ => 0) t.cnt.totals k = min (Table.get (fun _ => 0) s.cnt.totals k + n) (2 ^ 64 - 1))
    ∧ (s.fwRunning = false → Inv s → ∃ t, exec .arrayTransfer s = .next t ∧ t.cnt = s.cnt ∧ t.flag F.cntStat_XFER_LATE 0 = true))
  ∧ (∀ s : State, s.tick.locked = true → s.tick.slot % 1024 = 0 → s.samp.now = none → ∃ t tab, exec .sampleIntervalBoundary s = .next t
    ∧ t.samp.now = some tab ∧ ∀ q, q ∈ s.busyQueues → Table.get (fun _ => (0, none)) tab q = (s.depthOf q, s.delayOf q))
  ∧ ∀ s : State, s.tick.locked = true → s.epochOffset = 0 → s.samp.epoch ≠ s.epoch → ∃ t, exec .epochBoundary s = .next t
    ∧ t.samp.epoch = s.epoch ∧ t.samp.liveN = [] ∧ t.samp.live = [] ∧ t.tab.reqSeen = [] ∧ t.tab.limitSeen = []
    ∧ ∀ q, q < 4 → Table.wf (fun _ => 0) s.samp.pendEpochs = true → Table.get (fun _ => 0) s.samp.liveN q ≠ 0 → t.pendEpochs q = s.pendEpochs q + 1

/-- On a present, configured front port with its link up, a frame that fits the FIFO joins the frames in reception with its bytes and slot; without room it is refused, with RX_OVF and its count. A frame whose parse window came 15 slots ago becomes ready while the header buffer has room. The dispatcher grants the one ready header of its slice a strand, its slot and the next sequence number of its port. A good frame in reception is marked as ended in this slot, a runt is counted and dropped. A strand whose latency has passed completes with what it decided, and the oldest complete frame of its slice is then released. The correction of a policed frame adjusts its policer by its true length, and a refresh brings a policer up to the present slot. -/
def Obligations.FrameReceptionAndDecision : Prop :=
  (∀ (p : Nat) (bytes : List Byte) (edge phase sym : Nat) (s : State), Inv s → p < 512 → s.hasPort p = true → s.configured p = true →
    s.hidden p = false → s.flag F.macModeStat_SB_ACT p = false → s.linkUp p = true →
    (s.fifoBytes p + s.mfs p ≤ 32768 * s.width p → ∃ t f, exec (.frameStart p bytes edge phase sym) s = .next t
      ∧ t.path.frames = s.path.frames ++ [f] ∧ f.port = p ∧ f.bytes = bytes ∧ f.start = s.tick.slot ∧ f.id = s.path.nextId
      ∧ f.stage = (if etherType bytes = 0x8808 then .control else .arriving))
    ∧ (32768 * s.width p < s.fifoBytes p + s.mfs p → ∃ t f, exec (.frameStart p bytes edge phase sym) s = .next t
      ∧ t.path.frames = s.path.frames ++ [f] ∧ f.stage = .refused ∧ t.flag F.macStat_RX_OVF p = true
      ∧ t.cnt = ((s.count .macRxOvfCnt p 1).drop p 0x04).cnt))
  ∧ (∀ (p at0 : Nat) (f : Frame) (s : State), p < 512 → s.oldest p (fun f => f.stage == .arriving) = some f → f.entersWhole = false →
    64 ≤ f.bytes.length → at0 = f.start + cdiv (min 256 f.bytes.length) (s.bytesPerSlot p) + 15 → at0 ≤ s.tick.slot →
    s.waitingHeaders f.port < s.headerRoom f.port →
    ∃ t g, exec (.frameReady p []) s = .next t ∧ t.frame? f.id = some g ∧ g.stage = .ready ∧ g.ready = at0)
  ∧ (∀ (sl k : Nat) (f : Frame) (s : State), s.hasSlice sl = true → s.path.ranNow.contains (67, sl) = false → s.path.frames = [f] →
    f.stage = .ready → f.ready ≤ s.tick.slot → (k, f.port) ∈ s.dispatchPorts sl → k < 20 →
    ∃ t g, exec (.headerDispatch sl) s = .next t ∧ t.path.frames = [g] ∧ g.stage = .strand ∧ g.dispatched = s.tick.slot ∧ g.strand = 0
      ∧ g.md.seq = Table.get (fun _ => 0) s.path.seqs f.port ∧ g.snap = s.snapOf f.port)
  ∧ (∀ (p : Nat) (f : Frame) (s : State), p < 512 → s.path.frames = [f] → f.port = p → f.mir = none → f.ended = none →
    f.stage = .arriving → s.path.staged = [] → s.path.tx = [] → min f.bytes.length f.limit ≤ s.received f →
    (rxOutcome f.limit false f.bytes = 0 → ∃ t, exec (.frameEnd p false) s = .next t
      ∧ t.path.frames = [{ f with ended := some s.tick.slot }] ∧ t.cnt = (s.rxGood p f.bytes).cnt)
    ∧ (f.bytes.length < 64 → ∃ t, exec (.frameEnd p false) s = .next t
      ∧ t.cnt = ((s.count .macRxRuntCnt p 1).drop p 0x02).cnt))
  ∧ (∀ (f : Frame) (faults : List (Nat × Nat)) (s : State), Inv s → s.path.frames = [f] → f.mir = none → f.stage = .strand →
    f.good = true → f.dispatched + (s.strand f faults).latency ≤ s.tick.slot →
    ∃ t g, exec (.strandComplete f.port f.md.seq faults) s = .next t ∧ t.path.frames = [g] ∧ g.stage = .complete
      ∧ g.dropped = (s.strand f faults).code ∧ g.md = (s.strand f faults).md
      ∧ g.dests = (if (s.strand f faults).code = 0 then (s.strand f faults).targets else []))
  ∧ (∀ (sl : Nat) (f : Frame) (s : State), s.hasSlice sl = true → s.ran 70 sl = false → s.path.frames = [f] → f.mir = none →
    Config.sliceOf f.port = sl → f.stage = .complete → f.dropped = 0 →
    ∃ t g, exec (.reorderRelease sl) s = .next t ∧ g ∈ t.path.frames ∧ g.id = f.id ∧ g.stage = .released ∧ g.released = s.tick.slot)
  ∧ (∀ (p seq q i colour charged : Nat) (f : Frame) (s : State),
    s.oldest p (fun f => f.md.seq == seq && f.police.isSome && f.ended.isSome) = some f → f.police = some (q, i, colour, charged) →
    ∃ t, exec (.policerCorrection p seq) s = .next t
      ∧ t.tab = (s.setPol q i ((s.polAt q i).correct s.tick.slot colour charged f.bytes.length)).tab)
  ∧ ∀ (q x : Nat) (s : State), s.hasQuad q = true → x < 65536 →
    exec (.policerRefresh q x) s = .next (s.setPol q x ((s.polAt q x).upTo s.tick.slot))

/-- Fourteen slots after its release a lossy frame for one destination, with room in the lossy pool and nothing spilled, is staged for the destination's slice with the cells of its length. A frame in the spill whose charge fits again leaves it. A staged first cell of a lossy start with credit travels to its egress slice: the write arrives 50 slots later inside a quadrant and 113 slots later between quadrants, and one credit is used. The write of a copy's only cell, with its queue below its limit and the reservation granted, leaves the copy whole on die with its length and the whorl as its stamp. -/
def Obligations.StagingGrantsAndWrites : Prop :=
  (∀ (f : Frame) (d : Nat × Bool) (s : State), s.path.frames = [f] → f.mir = none → f.stage = .released → f.released + 14 ≤ s.tick.slot →
    f.dests = [d] → d.1 < 516 → s.path.staged = [] → s.sliceHeld (Config.sliceOf d.1) = false → (s.llMask f.port).testBit f.md.cls = false →
    cellsFor (s.lenFor f) ≤ s.lossyFree (Config.sliceOf f.port) →
    ∃ t c, exec (.fabricEntry f.port f.md.seq) s = .next t ∧ t.path.staged = [c] ∧ c.fid = f.id ∧ c.eg = Config.sliceOf d.1
      ∧ c.ing = Config.sliceOf f.port ∧ c.cls = f.md.cls ∧ c.dests = [d] ∧ c.charge = cellsFor (s.lenFor f) ∧ c.inSpill = false)
  ∧ (∀ (ing sq : Nat) (h : Hank) (r : HankRec) (rest : List HankRec) (c : Staged) (s : State), s.hank? (spillKey ing sq) = some h →
    h.recs = r :: rest → s.path.staged = [c] → c.inSpill = true → c.ing = ing → c.eg = sq / 8 → c.cls = sq % 8 → c.fid = r.copy.fid →
    c.lossless = false → c.charge ≤ s.lossyFree ing →
    ∃ t, exec (.spillReturn ing sq) s = .next t ∧ t.path.staged = [{ c with inSpill := false }])
  ∧ (∀ (c : Staged) (f : Frame) (d : Nat × Bool) (s : State), s.ran 73 0 = false → s.path.staged = [c] → c.sent = 0 → c.dests = [d] →
    s.hasSlice c.eg = true → c.ing < 32 → c.cls < 8 → c.lossless = false → s.losslessStart c = false → s.cellReady c = true →
    s.frame? c.fid = some f → s.path.credit = [] →
    ∃ t w, exec .cellGrant s = .next t ∧ t.path.writeQ = s.path.writeQ ++ [(c.eg, w)] ∧ w.fid = f.id ∧ w.k = 0 ∧ w.port = d.1
      ∧ w.data = f.carried.take 128 ∧ w.due = s.tick.slot + (if c.ing / 8 = c.eg / 8 then 50 else 113)
      ∧ Table.get (fun _ => (12 : Int)) t.path.credit c.eg = 11)
  ∧ ∀ (sl : Nat) (w : CellWr) (f : Frame) (s u : State), s.hasSlice sl = true → s.ran 74 sl = false → s.path.writeQ = [(sl, w)] →
    w.due ≤ s.tick.slot → w.k = 0 → w.last = true → s.frame? w.fid = some f → s.copy? w.fid w.port = none → s.path.commits = [] →
    s.portDown w.port = false → s.inDeep w.queue = false → f.md.colour = 0 → s.cq w.queue + cellsFor w.need ≤ s.qLimit w.queue →
    ((s.markRan 74 sl).inPath fun p => { p with writeQ := [] }).reserve sl (s.poolOf w.queue) (cellsFor w.need) = (u, true) →
    ∃ t c, exec (.cellWrite sl []) s = .next t ∧ t.path.writeQ = [] ∧ t.copy? w.fid w.port = some c ∧ c.whole = true
      ∧ c.len = w.data.length ∧ c.stamp = s.whorlNs ∧ c.resv = 0

/-- A port that may decide chooses its due MAC control frame first, and without one the head that the scheduler picks, at the line's next start. In the slot of its start the chosen frame begins on the line, a control frame at once and a copy where its class's gate is open; behind a closed gate it is held and counted. The read path takes the copy's next good cell. The end of a control frame, and of a complete copy of a good frame, sends the bytes: body, padding and FCS. A cell that was read in an earlier slot, and a cell of a walk, whose descriptor names its queue, becomes FREE. -/
def Obligations.TransmissionOfFrames : Prop :=
  (∀ (p edge sym : Nat) (s : State), s.hasPort p = true → s.ran 76 p = false → s.mayDecide p = true →
    (∀ bs rest, (s.flow p).frames = bs :: rest → ∃ t x, exec (.startDecision p edge sym) s = .next t ∧ t.nextTx p = some x
      ∧ x.ctl = bs ∧ x.copy = none ∧ x.startAt = s.startAt p)
    ∧ (∀ (u : State) (ls : List (Nat × Look)) (d : Sched) (c i : Nat) (l : Look), (s.flow p).frames = [] → s.portUp p = true →
      s.flag F.macMode_STANDBY p = false → p ≠ 512 →
      (s.markRan 76 p).lookHeads p (s.startAt p) (s.egressStamp p edge sym) = (u, ls) → u.inDebt (portShaper p) = false →
      u.pickClass p (u.sched p) ls = (d, some c) → classHead d ls c = some (i, l) → (l.known = true → l.len ≤ s.mfs p) →
      ∃ t x, exec (.startDecision p edge sym) s = .next t ∧ t.nextTx p = some x ∧ x.copy = some l.copy ∧ x.startAt = s.startAt p
        ∧ x.len = l.len ∧ x.charged = s.chargeOf p l.len ∧ x.estamp = s.egressStamp p edge sym))
  ∧ (∀ (p : Nat) (x : Tx) (s : State), s.nextTx p = some x → x.startAt / 256 ≤ s.tick.slot → s.lineTx p = none →
    (p < 512 → s.idleTx p = 0) →
    (x.copy = none → ∃ t, exec (.transmitStart p) s = .next t ∧ t.lineTx p = some { x with begun := true })
    ∧ (∀ c0 c f, x.copy = some c0 → s.copy? c0.fid p = some c → s.frame? c.fid = some f →
      ((s.gates p).testBit c.cls = true → ∃ t, exec (.transmitStart p) s = .next t
        ∧ t.lineTx p = some { x with begun := true, cut := !c.whole })
      ∧ ((s.gates p).testBit c.cls = false → ∃ t, exec (.transmitStart p) s = .next t ∧ t.cnt = (s.count .macGateHoldCnt p 1).cnt)))
  ∧ (∀ (p v : Nat) (rest : List Nat) (x : Tx) (c0 c : Copy) (s : State), s.lineTx p = some x → x.copy = some c0 →
    s.copy? c0.fid p = some c → c.cells = v :: rest → (s.desc (Config.sliceOf p) v).state = 1 →
    (s.desc (Config.sliceOf p) v).owner = c.queue →
    ∃ t, exec (.cellRead p 0) s = .next t
      ∧ t.lineTx p = some { x with got := x.got ++ Table.get (fun _ => []) s.path.data (cellKey (Config.sliceOf p) v), nRead := x.nRead + 1 }
      ∧ t.path.frees = s.path.frees ++ [{ slice := Config.sliceOf p, cell := v, queue := c.queue, read := s.tick.slot }])
  ∧ (∀ (p : Nat) (x : Tx) (s : State), s.lineTx p = some x →
    (x.copy = none → (x.startAt + 72 * 3200 / max 1 (s.rateGbps p)) / 256 ≤ s.tick.slot →
      ∃ t, exec (.transmitEnd p) s = .next t ∧ Out.frame p x.ctl ∈ t.out)
    ∧ (∀ c0 c f, p < 512 → x.copy = some c0 → s.copy? c0.fid p = some c → s.frame? c0.fid = some f → c.whole = true → c.cells = [] →
      c.lost = false → f.ended.isSome = true → f.good = true → x.stomp = false → x.under = false →
      (x.startAt + (max 64 x.got.length + 8) * 3200 / max 1 (s.rateGbps p)) / 256 ≤ s.tick.slot →
      ∃ t, exec (.transmitEnd p) s = .next t
        ∧ Out.frame p (padded (s.txBody x f (x.got.take (x.got.length - 4))).1
          ++ fcsBytes (padded (s.txBody x f (x.got.take (x.got.length - 4))).1)) ∈ t.out))
  ∧ (∀ (sl : Nat) (f : CellFree) (s : State), Table.wf (fun _ => {}) s.path.desc = true → s.path.frees = [f] → f.slice = sl → sl < 32 →
    f.cell < 65536 → f.read < s.tick.slot → (s.desc sl f.cell).state = 1 → (s.desc sl f.cell).owner = f.queue →
    (s.desc sl f.cell).retPend = false →
    ∃ t, exec (.cellTransmitFree sl none) s = .next t ∧ t.path.frees = [] ∧ (t.desc sl f.cell).state = 0 ∧ (t.desc sl f.cell).onlist = true)
  ∧ ∀ (sl c : Nat) (w : Walk) (s : State), Table.wf (fun _ => {}) s.path.desc = true → s.path.walks = [w] → w.slice = sl → sl < 32 →
    w.cells = [c] → c < 65536 → (s.desc sl c).state = 1 → (s.desc sl c).owner = w.queue → (s.desc sl c).retPend = false →
    ∃ t, exec (.walkerFree sl none) s = .next t ∧ t.path.walks = [] ∧ (t.desc sl c).state = 0 ∧ (t.desc sl c).onlist = true

/-- With no sweep running, the first waiting queue of a slice whose on-die part is empty becomes the swept queue, SWN advances modulo 16 and the sweep starts in the present slot. 4,096 slots after its start a sweep that finds one cell of its queue stamped with another sweep number frees it, counts it, and ends. A data scrub visit records the next position; on an ALLOC cell with a single-bit error it counts and shows it and the cell waits for its write-back, which then leaves the list of fixes, and a second bad pass of an uncorrectable cell marks it for retirement. A descriptor scrub visit puts a FREE cell that is off the list back on it, counts a corrected descriptor, and quarantines a cell whose descriptor is uncorrectable, with cause 2. -/
def Obligations.SweepsAndScrubsOfTheCellBuffer : Prop :=
  (∀ (sl qu : Nat) (s : State), sl < 32 → (Table.get (fun _ => ({} : Reclaim)) s.path.reclaim sl).active = none →
    Table.wf (fun _ => ({} : Reclaim)) s.path.reclaim = true →
    (Table.get (fun _ => ({} : Reclaim)) s.path.reclaim sl).waiting.find? s.onDieEmpty = some qu →
    ∃ t r, exec (.reclaimSweepStart sl) s = .next t ∧ Table.get (fun _ => ({} : Reclaim)) t.path.reclaim sl = r ∧ r.active = some qu
      ∧ r.swn = ((Table.get (fun _ => ({} : Reclaim)) s.path.reclaim sl).swn + 1) % 16 ∧ r.start = s.tick.slot
      ∧ t.path.desc = s.path.desc ∧ t.path.pools = s.path.pools)
  ∧ (∀ (sl c qu : Nat) (d : Desc) (r : Reclaim) (s : State), sl < 32 → c < 65536 → Table.wf (fun _ => ({} : Reclaim)) s.path.reclaim = true →
    Table.wf (fun _ => ({} : Desc)) s.path.desc = true → Table.get (fun _ => ({} : Reclaim)) s.path.reclaim sl = r → r.active = some qu →
    r.start + 4096 ≤ s.tick.slot → s.path.desc = [(cellKey sl c, d)] → d.state = 1 → d.owner = qu → d.swn ≠ r.swn → d.retPend = false →
    ∃ t, exec (.reclaimSweepEnd sl) s = .next t ∧ (t.desc sl c).state = 0 ∧ (t.desc sl c).onlist = true
      ∧ (Table.get (fun _ => ({} : Reclaim)) t.path.reclaim sl).active = none ∧ t.cnt = (s.count .cbReclaimCnt sl 1).cnt)
  ∧ (∀ (sl c err : Nat) (s : State), Inv s → s.hasSlice sl = true → c < 65536 → s.flag F.cbCtl_SCRUB_EN sl = true →
    s.tick.slot % 2 ^ s.fld F.cbCtl_SCRUB_DIV sl = 0 → s.fld F.thmStat_LEVEL 0 < 2 →
    ∃ t, exec (.cbDataScrubVisit sl c err) s = .next t ∧ t.reg .cbScrubPos sl = word ((c + 1) % 65536)
      ∧ ((s.desc sl c).state = 1 → err = 1 → t.path.fixes = s.path.fixes ++ [(sl, c)] ∧ t.flag F.cbStat_ECC_CE sl = true)
      ∧ ((s.desc sl c).state = 1 → 2 ≤ err → t.flag F.cbStat_ECC_UE sl = true)
      ∧ (err = 0 → t.path.fixes = s.path.fixes ∧ t.path.desc = s.path.desc ∧ t.path.badCells = s.path.badCells.erase (cellKey sl c)))
  ∧ (∀ (sl c : Nat) (rest : List (Nat × Nat)) (s : State), s.path.fixes = (sl, c) :: rest →
    exec (.scrubWriteBack sl) s = .next (s.inPath fun p => { p with fixes := rest }))
  ∧ ∀ (sl c : Nat) (s : State), Inv s → Table.wf (fun _ => ({} : Desc)) s.path.desc = true → s.hasSlice sl = true → c < 65536 →
    (s.flag F.cbStat_INIT_DONE sl = true → (s.desc sl c).state = 0 →
      ∃ t, exec (.descriptorScrubVisit sl c 0) s = .next t ∧ (t.desc sl c).onlist = true ∧ (t.desc sl c).state = 0)
    ∧ exec (.descriptorScrubVisit sl c 1) s = .next ((s.count .cbEccCeCnt sl 1).raise F.cbStat_ECC_CE sl)
    ∧ ((s.desc sl c).state ≠ 2 → ∃ t, exec (.descriptorScrubVisit sl c 2) s = .next t ∧ (t.desc sl c).state = 2 ∧ (t.desc sl c).qcause = 2)

/-- An open page whose flush time has passed closes with the bytes it has. The oldest closed page reaches its stack: it is written and counted and its write-buffer units are released. A deep queue below its low mark, with its port up and cells to be had, reserves the cells of its oldest written page and reads it; where no cells can be had the wait is counted. A page read without faults leaves the hank and is counted, and the frame that lies whole in it joins its queue with the whorl as its stamp. A queue of which nothing is left leaves deep state. A visit of the stack scrub counts what the outer code corrected, and shows a first uncorrectable error of the metadata. A stack with a fatal fault, and a draining one that is empty, is retired. -/
def Obligations.DeepTierPagesAndStacks : Prop :=
  (∀ (qu : Nat) (h : Hank) (p : HankPage) (s : State), s.hank? qu = some h → h.open? = some p → p.base < h.filled →
    p.first + max 64 (s.fld F.dtCtl_FLUSH_SLOTS (Config.quadOf (qu / 16))) ≤ s.tick.slot →
    ∃ t k, exec (.pageClose qu) s = .next t ∧ t.hank? qu = some k ∧ k.recs = h.recs
      ∧ k.pages = h.pages.dropLast ++ [{ p with fill := min 4096 (h.filled - p.base), closed := true }]
      ∧ k.closedEnd = p.base + min 4096 (h.filled - p.base))
  ∧ (∀ (qu : Nat) (h : Hank) (p : HankPage) (s : State), Table.wf (fun _ => 0) s.path.wbuf = true → s.hank? qu = some h →
    h.pages = [p] → p.closed = true → p.written = false →
    ∃ t k, exec (.pageWriteComplete qu) s = .next t ∧ t.hank? qu = some k ∧ k.pages = [{ p with written := true }]
      ∧ k.writtenEnd = p.base + p.fill
      ∧ t.wbuf (Config.quadOf (qu / 16)) = s.wbuf (Config.quadOf (qu / 16)) - p.fill / 32
      ∧ t.cnt = (s.count .dtPageWrCnt (Config.quadOf (qu / 16)) 1).cnt)
  ∧ (∀ (qu n : Nat) (h : Hank) (p : HankPage) (r : HankRec) (s : State), Table.wf (fun _ => 0) s.path.cq = true → s.hank? qu = some h →
    s.cq qu < 16 * s.fld F.dtQcfgRb_RB_LOW (Config.quadOf (qu / 16) * 8256 + qu) → s.portUp (qu / 16) = true → h.pages = [p] →
    p.written = true → p.reading = none → h.recs = [r] → r.rb = 0 → n = cdiv (frameBytes r h.headOff (p.base + p.fill)) 128 →
    (s.canReserve (Config.sliceOf (qu / 16)) (s.poolOf qu) n = true →
      ∃ t k, exec (.readbackIssue qu) s = .next t ∧ t.hank? qu = some k ∧ k.rbOn = true ∧ k.pages = [{ p with reading := some s.tick.slot }]
        ∧ k.recs = [{ r with rb := n }] ∧ t.cq qu = s.cq qu + n)
    ∧ (s.canReserve (Config.sliceOf (qu / 16)) (s.poolOf qu) n = false →
      ∃ t, exec (.readbackIssue qu) s = .next t ∧ t.path.cq = s.path.cq
        ∧ t.cnt = ((s.allocFail (Config.sliceOf (qu / 16))).count .dtRbWaitCnt (Config.quadOf (qu / 16)) 1).cnt))
  ∧ (∀ (qu : Nat) (h : Hank) (p : HankPage) (r : HankRec) (s : State), s.hank? qu = some h → h.pages = [p] → p.reading.isSome = true →
    h.recs = [r] → r.whole = true → r.copy.lost = false → 0 < r.size → h.headOff + r.size ≤ p.base + p.fill →
    ∃ t k c, exec (.pageReadComplete qu []) s = .next t ∧ t.hank? qu = some k ∧ k.pages = [] ∧ k.recs = []
      ∧ t.path.copies = s.path.copies ++ [c] ∧ c.fid = r.copy.fid ∧ c.whole = true ∧ c.stamp = s.whorlNs)
  ∧ (∀ (qu : Nat) (h : Hank) (s : State), s.hank? qu = some h → qu < 16384 → s.onDieEmpty qu = true → s.cq qu = 0 → h.recs = [] → h.pages = [] →
    ∃ t, exec (.deepExit qu) s = .next t ∧ t.path.hanks = Table.erase s.path.hanks qu
      ∧ t.cnt = (s.count .dtExitCnt (Config.quadOf (qu / 16)) 1).cnt)
  ∧ (∀ (page burst : Nat) (s : State), Inv s → s.hasStack (page / 2 ^ 22) = true → s.stackState (page / 2 ^ 22) ≠ 2 →
    s.flag F.dtCtl_SCRUB_EN (page / 2 ^ 22 / 2) = true → s.tick.slot % 2 ^ max 2 (s.fld F.dtCtl_SCRUB_DIV (page / 2 ^ 22 / 2)) = 0 →
    s.fld F.thmStat_LEVEL 0 < 2 → burst ≠ 0 →
    exec (.hbmScrubVisit page burst 0 0) s = .next s
    ∧ exec (.hbmScrubVisit page burst 1 0) s
      = .next ((s.count .dtCeCnt (page / 2 ^ 22 / 2) 1).count .dtScrubFixCnt (page / 2 ^ 22 / 2) 1)
    ∧ (page % 2 ^ 22 < 8192 → s.path.metaSeen.contains (page * 16 + burst) = false →
      ∃ t, exec (.hbmScrubVisit page burst 2 0) s = .next t ∧ t.flag F.dtStat_META_UE (page / 2 ^ 22 / 2) = true
        ∧ t.path.metaSeen = s.path.metaSeen ++ [page * 16 + burst] ∧ t.path.hbm = s.path.hbm))
  ∧ (∀ (h : Nat) (s : State), Inv s → s.hasStack h = true → s.stackState h ≠ 2 →
    ∃ t, exec (.stackFatalFault h) s = .next t ∧ t.stackState h = 2 ∧ t.flag F.dtStat_STACK_FAULT (h / 2) = true
      ∧ t.flag F.dtStat_RETIRE_DONE (h / 2) = true ∧ t.ks.retiredStacks.contains h = true)
  ∧ ∀ (h : Nat) (s : State), Inv s → s.stackState h = 1 → (s.stack h).used = 0 →
    ∃ t, exec (.stackDrainComplete h) s = .next t ∧ t.stackState h = 2 ∧ t.flag F.dtStat_RETIRE_DONE (h / 2) = true
      ∧ t.ks.retiredStacks.contains h = true

/-- A load whose slot has come sets the timers of the classes it names, leaves the others and leaves the loads that wait. At the slot edge after a timer stands at 4 units or fewer, that timer is 0. With its link up and outside standby a front port puts one frame of all due classes behind the frames it has composed, with QUANTA for a class whose request stands and 0 for the others, and nothing is due afterwards; the next refresh of a standing class is half the QUANTA time away. When a refresh falls due its class is due again. -/
def Obligations.FlowControlOfAPort : Prop :=
  (∀ (p : Nat) (l : Nat × Nat × List Nat) (s : State), Table.wf (fun _ => ({} : Flow)) s.path.flow = true → (s.flow p).loads = [l] →
    l.1 ≤ s.tick.slot → ∃ t, exec (.pauseLoadApply p) s = .next t ∧ (t.flow p).loads = []
      ∧ ∀ c, c < 8 → (t.flow p).timers.getD c 0 = if l.2.1.testBit c then l.2.2.getD c 0 else (s.flow p).timers.getD c 0)
  ∧ (∀ (p c : Nat) (s : State), Table.wf (fun _ => ({} : Flow)) s.path.flow = true → s.tick.locked = true → c < 8 →
    (s.flow p).timers.getD c 0 ≠ 0 → (s.flow p).timers.getD c 0 ≤ 4 →
    ∃ t, exec (.pauseTimerExpire p c) s = .next t ∧ (t.flow p).timers.getD c 0 = 0)
  ∧ (∀ (p : Nat) (s : State), Table.wf (fun _ => ({} : Flow)) s.path.flow = true → p < 512 → (s.flow p).due ≠ 0 → s.linkUp p = true →
    s.flag F.macMode_STANDBY p = false →
    ∃ t, exec (.pfcGenerate p) s = .next t ∧ (t.flow p).due = 0 ∧ (t.flow p).req = (s.flow p).req
      ∧ (t.flow p).frames = (s.flow p).frames
        ++ [s.pfcFrame p (s.flow p).due fun c => if (s.flow p).req.testBit c then s.quanta p else 0]
      ∧ ∀ c, c < 8 → (s.flow p).due.testBit c = true → (s.flow p).req.testBit c = true →
        (t.flow p).refresh.getD c 0 = s.tick.slot + s.quanta p * 400 / max 1 (s.rateGbps p))
  ∧ ∀ (p c : Nat) (s : State), Table.wf (fun _ => ({} : Flow)) s.path.flow = true → p < 512 → s.linkUp p = true → c < 8 →
    (s.flow p).req.testBit c = true → (s.flow p).refresh.getD c 0 ≤ s.tick.slot →
    ∃ t, exec (.pfcRefresh p) s = .next t ∧ (t.flow p).due.testBit c = true ∧ (t.flow p).req = (s.flow p).req
      ∧ (t.flow p).frames = (s.flow p).frames

/-- At the end of an entry that is not the last, the next one begins at that instant, and while the list is active its gates are in force. When GCL_CYC_START falls due, entry 0 begins and GCL_CYC_START advances by CYCLE; on a port with GATED its gates are in force and GCL_ACT reads 1. A write of GCL_CYC_START takes the value written, or the next slot's whorl ns when that is already due, and sets REALIGN. A write of GCL_SWAP_CTL with ARM = 0 takes ADMIN_LEN and, with bit 31, arms the swap; while ARM = 1, a write without bit 31 disarms a swap that is not due. A due swap exchanges the banks, clears ARM and ARMED and sets SWAP_DONE; an empty list opens every gate with VALID 0, another one begins its first cycle with VALID 1. -/
def Obligations.GateListsRunAndSwap : Prop :=
  (∀ (p : Nat) (s : State), Inv s → Table.wf (fun _ => ({} : GclRun)) s.path.gcl = true → p < 512 → s.flag F.gclStat_VALID p = true →
    s.fld F.gclOperPos_ENTRY p + 1 < s.gclLen p false →
    s.dueAt (((s.gcl p).entryStart + s.gclDur p (s.fld F.gclOperPos_ENTRY p) false) % 2 ^ 32) = true →
    s.dueAt (s.fld F.gclCycStart_START p) = false →
    ∃ t, exec (.gateEntryBoundary p) s = .next t ∧ t.fld F.gclOperPos_ENTRY p = s.fld F.gclOperPos_ENTRY p + 1
      ∧ (t.gcl p).entryStart = ((s.gcl p).entryStart + s.gclDur p (s.fld F.gclOperPos_ENTRY p) false) % 2 ^ 32
      ∧ (s.flag F.macModeStat_GCL_ACT p = true → t.gates p = s.gclVec p (s.fld F.gclOperPos_ENTRY p + 1) false))
  ∧ (∀ (p : Nat) (s : State), Inv s → s.meet.writes = [] → p < 512 → s.flag F.gclStat_VALID p = true →
    s.dueAt (s.fld F.gclCycStart_START p) = true →
    ∃ t, exec (.gclCycleStart p) s = .next t ∧ t.fld F.gclOperPos_ENTRY p = 0
      ∧ t.fld F.gclCycStart_START p = (s.fld F.gclCycStart_START p + s.fld F.gclOperCycle_CYCLE p) % 2 ^ 32
      ∧ (s.flag F.macMode_GATED p = true → t.flag F.macModeStat_GCL_ACT p = true ∧ t.gates p = s.gclVec p 0 false))
  ∧ (∀ (p : Nat) (v : Word) (s : State), Inv s → p < 512 → s.hasPort p = true →
    ∃ t, exec (.gclCycStartWrite .cc p v) s = .next t ∧ t.flag F.gclStat_REALIGN p = true
      ∧ t.fld F.gclCycStart_START p = if s.dueAt v.toNat then s.nextSlotNs else v.toNat)
  ∧ (∀ (p : Nat) (v : Word) (s : State), Inv s → p < 512 → s.hasPort p = true →
    (s.flag F.gclSwapCtl_ARM p = false → ∃ t, exec (.gclSwapArm .cc p v) s = .next t
      ∧ t.fld F.gclSwapCtl_ADMIN_LEN p = v.toNat % 2048 ∧ t.flag F.gclSwapCtl_ARM p = v.toNat.testBit 31
      ∧ (v.toNat.testBit 31 = true → t.flag F.gclStat_ARMED p = true))
    ∧ (s.flag F.gclSwapCtl_ARM p = true → v.toNat.testBit 31 = false → s.dueAt (s.fld F.gclSwapTgt_TGT p) = false →
      ∃ t, exec (.gclSwapArm .cc p v) s = .next t ∧ t.flag F.gclSwapCtl_ARM p = false ∧ t.flag F.gclStat_ARMED p = false
        ∧ t.fld F.gclSwapCtl_ADMIN_LEN p = s.fld F.gclSwapCtl_ADMIN_LEN p))
  ∧ ∀ (p : Nat) (s : State), Inv s → s.meet.writes = [] → p < 512 → s.flag F.gclSwapCtl_ARM p = true →
    s.dueAt (s.fld F.gclSwapTgt_TGT p) = true → s.path.ranNow.contains (1001, p) = false →
    ∃ t, exec (.gclSwap p) s = .next t ∧ t.flag F.gclStat_SWAP_DONE p = true ∧ t.flag F.gclSwapCtl_ARM p = false
      ∧ t.flag F.gclStat_ARMED p = false ∧ t.fld F.gclOperLen_LEN p = s.fld F.gclSwapCtl_ADMIN_LEN p
      ∧ t.fld F.gclSwapCtl_ADMIN_LEN p = s.fld F.gclOperLen_LEN p
      ∧ t.reg .gclOperCycle p = s.reg .gclAdminCycle p ∧ t.reg .gclAdminCycle p = s.reg .gclOperCycle p
      ∧ (∀ e, e < 1024 → t.reg .gclOperDur (p * 1024 + e) = s.reg .gclAdminDur (p * 1024 + e)
        ∧ t.reg .gclAdminGates (p * 1024 + e) = s.reg .gclOperGates (p * 1024 + e))
      ∧ t.fld F.gclOperPos_ENTRY p = 0
      ∧ (s.fld F.gclSwapCtl_ADMIN_LEN p = 0 → t.flag F.gclStat_VALID p = false ∧ t.gates p = 255)
      ∧ (s.fld F.gclSwapCtl_ADMIN_LEN p ≠ 0 → t.flag F.gclStat_VALID p = true
        ∧ (s.flag F.macMode_GATED p = true → t.gates p = s.gclVec p 0 true))

/-- While every condition of R350 is reported good, a link that is up stays up. When one is reported bad on a configured front port with its link up, UP falls, LINK_DOWN sets, and a port that was UP is HELD for HOLD epochs, or DOWN where HOLD is 0. At the deadline of a held port it is DOWN and its queues are flushed. Once the conditions have held for 65,536 slots, or 391 slots after a wake, the link is up and the port UP, with every standing flow-control request due. A lane that finds its markers shows LOCK, its polarity and its place; one that loses lock shows LOCK 0 and LOCK_LOST, and its port's link is down. -/
def Obligations.LinksGoDownAndComeUp : Prop :=
  (∀ (p : Nat) (a lf rf hb : Bool) (s : State), Inv s → p < 512 → s.hasPort p = true → s.configured p = true → s.hidden p = false →
    s.flag F.macPortCfg_EN p = true → s.linkUp p = true →
    (a = true ∧ lf = false ∧ rf = false ∧ hb = false → ∃ t, exec (.linkLoss p a lf rf hb) s = .next t ∧ t.linkUp p = true)
    ∧ (¬ (a = true ∧ lf = false ∧ rf = false ∧ hb = false) → ∃ t, exec (.linkLoss p a lf rf hb) s = .next t ∧ t.linkUp p = false
      ∧ t.flag F.macStat_LINK_DOWN p = true
      ∧ (s.portState p = 0 → s.fld F.qmPortCfg_HOLD p = 0 → t.portState p = 2)
      ∧ (s.portState p = 0 → s.fld F.qmPortCfg_HOLD p = 1 → t.portState p = 1
        ∧ OTable.get? t.path.hold p = some (s.tick.slot + Config.epochSlots))))
  ∧ (∀ (p e : Nat) (s : State), Inv s → p < 512 → OTable.get? s.path.hold p = some e → e ≤ s.tick.slot →
    ∃ t, exec (.holdDeadline p) s = .next t ∧ t.portState p = 2 ∧ t.flag F.macModeStat_HOLD p = false
      ∧ t.flag F.qmStat_FLUSH (Config.sliceOf p) = true
      ∧ (s.path.copies = [] → s.path.hanks = [] → s.nextTx p = none → t.path.frames = s.settle.path.frames))
  ∧ (∀ (p t0 : Nat) (s : State), Inv s → Table.wf (fun _ => ({} : Flow)) s.path.flow = true → p < 512 →
    OTable.get? s.path.linkSince p = some t0 → t0 + 65536 ≤ s.tick.slot → s.linkUp p = false → s.linkConditions p = true →
    s.flag F.macModeStat_SB_ACT p = false → OTable.has s.path.wakeAt p = false → OTable.get? s.path.hold p = none →
    ∃ t, exec (.linkUp p) s = .next t ∧ t.linkUp p = true ∧ t.flag F.macStat_LINK_UP p = true ∧ t.portState p = 0
      ∧ (t.flow p).due = (s.flow p).req)
  ∧ (∀ (p t0 : Nat) (s : State), Inv s → Table.wf (fun _ => ({} : Flow)) s.path.flow = true → p < 512 →
    OTable.get? s.path.wakeAt p = some t0 → t0 ≤ s.tick.slot → s.linkConditions p = true → s.flag F.macModeStat_SB_ACT p = false →
    OTable.get? s.path.hold p = none →
    ∃ t, exec (.wakeLinkUp p) s = .next t ∧ t.linkUp p = true ∧ t.portState p = 0 ∧ (t.flow p).due = (s.flow p).req
      ∧ (s.idleTx p = 3 → t.idleTx p = 0))
  ∧ (∀ (l p pcsl skew : Nat) (half inverted : Bool) (s : State), Inv s → s.runningPort l = some p → s.flag F.lnStat_LOCK l = false →
    pcsl < (if s.portMode p = 0x10 then 4 else s.width p) →
    ∃ t, exec (.laneLock l half pcsl inverted skew) s = .next t ∧ t.flag F.lnStat_LOCK l = true ∧ t.flag F.lnStat_PN_SWAP l = inverted
      ∧ t.reg .lnRxMap l = word (2 ^ 31 + 16 * b2n half + pcsl) ∧ t.fld F.pcsState_SKEW p = min 255 skew)
  ∧ ∀ (l p : Nat) (s : State), Inv s → s.runningPort l = some p → l ∈ s.lanesOf p → s.flag F.lnStat_LOCK l = true → (s.lane l).rx = 0 →
    ∃ t, exec (.laneLockLoss l) s = .next t ∧ t.flag F.lnStat_LOCK l = false ∧ t.flag F.lnStat_LOCK_LOST l = true
      ∧ t.flag F.lnRxMap_VALID l = false ∧ t.linkUp p = false

/-- A write of COMMIT makes both halves of a lane's settings wait; at the boundaries of a lane in transmission the shadow settings are in force, COMMIT reads 0, CEM_DONE is set and LN_CEM_ID names the record. A front port that may idle waits for its codeword boundary, is in idle 4 slots after it, leaves by a request at a boundary 201 slots later at the earliest, and resumes at that boundary. A receiving lane enters idle, trains on a signal, and becomes ACTIVE at the phase of a marker with a good CRC; a marker with a bad one changes nothing, and 390 slots without one lose the lane's lock with RESUME_FAIL. An eye scan step shows its mismatches and, if not void, adds its point. A leg code seen in two consecutive checks is reported, another one is not. -/
def Obligations.LaneSettingsIdleAndScans : Prop :=
  (∀ (l : Nat) (v : Word) (s : State), Inv s → Table.wf (fun _ => ({} : LaneSt)) s.lanes.lane = true → s.hasLane l = true → v.toNat.testBit 0 = true →
    ∃ t, exec (.cemondCommit .cc l v) s = .next t ∧ t.flag F.lnCemCommit_COMMIT l = true ∧ (t.lane l).txPend = true
      ∧ (t.lane l).rxPend = true ∧ (t.lane l).force = (s.lane l).force)
  ∧ (∀ (l p : Nat) (s : State), Inv s → Table.wf (fun _ => ({} : LaneSt)) s.lanes.lane = true → s.runningPort l = some p → s.idleTx p = 0 →
    (s.lane l).txPend = true → (s.lane l).rxPend = true →
    ∃ t, exec (.cemondCommitApply l) s = .next t ∧ (t.lane l).force = s.laneShadow l ∧ t.flag F.lnCemCommit_COMMIT l = false
      ∧ t.flag F.lnStat_CEM_DONE l = true ∧ t.reg .lnCemId l = word (s.lane l).crcPend)
  ∧ (∀ (p : Nat) (s : State), Inv s → Table.wf (fun _ => ({} : PortLine)) s.path.lines = true → p < 512 →
    (s.idleTx p = 0 → s.mayIdle p = true → ∃ t, exec (.idleEntry p) s = .next t ∧ t.idleTx p = 1
      ∧ (t.line p).due = s.boundaryFrom p (s.tick.slot + 1))
    ∧ (s.idleTx p = 1 → (s.line p).due + 4 ≤ s.tick.slot → ∃ t, exec (.idleEntry p) s = .next t ∧ t.idleTx p = 2
      ∧ t.flag F.macModeStat_IDLE_ACT p = true ∧ t.cnt = (s.count .pcsIdleEntryCnt p 1).cnt)
    ∧ (∀ r, s.idleTx p = 2 → s.flag F.macModeStat_SB_ACT p = false → s.exitRequest p = some r →
      ∃ t, exec (.idleExit p) s = .next t ∧ t.idleTx p = 3 ∧ (t.line p).due = s.boundaryFrom p (r + 201))
    ∧ (s.idleTx p = 3 → (s.line p).due ≤ s.tick.slot → s.lanes.lane = [] → ∃ t, exec (.idleResume p) s = .next t ∧ t.idleTx p = 0
      ∧ t.flag F.macModeStat_IDLE_ACT p = false ∧ (t.line p).lastChosen = s.tick.slot))
  ∧ (∀ (l p : Nat) (field : Word) (s : State), Inv s → Table.wf (fun _ => ({} : LaneSt)) s.lanes.lane = true → s.runningPort l = some p →
    ((s.lane l).rx = 0 → ∃ t, exec (.rxIdleEnter l) s = .next t ∧ (t.lane l).rx = 1 ∧ t.flag F.lnStat_IDLE l = true)
    ∧ ((s.lane l).rx = 1 → ∃ t, exec (.rxSignalDetect l) s = .next t ∧ (t.lane l).rx = 2 ∧ (t.lane l).rxAt = s.tick.slot)
    ∧ ((s.lane l).rx = 2 → crc8 (beBytes 3 field.toNat) = field.toNat / 2 ^ 24 → ∃ t, exec (.rxResumeMarker l field) s = .next t
      ∧ (t.lane l).rx = 0 ∧ (t.lane l).phase = field.toNat % 2 ^ 20 ∧ t.flag F.lnStat_IDLE l = false)
    ∧ ((s.lane l).rx = 2 → crc8 (beBytes 3 field.toNat) ≠ field.toNat / 2 ^ 24 → exec (.rxResumeMarker l field) s = .next s)
    ∧ ((s.lane l).rx = 2 → (s.lane l).rxAt + 390 ≤ s.tick.slot → ∃ t, exec (.rxResumeTimeout l) s = .next t
      ∧ t.flag F.lnStat_LOCK l = false ∧ t.flag F.lnStat_LOCK_LOST l = true ∧ t.flag F.pcsStat_RESUME_FAIL p = true))
  ∧ (∀ (l p errs : Nat) (void : Bool) (e : EyeScan) (s : State), Inv s → OTable.get? s.lanes.scans l = some e → s.runningPort l = some p →
    e.running = true → s.fld F.thmStat_LEVEL 0 < 2 → e.start ≤ s.epoch → 524288 ≤ s.epochOffset → s.linkUp p = true →
    s.flag F.lnStat_LOCK l = true →
    ∃ t g, exec (.eyeScanStep l errs void) s = .next t ∧ t.reg .lnEscanErr l = word (min errs (2 ^ e.win))
      ∧ t.flag F.lnStat_ESCAN_STEP l = true ∧ OTable.get? t.lanes.scans l = some g ∧ g.start = s.epoch + 1
      ∧ (void = true → g.results = e.results ∧ g.idx = e.idx ∧ g.again = true)
      ∧ (void = false → g.idx = e.idx + 1 ∧ g.again = false ∧ g.results = e.results ++
        [{ phase := e.point.1, volt := e.point.2, again := e.again, errs := min errs (2 ^ e.win), ui := 2 ^ e.win }]))
  ∧ ∀ (l codes lo : Nat) (s : State), Inv s → Table.wf (fun _ => ({} : LaneSt)) s.lanes.lane = true → s.laneOn l = true → lo ∈ legLows →
    ∃ t, exec (.legMonitorCheck l codes) s = .next t ∧ bitsOf (t.lane l).seen (lo + 2) lo = legCode lo (codes / 2 ^ lo)
      ∧ bitsOf (t.reg .lnFault l).toNat (lo + 2) lo
        = if bitsOf (s.lane l).seen (lo + 2) lo = legCode lo (codes / 2 ^ lo) then legCode lo (codes / 2 ^ lo)
          else bitsOf (s.reg .lnFault l).toNat (lo + 2) lo

/-- The engine writes a new entry at the first free candidate, with HIT and the port asked for, counts it and raises a notice; a dynamic entry of another port is moved to the port. A sweep starts at an epoch boundary whose number is a multiple of the period, or waits with AGE_LAG behind the one that runs; from offset 65,536 on it clears HIT of an entry or deletes an unhit dynamic one, and goes on to its next quarter. At offset 4,096 the notices of a quadrant go to firmware, which writes those the ring has room for, then the producer index, and raises the doorbell. The scrub shows a corrected bucket, and deletes an uncorrectable entry, to be restored when it is static. -/
def Obligations.AddressTableLearnsAndAges : Prop :=
  (∀ (q pos : Nat) (r : LearnReq) (s : State), s.tab.learnQ = [r] → r.quad = q → r.entered < s.tick.slot →
    s.lookupAddr q (addrKey r.fid r.mac) = none → s.overLimit q r.port = false → (s.noticesOf q).length < 8192 →
    (s.candidates q (addrKey r.fid r.mac)).find? (fun pos => (s.addrAt q pos).isNone) = some pos →
    ∃ t, exec (.learnRequestServe q) s = .next t ∧ t.tab.learnQ = [] ∧ t.cnt = (s.count .tbLearnCnt q 1).cnt
      ∧ t.addrAt q pos = some { mac := r.mac, fid := r.fid, dest := r.port, hit := true }
      ∧ t.noticesOf q = s.noticesOf q ++ [s.addrRecord 1 q r.fid r.mac r.port 0x3FF
        (some (pos, { mac := r.mac, fid := r.fid, dest := r.port, hit := true }))])
  ∧ (∀ (q pos : Nat) (e : AddrEnt) (r : LearnReq) (s : State), s.tab.learnQ = [r] → r.quad = q → r.entered < s.tick.slot →
    s.lookupAddr q (addrKey r.fid r.mac) = some (pos, e) → e.static = false → e.dest ≠ r.port → s.overLimit q r.port = false →
    (s.noticesOf q).length < 8192 →
    ∃ t, exec (.learnRequestServe q) s = .next t ∧ t.addrAt q pos = some { e with dest := r.port, hit := true }
      ∧ t.cnt = (s.count .tbMoveCnt q 1).cnt)
  ∧ (∀ (q : Nat) (s : State), Inv s → Table.wf (fun _ => ({} : AgeState)) s.tab.age = true → s.hasQuad q = true → s.flag F.tbAgeCfg_AGE_EN q = true →
    s.epochOffset = 0 → s.epoch % max 4 (s.fld F.tbAgeCfg_PERIOD q) = 0 →
    ((s.ageOf q).active = false → ∃ t, exec (.agingSweepStart q) s = .next t ∧ t.ageOf q = { active := true, step := 0, pending := false })
    ∧ ((s.ageOf q).active = true → ∃ t, exec (.agingSweepStart q) s = .next t ∧ (t.ageOf q).pending = true
      ∧ (t.ageOf q).step = (s.ageOf q).step ∧ t.flag F.tbStat_AGE_LAG q = true))
  ∧ (∀ (q pos : Nat) (e : AddrEnt) (s : State), Table.wf (fun _ => ({} : AgeState)) s.tab.age = true → (s.ageOf q).active = true →
    65536 ≤ s.epochOffset → (s.ageOf q).step < 3 → s.addrOf q = [(pos, e)] → (s.ageOf q).step * 262144 ≤ pos →
    pos < ((s.ageOf q).step + 1) * 262144 → (s.noticesOf q).length < 8192 →
    ∃ t, exec (.agingSweepStep q) s = .next t ∧ (t.ageOf q).step = (s.ageOf q).step + 1
      ∧ (e.static = true → t.tab.addr = s.tab.addr)
      ∧ (e.static = false → e.hit = true → t.addrAt q pos = some { e with hit := false })
      ∧ (e.static = false → e.hit = false → t.tab.addr = Table.erase s.tab.addr (q * 2 ^ 20 + pos) ∧ t.cnt = (s.count .tbAgedCnt q 1).cnt))
  ∧ (∀ (q : Nat) (s : State), s.epochOffset = 4096 → s.fwRunning = true → Table.get (fun _ => 0) s.tab.noticeLost q = 0 →
    s.tab.ring.held.length + (s.noticesOf q).length ≤ 65536 →
    ∃ t, exec (.learnNoticeFlush q) s = .next t ∧ t.tab.ring.held = s.tab.ring.held ++ s.noticesOf q
      ∧ t.tab.notices = Table.erase s.tab.notices q)
  ∧ (∀ (cons : Nat) (r : List Byte) (s : State), s.tab.ring.enabled = true → s.fwRunning = true → s.tab.ring.held = [r] →
    s.tab.ring.discarded = 0 → (s.tab.ring.prod + 2 ^ 32 - cons) % 2 ^ 32 < s.tab.ring.size →
    ∃ t, exec (.noticeRingDelivery cons) s = .next t ∧ t.tab.ring.held = [] ∧ t.tab.ring.prod = (s.tab.ring.prod + 1) % 2 ^ 32
      ∧ t.out = s.out ++ [.hostWrite (s.tab.ring.addr + 64 + 16 * (s.tab.ring.prod % s.tab.ring.size)) r,
        .hostWrite s.tab.ring.addr (leBytes 4 ((s.tab.ring.prod + 1) % 2 ^ 32))])
  ∧ ∀ (q b k : Nat) (s : State), Inv s → s.hasQuad q = true →
    exec (.tbScrubVisit q b k 0) s = .next s
    ∧ (∃ t, exec (.tbScrubVisit q b k 1) s = .next t ∧ t.flag F.tbStat_ECC_CE q = true ∧ t.tab = s.tab
      ∧ t.reg .tbErrIdx q = word (2 * 2 ^ 20 + (b * 4 + k % 4) % 2 ^ 20))
    ∧ ∀ e, s.addrAt q ((b * 4 + k % 4) % 2 ^ 20) = some e → (s.noticesOf q).length < 8192 →
      ∃ t, exec (.tbScrubVisit q b k 2) s = .next t ∧ t.flag F.tbStat_ECC_UE q = true
        ∧ t.tab.addr = Table.erase s.tab.addr (q * 2 ^ 20 + (b * 4 + k % 4) % 2 ^ 20)
        ∧ t.tab.lost = s.tab.lost ++ (if e.static then
          [{ table := 1, quad := q, index := (b * 4 + k % 4) % 2 ^ 20, addr := some e }] else [])

/-- A classification scrub visit with bad parity shows the error and clears the entry's valid bit; firmware's rewrite sets it again. A layer-3 scrub visit shows a corrected entry, holds an uncorrectable next hop from the data plane until firmware rewrites it, and invalidates a prefix whose key parity fails. The prefix engine applies the oldest operation of its quadrant to its bank: an insertion or rewrite by the one command, a deletion by the other. A member range replaced at least 128 slots before an epoch boundary that has come is freed, a range in use is not. A scan pass of FDB_FLUSH_PORT in its last quadrant deletes the entries it names and answers. -/
def Obligations.TableScrubsEnginesAndShadows : Prop :=
  (∀ (q x : Nat) (s : State), Inv s → Table.wf (fun _ => ({} : ClsEnt)) s.tab.cls = true → s.hasQuad q = true → s.flag F.clsCtl_SCRUB_EN q = true → x < 32768 →
    exec (.clsScrubVisit q x false) s = .next s
    ∧ ∃ t, exec (.clsScrubVisit q x true) s = .next t ∧ t.flag F.clsStat_KEY_PERR q = true ∧ t.reg .clsErrIdx q = word (65536 + x)
      ∧ (t.clsAt q x).valid = false)
  ∧ (∀ (q table idx : Nat) (s : State), Inv s → s.hasQuad q = true → s.flag F.fwdPfxCtl_SCRUB_EN q = true → 1 ≤ table → table ≤ 4 → idx < 65536 →
    (∃ t, exec (.fwdScrubVisit q table idx 2) s = .next t ∧ t.flag F.fwdStat_TBL_CE q = true ∧ t.tab = s.tab
      ∧ t.reg .fwdErrIdx q = word (table * 2 ^ 28 + 2 * 2 ^ 24 + idx))
    ∧ ∃ t, exec (.fwdScrubVisit q table idx 3) s = .next t ∧ t.flag F.fwdStat_TBL_UE q = true ∧ t.isLost (table + 2) q idx = true)
  ∧ (∀ (q b : Nat) (e : PfxEnt) (s : State), Inv s → Table.wf (fun _ => ({} : PfxBank)) s.tab.banks = true → s.hasQuad q = true →
    s.flag F.fwdPfxCtl_SCRUB_EN q = true → b < 256 → s.bank q b = { pairs := [], singles := [e] } →
    ∃ t, exec (.fwdScrubVisit q 0 (b * 1024 + 1023) 1) s = .next t ∧ t.flag F.fwdStat_KEY_PERR q = true
      ∧ t.bank q b = { pairs := [], singles := [{ e with valid := false }] })
  ∧ (∀ (q idx : Nat) (l : LostEnt) (s : State), Table.wf (fun _ => ({} : ClsEnt)) s.tab.cls = true → s.fwRunning = true → s.tab.lost = [l] →
    l.quad = q → l.index = idx →
    (l.table = 0 → (Table.get (fun _ => ({} : ClsEnt)) s.tab.cls (q * 32768 + idx)).pair = false →
      ∃ t, exec (.shadowRestore 0 q idx) s = .next t ∧ t.tab.lost = []
        ∧ (Table.get (fun _ => ({} : ClsEnt)) t.tab.cls (q * 32768 + idx)).valid = true)
    ∧ (l.table = 3 → ∃ t, exec (.shadowRestore 3 q idx) s = .next t ∧ t.isLost 3 q idx = false ∧ t.tab.nh = s.tab.nh))
  ∧ (∀ (q : Nat) (o : PfxOp) (rest : List PfxOp) (s : State), Table.wf (fun _ => ({} : PfxBank)) s.tab.banks = true → s.tab.pfxOps = o :: rest →
    o.quad = q →
    (o.kind ≠ 1 → ∃ t, exec (.prefixBankInsert q) s = .next t ∧ t.tab.pfxOps = rest ∧ t.bank q o.bank = o.apply (s.bank q o.bank))
    ∧ (o.kind = 1 → ∃ t, exec (.prefixBankDelete q) s = .next t ∧ t.tab.pfxOps = rest
      ∧ t.bank q o.bank = (s.bank q o.bank).delete o.ent))
  ∧ (∀ (q n : Nat) (r u : MemberRange) (s : State), s.tab.ranges = [r, u] → r.quad = q → r.until_ = some n →
    (n + 128 + 1048575) / 1048576 * 1048576 ≤ s.tick.slot → u.until_ = none →
    ∃ t, exec (.ecmpRangeFree q) s = .next t ∧ t.tab.ranges = [u] ∧ t.tab.members = s.tab.members)
  ∧ ∀ (q : Nat) (sc : Scan) (j : Job) (s : State), s.tab.scans = [sc] → sc.quad = q → s.job? sc.chan sc.tag = some j → j.op = 0x0304 →
    j.left = 1 → (readParams 0x0304 j.pkt.params).f 2 = true → (readParams 0x0304 j.pkt.params).f 3 = false →
    (readParams 0x0304 j.pkt.params).n 5 = 0 →
    ∃ t r, exec (.scanPass q) s = .next t ∧ t.tab.scans = [] ∧ t.pkts.replies = s.pkts.replies ++ [r] ∧ r.chan = j.pkt.chan
      ∧ r.tag = j.pkt.tag ∧ r.status = 0 ∧ t.tab.addr = ((s.addrOf q).foldl (fun s e => s.dropAddr q e.1) s).tab.addr

/-- The bound sender's POST makes an EMPTY inbound slot POSTED, under a new incarnation if one waits; of a POSTED slot it is a sequence error; another SID's is a violation. NEW_INC waits, and applies with the slot EMPTY. Firmware's consumption of a POSTED slot empties it, latches the incarnation, sets IN_FREED, and with a sound header and room takes the command into the journal. Firmware posts the oldest reply of a bound channel into its EMPTY outbound slot, which the bound receiver then empties. A host bound to a channel sets the host-to-device doorbell bits it has a right to, the control complex clears them; the control complex sets a device-to-host doorbell, a host clears those it has a right to. -/
def Obligations.MailboxesAndDoorbells : Prop :=
  (∀ (rid n : Nat) (tr : Bool) (s : State), Inv s → n < 16 → s.refusal (.host rid tr) (Reg.mbInCtl.offset n) true = none →
    (s.bound n (s.sid (.host rid tr)) = true → s.flag F.mbInCtl_STATE n = false →
      ∃ t, exec (.mbInPost (.host rid tr) n) s = .next t ∧ t.flag F.mbInCtl_STATE n = true ∧ t.flag F.mbInCtl_INC_PEND n = false
        ∧ t.reg .mbInInc n = s.reg .mbInInc n + (if s.flag F.mbInCtl_INC_PEND n then 1 else 0))
    ∧ (s.bound n (s.sid (.host rid tr)) = true → s.flag F.mbInCtl_STATE n = true →
      ∃ t, exec (.mbInPost (.host rid tr) n) s = .next t ∧ t.flag F.mbErr_SEQ 0 = true ∧ t.reg .mbInCtl n = s.reg .mbInCtl n)
    ∧ (s.bound n (s.sid (.host rid tr)) = false →
      ∃ t, exec (.mbInPost (.host rid tr) n) s = .next t ∧ t.flag F.mbErr_VIOL 0 = true ∧ t.reg .mbInCtl n = s.reg .mbInCtl n)
    ∧ (s.bound n (s.sid (.host rid tr)) = true → s.meet.posts = [] →
      ∃ t, exec (.mbNewInc (.host rid tr) n) s = .next t ∧ t.flag F.mbInCtl_INC_PEND n = true ∧ t.reg .mbInInc n = s.reg .mbInInc n))
  ∧ (∀ (n : Nat) (s : State), Inv s → n < 16 → s.flag F.mbInCtl_INC_PEND n = true → s.flag F.mbInCtl_STATE n = false →
    ∃ t, exec (.incarnationApply n) s = .next t ∧ t.reg .mbInInc n = s.reg .mbInInc n + 1 ∧ t.flag F.mbInCtl_INC_PEND n = false)
  ∧ (∀ (n : Nat) (dma : List Byte) (fault : Bool) (op : Nat) (p : Packet) (s : State), Inv s → n < 16 → s.fwRunning = true →
    s.boot.switchAt = none → s.meet.posts = [] → s.flag F.mbInCtl_STATE n = true → parsePacket n (s.inSlotBytes n) = (op, p) →
    s.waiting n < 64 → firstFail (headerChecks s op p (lengthBad op p.params)) = none →
    ∃ t, exec (.mbInConsume n dma fault) s = .next t ∧ t.flag F.mbInCtl_STATE n = false ∧ t.reg .mbInCinc n = s.reg .mbInInc n
      ∧ t.regBit .mbStat 0 n = true
      ∧ t.pkts.taken = s.pkts.taken ++ [{ opcode := op, pkt := { p with dma := dma, dmaFault := fault }, inc := (s.reg .mbInInc n).toNat }]
      ∧ ∃ j, t.pkts.journal = s.pkts.journal ++ [j] ∧ j.chan = n ∧ j.tag = p.tag ∧ j.state = .consumed)
  ∧ (∀ (n : Nat) (r : Reply) (s : State), Inv s → n < 16 → s.fwRunning = true → s.flag F.mbOutCtl_STATE n = false →
    s.flag F.mbBind_VALID n = true → s.pkts.replies = [r] → r.chan = n →
    ∃ t, exec (.mbOutPost n) s = .next t ∧ t.flag F.mbOutCtl_STATE n = true ∧ t.pkts.replies = [] ∧ t.regBit .mbStat 0 (16 + n) = true
      ∧ ∀ w, 4 * w < r.bytes.length → t.reg .mbOutSlot (n * 128 + w) = word (leAt r.bytes (4 * w) 4))
  ∧ (∀ (rid n : Nat) (tr : Bool) (s : State), Inv s → n < 16 → s.refusal (.host rid tr) (Reg.mbOutCtl.offset n) true = none →
    s.bound n (s.sid (.host rid tr)) = true → s.meet.posts = [] → s.flag F.mbOutCtl_STATE n = true →
    ∃ t, exec (.mbOutConsume (.host rid tr) n) s = .next t ∧ t.flag F.mbOutCtl_STATE n = false)
  ∧ (∀ (rid n : Nat) (tr hi : Bool) (bits : Word) (s : State), Inv s → s.refusal (.host rid tr) ((h2dReg hi).offset 0) true = none →
    n < 16 → s.bound n (s.sid (.host rid tr)) = true →
    ∃ t, exec (.doorbellH2dSet (.host rid tr) hi bits) s = .next t
      ∧ t.reg (h2dReg hi) 0 = s.reg (h2dReg hi) 0 ||| word (bits.toNat &&& dbRights hi (s.sid (.host rid tr))))
  ∧ (∀ (hi : Bool) (bits : Word) (s : State), Inv s → s.meet.sets = [] →
    ∃ t, exec (.doorbellH2dClear hi bits) s = .next t
      ∧ ∀ k, k < 32 → t.regBit (h2dReg hi) 0 k = (s.regBit (h2dReg hi) 0 k && !bits.toNat.testBit k))
  ∧ (∀ (n : Nat) (s : State), Inv s → n < 64 →
    ∃ t, exec (.doorbellD2hSet n) s = .next t
      ∧ t.reg (d2hReg (decide (32 ≤ n))) 0 = s.reg (d2hReg (decide (32 ≤ n))) 0 ||| word (2 ^ (n % 32)))
  ∧ ∀ (rid : Nat) (tr hi : Bool) (bits : Word) (s : State), Inv s → s.meet.sets = [] →
    s.refusal (.host rid tr) ((d2hReg hi).offset 0) true = none →
    ∃ t, exec (.doorbellD2hClear (.host rid tr) hi bits) s = .next t
      ∧ ∀ k, k < 32 → t.regBit (d2hReg hi) 0 k
        = (s.regBit (d2hReg hi) 0 k && !(bits.toNat &&& dbRights hi (s.sid (.host rid tr))).testBit k)

/-- A one-doubleword write by the control complex of a present register that no rule of its own governs takes the written value in its RW bits and clears the W1C bits written with ones that hardware did not set in the slot; a write at the set, clear or toggle alias of a register with aliases sets, clears or inverts the RW bits named. Every other register but GLB_STAT and GLB_UPD_INFO, where a lost update shows, and the whole rest of the state but the meetings of the slot and the counters is unchanged. A request of bad alignment, length or byte enables, and one that the SID rule or the firewall refuses, does nothing but leave its record. -/
def Obligations.RegisterWritesAndAliases : Prop :=
  (∀ (r : Reg) (i : Nat) (v : Word) (s : State), Inv s → placeAt (r.offset i) = .reg r i → r.offset i < 0x2000000 → s.regPresent r i = true →
    s.inReset r i = false → r.desc.win ≠ .dma → r.isSetup = false → r.ownedTime = false → r ≠ .glbStat → r ≠ .glbUpdInfo →
    r ∉ [.macMode, .qmQmode, .macPortCfg, .tickSchAct, .tsEvtCtl, .tsEvtStart, .tsEvtFrac, .tsEvtPeriod, .tsEvtWidth, .tsRingCons,
      .tsRingStat, .gclCycStart, .gclSwapCtl, .schPshpRate, .schQshpRate, .cntSnap, .dmaRxTail, .dmaTxTail, .dmaRxCfg, .dmaTxCfg,
      .lnCemCommit, .protCtl, .protWdt, .protRst, .protDmaRevoke, .mbH2dDbLo, .mbH2dDbHi, .mbD2hDbLo, .mbD2hDbHi, .mbInSlot, .mbInCtl,
      .mbOutCtl, .mbOutSlot] →
    ∃ t, exec (.registerWrite .cc (r.offset i) [v] true) s = .next t
      ∧ (∀ k, k < 32 → (r.desc.rw.testBit k = true → r.desc.w1c.testBit k = false → t.regBit r i k = v.toNat.testBit k)
        ∧ (r.desc.rw.testBit k = false → r.desc.w1c.testBit k = true → (s.setNow r i).testBit k = false →
          t.regBit r i k = (s.regBit r i k && !v.toNat.testBit k))
        ∧ (r.desc.rw.testBit k = false → r.desc.w1c.testBit k = false → t.regBit r i k = s.regBit r i k))
      ∧ (∀ q j, q ≠ .glbStat → q ≠ .glbUpdInfo → ¬ (q = r ∧ j = i) → t.reg q j = s.reg q j)
      ∧ t.tick = s.tick ∧ t.time = s.time ∧ t.pkts = s.pkts ∧ t.log = s.log ∧ t.boot = s.boot ∧ t.ks = s.ks ∧ t.tab = s.tab
      ∧ t.path = s.path ∧ t.lanes = s.lanes ∧ t.host = s.host ∧ t.tree = s.tree ∧ t.out = s.out)
  ∧ (∀ (r : Reg) (i : Nat) (v : Word) (s : State), Inv s → placeAt (r.offset i) = .reg r i → r.offset i % 4 = 0 → r.offset i < 0x2000000 →
    s.regPresent r i = true → s.inReset r i = false → r.desc.win ≠ .dma → r.desc.aliased = true → r ≠ .mbH2dDbLo → r ≠ .mbH2dDbHi →
    r ≠ .glbStat → r ≠ .glbUpdInfo →
    (∃ t, exec (.aliasSet .cc (r.offset i) v) s = .next t ∧ t.reg r i = s.reg r i ||| (v &&& word r.desc.rw) ∧ t.path = s.path)
    ∧ (∃ t, exec (.aliasClear .cc (r.offset i) v) s = .next t ∧ t.reg r i = s.reg r i &&& ~~~(v &&& word r.desc.rw) ∧ t.path = s.path)
    ∧ (∃ t, exec (.aliasToggle .cc (r.offset i) v) s = .next t ∧ t.reg r i = s.reg r i ^^^ (v &&& word r.desc.rw) ∧ t.path = s.path))
  ∧ (∀ (who : Sender) (x : Nat) (ws : List Word) (en : Bool) (s : State), (x % 4 ≠ 0 ∨ ws.length = 0 ∨ 16 < ws.length) →
    exec (.registerWrite who x ws en) s = .next (s.accError 2 (s.sid who) x))
  ∧ (∀ (who : Sender) (x : Nat) (v : Word) (s : State), x % 4 = 0 →
    exec (.registerWrite who x [v] false) s = .next (s.accError 1 (s.sid who) x))
  ∧ ∀ (who : Sender) (x kind : Nat) (v : Word) (s : State), x % 4 = 0 → s.refusal who (judgedAt x) true = some kind →
    exec (.registerWrite who x [v] true) s = .next (s.violation kind (s.sid who) (judgedAt x) true)

/-- A write by the control complex of one word at an offset that lies inside a block's register map and names no register stops with the fault unspecifiedWrite under GRD2048-F; under every other ordering code it changes nothing. Every command in every state either goes on or stops with that fault, no command is refused, the fault occurs under GRD2048-F only, and the commands that carry no register write always go on. -/
def Obligations.WritesWithoutAStatedOutcome : Prop :=
  (∀ (x : Nat) (v : Word) (s : State), x % 4 = 0 → x < 0x2000000 → placeAt x = .gap →
    (s.fuses.code = .f → exec (.registerWrite .cc x [v] true) s = .fault (.unspecifiedWrite x))
    ∧ (s.fuses.code ≠ .f → exec (.registerWrite .cc x [v] true) s = .next s))
  ∧ ∀ (c : Instr) (s : State),
    (Runs (exec c s) ∨ (s.fuses.code = .f ∧ ∃ x, exec c s = .fault (.unspecifiedWrite x)))
    ∧ ((match c with
        | .registerWrite .. | .aliasSet .. | .aliasClear .. | .aliasToggle .. | .scheduleEntryDue | .treeRemoteAccess ..
        | .rhogenPacketReceive .. => False
        | _ => True) → Runs (exec c s))

/-- A read by the control complex of a present RC holding image answers what it holds and leaves it at 0, and no other register changes. A read of a sum's low half answers the low 32 bits of the sum and clears the sum. -/
def Obligations.ReadsThatClear : Prop :=
  (∀ (r : Reg) (i : Nat) (s : State), Inv s → placeAt (r.offset i) = .reg r i → r.offset i % 4 = 0 → r.offset i < 0x2000000 →
    s.regPresent r i = true → s.inReset r i = false → r.desc.win ≠ .dma → r.isSumLo = false → r.desc.rc = true →
    ∃ t, exec (.rcRead .cc (r.offset i)) s = .next t ∧ t.out = s.out ++ [.readData .cc (r.offset i) (s.reg r i)] ∧ t.reg r i = 0
      ∧ ∀ q j, ¬ (q = r ∧ j = i) → t.reg q j = s.reg q j)
  ∧ ∀ (r : Reg) (i : Nat) (s : State), Inv s → Table.wf (fun _ => 0) s.cnt.sums = true → placeAt (r.offset i) = .reg r i →
    r.offset i % 4 = 0 → r.offset i < 0x2000000 → s.regPresent r i = true → s.inReset r i = false → r.desc.win ≠ .dma → r.isSumLo = true →
    ∃ t, exec (.holdingSumRead .cc (r.offset i)) s = .next t ∧ Table.get (fun _ => 0) t.cnt.sums (regKey r i) = 0
      ∧ t.out = s.out ++ [.readData .cc (r.offset i) (word (Table.get (fun _ => 0) s.cnt.sums (regKey r i)))]

/-- A permitted TAIL write on the root waits for the slot's edge unless it hands over more than COUNT descriptors, which sets TAIL_ERR. The oldest reserved frame of a receive ring is written to its buffer, then its descriptor, and counted; a PCIe error stops the ring with FAULT. A granted transmit ring reads one frame, releases it on port 512 with its FCS, writes its descriptor back and advances HEAD. COAL_US after the first completion the ring's status bit sets. A vector whose OR is 1 fires once: an MSI-X message on the root, or its pending bit while masked. The owner's write of CONS inside the ring takes effect. A PCIe reset stops every ring and clears the endpoint's enables; the data link's start makes the device the root. -/
def Obligations.HostRingsAndInterrupts : Prop :=
  (∀ (who : Sender) (tx : Bool) (r : Nat) (v : Word) (s : State), Inv s → Table.wf (fun _ => ({} : RingSt)) s.host.rings = true →
    s.refusal who ((ringTail tx).offset r) true = none → r < 32 → s.tree.root = true →
    ((v.toNat + 2 ^ 32 - (s.reg (ringHead tx) r).toNat) % 2 ^ 32 ≤ s.ringCount tx r →
      ∃ t, exec (.dmaTailWrite who tx r v) s = .next t ∧ (t.ring tx r).tail = some v.toNat ∧ t.reg (ringTail tx) r = s.reg (ringTail tx) r)
    ∧ (s.ringCount tx r < (v.toNat + 2 ^ 32 - (s.reg (ringHead tx) r).toNat) % 2 ^ 32 →
      ∃ t, exec (.dmaTailWrite who tx r v) s = .next t ∧ t.flag F.dmaStat_TAIL_ERR 0 = true ∧ t.host = s.host))
  ∧ (∀ (r : Nat) (bufs : List Nat) (j : RxJob) (bs : List Byte) (s : State), Inv s → s.tab.jobs = [] → s.host.jobs = [j] → j.ring = r →
    j.bytes = some bs → j.n = 1 → s.rxRefusal j bufs (if j.fcs then bs else bs.take (bs.length - 4)).length (s.rxBuf r) = none →
    (∃ t, exec (.dmaRxFrameWrite r bufs false) s = .next t ∧ t.host.jobs = [] ∧ t.cnt = (s.count .dmaRxFrameCnt r 1).cnt
      ∧ t.out = s.out ++ [.hostWrite (bufs.getD 0 0) ((if j.fcs then bs else bs.take (bs.length - 4)).take (s.rxBuf r)),
        .hostWrite (s.descAddr false r j.idx + 8) (rxDescBytes j (if j.fcs then bs else bs.take (bs.length - 4)).length (s.rxBuf r) 0)])
    ∧ ∃ t, exec (.dmaRxFrameWrite r bufs true) s = .next t ∧ t.ringOn false r = false ∧ t.flag F.dmaStat_FAULT 0 = true
      ∧ t.host.jobs = [] ∧ t.out = s.out)
  ∧ (∀ (r : Nat) (d : TxDesc) (s : State), Inv s → r < 32 → s.tree.root = true → s.ringOn true r = true → s.host.bme = true →
    s.host.txLine < 256 * (s.tick.slot + 1) → s.held32 .dmaTxTail .dmaTxHead r = 1 → d.first = true → d.last = true → d.hdr = false →
    60 ≤ d.blen → d.blen ≤ 10236 → s.dmaAdmits (s.descAddr true r (s.reg .dmaTxHead r).toNat) 32 false true = true →
    s.dmaAdmits d.addr d.blen false true = true → etherType (slice d.data 0 d.blen ++ fcsBytes (slice d.data 0 d.blen)) ≠ 0x8808 →
    ∃ t f, exec (.dmaTxFrameFetch r [d] false) s = .next t ∧ t.path.frames = s.path.frames ++ [f] ∧ f.port = 512
      ∧ f.bytes = slice d.data 0 d.blen ++ fcsBytes (slice d.data 0 d.blen) ∧ t.reg .dmaTxHead r = s.reg .dmaTxHead r + 1
      ∧ t.out = s.out ++ [.hostWrite (s.descAddr true r (s.reg .dmaTxHead r).toNat + 10) [7, 0]])
  ∧ (∀ (tx : Bool) (r : Nat) (s : State), Inv s → Table.wf (fun _ => ({} : RingSt)) s.host.rings = true → r < 32 → (s.ring tx r).done ≠ 0 →
    3125 * s.coalUs tx r ≤ 2 * (s.tick.slot - (s.ring tx r).since) →
    ∃ t, exec (.dmaCoalesceTimer tx r) s = .next t ∧ (t.ring tx r).done = 0 ∧ t.regBit (if tx then .dmaTxStat else .dmaRxStat) 0 r = true)
  ∧ (∀ (v : Nat) (s : State), Inv s → v < 64 → s.regBit (if v < 32 then .glbIntFiredLo else .glbIntFiredHi) 0 (v % 32) = false →
    s.vectorOr v = true → s.tree.root = true →
    (s.host.msixOn = true → s.host.fnMask = false → s.host.vecMask.testBit v = false →
      ∃ t, exec (.vectorFire v) s = .next t ∧ t.out = s.out ++ [.msix v]
        ∧ t.regBit (if v < 32 then .glbIntFiredLo else .glbIntFiredHi) 0 (v % 32) = true)
    ∧ (s.host.msixOn = false → ∃ t, exec (.vectorFire v) s = .next t ∧ t.host.vecPend.testBit v = true ∧ t.out = s.out
        ∧ t.regBit (if v < 32 then .glbIntFiredLo else .glbIntFiredHi) 0 (v % 32) = true))
  ∧ (∀ (q : Nat) (v : Word) (s : State), Inv s → s.hasQuad q = true → s.flag F.tsRingCtl_OWNER q = true → v.toNat < 65536 →
    (s.fld F.tsRingProd_PROD q + 65536 - v.toNat) % 65536 ≤ s.ringLevel q →
    ∃ t, exec (.tsRingConsWrite .cc q v) s = .next t ∧ t.fld F.tsRingCons_CONS q = v.toNat)
  ∧ (∀ (s : State), Inv s → s.meet.posts = [] → ∃ t, exec .pcieReset s = .next t ∧ t.host.bme = false ∧ t.host.msixOn = false
      ∧ t.host.jobs = [] ∧ (∀ r, r < 32 → t.ringOn false r = false ∧ t.ringOn true r = false)
      ∧ (s.tree.root = true → ∀ n, n < 16 → s.flag F.mbBind_VALID n = true → t.flag F.mbInCtl_INC_PEND n = true))
  ∧ ∀ (bme on fm : Bool) (vm : Nat) (s : State), Inv s → s.power.straps.testBit 0 = false →
    ∃ t, exec (.pcieDataLinkUp bme on fm vm) s = .next t ∧ t.tree.root = true ∧ t.tree.hops = 0 ∧ t.tree.parent = none
      ∧ t.flag F.rlStat_ROOT 0 = true ∧ t.fld F.glbDevid_NODE 0 = 0 ∧ t.host.bme = bme ∧ t.host.msixOn = on ∧ t.host.fnMask = fm

/-- A port that finds block lock knows no peer yet. A changed port sends its HELLO. A packet with a bad CRC is counted and refused by NAK on an active link. The packet expected next is accepted, and an INT for this node shows at its source; a packet ahead of it is refused by NAK once. An acknowledgement is sent 1 µs after the first packet that is owed one. After 20 µs without an acknowledgement what is outstanding is sent again, and after sixteen replays the link goes down. A port whose link is lost forgets lock and peer, and the routes over it end. -/
def Obligations.TreeLinksDeliverInOrder : Prop :=
  (∀ (k : Nat) (s : State), Table.wf (fun _ => ({} : RlPort)) s.tree.ports = true → k < 4 → (s.rl k).lock = false →
    ∃ t, exec (.rhogenBlockLock k) s = .next t ∧ (t.rl k).lock = true ∧ (t.rl k).peer = none ∧ (t.rl k).helloAt = s.tick.slot ∧ t.regs = s.regs)
  ∧ (∀ (k : Nat) (s : State), Table.wf (fun _ => ({} : RlPort)) s.tree.ports = true → k < 4 → (s.rl k).lock = true → (s.rl k).dirty = true →
    ∃ t, exec (.rhogenHelloTimer k) s = .next t ∧ (t.rl k).dirty = false ∧ (t.rl k).helloAt = s.tick.slot
      ∧ t.out = s.out ++ [.rhogen k { typ := 0x01, payload := helloBytes (s.myHello k), src := s.node?.getD 0 }])
  ∧ (∀ (k : Nat) (x : RlPacket) (s : State), Inv s → Table.wf (fun _ => ({} : RlPort)) s.tree.ports = true → k < 4 → (s.rl k).lock = true →
    s.rlActive k = true →
    ((s.rl k).naking = false → ∃ t, exec (.rhogenPacketReceive k x false) s = .next t ∧ t.cnt = (s.count .rlCrcErrCnt k 1).cnt
      ∧ (t.rl k).naking = true ∧ t.out = s.out ++ [.rhogen k { typ := 0x03, ack := seqPrev (s.rl k).rxSeq, ackV := true, src := s.node?.getD 0 }])
    ∧ (x.typ = 0x30 → x.seqd = true → x.ackV = false → x.seq = (s.rl k).rxSeq → (s.rl k).owed < 7 → s.node? = some x.dst → x.src < 32 →
      ∃ t, exec (.rhogenPacketReceive k x true) s = .next t ∧ (t.rl k).rxSeq = seqNext (s.rl k).rxSeq ∧ (t.rl k).owed = (s.rl k).owed + 1
        ∧ t.regBit .rlNodeIntLo 0 x.src = true ∧ t.out = s.out)
    ∧ (x.typ = 0x30 → x.seqd = true → x.ackV = false → x.seq ≠ (s.rl k).rxSeq → (s.rl k).naking = false →
      seqUpTo (seqPrev (s.rl k).rxSeq) x.seq = false →
      ∃ t, exec (.rhogenPacketReceive k x true) s = .next t ∧ (t.rl k).rxSeq = (s.rl k).rxSeq ∧ (t.rl k).naking = true ∧ t.regs = s.regs))
  ∧ (∀ (k : Nat) (s : State), Table.wf (fun _ => ({} : RlPort)) s.tree.ports = true → k < 4 → (s.rl k).owed ≠ 0 →
    3125 ≤ 2 * (s.tick.slot - (s.rl k).owedAt) →
    ∃ t, exec (.rhogenAckTimer k) s = .next t ∧ (t.rl k).owed = 0
      ∧ t.out = s.out ++ [.rhogen k { typ := 0x02, ack := seqPrev (s.rl k).rxSeq, ackV := true, src := s.node?.getD 0 }])
  ∧ (∀ (k : Nat) (x : RlPacket) (s : State), Table.wf (fun _ => ({} : RlPort)) s.tree.ports = true → k < 4 → (s.rl k).unacked = [x] →
    (s.rl k).sentAt + 31250 ≤ s.tick.slot →
    ((s.rl k).replays < 16 → ∃ t, exec (.rhogenReplayTimeout k) s = .next t ∧ (t.rl k).replays = (s.rl k).replays + 1
      ∧ (t.rl k).unacked = [x] ∧ t.cnt = (s.count .rlReplayCnt k 1).cnt
      ∧ t.out = s.out ++ [.rhogen k { x with ack := seqPrev (s.rl k).rxSeq, ackV := (s.rl k).owed != 0 }])
    ∧ (16 ≤ (s.rl k).replays → ∃ t, exec (.rhogenReplayTimeout k) s = .next t ∧ (t.rl k).peer = none ∧ (t.rl k).lock = true))
  ∧ ∀ (k : Nat) (s : State), Inv s → Table.wf (fun _ => ({} : RlPort)) s.tree.ports = true → k < 4 →
    ∃ t, exec (.rhogenLinkDown k) s = .next t ∧ (t.rl k).lock = false ∧ (t.rl k).peer = none ∧ t.fld F.rlPortStat_STATE k = 0
      ∧ (s.rlState k = 8 → ∀ n, n < 64 → s.flag F.rlRoute_VALID n = true → s.fld F.rlRoute_PORT n = k → t.flag F.rlRoute_VALID n = false)

/-- A HELLO of a locked port is kept; when no other port has a peer and it offers a version both sides support, acknowledges it and is at most 3 hops from the root, that port becomes the parent, one hop further. The root gives a child reported on an active downstream link the number bound to its path, a route and routability, and sends ASSIGN. A host's remote write to a routable node goes out as WR_REQ, a remote read as RD_REQ that waits for its completion; without a route the access shows UNREACH and a read completes with all ones, and so does a read without a completion for 100 µs. -/
def Obligations.TreeRolesAndRemoteAccess : Prop :=
  (∀ (k : Nat) (h : Hello) (s : State), Table.wf (fun _ => ({} : RlPort)) s.tree.ports = true → k < 4 → (s.rl k).lock = true →
    ∃ t, exec (.rhogenHelloReceive k h) s = .next t ∧ (t.rl k).peer = some h
      ∧ (s.tree.root = false → s.tree.parent = none → (∀ j, j < 4 → j ≠ k → (s.rl j).peer = none) → h.vmin ≤ 0x0100 → 0x0100 ≤ h.vmax →
        h.flags.testBit 2 = true → h.hops ≤ 3 → t.tree.parent = some k ∧ t.tree.hops = h.hops + 1))
  ∧ (∀ (k n : Nat) (rest : List Nat) (s : State), Inv s → s.tree.root = true → s.fwRunning = true → (k :: rest).length ≤ 4 →
    (k :: rest).all (fun x => decide (x ≤ 3)) = true → s.rlState k = 8 → s.numberFor (k :: rest) = some n → n < 64 →
    (s.rl k).unacked = [] → (s.rl k).waiting = [] →
    ∃ t x, exec (.nodeEnumerate (k :: rest)) s = .next t ∧ OTable.get? t.tree.bound n = some (k :: rest) ∧ t.routable n = true
      ∧ t.reg .rlRoute n = word (2 ^ 31 + k) ∧ t.out = s.out ++ [.rhogen k x] ∧ x.typ = 0x40 ∧ x.dst = n ∧ x.seq = (s.rl k).txSeq)
  ∧ (∀ (who : Sender) (node y k n tag : Nat) (ws : List Word) (s : State), s.tree.root = true → node < 64 → node ≠ 0 → y < 2 ^ 28 →
    y % 4 = 0 → ws.length ≠ 0 → ws.length ≤ 16 → n ≠ 0 → n ≤ 16 →
    (s.routable node = true → s.portTo node = some k → s.rlActive k = true → (s.rl k).unacked = [] → (s.rl k).waiting = [] →
      (∃ t x, exec (.treeRemoteAccess who (node * 2 ^ 28 + y) true ws 0 true tag) s = .next t ∧ t.out = s.out ++ [.rhogen k x] ∧ x.typ = 0x11
        ∧ x.dst = node ∧ x.arg = y ∧ x.sid = s.sid who ∧ x.payload = ws.flatMap fun w => leBytes 4 w.toNat)
      ∧ (s.tree.reads = [] → ∃ t x, exec (.treeRemoteAccess who (node * 2 ^ 28 + y) false [] n true tag) s = .next t
        ∧ t.out = s.out ++ [.rhogen k x] ∧ x.typ = 0x10 ∧ x.dst = node ∧ x.tag = 0 ∧ t.tree.reads.map (·.host) = [tag]))
    ∧ (s.routable node = false →
      exec (.treeRemoteAccess who (node * 2 ^ 28 + y) true ws 0 true tag) s = .next s.unreachable
      ∧ exec (.treeRemoteAccess who (node * 2 ^ 28 + y) false [] n true tag) s
        = .next (s.unreachable.emit (.completion tag (List.replicate n 0xFFFFFFFF)))))
  ∧ ∀ (x : RemoteRead) (tag : Nat) (s : State), Inv s → s.tree.reads = [x] → x.tag = some tag → x.job = none →
    x.at_ + 156250 ≤ s.tick.slot →
    ∃ t, exec (.remoteReadTimeout tag) s = .next t ∧ t.tree.reads = [] ∧ t.flag F.rlStat_UNREACH 0 = true
      ∧ t.out = s.out ++ [.completion x.host (List.replicate x.n 0xFFFFFFFF)]

/-- For accepted packets with good parameters. HELLO of a range that meets firmware's answers OK with the highest common version. ECHO returns its parameters. EVENT_LOG_READ writes the records from FIRST on into the buffer and answers their number. SCHEDULE for this device holds the command under the next handle, which it answers; while the time is 2^30 ns or more ahead nothing but the held list changes. A SCHEDULE that names one unroutable node answers PARTIAL, and one that names a routable node waits for its answer. SCHEDULE_CANCEL of a held command takes it off the list and disarms its entries. SCHEDULE_LIST answers the records in handle order, inline or in the buffer. SNAPSHOT advances the sequence number once in a slot. CNT_READ moves the images of the range into the totals, writes the records of the range, clears SAT in it, and with CLEAR the totals. -/
def Obligations.GeneralPacketsAnswer : Prop :=
  (∀ (p : Packet) (a : Args) (s : State), Accepts 0x0001 p s → readParams 0x0001 p.params = a → a.bad = false → a.n 0 ≤ a.n 1 →
    max (a.n 0) s.boot.protoMin ≤ min (a.n 1) s.boot.protoMax →
    Completes (.hello p) 0x0001 p s (begun 0x0001 p s) .ok (emitBlock [ (.u 16, s.boot.protoMin), (.u 16, s.boot.protoMax),
      (.u 16, min (a.n 1) s.boot.protoMax), (.u 32, s.boot.build), (.u 8, s.fld F.protBoot_FW_SLOT 0), (.u 8, p.chan),
      (.flag, if p.chan < 4 then 1 else 0), (.u 32, s.incarnation p.chan), (.u 8, 32) ]))
  ∧ (∀ (p : Packet) (s : State), Accepts 0x0002 p s → Completes (.echo p) 0x0002 p s (begun 0x0002 p s) .ok p.params)
  ∧ (∀ (p : Packet) (a : Args) (got : List LogRec) (s : State), Accepts 0x0003 p s → readParams 0x0003 p.params = a → a.bad = false →
    1 ≤ a.n 1 → a.n 1 ≤ 65536 → firstFail (dmaChecks s p (a.n 2) true (64 * a.n 1)) = none → p.dmaFault = false →
    got = (s.log.all.filter fun (r : LogRec) => decide (a.n 0 ≤ r.seq)).take (a.n 1) →
    Completes (.eventLogRead p) 0x0003 p s ((begun 0x0003 p s).emit (.hostWrite (dmaAddr (a.n 2)) (got.flatMap LogRec.bytes))) .ok
      (emitBlock [(.u 32, got.length), (.u 64, (got.head?.map fun (r : LogRec) => r.seq).getD 0), (.u 64, s.log.nextSeq)]))
  ∧ (∀ (p : Packet) (a : Args) (s : State), Accepts 0x0004 p s → readParams 0x0004 p.params = a → schedBad a = false →
    (schedAct a).2 = 0 → firstFail (s.schedChecks a) = none →
    ∃ t, Completes (.schedule p) 0x0004 p s t .ok (emitBlock [(.u 16, s.nextHandle)]) ∧ t.tick.lastHandle = s.nextHandle
      ∧ (s.netNs + 2 ^ 30 ≤ unpackNet (a.n 0) → t.regs = s.regs ∧ t.tick.held = s.tick.held ++
        [{ handle := s.nextHandle, time := unpackNet (a.n 0), acts := [(schedAct a).1], modePort := none }]))
  ∧ (∀ (p : Packet) (a : Args) (n : Nat) (s : State), Accepts 0x0004 p s → readParams 0x0004 p.params = a → schedBad a = false →
    s.tree.root = true → n < 64 → n ≠ 0 → (schedAct a).2 = 2 ^ n → OTable.has s.tree.bound n = true →
    (s.routable n = false → Completes (.schedule p) 0x0004 p s (begun 0x0004 p s) .partial_
      (leBytes 2 1 ++ [0, 0] ++ (leBytes 2 Status.nodeUnreachable.code ++ leBytes 2 0)))
    ∧ (s.routable n = true → ∃ t, exec (.schedule p) s = .next t
      ∧ t.tree.fans = s.tree.fans ++ [{ chan := p.chan, tag := p.tag, node := n, msg := s.tree.msgs }]
      ∧ t.tab.jobs.length = s.tab.jobs.length + 1 ∧ t.pkts.replies = s.pkts.replies))
  ∧ (∀ (p : Packet) (a : Args) (h : Held) (s : State), Inv s → Accepts 0x0005 p s → readParams 0x0005 p.params = a → a.bad = false →
    s.tick.held.find? (fun h => h.handle = a.n 0) = some h → h.entries.any (fun e => s.dueEntries.contains e) = false →
    ∃ t, Completes (.scheduleCancel p) 0x0005 p s t .ok (emitBlock []) ∧ (∀ k, k ∈ t.tick.held → k.handle ≠ h.handle)
      ∧ (h.modePort = none → (∀ e, e ∈ h.entries → t.flag F.tickSchAct_ARM e = false) ∧ ∀ r i, r ≠ .tickSchAct → t.reg r i = s.reg r i))
  ∧ (∀ (p : Packet) (a : Args) (recs : List (List Byte)) (s : State), Accepts 0x0006 p s → readParams 0x0006 p.params = a → a.bad = false →
    recs = (sortBy (fun h => h.handle) (s.tick.held.filter fun h => a.n 0 ≤ h.handle)).flatMap Held.records →
    (1 ≤ a.n 1 → a.n 1 ≤ 28 → Completes (.scheduleList p) 0x0006 p s (begun 0x0006 p s) .ok
      (emitBlock [(.u 16, (recs.take (a.n 1)).length), (.flag, if recs.length ≤ a.n 1 then 1 else 0)] ++ (recs.take (a.n 1)).flatten))
    ∧ (28 < a.n 1 → a.n 1 ≤ 1024 → 8 < p.params.length → firstFail (dmaChecks s p (a.n 2) true (16 * a.n 1)) = none → p.dmaFault = false →
      Completes (.scheduleList p) 0x0006 p s ((begun 0x0006 p s).emit (.hostWrite (dmaAddr (a.n 2)) (recs.take (a.n 1)).flatten)) .ok
        (emitBlock [(.u 16, (recs.take (a.n 1)).length), (.flag, if recs.length ≤ a.n 1 then 1 else 0)])))
  ∧ (∀ (p : Packet) (s : State), Inv s → Accepts 0x0A03 p s →
    ∃ t e ps, Completes (.snapshot p) 0x0A03 p s t e ps ∧ t.cnt.lastSnapSlot = some s.tick.slot
      ∧ (s.cnt.lastSnapSlot = some s.tick.slot → t = begun 0x0A03 p s)
      ∧ (s.cnt.lastSnapSlot ≠ some s.tick.slot → s.samp.pendEpochs = [] →
        (t.reg .cntSnapSeq 0).toNat = ((s.reg .cntSnapSeq 0).toNat + 1) % 2 ^ 32 ∧ t.reg .cntSnapSlot 0 = word s.tick.slot))
  ∧ ∀ (p : Packet) (a : Args) (lo hi : Nat) (s : State), Accepts 0x0A04 p s → readParams 0x0A04 p.params = a → a.bad = false → a.n 0 ≤ 2 →
    1 ≤ a.n 2 → a.n 2 ≤ 65536 → a.n 1 + a.n 2 ≤ arrSize (a.n 0) → (∃ k, k < a.n 2 ∧ s.entryPresent (a.n 0) (a.n 1 + k) = true) →
    firstFail (dmaChecks s p (a.n 4) true (8 * a.n 2)) = none → p.dmaFault = false → lo = arrBase (a.n 0) + a.n 1 → hi = lo + a.n 2 →
    Table.wf (fun _ => 0) s.cnt.arrImg = true → Table.wf (fun _ => 0) s.cnt.totals = true →
    ∃ t bytes, Completes (.cntRead p) 0x0A04 p s t .ok (emitBlock [(.u 32, (s.reg .cntSnapSeq 0).toNat)])
      ∧ t.out = s.out ++ [.hostWrite (dmaAddr (a.n 4)) bytes] ∧ bytes.length = 8 * a.n 2
      ∧ (∀ k, lo ≤ k → k < hi → Table.get (fun _ => 0) t.cnt.arrImg k = 0 ∧ Table.get (fun _ => 0) t.cnt.sat k = 0
        ∧ (Table.get (fun _ => 0) s.cnt.totals k < 2 ^ 64 → Table.get (fun _ => 0) t.cnt.totals k = (if a.f 3 then 0 else
          min (Table.get (fun _ => 0) s.cnt.totals k + Table.get (fun _ => 0) s.cnt.arrImg k) (2 ^ 64 - 1))))
      ∧ ∀ k, k < lo ∨ hi ≤ k → Table.get (fun _ => 0) t.cnt.arrImg k = Table.get (fun _ => 0) s.cnt.arrImg k
        ∧ Table.get (fun _ => 0) t.cnt.totals k = Table.get (fun _ => 0) s.cnt.totals k

/-- In a state that meets the invariant, for accepted packets that pass their checks. PORT_CONFIG leaves the mode, EN, maximum frame, address and PAUSE_EN that it names. PORT_MODE_SET at once sets the bits of its set mask in MAC_MODE, clears those of its clear mask, and leaves the others; with a time 2^30 ns or more ahead it holds two register writes under the handle it answers. PORT_MODE_GET and PORT_STATUS_GET answer their registers and change nothing. WAKE_SET writes the mask, length and check of its pattern and its bit of PAT_EN, and no other register. -/
def Obligations.PortPacketsAnswer : Prop :=
  (∀ (p : Packet) (a : Args) (s : State), Inv s → Accepts 0x0100 p s → readParams 0x0100 p.params = a → a.bad = false → a.n 0 < 512 →
    s.hasPort (a.n 0) = true → a.n 1 ≤ 0x10 → 1518 ≤ a.n 3 → a.n 3 ≤ 10240 → a.n 0 % max 1 (modeRow (a.n 1)).1 = 0 →
    (∀ l, l < (modeRow (a.n 1)).1 → s.hasLane (a.n 0 + l) = true ∧ (∀ o, s.ownerOfLane (a.n 0 + l) = some o → o = a.n 0)
      ∧ (s.record? (a.n 0 + l) (modeRow (a.n 1)).2.1).isSome = true) →
    (a.n 1 = s.portMode (a.n 0) ∨ s.flag F.macPortCfg_EN (a.n 0) = false) →
    firstFail (limitChecks (begun 0x0100 p s) ((begun 0x0100 p s).portConfig (a.n 0) (a.n 1) (a.f 2) (a.n 3) (a.n 4) (a.f 5))
      (Config.quadOf (a.n 0))) = none →
    ∃ t, Completes (.portConfig p) 0x0100 p s t .ok (emitBlock []) ∧ t.fld F.macPortCfg_MODE (a.n 0) = a.n 1
      ∧ t.fld F.macPortCfg_MFS (a.n 0) = a.n 3 ∧ t.flag F.macPortCfg_EN (a.n 0) = a.f 2 ∧ t.flag F.macRxCfg_PAUSE_EN (a.n 0) = a.f 5
      ∧ t.reg .macAddrLo (a.n 0) = word (a.n 4) ∧ t.reg .macAddrHi (a.n 0) = word (a.n 4 / 2 ^ 32 % 2 ^ 16))
  ∧ (∀ (p : Packet) (a : Args) (k : ModeAsk) (s : State), Inv s → Accepts 0x0101 p s → readParams 0x0101 p.params = a → a.bad = false →
    k = { port := a.n 0, set := a.n 1, clr := a.n 2 &&& modeBits (a.n 0), deepSet := a.n 3, deepClr := a.n 4, ll := a.n 5
          time := unpackNet (a.n 6) } →
    s.hasPort (a.n 0) = true → s.hidden (a.n 0) = false → a.n 1 &&& a.n 2 = 0 → a.n 3 &&& a.n 4 = 0 → (a.n 2).testBit 2 = false →
    a.n 1 &&& (0xFFF ^^^ modeBits (a.n 0)) = 0 → (∀ i, i < 8 → (a.n 4).testBit i = true → s.deepHeadroom (16 * a.n 0 + i) = 0) →
    (a.n 0 < 512 → firstFail (limitChecks (begun 0x0101 p s) ((begun 0x0101 p s).modePlan k) (Config.quadOf (a.n 0))) = none) →
    (a.n 6 = 0 → ∃ t, Completes (.portModeSet p) 0x0101 p s t .ok (emitBlock []) ∧ ∀ b, b < 12 → t.regBit .macMode (a.n 0) b =
      ((a.n 1).testBit b || (s.regBit .macMode (a.n 0) b && !((a.n 2).testBit b && (modeBits (a.n 0)).testBit b))))
    ∧ (a.n 6 ≠ 0 → s.netNs + 2 ^ 30 ≤ k.time → k.time ≤ 86400 * 1000000000 + s.netNs → s.tick.held.length < 1024 →
      ∃ t h, Completes (.portModeSet p) 0x0101 p s t .ok (emitBlock [(.u 16, s.nextHandle)]) ∧ t.tick.held = s.tick.held ++ [h]
        ∧ h.handle = s.nextHandle ∧ h.time = k.time ∧ h.modePort = some (a.n 0) ∧ h.acts.length = 2 ∧ t.reg .macMode (a.n 0) = s.reg .macMode (a.n 0)))
  ∧ (∀ (p : Packet) (a : Args) (s : State), Accepts 0x0102 p s → readParams 0x0102 p.params = a → a.bad = false → s.hasPort (a.n 0) = true →
    Completes (.portModeGet p) 0x0102 p s (begun 0x0102 p s) .ok (emitBlock [ (.u 32, (s.view .macMode (a.n 0)).toNat),
      (.u 32, (s.view .qmQmode (a.n 0)).toNat), (.u 32, (s.view .macModeStat (a.n 0)).toNat), (.u 8, s.fld F.fcCfg_LL_MASK (a.n 0)),
      (.u 16, s.modeHandle (a.n 0)) ]))
  ∧ (∀ (p : Packet) (a : Args) (s : State), Accepts 0x0103 p s → readParams 0x0103 p.params = a → a.bad = false → s.hasPort (a.n 0) = true →
    ∃ ps, Completes (.portStatusGet p) 0x0103 p s (begun 0x0103 p s) .ok ps ∧ ps.length = 36
      ∧ leAt ps 0 4 = (s.view .macPortCfg (a.n 0)).toNat ∧ leAt ps 4 4 = (s.view .macLink (a.n 0)).toNat
      ∧ leAt ps 8 4 = (s.view .macStat (a.n 0)).toNat ∧ leAt ps 12 4 = (s.view .macMode (a.n 0)).toNat
      ∧ leAt ps 16 4 = (s.view .macModeStat (a.n 0)).toNat ∧ leAt ps 20 4 = (s.view .qmPortStat (a.n 0)).toNat)
  ∧ ∀ (p : Packet) (a : Args) (s : State), Inv s → Accepts 0x0104 p s → readParams 0x0104 p.params = a → a.bad = false → a.n 0 < 512 →
    s.hasPort (a.n 0) = true → s.hidden (a.n 0) = false → a.n 1 ≤ 7 → 1 ≤ a.n 3 → a.n 3 ≤ 128 → a.n 4 < 2 ^ a.n 3 →
    (a.f 2 = true → a.n 4 ≠ 0) →
    ∃ t, Completes (.wakeSet p) 0x0104 p s t .ok (emitBlock [])
      ∧ (∀ k, k < 4 → t.reg .macWakeMask (4 * (8 * a.n 0 + a.n 1) + k) = word (a.n 4 / 2 ^ (32 * k)))
      ∧ t.reg .macWakePcfg (8 * a.n 0 + a.n 1) = word (a.n 3 * 2 ^ 16 + a.n 5)
      ∧ (∀ k, k < 8 → (t.fld F.macWakeCtl_PAT_EN (a.n 0)).testBit k = if k = a.n 1 then a.f 2 else (s.fld F.macWakeCtl_PAT_EN (a.n 0)).testBit k)
      ∧ ∀ r i, r ≠ .macWakeMask → r ≠ .macWakePcfg → r ≠ .macWakeCtl → t.reg r i = s.reg r i

/-- For accepted packets that pass their checks. CLS_WRITE writes the entry or pair into each named quadrant, the even half with the low 160 bits of key and mask and the action word, and no entry of another pair changes. CLS_READ of a single entry and of a pair answers it. CLS_INVALIDATE leaves no valid entry in its range and no entry outside the range and its pairs changed. POL_SET gives the policer its rates, buckets, mode and actions, with RESET_BUCKETS full, and no other policer changes. POL_GET answers a policer up to the slot. ING_PORT_SET writes PRS_PORTCFG and PRS_PORTPROF and no other register; ING_PORT_GET answers them. -/
def Obligations.IngressPacketsAnswer : Prop :=
  (∀ (p : Packet) (a : Args) (s : State), Table.wf (fun _ => ({} : ClsEnt)) s.tab.cls = true → Accepts 0x0200 p s →
    readParams 0x0200 p.params = a → a.bad = false → (∀ q, q < 4 → (a.n 0).testBit q = true → s.hasQuad q = true) → a.n 1 < 32768 →
    ((a.n 2 = 1 ∧ a.n 3 % 16 < 2) ∨ (a.n 2 = 2 ∧ a.n 1 % 2 = 0 ∧ a.n 3 % 16 = 2)) → a.n 5 < 2 ^ 54 → actField (a.n 5) 8 10 ≤ 515 →
    s.hasPort (actField (a.n 5) 8 10) = true →
    ∃ t, Completes (.clsWrite p) 0x0200 p s t .ok (emitBlock [])
      ∧ ∀ q i, q < 4 → i < 32768 →
        ((a.n 0).testBit q = true → i = a.n 1 → t.clsAt q i =
          { key := a.n 3 % 2 ^ 160, mask := a.n 4 % 2 ^ 160, act := a.n 5, pair := a.n 2 == 2, valid := a.f 6 })
        ∧ ((a.n 0).testBit q = true → i = a.n 1 + 1 → a.n 2 = 2 → t.clsAt q i =
          { key := a.n 3 / 2 ^ 160, mask := a.n 4 / 2 ^ 160, pair := true, valid := a.f 6 })
        ∧ ((a.n 0).testBit q = false ∨ i / 2 ≠ a.n 1 / 2 → t.clsAt q i = s.clsAt q i))
  ∧ (∀ (p : Packet) (a : Args) (err : Nat) (s : State), Accepts 0x0201 p s → readParams 0x0201 p.params = a → a.bad = false →
    s.hasQuad (a.n 0) = true → a.n 1 < 32768 →
    err = (if s.fld F.clsErrIdx_INDEX (a.n 0) = a.n 1 then s.fld F.clsErrIdx_KIND (a.n 0) else 0) →
    ((s.clsAt (a.n 0) (a.n 1)).pair = false → Completes (.clsRead p) 0x0201 p s (begun 0x0201 p s) .ok
      (emitBlock [ (.wide 160, (s.clsAt (a.n 0) (a.n 1)).key), (.wide 160, (s.clsAt (a.n 0) (a.n 1)).mask),
        (.u 64, (s.clsAt (a.n 0) (a.n 1)).act), (.u 2, 1), (.flag, if (s.clsAt (a.n 0) (a.n 1)).valid then 1 else 0), (.u 2, err) ]))
    ∧ ((s.clsAt (a.n 0) (a.n 1)).pair = true → a.n 1 % 2 = 0 → Completes (.clsRead p) 0x0201 p s (begun 0x0201 p s) .ok
      (emitBlock [ (.wide 320, (s.clsAt (a.n 0) (a.n 1)).key + (s.clsAt (a.n 0) (a.n 1 + 1)).key * 2 ^ 160),
        (.wide 320, (s.clsAt (a.n 0) (a.n 1)).mask + (s.clsAt (a.n 0) (a.n 1 + 1)).mask * 2 ^ 160),
        (.u 64, (s.clsAt (a.n 0) (a.n 1)).act), (.u 2, 2), (.flag, if (s.clsAt (a.n 0) (a.n 1)).valid then 1 else 0), (.u 2, err) ])))
  ∧ (∀ (p : Packet) (a : Args) (s : State), Table.wf (fun _ => ({} : ClsEnt)) s.tab.cls = true → Accepts 0x0202 p s →
    readParams 0x0202 p.params = a → a.bad = false → (∀ q, q < 4 → (a.n 0).testBit q = true → s.hasQuad q = true) →
    a.n 1 ≤ a.n 2 → a.n 2 < 32768 →
    ∃ t, Completes (.clsInvalidate p) 0x0202 p s t .ok (emitBlock [])
      ∧ ∀ q i, q < 4 → i < 32768 →
        ((a.n 0).testBit q = true → a.n 1 ≤ i → i ≤ a.n 2 → (t.clsAt q i).valid = false)
        ∧ ((a.n 0).testBit q = false ∨ ((i < a.n 1 ∨ a.n 2 < i) ∧ (pairHalf i < a.n 1 ∨ a.n 2 < pairHalf i)) → t.clsAt q i = s.clsAt q i))
  ∧ (∀ (p : Packet) (a : Args) (s : State), Table.wf (fun _ => ({} : Policer)) s.tab.pol = true → Accepts 0x0203 p s →
    readParams 0x0203 p.params = a → a.bad = false → (∀ q, q < 4 → (a.n 0).testBit q = true → s.hasQuad q = true) →
    a.n 2 ≤ a.n 3 → a.n 3 ≤ 2 ^ 24 → a.n 4 < 2 ^ 24 → a.n 5 < 2 ^ 24 →
    ∃ t, Completes (.polSet p) 0x0203 p s t .ok (emitBlock [])
      ∧ ∀ q i, q < 4 → i < 65536 →
        ((a.n 0).testBit q = true → i = a.n 1 → (t.polAt q i).cir = a.n 2 ∧ (t.polAt q i).pir = a.n 3 ∧ (t.polAt q i).cbs = a.n 4
          ∧ (t.polAt q i).pbs = a.n 5 ∧ (t.polAt q i).aware = a.f 6 ∧ (t.polAt q i).yellowAct = a.n 8 ∧ (t.polAt q i).redAct = a.n 10
          ∧ (t.polAt q i).tc ≤ a.n 4 * 65536 ∧ (t.polAt q i).tp ≤ a.n 5 * 65536
          ∧ (a.f 11 = true → (t.polAt q i).tc = a.n 4 * 65536 ∧ (t.polAt q i).tp = a.n 5 * 65536))
        ∧ ((a.n 0).testBit q = false ∨ i ≠ a.n 1 → t.polAt q i = s.polAt q i))
  ∧ (∀ (p : Packet) (a : Args) (o : Policer) (s : State), Accepts 0x0204 p s → readParams 0x0204 p.params = a → a.bad = false →
    s.hasQuad (a.n 0) = true → o = (s.polAt (a.n 0) (a.n 1)).upTo s.tick.slot →
    Completes (.polGet p) 0x0204 p s (begun 0x0204 p s) .ok (emitBlock [ (.u 32, o.cir), (.u 32, o.pir), (.u 32, o.cbs), (.u 32, o.pbs),
      (.flag, if o.aware then 1 else 0), (.s 7, ofSigned 8 o.lenAdj), (.u 2, o.yellowAct), (.u 6, o.yellowDscp), (.flag, o.redAct),
      (.u 64, o.tc), (.u 64, o.tp) ]))
  ∧ (∀ (p : Packet) (a : Args) (s : State), Inv s → Accepts 0x0205 p s → readParams 0x0205 p.params = a → a.bad = false →
    s.hasPort (a.n 0) = true → s.hidden (a.n 0) = false → a.n 1 % 4096 ≠ 0 → a.n 1 % 4096 ≠ 4095 → a.n 1 / 65536 % 4 ≠ 3 →
    a.n 1 < 2 ^ 25 → a.n 2 < 2 ^ 9 →
    ∃ t, Completes (.ingPortSet p) 0x0205 p s t .ok (emitBlock []) ∧ t.reg .prsPortcfg (a.n 0) = word (a.n 1)
      ∧ t.reg .prsPortprof (a.n 0) = word (a.n 2) ∧ ∀ r i, i ≠ a.n 0 ∨ (r ≠ .prsPortcfg ∧ r ≠ .prsPortprof) → t.reg r i = s.reg r i)
  ∧ ∀ (p : Packet) (a : Args) (s : State), Accepts 0x0206 p s → readParams 0x0206 p.params = a → a.bad = false → s.hasPort (a.n 0) = true →
    Completes (.ingPortGet p) 0x0206 p s (begun 0x0206 p s) .ok
      (emitBlock [(.u 32, (s.reg .prsPortcfg (a.n 0)).toNat), (.u 32, (s.reg .prsPortprof (a.n 0)).toNat)])

/-- For accepted packets that pass their checks, in each present named quadrant, the address table in order. FDB_INSERT of an absent key writes the entry at the first free candidate; a key that exists is written over with REPLACE and left without it, which the quadrant reports; OK when every quadrant took the entry. FDB_DELETE frees the entry of the key and type and no other; OK when every quadrant held it. FDB_SEARCH answers each quadrant's record and changes nothing. FDB_NEXT and FDB_FLUSH_PORT wait as jobs for their scan passes, their replies not yet made. -/
def Obligations.AddressEntryPacketsAnswer : Prop :=
  (∀ (p : Packet) (a : Args) (new : AddrEnt) (s : State), Table.sortedFrom 0 s.tab.addr = true → Accepts 0x0300 p s →
    readParams 0x0300 p.params = a → a.bad = false → s.quadsOf (a.n 0) ≠ [] → a.n 2 ≠ 0 →
    (a.f 3 = false → (a.n 2 / 2 ^ 40).testBit 0 = false ∧ a.f 4 = false) → (a.f 4 = false → a.n 5 ≤ 515 ∧ s.hasPort (a.n 5) = true) →
    (a.f 4 = true → a.n 5 ≤ 16383) →
    new = { mac := a.n 2, fid := a.n 1, dest := a.n 5, static := a.f 3, hit := true, isSet := a.f 4, copyCpu := a.f 6 } →
    ∃ t e ps, Completes (.fdbInsert p) 0x0300 p s t e ps
      ∧ (∀ q pos, q ∈ s.quadsOf (a.n 0) →
        (s.lookupAddr q new.key = none → (s.candidates q new.key).find? (fun pos => (s.addrAt q pos).isNone) = some pos →
          t.addrAt q pos = some new)
        ∧ ∀ old, s.lookupAddr q new.key = some (pos, old) → t.addrAt q pos = some (if a.f 7 then new else old))
      ∧ ((∀ q, q ∈ s.quadsOf (a.n 0) → s.lookupAddr q new.key = none
        ∧ ((s.candidates q new.key).find? fun pos => (s.addrAt q pos).isNone).isSome = true) → e = .ok)
      ∧ ((∀ q, q ∈ s.quadsOf (a.n 0) → (s.lookupAddr q new.key).isSome = true) →
        (a.f 7 = true → e = .ok) ∧ (a.f 7 = false → e = .partial_ ∧ t.tab = s.tab)))
  ∧ (∀ (p : Packet) (a : Args) (s : State), Table.sortedFrom 0 s.tab.addr = true → Accepts 0x0301 p s → readParams 0x0301 p.params = a →
    a.bad = false → a.n 3 ≠ 3 → s.quadsOf (a.n 0) ≠ [] →
    ∃ t e ps, Completes (.fdbDelete p) 0x0301 p s t e ps
      ∧ (∀ q pos old, q ∈ s.quadsOf (a.n 0) → s.lookupAddr q (addrKey (a.n 1) (a.n 2)) = some (pos, old) →
        (old.ofType (a.n 3) = true → t.addrAt q pos = none) ∧ (old.ofType (a.n 3) = false → t.addrAt q pos = some old))
      ∧ (∀ q pos, q < 4 → pos < 2 ^ 20 → (∀ old, s.lookupAddr q (addrKey (a.n 1) (a.n 2)) ≠ some (pos, old)) → t.addrAt q pos = s.addrAt q pos)
      ∧ ((∀ q, q ∈ s.quadsOf (a.n 0) → ((s.lookupAddr q (addrKey (a.n 1) (a.n 2))).any fun r => r.2.ofType (a.n 3)) = true) → e = .ok))
  ∧ (∀ (p : Packet) (a : Args) (s : State), Accepts 0x0302 p s → readParams 0x0302 p.params = a → a.bad = false → s.quadsOf (a.n 0) ≠ [] →
    ∃ e ps, Completes (.fdbSearch p) 0x0302 p s (begun 0x0302 p s) e ps ∧ ps.length = 80
      ∧ (∀ q pos old, q ∈ s.quadsOf (a.n 0) → s.lookupAddr q (addrKey (a.n 1) (a.n 2)) = some (pos, old) →
        slice ps (16 + 16 * q) 16 = s.entryRecord q pos old)
      ∧ ((∀ q, q ∈ s.quadsOf (a.n 0) → (s.lookupAddr q (addrKey (a.n 1) (a.n 2))).isSome = true) → e = .ok))
  ∧ (∀ (p : Packet) (a : Args) (s : State), Accepts 0x0303 p s → readParams 0x0303 p.params = a → a.bad = false → s.hasQuad (a.n 0) = true →
    1 ≤ a.n 9 → a.n 9 ≤ 4096 → a.n 8 ≠ 3 → (28 < a.n 9 → firstFail (dmaChecks s p (a.n 10) true (16 * a.n 9)) = none) →
    (a.f 4 = true → s.hasPort (a.n 5) = true) →
    ∃ t, exec (.fdbNext p) s = .next t ∧ t.tab.scans = s.tab.scans ++ [{ quad := a.n 0, chan := p.chan, tag := p.tag }]
      ∧ t.tab.jobs.length = s.tab.jobs.length + 1 ∧ t.pkts.replies = s.pkts.replies ∧ t.tab.addr = s.tab.addr)
  ∧ ∀ (p : Packet) (a : Args) (s : State), Accepts 0x0304 p s → readParams 0x0304 p.params = a → a.bad = false → a.n 5 ≠ 3 →
    s.quadsOf (a.n 0) ≠ [] → (a.f 2 = false → s.hasPort (a.n 1) = true) →
    ∃ t, exec (.fdbFlushPort p) s = .next t
      ∧ t.tab.scans = s.tab.scans ++ (s.quadsOf (a.n 0)).map (fun q => { quad := q, chan := p.chan, tag := p.tag })
      ∧ t.tab.jobs.length = s.tab.jobs.length + 1 ∧ t.pkts.replies = s.pkts.replies ∧ t.tab.addr = s.tab.addr

/-- In a state that meets the invariant, for accepted packets that pass their checks. FDB_AGE_SET writes AGE_EN, PERIOD and DA_REFRESH, and FDB_LEARN_SET the port's MODE and LIMIT, in every present quadrant and no other register. FDB_NOTIFY_SET replaces the ring's address, size and doorbell, resets its producer index and keeps the records held. VLAN_SET writes the entry of the VID in every present quadrant, its members cut to the present ports, and no other entry. VLAN_GET answers the entry of quadrant 0 and the default flood set. -/
def Obligations.AddressSettingsPacketsAnswer : Prop :=
  (∀ (p : Packet) (a : Args) (s : State), Inv s → Accepts 0x0305 p s → readParams 0x0305 p.params = a → a.bad = false →
    (a.f 0 = true → 4 ≤ a.n 1 ∧ a.n 1 ≤ 1048575) →
    ∃ t, Completes (.fdbAgeSet p) 0x0305 p s t .ok (emitBlock [])
      ∧ (∀ q, s.hasQuad q = true → t.flag F.tbAgeCfg_AGE_EN q = a.f 0 ∧ t.fld F.tbAgeCfg_PERIOD q = a.n 1 % 2 ^ 20
        ∧ t.flag F.tbAgeCfg_DA_REFRESH q = a.f 2)
      ∧ ∀ r i, r ≠ .tbAgeCfg ∨ s.hasQuad i = false → t.reg r i = s.reg r i)
  ∧ (∀ (p : Packet) (a : Args) (s : State), Inv s → Accepts 0x0306 p s → readParams 0x0306 p.params = a → a.bad = false →
    s.hasPort (a.n 0) = true → s.hidden (a.n 0) = false → a.n 1 ≠ 3 → a.n 2 ≤ 1048576 →
    ∃ t, Completes (.fdbLearnSet p) 0x0306 p s t .ok (emitBlock [])
      ∧ (∀ q, s.hasQuad q = true → t.fld F.tbPortLearn_MODE (q * 516 + a.n 0) = a.n 1 ∧ t.fld F.tbPortLearn_LIMIT (q * 516 + a.n 0) = a.n 2)
      ∧ ∀ r i, r ≠ .tbPortLearn ∨ i % 516 ≠ a.n 0 → t.reg r i = s.reg r i)
  ∧ (∀ (p : Packet) (a : Args) (s : State), Accepts 0x0307 p s → readParams 0x0307 p.params = a → a.bad = false →
    (a.f 0 = true → s.dmaAdmits (a.n 1) (64 + 16 * a.n 2) true (p.chan < 4) = true ∧ 1024 ≤ a.n 2 ∧ a.n 2 ≤ 1048576
      ∧ popCount 32 (a.n 2) = 1 ∧ a.n 1 % 4096 = 0) →
    ∃ t, Completes (.fdbNotifySet p) 0x0307 p s t .ok (emitBlock []) ∧ t.tab.ring.enabled = a.f 0 ∧ t.tab.ring.addr = a.n 1
      ∧ t.tab.ring.size = a.n 2 ∧ t.tab.ring.bell = a.n 3 ∧ t.tab.ring.prod = 0 ∧ t.tab.ring.held = s.tab.ring.held ∧ t.regs = s.regs)
  ∧ (∀ (p : Packet) (a : Args) (s : State), Table.wf (fun _ => ({} : VlanEnt)) s.tab.vlan = true → Accepts 0x0308 p s →
    readParams 0x0308 p.params = a → a.bad = false → a.n 0 ≠ 0 → a.n 0 ≠ 4095 → a.n 4 ≤ 16383 → a.n 5 ≤ 16383 →
    ∃ t, Completes (.vlanSet p) 0x0308 p s t .ok (emitBlock [])
      ∧ (∀ q, s.hasQuad q = true → t.vlanAt q (a.n 0) =
        { valid := a.f 1, fid := a.n 2, learn := a.f 3, floodUc := a.n 4, floodMc := a.n 5, member := s.presentMask (a.n 6) })
      ∧ ∀ q v, v < 4096 → v ≠ a.n 0 → t.vlanAt q v = s.vlanAt q v)
  ∧ ∀ (p : Packet) (a : Args) (v : VlanEnt) (s : State), Accepts 0x0309 p s → readParams 0x0309 p.params = a → a.bad = false → a.n 0 ≠ 0 →
    a.n 0 ≠ 4095 → v = s.vlanAt 0 (a.n 0) →
    Completes (.vlanGet p) 0x0309 p s (begun 0x0309 p s) .ok (emitBlock [ (.flag, if v.valid then 1 else 0), (.u 12, v.fid),
      (.flag, if v.learn then 1 else 0), (.u 16, v.floodUc), (.u 16, v.floodMc), (.wide 516, v.member), (.u 16, 16383) ])

/-- For accepted packets that pass their checks. PFX_INSERT queues an insertion for every bank of each named present quadrant that lacks the prefix and has room, a rewrite with REPLACE where the quadrant holds it, and answers when they are done; a prefix held everywhere without REPLACE is PARTIAL at once. PFX_DELETE queues a deletion for every bank that holds the prefix, and is PARTIAL at once where none does. PFX_SEARCH answers each quadrant's result word and number of copies, PFX_LOOKUP what a search of the data plane finds, PFX_READ the hardware entry. PFX_NEXT answers the prefixes after the cursor in rising order, in the buffer or at most 15 inline (the model's choice, log entry 44). PFX_SEL_SET writes the selectors while no quadrant holds a prefix. -/
def Obligations.PrefixPacketsAnswer : Prop :=
  (∀ (p : Packet) (a : Args) (e : PfxEnt) (banks : Nat → List Nat) (s : State), Accepts 0x0400 p s → readParams 0x0400 p.params = a →
    a.bad = false → s.quadsOf (a.n 0) ≠ [] → pfxBad (a.n 1) (a.n 3) (a.n 4) = false → a.n 6 < (if a.f 5 then 4096 else 65536) →
    e = mkPfx (a.n 1 != 0) (a.n 2) (a.n 3) (a.n 4) (a.f 5) (a.n 6) →
    banks = (fun q => s.pfxBanks q (a.n 1 != 0) (a.n 2) (a.n 3) (a.n 4)) →
    ((∃ q, q ∈ s.quadsOf (a.n 0) ∧ (∀ b, b ∈ banks q → (s.bankRecord q b).find e = none ∧ e.room ≤ (s.bankRecord q b).free)) →
      ∃ t, exec (.pfxInsert p) s = .next t ∧ t.tab.jobs.length = s.tab.jobs.length + 1 ∧ t.pkts.replies = s.pkts.replies
        ∧ t.tab.banks = s.tab.banks ∧ ∀ q b, q ∈ s.quadsOf (a.n 0) → b ∈ banks q →
          ((∀ b, b ∈ banks q → (s.bankRecord q b).find e = none ∧ e.room ≤ (s.bankRecord q b).free) →
            { quad := q, bank := b, kind := 0, ent := e, chan := p.chan, tag := p.tag } ∈ t.tab.pfxOps)
          ∧ ((∃ b, b ∈ banks q ∧ ((s.bankRecord q b).find e).isSome = true) → a.f 7 = true →
            { quad := q, bank := b, kind := 2, ent := e, chan := p.chan, tag := p.tag } ∈ t.tab.pfxOps))
    ∧ ((∀ q, q ∈ s.quadsOf (a.n 0) → ∃ b, b ∈ banks q ∧ ((s.bankRecord q b).find e).isSome = true) → a.f 7 = false →
      ∃ ps, Completes (.pfxInsert p) 0x0400 p s (begun 0x0400 p s) .partial_ ps))
  ∧ (∀ (p : Packet) (a : Args) (e : PfxEnt) (banks : Nat → List Nat) (s : State), Accepts 0x0401 p s → readParams 0x0401 p.params = a →
    a.bad = false → s.quadsOf (a.n 0) ≠ [] → pfxBad (a.n 1) (a.n 3) (a.n 4) = false →
    e = mkPfx (a.n 1 != 0) (a.n 2) (a.n 3) (a.n 4) false 0 → banks = (fun q => s.pfxBanks q (a.n 1 != 0) (a.n 2) (a.n 3) (a.n 4)) →
    (∀ q b, q ∈ s.quadsOf (a.n 0) → b ∈ banks q → ((s.bankRecord q b).find e).isSome = true →
      ∃ t, exec (.pfxDelete p) s = .next t ∧ { quad := q, bank := b, kind := 1, ent := e, chan := p.chan, tag := p.tag } ∈ t.tab.pfxOps
        ∧ t.tab.jobs.length = s.tab.jobs.length + 1 ∧ t.pkts.replies = s.pkts.replies ∧ t.tab.banks = s.tab.banks)
    ∧ ((∀ q b, q ∈ s.quadsOf (a.n 0) → b ∈ banks q → (s.bankRecord q b).find e = none) →
      ∃ ps, Completes (.pfxDelete p) 0x0401 p s (begun 0x0401 p s) .partial_ ps))
  ∧ (∀ (p : Packet) (a : Args) (found : Nat → List PfxEnt) (s : State), Accepts 0x0402 p s → readParams 0x0402 p.params = a →
    a.bad = false → s.quadsOf (a.n 0) ≠ [] → pfxBad (a.n 1) (a.n 3) (a.n 4) = false →
    found = (fun q => (s.pfxBanks q (a.n 1 != 0) (a.n 2) (a.n 3) (a.n 4)).filterMap fun b =>
      (s.bankRecord q b).find (mkPfx (a.n 1 != 0) (a.n 2) (a.n 3) (a.n 4) false 0)) →
    ∃ st ps, Completes (.pfxSearch p) 0x0402 p s (begun 0x0402 p s) st ps ∧ ((∀ q, q ∈ s.quadsOf (a.n 0) → found q ≠ []) → st = .ok)
      ∧ ∀ q x l, q ∈ s.quadsOf (a.n 0) → found q = x :: l →
        leAt ps (16 + 8 * q) 4 = ((if x.group then 65536 else 0) + x.idx) % 2 ^ 32 ∧ leAt ps (20 + 8 * q) 4 = (l.length + 1) % 2 ^ 32)
  ∧ (∀ (p : Packet) (a : Args) (ty : Ty) (s : State), Accepts 0x0403 p s → readParams 0x0403 p.params = a → a.bad = false → a.n 1 ≤ 1 →
    s.hasQuad (a.n 0) = true → ty = (if a.n 1 = 0 then .ip4 else .ip6) →
    (∀ b i e, s.pfxSearch (a.n 0) (a.n 1 != 0) (a.n 2) (a.n 3) = some (b, i, e) →
      Completes (.pfxLookup p) 0x0403 p s (begun 0x0403 p s) .ok (emitBlock [ (.flag, 1), (.u 8, b), (.u 10, i), (ty, e.addr), (.u 8, e.len),
        (.u 32, (if e.group then 65536 else 0) + e.idx) ]))
    ∧ (s.pfxSearch (a.n 0) (a.n 1 != 0) (a.n 2) (a.n 3) = none →
      Completes (.pfxLookup p) 0x0403 p s (begun 0x0403 p s) .ok
        (emitBlock [(.flag, 0), (.u 8, 0), (.u 10, 0), (ty, 0), (.u 8, 0), (.u 32, 0)])))
  ∧ (∀ (p : Packet) (a : Args) (l got : List PfxEnt) (n : Nat) (s : State), Accepts 0x0404 p s → readParams 0x0404 p.params = a → a.bad = false →
    s.hasQuad (a.n 0) = true → 1 ≤ a.n 8 → a.n 8 ≤ 4096 → a.n 2 ≤ 1 →
    l = ((s.prefixes (a.n 0)).filter fun e => (a.f 1 || decide ((mkPfx (a.n 2 != 0) (a.n 3) (a.n 4) (a.n 5) false 0).order < e.order))
      && (!a.f 6 || e.vrf == a.n 7)) → n = (if 28 < a.n 8 then a.n 8 else min (a.n 8) 15) → got = l.take n →
    (a.n 8 ≤ 28 → ∃ ps, Completes (.pfxNext p) 0x0404 p s (begun 0x0404 p s) .ok ps ∧ leAt ps 0 2 = got.length
      ∧ leAt ps 2 1 = (if l.length ≤ n then 1 else 0) ∧ ps.drop 8 = got.flatMap PfxEnt.record)
    ∧ (28 < a.n 8 → firstFail (dmaChecks s p (a.n 9) true (32 * a.n 8)) = none → p.dmaFault = false →
      Completes (.pfxNext p) 0x0404 p s ((begun 0x0404 p s).emit (.hostWrite (dmaAddr (a.n 9)) (got.flatMap PfxEnt.record))) .ok
        (emitBlock [(.u 16, got.length), (.flag, if l.length ≤ n then 1 else 0)])))
  ∧ (∀ (p : Packet) (a : Args) (s : State), Accepts 0x0405 p s → readParams 0x0405 p.params = a → a.bad = false → s.hasQuad (a.n 0) = true →
    (∀ i e, (s.bank (a.n 0) (a.n 1)).at? (a.n 2) = some (i, e) →
      Completes (.pfxRead p) 0x0405 p s (begun 0x0405 p s) .ok (emitBlock [ (.flag, if e.valid then 1 else 0),
        (.wide 80, (pfxWords e (decide (i < a.n 2))).1), (.wide 80, (pfxWords e (decide (i < a.n 2))).2),
        (.u 17, (if e.group then 65536 else 0) + e.idx) ]))
    ∧ ((s.bank (a.n 0) (a.n 1)).at? (a.n 2) = none →
      Completes (.pfxRead p) 0x0405 p s (begun 0x0405 p s) .ok (emitBlock [(.flag, 0), (.wide 80, 0), (.wide 80, 0), (.u 17, 0)])))
  ∧ ∀ (p : Packet) (a : Args) (s : State), Inv s → Accepts 0x0406 p s → readParams 0x0406 p.params = a → a.bad = false → a.n 0 ≤ 8 → a.n 2 ≤ 8 →
    a.n 1 + (8 - a.n 0) ≤ 32 → a.n 3 + (8 - a.n 2) ≤ 64 → (∀ q, s.hasQuad q = true → s.pfxHolds q = false) →
    ∃ t, Completes (.pfxSelSet p) 0x0406 p s t .ok (emitBlock [])
      ∧ (∀ q, s.hasQuad q = true → t.fld F.fwdPfxSel_V4_VBITS q = a.n 0 ∧ t.fld F.fwdPfxSel_V4_OFF q = a.n 1 % 32
        ∧ t.fld F.fwdPfxSel_V6_VBITS q = a.n 2 ∧ t.fld F.fwdPfxSel_V6_OFF q = a.n 3 % 64)
      ∧ ∀ r i, r ≠ .fwdPfxSel ∨ s.hasQuad i = false → t.reg r i = s.reg r i

/-- For accepted packets that pass their checks, on tables in canonical form. NH_SET writes the next hop in each present named quadrant and no other one; NH_GET answers it. ECMP_SET gives the group its members, inline or from the buffer, where every named quadrant has a free range, and is TABLE_FULL for a quadrant without one; ECMP_MEMBER_SET replaces one member; ECMP_GET answers the group and up to 120 members. ECMP_HASH_SET writes seed and enables in every present quadrant. RIF_SET writes the interface, RIF_BIND the binding of a port or a VID, and RIF_GET answers the interface of quadrant 0 with its bindings, up to 200. -/
def Obligations.RoutingPacketsAnswer : Prop :=
  (∀ (p : Packet) (a : Args) (h : NextHop) (s : State), Table.wf (fun _ => ({} : NextHop)) s.tab.nh = true → Accepts 0x0407 p s →
    readParams 0x0407 p.params = a → a.bad = false → a.n 1 < 65536 → s.quadsOf (a.n 0) ≠ [] →
    (a.n 2 = 1 → a.n 3 ≤ 515 ∧ a.n 4 ≠ 0 ∧ s.hasPort (a.n 3) = true) → h = { kind := a.n 2, port := a.n 3, rif := a.n 4, dmac := a.n 5 } →
    ∃ t ps, Completes (.nhSet p) 0x0407 p s t .ok ps ∧ (∀ q, q ∈ s.quadsOf (a.n 0) → t.nhAt q (a.n 1) = h ∧ t.isLost 3 q (a.n 1) = false)
      ∧ ∀ q i, q < 4 → i < 65536 → q ∉ s.quadsOf (a.n 0) ∨ i ≠ a.n 1 → t.nhAt q i = s.nhAt q i)
  ∧ (∀ (p : Packet) (a : Args) (h : NextHop) (s : State), Accepts 0x0408 p s → readParams 0x0408 p.params = a → a.bad = false →
    s.hasQuad (a.n 0) = true → a.n 1 < 65536 → h = s.nhAt (a.n 0) (a.n 1) →
    Completes (.nhGet p) 0x0408 p s (begun 0x0408 p s) .ok (emitBlock [(.u 2, h.kind), (.u 10, h.port), (.u 12, h.rif), (.mac, h.dmac)]))
  ∧ (∀ (p : Packet) (a : Args) (ms : List Nat) (s : State), Table.wf (fun _ => ({} : EcmpGroup)) s.tab.groups = true →
    Table.wf (fun _ => 0) s.tab.members = true → Accepts 0x0409 p s → readParams 0x0409 p.params = a → a.bad = false → a.n 1 < 4096 →
    a.n 2 ≤ 1024 → s.quadsOf (a.n 0) ≠ [] → ms = ecmpMembers a p → (∀ m, m ∈ ms → m < 65536) →
    (60 < a.n 2 → firstFail (dmaChecks s p (a.n 3) false (4 * a.n 2)) = none ∧ p.dmaFault = false) →
    ((∀ q, q ∈ s.quadsOf (a.n 0) → (s.freeRange q ms.length).isSome = true) →
      ∃ t ps, Completes (.ecmpSet p) 0x0409 p s t .ok ps ∧ ∀ q, q ∈ s.quadsOf (a.n 0) → (t.groupAt q (a.n 1)).size = a.n 2
        ∧ some (t.groupAt q (a.n 1)).base = s.freeRange q ms.length
        ∧ (∀ k, k < a.n 2 → t.memberAt q ((t.groupAt q (a.n 1)).base + k) = ms.getD k 0)
        ∧ ∀ g, g < 4096 → g ≠ a.n 1 → t.groupAt q g = s.groupAt q g)
    ∧ ((∀ q, q ∈ s.quadsOf (a.n 0) → s.freeRange q ms.length = none) →
      ∃ ps, Completes (.ecmpSet p) 0x0409 p s (begun 0x0409 p s) .partial_ ps))
  ∧ (∀ (p : Packet) (a : Args) (s : State), Table.wf (fun _ => 0) s.tab.members = true → Accepts 0x040A p s →
    readParams 0x040A p.params = a → a.bad = false → s.quadsOf (a.n 0) ≠ [] → a.n 1 < 4096 → a.n 3 < 65536 →
    (∀ q, q ∈ s.quadsOf (a.n 0) → a.n 2 < (s.groupAt q (a.n 1)).size ∧ (s.groupAt q (a.n 1)).base + (s.groupAt q (a.n 1)).size ≤ 65536) →
    ∃ t ps, Completes (.ecmpMemberSet p) 0x040A p s t .ok ps ∧ t.tab.groups = s.tab.groups
      ∧ ∀ q k, q ∈ s.quadsOf (a.n 0) → k < 65536 → t.memberAt q k = if k = (s.groupAt q (a.n 1)).base + a.n 2 then a.n 3 else s.memberAt q k)
  ∧ (∀ (p : Packet) (a : Args) (g : EcmpGroup) (s : State), Accepts 0x040B p s → readParams 0x040B p.params = a → a.bad = false →
    s.hasQuad (a.n 0) = true → a.n 1 < 4096 → g = s.groupAt (a.n 0) (a.n 1) →
    Completes (.ecmpGet p) 0x040B p s (begun 0x040B p s) .ok
      (emitBlock ([(.u 16, g.base), (.u 16, g.size)] ++ (List.range (min g.size 120)).map fun k => (.u 32, s.memberAt (a.n 0) (g.base + k)))))
  ∧ (∀ (p : Packet) (a : Args) (s : State), Inv s → Accepts 0x040C p s → readParams 0x040C p.params = a → a.bad = false →
    ∃ t, Completes (.ecmpHashSet p) 0x040C p s t .ok (emitBlock [])
      ∧ (∀ q, s.hasQuad q = true → t.reg .fwdEcmpSeed q = word (a.n 0) ∧ t.reg .fwdEcmpCfg q = word (a.n 1))
      ∧ ∀ r i, (r ≠ .fwdEcmpSeed ∧ r ≠ .fwdEcmpCfg) ∨ s.hasQuad i = false → t.reg r i = s.reg r i)
  ∧ (∀ (p : Packet) (a : Args) (s : State), Table.wf (fun _ => ({} : Rif)) s.tab.rif = true → Accepts 0x040D p s →
    readParams 0x040D p.params = a → a.bad = false → a.n 0 ≠ 0 → 68 ≤ a.n 6 → a.n 6 ≤ 10222 → a.n 8 ≠ 4095 →
    ∃ t, Completes (.rifSet p) 0x040D p s t .ok (emitBlock [])
      ∧ (∀ q, s.hasQuad q = true → t.rifAt q (a.n 0) = { valid := a.f 1, vrf := a.n 2, mac := a.n 3, v4 := a.f 4, v6 := a.f 5, mtu := a.n 6
                                                         mtuTrap := a.f 7, egVid := a.n 8 })
      ∧ ∀ q i, i < 4096 → i ≠ a.n 0 → t.rifAt q i = s.rifAt q i)
  ∧ (∀ (p : Packet) (a : Args) (s : State), Table.wf (fun _ => 0) s.tab.portRif = true → Table.wf (fun _ => 0) s.tab.vidRif = true →
    Accepts 0x040E p s → readParams 0x040E p.params = a → a.bad = false →
    ((a.n 0 = 0 ∧ s.hasPort (a.n 1) = true) ∨ (a.n 0 = 1 ∧ 1 ≤ a.n 1 ∧ a.n 1 ≤ 4094)) →
    ∃ t, Completes (.rifBind p) 0x040E p s t .ok (emitBlock [])
      ∧ (a.n 0 = 0 → (∀ q x, q < 4 → x < 516 → t.portRif q x = if s.hasQuad q = true ∧ x = a.n 1 then a.n 2 else s.portRif q x)
        ∧ t.tab.vidRif = s.tab.vidRif)
      ∧ (a.n 0 = 1 → (∀ q x, q < 4 → x < 4096 → t.vidRif q x = if s.hasQuad q = true ∧ x = a.n 1 then a.n 2 else s.vidRif q x)
        ∧ t.tab.portRif = s.tab.portRif))
  ∧ ∀ (p : Packet) (a : Args) (r : Rif) (ports vids : List Nat) (s : State), Accepts 0x040F p s → readParams 0x040F p.params = a →
    a.bad = false → a.n 0 ≠ 0 → r = s.rifAt 0 (a.n 0) → ports = ((s.tab.portRif.filter fun e => e.1 < 516 && e.2 == a.n 0).map (·.1)) →
    vids = ((s.tab.vidRif.filter fun e => e.1 < 4096 && e.2 == a.n 0).map (·.1)) →
    Completes (.rifGet p) 0x040F p s (begun 0x040F p s) .ok (emitBlock ([ (.flag, if r.valid then 1 else 0), (.u 12, r.vrf), (.mac, r.mac),
      (.flag, if r.v4 then 1 else 0), (.flag, if r.v6 then 1 else 0), (.u 14, r.mtu), (.flag, if r.mtuTrap then 1 else 0), (.u 12, r.egVid),
      (.u 16, ports.length), (.u 16, vids.length) ] ++ ((ports ++ vids).take 200).map fun n => (.u 16, n)))

/-- For accepted packets that pass their checks. REPL_SET writes the set, cut to the present ports, in each present named quadrant, and no other set; REPL_GET answers it. FAB_STG_SET writes XOFF_CELLS, XON_CELLS and LOSSY_MIN of every named slice, FAB_STG_GET answers them with up to 28 lossless pairs (the model's choice, log entry 45). CB_POOL_SET writes FLOOR and CEIL of the pool in every named slice and no other register, CB_POOL_GET answers the four pools and the counts of a slice. -/
def Obligations.FabricAndPoolPacketsAnswer : Prop :=
  (∀ (p : Packet) (a : Args) (s : State), Table.wf (fun _ => 0) s.tab.repl = true → Accepts 0x0500 p s → readParams 0x0500 p.params = a →
    a.bad = false → s.quadsOf (a.n 0) ≠ [] → a.n 1 < 16384 →
    ∃ t ps, Completes (.replSet p) 0x0500 p s t .ok ps ∧ ∀ q i, q < 4 → i < 16384 →
      Table.get (fun _ => 0) t.tab.repl (q * 16384 + i) = if q ∈ s.quadsOf (a.n 0) ∧ i = a.n 1 then s.presentMask (a.n 2)
        else Table.get (fun _ => 0) s.tab.repl (q * 16384 + i))
  ∧ (∀ (p : Packet) (a : Args) (s : State), Accepts 0x0501 p s → readParams 0x0501 p.params = a → a.bad = false → s.hasQuad (a.n 0) = true →
    a.n 1 < 16384 → Completes (.replGet p) 0x0501 p s (begun 0x0501 p s) .ok
      (emitBlock [(.wide 516, Table.get (fun _ => 0) s.tab.repl (a.n 0 * 16384 + a.n 1))]))
  ∧ (∀ (p : Packet) (a : Args) (new : State) (s : State), Inv s → Accepts 0x0502 p s → readParams 0x0502 p.params = a → a.bad = false →
    (∀ sl, sl ∈ slicesOf (a.n 0) → s.hasSlice sl = true) → a.n 2 < a.n 1 → a.n 1 ≤ 4096 → a.n 3 ≤ 28672 →
    new = (slicesOf (a.n 0)).foldl (fun s sl => s.recompute sl) ((slicesOf (a.n 0)).foldl (fun s sl =>
      (s.setReg .fabStgCfg sl (word (a.n 2 * 2 ^ 16 + a.n 1))).setReg .fabStgLossy sl (word (a.n 3))) (begun 0x0502 p s)) →
    (∀ sl, sl ∈ slicesOf (a.n 0) → firstFail (limitChecks (begun 0x0502 p s) new (sl / 8)) = none) →
    ∃ t, Completes (.fabStgSet p) 0x0502 p s t .ok (emitBlock []) ∧ ∀ sl, sl < 32 →
      (sl ∈ slicesOf (a.n 0) → t.fld F.fabStgCfg_XOFF_CELLS sl = a.n 1 ∧ t.fld F.fabStgCfg_XON_CELLS sl = a.n 2
        ∧ t.fld F.fabStgLossy_LOSSY_MIN sl = a.n 3)
      ∧ (sl ∉ slicesOf (a.n 0) → t.reg .fabStgCfg sl = s.reg .fabStgCfg sl ∧ t.reg .fabStgLossy sl = s.reg .fabStgLossy sl))
  ∧ (∀ (p : Packet) (a : Args) (l : List (Nat × (Nat × Nat))) (s : State), Accepts 0x0503 p s → readParams 0x0503 p.params = a → a.bad = false →
    s.hasSlice (a.n 0) = true → l = (s.path.reserves.filter fun e => Config.sliceOf (e.1 / 8) = a.n 0).take 28 →
    ∃ ps, Completes (.fabStgGet p) 0x0503 p s (begun 0x0503 p s) .ok ps ∧ leAt ps 0 2 = s.fld F.fabStgCfg_XOFF_CELLS (a.n 0)
      ∧ leAt ps 2 2 = s.fld F.fabStgCfg_XON_CELLS (a.n 0) ∧ leAt ps 4 2 = s.fld F.fabStgLossy_LOSSY_MIN (a.n 0) ∧ leAt ps 6 2 = l.length
      ∧ ∀ i e, l[i]? = some e → leAt ps (8 + 16 * i) 4 = e.2.2 % 2 ^ 32 ∧ leAt ps (12 + 16 * i) 2 = e.1 / 8 % 2 ^ 16
        ∧ leAt ps (14 + 16 * i) 2 = e.1 % 8 ∧ leAt ps (16 + 16 * i) 4 = e.2.1 % 2 ^ 32)
  ∧ (∀ (p : Packet) (a : Args) (s : State), Inv s → Accepts 0x0504 p s → readParams 0x0504 p.params = a → a.bad = false → a.n 1 ≤ 3 →
    a.n 2 ≤ a.n 3 → a.n 3 ≤ 65536 → (∀ sl, sl ∈ slicesOf (a.n 0) → s.hasSlice sl = true
      ∧ s.floorsWith sl (a.n 1) (a.n 2) ≤ 65536 - (s.pool sl).quar - (s.pool sl).retired) →
    ∃ t, Completes (.cbPoolSet p) 0x0504 p s t .ok (emitBlock [])
      ∧ (∀ sl, sl ∈ slicesOf (a.n 0) → t.fld F.cbPoolFloor_COUNT (sl * 4 + a.n 1) = a.n 2 ∧ t.fld F.cbPoolCeil_COUNT (sl * 4 + a.n 1) = a.n 3)
      ∧ ∀ r i, (r ≠ .cbPoolFloor ∧ r ≠ .cbPoolCeil) ∨ i % 4 ≠ a.n 1 ∨ i / 4 ∉ slicesOf (a.n 0) → t.reg r i = s.reg r i)
  ∧ ∀ (p : Packet) (a : Args) (s : State), Accepts 0x0505 p s → readParams 0x0505 p.params = a → a.bad = false → s.hasSlice (a.n 0) = true →
    ∃ ps, Completes (.cbPoolGet p) 0x0505 p s (begun 0x0505 p s) .ok ps ∧ ps.length = 68
      ∧ (∀ i, i < 4 → leAt ps (12 * i) 4 = s.floor (a.n 0) i ∧ leAt ps (12 * i + 4) 4 = s.ceil (a.n 0) i
        ∧ leAt ps (12 * i + 8) 4 = (s.pool (a.n 0)).heldOf i % 2 ^ 32)
      ∧ leAt ps 48 4 = (s.pool (a.n 0)).free % 2 ^ 32 ∧ leAt ps 52 4 = (s.pool (a.n 0)).resv % 2 ^ 32
      ∧ leAt ps 56 4 = (s.pool (a.n 0)).freeing % 2 ^ 32 ∧ leAt ps 60 4 = (s.pool (a.n 0)).quar % 2 ^ 32
      ∧ leAt ps 64 4 = (s.pool (a.n 0)).retired % 2 ^ 32

/-- For accepted packets that pass their checks, on tables in canonical form. CB_QUAR_LIST answers the records of the slice's quarantined cells from an index upward, inline or in the buffer. CB_QUAR_RELEASE of one cell makes it FREE, on the list, and takes it off the count; a debit not yet made leaves HELD of the pool named. With ALL it releases the debited cells and answers the number of the others, which stay. CB_RETIRE retires a FREE or quarantined cell at once, marks an ALLOC one, and records it in the keep store. CB_RECLAIM puts the queue behind those that wait for a sweep. CB_SCRUB_SET writes the scrub's enable and divider in every named slice and no other register. -/
def Obligations.QuarantinePacketsAnswer : Prop :=
  (∀ (p : Packet) (a : Args) (l : List (Nat × Desc)) (s : State), Accepts 0x0506 p s → readParams 0x0506 p.params = a → a.bad = false →
    s.hasSlice (a.n 0) = true → 1 ≤ a.n 2 → a.n 2 ≤ 4096 → l = s.quarCells (a.n 0) (a.n 1) →
    (a.n 2 ≤ 28 → Completes (.cbQuarList p) 0x0506 p s (begun 0x0506 p s) .ok
      (emitBlock [(.u 16, (l.take (a.n 2)).length), (.flag, if l.length ≤ a.n 2 then 1 else 0)] ++ (l.take (a.n 2)).flatMap quarRecord))
    ∧ (28 < a.n 2 → firstFail (dmaChecks s p (a.n 3) true (16 * a.n 2)) = none → p.dmaFault = false →
      Completes (.cbQuarList p) 0x0506 p s ((begun 0x0506 p s).emit (.hostWrite (dmaAddr (a.n 3)) ((l.take (a.n 2)).flatMap quarRecord))) .ok
        (emitBlock [(.u 16, (l.take (a.n 2)).length), (.flag, if l.length ≤ a.n 2 then 1 else 0)])))
  ∧ (∀ (p : Packet) (a : Args) (s : State), Table.wf (fun _ => ({} : Desc)) s.path.desc = true → Table.wf (fun _ => ({} : Pool)) s.path.pools = true →
    Accepts 0x0507 p s → readParams 0x0507 p.params = a → a.bad = false → s.hasSlice (a.n 0) = true → a.n 3 ≤ 3 →
    (∀ d, d = s.desc (a.n 0) (a.n 1) → a.f 2 = false → d.state = 2 → d.retPend = false → (d.debited = true ∨ a.n 3 ≠ 0) →
      ∃ t, Completes (.cbQuarRelease p) 0x0507 p s t .ok (emitBlock [(.u 32, 0)]) ∧ (t.desc (a.n 0) (a.n 1)).state = 0
        ∧ (t.desc (a.n 0) (a.n 1)).onlist = true ∧ (t.pool (a.n 0)).quar = (s.pool (a.n 0)).quar - 1
        ∧ (t.pool (a.n 0)).free = (s.pool (a.n 0)).free + 1
        ∧ (t.pool (a.n 0)).held = (if d.debited then (s.pool (a.n 0)).held else listModify (· - 1) (s.pool (a.n 0)).held (a.n 3)))
    ∧ (a.f 2 = true → ∃ t, Completes (.cbQuarRelease p) 0x0507 p s t .ok
        (emitBlock [(.u 32, ((s.quarCells (a.n 0) 0).filter fun e => !e.2.debited).length)])
      ∧ ∀ c d, (c, d) ∈ s.quarCells (a.n 0) 0 → (d.debited = true → d.retPend = false → (t.desc (a.n 0) c).state = 0)
        ∧ (d.debited = false → t.desc (a.n 0) c = d)))
  ∧ (∀ (p : Packet) (a : Args) (d : Desc) (s : State), Table.wf (fun _ => ({} : Desc)) s.path.desc = true → Accepts 0x0508 p s →
    readParams 0x0508 p.params = a → a.bad = false → s.hasSlice (a.n 0) = true → d = s.desc (a.n 0) (a.n 1) → d.state ≠ 3 →
    (s.pool (a.n 0)).retired < 256 →
    ∃ t, Completes (.cbRetire p) 0x0508 p s t .ok (emitBlock []) ∧ t.ks.retiredCells.contains (cellKey (a.n 0) (a.n 1)) = true
      ∧ (d.state = 0 ∨ d.state = 2 → (t.desc (a.n 0) (a.n 1)).state = 3)
      ∧ (d.state = 1 → (t.desc (a.n 0) (a.n 1)).retPend = true ∧ (t.desc (a.n 0) (a.n 1)).state = 1)
      ∧ (∀ c, c < 65536 → c ≠ a.n 1 → t.desc (a.n 0) c = s.desc (a.n 0) c) ∧ t.regs = s.regs)
  ∧ (∀ (p : Packet) (a : Args) (r : Reclaim) (s : State), Table.wf (fun _ => ({} : Reclaim)) s.path.reclaim = true → Accepts 0x0509 p s →
    readParams 0x0509 p.params = a → a.bad = false → s.hasSlice (a.n 0) = true → a.n 1 < 8256 → Config.sliceOf (a.n 1 / 16) = a.n 0 →
    r = Table.get (fun _ => {}) s.path.reclaim (a.n 0) → r.waiting.length < 16 →
    ∃ t, Completes (.cbReclaim p) 0x0509 p s t .ok (emitBlock [])
      ∧ Table.get (fun _ => {}) t.path.reclaim (a.n 0) = { r with waiting := r.waiting ++ [a.n 1] } ∧ t.path.desc = s.path.desc ∧ t.regs = s.regs)
  ∧ ∀ (p : Packet) (a : Args) (s : State), Inv s → Accepts 0x050A p s → readParams 0x050A p.params = a → a.bad = false → a.n 2 ≤ 7 →
    (∀ sl, sl ∈ slicesOf (a.n 0) → s.hasSlice sl = true) →
    ∃ t, Completes (.cbScrubSet p) 0x050A p s t .ok (emitBlock [])
      ∧ (∀ sl, sl ∈ slicesOf (a.n 0) → t.flag F.cbCtl_SCRUB_EN sl = a.f 1 ∧ t.fld F.cbCtl_SCRUB_DIV sl = a.n 2)
      ∧ ∀ r i, r ≠ .cbCtl ∨ i ∉ slicesOf (a.n 0) → t.reg r i = s.reg r i

/-- For accepted packets that pass their checks. DT_QUEUE_SET writes the queue's RSV_PAGES, MAX_PAGES, RB_LOW and RB_HIGH and no other register; DT_QUEUE_GET answers them with the queue's state, pages and frames. DT_STACK_RETIRE with MODE 0 sets the stack draining, with MODE 1 retires it at once. DT_PAGE_RETIRE takes a free page off its stack's list, or marks a used one, and records it in the keep store. DT_PAGE_RELEASE frees a held page. DT_SCRUB_SET writes enable and divider in every named quadrant; DT_STATUS_GET answers both stacks' states and page counts. -/
def Obligations.DeepTierPacketsAnswer : Prop :=
  (∀ (p : Packet) (a : Args) (k : Nat) (s : State), Inv s → Accepts 0x0600 p s → readParams 0x0600 p.params = a → a.bad = false →
    s.hasPort (a.n 0 / 16) = true → s.hidden (a.n 0 / 16) = false → a.n 1 ≤ a.n 2 → a.n 2 ≤ 8372224 → a.n 3 ≠ 0 → a.n 3 < a.n 4 →
    a.n 4 ≤ 4095 → s.deepHeadroom (a.n 0) ≤ a.n 1 → k = Config.quadOf (a.n 0 / 16) * 8256 + a.n 0 →
    (a.n 1 ≠ 0 → s.lostStack (Config.quadOf (a.n 0 / 16)) = false) →
    (((s.setReg .dtQcfgRsv k (word (a.n 1))).setReg .dtQcfgMax k (word (a.n 2))).setReg .dtQcfgRb k (word (a.n 4 * 2 ^ 16 + a.n 3))).reserveExcess
      (Config.quadOf (a.n 0 / 16)) = false →
    ∃ t, Completes (.dtQueueSet p) 0x0600 p s t .ok (emitBlock []) ∧ t.rsvPages (a.n 0) = a.n 1 ∧ t.maxPages (a.n 0) = a.n 2
      ∧ t.fld F.dtQcfgRb_RB_LOW k = a.n 3 ∧ t.fld F.dtQcfgRb_RB_HIGH k = a.n 4
      ∧ ∀ r i, (r ≠ .dtQcfgRsv ∧ r ≠ .dtQcfgMax ∧ r ≠ .dtQcfgRb) ∨ i ≠ k → t.reg r i = s.reg r i)
  ∧ (∀ (p : Packet) (a : Args) (k : Nat) (s : State), Accepts 0x0601 p s → readParams 0x0601 p.params = a → a.bad = false →
    s.hasPort (a.n 0 / 16) = true → k = Config.quadOf (a.n 0 / 16) * 8256 + a.n 0 →
    Completes (.dtQueueGet p) 0x0601 p s (begun 0x0601 p s) .ok (emitBlock [ (.u 32, s.rsvPages (a.n 0)), (.u 32, s.maxPages (a.n 0)),
      (.u 16, s.fld F.dtQcfgRb_RB_LOW k), (.u 16, s.fld F.dtQcfgRb_RB_HIGH k), (.flag, if (s.hank? (a.n 0)).isSome then 1 else 0),
      (.u 32, s.pagesOf (a.n 0)), (.u 32, ((s.hank? (a.n 0)).map fun h => h.recs.length).getD 0) ]))
  ∧ (∀ (p : Packet) (a : Args) (s : State), Inv s → Accepts 0x0602 p s → readParams 0x0602 p.params = a → a.bad = false →
    s.hasStack (a.n 0) = true → s.stackState (a.n 0) = 0 → s.stackState (2 * (a.n 0 / 2)) ≠ 1 → s.stackState (2 * (a.n 0 / 2) + 1) ≠ 1 →
    ∃ t, Completes (.dtStackRetire p) 0x0602 p s t .ok (emitBlock [])
      ∧ (a.n 1 = 0 → t.stackState (a.n 0) = 1 ∧ t.path = s.path)
      ∧ (a.n 1 = 1 → t.stackState (a.n 0) = 2 ∧ t.flag F.dtStat_RETIRE_DONE (a.n 0 / 2) = true ∧ t.ks.retiredStacks.contains (a.n 0) = true))
  ∧ (∀ (p : Packet) (a : Args) (k : Stack) (s : State), Table.wf (fun _ => ({} : Stack)) s.path.hbm = true → Accepts 0x0603 p s →
    readParams 0x0603 p.params = a → a.bad = false → s.pageOk (a.n 0) = true → k = s.stack (a.n 0 / 2 ^ 22) →
    k.retired.length + k.pending.length < 65536 → k.retired.contains (a.n 0 % 2 ^ 22) = false → k.pending.contains (a.n 0 % 2 ^ 22) = false →
    ∃ t, Completes (.dtPageRetire p) 0x0603 p s t .ok (emitBlock []) ∧ t.ks.retiredPages.contains (a.n 0) = true ∧ t.regs = s.regs
      ∧ (s.pageUsed (a.n 0) = true → t.stack (a.n 0 / 2 ^ 22) = { k with pending := k.pending ++ [a.n 0 % 2 ^ 22] })
      ∧ (s.pageUsed (a.n 0) = false → t.stack (a.n 0 / 2 ^ 22) =
        { k with retired := k.retired ++ [a.n 0 % 2 ^ 22], back := k.back.erase (a.n 0 % 2 ^ 22) }))
  ∧ (∀ (p : Packet) (a : Args) (k : Stack) (s : State), Table.wf (fun _ => ({} : Stack)) s.path.hbm = true → Accepts 0x0604 p s →
    readParams 0x0604 p.params = a → a.bad = false → (s.path.heldPages.any fun e => e.1 == a.n 0) = true → k = s.stack (a.n 0 / 2 ^ 22) →
    ∃ t, Completes (.dtPageRelease p) 0x0604 p s t .ok (emitBlock []) ∧ (t.path.heldPages.any fun e => e.1 == a.n 0) = false
      ∧ (s.stackState (a.n 0 / 2 ^ 22) ≠ 2 → k.pending.contains (a.n 0 % 2 ^ 22) = false →
        t.stack (a.n 0 / 2 ^ 22) = { k with used := k.used - 1, back := k.back ++ [a.n 0 % 2 ^ 22] }) ∧ t.regs = s.regs)
  ∧ (∀ (p : Packet) (a : Args) (s : State), Inv s → Accepts 0x0605 p s → readParams 0x0605 p.params = a → a.bad = false → 2 ≤ a.n 2 → a.n 2 ≤ 7 →
    (∀ q, q < 4 → (a.n 0).testBit q = true → s.hasQuad q = true) →
    ∃ t, Completes (.dtScrubSet p) 0x0605 p s t .ok (emitBlock [])
      ∧ (∀ q, q < 4 → (a.n 0).testBit q = true → t.flag F.dtCtl_SCRUB_EN q = a.f 1 ∧ t.fld F.dtCtl_SCRUB_DIV q = a.n 2
        ∧ t.fld F.dtCtl_WB_LL q = s.fld F.dtCtl_WB_LL q ∧ t.fld F.dtCtl_FLUSH_SLOTS q = s.fld F.dtCtl_FLUSH_SLOTS q)
      ∧ ∀ r i, r ≠ .dtCtl ∨ (a.n 0).testBit i = false → t.reg r i = s.reg r i)
  ∧ ∀ (p : Packet) (a : Args) (s : State), Accepts 0x0606 p s → readParams 0x0606 p.params = a → a.bad = false → s.hasQuad (a.n 0) = true →
    ∃ ps, Completes (.dtStatusGet p) 0x0606 p s (begun 0x0606 p s) .ok ps
      ∧ ∀ j, j < 2 → leAt ps (12 * j) 1 = s.stackState (2 * a.n 0 + j) ∧ leAt ps (12 * j + 4) 4 = (s.stack (2 * a.n 0 + j)).free % 2 ^ 32
        ∧ leAt ps (12 * j + 8) 4 = ((s.stack (2 * a.n 0 + j)).retired.length + (s.stack (2 * a.n 0 + j)).pending.length) % 2 ^ 32

/-- For accepted packets that pass their checks. FC_PORT_SET takes the link parameters and QUANTA of the port; FC_PORT_GET answers them with FC_STAT. QM_QUEUE_SET writes LIMIT, YEL and RED of the queue and its two bits of QM_QPOOL, and no other register; QM_QUEUE_GET answers them with CQ and whether the queue is lossless. QM_PORT_SET writes HOLD. QM_PORT_FLUSH of a configured, visible or internal port flushes it and answers the number of frames; of another number it changes nothing and answers 0. -/
def Obligations.QueuePacketsAnswer : Prop :=
  (∀ (p : Packet) (a : Args) (l : LinkPar) (new : State) (s : State), Inv s → Table.wf (fun _ => ({} : LinkPar)) s.path.linkPar = true → Accepts 0x0700 p s →
    readParams 0x0700 p.params = a → a.bad = false → a.n 0 < 512 → s.hasPort (a.n 0) = true → s.hidden (a.n 0) = false → a.n 1 ≤ 1000000 →
    a.n 2 ≤ 100000 → 64 ≤ a.n 3 → a.n 3 ≤ 10240 → 256 ≤ a.n 4 →
    l = { linkNs := a.n 1, respNs := a.n 2, peerMfs := a.n 3 } →
    new = ((begun 0x0700 p s).inPath fun t => { t with linkPar := Table.set (fun _ => {}) t.linkPar (a.n 0) l }).recompute (Config.sliceOf (a.n 0)) →
    firstFail (limitChecks (begun 0x0700 p s) new (Config.quadOf (a.n 0))) = none →
    ∃ t, Completes (.fcPortSet p) 0x0700 p s t .ok (emitBlock []) ∧ t.fld F.fcCfg_QUANTA (a.n 0) = a.n 4
      ∧ t.linkPar (a.n 0) = l
      ∧ (∀ x, x ≠ a.n 0 → t.linkPar x = s.linkPar x) ∧ t.fld F.fcCfg_LL_MASK (a.n 0) = s.fld F.fcCfg_LL_MASK (a.n 0))
  ∧ (∀ (p : Packet) (a : Args) (s : State), Accepts 0x0701 p s → readParams 0x0701 p.params = a → a.bad = false → s.hasPort (a.n 0) = true →
    ∃ ps, Completes (.fcPortGet p) 0x0701 p s (begun 0x0701 p s) .ok ps ∧ leAt ps 0 4 = (s.linkPar (a.n 0)).linkNs % 2 ^ 32
      ∧ leAt ps 4 4 = (s.linkPar (a.n 0)).respNs % 2 ^ 32 ∧ leAt ps 8 2 = (s.linkPar (a.n 0)).peerMfs % 2 ^ 16
      ∧ leAt ps 10 2 = s.fld F.fcCfg_QUANTA (a.n 0) ∧ leAt ps 12 4 = (s.view .fcStat (a.n 0)).toNat)
  ∧ (∀ (p : Packet) (a : Args) (s : State), Inv s → Accepts 0x0702 p s → readParams 0x0702 p.params = a → a.bad = false →
    s.hasPort (a.n 0 / 16) = true → s.hidden (a.n 0 / 16) = false → a.n 1 ≤ 65536 → a.n 2 ≤ 8 → a.n 3 ≤ a.n 2 → 1 ≤ a.n 4 → a.n 4 ≤ 3 →
    ∃ t, Completes (.qmQueueSet p) 0x0702 p s t .ok (emitBlock []) ∧ t.fld F.qmQlim_LIMIT (a.n 0) = a.n 1 ∧ t.fld F.qmQlim_YEL (a.n 0) = a.n 2
      ∧ t.fld F.qmQlim_RED (a.n 0) = a.n 3
      ∧ (∀ k, k < 16 → (t.reg .qmQpool (a.n 0 / 16)).toNat / 4 ^ k % 4 = if k = a.n 0 % 16 then a.n 4
        else (s.reg .qmQpool (a.n 0 / 16)).toNat / 4 ^ k % 4)
      ∧ ∀ r i, ¬ (r = .qmQlim ∧ i = a.n 0) → ¬ (r = .qmQpool ∧ i = a.n 0 / 16) → t.reg r i = s.reg r i)
  ∧ (∀ (p : Packet) (a : Args) (s : State), Accepts 0x0703 p s → readParams 0x0703 p.params = a → a.bad = false → s.hasPort (a.n 0 / 16) = true →
    Completes (.qmQueueGet p) 0x0703 p s (begun 0x0703 p s) .ok (emitBlock [ (.u 32, s.fld F.qmQlim_LIMIT (a.n 0)),
      (.u 8, s.fld F.qmQlim_YEL (a.n 0)), (.u 8, s.fld F.qmQlim_RED (a.n 0)), (.u 8, (s.reg .qmQpool (a.n 0 / 16)).toNat / 4 ^ (a.n 0 % 16) % 4),
      (.u 32, s.cq (a.n 0)), (.flag, if s.lossless (a.n 0) then 1 else 0) ]))
  ∧ (∀ (p : Packet) (a : Args) (s : State), Inv s → Accepts 0x0704 p s → readParams 0x0704 p.params = a → a.bad = false → a.n 0 < 512 →
    s.hasPort (a.n 0) = true → s.hidden (a.n 0) = false → a.n 1 ≠ 3 →
    ∃ t, Completes (.qmPortSet p) 0x0704 p s t .ok (emitBlock []) ∧ t.fld F.qmPortCfg_HOLD (a.n 0) = a.n 1
      ∧ ∀ r i, ¬ (r = .qmPortCfg ∧ i = a.n 0) → t.reg r i = s.reg r i)
  ∧ ∀ (p : Packet) (a : Args) (s : State), Inv s → Accepts 0x0705 p s → readParams 0x0705 p.params = a → a.bad = false → s.hasPort (a.n 0) = true →
    ((512 ≤ a.n 0 ∨ (s.configured (a.n 0) = true ∧ s.hidden (a.n 0) = false)) → ∃ t, Completes (.qmPortFlush p) 0x0705 p s t .ok
      (emitBlock [(.u 32, ((begun 0x0705 p s).flush (a.n 0)).2)]) ∧ t = ((begun 0x0705 p s).flush (a.n 0)).1
      ∧ t.flag F.qmStat_FLUSH (Config.sliceOf (a.n 0)) = true)
    ∧ (a.n 0 < 512 → s.configured (a.n 0) = false ∨ s.hidden (a.n 0) = true →
      Completes (.qmPortFlush p) 0x0705 p s (begun 0x0705 p s) .ok (emitBlock [(.u 32, 0)]))

/-- For accepted packets that pass their checks. SCH_PORT_SET writes SP_MASK, LEN_ADJ, the eight quanta and the port shaper; SCH_QUEUE_SET the queue's shaper; each leaves the other shapers. SCH_GET answers the configuration, the quanta, every shaper and the deficits and pointer. GCL_SET writes the admin bank, MAXWIN among it, answers the first cycle start of the list that is late enough, and arms the swap, or holds it while that time is 2^30 ns or more ahead. GCL_CANCEL removes a held swap and disarms an armed one that is not due. GCL_GET answers the bank's CYCLE, MAXWIN and up to 52 entries (the model's choice, log entry 46). -/
def Obligations.SchedulerPacketsAnswer : Prop :=
  (∀ (p : Packet) (a : Args) (s : State), Inv s → Accepts 0x0706 p s → readParams 0x0706 p.params = a → a.bad = false →
    s.hasPort (a.n 0) = true → s.hidden (a.n 0) = false →
    (∀ c, c < 8 → s.quantBound (a.n 0) (a.i 2 7) ≤ a.n (3 + c) ∧ a.n (3 + c) ≤ 1048575) → a.n 11 ≤ 2 ^ 24 → a.n 12 < 2 ^ 24 →
    ∃ t, Completes (.schPortSet p) 0x0706 p s t .ok (emitBlock []) ∧ t.fld F.schPortCfg_SP_MASK (a.n 0) = a.n 1
      ∧ t.fld F.schPortCfg_LEN_ADJ (a.n 0) = ofSigned 7 (a.i 2 7)
      ∧ (∀ c, c < 8 → t.fld F.schClsQuant_QUANTUM (8 * a.n 0 + c) = a.n (3 + c)) ∧ t.fld F.schPshpRate_RATE (a.n 0) = a.n 11
      ∧ t.fld F.schPshpBurst_BURST (a.n 0) = a.n 12
      ∧ ∀ r i, r ∉ [.schPortCfg, .schClsQuant, .schPshpRate, .schPshpBurst] → t.reg r i = s.reg r i)
  ∧ (∀ (p : Packet) (a : Args) (s : State), Inv s → Accepts 0x0707 p s → readParams 0x0707 p.params = a → a.bad = false →
    s.hasPort (a.n 0 / 16) = true → s.hidden (a.n 0 / 16) = false → a.n 1 ≤ 2 ^ 24 → a.n 2 < 2 ^ 24 →
    ∃ t, Completes (.schQueueSet p) 0x0707 p s t .ok (emitBlock []) ∧ t.fld F.schQshpRate_RATE (a.n 0) = a.n 1
      ∧ t.fld F.schQshpBurst_BURST (a.n 0) = a.n 2
      ∧ ∀ r i, ¬ ((r = .schQshpRate ∨ r = .schQshpBurst) ∧ i = a.n 0) → t.reg r i = s.reg r i)
  ∧ (∀ (p : Packet) (a : Args) (s : State), Accepts 0x0708 p s → readParams 0x0708 p.params = a → a.bad = false → s.hasPort (a.n 0) = true →
    ∃ ps, Completes (.schGet p) 0x0708 p s (begun 0x0708 p s) .ok ps ∧ ps.length = 300
      ∧ leAt ps 0 4 = (s.view .schPortCfg (a.n 0)).toNat ∧ leAt ps 4 4 = (s.view .schPshpRate (a.n 0)).toNat
      ∧ leAt ps 8 4 = (s.view .schPshpBurst (a.n 0)).toNat ∧ leAt ps 12 4 = (s.view .schPshpCred (a.n 0)).toNat
      ∧ (∀ c, c < 8 → leAt ps (28 + 4 * c) 4 = (s.view .schClsQuant (8 * a.n 0 + c)).toNat)
      ∧ (∀ i, i < 16 → leAt ps (60 + 12 * i) 4 = (s.view .schQshpRate (16 * a.n 0 + i)).toNat
        ∧ leAt ps (64 + 12 * i) 4 = (s.view .schQshpBurst (16 * a.n 0 + i)).toNat
        ∧ leAt ps (68 + 12 * i) 4 = (s.view .schQshpCred (16 * a.n 0 + i)).toNat)
      ∧ (∀ c, c < 8 → leAt ps (264 + 4 * c) 4 = (s.sched (a.n 0)).dc.getD c 0 % 2 ^ 32) ∧ leAt ps 296 1 = (s.sched (a.n 0)).ptr % 256)
  ∧ (∀ (p : Packet) (a : Args) (es : List (Nat × Nat)) (time : Nat) (s : State), Inv s → Accepts 0x0709 p s → readParams 0x0709 p.params = a →
    a.bad = false → a.n 0 < 512 → s.hasPort (a.n 0) = true → s.hidden (a.n 0) = false → 1 ≤ a.n 2 → a.n 2 ≤ 1024 → 1000 ≤ a.n 1 →
    a.n 1 ≤ 1000000000 → es = (gclEntries a p).map (fun e => (e.1, e.2.1)) →
    (∀ e, e ∈ gclEntries a p → 8 ≤ e.1 ∧ e.1 < 2 ^ 30 ∧ e.2.1 < 256 ∧ e.2.2 = false) → es.foldl (fun n e => n + e.1) 0 ≤ a.n 1 →
    (56 < a.n 2 → firstFail (dmaChecks s p (a.n 5) false (8 * a.n 2)) = none ∧ p.dmaFault = false) →
    time = cycleAtOrAfter (unpackNet (a.n 3)) (a.n 1) (max (unpackNet (a.n 4)) s.swapFloor) → time ≤ s.netNs + 86400 * 1000000000 →
    s.flag F.gclSwapCtl_ARM (a.n 0) = false →
    ∃ t, Completes (.gclSet p) 0x0709 p s t .ok (emitBlock [(.wide 80, packNet time)]) ∧ t.fld F.gclAdminCycle_CYCLE (a.n 0) = a.n 1
      ∧ t.fld F.gclSwapCtl_ADMIN_LEN (a.n 0) = a.n 2
      ∧ (∀ k e, es[k]? = some e → t.gclDur (a.n 0) k true = e.1 ∧ t.gclVec (a.n 0) k true = e.2)
      ∧ (∀ c, c < 8 → t.reg .gclAdminMaxwin (a.n 0 * 8 + c) = word (maxWindow (a.n 1) es c))
      ∧ (s.netNs + 2 ^ 30 ≤ time → t.flag F.gclSwapCtl_ARM (a.n 0) = false
        ∧ ∃ g, g ∈ t.path.gclHeld ∧ g.port = a.n 0 ∧ g.time = time ∧ g.base = unpackNet (a.n 3) ∧ g.entries = es)
      ∧ (time < s.netNs + 2 ^ 30 → t.flag F.gclSwapCtl_ARM (a.n 0) = true ∧ t.flag F.gclStat_ARMED (a.n 0) = true
        ∧ (t.reg .gclSwapTgt (a.n 0)).toNat = (s.whorlNs + time + 2 ^ 32 - s.netNs % 2 ^ 32) % 2 ^ 32))
  ∧ (∀ (p : Packet) (a : Args) (s : State), Inv s → Accepts 0x070A p s → readParams 0x070A p.params = a → a.bad = false → s.hasPort (a.n 0) = true →
    ((s.path.gclHeld.any fun (g : GclHeld) => g.port == a.n 0) = true
      ∨ (s.flag F.gclSwapCtl_ARM (a.n 0) = true ∧ s.dueAt (s.fld F.gclSwapTgt_TGT (a.n 0)) = false)) →
    ∃ t, Completes (.gclCancel p) 0x070A p s t .ok (emitBlock []) ∧ (t.path.gclHeld.any fun (g : GclHeld) => g.port == a.n 0) = false
      ∧ (s.dueAt (s.fld F.gclSwapTgt_TGT (a.n 0)) = false → t.flag F.gclSwapCtl_ARM (a.n 0) = false)
      ∧ t.fld F.gclSwapCtl_ADMIN_LEN (a.n 0) = s.fld F.gclSwapCtl_ADMIN_LEN (a.n 0)
      ∧ ∀ r i, r ≠ .gclSwapCtl → r ≠ .gclStat → t.reg r i = s.reg r i)
  ∧ ∀ (p : Packet) (a : Args) (s : State), Accepts 0x070B p s → readParams 0x070B p.params = a → a.bad = false → s.hasPort (a.n 0) = true →
    ∃ ps, Completes (.gclGet p) 0x070B p s (begun 0x070B p s) .ok ps ∧ leAt ps 0 4 = s.gclCycle (a.n 0) (a.f 1)
      ∧ (∀ c, c < 8 → leAt ps (20 + 4 * c) 4 = if a.f 1 then s.fld F.gclAdminMaxwin_MAXWIN (a.n 0 * 8 + c) else s.fld F.gclOperMaxwin_MAXWIN (a.n 0 * 8 + c))
      ∧ leAt ps 68 4 = (s.reg .gclStat (a.n 0)).toNat ∧ leAt ps 72 2 = s.fld F.gclOperPos_ENTRY (a.n 0)
      ∧ leAt ps 74 2 = min 52 (s.gclLen (a.n 0) (a.f 1))
      ∧ ∀ e, e < min 52 (s.gclLen (a.n 0) (a.f 1)) → leAt ps (76 + 8 * e) 4 = s.gclDur (a.n 0) e (a.f 1)
        ∧ leAt ps (80 + 8 * e) 4 = s.gclVec (a.n 0) e (a.f 1)

/-- For accepted packets that pass their checks. CEMOND_SET puts a valid record into the working table, and on a lane that runs at its rate writes its settings into the shadow and commits them; on another lane no register changes. CEMOND_GET answers the record, or NOT_FOUND. CEMOND_LOAD takes the valid records of a table for present lanes and answers how many it took and refused. EYE_SCAN_START begins a scan in the next epoch, EYE_SCAN_GET writes the points measured into the buffer and answers their number, EYE_SCAN_STOP ends the scan and keeps its points. LANE_TEST_SET writes generator, checker and loopback of a lane that does not run, and no other register. LANE_STATUS_GET answers the lane's registers and working records. -/
def Obligations.LanePacketsAnswer : Prop :=
  (∀ (p : Packet) (a : Args) (r : List Byte) (s : State), Inv s → Accepts 0x0800 p s → readParams 0x0800 p.params = a → a.bad = false →
    s.hasLane (a.n 0) = true → r = leBytes 32 (a.n 1) → leAt r 0 2 = a.n 0 → recordOk r = true →
    ∃ t, Completes (.cemondSet p) 0x0800 p s t .ok (emitBlock []) ∧ t.record? (a.n 0) (leAt r 2 1) = some r
      ∧ (∀ l k, k < 4 → l ≠ a.n 0 ∨ k ≠ leAt r 2 1 → t.record? l k = s.record? l k)
      ∧ (s.laneOn (a.n 0) = true → s.fld F.lnRate_RATE (a.n 0) = leAt r 2 1 →
        t.laneShadow (a.n 0) = recordWords r ∧ t.flag F.lnCemCommit_COMMIT (a.n 0) = true)
      ∧ (s.laneOn (a.n 0) = false ∨ s.fld F.lnRate_RATE (a.n 0) ≠ leAt r 2 1 → t.regs = s.regs))
  ∧ (∀ (p : Packet) (a : Args) (s : State), Accepts 0x0801 p s → readParams 0x0801 p.params = a → a.bad = false → s.hasLane (a.n 0) = true →
    a.n 1 ≤ 3 →
    (∀ r, s.record? (a.n 0) (a.n 1) = some r → Completes (.cemondGet p) 0x0801 p s (begun 0x0801 p s) .ok (emitBlock [(.wide 256, leNat r)]))
    ∧ (s.record? (a.n 0) (a.n 1) = none → Completes (.cemondGet p) 0x0801 p s (begun 0x0801 p s) .notFound []))
  ∧ (∀ (p : Packet) (a : Args) (good : List (List Byte)) (s : State), Accepts 0x0802 p s → readParams 0x0802 p.params = a → a.bad = false →
    firstFail (dmaChecks s p (a.n 0) false 16) = none → p.dmaFault = false → tableOk p.dma (dmaLen (a.n 0)) = true →
    good = (tableRecords p.dma).filter (fun r => recordOk r && s.hasLane (leAt r 0 2)) →
    ∃ t, Completes (.cemondLoad p) 0x0802 p s t .ok (emitBlock [(.u 16, good.length), (.u 16, leAt p.dma 6 2 - good.length)])
      ∧ (good = [] → t = begun 0x0802 p s)
      ∧ ∀ r, good.getLast? = some r → t.record? (leAt r 0 2) (leAt r 2 1) = some r)
  ∧ (∀ (p : Packet) (a : Args) (e : EyeScan) (s : State), Inv s → Accepts 0x0803 p s → readParams 0x0803 p.params = a → a.bad = false →
    s.hasLane (a.n 0) = true → a.n 1 ≤ 2 → -32 ≤ a.i 2 8 → a.i 2 8 ≤ a.i 3 8 → a.i 3 8 ≤ 31 → -127 ≤ a.i 5 8 → a.i 5 8 ≤ a.i 6 8 →
    a.i 6 8 ≤ 127 → a.n 4 ≠ 0 → a.n 7 ≠ 0 → 16 ≤ a.n 8 → a.n 8 ≤ 23 + s.fld F.lnRate_RATE (a.n 0) →
    (∀ x, OTable.get? s.lanes.scans (a.n 0) = some x → x.running = false) → s.flag F.lnStat_LOCK (a.n 0) = true →
    e = { eye := a.n 1, ph0 := a.i 2 8, ph1 := a.i 3 8, phStep := a.n 4, v0 := a.i 5 8, v1 := a.i 6 8, vStep := a.n 7, win := a.n 8
          start := s.epoch + 1 } →
    ∃ t, Completes (.eyeScanStart p) 0x0803 p s t .ok (emitBlock []) ∧ OTable.get? t.lanes.scans (a.n 0) = some e
      ∧ t.reg .lnEscanCfg (a.n 0) = word (e.cfg true) ∧ ∀ r i, ¬ (r = .lnEscanCfg ∧ i = a.n 0) → t.reg r i = s.reg r i)
  ∧ (∀ (p : Packet) (a : Args) (pts : List EyePoint) (s : State), Accepts 0x0804 p s → readParams 0x0804 p.params = a → a.bad = false →
    s.hasLane (a.n 0) = true → pts = ((OTable.get? s.lanes.scans (a.n 0)).map (·.results)).getD [] →
    firstFail (dmaChecks s p (a.n 1) true (16 * pts.length)) = none → p.dmaFault = false →
    Completes (.eyeScanGet p) 0x0804 p s ((begun 0x0804 p s).emit (.hostWrite (dmaAddr (a.n 1)) (pts.flatMap EyePoint.bytes))) .ok
      (emitBlock [(.u 32, pts.length)]))
  ∧ (∀ (p : Packet) (a : Args) (s : State), Inv s → Accepts 0x0805 p s → readParams 0x0805 p.params = a → a.bad = false →
    s.hasLane (a.n 0) = true →
    (OTable.get? s.lanes.scans (a.n 0) = none → Completes (.eyeScanStop p) 0x0805 p s (begun 0x0805 p s) .ok (emitBlock []))
    ∧ ∀ e, OTable.get? s.lanes.scans (a.n 0) = some e → ∃ t, Completes (.eyeScanStop p) 0x0805 p s t .ok (emitBlock [])
      ∧ OTable.get? t.lanes.scans (a.n 0) = some { e with running := false } ∧ t.flag F.lnEscanCfg_EN (a.n 0) = false)
  ∧ (∀ (p : Packet) (a : Args) (s : State), Inv s → Accepts 0x0806 p s → readParams 0x0806 p.params = a → a.bad = false →
    s.hasLane (a.n 0) = true → a.n 1 ≤ 2 → a.n 2 ≤ 2 → s.laneOn (a.n 0) = false →
    ∃ t, Completes (.laneTestSet p) 0x0806 p s t .ok (emitBlock []) ∧ t.fld F.lnTest_GEN (a.n 0) = a.n 1 ∧ t.fld F.lnTest_CHK (a.n 0) = a.n 2
      ∧ t.flag F.lnTest_LPBK (a.n 0) = a.f 3 ∧ ∀ r i, ¬ (r = .lnTest ∧ i = a.n 0) → t.reg r i = s.reg r i)
  ∧ ∀ (p : Packet) (a : Args) (s : State), Accepts 0x0807 p s → readParams 0x0807 p.params = a → a.bad = false → s.hasLane (a.n 0) = true →
    ∃ ps, Completes (.laneStatusGet p) 0x0807 p s (begun 0x0807 p s) .ok ps
      ∧ (∀ i r, (laneRegs (a.n 0))[i]? = some r → leAt ps (4 * i) 4 = (s.laneReg r.1 r.2).toNat)
      ∧ ∀ k, k < 4 → (leAt ps 80 1).testBit k = (s.record? (a.n 0) k).isSome
        ∧ ∀ r, s.record? (a.n 0) k = some r → r.length = 32 → slice ps (88 + 32 * k) 32 = r

/-- For accepted packets that pass their checks. TIME_GET answers the whorl, network time and the state of bases and slew. TIME_SET loads the active base so that network time equals the time given in the slot after, makes it valid, and arms the next base 2^32 ns later. TIME_ADJ puts the increment that governs from the next slot and a slew in place of any running one, and answers its slots. TIME_SERVO_SET puts mode and parameters, sets HOST_OWN in mode 3 only, stops the servo in modes 0 and 3 and starts a changed mode 1 or 2 in FREE_RUN; TIME_SERVO_GET answers them. TOD_HINT holds the second given, in place of any earlier hint, and answers the whorl. -/
def Obligations.TimePacketsAnswer : Prop :=
  (∀ (p : Packet) (s : State), Accepts 0x0900 p s → ∃ ps, Completes (.timeGet p) 0x0900 p s (begun 0x0900 p s) .ok ps
      ∧ leAt ps 0 4 = s.whorlNs % 2 ^ 32 ∧ leAt ps 4 4 = s.time.whorl % 2 ^ 32 ∧ leAt ps 8 1 = b2n s.time.parity
      ∧ leAt ps 16 10 = packNet s.netNs ∧ leAt ps 26 1 = b2n s.netValid)
  ∧ (∀ (p : Packet) (a : Args) (s : State), Inv s → Accepts 0x0901 p s → readParams 0x0901 p.params = a → a.bad = false →
    s.time.servo.mode = 0 → a.n 0 % 2 ^ 32 ≤ 999999999 →
    ∃ t, Completes (.timeSet p) 0x0901 p s t .ok (emitBlock []) ∧ t.netValid = true ∧ t.flag F.tsStat_ACT_LOAD 0 = true
      ∧ t.time.whorl = s.time.whorl ∧ t.time.parity = s.time.parity
      ∧ NetBase.ofNs (t.time.active.total + (t.time.whorl + t.time.effInc) / 2 ^ 32) = NetBase.ofNs (unpackNet (a.n 0))
      ∧ t.time.next = NetBase.ofNs (t.time.active.total + 2 ^ 32) ∧ t.time.arm (!t.time.parity) = true
      ∧ ∀ r i, r ≠ .tsStat → t.reg r i = s.reg r i)
  ∧ (∀ (p : Packet) (a : Args) (delta : Int) (s : State), Inv s → Accepts 0x0902 p s → readParams 0x0902 p.params = a → a.bad = false →
    s.time.servo.mode = 0 → delta = (if a.i 3 64 < 0 then -(a.n 4 : Int) else a.n 4) →
    (∀ inc, inc = (if a.f 0 then a.n 1 else s.time.inc) → Config.incMin ≤ inc ∧ inc ≤ Config.incMax
      ∧ (a.f 2 = true → (Config.incMin : Int) ≤ inc + delta ∧ (inc : Int) + delta ≤ Config.incMax)) →
    (a.f 2 = true → (a.i 3 64).natAbs ≤ 25600000000 ∧ 1 ≤ a.n 4 ∧ a.n 4 ≤ 2 ^ 28 ∧ slewSlots (a.i 3 64) (a.n 4) ≤ 2 ^ 32 - 1) →
    ∃ t, Completes (.timeAdj p) 0x0902 p s t .ok (emitBlock [(.u 32, if a.f 2 then slewSlots (a.i 3 64) (a.n 4) else 0)])
      ∧ t.time.incPend = (if a.f 0 then some (a.n 1) else s.time.incPend)
      ∧ t.time.slewPend = (if a.f 2 then some (slewSlots (a.i 3 64) (a.n 4)) else s.time.slewPend)
      ∧ (a.f 2 = true → slewDeltaOf (t.reg .tsSlewDelta 0) = delta) ∧ t.time.whorl = s.time.whorl
      ∧ ∀ r i, a.f 2 = false ∨ r ≠ .tsSlewDelta → t.reg r i = s.reg r i)
  ∧ (∀ (p : Packet) (a : Args) (s : State), Inv s → Accepts 0x0903 p s → readParams 0x0903 p.params = a → a.bad = false →
    (a.n 0 = 1 → s.hasPort (a.n 1) = true ∧ s.flag F.macMode_BC (a.n 1) = true ∧ s.domainConfigured (a.n 1) (a.n 2) = true) →
    a.n 3 ≠ 0 → a.n 3 < a.n 4 → 1 ≤ a.n 5 → a.n 5 ≤ 2 ^ 28 →
    ∃ t, Completes (.timeServoSet p) 0x0903 p s t .ok (emitBlock []) ∧ t.time.servo.mode = a.n 0 ∧ t.time.servo.port = a.n 1
      ∧ t.time.servo.domain = a.n 2 ∧ t.time.servo.lockNs = a.n 3 ∧ t.time.servo.stepNs = a.n 4 ∧ t.time.servo.slewMax = a.n 5
      ∧ t.time.servo.holdMax = a.n 6 ∧ t.flag F.tsCtl_HOST_OWN 0 = (a.n 0 == 3)
      ∧ t.time.servo.state = (if a.n 0 = 0 ∨ a.n 0 = 3 then .stopped else if a.n 0 = s.time.servo.mode then s.time.servo.state else .freeRun)
      ∧ t.time.slewLeft = s.time.slewLeft ∧ ∀ r i, r ≠ .tsCtl → ¬ (r = .tsCapCtl ∧ i = 4 ∧ a.n 0 = 2) → t.reg r i = s.reg r i)
  ∧ (∀ (p : Packet) (s : State), Accepts 0x0904 p s → ∃ ps, Completes (.timeServoGet p) 0x0904 p s (begun 0x0904 p s) .ok ps
      ∧ leAt ps 0 1 = s.time.servo.mode % 256 ∧ leAt ps 2 2 = s.time.servo.port % 65536 ∧ leAt ps 4 1 = s.time.servo.domain % 256
      ∧ leAt ps 8 4 = s.time.servo.lockNs % 2 ^ 32 ∧ leAt ps 12 4 = s.time.servo.stepNs % 2 ^ 32 ∧ leAt ps 16 4 = s.time.servo.slewMax % 2 ^ 32
      ∧ leAt ps 20 4 = s.time.servo.holdMax % 2 ^ 32 ∧ leAt ps 24 1 = s.time.servo.state.num)
  ∧ ∀ (p : Packet) (a : Args) (s : State), Accepts 0x0905 p s → readParams 0x0905 p.params = a → a.bad = false → s.time.servo.mode = 2 →
    a.n 0 ≤ 2 ^ 48 - 1 →
    ∃ t, Completes (.todHint p) 0x0905 p s t .ok (emitBlock [(.u 32, s.whorlNs)]) ∧ t.time.servo.hint = some (a.n 0, s.tick.slot)
      ∧ t.time.servo.state = s.time.servo.state ∧ t.regs = s.regs

/-- For accepted packets that pass their checks. TIME_EVT_SET with EN = 0 stops the output and drops what firmware held for it; with EN = 1 and a start less than 2^30 ns ahead it writes the output's registers with the whorl instant of the start and arms it; with a later start the output stays off and firmware holds it. TIME_PPS_SET writes EN and WIDTH. TIME_CAP_SET writes EN, EDGE and OWNER of an input. TIME_CAP_GET takes up to MAX records, oldest first, from an input that firmware owns and answers how many. TIME_RCLK_SET writes EN, lane and DIV. No other register changes. -/
def Obligations.TimePinPacketsAnswer : Prop :=
  (∀ (p : Packet) (a : Args) (i : Nat) (s : State), Inv s → Accepts 0x0906 p s → readParams 0x0906 p.params = a → a.bad = false →
    a.n 0 = i → i ≤ 7 →
    (a.f 1 = false → ∃ t, Completes (.timeEvtSet p) 0x0906 p s t .ok (emitBlock []) ∧ t.flag F.tsEvtCtl_EN i = false
      ∧ (∀ h, h ∈ t.time.held → h.out ≠ i) ∧ ∀ r j, ¬ ((r = .tsEvtCtl ∨ r = .tsEvtStat) ∧ j = i) → t.reg r j = s.reg r j)
    ∧ (∀ start, a.f 1 = true → 8 ≤ a.n 7 → (a.f 2 = true → 16 ≤ a.n 5 ∧ a.n 7 + 8 ≤ a.n 5) → s.netValid = true →
      unpackNet (a.n 4) = s.netNs + start → 0 < start → start ≤ 86400 * 1000000000 →
      (start < 2 ^ 30 → ∃ t, Completes (.timeEvtSet p) 0x0906 p s t .ok (emitBlock []) ∧ t.flag F.tsEvtCtl_EN i = true
        ∧ t.flag F.tsEvtCtl_PERIODIC i = a.f 2 ∧ t.flag F.tsEvtCtl_POL i = a.f 3 ∧ t.flag F.tsEvtCtl_IE i = s.flag F.tsEvtCtl_IE i
        ∧ (t.reg .tsEvtStart i).toNat = (s.whorlNs + start) % 2 ^ 32 ∧ t.fld F.tsEvtFrac_START_FRAC i = 0
        ∧ t.fld F.tsEvtFrac_PER_FRAC i = a.n 6 ∧ t.fld F.tsEvtPeriod_NS i = a.n 5 ∧ t.fld F.tsEvtWidth_NS i = a.n 7
        ∧ OTable.get? t.time.outputs i = some { next := t.evtStart i }
        ∧ ∀ r j, j ≠ i ∨ r ∉ [.tsEvtCtl, .tsEvtStat, .tsEvtStart, .tsEvtFrac, .tsEvtPeriod, .tsEvtWidth] → t.reg r j = s.reg r j)
      ∧ (2 ^ 30 ≤ start → ∃ t h, Completes (.timeEvtSet p) 0x0906 p s t .ok (emitBlock []) ∧ t.flag F.tsEvtCtl_EN i = false
        ∧ h ∈ t.time.held ∧ h.out = i ∧ h.start = unpackNet (a.n 4) ∧ h.period = a.n 5 ∧ h.width = a.n 7
        ∧ ∀ r j, ¬ ((r = .tsEvtCtl ∨ r = .tsEvtStat) ∧ j = i) → t.reg r j = s.reg r j)))
  ∧ (∀ (p : Packet) (a : Args) (s : State), Inv s → Accepts 0x0907 p s → readParams 0x0907 p.params = a → a.bad = false → 8 ≤ a.n 1 →
    a.n 1 ≤ 500000000 →
    ∃ t, Completes (.timePpsSet p) 0x0907 p s t .ok (emitBlock []) ∧ t.flag F.tsPpsCfg_EN 0 = a.f 0 ∧ t.fld F.tsPpsCfg_WIDTH 0 = a.n 1
      ∧ ∀ r i, r ≠ .tsPpsCfg ∨ i ≠ 0 → t.reg r i = s.reg r i)
  ∧ (∀ (p : Packet) (a : Args) (s : State), Inv s → Accepts 0x0908 p s → readParams 0x0908 p.params = a → a.bad = false → a.n 0 ≤ 4 →
    (a.f 1 = true → a.n 2 ≠ 0) → (a.n 0 = 4 → s.time.servo.mode = 2 → a.f 3 = true) →
    ∃ t, Completes (.timeCapSet p) 0x0908 p s t .ok (emitBlock []) ∧ t.flag F.tsCapCtl_EN (a.n 0) = a.f 1
      ∧ t.fld F.tsCapCtl_EDGE (a.n 0) = a.n 2 ∧ t.flag F.tsCapCtl_OWNER (a.n 0) = a.f 3
      ∧ t.flag F.tsCapCtl_IE (a.n 0) = s.flag F.tsCapCtl_IE (a.n 0) ∧ ∀ r i, r ≠ .tsCapCtl ∨ i ≠ a.n 0 → t.reg r i = s.reg r i)
  ∧ (∀ (p : Packet) (a : Args) (l : List CapRec) (s : State), Inv s → Table.wf (fun _ => ([] : List CapRec)) s.time.captures = true → Accepts 0x0909 p s → readParams 0x0909 p.params = a → a.bad = false →
    a.n 0 ≤ 4 → 1 ≤ a.n 1 → a.n 1 ≤ 16 → s.flag F.tsCapCtl_OWNER (a.n 0) = true → l = (s.captures (a.n 0)).take (a.n 1) →
    ∃ t, Completes (.timeCapGet p) 0x0909 p s t .ok (emitBlock ((.u 8, l.length) :: l.flatMap s.capReply))
      ∧ s.captures (a.n 0) = l ++ t.captures (a.n 0) ∧ (∀ j, j ≠ a.n 0 → t.captures j = s.captures j)
      ∧ t.fld F.tsCapStat_LEVEL (a.n 0) = (t.captures (a.n 0)).length % 32 ∧ ∀ r i, r ≠ .tsCapStat ∨ i ≠ a.n 0 → t.reg r i = s.reg r i)
  ∧ ∀ (p : Packet) (a : Args) (s : State), Inv s → Accepts 0x090A p s → readParams 0x090A p.params = a → a.bad = false → a.n 0 ≤ 1 →
    s.hasLane (a.n 2) = true →
    ∃ t, Completes (.timeRclkSet p) 0x090A p s t .ok (emitBlock []) ∧ t.flag F.tsRclkCtl_EN (a.n 0) = a.f 1
      ∧ t.fld F.tsRclkCtl_LANE (a.n 0) = a.n 2 ∧ t.fld F.tsRclkCtl_DIV (a.n 0) = a.n 3
      ∧ ∀ r i, r ≠ .tsRclkCtl ∨ i ≠ a.n 0 → t.reg r i = s.reg r i

/-- For accepted packets that pass their checks. PTP_PORT_SET writes a port's domains, enables and trims, and PTP_PORT_GET answers them with the counters. TS_RING_SET writes EN and OWNER of a quadrant's ring, and a change of OWNER empties the ring: CONS becomes PROD and OVF clears. TS_STP_SET writes ONE_STEP_EN. MIR_SESSION_SET writes the session's registers and, for KIND 2 or 3, its outer header; MIR_SESSION_GET answers the session with its counters summed over the quadrants. MIR_PORT_SET writes the masks of a port. No other register changes. -/
def Obligations.StampingAndMirrorPacketsAnswer : Prop :=
  (∀ (p : Packet) (a : Args) (s : State), Inv s → Accepts 0x090B p s → readParams 0x090B p.params = a → a.bad = false → a.n 0 < 512 →
    s.hasPort (a.n 0) = true → s.hidden (a.n 0) = false →
    (s.time.servo.mode = 1 → s.time.servo.port = a.n 0 → ∃ i, i < 8 ∧ (a.n 1).testBit i = true ∧ a.n (2 + i) = s.time.servo.domain) →
    (∀ i j, i < j → j < 8 → (a.n 1).testBit i = true → (a.n 1).testBit j = true → a.n (2 + i) ≠ a.n (2 + j)) →
    ∃ t, Completes (.ptpPortSet p) 0x090B p s t .ok (emitBlock []) ∧ t.fld F.tsPortDomEn_EN (a.n 0) = a.n 1
      ∧ (∀ k, k < 4 → (t.reg .tsPortDomLo (a.n 0)).toNat / 256 ^ k % 256 = a.n (2 + k)
        ∧ (t.reg .tsPortDomHi (a.n 0)).toNat / 256 ^ k % 256 = a.n (6 + k))
      ∧ toSigned 16 (t.fld F.tsPortTrim_RX_TRIM (a.n 0)) = a.i 10 16 ∧ toSigned 16 (t.fld F.tsPortTrim_TX_TRIM (a.n 0)) = a.i 11 16
      ∧ ∀ r i, ¬ (r ∈ [.tsPortDomEn, .tsPortDomLo, .tsPortDomHi, .tsPortTrim] ∧ i = a.n 0) → t.reg r i = s.reg r i)
  ∧ (∀ (p : Packet) (a : Args) (s : State), Accepts 0x090C p s → readParams 0x090C p.params = a → a.bad = false → s.hasPort (a.n 0) = true →
    ∃ ps, Completes (.ptpPortGet p) 0x090C p s (begun 0x090C p s) .ok ps ∧ ps.length = 32
      ∧ leAt ps 0 4 = (s.view .tsPortDomLo (a.n 0)).toNat ∧ leAt ps 4 4 = (s.view .tsPortDomHi (a.n 0)).toNat
      ∧ leAt ps 8 4 = (s.view .tsPortDomEn (a.n 0)).toNat ∧ leAt ps 12 4 = (s.view .tsPortTrim (a.n 0)).toNat
      ∧ leAt ps 16 4 = (s.view .tsPortCorrCnt (a.n 0)).toNat ∧ leAt ps 28 4 = (s.view .tsPortBcPassCnt (a.n 0)).toNat)
  ∧ (∀ (p : Packet) (a : Args) (s : State), Inv s → Accepts 0x090D p s → readParams 0x090D p.params = a → a.bad = false → s.hasQuad (a.n 0) = true →
    ∃ t, Completes (.tsRingSet p) 0x090D p s t .ok (emitBlock []) ∧ t.flag F.tsRingCtl_EN (a.n 0) = a.f 1
      ∧ t.flag F.tsRingCtl_OWNER (a.n 0) = a.f 2 ∧ t.flag F.tsRingCtl_IE (a.n 0) = s.flag F.tsRingCtl_IE (a.n 0)
      ∧ (s.flag F.tsRingCtl_OWNER (a.n 0) ≠ a.f 2 → t.reg .tsRingCons (a.n 0) = s.reg .tsRingProd (a.n 0)
        ∧ t.flag F.tsRingStat_OVF (a.n 0) = false)
      ∧ (s.flag F.tsRingCtl_OWNER (a.n 0) = a.f 2 → ∀ i, t.reg .tsRingCons i = s.reg .tsRingCons i ∧ t.reg .tsRingStat i = s.reg .tsRingStat i)
      ∧ ∀ r i, ¬ (r ∈ [.tsRingCtl, .tsRingCons, .tsRingStat] ∧ i = a.n 0) → t.reg r i = s.reg r i)
  ∧ (∀ (p : Packet) (a : Args) (s : State), Inv s → Accepts 0x090E p s → readParams 0x090E p.params = a → a.bad = false →
    ∃ t, Completes (.tsStpSet p) 0x090E p s t .ok (emitBlock []) ∧ t.reg .tsStpCtl 0 = word (b2n (a.f 0))
      ∧ ∀ r i, r ≠ .tsStpCtl ∨ i ≠ 0 → t.reg r i = s.reg r i)
  ∧ (∀ (p : Packet) (a : Args) (m : Nat) (s : State), Inv s → Accepts 0x0A00 p s → readParams 0x0A00 p.params = a → a.bad = false → a.n 0 = m →
    m ≤ 7 → a.n 2 ≤ 3 → a.n 3 ≤ 1 → (a.n 6 = 0 ∨ 64 ≤ a.n 6 ∧ a.n 6 ≤ 10240) →
    (a.n 2 = 1 → a.n 5 < 16384) → (a.n 2 ≠ 1 → a.n 5 ≤ 515 ∧ s.hasPort (a.n 5) = true) →
    (2 ≤ a.n 2 → a.n 5 < 512 ∧ a.n 11 ≠ 4095 ∧ a.n 15 ≠ 0 ∧ a.n 17 ≠ 0) → a.n 7 ≤ 2 ^ 24 → a.n 8 < 2 ^ 24 →
    ∃ t, Completes (.mirSessionSet p) 0x0A00 p s t .ok (emitBlock []) ∧ t.flag F.mirSessCfg_VALID m = a.f 1 ∧ t.fld F.mirSessCfg_KIND m = a.n 2
      ∧ t.fld F.mirSessCfg_POINT m = a.n 3 ∧ t.fld F.mirSessCfg_CLASS m = a.n 4 ∧ t.fld F.mirSessCfg_DEST m = a.n 5
      ∧ t.fld F.mirSessTrunc_TRUNC_LEN m = a.n 6 ∧ t.fld F.mirSessRate_RATE m = a.n 7 ∧ t.fld F.mirSessBurst_BURST m = a.n 8
      ∧ (2 ≤ a.n 2 → t.fld F.mirEncDmacHi_ADDR m * 2 ^ 32 + t.fld F.mirEncDmacLo_ADDR m = a.n 9
        ∧ t.fld F.mirEncSmacHi_ADDR m * 2 ^ 32 + t.fld F.mirEncSmacLo_ADDR m = a.n 10 ∧ t.fld F.mirEncL3_VID m = a.n 11
        ∧ t.fld F.mirEncL3_DSCP m = a.n 14 ∧ t.fld F.mirEncL3_TTL m = a.n 15 ∧ t.fld F.mirEncUdp_SPORT m = a.n 16
        ∧ t.fld F.mirEncUdp_DPORT m = a.n 17)
      ∧ (a.n 2 = 2 → t.fld F.mirEncSip_ADDR (4 * m) = a.n 12 ∧ t.fld F.mirEncDip_ADDR (4 * m) = a.n 13)
      ∧ (a.n 2 = 3 → ∀ w, w < 4 → t.fld F.mirEncSip_ADDR (4 * m + w) = a.n 12 / 2 ^ (96 - 32 * w) % 2 ^ 32
        ∧ t.fld F.mirEncDip_ADDR (4 * m + w) = a.n 13 / 2 ^ (96 - 32 * w) % 2 ^ 32)
      ∧ ∀ r i, ¬ (r ∈ [.mirSessCfg, .mirSessTrunc, .mirSessRate, .mirSessBurst] ∧ i = m)
        ∧ ¬ (2 ≤ a.n 2 ∧ r ∈ [.mirEncDmacHi, .mirEncDmacLo, .mirEncSmacHi, .mirEncSmacLo, .mirEncL3, .mirEncUdp] ∧ i = m)
        ∧ ¬ (2 ≤ a.n 2 ∧ r ∈ [.mirEncSip, .mirEncDip] ∧ i / 4 = m) → t.reg r i = s.reg r i)
  ∧ (∀ (p : Packet) (a : Args) (s : State), Accepts 0x0A01 p s → readParams 0x0A01 p.params = a → a.bad = false → a.n 0 ≤ 7 →
    ∃ ps, Completes (.mirSessionGet p) 0x0A01 p s (begun 0x0A01 p s) .ok ps ∧ leAt ps 0 1 = s.fld F.mirSessCfg_VALID (a.n 0)
      ∧ leAt ps 1 1 = s.fld F.mirSessCfg_KIND (a.n 0) ∧ leAt ps 2 1 = s.fld F.mirSessCfg_POINT (a.n 0)
      ∧ leAt ps 3 1 = s.fld F.mirSessCfg_CLASS (a.n 0) ∧ leAt ps 4 2 = s.fld F.mirSessCfg_DEST (a.n 0)
      ∧ leAt ps 6 2 = s.fld F.mirSessTrunc_TRUNC_LEN (a.n 0) ∧ leAt ps 8 4 = s.fld F.mirSessRate_RATE (a.n 0)
      ∧ leAt ps 12 4 = s.fld F.mirSessBurst_BURST (a.n 0)
      ∧ (s.fld F.mirSessCfg_KIND (a.n 0) < 2 → leAt ps 16 8 = (s.reg .mirCopyCnt (a.n 0)).toNat + (s.reg .mirCopyCnt (8 + a.n 0)).toNat
        + (s.reg .mirCopyCnt (16 + a.n 0)).toNat + (s.reg .mirCopyCnt (24 + a.n 0)).toNat)
      ∧ (2 ≤ s.fld F.mirSessCfg_KIND (a.n 0) → beAt ps 16 6 = s.fld F.mirEncDmacHi_ADDR (a.n 0) * 2 ^ 32 + s.fld F.mirEncDmacLo_ADDR (a.n 0)
        ∧ beAt ps 24 6 = s.fld F.mirEncSmacHi_ADDR (a.n 0) * 2 ^ 32 + s.fld F.mirEncSmacLo_ADDR (a.n 0)
        ∧ leAt ps 32 2 = s.fld F.mirEncL3_VID (a.n 0)))
  ∧ ∀ (p : Packet) (a : Args) (s : State), Inv s → Accepts 0x0A02 p s → readParams 0x0A02 p.params = a → a.bad = false → s.hasPort (a.n 0) = true →
    s.hidden (a.n 0) = false →
    ∃ t, Completes (.mirPortSet p) 0x0A02 p s t .ok (emitBlock []) ∧ t.fld F.mirPortSrc_IN_MASK (a.n 0) = a.n 1
      ∧ t.fld F.mirPortSrc_EG_MASK (a.n 0) = a.n 2 ∧ ∀ r i, r ≠ .mirPortSrc ∨ i ≠ a.n 0 → t.reg r i = s.reg r i

/-- For accepted packets that pass their checks. On the root DMA_RING_SET writes base, count, coalescing and enable of a ring; its indices start at 0 when the enable rises and stay otherwise; for receive the buffer size and the queues of QMASK are mapped to the ring, and other queues keep theirs. A stop of a receive ring with a frame in hand is answered when that is done. DMA_RING_GET answers the registers of a ring. TREE_STATUS_GET answers for each node the ports of its path, HOPS and whether it is routable, and the refused paths. RL_STATUS_GET answers the port status and counters of this device, reads those of a routable node over the tree, and is NODE_UNREACHABLE for a bound node without a route. -/
def Obligations.RingAndTreePacketsAnswer : Prop :=
  (∀ (p : Packet) (a : Args) (r : Nat) (tx : Bool) (s : State), Inv s → Accepts 0x0B00 p s →
    readParams 0x0B00 p.params = a → a.bad = false → s.tree.root = true → a.n 0 = b2n tx → a.n 1 = r → r ≤ 31 → a.n 3 % 4096 = 0 →
    (∃ k, k ≤ 10 ∧ a.n 4 = 2 ^ (k + 6)) → (tx = false → a.n 5 % 128 = 0 ∧ 256 ≤ a.n 5 ∧ a.n 5 ≤ 16384 ∧ a.n 10 ≤ 3) → a.n 7 ≠ 0 → a.n 8 ≤ 1023 →
    s.dmaAdmits (a.n 3) (32 * a.n 4) (!tx) (decide (p.chan < 4)) = true →
    (a.f 2 = true → s.ringOn tx r = true → s.ringBase tx r = a.n 3 ∧ s.ringCount tx r = a.n 4) →
    ((a.f 2 = true ∨ tx = true ∨ ∀ j, j ∈ s.host.jobs → j.ring ≠ r) →
      ∃ t, Completes (.dmaRingSet p) 0x0B00 p s t .ok (emitBlock []) ∧ t.ringOn tx r = a.f 2 ∧ t.ringBase tx r = a.n 3 ∧ t.ringCount tx r = a.n 4
        ∧ bitsOf (t.reg (ringCfg tx) r).toNat 13 6 = a.n 7 ∧ bitsOf (t.reg (ringCfg tx) r).toNat 23 14 = a.n 8
        ∧ (a.f 2 = true → s.ringOn tx r = false → t.reg (ringHead tx) r = 0 ∧ t.reg (ringTail tx) r = 0)
        ∧ (a.f 2 = false ∨ s.ringOn tx r = true → t.reg (ringHead tx) r = s.reg (ringHead tx) r ∧ t.reg (ringTail tx) r = s.reg (ringTail tx) r)
        ∧ (tx = false → t.flag F.dmaRxCfg_KEEP_FCS r = a.f 6 ∧ t.fld F.dmaRxBuf_BUF_128 r * 128 = a.n 5
          ∧ ∀ i, i < 16 → (a.n 9).testBit i = true → t.fld F.dmaRxqMap_RING_BASE i = r ∧ t.fld F.dmaRxqMap_RING_LOG2 i = a.n 10)
        ∧ ∀ x i, ¬ (i = r ∧ x ∈ (if tx then [.dmaTxBaseLo, .dmaTxBaseHi, .dmaTxCfg, .dmaTxHead, .dmaTxTail]
            else [.dmaRxBaseLo, .dmaRxBaseHi, .dmaRxCfg, .dmaRxHead, .dmaRxTail, .dmaRxBuf])) →
          ¬ (tx = false ∧ x = .dmaRxqMap ∧ i < 16 ∧ (a.n 9).testBit i = true) → t.reg x i = s.reg x i)
    ∧ (a.f 2 = false → tx = false → (∃ j, j ∈ s.host.jobs ∧ j.ring = r) →
      ∃ t, exec (.dmaRingSet p) s = .next t ∧ t.ringOn false r = false ∧ t.tab.jobs.length = s.tab.jobs.length + 1
        ∧ t.pkts.replies = s.pkts.replies))
  ∧ (∀ (p : Packet) (a : Args) (r : Nat) (tx : Bool) (s : State), Accepts 0x0B01 p s → readParams 0x0B01 p.params = a → a.bad = false →
    a.n 0 = b2n tx → a.n 1 = r → r ≤ 31 →
    ∃ ps, Completes (.dmaRingGet p) 0x0B01 p s (begun 0x0B01 p s) .ok ps
      ∧ leAt ps 0 4 = (s.reg (if tx then .dmaTxBaseLo else .dmaRxBaseLo) r).toNat
      ∧ leAt ps 4 4 = (s.reg (if tx then .dmaTxBaseHi else .dmaRxBaseHi) r).toNat ∧ leAt ps 8 4 = (s.reg (ringCfg tx) r).toNat
      ∧ leAt ps 12 4 = (s.reg (ringHead tx) r).toNat ∧ leAt ps 16 4 = (s.reg (ringTail tx) r).toNat
      ∧ (tx = false → leAt ps 20 4 = (s.reg .dmaRxBuf r).toNat))
  ∧ (∀ (p : Packet) (s : State), Accepts 0x0B02 p s → ∃ ps, Completes (.treeStatusGet p) 0x0B02 p s (begun 0x0B02 p s) .ok ps
      ∧ (∀ n l, n < 64 → OTable.get? s.tree.bound n = some l → leAt ps (6 * n + 1) 1 = l.length % 256
        ∧ ∀ k x, k < 4 → l[k]? = some x → leAt ps (6 * n) 1 / 4 ^ k % 4 = x % 4)
      ∧ (∀ n, n < 64 → leAt ps (6 * n + 3) 1 = b2n (s.routable n)) ∧ leAt ps 384 1 = min 40 s.tree.refused.length)
  ∧ ∀ (p : Packet) (a : Args) (n : Nat) (s : State), Inv s → Accepts 0x0B03 p s → readParams 0x0B03 p.params = a → a.bad = false → a.n 0 = n →
    (s.node? = some n ∨ s.tree.root = false ∧ s.node? = none ∧ n = 0 →
      ∃ ps, Completes (.rlStatusGet p) 0x0B03 p s (begun 0x0B03 p s) .ok ps ∧ ∀ k, k < 4 → leAt ps (12 * k) 4 = (s.reg .rlPortStat k).toNat
        ∧ leAt ps (12 * k + 4) 4 = (s.reg .rlCrcErrCnt k).toNat ∧ leAt ps (12 * k + 8) 4 = (s.reg .rlReplayCnt k).toNat)
    ∧ (s.tree.root = true → n ≠ 0 → OTable.has s.tree.bound n = true → s.routable n = false →
      Completes (.rlStatusGet p) 0x0B03 p s (begun 0x0B03 p s) .nodeUnreachable [])
    ∧ (s.tree.root = true → n ≠ 0 → OTable.has s.tree.bound n = true → s.routable n = true → s.tree.reads = [] →
      ∃ t, exec (.rlStatusGet p) s = .next t ∧ t.tab.jobs.length = s.tab.jobs.length + 1 ∧ t.pkts.replies = s.pkts.replies
        ∧ t.tree.reads.length = 4 ∧ ∀ x, x ∈ t.tree.reads → x.node = n ∧ x.n = 3 ∧ x.tag.isSome = true)

/-- For accepted packets that pass their checks. FW_IMAGE_WRITE of an image that fails a check of R588 is IMAGE_INVALID and leaves the flash; of another it writes the image into its slot, erasing the rest of the slot and nothing else, and answers OK when the slot then holds a valid image. FW_ACTIVATE opens the write session of the boot record that R604 gives, which it is answered after, or is HOLDUP_LOW and counted when the stored energy does not cover the session. FW_STATUS_GET answers every slot, the running slots, the boot record, the SVN minima and PROT_BOOT; PROT_STATUS_GET the PROT registers and bindings, in the buffer or as far as a reply holds. -/
def Obligations.FirmwarePacketsAnswer : Prop :=
  (∀ (p : Packet) (a : Args) (k : Nat) (img : List Byte) (s : State), Table.wf (fun _ => (0xFF : Byte)) s.flash = true → Accepts 0x0C00 p s →
    readParams 0x0C00 p.params = a → a.bad = false → a.n 0 = k → k ≤ 3 → firstFail (dmaChecks s p (a.n 1) false 0) = none → s.slotBusy k = false →
    p.dmaFault = false → img = slice p.dma 0 (dmaLen (a.n 1)) →
    (s.imageFault k img ≠ 0 → Completes (.fwImageWrite p) 0x0C00 p s (begun 0x0C00 p s) .imageInvalid [])
    ∧ (s.imageFault k img = 0 → ∃ t e, Completes (.fwImageWrite p) 0x0C00 p s t (if t.slotValid k then .ok else .imageInvalid) []
      ∧ s.entryOf (slotKind k) = some e ∧ t.regs = s.regs
      ∧ (∀ x b, (img.take (8192 + leAt img 16 4))[x]? = some b → Table.get (fun _ => 0xFF) t.flash (e.1 + x) = b)
      ∧ (∀ x, 8192 + leAt img 16 4 ≤ x → x < s.slotSize k → Table.get (fun _ => 0xFF) t.flash (e.1 + x) = 0xFF)
      ∧ ∀ x, x < e.1 ∨ e.1 + s.slotSize k ≤ x → Table.get (fun _ => 0xFF) t.flash x = Table.get (fun _ => 0xFF) s.flash x))
  ∧ (∀ (p : Packet) (a : Args) (k mode : Nat) (r : BootRec) (s : State), Inv s → Accepts 0x0C01 p s → readParams 0x0C01 p.params = a → a.bad = false →
    a.n 0 = k → a.n 1 = mode → r = s.nextRecord → k ≤ 3 → mode ≤ 3 → (k < 2 ∨ mode = 3) →
    (mode = 0 → 10 ≤ a.n 2 ∧ a.n 2 ≤ 3600 ∧ s.runningSlot ≠ some k ∧ r.trial = false) → (mode = 1 ∨ mode = 2 → r.trial = true ∧ r.active = k) →
    (mode = 0 ∨ mode = 3 → s.slotValid k = true) → s.ksFaulted = false →
    (s.energyFor 64 = true → ∃ t b sw c, exec (.fwActivate p) s = .next t
      ∧ t.ks.sessions = s.ks.sessions ++ [{ data := .bootRecord b sw c, job := some (p.chan, p.tag) }] ∧ t.flag F.ksStat_SESSION 0 = true
      ∧ t.tab.jobs.length = s.tab.jobs.length + 1 ∧ t.pkts.replies = s.pkts.replies
      ∧ (mode = 0 → b.active = k ∧ b.trial = true ∧ b.deadline = s.tick.slot + a.n 2 * Config.slotsPerSec ∧ sw = some (k, 4) ∧ t.boot.trialStarts = 0)
      ∧ (mode = 1 → b = { r with trial := false } ∧ sw = none ∧ c = some k)
      ∧ (mode = 2 → b.active = r.prev ∧ b.trial = false ∧ sw = some (r.prev, 5))
      ∧ (mode = 3 → b.active = r.active ∧ sw = none ∧ c = none) ∧ ∀ x i, x ≠ .ksStat → t.reg x i = s.reg x i)
    ∧ (s.energyFor 64 = false → ∃ t, Completes (.fwActivate p) 0x0C01 p s t .holdupLow [] ∧ t.ks = s.ks ∧ t.boot = s.boot ∧ t.regs = s.regs
      ∧ t.cnt = (s.count .ksRefuseCnt 0 1).cnt))
  ∧ (∀ (p : Packet) (r : BootRec) (s : State), Accepts 0x0C02 p s → r = s.ks.bootRec.getD {} →
    ∃ ps, Completes (.fwStatusGet p) 0x0C02 p s (begun 0x0C02 p s) .ok ps
      ∧ (∀ k, k < 4 → leAt ps (16 * k) 1 = s.slotFault k ∧ leAt ps (16 * k + 1) 1 = slotType k ∧ leAt ps (16 * k + 4) 4 = s.slotSvn k
        ∧ leAt ps (16 * k + 8) 4 = s.slotBuild k ∧ leAt ps (16 * k + 12) 2 = (s.slotProto k).1 ∧ leAt ps (16 * k + 14) 2 = (s.slotProto k).2)
      ∧ leAt ps 64 1 = 2 + s.fld F.protBoot_BOOT_SLOT 0 ∧ leAt ps 65 1 = s.fld F.protBoot_FW_SLOT 0 ∧ leAt ps 66 1 = r.active % 256
      ∧ leAt ps 67 1 = r.prev % 256 ∧ leAt ps 68 1 = b2n r.trial ∧ leAt ps 72 8 = r.deadline % 2 ^ 64 ∧ leAt ps 84 4 = (s.reg .protBoot 0).toNat)
  ∧ ∀ (p : Packet) (a : Args) (bytes : List Byte) (s : State), Accepts 0x0C03 p s → readParams 0x0C03 p.params = a →
    bytes = protWords.flatMap (fun r => leBytes 4 (s.reg r.1 r.2).toNat) →
    (p.params = [] → ∃ ps, Completes (.protStatusGet p) 0x0C03 p s (begun 0x0C03 p s) .ok ps ∧ ps = bytes.take 496 ∧ ps.length = 496)
    ∧ (p.params ≠ [] → firstFail (dmaChecks s p (a.n 0) true bytes.length) = none → p.dmaFault = false →
      Completes (.protStatusGet p) 0x0C03 p s ((begun 0x0C03 p s).emit (.hostWrite (dmaAddr (a.n 0)) bytes)) .ok (emitBlock []))

/-- For accepted packets that pass their checks. KS_WRITE opens a write session with the buffer's bytes for the host area and is answered after it, or is HOLDUP_LOW and counted when the stored energy does not cover it; the area itself changes only when the session ends. KS_READ writes as many bytes as the buffer names from an area: of the host area what it holds, of an occupied save slot its MAGIC and SEQ. HOLDUP_STATUS_GET answers voltage, capacitor, energy and the newest valid save; THM_GET every sensor, the level, the maximum and WARN_C. -/
def Obligations.KeepStorePacketsAnswer : Prop :=
  (∀ (p : Packet) (a : Args) (off len : Nat) (s : State), Inv s → Accepts 0x0D00 p s → readParams 0x0D00 p.params = a → a.bad = false →
    a.n 0 = off → dmaLen (a.n 1) = len → off % 4096 = 0 → len % 4096 = 0 → len ≤ 2 ^ 20 → off + len ≤ 2 ^ 22 →
    firstFail (dmaChecks s p (a.n 1) false 0) = none → s.ksFaulted = false → p.dmaFault = false →
    (s.energyFor len = true → ∃ t, exec (.ksWrite p) s = .next t
      ∧ t.ks.sessions = s.ks.sessions ++ [{ data := .host off (slice p.dma 0 len), job := some (p.chan, p.tag) }]
      ∧ t.ks.hostArea = s.ks.hostArea ∧ t.flag F.ksStat_SESSION 0 = true ∧ t.tab.jobs.length = s.tab.jobs.length + 1
      ∧ t.pkts.replies = s.pkts.replies ∧ ∀ r i, r ≠ .ksStat → t.reg r i = s.reg r i)
    ∧ (s.energyFor len = false → ∃ t, Completes (.ksWrite p) 0x0D00 p s t .holdupLow [] ∧ t.ks = s.ks ∧ t.regs = s.regs
      ∧ t.cnt = (s.count .ksRefuseCnt 0 1).cnt))
  ∧ (∀ (p : Packet) (a : Args) (area off len : Nat) (s : State), Accepts 0x0D01 p s → readParams 0x0D01 p.params = a → a.bad = false →
    a.n 0 = area → a.n 1 = off → dmaLen (a.n 2) = len → 1 ≤ area → area ≤ 5 → off % 64 = 0 → len % 64 = 0 → off + len ≤ areaSize area →
    firstFail (dmaChecks s p (a.n 2) true 0) = none → p.dmaFault = false →
    ∃ bs, Completes (.ksRead p) 0x0D01 p s ((begun 0x0D01 p s).emit (.hostWrite (dmaAddr (a.n 2)) bs)).draw .ok (emitBlock []) ∧ bs.length = len
      ∧ (area = 5 → ∀ k, k < len → bs[k]? = some (Table.get (fun _ => 0) s.ks.hostArea (off + k)))
      ∧ ∀ n i, area = n + 1 → n < 2 → OTable.get? s.ks.saves n = some i → off = 0 → 0 < len →
        leAt bs 0 4 = 0x45564153 ∧ leAt bs 4 8 = i.seq % 2 ^ 64)
  ∧ (∀ (p : Packet) (s : State), Accepts 0x0D02 p s → ∃ ps, Completes (.holdupStatusGet p) 0x0D02 p s (begun 0x0D02 p s) .ok ps
      ∧ leAt ps 0 2 = s.fld F.pwrHoldV_MV 0 ∧ leAt ps 2 2 = s.fld F.pwrCap_C 0 ∧ leAt ps 4 2 = s.fld F.pwrCap_ESR 0
      ∧ leAt ps 6 1 = s.fld F.pwrStat_CAP_STATE 0 ∧ leAt ps 8 4 = s.energyUj % 2 ^ 32
      ∧ (s.ksFaulted = true → leAt ps 16 4 = 0) ∧ leAt ps 28 1 = b2n s.ks.newest.isSome
      ∧ ∀ e, s.ks.newest = some e → leAt ps 29 1 = e.1 % 256 ∧ leAt ps 32 8 = e.2.seq % 2 ^ 64)
  ∧ ∀ (p : Packet) (s : State), Accepts 0x0D03 p s → ∃ ps, Completes (.thmGet p) 0x0D03 p s (begun 0x0D03 p s) .ok ps
      ∧ (∀ n, n < 32 → leAt ps (4 * n) 4 = (s.reg .thmTemp n).toNat) ∧ leAt ps 130 1 = s.fld F.thmStat_LEVEL 0
      ∧ leAt ps 132 2 = s.fld F.thmMax_TJ 0 ∧ leAt ps 134 1 = s.fld F.thmCtl_WARN_C 0

/-- In any state a power-on reset leaves the whorl, its fraction and PARITY at 0, and they are 0 in slot 0, which begins when the PLL locks. A core reset, a reset of the control complex by request, watchdog or firmware switch, a quadrant reset and a PCIe reset complete and change neither the whorl with its fraction nor PARITY, whoever asks for them and whichever resets run. -/
def Obligations.ResetsKeepTheWhorl : Prop :=
  (∀ (straps : Nat) (flash : List (Nat × List Byte)) (s : State), ∃ t u, exec (.powerOnReset straps flash) s = .next t
    ∧ t.time.whorl = 0 ∧ t.time.parity = false ∧ exec .pllLock t = .next u ∧ u.tick.slot = 0 ∧ u.time.whorl = 0 ∧ u.time.parity = false)
  ∧ ∀ (i : Instr) (who : Sender) (quads : Nat) (s : State),
    i ∈ [.coreReset who, .controlComplexReset who, .quadrantReset who quads, .watchdogExpire, .fwSwitch, .pcieReset] →
    ∃ t, exec i s = .next t ∧ t.time.whorl = s.time.whorl ∧ t.time.parity = s.time.parity

/-- In a state that meets the invariant, with the clock locked and the time registers the control complex's. A write of TS_SLEW_COUNT while a slew runs: the slot still adds the old DELTA, then the old slew ends without SLEW_DONE and the new count runs with the DELTA that stands; 0 leaves none. A write of TS_SLEW_DELTA alone leaves the running slew's DELTA and count. Writes of TS_INC_NS and TS_SLEW_COUNT in one slot, in either order, leave that slot's addition as it was and govern from the next with their sum. A slew whose last slot has a TS_INC_NS write adds its DELTA to the old increment. -/
def Obligations.SlewAndIncrementWritesMeet : Prop :=
  (∀ (v : Word) (s : State), Inv s → s.tick.locked = true → s.time.slewLeft ≠ 0 → s.flag F.tsCtl_HOST_OWN 0 = false →
    ∃ t u, exec (.slewStart .cc v) s = .next t ∧ step { t with pending := [] } = .next u ∧ u.time.slewLeft = v.toNat
      ∧ u.time.slewDelta = slewDeltaOf (s.reg .tsSlewDelta 0) ∧ u.flag F.tsStat_SLEW_DONE 0 = s.flag F.tsStat_SLEW_DONE 0
      ∧ u.time.whorl = (s.time.whorl + s.time.effInc) % 2 ^ 64)
  ∧ (∀ (v : Word) (s : State), Inv s → s.tick.locked = true → s.time.slewPend = none → s.flag F.tsCtl_HOST_OWN 0 = false →
    ∃ t u, exec (.registerWrite .cc (Reg.tsSlewDelta.offset 0) [v] true) s = .next t ∧ t.reg .tsSlewDelta 0 = v
      ∧ step { t with pending := [] } = .next u ∧ u.time.slewDelta = s.time.slewDelta ∧ u.time.slewLeft = s.time.slewLeft - 1)
  ∧ (∀ (w v : Word) (inc : Nat) (s : State), Inv s → s.tick.locked = true → s.flag F.tsCtl_HOST_OWN 0 = false →
    inc = w.toNat % 256 * 2 ^ 32 + s.time.incShadow →
    (∃ t u x, exec (.tsIncCommit .cc w) s = .next t ∧ exec (.slewStart .cc v) t = .next u ∧ step { u with pending := [] } = .next x
      ∧ x.time.whorl = (s.time.whorl + s.time.effInc) % 2 ^ 64 ∧ x.time.inc = inc ∧ x.time.slewLeft = v.toNat
      ∧ (v ≠ 0 → x.time.rawInc = inc + slewDeltaOf (s.reg .tsSlewDelta 0)) ∧ (v = 0 → x.time.rawInc = inc))
    ∧ (∃ t u x, exec (.slewStart .cc v) s = .next t ∧ exec (.tsIncCommit .cc w) t = .next u ∧ step { u with pending := [] } = .next x
      ∧ x.time.whorl = (s.time.whorl + s.time.effInc) % 2 ^ 64 ∧ x.time.inc = inc ∧ x.time.slewLeft = v.toNat
      ∧ (v ≠ 0 → x.time.rawInc = inc + slewDeltaOf (s.reg .tsSlewDelta 0)) ∧ (v = 0 → x.time.rawInc = inc)))
  ∧ ∀ (w : Word) (s : State), Inv s → s.tick.locked = true → s.flag F.tsCtl_HOST_OWN 0 = false → s.time.slewLeft = 1 → s.time.slewPend = none →
    (Config.incMin : Int) ≤ s.time.inc + s.time.slewDelta → (s.time.inc : Int) + s.time.slewDelta ≤ Config.incMax →
    ∃ t u, exec (.tsIncCommit .cc w) s = .next t ∧ step { t with pending := [] } = .next u ∧ u.time.slewLeft = 0
      ∧ (u.time.whorl : Int) = (s.time.whorl + (s.time.inc + s.time.slewDelta)) % 2 ^ 64
      ∧ u.time.inc = w.toNat % 256 * 2 ^ 32 + s.time.incShadow

/-- For packets of the groups' samples ECHO, PORT_CONFIG, CB_RETIRE, TIME_SET, FW_ACTIVATE and KS_WRITE that firmware consumes, with room for a reply. The next state is the present one with one reply: VERSION_UNSUPPORTED outside the version range; else OPCODE_UNKNOWN in recovery mode for an opcode that boot code does not answer; else LENGTH_INVALID; else HEADER_INVALID; else NOT_PERMITTED for a secure-only opcode on a non-secure channel; else TAG_IN_USE; else QUEUE_FULL. With 64 replies waiting there is no reply. -/
def Obligations.FaultyHeadersAreRefused : Prop :=
  ∀ (c : Packet → Instr) (op : Nat) (p : Packet) (no : Status → State → Prop) (s : State),
    (c, op) ∈ [(Instr.echo, 0x0002), (.portConfig, 0x0100), (.cbRetire, 0x0508), (.timeSet, 0x0901), (.fwActivate, 0x0C01), (.ksWrite, 0x0D00)] →
    s.fwRunning = true → s.boot.switchAt = none → s.shadow = none → s.takenOf op p = none →
    no = (fun e s => exec (c p) s = .next (s.reply (mkReply s op p (s.incarnation p.chan) e []))) →
    (64 ≤ s.waiting p.chan → ∃ t, exec (c p) s = .next t ∧ t.pkts = s.pkts ∧ t.regs = s.regs)
    ∧ (s.waiting p.chan < 64 →
      (s.versionOk p.version = false → no .versionUnsupported s)
      ∧ (s.versionOk p.version = true →
        (s.flag F.protBoot_RECOVERY 0 = true → op ∉ [0x0002, 0x0C01] → no .opcodeUnknown s)
        ∧ (s.flag F.protBoot_RECOVERY 0 = false ∨ op ∈ [0x0002, 0x0C01] →
          (496 < p.params.length ∨ p.params.length % 4 ≠ 0 ∨ lengthBad op p.params = true → no .lengthInvalid s)
          ∧ (p.params.length ≤ 496 → p.params.length % 4 = 0 → lengthBad op p.params = false →
            (p.flags ≠ 0 ∨ p.zero ≠ 0 → no .headerInvalid s)
            ∧ (p.flags = 0 → p.zero = 0 →
              (3 < p.chan → op ∈ [0x0508, 0x0C01, 0x0D00] → no .notPermitted s)
              ∧ (p.chan ≤ 3 ∨ op ∉ [0x0508, 0x0C01, 0x0D00] →
                ((∃ j, j ∈ s.pkts.journal ∧ j.chan = p.chan ∧ j.tag = p.tag) → no .tagInUse s)
                ∧ ((∀ j, j ∈ s.pkts.journal → j.chan = p.chan → j.tag ≠ p.tag) →
                  32 ≤ (s.pkts.journal.filter fun j => j.chan = p.chan).length → no .queueFull s)))))))

/-- For every list of fields of any kinds, each with a value that its kind admits (numbers up to 64 bits, wider fields, signed numbers sign-extended to their bytes, addresses, flags, DMA references): the block that holds them, read by the same layout, gives exactly these values, is not at fault, and has the size of the block; so no bit of a field is dropped and no field overlaps another. -/
def Obligations.ParameterBlocksRoundTrip : Prop :=
  ∀ fs : List (Ty × Nat), (∀ t v, (t, v) ∈ fs → match t with
      | .u b => b ≤ 64 ∧ v < 2 ^ b
      | .wide b => v < 2 ^ b
      | .s b => 1 ≤ b ∧ b ≤ 64 ∧ v < 2 ^ (8 * numBytes b) ∧ ofSigned (8 * numBytes b) (toSigned b v) = v
      | .mac => v < 2 ^ 48
      | .ip4 => v < 2 ^ 32
      | .ip6 => v < 2 ^ 128
      | .flag => v < 2
      | .dma => v < 2 ^ 97) →
    parseBlock (fs.map (·.1)) (emitBlock fs) = { vals := fs.map (·.2), bad := false, size := (emitBlock fs).length }
end

