-- ==== Sys2Proof/Laws/Table.lean ====
section
/-!
SUPPORT. Sparse tables: reading after writing, and that every table operation keeps the canonical form.
-/
namespace Sys2Proof.Machine
namespace Table
variable {V : Type}

theorem sortedFrom_mono {lo lo' : Nat} {t : Table V} (h : lo' ≤ lo) (ht : sortedFrom lo t = true) : sortedFrom lo' t = true := by
  cases t with
  | nil => rfl
  | cons e t => simp only [sortedFrom, Bool.and_eq_true, decide_eq_true_eq] at ht ⊢; exact ⟨by omega, ht.2⟩

/-- An index below all those listed holds its reset contents. -/
theorem get_of_lt {d : Nat → V} {t : Table V} {lo k : Nat} (ht : sortedFrom lo t = true) (hk : k < lo) : get d t k = d k := by
  cases t with
  | nil => rfl
  | cons e t =>
    simp only [sortedFrom, Bool.and_eq_true, decide_eq_true_eq] at ht
    simp only [get]
    rw [if_neg (by omega), if_pos (by omega)]

theorem get_insert_self {d : Nat → V} (t : Table V) (k : Nat) (v : V) : get d (insert t k v) k = v := by
  induction t with
  | nil => simp [insert, get]
  | cons e t ih =>
    simp only [insert]
    split
    · simp [get]
    · split
      · simp [get]
      · simp only [get]; rw [if_neg (by assumption), if_neg (by assumption)]; exact ih

theorem get_insert_ne {d : Nat → V} (t : Table V) {k j : Nat} (v : V) (h : j ≠ k) : get d (insert t k v) j = get d t j := by
  induction t with
  | nil => simp only [insert, get]; rw [if_neg (by omega)]; split <;> rfl
  | cons e t ih =>
    simp only [insert]
    split
    · rename_i hk; simp only [get, hk, if_neg (Ne.symm h)]
    · split
      · simp only [get]
        rw [if_neg (by omega)]
        by_cases hj : j < k
        · rw [if_pos hj, if_neg (by omega), if_pos (by omega)]
        · rw [if_neg hj]
      · simp only [get]; rw [ih]

theorem get_erase_self {d : Nat → V} {lo : Nat} {t : Table V} (ht : sortedFrom lo t = true) (k : Nat) : get d (erase t k) k = d k := by
  induction t generalizing lo with
  | nil => rfl
  | cons e t ih =>
    simp only [sortedFrom, Bool.and_eq_true, decide_eq_true_eq] at ht
    simp only [erase]
    split
    · exact get_of_lt ht.2 (by omega)
    · split
      · simp only [get]; rw [if_neg (by assumption), if_pos (by assumption)]
      · simp only [get]; rw [if_neg (by assumption), if_neg (by assumption)]; exact ih ht.2

theorem get_erase_ne {d : Nat → V} {lo : Nat} {t : Table V} (ht : sortedFrom lo t = true) {k j : Nat} (h : j ≠ k) :
    get d (erase t k) j = get d t j := by
  induction t generalizing lo with
  | nil => rfl
  | cons e t ih =>
    simp only [sortedFrom, Bool.and_eq_true, decide_eq_true_eq] at ht
    simp only [erase]
    split
    · simp only [get]
      rw [if_neg (by omega)]
      by_cases hj : j < e.1
      · rw [if_pos (by omega)]; exact get_of_lt ht.2 (by omega)
      · rw [if_neg (by omega)]
    · split
      · rfl
      · simp only [get]; rw [ih ht.2]

theorem sorted_insert {lo : Nat} {t : Table V} (ht : sortedFrom lo t = true) {k : Nat} (v : V) (hk : lo ≤ k) :
    sortedFrom lo (insert t k v) = true := by
  induction t generalizing lo with
  | nil => simp [insert, sortedFrom, hk]
  | cons e t ih =>
    simp only [sortedFrom, Bool.and_eq_true, decide_eq_true_eq] at ht
    simp only [insert]
    split
    · subst_vars; simp [sortedFrom, ht.1, ht.2]
    · split
      · simp only [sortedFrom, Bool.and_eq_true, decide_eq_true_eq]; exact ⟨hk, by omega, ht.2⟩
      · simp only [sortedFrom, Bool.and_eq_true, decide_eq_true_eq]; exact ⟨ht.1, ih ht.2 (by omega)⟩

theorem sorted_erase {lo : Nat} {t : Table V} (ht : sortedFrom lo t = true) (k : Nat) : sortedFrom lo (erase t k) = true := by
  induction t generalizing lo with
  | nil => rfl
  | cons e t ih =>
    simp only [sortedFrom, Bool.and_eq_true, decide_eq_true_eq] at ht
    simp only [erase]
    split
    · exact sortedFrom_mono (by omega) ht.2
    · split
      · simp only [sortedFrom, Bool.and_eq_true, decide_eq_true_eq]; exact ht
      · simp only [sortedFrom, Bool.and_eq_true, decide_eq_true_eq]; exact ⟨ht.1, ih ht.2⟩

theorem sorted_filter {lo : Nat} {t : Table V} (ht : sortedFrom lo t = true) (p : Nat × V → Bool) : sortedFrom lo (t.filter p) = true := by
  induction t generalizing lo with
  | nil => rfl
  | cons e t ih =>
    simp only [sortedFrom, Bool.and_eq_true, decide_eq_true_eq] at ht
    simp only [List.filter_cons]
    split
    · simp only [sortedFrom, Bool.and_eq_true, decide_eq_true_eq]; exact ⟨ht.1, ih ht.2⟩
    · exact sortedFrom_mono (by omega) (ih ht.2)

/-- A filtered table holds the reset contents where the filter drops an entry. -/
theorem get_filter {d : Nat → V} {lo : Nat} {t : Table V} (ht : sortedFrom lo t = true) (p : Nat × V → Bool) (k : Nat) :
    get d (t.filter p) k = if p (k, get d t k) then get d t k else d k := by
  induction t generalizing lo with
  | nil => cases h : p (k, d k) <;> simp [get, h]
  | cons e t ih =>
    obtain ⟨j, v⟩ := e
    simp only [sortedFrom, Bool.and_eq_true, decide_eq_true_eq] at ht
    have hsub := ih ht.2
    by_cases hjk : j = k
    · subst hjk
      simp only [get, List.filter_cons, if_true]
      split
      · simp [get]
      · exact get_of_lt (sorted_filter ht.2 p) (by omega)
    · by_cases hlt : k < j
      · have hd : get d t k = d k := get_of_lt ht.2 (by omega)
        rw [hd] at hsub
        simp only [List.filter_cons, get, if_neg hjk, if_pos hlt]
        split
        · simp [get, hjk, hlt]
        · rw [hsub]
      · simp only [List.filter_cons, get, if_neg hjk, if_neg hlt]
        split
        · simp only [get, if_neg hjk, if_neg hlt]; exact hsub
        · exact hsub

theorem get_congr {d d' : Nat → V} (t : Table V) {k : Nat} (h : d k = d' k) : get d t k = get d' t k := by
  induction t with
  | nil => exact h
  | cons e t ih => simp only [get, h, ih]

section
variable [DecidableEq V]

theorem noDefault_insert {d : Nat → V} {t : Table V} (ht : noDefault d t = true) {k : Nat} {v : V} (hv : v ≠ d k) :
    noDefault d (insert t k v) = true := by
  induction t with
  | nil => simp [insert, noDefault, hv]
  | cons e t ih =>
    simp only [noDefault, List.all_cons, Bool.and_eq_true] at ht ih ⊢
    simp only [insert]
    split
    · simp [hv, ht.2]
    · split
      · simp only [List.all_cons, Bool.and_eq_true]; exact ⟨by simp [hv], ht⟩
      · simp only [List.all_cons, Bool.and_eq_true]; exact ⟨ht.1, ih ht.2⟩

theorem noDefault_erase {d : Nat → V} {t : Table V} (ht : noDefault d t = true) (k : Nat) : noDefault d (erase t k) = true := by
  induction t with
  | nil => rfl
  | cons e t ih =>
    simp only [noDefault, List.all_cons, Bool.and_eq_true] at ht ih ⊢
    simp only [erase]
    split
    · exact ht.2
    · split
      · simp only [List.all_cons, Bool.and_eq_true]; exact ht
      · simp only [List.all_cons, Bool.and_eq_true]; exact ⟨ht.1, ih ht.2⟩

theorem noDefault_filter {d : Nat → V} {t : Table V} (ht : noDefault d t = true) (p : Nat × V → Bool) :
    noDefault d (t.filter p) = true := by
  simp only [noDefault, List.all_eq_true, List.mem_filter] at ht ⊢
  exact fun x hx => ht x hx.1

theorem wf_nil (d : Nat → V) : wf d [] = true := rfl

/-- A write keeps the canonical form. -/
theorem wf_set {d : Nat → V} {t : Table V} (ht : wf d t = true) (k : Nat) (v : V) : wf d (set d t k v) = true := by
  simp only [wf, Bool.and_eq_true] at ht ⊢
  simp only [set]
  split
  · exact ⟨sorted_erase ht.1 k, noDefault_erase ht.2 k⟩
  · exact ⟨sorted_insert ht.1 v (by omega), noDefault_insert ht.2 (by assumption)⟩

/-- Dropping entries keeps the canonical form. -/
theorem wf_filter {d : Nat → V} {t : Table V} (ht : wf d t = true) (p : Nat × V → Bool) : wf d (t.filter p) = true := by
  simp only [wf, Bool.and_eq_true] at ht ⊢
  exact ⟨sorted_filter ht.1 p, noDefault_filter ht.2 p⟩

/-- Only the reset contents of the index written matter to a write. -/
theorem set_congr {d d' : Nat → V} (t : Table V) {k : Nat} (v : V) (h : d k = d' k) : set d t k v = set d' t k v := by
  simp only [set, h]

/-- A read after a write of the same index gives the value written. -/
theorem get_set_self {d : Nat → V} {t : Table V} (ht : wf d t = true) (k : Nat) (v : V) : get d (set d t k v) k = v := by
  simp only [wf, Bool.and_eq_true] at ht
  simp only [set]
  split
  · rw [get_erase_self ht.1]; exact (by assumption : v = d k).symm
  · exact get_insert_self t k v

/-- A write leaves every other index alone. -/
theorem get_set_ne {d : Nat → V} {t : Table V} (ht : wf d t = true) {k j : Nat} (v : V) (h : j ≠ k) :
    get d (set d t k v) j = get d t j := by
  simp only [wf, Bool.and_eq_true] at ht
  simp only [set]
  split
  · exact get_erase_ne ht.1 h
  · exact get_insert_ne t v h

end
end Table
namespace OTable
variable {V : Type}

/-- An entry put at an index is found there. -/
theorem get?_insert_self (t : OTable V) (k : Nat) (v : V) : get? (Table.insert t k v) k = some v := by
  induction t with
  | nil => simp [Table.insert, get?]
  | cons e t ih =>
    simp only [Table.insert]
    split
    · simp [get?]
    · split
      · simp [get?]
      · simp only [get?]; rw [if_neg (by assumption), if_neg (by assumption)]; exact ih

/-- An entry put at one index leaves every other index alone. -/
theorem get?_insert_ne (t : OTable V) {k j : Nat} (v : V) (h : j ≠ k) : get? (Table.insert t k v) j = get? t j := by
  induction t with
  | nil => simp only [Table.insert, get?]; rw [if_neg (by omega)]; split <;> rfl
  | cons e t ih =>
    simp only [Table.insert]
    split
    · rename_i hk; simp only [get?, hk, if_neg (Ne.symm h)]
    · split
      · simp only [get?]
        rw [if_neg (by omega)]
        by_cases hj : j < k
        · rw [if_pos hj, if_neg (by omega), if_pos (by omega)]
        · rw [if_neg hj]
      · simp only [get?]; rw [ih]

end OTable
end Sys2Proof.Machine
end

