-- ==== Sys2Proof/Laws/Regs.lean ====
section
/-!
SUPPORT. Registers and their fields: each register instance has a place of its own in the register table, a read after a write
gives the value written, and every other register and every other part of the state stays.
-/
set_option Elab.async false
namespace Sys2Proof.Machine

theorem reg_ctorIdx_lt (r : Reg) : r.ctorIdx < 460 := by cases r <;> decide

theorem reg_all_ofNat : ∀ k : Fin 460, Reg.all[k.val]? = some (Reg.ofNat k.val) := by decide +kernel

/-- The register list is in the order of the constructors. -/
theorem reg_all_ctorIdx (r : Reg) : Reg.all[r.ctorIdx]? = some r := by
  rw [reg_all_ofNat ⟨r.ctorIdx, reg_ctorIdx_lt r⟩, Reg.ofNat_ctorIdx]

theorem reg_ctorIdx_inj {r q : Reg} (h : r.ctorIdx = q.ctorIdx) : r = q := by
  rw [← Reg.ofNat_ctorIdx r, h, Reg.ofNat_ctorIdx]

theorem regKey_mod (r : Reg) (i : Nat) : regKey r i % 512 = r.ctorIdx := by
  have := reg_ctorIdx_lt r
  simp only [regKey]; omega

theorem regKey_div (r : Reg) (i : Nat) : regKey r i / 512 = i := by
  have := reg_ctorIdx_lt r
  simp only [regKey]; omega

theorem regKey_inj {r q : Reg} {i j : Nat} (h : regKey r i = regKey q j) : r = q ∧ i = j := by
  constructor
  · exact reg_ctorIdx_inj (by rw [← regKey_mod r i, h, regKey_mod])
  · rw [← regKey_div r i, h, regKey_div]

theorem regDefault_regKey (r : Reg) (i : Nat) : regDefault (regKey r i) = r.resetAt i := by
  simp only [regDefault, regKey_mod, regKey_div, reg_all_ctorIdx]

/-- A register's read, in terms of the one table of reset contents. -/
theorem reg_eq (s : State) (r : Reg) (i : Nat) : s.reg r i = Table.get regDefault s.regs (regKey r i) :=
  Table.get_congr _ (regDefault_regKey r i).symm

/-- A register's write, in terms of the one table of reset contents. -/
theorem regs_setReg (s : State) (r : Reg) (i : Nat) (v : Word) : (s.setReg r i v).regs = Table.set regDefault s.regs (regKey r i) v := by
  simp only [State.setReg]
  exact Table.set_congr (d := fun _ => r.resetAt i) _ v (regDefault_regKey r i).symm

/-- A write keeps the register table canonical. -/
@[simp] theorem wf_setReg {s : State} (h : Table.wf regDefault s.regs = true) (r : Reg) (i : Nat) (v : Word) :
    Table.wf regDefault (s.setReg r i v).regs = true := by
  rw [regs_setReg]; exact Table.wf_set h _ v

/-- A register holds what was written to it. -/
theorem reg_setReg_self {s : State} (h : Table.wf regDefault s.regs = true) (r : Reg) (i : Nat) (v : Word) :
    (s.setReg r i v).reg r i = v := by
  rw [reg_eq, regs_setReg]; exact Table.get_set_self h _ v

/-- A write leaves every other register instance alone. -/
theorem reg_setReg_ne {s : State} (h : Table.wf regDefault s.regs = true) {r q : Reg} {i j : Nat} (v : Word)
    (hne : ¬(q = r ∧ j = i)) : (s.setReg r i v).reg q j = s.reg q j := by
  rw [reg_eq, reg_eq, regs_setReg]
  exact Table.get_set_ne h v fun e => hne (regKey_inj e)

/-- The bits of a number with a field replaced. -/
theorem testBit_setBits (x lo w v k : Nat) (hw : 0 < w) :
    (setBits x (lo + w - 1) lo v).testBit k = if lo ≤ k ∧ k < lo + w then v.testBit (k - lo) else x.testBit k := by
  have e1 : lo + w - 1 - lo + 1 = w := by omega
  have e2 : lo + w - 1 + 1 = lo + w := by omega
  have e : setBits x (lo + w - 1) lo v = 2 ^ lo * (2 ^ w * (x / 2 ^ (lo + w)) + v % 2 ^ w) + x % 2 ^ lo := by
    simp only [setBits, e1, e2, Nat.pow_add]; ring
  rw [e, Nat.testBit_two_pow_mul_add _ (Nat.mod_lt _ (Nat.two_pow_pos lo))]
  split
  · rw [if_neg (by omega), Nat.testBit_mod_two_pow, decide_eq_true (by assumption), Bool.true_and]
  · rw [Nat.testBit_two_pow_mul_add _ (Nat.mod_lt _ (Nat.two_pow_pos w))]
    split
    · rw [if_pos (by omega), Nat.testBit_mod_two_pow, decide_eq_true (by assumption), Bool.true_and]
    · rw [if_neg (by omega), Nat.testBit_div_two_pow]; congr 1; omega

/-- A number with a field replaced holds the new value there. -/
theorem setBits_field (x lo w v : Nat) (hw : 0 < w) : (setBits x (lo + w - 1) lo v >>> lo) % 2 ^ w = v % 2 ^ w := by
  apply Nat.eq_of_testBit_eq; intro k
  simp only [Nat.testBit_mod_two_pow, Nat.testBit_shiftRight, testBit_setBits x lo w v _ hw]
  by_cases hk : k < w
  · rw [if_pos (by omega)]; congr 2; omega
  · simp [hk]

/-- Outside the field replaced, a number keeps its fields. -/
theorem setBits_other (x lo w v lo' w' : Nat) (hw : 0 < w) (h : lo' + w' ≤ lo ∨ lo + w ≤ lo') :
    (setBits x (lo + w - 1) lo v >>> lo') % 2 ^ w' = (x >>> lo') % 2 ^ w' := by
  apply Nat.eq_of_testBit_eq; intro k
  simp only [Nat.testBit_mod_two_pow, Nat.testBit_shiftRight, testBit_setBits x lo w v _ hw]
  by_cases hk : k < w'
  · rw [if_neg (by omega)]
  · simp [hk]

theorem setBits_lt {x lo w v : Nat} (hx : x < 2 ^ 32) (hw : 0 < w) (h : lo + w ≤ 32) : setBits x (lo + w - 1) lo v < 2 ^ 32 := by
  apply Nat.lt_pow_two_of_testBit; intro k hk
  rw [testBit_setBits x lo w v k hw, if_neg (by omega)]
  exact Nat.testBit_lt_two_pow (Nat.lt_of_lt_of_le hx (Nat.pow_le_pow_right (by omega) hk))

theorem toNat_put {f : Fld} (hf : 0 < f.width ∧ f.lo + f.width ≤ 32) (w : Word) (v : Nat) : (f.put w v).toNat = setBits w.toNat (f.lo + f.width - 1) f.lo v := by
  simp only [Fld.put, word, BitVec.toNat_ofNat]
  exact Nat.mod_eq_of_lt (setBits_lt w.isLt hf.1 hf.2)

/-- A field holds what was put into it. -/
theorem fld_setFld_self {s : State} (h : Table.wf regDefault s.regs = true) {f : Fld} (hf : 0 < f.width ∧ f.lo + f.width ≤ 32) (i v : Nat) :
    (s.setFld f i v).fld f i = v % 2 ^ f.width := by
  simp only [State.fld, State.setFld, reg_setReg_self h, toNat_put hf]
  exact setBits_field _ _ _ _ hf.1

/-- A field stays when another field of its register is put. -/
theorem fld_setFld_other {s : State} (h : Table.wf regDefault s.regs = true) {f g : Fld} (hf : 0 < f.width ∧ f.lo + f.width ≤ 32) (i v : Nat) (hr : g.reg = f.reg)
    (hb : g.lo + g.width ≤ f.lo ∨ f.lo + f.width ≤ g.lo) : (s.setFld f i v).fld g i = s.fld g i := by
  simp only [State.fld, State.setFld, hr, reg_setReg_self h, toNat_put hf]
  exact setBits_other _ _ _ _ _ _ hf.1 hb

/-- A field stays when another register, or another instance, is put. -/
theorem fld_setFld_ne {s : State} (h : Table.wf regDefault s.regs = true) {f g : Fld} (i j v : Nat) (hne : ¬(g.reg = f.reg ∧ j = i)) :
    (s.setFld f i v).fld g j = s.fld g j := by
  simp only [State.fld, State.setFld, reg_setReg_ne h _ hne]

@[simp] theorem wf_setFld {s : State} (h : Table.wf regDefault s.regs = true) (f : Fld) (i v : Nat) :
    Table.wf regDefault (s.setFld f i v).regs = true := wf_setReg h _ _ _

@[simp] theorem wf_raise {s : State} (h : Table.wf regDefault s.regs = true) (f : Fld) (i : Nat) :
    Table.wf regDefault (s.raise f i).regs = true := wf_setReg h _ _ _

theorem fld_raise_self {s : State} (h : Table.wf regDefault s.regs = true) {f : Fld} (hf : 0 < f.width ∧ f.lo + f.width ≤ 32) (i : Nat) :
    (s.raise f i).fld f i = 1 := by
  have hlt : 1 < 2 ^ f.width := Nat.one_lt_two_pow (by have := hf.1; omega)
  exact (fld_setFld_self h hf i 1).trans (Nat.mod_eq_of_lt hlt)

/-- A raised flag is set. -/
theorem flag_raise_self {s : State} (h : Table.wf regDefault s.regs = true) {f : Fld} (hf : 0 < f.width ∧ f.lo + f.width ≤ 32) (i : Nat) :
    (s.raise f i).flag f i = true := by
  simp only [State.flag, fld_raise_self h hf]; decide

@[simp] theorem wf_raiseBits {s : State} (h : Table.wf regDefault s.regs = true) (r : Reg) (i b : Nat) :
    Table.wf regDefault (s.raiseBits r i b).regs = true := wf_setReg h _ _ _

theorem fld_raise_other {s : State} (h : Table.wf regDefault s.regs = true) {f g : Fld} (hf : 0 < f.width ∧ f.lo + f.width ≤ 32) (i : Nat)
    (hr : g.reg = f.reg) (hb : g.lo + g.width ≤ f.lo ∨ f.lo + f.width ≤ g.lo) : (s.raise f i).fld g i = s.fld g i :=
  fld_setFld_other h hf i 1 hr hb

theorem fld_raise_ne {s : State} (h : Table.wf regDefault s.regs = true) {f g : Fld} (i j : Nat) (hne : ¬(g.reg = f.reg ∧ j = i)) :
    (s.raise f i).fld g j = s.fld g j := fld_setFld_ne h i j 1 hne

theorem reg_raise_ne {s : State} (h : Table.wf regDefault s.regs = true) {f : Fld} {q : Reg} {i j : Nat} (hne : ¬(q = f.reg ∧ j = i)) :
    (s.raise f i).reg q j = s.reg q j := reg_setReg_ne h _ hne

theorem reg_setFld_ne {s : State} (h : Table.wf regDefault s.regs = true) {f : Fld} {q : Reg} {i j : Nat} (v : Nat) (hne : ¬(q = f.reg ∧ j = i)) :
    (s.setFld f i v).reg q j = s.reg q j := reg_setReg_ne h _ hne

end Sys2Proof.Machine
end

