-- ==== Sys2Proof/Laws/Keeps.lean ====
section
/-!
SUPPORT. That an operation keeps what no command may lose and changes nothing but what it names (Keeps): the updates of single parts of the
state, choices and folds. The files Keeps<Module>.lean hold one lemma for each operation and meaning of the module.
-/
set_option Elab.async false
namespace Sys2Proof.Machine
open Sys2Proof

/-- One change is within another. -/
def Change.le (a b : Change) : Bool := a.parts.all b.has && a.regs.all b.may && (!a.anyReg || b.anyReg)

theorem Change.has_of_le {a b : Change} {p : Part} (h : a.le b = true) (hp : a.has p = true) : b.has p = true := by
  simp only [Change.le, Bool.and_eq_true, List.all_eq_true] at h
  exact h.1.1 p (List.elem_iff.1 hp)

theorem Change.may_of_le {a b : Change} {r : Reg} (h : a.le b = true) (hr : a.may r = true) : b.may r = true := by
  simp only [Change.le, Bool.and_eq_true, List.all_eq_true, Bool.or_eq_true, Bool.not_eq_true'] at h
  simp only [Change.may, Bool.or_eq_true] at hr ⊢
  rcases hr with hr | hr
  · left; rcases h.2 with h2 | h2
    · exact absurd (hr.symm.trans h2) (by decide)
    · exact h2
  · have := h.1.2 r (List.elem_iff.1 hr)
    simpa only [Change.may, Bool.or_eq_true] using this

theorem Change.any_of_le {a b : Change} (h : a.le b = true) (ha : a.anyReg = true) : b.anyReg = true := by
  simp only [Change.le, Bool.and_eq_true, Bool.or_eq_true, Bool.not_eq_true'] at h
  rcases h.2 with h2 | h2
  · exact absurd (ha.symm.trans h2) (by decide)
  · exact h2

theorem Change.may_of_any {b : Change} {r : Reg} (h : b.anyReg = true) : b.may r = true := by simp [Change.may, h]

/-- The same of a register that is chosen between two. -/
theorem Change.may_ite {a b : Change} {c : Prop} [Decidable c] {r q : Reg} (h : a.le b = true) (hr : a.may r = true) (hq : a.may q = true) :
    b.may (if c then r else q) = true := by
  split
  · exact Change.may_of_le h hr
  · exact Change.may_of_le h hq

theorem Change.may_ite_fld {a b : Change} {c : Prop} [Decidable c] {f g : Fld} (h : a.le b = true) (hr : a.may f.reg = true)
    (hq : a.may g.reg = true) : b.may (if c then f else g).reg = true := by
  split
  · exact Change.may_of_le h hr
  · exact Change.may_of_le h hq

theorem Change.le_trans {a b c : Change} (h2 : b.le c = true) (h1 : a.le b = true) : a.le c = true := by
  have h := h1
  simp only [Change.le, Bool.and_eq_true, List.all_eq_true, Bool.or_eq_true, Bool.not_eq_true'] at h ⊢
  refine ⟨⟨fun p hp => Change.has_of_le h2 (h.1.1 p hp), fun r hr => Change.may_of_le h2 (h.1.2 r hr)⟩, ?_⟩
  rcases h.2 with h3 | h3
  · exact Or.inl h3
  · right
    simp only [Change.le, Bool.and_eq_true, Bool.or_eq_true, Bool.not_eq_true'] at h2
    rcases h2.2 with h4 | h4
    · exact absurd (h3.symm.trans h4) (by decide)
    · exact h4

theorem Change.le_self (a : Change) : a.le a = true := by
  simp only [Change.le, Bool.and_eq_true, List.all_eq_true, Bool.or_eq_true, Bool.not_eq_true']
  refine ⟨⟨fun p hp => List.elem_iff.2 hp, fun r hr => ?_⟩, by cases a.anyReg <;> simp⟩
  simp only [Change.may, Bool.or_eq_true]
  exact Or.inr (List.elem_iff.2 hr)

/-- The same of an outcome, an option and an exception that carry a state. -/
structure KeepsOut (m : Change) (k : State) (o : Host.Outcome State Fault Refusal) : Prop where
  keeps : ∀ t, o = .next t → Keeps m k t
structure KeepsOpt (m : Change) (k : State) (o : Option State) : Prop where
  keeps : ∀ t, o = some t → Keeps m k t
structure KeepsOpt1 {α : Type} (m : Change) (k : State) (o : Option (State × α)) : Prop where
  keeps : ∀ t, o = some t → Keeps m k t.1
structure KeepsExc {ε : Type} (m : Change) (k : State) (o : Except ε State) : Prop where
  keeps : ∀ t, o = .ok t → Keeps m k t

variable {M : Change} {k s : State}

/-- A state that meets the invariant keeps its own. -/
theorem keeps_self (h : Inv s) : Keeps M s s :=
  ⟨rfl, rfl, rfl, rfl, Nat.le_refl _, Nat.le_refl _, fun _ h => h, Nat.le_refl _, h.regs, h.slot, h.whorl,
   ⟨fun _ => rfl, fun _ => rfl, fun _ => rfl, fun _ => rfl, fun _ => rfl, fun _ => rfl, fun _ => rfl, fun _ => rfl, fun _ => rfl, fun _ => rfl, fun _ => rfl, fun _ => rfl, fun _ => rfl, fun _ => rfl, fun _ => rfl, fun _ => rfl, fun _ => rfl, fun _ => rfl, fun _ => rfl, fun _ => rfl, rfl, fun _ _ _ => rfl⟩⟩

/-- A state that keeps what must be kept meets the invariant. -/
theorem keeps_inv (h : Keeps M k s) : Inv s := ⟨h.regs, h.slot, h.whorl⟩

/-- A part that either may change or has not. -/
theorem chg {p : Part} {α : Type} {a b : α} (hp : M.has p = true ∨ a = b) (hm : M.has p = false) : a = b := by
  rcases hp with hp | hp
  · exact absurd (hp.symm.trans hm) (by decide)
  · exact hp

/-- Keeps of a state whose parts stand one by one. -/
def KeepsMk (m : Change) (k : State) (vfuses : Fuses) (vtick : Tick) (vtime : TimeEng) (vregs : Table Word) (vmeet : Meet) (vcnt : Counters) (vsamp : Sampling) (vpkts : Packets) (vlog : EventLog) (vboot : Boot) (vks : KeepStore) (vflash : Table Byte) (vpower : Power) (vtab : Tables) (vpath : Path) (vlanes : Lanes) (vhost : HostIf) (vtree : Tree) (vshadow : Option Shadow) (vout : List Out) (vfree : Nat) (vpending : List Instr) : Prop :=
  Keeps m k ⟨vfuses, vtick, vtime, vregs, vmeet, vcnt, vsamp, vpkts, vlog, vboot, vks, vflash, vpower, vtab, vpath, vlanes, vhost, vtree, vshadow, vout, vfree, vpending⟩

theorem keeps_mk {vfuses : Fuses} {vtick : Tick} {vtime : TimeEng} {vregs : Table Word} {vmeet : Meet} {vcnt : Counters} {vsamp : Sampling} {vpkts : Packets} {vlog : EventLog} {vboot : Boot} {vks : KeepStore} {vflash : Table Byte} {vpower : Power} {vtab : Tables} {vpath : Path} {vlanes : Lanes} {vhost : HostIf} {vtree : Tree} {vshadow : Option Shadow} {vout : List Out} {vfree : Nat} {vpending : List Instr} :
    Keeps M k ⟨vfuses, vtick, vtime, vregs, vmeet, vcnt, vsamp, vpkts, vlog, vboot, vks, vflash, vpower, vtab, vpath, vlanes, vhost, vtree, vshadow, vout, vfree, vpending⟩ = KeepsMk M k vfuses vtick vtime vregs vmeet vcnt vsamp vpkts vlog vboot vks vflash vpower vtab vpath vlanes vhost vtree vshadow vout vfree vpending := rfl

/-- Parts change. -/
theorem keeps_upd {vmeet : Meet} {vcnt : Counters} {vsamp : Sampling} {vpkts : Packets} {vboot : Boot} {vks : KeepStore} {vflash : Table Byte} {vpower : Power} {vtab : Tables} {vpath : Path} {vlanes : Lanes} {vhost : HostIf} {vtree : Tree} {vshadow : Option Shadow} {vout : List Out} {vfree : Nat} (h : Keeps M k s)
    (pmeet : M.has .meet = true ∨ vmeet = s.meet := by first | exact Or.inl (Change.has_of_le (by assumption) (by decide +kernel)) | with_reducible exact Or.inr rfl)
    (pcnt : M.has .cnt = true ∨ vcnt = s.cnt := by first | exact Or.inl (Change.has_of_le (by assumption) (by decide +kernel)) | with_reducible exact Or.inr rfl)
    (psamp : M.has .samp = true ∨ vsamp = s.samp := by first | exact Or.inl (Change.has_of_le (by assumption) (by decide +kernel)) | with_reducible exact Or.inr rfl)
    (ppkts : M.has .pkts = true ∨ vpkts = s.pkts := by first | exact Or.inl (Change.has_of_le (by assumption) (by decide +kernel)) | with_reducible exact Or.inr rfl)
    (pboot : M.has .boot = true ∨ vboot = s.boot := by first | exact Or.inl (Change.has_of_le (by assumption) (by decide +kernel)) | with_reducible exact Or.inr rfl)
    (pks : M.has .ks = true ∨ vks = s.ks := by first | exact Or.inl (Change.has_of_le (by assumption) (by decide +kernel)) | with_reducible exact Or.inr rfl)
    (pflash : M.has .flash = true ∨ vflash = s.flash := by first | exact Or.inl (Change.has_of_le (by assumption) (by decide +kernel)) | with_reducible exact Or.inr rfl)
    (ppower : M.has .power = true ∨ vpower = s.power := by first | exact Or.inl (Change.has_of_le (by assumption) (by decide +kernel)) | with_reducible exact Or.inr rfl)
    (ptab : M.has .tab = true ∨ vtab = s.tab := by first | exact Or.inl (Change.has_of_le (by assumption) (by decide +kernel)) | with_reducible exact Or.inr rfl)
    (ppath : M.has .path = true ∨ vpath = s.path := by first | exact Or.inl (Change.has_of_le (by assumption) (by decide +kernel)) | with_reducible exact Or.inr rfl)
    (planes : M.has .lanes = true ∨ vlanes = s.lanes := by first | exact Or.inl (Change.has_of_le (by assumption) (by decide +kernel)) | with_reducible exact Or.inr rfl)
    (phost : M.has .host = true ∨ vhost = s.host := by first | exact Or.inl (Change.has_of_le (by assumption) (by decide +kernel)) | with_reducible exact Or.inr rfl)
    (ptree : M.has .tree = true ∨ vtree = s.tree := by first | exact Or.inl (Change.has_of_le (by assumption) (by decide +kernel)) | with_reducible exact Or.inr rfl)
    (pshadow : M.has .shadow = true ∨ vshadow = s.shadow := by first | exact Or.inl (Change.has_of_le (by assumption) (by decide +kernel)) | with_reducible exact Or.inr rfl)
    (pout : M.has .out = true ∨ vout = s.out := by first | exact Or.inl (Change.has_of_le (by assumption) (by decide +kernel)) | with_reducible exact Or.inr rfl)
    (pfree : M.has .free = true ∨ vfree = s.free := by first | exact Or.inl (Change.has_of_le (by assumption) (by decide +kernel)) | with_reducible exact Or.inr rfl) :
    KeepsMk M k s.fuses s.tick s.time s.regs vmeet vcnt vsamp vpkts s.log vboot vks vflash vpower vtab vpath vlanes vhost vtree vshadow vout vfree s.pending :=
  ⟨h.code, h.grade, h.step, h.keys, h.svnBoot, h.svnFw, h.revoked, h.seq, h.regs, h.slot, h.whorl, 
   ⟨h.within.fuses, h.within.tick, h.within.time, fun hm => (chg pmeet hm).trans (h.within.meet hm), fun hm => (chg pcnt hm).trans (h.within.cnt hm), fun hm => (chg psamp hm).trans (h.within.samp hm), fun hm => (chg ppkts hm).trans (h.within.pkts hm), h.within.log, fun hm => (chg pboot hm).trans (h.within.boot hm), fun hm => (chg pks hm).trans (h.within.ks hm), fun hm => (chg pflash hm).trans (h.within.flash hm), fun hm => (chg ppower hm).trans (h.within.power hm), fun hm => (chg ptab hm).trans (h.within.tab hm), fun hm => (chg ppath hm).trans (h.within.path hm), fun hm => (chg planes hm).trans (h.within.lanes hm), fun hm => (chg phost hm).trans (h.within.host hm), fun hm => (chg ptree hm).trans (h.within.tree hm), fun hm => (chg pshadow hm).trans (h.within.shadow hm), fun hm => (chg pout hm).trans (h.within.out hm), fun hm => (chg pfree hm).trans (h.within.free hm), h.within.queue, h.within.regs⟩⟩

/-- The log changes too, and not its next number. -/
theorem keeps_updl {vmeet : Meet} {vcnt : Counters} {vsamp : Sampling} {vpkts : Packets} {vboot : Boot} {vks : KeepStore} {vflash : Table Byte} {vpower : Power} {vtab : Tables} {vpath : Path} {vlanes : Lanes} {vhost : HostIf} {vtree : Tree} {vshadow : Option Shadow} {vout : List Out} {vfree : Nat} {z0 z1 : List LogRec} {z3 : Bool} {z4 z5 : List (Nat × List Byte)} {z6 : Bool} (h : Keeps M k s)
    (pmeet : M.has .meet = true ∨ vmeet = s.meet := by first | exact Or.inl (Change.has_of_le (by assumption) (by decide +kernel)) | with_reducible exact Or.inr rfl)
    (pcnt : M.has .cnt = true ∨ vcnt = s.cnt := by first | exact Or.inl (Change.has_of_le (by assumption) (by decide +kernel)) | with_reducible exact Or.inr rfl)
    (psamp : M.has .samp = true ∨ vsamp = s.samp := by first | exact Or.inl (Change.has_of_le (by assumption) (by decide +kernel)) | with_reducible exact Or.inr rfl)
    (ppkts : M.has .pkts = true ∨ vpkts = s.pkts := by first | exact Or.inl (Change.has_of_le (by assumption) (by decide +kernel)) | with_reducible exact Or.inr rfl)
    (pboot : M.has .boot = true ∨ vboot = s.boot := by first | exact Or.inl (Change.has_of_le (by assumption) (by decide +kernel)) | with_reducible exact Or.inr rfl)
    (pks : M.has .ks = true ∨ vks = s.ks := by first | exact Or.inl (Change.has_of_le (by assumption) (by decide +kernel)) | with_reducible exact Or.inr rfl)
    (pflash : M.has .flash = true ∨ vflash = s.flash := by first | exact Or.inl (Change.has_of_le (by assumption) (by decide +kernel)) | with_reducible exact Or.inr rfl)
    (ppower : M.has .power = true ∨ vpower = s.power := by first | exact Or.inl (Change.has_of_le (by assumption) (by decide +kernel)) | with_reducible exact Or.inr rfl)
    (ptab : M.has .tab = true ∨ vtab = s.tab := by first | exact Or.inl (Change.has_of_le (by assumption) (by decide +kernel)) | with_reducible exact Or.inr rfl)
    (ppath : M.has .path = true ∨ vpath = s.path := by first | exact Or.inl (Change.has_of_le (by assumption) (by decide +kernel)) | with_reducible exact Or.inr rfl)
    (planes : M.has .lanes = true ∨ vlanes = s.lanes := by first | exact Or.inl (Change.has_of_le (by assumption) (by decide +kernel)) | with_reducible exact Or.inr rfl)
    (phost : M.has .host = true ∨ vhost = s.host := by first | exact Or.inl (Change.has_of_le (by assumption) (by decide +kernel)) | with_reducible exact Or.inr rfl)
    (ptree : M.has .tree = true ∨ vtree = s.tree := by first | exact Or.inl (Change.has_of_le (by assumption) (by decide +kernel)) | with_reducible exact Or.inr rfl)
    (pshadow : M.has .shadow = true ∨ vshadow = s.shadow := by first | exact Or.inl (Change.has_of_le (by assumption) (by decide +kernel)) | with_reducible exact Or.inr rfl)
    (pout : M.has .out = true ∨ vout = s.out := by first | exact Or.inl (Change.has_of_le (by assumption) (by decide +kernel)) | with_reducible exact Or.inr rfl)
    (pfree : M.has .free = true ∨ vfree = s.free := by first | exact Or.inl (Change.has_of_le (by assumption) (by decide +kernel)) | with_reducible exact Or.inr rfl)
    (plog : M.has .log = true := by first | assumption | exact Change.has_of_le (by assumption) (by decide +kernel)) :
    KeepsMk M k s.fuses s.tick s.time s.regs vmeet vcnt vsamp vpkts ⟨z0, z1, s.log.nextSeq, z3, z4, z5, z6⟩ vboot vks vflash vpower vtab vpath vlanes vhost vtree vshadow vout vfree s.pending :=
  ⟨h.code, h.grade, h.step, h.keys, h.svnBoot, h.svnFw, h.revoked, h.seq, h.regs, h.slot, h.whorl, 
   ⟨h.within.fuses, h.within.tick, h.within.time, fun hm => (chg pmeet hm).trans (h.within.meet hm), fun hm => (chg pcnt hm).trans (h.within.cnt hm), fun hm => (chg psamp hm).trans (h.within.samp hm), fun hm => (chg ppkts hm).trans (h.within.pkts hm), fun hm => absurd (plog.symm.trans hm) (by decide), fun hm => (chg pboot hm).trans (h.within.boot hm), fun hm => (chg pks hm).trans (h.within.ks hm), fun hm => (chg pflash hm).trans (h.within.flash hm), fun hm => (chg ppower hm).trans (h.within.power hm), fun hm => (chg ptab hm).trans (h.within.tab hm), fun hm => (chg ppath hm).trans (h.within.path hm), fun hm => (chg planes hm).trans (h.within.lanes hm), fun hm => (chg phost hm).trans (h.within.host hm), fun hm => (chg ptree hm).trans (h.within.tree hm), fun hm => (chg pshadow hm).trans (h.within.shadow hm), fun hm => (chg pout hm).trans (h.within.out hm), fun hm => (chg pfree hm).trans (h.within.free hm), h.within.queue, h.within.regs⟩⟩

/-- The time engine changes too, and not the whorl. -/
theorem keeps_updt {vmeet : Meet} {vcnt : Counters} {vsamp : Sampling} {vpkts : Packets} {vboot : Boot} {vks : KeepStore} {vflash : Table Byte} {vpower : Power} {vtab : Tables} {vpath : Path} {vlanes : Lanes} {vhost : HostIf} {vtree : Tree} {vshadow : Option Shadow} {vout : List Out} {vfree : Nat} {y1 : Bool} {y2 : Nat} {y3 : Nat} {y4 : Option Nat} {y5 : Nat} {y6 : Int} {y7 : Option Nat} {y8 : NetBase} {y9 : NetBase} {y10 : Bool} {y11 : Bool} {y12 : Bool} {y13 : Bool} {y14 : Option Bool} {y15 : Option Bool} {y16 : Bool} {y17 : Bool} {y18 : OTable (List CapRec)} {y19 : OTable Nat} {y20 : OTable EvtRun} {y21 : Option Nat} {y22 : List EvtHeld} {y23 : List EvtHeld} {y24 : Servo} (h : Keeps M k s)
    (pmeet : M.has .meet = true ∨ vmeet = s.meet := by first | exact Or.inl (Change.has_of_le (by assumption) (by decide +kernel)) | with_reducible exact Or.inr rfl)
    (pcnt : M.has .cnt = true ∨ vcnt = s.cnt := by first | exact Or.inl (Change.has_of_le (by assumption) (by decide +kernel)) | with_reducible exact Or.inr rfl)
    (psamp : M.has .samp = true ∨ vsamp = s.samp := by first | exact Or.inl (Change.has_of_le (by assumption) (by decide +kernel)) | with_reducible exact Or.inr rfl)
    (ppkts : M.has .pkts = true ∨ vpkts = s.pkts := by first | exact Or.inl (Change.has_of_le (by assumption) (by decide +kernel)) | with_reducible exact Or.inr rfl)
    (pboot : M.has .boot = true ∨ vboot = s.boot := by first | exact Or.inl (Change.has_of_le (by assumption) (by decide +kernel)) | with_reducible exact Or.inr rfl)
    (pks : M.has .ks = true ∨ vks = s.ks := by first | exact Or.inl (Change.has_of_le (by assumption) (by decide +kernel)) | with_reducible exact Or.inr rfl)
    (pflash : M.has .flash = true ∨ vflash = s.flash := by first | exact Or.inl (Change.has_of_le (by assumption) (by decide +kernel)) | with_reducible exact Or.inr rfl)
    (ppower : M.has .power = true ∨ vpower = s.power := by first | exact Or.inl (Change.has_of_le (by assumption) (by decide +kernel)) | with_reducible exact Or.inr rfl)
    (ptab : M.has .tab = true ∨ vtab = s.tab := by first | exact Or.inl (Change.has_of_le (by assumption) (by decide +kernel)) | with_reducible exact Or.inr rfl)
    (ppath : M.has .path = true ∨ vpath = s.path := by first | exact Or.inl (Change.has_of_le (by assumption) (by decide +kernel)) | with_reducible exact Or.inr rfl)
    (planes : M.has .lanes = true ∨ vlanes = s.lanes := by first | exact Or.inl (Change.has_of_le (by assumption) (by decide +kernel)) | with_reducible exact Or.inr rfl)
    (phost : M.has .host = true ∨ vhost = s.host := by first | exact Or.inl (Change.has_of_le (by assumption) (by decide +kernel)) | with_reducible exact Or.inr rfl)
    (ptree : M.has .tree = true ∨ vtree = s.tree := by first | exact Or.inl (Change.has_of_le (by assumption) (by decide +kernel)) | with_reducible exact Or.inr rfl)
    (pshadow : M.has .shadow = true ∨ vshadow = s.shadow := by first | exact Or.inl (Change.has_of_le (by assumption) (by decide +kernel)) | with_reducible exact Or.inr rfl)
    (pout : M.has .out = true ∨ vout = s.out := by first | exact Or.inl (Change.has_of_le (by assumption) (by decide +kernel)) | with_reducible exact Or.inr rfl)
    (pfree : M.has .free = true ∨ vfree = s.free := by first | exact Or.inl (Change.has_of_le (by assumption) (by decide +kernel)) | with_reducible exact Or.inr rfl)
    (ptime : M.has .time = true := by first | assumption | exact Change.has_of_le (by assumption) (by decide +kernel)) :
    KeepsMk M k s.fuses s.tick ⟨s.time.whorl, y1, y2, y3, y4, y5, y6, y7, y8, y9, y10, y11, y12, y13, y14, y15, y16, y17, y18, y19, y20, y21, y22, y23, y24⟩ s.regs vmeet vcnt vsamp vpkts s.log vboot vks vflash vpower vtab vpath vlanes vhost vtree vshadow vout vfree s.pending :=
  ⟨h.code, h.grade, h.step, h.keys, h.svnBoot, h.svnFw, h.revoked, h.seq, h.regs, h.slot, h.whorl, 
   ⟨h.within.fuses, h.within.tick, fun hm => absurd (ptime.symm.trans hm) (by decide), fun hm => (chg pmeet hm).trans (h.within.meet hm), fun hm => (chg pcnt hm).trans (h.within.cnt hm), fun hm => (chg psamp hm).trans (h.within.samp hm), fun hm => (chg ppkts hm).trans (h.within.pkts hm), h.within.log, fun hm => (chg pboot hm).trans (h.within.boot hm), fun hm => (chg pks hm).trans (h.within.ks hm), fun hm => (chg pflash hm).trans (h.within.flash hm), fun hm => (chg ppower hm).trans (h.within.power hm), fun hm => (chg ptab hm).trans (h.within.tab hm), fun hm => (chg ppath hm).trans (h.within.path hm), fun hm => (chg planes hm).trans (h.within.lanes hm), fun hm => (chg phost hm).trans (h.within.host hm), fun hm => (chg ptree hm).trans (h.within.tree hm), fun hm => (chg pshadow hm).trans (h.within.shadow hm), fun hm => (chg pout hm).trans (h.within.out hm), fun hm => (chg pfree hm).trans (h.within.free hm), h.within.queue, h.within.regs⟩⟩

/-- Both change. -/
theorem keeps_updtl {vmeet : Meet} {vcnt : Counters} {vsamp : Sampling} {vpkts : Packets} {vboot : Boot} {vks : KeepStore} {vflash : Table Byte} {vpower : Power} {vtab : Tables} {vpath : Path} {vlanes : Lanes} {vhost : HostIf} {vtree : Tree} {vshadow : Option Shadow} {vout : List Out} {vfree : Nat} {y1 : Bool} {y2 : Nat} {y3 : Nat} {y4 : Option Nat} {y5 : Nat} {y6 : Int} {y7 : Option Nat} {y8 : NetBase} {y9 : NetBase} {y10 : Bool} {y11 : Bool} {y12 : Bool} {y13 : Bool} {y14 : Option Bool} {y15 : Option Bool} {y16 : Bool} {y17 : Bool} {y18 : OTable (List CapRec)} {y19 : OTable Nat} {y20 : OTable EvtRun} {y21 : Option Nat} {y22 : List EvtHeld} {y23 : List EvtHeld} {y24 : Servo} {z0 z1 : List LogRec} {z3 : Bool} {z4 z5 : List (Nat × List Byte)} {z6 : Bool} (h : Keeps M k s)
    (pmeet : M.has .meet = true ∨ vmeet = s.meet := by first | exact Or.inl (Change.has_of_le (by assumption) (by decide +kernel)) | with_reducible exact Or.inr rfl)
    (pcnt : M.has .cnt = true ∨ vcnt = s.cnt := by first | exact Or.inl (Change.has_of_le (by assumption) (by decide +kernel)) | with_reducible exact Or.inr rfl)
    (psamp : M.has .samp = true ∨ vsamp = s.samp := by first | exact Or.inl (Change.has_of_le (by assumption) (by decide +kernel)) | with_reducible exact Or.inr rfl)
    (ppkts : M.has .pkts = true ∨ vpkts = s.pkts := by first | exact Or.inl (Change.has_of_le (by assumption) (by decide +kernel)) | with_reducible exact Or.inr rfl)
    (pboot : M.has .boot = true ∨ vboot = s.boot := by first | exact Or.inl (Change.has_of_le (by assumption) (by decide +kernel)) | with_reducible exact Or.inr rfl)
    (pks : M.has .ks = true ∨ vks = s.ks := by first | exact Or.inl (Change.has_of_le (by assumption) (by decide +kernel)) | with_reducible exact Or.inr rfl)
    (pflash : M.has .flash = true ∨ vflash = s.flash := by first | exact Or.inl (Change.has_of_le (by assumption) (by decide +kernel)) | with_reducible exact Or.inr rfl)
    (ppower : M.has .power = true ∨ vpower = s.power := by first | exact Or.inl (Change.has_of_le (by assumption) (by decide +kernel)) | with_reducible exact Or.inr rfl)
    (ptab : M.has .tab = true ∨ vtab = s.tab := by first | exact Or.inl (Change.has_of_le (by assumption) (by decide +kernel)) | with_reducible exact Or.inr rfl)
    (ppath : M.has .path = true ∨ vpath = s.path := by first | exact Or.inl (Change.has_of_le (by assumption) (by decide +kernel)) | with_reducible exact Or.inr rfl)
    (planes : M.has .lanes = true ∨ vlanes = s.lanes := by first | exact Or.inl (Change.has_of_le (by assumption) (by decide +kernel)) | with_reducible exact Or.inr rfl)
    (phost : M.has .host = true ∨ vhost = s.host := by first | exact Or.inl (Change.has_of_le (by assumption) (by decide +kernel)) | with_reducible exact Or.inr rfl)
    (ptree : M.has .tree = true ∨ vtree = s.tree := by first | exact Or.inl (Change.has_of_le (by assumption) (by decide +kernel)) | with_reducible exact Or.inr rfl)
    (pshadow : M.has .shadow = true ∨ vshadow = s.shadow := by first | exact Or.inl (Change.has_of_le (by assumption) (by decide +kernel)) | with_reducible exact Or.inr rfl)
    (pout : M.has .out = true ∨ vout = s.out := by first | exact Or.inl (Change.has_of_le (by assumption) (by decide +kernel)) | with_reducible exact Or.inr rfl)
    (pfree : M.has .free = true ∨ vfree = s.free := by first | exact Or.inl (Change.has_of_le (by assumption) (by decide +kernel)) | with_reducible exact Or.inr rfl)
    (ptime : M.has .time = true := by first | assumption | exact Change.has_of_le (by assumption) (by decide +kernel))
    (plog : M.has .log = true := by first | assumption | exact Change.has_of_le (by assumption) (by decide +kernel)) :
    KeepsMk M k s.fuses s.tick ⟨s.time.whorl, y1, y2, y3, y4, y5, y6, y7, y8, y9, y10, y11, y12, y13, y14, y15, y16, y17, y18, y19, y20, y21, y22, y23, y24⟩ s.regs vmeet vcnt vsamp vpkts ⟨z0, z1, s.log.nextSeq, z3, z4, z5, z6⟩ vboot vks vflash vpower vtab vpath vlanes vhost vtree vshadow vout vfree s.pending :=
  ⟨h.code, h.grade, h.step, h.keys, h.svnBoot, h.svnFw, h.revoked, h.seq, h.regs, h.slot, h.whorl, 
   ⟨h.within.fuses, h.within.tick, fun hm => absurd (ptime.symm.trans hm) (by decide), fun hm => (chg pmeet hm).trans (h.within.meet hm), fun hm => (chg pcnt hm).trans (h.within.cnt hm), fun hm => (chg psamp hm).trans (h.within.samp hm), fun hm => (chg ppkts hm).trans (h.within.pkts hm), fun hm => absurd (plog.symm.trans hm) (by decide), fun hm => (chg pboot hm).trans (h.within.boot hm), fun hm => (chg pks hm).trans (h.within.ks hm), fun hm => (chg pflash hm).trans (h.within.flash hm), fun hm => (chg ppower hm).trans (h.within.power hm), fun hm => (chg ptab hm).trans (h.within.tab hm), fun hm => (chg ppath hm).trans (h.within.path hm), fun hm => (chg planes hm).trans (h.within.lanes hm), fun hm => (chg phost hm).trans (h.within.host hm), fun hm => (chg ptree hm).trans (h.within.tree hm), fun hm => (chg pshadow hm).trans (h.within.shadow hm), fun hm => (chg pout hm).trans (h.within.out hm), fun hm => (chg pfree hm).trans (h.within.free hm), h.within.queue, h.within.regs⟩⟩

/-- The schedule changes too, and not the slot count. -/
theorem keeps_updk {vmeet : Meet} {vcnt : Counters} {vsamp : Sampling} {vpkts : Packets} {vboot : Boot} {vks : KeepStore} {vflash : Table Byte} {vpower : Power} {vtab : Tables} {vpath : Path} {vlanes : Lanes} {vhost : HostIf} {vtree : Tree} {vshadow : Option Shadow} {vout : List Out} {vfree : Nat} {x1 x2 : Bool} {x3 : Nat} {x4 : List Held} (h : Keeps M k s)
    (pmeet : M.has .meet = true ∨ vmeet = s.meet := by first | exact Or.inl (Change.has_of_le (by assumption) (by decide +kernel)) | with_reducible exact Or.inr rfl)
    (pcnt : M.has .cnt = true ∨ vcnt = s.cnt := by first | exact Or.inl (Change.has_of_le (by assumption) (by decide +kernel)) | with_reducible exact Or.inr rfl)
    (psamp : M.has .samp = true ∨ vsamp = s.samp := by first | exact Or.inl (Change.has_of_le (by assumption) (by decide +kernel)) | with_reducible exact Or.inr rfl)
    (ppkts : M.has .pkts = true ∨ vpkts = s.pkts := by first | exact Or.inl (Change.has_of_le (by assumption) (by decide +kernel)) | with_reducible exact Or.inr rfl)
    (pboot : M.has .boot = true ∨ vboot = s.boot := by first | exact Or.inl (Change.has_of_le (by assumption) (by decide +kernel)) | with_reducible exact Or.inr rfl)
    (pks : M.has .ks = true ∨ vks = s.ks := by first | exact Or.inl (Change.has_of_le (by assumption) (by decide +kernel)) | with_reducible exact Or.inr rfl)
    (pflash : M.has .flash = true ∨ vflash = s.flash := by first | exact Or.inl (Change.has_of_le (by assumption) (by decide +kernel)) | with_reducible exact Or.inr rfl)
    (ppower : M.has .power = true ∨ vpower = s.power := by first | exact Or.inl (Change.has_of_le (by assumption) (by decide +kernel)) | with_reducible exact Or.inr rfl)
    (ptab : M.has .tab = true ∨ vtab = s.tab := by first | exact Or.inl (Change.has_of_le (by assumption) (by decide +kernel)) | with_reducible exact Or.inr rfl)
    (ppath : M.has .path = true ∨ vpath = s.path := by first | exact Or.inl (Change.has_of_le (by assumption) (by decide +kernel)) | with_reducible exact Or.inr rfl)
    (planes : M.has .lanes = true ∨ vlanes = s.lanes := by first | exact Or.inl (Change.has_of_le (by assumption) (by decide +kernel)) | with_reducible exact Or.inr rfl)
    (phost : M.has .host = true ∨ vhost = s.host := by first | exact Or.inl (Change.has_of_le (by assumption) (by decide +kernel)) | with_reducible exact Or.inr rfl)
    (ptree : M.has .tree = true ∨ vtree = s.tree := by first | exact Or.inl (Change.has_of_le (by assumption) (by decide +kernel)) | with_reducible exact Or.inr rfl)
    (pshadow : M.has .shadow = true ∨ vshadow = s.shadow := by first | exact Or.inl (Change.has_of_le (by assumption) (by decide +kernel)) | with_reducible exact Or.inr rfl)
    (pout : M.has .out = true ∨ vout = s.out := by first | exact Or.inl (Change.has_of_le (by assumption) (by decide +kernel)) | with_reducible exact Or.inr rfl)
    (pfree : M.has .free = true ∨ vfree = s.free := by first | exact Or.inl (Change.has_of_le (by assumption) (by decide +kernel)) | with_reducible exact Or.inr rfl)
    (ptick : M.has .tick = true := by first | assumption | exact Change.has_of_le (by assumption) (by decide +kernel)) :
    KeepsMk M k s.fuses ⟨s.tick.slot, x1, x2, x3, x4⟩ s.time s.regs vmeet vcnt vsamp vpkts s.log vboot vks vflash vpower vtab vpath vlanes vhost vtree vshadow vout vfree s.pending :=
  ⟨h.code, h.grade, h.step, h.keys, h.svnBoot, h.svnFw, h.revoked, h.seq, h.regs, h.slot, h.whorl, 
   ⟨h.within.fuses, fun hm => absurd (ptick.symm.trans hm) (by decide), h.within.time, fun hm => (chg pmeet hm).trans (h.within.meet hm), fun hm => (chg pcnt hm).trans (h.within.cnt hm), fun hm => (chg psamp hm).trans (h.within.samp hm), fun hm => (chg ppkts hm).trans (h.within.pkts hm), h.within.log, fun hm => (chg pboot hm).trans (h.within.boot hm), fun hm => (chg pks hm).trans (h.within.ks hm), fun hm => (chg pflash hm).trans (h.within.flash hm), fun hm => (chg ppower hm).trans (h.within.power hm), fun hm => (chg ptab hm).trans (h.within.tab hm), fun hm => (chg ppath hm).trans (h.within.path hm), fun hm => (chg planes hm).trans (h.within.lanes hm), fun hm => (chg phost hm).trans (h.within.host hm), fun hm => (chg ptree hm).trans (h.within.tree hm), fun hm => (chg pshadow hm).trans (h.within.shadow hm), fun hm => (chg pout hm).trans (h.within.out hm), fun hm => (chg pfree hm).trans (h.within.free hm), h.within.queue, h.within.regs⟩⟩

/-- The time engine changes, and its whorl stays below 2^64. -/
theorem keeps_time (b : TimeEng) (hb : s.time.whorl < 2 ^ 64 → b.whorl < 2 ^ 64) (h : Keeps M k s)
    (ptime : M.has .time = true := by first | assumption | exact Change.has_of_le (by assumption) (by decide +kernel)) :
    Keeps M k { s with time := b } :=
  ⟨h.code, h.grade, h.step, h.keys, h.svnBoot, h.svnFw, h.revoked, h.seq, h.regs, h.slot, hb h.whorl,
   ⟨h.within.fuses, h.within.tick, fun hm => absurd (ptime.symm.trans hm) (by decide), h.within.meet, h.within.cnt, h.within.samp, h.within.pkts, h.within.log, h.within.boot, h.within.ks, h.within.flash, h.within.power, h.within.tab, h.within.path, h.within.lanes, h.within.host, h.within.tree, h.within.shadow, h.within.out, h.within.free, h.within.queue, h.within.regs⟩⟩

/-- The log changes, and its next number does not fall. -/
theorem keeps_log (b : EventLog) (hb : s.log.nextSeq ≤ b.nextSeq) (h : Keeps M k s)
    (plog : M.has .log = true := by first | assumption | exact Change.has_of_le (by assumption) (by decide +kernel)) :
    Keeps M k { s with log := b } :=
  ⟨h.code, h.grade, h.step, h.keys, h.svnBoot, h.svnFw, h.revoked, Nat.le_trans h.seq hb, h.regs, h.slot, h.whorl,
   ⟨h.within.fuses, h.within.tick, h.within.time, h.within.meet, h.within.cnt, h.within.samp, h.within.pkts, fun hm => absurd (plog.symm.trans hm) (by decide), h.within.boot, h.within.ks, h.within.flash, h.within.power, h.within.tab, h.within.path, h.within.lanes, h.within.host, h.within.tree, h.within.shadow, h.within.out, h.within.free, h.within.queue, h.within.regs⟩⟩

/-- The slot count changes, and stays below 2^64. -/
theorem keeps_tick (b : Tick) (hb : b.slot < 2 ^ 64) (h : Keeps M k s)
    (ptick : M.has .tick = true := by first | assumption | exact Change.has_of_le (by assumption) (by decide +kernel)) :
    Keeps M k { s with tick := b } :=
  ⟨h.code, h.grade, h.step, h.keys, h.svnBoot, h.svnFw, h.revoked, h.seq, h.regs, hb, h.whorl,
   ⟨h.within.fuses, fun hm => absurd (ptick.symm.trans hm) (by decide), h.within.time, h.within.meet, h.within.cnt, h.within.samp, h.within.pkts, h.within.log, h.within.boot, h.within.ks, h.within.flash, h.within.power, h.within.tab, h.within.path, h.within.lanes, h.within.host, h.within.tree, h.within.shadow, h.within.out, h.within.free, h.within.queue, h.within.regs⟩⟩

/-- The fuses advance. -/
theorem keeps_fuses (f : Fuses) (hc : f.code = s.fuses.code ∧ f.grade = s.fuses.grade ∧ f.step = s.fuses.step ∧ f.keyDigest = s.fuses.keyDigest)
    (hb : s.fuses.svnMinBoot ≤ f.svnMinBoot) (hf : s.fuses.svnMinFw ≤ f.svnMinFw)
    (hr : ∀ i, s.fuses.revoked.testBit i = true → f.revoked.testBit i = true) (h : Keeps M k s)
    (pfuses : M.has .fuses = true := by first | assumption | exact Change.has_of_le (by assumption) (by decide +kernel)) :
    Keeps M k { s with fuses := f } :=
  ⟨hc.1.trans h.code, hc.2.1.trans h.grade, hc.2.2.1.trans h.step, hc.2.2.2.trans h.keys, Nat.le_trans h.svnBoot hb,
   Nat.le_trans h.svnFw hf, fun i hi => hr i (h.revoked i hi), h.seq, h.regs, h.slot, h.whorl,
   ⟨fun hm => absurd (pfuses.symm.trans hm) (by decide), h.within.tick, h.within.time, h.within.meet, h.within.cnt, h.within.samp, h.within.pkts, h.within.log, h.within.boot, h.within.ks, h.within.flash, h.within.power, h.within.tab, h.within.path, h.within.lanes, h.within.host, h.within.tree, h.within.shadow, h.within.out, h.within.free, h.within.queue, h.within.regs⟩⟩

/-- The register table loses entries. -/
theorem keeps_filter (p : Nat × Word → Bool) (h : Keeps M k s)
    (pany : M.anyReg = true := by first | assumption | exact Change.any_of_le (by assumption) (by decide +kernel)) :
    Keeps M k { s with regs := s.regs.filter p } :=
  ⟨h.code, h.grade, h.step, h.keys, h.svnBoot, h.svnFw, h.revoked, h.seq, Table.wf_filter h.regs p, h.slot, h.whorl,
   ⟨h.within.fuses, h.within.tick, h.within.time, h.within.meet, h.within.cnt, h.within.samp, h.within.pkts, h.within.log, h.within.boot, h.within.ks, h.within.flash, h.within.power, h.within.tab, h.within.path, h.within.lanes, h.within.host, h.within.tree, h.within.shadow, h.within.out, h.within.free, h.within.queue, fun r _ hm => absurd hm (by simp [Change.may, pany])⟩⟩

/-- A register that may change is written. -/
theorem keeps_setReg {r : Reg} {i : Nat} {v : Word} (h : Keeps M k s)
    (hr : M.may r = true := by first | assumption | exact Change.may_of_le (by assumption) (by decide +kernel) | exact Change.may_ite (by assumption) (by decide +kernel) (by decide +kernel) | exact Change.may_ite_fld (by assumption) (by decide +kernel) (by decide +kernel) | exact Change.may_of_any (Change.any_of_le (by assumption) (by decide +kernel))) :
    Keeps M k (s.setReg r i v) :=
  ⟨h.code, h.grade, h.step, h.keys, h.svnBoot, h.svnFw, h.revoked, h.seq, wf_setReg h.regs r i v, h.slot, h.whorl,
   ⟨h.within.fuses, h.within.tick, h.within.time, h.within.meet, h.within.cnt, h.within.samp, h.within.pkts, h.within.log, h.within.boot, h.within.ks, h.within.flash, h.within.power, h.within.tab, h.within.path, h.within.lanes, h.within.host, h.within.tree, h.within.shadow, h.within.out, h.within.free, h.within.queue, fun q j hm => (reg_setReg_ne h.regs v (by rintro ⟨rfl, -⟩; exact absurd (hr.symm.trans hm) (by decide))).trans (h.within.regs q j hm)⟩⟩

theorem keeps_foldl {α : Type} {f : State → α → State} {l : List α} (h : Keeps M k s) (hf : ∀ s a, Keeps M k s → Keeps M k (f s a)) :
    Keeps M k (l.foldl f s) := by
  induction l generalizing s with
  | nil => exact h
  | cons a t ih => exact ih (hf _ _ h)

theorem keeps_foldl_fst {α β : Type} {f : State × β → α → State × β} {l : List α} {x : State × β}
    (h : Keeps M k x.1) (hf : ∀ x a, Keeps M k x.1 → Keeps M k (f x a).1) : Keeps M k (l.foldl f x).1 := by
  induction l generalizing x with
  | nil => exact h
  | cons a t ih => exact ih (hf _ _ h)

theorem keeps_foldl_snd {α β : Type} {f : β × State → α → β × State} {l : List α} {x : β × State}
    (h : Keeps M k x.2) (hf : ∀ x a, Keeps M k x.2 → Keeps M k (f x a).2) : Keeps M k (l.foldl f x).2 := by
  induction l generalizing x with
  | nil => exact h
  | cons a t ih => exact ih (hf _ _ h)

theorem keeps_ite {c : Prop} [Decidable c] {a b : State} (ha : c → Keeps M k a) (hb : ¬c → Keeps M k b) : Keeps M k (if c then a else b) := by
  split
  · exact ha ‹_›
  · exact hb ‹_›

theorem keeps_ite_fst {β : Type} {c : Prop} [Decidable c] {a b : State × β} (ha : c → Keeps M k a.1) (hb : ¬c → Keeps M k b.1) :
    Keeps M k (if c then a else b).1 := by
  split
  · exact ha ‹_›
  · exact hb ‹_›

theorem keeps_ite_snd {β : Type} {c : Prop} [Decidable c] {a b : β × State} (ha : c → Keeps M k a.2) (hb : ¬c → Keeps M k b.2) :
    Keeps M k (if c then a else b).2 := by
  split
  · exact ha ‹_›
  · exact hb ‹_›

theorem keeps_ite_res {c : Prop} [Decidable c] {a b : Res} (ha : c → Keeps M k a.state) (hb : ¬c → Keeps M k b.state) :
    Keeps M k (if c then a else b).state := by
  split
  · exact ha ‹_›
  · exact hb ‹_›

theorem keeps_next (h : Keeps M k s) : KeepsOut M k (.next s) := ⟨by intro t e; cases e; exact h⟩
theorem keeps_fault {f : Fault} : KeepsOut M k (.fault f) := ⟨by intro t e; cases e⟩
theorem keeps_refused {f : Refusal} : KeepsOut M k (.refused f) := ⟨by intro t e; cases e⟩
theorem keeps_some (h : Keeps M k s) : KeepsOpt M k (some s) := ⟨by intro t e; cases e; exact h⟩
theorem keeps_none : KeepsOpt M k none := ⟨by intro t e; cases e⟩
theorem keeps_some1 {α : Type} {a : α} (h : Keeps M k s) : KeepsOpt1 M k (some (s, a)) := ⟨by intro t e; cases e; exact h⟩
theorem keeps_none1 {α : Type} : KeepsOpt1 (α := α) M k none := ⟨by intro t e; cases e⟩
theorem keeps_ok {ε : Type} (h : Keeps M k s) : KeepsExc (ε := ε) M k (.ok s) := ⟨by intro t e; cases e; exact h⟩
theorem keeps_error {ε : Type} {e : ε} : KeepsExc M k (.error e) := ⟨by intro t e; cases e⟩

theorem keeps_ite_out {c : Prop} [Decidable c] {a b : Host.Outcome State Fault Refusal} (ha : c → KeepsOut M k a) (hb : ¬c → KeepsOut M k b) :
    KeepsOut M k (if c then a else b) := by
  split
  · exact ha ‹_›
  · exact hb ‹_›

theorem keeps_eq_fst {α : Type} {x : State × α} {t : State} {a : α} (e : x = (t, a)) (h : Keeps M k x.1) : Keeps M k t := by rw [e] at h; exact h
theorem keeps_eq_snd {α : Type} {x : α × State} {t : State} {a : α} (e : x = (a, t)) (h : Keeps M k x.2) : Keeps M k t := by rw [e] at h; exact h
theorem keeps_eq_snd2 {α β : Type} {x : α × β × State} {t : State} {a : α} {b : β} (e : x = (a, b, t)) (h : Keeps M k x.2.2) : Keeps M k t := by
  rw [e] at h; exact h
theorem keeps_eq_some {x : Option State} {t : State} (e : x = some t) (h : KeepsOpt M k x) : Keeps M k t := h.keeps t e
theorem keeps_eq_some1 {α : Type} {x : Option (State × α)} {t : State} {a : α} (e : x = some (t, a)) (h : KeepsOpt1 M k x) : Keeps M k t := h.keeps _ e
theorem keeps_eq_some1' {α : Type} {x : Option (State × α)} {t : State × α} (e : x = some t) (h : KeepsOpt1 M k x) : Keeps M k t.1 := h.keeps _ e
theorem keeps_eq_ok {ε : Type} {x : Except ε State} {t : State} (e : x = .ok t) (h : KeepsExc M k x) : Keeps M k t := h.keeps _ e
theorem keeps_id (h : Keeps M k s) : Keeps M k (id s) := h
theorem keeps_ite_opt {c : Prop} [Decidable c] {a b : Option State} (ha : c → KeepsOpt M k a) (hb : ¬c → KeepsOpt M k b) :
    KeepsOpt M k (if c then a else b) := by
  split
  · exact ha ‹_›
  · exact hb ‹_›

end Sys2Proof.Machine
end

