-- ==== Sys2Proof/Laws/KeepsOps.lean ====
section
/-!
SUPPORT. Each operation and meaning of Machine/Ops.lean keeps what no command may lose and changes nothing but what it names.
-/
set_option Elab.async false
namespace Sys2Proof.Machine
open Sys2Proof
variable {M : Change} {S0 : State}

theorem keeps_setFld {f : Fld} {i : Nat} {v : Nat} {s : State} (hS : Keeps M S0 s) (hf : M.may f.reg = true := by first | assumption | exact Change.may_of_le (by assumption) (by decide +kernel) | exact Change.may_ite (by assumption) (by decide +kernel) (by decide +kernel) | exact Change.may_ite_fld (by assumption) (by decide +kernel) (by decide +kernel) | exact Change.may_of_any (Change.any_of_le (by assumption) (by decide +kernel))) :
    Keeps M S0 (State.setFld s f i v) := by
  unfold State.setFld
  repeat' (first | with_reducible assumption | with_reducible refine keeps_setReg ?_)

theorem keeps_raise {f : Fld} {i : Nat} {s : State} (hS : Keeps M S0 s) (hf : M.may f.reg = true := by first | assumption | exact Change.may_of_le (by assumption) (by decide +kernel) | exact Change.may_ite (by assumption) (by decide +kernel) (by decide +kernel) | exact Change.may_ite_fld (by assumption) (by decide +kernel) (by decide +kernel) | exact Change.may_of_any (Change.any_of_le (by assumption) (by decide +kernel)))
    (hM : Change.le { parts := [.meet] } M = true := by first | assumption | exact Change.le_trans (by assumption) (by decide +kernel)) :
    Keeps M S0 (State.raise s f i) := by
  unfold State.raise
  dsimp only
  repeat' (first | with_reducible assumption | with_reducible refine keeps_setFld ?_ | (simp only [keeps_mk]; with_reducible refine keeps_upd ?_))

theorem keeps_lower {f : Fld} {i : Nat} {s : State} (hS : Keeps M S0 s) (hf : M.may f.reg = true := by first | assumption | exact Change.may_of_le (by assumption) (by decide +kernel) | exact Change.may_ite (by assumption) (by decide +kernel) (by decide +kernel) | exact Change.may_ite_fld (by assumption) (by decide +kernel) (by decide +kernel) | exact Change.may_of_any (Change.any_of_le (by assumption) (by decide +kernel))) :
    Keeps M S0 (State.lower s f i) := by
  unfold State.lower
  repeat' (first | with_reducible assumption | with_reducible refine keeps_setFld ?_)

theorem keeps_setBit {r : Reg} {i : Nat} {k : Nat} {s : State} (hS : Keeps M S0 s) (hr : M.may r = true := by first | assumption | exact Change.may_of_le (by assumption) (by decide +kernel) | exact Change.may_ite (by assumption) (by decide +kernel) (by decide +kernel) | exact Change.may_ite_fld (by assumption) (by decide +kernel) (by decide +kernel) | exact Change.may_of_any (Change.any_of_le (by assumption) (by decide +kernel))) :
    Keeps M S0 (State.setBit s r i k) := by
  unfold State.setBit
  repeat' (first | with_reducible assumption | with_reducible refine keeps_setReg ?_)

theorem keeps_clearBit {r : Reg} {i : Nat} {k : Nat} {s : State} (hS : Keeps M S0 s) (hr : M.may r = true := by first | assumption | exact Change.may_of_le (by assumption) (by decide +kernel) | exact Change.may_ite (by assumption) (by decide +kernel) (by decide +kernel) | exact Change.may_ite_fld (by assumption) (by decide +kernel) (by decide +kernel) | exact Change.may_of_any (Change.any_of_le (by assumption) (by decide +kernel))) :
    Keeps M S0 (State.clearBit s r i k) := by
  unfold State.clearBit
  repeat' (first | with_reducible assumption | with_reducible refine keeps_setReg ?_)

theorem keeps_w1c {r : Reg} {i : Nat} {bits : Nat} {s : State} (hS : Keeps M S0 s) (hr : M.may r = true := by first | assumption | exact Change.may_of_le (by assumption) (by decide +kernel) | exact Change.may_ite (by assumption) (by decide +kernel) (by decide +kernel) | exact Change.may_ite_fld (by assumption) (by decide +kernel) (by decide +kernel) | exact Change.may_of_any (Change.any_of_le (by assumption) (by decide +kernel))) :
    Keeps M S0 (State.w1c s r i bits) := by
  unfold State.w1c
  dsimp only
  repeat' (first | with_reducible assumption | with_reducible refine keeps_setReg ?_)

theorem keeps_raiseBits {r : Reg} {i : Nat} {bits : Nat} {s : State} (hS : Keeps M S0 s) (hr : M.may r = true := by first | assumption | exact Change.may_of_le (by assumption) (by decide +kernel) | exact Change.may_ite (by assumption) (by decide +kernel) (by decide +kernel) | exact Change.may_ite_fld (by assumption) (by decide +kernel) (by decide +kernel) | exact Change.may_of_any (Change.any_of_le (by assumption) (by decide +kernel)))
    (hM : Change.le { parts := [.meet] } M = true := by first | assumption | exact Change.le_trans (by assumption) (by decide +kernel)) :
    Keeps M S0 (State.raiseBits s r i bits) := by
  unfold State.raiseBits
  dsimp only
  repeat' (first | with_reducible assumption | with_reducible refine keeps_setReg ?_ | (simp only [keeps_mk]; with_reducible refine keeps_upd ?_))

theorem keeps_count {r : Reg} {i : Nat} {n : Nat} {s : State} (hS : Keeps M S0 s)
    (hM : Change.le { parts := [.cnt] } M = true := by first | assumption | exact Change.le_trans (by assumption) (by decide +kernel)) :
    Keeps M S0 (State.count s r i n) := by
  unfold State.count
  dsimp only
  repeat' (first | with_reducible assumption | (simp only [keeps_mk]; with_reducible refine keeps_upd ?_))

theorem keeps_countArr {arr : Nat} {idx : Nat} {n : Nat} {s : State} (hS : Keeps M S0 s)
    (hM : Change.le { parts := [.cnt] } M = true := by first | assumption | exact Change.le_trans (by assumption) (by decide +kernel)) :
    Keeps M S0 (State.countArr s arr idx n) := by
  unfold State.countArr
  dsimp only
  repeat' (first | with_reducible assumption | (simp only [keeps_mk]; with_reducible refine keeps_upd ?_))

theorem keeps_drop {p : Nat} {code : Nat} {s : State} (hS : Keeps M S0 s)
    (hM : Change.le { parts := [.cnt] } M = true := by first | assumption | exact Change.le_trans (by assumption) (by decide +kernel)) :
    Keeps M S0 (State.drop s p code) := by
  unfold State.drop
  repeat' (first | with_reducible assumption | intro _ | with_reducible refine keeps_countArr ?_ | with_reducible refine keeps_ite ?_ ?_)

theorem keeps_updLost {offset : Nat} {party : Nat} {s : State} (hS : Keeps M S0 s)
    (hM : Change.le { parts := [.meet, .cnt], regs := [.glbStat, .glbUpdInfo] } M = true := by first | assumption | exact Change.le_trans (by assumption) (by decide +kernel)) :
    Keeps M S0 (State.updLost s offset party) := by
  unfold State.updLost
  repeat' (first | with_reducible assumption | with_reducible refine keeps_setReg ?_ | with_reducible refine keeps_raise ?_ | with_reducible refine keeps_count ?_)

theorem keeps_draw {s : State} (hS : Keeps M S0 s)
    (hM : Change.le { parts := [.free] } M = true := by first | assumption | exact Change.le_trans (by assumption) (by decide +kernel)) :
    Keeps M S0 (State.draw s) := by
  unfold State.draw
  repeat' (first | with_reducible assumption | (simp only [keeps_mk]; with_reducible refine keeps_upd ?_))

theorem keeps_emit {o : Out} {s : State} (hS : Keeps M S0 s)
    (hM : Change.le { parts := [.out] } M = true := by first | assumption | exact Change.le_trans (by assumption) (by decide +kernel)) :
    Keeps M S0 (State.emit s o) := by
  unfold State.emit
  repeat' (first | with_reducible assumption | (simp only [keeps_mk]; with_reducible refine keeps_upd ?_))

theorem keeps_logEvent {kind : Nat} {data : List Byte} {s : State} (h : Keeps M S0 s)
    (hM : Change.le { parts := [.log] } M = true := by first | assumption | exact Change.le_trans (by assumption) (by decide +kernel)) :
    Keeps M S0 (s.logEvent kind data) :=
  keeps_log _ (Nat.le_succ _) h

theorem keeps_logConfig {opcode : Nat} {params : List Byte} {s : State} (hS : Keeps M S0 s)
    (hM : Change.le { parts := [.log] } M = true := by first | assumption | exact Change.le_trans (by assumption) (by decide +kernel)) :
    Keeps M S0 (State.logConfig s opcode params) := by
  unfold State.logConfig
  dsimp only
  repeat' (first | with_reducible assumption | (simp only [keeps_mk]; with_reducible refine keeps_updl ?_))

end Sys2Proof.Machine
end

