-- ==== Sys2Proof/Laws/KeepsPacket.lean ====
section
/-!
SUPPORT. Each operation and meaning of Machine/Packet.lean keeps what no command may lose and changes nothing but what it names.
-/
set_option Elab.async false
namespace Sys2Proof.Machine
open Sys2Proof
variable {M : Change} {S0 : State}

theorem keeps_Res_discard {e : Status} {s : State} (hS : Keeps M S0 s) :
    Keeps M S0 (Res.discard s e).state := by
  unfold Res.discard
  dsimp only
  repeat' (first | with_reducible assumption)

theorem keeps_Res_ok {ps : List (Ty × Nat)} {s : State} (hS : Keeps M S0 s) :
    Keeps M S0 (Res.ok s ps).state := by
  unfold Res.ok
  dsimp only
  repeat' (first | with_reducible assumption)

theorem keeps_guarded {checks : List (Bool × Status)} {k : Res} {s : State} (h : Keeps M S0 s) (hk : Keeps M S0 k.state) :
    Keeps M S0 (guarded s checks k).state := by
  unfold guarded
  split
  · exact h
  · exact hk

theorem keeps_dmaWrite {p : Packet} {v : Nat} {bytes : List Byte} {k : State → Res} {s : State} (h : Keeps M S0 s)
    (hk : ∀ s, Keeps M S0 s → Keeps M S0 (k s).state)
    (hM : Change.le { parts := [.out] } M = true := by first | assumption | exact Change.le_trans (by assumption) (by decide +kernel)) :
    Keeps M S0 (dmaWrite s p v bytes k).state := by
  unfold dmaWrite
  split
  · exact h
  · exact hk _ (keeps_emit h)

theorem keeps_setJournal {chan : Nat} {tag : Nat} {st : JState} {s : State} (hS : Keeps M S0 s)
    (hM : Change.le { parts := [.pkts] } M = true := by first | assumption | exact Change.le_trans (by assumption) (by decide +kernel)) :
    Keeps M S0 (State.setJournal s chan tag st) := by
  unfold State.setJournal
  dsimp only
  repeat' (first | with_reducible assumption | (simp only [keeps_mk]; with_reducible refine keeps_upd ?_))

theorem keeps_addJournal {j : JEntry} {s : State} (hS : Keeps M S0 s)
    (hM : Change.le { parts := [.pkts] } M = true := by first | assumption | exact Change.le_trans (by assumption) (by decide +kernel)) :
    Keeps M S0 (State.addJournal s j) := by
  unfold State.addJournal
  dsimp only
  repeat' (first | with_reducible assumption | (simp only [keeps_mk]; with_reducible refine keeps_upd ?_))

theorem keeps_reply {r : Reply} {s : State} (hS : Keeps M S0 s)
    (hM : Change.le { parts := [.pkts] } M = true := by first | assumption | exact Change.le_trans (by assumption) (by decide +kernel)) :
    Keeps M S0 (State.reply s r) := by
  unfold State.reply
  dsimp only
  repeat' (first | with_reducible assumption | (simp only [keeps_mk]; with_reducible refine keeps_upd ?_))

theorem keeps_untake {op : Nat} {p : Packet} {s : State} (hS : Keeps M S0 s)
    (hM : Change.le { parts := [.pkts] } M = true := by first | assumption | exact Change.le_trans (by assumption) (by decide +kernel)) :
    Keeps M S0 (State.untake s op p) := by
  unfold State.untake
  dsimp only
  repeat' (first | with_reducible assumption | (simp only [keeps_mk]; with_reducible refine keeps_upd ?_))

theorem keeps_recordConfig {op : Nat} {p : Packet} {e : Status} {s : State} (hS : Keeps M S0 s)
    (hM : Change.le { parts := [.log] } M = true := by first | assumption | exact Change.le_trans (by assumption) (by decide +kernel)) :
    Keeps M S0 (State.recordConfig s op p e) := by
  unfold State.recordConfig
  repeat' (first | with_reducible assumption | intro _ | with_reducible refine keeps_logConfig ?_ | with_reducible refine keeps_ite ?_ ?_)

theorem keeps_answer {op : Nat} {p : Packet} {inc : Nat} {e : Status} {ps : List Byte} {s : State} (hS : Keeps M S0 s)
    (hM : Change.le { parts := [.pkts, .log] } M = true := by first | assumption | exact Change.le_trans (by assumption) (by decide +kernel)) :
    Keeps M S0 (State.answer s op p inc e ps) := by
  unfold State.answer
  repeat' (first | with_reducible assumption | with_reducible refine keeps_setJournal ?_ | with_reducible refine keeps_reply ?_ | with_reducible refine keeps_recordConfig ?_)

theorem keeps_runBody {op : Nat} {p : Packet} {inc : Nat} {body : State → Res} {s : State} (h : Keeps M S0 s)
    (hb : ∀ s, Keeps M S0 s → Keeps M S0 (body s).state)
    (hM : Change.le { parts := [.pkts, .log] } M = true := by first | assumption | exact Change.le_trans (by assumption) (by decide +kernel)) :
    Keeps M S0 (runBody op p inc body s) := by
  unfold runBody
  dsimp only
  split
  · exact hb _ (keeps_setJournal h)
  · exact keeps_answer (hb _ (keeps_setJournal h))

theorem keeps_Res_job {op : Nat} {p : Packet} {left : Nat} {status : List Nat} {s : State} (hS : Keeps M S0 s)
    (hM : Change.le { parts := [.tab] } M = true := by first | assumption | exact Change.le_trans (by assumption) (by decide +kernel)) :
    Keeps M S0 (Res.job s op p left status).state := by
  unfold Res.job
  dsimp only
  repeat' (first | with_reducible assumption | (simp only [keeps_mk]; with_reducible refine keeps_upd ?_))

theorem keeps_stepJob {chan tag : Nat} {f : Job → Job} {answer : Job → State → Status × List Byte} {s : State} (h : Keeps M S0 s)
    (hM : Change.le { parts := [.pkts, .log, .tab] } M = true := by first | assumption | exact Change.le_trans (by assumption) (by decide +kernel)) :
    Keeps M S0 (s.stepJob chan tag f answer) := by
  unfold State.stepJob
  split
  · exact h
  · dsimp only
    split
    · exact keeps_answer (keeps_upd h)
    · exact keeps_upd h

theorem keeps_runConsumed {op : Nat} {p : Packet} {inc : Nat} {body : State → Res} {s : State} (h : Keeps M S0 s)
    (hb : ∀ s, Keeps M S0 s → Keeps M S0 (body s).state)
    (hM : Change.le { parts := [.pkts, .log] } M = true := by first | assumption | exact Change.le_trans (by assumption) (by decide +kernel)) :
    Keeps M S0 (runConsumed op p inc body s) := by
  unfold runConsumed
  split
  · exact keeps_reply (keeps_setJournal h)
  · exact keeps_runBody h hb

theorem keeps_consume {op : Nat} {p : Packet} {inc : Nat} {lenBad : Bool} {k : State → State} {s : State} (h : Keeps M S0 s)
    (hk : ∀ s, Keeps M S0 s → Keeps M S0 (k s))
    (hM : Change.le { parts := [.pkts, .log] } M = true := by first | assumption | exact Change.le_trans (by assumption) (by decide +kernel)) :
    Keeps M S0 (consume op p inc lenBad k s) := by
  unfold consume
  split
  · exact keeps_logEvent h
  · split
    · exact keeps_reply h
    · exact hk _ (keeps_addJournal h)

theorem keeps_take_ {op : Nat} {inc : Nat} {p : Packet} {s : State} (hS : Keeps M S0 s)
    (hM : Change.le { parts := [.pkts] } M = true := by first | assumption | exact Change.le_trans (by assumption) (by decide +kernel)) :
    Keeps M S0 (State.take_ s op inc p) := by
  unfold State.take_
  dsimp only
  repeat' (first | with_reducible assumption | (simp only [keeps_mk]; with_reducible refine keeps_upd ?_))

theorem keeps_runPacket {op : Nat} {p : Packet} {body : Args → State → Res} {s : State} (h : Keeps M S0 s)
    (hb : ∀ a s, Keeps M S0 s → Keeps M S0 (body a s).state)
    (hM : Change.le { parts := [.pkts, .log] } M = true := by first | assumption | exact Change.le_trans (by assumption) (by decide +kernel)) :
    KeepsOut M S0 (runPacket op p body s) := by
  unfold runPacket
  dsimp only
  split
  · exact keeps_next h
  · split
    · exact keeps_next h
    · exact keeps_next (keeps_consume h fun _ h => keeps_take_ h)
    · exact keeps_next (keeps_runConsumed (keeps_untake h) (hb _))
    · exact keeps_next (keeps_consume h fun _ h => keeps_runConsumed h (hb _))

end Sys2Proof.Machine
end

