-- ==== Sys2Proof/Laws/KeepsAccess.lean ====
section
/-!
SUPPORT. Each operation and meaning of Machine/Access.lean keeps what no command may lose and changes nothing but what it names.
-/
set_option Elab.async false
namespace Sys2Proof.Machine
open Sys2Proof
variable {M : Change} {S0 : State}

theorem keeps_hwFld {f : Fld} {i : Nat} {v : Nat} {s : State} (hS : Keeps M S0 s) (hf : M.may f.reg = true := by first | assumption | exact Change.may_of_le (by assumption) (by decide +kernel) | exact Change.may_ite (by assumption) (by decide +kernel) (by decide +kernel) | exact Change.may_of_any (Change.any_of_le (by assumption) (by decide +kernel)))
    (hM : Change.le { parts := [.meet, .cnt], regs := [.glbStat, .glbUpdInfo] } M = true := by first | assumption | exact Change.le_trans (by assumption) (by decide +kernel)) :
    Keeps M S0 (State.hwFld s f i v) := by
  unfold State.hwFld
  dsimp only
  repeat' (first | with_reducible assumption | with_reducible refine keeps_setFld ?_ | with_reducible refine keeps_updLost ?_ | (simp only [keeps_mk]; with_reducible refine keeps_upd ?_) | split)

theorem keeps_noteWrite {r : Reg} {i : Nat} {mask : Nat} {party : Nat} {s : State} (hS : Keeps M S0 s)
    (hM : Change.le { parts := [.meet, .cnt], regs := [.glbStat, .glbUpdInfo] } M = true := by first | assumption | exact Change.le_trans (by assumption) (by decide +kernel)) :
    Keeps M S0 (State.noteWrite s r i mask party) := by
  unfold State.noteWrite
  dsimp only
  repeat' (first | with_reducible assumption | intro _ | with_reducible refine keeps_updLost ?_ | with_reducible refine keeps_ite ?_ ?_ | (simp only [keeps_mk]; with_reducible refine keeps_upd ?_))

theorem keeps_violation {kind : Nat} {sid : Nat} {addr : Nat} {write : Bool} {s : State} (hS : Keeps M S0 s)
    (hM : Change.le { parts := [.meet, .cnt], regs := [.protStat, .protViolAddr, .protViolInfo] } M = true := by first | assumption | exact Change.le_trans (by assumption) (by decide +kernel)) :
    Keeps M S0 (State.violation s kind sid addr write) := by
  unfold State.violation
  dsimp only
  repeat' (first | with_reducible assumption | with_reducible refine keeps_setReg ?_ | with_reducible refine keeps_raise ?_ | with_reducible refine keeps_count ?_ | split)

theorem keeps_accError {kind : Nat} {sid : Nat} {offset : Nat} {s : State} (hS : Keeps M S0 s)
    (hM : Change.le { parts := [.meet], regs := [.glbAccAddr, .glbAccInfo, .glbStat] } M = true := by first | assumption | exact Change.le_trans (by assumption) (by decide +kernel)) :
    Keeps M S0 (State.accError s kind sid offset) := by
  unfold State.accError
  dsimp only
  repeat' (first | with_reducible assumption | with_reducible refine keeps_setReg ?_ | with_reducible refine keeps_raise ?_ | split)

theorem keeps_access {who : Sender} {x : Nat} {write : Bool} {k : State → State} {s : State} (h : Keeps M S0 s)
    (hk : ∀ s, Keeps M S0 s → Keeps M S0 (k s))
    (hM : Change.le { parts := [.meet, .cnt], regs := [.protStat, .protViolAddr, .protViolInfo] } M = true := by first | assumption | exact Change.le_trans (by assumption) (by decide +kernel)) :
    Keeps M S0 (s.access who x write k) := by
  unfold State.access
  split
  · exact keeps_violation h
  · exact hk _ h

theorem keeps_readAccess {who : Sender} {x : Nat} {k : State → State × Word} {s : State} (h : Keeps M S0 s)
    (hk : ∀ s, Keeps M S0 s → Keeps M S0 (k s).1)
    (hM : Change.le { parts := [.meet, .cnt, .out], regs := [.protStat, .protViolAddr, .protViolInfo] } M = true := by first | assumption | exact Change.le_trans (by assumption) (by decide +kernel)) :
    Keeps M S0 (s.readAccess who x k) := by
  unfold State.readAccess
  split
  · exact keeps_emit (keeps_violation h)
  · exact keeps_emit (hk _ h)

theorem keeps_ccWrite {who : Sender} {x : Nat} {k : State → State} {s : State} (h : Keeps M S0 s)
    (hk : ∀ s, Keeps M S0 s → Keeps M S0 (k s))
    (hM : Change.le { parts := [.meet, .cnt], regs := [.glbAccAddr, .glbAccInfo, .glbStat, .protStat, .protViolAddr, .protViolInfo] } M = true := by first | assumption | exact Change.le_trans (by assumption) (by decide +kernel)) :
    Keeps M S0 (s.ccWrite who x k) := by
  unfold State.ccWrite
  split
  · exact hk _ h
  · exact keeps_access h fun _ h => keeps_accError h

end Sys2Proof.Machine
end

