-- ==== Sys2Proof/Laws/KeepsEdge.lean ====
section
/-!
SUPPORT. Each operation and meaning of Machine/Edge.lean keeps what no command may lose and changes nothing but what it names.
-/
set_option Elab.async false
namespace Sys2Proof.Machine
open Sys2Proof
variable {M : Change} {S0 : State}

theorem keeps_setCredit {key : Nat} {c : Int} {s : State} (hS : Keeps M S0 s)
    (hM : Change.le { parts := [.path] } M = true := by first | assumption | exact Change.le_trans (by assumption) (by decide +kernel)) :
    Keeps M S0 (State.setCredit s key c) := by
  unfold State.setCredit
  dsimp only
  repeat' (first | with_reducible assumption | (simp only [keeps_mk]; with_reducible refine keeps_upd ?_))

theorem keeps_shaperStep {key : Nat} {s : State} (hS : Keeps M S0 s)
    (hM : Change.le { parts := [.path] } M = true := by first | assumption | exact Change.le_trans (by assumption) (by decide +kernel)) :
    Keeps M S0 (State.shaperStep s key) := by
  unfold State.shaperStep
  dsimp only
  repeat' (first | with_reducible assumption | with_reducible refine keeps_setCredit ?_)

theorem keeps_keepRate {key : Nat} {s : State} (hS : Keeps M S0 s)
    (hM : Change.le { parts := [.path] } M = true := by first | assumption | exact Change.le_trans (by assumption) (by decide +kernel)) :
    Keeps M S0 (State.keepRate s key) := by
  unfold State.keepRate
  dsimp only
  repeat' (first | with_reducible assumption | intro _ | with_reducible refine keeps_ite ?_ ?_ | (simp only [keeps_mk]; with_reducible refine keeps_upd ?_))

theorem keeps_timerStep {p : Nat} {f : Flow} {s : State} (hS : Keeps M S0 s)
    (hM : Change.le { parts := [.path], regs := [.fcStat] } M = true := by first | assumption | exact Change.le_trans (by assumption) (by decide +kernel)) :
    Keeps M S0 (State.timerStep s p f) := by
  unfold State.timerStep
  dsimp only
  repeat' (first | with_reducible assumption | with_reducible refine keeps_setFld ?_ | (simp only [keeps_mk]; with_reducible refine keeps_upd ?_))

theorem keeps_tailEdge {s : State} (hS : Keeps M S0 s)
    (hM : Change.le { parts := [.host], regs := [.dmaRxTail, .dmaTxTail] } M = true := by first | assumption | exact Change.le_trans (by assumption) (by decide +kernel)) :
    Keeps M S0 (State.tailEdge s) := by
  unfold State.tailEdge
  dsimp only
  repeat' (first | with_reducible assumption | intro _ | with_reducible refine keeps_setReg ?_ | with_reducible refine keeps_foldl ?_ ?_ | (simp only [keeps_mk]; with_reducible refine keeps_upd ?_))

theorem keeps_sampleEdge {s : State} (hS : Keeps M S0 s)
    (hM : Change.le { parts := [.samp] } M = true := by first | assumption | exact Change.le_trans (by assumption) (by decide +kernel)) :
    Keeps M S0 (State.sampleEdge s) := by
  unfold State.sampleEdge
  dsimp only
  repeat' (first | with_reducible assumption | (simp only [keeps_mk]; with_reducible refine keeps_upd ?_) | split)

theorem keeps_pathEdge {s : State} (hS : Keeps M S0 s)
    (hM : Change.le { parts := [.samp, .path, .host], regs := [.dmaRxTail, .dmaTxTail, .fcStat] } M = true := by first | assumption | exact Change.le_trans (by assumption) (by decide +kernel)) :
    Keeps M S0 (State.pathEdge s) := by
  unfold State.pathEdge
  dsimp only
  repeat' (first | with_reducible assumption | intro _ | with_reducible refine keeps_shaperStep ?_ | with_reducible refine keeps_timerStep ?_ | with_reducible refine keeps_tailEdge ?_ | with_reducible refine keeps_sampleEdge ?_ | with_reducible refine keeps_foldl ?_ ?_ | (simp only [keeps_mk]; with_reducible refine keeps_upd ?_))

end Sys2Proof.Machine
end

