-- ==== Sys2Proof/Laws/KeepsClock.lean ====
section
/-!
SUPPORT. Each operation and meaning of Machine/Clock.lean keeps what no command may lose and changes nothing but what it names.
-/
set_option Elab.async false
namespace Sys2Proof.Machine
open Sys2Proof
variable {M : Change} {S0 : State}

theorem keeps_slewEdge {s : State} (hS : Keeps M S0 s)
    (hM : Change.le { parts := [.time, .meet], regs := [.tsStat] } M = true := by first | assumption | exact Change.le_trans (by assumption) (by decide +kernel)) :
    Keeps M S0 (State.slewEdge s) := by
  unfold State.slewEdge
  dsimp only
  repeat' (first | with_reducible assumption | intro _ | with_reducible refine keeps_raise ?_ | with_reducible refine keeps_ite ?_ ?_ | (simp only [keeps_mk]; with_reducible refine keeps_updt ?_) | split)

theorem keeps_incEdge {s : State} (hS : Keeps M S0 s)
    (hM : Change.le { parts := [.time] } M = true := by first | assumption | exact Change.le_trans (by assumption) (by decide +kernel)) :
    Keeps M S0 (State.incEdge s) := by
  unfold State.incEdge
  dsimp only
  repeat' (first | with_reducible assumption | (simp only [keeps_mk]; with_reducible refine keeps_updt ?_) | split)

theorem keeps_wrapTest {s : State} (h : Keeps M S0 s)
    (hM : Change.le { parts := [.time, .meet, .cnt], regs := [.tsStat] } M = true := by first | assumption | exact Change.le_trans (by assumption) (by decide +kernel)) :
    Keeps M S0 s.wrapTest := by
  have ha : ∀ (t : TimeEng) o c, (t.setArm o c).whorl = t.whorl := fun t o c => by unfold TimeEng.setArm; split <;> rfl
  unfold State.wrapTest
  dsimp only
  split
  · have h1 : Keeps M S0 { s with time := { s.time.setArm s.time.parity false with nextLoadDue := true } } :=
      keeps_time _ (fun x => by simpa [ha] using x) h
    split
    · exact h1
    · exact keeps_raise h1
  · split
    · exact keeps_count (keeps_raise (keeps_time _ id h))
    · exact keeps_time _ id h

theorem keeps_loadBase {odd : Bool} {b : NetBase} {s : State} (h : Keeps M S0 s)
    (hM : Change.le { parts := [.time, .meet], regs := [.tsStat] } M = true := by first | assumption | exact Change.le_trans (by assumption) (by decide +kernel)) :
    Keeps M S0 (s.loadBase odd b) := by
  have hw : ∀ t : TimeEng, (t.setBase odd b).whorl = t.whorl := fun t => by unfold TimeEng.setBase; split <;> rfl
  have ha : ∀ (t : TimeEng) o c, (t.setArm o c).whorl = t.whorl := fun t o c => by unfold TimeEng.setArm; split <;> rfl
  unfold State.loadBase
  dsimp only
  split
  · exact keeps_raise (keeps_time _ (fun x => by simpa [hw] using x) h)
  · exact keeps_time _ (fun x => by simpa [hw, ha] using x) h

theorem keeps_loadEdge {s : State} (hS : Keeps M S0 s)
    (hM : Change.le { parts := [.time, .meet], regs := [.tsStat] } M = true := by first | assumption | exact Change.le_trans (by assumption) (by decide +kernel)) :
    Keeps M S0 (State.loadEdge s) := by
  unfold State.loadEdge
  dsimp only
  repeat' (first | with_reducible assumption | with_reducible refine keeps_loadBase ?_ | (simp only [keeps_mk]; with_reducible refine keeps_updt ?_) | split)

theorem keeps_slotEdge {s : State} (h : Keeps M S0 s)
    (hM : Change.le { parts := [.tick, .time, .meet, .cnt, .samp, .path, .host], regs := [.dmaRxTail, .dmaTxTail, .fcStat, .tsStat] } M = true := by first | assumption | exact Change.le_trans (by assumption) (by decide +kernel)) :
    Keeps M S0 (slotEdge s) := by
  have hk : ∀ (s : State) (n : Nat) (m : Meet), Keeps M S0 s → n < 2 ^ 64 → Keeps M S0 { s with tick := { s.tick with slot := n }, meet := m } :=
    fun s n m h hn => keeps_upd (keeps_tick { s.tick with slot := n } hn h)
  have hc : Keeps M S0 (if s.time.clamps then s.raise F.tsStat_CLAMP 0 else s) := by
    split
    · exact keeps_raise h
    · exact h
  unfold slotEdge
  split
  · exact h
  · refine hk _ _ _ (keeps_pathEdge (keeps_loadEdge ?_)) (Nat.mod_lt _ (by decide))
    have hi := keeps_incEdge (keeps_slewEdge (keeps_time (TimeEng.advance (if s.time.clamps then s.raise F.tsStat_CLAMP 0 else s).time)
      (fun _ => Nat.mod_lt _ (by decide)) hc))
    split
    · exact keeps_wrapTest hi
    · exact hi

theorem keeps_execPllLock {s : State} (h : Keeps M S0 s)
    (hM : Change.le { parts := [.tick, .time], regs := [.tickStat] } M = true := by first | assumption | exact Change.le_trans (by assumption) (by decide +kernel)) :
    KeepsOut M S0 (execPllLock s) := by
  unfold execPllLock
  split
  · exact keeps_next h
  · exact keeps_next (keeps_setFld
      (keeps_time { s.time with whorl := 0, parity := false } (fun _ => (by decide : (0 : Nat) < 2 ^ 64))
        (keeps_tick { s.tick with locked := true, slot := 0 } (by decide : (0 : Nat) < 2 ^ 64) h)))

theorem keeps_execReferenceLost {s : State} (hS : Keeps M S0 s)
    (hM : Change.le { parts := [.tick, .meet], regs := [.tickStat] } M = true := by first | assumption | exact Change.le_trans (by assumption) (by decide +kernel)) :
    KeepsOut M S0 (execReferenceLost s) := by
  unfold execReferenceLost
  dsimp only
  repeat' (first | with_reducible assumption | intro _ | with_reducible refine keeps_setFld ?_ | with_reducible refine keeps_raise ?_ | with_reducible refine keeps_next ?_ | with_reducible refine keeps_ite_out ?_ ?_ | (simp only [keeps_mk]; with_reducible refine keeps_updk ?_))

theorem keeps_execReferenceRestored {s : State} (hS : Keeps M S0 s)
    (hM : Change.le { parts := [.tick, .meet], regs := [.tickStat] } M = true := by first | assumption | exact Change.le_trans (by assumption) (by decide +kernel)) :
    KeepsOut M S0 (execReferenceRestored s) := by
  unfold execReferenceRestored
  dsimp only
  repeat' (first | with_reducible assumption | intro _ | with_reducible refine keeps_setFld ?_ | with_reducible refine keeps_raise ?_ | with_reducible refine keeps_next ?_ | with_reducible refine keeps_ite_out ?_ ?_ | (simp only [keeps_mk]; with_reducible refine keeps_updk ?_))

theorem keeps_execTickSlotRead {who : Sender} {s : State} (hS : Keeps M S0 s)
    (hM : Change.le { parts := [.meet, .cnt, .out], regs := [.protStat, .protViolAddr, .protViolInfo, .tickSlotHi] } M = true := by first | assumption | exact Change.le_trans (by assumption) (by decide +kernel)) :
    KeepsOut M S0 (execTickSlotRead who s) := by
  unfold execTickSlotRead
  repeat' (first | with_reducible assumption | intro _ | with_reducible refine keeps_setReg ?_ | with_reducible refine keeps_readAccess ?_ ?_ | with_reducible refine keeps_next ?_)

theorem keeps_execWhorlWrap {s : State} (hS : Keeps M S0 s)
    (hM : Change.le { parts := [.tick, .time, .meet, .cnt, .samp, .path, .host], regs := [.dmaRxTail, .dmaTxTail, .fcStat, .tsStat] } M = true := by first | assumption | exact Change.le_trans (by assumption) (by decide +kernel)) :
    KeepsOut M S0 (execWhorlWrap s) := by
  unfold execWhorlWrap
  repeat' (first | with_reducible assumption | intro _ | with_reducible refine keeps_slotEdge ?_ | with_reducible refine keeps_next ?_ | with_reducible refine keeps_ite_out ?_ ?_)

theorem keeps_execSlewEnd {s : State} (hS : Keeps M S0 s)
    (hM : Change.le { parts := [.tick, .time, .meet, .cnt, .samp, .path, .host], regs := [.dmaRxTail, .dmaTxTail, .fcStat, .tsStat] } M = true := by first | assumption | exact Change.le_trans (by assumption) (by decide +kernel)) :
    KeepsOut M S0 (execSlewEnd s) := by
  unfold execSlewEnd
  repeat' (first | with_reducible assumption | intro _ | with_reducible refine keeps_slotEdge ?_ | with_reducible refine keeps_next ?_ | with_reducible refine keeps_ite_out ?_ ?_)

theorem keeps_writeIncFrac {v : Word} {s : State} (hS : Keeps M S0 s)
    (hM : Change.le { parts := [.time] } M = true := by first | assumption | exact Change.le_trans (by assumption) (by decide +kernel)) :
    Keeps M S0 (State.writeIncFrac s v) := by
  unfold State.writeIncFrac
  dsimp only
  repeat' (first | with_reducible assumption | (simp only [keeps_mk]; with_reducible refine keeps_updt ?_))

theorem keeps_writeIncNs {v : Word} {s : State} (hS : Keeps M S0 s)
    (hM : Change.le { parts := [.time] } M = true := by first | assumption | exact Change.le_trans (by assumption) (by decide +kernel)) :
    Keeps M S0 (State.writeIncNs s v) := by
  unfold State.writeIncNs
  dsimp only
  repeat' (first | with_reducible assumption | (simp only [keeps_mk]; with_reducible refine keeps_updt ?_))

theorem keeps_writeSlewCount {v : Word} {s : State} (hS : Keeps M S0 s)
    (hM : Change.le { parts := [.time] } M = true := by first | assumption | exact Change.le_trans (by assumption) (by decide +kernel)) :
    Keeps M S0 (State.writeSlewCount s v) := by
  unfold State.writeSlewCount
  dsimp only
  repeat' (first | with_reducible assumption | (simp only [keeps_mk]; with_reducible refine keeps_updt ?_))

theorem keeps_writeBaseCtl {v : Word} {s : State} (hS : Keeps M S0 s)
    (hM : Change.le { parts := [.time], regs := [.tsBaseCtl] } M = true := by first | assumption | exact Change.le_trans (by assumption) (by decide +kernel)) :
    Keeps M S0 (State.writeBaseCtl s v) := by
  unfold State.writeBaseCtl
  dsimp only
  repeat' (first | with_reducible assumption | intro _ | with_reducible refine keeps_setFld ?_ | with_reducible refine keeps_ite ?_ ?_ | (simp only [keeps_mk]; with_reducible refine keeps_updt ?_))

theorem keeps_execTsIncCommit {who : Sender} {v : Word} {s : State} (hS : Keeps M S0 s)
    (hM : Change.le { parts := [.time, .meet, .cnt], regs := [.protStat, .protViolAddr, .protViolInfo] } M = true := by first | assumption | exact Change.le_trans (by assumption) (by decide +kernel)) :
    KeepsOut M S0 (execTsIncCommit who v s) := by
  unfold execTsIncCommit
  repeat' (first | with_reducible assumption | intro _ | with_reducible refine keeps_access ?_ ?_ | with_reducible refine keeps_writeIncNs ?_ | with_reducible refine keeps_next ?_ | with_reducible refine keeps_ite ?_ ?_)

theorem keeps_execSlewStart {who : Sender} {v : Word} {s : State} (hS : Keeps M S0 s)
    (hM : Change.le { parts := [.time, .meet, .cnt], regs := [.glbStat, .glbUpdInfo, .protStat, .protViolAddr, .protViolInfo] } M = true := by first | assumption | exact Change.le_trans (by assumption) (by decide +kernel)) :
    KeepsOut M S0 (execSlewStart who v s) := by
  unfold execSlewStart
  repeat' (first | with_reducible assumption | intro _ | with_reducible refine keeps_noteWrite ?_ | with_reducible refine keeps_access ?_ ?_ | with_reducible refine keeps_writeSlewCount ?_ | with_reducible refine keeps_next ?_ | with_reducible refine keeps_ite ?_ ?_)

theorem keeps_execBaseLoad {who : Sender} {v : Word} {s : State} (hS : Keeps M S0 s)
    (hM : Change.le { parts := [.time, .meet, .cnt], regs := [.protStat, .protViolAddr, .protViolInfo, .tsBaseCtl] } M = true := by first | assumption | exact Change.le_trans (by assumption) (by decide +kernel)) :
    KeepsOut M S0 (execBaseLoad who v s) := by
  unfold execBaseLoad
  repeat' (first | with_reducible assumption | intro _ | with_reducible refine keeps_access ?_ ?_ | with_reducible refine keeps_writeBaseCtl ?_ | with_reducible refine keeps_next ?_ | with_reducible refine keeps_ite ?_ ?_)

theorem keeps_latchWhorl {s : State} (hS : Keeps M S0 s)
    (hM : Change.le { regs := [.tsNtNs, .tsNtSecHi, .tsNtSecLo, .tsWhorlFrac] } M = true := by first | assumption | exact Change.le_trans (by assumption) (by decide +kernel)) :
    Keeps M S0 (State.latchWhorl s) := by
  unfold State.latchWhorl
  dsimp only
  repeat' (first | with_reducible assumption | with_reducible refine keeps_setReg ?_)

theorem keeps_execWhorlRead {who : Sender} {s : State} (hS : Keeps M S0 s)
    (hM : Change.le { parts := [.meet, .cnt, .out], regs := [.protStat, .protViolAddr, .protViolInfo, .tsNtNs, .tsNtSecHi, .tsNtSecLo, .tsWhorlFrac] } M = true := by first | assumption | exact Change.le_trans (by assumption) (by decide +kernel)) :
    KeepsOut M S0 (execWhorlRead who s) := by
  unfold execWhorlRead
  repeat' (first | with_reducible assumption | intro _ | with_reducible refine keeps_readAccess ?_ ?_ | with_reducible refine keeps_latchWhorl ?_ | with_reducible refine keeps_next ?_)

theorem keeps_loadNextBase {s : State} (hS : Keeps M S0 s)
    (hM : Change.le { parts := [.time, .meet], regs := [.tsStat] } M = true := by first | assumption | exact Change.le_trans (by assumption) (by decide +kernel)) :
    Keeps M S0 (State.loadNextBase s) := by
  unfold State.loadNextBase
  repeat' (first | with_reducible assumption | with_reducible refine keeps_loadBase ?_)

theorem keeps_execNextBaseLoad {s : State} (hS : Keeps M S0 s)
    (hM : Change.le { parts := [.time, .meet], regs := [.tsStat] } M = true := by first | assumption | exact Change.le_trans (by assumption) (by decide +kernel)) :
    KeepsOut M S0 (execNextBaseLoad s) := by
  unfold execNextBaseLoad
  dsimp only
  repeat' (first | with_reducible assumption | intro _ | with_reducible refine keeps_loadNextBase ?_ | with_reducible refine keeps_next ?_ | with_reducible refine keeps_ite_out ?_ ?_ | (simp only [keeps_mk]; with_reducible refine keeps_updt ?_))

end Sys2Proof.Machine
end

