-- ==== Sys2Proof/Laws/KeepsPins.lean ====
section
/-!
SUPPORT. Each operation and meaning of Machine/Pins.lean keeps what no command may lose and changes nothing but what it names.
-/
set_option Elab.async false
namespace Sys2Proof.Machine
open Sys2Proof
variable {M : Change} {S0 : State}

theorem keeps_evtStop {i : Nat} {s : State} (hS : Keeps M S0 s)
    (hM : Change.le { parts := [.time, .out], regs := [.tsEvtStat] } M = true := by first | assumption | exact Change.le_trans (by assumption) (by decide +kernel)) :
    Keeps M S0 (State.evtStop s i) := by
  unfold State.evtStop
  dsimp only
  repeat' (first | with_reducible assumption | intro _ | with_reducible refine keeps_setFld ?_ | with_reducible refine keeps_emit ?_ | with_reducible refine keeps_ite ?_ ?_ | (simp only [keeps_mk]; with_reducible refine keeps_updt ?_) | split)

theorem keeps_evtArm {i : Nat} {s : State} (hS : Keeps M S0 s)
    (hM : Change.le { parts := [.time, .meet, .out], regs := [.tsEvtCtl, .tsEvtStat] } M = true := by first | assumption | exact Change.le_trans (by assumption) (by decide +kernel)) :
    Keeps M S0 (State.evtArm s i) := by
  unfold State.evtArm
  dsimp only
  repeat' (first | with_reducible assumption | intro _ | with_reducible refine keeps_setFld ?_ | with_reducible refine keeps_emit ?_ | with_reducible refine keeps_raise ?_ | with_reducible refine keeps_ite ?_ ?_ | (simp only [keeps_mk]; with_reducible refine keeps_updt ?_))

theorem keeps_writeEvtCtl {i : Nat} {v : Word} {s : State} (hS : Keeps M S0 s)
    (hM : Change.le { parts := [.time, .meet, .out], regs := [.tsEvtCtl, .tsEvtStat] } M = true := by first | assumption | exact Change.le_trans (by assumption) (by decide +kernel)) :
    Keeps M S0 (State.writeEvtCtl s i v) := by
  unfold State.writeEvtCtl
  dsimp only
  repeat' (first | with_reducible assumption | intro _ | with_reducible refine keeps_setReg ?_ | with_reducible refine keeps_evtStop ?_ | with_reducible refine keeps_evtArm ?_ | with_reducible refine keeps_ite ?_ ?_)

theorem keeps_execEventOutputArm {who : Sender} {n : Nat} {v : Word} {s : State} (hS : Keeps M S0 s)
    (hM : Change.le { parts := [.time, .meet, .cnt, .out], regs := [.glbAccAddr, .glbAccInfo, .glbStat, .glbUpdInfo, .protStat, .protViolAddr, .protViolInfo, .tsEvtCtl, .tsEvtStat] } M = true := by first | assumption | exact Change.le_trans (by assumption) (by decide +kernel)) :
    KeepsOut M S0 (execEventOutputArm who n v s) := by
  unfold execEventOutputArm
  repeat' (first | with_reducible assumption | intro _ | with_reducible refine keeps_noteWrite ?_ | with_reducible refine keeps_ccWrite ?_ ?_ | with_reducible refine keeps_writeEvtCtl ?_ | with_reducible refine keeps_next ?_ | with_reducible refine keeps_ite_out ?_ ?_)

theorem keeps_evtDone {i : Nat} {s : State} (hS : Keeps M S0 s)
    (hM : Change.le { parts := [.time, .meet, .cnt], regs := [.glbStat, .glbUpdInfo, .tsEvtCtl, .tsEvtStat] } M = true := by first | assumption | exact Change.le_trans (by assumption) (by decide +kernel)) :
    Keeps M S0 (State.evtDone s i) := by
  unfold State.evtDone
  dsimp only
  repeat' (first | with_reducible assumption | with_reducible refine keeps_raise ?_ | with_reducible refine keeps_hwFld ?_ | (simp only [keeps_mk]; with_reducible refine keeps_updt ?_))

theorem keeps_execEventOutputEdge {n : Nat} {s : State} (hS : Keeps M S0 s)
    (hM : Change.le { parts := [.time, .meet, .cnt, .out], regs := [.glbStat, .glbUpdInfo, .tsEvtCtl, .tsEvtStat] } M = true := by first | assumption | exact Change.le_trans (by assumption) (by decide +kernel)) :
    KeepsOut M S0 (execEventOutputEdge n s) := by
  unfold execEventOutputEdge
  dsimp only
  repeat' (first | with_reducible assumption | intro _ | with_reducible refine keeps_setFld ?_ | with_reducible refine keeps_emit ?_ | with_reducible refine keeps_evtDone ?_ | with_reducible refine keeps_next ?_ | with_reducible refine keeps_ite_out ?_ ?_ | (simp only [keeps_mk]; with_reducible refine keeps_updt ?_) | split)

theorem keeps_execPpsOutPulse {s : State} (hS : Keeps M S0 s)
    (hM : Change.le { parts := [.time, .out] } M = true := by first | assumption | exact Change.le_trans (by assumption) (by decide +kernel)) :
    KeepsOut M S0 (execPpsOutPulse s) := by
  unfold execPpsOutPulse
  dsimp only
  repeat' (first | with_reducible assumption | intro _ | with_reducible refine keeps_emit ?_ | with_reducible refine keeps_next ?_ | with_reducible refine keeps_ite_out ?_ ?_ | (simp only [keeps_mk]; with_reducible refine keeps_updt ?_) | split)

theorem keeps_servoTo {n : ServoState} {s : State} (hS : Keeps M S0 s)
    (hM : Change.le { parts := [.time, .log] } M = true := by first | assumption | exact Change.le_trans (by assumption) (by decide +kernel)) :
    Keeps M S0 (State.servoTo s n) := by
  unfold State.servoTo
  dsimp only
  repeat' (first | with_reducible assumption | intro _ | with_reducible refine keeps_logEvent ?_ | with_reducible refine keeps_ite ?_ ?_ | (simp only [keeps_mk]; with_reducible refine keeps_updt ?_))

theorem keeps_sourceLost {s : State} (hS : Keeps M S0 s)
    (hM : Change.le { parts := [.time, .log] } M = true := by first | assumption | exact Change.le_trans (by assumption) (by decide +kernel)) :
    Keeps M S0 (State.sourceLost s) := by
  unfold State.sourceLost
  dsimp only
  repeat' (first | with_reducible assumption | with_reducible refine keeps_servoTo ?_ | (simp only [keeps_mk]; with_reducible refine keeps_updt ?_) | split)

theorem keeps_sourceQualifies {s : State} (hS : Keeps M S0 s)
    (hM : Change.le { parts := [.time, .log] } M = true := by first | assumption | exact Change.le_trans (by assumption) (by decide +kernel)) :
    Keeps M S0 (State.sourceQualifies s) := by
  unfold State.sourceQualifies
  dsimp only
  repeat' (first | with_reducible assumption | with_reducible refine keeps_servoTo ?_ | (simp only [keeps_mk]; with_reducible refine keeps_updt ?_) | split)

theorem keeps_setNetTime {n : Nat} {s : State} (hS : Keeps M S0 s)
    (hM : Change.le { parts := [.time, .meet], regs := [.tsStat] } M = true := by first | assumption | exact Change.le_trans (by assumption) (by decide +kernel)) :
    Keeps M S0 (State.setNetTime s n) := by
  unfold State.setNetTime
  dsimp only
  repeat' (first | with_reducible assumption | with_reducible refine keeps_loadBase ?_ | with_reducible refine keeps_loadNextBase ?_)

theorem keeps_servoCorrect {offset : Int} {s : State} (hS : Keeps M S0 s)
    (hM : Change.le { parts := [.time, .free], regs := [.tsSlewDelta] } M = true := by first | assumption | exact Change.le_trans (by assumption) (by decide +kernel)) :
    Keeps M S0 (State.servoCorrect s offset) := by
  unfold State.servoCorrect
  dsimp only
  repeat' (first | with_reducible assumption | intro _ | with_reducible refine keeps_setReg ?_ | with_reducible refine keeps_ite ?_ ?_ | (simp only [keeps_mk]; with_reducible refine keeps_updt ?_))

theorem keeps_execServoMeasurement {offset : Int} {qualifies : Bool} {s : State} (hS : Keeps M S0 s)
    (hM : Change.le { parts := [.time, .meet, .log, .free], regs := [.tsSlewDelta, .tsStat] } M = true := by first | assumption | exact Change.le_trans (by assumption) (by decide +kernel)) :
    KeepsOut M S0 (execServoMeasurement offset qualifies s) := by
  unfold execServoMeasurement
  dsimp only
  repeat' (first | with_reducible assumption | intro _ | with_reducible refine keeps_servoTo ?_ | with_reducible refine keeps_sourceLost ?_ | with_reducible refine keeps_sourceQualifies ?_ | with_reducible refine keeps_setNetTime ?_ | with_reducible refine keeps_servoCorrect ?_ | with_reducible refine keeps_next ?_ | with_reducible refine keeps_ite ?_ ?_ | with_reducible refine keeps_ite_out ?_ ?_ | (simp only [keeps_mk]; with_reducible refine keeps_updt ?_) | split)

theorem keeps_servoEpoch {s : State} (hS : Keeps M S0 s)
    (hM : Change.le { parts := [.time] } M = true := by first | assumption | exact Change.le_trans (by assumption) (by decide +kernel)) :
    Keeps M S0 (State.servoEpoch s) := by
  unfold State.servoEpoch
  dsimp only
  repeat' (first | with_reducible assumption | intro _ | with_reducible refine keeps_ite ?_ ?_ | (simp only [keeps_mk]; with_reducible refine keeps_updt ?_))

theorem keeps_execHoldoverExpire {s : State} (hS : Keeps M S0 s)
    (hM : Change.le { parts := [.time, .log] } M = true := by first | assumption | exact Change.le_trans (by assumption) (by decide +kernel)) :
    KeepsOut M S0 (execHoldoverExpire s) := by
  unfold execHoldoverExpire
  dsimp only
  repeat' (first | with_reducible assumption | intro _ | with_reducible refine keeps_servoTo ?_ | with_reducible refine keeps_next ?_ | with_reducible refine keeps_ite_out ?_ ?_)

theorem keeps_setCaptures {j : Nat} {l : List CapRec} {s : State} (hS : Keeps M S0 s)
    (hM : Change.le { parts := [.time], regs := [.tsCapStat] } M = true := by first | assumption | exact Change.le_trans (by assumption) (by decide +kernel)) :
    Keeps M S0 (State.setCaptures s j l) := by
  unfold State.setCaptures
  dsimp only
  repeat' (first | with_reducible assumption | with_reducible refine keeps_setFld ?_ | (simp only [keeps_mk]; with_reducible refine keeps_updt ?_))

theorem keeps_ppsRecord {whorlNs : Nat} {s : State} (hS : Keeps M S0 s)
    (hM : Change.le { parts := [.time, .log] } M = true := by first | assumption | exact Change.le_trans (by assumption) (by decide +kernel)) :
    Keeps M S0 (State.ppsRecord s whorlNs) := by
  unfold State.ppsRecord
  dsimp only
  repeat' (first | with_reducible assumption | intro _ | with_reducible refine keeps_sourceLost ?_ | with_reducible refine keeps_sourceQualifies ?_ | with_reducible refine keeps_ite ?_ ?_ | (simp only [keeps_mk]; with_reducible refine keeps_updt ?_) | split)

theorem keeps_execCaptureEdge {j : Nat} {sub : Nat} {rise : Bool} {s : State} (hS : Keeps M S0 s)
    (hM : Change.le { parts := [.time, .meet, .cnt, .log], regs := [.tsCapStat] } M = true := by first | assumption | exact Change.le_trans (by assumption) (by decide +kernel)) :
    KeepsOut M S0 (execCaptureEdge j sub rise s) := by
  unfold execCaptureEdge
  dsimp only
  repeat' (first | with_reducible assumption | intro _ | with_reducible refine keeps_raise ?_ | with_reducible refine keeps_count ?_ | with_reducible refine keeps_setCaptures ?_ | with_reducible refine keeps_ppsRecord ?_ | with_reducible refine keeps_next ?_ | with_reducible refine keeps_ite ?_ ?_ | with_reducible refine keeps_ite_out ?_ ?_ | (simp only [keeps_mk]; with_reducible refine keeps_updt ?_))

theorem keeps_capPop {who : Sender} {j : Nat} {s : State} (hS : Keeps M S0 s)
    (hM : Change.le { parts := [.time], regs := [.tsCapInfo, .tsCapStat] } M = true := by first | assumption | exact Change.le_trans (by assumption) (by decide +kernel)) :
    Keeps M S0 (State.capPop s who j).1 := by
  unfold State.capPop
  dsimp only
  repeat' (first | with_reducible assumption | with_reducible refine keeps_setReg ?_ | with_reducible refine keeps_setCaptures ?_ | split)

theorem keeps_execCapturePop {who : Sender} {j : Nat} {s : State} (hS : Keeps M S0 s)
    (hM : Change.le { parts := [.time, .meet, .cnt, .out], regs := [.protStat, .protViolAddr, .protViolInfo, .tsCapInfo, .tsCapStat] } M = true := by first | assumption | exact Change.le_trans (by assumption) (by decide +kernel)) :
    KeepsOut M S0 (execCapturePop who j s) := by
  unfold execCapturePop
  repeat' (first | with_reducible assumption | intro _ | with_reducible refine keeps_readAccess ?_ ?_ | with_reducible refine keeps_capPop ?_ | with_reducible refine keeps_next ?_ | with_reducible refine keeps_ite_out ?_ ?_)

theorem keeps_execTodHintLapse {s : State} (hS : Keeps M S0 s)
    (hM : Change.le { parts := [.time, .log] } M = true := by first | assumption | exact Change.le_trans (by assumption) (by decide +kernel)) :
    KeepsOut M S0 (execTodHintLapse s) := by
  unfold execTodHintLapse
  dsimp only
  repeat' (first | with_reducible assumption | intro _ | with_reducible refine keeps_logEvent ?_ | with_reducible refine keeps_next ?_ | with_reducible refine keeps_ite_out ?_ ?_ | (simp only [keeps_mk]; with_reducible refine keeps_updt ?_) | split)

theorem keeps_execPpsSourceTimeout {s : State} (hS : Keeps M S0 s)
    (hM : Change.le { parts := [.time, .log] } M = true := by first | assumption | exact Change.le_trans (by assumption) (by decide +kernel)) :
    KeepsOut M S0 (execPpsSourceTimeout s) := by
  unfold execPpsSourceTimeout
  dsimp only
  repeat' (first | with_reducible assumption | intro _ | with_reducible refine keeps_sourceLost ?_ | with_reducible refine keeps_next ?_ | with_reducible refine keeps_ite_out ?_ ?_)

theorem keeps_execRclkSquelchChange {r : Nat} {s : State} (hS : Keeps M S0 s)
    (hM : Change.le { parts := [.meet, .out], regs := [.tsRclkStat] } M = true := by first | assumption | exact Change.le_trans (by assumption) (by decide +kernel)) :
    KeepsOut M S0 (execRclkSquelchChange r s) := by
  unfold execRclkSquelchChange
  repeat' (first | with_reducible assumption | intro _ | with_reducible refine keeps_setFld ?_ | with_reducible refine keeps_raise ?_ | with_reducible refine keeps_emit ?_ | with_reducible refine keeps_next ?_ | with_reducible refine keeps_ite_out ?_ ?_)

end Sys2Proof.Machine
end

