-- ==== Sys2Proof/Laws/KeepsTimeCmds.lean ====
section
/-!
SUPPORT. Each operation and meaning of Machine/TimeCmds.lean keeps what no command may lose and changes nothing but what it names.
-/
set_option Elab.async false
namespace Sys2Proof.Machine
open Sys2Proof
variable {M : Change} {S0 : State}

theorem keeps_execTimeGet {p : Packet} {s : State} (hS : Keeps M S0 s)
    (hM : Change.le { parts := [.pkts, .log] } M = true := by first | assumption | exact Change.le_trans (by assumption) (by decide +kernel)) :
    KeepsOut M S0 (execTimeGet p s) := by
  unfold execTimeGet
  dsimp only
  repeat' (first | with_reducible assumption | intro _ | with_reducible refine keeps_Res_ok ?_ | with_reducible refine keeps_runPacket ?_ ?_)

theorem keeps_execTimeSet {p : Packet} {s : State} (hS : Keeps M S0 s)
    (hM : Change.le { parts := [.time, .meet, .pkts, .log], regs := [.tsStat] } M = true := by first | assumption | exact Change.le_trans (by assumption) (by decide +kernel)) :
    KeepsOut M S0 (execTimeSet p s) := by
  unfold execTimeSet
  repeat' (first | with_reducible assumption | intro _ | with_reducible refine keeps_Res_ok ?_ | with_reducible refine keeps_guarded ?_ ?_ | with_reducible refine keeps_runPacket ?_ ?_ | with_reducible refine keeps_setNetTime ?_)

theorem keeps_execTimeAdj {p : Packet} {s : State} (h : Keeps M S0 s)
    (hM : Change.le { parts := [.time, .pkts, .log], regs := [.tsSlewDelta] } M = true := by first | assumption | exact Change.le_trans (by assumption) (by decide +kernel)) :
    KeepsOut M S0 (execTimeAdj p s) := by
  unfold execTimeAdj
  apply keeps_runPacket h
  intro a s h
  apply keeps_guarded h
  apply keeps_Res_ok
  dsimp only
  split
  · split
    · exact keeps_updt (keeps_setReg (keeps_updt h))
    · exact keeps_updt (keeps_setReg h)
  · split
    · exact keeps_updt h
    · exact h

theorem keeps_execTimeServoSet {p : Packet} {s : State} (hS : Keeps M S0 s)
    (hM : Change.le { parts := [.time, .pkts, .log], regs := [.tsCapCtl, .tsCtl] } M = true := by first | assumption | exact Change.le_trans (by assumption) (by decide +kernel)) :
    KeepsOut M S0 (execTimeServoSet p s) := by
  unfold execTimeServoSet
  dsimp only
  repeat' (first | with_reducible assumption | intro _ | with_reducible refine keeps_setFld ?_ | with_reducible refine keeps_Res_ok ?_ | with_reducible refine keeps_guarded ?_ ?_ | with_reducible refine keeps_runPacket ?_ ?_ | with_reducible refine keeps_servoTo ?_ | with_reducible refine keeps_ite ?_ ?_ | (simp only [keeps_mk]; with_reducible refine keeps_updt ?_))

theorem keeps_execTimeServoGet {p : Packet} {s : State} (hS : Keeps M S0 s)
    (hM : Change.le { parts := [.pkts, .log] } M = true := by first | assumption | exact Change.le_trans (by assumption) (by decide +kernel)) :
    KeepsOut M S0 (execTimeServoGet p s) := by
  unfold execTimeServoGet
  dsimp only
  repeat' (first | with_reducible assumption | intro _ | with_reducible refine keeps_Res_ok ?_ | with_reducible refine keeps_runPacket ?_ ?_)

theorem keeps_execTodHint {p : Packet} {s : State} (hS : Keeps M S0 s)
    (hM : Change.le { parts := [.time, .pkts, .log] } M = true := by first | assumption | exact Change.le_trans (by assumption) (by decide +kernel)) :
    KeepsOut M S0 (execTodHint p s) := by
  unfold execTodHint
  dsimp only
  repeat' (first | with_reducible assumption | intro _ | with_reducible refine keeps_Res_ok ?_ | with_reducible refine keeps_guarded ?_ ?_ | with_reducible refine keeps_runPacket ?_ ?_ | (simp only [keeps_mk]; with_reducible refine keeps_updt ?_))

theorem keeps_evtProgram {h : EvtHeld} {s : State} (hS : Keeps M S0 s)
    (hM : Change.le { parts := [.time, .meet, .out], regs := [.tsEvtCtl, .tsEvtFrac, .tsEvtPeriod, .tsEvtStart, .tsEvtStat, .tsEvtWidth] } M = true := by first | assumption | exact Change.le_trans (by assumption) (by decide +kernel)) :
    Keeps M S0 (State.evtProgram s h) := by
  unfold State.evtProgram
  dsimp only
  repeat' (first | with_reducible assumption | with_reducible refine keeps_setReg ?_ | with_reducible refine keeps_writeEvtCtl ?_ | (simp only [keeps_mk]; with_reducible refine keeps_updt ?_))

theorem keeps_execTimeEvtSet {p : Packet} {s : State} (hS : Keeps M S0 s)
    (hM : Change.le { parts := [.time, .meet, .pkts, .log, .out], regs := [.tsEvtCtl, .tsEvtFrac, .tsEvtPeriod, .tsEvtStart, .tsEvtStat, .tsEvtWidth] } M = true := by first | assumption | exact Change.le_trans (by assumption) (by decide +kernel)) :
    KeepsOut M S0 (execTimeEvtSet p s) := by
  unfold execTimeEvtSet
  dsimp only
  repeat' (first | with_reducible assumption | intro _ | with_reducible refine keeps_Res_ok ?_ | with_reducible refine keeps_guarded ?_ ?_ | with_reducible refine keeps_runPacket ?_ ?_ | with_reducible refine keeps_writeEvtCtl ?_ | with_reducible refine keeps_evtProgram ?_ | with_reducible refine keeps_ite_res ?_ ?_ | (simp only [keeps_mk]; with_reducible refine keeps_updt ?_))

theorem keeps_execTimePpsSet {p : Packet} {s : State} (hS : Keeps M S0 s)
    (hM : Change.le { parts := [.pkts, .log], regs := [.tsPpsCfg] } M = true := by first | assumption | exact Change.le_trans (by assumption) (by decide +kernel)) :
    KeepsOut M S0 (execTimePpsSet p s) := by
  unfold execTimePpsSet
  repeat' (first | with_reducible assumption | intro _ | with_reducible refine keeps_setReg ?_ | with_reducible refine keeps_Res_ok ?_ | with_reducible refine keeps_guarded ?_ ?_ | with_reducible refine keeps_runPacket ?_ ?_)

theorem keeps_execTimeCapSet {p : Packet} {s : State} (hS : Keeps M S0 s)
    (hM : Change.le { parts := [.pkts, .log], regs := [.tsCapCtl] } M = true := by first | assumption | exact Change.le_trans (by assumption) (by decide +kernel)) :
    KeepsOut M S0 (execTimeCapSet p s) := by
  unfold execTimeCapSet
  dsimp only
  repeat' (first | with_reducible assumption | intro _ | with_reducible refine keeps_setFld ?_ | with_reducible refine keeps_Res_ok ?_ | with_reducible refine keeps_guarded ?_ ?_ | with_reducible refine keeps_runPacket ?_ ?_)

theorem keeps_execTimeCapGet {p : Packet} {s : State} (hS : Keeps M S0 s)
    (hM : Change.le { parts := [.time, .pkts, .log], regs := [.tsCapStat] } M = true := by first | assumption | exact Change.le_trans (by assumption) (by decide +kernel)) :
    KeepsOut M S0 (execTimeCapGet p s) := by
  unfold execTimeCapGet
  dsimp only
  repeat' (first | with_reducible assumption | intro _ | with_reducible refine keeps_Res_ok ?_ | with_reducible refine keeps_guarded ?_ ?_ | with_reducible refine keeps_runPacket ?_ ?_ | with_reducible refine keeps_setCaptures ?_)

theorem keeps_execTimeRclkSet {p : Packet} {s : State} (hS : Keeps M S0 s)
    (hM : Change.le { parts := [.pkts, .log], regs := [.tsRclkCtl] } M = true := by first | assumption | exact Change.le_trans (by assumption) (by decide +kernel)) :
    KeepsOut M S0 (execTimeRclkSet p s) := by
  unfold execTimeRclkSet
  repeat' (first | with_reducible assumption | intro _ | with_reducible refine keeps_setReg ?_ | with_reducible refine keeps_Res_ok ?_ | with_reducible refine keeps_guarded ?_ ?_ | with_reducible refine keeps_runPacket ?_ ?_)

end Sys2Proof.Machine
end

