-- ==== Sys2Proof/Laws/KeepsCounting.lean ====
section
/-!
SUPPORT. Each operation and meaning of Machine/Counting.lean keeps what no command may lose and changes nothing but what it names.
-/
set_option Elab.async false
namespace Sys2Proof.Machine
open Sys2Proof
variable {M : Change} {S0 : State}

theorem keeps_addImage {key : Nat} {n : Nat} {s : State} (hS : Keeps M S0 s)
    (hM : Change.le { parts := [.cnt], anyReg := true } M = true := by first | assumption | exact Change.le_trans (by assumption) (by decide +kernel)) :
    Keeps M S0 (State.addImage s key n) := by
  unfold State.addImage
  dsimp only
  repeat' (first | with_reducible assumption | intro _ | with_reducible refine keeps_setReg ?_ | with_reducible refine keeps_ite ?_ ?_ | (simp only [keeps_mk]; with_reducible refine keeps_upd ?_) | split)

theorem keeps_snapRegs {s : State} (hS : Keeps M S0 s)
    (hM : Change.le { parts := [.cnt], anyReg := true } M = true := by first | assumption | exact Change.le_trans (by assumption) (by decide +kernel)) :
    Keeps M S0 (State.snapRegs s) := by
  unfold State.snapRegs
  dsimp only
  repeat' (first | with_reducible assumption | intro _ | with_reducible refine keeps_addImage ?_ | with_reducible refine keeps_foldl ?_ ?_ | (simp only [keeps_mk]; with_reducible refine keeps_upd ?_))

theorem keeps_addArrImage {idx : Nat} {n : Nat} {s : State} (hS : Keeps M S0 s)
    (hM : Change.le { parts := [.meet, .cnt], regs := [.cntStat] } M = true := by first | assumption | exact Change.le_trans (by assumption) (by decide +kernel)) :
    Keeps M S0 (State.addArrImage s idx n) := by
  unfold State.addArrImage
  dsimp only
  repeat' (first | with_reducible assumption | intro _ | with_reducible refine keeps_raise ?_ | with_reducible refine keeps_ite ?_ ?_ | (simp only [keeps_mk]; with_reducible refine keeps_upd ?_))

theorem keeps_snapArrays {s : State} (hS : Keeps M S0 s)
    (hM : Change.le { parts := [.meet, .cnt], regs := [.cntStat] } M = true := by first | assumption | exact Change.le_trans (by assumption) (by decide +kernel)) :
    Keeps M S0 (State.snapArrays s) := by
  unfold State.snapArrays
  dsimp only
  repeat' (first | with_reducible assumption | intro _ | with_reducible refine keeps_addArrImage ?_ | with_reducible refine keeps_foldl ?_ ?_ | (simp only [keeps_mk]; with_reducible refine keeps_upd ?_))

theorem keeps_mergeQueue {q : Nat} {a : QAcc} {s : State} (hS : Keeps M S0 s)
    (hM : Change.le { parts := [.cnt], anyReg := true } M = true := by first | assumption | exact Change.le_trans (by assumption) (by decide +kernel)) :
    Keeps M S0 (State.mergeQueue s q a) := by
  unfold State.mergeQueue
  dsimp only
  repeat' (first | with_reducible assumption | intro _ | with_reducible refine keeps_setReg ?_ | with_reducible refine keeps_addImage ?_ | with_reducible refine keeps_ite ?_ ?_)

theorem keeps_snapSamples {s : State} (hS : Keeps M S0 s)
    (hM : Change.le { parts := [.cnt, .samp], anyReg := true } M = true := by first | assumption | exact Change.le_trans (by assumption) (by decide +kernel)) :
    Keeps M S0 (State.snapSamples s) := by
  unfold State.snapSamples
  dsimp only
  repeat' (first | with_reducible assumption | intro _ | with_reducible refine keeps_mergeQueue ?_ | with_reducible refine keeps_ite ?_ ?_ | with_reducible refine keeps_foldl ?_ ?_ | (simp only [keeps_mk]; with_reducible refine keeps_upd ?_))

theorem keeps_snapshot {s : State} (hS : Keeps M S0 s)
    (hM : Change.le { parts := [.meet, .cnt, .samp, .log], anyReg := true } M = true := by first | assumption | exact Change.le_trans (by assumption) (by decide +kernel)) :
    Keeps M S0 (State.snapshot s) := by
  unfold State.snapshot
  dsimp only
  repeat' (first | with_reducible assumption | intro _ | with_reducible refine keeps_setReg ?_ | with_reducible refine keeps_raise ?_ | with_reducible refine keeps_logEvent ?_ | with_reducible refine keeps_snapRegs ?_ | with_reducible refine keeps_snapArrays ?_ | with_reducible refine keeps_snapSamples ?_ | with_reducible refine keeps_ite ?_ ?_ | (simp only [keeps_mk]; with_reducible refine keeps_upd ?_))

theorem keeps_execCntSnapRequest {who : Sender} {v : Word} {s : State} (hS : Keeps M S0 s)
    (hM : Change.le { parts := [.meet, .cnt, .samp, .log], anyReg := true } M = true := by first | assumption | exact Change.le_trans (by assumption) (by decide +kernel)) :
    KeepsOut M S0 (execCntSnapRequest who v s) := by
  unfold execCntSnapRequest
  repeat' (first | with_reducible assumption | intro _ | with_reducible refine keeps_access ?_ ?_ | with_reducible refine keeps_snapshot ?_ | with_reducible refine keeps_next ?_ | with_reducible refine keeps_ite ?_ ?_)

theorem keeps_execFirmwareSnapshot {s : State} (hS : Keeps M S0 s)
    (hM : Change.le { parts := [.meet, .cnt, .samp, .log], anyReg := true } M = true := by first | assumption | exact Change.le_trans (by assumption) (by decide +kernel)) :
    KeepsOut M S0 (execFirmwareSnapshot s) := by
  unfold execFirmwareSnapshot
  repeat' (first | with_reducible assumption | intro _ | with_reducible refine keeps_snapshot ?_ | with_reducible refine keeps_next ?_ | with_reducible refine keeps_ite_out ?_ ?_)

theorem keeps_execSnapshot {p : Packet} {s : State} (hS : Keeps M S0 s)
    (hM : Change.le { parts := [.meet, .cnt, .samp, .pkts, .log], anyReg := true } M = true := by first | assumption | exact Change.le_trans (by assumption) (by decide +kernel)) :
    KeepsOut M S0 (execSnapshot p s) := by
  unfold execSnapshot
  dsimp only
  repeat' (first | with_reducible assumption | intro _ | with_reducible refine keeps_runPacket ?_ ?_ | with_reducible refine keeps_snapshot ?_)

theorem keeps_transfer {p : Nat → Bool} {s : State} (hS : Keeps M S0 s)
    (hM : Change.le { parts := [.cnt] } M = true := by first | assumption | exact Change.le_trans (by assumption) (by decide +kernel)) :
    Keeps M S0 (State.transfer s p) := by
  unfold State.transfer
  dsimp only
  repeat' (first | with_reducible assumption | (simp only [keeps_mk]; with_reducible refine keeps_upd ?_))

theorem keeps_execArrayTransfer {s : State} (hS : Keeps M S0 s)
    (hM : Change.le { parts := [.meet, .cnt], regs := [.cntStat] } M = true := by first | assumption | exact Change.le_trans (by assumption) (by decide +kernel)) :
    KeepsOut M S0 (execArrayTransfer s) := by
  unfold execArrayTransfer
  repeat' (first | with_reducible assumption | intro _ | with_reducible refine keeps_raise ?_ | with_reducible refine keeps_transfer ?_ | with_reducible refine keeps_next ?_ | with_reducible refine keeps_ite_out ?_ ?_)

theorem keeps_execCntRead {p : Packet} {s : State} (hS : Keeps M S0 s)
    (hM : Change.le { parts := [.cnt, .pkts, .log, .out] } M = true := by first | assumption | exact Change.le_trans (by assumption) (by decide +kernel)) :
    KeepsOut M S0 (execCntRead p s) := by
  unfold execCntRead
  dsimp only
  repeat' (first | with_reducible assumption | intro _ | with_reducible refine keeps_Res_ok ?_ | with_reducible refine keeps_guarded ?_ ?_ | with_reducible refine keeps_dmaWrite ?_ ?_ | with_reducible refine keeps_runPacket ?_ ?_ | with_reducible refine keeps_transfer ?_ | with_reducible refine keeps_ite ?_ ?_ | (simp only [keeps_mk]; with_reducible refine keeps_upd ?_))

end Sys2Proof.Machine
end

