-- ==== Sys2Proof/Laws/KeepsMailbox.lean ====
section
/-!
SUPPORT. Each operation and meaning of Machine/Mailbox.lean keeps what no command may lose and changes nothing but what it names.
-/
set_option Elab.async false
namespace Sys2Proof.Machine
open Sys2Proof
variable {M : Change} {S0 : State}

theorem keeps_mbError {kind : Nat} {chan : Nat} {sid : Nat} {s : State} (hS : Keeps M S0 s)
    (hM : Change.le { parts := [.meet, .cnt], regs := [.mbErr, .mbErrInfo] } M = true := by first | assumption | exact Change.le_trans (by assumption) (by decide +kernel)) :
    Keeps M S0 (State.mbError s kind chan sid) := by
  unfold State.mbError
  dsimp only
  repeat' (first | with_reducible assumption | intro _ | with_reducible refine keeps_setReg ?_ | with_reducible refine keeps_raise ?_ | with_reducible refine keeps_count ?_ | with_reducible refine keeps_ite ?_ ?_)

theorem keeps_applyInc {n : Nat} {s : State} (hS : Keeps M S0 s)
    (hM : Change.le { regs := [.mbInCtl, .mbInInc] } M = true := by first | assumption | exact Change.le_trans (by assumption) (by decide +kernel)) :
    Keeps M S0 (State.applyInc s n) := by
  unfold State.applyInc
  repeat' (first | with_reducible assumption | intro _ | with_reducible refine keeps_setReg ?_ | with_reducible refine keeps_setFld ?_ | with_reducible refine keeps_ite ?_ ?_)

theorem keeps_postIn {n : Nat} {sid : Nat} {s : State} (hS : Keeps M S0 s)
    (hM : Change.le { parts := [.meet, .cnt], regs := [.mbErr, .mbErrInfo, .mbInCtl, .mbInInc] } M = true := by first | assumption | exact Change.le_trans (by assumption) (by decide +kernel)) :
    Keeps M S0 (State.postIn s n sid) := by
  unfold State.postIn
  dsimp only
  repeat' (first | with_reducible assumption | intro _ | with_reducible refine keeps_setFld ?_ | with_reducible refine keeps_mbError ?_ | with_reducible refine keeps_applyInc ?_ | with_reducible refine keeps_ite ?_ ?_ | (simp only [keeps_mk]; with_reducible refine keeps_upd ?_))

theorem keeps_newInc {n : Nat} {s : State} (hS : Keeps M S0 s)
    (hM : Change.le { regs := [.mbInCtl, .mbInInc] } M = true := by first | assumption | exact Change.le_trans (by assumption) (by decide +kernel)) :
    Keeps M S0 (State.newInc s n) := by
  unfold State.newInc
  dsimp only
  repeat' (first | with_reducible assumption | intro _ | with_reducible refine keeps_setFld ?_ | with_reducible refine keeps_applyInc ?_ | with_reducible refine keeps_ite ?_ ?_)

theorem keeps_execMbInPost {who : Sender} {n : Nat} {s : State} (hS : Keeps M S0 s)
    (hM : Change.le { parts := [.meet, .cnt], regs := [.mbErr, .mbErrInfo, .mbInCtl, .mbInInc, .protStat, .protViolAddr, .protViolInfo] } M = true := by first | assumption | exact Change.le_trans (by assumption) (by decide +kernel)) :
    KeepsOut M S0 (execMbInPost who n s) := by
  unfold execMbInPost
  repeat' (first | with_reducible assumption | intro _ | with_reducible refine keeps_access ?_ ?_ | with_reducible refine keeps_mbError ?_ | with_reducible refine keeps_postIn ?_ | with_reducible refine keeps_next ?_ | with_reducible refine keeps_ite ?_ ?_ | with_reducible refine keeps_ite_out ?_ ?_ | split)

theorem keeps_execMbNewInc {who : Sender} {n : Nat} {s : State} (hS : Keeps M S0 s)
    (hM : Change.le { parts := [.meet, .cnt], regs := [.mbErr, .mbErrInfo, .mbInCtl, .mbInInc, .protStat, .protViolAddr, .protViolInfo] } M = true := by first | assumption | exact Change.le_trans (by assumption) (by decide +kernel)) :
    KeepsOut M S0 (execMbNewInc who n s) := by
  unfold execMbNewInc
  repeat' (first | with_reducible assumption | intro _ | with_reducible refine keeps_access ?_ ?_ | with_reducible refine keeps_mbError ?_ | with_reducible refine keeps_newInc ?_ | with_reducible refine keeps_next ?_ | with_reducible refine keeps_ite ?_ ?_ | with_reducible refine keeps_ite_out ?_ ?_ | split)

theorem keeps_execIncarnationApply {n : Nat} {s : State} (hS : Keeps M S0 s)
    (hM : Change.le { regs := [.mbInCtl, .mbInInc] } M = true := by first | assumption | exact Change.le_trans (by assumption) (by decide +kernel)) :
    KeepsOut M S0 (execIncarnationApply n s) := by
  unfold execIncarnationApply
  repeat' (first | with_reducible assumption | intro _ | with_reducible refine keeps_applyInc ?_ | with_reducible refine keeps_next ?_ | with_reducible refine keeps_ite_out ?_ ?_)

theorem keeps_consumeIn {n : Nat} {s : State} (hS : Keeps M S0 s)
    (hM : Change.le { parts := [.meet], regs := [.mbInCinc, .mbInCtl, .mbInInc, .mbStat] } M = true := by first | assumption | exact Change.le_trans (by assumption) (by decide +kernel)) :
    Keeps M S0 (State.consumeIn s n) := by
  unfold State.consumeIn
  dsimp only
  repeat' (first | with_reducible assumption | with_reducible refine keeps_setReg ?_ | with_reducible refine keeps_setFld ?_ | with_reducible refine keeps_raiseBits ?_ | with_reducible refine keeps_applyInc ?_)

theorem keeps_execMbInConsume {n : Nat} {dma : List Byte} {dmaFault : Bool} {s : State} (hS : Keeps M S0 s)
    (hM : Change.le { parts := [.meet, .cnt, .pkts, .log], regs := [.mbErr, .mbErrInfo, .mbInCinc, .mbInCtl, .mbInInc, .mbStat] } M = true := by first | assumption | exact Change.le_trans (by assumption) (by decide +kernel)) :
    KeepsOut M S0 (execMbInConsume n dma dmaFault s) := by
  unfold execMbInConsume
  dsimp only
  repeat' (first | with_reducible assumption | intro _ | with_reducible refine keeps_consume ?_ ?_ | with_reducible refine keeps_take_ ?_ | with_reducible refine keeps_mbError ?_ | with_reducible refine keeps_consumeIn ?_ | with_reducible refine keeps_next ?_ | with_reducible refine keeps_ite_out ?_ ?_)

theorem keeps_writeOutSlot {n : Nat} {bs : List Byte} {s : State} (hS : Keeps M S0 s)
    (hM : Change.le { regs := [.mbOutSlot] } M = true := by first | assumption | exact Change.le_trans (by assumption) (by decide +kernel)) :
    Keeps M S0 (State.writeOutSlot s n bs) := by
  unfold State.writeOutSlot
  repeat' (first | with_reducible assumption | intro _ | with_reducible refine keeps_setReg ?_ | with_reducible refine keeps_foldl ?_ ?_)

theorem keeps_execMbOutPost {n : Nat} {s : State} (hS : Keeps M S0 s)
    (hM : Change.le { parts := [.meet, .pkts], regs := [.mbOutCtl, .mbOutSlot, .mbStat] } M = true := by first | assumption | exact Change.le_trans (by assumption) (by decide +kernel)) :
    KeepsOut M S0 (execMbOutPost n s) := by
  unfold execMbOutPost
  dsimp only
  repeat' (first | with_reducible assumption | intro _ | with_reducible refine keeps_setFld ?_ | with_reducible refine keeps_raiseBits ?_ | with_reducible refine keeps_writeOutSlot ?_ | with_reducible refine keeps_next ?_ | with_reducible refine keeps_ite_out ?_ ?_ | (simp only [keeps_mk]; with_reducible refine keeps_upd ?_) | split)

theorem keeps_consumeOut {n : Nat} {sid : Nat} {s : State} (hS : Keeps M S0 s)
    (hM : Change.le { parts := [.meet, .cnt], regs := [.mbErr, .mbErrInfo, .mbOutCtl] } M = true := by first | assumption | exact Change.le_trans (by assumption) (by decide +kernel)) :
    Keeps M S0 (State.consumeOut s n sid) := by
  unfold State.consumeOut
  repeat' (first | with_reducible assumption | intro _ | with_reducible refine keeps_setFld ?_ | with_reducible refine keeps_mbError ?_ | with_reducible refine keeps_ite ?_ ?_)

theorem keeps_execMbOutConsume {who : Sender} {n : Nat} {s : State} (hS : Keeps M S0 s)
    (hM : Change.le { parts := [.meet, .cnt], regs := [.mbErr, .mbErrInfo, .mbOutCtl, .protStat, .protViolAddr, .protViolInfo] } M = true := by first | assumption | exact Change.le_trans (by assumption) (by decide +kernel)) :
    KeepsOut M S0 (execMbOutConsume who n s) := by
  unfold execMbOutConsume
  repeat' (first | with_reducible assumption | intro _ | with_reducible refine keeps_access ?_ ?_ | with_reducible refine keeps_consumeOut ?_ | with_reducible refine keeps_next ?_ | with_reducible refine keeps_ite_out ?_ ?_ | split)

theorem may_h2dReg {a : Change} {hi : Bool} (h : a.le M = true) (h1 : a.may .mbH2dDbHi = true) (h2 : a.may .mbH2dDbLo = true) :
    M.may (h2dReg hi) = true := Change.may_ite h h1 h2

theorem may_d2hReg {a : Change} {hi : Bool} (h : a.le M = true) (h1 : a.may .mbD2hDbHi = true) (h2 : a.may .mbD2hDbLo = true) :
    M.may (d2hReg hi) = true := Change.may_ite h h1 h2

theorem keeps_h2dSet {hi : Bool} {sid : Nat} {bits : Nat} {s : State} (hS : Keeps M S0 s)
    (hM : Change.le { parts := [.meet, .cnt], regs := [.mbErr, .mbErrInfo, .mbH2dDbHi, .mbH2dDbLo] } M = true := by first | assumption | exact Change.le_trans (by assumption) (by decide +kernel)) :
    Keeps M S0 (State.h2dSet s hi sid bits) := by
  unfold State.h2dSet
  have hd := may_h2dReg (hi := hi) hM (by decide +kernel) (by decide +kernel)
  dsimp only
  repeat' (first | with_reducible assumption | intro _ | with_reducible refine keeps_raiseBits ?_ | with_reducible refine keeps_mbError ?_ | with_reducible refine keeps_ite ?_ ?_)

theorem keeps_execDoorbellH2dSet {who : Sender} {hi : Bool} {bits : Word} {s : State} (hS : Keeps M S0 s)
    (hM : Change.le { parts := [.meet, .cnt], regs := [.mbErr, .mbErrInfo, .mbH2dDbHi, .mbH2dDbLo, .protStat, .protViolAddr, .protViolInfo] } M = true := by first | assumption | exact Change.le_trans (by assumption) (by decide +kernel)) :
    KeepsOut M S0 (execDoorbellH2dSet who hi bits s) := by
  unfold execDoorbellH2dSet
  repeat' (first | with_reducible assumption | intro _ | with_reducible refine keeps_access ?_ ?_ | with_reducible refine keeps_h2dSet ?_ | with_reducible refine keeps_next ?_ | split)

theorem keeps_execDoorbellH2dClear {hi : Bool} {bits : Word} {s : State} (hS : Keeps M S0 s)
    (hM : Change.le { regs := [.mbH2dDbHi, .mbH2dDbLo] } M = true := by first | assumption | exact Change.le_trans (by assumption) (by decide +kernel)) :
    KeepsOut M S0 (execDoorbellH2dClear hi bits s) := by
  unfold execDoorbellH2dClear
  have hd := may_h2dReg (hi := hi) hM (by decide +kernel) (by decide +kernel)
  repeat' (first | with_reducible assumption | with_reducible refine keeps_w1c ?_ | with_reducible refine keeps_next ?_)

theorem keeps_d2hSet {n : Nat} {s : State} (hS : Keeps M S0 s)
    (hM : Change.le { parts := [.meet], regs := [.mbD2hDbHi, .mbD2hDbLo] } M = true := by first | assumption | exact Change.le_trans (by assumption) (by decide +kernel)) :
    Keeps M S0 (State.d2hSet s n) := by
  unfold State.d2hSet
  have hd := may_d2hReg (hi := decide (32 ≤ n)) hM (by decide +kernel) (by decide +kernel)
  repeat' (first | with_reducible assumption | with_reducible refine keeps_raiseBits ?_)

theorem keeps_execDoorbellD2hSet {n : Nat} {s : State} (hS : Keeps M S0 s)
    (hM : Change.le { parts := [.meet], regs := [.mbD2hDbHi, .mbD2hDbLo] } M = true := by first | assumption | exact Change.le_trans (by assumption) (by decide +kernel)) :
    KeepsOut M S0 (execDoorbellD2hSet n s) := by
  unfold execDoorbellD2hSet
  repeat' (first | with_reducible assumption | intro _ | with_reducible refine keeps_d2hSet ?_ | with_reducible refine keeps_next ?_ | with_reducible refine keeps_ite_out ?_ ?_)

theorem keeps_d2hClear {hi : Bool} {sid : Nat} {bits : Nat} {s : State} (hS : Keeps M S0 s)
    (hM : Change.le { parts := [.meet, .cnt], regs := [.mbD2hDbHi, .mbD2hDbLo, .mbErr, .mbErrInfo] } M = true := by first | assumption | exact Change.le_trans (by assumption) (by decide +kernel)) :
    Keeps M S0 (State.d2hClear s hi sid bits) := by
  unfold State.d2hClear
  have hd := may_d2hReg (hi := hi) hM (by decide +kernel) (by decide +kernel)
  dsimp only
  repeat' (first | with_reducible assumption | intro _ | with_reducible refine keeps_w1c ?_ | with_reducible refine keeps_mbError ?_ | with_reducible refine keeps_ite ?_ ?_)

theorem keeps_execDoorbellD2hClear {who : Sender} {hi : Bool} {bits : Word} {s : State} (hS : Keeps M S0 s)
    (hM : Change.le { parts := [.meet, .cnt], regs := [.mbD2hDbHi, .mbD2hDbLo, .mbErr, .mbErrInfo, .protStat, .protViolAddr, .protViolInfo] } M = true := by first | assumption | exact Change.le_trans (by assumption) (by decide +kernel)) :
    KeepsOut M S0 (execDoorbellD2hClear who hi bits s) := by
  unfold execDoorbellD2hClear
  repeat' (first | with_reducible assumption | intro _ | with_reducible refine keeps_access ?_ ?_ | with_reducible refine keeps_d2hClear ?_ | with_reducible refine keeps_next ?_)

theorem keeps_answerJournal {s : State} (hS : Keeps M S0 s)
    (hM : Change.le { parts := [.pkts] } M = true := by first | assumption | exact Change.le_trans (by assumption) (by decide +kernel)) :
    Keeps M S0 (State.answerJournal s) := by
  unfold State.answerJournal
  dsimp only
  repeat' (first | with_reducible assumption | (simp only [keeps_mk]; with_reducible refine keeps_upd ?_))

end Sys2Proof.Machine
end

