-- ==== Sys2Proof/Laws/KeepsAddressTable.lean ====
section
/-!
SUPPORT. Each operation and meaning of Machine/AddressTable.lean keeps what no command may lose and changes nothing but what it names.
-/
set_option Elab.async false
namespace Sys2Proof.Machine
open Sys2Proof
variable {M : Change} {S0 : State}

theorem keeps_putAddr {q : Nat} {pos : Nat} {e : AddrEnt} {s : State} (hS : Keeps M S0 s)
    (hM : Change.le { parts := [.tab] } M = true := by first | assumption | exact Change.le_trans (by assumption) (by decide +kernel)) :
    Keeps M S0 (State.putAddr s q pos e) := by
  unfold State.putAddr
  dsimp only
  repeat' (first | with_reducible assumption | (simp only [keeps_mk]; with_reducible refine keeps_upd ?_))

theorem keeps_dropAddr {q : Nat} {pos : Nat} {s : State} (hS : Keeps M S0 s)
    (hM : Change.le { parts := [.tab] } M = true := by first | assumption | exact Change.le_trans (by assumption) (by decide +kernel)) :
    Keeps M S0 (State.dropAddr s q pos) := by
  unfold State.dropAddr
  dsimp only
  repeat' (first | with_reducible assumption | (simp only [keeps_mk]; with_reducible refine keeps_upd ?_))

theorem keeps_setHit {q : Nat} {pos : Nat} {s : State} (hS : Keeps M S0 s)
    (hM : Change.le { parts := [.tab] } M = true := by first | assumption | exact Change.le_trans (by assumption) (by decide +kernel)) :
    Keeps M S0 (State.setHit s q pos) := by
  unfold State.setHit
  dsimp only
  repeat' (first | with_reducible assumption | (simp only [keeps_mk]; with_reducible refine keeps_upd ?_))

theorem keeps_notice {q : Nat} {r : List Byte} {s : State} (hS : Keeps M S0 s)
    (hM : Change.le { parts := [.meet, .cnt, .tab], regs := [.tbStat] } M = true := by first | assumption | exact Change.le_trans (by assumption) (by decide +kernel)) :
    Keeps M S0 (State.notice s q r) := by
  unfold State.notice
  dsimp only
  repeat' (first | with_reducible assumption | intro _ | with_reducible refine keeps_raise ?_ | with_reducible refine keeps_count ?_ | with_reducible refine keeps_ite ?_ ?_ | (simp only [keeps_mk]; with_reducible refine keeps_upd ?_))

theorem keeps_addrError {q : Nat} {pos : Nat} {s : State} (hS : Keeps M S0 s)
    (hM : Change.le { parts := [.meet, .cnt, .tab], regs := [.tbErrIdx, .tbStat] } M = true := by first | assumption | exact Change.le_trans (by assumption) (by decide +kernel)) :
    Keeps M S0 (State.addrError s q pos) := by
  unfold State.addrError
  dsimp only
  repeat' (first | with_reducible assumption | intro _ | with_reducible refine keeps_setReg ?_ | with_reducible refine keeps_raise ?_ | with_reducible refine keeps_dropAddr ?_ | with_reducible refine keeps_notice ?_ | with_reducible refine keeps_ite ?_ ?_ | (simp only [keeps_mk]; with_reducible refine keeps_upd ?_) | split)

theorem keeps_addrCorrected {q : Nat} {pos : Nat} {s : State} (hS : Keeps M S0 s)
    (hM : Change.le { parts := [.meet], regs := [.tbErrIdx, .tbStat] } M = true := by first | assumption | exact Change.le_trans (by assumption) (by decide +kernel)) :
    Keeps M S0 (State.addrCorrected s q pos) := by
  unfold State.addrCorrected
  repeat' (first | with_reducible assumption | with_reducible refine keeps_setReg ?_ | with_reducible refine keeps_raise ?_)

theorem keeps_relocate {q : Nat} {src : Nat} {dst : Nat} {s : State} (hS : Keeps M S0 s)
    (hM : Change.le { parts := [.tab] } M = true := by first | assumption | exact Change.le_trans (by assumption) (by decide +kernel)) :
    Keeps M S0 (State.relocate s q src dst) := by
  unfold State.relocate
  repeat' (first | with_reducible assumption | with_reducible refine keeps_putAddr ?_ | with_reducible refine keeps_dropAddr ?_ | split)

theorem keeps_insertAddr {q : Nat} {e : AddrEnt} {s : State} (hS : Keeps M S0 s)
    (hM : Change.le { parts := [.tab] } M = true := by first | assumption | exact Change.le_trans (by assumption) (by decide +kernel)) :
    KeepsOpt1 M S0 (State.insertAddr s q e) := by
  unfold State.insertAddr
  repeat' (first | with_reducible assumption | with_reducible refine keeps_putAddr ?_ | with_reducible refine keeps_relocate ?_ | with_reducible refine keeps_some1 ?_ | with_reducible refine keeps_none1 | split)

theorem keeps_limitRefused {r : LearnReq} {s : State} (hS : Keeps M S0 s)
    (hM : Change.le { parts := [.meet, .cnt, .tab], regs := [.tbStat] } M = true := by first | assumption | exact Change.le_trans (by assumption) (by decide +kernel)) :
    Keeps M S0 (State.limitRefused s r) := by
  unfold State.limitRefused
  dsimp only
  repeat' (first | with_reducible assumption | intro _ | with_reducible refine keeps_count ?_ | with_reducible refine keeps_notice ?_ | with_reducible refine keeps_ite ?_ ?_ | (simp only [keeps_mk]; with_reducible refine keeps_upd ?_))

theorem keeps_learnRequest {r : LearnReq} {s : State} (hS : Keeps M S0 s)
    (hM : Change.le { parts := [.meet, .cnt, .tab], regs := [.tbStat] } M = true := by first | assumption | exact Change.le_trans (by assumption) (by decide +kernel)) :
    Keeps M S0 (State.learnRequest s r) := by
  unfold State.learnRequest
  dsimp only
  repeat' (first | with_reducible assumption | intro _ | with_reducible refine keeps_raise ?_ | with_reducible refine keeps_count ?_ | with_reducible refine keeps_ite ?_ ?_ | (simp only [keeps_mk]; with_reducible refine keeps_upd ?_))

theorem keeps_requestNotice {q : Nat} {fid : Nat} {mac : Nat} {port : Nat} {hit : Option (Nat × AddrEnt)} {s : State} (hS : Keeps M S0 s)
    (hM : Change.le { parts := [.meet, .cnt, .tab], regs := [.tbStat] } M = true := by first | assumption | exact Change.le_trans (by assumption) (by decide +kernel)) :
    Keeps M S0 (State.requestNotice s q fid mac port hit) := by
  unfold State.requestNotice
  dsimp only
  repeat' (first | with_reducible assumption | intro _ | with_reducible refine keeps_count ?_ | with_reducible refine keeps_notice ?_ | with_reducible refine keeps_ite ?_ ?_ | (simp only [keeps_mk]; with_reducible refine keeps_upd ?_))

theorem keeps_learnDecision {q : Nat} {p : Nat} {fid : Nat} {mac : Nat} {learnOn : Bool} {mode : Nat} {s : State} (hS : Keeps M S0 s)
    (hM : Change.le { parts := [.meet, .cnt, .tab], regs := [.tbStat] } M = true := by first | assumption | exact Change.le_trans (by assumption) (by decide +kernel)) :
    Keeps M S0 (State.learnDecision s q p fid mac learnOn mode) := by
  unfold State.learnDecision
  dsimp only
  repeat' (first | with_reducible assumption | intro _ | with_reducible refine keeps_count ?_ | with_reducible refine keeps_setHit ?_ | with_reducible refine keeps_notice ?_ | with_reducible refine keeps_learnRequest ?_ | with_reducible refine keeps_requestNotice ?_ | with_reducible refine keeps_ite ?_ ?_ | split)

theorem keeps_serveLearn {r : LearnReq} {s : State} (hS : Keeps M S0 s)
    (hM : Change.le { parts := [.meet, .cnt, .tab], regs := [.tbStat] } M = true := by first | assumption | exact Change.le_trans (by assumption) (by decide +kernel)) :
    Keeps M S0 (State.serveLearn s r) := by
  unfold State.serveLearn
  dsimp only
  repeat' (first | with_reducible assumption | intro _ | with_reducible refine keeps_raise ?_ | with_reducible refine keeps_count ?_ | with_reducible refine keeps_putAddr ?_ | with_reducible refine keeps_setHit ?_ | with_reducible refine keeps_notice ?_ | with_reducible refine keeps_insertAddr ?_ | with_reducible refine keeps_limitRefused ?_ | with_reducible refine keeps_ite ?_ ?_ | with_reducible refine keeps_eq_some1 (by assumption) ?_ | split)

theorem keeps_execLearnRequestServe {q : Nat} {s : State} (hS : Keeps M S0 s)
    (hM : Change.le { parts := [.meet, .cnt, .tab], regs := [.tbStat] } M = true := by first | assumption | exact Change.le_trans (by assumption) (by decide +kernel)) :
    KeepsOut M S0 (execLearnRequestServe q s) := by
  unfold execLearnRequestServe
  dsimp only
  repeat' (first | with_reducible assumption | with_reducible refine keeps_serveLearn ?_ | with_reducible refine keeps_next ?_ | (simp only [keeps_mk]; with_reducible refine keeps_upd ?_) | split)

theorem keeps_execTbScrubVisit {q : Nat} {bucketIdx : Nat} {k : Nat} {err : Nat} {s : State} (hS : Keeps M S0 s)
    (hM : Change.le { parts := [.meet, .cnt, .tab], regs := [.tbErrIdx, .tbStat] } M = true := by first | assumption | exact Change.le_trans (by assumption) (by decide +kernel)) :
    KeepsOut M S0 (execTbScrubVisit q bucketIdx k err s) := by
  unfold execTbScrubVisit
  dsimp only
  repeat' (first | with_reducible assumption | intro _ | with_reducible refine keeps_addrError ?_ | with_reducible refine keeps_addrCorrected ?_ | with_reducible refine keeps_next ?_ | with_reducible refine keeps_ite_out ?_ ?_ | split)

theorem keeps_setAge {q : Nat} {a : AgeState} {s : State} (hS : Keeps M S0 s)
    (hM : Change.le { parts := [.tab] } M = true := by first | assumption | exact Change.le_trans (by assumption) (by decide +kernel)) :
    Keeps M S0 (State.setAge s q a) := by
  unfold State.setAge
  dsimp only
  repeat' (first | with_reducible assumption | (simp only [keeps_mk]; with_reducible refine keeps_upd ?_))

theorem keeps_execAgingSweepStart {q : Nat} {s : State} (hS : Keeps M S0 s)
    (hM : Change.le { parts := [.meet, .tab], regs := [.tbStat] } M = true := by first | assumption | exact Change.le_trans (by assumption) (by decide +kernel)) :
    KeepsOut M S0 (execAgingSweepStart q s) := by
  unfold execAgingSweepStart
  dsimp only
  repeat' (first | with_reducible assumption | intro _ | with_reducible refine keeps_raise ?_ | with_reducible refine keeps_setAge ?_ | with_reducible refine keeps_next ?_ | with_reducible refine keeps_ite_out ?_ ?_)

theorem keeps_ageVisit {q : Nat} {e : Nat × AddrEnt} {s : State} (hS : Keeps M S0 s)
    (hM : Change.le { parts := [.meet, .cnt, .tab], regs := [.tbStat] } M = true := by first | assumption | exact Change.le_trans (by assumption) (by decide +kernel)) :
    Keeps M S0 (State.ageVisit q s e) := by
  unfold State.ageVisit
  dsimp only
  repeat' (first | with_reducible assumption | intro _ | with_reducible refine keeps_count ?_ | with_reducible refine keeps_putAddr ?_ | with_reducible refine keeps_dropAddr ?_ | with_reducible refine keeps_notice ?_ | with_reducible refine keeps_ite ?_ ?_)

theorem keeps_execAgingSweepStep {q : Nat} {s : State} (hS : Keeps M S0 s)
    (hM : Change.le { parts := [.meet, .cnt, .tab], regs := [.tbStat] } M = true := by first | assumption | exact Change.le_trans (by assumption) (by decide +kernel)) :
    KeepsOut M S0 (execAgingSweepStep q s) := by
  unfold execAgingSweepStep
  dsimp only
  repeat' (first | with_reducible assumption | intro _ | with_reducible refine keeps_setAge ?_ | with_reducible refine keeps_ageVisit ?_ | with_reducible refine keeps_next ?_ | with_reducible refine keeps_ite_out ?_ ?_ | with_reducible refine keeps_foldl ?_ ?_)

theorem keeps_holdNotice {r : List Byte} {s : State} (hS : Keeps M S0 s)
    (hM : Change.le { parts := [.tab] } M = true := by first | assumption | exact Change.le_trans (by assumption) (by decide +kernel)) :
    Keeps M S0 (State.holdNotice s r) := by
  unfold State.holdNotice
  dsimp only
  repeat' (first | with_reducible assumption | intro _ | with_reducible refine keeps_ite ?_ ?_ | (simp only [keeps_mk]; with_reducible refine keeps_upd ?_))

theorem keeps_execLearnNoticeFlush {q : Nat} {s : State} (hS : Keeps M S0 s)
    (hM : Change.le { parts := [.tab] } M = true := by first | assumption | exact Change.le_trans (by assumption) (by decide +kernel)) :
    KeepsOut M S0 (execLearnNoticeFlush q s) := by
  unfold execLearnNoticeFlush
  dsimp only
  repeat' (first | with_reducible assumption | intro _ | with_reducible refine keeps_holdNotice ?_ | with_reducible refine keeps_next ?_ | with_reducible refine keeps_ite_out ?_ ?_ | with_reducible refine keeps_foldl ?_ ?_ | (simp only [keeps_mk]; with_reducible refine keeps_upd ?_))

theorem keeps_execNoticeRingDelivery {cons : Nat} {s : State} (hS : Keeps M S0 s)
    (hM : Change.le { parts := [.meet, .tab, .out], regs := [.mbD2hDbHi, .mbD2hDbLo] } M = true := by first | assumption | exact Change.le_trans (by assumption) (by decide +kernel)) :
    KeepsOut M S0 (execNoticeRingDelivery cons s) := by
  unfold execNoticeRingDelivery
  dsimp only
  repeat' (first | with_reducible assumption | intro _ | with_reducible refine keeps_emit ?_ | with_reducible refine keeps_d2hSet ?_ | with_reducible refine keeps_next ?_ | with_reducible refine keeps_ite_out ?_ ?_ | with_reducible refine keeps_foldl ?_ ?_ | (simp only [keeps_mk]; with_reducible refine keeps_upd ?_))

theorem keeps_fdbInsert {q : Nat} {e : AddrEnt} {replace : Bool} {s : State} (hS : Keeps M S0 s)
    (hM : Change.le { parts := [.tab] } M = true := by first | assumption | exact Change.le_trans (by assumption) (by decide +kernel)) :
    Keeps M S0 (State.fdbInsert s q e replace).1 := by
  unfold State.fdbInsert
  repeat' (first | with_reducible assumption | intro _ | with_reducible refine keeps_putAddr ?_ | with_reducible refine keeps_insertAddr ?_ | with_reducible refine keeps_ite_fst ?_ ?_ | simp only [] | with_reducible refine keeps_eq_some1 (by assumption) ?_ | split)

theorem keeps_eachQuad {f : State → Nat → State × Status} {l : List Nat} {s : State} (h : Keeps M S0 s)
    (hf : ∀ s q, Keeps M S0 s → Keeps M S0 (f s q).1) :
    Keeps M S0 (eachQuad f l s).1 := by
  induction l generalizing s with
  | nil => exact h
  | cons q t ih => exact ih (hf _ _ h)

theorem keeps_quadCommand {mask : Nat} {f : State → Nat → State × Status} {s : State} (h : Keeps M S0 s)
    (hf : ∀ s q, Keeps M S0 s → Keeps M S0 (f s q).1) :
    Keeps M S0 (quadCommand s mask f).state := by
  unfold quadCommand
  exact keeps_eachQuad h hf

theorem keeps_execFdbInsert {p : Packet} {s : State} (hS : Keeps M S0 s)
    (hM : Change.le { parts := [.pkts, .log, .tab] } M = true := by first | assumption | exact Change.le_trans (by assumption) (by decide +kernel)) :
    KeepsOut M S0 (execFdbInsert p s) := by
  unfold execFdbInsert
  dsimp only
  repeat' (first | with_reducible assumption | intro _ | with_reducible refine keeps_guarded ?_ ?_ | with_reducible refine keeps_runPacket ?_ ?_ | with_reducible refine keeps_fdbInsert ?_ | with_reducible refine keeps_quadCommand ?_ ?_)

theorem keeps_execFdbDelete {p : Packet} {s : State} (hS : Keeps M S0 s)
    (hM : Change.le { parts := [.pkts, .log, .tab] } M = true := by first | assumption | exact Change.le_trans (by assumption) (by decide +kernel)) :
    KeepsOut M S0 (execFdbDelete p s) := by
  unfold execFdbDelete
  repeat' (first | with_reducible assumption | intro _ | with_reducible refine keeps_guarded ?_ ?_ | with_reducible refine keeps_runPacket ?_ ?_ | with_reducible refine keeps_dropAddr ?_ | with_reducible refine keeps_quadCommand ?_ ?_ | with_reducible refine keeps_ite_fst ?_ ?_ | split)

theorem keeps_execFdbSearch {p : Packet} {s : State} (hS : Keeps M S0 s)
    (hM : Change.le { parts := [.pkts, .log] } M = true := by first | assumption | exact Change.le_trans (by assumption) (by decide +kernel)) :
    KeepsOut M S0 (execFdbSearch p s) := by
  unfold execFdbSearch
  dsimp only
  repeat' (first | with_reducible assumption | intro _ | with_reducible refine keeps_guarded ?_ ?_ | with_reducible refine keeps_runPacket ?_ ?_)

theorem keeps_execFdbNext {p : Packet} {s : State} (hS : Keeps M S0 s)
    (hM : Change.le { parts := [.pkts, .log, .tab] } M = true := by first | assumption | exact Change.le_trans (by assumption) (by decide +kernel)) :
    KeepsOut M S0 (execFdbNext p s) := by
  unfold execFdbNext
  dsimp only
  repeat' (first | with_reducible assumption | intro _ | with_reducible refine keeps_guarded ?_ ?_ | with_reducible refine keeps_Res_job ?_ | with_reducible refine keeps_runPacket ?_ ?_ | (simp only [keeps_mk]; with_reducible refine keeps_upd ?_))

theorem keeps_execFdbFlushPort {p : Packet} {s : State} (hS : Keeps M S0 s)
    (hM : Change.le { parts := [.pkts, .log, .tab] } M = true := by first | assumption | exact Change.le_trans (by assumption) (by decide +kernel)) :
    KeepsOut M S0 (execFdbFlushPort p s) := by
  unfold execFdbFlushPort
  dsimp only
  repeat' (first | with_reducible assumption | intro _ | with_reducible refine keeps_guarded ?_ ?_ | with_reducible refine keeps_Res_job ?_ | with_reducible refine keeps_runPacket ?_ ?_ | (simp only [keeps_mk]; with_reducible refine keeps_upd ?_))

theorem keeps_flushAddr {q : Nat} {ok : AddrEnt → Bool} {s : State} (hS : Keeps M S0 s)
    (hM : Change.le { parts := [.tab] } M = true := by first | assumption | exact Change.le_trans (by assumption) (by decide +kernel)) :
    Keeps M S0 (State.flushAddr s q ok) := by
  unfold State.flushAddr
  repeat' (first | with_reducible assumption | intro _ | with_reducible refine keeps_dropAddr ?_ | with_reducible refine keeps_foldl ?_ ?_)

theorem keeps_flushPass {q : Nat} {sc : Scan} {a : Args} {s : State} (hS : Keeps M S0 s)
    (hM : Change.le { parts := [.pkts, .log, .tab] } M = true := by first | assumption | exact Change.le_trans (by assumption) (by decide +kernel)) :
    Keeps M S0 (State.flushPass s q sc a) := by
  unfold State.flushPass
  dsimp only
  repeat' (first | with_reducible assumption | with_reducible refine keeps_stepJob ?_ | with_reducible refine keeps_flushAddr ?_)

theorem keeps_nextPass {q : Nat} {sc : Scan} {j : Job} {a : Args} {s : State} (hS : Keeps M S0 s)
    (hM : Change.le { parts := [.pkts, .log, .tab, .out] } M = true := by first | assumption | exact Change.le_trans (by assumption) (by decide +kernel)) :
    Keeps M S0 (State.nextPass s q sc j a) := by
  unfold State.nextPass
  dsimp only
  repeat' (first | with_reducible assumption | intro _ | with_reducible refine keeps_Res_ok ?_ | with_reducible refine keeps_dmaWrite ?_ ?_ | with_reducible refine keeps_stepJob ?_ | with_reducible refine keeps_ite ?_ ?_)

theorem keeps_execScanPass {q : Nat} {s : State} (hS : Keeps M S0 s)
    (hM : Change.le { parts := [.pkts, .log, .tab, .out] } M = true := by first | assumption | exact Change.le_trans (by assumption) (by decide +kernel)) :
    KeepsOut M S0 (execScanPass q s) := by
  unfold execScanPass
  dsimp only
  repeat' (first | with_reducible assumption | intro _ | with_reducible refine keeps_flushPass ?_ | with_reducible refine keeps_nextPass ?_ | with_reducible refine keeps_next ?_ | with_reducible refine keeps_ite_out ?_ ?_ | (simp only [keeps_mk]; with_reducible refine keeps_upd ?_) | split)

theorem keeps_forQuads {f : State → Nat → State} {s : State} (h : Keeps M S0 s) (hf : ∀ s q, Keeps M S0 s → Keeps M S0 (f s q)) :
    Keeps M S0 (s.forQuads f) := by
  unfold State.forQuads
  exact keeps_foldl h hf

theorem keeps_execFdbAgeSet {p : Packet} {s : State} (hS : Keeps M S0 s)
    (hM : Change.le { parts := [.pkts, .log], regs := [.tbAgeCfg] } M = true := by first | assumption | exact Change.le_trans (by assumption) (by decide +kernel)) :
    KeepsOut M S0 (execFdbAgeSet p s) := by
  unfold execFdbAgeSet
  repeat' (first | with_reducible assumption | intro _ | with_reducible refine keeps_setReg ?_ | with_reducible refine keeps_Res_ok ?_ | with_reducible refine keeps_guarded ?_ ?_ | with_reducible refine keeps_runPacket ?_ ?_ | with_reducible refine keeps_forQuads ?_ ?_)

theorem keeps_execFdbLearnSet {p : Packet} {s : State} (hS : Keeps M S0 s)
    (hM : Change.le { parts := [.pkts, .log], regs := [.tbPortLearn] } M = true := by first | assumption | exact Change.le_trans (by assumption) (by decide +kernel)) :
    KeepsOut M S0 (execFdbLearnSet p s) := by
  unfold execFdbLearnSet
  repeat' (first | with_reducible assumption | intro _ | with_reducible refine keeps_setReg ?_ | with_reducible refine keeps_Res_ok ?_ | with_reducible refine keeps_guarded ?_ ?_ | with_reducible refine keeps_runPacket ?_ ?_ | with_reducible refine keeps_forQuads ?_ ?_)

theorem keeps_execFdbNotifySet {p : Packet} {s : State} (hS : Keeps M S0 s)
    (hM : Change.le { parts := [.pkts, .log, .tab] } M = true := by first | assumption | exact Change.le_trans (by assumption) (by decide +kernel)) :
    KeepsOut M S0 (execFdbNotifySet p s) := by
  unfold execFdbNotifySet
  dsimp only
  repeat' (first | with_reducible assumption | intro _ | with_reducible refine keeps_Res_ok ?_ | with_reducible refine keeps_guarded ?_ ?_ | with_reducible refine keeps_runPacket ?_ ?_ | (simp only [keeps_mk]; with_reducible refine keeps_upd ?_))

theorem keeps_setVlan {q : Nat} {vid : Nat} {v : VlanEnt} {s : State} (hS : Keeps M S0 s)
    (hM : Change.le { parts := [.tab] } M = true := by first | assumption | exact Change.le_trans (by assumption) (by decide +kernel)) :
    Keeps M S0 (State.setVlan s q vid v) := by
  unfold State.setVlan
  dsimp only
  repeat' (first | with_reducible assumption | (simp only [keeps_mk]; with_reducible refine keeps_upd ?_))

theorem keeps_execVlanSet {p : Packet} {s : State} (hS : Keeps M S0 s)
    (hM : Change.le { parts := [.pkts, .log, .tab] } M = true := by first | assumption | exact Change.le_trans (by assumption) (by decide +kernel)) :
    KeepsOut M S0 (execVlanSet p s) := by
  unfold execVlanSet
  dsimp only
  repeat' (first | with_reducible assumption | intro _ | with_reducible refine keeps_Res_ok ?_ | with_reducible refine keeps_guarded ?_ ?_ | with_reducible refine keeps_runPacket ?_ ?_ | with_reducible refine keeps_forQuads ?_ ?_ | with_reducible refine keeps_setVlan ?_)

theorem keeps_execVlanGet {p : Packet} {s : State} (hS : Keeps M S0 s)
    (hM : Change.le { parts := [.pkts, .log] } M = true := by first | assumption | exact Change.le_trans (by assumption) (by decide +kernel)) :
    KeepsOut M S0 (execVlanGet p s) := by
  unfold execVlanGet
  dsimp only
  repeat' (first | with_reducible assumption | intro _ | with_reducible refine keeps_Res_ok ?_ | with_reducible refine keeps_guarded ?_ ?_ | with_reducible refine keeps_runPacket ?_ ?_)

end Sys2Proof.Machine
end

