-- ==== Sys2Proof/Laws/KeepsPrefixTable.lean ====
section
/-!
SUPPORT. Each operation and meaning of Machine/PrefixTable.lean keeps what no command may lose and changes nothing but what it names.
-/
set_option Elab.async false
namespace Sys2Proof.Machine
open Sys2Proof
variable {M : Change} {S0 : State}

theorem keeps_setBank {q : Nat} {b : Nat} {x : PfxBank} {s : State} (hS : Keeps M S0 s)
    (hM : Change.le { parts := [.tab] } M = true := by first | assumption | exact Change.le_trans (by assumption) (by decide +kernel)) :
    Keeps M S0 (State.setBank s q b x) := by
  unfold State.setBank
  dsimp only
  repeat' (first | with_reducible assumption | (simp only [keeps_mk]; with_reducible refine keeps_upd ?_))

theorem keeps_queueOps {ops : List PfxOp} {s : State} (hS : Keeps M S0 s)
    (hM : Change.le { parts := [.tab] } M = true := by first | assumption | exact Change.le_trans (by assumption) (by decide +kernel)) :
    Keeps M S0 (State.queueOps s ops) := by
  unfold State.queueOps
  dsimp only
  repeat' (first | with_reducible assumption | (simp only [keeps_mk]; with_reducible refine keeps_upd ?_))

theorem keeps_pfxStep {q : Nat} {want : Nat → Bool} {s : State} (hS : Keeps M S0 s)
    (hM : Change.le { parts := [.pkts, .log, .tab] } M = true := by first | assumption | exact Change.le_trans (by assumption) (by decide +kernel)) :
    Keeps M S0 (State.pfxStep s q want) := by
  unfold State.pfxStep
  dsimp only
  repeat' (first | with_reducible assumption | intro _ | with_reducible refine keeps_stepJob ?_ | with_reducible refine keeps_setBank ?_ | with_reducible refine keeps_ite ?_ ?_ | (simp only [keeps_mk]; with_reducible refine keeps_upd ?_) | split)

theorem keeps_execPrefixBankInsert {q : Nat} {s : State} (hS : Keeps M S0 s)
    (hM : Change.le { parts := [.pkts, .log, .tab] } M = true := by first | assumption | exact Change.le_trans (by assumption) (by decide +kernel)) :
    KeepsOut M S0 (execPrefixBankInsert q s) := by
  unfold execPrefixBankInsert
  repeat' (first | with_reducible assumption | with_reducible refine keeps_pfxStep ?_ | with_reducible refine keeps_next ?_)

theorem keeps_execPrefixBankDelete {q : Nat} {s : State} (hS : Keeps M S0 s)
    (hM : Change.le { parts := [.pkts, .log, .tab] } M = true := by first | assumption | exact Change.le_trans (by assumption) (by decide +kernel)) :
    KeepsOut M S0 (execPrefixBankDelete q s) := by
  unfold execPrefixBankDelete
  repeat' (first | with_reducible assumption | with_reducible refine keeps_pfxStep ?_ | with_reducible refine keeps_next ?_)

theorem keeps_found {table : Nat} {q : Nat} {idx : Nat} {s : State} (hS : Keeps M S0 s)
    (hM : Change.le { parts := [.tab] } M = true := by first | assumption | exact Change.le_trans (by assumption) (by decide +kernel)) :
    Keeps M S0 (State.found s table q idx) := by
  unfold State.found
  dsimp only
  repeat' (first | with_reducible assumption | (simp only [keeps_mk]; with_reducible refine keeps_upd ?_))

theorem keeps_setNh {q : Nat} {i : Nat} {h : NextHop} {s : State} (hS : Keeps M S0 s)
    (hM : Change.le { parts := [.tab] } M = true := by first | assumption | exact Change.le_trans (by assumption) (by decide +kernel)) :
    Keeps M S0 (State.setNh s q i h) := by
  unfold State.setNh
  dsimp only
  repeat' (first | with_reducible assumption | with_reducible refine keeps_found ?_ | (simp only [keeps_mk]; with_reducible refine keeps_upd ?_))

theorem keeps_setMember {q : Nat} {k : Nat} {v : Nat} {s : State} (hS : Keeps M S0 s)
    (hM : Change.le { parts := [.tab] } M = true := by first | assumption | exact Change.le_trans (by assumption) (by decide +kernel)) :
    Keeps M S0 (State.setMember s q k v) := by
  unfold State.setMember
  dsimp only
  repeat' (first | with_reducible assumption | with_reducible refine keeps_found ?_ | (simp only [keeps_mk]; with_reducible refine keeps_upd ?_))

theorem keeps_setRif {q : Nat} {i : Nat} {r : Rif} {s : State} (hS : Keeps M S0 s)
    (hM : Change.le { parts := [.tab] } M = true := by first | assumption | exact Change.le_trans (by assumption) (by decide +kernel)) :
    Keeps M S0 (State.setRif s q i r) := by
  unfold State.setRif
  dsimp only
  repeat' (first | with_reducible assumption | with_reducible refine keeps_found ?_ | (simp only [keeps_mk]; with_reducible refine keeps_upd ?_))

theorem keeps_bindPort {q : Nat} {p : Nat} {i : Nat} {s : State} (hS : Keeps M S0 s)
    (hM : Change.le { parts := [.tab] } M = true := by first | assumption | exact Change.le_trans (by assumption) (by decide +kernel)) :
    Keeps M S0 (State.bindPort s q p i) := by
  unfold State.bindPort
  dsimp only
  repeat' (first | with_reducible assumption | (simp only [keeps_mk]; with_reducible refine keeps_upd ?_))

theorem keeps_bindVid {q : Nat} {v : Nat} {i : Nat} {s : State} (hS : Keeps M S0 s)
    (hM : Change.le { parts := [.tab] } M = true := by first | assumption | exact Change.le_trans (by assumption) (by decide +kernel)) :
    Keeps M S0 (State.bindVid s q v i) := by
  unfold State.bindVid
  dsimp only
  repeat' (first | with_reducible assumption | (simp only [keeps_mk]; with_reducible refine keeps_upd ?_))

theorem keeps_ecmpSet {q : Nat} {g : Nat} {ms : List Nat} {s : State} (hS : Keeps M S0 s)
    (hM : Change.le { parts := [.tab] } M = true := by first | assumption | exact Change.le_trans (by assumption) (by decide +kernel)) :
    Keeps M S0 (State.ecmpSet s q g ms).1 := by
  unfold State.ecmpSet
  dsimp only
  repeat' (first | with_reducible assumption | intro _ | with_reducible refine keeps_found ?_ | with_reducible refine keeps_setMember ?_ | with_reducible refine keeps_foldl ?_ ?_ | (simp only [keeps_mk]; with_reducible refine keeps_upd ?_) | split)

theorem keeps_execEcmpRangeFree {q : Nat} {s : State} (hS : Keeps M S0 s)
    (hM : Change.le { parts := [.tab] } M = true := by first | assumption | exact Change.le_trans (by assumption) (by decide +kernel)) :
    KeepsOut M S0 (execEcmpRangeFree q s) := by
  unfold execEcmpRangeFree
  dsimp only
  repeat' (first | with_reducible assumption | with_reducible refine keeps_next ?_ | (simp only [keeps_mk]; with_reducible refine keeps_upd ?_))

theorem keeps_fwdErr {q : Nat} {table : Nat} {kind : Nat} {idx : Nat} {f : Fld} {s : State} (hS : Keeps M S0 s) (hf : M.may f.reg = true := by first | assumption | exact Change.may_of_le (by assumption) (by decide +kernel) | exact Change.may_ite (by assumption) (by decide +kernel) (by decide +kernel) | exact Change.may_ite_fld (by assumption) (by decide +kernel) (by decide +kernel) | exact Change.may_of_any (Change.any_of_le (by assumption) (by decide +kernel)))
    (hM : Change.le { parts := [.meet], regs := [.fwdErrIdx] } M = true := by first | assumption | exact Change.le_trans (by assumption) (by decide +kernel)) :
    Keeps M S0 (State.fwdErr s q table kind idx f) := by
  unfold State.fwdErr
  repeat' (first | with_reducible assumption | with_reducible refine keeps_setReg ?_ | with_reducible refine keeps_raise ?_)

theorem keeps_pfxError {q : Nat} {b : Nat} {i : Nat} {kind : Nat} {s : State} (hS : Keeps M S0 s)
    (hM : Change.le { parts := [.meet, .tab], regs := [.fwdErrIdx, .fwdStat] } M = true := by first | assumption | exact Change.le_trans (by assumption) (by decide +kernel)) :
    Keeps M S0 (State.pfxError s q b i kind) := by
  unfold State.pfxError
  dsimp only
  repeat' (first | with_reducible assumption | with_reducible refine keeps_setBank ?_ | with_reducible refine keeps_fwdErr ?_ | split)

theorem keeps_l3Error {q : Nat} {table : Nat} {idx : Nat} {kind : Nat} {s : State} (hS : Keeps M S0 s)
    (hM : Change.le { parts := [.meet, .tab], regs := [.fwdErrIdx, .fwdStat] } M = true := by first | assumption | exact Change.le_trans (by assumption) (by decide +kernel)) :
    Keeps M S0 (State.l3Error s q table idx kind) := by
  unfold State.l3Error
  dsimp only
  repeat' (first | with_reducible assumption | intro _ | with_reducible refine keeps_fwdErr ?_ | with_reducible refine keeps_ite ?_ ?_ | (simp only [keeps_mk]; with_reducible refine keeps_upd ?_))

theorem keeps_execFwdScrubVisit {q : Nat} {table : Nat} {idx : Nat} {kind : Nat} {s : State} (hS : Keeps M S0 s)
    (hM : Change.le { parts := [.meet, .tab], regs := [.fwdErrIdx, .fwdStat] } M = true := by first | assumption | exact Change.le_trans (by assumption) (by decide +kernel)) :
    KeepsOut M S0 (execFwdScrubVisit q table idx kind s) := by
  unfold execFwdScrubVisit
  repeat' (first | with_reducible assumption | intro _ | with_reducible refine keeps_pfxError ?_ | with_reducible refine keeps_l3Error ?_ | with_reducible refine keeps_next ?_ | with_reducible refine keeps_ite_out ?_ ?_)

theorem keeps_execShadowRestore {table : Nat} {q : Nat} {idx : Nat} {s : State} (hS : Keeps M S0 s)
    (hM : Change.le { parts := [.tab] } M = true := by first | assumption | exact Change.le_trans (by assumption) (by decide +kernel)) :
    KeepsOut M S0 (execShadowRestore table q idx s) := by
  unfold execShadowRestore
  dsimp only
  repeat' (first | with_reducible assumption | intro _ | with_reducible refine keeps_insertAddr ?_ | with_reducible refine keeps_setBank ?_ | with_reducible refine keeps_found ?_ | with_reducible refine keeps_next ?_ | with_reducible refine keeps_ite ?_ ?_ | with_reducible refine keeps_ite_out ?_ ?_ | (simp only [keeps_mk]; with_reducible refine keeps_upd ?_) | with_reducible refine keeps_eq_some1 (by assumption) ?_ | split)

theorem keeps_execPfxInsert {p : Packet} {s : State} (hS : Keeps M S0 s)
    (hM : Change.le { parts := [.pkts, .log, .tab] } M = true := by first | assumption | exact Change.le_trans (by assumption) (by decide +kernel)) :
    KeepsOut M S0 (execPfxInsert p s) := by
  unfold execPfxInsert
  dsimp only
  repeat' (first | with_reducible assumption | intro _ | with_reducible refine keeps_guarded ?_ ?_ | with_reducible refine keeps_Res_job ?_ | with_reducible refine keeps_runPacket ?_ ?_ | with_reducible refine keeps_queueOps ?_ | with_reducible refine keeps_ite_res ?_ ?_)

theorem keeps_execPfxDelete {p : Packet} {s : State} (hS : Keeps M S0 s)
    (hM : Change.le { parts := [.pkts, .log, .tab] } M = true := by first | assumption | exact Change.le_trans (by assumption) (by decide +kernel)) :
    KeepsOut M S0 (execPfxDelete p s) := by
  unfold execPfxDelete
  dsimp only
  repeat' (first | with_reducible assumption | intro _ | with_reducible refine keeps_guarded ?_ ?_ | with_reducible refine keeps_Res_job ?_ | with_reducible refine keeps_runPacket ?_ ?_ | with_reducible refine keeps_queueOps ?_ | with_reducible refine keeps_ite_res ?_ ?_)

theorem keeps_execPfxSearch {p : Packet} {s : State} (hS : Keeps M S0 s)
    (hM : Change.le { parts := [.pkts, .log] } M = true := by first | assumption | exact Change.le_trans (by assumption) (by decide +kernel)) :
    KeepsOut M S0 (execPfxSearch p s) := by
  unfold execPfxSearch
  dsimp only
  repeat' (first | with_reducible assumption | intro _ | with_reducible refine keeps_guarded ?_ ?_ | with_reducible refine keeps_runPacket ?_ ?_)

theorem keeps_execPfxLookup {p : Packet} {s : State} (hS : Keeps M S0 s)
    (hM : Change.le { parts := [.pkts, .log] } M = true := by first | assumption | exact Change.le_trans (by assumption) (by decide +kernel)) :
    KeepsOut M S0 (execPfxLookup p s) := by
  unfold execPfxLookup
  dsimp only
  repeat' (first | with_reducible assumption | intro _ | with_reducible refine keeps_Res_ok ?_ | with_reducible refine keeps_guarded ?_ ?_ | with_reducible refine keeps_runPacket ?_ ?_ | split)

theorem keeps_execPfxNext {p : Packet} {s : State} (hS : Keeps M S0 s)
    (hM : Change.le { parts := [.pkts, .log, .out] } M = true := by first | assumption | exact Change.le_trans (by assumption) (by decide +kernel)) :
    KeepsOut M S0 (execPfxNext p s) := by
  unfold execPfxNext
  dsimp only
  repeat' (first | with_reducible assumption | intro _ | with_reducible refine keeps_Res_ok ?_ | with_reducible refine keeps_guarded ?_ ?_ | with_reducible refine keeps_dmaWrite ?_ ?_ | with_reducible refine keeps_runPacket ?_ ?_ | with_reducible refine keeps_ite_res ?_ ?_)

theorem keeps_execPfxRead {p : Packet} {s : State} (hS : Keeps M S0 s)
    (hM : Change.le { parts := [.pkts, .log] } M = true := by first | assumption | exact Change.le_trans (by assumption) (by decide +kernel)) :
    KeepsOut M S0 (execPfxRead p s) := by
  unfold execPfxRead
  dsimp only
  repeat' (first | with_reducible assumption | intro _ | with_reducible refine keeps_Res_ok ?_ | with_reducible refine keeps_guarded ?_ ?_ | with_reducible refine keeps_runPacket ?_ ?_ | split)

theorem keeps_execPfxSelSet {p : Packet} {s : State} (hS : Keeps M S0 s)
    (hM : Change.le { parts := [.pkts, .log], regs := [.fwdPfxSel] } M = true := by first | assumption | exact Change.le_trans (by assumption) (by decide +kernel)) :
    KeepsOut M S0 (execPfxSelSet p s) := by
  unfold execPfxSelSet
  repeat' (first | with_reducible assumption | intro _ | with_reducible refine keeps_setReg ?_ | with_reducible refine keeps_Res_ok ?_ | with_reducible refine keeps_guarded ?_ ?_ | with_reducible refine keeps_runPacket ?_ ?_ | with_reducible refine keeps_forQuads ?_ ?_)

theorem keeps_execNhSet {p : Packet} {s : State} (hS : Keeps M S0 s)
    (hM : Change.le { parts := [.pkts, .log, .tab] } M = true := by first | assumption | exact Change.le_trans (by assumption) (by decide +kernel)) :
    KeepsOut M S0 (execNhSet p s) := by
  unfold execNhSet
  dsimp only
  repeat' (first | with_reducible assumption | intro _ | with_reducible refine keeps_guarded ?_ ?_ | with_reducible refine keeps_runPacket ?_ ?_ | with_reducible refine keeps_quadCommand ?_ ?_ | with_reducible refine keeps_setNh ?_)

theorem keeps_execNhGet {p : Packet} {s : State} (hS : Keeps M S0 s)
    (hM : Change.le { parts := [.pkts, .log] } M = true := by first | assumption | exact Change.le_trans (by assumption) (by decide +kernel)) :
    KeepsOut M S0 (execNhGet p s) := by
  unfold execNhGet
  dsimp only
  repeat' (first | with_reducible assumption | intro _ | with_reducible refine keeps_Res_ok ?_ | with_reducible refine keeps_guarded ?_ ?_ | with_reducible refine keeps_runPacket ?_ ?_)

theorem keeps_execEcmpSet {p : Packet} {s : State} (hS : Keeps M S0 s)
    (hM : Change.le { parts := [.pkts, .log, .tab] } M = true := by first | assumption | exact Change.le_trans (by assumption) (by decide +kernel)) :
    KeepsOut M S0 (execEcmpSet p s) := by
  unfold execEcmpSet
  dsimp only
  repeat' (first | with_reducible assumption | intro _ | with_reducible refine keeps_guarded ?_ ?_ | with_reducible refine keeps_runPacket ?_ ?_ | with_reducible refine keeps_quadCommand ?_ ?_ | with_reducible refine keeps_ecmpSet ?_)

theorem keeps_execEcmpMemberSet {p : Packet} {s : State} (hS : Keeps M S0 s)
    (hM : Change.le { parts := [.pkts, .log, .tab] } M = true := by first | assumption | exact Change.le_trans (by assumption) (by decide +kernel)) :
    KeepsOut M S0 (execEcmpMemberSet p s) := by
  unfold execEcmpMemberSet
  repeat' (first | with_reducible assumption | intro _ | with_reducible refine keeps_guarded ?_ ?_ | with_reducible refine keeps_runPacket ?_ ?_ | with_reducible refine keeps_quadCommand ?_ ?_ | with_reducible refine keeps_setMember ?_)

theorem keeps_execEcmpGet {p : Packet} {s : State} (hS : Keeps M S0 s)
    (hM : Change.le { parts := [.pkts, .log] } M = true := by first | assumption | exact Change.le_trans (by assumption) (by decide +kernel)) :
    KeepsOut M S0 (execEcmpGet p s) := by
  unfold execEcmpGet
  dsimp only
  repeat' (first | with_reducible assumption | intro _ | with_reducible refine keeps_Res_ok ?_ | with_reducible refine keeps_guarded ?_ ?_ | with_reducible refine keeps_runPacket ?_ ?_)

theorem keeps_execEcmpHashSet {p : Packet} {s : State} (hS : Keeps M S0 s)
    (hM : Change.le { parts := [.pkts, .log], regs := [.fwdEcmpCfg, .fwdEcmpSeed] } M = true := by first | assumption | exact Change.le_trans (by assumption) (by decide +kernel)) :
    KeepsOut M S0 (execEcmpHashSet p s) := by
  unfold execEcmpHashSet
  repeat' (first | with_reducible assumption | intro _ | with_reducible refine keeps_setReg ?_ | with_reducible refine keeps_Res_ok ?_ | with_reducible refine keeps_guarded ?_ ?_ | with_reducible refine keeps_runPacket ?_ ?_ | with_reducible refine keeps_forQuads ?_ ?_)

theorem keeps_execRifSet {p : Packet} {s : State} (hS : Keeps M S0 s)
    (hM : Change.le { parts := [.pkts, .log, .tab] } M = true := by first | assumption | exact Change.le_trans (by assumption) (by decide +kernel)) :
    KeepsOut M S0 (execRifSet p s) := by
  unfold execRifSet
  dsimp only
  repeat' (first | with_reducible assumption | intro _ | with_reducible refine keeps_Res_ok ?_ | with_reducible refine keeps_guarded ?_ ?_ | with_reducible refine keeps_runPacket ?_ ?_ | with_reducible refine keeps_forQuads ?_ ?_ | with_reducible refine keeps_setRif ?_)

theorem keeps_execRifBind {p : Packet} {s : State} (hS : Keeps M S0 s)
    (hM : Change.le { parts := [.pkts, .log, .tab] } M = true := by first | assumption | exact Change.le_trans (by assumption) (by decide +kernel)) :
    KeepsOut M S0 (execRifBind p s) := by
  unfold execRifBind
  repeat' (first | with_reducible assumption | intro _ | with_reducible refine keeps_Res_ok ?_ | with_reducible refine keeps_guarded ?_ ?_ | with_reducible refine keeps_runPacket ?_ ?_ | with_reducible refine keeps_forQuads ?_ ?_ | with_reducible refine keeps_bindPort ?_ | with_reducible refine keeps_bindVid ?_ | with_reducible refine keeps_ite ?_ ?_)

theorem keeps_execRifGet {p : Packet} {s : State} (hS : Keeps M S0 s)
    (hM : Change.le { parts := [.pkts, .log] } M = true := by first | assumption | exact Change.le_trans (by assumption) (by decide +kernel)) :
    KeepsOut M S0 (execRifGet p s) := by
  unfold execRifGet
  dsimp only
  repeat' (first | with_reducible assumption | intro _ | with_reducible refine keeps_Res_ok ?_ | with_reducible refine keeps_guarded ?_ ?_ | with_reducible refine keeps_runPacket ?_ ?_)

end Sys2Proof.Machine
end

