-- ==== Sys2Proof/Laws/KeepsCellPool.lean ====
section
/-!
SUPPORT. Each operation and meaning of Machine/CellPool.lean keeps what no command may lose and changes nothing but what it names.
-/
set_option Elab.async false
namespace Sys2Proof.Machine
open Sys2Proof
variable {M : Change} {S0 : State}

theorem keeps_inPath {f : Path → Path} {s : State} (hS : Keeps M S0 s)
    (hM : Change.le { parts := [.path] } M = true := by first | assumption | exact Change.le_trans (by assumption) (by decide +kernel)) :
    Keeps M S0 (State.inPath s f) := by
  unfold State.inPath
  repeat' (first | with_reducible assumption | (simp only [keeps_mk]; with_reducible refine keeps_upd ?_))

theorem keeps_setDesc {sl : Nat} {c : Nat} {d : Desc} {s : State} (hS : Keeps M S0 s)
    (hM : Change.le { parts := [.path] } M = true := by first | assumption | exact Change.le_trans (by assumption) (by decide +kernel)) :
    Keeps M S0 (State.setDesc s sl c d) := by
  unfold State.setDesc
  repeat' (first | with_reducible assumption | with_reducible refine keeps_inPath ?_)

theorem keeps_onPool {sl : Nat} {f : Pool → Pool} {s : State} (hS : Keeps M S0 s)
    (hM : Change.le { parts := [.path] } M = true := by first | assumption | exact Change.le_trans (by assumption) (by decide +kernel)) :
    Keeps M S0 (State.onPool s sl f) := by
  unfold State.onPool
  repeat' (first | with_reducible assumption | with_reducible refine keeps_inPath ?_)

theorem keeps_addCq {qu : Nat} {n : Nat} {s : State} (hS : Keeps M S0 s)
    (hM : Change.le { parts := [.path] } M = true := by first | assumption | exact Change.le_trans (by assumption) (by decide +kernel)) :
    Keeps M S0 (State.addCq s qu n) := by
  unfold State.addCq
  repeat' (first | with_reducible assumption | with_reducible refine keeps_inPath ?_)

theorem keeps_subCq {qu : Nat} {n : Nat} {s : State} (hS : Keeps M S0 s)
    (hM : Change.le { parts := [.path] } M = true := by first | assumption | exact Change.le_trans (by assumption) (by decide +kernel)) :
    Keeps M S0 (State.subCq s qu n) := by
  unfold State.subCq
  repeat' (first | with_reducible assumption | with_reducible refine keeps_inPath ?_)

theorem keeps_post {kind : Nat} {data : List Byte} {lost : State → State} {s : State} (h : Keeps M S0 s)
    (hf : ∀ s, Keeps M S0 s → Keeps M S0 (lost s))
    (hM : Change.le { parts := [.log, .path] } M = true := by first | assumption | exact Change.le_trans (by assumption) (by decide +kernel)) :
    Keeps M S0 (s.post kind data lost) := by
  unfold State.post
  split
  · exact keeps_logEvent h
  · split
    · exact keeps_inPath h
    · exact hf _ h

theorem keeps_cbPost {sl : Nat} {kind : Nat} {addr : Nat} {claim : Nat} {recorded : Nat} {s : State} (hS : Keeps M S0 s)
    (hM : Change.le { parts := [.meet, .cnt, .log, .path], regs := [.cbErrAddr, .cbErrTags, .cbStat] } M = true := by first | assumption | exact Change.le_trans (by assumption) (by decide +kernel)) :
    Keeps M S0 (State.cbPost s sl kind addr claim recorded) := by
  unfold State.cbPost
  dsimp only
  repeat' (first | with_reducible assumption | intro _ | with_reducible refine keeps_setReg ?_ | with_reducible refine keeps_raise ?_ | with_reducible refine keeps_count ?_ | with_reducible refine keeps_post ?_ ?_)

theorem keeps_allocFail {sl : Nat} {s : State} (hS : Keeps M S0 s)
    (hM : Change.le { parts := [.meet, .cnt], regs := [.cbStat] } M = true := by first | assumption | exact Change.le_trans (by assumption) (by decide +kernel)) :
    Keeps M S0 (State.allocFail s sl) := by
  unfold State.allocFail
  repeat' (first | with_reducible assumption | with_reducible refine keeps_raise ?_ | with_reducible refine keeps_count ?_)

theorem keeps_reserve {sl : Nat} {i : Nat} {n : Nat} {s : State} (hS : Keeps M S0 s)
    (hM : Change.le { parts := [.meet, .cnt, .path], regs := [.cbStat] } M = true := by first | assumption | exact Change.le_trans (by assumption) (by decide +kernel)) :
    Keeps M S0 (State.reserve s sl i n).1 := by
  unfold State.reserve
  dsimp only
  repeat' (first | with_reducible assumption | intro _ | with_reducible refine keeps_onPool ?_ | with_reducible refine keeps_allocFail ?_ | with_reducible refine keeps_ite_fst ?_ ?_)

theorem keeps_unreserve {sl : Nat} {i : Nat} {n : Nat} {s : State} (hS : Keeps M S0 s)
    (hM : Change.le { parts := [.path] } M = true := by first | assumption | exact Change.le_trans (by assumption) (by decide +kernel)) :
    Keeps M S0 (State.unreserve s sl i n) := by
  unfold State.unreserve
  dsimp only
  repeat' (first | with_reducible assumption | with_reducible refine keeps_onPool ?_)

theorem keeps_popCell {sl n : Nat} {bad : Bool} {s : State} (h : Keeps M S0 s)
    (hM : Change.le { parts := [.meet, .path], regs := [.cbStat] } M = true := by first | assumption | exact Change.le_trans (by assumption) (by decide +kernel)) :
    Keeps M S0 (State.popCell sl n bad s).2 := by
  induction n generalizing bad s with
  | zero => exact h
  | succ n ih =>
    unfold State.popCell
    split
    · exact h
    · dsimp only
      split
      · exact ih (keeps_onPool h)
      · split
        · exact ih (keeps_raise (keeps_onPool (keeps_setDesc (keeps_onPool h))))
        · dsimp only; exact keeps_onPool (keeps_setDesc (keeps_onPool h))

theorem keeps_pushCell {sl : Nat} {c : Nat} {s : State} (hS : Keeps M S0 s)
    (hM : Change.le { parts := [.path] } M = true := by first | assumption | exact Change.le_trans (by assumption) (by decide +kernel)) :
    Keeps M S0 (State.pushCell s sl c) := by
  unfold State.pushCell
  dsimp only
  repeat' (first | with_reducible assumption | intro _ | with_reducible refine keeps_setDesc ?_ | with_reducible refine keeps_onPool ?_ | with_reducible refine keeps_ite ?_ ?_)

theorem keeps_fillCell {sl : Nat} {c : Nat} {owner : Nat} {pool : Nat} {bytes : List Byte} {prev : Option Nat} {s : State} (hS : Keeps M S0 s)
    (hM : Change.le { parts := [.path] } M = true := by first | assumption | exact Change.le_trans (by assumption) (by decide +kernel)) :
    Keeps M S0 (State.fillCell s sl c owner pool bytes prev) := by
  unfold State.fillCell
  dsimp only
  repeat' (first | with_reducible assumption | with_reducible refine keeps_inPath ?_ | with_reducible refine keeps_setDesc ?_ | split)

theorem keeps_writeCell {sl : Nat} {owner : Nat} {pool : Nat} {bytes : List Byte} {prev : Option Nat} {bad : Bool} {s : State} (hS : Keeps M S0 s)
    (hM : Change.le { parts := [.meet, .path], regs := [.cbStat] } M = true := by first | assumption | exact Change.le_trans (by assumption) (by decide +kernel)) :
    Keeps M S0 (State.writeCell s sl owner pool bytes prev bad).2 := by
  unfold State.writeCell
  dsimp only
  repeat' (first | with_reducible assumption | with_reducible refine keeps_onPool ?_ | with_reducible refine keeps_popCell ?_ | with_reducible refine keeps_fillCell ?_ | simp only [] | with_reducible refine keeps_eq_snd (by assumption) ?_ | split)

theorem keeps_quarantine {sl : Nat} {c : Nat} {cause : Nat} {keep : Bool} {s : State} (hS : Keeps M S0 s)
    (hM : Change.le { parts := [.path] } M = true := by first | assumption | exact Change.le_trans (by assumption) (by decide +kernel)) :
    Keeps M S0 (State.quarantine s sl c cause keep) := by
  unfold State.quarantine
  dsimp only
  repeat' (first | with_reducible assumption | with_reducible refine keeps_setDesc ?_ | with_reducible refine keeps_onPool ?_)

theorem keeps_release {sl : Nat} {c : Nat} {s : State} (hS : Keeps M S0 s)
    (hM : Change.le { parts := [.path] } M = true := by first | assumption | exact Change.le_trans (by assumption) (by decide +kernel)) :
    Keeps M S0 (State.release s sl c) := by
  unfold State.release
  dsimp only
  repeat' (first | with_reducible assumption | intro _ | with_reducible refine keeps_setDesc ?_ | with_reducible refine keeps_pushCell ?_ | with_reducible refine keeps_ite ?_ ?_)

theorem keeps_freeCell {sl : Nat} {addr : Nat} {claim : Nat} {charged : Bool} {s : State} (hS : Keeps M S0 s)
    (hM : Change.le { parts := [.meet, .cnt, .log, .path], regs := [.cbErrAddr, .cbErrTags, .cbStat] } M = true := by first | assumption | exact Change.le_trans (by assumption) (by decide +kernel)) :
    Keeps M S0 (State.freeCell s sl addr claim charged).1 := by
  unfold State.freeCell
  dsimp only
  repeat' (first | with_reducible assumption | intro _ | with_reducible refine keeps_raise ?_ | with_reducible refine keeps_count ?_ | with_reducible refine keeps_setDesc ?_ | with_reducible refine keeps_onPool ?_ | with_reducible refine keeps_cbPost ?_ | with_reducible refine keeps_quarantine ?_ | with_reducible refine keeps_release ?_ | with_reducible refine keeps_ite ?_ ?_ | with_reducible refine keeps_ite_fst ?_ ?_)

theorem keeps_askReclaim {sl : Nat} {qu : Nat} {s : State} (hS : Keeps M S0 s)
    (hM : Change.le { parts := [.path] } M = true := by first | assumption | exact Change.le_trans (by assumption) (by decide +kernel)) :
    Keeps M S0 (State.askReclaim s sl qu) := by
  unfold State.askReclaim
  dsimp only
  repeat' (first | with_reducible assumption | with_reducible refine keeps_inPath ?_)

theorem keeps_leak {sl : Nat} {qu : Nat} {n : Nat} {s : State} (hS : Keeps M S0 s)
    (hM : Change.le { parts := [.meet, .cnt, .log, .path], regs := [.cbStat] } M = true := by first | assumption | exact Change.le_trans (by assumption) (by decide +kernel)) :
    Keeps M S0 (State.leak s sl qu n) := by
  unfold State.leak
  dsimp only
  repeat' (first | with_reducible assumption | intro _ | with_reducible refine keeps_raise ?_ | with_reducible refine keeps_count ?_ | with_reducible refine keeps_post ?_ ?_ | with_reducible refine keeps_askReclaim ?_ | with_reducible refine keeps_ite ?_ ?_)

theorem keeps_toWalker {sl : Nat} {cells : List Nat} {qu : Nat} {s : State} (hS : Keeps M S0 s)
    (hM : Change.le { parts := [.path] } M = true := by first | assumption | exact Change.le_trans (by assumption) (by decide +kernel)) :
    Keeps M S0 (State.toWalker s sl cells qu) := by
  unfold State.toWalker
  dsimp only
  repeat' (first | with_reducible assumption | intro _ | with_reducible refine keeps_inPath ?_ | with_reducible refine keeps_onPool ?_ | with_reducible refine keeps_ite ?_ ?_ | with_reducible refine keeps_foldl ?_ ?_)

theorem keeps_walkCells {sl qu n : Nat} {cs : List Nat} {w : Option Nat} {s : State} (h : Keeps M S0 s)
    (hM : Change.le { parts := [.meet, .cnt, .log, .path], regs := [.cbErrAddr, .cbErrTags, .cbStat] } M = true := by first | assumption | exact Change.le_trans (by assumption) (by decide +kernel)) :
    Keeps M S0 (State.walkCells sl qu n cs w s).1 := by
  induction n generalizing cs w s with
  | zero => cases cs <;> exact h
  | succ n ih =>
    cases cs with
    | nil => exact h
    | cons c cs =>
      unfold State.walkCells
      dsimp only
      split
      · exact ih (keeps_onPool (keeps_freeCell h))
      · split
        · exact ih (keeps_onPool (keeps_freeCell h))
        · dsimp only; exact keeps_leak (keeps_onPool (keeps_onPool (keeps_freeCell h)))
      · dsimp only; exact keeps_leak (keeps_onPool (keeps_freeCell h))
      · dsimp only; exact keeps_leak (keeps_onPool (keeps_freeCell h))

theorem keeps_execWalkerFree {sl : Nat} {wrong : Option Nat} {s : State} (hS : Keeps M S0 s)
    (hM : Change.le { parts := [.meet, .cnt, .log, .path], regs := [.cbErrAddr, .cbErrTags, .cbStat] } M = true := by first | assumption | exact Change.le_trans (by assumption) (by decide +kernel)) :
    KeepsOut M S0 (execWalkerFree sl wrong s) := by
  unfold execWalkerFree
  dsimp only
  repeat' (first | with_reducible assumption | with_reducible refine keeps_inPath ?_ | with_reducible refine keeps_walkCells ?_ | with_reducible refine keeps_next ?_ | split)

theorem keeps_execCellTransmitFree {sl : Nat} {wrong : Option Nat} {s : State} (hS : Keeps M S0 s)
    (hM : Change.le { parts := [.meet, .cnt, .log, .path], regs := [.cbErrAddr, .cbErrTags, .cbStat] } M = true := by first | assumption | exact Change.le_trans (by assumption) (by decide +kernel)) :
    KeepsOut M S0 (execCellTransmitFree sl wrong s) := by
  unfold execCellTransmitFree
  dsimp only
  repeat' (first | with_reducible assumption | intro _ | with_reducible refine keeps_inPath ?_ | with_reducible refine keeps_subCq ?_ | with_reducible refine keeps_freeCell ?_ | with_reducible refine keeps_next ?_ | with_reducible refine keeps_foldl_fst ?_ ?_)

theorem keeps_execReclaimSweepStart {sl : Nat} {s : State} (hS : Keeps M S0 s)
    (hM : Change.le { parts := [.path] } M = true := by first | assumption | exact Change.le_trans (by assumption) (by decide +kernel)) :
    KeepsOut M S0 (execReclaimSweepStart sl s) := by
  unfold execReclaimSweepStart
  dsimp only
  repeat' (first | with_reducible assumption | with_reducible refine keeps_inPath ?_ | with_reducible refine keeps_next ?_ | split)

theorem keeps_execReclaimSweepEnd {sl : Nat} {s : State} (hS : Keeps M S0 s)
    (hM : Change.le { parts := [.meet, .cnt, .log, .path], regs := [.cbErrAddr, .cbErrTags, .cbStat] } M = true := by first | assumption | exact Change.le_trans (by assumption) (by decide +kernel)) :
    KeepsOut M S0 (execReclaimSweepEnd sl s) := by
  unfold execReclaimSweepEnd
  dsimp only
  repeat' (first | with_reducible assumption | intro _ | with_reducible refine keeps_count ?_ | with_reducible refine keeps_inPath ?_ | with_reducible refine keeps_post ?_ ?_ | with_reducible refine keeps_freeCell ?_ | with_reducible refine keeps_next ?_ | with_reducible refine keeps_ite_out ?_ ?_ | with_reducible refine keeps_foldl ?_ ?_ | with_reducible refine keeps_id ?_ | split)

theorem keeps_descError {sl : Nat} {c : Nat} {s : State} (hS : Keeps M S0 s)
    (hM : Change.le { parts := [.meet, .cnt, .log, .path], regs := [.cbErrAddr, .cbErrTags, .cbStat] } M = true := by first | assumption | exact Change.le_trans (by assumption) (by decide +kernel)) :
    Keeps M S0 (State.descError s sl c) := by
  unfold State.descError
  dsimp only
  repeat' (first | with_reducible assumption | intro _ | with_reducible refine keeps_raise ?_ | with_reducible refine keeps_setDesc ?_ | with_reducible refine keeps_cbPost ?_ | with_reducible refine keeps_quarantine ?_ | with_reducible refine keeps_ite ?_ ?_)

theorem keeps_execDescriptorScrubVisit {sl : Nat} {c : Nat} {err : Nat} {s : State} (hS : Keeps M S0 s)
    (hM : Change.le { parts := [.meet, .cnt, .log, .path], regs := [.cbErrAddr, .cbErrTags, .cbStat] } M = true := by first | assumption | exact Change.le_trans (by assumption) (by decide +kernel)) :
    KeepsOut M S0 (execDescriptorScrubVisit sl c err s) := by
  unfold execDescriptorScrubVisit
  repeat' (first | with_reducible assumption | intro _ | with_reducible refine keeps_raise ?_ | with_reducible refine keeps_count ?_ | with_reducible refine keeps_pushCell ?_ | with_reducible refine keeps_descError ?_ | with_reducible refine keeps_next ?_ | with_reducible refine keeps_ite ?_ ?_ | with_reducible refine keeps_ite_out ?_ ?_ | split)

theorem keeps_retireCell {sl : Nat} {c : Nat} {s : State} (hS : Keeps M S0 s)
    (hM : Change.le { parts := [.path] } M = true := by first | assumption | exact Change.le_trans (by assumption) (by decide +kernel)) :
    Keeps M S0 (State.retireCell s sl c) := by
  unfold State.retireCell
  dsimp only
  repeat' (first | with_reducible assumption | with_reducible refine keeps_setDesc ?_ | with_reducible refine keeps_onPool ?_ | split)

theorem keeps_execCbDataScrubVisit {sl : Nat} {c : Nat} {err : Nat} {s : State} (hS : Keeps M S0 s)
    (hM : Change.le { parts := [.meet, .cnt, .log, .ks, .path], regs := [.cbErrAddr, .cbErrTags, .cbScrubPos, .cbStat] } M = true := by first | assumption | exact Change.le_trans (by assumption) (by decide +kernel)) :
    KeepsOut M S0 (execCbDataScrubVisit sl c err s) := by
  unfold execCbDataScrubVisit
  dsimp only
  repeat' (first | with_reducible assumption | intro _ | with_reducible refine keeps_setReg ?_ | with_reducible refine keeps_raise ?_ | with_reducible refine keeps_count ?_ | with_reducible refine keeps_inPath ?_ | with_reducible refine keeps_cbPost ?_ | with_reducible refine keeps_retireCell ?_ | with_reducible refine keeps_next ?_ | with_reducible refine keeps_ite_out ?_ ?_ | (simp only [keeps_mk]; with_reducible refine keeps_upd ?_) | split)

theorem keeps_execScrubWriteBack {sl : Nat} {s : State} (hS : Keeps M S0 s)
    (hM : Change.le { parts := [.path] } M = true := by first | assumption | exact Change.le_trans (by assumption) (by decide +kernel)) :
    KeepsOut M S0 (execScrubWriteBack sl s) := by
  unfold execScrubWriteBack
  repeat' (first | with_reducible assumption | with_reducible refine keeps_inPath ?_ | with_reducible refine keeps_next ?_ | split)

end Sys2Proof.Machine
end

