-- ==== Sys2Proof/Laws/KeepsDeepTier.lean ====
section
/-!
SUPPORT. Each operation and meaning of Machine/DeepTier.lean keeps what no command may lose and changes nothing but what it names.
-/
set_option Elab.async false
namespace Sys2Proof.Machine
open Sys2Proof
variable {M : Change} {S0 : State}

theorem keeps_onStack {h : Nat} {f : Stack → Stack} {s : State} (hS : Keeps M S0 s)
    (hM : Change.le { parts := [.path] } M = true := by first | assumption | exact Change.le_trans (by assumption) (by decide +kernel)) :
    Keeps M S0 (State.onStack s h f) := by
  unfold State.onStack
  repeat' (first | with_reducible assumption | with_reducible refine keeps_inPath ?_)

theorem keeps_freePage {page : Nat} {s : State} (hS : Keeps M S0 s)
    (hM : Change.le { parts := [.path] } M = true := by first | assumption | exact Change.le_trans (by assumption) (by decide +kernel)) :
    Keeps M S0 (State.freePage s page) := by
  unfold State.freePage
  dsimp only
  repeat' (first | with_reducible assumption | with_reducible refine keeps_onStack ?_)

theorem keeps_setWbuf {q : Nat} {n : Nat} {s : State} (hS : Keeps M S0 s)
    (hM : Change.le { parts := [.path] } M = true := by first | assumption | exact Change.le_trans (by assumption) (by decide +kernel)) :
    Keeps M S0 (State.setWbuf s q n) := by
  unfold State.setWbuf
  repeat' (first | with_reducible assumption | with_reducible refine keeps_inPath ?_)

theorem keeps_setHank {qu : Nat} {h : Hank} {s : State} (hS : Keeps M S0 s)
    (hM : Change.le { parts := [.path] } M = true := by first | assumption | exact Change.le_trans (by assumption) (by decide +kernel)) :
    Keeps M S0 (State.setHank s qu h) := by
  unfold State.setHank
  repeat' (first | with_reducible assumption | with_reducible refine keeps_inPath ?_)

theorem keeps_openPages {q n : Nat} {hk : Hank} {s : State} (h : Keeps M S0 s)
    (hM : Change.le { parts := [.path] } M = true := by first | assumption | exact Change.le_trans (by assumption) (by decide +kernel)) :
    Keeps M S0 (State.openPages q n hk s).2 := by
  induction n generalizing hk s with
  | zero => exact h
  | succ n ih =>
    unfold State.openPages
    split
    · split
      · exact ih h
      · exact h
    · split
      · exact h
      · split
        · exact h
        · split
          · exact h
          · exact ih (keeps_onStack h)

theorem keeps_putHank {q : Nat} {qu : Nat} {h : Hank} {s : State} (hS : Keeps M S0 s)
    (hM : Change.le { parts := [.path] } M = true := by first | assumption | exact Change.le_trans (by assumption) (by decide +kernel)) :
    Keeps M S0 (State.putHank s q qu h) := by
  unfold State.putHank
  dsimp only
  repeat' (first | with_reducible assumption | with_reducible refine keeps_setHank ?_ | with_reducible refine keeps_openPages ?_)

theorem keeps_deepAdmit {c : Copy} {len : Nat} {s : State} (hS : Keeps M S0 s)
    (hM : Change.le { parts := [.cnt, .path] } M = true := by first | assumption | exact Change.le_trans (by assumption) (by decide +kernel)) :
    Keeps M S0 (State.deepAdmit s c len) := by
  unfold State.deepAdmit
  dsimp only
  repeat' (first | with_reducible assumption | intro _ | with_reducible refine keeps_count ?_ | with_reducible refine keeps_setWbuf ?_ | with_reducible refine keeps_setHank ?_ | with_reducible refine keeps_ite ?_ ?_)

theorem keeps_deepRefused {port : Nat} {code : Nat} {s : State} (hS : Keeps M S0 s)
    (hM : Change.le { parts := [.meet, .cnt], regs := [.dtStat] } M = true := by first | assumption | exact Change.le_trans (by assumption) (by decide +kernel)) :
    Keeps M S0 (State.deepRefused s port code) := by
  unfold State.deepRefused
  dsimp only
  repeat' (first | with_reducible assumption | intro _ | with_reducible refine keeps_raise ?_ | with_reducible refine keeps_drop ?_ | with_reducible refine keeps_ite ?_ ?_)

theorem keeps_dtPost {q : Nat} {kind : Nat} {page : Nat} {burst : Nat} {owner : Nat} {s : State} (hS : Keeps M S0 s)
    (hM : Change.le { parts := [.log, .path], regs := [.dtErrAddr, .dtErrInfo] } M = true := by first | assumption | exact Change.le_trans (by assumption) (by decide +kernel)) :
    Keeps M S0 (State.dtPost s q kind page burst owner) := by
  unfold State.dtPost
  dsimp only
  repeat' (first | with_reducible assumption | intro _ | with_reducible refine keeps_setReg ?_ | with_reducible refine keeps_post ?_ ?_ | with_reducible refine keeps_id ?_)

theorem keeps_deepWrite {qu : Nat} {fid : Nat} {bytes : List Byte} {last : Bool} {s : State} (hS : Keeps M S0 s)
    (hM : Change.le { parts := [.path] } M = true := by first | assumption | exact Change.le_trans (by assumption) (by decide +kernel)) :
    Keeps M S0 (State.deepWrite s qu fid bytes last) := by
  unfold State.deepWrite
  dsimp only
  repeat' (first | with_reducible assumption | with_reducible refine keeps_setWbuf ?_ | with_reducible refine keeps_putHank ?_ | split)

theorem keeps_execPageClose {qu : Nat} {s : State} (hS : Keeps M S0 s)
    (hM : Change.le { parts := [.path] } M = true := by first | assumption | exact Change.le_trans (by assumption) (by decide +kernel)) :
    KeepsOut M S0 (execPageClose qu s) := by
  unfold execPageClose
  dsimp only
  repeat' (first | with_reducible assumption | intro _ | with_reducible refine keeps_setHank ?_ | with_reducible refine keeps_next ?_ | with_reducible refine keeps_ite_out ?_ ?_ | split)

theorem keeps_execPageWriteComplete {qu : Nat} {s : State} (hS : Keeps M S0 s)
    (hM : Change.le { parts := [.cnt, .path] } M = true := by first | assumption | exact Change.le_trans (by assumption) (by decide +kernel)) :
    KeepsOut M S0 (execPageWriteComplete qu s) := by
  unfold execPageWriteComplete
  dsimp only
  repeat' (first | with_reducible assumption | with_reducible refine keeps_count ?_ | with_reducible refine keeps_setWbuf ?_ | with_reducible refine keeps_setHank ?_ | with_reducible refine keeps_next ?_ | split)

theorem keeps_execReadbackIssue {qu : Nat} {s : State} (hS : Keeps M S0 s)
    (hM : Change.le { parts := [.meet, .cnt, .path], regs := [.cbStat] } M = true := by first | assumption | exact Change.le_trans (by assumption) (by decide +kernel)) :
    KeepsOut M S0 (execReadbackIssue qu s) := by
  unfold execReadbackIssue
  dsimp only
  repeat' (first | with_reducible assumption | intro _ | with_reducible refine keeps_count ?_ | with_reducible refine keeps_addCq ?_ | with_reducible refine keeps_reserve ?_ | with_reducible refine keeps_setHank ?_ | with_reducible refine keeps_next ?_ | with_reducible refine keeps_ite_out ?_ ?_ | split)

theorem keeps_rbCells {sl : Nat} {qu : Nat} {pool : Nat} {r : HankRec} {n : Nat} {s : State} (hS : Keeps M S0 s)
    (hM : Change.le { parts := [.meet, .path], regs := [.cbStat] } M = true := by first | assumption | exact Change.le_trans (by assumption) (by decide +kernel)) :
    Keeps M S0 (State.rbCells s sl qu pool r n).2 := by
  unfold State.rbCells
  dsimp only
  repeat' (first | with_reducible assumption | intro _ | with_reducible refine keeps_fillCell ?_ | with_reducible refine keeps_writeCell ?_ | with_reducible refine keeps_ite_snd ?_ ?_ | with_reducible refine keeps_foldl_snd ?_ ?_ | simp only [] | with_reducible refine keeps_eq_snd (by assumption) ?_ | split)

theorem keeps_rbDrop {sl : Nat} {qu : Nat} {pool : Nat} {r : HankRec} {code : Nat} {s : State} (hS : Keeps M S0 s)
    (hM : Change.le { parts := [.cnt, .path] } M = true := by first | assumption | exact Change.le_trans (by assumption) (by decide +kernel)) :
    Keeps M S0 (State.rbDrop s sl qu pool r code) := by
  unfold State.rbDrop
  dsimp only
  repeat' (first | with_reducible assumption | with_reducible refine keeps_drop ?_ | with_reducible refine keeps_subCq ?_ | with_reducible refine keeps_unreserve ?_ | with_reducible refine keeps_toWalker ?_)

theorem keeps_hankLose {qu : Nat} {fid : Nat} {code : Nat} {s : State} (hS : Keeps M S0 s)
    (hM : Change.le { parts := [.cnt, .path] } M = true := by first | assumption | exact Change.le_trans (by assumption) (by decide +kernel)) :
    Keeps M S0 (State.hankLose s qu fid code) := by
  unfold State.hankLose
  dsimp only
  repeat' (first | with_reducible assumption | with_reducible refine keeps_setWbuf ?_ | with_reducible refine keeps_putHank ?_ | with_reducible refine keeps_rbDrop ?_ | split)

theorem keeps_rbJoin {pool : Nat} {r : HankRec} {s : State} (hS : Keeps M S0 s)
    (hM : Change.le { parts := [.path] } M = true := by first | assumption | exact Change.le_trans (by assumption) (by decide +kernel)) :
    Keeps M S0 (State.rbJoin s pool r) := by
  unfold State.rbJoin
  dsimp only
  repeat' (first | with_reducible assumption | with_reducible refine keeps_inPath ?_)

theorem keeps_execPageReadComplete {qu : Nat} {faults : List (Nat × Nat)} {s : State} (hS : Keeps M S0 s)
    (hM : Change.le { parts := [.meet, .cnt, .log, .path], regs := [.cbStat, .dtErrAddr, .dtErrInfo, .dtStat] } M = true := by first | assumption | exact Change.le_trans (by assumption) (by decide +kernel)) :
    KeepsOut M S0 (execPageReadComplete qu faults s) := by
  unfold execPageReadComplete
  dsimp only
  repeat' (first | with_reducible assumption | intro _ | with_reducible refine keeps_raise ?_ | with_reducible refine keeps_count ?_ | with_reducible refine keeps_inPath ?_ | with_reducible refine keeps_freePage ?_ | with_reducible refine keeps_setWbuf ?_ | with_reducible refine keeps_setHank ?_ | with_reducible refine keeps_dtPost ?_ | with_reducible refine keeps_rbCells ?_ | with_reducible refine keeps_rbDrop ?_ | with_reducible refine keeps_rbJoin ?_ | with_reducible refine keeps_next ?_ | with_reducible refine keeps_ite ?_ ?_ | with_reducible refine keeps_ite_fst ?_ ?_ | with_reducible refine keeps_foldl ?_ ?_ | with_reducible refine keeps_foldl_fst ?_ ?_ | split)

theorem keeps_execDeepExit {qu : Nat} {s : State} (hS : Keeps M S0 s)
    (hM : Change.le { parts := [.cnt, .path] } M = true := by first | assumption | exact Change.le_trans (by assumption) (by decide +kernel)) :
    KeepsOut M S0 (execDeepExit qu s) := by
  unfold execDeepExit
  repeat' (first | with_reducible assumption | intro _ | with_reducible refine keeps_count ?_ | with_reducible refine keeps_inPath ?_ | with_reducible refine keeps_next ?_ | with_reducible refine keeps_ite_out ?_ ?_ | split)

theorem keeps_dropHank {qu : Nat} {code : Nat} {s : State} (hS : Keeps M S0 s)
    (hM : Change.le { parts := [.cnt, .path] } M = true := by first | assumption | exact Change.le_trans (by assumption) (by decide +kernel)) :
    Keeps M S0 (State.dropHank s qu code) := by
  unfold State.dropHank
  dsimp only
  repeat' (first | with_reducible assumption | intro _ | with_reducible refine keeps_inPath ?_ | with_reducible refine keeps_freePage ?_ | with_reducible refine keeps_setWbuf ?_ | with_reducible refine keeps_rbDrop ?_ | with_reducible refine keeps_foldl ?_ ?_ | split)

theorem keeps_spillAdmit {ing : Nat} {sq : Nat} {c : Copy} {bytes : List Byte} {s : State} (hS : Keeps M S0 s)
    (hM : Change.le { parts := [.cnt, .path] } M = true := by first | assumption | exact Change.le_trans (by assumption) (by decide +kernel)) :
    KeepsOpt M S0 (State.spillAdmit s ing sq c bytes) := by
  unfold State.spillAdmit
  dsimp only
  repeat' (first | with_reducible assumption | intro _ | with_reducible refine keeps_count ?_ | with_reducible refine keeps_putHank ?_ | with_reducible refine keeps_some ?_ | with_reducible refine keeps_none | with_reducible refine keeps_ite_opt ?_ ?_)

theorem keeps_spillTake {ing : Nat} {sq : Nat} {s : State} (hS : Keeps M S0 s)
    (hM : Change.le { parts := [.path] } M = true := by first | assumption | exact Change.le_trans (by assumption) (by decide +kernel)) :
    Keeps M S0 (State.spillTake s ing sq) := by
  unfold State.spillTake
  dsimp only
  repeat' (first | with_reducible assumption | intro _ | with_reducible refine keeps_inPath ?_ | with_reducible refine keeps_freePage ?_ | with_reducible refine keeps_setHank ?_ | with_reducible refine keeps_ite ?_ ?_ | with_reducible refine keeps_foldl ?_ ?_ | split)

theorem keeps_stackRetired {h : Nat} {s : State} (hS : Keeps M S0 s)
    (hM : Change.le { parts := [.meet, .log, .ks, .path], regs := [.dtStat, .dtStkStat] } M = true := by first | assumption | exact Change.le_trans (by assumption) (by decide +kernel)) :
    Keeps M S0 (State.stackRetired s h) := by
  unfold State.stackRetired
  dsimp only
  repeat' (first | with_reducible assumption | intro _ | with_reducible refine keeps_setReg ?_ | with_reducible refine keeps_setFld ?_ | with_reducible refine keeps_raise ?_ | with_reducible refine keeps_logEvent ?_ | with_reducible refine keeps_onStack ?_ | with_reducible refine keeps_ite ?_ ?_ | with_reducible refine keeps_foldl ?_ ?_ | (simp only [keeps_mk]; with_reducible refine keeps_upd ?_))

theorem keeps_spillAdmitD {ing sq : Nat} {c : Copy} {bs : List Byte} {s : State} (h : Keeps M S0 s)
    (hM : Change.le { parts := [.cnt, .path] } M = true := by first | assumption | exact Change.le_trans (by assumption) (by decide +kernel)) :
    Keeps M S0 ((s.spillAdmit ing sq c bs).getD s) := by
  cases e : s.spillAdmit ing sq c bs with
  | none => exact h
  | some t => exact (keeps_spillAdmit h).keeps t e

theorem keeps_stackLost {h : Nat} {s : State} (hS : Keeps M S0 s)
    (hM : Change.le { parts := [.meet, .cnt, .log, .ks, .path], regs := [.dtStat, .dtStkStat] } M = true := by first | assumption | exact Change.le_trans (by assumption) (by decide +kernel)) :
    Keeps M S0 (s.stackLost h) := by
  unfold State.stackLost
  dsimp only
  refine keeps_stackRetired ?_
  refine keeps_foldl (keeps_setReg (keeps_foldl hS fun _ _ h => keeps_dropHank h)) ?_
  intro s key h
  split
  · exact h
  · refine keeps_foldl ?_ ?_
    · refine keeps_inPath ?_
      refine keeps_foldl ?_ ?_
      · refine keeps_inPath ?_
        exact keeps_foldl h fun _ _ h => keeps_foldl h fun _ _ h => keeps_drop h
      · exact fun _ _ h => keeps_freePage h
    · exact fun _ _ h => keeps_spillAdmitD h

theorem keeps_execStackFatalFault {h : Nat} {s : State} (hS : Keeps M S0 s)
    (hM : Change.le { parts := [.meet, .cnt, .log, .ks, .path], regs := [.dtStat, .dtStkStat] } M = true := by first | assumption | exact Change.le_trans (by assumption) (by decide +kernel)) :
    KeepsOut M S0 (execStackFatalFault h s) := by
  unfold execStackFatalFault
  repeat' (first | with_reducible assumption | intro _ | with_reducible refine keeps_raise ?_ | with_reducible refine keeps_stackLost ?_ | with_reducible refine keeps_next ?_ | with_reducible refine keeps_ite_out ?_ ?_)

theorem keeps_execStackDrainComplete {h : Nat} {s : State} (hS : Keeps M S0 s)
    (hM : Change.le { parts := [.meet, .log, .ks, .path], regs := [.dtStat, .dtStkStat] } M = true := by first | assumption | exact Change.le_trans (by assumption) (by decide +kernel)) :
    KeepsOut M S0 (execStackDrainComplete h s) := by
  unfold execStackDrainComplete
  repeat' (first | with_reducible assumption | intro _ | with_reducible refine keeps_stackRetired ?_ | with_reducible refine keeps_next ?_ | with_reducible refine keeps_ite_out ?_ ?_)

theorem keeps_retirePage {page : Nat} {s : State} (hS : Keeps M S0 s)
    (hM : Change.le { parts := [.path] } M = true := by first | assumption | exact Change.le_trans (by assumption) (by decide +kernel)) :
    Keeps M S0 (State.retirePage s page) := by
  unfold State.retirePage
  dsimp only
  repeat' (first | with_reducible assumption | with_reducible refine keeps_onStack ?_)

theorem keeps_execHbmScrubVisit {page : Nat} {burst : Nat} {err : Nat} {inner : Nat} {s : State} (hS : Keeps M S0 s)
    (hM : Change.le { parts := [.meet, .cnt, .log, .ks, .path], regs := [.dtErrAddr, .dtErrInfo, .dtStat, .dtStkStat] } M = true := by first | assumption | exact Change.le_trans (by assumption) (by decide +kernel)) :
    KeepsOut M S0 (execHbmScrubVisit page burst err inner s) := by
  unfold execHbmScrubVisit
  dsimp only
  repeat' (first | with_reducible assumption | intro _ | with_reducible refine keeps_raise ?_ | with_reducible refine keeps_count ?_ | with_reducible refine keeps_inPath ?_ | with_reducible refine keeps_dtPost ?_ | with_reducible refine keeps_stackLost ?_ | with_reducible refine keeps_retirePage ?_ | with_reducible refine keeps_next ?_ | with_reducible refine keeps_ite ?_ ?_ | with_reducible refine keeps_ite_out ?_ ?_ | (simp only [keeps_mk]; with_reducible refine keeps_upd ?_) | split)

end Sys2Proof.Machine
end

