-- ==== Sys2Proof/Laws/KeepsClassify.lean ====
section
/-!
SUPPORT. Each operation and meaning of Machine/Classify.lean keeps what no command may lose and changes nothing but what it names.
-/
set_option Elab.async false
namespace Sys2Proof.Machine
open Sys2Proof
variable {M : Change} {S0 : State}

theorem keeps_setCls {q : Nat} {i : Nat} {e : ClsEnt} {s : State} (hS : Keeps M S0 s)
    (hM : Change.le { parts := [.tab] } M = true := by first | assumption | exact Change.le_trans (by assumption) (by decide +kernel)) :
    Keeps M S0 (State.setCls s q i e) := by
  unfold State.setCls
  dsimp only
  repeat' (first | with_reducible assumption | (simp only [keeps_mk]; with_reducible refine keeps_upd ?_))

theorem keeps_clsInvalid {q : Nat} {i : Nat} {s : State} (hS : Keeps M S0 s)
    (hM : Change.le { parts := [.tab] } M = true := by first | assumption | exact Change.le_trans (by assumption) (by decide +kernel)) :
    Keeps M S0 (State.clsInvalid s q i) := by
  unfold State.clsInvalid
  dsimp only
  repeat' (first | with_reducible assumption | intro _ | with_reducible refine keeps_setCls ?_ | with_reducible refine keeps_ite ?_ ?_)

theorem keeps_clsWrite {q : Nat} {i : Nat} {width : Nat} {key : Nat} {mask : Nat} {act : Nat} {valid : Bool} {s : State} (hS : Keeps M S0 s)
    (hM : Change.le { parts := [.tab] } M = true := by first | assumption | exact Change.le_trans (by assumption) (by decide +kernel)) :
    Keeps M S0 (State.clsWrite s q i width key mask act valid) := by
  unfold State.clsWrite
  dsimp only
  repeat' (first | with_reducible assumption | intro _ | with_reducible refine keeps_found ?_ | with_reducible refine keeps_setCls ?_ | with_reducible refine keeps_ite ?_ ?_)

theorem keeps_clsErr {q : Nat} {i : Nat} {kind : Nat} {s : State} (hS : Keeps M S0 s)
    (hM : Change.le { parts := [.meet], regs := [.clsErrIdx, .clsStat] } M = true := by first | assumption | exact Change.le_trans (by assumption) (by decide +kernel)) :
    Keeps M S0 (State.clsErr s q i kind) := by
  unfold State.clsErr
  refine keeps_raise (keeps_setReg hS) ?_
  by_cases h1 : kind = 1
  · rw [if_pos h1]; exact Change.may_of_le hM (by decide +kernel)
  · by_cases h2 : kind = 2
    · rw [if_neg h1, if_pos h2]; exact Change.may_of_le hM (by decide +kernel)
    · rw [if_neg h1, if_neg h2]; exact Change.may_of_le hM (by decide +kernel)

theorem keeps_clsParity {q : Nat} {i : Nat} {s : State} (hS : Keeps M S0 s)
    (hM : Change.le { parts := [.meet, .tab], regs := [.clsErrIdx, .clsStat] } M = true := by first | assumption | exact Change.le_trans (by assumption) (by decide +kernel)) :
    Keeps M S0 (State.clsParity s q i) := by
  unfold State.clsParity
  dsimp only
  repeat' (first | with_reducible assumption | intro _ | with_reducible refine keeps_clsInvalid ?_ | with_reducible refine keeps_clsErr ?_ | with_reducible refine keeps_ite ?_ ?_ | (simp only [keeps_mk]; with_reducible refine keeps_upd ?_))

theorem keeps_execClsScrubVisit {q : Nat} {x : Nat} {bad : Bool} {s : State} (hS : Keeps M S0 s)
    (hM : Change.le { parts := [.meet, .tab], regs := [.clsErrIdx, .clsStat] } M = true := by first | assumption | exact Change.le_trans (by assumption) (by decide +kernel)) :
    KeepsOut M S0 (execClsScrubVisit q x bad s) := by
  unfold execClsScrubVisit
  repeat' (first | with_reducible assumption | intro _ | with_reducible refine keeps_clsParity ?_ | with_reducible refine keeps_next ?_ | with_reducible refine keeps_ite ?_ ?_)

theorem keeps_execClsWrite {p : Packet} {s : State} (hS : Keeps M S0 s)
    (hM : Change.le { parts := [.pkts, .log, .tab] } M = true := by first | assumption | exact Change.le_trans (by assumption) (by decide +kernel)) :
    KeepsOut M S0 (execClsWrite p s) := by
  unfold execClsWrite
  dsimp only
  repeat' (first | with_reducible assumption | intro _ | with_reducible refine keeps_Res_ok ?_ | with_reducible refine keeps_guarded ?_ ?_ | with_reducible refine keeps_runPacket ?_ ?_ | with_reducible refine keeps_clsWrite ?_ | with_reducible refine keeps_foldl ?_ ?_)

theorem keeps_execClsRead {p : Packet} {s : State} (hS : Keeps M S0 s)
    (hM : Change.le { parts := [.pkts, .log] } M = true := by first | assumption | exact Change.le_trans (by assumption) (by decide +kernel)) :
    KeepsOut M S0 (execClsRead p s) := by
  unfold execClsRead
  dsimp only
  repeat' (first | with_reducible assumption | intro _ | with_reducible refine keeps_Res_ok ?_ | with_reducible refine keeps_guarded ?_ ?_ | with_reducible refine keeps_runPacket ?_ ?_)

theorem keeps_execClsInvalidate {p : Packet} {s : State} (hS : Keeps M S0 s)
    (hM : Change.le { parts := [.pkts, .log, .tab] } M = true := by first | assumption | exact Change.le_trans (by assumption) (by decide +kernel)) :
    KeepsOut M S0 (execClsInvalidate p s) := by
  unfold execClsInvalidate
  dsimp only
  repeat' (first | with_reducible assumption | intro _ | with_reducible refine keeps_Res_ok ?_ | with_reducible refine keeps_guarded ?_ ?_ | with_reducible refine keeps_runPacket ?_ ?_ | with_reducible refine keeps_clsInvalid ?_ | with_reducible refine keeps_foldl ?_ ?_ | (simp only [keeps_mk]; with_reducible refine keeps_upd ?_))

theorem keeps_setPol {q : Nat} {i : Nat} {p : Policer} {s : State} (hS : Keeps M S0 s)
    (hM : Change.le { parts := [.tab] } M = true := by first | assumption | exact Change.le_trans (by assumption) (by decide +kernel)) :
    Keeps M S0 (State.setPol s q i p) := by
  unfold State.setPol
  dsimp only
  repeat' (first | with_reducible assumption | (simp only [keeps_mk]; with_reducible refine keeps_upd ?_))

theorem keeps_polError {q : Nat} {i : Nat} {ue : Bool} {s : State} (hS : Keeps M S0 s)
    (hM : Change.le { parts := [.meet, .tab], regs := [.polErrIdx, .polStat] } M = true := by first | assumption | exact Change.le_trans (by assumption) (by decide +kernel)) :
    Keeps M S0 (State.polError s q i ue) := by
  unfold State.polError
  dsimp only
  repeat' (first | with_reducible assumption | intro _ | with_reducible refine keeps_setReg ?_ | with_reducible refine keeps_raise ?_ | with_reducible refine keeps_setPol ?_ | with_reducible refine keeps_ite ?_ ?_)

theorem keeps_polCount {q : Nat} {i : Nat} {colour : Nat} {bytes : Nat} {frames : Nat} {s : State} (hS : Keeps M S0 s)
    (hM : Change.le { parts := [.cnt] } M = true := by first | assumption | exact Change.le_trans (by assumption) (by decide +kernel)) :
    Keeps M S0 (State.polCount s q i colour bytes frames) := by
  unfold State.polCount
  dsimp only
  repeat' (first | with_reducible assumption | with_reducible refine keeps_countArr ?_)

theorem keeps_execPolicerRefresh {q : Nat} {x : Nat} {s : State} (hS : Keeps M S0 s)
    (hM : Change.le { parts := [.tab] } M = true := by first | assumption | exact Change.le_trans (by assumption) (by decide +kernel)) :
    KeepsOut M S0 (execPolicerRefresh q x s) := by
  unfold execPolicerRefresh
  repeat' (first | with_reducible assumption | intro _ | with_reducible refine keeps_setPol ?_ | with_reducible refine keeps_next ?_ | with_reducible refine keeps_ite ?_ ?_)

theorem keeps_execPolSet {p : Packet} {s : State} (hS : Keeps M S0 s)
    (hM : Change.le { parts := [.pkts, .log, .tab] } M = true := by first | assumption | exact Change.le_trans (by assumption) (by decide +kernel)) :
    KeepsOut M S0 (execPolSet p s) := by
  unfold execPolSet
  dsimp only
  repeat' (first | with_reducible assumption | intro _ | with_reducible refine keeps_Res_ok ?_ | with_reducible refine keeps_guarded ?_ ?_ | with_reducible refine keeps_runPacket ?_ ?_ | with_reducible refine keeps_setPol ?_ | with_reducible refine keeps_foldl ?_ ?_)

theorem keeps_execPolGet {p : Packet} {s : State} (hS : Keeps M S0 s)
    (hM : Change.le { parts := [.pkts, .log] } M = true := by first | assumption | exact Change.le_trans (by assumption) (by decide +kernel)) :
    KeepsOut M S0 (execPolGet p s) := by
  unfold execPolGet
  dsimp only
  repeat' (first | with_reducible assumption | intro _ | with_reducible refine keeps_Res_ok ?_ | with_reducible refine keeps_guarded ?_ ?_ | with_reducible refine keeps_runPacket ?_ ?_)

theorem keeps_execIngPortSet {p : Packet} {s : State} (hS : Keeps M S0 s)
    (hM : Change.le { parts := [.pkts, .log], regs := [.prsPortcfg, .prsPortprof] } M = true := by first | assumption | exact Change.le_trans (by assumption) (by decide +kernel)) :
    KeepsOut M S0 (execIngPortSet p s) := by
  unfold execIngPortSet
  dsimp only
  repeat' (first | with_reducible assumption | intro _ | with_reducible refine keeps_setReg ?_ | with_reducible refine keeps_Res_ok ?_ | with_reducible refine keeps_guarded ?_ ?_ | with_reducible refine keeps_runPacket ?_ ?_)

theorem keeps_execIngPortGet {p : Packet} {s : State} (hS : Keeps M S0 s)
    (hM : Change.le { parts := [.pkts, .log] } M = true := by first | assumption | exact Change.le_trans (by assumption) (by decide +kernel)) :
    KeepsOut M S0 (execIngPortGet p s) := by
  unfold execIngPortGet
  repeat' (first | with_reducible assumption | intro _ | with_reducible refine keeps_Res_ok ?_ | with_reducible refine keeps_guarded ?_ ?_ | with_reducible refine keeps_runPacket ?_ ?_)

end Sys2Proof.Machine
end

