-- ==== Sys2Proof/Laws/KeepsFrames.lean ====
section
/-!
SUPPORT. Each operation and meaning of Machine/Frames.lean keeps what no command may lose and changes nothing but what it names.
-/
set_option Elab.async false
namespace Sys2Proof.Machine
open Sys2Proof
variable {M : Change} {S0 : State}

theorem keeps_onFrame {id : Nat} {g : Frame → Frame} {s : State} (hS : Keeps M S0 s)
    (hM : Change.le { parts := [.path] } M = true := by first | assumption | exact Change.le_trans (by assumption) (by decide +kernel)) :
    Keeps M S0 (State.onFrame s id g) := by
  unfold State.onFrame
  repeat' (first | with_reducible assumption | with_reducible refine keeps_inPath ?_)

theorem keeps_addFrame {f : Frame} {s : State} (hS : Keeps M S0 s)
    (hM : Change.le { parts := [.path] } M = true := by first | assumption | exact Change.le_trans (by assumption) (by decide +kernel)) :
    Keeps M S0 (State.addFrame s f) := by
  unfold State.addFrame
  repeat' (first | with_reducible assumption | with_reducible refine keeps_inPath ?_)

theorem keeps_onCopy {fid : Nat} {port : Nat} {g : Copy → Copy} {s : State} (hS : Keeps M S0 s)
    (hM : Change.le { parts := [.path] } M = true := by first | assumption | exact Change.le_trans (by assumption) (by decide +kernel)) :
    Keeps M S0 (State.onCopy s fid port g) := by
  unfold State.onCopy
  repeat' (first | with_reducible assumption | with_reducible refine keeps_inPath ?_)

theorem keeps_surplus {sl : Nat} {b : Nat} {vq : Nat} {cells : List Nat} {s : State} (hS : Keeps M S0 s)
    (hM : Change.le { parts := [.path] } M = true := by first | assumption | exact Change.le_trans (by assumption) (by decide +kernel)) :
    Keeps M S0 (State.surplus s sl b vq cells) := by
  unfold State.surplus
  dsimp only
  repeat' (first | with_reducible assumption | intro _ | with_reducible refine keeps_onPool ?_ | with_reducible refine keeps_toWalker ?_ | with_reducible refine keeps_foldl ?_ ?_)

theorem keeps_giveBack {c : Copy} {s : State} (hS : Keeps M S0 s)
    (hM : Change.le { parts := [.path] } M = true := by first | assumption | exact Change.le_trans (by assumption) (by decide +kernel)) :
    Keeps M S0 (State.giveBack s c) := by
  unfold State.giveBack
  dsimp only
  repeat' (first | with_reducible assumption | with_reducible refine keeps_subCq ?_ | with_reducible refine keeps_unreserve ?_ | with_reducible refine keeps_toWalker ?_ | with_reducible refine keeps_surplus ?_)

theorem keeps_dropCopy {c : Copy} {code : Nat} {s : State} (hS : Keeps M S0 s)
    (hM : Change.le { parts := [.cnt, .path] } M = true := by first | assumption | exact Change.le_trans (by assumption) (by decide +kernel)) :
    Keeps M S0 (State.dropCopy s c code) := by
  unfold State.dropCopy
  dsimp only
  repeat' (first | with_reducible assumption | with_reducible refine keeps_drop ?_ | with_reducible refine keeps_inPath ?_ | with_reducible refine keeps_giveBack ?_)

theorem keeps_settle {s : State} (hS : Keeps M S0 s)
    (hM : Change.le { parts := [.path] } M = true := by first | assumption | exact Change.le_trans (by assumption) (by decide +kernel)) :
    Keeps M S0 (State.settle s) := by
  unfold State.settle
  repeat' (first | with_reducible assumption | with_reducible refine keeps_inPath ?_)

theorem keeps_rxGood {p : Nat} {bs : List Byte} {s : State} (hS : Keeps M S0 s)
    (hM : Change.le { parts := [.cnt] } M = true := by first | assumption | exact Change.le_trans (by assumption) (by decide +kernel)) :
    Keeps M S0 (State.rxGood s p bs) := by
  unfold State.rxGood
  dsimp only
  repeat' (first | with_reducible assumption | with_reducible refine keeps_count ?_ | split)

theorem keeps_txGood {p : Nat} {bs : List Byte} {s : State} (hS : Keeps M S0 s)
    (hM : Change.le { parts := [.cnt] } M = true := by first | assumption | exact Change.le_trans (by assumption) (by decide +kernel)) :
    Keeps M S0 (State.txGood s p bs) := by
  unfold State.txGood
  dsimp only
  repeat' (first | with_reducible assumption | with_reducible refine keeps_count ?_ | split)

theorem keeps_execFrameStart {p : Nat} {bytes : List Byte} {edge : Nat} {phase : Nat} {sym : Nat} {s : State} (hS : Keeps M S0 s)
    (hM : Change.le { parts := [.meet, .cnt, .path], regs := [.macStat] } M = true := by first | assumption | exact Change.le_trans (by assumption) (by decide +kernel)) :
    KeepsOut M S0 (execFrameStart p bytes edge phase sym s) := by
  unfold execFrameStart
  dsimp only
  repeat' (first | with_reducible assumption | intro _ | with_reducible refine keeps_raise ?_ | with_reducible refine keeps_count ?_ | with_reducible refine keeps_drop ?_ | with_reducible refine keeps_addFrame ?_ | with_reducible refine keeps_next ?_ | with_reducible refine keeps_ite_out ?_ ?_)

theorem keeps_makeReady {f : Frame} {at_ : Nat} {s : State} (hS : Keeps M S0 s)
    (hM : Change.le { parts := [.meet, .cnt, .path], regs := [.prsStat] } M = true := by first | assumption | exact Change.le_trans (by assumption) (by decide +kernel)) :
    Keeps M S0 (State.makeReady s f at_) := by
  unfold State.makeReady
  repeat' (first | with_reducible assumption | intro _ | with_reducible refine keeps_raise ?_ | with_reducible refine keeps_drop ?_ | with_reducible refine keeps_onFrame ?_ | with_reducible refine keeps_ite ?_ ?_)

theorem keeps_enterWhole {f : Frame} {s : State} (hS : Keeps M S0 s)
    (hM : Change.le { parts := [.cnt, .path] } M = true := by first | assumption | exact Change.le_trans (by assumption) (by decide +kernel)) :
    Keeps M S0 (State.enterWhole s f) := by
  unfold State.enterWhole
  dsimp only
  repeat' (first | with_reducible assumption | intro _ | with_reducible refine keeps_count ?_ | with_reducible refine keeps_drop ?_ | with_reducible refine keeps_addFrame ?_ | with_reducible refine keeps_rxGood ?_ | with_reducible refine keeps_ite ?_ ?_)

theorem keeps_refuseHeader {f : Frame} {s : State} (hS : Keeps M S0 s)
    (hM : Change.le { parts := [.cnt, .path] } M = true := by first | assumption | exact Change.le_trans (by assumption) (by decide +kernel)) :
    Keeps M S0 (State.refuseHeader s f) := by
  unfold State.refuseHeader
  repeat' (first | with_reducible assumption | with_reducible refine keeps_drop ?_ | with_reducible refine keeps_onFrame ?_ | with_reducible refine keeps_settle ?_)

theorem keeps_execFrameReady {p : Nat} {fw : List Byte} {s : State} (hS : Keeps M S0 s)
    (hM : Change.le { parts := [.meet, .cnt, .path], regs := [.prsStat] } M = true := by first | assumption | exact Change.le_trans (by assumption) (by decide +kernel)) :
    KeepsOut M S0 (execFrameReady p fw s) := by
  unfold execFrameReady
  dsimp only
  repeat' (first | with_reducible assumption | intro _ | with_reducible refine keeps_makeReady ?_ | with_reducible refine keeps_enterWhole ?_ | with_reducible refine keeps_refuseHeader ?_ | with_reducible refine keeps_next ?_ | with_reducible refine keeps_ite ?_ ?_ | with_reducible refine keeps_ite_out ?_ ?_ | split)

theorem keeps_execHeaderDispatch {sl : Nat} {s : State} (hS : Keeps M S0 s)
    (hM : Change.le { parts := [.cnt, .path] } M = true := by first | assumption | exact Change.le_trans (by assumption) (by decide +kernel)) :
    KeepsOut M S0 (execHeaderDispatch sl s) := by
  unfold execHeaderDispatch
  dsimp only
  repeat' (first | with_reducible assumption | intro _ | with_reducible refine keeps_count ?_ | with_reducible refine keeps_inPath ?_ | with_reducible refine keeps_onFrame ?_ | with_reducible refine keeps_next ?_ | with_reducible refine keeps_ite ?_ ?_ | with_reducible refine keeps_ite_out ?_ ?_ | with_reducible refine keeps_foldl ?_ ?_)

end Sys2Proof.Machine
end

