-- ==== Sys2Proof/Laws/KeepsMirror.lean ====
section
/-!
SUPPORT. Each operation and meaning of Machine/Mirror.lean keeps what no command may lose and changes nothing but what it names.
-/
set_option Elab.async false
namespace Sys2Proof.Machine
open Sys2Proof
variable {M : Change} {S0 : State}

theorem keeps_setMirBucket {q : Nat} {m : Nat} {b : MirBucket} {s : State} (hS : Keeps M S0 s)
    (hM : Change.le { parts := [.path] } M = true := by first | assumption | exact Change.le_trans (by assumption) (by decide +kernel)) :
    Keeps M S0 (State.setMirBucket s q m b) := by
  unfold State.setMirBucket
  repeat' (first | with_reducible assumption | with_reducible refine keeps_inPath ?_)

theorem keeps_mirCharge {q : Nat} {m : Nat} {len : Nat} {s : State} (hS : Keeps M S0 s)
    (hM : Change.le { parts := [.path] } M = true := by first | assumption | exact Change.le_trans (by assumption) (by decide +kernel)) :
    Keeps M S0 (State.mirCharge s q m len).1 := by
  unfold State.mirCharge
  dsimp only
  repeat' (first | with_reducible assumption | intro _ | with_reducible refine keeps_setMirBucket ?_ | with_reducible refine keeps_ite_fst ?_ ?_)

theorem keeps_mirCopy {f : Frame} {m : Nat} {port : Nat} {bytes : List Byte} {len : Nat} {reason : Nat} {egress : Bool} {stamp : Nat} {s : State} (hS : Keeps M S0 s)
    (hM : Change.le { parts := [.meet, .cnt, .path], regs := [.mirStat] } M = true := by first | assumption | exact Change.le_trans (by assumption) (by decide +kernel)) :
    Keeps M S0 (State.mirCopy s f m port bytes len reason egress stamp).1 := by
  unfold State.mirCopy
  dsimp only
  repeat' (first | with_reducible assumption | intro _ | with_reducible refine keeps_raise ?_ | with_reducible refine keeps_count ?_ | with_reducible refine keeps_drop ?_ | with_reducible refine keeps_addFrame ?_ | with_reducible refine keeps_setMirBucket ?_ | with_reducible refine keeps_mirCharge ?_ | with_reducible refine keeps_ite ?_ ?_ | with_reducible refine keeps_ite_fst ?_ ?_)

theorem keeps_mirrorIn {f : Frame} {s : State} (hS : Keeps M S0 s)
    (hM : Change.le { parts := [.meet, .cnt, .path], regs := [.mirStat] } M = true := by first | assumption | exact Change.le_trans (by assumption) (by decide +kernel)) :
    Keeps M S0 (State.mirrorIn s f) := by
  unfold State.mirrorIn
  repeat' (first | with_reducible assumption | intro _ | with_reducible refine keeps_mirCopy ?_ | with_reducible refine keeps_foldl ?_ ?_)

theorem keeps_setMirAddr {r : Reg} {m : Nat} {v : Nat} {s : State} (hS : Keeps M S0 s) (hr : M.may r = true := by first | assumption | exact Change.may_of_le (by assumption) (by decide +kernel) | exact Change.may_ite (by assumption) (by decide +kernel) (by decide +kernel) | exact Change.may_of_any (Change.any_of_le (by assumption) (by decide +kernel))) :
    Keeps M S0 (State.setMirAddr s r m v) := by
  unfold State.setMirAddr
  repeat' (first | with_reducible assumption | intro _ | with_reducible refine keeps_setReg ?_ | with_reducible refine keeps_foldl ?_ ?_)

theorem keeps_execMirSessionSet {p : Packet} {s : State} (hS : Keeps M S0 s)
    (hM : Change.le { parts := [.pkts, .log], regs := [.mirEncDip, .mirEncDmacHi, .mirEncDmacLo, .mirEncL3, .mirEncSip, .mirEncSmacHi, .mirEncSmacLo, .mirEncUdp, .mirSessBurst, .mirSessCfg, .mirSessRate, .mirSessTrunc] } M = true := by first | assumption | exact Change.le_trans (by assumption) (by decide +kernel)) :
    KeepsOut M S0 (execMirSessionSet p s) := by
  unfold execMirSessionSet
  dsimp only
  repeat' (first | with_reducible assumption | intro _ | with_reducible refine keeps_setReg ?_ | with_reducible refine keeps_Res_ok ?_ | with_reducible refine keeps_guarded ?_ ?_ | with_reducible refine keeps_runPacket ?_ ?_ | with_reducible refine keeps_setMirAddr ?_ | with_reducible refine keeps_ite ?_ ?_)

theorem keeps_execMirSessionGet {p : Packet} {s : State} (hS : Keeps M S0 s)
    (hM : Change.le { parts := [.pkts, .log] } M = true := by first | assumption | exact Change.le_trans (by assumption) (by decide +kernel)) :
    KeepsOut M S0 (execMirSessionGet p s) := by
  unfold execMirSessionGet
  dsimp only
  repeat' (first | with_reducible assumption | intro _ | with_reducible refine keeps_Res_ok ?_ | with_reducible refine keeps_guarded ?_ ?_ | with_reducible refine keeps_runPacket ?_ ?_)

theorem keeps_execMirPortSet {p : Packet} {s : State} (hS : Keeps M S0 s)
    (hM : Change.le { parts := [.pkts, .log], regs := [.mirPortSrc] } M = true := by first | assumption | exact Change.le_trans (by assumption) (by decide +kernel)) :
    KeepsOut M S0 (execMirPortSet p s) := by
  unfold execMirPortSet
  repeat' (first | with_reducible assumption | intro _ | with_reducible refine keeps_setReg ?_ | with_reducible refine keeps_Res_ok ?_ | with_reducible refine keeps_guarded ?_ ?_ | with_reducible refine keeps_runPacket ?_ ?_)

end Sys2Proof.Machine
end

