-- ==== Sys2Proof/Laws/KeepsStrand.lean ====
section
/-!
SUPPORT. Each operation and meaning of Machine/Strand.lean keeps what no command may lose and changes nothing but what it names.
-/
set_option Elab.async false
namespace Sys2Proof.Machine
open Sys2Proof
variable {M : Change} {S0 : State}

theorem keeps_ite_decision {c : Prop} [Decidable c] {a b : Decision} (ha : c → Keeps M S0 a.state) (hb : ¬c → Keeps M S0 b.state) :
    Keeps M S0 (if c then a else b).state := by
  split
  · exact ha ‹_›
  · exact hb ‹_›

theorem keeps_Decision_drop {d : Decision} {code : Nat} (h : Keeps M S0 d.state) :
    Keeps M S0 (d.drop code).state := h

theorem keeps_Decision_dropEarly {code : Nat} {d : Decision} (hS : Keeps M S0 d.state) :
    Keeps M S0 (Decision.dropEarly d code).state := by
  unfold Decision.dropEarly
  dsimp only
  repeat' (first | with_reducible assumption | with_reducible refine keeps_Decision_drop ?_)

theorem keeps_l3Read {q : Nat} {table : Nat} {idx : Nat} {sev : Nat} {s : State} (hS : Keeps M S0 s)
    (hM : Change.le { parts := [.meet, .tab], regs := [.fwdErrIdx, .fwdStat] } M = true := by first | assumption | exact Change.le_trans (by assumption) (by decide +kernel)) :
    Keeps M S0 (State.l3Read s q table idx sev) := by
  unfold State.l3Read
  repeat' (first | with_reducible assumption | intro _ | with_reducible refine keeps_l3Error ?_ | with_reducible refine keeps_ite ?_ ?_)

theorem keeps_Decision_toHost {q : Nat} {cause : Nat} {d : Decision} (hS : Keeps M S0 d.state)
    (hM : Change.le { parts := [.cnt] } M = true := by first | assumption | exact Change.le_trans (by assumption) (by decide +kernel)) :
    Keeps M S0 (Decision.toHost d q cause).state := by
  unfold Decision.toHost
  dsimp only
  repeat' (first | with_reducible assumption | with_reducible refine keeps_count ?_)

theorem keeps_Decision_nextHop {q : Nat} {nh : Nat} {p : Parsed} {faults : List (Nat × Nat)} {d : Decision} (hS : Keeps M S0 d.state)
    (hM : Change.le { parts := [.meet, .cnt, .tab], regs := [.fwdErrIdx, .fwdStat] } M = true := by first | assumption | exact Change.le_trans (by assumption) (by decide +kernel)) :
    Keeps M S0 (Decision.nextHop d q nh p faults).state := by
  unfold Decision.nextHop
  dsimp only
  repeat' (first | with_reducible assumption | intro _ | with_reducible refine keeps_count ?_ | with_reducible refine keeps_Decision_drop ?_ | with_reducible refine keeps_l3Read ?_ | with_reducible refine keeps_Decision_toHost ?_ | with_reducible refine keeps_ite_decision ?_ ?_ | split)

theorem keeps_Decision_route {q : Nat} {vrf : Nat} {p : Parsed} {bs : List Byte} {faults : List (Nat × Nat)} {d : Decision} (hS : Keeps M S0 d.state)
    (hM : Change.le { parts := [.meet, .cnt, .tab], regs := [.fwdErrIdx, .fwdStat] } M = true := by first | assumption | exact Change.le_trans (by assumption) (by decide +kernel)) :
    Keeps M S0 (Decision.route d q vrf p bs faults).state := by
  unfold Decision.route
  dsimp only
  repeat' (first | with_reducible assumption | intro _ | with_reducible refine keeps_pfxError ?_ | with_reducible refine keeps_Decision_drop ?_ | with_reducible refine keeps_l3Read ?_ | with_reducible refine keeps_Decision_toHost ?_ | with_reducible refine keeps_Decision_nextHop ?_ | with_reducible refine keeps_ite_decision ?_ ?_ | split)

theorem keeps_addrRead {q : Nat} {key : Nat} {sev : Nat} {s : State} (hS : Keeps M S0 s)
    (hM : Change.le { parts := [.meet, .cnt, .tab], regs := [.tbErrIdx, .tbStat] } M = true := by first | assumption | exact Change.le_trans (by assumption) (by decide +kernel)) :
    Keeps M S0 (State.addrRead s q key sev).1 := by
  unfold State.addrRead
  repeat' (first | with_reducible assumption | with_reducible refine keeps_addrError ?_ | with_reducible refine keeps_addrCorrected ?_ | split)

theorem keeps_Decision_bridge {q : Nat} {v : VlanEnt} {fid : Nat} {p : Parsed} {faults : List (Nat × Nat)} {d : Decision} (hS : Keeps M S0 d.state)
    (hM : Change.le { parts := [.meet, .cnt, .tab], regs := [.tbErrIdx, .tbStat] } M = true := by first | assumption | exact Change.le_trans (by assumption) (by decide +kernel)) :
    Keeps M S0 (Decision.bridge d q v fid p faults).state := by
  unfold Decision.bridge
  dsimp only
  repeat' (first | with_reducible assumption | intro _ | with_reducible refine keeps_count ?_ | with_reducible refine keeps_setHit ?_ | with_reducible refine keeps_Decision_drop ?_ | with_reducible refine keeps_addrRead ?_ | with_reducible refine keeps_ite ?_ ?_ | with_reducible refine keeps_ite_decision ?_ ?_ | split)

theorem keeps_Decision_policed {q : Nat} {i : Nat} {len : Nat} {pre : Nat} {whole : Bool} {sev : Nat} {d : Decision} (hS : Keeps M S0 d.state)
    (hM : Change.le { parts := [.meet, .cnt, .tab], regs := [.polErrIdx, .polStat] } M = true := by first | assumption | exact Change.le_trans (by assumption) (by decide +kernel)) :
    Keeps M S0 (Decision.policed d q i len pre whole sev).state := by
  unfold Decision.policed
  dsimp only
  repeat' (first | with_reducible assumption | intro _ | with_reducible refine keeps_setPol ?_ | with_reducible refine keeps_polError ?_ | with_reducible refine keeps_polCount ?_ | with_reducible refine keeps_Decision_drop ?_ | with_reducible refine keeps_ite ?_ ?_ | with_reducible refine keeps_ite_decision ?_ ?_)

theorem keeps_Decision_forward {f : Frame} {q : Nat} {vid : Nat} {p : Parsed} {rtr : Bool} {vrf : Nat} {rifLost : Bool} {hit : Option (Nat × Nat)} {faults : List (Nat × Nat)} {len : Nat} {d : Decision} (hS : Keeps M S0 d.state)
    (hM : Change.le { parts := [.meet, .cnt, .tab], regs := [.clsErrIdx, .clsStat, .fwdErrIdx, .fwdStat, .polErrIdx, .polStat, .tbErrIdx, .tbStat] } M = true := by first | assumption | exact Change.le_trans (by assumption) (by decide +kernel)) :
    Keeps M S0 (Decision.forward d f q vid p rtr vrf rifLost hit faults len).state := by
  unfold Decision.forward
  dsimp only
  repeat' (first | with_reducible assumption | intro _ | with_reducible refine keeps_learnDecision ?_ | with_reducible refine keeps_clsErr ?_ | with_reducible refine keeps_Decision_drop ?_ | with_reducible refine keeps_Decision_route ?_ | with_reducible refine keeps_addrRead ?_ | with_reducible refine keeps_Decision_bridge ?_ | with_reducible refine keeps_Decision_policed ?_ | with_reducible refine keeps_ite ?_ ?_ | with_reducible refine keeps_ite_decision ?_ ?_ | simp only [] | split)

theorem keeps_strand {f : Frame} {faults : List (Nat × Nat)} {s : State} (hS : Keeps M S0 s)
    (hM : Change.le { parts := [.meet, .cnt, .tab], regs := [.clsErrIdx, .clsStat, .fwdErrIdx, .fwdStat, .polErrIdx, .polStat, .prsStat, .tbErrIdx, .tbStat, .tsStpStat] } M = true := by first | assumption | exact Change.le_trans (by assumption) (by decide +kernel)) :
    Keeps M S0 (State.strand s f faults).state := by
  unfold State.strand
  dsimp only
  repeat' (first | with_reducible assumption | intro _ | with_reducible refine keeps_raise ?_ | with_reducible refine keeps_count ?_ | with_reducible refine keeps_Decision_dropEarly ?_ | with_reducible refine keeps_l3Read ?_ | with_reducible refine keeps_Decision_forward ?_ | with_reducible refine keeps_ite ?_ ?_ | with_reducible refine keeps_ite_decision ?_ ?_)

theorem keeps_execStrandComplete {p seq : Nat} {faults : List (Nat × Nat)} {s : State} (h : Keeps M S0 s)
    (hM : Change.le { parts := [.meet, .cnt, .tab, .path], regs := [.clsErrIdx, .clsStat, .fwdErrIdx, .fwdStat, .polErrIdx, .polStat, .prsStat, .tbErrIdx, .tbStat, .tsStpStat] } M = true := by first | assumption | exact Change.le_trans (by assumption) (by decide +kernel)) :
    KeepsOut M S0 (execStrandComplete p seq faults s) := by
  unfold execStrandComplete
  split
  · exact keeps_next h
  · dsimp only
    split
    · exact keeps_next h
    · exact keeps_next (keeps_drop (keeps_onFrame (keeps_strand h)))

theorem keeps_execPolicerCorrection {p : Nat} {seq : Nat} {s : State} (hS : Keeps M S0 s)
    (hM : Change.le { parts := [.cnt, .tab, .path] } M = true := by first | assumption | exact Change.le_trans (by assumption) (by decide +kernel)) :
    KeepsOut M S0 (execPolicerCorrection p seq s) := by
  unfold execPolicerCorrection
  dsimp only
  repeat' (first | with_reducible assumption | with_reducible refine keeps_setPol ?_ | with_reducible refine keeps_polCount ?_ | with_reducible refine keeps_onFrame ?_ | with_reducible refine keeps_settle ?_ | with_reducible refine keeps_next ?_ | split)

end Sys2Proof.Machine
end

