-- ==== Sys2Proof/Laws/KeepsFabric.lean ====
section
/-!
SUPPORT. Each operation and meaning of Machine/Fabric.lean keeps what no command may lose and changes nothing but what it names.
-/
set_option Elab.async false
namespace Sys2Proof.Machine
open Sys2Proof
variable {M : Change} {S0 : State}

theorem keeps_markRan {k : Nat} {i : Nat} {s : State} (hS : Keeps M S0 s)
    (hM : Change.le { parts := [.path] } M = true := by first | assumption | exact Change.le_trans (by assumption) (by decide +kernel)) :
    Keeps M S0 (State.markRan s k i) := by
  unfold State.markRan
  repeat' (first | with_reducible assumption | with_reducible refine keeps_inPath ?_)

theorem keeps_releaseFrames {n : Nat} {l : List Frame} {s : State} (h : Keeps M S0 s)
    (hM : Change.le { parts := [.meet, .cnt, .path], regs := [.mirStat] } M = true := by first | assumption | exact Change.le_trans (by assumption) (by decide +kernel)) :
    Keeps M S0 (releaseFrames n l s) := by
  induction l generalizing n s with
  | nil => cases n <;> exact h
  | cons f t ih =>
    unfold releaseFrames
    split
    · dsimp only
      apply ih
      split
      · exact keeps_mirrorIn (keeps_onFrame h)
      · exact keeps_onFrame h
    · split
      · exact h
      · exact ih (keeps_mirrorIn (keeps_onFrame h))

theorem keeps_execReorderRelease {sl : Nat} {s : State} (hS : Keeps M S0 s)
    (hM : Change.le { parts := [.meet, .cnt, .path], regs := [.mirStat] } M = true := by first | assumption | exact Change.le_trans (by assumption) (by decide +kernel)) :
    KeepsOut M S0 (execReorderRelease sl s) := by
  unfold execReorderRelease
  repeat' (first | with_reducible assumption | intro _ | with_reducible refine keeps_settle ?_ | with_reducible refine keeps_markRan ?_ | with_reducible refine keeps_releaseFrames ?_ | with_reducible refine keeps_next ?_ | with_reducible refine keeps_ite_out ?_ ?_)

theorem keeps_setFlow {p : Nat} {f : Flow} {s : State} (hS : Keeps M S0 s)
    (hM : Change.le { parts := [.path] } M = true := by first | assumption | exact Change.le_trans (by assumption) (by decide +kernel)) :
    Keeps M S0 (State.setFlow s p f) := by
  unfold State.setFlow
  repeat' (first | with_reducible assumption | with_reducible refine keeps_inPath ?_)

theorem keeps_setXoff {port : Nat} {cls : Nat} {on : Bool} {s : State} (hS : Keeps M S0 s)
    (hM : Change.le { parts := [.path] } M = true := by first | assumption | exact Change.le_trans (by assumption) (by decide +kernel)) :
    Keeps M S0 (State.setXoff s port cls on) := by
  unfold State.setXoff
  dsimp only
  repeat' (first | with_reducible assumption | intro _ | with_reducible refine keeps_setFlow ?_ | with_reducible refine keeps_ite ?_ ?_)

theorem keeps_xoffCheck {port : Nat} {cls : Nat} {s : State} (hS : Keeps M S0 s)
    (hM : Change.le { parts := [.path] } M = true := by first | assumption | exact Change.le_trans (by assumption) (by decide +kernel)) :
    Keeps M S0 (State.xoffCheck s port cls) := by
  unfold State.xoffCheck
  dsimp only
  repeat' (first | with_reducible assumption | intro _ | with_reducible refine keeps_setXoff ?_ | with_reducible refine keeps_ite ?_ ?_)

theorem keeps_stageDrop {ing : Nat} {dests : List (Nat × Bool)} {lossless : Bool} {s : State} (hS : Keeps M S0 s)
    (hM : Change.le { parts := [.meet, .cnt], regs := [.fabStat] } M = true := by first | assumption | exact Change.le_trans (by assumption) (by decide +kernel)) :
    Keeps M S0 (State.stageDrop s ing dests lossless) := by
  unfold State.stageDrop
  dsimp only
  repeat' (first | with_reducible assumption | intro _ | with_reducible refine keeps_raise ?_ | with_reducible refine keeps_count ?_ | with_reducible refine keeps_drop ?_ | with_reducible refine keeps_foldl ?_ ?_)

theorem keeps_stageOne {f : Frame} {ing : Nat} {eg : Nat} {dests : List (Nat × Bool)} {s : State} (hS : Keeps M S0 s)
    (hM : Change.le { parts := [.meet, .cnt, .path], regs := [.fabStat] } M = true := by first | assumption | exact Change.le_trans (by assumption) (by decide +kernel)) :
    Keeps M S0 (State.stageOne s f ing eg dests) := by
  unfold State.stageOne
  dsimp only
  repeat' (first | with_reducible assumption | intro _ | with_reducible refine keeps_raise ?_ | with_reducible refine keeps_count ?_ | with_reducible refine keeps_inPath ?_ | with_reducible refine keeps_spillAdmit ?_ | with_reducible refine keeps_xoffCheck ?_ | with_reducible refine keeps_stageDrop ?_ | with_reducible refine keeps_ite ?_ ?_ | with_reducible refine keeps_eq_some (by assumption) ?_ | split)

theorem keeps_enterFabric {id : Nat} {ing : Nat} {s : State} (hS : Keeps M S0 s)
    (hM : Change.le { parts := [.meet, .cnt, .path], regs := [.fabStat] } M = true := by first | assumption | exact Change.le_trans (by assumption) (by decide +kernel)) :
    Keeps M S0 (State.enterFabric s id ing) := by
  unfold State.enterFabric
  dsimp only
  repeat' (first | with_reducible assumption | intro _ | with_reducible refine keeps_drop ?_ | with_reducible refine keeps_onFrame ?_ | with_reducible refine keeps_stageOne ?_ | with_reducible refine keeps_ite ?_ ?_ | with_reducible refine keeps_foldl ?_ ?_ | split)

theorem keeps_execFabricEntry {p : Nat} {seq : Nat} {s : State} (hS : Keeps M S0 s)
    (hM : Change.le { parts := [.meet, .cnt, .path], regs := [.fabStat] } M = true := by first | assumption | exact Change.le_trans (by assumption) (by decide +kernel)) :
    KeepsOut M S0 (execFabricEntry p seq s) := by
  unfold execFabricEntry
  dsimp only
  repeat' (first | with_reducible assumption | intro _ | with_reducible refine keeps_settle ?_ | with_reducible refine keeps_enterFabric ?_ | with_reducible refine keeps_next ?_ | with_reducible refine keeps_ite ?_ ?_ | with_reducible refine keeps_foldl ?_ ?_ | split)

theorem keeps_execSpillReturn {ing : Nat} {sq : Nat} {s : State} (hS : Keeps M S0 s)
    (hM : Change.le { parts := [.path] } M = true := by first | assumption | exact Change.le_trans (by assumption) (by decide +kernel)) :
    KeepsOut M S0 (execSpillReturn ing sq s) := by
  unfold execSpillReturn
  dsimp only
  repeat' (first | with_reducible assumption | intro _ | with_reducible refine keeps_inPath ?_ | with_reducible refine keeps_spillTake ?_ | with_reducible refine keeps_settle ?_ | with_reducible refine keeps_xoffCheck ?_ | with_reducible refine keeps_next ?_ | with_reducible refine keeps_ite ?_ ?_ | with_reducible refine keeps_ite_out ?_ ?_ | split)

end Sys2Proof.Machine
end

