-- ==== Sys2Proof/Laws/KeepsAdmission.lean ====
section
/-!
SUPPORT. Each operation and meaning of Machine/Admission.lean keeps what no command may lose and changes nothing but what it names.
-/
set_option Elab.async false
namespace Sys2Proof.Machine
open Sys2Proof
variable {M : Change} {S0 : State}

theorem keeps_pushOut {sl : Nat} {cls : Nat} {b : Nat} {n : Nat} {s : State} (hS : Keeps M S0 s)
    (hM : Change.le { parts := [.cnt, .path] } M = true := by first | assumption | exact Change.le_trans (by assumption) (by decide +kernel)) :
    Keeps M S0 (State.pushOut s sl cls b n).1 := by
  unfold State.pushOut
  dsimp only
  repeat' (first | with_reducible assumption | intro _ | with_reducible refine keeps_count ?_ | with_reducible refine keeps_drop ?_ | with_reducible refine keeps_inPath ?_ | with_reducible refine keeps_onPool ?_ | with_reducible refine keeps_subCq ?_ | with_reducible refine keeps_toWalker ?_ | with_reducible refine keeps_markRan ?_ | with_reducible refine keeps_ite ?_ ?_ | with_reducible refine keeps_ite_fst ?_ ?_ | with_reducible refine keeps_foldl ?_ ?_ | split)

theorem keeps_undoCommit {c : Commit} {s : State} (hS : Keeps M S0 s)
    (hM : Change.le { parts := [.cnt, .path] } M = true := by first | assumption | exact Change.le_trans (by assumption) (by decide +kernel)) :
    Keeps M S0 (State.undoCommit s c) := by
  unfold State.undoCommit
  dsimp only
  repeat' (first | with_reducible assumption | with_reducible refine keeps_subCq ?_ | with_reducible refine keeps_unreserve ?_ | with_reducible refine keeps_hankLose ?_ | with_reducible refine keeps_surplus ?_ | split)

theorem keeps_purge {fid : Nat} {port : Nat} {s : State} (hS : Keeps M S0 s)
    (hM : Change.le { parts := [.cnt, .path] } M = true := by first | assumption | exact Change.le_trans (by assumption) (by decide +kernel)) :
    Keeps M S0 (State.purge s fid port) := by
  unfold State.purge
  dsimp only
  repeat' (first | with_reducible assumption | intro _ | with_reducible refine keeps_inPath ?_ | with_reducible refine keeps_undoCommit ?_ | with_reducible refine keeps_foldl ?_ ?_)

theorem keeps_loseCopy {fid : Nat} {port : Nat} {code : Nat} {s : State} (hS : Keeps M S0 s)
    (hM : Change.le { parts := [.cnt, .path] } M = true := by first | assumption | exact Change.le_trans (by assumption) (by decide +kernel)) :
    Keeps M S0 (State.loseCopy s fid port code) := by
  unfold State.loseCopy
  dsimp only
  repeat' (first | with_reducible assumption | with_reducible refine keeps_hankLose ?_ | with_reducible refine keeps_dropCopy ?_ | with_reducible refine keeps_purge ?_ | split)

theorem keeps_llOne {sl : Nat} {f : Frame} {port : Nat} {s : State} (hS : Keeps M S0 s)
    (hM : Change.le { parts := [.cnt, .path] } M = true := by first | assumption | exact Change.le_trans (by assumption) (by decide +kernel)) :
    Keeps M S0 (State.llOne s sl f port).1 := by
  unfold State.llOne
  dsimp only
  repeat' (first | with_reducible assumption | intro _ | with_reducible refine keeps_inPath ?_ | with_reducible refine keeps_addCq ?_ | with_reducible refine keeps_deepAdmit ?_ | with_reducible refine keeps_pushOut ?_ | with_reducible refine keeps_ite_fst ?_ ?_ | simp only [] | with_reducible refine keeps_eq_fst (by assumption) ?_ | split)

theorem keeps_llAll {sl : Nat} {f : Frame} {l : List Nat} {s : State} (h : Keeps M S0 s)
    (hM : Change.le { parts := [.cnt, .path] } M = true := by first | assumption | exact Change.le_trans (by assumption) (by decide +kernel)) :
    Keeps M S0 (llAll sl f l s).1 := by
  induction l generalizing s with
  | nil => exact h
  | cons p t ih =>
    unfold llAll
    split
    · exact ih (keeps_eq_fst (by assumption) (keeps_llOne h))
    · exact keeps_eq_fst (by assumption) (keeps_llOne h)

theorem keeps_losslessCheck {sl : Nat} {f : Frame} {d : List (Nat × Bool)} {s : State} (h : Keeps M S0 s)
    (hM : Change.le { parts := [.cnt, .path] } M = true := by first | assumption | exact Change.le_trans (by assumption) (by decide +kernel)) :
    Keeps M S0 (s.losslessCheck sl f d).1 := by
  unfold State.losslessCheck
  dsimp only
  split
  · exact keeps_llAll h
  · exact keeps_count (keeps_count h)

theorem keeps_sendCell {eg : Nat} {c : Staged} {f : Frame} {s : State} (hS : Keeps M S0 s)
    (hM : Change.le { parts := [.path] } M = true := by first | assumption | exact Change.le_trans (by assumption) (by decide +kernel)) :
    Keeps M S0 (State.sendCell s eg c f) := by
  unfold State.sendCell
  dsimp only
  repeat' (first | with_reducible assumption | intro _ | with_reducible refine keeps_inPath ?_ | with_reducible refine keeps_xoffCheck ?_ | with_reducible refine keeps_ite ?_ ?_)

theorem keeps_ite_accept {c : Prop} [Decidable c] {a b : Accept} (ha : c → Keeps M S0 a.state) (hb : ¬c → Keeps M S0 b.state) :
    Keeps M S0 (if c then a else b).state := by
  split
  · exact ha ‹_›
  · exact hb ‹_›

theorem keeps_Accept_ask {a : Accept} {eg : Nat} {c : Staged} (h : Keeps M S0 a.state)
    (hM : Change.le { parts := [.cnt, .path] } M = true := by first | assumption | exact Change.le_trans (by assumption) (by decide +kernel)) :
    Keeps M S0 (a.ask eg c).state := by
  unfold Accept.ask
  dsimp only
  repeat' (first | with_reducible assumption | intro _ | with_reducible refine keeps_sendCell ?_ | with_reducible refine keeps_losslessCheck ?_ | with_reducible refine keeps_ite_fst ?_ ?_ | with_reducible refine keeps_ite_accept ?_ ?_ | split)

theorem keeps_Accept_slice {a : Accept} {eg : Nat} (h : Keeps M S0 a.state)
    (hM : Change.le { parts := [.cnt, .path] } M = true := by first | assumption | exact Change.le_trans (by assumption) (by decide +kernel)) :
    Keeps M S0 (a.slice eg).state := by
  have hf : ∀ (l : List Staged) (a : Accept), Keeps M S0 a.state → Keeps M S0 (l.foldl (fun (a : Accept) c => a.ask eg c) a).state := by
    intro l
    induction l with
    | nil => exact fun _ h => h
    | cons e t ih => exact fun a h => ih _ (keeps_Accept_ask h)
  unfold Accept.slice
  dsimp only
  split
  · exact keeps_count (keeps_inPath (hf _ _ h))
  · exact keeps_inPath (hf _ _ h)

theorem keeps_execCellGrant {s : State} (h : Keeps M S0 s)
    (hM : Change.le { parts := [.cnt, .path] } M = true := by first | assumption | exact Change.le_trans (by assumption) (by decide +kernel)) :
    KeepsOut M S0 (execCellGrant s) := by
  have hf : ∀ (l : List Nat) (a : Accept), Keeps M S0 a.state → Keeps M S0 (l.foldl (fun (a : Accept) eg => a.slice eg) a).state := by
    intro l
    induction l with
    | nil => exact fun _ h => h
    | cons e t ih => exact fun a h => ih _ (keeps_Accept_slice h)
  unfold execCellGrant
  split
  · exact keeps_next h
  · exact keeps_next (hf _ _ (keeps_markRan h))

theorem keeps_growCopy {sl : Nat} {w : CellWr} {s : State} (hS : Keeps M S0 s)
    (hM : Change.le { parts := [.meet, .cnt, .path], regs := [.cbStat] } M = true := by first | assumption | exact Change.le_trans (by assumption) (by decide +kernel)) :
    Keeps M S0 (State.growCopy s sl w) := by
  unfold State.growCopy
  dsimp only
  repeat' (first | with_reducible assumption | intro _ | with_reducible refine keeps_addCq ?_ | with_reducible refine keeps_reserve ?_ | with_reducible refine keeps_setWbuf ?_ | with_reducible refine keeps_setHank ?_ | with_reducible refine keeps_onCopy ?_ | with_reducible refine keeps_loseCopy ?_ | with_reducible refine keeps_ite ?_ ?_ | with_reducible refine keeps_eq_fst (by assumption) ?_ | split)

theorem keeps_admit {sl : Nat} {w : CellWr} {deepNow : List Nat} {s : State} (hS : Keeps M S0 s)
    (hM : Change.le { parts := [.meet, .cnt, .path], regs := [.cbStat, .qmStat] } M = true := by first | assumption | exact Change.le_trans (by assumption) (by decide +kernel)) :
    Keeps M S0 (State.admitOnDie s sl w deepNow).1 := by
  unfold State.admitOnDie
  dsimp only
  repeat' (first | with_reducible assumption | intro _ | with_reducible refine keeps_raise ?_ | with_reducible refine keeps_inPath ?_ | with_reducible refine keeps_addCq ?_ | with_reducible refine keeps_subCq ?_ | with_reducible refine keeps_reserve ?_ | with_reducible refine keeps_undoCommit ?_ | with_reducible refine keeps_growCopy ?_ | with_reducible refine keeps_ite_fst ?_ ?_ | simp only [] | with_reducible refine keeps_eq_fst (by assumption) ?_ | split)

theorem keeps_admitPush {sl : Nat} {w : CellWr} {pool : Nat} {n : Nat} {s : State} (hS : Keeps M S0 s)
    (hM : Change.le { parts := [.meet, .cnt, .path], regs := [.qmStat] } M = true := by first | assumption | exact Change.le_trans (by assumption) (by decide +kernel)) :
    Keeps M S0 (State.admitPush s sl w pool n).1 := by
  unfold State.admitPush
  dsimp only
  repeat' (first | with_reducible assumption | intro _ | with_reducible refine keeps_raise ?_ | with_reducible refine keeps_addCq ?_ | with_reducible refine keeps_pushOut ?_ | with_reducible refine keeps_ite_fst ?_ ?_ | simp only [] | with_reducible refine keeps_eq_fst (by assumption) ?_ | split)

theorem keeps_admitDeep {w : CellWr} {s : State} (hS : Keeps M S0 s)
    (hM : Change.le { parts := [.meet, .cnt, .path], regs := [.dtStat] } M = true := by first | assumption | exact Change.le_trans (by assumption) (by decide +kernel)) :
    Keeps M S0 (State.admitDeep s w).1 := by
  unfold State.admitDeep
  dsimp only
  repeat' (first | with_reducible assumption | intro _ | with_reducible refine keeps_deepAdmit ?_ | with_reducible refine keeps_deepRefused ?_ | with_reducible refine keeps_ite_fst ?_ ?_)

theorem keeps_takeCell {sl : Nat} {c : Copy} {data : List Byte} {s : State} (hS : Keeps M S0 s)
    (hM : Change.le { parts := [.meet, .cnt, .log, .path], regs := [.cbErrAddr, .cbErrTags, .cbStat] } M = true := by first | assumption | exact Change.le_trans (by assumption) (by decide +kernel)) :
    Keeps M S0 (State.takeCell s sl c data).1 := by
  unfold State.takeCell
  dsimp only
  repeat' (first | with_reducible assumption | intro _ | with_reducible refine keeps_raise ?_ | with_reducible refine keeps_count ?_ | with_reducible refine keeps_onPool ?_ | with_reducible refine keeps_subCq ?_ | with_reducible refine keeps_cbPost ?_ | with_reducible refine keeps_reserve ?_ | with_reducible refine keeps_fillCell ?_ | with_reducible refine keeps_quarantine ?_ | with_reducible refine keeps_leak ?_ | with_reducible refine keeps_onCopy ?_ | with_reducible refine keeps_loseCopy ?_ | with_reducible refine keeps_ite ?_ ?_ | with_reducible refine keeps_ite_fst ?_ ?_ | with_reducible refine keeps_foldl ?_ ?_ | with_reducible refine keeps_eq_fst (by assumption) ?_ | split)

theorem keeps_storeCell {sl : Nat} {w : CellWr} {bad : Bool} {s : State} (hS : Keeps M S0 s)
    (hM : Change.le { parts := [.meet, .cnt, .log, .path], regs := [.cbErrAddr, .cbErrTags, .cbStat] } M = true := by first | assumption | exact Change.le_trans (by assumption) (by decide +kernel)) :
    Keeps M S0 (State.storeCell s sl w bad) := by
  unfold State.storeCell
  dsimp only
  repeat' (first | with_reducible assumption | intro _ | with_reducible refine keeps_writeCell ?_ | with_reducible refine keeps_onCopy ?_ | with_reducible refine keeps_takeCell ?_ | with_reducible refine keeps_ite ?_ ?_ | with_reducible refine keeps_eq_snd (by assumption) ?_ | split)

theorem keeps_finishCopy {sl : Nat} {w : CellWr} {s : State} (hS : Keeps M S0 s)
    (hM : Change.le { parts := [.path] } M = true := by first | assumption | exact Change.le_trans (by assumption) (by decide +kernel)) :
    Keeps M S0 (State.finishCopy s sl w) := by
  unfold State.finishCopy
  dsimp only
  repeat' (first | with_reducible assumption | with_reducible refine keeps_subCq ?_ | with_reducible refine keeps_unreserve ?_ | with_reducible refine keeps_onCopy ?_ | with_reducible refine keeps_surplus ?_ | split)

theorem keeps_performWrite {sl : Nat} {w : CellWr} {a : Adm} {err : Nat} {s : State} (hS : Keeps M S0 s)
    (hM : Change.le { parts := [.meet, .cnt, .log, .path, .free], regs := [.cbErrAddr, .cbErrTags, .cbStat, .fabErrAddr, .fabStat] } M = true := by first | assumption | exact Change.le_trans (by assumption) (by decide +kernel)) :
    Keeps M S0 (State.performWrite s sl w a err) := by
  unfold State.performWrite
  dsimp only
  repeat' (first | with_reducible assumption | intro _ | with_reducible refine keeps_setReg ?_ | with_reducible refine keeps_raise ?_ | with_reducible refine keeps_drop ?_ | with_reducible refine keeps_draw ?_ | with_reducible refine keeps_inPath ?_ | with_reducible refine keeps_deepWrite ?_ | with_reducible refine keeps_onCopy ?_ | with_reducible refine keeps_purge ?_ | with_reducible refine keeps_loseCopy ?_ | with_reducible refine keeps_storeCell ?_ | with_reducible refine keeps_finishCopy ?_ | with_reducible refine keeps_ite ?_ ?_ | split)

theorem keeps_execCellWrite {sl : Nat} {errs : List (Nat × Nat)} {s : State} (hS : Keeps M S0 s)
    (hM : Change.le { parts := [.meet, .cnt, .log, .path, .free], regs := [.cbErrAddr, .cbErrTags, .cbStat, .dtStat, .fabErrAddr, .fabStat, .qmStat] } M = true := by first | assumption | exact Change.le_trans (by assumption) (by decide +kernel)) :
    KeepsOut M S0 (execCellWrite sl errs s) := by
  unfold execCellWrite
  dsimp only
  repeat' (first | with_reducible assumption | intro _ | with_reducible refine keeps_inPath ?_ | with_reducible refine keeps_settle ?_ | with_reducible refine keeps_markRan ?_ | with_reducible refine keeps_admit ?_ | with_reducible refine keeps_admitPush ?_ | with_reducible refine keeps_admitDeep ?_ | with_reducible refine keeps_performWrite ?_ | with_reducible refine keeps_next ?_ | with_reducible refine keeps_ite_out ?_ ?_ | with_reducible refine keeps_foldl ?_ ?_ | with_reducible refine keeps_foldl_fst ?_ ?_ | split)

end Sys2Proof.Machine
end

