-- ==== Sys2Proof/Laws/KeepsGates.lean ====
section
/-!
SUPPORT. Each operation and meaning of Machine/Gates.lean keeps what no command may lose and changes nothing but what it names.
-/
set_option Elab.async false
namespace Sys2Proof.Machine
open Sys2Proof
variable {M : Change} {S0 : State}

theorem keeps_setGcl {p : Nat} {g : GclRun} {s : State} (hS : Keeps M S0 s)
    (hM : Change.le { parts := [.path] } M = true := by first | assumption | exact Change.le_trans (by assumption) (by decide +kernel)) :
    Keeps M S0 (State.setGcl s p g) := by
  unfold State.setGcl
  dsimp only
  repeat' (first | with_reducible assumption | (simp only [keeps_mk]; with_reducible refine keeps_upd ?_))

theorem keeps_applyGates {p : Nat} {v : Nat} {s : State} (hS : Keeps M S0 s)
    (hM : Change.le { parts := [.path], regs := [.gclOperPos] } M = true := by first | assumption | exact Change.le_trans (by assumption) (by decide +kernel)) :
    Keeps M S0 (State.applyGates s p v) := by
  unfold State.applyGates
  dsimp only
  repeat' (first | with_reducible assumption | with_reducible refine keeps_setFld ?_ | (simp only [keeps_mk]; with_reducible refine keeps_upd ?_))

theorem keeps_openGates {p : Nat} {s : State} (hS : Keeps M S0 s)
    (hM : Change.le { regs := [.gclOperPos, .macModeStat] } M = true := by first | assumption | exact Change.le_trans (by assumption) (by decide +kernel)) :
    Keeps M S0 (State.openGates s p) := by
  unfold State.openGates
  repeat' (first | with_reducible assumption | with_reducible refine keeps_setFld ?_)

theorem keeps_enterGate {p : Nat} {e : Nat} {at_ : Nat} {s : State} (hS : Keeps M S0 s)
    (hM : Change.le { parts := [.path], regs := [.gclOperPos] } M = true := by first | assumption | exact Change.le_trans (by assumption) (by decide +kernel)) :
    Keeps M S0 (State.enterGate s p e at_) := by
  unfold State.enterGate
  dsimp only
  repeat' (first | with_reducible assumption | intro _ | with_reducible refine keeps_setFld ?_ | with_reducible refine keeps_setGcl ?_ | with_reducible refine keeps_applyGates ?_ | with_reducible refine keeps_ite ?_ ?_)

theorem keeps_startCycle {p : Nat} {s : State} (hS : Keeps M S0 s)
    (hM : Change.le { parts := [.meet, .cnt, .path], regs := [.gclCycStart, .gclOperPos, .glbStat, .glbUpdInfo, .macModeStat] } M = true := by first | assumption | exact Change.le_trans (by assumption) (by decide +kernel)) :
    Keeps M S0 (State.startCycle s p) := by
  unfold State.startCycle
  dsimp only
  repeat' (first | with_reducible assumption | intro _ | with_reducible refine keeps_setFld ?_ | with_reducible refine keeps_hwFld ?_ | with_reducible refine keeps_enterGate ?_ | with_reducible refine keeps_ite ?_ ?_)

theorem keeps_execGateEntryBoundary {p : Nat} {s : State} (hS : Keeps M S0 s)
    (hM : Change.le { parts := [.path], regs := [.gclOperPos] } M = true := by first | assumption | exact Change.le_trans (by assumption) (by decide +kernel)) :
    KeepsOut M S0 (execGateEntryBoundary p s) := by
  unfold execGateEntryBoundary
  dsimp only
  repeat' (first | with_reducible assumption | intro _ | with_reducible refine keeps_enterGate ?_ | with_reducible refine keeps_next ?_ | with_reducible refine keeps_ite_out ?_ ?_)

theorem keeps_execGclCycleStart {p : Nat} {s : State} (hS : Keeps M S0 s)
    (hM : Change.le { parts := [.meet, .cnt, .path], regs := [.gclCycStart, .gclOperPos, .glbStat, .glbUpdInfo, .macModeStat] } M = true := by first | assumption | exact Change.le_trans (by assumption) (by decide +kernel)) :
    KeepsOut M S0 (execGclCycleStart p s) := by
  unfold execGclCycleStart
  repeat' (first | with_reducible assumption | intro _ | with_reducible refine keeps_startCycle ?_ | with_reducible refine keeps_next ?_ | with_reducible refine keeps_ite_out ?_ ?_)

theorem keeps_writeCycStart {p : Nat} {v : Nat} {s : State} (hS : Keeps M S0 s)
    (hM : Change.le { parts := [.meet], regs := [.gclCycStart, .gclStat] } M = true := by first | assumption | exact Change.le_trans (by assumption) (by decide +kernel)) :
    Keeps M S0 (State.writeCycStart s p v) := by
  unfold State.writeCycStart
  repeat' (first | with_reducible assumption | with_reducible refine keeps_setFld ?_ | with_reducible refine keeps_raise ?_)

theorem keeps_execGclCycStartWrite {who : Sender} {p : Nat} {v : Word} {s : State} (hS : Keeps M S0 s)
    (hM : Change.le { parts := [.meet, .cnt], regs := [.gclCycStart, .gclStat, .glbAccAddr, .glbAccInfo, .glbStat, .glbUpdInfo, .protStat, .protViolAddr, .protViolInfo] } M = true := by first | assumption | exact Change.le_trans (by assumption) (by decide +kernel)) :
    KeepsOut M S0 (execGclCycStartWrite who p v s) := by
  unfold execGclCycStartWrite
  repeat' (first | with_reducible assumption | intro _ | with_reducible refine keeps_noteWrite ?_ | with_reducible refine keeps_ccWrite ?_ ?_ | with_reducible refine keeps_writeCycStart ?_ | with_reducible refine keeps_next ?_ | with_reducible refine keeps_ite_out ?_ ?_)

theorem keeps_exchange {a : Reg} {b : Reg} {i : Nat} {s : State} (hS : Keeps M S0 s) (hb : M.may b = true := by first | assumption | exact Change.may_of_le (by assumption) (by decide +kernel) | exact Change.may_ite (by assumption) (by decide +kernel) (by decide +kernel) | exact Change.may_of_any (Change.any_of_le (by assumption) (by decide +kernel))) (ha : M.may a = true := by first | assumption | exact Change.may_of_le (by assumption) (by decide +kernel) | exact Change.may_ite (by assumption) (by decide +kernel) (by decide +kernel) | exact Change.may_of_any (Change.any_of_le (by assumption) (by decide +kernel))) :
    Keeps M S0 (State.exchange s a b i) := by
  unfold State.exchange
  repeat' (first | with_reducible assumption | with_reducible refine keeps_setReg ?_)

theorem keeps_exchangeBanks {p : Nat} {s : State} (hS : Keeps M S0 s)
    (hM : Change.le { parts := [.path], regs := [.gclAdminCycle, .gclAdminDur, .gclAdminGates, .gclAdminMaxwin, .gclOperCycle, .gclOperDur, .gclOperGates, .gclOperLen, .gclOperMaxwin, .gclSwapCtl] } M = true := by first | assumption | exact Change.le_trans (by assumption) (by decide +kernel)) :
    Keeps M S0 (State.exchangeBanks s p) := by
  unfold State.exchangeBanks
  dsimp only
  repeat' (first | with_reducible assumption | intro _ | with_reducible refine keeps_setFld ?_ | with_reducible refine keeps_setGcl ?_ | with_reducible refine keeps_exchange ?_ | with_reducible refine keeps_foldl ?_ ?_)

theorem keeps_armSwap {p : Nat} {s : State} (hS : Keeps M S0 s)
    (hM : Change.le { parts := [.path], regs := [.gclStat, .gclSwapCtl] } M = true := by first | assumption | exact Change.le_trans (by assumption) (by decide +kernel)) :
    Keeps M S0 (State.armSwap s p) := by
  unfold State.armSwap
  dsimp only
  repeat' (first | with_reducible assumption | intro _ | with_reducible refine keeps_setFld ?_ | with_reducible refine keeps_setGcl ?_ | with_reducible refine keeps_ite ?_ ?_ | (simp only [keeps_mk]; with_reducible refine keeps_upd ?_))

theorem keeps_writeSwapCtl {p : Nat} {v : Nat} {s : State} (hS : Keeps M S0 s)
    (hM : Change.le { parts := [.path], regs := [.gclStat, .gclSwapCtl] } M = true := by first | assumption | exact Change.le_trans (by assumption) (by decide +kernel)) :
    Keeps M S0 (State.writeSwapCtl s p v) := by
  unfold State.writeSwapCtl
  dsimp only
  repeat' (first | with_reducible assumption | intro _ | with_reducible refine keeps_setFld ?_ | with_reducible refine keeps_armSwap ?_ | with_reducible refine keeps_ite ?_ ?_)

theorem keeps_execGclSwapArm {who : Sender} {p : Nat} {v : Word} {s : State} (hS : Keeps M S0 s)
    (hM : Change.le { parts := [.meet, .cnt, .path], regs := [.gclStat, .gclSwapCtl, .glbAccAddr, .glbAccInfo, .glbStat, .glbUpdInfo, .protStat, .protViolAddr, .protViolInfo] } M = true := by first | assumption | exact Change.le_trans (by assumption) (by decide +kernel)) :
    KeepsOut M S0 (execGclSwapArm who p v s) := by
  unfold execGclSwapArm
  repeat' (first | with_reducible assumption | intro _ | with_reducible refine keeps_noteWrite ?_ | with_reducible refine keeps_ccWrite ?_ ?_ | with_reducible refine keeps_writeSwapCtl ?_ | with_reducible refine keeps_next ?_ | with_reducible refine keeps_ite_out ?_ ?_)

theorem keeps_execGclSwap {p : Nat} {s : State} (hS : Keeps M S0 s)
    (hM : Change.le { parts := [.meet, .cnt, .path], regs := [.gclAdminCycle, .gclAdminDur, .gclAdminGates, .gclAdminMaxwin, .gclCycStart, .gclOperCycle, .gclOperDur, .gclOperGates, .gclOperLen, .gclOperMaxwin, .gclOperPos, .gclStat, .gclSwapCtl, .glbStat, .glbUpdInfo, .macModeStat] } M = true := by first | assumption | exact Change.le_trans (by assumption) (by decide +kernel)) :
    KeepsOut M S0 (execGclSwap p s) := by
  unfold execGclSwap
  dsimp only
  repeat' (first | with_reducible assumption | intro _ | with_reducible refine keeps_setFld ?_ | with_reducible refine keeps_raise ?_ | with_reducible refine keeps_hwFld ?_ | with_reducible refine keeps_setGcl ?_ | with_reducible refine keeps_openGates ?_ | with_reducible refine keeps_startCycle ?_ | with_reducible refine keeps_exchangeBanks ?_ | with_reducible refine keeps_next ?_ | with_reducible refine keeps_ite ?_ ?_ | with_reducible refine keeps_ite_out ?_ ?_)

theorem keeps_writeAdmin {g : GclHeld} {s : State} (hS : Keeps M S0 s)
    (hM : Change.le { parts := [.path], regs := [.gclAdminCycle, .gclAdminDur, .gclAdminGates, .gclAdminMaxwin, .gclSwapCtl] } M = true := by first | assumption | exact Change.le_trans (by assumption) (by decide +kernel)) :
    Keeps M S0 (State.writeAdmin s g) := by
  unfold State.writeAdmin
  dsimp only
  repeat' (first | with_reducible assumption | intro _ | with_reducible refine keeps_setReg ?_ | with_reducible refine keeps_setFld ?_ | with_reducible refine keeps_setGcl ?_ | with_reducible refine keeps_foldl ?_ ?_)

theorem keeps_armHeld {g : GclHeld} {s : State} (hS : Keeps M S0 s)
    (hM : Change.le { parts := [.path], regs := [.gclStat, .gclSwapCtl, .gclSwapTgt] } M = true := by first | assumption | exact Change.le_trans (by assumption) (by decide +kernel)) :
    Keeps M S0 (State.armHeld s g) := by
  unfold State.armHeld
  dsimp only
  repeat' (first | with_reducible assumption | intro _ | with_reducible refine keeps_setReg ?_ | with_reducible refine keeps_setGcl ?_ | with_reducible refine keeps_armSwap ?_ | with_reducible refine keeps_ite ?_ ?_ | (simp only [keeps_mk]; with_reducible refine keeps_upd ?_))

theorem keeps_checkSwaps {s : State} (hS : Keeps M S0 s)
    (hM : Change.le { parts := [.path], regs := [.gclStat, .gclSwapCtl, .gclSwapTgt] } M = true := by first | assumption | exact Change.le_trans (by assumption) (by decide +kernel)) :
    Keeps M S0 (State.checkSwaps s) := by
  unfold State.checkSwaps
  repeat' (first | with_reducible assumption | intro _ | with_reducible refine keeps_armHeld ?_ | with_reducible refine keeps_foldl ?_ ?_)

theorem keeps_execGclSet {p : Packet} {s : State} (hS : Keeps M S0 s)
    (hM : Change.le { parts := [.pkts, .log, .path], regs := [.gclAdminCycle, .gclAdminDur, .gclAdminGates, .gclAdminMaxwin, .gclStat, .gclSwapCtl, .gclSwapTgt] } M = true := by first | assumption | exact Change.le_trans (by assumption) (by decide +kernel)) :
    KeepsOut M S0 (execGclSet p s) := by
  unfold execGclSet
  dsimp only
  repeat' (first | with_reducible assumption | intro _ | with_reducible refine keeps_Res_ok ?_ | with_reducible refine keeps_guarded ?_ ?_ | with_reducible refine keeps_runPacket ?_ ?_ | with_reducible refine keeps_writeAdmin ?_ | with_reducible refine keeps_armHeld ?_ | (simp only [keeps_mk]; with_reducible refine keeps_upd ?_))

theorem keeps_execGclCancel {p : Packet} {s : State} (hS : Keeps M S0 s)
    (hM : Change.le { parts := [.pkts, .log, .path], regs := [.gclStat, .gclSwapCtl] } M = true := by first | assumption | exact Change.le_trans (by assumption) (by decide +kernel)) :
    KeepsOut M S0 (execGclCancel p s) := by
  unfold execGclCancel
  dsimp only
  repeat' (first | with_reducible assumption | intro _ | with_reducible refine keeps_Res_ok ?_ | with_reducible refine keeps_guarded ?_ ?_ | with_reducible refine keeps_runPacket ?_ ?_ | with_reducible refine keeps_writeSwapCtl ?_ | with_reducible refine keeps_ite ?_ ?_ | (simp only [keeps_mk]; with_reducible refine keeps_upd ?_))

theorem keeps_execGclGet {p : Packet} {s : State} (hS : Keeps M S0 s)
    (hM : Change.le { parts := [.pkts, .log] } M = true := by first | assumption | exact Change.le_trans (by assumption) (by decide +kernel)) :
    KeepsOut M S0 (execGclGet p s) := by
  unfold execGclGet
  dsimp only
  repeat' (first | with_reducible assumption | intro _ | with_reducible refine keeps_Res_ok ?_ | with_reducible refine keeps_guarded ?_ ?_ | with_reducible refine keeps_runPacket ?_ ?_)

end Sys2Proof.Machine
end

