-- ==== Sys2Proof/Laws/KeepsScheduler.lean ====
section
/-!
SUPPORT. Each operation and meaning of Machine/Scheduler.lean keeps what no command may lose and changes nothing but what it names.
-/
set_option Elab.async false
namespace Sys2Proof.Machine
open Sys2Proof
variable {M : Change} {S0 : State}

theorem keeps_setSched {p : Nat} {d : Sched} {s : State} (hS : Keeps M S0 s)
    (hM : Change.le { parts := [.path] } M = true := by first | assumption | exact Change.le_trans (by assumption) (by decide +kernel)) :
    Keeps M S0 (State.setSched s p d) := by
  unfold State.setSched
  repeat' (first | with_reducible assumption | with_reducible refine keeps_inPath ?_)

theorem keeps_setLine {p : Nat} {l : PortLine} {s : State} (hS : Keeps M S0 s)
    (hM : Change.le { parts := [.path] } M = true := by first | assumption | exact Change.le_trans (by assumption) (by decide +kernel)) :
    Keeps M S0 (State.setLine s p l) := by
  unfold State.setLine
  repeat' (first | with_reducible assumption | with_reducible refine keeps_inPath ?_)

theorem keeps_setTx {k : Nat} {t : Option Tx} {s : State} (hS : Keeps M S0 s)
    (hM : Change.le { parts := [.path] } M = true := by first | assumption | exact Change.le_trans (by assumption) (by decide +kernel)) :
    Keeps M S0 (State.setTx s k t) := by
  unfold State.setTx
  repeat' (first | with_reducible assumption | with_reducible refine keeps_inPath ?_)

theorem keeps_wakeLine {p : Nat} {s : State} (hS : Keeps M S0 s)
    (hM : Change.le { parts := [.path], regs := [.macModeStat, .pcsState] } M = true := by first | assumption | exact Change.le_trans (by assumption) (by decide +kernel)) :
    Keeps M S0 (State.wakeLine s p) := by
  unfold State.wakeLine
  dsimp only
  repeat' (first | with_reducible assumption | intro _ | with_reducible refine keeps_setFld ?_ | with_reducible refine keeps_setLine ?_ | with_reducible refine keeps_ite ?_ ?_ | split)

theorem keeps_lookHead {p : Nat} {i : Nat} {startAt : Nat} {estamp : Nat} {s : State} (hS : Keeps M S0 s)
    (hM : Change.le { parts := [.meet, .cnt, .path], regs := [.schStat] } M = true := by first | assumption | exact Change.le_trans (by assumption) (by decide +kernel)) :
    Keeps M S0 (State.lookHead s p i startAt estamp).1 := by
  unfold State.lookHead
  dsimp only
  repeat' (first | with_reducible assumption | intro _ | with_reducible refine keeps_raise ?_ | with_reducible refine keeps_onCopy ?_ | with_reducible refine keeps_loseCopy ?_ | with_reducible refine keeps_ite ?_ ?_ | with_reducible refine keeps_ite_fst ?_ ?_ | split)

theorem keeps_lookHeads {p : Nat} {startAt : Nat} {estamp : Nat} {s : State} (hS : Keeps M S0 s)
    (hM : Change.le { parts := [.meet, .cnt, .path], regs := [.schStat] } M = true := by first | assumption | exact Change.le_trans (by assumption) (by decide +kernel)) :
    Keeps M S0 (State.lookHeads s p startAt estamp).1 := by
  unfold State.lookHeads
  repeat' (first | with_reducible assumption | intro _ | with_reducible refine keeps_lookHead ?_ | with_reducible refine keeps_foldl_fst ?_ ?_ | simp only [] | with_reducible refine keeps_eq_fst (by assumption) ?_ | split)

theorem keeps_reserveRx {i : Nat} {f : Frame} {len : Nat} {s : State} (hS : Keeps M S0 s)
    (hM : Change.le { parts := [.cnt, .host], regs := [.dmaRxHead] } M = true := by first | assumption | exact Change.le_trans (by assumption) (by decide +kernel)) :
    Keeps M S0 (State.reserveRx s i f len).1 := by
  unfold State.reserveRx
  dsimp only
  repeat' (first | with_reducible assumption | intro _ | with_reducible refine keeps_setReg ?_ | with_reducible refine keeps_count ?_ | with_reducible refine keeps_ite_fst ?_ ?_ | (simp only [keeps_mk]; with_reducible refine keeps_upd ?_))

theorem keeps_chargeShapers {p : Nat} {qu : Nat} {bytes : Int} {s : State} (hS : Keeps M S0 s)
    (hM : Change.le { parts := [.path] } M = true := by first | assumption | exact Change.le_trans (by assumption) (by decide +kernel)) :
    Keeps M S0 (State.chargeShapers s p qu bytes) := by
  unfold State.chargeShapers
  repeat' (first | with_reducible assumption | intro _ | with_reducible refine keeps_setCredit ?_ | with_reducible refine keeps_ite ?_ ?_ | with_reducible refine keeps_foldl ?_ ?_)

theorem keeps_choose {p : Nat} {i : Nat} {startAt : Nat} {estamp : Nat} {d : Sched} {l : Look} {s : State} (hS : Keeps M S0 s)
    (hM : Change.le { parts := [.meet, .cnt, .path, .host], regs := [.dmaRxHead, .macModeStat, .macStat, .pcsState] } M = true := by first | assumption | exact Change.le_trans (by assumption) (by decide +kernel)) :
    Keeps M S0 (State.choose s p i startAt estamp d l) := by
  unfold State.choose
  dsimp only
  repeat' (first | with_reducible assumption | intro _ | with_reducible refine keeps_raise ?_ | with_reducible refine keeps_onCopy ?_ | with_reducible refine keeps_loseCopy ?_ | with_reducible refine keeps_setSched ?_ | with_reducible refine keeps_setTx ?_ | with_reducible refine keeps_wakeLine ?_ | with_reducible refine keeps_reserveRx ?_ | with_reducible refine keeps_chargeShapers ?_ | with_reducible refine keeps_ite ?_ ?_ | with_reducible refine keeps_ite_fst ?_ ?_)

theorem keeps_decide_ {p : Nat} {estamp : Nat} {s : State} (hS : Keeps M S0 s)
    (hM : Change.le { parts := [.meet, .cnt, .path, .host], regs := [.dmaRxHead, .macModeStat, .macStat, .pcsState, .schStat] } M = true := by first | assumption | exact Change.le_trans (by assumption) (by decide +kernel)) :
    Keeps M S0 (State.decide_ s p estamp) := by
  unfold State.decide_
  dsimp only
  repeat' (first | with_reducible assumption | intro _ | with_reducible refine keeps_count ?_ | with_reducible refine keeps_setSched ?_ | with_reducible refine keeps_lookHeads ?_ | with_reducible refine keeps_choose ?_ | with_reducible refine keeps_ite ?_ ?_ | split)

theorem keeps_chooseCtl {p : Nat} {bs : List Byte} {rest : List (List Byte)} {s : State} (hS : Keeps M S0 s)
    (hM : Change.le { parts := [.path], regs := [.macModeStat, .pcsState] } M = true := by first | assumption | exact Change.le_trans (by assumption) (by decide +kernel)) :
    Keeps M S0 (State.chooseCtl s p bs rest) := by
  unfold State.chooseCtl
  dsimp only
  repeat' (first | with_reducible assumption | with_reducible refine keeps_setFlow ?_ | with_reducible refine keeps_setSched ?_ | with_reducible refine keeps_setTx ?_ | with_reducible refine keeps_wakeLine ?_)

theorem keeps_execStartDecision {p : Nat} {edge : Nat} {sym : Nat} {s : State} (hS : Keeps M S0 s)
    (hM : Change.le { parts := [.meet, .cnt, .path, .host], regs := [.dmaRxHead, .macModeStat, .macStat, .pcsState, .schStat] } M = true := by first | assumption | exact Change.le_trans (by assumption) (by decide +kernel)) :
    KeepsOut M S0 (execStartDecision p edge sym s) := by
  unfold execStartDecision
  dsimp only
  repeat' (first | with_reducible assumption | intro _ | with_reducible refine keeps_settle ?_ | with_reducible refine keeps_markRan ?_ | with_reducible refine keeps_decide_ ?_ | with_reducible refine keeps_chooseCtl ?_ | with_reducible refine keeps_next ?_ | with_reducible refine keeps_ite_out ?_ ?_ | split)

end Sys2Proof.Machine
end

