-- ==== Sys2Proof/Laws/KeepsTransmit.lean ====
section
/-!
SUPPORT. Each operation and meaning of Machine/Transmit.lean keeps what no command may lose and changes nothing but what it names.
-/
set_option Elab.async false
namespace Sys2Proof.Machine
open Sys2Proof
variable {M : Change} {S0 : State}

theorem keeps_withdraw {p : Nat} {s : State} (hS : Keeps M S0 s)
    (hM : Change.le { parts := [.path] } M = true := by first | assumption | exact Change.le_trans (by assumption) (by decide +kernel)) :
    Keeps M S0 (State.withdraw s p) := by
  unfold State.withdraw
  dsimp only
  repeat' (first | with_reducible assumption | intro _ | with_reducible refine keeps_onCopy ?_ | with_reducible refine keeps_setSched ?_ | with_reducible refine keeps_setTx ?_ | with_reducible refine keeps_chargeShapers ?_ | with_reducible refine keeps_ite ?_ ?_ | split)

theorem keeps_mirrorOut {p : Nat} {t : Tx} {f : Frame} {s : State} (hS : Keeps M S0 s)
    (hM : Change.le { parts := [.meet, .cnt, .path], regs := [.fabStat, .mirStat] } M = true := by first | assumption | exact Change.le_trans (by assumption) (by decide +kernel)) :
    Keeps M S0 (State.mirrorOut s p t f) := by
  unfold State.mirrorOut
  dsimp only
  repeat' (first | with_reducible assumption | intro _ | with_reducible refine keeps_mirCopy ?_ | with_reducible refine keeps_enterFabric ?_ | with_reducible refine keeps_ite ?_ ?_ | with_reducible refine keeps_foldl ?_ ?_ | with_reducible refine keeps_eq_fst (by assumption) ?_ | split)

theorem keeps_countActs {p : Nat} {t : Tx} {f : Frame} {s : State} (hS : Keeps M S0 s)
    (hM : Change.le { parts := [.meet, .cnt], regs := [.tsStpStat] } M = true := by first | assumption | exact Change.le_trans (by assumption) (by decide +kernel)) :
    Keeps M S0 (State.countActs s p t f) := by
  unfold State.countActs
  dsimp only
  repeat' (first | with_reducible assumption | intro _ | with_reducible refine keeps_raise ?_ | with_reducible refine keeps_count ?_ | with_reducible refine keeps_ite ?_ ?_ | split)

theorem keeps_sentPfc {p : Nat} {bs : List Byte} {s : State} (hS : Keeps M S0 s)
    (hM : Change.le { parts := [.meet, .cnt], regs := [.fcEvt, .fcStat] } M = true := by first | assumption | exact Change.le_trans (by assumption) (by decide +kernel)) :
    Keeps M S0 (State.sentPfc s p bs) := by
  unfold State.sentPfc
  dsimp only
  repeat' (first | with_reducible assumption | intro _ | with_reducible refine keeps_setFld ?_ | with_reducible refine keeps_raise ?_ | with_reducible refine keeps_count ?_ | with_reducible refine keeps_ite ?_ ?_)

theorem keeps_execTransmitStart {p : Nat} {s : State} (hS : Keeps M S0 s)
    (hM : Change.le { parts := [.meet, .cnt, .path], regs := [.fabStat, .fcEvt, .fcStat, .mirStat, .tsStpStat] } M = true := by first | assumption | exact Change.le_trans (by assumption) (by decide +kernel)) :
    KeepsOut M S0 (execTransmitStart p s) := by
  unfold execTransmitStart
  dsimp only
  repeat' (first | with_reducible assumption | intro _ | with_reducible refine keeps_count ?_ | with_reducible refine keeps_setSched ?_ | with_reducible refine keeps_setTx ?_ | with_reducible refine keeps_withdraw ?_ | with_reducible refine keeps_mirrorOut ?_ | with_reducible refine keeps_countActs ?_ | with_reducible refine keeps_sentPfc ?_ | with_reducible refine keeps_next ?_ | with_reducible refine keeps_ite ?_ ?_ | with_reducible refine keeps_ite_out ?_ ?_ | split)

theorem keeps_readCell {sl : Nat} {qu : Nat} {c : Nat} {ecc : Nat} {s : State} (hS : Keeps M S0 s)
    (hM : Change.le { parts := [.meet, .cnt, .log, .path, .free], regs := [.cbErrAddr, .cbErrTags, .cbStat] } M = true := by first | assumption | exact Change.le_trans (by assumption) (by decide +kernel)) :
    Keeps M S0 (State.readCell s sl qu c ecc).1 := by
  unfold State.readCell
  dsimp only
  repeat' (first | with_reducible assumption | intro _ | with_reducible refine keeps_raise ?_ | with_reducible refine keeps_count ?_ | with_reducible refine keeps_draw ?_ | with_reducible refine keeps_cbPost ?_ | with_reducible refine keeps_quarantine ?_ | with_reducible refine keeps_ite ?_ ?_ | with_reducible refine keeps_ite_fst ?_ ?_ | split)

theorem keeps_readNext {p : Nat} {k : Nat} {t : Tx} {c : Copy} {v : Nat} {ecc : Nat} {s : State} (hS : Keeps M S0 s)
    (hM : Change.le { parts := [.meet, .cnt, .log, .path, .free], regs := [.cbErrAddr, .cbErrTags, .cbStat] } M = true := by first | assumption | exact Change.le_trans (by assumption) (by decide +kernel)) :
    Keeps M S0 (State.readNext s p k t c v ecc) := by
  unfold State.readNext
  dsimp only
  repeat' (first | with_reducible assumption | intro _ | with_reducible refine keeps_drop ?_ | with_reducible refine keeps_inPath ?_ | with_reducible refine keeps_onCopy ?_ | with_reducible refine keeps_loseCopy ?_ | with_reducible refine keeps_setTx ?_ | with_reducible refine keeps_withdraw ?_ | with_reducible refine keeps_readCell ?_ | with_reducible refine keeps_ite ?_ ?_)

theorem keeps_readTx {p : Nat} {ecc : Nat} {k : Nat} {t : Tx} {s : State} (hS : Keeps M S0 s)
    (hM : Change.le { parts := [.meet, .cnt, .log, .path, .free], regs := [.cbErrAddr, .cbErrTags, .cbStat, .fabStat] } M = true := by first | assumption | exact Change.le_trans (by assumption) (by decide +kernel)) :
    KeepsOpt M S0 (State.readTx s p ecc k t) := by
  unfold State.readTx
  dsimp only
  repeat' (first | with_reducible assumption | intro _ | with_reducible refine keeps_raise ?_ | with_reducible refine keeps_count ?_ | with_reducible refine keeps_drop ?_ | with_reducible refine keeps_setTx ?_ | with_reducible refine keeps_readNext ?_ | with_reducible refine keeps_some ?_ | with_reducible refine keeps_none | with_reducible refine keeps_ite ?_ ?_ | with_reducible refine keeps_ite_opt ?_ ?_ | split)

theorem keeps_readTxBind {p ecc k : Nat} {o : Option Tx} {s : State} (h : Keeps M S0 s)
    (hM : Change.le { parts := [.meet, .cnt, .log, .path, .free], regs := [.cbErrAddr, .cbErrTags, .cbStat, .fabStat] } M = true := by first | assumption | exact Change.le_trans (by assumption) (by decide +kernel)) :
    KeepsOpt M S0 (o.bind (s.readTx p ecc k)) := by
  cases o with
  | none => exact keeps_none
  | some t => exact keeps_readTx h

theorem keeps_execCellRead {p ecc : Nat} {s : State} (h : Keeps M S0 s)
    (hM : Change.le { parts := [.meet, .cnt, .log, .path, .free], regs := [.cbErrAddr, .cbErrTags, .cbStat, .fabStat] } M = true := by first | assumption | exact Change.le_trans (by assumption) (by decide +kernel)) :
    KeepsOut M S0 (execCellRead p ecc s) := by
  unfold execCellRead
  split
  · exact keeps_next ((keeps_readTxBind h).keeps _ (by assumption))
  · refine keeps_next ?_
    cases e : (s.nextTx p).bind (s.readTx p ecc (2 * p + 1)) with
    | none => exact h
    | some t => exact (keeps_readTxBind h).keeps _ e

theorem keeps_ringWrite {q : Nat} {w : Nat → Nat} {s : State} (hS : Keeps M S0 s)
    (hM : Change.le { parts := [.meet, .cnt], regs := [.tsRingEnt, .tsRingProd, .tsRingStat] } M = true := by first | assumption | exact Change.le_trans (by assumption) (by decide +kernel)) :
    Keeps M S0 (State.ringWrite s q w) := by
  unfold State.ringWrite
  dsimp only
  repeat' (first | with_reducible assumption | intro _ | with_reducible refine keeps_setReg ?_ | with_reducible refine keeps_setFld ?_ | with_reducible refine keeps_raise ?_ | with_reducible refine keeps_count ?_ | with_reducible refine keeps_ite ?_ ?_ | with_reducible refine keeps_foldl ?_ ?_)

theorem keeps_ringEntry {p : Nat} {t : Tx} {c : Copy} {m : Meta} {stomp : Bool} {sent : List Byte} {s : State} (hS : Keeps M S0 s)
    (hM : Change.le { parts := [.meet, .cnt], regs := [.tsRingEnt, .tsRingProd, .tsRingStat] } M = true := by first | assumption | exact Change.le_trans (by assumption) (by decide +kernel)) :
    Keeps M S0 (State.ringEntry s p t c m stomp sent) := by
  unfold State.ringEntry
  dsimp only
  repeat' (first | with_reducible assumption | intro _ | with_reducible refine keeps_ringWrite ?_ | with_reducible refine keeps_ite ?_ ?_)

theorem keeps_writeCons {q : Nat} {v : Nat} {control : Bool} {s : State} (hS : Keeps M S0 s)
    (hM : Change.le { regs := [.tsRingCons, .tsRingStat] } M = true := by first | assumption | exact Change.le_trans (by assumption) (by decide +kernel)) :
    Keeps M S0 (State.writeCons s q v control) := by
  unfold State.writeCons
  dsimp only
  repeat' (first | with_reducible assumption | intro _ | with_reducible refine keeps_setFld ?_ | with_reducible refine keeps_ite ?_ ?_)

theorem keeps_execTsRingConsWrite {who : Sender} {q : Nat} {v : Word} {s : State} (hS : Keeps M S0 s)
    (hM : Change.le { parts := [.meet, .cnt], regs := [.protStat, .protViolAddr, .protViolInfo, .tsRingCons, .tsRingStat] } M = true := by first | assumption | exact Change.le_trans (by assumption) (by decide +kernel)) :
    KeepsOut M S0 (execTsRingConsWrite who q v s) := by
  unfold execTsRingConsWrite
  repeat' (first | with_reducible assumption | intro _ | with_reducible refine keeps_access ?_ ?_ | with_reducible refine keeps_writeCons ?_ | with_reducible refine keeps_next ?_ | with_reducible refine keeps_ite_out ?_ ?_)

theorem keeps_endMirrors {p : Nat} {fid : Nat} {bad : Bool} {s : State} (hS : Keeps M S0 s)
    (hM : Change.le { parts := [.meet, .cnt, .path], regs := [.mirStat] } M = true := by first | assumption | exact Change.le_trans (by assumption) (by decide +kernel)) :
    Keeps M S0 (State.endMirrors s p fid bad) := by
  unfold State.endMirrors
  dsimp only
  repeat' (first | with_reducible assumption | intro _ | with_reducible refine keeps_raise ?_ | with_reducible refine keeps_drop ?_ | with_reducible refine keeps_onFrame ?_ | with_reducible refine keeps_loseCopy ?_ | with_reducible refine keeps_ite ?_ ?_ | with_reducible refine keeps_foldl ?_ ?_)

theorem keeps_forgetCopy {c : Copy} {s : State} (hS : Keeps M S0 s)
    (hM : Change.le { parts := [.cnt, .path] } M = true := by first | assumption | exact Change.le_trans (by assumption) (by decide +kernel)) :
    Keeps M S0 (State.forgetCopy s c) := by
  unfold State.forgetCopy
  repeat' (first | with_reducible assumption | with_reducible refine keeps_dropCopy ?_ | with_reducible refine keeps_purge ?_ | split)

theorem keeps_deliver {p : Nat} {fid : Nat} {m : Meta} {bs : List Byte} {s : State} (hS : Keeps M S0 s)
    (hM : Change.le { parts := [.cnt, .path, .host, .out] } M = true := by first | assumption | exact Change.le_trans (by assumption) (by decide +kernel)) :
    Keeps M S0 (State.deliver s p fid m bs) := by
  unfold State.deliver
  dsimp only
  repeat' (first | with_reducible assumption | intro _ | with_reducible refine keeps_emit ?_ | with_reducible refine keeps_enterWhole ?_ | with_reducible refine keeps_ite ?_ ?_ | (simp only [keeps_mk]; with_reducible refine keeps_upd ?_))

theorem keeps_endTx {p : Nat} {t : Tx} {c : Copy} {f : Frame} {s : State} (hS : Keeps M S0 s)
    (hM : Change.le { parts := [.meet, .cnt, .path, .host, .out], regs := [.macStat, .mirStat, .schStat, .tsRingEnt, .tsRingProd, .tsRingStat] } M = true := by first | assumption | exact Change.le_trans (by assumption) (by decide +kernel)) :
    Keeps M S0 (State.endTx s p t c f) := by
  unfold State.endTx
  dsimp only
  repeat' (first | with_reducible assumption | intro _ | with_reducible refine keeps_raise ?_ | with_reducible refine keeps_count ?_ | with_reducible refine keeps_countArr ?_ | with_reducible refine keeps_txGood ?_ | with_reducible refine keeps_setSched ?_ | with_reducible refine keeps_setTx ?_ | with_reducible refine keeps_ringEntry ?_ | with_reducible refine keeps_endMirrors ?_ | with_reducible refine keeps_forgetCopy ?_ | with_reducible refine keeps_deliver ?_ | with_reducible refine keeps_ite ?_ ?_)

end Sys2Proof.Machine
end

