-- ==== Sys2Proof/Laws/KeepsLink.lean ====
section
/-!
SUPPORT. Each operation and meaning of Machine/Link.lean keeps what no command may lose and changes nothing but what it names.
-/
set_option Elab.async false
namespace Sys2Proof.Machine
open Sys2Proof
variable {M : Change} {S0 : State}

theorem keeps_execPfcGenerate {p : Nat} {s : State} (hS : Keeps M S0 s)
    (hM : Change.le { parts := [.path], regs := [.macModeStat, .pcsState] } M = true := by first | assumption | exact Change.le_trans (by assumption) (by decide +kernel)) :
    KeepsOut M S0 (execPfcGenerate p s) := by
  unfold execPfcGenerate
  dsimp only
  repeat' (first | with_reducible assumption | intro _ | with_reducible refine keeps_setFlow ?_ | with_reducible refine keeps_wakeLine ?_ | with_reducible refine keeps_next ?_ | with_reducible refine keeps_ite_out ?_ ?_)

theorem keeps_execPfcRefresh {p : Nat} {s : State} (hS : Keeps M S0 s)
    (hM : Change.le { parts := [.path] } M = true := by first | assumption | exact Change.le_trans (by assumption) (by decide +kernel)) :
    KeepsOut M S0 (execPfcRefresh p s) := by
  unfold execPfcRefresh
  dsimp only
  repeat' (first | with_reducible assumption | intro _ | with_reducible refine keeps_setFlow ?_ | with_reducible refine keeps_next ?_ | with_reducible refine keeps_ite_out ?_ ?_)

theorem keeps_queueLoad {p : Nat} {mask : Nat} {times : List Nat} {s : State} (hS : Keeps M S0 s)
    (hM : Change.le { parts := [.path] } M = true := by first | assumption | exact Change.le_trans (by assumption) (by decide +kernel)) :
    Keeps M S0 (State.queueLoad s p mask times) := by
  unfold State.queueLoad
  dsimp only
  repeat' (first | with_reducible assumption | with_reducible refine keeps_setFlow ?_)

theorem keeps_showPaused {p : Nat} {s : State} (hS : Keeps M S0 s)
    (hM : Change.le { regs := [.fcStat] } M = true := by first | assumption | exact Change.le_trans (by assumption) (by decide +kernel)) :
    Keeps M S0 (State.showPaused s p) := by
  unfold State.showPaused
  dsimp only
  repeat' (first | with_reducible assumption | with_reducible refine keeps_setFld ?_)

theorem keeps_execPauseLoadApply {p : Nat} {s : State} (hS : Keeps M S0 s)
    (hM : Change.le { parts := [.path], regs := [.fcStat] } M = true := by first | assumption | exact Change.le_trans (by assumption) (by decide +kernel)) :
    KeepsOut M S0 (execPauseLoadApply p s) := by
  unfold execPauseLoadApply
  dsimp only
  repeat' (first | with_reducible assumption | intro _ | with_reducible refine keeps_setFlow ?_ | with_reducible refine keeps_showPaused ?_ | with_reducible refine keeps_next ?_ | with_reducible refine keeps_ite_out ?_ ?_)

theorem keeps_execPauseTimerExpire {p : Nat} {c : Nat} {s : State} (hS : Keeps M S0 s)
    (hM : Change.le { parts := [.tick, .time, .meet, .cnt, .samp, .path, .host], regs := [.dmaRxTail, .dmaTxTail, .fcStat, .tsStat] } M = true := by first | assumption | exact Change.le_trans (by assumption) (by decide +kernel)) :
    KeepsOut M S0 (execPauseTimerExpire p c s) := by
  unfold execPauseTimerExpire
  dsimp only
  repeat' (first | with_reducible assumption | intro _ | with_reducible refine keeps_slotEdge ?_ | with_reducible refine keeps_next ?_ | with_reducible refine keeps_ite_out ?_ ?_)

theorem keeps_control {p : Nat} {bs : List Byte} {s : State} (hS : Keeps M S0 s)
    (hM : Change.le { parts := [.meet, .cnt, .path], regs := [.fcEvt] } M = true := by first | assumption | exact Change.le_trans (by assumption) (by decide +kernel)) :
    Keeps M S0 (State.control s p bs) := by
  unfold State.control
  dsimp only
  repeat' (first | with_reducible assumption | intro _ | with_reducible refine keeps_raise ?_ | with_reducible refine keeps_count ?_ | with_reducible refine keeps_drop ?_ | with_reducible refine keeps_queueLoad ?_ | with_reducible refine keeps_ite ?_ ?_)

theorem keeps_flush {p : Nat} {s : State} (hS : Keeps M S0 s)
    (hM : Change.le { parts := [.meet, .cnt, .path], regs := [.qmStat] } M = true := by first | assumption | exact Change.le_trans (by assumption) (by decide +kernel)) :
    Keeps M S0 (State.flush s p).1 := by
  unfold State.flush
  dsimp only
  repeat' (first | with_reducible assumption | intro _ | with_reducible refine keeps_raise ?_ | with_reducible refine keeps_count ?_ | with_reducible refine keeps_dropHank ?_ | with_reducible refine keeps_settle ?_ | with_reducible refine keeps_loseCopy ?_ | with_reducible refine keeps_withdraw ?_ | with_reducible refine keeps_foldl ?_ ?_)

theorem keeps_setPortState {p : Nat} {st : Nat} {s : State} (hS : Keeps M S0 s)
    (hM : Change.le { regs := [.macModeStat, .qmPortStat] } M = true := by first | assumption | exact Change.le_trans (by assumption) (by decide +kernel)) :
    Keeps M S0 (State.setPortState s p st) := by
  unfold State.setPortState
  repeat' (first | with_reducible assumption | with_reducible refine keeps_setFld ?_)

theorem keeps_execHoldDeadline {p : Nat} {s : State} (hS : Keeps M S0 s)
    (hM : Change.le { parts := [.meet, .cnt, .path], regs := [.macModeStat, .qmPortStat, .qmStat] } M = true := by first | assumption | exact Change.le_trans (by assumption) (by decide +kernel)) :
    KeepsOut M S0 (execHoldDeadline p s) := by
  unfold execHoldDeadline
  repeat' (first | with_reducible assumption | intro _ | with_reducible refine keeps_inPath ?_ | with_reducible refine keeps_flush ?_ | with_reducible refine keeps_setPortState ?_ | with_reducible refine keeps_next ?_ | with_reducible refine keeps_ite_out ?_ ?_ | split)

theorem keeps_abortTx {p : Nat} {s : State} (hS : Keeps M S0 s)
    (hM : Change.le { parts := [.meet, .cnt, .path, .out], regs := [.mirStat] } M = true := by first | assumption | exact Change.le_trans (by assumption) (by decide +kernel)) :
    Keeps M S0 (State.abortTx s p) := by
  unfold State.abortTx
  dsimp only
  repeat' (first | with_reducible assumption | intro _ | with_reducible refine keeps_count ?_ | with_reducible refine keeps_drop ?_ | with_reducible refine keeps_emit ?_ | with_reducible refine keeps_setSched ?_ | with_reducible refine keeps_setTx ?_ | with_reducible refine keeps_endMirrors ?_ | with_reducible refine keeps_forgetCopy ?_ | with_reducible refine keeps_ite ?_ ?_ | split)

theorem keeps_lateDrop {fid : Nat} {port : Nat} {code : Nat} {s : State} (hS : Keeps M S0 s)
    (hM : Change.le { parts := [.cnt, .path] } M = true := by first | assumption | exact Change.le_trans (by assumption) (by decide +kernel)) :
    Keeps M S0 (State.lateDrop s fid port code) := by
  unfold State.lateDrop
  dsimp only
  repeat' (first | with_reducible assumption | intro _ | with_reducible refine keeps_drop ?_ | with_reducible refine keeps_purge ?_ | with_reducible refine keeps_loseCopy ?_ | with_reducible refine keeps_withdraw ?_ | with_reducible refine keeps_ite ?_ ?_)

theorem keeps_endBad {f : Frame} {reason : Nat} {s : State} (hS : Keeps M S0 s)
    (hM : Change.le { parts := [.cnt, .path] } M = true := by first | assumption | exact Change.le_trans (by assumption) (by decide +kernel)) :
    Keeps M S0 (State.endBad s f reason) := by
  unfold State.endBad
  dsimp only
  repeat' (first | with_reducible assumption | intro _ | with_reducible refine keeps_drop ?_ | with_reducible refine keeps_onFrame ?_ | with_reducible refine keeps_lateDrop ?_ | with_reducible refine keeps_ite ?_ ?_ | with_reducible refine keeps_foldl ?_ ?_ | split)

theorem keeps_truncate {p : Nat} {s : State} (hS : Keeps M S0 s)
    (hM : Change.le { parts := [.cnt, .path] } M = true := by first | assumption | exact Change.le_trans (by assumption) (by decide +kernel)) :
    Keeps M S0 (State.truncate s p) := by
  unfold State.truncate
  dsimp only
  repeat' (first | with_reducible assumption | intro _ | with_reducible refine keeps_count ?_ | with_reducible refine keeps_drop ?_ | with_reducible refine keeps_onFrame ?_ | with_reducible refine keeps_endBad ?_ | with_reducible refine keeps_foldl ?_ ?_ | split)

theorem keeps_freeze {p : Nat} {s : State} (hS : Keeps M S0 s)
    (hM : Change.le { parts := [.meet, .cnt, .path], regs := [.fcStat, .macModeStat, .qmPortStat, .qmStat] } M = true := by first | assumption | exact Change.le_trans (by assumption) (by decide +kernel)) :
    Keeps M S0 (State.freeze s p) := by
  unfold State.freeze
  dsimp only
  repeat' (first | with_reducible assumption | intro _ | with_reducible refine keeps_setFld ?_ | with_reducible refine keeps_inPath ?_ | with_reducible refine keeps_setFlow ?_ | with_reducible refine keeps_withdraw ?_ | with_reducible refine keeps_showPaused ?_ | with_reducible refine keeps_flush ?_ | with_reducible refine keeps_setPortState ?_ | with_reducible refine keeps_ite ?_ ?_)

theorem keeps_linkLoss {p : Nat} {s : State} (hS : Keeps M S0 s)
    (hM : Change.le { parts := [.meet, .cnt, .path, .out], regs := [.fcStat, .macLink, .macModeStat, .macStat, .mirStat, .qmPortStat, .qmStat] } M = true := by first | assumption | exact Change.le_trans (by assumption) (by decide +kernel)) :
    Keeps M S0 (State.linkLoss s p) := by
  unfold State.linkLoss
  dsimp only
  repeat' (first | with_reducible assumption | intro _ | with_reducible refine keeps_setFld ?_ | with_reducible refine keeps_raise ?_ | with_reducible refine keeps_count ?_ | with_reducible refine keeps_settle ?_ | with_reducible refine keeps_abortTx ?_ | with_reducible refine keeps_truncate ?_ | with_reducible refine keeps_freeze ?_ | with_reducible refine keeps_ite ?_ ?_)

theorem keeps_noteLink {p : Nat} {first : Nat} {s : State} (hS : Keeps M S0 s)
    (hM : Change.le { parts := [.path] } M = true := by first | assumption | exact Change.le_trans (by assumption) (by decide +kernel)) :
    Keeps M S0 (State.noteLink s p first) := by
  unfold State.noteLink
  repeat' (first | with_reducible assumption | with_reducible refine keeps_inPath ?_)

theorem keeps_linkChanged {p : Nat} {s : State} (hS : Keeps M S0 s)
    (hM : Change.le { parts := [.meet, .cnt, .path, .out], regs := [.fcStat, .macLink, .macModeStat, .macStat, .mirStat, .qmPortStat, .qmStat] } M = true := by first | assumption | exact Change.le_trans (by assumption) (by decide +kernel)) :
    Keeps M S0 (State.linkChanged s p) := by
  unfold State.linkChanged
  dsimp only
  repeat' (first | with_reducible assumption | intro _ | with_reducible refine keeps_linkLoss ?_ | with_reducible refine keeps_noteLink ?_ | with_reducible refine keeps_ite ?_ ?_)

theorem keeps_execLinkLoss {p : Nat} {aligned : Bool} {lf : Bool} {rf : Bool} {hiBer : Bool} {s : State} (hS : Keeps M S0 s)
    (hM : Change.le { parts := [.meet, .cnt, .path, .out], regs := [.fcStat, .macLink, .macModeStat, .macStat, .mirStat, .qmPortStat, .qmStat] } M = true := by first | assumption | exact Change.le_trans (by assumption) (by decide +kernel)) :
    KeepsOut M S0 (execLinkLoss p aligned lf rf hiBer s) := by
  unfold execLinkLoss
  dsimp only
  repeat' (first | with_reducible assumption | intro _ | with_reducible refine keeps_setFld ?_ | with_reducible refine keeps_linkChanged ?_ | with_reducible refine keeps_next ?_ | with_reducible refine keeps_ite_out ?_ ?_)

theorem keeps_linkComesUp {p : Nat} {s : State} (hS : Keeps M S0 s)
    (hM : Change.le { parts := [.meet, .cnt, .path], regs := [.macLink, .macModeStat, .macStat, .qmPortStat, .qmStat] } M = true := by first | assumption | exact Change.le_trans (by assumption) (by decide +kernel)) :
    Keeps M S0 (State.linkComesUp s p) := by
  unfold State.linkComesUp
  dsimp only
  repeat' (first | with_reducible assumption | intro _ | with_reducible refine keeps_setFld ?_ | with_reducible refine keeps_raise ?_ | with_reducible refine keeps_inPath ?_ | with_reducible refine keeps_setFlow ?_ | with_reducible refine keeps_flush ?_ | with_reducible refine keeps_setPortState ?_ | with_reducible refine keeps_ite ?_ ?_ | split)

theorem keeps_execLinkUp {p : Nat} {s : State} (hS : Keeps M S0 s)
    (hM : Change.le { parts := [.meet, .cnt, .path], regs := [.macLink, .macModeStat, .macStat, .qmPortStat, .qmStat] } M = true := by first | assumption | exact Change.le_trans (by assumption) (by decide +kernel)) :
    KeepsOut M S0 (execLinkUp p s) := by
  unfold execLinkUp
  repeat' (first | with_reducible assumption | intro _ | with_reducible refine keeps_linkComesUp ?_ | with_reducible refine keeps_next ?_ | with_reducible refine keeps_ite_out ?_ ?_ | split)

theorem keeps_enterStandby {p : Nat} {s : State} (hS : Keeps M S0 s)
    (hM : Change.le { parts := [.meet, .cnt, .path], regs := [.fcStat, .macLink, .macModeStat, .macStat, .pcsState, .qmPortStat, .qmStat] } M = true := by first | assumption | exact Change.le_trans (by assumption) (by decide +kernel)) :
    Keeps M S0 (State.enterStandby s p) := by
  unfold State.enterStandby
  dsimp only
  repeat' (first | with_reducible assumption | intro _ | with_reducible refine keeps_setFld ?_ | with_reducible refine keeps_raise ?_ | with_reducible refine keeps_count ?_ | with_reducible refine keeps_inPath ?_ | with_reducible refine keeps_setLine ?_ | with_reducible refine keeps_freeze ?_ | with_reducible refine keeps_ite ?_ ?_)

theorem keeps_standbyCheck {p : Nat} {s : State} (hS : Keeps M S0 s)
    (hM : Change.le { parts := [.meet, .cnt, .path], regs := [.fcStat, .macLink, .macModeStat, .macStat, .pcsState, .qmPortStat, .qmStat] } M = true := by first | assumption | exact Change.le_trans (by assumption) (by decide +kernel)) :
    Keeps M S0 (State.standbyCheck s p) := by
  unfold State.standbyCheck
  repeat' (first | with_reducible assumption | intro _ | with_reducible refine keeps_enterStandby ?_ | with_reducible refine keeps_ite ?_ ?_)

theorem keeps_wake {p : Nat} {s : State} (hS : Keeps M S0 s)
    (hM : Change.le { parts := [.path], regs := [.macModeStat, .pcsState] } M = true := by first | assumption | exact Change.le_trans (by assumption) (by decide +kernel)) :
    Keeps M S0 (State.wake s p) := by
  unfold State.wake
  dsimp only
  repeat' (first | with_reducible assumption | intro _ | with_reducible refine keeps_setFld ?_ | with_reducible refine keeps_inPath ?_ | with_reducible refine keeps_setLine ?_ | with_reducible refine keeps_ite ?_ ?_)

theorem keeps_execWakeLinkUp {p : Nat} {s : State} (hS : Keeps M S0 s)
    (hM : Change.le { parts := [.meet, .cnt, .path], regs := [.macLink, .macModeStat, .macStat, .pcsState, .qmPortStat, .qmStat] } M = true := by first | assumption | exact Change.le_trans (by assumption) (by decide +kernel)) :
    KeepsOut M S0 (execWakeLinkUp p s) := by
  unfold execWakeLinkUp
  dsimp only
  repeat' (first | with_reducible assumption | intro _ | with_reducible refine keeps_setFld ?_ | with_reducible refine keeps_inPath ?_ | with_reducible refine keeps_linkComesUp ?_ | with_reducible refine keeps_next ?_ | with_reducible refine keeps_ite ?_ ?_ | with_reducible refine keeps_ite_out ?_ ?_ | split)

theorem keeps_detect {p : Nat} {bs : List Byte} {good : Bool} {s : State} (hS : Keeps M S0 s)
    (hM : Change.le { parts := [.meet, .cnt, .path], regs := [.glbStat, .glbUpdInfo, .macMode, .macModeStat, .macWakeCtl, .pcsState] } M = true := by first | assumption | exact Change.le_trans (by assumption) (by decide +kernel)) :
    Keeps M S0 (State.detect s p bs good) := by
  unfold State.detect
  dsimp only
  repeat' (first | with_reducible assumption | intro _ | with_reducible refine keeps_setFld ?_ | with_reducible refine keeps_raise ?_ | with_reducible refine keeps_count ?_ | with_reducible refine keeps_drop ?_ | with_reducible refine keeps_hwFld ?_ | with_reducible refine keeps_wake ?_ | with_reducible refine keeps_ite ?_ ?_ | split)

theorem keeps_losslessOff {p : Nat} {s : State} (hS : Keeps M S0 s)
    (hM : Change.le { parts := [.path], regs := [.fcStat] } M = true := by first | assumption | exact Change.le_trans (by assumption) (by decide +kernel)) :
    Keeps M S0 (State.losslessOff s p) := by
  unfold State.losslessOff
  dsimp only
  repeat' (first | with_reducible assumption | with_reducible refine keeps_setFlow ?_ | with_reducible refine keeps_showPaused ?_)

theorem keeps_writeMode {p : Nat} {v : Nat} {s : State} (hS : Keeps M S0 s)
    (hM : Change.le { parts := [.meet, .cnt, .path], regs := [.fcStat, .gclOperPos, .macLink, .macMode, .macModeStat, .macStat, .pcsState, .qmPortStat, .qmStat] } M = true := by first | assumption | exact Change.le_trans (by assumption) (by decide +kernel)) :
    Keeps M S0 (State.writeMode s p v) := by
  unfold State.writeMode
  dsimp only
  repeat' (first | with_reducible assumption | intro _ | with_reducible refine keeps_setReg ?_ | with_reducible refine keeps_xoffCheck ?_ | with_reducible refine keeps_openGates ?_ | with_reducible refine keeps_setLine ?_ | with_reducible refine keeps_withdraw ?_ | with_reducible refine keeps_standbyCheck ?_ | with_reducible refine keeps_wake ?_ | with_reducible refine keeps_losslessOff ?_ | with_reducible refine keeps_ite ?_ ?_ | with_reducible refine keeps_foldl ?_ ?_)

theorem keeps_writeDeep {p : Nat} {v : Nat} {s : State} (hS : Keeps M S0 s)
    (hM : Change.le { regs := [.qmQmode] } M = true := by first | assumption | exact Change.le_trans (by assumption) (by decide +kernel)) :
    Keeps M S0 (State.writeDeep s p v) := by
  unfold State.writeDeep
  dsimp only
  repeat' (first | with_reducible assumption | with_reducible refine keeps_setFld ?_)

end Sys2Proof.Machine
end

