-- ==== Sys2Proof/Laws/KeepsMac.lean ====
section
/-!
SUPPORT. Each operation and meaning of Machine/Mac.lean keeps what no command may lose and changes nothing but what it names.
-/
set_option Elab.async false
namespace Sys2Proof.Machine
open Sys2Proof
variable {M : Change} {S0 : State}

theorem keeps_execTransmitEnd {p : Nat} {s : State} (hS : Keeps M S0 s)
    (hM : Change.le { parts := [.meet, .cnt, .path, .host, .out], regs := [.fcStat, .macLink, .macModeStat, .macStat, .mirStat, .pcsState, .qmPortStat, .qmStat, .schStat, .tsRingEnt, .tsRingProd, .tsRingStat] } M = true := by first | assumption | exact Change.le_trans (by assumption) (by decide +kernel)) :
    KeepsOut M S0 (execTransmitEnd p s) := by
  unfold execTransmitEnd
  dsimp only
  repeat' (first | with_reducible assumption | intro _ | with_reducible refine keeps_count ?_ | with_reducible refine keeps_emit ?_ | with_reducible refine keeps_settle ?_ | with_reducible refine keeps_txGood ?_ | with_reducible refine keeps_setTx ?_ | with_reducible refine keeps_endTx ?_ | with_reducible refine keeps_standbyCheck ?_ | with_reducible refine keeps_next ?_ | with_reducible refine keeps_ite_out ?_ ?_ | split)

theorem keeps_countRow {p : Nat} {reason : Nat} {bs : List Byte} {s : State} (hS : Keeps M S0 s)
    (hM : Change.le { parts := [.meet, .cnt], regs := [.macStat] } M = true := by first | assumption | exact Change.le_trans (by assumption) (by decide +kernel)) :
    Keeps M S0 (State.countRow s p reason bs) := by
  unfold State.countRow
  dsimp only
  repeat' (first | with_reducible assumption | intro _ | with_reducible refine keeps_raise ?_ | with_reducible refine keeps_count ?_ | with_reducible refine keeps_rxGood ?_ | with_reducible refine keeps_ite ?_ ?_ | split)

theorem keeps_spoilLine {fid : Nat} {port : Nat} {s : State} (hS : Keeps M S0 s)
    (hM : Change.le { parts := [.path] } M = true := by first | assumption | exact Change.le_trans (by assumption) (by decide +kernel)) :
    Keeps M S0 (State.spoilLine s fid port) := by
  unfold State.spoilLine
  repeat' (first | with_reducible assumption | intro _ | with_reducible refine keeps_setTx ?_ | with_reducible refine keeps_ite ?_ ?_ | split)

theorem keeps_reviseStaged {f : Frame} {c : Staged} {s : State} (hS : Keeps M S0 s)
    (hM : Change.le { parts := [.cnt, .path] } M = true := by first | assumption | exact Change.le_trans (by assumption) (by decide +kernel)) :
    Keeps M S0 (State.reviseStaged s f c) := by
  unfold State.reviseStaged
  dsimp only
  repeat' (first | with_reducible assumption | intro _ | with_reducible refine keeps_inPath ?_ | with_reducible refine keeps_xoffCheck ?_ | with_reducible refine keeps_lateDrop ?_ | with_reducible refine keeps_spoilLine ?_ | with_reducible refine keeps_ite ?_ ?_ | with_reducible refine keeps_foldl ?_ ?_)

theorem keeps_reviseTx {f : Frame} {k : Nat} {t : Tx} {s : State} (hS : Keeps M S0 s)
    (hM : Change.le { parts := [.path] } M = true := by first | assumption | exact Change.le_trans (by assumption) (by decide +kernel)) :
    Keeps M S0 (State.reviseTx s f k t) := by
  unfold State.reviseTx
  dsimp only
  repeat' (first | with_reducible assumption | with_reducible refine keeps_setSched ?_ | with_reducible refine keeps_setTx ?_ | with_reducible refine keeps_chargeShapers ?_ | split)

theorem keeps_revise {f : Frame} {s : State} (hS : Keeps M S0 s)
    (hM : Change.le { parts := [.cnt, .path] } M = true := by first | assumption | exact Change.le_trans (by assumption) (by decide +kernel)) :
    Keeps M S0 (State.revise s f) := by
  unfold State.revise
  dsimp only
  repeat' (first | with_reducible assumption | intro _ | with_reducible refine keeps_count ?_ | with_reducible refine keeps_reviseStaged ?_ | with_reducible refine keeps_reviseTx ?_ | with_reducible refine keeps_ite ?_ ?_ | with_reducible refine keeps_foldl ?_ ?_)

theorem keeps_endGood {f : Frame} {s : State} (hS : Keeps M S0 s)
    (hM : Change.le { parts := [.cnt, .path] } M = true := by first | assumption | exact Change.le_trans (by assumption) (by decide +kernel)) :
    Keeps M S0 (State.endGood s f) := by
  unfold State.endGood
  dsimp only
  repeat' (first | with_reducible assumption | intro _ | with_reducible refine keeps_onFrame ?_ | with_reducible refine keeps_revise ?_ | with_reducible refine keeps_foldl ?_ ?_)

theorem keeps_execFrameEnd {p : Nat} {pcsErr : Bool} {s : State} (hS : Keeps M S0 s)
    (hM : Change.le { parts := [.meet, .cnt, .path], regs := [.fcEvt, .glbStat, .glbUpdInfo, .macMode, .macModeStat, .macStat, .macWakeCtl, .pcsState] } M = true := by first | assumption | exact Change.le_trans (by assumption) (by decide +kernel)) :
    KeepsOut M S0 (execFrameEnd p pcsErr s) := by
  unfold execFrameEnd
  dsimp only
  repeat' (first | with_reducible assumption | intro _ | with_reducible refine keeps_drop ?_ | with_reducible refine keeps_onFrame ?_ | with_reducible refine keeps_settle ?_ | with_reducible refine keeps_control ?_ | with_reducible refine keeps_endBad ?_ | with_reducible refine keeps_detect ?_ | with_reducible refine keeps_countRow ?_ | with_reducible refine keeps_revise ?_ | with_reducible refine keeps_endGood ?_ | with_reducible refine keeps_next ?_ | with_reducible refine keeps_ite ?_ ?_ | with_reducible refine keeps_ite_out ?_ ?_ | split)

end Sys2Proof.Machine
end

