-- ==== Sys2Proof/Laws/KeepsHeadroom.lean ====
section
/-!
SUPPORT. Each operation and meaning of Machine/Headroom.lean keeps what no command may lose and changes nothing but what it names.
-/
set_option Elab.async false
namespace Sys2Proof.Machine
open Sys2Proof
variable {M : Change} {S0 : State}

theorem keeps_setReserve {p : Nat} {c : Nat} {h : Nat × Nat} {s : State} (hS : Keeps M S0 s)
    (hM : Change.le { parts := [.path], regs := [.dtQcfgRsv, .qmQmode] } M = true := by first | assumption | exact Change.le_trans (by assumption) (by decide +kernel)) :
    Keeps M S0 (State.setReserve s p c h) := by
  unfold State.setReserve
  dsimp only
  repeat' (first | with_reducible assumption | intro _ | with_reducible refine keeps_setFld ?_ | with_reducible refine keeps_inPath ?_ | with_reducible refine keeps_writeDeep ?_ | with_reducible refine keeps_ite ?_ ?_)

theorem keeps_recompute {sl : Nat} {s : State} (hS : Keeps M S0 s)
    (hM : Change.le { parts := [.path], regs := [.dtQcfgRsv, .qmQmode] } M = true := by first | assumption | exact Change.le_trans (by assumption) (by decide +kernel)) :
    Keeps M S0 (State.recompute s sl) := by
  unfold State.recompute
  dsimp only
  repeat' (first | with_reducible assumption | intro _ | with_reducible refine keeps_inPath ?_ | with_reducible refine keeps_setReserve ?_ | with_reducible refine keeps_foldl ?_ ?_ | split)

end Sys2Proof.Machine
end

