-- ==== Sys2Proof/Laws/KeepsHost.lean ====
section
/-!
SUPPORT. Each operation and meaning of Machine/Host.lean keeps what no command may lose and changes nothing but what it names.
-/
set_option Elab.async false
namespace Sys2Proof.Machine
open Sys2Proof
variable {M : Change} {S0 : State}

theorem keeps_setRing {tx : Bool} {r : Nat} {x : RingSt} {s : State} (hS : Keeps M S0 s)
    (hM : Change.le { parts := [.host] } M = true := by first | assumption | exact Change.le_trans (by assumption) (by decide +kernel)) :
    Keeps M S0 (State.setRing s tx r x) := by
  unfold State.setRing
  dsimp only
  repeat' (first | with_reducible assumption | (simp only [keeps_mk]; with_reducible refine keeps_upd ?_))

theorem keeps_writeTail {tx : Bool} {r : Nat} {v : Nat} {s : State} (hS : Keeps M S0 s)
    (hM : Change.le { parts := [.meet, .host], regs := [.dmaStat] } M = true := by first | assumption | exact Change.le_trans (by assumption) (by decide +kernel)) :
    Keeps M S0 (State.writeTail s tx r v) := by
  unfold State.writeTail
  dsimp only
  repeat' (first | with_reducible assumption | intro _ | with_reducible refine keeps_raise ?_ | with_reducible refine keeps_setRing ?_ | with_reducible refine keeps_ite ?_ ?_)

theorem keeps_execDmaTailWrite {who : Sender} {tx : Bool} {r : Nat} {v : Word} {s : State} (hS : Keeps M S0 s)
    (hM : Change.le { parts := [.meet, .cnt, .host], regs := [.dmaStat, .protStat, .protViolAddr, .protViolInfo] } M = true := by first | assumption | exact Change.le_trans (by assumption) (by decide +kernel)) :
    KeepsOut M S0 (execDmaTailWrite who tx r v s) := by
  unfold execDmaTailWrite
  repeat' (first | with_reducible assumption | intro _ | with_reducible refine keeps_access ?_ ?_ | with_reducible refine keeps_writeTail ?_ | with_reducible refine keeps_next ?_ | with_reducible refine keeps_ite_out ?_ ?_)

theorem keeps_answerStops {s : State} (hS : Keeps M S0 s)
    (hM : Change.le { parts := [.pkts, .log, .tab] } M = true := by first | assumption | exact Change.le_trans (by assumption) (by decide +kernel)) :
    Keeps M S0 (State.answerStops s) := by
  unfold State.answerStops
  dsimp only
  repeat' (first | with_reducible assumption | intro _ | with_reducible refine keeps_stepJob ?_ | with_reducible refine keeps_foldl ?_ ?_)

theorem keeps_ringOff {tx : Bool} {r : Nat} {s : State} (hS : Keeps M S0 s)
    (hM : Change.le { parts := [.host], regs := [.dmaRxCfg, .dmaTxCfg] } M = true := by first | assumption | exact Change.le_trans (by assumption) (by decide +kernel)) :
    Keeps M S0 (State.ringOff s tx r) := by
  have hc : M.may (ringCfg tx) = true := Change.may_ite hM (by decide +kernel) (by decide +kernel)
  unfold State.ringOff
  dsimp only
  repeat' (first | with_reducible assumption | intro _ | with_reducible refine keeps_setReg ?_ | with_reducible refine keeps_ite ?_ ?_ | (simp only [keeps_mk]; with_reducible refine keeps_upd ?_))

theorem keeps_ringFault {tx : Bool} {r : Nat} {kind : Nat} {s : State} (hS : Keeps M S0 s)
    (hM : Change.le { parts := [.meet, .pkts, .log, .tab, .host], regs := [.dmaErrInfo, .dmaRxCfg, .dmaStat, .dmaTxCfg] } M = true := by first | assumption | exact Change.le_trans (by assumption) (by decide +kernel)) :
    Keeps M S0 (State.ringFault s tx r kind) := by
  unfold State.ringFault
  dsimp only
  repeat' (first | with_reducible assumption | with_reducible refine keeps_setReg ?_ | with_reducible refine keeps_raise ?_ | with_reducible refine keeps_answerStops ?_ | with_reducible refine keeps_ringOff ?_)

theorem keeps_dmaViolation {addr : Nat} {write : Bool} {s : State} (hS : Keeps M S0 s)
    (hM : Change.le { parts := [.meet, .cnt, .free], regs := [.protStat, .protViolAddr, .protViolInfo] } M = true := by first | assumption | exact Change.le_trans (by assumption) (by decide +kernel)) :
    Keeps M S0 (State.dmaViolation s addr write) := by
  unfold State.dmaViolation
  repeat' (first | with_reducible assumption | with_reducible refine keeps_draw ?_ | with_reducible refine keeps_violation ?_)

theorem keeps_execPcieReset {s : State} (hS : Keeps M S0 s)
    (hM : Change.le { parts := [.pkts, .log, .tab, .host, .tree], regs := [.dmaRxCfg, .dmaTxCfg, .mbInCtl, .mbInInc] } M = true := by first | assumption | exact Change.le_trans (by assumption) (by decide +kernel)) :
    KeepsOut M S0 (execPcieReset s) := by
  unfold execPcieReset
  dsimp only
  repeat' (first | with_reducible assumption | intro _ | with_reducible refine keeps_newInc ?_ | with_reducible refine keeps_answerStops ?_ | with_reducible refine keeps_ringOff ?_ | with_reducible refine keeps_next ?_ | with_reducible refine keeps_ite_out ?_ ?_ | with_reducible refine keeps_foldl ?_ ?_ | (simp only [keeps_mk]; with_reducible refine keeps_upd ?_))

theorem keeps_ringSignal {tx : Bool} {r : Nat} {s : State} (hS : Keeps M S0 s)
    (hM : Change.le { parts := [.meet, .host], regs := [.dmaRxStat, .dmaTxStat] } M = true := by first | assumption | exact Change.le_trans (by assumption) (by decide +kernel)) :
    Keeps M S0 (State.ringSignal s tx r) := by
  unfold State.ringSignal
  dsimp only
  repeat' (first | with_reducible assumption | with_reducible refine keeps_raiseBits ?_ | with_reducible refine keeps_setRing ?_)

theorem keeps_ringDone {tx : Bool} {r : Nat} {s : State} (hS : Keeps M S0 s)
    (hM : Change.le { parts := [.meet, .host], regs := [.dmaRxStat, .dmaTxStat] } M = true := by first | assumption | exact Change.le_trans (by assumption) (by decide +kernel)) :
    Keeps M S0 (State.ringDone s tx r) := by
  unfold State.ringDone
  dsimp only
  repeat' (first | with_reducible assumption | intro _ | with_reducible refine keeps_setRing ?_ | with_reducible refine keeps_ringSignal ?_ | with_reducible refine keeps_ite ?_ ?_)

theorem keeps_execDmaCoalesceTimer {tx : Bool} {r : Nat} {s : State} (hS : Keeps M S0 s)
    (hM : Change.le { parts := [.meet, .host], regs := [.dmaRxStat, .dmaTxStat] } M = true := by first | assumption | exact Change.le_trans (by assumption) (by decide +kernel)) :
    KeepsOut M S0 (execDmaCoalesceTimer tx r s) := by
  unfold execDmaCoalesceTimer
  dsimp only
  repeat' (first | with_reducible assumption | intro _ | with_reducible refine keeps_ringSignal ?_ | with_reducible refine keeps_next ?_ | with_reducible refine keeps_ite_out ?_ ?_)

theorem keeps_execDmaRxFrameWrite {r : Nat} {bufs : List Nat} {fault : Bool} {s : State} (hS : Keeps M S0 s)
    (hM : Change.le { parts := [.meet, .cnt, .pkts, .log, .tab, .host, .out, .free], regs := [.dmaErrInfo, .dmaRxCfg, .dmaRxStat, .dmaStat, .dmaTxCfg, .dmaTxStat, .protStat, .protViolAddr, .protViolInfo] } M = true := by first | assumption | exact Change.le_trans (by assumption) (by decide +kernel)) :
    KeepsOut M S0 (execDmaRxFrameWrite r bufs fault s) := by
  unfold execDmaRxFrameWrite
  dsimp only
  repeat' (first | with_reducible assumption | intro _ | with_reducible refine keeps_count ?_ | with_reducible refine keeps_emit ?_ | with_reducible refine keeps_answerStops ?_ | with_reducible refine keeps_ringFault ?_ | with_reducible refine keeps_dmaViolation ?_ | with_reducible refine keeps_ringDone ?_ | with_reducible refine keeps_next ?_ | with_reducible refine keeps_ite_out ?_ ?_ | with_reducible refine keeps_foldl ?_ ?_ | (simp only [keeps_mk]; with_reducible refine keeps_upd ?_) | split)

theorem keeps_txWriteBack {r : Nat} {idx : Nat} {ds : List TxDesc} {status : Nat} {s : State} (hS : Keeps M S0 s)
    (hM : Change.le { parts := [.meet, .cnt, .host, .out], regs := [.dmaRxStat, .dmaTxHead, .dmaTxStat] } M = true := by first | assumption | exact Change.le_trans (by assumption) (by decide +kernel)) :
    Keeps M S0 (State.txWriteBack s r idx ds status) := by
  unfold State.txWriteBack
  dsimp only
  repeat' (first | with_reducible assumption | intro _ | with_reducible refine keeps_setReg ?_ | with_reducible refine keeps_count ?_ | with_reducible refine keeps_emit ?_ | with_reducible refine keeps_ringDone ?_ | with_reducible refine keeps_ite ?_ ?_ | with_reducible refine keeps_foldl ?_ ?_)

theorem keeps_txRelease {ds : List TxDesc} {s : State} (hS : Keeps M S0 s)
    (hM : Change.le { parts := [.cnt, .path, .host] } M = true := by first | assumption | exact Change.le_trans (by assumption) (by decide +kernel)) :
    Keeps M S0 (State.txRelease s ds) := by
  unfold State.txRelease
  dsimp only
  repeat' (first | with_reducible assumption | intro _ | with_reducible refine keeps_enterWhole ?_ | with_reducible refine keeps_refuseHeader ?_ | with_reducible refine keeps_ite ?_ ?_ | (simp only [keeps_mk]; with_reducible refine keeps_upd ?_) | split)

theorem keeps_execDmaTxFrameFetch {r : Nat} {d : List TxDesc} {f : Bool} {s : State} (h : Keeps M S0 s)
    (hM : Change.le { parts := [.meet, .cnt, .pkts, .log, .tab, .path, .host, .out, .free], regs := [.dmaErrInfo, .dmaRxCfg, .dmaRxStat, .dmaStat, .dmaTxCfg, .dmaTxHead, .dmaTxStat, .protStat, .protViolAddr, .protViolInfo] } M = true := by first | assumption | exact Change.le_trans (by assumption) (by decide +kernel)) :
    KeepsOut M S0 (execDmaTxFrameFetch r d f s) := by
  unfold execDmaTxFrameFetch
  extract_lets held idx
  refine keeps_ite_out (fun _ => keeps_next h) fun _ => ?_
  split
  · exact keeps_next h
  · extract_lets ds at_ len
    split
    · exact keeps_next (keeps_ringFault (keeps_dmaViolation h))
    · refine keeps_ite_out (fun _ => keeps_next (keeps_txWriteBack h)) fun _ => keeps_ite_out (fun _ => keeps_next (keeps_txWriteBack h)) fun _ => ?_
      split
      · exact keeps_next (keeps_ringFault (keeps_dmaViolation (keeps_txWriteBack h)))
      · exact keeps_ite_out (fun _ => keeps_next (keeps_ringFault (keeps_txWriteBack h))) fun _ => keeps_next (keeps_txWriteBack (keeps_txRelease h))

theorem keeps_writeRing {tx : Bool} {r : Nat} {a : Args} {s : State} (hS : Keeps M S0 s)
    (hM : Change.le { parts := [.host], regs := [.dmaRxBaseHi, .dmaRxBaseLo, .dmaRxBuf, .dmaRxCfg, .dmaRxHead, .dmaRxTail, .dmaRxqMap, .dmaTxBaseHi, .dmaTxBaseLo, .dmaTxCfg, .dmaTxHead, .dmaTxTail] } M = true := by first | assumption | exact Change.le_trans (by assumption) (by decide +kernel)) :
    Keeps M S0 (State.writeRing s tx r a) := by
  have hc : M.may (ringCfg tx) = true := Change.may_ite hM (by decide +kernel) (by decide +kernel)
  have hh : M.may (ringHead tx) = true := Change.may_ite hM (by decide +kernel) (by decide +kernel)
  have ht : M.may (ringTail tx) = true := Change.may_ite hM (by decide +kernel) (by decide +kernel)
  unfold State.writeRing
  dsimp only
  repeat' (first | with_reducible assumption | intro _ | with_reducible refine keeps_setReg ?_ | with_reducible refine keeps_setRing ?_ | with_reducible refine keeps_ite ?_ ?_ | with_reducible refine keeps_foldl ?_ ?_)

theorem keeps_execDmaRingSet {p : Packet} {s : State} (hS : Keeps M S0 s)
    (hM : Change.le { parts := [.pkts, .log, .tab, .host], regs := [.dmaRxBaseHi, .dmaRxBaseLo, .dmaRxBuf, .dmaRxCfg, .dmaRxHead, .dmaRxTail, .dmaRxqMap, .dmaTxBaseHi, .dmaTxBaseLo, .dmaTxCfg, .dmaTxHead, .dmaTxTail] } M = true := by first | assumption | exact Change.le_trans (by assumption) (by decide +kernel)) :
    KeepsOut M S0 (execDmaRingSet p s) := by
  unfold execDmaRingSet
  dsimp only
  repeat' (first | with_reducible assumption | intro _ | with_reducible refine keeps_Res_ok ?_ | with_reducible refine keeps_guarded ?_ ?_ | with_reducible refine keeps_Res_job ?_ | with_reducible refine keeps_runPacket ?_ ?_ | with_reducible refine keeps_writeRing ?_ | with_reducible refine keeps_ite_res ?_ ?_)

theorem keeps_execDmaRingGet {p : Packet} {s : State} (hS : Keeps M S0 s)
    (hM : Change.le { parts := [.pkts, .log] } M = true := by first | assumption | exact Change.le_trans (by assumption) (by decide +kernel)) :
    KeepsOut M S0 (execDmaRingGet p s) := by
  unfold execDmaRingGet
  dsimp only
  repeat' (first | with_reducible assumption | intro _ | with_reducible refine keeps_Res_ok ?_ | with_reducible refine keeps_guarded ?_ ?_ | with_reducible refine keeps_runPacket ?_ ?_)

end Sys2Proof.Machine
end

