-- ==== Sys2Proof/Laws/KeepsLanes.lean ====
section
/-!
SUPPORT. Each operation and meaning of Machine/Lanes.lean keeps what no command may lose and changes nothing but what it names.
-/
set_option Elab.async false
namespace Sys2Proof.Machine
open Sys2Proof
variable {M : Change} {S0 : State}

theorem keeps_setLane {l : Nat} {x : LaneSt} {s : State} (hS : Keeps M S0 s)
    (hM : Change.le { parts := [.lanes] } M = true := by first | assumption | exact Change.le_trans (by assumption) (by decide +kernel)) :
    Keeps M S0 (State.setLane s l x) := by
  unfold State.setLane
  dsimp only
  repeat' (first | with_reducible assumption | (simp only [keeps_mk]; with_reducible refine keeps_upd ?_))

theorem keeps_realign {p : Nat} {s : State} (hS : Keeps M S0 s)
    (hM : Change.le { parts := [.meet, .cnt, .path, .out], regs := [.fcStat, .macLink, .macModeStat, .macStat, .mirStat, .pcsStat, .qmPortStat, .qmStat] } M = true := by first | assumption | exact Change.le_trans (by assumption) (by decide +kernel)) :
    Keeps M S0 (State.realign s p) := by
  unfold State.realign
  dsimp only
  repeat' (first | with_reducible assumption | intro _ | with_reducible refine keeps_setFld ?_ | with_reducible refine keeps_raise ?_ | with_reducible refine keeps_linkChanged ?_ | with_reducible refine keeps_ite ?_ ?_)

theorem keeps_execLaneLock {l : Nat} {half : Bool} {pcsl : Nat} {inverted : Bool} {skew : Nat} {s : State} (hS : Keeps M S0 s)
    (hM : Change.le { parts := [.meet, .cnt, .path, .out], regs := [.fcStat, .lnRxMap, .lnStat, .macLink, .macModeStat, .macStat, .mirStat, .pcsStat, .pcsState, .qmPortStat, .qmStat] } M = true := by first | assumption | exact Change.le_trans (by assumption) (by decide +kernel)) :
    KeepsOut M S0 (execLaneLock l half pcsl inverted skew s) := by
  unfold execLaneLock
  dsimp only
  repeat' (first | with_reducible assumption | intro _ | with_reducible refine keeps_setReg ?_ | with_reducible refine keeps_setFld ?_ | with_reducible refine keeps_realign ?_ | with_reducible refine keeps_next ?_ | with_reducible refine keeps_ite_out ?_ ?_ | split)

theorem keeps_loseLock {l : Nat} {p : Nat} {s : State} (hS : Keeps M S0 s)
    (hM : Change.le { parts := [.meet, .cnt, .path, .out], regs := [.fcStat, .lnRxMap, .lnStat, .macLink, .macModeStat, .macStat, .mirStat, .pcsStat, .qmPortStat, .qmStat] } M = true := by first | assumption | exact Change.le_trans (by assumption) (by decide +kernel)) :
    Keeps M S0 (State.loseLock s l p) := by
  unfold State.loseLock
  dsimp only
  repeat' (first | with_reducible assumption | with_reducible refine keeps_setFld ?_ | with_reducible refine keeps_raise ?_ | with_reducible refine keeps_realign ?_)

theorem keeps_execLaneLockLoss {l : Nat} {s : State} (hS : Keeps M S0 s)
    (hM : Change.le { parts := [.meet, .cnt, .path, .out], regs := [.fcStat, .lnRxMap, .lnStat, .macLink, .macModeStat, .macStat, .mirStat, .pcsStat, .qmPortStat, .qmStat] } M = true := by first | assumption | exact Change.le_trans (by assumption) (by decide +kernel)) :
    KeepsOut M S0 (execLaneLockLoss l s) := by
  unfold execLaneLockLoss
  repeat' (first | with_reducible assumption | intro _ | with_reducible refine keeps_loseLock ?_ | with_reducible refine keeps_next ?_ | with_reducible refine keeps_ite_out ?_ ?_ | split)

theorem keeps_setShadow {l : Nat} {ws : List Nat} {s : State} (hS : Keeps M S0 s)
    (hM : Change.le { regs := [.lnFfe, .lnRxcfg, .lnTxcfg, .lnTxeq] } M = true := by first | assumption | exact Change.le_trans (by assumption) (by decide +kernel)) :
    Keeps M S0 (State.setShadow s l ws) := by
  unfold State.setShadow
  repeat' (first | with_reducible assumption | intro _ | with_reducible refine keeps_setReg ?_)

theorem keeps_commitLane {l : Nat} {s : State} (hS : Keeps M S0 s)
    (hM : Change.le { parts := [.lanes], regs := [.lnCemCommit] } M = true := by first | assumption | exact Change.le_trans (by assumption) (by decide +kernel)) :
    Keeps M S0 (State.commitLane s l) := by
  unfold State.commitLane
  dsimp only
  repeat' (first | with_reducible assumption | with_reducible refine keeps_setFld ?_ | with_reducible refine keeps_setLane ?_)

theorem keeps_execCemondCommit {who : Sender} {l : Nat} {v : Word} {s : State} (hS : Keeps M S0 s)
    (hM : Change.le { parts := [.meet, .cnt, .lanes], regs := [.glbAccAddr, .glbAccInfo, .glbStat, .lnCemCommit, .protStat, .protViolAddr, .protViolInfo] } M = true := by first | assumption | exact Change.le_trans (by assumption) (by decide +kernel)) :
    KeepsOut M S0 (execCemondCommit who l v s) := by
  unfold execCemondCommit
  repeat' (first | with_reducible assumption | intro _ | with_reducible refine keeps_ccWrite ?_ ?_ | with_reducible refine keeps_commitLane ?_ | with_reducible refine keeps_next ?_ | with_reducible refine keeps_ite ?_ ?_ | with_reducible refine keeps_ite_out ?_ ?_)

theorem keeps_applyCommit {l : Nat} {tx : Bool} {rx : Bool} {s : State} (hS : Keeps M S0 s)
    (hM : Change.le { parts := [.meet, .lanes], regs := [.lnCemCommit, .lnCemId, .lnStat] } M = true := by first | assumption | exact Change.le_trans (by assumption) (by decide +kernel)) :
    Keeps M S0 (State.applyCommit s l tx rx) := by
  unfold State.applyCommit
  dsimp only
  repeat' (first | with_reducible assumption | intro _ | with_reducible refine keeps_setReg ?_ | with_reducible refine keeps_setFld ?_ | with_reducible refine keeps_raise ?_ | with_reducible refine keeps_setLane ?_ | with_reducible refine keeps_ite ?_ ?_)

theorem keeps_execCemondCommitApply {l : Nat} {s : State} (hS : Keeps M S0 s)
    (hM : Change.le { parts := [.meet, .lanes], regs := [.lnCemCommit, .lnCemId, .lnStat] } M = true := by first | assumption | exact Change.le_trans (by assumption) (by decide +kernel)) :
    KeepsOut M S0 (execCemondCommitApply l s) := by
  unfold execCemondCommitApply
  repeat' (first | with_reducible assumption | with_reducible refine keeps_applyCommit ?_ | with_reducible refine keeps_next ?_ | split)

theorem keeps_enableLanes {p : Nat} {s : State} (hS : Keeps M S0 s)
    (hM : Change.le { parts := [.path, .lanes], regs := [.lnCemCommit, .lnCemId, .lnFfe, .lnRate, .lnRxMap, .lnRxcfg, .lnStat, .lnTxcfg, .lnTxeq, .pcsState] } M = true := by first | assumption | exact Change.le_trans (by assumption) (by decide +kernel)) :
    Keeps M S0 (State.enableLanes s p) := by
  unfold State.enableLanes
  dsimp only
  repeat' (first | with_reducible assumption | intro _ | with_reducible refine keeps_setReg ?_ | with_reducible refine keeps_setFld ?_ | with_reducible refine keeps_setLine ?_ | with_reducible refine keeps_setLane ?_ | with_reducible refine keeps_setShadow ?_ | with_reducible refine keeps_foldl ?_ ?_)

theorem keeps_disableLanes {p : Nat} {s : State} (hS : Keeps M S0 s)
    (hM : Change.le { parts := [.path, .lanes], regs := [.lnRate, .lnRxMap, .lnStat, .macModeStat, .pcsState] } M = true := by first | assumption | exact Change.le_trans (by assumption) (by decide +kernel)) :
    Keeps M S0 (State.disableLanes s p) := by
  unfold State.disableLanes
  dsimp only
  repeat' (first | with_reducible assumption | intro _ | with_reducible refine keeps_setReg ?_ | with_reducible refine keeps_setFld ?_ | with_reducible refine keeps_setLine ?_ | with_reducible refine keeps_setLane ?_ | with_reducible refine keeps_foldl ?_ ?_)

theorem keeps_execIdleEntry {p : Nat} {s : State} (hS : Keeps M S0 s)
    (hM : Change.le { parts := [.cnt, .path], regs := [.macModeStat, .pcsState] } M = true := by first | assumption | exact Change.le_trans (by assumption) (by decide +kernel)) :
    KeepsOut M S0 (execIdleEntry p s) := by
  unfold execIdleEntry
  dsimp only
  repeat' (first | with_reducible assumption | intro _ | with_reducible refine keeps_setFld ?_ | with_reducible refine keeps_count ?_ | with_reducible refine keeps_setLine ?_ | with_reducible refine keeps_next ?_ | with_reducible refine keeps_ite_out ?_ ?_)

theorem keeps_execIdleExit {p : Nat} {s : State} (hS : Keeps M S0 s)
    (hM : Change.le { parts := [.path], regs := [.pcsState] } M = true := by first | assumption | exact Change.le_trans (by assumption) (by decide +kernel)) :
    KeepsOut M S0 (execIdleExit p s) := by
  unfold execIdleExit
  dsimp only
  repeat' (first | with_reducible assumption | intro _ | with_reducible refine keeps_setFld ?_ | with_reducible refine keeps_setLine ?_ | with_reducible refine keeps_next ?_ | with_reducible refine keeps_ite_out ?_ ?_ | split)

theorem keeps_execIdleResume {p : Nat} {s : State} (hS : Keeps M S0 s)
    (hM : Change.le { parts := [.meet, .path, .lanes], regs := [.lnCemCommit, .lnCemId, .lnStat, .macModeStat, .pcsState] } M = true := by first | assumption | exact Change.le_trans (by assumption) (by decide +kernel)) :
    KeepsOut M S0 (execIdleResume p s) := by
  unfold execIdleResume
  dsimp only
  repeat' (first | with_reducible assumption | intro _ | with_reducible refine keeps_setFld ?_ | with_reducible refine keeps_setLine ?_ | with_reducible refine keeps_applyCommit ?_ | with_reducible refine keeps_next ?_ | with_reducible refine keeps_ite_out ?_ ?_ | with_reducible refine keeps_foldl ?_ ?_)

theorem keeps_setRx {l : Nat} {p : Nat} {st : Nat} {s : State} (hS : Keeps M S0 s)
    (hM : Change.le { parts := [.lanes], regs := [.lnStat, .pcsState] } M = true := by first | assumption | exact Change.le_trans (by assumption) (by decide +kernel)) :
    Keeps M S0 (State.setRx s l p st) := by
  unfold State.setRx
  dsimp only
  repeat' (first | with_reducible assumption | with_reducible refine keeps_setFld ?_ | with_reducible refine keeps_setLane ?_)

theorem keeps_inRx {l st : Nat} {k : State → Nat → State} {s : State} (h : Keeps M S0 s) (hk : ∀ s p, Keeps M S0 s → Keeps M S0 (k s p)) :
    KeepsOut M S0 (s.inRx l st k) := by
  unfold State.inRx
  split
  · exact keeps_next h
  · split
    · exact keeps_next (hk _ _ h)
    · exact keeps_next h

theorem keeps_execRxIdleEnter {l : Nat} {s : State} (hS : Keeps M S0 s)
    (hM : Change.le { parts := [.lanes], regs := [.lnStat, .pcsState] } M = true := by first | assumption | exact Change.le_trans (by assumption) (by decide +kernel)) :
    KeepsOut M S0 (execRxIdleEnter l s) := by
  unfold execRxIdleEnter
  repeat' (first | with_reducible assumption | intro _ | with_reducible refine keeps_setRx ?_ | with_reducible refine keeps_inRx ?_ ?_)

theorem keeps_execRxSignalDetect {l : Nat} {s : State} (hS : Keeps M S0 s)
    (hM : Change.le { parts := [.lanes], regs := [.lnStat, .pcsState] } M = true := by first | assumption | exact Change.le_trans (by assumption) (by decide +kernel)) :
    KeepsOut M S0 (execRxSignalDetect l s) := by
  unfold execRxSignalDetect
  repeat' (first | with_reducible assumption | intro _ | with_reducible refine keeps_setRx ?_ | with_reducible refine keeps_inRx ?_ ?_)

theorem keeps_execRxResumeMarker {l : Nat} {field : Word} {s : State} (hS : Keeps M S0 s)
    (hM : Change.le { parts := [.lanes], regs := [.lnStat, .pcsState] } M = true := by first | assumption | exact Change.le_trans (by assumption) (by decide +kernel)) :
    KeepsOut M S0 (execRxResumeMarker l field s) := by
  unfold execRxResumeMarker
  dsimp only
  repeat' (first | with_reducible assumption | intro _ | with_reducible refine keeps_setLane ?_ | with_reducible refine keeps_setRx ?_ | with_reducible refine keeps_inRx ?_ ?_ | with_reducible refine keeps_ite ?_ ?_)

theorem keeps_execRxResumeTimeout {l : Nat} {s : State} (hS : Keeps M S0 s)
    (hM : Change.le { parts := [.meet, .cnt, .path, .lanes, .out], regs := [.fcStat, .lnRxMap, .lnStat, .macLink, .macModeStat, .macStat, .mirStat, .pcsStat, .pcsState, .qmPortStat, .qmStat] } M = true := by first | assumption | exact Change.le_trans (by assumption) (by decide +kernel)) :
    KeepsOut M S0 (execRxResumeTimeout l s) := by
  unfold execRxResumeTimeout
  repeat' (first | with_reducible assumption | intro _ | with_reducible refine keeps_raise ?_ | with_reducible refine keeps_count ?_ | with_reducible refine keeps_loseLock ?_ | with_reducible refine keeps_setRx ?_ | with_reducible refine keeps_inRx ?_ ?_ | with_reducible refine keeps_ite ?_ ?_)

theorem keeps_setScan {l : Nat} {e : EyeScan} {s : State} (hS : Keeps M S0 s)
    (hM : Change.le { parts := [.lanes] } M = true := by first | assumption | exact Change.le_trans (by assumption) (by decide +kernel)) :
    Keeps M S0 (State.setScan s l e) := by
  unfold State.setScan
  dsimp only
  repeat' (first | with_reducible assumption | (simp only [keeps_mk]; with_reducible refine keeps_upd ?_))

theorem keeps_execEyeScanStep {l : Nat} {errs : Nat} {void : Bool} {s : State} (hS : Keeps M S0 s)
    (hM : Change.le { parts := [.meet, .lanes], regs := [.lnEscanCfg, .lnEscanErr, .lnEscanUi, .lnStat] } M = true := by first | assumption | exact Change.le_trans (by assumption) (by decide +kernel)) :
    KeepsOut M S0 (execEyeScanStep l errs void s) := by
  unfold execEyeScanStep
  dsimp only
  repeat' (first | with_reducible assumption | intro _ | with_reducible refine keeps_setReg ?_ | with_reducible refine keeps_raise ?_ | with_reducible refine keeps_setScan ?_ | with_reducible refine keeps_next ?_ | with_reducible refine keeps_ite_out ?_ ?_ | split)

theorem keeps_execEyeScanStart {p : Packet} {s : State} (hS : Keeps M S0 s)
    (hM : Change.le { parts := [.pkts, .log, .lanes], regs := [.lnEscanCfg] } M = true := by first | assumption | exact Change.le_trans (by assumption) (by decide +kernel)) :
    KeepsOut M S0 (execEyeScanStart p s) := by
  unfold execEyeScanStart
  dsimp only
  repeat' (first | with_reducible assumption | intro _ | with_reducible refine keeps_setReg ?_ | with_reducible refine keeps_Res_ok ?_ | with_reducible refine keeps_guarded ?_ ?_ | with_reducible refine keeps_runPacket ?_ ?_ | with_reducible refine keeps_setScan ?_)

theorem keeps_execEyeScanGet {p : Packet} {s : State} (hS : Keeps M S0 s)
    (hM : Change.le { parts := [.pkts, .log, .out] } M = true := by first | assumption | exact Change.le_trans (by assumption) (by decide +kernel)) :
    KeepsOut M S0 (execEyeScanGet p s) := by
  unfold execEyeScanGet
  dsimp only
  repeat' (first | with_reducible assumption | intro _ | with_reducible refine keeps_Res_ok ?_ | with_reducible refine keeps_guarded ?_ ?_ | with_reducible refine keeps_dmaWrite ?_ ?_ | with_reducible refine keeps_runPacket ?_ ?_)

theorem keeps_execEyeScanStop {p : Packet} {s : State} (hS : Keeps M S0 s)
    (hM : Change.le { parts := [.pkts, .log, .lanes], regs := [.lnEscanCfg] } M = true := by first | assumption | exact Change.le_trans (by assumption) (by decide +kernel)) :
    KeepsOut M S0 (execEyeScanStop p s) := by
  unfold execEyeScanStop
  dsimp only
  repeat' (first | with_reducible assumption | intro _ | with_reducible refine keeps_setFld ?_ | with_reducible refine keeps_Res_ok ?_ | with_reducible refine keeps_guarded ?_ ?_ | with_reducible refine keeps_runPacket ?_ ?_ | with_reducible refine keeps_setScan ?_ | split)

theorem keeps_execLegMonitorCheck {l : Nat} {codes : Nat} {s : State} (hS : Keeps M S0 s)
    (hM : Change.le { parts := [.meet, .lanes], regs := [.lnFault, .lnStat] } M = true := by first | assumption | exact Change.le_trans (by assumption) (by decide +kernel)) :
    KeepsOut M S0 (execLegMonitorCheck l codes s) := by
  unfold execLegMonitorCheck
  dsimp only
  repeat' (first | with_reducible assumption | intro _ | with_reducible refine keeps_setReg ?_ | with_reducible refine keeps_setFld ?_ | with_reducible refine keeps_raise ?_ | with_reducible refine keeps_setLane ?_ | with_reducible refine keeps_next ?_ | with_reducible refine keeps_ite_out ?_ ?_)

theorem keeps_setRecord {l : Nat} {r : List Byte} {s : State} (hS : Keeps M S0 s)
    (hM : Change.le { parts := [.lanes], regs := [.lnCemCommit, .lnFfe, .lnRxcfg, .lnTxcfg, .lnTxeq] } M = true := by first | assumption | exact Change.le_trans (by assumption) (by decide +kernel)) :
    Keeps M S0 (State.setRecord s l r) := by
  unfold State.setRecord
  dsimp only
  repeat' (first | with_reducible assumption | intro _ | with_reducible refine keeps_setLane ?_ | with_reducible refine keeps_setShadow ?_ | with_reducible refine keeps_commitLane ?_ | with_reducible refine keeps_ite ?_ ?_ | (simp only [keeps_mk]; with_reducible refine keeps_upd ?_))

theorem keeps_execCemondSet {p : Packet} {s : State} (hS : Keeps M S0 s)
    (hM : Change.le { parts := [.pkts, .log, .lanes], regs := [.lnCemCommit, .lnFfe, .lnRxcfg, .lnTxcfg, .lnTxeq] } M = true := by first | assumption | exact Change.le_trans (by assumption) (by decide +kernel)) :
    KeepsOut M S0 (execCemondSet p s) := by
  unfold execCemondSet
  dsimp only
  repeat' (first | with_reducible assumption | intro _ | with_reducible refine keeps_Res_ok ?_ | with_reducible refine keeps_guarded ?_ ?_ | with_reducible refine keeps_runPacket ?_ ?_ | with_reducible refine keeps_setRecord ?_)

theorem keeps_execCemondGet {p : Packet} {s : State} (hS : Keeps M S0 s)
    (hM : Change.le { parts := [.pkts, .log] } M = true := by first | assumption | exact Change.le_trans (by assumption) (by decide +kernel)) :
    KeepsOut M S0 (execCemondGet p s) := by
  unfold execCemondGet
  repeat' (first | with_reducible assumption | intro _ | with_reducible refine keeps_Res_discard ?_ | with_reducible refine keeps_Res_ok ?_ | with_reducible refine keeps_guarded ?_ ?_ | with_reducible refine keeps_runPacket ?_ ?_ | split)

theorem keeps_loadTable {t : List Byte} {s : State} (hS : Keeps M S0 s)
    (hM : Change.le { parts := [.lanes], regs := [.lnCemCommit, .lnFfe, .lnRxcfg, .lnTxcfg, .lnTxeq] } M = true := by first | assumption | exact Change.le_trans (by assumption) (by decide +kernel)) :
    Keeps M S0 (State.loadTable s t).1 := by
  unfold State.loadTable
  dsimp only
  repeat' (first | with_reducible assumption | intro _ | with_reducible refine keeps_setRecord ?_ | with_reducible refine keeps_foldl ?_ ?_)

theorem keeps_execCemondLoad {p : Packet} {s : State} (hS : Keeps M S0 s)
    (hM : Change.le { parts := [.pkts, .log, .lanes], regs := [.lnCemCommit, .lnFfe, .lnRxcfg, .lnTxcfg, .lnTxeq] } M = true := by first | assumption | exact Change.le_trans (by assumption) (by decide +kernel)) :
    KeepsOut M S0 (execCemondLoad p s) := by
  unfold execCemondLoad
  dsimp only
  repeat' (first | with_reducible assumption | intro _ | with_reducible refine keeps_Res_discard ?_ | with_reducible refine keeps_Res_ok ?_ | with_reducible refine keeps_guarded ?_ ?_ | with_reducible refine keeps_runPacket ?_ ?_ | with_reducible refine keeps_loadTable ?_ | with_reducible refine keeps_ite_res ?_ ?_)

theorem keeps_execLaneTestSet {p : Packet} {s : State} (hS : Keeps M S0 s)
    (hM : Change.le { parts := [.pkts, .log], regs := [.lnTest] } M = true := by first | assumption | exact Change.le_trans (by assumption) (by decide +kernel)) :
    KeepsOut M S0 (execLaneTestSet p s) := by
  unfold execLaneTestSet
  dsimp only
  repeat' (first | with_reducible assumption | intro _ | with_reducible refine keeps_setReg ?_ | with_reducible refine keeps_Res_ok ?_ | with_reducible refine keeps_guarded ?_ ?_ | with_reducible refine keeps_runPacket ?_ ?_)

theorem keeps_execLaneStatusGet {p : Packet} {s : State} (hS : Keeps M S0 s)
    (hM : Change.le { parts := [.pkts, .log] } M = true := by first | assumption | exact Change.le_trans (by assumption) (by decide +kernel)) :
    KeepsOut M S0 (execLaneStatusGet p s) := by
  unfold execLaneStatusGet
  dsimp only
  repeat' (first | with_reducible assumption | intro _ | with_reducible refine keeps_Res_ok ?_ | with_reducible refine keeps_guarded ?_ ?_ | with_reducible refine keeps_runPacket ?_ ?_)

end Sys2Proof.Machine
end

