-- ==== Sys2Proof/Laws/KeepsResets.lean ====
section
/-!
SUPPORT. Each operation and meaning of Machine/Resets.lean keeps what no command may lose and changes nothing but what it names.
-/
set_option Elab.async false
namespace Sys2Proof.Machine
open Sys2Proof
variable {M : Change} {S0 : State}

theorem keeps_severCopies {quads : Nat} {s : State} (hS : Keeps M S0 s)
    (hM : Change.le { parts := [.cnt, .path] } M = true := by first | assumption | exact Change.le_trans (by assumption) (by decide +kernel)) :
    Keeps M S0 (State.severCopies s quads) := by
  unfold State.severCopies
  dsimp only
  repeat' (first | with_reducible assumption | intro _ | with_reducible refine keeps_drop ?_ | with_reducible refine keeps_lateDrop ?_ | with_reducible refine keeps_endBad ?_ | with_reducible refine keeps_ite ?_ ?_ | with_reducible refine keeps_foldl ?_ ?_ | split)

theorem keeps_takeShadow {quads : Nat} {s : State} (hS : Keeps M S0 s)
    (hM : Change.le { parts := [.shadow] } M = true := by first | assumption | exact Change.le_trans (by assumption) (by decide +kernel)) :
    Keeps M S0 (State.takeShadow s quads) := by
  unfold State.takeShadow
  dsimp only
  repeat' (first | with_reducible assumption | (simp only [keeps_mk]; with_reducible refine keeps_upd ?_))

theorem keeps_clearQuads {quads : Nat} {core : Bool} {s : State} (h : Keeps M S0 s)
    (hM : Change.le { parts := [.cnt, .samp, .tab, .path, .lanes, .shadow], anyReg := true } M = true := by first | assumption | exact Change.le_trans (by assumption) (by decide +kernel)) :
    Keeps M S0 (s.clearQuads quads core) := by
  have h1 := keeps_severCopies (quads := quads) (keeps_takeShadow (quads := quads) h)
  unfold State.clearQuads
  refine keeps_settle ?_
  exact keeps_upd (keeps_filter _ h1)

theorem keeps_ccReset {cause : Nat} {handover : Bool} {s : State} (hS : Keeps M S0 s)
    (hM : Change.le { parts := [.cnt, .pkts, .boot, .ks, .tab, .lanes, .tree], regs := [.protBoot] } M = true := by first | assumption | exact Change.le_trans (by assumption) (by decide +kernel)) :
    Keeps M S0 (State.ccReset s cause handover) := by
  unfold State.ccReset
  dsimp only
  repeat' (first | with_reducible assumption | with_reducible refine keeps_setFld ?_ | (simp only [keeps_mk]; with_reducible refine keeps_upd ?_))

theorem keeps_coreReset {s : State} (hS : Keeps M S0 s)
    (hM : Change.le { parts := [.cnt, .samp, .pkts, .boot, .ks, .tab, .path, .lanes, .host, .tree, .shadow], anyReg := true } M = true := by first | assumption | exact Change.le_trans (by assumption) (by decide +kernel)) :
    Keeps M S0 (State.coreReset s) := by
  unfold State.coreReset
  dsimp only
  repeat' (first | with_reducible assumption | with_reducible refine keeps_clearQuads ?_ | with_reducible refine keeps_ccReset ?_ | (simp only [keeps_mk]; with_reducible refine keeps_upd ?_))

theorem keeps_quadReset {quads : Nat} {s : State} (hS : Keeps M S0 s)
    (hM : Change.le { parts := [.cnt, .samp, .boot, .tab, .path, .lanes, .shadow], anyReg := true } M = true := by first | assumption | exact Change.le_trans (by assumption) (by decide +kernel)) :
    Keeps M S0 (State.quadReset s quads) := by
  unfold State.quadReset
  dsimp only
  repeat' (first | with_reducible assumption | intro _ | with_reducible refine keeps_clearQuads ?_ | with_reducible refine keeps_ite ?_ ?_ | (simp only [keeps_mk]; with_reducible refine keeps_upd ?_))

theorem keeps_requestReset {v : Nat} {s : State} (hS : Keeps M S0 s)
    (hM : Change.le { parts := [.cnt, .samp, .pkts, .boot, .ks, .tab, .path, .lanes, .host, .tree, .shadow], anyReg := true } M = true := by first | assumption | exact Change.le_trans (by assumption) (by decide +kernel)) :
    Keeps M S0 (State.requestReset s v) := by
  unfold State.requestReset
  dsimp only
  repeat' (first | with_reducible assumption | intro _ | with_reducible refine keeps_ccReset ?_ | with_reducible refine keeps_coreReset ?_ | with_reducible refine keeps_quadReset ?_ | with_reducible refine keeps_ite ?_ ?_)

theorem keeps_secureWrite {who : Sender} {x : Nat} {k : State → State} {s : State} (h : Keeps M S0 s)
    (hk : ∀ s, Keeps M S0 s → Keeps M S0 (k s))
    (hM : Change.le { parts := [.meet, .cnt], regs := [.protStat, .protViolAddr, .protViolInfo] } M = true := by first | assumption | exact Change.le_trans (by assumption) (by decide +kernel)) :
    Keeps M S0 (s.secureWrite who x k) := by
  unfold State.secureWrite
  split
  · exact hk _ h
  · apply keeps_access h
    intro s h
    split
    · exact hk _ h
    · exact keeps_violation h

theorem keeps_execCoreReset {who : Sender} {s : State} (hS : Keeps M S0 s)
    (hM : Change.le { parts := [.meet, .cnt, .samp, .pkts, .boot, .ks, .tab, .path, .lanes, .host, .tree, .shadow], anyReg := true } M = true := by first | assumption | exact Change.le_trans (by assumption) (by decide +kernel)) :
    KeepsOut M S0 (execCoreReset who s) := by
  unfold execCoreReset
  repeat' (first | with_reducible assumption | intro _ | with_reducible refine keeps_requestReset ?_ | with_reducible refine keeps_secureWrite ?_ ?_ | with_reducible refine keeps_next ?_)

theorem keeps_execControlComplexReset {who : Sender} {s : State} (hS : Keeps M S0 s)
    (hM : Change.le { parts := [.meet, .cnt, .samp, .pkts, .boot, .ks, .tab, .path, .lanes, .host, .tree, .shadow], anyReg := true } M = true := by first | assumption | exact Change.le_trans (by assumption) (by decide +kernel)) :
    KeepsOut M S0 (execControlComplexReset who s) := by
  unfold execControlComplexReset
  repeat' (first | with_reducible assumption | intro _ | with_reducible refine keeps_requestReset ?_ | with_reducible refine keeps_secureWrite ?_ ?_ | with_reducible refine keeps_next ?_)

theorem keeps_execQuadrantReset {who : Sender} {quads : Nat} {s : State} (hS : Keeps M S0 s)
    (hM : Change.le { parts := [.meet, .cnt, .samp, .pkts, .boot, .ks, .tab, .path, .lanes, .host, .tree, .shadow], anyReg := true } M = true := by first | assumption | exact Change.le_trans (by assumption) (by decide +kernel)) :
    KeepsOut M S0 (execQuadrantReset who quads s) := by
  unfold execQuadrantReset
  repeat' (first | with_reducible assumption | intro _ | with_reducible refine keeps_requestReset ?_ | with_reducible refine keeps_secureWrite ?_ ?_ | with_reducible refine keeps_next ?_)

theorem keeps_execResetRelease {s : State} (hS : Keeps M S0 s)
    (hM : Change.le { parts := [.boot] } M = true := by first | assumption | exact Change.le_trans (by assumption) (by decide +kernel)) :
    KeepsOut M S0 (execResetRelease s) := by
  unfold execResetRelease
  dsimp only
  repeat' (first | with_reducible assumption | intro _ | with_reducible refine keeps_next ?_ | with_reducible refine keeps_ite_out ?_ ?_ | (simp only [keeps_mk]; with_reducible refine keeps_upd ?_) | split)

theorem keeps_execCbInitDone {sl : Nat} {s : State} (hS : Keeps M S0 s)
    (hM : Change.le { parts := [.path], regs := [.cbStat] } M = true := by first | assumption | exact Change.le_trans (by assumption) (by decide +kernel)) :
    KeepsOut M S0 (execCbInitDone sl s) := by
  unfold execCbInitDone
  dsimp only
  repeat' (first | with_reducible assumption | intro _ | with_reducible refine keeps_setFld ?_ | with_reducible refine keeps_onPool ?_ | with_reducible refine keeps_retireCell ?_ | with_reducible refine keeps_next ?_ | with_reducible refine keeps_ite_out ?_ ?_ | with_reducible refine keeps_foldl ?_ ?_)

theorem keeps_execDtInitDone {q : Nat} {s : State} (hS : Keeps M S0 s)
    (hM : Change.le { parts := [.path], regs := [.dtStat, .dtStkStat] } M = true := by first | assumption | exact Change.le_trans (by assumption) (by decide +kernel)) :
    KeepsOut M S0 (execDtInitDone q s) := by
  unfold execDtInitDone
  dsimp only
  repeat' (first | with_reducible assumption | intro _ | with_reducible refine keeps_setFld ?_ | with_reducible refine keeps_onStack ?_ | with_reducible refine keeps_retirePage ?_ | with_reducible refine keeps_next ?_ | with_reducible refine keeps_ite_out ?_ ?_ | with_reducible refine keeps_foldl ?_ ?_)

theorem keeps_restoreRegs {sh : Shadow} {s : State} (hS : Keeps M S0 s)
    (hM : Change.le { anyReg := true } M = true := by first | assumption | exact Change.le_trans (by assumption) (by decide +kernel)) :
    Keeps M S0 (State.restoreRegs s sh) := by
  unfold State.restoreRegs
  dsimp only
  repeat' (first | with_reducible assumption | intro _ | with_reducible refine keeps_setReg ?_ | with_reducible refine keeps_foldl ?_ ?_ | split)

theorem keeps_restoreTables {sh : Shadow} {s : State} (hS : Keeps M S0 s)
    (hM : Change.le { parts := [.tab, .path] } M = true := by first | assumption | exact Change.le_trans (by assumption) (by decide +kernel)) :
    Keeps M S0 (State.restoreTables s sh) := by
  unfold State.restoreTables
  dsimp only
  repeat' (first | with_reducible assumption | (simp only [keeps_mk]; with_reducible refine keeps_upd ?_))

theorem keeps_restoreGates {sh : Shadow} {s : State} (hS : Keeps M S0 s)
    (hM : Change.le { parts := [.path] } M = true := by first | assumption | exact Change.le_trans (by assumption) (by decide +kernel)) :
    Keeps M S0 (State.restoreGates s sh) := by
  unfold State.restoreGates
  dsimp only
  repeat' (first | with_reducible assumption | intro _ | with_reducible refine keeps_foldl ?_ ?_ | (simp only [keeps_mk]; with_reducible refine keeps_upd ?_))

theorem keeps_execFirmwareRestoration {s : State} (hS : Keeps M S0 s)
    (hM : Change.le { parts := [.meet, .cnt, .log, .tab, .path, .lanes, .shadow], anyReg := true } M = true := by first | assumption | exact Change.le_trans (by assumption) (by decide +kernel)) :
    KeepsOut M S0 (execFirmwareRestoration s) := by
  unfold execFirmwareRestoration
  dsimp only
  repeat' (first | with_reducible assumption | intro _ | with_reducible refine keeps_logEvent ?_ | with_reducible refine keeps_standbyCheck ?_ | with_reducible refine keeps_enableLanes ?_ | with_reducible refine keeps_restoreRegs ?_ | with_reducible refine keeps_restoreTables ?_ | with_reducible refine keeps_restoreGates ?_ | with_reducible refine keeps_next ?_ | with_reducible refine keeps_ite_out ?_ ?_ | with_reducible refine keeps_foldl ?_ ?_ | (simp only [keeps_mk]; with_reducible refine keeps_upd ?_) | split)

theorem keeps_kick {s : State} (hS : Keeps M S0 s)
    (hM : Change.le { parts := [.boot] } M = true := by first | assumption | exact Change.le_trans (by assumption) (by decide +kernel)) :
    Keeps M S0 (State.kick s) := by
  unfold State.kick
  dsimp only
  repeat' (first | with_reducible assumption | (simp only [keeps_mk]; with_reducible refine keeps_upd ?_))

theorem keeps_execWatchdogKick {who : Sender} {v : Word} {s : State} (hS : Keeps M S0 s)
    (hM : Change.le { parts := [.meet, .cnt, .boot], regs := [.glbAccAddr, .glbAccInfo, .glbStat, .protStat, .protViolAddr, .protViolInfo] } M = true := by first | assumption | exact Change.le_trans (by assumption) (by decide +kernel)) :
    KeepsOut M S0 (execWatchdogKick who v s) := by
  unfold execWatchdogKick
  repeat' (first | with_reducible assumption | intro _ | with_reducible refine keeps_ccWrite ?_ ?_ | with_reducible refine keeps_kick ?_ | with_reducible refine keeps_next ?_ | with_reducible refine keeps_ite ?_ ?_)

theorem keeps_execWatchdogExpire {s : State} (hS : Keeps M S0 s)
    (hM : Change.le { parts := [.meet, .cnt, .pkts, .boot, .ks, .tab, .lanes, .tree], regs := [.protBoot, .protStat] } M = true := by first | assumption | exact Change.le_trans (by assumption) (by decide +kernel)) :
    KeepsOut M S0 (execWatchdogExpire s) := by
  unfold execWatchdogExpire
  repeat' (first | with_reducible assumption | intro _ | with_reducible refine keeps_raise ?_ | with_reducible refine keeps_ccReset ?_ | with_reducible refine keeps_next ?_ | with_reducible refine keeps_ite_out ?_ ?_)

end Sys2Proof.Machine
end

