-- ==== Sys2Proof/Laws/KeepsImages.lean ====
section
/-!
SUPPORT. Each operation and meaning of Machine/Images.lean keeps what no command may lose and changes nothing but what it names.
-/
set_option Elab.async false
namespace Sys2Proof.Machine
open Sys2Proof
variable {M : Change} {S0 : State}

theorem keeps_advanceFuses {slot : Nat} {s : State} (h : Keeps M S0 s)
    (hM : Change.le { parts := [.fuses] } M = true := by first | assumption | exact Change.le_trans (by assumption) (by decide +kernel)) :
    Keeps M S0 (s.advanceFuses slot) := by
  unfold State.advanceFuses
  dsimp only
  refine keeps_fuses _ ?_ ?_ ?_ ?_ h
  · split <;> split <;> (try split) <;> exact ⟨rfl, rfl, rfl, rfl⟩
  · split <;> split <;> (try split) <;> first | exact Nat.le_refl _ | exact Nat.le_max_left _ _
  · split <;> split <;> (try split) <;> first | exact Nat.le_refl _ | exact Nat.le_max_left _ _
  · intro i hi
    split <;> split <;> (try split) <;> first | exact hi | (rw [Nat.testBit_or, hi]; rfl)

theorem keeps_powerOn {straps : Nat} {flash : Table Byte} {s : State} (h : Keeps M S0 s)
    (hM : Change.le { parts := [.tick, .time, .meet, .cnt, .samp, .pkts, .log, .boot, .ks, .flash, .power, .tab, .path, .lanes, .host, .tree, .shadow], anyReg := true } M = true := by first | assumption | exact Change.le_trans (by assumption) (by decide +kernel)) :
    Keeps M S0 (s.powerOn straps flash) := by
  have c : ∀ (p : Part) {q : Prop}, M.has p = true → M.has p = false → q := fun p q h1 h2 => absurd (h1.symm.trans h2) (by decide)
  exact ⟨h.code, h.grade, h.step, h.keys, h.svnBoot, h.svnFw, h.revoked, h.seq, rfl, (by decide : (0 : Nat) < 2 ^ 64),
    (by decide : (0 : Nat) < 2 ^ 64), ⟨h.within.fuses, c _ (Change.has_of_le hM (by decide +kernel)), c _ (Change.has_of_le hM (by decide +kernel)), c _ (Change.has_of_le hM (by decide +kernel)), c _ (Change.has_of_le hM (by decide +kernel)), c _ (Change.has_of_le hM (by decide +kernel)), c _ (Change.has_of_le hM (by decide +kernel)), c _ (Change.has_of_le hM (by decide +kernel)), c _ (Change.has_of_le hM (by decide +kernel)), c _ (Change.has_of_le hM (by decide +kernel)), c _ (Change.has_of_le hM (by decide +kernel)), c _ (Change.has_of_le hM (by decide +kernel)), c _ (Change.has_of_le hM (by decide +kernel)), c _ (Change.has_of_le hM (by decide +kernel)), c _ (Change.has_of_le hM (by decide +kernel)), c _ (Change.has_of_le hM (by decide +kernel)), c _ (Change.has_of_le hM (by decide +kernel)), c _ (Change.has_of_le hM (by decide +kernel)), h.within.out, h.within.free, h.within.queue,
    fun r i hm => absurd ((Change.may_of_any (Change.any_of_le hM (by decide +kernel))).symm.trans hm) (by decide)⟩⟩

theorem keeps_execPowerOnReset {straps : Nat} {flash : List (Nat × List Byte)} {s : State} (hS : Keeps M S0 s)
    (hM : Change.le { parts := [.tick, .time, .meet, .cnt, .samp, .pkts, .log, .boot, .ks, .flash, .power, .tab, .path, .lanes, .host, .tree, .shadow], anyReg := true } M = true := by first | assumption | exact Change.le_trans (by assumption) (by decide +kernel)) :
    KeepsOut M S0 (execPowerOnReset straps flash s) := by
  unfold execPowerOnReset
  repeat' (first | with_reducible assumption | with_reducible refine keeps_powerOn ?_ | with_reducible refine keeps_next ?_)

end Sys2Proof.Machine
end

