-- ==== Sys2Proof/Laws/KeepsKeepStore.lean ====
section
/-!
SUPPORT. Each operation and meaning of Machine/KeepStore.lean keeps what no command may lose and changes nothing but what it names.
-/
set_option Elab.async false
namespace Sys2Proof.Machine
open Sys2Proof
variable {M : Change} {S0 : State}

theorem keeps_openSession {x : Session} {s : State} (hS : Keeps M S0 s)
    (hM : Change.le { parts := [.ks], regs := [.ksStat] } M = true := by first | assumption | exact Change.le_trans (by assumption) (by decide +kernel)) :
    Keeps M S0 (State.openSession s x) := by
  unfold State.openSession
  dsimp only
  repeat' (first | with_reducible assumption | with_reducible refine keeps_setFld ?_ | (simp only [keeps_mk]; with_reducible refine keeps_upd ?_))

theorem keeps_sessionCommand {op : Nat} {p : Packet} {bytes : Nat} {d : SessionData} {s : State} (hS : Keeps M S0 s)
    (hM : Change.le { parts := [.cnt, .ks, .tab], regs := [.ksStat] } M = true := by first | assumption | exact Change.le_trans (by assumption) (by decide +kernel)) :
    Keeps M S0 (State.sessionCommand s op p bytes d).state := by
  unfold State.sessionCommand
  dsimp only
  repeat' (first | with_reducible assumption | intro _ | with_reducible refine keeps_count ?_ | with_reducible refine keeps_Res_discard ?_ | with_reducible refine keeps_Res_job ?_ | with_reducible refine keeps_openSession ?_ | with_reducible refine keeps_ite_res ?_ ?_)

theorem keeps_ownSession {bytes : Nat} {d : SessionData} {s : State} (hS : Keeps M S0 s)
    (hM : Change.le { parts := [.cnt, .log, .ks], regs := [.ksStat] } M = true := by first | assumption | exact Change.le_trans (by assumption) (by decide +kernel)) :
    Keeps M S0 (State.ownSession s bytes d) := by
  unfold State.ownSession
  repeat' (first | with_reducible assumption | intro _ | with_reducible refine keeps_count ?_ | with_reducible refine keeps_logEvent ?_ | with_reducible refine keeps_openSession ?_ | with_reducible refine keeps_ite ?_ ?_)

theorem keeps_storeSession {d : SessionData} {s : State} (hS : Keeps M S0 s)
    (hM : Change.le { parts := [.fuses, .log, .boot, .ks], regs := [.protBoot] } M = true := by first | assumption | exact Change.le_trans (by assumption) (by decide +kernel)) :
    Keeps M S0 (State.storeSession s d) := by
  unfold State.storeSession
  dsimp only
  repeat' (first | with_reducible assumption | with_reducible refine keeps_setFld ?_ | with_reducible refine keeps_advanceFuses ?_ | (simp only [keeps_mk]; with_reducible refine keeps_upd ?_) | (simp only [keeps_mk]; with_reducible refine keeps_updl ?_) | split)

theorem keeps_execKsSessionComplete {worn : Nat} {s : State} (hS : Keeps M S0 s)
    (hM : Change.le { parts := [.fuses, .meet, .cnt, .pkts, .log, .boot, .ks, .tab], regs := [.ksStat, .protBoot] } M = true := by first | assumption | exact Change.le_trans (by assumption) (by decide +kernel)) :
    KeepsOut M S0 (execKsSessionComplete worn s) := by
  unfold execKsSessionComplete
  dsimp only
  repeat' (first | with_reducible assumption | intro _ | with_reducible refine keeps_setFld ?_ | with_reducible refine keeps_raise ?_ | with_reducible refine keeps_count ?_ | with_reducible refine keeps_stepJob ?_ | with_reducible refine keeps_storeSession ?_ | with_reducible refine keeps_next ?_ | with_reducible refine keeps_ite ?_ ?_ | (simp only [keeps_mk]; with_reducible refine keeps_upd ?_) | split)

theorem keeps_startSave {s : State} (hS : Keeps M S0 s)
    (hM : Change.le { parts := [.ks], regs := [.ksStat] } M = true := by first | assumption | exact Change.le_trans (by assumption) (by decide +kernel)) :
    Keeps M S0 (State.startSave s) := by
  unfold State.startSave
  dsimp only
  repeat' (first | with_reducible assumption | intro _ | with_reducible refine keeps_setFld ?_ | with_reducible refine keeps_ite ?_ ?_ | (simp only [keeps_mk]; with_reducible refine keeps_upd ?_))

theorem keeps_execSaveImageUpdate {s : State} (hS : Keeps M S0 s)
    (hM : Change.le { parts := [.cnt, .log, .ks], regs := [.ksStat] } M = true := by first | assumption | exact Change.le_trans (by assumption) (by decide +kernel)) :
    KeepsOut M S0 (execSaveImageUpdate s) := by
  unfold execSaveImageUpdate
  dsimp only
  repeat' (first | with_reducible assumption | intro _ | with_reducible refine keeps_ownSession ?_ | with_reducible refine keeps_next ?_ | with_reducible refine keeps_ite_out ?_ ?_ | (simp only [keeps_mk]; with_reducible refine keeps_upd ?_))

theorem keeps_execSaveComplete {ok : Bool} {s : State} (hS : Keeps M S0 s)
    (hM : Change.le { parts := [.meet, .ks], regs := [.ksSaveLen, .ksSaveSeq, .ksStat] } M = true := by first | assumption | exact Change.le_trans (by assumption) (by decide +kernel)) :
    KeepsOut M S0 (execSaveComplete ok s) := by
  unfold execSaveComplete
  dsimp only
  repeat' (first | with_reducible assumption | intro _ | with_reducible refine keeps_setReg ?_ | with_reducible refine keeps_setFld ?_ | with_reducible refine keeps_raise ?_ | with_reducible refine keeps_next ?_ | with_reducible refine keeps_ite_out ?_ ?_ | (simp only [keeps_mk]; with_reducible refine keeps_upd ?_) | split)

theorem keeps_execSagBegin {source : Nat} {s : State} (hS : Keeps M S0 s)
    (hM : Change.le { parts := [.meet, .cnt, .ks], regs := [.ksStat, .pwrSagInfo, .pwrStat] } M = true := by first | assumption | exact Change.le_trans (by assumption) (by decide +kernel)) :
    KeepsOut M S0 (execSagBegin source s) := by
  unfold execSagBegin
  dsimp only
  repeat' (first | with_reducible assumption | intro _ | with_reducible refine keeps_setReg ?_ | with_reducible refine keeps_setFld ?_ | with_reducible refine keeps_raise ?_ | with_reducible refine keeps_count ?_ | with_reducible refine keeps_startSave ?_ | with_reducible refine keeps_next ?_ | with_reducible refine keeps_ite ?_ ?_ | with_reducible refine keeps_ite_out ?_ ?_)

theorem keeps_execSagEnd {s : State} (hS : Keeps M S0 s)
    (hM : Change.le { parts := [.meet, .log], regs := [.pwrStat] } M = true := by first | assumption | exact Change.le_trans (by assumption) (by decide +kernel)) :
    KeepsOut M S0 (execSagEnd s) := by
  unfold execSagEnd
  dsimp only
  repeat' (first | with_reducible assumption | intro _ | with_reducible refine keeps_setFld ?_ | with_reducible refine keeps_raise ?_ | with_reducible refine keeps_logEvent ?_ | with_reducible refine keeps_next ?_ | with_reducible refine keeps_ite_out ?_ ?_)

theorem keeps_execCoreSupplyLoss {rails : Nat} {s : State} (hS : Keeps M S0 s)
    (hM : Change.le { parts := [.tick, .time, .meet, .cnt, .samp, .pkts, .log, .boot, .ks, .flash, .power, .tab, .path, .lanes, .host, .tree, .shadow], anyReg := true } M = true := by first | assumption | exact Change.le_trans (by assumption) (by decide +kernel)) :
    KeepsOut M S0 (execCoreSupplyLoss rails s) := by
  unfold execCoreSupplyLoss
  dsimp only
  repeat' (first | with_reducible assumption | intro _ | with_reducible refine keeps_setReg ?_ | with_reducible refine keeps_raise ?_ | with_reducible refine keeps_coreReset ?_ | with_reducible refine keeps_powerOn ?_ | with_reducible refine keeps_next ?_ | with_reducible refine keeps_ite_out ?_ ?_ | (simp only [keeps_mk]; with_reducible refine keeps_upd ?_))

theorem keeps_execCoreSupplyRestored {s : State} (hS : Keeps M S0 s)
    (hM : Change.le { parts := [.boot, .power], regs := [.pwrRail] } M = true := by first | assumption | exact Change.le_trans (by assumption) (by decide +kernel)) :
    KeepsOut M S0 (execCoreSupplyRestored s) := by
  unfold execCoreSupplyRestored
  dsimp only
  repeat' (first | with_reducible assumption | intro _ | with_reducible refine keeps_setReg ?_ | with_reducible refine keeps_next ?_ | with_reducible refine keeps_ite_out ?_ ?_ | (simp only [keeps_mk]; with_reducible refine keeps_upd ?_))

theorem keeps_execVholdExhausted {s : State} (hS : Keeps M S0 s)
    (hM : Change.le { parts := [.tick, .time, .meet, .cnt, .samp, .pkts, .log, .boot, .ks, .flash, .power, .tab, .path, .lanes, .host, .tree, .shadow], anyReg := true } M = true := by first | assumption | exact Change.le_trans (by assumption) (by decide +kernel)) :
    KeepsOut M S0 (execVholdExhausted s) := by
  unfold execVholdExhausted
  repeat' (first | with_reducible assumption | intro _ | with_reducible refine keeps_powerOn ?_ | with_reducible refine keeps_next ?_ | with_reducible refine keeps_ite_out ?_ ?_)

theorem keeps_execVddUndervoltage {s : State} (hS : Keeps M S0 s)
    (hM : Change.le { parts := [.meet], regs := [.pwrStat] } M = true := by first | assumption | exact Change.le_trans (by assumption) (by decide +kernel)) :
    KeepsOut M S0 (execVddUndervoltage s) := by
  unfold execVddUndervoltage
  repeat' (first | with_reducible assumption | with_reducible refine keeps_raise ?_ | with_reducible refine keeps_next ?_)

theorem keeps_execVholdFirstCharge {s : State} (hS : Keeps M S0 s)
    (hM : Change.le { parts := [.power] } M = true := by first | assumption | exact Change.le_trans (by assumption) (by decide +kernel)) :
    KeepsOut M S0 (execVholdFirstCharge s) := by
  unfold execVholdFirstCharge
  dsimp only
  repeat' (first | with_reducible assumption | with_reducible refine keeps_next ?_ | (simp only [keeps_mk]; with_reducible refine keeps_upd ?_))

theorem keeps_setHoldV {mv : Nat} {s : State} (hS : Keeps M S0 s)
    (hM : Change.le { regs := [.pwrHoldV, .pwrStat] } M = true := by first | assumption | exact Change.le_trans (by assumption) (by decide +kernel)) :
    Keeps M S0 (State.setHoldV s mv) := by
  unfold State.setHoldV
  repeat' (first | with_reducible assumption | with_reducible refine keeps_setReg ?_ | with_reducible refine keeps_setFld ?_)

theorem keeps_setCap {n : Nat} {s : State} (hS : Keeps M S0 s)
    (hM : Change.le { parts := [.meet, .log], regs := [.pwrStat] } M = true := by first | assumption | exact Change.le_trans (by assumption) (by decide +kernel)) :
    Keeps M S0 (State.setCap s n) := by
  unfold State.setCap
  dsimp only
  repeat' (first | with_reducible assumption | intro _ | with_reducible refine keeps_setFld ?_ | with_reducible refine keeps_raise ?_ | with_reducible refine keeps_logEvent ?_ | with_reducible refine keeps_ite ?_ ?_)

theorem keeps_execCapTestComplete {low : Bool} {rise : Nat} {esr : Nat} {s : State} (hS : Keeps M S0 s)
    (hM : Change.le { parts := [.meet, .log], regs := [.pwrCap, .pwrHoldV, .pwrStat] } M = true := by first | assumption | exact Change.le_trans (by assumption) (by decide +kernel)) :
    KeepsOut M S0 (execCapTestComplete low rise esr s) := by
  unfold execCapTestComplete
  dsimp only
  repeat' (first | with_reducible assumption | intro _ | with_reducible refine keeps_setReg ?_ | with_reducible refine keeps_setHoldV ?_ | with_reducible refine keeps_setCap ?_ | with_reducible refine keeps_next ?_ | with_reducible refine keeps_ite ?_ ?_ | with_reducible refine keeps_ite_out ?_ ?_)

theorem keeps_execCapRuntimeCheck {mv : Nat} {s : State} (hS : Keeps M S0 s)
    (hM : Change.le { parts := [.meet, .log, .power], regs := [.pwrHoldV, .pwrStat] } M = true := by first | assumption | exact Change.le_trans (by assumption) (by decide +kernel)) :
    KeepsOut M S0 (execCapRuntimeCheck mv s) := by
  unfold execCapRuntimeCheck
  dsimp only
  repeat' (first | with_reducible assumption | intro _ | with_reducible refine keeps_setHoldV ?_ | with_reducible refine keeps_setCap ?_ | with_reducible refine keeps_next ?_ | with_reducible refine keeps_ite_out ?_ ?_ | (simp only [keeps_mk]; with_reducible refine keeps_upd ?_) | split)

theorem keeps_execCapOvervoltage {mv : Nat} {s : State} (hS : Keeps M S0 s)
    (hM : Change.le { parts := [.meet, .log], regs := [.pwrCtl, .pwrHoldV, .pwrStat] } M = true := by first | assumption | exact Change.le_trans (by assumption) (by decide +kernel)) :
    KeepsOut M S0 (execCapOvervoltage mv s) := by
  unfold execCapOvervoltage
  dsimp only
  repeat' (first | with_reducible assumption | intro _ | with_reducible refine keeps_setFld ?_ | with_reducible refine keeps_setHoldV ?_ | with_reducible refine keeps_setCap ?_ | with_reducible refine keeps_next ?_ | with_reducible refine keeps_ite ?_ ?_ | with_reducible refine keeps_ite_out ?_ ?_)

theorem keeps_execHoldupEnergyCheck {mv : Nat} {s : State} (hS : Keeps M S0 s)
    (hM : Change.le { parts := [.log], regs := [.ksStat, .pwrHoldV, .pwrStat] } M = true := by first | assumption | exact Change.le_trans (by assumption) (by decide +kernel)) :
    KeepsOut M S0 (execHoldupEnergyCheck mv s) := by
  unfold execHoldupEnergyCheck
  dsimp only
  repeat' (first | with_reducible assumption | intro _ | with_reducible refine keeps_setFld ?_ | with_reducible refine keeps_logEvent ?_ | with_reducible refine keeps_setHoldV ?_ | with_reducible refine keeps_next ?_ | with_reducible refine keeps_ite_out ?_ ?_)

theorem keeps_takeTemps {ts : List Int} {s : State} (hS : Keeps M S0 s)
    (hM : Change.le { parts := [.meet], regs := [.thmStat, .thmTemp] } M = true := by first | assumption | exact Change.le_trans (by assumption) (by decide +kernel)) :
    Keeps M S0 (State.takeTemps s ts) := by
  unfold State.takeTemps
  repeat' (first | with_reducible assumption | intro _ | with_reducible refine keeps_setReg ?_ | with_reducible refine keeps_raise ?_ | with_reducible refine keeps_ite ?_ ?_ | with_reducible refine keeps_foldl ?_ ?_)

theorem keeps_levelStep {tj : Int} {k : Nat} {s : State} (hS : Keeps M S0 s)
    (hM : Change.le { parts := [.meet, .cnt, .samp, .pkts, .log, .boot, .ks, .power, .tab, .path, .lanes, .host, .tree, .shadow, .out], anyReg := true } M = true := by first | assumption | exact Change.le_trans (by assumption) (by decide +kernel)) :
    Keeps M S0 (State.levelStep s tj k) := by
  unfold State.levelStep
  dsimp only
  repeat' (first | with_reducible assumption | intro _ | with_reducible refine keeps_setFld ?_ | with_reducible refine keeps_raise ?_ | with_reducible refine keeps_emit ?_ | with_reducible refine keeps_logEvent ?_ | with_reducible refine keeps_coreReset ?_ | with_reducible refine keeps_ite ?_ ?_ | (simp only [keeps_mk]; with_reducible refine keeps_upd ?_))

theorem keeps_execThermalSample {temps : List Int} {s : State} (hS : Keeps M S0 s)
    (hM : Change.le { parts := [.meet, .cnt, .samp, .pkts, .log, .boot, .ks, .power, .tab, .path, .lanes, .host, .tree, .shadow, .out], anyReg := true } M = true := by first | assumption | exact Change.le_trans (by assumption) (by decide +kernel)) :
    KeepsOut M S0 (execThermalSample temps s) := by
  unfold execThermalSample
  dsimp only
  repeat' (first | with_reducible assumption | intro _ | with_reducible refine keeps_setReg ?_ | with_reducible refine keeps_emit ?_ | with_reducible refine keeps_logEvent ?_ | with_reducible refine keeps_takeTemps ?_ | with_reducible refine keeps_levelStep ?_ | with_reducible refine keeps_next ?_ | with_reducible refine keeps_ite ?_ ?_ | with_reducible refine keeps_ite_out ?_ ?_ | with_reducible refine keeps_foldl ?_ ?_ | (simp only [keeps_mk]; with_reducible refine keeps_upd ?_) | split)

theorem keeps_execKsWrite {p : Packet} {s : State} (hS : Keeps M S0 s)
    (hM : Change.le { parts := [.cnt, .pkts, .log, .ks, .tab], regs := [.ksStat] } M = true := by first | assumption | exact Change.le_trans (by assumption) (by decide +kernel)) :
    KeepsOut M S0 (execKsWrite p s) := by
  unfold execKsWrite
  dsimp only
  repeat' (first | with_reducible assumption | intro _ | with_reducible refine keeps_Res_discard ?_ | with_reducible refine keeps_guarded ?_ ?_ | with_reducible refine keeps_runPacket ?_ ?_ | with_reducible refine keeps_sessionCommand ?_ | with_reducible refine keeps_ite_res ?_ ?_)

theorem keeps_execKsRead {p : Packet} {s : State} (hS : Keeps M S0 s)
    (hM : Change.le { parts := [.pkts, .log, .out, .free] } M = true := by first | assumption | exact Change.le_trans (by assumption) (by decide +kernel)) :
    KeepsOut M S0 (execKsRead p s) := by
  unfold execKsRead
  dsimp only
  repeat' (first | with_reducible assumption | intro _ | with_reducible refine keeps_draw ?_ | with_reducible refine keeps_Res_ok ?_ | with_reducible refine keeps_guarded ?_ ?_ | with_reducible refine keeps_dmaWrite ?_ ?_ | with_reducible refine keeps_runPacket ?_ ?_)

theorem keeps_execHoldupStatusGet {p : Packet} {s : State} (hS : Keeps M S0 s)
    (hM : Change.le { parts := [.pkts, .log] } M = true := by first | assumption | exact Change.le_trans (by assumption) (by decide +kernel)) :
    KeepsOut M S0 (execHoldupStatusGet p s) := by
  unfold execHoldupStatusGet
  dsimp only
  repeat' (first | with_reducible assumption | intro _ | with_reducible refine keeps_Res_ok ?_ | with_reducible refine keeps_runPacket ?_ ?_)

theorem keeps_execThmGet {p : Packet} {s : State} (hS : Keeps M S0 s)
    (hM : Change.le { parts := [.pkts, .log] } M = true := by first | assumption | exact Change.le_trans (by assumption) (by decide +kernel)) :
    KeepsOut M S0 (execThmGet p s) := by
  unfold execThmGet
  repeat' (first | with_reducible assumption | intro _ | with_reducible refine keeps_Res_ok ?_ | with_reducible refine keeps_runPacket ?_ ?_)

end Sys2Proof.Machine
end

