-- ==== Sys2Proof/Laws/KeepsRegAccess.lean ====
section
/-!
SUPPORT. Each operation and meaning of Machine/RegAccess.lean keeps what no command may lose and changes nothing but what it names.
-/
set_option Elab.async false
namespace Sys2Proof.Machine
open Sys2Proof
variable {M : Change} {S0 : State}

theorem keeps_readReg {who : Sender} {r : Reg} {i : Nat} {s : State} (hS : Keeps M S0 s) (hr : M.may r = true := by first | assumption | exact Change.may_of_le (by assumption) (by decide +kernel) | exact Change.may_ite (by assumption) (by decide +kernel) (by decide +kernel) | exact Change.may_ite_fld (by assumption) (by decide +kernel) (by decide +kernel) | exact Change.may_of_any (Change.any_of_le (by assumption) (by decide +kernel)))
    (hM : Change.le { parts := [.time, .cnt], anyReg := true } M = true := by first | assumption | exact Change.le_trans (by assumption) (by decide +kernel)) :
    Keeps M S0 (State.readReg s who r i).1 := by
  unfold State.readReg
  dsimp only
  repeat' (first | with_reducible assumption | intro _ | with_reducible refine keeps_setReg ?_ | with_reducible refine keeps_latchWhorl ?_ | with_reducible refine keeps_capPop ?_ | with_reducible refine keeps_ite_fst ?_ ?_ | (simp only [keeps_mk]; with_reducible refine keeps_upd ?_) | split)

theorem keeps_readWord {who : Sender} {y : Nat} {s : State} (hS : Keeps M S0 s)
    (hM : Change.le { parts := [.time, .cnt, .free], anyReg := true } M = true := by first | assumption | exact Change.le_trans (by assumption) (by decide +kernel)) :
    Keeps M S0 (State.readWord s who y).1 := by
  unfold State.readWord
  dsimp only
  repeat' (first | with_reducible assumption | intro _ | with_reducible refine keeps_draw ?_ | with_reducible refine keeps_readReg ?_ | with_reducible refine keeps_ite_fst ?_ ?_ | split)

theorem keeps_busRead {who : Sender} {y : Nat} {s : State} (hS : Keeps M S0 s)
    (hM : Change.le { parts := [.time, .meet, .cnt, .free], anyReg := true } M = true := by first | assumption | exact Change.le_trans (by assumption) (by decide +kernel)) :
    Keeps M S0 (State.busRead s who y).1 := by
  unfold State.busRead
  repeat' (first | with_reducible assumption | with_reducible refine keeps_violation ?_ | with_reducible refine keeps_readWord ?_ | split)

theorem keeps_plainWrite {r : Reg} {i : Nat} {v : Word} {s : State} (hS : Keeps M S0 s) (hr : M.may r = true := by first | assumption | exact Change.may_of_le (by assumption) (by decide +kernel) | exact Change.may_ite (by assumption) (by decide +kernel) (by decide +kernel) | exact Change.may_ite_fld (by assumption) (by decide +kernel) (by decide +kernel) | exact Change.may_of_any (Change.any_of_le (by assumption) (by decide +kernel))) :
    Keeps M S0 (State.plainWrite s r i v) := by
  unfold State.plainWrite
  dsimp only
  repeat' (first | with_reducible assumption | intro _ | with_reducible refine keeps_setReg ?_ | with_reducible refine keeps_w1c ?_ | with_reducible refine keeps_ite ?_ ?_)

theorem keeps_revoke {mask : Nat} {s : State} (hS : Keeps M S0 s)
    (hM : Change.le { regs := [.protDmaCfg] } M = true := by first | assumption | exact Change.le_trans (by assumption) (by decide +kernel)) :
    Keeps M S0 (State.revoke s mask) := by
  unfold State.revoke
  repeat' (first | with_reducible assumption | intro _ | with_reducible refine keeps_setFld ?_ | with_reducible refine keeps_foldl ?_ ?_)

theorem keeps_lockWrite {v : Nat} {s : State} (hS : Keeps M S0 s)
    (hM : Change.le { regs := [.protCtl] } M = true := by first | assumption | exact Change.le_trans (by assumption) (by decide +kernel)) :
    Keeps M S0 (State.lockWrite s v) := by
  unfold State.lockWrite
  repeat' (first | with_reducible assumption | intro _ | with_reducible refine keeps_setFld ?_ | with_reducible refine keeps_ite ?_ ?_)

theorem keeps_wdtWrite {who : Sender} {x : Nat} {v : Nat} {s : State} (hS : Keeps M S0 s)
    (hM : Change.le { parts := [.meet, .cnt, .boot], regs := [.protStat, .protViolAddr, .protViolInfo, .protWdt] } M = true := by first | assumption | exact Change.le_trans (by assumption) (by decide +kernel)) :
    Keeps M S0 (State.wdtWrite s who x v) := by
  unfold State.wdtWrite
  dsimp only
  repeat' (first | with_reducible assumption | intro _ | with_reducible refine keeps_setFld ?_ | with_reducible refine keeps_violation ?_ | with_reducible refine keeps_kick ?_ | with_reducible refine keeps_ite ?_ ?_)

theorem keeps_writePortCfg {p : Nat} {v : Word} {s : State} (hS : Keeps M S0 s)
    (hM : Change.le { parts := [.meet, .cnt, .path, .lanes, .out], regs := [.fcStat, .lnCemCommit, .lnCemId, .lnFfe, .lnRate, .lnRxMap, .lnRxcfg, .lnStat, .lnTxcfg, .lnTxeq, .macLink, .macModeStat, .macPortCfg, .macStat, .mirStat, .pcsState, .qmPortStat, .qmStat] } M = true := by first | assumption | exact Change.le_trans (by assumption) (by decide +kernel)) :
    Keeps M S0 (State.writePortCfg s p v) := by
  unfold State.writePortCfg
  dsimp only
  repeat' (first | with_reducible assumption | intro _ | with_reducible refine keeps_setReg ?_ | with_reducible refine keeps_inPath ?_ | with_reducible refine keeps_linkLoss ?_ | with_reducible refine keeps_standbyCheck ?_ | with_reducible refine keeps_enableLanes ?_ | with_reducible refine keeps_disableLanes ?_ | with_reducible refine keeps_plainWrite ?_ | with_reducible refine keeps_ite ?_ ?_)

theorem keeps_missEntry {e : Nat} {cause : Nat} {s : State} (hS : Keeps M S0 s)
    (hM : Change.le { parts := [.meet], regs := [.tickSchAct, .tickSchMissed] } M = true := by first | assumption | exact Change.le_trans (by assumption) (by decide +kernel)) :
    Keeps M S0 (State.missEntry s e cause) := by
  unfold State.missEntry
  repeat' (first | with_reducible assumption | with_reducible refine keeps_setFld ?_ | with_reducible refine keeps_raiseBits ?_)

theorem keeps_writeSchAct {e : Nat} {v : Word} {s : State} (hS : Keeps M S0 s)
    (hM : Change.le { parts := [.meet], regs := [.tickSchAct, .tickSchMissed] } M = true := by first | assumption | exact Change.le_trans (by assumption) (by decide +kernel)) :
    Keeps M S0 (State.writeSchAct s e v) := by
  unfold State.writeSchAct
  dsimp only
  repeat' (first | with_reducible assumption | intro _ | with_reducible refine keeps_plainWrite ?_ | with_reducible refine keeps_missEntry ?_ | with_reducible refine keeps_ite ?_ ?_)

theorem keeps_mbWrite {sid : Nat} {r : Reg} {i : Nat} {v : Word} {s : State} (hS : Keeps M S0 s)
    (hM : Change.le { parts := [.meet, .cnt], regs := [.mbErr, .mbErrInfo, .mbInCtl, .mbInInc, .mbInSlot, .mbOutCtl] } M = true := by first | assumption | exact Change.le_trans (by assumption) (by decide +kernel)) :
    Keeps M S0 (State.mbWrite s sid r i v) := by
  unfold State.mbWrite
  dsimp only
  repeat' (first | with_reducible assumption | intro _ | with_reducible refine keeps_setReg ?_ | with_reducible refine keeps_mbError ?_ | with_reducible refine keeps_postIn ?_ | with_reducible refine keeps_newInc ?_ | with_reducible refine keeps_consumeOut ?_ | with_reducible refine keeps_ite ?_ ?_ | split)

theorem keeps_writeReg {who : Sender} {party : Nat} {r : Reg} {i : Nat} {v : Word} {s : State} (hS : Keeps M S0 s) (hr : M.may r = true := by first | assumption | exact Change.may_of_le (by assumption) (by decide +kernel) | exact Change.may_ite (by assumption) (by decide +kernel) (by decide +kernel) | exact Change.may_ite_fld (by assumption) (by decide +kernel) (by decide +kernel) | exact Change.may_of_any (Change.any_of_le (by assumption) (by decide +kernel)))
    (hM : Change.le { parts := [.time, .meet, .cnt, .samp, .pkts, .log, .boot, .ks, .tab, .path, .lanes, .host, .tree, .shadow, .out], anyReg := true } M = true := by first | assumption | exact Change.le_trans (by assumption) (by decide +kernel)) :
    Keeps M S0 (State.writeReg s who party r i v) := by
  unfold State.writeReg
  dsimp only
  repeat' (first | with_reducible assumption | intro _ | with_reducible refine keeps_setReg ?_ | with_reducible refine keeps_w1c ?_ | with_reducible refine keeps_noteWrite ?_ | with_reducible refine keeps_violation ?_ | with_reducible refine keeps_accError ?_ | with_reducible refine keeps_keepRate ?_ | with_reducible refine keeps_writeIncFrac ?_ | with_reducible refine keeps_writeIncNs ?_ | with_reducible refine keeps_writeSlewCount ?_ | with_reducible refine keeps_writeBaseCtl ?_ | with_reducible refine keeps_writeEvtCtl ?_ | with_reducible refine keeps_snapshot ?_ | with_reducible refine keeps_consumeIn ?_ | with_reducible refine keeps_d2hClear ?_ | with_reducible refine keeps_writeCycStart ?_ | with_reducible refine keeps_writeSwapCtl ?_ | with_reducible refine keeps_writeCons ?_ | with_reducible refine keeps_writeMode ?_ | with_reducible refine keeps_writeDeep ?_ | with_reducible refine keeps_writeTail ?_ | with_reducible refine keeps_ringOff ?_ | with_reducible refine keeps_commitLane ?_ | with_reducible refine keeps_requestReset ?_ | with_reducible refine keeps_plainWrite ?_ | with_reducible refine keeps_revoke ?_ | with_reducible refine keeps_lockWrite ?_ | with_reducible refine keeps_wdtWrite ?_ | with_reducible refine keeps_writePortCfg ?_ | with_reducible refine keeps_writeSchAct ?_ | with_reducible refine keeps_mbWrite ?_ | with_reducible refine keeps_ite ?_ ?_ | split)

theorem keeps_aliasWrite {who : Sender} {party : Nat} {k : Nat} {r : Reg} {i : Nat} {v : Word} {s : State} (hS : Keeps M S0 s) (hr : M.may r = true := by first | assumption | exact Change.may_of_le (by assumption) (by decide +kernel) | exact Change.may_ite (by assumption) (by decide +kernel) (by decide +kernel) | exact Change.may_ite_fld (by assumption) (by decide +kernel) (by decide +kernel) | exact Change.may_of_any (Change.any_of_le (by assumption) (by decide +kernel)))
    (hM : Change.le { parts := [.meet, .cnt], anyReg := true } M = true := by first | assumption | exact Change.le_trans (by assumption) (by decide +kernel)) :
    Keeps M S0 (State.aliasWrite s who party k r i v) := by
  unfold State.aliasWrite
  dsimp only
  repeat' (first | with_reducible assumption | intro _ | with_reducible refine keeps_setReg ?_ | with_reducible refine keeps_w1c ?_ | with_reducible refine keeps_noteWrite ?_ | with_reducible refine keeps_accError ?_ | with_reducible refine keeps_h2dSet ?_ | with_reducible refine keeps_ite ?_ ?_ | split)

theorem keeps_writeWord {who : Sender} {party : Nat} {y : Nat} {v : Word} {s : State} (hS : Keeps M S0 s)
    (hM : Change.le { parts := [.time, .meet, .cnt, .samp, .pkts, .log, .boot, .ks, .tab, .path, .lanes, .host, .tree, .shadow, .out], anyReg := true } M = true := by first | assumption | exact Change.le_trans (by assumption) (by decide +kernel)) :
    KeepsOpt M S0 (State.writeWord s who party y v) := by
  unfold State.writeWord
  dsimp only
  repeat' (first | with_reducible assumption | intro _ | with_reducible refine keeps_writeReg ?_ | with_reducible refine keeps_aliasWrite ?_ | with_reducible refine keeps_some ?_ | with_reducible refine keeps_none | with_reducible refine keeps_ite ?_ ?_ | with_reducible refine keeps_ite_opt ?_ ?_ | split)

theorem keeps_busWrite {who : Sender} {y : Nat} {v : Word} {s : State} (hS : Keeps M S0 s)
    (hM : Change.le { parts := [.time, .meet, .cnt, .samp, .pkts, .log, .boot, .ks, .tab, .path, .lanes, .host, .tree, .shadow, .out], anyReg := true } M = true := by first | assumption | exact Change.le_trans (by assumption) (by decide +kernel)) :
    KeepsOpt M S0 (State.busWrite s who y v) := by
  unfold State.busWrite
  repeat' (first | with_reducible assumption | with_reducible refine keeps_violation ?_ | with_reducible refine keeps_writeWord ?_ | with_reducible refine keeps_some ?_ | split)

theorem keeps_busWrites {who : Sender} {y : Nat} {l : List Word} {s : State} (h : Keeps M S0 s)
    (hM : Change.le { parts := [.time, .meet, .cnt, .samp, .pkts, .log, .boot, .ks, .tab, .path, .lanes, .host, .tree, .shadow, .out], anyReg := true } M = true := by first | assumption | exact Change.le_trans (by assumption) (by decide +kernel)) :
    KeepsExc M S0 (busWrites who y l s) := by
  induction l generalizing y s with
  | nil => exact keeps_ok h
  | cons v t ih =>
    unfold busWrites
    split
    · exact ih (keeps_eq_some (by assumption) (keeps_busWrite h))
    · exact keeps_error

theorem keeps_writeOutcome {who : Sender} {y : Nat} {ws : List Word} {s : State} (hS : Keeps M S0 s)
    (hM : Change.le { parts := [.time, .meet, .cnt, .samp, .pkts, .log, .boot, .ks, .tab, .path, .lanes, .host, .tree, .shadow, .out], anyReg := true } M = true := by first | assumption | exact Change.le_trans (by assumption) (by decide +kernel)) :
    KeepsOut M S0 (writeOutcome who y ws s) := by
  unfold writeOutcome
  repeat' (first | with_reducible assumption | with_reducible refine keeps_busWrites ?_ | with_reducible refine keeps_next ?_ | with_reducible refine keeps_fault | with_reducible refine keeps_eq_ok (by assumption) ?_ | split)

theorem keeps_execRegisterWrite {who : Sender} {offset : Nat} {words : List Word} {enables : Bool} {s : State} (hS : Keeps M S0 s)
    (hM : Change.le { parts := [.time, .meet, .cnt, .samp, .pkts, .log, .boot, .ks, .tab, .path, .lanes, .host, .tree, .shadow, .out], anyReg := true } M = true := by first | assumption | exact Change.le_trans (by assumption) (by decide +kernel)) :
    KeepsOut M S0 (execRegisterWrite who offset words enables s) := by
  unfold execRegisterWrite
  repeat' (first | with_reducible assumption | intro _ | with_reducible refine keeps_accError ?_ | with_reducible refine keeps_writeOutcome ?_ | with_reducible refine keeps_next ?_ | with_reducible refine keeps_ite_out ?_ ?_)

theorem keeps_aliasAt {who : Sender} {k : Nat} {offset : Nat} {bits : Word} {s : State} (hS : Keeps M S0 s)
    (hM : Change.le { parts := [.time, .meet, .cnt, .samp, .pkts, .log, .boot, .ks, .tab, .path, .lanes, .host, .tree, .shadow, .out], anyReg := true } M = true := by first | assumption | exact Change.le_trans (by assumption) (by decide +kernel)) :
    KeepsOut M S0 (aliasAt who k offset bits s) := by
  unfold aliasAt
  repeat' (first | with_reducible assumption | intro _ | with_reducible refine keeps_accError ?_ | with_reducible refine keeps_writeOutcome ?_ | with_reducible refine keeps_next ?_ | with_reducible refine keeps_ite_out ?_ ?_)

theorem keeps_execAliasSet {who : Sender} {offset : Nat} {bits : Word} {s : State} (hS : Keeps M S0 s)
    (hM : Change.le { parts := [.time, .meet, .cnt, .samp, .pkts, .log, .boot, .ks, .tab, .path, .lanes, .host, .tree, .shadow, .out], anyReg := true } M = true := by first | assumption | exact Change.le_trans (by assumption) (by decide +kernel)) :
    KeepsOut M S0 (execAliasSet who offset bits s) := by
  unfold execAliasSet
  repeat' (first | with_reducible assumption | with_reducible refine keeps_aliasAt ?_)

theorem keeps_execAliasClear {who : Sender} {offset : Nat} {bits : Word} {s : State} (hS : Keeps M S0 s)
    (hM : Change.le { parts := [.time, .meet, .cnt, .samp, .pkts, .log, .boot, .ks, .tab, .path, .lanes, .host, .tree, .shadow, .out], anyReg := true } M = true := by first | assumption | exact Change.le_trans (by assumption) (by decide +kernel)) :
    KeepsOut M S0 (execAliasClear who offset bits s) := by
  unfold execAliasClear
  repeat' (first | with_reducible assumption | with_reducible refine keeps_aliasAt ?_)

theorem keeps_execAliasToggle {who : Sender} {offset : Nat} {bits : Word} {s : State} (hS : Keeps M S0 s)
    (hM : Change.le { parts := [.time, .meet, .cnt, .samp, .pkts, .log, .boot, .ks, .tab, .path, .lanes, .host, .tree, .shadow, .out], anyReg := true } M = true := by first | assumption | exact Change.le_trans (by assumption) (by decide +kernel)) :
    KeepsOut M S0 (execAliasToggle who offset bits s) := by
  unfold execAliasToggle
  repeat' (first | with_reducible assumption | with_reducible refine keeps_aliasAt ?_)

theorem keeps_readAt {who : Sender} {offset : Nat} {s : State} (hS : Keeps M S0 s)
    (hM : Change.le { parts := [.time, .meet, .cnt, .out, .free], anyReg := true } M = true := by first | assumption | exact Change.le_trans (by assumption) (by decide +kernel)) :
    KeepsOut M S0 (readAt who offset s) := by
  unfold readAt
  dsimp only
  repeat' (first | with_reducible assumption | intro _ | with_reducible refine keeps_emit ?_ | with_reducible refine keeps_accError ?_ | with_reducible refine keeps_busRead ?_ | with_reducible refine keeps_next ?_ | with_reducible refine keeps_ite_out ?_ ?_)

theorem keeps_execRcRead {who : Sender} {offset : Nat} {s : State} (hS : Keeps M S0 s)
    (hM : Change.le { parts := [.time, .meet, .cnt, .out, .free], anyReg := true } M = true := by first | assumption | exact Change.le_trans (by assumption) (by decide +kernel)) :
    KeepsOut M S0 (execRcRead who offset s) := by
  unfold execRcRead
  repeat' (first | with_reducible assumption | with_reducible refine keeps_readAt ?_)

theorem keeps_execHoldingSumRead {who : Sender} {offset : Nat} {s : State} (hS : Keeps M S0 s)
    (hM : Change.le { parts := [.time, .meet, .cnt, .out, .free], anyReg := true } M = true := by first | assumption | exact Change.le_trans (by assumption) (by decide +kernel)) :
    KeepsOut M S0 (execHoldingSumRead who offset s) := by
  unfold execHoldingSumRead
  repeat' (first | with_reducible assumption | with_reducible refine keeps_readAt ?_)

end Sys2Proof.Machine
end

