-- ==== Sys2Proof/Laws/KeepsSchedule.lean ====
section
/-!
SUPPORT. Each operation and meaning of Machine/Schedule.lean keeps what no command may lose and changes nothing but what it names.
-/
set_option Elab.async false
namespace Sys2Proof.Machine
open Sys2Proof
variable {M : Change} {S0 : State}

theorem keeps_schedRecord {handle : Nat} {cause : Nat} {s : State} (hS : Keeps M S0 s)
    (hM : Change.le { parts := [.log] } M = true := by first | assumption | exact Change.le_trans (by assumption) (by decide +kernel)) :
    Keeps M S0 (State.schedRecord s handle cause) := by
  unfold State.schedRecord
  repeat' (first | with_reducible assumption | with_reducible refine keeps_logEvent ?_)

theorem keeps_modeDone {h : Held} {s : State} (hS : Keeps M S0 s)
    (hM : Change.le { parts := [.path], regs := [.dtQcfgRsv, .qmQmode] } M = true := by first | assumption | exact Change.le_trans (by assumption) (by decide +kernel)) :
    Keeps M S0 (State.modeDone s h) := by
  unfold State.modeDone
  repeat' (first | with_reducible assumption | intro _ | with_reducible refine keeps_recompute ?_ | with_reducible refine keeps_ite ?_ ?_ | split)

theorem keeps_entryEnds {e : Nat} {cause : Nat} {s : State} (hS : Keeps M S0 s)
    (hM : Change.le { parts := [.tick, .log, .path], regs := [.dtQcfgRsv, .qmQmode] } M = true := by first | assumption | exact Change.le_trans (by assumption) (by decide +kernel)) :
    Keeps M S0 (State.entryEnds s e cause) := by
  unfold State.entryEnds
  dsimp only
  repeat' (first | with_reducible assumption | with_reducible refine keeps_schedRecord ?_ | with_reducible refine keeps_modeDone ?_ | (simp only [keeps_mk]; with_reducible refine keeps_updk ?_) | split)

theorem keeps_missHeld {h : Held} {cause : Nat} {s : State} (hS : Keeps M S0 s)
    (hM : Change.le { parts := [.tick, .log, .path], regs := [.dtQcfgRsv, .qmQmode] } M = true := by first | assumption | exact Change.le_trans (by assumption) (by decide +kernel)) :
    Keeps M S0 (State.missHeld s h cause) := by
  unfold State.missHeld
  dsimp only
  repeat' (first | with_reducible assumption | with_reducible refine keeps_schedRecord ?_ | with_reducible refine keeps_modeDone ?_ | (simp only [keeps_mk]; with_reducible refine keeps_updk ?_))

theorem keeps_armEntry {e : Nat} {tgt : Nat} {handle : Nat} {a : SchedAct} {s : State} (hS : Keeps M S0 s)
    (hM : Change.le { parts := [.tick, .meet, .log, .path], regs := [.dtQcfgRsv, .qmQmode, .tickSchAct, .tickSchAddr, .tickSchData, .tickSchMissed, .tickSchTgt] } M = true := by first | assumption | exact Change.le_trans (by assumption) (by decide +kernel)) :
    Keeps M S0 (State.armEntry s e tgt handle a) := by
  unfold State.armEntry
  dsimp only
  repeat' (first | with_reducible assumption | intro _ | with_reducible refine keeps_setReg ?_ | with_reducible refine keeps_writeSchAct ?_ | with_reducible refine keeps_entryEnds ?_ | with_reducible refine keeps_ite ?_ ?_)

theorem keeps_placeHeld {h : Held} {s : State} (hS : Keeps M S0 s)
    (hM : Change.le { parts := [.tick, .meet, .log, .path], regs := [.dtQcfgRsv, .qmQmode, .tickSchAct, .tickSchAddr, .tickSchData, .tickSchMissed, .tickSchTgt] } M = true := by first | assumption | exact Change.le_trans (by assumption) (by decide +kernel)) :
    Keeps M S0 (State.placeHeld s h) := by
  unfold State.placeHeld
  dsimp only
  repeat' (first | with_reducible assumption | intro _ | with_reducible refine keeps_armEntry ?_ | with_reducible refine keeps_foldl ?_ ?_ | (simp only [keeps_mk]; with_reducible refine keeps_updk ?_))

theorem keeps_checkHeld {h : Held} {s : State} (hS : Keeps M S0 s)
    (hM : Change.le { parts := [.tick, .meet, .log, .path], regs := [.dtQcfgRsv, .qmQmode, .tickSchAct, .tickSchAddr, .tickSchData, .tickSchMissed, .tickSchTgt] } M = true := by first | assumption | exact Change.le_trans (by assumption) (by decide +kernel)) :
    Keeps M S0 (State.checkHeld s h) := by
  unfold State.checkHeld
  repeat' (first | with_reducible assumption | intro _ | with_reducible refine keeps_missHeld ?_ | with_reducible refine keeps_placeHeld ?_ | with_reducible refine keeps_ite ?_ ?_)

theorem keeps_checkOutputs {s : State} (hS : Keeps M S0 s)
    (hM : Change.le { parts := [.time, .meet, .out], regs := [.tsEvtCtl, .tsEvtFrac, .tsEvtPeriod, .tsEvtStart, .tsEvtStat, .tsEvtWidth] } M = true := by first | assumption | exact Change.le_trans (by assumption) (by decide +kernel)) :
    Keeps M S0 (State.checkOutputs s) := by
  unfold State.checkOutputs
  dsimp only
  repeat' (first | with_reducible assumption | intro _ | with_reducible refine keeps_evtProgram ?_ | with_reducible refine keeps_ite ?_ ?_ | with_reducible refine keeps_foldl ?_ ?_ | (simp only [keeps_mk]; with_reducible refine keeps_updt ?_))

theorem keeps_checkAll {s : State} (hS : Keeps M S0 s)
    (hM : Change.le { parts := [.tick, .time, .meet, .log, .path, .out], regs := [.dtQcfgRsv, .gclStat, .gclSwapCtl, .gclSwapTgt, .qmQmode, .tickSchAct, .tickSchAddr, .tickSchData, .tickSchMissed, .tickSchTgt, .tsEvtCtl, .tsEvtFrac, .tsEvtPeriod, .tsEvtStart, .tsEvtStat, .tsEvtWidth] } M = true := by first | assumption | exact Change.le_trans (by assumption) (by decide +kernel)) :
    Keeps M S0 (State.checkAll s) := by
  unfold State.checkAll
  repeat' (first | with_reducible assumption | intro _ | with_reducible refine keeps_checkSwaps ?_ | with_reducible refine keeps_checkHeld ?_ | with_reducible refine keeps_checkOutputs ?_ | with_reducible refine keeps_foldl ?_ ?_)

theorem keeps_execHeldListCheck {s : State} (hS : Keeps M S0 s)
    (hM : Change.le { parts := [.tick, .time, .meet, .log, .path, .out], regs := [.dtQcfgRsv, .gclStat, .gclSwapCtl, .gclSwapTgt, .qmQmode, .tickSchAct, .tickSchAddr, .tickSchData, .tickSchMissed, .tickSchTgt, .tsEvtCtl, .tsEvtFrac, .tsEvtPeriod, .tsEvtStart, .tsEvtStat, .tsEvtWidth] } M = true := by first | assumption | exact Change.le_trans (by assumption) (by decide +kernel)) :
    KeepsOut M S0 (execHeldListCheck s) := by
  unfold execHeldListCheck
  repeat' (first | with_reducible assumption | intro _ | with_reducible refine keeps_checkAll ?_ | with_reducible refine keeps_next ?_ | with_reducible refine keeps_ite_out ?_ ?_)

theorem keeps_execScheduleEntryArm {who : Sender} {e : Nat} {v : Word} {s : State} (hS : Keeps M S0 s)
    (hM : Change.le { parts := [.meet, .cnt], regs := [.glbAccAddr, .glbAccInfo, .glbStat, .glbUpdInfo, .protStat, .protViolAddr, .protViolInfo, .tickSchAct, .tickSchMissed] } M = true := by first | assumption | exact Change.le_trans (by assumption) (by decide +kernel)) :
    KeepsOut M S0 (execScheduleEntryArm who e v s) := by
  unfold execScheduleEntryArm
  repeat' (first | with_reducible assumption | intro _ | with_reducible refine keeps_noteWrite ?_ | with_reducible refine keeps_ccWrite ?_ ?_ | with_reducible refine keeps_writeSchAct ?_ | with_reducible refine keeps_next ?_ | with_reducible refine keeps_ite_out ?_ ?_)

theorem keeps_regwrite {y : Nat} {v : Word} {s : State} (hS : Keeps M S0 s)
    (hM : Change.le { parts := [.time, .meet, .cnt, .samp, .pkts, .log, .boot, .ks, .tab, .path, .lanes, .host, .tree, .shadow, .out], anyReg := true } M = true := by first | assumption | exact Change.le_trans (by assumption) (by decide +kernel)) :
    KeepsOpt M S0 (State.regwrite s y v) := by
  unfold State.regwrite
  dsimp only
  repeat' (first | with_reducible assumption | intro _ | with_reducible refine keeps_writeWord ?_ | with_reducible refine keeps_some ?_ | with_reducible refine keeps_none | with_reducible refine keeps_ite_opt ?_ ?_ | (simp only [keeps_mk]; with_reducible refine keeps_updt ?_) | with_reducible refine keeps_eq_some (by assumption) ?_ | split)

theorem keeps_regwrites {l : List Nat} {s : State} (h : Keeps M S0 s)
    (hM : Change.le { parts := [.time, .meet, .cnt, .samp, .pkts, .log, .boot, .ks, .tab, .path, .lanes, .host, .tree, .shadow, .out], anyReg := true } M = true := by first | assumption | exact Change.le_trans (by assumption) (by decide +kernel)) :
    KeepsExc M S0 (regwrites l s) := by
  induction l generalizing s with
  | nil => exact keeps_ok h
  | cons v t ih =>
    unfold regwrites
    split
    · exact ih (keeps_eq_some (by assumption) (keeps_regwrite h))
    · exact keeps_error

theorem keeps_endEntry {e : Nat} {cause : Nat} {s : State} (hS : Keeps M S0 s)
    (hM : Change.le { parts := [.tick, .meet, .cnt, .log, .path], regs := [.dtQcfgRsv, .glbStat, .glbUpdInfo, .qmQmode, .tickSchAct, .tickSchDone, .tickSchMissed] } M = true := by first | assumption | exact Change.le_trans (by assumption) (by decide +kernel)) :
    Keeps M S0 (State.endEntry s e cause) := by
  unfold State.endEntry
  dsimp only
  repeat' (first | with_reducible assumption | intro _ | with_reducible refine keeps_setFld ?_ | with_reducible refine keeps_raiseBits ?_ | with_reducible refine keeps_hwFld ?_ | with_reducible refine keeps_entryEnds ?_ | with_reducible refine keeps_ite ?_ ?_)

theorem keeps_execScheduleEntryDue {s : State} (h : Keeps M S0 s)
    (hM : Change.le { parts := [.tick, .time, .meet, .cnt, .samp, .pkts, .log, .boot, .ks, .tab, .path, .lanes, .host, .tree, .shadow, .out], anyReg := true } M = true := by first | assumption | exact Change.le_trans (by assumption) (by decide +kernel)) :
    KeepsOut M S0 (execScheduleEntryDue s) := by
  unfold execScheduleEntryDue
  dsimp only
  split
  · exact keeps_fault
  · rename_i e
    have h2 := keeps_eq_ok e (keeps_regwrites (keeps_ite (fun _ => h) fun _ => keeps_snapshot h))
    exact keeps_next (keeps_foldl (keeps_foldl h2 fun _ _ h => keeps_d2hSet h) fun _ _ h => keeps_endEntry h)

theorem keeps_reconvertHeld {h : Held} {s : State} (hS : Keeps M S0 s)
    (hM : Change.le { parts := [.tick, .meet, .log, .path], regs := [.dtQcfgRsv, .qmQmode, .tickSchAct, .tickSchAddr, .tickSchData, .tickSchMissed, .tickSchTgt] } M = true := by first | assumption | exact Change.le_trans (by assumption) (by decide +kernel)) :
    Keeps M S0 (State.reconvertHeld s h) := by
  unfold State.reconvertHeld
  dsimp only
  repeat' (first | with_reducible assumption | intro _ | with_reducible refine keeps_setFld ?_ | with_reducible refine keeps_missHeld ?_ | with_reducible refine keeps_checkHeld ?_ | with_reducible refine keeps_ite ?_ ?_ | with_reducible refine keeps_foldl ?_ ?_ | (simp only [keeps_mk]; with_reducible refine keeps_updk ?_))

theorem keeps_reconvertGates {p : Nat} {s : State} (hS : Keeps M S0 s)
    (hM : Change.le { parts := [.meet], regs := [.gclCycStart, .gclStat, .gclSwapTgt] } M = true := by first | assumption | exact Change.le_trans (by assumption) (by decide +kernel)) :
    Keeps M S0 (State.reconvertGates s p) := by
  unfold State.reconvertGates
  dsimp only
  repeat' (first | with_reducible assumption | intro _ | with_reducible refine keeps_setReg ?_ | with_reducible refine keeps_writeCycStart ?_ | with_reducible refine keeps_ite ?_ ?_)

theorem keeps_reconvertOutput {h : EvtHeld} {s : State} (hS : Keeps M S0 s)
    (hM : Change.le { parts := [.time, .meet, .out], regs := [.tsEvtCtl, .tsEvtFrac, .tsEvtPeriod, .tsEvtStart, .tsEvtStat, .tsEvtWidth] } M = true := by first | assumption | exact Change.le_trans (by assumption) (by decide +kernel)) :
    Keeps M S0 (State.reconvertOutput s h) := by
  unfold State.reconvertOutput
  repeat' (first | with_reducible assumption | intro _ | with_reducible refine keeps_evtProgram ?_ | with_reducible refine keeps_ite ?_ ?_ | split)

theorem keeps_execScheduleReconvert {s : State} (hS : Keeps M S0 s)
    (hM : Change.le { parts := [.tick, .time, .meet, .log, .path, .out], regs := [.dtQcfgRsv, .gclCycStart, .gclStat, .gclSwapCtl, .gclSwapTgt, .qmQmode, .tickSchAct, .tickSchAddr, .tickSchData, .tickSchMissed, .tickSchTgt, .tsEvtCtl, .tsEvtFrac, .tsEvtPeriod, .tsEvtStart, .tsEvtStat, .tsEvtWidth] } M = true := by first | assumption | exact Change.le_trans (by assumption) (by decide +kernel)) :
    KeepsOut M S0 (execScheduleReconvert s) := by
  unfold execScheduleReconvert
  dsimp only
  repeat' (first | with_reducible assumption | intro _ | with_reducible refine keeps_checkAll ?_ | with_reducible refine keeps_reconvertHeld ?_ | with_reducible refine keeps_reconvertGates ?_ | with_reducible refine keeps_reconvertOutput ?_ | with_reducible refine keeps_next ?_ | with_reducible refine keeps_ite_out ?_ ?_ | with_reducible refine keeps_foldl ?_ ?_ | (simp only [keeps_mk]; with_reducible refine keeps_updt ?_))

theorem keeps_acceptHeld {time : Nat} {acts : List SchedAct} {modePort : Option Nat} {s : State} (hS : Keeps M S0 s)
    (hM : Change.le { parts := [.tick, .meet, .log, .path], regs := [.dtQcfgRsv, .qmQmode, .tickSchAct, .tickSchAddr, .tickSchData, .tickSchMissed, .tickSchTgt] } M = true := by first | assumption | exact Change.le_trans (by assumption) (by decide +kernel)) :
    Keeps M S0 (State.acceptHeld s time acts modePort).1 := by
  unfold State.acceptHeld
  dsimp only
  repeat' (first | with_reducible assumption | with_reducible refine keeps_checkHeld ?_ | (simp only [keeps_mk]; with_reducible refine keeps_updk ?_))

theorem keeps_scheduleAs {a : Args} {o : Option Status} {s : State} (h : Keeps M S0 s)
    (hM : Change.le { parts := [.tick, .meet, .log, .path], regs := [.dtQcfgRsv, .qmQmode, .tickSchAct, .tickSchAddr, .tickSchData, .tickSchMissed, .tickSchTgt] } M = true := by first | assumption | exact Change.le_trans (by assumption) (by decide +kernel)) :
    Keeps M S0 (s.scheduleAs a o).2.2 := by
  cases o with
  | some e => exact h
  | none => exact keeps_acceptHeld h

theorem keeps_scheduleHere {a : Args} {s : State} (h : Keeps M S0 s)
    (hM : Change.le { parts := [.tick, .meet, .log, .path], regs := [.dtQcfgRsv, .qmQmode, .tickSchAct, .tickSchAddr, .tickSchData, .tickSchMissed, .tickSchTgt] } M = true := by first | assumption | exact Change.le_trans (by assumption) (by decide +kernel)) :
    Keeps M S0 (s.scheduleHere a).2.2 := keeps_scheduleAs h

theorem keeps_execScheduleCancel {p : Packet} {s : State} (hS : Keeps M S0 s)
    (hM : Change.le { parts := [.tick, .pkts, .log, .path], regs := [.dtQcfgRsv, .qmQmode, .tickSchAct] } M = true := by first | assumption | exact Change.le_trans (by assumption) (by decide +kernel)) :
    KeepsOut M S0 (execScheduleCancel p s) := by
  unfold execScheduleCancel
  dsimp only
  repeat' (first | with_reducible assumption | intro _ | with_reducible refine keeps_setFld ?_ | with_reducible refine keeps_Res_discard ?_ | with_reducible refine keeps_Res_ok ?_ | with_reducible refine keeps_guarded ?_ ?_ | with_reducible refine keeps_runPacket ?_ ?_ | with_reducible refine keeps_modeDone ?_ | with_reducible refine keeps_foldl ?_ ?_ | (simp only [keeps_mk]; with_reducible refine keeps_updk ?_) | split)

theorem keeps_execScheduleList {p : Packet} {s : State} (hS : Keeps M S0 s)
    (hM : Change.le { parts := [.pkts, .log, .out] } M = true := by first | assumption | exact Change.le_trans (by assumption) (by decide +kernel)) :
    KeepsOut M S0 (execScheduleList p s) := by
  unfold execScheduleList
  dsimp only
  repeat' (first | with_reducible assumption | intro _ | with_reducible refine keeps_Res_ok ?_ | with_reducible refine keeps_guarded ?_ ?_ | with_reducible refine keeps_dmaWrite ?_ ?_ | with_reducible refine keeps_runPacket ?_ ?_ | with_reducible refine keeps_ite_res ?_ ?_)

end Sys2Proof.Machine
end

