-- ==== Sys2Proof/Laws/KeepsTree.lean ====
section
/-!
SUPPORT. Each operation and meaning of Machine/Tree.lean keeps what no command may lose and changes nothing but what it names.
-/
set_option Elab.async false
namespace Sys2Proof.Machine
open Sys2Proof
variable {M : Change} {S0 : State}

theorem keeps_setRl {k : Nat} {p : RlPort} {s : State} (hS : Keeps M S0 s)
    (hM : Change.le { parts := [.tree] } M = true := by first | assumption | exact Change.le_trans (by assumption) (by decide +kernel)) :
    Keeps M S0 (State.setRl s k p) := by
  unfold State.setRl
  dsimp only
  repeat' (first | with_reducible assumption | (simp only [keeps_mk]; with_reducible refine keeps_upd ?_))

theorem keeps_onRl {k : Nat} {f : RlPort → RlPort} {s : State} (hS : Keeps M S0 s)
    (hM : Change.le { parts := [.tree] } M = true := by first | assumption | exact Change.le_trans (by assumption) (by decide +kernel)) :
    Keeps M S0 (State.onRl s k f) := by
  unfold State.onRl
  repeat' (first | with_reducible assumption | with_reducible refine keeps_setRl ?_)

theorem keeps_sendHello {k : Nat} {s : State} (hS : Keeps M S0 s)
    (hM : Change.le { parts := [.tree, .out] } M = true := by first | assumption | exact Change.le_trans (by assumption) (by decide +kernel)) :
    Keeps M S0 (State.sendHello s k) := by
  unfold State.sendHello
  repeat' (first | with_reducible assumption | with_reducible refine keeps_emit ?_ | with_reducible refine keeps_onRl ?_)

theorem keeps_transmit {k : Nat} {x : RlPacket} {s : State} (hS : Keeps M S0 s)
    (hM : Change.le { parts := [.tree, .out] } M = true := by first | assumption | exact Change.le_trans (by assumption) (by decide +kernel)) :
    Keeps M S0 (State.transmit s k x) := by
  unfold State.transmit
  dsimp only
  repeat' (first | with_reducible assumption | with_reducible refine keeps_emit ?_ | with_reducible refine keeps_setRl ?_)

theorem keeps_sendSeq {k : Nat} {x : RlPacket} {s : State} (hS : Keeps M S0 s)
    (hM : Change.le { parts := [.tree, .out] } M = true := by first | assumption | exact Change.le_trans (by assumption) (by decide +kernel)) :
    Keeps M S0 (State.sendSeq s k x) := by
  unfold State.sendSeq
  dsimp only
  repeat' (first | with_reducible assumption | intro _ | with_reducible refine keeps_setRl ?_ | with_reducible refine keeps_transmit ?_ | with_reducible refine keeps_ite ?_ ?_)

theorem keeps_releaseWaiting {k : Nat} {l : List RlPacket} {s : State} (h : Keeps M S0 s)
    (hM : Change.le { parts := [.tree, .out] } M = true := by first | assumption | exact Change.le_trans (by assumption) (by decide +kernel)) :
    Keeps M S0 (releaseWaiting k l s) := by
  induction l generalizing s with
  | nil => exact h
  | cons x t ih =>
    unfold releaseWaiting
    split
    · exact ih (keeps_onRl (keeps_sendSeq (keeps_setRl h)))
    · exact h

theorem keeps_ackUpTo {k : Nat} {a : Nat} {s : State} (hS : Keeps M S0 s)
    (hM : Change.le { parts := [.tree, .out] } M = true := by first | assumption | exact Change.le_trans (by assumption) (by decide +kernel)) :
    Keeps M S0 (State.ackUpTo s k a) := by
  unfold State.ackUpTo
  dsimp only
  repeat' (first | with_reducible assumption | intro _ | with_reducible refine keeps_setRl ?_ | with_reducible refine keeps_releaseWaiting ?_ | with_reducible refine keeps_ite ?_ ?_)

theorem keeps_sendAck {k : Nat} {nak : Bool} {s : State} (hS : Keeps M S0 s)
    (hM : Change.le { parts := [.tree, .out] } M = true := by first | assumption | exact Change.le_trans (by assumption) (by decide +kernel)) :
    Keeps M S0 (State.sendAck s k nak) := by
  unfold State.sendAck
  dsimp only
  repeat' (first | with_reducible assumption | with_reducible refine keeps_emit ?_ | with_reducible refine keeps_setRl ?_)

theorem keeps_setRoutable {n : Nat} {on : Bool} {s : State} (hS : Keeps M S0 s)
    (hM : Change.le { regs := [.rlNodeValidHi, .rlNodeValidLo] } M = true := by first | assumption | exact Change.le_trans (by assumption) (by decide +kernel)) :
    Keeps M S0 (State.setRoutable s n on) := by
  unfold State.setRoutable
  dsimp only
  repeat' (first | with_reducible assumption | intro _ | with_reducible refine keeps_setBit ?_ | with_reducible refine keeps_clearBit ?_ | with_reducible refine keeps_ite ?_ ?_)

theorem keeps_unreachable {s : State} (hS : Keeps M S0 s)
    (hM : Change.le { parts := [.meet, .cnt], regs := [.rlStat] } M = true := by first | assumption | exact Change.le_trans (by assumption) (by decide +kernel)) :
    Keeps M S0 (State.unreachable s) := by
  unfold State.unreachable
  repeat' (first | with_reducible assumption | with_reducible refine keeps_raise ?_ | with_reducible refine keeps_count ?_)

theorem keeps_sendTo {x : RlPacket} {s : State} (hS : Keeps M S0 s)
    (hM : Change.le { parts := [.meet, .cnt, .tree, .out], regs := [.rlStat] } M = true := by first | assumption | exact Change.le_trans (by assumption) (by decide +kernel)) :
    Keeps M S0 (State.sendTo s x) := by
  unfold State.sendTo
  repeat' (first | with_reducible assumption | intro _ | with_reducible refine keeps_sendSeq ?_ | with_reducible refine keeps_unreachable ?_ | with_reducible refine keeps_ite ?_ ?_ | split)

theorem keeps_fanResult {f : FanOut} {status : Nat} {handle : Nat} {s : State} (hS : Keeps M S0 s)
    (hM : Change.le { parts := [.pkts, .log, .tab, .tree] } M = true := by first | assumption | exact Change.le_trans (by assumption) (by decide +kernel)) :
    Keeps M S0 (State.fanResult s f status handle) := by
  unfold State.fanResult
  dsimp only
  repeat' (first | with_reducible assumption | with_reducible refine keeps_stepJob ?_ | (simp only [keeps_mk]; with_reducible refine keeps_upd ?_))

theorem keeps_readDone {x : RemoteRead} {ws : List Word} {s : State} (hS : Keeps M S0 s)
    (hM : Change.le { parts := [.pkts, .log, .tab, .tree, .out] } M = true := by first | assumption | exact Change.le_trans (by assumption) (by decide +kernel)) :
    Keeps M S0 (State.readDone s x ws) := by
  unfold State.readDone
  dsimp only
  repeat' (first | with_reducible assumption | with_reducible refine keeps_emit ?_ | with_reducible refine keeps_stepJob ?_ | (simp only [keeps_mk]; with_reducible refine keeps_upd ?_) | split)

theorem keeps_readFails {x : RemoteRead} {s : State} (hS : Keeps M S0 s)
    (hM : Change.le { parts := [.meet, .cnt, .pkts, .log, .tab, .tree, .out], regs := [.rlStat] } M = true := by first | assumption | exact Change.le_trans (by assumption) (by decide +kernel)) :
    Keeps M S0 (State.readFails s x) := by
  unfold State.readFails
  dsimp only
  repeat' (first | with_reducible assumption | with_reducible refine keeps_stepJob ?_ | with_reducible refine keeps_unreachable ?_ | with_reducible refine keeps_readDone ?_ | (simp only [keeps_mk]; with_reducible refine keeps_upd ?_) | split)

theorem keeps_pumpReads {l : List RemoteRead} {s : State} (h : Keeps M S0 s)
    (hM : Change.le { parts := [.meet, .cnt, .pkts, .log, .tab, .tree, .out], regs := [.rlStat] } M = true := by first | assumption | exact Change.le_trans (by assumption) (by decide +kernel)) :
    Keeps M S0 (pumpReads l s) := by
  induction l generalizing s with
  | nil => exact h
  | cons x t ih =>
    unfold pumpReads
    split
    · exact h
    · split
      · exact ih (keeps_readFails h)
      · exact ih (keeps_sendTo (keeps_upd h))

theorem keeps_pump {s : State} (hS : Keeps M S0 s)
    (hM : Change.le { parts := [.meet, .cnt, .pkts, .log, .tab, .tree, .out], regs := [.rlStat] } M = true := by first | assumption | exact Change.le_trans (by assumption) (by decide +kernel)) :
    Keeps M S0 (State.pump s) := by
  unfold State.pump
  repeat' (first | with_reducible assumption | with_reducible refine keeps_pumpReads ?_)

theorem keeps_loseNodes {mask : Nat} {s : State} (hS : Keeps M S0 s)
    (hM : Change.le { parts := [.meet, .pkts, .log, .tab, .tree], regs := [.rlNodeValidHi, .rlNodeValidLo, .rlRoute, .rlStat] } M = true := by first | assumption | exact Change.le_trans (by assumption) (by decide +kernel)) :
    Keeps M S0 (State.loseNodes s mask) := by
  unfold State.loseNodes
  dsimp only
  repeat' (first | with_reducible assumption | intro _ | with_reducible refine keeps_setFld ?_ | with_reducible refine keeps_raise ?_ | with_reducible refine keeps_setRoutable ?_ | with_reducible refine keeps_fanResult ?_ | with_reducible refine keeps_ite ?_ ?_ | with_reducible refine keeps_foldl ?_ ?_)

theorem keeps_sendLost {mask : Nat} {s : State} (hS : Keeps M S0 s)
    (hM : Change.le { parts := [.tree, .out] } M = true := by first | assumption | exact Change.le_trans (by assumption) (by decide +kernel)) :
    Keeps M S0 (State.sendLost s mask) := by
  unfold State.sendLost
  repeat' (first | with_reducible assumption | intro _ | with_reducible refine keeps_sendSeq ?_ | with_reducible refine keeps_ite ?_ ?_ | split)

theorem keeps_leaveActive {k : Nat} {was : Nat} {s : State} (hS : Keeps M S0 s)
    (hM : Change.le { parts := [.meet, .cnt, .pkts, .log, .tab, .tree, .out], regs := [.rlNodeValidHi, .rlNodeValidLo, .rlRoute, .rlStat] } M = true := by first | assumption | exact Change.le_trans (by assumption) (by decide +kernel)) :
    Keeps M S0 (State.leaveActive s k was) := by
  unfold State.leaveActive
  dsimp only
  repeat' (first | with_reducible assumption | intro _ | with_reducible refine keeps_count ?_ | with_reducible refine keeps_setRl ?_ | with_reducible refine keeps_loseNodes ?_ | with_reducible refine keeps_sendLost ?_ | with_reducible refine keeps_ite ?_ ?_)

theorem keeps_reportChild {s : State} (hS : Keeps M S0 s)
    (hM : Change.le { parts := [.tree, .out, .free] } M = true := by first | assumption | exact Change.le_trans (by assumption) (by decide +kernel)) :
    Keeps M S0 (State.reportChild s) := by
  unfold State.reportChild
  repeat' (first | with_reducible assumption | intro _ | with_reducible refine keeps_draw ?_ | with_reducible refine keeps_sendSeq ?_ | with_reducible refine keeps_ite ?_ ?_ | split)

theorem keeps_decideRole {k : Nat} {s : State} (hS : Keeps M S0 s)
    (hM : Change.le { parts := [.meet, .cnt, .pkts, .log, .tab, .tree, .out, .free], regs := [.rlNodeValidHi, .rlNodeValidLo, .rlPortStat, .rlRoute, .rlStat] } M = true := by first | assumption | exact Change.le_trans (by assumption) (by decide +kernel)) :
    Keeps M S0 (State.decideRole s k) := by
  unfold State.decideRole
  dsimp only
  repeat' (first | with_reducible assumption | intro _ | with_reducible refine keeps_setReg ?_ | with_reducible refine keeps_raise ?_ | with_reducible refine keeps_leaveActive ?_ | with_reducible refine keeps_reportChild ?_ | with_reducible refine keeps_ite ?_ ?_)

theorem keeps_decideRoles {s : State} (hS : Keeps M S0 s)
    (hM : Change.le { parts := [.meet, .cnt, .pkts, .log, .tab, .tree, .out, .free], regs := [.rlNodeValidHi, .rlNodeValidLo, .rlPortStat, .rlRoute, .rlStat] } M = true := by first | assumption | exact Change.le_trans (by assumption) (by decide +kernel)) :
    Keeps M S0 (State.decideRoles s) := by
  unfold State.decideRoles
  dsimp only
  repeat' (first | with_reducible assumption | intro _ | with_reducible refine keeps_onRl ?_ | with_reducible refine keeps_decideRole ?_ | with_reducible refine keeps_ite ?_ ?_ | with_reducible refine keeps_foldl ?_ ?_ | (simp only [keeps_mk]; with_reducible refine keeps_upd ?_))

theorem keeps_takeHello {k : Nat} {h : Hello} {s : State} (hS : Keeps M S0 s)
    (hM : Change.le { parts := [.meet, .cnt, .pkts, .log, .tab, .tree, .out, .free], regs := [.rlNodeValidHi, .rlNodeValidLo, .rlPortStat, .rlRoute, .rlStat] } M = true := by first | assumption | exact Change.le_trans (by assumption) (by decide +kernel)) :
    Keeps M S0 (State.takeHello s k h) := by
  unfold State.takeHello
  dsimp only
  repeat' (first | with_reducible assumption | intro _ | with_reducible refine keeps_onRl ?_ | with_reducible refine keeps_decideRoles ?_ | with_reducible refine keeps_ite ?_ ?_)

theorem keeps_rlDown {k : Nat} {lock : Bool} {s : State} (hS : Keeps M S0 s)
    (hM : Change.le { parts := [.meet, .cnt, .pkts, .log, .tab, .tree, .out, .free], regs := [.rlNodeValidHi, .rlNodeValidLo, .rlPortStat, .rlRoute, .rlStat] } M = true := by first | assumption | exact Change.le_trans (by assumption) (by decide +kernel)) :
    Keeps M S0 (State.rlDown s k lock) := by
  unfold State.rlDown
  repeat' (first | with_reducible assumption | with_reducible refine keeps_onRl ?_ | with_reducible refine keeps_decideRoles ?_)

theorem keeps_readWords {who : Sender} {y n : Nat} {s : State} (h : Keeps M S0 s)
    (hM : Change.le { parts := [.time, .meet, .cnt, .free], anyReg := true } M = true := by first | assumption | exact Change.le_trans (by assumption) (by decide +kernel)) :
    Keeps M S0 (readWords who y n s).1 := by
  induction n generalizing y s with
  | zero => exact h
  | succ n ih => exact ih (keeps_busRead h)

theorem keeps_serveRead {x : RlPacket} {s : State} (hS : Keeps M S0 s)
    (hM : Change.le { parts := [.time, .meet, .cnt, .tree, .out, .free], anyReg := true } M = true := by first | assumption | exact Change.le_trans (by assumption) (by decide +kernel)) :
    Keeps M S0 (State.serveRead s x) := by
  unfold State.serveRead
  dsimp only
  repeat' (first | with_reducible assumption | intro _ | with_reducible refine keeps_accError ?_ | with_reducible refine keeps_sendTo ?_ | with_reducible refine keeps_readWords ?_ | with_reducible refine keeps_ite ?_ ?_)

theorem keeps_serveWrite {x : RlPacket} {s : State} (hS : Keeps M S0 s)
    (hM : Change.le { parts := [.time, .meet, .cnt, .samp, .pkts, .log, .boot, .ks, .tab, .path, .lanes, .host, .tree, .shadow, .out], anyReg := true } M = true := by first | assumption | exact Change.le_trans (by assumption) (by decide +kernel)) :
    KeepsExc M S0 (State.serveWrite s x) := by
  unfold State.serveWrite
  dsimp only
  repeat' (first | with_reducible assumption | with_reducible refine keeps_accError ?_ | with_reducible refine keeps_busWrites ?_ | with_reducible refine keeps_ok ?_ | split)

theorem keeps_serveMsg {x : RlPacket} {s : State} (h : Keeps M S0 s)
    (hM : Change.le { parts := [.tick, .meet, .cnt, .pkts, .log, .tab, .path, .tree, .out], regs := [.dtQcfgRsv, .qmQmode, .rlStat, .tickSchAct, .tickSchAddr, .tickSchData, .tickSchMissed, .tickSchTgt] } M = true := by first | assumption | exact Change.le_trans (by assumption) (by decide +kernel)) :
    Keeps M S0 (s.serveMsg x) := by
  have hr : ∀ (o : Option Status) (a : Args), Keeps M S0 (match o with
      | some e => (e, 0, s)
      | none => s.scheduleHere a : Status × Nat × State).2.2 := by
    intro o a
    cases o with
    | none => exact keeps_scheduleHere h
    | some e => exact h
  unfold State.serveMsg
  dsimp only
  split
  · split
    · exact keeps_fanResult h
    · exact h
  · split
    · exact h
    · exact keeps_sendTo (hr _ _)

theorem keeps_assign {x : RlPacket} {s : State} (hS : Keeps M S0 s)
    (hM : Change.le { parts := [.meet, .cnt, .tree, .out], regs := [.glbDevid, .rlRoute, .rlStat] } M = true := by first | assumption | exact Change.le_trans (by assumption) (by decide +kernel)) :
    Keeps M S0 (State.assign s x) := by
  unfold State.assign
  dsimp only
  repeat' (first | with_reducible assumption | intro _ | with_reducible refine keeps_setReg ?_ | with_reducible refine keeps_setFld ?_ | with_reducible refine keeps_raise ?_ | with_reducible refine keeps_onRl ?_ | with_reducible refine keeps_sendSeq ?_ | with_reducible refine keeps_unreachable ?_ | with_reducible refine keeps_ite ?_ ?_ | with_reducible refine keeps_foldl ?_ ?_ | (simp only [keeps_mk]; with_reducible refine keeps_upd ?_))

theorem keeps_routePacket {k : Nat} {x : RlPacket} {s : State} (hS : Keeps M S0 s)
    (hM : Change.le { parts := [.tick, .time, .meet, .cnt, .samp, .pkts, .log, .boot, .ks, .tab, .path, .lanes, .host, .tree, .shadow, .out, .free], anyReg := true } M = true := by first | assumption | exact Change.le_trans (by assumption) (by decide +kernel)) :
    KeepsExc M S0 (State.routePacket s k x) := by
  unfold State.routePacket
  dsimp only
  repeat' (first | with_reducible assumption | intro _ | with_reducible refine keeps_raiseBits ?_ | with_reducible refine keeps_count ?_ | with_reducible refine keeps_sendTo ?_ | with_reducible refine keeps_readDone ?_ | with_reducible refine keeps_readFails ?_ | with_reducible refine keeps_pump ?_ | with_reducible refine keeps_loseNodes ?_ | with_reducible refine keeps_sendLost ?_ | with_reducible refine keeps_serveRead ?_ | with_reducible refine keeps_serveWrite ?_ | with_reducible refine keeps_serveMsg ?_ | with_reducible refine keeps_assign ?_ | with_reducible refine keeps_ok ?_ | with_reducible refine keeps_ite ?_ ?_ | split)

theorem keeps_takePacket {k : Nat} {x : RlPacket} {s : State} (hS : Keeps M S0 s)
    (hM : Change.le { parts := [.tick, .time, .meet, .cnt, .samp, .pkts, .log, .boot, .ks, .tab, .path, .lanes, .host, .tree, .shadow, .out, .free], anyReg := true } M = true := by first | assumption | exact Change.le_trans (by assumption) (by decide +kernel)) :
    KeepsExc M S0 (State.takePacket s k x) := by
  unfold State.takePacket
  dsimp only
  repeat' (first | with_reducible assumption | intro _ | with_reducible refine keeps_count ?_ | with_reducible refine keeps_setRl ?_ | with_reducible refine keeps_transmit ?_ | with_reducible refine keeps_ackUpTo ?_ | with_reducible refine keeps_sendAck ?_ | with_reducible refine keeps_rlDown ?_ | with_reducible refine keeps_routePacket ?_ | with_reducible refine keeps_ok ?_ | with_reducible refine keeps_ite ?_ ?_ | with_reducible refine keeps_foldl ?_ ?_ | split)

theorem keeps_execPcieDataLinkUp {bme : Bool} {msixOn : Bool} {fnMask : Bool} {vecMask : Nat} {s : State} (hS : Keeps M S0 s)
    (hM : Change.le { parts := [.meet, .cnt, .pkts, .log, .tab, .host, .tree, .out, .free], regs := [.glbDevid, .rlNodeValidHi, .rlNodeValidLo, .rlPortStat, .rlRoute, .rlStat] } M = true := by first | assumption | exact Change.le_trans (by assumption) (by decide +kernel)) :
    KeepsOut M S0 (execPcieDataLinkUp bme msixOn fnMask vecMask s) := by
  unfold execPcieDataLinkUp
  dsimp only
  repeat' (first | with_reducible assumption | intro _ | with_reducible refine keeps_setFld ?_ | with_reducible refine keeps_emit ?_ | with_reducible refine keeps_decideRoles ?_ | with_reducible refine keeps_next ?_ | with_reducible refine keeps_ite_out ?_ ?_ | with_reducible refine keeps_foldl ?_ ?_ | (simp only [keeps_mk]; with_reducible refine keeps_upd ?_))

theorem keeps_execRhogenBlockLock {k : Nat} {s : State} (hS : Keeps M S0 s)
    (hM : Change.le { parts := [.tree] } M = true := by first | assumption | exact Change.le_trans (by assumption) (by decide +kernel)) :
    KeepsOut M S0 (execRhogenBlockLock k s) := by
  unfold execRhogenBlockLock
  repeat' (first | with_reducible assumption | intro _ | with_reducible refine keeps_onRl ?_ | with_reducible refine keeps_next ?_ | with_reducible refine keeps_ite_out ?_ ?_)

theorem keeps_execRhogenHelloTimer {k : Nat} {s : State} (hS : Keeps M S0 s)
    (hM : Change.le { parts := [.tree, .out] } M = true := by first | assumption | exact Change.le_trans (by assumption) (by decide +kernel)) :
    KeepsOut M S0 (execRhogenHelloTimer k s) := by
  unfold execRhogenHelloTimer
  repeat' (first | with_reducible assumption | intro _ | with_reducible refine keeps_sendHello ?_ | with_reducible refine keeps_next ?_ | with_reducible refine keeps_ite_out ?_ ?_)

theorem keeps_execRhogenHelloReceive {k : Nat} {h : Hello} {s : State} (hS : Keeps M S0 s)
    (hM : Change.le { parts := [.meet, .cnt, .pkts, .log, .tab, .tree, .out, .free], regs := [.rlNodeValidHi, .rlNodeValidLo, .rlPortStat, .rlRoute, .rlStat] } M = true := by first | assumption | exact Change.le_trans (by assumption) (by decide +kernel)) :
    KeepsOut M S0 (execRhogenHelloReceive k h s) := by
  unfold execRhogenHelloReceive
  repeat' (first | with_reducible assumption | intro _ | with_reducible refine keeps_takeHello ?_ | with_reducible refine keeps_next ?_ | with_reducible refine keeps_ite_out ?_ ?_)

theorem keeps_execRhogenPacketReceive {k : Nat} {pkt : RlPacket} {crcOk : Bool} {s : State} (hS : Keeps M S0 s)
    (hM : Change.le { parts := [.tick, .time, .meet, .cnt, .samp, .pkts, .log, .boot, .ks, .tab, .path, .lanes, .host, .tree, .shadow, .out, .free], anyReg := true } M = true := by first | assumption | exact Change.le_trans (by assumption) (by decide +kernel)) :
    KeepsOut M S0 (execRhogenPacketReceive k pkt crcOk s) := by
  unfold execRhogenPacketReceive
  dsimp only
  repeat' (first | with_reducible assumption | intro _ | with_reducible refine keeps_count ?_ | with_reducible refine keeps_sendAck ?_ | with_reducible refine keeps_takeHello ?_ | with_reducible refine keeps_takePacket ?_ | with_reducible refine keeps_next ?_ | with_reducible refine keeps_fault | with_reducible refine keeps_ite ?_ ?_ | with_reducible refine keeps_ite_out ?_ ?_ | with_reducible refine keeps_eq_ok (by assumption) ?_ | split)

theorem keeps_execRhogenAckTimer {k : Nat} {s : State} (hS : Keeps M S0 s)
    (hM : Change.le { parts := [.tree, .out] } M = true := by first | assumption | exact Change.le_trans (by assumption) (by decide +kernel)) :
    KeepsOut M S0 (execRhogenAckTimer k s) := by
  unfold execRhogenAckTimer
  repeat' (first | with_reducible assumption | intro _ | with_reducible refine keeps_sendAck ?_ | with_reducible refine keeps_next ?_ | with_reducible refine keeps_ite_out ?_ ?_)

theorem keeps_execRhogenReplayTimeout {k : Nat} {s : State} (hS : Keeps M S0 s)
    (hM : Change.le { parts := [.meet, .cnt, .pkts, .log, .tab, .tree, .out, .free], regs := [.rlNodeValidHi, .rlNodeValidLo, .rlPortStat, .rlRoute, .rlStat] } M = true := by first | assumption | exact Change.le_trans (by assumption) (by decide +kernel)) :
    KeepsOut M S0 (execRhogenReplayTimeout k s) := by
  unfold execRhogenReplayTimeout
  dsimp only
  repeat' (first | with_reducible assumption | intro _ | with_reducible refine keeps_count ?_ | with_reducible refine keeps_setRl ?_ | with_reducible refine keeps_transmit ?_ | with_reducible refine keeps_rlDown ?_ | with_reducible refine keeps_next ?_ | with_reducible refine keeps_ite_out ?_ ?_ | with_reducible refine keeps_foldl ?_ ?_)

theorem keeps_execRhogenLinkDown {k : Nat} {s : State} (hS : Keeps M S0 s)
    (hM : Change.le { parts := [.meet, .cnt, .pkts, .log, .tab, .tree, .out, .free], regs := [.rlNodeValidHi, .rlNodeValidLo, .rlPortStat, .rlRoute, .rlStat] } M = true := by first | assumption | exact Change.le_trans (by assumption) (by decide +kernel)) :
    KeepsOut M S0 (execRhogenLinkDown k s) := by
  unfold execRhogenLinkDown
  repeat' (first | with_reducible assumption | intro _ | with_reducible refine keeps_rlDown ?_ | with_reducible refine keeps_next ?_ | with_reducible refine keeps_ite_out ?_ ?_)

theorem keeps_execNodeEnumerate {path : List Nat} {s : State} (hS : Keeps M S0 s)
    (hM : Change.le { parts := [.meet, .tree, .out], regs := [.rlNodeValidHi, .rlNodeValidLo, .rlRoute, .rlStat] } M = true := by first | assumption | exact Change.le_trans (by assumption) (by decide +kernel)) :
    KeepsOut M S0 (execNodeEnumerate path s) := by
  unfold execNodeEnumerate
  dsimp only
  repeat' (first | with_reducible assumption | intro _ | with_reducible refine keeps_setReg ?_ | with_reducible refine keeps_raise ?_ | with_reducible refine keeps_sendSeq ?_ | with_reducible refine keeps_setRoutable ?_ | with_reducible refine keeps_next ?_ | with_reducible refine keeps_ite ?_ ?_ | with_reducible refine keeps_ite_out ?_ ?_ | (simp only [keeps_mk]; with_reducible refine keeps_upd ?_) | split)

theorem keeps_execTreeRemoteAccess {who : Sender} {offset : Nat} {write : Bool} {words : List Word} {n : Nat} {enables : Bool} {tag : Nat} {s : State} (hS : Keeps M S0 s)
    (hM : Change.le { parts := [.time, .meet, .cnt, .samp, .pkts, .log, .boot, .ks, .tab, .path, .lanes, .host, .tree, .shadow, .out, .free], anyReg := true } M = true := by first | assumption | exact Change.le_trans (by assumption) (by decide +kernel)) :
    KeepsOut M S0 (execTreeRemoteAccess who offset write words n enables tag s) := by
  unfold execTreeRemoteAccess
  dsimp only
  repeat' (first | with_reducible assumption | intro _ | with_reducible refine keeps_emit ?_ | with_reducible refine keeps_accError ?_ | with_reducible refine keeps_writeOutcome ?_ | with_reducible refine keeps_unreachable ?_ | with_reducible refine keeps_sendTo ?_ | with_reducible refine keeps_pump ?_ | with_reducible refine keeps_readWords ?_ | with_reducible refine keeps_next ?_ | with_reducible refine keeps_ite_out ?_ ?_ | (simp only [keeps_mk]; with_reducible refine keeps_upd ?_))

theorem keeps_execRemoteReadTimeout {tag : Nat} {s : State} (hS : Keeps M S0 s)
    (hM : Change.le { parts := [.meet, .cnt, .pkts, .log, .tab, .tree, .out], regs := [.rlStat] } M = true := by first | assumption | exact Change.le_trans (by assumption) (by decide +kernel)) :
    KeepsOut M S0 (execRemoteReadTimeout tag s) := by
  unfold execRemoteReadTimeout
  repeat' (first | with_reducible assumption | intro _ | with_reducible refine keeps_readFails ?_ | with_reducible refine keeps_pump ?_ | with_reducible refine keeps_next ?_ | with_reducible refine keeps_ite_out ?_ ?_ | split)

theorem keeps_execVectorFire {v : Nat} {s : State} (hS : Keeps M S0 s)
    (hM : Change.le { parts := [.meet, .cnt, .host, .tree, .out], regs := [.glbIntFiredHi, .glbIntFiredLo, .rlStat] } M = true := by first | assumption | exact Change.le_trans (by assumption) (by decide +kernel)) :
    KeepsOut M S0 (execVectorFire v s) := by
  unfold execVectorFire
  dsimp only
  repeat' (first | with_reducible assumption | intro _ | with_reducible refine keeps_raiseBits ?_ | with_reducible refine keeps_emit ?_ | with_reducible refine keeps_sendTo ?_ | with_reducible refine keeps_next ?_ | with_reducible refine keeps_ite_out ?_ ?_ | (simp only [keeps_mk]; with_reducible refine keeps_upd ?_))

theorem keeps_fanHere {r : Status × Nat × State} (h : Keeps M S0 r.2.2) :
    Keeps M S0 (fanHere r).1 := h

theorem keeps_fanSent {p : Packet} {n : Nat} {s : State} (hS : Keeps M S0 s)
    (hM : Change.le { parts := [.tree] } M = true := by first | assumption | exact Change.le_trans (by assumption) (by decide +kernel)) :
    Keeps M S0 (State.fanSent s p n).1 := by
  unfold State.fanSent
  dsimp only
  repeat' (first | with_reducible assumption | (simp only [keeps_mk]; with_reducible refine keeps_upd ?_))

theorem keeps_fanOne {p : Packet} {a : Args} {n : Nat} {s : State} (h : Keeps M S0 s)
    (hM : Change.le { parts := [.tick, .meet, .cnt, .log, .path, .tree, .out], regs := [.dtQcfgRsv, .qmQmode, .rlStat, .tickSchAct, .tickSchAddr, .tickSchData, .tickSchMissed, .tickSchTgt] } M = true := by first | assumption | exact Change.le_trans (by assumption) (by decide +kernel)) :
    Keeps M S0 (s.fanOne p a n).1 := by
  unfold State.fanOne
  split
  · exact keeps_fanHere (keeps_scheduleHere h)
  · split
    · exact keeps_fanSent (keeps_sendTo h)
    · exact h

theorem keeps_fanOut {p : Packet} {a : Args} {mask : Nat} {s : State} (hS : Keeps M S0 s)
    (hM : Change.le { parts := [.tick, .meet, .cnt, .log, .tab, .path, .tree, .out], regs := [.dtQcfgRsv, .qmQmode, .rlStat, .tickSchAct, .tickSchAddr, .tickSchData, .tickSchMissed, .tickSchTgt] } M = true := by first | assumption | exact Change.le_trans (by assumption) (by decide +kernel)) :
    Keeps M S0 (State.fanOut s p a mask).state := by
  unfold State.fanOut
  dsimp only
  repeat' (first | with_reducible assumption | intro _ | with_reducible refine keeps_fanOne ?_ | with_reducible refine keeps_ite_res ?_ ?_ | with_reducible refine keeps_foldl_fst ?_ ?_ | (simp only [keeps_mk]; with_reducible refine keeps_upd ?_))

theorem keeps_execSchedule {p : Packet} {s : State} (hS : Keeps M S0 s)
    (hM : Change.le { parts := [.tick, .meet, .cnt, .pkts, .log, .tab, .path, .tree, .out], regs := [.dtQcfgRsv, .qmQmode, .rlStat, .tickSchAct, .tickSchAddr, .tickSchData, .tickSchMissed, .tickSchTgt] } M = true := by first | assumption | exact Change.le_trans (by assumption) (by decide +kernel)) :
    KeepsOut M S0 (execSchedule p s) := by
  unfold execSchedule
  dsimp only
  repeat' (first | with_reducible assumption | intro _ | with_reducible refine keeps_Res_discard ?_ | with_reducible refine keeps_Res_ok ?_ | with_reducible refine keeps_runPacket ?_ ?_ | with_reducible refine keeps_scheduleHere ?_ | with_reducible refine keeps_fanOut ?_ | with_reducible refine keeps_ite_res ?_ ?_ | split)

theorem keeps_execTreeStatusGet {p : Packet} {s : State} (hS : Keeps M S0 s)
    (hM : Change.le { parts := [.pkts, .log] } M = true := by first | assumption | exact Change.le_trans (by assumption) (by decide +kernel)) :
    KeepsOut M S0 (execTreeStatusGet p s) := by
  unfold execTreeStatusGet
  dsimp only
  repeat' (first | with_reducible assumption | intro _ | with_reducible refine keeps_Res_ok ?_ | with_reducible refine keeps_runPacket ?_ ?_)

theorem keeps_execRlStatusGet {p : Packet} {s : State} (hS : Keeps M S0 s)
    (hM : Change.le { parts := [.meet, .cnt, .pkts, .log, .tab, .tree, .out], regs := [.rlStat] } M = true := by first | assumption | exact Change.le_trans (by assumption) (by decide +kernel)) :
    KeepsOut M S0 (execRlStatusGet p s) := by
  unfold execRlStatusGet
  dsimp only
  repeat' (first | with_reducible assumption | intro _ | with_reducible refine keeps_Res_ok ?_ | with_reducible refine keeps_guarded ?_ ?_ | with_reducible refine keeps_runPacket ?_ ?_ | with_reducible refine keeps_pump ?_ | with_reducible refine keeps_ite_res ?_ ?_ | (simp only [keeps_mk]; with_reducible refine keeps_upd ?_))

end Sys2Proof.Machine
end

