-- ==== Sys2Proof/Laws/KeepsBoot.lean ====
section
/-!
SUPPORT. Each operation and meaning of Machine/Boot.lean keeps what no command may lose and changes nothing but what it names.
-/
set_option Elab.async false
namespace Sys2Proof.Machine
open Sys2Proof
variable {M : Change} {S0 : State}

theorem keeps_execBootRomStart {s : State} (hS : Keeps M S0 s)
    (hM : Change.le { parts := [.fuses, .ks], regs := [.protBoot, .pwrRail] } M = true := by first | assumption | exact Change.le_trans (by assumption) (by decide +kernel)) :
    KeepsOut M S0 (execBootRomStart s) := by
  unfold execBootRomStart
  dsimp only
  repeat' (first | with_reducible assumption | intro _ | with_reducible refine keeps_setFld ?_ | with_reducible refine keeps_advanceFuses ?_ | with_reducible refine keeps_next ?_ | with_reducible refine keeps_ite ?_ ?_ | with_reducible refine keeps_ite_out ?_ ?_ | (simp only [keeps_mk]; with_reducible refine keeps_upd ?_) | split)

theorem keeps_setupWrite {w : Nat × Word} {s : State} (hS : Keeps M S0 s)
    (hM : Change.le { parts := [.time, .meet, .cnt, .samp, .pkts, .log, .boot, .ks, .tab, .path, .lanes, .host, .tree, .shadow, .out], anyReg := true } M = true := by first | assumption | exact Change.le_trans (by assumption) (by decide +kernel)) :
    Keeps M S0 (State.setupWrite s w) := by
  unfold State.setupWrite
  repeat' (first | with_reducible assumption | intro _ | with_reducible refine keeps_writeReg ?_ | with_reducible refine keeps_ite ?_ ?_ | split)

theorem keeps_startRecord {s : State} (hS : Keeps M S0 s)
    (hM : Change.le { parts := [.log] } M = true := by first | assumption | exact Change.le_trans (by assumption) (by decide +kernel)) :
    Keeps M S0 (State.startRecord s) := by
  unfold State.startRecord
  repeat' (first | with_reducible assumption | with_reducible refine keeps_logEvent ?_)

theorem keeps_enterRecovery {s : State} (hS : Keeps M S0 s)
    (hM : Change.le { parts := [.boot], regs := [.protBoot] } M = true := by first | assumption | exact Change.le_trans (by assumption) (by decide +kernel)) :
    Keeps M S0 (State.enterRecovery s) := by
  unfold State.enterRecovery
  dsimp only
  repeat' (first | with_reducible assumption | with_reducible refine keeps_setFld ?_ | (simp only [keeps_mk]; with_reducible refine keeps_upd ?_))

theorem keeps_startSlot {k : Nat} {s : State} (hS : Keeps M S0 s)
    (hM : Change.le { parts := [.boot], regs := [.protBoot] } M = true := by first | assumption | exact Change.le_trans (by assumption) (by decide +kernel)) :
    Keeps M S0 (State.startSlot s k) := by
  unfold State.startSlot
  dsimp only
  repeat' (first | with_reducible assumption | with_reducible refine keeps_setFld ?_ | (simp only [keeps_mk]; with_reducible refine keeps_upd ?_))

theorem keeps_execBootCodeStart {setup : List (Nat × Word)} {s : State} (hS : Keeps M S0 s)
    (hM : Change.le { parts := [.time, .meet, .cnt, .samp, .pkts, .log, .boot, .ks, .tab, .path, .lanes, .host, .tree, .shadow, .out], anyReg := true } M = true := by first | assumption | exact Change.le_trans (by assumption) (by decide +kernel)) :
    KeepsOut M S0 (execBootCodeStart setup s) := by
  unfold execBootCodeStart
  dsimp only
  repeat' (first | with_reducible assumption | intro _ | with_reducible refine keeps_setFld ?_ | with_reducible refine keeps_kick ?_ | with_reducible refine keeps_setupWrite ?_ | with_reducible refine keeps_startRecord ?_ | with_reducible refine keeps_enterRecovery ?_ | with_reducible refine keeps_startSlot ?_ | with_reducible refine keeps_next ?_ | with_reducible refine keeps_ite ?_ ?_ | with_reducible refine keeps_ite_out ?_ ?_ | with_reducible refine keeps_foldl ?_ ?_ | (simp only [keeps_mk]; with_reducible refine keeps_upd ?_) | split)

theorem keeps_takeSave {s : State} (hS : Keeps M S0 s)
    (hM : Change.le { parts := [.time, .cnt, .log] } M = true := by first | assumption | exact Change.le_trans (by assumption) (by decide +kernel)) :
    Keeps M S0 (State.takeSave s) := by
  unfold State.takeSave
  dsimp only
  repeat' (first | with_reducible assumption | with_reducible refine keeps_logEvent ?_ | (simp only [keeps_mk]; with_reducible refine keeps_updtl ?_) | split)

theorem keeps_loadFlashTable {s : State} (hS : Keeps M S0 s)
    (hM : Change.le { parts := [.log, .lanes], regs := [.lnCemCommit, .lnFfe, .lnRxcfg, .lnTxcfg, .lnTxeq] } M = true := by first | assumption | exact Change.le_trans (by assumption) (by decide +kernel)) :
    Keeps M S0 (State.loadFlashTable s) := by
  unfold State.loadFlashTable
  dsimp only
  repeat' (first | with_reducible assumption | intro _ | with_reducible refine keeps_logEvent ?_ | with_reducible refine keeps_loadTable ?_ | with_reducible refine keeps_ite ?_ ?_ | with_reducible refine keeps_foldl ?_ ?_ | split)

theorem keeps_restartServo {s : State} (hS : Keeps M S0 s)
    (hM : Change.le { parts := [.time, .log] } M = true := by first | assumption | exact Change.le_trans (by assumption) (by decide +kernel)) :
    Keeps M S0 (State.restartServo s) := by
  unfold State.restartServo
  repeat' (first | with_reducible assumption | intro _ | with_reducible refine keeps_servoTo ?_ | with_reducible refine keeps_ite ?_ ?_)

theorem keeps_restartBases {s : State} (hS : Keeps M S0 s)
    (hM : Change.le { parts := [.time, .meet, .log], regs := [.tsStat] } M = true := by first | assumption | exact Change.le_trans (by assumption) (by decide +kernel)) :
    Keeps M S0 (State.restartBases s) := by
  unfold State.restartBases
  dsimp only
  repeat' (first | with_reducible assumption | intro _ | with_reducible refine keeps_logEvent ?_ | with_reducible refine keeps_loadBase ?_ | with_reducible refine keeps_loadNextBase ?_ | with_reducible refine keeps_ite ?_ ?_)

theorem keeps_restartHeld {s : State} (hS : Keeps M S0 s)
    (hM : Change.le { parts := [.tick, .log, .path], regs := [.dtQcfgRsv, .qmQmode] } M = true := by first | assumption | exact Change.le_trans (by assumption) (by decide +kernel)) :
    Keeps M S0 (State.restartHeld s) := by
  unfold State.restartHeld
  repeat' (first | with_reducible assumption | intro _ | with_reducible refine keeps_missHeld ?_ | with_reducible refine keeps_foldl ?_ ?_)

theorem keeps_restartSwaps {s : State} (hS : Keeps M S0 s)
    (hM : Change.le { parts := [.log, .path] } M = true := by first | assumption | exact Change.le_trans (by assumption) (by decide +kernel)) :
    Keeps M S0 (State.restartSwaps s) := by
  unfold State.restartSwaps
  dsimp only
  repeat' (first | with_reducible assumption | intro _ | with_reducible refine keeps_logEvent ?_ | with_reducible refine keeps_foldl ?_ ?_ | (simp only [keeps_mk]; with_reducible refine keeps_upd ?_))

theorem keeps_execFirmwareStart {s : State} (hS : Keeps M S0 s)
    (hM : Change.le { parts := [.tick, .time, .meet, .cnt, .pkts, .log, .boot, .path, .lanes, .out], regs := [.dtQcfgRsv, .gclStat, .gclSwapCtl, .gclSwapTgt, .lnCemCommit, .lnFfe, .lnRxcfg, .lnTxcfg, .lnTxeq, .protBoot, .qmQmode, .tickCtl, .tickSchAct, .tickSchAddr, .tickSchData, .tickSchMissed, .tickSchTgt, .tsEvtCtl, .tsEvtFrac, .tsEvtPeriod, .tsEvtStart, .tsEvtStat, .tsEvtWidth, .tsStat] } M = true := by first | assumption | exact Change.le_trans (by assumption) (by decide +kernel)) :
    KeepsOut M S0 (execFirmwareStart s) := by
  unfold execFirmwareStart
  dsimp only
  repeat' (first | with_reducible assumption | intro _ | with_reducible refine keeps_setFld ?_ | with_reducible refine keeps_answerJournal ?_ | with_reducible refine keeps_kick ?_ | with_reducible refine keeps_checkAll ?_ | with_reducible refine keeps_startRecord ?_ | with_reducible refine keeps_takeSave ?_ | with_reducible refine keeps_loadFlashTable ?_ | with_reducible refine keeps_restartServo ?_ | with_reducible refine keeps_restartBases ?_ | with_reducible refine keeps_restartHeld ?_ | with_reducible refine keeps_restartSwaps ?_ | with_reducible refine keeps_next ?_ | with_reducible refine keeps_ite ?_ ?_ | with_reducible refine keeps_ite_out ?_ ?_ | (simp only [keeps_mk]; with_reducible refine keeps_upd ?_))

theorem keeps_execProtLock {who : Sender} {v : Word} {s : State} (hS : Keeps M S0 s)
    (hM : Change.le { parts := [.meet, .cnt], regs := [.glbAccAddr, .glbAccInfo, .glbStat, .protCtl, .protStat, .protViolAddr, .protViolInfo] } M = true := by first | assumption | exact Change.le_trans (by assumption) (by decide +kernel)) :
    KeepsOut M S0 (execProtLock who v s) := by
  unfold execProtLock
  repeat' (first | with_reducible assumption | intro _ | with_reducible refine keeps_ccWrite ?_ ?_ | with_reducible refine keeps_lockWrite ?_ | with_reducible refine keeps_next ?_)

theorem keeps_execDmaWindowRevoke {who : Sender} {v : Word} {s : State} (hS : Keeps M S0 s)
    (hM : Change.le { parts := [.meet, .cnt], regs := [.protDmaCfg, .protStat, .protViolAddr, .protViolInfo] } M = true := by first | assumption | exact Change.le_trans (by assumption) (by decide +kernel)) :
    KeepsOut M S0 (execDmaWindowRevoke who v s) := by
  unfold execDmaWindowRevoke
  repeat' (first | with_reducible assumption | intro _ | with_reducible refine keeps_secureWrite ?_ ?_ | with_reducible refine keeps_revoke ?_ | with_reducible refine keeps_next ?_)

theorem keeps_execFwSwitch {s : State} (hS : Keeps M S0 s)
    (hM : Change.le { parts := [.cnt, .pkts, .boot, .ks, .tab, .lanes, .tree], regs := [.protBoot] } M = true := by first | assumption | exact Change.le_trans (by assumption) (by decide +kernel)) :
    KeepsOut M S0 (execFwSwitch s) := by
  unfold execFwSwitch
  dsimp only
  repeat' (first | with_reducible assumption | intro _ | with_reducible refine keeps_ccReset ?_ | with_reducible refine keeps_next ?_ | with_reducible refine keeps_ite_out ?_ ?_ | (simp only [keeps_mk]; with_reducible refine keeps_upd ?_) | split)

theorem keeps_execTrialDeadline {s : State} (hS : Keeps M S0 s)
    (hM : Change.le { parts := [.cnt, .log, .ks], regs := [.ksStat] } M = true := by first | assumption | exact Change.le_trans (by assumption) (by decide +kernel)) :
    KeepsOut M S0 (execTrialDeadline s) := by
  unfold execTrialDeadline
  dsimp only
  repeat' (first | with_reducible assumption | intro _ | with_reducible refine keeps_logEvent ?_ | with_reducible refine keeps_ownSession ?_ | with_reducible refine keeps_next ?_ | with_reducible refine keeps_ite_out ?_ ?_)

theorem keeps_execHello {p : Packet} {s : State} (hS : Keeps M S0 s)
    (hM : Change.le { parts := [.pkts, .log] } M = true := by first | assumption | exact Change.le_trans (by assumption) (by decide +kernel)) :
    KeepsOut M S0 (execHello p s) := by
  unfold execHello
  dsimp only
  repeat' (first | with_reducible assumption | intro _ | with_reducible refine keeps_Res_discard ?_ | with_reducible refine keeps_Res_ok ?_ | with_reducible refine keeps_runPacket ?_ ?_ | with_reducible refine keeps_ite_res ?_ ?_)

theorem keeps_execEcho {p : Packet} {s : State} (hS : Keeps M S0 s)
    (hM : Change.le { parts := [.pkts, .log] } M = true := by first | assumption | exact Change.le_trans (by assumption) (by decide +kernel)) :
    KeepsOut M S0 (execEcho p s) := by
  unfold execEcho
  repeat' (first | with_reducible assumption | intro _ | with_reducible refine keeps_runPacket ?_ ?_)

theorem keeps_execEventLogRead {p : Packet} {s : State} (hS : Keeps M S0 s)
    (hM : Change.le { parts := [.pkts, .log, .out] } M = true := by first | assumption | exact Change.le_trans (by assumption) (by decide +kernel)) :
    KeepsOut M S0 (execEventLogRead p s) := by
  unfold execEventLogRead
  dsimp only
  repeat' (first | with_reducible assumption | intro _ | with_reducible refine keeps_Res_ok ?_ | with_reducible refine keeps_guarded ?_ ?_ | with_reducible refine keeps_dmaWrite ?_ ?_ | with_reducible refine keeps_runPacket ?_ ?_)

theorem keeps_writeSlot {k : Nat} {img : List Byte} {s : State} (hS : Keeps M S0 s)
    (hM : Change.le { parts := [.flash] } M = true := by first | assumption | exact Change.le_trans (by assumption) (by decide +kernel)) :
    Keeps M S0 (State.writeSlot s k img) := by
  unfold State.writeSlot
  dsimp only
  repeat' (first | with_reducible assumption | (simp only [keeps_mk]; with_reducible refine keeps_upd ?_) | split)

theorem keeps_execFwImageWrite {p : Packet} {s : State} (hS : Keeps M S0 s)
    (hM : Change.le { parts := [.pkts, .log, .flash] } M = true := by first | assumption | exact Change.le_trans (by assumption) (by decide +kernel)) :
    KeepsOut M S0 (execFwImageWrite p s) := by
  unfold execFwImageWrite
  dsimp only
  repeat' (first | with_reducible assumption | intro _ | with_reducible refine keeps_Res_discard ?_ | with_reducible refine keeps_Res_ok ?_ | with_reducible refine keeps_guarded ?_ ?_ | with_reducible refine keeps_runPacket ?_ ?_ | with_reducible refine keeps_writeSlot ?_ | with_reducible refine keeps_ite_res ?_ ?_)

theorem keeps_execFwActivate {p : Packet} {s : State} (hS : Keeps M S0 s)
    (hM : Change.le { parts := [.cnt, .pkts, .log, .boot, .ks, .tab], regs := [.ksStat] } M = true := by first | assumption | exact Change.le_trans (by assumption) (by decide +kernel)) :
    KeepsOut M S0 (execFwActivate p s) := by
  unfold execFwActivate
  dsimp only
  repeat' (first | with_reducible assumption | intro _ | with_reducible refine keeps_guarded ?_ ?_ | with_reducible refine keeps_runPacket ?_ ?_ | with_reducible refine keeps_sessionCommand ?_ | with_reducible refine keeps_ite ?_ ?_ | with_reducible refine keeps_ite_res ?_ ?_ | (simp only [keeps_mk]; with_reducible refine keeps_upd ?_))

theorem keeps_execFwStatusGet {p : Packet} {s : State} (hS : Keeps M S0 s)
    (hM : Change.le { parts := [.pkts, .log] } M = true := by first | assumption | exact Change.le_trans (by assumption) (by decide +kernel)) :
    KeepsOut M S0 (execFwStatusGet p s) := by
  unfold execFwStatusGet
  dsimp only
  repeat' (first | with_reducible assumption | intro _ | with_reducible refine keeps_Res_ok ?_ | with_reducible refine keeps_runPacket ?_ ?_)

theorem keeps_execProtStatusGet {p : Packet} {s : State} (hS : Keeps M S0 s)
    (hM : Change.le { parts := [.pkts, .log, .out] } M = true := by first | assumption | exact Change.le_trans (by assumption) (by decide +kernel)) :
    KeepsOut M S0 (execProtStatusGet p s) := by
  unfold execProtStatusGet
  dsimp only
  repeat' (first | with_reducible assumption | intro _ | with_reducible refine keeps_Res_ok ?_ | with_reducible refine keeps_guarded ?_ ?_ | with_reducible refine keeps_dmaWrite ?_ ?_ | with_reducible refine keeps_runPacket ?_ ?_ | with_reducible refine keeps_ite_res ?_ ?_)

end Sys2Proof.Machine
end

