-- ==== Sys2Proof/Laws/KeepsPorts.lean ====
section
/-!
SUPPORT. Each operation and meaning of Machine/Ports.lean keeps what no command may lose and changes nothing but what it names.
-/
set_option Elab.async false
namespace Sys2Proof.Machine
open Sys2Proof
variable {M : Change} {S0 : State}

theorem keeps_resetReg {r : Reg} {i : Nat} {s : State} (hS : Keeps M S0 s) (hr : M.may r = true := by first | assumption | exact Change.may_of_le (by assumption) (by decide +kernel) | exact Change.may_ite (by assumption) (by decide +kernel) (by decide +kernel) | exact Change.may_ite_fld (by assumption) (by decide +kernel) (by decide +kernel) | exact Change.may_of_any (Change.any_of_le (by assumption) (by decide +kernel))) :
    Keeps M S0 (State.resetReg s r i) := by
  unfold State.resetReg
  repeat' (first | with_reducible assumption | with_reducible refine keeps_setReg ?_)

theorem keeps_resetSettings {p : Nat} {s : State} (h : Keeps M S0 s)
    (hM : Change.le { parts := [.path], anyReg := true } M = true := by first | assumption | exact Change.le_trans (by assumption) (by decide +kernel)) :
    Keeps M S0 (s.resetSettings p) := by
  unfold State.resetSettings
  dsimp only
  refine keeps_setPortState ?_
  refine keeps_setFld ?_
  refine keeps_setFld ?_
  refine keeps_resetReg ?_
  refine keeps_inPath ?_
  refine keeps_foldl ?_ ?_
  · refine keeps_foldl ?_ ?_
    · exact keeps_filter _ (keeps_foldl (keeps_keepRate h) fun _ _ h => keeps_keepRate h)
    · exact fun _ _ h => keeps_resetReg (keeps_resetReg (keeps_resetReg h))
  · exact fun _ _ h => keeps_resetReg h

theorem keeps_logDangling {p : Nat} {s : State} (hS : Keeps M S0 s)
    (hM : Change.le { parts := [.log] } M = true := by first | assumption | exact Change.le_trans (by assumption) (by decide +kernel)) :
    Keeps M S0 (State.logDangling s p) := by
  unfold State.logDangling
  dsimp only
  repeat' (first | with_reducible assumption | intro _ | with_reducible refine keeps_logEvent ?_ | with_reducible refine keeps_foldl ?_ ?_)

theorem keeps_forgetPort {p : Nat} {q : Nat} {s : State} (hS : Keeps M S0 s)
    (hM : Change.le { parts := [.tab] } M = true := by first | assumption | exact Change.le_trans (by assumption) (by decide +kernel)) :
    Keeps M S0 (State.forgetPort p s q) := by
  unfold State.forgetPort
  dsimp only
  repeat' (first | with_reducible assumption | intro _ | with_reducible refine keeps_flushAddr ?_ | with_reducible refine keeps_setNh ?_ | with_reducible refine keeps_bindPort ?_ | with_reducible refine keeps_foldl ?_ ?_ | (simp only [keeps_mk]; with_reducible refine keeps_upd ?_))

theorem keeps_removePort {p : Nat} {s : State} (hS : Keeps M S0 s)
    (hM : Change.le { parts := [.meet, .cnt, .log, .tab, .path], anyReg := true } M = true := by first | assumption | exact Change.le_trans (by assumption) (by decide +kernel)) :
    Keeps M S0 (State.removePort s p) := by
  unfold State.removePort
  dsimp only
  repeat' (first | with_reducible assumption | intro _ | with_reducible refine keeps_forQuads ?_ ?_ | with_reducible refine keeps_flush ?_ | with_reducible refine keeps_resetSettings ?_ | with_reducible refine keeps_logDangling ?_ | with_reducible refine keeps_forgetPort ?_)

theorem keeps_setReadBack {p : Nat} {s : State} (hS : Keeps M S0 s)
    (hM : Change.le { regs := [.dtQcfgRb] } M = true := by first | assumption | exact Change.le_trans (by assumption) (by decide +kernel)) :
    Keeps M S0 (State.setReadBack s p) := by
  unfold State.setReadBack
  dsimp only
  repeat' (first | with_reducible assumption | intro _ | with_reducible refine keeps_setReg ?_ | with_reducible refine keeps_foldl ?_ ?_)

theorem keeps_raiseQuanta {p : Nat} {s : State} (hS : Keeps M S0 s)
    (hM : Change.le { parts := [.log], regs := [.schClsQuant] } M = true := by first | assumption | exact Change.le_trans (by assumption) (by decide +kernel)) :
    Keeps M S0 (State.raiseQuanta s p) := by
  unfold State.raiseQuanta
  dsimp only
  repeat' (first | with_reducible assumption | intro _ | with_reducible refine keeps_setFld ?_ | with_reducible refine keeps_logEvent ?_ | with_reducible refine keeps_ite ?_ ?_ | with_reducible refine keeps_foldl ?_ ?_)

theorem keeps_portConfig {p : Nat} {mode : Nat} {en : Bool} {mfs : Nat} {addr : Nat} {pause : Bool} {s : State} (hS : Keeps M S0 s)
    (hM : Change.le { parts := [.meet, .cnt, .log, .tab, .path, .lanes, .out], anyReg := true } M = true := by first | assumption | exact Change.le_trans (by assumption) (by decide +kernel)) :
    Keeps M S0 (State.portConfig s p mode en mfs addr pause) := by
  unfold State.portConfig
  dsimp only
  repeat' (first | with_reducible assumption | intro _ | with_reducible refine keeps_setReg ?_ | with_reducible refine keeps_setFld ?_ | with_reducible refine keeps_setPortState ?_ | with_reducible refine keeps_recompute ?_ | with_reducible refine keeps_writePortCfg ?_ | with_reducible refine keeps_removePort ?_ | with_reducible refine keeps_setReadBack ?_ | with_reducible refine keeps_raiseQuanta ?_ | with_reducible refine keeps_ite ?_ ?_ | with_reducible refine keeps_foldl ?_ ?_)

theorem keeps_execPortConfig {p : Packet} {s : State} (hS : Keeps M S0 s)
    (hM : Change.le { parts := [.meet, .cnt, .pkts, .log, .tab, .path, .lanes, .out], anyReg := true } M = true := by first | assumption | exact Change.le_trans (by assumption) (by decide +kernel)) :
    KeepsOut M S0 (execPortConfig p s) := by
  unfold execPortConfig
  dsimp only
  repeat' (first | with_reducible assumption | intro _ | with_reducible refine keeps_Res_ok ?_ | with_reducible refine keeps_guarded ?_ ?_ | with_reducible refine keeps_runPacket ?_ ?_ | with_reducible refine keeps_portConfig ?_)

theorem keeps_setLlMask {p : Nat} {m : Nat} {s : State} (hS : Keeps M S0 s)
    (hM : Change.le { parts := [.path], regs := [.fcCfg, .fcStat] } M = true := by first | assumption | exact Change.le_trans (by assumption) (by decide +kernel)) :
    Keeps M S0 (State.setLlMask s p m) := by
  unfold State.setLlMask
  dsimp only
  repeat' (first | with_reducible assumption | intro _ | with_reducible refine keeps_setFld ?_ | with_reducible refine keeps_setFlow ?_ | with_reducible refine keeps_xoffCheck ?_ | with_reducible refine keeps_showPaused ?_ | with_reducible refine keeps_ite ?_ ?_ | with_reducible refine keeps_foldl ?_ ?_)

theorem keeps_askLl {k : ModeAsk} {s : State} (hS : Keeps M S0 s)
    (hM : Change.le { parts := [.path], regs := [.fcCfg, .fcStat] } M = true := by first | assumption | exact Change.le_trans (by assumption) (by decide +kernel)) :
    Keeps M S0 (State.askLl s k) := by
  unfold State.askLl
  repeat' (first | with_reducible assumption | intro _ | with_reducible refine keeps_setLlMask ?_ | with_reducible refine keeps_ite ?_ ?_)

theorem keeps_modePlan {k : ModeAsk} {s : State} (hS : Keeps M S0 s)
    (hM : Change.le { parts := [.path], regs := [.dtQcfgRsv, .fcCfg, .macMode, .qmQmode] } M = true := by first | assumption | exact Change.le_trans (by assumption) (by decide +kernel)) :
    Keeps M S0 (State.modePlan s k) := by
  unfold State.modePlan
  dsimp only
  repeat' (first | with_reducible assumption | intro _ | with_reducible refine keeps_setReg ?_ | with_reducible refine keeps_setFld ?_ | with_reducible refine keeps_recompute ?_ | with_reducible refine keeps_ite ?_ ?_)

theorem keeps_modeNow {k : ModeAsk} {s : State} (hS : Keeps M S0 s)
    (hM : Change.le { parts := [.meet, .cnt, .path], regs := [.dtQcfgRsv, .fcCfg, .fcStat, .gclOperPos, .macLink, .macMode, .macModeStat, .macStat, .pcsState, .qmPortStat, .qmQmode, .qmStat] } M = true := by first | assumption | exact Change.le_trans (by assumption) (by decide +kernel)) :
    Keeps M S0 (State.modeNow s k) := by
  unfold State.modeNow
  dsimp only
  repeat' (first | with_reducible assumption | intro _ | with_reducible refine keeps_writeMode ?_ | with_reducible refine keeps_writeDeep ?_ | with_reducible refine keeps_recompute ?_ | with_reducible refine keeps_askLl ?_ | with_reducible refine keeps_ite ?_ ?_)

theorem keeps_modeLater {k : ModeAsk} {forced : Nat} {s : State} (hS : Keeps M S0 s)
    (hM : Change.le { parts := [.tick, .meet, .log, .path], regs := [.dtQcfgRsv, .fcCfg, .fcStat, .qmQmode, .tickSchAct, .tickSchAddr, .tickSchData, .tickSchMissed, .tickSchTgt] } M = true := by first | assumption | exact Change.le_trans (by assumption) (by decide +kernel)) :
    Keeps M S0 (State.modeLater s k forced).1 := by
  unfold State.modeLater
  dsimp only
  repeat' (first | with_reducible assumption | intro _ | with_reducible refine keeps_recompute ?_ | with_reducible refine keeps_acceptHeld ?_ | with_reducible refine keeps_askLl ?_ | with_reducible refine keeps_ite ?_ ?_)

theorem keeps_execPortModeSet {p : Packet} {s : State} (hS : Keeps M S0 s)
    (hM : Change.le { parts := [.tick, .meet, .cnt, .pkts, .log, .path], regs := [.dtQcfgRsv, .fcCfg, .fcStat, .gclOperPos, .macLink, .macMode, .macModeStat, .macStat, .pcsState, .qmPortStat, .qmQmode, .qmStat, .tickSchAct, .tickSchAddr, .tickSchData, .tickSchMissed, .tickSchTgt] } M = true := by first | assumption | exact Change.le_trans (by assumption) (by decide +kernel)) :
    KeepsOut M S0 (execPortModeSet p s) := by
  unfold execPortModeSet
  dsimp only
  repeat' (first | with_reducible assumption | intro _ | with_reducible refine keeps_Res_ok ?_ | with_reducible refine keeps_guarded ?_ ?_ | with_reducible refine keeps_runPacket ?_ ?_ | with_reducible refine keeps_modeNow ?_ | with_reducible refine keeps_modeLater ?_ | with_reducible refine keeps_ite_res ?_ ?_)

theorem keeps_execPortModeGet {p : Packet} {s : State} (hS : Keeps M S0 s)
    (hM : Change.le { parts := [.pkts, .log] } M = true := by first | assumption | exact Change.le_trans (by assumption) (by decide +kernel)) :
    KeepsOut M S0 (execPortModeGet p s) := by
  unfold execPortModeGet
  dsimp only
  repeat' (first | with_reducible assumption | intro _ | with_reducible refine keeps_Res_ok ?_ | with_reducible refine keeps_guarded ?_ ?_ | with_reducible refine keeps_runPacket ?_ ?_)

theorem keeps_execPortStatusGet {p : Packet} {s : State} (hS : Keeps M S0 s)
    (hM : Change.le { parts := [.pkts, .log] } M = true := by first | assumption | exact Change.le_trans (by assumption) (by decide +kernel)) :
    KeepsOut M S0 (execPortStatusGet p s) := by
  unfold execPortStatusGet
  dsimp only
  repeat' (first | with_reducible assumption | intro _ | with_reducible refine keeps_Res_ok ?_ | with_reducible refine keeps_guarded ?_ ?_ | with_reducible refine keeps_runPacket ?_ ?_)

theorem keeps_execWakeSet {p : Packet} {s : State} (hS : Keeps M S0 s)
    (hM : Change.le { parts := [.pkts, .log], regs := [.macWakeCtl, .macWakeMask, .macWakePcfg] } M = true := by first | assumption | exact Change.le_trans (by assumption) (by decide +kernel)) :
    KeepsOut M S0 (execWakeSet p s) := by
  unfold execWakeSet
  dsimp only
  repeat' (first | with_reducible assumption | intro _ | with_reducible refine keeps_setReg ?_ | with_reducible refine keeps_setFld ?_ | with_reducible refine keeps_Res_ok ?_ | with_reducible refine keeps_guarded ?_ ?_ | with_reducible refine keeps_runPacket ?_ ?_ | with_reducible refine keeps_foldl ?_ ?_)

end Sys2Proof.Machine
end

