-- ==== Sys2Proof/Laws/State.lean ====
section
/-!
SUPPORT. What each update of the state leaves alone: one lemma per field per update, and the reads that see only other fields.
-/
namespace Sys2Proof.Machine

variable (s : State)

/-! ### setReg -/

@[simp] theorem setReg_fuses (r : Reg) (i : Nat) (v : Word) : (s.setReg r i v).fuses = s.fuses := rfl
@[simp] theorem setReg_tick (r : Reg) (i : Nat) (v : Word) : (s.setReg r i v).tick = s.tick := rfl
@[simp] theorem setReg_time (r : Reg) (i : Nat) (v : Word) : (s.setReg r i v).time = s.time := rfl
@[simp] theorem setReg_meet (r : Reg) (i : Nat) (v : Word) : (s.setReg r i v).meet = s.meet := rfl
@[simp] theorem setReg_cnt (r : Reg) (i : Nat) (v : Word) : (s.setReg r i v).cnt = s.cnt := rfl
@[simp] theorem setReg_samp (r : Reg) (i : Nat) (v : Word) : (s.setReg r i v).samp = s.samp := rfl
@[simp] theorem setReg_pkts (r : Reg) (i : Nat) (v : Word) : (s.setReg r i v).pkts = s.pkts := rfl
@[simp] theorem setReg_log (r : Reg) (i : Nat) (v : Word) : (s.setReg r i v).log = s.log := rfl
@[simp] theorem setReg_boot (r : Reg) (i : Nat) (v : Word) : (s.setReg r i v).boot = s.boot := rfl
@[simp] theorem setReg_ks (r : Reg) (i : Nat) (v : Word) : (s.setReg r i v).ks = s.ks := rfl
@[simp] theorem setReg_flash (r : Reg) (i : Nat) (v : Word) : (s.setReg r i v).flash = s.flash := rfl
@[simp] theorem setReg_power (r : Reg) (i : Nat) (v : Word) : (s.setReg r i v).power = s.power := rfl
@[simp] theorem setReg_tab (r : Reg) (i : Nat) (v : Word) : (s.setReg r i v).tab = s.tab := rfl
@[simp] theorem setReg_path (r : Reg) (i : Nat) (v : Word) : (s.setReg r i v).path = s.path := rfl
@[simp] theorem setReg_lanes (r : Reg) (i : Nat) (v : Word) : (s.setReg r i v).lanes = s.lanes := rfl
@[simp] theorem setReg_host (r : Reg) (i : Nat) (v : Word) : (s.setReg r i v).host = s.host := rfl
@[simp] theorem setReg_tree (r : Reg) (i : Nat) (v : Word) : (s.setReg r i v).tree = s.tree := rfl
@[simp] theorem setReg_shadow (r : Reg) (i : Nat) (v : Word) : (s.setReg r i v).shadow = s.shadow := rfl
@[simp] theorem setReg_out (r : Reg) (i : Nat) (v : Word) : (s.setReg r i v).out = s.out := rfl
@[simp] theorem setReg_free (r : Reg) (i : Nat) (v : Word) : (s.setReg r i v).free = s.free := rfl
@[simp] theorem setReg_pending (r : Reg) (i : Nat) (v : Word) : (s.setReg r i v).pending = s.pending := rfl

/-! ### setFld -/

@[simp] theorem setFld_fuses (f : Fld) (i v : Nat) : (s.setFld f i v).fuses = s.fuses := rfl
@[simp] theorem setFld_tick (f : Fld) (i v : Nat) : (s.setFld f i v).tick = s.tick := rfl
@[simp] theorem setFld_time (f : Fld) (i v : Nat) : (s.setFld f i v).time = s.time := rfl
@[simp] theorem setFld_meet (f : Fld) (i v : Nat) : (s.setFld f i v).meet = s.meet := rfl
@[simp] theorem setFld_cnt (f : Fld) (i v : Nat) : (s.setFld f i v).cnt = s.cnt := rfl
@[simp] theorem setFld_samp (f : Fld) (i v : Nat) : (s.setFld f i v).samp = s.samp := rfl
@[simp] theorem setFld_pkts (f : Fld) (i v : Nat) : (s.setFld f i v).pkts = s.pkts := rfl
@[simp] theorem setFld_log (f : Fld) (i v : Nat) : (s.setFld f i v).log = s.log := rfl
@[simp] theorem setFld_boot (f : Fld) (i v : Nat) : (s.setFld f i v).boot = s.boot := rfl
@[simp] theorem setFld_ks (f : Fld) (i v : Nat) : (s.setFld f i v).ks = s.ks := rfl
@[simp] theorem setFld_flash (f : Fld) (i v : Nat) : (s.setFld f i v).flash = s.flash := rfl
@[simp] theorem setFld_power (f : Fld) (i v : Nat) : (s.setFld f i v).power = s.power := rfl
@[simp] theorem setFld_tab (f : Fld) (i v : Nat) : (s.setFld f i v).tab = s.tab := rfl
@[simp] theorem setFld_path (f : Fld) (i v : Nat) : (s.setFld f i v).path = s.path := rfl
@[simp] theorem setFld_lanes (f : Fld) (i v : Nat) : (s.setFld f i v).lanes = s.lanes := rfl
@[simp] theorem setFld_host (f : Fld) (i v : Nat) : (s.setFld f i v).host = s.host := rfl
@[simp] theorem setFld_tree (f : Fld) (i v : Nat) : (s.setFld f i v).tree = s.tree := rfl
@[simp] theorem setFld_shadow (f : Fld) (i v : Nat) : (s.setFld f i v).shadow = s.shadow := rfl
@[simp] theorem setFld_out (f : Fld) (i v : Nat) : (s.setFld f i v).out = s.out := rfl
@[simp] theorem setFld_free (f : Fld) (i v : Nat) : (s.setFld f i v).free = s.free := rfl
@[simp] theorem setFld_pending (f : Fld) (i v : Nat) : (s.setFld f i v).pending = s.pending := rfl

/-! ### lower -/

@[simp] theorem lower_fuses (f : Fld) (i : Nat) : (s.lower f i).fuses = s.fuses := rfl
@[simp] theorem lower_tick (f : Fld) (i : Nat) : (s.lower f i).tick = s.tick := rfl
@[simp] theorem lower_time (f : Fld) (i : Nat) : (s.lower f i).time = s.time := rfl
@[simp] theorem lower_meet (f : Fld) (i : Nat) : (s.lower f i).meet = s.meet := rfl
@[simp] theorem lower_cnt (f : Fld) (i : Nat) : (s.lower f i).cnt = s.cnt := rfl
@[simp] theorem lower_samp (f : Fld) (i : Nat) : (s.lower f i).samp = s.samp := rfl
@[simp] theorem lower_pkts (f : Fld) (i : Nat) : (s.lower f i).pkts = s.pkts := rfl
@[simp] theorem lower_log (f : Fld) (i : Nat) : (s.lower f i).log = s.log := rfl
@[simp] theorem lower_boot (f : Fld) (i : Nat) : (s.lower f i).boot = s.boot := rfl
@[simp] theorem lower_ks (f : Fld) (i : Nat) : (s.lower f i).ks = s.ks := rfl
@[simp] theorem lower_flash (f : Fld) (i : Nat) : (s.lower f i).flash = s.flash := rfl
@[simp] theorem lower_power (f : Fld) (i : Nat) : (s.lower f i).power = s.power := rfl
@[simp] theorem lower_tab (f : Fld) (i : Nat) : (s.lower f i).tab = s.tab := rfl
@[simp] theorem lower_path (f : Fld) (i : Nat) : (s.lower f i).path = s.path := rfl
@[simp] theorem lower_lanes (f : Fld) (i : Nat) : (s.lower f i).lanes = s.lanes := rfl
@[simp] theorem lower_host (f : Fld) (i : Nat) : (s.lower f i).host = s.host := rfl
@[simp] theorem lower_tree (f : Fld) (i : Nat) : (s.lower f i).tree = s.tree := rfl
@[simp] theorem lower_shadow (f : Fld) (i : Nat) : (s.lower f i).shadow = s.shadow := rfl
@[simp] theorem lower_out (f : Fld) (i : Nat) : (s.lower f i).out = s.out := rfl
@[simp] theorem lower_free (f : Fld) (i : Nat) : (s.lower f i).free = s.free := rfl
@[simp] theorem lower_pending (f : Fld) (i : Nat) : (s.lower f i).pending = s.pending := rfl

/-! ### raise -/

@[simp] theorem raise_fuses (f : Fld) (i : Nat) : (s.raise f i).fuses = s.fuses := rfl
@[simp] theorem raise_tick (f : Fld) (i : Nat) : (s.raise f i).tick = s.tick := rfl
@[simp] theorem raise_time (f : Fld) (i : Nat) : (s.raise f i).time = s.time := rfl
@[simp] theorem raise_cnt (f : Fld) (i : Nat) : (s.raise f i).cnt = s.cnt := rfl
@[simp] theorem raise_samp (f : Fld) (i : Nat) : (s.raise f i).samp = s.samp := rfl
@[simp] theorem raise_pkts (f : Fld) (i : Nat) : (s.raise f i).pkts = s.pkts := rfl
@[simp] theorem raise_log (f : Fld) (i : Nat) : (s.raise f i).log = s.log := rfl
@[simp] theorem raise_boot (f : Fld) (i : Nat) : (s.raise f i).boot = s.boot := rfl
@[simp] theorem raise_ks (f : Fld) (i : Nat) : (s.raise f i).ks = s.ks := rfl
@[simp] theorem raise_flash (f : Fld) (i : Nat) : (s.raise f i).flash = s.flash := rfl
@[simp] theorem raise_power (f : Fld) (i : Nat) : (s.raise f i).power = s.power := rfl
@[simp] theorem raise_tab (f : Fld) (i : Nat) : (s.raise f i).tab = s.tab := rfl
@[simp] theorem raise_path (f : Fld) (i : Nat) : (s.raise f i).path = s.path := rfl
@[simp] theorem raise_lanes (f : Fld) (i : Nat) : (s.raise f i).lanes = s.lanes := rfl
@[simp] theorem raise_host (f : Fld) (i : Nat) : (s.raise f i).host = s.host := rfl
@[simp] theorem raise_tree (f : Fld) (i : Nat) : (s.raise f i).tree = s.tree := rfl
@[simp] theorem raise_shadow (f : Fld) (i : Nat) : (s.raise f i).shadow = s.shadow := rfl
@[simp] theorem raise_out (f : Fld) (i : Nat) : (s.raise f i).out = s.out := rfl
@[simp] theorem raise_free (f : Fld) (i : Nat) : (s.raise f i).free = s.free := rfl
@[simp] theorem raise_pending (f : Fld) (i : Nat) : (s.raise f i).pending = s.pending := rfl

/-! ### raiseBits -/

@[simp] theorem raiseBits_fuses (r : Reg) (i b : Nat) : (s.raiseBits r i b).fuses = s.fuses := rfl
@[simp] theorem raiseBits_tick (r : Reg) (i b : Nat) : (s.raiseBits r i b).tick = s.tick := rfl
@[simp] theorem raiseBits_time (r : Reg) (i b : Nat) : (s.raiseBits r i b).time = s.time := rfl
@[simp] theorem raiseBits_cnt (r : Reg) (i b : Nat) : (s.raiseBits r i b).cnt = s.cnt := rfl
@[simp] theorem raiseBits_samp (r : Reg) (i b : Nat) : (s.raiseBits r i b).samp = s.samp := rfl
@[simp] theorem raiseBits_pkts (r : Reg) (i b : Nat) : (s.raiseBits r i b).pkts = s.pkts := rfl
@[simp] theorem raiseBits_log (r : Reg) (i b : Nat) : (s.raiseBits r i b).log = s.log := rfl
@[simp] theorem raiseBits_boot (r : Reg) (i b : Nat) : (s.raiseBits r i b).boot = s.boot := rfl
@[simp] theorem raiseBits_ks (r : Reg) (i b : Nat) : (s.raiseBits r i b).ks = s.ks := rfl
@[simp] theorem raiseBits_flash (r : Reg) (i b : Nat) : (s.raiseBits r i b).flash = s.flash := rfl
@[simp] theorem raiseBits_power (r : Reg) (i b : Nat) : (s.raiseBits r i b).power = s.power := rfl
@[simp] theorem raiseBits_tab (r : Reg) (i b : Nat) : (s.raiseBits r i b).tab = s.tab := rfl
@[simp] theorem raiseBits_path (r : Reg) (i b : Nat) : (s.raiseBits r i b).path = s.path := rfl
@[simp] theorem raiseBits_lanes (r : Reg) (i b : Nat) : (s.raiseBits r i b).lanes = s.lanes := rfl
@[simp] theorem raiseBits_host (r : Reg) (i b : Nat) : (s.raiseBits r i b).host = s.host := rfl
@[simp] theorem raiseBits_tree (r : Reg) (i b : Nat) : (s.raiseBits r i b).tree = s.tree := rfl
@[simp] theorem raiseBits_shadow (r : Reg) (i b : Nat) : (s.raiseBits r i b).shadow = s.shadow := rfl
@[simp] theorem raiseBits_out (r : Reg) (i b : Nat) : (s.raiseBits r i b).out = s.out := rfl
@[simp] theorem raiseBits_free (r : Reg) (i b : Nat) : (s.raiseBits r i b).free = s.free := rfl
@[simp] theorem raiseBits_pending (r : Reg) (i b : Nat) : (s.raiseBits r i b).pending = s.pending := rfl

/-! ### w1c -/

@[simp] theorem w1c_fuses (r : Reg) (i b : Nat) : (s.w1c r i b).fuses = s.fuses := rfl
@[simp] theorem w1c_tick (r : Reg) (i b : Nat) : (s.w1c r i b).tick = s.tick := rfl
@[simp] theorem w1c_time (r : Reg) (i b : Nat) : (s.w1c r i b).time = s.time := rfl
@[simp] theorem w1c_meet (r : Reg) (i b : Nat) : (s.w1c r i b).meet = s.meet := rfl
@[simp] theorem w1c_cnt (r : Reg) (i b : Nat) : (s.w1c r i b).cnt = s.cnt := rfl
@[simp] theorem w1c_samp (r : Reg) (i b : Nat) : (s.w1c r i b).samp = s.samp := rfl
@[simp] theorem w1c_pkts (r : Reg) (i b : Nat) : (s.w1c r i b).pkts = s.pkts := rfl
@[simp] theorem w1c_log (r : Reg) (i b : Nat) : (s.w1c r i b).log = s.log := rfl
@[simp] theorem w1c_boot (r : Reg) (i b : Nat) : (s.w1c r i b).boot = s.boot := rfl
@[simp] theorem w1c_ks (r : Reg) (i b : Nat) : (s.w1c r i b).ks = s.ks := rfl
@[simp] theorem w1c_flash (r : Reg) (i b : Nat) : (s.w1c r i b).flash = s.flash := rfl
@[simp] theorem w1c_power (r : Reg) (i b : Nat) : (s.w1c r i b).power = s.power := rfl
@[simp] theorem w1c_tab (r : Reg) (i b : Nat) : (s.w1c r i b).tab = s.tab := rfl
@[simp] theorem w1c_path (r : Reg) (i b : Nat) : (s.w1c r i b).path = s.path := rfl
@[simp] theorem w1c_lanes (r : Reg) (i b : Nat) : (s.w1c r i b).lanes = s.lanes := rfl
@[simp] theorem w1c_host (r : Reg) (i b : Nat) : (s.w1c r i b).host = s.host := rfl
@[simp] theorem w1c_tree (r : Reg) (i b : Nat) : (s.w1c r i b).tree = s.tree := rfl
@[simp] theorem w1c_shadow (r : Reg) (i b : Nat) : (s.w1c r i b).shadow = s.shadow := rfl
@[simp] theorem w1c_out (r : Reg) (i b : Nat) : (s.w1c r i b).out = s.out := rfl
@[simp] theorem w1c_free (r : Reg) (i b : Nat) : (s.w1c r i b).free = s.free := rfl
@[simp] theorem w1c_pending (r : Reg) (i b : Nat) : (s.w1c r i b).pending = s.pending := rfl

/-! ### count -/

@[simp] theorem count_fuses (r : Reg) (i n : Nat) : (s.count r i n).fuses = s.fuses := rfl
@[simp] theorem count_tick (r : Reg) (i n : Nat) : (s.count r i n).tick = s.tick := rfl
@[simp] theorem count_time (r : Reg) (i n : Nat) : (s.count r i n).time = s.time := rfl
@[simp] theorem count_regs (r : Reg) (i n : Nat) : (s.count r i n).regs = s.regs := rfl
@[simp] theorem count_meet (r : Reg) (i n : Nat) : (s.count r i n).meet = s.meet := rfl
@[simp] theorem count_samp (r : Reg) (i n : Nat) : (s.count r i n).samp = s.samp := rfl
@[simp] theorem count_pkts (r : Reg) (i n : Nat) : (s.count r i n).pkts = s.pkts := rfl
@[simp] theorem count_log (r : Reg) (i n : Nat) : (s.count r i n).log = s.log := rfl
@[simp] theorem count_boot (r : Reg) (i n : Nat) : (s.count r i n).boot = s.boot := rfl
@[simp] theorem count_ks (r : Reg) (i n : Nat) : (s.count r i n).ks = s.ks := rfl
@[simp] theorem count_flash (r : Reg) (i n : Nat) : (s.count r i n).flash = s.flash := rfl
@[simp] theorem count_power (r : Reg) (i n : Nat) : (s.count r i n).power = s.power := rfl
@[simp] theorem count_tab (r : Reg) (i n : Nat) : (s.count r i n).tab = s.tab := rfl
@[simp] theorem count_path (r : Reg) (i n : Nat) : (s.count r i n).path = s.path := rfl
@[simp] theorem count_lanes (r : Reg) (i n : Nat) : (s.count r i n).lanes = s.lanes := rfl
@[simp] theorem count_host (r : Reg) (i n : Nat) : (s.count r i n).host = s.host := rfl
@[simp] theorem count_tree (r : Reg) (i n : Nat) : (s.count r i n).tree = s.tree := rfl
@[simp] theorem count_shadow (r : Reg) (i n : Nat) : (s.count r i n).shadow = s.shadow := rfl
@[simp] theorem count_out (r : Reg) (i n : Nat) : (s.count r i n).out = s.out := rfl
@[simp] theorem count_free (r : Reg) (i n : Nat) : (s.count r i n).free = s.free := rfl
@[simp] theorem count_pending (r : Reg) (i n : Nat) : (s.count r i n).pending = s.pending := rfl

/-! ### countArr -/

@[simp] theorem countArr_fuses (a i n : Nat) : (s.countArr a i n).fuses = s.fuses := rfl
@[simp] theorem countArr_tick (a i n : Nat) : (s.countArr a i n).tick = s.tick := rfl
@[simp] theorem countArr_time (a i n : Nat) : (s.countArr a i n).time = s.time := rfl
@[simp] theorem countArr_regs (a i n : Nat) : (s.countArr a i n).regs = s.regs := rfl
@[simp] theorem countArr_meet (a i n : Nat) : (s.countArr a i n).meet = s.meet := rfl
@[simp] theorem countArr_samp (a i n : Nat) : (s.countArr a i n).samp = s.samp := rfl
@[simp] theorem countArr_pkts (a i n : Nat) : (s.countArr a i n).pkts = s.pkts := rfl
@[simp] theorem countArr_log (a i n : Nat) : (s.countArr a i n).log = s.log := rfl
@[simp] theorem countArr_boot (a i n : Nat) : (s.countArr a i n).boot = s.boot := rfl
@[simp] theorem countArr_ks (a i n : Nat) : (s.countArr a i n).ks = s.ks := rfl
@[simp] theorem countArr_flash (a i n : Nat) : (s.countArr a i n).flash = s.flash := rfl
@[simp] theorem countArr_power (a i n : Nat) : (s.countArr a i n).power = s.power := rfl
@[simp] theorem countArr_tab (a i n : Nat) : (s.countArr a i n).tab = s.tab := rfl
@[simp] theorem countArr_path (a i n : Nat) : (s.countArr a i n).path = s.path := rfl
@[simp] theorem countArr_lanes (a i n : Nat) : (s.countArr a i n).lanes = s.lanes := rfl
@[simp] theorem countArr_host (a i n : Nat) : (s.countArr a i n).host = s.host := rfl
@[simp] theorem countArr_tree (a i n : Nat) : (s.countArr a i n).tree = s.tree := rfl
@[simp] theorem countArr_shadow (a i n : Nat) : (s.countArr a i n).shadow = s.shadow := rfl
@[simp] theorem countArr_out (a i n : Nat) : (s.countArr a i n).out = s.out := rfl
@[simp] theorem countArr_free (a i n : Nat) : (s.countArr a i n).free = s.free := rfl
@[simp] theorem countArr_pending (a i n : Nat) : (s.countArr a i n).pending = s.pending := rfl

/-! ### emit -/

@[simp] theorem emit_fuses (o : Out) : (s.emit o).fuses = s.fuses := rfl
@[simp] theorem emit_tick (o : Out) : (s.emit o).tick = s.tick := rfl
@[simp] theorem emit_time (o : Out) : (s.emit o).time = s.time := rfl
@[simp] theorem emit_regs (o : Out) : (s.emit o).regs = s.regs := rfl
@[simp] theorem emit_meet (o : Out) : (s.emit o).meet = s.meet := rfl
@[simp] theorem emit_cnt (o : Out) : (s.emit o).cnt = s.cnt := rfl
@[simp] theorem emit_samp (o : Out) : (s.emit o).samp = s.samp := rfl
@[simp] theorem emit_pkts (o : Out) : (s.emit o).pkts = s.pkts := rfl
@[simp] theorem emit_log (o : Out) : (s.emit o).log = s.log := rfl
@[simp] theorem emit_boot (o : Out) : (s.emit o).boot = s.boot := rfl
@[simp] theorem emit_ks (o : Out) : (s.emit o).ks = s.ks := rfl
@[simp] theorem emit_flash (o : Out) : (s.emit o).flash = s.flash := rfl
@[simp] theorem emit_power (o : Out) : (s.emit o).power = s.power := rfl
@[simp] theorem emit_tab (o : Out) : (s.emit o).tab = s.tab := rfl
@[simp] theorem emit_path (o : Out) : (s.emit o).path = s.path := rfl
@[simp] theorem emit_lanes (o : Out) : (s.emit o).lanes = s.lanes := rfl
@[simp] theorem emit_host (o : Out) : (s.emit o).host = s.host := rfl
@[simp] theorem emit_tree (o : Out) : (s.emit o).tree = s.tree := rfl
@[simp] theorem emit_shadow (o : Out) : (s.emit o).shadow = s.shadow := rfl
@[simp] theorem emit_free (o : Out) : (s.emit o).free = s.free := rfl
@[simp] theorem emit_pending (o : Out) : (s.emit o).pending = s.pending := rfl

/-! ### draw -/

@[simp] theorem draw_fuses : (s.draw).fuses = s.fuses := rfl
@[simp] theorem draw_tick : (s.draw).tick = s.tick := rfl
@[simp] theorem draw_time : (s.draw).time = s.time := rfl
@[simp] theorem draw_regs : (s.draw).regs = s.regs := rfl
@[simp] theorem draw_meet : (s.draw).meet = s.meet := rfl
@[simp] theorem draw_cnt : (s.draw).cnt = s.cnt := rfl
@[simp] theorem draw_samp : (s.draw).samp = s.samp := rfl
@[simp] theorem draw_pkts : (s.draw).pkts = s.pkts := rfl
@[simp] theorem draw_log : (s.draw).log = s.log := rfl
@[simp] theorem draw_boot : (s.draw).boot = s.boot := rfl
@[simp] theorem draw_ks : (s.draw).ks = s.ks := rfl
@[simp] theorem draw_flash : (s.draw).flash = s.flash := rfl
@[simp] theorem draw_power : (s.draw).power = s.power := rfl
@[simp] theorem draw_tab : (s.draw).tab = s.tab := rfl
@[simp] theorem draw_path : (s.draw).path = s.path := rfl
@[simp] theorem draw_lanes : (s.draw).lanes = s.lanes := rfl
@[simp] theorem draw_host : (s.draw).host = s.host := rfl
@[simp] theorem draw_tree : (s.draw).tree = s.tree := rfl
@[simp] theorem draw_shadow : (s.draw).shadow = s.shadow := rfl
@[simp] theorem draw_out : (s.draw).out = s.out := rfl
@[simp] theorem draw_pending : (s.draw).pending = s.pending := rfl

/-! ### logEvent -/

@[simp] theorem logEvent_fuses (k : Nat) (d : List Byte) : (s.logEvent k d).fuses = s.fuses := rfl
@[simp] theorem logEvent_tick (k : Nat) (d : List Byte) : (s.logEvent k d).tick = s.tick := rfl
@[simp] theorem logEvent_time (k : Nat) (d : List Byte) : (s.logEvent k d).time = s.time := rfl
@[simp] theorem logEvent_regs (k : Nat) (d : List Byte) : (s.logEvent k d).regs = s.regs := rfl
@[simp] theorem logEvent_meet (k : Nat) (d : List Byte) : (s.logEvent k d).meet = s.meet := rfl
@[simp] theorem logEvent_cnt (k : Nat) (d : List Byte) : (s.logEvent k d).cnt = s.cnt := rfl
@[simp] theorem logEvent_samp (k : Nat) (d : List Byte) : (s.logEvent k d).samp = s.samp := rfl
@[simp] theorem logEvent_pkts (k : Nat) (d : List Byte) : (s.logEvent k d).pkts = s.pkts := rfl
@[simp] theorem logEvent_boot (k : Nat) (d : List Byte) : (s.logEvent k d).boot = s.boot := rfl
@[simp] theorem logEvent_ks (k : Nat) (d : List Byte) : (s.logEvent k d).ks = s.ks := rfl
@[simp] theorem logEvent_flash (k : Nat) (d : List Byte) : (s.logEvent k d).flash = s.flash := rfl
@[simp] theorem logEvent_power (k : Nat) (d : List Byte) : (s.logEvent k d).power = s.power := rfl
@[simp] theorem logEvent_tab (k : Nat) (d : List Byte) : (s.logEvent k d).tab = s.tab := rfl
@[simp] theorem logEvent_path (k : Nat) (d : List Byte) : (s.logEvent k d).path = s.path := rfl
@[simp] theorem logEvent_lanes (k : Nat) (d : List Byte) : (s.logEvent k d).lanes = s.lanes := rfl
@[simp] theorem logEvent_host (k : Nat) (d : List Byte) : (s.logEvent k d).host = s.host := rfl
@[simp] theorem logEvent_tree (k : Nat) (d : List Byte) : (s.logEvent k d).tree = s.tree := rfl
@[simp] theorem logEvent_shadow (k : Nat) (d : List Byte) : (s.logEvent k d).shadow = s.shadow := rfl
@[simp] theorem logEvent_out (k : Nat) (d : List Byte) : (s.logEvent k d).out = s.out := rfl
@[simp] theorem logEvent_free (k : Nat) (d : List Byte) : (s.logEvent k d).free = s.free := rfl
@[simp] theorem logEvent_pending (k : Nat) (d : List Byte) : (s.logEvent k d).pending = s.pending := rfl

/-! ### logConfig -/

@[simp] theorem logConfig_fuses (k : Nat) (d : List Byte) : (s.logConfig k d).fuses = s.fuses := rfl
@[simp] theorem logConfig_tick (k : Nat) (d : List Byte) : (s.logConfig k d).tick = s.tick := rfl
@[simp] theorem logConfig_time (k : Nat) (d : List Byte) : (s.logConfig k d).time = s.time := rfl
@[simp] theorem logConfig_regs (k : Nat) (d : List Byte) : (s.logConfig k d).regs = s.regs := rfl
@[simp] theorem logConfig_meet (k : Nat) (d : List Byte) : (s.logConfig k d).meet = s.meet := rfl
@[simp] theorem logConfig_cnt (k : Nat) (d : List Byte) : (s.logConfig k d).cnt = s.cnt := rfl
@[simp] theorem logConfig_samp (k : Nat) (d : List Byte) : (s.logConfig k d).samp = s.samp := rfl
@[simp] theorem logConfig_pkts (k : Nat) (d : List Byte) : (s.logConfig k d).pkts = s.pkts := rfl
@[simp] theorem logConfig_boot (k : Nat) (d : List Byte) : (s.logConfig k d).boot = s.boot := rfl
@[simp] theorem logConfig_ks (k : Nat) (d : List Byte) : (s.logConfig k d).ks = s.ks := rfl
@[simp] theorem logConfig_flash (k : Nat) (d : List Byte) : (s.logConfig k d).flash = s.flash := rfl
@[simp] theorem logConfig_power (k : Nat) (d : List Byte) : (s.logConfig k d).power = s.power := rfl
@[simp] theorem logConfig_tab (k : Nat) (d : List Byte) : (s.logConfig k d).tab = s.tab := rfl
@[simp] theorem logConfig_path (k : Nat) (d : List Byte) : (s.logConfig k d).path = s.path := rfl
@[simp] theorem logConfig_lanes (k : Nat) (d : List Byte) : (s.logConfig k d).lanes = s.lanes := rfl
@[simp] theorem logConfig_host (k : Nat) (d : List Byte) : (s.logConfig k d).host = s.host := rfl
@[simp] theorem logConfig_tree (k : Nat) (d : List Byte) : (s.logConfig k d).tree = s.tree := rfl
@[simp] theorem logConfig_shadow (k : Nat) (d : List Byte) : (s.logConfig k d).shadow = s.shadow := rfl
@[simp] theorem logConfig_out (k : Nat) (d : List Byte) : (s.logConfig k d).out = s.out := rfl
@[simp] theorem logConfig_free (k : Nat) (d : List Byte) : (s.logConfig k d).free = s.free := rfl
@[simp] theorem logConfig_pending (k : Nat) (d : List Byte) : (s.logConfig k d).pending = s.pending := rfl

/-! ### setJournal -/

@[simp] theorem setJournal_fuses (c t : Nat) (j : JState) : (s.setJournal c t j).fuses = s.fuses := rfl
@[simp] theorem setJournal_tick (c t : Nat) (j : JState) : (s.setJournal c t j).tick = s.tick := rfl
@[simp] theorem setJournal_time (c t : Nat) (j : JState) : (s.setJournal c t j).time = s.time := rfl
@[simp] theorem setJournal_regs (c t : Nat) (j : JState) : (s.setJournal c t j).regs = s.regs := rfl
@[simp] theorem setJournal_meet (c t : Nat) (j : JState) : (s.setJournal c t j).meet = s.meet := rfl
@[simp] theorem setJournal_cnt (c t : Nat) (j : JState) : (s.setJournal c t j).cnt = s.cnt := rfl
@[simp] theorem setJournal_samp (c t : Nat) (j : JState) : (s.setJournal c t j).samp = s.samp := rfl
@[simp] theorem setJournal_log (c t : Nat) (j : JState) : (s.setJournal c t j).log = s.log := rfl
@[simp] theorem setJournal_boot (c t : Nat) (j : JState) : (s.setJournal c t j).boot = s.boot := rfl
@[simp] theorem setJournal_ks (c t : Nat) (j : JState) : (s.setJournal c t j).ks = s.ks := rfl
@[simp] theorem setJournal_flash (c t : Nat) (j : JState) : (s.setJournal c t j).flash = s.flash := rfl
@[simp] theorem setJournal_power (c t : Nat) (j : JState) : (s.setJournal c t j).power = s.power := rfl
@[simp] theorem setJournal_tab (c t : Nat) (j : JState) : (s.setJournal c t j).tab = s.tab := rfl
@[simp] theorem setJournal_path (c t : Nat) (j : JState) : (s.setJournal c t j).path = s.path := rfl
@[simp] theorem setJournal_lanes (c t : Nat) (j : JState) : (s.setJournal c t j).lanes = s.lanes := rfl
@[simp] theorem setJournal_host (c t : Nat) (j : JState) : (s.setJournal c t j).host = s.host := rfl
@[simp] theorem setJournal_tree (c t : Nat) (j : JState) : (s.setJournal c t j).tree = s.tree := rfl
@[simp] theorem setJournal_shadow (c t : Nat) (j : JState) : (s.setJournal c t j).shadow = s.shadow := rfl
@[simp] theorem setJournal_out (c t : Nat) (j : JState) : (s.setJournal c t j).out = s.out := rfl
@[simp] theorem setJournal_free (c t : Nat) (j : JState) : (s.setJournal c t j).free = s.free := rfl
@[simp] theorem setJournal_pending (c t : Nat) (j : JState) : (s.setJournal c t j).pending = s.pending := rfl

/-! ### addJournal -/

@[simp] theorem addJournal_fuses (j : JEntry) : (s.addJournal j).fuses = s.fuses := rfl
@[simp] theorem addJournal_tick (j : JEntry) : (s.addJournal j).tick = s.tick := rfl
@[simp] theorem addJournal_time (j : JEntry) : (s.addJournal j).time = s.time := rfl
@[simp] theorem addJournal_regs (j : JEntry) : (s.addJournal j).regs = s.regs := rfl
@[simp] theorem addJournal_meet (j : JEntry) : (s.addJournal j).meet = s.meet := rfl
@[simp] theorem addJournal_cnt (j : JEntry) : (s.addJournal j).cnt = s.cnt := rfl
@[simp] theorem addJournal_samp (j : JEntry) : (s.addJournal j).samp = s.samp := rfl
@[simp] theorem addJournal_log (j : JEntry) : (s.addJournal j).log = s.log := rfl
@[simp] theorem addJournal_boot (j : JEntry) : (s.addJournal j).boot = s.boot := rfl
@[simp] theorem addJournal_ks (j : JEntry) : (s.addJournal j).ks = s.ks := rfl
@[simp] theorem addJournal_flash (j : JEntry) : (s.addJournal j).flash = s.flash := rfl
@[simp] theorem addJournal_power (j : JEntry) : (s.addJournal j).power = s.power := rfl
@[simp] theorem addJournal_tab (j : JEntry) : (s.addJournal j).tab = s.tab := rfl
@[simp] theorem addJournal_path (j : JEntry) : (s.addJournal j).path = s.path := rfl
@[simp] theorem addJournal_lanes (j : JEntry) : (s.addJournal j).lanes = s.lanes := rfl
@[simp] theorem addJournal_host (j : JEntry) : (s.addJournal j).host = s.host := rfl
@[simp] theorem addJournal_tree (j : JEntry) : (s.addJournal j).tree = s.tree := rfl
@[simp] theorem addJournal_shadow (j : JEntry) : (s.addJournal j).shadow = s.shadow := rfl
@[simp] theorem addJournal_out (j : JEntry) : (s.addJournal j).out = s.out := rfl
@[simp] theorem addJournal_free (j : JEntry) : (s.addJournal j).free = s.free := rfl
@[simp] theorem addJournal_pending (j : JEntry) : (s.addJournal j).pending = s.pending := rfl

/-! ### reply -/

@[simp] theorem reply_fuses (r : Reply) : (s.reply r).fuses = s.fuses := rfl
@[simp] theorem reply_tick (r : Reply) : (s.reply r).tick = s.tick := rfl
@[simp] theorem reply_time (r : Reply) : (s.reply r).time = s.time := rfl
@[simp] theorem reply_regs (r : Reply) : (s.reply r).regs = s.regs := rfl
@[simp] theorem reply_meet (r : Reply) : (s.reply r).meet = s.meet := rfl
@[simp] theorem reply_cnt (r : Reply) : (s.reply r).cnt = s.cnt := rfl
@[simp] theorem reply_samp (r : Reply) : (s.reply r).samp = s.samp := rfl
@[simp] theorem reply_log (r : Reply) : (s.reply r).log = s.log := rfl
@[simp] theorem reply_boot (r : Reply) : (s.reply r).boot = s.boot := rfl
@[simp] theorem reply_ks (r : Reply) : (s.reply r).ks = s.ks := rfl
@[simp] theorem reply_flash (r : Reply) : (s.reply r).flash = s.flash := rfl
@[simp] theorem reply_power (r : Reply) : (s.reply r).power = s.power := rfl
@[simp] theorem reply_tab (r : Reply) : (s.reply r).tab = s.tab := rfl
@[simp] theorem reply_path (r : Reply) : (s.reply r).path = s.path := rfl
@[simp] theorem reply_lanes (r : Reply) : (s.reply r).lanes = s.lanes := rfl
@[simp] theorem reply_host (r : Reply) : (s.reply r).host = s.host := rfl
@[simp] theorem reply_tree (r : Reply) : (s.reply r).tree = s.tree := rfl
@[simp] theorem reply_shadow (r : Reply) : (s.reply r).shadow = s.shadow := rfl
@[simp] theorem reply_out (r : Reply) : (s.reply r).out = s.out := rfl
@[simp] theorem reply_free (r : Reply) : (s.reply r).free = s.free := rfl
@[simp] theorem reply_pending (r : Reply) : (s.reply r).pending = s.pending := rfl

/-! ### untake -/

@[simp] theorem untake_fuses (op : Nat) (p : Packet) : (s.untake op p).fuses = s.fuses := rfl
@[simp] theorem untake_tick (op : Nat) (p : Packet) : (s.untake op p).tick = s.tick := rfl
@[simp] theorem untake_time (op : Nat) (p : Packet) : (s.untake op p).time = s.time := rfl
@[simp] theorem untake_regs (op : Nat) (p : Packet) : (s.untake op p).regs = s.regs := rfl
@[simp] theorem untake_meet (op : Nat) (p : Packet) : (s.untake op p).meet = s.meet := rfl
@[simp] theorem untake_cnt (op : Nat) (p : Packet) : (s.untake op p).cnt = s.cnt := rfl
@[simp] theorem untake_samp (op : Nat) (p : Packet) : (s.untake op p).samp = s.samp := rfl
@[simp] theorem untake_log (op : Nat) (p : Packet) : (s.untake op p).log = s.log := rfl
@[simp] theorem untake_boot (op : Nat) (p : Packet) : (s.untake op p).boot = s.boot := rfl
@[simp] theorem untake_ks (op : Nat) (p : Packet) : (s.untake op p).ks = s.ks := rfl
@[simp] theorem untake_flash (op : Nat) (p : Packet) : (s.untake op p).flash = s.flash := rfl
@[simp] theorem untake_power (op : Nat) (p : Packet) : (s.untake op p).power = s.power := rfl
@[simp] theorem untake_tab (op : Nat) (p : Packet) : (s.untake op p).tab = s.tab := rfl
@[simp] theorem untake_path (op : Nat) (p : Packet) : (s.untake op p).path = s.path := rfl
@[simp] theorem untake_lanes (op : Nat) (p : Packet) : (s.untake op p).lanes = s.lanes := rfl
@[simp] theorem untake_host (op : Nat) (p : Packet) : (s.untake op p).host = s.host := rfl
@[simp] theorem untake_tree (op : Nat) (p : Packet) : (s.untake op p).tree = s.tree := rfl
@[simp] theorem untake_shadow (op : Nat) (p : Packet) : (s.untake op p).shadow = s.shadow := rfl
@[simp] theorem untake_out (op : Nat) (p : Packet) : (s.untake op p).out = s.out := rfl
@[simp] theorem untake_free (op : Nat) (p : Packet) : (s.untake op p).free = s.free := rfl
@[simp] theorem untake_pending (op : Nat) (p : Packet) : (s.untake op p).pending = s.pending := rfl

/-! ### inPath -/

@[simp] theorem inPath_fuses (f : Path → Path) : (s.inPath f).fuses = s.fuses := rfl
@[simp] theorem inPath_tick (f : Path → Path) : (s.inPath f).tick = s.tick := rfl
@[simp] theorem inPath_time (f : Path → Path) : (s.inPath f).time = s.time := rfl
@[simp] theorem inPath_regs (f : Path → Path) : (s.inPath f).regs = s.regs := rfl
@[simp] theorem inPath_meet (f : Path → Path) : (s.inPath f).meet = s.meet := rfl
@[simp] theorem inPath_cnt (f : Path → Path) : (s.inPath f).cnt = s.cnt := rfl
@[simp] theorem inPath_samp (f : Path → Path) : (s.inPath f).samp = s.samp := rfl
@[simp] theorem inPath_pkts (f : Path → Path) : (s.inPath f).pkts = s.pkts := rfl
@[simp] theorem inPath_log (f : Path → Path) : (s.inPath f).log = s.log := rfl
@[simp] theorem inPath_boot (f : Path → Path) : (s.inPath f).boot = s.boot := rfl
@[simp] theorem inPath_ks (f : Path → Path) : (s.inPath f).ks = s.ks := rfl
@[simp] theorem inPath_flash (f : Path → Path) : (s.inPath f).flash = s.flash := rfl
@[simp] theorem inPath_power (f : Path → Path) : (s.inPath f).power = s.power := rfl
@[simp] theorem inPath_tab (f : Path → Path) : (s.inPath f).tab = s.tab := rfl
@[simp] theorem inPath_lanes (f : Path → Path) : (s.inPath f).lanes = s.lanes := rfl
@[simp] theorem inPath_host (f : Path → Path) : (s.inPath f).host = s.host := rfl
@[simp] theorem inPath_tree (f : Path → Path) : (s.inPath f).tree = s.tree := rfl
@[simp] theorem inPath_shadow (f : Path → Path) : (s.inPath f).shadow = s.shadow := rfl
@[simp] theorem inPath_out (f : Path → Path) : (s.inPath f).out = s.out := rfl
@[simp] theorem inPath_free (f : Path → Path) : (s.inPath f).free = s.free := rfl
@[simp] theorem inPath_pending (f : Path → Path) : (s.inPath f).pending = s.pending := rfl

/-! ### kick -/

@[simp] theorem kick_fuses : (s.kick).fuses = s.fuses := rfl
@[simp] theorem kick_tick : (s.kick).tick = s.tick := rfl
@[simp] theorem kick_time : (s.kick).time = s.time := rfl
@[simp] theorem kick_regs : (s.kick).regs = s.regs := rfl
@[simp] theorem kick_meet : (s.kick).meet = s.meet := rfl
@[simp] theorem kick_cnt : (s.kick).cnt = s.cnt := rfl
@[simp] theorem kick_samp : (s.kick).samp = s.samp := rfl
@[simp] theorem kick_pkts : (s.kick).pkts = s.pkts := rfl
@[simp] theorem kick_log : (s.kick).log = s.log := rfl
@[simp] theorem kick_ks : (s.kick).ks = s.ks := rfl
@[simp] theorem kick_flash : (s.kick).flash = s.flash := rfl
@[simp] theorem kick_power : (s.kick).power = s.power := rfl
@[simp] theorem kick_tab : (s.kick).tab = s.tab := rfl
@[simp] theorem kick_path : (s.kick).path = s.path := rfl
@[simp] theorem kick_lanes : (s.kick).lanes = s.lanes := rfl
@[simp] theorem kick_host : (s.kick).host = s.host := rfl
@[simp] theorem kick_tree : (s.kick).tree = s.tree := rfl
@[simp] theorem kick_shadow : (s.kick).shadow = s.shadow := rfl
@[simp] theorem kick_out : (s.kick).out = s.out := rfl
@[simp] theorem kick_free : (s.kick).free = s.free := rfl
@[simp] theorem kick_pending : (s.kick).pending = s.pending := rfl

/-! ### advanceFuses -/

@[simp] theorem advanceFuses_tick (k : Nat) : (s.advanceFuses k).tick = s.tick := rfl
@[simp] theorem advanceFuses_time (k : Nat) : (s.advanceFuses k).time = s.time := rfl
@[simp] theorem advanceFuses_regs (k : Nat) : (s.advanceFuses k).regs = s.regs := rfl
@[simp] theorem advanceFuses_meet (k : Nat) : (s.advanceFuses k).meet = s.meet := rfl
@[simp] theorem advanceFuses_cnt (k : Nat) : (s.advanceFuses k).cnt = s.cnt := rfl
@[simp] theorem advanceFuses_samp (k : Nat) : (s.advanceFuses k).samp = s.samp := rfl
@[simp] theorem advanceFuses_pkts (k : Nat) : (s.advanceFuses k).pkts = s.pkts := rfl
@[simp] theorem advanceFuses_log (k : Nat) : (s.advanceFuses k).log = s.log := rfl
@[simp] theorem advanceFuses_boot (k : Nat) : (s.advanceFuses k).boot = s.boot := rfl
@[simp] theorem advanceFuses_ks (k : Nat) : (s.advanceFuses k).ks = s.ks := rfl
@[simp] theorem advanceFuses_flash (k : Nat) : (s.advanceFuses k).flash = s.flash := rfl
@[simp] theorem advanceFuses_power (k : Nat) : (s.advanceFuses k).power = s.power := rfl
@[simp] theorem advanceFuses_tab (k : Nat) : (s.advanceFuses k).tab = s.tab := rfl
@[simp] theorem advanceFuses_path (k : Nat) : (s.advanceFuses k).path = s.path := rfl
@[simp] theorem advanceFuses_lanes (k : Nat) : (s.advanceFuses k).lanes = s.lanes := rfl
@[simp] theorem advanceFuses_host (k : Nat) : (s.advanceFuses k).host = s.host := rfl
@[simp] theorem advanceFuses_tree (k : Nat) : (s.advanceFuses k).tree = s.tree := rfl
@[simp] theorem advanceFuses_shadow (k : Nat) : (s.advanceFuses k).shadow = s.shadow := rfl
@[simp] theorem advanceFuses_out (k : Nat) : (s.advanceFuses k).out = s.out := rfl
@[simp] theorem advanceFuses_free (k : Nat) : (s.advanceFuses k).free = s.free := rfl
@[simp] theorem advanceFuses_pending (k : Nat) : (s.advanceFuses k).pending = s.pending := rfl

/-! ### Registers after an update of another part -/

@[simp] theorem count_reg_eq (r : Reg) (i n : Nat) (q : Reg) (x : Nat) : (s.count r i n).reg q x = s.reg q x := rfl
@[simp] theorem count_fld_eq (r : Reg) (i n : Nat) (q : Fld) (x : Nat) : (s.count r i n).fld q x = s.fld q x := rfl
@[simp] theorem count_flag_eq (r : Reg) (i n : Nat) (q : Fld) (x : Nat) : (s.count r i n).flag q x = s.flag q x := rfl
@[simp] theorem countArr_reg_eq (a i n : Nat) (q : Reg) (x : Nat) : (s.countArr a i n).reg q x = s.reg q x := rfl
@[simp] theorem countArr_fld_eq (a i n : Nat) (q : Fld) (x : Nat) : (s.countArr a i n).fld q x = s.fld q x := rfl
@[simp] theorem countArr_flag_eq (a i n : Nat) (q : Fld) (x : Nat) : (s.countArr a i n).flag q x = s.flag q x := rfl
@[simp] theorem emit_reg_eq (o : Out) (q : Reg) (x : Nat) : (s.emit o).reg q x = s.reg q x := rfl
@[simp] theorem emit_fld_eq (o : Out) (q : Fld) (x : Nat) : (s.emit o).fld q x = s.fld q x := rfl
@[simp] theorem emit_flag_eq (o : Out) (q : Fld) (x : Nat) : (s.emit o).flag q x = s.flag q x := rfl
@[simp] theorem draw_reg_eq (q : Reg) (x : Nat) : (s.draw).reg q x = s.reg q x := rfl
@[simp] theorem draw_fld_eq (q : Fld) (x : Nat) : (s.draw).fld q x = s.fld q x := rfl
@[simp] theorem draw_flag_eq (q : Fld) (x : Nat) : (s.draw).flag q x = s.flag q x := rfl
@[simp] theorem logEvent_reg_eq (k : Nat) (d : List Byte) (q : Reg) (x : Nat) : (s.logEvent k d).reg q x = s.reg q x := rfl
@[simp] theorem logEvent_fld_eq (k : Nat) (d : List Byte) (q : Fld) (x : Nat) : (s.logEvent k d).fld q x = s.fld q x := rfl
@[simp] theorem logEvent_flag_eq (k : Nat) (d : List Byte) (q : Fld) (x : Nat) : (s.logEvent k d).flag q x = s.flag q x := rfl
@[simp] theorem logConfig_reg_eq (k : Nat) (d : List Byte) (q : Reg) (x : Nat) : (s.logConfig k d).reg q x = s.reg q x := rfl
@[simp] theorem logConfig_fld_eq (k : Nat) (d : List Byte) (q : Fld) (x : Nat) : (s.logConfig k d).fld q x = s.fld q x := rfl
@[simp] theorem logConfig_flag_eq (k : Nat) (d : List Byte) (q : Fld) (x : Nat) : (s.logConfig k d).flag q x = s.flag q x := rfl
@[simp] theorem setJournal_reg_eq (c t : Nat) (j : JState) (q : Reg) (x : Nat) : (s.setJournal c t j).reg q x = s.reg q x := rfl
@[simp] theorem setJournal_fld_eq (c t : Nat) (j : JState) (q : Fld) (x : Nat) : (s.setJournal c t j).fld q x = s.fld q x := rfl
@[simp] theorem setJournal_flag_eq (c t : Nat) (j : JState) (q : Fld) (x : Nat) : (s.setJournal c t j).flag q x = s.flag q x := rfl
@[simp] theorem addJournal_reg_eq (j : JEntry) (q : Reg) (x : Nat) : (s.addJournal j).reg q x = s.reg q x := rfl
@[simp] theorem addJournal_fld_eq (j : JEntry) (q : Fld) (x : Nat) : (s.addJournal j).fld q x = s.fld q x := rfl
@[simp] theorem addJournal_flag_eq (j : JEntry) (q : Fld) (x : Nat) : (s.addJournal j).flag q x = s.flag q x := rfl
@[simp] theorem reply_reg_eq (r : Reply) (q : Reg) (x : Nat) : (s.reply r).reg q x = s.reg q x := rfl
@[simp] theorem reply_fld_eq (r : Reply) (q : Fld) (x : Nat) : (s.reply r).fld q x = s.fld q x := rfl
@[simp] theorem reply_flag_eq (r : Reply) (q : Fld) (x : Nat) : (s.reply r).flag q x = s.flag q x := rfl
@[simp] theorem untake_reg_eq (op : Nat) (p : Packet) (q : Reg) (x : Nat) : (s.untake op p).reg q x = s.reg q x := rfl
@[simp] theorem untake_fld_eq (op : Nat) (p : Packet) (q : Fld) (x : Nat) : (s.untake op p).fld q x = s.fld q x := rfl
@[simp] theorem untake_flag_eq (op : Nat) (p : Packet) (q : Fld) (x : Nat) : (s.untake op p).flag q x = s.flag q x := rfl
@[simp] theorem inPath_reg_eq (f : Path → Path) (q : Reg) (x : Nat) : (s.inPath f).reg q x = s.reg q x := rfl
@[simp] theorem inPath_fld_eq (f : Path → Path) (q : Fld) (x : Nat) : (s.inPath f).fld q x = s.fld q x := rfl
@[simp] theorem inPath_flag_eq (f : Path → Path) (q : Fld) (x : Nat) : (s.inPath f).flag q x = s.flag q x := rfl
@[simp] theorem kick_reg_eq (q : Reg) (x : Nat) : (s.kick).reg q x = s.reg q x := rfl
@[simp] theorem kick_fld_eq (q : Fld) (x : Nat) : (s.kick).fld q x = s.fld q x := rfl
@[simp] theorem kick_flag_eq (q : Fld) (x : Nat) : (s.kick).flag q x = s.flag q x := rfl
@[simp] theorem advanceFuses_reg_eq (k : Nat) (q : Reg) (x : Nat) : (s.advanceFuses k).reg q x = s.reg q x := rfl
@[simp] theorem advanceFuses_fld_eq (k : Nat) (q : Fld) (x : Nat) : (s.advanceFuses k).fld q x = s.fld q x := rfl
@[simp] theorem advanceFuses_flag_eq (k : Nat) (q : Fld) (x : Nat) : (s.advanceFuses k).flag q x = s.flag q x := rfl

/-! ### The journal and the answer of a command -/

@[simp] theorem begun_fuses (op : Nat) (p : Packet) : (begun op p s).fuses = s.fuses := rfl
@[simp] theorem begun_tick (op : Nat) (p : Packet) : (begun op p s).tick = s.tick := rfl
@[simp] theorem begun_time (op : Nat) (p : Packet) : (begun op p s).time = s.time := rfl
@[simp] theorem begun_regs (op : Nat) (p : Packet) : (begun op p s).regs = s.regs := rfl
@[simp] theorem begun_meet (op : Nat) (p : Packet) : (begun op p s).meet = s.meet := rfl
@[simp] theorem begun_cnt (op : Nat) (p : Packet) : (begun op p s).cnt = s.cnt := rfl
@[simp] theorem begun_samp (op : Nat) (p : Packet) : (begun op p s).samp = s.samp := rfl
@[simp] theorem begun_log (op : Nat) (p : Packet) : (begun op p s).log = s.log := rfl
@[simp] theorem begun_boot (op : Nat) (p : Packet) : (begun op p s).boot = s.boot := rfl
@[simp] theorem begun_ks (op : Nat) (p : Packet) : (begun op p s).ks = s.ks := rfl
@[simp] theorem begun_flash (op : Nat) (p : Packet) : (begun op p s).flash = s.flash := rfl
@[simp] theorem begun_power (op : Nat) (p : Packet) : (begun op p s).power = s.power := rfl
@[simp] theorem begun_tab (op : Nat) (p : Packet) : (begun op p s).tab = s.tab := rfl
@[simp] theorem begun_path (op : Nat) (p : Packet) : (begun op p s).path = s.path := rfl
@[simp] theorem begun_lanes (op : Nat) (p : Packet) : (begun op p s).lanes = s.lanes := rfl
@[simp] theorem begun_host (op : Nat) (p : Packet) : (begun op p s).host = s.host := rfl
@[simp] theorem begun_tree (op : Nat) (p : Packet) : (begun op p s).tree = s.tree := rfl
@[simp] theorem begun_shadow (op : Nat) (p : Packet) : (begun op p s).shadow = s.shadow := rfl
@[simp] theorem begun_out (op : Nat) (p : Packet) : (begun op p s).out = s.out := rfl
@[simp] theorem begun_free (op : Nat) (p : Packet) : (begun op p s).free = s.free := rfl
@[simp] theorem begun_pending (op : Nat) (p : Packet) : (begun op p s).pending = s.pending := rfl
@[simp] theorem begun_reg_eq (op : Nat) (p : Packet) (r : Reg) (i : Nat) : (begun op p s).reg r i = s.reg r i := rfl
@[simp] theorem begun_fld_eq (op : Nat) (p : Packet) (r : Fld) (i : Nat) : (begun op p s).fld r i = s.fld r i := rfl
@[simp] theorem begun_flag_eq (op : Nat) (p : Packet) (r : Fld) (i : Nat) : (begun op p s).flag r i = s.flag r i := rfl
@[simp] theorem begun_hasQuad (op : Nat) (p : Packet) (q : Nat) : (begun op p s).hasQuad q = s.hasQuad q := rfl
@[simp] theorem begun_hasPort (op : Nat) (p : Packet) (q : Nat) : (begun op p s).hasPort q = s.hasPort q := rfl
@[simp] theorem begun_hasSlice (op : Nat) (p : Packet) (q : Nat) : (begun op p s).hasSlice q = s.hasSlice q := rfl
@[simp] theorem begun_hasLane (op : Nat) (p : Packet) (q : Nat) : (begun op p s).hasLane q = s.hasLane q := rfl
@[simp] theorem begun_hasStack (op : Nat) (p : Packet) (q : Nat) : (begun op p s).hasStack q = s.hasStack q := rfl

@[simp] theorem answer_fuses (op : Nat) (p : Packet) (inc : Nat) (e : Status) (ps : List Byte) :
    (s.answer op p inc e ps).fuses = s.fuses := by
  unfold State.answer State.recordConfig; split <;> rfl

@[simp] theorem answer_tick (op : Nat) (p : Packet) (inc : Nat) (e : Status) (ps : List Byte) :
    (s.answer op p inc e ps).tick = s.tick := by
  unfold State.answer State.recordConfig; split <;> rfl

@[simp] theorem answer_time (op : Nat) (p : Packet) (inc : Nat) (e : Status) (ps : List Byte) :
    (s.answer op p inc e ps).time = s.time := by
  unfold State.answer State.recordConfig; split <;> rfl

@[simp] theorem answer_regs (op : Nat) (p : Packet) (inc : Nat) (e : Status) (ps : List Byte) :
    (s.answer op p inc e ps).regs = s.regs := by
  unfold State.answer State.recordConfig; split <;> rfl

@[simp] theorem answer_meet (op : Nat) (p : Packet) (inc : Nat) (e : Status) (ps : List Byte) :
    (s.answer op p inc e ps).meet = s.meet := by
  unfold State.answer State.recordConfig; split <;> rfl

@[simp] theorem answer_cnt (op : Nat) (p : Packet) (inc : Nat) (e : Status) (ps : List Byte) :
    (s.answer op p inc e ps).cnt = s.cnt := by
  unfold State.answer State.recordConfig; split <;> rfl

@[simp] theorem answer_samp (op : Nat) (p : Packet) (inc : Nat) (e : Status) (ps : List Byte) :
    (s.answer op p inc e ps).samp = s.samp := by
  unfold State.answer State.recordConfig; split <;> rfl

@[simp] theorem answer_boot (op : Nat) (p : Packet) (inc : Nat) (e : Status) (ps : List Byte) :
    (s.answer op p inc e ps).boot = s.boot := by
  unfold State.answer State.recordConfig; split <;> rfl

@[simp] theorem answer_ks (op : Nat) (p : Packet) (inc : Nat) (e : Status) (ps : List Byte) :
    (s.answer op p inc e ps).ks = s.ks := by
  unfold State.answer State.recordConfig; split <;> rfl

@[simp] theorem answer_flash (op : Nat) (p : Packet) (inc : Nat) (e : Status) (ps : List Byte) :
    (s.answer op p inc e ps).flash = s.flash := by
  unfold State.answer State.recordConfig; split <;> rfl

@[simp] theorem answer_power (op : Nat) (p : Packet) (inc : Nat) (e : Status) (ps : List Byte) :
    (s.answer op p inc e ps).power = s.power := by
  unfold State.answer State.recordConfig; split <;> rfl

@[simp] theorem answer_tab (op : Nat) (p : Packet) (inc : Nat) (e : Status) (ps : List Byte) :
    (s.answer op p inc e ps).tab = s.tab := by
  unfold State.answer State.recordConfig; split <;> rfl

@[simp] theorem answer_path (op : Nat) (p : Packet) (inc : Nat) (e : Status) (ps : List Byte) :
    (s.answer op p inc e ps).path = s.path := by
  unfold State.answer State.recordConfig; split <;> rfl

@[simp] theorem answer_lanes (op : Nat) (p : Packet) (inc : Nat) (e : Status) (ps : List Byte) :
    (s.answer op p inc e ps).lanes = s.lanes := by
  unfold State.answer State.recordConfig; split <;> rfl

@[simp] theorem answer_host (op : Nat) (p : Packet) (inc : Nat) (e : Status) (ps : List Byte) :
    (s.answer op p inc e ps).host = s.host := by
  unfold State.answer State.recordConfig; split <;> rfl

@[simp] theorem answer_tree (op : Nat) (p : Packet) (inc : Nat) (e : Status) (ps : List Byte) :
    (s.answer op p inc e ps).tree = s.tree := by
  unfold State.answer State.recordConfig; split <;> rfl

@[simp] theorem answer_shadow (op : Nat) (p : Packet) (inc : Nat) (e : Status) (ps : List Byte) :
    (s.answer op p inc e ps).shadow = s.shadow := by
  unfold State.answer State.recordConfig; split <;> rfl

@[simp] theorem answer_out (op : Nat) (p : Packet) (inc : Nat) (e : Status) (ps : List Byte) :
    (s.answer op p inc e ps).out = s.out := by
  unfold State.answer State.recordConfig; split <;> rfl

@[simp] theorem answer_free (op : Nat) (p : Packet) (inc : Nat) (e : Status) (ps : List Byte) :
    (s.answer op p inc e ps).free = s.free := by
  unfold State.answer State.recordConfig; split <;> rfl

@[simp] theorem answer_pending (op : Nat) (p : Packet) (inc : Nat) (e : Status) (ps : List Byte) :
    (s.answer op p inc e ps).pending = s.pending := by
  unfold State.answer State.recordConfig; split <;> rfl

/-- The reply of a command stands last among those that wait. -/
theorem answer_replies (op : Nat) (p : Packet) (inc : Nat) (e : Status) (ps : List Byte) :
    (s.answer op p inc e ps).pkts.replies = s.pkts.replies ++ [mkReply (s.recordConfig op p e) op p inc e ps] := by
  unfold State.answer State.recordConfig; split <;> rfl

/-! ### Registers of a state in which other parts change -/

@[simp] theorem reg_mk {x0 : Fuses} {x1 : Tick} {x2 : TimeEng} {x3 : Meet} {x4 : Counters} {x5 : Sampling} {x6 : Packets} {x7 : EventLog} {x8 : Boot} {x9 : KeepStore} {x10 : Table Byte} {x11 : Power} {x12 : Tables} {x13 : Path} {x14 : Lanes} {x15 : HostIf} {x16 : Tree} {x17 : Option Shadow} {x18 : List Out} {x19 : Nat} {x20 : List Instr} (r : Reg) (i : Nat) :
    State.reg ⟨x0, x1, x2, s.regs, x3, x4, x5, x6, x7, x8, x9, x10, x11, x12, x13, x14, x15, x16, x17, x18, x19, x20⟩ r i = s.reg r i := rfl

@[simp] theorem fld_mk {x0 : Fuses} {x1 : Tick} {x2 : TimeEng} {x3 : Meet} {x4 : Counters} {x5 : Sampling} {x6 : Packets} {x7 : EventLog} {x8 : Boot} {x9 : KeepStore} {x10 : Table Byte} {x11 : Power} {x12 : Tables} {x13 : Path} {x14 : Lanes} {x15 : HostIf} {x16 : Tree} {x17 : Option Shadow} {x18 : List Out} {x19 : Nat} {x20 : List Instr} (r : Fld) (i : Nat) :
    State.fld ⟨x0, x1, x2, s.regs, x3, x4, x5, x6, x7, x8, x9, x10, x11, x12, x13, x14, x15, x16, x17, x18, x19, x20⟩ r i = s.fld r i := rfl

@[simp] theorem flag_mk {x0 : Fuses} {x1 : Tick} {x2 : TimeEng} {x3 : Meet} {x4 : Counters} {x5 : Sampling} {x6 : Packets} {x7 : EventLog} {x8 : Boot} {x9 : KeepStore} {x10 : Table Byte} {x11 : Power} {x12 : Tables} {x13 : Path} {x14 : Lanes} {x15 : HostIf} {x16 : Tree} {x17 : Option Shadow} {x18 : List Out} {x19 : Nat} {x20 : List Instr} (r : Fld) (i : Nat) :
    State.flag ⟨x0, x1, x2, s.regs, x3, x4, x5, x6, x7, x8, x9, x10, x11, x12, x13, x14, x15, x16, x17, x18, x19, x20⟩ r i = s.flag r i := rfl

/-! ### Reads that see one field only -/

theorem reg_of_regs {s t : State} (h : s.regs = t.regs) (r : Reg) (i : Nat) : s.reg r i = t.reg r i := by simp only [State.reg, h]

theorem fld_of_regs {s t : State} (h : s.regs = t.regs) (f : Fld) (i : Nat) : s.fld f i = t.fld f i := by
  simp only [State.fld, reg_of_regs h]

theorem flag_of_regs {s t : State} (h : s.regs = t.regs) (f : Fld) (i : Nat) : s.flag f i = t.flag f i := by
  simp only [State.flag, fld_of_regs h]

/-! ### The life of an accepted packet -/

/-- A body whose checks all pass goes on to its effect. -/
theorem guarded_of_none {checks : List (Bool × Status)} (h : firstFail checks = none) (k : Res) : guarded s checks k = k := by
  simp only [guarded, h]

/-- A body with a check that fails answers that check's status and has no effect. -/
theorem guarded_of_some {checks : List (Bool × Status)} {e : Status} (h : firstFail checks = some e) (k : Res) :
    guarded s checks k = Res.discard s e := by
  simp only [guarded, h]

theorem firstFail_cons_false (e : Status) (t : List (Bool × Status)) : firstFail ((false, e) :: t) = firstFail t := rfl

/-- An accepted packet runs its body in the state with its journal entry STARTED, and is answered unless the body goes on as a job. -/
theorem runPacket_of_accepts {op : Nat} {p : Packet} {s : State} (h : Accepts op p s) (body : Args → State → Res) :
    runPacket op p body s = .next
      (let r := body (readParams op p.params) (begun op p s)
       if r.deferred then r.state else replied op p s r.state r.status r.params) := by
  have hw : ¬64 ≤ s.waiting p.chan := by have := h.room; omega
  have hi : (s.addJournal { chan := p.chan, tag := p.tag, inc := s.incarnation p.chan, version := p.version, opcode := op, state := .consumed }).incarnation
      p.chan = s.incarnation p.chan := rfl
  simp only [runPacket, h.running, h.consuming, h.noRestore, h.fresh, consume, if_neg hw, h.header, runConsumed, hi, runBody, begun, replied]
  simp
  rfl


end Sys2Proof.Machine
end

