-- ==== Sys2Proof/Laws/Meanings.lean ====
section
/-!
SUPPORT. What the shared operations do, said once for the provers.
-/
namespace Sys2Proof.Machine

/-! ### Folds -/

/-- A part of the state that no step of a fold changes stays. -/
theorem foldl_part {α β : Type} (g : State → β) {f : State → α → State} (hf : ∀ s a, g (f s a) = g s) (l : List α) (s : State) :
    g (l.foldl f s) = g s := by
  induction l generalizing s with
  | nil => rfl
  | cons a t ih => exact (ih _).trans (hf _ _)

/-! ### The slot edge -/

theorem shaperStep_time (s : State) (k : Nat) : (s.shaperStep k).time = s.time := rfl
theorem shaperStep_tick (s : State) (k : Nat) : (s.shaperStep k).tick = s.tick := rfl
theorem shaperStep_pending (s : State) (k : Nat) : (s.shaperStep k).pending = s.pending := rfl

theorem tailEdge_time (s : State) : s.tailEdge.time = s.time := foldl_part (·.time) (by intros; rfl) _ s
theorem tailEdge_tick (s : State) : s.tailEdge.tick = s.tick := foldl_part (·.tick) (by intros; rfl) _ s
theorem tailEdge_pending (s : State) : s.tailEdge.pending = s.pending := foldl_part (·.pending) (by intros; rfl) _ s

theorem sampleEdge_time (s : State) : s.sampleEdge.time = s.time := by unfold State.sampleEdge; split <;> rfl
theorem sampleEdge_tick (s : State) : s.sampleEdge.tick = s.tick := by unfold State.sampleEdge; split <;> rfl
theorem sampleEdge_pending (s : State) : s.sampleEdge.pending = s.pending := by unfold State.sampleEdge; split <;> rfl

/-- The edge of the data path leaves the time engine alone. -/
theorem pathEdge_time (s : State) : s.pathEdge.time = s.time := by
  have h1 : ∀ (l : List (Nat × Flow)) (s : State), (l.foldl (fun s e => s.timerStep e.1 e.2) s).time = s.time :=
    fun l s => foldl_part (·.time) (by intros; rfl) l s
  have h2 : ∀ (l : List Nat) (s : State), (l.foldl (fun s k => s.shaperStep k) s).time = s.time :=
    fun l s => foldl_part (·.time) (by intros; rfl) l s
  unfold State.pathEdge
  simp only [h1, h2, sampleEdge_time, tailEdge_time]

/-- The edge of the data path leaves the slot count alone. -/
theorem pathEdge_tick (s : State) : s.pathEdge.tick = s.tick := by
  have h1 : ∀ (l : List (Nat × Flow)) (s : State), (l.foldl (fun s e => s.timerStep e.1 e.2) s).tick = s.tick :=
    fun l s => foldl_part (·.tick) (by intros; rfl) l s
  have h2 : ∀ (l : List Nat) (s : State), (l.foldl (fun s k => s.shaperStep k) s).tick = s.tick :=
    fun l s => foldl_part (·.tick) (by intros; rfl) l s
  unfold State.pathEdge
  simp only [h1, h2, sampleEdge_tick, tailEdge_tick]

theorem setBase_whorl (t : TimeEng) (o : Bool) (b : NetBase) : (t.setBase o b).whorl = t.whorl := by unfold TimeEng.setBase; split <;> rfl
theorem setBase_parity (t : TimeEng) (o : Bool) (b : NetBase) : (t.setBase o b).parity = t.parity := by unfold TimeEng.setBase; split <;> rfl
theorem setArm_whorl (t : TimeEng) (o b : Bool) : (t.setArm o b).whorl = t.whorl := by unfold TimeEng.setArm; split <;> rfl
theorem setArm_parity (t : TimeEng) (o b : Bool) : (t.setArm o b).parity = t.parity := by unfold TimeEng.setArm; split <;> rfl

/-- A base load leaves the whorl and PARITY alone. -/
theorem loadBase_whorl (s : State) (o : Bool) (b : NetBase) : (s.loadBase o b).time.whorl = s.time.whorl := by
  unfold State.loadBase; dsimp only; split <;> simp [setBase_whorl, setArm_whorl]
theorem loadBase_parity (s : State) (o : Bool) (b : NetBase) : (s.loadBase o b).time.parity = s.time.parity := by
  unfold State.loadBase; dsimp only; split <;> simp [setBase_parity, setArm_parity]

theorem loadEdge_whorl (s : State) : s.loadEdge.time.whorl = s.time.whorl := by
  unfold State.loadEdge; split
  · exact loadBase_whorl _ _ _
  · rfl
theorem loadEdge_parity (s : State) : s.loadEdge.time.parity = s.time.parity := by
  unfold State.loadEdge; split
  · exact loadBase_parity _ _ _
  · rfl
theorem loadEdge_tick (s : State) : s.loadEdge.tick = s.tick := by
  unfold State.loadEdge; split
  · unfold State.loadBase; dsimp only; split <;> rfl
  · rfl

theorem wrapTest_whorl (s : State) : s.wrapTest.time.whorl = s.time.whorl := by
  unfold State.wrapTest; dsimp only; split
  · split <;> simp [setArm_whorl]
  · split <;> simp
theorem wrapTest_parity (s : State) : s.wrapTest.time.parity = s.time.parity := by
  unfold State.wrapTest; dsimp only; split
  · split <;> simp [setArm_parity]
  · split <;> simp
theorem wrapTest_tick (s : State) : s.wrapTest.tick = s.tick := by
  unfold State.wrapTest; dsimp only; split
  · split <;> rfl
  · split <;> rfl

theorem incEdge_whorl (s : State) : s.incEdge.time.whorl = s.time.whorl := by unfold State.incEdge; split <;> rfl
theorem incEdge_parity (s : State) : s.incEdge.time.parity = s.time.parity := by unfold State.incEdge; split <;> rfl
theorem incEdge_tick (s : State) : s.incEdge.tick = s.tick := by unfold State.incEdge; split <;> rfl

theorem slewEdge_whorl (s : State) : s.slewEdge.time.whorl = s.time.whorl := by
  unfold State.slewEdge; split
  · rfl
  · dsimp only; split <;> rfl
theorem slewEdge_parity (s : State) : s.slewEdge.time.parity = s.time.parity := by
  unfold State.slewEdge; split
  · rfl
  · dsimp only; split <;> rfl
theorem slewEdge_tick (s : State) : s.slewEdge.tick = s.tick := by
  unfold State.slewEdge; split
  · rfl
  · dsimp only; split <;> rfl

end Sys2Proof.Machine
end

