-- ==== Sys2Proof/WellFormed.lean ====
section
/-!
DEFINITION. Which commands are well formed: every operand in the range that its field or its resource's numbering has (R7, R17, R22,
R45, R426, R488, R515, R528, R531, R565, R566). A command outside these ranges names nothing that exists in any Griade device.
-/
namespace Sys2Proof

/-- A Requester ID of 16 bits, or an SID of 8 (R513, R592). -/
def Sender.wf : Sender → Bool
  | .cc => true
  | .host rid _ => decide (rid < 65536)
  | .tree sid => decide (sid < 256)

/-- The header fields have their widths (R488), and LENGTH of the parameters fits its field. -/
def Packet.wf (p : Packet) : Bool :=
  decide (p.chan < 16) && decide (p.version < 65536) && decide (p.flags < 65536) && decide (p.zero < 2 ^ 32) && decide (p.tag < 2 ^ 32)
    && decide (p.params.length < 65536)

/-- The fields of a HELLO have their widths (R570). -/
def Hello.wf (h : Hello) : Bool :=
  decide (h.vmin < 65536) && decide (h.vmax < 65536) && decide (h.hops < 16) && decide (h.flags < 16) && decide (h.port < 4)
    && decide (h.node < 256)

/-- The fields of a Rhogen packet have their widths, and its payload at most 512 bytes (R566). -/
def RlPacket.wf (x : RlPacket) : Bool :=
  decide (x.typ < 256) && decide (x.seq < 4096) && decide (x.dst < 64) && decide (x.src < 64) && decide (x.sid < 256)
    && decide (x.tag < 256) && decide (x.ack < 4096) && decide (x.arg < 2 ^ 32) && decide (x.payload.length ≤ 512)

/-- The fields of a transmit descriptor have their widths (R561). -/
def TxDesc.wf (d : TxDesc) : Bool := decide (d.addr < 2 ^ 64) && decide (d.blen < 65536)

/-- A queue, or the spill of a staging queue beside the queues (R17, R274). -/
def queueOk (qu : Nat) : Bool := decide (qu < 8256) || (decide (16384 ≤ qu) && decide (qu < 24576))

/-- Whether a command is well formed. -/
def Instr.wf : Instr → Bool
  | .powerOnReset straps _ => decide (straps < 4)
  | .pllLock => true
  | .referenceLost => true
  | .referenceRestored => true
  | .bootRomStart => true
  | .bootCodeStart setup => setup.all fun e => decide (e.1 < 2 ^ 28)
  | .firmwareStart => true
  | .coreReset who => who.wf
  | .controlComplexReset who => who.wf
  | .quadrantReset who quads => who.wf && decide (quads < 16)
  | .resetRelease => true
  | .cbInitDone sl => decide (sl < 32)
  | .dtInitDone q => decide (q < 4)
  | .firmwareRestoration => true
  | .protLock who _ => who.wf
  | .watchdogKick who _ => who.wf
  | .watchdogExpire => true
  | .dmaWindowRevoke who _ => who.wf
  | .fwSwitch => true
  | .trialDeadline => true
  | .sagBegin source => decide (1 ≤ source) && decide (source < 4)
  | .saveComplete _ => true
  | .sagEnd => true
  | .coreSupplyLoss _ => true
  | .coreSupplyRestored => true
  | .vholdExhausted => true
  | .capTestComplete _ _ _ => true
  | .capRuntimeCheck _ => true
  | .capOvervoltage _ => true
  | .holdupEnergyCheck _ => true
  | .saveImageUpdate => true
  | .ksSessionComplete _ => true
  | .thermalSample temps => decide (temps.length < 33)
  | .pcieReset => true
  | .sampleIntervalBoundary => true
  | .epochBoundary => true
  | .learnNoticeFlush q => decide (q < 4)
  | .agingSweepStart q => decide (q < 4)
  | .agingSweepStep q => decide (q < 4)
  | .arrayTransfer => true
  | .eyeScanStep l _ _ => decide (l < 512)
  | .legMonitorCheck l _ => decide (l < 512)
  | .scheduleEntryArm who e _ => who.wf && decide (e < 32)
  | .scheduleEntryDue => true
  | .heldListCheck => true
  | .scheduleReconvert => true
  | .tickSlotRead who => who.wf
  | .whorlWrap => true
  | .tsIncCommit who _ => who.wf
  | .slewStart who _ => who.wf
  | .slewEnd => true
  | .baseLoad who _ => who.wf
  | .nextBaseLoad => true
  | .whorlRead who => who.wf
  | .servoMeasurement _ _ => true
  | .holdoverExpire => true
  | .eventOutputArm who n _ => who.wf && decide (n < 8)
  | .eventOutputEdge n => decide (n < 8)
  | .ppsOutPulse => true
  | .captureEdge j sub _ => decide (j < 5) && decide (sub < 64)
  | .capturePop who j => who.wf && decide (j < 5)
  | .todHintLapse => true
  | .ppsSourceTimeout => true
  | .rclkSquelchChange r => decide (r < 2)
  | .frameStart p bytes _ _ _ => decide (p < 512) && decide (bytes.length < 2 ^ 16)
  | .frameEnd p _ => decide (p < 516)
  | .frameReady p fw => decide (p < 516) && decide (fw.length < 2 ^ 16)
  | .headerDispatch sl => decide (sl < 32)
  | .strandComplete p _ _ => decide (p < 516)
  | .reorderRelease sl => decide (sl < 32)
  | .fabricEntry p _ => decide (p < 516)
  | .spillReturn ing sq => decide (ing < 32) && decide (sq < 256)
  | .cellGrant => true
  | .cellWrite sl _ => decide (sl < 32)
  | .policerCorrection p _ => decide (p < 516)
  | .policerRefresh q x => decide (q < 4) && decide (x < 65536)
  | .startDecision p _ _ => decide (p < 516)
  | .transmitStart p => decide (p < 516)
  | .cellRead p _ => decide (p < 516)
  | .transmitEnd p => decide (p < 516)
  | .cellTransmitFree sl _ => decide (sl < 32)
  | .walkerFree sl _ => decide (sl < 32)
  | .reclaimSweepStart sl => decide (sl < 32)
  | .reclaimSweepEnd sl => decide (sl < 32)
  | .cbDataScrubVisit sl c err => decide (sl < 32) && decide (c < 65536) && decide (err < 3)
  | .scrubWriteBack sl => decide (sl < 32)
  | .descriptorScrubVisit sl c err => decide (sl < 32) && decide (c < 65536) && decide (err < 3)
  | .pageClose qu => queueOk qu
  | .pageWriteComplete qu => queueOk qu
  | .readbackIssue qu => queueOk qu
  | .pageReadComplete qu _ => queueOk qu
  | .deepExit qu => queueOk qu
  | .hbmScrubVisit page burst err inner => decide (page < 2 ^ 25) && decide (burst < 16) && decide (err < 3) && decide (inner < 3)
  | .stackFatalFault h => decide (h < 8)
  | .stackDrainComplete h => decide (h < 8)
  | .pauseLoadApply p => decide (p < 516)
  | .pauseTimerExpire p c => decide (p < 516) && decide (c < 8)
  | .pfcGenerate p => decide (p < 516)
  | .pfcRefresh p => decide (p < 516)
  | .linkLoss p _ _ _ _ => decide (p < 516)
  | .linkUp p => decide (p < 516)
  | .holdDeadline p => decide (p < 516)
  | .wakeLinkUp p => decide (p < 516)
  | .gateEntryBoundary p => decide (p < 516)
  | .gclCycleStart p => decide (p < 516)
  | .gclSwap p => decide (p < 516)
  | .gclCycStartWrite who p _ => who.wf && decide (p < 516)
  | .gclSwapArm who p _ => who.wf && decide (p < 516)
  | .tbScrubVisit q bucketIdx k err => decide (q < 4) && decide (bucketIdx < 262144) && decide (k < 4) && decide (err < 3)
  | .learnRequestServe q => decide (q < 4)
  | .scanPass q => decide (q < 4)
  | .noticeRingDelivery _ => true
  | .clsScrubVisit q x _ => decide (q < 4) && decide (x < 32768)
  | .fwdScrubVisit q table _ kind => decide (q < 4) && decide (table < 5) && decide (kind < 4)
  | .shadowRestore table q _ => decide (table < 7) && decide (q < 4)
  | .prefixBankInsert q => decide (q < 4)
  | .prefixBankDelete q => decide (q < 4)
  | .ecmpRangeFree q => decide (q < 4)
  | .laneLock l _ pcsl _ _ => decide (l < 512) && decide (pcsl < 16)
  | .laneLockLoss l => decide (l < 512)
  | .cemondCommit who l _ => who.wf && decide (l < 512)
  | .cemondCommitApply l => decide (l < 512)
  | .idleEntry p => decide (p < 516)
  | .idleExit p => decide (p < 516)
  | .idleResume p => decide (p < 516)
  | .rxIdleEnter l => decide (l < 512)
  | .rxSignalDetect l => decide (l < 512)
  | .rxResumeMarker l _ => decide (l < 512)
  | .rxResumeTimeout l => decide (l < 512)
  | .mbInPost who n => who.wf && decide (n < 16)
  | .mbInConsume n _ _ => decide (n < 16)
  | .mbOutPost n => decide (n < 16)
  | .mbOutConsume who n => who.wf && decide (n < 16)
  | .mbNewInc who n => who.wf && decide (n < 16)
  | .incarnationApply n => decide (n < 16)
  | .doorbellH2dSet who _ _ => who.wf
  | .doorbellH2dClear _ _ => true
  | .doorbellD2hSet n => decide (n < 64)
  | .doorbellD2hClear who _ _ => who.wf
  | .registerWrite who offset words _ => who.wf && decide (offset < 2 ^ 28) && decide (words.length < 17)
  | .aliasSet who offset _ => who.wf && decide (offset < 2 ^ 28)
  | .aliasClear who offset _ => who.wf && decide (offset < 2 ^ 28)
  | .aliasToggle who offset _ => who.wf && decide (offset < 2 ^ 28)
  | .rcRead who offset => who.wf && decide (offset < 2 ^ 28)
  | .holdingSumRead who offset => who.wf && decide (offset < 2 ^ 28)
  | .cntSnapRequest who _ => who.wf
  | .firmwareSnapshot => true
  | .vectorFire v => decide (v < 64)
  | .dmaTailWrite who _ r _ => who.wf && decide (r < 32)
  | .dmaRxFrameWrite r _ _ => decide (r < 32)
  | .dmaCoalesceTimer _ r => decide (r < 32)
  | .dmaTxFrameFetch r descs _ => decide (r < 32) && descs.all TxDesc.wf
  | .tsRingConsWrite who q _ => who.wf && decide (q < 4)
  | .treeRemoteAccess who _ _ words n _ _ => who.wf && decide (words.length < 17) && decide (n < 17)
  | .remoteReadTimeout _ => true
  | .rhogenPacketReceive k pkt _ => decide (k < 4) && pkt.wf
  | .rhogenHelloReceive k h => decide (k < 4) && h.wf
  | .rhogenHelloTimer k => decide (k < 4)
  | .rhogenAckTimer k => decide (k < 4)
  | .rhogenReplayTimeout k => decide (k < 4)
  | .rhogenLinkDown k => decide (k < 4)
  | .nodeEnumerate path => path.all fun k => decide (k < 4)
  | .hello p => p.wf
  | .echo p => p.wf
  | .eventLogRead p => p.wf
  | .schedule p => p.wf
  | .scheduleCancel p => p.wf
  | .scheduleList p => p.wf
  | .portConfig p => p.wf
  | .portModeSet p => p.wf
  | .portModeGet p => p.wf
  | .portStatusGet p => p.wf
  | .wakeSet p => p.wf
  | .clsWrite p => p.wf
  | .clsRead p => p.wf
  | .clsInvalidate p => p.wf
  | .polSet p => p.wf
  | .polGet p => p.wf
  | .ingPortSet p => p.wf
  | .ingPortGet p => p.wf
  | .fdbInsert p => p.wf
  | .fdbDelete p => p.wf
  | .fdbSearch p => p.wf
  | .fdbNext p => p.wf
  | .fdbFlushPort p => p.wf
  | .fdbAgeSet p => p.wf
  | .fdbLearnSet p => p.wf
  | .fdbNotifySet p => p.wf
  | .vlanSet p => p.wf
  | .vlanGet p => p.wf
  | .pfxInsert p => p.wf
  | .pfxDelete p => p.wf
  | .pfxSearch p => p.wf
  | .pfxLookup p => p.wf
  | .pfxNext p => p.wf
  | .pfxRead p => p.wf
  | .pfxSelSet p => p.wf
  | .nhSet p => p.wf
  | .nhGet p => p.wf
  | .ecmpSet p => p.wf
  | .ecmpMemberSet p => p.wf
  | .ecmpGet p => p.wf
  | .ecmpHashSet p => p.wf
  | .rifSet p => p.wf
  | .rifBind p => p.wf
  | .rifGet p => p.wf
  | .replSet p => p.wf
  | .replGet p => p.wf
  | .fabStgSet p => p.wf
  | .fabStgGet p => p.wf
  | .cbPoolSet p => p.wf
  | .cbPoolGet p => p.wf
  | .cbQuarList p => p.wf
  | .cbQuarRelease p => p.wf
  | .cbRetire p => p.wf
  | .cbReclaim p => p.wf
  | .cbScrubSet p => p.wf
  | .dtQueueSet p => p.wf
  | .dtQueueGet p => p.wf
  | .dtStackRetire p => p.wf
  | .dtPageRetire p => p.wf
  | .dtPageRelease p => p.wf
  | .dtScrubSet p => p.wf
  | .dtStatusGet p => p.wf
  | .fcPortSet p => p.wf
  | .fcPortGet p => p.wf
  | .qmQueueSet p => p.wf
  | .qmQueueGet p => p.wf
  | .qmPortSet p => p.wf
  | .qmPortFlush p => p.wf
  | .schPortSet p => p.wf
  | .schQueueSet p => p.wf
  | .schGet p => p.wf
  | .gclSet p => p.wf
  | .gclCancel p => p.wf
  | .gclGet p => p.wf
  | .cemondSet p => p.wf
  | .cemondGet p => p.wf
  | .cemondLoad p => p.wf
  | .eyeScanStart p => p.wf
  | .eyeScanGet p => p.wf
  | .eyeScanStop p => p.wf
  | .laneTestSet p => p.wf
  | .laneStatusGet p => p.wf
  | .timeGet p => p.wf
  | .timeSet p => p.wf
  | .timeAdj p => p.wf
  | .timeServoSet p => p.wf
  | .timeServoGet p => p.wf
  | .todHint p => p.wf
  | .timeEvtSet p => p.wf
  | .timePpsSet p => p.wf
  | .timeCapSet p => p.wf
  | .timeCapGet p => p.wf
  | .timeRclkSet p => p.wf
  | .ptpPortSet p => p.wf
  | .ptpPortGet p => p.wf
  | .tsRingSet p => p.wf
  | .tsStpSet p => p.wf
  | .mirSessionSet p => p.wf
  | .mirSessionGet p => p.wf
  | .mirPortSet p => p.wf
  | .snapshot p => p.wf
  | .cntRead p => p.wf
  | .dmaRingSet p => p.wf
  | .dmaRingGet p => p.wf
  | .treeStatusGet p => p.wf
  | .rlStatusGet p => p.wf
  | .fwImageWrite p => p.wf
  | .fwActivate p => p.wf
  | .fwStatusGet p => p.wf
  | .protStatusGet p => p.wf
  | .ksWrite p => p.wf
  | .ksRead p => p.wf
  | .holdupStatusGet p => p.wf
  | .thmGet p => p.wf
  | .pcieDataLinkUp _ _ _ vecMask => decide (vecMask < 2 ^ 64)
  | .vddUndervoltage => true
  | .vholdFirstCharge => true
  | .rhogenBlockLock k => decide (k < 4)

end Sys2Proof
end

