-- ==== Sys2Proof/Tests/Slice0.lean ====
section
/-!
SUPPORT. Tests of single commands, and for each statement a state and operands that meet its hypotheses.
-/
set_option Elab.async false
namespace Sys2Proof.Tests
open Sys2Proof Sys2Proof.Machine

/-- A block whose clock is locked and whose firmware runs, in slot 0 of epoch 2. -/
def up : State := ({ State.reset with tick := { locked := true, slot := 2097152 } }).setFld F.protBoot_RUNNING 0 1
/-- Port 0 in one-lane mode with its link up. -/
def linked : State :=
  ((up.setFld F.macPortCfg_MODE 0 1).setFld F.macPortCfg_EN 0 1).setFld F.macLink_UP 0 1
def inRx (n : Nat) (st : Stage) : Frame := { id := 0, port := 0, bytes := List.replicate n 0, start := 0, stage := st }
/-- Requester entry 0 matches requester 0, secure; channel 1 is bound to its SID. -/
def hosted : State :=
  ((((up.setFld F.protReqCfg_VALID 0 1).setFld F.protReqCfg_SECURE 0 1).setFld F.mbBind_VALID 1 1).setFld F.mbBind_SID 1 128)
/-- The device is the root, its endpoint enabled; DMA window 0 spans the first 4 GiB. -/
def rooted : State :=
  { ((((up.setFld F.protDmaCfg_VALID 0 1).setFld F.protDmaCfg_WR 0 1).setFld F.protDmaCfg_RD 0 1).setReg .protDmaLimLo 0 0xFFFFF000) with
    tree := { up.tree with root := true, hops := 0 }, host := { up.host with bme := true, msixOn := true, vecMask := 0 } }
/-- Port 1 leads downstream to a child and its link is active. -/
def onPort (p : RlPort) : State :=
  { ((rooted.setFld F.rlPortStat_STATE 1 8).setReg .rlRoute 9 0x80000001).setReg .rlNodeValidLo 0 0x200 with tree := { rooted.tree with ports := [(1, p)] } }

/-- A packet of channel 1 with the parameters given. -/
def pk (l : List (Ty × Nat)) : Packet := { chan := 1, tag := 7, params := emitBlock l }
/-- A DMA reference to `len` bytes at address 0. -/
def ref (len dir : Nat) : Nat := len * 2 ^ 64 + dir * 2 ^ 96

end Sys2Proof.Tests

namespace Sys2Proof.Tests
open Sys2Proof Sys2Proof.Machine

/-! Every check of well-formedness refuses a term that breaks it. -/

def hello0 : Hello := { vmin := 0x0100, vmax := 0x0100, hops := 0, flags := 0, port := 0, node := 0 }

theorem test_ill_formed_1 : (([.powerOnReset 4 [],
    .bootCodeStart [(2 ^ 28, 0)],
    .coreReset (.host 65536 false),
    .controlComplexReset (.host 65536 false),
    .quadrantReset (.host 65536 false) 0,
    .quadrantReset .cc 16,
    .cbInitDone 32,
    .dtInitDone 4,
    .protLock (.host 65536 false) 0,
    .watchdogKick (.host 65536 false) 0,
    .dmaWindowRevoke (.host 65536 false) 0,
    .sagBegin 0,
    .sagBegin 4,
    .thermalSample (List.replicate (33) 0),
    .learnNoticeFlush 4,
    .agingSweepStart 4,
    .agingSweepStep 4,
    .eyeScanStep 512 0 false,
    .legMonitorCheck 512 0,
    .scheduleEntryArm (.host 65536 false) 0 0,
    .scheduleEntryArm .cc 32 0,
    .tickSlotRead (.host 65536 false),
    .tsIncCommit (.host 65536 false) 0,
    .slewStart (.host 65536 false) 0,
    .baseLoad (.host 65536 false) 0,
    .whorlRead (.host 65536 false),
    .eventOutputArm (.host 65536 false) 0 0,
    .eventOutputArm .cc 8 0,
    .eventOutputEdge 8,
    .captureEdge 5 0 false,
    .captureEdge 0 64 false,
    .capturePop (.host 65536 false) 0,
    .capturePop .cc 5,
    .rclkSquelchChange 2,
    .frameStart 512 [] 0 0 0,
    .frameEnd 516 false,
    .frameReady 516 [],
    .headerDispatch 32,
    .strandComplete 516 0 [],
    .reorderRelease 32] : List Instr).all fun c => !c.wf) = true := by decide

theorem test_ill_formed_2 : (([.fabricEntry 516 0,
    .spillReturn 32 0,
    .spillReturn 0 256,
    .cellWrite 32 [],
    .policerCorrection 516 0,
    .policerRefresh 4 0,
    .policerRefresh 0 65536,
    .startDecision 516 0 0,
    .transmitStart 516,
    .cellRead 516 0,
    .transmitEnd 516,
    .cellTransmitFree 32 none,
    .walkerFree 32 none,
    .reclaimSweepStart 32,
    .reclaimSweepEnd 32,
    .cbDataScrubVisit 32 0 0,
    .cbDataScrubVisit 0 65536 0,
    .cbDataScrubVisit 0 0 3,
    .scrubWriteBack 32,
    .descriptorScrubVisit 32 0 0,
    .descriptorScrubVisit 0 65536 0,
    .descriptorScrubVisit 0 0 3,
    .pageClose 8256,
    .pageWriteComplete 8256,
    .readbackIssue 8256,
    .pageReadComplete 8256 [],
    .deepExit 8256,
    .hbmScrubVisit (2 ^ 25) 0 0 0,
    .hbmScrubVisit 0 16 0 0,
    .hbmScrubVisit 0 0 3 0,
    .hbmScrubVisit 0 0 0 3,
    .stackFatalFault 8,
    .stackDrainComplete 8,
    .pauseLoadApply 516,
    .pauseTimerExpire 516 0,
    .pauseTimerExpire 0 8,
    .pfcGenerate 516,
    .pfcRefresh 516,
    .linkLoss 516 false false false false,
    .linkUp 516] : List Instr).all fun c => !c.wf) = true := by decide

theorem test_ill_formed_3 : (([.holdDeadline 516,
    .wakeLinkUp 516,
    .gateEntryBoundary 516,
    .gclCycleStart 516,
    .gclSwap 516,
    .gclCycStartWrite (.host 65536 false) 0 0,
    .gclCycStartWrite .cc 516 0,
    .gclSwapArm (.host 65536 false) 0 0,
    .gclSwapArm .cc 516 0,
    .tbScrubVisit 4 0 0 0,
    .tbScrubVisit 0 262144 0 0,
    .tbScrubVisit 0 0 4 0,
    .tbScrubVisit 0 0 0 3,
    .learnRequestServe 4,
    .scanPass 4,
    .clsScrubVisit 4 0 false,
    .clsScrubVisit 0 32768 false,
    .fwdScrubVisit 4 0 0 0,
    .fwdScrubVisit 0 5 0 0,
    .fwdScrubVisit 0 0 0 4,
    .shadowRestore 7 0 0,
    .shadowRestore 0 4 0,
    .prefixBankInsert 4,
    .prefixBankDelete 4,
    .ecmpRangeFree 4,
    .laneLock 512 false 0 false 0,
    .laneLock 0 false 16 false 0,
    .laneLockLoss 512,
    .cemondCommit (.host 65536 false) 0 0,
    .cemondCommit .cc 512 0,
    .cemondCommitApply 512,
    .idleEntry 516,
    .idleExit 516,
    .idleResume 516,
    .rxIdleEnter 512,
    .rxSignalDetect 512,
    .rxResumeMarker 512 0,
    .rxResumeTimeout 512,
    .mbInPost (.host 65536 false) 0,
    .mbInPost .cc 16] : List Instr).all fun c => !c.wf) = true := by decide

theorem test_ill_formed_4 : (([.mbInConsume 16 [] false,
    .mbOutPost 16,
    .mbOutConsume (.host 65536 false) 0,
    .mbOutConsume .cc 16,
    .mbNewInc (.host 65536 false) 0,
    .mbNewInc .cc 16,
    .incarnationApply 16,
    .doorbellH2dSet (.host 65536 false) false 0,
    .doorbellD2hSet 64,
    .doorbellD2hClear (.host 65536 false) false 0,
    .registerWrite (.host 65536 false) 0 [] false,
    .registerWrite .cc (2 ^ 28) [] false,
    .registerWrite .cc 0 (List.replicate (17) 0) false,
    .aliasSet (.host 65536 false) 0 0,
    .aliasSet .cc (2 ^ 28) 0,
    .aliasClear (.host 65536 false) 0 0,
    .aliasClear .cc (2 ^ 28) 0,
    .aliasToggle (.host 65536 false) 0 0,
    .aliasToggle .cc (2 ^ 28) 0,
    .rcRead (.host 65536 false) 0,
    .rcRead .cc (2 ^ 28),
    .holdingSumRead (.host 65536 false) 0,
    .holdingSumRead .cc (2 ^ 28),
    .cntSnapRequest (.host 65536 false) 0,
    .vectorFire 64,
    .dmaTailWrite (.host 65536 false) false 0 0,
    .dmaTailWrite .cc false 32 0,
    .dmaRxFrameWrite 32 [] false,
    .dmaCoalesceTimer false 32,
    .dmaTxFrameFetch 32 [] false,
    .dmaTxFrameFetch 0 [{ addr := 2 ^ 64, blen := 0, first := true, last := true }] false,
    .tsRingConsWrite (.host 65536 false) 0 0,
    .tsRingConsWrite .cc 4 0,
    .treeRemoteAccess (.host 65536 false) 0 false [] 0 false 0,
    .treeRemoteAccess .cc 0 false (List.replicate (17) 0) 0 false 0,
    .treeRemoteAccess .cc 0 false [] 17 false 0,
    .rhogenPacketReceive 4 { typ := 0 } false,
    .rhogenPacketReceive 0 { typ := 256 } false,
    .rhogenHelloReceive 4 hello0,
    .rhogenHelloReceive 0 { hello0 with hops := 16 }] : List Instr).all fun c => !c.wf) = true := by decide

theorem test_ill_formed_5 : (([.rhogenHelloTimer 4,
    .rhogenAckTimer 4,
    .rhogenReplayTimeout 4,
    .rhogenLinkDown 4,
    .nodeEnumerate [4],
    .pcieDataLinkUp false false false (2 ^ 64),
    .rhogenBlockLock 4] : List Instr).all fun c => !c.wf) = true := by decide

theorem test_long_1 : Instr.wf (.frameStart 0 (List.replicate (2 ^ 16) 0) 0 0 0) = false := by simp only [Instr.wf, List.length_replicate]; decide

theorem test_long_2 : Instr.wf (.frameReady 0 (List.replicate (2 ^ 16) 0)) = false := by simp only [Instr.wf, List.length_replicate]; decide

theorem test_ill_formed_packet_1 : (([.hello, .echo, .eventLogRead, .schedule, .scheduleCancel, .scheduleList, .portConfig, .portModeSet, .portModeGet, .portStatusGet, .wakeSet, .clsWrite, .clsRead, .clsInvalidate, .polSet, .polGet, .ingPortSet, .ingPortGet, .fdbInsert, .fdbDelete, .fdbSearch, .fdbNext, .fdbFlushPort, .fdbAgeSet, .fdbLearnSet, .fdbNotifySet, .vlanSet, .vlanGet, .pfxInsert, .pfxDelete, .pfxSearch, .pfxLookup, .pfxNext, .pfxRead, .pfxSelSet, .nhSet, .nhGet, .ecmpSet, .ecmpMemberSet, .ecmpGet] : List (Packet → Instr)).all fun c => !(c { chan := 16, tag := 0 }).wf) = true := by decide

theorem test_ill_formed_packet_2 : (([.ecmpHashSet, .rifSet, .rifBind, .rifGet, .replSet, .replGet, .fabStgSet, .fabStgGet, .cbPoolSet, .cbPoolGet, .cbQuarList, .cbQuarRelease, .cbRetire, .cbReclaim, .cbScrubSet, .dtQueueSet, .dtQueueGet, .dtStackRetire, .dtPageRetire, .dtPageRelease, .dtScrubSet, .dtStatusGet, .fcPortSet, .fcPortGet, .qmQueueSet, .qmQueueGet, .qmPortSet, .qmPortFlush, .schPortSet, .schQueueSet, .schGet, .gclSet, .gclCancel, .gclGet, .cemondSet, .cemondGet, .cemondLoad, .eyeScanStart, .eyeScanGet, .eyeScanStop] : List (Packet → Instr)).all fun c => !(c { chan := 16, tag := 0 }).wf) = true := by decide

theorem test_ill_formed_packet_3 : (([.laneTestSet, .laneStatusGet, .timeGet, .timeSet, .timeAdj, .timeServoSet, .timeServoGet, .todHint, .timeEvtSet, .timePpsSet, .timeCapSet, .timeCapGet, .timeRclkSet, .ptpPortSet, .ptpPortGet, .tsRingSet, .tsStpSet, .mirSessionSet, .mirSessionGet, .mirPortSet, .snapshot, .cntRead, .dmaRingSet, .dmaRingGet, .treeStatusGet, .rlStatusGet, .fwImageWrite, .fwActivate, .fwStatusGet, .protStatusGet, .ksWrite, .ksRead, .holdupStatusGet, .thmGet] : List (Packet → Instr)).all fun c => !(c { chan := 16, tag := 0 }).wf) = true := by decide

theorem test_packet_fields : (([{ chan := 0, tag := 2 ^ 32 }, { chan := 0, tag := 0, version := 65536 }, { chan := 0, tag := 0, flags := 65536 },
    { chan := 0, tag := 0, zero := 2 ^ 32 }] : List Packet).all fun p => !p.wf) = true := by decide

theorem test_packet_length : Packet.wf { chan := 0, tag := 0, params := List.replicate 65536 0 } = false := by simp only [Packet.wf, List.length_replicate]; decide

theorem test_sender_fields : Sender.wf (.tree 256) = false ∧ Sender.wf (.tree 255) = true ∧ Sender.wf (.host 65535 true) = true := by decide

theorem test_hello_fields : (([{ hello0 with vmin := 65536 }, { hello0 with vmax := 65536 }, { hello0 with flags := 16 }, { hello0 with port := 4 },
    { hello0 with node := 256 }] : List Hello).all fun h => !h.wf) = true := by decide

theorem test_rhogen_fields : (([{ typ := 0, seq := 4096 }, { typ := 0, dst := 64 }, { typ := 0, src := 64 }, { typ := 0, sid := 256 }, { typ := 0, tag := 256 },
    { typ := 0, ack := 4096 }, { typ := 0, arg := 2 ^ 32 }, { typ := 0, payload := List.replicate 513 0 }] : List RlPacket).all fun x => !x.wf) = true := by
  decide +kernel

theorem test_descriptor_length : TxDesc.wf { addr := 0, blen := 65536, first := true, last := true } = false := by decide

theorem test_well_formed : (([.quadrantReset .cc 15, .sagBegin 3, .captureEdge 4 63 true, .pageClose 8255, .pageClose 16384, .linkUp 515, .vectorFire 63,
    .rhogenHelloReceive 3 hello0] : List Instr).all fun c => c.wf) = true := by decide

/-! The examples that the spec works out. -/

/-- R491's example: the parameters of FDB_INSERT for FID 100, MAC 02-00-5E-10-00-2A and DEST 40 in quadrants 0 and 2. -/
theorem test_fdb_insert_layout : (parseFrom [5, 0, 100, 0, 0, 0, 0, 0, 0x02, 0x00, 0x5E, 0x10, 0x00, 0x2A, 0, 0, 1] [.u 4, .u 12, .mac, .flag] 0).vals
    = [5, 100, 0x02005E10002A, 1] := by decide

/-- CRC-32 of the nine digits, the check value of IEEE 802.3's CRC. -/
theorem test_crc32 : crc32 [0x31, 0x32, 0x33, 0x34, 0x35, 0x36, 0x37, 0x38, 0x39] = 0xCBF43926 := by decide +kernel


/-! StepRunsTheFrontCommand -/


/-! AnEmptyQueueIsASlotEdge -/
theorem witness_idle_locked : up.pending = [] ∧ up.tick.locked = true := by decide
theorem witness_idle_unlocked : State.reset.pending = [] ∧ State.reset.tick.locked = false := by decide

/-! ResetMeetsTheInvariant -/


/-! EveryStepKeepsTheInvariant -/
theorem witness_inv_step : Inv up ∧ (∃ t, step up = .next t) := ⟨⟨by decide, by decide, by decide⟩, ⟨_, rfl⟩⟩

/-! NoStepLosesIdentityOrFuses -/
theorem witness_identity_step : Inv { up with pending := [.vddUndervoltage] } ∧ (∃ t, step { up with pending := [.vddUndervoltage] } = .next t) :=
  ⟨⟨by decide, by decide, by decide⟩, ⟨_, rfl⟩⟩

/-! EveryCommandChangesOnlyItsParts -/
theorem witness_frame : Inv up ∧ exec .referenceLost up = .next (match exec .referenceLost up with | .next t => t | _ => up) :=
  ⟨⟨by decide, by decide, by decide⟩, rfl⟩

/-! PowerOnResetLeavesResetValues -/
/-- A power-on reset of a running block clears RUNNING (R581). -/
theorem test_power_on_clears_running : (match exec (.powerOnReset 1 []) up with | .next t => t.flag F.protBoot_RUNNING 0 | _ => true) = false := by decide

/-! ClockAndReferenceEvents -/
theorem witness_clock_reset : Inv State.reset ∧ State.reset.tick.locked = false := ⟨⟨by decide, by decide, by decide⟩, by decide⟩
theorem witness_clock_up : Inv up ∧ up.tick.locked = true ∧ up.tick.refHold = false := ⟨⟨by decide, by decide, by decide⟩, by decide⟩
theorem witness_clock_hold : Inv { up with tick := { up.tick with refHold := true } } := ⟨by decide, by decide, by decide⟩
theorem witness_slot_read : up.refusal .cc (Reg.tickSlotLo.offset 0) false = none := by decide

/-! StartUpStages -/
def clockOnly : State := { State.reset with tick := { locked := true, slot := 0 } }
theorem witness_start_rom : Inv clockOnly ∧ clockOnly.tick.locked = true ∧ clockOnly.inCore = false ∧ clockOnly.fwRunning = false
    ∧ clockOnly.stage = 0 := ⟨⟨by decide, by decide, by decide⟩, by decide, by decide, by decide, by decide⟩
theorem witness_start_rom_none : clockOnly.chooseBoot = none := by decide
theorem witness_start_boot_code : let s := clockOnly.setFld F.protBoot_STAGE 0 1
    Inv s ∧ s.stage = 1 ∧ s.fwRunning = false := ⟨⟨by decide, by decide, by decide⟩, by decide, by decide⟩
theorem witness_start_firmware : let s := clockOnly.setFld F.protBoot_STAGE 0 2
    s.stage = 2 ∧ s.flag F.protBoot_RUNNING 0 = false ∧ s.inCore = false := by decide

/-! ResetRequests -/
theorem witness_reset_requests : SecureWriter .cc (Reg.protRst.offset 0) up ∧ up.inCore = false ∧ up.boot.reset = none
    ∧ up.hasQuad 3 = true := ⟨Or.inl rfl, by decide, by decide, by decide⟩
theorem witness_reset_running : { up with boot := { up.boot with reset := some { core := true } } }.inCore = true := by decide
theorem witness_reset_refused : sidSecure (up.sid (.host 0 false)) = false := by decide

/-! ReleaseAndInitialisation -/
def released : State := { up with tick := { up.tick with slot := 2097152 + 5000 } }
def resetting : State := { released with boot := { released.boot with reset := some { core := false, quads := 1, start := 2097152 } } }
theorem witness_release : resetting.boot.reset = some { core := false, quads := 1, start := 2097152 } ∧ resetting.power.coreLost = false
    ∧ resetting.power.trip = false ∧ 2097152 + 1024 ≤ resetting.tick.slot := by decide
theorem witness_cb_init : Inv released ∧ released.hasSlice 7 = true ∧ released.initialising (Config.quadOfSlice 7) = true
    ∧ released.flag F.cbStat_INIT_DONE 7 = false ∧ released.initFrom (Config.quadOfSlice 7) + 4096 ≤ released.tick.slot :=
  ⟨⟨by decide, by decide, by decide⟩, by decide, by decide, by decide, by decide⟩
theorem witness_dt_init : released.initialising 3 = true ∧ released.flag F.dtStat_INIT_DONE 3 = false := by decide
theorem witness_restoration : let s := { up with shadow := some { quads := 0 } }
    s.flag F.protBoot_RUNNING 0 = true ∧ s.boot.reset = none
    ∧ (∀ q, q < 4 → (0 : Nat).testBit q = true → s.hasQuad q = true → s.quadReady q = true) := ⟨by decide, by decide, by decide⟩

/-! ProtectionWatchdogAndSwitch -/
theorem witness_lock : Inv up ∧ (0x80000000 : Word).toNat.testBit 31 = true ∧ (1 : Word).toNat.testBit 0 = true :=
  ⟨⟨by decide, by decide, by decide⟩, by decide, by decide⟩
theorem witness_watchdog : let s := ({ up with tick := { locked := true, slot := 1048576 * 1024 } }).setFld F.protWdt_EN 0 1
    Inv s ∧ s.flag F.protWdt_EN 0 = true ∧ s.fwRunning = true ∧ s.inCore = false ∧ s.boot.kickEpoch + 1024 ≤ s.epoch :=
  ⟨⟨by decide, by decide, by decide⟩, by decide, by decide, by decide, by decide⟩
theorem witness_revoke : SecureWriter .cc (Reg.protDmaRevoke.offset 0) up := Or.inl rfl
def switching : State := { up with boot := { up.boot with switchTo := some (1, 4) } }
theorem witness_switch : Inv switching ∧ switching.fwRunning = true ∧ switching.boot.switchAt = none ∧ switching.mayStartSwitch = true
    ∧ switching.tab.jobs = [] := ⟨⟨by decide, by decide, by decide⟩, by decide, by decide, by decide, by decide⟩
theorem witness_switch_jobs : let s := { switching with tab := { switching.tab with jobs := [{ op := 0x0307, pkt := { chan := 0, tag := 0 }, inc := 0, left := 1, status := [] }] } }
    s.tab.jobs ≠ [] ∧ s.mayStartSwitch = true := by decide
theorem witness_switch_end : let s := { switching with tick := { locked := true, slot := 15625000 }, boot := { switching.boot with switchAt := some 0 } }
    s.boot.switchAt = some 0 ∧ 0 + 15625000 ≤ s.tick.slot ∧ s.fwRunning = true := by decide
def trialRun : State := { ((up.setFld F.pwrStat_CAP_STATE 0 1).setFld F.pwrCap_C 0 2200).setReg .pwrHoldV 0 11000 with
  ks := { up.ks with bootRec := some { trial := true, deadline := 5 } } }
theorem witness_trial : Inv trialRun ∧ trialRun.flag F.protBoot_RUNNING 0 = true ∧ trialRun.nextRecord.trial = true
    ∧ trialRun.nextRecord.deadline ≤ trialRun.tick.slot ∧ trialRun.boot.switchTo = none ∧ trialRun.ksFaulted = false
    ∧ trialRun.energyFor 64 = true := ⟨⟨by decide, by decide, by decide⟩, by decide, by decide, by decide, by decide, by decide, by decide⟩

/-! SagsAndSupplies -/
def held : State := up.setFld F.pwrStat_ON_HOLD 0 1
theorem witness_sag : let s := { up with power := { up.power with charged := true } }
    Inv s ∧ 3 % 4 ≠ 0 ∧ s.power.charged = true ∧ s.flag F.pwrStat_ON_HOLD 0 = false ∧ s.ks.save = none :=
  ⟨⟨by decide, by decide, by decide⟩, by decide, by decide, by decide, by decide⟩
theorem witness_sag_held : Inv held ∧ held.flag F.pwrStat_ON_HOLD 0 = true ∧ held.power.coreLost = false ∧ { held with power := { held.power with charged := true } }.flag F.pwrStat_ON_HOLD 0 = true :=
  ⟨⟨by decide, by decide, by decide⟩, by decide, by decide, by decide⟩
theorem witness_save_end : let s := { up with ks := { up.ks with save := some (0, up.freshImage) } }
    Inv s ∧ s.ks.save = some (0, up.freshImage) ∧ s.ks.sessions = [] := ⟨⟨by decide, by decide, by decide⟩, rfl, rfl⟩
theorem witness_core_lost : { up with power := { up.power with coreLost := true } }.power.coreLost = true
    ∧ up.power.coreLost = false ∧ up.flag F.pwrStat_ON_HOLD 0 = false := by decide

/-! CapacitorSessionsAndHeat -/
theorem witness_cap_test : up.fld F.pwrStat_CAP_STATE 0 = 0 := by decide
def lowCap : State := { (up.setFld F.pwrStat_CAP_STATE 0 1).setFld F.pwrCtl_CHG_EN 0 1 with power := { up.power with lowSince := some 0 } }
theorem witness_cap_low : Inv lowCap ∧ 9999 < 10000 ∧ lowCap.flag F.pwrCtl_CHG_EN 0 = true ∧ lowCap.flag F.pwrStat_ON_HOLD 0 = false
    ∧ lowCap.power.lowSince = some 0 ∧ lowCap.fld F.pwrStat_CAP_STATE 0 = 1 ∧ 0 + 1048576 ≤ lowCap.tick.slot :=
  ⟨⟨by decide, by decide, by decide⟩, by decide, by decide, by decide, by decide, by decide, by decide⟩
theorem witness_energy : let s := { up with tick := { up.tick with slot := 786432 } }
    Inv s ∧ s.flag F.protBoot_RUNNING 0 = true ∧ s.epochOffset = 786432 := ⟨⟨by decide, by decide, by decide⟩, by decide, by decide⟩
theorem witness_session_end : let s := { up with ks := { up.ks with sessions := [{ data := .host 0 [1, 2] }] } }
    s.ks.sessions = [{ data := .host 0 [1, 2] }] ∧ s.ks.spares < 10 ^ 9 := ⟨rfl, by decide⟩
theorem witness_thermal : Inv up ∧ up.tick.slot % 1024 = 0 ∧ up.inCore = false ∧ up.power.trip = false
    ∧ (-320 : Int) ≤ 300 ∧ (300 : Int) < 60 * 8 := ⟨⟨by decide, by decide, by decide⟩, by decide, by decide, by decide, by decide, by decide⟩

/-! TimeRegisterAccesses -/
theorem witness_slot_access : up.refusal .cc (Reg.tickSlotLo.offset 0) false = none
    ∧ up.refusal (.host 0 false) (Reg.tickSlotLo.offset 0) false = some 2 := by decide
theorem witness_time_access : Inv up ∧ up.refusal .cc (Reg.tsWhorlNs.offset 0) false = none ∧ up.ownsTime .cc = true
    ∧ up.refusal .cc (Reg.tsIncNs.offset 0) true = none ∧ up.refusal .cc (Reg.tsSlewCount.offset 0) true = none
    ∧ up.refusal .cc (Reg.tsBaseCtl.offset 0) true = none ∧ (up.setFld F.tsCtl_HOST_OWN 0 1).ownsTime .cc = false :=
  ⟨⟨by decide, by decide, by decide⟩, rfl, by decide, rfl, rfl, rfl, by decide⟩
theorem witness_next_base : let s := { up with time := { up.time with nextLoadDue := true, todSet := true } }
    s.fwRunning = true ∧ s.time.nextLoadDue = true ∧ s.epochOffset = 0 ∧ s.time.todSet = true ∧ s.flag F.tsCtl_HOST_OWN 0 = false := by decide
theorem witness_wrap : let s := { up with time := { up.time with whorl := 2 ^ 64 - 1, todSet := true } }
    Inv s ∧ s.tick.locked = true ∧ s.time.wraps = true ∧ s.time.loadPend = none ∧ s.time.todSet = true ∧ s.time.arm (!s.time.parity) = false :=
  ⟨⟨by decide, by decide, by decide⟩, by decide, by decide, by decide, by decide, by decide⟩
theorem witness_slew_end : let s := { up with time := { up.time with slewLeft := 1 } }
    Inv s ∧ s.tick.locked = true ∧ s.time.slewLeft = 1 ∧ s.time.slewPend = none := ⟨⟨by decide, by decide, by decide⟩, by decide, by decide, by decide⟩

/-! ServoAndItsSources -/
def inServo (st : ServoState) : State :=
  { up with time := { up.time with servo := { mode := 2, state := st, stepNs := 100, lockNs := 50, goodRun := 15, lastPps := some (0, 0), hint := some (1, 0) } } }
theorem witness_servo : (inServo .freeRun).fwRunning = true ∧ (inServo .freeRun).time.servo.mode ≠ 0 ∧ (inServo .freeRun).time.servo.mode ≠ 3
    ∧ (inServo .freeRun).time.servo.state = .freeRun ∧ (inServo .locked).time.servo.state = .locked := by decide
theorem witness_servo_acquiring : Inv (inServo .acquiring) ∧ (inServo .acquiring).time.servo.state = .acquiring
    ∧ (inServo .acquiring).time.servo.stepNs < (-101 : Int).natAbs ∧ (50 : Int).natAbs ≤ (inServo .acquiring).time.servo.stepNs
    ∧ (50 : Int).natAbs ≤ (inServo .acquiring).time.servo.lockNs ∧ 15 ≤ (inServo .acquiring).time.servo.goodRun :=
  ⟨⟨by decide, by decide, by decide⟩, by decide, by decide, by decide, by decide, by decide⟩
theorem witness_holdover : (inServo .holdover).time.servo.state = .holdover
    ∧ (inServo .holdover).time.servo.holdMax ≤ (inServo .holdover).epoch - (inServo .holdover).time.servo.since := by decide
theorem witness_servo_waits : let s := { inServo .acquiring with tick := { locked := true, slot := 2 * Config.slotsPerSec } }
    s.time.servo.hint = some (1, 0) ∧ 0 + 3 * Config.slotsPerSec / 2 ≤ s.tick.slot ∧ s.time.servo.lastPps.isSome = true
    ∧ s.time.servo.lastEdgeSlot + 11 * Config.slotsPerSec / 10 ≤ s.tick.slot := by decide
theorem witness_squelch : let s := up.setFld F.tsRclkStat_SQUELCHED 1 0
    Inv s ∧ s.rclkSquelched 1 ≠ s.flag F.tsRclkStat_SQUELCHED 1 := ⟨⟨by decide, by decide, by decide⟩, by decide⟩

/-! EventOutputsAndCaptures -/
theorem witness_arm : Inv up ∧ (0x80000000 : Word).toNat.testBit 31 = true ∧ up.flag F.tsEvtCtl_EN 7 = false
    ∧ up.dueAt (up.reg .tsEvtStart 7).toNat = true ∧ (up.setReg .tsEvtStart 7 100).dueAt ((up.setReg .tsEvtStart 7 100).reg .tsEvtStart 7).toNat = false :=
  ⟨⟨by decide, by decide, by decide⟩, by decide, by decide, by decide, by decide⟩
def pulsing (high : Bool) : State := { up with time := { up.time with outputs := [(3, { next := 0, high := high })] } }
theorem witness_edge (b : Bool) : Inv (pulsing b) ∧ OTable.get? (pulsing b).time.outputs 3 = some { next := 0, high := b }
    ∧ (pulsing b).due256 0 = true ∧ (pulsing b).flag F.tsEvtCtl_PERIODIC 3 = false ∧ (pulsing b).meet.writes = [] := by
  cases b <;> exact ⟨⟨by decide, by decide, by decide⟩, by decide, by decide, by decide, by decide⟩
theorem witness_pps : let s := { (up.setFld F.tsPpsCfg_EN 0 1) with time := { up.time with todSet := true, even := { sec := 0, ns := 999999999 }, whorl := 2 ^ 32 - 1 } }
    s.time.ppsHigh = none ∧ s.flag F.tsPpsCfg_EN 0 = true ∧ s.netValid = true ∧ s.secondPasses = true ∧ s.due256 0 = true := by decide
def capturing : State := (up.setFld F.tsCapCtl_EN 4 1).setFld F.tsCapCtl_EDGE 4 1
theorem witness_capture : Inv capturing ∧ capturing.capSelects 4 true = true ∧ OTable.get? capturing.time.lastEdge 4 = none
    ∧ capturing.time.servo.mode ≠ 2 ∧ (capturing.captures 4).length < 16 := ⟨⟨by decide, by decide, by decide⟩, by decide, by decide, by decide, by decide⟩
def captured (n : Nat) : State :=
  let s := capturing.setFld F.tsCapCtl_OWNER 4 1
  { s with time := { s.time with captures := [(4, List.replicate n { ns := 5, frac := 0, parity := false, rise := true })] } }
theorem witness_capture_full : Inv (captured 16) ∧ 16 ≤ ((captured 16).captures 4).length ∧ (captured 16).capSelects 4 true = true :=
  ⟨⟨by decide, by decide, by decide⟩, by decide, by decide⟩
theorem witness_pop : (captured 2).flag F.tsCapCtl_OWNER 4 = true
    ∧ (captured 2).captures 4 = { ns := 5, frac := 0, parity := false, rise := true } :: [{ ns := 5, frac := 0, parity := false, rise := true }]
    ∧ (capturing.setFld F.tsCapCtl_OWNER 4 1).captures 4 = [] := by decide

/-! ScheduledCommands -/
theorem witness_entry_arm : Inv up ∧ (0x83000005 : Word).toNat.testBit 31 = true ∧ up.flag F.tickSchAct_ARM 31 = false
    ∧ (0x83000005 : Word).toNat / 2 ^ 24 % 16 ≤ 3 ∧ up.dueAt (up.reg .tickSchTgt 31).toNat = true
    ∧ (up.setReg .tickSchTgt 31 9).dueAt ((up.setReg .tickSchTgt 31 9).reg .tickSchTgt 31).toNat = false
    ∧ 3 < (0x84000000 : Word).toNat / 2 ^ 24 % 16 := ⟨⟨by decide, by decide, by decide⟩, by decide, by decide, by decide, by decide, by decide, by decide⟩
def dueEntry : State := ((up.setFld F.tickSchAct_ARM 5 1).setFld F.tickSchAct_ACTION 5 3).setReg .tickSchData 5 7
theorem witness_entry_due : Inv dueEntry ∧ dueEntry.dueEntries = [5] ∧ dueEntry.fld F.tickSchAct_ACTION 5 = 3
    ∧ (dueEntry.setFld F.tickCtl_SCH_EN 0 1).dueCause 5 = 0 ∧ (dueEntry.setFld F.tickCtl_SCH_EN 0 0).dueCause 5 = 6 :=
  ⟨⟨by decide, by decide, by decide⟩, by decide, by decide, by decide, by decide⟩
def holding (time : Nat) (entries : List Nat) : State :=
  { up with tick := { up.tick with held := [{ handle := 9, time := time, acts := [{ action := 1 }], entries := entries }] },
            time := { up.time with remap := true } }
theorem witness_held : Inv (holding 1000 []) ∧ (holding 1000 []).flag F.protBoot_RUNNING 0 = true ∧ (holding 1000 []).freeEntries ≠ []
    ∧ (holding 1000 []).netNs < 1000 ∧ 1000 < (holding 1000 []).netNs + 2 ^ 30 ∧ (holding 1000 []).time.held = []
    ∧ (holding 1000 []).path.gclHeld = [] := ⟨⟨by decide, by decide, by decide⟩, by decide, by decide, by decide, by decide, by decide, by decide⟩
theorem witness_reconvert : Inv (holding 0 [3]) ∧ (holding 0 [3]).time.remap = true ∧ 0 ≤ (holding 0 [3]).netNs
    ∧ (holding 0 [3]).path.gcl = [] ∧ (holding 0 [3]).time.evts = [] := ⟨⟨by decide, by decide, by decide⟩, by decide, by decide, by decide, by decide⟩

/-! SnapshotsAndTransfers -/
theorem witness_snapshot : Inv up ∧ up.refusal .cc (Reg.cntSnap.offset 0) true = none ∧ (1 : Word).toNat.testBit 0 = true
    ∧ up.cnt.lastSnapSlot ≠ some up.tick.slot ∧ up.samp.pendEpochs = [] ∧ Reg.macRxFcsErrCnt.desc.rc = true ∧ Reg.macRxFcsErrCnt.isSumLo = false
    ∧ up.inReset .macRxFcsErrCnt 511 = false ∧ (up.count .macRxFcsErrCnt 511 3).cnt.live = [(regKey .macRxFcsErrCnt 511, 3)] :=
  ⟨⟨by decide, by decide, by decide⟩, by decide, by decide, by decide, by decide, by decide, by decide, by decide, by decide⟩
theorem witness_snapshot_again : let s := { up with cnt := { up.cnt with lastSnapSlot := some 2097152 } }
    s.cnt.lastSnapSlot = some s.tick.slot := by decide
theorem witness_firmware_snapshot : let s := { up with tick := { up.tick with slot := 1048576 * 65536 } }
    s.fwRunning = true ∧ 65536 ≤ s.epoch - s.cnt.lastSnapEpoch ∧ s.cnt.lastSnapSlot ≠ some s.tick.slot := by decide
theorem witness_rc_read : placeAt 0x400060 = placeAt 0x400060 ∧ Reg.macRxOctLo.isSumLo = true
    ∧ placeAt (Reg.macRxOctLo.offset 511) = .reg .macRxOctLo 511 ∧ up.refusal .cc (Reg.macRxOctLo.offset 511) false = none
    ∧ up.regPresent .macRxOctLo 511 = true ∧ up.inReset .macRxOctLo 511 = false := ⟨rfl, by decide, by decide +kernel, rfl, by decide, by decide⟩
theorem witness_rc_read_image : placeAt (Reg.macRxFcsErrCnt.offset 511) = .reg .macRxFcsErrCnt 511 ∧ Reg.macRxFcsErrCnt.offset 511 % 4 = 0
    ∧ Reg.macRxFcsErrCnt.offset 511 < 0x2000000 := by decide +kernel
theorem witness_transfer : let s := { (up.setFld F.cntCtl_XFER_EN 0 1) with tick := { up.tick with slot := 262144 }, cnt := { arrImg := [(5, 2)] } }
    s.epochOffset = 262144 ∧ s.flag F.cntCtl_XFER_EN 0 = true ∧ s.fwRunning = true ∧ (s.setFld F.protBoot_RUNNING 0 0).fwRunning = false := by decide
theorem witness_sampling : up.tick.locked = true ∧ up.tick.slot % 1024 = 0 ∧ up.samp.now = none ∧ up.epochOffset = 0 ∧ up.samp.epoch ≠ up.epoch
    ∧ Table.get (fun _ => 0) ({ up with samp := { up.samp with liveN := [(3, 1)] } }).samp.liveN 3 ≠ 0 := by decide

/-! FrameReceptionAndDecision -/
theorem witness_frame_start : Inv linked ∧ linked.hasPort 0 = true ∧ linked.configured 0 = true ∧ linked.hidden 0 = false
    ∧ linked.flag F.macModeStat_SB_ACT 0 = false ∧ linked.linkUp 0 = true ∧ linked.fifoBytes 0 + linked.mfs 0 ≤ 32768 * linked.width 0 :=
  ⟨⟨by decide, by decide, by decide⟩, by decide, by decide, by decide, by decide, by decide, by decide⟩
def oneFrame (n : Nat) (st : Stage) : State := { linked with path := { linked.path with frames := [inRx n st], nextId := 1 } }
def rxOf (bs : List Byte) : Frame := { inRx 0 .arriving with bytes := bs, ended := some 0 }
def fifoOf (bs : List Byte) : State := { linked with path := { linked.path with frames := [rxOf bs, rxOf bs, rxOf bs, rxOf bs] } }
theorem witness_fifo_full (bs : List Byte) (h : bs.length = 8192) :
    32768 * (fifoOf bs).width 0 < (fifoOf bs).fifoBytes 0 + (fifoOf bs).mfs 0 := by
  have hf : (fifoOf bs).fifoBytes 0 = (((0 + bs.length) + bs.length) + bs.length) + bs.length := rfl
  have hm : 1518 ≤ (fifoOf bs).mfs 0 := by simp only [State.mfs, if_pos (by decide : 0 < 512)]; omega
  have hw : (fifoOf bs).width 0 = linked.width 0 := rfl
  have hl : linked.width 0 = 1 := by decide
  rw [hf, hw, hl, h]; omega
theorem witness_ready : (oneFrame 64 .arriving).oldest 0 (fun f => f.stage == .arriving) = some (inRx 64 .arriving) ∧ (inRx 64 .arriving).entersWhole = false
    ∧ 64 ≤ (inRx 64 .arriving).bytes.length ∧ 0 + cdiv (min 256 64) ((oneFrame 64 .arriving).bytesPerSlot 0) + 15 ≤ (oneFrame 64 .arriving).tick.slot
    ∧ (oneFrame 64 .arriving).waitingHeaders 0 < (oneFrame 64 .arriving).headerRoom 0 := by decide
theorem witness_dispatch : (oneFrame 64 .ready).hasSlice 0 = true ∧ (oneFrame 64 .ready).path.ranNow.contains (67, 0) = false
    ∧ (0, 0) ∈ (oneFrame 64 .ready).dispatchPorts 0 := by decide
theorem witness_frame_end : min (inRx 64 .arriving).bytes.length (inRx 64 .arriving).limit ≤ (oneFrame 64 .arriving).received (inRx 64 .arriving)
    ∧ (inRx 63 .arriving).bytes.length < 64 := by decide
theorem witness_frame_end_good : let bs := List.replicate 60 (0 : Byte)
    rxOutcome 10240 false (bs ++ fcsBytes bs) = 0 := by decide +kernel
theorem witness_strand : (inRx 64 .strand).good = true ∧ (oneFrame 64 .strand).path.frames = [inRx 64 .strand]
    ∧ (inRx 64 .strand).dispatched + ((oneFrame 64 .strand).strand (inRx 64 .strand) []).latency ≤ (oneFrame 64 .strand).tick.slot := by decide +kernel
theorem witness_reorder_release : (oneFrame 64 .complete).ran 70 0 = false ∧ Config.sliceOf (inRx 64 .complete).port = 0 ∧ (inRx 64 .complete).dropped = 0 := by decide
def policedFrame : Frame := { inRx 64 .fabric with ended := some 0, police := some (0, 5, 0, 64) }
theorem witness_police : ({ up with path := { up.path with frames := [policedFrame] } }).oldest 0
    (fun f => f.md.seq == 0 && f.police.isSome && f.ended.isSome) = some policedFrame ∧ up.hasQuad 3 = true := by decide

/-! StagingGrantsAndWrites -/
def releasedFrame : Frame := { inRx 64 .released with ended := some 0, dests := [(3, false)], body := List.replicate 60 0 }
def atFabric : State := { linked with path := { linked.path with frames := [releasedFrame], nextId := 1 } }
theorem witness_fabric_entry : releasedFrame.released + 14 ≤ atFabric.tick.slot ∧ atFabric.sliceHeld 0 = false
    ∧ (atFabric.llMask 0).testBit 0 = false ∧ cellsFor (atFabric.lenFor releasedFrame) ≤ atFabric.lossyFree 0 := by decide
def stagedCopy : Staged := { fid := 0, port := 0, ing := 0, eg := 0, cls := 0, dests := [(3, false)], lossless := false, charge := 1 }
def spilled : State := { linked with path := { linked.path with
  frames := [releasedFrame], staged := [{ stagedCopy with inSpill := true }]
  hanks := [(spillKey 0 0, { recs := [{ copy := { fid := 0, port := 0, cls := 0, mc := false }, size := 128 }] })] } }
theorem witness_spill_return : (spilled.hank? (spillKey 0 0)).isSome = true ∧ 1 ≤ spilled.lossyFree 0 := by decide
def granting : State := { linked with path := { linked.path with frames := [releasedFrame], staged := [stagedCopy] } }
theorem witness_grant : granting.ran 73 0 = false ∧ granting.hasSlice 0 = true ∧ granting.losslessStart stagedCopy = false
    ∧ granting.cellReady stagedCopy = true ∧ granting.frame? 0 = some releasedFrame ∧ granting.path.credit = [] := by decide
def oneWrite : CellWr :=
  { fid := 0, k := 0, port := 3, mc := false, cls := 0, due := 0, data := List.replicate 64 0, last := true, need := 64, lossless := false }
def writing : State :=
  { ((((linked.setFld F.cbPoolCeil_COUNT 1 65536).setFld F.cbStat_INIT_DONE 0 1).setFld F.macLink_UP 3 1).setReg .qmPortStat 3 0).setFld F.macPortCfg_MODE 3 1 with
    path := { linked.path with frames := [releasedFrame], writeQ := [(0, oneWrite)], pools := [(0, { free := 65536, next := 0 })] } }
theorem witness_cell_write : writing.hasSlice 0 = true ∧ writing.ran 74 0 = false ∧ writing.frame? 0 = some releasedFrame
    ∧ writing.copy? 0 3 = none ∧ writing.portDown 3 = false ∧ writing.inDeep oneWrite.queue = false
    ∧ writing.cq oneWrite.queue + cellsFor 64 ≤ writing.qLimit oneWrite.queue := by decide +kernel
theorem witness_cell_write_reserve : (((writing.markRan 74 0).inPath fun p => { p with writeQ := [] }).reserve 0 (writing.poolOf oneWrite.queue) 1).2 = true := by decide +kernel

/-! TransmissionOfFrames -/
def pausing : State := { linked with path := { linked.path with flow := [(0, { frames := [List.replicate 64 0] })] } }
theorem witness_decide_control : pausing.hasPort 0 = true ∧ pausing.ran 76 0 = false ∧ pausing.mayDecide 0 = true
    ∧ (pausing.flow 0).frames = [List.replicate 64 0] := by decide +kernel
def sentFrame : Frame := { inRx 64 .fabric with ended := some 0, body := List.replicate 60 0 }
def sentCopy : Copy := { fid := 0, port := 0, cls := 0, mc := false, cells := [9], whole := true, len := 64 }
def queued : State := { (linked.setFld F.gclOperPos_GATES 0 255).setReg .qmPortStat 0 0 with path := { linked.path with
  frames := [sentFrame], copies := [sentCopy], desc := [(9, { state := 1, owner := 0, onlist := false })] } }
theorem witness_decide_queue : (queued.flow 0).frames = [] ∧ queued.portUp 0 = true ∧ queued.flag F.macMode_STANDBY 0 = false ∧
    (let r := (queued.markRan 76 0).lookHeads 0 (queued.startAt 0) (queued.egressStamp 0 0 0)
     r.1.inDebt (portShaper 0) = false ∧ (r.1.pickClass 0 (r.1.sched 0) r.2).2 = some 0
      ∧ (classHead (r.1.pickClass 0 (r.1.sched 0) r.2).1 r.2 0).any (fun e => !e.2.known || decide (e.2.len ≤ queued.mfs 0)) = true) := by decide +kernel
def nextOn (x : Tx) : State := { queued with path := { queued.path with tx := [(1, x)] } }
def lineOn (x : Tx) (c : Copy) : State := { queued with path := { queued.path with tx := [(0, x)], copies := [c] } }
theorem witness_start : (nextOn { ctl := [1] }).nextTx 0 = some { ctl := [1] } ∧ (nextOn { ctl := [1] }).lineTx 0 = none
    ∧ (nextOn { ctl := [1] }).idleTx 0 = 0 := by decide
theorem witness_start_copy : (nextOn { copy := some sentCopy }).copy? 0 0 = some sentCopy ∧ (nextOn { copy := some sentCopy }).frame? 0 = some sentFrame
    ∧ ((nextOn { copy := some sentCopy }).gates 0).testBit 0 = true
    ∧ (((nextOn { copy := some sentCopy }).setFld F.gclOperPos_GATES 0 0).gates 0).testBit 0 = false := by decide +kernel
theorem witness_cell_read : (lineOn { copy := some sentCopy } sentCopy).lineTx 0 = some { copy := some sentCopy }
    ∧ ((lineOn { copy := some sentCopy } sentCopy).desc 0 9).state = 1 ∧ ((lineOn { copy := some sentCopy } sentCopy).desc 0 9).owner = sentCopy.queue := by decide
theorem witness_end : (0 + 72 * 3200 / max 1 ((lineOn { ctl := [1] } sentCopy).rateGbps 0)) / 256 ≤ up.tick.slot
    ∧ (lineOn { copy := some sentCopy } { sentCopy with cells := [] }).copy? 0 0 = some { sentCopy with cells := [] } := by decide +kernel
def freeing : State := { queued with path := { queued.path with
  frees := [{ slice := 0, cell := 9, queue := 0, read := 0 }], walks := [{ slice := 0, cells := [9], queue := 0, total := 1 }] } }
theorem witness_free : Table.wf (fun _ => {}) freeing.path.desc = true ∧ (freeing.desc 0 9).state = 1 ∧ (freeing.desc 0 9).owner = 0
    ∧ (freeing.desc 0 9).retPend = false := by decide

/-! SweepsAndScrubsOfTheCellBuffer -/
def sweeping (r : Reclaim) : State :=
  { up with path := { up.path with reclaim := [(0, r)], desc := [(9, { state := 1, owner := 5, onlist := false, swn := 3 })] } }
theorem witness_sweep_start : (Table.get (fun _ => ({} : Reclaim)) (sweeping { waiting := [5] }).path.reclaim 0).waiting.find?
    (sweeping { waiting := [5] }).onDieEmpty = some 5 ∧ Table.wf (fun _ => ({} : Reclaim)) (sweeping { waiting := [5] }).path.reclaim = true := by decide
theorem witness_sweep_end : Table.wf (fun _ => ({} : Reclaim)) (sweeping { active := some 5 }).path.reclaim = true
    ∧ Table.wf (fun _ => ({} : Desc)) (sweeping { active := some 5 }).path.desc = true ∧ 0 + 4096 ≤ (sweeping { active := some 5 }).tick.slot := by decide
def scrubbing : State := (up.setFld F.cbCtl_SCRUB_EN 0 1).setFld F.cbStat_INIT_DONE 0 1
theorem witness_scrub : Inv scrubbing ∧ scrubbing.hasSlice 0 = true ∧ scrubbing.flag F.cbCtl_SCRUB_EN 0 = true
    ∧ scrubbing.flag F.cbStat_INIT_DONE 0 = true
    ∧ scrubbing.tick.slot % 2 ^ scrubbing.fld F.cbCtl_SCRUB_DIV 0 = 0 ∧ scrubbing.fld F.thmStat_LEVEL 0 < 2 :=
  ⟨⟨by decide, by decide, by decide⟩, by decide, by decide, by decide, by decide, by decide⟩
theorem witness_write_back : (scrubbing.inPath fun p => { p with fixes := [(0, 9)] }).path.fixes = (0, 9) :: [] := rfl
theorem witness_descriptor : Table.wf (fun _ => ({} : Desc)) scrubbing.path.desc = true ∧ (scrubbing.desc 0 9).state = 0
    ∧ ((sweeping {}).desc 0 9).state = 1 := by decide

/-! DeepTierPagesAndStacks -/
def deepRec : HankRec := { copy := { fid := 7, port := 0, cls := 0, mc := false, len := 64 }, size := 96, whole := true, got := List.replicate 64 0 }
def deepPage : HankPage := { page := 8192, base := 0 }
def deepHank (p : HankPage) : Hank := { pages := [p], recs := [deepRec] }
def deepState (p : HankPage) : State :=
  { ((linked.setFld F.cbPoolCeil_COUNT 1 65536).setFld F.dtQcfgRb_RB_LOW 0 4).setReg .qmPortStat 0 0 with
    path := { linked.path with hanks := [(0, deepHank p)], pools := [(0, { free := 65536, next := 0 })] } }
theorem witness_page_close : (deepState deepPage).hank? 0 = some (deepHank deepPage) ∧ (deepHank deepPage).open? = some deepPage
    ∧ deepPage.base < (deepHank deepPage).filled
    ∧ deepPage.first + max 64 ((deepState deepPage).fld F.dtCtl_FLUSH_SLOTS (Config.quadOf (0 / 16))) ≤ (deepState deepPage).tick.slot := by decide
def closedPage : HankPage := { deepPage with closed := true, fill := 96 }
theorem witness_page_write : Table.wf (fun _ => 0) (deepState closedPage).path.wbuf = true ∧ (deepState closedPage).hank? 0 = some (deepHank closedPage) := by decide
def readyPage : HankPage := { closedPage with written := true }
theorem witness_readback : (deepState readyPage).cq 0 < 16 * (deepState readyPage).fld F.dtQcfgRb_RB_LOW (Config.quadOf (0 / 16) * 8256 + 0)
    ∧ (deepState readyPage).portUp (0 / 16) = true ∧ Table.wf (fun _ => 0) (deepState readyPage).path.cq = true
    ∧ (deepState readyPage).canReserve (Config.sliceOf (0 / 16)) ((deepState readyPage).poolOf 0) 1 = false
    ∧ ((deepState readyPage).setFld F.cbStat_INIT_DONE 0 1).canReserve 0 ((deepState readyPage).poolOf 0) 1 = true
    ∧ cdiv (frameBytes deepRec 0 (readyPage.base + readyPage.fill)) 128 = 1 := by decide
def readingPage : HankPage := { readyPage with reading := some 5 }
theorem witness_page_read : (deepState readingPage).hank? 0 = some (deepHank readingPage) ∧ 0 + deepRec.size ≤ readingPage.base + readingPage.fill := by decide
theorem witness_deep_exit : ({ up with path := { up.path with hanks := [(0, {})] } } : State).hank? 0 = some {}
    ∧ ({ up with path := { up.path with hanks := [(0, {})] } } : State).onDieEmpty 0 = true
    ∧ ({ up with path := { up.path with hanks := [(0, {})] } } : State).cq 0 = 0 := by decide
def stackScrub : State := up.setFld F.dtCtl_SCRUB_EN 0 1
theorem witness_stack_scrub : Inv stackScrub ∧ stackScrub.hasStack (9 / 2 ^ 22) = true ∧ stackScrub.stackState (9 / 2 ^ 22) ≠ 2
    ∧ stackScrub.flag F.dtCtl_SCRUB_EN 0 = true ∧ stackScrub.tick.slot % 2 ^ max 2 (stackScrub.fld F.dtCtl_SCRUB_DIV 0) = 0
    ∧ stackScrub.fld F.thmStat_LEVEL 0 < 2 ∧ stackScrub.path.metaSeen.contains (9 * 16 + 1) = false :=
  ⟨⟨by decide, by decide, by decide⟩, by decide, by decide, by decide, by decide, by decide, by decide⟩
theorem witness_stack_drain : Inv (up.setFld F.dtStkStat_STATE 0 1) ∧ (up.setFld F.dtStkStat_STATE 0 1).stackState 0 = 1
    ∧ ((up.setFld F.dtStkStat_STATE 0 1).stack 0).used = 0 := ⟨⟨by decide, by decide, by decide⟩, by decide, by decide⟩

/-! FlowControlOfAPort -/
def flowing (f : Flow) : State := { linked with path := { linked.path with flow := [(0, f)] } }
theorem witness_load : Table.wf (fun _ => ({} : Flow)) (flowing { loads := [(5, 1, [9])] }).path.flow = true
    ∧ ((flowing { loads := [(5, 1, [9])] }).flow 0).loads = [(5, 1, [9])] ∧ 5 ≤ (flowing {}).tick.slot := by decide
theorem witness_timer : Table.wf (fun _ => ({} : Flow)) (flowing { timers := [4] }).path.flow = true ∧ (flowing {}).tick.locked = true
    ∧ ((flowing { timers := [4] }).flow 0).timers.getD 0 0 = 4 := by decide
theorem witness_generate : Table.wf (fun _ => ({} : Flow)) (flowing { req := 1, due := 3 }).path.flow = true
    ∧ ((flowing { req := 1, due := 3 }).flow 0).due ≠ 0 ∧ (flowing { req := 1, due := 3 }).linkUp 0 = true
    ∧ (flowing { req := 1, due := 3 }).flag F.macMode_STANDBY 0 = false ∧ (3 : Nat).testBit 0 = true ∧ (1 : Nat).testBit 0 = true := by decide
theorem witness_refresh : ((flowing { req := 1 }).flow 0).req.testBit 0 = true ∧ ((flowing { req := 1 }).flow 0).refresh.getD 0 0 ≤ (flowing {}).tick.slot := by decide

/-! GateListsRunAndSwap -/
def listed : State := ((((linked.setFld F.gclStat_VALID 0 1).setFld F.gclOperLen_LEN 0 2).setFld F.gclOperDur_DUR 0 8).setFld F.gclCycStart_START 0 1000).setFld F.macMode_GATED 0 1
theorem witness_entry : Table.wf (fun _ => ({} : GclRun)) listed.path.gcl = true ∧ listed.flag F.gclStat_VALID 0 = true
    ∧ listed.fld F.gclOperPos_ENTRY 0 + 1 < listed.gclLen 0 false := by decide
def later (n : Nat) : State := { listed with time := { listed.time with whorl := n * 2 ^ 32 } }
theorem witness_gate_entry_due : Inv (later 500) ∧ (later 500).dueAt (8 % 2 ^ 32) = true ∧ (later 500).dueAt ((later 500).fld F.gclCycStart_START 0) = false :=
  ⟨⟨by decide, by decide, by decide⟩, by decide, by decide⟩
theorem witness_cycle : Inv (later 1000) ∧ (later 1000).meet.writes = [] ∧ (later 1000).flag F.macMode_GATED 0 = true
    ∧ (later 1000).dueAt ((later 1000).fld F.gclCycStart_START 0) = true :=
  ⟨⟨by decide, by decide, by decide⟩, by decide, by decide, by decide⟩
theorem witness_swap_write : (later 500).hasPort 0 = true ∧ (later 500).flag F.gclSwapCtl_ARM 0 = false := by decide
def armed : State := ((later 500).setFld F.gclSwapCtl_ARM 0 1).setFld F.gclSwapTgt_TGT 0 600
theorem witness_disarm : Inv armed ∧ armed.flag F.gclSwapCtl_ARM 0 = true ∧ armed.dueAt (armed.fld F.gclSwapTgt_TGT 0) = false :=
  ⟨⟨by decide, by decide, by decide⟩, by decide, by decide⟩
theorem witness_swap : Inv (armed.setFld F.gclSwapTgt_TGT 0 500) ∧ (armed.setFld F.gclSwapTgt_TGT 0 500).dueAt 500 = true
    ∧ armed.meet.writes = [] ∧ armed.path.ranNow.contains (1001, 0) = false :=
  ⟨⟨by decide +kernel, by decide +kernel, by decide +kernel⟩, by decide +kernel, by decide +kernel, by decide +kernel⟩

/-! LinksGoDownAndComeUp -/
def goodLink : State := linked.setFld F.macLink_ALIGNED 0 1
theorem witness_link_loss : Inv goodLink ∧ goodLink.hasPort 0 = true ∧ goodLink.configured 0 = true ∧ goodLink.hidden 0 = false
    ∧ goodLink.flag F.macPortCfg_EN 0 = true ∧ goodLink.linkUp 0 = true ∧ (goodLink.setReg .qmPortStat 0 0).portState 0 = 0
    ∧ (goodLink.setFld F.qmPortCfg_HOLD 0 0).fld F.qmPortCfg_HOLD 0 = 0 ∧ (goodLink.setFld F.qmPortCfg_HOLD 0 1).fld F.qmPortCfg_HOLD 0 = 1 :=
  ⟨⟨by decide, by decide, by decide⟩, by decide, by decide, by decide, by decide, by decide, by decide, by decide, by decide⟩
def inLink (f : Path → Path) : State := (goodLink.setFld F.macLink_UP 0 0).inPath f
theorem witness_hold : OTable.get? (inLink fun p => { p with hold := [(0, 9)] }).path.hold 0 = some 9
    ∧ 9 ≤ (inLink fun p => { p with hold := [(0, 9)] }).tick.slot ∧ (inLink id).path.copies = [] ∧ (inLink id).path.hanks = []
    ∧ (inLink id).nextTx 0 = none := by decide
theorem witness_link_up : Inv (inLink fun p => { p with linkSince := [(0, 9)] })
    ∧ OTable.get? (inLink fun p => { p with linkSince := [(0, 9)] }).path.linkSince 0 = some 9
    ∧ 9 + 65536 ≤ (inLink id).tick.slot ∧ (inLink id).linkUp 0 = false ∧ (inLink id).linkConditions 0 = true
    ∧ (inLink id).flag F.macModeStat_SB_ACT 0 = false ∧ OTable.has (inLink id).path.wakeAt 0 = false :=
  ⟨⟨by decide, by decide, by decide⟩, by decide, by decide, by decide, by decide, by decide, by decide⟩
theorem witness_wake : OTable.get? (inLink fun p => { p with wakeAt := [(0, 9)] }).path.wakeAt 0 = some 9
    ∧ (inLink id).path.hold = [] ∧ Table.wf (fun _ => ({} : Flow)) (inLink id).path.flow = true := by decide
def laneUp : State := goodLink.setFld F.lnRate_ACTIVE 0 1
theorem witness_lane_lock : Inv laneUp ∧ laneUp.runningPort 0 = some 0 ∧ laneUp.flag F.lnStat_LOCK 0 = false
    ∧ 0 < (if laneUp.portMode 0 = 0x10 then 4 else laneUp.width 0) := ⟨⟨by decide, by decide, by decide⟩, by decide, by decide, by decide⟩
theorem witness_lock_loss : Inv (laneUp.setFld F.lnStat_LOCK 0 1) ∧ (laneUp.setFld F.lnStat_LOCK 0 1).runningPort 0 = some 0
    ∧ 0 ∈ (laneUp.setFld F.lnStat_LOCK 0 1).lanesOf 0 ∧ ((laneUp.setFld F.lnStat_LOCK 0 1).lane 0).rx = 0 :=
  ⟨⟨by decide, by decide, by decide⟩, by decide, by decide, by decide⟩

/-! LaneSettingsIdleAndScans -/
def laneIs (x : LaneSt) : State := ((goodLink.setFld F.lnRate_ACTIVE 0 1).setFld F.lnStat_LOCK 0 1).setLane 0 x
theorem witness_commit : Inv (laneIs {}) ∧ Table.wf (fun _ => ({} : LaneSt)) (laneIs {}).lanes.lane = true ∧ (laneIs {}).hasLane 0 = true
    ∧ (1 : Word).toNat.testBit 0 = true := ⟨⟨by decide, by decide, by decide⟩, by decide, by decide, by decide⟩
def committing : LaneSt := { txPend := true, rxPend := true }
theorem witness_commit_apply : Inv (laneIs committing) ∧ Table.wf (fun _ => ({} : LaneSt)) (laneIs committing).lanes.lane = true
    ∧ (laneIs committing).runningPort 0 = some 0 ∧ (laneIs committing).idleTx 0 = 0 ∧ ((laneIs committing).lane 0).txPend = true :=
  ⟨⟨by decide, by decide, by decide⟩, by decide, by decide, by decide, by decide⟩
def idling (n : Nat) : State := (goodLink.setFld F.macMode_IDLE 0 1).setFld F.pcsState_IDLE_TX 0 n
theorem witness_idle : Inv (idling 0) ∧ (idling 0).idleTx 0 = 0 ∧ (idling 0).mayIdle 0 = true ∧ (idling 1).idleTx 0 = 1
    ∧ ((idling 1).line 0).due + 4 ≤ (idling 1).tick.slot ∧ ((idling 2).setLine 0 { exitReq := some 9 }).exitRequest 0 = some 9
    ∧ (idling 2).idleTx 0 = 2 ∧ (idling 3).idleTx 0 = 3 ∧ (idling 3).lanes.lane = [] :=
  ⟨⟨by decide, by decide, by decide⟩, by decide, by decide +kernel, by decide, by decide, by decide, by decide, by decide, by decide⟩
theorem witness_receive : ((laneIs { rx := 2 }).lane 0).rx = 2 ∧ ((laneIs { rx := 1 }).lane 0).rx = 1 ∧ ((laneIs {}).lane 0).rx = 0
    ∧ (laneIs { rx := 2 }).runningPort 0 = some 0
    ∧ crc8 (beBytes 3 (0 : Word).toNat) = (0 : Word).toNat / 2 ^ 24 ∧ crc8 (beBytes 3 (2 ^ 24 : Word).toNat) ≠ (2 ^ 24 : Word).toNat / 2 ^ 24
    ∧ 0 + 390 ≤ (laneIs { rx := 2 }).tick.slot := by decide
def scanOf : EyeScan := { eye := 0, ph0 := 0, ph1 := 1, phStep := 1, v0 := 0, v1 := 1, vStep := 1, win := 16, start := 2 }
def scanning : State := { (laneIs {}).setScan 0 scanOf with tick := { up.tick with slot := 2097152 + 524288 } }
theorem witness_scan : OTable.get? scanning.lanes.scans 0 = some scanOf ∧ scanning.runningPort 0 = some 0 ∧ scanning.fld F.thmStat_LEVEL 0 < 2
    ∧ scanOf.start ≤ scanning.epoch ∧ 524288 ≤ scanning.epochOffset ∧ scanning.linkUp 0 = true ∧ scanning.flag F.lnStat_LOCK 0 = true := by decide
theorem witness_legs : (laneIs {}).laneOn 0 = true ∧ 8 ∈ legLows ∧ bitsOf ((laneIs {}).lane 0).seen 10 8 = legCode 8 (0 / 2 ^ 8)
    ∧ bitsOf ((laneIs {}).lane 0).seen 10 8 ≠ legCode 8 (256 / 2 ^ 8) := by decide

/-! AddressTableLearnsAndAges -/
def inTab (s : State) (f : Tables → Tables) : State := { s with tab := f s.tab }
def learning : LearnReq := { quad := 0, fid := 1, mac := 2, port := 3, kind := 1, entered := 0 }
def asked : State := inTab up fun t => { t with learnQ := [learning] }
theorem witness_learn : asked.tab.learnQ = [learning] ∧ learning.entered < asked.tick.slot ∧ asked.overLimit 0 3 = false
    ∧ (asked.noticesOf 0).length < 8192 := by decide
theorem witness_learn_new : asked.lookupAddr 0 (addrKey 1 2) = none
    ∧ ((asked.candidates 0 (addrKey 1 2)).find? fun pos => (asked.addrAt 0 pos).isNone) = some (asked.bucketPos 0 0 (addrKey 1 2)) := by decide +kernel
def heldBy4 : State := asked.putAddr 0 (asked.bucketPos 0 0 (addrKey 1 2)) { mac := 2, fid := 1, dest := 4 }
theorem witness_learn_move : (heldBy4.lookupAddr 0 (addrKey 1 2)) = some (asked.bucketPos 0 0 (addrKey 1 2), { mac := 2, fid := 1, dest := 4 }) := by decide +kernel
def sweep (slot : Nat) (a : AgeState) : State :=
  inTab { up.setFld F.tbAgeCfg_AGE_EN 0 1 with tick := { up.tick with slot := slot } } fun t =>
    { t with age := [(0, a)], addr := [(5, { mac := 2, fid := 1, dest := 4 })] }
theorem witness_age_start : Inv (sweep (1048576 * 16) { active := true }) ∧ Table.wf (fun _ => ({} : AgeState)) (sweep (1048576 * 16) { active := true }).tab.age = true
    ∧ (sweep (1048576 * 16) { active := true }).hasQuad 0 = true ∧ (sweep (1048576 * 16) { active := true }).flag F.tbAgeCfg_AGE_EN 0 = true
    ∧ (sweep (1048576 * 16) { active := true }).epochOffset = 0
    ∧ (let s := (sweep 0 { active := true }); s.epoch % max 4 (s.fld F.tbAgeCfg_PERIOD 0) = 0) :=
  ⟨⟨by decide, by decide, by decide⟩, by decide, by decide, by decide, by decide, by decide⟩
theorem witness_age_step : ((sweep 65536 { active := true }).ageOf 0).active = true ∧ 65536 ≤ (sweep 65536 { active := true }).epochOffset
    ∧ (sweep 65536 { active := true }).addrOf 0 = [(5, { mac := 2, fid := 1, dest := 4 })] := by decide +kernel
theorem witness_flush : (sweep 4096 {}).epochOffset = 4096 ∧ (sweep 4096 {}).fwRunning = true
    ∧ Table.get (fun _ => 0) (sweep 4096 {}).tab.noticeLost 0 = 0 := by decide +kernel
def ringed : State := inTab up fun t => { t with ring := { t.ring with enabled := true, held := [[1]], size := 1024 } }
theorem witness_ring : ringed.tab.ring.enabled = true ∧ ringed.fwRunning = true ∧ ringed.tab.ring.discarded = 0
    ∧ (ringed.tab.ring.prod + 2 ^ 32 - 0) % 2 ^ 32 < ringed.tab.ring.size := by decide +kernel
theorem witness_tb_scrub : (sweep 0 {}).addrAt 0 ((1 * 4 + 1 % 4) % 2 ^ 20) = some { mac := 2, fid := 1, dest := 4 } := by decide +kernel

/-! TableScrubsEnginesAndShadows -/
def scrubTables : State := ((up.setFld F.clsCtl_SCRUB_EN 0 1).setFld F.fwdPfxCtl_SCRUB_EN 0 1)
theorem witness_scrub_tables : Inv scrubTables ∧ Table.wf (fun _ => ({} : ClsEnt)) scrubTables.tab.cls = true ∧ scrubTables.hasQuad 0 = true
    ∧ scrubTables.flag F.clsCtl_SCRUB_EN 0 = true ∧ scrubTables.flag F.fwdPfxCtl_SCRUB_EN 0 = true :=
  ⟨⟨by decide, by decide, by decide⟩, by decide, by decide, by decide, by decide⟩
def prefixOf : PfxEnt := { half := 0, vrf := 0, addr := 0, len := 8, group := false, idx := 7 }
def banked : State := inTab scrubTables fun t => { t with banks := [(0, { pairs := [], singles := [prefixOf] })] }
theorem witness_prefix_scrub : Table.wf (fun _ => ({} : PfxBank)) banked.tab.banks = true ∧ banked.bank 0 0 = { pairs := [], singles := [prefixOf] } := by decide
def losing (l : LostEnt) : State := inTab up fun t => { t with lost := [l] }
theorem witness_restore : (losing { table := 0, quad := 0, index := 9 }).fwRunning = true
    ∧ (Table.get (fun _ => ({} : ClsEnt)) (losing { table := 0, quad := 0, index := 9 }).tab.cls (0 * 32768 + 9)).pair = false
    ∧ (losing { table := 3, quad := 0, index := 9 }).tab.lost = [{ table := 3, quad := 0, index := 9 }] := by decide
def engine (kind : Nat) : State := inTab banked fun t => { t with pfxOps := [{ quad := 0, bank := 0, kind := kind, ent := prefixOf, chan := 4, tag := 1 }] }
theorem witness_engine : (engine 0).tab.pfxOps.length = 1 ∧ (engine 1).tab.pfxOps.length = 1
    ∧ Table.wf (fun _ => ({} : PfxBank)) (engine 1).tab.banks = true := by decide
theorem witness_range : (0 + 128 + 1048575) / 1048576 * 1048576 ≤ up.tick.slot := by decide
def flushPkt : Packet := { chan := 4, tag := 1, version := 256, flags := 0, zero := 0, params := [1, 0, 0, 0, 1, 0, 0, 0, 0, 0, 0, 0] }
def flushing : State := inTab up fun t =>
  { t with scans := [{ quad := 0, chan := 4, tag := 1 }], jobs := [{ op := 0x0304, pkt := flushPkt, inc := 0, left := 1 }] }
theorem witness_scan_pass : (flushing.job? 4 1).map (·.left) = some 1 ∧ (readParams 0x0304 flushPkt.params).f 2 = true
    ∧ (readParams 0x0304 flushPkt.params).f 3 = false ∧ (readParams 0x0304 flushPkt.params).n 5 = 0 := by decide

/-! MailboxesAndDoorbells -/
theorem witness_post : Inv hosted ∧ hosted.refusal (.host 0 false) (Reg.mbInCtl.offset 1) true = none
    ∧ hosted.bound 1 (hosted.sid (.host 0 false)) = true ∧ hosted.flag F.mbInCtl_STATE 1 = false
    ∧ hosted.bound 2 (hosted.sid (.host 0 false)) = false ∧ hosted.meet.posts = [] :=
  ⟨⟨by decide, by decide, by decide⟩, by decide, by decide, by decide, by decide, by decide⟩
theorem witness_post_twice : Inv (hosted.setFld F.mbInCtl_STATE 1 1) ∧ (hosted.setFld F.mbInCtl_STATE 1 1).flag F.mbInCtl_STATE 1 = true :=
  ⟨⟨by decide, by decide, by decide⟩, by decide⟩
theorem witness_increment : Inv (hosted.setFld F.mbInCtl_INC_PEND 1 1) ∧ (hosted.setFld F.mbInCtl_INC_PEND 1 1).flag F.mbInCtl_INC_PEND 1 = true :=
  ⟨⟨by decide, by decide, by decide⟩, by decide⟩
/-- An ECHO without parameters stands in slot 1. -/
def echoIn : State := ((hosted.setFld F.mbInCtl_STATE 1 1).setReg .mbInSlot 128 0x00020100).setReg .mbInSlot 129 7
theorem witness_consume : echoIn.fwRunning = true ∧ echoIn.boot.switchAt = none ∧ echoIn.meet.posts = []
    ∧ echoIn.flag F.mbInCtl_STATE 1 = true ∧ echoIn.waiting 1 < 64
    ∧ (let q := parsePacket 1 (echoIn.inSlotBytes 1); firstFail (headerChecks echoIn q.1 q.2 (lengthBad q.1 q.2.params)) = none) := by decide +kernel
def replying : State := { hosted with pkts := { hosted.pkts with replies := [{ chan := 1, version := 256, opcode := 2, tag := 7, status := 0, inc := 0, params := [] }] } }
theorem witness_out_post : Inv replying ∧ replying.fwRunning = true ∧ replying.flag F.mbOutCtl_STATE 1 = false ∧ replying.flag F.mbBind_VALID 1 = true :=
  ⟨⟨by decide, by decide, by decide⟩, by decide, by decide, by decide⟩
theorem witness_out_consume : hosted.refusal (.host 0 false) (Reg.mbOutCtl.offset 1) true = none
    ∧ (hosted.setFld F.mbOutCtl_STATE 1 1).flag F.mbOutCtl_STATE 1 = true := by decide
theorem witness_doorbells : hosted.refusal (.host 0 false) ((h2dReg false).offset 0) true = none
    ∧ hosted.refusal (.host 0 false) ((d2hReg true).offset 0) true = none ∧ hosted.meet.sets = [] := by decide

/-! RegisterWritesAndAliases -/
theorem witness_write_plain : Inv hosted ∧ Reg.macAddrLo.offset 0 % 4 = 0 ∧ Reg.macAddrLo.offset 0 < 0x2000000
    ∧ hosted.regPresent .macAddrLo 0 = true ∧ hosted.inReset .macAddrLo 0 = false :=
  ⟨⟨by decide, by decide, by decide⟩, by decide, by decide, by decide, by decide⟩
theorem witness_write_place : placeAt (Reg.macAddrLo.offset 0) = .reg .macAddrLo 0 := by decide +kernel
theorem witness_alias : placeAt (Reg.clsIe.offset 0) = .reg .clsIe 0 ∧ Reg.clsIe.offset 0 % 4 = 0 ∧ hosted.regPresent .clsIe 0 = true
    ∧ hosted.inReset .clsIe 0 = false ∧ Reg.clsIe.desc.aliased = true := by decide +kernel
theorem witness_refused : up.refusal (.host 9 false) (judgedAt 0x100) true = some 2 := by decide

/-! WritesWithoutAStatedOutcome -/
theorem witness_gap : placeAt 0x10020 = .gap ∧ up.fuses.code = .f := by decide +kernel

/-! ReadsThatClear -/
theorem witness_rc : placeAt (Reg.fcRxCnt.offset 0) = .reg .fcRxCnt 0 ∧ Reg.fcRxCnt.offset 0 % 4 = 0 ∧ hosted.regPresent .fcRxCnt 0 = true
    ∧ hosted.inReset .fcRxCnt 0 = false ∧ Reg.fcRxCnt.isSumLo = false ∧ Reg.fcRxCnt.desc.rc = true := by decide +kernel
theorem witness_sum : placeAt (Reg.macRxOctLo.offset 0) = .reg .macRxOctLo 0 ∧ Reg.macRxOctLo.offset 0 % 4 = 0
    ∧ hosted.regPresent .macRxOctLo 0 = true ∧ hosted.inReset .macRxOctLo 0 = false ∧ Reg.macRxOctLo.isSumLo = true := by decide +kernel

/-! HostRingsAndInterrupts -/
theorem witness_tail : Inv rooted ∧ Table.wf (fun _ => ({} : RingSt)) rooted.host.rings = true
    ∧ rooted.refusal .cc ((ringTail true).offset 0) true = none ∧ rooted.tree.root = true
    ∧ ((3 : Word).toNat + 2 ^ 32 - (rooted.reg (ringHead true) 0).toNat) % 2 ^ 32 ≤ rooted.ringCount true 0
    ∧ rooted.ringCount true 0 < ((65537 : Word).toNat + 2 ^ 32 - (rooted.reg (ringHead true) 0).toNat) % 2 ^ 32 :=
  ⟨⟨by decide, by decide, by decide⟩, by decide, by decide, by decide, by decide, by decide⟩
def rxJob : RxJob := { fid := 0, ring := 0, idx := 0, n := 1, fcs := true, md := { iport := 3 }, bytes := some [1, 2] }
def receiving : State := { rooted with host := { rooted.host with jobs := [rxJob] } }
theorem witness_rx_write : receiving.tab.jobs = [] ∧ receiving.host.jobs = [rxJob]
    ∧ receiving.rxRefusal rxJob [4096] (if rxJob.fcs then [1, 2] else ([1, 2] : List Byte).take 0).length (receiving.rxBuf 0) = none := by decide +kernel
def sending : State := (rooted.setFld F.dmaTxCfg_EN 0 1).setReg .dmaTxTail 0 1
def oneDesc : TxDesc := { addr := 8192, blen := 60, first := true, last := true, data := List.replicate 60 0 }
theorem witness_tx_fetch : Inv sending ∧ sending.ringOn true 0 = true ∧ sending.host.bme = true ∧ sending.host.txLine < 256 * (sending.tick.slot + 1)
    ∧ sending.held32 .dmaTxTail .dmaTxHead 0 = 1 ∧ sending.dmaAdmits (sending.descAddr true 0 (sending.reg .dmaTxHead 0).toNat) 32 false true = true
    ∧ sending.dmaAdmits oneDesc.addr oneDesc.blen false true = true
    ∧ etherType (slice oneDesc.data 0 60 ++ fcsBytes (slice oneDesc.data 0 60)) ≠ 0x8808 :=
  ⟨⟨by decide, by decide, by decide⟩, by decide, by decide, by decide, by decide, by decide +kernel, by decide +kernel, by decide +kernel⟩
theorem witness_coalesce : ((rooted.setRing true 0 { done := 1 }).ring true 0).done ≠ 0
    ∧ 3125 * (rooted.setRing true 0 { done := 1 }).coalUs true 0 ≤ 2 * ((rooted.setRing true 0 { done := 1 }).tick.slot - 0) := by decide
def firing : State := (((rooted.setFld F.glbIntRoute_EN 0 1).setFld F.glbIntRoute_VECTOR 0 5).setFld F.glbStat_ACC 0 1).setReg .glbIe 0 0xFFFFFFFF
theorem witness_vector : Inv firing ∧ firing.regBit .glbIntFiredLo 0 5 = false ∧ firing.vectorOr 5 = true ∧ firing.host.msixOn = true
    ∧ firing.host.vecMask.testBit 5 = false ∧ ({ firing with host := {} } : State).vectorOr 5 = true ∧ ({ firing with host := {} } : State).host.msixOn = false :=
  ⟨⟨by decide, by decide, by decide⟩, by decide, by decide +kernel, by decide, by decide, by decide +kernel, by decide⟩
theorem witness_cons : Inv (up.setFld F.tsRingCtl_OWNER 0 1) ∧ (up.setFld F.tsRingCtl_OWNER 0 1).flag F.tsRingCtl_OWNER 0 = true
    ∧ ((up.setFld F.tsRingCtl_OWNER 0 1).fld F.tsRingProd_PROD 0 + 65536 - (0 : Word).toNat) % 65536 ≤ (up.setFld F.tsRingCtl_OWNER 0 1).ringLevel 0 :=
  ⟨⟨by decide, by decide, by decide⟩, by decide, by decide⟩
theorem witness_pcie : up.meet.posts = [] ∧ up.power.straps.testBit 0 = false ∧ Inv up := ⟨by decide, by decide, ⟨by decide, by decide, by decide⟩⟩

/-! TreeLinksDeliverInOrder -/
theorem witness_block_lock : Table.wf (fun _ => ({} : RlPort)) rooted.tree.ports = true ∧ (rooted.rl 1).lock = false := by decide
theorem witness_hello_timer : Table.wf (fun _ => ({} : RlPort)) (onPort { lock := true, dirty := true }).tree.ports = true
    ∧ ((onPort { lock := true, dirty := true }).rl 1).lock = true ∧ ((onPort { lock := true, dirty := true }).rl 1).dirty = true := by decide
theorem witness_packet : Inv (onPort { lock := true }) ∧ (onPort { lock := true }).rlActive 1 = true ∧ ((onPort { lock := true }).rl 1).naking = false
    ∧ ((onPort { lock := true }).rl 1).rxSeq = 0 ∧ (onPort { lock := true }).node? = some 0 ∧ seqUpTo (seqPrev 0) 5 = false :=
  ⟨⟨by decide, by decide, by decide⟩, by decide, by decide, by decide, by decide, by decide⟩
theorem witness_ack_timer : ((onPort { lock := true, owed := 1 }).rl 1).owed ≠ 0
    ∧ 3125 ≤ 2 * ((onPort { lock := true, owed := 1 }).tick.slot - ((onPort { lock := true, owed := 1 }).rl 1).owedAt) := by decide
def unacked (n : Nat) : RlPort := { lock := true, unacked := [{ typ := 0x11 }], replays := n }
theorem witness_replay : ((onPort (unacked 16)).rl 1).unacked = [{ typ := 0x11 }] ∧ ((onPort (unacked 16)).rl 1).replays = 16
    ∧ ((onPort (unacked 3)).rl 1).sentAt + 31250 ≤ (onPort (unacked 3)).tick.slot := by decide
theorem witness_link_down : (onPort { lock := true }).rlState 1 = 8 ∧ (onPort { lock := true }).flag F.rlRoute_VALID 9 = true
    ∧ (onPort { lock := true }).fld F.rlRoute_PORT 9 = 1 := by decide

/-! TreeRolesAndRemoteAccess -/
def offer : Hello := { vmin := 256, vmax := 256, hops := 0, flags := 5, port := 0, node := 0 }
theorem witness_hello : Table.wf (fun _ => ({} : RlPort)) ({ up with tree := { up.tree with ports := [(1, { lock := true })] } } : State).tree.ports = true
    ∧ (({ up with tree := { up.tree with ports := [(1, { lock := true })] } } : State).rl 1).lock = true ∧ up.tree.root = false ∧ up.tree.parent = none
    ∧ offer.flags.testBit 2 = true := by decide
theorem witness_enumerate : Inv (onPort { lock := true }) ∧ (onPort { lock := true }).tree.root = true ∧ (onPort { lock := true }).fwRunning = true
    ∧ (onPort { lock := true }).rlState 1 = 8 ∧ (onPort { lock := true }).numberFor [1] = some 1 :=
  ⟨⟨by decide, by decide, by decide⟩, by decide, by decide, by decide, by decide⟩
theorem witness_remote : (onPort { lock := true }).routable 9 = true ∧ (onPort { lock := true }).portTo 9 = some 1 ∧ (onPort { lock := true }).rlActive 1 = true
    ∧ ((onPort { lock := true }).rl 1).unacked = [] ∧ (onPort { lock := true }).tree.reads = [] ∧ (onPort { lock := true }).routable 8 = false := by decide
def readOut : RemoteRead := { node := 9, offset := 0, n := 1, sid := 0, tag := some 0 }
def readingTree : State := { rooted with tree := { rooted.tree with reads := [readOut] } }
theorem witness_read_timeout : Inv readingTree ∧ readingTree.tree.reads = [readOut] ∧ readOut.at_ + 156250 ≤ readingTree.tick.slot :=
  ⟨⟨by decide, by decide, by decide⟩, by decide, by decide⟩

/-! GeneralPacketsAnswer -/
def helloPk : Packet := pk [(.u 16, 256), (.u 16, 300)]
theorem witness_hello_packet : Accepts 1 helloPk up ∧ (readParams 1 helloPk.params).bad = false
    ∧ (readParams 1 helloPk.params).n 0 ≤ (readParams 1 helloPk.params).n 1
    ∧ max ((readParams 1 helloPk.params).n 0) up.boot.protoMin ≤ min ((readParams 1 helloPk.params).n 1) up.boot.protoMax :=
  ⟨⟨by decide, by decide, by decide, by decide, by decide, by decide⟩, by decide, by decide, by decide⟩
theorem witness_echo_packet : Accepts 2 { chan := 0, tag := 1, params := [1, 2, 3, 4] } up :=
  ⟨by decide, by decide, by decide, by decide, by decide, by decide⟩
def logPk : Packet := pk [(.u 64, 0), (.u 32, 2), (.dma, ref 128 1)]
theorem witness_log_packet : Accepts 3 logPk rooted ∧ (readParams 3 logPk.params).bad = false ∧ (readParams 3 logPk.params).n 1 = 2
    ∧ firstFail (dmaChecks rooted logPk ((readParams 3 logPk.params).n 2) true 128) = none :=
  ⟨⟨by decide, by decide, by decide, by decide, by decide, by decide +kernel⟩, by decide, by decide, by decide +kernel⟩
def schedPk (mask : Nat) : Packet := pk [(.wide 80, packNet (2 ^ 31)), (.u 8, 1), (.u 64, mask)]
theorem witness_schedule_packet : Accepts 4 (schedPk 0) up ∧ schedBad (readParams 4 (schedPk 0).params) = false
    ∧ (schedAct (readParams 4 (schedPk 0).params)).2 = 0 ∧ firstFail (up.schedChecks (readParams 4 (schedPk 0).params)) = none
    ∧ up.netNs + 2 ^ 30 ≤ unpackNet ((readParams 4 (schedPk 0).params).n 0) :=
  ⟨⟨by decide, by decide, by decide, by decide, by decide, by decide +kernel⟩, by decide +kernel, by decide +kernel, by decide +kernel, by decide +kernel⟩
def bound8 (s : State) : State := { s with tree := { s.tree with bound := [(8, [1, 1]), (9, [1])] } }
theorem witness_schedule_fan : Accepts 4 (schedPk 256) (bound8 (onPort { lock := true })) ∧ (bound8 (onPort { lock := true })).tree.root = true
    ∧ (schedAct (readParams 4 (schedPk 256).params)).2 = 2 ^ 8 ∧ OTable.has (bound8 (onPort { lock := true })).tree.bound 8 = true
    ∧ (bound8 (onPort { lock := true })).routable 8 = false ∧ (bound8 (onPort { lock := true })).routable 9 = true :=
  ⟨⟨by decide, by decide, by decide, by decide, by decide, by decide +kernel⟩, by decide, by decide +kernel, by decide, by decide, by decide⟩
def heldAt : State := { up with tick := { up.tick with held := [{ handle := 9, time := 2 ^ 31, acts := [{ action := 1 }], entries := [3] }] } }
def cancelPk : Packet := pk [(.u 16, 9)]
theorem witness_cancel_packet : Inv heldAt ∧ Accepts 5 cancelPk heldAt ∧ (readParams 5 cancelPk.params).bad = false
    ∧ (heldAt.tick.held.find? fun h => h.handle = (readParams 5 cancelPk.params).n 0).isSome = true ∧ heldAt.dueEntries.contains 3 = false :=
  ⟨⟨by decide, by decide, by decide⟩, ⟨by decide, by decide, by decide, by decide, by decide, by decide⟩, by decide, by decide, by decide⟩
def listPk (n : Nat) : Packet := pk ([(.u 16, 0), (.u 16, n)] ++ if n ≤ 28 then [] else [(.dma, ref 1024 1)])
theorem witness_list_packet : Accepts 6 (listPk 28) heldAt ∧ (readParams 6 (listPk 28).params).bad = false
    ∧ (readParams 6 (listPk 28).params).n 1 = 28 :=
  ⟨⟨by decide, by decide, by decide, by decide, by decide, by decide⟩, by decide, by decide⟩
theorem witness_list_far : Accepts 6 (listPk 29) rooted ∧ (readParams 6 (listPk 29).params).bad = false
    ∧ firstFail (dmaChecks rooted (listPk 29) ((readParams 6 (listPk 29).params).n 2) true 464) = none ∧ 8 < (listPk 29).params.length :=
  ⟨⟨by decide, by decide, by decide, by decide, by decide, by decide +kernel⟩, by decide, by decide +kernel, by decide +kernel⟩
theorem witness_snapshot_packet : Inv up ∧ Accepts 0x0A03 (pk []) up ∧ up.cnt.lastSnapSlot ≠ some up.tick.slot ∧ up.samp.pendEpochs = [] :=
  ⟨⟨by decide, by decide, by decide⟩, ⟨by decide, by decide, by decide, by decide, by decide, by decide⟩, by decide, by decide⟩
def cntPk : Packet := pk [(.u 8, 0), (.u 32, 128), (.u 32, 2), (.flag, 1), (.dma, ref 16 1)]
theorem witness_counter_packet : Accepts 0x0A04 cntPk rooted ∧ (readParams 0x0A04 cntPk.params).bad = false
    ∧ (readParams 0x0A04 cntPk.params).n 1 + 2 ≤ arrSize 0 ∧ rooted.entryPresent 0 128 = true
    ∧ firstFail (dmaChecks rooted cntPk ((readParams 0x0A04 cntPk.params).n 4) true 16) = none :=
  ⟨⟨by decide, by decide, by decide, by decide, by decide, by decide +kernel⟩, by decide, by decide, by decide, by decide +kernel⟩

/-! PortPacketsAnswer -/
def cfgPk (mode : Nat) : Packet := pk [(.u 10, 0), (.u 8, mode), (.flag, 1), (.u 16, 1518), (.mac, 0x0200A1B2C3D4), (.flag, 0)]
def stocked : State := { up with lanes := { up.lanes with cemond := [(0, List.replicate 32 0)] } }
theorem witness_port_config : Inv stocked ∧ Accepts 0x0100 (cfgPk 1) stocked ∧ (readParams 0x0100 (cfgPk 1).params).bad = false
    ∧ (readParams 0x0100 (cfgPk 1).params).n 1 = 1 ∧ (readParams 0x0100 (cfgPk 1).params).n 3 = 1518 ∧ stocked.hasPort 0 = true
    ∧ (modeRow 1).1 = 1 ∧ stocked.hasLane 0 = true ∧ stocked.ownerOfLane 0 = none ∧ (stocked.record? 0 (modeRow 1).2.1).isSome = true
    ∧ stocked.flag F.macPortCfg_EN 0 = false :=
  ⟨⟨by decide, by decide, by decide⟩, ⟨by decide, by decide, by decide, by decide, by decide, by decide⟩, by decide, by decide, by decide, by decide,
    by decide, by decide, by decide, by decide, by decide⟩
theorem witness_port_config_limits : firstFail (limitChecks (begun 0x0100 (cfgPk 1) stocked)
    ((begun 0x0100 (cfgPk 1) stocked).portConfig 0 1 true 1518 0x0200A1B2C3D4 false) 0) = none := by decide +kernel
def modePk (t : Nat) : Packet := pk [(.u 10, 515), (.u 12, 0x280), (.u 12, 0x040), (.u 16, 0x100), (.u 16, 0x200), (.u 8, 0), (.wide 80, packNet t)]
def modeArgs (t : Nat) : Args := readParams 0x0101 (modePk t).params
theorem witness_mode_set : Inv up ∧ Accepts 0x0101 (modePk 0) up ∧ (modeArgs 0).bad = false ∧ up.hasPort 515 = true ∧ up.hidden 515 = false
    ∧ (modeArgs 0).n 1 &&& (modeArgs 0).n 2 = 0 ∧ (modeArgs 0).n 3 &&& (modeArgs 0).n 4 = 0 ∧ ((modeArgs 0).n 2).testBit 2 = false
    ∧ (modeArgs 0).n 1 &&& (0xFFF ^^^ modeBits 515) = 0 ∧ (modeArgs 0).n 6 = 0 ∧ ¬ (modeArgs 0).n 0 < 512 :=
  ⟨⟨by decide, by decide, by decide⟩, ⟨by decide, by decide, by decide, by decide, by decide, by decide +kernel⟩, by decide +kernel, by decide, by decide,
    by decide +kernel, by decide +kernel, by decide +kernel, by decide +kernel, by decide +kernel, by decide +kernel⟩
theorem witness_mode_later : Accepts 0x0101 (modePk (2 ^ 31)) up ∧ (modeArgs (2 ^ 31)).n 6 ≠ 0
    ∧ up.netNs + 2 ^ 30 ≤ unpackNet ((modeArgs (2 ^ 31)).n 6) ∧ unpackNet ((modeArgs (2 ^ 31)).n 6) ≤ 86400 * 1000000000 + up.netNs :=
  ⟨⟨by decide, by decide, by decide, by decide, by decide, by decide +kernel⟩, by decide +kernel, by decide +kernel, by decide +kernel⟩
def portPk : Packet := pk [(.u 10, 0)]
theorem witness_port_reads : Accepts 0x0102 portPk up ∧ Accepts 0x0103 portPk up ∧ (readParams 0x0102 portPk.params).bad = false
    ∧ (readParams 0x0103 portPk.params).n 0 = 0 :=
  ⟨⟨by decide, by decide, by decide, by decide, by decide, by decide⟩, ⟨by decide, by decide, by decide, by decide, by decide, by decide⟩, by decide, by decide⟩
def wakePk : Packet := pk [(.u 10, 0), (.u 8, 7), (.flag, 1), (.u 8, 128), (.wide 128, 2 ^ 127), (.u 16, 5)]
theorem witness_wake_set : Accepts 0x0104 wakePk up ∧ (readParams 0x0104 wakePk.params).bad = false
    ∧ (readParams 0x0104 wakePk.params).n 1 = 7 ∧ (readParams 0x0104 wakePk.params).n 3 = 128
    ∧ (readParams 0x0104 wakePk.params).n 4 < 2 ^ 128 ∧ (readParams 0x0104 wakePk.params).n 4 ≠ 0 :=
  ⟨⟨by decide, by decide, by decide, by decide, by decide, by decide +kernel⟩, by decide +kernel, by decide +kernel, by decide +kernel, by decide +kernel, by decide +kernel⟩

/-! IngressPacketsAnswer -/
def clsPk (w kt : Nat) : Packet :=
  pk [(.u 4, 15), (.u 16, 32766), (.u 2, w), (.wide (160 * w), 2 ^ (160 * w - 1) + kt), (.wide (160 * w), 15), (.u 64, 515 * 256), (.flag, 1)]
def clsArgs (w kt : Nat) : Args := readParams 0x0200 (clsPk w kt).params
theorem witness_cls_write : Table.wf (fun _ => ({} : ClsEnt)) up.tab.cls = true ∧ Accepts 0x0200 (clsPk 1 1) up ∧ (clsArgs 1 1).bad = false
    ∧ up.hasQuad 3 = true ∧ (clsArgs 1 1).n 1 = 32766 ∧ (clsArgs 1 1).n 2 = 1 ∧ (clsArgs 1 1).n 3 % 16 < 2 ∧ (clsArgs 1 1).n 5 < 2 ^ 54
    ∧ actField ((clsArgs 1 1).n 5) 8 10 = 515 ∧ up.hasPort 515 = true :=
  ⟨by decide, ⟨by decide, by decide, by decide, by decide, by decide, by decide +kernel⟩, by decide +kernel, by decide, by decide +kernel, by decide +kernel,
    by decide +kernel, by decide +kernel, by decide +kernel, by decide⟩
theorem witness_cls_write_pair : Accepts 0x0200 (clsPk 2 2) up ∧ (clsArgs 2 2).bad = false ∧ (clsArgs 2 2).n 2 = 2
    ∧ (clsArgs 2 2).n 1 % 2 = 0 ∧ (clsArgs 2 2).n 3 % 16 = 2 :=
  ⟨⟨by decide, by decide, by decide, by decide, by decide, by decide +kernel⟩, by decide +kernel, by decide +kernel, by decide +kernel, by decide +kernel⟩
theorem witness_cls_read : Accepts 0x0201 (pk [(.u 2, 3), (.u 16, 32766)]) up ∧ (readParams 0x0201 (pk [(.u 2, 3), (.u 16, 32766)]).params).bad = false
    ∧ (up.clsAt 3 32766).pair = false ∧ ((up.clsWrite 3 32766 2 2 0 0 true).clsAt 3 32766).pair = true :=
  ⟨⟨by decide, by decide, by decide, by decide, by decide, by decide⟩, by decide, by decide, by decide +kernel⟩
def invPk : Packet := pk [(.u 4, 9), (.u 16, 5), (.u 16, 32767)]
theorem witness_cls_invalidate : Accepts 0x0202 invPk up ∧ (readParams 0x0202 invPk.params).bad = false
    ∧ (readParams 0x0202 invPk.params).n 1 ≤ (readParams 0x0202 invPk.params).n 2 ∧ (readParams 0x0202 invPk.params).n 2 < 32768 :=
  ⟨⟨by decide, by decide, by decide, by decide, by decide, by decide⟩, by decide, by decide, by decide⟩
def polPk : Packet := pk [(.u 4, 1), (.u 16, 65535), (.u 32, 100), (.u 32, 2 ^ 24), (.u 32, 2 ^ 24 - 1), (.u 32, 3000), (.flag, 1), (.s 7, 0xFC),
  (.u 2, 1), (.u 6, 10), (.flag, 1), (.flag, 1)]
theorem witness_pol_set : Table.wf (fun _ => ({} : Policer)) up.tab.pol = true ∧ Accepts 0x0203 polPk up
    ∧ (readParams 0x0203 polPk.params).bad = false ∧ (readParams 0x0203 polPk.params).n 2 ≤ (readParams 0x0203 polPk.params).n 3
    ∧ (readParams 0x0203 polPk.params).n 3 ≤ 2 ^ 24 ∧ (readParams 0x0203 polPk.params).n 4 < 2 ^ 24
    ∧ (readParams 0x0203 polPk.params).n 5 < 2 ^ 24 ∧ (readParams 0x0203 polPk.params).f 11 = true :=
  ⟨by decide, ⟨by decide, by decide, by decide, by decide, by decide, by decide +kernel⟩, by decide +kernel, by decide +kernel, by decide +kernel,
    by decide +kernel, by decide +kernel, by decide +kernel⟩
theorem witness_pol_get : Accepts 0x0204 (pk [(.u 2, 3), (.u 16, 65535)]) up ∧ (readParams 0x0204 (pk [(.u 2, 3), (.u 16, 65535)]).params).bad = false :=
  ⟨⟨by decide, by decide, by decide, by decide, by decide, by decide⟩, by decide⟩
def ingPk : Packet := pk [(.u 10, 514), (.u 32, 0x1004FFE), (.u 32, 0x1FF)]
theorem witness_ing_set : Inv up ∧ Accepts 0x0205 ingPk up ∧ (readParams 0x0205 ingPk.params).bad = false ∧ up.hasPort 514 = true
    ∧ (readParams 0x0205 ingPk.params).n 1 % 4096 = 4094 ∧ (readParams 0x0205 ingPk.params).n 1 / 65536 % 4 ≠ 3
    ∧ (readParams 0x0205 ingPk.params).n 1 < 2 ^ 25 ∧ (readParams 0x0205 ingPk.params).n 2 < 2 ^ 9 ∧ up.hidden 514 = false :=
  ⟨⟨by decide, by decide, by decide⟩, ⟨by decide, by decide, by decide, by decide, by decide, by decide⟩, by decide, by decide, by decide, by decide,
    by decide, by decide, by decide⟩
theorem witness_ing_get : Accepts 0x0206 (pk [(.u 10, 515)]) up ∧ (readParams 0x0206 (pk [(.u 10, 515)]).params).n 0 = 515 :=
  ⟨⟨by decide, by decide, by decide, by decide, by decide, by decide⟩, by decide⟩

/-! AddressEntryPacketsAnswer -/
def insPk (dest static repl : Nat) : Packet :=
  pk [(.u 4, 5), (.u 12, 1), (.mac, 2), (.flag, static), (.flag, 0), (.u 16, dest), (.flag, 0), (.flag, repl)]
theorem witness_fdb_insert : Table.sortedFrom 0 up.tab.addr = true ∧ Accepts 0x0300 (insPk 515 1 0) up
    ∧ (readParams 0x0300 (insPk 515 1 0).params).bad = false ∧ up.quadsOf 5 = [0, 2] ∧ (readParams 0x0300 (insPk 515 1 0).params).n 2 = 2
    ∧ (readParams 0x0300 (insPk 515 1 0).params).n 5 = 515 ∧ (readParams 0x0300 (insPk 515 1 0).params).n 0 = 5 :=
  ⟨by decide, ⟨by decide, by decide, by decide, by decide, by decide, by decide⟩, by decide, by decide, by decide, by decide, by decide⟩
theorem witness_fdb_insert_place : up.lookupAddr 2 (addrKey 1 2) = none
    ∧ ((up.candidates 2 (addrKey 1 2)).find? fun pos => (up.addrAt 2 pos).isNone) = some (up.bucketPos 2 0 (addrKey 1 2)) := by decide +kernel
def both : State := (up.putAddr 0 (up.bucketPos 0 0 (addrKey 1 2)) { mac := 2, fid := 1, dest := 4 }).putAddr 2 (up.bucketPos 2 0 (addrKey 1 2))
  { mac := 2, fid := 1, dest := 4 }
theorem witness_fdb_exists : (up.quadsOf 5).all (fun q => (both.lookupAddr q (addrKey 1 2)).isSome) = true
    ∧ Table.sortedFrom 0 both.tab.addr = true ∧ (both.lookupAddr 0 (addrKey 1 2)).any (fun r => r.2.ofType 1) = true := by decide +kernel
def delPk : Packet := pk [(.u 4, 5), (.u 12, 1), (.mac, 2), (.u 2, 1)]
theorem witness_fdb_delete : Accepts 0x0301 delPk both ∧ (readParams 0x0301 delPk.params).bad = false ∧ (readParams 0x0301 delPk.params).n 3 = 1 :=
  ⟨⟨by decide, by decide, by decide, by decide, by decide, by decide⟩, by decide, by decide⟩
def findPk : Packet := pk [(.u 4, 5), (.u 12, 1), (.mac, 2)]
theorem witness_fdb_search : Accepts 0x0302 findPk both ∧ (readParams 0x0302 findPk.params).bad = false :=
  ⟨⟨by decide, by decide, by decide, by decide, by decide, by decide⟩, by decide⟩
def nextPk (n : Nat) : Packet := pk ([(.u 2, 3), (.flag, 1), (.u 12, 0), (.mac, 0), (.flag, 1), (.u 10, 515), (.flag, 0), (.u 12, 0), (.u 2, 0), (.u 16, n)]
  ++ if n ≤ 28 then [] else [(.dma, ref (16 * n) 1)])
theorem witness_fdb_next : Accepts 0x0303 (nextPk 4096) rooted ∧ (readParams 0x0303 (nextPk 4096).params).bad = false
    ∧ (readParams 0x0303 (nextPk 4096).params).n 9 = 4096
    ∧ firstFail (dmaChecks rooted (nextPk 4096) ((readParams 0x0303 (nextPk 4096).params).n 10) true 65536) = none :=
  ⟨⟨by decide, by decide, by decide, by decide, by decide, by decide +kernel⟩, by decide +kernel, by decide +kernel, by decide +kernel⟩
theorem witness_fdb_next_inline : Accepts 0x0303 (nextPk 28) up ∧ (readParams 0x0303 (nextPk 28).params).bad = false
    ∧ (readParams 0x0303 (nextPk 28).params).n 9 = 28 :=
  ⟨⟨by decide, by decide, by decide, by decide, by decide, by decide +kernel⟩, by decide +kernel, by decide +kernel⟩
def flushPk : Packet := pk [(.u 4, 15), (.u 10, 0), (.flag, 1), (.flag, 0), (.u 12, 0), (.u 2, 2)]
theorem witness_fdb_flush : Accepts 0x0304 flushPk up ∧ (readParams 0x0304 flushPk.params).bad = false
    ∧ (readParams 0x0304 flushPk.params).n 5 = 2 ∧ up.quadsOf 15 = [0, 1, 2, 3] :=
  ⟨⟨by decide, by decide, by decide, by decide, by decide, by decide⟩, by decide, by decide, by decide⟩

/-! AddressSettingsPacketsAnswer -/
def agePk : Packet := pk [(.flag, 1), (.u 32, 4), (.flag, 1)]
theorem witness_age_set : Inv up ∧ Accepts 0x0305 agePk up ∧ (readParams 0x0305 agePk.params).bad = false ∧ (readParams 0x0305 agePk.params).n 1 = 4 :=
  ⟨⟨by decide, by decide, by decide⟩, ⟨by decide, by decide, by decide, by decide, by decide, by decide⟩, by decide, by decide⟩
def learnPk : Packet := pk [(.u 10, 515), (.u 2, 2), (.u 32, 1048576)]
theorem witness_learn_set : Accepts 0x0306 learnPk up ∧ (readParams 0x0306 learnPk.params).bad = false
    ∧ (readParams 0x0306 learnPk.params).n 1 = 2 ∧ (readParams 0x0306 learnPk.params).n 2 = 1048576 ∧ up.hasPort 515 = true ∧ up.hidden 515 = false :=
  ⟨⟨by decide, by decide, by decide, by decide, by decide, by decide⟩, by decide, by decide, by decide, by decide, by decide⟩
def notifyPk : Packet := pk [(.flag, 1), (.u 64, 4096), (.u 32, 1048576), (.u 6, 63)]
theorem witness_notify_set : Accepts 0x0307 notifyPk rooted ∧ (readParams 0x0307 notifyPk.params).bad = false
    ∧ rooted.dmaAdmits ((readParams 0x0307 notifyPk.params).n 1) (64 + 16 * (readParams 0x0307 notifyPk.params).n 2) true (notifyPk.chan < 4) = true
    ∧ popCount 32 ((readParams 0x0307 notifyPk.params).n 2) = 1 ∧ (readParams 0x0307 notifyPk.params).n 1 % 4096 = 0 :=
  ⟨⟨by decide, by decide, by decide, by decide, by decide, by decide +kernel⟩, by decide +kernel, by decide +kernel, by decide +kernel, by decide +kernel⟩
def vlanPk : Packet := pk [(.u 12, 4094), (.flag, 1), (.u 12, 7), (.flag, 1), (.u 16, 16383), (.u 16, 0), (.wide 516, 3)]
theorem witness_vlan_set : Table.wf (fun _ => ({} : VlanEnt)) up.tab.vlan = true ∧ Accepts 0x0308 vlanPk up
    ∧ (readParams 0x0308 vlanPk.params).bad = false ∧ (readParams 0x0308 vlanPk.params).n 0 = 4094
    ∧ (readParams 0x0308 vlanPk.params).n 4 ≤ 16383 :=
  ⟨by decide, ⟨by decide, by decide, by decide, by decide, by decide, by decide +kernel⟩, by decide +kernel, by decide +kernel, by decide +kernel⟩
theorem witness_vlan_get : Accepts 0x0309 (pk [(.u 12, 1)]) up ∧ (readParams 0x0309 (pk [(.u 12, 1)]).params).n 0 = 1 :=
  ⟨⟨by decide, by decide, by decide, by decide, by decide, by decide⟩, by decide⟩

/-! PrefixPacketsAnswer -/
def pinsPk : Packet := pk [(.u 4, 1), (.u 8, 0), (.u 12, 4095), (.ip4, 0x0A000000), (.u 8, 8), (.flag, 1), (.u 32, 4095), (.flag, 0)]
def pinsArgs : Args := readParams 0x0400 pinsPk.params
def e10 : PfxEnt := mkPfx false 4095 0x0A000000 8 true 4095
theorem witness_pfx_insert : Accepts 0x0400 pinsPk up ∧ pinsArgs.bad = false ∧ up.quadsOf (pinsArgs.n 0) = [0]
    ∧ pfxBad (pinsArgs.n 1) (pinsArgs.n 3) (pinsArgs.n 4) = false ∧ pinsArgs.f 5 = true ∧ pinsArgs.n 6 < 4096 :=
  ⟨⟨by decide, by decide, by decide, by decide, by decide, by decide +kernel⟩, by decide +kernel, by decide +kernel, by decide +kernel, by decide +kernel,
    by decide +kernel⟩
theorem witness_pfx_room : (up.pfxBanks 0 false 4095 0x0A000000 8).all (fun b =>
    ((up.bankRecord 0 b).find e10).isNone && decide (e10.room ≤ (up.bankRecord 0 b).free)) = true := by decide +kernel
def with10 : State := up.setBank 0 ((up.pfxBanks 0 false 4095 0x0A000000 8).headD 0) { singles := [e10] }
theorem witness_pfx_held : ((with10.bankRecord 0 ((up.pfxBanks 0 false 4095 0x0A000000 8).headD 0)).find e10).isSome = true
    ∧ (with10.pfxBanks 0 false 4095 0x0A000000 8).contains ((up.pfxBanks 0 false 4095 0x0A000000 8).headD 0) = true
    ∧ Accepts 0x0400 pinsPk with10 ∧ pinsArgs.f 7 = false :=
  ⟨by decide +kernel, by decide +kernel, ⟨by decide, by decide, by decide, by decide, by decide, by decide +kernel⟩, by decide +kernel⟩
def pkeyPk : Packet := pk [(.u 4, 1), (.u 8, 0), (.u 12, 4095), (.ip4, 0x0A000000), (.u 8, 8)]
theorem witness_pfx_key : Accepts 0x0401 pkeyPk with10 ∧ Accepts 0x0402 pkeyPk with10 ∧ (readParams 0x0401 pkeyPk.params).bad = false
    ∧ (readParams 0x0402 pkeyPk.params).bad = false :=
  ⟨⟨by decide, by decide, by decide, by decide, by decide, by decide +kernel⟩, ⟨by decide, by decide, by decide, by decide, by decide, by decide +kernel⟩,
    by decide +kernel, by decide +kernel⟩
def plookPk : Packet := pk [(.u 2, 0), (.u 8, 0), (.u 12, 4095), (.ip4, 0x0A010203)]
theorem witness_pfx_lookup : Accepts 0x0403 plookPk with10 ∧ (readParams 0x0403 plookPk.params).bad = false
    ∧ (with10.pfxSearch 0 false 4095 0x0A010203).isSome = true ∧ up.pfxSearch 0 false 4095 0x0A010203 = none :=
  ⟨⟨by decide, by decide, by decide, by decide, by decide, by decide +kernel⟩, by decide +kernel, by decide +kernel, by decide +kernel⟩
def pnextPk (n : Nat) : Packet := pk ([(.u 2, 0), (.flag, 1), (.u 8, 0), (.u 12, 0), (.ip4, 0), (.u 8, 0), (.flag, 0), (.u 12, 0), (.u 16, n)]
  ++ if n ≤ 28 then [] else [(.dma, ref (32 * n) 1)])
theorem witness_pfx_next : Accepts 0x0404 (pnextPk 28) with10 ∧ (readParams 0x0404 (pnextPk 28).params).bad = false
    ∧ (readParams 0x0404 (pnextPk 28).params).n 8 = 28 :=
  ⟨⟨by decide, by decide, by decide, by decide, by decide, by decide +kernel⟩, by decide +kernel, by decide +kernel⟩
theorem witness_pfx_next_far : Accepts 0x0404 (pnextPk 29) rooted ∧ (readParams 0x0404 (pnextPk 29).params).bad = false
    ∧ firstFail (dmaChecks rooted (pnextPk 29) ((readParams 0x0404 (pnextPk 29).params).n 9) true (32 * 29)) = none :=
  ⟨⟨by decide, by decide, by decide, by decide, by decide, by decide +kernel⟩, by decide +kernel, by decide +kernel⟩
def preadPk : Packet := pk [(.u 2, 0), (.u 8, 255), (.u 10, 1023)]
theorem witness_pfx_read : Accepts 0x0405 preadPk with10 ∧ (readParams 0x0405 preadPk.params).n 2 = 1023 ∧ (up.bank 0 255).at? 1023 = none
    ∧ ((with10.bank 0 ((up.pfxBanks 0 false 4095 0x0A000000 8).headD 0)).at? 1023).isSome = true :=
  ⟨⟨by decide, by decide, by decide, by decide, by decide, by decide +kernel⟩, by decide +kernel, by decide +kernel, by decide +kernel⟩
def pselPk : Packet := pk [(.u 8, 0), (.u 8, 24), (.u 8, 8), (.u 8, 64)]
theorem witness_pfx_sel : Inv up ∧ Accepts 0x0406 pselPk up ∧ (readParams 0x0406 pselPk.params).bad = false
    ∧ (readParams 0x0406 pselPk.params).n 1 + (8 - (readParams 0x0406 pselPk.params).n 0) = 32
    ∧ (readParams 0x0406 pselPk.params).n 3 + (8 - (readParams 0x0406 pselPk.params).n 2) = 64 ∧ up.quads.any up.pfxHolds = false :=
  ⟨⟨by decide, by decide, by decide⟩, ⟨by decide, by decide, by decide, by decide, by decide, by decide⟩, by decide, by decide, by decide, by decide⟩

/-! RoutingPacketsAnswer -/
def nhPk : Packet := pk [(.u 4, 6), (.u 32, 65535), (.u 2, 1), (.u 10, 515), (.u 12, 4095), (.mac, 5)]
theorem witness_nh_set : Table.wf (fun _ => ({} : NextHop)) up.tab.nh = true ∧ Accepts 0x0407 nhPk up ∧ (readParams 0x0407 nhPk.params).bad = false
    ∧ (readParams 0x0407 nhPk.params).n 1 = 65535 ∧ (readParams 0x0407 nhPk.params).n 3 = 515 ∧ up.hasPort 515 = true ∧ up.quadsOf 6 = [1, 2] :=
  ⟨by decide, ⟨by decide, by decide, by decide, by decide, by decide, by decide⟩, by decide, by decide, by decide, by decide, by decide⟩
def getPk : Packet := pk [(.u 2, 3), (.u 32, 4095)]
theorem witness_nh_get : Accepts 0x0408 getPk up ∧ Accepts 0x040B getPk up ∧ (readParams 0x0408 getPk.params).n 1 = 4095
    ∧ (readParams 0x040B getPk.params).n 1 = 4095 ∧ (readParams 0x0408 getPk.params).bad = false ∧ (readParams 0x040B getPk.params).bad = false :=
  ⟨⟨by decide, by decide, by decide, by decide, by decide, by decide⟩, ⟨by decide, by decide, by decide, by decide, by decide, by decide⟩, by decide, by decide,
    by decide, by decide⟩
def grpPk : Packet := pk [(.u 4, 1), (.u 32, 4095), (.u 16, 2), (.u 32, 65535), (.u 32, 7)]
theorem witness_ecmp_set : Accepts 0x0409 grpPk up ∧ (readParams 0x0409 grpPk.params).bad = false
    ∧ ecmpMembers (readParams 0x0409 grpPk.params) grpPk = [65535, 7] ∧ up.freeRange 0 2 = some 0
    ∧ Table.wf (fun _ => ({} : EcmpGroup)) up.tab.groups = true ∧ Table.wf (fun _ => 0) up.tab.members = true :=
  ⟨⟨by decide, by decide, by decide, by decide, by decide, by decide +kernel⟩, by decide +kernel, by decide +kernel, by decide, by decide, by decide⟩
def farPk : Packet := { pk [(.u 4, 1), (.u 32, 4095), (.u 16, 62), (.dma, ref 248 0)] with dma := List.replicate 248 1 }
theorem witness_ecmp_far : Accepts 0x0409 farPk rooted ∧ (readParams 0x0409 farPk.params).bad = false ∧ (readParams 0x0409 farPk.params).n 2 = 62
    ∧ firstFail (dmaChecks rooted farPk ((readParams 0x0409 farPk.params).n 3) false 248) = none :=
  ⟨⟨by decide, by decide, by decide, by decide, by decide, by decide +kernel⟩, by decide +kernel, by decide +kernel, by decide +kernel⟩
theorem witness_ecmp_full : Accepts 0x0409 grpPk { up with tab := { up.tab with ranges := [{ quad := 0, base := 0, size := 65536 }] } }
    ∧ ({ up with tab := { up.tab with ranges := [{ quad := 0, base := 0, size := 65536 }] } } : State).freeRange 0 2 = none :=
  ⟨⟨by decide, by decide, by decide, by decide, by decide, by decide +kernel⟩, by decide⟩
def memPk : Packet := pk [(.u 4, 1), (.u 32, 3), (.u 16, 1), (.u 32, 65535)]
def grouped : State := { up with tab := { up.tab with groups := [(3, { base := 4, size := 2 })] } }
theorem witness_ecmp_member : Accepts 0x040A memPk grouped ∧ (readParams 0x040A memPk.params).bad = false
    ∧ (readParams 0x040A memPk.params).n 2 < (grouped.groupAt 0 3).size ∧ (grouped.groupAt 0 3).base + (grouped.groupAt 0 3).size ≤ 65536 :=
  ⟨⟨by decide, by decide, by decide, by decide, by decide, by decide⟩, by decide, by decide, by decide⟩
theorem witness_ecmp_hash : Inv up ∧ Accepts 0x040C (pk [(.u 32, 9), (.u 6, 63)]) up ∧ (readParams 0x040C (pk [(.u 32, 9), (.u 6, 63)]).params).bad = false :=
  ⟨⟨by decide, by decide, by decide⟩, ⟨by decide, by decide, by decide, by decide, by decide, by decide⟩, by decide⟩
def rifPk : Packet := pk [(.u 12, 4095), (.flag, 1), (.u 12, 2), (.mac, 9), (.flag, 1), (.flag, 1), (.u 14, 10222), (.flag, 0), (.u 12, 4094)]
theorem witness_rif_set : Table.wf (fun _ => ({} : Rif)) up.tab.rif = true ∧ Accepts 0x040D rifPk up ∧ (readParams 0x040D rifPk.params).bad = false
    ∧ (readParams 0x040D rifPk.params).n 6 = 10222 ∧ (readParams 0x040D rifPk.params).n 8 = 4094 :=
  ⟨by decide, ⟨by decide, by decide, by decide, by decide, by decide, by decide⟩, by decide, by decide, by decide⟩
def bindPk (k n : Nat) : Packet := pk [(.u 8, k), (.u 16, n), (.u 12, 5)]
theorem witness_rif_bind : Table.wf (fun _ => 0) up.tab.portRif = true ∧ Table.wf (fun _ => 0) up.tab.vidRif = true
    ∧ Accepts 0x040E (bindPk 0 515) up ∧ (readParams 0x040E (bindPk 0 515).params).n 1 = 515 ∧ up.hasPort 515 = true :=
  ⟨by decide, by decide, ⟨by decide, by decide, by decide, by decide, by decide, by decide⟩, by decide, by decide⟩
theorem witness_rif_bind_vid : Accepts 0x040E (bindPk 1 4094) up ∧ (readParams 0x040E (bindPk 1 4094).params).n 1 = 4094
    ∧ (readParams 0x040E (bindPk 1 4094).params).bad = false :=
  ⟨⟨by decide, by decide, by decide, by decide, by decide, by decide⟩, by decide, by decide⟩
theorem witness_rif_get : Accepts 0x040F (pk [(.u 12, 4095)]) up ∧ (readParams 0x040F (pk [(.u 12, 4095)]).params).n 0 = 4095 :=
  ⟨⟨by decide, by decide, by decide, by decide, by decide, by decide⟩, by decide⟩

/-! FabricAndPoolPacketsAnswer -/
def replPk : Packet := pk [(.u 4, 9), (.u 16, 16383), (.wide 516, 2 ^ 515 + 1)]
theorem witness_repl_set : Table.wf (fun _ => 0) up.tab.repl = true ∧ Accepts 0x0500 replPk up ∧ (readParams 0x0500 replPk.params).bad = false
    ∧ (readParams 0x0500 replPk.params).n 1 = 16383 ∧ up.quadsOf 9 = [0, 3] :=
  ⟨by decide, ⟨by decide, by decide, by decide, by decide, by decide, by decide +kernel⟩, by decide +kernel, by decide +kernel, by decide⟩
theorem witness_repl_get : Accepts 0x0501 (pk [(.u 2, 3), (.u 16, 16383)]) up ∧ (readParams 0x0501 (pk [(.u 2, 3), (.u 16, 16383)]).params).bad = false :=
  ⟨⟨by decide, by decide, by decide, by decide, by decide, by decide⟩, by decide⟩
def stgPk : Packet := pk [(.u 32, 2 ^ 31), (.u 16, 4096), (.u 16, 4095), (.u 16, 28672)]
def stgArgs : Args := readParams 0x0502 stgPk.params
def stgNew : State := (slicesOf (stgArgs.n 0)).foldl (fun s sl => s.recompute sl) ((slicesOf (stgArgs.n 0)).foldl (fun s sl =>
  (s.setReg .fabStgCfg sl (word (stgArgs.n 2 * 2 ^ 16 + stgArgs.n 1))).setReg .fabStgLossy sl (word (stgArgs.n 3))) (begun 0x0502 stgPk up))
theorem witness_stg_set : Inv up ∧ Accepts 0x0502 stgPk up ∧ stgArgs.bad = false ∧ slicesOf (stgArgs.n 0) = [31] ∧ up.hasSlice 31 = true
    ∧ stgArgs.n 2 < stgArgs.n 1 ∧ stgArgs.n 1 = 4096 ∧ stgArgs.n 3 = 28672 :=
  ⟨⟨by decide, by decide, by decide⟩, ⟨by decide, by decide, by decide, by decide, by decide, by decide⟩, by decide, by decide, by decide, by decide,
    by decide, by decide⟩
theorem witness_stg_limits : firstFail (limitChecks (begun 0x0502 stgPk up) stgNew (31 / 8)) = none := by decide +kernel
theorem witness_stg_get : Accepts 0x0503 (pk [(.u 5, 31)]) up ∧ Accepts 0x0505 (pk [(.u 5, 31)]) up ∧ (readParams 0x0503 (pk [(.u 5, 31)]).params).n 0 = 31
    ∧ (readParams 0x0505 (pk [(.u 5, 31)]).params).n 0 = 31 :=
  ⟨⟨by decide, by decide, by decide, by decide, by decide, by decide⟩, ⟨by decide, by decide, by decide, by decide, by decide, by decide⟩, by decide, by decide⟩
def poolPk : Packet := pk [(.u 32, 1), (.u 8, 3), (.u 32, 65536), (.u 32, 65536)]
theorem witness_pool_set : Accepts 0x0504 poolPk up ∧ (readParams 0x0504 poolPk.params).bad = false ∧ (readParams 0x0504 poolPk.params).n 1 = 3
    ∧ (readParams 0x0504 poolPk.params).n 3 = 65536 ∧ up.floorsWith 0 3 65536 ≤ 65536 - (up.pool 0).quar - (up.pool 0).retired :=
  ⟨⟨by decide, by decide, by decide, by decide, by decide, by decide⟩, by decide, by decide, by decide, by decide⟩

/-! QuarantinePacketsAnswer -/
def quarState (d : Desc) : State := { rooted with path := { rooted.path with desc := [(9, d)], pools := [(0, { quar := 1 })] } }
def qd : Desc := { state := 2, onlist := false, owner := 5, qcause := 1, debited := true }
def qlistPk (n : Nat) : Packet := pk ([(.u 5, 0), (.u 16, 9), (.u 16, n)] ++ if n ≤ 28 then [] else [(.dma, ref (16 * n) 1)])
theorem witness_quar_list : Accepts 0x0506 (qlistPk 28) (quarState qd) ∧ (readParams 0x0506 (qlistPk 28).params).bad = false
    ∧ (readParams 0x0506 (qlistPk 28).params).n 2 = 28 ∧ (quarState qd).quarCells 0 9 = [(9, qd)] :=
  ⟨⟨by decide, by decide, by decide, by decide, by decide, by decide⟩, by decide, by decide, by decide⟩
theorem witness_quar_list_far : Accepts 0x0506 (qlistPk 4096) (quarState qd) ∧ (readParams 0x0506 (qlistPk 4096).params).n 2 = 4096
    ∧ firstFail (dmaChecks (quarState qd) (qlistPk 4096) ((readParams 0x0506 (qlistPk 4096).params).n 3) true 65536) = none :=
  ⟨⟨by decide, by decide, by decide, by decide, by decide, by decide +kernel⟩, by decide +kernel, by decide +kernel⟩
def qrelPk (all pool : Nat) : Packet := pk [(.u 5, 0), (.u 16, 9), (.flag, all), (.u 8, pool)]
theorem witness_quar_release : Accepts 0x0507 (qrelPk 0 0) (quarState qd) ∧ (readParams 0x0507 (qrelPk 0 0).params).f 2 = false
    ∧ (quarState qd).desc 0 9 = qd ∧ Table.wf (fun _ => ({} : Desc)) (quarState qd).path.desc = true
    ∧ Table.wf (fun _ => ({} : Pool)) (quarState qd).path.pools = true :=
  ⟨⟨by decide, by decide, by decide, by decide, by decide, by decide⟩, by decide, by decide, by decide, by decide⟩
theorem witness_quar_release_undebited : Accepts 0x0507 (qrelPk 0 3) (quarState { qd with debited := false })
    ∧ (readParams 0x0507 (qrelPk 0 3).params).n 3 = 3 ∧ ((quarState { qd with debited := false }).desc 0 9).debited = false :=
  ⟨⟨by decide, by decide, by decide, by decide, by decide, by decide⟩, by decide, by decide⟩
theorem witness_quar_release_all : Accepts 0x0507 (qrelPk 1 0) (quarState qd) ∧ (readParams 0x0507 (qrelPk 1 0).params).f 2 = true
    ∧ (quarState qd).quarCells 0 0 = [(9, qd)] := ⟨⟨by decide, by decide, by decide, by decide, by decide, by decide⟩, by decide, by decide⟩
def retirePk : Packet := pk [(.u 5, 0), (.u 16, 9)]
theorem witness_retire : Accepts 0x0508 retirePk (quarState qd) ∧ (readParams 0x0508 retirePk.params).bad = false ∧ ((quarState qd).desc 0 9).state ≠ 3
    ∧ ((quarState qd).pool 0).retired < 256 ∧ Accepts 0x0508 retirePk (quarState { state := 1 }) :=
  ⟨⟨by decide, by decide, by decide, by decide, by decide, by decide⟩, by decide, by decide, by decide,
    ⟨by decide, by decide, by decide, by decide, by decide, by decide⟩⟩
def reclPk : Packet := pk [(.u 5, 2), (.u 14, 8255)]
theorem witness_reclaim : Table.wf (fun _ => ({} : Reclaim)) up.path.reclaim = true ∧ Accepts 0x0509 reclPk up
    ∧ (readParams 0x0509 reclPk.params).n 1 = 8255 ∧ Config.sliceOf (8255 / 16) = 2
    ∧ (Table.get (fun _ => ({} : Reclaim)) up.path.reclaim 2).waiting.length < 16 :=
  ⟨by decide, ⟨by decide, by decide, by decide, by decide, by decide, by decide⟩, by decide, by decide, by decide⟩
def cscrubPk : Packet := pk [(.u 32, 2 ^ 31 + 1), (.flag, 1), (.u 8, 7)]
theorem witness_cb_scrub : Inv up ∧ Accepts 0x050A cscrubPk up ∧ (readParams 0x050A cscrubPk.params).bad = false
    ∧ (readParams 0x050A cscrubPk.params).n 2 = 7 ∧ slicesOf (2 ^ 31 + 1) = [0, 31] ∧ up.hasSlice 31 = true :=
  ⟨⟨by decide, by decide, by decide⟩, ⟨by decide, by decide, by decide, by decide, by decide, by decide⟩, by decide, by decide, by decide, by decide⟩

/-! DeepTierPacketsAnswer -/
def dqPk : Packet := pk [(.u 14, 8255), (.u 32, 4), (.u 32, 8372224), (.u 16, 4094), (.u 16, 4095)]
def deepUp : State := { up with path := { up.path with hbm := [(0, {}), (1, {})] } }
theorem witness_dt_set : Inv up ∧ Accepts 0x0600 dqPk up ∧ (readParams 0x0600 dqPk.params).bad = false ∧ (readParams 0x0600 dqPk.params).n 0 = 8255
    ∧ up.hasPort (8255 / 16) = true ∧ up.hidden (8255 / 16) = false ∧ (readParams 0x0600 dqPk.params).n 2 = 8372224
    ∧ (readParams 0x0600 dqPk.params).n 3 < (readParams 0x0600 dqPk.params).n 4 ∧ up.deepHeadroom 8255 = 0
    ∧ up.lostStack (Config.quadOf (8255 / 16)) = false :=
  ⟨⟨by decide, by decide, by decide⟩, ⟨by decide, by decide, by decide, by decide, by decide, by decide⟩, by decide, by decide, by decide, by decide,
    by decide, by decide, by decide, by decide⟩
theorem witness_dt_set_fits : (((up.setReg .dtQcfgRsv 8255 (word 4)).setReg .dtQcfgMax 8255 (word 8372224)).setReg .dtQcfgRb 8255
    (word (4095 * 2 ^ 16 + 4094))).reserveExcess (Config.quadOf (8255 / 16)) = false := by decide +kernel
theorem witness_dt_get : Accepts 0x0601 (pk [(.u 14, 8255)]) up ∧ (readParams 0x0601 (pk [(.u 14, 8255)]).params).n 0 = 8255 :=
  ⟨⟨by decide, by decide, by decide, by decide, by decide, by decide⟩, by decide⟩
def dstkPk (m : Nat) : Packet := pk [(.u 3, 7), (.u 1, m)]
theorem witness_dt_stack : Accepts 0x0602 (dstkPk 0) up ∧ Accepts 0x0602 (dstkPk 1) up ∧ (readParams 0x0602 (dstkPk 1).params).n 0 = 7
    ∧ (readParams 0x0602 (dstkPk 1).params).n 1 = 1 ∧ up.hasStack 7 = true ∧ up.stackState 7 = 0 ∧ up.stackState 6 ≠ 1 :=
  ⟨⟨by decide, by decide, by decide, by decide, by decide, by decide⟩, ⟨by decide, by decide, by decide, by decide, by decide, by decide⟩, by decide, by decide,
    by decide, by decide, by decide⟩
theorem witness_dt_page : Table.wf (fun _ => ({} : Stack)) up.path.hbm = true ∧ Accepts 0x0603 (pk [(.u 32, 8192)]) up
    ∧ (readParams 0x0603 (pk [(.u 32, 8192)]).params).n 0 = 8192 ∧ up.pageOk 8192 = true
    ∧ (up.stack 0).retired.length + (up.stack 0).pending.length < 65536 ∧ (up.stack 0).retired.contains 8192 = false :=
  ⟨by decide, ⟨by decide, by decide, by decide, by decide, by decide, by decide⟩, by decide, by decide, by decide, by decide⟩
theorem witness_dt_release : Accepts 0x0604 (pk [(.u 32, 8192)]) { up with path := { up.path with heldPages := [(8192, 1)] } }
    ∧ (readParams 0x0604 (pk [(.u 32, 8192)]).params).n 0 = 8192 :=
  ⟨⟨by decide, by decide, by decide, by decide, by decide, by decide⟩, by decide⟩
def dscrubPk : Packet := pk [(.u 4, 9), (.flag, 1), (.u 8, 7)]
theorem witness_dt_scrub : Accepts 0x0605 dscrubPk up ∧ (readParams 0x0605 dscrubPk.params).bad = false ∧ (readParams 0x0605 dscrubPk.params).n 2 = 7 :=
  ⟨⟨by decide, by decide, by decide, by decide, by decide, by decide⟩, by decide, by decide⟩
theorem witness_dt_status : Accepts 0x0606 (pk [(.u 2, 3)]) up ∧ (readParams 0x0606 (pk [(.u 2, 3)]).params).n 0 = 3 :=
  ⟨⟨by decide, by decide, by decide, by decide, by decide, by decide⟩, by decide⟩

/-! QueuePacketsAnswer -/
def fcPk : Packet := pk [(.u 10, 511), (.u 32, 1000000), (.u 32, 100000), (.u 16, 10240), (.u 16, 256)]
def fcArgs : Args := readParams 0x0700 fcPk.params
theorem witness_fc_set : Inv up ∧ Table.wf (fun _ => ({} : LinkPar)) up.path.linkPar = true ∧ Accepts 0x0700 fcPk up ∧ fcArgs.bad = false
    ∧ fcArgs.n 0 = 511 ∧ up.hasPort 511 = true ∧ up.hidden 511 = false ∧ fcArgs.n 1 = 1000000 ∧ fcArgs.n 2 = 100000 ∧ fcArgs.n 4 = 256 :=
  ⟨⟨by decide, by decide, by decide⟩, by decide, ⟨by decide, by decide, by decide, by decide, by decide, by decide⟩, by decide, by decide, by decide,
    by decide, by decide, by decide, by decide⟩
theorem witness_fc_limits : firstFail (limitChecks (begun 0x0700 fcPk up) (((begun 0x0700 fcPk up).inPath fun t => { t with
    linkPar := Table.set (fun _ => {}) t.linkPar 511 { linkNs := 1000000, respNs := 100000, peerMfs := 10240 } }).recompute (Config.sliceOf 511))
    (Config.quadOf 511)) = none := by decide +kernel
def onePk (n : Nat) : Packet := pk [(.u 10, n)]
theorem witness_fc_get : Accepts 0x0701 (onePk 511) up ∧ (readParams 0x0701 (onePk 511).params).n 0 = 511 :=
  ⟨⟨by decide, by decide, by decide, by decide, by decide, by decide⟩, by decide⟩
def qsetPk : Packet := pk [(.u 14, 8255), (.u 32, 65536), (.u 8, 8), (.u 8, 8), (.u 8, 3)]
theorem witness_queue_set : Accepts 0x0702 qsetPk up ∧ (readParams 0x0702 qsetPk.params).bad = false ∧ (readParams 0x0702 qsetPk.params).n 0 = 8255
    ∧ (readParams 0x0702 qsetPk.params).n 1 = 65536 ∧ (readParams 0x0702 qsetPk.params).n 4 = 3 ∧ up.hidden (8255 / 16) = false :=
  ⟨⟨by decide, by decide, by decide, by decide, by decide, by decide⟩, by decide, by decide, by decide, by decide, by decide⟩
theorem witness_queue_get : Accepts 0x0703 (pk [(.u 14, 8255)]) up ∧ (readParams 0x0703 (pk [(.u 14, 8255)]).params).n 0 = 8255 :=
  ⟨⟨by decide, by decide, by decide, by decide, by decide, by decide⟩, by decide⟩
theorem witness_qport_set : Accepts 0x0704 (pk [(.u 10, 511), (.u 2, 2)]) up ∧ (readParams 0x0704 (pk [(.u 10, 511), (.u 2, 2)]).params).n 1 = 2 :=
  ⟨⟨by decide, by decide, by decide, by decide, by decide, by decide⟩, by decide⟩
theorem witness_qport_flush : Accepts 0x0705 (onePk 0) linked ∧ (readParams 0x0705 (onePk 0).params).n 0 = 0 ∧ linked.configured 0 = true
    ∧ linked.hidden 0 = false ∧ up.configured 0 = false ∧ Accepts 0x0705 (onePk 0) up :=
  ⟨⟨by decide, by decide, by decide, by decide, by decide, by decide⟩, by decide, by decide, by decide, by decide,
    ⟨by decide, by decide, by decide, by decide, by decide, by decide⟩⟩

/-! SchedulerPacketsAnswer -/
def schPk : Packet := pk ([(.u 10, 515), (.u 8, 0x7F), (.s 7, 0xC0)] ++ List.replicate 8 (.u 32, 1048575) ++ [(.u 32, 2 ^ 24), (.u 32, 2 ^ 24 - 1)])
def schArgs : Args := readParams 0x0706 schPk.params
theorem witness_sch_port : Inv up ∧ Accepts 0x0706 schPk up ∧ schArgs.bad = false ∧ up.hasPort 515 = true ∧ up.hidden 515 = false
    ∧ ((List.range 8).all fun c => decide (up.quantBound 515 (schArgs.i 2 7) ≤ schArgs.n (3 + c)) && decide (schArgs.n (3 + c) ≤ 1048575)) = true
    ∧ schArgs.n 11 = 2 ^ 24 ∧ schArgs.n 12 < 2 ^ 24 :=
  ⟨⟨by decide, by decide, by decide⟩, ⟨by decide, by decide, by decide, by decide, by decide, by decide +kernel⟩, by decide +kernel, by decide, by decide,
    by decide +kernel, by decide +kernel, by decide +kernel⟩
def sqPk : Packet := pk [(.u 14, 8255), (.u 32, 2 ^ 24), (.u 32, 2 ^ 24 - 1)]
theorem witness_sch_queue : Accepts 0x0707 sqPk up ∧ (readParams 0x0707 sqPk.params).n 0 = 8255 ∧ (readParams 0x0707 sqPk.params).n 1 = 2 ^ 24 :=
  ⟨⟨by decide, by decide, by decide, by decide, by decide, by decide⟩, by decide, by decide⟩
theorem witness_sch_get : Accepts 0x0708 (pk [(.u 10, 515)]) up ∧ (readParams 0x0708 (pk [(.u 10, 515)]).params).n 0 = 515 :=
  ⟨⟨by decide, by decide, by decide, by decide, by decide, by decide⟩, by decide⟩
def gclPk (t : Nat) : Packet := pk [(.u 10, 0), (.u 32, 1000), (.u 16, 2), (.wide 80, 0), (.wide 80, packNet t),
  (.u 32, 8), (.u 8, 1), (.u 8, 0), (.u 8, 0), (.u 8, 0), (.u 32, 992), (.u 8, 255), (.u 8, 0), (.u 8, 0), (.u 8, 0)]
def gclArgs (t : Nat) : Args := readParams 0x0709 (gclPk t).params
theorem witness_gcl_set : Inv up ∧ Accepts 0x0709 (gclPk 0) up ∧ (gclArgs 0).bad = false ∧ gclEntries (gclArgs 0) (gclPk 0) = [(8, 1, false), (992, 255, false)]
    ∧ (gclArgs 0).n 1 = 1000 ∧ (gclArgs 0).n 2 = 2 ∧ up.flag F.gclSwapCtl_ARM 0 = false
    ∧ cycleAtOrAfter 0 1000 (max (unpackNet ((gclArgs 0).n 4)) up.swapFloor) < up.netNs + 2 ^ 30 :=
  ⟨⟨by decide, by decide, by decide⟩, ⟨by decide, by decide, by decide, by decide, by decide, by decide +kernel⟩, by decide +kernel, by decide +kernel,
    by decide +kernel, by decide +kernel, by decide, by decide +kernel⟩
theorem witness_gcl_held : Accepts 0x0709 (gclPk (2 ^ 31)) up ∧ (gclArgs (2 ^ 31)).bad = false
    ∧ up.netNs + 2 ^ 30 ≤ cycleAtOrAfter 0 1000 (max (unpackNet ((gclArgs (2 ^ 31)).n 4)) up.swapFloor) :=
  ⟨⟨by decide, by decide, by decide, by decide, by decide, by decide +kernel⟩, by decide +kernel, by decide +kernel⟩
def gclFarPk : Packet := { pk [(.u 10, 0), (.u 32, 1000), (.u 16, 57), (.wide 80, 0), (.wide 80, 0), (.dma, ref 456 0)] with
  dma := (List.replicate 57 [8, 0, 0, 0, 1, 0, 0, 0]).flatten }
theorem witness_gcl_far : Accepts 0x0709 gclFarPk rooted ∧ (readParams 0x0709 gclFarPk.params).bad = false
    ∧ firstFail (dmaChecks rooted gclFarPk ((readParams 0x0709 gclFarPk.params).n 5) false 456) = none
    ∧ ((gclEntries (readParams 0x0709 gclFarPk.params) gclFarPk).all fun e => e == (8, 1, false)) = true :=
  ⟨⟨by decide, by decide, by decide, by decide, by decide, by decide +kernel⟩, by decide +kernel, by decide +kernel, by decide +kernel⟩
def cancelGcl : Packet := pk [(.u 10, 0)]
theorem witness_gcl_cancel : Accepts 0x070A cancelGcl (up.setFld F.gclSwapCtl_ARM 0 1) ∧ (up.setFld F.gclSwapCtl_ARM 0 1).flag F.gclSwapCtl_ARM 0 = true
    ∧ ((up.setFld F.gclSwapCtl_ARM 0 1).setReg .gclSwapTgt 0 0x70000000).dueAt 0x70000000 = false :=
  ⟨⟨by decide, by decide, by decide, by decide, by decide, by decide⟩, by decide, by decide⟩
theorem witness_gcl_get : Accepts 0x070B (pk [(.u 10, 0), (.u 1, 1)]) up ∧ (readParams 0x070B (pk [(.u 10, 0), (.u 1, 1)]).params).f 1 = true :=
  ⟨⟨by decide, by decide, by decide, by decide, by decide, by decide⟩, by decide⟩

/-! LanePacketsAnswer -/
def cemBody : List Byte := List.replicate 15 0 ++ [1] ++ List.replicate 12 0
def cemRec : List Byte := cemBody ++ leBytes 4 (crc32 cemBody)
def cemPk : Packet := pk [(.u 16, 0), (.wide 256, leNat cemRec)]
theorem witness_cemond_set : Inv up ∧ Accepts 0x0800 cemPk up ∧ (readParams 0x0800 cemPk.params).bad = false
    ∧ leBytes 32 ((readParams 0x0800 cemPk.params).n 1) = cemRec ∧ recordOk cemRec = true ∧ leAt cemRec 0 2 = 0 ∧ up.laneOn 0 = false :=
  ⟨⟨by decide, by decide, by decide⟩, ⟨by decide, by decide, by decide, by decide, by decide, by decide +kernel⟩, by decide +kernel, by decide +kernel,
    by decide +kernel, by decide +kernel, by decide⟩
theorem witness_cemond_set_on : (linked.setReg .lnRate 0 16).laneOn 0 = true ∧ (linked.setReg .lnRate 0 16).fld F.lnRate_RATE 0 = leAt cemRec 2 1 := by
  decide +kernel
theorem witness_cemond_get : Accepts 0x0801 (pk [(.u 16, 0), (.u 8, 3)]) up ∧ (readParams 0x0801 (pk [(.u 16, 0), (.u 8, 3)]).params).n 1 = 3
    ∧ up.record? 0 3 = none :=
  ⟨⟨by decide, by decide, by decide, by decide, by decide, by decide⟩, by decide, by decide⟩
def cemTable : List Byte :=
  let h : List Byte := leBytes 4 0x444E4D43 ++ leBytes 2 1 ++ leBytes 2 1 ++ leBytes 4 0
  h ++ leBytes 4 (crc32 h) ++ cemRec
def loadPk : Packet := { pk [(.dma, ref 48 0)] with dma := cemTable }
theorem witness_cemond_load : Accepts 0x0802 loadPk rooted ∧ (readParams 0x0802 loadPk.params).bad = false
    ∧ firstFail (dmaChecks rooted loadPk ((readParams 0x0802 loadPk.params).n 0) false 16) = none
    ∧ tableOk loadPk.dma (dmaLen ((readParams 0x0802 loadPk.params).n 0)) = true
    ∧ ((tableRecords loadPk.dma).filter fun r => recordOk r && rooted.hasLane (leAt r 0 2)) = [cemRec] :=
  ⟨⟨by decide, by decide, by decide, by decide, by decide, by decide +kernel⟩, by decide +kernel, by decide +kernel, by decide +kernel, by decide +kernel⟩
def eyePk : Packet := pk [(.u 16, 0), (.u 8, 2), (.s 8, 0xE0), (.s 8, 31), (.u 8, 255), (.s 8, 0x81), (.s 8, 127), (.u 8, 255), (.u 8, 23)]
def eyeArgs : Args := readParams 0x0803 eyePk.params
theorem witness_eye_start : Accepts 0x0803 eyePk (linked.setFld F.lnStat_LOCK 0 1) ∧ eyeArgs.bad = false ∧ eyeArgs.n 1 = 2 ∧ eyeArgs.i 2 8 = -32
    ∧ eyeArgs.i 3 8 = 31 ∧ eyeArgs.i 5 8 = -127 ∧ eyeArgs.i 6 8 = 127 ∧ eyeArgs.n 8 ≤ 23 + linked.fld F.lnRate_RATE 0
    ∧ OTable.get? linked.lanes.scans 0 = none :=
  ⟨⟨by decide, by decide, by decide, by decide, by decide, by decide⟩, by decide, by decide, by decide, by decide, by decide, by decide, by decide, by decide⟩
def eyeGetPk : Packet := pk [(.u 16, 0), (.dma, ref 8 1)]
theorem witness_eye_get : Accepts 0x0804 eyeGetPk rooted ∧ (readParams 0x0804 eyeGetPk.params).bad = false
    ∧ firstFail (dmaChecks rooted eyeGetPk ((readParams 0x0804 eyeGetPk.params).n 1) true 0) = none :=
  ⟨⟨by decide, by decide, by decide, by decide, by decide, by decide +kernel⟩, by decide +kernel, by decide +kernel⟩
theorem witness_eye_stop : Accepts 0x0805 (pk [(.u 16, 511)]) up ∧ (readParams 0x0805 (pk [(.u 16, 511)]).params).n 0 = 511 ∧ up.hasLane 511 = true :=
  ⟨⟨by decide, by decide, by decide, by decide, by decide, by decide⟩, by decide, by decide⟩
def ltestPk : Packet := pk [(.u 16, 511), (.u 8, 2), (.u 8, 1), (.flag, 1)]
theorem witness_lane_test : Accepts 0x0806 ltestPk up ∧ (readParams 0x0806 ltestPk.params).bad = false ∧ (readParams 0x0806 ltestPk.params).n 1 = 2
    ∧ up.laneOn 511 = false :=
  ⟨⟨by decide, by decide, by decide, by decide, by decide, by decide⟩, by decide, by decide, by decide⟩
theorem witness_lane_status : Accepts 0x0807 (pk [(.u 16, 511)]) up ∧ (readParams 0x0807 (pk [(.u 16, 511)]).params).n 0 = 511 :=
  ⟨⟨by decide, by decide, by decide, by decide, by decide, by decide⟩, by decide⟩

/-! TimePacketsAnswer -/
theorem witness_time_get : Accepts 0x0900 (pk []) up :=
  ⟨by decide, by decide, by decide, by decide, by decide, by decide⟩
def setPk : Packet := pk [(.wide 80, packNet (2 ^ 48 * 1000000000 - 1))]
theorem witness_time_set : Inv up ∧ Accepts 0x0901 setPk up ∧ (readParams 0x0901 setPk.params).bad = false ∧ up.time.servo.mode = 0
    ∧ (readParams 0x0901 setPk.params).n 0 % 2 ^ 32 = 999999999 :=
  ⟨⟨by decide, by decide, by decide⟩, ⟨by decide, by decide, by decide, by decide, by decide, by decide⟩, by decide, by decide, by decide⟩
/-- An increment at its upper bound with DELTA 0 in use, and a slew of -100 ms. -/
def adjPk : Packet := pk [(.flag, 1), (.u 40, Config.incMax), (.flag, 1), (.s 64, 2 ^ 64 - 25600000000), (.u 29, 2 ^ 28)]
def adjArgs : Args := readParams 0x0902 adjPk.params
theorem witness_time_adj : Inv up ∧ Accepts 0x0902 adjPk up ∧ adjArgs.bad = false ∧ adjArgs.f 0 = true ∧ adjArgs.n 1 = Config.incMax
    ∧ adjArgs.f 2 = true ∧ adjArgs.i 3 64 = -25600000000 ∧ adjArgs.n 4 = 2 ^ 28 ∧ slewSlots (adjArgs.i 3 64) (adjArgs.n 4) ≤ 2 ^ 32 - 1
    ∧ (Config.incMin : Int) ≤ Config.incMax + -(2 ^ 28) :=
  ⟨⟨by decide, by decide, by decide⟩, ⟨by decide, by decide, by decide, by decide, by decide, by decide⟩, by decide, by decide, by decide,
    by decide, by decide, by decide, by decide +kernel, by decide⟩
/-- Mode, port 0, domain 24, LOCK_NS 1 below STEP_NS 2, the largest SLEW_MAX, HOLD_MAX 0. -/
def servoPk (mode : Nat) : Packet := pk [(.u 2, mode), (.u 10, 0), (.u 8, 24), (.u 32, 1), (.u 32, 2), (.u 32, 2 ^ 28), (.u 32, 0)]
def bcUp : State := ((up.setFld F.macMode_BC 0 1).setFld F.tsPortDomEn_EN 0 0x80).setReg .tsPortDomHi 0 0x18000000
theorem witness_servo_set : Inv bcUp ∧ Accepts 0x0903 (servoPk 1) bcUp ∧ (readParams 0x0903 (servoPk 1).params).n 0 = 1
    ∧ (readParams 0x0903 (servoPk 1).params).bad = false ∧ bcUp.hasPort 0 = true ∧ bcUp.flag F.macMode_BC 0 = true
    ∧ bcUp.domainConfigured 0 24 = true :=
  ⟨⟨by decide, by decide, by decide⟩, ⟨by decide, by decide, by decide, by decide, by decide, by decide⟩, by decide, by decide, by decide, by decide,
    by decide⟩
theorem witness_servo_get : Accepts 0x0904 (pk []) up :=
  ⟨by decide, by decide, by decide, by decide, by decide, by decide⟩
def hinting : State := { up with time := { up.time with servo := { up.time.servo with mode := 2 } } }
def hintPk : Packet := pk [(.u 64, 2 ^ 48 - 1)]
theorem witness_hint : Accepts 0x0905 hintPk hinting ∧ (readParams 0x0905 hintPk.params).bad = false ∧ hinting.time.servo.mode = 2
    ∧ (readParams 0x0905 hintPk.params).n 0 = 2 ^ 48 - 1 :=
  ⟨⟨by decide, by decide, by decide, by decide, by decide, by decide⟩, by decide, by decide, by decide⟩

/-! TimePinPacketsAnswer -/
def timed : State := { up with time := { up.time with todSet := true } }
def evtPk (en periodic start : Nat) : Packet :=
  pk [(.u 8, 7), (.flag, en), (.flag, periodic), (.flag, 1), (.wide 80, packNet start), (.u 31, 16), (.u 8, 255), (.u 31, 8)]
theorem witness_evt_stop : Inv up ∧ Accepts 0x0906 (evtPk 0 0 0) up ∧ (readParams 0x0906 (evtPk 0 0 0).params).bad = false
    ∧ (readParams 0x0906 (evtPk 0 0 0).params).n 0 = 7 ∧ (readParams 0x0906 (evtPk 0 0 0).params).f 1 = false :=
  ⟨⟨by decide, by decide, by decide⟩, ⟨by decide, by decide, by decide, by decide, by decide, by decide⟩, by decide, by decide, by decide⟩
theorem witness_evt_near : let a := readParams 0x0906 (evtPk 1 1 (2 ^ 30 - 1)).params
    Accepts 0x0906 (evtPk 1 1 (2 ^ 30 - 1)) timed ∧ a.bad = false ∧ a.f 1 = true ∧ a.f 2 = true ∧ a.n 7 = 8 ∧ a.n 5 = 16 ∧ timed.netValid = true
    ∧ unpackNet (a.n 4) = timed.netNs + (2 ^ 30 - 1) :=
  ⟨⟨by decide, by decide, by decide, by decide, by decide, by decide⟩, by decide, by decide, by decide, by decide, by decide, by decide, by decide⟩
theorem witness_evt_far : let a := readParams 0x0906 (evtPk 1 0 (86400 * 1000000000)).params
    Accepts 0x0906 (evtPk 1 0 (86400 * 1000000000)) timed ∧ a.bad = false ∧ a.f 1 = true ∧ a.f 2 = false ∧ timed.netValid = true
    ∧ unpackNet (a.n 4) = timed.netNs + 86400 * 1000000000 :=
  ⟨⟨by decide, by decide, by decide, by decide, by decide, by decide⟩, by decide, by decide, by decide, by decide, by decide⟩
theorem witness_pps_set : Inv up ∧ Accepts 0x0907 (pk [(.flag, 1), (.u 30, 500000000)]) up
    ∧ (readParams 0x0907 (pk [(.flag, 1), (.u 30, 500000000)]).params).bad = false
    ∧ (readParams 0x0907 (pk [(.flag, 1), (.u 30, 500000000)]).params).n 1 = 500000000 :=
  ⟨⟨by decide, by decide, by decide⟩, ⟨by decide, by decide, by decide, by decide, by decide, by decide⟩, by decide, by decide⟩
def capPk : Packet := pk [(.u 8, 4), (.flag, 1), (.u 2, 3), (.flag, 1)]
theorem witness_cap_set : Inv up ∧ Accepts 0x0908 capPk up ∧ (readParams 0x0908 capPk.params).bad = false
    ∧ (readParams 0x0908 capPk.params).n 0 = 4 ∧ (readParams 0x0908 capPk.params).n 2 = 3 ∧ (readParams 0x0908 capPk.params).f 3 = true :=
  ⟨⟨by decide, by decide, by decide⟩, ⟨by decide, by decide, by decide, by decide, by decide, by decide⟩, by decide, by decide, by decide, by decide⟩
def capFull : State :=
  (up.setFld F.tsCapCtl_OWNER 4 1).setCaptures 4 [{ ns := 5, frac := 0, parity := false, rise := true }, { ns := 9, frac := 1, parity := false, rise := false }]
theorem witness_cap_get : Inv capFull ∧ Table.wf (fun _ => ([] : List CapRec)) capFull.time.captures = true ∧ Accepts 0x0909 (pk [(.u 8, 4), (.u 8, 1)]) capFull
    ∧ (readParams 0x0909 (pk [(.u 8, 4), (.u 8, 1)]).params).bad = false ∧ (readParams 0x0909 (pk [(.u 8, 4), (.u 8, 1)]).params).n 0 = 4
    ∧ capFull.flag F.tsCapCtl_OWNER 4 = true ∧ ((capFull.captures 4).take 1).length = 1 :=
  ⟨⟨by decide, by decide, by decide⟩, by decide, ⟨by decide, by decide, by decide, by decide, by decide, by decide⟩, by decide, by decide, by decide, by decide⟩
def rclkPk : Packet := pk [(.u 8, 1), (.flag, 1), (.u 16, 511), (.u 3, 7)]
theorem witness_rclk_set : Inv up ∧ Accepts 0x090A rclkPk up ∧ (readParams 0x090A rclkPk.params).bad = false
    ∧ (readParams 0x090A rclkPk.params).n 0 = 1 ∧ (readParams 0x090A rclkPk.params).n 2 = 511 ∧ up.hasLane 511 = true :=
  ⟨⟨by decide, by decide, by decide⟩, ⟨by decide, by decide, by decide, by decide, by decide, by decide⟩, by decide, by decide, by decide, by decide⟩

/-! StampingAndMirrorPacketsAnswer -/
def ptpPk : Packet := pk [(.u 10, 511), (.u 8, 0xFF), (.u 8, 1), (.u 8, 2), (.u 8, 3), (.u 8, 4), (.u 8, 5), (.u 8, 6), (.u 8, 7), (.u 8, 255),
  (.s 16, 0x8000), (.s 16, 0x7FFF)]
def ptpArgs : Args := readParams 0x090B ptpPk.params
theorem witness_ptp_set : Inv up ∧ Accepts 0x090B ptpPk up ∧ ptpArgs.bad = false ∧ ptpArgs.n 0 = 511 ∧ up.hasPort 511 = true ∧ up.hidden 511 = false
    ∧ ({ up with time := { up.time with servo := { up.time.servo with mode := 1, port := 511, domain := ptpArgs.n 9 } } } : State).time.servo.domain = 255
    ∧ ((List.range 8).map fun i => ptpArgs.n (2 + i)) = [1, 2, 3, 4, 5, 6, 7, 255] :=
  ⟨⟨by decide, by decide, by decide⟩, ⟨by decide, by decide, by decide, by decide, by decide, by decide +kernel⟩, by decide +kernel, by decide, by decide,
    by decide, by decide, by decide⟩
theorem witness_ptp_get : Accepts 0x090C (pk [(.u 10, 515)]) up ∧ (readParams 0x090C (pk [(.u 10, 515)]).params).n 0 = 515 ∧ up.hasPort 515 = true :=
  ⟨⟨by decide, by decide, by decide, by decide, by decide, by decide⟩, by decide, by decide⟩
def ringSetPk (owner : Nat) : Packet := pk [(.u 8, 3), (.flag, 1), (.flag, owner)]
theorem witness_ts_ring : Inv up ∧ Accepts 0x090D (ringSetPk 1) up ∧ (readParams 0x090D (ringSetPk 1).params).bad = false
    ∧ (readParams 0x090D (ringSetPk 1).params).n 0 = 3 ∧ up.hasQuad 3 = true
    ∧ up.flag F.tsRingCtl_OWNER 3 ≠ (readParams 0x090D (ringSetPk (1 - b2n (up.flag F.tsRingCtl_OWNER 3))).params).f 2
    ∧ up.flag F.tsRingCtl_OWNER 3 = (readParams 0x090D (ringSetPk (b2n (up.flag F.tsRingCtl_OWNER 3))).params).f 2 :=
  ⟨⟨by decide, by decide, by decide⟩, ⟨by decide, by decide, by decide, by decide, by decide, by decide⟩, by decide, by decide, by decide, by decide,
    by decide⟩
theorem witness_ts_stp : Accepts 0x090E (pk [(.flag, 1)]) up ∧ (readParams 0x090E (pk [(.flag, 1)]).params).bad = false :=
  ⟨⟨by decide, by decide, by decide, by decide, by decide, by decide⟩, by decide⟩
def mirPk (kind dest : Nat) (rest : List (Ty × Nat)) : Packet :=
  pk ([(.u 8, 7), (.flag, 1), (.u 8, kind), (.u 8, 1), (.u 3, 7), (.u 16, dest), (.u 14, 10240), (.u 32, 2 ^ 24), (.u 32, 2 ^ 24 - 1)] ++ rest)
def mirOuter (ip : Ty) (v : Nat) : List (Ty × Nat) :=
  [(.mac, 1), (.mac, 2 ^ 48 - 1), (.u 12, 4094), (ip, v), (ip, 5), (.u 6, 63), (.u 8, 255), (.u 16, 65535), (.u 16, 1)]
theorem witness_mir_local : let a := readParams 0x0A00 (mirPk 1 16383 []).params
    Accepts 0x0A00 (mirPk 1 16383 []) up ∧ a.bad = false ∧ a.n 0 = 7 ∧ a.n 2 = 1 ∧ a.n 5 = 16383 ∧ a.n 6 = 10240 :=
  ⟨⟨by decide, by decide, by decide, by decide, by decide, by decide +kernel⟩, by decide +kernel, by decide +kernel, by decide +kernel, by decide +kernel,
    by decide +kernel⟩
theorem witness_mir_ip4 : let a := readParams 0x0A00 (mirPk 2 511 (mirOuter .ip4 (2 ^ 32 - 1))).params
    Accepts 0x0A00 (mirPk 2 511 (mirOuter .ip4 (2 ^ 32 - 1))) up ∧ a.bad = false ∧ a.n 2 = 2 ∧ a.n 5 = 511 ∧ up.hasPort 511 = true
    ∧ a.n 11 = 4094 ∧ a.n 15 = 255 ∧ a.n 17 = 1 :=
  ⟨⟨by decide, by decide, by decide, by decide, by decide, by decide +kernel⟩, by decide +kernel, by decide +kernel, by decide +kernel, by decide,
    by decide +kernel, by decide +kernel, by decide +kernel⟩
theorem witness_mir_ip6 : let a := readParams 0x0A00 (mirPk 3 0 (mirOuter .ip6 (2 ^ 127))).params
    Accepts 0x0A00 (mirPk 3 0 (mirOuter .ip6 (2 ^ 127))) up ∧ a.bad = false ∧ a.n 2 = 3 ∧ a.n 12 = 2 ^ 127 :=
  ⟨⟨by decide, by decide, by decide, by decide, by decide, by decide +kernel⟩, by decide +kernel, by decide +kernel, by decide +kernel⟩
theorem witness_mir_get : Accepts 0x0A01 (pk [(.u 8, 7)]) up ∧ (readParams 0x0A01 (pk [(.u 8, 7)]).params).n 0 = 7
    ∧ up.fld F.mirSessCfg_KIND 7 = 0 ∧ (up.setFld F.mirSessCfg_KIND 7 3).fld F.mirSessCfg_KIND 7 = 3 :=
  ⟨⟨by decide, by decide, by decide, by decide, by decide, by decide⟩, by decide, by decide, by decide⟩
theorem witness_mir_port : Inv up ∧ Accepts 0x0A02 (pk [(.u 10, 515), (.u 8, 255), (.u 8, 1)]) up
    ∧ (readParams 0x0A02 (pk [(.u 10, 515), (.u 8, 255), (.u 8, 1)]).params).bad = false ∧ up.hasPort 515 = true ∧ up.hidden 515 = false :=
  ⟨⟨by decide, by decide, by decide⟩, ⟨by decide, by decide, by decide, by decide, by decide, by decide⟩, by decide, by decide, by decide⟩

/-! RingAndTreePacketsAnswer -/
def ringPk (dir r en base count log2 : Nat) : Packet := pk [(.u 8, dir), (.u 8, r), (.flag, en), (.u 64, base), (.u 32, count), (.u 16, 16384),
  (.flag, 1), (.u 8, 255), (.u 16, 1023), (.u 16, 0x8001), (.u 8, log2)]
def ringArgs (dir r en base count log2 : Nat) : Args := readParams 0x0B00 (ringPk dir r en base count log2).params
theorem witness_ring_set : Inv rooted ∧ Accepts 0x0B00 (ringPk 0 31 1 4096 64 3) rooted
    ∧ (ringArgs 0 31 1 4096 64 3).bad = false ∧ (ringArgs 0 31 1 4096 64 3).n 4 = 2 ^ (0 + 6) ∧ (ringArgs 0 31 1 4096 64 3).n 5 = 16384
    ∧ rooted.dmaAdmits 4096 (32 * 64) true true = true ∧ rooted.ringOn false 31 = false :=
  ⟨⟨by decide, by decide, by decide⟩, ⟨by decide, by decide, by decide, by decide, by decide, by decide +kernel⟩, by decide +kernel,
    by decide +kernel, by decide +kernel, by decide, by decide⟩
theorem witness_ring_set_tx : Accepts 0x0B00 (ringPk 1 0 1 0 65536 0) rooted ∧ (ringArgs 1 0 1 0 65536 0).bad = false
    ∧ (ringArgs 1 0 1 0 65536 0).n 4 = 2 ^ (10 + 6) ∧ rooted.dmaAdmits 0 (32 * 65536) false true = true :=
  ⟨⟨by decide, by decide, by decide, by decide, by decide, by decide +kernel⟩, by decide +kernel, by decide +kernel, by decide⟩
/-- Receive ring 5 is written to. -/
def handed : State := { rooted with host := { rooted.host with jobs := [{ ring := 5, fid := 0, idx := 0, n := 1, fcs := false, md := {} }] } }
theorem witness_ring_stop : Inv handed ∧ Accepts 0x0B00 (ringPk 0 5 0 0 64 0) handed ∧ (ringArgs 0 5 0 0 64 0).bad = false
    ∧ (ringArgs 0 5 0 0 64 0).f 2 = false ∧ (handed.host.jobs.any fun j => j.ring == 5) = true :=
  ⟨⟨by decide, by decide, by decide⟩, ⟨by decide, by decide, by decide, by decide, by decide, by decide +kernel⟩, by decide +kernel, by decide +kernel,
    by decide⟩
theorem witness_ring_get : Accepts 0x0B01 (pk [(.u 8, 1), (.u 8, 31)]) up ∧ (readParams 0x0B01 (pk [(.u 8, 1), (.u 8, 31)]).params).n 1 = 31 :=
  ⟨⟨by decide, by decide, by decide, by decide, by decide, by decide⟩, by decide⟩
theorem witness_tree_status : Accepts 0x0B02 (pk []) rooted :=
  ⟨by decide, by decide, by decide, by decide, by decide, by decide⟩
/-- Node 9 is bound to the path over port 1, routable or not. -/
def boundTo (on : Bool) : State :=
  { (onPort { lock := true }).setReg .rlNodeValidLo 0 (if on then 0x200 else 0) with tree := { (onPort { lock := true }).tree with bound := [(9, [1])] } }
theorem witness_tree_bound : OTable.get? (boundTo true).tree.bound 9 = some [1] ∧ (boundTo true).routable 9 = true := by decide
theorem witness_rl_status : Inv up ∧ Accepts 0x0B03 (pk [(.u 6, 0)]) up ∧ up.node? = none ∧ up.tree.root = false ∧ rooted.node? = some 0 :=
  ⟨⟨by decide, by decide, by decide⟩, ⟨by decide, by decide, by decide, by decide, by decide, by decide⟩, by decide, by decide, by decide⟩
theorem witness_rl_unreachable : Inv (boundTo false) ∧ Accepts 0x0B03 (pk [(.u 6, 9)]) (boundTo false) ∧ (boundTo false).routable 9 = false
    ∧ OTable.has (boundTo false).tree.bound 9 = true ∧ (boundTo false).tree.root = true :=
  ⟨⟨by decide, by decide, by decide⟩, ⟨by decide, by decide, by decide, by decide, by decide, by decide⟩, by decide, by decide, by decide⟩
theorem witness_rl_remote : Accepts 0x0B03 (pk [(.u 6, 9)]) (boundTo true) ∧ (boundTo true).routable 9 = true ∧ (boundTo true).tree.reads = []
    ∧ (readParams 0x0B03 (pk [(.u 6, 9)]).params).n 0 = 9 :=
  ⟨⟨by decide, by decide, by decide, by decide, by decide, by decide⟩, by decide, by decide, by decide⟩

/-! FirmwarePacketsAnswer -/
def imgPk : Packet := { pk [(.u 8, 3), (.dma, ref 8192 0)] with dma := [1, 2, 3] }
theorem witness_image : Table.wf (fun _ => (0xFF : Byte)) rooted.flash = true ∧ Accepts 0x0C00 imgPk rooted
    ∧ (readParams 0x0C00 imgPk.params).bad = false ∧ (readParams 0x0C00 imgPk.params).n 0 = 3
    ∧ firstFail (dmaChecks rooted imgPk ((readParams 0x0C00 imgPk.params).n 1) false 0) = none ∧ rooted.slotBusy 3 = false :=
  ⟨by decide, ⟨by decide, by decide, by decide, by decide, by decide, by decide +kernel⟩, by decide +kernel, by decide +kernel, by decide +kernel, by decide⟩
theorem witness_image_fault : rooted.imageFault 3 (slice imgPk.dma 0 8192) ≠ 0 := by
  have e : leAt ((slice imgPk.dma 0 8192).take 8192) 0 4 = 0x00030201 := by decide +kernel
  simp [State.imageFault, e]
/-- A trial of slot 1 runs, and the store holds energy for a session. -/
def onTrial (mv : Nat) : State :=
  { ((((up.setFld F.protBoot_FW_SLOT 0 1).setFld F.pwrStat_CAP_STATE 0 1).setFld F.pwrHoldV_MV 0 mv).setFld F.pwrCap_C 0 3000) with
    ks := { up.ks with bootRec := some { active := 1, prev := 0, trial := true, deadline := 3000000 } } }
def actPk (mode : Nat) : Packet := pk [(.u 8, 1), (.u 8, mode), (.u 16, 10)]
theorem witness_activate : Inv (onTrial 12000) ∧ Accepts 0x0C01 (actPk 1) (onTrial 12000) ∧ (readParams 0x0C01 (actPk 1).params).n 1 = 1
    ∧ (readParams 0x0C01 (actPk 1).params).bad = false ∧ (onTrial 12000).nextRecord.trial = true ∧ (onTrial 12000).nextRecord.active = 1
    ∧ (onTrial 12000).ksFaulted = false ∧ (onTrial 12000).energyFor 64 = true :=
  ⟨⟨by decide, by decide, by decide⟩, ⟨by decide, by decide, by decide, by decide, by decide, by decide⟩, by decide, by decide, by decide, by decide,
    by decide, by decide⟩
theorem witness_activate_low : Inv (onTrial 0) ∧ Accepts 0x0C01 (actPk 2) (onTrial 0) ∧ (readParams 0x0C01 (actPk 2).params).n 1 = 2
    ∧ (onTrial 0).ksFaulted = false ∧ (onTrial 0).energyFor 64 = false :=
  ⟨⟨by decide, by decide, by decide⟩, ⟨by decide, by decide, by decide, by decide, by decide, by decide⟩, by decide, by decide, by decide⟩
theorem witness_fw_status : Accepts 0x0C02 (pk []) (onTrial 0) ∧ (onTrial 0).ks.bootRec.isSome = true :=
  ⟨⟨by decide, by decide, by decide, by decide, by decide, by decide⟩, by decide⟩
def protPk : Packet := pk [(.dma, ref 2048 1)]
theorem witness_prot_status : Accepts 0x0C03 (pk []) up ∧ Accepts 0x0C03 protPk rooted
    ∧ firstFail (dmaChecks rooted protPk ((readParams 0x0C03 protPk.params).n 0) true (4 * protWords.length)) = none :=
  ⟨⟨by decide, by decide, by decide, by decide, by decide, by decide⟩, ⟨by decide, by decide, by decide, by decide, by decide, by decide +kernel⟩,
    by decide +kernel⟩

/-! KeepStorePacketsAnswer -/
def charged (mv : Nat) : State := ((rooted.setFld F.pwrStat_CAP_STATE 0 1).setFld F.pwrHoldV_MV 0 mv).setFld F.pwrCap_C 0 3000
def ksPk : Packet := { pk [(.u 32, 2 ^ 22 - 2 ^ 20), (.dma, ref (2 ^ 20) 0)] with dma := [1, 2, 3] }
theorem witness_ks_write : Inv (charged 12000) ∧ Accepts 0x0D00 ksPk (charged 12000) ∧ (readParams 0x0D00 ksPk.params).bad = false
    ∧ (readParams 0x0D00 ksPk.params).n 0 = 2 ^ 22 - 2 ^ 20 ∧ dmaLen ((readParams 0x0D00 ksPk.params).n 1) = 2 ^ 20
    ∧ firstFail (dmaChecks (charged 12000) ksPk ((readParams 0x0D00 ksPk.params).n 1) false 0) = none
    ∧ (charged 12000).ksFaulted = false ∧ (charged 12000).energyFor (2 ^ 20) = true :=
  ⟨⟨by decide, by decide, by decide⟩, ⟨by decide, by decide, by decide, by decide, by decide, by decide +kernel⟩, by decide +kernel, by decide +kernel,
    by decide +kernel, by decide +kernel, by decide, by decide⟩
theorem witness_ks_low : Accepts 0x0D00 ksPk (charged 0) ∧ (charged 0).ksFaulted = false ∧ (charged 0).energyFor (2 ^ 20) = false :=
  ⟨⟨by decide, by decide, by decide, by decide, by decide, by decide +kernel⟩, by decide, by decide⟩
def ksReadPk (area off len : Nat) : Packet := pk [(.u 8, area), (.u 32, off), (.dma, ref len 1)]
theorem witness_ks_read : Accepts 0x0D01 (ksReadPk 5 (2 ^ 22 - 64) 64) rooted ∧ (readParams 0x0D01 (ksReadPk 5 (2 ^ 22 - 64) 64).params).bad = false
    ∧ dmaLen ((readParams 0x0D01 (ksReadPk 5 (2 ^ 22 - 64) 64).params).n 2) = 64
    ∧ firstFail (dmaChecks rooted (ksReadPk 5 (2 ^ 22 - 64) 64) ((readParams 0x0D01 (ksReadPk 5 (2 ^ 22 - 64) 64).params).n 2) true 0) = none :=
  ⟨⟨by decide, by decide, by decide, by decide, by decide, by decide +kernel⟩, by decide +kernel, by decide +kernel, by decide +kernel⟩
def saved : SaveImage :=
  { seq := 7, len := 0, slot := 0, whorl := 0, parity := false, capState := 1, time := {}, tail := [], cfgTail := [], drops := [] }
theorem witness_ks_read_save : Accepts 0x0D01 (ksReadPk 2 0 64) { rooted with ks := { rooted.ks with saves := [(1, saved)] } }
    ∧ (readParams 0x0D01 (ksReadPk 2 0 64).params).n 0 = 1 + 1
    ∧ OTable.get? ({ rooted with ks := { rooted.ks with saves := [(1, saved)] } } : State).ks.saves 1 = some saved :=
  ⟨⟨by decide, by decide, by decide, by decide, by decide, by decide +kernel⟩, by decide +kernel, by decide⟩
theorem witness_holdup : Accepts 0x0D02 (pk []) up ∧ up.ks.newest = none :=
  ⟨⟨by decide, by decide, by decide, by decide, by decide, by decide⟩, by decide⟩
theorem witness_thm : Accepts 0x0D03 (pk []) up :=
  ⟨by decide, by decide, by decide, by decide, by decide, by decide⟩

/-! ResetsKeepTheWhorl -/
theorem witness_resets_keep : (Instr.coreReset .cc) ∈ [Instr.coreReset .cc, .controlComplexReset .cc, .quadrantReset .cc 15, .watchdogExpire, .fwSwitch, .pcieReset]
    ∧ up.tick.slot = 2097152 := by decide

/-! SlewAndIncrementWritesMeet -/
def slewing : State := { up with time := { up.time with slewLeft := 1, slewDelta := -5 } }
theorem witness_slewing : Inv slewing ∧ slewing.tick.locked = true ∧ slewing.time.slewLeft ≠ 0 ∧ slewing.time.slewPend = none
    ∧ slewing.flag F.tsCtl_HOST_OWN 0 = false ∧ (Config.incMin : Int) ≤ slewing.time.inc + slewing.time.slewDelta
    ∧ (slewing.time.inc : Int) + slewing.time.slewDelta ≤ Config.incMax :=
  ⟨⟨by decide, by decide, by decide⟩, by decide, by decide, by decide, by decide, by decide, by decide⟩

/-! FaultyHeadersAreRefused -/
def crowded (n : Nat) : State :=
  { up with pkts := { up.pkts with
      journal := (List.range n).map fun k => { chan := 1, tag := 100 + k, inc := 0, version := 0x0100, opcode := 2, state := .started } } }
theorem witness_header_refused : up.fwRunning = true ∧ up.boot.switchAt = none ∧ up.shadow = none ∧ up.takenOf 2 (pk []) = none ∧ up.waiting 1 < 64
    ∧ up.versionOk 0x00FF = false ∧ up.versionOk 0x0100 = true ∧ lengthBad 0x0901 (pk []).params = true ∧ lengthBad 2 (pk []).params = false := by
  decide
theorem witness_refused_recovery : let s := (up.setFld F.protBoot_RUNNING 0 0).setFld F.protBoot_RECOVERY 0 1
    s.fwRunning = true ∧ s.flag F.protBoot_RECOVERY 0 = true ∧ s.versionOk 0x0100 = true := by decide
theorem witness_refused_busy : (crowded 32).fwRunning = true ∧ ((crowded 32).pkts.journal.filter fun j => j.chan = 1).length = 32
    ∧ (crowded 32).pkts.journal.any (fun j => j.tag == 131) = true ∧ (crowded 32).pkts.journal.all (fun j => j.tag != 7) = true := by decide +kernel
theorem witness_refused_full : let s := { up with pkts := { up.pkts with
      replies := List.replicate 64 { chan := 1, version := 0x0100, opcode := 2, tag := 0, status := 0, inc := 0, params := [] } } }
    64 ≤ s.waiting 1 ∧ s.fwRunning = true := by decide +kernel

/-! ParameterBlocksRoundTrip -/
theorem witness_block : let fs : List (Ty × Nat) := [(.u 3, 7), (.mac, 2 ^ 48 - 1), (.flag, 1), (.s 7, 0xC0), (.wide 80, 2 ^ 80 - 1), (.ip4, 1), (.dma, 2 ^ 97 - 1),
      (.ip6, 2 ^ 128 - 1), (.u 64, 2 ^ 64 - 1)]
    ofSigned (8 * numBytes 7) (toSigned 7 0xC0) = 0xC0 ∧ parseBlock (fs.map (·.1)) (emitBlock fs)
      = { vals := fs.map (·.2), bad := false, size := (emitBlock fs).length } := by decide +kernel

end Sys2Proof.Tests
end

/-!
What every step keeps (O3 to O6): the table of possible changes holds of each command and of the slot edge, and the invariant and all that no
command may lose follow.
-/
namespace Sys2Proof.Machine
open Sys2Proof

/-! ### Every command stays within its row of the table -/

/-- Each command keeps what no command may lose and changes nothing but what its row of `mayChange` names: the row is the change that the
law of its meaning states. -/
theorem exec_keeps {s : State} (h : Inv s) (c : Instr) : KeepsOut (mayChange c) s (exec c s) :=
  match c with
  | .powerOnReset .. => keeps_execPowerOnReset (keeps_self h) (Change.le_self _)
  | .pllLock => keeps_execPllLock (keeps_self h) (Change.le_self _)
  | .referenceLost => keeps_execReferenceLost (keeps_self h) (Change.le_self _)
  | .referenceRestored => keeps_execReferenceRestored (keeps_self h) (Change.le_self _)
  | .bootRomStart => keeps_execBootRomStart (keeps_self h) (Change.le_self _)
  | .bootCodeStart .. => keeps_execBootCodeStart (keeps_self h) (Change.le_self _)
  | .firmwareStart => keeps_execFirmwareStart (keeps_self h) (Change.le_self _)
  | .coreReset .. => keeps_execCoreReset (keeps_self h) (Change.le_self _)
  | .controlComplexReset .. => keeps_execControlComplexReset (keeps_self h) (Change.le_self _)
  | .quadrantReset .. => keeps_execQuadrantReset (keeps_self h) (Change.le_self _)
  | .resetRelease => keeps_execResetRelease (keeps_self h) (Change.le_self _)
  | .cbInitDone .. => keeps_execCbInitDone (keeps_self h) (Change.le_self _)
  | .dtInitDone .. => keeps_execDtInitDone (keeps_self h) (Change.le_self _)
  | .firmwareRestoration => keeps_execFirmwareRestoration (keeps_self h) (Change.le_self _)
  | .protLock .. => keeps_execProtLock (keeps_self h) (Change.le_self _)
  | .watchdogKick .. => keeps_execWatchdogKick (keeps_self h) (Change.le_self _)
  | .watchdogExpire => keeps_execWatchdogExpire (keeps_self h) (Change.le_self _)
  | .dmaWindowRevoke .. => keeps_execDmaWindowRevoke (keeps_self h) (Change.le_self _)
  | .fwSwitch => keeps_execFwSwitch (keeps_self h) (Change.le_self _)
  | .trialDeadline => keeps_execTrialDeadline (keeps_self h) (Change.le_self _)
  | .sagBegin .. => keeps_execSagBegin (keeps_self h) (Change.le_self _)
  | .saveComplete .. => keeps_execSaveComplete (keeps_self h) (Change.le_self _)
  | .sagEnd => keeps_execSagEnd (keeps_self h) (Change.le_self _)
  | .coreSupplyLoss .. => keeps_execCoreSupplyLoss (keeps_self h) (Change.le_self _)
  | .coreSupplyRestored => keeps_execCoreSupplyRestored (keeps_self h) (Change.le_self _)
  | .vholdExhausted => keeps_execVholdExhausted (keeps_self h) (Change.le_self _)
  | .capTestComplete .. => keeps_execCapTestComplete (keeps_self h) (Change.le_self _)
  | .capRuntimeCheck .. => keeps_execCapRuntimeCheck (keeps_self h) (Change.le_self _)
  | .capOvervoltage .. => keeps_execCapOvervoltage (keeps_self h) (Change.le_self _)
  | .holdupEnergyCheck .. => keeps_execHoldupEnergyCheck (keeps_self h) (Change.le_self _)
  | .saveImageUpdate => keeps_execSaveImageUpdate (keeps_self h) (Change.le_self _)
  | .ksSessionComplete .. => keeps_execKsSessionComplete (keeps_self h) (Change.le_self _)
  | .thermalSample .. => keeps_execThermalSample (keeps_self h) (Change.le_self _)
  | .pcieReset => keeps_execPcieReset (keeps_self h) (Change.le_self _)
  | .sampleIntervalBoundary => keeps_execSampleIntervalBoundary (keeps_self h) (Change.le_self _)
  | .epochBoundary => keeps_execEpochBoundary (keeps_self h) (Change.le_self _)
  | .learnNoticeFlush .. => keeps_execLearnNoticeFlush (keeps_self h) (Change.le_self _)
  | .agingSweepStart .. => keeps_execAgingSweepStart (keeps_self h) (Change.le_self _)
  | .agingSweepStep .. => keeps_execAgingSweepStep (keeps_self h) (Change.le_self _)
  | .arrayTransfer => keeps_execArrayTransfer (keeps_self h) (Change.le_self _)
  | .eyeScanStep .. => keeps_execEyeScanStep (keeps_self h) (Change.le_self _)
  | .legMonitorCheck .. => keeps_execLegMonitorCheck (keeps_self h) (Change.le_self _)
  | .scheduleEntryArm .. => keeps_execScheduleEntryArm (keeps_self h) (Change.le_self _)
  | .scheduleEntryDue => keeps_execScheduleEntryDue (keeps_self h) (Change.le_self _)
  | .heldListCheck => keeps_execHeldListCheck (keeps_self h) (Change.le_self _)
  | .scheduleReconvert => keeps_execScheduleReconvert (keeps_self h) (Change.le_self _)
  | .tickSlotRead .. => keeps_execTickSlotRead (keeps_self h) (Change.le_self _)
  | .whorlWrap => keeps_execWhorlWrap (keeps_self h) (Change.le_self _)
  | .tsIncCommit .. => keeps_execTsIncCommit (keeps_self h) (Change.le_self _)
  | .slewStart .. => keeps_execSlewStart (keeps_self h) (Change.le_self _)
  | .slewEnd => keeps_execSlewEnd (keeps_self h) (Change.le_self _)
  | .baseLoad .. => keeps_execBaseLoad (keeps_self h) (Change.le_self _)
  | .nextBaseLoad => keeps_execNextBaseLoad (keeps_self h) (Change.le_self _)
  | .whorlRead .. => keeps_execWhorlRead (keeps_self h) (Change.le_self _)
  | .servoMeasurement .. => keeps_execServoMeasurement (keeps_self h) (Change.le_self _)
  | .holdoverExpire => keeps_execHoldoverExpire (keeps_self h) (Change.le_self _)
  | .eventOutputArm .. => keeps_execEventOutputArm (keeps_self h) (Change.le_self _)
  | .eventOutputEdge .. => keeps_execEventOutputEdge (keeps_self h) (Change.le_self _)
  | .ppsOutPulse => keeps_execPpsOutPulse (keeps_self h) (Change.le_self _)
  | .captureEdge .. => keeps_execCaptureEdge (keeps_self h) (Change.le_self _)
  | .capturePop .. => keeps_execCapturePop (keeps_self h) (Change.le_self _)
  | .todHintLapse => keeps_execTodHintLapse (keeps_self h) (Change.le_self _)
  | .ppsSourceTimeout => keeps_execPpsSourceTimeout (keeps_self h) (Change.le_self _)
  | .rclkSquelchChange .. => keeps_execRclkSquelchChange (keeps_self h) (Change.le_self _)
  | .frameStart .. => keeps_execFrameStart (keeps_self h) (Change.le_self _)
  | .frameEnd .. => keeps_execFrameEnd (keeps_self h) (Change.le_self _)
  | .frameReady .. => keeps_execFrameReady (keeps_self h) (Change.le_self _)
  | .headerDispatch .. => keeps_execHeaderDispatch (keeps_self h) (Change.le_self _)
  | .strandComplete .. => keeps_execStrandComplete (keeps_self h) (Change.le_self _)
  | .reorderRelease .. => keeps_execReorderRelease (keeps_self h) (Change.le_self _)
  | .fabricEntry .. => keeps_execFabricEntry (keeps_self h) (Change.le_self _)
  | .spillReturn .. => keeps_execSpillReturn (keeps_self h) (Change.le_self _)
  | .cellGrant => keeps_execCellGrant (keeps_self h) (Change.le_self _)
  | .cellWrite .. => keeps_execCellWrite (keeps_self h) (Change.le_self _)
  | .policerCorrection .. => keeps_execPolicerCorrection (keeps_self h) (Change.le_self _)
  | .policerRefresh .. => keeps_execPolicerRefresh (keeps_self h) (Change.le_self _)
  | .startDecision .. => keeps_execStartDecision (keeps_self h) (Change.le_self _)
  | .transmitStart .. => keeps_execTransmitStart (keeps_self h) (Change.le_self _)
  | .cellRead .. => keeps_execCellRead (keeps_self h) (Change.le_self _)
  | .transmitEnd .. => keeps_execTransmitEnd (keeps_self h) (Change.le_self _)
  | .cellTransmitFree .. => keeps_execCellTransmitFree (keeps_self h) (Change.le_self _)
  | .walkerFree .. => keeps_execWalkerFree (keeps_self h) (Change.le_self _)
  | .reclaimSweepStart .. => keeps_execReclaimSweepStart (keeps_self h) (Change.le_self _)
  | .reclaimSweepEnd .. => keeps_execReclaimSweepEnd (keeps_self h) (Change.le_self _)
  | .cbDataScrubVisit .. => keeps_execCbDataScrubVisit (keeps_self h) (Change.le_self _)
  | .scrubWriteBack .. => keeps_execScrubWriteBack (keeps_self h) (Change.le_self _)
  | .descriptorScrubVisit .. => keeps_execDescriptorScrubVisit (keeps_self h) (Change.le_self _)
  | .pageClose .. => keeps_execPageClose (keeps_self h) (Change.le_self _)
  | .pageWriteComplete .. => keeps_execPageWriteComplete (keeps_self h) (Change.le_self _)
  | .readbackIssue .. => keeps_execReadbackIssue (keeps_self h) (Change.le_self _)
  | .pageReadComplete .. => keeps_execPageReadComplete (keeps_self h) (Change.le_self _)
  | .deepExit .. => keeps_execDeepExit (keeps_self h) (Change.le_self _)
  | .hbmScrubVisit .. => keeps_execHbmScrubVisit (keeps_self h) (Change.le_self _)
  | .stackFatalFault .. => keeps_execStackFatalFault (keeps_self h) (Change.le_self _)
  | .stackDrainComplete .. => keeps_execStackDrainComplete (keeps_self h) (Change.le_self _)
  | .pauseLoadApply .. => keeps_execPauseLoadApply (keeps_self h) (Change.le_self _)
  | .pauseTimerExpire .. => keeps_execPauseTimerExpire (keeps_self h) (Change.le_self _)
  | .pfcGenerate .. => keeps_execPfcGenerate (keeps_self h) (Change.le_self _)
  | .pfcRefresh .. => keeps_execPfcRefresh (keeps_self h) (Change.le_self _)
  | .linkLoss .. => keeps_execLinkLoss (keeps_self h) (Change.le_self _)
  | .linkUp .. => keeps_execLinkUp (keeps_self h) (Change.le_self _)
  | .holdDeadline .. => keeps_execHoldDeadline (keeps_self h) (Change.le_self _)
  | .wakeLinkUp .. => keeps_execWakeLinkUp (keeps_self h) (Change.le_self _)
  | .gateEntryBoundary .. => keeps_execGateEntryBoundary (keeps_self h) (Change.le_self _)
  | .gclCycleStart .. => keeps_execGclCycleStart (keeps_self h) (Change.le_self _)
  | .gclSwap .. => keeps_execGclSwap (keeps_self h) (Change.le_self _)
  | .gclCycStartWrite .. => keeps_execGclCycStartWrite (keeps_self h) (Change.le_self _)
  | .gclSwapArm .. => keeps_execGclSwapArm (keeps_self h) (Change.le_self _)
  | .tbScrubVisit .. => keeps_execTbScrubVisit (keeps_self h) (Change.le_self _)
  | .learnRequestServe .. => keeps_execLearnRequestServe (keeps_self h) (Change.le_self _)
  | .scanPass .. => keeps_execScanPass (keeps_self h) (Change.le_self _)
  | .noticeRingDelivery .. => keeps_execNoticeRingDelivery (keeps_self h) (Change.le_self _)
  | .clsScrubVisit .. => keeps_execClsScrubVisit (keeps_self h) (Change.le_self _)
  | .fwdScrubVisit .. => keeps_execFwdScrubVisit (keeps_self h) (Change.le_self _)
  | .shadowRestore .. => keeps_execShadowRestore (keeps_self h) (Change.le_self _)
  | .prefixBankInsert .. => keeps_execPrefixBankInsert (keeps_self h) (Change.le_self _)
  | .prefixBankDelete .. => keeps_execPrefixBankDelete (keeps_self h) (Change.le_self _)
  | .ecmpRangeFree .. => keeps_execEcmpRangeFree (keeps_self h) (Change.le_self _)
  | .laneLock .. => keeps_execLaneLock (keeps_self h) (Change.le_self _)
  | .laneLockLoss .. => keeps_execLaneLockLoss (keeps_self h) (Change.le_self _)
  | .cemondCommit .. => keeps_execCemondCommit (keeps_self h) (Change.le_self _)
  | .cemondCommitApply .. => keeps_execCemondCommitApply (keeps_self h) (Change.le_self _)
  | .idleEntry .. => keeps_execIdleEntry (keeps_self h) (Change.le_self _)
  | .idleExit .. => keeps_execIdleExit (keeps_self h) (Change.le_self _)
  | .idleResume .. => keeps_execIdleResume (keeps_self h) (Change.le_self _)
  | .rxIdleEnter .. => keeps_execRxIdleEnter (keeps_self h) (Change.le_self _)
  | .rxSignalDetect .. => keeps_execRxSignalDetect (keeps_self h) (Change.le_self _)
  | .rxResumeMarker .. => keeps_execRxResumeMarker (keeps_self h) (Change.le_self _)
  | .rxResumeTimeout .. => keeps_execRxResumeTimeout (keeps_self h) (Change.le_self _)
  | .mbInPost .. => keeps_execMbInPost (keeps_self h) (Change.le_self _)
  | .mbInConsume .. => keeps_execMbInConsume (keeps_self h) (Change.le_self _)
  | .mbOutPost .. => keeps_execMbOutPost (keeps_self h) (Change.le_self _)
  | .mbOutConsume .. => keeps_execMbOutConsume (keeps_self h) (Change.le_self _)
  | .mbNewInc .. => keeps_execMbNewInc (keeps_self h) (Change.le_self _)
  | .incarnationApply .. => keeps_execIncarnationApply (keeps_self h) (Change.le_self _)
  | .doorbellH2dSet .. => keeps_execDoorbellH2dSet (keeps_self h) (Change.le_self _)
  | .doorbellH2dClear .. => keeps_execDoorbellH2dClear (keeps_self h) (Change.le_self _)
  | .doorbellD2hSet .. => keeps_execDoorbellD2hSet (keeps_self h) (Change.le_self _)
  | .doorbellD2hClear .. => keeps_execDoorbellD2hClear (keeps_self h) (Change.le_self _)
  | .registerWrite .. => keeps_execRegisterWrite (keeps_self h) (Change.le_self _)
  | .aliasSet .. => keeps_execAliasSet (keeps_self h) (Change.le_self _)
  | .aliasClear .. => keeps_execAliasClear (keeps_self h) (Change.le_self _)
  | .aliasToggle .. => keeps_execAliasToggle (keeps_self h) (Change.le_self _)
  | .rcRead .. => keeps_execRcRead (keeps_self h) (Change.le_self _)
  | .holdingSumRead .. => keeps_execHoldingSumRead (keeps_self h) (Change.le_self _)
  | .cntSnapRequest .. => keeps_execCntSnapRequest (keeps_self h) (Change.le_self _)
  | .firmwareSnapshot => keeps_execFirmwareSnapshot (keeps_self h) (Change.le_self _)
  | .vectorFire .. => keeps_execVectorFire (keeps_self h) (Change.le_self _)
  | .dmaTailWrite .. => keeps_execDmaTailWrite (keeps_self h) (Change.le_self _)
  | .dmaRxFrameWrite .. => keeps_execDmaRxFrameWrite (keeps_self h) (Change.le_self _)
  | .dmaCoalesceTimer .. => keeps_execDmaCoalesceTimer (keeps_self h) (Change.le_self _)
  | .dmaTxFrameFetch .. => keeps_execDmaTxFrameFetch (keeps_self h) (Change.le_self _)
  | .tsRingConsWrite .. => keeps_execTsRingConsWrite (keeps_self h) (Change.le_self _)
  | .treeRemoteAccess .. => keeps_execTreeRemoteAccess (keeps_self h) (Change.le_self _)
  | .remoteReadTimeout .. => keeps_execRemoteReadTimeout (keeps_self h) (Change.le_self _)
  | .rhogenPacketReceive .. => keeps_execRhogenPacketReceive (keeps_self h) (Change.le_self _)
  | .rhogenHelloReceive .. => keeps_execRhogenHelloReceive (keeps_self h) (Change.le_self _)
  | .rhogenHelloTimer .. => keeps_execRhogenHelloTimer (keeps_self h) (Change.le_self _)
  | .rhogenAckTimer .. => keeps_execRhogenAckTimer (keeps_self h) (Change.le_self _)
  | .rhogenReplayTimeout .. => keeps_execRhogenReplayTimeout (keeps_self h) (Change.le_self _)
  | .rhogenLinkDown .. => keeps_execRhogenLinkDown (keeps_self h) (Change.le_self _)
  | .nodeEnumerate .. => keeps_execNodeEnumerate (keeps_self h) (Change.le_self _)
  | .hello .. => keeps_execHello (keeps_self h) (Change.le_self _)
  | .echo .. => keeps_execEcho (keeps_self h) (Change.le_self _)
  | .eventLogRead .. => keeps_execEventLogRead (keeps_self h) (Change.le_self _)
  | .schedule .. => keeps_execSchedule (keeps_self h) (Change.le_self _)
  | .scheduleCancel .. => keeps_execScheduleCancel (keeps_self h) (Change.le_self _)
  | .scheduleList .. => keeps_execScheduleList (keeps_self h) (Change.le_self _)
  | .portConfig .. => keeps_execPortConfig (keeps_self h) (Change.le_self _)
  | .portModeSet .. => keeps_execPortModeSet (keeps_self h) (Change.le_self _)
  | .portModeGet .. => keeps_execPortModeGet (keeps_self h) (Change.le_self _)
  | .portStatusGet .. => keeps_execPortStatusGet (keeps_self h) (Change.le_self _)
  | .wakeSet .. => keeps_execWakeSet (keeps_self h) (Change.le_self _)
  | .clsWrite .. => keeps_execClsWrite (keeps_self h) (Change.le_self _)
  | .clsRead .. => keeps_execClsRead (keeps_self h) (Change.le_self _)
  | .clsInvalidate .. => keeps_execClsInvalidate (keeps_self h) (Change.le_self _)
  | .polSet .. => keeps_execPolSet (keeps_self h) (Change.le_self _)
  | .polGet .. => keeps_execPolGet (keeps_self h) (Change.le_self _)
  | .ingPortSet .. => keeps_execIngPortSet (keeps_self h) (Change.le_self _)
  | .ingPortGet .. => keeps_execIngPortGet (keeps_self h) (Change.le_self _)
  | .fdbInsert .. => keeps_execFdbInsert (keeps_self h) (Change.le_self _)
  | .fdbDelete .. => keeps_execFdbDelete (keeps_self h) (Change.le_self _)
  | .fdbSearch .. => keeps_execFdbSearch (keeps_self h) (Change.le_self _)
  | .fdbNext .. => keeps_execFdbNext (keeps_self h) (Change.le_self _)
  | .fdbFlushPort .. => keeps_execFdbFlushPort (keeps_self h) (Change.le_self _)
  | .fdbAgeSet .. => keeps_execFdbAgeSet (keeps_self h) (Change.le_self _)
  | .fdbLearnSet .. => keeps_execFdbLearnSet (keeps_self h) (Change.le_self _)
  | .fdbNotifySet .. => keeps_execFdbNotifySet (keeps_self h) (Change.le_self _)
  | .vlanSet .. => keeps_execVlanSet (keeps_self h) (Change.le_self _)
  | .vlanGet .. => keeps_execVlanGet (keeps_self h) (Change.le_self _)
  | .pfxInsert .. => keeps_execPfxInsert (keeps_self h) (Change.le_self _)
  | .pfxDelete .. => keeps_execPfxDelete (keeps_self h) (Change.le_self _)
  | .pfxSearch .. => keeps_execPfxSearch (keeps_self h) (Change.le_self _)
  | .pfxLookup .. => keeps_execPfxLookup (keeps_self h) (Change.le_self _)
  | .pfxNext .. => keeps_execPfxNext (keeps_self h) (Change.le_self _)
  | .pfxRead .. => keeps_execPfxRead (keeps_self h) (Change.le_self _)
  | .pfxSelSet .. => keeps_execPfxSelSet (keeps_self h) (Change.le_self _)
  | .nhSet .. => keeps_execNhSet (keeps_self h) (Change.le_self _)
  | .nhGet .. => keeps_execNhGet (keeps_self h) (Change.le_self _)
  | .ecmpSet .. => keeps_execEcmpSet (keeps_self h) (Change.le_self _)
  | .ecmpMemberSet .. => keeps_execEcmpMemberSet (keeps_self h) (Change.le_self _)
  | .ecmpGet .. => keeps_execEcmpGet (keeps_self h) (Change.le_self _)
  | .ecmpHashSet .. => keeps_execEcmpHashSet (keeps_self h) (Change.le_self _)
  | .rifSet .. => keeps_execRifSet (keeps_self h) (Change.le_self _)
  | .rifBind .. => keeps_execRifBind (keeps_self h) (Change.le_self _)
  | .rifGet .. => keeps_execRifGet (keeps_self h) (Change.le_self _)
  | .replSet .. => keeps_execReplSet (keeps_self h) (Change.le_self _)
  | .replGet .. => keeps_execReplGet (keeps_self h) (Change.le_self _)
  | .fabStgSet .. => keeps_execFabStgSet (keeps_self h) (Change.le_self _)
  | .fabStgGet .. => keeps_execFabStgGet (keeps_self h) (Change.le_self _)
  | .cbPoolSet .. => keeps_execCbPoolSet (keeps_self h) (Change.le_self _)
  | .cbPoolGet .. => keeps_execCbPoolGet (keeps_self h) (Change.le_self _)
  | .cbQuarList .. => keeps_execCbQuarList (keeps_self h) (Change.le_self _)
  | .cbQuarRelease .. => keeps_execCbQuarRelease (keeps_self h) (Change.le_self _)
  | .cbRetire .. => keeps_execCbRetire (keeps_self h) (Change.le_self _)
  | .cbReclaim .. => keeps_execCbReclaim (keeps_self h) (Change.le_self _)
  | .cbScrubSet .. => keeps_execCbScrubSet (keeps_self h) (Change.le_self _)
  | .dtQueueSet .. => keeps_execDtQueueSet (keeps_self h) (Change.le_self _)
  | .dtQueueGet .. => keeps_execDtQueueGet (keeps_self h) (Change.le_self _)
  | .dtStackRetire .. => keeps_execDtStackRetire (keeps_self h) (Change.le_self _)
  | .dtPageRetire .. => keeps_execDtPageRetire (keeps_self h) (Change.le_self _)
  | .dtPageRelease .. => keeps_execDtPageRelease (keeps_self h) (Change.le_self _)
  | .dtScrubSet .. => keeps_execDtScrubSet (keeps_self h) (Change.le_self _)
  | .dtStatusGet .. => keeps_execDtStatusGet (keeps_self h) (Change.le_self _)
  | .fcPortSet .. => keeps_execFcPortSet (keeps_self h) (Change.le_self _)
  | .fcPortGet .. => keeps_execFcPortGet (keeps_self h) (Change.le_self _)
  | .qmQueueSet .. => keeps_execQmQueueSet (keeps_self h) (Change.le_self _)
  | .qmQueueGet .. => keeps_execQmQueueGet (keeps_self h) (Change.le_self _)
  | .qmPortSet .. => keeps_execQmPortSet (keeps_self h) (Change.le_self _)
  | .qmPortFlush .. => keeps_execQmPortFlush (keeps_self h) (Change.le_self _)
  | .schPortSet .. => keeps_execSchPortSet (keeps_self h) (Change.le_self _)
  | .schQueueSet .. => keeps_execSchQueueSet (keeps_self h) (Change.le_self _)
  | .schGet .. => keeps_execSchGet (keeps_self h) (Change.le_self _)
  | .gclSet .. => keeps_execGclSet (keeps_self h) (Change.le_self _)
  | .gclCancel .. => keeps_execGclCancel (keeps_self h) (Change.le_self _)
  | .gclGet .. => keeps_execGclGet (keeps_self h) (Change.le_self _)
  | .cemondSet .. => keeps_execCemondSet (keeps_self h) (Change.le_self _)
  | .cemondGet .. => keeps_execCemondGet (keeps_self h) (Change.le_self _)
  | .cemondLoad .. => keeps_execCemondLoad (keeps_self h) (Change.le_self _)
  | .eyeScanStart .. => keeps_execEyeScanStart (keeps_self h) (Change.le_self _)
  | .eyeScanGet .. => keeps_execEyeScanGet (keeps_self h) (Change.le_self _)
  | .eyeScanStop .. => keeps_execEyeScanStop (keeps_self h) (Change.le_self _)
  | .laneTestSet .. => keeps_execLaneTestSet (keeps_self h) (Change.le_self _)
  | .laneStatusGet .. => keeps_execLaneStatusGet (keeps_self h) (Change.le_self _)
  | .timeGet .. => keeps_execTimeGet (keeps_self h) (Change.le_self _)
  | .timeSet .. => keeps_execTimeSet (keeps_self h) (Change.le_self _)
  | .timeAdj .. => keeps_execTimeAdj (keeps_self h) (Change.le_self _)
  | .timeServoSet .. => keeps_execTimeServoSet (keeps_self h) (Change.le_self _)
  | .timeServoGet .. => keeps_execTimeServoGet (keeps_self h) (Change.le_self _)
  | .todHint .. => keeps_execTodHint (keeps_self h) (Change.le_self _)
  | .timeEvtSet .. => keeps_execTimeEvtSet (keeps_self h) (Change.le_self _)
  | .timePpsSet .. => keeps_execTimePpsSet (keeps_self h) (Change.le_self _)
  | .timeCapSet .. => keeps_execTimeCapSet (keeps_self h) (Change.le_self _)
  | .timeCapGet .. => keeps_execTimeCapGet (keeps_self h) (Change.le_self _)
  | .timeRclkSet .. => keeps_execTimeRclkSet (keeps_self h) (Change.le_self _)
  | .ptpPortSet .. => keeps_execPtpPortSet (keeps_self h) (Change.le_self _)
  | .ptpPortGet .. => keeps_execPtpPortGet (keeps_self h) (Change.le_self _)
  | .tsRingSet .. => keeps_execTsRingSet (keeps_self h) (Change.le_self _)
  | .tsStpSet .. => keeps_execTsStpSet (keeps_self h) (Change.le_self _)
  | .mirSessionSet .. => keeps_execMirSessionSet (keeps_self h) (Change.le_self _)
  | .mirSessionGet .. => keeps_execMirSessionGet (keeps_self h) (Change.le_self _)
  | .mirPortSet .. => keeps_execMirPortSet (keeps_self h) (Change.le_self _)
  | .snapshot .. => keeps_execSnapshot (keeps_self h) (Change.le_self _)
  | .cntRead .. => keeps_execCntRead (keeps_self h) (Change.le_self _)
  | .dmaRingSet .. => keeps_execDmaRingSet (keeps_self h) (Change.le_self _)
  | .dmaRingGet .. => keeps_execDmaRingGet (keeps_self h) (Change.le_self _)
  | .treeStatusGet .. => keeps_execTreeStatusGet (keeps_self h) (Change.le_self _)
  | .rlStatusGet .. => keeps_execRlStatusGet (keeps_self h) (Change.le_self _)
  | .fwImageWrite .. => keeps_execFwImageWrite (keeps_self h) (Change.le_self _)
  | .fwActivate .. => keeps_execFwActivate (keeps_self h) (Change.le_self _)
  | .fwStatusGet .. => keeps_execFwStatusGet (keeps_self h) (Change.le_self _)
  | .protStatusGet .. => keeps_execProtStatusGet (keeps_self h) (Change.le_self _)
  | .ksWrite .. => keeps_execKsWrite (keeps_self h) (Change.le_self _)
  | .ksRead .. => keeps_execKsRead (keeps_self h) (Change.le_self _)
  | .holdupStatusGet .. => keeps_execHoldupStatusGet (keeps_self h) (Change.le_self _)
  | .thmGet .. => keeps_execThmGet (keeps_self h) (Change.le_self _)
  | .pcieDataLinkUp .. => keeps_execPcieDataLinkUp (keeps_self h) (Change.le_self _)
  | .vddUndervoltage => keeps_execVddUndervoltage (keeps_self h) (Change.le_self _)
  | .vholdFirstCharge => keeps_execVholdFirstCharge (keeps_self h) (Change.le_self _)
  | .rhogenBlockLock .. => keeps_execRhogenBlockLock (keeps_self h) (Change.le_self _)

/-- The slot edge keeps what no command may lose and changes nothing but what its own row names. -/
theorem slotEdge_keeps {s : State} (h : Inv s) : Keeps edgeMayChange s (slotEdge s) :=
  keeps_slotEdge (keeps_self h) (Change.le_self _)

/-! ### The step -/

/-- A step keeps, against the state without the command it takes from the queue, all that the command's row of the table, or the
slot edge's, does not name. -/
theorem step_keeps {s t : State} (h : Inv s) (e : step s = .next t) : ∃ m rest, Keeps m { s with pending := rest } t := by
  unfold step at e
  split at e
  case h_1 =>
    cases e
    exact ⟨edgeMayChange, s.pending, slotEdge_keeps h⟩
  case h_2 c rest _ =>
    have hrest : Inv { s with pending := rest } := ⟨h.regs, h.slot, h.whorl⟩
    exact ⟨mayChange c, rest, (exec_keeps hrest c).keeps t e⟩

/-! ### The statements -/

/-- Settles O3: no register is listed at reset, so the register table is canonical. -/
theorem resetMeetsTheInvariant : Obligations.ResetMeetsTheInvariant :=
  ⟨Table.wf_nil regDefault, Nat.two_pow_pos 64, Nat.two_pow_pos 64⟩

/-- Settles O4, from what every step keeps. -/
theorem everyStepKeepsTheInvariant : Obligations.EveryStepKeepsTheInvariant := by
  intro s t h e
  obtain ⟨_, _, hk⟩ := step_keeps h e
  exact keeps_inv hk

/-- Settles O5, from what every step keeps: taking a command from the queue touches neither the fuses nor the log. -/
theorem noStepLosesIdentityOrFuses : Obligations.NoStepLosesIdentityOrFuses := by
  intro s t h e
  obtain ⟨_, _, hk⟩ := step_keeps h e
  exact ⟨hk.code, hk.grade, hk.step, hk.keys, hk.svnBoot, hk.svnFw, hk.revoked, hk.seq⟩

/-- Settles O6: each command stays within its row of the table, and the slot edge within its own. -/
theorem everyCommandChangesOnlyItsParts : Obligations.EveryCommandChangesOnlyItsParts :=
  ⟨fun c _ t h e => ((exec_keeps h c).keeps t e).within, fun _ h => (slotEdge_keeps h).within⟩

end Sys2Proof.Machine

/-!
Writes of the register space (O32): what a write reaches, the bits that a plain write and an aliased write leave in their register, and that all else
stays.
-/
namespace Sys2Proof.Machine
open Sys2Proof

/-! ### The register map is word-aligned -/

/-- Every window, every offset in a window and every stride of the register tables is a multiple of four (R534). -/
theorem desc_aligned (r : Reg) :
    r.desc.win.place.1 % 4 = 0 ∧ r.desc.off % 4 = 0 ∧ ∀ d ∈ r.dims, d.1 % 4 = 0 := by
  have hall : ∀ q ∈ Reg.all, q.desc.win.place.1 % 4 = 0 ∧ q.desc.off % 4 = 0 ∧ ∀ d ∈ q.dims, d.1 % 4 = 0 := by decide +kernel
  exact hall r (List.mem_of_getElem? (reg_all_ctorIdx r))

theorem undigits_aligned {l : List (Nat × Nat)} (h : ∀ d ∈ l, d.1 % 4 = 0) (i : Nat) : undigits l i % 4 = 0 := by
  induction l generalizing i with
  | nil => rfl
  | cons d t ih =>
    have hd := h d (List.mem_cons_self ..)
    have ht := ih (fun e he => h e (List.mem_cons_of_mem _ he))
    simp only [undigits, Nat.add_mod, Nat.mul_mod, hd, ht, Nat.zero_mul, Nat.zero_mod]

/-- Every register stands at a word of the register space. -/
theorem offset_aligned (r : Reg) (i : Nat) : r.offset i % 4 = 0 := by
  obtain ⟨hw, ho, hd⟩ := desc_aligned r
  have := undigits_aligned hd i
  unfold Reg.offset
  omega

/-! ### What a write by the control complex reaches -/

theorem writeOutcome_of_busWrite {who : Sender} {y : Nat} {v : Word} {s t : State} (h : s.busWrite who y v = some t) :
    writeOutcome who y [v] s = .next t := by
  simp only [writeOutcome, busWrites, h]

/-- A well-formed request of one word has the outcome of its write on the bus (R532). -/
theorem registerWrite_of_busWrite {who : Sender} {x : Nat} (h4 : x % 4 = 0) {v : Word} {s t : State} (h : s.busWrite who x v = some t) :
    exec (.registerWrite who x [v] true) s = .next t := by
  change execRegisterWrite who x [v] true s = _
  rw [execRegisterWrite, if_neg (by simp [h4]), if_neg (by decide), writeOutcome_of_busWrite h]

/-- At a main-view offset the bus reaches the register that stands there. -/
theorem busWrite_main {x : Nat} {r : Reg} {i : Nat} (hx : x < 0x2000000) (hp : placeAt x = .reg r i) (v : Word) (s : State) :
    s.busWrite .cc x v = some (s.writeReg .cc 0 r i v) := by
  have ha : aliasOf x = (x, 0) := by
    have hlt : x < 0x8000000 := by omega
    simp only [aliasOf, judgedAt, if_pos hlt]
  simp only [State.busWrite, State.refusal, State.writeWord, partyOf, ha, hp, if_neg (Nat.not_le.2 hx), if_true]

/-- Word `k` of the image of a main-view offset names that offset and `k` (R540). -/
theorem aliasOf_image {x k : Nat} (h4 : x % 4 = 0) (hx : x < 0x2000000) (hk : k < 4) :
    aliasOf (0x8000000 + 4 * (x % 0x2000000) + 4 * k) = (x, k) := by
  have hge : ¬ 0x8000000 + 4 * (x % 0x2000000) + 4 * k < 0x8000000 := by omega
  simp only [aliasOf, judgedAt, if_neg hge, Prod.mk.injEq]
  omega

/-- At a word of the image the bus reaches the set, clear or toggle write of the register at the main-view offset. -/
theorem aliasAt_cc {x k : Nat} {r : Reg} {i : Nat} (h4 : x % 4 = 0) (hx : x < 0x2000000) (hp : placeAt x = .reg r i)
    (hk : k < 4) (hk0 : k ≠ 0) (v : Word) (s : State) :
    aliasAt .cc k x v s = .next (s.aliasWrite .cc 0 k r i v) := by
  have hb : s.busWrite .cc (0x8000000 + 4 * (x % 0x2000000) + 4 * k) v = some (s.aliasWrite .cc 0 k r i v) := by
    simp only [State.busWrite, State.refusal, State.writeWord, partyOf, aliasOf_image h4 hx hk, hp, if_neg (Nat.not_le.2 hx),
      if_neg hk0]
  simp only [aliasAt, h4, ne_eq, not_true_eq_false, if_false, writeOutcome_of_busWrite hb]

/-! ### Noting a write, and what a lost update leaves -/

/-- What the note of a write may change: the meetings of the slot and the record of a lost update (R543). -/
def noteChange : Change := { parts := [.meet, .cnt], regs := [.glbStat, .glbUpdInfo] }

theorem noteChange_may {q : Reg} (h1 : q ≠ .glbStat) (h2 : q ≠ .glbUpdInfo) : noteChange.may q = false := by
  simp [Change.may, noteChange, h1, h2]

/-- A lost update sets a bit of GLB_STAT only: what hardware set in other registers in the slot stays. -/
theorem setNow_noteWrite {s : State} {q : Reg} (hq : q ≠ .glbStat) (j : Nat) (r : Reg) (i mask party : Nat) :
    (s.noteWrite r i mask party).setNow q j = s.setNow q j := by
  have hne : regKey .glbStat 0 ≠ regKey q j := fun e => hq (regKey_inj e).1.symm
  have hl : ∀ x p, (s.updLost x p).setNow q j = s.setNow q j := fun x p => by
    simp [State.setNow, State.updLost, State.raise, F.glbStat_UPD_LOST, hne]
  unfold State.noteWrite
  dsimp only
  split
  · exact hl (r.offset i) party
  · rfl

/-! ### The bits that a plain write leaves -/

theorem regBit_eq (s : State) (r : Reg) (i k : Nat) : s.regBit r i k = (s.reg r i).getLsbD k := BitVec.testBit_toNat _

theorem regBit_setReg_self {s : State} (h : RegsWf s) (r : Reg) (i : Nat) (v : Word) (k : Nat) :
    (s.setReg r i v).regBit r i k = v.getLsbD k := by
  rw [regBit_eq, reg_setReg_self h]

/-- A write of ones clears a bit unless hardware set it in the slot (R16, R541). -/
theorem regBit_w1c {s : State} (h : RegsWf s) (r : Reg) (i b : Nat) {k : Nat} (hk : k < 32) :
    (s.w1c r i b).regBit r i k = (s.regBit r i k && (!b.testBit k || (s.setNow r i).testBit k)) := by
  have hones : Nat.testBit 0xFFFFFFFF k = true := by
    rw [show 0xFFFFFFFF = 2 ^ 32 - 1 from rfl, Nat.testBit_two_pow_sub_one]; exact decide_eq_true hk
  simp only [State.w1c, regBit_setReg_self h, regBit_eq, BitVec.getLsbD_and, BitVec.getLsbD_ofNat, Nat.testBit_or, Nat.testBit_xor,
    Nat.testBit_and, hones, decide_eq_true hk, Bool.true_and, Bool.and_true, Bool.true_xor]

/-- The first half of a plain write: the RW bits take the written value. -/
def State.rwWrite (s : State) (r : Reg) (i : Nat) (v : Word) : State :=
  if r.desc.rw = 0 then s else s.setReg r i ((s.reg r i &&& ~~~word r.desc.rw) ||| (v &&& word r.desc.rw))

theorem plainWrite_eq (s : State) (r : Reg) (i : Nat) (v : Word) :
    s.plainWrite r i v = if r.desc.w1c = 0 then s.rwWrite r i v else (s.rwWrite r i v).w1c r i (v.toNat &&& r.desc.w1c) := rfl

theorem rwWrite_wf {s : State} (h : RegsWf s) (r : Reg) (i : Nat) (v : Word) : RegsWf (s.rwWrite r i v) := by
  unfold State.rwWrite
  split
  · exact h
  · exact wf_setReg h _ _ _

theorem setNow_rwWrite (s : State) (r : Reg) (i : Nat) (v : Word) (q : Reg) (j : Nat) :
    (s.rwWrite r i v).setNow q j = s.setNow q j := by
  unfold State.rwWrite
  split <;> rfl

theorem regBit_rwWrite {s : State} (h : RegsWf s) (r : Reg) (i : Nat) (v : Word) {k : Nat} (hk : k < 32) :
    (s.rwWrite r i v).regBit r i k = if r.desc.rw.testBit k then v.toNat.testBit k else s.regBit r i k := by
  unfold State.rwWrite
  split
  · simp [*]
  · simp only [regBit_setReg_self h, regBit_eq, BitVec.getLsbD_or, BitVec.getLsbD_and, BitVec.getLsbD_not, BitVec.getLsbD_ofNat,
      decide_eq_true hk, Bool.true_and, BitVec.testBit_toNat]
    cases r.desc.rw.testBit k <;> simp

/-- A plain write gives its RW bits the written value and clears its W1C bits written with ones that hardware did not set. -/
theorem regBit_plainWrite {s : State} (h : RegsWf s) (r : Reg) (i : Nat) (v : Word) {k : Nat} (hk : k < 32) :
    (s.plainWrite r i v).regBit r i k
      = ((if r.desc.rw.testBit k then v.toNat.testBit k else s.regBit r i k)
        && (!(v.toNat.testBit k && r.desc.w1c.testBit k) || (s.setNow r i).testBit k)) := by
  rw [plainWrite_eq, ← regBit_rwWrite h r i v hk]
  split
  · simp [*]
  · rw [regBit_w1c (rwWrite_wf h r i v) _ _ _ hk, setNow_rwWrite, Nat.testBit_and]

theorem reg_plainWrite_ne {s : State} (h : RegsWf s) {r q : Reg} {i j : Nat} (v : Word) (hne : ¬ (q = r ∧ j = i)) :
    (s.plainWrite r i v).reg q j = s.reg q j := by
  have hrw : (s.rwWrite r i v).reg q j = s.reg q j := by
    unfold State.rwWrite
    split
    · rfl
    · exact reg_setReg_ne h _ hne
  rw [plainWrite_eq]
  split
  · exact hrw
  · exact (reg_setReg_ne (rwWrite_wf h r i v) _ hne).trans hrw

/-! ### A write of a plain register -/

/-- A present register outside resets and outside the DMA window takes writes: the guard of every access lets it go on. -/
theorem answers_of_present {s : State} {r : Reg} {i : Nat} (hpres : s.regPresent r i = true) (hrst : s.inReset r i = false)
    (hdma : r.desc.win ≠ .dma) : (!s.regPresent r i || s.inReset r i || (r.desc.win == .dma && !s.tree.root)) = false := by
  simp [hpres, hrst, hdma]

/-- The registers whose writes have a rule of their own, beside the protection set-up and the registers that R417 gives a writer. -/
def ruledRegs : List Reg :=
  [.macMode, .qmQmode, .macPortCfg, .tickSchAct, .tsEvtCtl, .tsEvtStart, .tsEvtFrac, .tsEvtPeriod, .tsEvtWidth, .tsRingCons,
    .tsRingStat, .gclCycStart, .gclSwapCtl, .schPshpRate, .schQshpRate, .cntSnap, .dmaRxTail, .dmaTxTail, .dmaRxCfg, .dmaTxCfg,
    .lnCemCommit, .protCtl, .protWdt, .protRst, .protDmaRevoke, .mbH2dDbLo, .mbH2dDbHi, .mbD2hDbLo, .mbD2hDbHi, .mbInSlot, .mbInCtl,
    .mbOutCtl, .mbOutSlot]

/-- The state in which a register write has been noted: one of a register without RW bits is not (R541). -/
def State.noted (s : State) (r : Reg) (i : Nat) (v : Word) : State :=
  if r.desc.rw = 0 then s
  else s.noteWrite r i (if r.desc.mw then v.toNat / 2 ^ 16 % 2 ^ 16 &&& r.desc.rw else r.desc.rw) 0

theorem noted_keeps {M : Change} (hM : noteChange.le M = true) {s : State} (h : Inv s) (r : Reg) (i : Nat) (v : Word) :
    Keeps M s (s.noted r i v) :=
  keeps_ite (fun _ => keeps_self h) fun _ => keeps_noteWrite (keeps_self h) hM

theorem setNow_noted {s : State} {r : Reg} (hr : r ≠ .glbStat) (i : Nat) (v : Word) : (s.noted r i v).setNow r i = s.setNow r i := by
  unfold State.noted
  split
  · rfl
  · exact setNow_noteWrite hr i r i _ 0

/-- The control complex's write of a register without a rule of its own is a plain write, after its note: the last arm of `writeReg`, all
others being of registers excluded here. -/
theorem writeReg_plain {s : State} {r : Reg} {i : Nat} (hpres : s.regPresent r i = true) (hrst : s.inReset r i = false)
    (hdma : r.desc.win ≠ .dma) (hset : r.isSetup = false) (htime : r.ownedTime = false) (hr : r ∉ ruledRegs) (v : Word) :
    s.writeReg .cc 0 r i v = (s.noted r i v).plainWrite r i v := by
  unfold State.writeReg
  simp only [answers_of_present hpres hrst hdma, hset, htime, beq_self_eq_true, Bool.not_true, Bool.and_false, Bool.false_and, Bool.false_eq_true, if_false]
  split
  on_goal -1 => rfl
  all_goals simp [ruledRegs, Reg.ownedTime] at hr htime

/-- What a plain write may change beside its note: its register. -/
def plainChange (r : Reg) : Change := { noteChange with regs := r :: noteChange.regs }

theorem noteChange_le_plainChange (r : Reg) : noteChange.le (plainChange r) = true := by
  simp [Change.le, Change.has, Change.may, noteChange, plainChange]

/-- A noted plain write leaves every part of the state but the meetings of the slot and the counters. -/
theorem notedPlainWrite_within {s : State} (h : Inv s) (r : Reg) (i : Nat) (v : Word) :
    Within (plainChange r) s ((s.noted r i v).plainWrite r i v) :=
  (keeps_plainWrite (noted_keeps (noteChange_le_plainChange r) h r i v) (by simp [Change.may, plainChange])).within

/-! ### A write that sets, clears or toggles -/

/-- The control complex's write at a set, clear or toggle word leaves `aliasWord`, after its note (R540); only the host doorbells have a rule
of their own there. -/
theorem aliasWrite_plain {s : State} {r : Reg} {i : Nat} (hpres : s.regPresent r i = true) (hrst : s.inReset r i = false)
    (hdma : r.desc.win ≠ .dma) (hal : r.desc.aliased = true) (hlo : r ≠ .mbH2dDbLo) (hhi : r ≠ .mbH2dDbHi) (k : Nat) (v : Word) :
    s.aliasWrite .cc 0 k r i v
      = (s.noteWrite r i (v.toNat &&& r.desc.rw) 0).setReg r i (aliasWord k (word r.desc.rw) (s.reg r i) v) := by
  unfold State.aliasWrite
  simp only [answers_of_present hpres hrst hdma, hal, Bool.not_true, Bool.false_eq_true, if_false]

/-- What such a write leaves in its register, and that the data path stays. -/
theorem aliasAt_result {s : State} (h : Inv s) {r : Reg} {i : Nat} (h4 : r.offset i % 4 = 0) (hx : r.offset i < 0x2000000)
    (hp : placeAt (r.offset i) = .reg r i) (hpres : s.regPresent r i = true) (hrst : s.inReset r i = false) (hdma : r.desc.win ≠ .dma)
    (hal : r.desc.aliased = true) (hlo : r ≠ .mbH2dDbLo) (hhi : r ≠ .mbH2dDbHi) {k : Nat} (hk : k < 4) (hk0 : k ≠ 0) (v : Word) :
    ∃ t, aliasAt .cc k (r.offset i) v s = .next t ∧ t.reg r i = aliasWord k (word r.desc.rw) (s.reg r i) v ∧ t.path = s.path := by
  have hn : Keeps noteChange s (s.noteWrite r i (v.toNat &&& r.desc.rw) 0) := keeps_noteWrite (keeps_self h) (Change.le_self _)
  refine ⟨_, aliasAt_cc h4 hx hp hk hk0 v s, ?_, ?_⟩
  · rw [aliasWrite_plain hpres hrst hdma hal hlo hhi, reg_setReg_self hn.regs]
  · rw [aliasWrite_plain hpres hrst hdma hal hlo hhi, setReg_path, hn.within.path rfl]

/-! ### The statement -/

/-- Settles O32: the rest of the state by `notedPlainWrite_within`, the bits of the register by `regBit_plainWrite`, the aliases by
`aliasAt_result`. -/
theorem registerWritesAndAliases : Obligations.RegisterWritesAndAliases := by
  unfold Obligations.RegisterWritesAndAliases
  refine ⟨?plain, ?aliases, ?malformed, ?enables, ?refused⟩
  case plain =>
    intro r i v s h hp hx hpres hrst hdma hset htime hstat hinfo hr
    have hn := noted_keeps (Change.le_self noteChange) h r i v
    have hw := notedPlainWrite_within h r i v
    have hb := (busWrite_main hx hp v s).trans (congrArg some (writeReg_plain hpres hrst hdma hset htime hr v))
    refine ⟨_, registerWrite_of_busWrite (offset_aligned r i) hb, ?_, ?_,
      hw.tick rfl, hw.time rfl, hw.pkts rfl, hw.log rfl, hw.boot rfl, hw.ks rfl, hw.tab rfl, hw.path rfl, hw.lanes rfl, hw.host rfl,
      hw.tree rfl, hw.out rfl⟩
    · intro k hk
      have hb := regBit_plainWrite hn.regs r i v hk
      have hold : (s.noted r i v).regBit r i k = s.regBit r i k := by
        simp only [State.regBit, hn.within.regs r i (noteChange_may hstat hinfo)]
      rw [hold, setNow_noted hstat] at hb
      refine ⟨fun hrw hw1 => ?_, fun hrw hw1 hset => ?_, fun hrw hw1 => ?_⟩
      · simp [hb, hrw, hw1]
      · simp [hb, hrw, hw1, hset]
      · simp [hb, hrw, hw1]
    · intro q j hq1 hq2 hne
      rw [reg_plainWrite_ne hn.regs v hne, hn.within.regs q j (noteChange_may hq1 hq2)]
  case aliases =>
    intro r i v s h hp h4 hx hpres hrst hdma hal hlo hhi hstat hinfo
    exact ⟨aliasAt_result h h4 hx hp hpres hrst hdma hal hlo hhi (k := 1) (by decide) (by decide) v,
      aliasAt_result h h4 hx hp hpres hrst hdma hal hlo hhi (k := 2) (by decide) (by decide) v,
      aliasAt_result h h4 hx hp hpres hrst hdma hal hlo hhi (k := 3) (by decide) (by decide) v⟩
  case malformed =>
    intro who x ws en s hbad
    exact if_pos hbad
  case enables =>
    intro who x v s h4
    change execRegisterWrite who x [v] false s = _
    rw [execRegisterWrite, if_neg (by simp [h4]), if_pos (by decide)]
  case refused =>
    intro who x kind v s h4 href
    exact registerWrite_of_busWrite h4 (by simp only [State.busWrite, href])

end Sys2Proof.Machine

/-!
The slot edge, the clock's events and the accesses of the time registers (O1, O2, O8, O15): the time engine's part of the edge stands apart
from the data path's, which leaves the time and TS_STAT alone.
-/
namespace Sys2Proof.Machine
open Sys2Proof

/-! ### Flags after a field is put -/

theorem flag_of_reg {s t : State} {f : Fld} {i : Nat} (h : t.reg f.reg i = s.reg f.reg i) : t.flag f i = s.flag f i := by
  unfold State.flag State.fld
  rw [h]

theorem flag_setFld_self {s : State} (h : RegsWf s) {f : Fld} (hf : 0 < f.width ∧ f.lo + f.width ≤ 32) (i v : Nat) :
    (s.setFld f i v).flag f i = decide (v % 2 ^ f.width ≠ 0) := by
  simp only [State.flag, fld_setFld_self h hf]

/-- Raising a flag leaves the other fields of its register. -/
theorem flag_raise_other {s : State} (h : RegsWf s) {f g : Fld} (hf : 0 < f.width ∧ f.lo + f.width ≤ 32) (i : Nat) (hr : g.reg = f.reg)
    (hb : g.lo + g.width ≤ f.lo ∨ f.lo + f.width ≤ g.lo) : (s.raise f i).flag g i = s.flag g i := by
  simp only [State.flag, fld_raise_other h hf i hr hb]

/-! ### The time engine's part of the slot edge -/

/-- CLAMP is set where the bounds hold the increment (R405). -/
def State.clamped (s : State) : State := if s.time.clamps then s.raise F.tsStat_CLAMP 0 else s

/-- The whorl has moved by the effective increment (R402). -/
def State.counted (s : State) : State := { s.clamped with time := s.clamped.time.advance }

/-- The slew and the increment have stepped after it (R406 to R408). -/
def State.advanced (s : State) : State := s.counted.slewEdge.incEdge

/-- The time engine's part of the slot edge: the advance, the wrap test where the whorl wraps, and the base load (R412, R413). -/
def State.timeEdge (s : State) : State := (if s.time.wraps then s.advanced.wrapTest else s.advanced).loadEdge

theorem slotEdge_of_unlocked {s : State} (h : s.tick.locked = false) : slotEdge s = s := by simp [slotEdge, h]

/-- The slot count has advanced, and nothing has met in the new slot (R45). -/
def State.nextSlot (s : State) : State := { s with tick := { s.tick with slot := (s.tick.slot + 1) % 2 ^ 64 }, meet := {} }

theorem nextSlot_time (s : State) : s.nextSlot.time = s.time := rfl
theorem nextSlot_slot (s : State) : s.nextSlot.tick.slot = (s.tick.slot + 1) % 2 ^ 64 := rfl
theorem nextSlot_flag (s : State) (f : Fld) (i : Nat) : s.nextSlot.flag f i = s.flag f i := rfl

theorem slotEdge_of_locked {s : State} (h : s.tick.locked = true) : slotEdge s = s.timeEdge.pathEdge.nextSlot := by
  unfold State.timeEdge State.advanced State.counted State.clamped State.nextSlot slotEdge
  rw [if_neg (by rw [h]; decide)]

theorem counted_time (s : State) : s.counted.time = s.time.advance := by
  unfold State.counted State.clamped
  split <;> rfl

theorem counted_tick (s : State) : s.counted.tick = s.tick := by
  unfold State.counted State.clamped
  split <;> rfl

theorem counted_keeps {s : State} (h : Inv s) : Keeps edgeMayChange s s.counted := by
  have hc : Keeps edgeMayChange s s.clamped :=
    keeps_ite (fun _ => keeps_raise (keeps_self h) (by decide) (by decide)) fun _ => keeps_self h
  exact keeps_time _ (fun _ => Nat.mod_lt _ (by decide)) hc (by decide)

theorem advanced_keeps {s : State} (h : Inv s) : Keeps edgeMayChange s s.advanced :=
  keeps_incEdge (keeps_slewEdge (counted_keeps h) (by decide)) (by decide)

theorem wrapTested_keeps {s : State} (h : Inv s) :
    Keeps edgeMayChange s (if s.time.wraps then s.advanced.wrapTest else s.advanced) :=
  keeps_ite (fun _ => keeps_wrapTest (advanced_keeps h) (by decide)) fun _ => advanced_keeps h

theorem timeEdge_keeps {s : State} (h : Inv s) : Keeps edgeMayChange s s.timeEdge := keeps_loadEdge (wrapTested_keeps h) (by decide)

theorem advanced_whorl (s : State) : s.advanced.time.whorl = (s.time.whorl + s.time.effInc) % 2 ^ 64 := by
  simp only [State.advanced, incEdge_whorl, slewEdge_whorl, counted_time, TimeEng.advance]

theorem advanced_parity (s : State) : s.advanced.time.parity = if s.time.wraps then !s.time.parity else s.time.parity := by
  simp only [State.advanced, incEdge_parity, slewEdge_parity, counted_time, TimeEng.advance]

theorem advanced_tick (s : State) : s.advanced.tick = s.tick := by
  simp only [State.advanced, incEdge_tick, slewEdge_tick, counted_tick]

theorem timeEdge_whorl (s : State) : s.timeEdge.time.whorl = (s.time.whorl + s.time.effInc) % 2 ^ 64 := by
  unfold State.timeEdge
  split <;> simp only [loadEdge_whorl, wrapTest_whorl, advanced_whorl]

theorem timeEdge_parity (s : State) : s.timeEdge.time.parity = if s.time.wraps then !s.time.parity else s.time.parity := by
  rw [← advanced_parity]
  unfold State.timeEdge
  split <;> simp only [loadEdge_parity, wrapTest_parity]

theorem timeEdge_tick (s : State) : s.timeEdge.tick = s.tick := by
  unfold State.timeEdge
  split <;> simp only [loadEdge_tick, wrapTest_tick, advanced_tick]

/-! ### The slot edge as a whole -/

theorem slotEdge_time {s : State} (h : s.tick.locked = true) : (slotEdge s).time = s.timeEdge.time := by
  rw [slotEdge_of_locked h, nextSlot_time, pathEdge_time]

theorem slotEdge_slot {s : State} (h : s.tick.locked = true) : (slotEdge s).tick.slot = (s.tick.slot + 1) % 2 ^ 64 := by
  rw [slotEdge_of_locked h, nextSlot_slot, pathEdge_tick, timeEdge_tick]

/-- The data path's edge leaves TS_STAT as the time engine left it. -/
theorem slotEdge_flag_tsStat {s : State} (h : Inv s) (hl : s.tick.locked = true) {f : Fld} (hf : f.reg = .tsStat) :
    (slotEdge s).flag f 0 = s.timeEdge.flag f 0 := by
  have hk : Keeps ⟨[.samp, .path, .host], [.dmaRxTail, .dmaTxTail, .fcStat], false⟩ s.timeEdge s.timeEdge.pathEdge :=
    keeps_pathEdge (keeps_self (keeps_inv (timeEdge_keeps h))) (Change.le_self _)
  rw [slotEdge_of_locked hl, nextSlot_flag]
  exact flag_of_reg (hk.within.regs f.reg 0 (hf ▸ by decide))

theorem slotEdge_netValid {s : State} (h : s.tick.locked = true) : (slotEdge s).netValid = s.timeEdge.netValid := by
  simp only [State.netValid, slotEdge_time h]

/-! ### A wrap -/

theorem wraps_iff (t : TimeEng) : t.wraps = true ↔ 2 ^ 64 ≤ t.whorl + t.effInc := decide_eq_true_iff

/-- The effective increment lies within the bounds of R405. -/
theorem effInc_le (t : TimeEng) : t.effInc ≤ Config.incMax := by
  unfold TimeEng.effInc
  split
  · decide
  · split
    · exact le_rfl
    · omega

/-- At a wrap the whorl loses 2^64. -/
theorem whorl_of_wraps {s : State} (h : Inv s) (hw : s.time.wraps = true) :
    (s.time.whorl + s.time.effInc) % 2 ^ 64 + 2 ^ 64 = s.time.whorl + s.time.effInc := by
  have h1 := (wraps_iff s.time).1 hw
  have h2 := h.whorl
  have h3 : s.time.effInc < 2 ^ 64 := Nat.lt_of_le_of_lt (effInc_le _) (by decide)
  omega

theorem incEdge_frame (s : State) : ∃ inc pend, s.incEdge.time = { s.time with inc := inc, incPend := pend } := by
  unfold State.incEdge
  split
  · exact ⟨_, _, rfl⟩
  · exact ⟨s.time.inc, s.time.incPend, rfl⟩

theorem slewEdge_frame (s : State) :
    ∃ left delta pend, s.slewEdge.time = { s.time with slewLeft := left, slewDelta := delta, slewPend := pend } := by
  unfold State.slewEdge
  split
  · exact ⟨_, _, _, rfl⟩
  · refine ⟨s.time.slewLeft - 1, s.time.slewDelta, s.time.slewPend, ?_⟩
    dsimp only
    split <;> rfl

/-- The advance leaves the bases, their ARM bits and the waiting load alone. -/
theorem advanced_bases (s : State) : s.advanced.time.loadPend = s.time.loadPend ∧ s.advanced.time.todSet = s.time.todSet
    ∧ ∀ o, s.advanced.time.arm o = s.time.arm o := by
  obtain ⟨_, _, hinc⟩ := incEdge_frame s.counted.slewEdge
  obtain ⟨_, _, _, hslew⟩ := slewEdge_frame s.counted
  rw [State.advanced, hinc, hslew, counted_time]
  exact ⟨rfl, rfl, fun _ => rfl⟩

/-- With no load waiting, the base load at the edge leaves all but the waiting loads. -/
theorem loadEdge_of_none {s : State} (h : s.time.loadPend = none) :
    s.loadEdge = { s with time := { s.time with loadPend := s.time.loadSoon, loadSoon := none } } := by
  simp only [State.loadEdge, h]

/-- A wrap onto an unarmed base leaves network time stale, once time of day has been set (R413, R414). -/
theorem wrapTest_of_unarmed {s : State} (h : s.time.arm s.time.parity = false) (hs : s.time.todSet = true) :
    s.wrapTest = (({ s with time := { s.time with staleAct := true, nextLoadDue := true } }).raise F.tsStat_STALE 0).count .tsStaleCnt 0 1 := by
  simp only [State.wrapTest, h, hs, Bool.false_eq_true, if_false, if_true]

/-- A wrap onto an unarmed next base, with no load waiting: network time is not valid, and STALE is set. -/
theorem timeEdge_stale {s : State} (h : Inv s) (hw : s.time.wraps = true) (hp : s.time.loadPend = none) (hs : s.time.todSet = true)
    (ha : s.time.arm (!s.time.parity) = false) : s.timeEdge.netValid = false ∧ s.timeEdge.flag F.tsStat_STALE 0 = true := by
  obtain ⟨hpend, htod, harm⟩ := advanced_bases s
  have hpar : s.advanced.time.parity = !s.time.parity := by rw [advanced_parity, if_pos hw]
  have hwt := wrapTest_of_unarmed (s := s.advanced) (by rw [hpar, harm, ha]) (htod.trans hs)
  have hload : s.advanced.wrapTest.time.loadPend = none := by rw [hwt]; exact hpend.trans hp
  unfold State.timeEdge
  rw [if_pos hw, loadEdge_of_none hload, hwt]
  refine ⟨?_, ?_⟩
  · simp [State.netValid]
  · simpa using flag_raise_self (s := { s.advanced with time := { s.advanced.time with staleAct := true, nextLoadDue := true } })
      (advanced_keeps h).regs (f := F.tsStat_STALE) (by decide) 0

/-! ### The end of a slew -/

theorem setArm_slewLeft (t : TimeEng) (o b : Bool) : (t.setArm o b).slewLeft = t.slewLeft := by unfold TimeEng.setArm; split <;> rfl
theorem setBase_slewLeft (t : TimeEng) (o : Bool) (b : NetBase) : (t.setBase o b).slewLeft = t.slewLeft := by
  unfold TimeEng.setBase; split <;> rfl

theorem loadBase_slewLeft (s : State) (o : Bool) (b : NetBase) : (s.loadBase o b).time.slewLeft = s.time.slewLeft := by
  unfold State.loadBase; dsimp only; split <;> simp [setBase_slewLeft, setArm_slewLeft]

theorem loadEdge_slewLeft (s : State) : s.loadEdge.time.slewLeft = s.time.slewLeft := by
  unfold State.loadEdge; split
  · exact loadBase_slewLeft _ _ _
  · rfl

theorem wrapTest_slewLeft (s : State) : s.wrapTest.time.slewLeft = s.time.slewLeft := by
  unfold State.wrapTest; dsimp only; split
  · split <;> simp [setArm_slewLeft]
  · split <;> simp

/-- The wrap test and the base load raise only STALE, BASE_JUMP and ACT_LOAD: SLEW_DONE stays. -/
theorem wrapTest_slewDone {s : State} (h : RegsWf s) : s.wrapTest.flag F.tsStat_SLEW_DONE 0 = s.flag F.tsStat_SLEW_DONE 0 := by
  unfold State.wrapTest; dsimp only; split
  · split
    · rfl
    · exact flag_raise_other (s := { s with time := _ }) h (by decide) 0 rfl (by decide)
  · split
    · exact flag_raise_other (s := { s with time := _ }) h (by decide) 0 rfl (by decide)
    · rfl

theorem loadBase_slewDone {s : State} (h : RegsWf s) (o : Bool) (b : NetBase) :
    (s.loadBase o b).flag F.tsStat_SLEW_DONE 0 = s.flag F.tsStat_SLEW_DONE 0 := by
  unfold State.loadBase; dsimp only; split
  · exact flag_raise_other (s := { s with time := _ }) h (by decide) 0 rfl (by decide)
  · rfl

theorem loadEdge_slewDone {s : State} (h : RegsWf s) : s.loadEdge.flag F.tsStat_SLEW_DONE 0 = s.flag F.tsStat_SLEW_DONE 0 := by
  unfold State.loadEdge; split
  · exact loadBase_slewDone (s := { s with time := { s.time with loadPend := s.time.loadSoon, loadSoon := none } }) h _ _
  · rfl

/-- The last slot of a slew that no write ends clears it and raises SLEW_DONE (R407). -/
theorem slewEdge_last {s : State} (h1 : s.time.slewLeft = 1) (h2 : s.time.slewPend = none) :
    s.slewEdge = ({ s with time := { s.time with slewLeft := 0 } }).raise F.tsStat_SLEW_DONE 0 := by
  simp only [State.slewEdge, h1, h2, if_true]

theorem advanced_last {s : State} (h : Inv s) (h1 : s.time.slewLeft = 1) (h2 : s.time.slewPend = none) :
    s.advanced.time.slewLeft = 0 ∧ s.advanced.flag F.tsStat_SLEW_DONE 0 = true := by
  have hinc : ∀ u : State, u.incEdge.time.slewLeft = u.time.slewLeft ∧ u.incEdge.regs = u.regs := fun u => by
    unfold State.incEdge; split <;> exact ⟨rfl, rfl⟩
  have hlast := slewEdge_last (s := s.counted) (by rw [counted_time]; exact h1) (by rw [counted_time]; exact h2)
  rw [State.advanced, hlast]
  refine ⟨(hinc _).1, ?_⟩
  rw [flag_of_regs (hinc _).2]
  exact flag_raise_self (s := { s.counted with time := { s.counted.time with slewLeft := 0 } }) (counted_keeps h).regs (by decide) 0

theorem timeEdge_last {s : State} (h : Inv s) (h1 : s.time.slewLeft = 1) (h2 : s.time.slewPend = none) :
    s.timeEdge.time.slewLeft = 0 ∧ s.timeEdge.flag F.tsStat_SLEW_DONE 0 = true := by
  obtain ⟨hl, hd⟩ := advanced_last h h1 h2
  unfold State.timeEdge
  rw [loadEdge_slewLeft, loadEdge_slewDone (wrapTested_keeps h).regs]
  split
  · rw [wrapTest_slewLeft, wrapTest_slewDone (advanced_keeps h).regs]; exact ⟨hl, hd⟩
  · exact ⟨hl, hd⟩

/-! ### The statements on the step -/

/-- Settles O1: the step is defined by the front of the queue. -/
theorem stepRunsTheFrontCommand : Obligations.StepRunsTheFrontCommand := fun _ _ _ => rfl

theorem step_of_idle {s : State} (h : s.pending = []) : step s = .next (slotEdge s) := by simp only [step, h]

/-- Settles O2: an idle step is the slot edge, whose time is that of `timeEdge`. -/
theorem anEmptyQueueIsASlotEdge : Obligations.AnEmptyQueueIsASlotEdge := by
  intro s hq
  rw [step_of_idle hq]
  refine ⟨fun hl => by rw [slotEdge_of_unlocked hl], fun hl => ⟨_, rfl, slotEdge_slot hl, ?_, ?_⟩⟩
  · rw [slotEdge_time hl, timeEdge_whorl]
  · rw [slotEdge_time hl, timeEdge_parity]
    simp only [wraps_iff]

/-! ### Reads -/

theorem readAccess_of_none {s : State} {who : Sender} {x : Nat} (h : s.refusal who x false = none) (k : State → State × Word) :
    s.readAccess who x k = (k s).1.emit (.readData who x (k s).2) := by simp only [State.readAccess, h]

theorem access_of_none {s : State} {who : Sender} {x : Nat} {write : Bool} (h : s.refusal who x write = none) (k : State → State) :
    s.access who x write k = k s := by simp only [State.access, h]

/-- The record of a refused access counts a violation and sends nothing (R593). -/
theorem violation_result (s : State) (kind sid addr : Nat) (write : Bool) :
    (s.violation kind sid addr write).cnt = (s.count .protViolCnt 0 1).cnt ∧ (s.violation kind sid addr write).out = s.out := by
  have hrec : ∀ (m : State) (w : Word),
      (((m.setReg .protViolAddr 0 (word addr)).setReg .protViolInfo 0 w).count .protViolCnt 0 1).cnt = (m.count .protViolCnt 0 1).cnt
      ∧ (((m.setReg .protViolAddr 0 (word addr)).setReg .protViolInfo 0 w).count .protViolCnt 0 1).out = m.out := fun _ _ => ⟨rfl, rfl⟩
  refine ⟨(hrec _ _).1.trans ?_, (hrec _ _).2.trans ?_⟩ <;> split <;> rfl

/-- A refused read returns 0 and is recorded (R593). -/
theorem readAccess_of_some {s : State} {who : Sender} {x kind : Nat} (h : s.refusal who x false = some kind) (k : State → State × Word) :
    (s.readAccess who x k).out = s.out ++ [.readData who x 0] ∧ (s.readAccess who x k).cnt = (s.count .protViolCnt 0 1).cnt := by
  simp only [State.readAccess, h]
  obtain ⟨hcnt, hout⟩ := violation_result s kind (s.sid who) x false
  exact ⟨congrArg (· ++ _) hout, hcnt⟩

theorem setMeet_time (s : State) (m : Meet) : ({ s with meet := m }).time = s.time := rfl

theorem noteWrite_time (s : State) (r : Reg) (i mask party : Nat) : (s.noteWrite r i mask party).time = s.time := by
  refine (setMeet_time _ _).trans ?_
  split
  · rw [State.updLost, count_time, setReg_time, raise_time]
  · rfl

/-- The read of the slot count's low half latches the high half (R67). -/
theorem tickSlotRead_of_none {s : State} {who : Sender} (h : s.refusal who (Reg.tickSlotLo.offset 0) false = none) :
    exec (.tickSlotRead who) s = .next ((s.setReg .tickSlotHi 0 (word (s.tick.slot / 2 ^ 32))).emit
      (.readData who (Reg.tickSlotLo.offset 0) (word s.tick.slot))) := by
  change execTickSlotRead who s = _
  rw [execTickSlotRead, readAccess_of_none h]

/-! ### The clock's events -/

/-- Hardware puts LOCK and raises another flag of TICK_STAT (R43). -/
theorem lock_and_raise {s : State} (h : RegsWf s) (v : Nat) {f : Fld} (hr : f.reg = .tickStat) (hf : 0 < f.width ∧ f.lo + f.width ≤ 32)
    (hlo : 1 ≤ f.lo) : ((s.setFld F.tickStat_LOCK 0 v).raise f 0).flag F.tickStat_LOCK 0 = decide (v % 2 ≠ 0)
      ∧ ((s.setFld F.tickStat_LOCK 0 v).raise f 0).flag f 0 = true := by
  have hw := wf_setFld h F.tickStat_LOCK 0 v
  refine ⟨?_, flag_raise_self hw hf 0⟩
  rw [flag_raise_other hw hf 0 (g := F.tickStat_LOCK) hr.symm (Or.inl hlo)]
  exact flag_setFld_self h (by decide) 0 v

/-- Settles O8: each event of the clock puts the fields of TICK_STAT that it names, and nothing of the time engine but at lock. -/
theorem clockAndReferenceEvents : Obligations.ClockAndReferenceEvents := by
  intro s h
  refine ⟨fun hl => ?lock, fun hl hh => ?lost, fun hh => ?restored, fun who href => ?read⟩
  case lock =>
    exact ⟨_, if_neg (by simp [hl]), rfl, rfl, flag_setFld_self (s := { s with
      tick := { s.tick with locked := true, slot := 0 }, time := { s.time with whorl := 0, parity := false } }) h.regs (by decide) 0 1⟩
  case lost =>
    obtain ⟨hlock, hloss⟩ := lock_and_raise (s := { s with tick := { s.tick with refHold := true } }) h.regs 0
      (f := F.tickStat_REF_LOSS) rfl (by decide) (by decide)
    exact ⟨_, if_pos (by simp [hl, hh]), rfl, rfl, rfl, hlock, hloss⟩
  case restored =>
    obtain ⟨hlock, hre⟩ := lock_and_raise (s := { s with tick := { s.tick with refHold := false } }) h.regs 1
      (f := F.tickStat_RELOCK) rfl (by decide) (by decide)
    exact ⟨_, if_pos hh, rfl, rfl, rfl, hlock, hre⟩
  case read =>
    exact ⟨_, tickSlotRead_of_none href, rfl, reg_setReg_self h.regs _ _ _, rfl⟩

/-! ### The time registers -/

theorem setReg_netValid (s : State) (r : Reg) (i : Nat) (v : Word) : (s.setReg r i v).netValid = s.netValid := rfl

theorem latchWhorl_eq (s : State) : s.latchWhorl =
    (((s.setReg .tsWhorlFrac 0 (word (s.time.whorl % 2 ^ 32))).setReg .tsNtNs 0 (word (s.netNs % 1000000000))).setReg .tsNtSecLo 0
      (word (s.netNs / 1000000000))).setReg .tsNtSecHi 0
        (word (b2n s.netValid * 2 ^ 31 + b2n s.time.parity * 2 ^ 30 + s.netNs / 1000000000 / 2 ^ 32 % 2 ^ 16)) := by
  rw [State.latchWhorl, setReg_netValid, setReg_netValid, setReg_netValid, setReg_time, setReg_time, setReg_time]

theorem latchWhorl_out (s : State) : s.latchWhorl.out = s.out := by
  rw [latchWhorl_eq, setReg_out, setReg_out, setReg_out, setReg_out]

/-- The registers that the whorl's read latches (R418). -/
theorem latchWhorl_regs {s : State} (h : RegsWf s) :
    s.latchWhorl.reg .tsWhorlFrac 0 = word (s.time.whorl % 2 ^ 32) ∧ s.latchWhorl.reg .tsNtNs 0 = word (s.netNs % 1000000000)
    ∧ s.latchWhorl.reg .tsNtSecLo 0 = word (s.netNs / 1000000000)
    ∧ s.latchWhorl.reg .tsNtSecHi 0
      = word (b2n s.netValid * 2 ^ 31 + b2n s.time.parity * 2 ^ 30 + s.netNs / 1000000000 / 2 ^ 32 % 2 ^ 16) := by
  have h1 := wf_setReg h .tsWhorlFrac 0 (word (s.time.whorl % 2 ^ 32))
  have h2 := wf_setReg h1 .tsNtNs 0 (word (s.netNs % 1000000000))
  have h3 := wf_setReg h2 .tsNtSecLo 0 (word (s.netNs / 1000000000))
  rw [latchWhorl_eq]
  refine ⟨?_, ?_, ?_, reg_setReg_self h3 _ _ _⟩
  · rw [reg_setReg_ne h3 _ (by decide), reg_setReg_ne h2 _ (by decide), reg_setReg_ne h1 _ (by decide), reg_setReg_self h]
  · rw [reg_setReg_ne h3 _ (by decide), reg_setReg_ne h2 _ (by decide), reg_setReg_self h1]
  · rw [reg_setReg_ne h3 _ (by decide), reg_setReg_self h2]

theorem b2n_le_one (b : Bool) : b2n b ≤ 1 := by cases b <;> decide

theorem b2n_ne_zero (b : Bool) : decide (b2n b ≠ 0) = b := by cases b <;> rfl

/-- The fields of TS_NT_SEC_HI in a word that holds VALID, PARITY and the seconds' high half. -/
theorem secHi_fields (v p : Bool) (n : Nat) :
    ((word (b2n v * 2 ^ 31 + b2n p * 2 ^ 30 + n % 2 ^ 16)).toNat >>> 31) % 2 ^ 1 = b2n v
    ∧ ((word (b2n v * 2 ^ 31 + b2n p * 2 ^ 30 + n % 2 ^ 16)).toNat >>> 30) % 2 ^ 1 = b2n p
    ∧ ((word (b2n v * 2 ^ 31 + b2n p * 2 ^ 30 + n % 2 ^ 16)).toNat >>> 0) % 2 ^ 16 = n % 2 ^ 16 := by
  have hv := b2n_le_one v
  have hp := b2n_le_one p
  simp only [word, BitVec.toNat_ofNat, Nat.shiftRight_eq_div_pow]
  omega

/-- The fields of TS_NT_SEC_HI that the whorl's read latches (R418). -/
theorem latchWhorl_secHi {s : State} (h : RegsWf s) :
    s.latchWhorl.flag F.tsNtSecHi_VALID 0 = s.netValid ∧ s.latchWhorl.flag F.tsNtSecHi_PARITY 0 = s.time.parity
    ∧ s.latchWhorl.fld F.tsNtSecHi_SEC 0 = s.netNs / 1000000000 / 2 ^ 32 % 2 ^ 16 := by
  obtain ⟨-, -, -, hhi⟩ := latchWhorl_regs h
  obtain ⟨hvalid, hparity, hsec⟩ := secHi_fields s.netValid s.time.parity (s.netNs / 1000000000 / 2 ^ 32)
  refine ⟨?_, ?_, ?_⟩
  · rw [State.flag, State.fld, F.tsNtSecHi_VALID, hhi, hvalid, b2n_ne_zero]
  · rw [State.flag, State.fld, F.tsNtSecHi_PARITY, hhi, hparity, b2n_ne_zero]
  · rw [State.fld, F.tsNtSecHi_SEC, hhi, hsec]

/-- A load of the base that is not active puts and arms it, and leaves PARITY and the active base (R412). -/
theorem loadBase_other (s : State) (b : NetBase) :
    (s.loadBase (!s.time.parity) b).time.parity = s.time.parity ∧ (s.loadBase (!s.time.parity) b).time.active = s.time.active
    ∧ (s.loadBase (!s.time.parity) b).time.next = b ∧ (s.loadBase (!s.time.parity) b).time.arm (!s.time.parity) = true := by
  unfold State.loadBase
  cases hp : s.time.parity <;>
    simp [TimeEng.setBase, TimeEng.setArm, TimeEng.active, TimeEng.next, TimeEng.arm, hp]

/-- The read of the whorl returns its ns and latches the fraction and network time (R418). -/
theorem whorlRead_of_none {s : State} {who : Sender} (h : s.refusal who (Reg.tsWhorlNs.offset 0) false = none) :
    exec (.whorlRead who) s = .next (s.latchWhorl.emit (.readData who (Reg.tsWhorlNs.offset 0) (word s.whorlNs))) := by
  change execWhorlRead who s = _
  rw [execWhorlRead, readAccess_of_none h]

/-- The write of TS_INC_NS commits the increment for the owner of the time registers (R406, R417). -/
theorem tsIncCommit_of_none {s : State} {who : Sender} (h : s.refusal who (Reg.tsIncNs.offset 0) true = none) (v : Word) :
    exec (.tsIncCommit who v) s = .next (if s.ownsTime who then s.writeIncNs v else s) := by
  change execTsIncCommit who v s = _
  rw [execTsIncCommit, access_of_none h]

/-- The write of TS_SLEW_COUNT starts a slew for the owner of the time registers (R407, R417). -/
theorem slewStart_of_none {s : State} {who : Sender} (h : s.refusal who (Reg.tsSlewCount.offset 0) true = none) (v : Word) :
    exec (.slewStart who v) s
      = .next (if s.ownsTime who then (s.noteWrite .tsSlewCount 0 0xFFFFFFFF (partyOf who)).writeSlewCount v else s) := by
  change execSlewStart who v s = _
  rw [execSlewStart, access_of_none h]

/-- The write of TS_BASE_CTL requests a base load for the owner of the time registers (R412, R417). -/
theorem baseLoad_of_none {s : State} {who : Sender} (h : s.refusal who (Reg.tsBaseCtl.offset 0) true = none) (v : Word) :
    exec (.baseLoad who v) s = .next (if s.ownsTime who then s.writeBaseCtl v else s) := by
  change execBaseLoad who v s = _
  rw [execBaseLoad, access_of_none h]

theorem writeSlewCount_time (s : State) (v : Word) : (s.writeSlewCount v).time = { s.time with slewPend := some v.toNat } := rfl

theorem writeBaseCtl_result {s : State} (h : RegsWf s) (v : Word) :
    (s.writeBaseCtl v).flag F.tsBaseCtl_TGT 0 = v.toNat.testBit 30
    ∧ (s.writeBaseCtl v).time
      = { s.time with loadPend := if v.toNat.testBit 31 then some (v.toNat.testBit 30) else s.time.loadPend } := by
  have hput := flag_setFld_self h (f := F.tsBaseCtl_TGT) (by decide) 0 (b2n (v.toNat.testBit 30))
  have hbit : decide (b2n (v.toNat.testBit 30) % 2 ^ 1 ≠ 0) = v.toNat.testBit 30 := by cases v.toNat.testBit 30 <;> rfl
  unfold State.writeBaseCtl
  dsimp only
  split
  · exact ⟨(flag_mk ..).trans (hput.trans hbit), rfl⟩
  · exact ⟨hput.trans hbit, rfl⟩

/-- Firmware's load of the next base at an epoch boundary (R415). -/
theorem nextBaseLoad_of_due {s : State} (hrun : s.fwRunning = true) (hdue : s.time.nextLoadDue = true) (hoff : s.epochOffset = 0)
    (htod : s.time.todSet = true) (hown : s.flag F.tsCtl_HOST_OWN 0 = false) :
    exec .nextBaseLoad s = .next { s.loadNextBase with time := { s.loadNextBase.time with nextLoadDue := false } } :=
  if_pos (by simp only [hrun, hdue, hoff, htod, hown]; rfl)

theorem whorlWrap_of_wraps {s : State} (hl : s.tick.locked = true) (hw : s.time.wraps = true) : exec .whorlWrap s = .next (slotEdge s) :=
  if_pos (by simp only [hl, hw]; rfl)

theorem slewEnd_of_last {s : State} (hl : s.tick.locked = true) (h1 : s.time.slewLeft = 1) (h2 : s.time.slewPend = none) :
    exec .slewEnd s = .next (slotEdge s) :=
  if_pos (by simp only [hl, h1, h2]; rfl)

/-- Settles O15: the reads by `readAccess`, the writes by `access` under the owner of the time registers, the edges by `timeEdge`. -/
theorem timeRegisterAccesses : Obligations.TimeRegisterAccesses := by
  refine ⟨fun who s => ⟨tickSlotRead_of_none, fun k hk => ?refused⟩, fun who s h href => ?whorl, fun who v s href => ?inc,
    fun who v s href => ?slew, fun who v s h href => ?base, fun s hrun hdue hoff htod hown => ?next, fun s h hl hw => ?wrap,
    fun s h hl h1 h2 => ?last⟩
  case refused =>
    exact ⟨_, rfl, readAccess_of_some hk _⟩
  case whorl =>
    obtain ⟨hfrac, hns, hlo, -⟩ := latchWhorl_regs h.regs
    obtain ⟨hvalid, hparity, hsec⟩ := latchWhorl_secHi h.regs
    refine ⟨_, whorlRead_of_none href, congrArg (· ++ _) (latchWhorl_out s), ?_⟩
    rw [emit_reg_eq, emit_reg_eq, emit_reg_eq, emit_flag_eq, emit_flag_eq, emit_fld_eq]
    exact ⟨hfrac, hns, hlo, hvalid, hparity, hsec⟩
  case inc =>
    rw [tsIncCommit_of_none href]
    exact ⟨fun ho => by rw [if_pos ho, State.writeIncNs], fun ho => by rw [ho, if_neg Bool.false_ne_true]⟩
  case slew =>
    rw [slewStart_of_none href]
    refine ⟨fun ho => ⟨_, congrArg _ (if_pos ho), ?_⟩, fun ho => by rw [ho, if_neg Bool.false_ne_true]⟩
    rw [writeSlewCount_time, noteWrite_time]
  case base =>
    rw [baseLoad_of_none href]
    exact ⟨fun ho => ⟨_, congrArg _ (if_pos ho), writeBaseCtl_result h.regs v⟩, fun ho => by rw [ho, if_neg Bool.false_ne_true]⟩
  case next =>
    obtain ⟨hpar, hact, hnext, harm⟩ := loadBase_other s (NetBase.ofNs (s.time.active.total + 2 ^ 32))
    refine ⟨_, nextBaseLoad_of_due hrun hdue hoff htod hown, rfl, hpar, hact, hnext, ?_⟩
    exact (congrArg (fun o => s.loadNextBase.time.arm (!o)) hpar).trans harm
  case wrap =>
    refine ⟨_, whorlWrap_of_wraps hl hw, ?_, ?_, slotEdge_slot hl, fun hp hs ha => ?_⟩
    · rw [slotEdge_time hl, timeEdge_whorl, whorl_of_wraps h hw]
    · rw [slotEdge_time hl, timeEdge_parity, if_pos hw]
    · rw [slotEdge_netValid hl, slotEdge_flag_tsStat h hl rfl]
      exact timeEdge_stale h hw hp hs ha
  case last =>
    obtain ⟨hleft, hdone⟩ := timeEdge_last h h1 h2
    refine ⟨_, slewEnd_of_last hl h1 h2, ?_, ?_, ?_⟩
    · rw [slotEdge_time hl, hleft]
    · rw [slotEdge_flag_tsStat h hl rfl, hdone]
    · rw [slotEdge_time hl, timeEdge_whorl]

end Sys2Proof.Machine

/-!
Scheduled commands (O18): the write of an entry, the entries due in a slot, the placing of a held command and its conversion, each in every
state that meets the invariant; and the one corner in which the statement fails.
-/
namespace Sys2Proof.Machine
open Sys2Proof

/-! ### The write of an entry -/

/-- A plain write puts the written bits into a field all of whose bits are RW. -/
theorem fld_plainWrite {s : State} (h : RegsWf s) {f : Fld} (hf : f.lo + f.width ≤ 32)
    (hrw : ∀ k, k < f.width → f.reg.desc.rw.testBit (f.lo + k) = true) (hw1c : f.reg.desc.w1c = 0) (i : Nat) (v : Word) :
    (s.plainWrite f.reg i v).fld f i = v.toNat / 2 ^ f.lo % 2 ^ f.width := by
  apply Nat.eq_of_testBit_eq
  intro k
  rw [State.fld, Nat.testBit_mod_two_pow, Nat.testBit_shiftRight, Nat.testBit_mod_two_pow, Nat.testBit_div_two_pow]
  by_cases hk : k < f.width
  · have hb := regBit_plainWrite h f.reg i v (k := f.lo + k) (by omega)
    rw [State.regBit, hrw k hk, hw1c] at hb
    rw [decide_eq_true hk, Nat.add_comm k, hb]
    simp
  · simp [hk]

theorem plainWrite_wf {s : State} (h : RegsWf s) (r : Reg) (i : Nat) (v : Word) : RegsWf (s.plainWrite r i v) := by
  rw [plainWrite_eq]
  split
  · exact rwWrite_wf h r i v
  · exact wf_setReg (rwWrite_wf h r i v) _ _ _

theorem plainWrite_time (s : State) (r : Reg) (i : Nat) (v : Word) : (s.plainWrite r i v).time = s.time := by
  rw [plainWrite_eq]; unfold State.rwWrite; split <;> split <;> rfl

theorem plainWrite_path (s : State) (r : Reg) (i : Nat) (v : Word) : (s.plainWrite r i v).path = s.path := by
  rw [plainWrite_eq]; unfold State.rwWrite; split <;> split <;> rfl

/-- Whether a target is due depends on the whorl alone. -/
theorem dueAt_of_time {s t : State} (h : t.time = s.time) (x : Nat) : t.dueAt x = s.dueAt x := by
  rw [State.dueAt, State.dueAt, State.whorlNs, State.whorlNs, h]

/-- What a plain write of an entry's word leaves in its fields: ARM is bit 31, ACTION bits 27 to 24 and HANDLE bits 15 to 0 (R66). -/
theorem schAct_plainWrite {s : State} (h : RegsWf s) (e : Nat) (v : Word) :
    (s.plainWrite .tickSchAct e v).flag F.tickSchAct_ARM e = v.toNat.testBit 31
    ∧ (s.plainWrite .tickSchAct e v).fld F.tickSchAct_ACTION e = v.toNat / 2 ^ 24 % 16
    ∧ (s.plainWrite .tickSchAct e v).fld F.tickSchAct_HANDLE e = v.toNat % 2 ^ 16 := by
  have harm := fld_plainWrite h (f := F.tickSchAct_ARM) (by decide) (by decide) rfl e v
  have hact := fld_plainWrite h (f := F.tickSchAct_ACTION) (by decide) (by decide) rfl e v
  have hhan := fld_plainWrite h (f := F.tickSchAct_HANDLE) (by decide) (by decide) rfl e v
  refine ⟨?_, hact, hhan.trans (by rw [show F.tickSchAct_HANDLE.lo = 0 from rfl, pow_zero, Nat.div_one]; rfl)⟩
  rw [State.flag, show (s.plainWrite .tickSchAct e v).fld F.tickSchAct_ARM e = v.toNat / 2 ^ 31 % 2 from harm,
    Nat.testBit_eq_decide_div_mod_eq]
  exact decide_eq_decide.2 (by omega)

/-- Arming an entry that was not armed (R54): an action that the tables do not name and a target already due miss it. -/
theorem writeSchAct_of_arm {s : State} (h : RegsWf s) {e : Nat} {v : Word} (hwas : s.flag F.tickSchAct_ARM e = false)
    (hv : v.toNat.testBit 31 = true) :
    s.writeSchAct e v = if 3 < v.toNat / 2 ^ 24 % 16 then (s.plainWrite .tickSchAct e v).missEntry e 7
      else if s.dueAt (s.reg .tickSchTgt e).toNat then (s.plainWrite .tickSchAct e v).missEntry e 2
      else s.plainWrite .tickSchAct e v := by
  obtain ⟨harm, hact, -⟩ := schAct_plainWrite h e v
  have htgt : (s.plainWrite .tickSchAct e v).reg .tickSchTgt e = s.reg .tickSchTgt e := reg_plainWrite_ne h v (by simp)
  simp only [State.writeSchAct, hwas, harm, hv, hact, htgt, dueAt_of_time (plainWrite_time ..), Bool.not_false, Bool.and_self, if_true]

/-- Hardware's bits join those of the register. -/
theorem regBit_raiseBits {s : State} (h : RegsWf s) (r : Reg) (i b : Nat) {k : Nat} (hk : k < 32) :
    (s.raiseBits r i b).regBit r i k = (s.regBit r i k || b.testBit k) := by
  have hset := regBit_setReg_self h r i (s.reg r i ||| word b) k
  rw [regBit_eq s, ← Bool.true_and (b.testBit k), ← decide_eq_true hk, ← BitVec.getLsbD_ofNat, ← BitVec.getLsbD_or]
  exact hset

theorem reg_raiseBits_ne {s : State} (h : RegsWf s) {r q : Reg} {i j : Nat} (b : Nat) (hne : ¬ (q = r ∧ j = i)) :
    (s.raiseBits r i b).reg q j = s.reg q j := reg_setReg_ne h _ hne

/-- A missed entry is not armed, holds its cause and shows in TICK_SCH_MISSED (R66). -/
theorem missEntry_result {s : State} (h : RegsWf s) {e cause : Nat} (he : e < 32) (hc : cause < 16) :
    (s.missEntry e cause).flag F.tickSchAct_ARM e = false ∧ (s.missEntry e cause).fld F.tickSchAct_MISS_CAUSE e = cause
    ∧ (s.missEntry e cause).regBit .tickSchMissed 0 e = true := by
  have h1 := wf_setFld h F.tickSchAct_ARM e 0
  have h2 := wf_setFld h1 F.tickSchAct_MISS_CAUSE e cause
  have hact := reg_raiseBits_ne h2 (r := .tickSchMissed) (q := .tickSchAct) (i := 0) (j := e) (2 ^ e) (by simp)
  refine ⟨?_, ?_, ?_⟩
  · refine (flag_of_reg hact).trans ?_
    rw [State.flag, fld_setFld_other h1 (f := F.tickSchAct_MISS_CAUSE) (g := F.tickSchAct_ARM) (by decide) e cause rfl (by decide),
      fld_setFld_self h (by decide)]
    decide
  · have hf : (s.missEntry e cause).fld F.tickSchAct_MISS_CAUSE e = cause % 2 ^ 4 := by
      refine Eq.trans ?_ (fld_setFld_self h1 (f := F.tickSchAct_MISS_CAUSE) (by decide) e cause)
      exact congrArg (fun w : Word => (w.toNat >>> 16) % 2 ^ 4) hact
    exact hf.trans (Nat.mod_eq_of_lt hc)
  · exact (regBit_raiseBits h2 _ _ _ he).trans (by rw [Nat.testBit_two_pow_self, Bool.or_true])

/-- The control complex's write of an entry, after its note, which leaves the entry and the whorl alone. -/
theorem scheduleEntryArm_of_cc {e : Nat} (he : e < 32) (v : Word) (s : State) :
    exec (.scheduleEntryArm .cc e v) s = .next ((s.noteWrite .tickSchAct e Reg.tickSchAct.desc.rw 0).writeSchAct e v) :=
  if_neg (Nat.not_le.2 he)

/-- Arming by the control complex, the first clause of O18, in every case of action and target (R54, R66). -/
theorem scheduleEntryArm_result {s : State} (h : Inv s) {e : Nat} (he : e < 32) {v : Word} (hv : v.toNat.testBit 31 = true)
    (hwas : s.flag F.tickSchAct_ARM e = false) :
    ∃ t, exec (.scheduleEntryArm .cc e v) s = .next t ∧
      if 3 < v.toNat / 2 ^ 24 % 16 ∨ s.dueAt (s.reg .tickSchTgt e).toNat = true then
        t.flag F.tickSchAct_ARM e = false ∧ t.regBit .tickSchMissed 0 e = true
        ∧ t.fld F.tickSchAct_MISS_CAUSE e = if 3 < v.toNat / 2 ^ 24 % 16 then 7 else 2
      else t.flag F.tickSchAct_ARM e = true ∧ t.fld F.tickSchAct_ACTION e = v.toNat / 2 ^ 24 % 16
        ∧ t.fld F.tickSchAct_HANDLE e = v.toNat % 2 ^ 16 := by
  have hn : Keeps noteChange s (s.noteWrite .tickSchAct e Reg.tickSchAct.desc.rw 0) := keeps_noteWrite (keeps_self h) (Change.le_self _)
  refine ⟨_, scheduleEntryArm_of_cc he v s, ?_⟩
  rw [writeSchAct_of_arm hn.regs ((flag_of_reg (hn.within.regs _ _ (by decide))).trans hwas) hv,
    dueAt_of_time (hn.within.time rfl), hn.within.regs .tickSchTgt e (by decide)]
  obtain ⟨harm, hact, hhan⟩ := schAct_plainWrite hn.regs e v
  have hw := plainWrite_wf hn.regs .tickSchAct e v
  by_cases hbad : 3 < v.toNat / 2 ^ 24 % 16
  · obtain ⟨h1, h2, h3⟩ := missEntry_result hw he (cause := 7) (by decide)
    simp only [hbad, true_or, if_true]
    exact ⟨h1, h3, h2⟩
  · by_cases hdue : s.dueAt (s.reg .tickSchTgt e).toNat = true
    · obtain ⟨h1, h2, h3⟩ := missEntry_result hw he (cause := 2) (by decide)
      simp only [hbad, hdue, or_true, if_true, if_false]
      exact ⟨h1, h3, h2⟩
    · rw [if_neg (not_or.2 ⟨hbad, hdue⟩)]
      simp only [hbad, hdue, if_false]
      exact ⟨harm.trans hv, hact, hhan⟩

/-! ### The entries due -/

/-- What the end of an entry may change: its word, the registers that show it, the record of a lost update, and the pairs of a mode change. -/
def endChange : Change :=
  ⟨[.tick, .meet, .cnt, .log, .path], [.dtQcfgRsv, .glbStat, .glbUpdInfo, .qmQmode, .tickSchAct, .tickSchDone, .tickSchMissed], false⟩

theorem endEntry_keeps {s : State} (h : Inv s) (e cause : Nat) : Keeps endChange s (s.endEntry e cause) :=
  keeps_endEntry (keeps_self h) (Change.le_self _)

/-- The register that shows how an entry ended: TICK_SCH_DONE without a cause, else TICK_SCH_MISSED (R66). -/
def endReg (cause : Nat) : Reg := if cause = 0 then .tickSchDone else .tickSchMissed

/-- An entry that ends has lost ARM, unless a write of the slot overrides that (R541), and holds its cause where it has one. -/
def State.marked (s : State) (e cause : Nat) : State :=
  if cause = 0 then s.hwFld F.tickSchAct_ARM e 0 else (s.hwFld F.tickSchAct_ARM e 0).setFld F.tickSchAct_MISS_CAUSE e cause

theorem endEntry_eq (s : State) (e cause : Nat) :
    s.endEntry e cause = ((s.marked e cause).raiseBits (endReg cause) 0 (2 ^ e)).entryEnds e cause := by
  unfold State.endEntry State.marked endReg
  split <;> rfl

def markChange : Change := ⟨[.meet, .cnt], [.glbStat, .glbUpdInfo, .tickSchAct], false⟩

theorem marked_keeps {s : State} (h : Inv s) (e cause : Nat) : Keeps markChange s (s.marked e cause) := by
  have hhw : Keeps markChange s (s.hwFld F.tickSchAct_ARM e 0) := keeps_hwFld (keeps_self h) (by decide) (by decide)
  exact keeps_ite (fun _ => hhw) fun _ => keeps_setFld hhw (by decide)

theorem endReg_cases (c : Nat) : endReg c = .tickSchDone ∨ endReg c = .tickSchMissed := by unfold endReg; split <;> simp

/-- The end of an entry sets its bit of the register that shows it, and leaves every other bit of TICK_SCH_DONE and TICK_SCH_MISSED. -/
theorem endEntry_regBit {s : State} (h : Inv s) (e cause c : Nat) {k : Nat} (hk : k < 32) :
    (s.endEntry e cause).regBit (endReg c) 0 k
      = (s.regBit (endReg c) 0 k || (decide (endReg c = endReg cause) && decide (e = k))) := by
  have hm := marked_keeps h e cause
  have hold : (s.marked e cause).reg (endReg c) 0 = s.reg (endReg c) 0 :=
    hm.within.regs _ 0 (by rcases endReg_cases c with hc | hc <;> rw [hc] <;> decide)
  have hr : Inv ((s.marked e cause).raiseBits (endReg cause) 0 (2 ^ e)) := ⟨wf_raiseBits hm.regs _ _ _, hm.slot, hm.whorl⟩
  have hend : ((s.marked e cause).raiseBits (endReg cause) 0 (2 ^ e) |>.entryEnds e cause).reg (endReg c) 0
      = ((s.marked e cause).raiseBits (endReg cause) 0 (2 ^ e)).reg (endReg c) 0 :=
    (keeps_entryEnds (M := ⟨[.tick, .log, .path], [.dtQcfgRsv, .qmQmode], false⟩) (keeps_self hr) (Change.le_self _)).within.regs _ 0
      (by rcases endReg_cases c with hc | hc <;> rw [hc] <;> decide)
  rw [endEntry_eq, State.regBit, hend]
  by_cases hce : endReg c = endReg cause
  · have hbit := regBit_raiseBits hm.regs (endReg cause) 0 (2 ^ e) hk
    rw [← hce] at hbit ⊢
    rw [← State.regBit, hbit, State.regBit, hold, Nat.testBit_two_pow]
    simp [State.regBit]
  · rw [reg_raiseBits_ne hm.regs _ (fun hn => hce hn.1), hold, decide_eq_false hce]
    simp [State.regBit]

/-- A bit that is set, or that the end of a listed entry sets, is set when all of them have ended. -/
theorem endEntries_regBit {l : List (Nat × Nat)} {s : State} (h : Inv s) {c k : Nat} (hk : k < 32)
    (hset : s.regBit (endReg c) 0 k = true ∨ (k, c) ∈ l) :
    (l.foldl (fun s d => s.endEntry d.1 d.2) s).regBit (endReg c) 0 k = true := by
  induction l generalizing s with
  | nil => simpa using hset
  | cons d t ih =>
    refine ih (keeps_inv (endEntry_keeps h d.1 d.2)) ?_
    rw [endEntry_regBit h _ _ _ hk]
    rcases hset with hset | hset
    · simp [hset]
    · rcases List.mem_cons.1 hset with heq | hmem
      · simp [← heq]
      · exact Or.inr hmem

theorem endEntries_frame {l : List (Nat × Nat)} {s : State} (h : Inv s) {r : Reg} {i : Nat} (hr : endChange.may r = false) :
    (l.foldl (fun s d => s.endEntry d.1 d.2) s).reg r i = s.reg r i := by
  induction l generalizing s with
  | nil => rfl
  | cons d t ih =>
    have hd := endEntry_keeps h d.1 d.2
    exact (ih (keeps_inv hd)).trans (hd.within.regs r i hr)

/-- The doorbell that an entry's data register names (R53). -/
def State.bellOf (s : State) (e : Nat) : Nat := (s.reg .tickSchData e).toNat % 64

theorem d2hSet_inv {s : State} (h : Inv s) (n : Nat) : Inv (s.d2hSet n) := ⟨wf_raiseBits h.regs _ _ _, h.slot, h.whorl⟩

theorem d2hReg_ne_data (hi : Bool) : Reg.tickSchData ≠ d2hReg hi := by cases hi <;> decide

theorem d2hSet_regBit {s : State} (h : Inv s) (n : Nat) {k : Nat} (hk : k < 32) :
    (s.d2hSet n).regBit .mbD2hDbLo 0 k = (s.regBit .mbD2hDbLo 0 k || decide (n = k)) := by
  unfold State.d2hSet
  by_cases hn : 32 ≤ n
  · have hne : n ≠ k := by omega
    simp only [State.regBit, hn, hne, decide_true, decide_false, Bool.or_false,
      reg_raiseBits_ne h.regs (r := d2hReg true) (q := .mbD2hDbLo) (i := 0) (j := 0) (2 ^ (n % 32)) (by decide)]
  · have hlo := regBit_raiseBits h.regs .mbD2hDbLo 0 (2 ^ (n % 32)) hk
    rw [decide_eq_false hn]
    rw [Nat.testBit_two_pow, Nat.mod_eq_of_lt (by omega)] at hlo
    rw [Nat.mod_eq_of_lt (by omega)]
    exact hlo

theorem bellOf_d2hSet {s : State} (h : Inv s) (n e : Nat) : (s.d2hSet n).bellOf e = s.bellOf e := by
  simp only [State.bellOf, State.d2hSet, reg_raiseBits_ne h.regs _ (fun hn => d2hReg_ne_data _ hn.1)]

theorem bells_inv {l : List Nat} {s : State} (h : Inv s) : Inv (l.foldl (fun s e => s.d2hSet (s.bellOf e)) s) := by
  induction l generalizing s with
  | nil => exact h
  | cons d t ih => exact ih (d2hSet_inv h _)

/-- Each doorbell of the low word that a listed entry names is set, and none clears. -/
theorem bells_regBit {l : List Nat} {s : State} (h : Inv s) {k : Nat} (hk : k < 32)
    (hset : s.regBit .mbD2hDbLo 0 k = true ∨ ∃ e ∈ l, s.bellOf e = k) :
    (l.foldl (fun s e => s.d2hSet (s.bellOf e)) s).regBit .mbD2hDbLo 0 k = true := by
  induction l generalizing s with
  | nil => simpa using hset
  | cons d t ih =>
    refine ih (d2hSet_inv h _) ?_
    rw [d2hSet_regBit h _ hk]
    rcases hset with hset | ⟨e, he, hbell⟩
    · simp [hset]
    · rcases List.mem_cons.1 he with rfl | hmem
      · simp [hbell]
      · exact Or.inr ⟨e, hmem, (bellOf_d2hSet h _ e).trans hbell⟩

/-- The entries due that execute with action `k`. -/
def State.runsWith (s : State) (k : Nat) : List Nat :=
  (((s.dueEntries.map fun e => (e, s.dueCause e)).filter fun d => d.2 = 0).map (·.1)).filter fun e =>
    s.fld F.tickSchAct_ACTION e = k

theorem mem_runsWith {s : State} {k e : Nat} :
    e ∈ s.runsWith k ↔ e ∈ s.dueEntries ∧ s.dueCause e = 0 ∧ s.fld F.tickSchAct_ACTION e = k := by
  simp only [State.runsWith, List.mem_filter, List.mem_map, decide_eq_true_eq]
  constructor
  · rintro ⟨⟨_, ⟨⟨d, hd, rfl⟩, hc⟩, rfl⟩, hk⟩
    exact ⟨hd, hc, hk⟩
  · rintro ⟨hd, hc, hk⟩
    exact ⟨⟨_, ⟨⟨e, hd, rfl⟩, hc⟩, rfl⟩, hk⟩

/-- The state in which the slot's snapshot, if one is due, has been taken. -/
def State.afterSnapshot (s : State) : State := if s.runsWith 1 = [] then s else s.snapshot

theorem afterSnapshot_inv {s : State} (h : Inv s) : Inv s.afterSnapshot := by
  unfold State.afterSnapshot
  split
  · exact h
  · exact keeps_inv (keeps_snapshot (M := ⟨[.meet, .cnt, .samp, .log], [], true⟩) (keeps_self h) (by decide))

/-- With no register write due, the doorbells act after the snapshot, and then every entry ends (R53). -/
theorem scheduleEntryDue_of_noWrite {s : State} (hw : s.runsWith 2 = []) :
    exec .scheduleEntryDue s = .next ((s.dueEntries.map fun e => (e, s.dueCause e)).foldl (fun s d => s.endEntry d.1 d.2)
      ((s.runsWith 3).foldl (fun s e => s.d2hSet (s.bellOf e)) s.afterSnapshot)) := by
  have hok : regwrites (s.runsWith 2) s.afterSnapshot = .ok s.afterSnapshot := by rw [hw]; rfl
  change execScheduleEntryDue s = _
  unfold execScheduleEntryDue
  dsimp only
  split
  · rename_i he
    cases he.symm.trans hok
  · rename_i he
    cases he.symm.trans hok
    rfl

/-- The second clause of O18 with the doorbell that the data register names once the slot's snapshot has been taken. -/
theorem scheduleEntryDue_result {s : State} (h : Inv s) (hw : ∀ e, e ∈ s.dueEntries → s.fld F.tickSchAct_ACTION e ≠ 2) :
    ∃ t, exec .scheduleEntryDue s = .next t ∧ ∀ e, e ∈ s.dueEntries →
      (s.dueCause e = 0 → t.regBit .tickSchDone 0 e = true ∧ (s.fld F.tickSchAct_ACTION e = 3 → s.afterSnapshot.bellOf e < 32 →
        t.regBit .mbD2hDbLo 0 (s.afterSnapshot.bellOf e) = true))
      ∧ (s.dueCause e ≠ 0 → t.regBit .tickSchMissed 0 e = true) := by
  have hnone : s.runsWith 2 = [] := List.eq_nil_iff_forall_not_mem.2 fun e he => by
    obtain ⟨hd, -, ha⟩ := mem_runsWith.1 he
    exact hw e hd ha
  have h1 := afterSnapshot_inv h
  have h3 := bells_inv (l := s.runsWith 3) h1
  refine ⟨_, scheduleEntryDue_of_noWrite hnone, fun e he => ?_⟩
  have he32 : e < 32 := List.mem_range.1 (List.mem_of_mem_filter he)
  have hend := endEntries_regBit h3 (c := s.dueCause e) he32 (l := s.dueEntries.map fun e => (e, s.dueCause e))
    (Or.inr (List.mem_map.2 ⟨e, he, rfl⟩))
  refine ⟨fun hc => ⟨?_, fun ha hb => ?_⟩, fun hc => ?_⟩
  · rwa [endReg, if_pos hc] at hend
  · rw [State.regBit, endEntries_frame h3 (by decide)]
    exact bells_regBit h1 hb (Or.inr ⟨e, mem_runsWith.2 ⟨he, hc, ha⟩, rfl⟩)
  · rwa [endReg, if_neg hc] at hend

/-! ### Placing a held command -/

/-- The word that firmware writes to arm an entry: ARM, the action and the handle (R66). -/
def schWord (action handle : Nat) : Word := word (2 ^ 31 + action % 16 * 2 ^ 24 + handle % 2 ^ 16)

theorem schWord_fields (action handle : Nat) : (schWord action handle).toNat.testBit 31 = true
    ∧ (schWord action handle).toNat / 2 ^ 24 % 16 = action % 16 ∧ (schWord action handle).toNat % 2 ^ 16 = handle % 2 ^ 16 := by
  simp only [schWord, word, BitVec.toNat_ofNat, Nat.testBit_eq_decide_div_mod_eq, decide_eq_true_eq]
  omega

/-- The entry's target, address and data, before its word arms it. -/
def State.loadEntry (s : State) (e tgt : Nat) (a : SchedAct) : State :=
  ((s.setReg .tickSchTgt e (word tgt)).setReg .tickSchAddr e (word (a.addr % 2 ^ 28))).setReg .tickSchData e (word a.data)

theorem loadEntry_time (s : State) (e tgt : Nat) (a : SchedAct) : (s.loadEntry e tgt a).time = s.time := by
  rw [State.loadEntry, setReg_time, setReg_time, setReg_time]

theorem loadEntry_path (s : State) (e tgt : Nat) (a : SchedAct) : (s.loadEntry e tgt a).path = s.path := by
  rw [State.loadEntry, setReg_path, setReg_path, setReg_path]

theorem loadEntry_regs {s : State} (h : RegsWf s) (e tgt : Nat) (a : SchedAct) :
    RegsWf (s.loadEntry e tgt a) ∧ (s.loadEntry e tgt a).reg .tickSchTgt e = word tgt
    ∧ (s.loadEntry e tgt a).reg .tickSchAct e = s.reg .tickSchAct e := by
  have h1 := wf_setReg h .tickSchTgt e (word tgt)
  have h2 := wf_setReg h1 .tickSchAddr e (word (a.addr % 2 ^ 28))
  refine ⟨wf_setReg h2 _ _ _, ?_, ?_⟩
  · exact (reg_setReg_ne h2 _ (by simp)).trans ((reg_setReg_ne h1 _ (by simp)).trans (reg_setReg_self h _ _ _))
  · exact (reg_setReg_ne h2 _ (by simp)).trans ((reg_setReg_ne h1 _ (by simp)).trans (reg_setReg_ne h _ (by simp)))

/-- A free entry takes an action of the tables whose target lies ahead: its word stands as written. -/
theorem armEntry_of_free {s : State} (h : RegsWf s) {e tgt : Nat} (handle : Nat) {a : SchedAct} (hfree : s.flag F.tickSchAct_ARM e = false)
    (ha : a.action ≤ 3) (hdue : s.dueAt (word tgt).toNat = false) :
    s.armEntry e tgt handle a = (s.loadEntry e tgt a).plainWrite .tickSchAct e (schWord a.action handle) := by
  obtain ⟨hwf, htgt, hact⟩ := loadEntry_regs h e tgt a
  obtain ⟨hb, hk, -⟩ := schWord_fields a.action handle
  have hwrite : (s.loadEntry e tgt a).writeSchAct e (schWord a.action handle)
      = (s.loadEntry e tgt a).plainWrite .tickSchAct e (schWord a.action handle) := by
    rw [writeSchAct_of_arm hwf ((flag_of_reg hact).trans hfree) hb, if_neg (by omega), htgt,
      if_neg (by rw [dueAt_of_time (loadEntry_time s e tgt a), hdue]; decide)]
  have harm := (schAct_plainWrite hwf e (schWord a.action handle)).1.trans hb
  change (if ((s.loadEntry e tgt a).writeSchAct e (schWord a.action handle)).flag F.tickSchAct_ARM e then _ else _) = _
  rw [hwrite, if_pos harm]
  exact hwrite

/-- A target less than 2^31 ns ahead of the whorl is not due (R53). -/
theorem dueAt_ahead {s : State} (h : Inv s) {d : Nat} (h0 : 0 < d) (hd : d < 2 ^ 31) :
    s.dueAt (word ((s.whorlNs + d) % 2 ^ 32)).toNat = false := by
  have hw : s.whorlNs < 2 ^ 32 := Nat.div_lt_of_lt_mul (by have := h.whorl; omega)
  simp only [State.dueAt, word, BitVec.toNat_ofNat, decide_eq_false_iff_not]
  omega

/-- The whorl instant of a time that lies ahead (R60). -/
theorem target_of_ahead {s : State} {time : Nat} (h : s.netNs < time) :
    (s.whorlNs + time + 2 ^ 32 - s.netNs % 2 ^ 32) % 2 ^ 32 = (s.whorlNs + (time - s.netNs)) % 2 ^ 32 := by omega

/-- A near command of one action goes into the lowest free entry, with its whorl instant and its handle (R60). -/
theorem checkHeld_of_near {s : State} (h : Inv s) {k : Held} {a : SchedAct} {e : Nat} {es : List Nat} (hk : k.acts = [a]) (ha : a.action ≤ 3)
    (hfree : s.freeEntries = e :: es) (hlo : s.netNs < k.time) (hhi : k.time < s.netNs + 2 ^ 30) :
    (s.checkHeld k).flag F.tickSchAct_ARM e = true
    ∧ (s.checkHeld k).reg .tickSchTgt e = word ((s.whorlNs + (k.time - s.netNs)) % 2 ^ 32)
    ∧ (s.checkHeld k).fld F.tickSchAct_HANDLE e = k.handle % 2 ^ 16
    ∧ (s.checkHeld k).time = s.time ∧ (s.checkHeld k).path = s.path := by
  have he : s.flag F.tickSchAct_ARM e = false := by
    have hmem : e ∈ s.freeEntries := hfree ▸ List.mem_cons_self ..
    simpa using (List.mem_filter.1 hmem).2
  have hplace : s.checkHeld k = s.placeHeld k := by
    rw [State.checkHeld, if_neg (by omega), if_pos (by simp [hk, hfree])]
  have htake : s.freeEntries.take k.acts.length = [e] := by simp [hk, hfree]
  have hfold : s.placeHeld k = State.armEntry { s with tick := { s.tick with
      held := s.tick.held.map fun j => if j.handle = k.handle then { j with entries := [e] } else j } } e
      ((s.whorlNs + (k.time - s.netNs)) % 2 ^ 32) k.handle a := by
    unfold State.placeHeld
    rw [htake, hk, target_of_ahead hlo]
    rfl
  rw [hplace, hfold]
  generalize s.tick.held.map _ = held
  have hwf : RegsWf { s with tick := { s.tick with held := held } } := h.regs
  rw [armEntry_of_free hwf k.handle he ha (dueAt_ahead (s := s) h (by omega) (by omega))]
  obtain ⟨hload, htgt, -⟩ := loadEntry_regs hwf e ((s.whorlNs + (k.time - s.netNs)) % 2 ^ 32) a
  obtain ⟨hb, -, hhan⟩ := schWord_fields a.action k.handle
  obtain ⟨harm, -, hput⟩ := schAct_plainWrite hload e (schWord a.action k.handle)
  exact ⟨harm.trans hb, (reg_plainWrite_ne hload _ (by simp)).trans htgt, hput.trans hhan, (plainWrite_time ..).trans (loadEntry_time ..),
    (plainWrite_path ..).trans (loadEntry_path ..)⟩

/-- A list of one held command that is not armed is looked at as it stands. -/
theorem heldInOrder_of_one {s : State} {k : Held} (h : s.tick.held = [k]) (hk : k.entries = []) : s.heldInOrder = [k] := by
  simp [State.heldInOrder, h, hk, sortBy, insertBy]

/-- With no event output and no swap held, firmware's check is that of the held list. -/
theorem checkAll_of_heldOnly {s t : State} (h : s.heldInOrder.foldl (fun s k => s.checkHeld k) s = t) (hout : t.time.held = [])
    (hswap : t.path.gclHeld = []) : s.checkAll = t := by
  have houts : t.checkOutputs = t := by rw [State.checkOutputs, hout]; rfl
  rw [State.checkAll, h, houts, State.checkSwaps, hswap]
  rfl

/-- The third clause of O18: the check of the held list places a near command of one action. -/
theorem heldListCheck_places {s : State} (h : Inv s) {k : Held} {a : SchedAct} (hrun : s.flag F.protBoot_RUNNING 0 = true)
    (hheld : s.tick.held = [k]) (hents : k.entries = []) (hacts : k.acts = [a]) (ha : a.action ≤ 3) (hfree : s.freeEntries ≠ [])
    (hlo : s.netNs < k.time) (hhi : k.time < s.netNs + 2 ^ 30) (hout : s.time.held = []) (hswap : s.path.gclHeld = []) :
    ∃ t e, exec .heldListCheck s = .next t ∧ e ∈ s.freeEntries ∧ t.flag F.tickSchAct_ARM e = true
      ∧ (t.reg .tickSchTgt e).toNat = (s.whorlNs + (k.time - s.netNs)) % 2 ^ 32 ∧ t.fld F.tickSchAct_HANDLE e = k.handle % 2 ^ 16 := by
  obtain ⟨e, es, hes⟩ := List.exists_cons_of_ne_nil hfree
  obtain ⟨harm, htgt, hhan, htime, hpath⟩ := checkHeld_of_near h hacts ha hes hlo hhi
  have hall : s.checkAll = s.checkHeld k :=
    checkAll_of_heldOnly (by rw [heldInOrder_of_one hheld hents, List.foldl_cons, List.foldl_nil]) (by rw [htime, hout]) (by rw [hpath, hswap])
  refine ⟨_, e, if_pos hrun, hes ▸ List.mem_cons_self .., ?_⟩
  rw [hall, htgt]
  refine ⟨harm, ?_, hhan⟩
  rw [word, BitVec.toNat_ofNat, Nat.mod_mod]

/-! ### Converting a held command again -/

/-- Disarming a list of entries leaves an entry disarmed that is listed or was not armed. -/
theorem disarm_flag {l : List Nat} {s : State} (h : RegsWf s) {e : Nat} (he : s.flag F.tickSchAct_ARM e = false ∨ e ∈ l) :
    (l.foldl (fun s e => s.setFld F.tickSchAct_ARM e 0) s).flag F.tickSchAct_ARM e = false := by
  induction l generalizing s with
  | nil => simpa using he
  | cons d t ih =>
    refine ih (wf_setFld h _ _ _) ?_
    by_cases hde : e = d
    · subst hde
      exact Or.inl (by rw [flag_setFld_self h (by decide)]; decide)
    · refine he.imp (fun hf => ?_) fun hm => (List.mem_cons.1 hm).resolve_left hde
      rw [State.flag, fld_setFld_ne h _ _ _ (by simp [hde])]
      exact hf

/-- A held command whose time has passed is missed when it is converted again: the list loses it, and beside its disarmed entries
no register changes. -/
theorem reconvertHeld_missed {s : State} {k : Held} (hheld : s.tick.held = [k]) (hpast : k.time ≤ s.netNs) (hport : k.modePort = none) :
    (s.reconvertHeld k).tick.held = [] ∧ (s.reconvertHeld k).time = s.time ∧ (s.reconvertHeld k).path = s.path
    ∧ (s.reconvertHeld k).regs = (k.entries.foldl (fun s e => s.setFld F.tickSchAct_ARM e 0) s).regs := by
  have htick := foldl_part (·.tick) (f := fun s e => s.setFld F.tickSchAct_ARM e 0) (fun s e => setFld_tick s _ e 0) k.entries s
  have htime := foldl_part (·.time) (f := fun s e => s.setFld F.tickSchAct_ARM e 0) (fun s e => setFld_time s _ e 0) k.entries s
  have hpath := foldl_part (·.path) (f := fun s e => s.setFld F.tickSchAct_ARM e 0) (fun s e => setFld_path s _ e 0) k.entries s
  unfold State.reconvertHeld
  generalize k.entries.foldl (fun s e => s.setFld F.tickSchAct_ARM e 0) s = d at *
  have hnet : ∀ tick, State.netNs { d with tick := tick } = s.netNs := fun _ => by simp only [State.netNs, State.whorlNs, htime]
  dsimp only
  rw [if_pos (by rw [hnet]; exact hpast)]
  simp [State.missHeld, State.modeDone, State.schedRecord, hport, htick, hheld, htime, hpath]

/-- The fourth clause of O18: after a load of the active base, a command whose time has passed is missed, and its entries are disarmed. -/
theorem scheduleReconvert_missed {s : State} (h : Inv s) {k : Held} (hrun : s.flag F.protBoot_RUNNING 0 = true) (hremap : s.time.remap = true)
    (hheld : s.tick.held = [k]) (hpast : k.time ≤ s.netNs) (hport : k.modePort = none) (hgcl : s.path.gcl = []) (hevts : s.time.evts = [])
    (hout : s.time.held = []) (hswap : s.path.gclHeld = []) :
    ∃ t, exec .scheduleReconvert s = .next t ∧ t.time.remap = false ∧ t.tick.held = []
      ∧ ∀ e, e ∈ k.entries → t.flag F.tickSchAct_ARM e = false := by
  obtain ⟨hnone, htime, hpath, hregs⟩ :=
    reconvertHeld_missed (s := { s with time := { s.time with remap := false } }) hheld hpast hport
  have hexec : exec .scheduleReconvert s = .next (State.reconvertHeld { s with time := { s.time with remap := false } } k) := by
    change execScheduleReconvert s = _
    rw [execScheduleReconvert, if_neg (by simp [hrun, hremap])]
    dsimp only
    rw [hheld, List.foldl_cons, List.foldl_nil]
    generalize State.reconvertHeld { s with time := { s.time with remap := false } } k = t at *
    have hgates : t.path.gcl.map (·.1) = [] := by rw [hpath, hgcl]; rfl
    have houts : t.time.evts = [] := by rw [htime, hevts]
    have horder : t.heldInOrder = [] := by rw [State.heldInOrder, hnone]; rfl
    rw [hgates, List.foldl_nil, houts, List.foldl_nil]
    rw [checkAll_of_heldOnly (by rw [horder, List.foldl_nil]) (by rw [htime, hout]) (by rw [hpath, hswap])]
  refine ⟨_, hexec, by rw [htime], hnone, fun e he => ?_⟩
  rw [flag_of_regs hregs]
  exact disarm_flag (s := { s with time := { s.time with remap := false } }) h.regs (Or.inr he)

/-! ### The entry whose doorbell a snapshot moves -/

/-- Entries 0 and 1 are due with the schedule enabled: a snapshot and doorbell 0. The live counters list one count under the key of entry
1's data register, which the invariant does not exclude. -/
def miscountedDoorbell : State :=
  { ((((State.reset.setFld F.tickCtl_SCH_EN 0 1).setFld F.tickSchAct_ARM 0 1).setFld F.tickSchAct_ACTION 0 1).setFld
      F.tickSchAct_ARM 1 1).setFld F.tickSchAct_ACTION 1 3 with cnt := { live := [(regKey .tickSchData 1, 1)] } }

theorem miscountedDoorbell_inv : Inv miscountedDoorbell := ⟨by decide +kernel, by decide, by decide⟩

theorem miscountedDoorbell_due : miscountedDoorbell.dueEntries = [0, 1] := by decide +kernel

/-- The snapshot acts first and adds the count to the data register: doorbell 1 rings, and doorbell 0 does not. -/
theorem miscountedDoorbell_rings_one : ∃ t, exec .scheduleEntryDue miscountedDoorbell = .next t
    ∧ t.regBit .mbD2hDbLo 0 0 = false ∧ t.regBit .mbD2hDbLo 0 1 = true :=
  ⟨_, scheduleEntryDue_of_noWrite (by decide +kernel), by decide +kernel, by decide +kernel⟩

/-- Refutes O18: its second clause names the doorbell that the data register held before the slot's snapshot, while the doorbells act after
the snapshot (R55), as `scheduleEntryDue_result` says; in `miscountedDoorbell` the snapshot changes that register. The other clauses hold:
`scheduleEntryArm_result`, `heldListCheck_places` and `scheduleReconvert_missed`. -/
theorem not_scheduledCommands : ¬ Obligations.ScheduledCommands := by
  intro hall
  obtain ⟨-, hdue, -, -⟩ := hall
  have hact : ∀ e, e ∈ miscountedDoorbell.dueEntries → miscountedDoorbell.fld F.tickSchAct_ACTION e ≠ 2 := by
    rw [miscountedDoorbell_due]; decide +kernel
  obtain ⟨t, ht, hbits⟩ := hdue miscountedDoorbell miscountedDoorbell_inv hact
  obtain ⟨hran, -⟩ := hbits 1 (by rw [miscountedDoorbell_due]; decide)
  obtain ⟨-, hbell⟩ := hran (by decide +kernel)
  have hrung : t.regBit .mbD2hDbLo 0 0 = true := hbell (by decide +kernel) (by decide +kernel)
  obtain ⟨u, hu, hsilent, -⟩ := miscountedDoorbell_rings_one
  cases ht.symm.trans hu
  exact Bool.false_ne_true (hsilent.symm.trans hrung)

end Sys2Proof.Machine

/-!
Packets of the ingress pipeline (O40): the classification entries, policers and port settings that they write, and the answers of their reads.
-/
namespace Sys2Proof.Machine
open Sys2Proof

/-! ### The answer of a packet -/

/-- An accepted packet whose checks all pass, and whose effect is not deferred, completes with what its body answers (R505, R511). -/
theorem completes_of_checks {op : Nat} {p : Packet} {s t : State} {e : Status} {ps : List Byte} {body : Args → State → Res}
    {checks : List (Bool × Status)} (h : Accepts op p s) (hc : firstFail checks = none)
    (hb : body (readParams op p.params) (begun op p s) = guarded (begun op p s) checks { status := e, params := ps, state := t }) :
    runPacket op p body s = .next (replied op p s t e ps) := by
  rw [guarded_of_none _ hc] at hb
  rw [runPacket_of_accepts h, hb]
  rfl

/-- No check fails when none is raised. -/
theorem firstFail_of_all_false {checks : List (Bool × Status)} (h : ∀ c ∈ checks, c.1 = false) : firstFail checks = none := by
  induction checks with
  | nil => rfl
  | cons c t ih =>
    obtain ⟨b, e⟩ := c
    obtain rfl : b = false := h _ (List.mem_cons_self ..)
    exact ih fun c hc => h c (List.mem_cons_of_mem _ hc)

/-! ### The quadrants of a mask -/

theorem mem_quadsOf {s : State} {mask q : Nat} : q ∈ s.quadsOf mask ↔ (q < 4 ∧ mask.testBit q = true) ∧ s.hasQuad q = true := by
  simp only [State.quadsOf, onesOf, List.mem_filter, List.mem_range]

theorem quadsOf_nodup (s : State) (mask : Nat) : (s.quadsOf mask).Nodup := (List.nodup_range.filter _).filter _

theorem mem_quadsOf_of_named {s : State} {mask q : Nat} (h : ∀ q, q < 4 → mask.testBit q = true → s.hasQuad q = true) (hq : q < 4)
    (hm : mask.testBit q = true) : q ∈ s.quadsOf mask := mem_quadsOf.2 ⟨⟨hq, hm⟩, h q hq hm⟩

/-- A mask that names present quadrants only passes the check for absent ones. -/
theorem no_absent_quad {s : State} {mask : Nat} (h : ∀ q, q < 4 → mask.testBit q = true → s.hasQuad q = true) :
    (onesOf 4 mask).any (fun q => !s.hasQuad q) = false := by
  simp only [List.any_eq_false, onesOf, List.mem_filter, List.mem_range, Bool.not_eq_true', Bool.not_eq_false]
  exact fun q hq => h q hq.1 hq.2

section
variable {β : Type} {f : State → Nat → State} {P : State → Prop} {g : State → β} {q : Nat}

/-- What the steps of other quadrants leave alone stays through a fold over quadrants without `q`. -/
theorem foldl_of_notMem (hP : ∀ u a, P u → P (f u a)) (hg : ∀ u a, P u → a ≠ q → g (f u a) = g u) {l : List Nat} (hq : q ∉ l) {s : State}
    (hs : P s) : g (l.foldl f s) = g s := by
  induction l generalizing s with
  | nil => rfl
  | cons a t ih =>
    obtain ⟨ha, ht⟩ := not_or.1 (fun h => hq (List.mem_cons.2 h))
    exact (ih ht (hP _ _ hs)).trans (hg _ _ hs (Ne.symm ha))

/-- In a fold over distinct quadrants with `q` among them, what belongs to `q` is what its own step makes of it. -/
theorem foldl_of_mem (hP : ∀ u a, P u → P (f u a)) (hg : ∀ u a, P u → a ≠ q → g (f u a) = g u) {l : List Nat} (hl : l.Nodup) (hq : q ∈ l)
    {s : State} (hs : P s) : ∃ u, P u ∧ g u = g s ∧ g (l.foldl f s) = g (f u q) := by
  induction l generalizing s with
  | nil => exact absurd hq (List.not_mem_nil)
  | cons a t ih =>
    obtain ⟨hat, ht⟩ := List.nodup_cons.1 hl
    by_cases ha : a = q
    · subst ha
      exact ⟨s, hs, rfl, foldl_of_notMem hP hg hat (hP _ _ hs)⟩
    · obtain ⟨u, hu, hus, huf⟩ := ih ht ((List.mem_cons.1 hq).resolve_left (Ne.symm ha)) (hP _ _ hs)
      exact ⟨u, hu, hus.trans (hg _ _ hs ha), huf⟩

/-- In a fold over the present quadrants of a mask, what belongs to `q` stays when `q` is not named or its own step leaves it. -/
theorem foldQuads_unchanged (hP : ∀ u a, P u → P (f u a)) (hg : ∀ u a, P u → a ≠ q → g (f u a) = g u) {s u : State} {mask : Nat} (hu : P u)
    (h : mask.testBit q = false ∨ ∀ v, P v → g (f v q) = g v) : g ((s.quadsOf mask).foldl f u) = g u := by
  by_cases hmem : q ∈ s.quadsOf mask
  · have hnamed : mask.testBit q = true := (mem_quadsOf.1 hmem).1.2
    obtain ⟨v, hv, hvu, hvq⟩ := foldl_of_mem hP hg (quadsOf_nodup s mask) hmem hu
    rw [hvq, h.resolve_left (by simp [hnamed]) v hv, hvu]
  · exact foldl_of_notMem hP hg hmem hu

end

/-! ### The classification memory -/

/-- The classification memory is in canonical form. -/
abbrev ClsWf (s : State) : Prop := Table.wf (fun _ => ({} : ClsEnt)) s.tab.cls = true

theorem setCls_wf {s : State} (h : ClsWf s) (q i : Nat) (e : ClsEnt) : ClsWf (s.setCls q i e) := Table.wf_set h _ _

/-- An entry holds what was written to it, and every other entry stays. -/
theorem clsAt_setCls {s : State} (h : ClsWf s) {q i q' i' : Nat} (hi : i < 32768) (hi' : i' < 32768) (e : ClsEnt) :
    (s.setCls q' i' e).clsAt q i = if q = q' ∧ i = i' then e else s.clsAt q i := by
  split
  · next heq => obtain ⟨rfl, rfl⟩ := heq; exact Table.get_set_self h _ _
  · next hne => exact Table.get_set_ne h _ (by omega)

theorem clsAt_found (s : State) (table q' i' q i : Nat) : (s.found table q' i').clsAt q i = s.clsAt q i := rfl

theorem pairHalf_lt {i : Nat} (h : i < 32768) : pairHalf i < 32768 := by unfold pairHalf; split <;> omega
theorem pairHalf_div (i : Nat) : pairHalf i / 2 = i / 2 := by unfold pairHalf; split <;> omega
theorem pairHalf_ne (i : Nat) : pairHalf i ≠ i := by unfold pairHalf; split <;> omega
theorem pairHalf_pairHalf (i : Nat) : pairHalf (pairHalf i) = i := by unfold pairHalf; split <;> split <;> omega

/-- What CLS_WRITE puts into the entry that it names: the low half of key and mask, and the action word (R112). -/
def clsEven (width key mask act : Nat) (valid : Bool) : ClsEnt :=
  { key := key % 2 ^ 160, mask := mask % 2 ^ 160, act := act, pair := width == 2, valid := valid }

/-- What it puts into the odd half of a pair. -/
def clsOdd (key mask : Nat) (valid : Bool) : ClsEnt := { key := key / 2 ^ 160, mask := mask / 2 ^ 160, pair := true, valid := valid }

/-- A write of a pair writes both halves. -/
theorem clsAt_clsWrite_pair {s : State} (h : ClsWf s) {q i : Nat} (hi : i < 32768) (h2 : i % 2 = 0) (key mask act : Nat) (valid : Bool)
    {q' j : Nat} (hj : j < 32768) :
    (s.clsWrite q i 2 key mask act valid).clsAt q' j
      = if q' = q ∧ j = i + 1 then clsOdd key mask valid else if q' = q ∧ j = i then clsEven 2 key mask act valid else s.clsAt q' j := by
  unfold State.clsWrite
  dsimp only
  rw [if_pos rfl, clsAt_setCls (setCls_wf (s := ((s.found 0 q (i / 2 * 2)).found 0 q i).found 0 q (i + 1)) h _ _ _) hj (by omega),
    clsAt_setCls (s := ((s.found 0 q (i / 2 * 2)).found 0 q i).found 0 q (i + 1)) h hj hi]
  rfl

/-- A single write over half of a pair also changes the other half, which it invalidates (R99). -/
theorem clsAt_clsWrite_single {s : State} (h : ClsWf s) {q i width : Nat} (hw : width ≠ 2) (hi : i < 32768) (key mask act : Nat) (valid : Bool)
    {q' j : Nat} (hj : j < 32768) :
    (s.clsWrite q i width key mask act valid).clsAt q' j
      = if q' = q ∧ j = i then clsEven width key mask act valid
        else if (s.clsAt q i).pair = true ∧ q' = q ∧ j = pairHalf i then { s.clsAt q (pairHalf i) with valid := false, pair := false }
        else s.clsAt q' j := by
  have hF : ClsWf ((s.found 0 q (i / 2 * 2)).found 0 q i) := h
  have hAt : ∀ q' j, ((s.found 0 q (i / 2 * 2)).found 0 q i).clsAt q' j = s.clsAt q' j := fun _ _ => rfl
  unfold State.clsWrite
  rw [if_neg hw]
  generalize (s.found 0 q (i / 2 * 2)).found 0 q i = u at hF hAt
  simp only [← hAt]
  by_cases hp : (u.clsAt q i).pair = true
  · simp only [hp, if_true, true_and, clsAt_setCls (setCls_wf hF _ _ _) hj hi, clsAt_setCls hF hj (pairHalf_lt hi), clsEven]
  · simp only [hp, Bool.false_eq_true, if_false, false_and, clsAt_setCls hF hj hi, clsEven]

theorem clsWrite_wf {s : State} (h : ClsWf s) (q i width key mask act : Nat) (valid : Bool) :
    ClsWf (s.clsWrite q i width key mask act valid) := by
  have hF : ClsWf ((s.found 0 q (i / 2 * 2)).found 0 q i) := h
  unfold State.clsWrite
  dsimp only
  split
  · exact setCls_wf (setCls_wf (s := ((s.found 0 q (i / 2 * 2)).found 0 q i).found 0 q (i + 1)) h _ _ _) _ _ _
  · split
    · exact setCls_wf (setCls_wf hF _ _ _) _ _ _
    · exact setCls_wf hF _ _ _

section
variable {s : State} {q i width key mask act : Nat} {valid : Bool}

theorem clsAt_clsWrite_self (h : ClsWf s) (hi : i < 32768) (hw : width = 2 → i % 2 = 0) :
    (s.clsWrite q i width key mask act valid).clsAt q i = clsEven width key mask act valid := by
  by_cases h2 : width = 2
  · subst h2; rw [clsAt_clsWrite_pair h hi (hw rfl) _ _ _ _ hi]; simp
  · rw [clsAt_clsWrite_single h h2 hi _ _ _ _ hi]; simp

/-- A write changes no entry of another pair. -/
theorem clsAt_clsWrite_other (h : ClsWf s) (hi : i < 32768) (hw : width = 2 → i % 2 = 0) {q' j : Nat} (hj : j < 32768)
    (hne : q' ≠ q ∨ j / 2 ≠ i / 2) : (s.clsWrite q i width key mask act valid).clsAt q' j = s.clsAt q' j := by
  by_cases h2 : width = 2
  · subst h2
    have h0 := hw rfl
    rw [clsAt_clsWrite_pair h hi h0 _ _ _ _ hj, if_neg (by omega), if_neg (by omega)]
  · have hd := pairHalf_div i
    rw [clsAt_clsWrite_single h h2 hi _ _ _ _ hj, if_neg (by omega), if_neg (by rintro ⟨-, rfl, rfl⟩; omega)]

end

/-! ### Invalidation of classification entries -/

/-- Invalidation clears the valid bit of the entry, and of both halves of a pair, and changes nothing else (R113). -/
theorem clsAt_clsInvalid {s : State} (h : ClsWf s) {q i q' j : Nat} (hi : i < 32768) (hj : j < 32768) :
    (s.clsInvalid q i).clsAt q' j
      = if q' = q ∧ (j = i ∨ ((s.clsAt q i).pair = true ∧ j = pairHalf i)) then { s.clsAt q' j with valid := false } else s.clsAt q' j := by
  have hne := pairHalf_ne i
  unfold State.clsInvalid
  dsimp only
  by_cases hp : (s.clsAt q i).pair = true
  · simp only [if_pos hp, clsAt_setCls (setCls_wf h _ _ _) hj (pairHalf_lt hi), clsAt_setCls h (pairHalf_lt hi) hi, clsAt_setCls h hj hi, hne,
      and_false, if_false]
    by_cases hq : q' = q
    · subst hq
      by_cases h1 : j = pairHalf i
      · simp [h1, hp]
      · by_cases h2 : j = i
        · subst h2; simp [Ne.symm hne]
        · simp [h1, h2]
    · simp [hq]
  · rw [if_neg hp, clsAt_setCls h hj hi]
    by_cases hq : q' = q ∧ j = i
    · obtain ⟨rfl, rfl⟩ := hq; simp
    · rw [if_neg hq, if_neg (fun hc => hq ⟨hc.1, hc.2.resolve_right fun hb => hp hb.1⟩)]

theorem clsInvalid_wf {s : State} (h : ClsWf s) (q i : Nat) : ClsWf (s.clsInvalid q i) := by
  unfold State.clsInvalid
  dsimp only
  split
  · exact setCls_wf (setCls_wf h _ _ _) _ _ _
  · exact setCls_wf h _ _ _

section
variable {s : State} {q i q' j : Nat}

theorem clsInvalid_self (h : ClsWf s) (hi : i < 32768) : ((s.clsInvalid q i).clsAt q i).valid = false := by
  rw [clsAt_clsInvalid h hi hi]; simp

/-- Invalidation makes no entry valid. -/
theorem clsInvalid_valid (h : ClsWf s) (hi : i < 32768) (hj : j < 32768) (hv : (s.clsAt q' j).valid = false) :
    ((s.clsInvalid q i).clsAt q' j).valid = false := by
  rw [clsAt_clsInvalid h hi hj]
  split
  · rfl
  · exact hv

theorem clsInvalid_other (h : ClsWf s) (hi : i < 32768) (hj : j < 32768) (hne : q' ≠ q ∨ (j ≠ i ∧ j ≠ pairHalf i)) :
    (s.clsInvalid q i).clsAt q' j = s.clsAt q' j := by
  rw [clsAt_clsInvalid h hi hj, if_neg]
  rintro ⟨rfl, rfl | ⟨-, rfl⟩⟩ <;> simp at hne

end

/-- A listed index of a table, or one that holds its reset contents. -/
theorem Table.get_eq_default_or_mem {V : Type} (d : Nat → V) (t : Table V) (k : Nat) : Table.get d t k = d k ∨ ∃ v, (k, v) ∈ t := by
  induction t with
  | nil => exact Or.inl rfl
  | cons e t ih =>
    simp only [Table.get]
    split
    · next heq => exact Or.inr ⟨e.2, by rw [← heq]; exact List.mem_cons_self ..⟩
    · split
      · exact Or.inl rfl
      · exact ih.imp id fun ⟨v, hv⟩ => ⟨v, List.mem_cons_of_mem _ hv⟩

/-- The invalidation of a range in one quadrant (R113): its listed entries, after the losses of the range are forgotten. -/
def State.clsClear (lo hi : Nat) (s : State) (q : Nat) : State :=
  (s.tab.cls.filter fun e => e.1 / 32768 == q && decide (lo ≤ e.1 % 32768) && decide (e.1 % 32768 ≤ hi)).foldl
    (fun s e => s.clsInvalid q (e.1 % 32768))
    { s with tab := { s.tab with lost := s.tab.lost.filter fun l =>
        !(l.table = 0 && l.quad = q && decide (lo ≤ l.index) && decide (l.index ≤ hi)) } }

section
variable {q q' j : Nat}

theorem clsInvalids_wf (l : List (Nat × ClsEnt)) {s : State} (h : ClsWf s) : ClsWf (l.foldl (fun s e => s.clsInvalid q (e.1 % 32768)) s) := by
  induction l generalizing s with
  | nil => exact h
  | cons e t ih => exact ih (clsInvalid_wf h _ _)

theorem mod_lt_clsSize (n : Nat) : n % 32768 < 32768 := Nat.mod_lt _ (by decide)

theorem clsInvalids_valid {l : List (Nat × ClsEnt)} {s : State} (h : ClsWf s) (hj : j < 32768)
    (hv : (s.clsAt q j).valid = false ∨ ∃ e ∈ l, e.1 % 32768 = j) :
    ((l.foldl (fun s e => s.clsInvalid q (e.1 % 32768)) s).clsAt q j).valid = false := by
  induction l generalizing s with
  | nil => exact hv.resolve_right fun ⟨_, he, _⟩ => absurd he List.not_mem_nil
  | cons e t ih =>
    refine ih (clsInvalid_wf h _ _) ?_
    rcases hv with hv | ⟨e', he, rfl⟩
    · exact Or.inl (clsInvalid_valid h (mod_lt_clsSize _) hj hv)
    · rcases List.mem_cons.1 he with rfl | he
      · exact Or.inl (clsInvalid_self h hj)
      · exact Or.inr ⟨e', he, rfl⟩

theorem clsInvalids_other {l : List (Nat × ClsEnt)} {s : State} (h : ClsWf s) (hj : j < 32768)
    (hne : q' ≠ q ∨ ∀ e ∈ l, j ≠ e.1 % 32768 ∧ j ≠ pairHalf (e.1 % 32768)) :
    (l.foldl (fun s e => s.clsInvalid q (e.1 % 32768)) s).clsAt q' j = s.clsAt q' j := by
  induction l generalizing s with
  | nil => rfl
  | cons e t ih =>
    refine (ih (clsInvalid_wf h _ _) (hne.imp id fun hl e he => hl e (List.mem_cons_of_mem _ he))).trans ?_
    exact clsInvalid_other h (mod_lt_clsSize _) hj (hne.imp id fun hl => hl e (List.mem_cons_self ..))

variable {s : State} {lo hi : Nat}

theorem clsClear_wf (h : ClsWf s) (q : Nat) : ClsWf (s.clsClear lo hi q) := clsInvalids_wf _ h

/-- No entry of the range stays valid: those not listed are not valid to begin with. -/
theorem clsClear_valid (h : ClsWf s) (hj : j < 32768) (hlo : lo ≤ j) (hhi : j ≤ hi) : ((s.clsClear lo hi q).clsAt q j).valid = false := by
  refine clsInvalids_valid h hj ?_
  rcases Table.get_eq_default_or_mem (fun _ => ({} : ClsEnt)) s.tab.cls (q * 32768 + j) with hd | ⟨v, hv⟩
  · exact Or.inl (congrArg ClsEnt.valid hd)
  · have hmod : (q * 32768 + j) % 32768 = j := by omega
    have hdiv : (q * 32768 + j) / 32768 = q := by omega
    exact Or.inr ⟨_, List.mem_filter.2 ⟨hv, by simp [hmod, hdiv, hlo, hhi]⟩, hmod⟩

/-- Another quadrant's entries, and those that neither lie in the range nor have their other half there, stay. -/
theorem clsClear_other (h : ClsWf s) (hj : j < 32768)
    (hne : q' ≠ q ∨ ((j < lo ∨ hi < j) ∧ (pairHalf j < lo ∨ hi < pairHalf j))) : (s.clsClear lo hi q).clsAt q' j = s.clsAt q' j := by
  refine clsInvalids_other h hj (hne.imp id fun hout e he => ?_)
  obtain ⟨hjout, hpout⟩ := hout
  have hin := (List.mem_filter.1 he).2
  simp only [Bool.and_eq_true, decide_eq_true_eq] at hin
  obtain ⟨⟨-, hlo⟩, hhi⟩ := hin
  refine ⟨by omega, ?_⟩
  rintro rfl
  rw [pairHalf_pairHalf] at hpout
  omega

end

/-! ### Policers -/

/-- The policers are in canonical form. -/
abbrev PolWf (s : State) : Prop := Table.wf (fun _ => ({} : Policer)) s.tab.pol = true

theorem setPol_wf {s : State} (h : PolWf s) (q i : Nat) (o : Policer) : PolWf (s.setPol q i o) := Table.wf_set h _ _

theorem polAt_setPol_self {s : State} (h : PolWf s) (q i : Nat) (o : Policer) : (s.setPol q i o).polAt q i = o := Table.get_set_self h _ _

theorem polAt_setPol_ne {s : State} (h : PolWf s) {q i q' i' : Nat} (hi : i < 65536) (hi' : i' < 65536) (o : Policer)
    (hne : q' ≠ q ∨ i' ≠ i) : (s.setPol q i o).polAt q' i' = s.polAt q' i' := Table.get_set_ne h _ (by omega)

/-- The policer that POL_SET's parameters make of one, with its tokens brought up to a slot first (R106, R114). -/
def Args.policer (a : Args) (now : Nat) (o : Policer) : Policer :=
  let o := o.upTo now
  let n : Policer := { o with
    cir := a.n 2, pir := a.n 3, cbs := a.n 4, pbs := a.n 5, aware := a.f 6, lenAdj := a.i 7 7, yellowAct := a.n 8
    yellowDscp := a.n 9, redAct := a.n 10, tc := min o.tc (a.n 4 * 65536), tp := min o.tp (a.n 5 * 65536) }
  if a.f 11 then n.full else n

/-- A policer set has its configuration, and its buckets hold no more than their sizes: exactly these with RESET_BUCKETS. -/
theorem policer_fields (a : Args) (now : Nat) (o : Policer) :
    (a.policer now o).cir = a.n 2 ∧ (a.policer now o).pir = a.n 3 ∧ (a.policer now o).cbs = a.n 4 ∧ (a.policer now o).pbs = a.n 5
    ∧ (a.policer now o).aware = a.f 6 ∧ (a.policer now o).yellowAct = a.n 8 ∧ (a.policer now o).redAct = a.n 10
    ∧ (a.policer now o).tc ≤ a.n 4 * 65536 ∧ (a.policer now o).tp ≤ a.n 5 * 65536
    ∧ (a.f 11 = true → (a.policer now o).tc = a.n 4 * 65536 ∧ (a.policer now o).tp = a.n 5 * 65536) := by
  unfold Args.policer
  dsimp only
  by_cases hr : a.f 11 = true
  · simp [hr, Policer.full]
  · simp [hr]

theorem leNat_lt (bs : List Byte) : leNat bs < 256 ^ bs.length := by
  induction bs with
  | nil => decide
  | cons b t ih =>
    have hb := b.isLt
    rw [leNat, List.length_cons, pow_succ]
    omega

theorem length_slice (bs : List Byte) (k n : Nat) : (slice bs k n).length = n := by
  simp only [slice, List.length_append, List.length_replicate, List.length_take]
  omega

/-- POL_SET's index is a number of 16 bits. -/
theorem polSet_index_lt (ps : List Byte) : (readParams 0x0203 ps).n 1 < 65536 := by
  have hlt := leNat_lt (slice ps 2 2)
  rw [length_slice] at hlt
  exact hlt

/-! ### The answer of CLS_READ -/

/-- The parameters with which CLS_READ answers an index (R113): of a pair, the whole pair. -/
def State.clsFields (s : State) (q i : Nat) : List (Ty × Nat) :=
  let e := s.clsAt q i
  let lo := s.clsAt q (i / 2 * 2)
  let hi := s.clsAt q (i / 2 * 2 + 1)
  let w := if e.pair then 320 else 160
  [ (.wide w, if e.pair then lo.key + hi.key * 2 ^ 160 else e.key), (.wide w, if e.pair then lo.mask + hi.mask * 2 ^ 160 else e.mask),
    (.u 64, if e.pair then lo.act else e.act), (.u 2, if e.pair then 2 else 1), (.flag, b2n e.valid),
    (.u 2, if s.fld F.clsErrIdx_INDEX q = i then s.fld F.clsErrIdx_KIND q else 0) ]

section
variable {s : State} {q i : Nat}

theorem clsFields_single (h : (s.clsAt q i).pair = false) : s.clsFields q i =
    [ (.wide 160, (s.clsAt q i).key), (.wide 160, (s.clsAt q i).mask), (.u 64, (s.clsAt q i).act), (.u 2, 1),
      (.flag, if (s.clsAt q i).valid then 1 else 0), (.u 2, if s.fld F.clsErrIdx_INDEX q = i then s.fld F.clsErrIdx_KIND q else 0) ] := by
  simp [State.clsFields, h, b2n]

theorem clsFields_pair (h : (s.clsAt q i).pair = true) (heven : i % 2 = 0) : s.clsFields q i =
    [ (.wide 320, (s.clsAt q i).key + (s.clsAt q (i + 1)).key * 2 ^ 160), (.wide 320, (s.clsAt q i).mask + (s.clsAt q (i + 1)).mask * 2 ^ 160),
      (.u 64, (s.clsAt q i).act), (.u 2, 2), (.flag, if (s.clsAt q i).valid then 1 else 0),
      (.u 2, if s.fld F.clsErrIdx_INDEX q = i then s.fld F.clsErrIdx_KIND q else 0) ] := by
  have hbase : i / 2 * 2 = i := by omega
  simp [State.clsFields, h, b2n, hbase]

end

/-! ### The packets -/

section
variable {p : Packet} {a : Args} {s : State}

theorem clsWrite_completes (hacc : Accepts 0x0200 p s) (ha : readParams 0x0200 p.params = a) (hbad : a.bad = false)
    (hq : ∀ q, q < 4 → (a.n 0).testBit q = true → s.hasQuad q = true) (hi : a.n 1 < 32768)
    (hw : (a.n 2 = 1 ∧ a.n 3 % 16 < 2) ∨ (a.n 2 = 2 ∧ a.n 1 % 2 = 0 ∧ a.n 3 % 16 = 2)) (hact : a.n 5 < 2 ^ 54)
    (hdest : actField (a.n 5) 8 10 ≤ 515) (hport : s.hasPort (actField (a.n 5) 8 10) = true) :
    Completes (.clsWrite p) 0x0200 p s
      ((s.quadsOf (a.n 0)).foldl (fun u q => u.clsWrite q (a.n 1) (a.n 2) (a.n 3) (a.n 4) (a.n 5) (a.f 6)) (begun 0x0200 p s)) .ok
      (emitBlock []) := by
  subst ha
  change execClsWrite p s = _
  unfold execClsWrite
  refine completes_of_checks hacc (firstFail_of_all_false ?_) rfl
  simp only [List.forall_mem_cons, List.not_mem_nil, false_implies, implies_true, and_true, begun_hasQuad, begun_hasPort]
  refine ⟨no_absent_quad hq, by simp [hi], ?_, ?_, by simp [hport]⟩
  · rcases hw with ⟨h2, -⟩ | ⟨h2, h1, -⟩ <;> simp [*]
  · rcases hw with ⟨h2, hk⟩ | ⟨h2, -, hk⟩ <;> simp [h2, hk, hbad] <;> omega

theorem clsRead_completes (hacc : Accepts 0x0201 p s) (ha : readParams 0x0201 p.params = a) (hbad : a.bad = false)
    (hq : s.hasQuad (a.n 0) = true) (hi : a.n 1 < 32768) :
    Completes (.clsRead p) 0x0201 p s (begun 0x0201 p s) .ok (emitBlock (s.clsFields (a.n 0) (a.n 1))) := by
  subst ha
  change execClsRead p s = _
  unfold execClsRead
  refine completes_of_checks hacc (firstFail_of_all_false ?_) rfl
  simp [hbad, hq, hi]

theorem clsInvalidate_completes (hacc : Accepts 0x0202 p s) (ha : readParams 0x0202 p.params = a) (hbad : a.bad = false)
    (hq : ∀ q, q < 4 → (a.n 0).testBit q = true → s.hasQuad q = true) (hle : a.n 1 ≤ a.n 2) (hlt : a.n 2 < 32768) :
    Completes (.clsInvalidate p) 0x0202 p s ((s.quadsOf (a.n 0)).foldl (State.clsClear (a.n 1) (a.n 2)) (begun 0x0202 p s)) .ok
      (emitBlock []) := by
  subst ha
  change execClsInvalidate p s = _
  unfold execClsInvalidate
  refine completes_of_checks hacc (firstFail_of_all_false ?_) rfl
  simp only [List.forall_mem_cons, List.not_mem_nil, false_implies, implies_true, and_true, begun_hasQuad]
  refine ⟨no_absent_quad hq, by simp; omega, by simp [hbad, hle]⟩

theorem polSet_completes (hacc : Accepts 0x0203 p s) (ha : readParams 0x0203 p.params = a) (hbad : a.bad = false)
    (hq : ∀ q, q < 4 → (a.n 0).testBit q = true → s.hasQuad q = true) (hcir : a.n 2 ≤ a.n 3) (hpir : a.n 3 ≤ 2 ^ 24)
    (hcbs : a.n 4 < 2 ^ 24) (hpbs : a.n 5 < 2 ^ 24) :
    Completes (.polSet p) 0x0203 p s
      ((s.quadsOf (a.n 0)).foldl (fun u q => u.setPol q (a.n 1) (a.policer s.tick.slot (u.polAt q (a.n 1)))) (begun 0x0203 p s)) .ok
      (emitBlock []) := by
  subst ha
  change execPolSet p s = _
  unfold execPolSet
  refine completes_of_checks hacc (firstFail_of_all_false ?_) rfl
  simp only [List.forall_mem_cons, List.not_mem_nil, false_implies, implies_true, and_true, begun_hasQuad]
  refine ⟨hbad, no_absent_quad hq, ?_⟩
  simp only [Bool.or_eq_false_iff, decide_eq_false_iff_not]
  omega

theorem polGet_completes (hacc : Accepts 0x0204 p s) (ha : readParams 0x0204 p.params = a) (hbad : a.bad = false)
    (hq : s.hasQuad (a.n 0) = true) {o : Policer} (ho : o = (s.polAt (a.n 0) (a.n 1)).upTo s.tick.slot) :
    Completes (.polGet p) 0x0204 p s (begun 0x0204 p s) .ok (emitBlock [ (.u 32, o.cir), (.u 32, o.pir), (.u 32, o.cbs), (.u 32, o.pbs),
      (.flag, b2n o.aware), (.s 7, ofSigned 8 o.lenAdj), (.u 2, o.yellowAct), (.u 6, o.yellowDscp), (.flag, o.redAct),
      (.u 64, o.tc), (.u 64, o.tp) ]) := by
  subst ha ho
  change execPolGet p s = _
  unfold execPolGet
  refine completes_of_checks hacc (firstFail_of_all_false ?_) rfl
  simp [hbad, hq]

theorem ingPortSet_completes (hacc : Accepts 0x0205 p s) (ha : readParams 0x0205 p.params = a) (hbad : a.bad = false)
    (hport : s.hasPort (a.n 0) = true) (hhid : s.hidden (a.n 0) = false) (h0 : a.n 1 % 4096 ≠ 0) (h4095 : a.n 1 % 4096 ≠ 4095)
    (hacpt : a.n 1 / 65536 % 4 ≠ 3) (hcfg : a.n 1 < 2 ^ 25) (hprof : a.n 2 < 2 ^ 9) :
    Completes (.ingPortSet p) 0x0205 p s
      (((begun 0x0205 p s).setReg .prsPortcfg (a.n 0) (word (a.n 1))).setReg .prsPortprof (a.n 0) (word (a.n 2))) .ok (emitBlock []) := by
  subst ha
  have hbegun : (begun 0x0205 p s).hidden ((readParams 0x0205 p.params).n 0) = false := hhid
  change execIngPortSet p s = _
  unfold execIngPortSet
  refine completes_of_checks hacc (firstFail_of_all_false ?_) rfl
  simp only [List.forall_mem_cons, List.not_mem_nil, false_implies, implies_true, and_true, begun_hasPort]
  refine ⟨by simp [hport], hbegun, ?_⟩
  simp [hbad, h0, h4095, hacpt]
  omega

theorem ingPortGet_completes (hacc : Accepts 0x0206 p s) (ha : readParams 0x0206 p.params = a) (hbad : a.bad = false)
    (hport : s.hasPort (a.n 0) = true) :
    Completes (.ingPortGet p) 0x0206 p s (begun 0x0206 p s) .ok
      (emitBlock [(.u 32, (s.reg .prsPortcfg (a.n 0)).toNat), (.u 32, (s.reg .prsPortprof (a.n 0)).toNat)]) := by
  subst ha
  change execIngPortGet p s = _
  unfold execIngPortGet
  refine completes_of_checks hacc (firstFail_of_all_false ?_) rfl
  simp [hbad, hport]

end

/-! ### What the packets leave -/

section
variable {mask : Nat} {s u t : State} {q j : Nat}

/-- The write of an entry or pair in the named quadrants. -/
theorem clsWrites_result (h : ClsWf u) (hmem : mask.testBit q = true → q ∈ s.quadsOf mask) {i : Nat} (hi : i < 32768) (hj : j < 32768)
    {width : Nat} (hw : width = 2 → i % 2 = 0) (key m act : Nat) (valid : Bool)
    (ht : t = (s.quadsOf mask).foldl (fun u q => u.clsWrite q i width key m act valid) u) :
    (mask.testBit q = true → j = i → t.clsAt q j = clsEven width key m act valid)
    ∧ (mask.testBit q = true → j = i + 1 → width = 2 → t.clsAt q j = clsOdd key m valid)
    ∧ (mask.testBit q = false ∨ j / 2 ≠ i / 2 → t.clsAt q j = u.clsAt q j) := by
  subst ht
  have hP : ∀ u a, ClsWf u → ClsWf (u.clsWrite a i width key m act valid) := fun u a hu => clsWrite_wf hu ..
  have hg : ∀ u a, ClsWf u → a ≠ q → (u.clsWrite a i width key m act valid).clsAt q j = u.clsAt q j :=
    fun u a hu ha => clsAt_clsWrite_other hu hi hw hj (Or.inl (Ne.symm ha))
  refine ⟨fun hm hji => ?named, fun hm hji h2 => ?odd, fun hother => ?other⟩
  case named =>
    obtain ⟨v, hv, -, hvq⟩ := foldl_of_mem (g := fun u => u.clsAt q j) hP hg (quadsOf_nodup s mask) (hmem hm) h
    rw [hvq, hji, clsAt_clsWrite_self hv hi hw]
  case odd =>
    obtain ⟨v, hv, -, hvq⟩ := foldl_of_mem (g := fun u => u.clsAt q j) hP hg (quadsOf_nodup s mask) (hmem hm) h
    subst h2
    rw [hvq, clsAt_clsWrite_pair hv hi (hw rfl) _ _ _ _ hj, if_pos ⟨rfl, hji⟩]
  case other =>
    exact foldQuads_unchanged (g := fun u => u.clsAt q j) hP hg h
      (hother.imp id fun hne v hv => clsAt_clsWrite_other hv hi hw hj (Or.inr hne))

/-- The invalidation of a range in the named quadrants. -/
theorem clsClears_result (h : ClsWf u) (hmem : mask.testBit q = true → q ∈ s.quadsOf mask) {lo hi : Nat} (hj : j < 32768)
    (ht : t = (s.quadsOf mask).foldl (State.clsClear lo hi) u) :
    (mask.testBit q = true → lo ≤ j → j ≤ hi → (t.clsAt q j).valid = false)
    ∧ (mask.testBit q = false ∨ ((j < lo ∨ hi < j) ∧ (pairHalf j < lo ∨ hi < pairHalf j)) → t.clsAt q j = u.clsAt q j) := by
  subst ht
  have hP : ∀ u a, ClsWf u → ClsWf (u.clsClear lo hi a) := fun u a hu => clsClear_wf hu a
  have hg : ∀ u a, ClsWf u → a ≠ q → (u.clsClear lo hi a).clsAt q j = u.clsAt q j :=
    fun u a hu ha => clsClear_other hu hj (Or.inl (Ne.symm ha))
  refine ⟨fun hm hlo hhi => ?inside, fun hother => ?outside⟩
  case inside =>
    obtain ⟨v, hv, -, hvq⟩ := foldl_of_mem (g := fun u => u.clsAt q j) hP hg (quadsOf_nodup s mask) (hmem hm) h
    rw [hvq]
    exact clsClear_valid hv hj hlo hhi
  case outside =>
    exact foldQuads_unchanged (g := fun u => u.clsAt q j) hP hg h (hother.imp id fun hout v hv => clsClear_other hv hj (Or.inr hout))

/-- A change of one policer in the named quadrants. -/
theorem setPols_result (h : PolWf u) (hmem : mask.testBit q = true → q ∈ s.quadsOf mask) {i : Nat} (hi : i < 65536) (hj : j < 65536)
    (set : Policer → Policer) (ht : t = (s.quadsOf mask).foldl (fun u q => u.setPol q i (set (u.polAt q i))) u) :
    (mask.testBit q = true → t.polAt q i = set (u.polAt q i)) ∧ (mask.testBit q = false ∨ j ≠ i → t.polAt q j = u.polAt q j) := by
  subst ht
  have hP : ∀ u a, PolWf u → PolWf (u.setPol a i (set (u.polAt a i))) := fun u a hu => setPol_wf hu ..
  have hg : ∀ k, k < 65536 → ∀ u a, PolWf u → a ≠ q → (u.setPol a i (set (u.polAt a i))).polAt q k = u.polAt q k :=
    fun k hk u a hu ha => polAt_setPol_ne hu hi hk _ (Or.inl (Ne.symm ha))
  refine ⟨fun hm => ?named, fun hother => ?other⟩
  case named =>
    obtain ⟨v, hv, hvu, hvq⟩ := foldl_of_mem (g := fun u => u.polAt q i) hP (hg i hi) (quadsOf_nodup s mask) (hmem hm) h
    rw [hvq, polAt_setPol_self hv, hvu]
  case other =>
    exact foldQuads_unchanged (g := fun u => u.polAt q j) hP (hg j hj) h
      (hother.imp id fun hne v hv => polAt_setPol_ne hv hi hj _ (Or.inr hne))

end

/-- Settles O40: each packet's body passes its checks, and what it leaves is a fold over the named quadrants, or a register write. -/
theorem ingressPacketsAnswer : Obligations.IngressPacketsAnswer := by
  refine ⟨?write, ?read, ?invalidate, ?polSet, ?polGet, ?portSet, ?portGet⟩
  case write =>
    intro p a s hwf hacc ha hbad hq hi hw hact hdest hport
    have heven : a.n 2 = 2 → a.n 1 % 2 = 0 := fun h2 => by omega
    exact ⟨_, clsWrite_completes hacc ha hbad hq hi hw hact hdest hport, fun q j hq4 hj =>
      clsWrites_result (u := begun 0x0200 p s) hwf (mem_quadsOf_of_named hq hq4) hi hj heven _ _ _ _ rfl⟩
  case read =>
    intro p a err s hacc ha hbad hq hi herr
    subst herr
    refine ⟨fun hp => ?_, fun hp heven => ?_⟩
    · rw [← clsFields_single hp]; exact clsRead_completes hacc ha hbad hq hi
    · rw [← clsFields_pair hp heven]; exact clsRead_completes hacc ha hbad hq hi
  case invalidate =>
    intro p a s hwf hacc ha hbad hq hle hlt
    exact ⟨_, clsInvalidate_completes hacc ha hbad hq hle hlt, fun q j hq4 hj =>
      clsClears_result (u := begun 0x0202 p s) hwf (mem_quadsOf_of_named hq hq4) hj rfl⟩
  case polSet =>
    intro p a s hwf hacc ha hbad hq hcir hpir hcbs hpbs
    have hi : a.n 1 < 65536 := ha ▸ polSet_index_lt p.params
    refine ⟨_, polSet_completes hacc ha hbad hq hcir hpir hcbs hpbs, fun q j hq4 hj => ?_⟩
    obtain ⟨hset, hother⟩ := setPols_result (u := begun 0x0203 p s) hwf (mem_quadsOf_of_named hq hq4) hi hj
      (a.policer s.tick.slot) rfl
    refine ⟨fun hm hji => ?_, hother⟩
    rw [hji, hset hm]
    exact policer_fields a _ _
  case polGet =>
    intro p a o s hacc ha hbad hq ho
    exact polGet_completes hacc ha hbad hq ho
  case portSet =>
    intro p a s h hacc ha hbad hport hhid h0 h4095 hacpt hcfg hprof
    have hw := wf_setReg (s := begun 0x0205 p s) h.regs .prsPortcfg (a.n 0) (word (a.n 1))
    refine ⟨_, ingPortSet_completes hacc ha hbad hport hhid h0 h4095 hacpt hcfg hprof, ?_, reg_setReg_self hw _ _ _, fun r i hne => ?_⟩
    · rw [reg_setReg_ne hw _ (by simp), reg_setReg_self (s := begun 0x0205 p s) h.regs]
    · rw [reg_setReg_ne hw _ (by rintro ⟨rfl, rfl⟩; simp at hne),
        reg_setReg_ne (s := begun 0x0205 p s) h.regs _ (by rintro ⟨rfl, rfl⟩; simp at hne), begun_reg_eq]
  case portGet =>
    intro p a s hacc ha hbad hport
    exact ingPortGet_completes hacc ha hbad hport

end Sys2Proof.Machine

/-!
Tables of the pipeline (O30): what scrub visits, restorations, the engine of the PFX banks, freed member ranges and a flushing scan pass leave.
-/
namespace Sys2Proof.Machine
open Sys2Proof

/-! ### Logged errors -/

/-- An error is logged by its place in one register and a flag in another. -/
theorem loggedError {s : State} (h : RegsWf s) {r : Reg} {f : Fld} (hf : 0 < f.width ∧ f.lo + f.width ≤ 32) (hr : r ≠ f.reg) (q : Nat) (w : Word) :
    ((s.setReg r q w).raise f q).flag f q = true ∧ ((s.setReg r q w).raise f q).reg r q = w :=
  ⟨flag_raise_self (wf_setReg h _ _ _) hf q,
   (reg_raise_ne (wf_setReg h _ _ _) (fun hc => hr hc.1)).trans (reg_setReg_self h _ _ _)⟩

theorem clsErr_parity {s : State} (h : RegsWf s) (q i : Nat) :
    (s.clsErr q i 1).flag F.clsStat_KEY_PERR q = true ∧ (s.clsErr q i 1).reg .clsErrIdx q = word (65536 + i) := by
  rw [State.clsErr, if_pos rfl, Nat.one_mul]
  exact loggedError h (by decide) (by decide) q _

theorem fwdErr_result {s : State} (h : RegsWf s) {f : Fld} (hf : 0 < f.width ∧ f.lo + f.width ≤ 32) (hr : .fwdErrIdx ≠ f.reg)
    (q table kind idx : Nat) : (s.fwdErr q table kind idx f).flag f q = true
      ∧ (s.fwdErr q table kind idx f).reg .fwdErrIdx q = word (table * 2 ^ 28 + kind * 2 ^ 24 + idx) := loggedError h hf hr q _

theorem clsErr_tab (s : State) (q i kind : Nat) : (s.clsErr q i kind).tab = s.tab := by rw [State.clsErr, raise_tab, setReg_tab]
theorem fwdErr_tab (s : State) (q table kind idx : Nat) (f : Fld) : (s.fwdErr q table kind idx f).tab = s.tab := by
  rw [State.fwdErr, raise_tab, setReg_tab]

/-! ### Scrubs -/

theorem clsInvalid_regs (s : State) (q i : Nat) : (s.clsInvalid q i).regs = s.regs := by
  unfold State.clsInvalid
  dsimp only
  split <;> rfl

/-- A parity error logs its place and invalidates the entry (R100); whether it joins the losses touches neither. -/
theorem clsParity_result (s : State) (q i : Nat) :
    (s.clsParity q i).regs = (s.clsErr q i 1).regs ∧ (s.clsParity q i).tab.cls = ((s.clsErr q i 1).clsInvalid q i).tab.cls := by
  unfold State.clsParity
  dsimp only
  split <;> exact ⟨clsInvalid_regs _ q i, rfl⟩

theorem clsScrubVisit_good (q x : Nat) (s : State) : exec (.clsScrubVisit q x false) s = .next s := by
  change execClsScrubVisit q x false s = _
  simp [execClsScrubVisit]

theorem clsScrubVisit_bad {q x : Nat} {s : State} (hq : s.hasQuad q = true) (hen : s.flag F.clsCtl_SCRUB_EN q = true) (hx : x < 32768) :
    exec (.clsScrubVisit q x true) s = .next (s.clsParity q x) := by
  change execClsScrubVisit q x true s = _
  simp [execClsScrubVisit, hq, hen, Nat.mod_eq_of_lt hx]

/-- A visit that finds an error in a next hop, group, member or interface (R178). -/
theorem fwdScrubVisit_l3 {q table idx kind : Nat} {s : State} (hq : s.hasQuad q = true) (hen : s.flag F.fwdPfxCtl_SCRUB_EN q = true)
    (h1 : 1 ≤ table) (h4 : table ≤ 4) (hi : idx < 65536) (hk : kind ≠ 0) :
    exec (.fwdScrubVisit q table idx kind) s = .next (s.l3Error q (table + 2) idx kind) := by
  change execFwdScrubVisit q table idx kind s = _
  rw [execFwdScrubVisit, if_neg (by simp [hq, hen, hk, h4]), if_neg (by omega), Nat.mod_eq_of_lt hi]

/-- A visit that finds an error in the PFX banks. -/
theorem fwdScrubVisit_pfx {q idx kind : Nat} {s : State} (hq : s.hasQuad q = true) (hen : s.flag F.fwdPfxCtl_SCRUB_EN q = true)
    (hk : kind ≠ 0) : exec (.fwdScrubVisit q 0 idx kind) s = .next (s.pfxError q (idx / 1024 % 256) (idx % 1024) kind) := by
  change execFwdScrubVisit q 0 idx kind s = _
  rw [execFwdScrubVisit, if_neg (by simp [hq, hen, hk]), if_pos rfl]

/-- An entry joins the losses unless it is among them. -/
def State.lose (s : State) (table q idx : Nat) : State :=
  if s.isLost table q idx then s
  else { s with tab := { s.tab with lost := s.tab.lost ++ [{ table := table, quad := q, index := idx }] } }

theorem lose_regs (s : State) (table q idx : Nat) : (s.lose table q idx).regs = s.regs := by
  unfold State.lose; split <;> rfl

theorem isLost_lose (s : State) (table q idx : Nat) : (s.lose table q idx).isLost table q idx = true := by
  unfold State.lose
  split
  · next hlost => exact hlost
  · simp [State.isLost]

theorem l3Error_of_uncorrectable (s : State) (q table idx : Nat) :
    s.l3Error q table idx 3 = (s.fwdErr q (table - 2) 3 idx F.fwdStat_TBL_UE).lose table q idx := by
  rw [State.l3Error, if_neg (by decide)]
  rfl

/-- An uncorrectable error of a layer-3 entry holds it from the data plane and shows as TBL_UE. -/
theorem l3Error_uncorrectable {s : State} (h : RegsWf s) (q table idx : Nat) :
    (s.l3Error q table idx 3).flag F.fwdStat_TBL_UE q = true ∧ (s.l3Error q table idx 3).isLost table q idx = true := by
  rw [l3Error_of_uncorrectable]
  exact ⟨(flag_of_regs (lose_regs ..) _ _).trans (fwdErr_result h (by decide) (by decide) q (table - 2) 3 idx).1, isLost_lose ..⟩

/-- A corrected error is only logged. -/
theorem l3Error_corrected (s : State) (q table idx : Nat) :
    s.l3Error q (table + 2) idx 2 = s.fwdErr q table 2 idx F.fwdStat_TBL_CE := by
  rw [State.l3Error, if_pos rfl, Nat.add_sub_cancel]

/-! ### PFX banks -/

/-- The PFX banks are in canonical form. -/
abbrev BanksWf (s : State) : Prop := Table.wf (fun _ => ({} : PfxBank)) s.tab.banks = true

theorem bank_setBank {s : State} (h : BanksWf s) (q b : Nat) (x : PfxBank) : (s.setBank q b x).bank q b = x := Table.get_set_self h _ _

/-- The one single entry of a bank stands at its last index. -/
theorem at?_single (e : PfxEnt) : ({ pairs := [], singles := [e] } : PfxBank).at? 1023 = some (1023, e) := by
  simp [PfxBank.at?, PfxBank.all]

/-- A rewrite finds the entry by family, VRF, address and length, whatever its other fields. -/
theorem rewrite_single {e d : PfxEnt} (h : e.same d = true) :
    ({ pairs := [], singles := [e] } : PfxBank).rewrite d = { pairs := [], singles := [d] } := by
  simp [PfxBank.rewrite, replaceEnt, h]

/-- A key parity error invalidates the entry at its index (R178). -/
theorem pfxError_parity {s : State} (h : RegsWf s) (hb : BanksWf s) {q b : Nat} {e : PfxEnt}
    (hbank : s.bank q b = { pairs := [], singles := [e] }) :
    (s.pfxError q b 1023 1).flag F.fwdStat_KEY_PERR q = true
    ∧ (s.pfxError q b 1023 1).bank q b = { pairs := [], singles := [{ e with valid := false }] } := by
  have hflag := (fwdErr_result h (f := F.fwdStat_KEY_PERR) (by decide) (by decide) q 0 1 (b * 1024 + 1023)).1
  have htab := fwdErr_tab s q 0 1 (b * 1024 + 1023) F.fwdStat_KEY_PERR
  unfold State.pfxError
  dsimp only
  generalize s.fwdErr q 0 1 (b * 1024 + 1023) F.fwdStat_KEY_PERR = u at hflag htab
  have hu : u.bank q b = { pairs := [], singles := [e] } := by rw [State.bank, htab]; exact hbank
  have hwf : BanksWf u := by rw [BanksWf, htab]; exact hb
  simp only [hu, at?_single]
  rw [rewrite_single (by simp [PfxEnt.same])]
  exact ⟨(flag_of_regs (t := u) rfl _ _).trans hflag, bank_setBank hwf q b _⟩

/-! ### Restoration from shadows -/

/-- With one entry lost, its restoration finds it, and ends the loss. -/
theorem lost_single {s : State} {l : LostEnt} {table q idx : Nat} (hl : s.tab.lost = [l]) (ht : l.table = table) (hq : l.quad = q)
    (hi : l.index = idx) : (s.tab.lost.find? fun e => e.table = table && e.quad = q && e.index = idx) = some l
      ∧ (s.found table q idx).tab.lost = [] := by
  simp [State.found, hl, ht, hq, hi]

/-- A lost single entry of the classification memory is written again as valid (R100). -/
theorem shadowRestore_cls {s : State} {l : LostEnt} {q idx : Nat} (hrun : s.fwRunning = true) (hl : s.tab.lost = [l]) (ht : l.table = 0)
    (hq : l.quad = q) (hi : l.index = idx) (hp : (s.clsAt q idx).pair = false) :
    exec (.shadowRestore 0 q idx) s = .next ((s.found 0 q idx).setCls q idx { s.clsAt q idx with valid := true }) := by
  change execShadowRestore 0 q idx s = _
  have hp' : (Table.get (fun _ => ({} : ClsEnt)) (s.found 0 q idx).tab.cls (q * 32768 + idx)).pair = false := hp
  simp only [execShadowRestore, hrun, (lost_single hl ht hq hi).1, hp', Bool.not_true, Bool.false_eq_true, if_false,
    if_neg (by decide : ¬ 0 = 2), State.setCls, hp]
  rfl

/-- A lost next hop is held no longer (R178). -/
theorem shadowRestore_nh {s : State} {l : LostEnt} {q idx : Nat} (hrun : s.fwRunning = true) (hl : s.tab.lost = [l]) (ht : l.table = 3)
    (hq : l.quad = q) (hi : l.index = idx) : exec (.shadowRestore 3 q idx) s = .next (s.found 3 q idx) := by
  change execShadowRestore 3 q idx s = _
  simp [execShadowRestore, hrun, (lost_single hl ht hq hi).1]

/-! ### Jobs and the engine of the PFX banks -/

/-- A step of a job leaves the tables but the list of jobs. -/
theorem stepJob_tab (s : State) (chan tag : Nat) (f : Job → Job) (ans : Job → State → Status × List Byte) :
    ∃ js, (s.stepJob chan tag f ans).tab = { s.tab with jobs := js } := by
  unfold State.stepJob
  split
  · exact ⟨s.tab.jobs, rfl⟩
  · dsimp only
    split
    · exact ⟨_, answer_tab ..⟩
    · exact ⟨_, rfl⟩

/-- The state without the job of a channel and TAG. -/
def State.endJob (s : State) (chan tag : Nat) : State :=
  { s with tab := { s.tab with jobs := s.tab.jobs.filter fun k => !(k.pkt.chan = chan && k.pkt.tag = tag) } }

/-- The last step of a job removes it and answers its command. -/
theorem stepJob_last {s : State} {chan tag : Nat} {f : Job → Job} {ans : Job → State → Status × List Byte} {j : Job}
    (hj : s.job? chan tag = some j) (h0 : (f j).left = 0) :
    s.stepJob chan tag f ans = (s.endJob chan tag).answer (f j).op (f j).pkt (f j).inc (ans (f j) (s.endJob chan tag)).1
      (ans (f j) (s.endJob chan tag)).2 := by
  simp only [State.stepJob, hj, h0, if_true]
  rfl

/-- The engine does the oldest operation of its quadrant when it is of the wanted kind (R173, R175). -/
theorem pfxStep_front {s : State} (hb : BanksWf s) {q : Nat} {o : PfxOp} {rest : List PfxOp} (hops : s.tab.pfxOps = o :: rest)
    (hq : o.quad = q) {want : Nat → Bool} (hw : want o.kind = true) :
    (s.pfxStep q want).tab.pfxOps = rest ∧ (s.pfxStep q want).bank q o.bank = o.apply (s.bank q o.bank) := by
  have hfind : (s.tab.pfxOps.find? fun o => o.quad = q) = some o := by simp [hops, hq]
  simp only [State.pfxStep, hfind, hw, Bool.not_true, Bool.false_eq_true, if_false]
  generalize hs' : ({ s.setBank q o.bank (o.apply (s.bank q o.bank)) with
    tab := { (s.setBank q o.bank (o.apply (s.bank q o.bank))).tab with
      pfxOps := (s.setBank q o.bank (o.apply (s.bank q o.bank))).tab.pfxOps.erase o } } : State) = s'
  obtain ⟨js, hjs⟩ := stepJob_tab s' o.chan o.tag (fun j => { j with left := j.left - 1 }) _
  rw [State.bank, hjs, ← hs']
  refine ⟨?_, bank_setBank hb q o.bank _⟩
  change s.tab.pfxOps.erase o = rest
  rw [hops, List.erase_cons_head]

/-! ### Freed ranges -/

/-- The epochs that cover a number of slots. -/
theorem cdiv_epochSlots (n : Nat) : cdiv n Config.epochSlots = (n + 1048575) / 1048576 := by
  have hslots : Config.epochSlots = 1048575 + 1 := by decide
  rw [cdiv, hslots, ← Nat.add_assoc, Nat.add_sub_cancel]

/-! ### A flushing scan pass -/

/-- What deletions of a quadrant's positions leave of the address table depends on the table alone. -/
theorem dropAddrs_addr (q : Nat) (l : List (Nat × AddrEnt)) (s : State) :
    (l.foldl (fun s e => s.dropAddr q e.1) s).tab.addr = l.foldl (fun t e => Table.erase t (q * 2 ^ 20 + e.1)) s.tab.addr := by
  induction l generalizing s with
  | nil => rfl
  | cons e t ih => exact ih _

/-- The entries that a flush names: by port or all, by FID, and by type (R157). -/
def flushNames (a : Args) (e : AddrEnt) : Bool :=
  (a.f 2 || (!e.isSet && e.dest == a.n 1)) && (!a.f 3 || e.fid == a.n 4) && e.ofType (a.n 5)

/-- A flush for all ports, any FID and any type names every entry. -/
theorem flushNames_all {a : Args} (hall : a.f 2 = true) (hfid : a.f 3 = false) (htype : a.n 5 = 0) (e : AddrEnt) : flushNames a e = true := by
  simp [flushNames, AddrEnt.ofType, hall, hfid, htype]

theorem flushAddr_of_all {ok : AddrEnt → Bool} (h : ∀ e, ok e = true) (s : State) (q : Nat) :
    s.flushAddr q ok = (s.addrOf q).foldl (fun s e => s.dropAddr q e.1) s := by
  rw [State.flushAddr, List.filter_eq_self.2 fun e _ => h e.2]

/-- What a flush leaves alone. -/
theorem flushAddr_frame (s : State) (q : Nat) (ok : AddrEnt → Bool) : (s.flushAddr q ok).pkts = s.pkts
    ∧ (s.flushAddr q ok).tab.jobs = s.tab.jobs ∧ (s.flushAddr q ok).tab.scans = s.tab.scans :=
  ⟨foldl_part (·.pkts) (by intros; rfl) _ _, foldl_part (·.tab.jobs) (by intros; rfl) _ _, foldl_part (·.tab.scans) (by intros; rfl) _ _⟩

/-- The pass of a flush in the last of its quadrants ends the job with the answer OK. -/
theorem flushPass_last {s : State} {q : Nat} {sc : Scan} {j : Job} (a : Args) (hj : s.job? sc.chan sc.tag = some j) (hleft : j.left = 1) :
    ∃ ps, s.flushPass q sc a = ((s.flushAddr q (flushNames a)).endJob sc.chan sc.tag).answer j.op j.pkt j.inc .ok ps := by
  have hj' : (s.flushAddr q (flushNames a)).job? sc.chan sc.tag = some j := by
    rw [State.job?, (flushAddr_frame s q _).2.1]; exact hj
  unfold State.flushPass
  exact ⟨_, stepJob_last hj' (by simp [hleft])⟩

/-- The only scan that waits in a quadrant leaves the list and gets its pass. -/
theorem scanPass_flush {s : State} {q : Nat} {sc : Scan} {j : Job} (hsc : s.tab.scans = [sc]) (hq : sc.quad = q)
    (hj : s.job? sc.chan sc.tag = some j) (hop : j.op = 0x0304) :
    exec (.scanPass q) s
      = .next (({ s with tab := { s.tab with scans := [] } } : State).flushPass q sc (readParams 0x0304 j.pkt.params)) := by
  change execScanPass q s = _
  have hfind : (s.tab.scans.find? fun x => x.quad = q) = some sc := by simp [hsc, hq]
  have hrest : (s.tab.scans.filter fun x => x != sc) = [] := by simp [hsc]
  have hj' : ({ s with tab := { s.tab with scans := [] } } : State).job? sc.chan sc.tag = some j := hj
  simp only [execScanPass, hfind, hrest, hj', hop, if_neg (by decide : ¬ 0x0304 = 0x0303)]

/-- In the last of its quadrants a flush that names every entry deletes all of the quadrant, and answers (R150, R157). -/
theorem scanPass_flush_last {s : State} {q : Nat} {sc : Scan} {j : Job} (hsc : s.tab.scans = [sc]) (hq : sc.quad = q)
    (hj : s.job? sc.chan sc.tag = some j) (hop : j.op = 0x0304) (hleft : j.left = 1)
    (hall : ∀ e, flushNames (readParams 0x0304 j.pkt.params) e = true) :
    ∃ t r, exec (.scanPass q) s = .next t ∧ t.tab.scans = [] ∧ t.pkts.replies = s.pkts.replies ++ [r] ∧ r.chan = j.pkt.chan
      ∧ r.tag = j.pkt.tag ∧ r.status = 0 ∧ t.tab.addr = ((s.addrOf q).foldl (fun s e => s.dropAddr q e.1) s).tab.addr := by
  have hvisit := scanPass_flush hsc hq hj hop
  obtain ⟨ps, hpass⟩ := flushPass_last (s := { s with tab := { s.tab with scans := [] } }) (q := q) (readParams 0x0304 j.pkt.params) hj hleft
  obtain ⟨hpkts, -, hscans⟩ := flushAddr_frame { s with tab := { s.tab with scans := [] } } q (flushNames (readParams 0x0304 j.pkt.params))
  rw [hpass] at hvisit
  refine ⟨_, _, hvisit, ?_, (answer_replies ..).trans (congrArg (fun k : Packets => k.replies ++ _) hpkts), rfl, rfl, rfl, ?_⟩
  · rw [answer_tab]; exact hscans
  · rw [answer_tab]
    change (State.flushAddr _ q _).tab.addr = _
    rw [flushAddr_of_all hall, dropAddrs_addr, dropAddrs_addr]
    rfl

/-- Settles O30: each command is an equation for what it does to the one entry, operation, range or scan that it acts on. -/
theorem tableScrubsEnginesAndShadows : Obligations.TableScrubsEnginesAndShadows := by
  refine ⟨?clsScrub, ?l3Scrub, ?pfxScrub, ?restore, ?engine, ?ranges, ?scan⟩
  case clsScrub =>
    intro q x s h hcls hq hen hx
    obtain ⟨hregs, htab⟩ := clsParity_result s q x
    obtain ⟨hflag, hidx⟩ := clsErr_parity h.regs q x
    refine ⟨clsScrubVisit_good q x s, _, clsScrubVisit_bad hq hen hx, (flag_of_regs hregs _ _).trans hflag,
      (reg_of_regs hregs _ _).trans hidx, ?_⟩
    rw [State.clsAt, htab]
    exact clsInvalid_self (by rw [ClsWf, clsErr_tab]; exact hcls) hx
  case l3Scrub =>
    intro q table idx s h hq hen h1 h4 hi
    obtain ⟨hflag, hidx⟩ := fwdErr_result h.regs (f := F.fwdStat_TBL_CE) (by decide) (by decide) q table 2 idx
    have hvisit := fwdScrubVisit_l3 (kind := 2) hq hen h1 h4 hi (by decide)
    rw [l3Error_corrected] at hvisit
    exact ⟨⟨_, hvisit, hflag, fwdErr_tab .., hidx⟩, _, fwdScrubVisit_l3 hq hen h1 h4 hi (by decide), l3Error_uncorrectable h.regs q (table + 2) idx⟩
  case pfxScrub =>
    intro q b e s h hb hq hen hlt hbank
    have hdiv : (b * 1024 + 1023) / 1024 % 256 = b := by omega
    have hmod : (b * 1024 + 1023) % 1024 = 1023 := by omega
    have hvisit := fwdScrubVisit_pfx (idx := b * 1024 + 1023) (kind := 1) hq hen (by decide)
    rw [hdiv, hmod] at hvisit
    exact ⟨_, hvisit, pfxError_parity h.regs hb hbank⟩
  case restore =>
    intro q idx l s hcls hrun hl hq hi
    refine ⟨fun ht hp => ⟨_, shadowRestore_cls hrun hl ht hq hi hp, (lost_single hl ht hq hi).2, ?_⟩,
      fun ht => ⟨_, shadowRestore_nh hrun hl ht hq hi, ?_, rfl⟩⟩
    · exact congrArg ClsEnt.valid (Table.get_set_self hcls _ _)
    · simp [State.isLost, (lost_single hl ht hq hi).2]
  case engine =>
    intro q o rest s hb hops hq
    refine ⟨fun hk => ⟨_, rfl, pfxStep_front hb hops hq (by simpa using hk)⟩, fun hk => ?_⟩
    obtain ⟨hrest, hbank⟩ := pfxStep_front hb hops hq (want := (· == 1)) (by simp [hk])
    exact ⟨_, rfl, hrest, hbank.trans (by simp [PfxOp.apply, hk])⟩
  case ranges =>
    intro q n r u s hr hq hn hdue hu
    refine ⟨_, rfl, ?_, rfl⟩
    have hcdiv : cdiv (n + 128) Config.epochSlots * Config.epochSlots ≤ s.tick.slot := by rw [cdiv_epochSlots]; exact hdue
    simp [hr, hq, hn, hu, hcdiv]
  case scan =>
    intro q sc j s hsc hq hj hop hleft hall hfid htype
    exact scanPass_flush_last hsc hq hj hop hleft (flushNames_all hall hfid htype)

end Sys2Proof.Machine

/-!
Frames from their start to their release (O20): reception, dispatch, the end of reception, the strand's completion, the release, and what
correction and refresh make of a policer.
-/
namespace Sys2Proof.Machine
open Sys2Proof

/-! ### Frames of the data path -/

section
variable {s : State} {f : Frame}

theorem oldest_single {p : Nat} {ok : Frame → Bool} (hf : s.path.frames = [f]) (hp : f.port = p) (hm : f.mir = none) (hok : ok f = true) :
    s.oldest p ok = some f := by
  simp [State.oldest, hf, hp, hm, hok]

theorem onFrame_single (hf : s.path.frames = [f]) (g : Frame → Frame) : (s.onFrame f.id g).path.frames = [g f] := by
  simp [State.onFrame, State.inPath, hf]

/-- A frame that neither has gone to the fabric nor is dead is not forgotten. -/
theorem mem_settle (hf : f ∈ s.path.frames) (hfab : f.stage ≠ .fabric) (hdead : f.stage ≠ .dead) : f ∈ s.settle.path.frames := by
  simp [State.settle, State.inPath, hf, hfab, hdead]

theorem settle_single (hf : s.path.frames = [f]) (hfab : f.stage ≠ .fabric) (hdead : f.stage ≠ .dead) : s.settle.path.frames = [f] := by
  simp [State.settle, State.inPath, hf, hfab, hdead]

/-- The frame found under a number is found changed after a change that keeps numbers. -/
theorem frame?_onFrame {id : Nat} {g : Frame → Frame} (hg : ∀ f, (g f).id = f.id) (s : State) :
    (s.onFrame id g).frame? id = (s.frame? id).map g := by
  have hid : ((fun f : Frame => decide (f.id = id)) ∘ fun f => if f.id = id then g f else f) = fun f => decide (f.id = id) := by
    funext f
    simp only [Function.comp]
    split <;> simp [hg]
  simp only [State.frame?, State.onFrame, State.inPath, List.find?_map, hid]
  cases hfind : s.path.frames.find? fun f => decide (f.id = id) with
  | none => rfl
  | some f =>
    have hf : f.id = id := by simpa using List.find?_some hfind
    simp [hf]

theorem frame?_isSome_of_mem (hf : f ∈ s.path.frames) : (s.frame? f.id).isSome = true := by
  rw [State.frame?, List.find?_isSome]
  exact ⟨f, hf, by simp⟩

theorem mem_of_oldest {p : Nat} {ok : Frame → Bool} (h : s.oldest p ok = some f) : f ∈ s.path.frames := List.mem_of_find?_eq_some h

theorem drop_path (s : State) (p code : Nat) : (s.drop p code).path = s.path := by unfold State.drop; split <;> rfl
theorem drop_wf (h : RegsWf s) (p code : Nat) : RegsWf (s.drop p code) := by unfold State.drop; split <;> exact h

end

/-! ### Reception -/

/-- A start on a front port that takes frames, with its bytes (R350, R354). -/
def rxFrame (s : State) (p : Nat) (bytes : List Byte) (edge phase sym : Nat) (st : Stage) : Frame :=
  { id := 0, port := p, bytes := bytes, start := s.tick.slot, limit := s.mfs p, stage := st
    md := { istamp := s.ingressStamp p edge phase sym, iport := p } }

theorem frameStart_of_linkUp {s : State} {p : Nat} (hp : p < 512) (hport : s.hasPort p = true) (hcfg : s.configured p = true)
    (hhid : s.hidden p = false) (hsb : s.flag F.macModeStat_SB_ACT p = false) (hup : s.linkUp p = true) (bytes : List Byte)
    (edge phase sym : Nat) :
    exec (.frameStart p bytes edge phase sym) s = .next (
      if 32768 * s.width p < s.fifoBytes p + s.mfs p then
        (((s.addFrame (rxFrame s p bytes edge phase sym .refused)).count .macRxOvfCnt p 1).drop p 0x04).raise F.macStat_RX_OVF p
      else s.addFrame (rxFrame s p bytes edge phase sym (if etherType bytes = 0x8808 then .control else .arriving))) := by
  change execFrameStart p bytes edge phase sym s = _
  have hguard : (decide (512 ≤ p) || !s.hasPort p || !s.configured p || s.hidden p) = false := by
    simp [hport, hcfg, hhid, Nat.not_le.2 hp]
  simp only [execFrameStart, hguard, hsb, hup, Bool.not_true, Bool.false_eq_true, if_false]
  split <;> rfl

/-- A frame that the FIFO cannot take is counted and raises RX_OVF (R354). -/
theorem overflow_result {u : State} (h : RegsWf u) (p : Nat) :
    (((u.count .macRxOvfCnt p 1).drop p 0x04).raise F.macStat_RX_OVF p).path.frames = u.path.frames
    ∧ (((u.count .macRxOvfCnt p 1).drop p 0x04).raise F.macStat_RX_OVF p).flag F.macStat_RX_OVF p = true
    ∧ (((u.count .macRxOvfCnt p 1).drop p 0x04).raise F.macStat_RX_OVF p).cnt = ((u.count .macRxOvfCnt p 1).drop p 0x04).cnt :=
  ⟨congrArg Path.frames (drop_path ..), flag_raise_self (drop_wf (s := u.count .macRxOvfCnt p 1) h p 0x04) (by decide) p, raise_cnt ..⟩

theorem makeReady_of_room {s : State} {f : Frame} (hroom : s.waitingHeaders f.port < s.headerRoom f.port) (n : Nat) :
    s.makeReady f n = s.onFrame f.id fun f => { f with stage := .ready, ready := n } := if_neg (Nat.not_le.2 hroom)

/-- The oldest arriving frame becomes ready 15 slots after its parse window came (R88). -/
theorem frameReady_of_due {s : State} {p n : Nat} {f : Frame} (hp : p < 512) (hold : s.oldest p (fun f => f.stage == .arriving) = some f)
    (hwhole : f.entersWhole = false) (hlen : 64 ≤ f.bytes.length) (hn : n = f.start + cdiv (min 256 f.bytes.length) (s.bytesPerSlot p) + 15)
    (hdue : n ≤ s.tick.slot) : exec (.frameReady p []) s = .next (s.makeReady f n) := by
  change execFrameReady p [] s = _
  have hp' : p ≠ 513 := by omega
  have hguard : (decide (s.tick.slot < n) || decide (f.bytes.length < 64)) = false := by
    simp [Nat.not_lt.2 hdue, Nat.not_lt.2 hlen]
  subst hn
  simp only [execFrameReady, hp', hold, hwhole, hguard, Bool.false_eq_true, if_false]

/-! ### Dispatch -/

/-- The internal port of a requester number from 16 on (R87). -/
def internalPort (sl k : Nat) : Nat := if sl = 0 then 512 + (k - 16) / 2 else 513 + sl

/-- A requester number of a slice stands for one port. -/
theorem dispatchPorts_unique {s : State} {sl k p p' : Nat} (h : (k, p) ∈ s.dispatchPorts sl) (h' : (k, p') ∈ s.dispatchPorts sl) : p' = p := by
  have hcase : ∀ p, (k, p) ∈ s.dispatchPorts sl → (k < 16 ∧ s.ownerOfLane (sl * 16 + k) = some p) ∨ (16 ≤ k ∧ p = internalPort sl k) := by
    intro p hp
    rcases List.mem_append.1 hp with hlane | hint
    · obtain ⟨j, hj, hown⟩ := List.mem_filterMap.1 hlane
      obtain ⟨p', hp', heq⟩ := Option.map_eq_some_iff.1 hown
      obtain ⟨rfl, rfl⟩ := Prod.mk.injEq .. ▸ heq
      exact Or.inl ⟨List.mem_range.1 hj, hp'⟩
    · right
      unfold internalPort
      split_ifs at hint ⊢ <;> simp at hint <;> omega
  rcases hcase p h with ⟨hk, ho⟩ | ⟨hk, hp⟩ <;> rcases hcase p' h' with ⟨hk', ho'⟩ | ⟨hk', hp'⟩
  · exact Option.some.inj (ho'.symm.trans ho)
  · omega
  · omega
  · rw [hp, hp']

/-- The ports of a slice in the order in which its dispatcher visits their requester numbers in a slot (R86). -/
def State.rotation (s : State) (sl : Nat) : List Nat :=
  ((List.range 20).map fun k => (s.rrPointer 20 + k) % 20).filterMap fun n => ((s.dispatchPorts sl).find? fun e => e.1 = n).map (·.2)

/-- The rotation visits every requester. -/
theorem mem_rotation {s : State} {sl k p : Nat} (h : (k, p) ∈ s.dispatchPorts sl) (hk : k < 20) : p ∈ s.rotation sl := by
  refine List.mem_filterMap.2 ⟨k, List.mem_map.2 ⟨(k + 20 - s.rrPointer 20 % 20) % 20, ?_, ?_⟩, ?_⟩
  · exact List.mem_range.2 (Nat.mod_lt _ (by decide))
  · omega
  · cases hfind : (s.dispatchPorts sl).find? fun e => decide (e.1 = k) with
    | none => exact absurd (List.find?_eq_none.1 hfind _ h) (by simp)
    | some e =>
      have he : e.1 = k := by simpa using List.find?_some hfind
      have hmem := List.mem_of_find?_eq_some hfind
      obtain ⟨k', p'⟩ := e
      subst he
      exact congrArg some (dispatchPorts_unique h hmem)

/-- A header alone is presented once, when its port has its turn. -/
theorem presentOn_single {order : List Nat} {f : Frame} (h : f.port ∈ order) : presentOn order [(f.port, f)] = [f] := by
  have hnil : ∀ l, presentOn l [] = [] := fun l => by
    induction l with
    | nil => rfl
    | cons p t ih => exact ih
  induction order with
  | nil => exact absurd h List.not_mem_nil
  | cons p t ih =>
    by_cases hp : f.port = p
    · simp [presentOn, hp, hnil]
    · have ht := (List.mem_cons.1 h).resolve_left hp
      simp [presentOn, hp, ih ht]

/-- A frame at its dispatch (R72, R85): its strand, its slot, the configuration that governs it and its sequence number. -/
def State.granted (s : State) (strand seq : Nat) (f : Frame) : Frame :=
  { f with stage := .strand, strand := strand, dispatched := s.tick.slot, snap := s.snapOf f.port
           md := { f.md with seq := seq, istamp := if f.port = 512 ∨ f.port = 513 then s.whorl256 else f.md.istamp } }

/-- The grant of a header, which takes its port's next sequence number. -/
def State.grant (s : State) (e : Frame × Nat) : State :=
  (s.inPath fun p => { p with
    seqs := Table.set (fun _ => 0) p.seqs e.1.port ((Table.get (fun _ => 0) s.path.seqs e.1.port + 1) % 65536) }).onFrame e.1.id
    (s.granted e.2 (Table.get (fun _ => 0) s.path.seqs e.1.port))

theorem grant_single {s : State} {f : Frame} (hf : s.path.frames = [f]) (k : Nat) :
    (s.grant (f, k)).path.frames = [s.granted k (Table.get (fun _ => 0) s.path.seqs f.port) f] := by
  unfold State.grant
  exact onFrame_single hf _

/-- The headers presented to a slice's dispatcher. -/
def State.shown (s : State) (sl : Nat) : List Frame :=
  presentOn (s.rotation sl) ((s.path.frames.filter fun f => f.stage == .ready && decide (f.ready ≤ s.tick.slot)).map fun f => (f.port, f))

/-- The dispatcher of a slice grants up to eight of the headers presented (R85). -/
theorem headerDispatch_of_present {s : State} {sl : Nat} (hsl : s.hasSlice sl = true) (hran : s.path.ranNow.contains (67, sl) = false) :
    exec (.headerDispatch sl) s = .next (((s.shown sl).take 8).zipIdx.foldl State.grant
      (if 8 < (s.shown sl).length then (s.markRan 67 sl).count .prsDispSat sl 1 else s.markRan 67 sl)) :=
  if_neg (by simp only [hsl, hran]; decide)

/-- One header ready, of a port of the slice, is all that is presented. -/
theorem shown_single {s : State} {sl k : Nat} {f : Frame} (hf : s.path.frames = [f]) (hst : f.stage = .ready) (hdue : f.ready ≤ s.tick.slot)
    (hreq : (k, f.port) ∈ s.dispatchPorts sl) (hk : k < 20) : s.shown sl = [f] := by
  have hready : (s.path.frames.filter fun f => f.stage == .ready && decide (f.ready ≤ s.tick.slot)).map (fun f => (f.port, f))
      = [(f.port, f)] := by simp [hf, hst, hdue]
  rw [State.shown, hready, presentOn_single (mem_rotation hreq hk)]

/-- The dispatcher grants the one header that is ready in its slice. -/
theorem headerDispatch_single {s : State} {sl k : Nat} {f : Frame} (hsl : s.hasSlice sl = true)
    (hran : s.path.ranNow.contains (67, sl) = false) (hf : s.path.frames = [f]) (hst : f.stage = .ready) (hdue : f.ready ≤ s.tick.slot)
    (hreq : (k, f.port) ∈ s.dispatchPorts sl) (hk : k < 20) :
    exec (.headerDispatch sl) s = .next ((s.markRan 67 sl).grant (f, 0)) := by
  rw [headerDispatch_of_present hsl hran, shown_single hf hst hdue hreq hk]
  rfl

/-! ### The end of reception -/

section
variable {s : State} {f : Frame}

theorem rxGood_path (s : State) (p : Nat) (bs : List Byte) : (s.rxGood p bs).path = s.path := by
  unfold State.rxGood; dsimp only; split <;> rfl

theorem rxGood_tick (s : State) (p : Nat) (bs : List Byte) : (s.rxGood p bs).tick = s.tick := by
  unfold State.rxGood; dsimp only; split <;> rfl

/-- The true length of a frame of which nothing is staged or sent revises no charge (R199, R320). -/
theorem revise_of_nothing (hst : f.stage = .arriving) (hstaged : s.path.staged = []) (htx : s.path.tx = []) : s.revise f = s := by
  simp [State.revise, hst, hstaged, htx]

/-- The good end of the one frame in reception. -/
theorem endGood_single (hf : s.path.frames = [f]) (hst : f.stage = .arriving) (hstaged : s.path.staged = []) (htx : s.path.tx = []) :
    s.endGood f = s.onFrame f.id fun g => { g with ended := some s.tick.slot } := by
  have hcopies : s.withCopies f.id = [f] := by simp [State.withCopies, hf]
  have hended := onFrame_single hf fun g => { g with ended := some s.tick.slot }
  have hcopies' : (s.onFrame f.id fun g => { g with ended := some s.tick.slot }).withCopies f.id = [{ f with ended := some s.tick.slot }] := by
    simp [State.withCopies, hended]
  simp only [State.endGood, hcopies, List.foldl_cons, List.foldl_nil, hcopies']
  exact revise_of_nothing hst hstaged htx

/-- A good frame's end marks it and counts it, and nothing more. -/
theorem rxGood_endGood (hf : s.path.frames = [f]) (hst : f.stage = .arriving) (hstaged : s.path.staged = []) (htx : s.path.tx = []) (p : Nat) :
    ((s.rxGood p f.bytes).endGood f).path.frames = [{ f with ended := some s.tick.slot }]
    ∧ ((s.rxGood p f.bytes).endGood f).cnt = (s.rxGood p f.bytes).cnt := by
  have hpath := rxGood_path s p f.bytes
  have hslot : (s.rxGood p f.bytes).tick.slot = s.tick.slot := congrArg Tick.slot (rxGood_tick s p f.bytes)
  generalize s.rxGood p f.bytes = u at hpath hslot
  rw [← hpath] at hf hstaged htx
  rw [endGood_single hf hst hstaged htx, ← hslot]
  exact ⟨onFrame_single hf _, rfl⟩

theorem runt_cnt (s : State) (p id : Nat) (g : Frame → Frame) :
    (((s.count .macRxRuntCnt p 1).onFrame id g).drop p 0x02).settle.cnt = ((s.count .macRxRuntCnt p 1).drop p 0x02).cnt := rfl

/-- A frame in reception that is good or a runt ends by its row of R353. -/
theorem frameEnd_of_arriving {p : Nat} (hp : p < 512) (hf : s.path.frames = [f]) (hport : f.port = p) (hm : f.mir = none)
    (hend : f.ended = none) (hst : f.stage = .arriving) (hrx : min f.bytes.length f.limit ≤ s.received f) :
    (rxOutcome f.limit false f.bytes = 0 → exec (.frameEnd p false) s = .next ((s.rxGood p f.bytes).endGood f).settle)
    ∧ (rxOutcome f.limit false f.bytes = 2 → exec (.frameEnd p false) s = .next
      (((s.count .macRxRuntCnt p 1).onFrame f.id fun f => { f with ended := some s.tick.slot, stage := .dead }).drop p 0x02).settle) := by
  have hold := oldest_single (ok := fun f => f.ended.isNone) hf hport hm (by simp [hend])
  have hguard : (decide (512 ≤ p) || decide (s.received f < min f.bytes.length f.limit)) = false := by
    simp only [Nat.not_le.2 hp, Nat.not_lt.2 hrx, decide_false, Bool.or_false]
  change (_ → execFrameEnd p false s = _) ∧ (_ → execFrameEnd p false s = _)
  simp only [execFrameEnd, hold, hguard, hst, Bool.false_eq_true, if_false]
  refine ⟨fun hgood => ?_, fun hrunt => ?_⟩
  · simp only [hgood, if_true, State.countRow]
  · simp only [hrunt, if_true, State.countRow]
    rfl

end

/-! ### Completion and release -/

/-- A strand decides without touching the data path. -/
theorem strand_path {s : State} (h : Inv s) (f : Frame) (faults : List (Nat × Nat)) : (s.strand f faults).state.path = s.path :=
  (keeps_strand (f := f) (faults := faults)
    (M := ⟨[.meet, .cnt, .tab], [.clsErrIdx, .clsStat, .fwdErrIdx, .fwdStat, .polErrIdx, .polStat, .prsStat, .tbErrIdx, .tbStat, .tsStpStat], false⟩)
    (keeps_self h) (Change.le_self _)).within.path rfl

/-- A good frame with the decision of its strand. -/
def completed (d : Decision) (f : Frame) : Frame :=
  { f with stage := .complete, md := d.md, body := d.body, dropped := d.code, police := d.police
           dests := if d.code = 0 then d.targets else [] }

theorem strandComplete_good {s : State} {f : Frame} {faults : List (Nat × Nat)} (hf : s.path.frames = [f]) (hm : f.mir = none)
    (hst : f.stage = .strand) (hgood : f.good = true) (hdue : f.dispatched + (s.strand f faults).latency ≤ s.tick.slot) :
    exec (.strandComplete f.port f.md.seq faults) s
      = .next (((s.strand f faults).state.onFrame f.id (completed (s.strand f faults))).drop f.port (s.strand f faults).code) := by
  change execStrandComplete f.port f.md.seq faults s = _
  have hold := oldest_single (ok := fun g => g.stage == .strand && g.md.seq == f.md.seq) hf rfl hm (by simp [hst])
  simp only [execStrandComplete, hold, if_neg (Nat.not_lt.2 hdue), hgood, if_true]
  rfl

/-- Ingress mirror copies join the frames; those that stand stay (R457). -/
theorem mirCharge_frames (s : State) (q m len : Nat) : (s.mirCharge q m len).1.path.frames = s.path.frames := by
  unfold State.mirCharge; dsimp only; split <;> rfl

theorem mirCopy_frames (s : State) (f : Frame) (m port : Nat) (bytes : List Byte) (len reason : Nat) (egress : Bool) (stamp : Nat) :
    ∃ more, (s.mirCopy f m port bytes len reason egress stamp).1.path.frames = s.path.frames ++ more := by
  unfold State.mirCopy
  extract_lets q remote c total r
  have hr : r.1.path.frames = s.path.frames := mirCharge_frames s q m total
  split
  · exact ⟨[], by rw [raise_path, drop_path, count_path, hr, List.append_nil]⟩
  · next s1 b s2 s3 s4 copied content id hl md g _ =>
    have h2 : s2.path.frames = s.path.frames := by unfold s2; split <;> exact hr
    have h4 : s4.path.frames = s.path.frames := by unfold s4; split <;> exact h2
    exact ⟨[{ g with id := s4.path.nextId }], congrArg (· ++ _) h4⟩

theorem mem_mirrorIn {s : State} {f g : Frame} (hg : g ∈ s.path.frames) : g ∈ (s.mirrorIn f).path.frames := by
  unfold State.mirrorIn
  generalize s.mirIngress f = l
  induction l generalizing s with
  | nil => exact hg
  | cons m t ih =>
    obtain ⟨more, hmore⟩ := mirCopy_frames s f m f.port (f.bytes.take (f.bytes.length - 4)) f.bytes.length f.dropped false f.md.istamp
    exact ih (hmore ▸ List.mem_append_left _ hg)

theorem eligible_single {s : State} {f : Frame} {sl : Nat} (hf : s.path.frames = [f]) (hm : f.mir = none) (hsl : Config.sliceOf f.port = sl)
    (hst : f.stage = .complete) : s.eligible sl = [f] := by
  simp [State.eligible, hf, hm, hsl, hst, sortBy, insertBy]

theorem reorderRelease_single {s : State} {f : Frame} {sl : Nat} (hsl : s.hasSlice sl = true) (hran : s.ran 70 sl = false)
    (hf : s.path.frames = [f]) (hm : f.mir = none) (hfs : Config.sliceOf f.port = sl) (hst : f.stage = .complete) (hd : f.dropped = 0) :
    exec (.reorderRelease sl) s
      = .next ((((s.markRan 70 sl).onFrame f.id fun f => { f with stage := .released, released := s.tick.slot }).mirrorIn f).settle) := by
  change execReorderRelease sl s = _
  simp only [execReorderRelease, hsl, hran, eligible_single hf hm hfs hst, releaseFrames, hd]
  rfl

/-! ### Policers -/

theorem policerCorrection_of_oldest {s : State} {p seq q i colour charged : Nat} {f : Frame}
    (hold : s.oldest p (fun f => f.md.seq == seq && f.police.isSome && f.ended.isSome) = some f)
    (hpol : f.police = some (q, i, colour, charged)) :
    exec (.policerCorrection p seq) s = .next (((((s.setPol q i ((s.polAt q i).correct s.tick.slot colour charged f.bytes.length)).polCount
      q i colour f.bytes.length 0).onFrame f.id fun f => { f with police := none })).settle) := by
  change execPolicerCorrection p seq s = _
  simp only [execPolicerCorrection, hold, hpol]

/-- Settles O20: each command is an equation about the one frame or policer that it acts on; what a strand decides reaches the frame because
the strand leaves the data path alone. -/
theorem frameReceptionAndDecision : Obligations.FrameReceptionAndDecision := by
  refine ⟨?start, ?ready, ?dispatch, ?finish, ?strand, ?release, ?correction, ?refresh⟩
  case start =>
    intro p bytes edge phase sym s h hp hport hcfg hhid hsb hup
    have hexec := frameStart_of_linkUp hp hport hcfg hhid hsb hup bytes edge phase sym
    refine ⟨fun hfit => ?_, fun hfull => ?_⟩
    · rw [if_neg (Nat.not_lt.2 hfit)] at hexec
      exact ⟨_, _, hexec, rfl, rfl, rfl, rfl, rfl, rfl⟩
    · rw [if_pos hfull] at hexec
      obtain ⟨hframes, hflag, hcnt⟩ := overflow_result (u := s.addFrame (rxFrame s p bytes edge phase sym .refused)) h.regs p
      exact ⟨_, _, hexec, hframes, rfl, hflag, hcnt⟩
  case ready =>
    intro p n f s hp hold hwhole hlen hn hdue hroom
    obtain ⟨f0, hf0⟩ := Option.isSome_iff_exists.1 (frame?_isSome_of_mem (mem_of_oldest hold))
    have hexec := frameReady_of_due hp hold hwhole hlen hn hdue
    rw [makeReady_of_room hroom] at hexec
    have hfound := frame?_onFrame (id := f.id) (g := fun f => { f with stage := .ready, ready := n }) (fun _ => rfl) s
    rw [hf0, Option.map_some] at hfound
    exact ⟨_, _, hexec, hfound, rfl, rfl⟩
  case dispatch =>
    intro sl k f s hsl hran hf hst hdue hreq hk
    exact ⟨_, _, headerDispatch_single hsl hran hf hst hdue hreq hk, grant_single (s := s.markRan 67 sl) hf 0, rfl, rfl, rfl, rfl, rfl⟩
  case finish =>
    intro p f s hp hf hport hm hend hst hstaged htx hrx
    obtain ⟨hended, hcnt⟩ := rxGood_endGood hf hst hstaged htx p
    obtain ⟨hgood, hrunt⟩ := frameEnd_of_arriving hp hf hport hm hend hst hrx
    exact ⟨fun hr => ⟨_, hgood hr, settle_single hended (by simp [hst]) (by simp [hst]), hcnt⟩,
      fun hshort => ⟨_, hrunt (if_pos hshort), runt_cnt s p f.id _⟩⟩
  case strand =>
    intro f faults s h hf hm hst hgood hdue
    have hframes := onFrame_single ((congrArg Path.frames (strand_path h f faults)).trans hf) (completed (s.strand f faults))
    exact ⟨_, _, strandComplete_good hf hm hst hgood hdue, (congrArg Path.frames (drop_path ..)).trans hframes, rfl, rfl, rfl, rfl⟩
  case release =>
    intro sl f s hsl hran hf hm hfs hst hd
    have hframes := onFrame_single (s := s.markRan 70 sl) hf fun f => { f with stage := .released, released := s.tick.slot }
    have hmem := mem_mirrorIn (f := f) (hframes ▸ List.mem_singleton_self _)
    exact ⟨_, _, reorderRelease_single hsl hran hf hm hfs hst hd, mem_settle hmem (by simp) (by simp), rfl, rfl, rfl⟩
  case correction =>
    intro p seq q i colour charged f s hold hpol
    exact ⟨_, policerCorrection_of_oldest hold hpol, rfl⟩
  case refresh =>
    intro q x s hq hx
    change execPolicerRefresh q x s = _
    simp [execPolicerRefresh, hq, hx]

end Sys2Proof.Machine

/-!
Settings of the address tables (O42): aging, learning, the notice ring and the VLAN table, as their packets leave them, and the answer of VLAN_GET.
-/
namespace Sys2Proof.Machine
open Sys2Proof

/-! ### What a block without reserved bits holds -/

/-- A parameter of a block without reserved bits is read from bytes that have none for its type (R491). -/
theorem parseFrom_field {ps : List Byte} {ts : List Ty} {pos k : Nat} {t : Ty} (hbad : (parseFrom ps ts pos).bad = false) (hk : ts[k]? = some t) :
    ∃ bs, (parseFrom ps ts pos).n k = t.decode bs ∧ t.reservedBad bs = false := by
  induction ts generalizing pos k with
  | nil => simp at hk
  | cons u us ih =>
    simp only [parseFrom, Bool.or_eq_false_iff] at hbad
    obtain ⟨⟨-, hfirst⟩, hrest⟩ := hbad
    cases k with
    | zero => cases hk; exact ⟨_, rfl, hfirst⟩
    | succ k => exact ih hrest hk

section
variable {op k bits : Nat} {ps : List Byte}

theorem readParams_field {t : Ty} (hbad : (readParams op ps).bad = false) (hk : (fixedOf op ps)[k]? = some t) :
    ∃ bs, (readParams op ps).n k = t.decode bs ∧ t.reservedBad bs = false := by
  simp only [readParams, parseBlock, Bool.or_eq_false_iff] at hbad
  exact parseFrom_field hbad.1 (List.getElem?_append_left (List.getElem?_eq_some_iff.1 hk).1 |>.trans hk)

/-- A number parameter is below the power of two of its width. -/
theorem readParams_num_lt (hbad : (readParams op ps).bad = false) (hk : (fixedOf op ps)[k]? = some (.u bits)) :
    (readParams op ps).n k < 2 ^ bits := by
  obtain ⟨bs, hn, hres⟩ := readParams_field hbad hk
  rw [hn]
  exact not_le.1 (of_decide_eq_false hres)

/-- A flag parameter is 0 or 1. -/
theorem readParams_flag_lt (hbad : (readParams op ps).bad = false) (hk : (fixedOf op ps)[k]? = some .flag) : (readParams op ps).n k < 2 := by
  obtain ⟨bs, hn, hres⟩ := readParams_field hbad hk
  rw [hn]
  exact not_le.1 (of_decide_eq_false hres)

end

/-! ### Writes in every present quadrant -/

theorem mem_quads {s : State} {q : Nat} : q ∈ s.quads ↔ s.hasQuad q = true := by simp [State.quads, State.hasQuad]

/-- One word written to a register at each place of a list, and nowhere else. -/
theorem reg_setRegs {s : State} (h : RegsWf s) (r : Reg) (place : Nat → Nat) (w : Word) (l : List Nat) (r' : Reg) (i : Nat) :
    (l.foldl (fun s q => s.setReg r (place q) w) s).reg r' i = if r' = r ∧ i ∈ l.map place then w else s.reg r' i := by
  induction l generalizing s with
  | nil => simp
  | cons q t ih =>
    rw [List.foldl_cons, ih (wf_setReg h _ _ _)]
    by_cases hq : r' = r ∧ i = place q
    · obtain ⟨rfl, rfl⟩ := hq
      simp [reg_setReg_self h]
    · rw [reg_setReg_ne h _ hq]
      congr 1
      simp only [List.map_cons, List.mem_cons, eq_iff_iff]
      exact ⟨fun hm => ⟨hm.1, Or.inr hm.2⟩, fun hm => ⟨hm.1, hm.2.resolve_left fun hi => hq ⟨hm.1, hi⟩⟩⟩

theorem fld_of_reg_eq {s : State} {f : Fld} {i : Nat} {w : Word} (h : s.reg f.reg i = w) : s.fld f i = w.toNat / 2 ^ f.lo % 2 ^ f.width := by
  rw [State.fld, h, Nat.shiftRight_eq_div_pow]

/-- TB_AGE_CFG as FDB_AGE_SET writes it (R158). -/
def ageWord (en period refresh : Nat) : Word := word (en * 2 ^ 31 + refresh * 2 ^ 30 + period % 2 ^ 20)

theorem ageWord_fields {en period refresh : Nat} (hen : en < 2) (href : refresh < 2) :
    (ageWord en period refresh).toNat / 2 ^ 31 % 2 ^ 1 = en ∧ (ageWord en period refresh).toNat / 2 ^ 0 % 2 ^ 20 = period % 2 ^ 20
    ∧ (ageWord en period refresh).toNat / 2 ^ 30 % 2 ^ 1 = refresh := by
  simp only [ageWord, word, BitVec.toNat_ofNat]
  omega

/-- TB_PORT_LEARN as FDB_LEARN_SET writes it (R158). -/
def learnWord (mode limit : Nat) : Word := word (limit * 2 ^ 11 + mode)

theorem learnWord_fields {mode limit : Nat} (hmode : mode < 4) (hlimit : limit ≤ 1048576) :
    (learnWord mode limit).toNat / 2 ^ 0 % 2 ^ 2 = mode ∧ (learnWord mode limit).toNat / 2 ^ 11 % 2 ^ 21 = limit := by
  simp only [learnWord, word, BitVec.toNat_ofNat]
  omega

/-- Logical ports are numbered below 516 (R8). -/
theorem hasPort_lt {s : State} {p : Nat} (h : s.hasPort p = true) : p < 516 := by
  have hlanes : s.fuses.code.lanes ≤ 512 := by cases s.fuses.code <;> decide
  simp only [State.hasPort, Config.Code.hasPort, Bool.or_eq_true, Bool.and_eq_true, decide_eq_true_eq] at h
  omega

/-! ### The VLAN table -/

/-- The VLAN table is in canonical form. -/
abbrev VlanWf (s : State) : Prop := Table.wf (fun _ => ({} : VlanEnt)) s.tab.vlan = true

/-- An entry holds what was written to it, and every other entry stays. -/
theorem vlanAt_setVlan {s : State} (h : VlanWf s) {q vid q' vid' : Nat} (hv : vid < 4096) (hv' : vid' < 4096) (e : VlanEnt) :
    (s.setVlan q vid e).vlanAt q' vid' = if q' = q ∧ vid' = vid then e else s.vlanAt q' vid' := by
  split
  · next heq => obtain ⟨rfl, rfl⟩ := heq; exact Table.get_set_self h _ _
  · next hne => exact Table.get_set_ne h _ (by omega)

/-- One entry written for a VID in the quadrants of a list, and nowhere else. -/
theorem vlanAt_setVlans {s : State} (h : VlanWf s) {vid vid' : Nat} (hv : vid < 4096) (hv' : vid' < 4096) (e : VlanEnt) (l : List Nat) (q' : Nat) :
    (l.foldl (fun s q => s.setVlan q vid e) s).vlanAt q' vid' = if q' ∈ l ∧ vid' = vid then e else s.vlanAt q' vid' := by
  induction l generalizing s with
  | nil => simp
  | cons q t ih =>
    rw [List.foldl_cons, ih (Table.wf_set h _ _), vlanAt_setVlan h hv hv']
    by_cases hvid : vid' = vid
    · by_cases hq : q' = q <;> simp [hvid, hq]
    · simp [hvid]

/-! ### The packets -/

section
variable {p : Packet} {a : Args} {s : State}

theorem fdbAgeSet_completes (hacc : Accepts 0x0305 p s) (ha : readParams 0x0305 p.params = a) (hbad : a.bad = false)
    (hperiod : a.f 0 = true → 4 ≤ a.n 1 ∧ a.n 1 ≤ 1048575) :
    Completes (.fdbAgeSet p) 0x0305 p s
      ((begun 0x0305 p s).forQuads fun u q => u.setReg .tbAgeCfg q (ageWord (a.n 0) (a.n 1) (a.n 2))) .ok (emitBlock []) := by
  subst ha
  change execFdbAgeSet p s = _
  unfold execFdbAgeSet
  refine completes_of_checks hacc (firstFail_of_all_false ?_) rfl
  simpa [hbad] using hperiod

theorem fdbLearnSet_completes (hacc : Accepts 0x0306 p s) (ha : readParams 0x0306 p.params = a) (hbad : a.bad = false)
    (hport : s.hasPort (a.n 0) = true) (hhid : s.hidden (a.n 0) = false) (hmode : a.n 1 ≠ 3) (hlimit : a.n 2 ≤ 1048576) :
    Completes (.fdbLearnSet p) 0x0306 p s
      ((begun 0x0306 p s).forQuads fun u q => u.setReg .tbPortLearn (q * 516 + a.n 0) (learnWord (a.n 1) (a.n 2))) .ok (emitBlock []) := by
  subst ha
  have hbegun : (begun 0x0306 p s).hidden ((readParams 0x0306 p.params).n 0) = false := hhid
  change execFdbLearnSet p s = _
  unfold execFdbLearnSet
  refine completes_of_checks hacc (firstFail_of_all_false ?_) rfl
  simp [hport, hbegun, hbad, hmode, hlimit]

theorem fdbNotifySet_completes (hacc : Accepts 0x0307 p s) (ha : readParams 0x0307 p.params = a) (hbad : a.bad = false)
    (hring : a.f 0 = true → s.dmaAdmits (a.n 1) (64 + 16 * a.n 2) true (p.chan < 4) = true ∧ 1024 ≤ a.n 2 ∧ a.n 2 ≤ 1048576
      ∧ popCount 32 (a.n 2) = 1 ∧ a.n 1 % 4096 = 0) :
    Completes (.fdbNotifySet p) 0x0307 p s
      { begun 0x0307 p s with tab := { s.tab with ring := { s.tab.ring with
          enabled := a.f 0, addr := a.n 1, size := a.n 2, bell := a.n 3, prod := 0 } } } .ok (emitBlock []) := by
  subst ha
  change execFdbNotifySet p s = _
  unfold execFdbNotifySet
  refine completes_of_checks hacc (firstFail_of_all_false ?_) rfl
  cases hen : (readParams 0x0307 p.params).f 0 with
  | false => simp [hbad]
  | true =>
    obtain ⟨hdma, hmin, hmax, hpow, halign⟩ := hring hen
    have hbegun : (begun 0x0307 p s).dmaAdmits ((readParams 0x0307 p.params).n 1) (64 + 16 * (readParams 0x0307 p.params).n 2) true
        (decide (p.chan < 4)) = true := hdma
    simp [hbegun, hbad, hmin, hmax, hpow, halign]

/-- The entry that VLAN_SET's parameters make (R124, R160), its members cut to the present ports. -/
def Args.vlanEnt (a : Args) (s : State) : VlanEnt :=
  { valid := a.f 1, fid := a.n 2, learn := a.f 3, floodUc := a.n 4, floodMc := a.n 5, member := s.presentMask (a.n 6) }

theorem vlanSet_completes (hacc : Accepts 0x0308 p s) (ha : readParams 0x0308 p.params = a) (hbad : a.bad = false) (h0 : a.n 0 ≠ 0)
    (h4095 : a.n 0 ≠ 4095) (huc : a.n 4 ≤ 16383) (hmc : a.n 5 ≤ 16383) :
    Completes (.vlanSet p) 0x0308 p s ((begun 0x0308 p s).forQuads fun u q => u.setVlan q (a.n 0) (a.vlanEnt s)) .ok (emitBlock []) := by
  subst ha
  change execVlanSet p s = _
  unfold execVlanSet
  refine completes_of_checks hacc (firstFail_of_all_false ?_) rfl
  simp [hbad, h0, h4095, huc, hmc]

theorem vlanGet_completes (hacc : Accepts 0x0309 p s) (ha : readParams 0x0309 p.params = a) (hbad : a.bad = false) (h0 : a.n 0 ≠ 0)
    (h4095 : a.n 0 ≠ 4095) {v : VlanEnt} (hv : v = s.vlanAt 0 (a.n 0)) :
    Completes (.vlanGet p) 0x0309 p s (begun 0x0309 p s) .ok (emitBlock [ (.flag, b2n v.valid), (.u 12, v.fid), (.flag, b2n v.learn),
      (.u 16, v.floodUc), (.u 16, v.floodMc), (.wide 516, v.member), (.u 16, 16383) ]) := by
  subst ha hv
  change execVlanGet p s = _
  unfold execVlanGet
  refine completes_of_checks hacc (firstFail_of_all_false ?_) rfl
  simp [hbad, h0, h4095]

end

/-! ### What the packets leave -/

/-- TB_AGE_CFG holds the word of FDB_AGE_SET in every present quadrant, and all other registers stay. -/
theorem ageCfg_forQuads {s : State} (h : RegsWf s) (w : Word) (r : Reg) (i : Nat) :
    (s.forQuads fun u q => u.setReg .tbAgeCfg q w).reg r i = if r = .tbAgeCfg ∧ s.hasQuad i = true then w else s.reg r i := by
  refine (reg_setRegs h .tbAgeCfg id w s.quads r i).trans ?_
  simp only [List.map_id, mem_quads]

/-- TB_PORT_LEARN of a port holds the word of FDB_LEARN_SET in every present quadrant. -/
theorem portLearn_forQuads {s : State} (h : RegsWf s) (p : Nat) (w : Word) {q : Nat} (hq : s.hasQuad q = true) :
    (s.forQuads fun u q => u.setReg .tbPortLearn (q * 516 + p) w).reg .tbPortLearn (q * 516 + p) = w :=
  (reg_setRegs h .tbPortLearn (· * 516 + p) w s.quads _ _).trans (if_pos ⟨rfl, List.mem_map_of_mem (mem_quads.2 hq)⟩)

theorem reg_portLearn_forQuads_other {s : State} (h : RegsWf s) {p : Nat} (hp : p < 516) (w : Word) {r : Reg} {i : Nat}
    (hne : r ≠ .tbPortLearn ∨ i % 516 ≠ p) : (s.forQuads fun u q => u.setReg .tbPortLearn (q * 516 + p) w).reg r i = s.reg r i := by
  refine (reg_setRegs h .tbPortLearn (· * 516 + p) w s.quads r i).trans (if_neg ?_)
  rintro ⟨hr, hi⟩
  obtain ⟨q, -, rfl⟩ := List.mem_map.1 hi
  have hmod : (q * 516 + p) % 516 = p := by omega
  exact hne.elim (· hr) (· hmod)

/-- Settles O42: each packet passes its checks, and what it leaves is one word or entry in every present quadrant, or the ring it names. -/
theorem addressSettingsPacketsAnswer : Obligations.AddressSettingsPacketsAnswer := by
  refine ⟨?age, ?learn, ?notify, ?vlanSet, ?vlanGet⟩
  case age =>
    intro p a s h hacc ha hbad hperiod
    have hen : a.n 0 < 2 := by subst ha; exact readParams_flag_lt hbad rfl
    have href : a.n 2 < 2 := by subst ha; exact readParams_flag_lt hbad rfl
    obtain ⟨hfen, hfper, hfref⟩ := ageWord_fields (period := a.n 1) hen href
    have hreg := ageCfg_forQuads (s := begun 0x0305 p s) h.regs (ageWord (a.n 0) (a.n 1) (a.n 2))
    refine ⟨_, fdbAgeSet_completes hacc ha hbad hperiod, fun q hq => ?_, fun r i hne => (hreg r i).trans (if_neg ?_)⟩
    · have hw := (hreg .tbAgeCfg q).trans (if_pos ⟨rfl, hq⟩)
      refine ⟨?_, (fld_of_reg_eq (f := F.tbAgeCfg_PERIOD) hw).trans hfper, ?_⟩
      · rw [State.flag, fld_of_reg_eq (f := F.tbAgeCfg_AGE_EN) hw]; exact congrArg (fun n => decide (n ≠ 0)) hfen
      · rw [State.flag, fld_of_reg_eq (f := F.tbAgeCfg_DA_REFRESH) hw]; exact congrArg (fun n => decide (n ≠ 0)) hfref
    · rintro ⟨hr, hq⟩
      exact hne.elim (· hr) fun hf => Bool.false_ne_true (hf.symm.trans hq)
  case learn =>
    intro p a s h hacc ha hbad hport hhid hmode hlimit
    have hmode4 : a.n 1 < 2 ^ 2 := by subst ha; exact readParams_num_lt hbad rfl
    obtain ⟨hfmode, hflimit⟩ := learnWord_fields hmode4 hlimit
    refine ⟨_, fdbLearnSet_completes hacc ha hbad hport hhid hmode hlimit, fun q hq => ?_, fun r i hne => ?_⟩
    · have hw := portLearn_forQuads (s := begun 0x0306 p s) h.regs (a.n 0) (learnWord (a.n 1) (a.n 2)) hq
      exact ⟨(fld_of_reg_eq (f := F.tbPortLearn_MODE) hw).trans hfmode, (fld_of_reg_eq (f := F.tbPortLearn_LIMIT) hw).trans hflimit⟩
    · exact reg_portLearn_forQuads_other (s := begun 0x0306 p s) h.regs (hasPort_lt hport) _ hne
  case notify =>
    intro p a s hacc ha hbad hring
    exact ⟨_, fdbNotifySet_completes hacc ha hbad hring, rfl, rfl, rfl, rfl, rfl, rfl, rfl⟩
  case vlanSet =>
    intro p a s hwf hacc ha hbad h0 h4095 huc hmc
    have hvid : a.n 0 < 2 ^ 12 := by subst ha; exact readParams_num_lt hbad rfl
    refine ⟨_, vlanSet_completes hacc ha hbad h0 h4095 huc hmc, fun q hq => ?_, fun q v hv hne => ?_⟩
    · exact (vlanAt_setVlans (s := begun 0x0308 p s) hwf hvid hvid _ _ q).trans (if_pos ⟨mem_quads.2 hq, rfl⟩)
    · exact (vlanAt_setVlans (s := begun 0x0308 p s) hwf hvid hv _ _ q).trans (if_neg fun hc => hne hc.2)
  case vlanGet =>
    intro p a v s hacc ha hbad h0 h4095 hv
    exact vlanGet_completes hacc ha hbad h0 h4095 hv

end Sys2Proof.Machine

/-!
Entries of the address table by packets (O41): reads of the table after its writes, insertions that keep to their quadrant, commands that act in
each named quadrant, and commands that wait for scan passes.
-/
namespace Sys2Proof.Machine
open Sys2Proof

/-! ### Tables whose entries are absent at reset -/

namespace OTable
variable {V : Type}

/-- Such a table reads as one that holds an optional value at each index. -/
theorem get?_eq_get (t : OTable V) (k : Nat) : get? t k = Table.get (fun _ => none) (t.map fun e => (e.1, some e.2)) k := by
  induction t with
  | nil => rfl
  | cons e t ih => simp only [get?, Table.get, List.map_cons, ih]

theorem map_erase {W : Type} (g : V → W) (t : OTable V) (k : Nat) :
    (Table.erase t k).map (fun e => (e.1, g e.2)) = Table.erase (t.map fun e => (e.1, g e.2)) k := by
  induction t with
  | nil => rfl
  | cons e t ih =>
    simp only [Table.erase, List.map_cons]
    split
    · rfl
    · split
      · rfl
      · rw [List.map_cons, ih]

theorem sortedFrom_map {W : Type} (g : V → W) {lo : Nat} {t : OTable V} (h : Table.sortedFrom lo t = true) :
    Table.sortedFrom lo (t.map fun e => (e.1, g e.2)) = true := by
  induction t generalizing lo with
  | nil => rfl
  | cons e t ih =>
    simp only [Table.sortedFrom, List.map_cons, Bool.and_eq_true] at h ⊢
    exact ⟨h.1, ih h.2⟩

/-- An index erased has no entry, and every other index keeps its own. -/
theorem get?_erase {t : OTable V} (h : Table.sortedFrom 0 t = true) (k j : Nat) : get? (Table.erase t k) j = if j = k then none else get? t j := by
  have hs := sortedFrom_map some h
  rw [get?_eq_get, get?_eq_get, map_erase]
  split
  · next heq => rw [heq]; exact Table.get_erase_self hs k
  · next hne => exact Table.get_erase_ne hs hne

end OTable

/-! ### The address table -/

/-- The address table is in order. -/
abbrev AddrSorted (s : State) : Prop := Table.sortedFrom 0 s.tab.addr = true

theorem putAddr_sorted {s : State} (h : AddrSorted s) (q pos : Nat) (e : AddrEnt) : AddrSorted (s.putAddr q pos e) :=
  Table.sorted_insert h e (Nat.zero_le _)

theorem dropAddr_sorted {s : State} (h : AddrSorted s) (q pos : Nat) : AddrSorted (s.dropAddr q pos) := Table.sorted_erase h _

section
variable {q q' pos pos' : Nat}

theorem addrAt_putAddr_self (s : State) (q pos : Nat) (e : AddrEnt) : (s.putAddr q pos e).addrAt q pos = some e :=
  OTable.get?_insert_self _ _ _

theorem addrAt_putAddr_ne (s : State) (e : AddrEnt) (hp : pos < 2 ^ 20) (hp' : pos' < 2 ^ 20) (hne : q' ≠ q ∨ pos' ≠ pos) :
    (s.putAddr q pos e).addrAt q' pos' = s.addrAt q' pos' := OTable.get?_insert_ne _ _ (by omega)

theorem addrAt_dropAddr_self {s : State} (h : AddrSorted s) (q pos : Nat) : (s.dropAddr q pos).addrAt q pos = none :=
  (OTable.get?_erase h _ _).trans (if_pos rfl)

theorem addrAt_dropAddr_ne {s : State} (h : AddrSorted s) (hp : pos < 2 ^ 20) (hp' : pos' < 2 ^ 20) (hne : q' ≠ q ∨ pos' ≠ pos) :
    (s.dropAddr q pos).addrAt q' pos' = s.addrAt q' pos' := (OTable.get?_erase h _ _).trans (if_neg (by omega))

end

/-! ### Candidates and lookups -/

section
variable {s t : State} {q key pos : Nat}

/-- The four ways of 65,536 buckets of four entries fill the positions of a quadrant (R119). -/
theorem bucketPos_add_lt (s : State) (q key : Nat) {w k : Nat} (hw : w < 4) (hk : k < 4) : s.bucketPos q w key + k < 2 ^ 20 := by
  have hb : s.bucket q w key < 65536 := Nat.mod_lt _ (by decide)
  rw [State.bucketPos]
  omega

theorem candidates_lt (h : pos ∈ s.candidates q key) : pos < 2 ^ 20 := by
  simp only [State.candidates, List.mem_flatMap, List.mem_map, List.mem_range] at h
  obtain ⟨w, hw, k, hk, rfl⟩ := h
  exact bucketPos_add_lt s q key hw hk

/-- A lookup finds a candidate that holds an entry of the key. -/
theorem lookupAddr_some {e : AddrEnt} (h : s.lookupAddr q key = some (pos, e)) :
    pos ∈ s.candidates q key ∧ s.addrAt q pos = some e ∧ e.key = key := by
  obtain ⟨x, hx, hfound⟩ := List.exists_of_findSome?_eq_some h
  split at hfound
  · next d hd =>
    obtain ⟨hkey, heq⟩ := Option.ite_none_right_eq_some.1 hfound
    cases heq
    exact ⟨hx, hd, hkey⟩
  · cases hfound

theorem lookupAddr_lt {e : AddrEnt} (h : s.lookupAddr q key = some (pos, e)) : pos < 2 ^ 20 := candidates_lt (lookupAddr_some h).1

/-- The positions of a quadrant. -/
def State.addrView (s : State) (q : Nat) : Fin (2 ^ 20) → Option AddrEnt := fun pos => s.addrAt q pos

theorem addrAt_of_view (h : t.addrView q = s.addrView q) (hp : pos < 2 ^ 20) : t.addrAt q pos = s.addrAt q pos := congrFun h ⟨pos, hp⟩

/-- The state `t` has the hash seeds of `s` and the same entries in quadrant `q`. -/
structure SameQuad (q : Nat) (s t : State) : Prop where
  regs : t.regs = s.regs
  view : t.addrView q = s.addrView q

theorem SameQuad.candidates (h : SameQuad q s t) (key : Nat) : t.candidates q key = s.candidates q key := by
  simp only [State.candidates, State.bucketPos, State.bucket, reg_of_regs h.regs]

theorem SameQuad.lookupAddr (h : SameQuad q s t) (key : Nat) : t.lookupAddr q key = s.lookupAddr q key := by
  rw [State.lookupAddr, State.lookupAddr, h.candidates, ← List.head?_filterMap, ← List.head?_filterMap]
  exact congrArg List.head? (List.filterMap_congr fun pos hpos => by rw [addrAt_of_view h.view (candidates_lt hpos)])

/-- The first free candidate of a key (R139). -/
theorem SameQuad.firstFree (h : SameQuad q s t) (key : Nat) :
    ((t.candidates q key).find? fun pos => (t.addrAt q pos).isNone) = (s.candidates q key).find? fun pos => (s.addrAt q pos).isNone := by
  rw [h.candidates]
  exact List.find?_congr fun pos hpos => by rw [addrAt_of_view h.view (candidates_lt hpos)]

end

/-! ### Changes of one quadrant -/

/-- From `s` to `t` only entries of quadrant `a` have changed, and the table is still in order. -/
structure OnlyQuad (a : Nat) (s t : State) : Prop where
  sorted : AddrSorted t
  regs : t.regs = s.regs
  others : ∀ q, q ≠ a → t.addrView q = s.addrView q

section
variable {a : Nat} {s t : State}

theorem OnlyQuad.refl (h : AddrSorted s) : OnlyQuad a s s := ⟨h, rfl, fun _ _ => rfl⟩

theorem OnlyQuad.putAddr (h : OnlyQuad a s t) {pos : Nat} (hp : pos < 2 ^ 20) (e : AddrEnt) : OnlyQuad a s (t.putAddr a pos e) :=
  ⟨putAddr_sorted h.sorted .., h.regs,
   fun q hq => (funext fun x => addrAt_putAddr_ne t e hp x.isLt (Or.inl hq)).trans (h.others q hq)⟩

theorem OnlyQuad.dropAddr (h : OnlyQuad a s t) {pos : Nat} (hp : pos < 2 ^ 20) : OnlyQuad a s (t.dropAddr a pos) :=
  ⟨dropAddr_sorted h.sorted .., h.regs,
   fun q hq => (funext fun x => addrAt_dropAddr_ne h.sorted hp x.isLt (Or.inl hq)).trans (h.others q hq)⟩

theorem OnlyQuad.relocate (h : OnlyQuad a s t) {src dst : Nat} (hs : src < 2 ^ 20) (hd : dst < 2 ^ 20) : OnlyQuad a s (t.relocate a src dst) := by
  unfold State.relocate
  split
  · exact h
  · exact (h.putAddr hd _).dropAddr hs

end

/-! ### Insertion -/

section
variable {s t : State} {q : Nat}

/-- Another bucket of the occupant of a position lies, with all its entries, inside the quadrant. -/
theorem otherBuckets_bound {pos : Nat} {o : Nat × Nat} (h : o ∈ s.otherBuckets q pos) : o.1 = pos ∧ ∀ k, k < 4 → o.2 + k < 2 ^ 20 := by
  unfold State.otherBuckets at h
  split at h
  · exact absurd h List.not_mem_nil
  · obtain ⟨w, hw, rfl⟩ := List.mem_map.1 h
    exact ⟨rfl, fun k hk => bucketPos_add_lt s q _ (List.mem_range.1 (List.mem_filter.1 hw).1) hk⟩

theorem level1_bound {key : Nat} {o : Nat × Nat} (h : o ∈ s.level1 q key) : o.1 < 2 ^ 20 ∧ ∀ k, k < 4 → o.2 + k < 2 ^ 20 := by
  obtain ⟨pos, hpos, ho⟩ := List.mem_flatMap.1 h
  obtain ⟨hfst, hsnd⟩ := otherBuckets_bound ho
  exact ⟨hfst ▸ candidates_lt hpos, hsnd⟩

theorem level2_bound {key : Nat} {o : Nat × Nat × Nat} (h : o ∈ s.level2 q key) :
    o.1 < 2 ^ 20 ∧ o.2.1 < 2 ^ 20 ∧ ∀ k, k < 4 → o.2.2 + k < 2 ^ 20 := by
  obtain ⟨o1, ho1, hrest⟩ := List.mem_flatMap.1 h
  obtain ⟨k, hk, hmap⟩ := List.mem_flatMap.1 hrest
  obtain ⟨o2, ho2, rfl⟩ := List.mem_map.1 hmap
  obtain ⟨hfst, hsnd⟩ := level1_bound ho1
  obtain ⟨hpos, hbucket⟩ := otherBuckets_bound ho2
  exact ⟨hfst, hpos ▸ hsnd k (List.mem_range.1 hk), hbucket⟩

theorem freeIn_lt {b f : Nat} (hb : ∀ k, k < 4 → b + k < 2 ^ 20) (h : s.freeIn q b = some f) : f < 2 ^ 20 := by
  obtain ⟨k, hk, rfl⟩ := List.mem_map.1 (List.mem_of_find?_eq_some h)
  exact hb k (List.mem_range.1 hk)

/-- A new entry takes the first free candidate (R139). -/
theorem insertAddr_of_free {e : AddrEnt} {pos : Nat} (h : ((s.candidates q e.key).find? fun pos => (s.addrAt q pos).isNone) = some pos) :
    s.insertAddr q e = some (s.putAddr q pos e, pos) := by simp only [State.insertAddr, h]

/-- An insertion, with its relocations, changes no other quadrant. -/
theorem insertAddr_onlyQuad (hs : AddrSorted s) {e : AddrEnt} {pos : Nat} (h : s.insertAddr q e = some (t, pos)) : OnlyQuad q s t := by
  unfold State.insertAddr at h
  split at h
  · next p hfree =>
    cases h
    exact (OnlyQuad.refl hs).putAddr (candidates_lt (List.mem_of_find?_eq_some hfree)) _
  · split at h
    · next p1 f hfree =>
      cases h
      obtain ⟨o, ho, hsome⟩ := List.exists_of_findSome?_eq_some hfree
      obtain ⟨f', hf, heq⟩ := Option.map_eq_some_iff.1 hsome
      cases heq
      obtain ⟨hp1, hb⟩ := level1_bound ho
      exact ((OnlyQuad.refl hs).relocate hp1 (freeIn_lt hb hf)).putAddr hp1 _
    · split at h
      · next p1 p2 f hfree =>
        cases h
        obtain ⟨o, ho, hsome⟩ := List.exists_of_findSome?_eq_some hfree
        obtain ⟨f', hf, heq⟩ := Option.map_eq_some_iff.1 hsome
        cases heq
        obtain ⟨hp1, hp2, hb⟩ := level2_bound ho
        exact (((OnlyQuad.refl hs).relocate hp2 (freeIn_lt hb hf)).relocate hp1 hp2).putAddr hp1 _
      · cases h

end

/-! ### FDB_INSERT and FDB_DELETE in one quadrant -/

section
variable {s t : State} {q pos : Nat} {e old : AddrEnt} {replace : Bool}

theorem fdbInsert_of_held (h : s.lookupAddr q e.key = some (pos, old)) :
    s.fdbInsert q e replace = if replace then (s.putAddr q pos e, .ok) else (s, .entryExists) := by simp only [State.fdbInsert, h]

theorem fdbInsert_of_free (h : s.lookupAddr q e.key = none)
    (hfree : ((s.candidates q e.key).find? fun pos => (s.addrAt q pos).isNone) = some pos) :
    s.fdbInsert q e replace = (s.putAddr q pos e, .ok) := by simp only [State.fdbInsert, h, insertAddr_of_free hfree]

theorem fdbInsert_onlyQuad (hs : AddrSorted s) (q : Nat) (e : AddrEnt) (replace : Bool) : OnlyQuad q s (s.fdbInsert q e replace).1 := by
  unfold State.fdbInsert
  split
  · next pos old hheld =>
    cases replace
    · exact OnlyQuad.refl hs
    · exact (OnlyQuad.refl hs).putAddr (lookupAddr_lt hheld) _
  · split
    · next s' pos hins => exact insertAddr_onlyQuad hs hins
    · exact OnlyQuad.refl hs

/-- FDB_DELETE in one quadrant: the entry of the key, when it is of the type (R155). -/
def State.fdbDelete (key type : Nat) (s : State) (q : Nat) : State × Status :=
  match s.lookupAddr q key with
  | some (pos, e) => if e.ofType type then (s.dropAddr q pos, .ok) else (s, .notFound)
  | none => (s, .notFound)

variable {key type : Nat}

theorem fdbDelete_of_held (h : s.lookupAddr q key = some (pos, old)) :
    s.fdbDelete key type q = if old.ofType type then (s.dropAddr q pos, .ok) else (s, .notFound) := by simp only [State.fdbDelete, h]

theorem fdbDelete_onlyQuad (hs : AddrSorted s) (key type q : Nat) : OnlyQuad q s (s.fdbDelete key type q).1 := by
  unfold State.fdbDelete
  split
  · next pos e hheld =>
    split
    · exact (OnlyQuad.refl hs).dropAddr (lookupAddr_lt hheld)
    · exact OnlyQuad.refl hs
  · exact OnlyQuad.refl hs

/-- A deletion leaves every position but the one where the key is held. -/
theorem addrAt_fdbDelete_ne (hs : AddrSorted s) (hp : pos < 2 ^ 20) (hne : ∀ old, s.lookupAddr q key ≠ some (pos, old)) :
    (s.fdbDelete key type q).1.addrAt q pos = s.addrAt q pos := by
  unfold State.fdbDelete
  split
  · next pos' e hheld =>
    split
    · exact addrAt_dropAddr_ne hs (lookupAddr_lt hheld) hp (Or.inr fun hpos => hne e (hpos ▸ hheld))
    · rfl
  · rfl

end

/-! ### Commands in each named quadrant -/

section
variable {f : State → Nat → State × Status} {l : List Nat} {s : State} {q : Nat}

theorem eachQuad_state (f : State → Nat → State × Status) (l : List Nat) (s : State) :
    (eachQuad f l s).1 = l.foldl (fun u q => (f u q).1) s := by
  induction l generalizing s with
  | nil => rfl
  | cons a t ih => exact ih _

/-- A command that changes nothing in any of its quadrants changes nothing. -/
theorem eachQuad_unchanged (h : ∀ q ∈ l, (f s q).1 = s) : (eachQuad f l s).1 = s := by
  induction l with
  | nil => rfl
  | cons a t ih =>
    rw [eachQuad, h a (List.mem_cons_self ..)]
    exact ih fun q hq => h q (List.mem_cons_of_mem _ hq)

/-- The part of a quadrant is left by the steps of others, and its status is that of its own step, in a state where that part is as it was. -/
theorem eachQuad_of_mem {β : Type} {P : State → Prop} {g : State → β} (hP : ∀ u a, P u → P (f u a).1)
    (hg : ∀ u a, P u → a ≠ q → g (f u a).1 = g u) (hl : l.Nodup) (hq : q ∈ l) (hs : P s) :
    ∃ v, P v ∧ g v = g s ∧ g (eachQuad f l s).1 = g (f v q).1 ∧ statusIn (eachQuad f l s).2 q = (f v q).2 := by
  induction l generalizing s with
  | nil => exact absurd hq List.not_mem_nil
  | cons a t ih =>
    obtain ⟨hat, ht⟩ := List.nodup_cons.1 hl
    by_cases ha : a = q
    · subst ha
      refine ⟨s, hs, rfl, ?_, by simp [eachQuad, statusIn]⟩
      exact (congrArg g (eachQuad_state f t _)).trans (foldl_of_notMem (f := fun u q => (f u q).1) hP hg hat (hP _ _ hs))
    · obtain ⟨v, hv, hvs, hvf, hst⟩ := ih ht ((List.mem_cons.1 hq).resolve_left (Ne.symm ha)) (hP _ _ hs)
      refine ⟨v, hv, hvs.trans (hg _ _ hs ha), hvf, ?_⟩
      rw [← hst]
      simp [eachQuad, statusIn, ha]

/-- What a command whose steps keep to their quadrants does in one of them: its step on a state with the same entries there. -/
theorem eachQuad_addr (hf : ∀ u a, AddrSorted u → OnlyQuad a u (f u a).1) (hl : l.Nodup) (hq : q ∈ l) (hs : AddrSorted s) :
    ∃ v, AddrSorted v ∧ SameQuad q s v ∧ (eachQuad f l s).1.addrView q = (f v q).1.addrView q
      ∧ statusIn (eachQuad f l s).2 q = (f v q).2 := by
  obtain ⟨v, ⟨hvs, hvr⟩, hview, hres, hst⟩ := eachQuad_of_mem (f := f) (s := s) (P := fun u => AddrSorted u ∧ u.regs = s.regs)
    (g := fun u => u.addrView q) (fun u a hu => ⟨(hf u a hu.1).sorted, (hf u a hu.1).regs.trans hu.2⟩)
    (fun u a hu ha => (hf u a hu.1).others q (Ne.symm ha)) hl hq ⟨hs, rfl⟩
  exact ⟨v, hvs, ⟨hvr, hview⟩, hres, hst⟩

/-- A quadrant that is not named keeps its entries. -/
theorem eachQuad_addr_notMem (hf : ∀ u a, AddrSorted u → OnlyQuad a u (f u a).1) (hq : q ∉ l) (hs : AddrSorted s) :
    (eachQuad f l s).1.addrView q = s.addrView q := by
  rw [eachQuad_state]
  exact foldl_of_notMem (g := fun u => u.addrView q) (fun u a hu => (hf u a hu).sorted) (fun u a hu ha => (hf u a hu).others q (Ne.symm ha)) hq hs

variable {pos key type : Nat} {e old : AddrEnt} {replace : Bool}

/-- An absent key is inserted in a named quadrant at its first free candidate (R154). -/
theorem fdbInserts_of_free (hl : l.Nodup) (hs : AddrSorted s) (hq : q ∈ l) (habs : s.lookupAddr q e.key = none)
    (hfree : ((s.candidates q e.key).find? fun pos => (s.addrAt q pos).isNone) = some pos) :
    (eachQuad (fun u q => u.fdbInsert q e replace) l s).1.addrAt q pos = some e
    ∧ statusIn (eachQuad (fun u q => u.fdbInsert q e replace) l s).2 q = .ok := by
  obtain ⟨v, -, hv, hview, hst⟩ := eachQuad_addr (fun u a hu => fdbInsert_onlyQuad hu a e replace) hl hq hs
  have hstep : v.fdbInsert q e replace = (v.putAddr q pos e, .ok) :=
    fdbInsert_of_free ((hv.lookupAddr _).trans habs) ((hv.firstFree _).trans hfree)
  rw [hstep] at hview hst
  exact ⟨(addrAt_of_view hview (candidates_lt (List.mem_of_find?_eq_some hfree))).trans (addrAt_putAddr_self ..), hst⟩

/-- A key that a named quadrant holds is written over with REPLACE only (R154). -/
theorem fdbInserts_of_held (hl : l.Nodup) (hs : AddrSorted s) (hq : q ∈ l) (hheld : s.lookupAddr q e.key = some (pos, old)) :
    (eachQuad (fun u q => u.fdbInsert q e replace) l s).1.addrAt q pos = some (if replace then e else old)
    ∧ statusIn (eachQuad (fun u q => u.fdbInsert q e replace) l s).2 q = if replace then .ok else .entryExists := by
  obtain ⟨v, -, hv, hview, hst⟩ := eachQuad_addr (fun u a hu => fdbInsert_onlyQuad hu a e replace) hl hq hs
  have hpos := lookupAddr_lt hheld
  rw [fdbInsert_of_held ((hv.lookupAddr _).trans hheld)] at hview hst
  rw [addrAt_of_view hview hpos, hst]
  cases replace with
  | false => exact ⟨(addrAt_of_view hv.view hpos).trans (lookupAddr_some hheld).2.1, rfl⟩
  | true => exact ⟨addrAt_putAddr_self .., rfl⟩

/-- The entry of a key is deleted in a named quadrant when it is of the type (R155). -/
theorem fdbDeletes_of_held (hl : l.Nodup) (hs : AddrSorted s) (hq : q ∈ l) (hheld : s.lookupAddr q key = some (pos, old)) :
    (eachQuad (State.fdbDelete key type) l s).1.addrAt q pos = (if old.ofType type then none else some old)
    ∧ statusIn (eachQuad (State.fdbDelete key type) l s).2 q = if old.ofType type then .ok else .notFound := by
  obtain ⟨v, hvs, hv, hview, hst⟩ := eachQuad_addr (fun u a hu => fdbDelete_onlyQuad hu key type a) hl hq hs
  have hpos := lookupAddr_lt hheld
  rw [fdbDelete_of_held ((hv.lookupAddr _).trans hheld)] at hview hst
  rw [addrAt_of_view hview hpos, hst]
  cases old.ofType type with
  | false => exact ⟨(addrAt_of_view hv.view hpos).trans (lookupAddr_some hheld).2.1, rfl⟩
  | true => exact ⟨addrAt_dropAddr_self hvs q pos, rfl⟩

/-- Deletions in the named quadrants leave every position but those where the key is held. -/
theorem addrAt_fdbDeletes_ne (hl : l.Nodup) (hs : AddrSorted s) (hpos : pos < 2 ^ 20) (hne : ∀ old, s.lookupAddr q key ≠ some (pos, old)) :
    (eachQuad (State.fdbDelete key type) l s).1.addrAt q pos = s.addrAt q pos := by
  have honly : ∀ u a, AddrSorted u → OnlyQuad a u (u.fdbDelete key type a).1 := fun u a hu => fdbDelete_onlyQuad hu key type a
  by_cases hq : q ∈ l
  · obtain ⟨v, hvs, hv, hview, -⟩ := eachQuad_addr honly hl hq hs
    rw [addrAt_of_view hview hpos, addrAt_fdbDelete_ne hvs hpos fun old => (hv.lookupAddr _).symm ▸ hne old]
    exact addrAt_of_view hv.view hpos
  · exact addrAt_of_view (eachQuad_addr_notMem honly hq hs) hpos

variable {mask : Nat} {st : Nat → Status}

theorem overall_of_ok (h : ∀ q ∈ s.quadsOf mask, st q = .ok) : overall s mask st = .ok := if_pos (by simpa using h)

theorem overall_of_not_ok (hq : q ∈ s.quadsOf mask) (h : st q ≠ .ok) : overall s mask st = .partial_ :=
  if_neg fun hall => h (by simpa using List.all_eq_true.1 hall q hq)

theorem noQuad_eq_false (h : s.quadsOf mask ≠ []) : s.noQuad mask = false := by rw [State.noQuad, List.isEmpty_eq_false_iff]; exact h

end

/-! ### The packets -/

section
variable {p : Packet} {a : Args} {s : State}

/-- FDB_INSERT acts in each present named quadrant (R154). -/
theorem fdbInsert_completes (hacc : Accepts 0x0300 p s) (ha : readParams 0x0300 p.params = a) (hbad : a.bad = false)
    (hquads : s.quadsOf (a.n 0) ≠ []) (hmac : a.n 2 ≠ 0) (hdyn : a.f 3 = false → (a.n 2 / 2 ^ 40).testBit 0 = false ∧ a.f 4 = false)
    (hport : a.f 4 = false → a.n 5 ≤ 515 ∧ s.hasPort (a.n 5) = true) (hset : a.f 4 = true → a.n 5 ≤ 16383) {new : AddrEnt}
    (hnew : new = { mac := a.n 2, fid := a.n 1, dest := a.n 5, static := a.f 3, hit := true, isSet := a.f 4, copyCpu := a.f 6 })
    {r : State × List (Nat × Status)}
    (hr : r = eachQuad (fun u q => u.fdbInsert q new (a.f 7)) (s.quadsOf (a.n 0)) (begun 0x0300 p s)) :
    Completes (.fdbInsert p) 0x0300 p s r.1 (overall s (a.n 0) (statusIn r.2)) (blockReply s (a.n 0) (statusIn r.2) []) := by
  subst ha hnew hr
  have hno : (begun 0x0300 p s).noQuad ((readParams 0x0300 p.params).n 0) = false := noQuad_eq_false hquads
  have hstatic : (!(readParams 0x0300 p.params).f 3
      && (((readParams 0x0300 p.params).n 2 / 2 ^ 40).testBit 0 || (readParams 0x0300 p.params).f 4)) = false := by
    cases hs : (readParams 0x0300 p.params).f 3 with
    | false =>
      obtain ⟨hm, hi⟩ := hdyn hs
      rw [hm, hi]
      rfl
    | true => rfl
  have hdest : (!(readParams 0x0300 p.params).f 4 && decide (515 < (readParams 0x0300 p.params).n 5)) = false := by
    cases hi : (readParams 0x0300 p.params).f 4 with
    | false => simp [(hport hi).1]
    | true => rfl
  change execFdbInsert p s = _
  unfold execFdbInsert
  refine completes_of_checks hacc (firstFail_of_all_false ?_) rfl
  simp only [List.forall_mem_cons, List.not_mem_nil, false_implies, implies_true, and_true, begun_hasPort]
  refine ⟨hno, ?_, ?_, ?_⟩
  · simp only [hbad, hstatic, hdest, beq_eq_false_iff_ne.2 hmac, Bool.or_self]
  · cases hi : (readParams 0x0300 p.params).f 4 with
    | false => simp [(hport hi).2]
    | true => rfl
  · cases hi : (readParams 0x0300 p.params).f 4 with
    | false => rfl
    | true => simp [hset hi]

theorem fdbDelete_completes (hacc : Accepts 0x0301 p s) (ha : readParams 0x0301 p.params = a) (hbad : a.bad = false) (htype : a.n 3 ≠ 3)
    (hquads : s.quadsOf (a.n 0) ≠ []) {r : State × List (Nat × Status)}
    (hr : r = eachQuad (State.fdbDelete (addrKey (a.n 1) (a.n 2)) (a.n 3)) (s.quadsOf (a.n 0)) (begun 0x0301 p s)) :
    Completes (.fdbDelete p) 0x0301 p s r.1 (overall s (a.n 0) (statusIn r.2)) (blockReply s (a.n 0) (statusIn r.2) []) := by
  subst ha hr
  have hno : (begun 0x0301 p s).noQuad ((readParams 0x0301 p.params).n 0) = false := noQuad_eq_false hquads
  change execFdbDelete p s = _
  unfold execFdbDelete
  refine completes_of_checks hacc (firstFail_of_all_false ?_) rfl
  simp [hbad, htype, hno]

/-- The record that FDB_SEARCH answers for a quadrant (R155, R659): the entry found there, or zeros. -/
def State.searchRecord (s : State) (mask key q : Nat) : List Byte :=
  match if (s.quadsOf mask).contains q then s.lookupAddr q key else none with
  | some (pos, e) => s.entryRecord q pos e
  | none => List.replicate 16 0

/-- The status that a search has in a quadrant. -/
def State.searchStatus (s : State) (key q : Nat) : Status := if (s.lookupAddr q key).isSome then .ok else .notFound

theorem fdbSearch_completes (hacc : Accepts 0x0302 p s) (ha : readParams 0x0302 p.params = a) (hbad : a.bad = false)
    (hquads : s.quadsOf (a.n 0) ≠ []) {key : Nat} (hkey : key = addrKey (a.n 1) (a.n 2)) :
    Completes (.fdbSearch p) 0x0302 p s (begun 0x0302 p s) (overall s (a.n 0) (s.searchStatus key))
      (slice (emitFrom (statusBlock s (a.n 0) (s.searchStatus key)) 0) 0 16 ++ (List.range 4).flatMap (s.searchRecord (a.n 0) key)) := by
  subst ha hkey
  have hno : (begun 0x0302 p s).noQuad ((readParams 0x0302 p.params).n 0) = false := noQuad_eq_false hquads
  change execFdbSearch p s = _
  unfold execFdbSearch
  refine completes_of_checks hacc (firstFail_of_all_false ?_) rfl
  simp [hbad, hno]

/-- An accepted packet whose checks all pass, and whose effect is deferred, leaves the state of its job. -/
theorem deferred_of_checks {op : Nat} {t : State} {e : Status} {ps : List Byte} {body : Args → State → Res} {checks : List (Bool × Status)}
    (hacc : Accepts op p s) (hc : firstFail checks = none)
    (hb : body (readParams op p.params) (begun op p s)
      = guarded (begun op p s) checks { status := e, params := ps, state := t, deferred := true }) :
    runPacket op p body s = .next t := by
  rw [guarded_of_none _ hc] at hb
  rw [runPacket_of_accepts hacc, hb]
  rfl

/-- The state of a command that waits for scan passes: its job with the number of passes left, and the scans (R157). -/
def State.scanning (s : State) (op : Nat) (p : Packet) (quads : List Nat) : State :=
  let u := (Res.job s op p quads.length).state
  { u with tab := { u.tab with scans := u.tab.scans ++ quads.map fun q => { quad := q, chan := p.chan, tag := p.tag } } }

theorem scanning_result (s : State) (op : Nat) (p : Packet) (quads : List Nat) :
    ((begun op p s).scanning op p quads).tab.scans = s.tab.scans ++ quads.map (fun q => { quad := q, chan := p.chan, tag := p.tag })
    ∧ ((begun op p s).scanning op p quads).tab.jobs.length = s.tab.jobs.length + 1
    ∧ ((begun op p s).scanning op p quads).pkts.replies = s.pkts.replies
    ∧ ((begun op p s).scanning op p quads).tab.addr = s.tab.addr := ⟨rfl, List.length_append .., rfl, rfl⟩

theorem firstFail_append {l m : List (Bool × Status)} (h : firstFail l = none) : firstFail (l ++ m) = firstFail m := by
  induction l with
  | nil => rfl
  | cons c t ih =>
    obtain ⟨b, e⟩ := c
    cases b
    · exact ih h
    · cases h

theorem fdbNext_waits (hacc : Accepts 0x0303 p s) (ha : readParams 0x0303 p.params = a) (hbad : a.bad = false) (hq : s.hasQuad (a.n 0) = true)
    (hmin : 1 ≤ a.n 9) (hmax : a.n 9 ≤ 4096) (htype : a.n 8 ≠ 3)
    (hdma : 28 < a.n 9 → firstFail (dmaChecks s p (a.n 10) true (16 * a.n 9)) = none) (hport : a.f 4 = true → s.hasPort (a.n 5) = true) :
    exec (.fdbNext p) s = .next ((begun 0x0303 p s).scanning 0x0303 p [a.n 0]) := by
  subst ha
  change execFdbNext p s = _
  unfold execFdbNext
  refine deferred_of_checks hacc ?_ rfl
  rw [List.append_assoc, firstFail_append (firstFail_of_all_false ?first), firstFail_append ?dma]
  case first => simp [hq, hbad, Nat.pos_iff_ne_zero.1 hmin, hmax, htype]
  case dma =>
    split
    · next h28 => exact hdma h28
    · rfl
  · refine firstFail_of_all_false ?_
    simpa using hport

theorem fdbFlushPort_waits (hacc : Accepts 0x0304 p s) (ha : readParams 0x0304 p.params = a) (hbad : a.bad = false) (htype : a.n 5 ≠ 3)
    (hquads : s.quadsOf (a.n 0) ≠ []) (hport : a.f 2 = false → s.hasPort (a.n 1) = true) :
    exec (.fdbFlushPort p) s = .next ((begun 0x0304 p s).scanning 0x0304 p (s.quadsOf (a.n 0))) := by
  subst ha
  have hno : ((begun 0x0304 p s).quadsOf ((readParams 0x0304 p.params).n 0)).isEmpty = false := noQuad_eq_false hquads
  change execFdbFlushPort p s = _
  unfold execFdbFlushPort
  refine deferred_of_checks hacc (firstFail_of_all_false ?_) rfl
  cases hall : (readParams 0x0304 p.params).f 2 with
  | false => simp [hbad, htype, hno, hport hall]
  | true => simp [hbad, htype, hno]

end

/-! ### The records that FDB_SEARCH answers -/

@[simp] theorem leBytes_length (n v : Nat) : (leBytes n v).length = n := by
  induction n generalizing v with
  | zero => rfl
  | succ n ih => rw [leBytes, List.length_cons, ih]

@[simp] theorem beBytes_length (n v : Nat) : (beBytes n v).length = n := by rw [beBytes, List.length_reverse, leBytes_length]

theorem entryRecord_length (s : State) (q pos : Nat) (e : AddrEnt) : (s.entryRecord q pos e).length = 16 := by
  simp [State.entryRecord, State.addrRecord]

theorem searchRecord_length (s : State) (mask key q : Nat) : (s.searchRecord mask key q).length = 16 := by
  unfold State.searchRecord
  split
  · exact entryRecord_length ..
  · exact List.length_replicate

theorem searchRecord_of_held {s : State} {mask key q pos : Nat} {e : AddrEnt} (hq : q ∈ s.quadsOf mask) (h : s.lookupAddr q key = some (pos, e)) :
    s.searchRecord mask key q = s.entryRecord q pos e := by simp [State.searchRecord, hq, h]

section
variable {r : Nat → List Byte} {n : Nat}

/-- Blocks of one length stand at the multiples of it. -/
theorem drop_blocks (hr : ∀ q, (r q).length = n) (l : List Nat) (k : Nat) : (l.flatMap r).drop (n * k) = (l.drop k).flatMap r := by
  induction l generalizing k with
  | nil => simp
  | cons q t ih =>
    cases k with
    | zero => rfl
    | succ k =>
      rw [List.flatMap_cons, Nat.mul_succ, Nat.add_comm, ← List.drop_drop, List.drop_left' (hr q), ih, List.drop_succ_cons]

theorem slice_block (hr : ∀ q, (r q).length = n) {head : List Byte} (hh : head.length = n) {q m : Nat} (hq : q < m) :
    slice (head ++ (List.range m).flatMap r) (n + n * q) n = r q := by
  have hget : (List.range m).drop q = q :: (List.range m).drop (q + 1) := by
    rw [List.drop_eq_getElem_cons (by simpa using hq), List.getElem_range]
  have hdrop : (head ++ (List.range m).flatMap r).drop (n + n * q) = r q ++ ((List.range m).drop (q + 1)).flatMap r := by
    rw [← List.drop_drop, List.drop_left' hh, drop_blocks hr, hget, List.flatMap_cons]
  rw [slice, hdrop, List.take_left' (hr q)]
  simp [hr q]

theorem length_blocks (hr : ∀ q, (r q).length = n) (m : Nat) : ((List.range m).flatMap r).length = m * n := by
  simp [List.length_flatMap, hr]

end

/-- Settles O41: what a packet does in a quadrant is its step there on a state with the same entries, since steps in other quadrants leave
them; walks and flushes start a job. -/
theorem addressEntryPacketsAnswer : Obligations.AddressEntryPacketsAnswer := by
  refine ⟨?insert, ?delete, ?search, ?next, ?flush⟩
  case insert =>
    intro p a new s hsorted hacc ha hbad hquads hmac hdyn hport hset hnew
    have hnd := quadsOf_nodup s (a.n 0)
    refine ⟨_, _, _, fdbInsert_completes hacc ha hbad hquads hmac hdyn hport hset hnew rfl,
      fun q pos hq => ⟨fun habs hfree => (fdbInserts_of_free (s := begun 0x0300 p s) hnd hsorted hq habs hfree).1,
        fun old hheld => (fdbInserts_of_held (s := begun 0x0300 p s) hnd hsorted hq hheld).1⟩,
      fun hall => overall_of_ok fun q hq => ?absent, fun hall => ?held⟩
    case absent =>
      obtain ⟨habs, hfree⟩ := hall q hq
      obtain ⟨pos, hpos⟩ := Option.isSome_iff_exists.1 hfree
      exact (fdbInserts_of_free (s := begun 0x0300 p s) hnd hsorted hq habs hpos).2
    case held =>
      have hstatus : ∀ q ∈ s.quadsOf (a.n 0),
          statusIn (eachQuad (fun u q => u.fdbInsert q new (a.f 7)) (s.quadsOf (a.n 0)) (begun 0x0300 p s)).2 q
            = if a.f 7 then .ok else .entryExists := fun q hq => by
        obtain ⟨⟨pos, old⟩, hheld⟩ := Option.isSome_iff_exists.1 (hall q hq)
        exact (fdbInserts_of_held (s := begun 0x0300 p s) hnd hsorted hq hheld).2
      refine ⟨fun hrep => overall_of_ok fun q hq => (hstatus q hq).trans (if_pos hrep), fun hrep => ⟨?_, ?_⟩⟩
      · obtain ⟨q, hq⟩ := List.exists_mem_of_ne_nil _ hquads
        exact overall_of_not_ok hq (by rw [hstatus q hq]; simp [hrep])
      · rw [eachQuad_unchanged fun q hq => ?_]
        · rfl
        · obtain ⟨⟨pos, old⟩, hheld⟩ := Option.isSome_iff_exists.1 (hall q hq)
          rw [fdbInsert_of_held (s := begun 0x0300 p s) hheld, hrep]
          rfl
  case delete =>
    intro p a s hsorted hacc ha hbad htype hquads
    have hnd := quadsOf_nodup s (a.n 0)
    refine ⟨_, _, _, fdbDelete_completes hacc ha hbad htype hquads rfl, fun q pos old hq hheld => ?named,
      fun q pos _ hpos hne => addrAt_fdbDeletes_ne (s := begun 0x0301 p s) hnd hsorted hpos hne, fun hall => overall_of_ok fun q hq => ?status⟩
    case named =>
      have hres := (fdbDeletes_of_held (s := begun 0x0301 p s) (type := a.n 3) hnd hsorted hq hheld).1
      exact ⟨fun hof => hres.trans (if_pos hof), fun hof => hres.trans (by rw [hof]; rfl)⟩
    case status =>
      obtain ⟨⟨pos, old⟩, hheld, hof⟩ := (Option.any_eq_true ..).1 (hall q hq)
      exact (fdbDeletes_of_held (s := begun 0x0301 p s) hnd hsorted hq hheld).2.trans (if_pos hof)
  case search =>
    intro p a s hacc ha hbad hquads
    refine ⟨_, _, fdbSearch_completes hacc ha hbad hquads rfl, ?_, fun q pos old hq hheld => ?_, fun hall => overall_of_ok fun q hq => ?_⟩
    · rw [List.length_append, length_slice, length_blocks (searchRecord_length s _ _)]
    · rw [slice_block (searchRecord_length s _ _) (length_slice ..) (mem_quadsOf.1 hq).1.1, searchRecord_of_held hq hheld]
    · rw [State.searchStatus, if_pos (hall q hq)]
  case next =>
    intro p a s hacc ha hbad hq hmin hmax htype hdma hport
    exact ⟨_, fdbNext_waits hacc ha hbad hq hmin hmax htype hdma hport, scanning_result s 0x0303 p [a.n 0]⟩
  case flush =>
    intro p a s hacc ha hbad htype hquads hport
    exact ⟨_, fdbFlushPort_waits hacc ha hbad htype hquads hport, scanning_result s 0x0304 p (s.quadsOf (a.n 0))⟩

end Sys2Proof.Machine

/-!
Learning, aging, notices and the scrub of the address table (O29): what the engine leaves for one request, a sweep for one entry, firmware for the
notices of an epoch, and the scrub for one entry.
-/
namespace Sys2Proof.Machine
open Sys2Proof

/-! ### Notices -/

/-- A notice joins its quadrant's buffer while that has room (R147). -/
theorem notice_of_room {s : State} {q : Nat} (h : (s.noticesOf q).length < 8192) (r : List Byte) :
    s.notice q r = { s with tab := { s.tab with notices := Table.insert s.tab.notices q (s.noticesOf q ++ [r]) } } := if_pos h

theorem noticesOf_notice {s : State} {q : Nat} (h : (s.noticesOf q).length < 8192) (r : List Byte) :
    (s.notice q r).noticesOf q = s.noticesOf q ++ [r] := by
  rw [notice_of_room h, State.noticesOf, OTable.get?_insert_self, Option.getD_some]

/-- A record carries no part of the state but the epoch (R149). -/
theorem addrRecord_of_tick {s t : State} (h : t.tick = s.tick) (kind q fid mac dest old : Nat) (ent : Option (Nat × AddrEnt)) :
    t.addrRecord kind q fid mac dest old ent = s.addrRecord kind q fid mac dest old ent := by
  simp only [State.addrRecord, State.epoch, h]

/-! ### Learning -/

/-- The state without its learn requests. -/
def State.unasked (s : State) : State := { s with tab := { s.tab with learnQ := [] } }

/-- The entry that a request learns: dynamic, with HIT (R135). -/
def LearnReq.entry (r : LearnReq) : AddrEnt := { mac := r.mac, fid := r.fid, dest := r.port, hit := true }

section
variable {s : State} {q pos : Nat} {r : LearnReq} {e : AddrEnt}

/-- The only request of a quadrant is served, and leaves the queue (R132). -/
theorem learnRequestServe_single (hl : s.tab.learnQ = [r]) (hq : r.quad = q) (hdue : r.entered < s.tick.slot) :
    exec (.learnRequestServe q) s = .next (s.unasked.serveLearn r) := by
  change execLearnRequestServe q s = _
  have hfind : (s.tab.learnQ.find? fun r => r.quad = q && r.entered < s.tick.slot) = some r := by simp [hl, hq, hdue]
  have hrest : (s.tab.learnQ.filter fun x => x != r) = [] := by simp [hl]
  simp only [execLearnRequestServe, hfind, hrest]
  rfl

/-- A new key is learned at the first free candidate (R135). -/
theorem serveLearn_of_free (hq : r.quad = q) (habs : s.lookupAddr q (addrKey r.fid r.mac) = none) (hlimit : s.overLimit q r.port = false)
    (hfree : ((s.candidates q (addrKey r.fid r.mac)).find? fun pos => (s.addrAt q pos).isNone) = some pos) :
    s.serveLearn r = ((s.putAddr q pos r.entry).count .tbLearnCnt q 1).notice q
      (s.addrRecord 1 q r.fid r.mac r.port 0x3FF (some (pos, r.entry))) := by
  subst hq
  have hins : s.insertAddr r.quad r.entry = some (s.putAddr r.quad pos r.entry, pos) := insertAddr_of_free hfree
  rw [LearnReq.entry] at hins ⊢
  simp only [State.serveLearn, habs, hlimit, hins, Bool.false_eq_true, if_false]
  rw [addrRecord_of_tick (t := s.putAddr r.quad pos _) (s := s) rfl]

/-- A dynamic entry of another port moves to the port of the request (R135). -/
theorem serveLearn_of_moved (hq : r.quad = q) (hheld : s.lookupAddr q (addrKey r.fid r.mac) = some (pos, e)) (hdyn : e.static = false)
    (hport : e.dest ≠ r.port) (hlimit : s.overLimit q r.port = false) :
    s.serveLearn r = ((s.putAddr q pos { e with dest := r.port, hit := true }).count .tbMoveCnt q 1).notice q
      (s.addrRecord 2 q r.fid r.mac r.port e.dest (some (pos, { e with dest := r.port, hit := true }))) := by
  subst hq
  have hmine : (!e.isSet && e.dest == r.port) = false := by simp [hport]
  simp only [State.serveLearn, hheld, hmine, hdyn, hlimit, Bool.false_eq_true, if_false]

end

/-! ### Aging -/

/-- The aging states are in canonical form. -/
abbrev AgeWf (s : State) : Prop := Table.wf (fun _ => ({} : AgeState)) s.tab.age = true

section
variable {s : State} {q : Nat}

theorem ageOf_setAge (h : AgeWf s) (q : Nat) (a : AgeState) : (s.setAge q a).ageOf q = a := Table.get_set_self h _ _

/-- A sweep is due: at an epoch boundary whose number is a multiple of the period (R142). -/
theorem agingSweepStart_of_due (hq : s.hasQuad q = true) (hen : s.flag F.tbAgeCfg_AGE_EN q = true) (hoff : s.epochOffset = 0)
    (hdue : s.epoch % max 4 (s.fld F.tbAgeCfg_PERIOD q) = 0) :
    exec (.agingSweepStart q) s = .next (if (s.ageOf q).active then (s.setAge q { s.ageOf q with pending := true }).raise F.tbStat_AGE_LAG q
      else s.setAge q { active := true, step := 0, pending := false }) := by
  change execAgingSweepStart q s = _
  simp only [execAgingSweepStart, hq, hen, hoff, hdue, Bool.not_true, Bool.or_false, bne_self_eq_false, Bool.false_eq_true, if_false]
  split <;> rfl

/-- A running sweep that is not in its last quarter visits the one entry of its quarter, and goes on (R142). -/
theorem agingSweepStep_single (hact : (s.ageOf q).active = true) (hoff : 65536 ≤ s.epochOffset) (hstep : (s.ageOf q).step < 3)
    {pos : Nat} {e : AddrEnt} (haddr : s.addrOf q = [(pos, e)]) (hlo : (s.ageOf q).step * 262144 ≤ pos)
    (hhi : pos < ((s.ageOf q).step + 1) * 262144) :
    exec (.agingSweepStep q) s = .next ((State.ageVisit q s (pos, e)).setAge q { s.ageOf q with step := (s.ageOf q).step + 1 }) := by
  change execAgingSweepStep q s = _
  simp [execAgingSweepStep, hact, Nat.not_lt.2 hoff, hstep, haddr, hlo, hhi]

/-- What the visit of an entry does (R142): a static one stays, HIT is cleared, and an entry without HIT is deleted. -/
theorem ageVisit_eq (q : Nat) (s : State) (e : Nat × AddrEnt) :
    State.ageVisit q s e = if e.2.static then s else if e.2.hit then s.putAddr q e.1 { e.2 with hit := false }
      else ((s.dropAddr q e.1).count .tbAgedCnt q 1).notice q (s.addrRecord 3 q e.2.fid e.2.mac e.2.dest 0x3FF (some e)) := rfl

theorem notice_age (s : State) (q : Nat) (r : List Byte) : (s.notice q r).tab.age = s.tab.age := by
  unfold State.notice
  dsimp only
  split <;> rfl

theorem ageVisit_age (q : Nat) (s : State) (e : Nat × AddrEnt) : (State.ageVisit q s e).tab.age = s.tab.age := by
  rw [ageVisit_eq]
  split
  · rfl
  · split
    · rfl
    · exact notice_age _ _ _

end

/-! ### Notices to firmware and the host ring -/

/-- With room for all of them, firmware holds the records in order behind those that it has (R148). -/
theorem holdNotices_of_room {l : List (List Byte)} {s : State} (h : s.tab.ring.held.length + l.length ≤ 65536) :
    l.foldl State.holdNotice s = { s with tab := { s.tab with ring := { s.tab.ring with held := s.tab.ring.held ++ l } } } := by
  induction l generalizing s with
  | nil => simp
  | cons r t ih =>
    rw [List.length_cons] at h
    have hroom : s.holdNotice r = { s with tab := { s.tab with ring := { s.tab.ring with held := s.tab.ring.held ++ [r] } } } :=
      if_pos (by omega)
    rw [List.foldl_cons, hroom, ih (by simp only [List.length_append, List.length_singleton]; omega)]
    simp only [List.append_assoc, List.singleton_append]

/-- The state whose notices of a quadrant, and count of lost ones, have gone to firmware. -/
def State.handedOver (s : State) (q : Nat) : State :=
  { s with tab := { s.tab with notices := Table.erase s.tab.notices q, noticeLost := Table.erase s.tab.noticeLost q } }

/-- At offset 4,096 the notices of a quadrant that has lost none go to firmware (R147). -/
theorem learnNoticeFlush_of_due {s : State} {q : Nat} (hoff : s.epochOffset = 4096) (hrun : s.fwRunning = true)
    (hlost : Table.get (fun _ => 0) s.tab.noticeLost q = 0) :
    exec (.learnNoticeFlush q) s = .next ((s.noticesOf q).foldl State.holdNotice (s.handedOver q)) := by
  change execLearnNoticeFlush q s = _
  simp [execLearnNoticeFlush, State.handedOver, hoff, hrun, hlost]

/-- The one record held goes to the place of the producer index, the advanced index to the ring's head, and the doorbell is raised (R148). -/
theorem noticeRingDelivery_single {s : State} {g : NoticeRing} {cons : Nat} {r : List Byte} (hg : s.tab.ring = g) (hen : g.enabled = true)
    (hrun : s.fwRunning = true) (hheld : g.held = [r]) (hdisc : g.discarded = 0) (hroom : (g.prod + 2 ^ 32 - cons) % 2 ^ 32 < g.size) :
    exec (.noticeRingDelivery cons) s = .next (State.d2hSet
      { (s.emit (.hostWrite (g.addr + 64 + 16 * (g.prod % g.size)) r)).emit (.hostWrite g.addr (leBytes 4 ((g.prod + 1) % 2 ^ 32))) with
        tab := { s.tab with ring := { g with prod := (g.prod + 1) % 2 ^ 32, held := [] } } } g.bell) := by
  subst hg
  have hpos : [r].length ≤ s.tab.ring.size - (s.tab.ring.prod + 2 ^ 32 - cons) % 2 ^ 32 := by rw [List.length_singleton]; omega
  change execNoticeRingDelivery cons s = _
  simp only [execNoticeRingDelivery, hen, hrun, hheld, hdisc, if_true, List.append_nil, List.take_of_length_le hpos,
    List.drop_eq_nil_of_le hpos, Bool.not_true, Bool.or_self, Bool.false_eq_true, if_false, if_neg (List.cons_ne_nil r [])]
  rfl

/-! ### The scrub -/

section
variable {s : State} {q : Nat}

theorem tbScrubVisit_good (hq : s.hasQuad q = true) (b k : Nat) : exec (.tbScrubVisit q b k 0) s = .next s := by
  change execTbScrubVisit q b k 0 s = _
  simp [execTbScrubVisit, hq]

theorem tbScrubVisit_single (hq : s.hasQuad q = true) (b k : Nat) :
    exec (.tbScrubVisit q b k 1) s = .next (s.addrCorrected q ((b * 4 + k % 4) % 2 ^ 20)) := by
  change execTbScrubVisit q b k 1 s = _
  simp [execTbScrubVisit, hq]

theorem tbScrubVisit_double (hq : s.hasQuad q = true) (b k : Nat) :
    exec (.tbScrubVisit q b k 2) s = .next (s.addrError q ((b * 4 + k % 4) % 2 ^ 20)) := by
  change execTbScrubVisit q b k 2 s = _
  simp [execTbScrubVisit, hq]

/-- An uncorrectable entry is shown and deleted, and a static one waits for its shadow (R123). -/
theorem addrError_of_held (h : RegsWf s) {pos : Nat} {e : AddrEnt} (he : s.addrAt q pos = some e) (hroom : (s.noticesOf q).length < 8192) :
    (s.addrError q pos).flag F.tbStat_ECC_UE q = true ∧ (s.addrError q pos).tab.addr = Table.erase s.tab.addr (q * 2 ^ 20 + pos)
    ∧ (s.addrError q pos).tab.lost
      = s.tab.lost ++ (if e.static then [{ table := 1, quad := q, index := pos, addr := some e }] else []) := by
  obtain ⟨hflag, -⟩ := loggedError h (r := .tbErrIdx) (f := F.tbStat_ECC_UE) (by decide) (by decide) q (word (3 * 2 ^ 20 + pos))
  have hat : ((s.setReg .tbErrIdx q (word (3 * 2 ^ 20 + pos))).raise F.tbStat_ECC_UE q).addrAt q pos = some e := he
  unfold State.addrError
  simp only [hat]
  generalize hu : (s.setReg .tbErrIdx q (word (3 * 2 ^ 20 + pos))).raise F.tbStat_ECC_UE q = u at hflag
  have htab : u.tab = s.tab := by rw [← hu]; rfl
  have hroom' : ((u.dropAddr q pos).noticesOf q).length < 8192 := by
    change ((OTable.get? u.tab.notices q).getD []).length < 8192
    rw [htab]; exact hroom
  rw [notice_of_room hroom', ← htab]
  cases e.static
  · exact ⟨hflag, rfl, (List.append_nil _).symm⟩
  · exact ⟨hflag, rfl, rfl⟩

end

/-- Settles O29: each command is an equation for the one request, sweep, record or entry that it acts on. -/
theorem addressTableLearnsAndAges : Obligations.AddressTableLearnsAndAges := by
  refine ⟨?learn, ?move, ?sweepStart, ?sweepStep, ?flush, ?deliver, ?scrub⟩
  case learn =>
    intro q pos r s hl hq hdue habs hlimit hroom hfree
    have hserve := serveLearn_of_free (s := s.unasked) hq habs hlimit hfree
    have hroom' : ((((s.unasked).putAddr q pos r.entry).count .tbLearnCnt q 1).noticesOf q).length < 8192 := hroom
    have hnotices := noticesOf_notice hroom' (s.unasked.addrRecord 1 q r.fid r.mac r.port 0x3FF (some (pos, r.entry)))
    refine ⟨_, learnRequestServe_single hl hq hdue, ?_⟩
    rw [notice_of_room hroom'] at hserve hnotices
    rw [hserve]
    exact ⟨rfl, rfl, addrAt_putAddr_self s.unasked q pos r.entry, hnotices⟩
  case move =>
    intro q pos e r s hl hq hdue hheld hdyn hport hlimit hroom
    refine ⟨_, learnRequestServe_single hl hq hdue, ?_⟩
    rw [serveLearn_of_moved (s := s.unasked) hq hheld hdyn hport hlimit,
      notice_of_room (s := (s.unasked.putAddr q pos _).count .tbMoveCnt q 1) hroom]
    exact ⟨addrAt_putAddr_self s.unasked q pos _, rfl⟩
  case sweepStart =>
    intro q s h hage hq hen hoff hdue
    have hstart := agingSweepStart_of_due hq hen hoff hdue
    refine ⟨fun hact => ?_, fun hact => ?_⟩
    · rw [hact] at hstart
      exact ⟨_, hstart, ageOf_setAge hage q _⟩
    · rw [if_pos hact] at hstart
      have hset := ageOf_setAge hage q { s.ageOf q with pending := true }
      exact ⟨_, hstart, (congrArg AgeState.pending hset).trans rfl, (congrArg AgeState.step hset).trans rfl,
        flag_raise_self (s := s.setAge q _) h.regs (by decide) q⟩
  case sweepStep =>
    intro q pos e s hage hact hoff hstep haddr hlo hhi hroom
    have hvisit : AgeWf (State.ageVisit q s (pos, e)) := by rw [AgeWf, ageVisit_age]; exact hage
    refine ⟨_, agingSweepStep_single hact hoff hstep haddr hlo hhi, congrArg AgeState.step (ageOf_setAge hvisit q _), fun hs => ?_, fun hs hh => ?_,
      fun hs hh => ?_⟩
    · change (State.ageVisit q s (pos, e)).tab.addr = _
      rw [ageVisit_eq, if_pos hs]
    · change (State.ageVisit q s (pos, e)).addrAt q pos = _
      rw [ageVisit_eq, if_neg (by simp [hs]), if_pos hh]
      exact addrAt_putAddr_self ..
    · change (State.ageVisit q s (pos, e)).tab.addr = _ ∧ (State.ageVisit q s (pos, e)).cnt = _
      rw [ageVisit_eq, if_neg (by simp [hs]), if_neg (by simp [hh]),
        notice_of_room (s := (s.dropAddr q pos).count .tbAgedCnt q 1) hroom]
      exact ⟨rfl, rfl⟩
  case flush =>
    intro q s hoff hrun hlost hroom
    refine ⟨_, learnNoticeFlush_of_due hoff hrun hlost, ?_⟩
    rw [holdNotices_of_room (s := s.handedOver q) hroom]
    exact ⟨rfl, rfl⟩
  case deliver =>
    intro cons r s hen hrun hheld hdisc hroom
    exact ⟨_, noticeRingDelivery_single rfl hen hrun hheld hdisc hroom, rfl, rfl, List.append_assoc ..⟩
  case scrub =>
    intro q b k s h hq
    obtain ⟨hflag, hidx⟩ := loggedError h.regs (r := .tbErrIdx) (f := F.tbStat_ECC_CE) (by decide) (by decide) q
      (word (2 * 2 ^ 20 + (b * 4 + k % 4) % 2 ^ 20))
    exact ⟨tbScrubVisit_good hq b k, ⟨_, tbScrubVisit_single hq b k, hflag, rfl, hidx⟩,
      fun e he hroom => ⟨_, tbScrubVisit_double hq b k, addrError_of_held h.regs he hroom⟩⟩

end Sys2Proof.Machine

/-!
Routing tables by packets (O44): next hops, equal-cost groups and their members, the hash, and router interfaces with their bindings, as their
packets leave them, and the answers of their reads.
-/
namespace Sys2Proof.Machine
open Sys2Proof

/-! ### A table with a part for each quadrant -/

section
variable {n q q' i i' : Nat}

/-- The parts of two quadrants do not meet, nor do two entries of one part. -/
theorem quadKey_inj (hi : i < n) (hi' : i' < n) : q' * n + i' = q * n + i ↔ q' = q ∧ i' = i := by
  refine ⟨fun h => ?_, fun ⟨hq, hi⟩ => by rw [hq, hi]⟩
  have hmod := congrArg (· % n) h
  simp only [Nat.mul_add_mod', Nat.mod_eq_of_lt hi, Nat.mod_eq_of_lt hi'] at hmod
  subst hmod
  exact ⟨Nat.eq_of_mul_eq_mul_right (by omega) (Nat.add_right_cancel h), rfl⟩

variable {V : Type} [DecidableEq V] {d : Nat → V}

/-- An entry of a quadrant's part holds what was written to it, and every other entry stays. -/
theorem get_setQuad {t : Table V} (h : Table.wf d t = true) (hi : i < n) (hi' : i' < n) (v : V) :
    Table.get d (Table.set d t (q * n + i) v) (q' * n + i') = if q' = q ∧ i' = i then v else Table.get d t (q' * n + i') := by
  split
  · next heq => obtain ⟨rfl, rfl⟩ := heq; exact Table.get_set_self h _ v
  · next hne => exact Table.get_set_ne h v fun hk => hne ((quadKey_inj hi hi').1 hk)

/-- One entry written in the parts of several quadrants, and nowhere else. -/
theorem get_setQuads {t : Table V} (h : Table.wf d t = true) {place : Nat → Nat} {l : List Nat} (hl : ∀ q ∈ l, place q < n) (hi' : i' < n)
    (v : V) :
    Table.get d (l.foldl (fun t q => Table.set d t (q * n + place q) v) t) (q' * n + i')
      = if q' ∈ l ∧ i' = place q' then v else Table.get d t (q' * n + i') := by
  induction l generalizing t with
  | nil => simp
  | cons q l ih =>
    rw [List.foldl_cons, ih (Table.wf_set h _ v) (fun a ha => hl a (List.mem_cons_of_mem _ ha)), get_setQuad h (hl q List.mem_cons_self) hi']
    by_cases hq : q' = q
    · subst hq
      by_cases hp : i' = place q' <;> simp [hp]
    · simp [hq]

end

/-! ### Entries written in several quadrants -/

section
variable {s : State} {l : List Nat} {q i j : Nat}

theorem nhAt_setNhs (h : Table.wf (fun _ => ({} : NextHop)) s.tab.nh = true) (hi : i < 65536) (hj : j < 65536) (x : NextHop) (l : List Nat)
    (q : Nat) :
    (l.foldl (fun u q => u.setNh q i x) s).nhAt q j = if q ∈ l ∧ j = i then x else s.nhAt q j := by
  have htab := List.foldl_hom (fun u : State => u.tab.nh) (g₁ := fun u q => u.setNh q i x)
    (g₂ := fun t q => Table.set (fun _ => ({} : NextHop)) t (q * 65536 + i) x) (l := l) (init := s) fun _ _ => rfl
  rw [State.nhAt, ← htab]
  exact get_setQuads h (place := fun _ => i) (fun _ _ => hi) hj x

theorem isLost_found_self (s : State) (table q i : Nat) : (s.found table q i).isLost table q i = false :=
  List.any_eq_false.2 fun e he => by
    have hkept := (List.mem_filter.1 he).2
    rwa [Bool.not_eq_true', ← Bool.not_eq_true] at hkept

theorem isLost_found_ne (s : State) {table a : Nat} (ha : a ≠ q) : (s.found table a i).isLost table q i = s.isLost table q i := by
  simp only [State.isLost, State.found, List.any_filter]
  refine List.any_congr rfl fun e => ?_
  by_cases he : e.quad = q
  · simp [he, Ne.symm ha]
  · simp [he]

/-- A next hop that is written is lost no longer (R178). -/
theorem isLost_setNhs (hl : l.Nodup) (hq : q ∈ l) (x : NextHop) : (l.foldl (fun u q => u.setNh q i x) s).isLost 3 q i = false := by
  obtain ⟨v, -, -, hv⟩ := foldl_of_mem (f := fun u q => u.setNh q i x) (P := fun _ => True) (g := fun u => u.isLost 3 q i)
    (fun _ _ _ => trivial) (fun u a _ ha => isLost_found_ne _ ha) hl hq (s := s) trivial
  exact hv.trans (isLost_found_self ..)

theorem rifAt_setRifs (h : Table.wf (fun _ => ({} : Rif)) s.tab.rif = true) (hi : i < 4096) (hi0 : i ≠ 0) (hj : j < 4096) (r : Rif)
    (l : List Nat) (q : Nat) : (l.foldl (fun u q => u.setRif q i r) s).rifAt q j = if q ∈ l ∧ j = i then r else s.rifAt q j := by
  have htab := List.foldl_hom (fun u : State => u.tab.rif) (g₁ := fun u q => u.setRif q i r)
    (g₂ := fun t q => Table.set (fun _ => ({} : Rif)) t (q * 4096 + i) r) (l := l) (init := s) fun _ _ => rfl
  rw [State.rifAt, State.rifAt, ← htab, get_setQuads h (place := fun _ => i) (fun _ _ => hi) hj r]
  by_cases hj0 : j = 0
  · rw [if_pos hj0, if_pos hj0, if_neg fun hc : q ∈ l ∧ j = i => hi0 (hc.2 ▸ hj0)]
  · rw [if_neg hj0, if_neg hj0]

theorem portRif_bindPorts (h : Table.wf (fun _ => 0) s.tab.portRif = true) (hi : i < 516) (hj : j < 516) (r : Nat) (l : List Nat) (q : Nat) :
    (l.foldl (fun u q => u.bindPort q i r) s).portRif q j = if q ∈ l ∧ j = i then r else s.portRif q j := by
  have htab := List.foldl_hom (fun u : State => u.tab.portRif) (g₁ := fun u q => u.bindPort q i r)
    (g₂ := fun t q => Table.set (fun _ => 0) t (q * 516 + i) r) (l := l) (init := s) fun _ _ => rfl
  rw [State.portRif, ← htab]
  exact get_setQuads h (place := fun _ => i) (fun _ _ => hi) hj r

theorem vidRif_bindVids (h : Table.wf (fun _ => 0) s.tab.vidRif = true) (hi : i < 4096) (hj : j < 4096) (r : Nat) (l : List Nat) (q : Nat) :
    (l.foldl (fun u q => u.bindVid q i r) s).vidRif q j = if q ∈ l ∧ j = i then r else s.vidRif q j := by
  have htab := List.foldl_hom (fun u : State => u.tab.vidRif) (g₁ := fun u q => u.bindVid q i r)
    (g₂ := fun t q => Table.set (fun _ => 0) t (q * 4096 + i) r) (l := l) (init := s) fun _ _ => rfl
  rw [State.vidRif, ← htab]
  exact get_setQuads h (place := fun _ => i) (fun _ _ => hi) hj r

end

/-! ### Members of groups -/

/-- The member tables are in canonical form. -/
abbrev MembersWf (s : State) : Prop := Table.wf (fun _ => 0) s.tab.members = true

/-- The group tables are in canonical form. -/
abbrev GroupsWf (s : State) : Prop := Table.wf (fun _ => ({} : EcmpGroup)) s.tab.groups = true

section
variable {s u : State} {q q' k b : Nat}

theorem setMember_wf (h : MembersWf s) (q k v : Nat) : MembersWf (s.setMember q k v) := Table.wf_set h _ _

theorem memberAt_setMember (h : MembersWf s) (hb : b < 65536) (hk : k < 65536) (v : Nat) :
    (s.setMember q b v).memberAt q' k = if q' = q ∧ k = b then v else s.memberAt q' k := get_setQuad h hb hk v

/-- A position of a group is written in quadrants where each has its own base, none of which the writes move. -/
theorem setGroupMembers_eq (g pos v : Nat) (l : List Nat) (hu : u.tab.groups = s.tab.groups) :
    l.foldl (fun u q => u.setMember q ((u.groupAt q g).base + pos) v) u
      = l.foldl (fun u q => u.setMember q ((s.groupAt q g).base + pos) v) u := by
  induction l generalizing u with
  | nil => rfl
  | cons q l ih =>
    have hbase : u.groupAt q g = s.groupAt q g := by rw [State.groupAt, State.groupAt, hu]
    rw [List.foldl_cons, List.foldl_cons, hbase]
    exact ih hu

theorem memberAt_setMembersAt (h : MembersWf s) {place : Nat → Nat} {l : List Nat} (hl : ∀ q ∈ l, place q < 65536) (hk : k < 65536) (v : Nat) :
    (l.foldl (fun u q => u.setMember q (place q) v) s).memberAt q k = if q ∈ l ∧ k = place q then v else s.memberAt q k := by
  have htab := List.foldl_hom (fun u : State => u.tab.members) (g₁ := fun u q => u.setMember q (place q) v)
    (g₂ := fun t q => Table.set (fun _ => 0) t (q * 65536 + place q) v) (l := l) (init := s) fun _ _ => rfl
  rw [State.memberAt, ← htab]
  exact get_setQuads h hl hk v

/-- Members written one after another from a base on (R183). -/
def State.setMembers (s : State) (q b : Nat) (ms : List Nat) (n : Nat := 0) : State :=
  (ms.zipIdx n).foldl (fun s e => s.setMember q (b + e.2) e.1) s

theorem setMembers_cons (s : State) (q b m : Nat) (ms : List Nat) (n : Nat) :
    s.setMembers q b (m :: ms) n = (s.setMember q (b + n) m).setMembers q b ms (n + 1) := rfl

theorem setMembers_wf (h : MembersWf s) (q b : Nat) (ms : List Nat) (n : Nat) : MembersWf (s.setMembers q b ms n) := by
  induction ms generalizing s n with
  | nil => exact h
  | cons m ms ih => exact ih (setMember_wf h ..) (n + 1)

/-- The members stand from the base on, and every other entry stays. -/
theorem memberAt_setMembers (h : MembersWf s) {ms : List Nat} {n : Nat} (hb : b + n + ms.length ≤ 65536) (hk : k < 65536) :
    (s.setMembers q b ms n).memberAt q' k
      = if q' = q ∧ b + n ≤ k ∧ k < b + n + ms.length then ms.getD (k - (b + n)) 0 else s.memberAt q' k := by
  induction ms generalizing s n with
  | nil => rw [if_neg (by simp only [List.length_nil]; omega)]; rfl
  | cons m ms ih =>
    rw [List.length_cons] at hb ⊢
    rw [setMembers_cons, ih (setMember_wf h ..) (by omega), memberAt_setMember h (by omega) hk]
    by_cases hq : q' = q
    · rcases Nat.lt_trichotomy k (b + n) with hlt | rfl | hgt
      · rw [if_neg (by omega), if_neg (by omega), if_neg (by omega)]
      · rw [if_neg (by omega), if_pos ⟨hq, rfl⟩, if_pos (by omega), Nat.sub_self]
        rfl
      · have hsub : k - (b + n) = k - (b + (n + 1)) + 1 := by omega
        rw [if_neg (c := q' = q ∧ k = b + n) (by omega), hsub, List.getD_cons_succ]
        exact if_congr (by omega) rfl rfl
    · simp [hq]

/-- The writes touch neither groups nor ranges. -/
theorem setMembers_groups (s : State) (q b : Nat) (ms : List Nat) (n : Nat) : (s.setMembers q b ms n).tab.groups = s.tab.groups :=
  foldl_part (fun u => u.tab.groups) (by intros; rfl) _ s

theorem setMembers_ranges (s : State) (q b : Nat) (ms : List Nat) (n : Nat) : (s.setMembers q b ms n).tab.ranges = s.tab.ranges :=
  foldl_part (fun u => u.tab.ranges) (by intros; rfl) _ s

end

/-! ### A group replaced in one quadrant -/

/-- What a quadrant holds of groups: the groups, the members and the ranges in use. -/
structure GroupView where
  groups : Fin 4096 → EcmpGroup
  members : Fin 65536 → Nat
  ranges : List MemberRange

def State.groupView (s : State) (q : Nat) : GroupView :=
  { groups := fun g => s.groupAt q g, members := fun k => s.memberAt q k, ranges := s.tab.ranges.filter fun r => r.quad = q }

/-- The range that a group gives up waits to be freed (R183). -/
def MemberRange.retire (q : Nat) (old : EcmpGroup) (slot : Nat) (r : MemberRange) : MemberRange :=
  if r.quad = q && r.base = old.base && r.size = old.size && r.until_ = none then { r with until_ := some slot } else r

/-- The ranges in use when a group of a quadrant has its members in a new range. -/
def replaceRange (q : Nat) (old : EcmpGroup) (slot b : Nat) (ms : List Nat) (rs : List MemberRange) : List MemberRange :=
  (if old.size = 0 then rs else rs.map (MemberRange.retire q old slot)) ++ if ms = [] then [] else [{ quad := q, base := b, size := ms.length }]

section
variable {s t : State} {q a g j b size : Nat} {ms : List Nat}

theorem groupAt_of_view (h : t.groupView q = s.groupView q) (hj : j < 4096) : t.groupAt q j = s.groupAt q j :=
  congrFun (congrArg GroupView.groups h) ⟨j, hj⟩

theorem memberAt_of_view (h : t.groupView q = s.groupView q) (hj : j < 65536) : t.memberAt q j = s.memberAt q j :=
  congrFun (congrArg GroupView.members h) ⟨j, hj⟩

/-- A free range is sought among the ranges of its own quadrant. -/
theorem freeRange_of_view (h : t.groupView q = s.groupView q) (size : Nat) : t.freeRange q size = s.freeRange q size := by
  have hsplit : ∀ u : State, (u.tab.ranges.filter fun r => r.quad = q && r.size != 0) = (u.groupView q).ranges.filter fun r => r.size != 0 :=
    fun u => by simp only [State.groupView, List.filter_filter, Bool.and_comm]
  simp only [State.freeRange, hsplit, h]

/-- A free range ends within the member table. -/
theorem freeRange_le (h : s.freeRange q size = some b) : b + size ≤ 65536 := by
  have hclear := List.find?_some h
  simp only [Bool.and_eq_true, decide_eq_true_eq] at hclear
  exact hclear.1

theorem retire_quad (q : Nat) (old : EcmpGroup) (slot : Nat) (r : MemberRange) : (r.retire q old slot).quad = r.quad := by
  unfold MemberRange.retire; split <;> rfl

theorem retire_other (old : EcmpGroup) (slot : Nat) {r : MemberRange} (h : r.quad ≠ a) : r.retire a old slot = r := by
  unfold MemberRange.retire; rw [if_neg (by simp [h])]

/-- The ranges of other quadrants stay. -/
theorem replaceRange_other (ha : q ≠ a) (old : EcmpGroup) (slot b : Nat) (ms : List Nat) (rs : List MemberRange) :
    ((replaceRange a old slot b ms rs).filter fun r => r.quad = q) = rs.filter fun r => r.quad = q := by
  have hmap : ((rs.map (MemberRange.retire a old slot)).filter fun r => r.quad = q) = rs.filter fun r => r.quad = q := by
    rw [List.filter_map]
    refine (List.map_congr_left fun r hr => ?_).trans (List.map_id _) |>.trans (List.filter_congr fun r _ => ?_)
    · have hquad : r.quad = q := by simpa [retire_quad] using (List.mem_filter.1 hr).2
      exact retire_other old slot (hquad ▸ ha)
    · simp [retire_quad]
  rw [replaceRange, List.filter_append]
  have hnew : ((if ms = [] then [] else [({ quad := a, base := b, size := ms.length } : MemberRange)]).filter fun r => r.quad = q) = [] := by
    split
    · rfl
    · simp [Ne.symm ha]
  rw [hnew, List.append_nil]
  split
  · rfl
  · exact hmap

theorem ecmpSet_full (h : s.freeRange q ms.length = none) : s.ecmpSet q g ms = (s, .tableFull) := by simp only [State.ecmpSet, h]

/-- With a free range the group's members are written there, its BASE and SIZE name it, and the ranges in use follow. -/
theorem ecmpSet_free (h : s.freeRange q ms.length = some b) :
    (s.ecmpSet q g ms).2 = .ok
    ∧ (s.ecmpSet q g ms).1.tab.members = (s.setMembers q b ms).tab.members
    ∧ (s.ecmpSet q g ms).1.tab.groups = Table.set (fun _ => {}) s.tab.groups (q * 4096 + g) { base := b, size := ms.length }
    ∧ ∃ slot, (s.ecmpSet q g ms).1.tab.ranges = replaceRange q (s.groupAt q g) slot b ms s.tab.ranges := by
  rw [← setMembers_groups s q b ms 0, ← setMembers_ranges s q b ms 0, State.ecmpSet, h]
  exact ⟨rfl, rfl, rfl, (s.setMembers q b ms).tick.slot, rfl⟩

theorem ecmpSet_wf (hg : GroupsWf s) (hm : MembersWf s) (q g : Nat) (ms : List Nat) :
    GroupsWf (s.ecmpSet q g ms).1 ∧ MembersWf (s.ecmpSet q g ms).1 := by
  cases hfree : s.freeRange q ms.length with
  | none => rw [ecmpSet_full hfree]; exact ⟨hg, hm⟩
  | some b =>
    obtain ⟨-, hmem, hgrp, -⟩ := ecmpSet_free (g := g) hfree
    rw [GroupsWf, MembersWf, hmem, hgrp]
    exact ⟨Table.wf_set hg _ _, setMembers_wf hm ..⟩

/-- A group replaced in one quadrant leaves what others hold. -/
theorem groupView_ecmpSet_other (hg : GroupsWf s) (hm : MembersWf s) (hgi : g < 4096) (ha : q ≠ a) (ms : List Nat) :
    (s.ecmpSet a g ms).1.groupView q = s.groupView q := by
  cases hfree : s.freeRange a ms.length with
  | none => rw [ecmpSet_full hfree]
  | some b =>
    obtain ⟨-, hmem, hgrp, slot, hranges⟩ := ecmpSet_free (g := g) hfree
    have hb := freeRange_le hfree
    rw [State.groupView, State.groupView, GroupView.mk.injEq]
    refine ⟨funext fun j => ?_, funext fun k => ?_, ?_⟩
    · rw [State.groupAt, hgrp, get_setQuad hg hgi j.isLt, if_neg fun hc => ha hc.1, State.groupAt]
    · rw [State.memberAt, hmem]
      exact (memberAt_setMembers hm (by omega) k.isLt).trans (if_neg fun hc => ha hc.1)
    · rw [hranges, replaceRange_other ha]

/-- In its own quadrant the group names the free range, which holds the members, and the other groups stay. -/
theorem ecmpSet_self (hg : GroupsWf s) (hm : MembersWf s) (hgi : g < 4096) (hfree : s.freeRange q ms.length = some b) :
    (s.ecmpSet q g ms).1.groupAt q g = { base := b, size := ms.length }
    ∧ (∀ k, k < ms.length → (s.ecmpSet q g ms).1.memberAt q (b + k) = ms.getD k 0)
    ∧ ∀ j, j < 4096 → j ≠ g → (s.ecmpSet q g ms).1.groupAt q j = s.groupAt q j := by
  obtain ⟨-, hmem, hgrp, -⟩ := ecmpSet_free (g := g) hfree
  have hb := freeRange_le hfree
  refine ⟨?_, fun k hk => ?_, fun j hj hne => ?_⟩
  · rw [State.groupAt, hgrp, Table.get_set_self hg]
  · rw [State.memberAt, hmem]
    refine (memberAt_setMembers hm (by omega) (by omega)).trans ?_
    rw [if_pos (by omega), Nat.add_zero, Nat.add_sub_cancel_left]
  · rw [State.groupAt, hgrp, get_setQuad hg hgi hj, if_neg fun hc => hne hc.2, State.groupAt]

/-- What the replacement in several quadrants does in one of them: its step there on a state in which the quadrant holds the same. -/
theorem ecmpSets_step {l : List Nat} (hl : l.Nodup) (hg : GroupsWf s) (hm : MembersWf s) (hgi : g < 4096) (hq : q ∈ l) :
    ∃ v, GroupsWf v ∧ MembersWf v ∧ v.groupView q = s.groupView q
      ∧ (eachQuad (fun u q => u.ecmpSet q g ms) l s).1.groupView q = (v.ecmpSet q g ms).1.groupView q
      ∧ statusIn (eachQuad (fun u q => u.ecmpSet q g ms) l s).2 q = (v.ecmpSet q g ms).2 := by
  obtain ⟨v, ⟨hvg, hvm⟩, hrest⟩ := eachQuad_of_mem (f := fun u q => u.ecmpSet q g ms) (P := fun u => GroupsWf u ∧ MembersWf u)
    (g := fun u => u.groupView q) (fun u a hu => ecmpSet_wf hu.1 hu.2 a g ms)
    (fun u a hu ha => groupView_ecmpSet_other hu.1 hu.2 hgi (Ne.symm ha) ms) hl hq ⟨hg, hm⟩
  exact ⟨v, hvg, hvm, hrest⟩

/-- A named quadrant with a free range has the group there, and its other groups stay. -/
theorem ecmpSets_free {l : List Nat} (hl : l.Nodup) (hg : GroupsWf s) (hm : MembersWf s) (hgi : g < 4096) (hq : q ∈ l)
    (hfree : s.freeRange q ms.length = some b) {r : State × List (Nat × Status)} (hr : r = eachQuad (fun u q => u.ecmpSet q g ms) l s) :
    statusIn r.2 q = .ok ∧ r.1.groupAt q g = { base := b, size := ms.length } ∧ (∀ k, k < ms.length → r.1.memberAt q (b + k) = ms.getD k 0)
    ∧ ∀ j, j < 4096 → j ≠ g → r.1.groupAt q j = s.groupAt q j := by
  subst hr
  obtain ⟨v, hvg, hvm, hview, hres, hst⟩ := ecmpSets_step (ms := ms) hl hg hm hgi hq
  have hvfree : v.freeRange q ms.length = some b := (freeRange_of_view hview _).trans hfree
  have hb := freeRange_le hfree
  obtain ⟨hgrp, hmem, hoth⟩ := ecmpSet_self hvg hvm hgi hvfree
  refine ⟨hst.trans (ecmpSet_free hvfree).1, (groupAt_of_view hres hgi).trans hgrp, fun k hk => ?_, fun j hj hne => ?_⟩
  · exact (memberAt_of_view hres (by omega)).trans (hmem k hk)
  · exact ((groupAt_of_view hres hj).trans (hoth j hj hne)).trans (groupAt_of_view hview hj)

/-- A named quadrant without a free range reports TABLE_FULL (R183). -/
theorem ecmpSets_full {l : List Nat} (hl : l.Nodup) (hg : GroupsWf s) (hm : MembersWf s) (hgi : g < 4096) (hq : q ∈ l)
    (hfull : s.freeRange q ms.length = none) : statusIn (eachQuad (fun u q => u.ecmpSet q g ms) l s).2 q = .tableFull := by
  obtain ⟨v, -, -, hview, -, hst⟩ := ecmpSets_step (ms := ms) hl hg hm hgi hq
  rw [hst, ecmpSet_full ((freeRange_of_view hview _).trans hfull)]

end

/-! ### Two registers written in every present quadrant -/

section
variable {s : State} {r r' : Reg}

theorem reg_setRegPair_self (h : RegsWf s) (w w' : Word) (x : Reg) (i : Nat) :
    ((s.setReg r i w).setReg r' i w').reg x i = if x = r' then w' else if x = r then w else s.reg x i := by
  by_cases hx' : x = r'
  · subst hx'; rw [reg_setReg_self (wf_setReg h _ _ _), if_pos rfl]
  · rw [reg_setReg_ne (wf_setReg h _ _ _) _ (fun hc => hx' hc.1), if_neg hx']
    by_cases hx : x = r
    · subst hx; rw [reg_setReg_self h, if_pos rfl]
    · rw [reg_setReg_ne h _ (fun hc => hx hc.1), if_neg hx]

/-- Two words written to two registers of each quadrant of a list, and nowhere else. -/
theorem reg_setRegPairs (h : RegsWf s) (w w' : Word) {l : List Nat} (hl : l.Nodup) (x : Reg) (i : Nat) :
    (l.foldl (fun s q => (s.setReg r q w).setReg r' q w') s).reg x i
      = if i ∈ l then if x = r' then w' else if x = r then w else s.reg x i else s.reg x i := by
  have hwf : ∀ u a, RegsWf u → RegsWf ((u.setReg r a w).setReg r' a w') := fun u a hu => wf_setReg (wf_setReg hu ..) ..
  have hother : ∀ u a, RegsWf u → a ≠ i → ((u.setReg r a w).setReg r' a w').reg x i = u.reg x i := fun u a hu ha => by
    rw [reg_setReg_ne (wf_setReg hu ..) _ (fun hc => ha hc.2.symm), reg_setReg_ne hu _ (fun hc => ha hc.2.symm)]
  split
  · next hi =>
    obtain ⟨u, hu, hus, hres⟩ := foldl_of_mem (g := fun u => u.reg x i) hwf hother hl hi h
    rw [hres, reg_setRegPair_self hu, hus]
  · next hi => exact foldl_of_notMem (g := fun u => u.reg x i) hwf hother hi h

end

/-! ### The packets -/

section
variable {p : Packet} {a : Args} {s : State}

/-- Steps that all succeed report OK. -/
theorem statusIn_of_ok {f : State → Nat → State × Status} (hf : ∀ u q, (f u q).2 = .ok) {l : List Nat} (hl : l.Nodup) {q : Nat} (hq : q ∈ l)
    (u : State) : statusIn (eachQuad f l u).2 q = .ok := by
  obtain ⟨v, -, -, -, hst⟩ := eachQuad_of_mem (f := f) (s := u) (P := fun _ => True) (g := fun _ => ()) (fun _ _ _ => trivial)
    (fun _ _ _ _ => rfl) hl hq trivial
  exact hst.trans (hf v q)

/-- A command that acts in each named quadrant completes in the state that its steps leave, with the status that they make (R509). -/
theorem quadCommand_completes {op mask : Nat} {f : State → Nat → State × Status} {body : Args → State → Res} {checks : List (Bool × Status)}
    (hacc : Accepts op p s) (hc : firstFail checks = none)
    (hb : body (readParams op p.params) (begun op p s) = guarded (begun op p s) checks (quadCommand (begun op p s) mask f))
    {r : State × List (Nat × Status)} (hr : r = eachQuad f (s.quadsOf mask) (begun op p s)) :
    runPacket op p body s
      = .next (replied op p s r.1 (overall s mask (statusIn r.2)) (blockReply s mask (statusIn r.2) [])) := by
  subst hr
  exact completes_of_checks hacc hc hb

/-- Where the step of a quadrant always succeeds, the status is OK. -/
theorem quadCommand_completes_ok {op mask : Nat} {f : State → Nat → State} {body : Args → State → Res} {checks : List (Bool × Status)}
    (hacc : Accepts op p s) (hc : firstFail checks = none)
    (hb : body (readParams op p.params) (begun op p s)
      = guarded (begun op p s) checks (quadCommand (begun op p s) mask fun u q => (f u q, .ok))) :
    ∃ ps, runPacket op p body s = .next (replied op p s ((s.quadsOf mask).foldl f (begun op p s)) .ok ps) := by
  have hdone := quadCommand_completes hacc hc hb rfl
  rw [overall_of_ok fun q hq => statusIn_of_ok (fun _ _ => rfl) (quadsOf_nodup s mask) hq (begun op p s), eachQuad_state] at hdone
  exact ⟨_, hdone⟩

theorem nhSet_completes {x : NextHop} (hacc : Accepts 0x0407 p s) (ha : readParams 0x0407 p.params = a) (hbad : a.bad = false)
    (hi : a.n 1 < 65536) (hquads : s.quadsOf (a.n 0) ≠ []) (hport : a.n 2 = 1 → a.n 3 ≤ 515 ∧ a.n 4 ≠ 0 ∧ s.hasPort (a.n 3) = true)
    (hx : x = { kind := a.n 2, port := a.n 3, rif := a.n 4, dmac := a.n 5 }) :
    ∃ ps, Completes (.nhSet p) 0x0407 p s ((s.quadsOf (a.n 0)).foldl (fun u q => u.setNh q (a.n 1) x) (begun 0x0407 p s)) .ok ps := by
  subst ha hx
  have hno : (begun 0x0407 p s).noQuad ((readParams 0x0407 p.params).n 0) = false := noQuad_eq_false hquads
  change ∃ ps, execNhSet p s = _
  unfold execNhSet
  refine quadCommand_completes_ok hacc (firstFail_of_all_false ?_) rfl
  by_cases hk : (readParams 0x0407 p.params).n 2 = 1
  · obtain ⟨hle, hrif, hp⟩ := hport hk
    simp [hi, hbad, hno, hle, hrif, hp]
  · simp [hi, hbad, hno, hk]

theorem nhGet_completes (hacc : Accepts 0x0408 p s) (ha : readParams 0x0408 p.params = a) (hbad : a.bad = false)
    (hq : s.hasQuad (a.n 0) = true) (hi : a.n 1 < 65536) {x : NextHop} (hx : x = s.nhAt (a.n 0) (a.n 1)) :
    Completes (.nhGet p) 0x0408 p s (begun 0x0408 p s) .ok (emitBlock [(.u 2, x.kind), (.u 10, x.port), (.u 12, x.rif), (.mac, x.dmac)]) := by
  subst ha hx
  change execNhGet p s = _
  unfold execNhGet
  refine completes_of_checks hacc (firstFail_of_all_false ?_) rfl
  simp [hbad, hq, hi]

/-- The checks of ECMP_SET pass: an inline list needs no buffer, a longer one has a good one (R190). -/
theorem ecmpSet_checks (hbad : a.bad = false) (hg : a.n 1 < 4096) (hsize : a.n 2 ≤ 1024) (hquads : s.quadsOf (a.n 0) ≠ [])
    (hms : ∀ m, m ∈ ecmpMembers a p → m < 65536)
    (hdma : 60 < a.n 2 → firstFail (dmaChecks s p (a.n 3) false (4 * a.n 2)) = none ∧ p.dmaFault = false) :
    firstFail ([ (decide (4096 ≤ a.n 1) || (decide (a.n 2 ≤ 60) && (ecmpMembers a p).any fun m => decide (65536 ≤ m)), Status.indexRange),
        (a.bad || decide (1024 < a.n 2), .paramInvalid), (s.noQuad (a.n 0), .resourceAbsent) ]
      ++ (if 60 < a.n 2 then dmaChecks s p (a.n 3) false (4 * a.n 2)
            ++ [(p.dmaFault, .dmaFault), ((ecmpMembers a p).any fun m => decide (65536 ≤ m), .indexRange)] else [])) = none := by
  have hany : ((ecmpMembers a p).any fun m => decide (65536 ≤ m)) = false := by simpa using hms
  rw [firstFail_append (firstFail_of_all_false ?first)]
  case first => simp [hg, hany, hbad, hsize, noQuad_eq_false hquads]
  split
  · next h60 =>
    obtain ⟨hchecks, hfault⟩ := hdma h60
    rw [firstFail_append hchecks, hfault, hany]
    rfl
  · rfl

/-- ECMP_SET replaces the group in each present named quadrant (R190). -/
theorem ecmpSet_completes {ms : List Nat} (hacc : Accepts 0x0409 p s) (ha : readParams 0x0409 p.params = a) (hbad : a.bad = false)
    (hg : a.n 1 < 4096) (hsize : a.n 2 ≤ 1024) (hquads : s.quadsOf (a.n 0) ≠ []) (hms : ms = ecmpMembers a p)
    (hlt : ∀ m, m ∈ ms → m < 65536)
    (hdma : 60 < a.n 2 → firstFail (dmaChecks s p (a.n 3) false (4 * a.n 2)) = none ∧ p.dmaFault = false)
    {r : State × List (Nat × Status)} (hr : r = eachQuad (fun u q => u.ecmpSet q (a.n 1) ms) (s.quadsOf (a.n 0)) (begun 0x0409 p s)) :
    Completes (.ecmpSet p) 0x0409 p s r.1 (overall s (a.n 0) (statusIn r.2)) (blockReply s (a.n 0) (statusIn r.2) []) := by
  subst ha hms
  change execEcmpSet p s = _
  unfold execEcmpSet
  exact quadCommand_completes hacc (ecmpSet_checks (s := begun 0x0409 p s) hbad hg hsize hquads hlt hdma) rfl hr

theorem ecmpMemberSet_completes (hacc : Accepts 0x040A p s) (ha : readParams 0x040A p.params = a) (hbad : a.bad = false)
    (hquads : s.quadsOf (a.n 0) ≠ []) (hg : a.n 1 < 4096) (hv : a.n 3 < 65536)
    (hpos : ∀ q, q ∈ s.quadsOf (a.n 0) → a.n 2 < (s.groupAt q (a.n 1)).size) :
    ∃ ps, Completes (.ecmpMemberSet p) 0x040A p s ((s.quadsOf (a.n 0)).foldl
      (fun u q => u.setMember q ((u.groupAt q (a.n 1)).base + a.n 2) (a.n 3)) (begun 0x040A p s)) .ok ps := by
  subst ha
  have hno : (begun 0x040A p s).noQuad ((readParams 0x040A p.params).n 0) = false := noQuad_eq_false hquads
  have hany : (((begun 0x040A p s).quadsOf ((readParams 0x040A p.params).n 0)).any fun q =>
      decide (((begun 0x040A p s).groupAt q ((readParams 0x040A p.params).n 1)).size ≤ (readParams 0x040A p.params).n 2)) = false :=
    List.any_eq_false.2 fun q hq hle => absurd (of_decide_eq_true hle) (Nat.not_le.2 (hpos q hq))
  change ∃ ps, execEcmpMemberSet p s = _
  unfold execEcmpMemberSet
  refine quadCommand_completes_ok hacc (firstFail_of_all_false ?_) rfl
  simp only [List.forall_mem_cons, List.not_mem_nil, false_implies, implies_true, and_true]
  exact ⟨hbad, hno, by rw [hany]; simp [hg, hv]⟩

theorem ecmpGet_completes (hacc : Accepts 0x040B p s) (ha : readParams 0x040B p.params = a) (hbad : a.bad = false)
    (hq : s.hasQuad (a.n 0) = true) (hi : a.n 1 < 4096) {g : EcmpGroup} (hg : g = s.groupAt (a.n 0) (a.n 1)) :
    Completes (.ecmpGet p) 0x040B p s (begun 0x040B p s) .ok
      (emitBlock ([(.u 16, g.base), (.u 16, g.size)] ++ (List.range (min g.size 120)).map fun k => (.u 32, s.memberAt (a.n 0) (g.base + k)))) := by
  subst ha hg
  change execEcmpGet p s = _
  unfold execEcmpGet
  refine completes_of_checks hacc (firstFail_of_all_false ?_) rfl
  simp [hbad, hq, hi]

theorem ecmpHashSet_completes (hacc : Accepts 0x040C p s) (ha : readParams 0x040C p.params = a) (hbad : a.bad = false) :
    Completes (.ecmpHashSet p) 0x040C p s ((begun 0x040C p s).forQuads fun u q =>
      (u.setReg .fwdEcmpSeed q (word (a.n 0))).setReg .fwdEcmpCfg q (word (a.n 1))) .ok (emitBlock []) := by
  subst ha
  change execEcmpHashSet p s = _
  unfold execEcmpHashSet
  exact completes_of_checks hacc (firstFail_of_all_false (by simp [hbad])) rfl

/-- The interface that RIF_SET's parameters make (R191). -/
def Args.rif (a : Args) : Rif :=
  { valid := a.f 1, vrf := a.n 2, mac := a.n 3, v4 := a.f 4, v6 := a.f 5, mtu := a.n 6, mtuTrap := a.f 7, egVid := a.n 8 }

theorem rifSet_completes (hacc : Accepts 0x040D p s) (ha : readParams 0x040D p.params = a) (hbad : a.bad = false) (h0 : a.n 0 ≠ 0)
    (hmin : 68 ≤ a.n 6) (hmax : a.n 6 ≤ 10222) (hvid : a.n 8 ≠ 4095) :
    Completes (.rifSet p) 0x040D p s ((begun 0x040D p s).forQuads fun u q => u.setRif q (a.n 0) a.rif) .ok (emitBlock []) := by
  subst ha
  change execRifSet p s = _
  unfold execRifSet
  refine completes_of_checks hacc (firstFail_of_all_false ?_) rfl
  simp [hbad, h0, hmin, hmax, hvid]

theorem rifBind_completes (hacc : Accepts 0x040E p s) (ha : readParams 0x040E p.params = a) (hbad : a.bad = false)
    (htarget : (a.n 0 = 0 ∧ s.hasPort (a.n 1) = true) ∨ (a.n 0 = 1 ∧ 1 ≤ a.n 1 ∧ a.n 1 ≤ 4094)) :
    Completes (.rifBind p) 0x040E p s ((begun 0x040E p s).forQuads fun u q =>
      if a.n 0 = 0 then u.bindPort q (a.n 1) (a.n 2) else u.bindVid q (a.n 1) (a.n 2)) .ok (emitBlock []) := by
  subst ha
  change execRifBind p s = _
  unfold execRifBind
  refine completes_of_checks hacc (firstFail_of_all_false ?_) rfl
  rcases htarget with ⟨h0, hport⟩ | ⟨h1, hmin, hmax⟩
  · simp [hbad, h0, hport]
  · simp [hbad, h1, Nat.ne_of_gt hmin, hmax]

/-- RIF_GET answers up to 200 of the ports and VIDs bound to the interface in quadrant 0 (R191). -/
theorem rifGet_completes (hacc : Accepts 0x040F p s) (ha : readParams 0x040F p.params = a) (hbad : a.bad = false) (h0 : a.n 0 ≠ 0)
    {r : Rif} (hr : r = s.rifAt 0 (a.n 0)) {ports vids : List Nat}
    (hports : ports = (s.tab.portRif.filter fun e => e.1 < 516 && e.2 == a.n 0).map (·.1))
    (hvids : vids = (s.tab.vidRif.filter fun e => e.1 < 4096 && e.2 == a.n 0).map (·.1)) :
    Completes (.rifGet p) 0x040F p s (begun 0x040F p s) .ok (emitBlock ([ (.flag, b2n r.valid), (.u 12, r.vrf), (.mac, r.mac),
      (.flag, b2n r.v4), (.flag, b2n r.v6), (.u 14, r.mtu), (.flag, b2n r.mtuTrap), (.u 12, r.egVid), (.u 16, ports.length),
      (.u 16, vids.length) ] ++ ((ports ++ vids).take 200).map fun n => (.u 16, n))) := by
  subst ha hr hports hvids
  change execRifGet p s = _
  unfold execRifGet
  refine completes_of_checks hacc (firstFail_of_all_false ?_) rfl
  simp [hbad, h0]

end

/-- Settles O44: each packet passes its checks, and what it leaves is one entry in every named or present quadrant, or a group in the free range of
each. -/
theorem routingPacketsAnswer : Obligations.RoutingPacketsAnswer := by
  refine ⟨?nhSet, ?nhGet, ?ecmpSet, ?memberSet, ?ecmpGet, ?hashSet, ?rifSet, ?rifBind, ?rifGet⟩
  case nhSet =>
    intro p a x s hwf hacc ha hbad hi hquads hport hx
    obtain ⟨ps, hdone⟩ := nhSet_completes hacc ha hbad hi hquads hport hx
    have hread := fun q j hj => nhAt_setNhs (s := begun 0x0407 p s) (j := j) hwf hi hj x (s.quadsOf (a.n 0)) q
    exact ⟨_, ps, hdone, fun q hq => ⟨(hread q _ hi).trans (if_pos ⟨hq, rfl⟩), isLost_setNhs (quadsOf_nodup ..) hq x⟩,
      fun q j _ hj hne => (hread q j hj).trans (if_neg fun hc => hne.elim (· hc.1) (· hc.2))⟩
  case nhGet =>
    intro p a x s hacc ha hbad hq hi hx
    exact nhGet_completes hacc ha hbad hq hi hx
  case ecmpSet =>
    intro p a ms s hgrp hmem hacc ha hbad hg hsize hquads hms hlt hdma
    have hlen : ms.length = a.n 2 := by rw [hms, ecmpMembers]; split <;> simp
    have hdone := ecmpSet_completes hacc ha hbad hg hsize hquads hms hlt hdma rfl
    have hnd := quadsOf_nodup s (a.n 0)
    refine ⟨fun hfree => ?free, fun hfull => ?full⟩
    case free =>
      have hres := fun q (hq : q ∈ s.quadsOf (a.n 0)) b (hb : s.freeRange q ms.length = some b) =>
        ecmpSets_free (s := begun 0x0409 p s) hnd hgrp hmem hg hq hb rfl
      rw [overall_of_ok fun q hq => ?ok] at hdone
      case ok =>
        obtain ⟨b, hb⟩ := Option.isSome_iff_exists.1 (hfree q hq)
        exact (hres q hq b hb).1
      refine ⟨_, _, hdone, fun q hq => ?_⟩
      obtain ⟨b, hb⟩ := Option.isSome_iff_exists.1 (hfree q hq)
      obtain ⟨-, hgroup, hmembers, hothers⟩ := hres q hq b hb
      rw [hgroup, hb]
      exact ⟨hlen, rfl, hlen ▸ hmembers, hothers⟩
    case full =>
      obtain ⟨q, hq⟩ := List.exists_mem_of_ne_nil _ hquads
      have hstatus := ecmpSets_full (s := begun 0x0409 p s) hnd hgrp hmem hg hq (hfull q hq)
      have hsame := eachQuad_unchanged (f := fun u q => u.ecmpSet q (a.n 1) ms) (s := begun 0x0409 p s)
        fun q hq => congrArg Prod.fst (ecmpSet_full (s := begun 0x0409 p s) (hfull q hq))
      rw [overall_of_not_ok hq (by rw [hstatus]; decide), hsame] at hdone
      exact ⟨_, hdone⟩
  case memberSet =>
    intro p a s hmem hacc ha hbad hquads hg hv hpos
    obtain ⟨ps, hdone⟩ := ecmpMemberSet_completes hacc ha hbad hquads hg hv fun q hq => (hpos q hq).1
    rw [setGroupMembers_eq (u := begun 0x040A p s) (s := s) _ _ _ _ rfl] at hdone
    refine ⟨_, ps, hdone, foldl_part (fun u => u.tab.groups) (by intros; rfl) _ _, fun q k hq hk => ?_⟩
    refine (memberAt_setMembersAt (s := begun 0x040A p s) hmem (fun q hq => ?_) hk _).trans ?_
    · have hin := hpos q hq
      omega
    · simp only [hq, true_and]
      rfl
  case ecmpGet =>
    intro p a g s hacc ha hbad hq hi hg
    exact ecmpGet_completes hacc ha hbad hq hi hg
  case hashSet =>
    intro p a s h hacc ha hbad
    have hreg := reg_setRegPairs (s := begun 0x040C p s) h.regs (r := .fwdEcmpSeed) (r' := .fwdEcmpCfg) (word (a.n 0)) (word (a.n 1))
      (l := s.quads) List.nodup_range
    refine ⟨_, ecmpHashSet_completes hacc ha hbad, fun q hq => ⟨?_, ?_⟩, fun r i hne => ?_⟩
    · exact (hreg .fwdEcmpSeed q).trans (by simp [mem_quads.2 hq])
    · exact (hreg .fwdEcmpCfg q).trans (by simp [mem_quads.2 hq])
    · refine (hreg r i).trans ?_
      rcases hne with ⟨hseed, hcfg⟩ | habs
      · simp [hseed, hcfg]
      · simp [mem_quads, habs]
  case rifSet =>
    intro p a s hwf hacc ha hbad h0 hmin hmax hvid
    have hi : a.n 0 < 2 ^ 12 := by subst ha; exact readParams_num_lt hbad rfl
    have hread := fun q j hj => rifAt_setRifs (s := begun 0x040D p s) (j := j) hwf hi h0 hj a.rif s.quads q
    exact ⟨_, rifSet_completes hacc ha hbad h0 hmin hmax hvid, fun q hq => (hread q _ hi).trans (if_pos ⟨mem_quads.2 hq, rfl⟩),
      fun q j hj hne => (hread q j hj).trans (if_neg fun hc => hne hc.2)⟩
  case rifBind =>
    intro p a s hport hvid hacc ha hbad htarget
    refine ⟨_, rifBind_completes hacc ha hbad htarget, fun h0 => ?_, fun h1 => ?_⟩
    · have hi := hasPort_lt (htarget.resolve_right fun hc => by omega).2
      simp only [h0, if_true]
      refine ⟨fun q x _ hx => ?_, foldl_part (fun u => u.tab.vidRif) (by intros; rfl) _ _⟩
      refine (portRif_bindPorts (s := begun 0x040E p s) hport hi hx (a.n 2) s.quads q).trans ?_
      simp only [mem_quads]
      rfl
    · have hi : a.n 1 < 4096 := by omega
      simp only [h1, Nat.one_ne_zero, if_false]
      refine ⟨fun q x _ hx => ?_, foldl_part (fun u => u.tab.portRif) (by intros; rfl) _ _⟩
      refine (vidRif_bindVids (s := begun 0x040E p s) hvid hi hx (a.n 2) s.quads q).trans ?_
      simp only [mem_quads]
      rfl
  case rifGet =>
    intro p a r ports vids s hacc ha hbad h0 hr hports hvids
    exact rifGet_completes hacc ha hbad h0 hr hports hvids

end Sys2Proof.Machine

/-!
Prefixes by packets (O43): the operations that PFX_INSERT and PFX_DELETE queue for the PFX engine, the answers of searches, lookups, walks and
reads, and the selectors.
-/
namespace Sys2Proof.Machine
open Sys2Proof

/-! ### Numbers in a block of bytes -/

/-- The bytes of a number spell it, cut to their width. -/
theorem leNat_leBytes (n v : Nat) : leNat (leBytes n v) = v % 256 ^ n := by
  induction n generalizing v with
  | zero => simp [leBytes, leNat, Nat.mod_one]
  | succ n ih =>
    have hbyte : (byte v).toNat = v % 256 := BitVec.toNat_ofNat ..
    rw [leBytes, leNat, ih, hbyte, pow_succ', Nat.mod_mul]

theorem leAt_leBytes_append (n v : Nat) (rest : List Byte) : leAt (leBytes n v ++ rest) 0 n = v % 256 ^ n := by
  rw [leAt, slice, List.drop_zero, List.take_left' (leBytes_length n v), leBytes_length, Nat.sub_self, List.replicate_zero, List.append_nil,
    leNat_leBytes]

theorem leAt_append_right {head : List Byte} {m : Nat} (hh : head.length = m) (rest : List Byte) (k n : Nat) :
    leAt (head ++ rest) (m + k) n = leAt rest k n := by
  rw [leAt, leAt, slice, slice, ← List.drop_drop, List.drop_left' hh]

/-- Two numbers of 4 bytes for each of several places. -/
def pairBytes (x y : Nat → Nat) (q : Nat) : List Byte := leBytes 4 (x q) ++ leBytes 4 (y q)

theorem pairBytes_length (x y : Nat → Nat) (q : Nat) : (pairBytes x y q).length = 8 := by simp [pairBytes]

section
variable {x y : Nat → Nat}

theorem emitFrom_pairs (l : List Nat) {pos : Nat} (hpos : pos % 4 = 0) :
    emitFrom (l.flatMap fun q => [(Ty.u 32, x q), (Ty.u 32, y q)]) pos = l.flatMap (pairBytes x y) := by
  induction l generalizing pos with
  | nil => rfl
  | cons q l ih =>
    have hnext : (pos + 4) % 4 = 0 := by omega
    simp only [List.flatMap_cons, List.cons_append, List.nil_append, emitFrom, Ty.align, Ty.size, Ty.encode, numBytes, padTo]
    simp [hpos, hnext, ih (pos := pos + 4 + 4) (by omega), pairBytes]

/-- Behind a head of 16 bytes, the two numbers of place `q` stand at bytes 8q and 8q + 4 (R491). -/
theorem leAt_pairs {head : List Byte} (hh : head.length = 16) {q : Nat} (hq : q < 4) :
    leAt (head ++ emitBlock ((List.range 4).flatMap fun q => [(Ty.u 32, x q), (Ty.u 32, y q)])) (16 + 8 * q) 4 = x q % 2 ^ 32
    ∧ leAt (head ++ emitBlock ((List.range 4).flatMap fun q => [(Ty.u 32, x q), (Ty.u 32, y q)])) (20 + 8 * q) 4 = y q % 2 ^ 32 := by
  have hblock : emitBlock ((List.range 4).flatMap fun q => [(Ty.u 32, x q), (Ty.u 32, y q)]) = (List.range 4).flatMap (pairBytes x y) := by
    rw [emitBlock, emitFrom_pairs _ rfl, length_blocks (pairBytes_length x y)]
    exact List.append_nil _
  have hrange : List.range 4 = List.range q ++ q :: (List.range 4).drop (q + 1) := by
    have hcut := List.take_append_drop q (List.range 4)
    rw [List.take_range, min_eq_left hq.le, List.drop_eq_getElem_cons (by simpa using hq), List.getElem_range] at hcut
    exact hcut.symm
  have hbefore : (head ++ (List.range q).flatMap (pairBytes x y)).length = 16 + 8 * q := by
    rw [List.length_append, hh, length_blocks (pairBytes_length x y), Nat.mul_comm]
  rw [hblock, hrange, List.flatMap_append, List.flatMap_cons, pairBytes, List.append_assoc, ← List.append_assoc head]
  constructor
  · exact (leAt_append_right hbefore _ 0 4).trans (leAt_leBytes_append 4 _ _)
  · have hfirst : (head ++ (List.range q).flatMap (pairBytes x y) ++ leBytes 4 (x q)).length = 20 + 8 * q := by
      rw [List.length_append, hbefore, leBytes_length]
      omega
    rw [← List.append_assoc]
    exact (leAt_append_right hfirst _ 0 4).trans (leAt_leBytes_append 4 _ _)

end

/-! ### Operations queued for the PFX engine -/

/-- Every PFX key has a bank (R170). -/
theorem pfxBanks_ne_nil (s : State) (q : Nat) (v6 : Bool) (vrf addr len : Nat) : s.pfxBanks q v6 vrf addr len ≠ [] := by
  simp [State.pfxBanks, List.range_eq_nil]

/-- A command that queues operations for the PFX engine and waits for them, or answers at once when there is none (R173, R186). -/
def pfxCommand (s : State) (op : Nat) (p : Packet) (mask : Nat) (st : Nat → Status) (ops : List PfxOp) : Res :=
  if ops.isEmpty then { status := overall s mask st, params := blockReply s mask st [], state := s }
  else { Res.job s op p ops.length ((List.range 4).map fun q => (st q).code) with
    state := (Res.job s op p ops.length ((List.range 4).map fun q => (st q).code)).state.queueOps ops }

section
variable {p : Packet} {s : State} {op mask : Nat} {st : Nat → Status} {ops : List PfxOp} {body : Args → State → Res}
  {checks : List (Bool × Status)}

/-- Without operations the command answers at once. With some it has a job, its operations wait behind those that wait already, no reply goes
out and no bank changes. -/
theorem pfxCommand_outcome (hacc : Accepts op p s) (hc : firstFail checks = none)
    (hb : body (readParams op p.params) (begun op p s) = guarded (begun op p s) checks (pfxCommand (begun op p s) op p mask st ops)) :
    (ops = [] → runPacket op p body s = .next (replied op p s (begun op p s) (overall s mask st) (blockReply s mask st [])))
    ∧ (ops ≠ [] → ∃ t, runPacket op p body s = .next t ∧ t.tab.jobs.length = s.tab.jobs.length + 1 ∧ t.pkts.replies = s.pkts.replies
      ∧ t.tab.banks = s.tab.banks ∧ t.tab.pfxOps = s.tab.pfxOps ++ ops) := by
  refine ⟨fun hops => ?_, fun hops => ?_⟩
  · subst hops
    exact completes_of_checks hacc hc hb
  · rw [pfxCommand, if_neg (by simpa using hops)] at hb
    exact ⟨_, deferred_of_checks hacc hc hb, List.length_append, rfl, rfl, rfl⟩

end

/-! ### Insertions -/

section
variable (s : State) (e : PfxEnt) (banks : Nat → List Nat) (replace : Bool)

/-- Whether a quadrant's record holds an entry in one of its banks (R177). -/
def State.pfxHeld (q : Nat) : Bool := (banks q).any fun b => ((s.bankRecord q b).find e).isSome

/-- What PFX_INSERT reports of a quadrant (R186). -/
def State.pfxInsertStatus (q : Nat) : Status :=
  if s.pfxHeld e banks q then (if replace then .ok else .entryExists)
  else if (banks q).all fun b => e.room ≤ (s.bankRecord q b).free then .ok else .tableFull

/-- The operations that PFX_INSERT queues: in each quadrant that reports OK a rewrite where the entry is held, else an insertion, for every
bank of the key (R186). -/
def State.pfxInsertOps (p : Packet) (quads : List Nat) : List PfxOp :=
  (quads.filter fun q => s.pfxInsertStatus e banks replace q = .ok).flatMap fun q =>
    (banks q).map fun b => { quad := q, bank := b, kind := if s.pfxHeld e banks q then 2 else 0, ent := e, chan := p.chan, tag := p.tag }

variable {s e banks replace} {p : Packet} {quads : List Nat} {q b : Nat}

theorem pfxHeld_eq_false (h : ∀ b, b ∈ banks q → (s.bankRecord q b).find e = none) : s.pfxHeld e banks q = false :=
  List.any_eq_false.2 fun b hb => by simp [h b hb]

theorem pfxHeld_eq_true (h : ∃ b, b ∈ banks q ∧ ((s.bankRecord q b).find e).isSome = true) : s.pfxHeld e banks q = true :=
  List.any_eq_true.2 h

/-- In a quadrant that reports OK, every bank of the key has its operation. -/
theorem mem_pfxInsertOps (hq : q ∈ quads) (hb : b ∈ banks q) (hst : s.pfxInsertStatus e banks replace q = .ok) :
    { quad := q, bank := b, kind := if s.pfxHeld e banks q then 2 else 0, ent := e, chan := p.chan, tag := p.tag }
      ∈ s.pfxInsertOps e banks replace p quads :=
  List.mem_flatMap.2 ⟨q, List.mem_filter.2 ⟨hq, decide_eq_true hst⟩, List.mem_map.2 ⟨b, hb, rfl⟩⟩

/-- A quadrant that lacks the entry and has room in each of its banks gets an insertion. -/
theorem pfxInsertOps_absent (hq : q ∈ quads) (hb : b ∈ banks q)
    (h : ∀ b, b ∈ banks q → (s.bankRecord q b).find e = none ∧ e.room ≤ (s.bankRecord q b).free) :
    { quad := q, bank := b, kind := 0, ent := e, chan := p.chan, tag := p.tag } ∈ s.pfxInsertOps e banks replace p quads := by
  have habs : s.pfxHeld e banks q = false := pfxHeld_eq_false fun b hb => (h b hb).1
  have hroom : ((banks q).all fun b => e.room ≤ (s.bankRecord q b).free) = true := by simpa using fun b hb => (h b hb).2
  have hmem := mem_pfxInsertOps (p := p) hq hb (by simp only [State.pfxInsertStatus, habs, hroom, Bool.false_eq_true, if_false, if_true] :
    s.pfxInsertStatus e banks replace q = .ok)
  rwa [habs] at hmem

/-- With REPLACE, a quadrant that holds the entry gets a rewrite. -/
theorem pfxInsertOps_held (hq : q ∈ quads) (hb : b ∈ banks q) (h : ∃ b, b ∈ banks q ∧ ((s.bankRecord q b).find e).isSome = true)
    (hrep : replace = true) :
    { quad := q, bank := b, kind := 2, ent := e, chan := p.chan, tag := p.tag } ∈ s.pfxInsertOps e banks replace p quads := by
  have hheld := pfxHeld_eq_true h
  have hmem := mem_pfxInsertOps (p := p) hq hb (by simp [State.pfxInsertStatus, hheld, hrep] : s.pfxInsertStatus e banks replace q = .ok)
  rwa [hheld] at hmem

/-- A quadrant that holds the entry reports ENTRY_EXISTS without REPLACE. -/
theorem pfxInsertStatus_held (h : ∃ b, b ∈ banks q ∧ ((s.bankRecord q b).find e).isSome = true) (hrep : replace = false) :
    s.pfxInsertStatus e banks replace q = .entryExists := by
  simp [State.pfxInsertStatus, pfxHeld_eq_true h, hrep]

theorem pfxInsertOps_eq_nil (h : ∀ q, q ∈ quads → s.pfxInsertStatus e banks replace q ≠ .ok) :
    s.pfxInsertOps e banks replace p quads = [] := by
  have hnone : (quads.filter fun q => s.pfxInsertStatus e banks replace q = .ok) = [] := List.filter_eq_nil_iff.2 fun q hq => by simpa using h q hq
  rw [State.pfxInsertOps, hnone, List.flatMap_nil]

end

/-! ### Deletions -/

section
variable (s : State) (e : PfxEnt) (banks : Nat → List Nat)

/-- The banks in whose record a quadrant holds an entry. -/
def State.pfxHolders (q : Nat) : List Nat := (banks q).filter fun b => ((s.bankRecord q b).find e).isSome

/-- What PFX_DELETE reports of a quadrant (R187). -/
def State.pfxDeleteStatus (q : Nat) : Status := if (s.pfxHolders e banks q).isEmpty then .notFound else .ok

/-- The operations that PFX_DELETE queues: a deletion for every bank that holds the entry (R187). -/
def State.pfxDeleteOps (p : Packet) (quads : List Nat) : List PfxOp :=
  quads.flatMap fun q => (s.pfxHolders e banks q).map fun b => { quad := q, bank := b, kind := 1, ent := e, chan := p.chan, tag := p.tag }

variable {s e banks} {p : Packet} {quads : List Nat} {q b : Nat}

theorem mem_pfxDeleteOps (hq : q ∈ quads) (hb : b ∈ banks q) (h : ((s.bankRecord q b).find e).isSome = true) :
    { quad := q, bank := b, kind := 1, ent := e, chan := p.chan, tag := p.tag } ∈ s.pfxDeleteOps e banks p quads :=
  List.mem_flatMap.2 ⟨q, hq, List.mem_map.2 ⟨b, List.mem_filter.2 ⟨hb, h⟩, rfl⟩⟩

theorem pfxHolders_eq_nil (h : ∀ b, b ∈ banks q → (s.bankRecord q b).find e = none) : s.pfxHolders e banks q = [] :=
  List.filter_eq_nil_iff.2 fun b hb => by simp [h b hb]

theorem pfxDeleteOps_eq_nil (h : ∀ q b, q ∈ quads → b ∈ banks q → (s.bankRecord q b).find e = none) : s.pfxDeleteOps e banks p quads = [] :=
  List.flatMap_eq_nil_iff.2 fun q hq => by rw [pfxHolders_eq_nil fun b hb => h q b hq hb, List.map_nil]

end

/-! ### Searches -/

section
variable (s : State) (e : PfxEnt) (banks : Nat → List Nat)

/-- The copies of an entry that a quadrant's record holds (R187). -/
def State.pfxFound (q : Nat) : List PfxEnt := (banks q).filterMap fun b => (s.bankRecord q b).find e

/-- What PFX_SEARCH reports of a quadrant. -/
def State.pfxSearchStatus (q : Nat) : Status := if (s.pfxFound e banks q).isEmpty then .notFound else .ok

/-- The copies of which PFX_SEARCH answers: none for a quadrant that is not named or not present. -/
def State.pfxCopies (mask q : Nat) : List PfxEnt := if (s.quadsOf mask).contains q then s.pfxFound e banks q else []

end

/-- The result word of an entry as packets give it (R187): KIND above INDEX. -/
def PfxEnt.result (e : PfxEnt) : Nat := b2n e.group * 2 ^ 16 + e.idx

/-- The result word of the first of several copies, 0 without one. -/
def resultOf (l : List PfxEnt) : Nat := (l.head?.map PfxEnt.result).getD 0

/-- Further results of a command with a quadrant mask stand behind the 16 bytes of its status block (R509). -/
theorem blockReply_of_ne_nil {s : State} {mask : Nat} {st : Nat → Status} {rest : List (Ty × Nat)} (h : rest ≠ []) :
    blockReply s mask st rest = slice (emitFrom (statusBlock s mask st) 0) 0 16 ++ emitBlock rest := if_neg h

/-- What PFX_SEARCH answers of a quadrant with these copies (R187). -/
def searchFields (l : List PfxEnt) : List (Ty × Nat) :=
  match l with
  | [] => [(.u 32, 0), (.u 32, 0)]
  | x :: _ => [(.u 32, x.result), (.u 32, l.length)]

/-- It is always a result word and a number of copies. -/
theorem searchFields_eq (l : List PfxEnt) : searchFields l = [(.u 32, resultOf l), (.u 32, l.length)] := by cases l <;> rfl

theorem PfxEnt.result_eq (e : PfxEnt) : e.result = (if e.group then 65536 else 0) + e.idx := by cases h : e.group <;> simp [PfxEnt.result, b2n, h]

/-! ### The packets -/

section
variable {p : Packet} {a : Args} {s : State} {e : PfxEnt} {banks : Nat → List Nat}

/-- The checks on a PFX key that PFX_DELETE and PFX_SEARCH share pass. -/
theorem pfxKey_checks (hbad : a.bad = false) (hkey : pfxBad (a.n 1) (a.n 3) (a.n 4) = false) (hquads : s.quadsOf (a.n 0) ≠ []) :
    firstFail [(a.bad || pfxBad (a.n 1) (a.n 3) (a.n 4), .paramInvalid), (s.noQuad (a.n 0), .resourceAbsent)] = none := by
  rw [hbad, hkey, noQuad_eq_false hquads]
  rfl

/-- The checks of PFX_INSERT pass. -/
theorem pfxInsert_checks (hbad : a.bad = false) (hkey : pfxBad (a.n 1) (a.n 3) (a.n 4) = false) (hquads : s.quadsOf (a.n 0) ≠ [])
    (hidx : a.n 6 < if a.f 5 then 4096 else 65536) :
    firstFail [(s.noQuad (a.n 0), .resourceAbsent), (a.bad || pfxBad (a.n 1) (a.n 3) (a.n 4), .paramInvalid),
      (decide ((if a.f 5 then 4096 else 65536) ≤ a.n 6), .indexRange)] = none := by
  rw [hbad, hkey, noQuad_eq_false hquads, decide_eq_false (by omega)]
  rfl

/-- PFX_INSERT queues its operations, or answers at once when it has none (R186). -/
theorem pfxInsert_outcome (hacc : Accepts 0x0400 p s) (ha : readParams 0x0400 p.params = a) (hbad : a.bad = false)
    (hquads : s.quadsOf (a.n 0) ≠ []) (hkey : pfxBad (a.n 1) (a.n 3) (a.n 4) = false) (hidx : a.n 6 < if a.f 5 then 4096 else 65536)
    (he : e = mkPfx (a.n 1 != 0) (a.n 2) (a.n 3) (a.n 4) (a.f 5) (a.n 6))
    (hbanks : banks = fun q => s.pfxBanks q (a.n 1 != 0) (a.n 2) (a.n 3) (a.n 4)) {st : Nat → Status}
    (hst : st = s.pfxInsertStatus e banks (a.f 7)) {ops : List PfxOp} (hops : ops = s.pfxInsertOps e banks (a.f 7) p (s.quadsOf (a.n 0))) :
    (ops = [] → Completes (.pfxInsert p) 0x0400 p s (begun 0x0400 p s) (overall s (a.n 0) st) (blockReply s (a.n 0) st []))
    ∧ (ops ≠ [] → ∃ t, exec (.pfxInsert p) s = .next t ∧ t.tab.jobs.length = s.tab.jobs.length + 1 ∧ t.pkts.replies = s.pkts.replies
      ∧ t.tab.banks = s.tab.banks ∧ t.tab.pfxOps = s.tab.pfxOps ++ ops) := by
  subst ha he hbanks hst hops
  change (_ → execPfxInsert p s = _) ∧ (_ → ∃ t, execPfxInsert p s = _ ∧ _)
  unfold execPfxInsert
  exact pfxCommand_outcome hacc (pfxInsert_checks (s := begun 0x0400 p s) hbad hkey hquads hidx) rfl

/-- PFX_DELETE queues its operations, or answers at once when it has none (R187). -/
theorem pfxDelete_outcome (hacc : Accepts 0x0401 p s) (ha : readParams 0x0401 p.params = a) (hbad : a.bad = false)
    (hquads : s.quadsOf (a.n 0) ≠ []) (hkey : pfxBad (a.n 1) (a.n 3) (a.n 4) = false)
    (he : e = mkPfx (a.n 1 != 0) (a.n 2) (a.n 3) (a.n 4) false 0)
    (hbanks : banks = fun q => s.pfxBanks q (a.n 1 != 0) (a.n 2) (a.n 3) (a.n 4)) {st : Nat → Status}
    (hst : st = s.pfxDeleteStatus e banks) {ops : List PfxOp} (hops : ops = s.pfxDeleteOps e banks p (s.quadsOf (a.n 0))) :
    (ops = [] → Completes (.pfxDelete p) 0x0401 p s (begun 0x0401 p s) (overall s (a.n 0) st) (blockReply s (a.n 0) st []))
    ∧ (ops ≠ [] → ∃ t, exec (.pfxDelete p) s = .next t ∧ t.tab.jobs.length = s.tab.jobs.length + 1 ∧ t.pkts.replies = s.pkts.replies
      ∧ t.tab.banks = s.tab.banks ∧ t.tab.pfxOps = s.tab.pfxOps ++ ops) := by
  subst ha he hbanks hst hops
  change (_ → execPfxDelete p s = _) ∧ (_ → ∃ t, execPfxDelete p s = _ ∧ _)
  unfold execPfxDelete
  exact pfxCommand_outcome hacc (pfxKey_checks (s := begun 0x0401 p s) hbad hkey hquads) rfl

/-- PFX_SEARCH answers a block of statuses, then a result word and a number of copies for each of the four quadrants (R187). -/
theorem pfxSearch_completes (hacc : Accepts 0x0402 p s) (ha : readParams 0x0402 p.params = a) (hbad : a.bad = false)
    (hquads : s.quadsOf (a.n 0) ≠ []) (hkey : pfxBad (a.n 1) (a.n 3) (a.n 4) = false)
    (he : e = mkPfx (a.n 1 != 0) (a.n 2) (a.n 3) (a.n 4) false 0)
    (hbanks : banks = fun q => s.pfxBanks q (a.n 1 != 0) (a.n 2) (a.n 3) (a.n 4)) {st : Nat → Status} (hst : st = s.pfxSearchStatus e banks) :
    Completes (.pfxSearch p) 0x0402 p s (begun 0x0402 p s) (overall s (a.n 0) st) (slice (emitFrom (statusBlock s (a.n 0) st) 0) 0 16
      ++ emitBlock ((List.range 4).flatMap fun q =>
        [(.u 32, resultOf (s.pfxCopies e banks (a.n 0) q)), (.u 32, (s.pfxCopies e banks (a.n 0) q).length)])) := by
  rw [← blockReply_of_ne_nil (by simp [List.range_succ])]
  simp only [← searchFields_eq]
  subst ha he hbanks hst
  change execPfxSearch p s = _
  unfold execPfxSearch
  exact completes_of_checks hacc (pfxKey_checks (s := begun 0x0402 p s) hbad hkey hquads) rfl

/-- The parameters with which PFX_LOOKUP answers what a search finds (R187). -/
def lookupFields (ty : Ty) : Option (Nat × Nat × PfxEnt) → List (Ty × Nat)
  | some (b, i, e) => [(.flag, 1), (.u 8, b), (.u 10, i), (ty, e.addr), (.u 8, e.len), (.u 32, e.result)]
  | none => [(.flag, 0), (.u 8, 0), (.u 10, 0), (ty, 0), (.u 8, 0), (.u 32, 0)]

theorem pfxLookup_completes (hacc : Accepts 0x0403 p s) (ha : readParams 0x0403 p.params = a) (hbad : a.bad = false) (hfam : a.n 1 ≤ 1)
    (hq : s.hasQuad (a.n 0) = true) {ty : Ty} (hty : ty = if a.n 1 = 0 then .ip4 else .ip6) {r : Option (Nat × Nat × PfxEnt)}
    (hr : s.pfxSearch (a.n 0) (a.n 1 != 0) (a.n 2) (a.n 3) = r) :
    Completes (.pfxLookup p) 0x0403 p s (begun 0x0403 p s) .ok (emitBlock (lookupFields ty r)) := by
  subst ha
  have hfamily : ty = if ((readParams 0x0403 p.params).n 1 != 0) = true then .ip6 else .ip4 := by
    rw [hty]; by_cases h0 : (readParams 0x0403 p.params).n 1 = 0 <;> simp [h0]
  have hfound : (begun 0x0403 p s).pfxSearch ((readParams 0x0403 p.params).n 0) ((readParams 0x0403 p.params).n 1 != 0)
      ((readParams 0x0403 p.params).n 2) ((readParams 0x0403 p.params).n 3) = r := hr
  change execPfxLookup p s = _
  unfold execPfxLookup
  refine completes_of_checks hacc (firstFail_of_all_false ?checks) (congrArg (guarded _ _) ?answer)
  case checks => simp [hbad, hq, hfam]
  case answer =>
    rw [hfound, hfamily]
    cases r <;> rfl

theorem b2n_decide (c : Prop) [Decidable c] : b2n (decide c) = if c then 1 else 0 := by simp [b2n]

/-- The 8 bytes before the records that PFX_NEXT answers inline spell COUNT and END (R188). -/
theorem leAt_nextHead (count end_ : Nat) (rest : List Byte) :
    leAt (slice (emitFrom [(.u 16, count), (.flag, end_)] 0) 0 8 ++ rest) 0 2 = count % 65536
    ∧ leAt (slice (emitFrom [(.u 16, count), (.flag, end_)] 0) 0 8 ++ rest) 2 1 = end_ % 256 := by
  have hhead : slice (emitFrom [(.u 16, count), (.flag, end_)] 0) 0 8 = leBytes 2 count ++ (leBytes 1 end_ ++ List.replicate 5 0) := rfl
  rw [hhead, List.append_assoc, List.append_assoc]
  exact ⟨leAt_leBytes_append 2 _ _, (leAt_append_right (leBytes_length 2 _) _ 0 1).trans (leAt_leBytes_append 1 _ _)⟩

/-- Up to 28 entries are asked for without a buffer, and at most 15 of those after the cursor answered inline (R188). -/
theorem pfxNext_inline (hacc : Accepts 0x0404 p s) (ha : readParams 0x0404 p.params = a) (hbad : a.bad = false) (hq : s.hasQuad (a.n 0) = true)
    (hmin : 1 ≤ a.n 8) (hfam : a.n 2 ≤ 1) (hmax : a.n 8 ≤ 28) {l : List PfxEnt}
    (hl : l = (s.prefixes (a.n 0)).filter fun e => (a.f 1 || decide ((mkPfx (a.n 2 != 0) (a.n 3) (a.n 4) (a.n 5) false 0).order < e.order))
      && (!a.f 6 || e.vrf == a.n 7)) {n : Nat} (hn : n = min (a.n 8) 15) :
    Completes (.pfxNext p) 0x0404 p s (begun 0x0404 p s) .ok
      (slice (emitFrom [(.u 16, (l.take n).length), (.flag, b2n (decide (l.length ≤ n)))] 0) 0 8 ++ (l.take n).flatMap PfxEnt.record) := by
  subst ha hl hn
  have hnot : ¬28 < (readParams 0x0404 p.params).n 8 := by omega
  change execPfxNext p s = _
  unfold execPfxNext
  refine completes_of_checks hacc ?checks (congrArg (guarded _ _) ?answer)
  case checks =>
    rw [if_neg hnot, List.append_nil]
    refine firstFail_of_all_false ?_
    simp [hq, hbad, hfam]
    omega
  case answer =>
    simp only [if_neg hnot]
    rfl

/-- More are written to the buffer, and the answer has COUNT and END only. -/
theorem pfxNext_buffer (hacc : Accepts 0x0404 p s) (ha : readParams 0x0404 p.params = a) (hbad : a.bad = false) (hq : s.hasQuad (a.n 0) = true)
    (hmin : 28 < a.n 8) (hmax : a.n 8 ≤ 4096) (hfam : a.n 2 ≤ 1) (hdma : firstFail (dmaChecks s p (a.n 9) true (32 * a.n 8)) = none)
    (hfault : p.dmaFault = false) {l : List PfxEnt}
    (hl : l = (s.prefixes (a.n 0)).filter fun e => (a.f 1 || decide ((mkPfx (a.n 2 != 0) (a.n 3) (a.n 4) (a.n 5) false 0).order < e.order))
      && (!a.f 6 || e.vrf == a.n 7)) {n : Nat} (hn : n = a.n 8) :
    Completes (.pfxNext p) 0x0404 p s ((begun 0x0404 p s).emit (.hostWrite (dmaAddr (a.n 9)) ((l.take n).flatMap PfxEnt.record))) .ok
      (emitBlock [(.u 16, (l.take n).length), (.flag, b2n (decide (l.length ≤ n)))]) := by
  subst ha hl hn
  have hchecks : firstFail (dmaChecks (begun 0x0404 p s) p ((readParams 0x0404 p.params).n 9) true (32 * (readParams 0x0404 p.params).n 8)) = none :=
    hdma
  change execPfxNext p s = _
  unfold execPfxNext
  refine completes_of_checks hacc ?checks (congrArg (guarded _ _) ?answer)
  case checks =>
    rw [if_pos hmin, firstFail_append (firstFail_of_all_false ?_), hchecks]
    simp [hq, hbad, hfam, hmax]
    omega
  case answer =>
    simp only [if_pos hmin, dmaWrite, hfault, Bool.false_eq_true, if_false]
    rfl

/-- The parameters with which PFX_READ answers what stands at an index of a bank (R188). -/
def readFields (i : Nat) : Option (Nat × PfxEnt) → List (Ty × Nat)
  | some (j, e) => [(.flag, b2n e.valid), (.wide 80, (pfxWords e (decide (j < i))).1), (.wide 80, (pfxWords e (decide (j < i))).2), (.u 17, e.result)]
  | none => [(.flag, 0), (.wide 80, 0), (.wide 80, 0), (.u 17, 0)]

theorem pfxRead_completes (hacc : Accepts 0x0405 p s) (ha : readParams 0x0405 p.params = a) (hbad : a.bad = false) (hq : s.hasQuad (a.n 0) = true)
    {r : Option (Nat × PfxEnt)} (hr : (s.bank (a.n 0) (a.n 1)).at? (a.n 2) = r) :
    Completes (.pfxRead p) 0x0405 p s (begun 0x0405 p s) .ok (emitBlock (readFields (a.n 2) r)) := by
  subst ha
  have hfound : ((begun 0x0405 p s).bank ((readParams 0x0405 p.params).n 0) ((readParams 0x0405 p.params).n 1)).at?
      ((readParams 0x0405 p.params).n 2) = r := hr
  change execPfxRead p s = _
  unfold execPfxRead
  refine completes_of_checks hacc (firstFail_of_all_false ?checks) (congrArg (guarded _ _) ?answer)
  case checks => simp [hbad, hq]
  case answer =>
    rw [hfound]
    cases r <;> rfl

/-- FWD_PFX_SEL as PFX_SEL_SET writes it (R192); an OFF of 32 or 64 stands as 0. -/
def selWord (v4 off4 v6 off6 : Nat) : Word := word (off6 % 64 * 2 ^ 24 + v6 * 2 ^ 16 + off4 % 32 * 2 ^ 8 + v4)

theorem selWord_fields {v4 v6 : Nat} (h4 : v4 ≤ 8) (h6 : v6 ≤ 8) (off4 off6 : Nat) :
    (selWord v4 off4 v6 off6).toNat / 2 ^ 0 % 2 ^ 4 = v4 ∧ (selWord v4 off4 v6 off6).toNat / 2 ^ 8 % 2 ^ 5 = off4 % 32
    ∧ (selWord v4 off4 v6 off6).toNat / 2 ^ 16 % 2 ^ 4 = v6 ∧ (selWord v4 off4 v6 off6).toNat / 2 ^ 24 % 2 ^ 6 = off6 % 64 := by
  simp only [selWord, word, BitVec.toNat_ofNat]
  omega

theorem pfxSelSet_completes (hacc : Accepts 0x0406 p s) (ha : readParams 0x0406 p.params = a) (hbad : a.bad = false) (h4 : a.n 0 ≤ 8)
    (h6 : a.n 2 ≤ 8) (hoff4 : a.n 1 + (8 - a.n 0) ≤ 32) (hoff6 : a.n 3 + (8 - a.n 2) ≤ 64)
    (hempty : ∀ q, s.hasQuad q = true → s.pfxHolds q = false) :
    Completes (.pfxSelSet p) 0x0406 p s
      ((begun 0x0406 p s).forQuads fun u q => u.setReg .fwdPfxSel q (selWord (a.n 0) (a.n 1) (a.n 2) (a.n 3))) .ok (emitBlock []) := by
  subst ha
  have hnone : ((begun 0x0406 p s).quads.any (begun 0x0406 p s).pfxHolds) = false :=
    List.any_eq_false.2 fun q hq => Bool.eq_false_iff.1 (hempty q (mem_quads.1 hq))
  change execPfxSelSet p s = _
  unfold execPfxSelSet
  refine completes_of_checks hacc (firstFail_of_all_false ?_) rfl
  simp [hbad, h4, h6, hoff4, hoff6, hnone]

/-- A register holds one word in every present quadrant, and all other registers stay. -/
theorem reg_setReg_forQuads (h : RegsWf s) (r : Reg) (w : Word) (x : Reg) (i : Nat) :
    (s.forQuads fun u q => u.setReg r q w).reg x i = if x = r ∧ s.hasQuad i = true then w else s.reg x i := by
  refine (reg_setRegs h r id w s.quads x i).trans ?_
  simp only [List.map_id, mem_quads]

end

/-- Settles O43: where an operation is queued the command waits for it, else it answers at once; the other packets answer what the tables hold. -/
theorem prefixPacketsAnswer : Obligations.PrefixPacketsAnswer := by
  refine ⟨?insert, ?delete, ?search, ?lookup, ?next, ?read, ?select⟩
  case insert =>
    intro p a e banks s hacc ha hbad hquads hkey hidx he hbanks
    obtain ⟨hanswers, hwaits⟩ := pfxInsert_outcome hacc ha hbad hquads hkey hidx he hbanks rfl rfl
    refine ⟨fun ⟨q, hq, hroom⟩ => ?room, fun hheld hrep => ?held⟩
    case room =>
      have hsome : banks q ≠ [] := by subst hbanks; exact pfxBanks_ne_nil s q (a.n 1 != 0) (a.n 2) (a.n 3) (a.n 4)
      obtain ⟨b, hb⟩ := List.exists_mem_of_ne_nil _ hsome
      obtain ⟨t, hdone, hjobs, hreplies, htbanks, hops⟩ := hwaits (List.ne_nil_of_mem (pfxInsertOps_absent hq hb hroom))
      refine ⟨t, hdone, hjobs, hreplies, htbanks, fun q b hq hb => ?_⟩
      rw [hops]
      exact ⟨fun h => List.mem_append_right _ (pfxInsertOps_absent hq hb h),
        fun h hrep => List.mem_append_right _ (pfxInsertOps_held hq hb h hrep)⟩
    case held =>
      have hstatus : ∀ q, q ∈ s.quadsOf (a.n 0) → s.pfxInsertStatus e banks (a.f 7) q ≠ .ok := fun q hq => by
        rw [pfxInsertStatus_held (hheld q hq) hrep]
        decide
      obtain ⟨q, hq⟩ := List.exists_mem_of_ne_nil _ hquads
      exact ⟨_, overall_of_not_ok hq (hstatus q hq) ▸ hanswers (pfxInsertOps_eq_nil hstatus)⟩
  case delete =>
    intro p a e banks s hacc ha hbad hquads hkey he hbanks
    obtain ⟨hanswers, hwaits⟩ := pfxDelete_outcome hacc ha hbad hquads hkey he hbanks rfl rfl
    refine ⟨fun q b hq hb hheld => ?held, fun hnone => ?none⟩
    case held =>
      have hmem := mem_pfxDeleteOps (p := p) hq hb hheld
      obtain ⟨t, hdone, hjobs, hreplies, htbanks, hops⟩ := hwaits (List.ne_nil_of_mem hmem)
      exact ⟨t, hdone, hops ▸ List.mem_append_right _ hmem, hjobs, hreplies, htbanks⟩
    case none =>
      obtain ⟨q, hq⟩ := List.exists_mem_of_ne_nil _ hquads
      have hstatus : s.pfxDeleteStatus e banks q ≠ .ok := by simp [State.pfxDeleteStatus, pfxHolders_eq_nil fun b hb => hnone q b hq hb]
      exact ⟨_, overall_of_not_ok hq hstatus ▸ hanswers (pfxDeleteOps_eq_nil hnone)⟩
  case search =>
    intro p a found s hacc ha hbad hquads hkey hfound
    obtain ⟨e, he⟩ : ∃ e, e = mkPfx (a.n 1 != 0) (a.n 2) (a.n 3) (a.n 4) false 0 := ⟨_, rfl⟩
    obtain ⟨banks, hbanks⟩ : ∃ banks : Nat → List Nat, banks = fun q => s.pfxBanks q (a.n 1 != 0) (a.n 2) (a.n 3) (a.n 4) := ⟨_, rfl⟩
    obtain rfl : found = s.pfxFound e banks := by subst he hbanks; exact hfound
    refine ⟨_, _, pfxSearch_completes hacc ha hbad hquads hkey he hbanks rfl,
      fun hall => overall_of_ok fun q hq => if_neg fun hempty => hall q hq (List.isEmpty_iff.1 hempty), fun q x l hq hx => ?_⟩
    have hcopies : s.pfxCopies e banks (a.n 0) q = x :: l := (if_pos (by simpa using hq)).trans hx
    obtain ⟨hword, hcount⟩ := leAt_pairs (x := fun q => resultOf (s.pfxCopies e banks (a.n 0) q))
      (y := fun q => (s.pfxCopies e banks (a.n 0) q).length) (length_slice _ 0 16) (mem_quadsOf.1 hq).1.1
    simp only [hcopies] at hword hcount
    exact ⟨hword.trans (congrArg (· % 2 ^ 32) x.result_eq), hcount⟩
  case lookup =>
    intro p a ty s hacc ha hbad hfam hq hty
    refine ⟨fun b i e hr => ?_, fun hr => pfxLookup_completes hacc ha hbad hfam hq hty hr⟩
    rw [← e.result_eq]
    exact pfxLookup_completes hacc ha hbad hfam hq hty hr
  case next =>
    intro p a l got n s hacc ha hbad hq hmin hmax hfam hl hn hgot
    subst hgot
    rw [← b2n_decide]
    refine ⟨fun h28 => ?inline, fun h28 hdma hfault => ?buffer⟩
    case inline =>
      rw [if_neg (by omega)] at hn
      obtain ⟨hcount, hend⟩ := leAt_nextHead (l.take n).length (b2n (decide (l.length ≤ n))) ((l.take n).flatMap PfxEnt.record)
      have hfew : (l.take n).length < 65536 := by rw [List.length_take]; omega
      have hbit : b2n (decide (l.length ≤ n)) < 256 := by rw [b2n_decide]; split <;> omega
      exact ⟨_, pfxNext_inline hacc ha hbad hq hmin hfam h28 hl hn, hcount.trans (Nat.mod_eq_of_lt hfew), hend.trans (Nat.mod_eq_of_lt hbit),
        List.drop_left' (length_slice ..)⟩
    case buffer =>
      rw [if_pos h28] at hn
      exact pfxNext_buffer hacc ha hbad hq h28 hmax hfam hdma hfault hl hn
  case read =>
    intro p a s hacc ha hbad hq
    refine ⟨fun i e hr => ?_, fun hr => pfxRead_completes hacc ha hbad hq hr⟩
    rw [← e.result_eq]
    exact pfxRead_completes hacc ha hbad hq hr
  case select =>
    intro p a s h hacc ha hbad h4 h6 hoff4 hoff6 hempty
    obtain ⟨hv4, ho4, hv6, ho6⟩ := selWord_fields h4 h6 (a.n 1) (a.n 3)
    have hreg := reg_setReg_forQuads (s := begun 0x0406 p s) h.regs .fwdPfxSel (selWord (a.n 0) (a.n 1) (a.n 2) (a.n 3))
    refine ⟨_, pfxSelSet_completes hacc ha hbad h4 h6 hoff4 hoff6 hempty, fun q hq => ?_, fun r i hne => (hreg r i).trans (if_neg ?_)⟩
    · have hw := (hreg .fwdPfxSel q).trans (if_pos ⟨rfl, hq⟩)
      exact ⟨(fld_of_reg_eq (f := F.fwdPfxSel_V4_VBITS) hw).trans hv4, (fld_of_reg_eq (f := F.fwdPfxSel_V4_OFF) hw).trans ho4,
        (fld_of_reg_eq (f := F.fwdPfxSel_V6_VBITS) hw).trans hv6, (fld_of_reg_eq (f := F.fwdPfxSel_V6_OFF) hw).trans ho6⟩
    · rintro ⟨hr, hq⟩
      exact hne.elim (· hr) fun hf => Bool.false_ne_true (hf.symm.trans hq)

end Sys2Proof.Machine

/-!
Frames from their release to the cell buffer (O21): entry into the staging, the return of a spilled copy, the grants of the egress slices, and
the write of a copy on die.
-/
namespace Sys2Proof.Machine
open Sys2Proof

/-! ### Tables -/

/-- Writing to an index what it holds changes nothing. -/
theorem Table.set_get_self {V : Type} [DecidableEq V] {d : Nat → V} {t : Table V} {lo : Nat} (hs : Table.sortedFrom lo t = true)
    (hd : Table.noDefault d t = true) (k : Nat) : Table.set d t k (Table.get d t k) = t := by
  unfold Table.set
  induction t generalizing lo with
  | nil => simp [Table.get, Table.erase]
  | cons e t ih =>
    obtain ⟨j, v⟩ := e
    simp only [Table.sortedFrom, Table.noDefault, List.all_cons, Bool.and_eq_true, Bool.not_eq_true', decide_eq_false_iff_not] at hs hd
    have hrest := ih hs.2 hd.2
    simp only [Table.get, Table.erase, Table.insert]
    by_cases hj : j = k
    · subst hj; simp [hd.1]
    · by_cases hk : k < j
      · simp [hj, hk]
      · simp only [hj, hk, if_false]
        split_ifs at hrest ⊢ <;> rw [hrest]

/-! ### Entry into the staging (R197, R199) -/

/-- A lossy frame as it is staged for one egress slice. -/
def State.lossyStaged (s : State) (f : Frame) (ing eg : Nat) (dests : List (Nat × Bool)) : Staged :=
  { fid := f.id, port := f.port, ing := ing, eg := eg, cls := f.md.cls, dests := dests, lossless := false, charge := cellsFor (s.lenFor f) }

/-- With nothing spilled of its queue and room in the lossy pool, a lossy frame joins the staged copies. -/
theorem stageOne_of_room {s : State} {f : Frame} {ing eg : Nat} (hspill : s.spilling ing eg f.md.cls = false)
    (hll : (s.llMask f.port).testBit f.md.cls = false) (hroom : cellsFor (s.lenFor f) ≤ s.lossyFree ing) (dests : List (Nat × Bool)) :
    s.stageOne f ing eg dests = s.inPath fun p => { p with staged := p.staged ++ [s.lossyStaged f ing eg dests] } := by
  simp [State.stageOne, hspill, hll, Nat.not_lt.2 hroom, State.lossyStaged]

theorem sliceOf_lt {p : Nat} (h : p < 516) : Config.sliceOf p < 32 := by
  unfold Config.sliceOf
  split_ifs <;> omega

/-- A frame that enters the fabric. -/
def Frame.entered (f : Frame) : Frame := { f with stage := if f.stage == .dead then .dead else .fabric }

/-- A frame enters the staging for one egress slice, once for all its destinations there (R197, R207). -/
def State.enterSlice (s : State) (f : Frame) (ing eg : Nat) : State :=
  let here := f.dests.filter fun d => Config.sliceOf d.1 = eg
  if here = [] then s
  else if s.sliceHeld eg then here.foldl (fun s d => s.drop d.1 0x45) s
  else s.stageOne f ing eg here

theorem enterFabric_of_frame {s : State} {id : Nat} {f : Frame} (hf : s.frame? id = some f) (ing : Nat) :
    s.enterFabric id ing = (List.range 32).foldl (fun s eg => s.enterSlice f ing eg) (s.onFrame id Frame.entered) := by
  simp only [State.enterFabric, hf]
  rfl

theorem enterSlice_self {s : State} {f : Frame} {d : Nat × Bool} (hdests : f.dests = [d])
    (hheld : s.sliceHeld (Config.sliceOf d.1) = false) (ing : Nat) :
    s.enterSlice f ing (Config.sliceOf d.1) = s.stageOne f ing (Config.sliceOf d.1) [d] := by
  simp [State.enterSlice, hdests, hheld]

theorem enterSlice_ne {f : Frame} {d : Nat × Bool} {eg : Nat} (hdests : f.dests = [d]) (hne : eg ≠ Config.sliceOf d.1) (s : State) (ing : Nat) :
    s.enterSlice f ing eg = s := by
  simp [State.enterSlice, hdests, hne.symm]

/-- A frame for one destination enters the staging once, for that destination's slice. -/
theorem enterFabric_single {s : State} {f : Frame} {d : Nat × Bool} (hf : s.frame? f.id = some f) (hdests : f.dests = [d]) (hd : d.1 < 516)
    (hheld : s.sliceHeld (Config.sliceOf d.1) = false) (ing : Nat) :
    s.enterFabric f.id ing = (s.onFrame f.id Frame.entered).stageOne f ing (Config.sliceOf d.1) [d] := by
  obtain ⟨_, -, rfl, hfold⟩ := foldl_of_mem (f := fun s eg => s.enterSlice f ing eg) (g := id) (P := fun _ => True) (fun _ _ _ => trivial)
    (fun u _ _ hne => enterSlice_ne hdests hne u ing) List.nodup_range (List.mem_range.2 (sliceOf_lt hd))
    (s := s.onFrame f.id Frame.entered) trivial
  have hheld' : (s.onFrame f.id Frame.entered).sliceHeld (Config.sliceOf d.1) = false := hheld
  rw [enterFabric_of_frame hf, ← enterSlice_self hdests hheld']
  exact hfold

theorem waitingCopies_single {s : State} {f : Frame} (hf : s.path.frames = [f]) (hm : f.mir = none) (id : Nat) : s.waitingCopies id = [] := by
  simp [State.waitingCopies, hf, hm]

/-- Fourteen slots after its release a frame without mirror copies enters the fabric (R110). -/
theorem fabricEntry_single {s : State} {f : Frame} (hf : s.path.frames = [f]) (hm : f.mir = none) (hst : f.stage = .released)
    (hdue : f.released + 14 ≤ s.tick.slot) :
    exec (.fabricEntry f.port f.md.seq) s = .next (s.enterFabric f.id (Config.sliceOf f.port)).settle := by
  change execFabricEntry f.port f.md.seq s = _
  have hold : s.oldest f.port (fun g => g.md.seq == f.md.seq && decide (g.released + 14 ≤ s.tick.slot)
      && (g.stage == .released || (g.stage == .dead && !(s.waitingCopies g.id).isEmpty))) = some f :=
    oldest_single hf rfl hm (by simp [hst, hdue])
  simp only [execFabricEntry, hold]
  simp only [waitingCopies_single hf hm, hst]
  rfl

/-! ### The return of a spilled copy (R200) -/

theorem freePages_staged (l : List HankPage) (s : State) : (l.foldl (fun s p => s.freePage p.page) s).path.staged = s.path.staged := by
  induction l generalizing s with
  | nil => rfl
  | cons p t ih => exact ih _

theorem spillTake_staged (s : State) (ing sq : Nat) : (s.spillTake ing sq).path.staged = s.path.staged := by
  unfold State.spillTake
  dsimp only
  split
  · rfl
  · split
    · rfl
    · split <;> exact freePages_staged ..

/-- A spilled lossy copy whose charge fits the lossy pool leaves the spill. -/
theorem spillReturn_single {s : State} {ing sq : Nat} {h : Hank} {r : HankRec} {rest : List HankRec} {c : Staged}
    (hh : s.hank? (spillKey ing sq) = some h) (hr : h.recs = r :: rest) (hc : s.path.staged = [c]) (hspill : c.inSpill = true)
    (hing : c.ing = ing) (heg : c.eg = sq / 8) (hcls : c.cls = sq % 8) (hfid : c.fid = r.copy.fid) (hll : c.lossless = false)
    (hroom : c.charge ≤ s.lossyFree ing) :
    ∃ t, exec (.spillReturn ing sq) s = .next t ∧ t.path.staged = [{ c with inSpill := false }] := by
  change ∃ t, execSpillReturn ing sq s = .next t ∧ _
  have hmine : (c.inSpill && c.ing == ing && c.eg == sq / 8 && c.cls == sq % 8 && c.fid == r.copy.fid) = true := by
    simp [hspill, hing, heg, hcls, hfid]
  simp only [execSpillReturn, hh, hr, hc, List.find?_cons, hmine, hll, Bool.false_eq_true, if_false, if_neg (Nat.not_lt.2 hroom)]
  refine ⟨_, rfl, ?_⟩
  simp only [State.inPath, spillTake_staged, hc, List.map_cons, List.map_nil, hmine, if_true, hll]

/-! ### Grants (R198, R201, R202) -/

/-- The requests that an egress slice hears in a slot, in their order: continuations, lossless starts, lossy starts (R202). -/
def State.requests (s : State) (eg : Nat) : List Staged :=
  (s.rotation32.flatMap fun i => s.path.staged.filter fun c => c.ing = i && c.eg = eg && decide (0 < c.sent) && s.cellReady c)
    ++ (s.rotation32.filterMap fun i => s.offer i eg true) ++ s.rotation32.filterMap fun i => s.offer i eg false

/-- The acceptance of a slice as its turn begins: all its credit, and nothing granted. -/
def Accept.turn (a : Accept) (eg : Nat) : Accept :=
  { a with credit := Table.get (fun _ => (12 : Int)) a.state.path.credit eg, charged := 0, refused := false }

/-- A slice hears its requests in turn and loses the credit that it granted. -/
theorem Accept.slice_of_granted {a b : Accept} {eg : Nat} (h : (a.state.requests eg).foldl (fun a c => a.ask eg c) (a.turn eg) = b)
    (hr : b.refused = false) :
    (a.slice eg).state = (b.state.inPath fun p => { p with
      credit := Table.set (fun _ => (12 : Int)) p.credit eg (Table.get (fun _ => (12 : Int)) a.state.path.credit eg - b.charged) })
    ∧ (a.slice eg).budget = b.budget := by
  subst h
  exact ⟨if_neg (Bool.not_eq_true _ ▸ hr), rfl⟩

/-- A slice for which nothing is staged hears no request. -/
theorem requests_of_none_staged {s : State} {eg : Nat} (h : ∀ x ∈ s.path.staged, x.eg ≠ eg) : s.requests eg = [] := by
  have hhead : ∀ ing cls, s.stagedHead ing eg cls = none := fun ing cls => List.find?_eq_none.2 fun x hx => by simp [h x hx]
  have hoffer : ∀ ing ll, s.offer ing eg ll = none := fun ing ll => by simp [State.offer, hhead]
  have hcont : ∀ i, s.path.staged.filter (fun c => c.ing = i && c.eg = eg && decide (0 < c.sent) && s.cellReady c) = [] :=
    fun i => List.filter_eq_nil_iff.2 fun x hx => by simp [h x hx]
  simp [State.requests, hoffer, hcont]

/-- The turns of slices for which nothing is staged change nothing. -/
theorem foldl_slice_idle {l : List Nat} {a : Accept} (hcr : Table.wf (fun _ => (12 : Int)) a.state.path.credit = true)
    (h : ∀ x ∈ a.state.path.staged, x.eg ∉ l) :
    (l.foldl (fun a eg => a.slice eg) a).state = a.state ∧ (l.foldl (fun a eg => a.slice eg) a).budget = a.budget := by
  induction l generalizing a with
  | nil => exact ⟨rfl, rfl⟩
  | cons eg t ih =>
    have hreq := requests_of_none_staged fun x hx heq => h x hx (heq ▸ List.mem_cons_self ..)
    obtain ⟨hstate, hbudget⟩ := Accept.slice_of_granted (a := a) (b := a.turn eg) (eg := eg) (by rw [hreq]; rfl) rfl
    obtain ⟨hs, hd⟩ := Bool.and_eq_true .. ▸ hcr
    have hkept : (a.slice eg).state = a.state := by
      rw [hstate]
      simp only [Accept.turn, State.inPath, Nat.cast_zero, sub_zero, Table.set_get_self hs hd]
    have hrest := ih (a := a.slice eg) (hkept ▸ hcr) (hkept ▸ fun x hx => fun hmem => h x hx (List.mem_cons_of_mem _ hmem))
    exact ⟨hrest.1.trans hkept, hrest.2.trans hbudget⟩

theorem hasSlice_lt {s : State} {sl : Nat} (h : s.hasSlice sl = true) : sl < 32 := by
  have hlt : sl < s.fuses.code.slices := of_decide_eq_true h
  have hmax : s.fuses.code.slices ≤ 32 := by cases s.fuses.code <;> decide
  exact hlt.trans_le hmax

theorem mem_rotation32 (s : State) {i : Nat} : i ∈ s.rotation32 ↔ i < 32 := by
  refine List.mem_map.trans ⟨?_, fun hi => ⟨(i + 32 - s.rrPointer 32 % 32) % 32, List.mem_range.2 (Nat.mod_lt _ (by decide)), by omega⟩⟩
  rintro ⟨k, -, rfl⟩
  exact Nat.mod_lt _ (by decide)

theorem rotation32_nodup (s : State) : s.rotation32.Nodup :=
  List.nodup_range.map_on fun a ha b hb h => by
    rw [List.mem_range] at ha hb
    omega

/-- Of distinct numbers one alone answers. -/
theorem filterMap_ite_eq {α : Type} {l : List Nat} {i : Nat} (hl : l.Nodup) (hi : i ∈ l) (c : α) :
    l.filterMap (fun k => if k = i then some c else none) = [c] := by
  induction l with
  | nil => exact absurd hi List.not_mem_nil
  | cons k t ih =>
    obtain ⟨hk, ht⟩ := List.nodup_cons.1 hl
    by_cases heq : k = i
    · subst heq
      have hnone : t.filterMap (fun j => if j = k then some c else none) = [] :=
        List.filterMap_eq_nil_iff.2 fun j hj => if_neg fun (heq : j = k) => hk (heq ▸ hj)
      simp [hnone]
    · simp [heq, ih ht ((List.mem_cons.1 hi).resolve_left (Ne.symm heq))]

/-- One frame is staged, as a lossy start whose first cell lies ready. -/
structure LossyStart (s : State) (c : Staged) (f : Frame) : Prop where
  staged : s.path.staged = [c]
  unsent : c.sent = 0
  ing : c.ing < 32
  cls : c.cls < 8
  lossy : c.lossless = false
  start : s.losslessStart c = false
  ready : s.cellReady c = true
  frame : s.frame? c.fid = some f

section
variable {s : State} {c : Staged} {f : Frame} (h : LossyStart s c f)
include h

/-- The one staged copy is the head of its queue alone. -/
theorem stagedHead_single (ing cls : Nat) : s.stagedHead ing c.eg cls = if ing = c.ing ∧ cls = c.cls then some c else none := by
  simp only [State.stagedHead, h.staged, List.find?_singleton, h.unsent, eq_comm (a := ing), eq_comm (a := cls)]
  simp

/-- The one staged copy is what its ingress slice offers, among lossy starts. -/
theorem offer_single (ing : Nat) (ll : Bool) :
    s.offer ing c.eg ll = if ing = c.ing then (if ll then none else some c) else none := by
  by_cases hing : ing = c.ing
  · have hmem : c.cls ∈ [7, 6, 5, 4, 3, 2, 1, 0] := by have := h.cls; simp; omega
    have hheads := filterMap_ite_eq (by decide) hmem c
    simp only [State.offer, stagedHead_single h, hing, true_and, hheads, List.find?_singleton, h.ready, h.start, if_true]
    cases ll <;> rfl
  · simp [State.offer, stagedHead_single h, hing]

/-- Its slice hears the lossy start of the one staged copy and nothing else. -/
theorem requests_single : s.requests c.eg = [c] := by
  have hcont : (s.rotation32.flatMap fun i => s.path.staged.filter fun x =>
      x.ing = i && x.eg = c.eg && decide (0 < x.sent) && s.cellReady x) = [] := by simp [h.staged, h.unsent]
  have hoffers := filterMap_ite_eq (rotation32_nodup s) ((mem_rotation32 s).2 h.ing) c
  simp only [State.requests, hcont, offer_single h]
  simpa using hoffers

end

/-- A slice with credit grants a lossy start that its ingress slice can still send (R198, R201). -/
theorem Accept.ask_of_lossyStart {a : Accept} {eg : Nat} {c : Staged} {f : Frame} (hcr : 1 ≤ a.credit)
    (hf : a.state.frame? c.fid = some f) (hll : a.state.losslessStart c = false) (hb : a.budget[c.ing]?.getD 0 ≠ 0) :
    a.ask eg c = { a with state := a.state.sendCell eg c f, credit := a.credit - c.dests.length, charged := a.charged + c.dests.length
                          budget := listModify (· - 1) a.budget c.ing } := by
  simp [Accept.ask, Int.not_lt.2 hcr, hf, hll, hb]

/-- The write that carries the next cell of a staged copy to a destination (R195, R203). -/
def State.cellTo (s : State) (c : Staged) (f : Frame) (d : Nat × Bool) : CellWr :=
  { fid := f.id, k := c.sent, port := d.1, mc := d.2, cls := c.cls, due := s.tick.slot + (if c.ing / 8 = c.eg / 8 then 50 else 113)
    data := (f.carried.drop (128 * c.sent)).take 128, last := decide (f.carried.length ≤ 128 * (c.sent + 1)), need := s.lenFor f
    lossless := c.lossless }

/-- A cell of a lossy copy sent travels to every destination; what stays staged is for the same slice. -/
theorem sendCell_lossy {s : State} {c : Staged} {f : Frame} (h : LossyStart s c f) :
    (s.sendCell c.eg c f).path.writeQ = s.path.writeQ ++ c.dests.map (fun d => (c.eg, s.cellTo c f d))
    ∧ (∀ x ∈ (s.sendCell c.eg c f).path.staged, x.eg = c.eg) ∧ (s.sendCell c.eg c f).path.credit = s.path.credit := by
  simp only [State.sendCell, h.lossy, Bool.false_eq_true, if_false]
  refine ⟨by simp [State.inPath, State.cellTo, h.lossy], ?_, rfl⟩
  simp only [State.inPath, h.staged]
  split <;> simp

/-- With credit, the turn of its slice sends the first cell of the one staged copy and takes a credit for each destination. -/
theorem Accept.slice_single {a : Accept} {c : Staged} {f : Frame} (h : LossyStart a.state c f)
    (hcr : 1 ≤ Table.get (fun _ => (12 : Int)) a.state.path.credit c.eg) (hb : a.budget[c.ing]?.getD 0 ≠ 0) :
    (a.slice c.eg).state = (a.state.sendCell c.eg c f).inPath fun p => { p with
      credit := Table.set (fun _ => (12 : Int)) p.credit c.eg
        (Table.get (fun _ => (12 : Int)) a.state.path.credit c.eg - c.dests.length) } := by
  have hask := Accept.ask_of_lossyStart (a := a.turn c.eg) (eg := c.eg) hcr h.frame h.start hb
  have hreq := congrArg (List.foldl (fun (a : Accept) c' => a.ask c.eg c') (a.turn c.eg)) (requests_single h)
  have hslice := Accept.slice_of_granted (a := a) (hreq.trans hask) rfl
  simpa [Accept.turn] using hslice.1

/-- In the turns of distinct slices, with all credit and budget there, only that of the one staged copy's slice does anything. -/
theorem foldl_slice_single {a : Accept} {c : Staged} {f : Frame} {l : List Nat} (h : LossyStart a.state c f) (hl : l.Nodup) (hmem : c.eg ∈ l)
    (hcr : a.state.path.credit = []) (hb : a.budget[c.ing]?.getD 0 ≠ 0) :
    (l.foldl (fun a eg => a.slice eg) a).state = (a.state.sendCell c.eg c f).inPath fun p => { p with
      credit := Table.set (fun _ => (12 : Int)) [] c.eg (12 - c.dests.length) } := by
  obtain ⟨before, after, rfl⟩ := List.append_of_mem hmem
  rw [List.nodup_middle, List.nodup_cons, List.mem_append, not_or] at hl
  obtain ⟨⟨hbefore, hafter⟩, -⟩ := hl
  have hstaged : ∀ x ∈ a.state.path.staged, x.eg ∉ before := by
    intro x hx
    rw [h.staged, List.mem_singleton] at hx
    exact hx ▸ hbefore
  obtain ⟨hstate, hbudget⟩ := foldl_slice_idle (hcr ▸ rfl) hstaged
  rw [List.foldl_append, List.foldl_cons]
  generalize before.foldl (fun a eg => a.slice eg) a = b at hstate hbudget
  have hone : 1 ≤ Table.get (fun _ => (12 : Int)) b.state.path.credit c.eg := by
    rw [hstate, hcr]
    exact (by decide : (1 : Int) ≤ 12)
  have hgrant := Accept.slice_single (hstate ▸ h) hone (hbudget ▸ hb)
  obtain ⟨-, hleft, hkept⟩ := sendCell_lossy h
  rw [hstate, hcr] at hgrant
  rw [hcr] at hkept
  have hidle := foldl_slice_idle (l := after) (a := b.slice c.eg) (hgrant ▸ Table.wf_set (hkept ▸ rfl) _ _)
    (hgrant ▸ fun x hx => hleft x hx ▸ hafter)
  rw [hidle.1, hgrant]
  simp only [State.inPath, hkept, Table.get]

/-- The lossy start of the one staged copy is granted, and its slice loses a credit for each destination. -/
theorem cellGrant_single {s : State} {c : Staged} {f : Frame} (h : LossyStart s c f) (hran : s.ran 73 0 = false)
    (hsl : s.hasSlice c.eg = true) (hcr : s.path.credit = []) :
    ∃ t, exec .cellGrant s = .next t ∧ t.path.writeQ = s.path.writeQ ++ c.dests.map (fun d => (c.eg, s.cellTo c f d))
      ∧ Table.get (fun _ => (12 : Int)) t.path.credit c.eg = 12 - c.dests.length := by
  let u := s.markRan 73 0
  have hu : LossyStart u c f := ⟨h.staged, h.unsent, h.ing, h.cls, h.lossy, h.start, h.ready, h.frame⟩
  have hexec : exec .cellGrant s = .next ((u.rotation32.filter u.hasSlice).foldl (fun a eg => a.slice eg)
      { state := u, credit := 0, budget := List.replicate 32 12 : Accept }).state := if_neg (by rw [hran]; decide)
  have hbudget : (List.replicate 32 12)[c.ing]?.getD 0 ≠ 0 := by
    rw [List.getElem?_replicate, if_pos h.ing]
    decide
  have hturn : c.eg ∈ u.rotation32.filter u.hasSlice := List.mem_filter.2 ⟨(mem_rotation32 u).2 (hasSlice_lt hsl), hsl⟩
  rw [foldl_slice_single hu ((rotation32_nodup u).filter _) hturn hcr hbudget] at hexec
  exact ⟨_, hexec, (sendCell_lossy hu).1, Table.get_set_self (Table.wf_nil _) _ _⟩

/-! ### Cell writes (R203, R229 to R231, R288) -/

/-- The copy found under a frame and port is found changed after a change that keeps both. -/
theorem copy?_onCopy {g : Copy → Copy} (hg : ∀ c, (g c).fid = c.fid ∧ (g c).port = c.port) (s : State) (fid port : Nat) :
    (s.onCopy fid port g).copy? fid port = (s.copy? fid port).map g := by
  have hkey : ((fun c : Copy => decide (c.fid = fid) && decide (c.port = port)) ∘ fun c => if c.fid = fid ∧ c.port = port then g c else c)
      = fun c => decide (c.fid = fid) && decide (c.port = port) := by
    funext c
    simp only [Function.comp]
    split <;> simp [hg]
  simp only [State.copy?, State.onCopy, State.inPath, List.find?_map, hkey]
  cases hfind : s.path.copies.find? fun c => decide (c.fid = fid) && decide (c.port = port) with
  | none => rfl
  | some c =>
    have hc : c.fid = fid ∧ c.port = port := by simpa using List.find?_some hfind
    simp [hc]

theorem copy?_of_copies {s t : State} (h : t.path.copies = s.path.copies) (fid port : Nat) : t.copy? fid port = s.copy? fid port := by
  simp only [State.copy?, h]

/-- A copy that joins those on die is found where none was. -/
theorem copy?_of_joined {s t : State} {c : Copy} (hnone : s.copy? c.fid c.port = none) (h : t.path.copies = s.path.copies ++ [c]) :
    t.copy? c.fid c.port = some c := by
  unfold State.copy? at hnone ⊢
  rw [h, List.find?_append, hnone]
  simp

/-- The copies on die and the writes that wait, which the pool manager does not touch. -/
def State.copiesAndWrites (s : State) : List Copy × List (Nat × CellWr) := (s.path.copies, s.path.writeQ)

theorem onPool_copiesAndWrites (s : State) (sl : Nat) (g : Pool → Pool) : (s.onPool sl g).copiesAndWrites = s.copiesAndWrites := rfl
theorem setDesc_copiesAndWrites (s : State) (sl c : Nat) (d : Desc) : (s.setDesc sl c d).copiesAndWrites = s.copiesAndWrites := rfl
theorem raise_copiesAndWrites (s : State) (f : Fld) (i : Nat) : (s.raise f i).copiesAndWrites = s.copiesAndWrites := rfl

theorem popCell_copiesAndWrites (sl fuel : Nat) (bad : Bool) (s : State) :
    (State.popCell sl fuel bad s).2.copiesAndWrites = s.copiesAndWrites := by
  induction fuel generalizing bad s with
  | zero => rfl
  | succ fuel ih =>
    unfold State.popCell
    split
    · rfl
    · dsimp only
      split
      · rw [ih, onPool_copiesAndWrites]
      · split
        · rw [ih, raise_copiesAndWrites, onPool_copiesAndWrites, setDesc_copiesAndWrites, onPool_copiesAndWrites]
        · rfl

theorem fillCell_copiesAndWrites (s : State) (sl c owner pool : Nat) (bytes : List Byte) (prev : Option Nat) :
    (s.fillCell sl c owner pool bytes prev).copiesAndWrites = s.copiesAndWrites := by
  cases prev <;> rfl

theorem writeCell_copiesAndWrites (s : State) (sl owner pool : Nat) (bytes : List Byte) (prev : Option Nat) (bad : Bool) :
    (s.writeCell sl owner pool bytes prev bad).2.copiesAndWrites = s.copiesAndWrites := by
  have hpop := popCell_copiesAndWrites sl 70000 bad s
  unfold State.writeCell
  generalize State.popCell sl 70000 bad s = r at hpop
  obtain ⟨_ | c, u⟩ := r
  · exact hpop
  · exact (fillCell_copiesAndWrites ..).trans hpop

/-- A cell of a copy with no victim is stored: only its cells and its reservation change. -/
theorem storeCell_result {s : State} {w : CellWr} {c : Copy} (hc : s.copy? w.fid w.port = some c) (hlost : c.lost = false)
    (htaken : c.taken = []) (sl : Nat) (bad : Bool) : (s.storeCell sl w bad).path.writeQ = s.path.writeQ
      ∧ ∃ cells resv, (s.storeCell sl w bad).copy? w.fid w.port = some { c with cells := cells, resv := resv } := by
  have htake : s.takeCell sl c w.data = (s, false) := by simp [State.takeCell, htaken]
  have hwrite := writeCell_copiesAndWrites s sl c.queue c.pool w.data c.cells.getLast? bad
  generalize ht : s.storeCell sl w bad = t
  simp only [State.storeCell, hc, hlost, htake, Bool.false_eq_true, if_false] at ht
  by_cases hresv : c.resv = 0
  · rw [if_pos hresv] at ht
    subst ht
    exact ⟨rfl, c.cells, c.resv, hc⟩
  · rw [if_neg hresv] at ht
    generalize s.writeCell sl c.queue c.pool w.data c.cells.getLast? bad = r at hwrite ht
    obtain ⟨v, u⟩ := r
    obtain ⟨hcopies, hq⟩ := Prod.mk.inj hwrite
    have hcu : u.copy? w.fid w.port = some c := (copy?_of_copies hcopies ..).trans hc
    cases v with
    | none => exact ht ▸ ⟨hq, c.cells, c.resv, hcu⟩
    | some v =>
      subst ht
      refine ⟨hq, c.cells ++ [v], c.resv - 1, ?_⟩
      rw [copy?_onCopy, hcu]
      · rfl
      · exact fun _ => ⟨rfl, rfl⟩

/-- The write of its last cell makes a copy whole and returns what it has not used (R230). -/
theorem finishCopy_result {s : State} {w : CellWr} {c : Copy} (hc : s.copy? w.fid w.port = some c) (htaken : c.taken = []) (sl : Nat) :
    (s.finishCopy sl w).path.writeQ = s.path.writeQ ∧ (s.finishCopy sl w).copy? w.fid w.port
      = some { c with resv := 0, taken := [], whole := !c.lost, len := 128 * w.k + w.data.length } := by
  simp only [State.finishCopy, hc, htaken]
  refine ⟨rfl, ?_⟩
  rw [copy?_onCopy]
  · exact congrArg _ hc
  · exact fun _ => ⟨rfl, rfl⟩

/-- The copy that a first write founds on die (R229, R288). -/
def State.founded (s : State) (w : CellWr) (pool resv : Nat) : Copy :=
  { fid := w.fid, port := w.port, cls := w.cls, mc := w.mc, resv := resv, pool := pool, stamp := s.whorlNs, stampEpoch := s.epoch % 8192 }

/-- The only cell of a copy that is granted its cells makes it whole. -/
theorem performWrite_only {s : State} {w : CellWr} (hnone : s.copy? w.fid w.port = none) (hlast : w.last = true) (sl pool n : Nat) :
    (s.performWrite sl w (.die pool n [] 0) 0).path.writeQ = s.path.writeQ
    ∧ ∃ cells, (s.performWrite sl w (.die pool n [] 0) 0).copy? w.fid w.port
      = some { s.founded w pool n with cells := cells, resv := 0, whole := true, len := 128 * w.k + w.data.length } := by
  let u := s.inPath fun p => { p with copies := p.copies ++ [s.founded w pool n] }
  have hperform : s.performWrite sl w (.die pool n [] 0) 0 = (u.storeCell sl w false).finishCopy sl w := by
    simp [State.performWrite, hlast, u, State.founded]
  have hfound : u.copy? w.fid w.port = some (s.founded w pool n) := copy?_of_joined (c := s.founded w pool n) hnone rfl
  obtain ⟨hstoreQ, cells, resv, hstore⟩ := storeCell_result hfound rfl rfl sl false
  obtain ⟨hfinishQ, hfinish⟩ := finishCopy_result hstore rfl sl
  rw [hperform]
  exact ⟨hfinishQ.trans hstoreQ, cells, hfinish⟩

/-- A first cell of a green frame with its queue on die and below its limit is stored when its reservation is granted (R288). -/
theorem admitOnDie_of_room {s u : State} {sl : Nat} {w : CellWr} {f : Frame} (hk : w.k = 0) (hf : s.frame? w.fid = some f)
    (hcommits : s.path.commits = []) (hdown : s.portDown w.port = false) (hdeep : s.inDeep w.queue = false) (hcol : f.md.colour = 0)
    (hlim : s.cq w.queue + cellsFor w.need ≤ s.qLimit w.queue)
    (hres : s.reserve sl (s.poolOf w.queue) (cellsFor w.need) = (u, true)) :
    s.admitOnDie sl w [] = (u.addCq w.queue (cellsFor w.need), .die (s.poolOf w.queue) (cellsFor w.need) [] 0) := by
  simp [State.admitOnDie, hk, hf, hcommits, hdown, hdeep, hcol, Nat.not_lt.2 hlim, hres]

theorem reserve_granted_path {s u : State} {sl i n : Nat} (h : s.reserve sl i n = (u, true)) :
    u.path.copies = s.path.copies ∧ u.path.writeQ = s.path.writeQ ∧ u.time = s.time := by
  unfold State.reserve at h
  split at h
  · obtain ⟨rfl, -⟩ := Prod.mk.inj h
    exact ⟨rfl, rfl, rfl⟩
  · exact absurd (Prod.mk.inj h).2 (by decide)

/-- The state in which the one write that waits is decided. -/
def State.deciding (s : State) (sl : Nat) : State := (s.markRan 74 sl).inPath fun p => { p with writeQ := [] }

/-- The one write that waits is performed with its first decision, when that places it on die. -/
theorem cellWrite_single {s u : State} {sl pool n : Nat} {w : CellWr} (hsl : s.hasSlice sl = true) (hran : s.ran 74 sl = false)
    (hq : s.path.writeQ = [(sl, w)]) (hdue : w.due ≤ s.tick.slot) (hadm : (s.deciding sl).admitOnDie sl w [] = (u, .die pool n [] 0)) :
    exec (.cellWrite sl []) s = .next (u.performWrite sl w (.die pool n [] 0) 0).settle := by
  change execCellWrite sl [] s = _
  have hguard : (!s.hasSlice sl || s.ran 74 sl) = false := by simp [hsl, hran]
  have hnow : (sortBy (fun x : Nat × CellWr => x.2.due) ((s.markRan 74 sl).path.writeQ.filter fun x =>
      x.1 = sl && decide (x.2.due ≤ (s.markRan 74 sl).tick.slot))).take 12 = [(sl, w)] := by
    simp [State.markRan, State.inPath, hq, hdue, sortBy, insertBy]
  have hstate : ((s.markRan 74 sl).inPath fun p => { p with writeQ := p.writeQ.filter fun x => !([(sl, w)] : List (Nat × CellWr)).contains x })
      = s.deciding sl := by
    simp [State.deciding, State.markRan, State.inPath, hq]
  have horder : ∀ (v : State) n base, v.laneOrder n base [(w, 0)] = [(w, 0)] := fun _ _ _ => rfl
  simp only [execCellWrite, hguard, Bool.false_eq_true, if_false]
  rw [hnow, hstate]
  simp only [List.map_cons, List.map_nil, List.zipIdx_singleton, horder, List.foldl_cons, List.foldl_nil, hadm]
  rfl

/-- Settles O21: with one frame, staged copy or write in play, each command does one thing to it; the turns of the other egress slices
change nothing, and the pool manager leaves the copies alone. -/
theorem stagingGrantsAndWrites : Obligations.StagingGrantsAndWrites := by
  refine ⟨?entry, ?spilled, ?grant, ?write⟩
  case entry =>
    intro f d s hf hm hst hdue hdests hd hstaged hheld hll hroom
    have hfind : s.frame? f.id = some f := by simp [State.frame?, hf]
    let u := s.onFrame f.id Frame.entered
    have hempty : u.path.staged = [] := hstaged
    have hspill : u.spilling (Config.sliceOf f.port) (Config.sliceOf d.1) f.md.cls = false := by simp [State.spilling, hempty]
    have hexec := fabricEntry_single hf hm hst hdue
    rw [enterFabric_single hfind hdests hd hheld, stageOne_of_room (s := u) hspill hll hroom] at hexec
    exact ⟨_, _, hexec, congrArg (· ++ _) hempty, rfl, rfl, rfl, rfl, rfl, rfl, rfl⟩
  case spilled =>
    intro ing sq h r rest c s hh hr hc hspill hing heg hcls hfid hll hroom
    exact spillReturn_single hh hr hc hspill hing heg hcls hfid hll hroom
  case grant =>
    intro c f d s hran hc hsent hdests hsl hing hcls hll hstart hready hf hcr
    obtain ⟨t, hexec, hq, hcredit⟩ := cellGrant_single ⟨hc, hsent, hing, hcls, hll, hstart, hready, hf⟩ hran hsl hcr
    rw [hdests] at hq hcredit
    exact ⟨t, s.cellTo c f d, hexec, hq, rfl, hsent, rfl, by simp [State.cellTo, hsent], rfl, hcredit⟩
  case write =>
    intro sl w f s u hsl hran hq hdue hk hlast hf hnone hcommits hdown hdeep hcol hlim hres
    obtain ⟨hcopies, hwrites, htime⟩ := reserve_granted_path hres
    have hadm := admitOnDie_of_room (s := s.deciding sl) hk hf hcommits hdown hdeep hcol hlim hres
    have hnone' : (u.addCq w.queue (cellsFor w.need)).copy? w.fid w.port = none := (copy?_of_copies hcopies ..).trans hnone
    obtain ⟨hleft, cells, hcopy⟩ := performWrite_only hnone' hlast sl (s.poolOf w.queue) (cellsFor w.need)
    refine ⟨_, _, cellWrite_single hsl hran hq hdue hadm, hleft.trans hwrites, hcopy, rfl, ?_, ?_, rfl⟩
    · simp [hk]
    · exact congrArg (fun t => t.whorl / 2 ^ 32) htime

end Sys2Proof.Machine

/-!
The cell buffer's pool manager (O23): descriptors and pools after their writes, posts, the release of a cell, and what reclaim sweeps and scrub
visits do.
-/
namespace Sys2Proof.Machine
open Sys2Proof

/-! ### Descriptors and pools -/

/-- The descriptors, and the counts of the pools, are in canonical form. -/
abbrev DescWf (s : State) : Prop := Table.wf (fun _ => ({} : Desc)) s.path.desc = true
abbrev PoolWf (s : State) : Prop := Table.wf (fun _ => ({} : Pool)) s.path.pools = true

section
variable {s t : State} {sl c c' : Nat}

theorem cellKey_inj (sl : Nat) {c c' : Nat} (h : cellKey sl c' = cellKey sl c) : c' = c := Nat.add_left_cancel h

theorem desc_of_path (h : t.path.desc = s.path.desc) (sl c : Nat) : t.desc sl c = s.desc sl c := by unfold State.desc; rw [h]

theorem setDesc_wf (h : DescWf s) (sl c : Nat) (d : Desc) : DescWf (s.setDesc sl c d) := Table.wf_set h _ _

theorem desc_setDesc_self (h : DescWf s) (sl c : Nat) (d : Desc) : (s.setDesc sl c d).desc sl c = d := Table.get_set_self h _ _

theorem desc_setDesc_ne (h : DescWf s) (hne : c' ≠ c) (d : Desc) : (s.setDesc sl c d).desc sl c' = s.desc sl c' :=
  Table.get_set_ne h _ fun hk => hne (cellKey_inj sl hk)

@[simp] theorem desc_onPool (s : State) (i : Nat) (f : Pool → Pool) (sl c : Nat) : (s.onPool i f).desc sl c = s.desc sl c := rfl
@[simp] theorem pool_setDesc (s : State) (i c : Nat) (d : Desc) (sl : Nat) : (s.setDesc i c d).pool sl = s.pool sl := rfl

theorem setDesc_poolWf (h : PoolWf s) (sl c : Nat) (d : Desc) : PoolWf (s.setDesc sl c d) := h

theorem pool_onPool (h : PoolWf s) (sl : Nat) (f : Pool → Pool) : (s.onPool sl f).pool sl = f (s.pool sl) := Table.get_set_self h _ _

theorem onPool_wf (h : PoolWf s) (sl : Nat) (f : Pool → Pool) : PoolWf (s.onPool sl f) := Table.wf_set h _ _

end

/-! ### Posts (R242) -/

section
variable {s : State}

/-- A post is written to the log, waits, or is lost. -/
theorem post_cases (s : State) (kind : Nat) (data : List Byte) (lost : State → State) :
    s.post kind data lost = s.logEvent kind data ∨ s.post kind data lost = (s.inPath fun p => { p with posts := p.posts ++ [(kind, data)] })
    ∨ s.post kind data lost = lost s := by
  unfold State.post
  split
  · exact .inl rfl
  · split
    · exact .inr (.inl rfl)
    · exact .inr (.inr rfl)

/-- Of the data path a post changes the waiting posts at most. -/
theorem post_path (kind : Nat) (data : List Byte) {lost : State → State} (hlost : (lost s).path = s.path) :
    ∃ posts, (s.post kind data lost).path = { s.path with posts := posts } := by
  rcases post_cases s kind data lost with h | h | h
  · exact ⟨s.path.posts, by rw [h]; rfl⟩
  · exact ⟨s.path.posts ++ [(kind, data)], by rw [h]; rfl⟩
  · exact ⟨s.path.posts, by rw [h, hlost]⟩

theorem post_cnt (kind : Nat) (data : List Byte) : (s.post kind data id).cnt = s.cnt := by
  rcases post_cases s kind data id with h | h | h <;> rw [h] <;> rfl

/-- A lost post is counted and shown (R242). -/
def State.losePost (sl : Nat) (s : State) : State := (s.count .cbErrLostCnt sl 1).raise F.cbStat_ERR_LOST sl

/-- A cell-buffer error stands in two registers, and is posted. -/
theorem cbPost_eq (s : State) (sl kind addr claim recorded : Nat) :
    ∃ a t data, s.cbPost sl kind addr claim recorded = ((s.setReg .cbErrAddr sl a).setReg .cbErrTags sl t).post 0x1203 data (State.losePost sl) :=
  ⟨_, _, _, rfl⟩

theorem cbPost_path (s : State) (sl kind addr claim recorded : Nat) :
    ∃ posts, (s.cbPost sl kind addr claim recorded).path = { s.path with posts := posts } := by
  obtain ⟨a, t, data, h⟩ := cbPost_eq s sl kind addr claim recorded
  rw [h]
  exact post_path (s := (s.setReg .cbErrAddr sl a).setReg .cbErrTags sl t) _ _ rfl

theorem desc_cbPost (s : State) (i kind addr claim recorded sl c : Nat) :
    (s.cbPost i kind addr claim recorded).desc sl c = s.desc sl c := by
  obtain ⟨posts, h⟩ := cbPost_path s i kind addr claim recorded
  exact desc_of_path (by rw [h]) sl c

/-- A post of a cell-buffer error leaves every flag of CB_STAT but ERR_LOST. -/
theorem flag_cbPost (h : RegsWf s) {f : Fld} (hr : f.reg = .cbStat) (hb : f.lo + f.width ≤ 10 ∨ 11 ≤ f.lo) (sl kind addr claim recorded : Nat) :
    (s.cbPost sl kind addr claim recorded).flag f sl = s.flag f sl := by
  obtain ⟨a, t, data, hpost⟩ := cbPost_eq s sl kind addr claim recorded
  obtain ⟨u, hu⟩ : ∃ u, u = (s.setReg .cbErrAddr sl a).setReg .cbErrTags sl t := ⟨_, rfl⟩
  have hwf : RegsWf u := hu ▸ wf_setReg (wf_setReg h ..) ..
  have hset : u.flag f sl = s.flag f sl := by
    refine flag_of_reg ?_
    rw [hu, hr, reg_setReg_ne (wf_setReg h ..) _ (by simp), reg_setReg_ne h _ (by simp)]
  rw [hpost, ← hu, ← hset]
  rcases post_cases u 0x1203 data (State.losePost sl) with hp | hp | hp
  · rw [hp]; rfl
  · rw [hp]; rfl
  · rw [hp]; exact flag_raise_other (s := u.count .cbErrLostCnt sl 1) hwf (by decide) sl hr hb

end

/-! ### Pushing, releasing and freeing a cell (R226, R237, R238) -/

section
variable {s : State} {sl c : Nat}

/-- A FREE cell that is off the list is put on it and counted. -/
theorem pushCell_of_off (hst : (s.desc sl c).state = 0) (hoff : (s.desc sl c).onlist = false) :
    s.pushCell sl c = (s.setDesc sl c { s.desc sl c with onlist := true }).onPool sl fun p => { p with free := p.free + 1, back := p.back ++ [c] } := by
  simp [State.pushCell, hst, hoff]

theorem pushCell_of_on (hon : (s.desc sl c).onlist = true) : s.pushCell sl c = s := by simp [State.pushCell, hon]

theorem desc_pushCell_self (h : DescWf s) (hst : (s.desc sl c).state = 0) : (s.pushCell sl c).desc sl c = { s.desc sl c with onlist := true } := by
  cases hon : (s.desc sl c).onlist with
  | true => rw [pushCell_of_on hon, ← hon]
  | false => rw [pushCell_of_off hst hon]; exact desc_setDesc_self h _ _ _

/-- A push changes nothing, or lists the cell and counts it. -/
theorem pushCell_cases (s : State) (sl c : Nat) :
    s.pushCell sl c = s ∨ s.pushCell sl c
      = (s.setDesc sl c { s.desc sl c with onlist := true }).onPool sl fun p => { p with free := p.free + 1, back := p.back ++ [c] } := by
  unfold State.pushCell
  dsimp only
  split
  · exact .inl rfl
  · exact .inr rfl

theorem pushCell_wf (h : DescWf s) (sl c : Nat) : DescWf (s.pushCell sl c) := by
  rcases pushCell_cases s sl c with hp | hp <;> rw [hp]
  · exact h
  · exact setDesc_wf h ..

theorem desc_pushCell_ne (h : DescWf s) {c' : Nat} (hne : c' ≠ c) : (s.pushCell sl c).desc sl c' = s.desc sl c' := by
  rcases pushCell_cases s sl c with hp | hp <;> rw [hp]
  rw [desc_onPool, desc_setDesc_ne h hne]

/-- A released cell is retired, or becomes FREE and is pushed. -/
theorem release_cases (s : State) (sl c : Nat) :
    s.release sl c = s.setDesc sl c { state := 3, onlist := false }
    ∨ s.release sl c = (s.setDesc sl c { state := 0, onlist := false, swn := (s.desc sl c).swn }).pushCell sl c := by
  unfold State.release
  dsimp only
  split
  · exact .inl rfl
  · exact .inr rfl

theorem release_wf (h : DescWf s) (sl c : Nat) : DescWf (s.release sl c) := by
  rcases release_cases s sl c with hr | hr <;> rw [hr]
  · exact setDesc_wf h ..
  · exact pushCell_wf (setDesc_wf h ..) ..

/-- The release of a cell leaves the descriptors of the others. -/
theorem desc_release_ne (h : DescWf s) {c' : Nat} (hne : c' ≠ c) : (s.release sl c).desc sl c' = s.desc sl c' := by
  rcases release_cases s sl c with hr | hr <;> rw [hr]
  · exact desc_setDesc_ne h hne _
  · rw [desc_pushCell_ne (setDesc_wf h ..) hne, desc_setDesc_ne h hne]

/-- A cell that is not marked for retirement becomes FREE and joins the list. -/
theorem release_of_unmarked (h : DescWf s) (hret : (s.desc sl c).retPend = false) :
    s.release sl c = ((s.setDesc sl c { onlist := false, swn := (s.desc sl c).swn }).setDesc sl c { swn := (s.desc sl c).swn }).onPool sl
      fun p => { p with free := p.free + 1, back := p.back ++ [c] } := by
  obtain ⟨u, hu⟩ : ∃ u, u = s.setDesc sl c { onlist := false, swn := (s.desc sl c).swn } := ⟨_, rfl⟩
  have hd : u.desc sl c = { onlist := false, swn := (s.desc sl c).swn } := hu ▸ desc_setDesc_self h sl c _
  have hpush := pushCell_of_off (s := u) (sl := sl) (c := c) (by rw [hd]) (by rw [hd])
  rw [hd] at hpush
  simpa [State.release, hret, ← hu] using hpush

theorem desc_release_self (h : DescWf s) (hret : (s.desc sl c).retPend = false) : (s.release sl c).desc sl c = { swn := (s.desc sl c).swn } := by
  rw [release_of_unmarked h hret, desc_onPool, desc_setDesc_self (setDesc_wf h ..)]

theorem pool_release (h : DescWf s) (hp : PoolWf s) (hret : (s.desc sl c).retPend = false) :
    (s.release sl c).pool sl = { s.pool sl with free := (s.pool sl).free + 1, back := (s.pool sl).back ++ [c] } := by
  rw [release_of_unmarked h hret, pool_onPool (setDesc_poolWf (setDesc_poolWf hp ..) ..), pool_setDesc, pool_setDesc]

theorem release_reclaim (s : State) (sl c : Nat) : (s.release sl c).path.reclaim = s.path.reclaim := by
  rcases release_cases s sl c with hr | hr <;> rw [hr]
  · rfl
  · rcases pushCell_cases (s.setDesc sl c _) sl c with hp | hp <;> rw [hp] <;> rfl

theorem release_cnt (s : State) (sl c : Nat) : (s.release sl c).cnt = s.cnt := by
  rcases release_cases s sl c with hr | hr <;> rw [hr]
  · rfl
  · rcases pushCell_cases (s.setDesc sl c _) sl c with hp | hp <;> rw [hp] <;> rfl

/-- A cell that its owner presents at its own address is freed. -/
theorem freeCell_of_owner {qu : Nat} (hsl : sl < 32) (hc : c < 65536) (hst : (s.desc sl c).state = 1) (hown : (s.desc sl c).owner = qu)
    (charged : Bool) :
    s.freeCell sl (cellAddr sl c) qu charged
      = ((if charged then s.onPool sl fun p => p.subHeld (s.desc sl c).pool 1 else s).release sl c, .freed) := by
  have hcell : cellAddr sl c / 128 % 65536 = c := by unfold cellAddr cellKey; omega
  have halign : cellAddr sl c % 128 = 0 := by unfold cellAddr; omega
  have hslice : cellAddr sl c / 8388608 % 32 = sl := by unfold cellAddr cellKey; omega
  simp [State.freeCell, hcell, halign, hslice, hst, hown]

end

/-! ### Reclaim sweeps (R244) -/

section
variable {s : State} {sl c qu : Nat}

/-- The sweeps of a slice once a queue's sweep has started in a slot. -/
def Reclaim.started (r : Reclaim) (qu now : Nat) : Reclaim :=
  { r with swn := (r.swn + 1) % 16, active := some qu, last := qu, start := now, waiting := r.waiting.erase qu }

/-- A sweep starts of the first waiting queue whose on-die part is empty. -/
theorem reclaimSweepStart_of_waiting {r : Reclaim} (hr : Table.get (fun _ => {}) s.path.reclaim sl = r) (hidle : r.active = none)
    (hfind : r.waiting.find? s.onDieEmpty = some qu) :
    exec (.reclaimSweepStart sl) s
      = .next (s.inPath fun p => { p with reclaim := Table.set (fun _ => {}) p.reclaim sl (r.started qu s.tick.slot) }) := by
  change execReclaimSweepStart sl s = _
  simp only [execReclaimSweepStart, hr, hidle, hfind, Reclaim.started]

/-- The cells that a sweep of a queue finds in a slice: ALLOC, of that queue and stamped with another number. -/
def State.sweepFinds (s : State) (sl qu swn : Nat) : List Nat :=
  (s.path.desc.filter fun e => e.1 / 65536 = sl && e.2.state == 1 && e.2.owner == qu && e.2.swn != swn).map (·.1 % 65536)

/-- A sweep frees and counts one cell. -/
def State.sweepCell (sl qu : Nat) (s : State) (c : Nat) : State := (s.freeCell sl (cellAddr sl c) qu true).1.count .cbReclaimCnt sl 1

/-- A sweep that ran for 4,096 slots frees what it finds, ends, and is posted. -/
theorem reclaimSweepEnd_of_due {r : Reclaim} (hr : Table.get (fun _ => {}) s.path.reclaim sl = r) (hact : r.active = some qu)
    (hdue : r.start + 4096 ≤ s.tick.slot) :
    ∃ data, exec (.reclaimSweepEnd sl) s = .next ((((s.sweepFinds sl qu r.swn).foldl (State.sweepCell sl qu) s).inPath fun p =>
      { p with reclaim := Table.set (fun _ => {}) p.reclaim sl { r with active := none } }).post 0x120A data id) := by
  refine ⟨leBytes 4 qu ++ leBytes 4 (s.sweepFinds sl qu r.swn).length, ?_⟩
  change execReclaimSweepEnd sl s = _
  simp only [execReclaimSweepEnd, hr, hact, if_neg (Nat.not_lt.2 hdue)]
  rfl

/-- Where one cell is listed, and it is of the queue and stamped with another number, the sweep finds that cell. -/
theorem sweepFinds_single {d : Desc} {swn : Nat} (hc : c < 65536) (hd : s.path.desc = [(cellKey sl c, d)]) (hst : d.state = 1) (hown : d.owner = qu)
    (hswn : d.swn ≠ swn) : s.sweepFinds sl qu swn = [c] := by
  have hdiv : cellKey sl c / 65536 = sl := by unfold cellKey; omega
  have hmod : cellKey sl c % 65536 = c := by unfold cellKey; omega
  simp [State.sweepFinds, hd, hdiv, hmod, hst, hown, hswn]

theorem desc_single {d : Desc} (hd : s.path.desc = [(cellKey sl c, d)]) : s.desc sl c = d := by simp [State.desc, hd, Table.get]

/-- The sweep puts an ALLOC cell of the queue, not marked for retirement, back on the list, and leaves the sweeps. -/
theorem sweepCell_frees {d : Desc} (h : DescWf s) (hsl : sl < 32) (hc : c < 65536) (hd : s.desc sl c = d) (hst : d.state = 1) (hown : d.owner = qu)
    (hret : d.retPend = false) :
    (s.sweepCell sl qu c).desc sl c = { swn := d.swn } ∧ (s.sweepCell sl qu c).path.reclaim = s.path.reclaim
    ∧ (s.sweepCell sl qu c).cnt = (s.count .cbReclaimCnt sl 1).cnt := by
  subst hd
  rw [State.sweepCell, freeCell_of_owner hsl hc hst hown true]
  exact ⟨desc_release_self (s := s.onPool sl fun p => p.subHeld (s.desc sl c).pool 1) h hret, release_reclaim .., by
    rw [State.count, release_cnt]; rfl⟩

end

/-! ### The data scrub (R248) -/

/-- The data scrub of a slice visits a cell in this slot: it is enabled, its divider admits the slot, and the die is cool. -/
structure DataScrubs (s : State) (sl c : Nat) : Prop where
  slice : s.hasSlice sl = true
  cell : c < 65536
  enabled : s.flag F.cbCtl_SCRUB_EN sl = true
  turn : s.tick.slot % 2 ^ s.fld F.cbCtl_SCRUB_DIV sl = 0
  cool : s.fld F.thmStat_LEVEL 0 < 2

/-- The data scrub has moved past a cell. -/
def State.scrubbed (s : State) (sl c : Nat) : State := s.setReg .cbScrubPos sl (word ((c + 1) % 65536))

/-- The state after a visit that found a single-bit error, and after one that found an uncorrectable error, before firmware acts on it. -/
def State.correctable (s : State) (sl c : Nat) : State := ((s.scrubbed sl c).count .cbEccCeCnt sl 1).raise F.cbStat_ECC_CE sl
def State.uncorrectable (s : State) (sl c kind : Nat) : State :=
  (((s.scrubbed sl c).count .cbEccUeCnt sl 1).raise F.cbStat_ECC_UE sl).cbPost sl kind (cellAddr sl c) (s.desc sl c).owner (s.desc sl c).owner

section
variable {s : State} {sl c err : Nat}

theorem DataScrubs.guard (h : DataScrubs s sl c) :
    (!s.hasSlice sl || decide (65536 ≤ c) || !s.flag F.cbCtl_SCRUB_EN sl || decide (s.tick.slot % 2 ^ s.fld F.cbCtl_SCRUB_DIV sl ≠ 0)
      || decide (2 ≤ s.fld F.thmStat_LEVEL 0)) = false := by
  obtain ⟨hslice, hcell, hen, hturn, hcool⟩ := h
  simp [hslice, hen, hturn, hcell, hcool]

/-- A cell that holds no data, or is found good, is no longer a bad one. -/
theorem dataScrub_good (h : DataScrubs s sl c) (hgood : (s.desc sl c).state ≠ 1 ∨ err = 0) :
    exec (.cbDataScrubVisit sl c err) s
      = .next ((s.scrubbed sl c).inPath fun p => { p with badCells := p.badCells.erase (cellKey sl c) }) := by
  have hdesc : (s.setReg .cbScrubPos sl (word ((c + 1) % 65536))).desc sl c = s.desc sl c := rfl
  change execCbDataScrubVisit sl c err s = _
  simp only [execCbDataScrubVisit, h.guard, Bool.false_eq_true, if_false, hdesc]
  rcases hgood with hst | rfl
  · rw [if_pos hst]; rfl
  · split <;> rfl

/-- A single-bit error of an ALLOC cell is counted and shown, and the cell waits for its write-back. -/
theorem dataScrub_correctable (h : DataScrubs s sl c) (hst : (s.desc sl c).state = 1) :
    exec (.cbDataScrubVisit sl c 1) s = .next ((s.correctable sl c).inPath fun p =>
      { p with badCells := p.badCells.erase (cellKey sl c), fixes := p.fixes ++ [(sl, c)] }) := by
  have hdesc : (s.setReg .cbScrubPos sl (word ((c + 1) % 65536))).desc sl c = s.desc sl c := rfl
  change execCbDataScrubVisit sl c 1 s = _
  simp only [execCbDataScrubVisit, h.guard, Bool.false_eq_true, if_false, hdesc, hst]
  rfl

theorem retireCell_regs (s : State) (sl c : Nat) : (s.retireCell sl c).regs = s.regs := by
  unfold State.retireCell
  dsimp only
  split <;> rfl

theorem exists_next_ite {b : Prop} [Decidable b] {t u : State} {Q : State → Prop} (ht : Q t) (hu : Q u) :
    ∃ v, (if b then Host.Outcome.next t else .next u : Host.Outcome State Fault Refusal) = .next v ∧ Q v := by
  split
  · exact ⟨t, rfl, ht⟩
  · exact ⟨u, rfl, hu⟩

/-- An uncorrectable error of an ALLOC cell is posted; what firmware does about the cell leaves the registers. -/
theorem dataScrub_uncorrectable (h : DataScrubs s sl c) (hst : (s.desc sl c).state = 1) (herr : 2 ≤ err) :
    ∃ kind t, exec (.cbDataScrubVisit sl c err) s = .next t ∧ t.regs = (s.uncorrectable sl c kind).regs := by
  have hdesc : (s.setReg .cbScrubPos sl (word ((c + 1) % 65536))).desc sl c = s.desc sl c := rfl
  obtain ⟨e, rfl⟩ : ∃ e, err = e + 2 := ⟨err - 2, by omega⟩
  change ∃ kind t, execCbDataScrubVisit sl c (e + 2) s = .next t ∧ _
  simp only [execCbDataScrubVisit, h.guard, Bool.false_eq_true, if_false, hdesc, hst, ne_eq, not_true_eq_false]
  exact ⟨_, exists_next_ite (Q := fun t => t.regs = (s.uncorrectable sl c _).regs) (retireCell_regs _ sl c) rfl⟩

theorem scrubbed_wf (h : RegsWf s) (sl c : Nat) : RegsWf (s.scrubbed sl c) := wf_setReg h _ _ _

theorem reg_scrubbed (h : RegsWf s) (sl c : Nat) : (s.scrubbed sl c).reg .cbScrubPos sl = word ((c + 1) % 65536) := reg_setReg_self h _ _ _

/-- A single-bit error shows, and the position stands. -/
theorem correctable_shows (h : RegsWf s) (sl c : Nat) :
    (s.correctable sl c).reg .cbScrubPos sl = word ((c + 1) % 65536) ∧ (s.correctable sl c).flag F.cbStat_ECC_CE sl = true :=
  ⟨(reg_raise_ne (s := (s.scrubbed sl c).count .cbEccCeCnt sl 1) (scrubbed_wf h sl c) fun hc => absurd hc.1 (by decide)).trans (reg_scrubbed h sl c),
    flag_raise_self (s := (s.scrubbed sl c).count .cbEccCeCnt sl 1) (scrubbed_wf h sl c) (by decide) sl⟩

/-- An uncorrectable error shows, and the position stands. -/
theorem uncorrectable_shows (h : Inv s) (sl c kind : Nat) :
    (s.uncorrectable sl c kind).reg .cbScrubPos sl = word ((c + 1) % 65536) ∧ (s.uncorrectable sl c kind).flag F.cbStat_ECC_UE sl = true := by
  obtain ⟨u, hu⟩ : ∃ u, u = ((s.scrubbed sl c).count .cbEccUeCnt sl 1).raise F.cbStat_ECC_UE sl := ⟨_, rfl⟩
  have hwf : RegsWf u := hu ▸ wf_raise (s := (s.scrubbed sl c).count .cbEccUeCnt sl 1) (scrubbed_wf h.regs sl c) _ _
  have hinv : Inv u := ⟨hwf, hu ▸ h.slot, hu ▸ h.whorl⟩
  have hpos : u.reg .cbScrubPos sl = word ((c + 1) % 65536) :=
    hu ▸ (reg_raise_ne (s := (s.scrubbed sl c).count .cbEccUeCnt sl 1) (scrubbed_wf h.regs sl c) fun hc => absurd hc.1 (by decide)).trans
      (reg_scrubbed h.regs sl c)
  have hflag : u.flag F.cbStat_ECC_UE sl = true :=
    hu ▸ flag_raise_self (s := (s.scrubbed sl c).count .cbEccUeCnt sl 1) (scrubbed_wf h.regs sl c) (by decide) sl
  have hposted := keeps_cbPost (M := { parts := [.meet, .cnt, .log, .path], regs := [.cbErrAddr, .cbErrTags, .cbStat] }) (sl := sl)
    (kind := kind) (addr := cellAddr sl c) (claim := (s.desc sl c).owner) (recorded := (s.desc sl c).owner) (keeps_self hinv)
    (Change.le_self _)
  rw [State.uncorrectable, ← hu]
  exact ⟨(hposted.within.regs .cbScrubPos sl (by decide)).trans hpos, (flag_cbPost hwf rfl (by decide) ..).trans hflag⟩

theorem scrubWriteBack_first {rest : List (Nat × Nat)} (hfix : s.path.fixes = (sl, c) :: rest) :
    exec (.scrubWriteBack sl) s = .next (s.inPath fun p => { p with fixes := rest }) := by
  change execScrubWriteBack sl s = _
  simp [execScrubWriteBack, State.inPath, hfix]

end

/-! ### The descriptor scrub (R249) -/

section
variable {s : State} {sl c : Nat}

/-- A descriptor put into quarantine (R240, R249). -/
def Desc.quarantined (d : Desc) (cause : Nat) (keep : Bool) : Desc :=
  { d with state := 2, onlist := d.onlist && d.state == 0, qcause := cause, debited := !keep, owner := if cause = 2 then 0x3FFF else d.owner }

theorem quarantine_desc (s : State) (sl c cause : Nat) (keep : Bool) :
    (s.quarantine sl c cause keep).path.desc = (s.setDesc sl c ((s.desc sl c).quarantined cause keep)).path.desc := rfl

/-- An uncorrectable descriptor puts its cell into quarantine, with cause 2. -/
theorem descError_quarantines (h : DescWf s) (hst : (s.desc sl c).state ≠ 2) :
    ((s.descError sl c).desc sl c).state = 2 ∧ ((s.descError sl c).desc sl c).qcause = 2 := by
  obtain ⟨u, hu⟩ : ∃ u, u = (s.quarantine sl c 2 true).raise F.cbStat_DESC_UE sl := ⟨_, rfl⟩
  have hpath : u.path.desc = (s.setDesc sl c ((s.desc sl c).quarantined 2 true)).path.desc := by rw [hu, raise_path, quarantine_desc]
  have hwf : DescWf u := by rw [DescWf, hpath]; exact setDesc_wf h ..
  have hquar : u.desc sl c = (s.desc sl c).quarantined 2 true := (desc_of_path hpath sl c).trans (desc_setDesc_self h ..)
  have herr : s.descError sl c
      = (u.setDesc sl c { u.desc sl c with onlist := (s.desc sl c).onlist }).cbPost sl 8 (cellAddr sl c) 0x3FFF 0x3FFF := by
    rw [hu]
    simp only [State.descError, beq_iff_eq, if_neg hst]
  rw [herr, desc_cbPost, desc_setDesc_self hwf, hquar]
  exact ⟨rfl, rfl⟩

/-- The descriptor scrub looks at a cell of a present slice. -/
theorem descriptorScrub_runs (hsl : s.hasSlice sl = true) (hc : c < 65536) :
    exec (.descriptorScrubVisit sl c 0) s = .next (if s.flag F.cbStat_INIT_DONE sl then s.pushCell sl c else s)
    ∧ exec (.descriptorScrubVisit sl c 1) s = .next ((s.count .cbEccCeCnt sl 1).raise F.cbStat_ECC_CE sl)
    ∧ exec (.descriptorScrubVisit sl c 2) s = .next (s.descError sl c) := by
  have hguard : (!s.hasSlice sl || decide (65536 ≤ c)) = false := by simp [hsl, hc]
  change execDescriptorScrubVisit sl c 0 s = _ ∧ execDescriptorScrubVisit sl c 1 s = _ ∧ execDescriptorScrubVisit sl c 2 s = _
  simp only [execDescriptorScrubVisit, hguard, Bool.false_eq_true, if_false, and_self]

end

/-! ### The statement -/

/-- Settles O23: each command is an equation for what it does to one sweep or one cell; posts leave the cells and all flags but their own. -/
theorem sweepsAndScrubsOfTheCellBuffer : Obligations.SweepsAndScrubsOfTheCellBuffer := by
  refine ⟨?start, ?finish, ?dataScrub, ?writeBack, ?descScrub⟩
  case start =>
    intro sl qu s _ hidle hwf hfind
    exact ⟨_, _, reclaimSweepStart_of_waiting rfl hidle hfind, Table.get_set_self hwf _ _, rfl, rfl, rfl, rfl, rfl⟩
  case finish =>
    intro sl c qu d r s hsl hc hrec hdesc hr hact hdue hd hst hown hswn hret
    obtain ⟨hcell, hreclaim, hcnt⟩ := sweepCell_frees hdesc hsl hc (desc_single hd) hst hown hret
    obtain ⟨data, hexec⟩ := reclaimSweepEnd_of_due hr hact hdue
    rw [sweepFinds_single hc hd hst hown hswn, List.foldl_cons, List.foldl_nil] at hexec
    obtain ⟨u, hu⟩ : ∃ u, u = (s.sweepCell sl qu c).inPath fun p =>
      { p with reclaim := Table.set (fun _ => {}) p.reclaim sl { r with active := none } } := ⟨_, rfl⟩
    rw [← hu] at hexec
    obtain ⟨posts, hpath⟩ := post_path (s := u) 0x120A data (lost := id) rfl
    have hfreed : (u.post 0x120A data id).desc sl c = { swn := d.swn } := (desc_of_path (by rw [hpath, hu]; rfl) sl c).trans hcell
    refine ⟨_, hexec, by rw [hfreed], by rw [hfreed], ?_, (post_cnt ..).trans (hu ▸ hcnt)⟩
    rw [hpath, hu]
    exact congrArg Reclaim.active (Table.get_set_self (hreclaim ▸ hrec) sl _)
  case dataScrub =>
    intro sl c err s h hsl hc hen hturn hcool
    have hruns : DataScrubs s sl c := ⟨hsl, hc, hen, hturn, hcool⟩
    by_cases hgood : (s.desc sl c).state ≠ 1 ∨ err = 0
    case pos =>
      have hnone : (s.desc sl c).state = 1 → err = 0 := fun hst => hgood.resolve_left (not_not_intro hst)
      exact ⟨_, dataScrub_good hruns hgood, reg_scrubbed h.regs sl c, fun hst _ => absurd (hnone hst) (by omega),
        fun hst _ => absurd (hnone hst) (by omega), fun _ => ⟨rfl, rfl, rfl⟩⟩
    case neg =>
      obtain ⟨hst, herr⟩ := not_or.1 hgood
      rw [not_not] at hst
      by_cases he : err = 1
      · subst he
        obtain ⟨hpos, hshown⟩ := correctable_shows h.regs sl c
        exact ⟨_, dataScrub_correctable hruns hst, hpos, fun _ _ => ⟨rfl, hshown⟩, fun _ he => absurd he (by decide),
          fun he => absurd he (by decide)⟩
      · obtain ⟨kind, t, hexec, hregs⟩ := dataScrub_uncorrectable hruns hst (show 2 ≤ err by omega)
        obtain ⟨hpos, hshown⟩ := uncorrectable_shows h sl c kind
        have hreg : ∀ r, t.reg r sl = (s.uncorrectable sl c kind).reg r sl := fun r => by unfold State.reg; rw [hregs]
        exact ⟨t, hexec, (hreg _).trans hpos, fun _ h1 => absurd h1 he, fun _ _ => (flag_of_reg (hreg _)).trans hshown,
          fun h0 => absurd h0 herr⟩
  case writeBack =>
    intro sl c rest s hfix
    exact scrubWriteBack_first hfix
  case descScrub =>
    intro sl c s _ hwf hsl hc
    obtain ⟨hgood, hcorrected, hbad⟩ := descriptorScrub_runs hsl hc
    refine ⟨fun hinit hst => ?_, hcorrected, fun hst => ⟨_, hbad, descError_quarantines hwf hst⟩⟩
    rw [if_pos hinit] at hgood
    refine ⟨_, hgood, ?_, ?_⟩ <;> rw [desc_pushCell_self hwf hst]
    exact hst

end Sys2Proof.Machine

/-!
Packets of the cell buffer (O46): the records of quarantined cells, their release, retirement of cells, requests for sweeps and the settings of the
scrub.
-/
namespace Sys2Proof.Machine
open Sys2Proof

/-! ### Quarantined cells (R252) -/

namespace Table
variable {V : Type}

/-- An entry listed at an index is what the index holds. -/
theorem get_of_mem {d : Nat → V} {lo k : Nat} {t : Table V} {v : V} (ht : sortedFrom lo t = true) (hm : (k, v) ∈ t) : get d t k = v ∧ lo ≤ k := by
  induction t generalizing lo with
  | nil => exact absurd hm List.not_mem_nil
  | cons e t ih =>
    simp only [sortedFrom, Bool.and_eq_true, decide_eq_true_eq] at ht
    rcases List.mem_cons.1 hm with rfl | hm
    · exact ⟨by simp [get], ht.1⟩
    · obtain ⟨hget, hle⟩ := ih ht.2 hm
      refine ⟨?_, by omega⟩
      simp only [get]
      rw [if_neg (by omega), if_neg (by omega), hget]

/-- The entries of a table in order are distinct. -/
theorem nodup_of_sorted {lo : Nat} {t : Table V} (ht : sortedFrom lo t = true) : t.Nodup := by
  induction t generalizing lo with
  | nil => exact List.nodup_nil
  | cons e t ih =>
    simp only [sortedFrom, Bool.and_eq_true, decide_eq_true_eq] at ht
    refine List.nodup_cons.2 ⟨fun hm => ?_, ih ht.2⟩
    have hle := (get_of_mem (d := fun _ => e.2) ht.2 hm).2
    omega

end Table

section
variable {s : State} {sl c first : Nat} {d : Desc}

theorem descSorted (h : DescWf s) : Table.sortedFrom 0 s.path.desc = true := (Bool.and_eq_true_iff.1 h).1

/-- A quarantined cell of the list is one whose descriptor says so. -/
theorem desc_of_mem_quarCells (h : DescWf s) (hm : (c, d) ∈ s.quarCells sl first) : s.desc sl c = d ∧ d.state = 2 := by
  obtain ⟨⟨k, v⟩, hin, heq⟩ := List.mem_map.1 hm
  simp only [List.mem_filter, Bool.and_eq_true, beq_iff_eq] at hin
  obtain ⟨hmem, ⟨hslice, -⟩, hst⟩ := hin
  obtain ⟨rfl, rfl⟩ : k % 65536 = c ∧ v = d := Prod.mk.inj heq
  have hkey : cellKey sl (k % 65536) = k := by unfold cellKey; omega
  refine ⟨?_, hst⟩
  rw [State.desc, hkey]
  exact (Table.get_of_mem (descSorted h) hmem).1

/-- The list names each cell once. -/
theorem quarCells_nodup (h : DescWf s) (sl first : Nat) : ((s.quarCells sl first).map (·.1)).Nodup := by
  rw [State.quarCells, List.map_map]
  refine List.Nodup.map_on ?_ ((Table.nodup_of_sorted (descSorted h)).filter _)
  rintro ⟨k, v⟩ hk ⟨k', v'⟩ hk' heq
  simp only [List.mem_filter, Bool.and_eq_true, beq_iff_eq] at hk hk'
  obtain ⟨hmem, ⟨hslice, -⟩, -⟩ := hk
  obtain ⟨hmem', ⟨hslice', -⟩, -⟩ := hk'
  obtain rfl : k = k' := by simp only [Function.comp_apply] at heq; omega
  rw [← (Table.get_of_mem (d := fun _ => {}) (descSorted h) hmem).1, (Table.get_of_mem (d := fun _ => {}) (descSorted h) hmem').1]

/-! ### Releasing them -/

/-- A cell leaves the count of the quarantined ones; a debit not yet made leaves HELD of the pool named (R252). -/
def State.unquarCount (s : State) (sl pool : Nat) (debited : Bool) : State :=
  s.onPool sl fun k => { (if debited then k else k.subHeld pool 1) with quar := k.quar - 1 }

theorem unquarantine_eq (s : State) (sl c pool : Nat) : s.unquarantine sl c pool = (s.unquarCount sl pool (s.desc sl c).debited).release sl c := rfl

theorem unquarantine_wf (h : DescWf s) (sl c pool : Nat) : DescWf (s.unquarantine sl c pool) :=
  release_wf (s := s.unquarCount sl pool (s.desc sl c).debited) h sl c

theorem desc_unquarantine_self (h : DescWf s) (hret : (s.desc sl c).retPend = false) (pool : Nat) :
    (s.unquarantine sl c pool).desc sl c = { swn := (s.desc sl c).swn } :=
  desc_release_self (s := s.unquarCount sl pool (s.desc sl c).debited) h hret

theorem desc_unquarantine_ne (h : DescWf s) {c' : Nat} (hne : c' ≠ c) (pool : Nat) : (s.unquarantine sl c pool).desc sl c' = s.desc sl c' :=
  desc_release_ne (s := s.unquarCount sl pool (s.desc sl c).debited) h hne

/-- The released cell leaves the count of the quarantined ones and joins the FREE ones. -/
theorem pool_unquarantine (h : DescWf s) (hp : PoolWf s) (hret : (s.desc sl c).retPend = false) (pool : Nat) :
    ((s.unquarantine sl c pool).pool sl).quar = (s.pool sl).quar - 1 ∧ ((s.unquarantine sl c pool).pool sl).free = (s.pool sl).free + 1
    ∧ ((s.unquarantine sl c pool).pool sl).held
      = if (s.desc sl c).debited then (s.pool sl).held else listModify (· - 1) (s.pool sl).held pool := by
  obtain ⟨u, hu⟩ : ∃ u, u = s.unquarCount sl pool (s.desc sl c).debited := ⟨_, rfl⟩
  have hcount : u.pool sl = { (if (s.desc sl c).debited then s.pool sl else (s.pool sl).subHeld pool 1) with quar := (s.pool sl).quar - 1 } :=
    hu ▸ pool_onPool hp ..
  rw [unquarantine_eq, ← hu, pool_release (s := u) (hu ▸ h) (hu ▸ onPool_wf hp ..) (hu ▸ hret), hcount]
  cases (s.desc sl c).debited <;> exact ⟨rfl, rfl, rfl⟩

/-- The release of the debited ones makes each of them FREE, and leaves the others. -/
theorem unquarantine_debited (h : DescWf s) (hm : (c, d) ∈ s.quarCells sl 0) {u : State} (hu : u.path.desc = s.path.desc) {t : State}
    (ht : t = ((s.quarCells sl 0).filter fun e => e.2.debited).foldl (fun s e => s.unquarantine sl e.1 0) u) :
    (d.debited = true → d.retPend = false → (t.desc sl c).state = 0) ∧ (d.debited = false → t.desc sl c = d) := by
  obtain ⟨l, hl⟩ : ∃ l, l = ((s.quarCells sl 0).filter fun e => e.2.debited).map (·.1) := ⟨_, rfl⟩
  have hfold : t = l.foldl (fun s c => s.unquarantine sl c 0) u := by rw [ht, hl, List.foldl_map]
  have hnodup : l.Nodup := hl ▸ (quarCells_nodup h sl 0).sublist (List.filter_sublist.map _)
  have hwf : DescWf u := by rw [DescWf, hu]; exact h
  obtain ⟨hdesc, -⟩ := desc_of_mem_quarCells h hm
  have hkeep : ∀ v a, DescWf v → a ≠ c → (v.unquarantine sl a 0).desc sl c = v.desc sl c := fun v a hv ha =>
    desc_unquarantine_ne hv (Ne.symm ha) 0
  have hwfs : ∀ v a, DescWf v → DescWf (v.unquarantine sl a 0) := fun v a hv => unquarantine_wf hv sl a 0
  refine ⟨fun hdeb hret => ?_, fun hdeb => ?_⟩
  · have hmem : c ∈ l := hl ▸ List.mem_map.2 ⟨(c, d), List.mem_filter.2 ⟨hm, hdeb⟩, rfl⟩
    obtain ⟨v, hv, hsame, hlast⟩ := foldl_of_mem (g := fun v => v.desc sl c) hwfs hkeep hnodup hmem hwf
    have hvd : v.desc sl c = d := hsame.trans ((desc_of_path hu sl c).trans hdesc)
    rw [hfold, hlast, desc_unquarantine_self hv (hvd ▸ hret)]
  · have hnot : c ∉ l := fun hc => by
      rw [hl] at hc
      obtain ⟨⟨c', d'⟩, hin, rfl⟩ := List.mem_map.1 hc
      obtain ⟨hq, hd'⟩ := List.mem_filter.1 hin
      obtain rfl : d' = d := (desc_of_mem_quarCells h hq).1.symm.trans hdesc
      exact Bool.false_ne_true (hdeb.symm.trans hd')
    rw [hfold]
    exact (foldl_of_notMem (g := fun v => v.desc sl c) hwfs hkeep hnot hwf).trans ((desc_of_path hu sl c).trans hdesc)

/-! ### Retiring a cell (R253) -/

/-- The descriptor of a cell that is retired: a FREE or quarantined cell at once, another when it is freed. -/
def Desc.retired (d : Desc) : Desc := if d.state = 0 ∨ d.state = 2 then { state := 3, onlist := false } else { d with retPend := true }

theorem retireCell_desc (s : State) (sl c : Nat) : (s.retireCell sl c).path.desc = (s.setDesc sl c (s.desc sl c).retired).path.desc := by
  unfold State.retireCell Desc.retired
  dsimp only
  split
  · next hst => rw [if_pos (.inl hst)]; rfl
  · next hst => rw [if_pos (.inr hst)]; rfl
  · next h0 h2 => rw [if_neg (not_or.2 ⟨h0, h2⟩)]; rfl

theorem desc_retireCell_self (h : DescWf s) : (s.retireCell sl c).desc sl c = (s.desc sl c).retired :=
  (desc_of_path (retireCell_desc s sl c) sl c).trans (desc_setDesc_self h ..)

theorem desc_retireCell_ne (h : DescWf s) {c' : Nat} (hne : c' ≠ c) : (s.retireCell sl c).desc sl c' = s.desc sl c' :=
  (desc_of_path (retireCell_desc s sl c) sl c').trans (desc_setDesc_ne h hne _)

theorem recordCell_contains (s : State) (key : Nat) : (s.recordCell key).ks.retiredCells.contains key = true := by
  simp only [State.recordCell]
  split
  · assumption
  · simp

end

/-! ### The packets -/

section
variable {p : Packet} {a : Args} {s : State}

/-- COUNT and END of CB_QUAR_LIST (R252). -/
def quarHead (l : List (Nat × Desc)) (n : Nat) : List (Ty × Nat) := [(.u 16, (l.take n).length), (.flag, if l.length ≤ n then 1 else 0)]

/-- Up to 28 records are answered inline. -/
theorem cbQuarList_inline (hacc : Accepts 0x0506 p s) (ha : readParams 0x0506 p.params = a) (hbad : a.bad = false)
    (hsl : s.hasSlice (a.n 0) = true) (hmin : 1 ≤ a.n 2) (hmax : a.n 2 ≤ 28) {l : List (Nat × Desc)} (hl : l = s.quarCells (a.n 0) (a.n 1)) :
    Completes (.cbQuarList p) 0x0506 p s (begun 0x0506 p s) .ok (emitBlock (quarHead l (a.n 2)) ++ (l.take (a.n 2)).flatMap quarRecord) := by
  subst ha hl
  have hnot : ¬28 < (readParams 0x0506 p.params).n 2 := by omega
  change execCbQuarList p s = _
  unfold execCbQuarList quarHead
  refine completes_of_checks hacc ?checks (congrArg (guarded _ _) ?answer)
  case checks =>
    rw [if_neg hnot, List.append_nil]
    refine firstFail_of_all_false ?_
    simp [hsl, hbad]
    omega
  case answer =>
    simp only [if_neg hnot, b2n_decide]
    rfl

/-- More are written to the buffer, and the answer has COUNT and END only. -/
theorem cbQuarList_buffer (hacc : Accepts 0x0506 p s) (ha : readParams 0x0506 p.params = a) (hbad : a.bad = false)
    (hsl : s.hasSlice (a.n 0) = true) (hmin : 28 < a.n 2) (hmax : a.n 2 ≤ 4096) (hdma : firstFail (dmaChecks s p (a.n 3) true (16 * a.n 2)) = none)
    (hfault : p.dmaFault = false) {l : List (Nat × Desc)} (hl : l = s.quarCells (a.n 0) (a.n 1)) :
    Completes (.cbQuarList p) 0x0506 p s ((begun 0x0506 p s).emit (.hostWrite (dmaAddr (a.n 3)) ((l.take (a.n 2)).flatMap quarRecord))) .ok
      (emitBlock (quarHead l (a.n 2))) := by
  subst ha hl
  have hchecks : firstFail (dmaChecks (begun 0x0506 p s) p ((readParams 0x0506 p.params).n 3) true (16 * (readParams 0x0506 p.params).n 2)) = none :=
    hdma
  change execCbQuarList p s = _
  unfold execCbQuarList quarHead
  refine completes_of_checks hacc ?checks (congrArg (guarded _ _) ?answer)
  case checks =>
    rw [if_pos hmin, firstFail_append (firstFail_of_all_false ?_), hchecks]
    simp [hsl, hbad, hmax]
    omega
  case answer =>
    simp only [if_pos hmin, dmaWrite, hfault, Bool.false_eq_true, if_false, b2n_decide]
    rfl

theorem cbQuarRelease_one (hacc : Accepts 0x0507 p s) (ha : readParams 0x0507 p.params = a) (hbad : a.bad = false)
    (hsl : s.hasSlice (a.n 0) = true) (hpool : a.n 3 ≤ 3) (hall : a.f 2 = false) (hst : (s.desc (a.n 0) (a.n 1)).state = 2)
    (hdeb : (s.desc (a.n 0) (a.n 1)).debited = true ∨ a.n 3 ≠ 0) :
    Completes (.cbQuarRelease p) 0x0507 p s ((begun 0x0507 p s).unquarantine (a.n 0) (a.n 1) (a.n 3)) .ok (emitBlock [(.u 32, 0)]) := by
  subst ha
  have hdesc : (begun 0x0507 p s).desc ((readParams 0x0507 p.params).n 0) ((readParams 0x0507 p.params).n 1)
      = s.desc ((readParams 0x0507 p.params).n 0) ((readParams 0x0507 p.params).n 1) := rfl
  change execCbQuarRelease p s = _
  unfold execCbQuarRelease
  refine completes_of_checks hacc (firstFail_of_all_false ?checks) (congrArg (guarded _ _) ?answer)
  case checks => rcases hdeb with hdeb | hdeb <;> simp [hdesc, hsl, hbad, hpool, hst, hdeb]
  case answer => rw [hall]; rfl

theorem cbQuarRelease_all (hacc : Accepts 0x0507 p s) (ha : readParams 0x0507 p.params = a) (hbad : a.bad = false)
    (hsl : s.hasSlice (a.n 0) = true) (hpool : a.n 3 ≤ 3) (hall : a.f 2 = true) :
    Completes (.cbQuarRelease p) 0x0507 p s
      (((s.quarCells (a.n 0) 0).filter fun e => e.2.debited).foldl (fun s e => s.unquarantine (a.n 0) e.1 0) (begun 0x0507 p s)) .ok
      (emitBlock [(.u 32, ((s.quarCells (a.n 0) 0).filter fun e => !e.2.debited).length)]) := by
  subst ha
  change execCbQuarRelease p s = _
  unfold execCbQuarRelease
  refine completes_of_checks hacc (firstFail_of_all_false ?checks) (congrArg (guarded _ _) ?answer)
  case checks => simp [hsl, hbad, hpool, hall]
  case answer => rw [hall]; rfl

/-- CB_RETIRE leaves the cell retired, counted once, and recorded; a cell that is marked already is counted already. -/
theorem cbRetire_completes (hacc : Accepts 0x0508 p s) (ha : readParams 0x0508 p.params = a) (hbad : a.bad = false)
    (hsl : s.hasSlice (a.n 0) = true) (hst : (s.desc (a.n 0) (a.n 1)).state ≠ 3) (hlimit : (s.pool (a.n 0)).retired < 256) :
    ∃ u : State, u.path.desc = s.path.desc ∧ u.regs = s.regs
      ∧ Completes (.cbRetire p) 0x0508 p s ((u.retireCell (a.n 0) (a.n 1)).recordCell (cellKey (a.n 0) (a.n 1))) .ok (emitBlock []) := by
  subst ha
  have hdesc : (begun 0x0508 p s).desc ((readParams 0x0508 p.params).n 0) ((readParams 0x0508 p.params).n 1)
      = s.desc ((readParams 0x0508 p.params).n 0) ((readParams 0x0508 p.params).n 1) := rfl
  have hpool : (begun 0x0508 p s).pool ((readParams 0x0508 p.params).n 0) = s.pool ((readParams 0x0508 p.params).n 0) := rfl
  refine ⟨if (s.desc ((readParams 0x0508 p.params).n 0) ((readParams 0x0508 p.params).n 1)).retPend then
      (begun 0x0508 p s).onPool ((readParams 0x0508 p.params).n 0) fun k => { k with retired := k.retired - 1 } else begun 0x0508 p s, ?_, ?_, ?_⟩
  · split <;> rfl
  · split <;> rfl
  · change execCbRetire p s = _
    unfold execCbRetire
    refine completes_of_checks hacc (firstFail_of_all_false ?_) rfl
    simp [hdesc, hpool, hsl, hbad, hst, hlimit]

theorem cbReclaim_completes (hacc : Accepts 0x0509 p s) (ha : readParams 0x0509 p.params = a) (hbad : a.bad = false)
    (hsl : s.hasSlice (a.n 0) = true) (hqu : a.n 1 < 8256) (hof : Config.sliceOf (a.n 1 / 16) = a.n 0) {r : Reclaim}
    (hr : r = Table.get (fun _ => {}) s.path.reclaim (a.n 0)) (hroom : r.waiting.length < 16) :
    Completes (.cbReclaim p) 0x0509 p s ((begun 0x0509 p s).askReclaim (a.n 0) (a.n 1)) .ok (emitBlock []) := by
  subst ha hr
  change execCbReclaim p s = _
  unfold execCbReclaim
  refine completes_of_checks hacc (firstFail_of_all_false ?_) rfl
  simp only [List.forall_mem_cons, List.not_mem_nil, false_implies, implies_true, and_true]
  exact ⟨by simp [hsl], by simp [hbad, hqu, hof], decide_eq_false (Nat.not_le.2 hroom)⟩

/-- A sweep asked for waits behind the others while there is room (R244). -/
theorem askReclaim_of_room {sl qu : Nat} {r : Reclaim} (hr : r = Table.get (fun _ => {}) s.path.reclaim sl) (hroom : r.waiting.length < 16) :
    s.askReclaim sl qu
      = s.inPath fun p => { p with reclaim := Table.set (fun _ => {}) p.reclaim sl { r with waiting := r.waiting ++ [qu] } } := by
  subst hr
  simp only [State.askReclaim, State.inPath, if_pos hroom]

/-- CB_CTL as CB_SCRUB_SET writes it (R254). -/
def scrubWord (en div : Nat) : Word := word (div * 16 + en)

theorem scrubWord_fields {en div : Nat} (hen : en < 2) (hdiv : div ≤ 7) :
    (scrubWord en div).toNat / 2 ^ 0 % 2 ^ 1 = en ∧ (scrubWord en div).toNat / 2 ^ 4 % 2 ^ 3 = div := by
  simp only [scrubWord, word, BitVec.toNat_ofNat]
  omega

theorem slicesBad_eq_false {m : Nat} (h : ∀ sl, sl ∈ slicesOf m → s.hasSlice sl = true) : s.slicesBad m = false :=
  List.any_eq_false.2 fun sl hsl => by simp [h sl hsl]

theorem cbScrubSet_completes (hacc : Accepts 0x050A p s) (ha : readParams 0x050A p.params = a) (hbad : a.bad = false) (hdiv : a.n 2 ≤ 7)
    (hsl : ∀ sl, sl ∈ slicesOf (a.n 0) → s.hasSlice sl = true) :
    Completes (.cbScrubSet p) 0x050A p s
      ((slicesOf (a.n 0)).foldl (fun u sl => u.setReg .cbCtl sl (scrubWord (a.n 1) (a.n 2))) (begun 0x050A p s)) .ok (emitBlock []) := by
  subst ha
  have hslices : (begun 0x050A p s).slicesBad ((readParams 0x050A p.params).n 0) = false := slicesBad_eq_false hsl
  change execCbScrubSet p s = _
  unfold execCbScrubSet
  refine completes_of_checks hacc (firstFail_of_all_false ?_) rfl
  simp [hslices, hbad, hdiv]

end

/-- Settles O46: each packet passes its checks; a release and a retirement write one descriptor, a release of all one for each debited cell. -/
theorem quarantinePacketsAnswer : Obligations.QuarantinePacketsAnswer := by
  refine ⟨?list, ?release, ?retire, ?reclaim, ?scrub⟩
  case list =>
    intro p a l s hacc ha hbad hsl hmin hmax hl
    exact ⟨fun hfew => cbQuarList_inline hacc ha hbad hsl hmin hfew hl,
      fun hmany hdma hfault => cbQuarList_buffer hacc ha hbad hsl hmany hmax hdma hfault hl⟩
  case release =>
    intro p a s hdesc hpools hacc ha hbad hsl hpool
    refine ⟨fun d hd hall hst hret hdeb => ?one, fun hall => ?all⟩
    case one =>
      subst hd
      have hfree := desc_unquarantine_self (s := begun 0x0507 p s) hdesc hret (a.n 3)
      obtain ⟨hquar, hcount, hheld⟩ := pool_unquarantine (s := begun 0x0507 p s) hdesc hpools hret (a.n 3)
      exact ⟨_, cbQuarRelease_one hacc ha hbad hsl hpool hall hst hdeb, by rw [hfree], by rw [hfree], hquar, hcount, hheld⟩
    case all =>
      exact ⟨_, cbQuarRelease_all hacc ha hbad hsl hpool hall, fun c d hm => unquarantine_debited (u := begun 0x0507 p s) hdesc hm rfl rfl⟩
  case retire =>
    intro p a d s hwf hacc ha hbad hsl hd hst hlimit
    subst hd
    obtain ⟨u, hu, hregs, hdone⟩ := cbRetire_completes hacc ha hbad hsl hst hlimit
    have hwfu : DescWf u := by rw [DescWf, hu]; exact hwf
    have hsame := desc_of_path hu (a.n 0)
    have hself := (desc_retireCell_self (sl := a.n 0) (c := a.n 1) hwfu).trans (congrArg Desc.retired (hsame _))
    refine ⟨_, hdone, recordCell_contains .., fun hgone => ?_, fun halloc => ?_,
      fun c _ hne => (desc_retireCell_ne hwfu hne).trans (hsame c), (retireCell_regs ..).trans hregs⟩
    · exact congrArg Desc.state (hself.trans (if_pos hgone))
    · have hmarked := hself.trans (if_neg (by omega))
      exact ⟨congrArg Desc.retPend hmarked, (congrArg Desc.state hmarked).trans halloc⟩
  case reclaim =>
    intro p a r s hwf hacc ha hbad hsl hqu hof hr hroom
    have hdone := cbReclaim_completes hacc ha hbad hsl hqu hof hr hroom
    rw [askReclaim_of_room (s := begun 0x0509 p s) hr hroom] at hdone
    exact ⟨_, hdone, Table.get_set_self hwf _ _, rfl, rfl⟩
  case scrub =>
    intro p a s h hacc ha hbad hdiv hsl
    have hen : a.n 1 < 2 := by subst ha; exact readParams_flag_lt hbad rfl
    obtain ⟨hfen, hfdiv⟩ := scrubWord_fields hen hdiv
    have hreg := reg_setRegs (s := begun 0x050A p s) h.regs .cbCtl id (scrubWord (a.n 1) (a.n 2)) (slicesOf (a.n 0))
    simp only [List.map_id, id] at hreg
    refine ⟨_, cbScrubSet_completes hacc ha hbad hdiv hsl, fun sl hm => ?_, fun r i hne => (hreg r i).trans (if_neg ?_)⟩
    · have hw := (hreg .cbCtl sl).trans (if_pos ⟨rfl, hm⟩)
      refine ⟨?_, (fld_of_reg_eq (f := F.cbCtl_SCRUB_DIV) hw).trans hfdiv⟩
      rw [State.flag, fld_of_reg_eq (f := F.cbCtl_SCRUB_EN) hw]
      exact congrArg (fun n => decide (n ≠ 0)) hfen
    · rintro ⟨hr, hi⟩
      exact hne.elim (· hr) (· hi)

end Sys2Proof.Machine

/-!
The deep tier (O24): a hank's pages close, are written and read back, and a queue leaves deep state; what a visit of the stack scrub finds; and
what the retirement of a stack leaves.
-/
namespace Sys2Proof.Machine
open Sys2Proof

/-! ### Hanks and posts -/

section
variable {s : State} {qu : Nat} {h : Hank} {p : HankPage} {r : HankRec}

theorem hank?_setHank (s : State) (qu : Nat) (h : Hank) : (s.setHank qu h).hank? qu = some h := OTable.get?_insert_self ..

/-- A deep-tier error stands in two registers, and is posted. -/
theorem dtPost_eq (s : State) (q kind page burst owner : Nat) :
    ∃ a i data, s.dtPost q kind page burst owner = ((s.setReg .dtErrAddr q a).setReg .dtErrInfo q i).post 0x1403 data id := ⟨_, _, _, rfl⟩

/-- Of the data path a deep-tier error changes the waiting posts at most. -/
theorem dtPost_path (s : State) (q kind page burst owner : Nat) :
    ∃ posts, (s.dtPost q kind page burst owner).path = { s.path with posts := posts } := by
  obtain ⟨a, i, data, h⟩ := dtPost_eq s q kind page burst owner
  rw [h]
  exact post_path (s := (s.setReg .dtErrAddr q a).setReg .dtErrInfo q i) _ _ rfl

/-! ### Closing and writing a page (R261) -/

/-- The open page of a hank closes with the bytes it has. -/
theorem close_of_open (hopen : h.open? = some p) (hfill : p.base < h.filled) :
    h.close = { h with
      pages := h.pages.dropLast ++ [{ p with fill := min 4096 (h.filled - p.base), closed := true }]
      closedEnd := p.base + min 4096 (h.filled - p.base) } := by
  have hsome : min 4096 (h.filled - p.base) ≠ 0 := by omega
  simp only [Hank.close, hopen, if_neg hsome]

theorem pageClose_of_due (hh : s.hank? qu = some h) (hopen : h.open? = some p)
    (hdue : p.first + max 64 (s.fld F.dtCtl_FLUSH_SLOTS (Config.quadOf (qu / 16))) ≤ s.tick.slot) :
    exec (.pageClose qu) s = .next (s.setHank qu h.close) := by
  change execPageClose qu s = _
  simp [execPageClose, hh, hopen, hdue]

/-- The only page of a hank, closed, reaches its stack. -/
theorem pageWriteComplete_single (hh : s.hank? qu = some h) (hp : h.pages = [p]) (hclosed : p.closed = true) (hwritten : p.written = false) :
    exec (.pageWriteComplete qu) s
      = .next (((s.setWbuf (Config.quadOf (qu / 16)) (s.wbuf (Config.quadOf (qu / 16)) - p.fill / 32)).setHank qu
          { h with pages := [{ p with written := true }], writtenEnd := p.base + p.fill }).count .dtPageWrCnt (Config.quadOf (qu / 16)) 1) := by
  change execPageWriteComplete qu s = _
  simp [execPageWriteComplete, hh, hp, hclosed, hwritten]

/-! ### Reading back (R266) -/

/-- The hank of a queue whose cells have fallen below the lower mark goes on with read-back. -/
def State.readsOn (s : State) (qu : Nat) (h : Hank) : State := s.setHank qu { h with rbOn := true }

/-- A hank of one page and one record whose page is read into `n` reserved cells from slot `now` on. -/
def Hank.reading (h : Hank) (p : HankPage) (r : HankRec) (n now : Nat) : Hank :=
  { h with rbOn := true, pages := [{ p with reading := some now }], recs := [{ r with rb := n }] }

/-- A queue below its lower mark asks for the cells of its only page, which hold its only record. -/
theorem readbackIssue_asks {n : Nat} (hh : s.hank? qu = some h) (hlow : s.cq qu < 16 * s.fld F.dtQcfgRb_RB_LOW (Config.quadOf (qu / 16) * 8256 + qu))
    (hup : s.portUp (qu / 16) = true) (hp : h.pages = [p]) (hwritten : p.written = true) (hidle : p.reading = none) (hr : h.recs = [r])
    (hrb : r.rb = 0) (hn : n = cdiv (frameBytes r h.headOff (p.base + p.fill)) 128) :
    exec (.readbackIssue qu) s = .next (if s.canReserve (Config.sliceOf (qu / 16)) (s.poolOf qu) n
      then (((s.readsOn qu h).onPool (Config.sliceOf (qu / 16)) fun k => { k.addHeld (s.poolOf qu) n with resv := k.resv + n }).addCq qu n).setHank qu
        (h.reading p r n s.tick.slot)
      else ((s.readsOn qu h).allocFail (Config.sliceOf (qu / 16))).count .dtRbWaitCnt (Config.quadOf (qu / 16)) 1) := by
  subst hn
  have hport : ∀ k, (s.setHank qu k).portUp (qu / 16) = s.portUp (qu / 16) := fun _ => rfl
  have hpool : ∀ k, (s.setHank qu k).poolOf qu = s.poolOf qu := fun _ => rfl
  have hcan : ∀ k sl i n, (s.setHank qu k).canReserve sl i n = s.canReserve sl i n := fun _ _ _ _ => rfl
  have htick : ∀ k, (s.setHank qu k).tick = s.tick := fun _ => rfl
  change execReadbackIssue qu s = _
  simp only [execReadbackIssue, hh, if_pos hlow, hport, hup, hp, hidle, hwritten, hr, hrb, recsAt, State.reserve, hpool, hcan, htick,
    Bool.and_self, if_true, List.find?_cons, Option.isNone_none, Bool.not_true, Bool.false_eq_true, if_false, List.foldl_cons, List.foldl_nil,
    Nat.sub_zero, Nat.zero_add, List.map_cons, List.map_nil, Nat.zero_max, State.readsOn, Hank.reading]
  split <;> rfl

/-! ### The end of a read (R267) -/

theorem onPool_time (s : State) (sl : Nat) (g : Pool → Pool) : (s.onPool sl g).time = s.time := rfl
theorem setDesc_time (s : State) (sl c : Nat) (d : Desc) : (s.setDesc sl c d).time = s.time := rfl

theorem popCell_time (sl fuel : Nat) (bad : Bool) (s : State) : (State.popCell sl fuel bad s).2.time = s.time := by
  induction fuel generalizing bad s with
  | zero => rfl
  | succ fuel ih =>
    unfold State.popCell
    split
    · rfl
    · dsimp only
      split
      · rw [ih, onPool_time]
      · split
        · rw [ih, raise_time, onPool_time, setDesc_time, onPool_time]
        · rw [onPool_time, setDesc_time, onPool_time]

theorem fillCell_time (s : State) (sl c owner pool : Nat) (bytes : List Byte) (prev : Option Nat) :
    (s.fillCell sl c owner pool bytes prev).time = s.time := by
  cases prev <;> rfl

theorem writeCell_time (s : State) (sl owner pool : Nat) (bytes : List Byte) (prev : Option Nat) (bad : Bool) :
    (s.writeCell sl owner pool bytes prev bad).2.time = s.time := by
  have hpop := popCell_time sl 70000 bad s
  unfold State.writeCell
  generalize State.popCell sl 70000 bad s = x at hpop
  obtain ⟨_ | c, u⟩ := x
  · exact hpop
  · exact (fillCell_time ..).trans hpop

theorem writeCell_same {sl owner pool : Nat} {bytes : List Byte} {prev : Option Nat} {bad : Bool} {x : Option Nat × State}
    (hx : s.writeCell sl owner pool bytes prev bad = x) : x.2.copiesAndWrites = s.copiesAndWrites ∧ x.2.time = s.time :=
  hx ▸ ⟨writeCell_copiesAndWrites .., writeCell_time ..⟩

/-- What the cells written for a record leave alone: its copy, the copies on die, and the time. -/
def SameCopies (r : HankRec) (s : State) (x : HankRec × State) : Prop :=
  x.1.copy = r.copy ∧ x.2.copiesAndWrites = s.copiesAndWrites ∧ x.2.time = s.time

theorem rbCells_sameCopies (s : State) (sl qu pool : Nat) (r : HankRec) (n : Nat) : SameCopies r s (s.rbCells sl qu pool r n) := by
  refine List.foldlRecOn (motive := SameCopies r s) _ _ ⟨rfl, rfl, rfl⟩ fun x hx k _ => ?_
  obtain ⟨hcopy, hcopies, htime⟩ := hx
  dsimp only
  split
  · split
    · exact ⟨hcopy, hcopies, htime⟩
    · exact ⟨hcopy, (fillCell_copiesAndWrites ..).trans hcopies, (fillCell_time ..).trans htime⟩
  · split
    all_goals
      next hwrite =>
        obtain ⟨hsame, hclock⟩ := writeCell_same hwrite
        exact ⟨hcopy, hsame.trans hcopies, hclock.trans htime⟩

/-- A record read back joins the copies on die, with the whorl as its stamp (R267). -/
theorem rbJoin_copies (s : State) (pool : Nat) (r : HankRec) : ∃ c, (s.rbJoin pool r).path.copies = s.path.copies ++ [c] ∧ c.fid = r.copy.fid
    ∧ c.whole = true ∧ c.stamp = s.whorlNs := ⟨_, rfl, rfl, rfl, rfl⟩

/-- The cells that the only record of a hank, whole in the page read, is given, and the state with them. -/
def State.readCells (s : State) (qu : Nat) (h : Hank) (p : HankPage) (r : HankRec) : HankRec × State :=
  (s.count .dtCeCnt (Config.quadOf (qu / 16)) 0).rbCells (Config.sliceOf (qu / 16)) qu (s.poolOf qu) r
    (frameBytes r h.headOff (p.base + p.fill))

/-- The only page of a hank is read without faults: the record that lies whole in it joins its queue, and the page is freed. -/
theorem pageReadComplete_single (hh : s.hank? qu = some h) (hp : h.pages = [p]) (hreading : p.reading.isSome = true) (hr : h.recs = [r])
    (hwhole : r.whole = true) (hlost : r.copy.lost = false) (hsize : 0 < r.size) (hfits : h.headOff + r.size ≤ p.base + p.fill) :
    exec (.pageReadComplete qu []) s = .next (((((s.readCells qu h p r).2.rbJoin (s.poolOf qu) (s.readCells qu h p r).1).freePage p.page).setHank qu
      { h with recs := [], headOff := h.headOff + r.size, pages := [] }).count .dtPageRdCnt (Config.quadOf (qu / 16)) 1) := by
  have hnot : ¬p.base + p.fill ≤ h.headOff := by omega
  change execPageReadComplete qu [] s = _
  simp only [execPageReadComplete, hh, hp, hr, recsAt, List.find?_cons, hreading, List.filter_nil, List.find?_nil, List.map_nil, List.foldl_nil,
    List.foldl_cons, List.length_nil, List.any_nil, if_neg hnot, hwhole, hfits, hlost]
  simp [State.readCells]

/-- A queue of which nothing is left leaves deep state (R262). -/
theorem deepExit_of_empty (hh : s.hank? qu = some h) (hqu : qu < 16384) (hdie : s.onDieEmpty qu = true) (hcq : s.cq qu = 0) (hrecs : h.recs = [])
    (hpages : h.pages = []) : exec (.deepExit qu) s
      = .next ((s.inPath fun p => { p with hanks := Table.erase p.hanks qu }).count .dtExitCnt (Config.quadOf (qu / 16)) 1) := by
  change execDeepExit qu s = _
  simp [execDeepExit, hh, hqu, hdie, hcq, hrecs, hpages]

end

/-! ### The stack scrub (R275) -/

/-- The scrub of a page's stack visits it in this slot: the stack is in service, its scrub enabled, its divider admits the slot, and the die
is cool. -/
structure StackScrubs (s : State) (page : Nat) : Prop where
  present : s.hasStack (page / 2 ^ 22) = true
  inService : s.stackState (page / 2 ^ 22) ≠ 2
  enabled : s.flag F.dtCtl_SCRUB_EN (page / 2 ^ 22 / 2) = true
  turn : s.tick.slot % 2 ^ max 2 (s.fld F.dtCtl_SCRUB_DIV (page / 2 ^ 22 / 2)) = 0
  cool : s.fld F.thmStat_LEVEL 0 < 2

/-- An uncorrectable error of a stack's metadata is shown and posted. -/
def State.metaError (s : State) (page burst : Nat) : State :=
  (s.raise F.dtStat_META_UE (page / 2 ^ 22 / 2)).dtPost (page / 2 ^ 22 / 2) 6 page burst 0x3FFF

/-- A burst of the metadata with an uncorrectable error is noted, so that a second such error of it can be told (R275). -/
def State.noteMeta (s : State) (key : Nat) : State := s.inPath fun p => { p with metaSeen := p.metaSeen ++ [key] }

theorem noteMeta_frame (s : State) (key : Nat) : (s.noteMeta key).regs = s.regs ∧ (s.noteMeta key).path.metaSeen = s.path.metaSeen ++ [key]
    ∧ (s.noteMeta key).path.hbm = s.path.hbm := ⟨rfl, rfl, rfl⟩

section
variable {s : State} {page burst : Nat}

theorem StackScrubs.guard (h : StackScrubs s page) :
    (!s.hasStack (page / 2 ^ 22) || decide (s.stackState (page / 2 ^ 22) = 2) || !s.flag F.dtCtl_SCRUB_EN (page / 2 ^ 22 / 2)
      || decide (s.tick.slot % 2 ^ max 2 (s.fld F.dtCtl_SCRUB_DIV (page / 2 ^ 22 / 2)) ≠ 0) || decide (2 ≤ s.fld F.thmStat_LEVEL 0)) = false := by
  obtain ⟨hpresent, hservice, hen, hturn, hcool⟩ := h
  simp [-Nat.reducePow, hpresent, hservice, hen, hturn, hcool]

/-- Only the first burst of a stack begins a pass. -/
theorem notFirstBurst (hburst : burst ≠ 0) : (decide (page % 2 ^ 22 = 0) && decide (burst = 0)) = false := by simp [hburst]

theorem hbmScrub_good (h : StackScrubs s page) (hburst : burst ≠ 0) : exec (.hbmScrubVisit page burst 0 0) s = .next s := by
  change execHbmScrubVisit page burst 0 0 s = _
  simp only [execHbmScrubVisit, h.guard, notFirstBurst hburst, Bool.false_eq_true, if_false]
  rfl

/-- What the outer code corrected is counted twice over: as an error and as a scrub's correction. -/
theorem hbmScrub_corrected (h : StackScrubs s page) (hburst : burst ≠ 0) : exec (.hbmScrubVisit page burst 1 0) s
    = .next ((s.count .dtCeCnt (page / 2 ^ 22 / 2) 1).count .dtScrubFixCnt (page / 2 ^ 22 / 2) 1) := by
  change execHbmScrubVisit page burst 1 0 s = _
  simp only [execHbmScrubVisit, h.guard, notFirstBurst hburst, Bool.false_eq_true, if_false]
  rfl

theorem metaError_path (s : State) (page burst : Nat) : ∃ posts, (s.metaError page burst).path = { s.path with posts := posts } :=
  dtPost_path (s.raise F.dtStat_META_UE (page / 2 ^ 22 / 2)) ..

theorem metaError_shown (h : Inv s) (page burst : Nat) : (s.metaError page burst).flag F.dtStat_META_UE (page / 2 ^ 22 / 2) = true := by
  have hraised : Inv (s.raise F.dtStat_META_UE (page / 2 ^ 22 / 2)) := ⟨wf_raise h.regs _ _, h.slot, h.whorl⟩
  have hpost : Keeps { parts := [.log, .path], regs := [.dtErrAddr, .dtErrInfo] } _ (s.metaError page burst) :=
    keeps_dtPost (keeps_self hraised) (Change.le_self _)
  exact (flag_of_reg (hpost.within.regs .dtStat _ rfl)).trans (flag_raise_self h.regs (by decide) _)

theorem hbmScrub_metaError (h : StackScrubs s page) (hburst : burst ≠ 0) (hmeta : page % 2 ^ 22 < 8192)
    (hfirst : s.path.metaSeen.contains (page * 16 + burst) = false) : exec (.hbmScrubVisit page burst 2 0) s
      = .next ((s.metaError page burst).noteMeta (page * 16 + burst)) := by
  obtain ⟨posts, hpath⟩ := metaError_path s page burst
  have hseen : (s.metaError page burst).path.metaSeen.contains (page * 16 + burst) = false := by rw [hpath]; exact hfirst
  change execHbmScrubVisit page burst 2 0 s = _
  simp only [execHbmScrubVisit, h.guard, notFirstBurst hburst, Bool.false_eq_true, if_false, if_pos hmeta]
  exact if_neg (Bool.eq_false_iff.1 hseen)

end

/-! ### Retirement of a stack (R276 to R279) -/

section
variable {s : State}

theorem logEvents_frame {α : Type} (kind : Nat) (data : State → α → List Byte) (l : List α) (s : State) :
    (l.foldl (fun u e => u.logEvent kind (data u e)) s).regs = s.regs ∧ (l.foldl (fun u e => u.logEvent kind (data u e)) s).ks = s.ks :=
  List.foldlRecOn (motive := fun u : State => u.regs = s.regs ∧ u.ks = s.ks) l _ ⟨rfl, rfl⟩ fun _ hu _ _ => hu

theorem stackState_of_reg {x : Nat} (h : s.reg .dtStkStat x = 2) : s.stackState x = 2 := by
  simp only [State.stackState, State.fld, F.dtStkStat_STATE, h]
  decide

/-- The other stack of a stack's quadrant. -/
def stackPartner (x : Nat) : Nat := if x % 2 = 0 then x + 1 else x - 1

/-- DT_STK_STAT when a stack is retired: its partner, if it is in service, serves the spill only. -/
def State.retiredState (s : State) (x : Nat) : State :=
  let u := s.setReg .dtStkStat x 2
  (if u.stackState (stackPartner x) = 2 then u else u.setFld F.dtStkStat_SPILL_ONLY (stackPartner x) 1).setReg .dtStkStat x 2

theorem retiredState_frame (h : RegsWf s) (x : Nat) : RegsWf (s.retiredState x) ∧ (s.retiredState x).reg .dtStkStat x = 2
    ∧ ∀ r i, r ≠ .dtStkStat → (s.retiredState x).reg r i = s.reg r i := by
  have hset := wf_setReg h .dtStkStat x 2
  have hfirst : ∀ r i, r ≠ .dtStkStat → (s.setReg .dtStkStat x 2).reg r i = s.reg r i := fun _ _ hr => reg_setReg_ne h _ fun hk => hr hk.1
  unfold State.retiredState
  dsimp only
  split
  · exact ⟨wf_setReg hset .., reg_setReg_self hset .., fun r i hr => (reg_setReg_ne hset _ fun hk => hr hk.1).trans (hfirst r i hr)⟩
  · have hpartner := wf_setFld hset F.dtStkStat_SPILL_ONLY (stackPartner x) 1
    exact ⟨wf_setReg hpartner .., reg_setReg_self hpartner .., fun r i hr =>
      ((reg_setReg_ne hpartner _ fun hk => hr hk.1).trans (reg_setFld_ne hset _ fun hk => hr hk.1)).trans (hfirst r i hr)⟩

/-- A list of numbers to which one is added unless it holds it already, holds it. -/
theorem contains_added (l : List Nat) (x : Nat) : (if l.contains x then l else l ++ [x]).contains x = true := by
  split
  · assumption
  · simp

/-- The keep store records a stack as retired (R277). -/
def State.recordStack (s : State) (x : Nat) : State :=
  { s with ks := { s.ks with retiredStacks := if s.ks.retiredStacks.contains x then s.ks.retiredStacks else s.ks.retiredStacks ++ [x] } }

theorem recordStack_regs (s : State) (x : Nat) : (s.recordStack x).regs = s.regs := rfl

/-- Retirement writes DT_STK_STAT, records the stack, empties its allocator, shows its end, and logs. -/
theorem stackRetired_eq (s : State) (x : Nat) :
    ∃ (l : List (Nat × Nat × Nat)) (data : State → Nat × Nat × Nat → List Byte) (bytes : List Byte),
    s.stackRetired x = l.foldl (fun u e => u.logEvent 0x1401 (data u e))
      (((((s.retiredState x).recordStack x).onStack x fun _ => {}).raise F.dtStat_RETIRE_DONE (x / 2)).logEvent 0x1401 bytes) := ⟨_, _, _, rfl⟩

theorem raise_regs_congr {s t : State} (h : t.regs = s.regs) (f : Fld) (i : Nat) : (t.raise f i).regs = (s.raise f i).regs := by
  simp only [State.raise, State.setFld, State.setReg, State.reg, h]

theorem stackRetired_frame (s : State) (x : Nat) : (s.stackRetired x).regs = ((s.retiredState x).raise F.dtStat_RETIRE_DONE (x / 2)).regs
    ∧ (s.stackRetired x).ks.retiredStacks.contains x = true := by
  obtain ⟨l, data, bytes, h⟩ := stackRetired_eq s x
  obtain ⟨hregs, hks⟩ := logEvents_frame 0x1401 data l
    (((((s.retiredState x).recordStack x).onStack x fun _ => {}).raise F.dtStat_RETIRE_DONE (x / 2)).logEvent 0x1401 bytes)
  rw [← h] at hregs hks
  constructor
  · rw [hregs, logEvent_regs]
    exact raise_regs_congr (by rw [State.onStack, inPath_regs, recordStack_regs]) ..
  · rw [hks, logEvent_ks, raise_ks, State.onStack, inPath_ks]
    exact contains_added ..

/-- A retired stack reads so, with DT_STAT's RETIRE_DONE set and its other flags left. -/
theorem stackRetired_result (h : RegsWf s) (x : Nat) : (s.stackRetired x).stackState x = 2
    ∧ (s.stackRetired x).flag F.dtStat_RETIRE_DONE (x / 2) = true ∧ (s.stackRetired x).ks.retiredStacks.contains x = true
    ∧ (s.stackRetired x).flag F.dtStat_STACK_FAULT (x / 2) = s.flag F.dtStat_STACK_FAULT (x / 2) := by
  obtain ⟨hregs, hks⟩ := stackRetired_frame s x
  obtain ⟨hwf, hstate, hother⟩ := retiredState_frame h x
  have hreg : ∀ r i, (s.stackRetired x).reg r i = ((s.retiredState x).raise F.dtStat_RETIRE_DONE (x / 2)).reg r i := fun r i => by
    rw [State.reg, State.reg, hregs]
  refine ⟨?state, (flag_of_reg (hreg ..)).trans (flag_raise_self hwf (by decide) _), hks, ?fault⟩
  case state =>
    have hkept : ((s.retiredState x).raise F.dtStat_RETIRE_DONE (x / 2)).reg .dtStkStat x = 2 :=
      (reg_raise_ne hwf fun hk => absurd hk.1 (by decide)).trans hstate
    exact stackState_of_reg ((hreg ..).trans hkept)
  case fault =>
    calc (s.stackRetired x).flag F.dtStat_STACK_FAULT (x / 2)
        = ((s.retiredState x).raise F.dtStat_RETIRE_DONE (x / 2)).flag F.dtStat_STACK_FAULT (x / 2) := flag_of_reg (hreg ..)
      _ = (s.retiredState x).flag F.dtStat_STACK_FAULT (x / 2) := flag_raise_other hwf (by decide) _ rfl (by decide)
      _ = s.flag F.dtStat_STACK_FAULT (x / 2) := flag_of_reg (hother _ _ (by decide))

/-- Before the lost stack is retired, its quadrant's hanks and spills give up what they held: counters, the data path and DT_STK_STAT change. -/
theorem stackLost_frame (h : Inv s) (x : Nat) {M : Change} (hM : Change.le { parts := [.cnt, .path], regs := [.dtStkStat] } M = true) :
    ∃ u, s.stackLost x = u.stackRetired x ∧ Keeps M s u := by
  refine ⟨_, rfl, keeps_foldl (keeps_setReg (keeps_foldl (keeps_self h) fun _ _ hu => keeps_dropHank hu)) fun u key hu => ?_⟩
  dsimp only
  split
  · exact hu
  · refine keeps_foldl (keeps_inPath (keeps_foldl (keeps_inPath ?_) fun _ _ hv => keeps_freePage hv)) fun _ _ hv => keeps_spillAdmitD hv
    exact keeps_foldl hu fun _ _ hv => keeps_foldl hv fun _ _ hw => keeps_drop hw

theorem stackFatalFault_of_service {x : Nat} (hpresent : s.hasStack x = true) (hservice : s.stackState x ≠ 2) :
    exec (.stackFatalFault x) s = .next ((s.raise F.dtStat_STACK_FAULT (x / 2)).stackLost x) := by
  change execStackFatalFault x s = _
  simp [execStackFatalFault, hpresent, hservice]

theorem stackDrainComplete_of_empty {x : Nat} (hdraining : s.stackState x = 1) (hempty : (s.stack x).used = 0) :
    exec (.stackDrainComplete x) s = .next (s.stackRetired x) := by
  change execStackDrainComplete x s = _
  simp [execStackDrainComplete, hdraining, hempty]

/-- A lost stack is retired, and the faults that DT_STAT shows stay. -/
theorem stackLost_result (h : Inv s) (x : Nat) : (s.stackLost x).stackState x = 2
    ∧ (s.stackLost x).flag F.dtStat_RETIRE_DONE (x / 2) = true ∧ (s.stackLost x).ks.retiredStacks.contains x = true
    ∧ (s.stackLost x).flag F.dtStat_STACK_FAULT (x / 2) = s.flag F.dtStat_STACK_FAULT (x / 2) := by
  obtain ⟨u, hlost, hu⟩ := stackLost_frame h x (Change.le_self _)
  obtain ⟨hstate, hdone, hks, hfault⟩ := stackRetired_result hu.regs x
  rw [hlost]
  exact ⟨hstate, hdone, hks, hfault.trans (flag_of_reg (hu.within.regs _ _ rfl))⟩

end

/-- Settles O24: each event's outcome is computed from its conditions; a stack's retirement is read off the registers that it writes last. -/
theorem deepTierPagesAndStacks : Obligations.DeepTierPagesAndStacks := by
  refine ⟨?close, ?write, ?readback, ?read, ?exit, ?scrub, ?fault, ?drain⟩
  case close =>
    intro qu h p s hh hopen hfill hdue
    have hdone := pageClose_of_due hh hopen hdue
    rw [close_of_open hopen hfill] at hdone
    exact ⟨_, _, hdone, hank?_setHank .., rfl, rfl, rfl⟩
  case write =>
    intro qu h p s hwf hh hp hclosed hwritten
    exact ⟨_, _, pageWriteComplete_single hh hp hclosed hwritten, hank?_setHank .., rfl, rfl, Table.get_set_self hwf _ _, rfl⟩
  case readback =>
    intro qu n h p r s hwf hh hlow hup hp hwritten hidle hr hrb hn
    have hask := readbackIssue_asks hh hlow hup hp hwritten hidle hr hrb hn
    refine ⟨fun hcan => ?_, fun hcan => ?_⟩
    · rw [if_pos hcan] at hask
      exact ⟨_, _, hask, hank?_setHank .., rfl, rfl, rfl, Table.get_set_self hwf _ _⟩
    · rw [if_neg (Bool.eq_false_iff.1 hcan)] at hask
      exact ⟨_, hask, rfl, rfl⟩
  case read =>
    intro qu h p r s hh hp hreading hr hwhole hlost hsize hfits
    obtain ⟨hcopy, hcopies, htime⟩ : SameCopies r _ (s.readCells qu h p r) := rbCells_sameCopies ..
    obtain ⟨c, hjoined, hfid, hwhole', hstamp⟩ := rbJoin_copies (s.readCells qu h p r).2 (s.poolOf qu) (s.readCells qu h p r).1
    refine ⟨_, _, c, pageReadComplete_single hh hp hreading hr hwhole hlost hsize hfits, hank?_setHank .., rfl, rfl, ?_,
      hfid.trans (congrArg Copy.fid hcopy), hwhole', ?_⟩
    · exact hjoined.trans (congrArg (fun x => x.1 ++ [c]) hcopies)
    · exact hstamp.trans (congrArg (fun x => x.whorl / 2 ^ 32) htime)
  case exit =>
    intro qu h s hh hqu hdie hcq hrecs hpages
    exact ⟨_, deepExit_of_empty hh hqu hdie hcq hrecs hpages, rfl, rfl⟩
  case scrub =>
    intro page burst s h hpresent hservice hen hturn hcool hburst
    have hscrubs : StackScrubs s page := ⟨hpresent, hservice, hen, hturn, hcool⟩
    refine ⟨hbmScrub_good hscrubs hburst, hbmScrub_corrected hscrubs hburst, fun hmeta hfirst => ?_⟩
    obtain ⟨posts, hpath⟩ := metaError_path s page burst
    obtain ⟨hregs, hseen, hstacks⟩ := noteMeta_frame (s.metaError page burst) (page * 16 + burst)
    refine ⟨_, hbmScrub_metaError hscrubs hburst hmeta hfirst, ?_, ?_, ?_⟩
    · exact (flag_of_reg (by rw [State.reg, State.reg, hregs])).trans (metaError_shown h page burst)
    · rw [hseen, hpath]
    · rw [hstacks, hpath]
  case fault =>
    intro x s h hpresent hservice
    have hraised : Inv (s.raise F.dtStat_STACK_FAULT (x / 2)) := ⟨wf_raise h.regs _ _, h.slot, h.whorl⟩
    obtain ⟨hstate, hdone, hks, hfault⟩ := stackLost_result hraised x
    exact ⟨_, stackFatalFault_of_service hpresent hservice, hstate, hfault.trans (flag_raise_self h.regs (by decide) _), hdone, hks⟩
  case drain =>
    intro x s h hdraining hempty
    obtain ⟨hstate, hdone, hks, -⟩ := stackRetired_result h.regs x
    exact ⟨_, stackDrainComplete_of_empty hdraining hempty, hstate, hdone, hks⟩

end Sys2Proof.Machine

/-!
Packets of the deep tier (O47): the settings of deep queues and of the stack scrub, the retirement of stacks and pages, the release of held
pages, and the answers about queues and stacks.
-/
namespace Sys2Proof.Machine
open Sys2Proof

/-! ### Deep queues (R282) -/

section
variable {p : Packet} {a : Args} {s : State}

/-- The registers of a deep queue as DT_QUEUE_SET writes them. -/
def State.queueConfig (s : State) (k rsv max low high : Nat) : State :=
  ((s.setReg .dtQcfgRsv k (word rsv)).setReg .dtQcfgMax k (word max)).setReg .dtQcfgRb k (word (high * 2 ^ 16 + low))

theorem queueConfig_frame (h : RegsWf s) (k rsv max low high : Nat) : (s.queueConfig k rsv max low high).reg .dtQcfgRsv k = word rsv
    ∧ (s.queueConfig k rsv max low high).reg .dtQcfgMax k = word max
    ∧ (s.queueConfig k rsv max low high).reg .dtQcfgRb k = word (high * 2 ^ 16 + low)
    ∧ ∀ r i, (r ≠ .dtQcfgRsv ∧ r ≠ .dtQcfgMax ∧ r ≠ .dtQcfgRb) ∨ i ≠ k → (s.queueConfig k rsv max low high).reg r i = s.reg r i := by
  have hrsv := wf_setReg h .dtQcfgRsv k (word rsv)
  have hmax := wf_setReg hrsv .dtQcfgMax k (word max)
  refine ⟨?_, ?_, reg_setReg_self hmax .., fun r i hne => ?_⟩
  · exact (reg_setReg_ne hmax _ (by simp)).trans ((reg_setReg_ne hrsv _ (by simp)).trans (reg_setReg_self h ..))
  · exact (reg_setReg_ne hmax _ (by simp)).trans (reg_setReg_self hrsv ..)
  · have hother : ∀ q, q = .dtQcfgRsv ∨ q = .dtQcfgMax ∨ q = .dtQcfgRb → ¬(r = q ∧ i = k) := by
      rintro q hq ⟨rfl, rfl⟩
      rcases hne with hne | hne
      · exact hq.elim hne.1 fun hq => hq.elim hne.2.1 hne.2.2
      · exact hne rfl
    exact (reg_setReg_ne hmax _ (hother _ (.inr (.inr rfl)))).trans
      ((reg_setReg_ne hrsv _ (hother _ (.inr (.inl rfl)))).trans (reg_setReg_ne h _ (hother _ (.inl rfl))))

theorem queueConfig_fields {rsv max low high : Nat} (hrsv : rsv ≤ max) (hmax : max ≤ 8372224) (hlow : low < high) (hhigh : high ≤ 4095) :
    (word rsv).toNat / 2 ^ 0 % 2 ^ 23 = rsv ∧ (word max).toNat / 2 ^ 0 % 2 ^ 23 = max
    ∧ (word (high * 2 ^ 16 + low)).toNat / 2 ^ 0 % 2 ^ 12 = low ∧ (word (high * 2 ^ 16 + low)).toNat / 2 ^ 16 % 2 ^ 12 = high := by
  simp only [word, BitVec.toNat_ofNat]
  omega

/-- Whether the reserves exceed the pages is read from the registers, the data path and the ordering code. -/
theorem reserveExcess_congr {t : State} (hregs : t.regs = s.regs) (hpath : t.path = s.path) (hfuses : t.fuses = s.fuses) (q : Nat) :
    t.reserveExcess q = s.reserveExcess q := by
  have hreg : ∀ r i, t.reg r i = s.reg r i := fun r i => by rw [State.reg, State.reg, hregs]
  have hstate : ∀ x, t.stackState x = s.stackState x := fun x => by simp only [State.stackState, State.fld, hreg]
  have hstack : ∀ x, t.stack x = s.stack x := fun x => by rw [State.stack, State.stack, hpath]
  have hpresent : ∀ x, t.hasStack x = s.hasStack x := fun x => by rw [State.hasStack, State.hasStack, hfuses]
  have husable : t.usablePages q = s.usablePages q := by simp only [State.usablePages, hstate, hstack, hpresent]
  have hreserved : t.reserved q = s.reserved q := by
    simp only [State.reserved, State.sumRsv, State.rsvQueues, State.rsvPages, State.fld, State.spillRsv, hreg, hregs, hpath]
  rw [State.reserveExcess, State.reserveExcess, husable, hreserved]

theorem queueConfig_excess (op : Nat) (p : Packet) (s : State) (k rsv max low high q : Nat) :
    ((begun op p s).queueConfig k rsv max low high).reserveExcess q = (s.queueConfig k rsv max low high).reserveExcess q :=
  reserveExcess_congr (t := (begun op p s).queueConfig k rsv max low high) (s := s.queueConfig k rsv max low high) rfl rfl rfl q

theorem dtQueueSet_completes {k : Nat} (hacc : Accepts 0x0600 p s) (ha : readParams 0x0600 p.params = a) (hbad : a.bad = false)
    (hport : s.hasPort (a.n 0 / 16) = true) (hhidden : s.hidden (a.n 0 / 16) = false) (hrsv : a.n 1 ≤ a.n 2) (hmax : a.n 2 ≤ 8372224)
    (hlow : a.n 3 ≠ 0) (hhigh : a.n 3 < a.n 4) (hcap : a.n 4 ≤ 4095) (hroom : s.deepHeadroom (a.n 0) ≤ a.n 1)
    (hk : k = Config.quadOf (a.n 0 / 16) * 8256 + a.n 0) (hlost : a.n 1 ≠ 0 → s.lostStack (Config.quadOf (a.n 0 / 16)) = false)
    (hfits : (s.queueConfig k (a.n 1) (a.n 2) (a.n 3) (a.n 4)).reserveExcess (Config.quadOf (a.n 0 / 16)) = false) :
    Completes (.dtQueueSet p) 0x0600 p s ((begun 0x0600 p s).queueConfig k (a.n 1) (a.n 2) (a.n 3) (a.n 4)) .ok (emitBlock []) := by
  subst ha hk
  have hport' : (begun 0x0600 p s).hasPort ((readParams 0x0600 p.params).n 0 / 16) = true := hport
  have hhidden' : (begun 0x0600 p s).hidden ((readParams 0x0600 p.params).n 0 / 16) = false := hhidden
  have hroom' : (begun 0x0600 p s).deepHeadroom ((readParams 0x0600 p.params).n 0) ≤ (readParams 0x0600 p.params).n 1 := hroom
  have hstacks : ((readParams 0x0600 p.params).n 1 != 0
      && (begun 0x0600 p s).lostStack (Config.quadOf ((readParams 0x0600 p.params).n 0 / 16))) = false := by
    by_cases h1 : (readParams 0x0600 p.params).n 1 = 0
    · simp [h1]
    · exact Bool.and_eq_false_imp.2 fun _ => hlost h1
  change execDtQueueSet p s = _
  unfold execDtQueueSet
  refine completes_of_checks hacc (firstFail_of_all_false ?_) rfl
  simp only [List.forall_mem_cons, List.not_mem_nil, false_implies, implies_true, and_true]
  refine ⟨by simp [hport'], hhidden', ?params, hstacks, ?reserves⟩
  case params => simp [hbad, hrsv, hmax, hlow, hhigh, hcap, hroom']
  case reserves =>
    rw [← queueConfig_excess 0x0600 p, State.queueConfig] at hfits
    exact hfits

theorem dtQueueGet_completes {k : Nat} (hacc : Accepts 0x0601 p s) (ha : readParams 0x0601 p.params = a) (hbad : a.bad = false)
    (hport : s.hasPort (a.n 0 / 16) = true) (hk : k = Config.quadOf (a.n 0 / 16) * 8256 + a.n 0) :
    Completes (.dtQueueGet p) 0x0601 p s (begun 0x0601 p s) .ok (emitBlock [ (.u 32, s.rsvPages (a.n 0)), (.u 32, s.maxPages (a.n 0)),
      (.u 16, s.fld F.dtQcfgRb_RB_LOW k), (.u 16, s.fld F.dtQcfgRb_RB_HIGH k), (.flag, if (s.hank? (a.n 0)).isSome then 1 else 0),
      (.u 32, s.pagesOf (a.n 0)), (.u 32, ((s.hank? (a.n 0)).map fun h => h.recs.length).getD 0) ]) := by
  subst ha hk
  have hhank : (begun 0x0601 p s).hank? ((readParams 0x0601 p.params).n 0) = s.hank? ((readParams 0x0601 p.params).n 0) := rfl
  change execDtQueueGet p s = _
  unfold execDtQueueGet
  refine completes_of_checks hacc (firstFail_of_all_false ?checks) (congrArg (guarded _ _) ?answer)
  case checks => simp [hbad, hport]
  case answer =>
    simp only [State.inDeep, hhank]
    cases s.hank? ((readParams 0x0601 p.params).n 0) <;> rfl

/-! ### Stacks and pages (R283, R284) -/

theorem dtStackRetire_completes (hacc : Accepts 0x0602 p s) (ha : readParams 0x0602 p.params = a) (hbad : a.bad = false)
    (hpresent : s.hasStack (a.n 0) = true) (hlive : s.stackState (a.n 0) = 0) (heven : s.stackState (2 * (a.n 0 / 2)) ≠ 1)
    (hodd : s.stackState (2 * (a.n 0 / 2) + 1) ≠ 1) :
    Completes (.dtStackRetire p) 0x0602 p s
      (if a.n 1 = 0 then (begun 0x0602 p s).setFld F.dtStkStat_STATE (a.n 0) 1 else (begun 0x0602 p s).stackLost (a.n 0)) .ok (emitBlock []) := by
  subst ha
  have hstate : ∀ x, (begun 0x0602 p s).stackState x = s.stackState x := fun _ => rfl
  change execDtStackRetire p s = _
  unfold execDtStackRetire
  refine completes_of_checks hacc (firstFail_of_all_false ?_) rfl
  simp [hstate, hbad, hpresent, hlive, heven, hodd]

theorem stack_onStack (h : Table.wf (fun _ => ({} : Stack)) s.path.hbm = true) (x : Nat) (f : Stack → Stack) :
    (s.onStack x f).stack x = f (s.stack x) := Table.get_set_self h _ _

/-- The keep store records a page as retired (R284). -/
def State.recordPage (s : State) (page : Nat) : State :=
  { s with ks := { s.ks with retiredPages := if s.ks.retiredPages.contains page then s.ks.retiredPages else s.ks.retiredPages ++ [page] } }

theorem dtPageRetire_completes (hacc : Accepts 0x0603 p s) (ha : readParams 0x0603 p.params = a) (hbad : a.bad = false)
    (hok : s.pageOk (a.n 0) = true)
    (hlimit : (s.stack (a.n 0 / 2 ^ 22)).retired.length + (s.stack (a.n 0 / 2 ^ 22)).pending.length < 65536) :
    Completes (.dtPageRetire p) 0x0603 p s (((begun 0x0603 p s).retirePage (a.n 0)).recordPage (a.n 0)) .ok (emitBlock []) := by
  subst ha
  have hok' : (begun 0x0603 p s).pageOk ((readParams 0x0603 p.params).n 0) = true := hok
  change execDtPageRetire p s = _
  unfold execDtPageRetire
  refine completes_of_checks hacc (firstFail_of_all_false ?_) rfl
  simp only [List.forall_mem_cons, List.not_mem_nil, false_implies, implies_true, and_true]
  exact ⟨by simp [hbad, hok'], decide_eq_false (Nat.not_le.2 hlimit)⟩

/-- A page in service leaves its stack's list, or is marked for its free. -/
theorem stack_retirePage (h : Table.wf (fun _ => ({} : Stack)) s.path.hbm = true) {page : Nat} {k : Stack} (hk : k = s.stack (page / 2 ^ 22))
    (hret : k.retired.contains (page % 2 ^ 22) = false) (hpend : k.pending.contains (page % 2 ^ 22) = false) :
    (s.retirePage page).stack (page / 2 ^ 22) = if s.pageUsed page then { k with pending := k.pending ++ [page % 2 ^ 22] }
      else { k with retired := k.retired ++ [page % 2 ^ 22], back := k.back.erase (page % 2 ^ 22) } := by
  subst hk
  refine (stack_onStack h ..).trans ?_
  rw [if_neg (by rw [hret, hpend]; decide)]

theorem dtPageRelease_completes (hacc : Accepts 0x0604 p s) (ha : readParams 0x0604 p.params = a) (hbad : a.bad = false)
    (hheld : (s.path.heldPages.any fun e => e.1 == a.n 0) = true) :
    Completes (.dtPageRelease p) 0x0604 p s
      (((begun 0x0604 p s).freePage (a.n 0)).inPath fun t => { t with heldPages := t.heldPages.filter fun e => e.1 != a.n 0 }) .ok
      (emitBlock []) := by
  subst ha
  have hheld' : ((begun 0x0604 p s).path.heldPages.any fun e => e.1 = (readParams 0x0604 p.params).n 0) = true := hheld
  change execDtPageRelease p s = _
  unfold execDtPageRelease
  refine completes_of_checks hacc (firstFail_of_all_false ?_) rfl
  simp only [List.forall_mem_cons, List.not_mem_nil, false_implies, implies_true, and_true]
  exact ⟨hbad, by rw [hheld']; rfl⟩

/-- A page that is not marked returns to the list of its stack. -/
theorem stack_freePage (h : Table.wf (fun _ => ({} : Stack)) s.path.hbm = true) {page : Nat} {k : Stack} (hk : k = s.stack (page / 2 ^ 22))
    (hservice : s.stackState (page / 2 ^ 22) ≠ 2) (hpend : k.pending.contains (page % 2 ^ 22) = false) :
    (s.freePage page).stack (page / 2 ^ 22) = { k with used := k.used - 1, back := k.back ++ [page % 2 ^ 22] } := by
  subst hk
  refine (stack_onStack h ..).trans ?_
  rw [if_neg hservice, if_neg (Bool.eq_false_iff.1 hpend)]

/-! ### The scrub's settings, and the answer about stacks (R284) -/

theorem fld_of_reg {t : State} {f : Fld} {i : Nat} (h : t.reg f.reg i = s.reg f.reg i) : t.fld f i = s.fld f i := by
  unfold State.fld
  rw [h]

/-- The scrub's enable and divider of a quadrant. -/
def State.scrubCtl (en div : Nat) (s : State) (q : Nat) : State := (s.setFld F.dtCtl_SCRUB_EN q en).setFld F.dtCtl_SCRUB_DIV q div

theorem scrubCtl_wf (h : RegsWf s) (en div q : Nat) : RegsWf (s.scrubCtl en div q) := wf_setFld (wf_setFld h _ _ _) _ _ _

theorem scrubCtl_frame (h : RegsWf s) {en div q i : Nat} {r : Reg} (hne : ¬(r = .dtCtl ∧ i = q)) : (s.scrubCtl en div q).reg r i = s.reg r i :=
  (reg_setFld_ne (wf_setFld h _ _ _) _ hne).trans (reg_setFld_ne h _ hne)

/-- The scrub's fields hold what is put; the others of the register stay. -/
theorem scrubCtl_fields (h : RegsWf s) {en div : Nat} (hen : en < 2) (hdiv : div ≤ 7) (q : Nat) :
    (s.scrubCtl en div q).flag F.dtCtl_SCRUB_EN q = decide (en ≠ 0) ∧ (s.scrubCtl en div q).fld F.dtCtl_SCRUB_DIV q = div
    ∧ (s.scrubCtl en div q).fld F.dtCtl_WB_LL q = s.fld F.dtCtl_WB_LL q
    ∧ (s.scrubCtl en div q).fld F.dtCtl_FLUSH_SLOTS q = s.fld F.dtCtl_FLUSH_SLOTS q := by
  have hset := wf_setFld h F.dtCtl_SCRUB_EN q en
  have hother : ∀ g : Fld, g.reg = .dtCtl → (g.lo + g.width ≤ 12 ∨ 16 ≤ g.lo) → (s.scrubCtl en div q).fld g q = s.fld g q := fun g hr hb =>
    (fld_setFld_other hset (by decide) q div hr (hb.imp (Nat.le_trans · (by decide)) id)).trans
      (fld_setFld_other h (by decide) q en hr (hb.imp id (Nat.le_trans (by decide))))
  refine ⟨?_, ?_, hother _ rfl (.inr (by decide)), hother _ rfl (.inl (by decide))⟩
  · have hkept : (s.scrubCtl en div q).fld F.dtCtl_SCRUB_EN q = en := by
      have hfirst : (s.setFld F.dtCtl_SCRUB_EN q en).fld F.dtCtl_SCRUB_EN q = en :=
        (fld_setFld_self h (by decide) q en).trans (Nat.mod_eq_of_lt hen)
      have hsecond : (s.scrubCtl en div q).fld F.dtCtl_SCRUB_EN q = (s.setFld F.dtCtl_SCRUB_EN q en).fld F.dtCtl_SCRUB_EN q :=
        fld_setFld_other hset (by decide) q div rfl (by decide)
      exact hsecond.trans hfirst
    rw [State.flag, hkept]
  · exact (fld_setFld_self hset (by decide) q div).trans (Nat.mod_eq_of_lt (Nat.lt_succ_of_le hdiv))

/-- After the scrub has been set in several quadrants, its fields hold in each of them what was put; the others of DT_CTL stay. -/
theorem scrubCtls_self (h : RegsWf s) {en div : Nat} (hen : en < 2) (hdiv : div ≤ 7) {l : List Nat} (hl : l.Nodup) {q : Nat} (hq : q ∈ l) {t : State}
    (ht : t = l.foldl (State.scrubCtl en div) s) : t.flag F.dtCtl_SCRUB_EN q = decide (en ≠ 0) ∧ t.fld F.dtCtl_SCRUB_DIV q = div
    ∧ t.fld F.dtCtl_WB_LL q = s.fld F.dtCtl_WB_LL q ∧ t.fld F.dtCtl_FLUSH_SLOTS q = s.fld F.dtCtl_FLUSH_SLOTS q := by
  subst ht
  obtain ⟨u, hu, hkept, hset⟩ := foldl_of_mem (P := RegsWf) (g := fun v => v.reg .dtCtl q) (f := State.scrubCtl en div)
    (fun _ _ hv => scrubCtl_wf hv ..) (fun _ _ hv hne => scrubCtl_frame hv fun hk => hne hk.2.symm) hl hq h
  obtain ⟨hfen, hfdiv, hll, hflush⟩ := scrubCtl_fields hu hen hdiv q
  exact ⟨(flag_of_reg hset).trans hfen, (fld_of_reg hset).trans hfdiv, (fld_of_reg hset).trans (hll.trans (fld_of_reg hkept)),
    (fld_of_reg hset).trans (hflush.trans (fld_of_reg hkept))⟩

theorem scrubCtls_other (h : RegsWf s) {en div : Nat} {l : List Nat} {r : Reg} {i : Nat} (hne : r ≠ .dtCtl ∨ i ∉ l) :
    (l.foldl (State.scrubCtl en div) s).reg r i = s.reg r i := by
  refine (List.foldlRecOn (motive := fun u : State => RegsWf u ∧ u.reg r i = s.reg r i) l _ ⟨h, rfl⟩ fun u ⟨hu, hkept⟩ q hq => ?_).2
  have hplace : ¬(r = .dtCtl ∧ i = q) := by
    rintro ⟨hr, rfl⟩
    exact hne.elim (· hr) (· hq)
  exact ⟨scrubCtl_wf hu .., (scrubCtl_frame hu hplace).trans hkept⟩

theorem mem_onesOf {w m q : Nat} : q ∈ onesOf w m ↔ q < w ∧ m.testBit q = true := by simp [onesOf]

theorem onesOf_nodup (w m : Nat) : (onesOf w m).Nodup := List.nodup_range.filter _

theorem dtScrubSet_completes (hacc : Accepts 0x0605 p s) (ha : readParams 0x0605 p.params = a) (hbad : a.bad = false) (hmin : 2 ≤ a.n 2)
    (hmax : a.n 2 ≤ 7) (hquads : ∀ q, q < 4 → (a.n 0).testBit q = true → s.hasQuad q = true) :
    Completes (.dtScrubSet p) 0x0605 p s ((onesOf 4 (a.n 0)).foldl (State.scrubCtl (a.n 1) (a.n 2)) (begun 0x0605 p s)) .ok (emitBlock []) := by
  subst ha
  have habsent := no_absent_quad (s := begun 0x0605 p s) hquads
  change execDtScrubSet p s = _
  unfold execDtScrubSet
  refine completes_of_checks hacc (firstFail_of_all_false ?_) rfl
  simp only [List.forall_mem_cons, List.not_mem_nil, false_implies, implies_true, and_true]
  exact ⟨habsent, by simp [hbad, hmax, Nat.not_lt.2 hmin]⟩

/-- The state, free pages and retired pages of a stack as DT_STATUS_GET answers them: a byte, three of padding, two numbers of 4 bytes (R491). -/
def stackBytes (state free retired : Nat) : List Byte := leBytes 1 state ++ List.replicate 3 0 ++ leBytes 4 free ++ leBytes 4 retired

theorem emitFrom_stack (x y z : Nat) (rest : List (Ty × Nat)) {pos : Nat} (hpos : pos % 4 = 0) :
    emitFrom ([(Ty.u 2, x), (.u 32, y), (.u 32, z)] ++ rest) pos = stackBytes x y z ++ emitFrom rest (pos + 12) := by
  have hbyte : numBytes 2 = 1 := rfl
  have hword : numBytes 32 = 4 := rfl
  have hpad : padTo 1 pos = 0 ∧ padTo 4 (pos + 1) = 3 ∧ padTo 4 (pos + 1 + 3 + 4) = 0 := by simp only [padTo]; omega
  obtain ⟨hfirst, hsecond, hthird⟩ := hpad
  simp only [List.cons_append, List.nil_append, emitFrom, Ty.align, Ty.size, Ty.encode, hbyte, hword, hfirst, hsecond, hthird, Nat.add_zero,
    List.replicate_zero, stackBytes, List.append_assoc]

theorem stackBytes_length (x y z : Nat) : (stackBytes x y z).length = 12 := by simp [stackBytes]

theorem leAt_stackBytes (x y z : Nat) (rest : List Byte) : leAt (stackBytes x y z ++ rest) 0 1 = x % 256
    ∧ leAt (stackBytes x y z ++ rest) 4 4 = y % 2 ^ 32 ∧ leAt (stackBytes x y z ++ rest) 8 4 = z % 2 ^ 32 := by
  simp only [stackBytes, List.append_assoc]
  refine ⟨leAt_leBytes_append 1 x _, ?_, ?_⟩
  · rw [← List.append_assoc]
    exact (leAt_append_right (by simp) _ 0 4).trans (leAt_leBytes_append 4 y _)
  · rw [← List.append_assoc, ← List.append_assoc]
    exact (leAt_append_right (by simp) _ 0 4).trans (leAt_leBytes_append 4 z _)

/-- What DT_STATUS_GET answers of a stack: its state, and its free and retired pages. -/
def State.stackFields (s : State) (x : Nat) : List (Ty × Nat) :=
  [(.u 2, s.stackState x), (.u 32, (s.stack x).free), (.u 32, (s.stack x).retired.length + (s.stack x).pending.length)]

/-- What it answers of the quadrant: SHARED, the occupancy of the write buffer, and the sums of RSV and PAGES. -/
def State.quadFields (s : State) (q : Nat) : List (Ty × Nat) :=
  [(.s 24, ofSigned 32 (s.sharedPages q)), (.u 32, s.wbuf q), (.u 32, s.sumRsv q), (.u 32, (s.deepQueues q).foldl (fun a qu => a + s.pagesOf qu) 0)]

theorem dtStatusGet_completes (hacc : Accepts 0x0606 p s) (ha : readParams 0x0606 p.params = a) (hbad : a.bad = false)
    (hquad : s.hasQuad (a.n 0) = true) : Completes (.dtStatusGet p) 0x0606 p s (begun 0x0606 p s) .ok
      (emitBlock (s.stackFields (2 * a.n 0) ++ s.stackFields (2 * a.n 0 + 1) ++ s.quadFields (a.n 0))) := by
  subst ha
  change execDtStatusGet p s = _
  unfold execDtStatusGet
  refine completes_of_checks hacc (firstFail_of_all_false ?_) rfl
  simp [hbad, hquad]

theorem stackState_lt (s : State) (x : Nat) : s.stackState x < 4 := Nat.mod_lt _ (by decide)

/-- The answers of two stacks stand one behind the other in 24 bytes. -/
theorem leAt_stackFields (s : State) (q : Nat) (rest : List (Ty × Nat)) {j : Nat} (hj : j < 2) {ps : List Byte}
    (hps : ps = emitBlock (s.stackFields (2 * q) ++ s.stackFields (2 * q + 1) ++ rest)) :
    leAt ps (12 * j) 1 = s.stackState (2 * q + j) ∧ leAt ps (12 * j + 4) 4 = (s.stack (2 * q + j)).free % 2 ^ 32
    ∧ leAt ps (12 * j + 8) 4 = ((s.stack (2 * q + j)).retired.length + (s.stack (2 * q + j)).pending.length) % 2 ^ 32 := by
  subst hps
  have hstate : s.stackState (2 * q + j) % 256 = s.stackState (2 * q + j) := Nat.mod_eq_of_lt (Nat.lt_trans (stackState_lt ..) (by decide))
  rw [emitBlock, List.append_assoc, State.stackFields, State.stackFields, emitFrom_stack _ _ _ _ rfl, emitFrom_stack _ _ _ _ rfl, List.append_assoc,
    List.append_assoc]
  obtain rfl | rfl : j = 0 ∨ j = 1 := by omega
  · obtain ⟨h0, h4, h8⟩ := leAt_stackBytes (s.stackState (2 * q)) (s.stack (2 * q)).free
      ((s.stack (2 * q)).retired.length + (s.stack (2 * q)).pending.length) _
    exact ⟨h0.trans hstate, h4, h8⟩
  · obtain ⟨h0, h4, h8⟩ := leAt_stackBytes (s.stackState (2 * q + 1)) (s.stack (2 * q + 1)).free
      ((s.stack (2 * q + 1)).retired.length + (s.stack (2 * q + 1)).pending.length) _
    have hskip := leAt_append_right (stackBytes_length (s.stackState (2 * q)) (s.stack (2 * q)).free
      ((s.stack (2 * q)).retired.length + (s.stack (2 * q)).pending.length))
    exact ⟨(hskip _ 0 1).trans (h0.trans hstate), (hskip _ 4 4).trans h4, (hskip _ 8 4).trans h8⟩

end

/-- Settles O47: each packet passes its checks; the fields it writes are read back from the registers, tables and bytes it leaves. -/
theorem deepTierPacketsAnswer : Obligations.DeepTierPacketsAnswer := by
  refine ⟨?queueSet, ?queueGet, ?stackRetire, ?pageRetire, ?pageRelease, ?scrubSet, ?statusGet⟩
  case queueSet =>
    intro p a k s h hacc ha hbad hport hhidden hrsv hmax hlow hhigh hcap hroom hk hlost hfits
    obtain ⟨hregRsv, hregMax, hregRb, hother⟩ := queueConfig_frame (s := begun 0x0600 p s) h.regs k (a.n 1) (a.n 2) (a.n 3) (a.n 4)
    obtain ⟨hfRsv, hfMax, hfLow, hfHigh⟩ := queueConfig_fields hrsv hmax hhigh hcap
    refine ⟨_, dtQueueSet_completes hacc ha hbad hport hhidden hrsv hmax hlow hhigh hcap hroom hk hlost hfits, ?_, ?_,
      (fld_of_reg_eq (f := F.dtQcfgRb_RB_LOW) hregRb).trans hfLow, (fld_of_reg_eq (f := F.dtQcfgRb_RB_HIGH) hregRb).trans hfHigh, hother⟩
    · rw [State.rsvPages, ← hk]
      exact (fld_of_reg_eq (f := F.dtQcfgRsv_PAGES) hregRsv).trans hfRsv
    · rw [State.maxPages, ← hk]
      exact (fld_of_reg_eq (f := F.dtQcfgMax_PAGES) hregMax).trans hfMax
  case queueGet =>
    intro p a k s hacc ha hbad hport hk
    exact dtQueueGet_completes hacc ha hbad hport hk
  case stackRetire =>
    intro p a s h hacc ha hbad hpresent hlive heven hodd
    refine ⟨_, dtStackRetire_completes hacc ha hbad hpresent hlive heven hodd, fun hdrain => ?_, fun hnow => ?_⟩
    · rw [if_pos hdrain]
      exact ⟨fld_setFld_self (f := F.dtStkStat_STATE) (s := begun 0x0602 p s) h.regs (by decide) _ 1, rfl⟩
    · rw [if_neg (by omega)]
      have hbegun : Inv (begun 0x0602 p s) := ⟨h.regs, h.slot, h.whorl⟩
      obtain ⟨hstate, hdone, hks, -⟩ := stackLost_result hbegun (a.n 0)
      exact ⟨hstate, hdone, hks⟩
  case pageRetire =>
    intro p a k s hwf hacc ha hbad hok hk hlimit hret hpend
    have hstack := stack_retirePage (s := begun 0x0603 p s) hwf hk hret hpend
    subst hk
    exact ⟨_, dtPageRetire_completes hacc ha hbad hok hlimit, contains_added .., rfl, fun hused => hstack.trans (if_pos hused),
      fun hfree => hstack.trans (if_neg (Bool.eq_false_iff.1 hfree))⟩
  case pageRelease =>
    intro p a k s hwf hacc ha hbad hheld hk
    refine ⟨_, dtPageRelease_completes hacc ha hbad hheld, ?_,
      fun hservice hpend => stack_freePage (s := begun 0x0604 p s) hwf hk hservice hpend, rfl⟩
    refine List.any_eq_false.2 fun e he => ?_
    simpa using (List.mem_filter.1 he).2
  case scrubSet =>
    intro p a s h hacc ha hbad hmin hmax hquads
    have hen : a.n 1 < 2 := by subst ha; exact readParams_flag_lt hbad rfl
    refine ⟨_, dtScrubSet_completes hacc ha hbad hmin hmax hquads, fun q hq hm => ?_, fun r i hne => ?_⟩
    · exact scrubCtls_self (s := begun 0x0605 p s) h.regs hen hmax (onesOf_nodup ..) (mem_onesOf.2 ⟨hq, hm⟩) rfl
    · refine scrubCtls_other (s := begun 0x0605 p s) h.regs (hne.imp_right fun hm hmem => ?_)
      exact Bool.false_ne_true (hm.symm.trans (mem_onesOf.1 hmem).2)
  case statusGet =>
    intro p a s hacc ha hbad hquad
    exact ⟨_, dtStatusGet_completes hacc ha hbad hquad, fun j hj => leAt_stackFields s (a.n 0) _ hj rfl⟩

end Sys2Proof.Machine

/-!
Flow control of a port (O25): the loads and the expiry of its pause timers, and the frames that the pause generator composes and refreshes.
-/
namespace Sys2Proof.Machine
open Sys2Proof

/-! ### The flow control of a port -/

/-- The table of the ports' flow control is in canonical form. -/
abbrev FlowWf (s : State) : Prop := Table.wf (fun _ => ({} : Flow)) s.path.flow = true

section
variable {s t : State} {p : Nat}

theorem flow_of_path (h : t.path.flow = s.path.flow) (p : Nat) : t.flow p = s.flow p := by rw [State.flow, State.flow, h]

theorem flow_setFlow_self (h : FlowWf s) (p : Nat) (f : Flow) : (s.setFlow p f).flow p = f := Table.get_set_self h _ _

theorem wakeLine_flow (s : State) (p q : Nat) : (s.wakeLine p).flow q = s.flow q := by
  unfold State.wakeLine
  dsimp only
  split
  · rfl
  · split
    · rfl
    · rfl
    · split <;> rfl
    · rfl

theorem showPaused_flow (s : State) (p q : Nat) : (s.showPaused p).flow q = s.flow q := rfl

/-- What a list made of the numbers below `n` holds at one of them. -/
theorem getD_map_range {α : Type} (f : Nat → α) {n c : Nat} (hc : c < n) (d : α) : ((List.range n).map f).getD c d = f c := by
  simp [List.getD, hc]

end

/-! ### Pause loads (R296) -/

/-- The timers of a port after a load: those of the classes that it names are its own. -/
def loadTimers (ts : List Nat) (l : Nat × Nat × List Nat) : List Nat :=
  (List.range 8).map fun c => if l.2.1.testBit c then l.2.2.getD c 0 else ts.getD c 0

theorem getD_loadTimers (ts : List Nat) (l : Nat × Nat × List Nat) {c : Nat} (hc : c < 8) :
    (loadTimers ts l).getD c 0 = if l.2.1.testBit c then l.2.2.getD c 0 else ts.getD c 0 := by
  rw [loadTimers, getD_map_range _ hc]

theorem pauseLoadApply_of_due {s : State} {p : Nat} {l : Nat × Nat × List Nat} (hl : (s.flow p).loads = [l]) (hdue : l.1 ≤ s.tick.slot) :
    exec (.pauseLoadApply p) s
      = .next ((s.setFlow p { s.flow p with timers := loadTimers (s.flow p).timers l, loads := [] }).showPaused p) := by
  change execPauseLoadApply p s = _
  simp [execPauseLoadApply, hl, hdue, loadTimers]

/-! ### The pause timers at a slot edge (R296) -/

/-- A port's flow control after a slot: each timer has fallen by 4 units. -/
def Flow.fallen (f : Flow) : Flow := { f with timers := f.timers.map fun t => t - 4 }

section
variable {s : State} {p : Nat}

theorem timerStep_flow (s : State) (q : Nat) (f : Flow) :
    (s.timerStep q f).path.flow = Table.set (fun _ => ({} : Flow)) s.path.flow q f.fallen := rfl

theorem timerStep_wf (h : FlowWf s) (q : Nat) (f : Flow) : FlowWf (s.timerStep q f) := Table.wf_set h _ _

/-- The steps of other ports' timers leave a port's flow control alone. -/
theorem timerSteps_other (h : FlowWf s) {l : Table Flow} (hl : ∀ e ∈ l, p ≠ e.1) :
    (l.foldl (fun s e => s.timerStep e.1 e.2) s).flow p = s.flow p :=
  (List.foldlRecOn (motive := fun u : State => FlowWf u ∧ u.flow p = s.flow p) l _ ⟨h, rfl⟩ fun _ ⟨hu, hkept⟩ e he =>
    ⟨timerStep_wf hu .., (Table.get_set_ne hu _ (hl e he)).trans hkept⟩).2

/-- Among the ports of a table in order, a listed port's timers fall once. -/
theorem timerSteps_listed (h : FlowWf s) {l : Table Flow} {lo : Nat} (hl : Table.sortedFrom lo l = true) {f : Flow} (hf : (p, f) ∈ l) :
    (l.foldl (fun s e => s.timerStep e.1 e.2) s).flow p = f.fallen := by
  induction l generalizing lo s with
  | nil => exact absurd hf List.not_mem_nil
  | cons e l ih =>
    simp only [Table.sortedFrom, Bool.and_eq_true, decide_eq_true_eq] at hl
    rcases List.mem_cons.1 hf with rfl | hf
    · have hlater : ∀ e ∈ l, p ≠ e.1 := fun e he => Nat.ne_of_lt (Table.get_of_mem (d := fun _ => {}) hl.2 he).2
      exact (timerSteps_other (timerStep_wf h ..) hlater).trans (Table.get_set_self h _ _)
    · exact ih (timerStep_wf h ..) hl.2 hf

/-- The time engine's part of the slot edge leaves the data path alone. -/
theorem timeEdge_path (s : State) : s.timeEdge.path = s.path := by
  have hload : ∀ u : State, u.loadEdge.path = u.path := fun u => by
    unfold State.loadEdge
    split
    · unfold State.loadBase
      dsimp only
      split <;> rfl
    · rfl
  have hwrap : ∀ u : State, u.wrapTest.path = u.path := fun u => by
    unfold State.wrapTest
    dsimp only
    split <;> split <;> rfl
  have hinc : ∀ u : State, u.incEdge.path = u.path := fun u => by unfold State.incEdge; split <;> rfl
  have hslew : ∀ u : State, u.slewEdge.path = u.path := fun u => by
    unfold State.slewEdge
    split
    · rfl
    · dsimp only
      split <;> rfl
  have hcount : s.counted.path = s.path := by
    unfold State.counted State.clamped
    split <;> rfl
  have hadvanced : s.advanced.path = s.path := by rw [State.advanced, hinc, hslew, hcount]
  rw [State.timeEdge, hload]
  split
  · rw [hwrap, hadvanced]
  · exact hadvanced

/-- The samples, the ring indices and the shapers take their edge without the flow control. -/
theorem shapersEdge_flow (s : State) (l : List Nat) :
    (l.foldl (fun s k => s.shaperStep k) s.tailEdge.sampleEdge).path.flow = s.path.flow := by
  have hsample : ∀ u : State, u.sampleEdge.path = u.path := fun u => by unfold State.sampleEdge; split <;> rfl
  have htail : s.tailEdge.path = s.path := foldl_part (·.path) (by intros; rfl) _ s
  refine (foldl_part (·.path.flow) (by intros; rfl) l _).trans ?_
  rw [hsample, htail]

/-- A port with a timer that runs is listed in the table. -/
theorem flow_listed {c : Nat} (hc : c < 8) (hrun : (s.flow p).timers.getD c 0 ≠ 0) (h : FlowWf s) : (p, s.flow p) ∈ s.path.flow := by
  rcases Table.get_eq_default_or_mem (fun _ => ({} : Flow)) s.path.flow p with hdef | ⟨f, hf⟩
  · have hzero : ∀ c, c < 8 → ({} : Flow).timers.getD c 0 = 0 := by decide
    exact absurd ((congrArg (fun f : Flow => f.timers.getD c 0) hdef).trans (hzero c hc)) hrun
  · have hget : s.flow p = f := (Table.get_of_mem (Bool.and_eq_true_iff.1 h).1 hf).1
    exact hget ▸ hf

/-- At the edge of the data path the timers of a port with one that runs fall. -/
theorem pathEdge_flow (h : FlowWf s) {c : Nat} (hc : c < 8) (hrun : (s.flow p).timers.getD c 0 ≠ 0) :
    s.pathEdge.flow p = (s.flow p).fallen := by
  have hany : ((s.flow p).timers.any fun t => t != 0) = true := by
    have hlt : c < (s.flow p).timers.length := by
      by_contra hge
      exact hrun (List.getD_eq_default _ _ (Nat.not_lt.1 hge))
    rw [List.getD_eq_getElem _ _ hlt] at hrun
    exact List.any_eq_true.2 ⟨_, List.getElem_mem hlt, bne_iff_ne.2 hrun⟩
  have hflow := shapersEdge_flow s s.tailEdge.sampleEdge.shapersOn
  have hlisted : (p, s.flow p) ∈ s.path.flow.filter fun e => e.2.timers.any fun t => t != 0 := List.mem_filter.2 ⟨flow_listed hc hrun h, hany⟩
  have hsorted : Table.sortedFrom 0 s.path.flow = true := (Bool.and_eq_true_iff.1 h).1
  rw [← hflow] at hlisted hsorted
  refine (flow_of_path ?edge p).trans (timerSteps_listed (by rw [FlowWf, hflow]; exact h) (Table.sorted_filter hsorted _) hlisted)
  case edge => rfl

theorem nextSlot_flow (s : State) (p : Nat) : s.nextSlot.flow p = s.flow p := rfl

/-- A timer of at most 4 units that runs stands at 0 after the edge. -/
theorem slotEdge_timer (h : FlowWf s) (hlock : s.tick.locked = true) {c : Nat} (hc : c < 8) (hrun : (s.flow p).timers.getD c 0 ≠ 0)
    (hlast : (s.flow p).timers.getD c 0 ≤ 4) : ((slotEdge s).flow p).timers.getD c 0 = 0 := by
  have hkept : s.timeEdge.flow p = s.flow p := flow_of_path (by rw [timeEdge_path]) p
  have hedge : (slotEdge s).flow p = (s.flow p).fallen := by
    rw [slotEdge_of_locked hlock, nextSlot_flow, ← hkept]
    exact pathEdge_flow (s := s.timeEdge) (by rw [FlowWf, timeEdge_path]; exact h) hc (by rwa [hkept])
  rw [hedge]
  exact (List.getD_map (l := (s.flow p).timers) (n := c) (d := 0) fun t => t - 4).trans (Nat.sub_eq_zero_of_le hlast)

theorem pauseTimerExpire_of_last (hlock : s.tick.locked = true) {c : Nat} (hc : c < 8) (hrun : (s.flow p).timers.getD c 0 ≠ 0)
    (hlast : (s.flow p).timers.getD c 0 ≤ 4) : exec (.pauseTimerExpire p c) s = .next (slotEdge s) := by
  change execPauseTimerExpire p c s = _
  rw [execPauseTimerExpire, if_pos (by simp only [hlock, hc, hlast, bne_iff_ne.2 hrun, decide_true, Bool.and_true])]

/-! ### The pause generator (R295, R297, R298) -/

/-- The time that a flow-control frame gives a class: QUANTA while its request stands. -/
def State.pfcTime (s : State) (p c : Nat) : Nat := if (s.flow p).req.testBit c then s.quanta p else 0

/-- The flow control of a port whose due classes have gone into a frame. -/
def State.pfcSent (s : State) (p : Nat) : Flow :=
  { s.flow p with
    due := 0
    refresh := (List.range 8).map fun c =>
      if (s.flow p).due.testBit c && (s.flow p).req.testBit c then s.tick.slot + s.refreshSlots p else (s.flow p).refresh.getD c 0
    frames := (s.flow p).frames ++ [s.pfcFrame p (s.flow p).due (s.pfcTime p)] }

/-- The next refresh of a standing class is half of its pause away (R297). -/
theorem getD_pfcSent_refresh {c : Nat} (hc : c < 8) (hdue : (s.flow p).due.testBit c = true) (hreq : (s.flow p).req.testBit c = true) :
    (s.pfcSent p).refresh.getD c 0 = s.tick.slot + s.refreshSlots p := by
  rw [State.pfcSent, getD_map_range _ hc, hdue, hreq]
  rfl

theorem pfcGenerate_of_due (hp : p < 512) (hdue : (s.flow p).due ≠ 0) (hup : s.linkUp p = true) (hstandby : s.flag F.macMode_STANDBY p = false) :
    exec (.pfcGenerate p) s = .next ((s.setFlow p (s.pfcSent p)).wakeLine p) := by
  change execPfcGenerate p s = _
  rw [execPfcGenerate, if_neg (by simp [hp, hdue, hup, hstandby])]
  rfl

/-- The classes of a port whose request stands and whose refresh has come. -/
def State.refreshing (s : State) (p : Nat) : List Nat :=
  (List.range 8).filter fun c => (s.flow p).req.testBit c && decide ((s.flow p).refresh.getD c 0 ≤ s.tick.slot)

theorem mem_refreshing {c : Nat} (hc : c < 8) (hreq : (s.flow p).req.testBit c = true) (hcome : (s.flow p).refresh.getD c 0 ≤ s.tick.slot) :
    c ∈ s.refreshing p := List.mem_filter.2 ⟨List.mem_range.2 hc, by rw [hreq, decide_eq_true hcome]; rfl⟩

theorem pfcRefresh_of_come (hp : p < 512) (hup : s.linkUp p = true) (hcome : s.refreshing p ≠ []) :
    exec (.pfcRefresh p) s
      = .next (s.setFlow p { s.flow p with due := (s.refreshing p).foldl (fun m c => setBits m c c 1) (s.flow p).due }) := by
  change execPfcRefresh p s = _
  refine if_neg (Bool.eq_false_iff.1 ?_)
  rw [decide_eq_false (Nat.not_le.2 hp), hup]
  exact decide_eq_false hcome

end

/-- A mask in which the bits of a list have been set has the bits of that list, and those it had. -/
theorem testBit_setOnes (l : List Nat) (m c : Nat) :
    (l.foldl (fun m c => setBits m c c 1) m).testBit c = (decide (c ∈ l) || m.testBit c) := by
  induction l generalizing m with
  | nil => rfl
  | cons b l ih =>
    have hbit := testBit_setBits m b 1 1 c Nat.one_pos
    rw [Nat.add_sub_cancel] at hbit
    rw [List.foldl_cons, ih, hbit]
    by_cases hc : c = b
    · subst hc; simp
    · rw [if_neg (by omega)]
      simp [hc]

/-- Settles O25: each event writes the port's flow control, and what it writes is read back from the table. -/
theorem flowControlOfAPort : Obligations.FlowControlOfAPort := by
  refine ⟨?load, ?timer, ?generate, ?refresh⟩
  case load =>
    intro p l s h hl hdue
    have hflow := flow_setFlow_self h p { s.flow p with timers := loadTimers (s.flow p).timers l, loads := [] }
    refine ⟨_, pauseLoadApply_of_due hl hdue, ?_⟩
    rw [showPaused_flow, hflow]
    exact ⟨rfl, fun c hc => getD_loadTimers _ l hc⟩
  case timer =>
    intro p c s h hlock hc hrun hlast
    exact ⟨_, pauseTimerExpire_of_last hlock hc hrun hlast, slotEdge_timer h hlock hc hrun hlast⟩
  case generate =>
    intro p s h hp hdue hup hstandby
    refine ⟨_, pfcGenerate_of_due hp hdue hup hstandby, ?_⟩
    rw [wakeLine_flow, flow_setFlow_self h]
    exact ⟨rfl, rfl, rfl, fun c hc hclass hreq => getD_pfcSent_refresh hc hclass hreq⟩
  case refresh =>
    intro p c s h hp hup hc hreq hcome
    have hmem := mem_refreshing hc hreq hcome
    refine ⟨_, pfcRefresh_of_come hp hup (List.ne_nil_of_mem hmem), ?_⟩
    rw [flow_setFlow_self h]
    exact ⟨by rw [testBit_setOnes, decide_eq_true hmem, Bool.true_or], rfl, rfl⟩

end Sys2Proof.Machine

/-!
Packets of flow control and of the queues (O48): the link parameters and QUANTA of a port, the limits and pools of a queue, the hold policy,
and the flush.
-/
namespace Sys2Proof.Machine
open Sys2Proof

/-- A packet's journal entry leaves the invariant alone. -/
theorem begun_inv {s : State} (h : Inv s) (op : Nat) (p : Packet) : Inv (begun op p s) := ⟨h.regs, h.slot, h.whorl⟩

section
variable {p : Packet} {a : Args} {s : State}

/-! ### Flow control (R307) -/

theorem setReserve_linkPar (s : State) (p c : Nat) (h : Nat × Nat) : (s.setReserve p c h).path.linkPar = s.path.linkPar := by
  unfold State.setReserve
  dsimp only
  split
  · rfl
  · split <;> simp only [State.writeDeep, setFld_path] <;> rfl

theorem recompute_linkPar (s : State) (sl : Nat) : (s.recompute sl).path.linkPar = s.path.linkPar :=
  foldl_part (·.path.linkPar) (fun u k => by dsimp only; split <;> exact setReserve_linkPar ..) (List.range 128) s

/-- The state that the checks of FC_PORT_SET look at: the port has its link parameters, and its slice is computed anew. -/
def State.linkPlan (s : State) (port : Nat) (l : LinkPar) : State :=
  (s.inPath fun t => { t with linkPar := Table.set (fun _ => {}) t.linkPar port l }).recompute (Config.sliceOf port)

/-- The state that FC_PORT_SET leaves: this plan, with QUANTA. -/
def State.linkSet (s : State) (port : Nat) (l : LinkPar) (n : Nat) : State := (s.linkPlan port l).setFld F.fcCfg_QUANTA port n

theorem linkSet_linkPar (h : Table.wf (fun _ => ({} : LinkPar)) s.path.linkPar = true) (port : Nat) (l : LinkPar) (n : Nat) :
    (s.linkSet port l n).linkPar port = l ∧ ∀ x, x ≠ port → (s.linkSet port l n).linkPar x = s.linkPar x := by
  simp only [State.linkPar, State.linkSet, setFld_path, State.linkPlan, recompute_linkPar]
  exact ⟨Table.get_set_self h _ _, fun x hx => Table.get_set_ne h _ hx⟩

/-- What the headroom's recomputation may change. -/
def planChange : Change := { parts := [.path], regs := [.dtQcfgRsv, .qmQmode] }

theorem linkPlan_keeps (h : Inv s) (port : Nat) (l : LinkPar) : Keeps planChange s (s.linkPlan port l) :=
  keeps_recompute (keeps_inPath (keeps_self h) (by decide)) (Change.le_self _)

/-- QUANTA put behind the recomputation holds its value, and LL_MASK beside it stays. -/
theorem linkSet_fields (h : Inv s) (port : Nat) (l : LinkPar) {n : Nat} (hn : n < 2 ^ 16) :
    (s.linkSet port l n).fld F.fcCfg_QUANTA port = n ∧ (s.linkSet port l n).fld F.fcCfg_LL_MASK port = s.fld F.fcCfg_LL_MASK port := by
  have hplan := linkPlan_keeps h port l
  have hmask := hplan.within.regs .fcCfg port (by decide)
  refine ⟨(fld_setFld_self hplan.regs (f := F.fcCfg_QUANTA) (by decide) port n).trans (Nat.mod_eq_of_lt hn), ?_⟩
  exact (fld_setFld_other hplan.regs (f := F.fcCfg_QUANTA) (g := F.fcCfg_LL_MASK) (by decide) port n rfl (.inl (by decide))).trans
    (fld_of_reg hmask)

theorem fcPortSet_completes {l : LinkPar} (hacc : Accepts 0x0700 p s) (ha : readParams 0x0700 p.params = a) (hbad : a.bad = false)
    (hfront : a.n 0 < 512) (hport : s.hasPort (a.n 0) = true) (hhidden : s.hidden (a.n 0) = false) (hlink : a.n 1 ≤ 1000000)
    (hresp : a.n 2 ≤ 100000) (hmin : 64 ≤ a.n 3) (hmax : a.n 3 ≤ 10240) (hquanta : 256 ≤ a.n 4)
    (hl : l = { linkNs := a.n 1, respNs := a.n 2, peerMfs := a.n 3 })
    (hfits : firstFail (limitChecks (begun 0x0700 p s) ((begun 0x0700 p s).linkPlan (a.n 0) l) (Config.quadOf (a.n 0))) = none) :
    Completes (.fcPortSet p) 0x0700 p s ((begun 0x0700 p s).linkSet (a.n 0) l (a.n 4)) .ok (emitBlock []) := by
  subst ha hl
  have hhidden' : (begun 0x0700 p s).hidden ((readParams 0x0700 p.params).n 0) = false := hhidden
  change execFcPortSet p s = _
  unfold execFcPortSet
  refine completes_of_checks hacc ?_ rfl
  rw [firstFail_append (firstFail_of_all_false ?range)]
  case range => simp [hport, hhidden', hbad, hfront, hlink, hresp, hmin, hmax, hquanta]
  exact hfits

/-- The first numbers that FC_PORT_GET answers: the link parameters, QUANTA and FC_STAT. -/
def State.fcFields (s : State) (port : Nat) : List (Ty × Nat) :=
  [ (.u 32, (s.linkPar port).linkNs), (.u 32, (s.linkPar port).respNs), (.u 16, (s.linkPar port).peerMfs), (.u 16, s.fld F.fcCfg_QUANTA port),
    (.u 32, (s.view .fcStat port).toNat) ]

/-- What stands behind them: the lossless classes with W, rsv, O and S of each, and the quadrant's share in use. -/
def State.fcPairFields (s : State) (port : Nat) : List (Ty × Nat) :=
  (.u 8, if port < 512 then s.planMask port else 0) ::
    (((if port < 512 then (s.plan (Config.sliceOf port)).filter fun e => e.1.1 = port else []).flatMap fun e =>
      [ (Ty.u 32, e.2.w), (.u 32, e.2.rsv), (.u 32, e.2.onDie), (.u 32, e.2.pages), (.flag, b2n (e.2.pages != 0)) ])
    ++ [(.u 32, s.shareUsed (Config.quadOf port))])

theorem fcPortGet_completes (hacc : Accepts 0x0701 p s) (ha : readParams 0x0701 p.params = a) (hbad : a.bad = false)
    (hport : s.hasPort (a.n 0) = true) : Completes (.fcPortGet p) 0x0701 p s (begun 0x0701 p s) .ok
      (emitBlock (s.fcFields (a.n 0) ++ s.fcPairFields (a.n 0))) := by
  subst ha
  change execFcPortGet p s = _
  unfold execFcPortGet
  refine completes_of_checks hacc (firstFail_of_all_false ?_) rfl
  simp [hbad, hport]

/-- A block that begins with two numbers of 4 bytes, two of 2 and one of 4 needs no padding between them (R491). -/
theorem emitFrom_fcFields (l r m q st : Nat) (rest : List (Ty × Nat)) :
    emitFrom ([(Ty.u 32, l), (.u 32, r), (.u 16, m), (.u 16, q), (.u 32, st)] ++ rest) 0
      = leBytes 4 l ++ (leBytes 4 r ++ (leBytes 2 m ++ (leBytes 2 q ++ (leBytes 4 st ++ emitFrom rest 16)))) := rfl

theorem leAt_fcFields (s : State) (port : Nat) (rest : List (Ty × Nat)) {ps : List Byte} (hps : ps = emitBlock (s.fcFields port ++ rest)) :
    leAt ps 0 4 = (s.linkPar port).linkNs % 2 ^ 32 ∧ leAt ps 4 4 = (s.linkPar port).respNs % 2 ^ 32
    ∧ leAt ps 8 2 = (s.linkPar port).peerMfs % 2 ^ 16 ∧ leAt ps 10 2 = s.fld F.fcCfg_QUANTA port
    ∧ leAt ps 12 4 = (s.view .fcStat port).toNat := by
  have hskip : ∀ n v (bs : List Byte) k w, leAt (leBytes n v ++ bs) (n + k) w = leAt bs k w := fun n v bs k w =>
    leAt_append_right (leBytes_length n v) bs k w
  subst hps
  rw [emitBlock, State.fcFields, emitFrom_fcFields]
  simp only [List.append_assoc]
  refine ⟨leAt_leBytes_append 4 _ _, ?_, ?_, ?_, ?_⟩
  · exact (hskip 4 _ _ 0 4).trans (leAt_leBytes_append 4 _ _)
  · exact (hskip 4 _ _ 4 2).trans ((hskip 4 _ _ 0 2).trans (leAt_leBytes_append 2 _ _))
  · refine (hskip 4 _ _ 6 2).trans ((hskip 4 _ _ 2 2).trans ((hskip 2 _ _ 0 2).trans ((leAt_leBytes_append 2 _ _).trans ?_)))
    exact Nat.mod_eq_of_lt (Nat.mod_lt _ (by decide))
  · refine (hskip 4 _ _ 8 4).trans ((hskip 4 _ _ 4 4).trans ((hskip 2 _ _ 2 4).trans ((hskip 2 _ _ 0 4).trans ?_)))
    exact (leAt_leBytes_append 4 _ _).trans (Nat.mod_eq_of_lt (BitVec.isLt _))

/-! ### Queues (R308) -/

/-- QM_QLIM as QM_QUEUE_SET writes it. -/
def queueWord (limit yel red : Nat) : Word := word (red * 2 ^ 24 + yel * 2 ^ 20 + limit)

theorem queueWord_fields {limit yel red : Nat} (hlimit : limit ≤ 65536) (hyel : yel ≤ 8) (hred : red ≤ 8) :
    (queueWord limit yel red).toNat / 2 ^ 0 % 2 ^ 17 = limit ∧ (queueWord limit yel red).toNat / 2 ^ 20 % 2 ^ 4 = yel
    ∧ (queueWord limit yel red).toNat / 2 ^ 24 % 2 ^ 4 = red := by
  simp only [queueWord, word, BitVec.toNat_ofNat]
  omega

/-- QM_QPOOL with the two bits of class-queue `k` replaced. -/
def poolWord (w : Word) (k pool : Nat) : Word := word (setBits w.toNat (2 * k + 1) (2 * k) pool)

theorem poolWord_pools (w : Word) {k : Nat} (hk : k < 16) {pool : Nat} (hpool : pool < 4) (j : Nat) :
    (poolWord w k pool).toNat / 4 ^ j % 4 = if j = k then pool else w.toNat / 4 ^ j % 4 := by
  have hlt : setBits w.toNat (2 * k + 1) (2 * k) pool < 2 ^ 32 := setBits_lt (w := 2) w.isLt (by decide) (by omega)
  have hpair : ∀ x, x / 4 ^ j % 4 = (x >>> (2 * j)) % 2 ^ 2 := fun x => by rw [Nat.shiftRight_eq_div_pow, pow_mul]; rfl
  rw [poolWord, word, BitVec.toNat_ofNat, Nat.mod_eq_of_lt hlt, hpair, hpair]
  by_cases hj : j = k
  · subst hj
    rw [if_pos rfl]
    exact (setBits_field _ (2 * j) 2 pool (by decide)).trans (Nat.mod_eq_of_lt hpool)
  · rw [if_neg hj]
    exact setBits_other _ (2 * k) 2 pool (2 * j) 2 (by decide) (by omega)

/-- The registers of a queue as QM_QUEUE_SET writes them. -/
def State.queueLimits (s : State) (qu limit yel red pool : Nat) : State :=
  (s.setReg .qmQlim qu (queueWord limit yel red)).setReg .qmQpool (qu / 16) (poolWord (s.reg .qmQpool (qu / 16)) (qu % 16) pool)

theorem queueLimits_frame (h : RegsWf s) (qu limit yel red pool : Nat) :
    (s.queueLimits qu limit yel red pool).reg .qmQlim qu = queueWord limit yel red
    ∧ (s.queueLimits qu limit yel red pool).reg .qmQpool (qu / 16) = poolWord (s.reg .qmQpool (qu / 16)) (qu % 16) pool
    ∧ ∀ r i, ¬(r = .qmQlim ∧ i = qu) → ¬(r = .qmQpool ∧ i = qu / 16) → (s.queueLimits qu limit yel red pool).reg r i = s.reg r i := by
  have hlim := wf_setReg h .qmQlim qu (queueWord limit yel red)
  refine ⟨?_, reg_setReg_self hlim .., fun r i hl hp => ?_⟩
  · exact (reg_setReg_ne hlim _ (by simp)).trans (reg_setReg_self h ..)
  · exact (reg_setReg_ne hlim _ hp).trans (reg_setReg_ne h _ hl)

theorem qmQueueSet_completes (hacc : Accepts 0x0702 p s) (ha : readParams 0x0702 p.params = a) (hbad : a.bad = false)
    (hport : s.hasPort (a.n 0 / 16) = true) (hhidden : s.hidden (a.n 0 / 16) = false) (hlimit : a.n 1 ≤ 65536) (hyel : a.n 2 ≤ 8)
    (hred : a.n 3 ≤ a.n 2) (hpool : 1 ≤ a.n 4) (hpools : a.n 4 ≤ 3) :
    Completes (.qmQueueSet p) 0x0702 p s ((begun 0x0702 p s).queueLimits (a.n 0) (a.n 1) (a.n 2) (a.n 3) (a.n 4)) .ok (emitBlock []) := by
  subst ha
  have hhidden' : (begun 0x0702 p s).hidden ((readParams 0x0702 p.params).n 0 / 16) = false := hhidden
  change execQmQueueSet p s = _
  unfold execQmQueueSet
  refine completes_of_checks hacc (firstFail_of_all_false ?_) rfl
  simp [hport, hhidden', hbad, hlimit, hyel, hred, hpools, Nat.pos_iff_ne_zero.1 hpool, hred.trans hyel]

theorem qmQueueGet_completes (hacc : Accepts 0x0703 p s) (ha : readParams 0x0703 p.params = a) (hbad : a.bad = false)
    (hport : s.hasPort (a.n 0 / 16) = true) :
    Completes (.qmQueueGet p) 0x0703 p s (begun 0x0703 p s) .ok (emitBlock [ (.u 32, s.fld F.qmQlim_LIMIT (a.n 0)),
      (.u 8, s.fld F.qmQlim_YEL (a.n 0)), (.u 8, s.fld F.qmQlim_RED (a.n 0)), (.u 8, (s.reg .qmQpool (a.n 0 / 16)).toNat / 4 ^ (a.n 0 % 16) % 4),
      (.u 32, s.cq (a.n 0)), (.flag, if s.lossless (a.n 0) then 1 else 0) ]) := by
  subst ha
  change execQmQueueGet p s = _
  unfold execQmQueueGet
  refine completes_of_checks hacc (firstFail_of_all_false ?_) rfl
  simp [hbad, hport]

/-! ### Ports (R309) -/

theorem qmPortSet_completes (hacc : Accepts 0x0704 p s) (ha : readParams 0x0704 p.params = a) (hbad : a.bad = false) (hfront : a.n 0 < 512)
    (hport : s.hasPort (a.n 0) = true) (hhidden : s.hidden (a.n 0) = false) (hhold : a.n 1 ≠ 3) :
    Completes (.qmPortSet p) 0x0704 p s ((begun 0x0704 p s).setReg .qmPortCfg (a.n 0) (word (a.n 1))) .ok (emitBlock []) := by
  subst ha
  have hhidden' : (begun 0x0704 p s).hidden ((readParams 0x0704 p.params).n 0) = false := hhidden
  change execQmPortSet p s = _
  unfold execQmPortSet
  refine completes_of_checks hacc (firstFail_of_all_false ?_) rfl
  simp [hport, hhidden', hbad, hfront, hhold]

theorem qmPortFlush_completes (hacc : Accepts 0x0705 p s) (ha : readParams 0x0705 p.params = a) (hbad : a.bad = false)
    (hport : s.hasPort (a.n 0) = true) (hflushed : 512 ≤ a.n 0 ∨ (s.configured (a.n 0) = true ∧ s.hidden (a.n 0) = false)) :
    Completes (.qmPortFlush p) 0x0705 p s ((begun 0x0705 p s).flush (a.n 0)).1 .ok
      (emitBlock [(.u 32, ((begun 0x0705 p s).flush (a.n 0)).2)]) := by
  subst ha
  have hcfg : (begun 0x0705 p s).configured ((readParams 0x0705 p.params).n 0) = s.configured ((readParams 0x0705 p.params).n 0) := rfl
  have hhid : (begun 0x0705 p s).hidden ((readParams 0x0705 p.params).n 0) = s.hidden ((readParams 0x0705 p.params).n 0) := rfl
  change execQmPortFlush p s = _
  unfold execQmPortFlush
  refine completes_of_checks hacc (firstFail_of_all_false ?checks) (congrArg (guarded _ _) (if_neg ?number))
  case checks => simp [hbad, hport]
  case number =>
    rw [hcfg, hhid]
    rcases hflushed with hinternal | ⟨hconf, hvis⟩
    · simp [Nat.not_lt.2 hinternal]
    · simp [hconf, hvis]

theorem qmPortFlush_nothing (hacc : Accepts 0x0705 p s) (ha : readParams 0x0705 p.params = a) (hbad : a.bad = false)
    (hport : s.hasPort (a.n 0) = true) (hfront : a.n 0 < 512) (hout : s.configured (a.n 0) = false ∨ s.hidden (a.n 0) = true) :
    Completes (.qmPortFlush p) 0x0705 p s (begun 0x0705 p s) .ok (emitBlock [(.u 32, 0)]) := by
  subst ha
  have hcfg : (begun 0x0705 p s).configured ((readParams 0x0705 p.params).n 0) = s.configured ((readParams 0x0705 p.params).n 0) := rfl
  have hhid : (begun 0x0705 p s).hidden ((readParams 0x0705 p.params).n 0) = s.hidden ((readParams 0x0705 p.params).n 0) := rfl
  change execQmPortFlush p s = _
  unfold execQmPortFlush
  refine completes_of_checks hacc (firstFail_of_all_false ?checks) (congrArg (guarded _ _) (if_pos ?number))
  case checks => simp [hbad, hport]
  case number => simpa [hcfg, hhid, hfront] using hout

/-- The copies in the queues of a port are lost and its hanks dropped (R304). -/
def State.emptyQueues (s : State) (port : Nat) : State :=
  (List.range 16).foldl (fun s i => s.dropHank (16 * port + i) 0x44)
    (((s.withdraw port).queued port).foldl (fun s id => s.loseCopy id port 0x44) (s.withdraw port))

theorem flush_state (s : State) (port : Nat) :
    (s.flush port).1 = (((s.emptyQueues port).count .qmFlushCnt (Config.sliceOf port) 1).raise F.qmStat_FLUSH (Config.sliceOf port)).settle := by
  unfold State.flush State.emptyQueues
  rfl

/-- A flush raises FLUSH of the port's slice (R304). -/
theorem flag_flush (h : Inv s) (port : Nat) : (s.flush port).1.flag F.qmStat_FLUSH (Config.sliceOf port) = true := by
  have hempty : Keeps { parts := [.cnt, .path] } s (s.emptyQueues port) :=
    keeps_foldl (keeps_foldl (keeps_withdraw (keeps_self h) (by decide)) fun _ _ hu => keeps_loseCopy hu (by decide))
      fun _ _ hu => keeps_dropHank hu (by decide)
  have hraised := flag_raise_self (s := (s.emptyQueues port).count .qmFlushCnt (Config.sliceOf port) 1) (f := F.qmStat_FLUSH)
    (by rw [count_regs]; exact hempty.regs) (by decide) (Config.sliceOf port)
  have hsettled : ∀ u : State, u.settle.regs = u.regs := fun _ => rfl
  rw [flush_state, flag_of_regs (hsettled _)]
  exact hraised

end

/-- Settles O48: each packet passes its checks; the fields it writes are read back from the registers, tables and bytes it leaves. -/
theorem queuePacketsAnswer : Obligations.QueuePacketsAnswer := by
  refine ⟨?fcSet, ?fcGet, ?queueSet, ?queueGet, ?portSet, ?portFlush⟩
  case fcSet =>
    intro p a l new s h hwf hacc ha hbad hfront hport hhidden hlink hresp hmin hmax hquanta hl hnew hfits
    have hplan : new = (begun 0x0700 p s).linkPlan (a.n 0) l := hnew.trans (by rw [State.linkPlan])
    subst hplan
    have hn : a.n 4 < 2 ^ 16 := by subst ha; exact readParams_num_lt hbad rfl
    obtain ⟨hself, hother⟩ := linkSet_linkPar (s := begun 0x0700 p s) hwf (a.n 0) l (a.n 4)
    obtain ⟨hfquanta, hfmask⟩ := linkSet_fields (begun_inv h 0x0700 p) (a.n 0) l hn
    exact ⟨_, fcPortSet_completes hacc ha hbad hfront hport hhidden hlink hresp hmin hmax hquanta hl hfits, hfquanta, hself, hother, hfmask⟩
  case fcGet =>
    intro p a s hacc ha hbad hport
    exact ⟨_, fcPortGet_completes hacc ha hbad hport, leAt_fcFields s (a.n 0) _ rfl⟩
  case queueSet =>
    intro p a s h hacc ha hbad hport hhidden hlimit hyel hred hpool hpools
    obtain ⟨hlim, hqpool, hother⟩ := queueLimits_frame (s := begun 0x0702 p s) h.regs (a.n 0) (a.n 1) (a.n 2) (a.n 3) (a.n 4)
    obtain ⟨hflimit, hfyel, hfred⟩ := queueWord_fields hlimit hyel (hred.trans hyel)
    refine ⟨_, qmQueueSet_completes hacc ha hbad hport hhidden hlimit hyel hred hpool hpools,
      (fld_of_reg_eq (f := F.qmQlim_LIMIT) hlim).trans hflimit, (fld_of_reg_eq (f := F.qmQlim_YEL) hlim).trans hfyel,
      (fld_of_reg_eq (f := F.qmQlim_RED) hlim).trans hfred, fun k _ => ?_, hother⟩
    rw [hqpool]
    exact poolWord_pools _ (Nat.mod_lt _ (by decide)) (Nat.lt_succ_of_le hpools) k
  case queueGet =>
    intro p a s hacc ha hbad hport
    exact qmQueueGet_completes hacc ha hbad hport
  case portSet =>
    intro p a s h hacc ha hbad hfront hport hhidden hhold
    have hn : a.n 1 < 2 ^ 2 := by subst ha; exact readParams_num_lt hbad rfl
    have hset := reg_setReg_self (s := begun 0x0704 p s) h.regs .qmPortCfg (a.n 0) (word (a.n 1))
    refine ⟨_, qmPortSet_completes hacc ha hbad hfront hport hhidden hhold, (fld_of_reg_eq (f := F.qmPortCfg_HOLD) hset).trans ?_,
      fun r i hne => reg_setReg_ne (s := begun 0x0704 p s) h.regs _ hne⟩
    show (word (a.n 1)).toNat / 2 ^ 0 % 2 ^ 2 = a.n 1
    rw [word, BitVec.toNat_ofNat]
    omega
  case portFlush =>
    intro p a s h hacc ha hbad hport
    exact ⟨fun hflushed => ⟨_, qmPortFlush_completes hacc ha hbad hport hflushed, rfl, flag_flush (begun_inv h 0x0705 p) _⟩,
      fun hfront hout => qmPortFlush_nothing hacc ha hbad hport hfront hout⟩

end Sys2Proof.Machine

/-!
Reads that clear (O34): a read by the control complex reaches the register at its offset, an RC image or a sum answers what it held and is cleared.
-/
namespace Sys2Proof.Machine
open Sys2Proof

/-! ### What a read by the control complex reaches -/

/-- At a main-view offset a read on the bus is the read of the register that stands there. -/
theorem busRead_main {x : Nat} {r : Reg} {i : Nat} (hx : x < 0x2000000) (hp : placeAt x = .reg r i) (s : State) :
    s.busRead .cc x = s.readReg .cc r i := by
  have hlt : x < 0x8000000 := by omega
  have ha : aliasOf x = (x, 0) := by simp only [aliasOf, judgedAt, if_pos hlt]
  simp only [State.busRead, State.refusal, State.readWord, ha, hp, if_neg (Nat.not_le.2 hx), if_true]

/-- An aligned read is answered to its sender (R532, R533). -/
theorem readAt_main {x : Nat} {r : Reg} {i : Nat} (h4 : x % 4 = 0) (hx : x < 0x2000000) (hp : placeAt x = .reg r i) (s : State) :
    readAt .cc x s = .next ((s.readReg .cc r i).1.emit (.readData .cc x (s.readReg .cc r i).2)) := by
  rw [readAt, if_neg (by simp [h4]), busRead_main hx hp]

/-! ### The reads that clear -/

section
variable {s : State} {r : Reg} {i : Nat}

/-- A read of an RC image answers it and leaves 0 (R475). -/
theorem readReg_rc (hpres : s.regPresent r i = true) (hrst : s.inReset r i = false) (hdma : r.desc.win ≠ .dma)
    (hsum : r.isSumLo = false) (hrc : r.desc.rc = true) (who : Sender) : s.readReg who r i = (s.setReg r i 0, s.reg r i) := by
  unfold State.readReg
  simp only [answers_of_present hpres hrst hdma, hsum, hrc, Bool.false_eq_true, if_false, if_true]

/-- The register in which a read of a sum's low half latches the high half (R332). -/
def Reg.sumHi : Reg → Reg
  | .schDepthSumLo => .schDepthSumHi
  | .schDelaySumLo => .schDelaySumHi
  | .macRxOctLo => .macRxOctHi
  | _ => .macTxOctHi

/-- A read of a sum's low half answers it, latches the high half and clears the sum (R332, R475). -/
theorem readReg_sumLo (hpres : s.regPresent r i = true) (hrst : s.inReset r i = false) (hdma : r.desc.win ≠ .dma)
    (hsum : r.isSumLo = true) (who : Sender) {n : Nat} (hn : n = Table.get (fun _ => 0) s.cnt.sums (regKey r i)) :
    s.readReg who r i = (({ s with cnt := { s.cnt with sums := Table.erase s.cnt.sums (regKey r i) } } : State).setReg r.sumHi i
      (word (n / 2 ^ 32)), word n) := by
  subst hn
  unfold State.readReg
  simp only [answers_of_present hpres hrst hdma, hsum, Bool.false_eq_true, if_false, if_true]
  rfl

end

/-- Settles O34: each read is the register's own (`readAt_main`), an RC image by `readReg_rc`, a sum by `readReg_sumLo`. -/
theorem readsThatClear : Obligations.ReadsThatClear := by
  unfold Obligations.ReadsThatClear
  refine ⟨?image, ?sum⟩
  case image =>
    intro r i s h hp h4 hx hpres hrst hdma hsum hrc
    refine ⟨_, readAt_main h4 hx hp s, ?_⟩
    rw [readReg_rc hpres hrst hdma hsum hrc]
    exact ⟨rfl, reg_setReg_self h.regs r i 0, fun q j hne => reg_setReg_ne h.regs 0 hne⟩
  case sum =>
    intro r i s _ hwf hp h4 hx hpres hrst hdma hsum
    refine ⟨_, readAt_main h4 hx hp s, ?_⟩
    rw [readReg_sumLo hpres hrst hdma hsum .cc rfl]
    exact ⟨Table.get_erase_self (Bool.and_eq_true_iff.1 hwf).1 _, rfl⟩

end Sys2Proof.Machine

/-!
Gate lists (O26): entries and cycles begin, a cycle start is moved, and a swap of the banks is armed, disarmed and executed.
-/
namespace Sys2Proof.Machine
open Sys2Proof

/-! ### The gate hardware and hardware updates -/

abbrev GclWf (s : State) : Prop := Table.wf (fun _ => ({} : GclRun)) s.path.gcl = true

theorem gcl_of_path {s t : State} (h : t.path.gcl = s.path.gcl) (p : Nat) : t.gcl p = s.gcl p := by rw [State.gcl, State.gcl, h]

theorem gcl_setGcl_self {s : State} (h : GclWf s) (p : Nat) (g : GclRun) : (s.setGcl p g).gcl p = g := Table.get_set_self h _ _

theorem setGcl_regs (s : State) (p : Nat) (g : GclRun) : (s.setGcl p g).regs = s.regs := rfl

/-- A hardware update in a slot without writes is put into the field (R541). -/
theorem hwFld_regs {s : State} (h : s.meet.writes = []) (f : Fld) (i v : Nat) : (s.hwFld f i v).regs = (s.setFld f i v).regs := by
  have hnone : s.writtenBy (regKey f.reg i) f.mask = none := by simp [State.writtenBy, h]
  unfold State.hwFld
  rw [hnone]

theorem hwFld_writes {s : State} (h : s.meet.writes = []) (f : Fld) (i v : Nat) : (s.hwFld f i v).meet.writes = [] := by
  have hnone : s.writtenBy (regKey f.reg i) f.mask = none := by simp [State.writtenBy, h]
  unfold State.hwFld
  rw [hnone]
  exact h

/-- Two fields lie apart: in different registers, or in different bits of one. -/
def Fld.apart (f g : Fld) : Bool :=
  g.reg != f.reg || (decide (0 < f.width ∧ f.lo + f.width ≤ 32) && decide (g.lo + g.width ≤ f.lo ∨ f.lo + f.width ≤ g.lo))

/-- A field that is put leaves the fields apart from it. -/
theorem fld_setFld_apart {s : State} (h : RegsWf s) {f g : Fld} (hfg : f.apart g = true) (i v j : Nat) :
    (s.setFld f i v).fld g j = s.fld g j := by
  by_cases hr : g.reg = f.reg
  · have hbits : (0 < f.width ∧ f.lo + f.width ≤ 32) ∧ (g.lo + g.width ≤ f.lo ∨ f.lo + f.width ≤ g.lo) := by
      simpa [Fld.apart, hr] using hfg
    by_cases hj : j = i
    · subst hj
      exact fld_setFld_other h hbits.1 j v hr hbits.2
    · exact fld_setFld_ne h i j v fun c => hj c.2
  · exact fld_setFld_ne h i j v fun c => hr c.1

theorem flag_setFld_apart {s : State} (h : RegsWf s) {f g : Fld} (hfg : f.apart g = true) (i v j : Nat) :
    (s.setFld f i v).flag g j = s.flag g j := by simp only [State.flag, fld_setFld_apart h hfg]

/-- Raising a flag leaves the fields apart from it. -/
theorem fld_raise_apart {s : State} (h : RegsWf s) {f g : Fld} (hfg : f.apart g = true) (i j : Nat) :
    (s.raise f i).fld g j = s.fld g j := fld_setFld_apart h hfg i 1 j

theorem flag_raise_apart {s : State} (h : RegsWf s) {f g : Fld} (hfg : f.apart g = true) (i j : Nat) :
    (s.raise f i).flag g j = s.flag g j := flag_setFld_apart h hfg i 1 j

theorem gclVec_lt (s : State) (p e : Nat) (admin : Bool) : s.gclVec p e admin < 256 := by
  unfold State.gclVec
  split <;> exact Nat.mod_lt _ (by decide)

theorem gclVec_of_reg {s t : State} {p e : Nat} (h : t.reg .gclOperGates (p * 1024 + e) = s.reg .gclOperGates (p * 1024 + e)) :
    t.gclVec p e false = s.gclVec p e false := fld_of_reg (f := F.gclOperGates_GATES) h

/-! ### An entry begins (R322, R323) -/

/-- Entry `e` is the current one from instant `a` on. -/
def State.entered (s : State) (p e a : Nat) : State :=
  (s.setGcl p { s.gcl p with entryStart := a % 2 ^ 32 }).setFld F.gclOperPos_ENTRY p e

theorem enterGate_eq (s : State) (p e a : Nat) : s.enterGate p e a =
    if (s.entered p e a).flag F.macModeStat_GCL_ACT p then (s.entered p e a).applyGates p ((s.entered p e a).gclVec p e false)
    else s.entered p e a := by
  unfold State.enterGate
  rw [← State.entered]

/-- New gates are put into their field of GCL_OPER_POS. -/
theorem applyGates_regs (s : State) (p v : Nat) : (s.applyGates p v).regs = (s.setFld F.gclOperPos_GATES p v).regs := rfl

theorem applyGates_path_gcl (s : State) (p v : Nat) : (s.applyGates p v).path.gcl = s.path.gcl := by
  unfold State.applyGates
  rfl

theorem applyGates_gcl (s : State) (p v q : Nat) : (s.applyGates p v).gcl q = s.gcl q := gcl_of_path (applyGates_path_gcl s p v) q

section
variable {s : State} {p e a : Nat}

theorem entered_wf (h : RegsWf s) : RegsWf (s.entered p e a) := wf_setFld (s := s.setGcl p _) h _ _ _

theorem entered_other (h : RegsWf s) {r : Reg} (hr : r ≠ .gclOperPos) (j : Nat) : (s.entered p e a).reg r j = s.reg r j :=
  reg_setFld_ne (s := s.setGcl p _) h e fun c => hr c.1

theorem entered_entry (h : RegsWf s) (he : e < 1024) : (s.entered p e a).fld F.gclOperPos_ENTRY p = e :=
  (fld_setFld_self (s := s.setGcl p _) h (f := F.gclOperPos_ENTRY) (by decide) p e).trans (Nat.mod_eq_of_lt he)

theorem entered_gcl (hg : GclWf s) : ((s.entered p e a).gcl p).entryStart = a % 2 ^ 32 := by
  have hset : (s.entered p e a).gcl p = { s.gcl p with entryStart := a % 2 ^ 32 } := gcl_setGcl_self hg p _
  rw [hset]

/-- What the beginning of an entry may change. -/
theorem enterGate_keeps (h : Inv s) (p e a : Nat) : Keeps ⟨[.path], [.gclOperPos], false⟩ s (s.enterGate p e a) :=
  keeps_enterGate (keeps_self h) (Change.le_self _)

theorem enterGate_entry (h : RegsWf s) (he : e < 1024) : (s.enterGate p e a).fld F.gclOperPos_ENTRY p = e := by
  rw [enterGate_eq]
  split
  · rw [fld_of_regs (applyGates_regs _ _ _), fld_setFld_apart (entered_wf h) (by decide), entered_entry h he]
  · exact entered_entry h he

theorem enterGate_start (hg : GclWf s) : ((s.enterGate p e a).gcl p).entryStart = a % 2 ^ 32 := by
  rw [enterGate_eq]
  split
  · rw [applyGates_gcl, entered_gcl hg]
  · exact entered_gcl hg

/-- While the list is active the gates of the entry are in force. -/
theorem enterGate_gates (h : RegsWf s) (hact : s.flag F.macModeStat_GCL_ACT p = true) :
    (s.enterGate p e a).gates p = s.gclVec p e false := by
  have hact' : (s.entered p e a).flag F.macModeStat_GCL_ACT p = true :=
    (flag_of_reg (entered_other h (by decide) p)).trans hact
  have hvec : (s.entered p e a).gclVec p e false = s.gclVec p e false := gclVec_of_reg (entered_other h (by decide) _)
  rw [enterGate_eq, if_pos hact', hvec, State.gates, fld_of_regs (applyGates_regs _ _ _),
    fld_setFld_self (entered_wf h) (by decide)]
  exact Nat.mod_eq_of_lt (gclVec_lt s p e false)

end

/-- At the end of an entry that is not the last, before the cycle start, the next one begins (R322). -/
theorem gateEntryBoundary_of_due {s : State} {p e a : Nat} (hp : p < 512) (hvalid : s.flag F.gclStat_VALID p = true)
    (he : s.fld F.gclOperPos_ENTRY p = e) (ha : ((s.gcl p).entryStart + s.gclDur p e false) % 2 ^ 32 = a)
    (hmore : e + 1 < s.gclLen p false) (hdue : s.dueAt a = true) (hcyc : s.dueAt (s.fld F.gclCycStart_START p) = false) :
    exec (.gateEntryBoundary p) s = .next (s.enterGate p (e + 1) a) := by
  change execGateEntryBoundary p s = _
  simp only [execGateEntryBoundary, he, ha]
  simp [Nat.not_le.2 hp, hvalid, Nat.not_le.2 hmore, hdue, hcyc]

/-! ### A cycle begins (R323) -/

/-- On a port with GATED the list governs from the cycle start on (R80). -/
def State.governed (s : State) (p : Nat) : State :=
  if s.flag F.macMode_GATED p then s.setFld F.macModeStat_GCL_ACT p 1 else s

section
variable {s : State} {p : Nat}

theorem governed_keeps (h : Inv s) (p : Nat) : Keeps ⟨[], [.macModeStat], false⟩ s (s.governed p) :=
  keeps_ite (fun _ => keeps_setFld (keeps_self h) (by decide)) fun _ => keeps_self h

theorem governed_active (h : RegsWf s) (hgated : s.flag F.macMode_GATED p = true) :
    (s.governed p).flag F.macModeStat_GCL_ACT p = true := by
  rw [State.governed, if_pos hgated, flag_setFld_self h (by decide)]
  rfl

/-- The cycle that starts: its first entry has begun, and the start is still to advance. -/
def State.cycled (s : State) (p : Nat) : State := (s.governed p).enterGate p 0 (s.fld F.gclCycStart_START p)

theorem startCycle_eq (s : State) (p : Nat) : s.startCycle p =
    (s.cycled p).hwFld F.gclCycStart_START p ((s.fld F.gclCycStart_START p + (s.governed p).gclCycle p false) % 2 ^ 32) := rfl

theorem cycled_keeps (h : Inv s) (p : Nat) : Keeps ⟨[.path], [.macModeStat, .gclOperPos], false⟩ s (s.cycled p) :=
  keeps_enterGate (keeps_ite (fun _ => keeps_setFld (keeps_self h) (by decide)) fun _ => keeps_self h) (by decide)

/-- With no write in the slot the registers at a cycle start are those of the first entry, with the start advanced. -/
theorem startCycle_regs (h : Inv s) (hw : s.meet.writes = []) (p : Nat) : (s.startCycle p).regs = ((s.cycled p).setFld F.gclCycStart_START p
    ((s.fld F.gclCycStart_START p + (s.governed p).gclCycle p false) % 2 ^ 32)).regs := by
  rw [startCycle_eq, hwFld_regs]
  rw [(cycled_keeps h p).within.meet rfl, hw]

/-- What a cycle start leaves: the first entry is current, and the start has advanced by CYCLE. -/
theorem startCycle_fields (h : Inv s) (hw : s.meet.writes = []) :
    (s.startCycle p).fld F.gclOperPos_ENTRY p = 0
    ∧ (s.startCycle p).fld F.gclCycStart_START p = (s.fld F.gclCycStart_START p + s.fld F.gclOperCycle_CYCLE p) % 2 ^ 32 := by
  have hc := (cycled_keeps h p).regs
  have hregs := startCycle_regs h hw p
  refine ⟨?_, ?_⟩
  · rw [fld_of_regs hregs, fld_setFld_apart hc (by decide)]
    exact enterGate_entry (governed_keeps h p).regs (by decide)
  · have hcyc : (s.governed p).gclCycle p false = s.fld F.gclOperCycle_CYCLE p :=
      fld_of_reg (f := F.gclOperCycle_CYCLE) ((governed_keeps h p).within.regs _ _ rfl)
    rw [fld_of_regs hregs, fld_setFld_self hc (by decide), hcyc]
    exact Nat.mod_mod _ _

/-- What a cycle start leaves on a port with GATED: the list is active, and the gates of its first entry are in force. -/
theorem startCycle_gated (h : Inv s) (hw : s.meet.writes = []) (hgated : s.flag F.macMode_GATED p = true) :
    (s.startCycle p).flag F.macModeStat_GCL_ACT p = true ∧ (s.startCycle p).gates p = s.gclVec p 0 false := by
  have hc := (cycled_keeps h p).regs
  have hregs := startCycle_regs h hw p
  have hgov := keeps_inv (governed_keeps h p)
  have hact := governed_active h.regs hgated
  refine ⟨?_, ?_⟩
  · rw [flag_of_regs hregs, flag_setFld_apart hc (by decide)]
    exact (flag_of_reg ((enterGate_keeps hgov p 0 _).within.regs .macModeStat p rfl)).trans hact
  · rw [State.gates, fld_of_regs hregs, fld_setFld_apart hc (by decide)]
    exact (enterGate_gates hgov.regs hact).trans (gclVec_of_reg ((governed_keeps h p).within.regs .gclOperGates _ rfl))

/-- What a cycle start may change in a slot without writes. -/
theorem startCycle_reg (h : Inv s) (hw : s.meet.writes = []) {r : Reg} (hr : r ∉ [.macModeStat, .gclOperPos, .gclCycStart]) (i : Nat) :
    (s.startCycle p).reg r i = s.reg r i := by
  have hother : Change.may ⟨[.path], [.macModeStat, .gclOperPos], false⟩ r = false := by
    simp only [List.mem_cons, not_or] at hr
    simp [Change.may, hr]
  rw [reg_of_regs (startCycle_regs h hw p), reg_setFld_ne (cycled_keeps h p).regs _ (fun c => hr (by rw [c.1]; decide))]
  exact (cycled_keeps h p).within.regs r i hother

/-- When GCL_CYC_START falls due a cycle begins (R323). -/
theorem gclCycleStart_of_due (hp : p < 512) (hvalid : s.flag F.gclStat_VALID p = true)
    (hdue : s.dueAt (s.fld F.gclCycStart_START p) = true) : exec (.gclCycleStart p) s = .next (s.startCycle p) := by
  change execGclCycleStart p s = _
  unfold execGclCycleStart
  simp [Nat.not_le.2 hp, hvalid, hdue]

end

/-! ### The writes of GCL_CYC_START and GCL_SWAP_CTL (R324, R328) -/

section
variable {s : State} {p : Nat}

theorem gclCycStartWrite_of_cc (hp : p < 512) (hport : s.hasPort p = true) (v : Word) :
    exec (.gclCycStartWrite .cc p v) s = .next ((s.noteWrite .gclCycStart p 0xFFFFFFFF 0).writeCycStart p v.toNat) := by
  change execGclCycStartWrite .cc p v s = _
  unfold execGclCycStartWrite
  simp [Nat.not_le.2 hp, hport, State.ccWrite, partyOf]

/-- A moved cycle start is the value written, or the next slot when that is due already; REALIGN is set (R324). -/
theorem writeCycStart_fields (h : RegsWf s) (v : Word) : (s.writeCycStart p v.toNat).flag F.gclStat_REALIGN p = true
    ∧ (s.writeCycStart p v.toNat).fld F.gclCycStart_START p = if s.dueAt v.toNat then s.nextSlotNs else v.toNat := by
  have hw := wf_setFld h F.gclCycStart_START p (if s.dueAt v.toNat then s.nextSlotNs else v.toNat)
  refine ⟨flag_raise_self hw (by decide) p, ?_⟩
  have hlt : (if s.dueAt v.toNat then s.nextSlotNs else v.toNat) < 2 ^ 32 := by
    split
    · exact Nat.mod_lt _ (by decide)
    · exact v.isLt
  rw [State.writeCycStart, fld_raise_apart hw (by decide), fld_setFld_self h (by decide)]
  exact Nat.mod_eq_of_lt hlt

theorem gclSwapArm_of_cc (hp : p < 512) (hport : s.hasPort p = true) (v : Word) :
    exec (.gclSwapArm .cc p v) s = .next ((s.noteWrite .gclSwapCtl p 0x800007FF 0).writeSwapCtl p v.toNat) := by
  change execGclSwapArm .cc p v s = _
  unfold execGclSwapArm
  simp [Nat.not_le.2 hp, hport, State.ccWrite, partyOf]

/-- An armed swap shows ARM and ARMED (R328). -/
def State.swapArmed (s : State) (p : Nat) : State := (s.setFld F.gclSwapCtl_ARM p 1).setFld F.gclStat_ARMED p 1

theorem armSwap_regs (s : State) (p : Nat) : (s.armSwap p).regs = (s.swapArmed p).regs := by
  simp only [State.armSwap, State.swapArmed]
  split <;> simp only [setGcl_regs]

theorem armSwap_fields (h : RegsWf s) : (s.armSwap p).flag F.gclSwapCtl_ARM p = true ∧ (s.armSwap p).flag F.gclStat_ARMED p = true
    ∧ (s.armSwap p).fld F.gclSwapCtl_ADMIN_LEN p = s.fld F.gclSwapCtl_ADMIN_LEN p := by
  have hw := wf_setFld h F.gclSwapCtl_ARM p 1
  have hregs := armSwap_regs s p
  rw [flag_of_regs hregs, flag_of_regs hregs, fld_of_regs hregs, State.swapArmed]
  refine ⟨?_, ?_, ?_⟩
  · rw [flag_setFld_apart hw (by decide), flag_setFld_self h (by decide)]
    rfl
  · rw [flag_setFld_self hw (by decide)]
    rfl
  · rw [fld_setFld_apart hw (by decide), fld_setFld_apart h (by decide)]

/-- With ARM = 0 a write takes ADMIN_LEN, and with bit 31 arms the swap (R328). -/
theorem writeSwapCtl_of_idle (h : RegsWf s) (hidle : s.flag F.gclSwapCtl_ARM p = false) (v : Nat) :
    (s.writeSwapCtl p v).fld F.gclSwapCtl_ADMIN_LEN p = v % 2048 ∧ (s.writeSwapCtl p v).flag F.gclSwapCtl_ARM p = v.testBit 31
    ∧ (v.testBit 31 = true → (s.writeSwapCtl p v).flag F.gclStat_ARMED p = true) := by
  have hw := wf_setFld h F.gclSwapCtl_ADMIN_LEN p (v % 2048)
  have hlen : (s.setFld F.gclSwapCtl_ADMIN_LEN p (v % 2048)).fld F.gclSwapCtl_ADMIN_LEN p = v % 2048 := by
    rw [fld_setFld_self h (by decide)]
    exact Nat.mod_mod _ _
  unfold State.writeSwapCtl
  simp only [hidle, Bool.false_eq_true, if_false]
  by_cases harm : v.testBit 31 = true
  · obtain ⟨hctl, hstat, hadmin⟩ := armSwap_fields (p := p) hw
    simp only [if_pos harm]
    exact ⟨hadmin.trans hlen, hctl.trans harm.symm, fun _ => hstat⟩
  · simp only [if_neg harm]
    refine ⟨hlen, ?_, fun c => absurd c harm⟩
    rw [flag_setFld_apart h (by decide), hidle, Bool.eq_false_iff.2 harm]

/-- A disarmed swap shows neither ARM nor ARMED (R328). -/
theorem writeSwapCtl_of_clear {v : Nat} (harmed : s.flag F.gclSwapCtl_ARM p = true) (hv : v.testBit 31 = false)
    (hdue : s.dueAt (s.fld F.gclSwapTgt_TGT p) = false) :
    s.writeSwapCtl p v = (s.setFld F.gclSwapCtl_ARM p 0).setFld F.gclStat_ARMED p 0 := by
  unfold State.writeSwapCtl
  simp [harmed, hv, hdue]

theorem disarm_fields (h : RegsWf s) : ((s.setFld F.gclSwapCtl_ARM p 0).setFld F.gclStat_ARMED p 0).flag F.gclSwapCtl_ARM p = false
    ∧ ((s.setFld F.gclSwapCtl_ARM p 0).setFld F.gclStat_ARMED p 0).flag F.gclStat_ARMED p = false
    ∧ ((s.setFld F.gclSwapCtl_ARM p 0).setFld F.gclStat_ARMED p 0).fld F.gclSwapCtl_ADMIN_LEN p = s.fld F.gclSwapCtl_ADMIN_LEN p := by
  have hw := wf_setFld h F.gclSwapCtl_ARM p 0
  refine ⟨?_, ?_, ?_⟩
  · rw [flag_setFld_apart hw (by decide), flag_setFld_self h (by decide)]
    rfl
  · rw [flag_setFld_self hw (by decide)]
    rfl
  · rw [fld_setFld_apart hw (by decide), fld_setFld_apart h (by decide)]

end

/-! ### The banks exchange roles (R328) -/

section
variable {s : State}

theorem exchange_wf (h : RegsWf s) (a b : Reg) (i : Nat) : RegsWf (s.exchange a b i) := wf_setReg (wf_setReg h _ _ _) _ _ _

theorem reg_exchange (h : RegsWf s) {a b : Reg} (hab : a ≠ b) (i : Nat) (r : Reg) (j : Nat) : (s.exchange a b i).reg r j =
    if j = i then (if r = a then s.reg b i else if r = b then s.reg a i else s.reg r j) else s.reg r j := by
  have hw := wf_setReg h a i (s.reg b i)
  unfold State.exchange
  by_cases hj : j = i
  · subst hj
    by_cases hb : r = b
    · subst hb
      rw [reg_setReg_self hw, if_pos rfl, if_neg (Ne.symm hab), if_pos rfl]
    · rw [reg_setReg_ne hw _ (fun c => hb c.1), if_pos rfl, if_neg hb]
      by_cases ha : r = a
      · subst ha
        rw [reg_setReg_self h, if_pos rfl]
      · rw [reg_setReg_ne h _ (fun c => ha c.1), if_neg ha]
  · rw [reg_setReg_ne hw _ (fun c => hj c.2), reg_setReg_ne h _ (fun c => hj c.2), if_neg hj]

/-- An entry of the two banks exchanges its duration and gates. -/
def State.exchangeEntry (p : Nat) (s : State) (e : Nat) : State :=
  (s.exchange .gclOperDur .gclAdminDur (p * 1024 + e)).exchange .gclOperGates .gclAdminGates (p * 1024 + e)

theorem exchangeEntry_wf (p : Nat) (s : State) (e : Nat) (h : RegsWf s) : RegsWf (s.exchangeEntry p e) :=
  exchange_wf (exchange_wf h _ _ _) _ _ _

/-- The registers of entry `e` of the two banks of a port. -/
def State.entryRegs (p e : Nat) (s : State) : Word × Word × Word × Word :=
  (s.reg .gclOperDur (p * 1024 + e), s.reg .gclAdminDur (p * 1024 + e), s.reg .gclOperGates (p * 1024 + e),
    s.reg .gclAdminGates (p * 1024 + e))

theorem entryRegs_exchangeEntry_self (h : RegsWf s) (p e : Nat) : (s.exchangeEntry p e).entryRegs p e =
    (s.reg .gclAdminDur (p * 1024 + e), s.reg .gclOperDur (p * 1024 + e), s.reg .gclAdminGates (p * 1024 + e),
      s.reg .gclOperGates (p * 1024 + e)) := by
  simp [State.entryRegs, State.exchangeEntry, reg_exchange (exchange_wf h _ _ _), reg_exchange h]

theorem entryRegs_exchangeEntry_ne (h : RegsWf s) (p : Nat) {e k : Nat} (hne : k ≠ e) :
    (s.exchangeEntry p k).entryRegs p e = s.entryRegs p e := by
  simp [State.entryRegs, State.exchangeEntry, reg_exchange (exchange_wf h _ _ _), reg_exchange h, hne.symm]

/-- The entries of the two banks have changed places. -/
theorem entryRegs_exchangeEntries (h : RegsWf s) (p : Nat) {e : Nat} (he : e < 1024) :
    ((List.range 1024).foldl (State.exchangeEntry p) s).entryRegs p e =
      (s.reg .gclAdminDur (p * 1024 + e), s.reg .gclOperDur (p * 1024 + e), s.reg .gclAdminGates (p * 1024 + e),
        s.reg .gclOperGates (p * 1024 + e)) := by
  obtain ⟨u, hu, hus, hl⟩ := foldl_of_mem (P := fun u : State => RegsWf u) (g := State.entryRegs p e) (fun u k => exchangeEntry_wf p u k)
    (fun u k hu hne => entryRegs_exchangeEntry_ne hu p hne) List.nodup_range (List.mem_range.2 he) h
  rw [hl, entryRegs_exchangeEntry_self hu]
  simp only [State.entryRegs, Prod.mk.injEq] at hus
  obtain ⟨h1, h2, h3, h4⟩ := hus
  rw [h1, h2, h3, h4]

/-- The entries of the banks exchanged, and MAXWIN with them. -/
def State.exchangeEntries (s : State) (p : Nat) : State := (List.range 1024).foldl (State.exchangeEntry p) s
def State.exchangeWindows (s : State) (p : Nat) : State :=
  (List.range 8).foldl (fun s c => s.exchange .gclOperMaxwin .gclAdminMaxwin (p * 8 + c)) s

theorem exchangeEntries_keeps (h : Inv s) (p : Nat) :
    Keeps ⟨[], [.gclOperDur, .gclAdminDur, .gclOperGates, .gclAdminGates], false⟩ s (s.exchangeEntries p) :=
  keeps_foldl (keeps_self h) fun _ _ hk =>
    keeps_exchange (keeps_exchange hk (by decide) (by decide)) (by decide) (by decide)

theorem exchangeWindows_keeps (h : Inv s) (p : Nat) :
    Keeps ⟨[], [.gclOperMaxwin, .gclAdminMaxwin], false⟩ s (s.exchangeWindows p) :=
  keeps_foldl (keeps_self h) fun _ _ hk => keeps_exchange hk (by decide) (by decide)

/-- The lists of a port's banks exchanged: entries, MAXWIN and CYCLE. -/
def State.exchangeLists (s : State) (p : Nat) : State :=
  ((s.exchangeEntries p).exchangeWindows p).exchange .gclOperCycle .gclAdminCycle p

/-- The lengths exchanged with them. -/
def State.exchangeLens (s : State) (p : Nat) : State :=
  (s.setFld F.gclSwapCtl_ADMIN_LEN p (s.fld F.gclOperLen_LEN p)).setFld F.gclOperLen_LEN p (s.fld F.gclSwapCtl_ADMIN_LEN p)

theorem exchangeBanks_regs (s : State) (p : Nat) : (s.exchangeBanks p).regs = ((s.exchangeLists p).exchangeLens p).regs := by
  simp only [State.exchangeBanks, State.exchangeLists, State.exchangeWindows, State.exchangeEntries, State.exchangeLens, setGcl_regs]
  rfl

theorem exchangeLists_keeps (h : Inv s) (p : Nat) :
    Keeps ⟨[], [.gclOperDur, .gclAdminDur, .gclOperGates, .gclAdminGates, .gclOperMaxwin, .gclAdminMaxwin, .gclOperCycle, .gclAdminCycle],
      false⟩ s (s.exchangeLists p) :=
  keeps_exchange (keeps_foldl (keeps_foldl (keeps_self h) fun _ _ hk =>
    keeps_exchange (keeps_exchange hk (by decide) (by decide)) (by decide) (by decide)) fun _ _ hk =>
      keeps_exchange hk (by decide) (by decide)) (by decide) (by decide)

/-- In the exchanged lists each bank has the other's entries and CYCLE. -/
theorem exchangeLists_entries (h : Inv s) (p : Nat) {e : Nat} (he : e < 1024) : (s.exchangeLists p).entryRegs p e =
    (s.reg .gclAdminDur (p * 1024 + e), s.reg .gclOperDur (p * 1024 + e), s.reg .gclAdminGates (p * 1024 + e),
      s.reg .gclOperGates (p * 1024 + e)) := by
  have hE := keeps_inv (exchangeEntries_keeps h p)
  have hW := exchangeWindows_keeps hE p
  rw [← entryRegs_exchangeEntries h.regs p he]
  simp only [State.entryRegs, State.exchangeLists, reg_exchange hW.regs (show Reg.gclOperCycle ≠ .gclAdminCycle by decide), reduceCtorEq,
    if_false, ite_self]
  rw [hW.within.regs _ _ rfl, hW.within.regs _ _ rfl, hW.within.regs _ _ rfl, hW.within.regs _ _ rfl]
  rfl

theorem exchangeLists_cycle (h : Inv s) (p : Nat) : (s.exchangeLists p).reg .gclOperCycle p = s.reg .gclAdminCycle p
    ∧ (s.exchangeLists p).reg .gclAdminCycle p = s.reg .gclOperCycle p := by
  have hE := exchangeEntries_keeps h p
  have hW := exchangeWindows_keeps (keeps_inv hE) p
  have hsame : ∀ r, r = .gclOperCycle ∨ r = .gclAdminCycle → ((s.exchangeEntries p).exchangeWindows p).reg r p = s.reg r p := by
    rintro r (rfl | rfl) <;> rw [hW.within.regs _ _ rfl, hE.within.regs _ _ rfl]
  simp [State.exchangeLists, reg_exchange hW.regs, hsame]

theorem exchangeLens_keeps (h : Inv s) (p : Nat) : Keeps ⟨[], [.gclSwapCtl, .gclOperLen], false⟩ s (s.exchangeLens p) :=
  keeps_setFld (keeps_setFld (keeps_self h) (by decide)) (by decide)

theorem exchangeLens_fields (h : RegsWf s) (p : Nat) : (s.exchangeLens p).fld F.gclOperLen_LEN p = s.fld F.gclSwapCtl_ADMIN_LEN p
    ∧ (s.exchangeLens p).fld F.gclSwapCtl_ADMIN_LEN p = s.fld F.gclOperLen_LEN p := by
  have hw := wf_setFld h F.gclSwapCtl_ADMIN_LEN p (s.fld F.gclOperLen_LEN p)
  refine ⟨?_, ?_⟩
  · rw [State.exchangeLens, fld_setFld_self hw (by decide)]
    exact Nat.mod_mod _ _
  · rw [State.exchangeLens, fld_setFld_apart hw (by decide), fld_setFld_self h (by decide)]
    exact Nat.mod_mod _ _

/-- What a swap of the banks leaves in the registers: each bank has the other's entries, CYCLE and length. -/
structure BanksSwapped (p : Nat) (s t : State) : Prop where
  entries : ∀ e, e < 1024 → t.entryRegs p e = (s.reg .gclAdminDur (p * 1024 + e), s.reg .gclOperDur (p * 1024 + e),
    s.reg .gclAdminGates (p * 1024 + e), s.reg .gclOperGates (p * 1024 + e))
  operCycle : t.reg .gclOperCycle p = s.reg .gclAdminCycle p
  adminCycle : t.reg .gclAdminCycle p = s.reg .gclOperCycle p
  operLen : t.fld F.gclOperLen_LEN p = s.fld F.gclSwapCtl_ADMIN_LEN p
  adminLen : t.fld F.gclSwapCtl_ADMIN_LEN p = s.fld F.gclOperLen_LEN p

theorem exchangeBanks_swapped (h : Inv s) (p : Nat) : BanksSwapped p s (s.exchangeBanks p) := by
  have hL := exchangeLists_keeps h p
  have hN := exchangeLens_keeps (keeps_inv hL) p
  have hregs := exchangeBanks_regs s p
  have hlist : ∀ r i, r ≠ .gclSwapCtl → r ≠ .gclOperLen → (s.exchangeBanks p).reg r i = (s.exchangeLists p).reg r i := by
    intro r i h1 h2
    rw [reg_of_regs hregs]
    exact hN.within.regs r i (by simp [Change.may, h1, h2])
  obtain ⟨hop, had⟩ := exchangeLists_cycle h p
  obtain ⟨hol, hal⟩ := exchangeLens_fields hL.regs p
  refine ⟨fun e he => ?_, ?_, ?_, ?_, ?_⟩
  · rw [← exchangeLists_entries h p he]
    simp only [State.entryRegs, hlist _ _ (show Reg.gclOperDur ≠ .gclSwapCtl by decide) (by decide),
      hlist _ _ (show Reg.gclAdminDur ≠ .gclSwapCtl by decide) (by decide), hlist _ _ (show Reg.gclOperGates ≠ .gclSwapCtl by decide) (by decide),
      hlist _ _ (show Reg.gclAdminGates ≠ .gclSwapCtl by decide) (by decide)]
  · rw [hlist _ _ (by decide) (by decide), hop]
  · rw [hlist _ _ (by decide) (by decide), had]
  · rw [fld_of_regs hregs, hol]
    exact fld_of_reg (hL.within.regs _ _ rfl)
  · rw [fld_of_regs hregs, hal]
    exact fld_of_reg (hL.within.regs _ _ rfl)

theorem BanksSwapped.operDur_adminGates {p : Nat} {s t : State} (h : BanksSwapped p s t) (e : Nat) (he : e < 1024) :
    t.reg .gclOperDur (p * 1024 + e) = s.reg .gclAdminDur (p * 1024 + e)
    ∧ t.reg .gclAdminGates (p * 1024 + e) = s.reg .gclOperGates (p * 1024 + e) :=
  ⟨congrArg (fun x => x.1) (h.entries e he), congrArg (fun x => x.2.2.2) (h.entries e he)⟩

/-- A bank swap stands in a later state when the later state has the same bank registers and lengths. -/
theorem BanksSwapped.mono {p : Nat} {s t u : State} (hs : BanksSwapped p s t) (hr : ∀ r i, r ∉ [.gclSwapCtl, .gclStat, .macModeStat,
    .gclOperPos, .gclCycStart] → u.reg r i = t.reg r i) (hlen : u.fld F.gclSwapCtl_ADMIN_LEN p = t.fld F.gclSwapCtl_ADMIN_LEN p) :
    BanksSwapped p s u where
  entries e he := by
    rw [← hs.entries e he]
    simp only [State.entryRegs, hr .gclOperDur _ (by decide), hr .gclAdminDur _ (by decide), hr .gclOperGates _ (by decide),
      hr .gclAdminGates _ (by decide)]
  operCycle := (hr _ _ (by decide)).trans hs.operCycle
  adminCycle := (hr _ _ (by decide)).trans hs.adminCycle
  operLen := (fld_of_reg (hr _ _ (by decide))).trans hs.operLen
  adminLen := hlen.trans hs.adminLen

end

/-! ### A due swap (R328) -/

section
variable {s : State} {p : Nat}

/-- The banks have been exchanged and ARM cleared. -/
def State.unarmed (s : State) (p : Nat) : State := (s.exchangeBanks p).hwFld F.gclSwapCtl_ARM p 0

/-- The gate hardware after a swap. -/
def GclRun.fired (g : GclRun) : GclRun := { g with late := false, armedS := 0 }

/-- ARMED is cleared and SWAP_DONE set. -/
def State.reported (s : State) (p : Nat) : State :=
  ((s.setFld F.gclStat_ARMED p 0).setGcl p (s.gcl p).fired).raise F.gclStat_SWAP_DONE p

/-- A swap executed, but for the start of its list: a late one shows REALIGN. -/
def State.swapDone (s : State) (p : Nat) : State :=
  if (s.gcl p).late then ((s.unarmed p).reported p).raise F.gclStat_REALIGN p else (s.unarmed p).reported p

theorem exchangeBanks_keeps (h : Inv s) (p : Nat) : Keeps ⟨[.path], [.gclAdminCycle, .gclAdminDur, .gclAdminGates, .gclAdminMaxwin,
    .gclOperCycle, .gclOperDur, .gclOperGates, .gclOperLen, .gclOperMaxwin, .gclSwapCtl], false⟩ s (s.exchangeBanks p) :=
  keeps_exchangeBanks (keeps_self h) (Change.le_self _)

theorem exchangeBanks_writes (h : Inv s) (hw : s.meet.writes = []) (p : Nat) : (s.exchangeBanks p).meet.writes = [] := by
  rw [(exchangeBanks_keeps h p).within.meet rfl, hw]

theorem unarmed_regs (h : Inv s) (hw : s.meet.writes = []) (p : Nat) :
    (s.unarmed p).regs = ((s.exchangeBanks p).setFld F.gclSwapCtl_ARM p 0).regs :=
  hwFld_regs (exchangeBanks_writes h hw p) _ _ _

theorem unarmed_wf (h : Inv s) (hw : s.meet.writes = []) (p : Nat) : RegsWf (s.unarmed p) := by
  rw [RegsWf, unarmed_regs h hw]
  exact wf_setFld (exchangeBanks_keeps h p).regs _ _ _

theorem unarmed_flag (h : Inv s) (hw : s.meet.writes = []) (p : Nat) : (s.unarmed p).flag F.gclSwapCtl_ARM p = false := by
  rw [flag_of_regs (unarmed_regs h hw p), flag_setFld_self (exchangeBanks_keeps h p).regs (by decide)]
  rfl

theorem unarmed_swapped (h : Inv s) (hw : s.meet.writes = []) (p : Nat) : BanksSwapped p s (s.unarmed p) := by
  have hB := exchangeBanks_keeps h p
  refine (exchangeBanks_swapped h p).mono (fun r i hr => ?_) ?_
  · rw [reg_of_regs (unarmed_regs h hw p)]
    exact reg_setFld_ne hB.regs _ fun c => hr (by rw [c.1]; decide)
  · rw [fld_of_regs (unarmed_regs h hw p), fld_setFld_apart hB.regs (by decide)]

theorem reported_reg (h : RegsWf s) {r : Reg} (hr : r ≠ .gclStat) (i : Nat) : (s.reported p).reg r i = s.reg r i := by
  have hA : RegsWf ((s.setFld F.gclStat_ARMED p 0).setGcl p (s.gcl p).fired) := wf_setFld h _ _ _
  exact (reg_raise_ne hA fun c => hr c.1).trans (reg_setFld_ne h _ fun c => hr c.1)

theorem raise_writes (s : State) (f : Fld) (i : Nat) : (s.raise f i).meet.writes = s.meet.writes := rfl

theorem reported_writes (s : State) (p : Nat) : (s.reported p).meet.writes = s.meet.writes := rfl

theorem reported_wf (h : RegsWf s) : RegsWf (s.reported p) :=
  wf_raise (s := (s.setFld F.gclStat_ARMED p 0).setGcl p (s.gcl p).fired) (wf_setFld h _ _ _) _ _

theorem reported_flags (h : RegsWf s) : (s.reported p).flag F.gclStat_SWAP_DONE p = true ∧ (s.reported p).flag F.gclStat_ARMED p = false := by
  have hA : RegsWf ((s.setFld F.gclStat_ARMED p 0).setGcl p (s.gcl p).fired) := wf_setFld h _ _ _
  refine ⟨flag_raise_self hA (by decide) p, (flag_raise_apart hA (by decide) p p).trans ?_⟩
  exact (flag_setFld_self h (by decide) p 0).trans rfl

/-- What a swap leaves before its list starts. -/
theorem swapDone_reg (h : Inv s) (hw : s.meet.writes = []) {r : Reg} (hr : r ≠ .gclStat) (i : Nat) :
    (s.swapDone p).reg r i = (s.unarmed p).reg r i := by
  have hU := unarmed_wf h hw p
  unfold State.swapDone
  split
  · exact (reg_raise_ne (reported_wf hU) fun c => hr c.1).trans (reported_reg hU hr i)
  · exact reported_reg hU hr i

theorem swapDone_flags (h : Inv s) (hw : s.meet.writes = []) :
    (s.swapDone p).flag F.gclStat_SWAP_DONE p = true ∧ (s.swapDone p).flag F.gclStat_ARMED p = false := by
  have hU := unarmed_wf h hw p
  obtain ⟨hdone, harmed⟩ := reported_flags (p := p) hU
  unfold State.swapDone
  split
  · exact ⟨(flag_raise_apart (reported_wf hU) (by decide) p p).trans hdone, (flag_raise_apart (reported_wf hU) (by decide) p p).trans harmed⟩
  · exact ⟨hdone, harmed⟩

/-- What a swap may change before its list starts. -/
def swapChange : Change := ⟨[.meet, .cnt, .path], [.gclAdminCycle, .gclAdminDur, .gclAdminGates, .gclAdminMaxwin, .gclOperCycle, .gclOperDur,
  .gclOperGates, .gclOperLen, .gclOperMaxwin, .gclSwapCtl, .gclStat, .glbStat, .glbUpdInfo], false⟩

theorem swapDone_keeps (h : Inv s) (p : Nat) : Keeps swapChange s (s.swapDone p) := by
  have hU : Keeps swapChange s (s.unarmed p) := keeps_hwFld (keeps_exchangeBanks (keeps_self h) (by decide)) (by decide) (by decide)
  have hR : Keeps swapChange s ((s.unarmed p).reported p) :=
    keeps_raise (keeps_setGcl (keeps_setFld hU (by decide)) (by decide)) (by decide) (by decide)
  exact keeps_ite (fun _ => keeps_raise hR (by decide) (by decide)) fun _ => hR

theorem swapDone_writes (h : Inv s) (hw : s.meet.writes = []) (p : Nat) : (s.swapDone p).meet.writes = [] := by
  have hU : (s.unarmed p).meet.writes = [] := by
    rw [State.unarmed]
    exact hwFld_writes (exchangeBanks_writes h hw p) _ _ _
  unfold State.swapDone
  split
  · rw [raise_writes, reported_writes, hU]
  · rw [reported_writes, hU]

theorem swapDone_swapped (h : Inv s) (hw : s.meet.writes = []) (p : Nat) : BanksSwapped p s (s.swapDone p) :=
  (unarmed_swapped h hw p).mono (fun _ _ hr => swapDone_reg h hw (fun c => hr (by rw [c]; decide)) _)
    (fld_of_reg (swapDone_reg h hw (by decide) p))

/-- The instant at which the swapped list starts: the target, or the whorl of this slot after a late arming (R328). -/
def State.swapStart (s : State) (p : Nat) : Nat := if (s.gcl p).late then s.whorlNs else s.fld F.gclSwapTgt_TGT p

/-- A list of no entries leaves no list: VALID 0, and every gate open. -/
def State.unlisted (s : State) (p : Nat) : State := ((s.setFld F.gclStat_VALID p 0).setFld F.gclOperPos_ENTRY p 0).openGates p

/-- A list of entries is valid from its start on. -/
def State.listed (s : State) (p a : Nat) : State := (s.setFld F.gclStat_VALID p 1).hwFld F.gclCycStart_START p a

theorem gclSwap_of_due (hp : p < 512) (harm : s.flag F.gclSwapCtl_ARM p = true) (hdue : s.dueAt (s.fld F.gclSwapTgt_TGT p) = true)
    (hran : s.path.ranNow.contains (1001, p) = false) : exec (.gclSwap p) s =
      .next (if (s.swapDone p).gclLen p false = 0 then (s.swapDone p).unlisted p else ((s.swapDone p).listed p (s.swapStart p)).startCycle p) := by
  have hguard : (decide (512 ≤ p) || !s.flag F.gclSwapCtl_ARM p || !s.dueAt (s.fld F.gclSwapTgt_TGT p)
      || s.path.ranNow.contains (1001, p)) = false := by rw [decide_eq_false (Nat.not_le.2 hp), harm, hdue, hran]; rfl
  change execGclSwap p s = _
  unfold execGclSwap
  rw [hguard, if_neg Bool.false_ne_true]
  by_cases h0 : (s.swapDone p).gclLen p false = 0
  · rw [if_pos h0]
    simp only [State.swapDone, State.reported, State.unarmed, GclRun.fired, State.unlisted] at h0 ⊢
    rw [if_pos h0]
  · rw [if_neg h0]
    simp only [State.swapDone, State.reported, State.unarmed, GclRun.fired, State.listed, State.swapStart] at h0 ⊢
    rw [if_neg h0]

end

/-! ### The list after a swap -/

section
variable {s : State} {p : Nat}

theorem unlisted_fields (h : Inv s) (p : Nat) : (s.unlisted p).flag F.gclStat_VALID p = false ∧ (s.unlisted p).gates p = 255
    ∧ (s.unlisted p).fld F.gclOperPos_ENTRY p = 0 := by
  have hV := wf_setFld h.regs F.gclStat_VALID p 0
  have hE := wf_setFld hV F.gclOperPos_ENTRY p 0
  have hA := wf_setFld hE F.macModeStat_GCL_ACT p 0
  refine ⟨?_, ?_, ?_⟩
  · rw [State.unlisted, State.openGates, flag_setFld_apart hA (by decide), flag_setFld_apart hE (by decide), flag_setFld_apart hV (by decide),
      flag_setFld_self h.regs (by decide)]
    rfl
  · rw [State.gates, State.unlisted, State.openGates, fld_setFld_self hA (by decide)]
    rfl
  · rw [State.unlisted, State.openGates, fld_setFld_apart hA (by decide), fld_setFld_apart hE (by decide), fld_setFld_self hV (by decide)]
    rfl

theorem unlisted_apart (h : Inv s) {g : Fld} (hv : F.gclStat_VALID.apart g = true)
    (hg : g.reg ≠ .gclOperPos ∧ g.reg ≠ .macModeStat) (j : Nat) : (s.unlisted p).fld g j = s.fld g j := by
  have hV := wf_setFld h.regs F.gclStat_VALID p 0
  have hE := wf_setFld hV F.gclOperPos_ENTRY p 0
  have hA := wf_setFld hE F.macModeStat_GCL_ACT p 0
  rw [State.unlisted, State.openGates, fld_setFld_ne hA _ _ _ (fun c => hg.1 c.1), fld_setFld_ne hE _ _ _ (fun c => hg.2 c.1),
    fld_setFld_ne hV _ _ _ (fun c => hg.1 c.1), fld_setFld_apart h.regs hv]

/-- What the start of a list of entries may change, but for GCL_CYC_START itself. -/
theorem listed_regs (hw : s.meet.writes = []) (a : Nat) :
    (s.listed p a).regs = ((s.setFld F.gclStat_VALID p 1).setFld F.gclCycStart_START p a).regs :=
  hwFld_regs (s := s.setFld F.gclStat_VALID p 1) hw _ _ _

theorem listed_writes (hw : s.meet.writes = []) (a : Nat) : (s.listed p a).meet.writes = [] :=
  hwFld_writes (s := s.setFld F.gclStat_VALID p 1) hw _ _ _

theorem listed_inv (h : Inv s) (a : Nat) : Inv (s.listed p a) :=
  keeps_inv (M := ⟨[.meet, .cnt], [.gclStat, .gclCycStart, .glbStat, .glbUpdInfo], false⟩)
    (keeps_hwFld (keeps_setFld (keeps_self h) (by decide)) (by decide) (by decide))

theorem listed_apart (h : Inv s) (hw : s.meet.writes = []) (a : Nat) {g : Fld} (hv : F.gclStat_VALID.apart g = true)
    (hg : g.reg ≠ .gclCycStart) (j : Nat) : (s.listed p a).fld g j = s.fld g j := by
  rw [fld_of_regs (listed_regs hw a), fld_setFld_ne (wf_setFld h.regs _ _ _) _ _ _ (fun c => hg c.1), fld_setFld_apart h.regs hv]

theorem listed_reg (h : Inv s) (hw : s.meet.writes = []) (a : Nat) {r : Reg} (hr : r ∉ [.gclStat, .gclCycStart]) (i : Nat) :
    (s.listed p a).reg r i = s.reg r i := by
  simp only [List.mem_cons, List.not_mem_nil, or_false, not_or] at hr
  rw [reg_of_regs (listed_regs hw a), reg_setFld_ne (wf_setFld h.regs _ _ _) _ (fun c => hr.2 c.1), reg_setFld_ne h.regs _ (fun c => hr.1 c.1)]

theorem listed_valid (h : Inv s) (hw : s.meet.writes = []) (a : Nat) : (s.listed p a).flag F.gclStat_VALID p = true := by
  rw [flag_of_regs (listed_regs hw a), flag_setFld_apart (wf_setFld h.regs _ _ _) (by decide), flag_setFld_self h.regs (by decide)]
  rfl

theorem unlisted_reg (h : Inv s) {r : Reg} (hr : r ∉ [.gclStat, .gclOperPos, .macModeStat]) (i : Nat) :
    (s.unlisted p).reg r i = s.reg r i := by
  have hV := wf_setFld h.regs F.gclStat_VALID p 0
  have hE := wf_setFld hV F.gclOperPos_ENTRY p 0
  have hA := wf_setFld hE F.macModeStat_GCL_ACT p 0
  simp only [List.mem_cons, List.not_mem_nil, or_false, not_or] at hr
  obtain ⟨hstat, hpos, hmode⟩ := hr
  rw [State.unlisted, State.openGates, reg_setFld_ne hA _ (fun c => hpos c.1), reg_setFld_ne hE _ (fun c => hmode c.1),
    reg_setFld_ne hV _ (fun c => hpos c.1), reg_setFld_ne h.regs _ (fun c => hstat c.1)]

/-- A later state in which the swap still shows: the flags of GCL_STAT and the registers of the banks are the same. -/
structure SwapShows (p : Nat) (s t : State) : Prop where
  done : t.flag F.gclStat_SWAP_DONE p = s.flag F.gclStat_SWAP_DONE p
  armed : t.flag F.gclStat_ARMED p = s.flag F.gclStat_ARMED p
  regs : ∀ r i, r ∉ [.gclStat, .macModeStat, .gclOperPos, .gclCycStart] → t.reg r i = s.reg r i

theorem unlisted_shows (h : Inv s) (p : Nat) : SwapShows p s (s.unlisted p) where
  done := by rw [State.flag, State.flag, unlisted_apart h (by decide) ⟨by decide, by decide⟩]
  armed := by rw [State.flag, State.flag, unlisted_apart h (by decide) ⟨by decide, by decide⟩]
  regs r i hr := unlisted_reg h (fun c => hr (by simp only [List.mem_cons, List.not_mem_nil, or_false] at c ⊢; tauto)) i

theorem listed_shows (h : Inv s) (hw : s.meet.writes = []) (p a : Nat) : SwapShows p s ((s.listed p a).startCycle p) where
  done := by
    rw [flag_of_reg (f := F.gclStat_SWAP_DONE) (startCycle_reg (listed_inv h a) (listed_writes hw a) (by decide) p), State.flag, State.flag,
      listed_apart h hw a (by decide) (by decide)]
  armed := by
    rw [flag_of_reg (f := F.gclStat_ARMED) (startCycle_reg (listed_inv h a) (listed_writes hw a) (by decide) p), State.flag, State.flag,
      listed_apart h hw a (by decide) (by decide)]
  regs r i hr := by
    simp only [List.mem_cons, List.not_mem_nil, or_false, not_or] at hr
    obtain ⟨hstat, hmode, hpos, hcyc⟩ := hr
    rw [startCycle_reg (listed_inv h a) (listed_writes hw a) (by simp [hmode, hpos, hcyc]), listed_reg h hw a (by simp [hstat, hcyc])]

end

/-! ### The obligation -/

section
variable {s : State} {p : Nat}

theorem gclLen_oper (s : State) (p : Nat) : s.gclLen p false = min 1024 (s.fld F.gclOperLen_LEN p) := rfl

/-- After the swap the operational list has the length that the admin bank had. -/
theorem swapDone_len (h : Inv s) (hw : s.meet.writes = []) (p : Nat) :
    (s.swapDone p).gclLen p false = min 1024 (s.fld F.gclSwapCtl_ADMIN_LEN p) := by
  rw [gclLen_oper, (swapDone_swapped h hw p).operLen]

theorem dueAt_noteWrite (s : State) (r : Reg) (i mask party x : Nat) : (s.noteWrite r i mask party).dueAt x = s.dueAt x :=
  dueAt_of_time (noteWrite_time s r i mask party) x

theorem nextSlotNs_noteWrite (s : State) (r : Reg) (i mask party : Nat) : (s.noteWrite r i mask party).nextSlotNs = s.nextSlotNs := by
  rw [State.nextSlotNs, State.nextSlotNs, noteWrite_time]

/-- The note of a write leaves every register but those of a lost update. -/
theorem fld_noteWrite (h : Inv s) (r : Reg) (i mask party : Nat) {f : Fld} (hf : noteChange.may f.reg = false) (j : Nat) :
    (s.noteWrite r i mask party).fld f j = s.fld f j :=
  fld_of_reg ((keeps_noteWrite (M := noteChange) (keeps_self h) (Change.le_self _)).within.regs _ j hf)

theorem wf_noteWrite (h : Inv s) (r : Reg) (i mask party : Nat) : RegsWf (s.noteWrite r i mask party) :=
  (keeps_noteWrite (M := noteChange) (keeps_self h) (Change.le_self _)).regs

/-- With ARM = 1 a write without bit 31 disarms a swap that is not due (R328). -/
theorem gclSwapArm_disarms (h : Inv s) {v : Word} (hp : p < 512) (hport : s.hasPort p = true) (harmed : s.flag F.gclSwapCtl_ARM p = true)
    (hv : v.toNat.testBit 31 = false) (hdue : s.dueAt (s.fld F.gclSwapTgt_TGT p) = false) :
    ∃ t, exec (.gclSwapArm .cc p v) s = .next t ∧ t.flag F.gclSwapCtl_ARM p = false ∧ t.flag F.gclStat_ARMED p = false
      ∧ t.fld F.gclSwapCtl_ADMIN_LEN p = s.fld F.gclSwapCtl_ADMIN_LEN p := by
  have harmed' : (s.noteWrite .gclSwapCtl p 0x800007FF 0).flag F.gclSwapCtl_ARM p = true := by
    rw [State.flag, fld_noteWrite h _ _ _ _ rfl]
    exact harmed
  have hdue' : (s.noteWrite .gclSwapCtl p 0x800007FF 0).dueAt ((s.noteWrite .gclSwapCtl p 0x800007FF 0).fld F.gclSwapTgt_TGT p) = false := by
    rw [dueAt_noteWrite, fld_noteWrite h _ _ _ _ rfl]
    exact hdue
  refine ⟨_, gclSwapArm_of_cc hp hport v, ?_⟩
  rw [writeSwapCtl_of_clear harmed' hv hdue']
  obtain ⟨hctl, hstat, hlen⟩ := disarm_fields (p := p) (wf_noteWrite h .gclSwapCtl p 0x800007FF 0)
  exact ⟨hctl, hstat, hlen.trans (fld_noteWrite h _ _ _ _ rfl _)⟩

/-- What a due swap shows whether or not its list has entries. -/
theorem SwapShows.result {t : State} (h : Inv s) (hw : s.meet.writes = []) (ht : SwapShows p (s.swapDone p) t) :
    t.flag F.gclStat_SWAP_DONE p = true ∧ t.flag F.gclSwapCtl_ARM p = false ∧ t.flag F.gclStat_ARMED p = false ∧ BanksSwapped p s t := by
  obtain ⟨hdone, harmed⟩ := swapDone_flags (p := p) h hw
  refine ⟨ht.done.trans hdone, ?_, ht.armed.trans harmed, ?_⟩
  · rw [flag_of_reg (f := F.gclSwapCtl_ARM) (ht.regs _ p (by decide)), flag_of_reg (f := F.gclSwapCtl_ARM) (swapDone_reg h hw (by decide) p)]
    exact unarmed_flag h hw p
  · refine (swapDone_swapped h hw p).mono (fun r i hr => ht.regs r i fun c => hr ?_) (fld_of_reg (ht.regs _ _ (by decide)))
    exact List.mem_cons_of_mem _ c

/-- The gates of the swapped list are those that the admin bank held. -/
theorem swapped_gates {t : State} (ht : BanksSwapped p s t) {e : Nat} (he : e < 1024) : t.gclVec p e false = s.gclVec p e true := by
  have hreg : t.reg .gclOperGates (p * 1024 + e) = s.reg .gclAdminGates (p * 1024 + e) := congrArg (fun x => x.2.2.1) (ht.entries e he)
  have hfld : t.fld F.gclOperGates_GATES (p * 1024 + e) = s.fld F.gclAdminGates_GATES (p * 1024 + e) := by
    unfold State.fld
    rw [show F.gclOperGates_GATES.reg = .gclOperGates from rfl, hreg]
    rfl
  exact hfld

end

/-- Settles O26: a cycle start and a swap only enter an entry, so the state before and after that entry is described once and every
clause reads its fields there. -/
theorem gateListsRunAndSwap : Obligations.GateListsRunAndSwap := by
  unfold Obligations.GateListsRunAndSwap
  refine ⟨?boundary, ?cycle, ?move, ?arm, ?swap⟩
  case boundary =>
    intro p s h hg hp hvalid hmore hdue hcyc
    have he : s.fld F.gclOperPos_ENTRY p + 1 < 1024 := lt_of_lt_of_le hmore (Nat.min_le_left _ _)
    refine ⟨_, gateEntryBoundary_of_due hp hvalid rfl rfl hmore hdue hcyc, enterGate_entry h.regs he, ?_, enterGate_gates h.regs⟩
    rw [enterGate_start hg, Nat.mod_mod]
  case cycle =>
    intro p s h hw hp hvalid hdue
    obtain ⟨hentry, hstart⟩ := startCycle_fields (p := p) h hw
    exact ⟨_, gclCycleStart_of_due hp hvalid hdue, hentry, hstart, startCycle_gated h hw⟩
  case move =>
    intro p v s h hp hport
    obtain ⟨hre, hstart⟩ := writeCycStart_fields (p := p) (wf_noteWrite h .gclCycStart p 0xFFFFFFFF 0) v
    refine ⟨_, gclCycStartWrite_of_cc hp hport v, hre, ?_⟩
    rw [hstart, dueAt_noteWrite, nextSlotNs_noteWrite]
  case arm =>
    intro p v s h hp hport
    refine ⟨fun hidle => ?_, gclSwapArm_disarms h hp hport⟩
    have hidle' : (s.noteWrite .gclSwapCtl p 0x800007FF 0).flag F.gclSwapCtl_ARM p = false := by
      rw [State.flag, fld_noteWrite h _ _ _ _ rfl]
      exact hidle
    exact ⟨_, gclSwapArm_of_cc hp hport v, writeSwapCtl_of_idle (wf_noteWrite h _ _ _ _) hidle' v.toNat⟩
  case swap =>
    intro p s h hw hp harm hdue hran
    have hD := keeps_inv (swapDone_keeps h p)
    have hDw := swapDone_writes h hw p
    have hlen := swapDone_len h hw p
    rw [gclSwap_of_due hp harm hdue hran]
    by_cases h0 : s.fld F.gclSwapCtl_ADMIN_LEN p = 0
    · rw [if_pos (by rw [hlen, h0]; rfl)]
      obtain ⟨hdone, hctl, hstat, hbanks⟩ := (unlisted_shows hD p).result h hw
      obtain ⟨hvalid, hgates, hentry⟩ := unlisted_fields hD p
      exact ⟨_, rfl, hdone, hctl, hstat, hbanks.operLen, hbanks.adminLen, hbanks.operCycle, hbanks.adminCycle, hbanks.operDur_adminGates,
        hentry, fun _ => ⟨hvalid, hgates⟩, fun c => absurd h0 c⟩
    · rw [if_neg (by rw [hlen]; omega)]
      obtain ⟨hdone, hctl, hstat, hbanks⟩ := (listed_shows hD hDw p (s.swapStart p)).result h hw
      obtain ⟨hentry, -⟩ := startCycle_fields (p := p) (listed_inv hD (s.swapStart p)) (listed_writes hDw (s.swapStart p))
      refine ⟨_, rfl, hdone, hctl, hstat, hbanks.operLen, hbanks.adminLen, hbanks.operCycle, hbanks.adminCycle, hbanks.operDur_adminGates,
        hentry, fun c => absurd c h0, fun _ => ⟨?_, fun hgated => ?_⟩⟩
      · exact (flag_of_reg (startCycle_reg (listed_inv hD _) (listed_writes hDw _) (by decide) p)).trans (listed_valid hD hDw _)
      · have hgated' : ((s.swapDone p).listed p (s.swapStart p)).flag F.macMode_GATED p = true := by
          rw [State.flag, listed_apart hD hDw _ (by decide) (by decide), fld_of_reg ((swapDone_keeps h p).within.regs _ _ rfl)]
          exact hgated
        rw [(startCycle_gated (listed_inv hD _) (listed_writes hDw _) hgated').2, gclVec_of_reg (listed_reg hD hDw _ (by decide) _)]
        exact swapped_gates (swapDone_swapped h hw p) (by decide)

end Sys2Proof.Machine

/-!
Packets of the scheduler and of gate lists (O49): SCH_PORT_SET, SCH_QUEUE_SET, SCH_GET, GCL_SET, GCL_CANCEL and GCL_GET.
-/
namespace Sys2Proof.Machine
open Sys2Proof

/-! ### Registers written one after another -/

/-- A field at the foot of a register reads the number that was written as the register's word. -/
theorem fld_of_word {s : State} {f : Fld} {i n : Nat} (hlo : f.lo = 0) (hw : f.width ≤ 32) (hn : n < 2 ^ f.width) (h : s.reg f.reg i = word n) :
    s.fld f i = n := by
  have h32 : n < 2 ^ 32 := lt_of_lt_of_le hn (Nat.pow_le_pow_right (by decide) hw)
  rw [fld_of_reg_eq h, hlo, word, BitVec.toNat_ofNat, Nat.mod_eq_of_lt h32, pow_zero, Nat.div_one, Nat.mod_eq_of_lt hn]

section
variable {α β : Type} {f : State → α × Nat → State} {P : State → Prop} {g : State → β}

/-- What no step of a fold touches stays. -/
theorem foldl_untouched (hP : ∀ u a, P u → P (f u a)) {l : List (α × Nat)} (hg : ∀ u a, a ∈ l → P u → g (f u a) = g u) {s : State} (hs : P s) :
    P (l.foldl f s) ∧ g (l.foldl f s) = g s := by
  induction l generalizing s with
  | nil => exact ⟨hs, rfl⟩
  | cons a t ih =>
    obtain ⟨hp, ht⟩ := ih (fun u b hb => hg u b (List.mem_cons_of_mem _ hb)) (hP s a hs)
    exact ⟨hp, ht.trans (hg s a (List.mem_cons_self ..) hs)⟩

/-- In a fold over numbered entries, what only entry `k` touches is what its own step makes of it. -/
theorem foldl_zipIdx_at (hP : ∀ u a, P u → P (f u a)) {k : Nat} (hg : ∀ u a, P u → a.2 ≠ k → g (f u a) = g u) {l : List α} {v : α}
    (hk : l[k]? = some v) {s : State} (hs : P s) : ∃ u, P u ∧ g (l.zipIdx.foldl f s) = g (f u (v, k)) := by
  obtain ⟨hlt, hv⟩ := List.getElem?_eq_some_iff.1 hk
  have hlen : (l.take k).length = k := List.length_take_of_le hlt.le
  have hsplit : l.zipIdx = (l.take k).zipIdx ++ (v, k) :: (l.drop (k + 1)).zipIdx (k + 1) := by
    conv_lhs => rw [← List.take_append_drop k l, List.drop_eq_getElem_cons hlt, hv, List.zipIdx_append, List.zipIdx_cons, hlen, Nat.zero_add]
  have hbefore := (foldl_untouched (g := g) hP (l := (l.take k).zipIdx)
    (fun u a ha hu => hg u a hu (Nat.ne_of_lt (by simpa [hlen] using List.snd_lt_of_mem_zipIdx ha))) hs).1
  refine ⟨(l.take k).zipIdx.foldl f s, hbefore, ?_⟩
  rw [hsplit, List.foldl_append, List.foldl_cons]
  exact (foldl_untouched hP (fun u a ha hu => hg u a hu (Nat.ne_of_gt (List.le_snd_of_mem_zipIdx ha))) (hP _ _ hbefore)).2

end

/-- A fold that writes register `r` at places of its entries' numbers leaves each entry's word there. -/
theorem reg_foldl_zipIdx {s : State} (h : RegsWf s) {r : Reg} {base k v : Nat} {l : List Nat} (hk : l[k]? = some v) :
    (l.zipIdx.foldl (fun s (e : Nat × Nat) => s.setReg r (base + e.2) (word e.1)) s).reg r (base + k) = word v := by
  obtain ⟨u, hu, heq⟩ := foldl_zipIdx_at (f := fun s (e : Nat × Nat) => s.setReg r (base + e.2) (word e.1)) (P := fun u => RegsWf u)
    (g := fun u => u.reg r (base + k)) (fun _ _ hu => wf_setReg hu _ _ _)
    (fun _ _ hu hne => reg_setReg_ne hu _ fun c => hne (Nat.add_left_cancel c.2).symm) hk h
  rw [heq]
  exact reg_setReg_self hu _ _ _

/-- Such a fold leaves the other registers. -/
theorem reg_foldl_zipIdx_ne {s : State} (h : RegsWf s) {r q : Reg} (hq : q ≠ r) (base : Nat) (l : List Nat) (j : Nat) :
    RegsWf (l.zipIdx.foldl (fun s (e : Nat × Nat) => s.setReg r (base + e.2) (word e.1)) s)
    ∧ (l.zipIdx.foldl (fun s (e : Nat × Nat) => s.setReg r (base + e.2) (word e.1)) s).reg q j = s.reg q j :=
  foldl_untouched (P := fun u => RegsWf u) (g := fun u => u.reg q j) (fun _ _ hu => wf_setReg hu _ _ _)
    (fun _ _ _ hu => reg_setReg_ne hu _ fun c => hq c.1) h

/-! ### Shapers (R321) -/

theorem keepRate_regs (s : State) (key : Nat) : (s.keepRate key).regs = s.regs := by
  unfold State.keepRate
  split <;> rfl

/-- RATE and BURST written into a pair of registers. -/
def State.setRate (s : State) (rate burst : Reg) (i r b : Nat) : State := (s.setReg rate i (word r)).setReg burst i (word b)

theorem writeShaper_queue {key : Nat} (hk : key < 16384) (s : State) (r b : Nat) :
    s.writeShaper key r b = (s.keepRate key).setRate .schQshpRate .schQshpBurst key r b := by
  rw [State.writeShaper, if_pos hk, State.setRate]

theorem writeShaper_port (s : State) (p r b : Nat) :
    s.writeShaper (portShaper p) r b = (s.keepRate (portShaper p)).setRate .schPshpRate .schPshpBurst p r b := by
  have hsub : portShaper p - 16384 = p := Nat.add_sub_cancel_left ..
  have hkey : ¬portShaper p < 16384 := Nat.not_lt.2 (Nat.le_add_right ..)
  rw [State.writeShaper, if_neg hkey, hsub, State.setRate]

/-- What a shaper's registers hold then, and that no other register changes. -/
theorem setRate_frame {s : State} (h : RegsWf s) {rate burst : Reg} (hne : rate ≠ burst) (i r b : Nat) :
    (s.setRate rate burst i r b).reg rate i = word r ∧ (s.setRate rate burst i r b).reg burst i = word b
    ∧ ∀ q j, ¬((q = rate ∨ q = burst) ∧ j = i) → (s.setRate rate burst i r b).reg q j = s.reg q j := by
  have hw := wf_setReg h rate i (word r)
  refine ⟨?_, reg_setReg_self hw _ _ _, fun q j hq => ?_⟩
  · exact (reg_setReg_ne hw _ fun c => hne c.1).trans (reg_setReg_self h _ _ _)
  · exact (reg_setReg_ne hw _ fun c => hq ⟨.inr c.1, c.2⟩).trans (reg_setReg_ne h _ fun c => hq ⟨.inl c.1, c.2⟩)

theorem shaperRate_fits {r : Nat} (h : r ≤ 2 ^ 24) : r < 2 ^ 25 := by omega

section
variable {p : Packet} {a : Args} {s : State}

/-! ### SCH_PORT_SET and SCH_QUEUE_SET (R334, R335) -/

/-- SP_MASK and LEN_ADJ as SCH_PORT_SET writes them. -/
def schPortWord (mask : Nat) (adj : Int) : Word := word (mask * 2 ^ 16 + ofSigned 7 adj)

theorem ofSigned_lt (w : Nat) (x : Int) : ofSigned w x < 2 ^ w := by
  have hpos : (0 : Int) < (2 ^ w : Nat) := by exact_mod_cast Nat.two_pow_pos w
  have hlt := Int.emod_lt_of_pos x hpos
  have hnn := Int.emod_nonneg x hpos.ne'
  rw [ofSigned]
  omega

theorem schPortWord_fields {mask : Nat} (hmask : mask < 256) (adj : Int) :
    (schPortWord mask adj).toNat / 2 ^ 16 % 2 ^ 8 = mask ∧ (schPortWord mask adj).toNat / 2 ^ 0 % 2 ^ 7 = ofSigned 7 adj := by
  have hadj := ofSigned_lt 7 adj
  simp only [schPortWord, word, BitVec.toNat_ofNat]
  omega

/-- The registers of a port's scheduler written, and its turns and deficits regrouped. -/
def State.schedSet (s : State) (port mask : Nat) (adj : Int) (quant : List Nat) : State :=
  let changed := s.fld F.schPortCfg_SP_MASK port ^^^ mask
  let s := s.setReg .schPortCfg port (schPortWord mask adj)
  let s := quant.zipIdx.foldl (fun s (e : Nat × Nat) => s.setReg .schClsQuant (8 * port + e.2) (word e.1)) s
  s.setSched port ((s.sched port).regroup changed)

theorem schedSet_frame (h : RegsWf s) (port mask : Nat) (adj : Int) (quant : List Nat) :
    RegsWf (s.schedSet port mask adj quant) ∧ (s.schedSet port mask adj quant).reg .schPortCfg port = schPortWord mask adj
    ∧ (∀ k v, quant[k]? = some v → (s.schedSet port mask adj quant).reg .schClsQuant (8 * port + k) = word v)
    ∧ ∀ r i, r ≠ .schPortCfg → r ≠ .schClsQuant → (s.schedSet port mask adj quant).reg r i = s.reg r i := by
  have hw := wf_setReg h .schPortCfg port (schPortWord mask adj)
  have hq := fun r (hr : r ≠ .schClsQuant) i => reg_foldl_zipIdx_ne hw hr (8 * port) quant i
  refine ⟨(hq .schPortCfg (by decide) port).1, ?_, fun k v hk => reg_foldl_zipIdx hw hk, fun r i h1 h2 => ?_⟩
  · exact (hq .schPortCfg (by decide) port).2.trans (reg_setReg_self h _ _ _)
  · exact (hq r h2 i).2.trans (reg_setReg_ne h _ fun c => h1 c.1)

/-- SCH_PORT_SET on its parameters: the scheduler's registers, then the port shaper. -/
def State.schPort (s : State) (a : Args) : State :=
  (s.schedSet (a.n 0) (a.n 1) (a.i 2 7) ((List.range 8).map fun c => a.n (3 + c))).writeShaper (portShaper (a.n 0)) (a.n 11) (a.n 12)

theorem schPortSet_completes (hacc : Accepts 0x0706 p s) (ha : readParams 0x0706 p.params = a) (hbad : a.bad = false)
    (hport : s.hasPort (a.n 0) = true) (hhidden : s.hidden (a.n 0) = false)
    (hquant : ∀ c, c < 8 → s.quantBound (a.n 0) (a.i 2 7) ≤ a.n (3 + c) ∧ a.n (3 + c) ≤ 1048575) (hrate : a.n 11 ≤ 2 ^ 24) (hburst : a.n 12 < 2 ^ 24) :
    Completes (.schPortSet p) 0x0706 p s ((begun 0x0706 p s).schPort a) .ok (emitBlock []) := by
  subst ha
  have hhidden' : (begun 0x0706 p s).hidden ((readParams 0x0706 p.params).n 0) = false := hhidden
  have hrates : badRate ((readParams 0x0706 p.params).n 11) ((readParams 0x0706 p.params).n 12) = false := by
    rw [badRate, decide_eq_false (Nat.not_lt.2 hrate), decide_eq_false (Nat.not_le.2 hburst), Bool.or_false]
  have hany : ((List.range 8).map fun c => (readParams 0x0706 p.params).n (3 + c)).any (fun x =>
      decide (x < (begun 0x0706 p s).quantBound ((readParams 0x0706 p.params).n 0) ((readParams 0x0706 p.params).i 2 7))
        || decide (1048575 < x)) = false := by
    rw [List.any_map, List.any_eq_false]
    intro c hc hc'
    obtain ⟨hlow, hhigh⟩ := hquant c (List.mem_range.1 hc)
    simp only [Function.comp_apply, Bool.or_eq_true, decide_eq_true_eq] at hc'
    exact hc'.elim (Nat.not_lt.2 hlow) (Nat.not_lt.2 hhigh)
  change execSchPortSet p s = _
  unfold execSchPortSet
  refine completes_of_checks hacc (firstFail_of_all_false ?_) rfl
  simp only [List.forall_mem_cons, List.not_mem_nil, false_implies, implies_true, and_true, hhidden', hrates, hany, hbad, begun_hasPort, hport,
    Bool.not_true, Bool.or_false]

end

section
variable {p : Packet} {a : Args} {s : State}

/-- What SCH_PORT_SET leaves in the fields of the port, and that no other register changes. -/
theorem schPort_fields (h : RegsWf s) (hmask : a.n 1 < 256) (hquant : ∀ c, c < 8 → a.n (3 + c) ≤ 1048575) (hrate : a.n 11 ≤ 2 ^ 24)
    (hburst : a.n 12 < 2 ^ 24) :
    (s.schPort a).fld F.schPortCfg_SP_MASK (a.n 0) = a.n 1 ∧ (s.schPort a).fld F.schPortCfg_LEN_ADJ (a.n 0) = ofSigned 7 (a.i 2 7)
    ∧ (∀ c, c < 8 → (s.schPort a).fld F.schClsQuant_QUANTUM (8 * a.n 0 + c) = a.n (3 + c))
    ∧ (s.schPort a).fld F.schPshpRate_RATE (a.n 0) = a.n 11 ∧ (s.schPort a).fld F.schPshpBurst_BURST (a.n 0) = a.n 12
    ∧ ∀ r i, r ∉ [.schPortCfg, .schClsQuant, .schPshpRate, .schPshpBurst] → (s.schPort a).reg r i = s.reg r i := by
  obtain ⟨hwf, hcfg, hq, hrest⟩ := schedSet_frame h (a.n 0) (a.n 1) (a.i 2 7) ((List.range 8).map fun c => a.n (3 + c))
  have hkeep := keepRate_regs (s.schedSet (a.n 0) (a.n 1) (a.i 2 7) ((List.range 8).map fun c => a.n (3 + c))) (portShaper (a.n 0))
  obtain ⟨hsrate, hsburst, hother⟩ := setRate_frame (s := (s.schedSet (a.n 0) (a.n 1) (a.i 2 7) ((List.range 8).map fun c => a.n (3 + c))).keepRate
    (portShaper (a.n 0))) (by rw [RegsWf, hkeep]; exact hwf) (show Reg.schPshpRate ≠ .schPshpBurst by decide) (a.n 0) (a.n 11) (a.n 12)
  obtain ⟨hfmask, hfadj⟩ := schPortWord_fields hmask (a.i 2 7)
  rw [State.schPort, writeShaper_port]
  have hkept : ∀ r i, r ≠ .schPshpRate → r ≠ .schPshpBurst → (((s.schedSet (a.n 0) (a.n 1) (a.i 2 7)
      ((List.range 8).map fun c => a.n (3 + c))).keepRate (portShaper (a.n 0))).setRate .schPshpRate .schPshpBurst (a.n 0) (a.n 11) (a.n 12)).reg r i
        = (s.schedSet (a.n 0) (a.n 1) (a.i 2 7) ((List.range 8).map fun c => a.n (3 + c))).reg r i := fun r i h1 h2 =>
    (hother r i fun c => c.1.elim h1 h2).trans (reg_of_regs hkeep r i)
  have hcfg' := (hkept .schPortCfg (a.n 0) (by decide) (by decide)).trans hcfg
  refine ⟨(fld_of_reg_eq (f := F.schPortCfg_SP_MASK) hcfg').trans hfmask, (fld_of_reg_eq (f := F.schPortCfg_LEN_ADJ) hcfg').trans hfadj,
    fun c hc => fld_of_word rfl (by decide) (Nat.lt_succ_of_le (hquant c hc)) ?_,
    fld_of_word rfl (by decide) (shaperRate_fits hrate) hsrate, fld_of_word rfl (by decide) hburst hsburst, fun r i hr => ?_⟩
  · exact (hkept .schClsQuant _ (by decide) (by decide)).trans (hq c _ (by simp [hc]))
  · simp only [List.mem_cons, List.not_mem_nil, or_false, not_or] at hr
    obtain ⟨h1, h2, h3, h4⟩ := hr
    exact (hkept r i h3 h4).trans (hrest r i h1 h2)

theorem schQueueSet_completes (hacc : Accepts 0x0707 p s) (ha : readParams 0x0707 p.params = a) (hbad : a.bad = false)
    (hport : s.hasPort (a.n 0 / 16) = true) (hhidden : s.hidden (a.n 0 / 16) = false) (hrate : a.n 1 ≤ 2 ^ 24) (hburst : a.n 2 < 2 ^ 24) :
    Completes (.schQueueSet p) 0x0707 p s ((begun 0x0707 p s).writeShaper (a.n 0) (a.n 1) (a.n 2)) .ok (emitBlock []) := by
  subst ha
  have hhidden' : (begun 0x0707 p s).hidden ((readParams 0x0707 p.params).n 0 / 16) = false := hhidden
  have hrates : badRate ((readParams 0x0707 p.params).n 1) ((readParams 0x0707 p.params).n 2) = false := by
    rw [badRate, decide_eq_false (Nat.not_lt.2 hrate), decide_eq_false (Nat.not_le.2 hburst), Bool.or_false]
  change execSchQueueSet p s = _
  unfold execSchQueueSet
  refine completes_of_checks hacc (firstFail_of_all_false ?_) rfl
  simp [hhidden', hrates, hbad, hport]

/-- What SCH_QUEUE_SET leaves in the fields of the queue, and that no other register changes. -/
theorem writeShaper_queue_fields (h : RegsWf s) {qu r b : Nat} (hqu : qu < 16384) (hrate : r ≤ 2 ^ 24) (hburst : b < 2 ^ 24) :
    (s.writeShaper qu r b).fld F.schQshpRate_RATE qu = r ∧ (s.writeShaper qu r b).fld F.schQshpBurst_BURST qu = b
    ∧ ∀ q i, ¬((q = .schQshpRate ∨ q = .schQshpBurst) ∧ i = qu) → (s.writeShaper qu r b).reg q i = s.reg q i := by
  have hkeep := keepRate_regs s qu
  obtain ⟨hsrate, hsburst, hother⟩ := setRate_frame (s := s.keepRate qu) (by rw [RegsWf, hkeep]; exact h)
    (show Reg.schQshpRate ≠ .schQshpBurst by decide) qu r b
  rw [writeShaper_queue hqu]
  exact ⟨fld_of_word rfl (by decide) (shaperRate_fits hrate) hsrate, fld_of_word rfl (by decide) hburst hsburst,
    fun q i hq => (hother q i hq).trans (reg_of_regs hkeep q i)⟩

end

/-! ### Words in a reply (R491) -/

/-- Numbers of 4 bytes. -/
def wordFields (ws : List Nat) : List (Ty × Nat) := ws.map fun v => (Ty.u 32, v)

/-- Numbers of 4 bytes at a multiple of 4 stand without padding. -/
theorem emitFrom_words (ws : List Nat) (rest : List (Ty × Nat)) {pos : Nat} (hpos : pos % 4 = 0) :
    emitFrom (wordFields ws ++ rest) pos = ws.flatMap (leBytes 4) ++ emitFrom rest (pos + 4 * ws.length) := by
  induction ws generalizing pos with
  | nil => rfl
  | cons v ws ih =>
    have hnext : pos + 4 + 4 * ws.length = pos + 4 * (ws.length + 1) := by omega
    have hpad : padTo 4 pos = 0 := by simp [padTo, hpos]
    change List.replicate (padTo 4 pos) 0 ++ leBytes 4 v ++ emitFrom (wordFields ws ++ rest) (pos + padTo 4 pos + 4) = _
    rw [hpad, Nat.add_zero, ih (by omega), List.flatMap_cons, List.length_cons, hnext]
    simp

theorem length_words (ws : List Nat) : (ws.flatMap (leBytes 4)).length = 4 * ws.length := by
  simp [List.length_flatMap, Nat.mul_comm]

/-- Word `k` of a list of them stands at byte 4k. -/
theorem leAt_words {ws : List Nat} {k v : Nat} (hk : ws[k]? = some v) (rest : List Byte) :
    leAt (ws.flatMap (leBytes 4) ++ rest) (4 * k) 4 = v % 2 ^ 32 := by
  obtain ⟨hlt, hv⟩ := List.getElem?_eq_some_iff.1 hk
  have hbefore : ((ws.take k).flatMap (leBytes 4)).length = 4 * k := by rw [length_words, List.length_take_of_le hlt.le]
  have hsplit : ws.flatMap (leBytes 4) ++ rest = (ws.take k).flatMap (leBytes 4) ++ (leBytes 4 v ++ ((ws.drop (k + 1)).flatMap (leBytes 4) ++ rest)) := by
    conv_lhs => rw [← List.take_append_drop k ws, List.drop_eq_getElem_cons hlt, hv, List.flatMap_append, List.flatMap_cons, List.append_assoc,
      List.append_assoc]
  rw [hsplit]
  exact (leAt_append_right hbefore _ 0 4).trans (leAt_leBytes_append 4 v _)

/-- Item `j` of block `q` of blocks of `n` items stands at place n q + j. -/
theorem getElem?_blocks {α : Type} {r : Nat → List α} {n : Nat} (hr : ∀ q, (r q).length = n) {q m j : Nat} (hq : q < m) (hj : j < n) :
    ((List.range m).flatMap r)[n * q + j]? = (r q)[j]? := by
  have hlen : ((List.range q).flatMap r).length = n * q := by simp [List.length_flatMap, hr, Nat.mul_comm]
  have hrange : List.range m = List.range q ++ q :: (List.range m).drop (q + 1) := by
    conv_lhs => rw [← List.take_append_drop q (List.range m), List.take_range, min_eq_left hq.le,
      List.drop_eq_getElem_cons (by simpa using hq), List.getElem_range]
  rw [hrange, List.flatMap_append, List.flatMap_cons, List.getElem?_append_right (by omega), hlen, Nat.add_sub_cancel_left,
    List.getElem?_append_left (by rw [hr]; exact hj)]

/-- An item of the list behind a head. -/
theorem getElem?_behind {α : Type} {head : List α} {n : Nat} (hh : head.length = n) (l : List α) (k : Nat) : (head ++ l)[n + k]? = l[k]? := by
  rw [List.getElem?_append_right (by omega), hh, Nat.add_sub_cancel_left]

section
variable {p : Packet} {a : Args} {s : State}

/-! ### SCH_GET (R335) -/

/-- The SCH registers of a port as their readers see them. -/
def State.schViews (s : State) (port : Nat) : List Nat :=
  [.schPortCfg, .schPshpRate, .schPshpBurst, .schPshpCred, .schStat, .schIe, .schShpBlk].map fun r => (s.view r port).toNat

/-- The shaper of class-queue `i` of a port. -/
def State.queueShaper (s : State) (port i : Nat) : List Nat :=
  [(s.view .schQshpRate (16 * port + i)).toNat, (s.view .schQshpBurst (16 * port + i)).toNat, (s.view .schQshpCred (16 * port + i)).toNat]

/-- The words that SCH_GET answers: the configuration, the quanta, the queues' shapers, the counters and the deficits. -/
def State.schWords (s : State) (port : Nat) : List Nat :=
  s.schViews port
    ++ (((List.range 8).map fun c => (s.view .schClsQuant (8 * port + c)).toNat)
    ++ ((List.range 16).flatMap (s.queueShaper port)
    ++ ([.schGateWaitCnt, .schGclOverrunCnt, .schShapeWaitCnt].map (fun r => (s.view r port).toNat)
    ++ (List.range 8).map fun c => (s.sched port).dc.getD c 0)))

theorem schGet_completes (hacc : Accepts 0x0708 p s) (ha : readParams 0x0708 p.params = a) (hbad : a.bad = false) (hport : s.hasPort (a.n 0) = true) :
    Completes (.schGet p) 0x0708 p s (begun 0x0708 p s) .ok
      (emitBlock (wordFields (s.schWords (a.n 0)) ++ [(.u 8, (s.sched (a.n 0)).ptr)])) := by
  subst ha
  change execSchGet p s = _
  unfold execSchGet
  refine completes_of_checks hacc (firstFail_of_all_false (by simp [hbad, hport])) (congrArg (guarded _ _) ?_)
  simp only [State.schWords, State.schViews, State.queueShaper, wordFields, List.map_append, List.map_flatMap, List.map_map, Function.comp_def,
    List.map_cons, List.map_nil, List.append_assoc]
  rfl

theorem schWords_length (s : State) (port : Nat) : (s.schWords port).length = 74 := rfl

/-- Where the configuration, the quanta, the shapers and the deficits stand among the words of SCH_GET. -/
theorem schWords_at (s : State) (port : Nat) : (∀ k, k < 7 → (s.schWords port)[k]? = (s.schViews port)[k]?)
    ∧ (∀ c, c < 8 → (s.schWords port)[7 + c]? = some (s.view .schClsQuant (8 * port + c)).toNat)
    ∧ (∀ i j, i < 16 → j < 3 → (s.schWords port)[15 + (3 * i + j)]? = (s.queueShaper port i)[j]?)
    ∧ ∀ c, c < 8 → (s.schWords port)[66 + c]? = some ((s.sched port).dc.getD c 0) := by
  have hviews : (s.schViews port).length = 7 := rfl
  have hquant : ((List.range 8).map fun c => (s.view .schClsQuant (8 * port + c)).toNat).length = 8 := by simp
  have hshaper : ((List.range 16).flatMap (s.queueShaper port)).length = 48 := rfl
  have hcounters : ([.schGateWaitCnt, .schGclOverrunCnt, .schShapeWaitCnt].map fun r => (s.view r port).toNat).length = 3 := rfl
  have hblocks : ∀ i j, i < 16 → j < 3 → ((List.range 16).flatMap (s.queueShaper port))[3 * i + j]? = (s.queueShaper port i)[j]? :=
    fun i j hi hj => getElem?_blocks (n := 3) (fun _ => rfl) hi hj
  refine ⟨fun k hk => List.getElem?_append_left hk, fun c hc => ?_, fun i j hi hj => ?_, fun c hc => ?_⟩
  · rw [State.schWords, getElem?_behind hviews, List.getElem?_append_left (by rw [hquant]; exact hc)]
    simp [hc]
  · rw [State.schWords, show 15 + (3 * i + j) = 7 + (8 + (3 * i + j)) by omega, getElem?_behind hviews, getElem?_behind hquant,
      List.getElem?_append_left (by rw [hshaper]; omega), hblocks i j hi hj]
  · rw [State.schWords, show 66 + c = 7 + (8 + (48 + (3 + c))) by omega, getElem?_behind hviews, getElem?_behind hquant,
      getElem?_behind hshaper, getElem?_behind hcounters]
    simp [hc]

/-- A word that fits stands as it is at four times its place. -/
theorem leAt_word {ws : List Nat} {rest : List Byte} {k x : Nat} {v : Word} (hx : x = 4 * k) (hk : ws[k]? = some v.toNat) :
    leAt (ws.flatMap (leBytes 4) ++ rest) x 4 = v.toNat := by
  rw [hx, leAt_words hk, Nat.mod_eq_of_lt v.isLt]

/-- The bytes of the answer of SCH_GET: its words, the pointer and the padding. -/
theorem schGet_bytes (s : State) (port : Nat) : emitBlock (wordFields (s.schWords port) ++ [(.u 8, (s.sched port).ptr)])
    = (s.schWords port).flatMap (leBytes 4) ++ (leBytes 1 (s.sched port).ptr ++ List.replicate 3 0) := by
  have hptr : emitFrom [(.u 8, (s.sched port).ptr)] 296 = leBytes 1 (s.sched port).ptr := rfl
  have hlen : ((s.schWords port).flatMap (leBytes 4) ++ leBytes 1 (s.sched port).ptr).length = 297 := by
    rw [List.length_append, length_words, schWords_length, leBytes_length]
  rw [emitBlock, emitFrom_words _ _ rfl, schWords_length, hptr, hlen, List.append_assoc]
  rfl

/-- What SCH_GET answers at each place. -/
theorem schGet_answer (s : State) (port : Nat) {ps : List Byte}
    (hps : ps = (s.schWords port).flatMap (leBytes 4) ++ (leBytes 1 (s.sched port).ptr ++ List.replicate 3 0)) :
    ps.length = 300 ∧ leAt ps 0 4 = (s.view .schPortCfg port).toNat ∧ leAt ps 4 4 = (s.view .schPshpRate port).toNat
    ∧ leAt ps 8 4 = (s.view .schPshpBurst port).toNat ∧ leAt ps 12 4 = (s.view .schPshpCred port).toNat
    ∧ (∀ c, c < 8 → leAt ps (28 + 4 * c) 4 = (s.view .schClsQuant (8 * port + c)).toNat)
    ∧ (∀ i, i < 16 → leAt ps (60 + 12 * i) 4 = (s.view .schQshpRate (16 * port + i)).toNat
      ∧ leAt ps (64 + 12 * i) 4 = (s.view .schQshpBurst (16 * port + i)).toNat
      ∧ leAt ps (68 + 12 * i) 4 = (s.view .schQshpCred (16 * port + i)).toNat)
    ∧ (∀ c, c < 8 → leAt ps (264 + 4 * c) 4 = (s.sched port).dc.getD c 0 % 2 ^ 32) ∧ leAt ps 296 1 = (s.sched port).ptr % 256 := by
  obtain ⟨hviews, hquant, hshaper, hdc⟩ := schWords_at s port
  have hwords : ((s.schWords port).flatMap (leBytes 4)).length = 296 := by rw [length_words, schWords_length]
  subst hps
  refine ⟨?_, leAt_word rfl (hviews 0 (by decide)), leAt_word rfl (hviews 1 (by decide)), leAt_word rfl (hviews 2 (by decide)),
    leAt_word rfl (hviews 3 (by decide)), fun c hc => leAt_word (by omega) (hquant c hc), fun i hi => ⟨?_, ?_, ?_⟩, fun c hc => ?_, ?_⟩
  · rw [List.length_append, hwords, List.length_append, leBytes_length, List.length_replicate]
  · exact leAt_word (by omega) (hshaper i 0 hi (by decide))
  · exact leAt_word (by omega) (hshaper i 1 hi (by decide))
  · exact leAt_word (by omega) (hshaper i 2 hi (by decide))
  · rw [show 264 + 4 * c = 4 * (66 + c) by omega]
    exact leAt_words (hdc c hc) _
  · exact (leAt_append_right hwords _ 0 1).trans (leAt_leBytes_append 1 _ _)

/-! ### GCL_GET (R337) -/

/-- MAXWIN of class `c` in a bank. -/
def State.gclWin (s : State) (p c : Nat) (admin : Bool) : Nat :=
  if admin then s.fld F.gclAdminMaxwin_MAXWIN (p * 8 + c) else s.fld F.gclOperMaxwin_MAXWIN (p * 8 + c)

/-- An entry of a bank: duration and gates. -/
def State.gclPair (s : State) (p : Nat) (admin : Bool) (e : Nat) : List Nat := [s.gclDur p e admin, s.gclVec p e admin]

/-- The entries of a bank that a reply holds. -/
def State.gclShown (s : State) (p : Nat) (admin : Bool) : List Nat :=
  (List.range (min 52 (s.gclLen p admin))).flatMap (s.gclPair p admin)

/-- The time of the swap that is pending on a port. -/
def State.gclPending (s : State) (p : Nat) : Nat :=
  match s.path.gclHeld.find? fun h => h.port = p with
  | some h => h.time
  | none => if s.flag F.gclSwapCtl_ARM p then (s.gcl p).armedS else 0

/-- What GCL_GET answers for a bank. -/
def State.gclFields (s : State) (p : Nat) (admin : Bool) : List (Ty × Nat) :=
  (.u 32, s.gclCycle p admin) :: (.wide 80, packNet (if admin then (s.gcl p).adminBase else (s.gcl p).operBase))
    :: (wordFields ((List.range 8).map fun c => s.gclWin p c admin)
      ++ (.wide 80, packNet (s.gclPending p)) :: (.u 32, (s.reg .gclStat p).toNat) :: (.u 16, s.fld F.gclOperPos_ENTRY p)
        :: (.u 16, min 52 (s.gclLen p admin)) :: (wordFields (s.gclShown p admin) ++ []))

theorem gclGet_completes (hacc : Accepts 0x070B p s) (ha : readParams 0x070B p.params = a) (hbad : a.bad = false) (hport : s.hasPort (a.n 0) = true) :
    Completes (.gclGet p) 0x070B p s (begun 0x070B p s) .ok (emitBlock (s.gclFields (a.n 0) (a.f 1))) := by
  subst ha
  change execGclGet p s = _
  unfold execGclGet
  refine completes_of_checks hacc (firstFail_of_all_false (by simp [hbad, hport])) (congrArg (guarded _ _) ?_)
  simp only [State.gclFields, State.gclShown, State.gclPair, State.gclWin, wordFields, List.map_flatMap, List.map_map, Function.comp_def,
    List.map_cons, List.map_nil, List.append_assoc, List.append_nil, List.cons_append, List.nil_append]
  rfl

/-- What stands before the windows of a bank, and between them and GCL_STAT. -/
def gclHead (cycle base : Nat) : List Byte := leBytes 4 cycle ++ (List.replicate 4 0 ++ (leBytes 10 base ++ List.replicate 2 0))
def gclMiddle (pending : Nat) : List Byte := List.replicate 4 0 ++ (leBytes 10 pending ++ List.replicate 2 0)

/-- The bytes behind them. -/
def gclTail (stat entry n : Nat) (es : List Nat) : List Byte := leBytes 4 stat ++ (leBytes 2 entry ++ (leBytes 2 n ++ (es.flatMap (leBytes 4) ++ [])))

theorem emitFrom_gcl (cycle base pending stat entry n : Nat) {win es : List Nat} (hwin : win.length = 8) :
    emitFrom ((.u 32, cycle) :: (.wide 80, base) :: (wordFields win ++ (.wide 80, pending) :: (.u 32, stat) :: (.u 16, entry) :: (.u 16, n)
      :: (wordFields es ++ []))) 0 = gclHead cycle base ++ (win.flatMap (leBytes 4) ++ (gclMiddle pending ++ gclTail stat entry n es)) := by
  have hwords : emitFrom (wordFields es ++ []) 76 = es.flatMap (leBytes 4) ++ [] := emitFrom_words es [] rfl
  have htail : emitFrom ((.wide 80, pending) :: (.u 32, stat) :: (.u 16, entry) :: (.u 16, n) :: (wordFields es ++ [])) 52
      = gclMiddle pending ++ gclTail stat entry n es := by
    rw [gclTail, ← hwords]
    rfl
  have hbody := emitFrom_words win ((.wide 80, pending) :: (.u 32, stat) :: (.u 16, entry) :: (.u 16, n) :: (wordFields es ++ [])) (pos := 20) rfl
  rw [hwin, htail] at hbody
  rw [← hbody]
  obtain ⟨w, ws, rfl⟩ := List.exists_cons_of_length_eq_add_one hwin
  rfl

/-- What GCL_GET answers at each place. -/
theorem gclGet_answer (s : State) (port : Nat) (admin : Bool) {ps : List Byte} (hps : ps = emitBlock (s.gclFields port admin)) :
    leAt ps 0 4 = s.gclCycle port admin % 2 ^ 32
    ∧ (∀ c, c < 8 → leAt ps (20 + 4 * c) 4 = s.gclWin port c admin % 2 ^ 32)
    ∧ leAt ps 68 4 = (s.reg .gclStat port).toNat ∧ leAt ps 72 2 = s.fld F.gclOperPos_ENTRY port % 2 ^ 16
    ∧ leAt ps 74 2 = min 52 (s.gclLen port admin) % 2 ^ 16
    ∧ ∀ e, e < min 52 (s.gclLen port admin) → leAt ps (76 + 8 * e) 4 = s.gclDur port e admin % 2 ^ 32
      ∧ leAt ps (80 + 8 * e) 4 = s.gclVec port e admin % 2 ^ 32 := by
  have hwin : ((List.range 8).map fun c => s.gclWin port c admin).length = 8 := by simp
  have hhead : ∀ x y, (gclHead x y).length = 20 := fun x y => by simp [gclHead]
  have hpair : ∀ e j, e < min 52 (s.gclLen port admin) → j < 2 → (s.gclShown port admin)[2 * e + j]? = (s.gclPair port admin e)[j]? :=
    fun e j he hj => getElem?_blocks (n := 2) (fun _ => rfl) he hj
  have hmid : ∀ x, (gclMiddle x).length = 16 := fun x => by simp [gclMiddle]
  have hwords : (((List.range 8).map fun c => s.gclWin port c admin).flatMap (leBytes 4)).length = 32 := by rw [length_words, hwin]
  subst hps
  rw [emitBlock, State.gclFields, emitFrom_gcl _ _ _ _ _ _ hwin]
  simp only [List.append_assoc]
  have hback : ∀ x y z k n rest, leAt (gclHead x y ++ (((List.range 8).map fun c => s.gclWin port c admin).flatMap (leBytes 4)
      ++ (gclMiddle z ++ rest))) (20 + (32 + (16 + k))) n = leAt rest k n := fun x y z k n rest => by
    rw [leAt_append_right (hhead x y), leAt_append_right hwords, leAt_append_right (hmid z)]
  refine ⟨?_, fun c hc => ?_, ?_, ?_, ?_, fun e he => ⟨?_, ?_⟩⟩
  · rw [gclHead]
    simp only [List.append_assoc]
    exact leAt_leBytes_append 4 _ _
  · rw [leAt_append_right (hhead _ _)]
    exact leAt_words (by simp [hc]) _
  · refine (hback _ _ _ 0 4 _).trans ?_
    simp only [gclTail, List.append_assoc]
    exact (leAt_leBytes_append 4 _ _).trans (Nat.mod_eq_of_lt (BitVec.isLt _))
  · refine (hback _ _ _ 4 2 _).trans ?_
    simp only [gclTail, List.append_assoc]
    exact (leAt_append_right (leBytes_length 4 _) _ 0 2).trans (leAt_leBytes_append 2 _ _)
  · refine (hback _ _ _ 6 2 _).trans ?_
    simp only [gclTail, List.append_assoc]
    exact (leAt_append_right (leBytes_length 4 _) _ 2 2).trans ((leAt_append_right (leBytes_length 2 _) _ 0 2).trans (leAt_leBytes_append 2 _ _))
  · rw [show 76 + 8 * e = 20 + (32 + (16 + (4 + (2 + (2 + 4 * (2 * e + 0)))))) by omega, hback]
    simp only [gclTail, List.append_assoc]
    rw [leAt_append_right (leBytes_length 4 _), leAt_append_right (leBytes_length 2 _), leAt_append_right (leBytes_length 2 _)]
    exact leAt_words (hpair e 0 he (by decide)) _
  · rw [show 80 + 8 * e = 20 + (32 + (16 + (4 + (2 + (2 + 4 * (2 * e + 1)))))) by omega, hback]
    simp only [gclTail, List.append_assoc]
    rw [leAt_append_right (leBytes_length 4 _), leAt_append_right (leBytes_length 2 _), leAt_append_right (leBytes_length 2 _)]
    exact leAt_words (hpair e 1 he (by decide)) _

end

/-! ### The admin bank (R336) -/

section
variable {s : State} {g : GclHeld}

/-- An entry of a list written into the admin bank, and all of them; MAXWIN of the eight classes. -/
def State.adminEntry (p : Nat) (s : State) (e : (Nat × Nat) × Nat) : State :=
  (s.setReg .gclAdminDur (p * 1024 + e.2) (word e.1.1)).setReg .gclAdminGates (p * 1024 + e.2) (word e.1.2)
def State.adminEntries (s : State) (p : Nat) (es : List (Nat × Nat)) : State := es.zipIdx.foldl (State.adminEntry p) s
def State.adminWindows (s : State) (p : Nat) (ws : List Nat) : State :=
  ws.zipIdx.foldl (fun s e => s.setReg .gclAdminMaxwin (p * 8 + e.2) (word e.1)) s

/-- The list in the admin bank: entries, MAXWIN and CYCLE. -/
def State.adminList (s : State) (g : GclHeld) : State :=
  ((s.adminEntries g.port g.entries).adminWindows g.port g.maxwin).setReg .gclAdminCycle g.port (word g.cycle)

theorem writeAdmin_regs (s : State) (g : GclHeld) :
    (s.writeAdmin g).regs = ((s.adminList g).setFld F.gclSwapCtl_ADMIN_LEN g.port g.entries.length).regs := by
  simp only [State.writeAdmin, State.adminList, State.adminEntries, State.adminWindows, setGcl_regs]
  rfl

/-- The registers of entry `k` of the admin bank. -/
def State.adminAt (p k : Nat) (s : State) : Word × Word := (s.reg .gclAdminDur (p * 1024 + k), s.reg .gclAdminGates (p * 1024 + k))

theorem adminEntry_wf (p : Nat) (s : State) (e : (Nat × Nat) × Nat) (h : RegsWf s) : RegsWf (s.adminEntry p e) :=
  wf_setReg (wf_setReg h _ _ _) _ _ _

theorem adminAt_adminEntry_ne (p : Nat) {k : Nat} (s : State) (e : (Nat × Nat) × Nat) (h : RegsWf s) (hne : e.2 ≠ k) :
    (s.adminEntry p e).adminAt p k = s.adminAt p k := by
  have hw := wf_setReg h .gclAdminDur (p * 1024 + e.2) (word e.1.1)
  have hplace : ¬(p * 1024 + k = p * 1024 + e.2) := fun c => hne (Nat.add_left_cancel c).symm
  rw [State.adminAt, State.adminEntry, reg_setReg_ne hw _ (fun c => hplace c.2), reg_setReg_ne h _ (fun c => hplace c.2),
    reg_setReg_ne hw _ (fun c => hplace c.2), reg_setReg_ne h _ (fun c => hplace c.2)]
  rfl

theorem adminAt_adminEntry_self (h : RegsWf s) (p k : Nat) (e : Nat × Nat) :
    (s.adminEntry p (e, k)).adminAt p k = (word e.1, word e.2) := by
  have hw := wf_setReg h .gclAdminDur (p * 1024 + k) (word e.1)
  rw [State.adminAt, State.adminEntry, reg_setReg_ne hw _ (fun c => absurd c.1 (by decide)), reg_setReg_self h, reg_setReg_self hw]

theorem adminEntries_at (h : RegsWf s) (p : Nat) {es : List (Nat × Nat)} {k : Nat} {e : Nat × Nat} (hk : es[k]? = some e) :
    (s.adminEntries p es).adminAt p k = (word e.1, word e.2) := by
  obtain ⟨u, hu, heq⟩ := foldl_zipIdx_at (P := fun u => RegsWf u) (g := State.adminAt p k) (adminEntry_wf p)
    (adminAt_adminEntry_ne p) hk h
  rw [State.adminEntries, heq, adminAt_adminEntry_self hu]

theorem adminEntries_keeps (h : Inv s) (p : Nat) (es : List (Nat × Nat)) :
    Keeps ⟨[], [.gclAdminDur, .gclAdminGates], false⟩ s (s.adminEntries p es) :=
  keeps_foldl (keeps_self h) fun _ _ hk => keeps_setReg (keeps_setReg hk (by decide)) (by decide)

theorem adminWindows_keeps (h : Inv s) (p : Nat) (ws : List Nat) : Keeps ⟨[], [.gclAdminMaxwin], false⟩ s (s.adminWindows p ws) :=
  keeps_foldl (keeps_self h) fun _ _ hk => keeps_setReg hk (by decide)

/-- What the list leaves in the registers of the admin bank. -/
theorem adminList_at (h : Inv s) (g : GclHeld) : RegsWf (s.adminList g) ∧ (s.adminList g).reg .gclAdminCycle g.port = word g.cycle
    ∧ (∀ k e, g.entries[k]? = some e → (s.adminList g).adminAt g.port k = (word e.1, word e.2))
    ∧ (∀ c w, g.maxwin[c]? = some w → (s.adminList g).reg .gclAdminMaxwin (g.port * 8 + c) = word w)
    ∧ (s.adminList g).reg .gclSwapCtl g.port = s.reg .gclSwapCtl g.port := by
  have hE := adminEntries_keeps h g.port g.entries
  have hW := adminWindows_keeps (keeps_inv hE) g.port g.maxwin
  have hlist : ∀ r i, r ≠ .gclAdminCycle → (s.adminList g).reg r i = ((s.adminEntries g.port g.entries).adminWindows g.port g.maxwin).reg r i :=
    fun r i hr => reg_setReg_ne hW.regs _ fun c => hr c.1
  refine ⟨wf_setReg hW.regs _ _ _, reg_setReg_self hW.regs _ _ _, fun k e hk => ?_, fun c w hc => ?_, ?_⟩
  · rw [← adminEntries_at h.regs g.port hk, State.adminAt, hlist _ _ (by decide), hlist _ _ (by decide), hW.within.regs _ _ rfl,
      hW.within.regs _ _ rfl]
    rfl
  · rw [hlist _ _ (by decide)]
    exact reg_foldl_zipIdx hE.regs hc
  · rw [hlist _ _ (by decide), hW.within.regs _ _ rfl, hE.within.regs _ _ rfl]

/-- The admin bank of port `g.port` holds the list of `g`. -/
structure AdminHolds (g : GclHeld) (s : State) : Prop where
  cycle : s.reg .gclAdminCycle g.port = word g.cycle
  entries : ∀ k e, g.entries[k]? = some e → s.adminAt g.port k = (word e.1, word e.2)
  maxwin : ∀ c w, g.maxwin[c]? = some w → s.reg .gclAdminMaxwin (g.port * 8 + c) = word w

/-- It holds the list too when the registers of the admin bank are the same. -/
theorem AdminHolds.mono {t : State} (hs : AdminHolds g s)
    (hr : ∀ r i, r ∈ [.gclAdminCycle, .gclAdminDur, .gclAdminGates, .gclAdminMaxwin] → t.reg r i = s.reg r i) : AdminHolds g t where
  cycle := (hr _ _ (by decide)).trans hs.cycle
  entries k e hk := by
    rw [State.adminAt, hr .gclAdminDur _ (by decide), hr .gclAdminGates _ (by decide)]
    exact hs.entries k e hk
  maxwin c w hc := (hr _ _ (by decide)).trans (hs.maxwin c w hc)

theorem writeAdmin_holds (h : Inv s) (g : GclHeld) : AdminHolds g (s.writeAdmin g) := by
  obtain ⟨hwf, hcycle, hentries, hmaxwin, -⟩ := adminList_at h g
  have hlist : AdminHolds g (s.adminList g) := ⟨hcycle, hentries, hmaxwin⟩
  refine hlist.mono fun r i hr => ?_
  rw [reg_of_regs (writeAdmin_regs s g)]
  exact reg_setFld_ne hwf _ fun c => absurd (c.1 ▸ hr) (by decide)

/-- ADMIN_LEN is the length of the list, and ARM stays. -/
theorem writeAdmin_ctl (h : Inv s) (g : GclHeld) (hlen : g.entries.length < 2048) :
    (s.writeAdmin g).fld F.gclSwapCtl_ADMIN_LEN g.port = g.entries.length
    ∧ (s.writeAdmin g).flag F.gclSwapCtl_ARM g.port = s.flag F.gclSwapCtl_ARM g.port := by
  obtain ⟨hwf, -, -, -, hctl⟩ := adminList_at h g
  refine ⟨?_, ?_⟩
  · rw [fld_of_regs (writeAdmin_regs s g), fld_setFld_self hwf (by decide)]
    exact Nat.mod_eq_of_lt hlen
  · rw [flag_of_regs (writeAdmin_regs s g), flag_setFld_apart hwf (by decide)]
    exact flag_of_reg hctl

theorem adminEntries_path (s : State) (p : Nat) (es : List (Nat × Nat)) : (s.adminEntries p es).path = s.path :=
  foldl_part (·.path) (fun _ _ => by rw [State.adminEntry, setReg_path, setReg_path]) _ s

theorem adminWindows_path (s : State) (p : Nat) (ws : List Nat) : (s.adminWindows p ws).path = s.path :=
  foldl_part (·.path) (fun _ _ => by simp only [setReg_path]) _ s

theorem setGcl_held (s : State) (p : Nat) (d : GclRun) : (s.setGcl p d).path.gclHeld = s.path.gclHeld := rfl

/-- Writing the admin bank leaves the held swaps. -/
theorem writeAdmin_held (s : State) (g : GclHeld) : (s.writeAdmin g).path.gclHeld = s.path.gclHeld := by
  have hlist : (s.adminList g).path = s.path := by
    rw [State.adminList, setReg_path, adminWindows_path, adminEntries_path]
  have hwrite : (s.writeAdmin g).path.gclHeld = ((s.adminList g).setFld F.gclSwapCtl_ADMIN_LEN g.port g.entries.length).path.gclHeld := by
    simp only [State.writeAdmin, State.adminList, State.adminEntries, State.adminWindows, setGcl_held]
    rfl
  rw [hwrite, setFld_path, hlist]

/-! ### Arming a held swap (R328) -/

/-- The whorl target of a swap at network time `time`. -/
def State.swapTarget (s : State) (time : Nat) : Nat := (s.whorlNs + time + 2 ^ 32 - s.netNs % 2 ^ 32) % 2 ^ 32

theorem netNs_of_time {t : State} (h : t.time = s.time) : t.netNs = s.netNs := by rw [State.netNs, State.netNs, State.whorlNs, State.whorlNs, h]

theorem swapTarget_of_time {t : State} (h : t.time = s.time) (x : Nat) : t.swapTarget x = s.swapTarget x := by
  rw [State.swapTarget, State.swapTarget, netNs_of_time h, State.whorlNs, State.whorlNs, h]

/-- A swap that lies 2^30 ns or more ahead stays held. -/
theorem armHeld_of_far (h : s.netNs + 2 ^ 30 ≤ g.time) : s.armHeld g = s := by rw [State.armHeld, if_pos h]

/-- A nearer one is armed for its target. -/
theorem armHeld_regs_of_near (h : g.time < s.netNs + 2 ^ 30) :
    (s.armHeld g).regs = ((s.setReg .gclSwapTgt g.port (word (s.swapTarget g.time))).swapArmed g.port).regs := by
  rw [State.armHeld, if_neg (Nat.not_le.2 h), setGcl_regs, armSwap_regs]
  rfl

theorem armHeld_near (hs : RegsWf s) (h : g.time < s.netNs + 2 ^ 30) :
    (s.armHeld g).flag F.gclSwapCtl_ARM g.port = true ∧ (s.armHeld g).flag F.gclStat_ARMED g.port = true
    ∧ (s.armHeld g).fld F.gclSwapCtl_ADMIN_LEN g.port = s.fld F.gclSwapCtl_ADMIN_LEN g.port
    ∧ ((s.armHeld g).reg .gclSwapTgt g.port).toNat = s.swapTarget g.time := by
  have hset := wf_setReg hs .gclSwapTgt g.port (word (s.swapTarget g.time))
  have hregs := (armHeld_regs_of_near h).trans (armSwap_regs _ _).symm
  obtain ⟨harm, harmed, hlen⟩ := armSwap_fields (p := g.port) hset
  refine ⟨(flag_of_regs hregs ..).trans harm, (flag_of_regs hregs ..).trans harmed, (fld_of_regs hregs ..).trans (hlen.trans ?_), ?_⟩
  · exact fld_of_reg (reg_setReg_ne hs _ (fun c => absurd c.1 (by decide)))
  · have htgt : (s.armHeld g).reg .gclSwapTgt g.port = word (s.swapTarget g.time) := by
      rw [reg_of_regs (armHeld_regs_of_near h), State.swapArmed,
        reg_setFld_ne (wf_setFld hset _ _ _) _ (fun c => absurd c.1 (by decide)), reg_setFld_ne hset _ (fun c => absurd c.1 (by decide))]
      exact reg_setReg_self hs _ _ _
    rw [htgt, word, BitVec.toNat_ofNat]
    exact Nat.mod_mod _ _

end

section
variable {p : Packet} {a : Args} {s : State}

/-! ### GCL_SET (R336) -/

/-- A swap replaces the one held for its port. -/
def State.holding (s : State) (g : GclHeld) : State :=
  { s with path := { s.path with gclHeld := (s.path.gclHeld.filter fun (h : GclHeld) => h.port != g.port) ++ [g] } }

/-- The swap that GCL_SET asks for. -/
def gclRequest (a : Args) (es : List (Nat × Nat)) (time : Nat) : GclHeld where
  port := a.n 0
  time := time
  base := unpackNet (a.n 3)
  cycle := a.n 1
  entries := es
  maxwin := (List.range 8).map fun c => maxWindow (a.n 1) es c

/-- GCL_SET on a state: the swap is held, the admin bank written, and a near swap armed. -/
def State.gclSet (s : State) (g : GclHeld) : State := ((s.holding g).writeAdmin g).armHeld g

/-- Whether an entry's duration, gates and zero bytes are bad. -/
def gclEntryBad (e : Nat × Nat × Bool) : Bool := decide (e.1 < 8) || decide (2 ^ 30 ≤ e.1) || e.2.2

/-- The checks of GCL_SET pass: an inline list needs no buffer, a longer one has a good one. -/
theorem gclSet_checks {bad : Bool} {time : Nat} (hbad : a.bad = false) (hfront : a.n 0 < 512) (hport : s.hasPort (a.n 0) = true)
    (hhidden : s.hidden (a.n 0) = false) (hmin : 1 ≤ a.n 2) (hmax : a.n 2 ≤ 1024) (hcmin : 1000 ≤ a.n 1) (hcmax : a.n 1 ≤ 1000000000)
    (hgood : bad = false) (hdma : 56 < a.n 2 → firstFail (dmaChecks s p (a.n 5) false (8 * a.n 2)) = none ∧ p.dmaFault = false)
    (htime : time ≤ s.netNs + 86400 * 1000000000) (hidle : s.flag F.gclSwapCtl_ARM (a.n 0) = false) :
    firstFail ([ (!s.hasPort (a.n 0), Status.resourceAbsent), (s.hidden (a.n 0), .lanesInUse),
        (a.bad || decide (512 ≤ a.n 0) || a.n 2 == 0 || decide (1024 < a.n 2) || decide (a.n 1 < 1000) || decide (1000000000 < a.n 1)
          || (decide (a.n 2 ≤ 56) && bad), .paramInvalid) ]
      ++ (if decide (a.n 2 ≤ 56) then [] else dmaChecks s p (a.n 5) false (8 * a.n 2) ++ [(p.dmaFault, .dmaFault), (bad, .paramInvalid)])
      ++ [ (decide (s.netNs + 86400 * 1000000000 < time), .schedRange), (s.flag F.gclSwapCtl_ARM (a.n 0), .busy) ]) = none := by
  have hzero : (a.n 2 == 0) = false := beq_false_of_ne (Nat.pos_iff_ne_zero.1 hmin)
  rw [List.append_assoc, firstFail_append (firstFail_of_all_false ?first), firstFail_append ?buffer]
  case first =>
    simp [hport, hhidden, hbad, hzero, hgood, Nat.not_le.2 hfront, Nat.not_lt.2 hmax, Nat.not_lt.2 hcmin, Nat.not_lt.2 hcmax]
  case buffer =>
    by_cases h56 : a.n 2 ≤ 56
    · simp [h56, firstFail]
    · obtain ⟨hchecks, hfault⟩ := hdma (Nat.not_le.1 h56)
      rw [if_neg (by simpa using h56), firstFail_append hchecks, hfault, hgood]
      rfl
  · rw [decide_eq_false (Nat.not_lt.2 htime), hidle]
    rfl

theorem gclSet_completes {es : List (Nat × Nat)} {time : Nat} (hacc : Accepts 0x0709 p s) (ha : readParams 0x0709 p.params = a)
    (hbad : a.bad = false) (hfront : a.n 0 < 512) (hport : s.hasPort (a.n 0) = true) (hhidden : s.hidden (a.n 0) = false) (hmin : 1 ≤ a.n 2)
    (hmax : a.n 2 ≤ 1024) (hcmin : 1000 ≤ a.n 1) (hcmax : a.n 1 ≤ 1000000000) (hes : es = (gclEntries a p).map fun e => (e.1, e.2.1))
    (hgood : ∀ e, e ∈ gclEntries a p → gclEntryBad e = false) (hsum : es.foldl (fun n e => n + e.1) 0 ≤ a.n 1)
    (hdma : 56 < a.n 2 → firstFail (dmaChecks s p (a.n 5) false (8 * a.n 2)) = none ∧ p.dmaFault = false)
    (htime : time = cycleAtOrAfter (unpackNet (a.n 3)) (a.n 1) (max (unpackNet (a.n 4)) s.swapFloor))
    (hrange : time ≤ s.netNs + 86400 * 1000000000) (hidle : s.flag F.gclSwapCtl_ARM (a.n 0) = false) :
    Completes (.gclSet p) 0x0709 p s ((begun 0x0709 p s).gclSet (gclRequest a es time)) .ok (emitBlock [(.wide 80, packNet time)]) := by
  have hcycle : max 1 (a.n 1) = a.n 1 := max_eq_right (by omega)
  rw [← hcycle] at htime
  have hbadEntries : ((gclEntries a p).any gclEntryBad || decide (a.n 1 < es.foldl (fun n e => n + e.1) 0)) = false := by
    rw [decide_eq_false (Nat.not_lt.2 hsum), Bool.or_false, List.any_eq_false]
    exact fun e he => by rw [hgood e he]; decide
  have hchecks := gclSet_checks (s := begun 0x0709 p s) hbad hfront hport hhidden hmin hmax hcmin hcmax hbadEntries hdma hrange hidle
  subst ha hes htime
  change execGclSet p s = _
  unfold execGclSet
  exact completes_of_checks hacc hchecks rfl

theorem holding_inv (h : Inv s) (g : GclHeld) : Inv (s.holding g) := ⟨h.regs, h.slot, h.whorl⟩

/-- What GCL_SET leaves in the admin bank: the list, and its length in ADMIN_LEN. -/
theorem gclSet_admin (h : Inv s) (g : GclHeld) (hlen : g.entries.length < 2048) : AdminHolds g (s.gclSet g)
    ∧ (s.gclSet g).fld F.gclSwapCtl_ADMIN_LEN g.port = g.entries.length := by
  have hH := holding_inv h g
  have hW : Inv ((s.holding g).writeAdmin g) := keeps_inv (M := ⟨[.path], [.gclAdminCycle, .gclAdminDur, .gclAdminGates, .gclAdminMaxwin,
    .gclSwapCtl], false⟩) (keeps_writeAdmin (keeps_self hH) (Change.le_self _))
  have hA : Keeps ⟨[.path], [.gclStat, .gclSwapCtl, .gclSwapTgt], false⟩ ((s.holding g).writeAdmin g) (s.gclSet g) :=
    keeps_armHeld (keeps_self hW) (Change.le_self _)
  obtain ⟨hadmin, -⟩ := writeAdmin_ctl hH g hlen
  refine ⟨(writeAdmin_holds hH g).mono fun r i hr => hA.within.regs r i ?_, ?_⟩
  · simp only [List.mem_cons, List.not_mem_nil, or_false] at hr
    obtain rfl | rfl | rfl | rfl := hr <;> rfl
  · by_cases hfar : ((s.holding g).writeAdmin g).netNs + 2 ^ 30 ≤ g.time
    · rw [State.gclSet, armHeld_of_far hfar, hadmin]
    · obtain ⟨-, -, hctl, -⟩ := armHeld_near hW.regs (Nat.not_le.1 hfar)
      exact hctl.trans hadmin

theorem writeAdmin_time (h : Inv s) (g : GclHeld) : (s.writeAdmin g).time = s.time :=
  (keeps_writeAdmin (M := ⟨[.path], [.gclAdminCycle, .gclAdminDur, .gclAdminGates, .gclAdminMaxwin, .gclSwapCtl], false⟩)
    (keeps_self h) (Change.le_self _)).within.time rfl

/-- A swap 2^30 ns or more ahead is held, and ARM stays. -/
theorem gclSet_far (h : Inv s) {g : GclHeld} (hlen : g.entries.length < 2048) (hfar : s.netNs + 2 ^ 30 ≤ g.time) :
    (s.gclSet g).flag F.gclSwapCtl_ARM g.port = s.flag F.gclSwapCtl_ARM g.port ∧ g ∈ (s.gclSet g).path.gclHeld := by
  have hH := holding_inv h g
  have hfar' : ((s.holding g).writeAdmin g).netNs + 2 ^ 30 ≤ g.time := by
    rw [netNs_of_time (writeAdmin_time hH g)]
    exact hfar
  rw [State.gclSet, armHeld_of_far hfar', writeAdmin_held]
  exact ⟨(writeAdmin_ctl hH g hlen).2, List.mem_append_right _ (List.mem_singleton_self _)⟩

/-- A nearer one is armed for its whorl target. -/
theorem gclSet_near (h : Inv s) {g : GclHeld} (hnear : g.time < s.netNs + 2 ^ 30) :
    (s.gclSet g).flag F.gclSwapCtl_ARM g.port = true ∧ (s.gclSet g).flag F.gclStat_ARMED g.port = true
    ∧ ((s.gclSet g).reg .gclSwapTgt g.port).toNat = s.swapTarget g.time := by
  have hH := holding_inv h g
  have hW := writeAdmin_time hH g
  have hwf : RegsWf ((s.holding g).writeAdmin g) := (keeps_writeAdmin (M := ⟨[.path], [.gclAdminCycle, .gclAdminDur, .gclAdminGates,
    .gclAdminMaxwin, .gclSwapCtl], false⟩) (keeps_self hH) (Change.le_self _)).regs
  have hnear' : g.time < ((s.holding g).writeAdmin g).netNs + 2 ^ 30 := by
    rw [netNs_of_time hW]
    exact hnear
  obtain ⟨harm, harmed, -, htgt⟩ := armHeld_near hwf hnear'
  exact ⟨harm, harmed, htgt.trans (swapTarget_of_time hW _)⟩

/-- An entry in the admin bank reads its duration and its gates. -/
theorem AdminHolds.entry {g : GclHeld} (hs : AdminHolds g s) {k : Nat} {e : Nat × Nat} (hk : g.entries[k]? = some e) (hdur : e.1 < 2 ^ 30)
    (hvec : e.2 < 256) : s.gclDur g.port k true = e.1 ∧ s.gclVec g.port k true = e.2 := by
  obtain ⟨hrdur, hrvec⟩ := Prod.mk.inj (hs.entries k e hk)
  exact ⟨fld_of_word (f := F.gclAdminDur_DUR) rfl (by decide) hdur hrdur, fld_of_word (f := F.gclAdminGates_GATES) rfl (by decide) hvec hrvec⟩

/-! ### GCL_CANCEL (R337) -/

/-- No swap of a port is held any more. -/
def State.unheld (s : State) (port : Nat) : State :=
  { s with path := { s.path with gclHeld := s.path.gclHeld.filter fun (h : GclHeld) => h.port != port } }

/-- GCL_CANCEL on a state: a held swap is removed, and an armed one that is not due disarmed. -/
def State.gclCancel (s : State) (port : Nat) : State :=
  if s.flag F.gclSwapCtl_ARM port && !s.dueAt (s.fld F.gclSwapTgt_TGT port) then (s.unheld port).writeSwapCtl port 0 else s.unheld port

theorem gclCancel_completes (hacc : Accepts 0x070A p s) (ha : readParams 0x070A p.params = a) (hbad : a.bad = false)
    (hport : s.hasPort (a.n 0) = true) (hpending : (s.path.gclHeld.any fun (g : GclHeld) => g.port == a.n 0) = true
      ∨ (s.flag F.gclSwapCtl_ARM (a.n 0) = true ∧ s.dueAt (s.fld F.gclSwapTgt_TGT (a.n 0)) = false)) :
    Completes (.gclCancel p) 0x070A p s ((begun 0x070A p s).gclCancel (a.n 0)) .ok (emitBlock []) := by
  subst ha
  have hgone : (!(s.path.gclHeld.any fun (h : GclHeld) => decide (h.port = (readParams 0x070A p.params).n 0))
      && !(s.flag F.gclSwapCtl_ARM ((readParams 0x070A p.params).n 0)
        && !s.dueAt (s.fld F.gclSwapTgt_TGT ((readParams 0x070A p.params).n 0)))) = false := by
    rcases hpending with hheld | ⟨harmed, hdue⟩
    · have hheld' : (s.path.gclHeld.any fun (h : GclHeld) => decide (h.port = (readParams 0x070A p.params).n 0)) = true := hheld
      rw [hheld']
      rfl
    · rw [harmed, hdue]
      exact Bool.and_false _
  have hchecks : firstFail [ ((readParams 0x070A p.params).bad, Status.paramInvalid),
      (!s.hasPort ((readParams 0x070A p.params).n 0), .resourceAbsent),
      (!(s.path.gclHeld.any fun (h : GclHeld) => decide (h.port = (readParams 0x070A p.params).n 0))
        && !(s.flag F.gclSwapCtl_ARM ((readParams 0x070A p.params).n 0)
          && !s.dueAt (s.fld F.gclSwapTgt_TGT ((readParams 0x070A p.params).n 0))), .schedGone) ] = none := by
    rw [hbad, hport, hgone]
    rfl
  change execGclCancel p s = _
  unfold execGclCancel
  exact completes_of_checks hacc hchecks rfl

/-- Cancelling leaves no held swap of the port, ADMIN_LEN, and every register but those of the swap; a swap that is not due is not armed. -/
theorem gclCancel_fields (h : Inv s) (port : Nat) :
    ((s.gclCancel port).path.gclHeld.any fun (g : GclHeld) => g.port == port) = false
    ∧ (s.dueAt (s.fld F.gclSwapTgt_TGT port) = false → (s.gclCancel port).flag F.gclSwapCtl_ARM port = false)
    ∧ (s.gclCancel port).fld F.gclSwapCtl_ADMIN_LEN port = s.fld F.gclSwapCtl_ADMIN_LEN port
    ∧ ∀ r i, r ≠ .gclSwapCtl → r ≠ .gclStat → (s.gclCancel port).reg r i = s.reg r i := by
  have hnone : ((s.unheld port).path.gclHeld.any fun (g : GclHeld) => g.port == port) = false := by simp [State.unheld]
  have hU : Inv (s.unheld port) := ⟨h.regs, h.slot, h.whorl⟩
  unfold State.gclCancel
  split
  · next hboth =>
    obtain ⟨harmed, hnot⟩ := Bool.and_eq_true_iff.1 hboth
    have hdue : s.dueAt (s.fld F.gclSwapTgt_TGT port) = false := by simpa using hnot
    rw [writeSwapCtl_of_clear (s := s.unheld port) harmed (by decide) hdue]
    obtain ⟨harm, -, hlen⟩ := disarm_fields (p := port) hU.regs
    have hK : Keeps ⟨[], [.gclSwapCtl, .gclStat], false⟩ (s.unheld port)
        (((s.unheld port).setFld F.gclSwapCtl_ARM port 0).setFld F.gclStat_ARMED port 0) :=
      keeps_setFld (keeps_setFld (keeps_self hU) (by decide)) (by decide)
    refine ⟨?_, fun _ => harm, hlen, fun r i h1 h2 => hK.within.regs r i (by simp [Change.may, h1, h2])⟩
    rw [setFld_path, setFld_path]
    exact hnone
  · next hboth =>
    refine ⟨hnone, fun hdue => ?_, rfl, fun _ _ _ _ => rfl⟩
    refine Bool.eq_false_iff.2 fun harmed => hboth ?_
    have harmed' : s.flag F.gclSwapCtl_ARM port = true := harmed
    rw [harmed', hdue]
    rfl

end

/-- Settles O49: each packet passes its checks; what it writes is read back from the registers, and what it answers stands at the place
of its word. -/
theorem schedulerPacketsAnswer : Obligations.SchedulerPacketsAnswer := by
  refine ⟨?portSet, ?queueSet, ?schGet, ?gclSet, ?gclCancel, ?gclGet⟩
  case portSet =>
    intro p a s h hacc ha hbad hport hhidden hquant hrate hburst
    have hmask : a.n 1 < 2 ^ 8 := by subst ha; exact readParams_num_lt hbad rfl
    exact ⟨_, schPortSet_completes hacc ha hbad hport hhidden hquant hrate hburst,
      schPort_fields (s := begun 0x0706 p s) h.regs hmask (fun c hc => (hquant c hc).2) hrate hburst⟩
  case queueSet =>
    intro p a s h hacc ha hbad hport hhidden hrate hburst
    have hqu : a.n 0 < 2 ^ 14 := by subst ha; exact readParams_num_lt hbad rfl
    exact ⟨_, schQueueSet_completes hacc ha hbad hport hhidden hrate hburst,
      writeShaper_queue_fields (s := begun 0x0707 p s) h.regs hqu hrate hburst⟩
  case schGet =>
    intro p a s hacc ha hbad hport
    exact ⟨_, schGet_completes hacc ha hbad hport, schGet_answer s (a.n 0) (schGet_bytes s (a.n 0))⟩
  case gclSet =>
    intro p a es time s h hacc ha hbad hfront hport hhidden hmin hmax hcmin hcmax hes hentries hsum hdma htime hrange hidle
    have hgood : ∀ e, e ∈ gclEntries a p → gclEntryBad e = false := fun e he => by
      obtain ⟨hlow, hhigh, -, hzero⟩ := hentries e he
      rw [gclEntryBad, decide_eq_false (Nat.not_lt.2 hlow), decide_eq_false (Nat.not_le.2 hhigh), hzero]
      rfl
    have hcount : es.length = a.n 2 := by simp [hes, gclEntries]
    have hlen : (gclRequest a es time).entries.length < 2048 := by
      change es.length < 2048
      omega
    have hB := begun_inv h 0x0709 p
    have hnet : (begun 0x0709 p s).netNs = s.netNs := netNs_of_time rfl
    obtain ⟨hadminHolds, hadmin⟩ := gclSet_admin hB (gclRequest a es time) hlen
    refine ⟨_, gclSet_completes hacc ha hbad hfront hport hhidden hmin hmax hcmin hcmax hes hgood hsum hdma htime hrange hidle,
      fld_of_word rfl (by decide) (by change a.n 1 < 2 ^ 30; omega) hadminHolds.cycle, hadmin.trans hcount, fun k e hk => ?_, fun c hc => ?_,
      fun hfar => ?_, fun hnear => ?_⟩
    · obtain ⟨x, hx, rfl⟩ := List.mem_map.1 (hes ▸ List.mem_of_getElem? hk)
      obtain ⟨-, hdur, hvec, -⟩ := hentries x hx
      exact hadminHolds.entry hk hdur hvec
    · exact hadminHolds.maxwin c _ (by simp [gclRequest, hc])
    · obtain ⟨harm, hheld⟩ := gclSet_far hB hlen (by rw [hnet]; exact hfar)
      exact ⟨harm.trans hidle, _, hheld, rfl, rfl, rfl, rfl⟩
    · obtain ⟨harm, harmed, htgt⟩ := gclSet_near (g := gclRequest a es time) hB (by rw [hnet]; exact hnear)
      refine ⟨harm, harmed, htgt.trans ?_⟩
      rw [swapTarget_of_time (s := s) (t := begun 0x0709 p s) rfl, State.swapTarget]
      rfl
  case gclCancel =>
    intro p a s h hacc ha hbad hport hpending
    exact ⟨_, gclCancel_completes hacc ha hbad hport hpending, gclCancel_fields (begun_inv h 0x070A p) (a.n 0)⟩
  case gclGet =>
    intro p a s hacc ha hbad hport
    obtain ⟨hcycle, hwin, hstat, hentry, hcount, hpairs⟩ := gclGet_answer s (a.n 0) (a.f 1) rfl
    have hfld : ∀ {w : Nat} (f : Fld) i, f.width ≤ w → s.fld f i % 2 ^ w = s.fld f i := fun f i hw =>
      Nat.mod_eq_of_lt (lt_of_lt_of_le (Nat.mod_lt _ (Nat.two_pow_pos _)) (Nat.pow_le_pow_right (by decide) hw))
    refine ⟨_, gclGet_completes hacc ha hbad hport, hcycle.trans ?_, fun c hc => (hwin c hc).trans ?_, hstat,
      hentry.trans (hfld _ _ (by decide)), hcount.trans (Nat.mod_eq_of_lt (by omega)), fun e he => ?_⟩
    · unfold State.gclCycle
      split <;> exact hfld _ _ (by decide)
    · unfold State.gclWin
      split <;> exact hfld _ _ (by decide)
    · obtain ⟨hdur, hvec⟩ := hpairs e he
      refine ⟨hdur.trans ?_, hvec.trans ?_⟩
      · unfold State.gclDur
        split <;> exact hfld _ _ (by decide)
      · unfold State.gclVec
        split <;> exact hfld _ _ (by decide)

end Sys2Proof.Machine

/-!
Transmission (O22): a port chooses and starts a frame, the read path takes its cells, its end sends its bytes, and its cells become free.
-/
namespace Sys2Proof.Machine
open Sys2Proof

/-! ### Work on queues and cells leaves the lines alone -/

/-- The registers, what was sent and the frames on the lines are the same. -/
structure OffLine (s t : State) : Prop where
  regs : t.regs = s.regs
  out : t.out = s.out
  tx : t.path.tx = s.path.tx

theorem OffLine.refl (s : State) : OffLine s s := ⟨rfl, rfl, rfl⟩

theorem OffLine.trans {s t u : State} (h : OffLine s t) (k : OffLine t u) : OffLine s u :=
  ⟨k.regs.trans h.regs, k.out.trans h.out, k.tx.trans h.tx⟩

theorem OffLine.reg {s t : State} (h : OffLine s t) (r : Reg) (i : Nat) : t.reg r i = s.reg r i := reg_of_regs h.regs r i

theorem offLine_inPath {s : State} {f : Path → Path} (h : (f s.path).tx = s.path.tx) : OffLine s (s.inPath f) := ⟨rfl, rfl, h⟩

theorem offLine_count (s : State) (r : Reg) (i n : Nat) : OffLine s (s.count r i n) := ⟨rfl, rfl, rfl⟩

theorem offLine_drop (s : State) (p code : Nat) : OffLine s (s.drop p code) := by
  unfold State.drop
  split
  · exact .refl s
  · exact ⟨rfl, rfl, rfl⟩

theorem offLine_ite {c : Prop} [Decidable c] {s a b : State} (ha : OffLine s a) (hb : OffLine s b) : OffLine s (if c then a else b) := by
  split
  · exact ha
  · exact hb

theorem offLine_foldl {α : Type} {f : State → α → State} (hf : ∀ u a, OffLine u (f u a)) (l : List α) (s : State) : OffLine s (l.foldl f s) := by
  induction l generalizing s with
  | nil => exact .refl s
  | cons a l ih => exact (hf s a).trans (ih _)

section
variable (s : State)

theorem offLine_onPool (sl : Nat) (f : Pool → Pool) : OffLine s (s.onPool sl f) := offLine_inPath rfl

theorem offLine_unreserve (sl i n : Nat) : OffLine s (s.unreserve sl i n) := offLine_onPool s sl _

theorem offLine_subCq (qu n : Nat) : OffLine s (s.subCq qu n) := offLine_inPath rfl

theorem offLine_setWbuf (q n : Nat) : OffLine s (s.setWbuf q n) := offLine_inPath rfl

theorem offLine_onFrame (id : Nat) (g : Frame → Frame) : OffLine s (s.onFrame id g) := offLine_inPath rfl

theorem offLine_settle : OffLine s s.settle := offLine_inPath rfl

theorem offLine_onStack (h : Nat) (f : Stack → Stack) : OffLine s (s.onStack h f) := offLine_inPath rfl

theorem offLine_setHank (qu : Nat) (h : Hank) : OffLine s (s.setHank qu h) := offLine_inPath rfl

theorem offLine_freePage (page : Nat) : OffLine s (s.freePage page) := by
  unfold State.freePage
  exact offLine_onStack s _ _

theorem offLine_toWalker (sl : Nat) (cells : List Nat) (qu : Nat) : OffLine s (s.toWalker sl cells qu) := by
  unfold State.toWalker
  refine offLine_ite (.refl s) (((offLine_foldl (fun u c => ?_) cells s).trans (offLine_onPool _ _ _)).trans (offLine_inPath rfl))
  exact offLine_ite (.refl u) (offLine_onPool _ _ _)

theorem offLine_surplus (sl b vq : Nat) (cells : List Nat) : OffLine s (s.surplus sl b vq cells) :=
  (offLine_foldl (fun u _ => offLine_onPool u _ _) cells s).trans (offLine_toWalker _ _ _ _)

theorem offLine_giveBack (c : Copy) : OffLine s (s.giveBack c) :=
  (((offLine_unreserve s _ _ _).trans (offLine_subCq _ _ _)).trans (offLine_toWalker _ _ _ _)).trans (offLine_surplus _ _ _ _ _)

theorem offLine_dropCopy (c : Copy) (code : Nat) : OffLine s (s.dropCopy c code) :=
  ((offLine_inPath rfl).trans (offLine_giveBack _ c)).trans (offLine_drop _ _ _)

/-! ### Hanks (R260 to R262) -/

theorem offLine_openPages (q fuel : Nat) (h : Hank) : OffLine s (State.openPages q fuel h s).2 := by
  induction fuel generalizing h s with
  | zero => exact .refl s
  | succ fuel ih =>
    simp only [State.openPages]
    split
    · split
      · exact ih s _
      · exact .refl s
    · split
      · exact .refl s
      · split
        · exact .refl s
        · split
          · exact .refl s
          · exact (offLine_onStack s _ _).trans (ih _ _)

theorem offLine_putHank (q qu : Nat) (h : Hank) : OffLine s (s.putHank q qu h) := (offLine_openPages s q 40 h).trans (offLine_setHank _ qu _)

theorem offLine_rbDrop (sl qu pool : Nat) (r : HankRec) (code : Nat) : OffLine s (s.rbDrop sl qu pool r code) :=
  (((offLine_unreserve s _ _ _).trans (offLine_subCq _ _ _)).trans (offLine_toWalker _ _ _ _)).trans (offLine_drop _ _ _)

theorem offLine_hankLose (qu fid code : Nat) : OffLine s (s.hankLose qu fid code) := by
  unfold State.hankLose
  split
  · exact .refl s
  · split
    · exact .refl s
    · exact ((offLine_rbDrop s _ _ _ _ _).trans (offLine_setWbuf _ _ _)).trans (offLine_putHank _ _ _ _)

theorem offLine_dropHank (qu code : Nat) : OffLine s (s.dropHank qu code) := by
  unfold State.dropHank
  split
  · exact .refl s
  · exact (((offLine_foldl (fun u _ => offLine_rbDrop u _ _ _ _ _) _ s).trans (offLine_foldl (fun u _ => offLine_freePage u _) _ _)).trans
      (offLine_setWbuf _ _ _)).trans (offLine_inPath rfl)

theorem offLine_spillAdmit {ing sq : Nat} {c : Copy} {bytes : List Byte} {t : State} (h : s.spillAdmit ing sq c bytes = some t) : OffLine s t := by
  unfold State.spillAdmit at h
  dsimp only at h
  split at h
  · exact absurd h (by simp)
  · cases h
    exact (offLine_putHank s _ _ _).trans (offLine_count _ _ _ _)

/-! ### Lost copies (R209, R304) -/

theorem offLine_undoCommit (c : Commit) : OffLine s (s.undoCommit c) := by
  unfold State.undoCommit
  split
  · exact .refl s
  · dsimp only
    split
    · exact offLine_subCq _ _ _
    · exact offLine_hankLose _ _ _ _
    · exact ((offLine_unreserve s _ _ _).trans (offLine_surplus _ _ _ _ _)).trans (offLine_subCq _ _ _)
    · exact .refl s

theorem offLine_purge (fid port : Nat) : OffLine s (s.purge fid port) := by
  unfold State.purge
  exact (offLine_foldl (fun u c => offLine_undoCommit u c) _ s).trans (offLine_inPath rfl)

theorem offLine_loseCopy (fid port code : Nat) : OffLine s (s.loseCopy fid port code) := by
  unfold State.loseCopy
  dsimp only
  refine (offLine_purge s fid port).trans ?_
  split
  · exact offLine_dropCopy _ _ _
  · split
    · exact offLine_hankLose _ _ _ _
    · exact .refl _

theorem offLine_forgetCopy (c : Copy) : OffLine s (s.forgetCopy c) := by
  unfold State.forgetCopy
  split
  · exact (offLine_purge s _ _).trans (offLine_dropCopy _ _ _)
  · exact .refl s

end

/-! ### The lines: what a frame put there reads back as -/

theorem lineTx_of_tx {s t : State} (h : t.path.tx = s.path.tx) (p : Nat) : t.lineTx p = s.lineTx p := by rw [State.lineTx, State.lineTx, h]

theorem nextTx_of_tx {s t : State} (h : t.path.tx = s.path.tx) (p : Nat) : t.nextTx p = s.nextTx p := by rw [State.nextTx, State.nextTx, h]

/-- The frame on the line, and the one chosen, are those put there. -/
theorem lineTx_setTx (s : State) (p : Nat) (x : Tx) : (s.setTx (2 * p) (some x)).lineTx p = some x := OTable.get?_insert_self _ _ _

theorem nextTx_setTx (s : State) (p : Nat) (x : Tx) : (s.setTx (2 * p + 1) (some x)).nextTx p = some x := OTable.get?_insert_self _ _ _

section
variable (s : State)

theorem setSched_tx (p : Nat) (d : Sched) : (s.setSched p d).path.tx = s.path.tx := rfl

theorem setLine_tx (p : Nat) (l : PortLine) : (s.setLine p l).path.tx = s.path.tx := rfl

theorem setFld_tx (f : Fld) (i v : Nat) : (s.setFld f i v).path.tx = s.path.tx := rfl

/-- Waking a line changes no frame on it. -/
theorem wakeLine_tx (p : Nat) : (s.wakeLine p).path.tx = s.path.tx := by
  unfold State.wakeLine
  dsimp only
  split
  · rfl
  · split
    · exact setLine_tx _ _ _
    · exact setLine_tx _ _ _
    · split
      · rw [setFld_tx, setFld_tx, setLine_tx]
      · exact setLine_tx _ _ _
    · exact setLine_tx _ _ _

end

/-! ### A due control frame is chosen (R313 step 1) -/

section
variable {s : State} {p edge sym : Nat}

theorem startDecision_eq (hport : s.hasPort p = true) (hran : s.ran 76 p = false) (hmay : s.mayDecide p = true) :
    exec (.startDecision p edge sym) s = match (s.flow p).frames with
      | bs :: rest => .next ((s.markRan 76 p).chooseCtl p bs rest)
      | [] => if !s.portUp p || s.flag F.macMode_STANDBY p then .next (s.markRan 76 p)
        else .next ((s.markRan 76 p).decide_ p (s.egressStamp p edge sym)).settle := by
  change execStartDecision p edge sym s = _
  unfold execStartDecision
  rw [if_neg (by simp [hport, hran, hmay])]
  rfl

/-- The due control frame at the line's next start. -/
theorem chooseCtl_nextTx (s : State) (p : Nat) (bs : List Byte) (rest : List (List Byte)) :
    ∃ x, (s.chooseCtl p bs rest).nextTx p = some x ∧ x.ctl = bs ∧ x.copy = none ∧ x.startAt = s.startAt p := by
  refine ⟨{ ctl := bs, startAt := s.startAt p, endAt := s.startAt p + s.occSlots p 64, len := 64 }, ?_, rfl, rfl, rfl⟩
  unfold State.chooseCtl
  dsimp only
  rw [nextTx_of_tx (wakeLine_tx _ _), nextTx_of_tx (setSched_tx _ _ _)]
  exact nextTx_setTx _ _ _

theorem startDecision_of_ctl (hport : s.hasPort p = true) (hran : s.ran 76 p = false) (hmay : s.mayDecide p = true) {bs : List Byte}
    {rest : List (List Byte)} (hframes : (s.flow p).frames = bs :: rest) :
    ∃ t x, exec (.startDecision p edge sym) s = .next t ∧ t.nextTx p = some x ∧ x.ctl = bs ∧ x.copy = none ∧ x.startAt = s.startAt p := by
  obtain ⟨x, hnext, hctl, hcopy, hstart⟩ := chooseCtl_nextTx (s.markRan 76 p) p bs rest
  refine ⟨_, x, ?_, hnext, hctl, hcopy, hstart⟩
  rw [startDecision_eq hport hran hmay, hframes]

end

/-! ### Heads are looked at (R314) -/

/-- Raising a bit of a register whose contents are 0 at reset leaves every other register, whatever the table of registers holds. -/
theorem reg_raise_of_reset (s : State) {f : Fld} {i : Nat} (hf : 0 < f.width ∧ f.lo + f.width ≤ 32) (hreset : f.reg.resetAt i = 0) {r : Reg}
    (hr : r ≠ f.reg) (j : Nat) : (s.raise f i).reg r j = s.reg r j := by
  have hbit : f.put (s.reg f.reg i) 1 ≠ f.reg.resetAt i := fun heq => by
    have hflag : ((f.put (s.reg f.reg i) 1).toNat >>> f.lo) % 2 ^ f.width = 1 % 2 ^ f.width := by
      rw [Fld.put, word, BitVec.toNat_ofNat, Nat.mod_eq_of_lt (setBits_lt (BitVec.isLt _) hf.1 hf.2)]
      exact setBits_field _ _ _ _ hf.1
    rw [heq, hreset, Nat.mod_eq_of_lt (Nat.one_lt_two_pow (Nat.pos_iff_ne_zero.1 hf.1))] at hflag
    simp at hflag
  have hkey : regKey r j ≠ regKey f.reg i := fun c => hr (regKey_inj c).1
  have hregs : (s.raise f i).regs = Table.insert s.regs (regKey f.reg i) (f.put (s.reg f.reg i) 1) := if_neg hbit
  rw [State.reg, State.reg, hregs, Table.get_insert_ne _ _ hkey]

/-- Looking at a head changes SCH_STAT only. -/
theorem lookHead_reg (s : State) (p i startAt estamp : Nat) {r : Reg} (hr : r ≠ .schStat) (j : Nat) :
    (s.lookHead p i startAt estamp).1.reg r j = s.reg r j := by
  have hlose : ∀ (fid code : Nat) (f : Fld), f = F.schStat_RES_DROP ∨ f = F.schStat_GATE_DROP → ∀ u : State, u.regs = s.regs →
      ((u.loseCopy fid p code).raise f p).reg r j = s.reg r j := by
    rintro fid code f (rfl | rfl) u hu
    · exact (reg_raise_of_reset _ (by decide) rfl hr j).trans (((offLine_loseCopy u fid p code).reg r j).trans (reg_of_regs hu r j))
    · exact (reg_raise_of_reset _ (by decide) rfl hr j).trans (((offLine_loseCopy u fid p code).reg r j).trans (reg_of_regs hu r j))
  unfold State.lookHead
  dsimp only
  split
  · rfl
  · split
    · rfl
    · split
      · exact hlose _ _ _ (.inl rfl) s rfl
      · split
        · rfl
        · split
          · split
            · exact hlose _ _ _ (.inr rfl) s rfl
            · rfl
          · split
            · exact hlose _ _ _ (.inr rfl) _ rfl
            · rfl

/-- One step of the look at a port's heads. -/
def State.lookStep (p startAt estamp : Nat) (acc : State × List (Nat × Look)) (i : Nat) : State × List (Nat × Look) :=
  ((acc.1.lookHead p i startAt estamp).1, match (acc.1.lookHead p i startAt estamp).2 with
    | some l => acc.2 ++ [(i, l)]
    | none => acc.2)

theorem lookHeads_eq (s : State) (p startAt estamp : Nat) :
    s.lookHeads p startAt estamp = (List.range 16).foldl (State.lookStep p startAt estamp) (s, []) := by
  unfold State.lookHeads
  congr 1
  funext acc i
  unfold State.lookStep
  rcases acc.1.lookHead p i startAt estamp with ⟨u, _ | l⟩ <;> rfl

theorem lookHeads_reg (s : State) (p startAt estamp : Nat) {r : Reg} (hr : r ≠ .schStat) (j : Nat) :
    (s.lookHeads p startAt estamp).1.reg r j = s.reg r j := by
  have hfold : ∀ (l : List Nat) (acc : State × List (Nat × Look)),
      (l.foldl (State.lookStep p startAt estamp) acc).1.reg r j = acc.1.reg r j := by
    intro l
    induction l with
    | nil => exact fun _ => rfl
    | cons i l ih => exact fun acc => (ih _).trans (lookHead_reg acc.1 p i startAt estamp hr j)
  rw [lookHeads_eq]
  exact hfold _ _

/-! ### The head that the scheduler picks is chosen (R313, R316 to R319) -/

section
variable {s u : State} {p i startAt estamp : Nat} {d : Sched} {ls : List (Nat × Look)} {l : Look}

/-- What a decision waits for is counted. -/
def State.countWaits (s : State) (p : Nat) (gate shape : Bool) : State :=
  let s := if gate then s.count .schGateWaitCnt p 1 else s
  if shape then s.count .schShapeWaitCnt p 1 else s

theorem countWaits_cnt (s : State) (p : Nat) (gate shape : Bool) : s.countWaits p gate shape = { s with cnt := (s.countWaits p gate shape).cnt } := by
  cases gate <;> cases shape <;> rfl

/-- What the counters hold does not matter to the class that is picked. -/
theorem pickClass_cnt (s : State) (n : Counters) (p : Nat) (d : Sched) (ls : List (Nat × Look)) :
    ({ s with cnt := n } : State).pickClass p d ls = s.pickClass p d ls := rfl

/-- The scheduler serves the class that it picks among the heads it looked at. -/
def State.serve (s : State) (p startAt estamp : Nat) (ls : List (Nat × Look)) : State :=
  let k := s.pickClass p (s.sched p) ls
  match k.2 with
  | none => s.setSched p k.1
  | some c =>
    match classHead k.1 ls c with
    | none => s.setSched p k.1
    | some (i, l) => s.choose p i startAt estamp k.1 l

/-- A port whose shaper is not in debt serves a class. -/
theorem decide_serves (hlook : s.lookHeads p (s.startAt p) estamp = (u, ls)) (hdebt : u.inDebt (portShaper p) = false) :
    ∃ gate shape, s.decide_ p estamp = (u.countWaits p gate shape).serve p (s.startAt p) estamp ls := by
  refine ⟨ls.any fun e => e.2.closed && !e.2.paused && !e.2.debt && !e.2.arriving,
    ls.any fun e => !e.2.closed && !e.2.paused && !e.2.arriving && (e.2.debt || u.inDebt (portShaper p)), ?_⟩
  unfold State.decide_
  simp only [hlook, hdebt, Bool.false_eq_true, if_false]
  rfl

/-- The head of the class that is picked is chosen. -/
theorem serve_of_pick {c : Nat} (hpick : u.pickClass p (u.sched p) ls = (d, some c)) (hhead : classHead d ls c = some (i, l)) :
    u.serve p startAt estamp ls = u.choose p i startAt estamp d l := by
  simp only [State.serve, hpick, hhead]

/-- The chosen head's transmission: its copy, its start, its length and its charge. -/
theorem choose_nextTx (hp : p ≠ 512) (hfit : l.known = true → l.len ≤ u.mfs p) : ∃ x, (u.choose p i startAt estamp d l).nextTx p = some x
    ∧ x.copy = some l.copy ∧ x.startAt = startAt ∧ x.len = l.len ∧ x.charged = u.chargeOf p l.len ∧ x.estamp = estamp := by
  have hlong : ¬((l.known && decide (u.mfs p < l.len)) = true) := fun hc => by
    obtain ⟨hknown, hlt⟩ := Bool.and_eq_true_iff.1 hc
    exact Nat.not_lt.2 (hfit hknown) (of_decide_eq_true hlt)
  unfold State.choose
  dsimp only
  rw [if_neg hlong, if_neg hp]
  exact ⟨_, (nextTx_of_tx ((wakeLine_tx _ _).trans (setSched_tx _ _ _)) p).trans (nextTx_setTx _ _ _), rfl, rfl, rfl, rfl, rfl⟩

theorem mfs_of_reg {t : State} (h : t.reg .macPortCfg p = s.reg .macPortCfg p) : t.mfs p = s.mfs p := by
  rw [State.mfs, State.mfs, fld_of_reg (f := F.macPortCfg_MFS) h]

theorem chargeOf_of_reg {t : State} (h : t.reg .schPortCfg p = s.reg .schPortCfg p) (len : Nat) : t.chargeOf p len = s.chargeOf p len := by
  rw [State.chargeOf, State.chargeOf, fld_of_reg (f := F.schPortCfg_LEN_ADJ) h]

theorem startDecision_of_pick {edge sym c : Nat} (hport : s.hasPort p = true) (hran : s.ran 76 p = false) (hmay : s.mayDecide p = true)
    (hframes : (s.flow p).frames = []) (hup : s.portUp p = true) (hawake : s.flag F.macMode_STANDBY p = false) (hp : p ≠ 512)
    (hlook : (s.markRan 76 p).lookHeads p (s.startAt p) (s.egressStamp p edge sym) = (u, ls)) (hdebt : u.inDebt (portShaper p) = false)
    (hpick : u.pickClass p (u.sched p) ls = (d, some c)) (hhead : classHead d ls c = some (i, l)) (hfit : l.known = true → l.len ≤ s.mfs p) :
    ∃ t x, exec (.startDecision p edge sym) s = .next t ∧ t.nextTx p = some x ∧ x.copy = some l.copy ∧ x.startAt = s.startAt p
      ∧ x.len = l.len ∧ x.charged = s.chargeOf p l.len ∧ x.estamp = s.egressStamp p edge sym := by
  have hreg : ∀ r j, r ≠ .schStat → u.reg r j = s.reg r j := fun r j hr => by
    have hheads := lookHeads_reg (s.markRan 76 p) p (s.startAt p) (s.egressStamp p edge sym) hr j
    rw [hlook] at hheads
    exact hheads
  obtain ⟨gate, shape, hdecide⟩ := decide_serves (s := s.markRan 76 p) hlook hdebt
  obtain ⟨n, hn⟩ : ∃ n, u.countWaits p gate shape = { u with cnt := n } := ⟨_, countWaits_cnt u p gate shape⟩
  have hserve := serve_of_pick (u := { u with cnt := n }) (startAt := s.startAt p) (estamp := s.egressStamp p edge sym)
    ((pickClass_cnt u n p (u.sched p) ls).trans hpick) hhead
  have hmfs : ({ u with cnt := n } : State).mfs p = s.mfs p := mfs_of_reg (hreg _ _ (by decide))
  obtain ⟨x, hnext, hcopy, hstart, hlen, hcharge, hstamp⟩ := choose_nextTx (u := { u with cnt := n }) (i := i) (startAt := s.startAt p)
    (estamp := s.egressStamp p edge sym) (d := d) hp (fun hk => hmfs ▸ hfit hk)
  refine ⟨_, x, ?_, (nextTx_of_tx (offLine_settle _).tx p).trans hnext, hcopy, hstart, hlen,
    hcharge.trans (chargeOf_of_reg (hreg _ _ (by decide)) _), hstamp⟩
  rw [startDecision_eq hport hran hmay, hframes, hup, hawake]
  exact congrArg (fun t : State => Host.Outcome.next t.settle) (hdecide.trans (hn ▸ hserve))

end

/-! ### What a start does beside the line (R441, R457, R460) -/

section
variable (s : State)

theorem sentPfc_path (p : Nat) (bs : List Byte) : (s.sentPfc p bs).path = s.path := by
  unfold State.sentPfc
  dsimp only
  split
  · rw [raise_path, count_path, setFld_path]
  · rw [count_path, setFld_path]

theorem countActs_path (p : Nat) (t : Tx) (f : Frame) : (s.countActs p t f).path = s.path := by
  unfold State.countActs
  extract_lets sat ins acts
  have hins : ins.path = s.path := by
    unfold ins
    split
    · exact count_path _ _ _ _
    · rfl
  have hacts : acts.path = s.path := by
    unfold acts
    split
    · exact count_path _ _ _ _
    · split
      · rw [count_path, raise_path, hins]
      · exact hins
    · rw [count_path, raise_path]
    · rfl
  split
  · rw [count_path, raise_path, hacts]
  · exact hacts

theorem stageDrop_tx (ing : Nat) (dests : List (Nat × Bool)) (lossless : Bool) : (s.stageDrop ing dests lossless).path.tx = s.path.tx := by
  unfold State.stageDrop
  dsimp only
  rw [raise_path]
  exact foldl_part (·.path.tx) (fun u d => by rw [count_path, drop_path]) _ s

theorem xoffCheck_tx (port cls : Nat) : (s.xoffCheck port cls).path.tx = s.path.tx := by
  have hset : ∀ on, (s.setXoff port cls on).path.tx = s.path.tx := fun on => by
    unfold State.setXoff
    dsimp only
    split <;> rfl
  unfold State.xoffCheck
  dsimp only
  split
  · exact hset true
  · split
    · exact hset false
    · rfl

theorem stageOne_tx (f : Frame) (ing eg : Nat) (dests : List (Nat × Bool)) : (s.stageOne f ing eg dests).path.tx = s.path.tx := by
  unfold State.stageOne
  dsimp only
  split
  · split
    · exact stageDrop_tx s _ _ _
    · next u hu =>
      rw [raise_path, count_path]
      exact (offLine_spillAdmit s hu).tx
  · split
    · exact stageDrop_tx s _ _ _
    · split
      · exact xoffCheck_tx _ _ _
      · rfl

/-- A frame enters the fabric beside the lines. -/
theorem enterFabric_tx (id ing : Nat) : (s.enterFabric id ing).path.tx = s.path.tx := by
  unfold State.enterFabric
  split
  · rfl
  · refine (foldl_part (·.path.tx) (fun u eg => ?_) _ _).trans (offLine_onFrame s id _).tx
    dsimp only
    split
    · rfl
    · split
      · exact foldl_part (·.path.tx) (fun v d => by rw [drop_path]) _ u
      · exact stageOne_tx u _ _ _ _

theorem mirCharge_tx (q m len : Nat) : (s.mirCharge q m len).1.path.tx = s.path.tx := by
  unfold State.mirCharge
  dsimp only
  split <;> rfl

theorem mirCopy_tx (f : Frame) (m port : Nat) (bytes : List Byte) (len reason : Nat) (egress : Bool) (stamp : Nat) :
    (s.mirCopy f m port bytes len reason egress stamp).1.path.tx = s.path.tx := by
  unfold State.mirCopy
  extract_lets q remote c total r
  have hr : r.1.path.tx = s.path.tx := mirCharge_tx s q m total
  split
  · rw [raise_path, drop_path, count_path, hr]
  · next s1 b s2 s3 s4 copied content id hl md g _ =>
    have h2 : s2.path.tx = s.path.tx := by unfold s2; split <;> exact hr
    have h4 : s4.path.tx = s.path.tx := by unfold s4; split <;> exact h2
    exact h4

/-- The egress mirror copies of a start leave the line. -/
theorem mirrorOut_tx (p : Nat) (t : Tx) (f : Frame) : (s.mirrorOut p t f).path.tx = s.path.tx := by
  unfold State.mirrorOut
  split
  · rfl
  · refine foldl_part (·.path.tx) (fun u m => ?_) _ s
    split
    · have hcopy := mirCopy_tx u f m p (padded (s.txBody t f f.body).1) ((padded (s.txBody t f f.body).1).length + 4) 0 true t.estamp
      split
      · next v id heq =>
        rw [heq] at hcopy
        exact (enterFabric_tx v _ _).trans hcopy
      · next v heq =>
        rw [heq] at hcopy
        exact hcopy
    · rfl

/-! ### A chosen frame goes back (R358) -/

/-- Only the data path differs. -/
def PathOnly (s t : State) : Prop := ∃ x, t = { s with path := x }

theorem PathOnly.refl : PathOnly s s := ⟨s.path, rfl⟩

theorem PathOnly.trans {s t u : State} (h : PathOnly s t) (k : PathOnly t u) : PathOnly s u := by
  obtain ⟨x, rfl⟩ := h
  obtain ⟨y, rfl⟩ := k
  exact ⟨y, rfl⟩

theorem pathOnly_inPath (f : Path → Path) : PathOnly s (s.inPath f) := ⟨_, rfl⟩

theorem pathOnly_setTx (k : Nat) (x : Option Tx) : PathOnly s (s.setTx k x) := pathOnly_inPath s _

theorem pathOnly_setSched (p : Nat) (d : Sched) : PathOnly s (s.setSched p d) := pathOnly_inPath s _

theorem pathOnly_onCopy (fid port : Nat) (g : Copy → Copy) : PathOnly s (s.onCopy fid port g) := pathOnly_inPath s _

theorem pathOnly_ite {c : Prop} [Decidable c] {s a b : State} (ha : PathOnly s a) (hb : PathOnly s b) : PathOnly s (if c then a else b) := by
  split
  · exact ha
  · exact hb

theorem pathOnly_chargeShapers (p qu : Nat) (bytes : Int) : PathOnly s (s.chargeShapers p qu bytes) := by
  have hone : ∀ (u : State) key, PathOnly u (if u.rateNow key = 0 then u else u.setCredit key (u.credit key - bytes * 65536)) := fun u key =>
    pathOnly_ite (.refl u) ⟨_, rfl⟩
  exact (hone s qu).trans (hone _ (portShaper p))

/-- A frame that goes back changes the data path only. -/
theorem pathOnly_withdraw (p : Nat) : PathOnly s (s.withdraw p) := by
  unfold State.withdraw
  split
  · exact .refl s
  · dsimp only
    split
    · exact (pathOnly_setTx s _ none).trans (pathOnly_setSched _ _ _)
    · exact ((pathOnly_setTx s _ none).trans (pathOnly_setSched _ _ _)).trans ((pathOnly_chargeShapers _ _ _ _).trans
        ((pathOnly_ite (.refl _) (pathOnly_setSched _ _ _)).trans (pathOnly_onCopy _ _ _ _)))

theorem PathOnly.cnt {s t : State} (h : PathOnly s t) : t.cnt = s.cnt := by
  obtain ⟨x, rfl⟩ := h
  rfl

theorem PathOnly.out {s t : State} (h : PathOnly s t) : t.out = s.out := by
  obtain ⟨x, rfl⟩ := h
  rfl

end

/-! ### The chosen frame begins on the line (R312, R358) -/

section
variable {s : State} {p : Nat} {x : Tx}

/-- The chosen frame `x` leaves its place before the line for the line. -/
def State.begin_ (s : State) (p : Nat) (x : Tx) : State := (s.setTx (2 * p + 1) none).setTx (2 * p) (some x)

theorem begin_lineTx (s : State) (p : Nat) (x : Tx) : (s.begin_ p x).lineTx p = some x := lineTx_setTx _ p x

theorem transmitStart_ready (hstart : x.startAt / 256 ≤ s.tick.slot) (hline : s.lineTx p = none) (hidle : p < 512 → s.idleTx p = 0) :
    (decide (s.tick.slot < x.startAt / 256) || (s.lineTx p).isSome || (decide (p < 512) && s.idleTx p != 0)) = false := by
  have hlane : (decide (p < 512) && s.idleTx p != 0) = false := by
    by_cases hp : p < 512
    · rw [hidle hp]
      exact Bool.and_false _
    · rw [decide_eq_false hp]
      rfl
  rw [decide_eq_false (Nat.not_lt.2 hstart), hline, hlane]
  rfl

theorem transmitStart_ctl (hnext : s.nextTx p = some x) (hstart : x.startAt / 256 ≤ s.tick.slot) (hline : s.lineTx p = none)
    (hidle : p < 512 → s.idleTx p = 0) (hcopy : x.copy = none) :
    ∃ t, exec (.transmitStart p) s = .next t ∧ t.lineTx p = some { x with begun := true } := by
  refine ⟨(s.begin_ p { x with begun := true }).sentPfc p x.ctl, ?_, ?_⟩
  · change execTransmitStart p s = _
    unfold execTransmitStart
    rw [hnext]
    dsimp only
    rw [if_neg (by simpa using transmitStart_ready hstart hline hidle), hcopy]
    rfl
  · rw [lineTx_of_tx (congrArg Path.tx (sentPfc_path _ p x.ctl)), begin_lineTx]

/-- The copy of a frame has the frame's number. -/
theorem copy?_fid {fid port : Nat} {c : Copy} (h : s.copy? fid port = some c) : c.fid = fid := by
  have hfound := List.find?_some h
  simp only [Bool.and_eq_true, decide_eq_true_eq] at hfound
  exact hfound.1

/-- What the start of a copy leaves beside the line: the turn of its class's queues, and what is counted and copied. -/
def State.beside (s : State) (p : Nat) (x : Tx) (c : Copy) (f : Frame) : State :=
  let d := s.sched p
  let s := s.setSched p { d with mcNext := setBits d.mcNext c.cls c.cls (b2n !c.mc) }
  let s := if !c.whole then s.count .fabCutCnt (Config.sliceOf p) 1 else s
  (s.countActs p x f).mirrorOut p x f

theorem beside_tx (s : State) (p : Nat) (x : Tx) (c : Copy) (f : Frame) : (s.beside p x c f).path.tx = s.path.tx := by
  unfold State.beside
  dsimp only
  rw [mirrorOut_tx, countActs_path]
  split
  · rw [count_path, setSched_tx]
  · exact setSched_tx _ _ _

theorem transmitStart_copy {c0 c : Copy} {f : Frame} (hnext : s.nextTx p = some x) (hstart : x.startAt / 256 ≤ s.tick.slot)
    (hline : s.lineTx p = none) (hidle : p < 512 → s.idleTx p = 0) (hcopy : x.copy = some c0) (hc : s.copy? c0.fid p = some c)
    (hf : s.frame? c.fid = some f) : exec (.transmitStart p) s =
      if !(s.gates p).testBit c.cls then .next ((s.withdraw p).count .macGateHoldCnt p 1)
      else .next ((s.begin_ p { x with begun := true, cut := !c.whole }).beside p x c f) := by
  rw [copy?_fid hc] at hf
  change execTransmitStart p s = _
  unfold execTransmitStart
  rw [hnext]
  dsimp only
  rw [if_neg (by simpa using transmitStart_ready hstart hline hidle), hcopy]
  dsimp only
  rw [hc, hf]
  rfl

end

/-! ### The read path takes a cell (R213, R235) -/

section
variable {s : State} {p v : Nat} {x : Tx} {c0 c : Copy}

/-- A cell that its queue owns, with no fault in its code, reads its bytes. -/
theorem readCell_good {sl qu : Nat} (hstate : (s.desc sl v).state = 1) (howner : (s.desc sl v).owner = qu) :
    s.readCell sl qu v 0 = (s, Table.get (fun _ => []) s.path.data (cellKey sl v), 0) := by
  unfold State.readCell
  dsimp only
  rw [if_neg (by simp [hstate, howner])]
  rfl

/-- The transmission `x` with a cell's bytes. -/
def Tx.took (x : Tx) (bs : List Byte) : Tx := { x with got := x.got ++ bs, nRead := x.nRead + 1 }

theorem readNext_good (hstate : (s.desc (Config.sliceOf p) v).state = 1) (howner : (s.desc (Config.sliceOf p) v).owner = c.queue) (k : Nat) :
    ∃ u : State, u.path.frees = s.path.frees ++ [{ slice := Config.sliceOf p, cell := v, queue := c.queue, read := s.tick.slot }]
      ∧ s.readNext p k x c v 0 = u.setTx k (some (x.took (Table.get (fun _ => []) s.path.data (cellKey (Config.sliceOf p) v)))) := by
  refine ⟨(s.onCopy c.fid p fun (c : Copy) => { c with cells := c.cells.drop 1 }).inPath fun q => { q with
    frees := q.frees ++ [{ slice := Config.sliceOf p, cell := v, queue := c.queue, read := s.tick.slot }] }, rfl, ?_⟩
  unfold State.readNext
  dsimp only
  rw [readCell_good hstate howner]
  rfl

theorem cellRead_good {rest : List Nat} (hline : s.lineTx p = some x) (hcopy : x.copy = some c0) (hc : s.copy? c0.fid p = some c)
    (hcells : c.cells = v :: rest) : exec (.cellRead p 0) s = .next (s.readNext p (2 * p) x c v 0) := by
  change execCellRead p 0 s = _
  unfold execCellRead
  rw [hline]
  have hread : s.readTx p 0 (2 * p) x = some (s.readNext p (2 * p) x c v 0) := by
    unfold State.readTx
    rw [hcopy]
    dsimp only
    rw [hc]
    dsimp only
    rw [hcells]
  rw [Option.bind_some, hread]

end

/-! ### What is sent out is only ever added to -/

section
variable (s : State)

/-- A flush sends nothing. -/
theorem flush_out (p : Nat) : (s.flush p).1.out = s.out := by
  have hempty : (s.emptyQueues p).out = s.out := by
    unfold State.emptyQueues
    rw [(offLine_foldl (fun u i => offLine_dropHank u _ _) _ _).out, (offLine_foldl (fun u id => offLine_loseCopy u id p 0x44) _ _).out,
      (pathOnly_withdraw s p).out]
  rw [flush_state, (offLine_settle _).out, raise_out, count_out, hempty]

theorem setPortState_out (p st : Nat) : (s.setPortState p st).out = s.out := by rw [State.setPortState, setFld_out, setFld_out]

/-- Nor does the loss of a port's link. -/
theorem freeze_out (p : Nat) : (s.freeze p).out = s.out := by
  unfold State.freeze
  extract_lets s1 flow s2 s3 hold
  have h1 : s1.out = s.out := (pathOnly_withdraw s p).out
  have h3 : s3.out = s.out := by
    unfold s3 s2
    rw [State.showPaused, setFld_out, setFld_out, State.setFlow, inPath_out, h1]
  split
  · exact h3
  · split
    · rw [flush_out, setPortState_out, h3]
    · rw [inPath_out, setPortState_out, h3]

theorem standbyCheck_out (p : Nat) : (s.standbyCheck p).out = s.out := by
  unfold State.standbyCheck
  split
  · unfold State.enterStandby
    extract_lets up s1 s2 s3 line s4
    have h4 : s4.out = s.out := by
      unfold s4 s3 s2 s1
      rw [State.setLine, inPath_out, setFld_out, setFld_out, inPath_out, setFld_out]
    split
    · rw [freeze_out, count_out, raise_out, setFld_out, h4]
    · rw [freeze_out, h4]
  · rfl

theorem endMirrors_out (p fid : Nat) (bad : Bool) : (s.endMirrors p fid bad).out = s.out := by
  unfold State.endMirrors
  refine foldl_part (·.out) (fun u g => ?_) _ s
  dsimp only
  split
  · rfl
  · rw [raise_out, (offLine_drop _ _ _).out,
      (offLine_foldl (fun (v : State) (d : Nat × Bool) => offLine_loseCopy v g.id d.1 0) g.dests _).out, (offLine_onFrame u _ _).out]

end

/-! ### The end of a transmission (R356, R216) -/

section
variable {s : State} {p : Nat} {x : Tx} {c0 c : Copy} {f : Frame}

theorem transmitEnd_ctl (hline : s.lineTx p = some x) (hcopy : x.copy = none)
    (hdue : (x.startAt + 72 * 3200 / max 1 (s.rateGbps p)) / 256 ≤ s.tick.slot) :
    ∃ t, exec (.transmitEnd p) s = .next t ∧ Out.frame p x.ctl ∈ t.out := by
  refine ⟨((((s.setTx (2 * p) none).txGood p x.ctl).count .macTxCtrlCnt p 1).emit (.frame p x.ctl)).standbyCheck p, ?_, ?_⟩
  · change execTransmitEnd p s = _
    unfold execTransmitEnd
    rw [hline]
    dsimp only
    rw [hcopy]
    exact if_neg (Nat.not_lt.2 hdue)
  · rw [standbyCheck_out]
    exact List.mem_append_right _ (List.mem_singleton_self _)

/-- What a front port sends goes out. -/
theorem deliver_front (hp : p < 512) (fid : Nat) (m : Meta) (bs : List Byte) : s.deliver p fid m bs = s.emit (.frame p bs) := by
  unfold State.deliver
  rw [if_neg (by omega), if_neg (by omega)]

/-- The body of a good copy as the MAC sends it, padded. -/
def State.sentBody (s : State) (x : Tx) (f : Frame) : List Byte := padded (s.txBody x f (x.got.take (x.got.length - 4))).1

/-- The end of a good copy sends its padded body and its FCS. -/
theorem endTx_sends (hp : p < 512) (hgood : f.good = true) (hstomp : x.stomp = false) (hunder : x.under = false) :
    Out.frame p (s.sentBody x f ++ fcsBytes (s.sentBody x f)) ∈ (s.endTx p x c f).out := by
  unfold State.endTx
  extract_lets sl stomp raw r body s1 bs s2 s3 s4 s5 s6 s7 s8 sched s9
  have hno : stomp = false := by
    unfold stomp
    rw [hstomp, hgood]
    rfl
  have hbody : body = s.sentBody x f := by
    unfold body r raw
    rw [hunder]
    rfl
  have hbs : bs = s.sentBody x f ++ fcsBytes (s.sentBody x f) := by
    unfold bs
    rw [hno, hbody]
    rfl
  have h9 : s9.out = s8.out := by
    unfold s9
    split <;> rfl
  have h8 : s8.out = s7.out ++ [Out.frame p bs] := by
    unfold s8
    rw [endMirrors_out, deliver_front hp]
    rfl
  rw [(offLine_forgetCopy _ c).out, State.setTx, inPath_out, h9, h8, hbs]
  exact List.mem_append_right _ (List.mem_singleton_self _)

theorem transmitEnd_copy (hp : p < 512) (hline : s.lineTx p = some x) (hcopy : x.copy = some c0) (hc : s.copy? c0.fid p = some c)
    (hf : s.frame? c0.fid = some f) (hwhole : c.whole = true) (hcells : c.cells = []) (hlost : c.lost = false) (hended : f.ended.isSome = true)
    (hgood : f.good = true) (hstomp : x.stomp = false) (hunder : x.under = false)
    (hdue : (x.startAt + (max 64 x.got.length + 8) * 3200 / max 1 (s.rateGbps p)) / 256 ≤ s.tick.slot) :
    ∃ t, exec (.transmitEnd p) s = .next t ∧ Out.frame p (s.sentBody x f ++ fcsBytes (s.sentBody x f)) ∈ t.out := by
  refine ⟨((s.endTx p x c f).standbyCheck p).settle, ?_, ?_⟩
  · have hready : (!(x.under || (c.whole && decide (c.cells = []) && !c.lost && (f.ended.isSome || f.entersWhole)))
        || decide (s.tick.slot < (x.startAt + (max 64 x.got.length + 8) * 3200 / max 1 (s.rateGbps p)) / 256)) = false := by
      rw [decide_eq_false (Nat.not_lt.2 hdue), hwhole, hcells, hlost, hended]
      simp
    change execTransmitEnd p s = _
    unfold execTransmitEnd
    rw [hline]
    dsimp only
    rw [hcopy]
    dsimp only
    rw [hc, hf]
    exact if_neg (by rw [hready]; decide)
  · rw [(offLine_settle _).out, standbyCheck_out]
    exact endTx_sends hp hgood hstomp hunder

end

/-! ### A cell becomes free (R235, R236, R238) -/

section
variable {s : State} {sl c : Nat}

/-- The release of a cell leaves the walks and the cells that wait to be freed. -/
theorem release_lists (s : State) (sl c : Nat) : (s.release sl c).path.walks = s.path.walks ∧ (s.release sl c).path.frees = s.path.frees := by
  rcases release_cases s sl c with hr | hr <;> rw [hr]
  · exact ⟨rfl, rfl⟩
  · rcases pushCell_cases (s.setDesc sl c { state := 0, onlist := false, swn := (s.desc sl c).swn }) sl c with hp | hp <;> rw [hp] <;>
      exact ⟨rfl, rfl⟩

/-- The last cell of a walk is freed, and the walk ends. -/
theorem walkCells_last {qu n : Nat} (hsl : sl < 32) (hc : c < 65536) (hst : (s.desc sl c).state = 1) (hown : (s.desc sl c).owner = qu) :
    State.walkCells sl qu (n + 1) [c] none s = ((s.release sl c).onPool sl fun p => { p with freeing := p.freeing - 1 }, []) := by
  have hfree := freeCell_of_owner hsl hc hst hown false
  simp only [State.walkCells, Option.getD_none, hfree, Bool.false_eq_true, if_false]
  cases n <;> rfl

theorem walkerFree_last {w : Walk} (hwf : DescWf s) (hwalks : s.path.walks = [w]) (hslice : w.slice = sl) (hsl : sl < 32) (hcells : w.cells = [c])
    (hc : c < 65536) (hst : (s.desc sl c).state = 1) (hown : (s.desc sl c).owner = w.queue) (hret : (s.desc sl c).retPend = false) :
    ∃ t, exec (.walkerFree sl none) s = .next t ∧ t.path.walks = [] ∧ (t.desc sl c).state = 0 ∧ (t.desc sl c).onlist = true := by
  have hfind : (s.path.walks.find? fun w => decide (w.slice = sl)) = some w := by simp [hwalks, hslice]
  have hwalk := walkCells_last (n := 15) hsl hc hst hown
  have hafter : (((s.release sl c).onPool sl fun p => { p with freeing := p.freeing - 1 }).inPath fun p =>
      { p with walks := p.walks.erase w }).desc sl c = { swn := (s.desc sl c).swn } :=
    (desc_of_path (s := s.release sl c) rfl sl c).trans (desc_release_self hwf hret)
  refine ⟨((s.release sl c).onPool sl fun p => { p with freeing := p.freeing - 1 }).inPath fun p => { p with walks := p.walks.erase w },
    ?_, ?_, ?_, ?_⟩
  · change execWalkerFree sl none s = _
    unfold execWalkerFree
    rw [hfind]
    dsimp only
    rw [hcells, hwalk]
    rfl
  · refine (congrArg (List.erase · w) ((release_lists s sl c).1.trans hwalks)).trans ?_
    exact List.erase_cons_head ..
  · rw [hafter]
  · rw [hafter]

theorem cellTransmitFree_one {f : CellFree} (hwf : DescWf s) (hfrees : s.path.frees = [f]) (hslice : f.slice = sl) (hsl : sl < 32)
    (hc : f.cell < 65536) (hread : f.read < s.tick.slot) (hst : (s.desc sl f.cell).state = 1) (hown : (s.desc sl f.cell).owner = f.queue)
    (hret : (s.desc sl f.cell).retPend = false) :
    ∃ t, exec (.cellTransmitFree sl none) s = .next t ∧ t.path.frees = [] ∧ (t.desc sl f.cell).state = 0 ∧ (t.desc sl f.cell).onlist = true := by
  have hdue : (s.path.frees.filter fun f => decide (f.slice = sl) && decide (f.read < s.tick.slot)).take 8 = [f] := by
    simp [hfrees, hslice, hread]
  obtain ⟨u, hu⟩ : ∃ u, u = (s.inPath fun p => { p with frees := p.frees.filter fun g => !([f].contains g) }) := ⟨_, rfl⟩
  have hud : ∀ a, u.desc sl a = s.desc sl a := fun a => hu ▸ rfl
  have huf : u.path.frees = [] := by simp [hu, State.inPath, hfrees]
  have huwf : DescWf (u.onPool sl fun p => p.subHeld (u.desc sl f.cell).pool 1) := hu ▸ hwf
  have hfree := freeCell_of_owner (s := u) (qu := f.queue) hsl hc ((congrArg Desc.state (hud _)).trans hst)
    ((congrArg Desc.owner (hud _)).trans hown) true
  have hafter : (((u.onPool sl fun p => p.subHeld (u.desc sl f.cell).pool 1).release sl f.cell).subCq f.queue 1).desc sl f.cell
      = { swn := (u.desc sl f.cell).swn } :=
    (desc_of_path (s := (u.onPool sl fun p => p.subHeld (u.desc sl f.cell).pool 1).release sl f.cell) rfl sl f.cell).trans
      (desc_release_self huwf ((congrArg Desc.retPend (hud _)).trans hret))
  refine ⟨((u.onPool sl fun p => p.subHeld (u.desc sl f.cell).pool 1).release sl f.cell).subCq f.queue 1, ?_, ?_, ?_, ?_⟩
  · change execCellTransmitFree sl none s = _
    unfold execCellTransmitFree
    rw [hdue]
    simp only [List.foldl_cons, List.foldl_nil, Option.getD_none, ← hu, hfree, if_true]
  · change ((u.onPool sl _).release sl f.cell).path.frees = []
    rw [(release_lists _ sl f.cell).2]
    exact huf
  · rw [hafter]
  · rw [hafter]

end

/-- Settles O22: work on queues and cells leaves the frames on the lines and what was sent, so each command's own step stands in the state
it leaves. -/
theorem transmissionOfFrames : Obligations.TransmissionOfFrames := by
  refine ⟨?decides, ?starts, ?reads, ?ends, ?frees, ?walks⟩
  case decides =>
    intro p edge sym s hport hran hmay
    exact ⟨fun bs rest hframes => startDecision_of_ctl hport hran hmay hframes,
      fun u ls d c i l hframes hup hawake hp hlook hdebt hpick hhead hfit =>
        startDecision_of_pick hport hran hmay hframes hup hawake hp hlook hdebt hpick hhead hfit⟩
  case starts =>
    intro p x s hnext hstart hline hidle
    refine ⟨transmitStart_ctl hnext hstart hline hidle, fun c0 c f hcopy hc hf => ?_⟩
    have hexec := transmitStart_copy hnext hstart hline hidle hcopy hc hf
    refine ⟨fun hopen => ⟨_, hexec.trans (if_neg (by rw [hopen]; decide)), ?_⟩, fun hclosed => ⟨_, hexec.trans (if_pos (by rw [hclosed]; rfl)), ?_⟩⟩
    · rw [lineTx_of_tx (beside_tx _ p x c f), begin_lineTx]
    · obtain ⟨y, hy⟩ := pathOnly_withdraw s p
      rw [hy]
      rfl
  case reads =>
    intro p v rest x c0 c s hline hcopy hc hcells hstate howner
    obtain ⟨u, hfrees, hread⟩ := readNext_good (x := x) hstate howner (2 * p)
    exact ⟨_, (cellRead_good hline hcopy hc hcells).trans (congrArg _ hread), lineTx_setTx u p _, hfrees⟩
  case ends =>
    intro p x s hline
    exact ⟨transmitEnd_ctl hline, fun c0 c f hp hcopy hc hf hwhole hcells hlost hended hgood hstomp hunder hdue =>
      transmitEnd_copy hp hline hcopy hc hf hwhole hcells hlost hended hgood hstomp hunder hdue⟩
  case frees =>
    intro sl f s hwf hfrees hslice hsl hc hread hst hown hret
    exact cellTransmitFree_one hwf hfrees hslice hsl hc hread hst hown hret
  case walks =>
    intro sl c w s hwf hwalks hslice hsl hcells hc hst hown hret
    exact walkerFree_last hwf hwalks hslice hsl hcells hc hst hown hret

end Sys2Proof.Machine

/-!
Links (O27): a condition that fails loses the link and holds or downs the port, a held port reaches its deadline, the link comes up, and a lane
finds or loses its markers.
-/
namespace Sys2Proof.Machine
open Sys2Proof

section
variable {s : State} {p : Nat}

/-! ### The link and the port in the registers -/

theorem flag_of_keeps {M : Change} {k : State} (h : Keeps M k s) (f : Fld) (i : Nat) (hf : M.may f.reg = false) : s.flag f i = k.flag f i :=
  flag_of_reg (h.within.regs f.reg i hf)

theorem fld_of_keeps {M : Change} {k : State} (h : Keeps M k s) (f : Fld) (i : Nat) (hf : M.may f.reg = false) : s.fld f i = k.fld f i :=
  fld_of_reg (h.within.regs f.reg i hf)

theorem flag_setFld_zero (h : RegsWf s) {f : Fld} (hf : 0 < f.width ∧ f.lo + f.width ≤ 32) (i : Nat) : (s.setFld f i 0).flag f i = false := by
  rw [flag_setFld_self h hf, Nat.zero_mod]
  rfl

theorem flag_setFld_one (h : RegsWf s) {f : Fld} (hf : 0 < f.width ∧ f.lo + f.width ≤ 32) (i : Nat) : (s.setFld f i 1).flag f i = true := by
  rw [flag_setFld_self h hf, Nat.mod_eq_of_lt (Nat.one_lt_two_pow (Nat.pos_iff_ne_zero.1 hf.1))]
  rfl

theorem flag_setFld_bool (h : RegsWf s) {f : Fld} (hf : f.width = 1 ∧ f.lo + f.width ≤ 32) (i : Nat) (b : Bool) :
    (s.setFld f i (b2n b)).flag f i = b := by
  rw [flag_setFld_self h ⟨by omega, hf.2⟩, hf.1]
  cases b <;> rfl

theorem portState_of_regs {t : State} (h : t.regs = s.regs) (p : Nat) : t.portState p = s.portState p := by
  rw [State.portState, State.portState, fld_of_regs h]

theorem portState_of_keeps {M : Change} {k : State} (h : Keeps M k s) (hf : M.may .qmPortStat = false) (p : Nat) :
    s.portState p = k.portState p := by
  rw [State.portState, State.portState, fld_of_keeps h F.qmPortStat_STATE p hf]

/-- A front port shows the state that it is put in, and HOLD in state HELD only (R303). -/
theorem setPortState_shows (h : RegsWf s) (hp : p < 512) {st : Nat} (hst : st < 4) :
    (s.setPortState p st).portState p = st ∧ (s.setPortState p st).flag F.macModeStat_HOLD p = (st == 1) := by
  have hw := wf_setFld h F.qmPortStat_STATE p st
  refine ⟨?_, flag_setFld_bool hw (by decide) p _⟩
  rw [State.portState, if_pos hp, State.setPortState, fld_setFld_apart hw (by decide), fld_setFld_self h (by decide)]
  exact Nat.mod_eq_of_lt hst

/-! ### The conditions of R350 -/

/-- The conditions that the PCS and the reconciliation sublayer report: aligned, local fault, remote fault and high bit error ratio. -/
def State.reportLink (s : State) (p : Nat) (a lf rf hb : Bool) : State :=
  (((s.setFld F.macLink_ALIGNED p (b2n a)).setFld F.macLink_LF p (b2n lf)).setFld F.macLink_RF p (b2n rf)).setFld F.macLink_HI_BER p (b2n hb)

theorem reportLink_keeps (h : Inv s) (p : Nat) (a lf rf hb : Bool) : Keeps { regs := [.macLink] } s (s.reportLink p a lf rf hb) :=
  keeps_setFld (keeps_setFld (keeps_setFld (keeps_setFld (keeps_self h) (by decide)) (by decide)) (by decide)) (by decide)

/-- The report leaves UP, and the conditions hold when each is reported good and EN is set (R350). -/
theorem reportLink_shows (h : Inv s) (hen : s.flag F.macPortCfg_EN p = true) (a lf rf hb : Bool) :
    (s.reportLink p a lf rf hb).linkUp p = s.linkUp p ∧ (s.reportLink p a lf rf hb).linkConditions p = (a && !lf && !rf && !hb) := by
  have h1 := wf_setFld h.regs F.macLink_ALIGNED p (b2n a)
  have h2 := wf_setFld h1 F.macLink_LF p (b2n lf)
  have h3 := wf_setFld h2 F.macLink_RF p (b2n rf)
  constructor
  · rw [State.linkUp, State.reportLink, flag_setFld_apart h3 (by decide), flag_setFld_apart h2 (by decide), flag_setFld_apart h1 (by decide),
      flag_setFld_apart h.regs (by decide)]
    rfl
  · have hEn : (s.reportLink p a lf rf hb).flag F.macPortCfg_EN p = true :=
      (flag_of_keeps (reportLink_keeps h p a lf rf hb) F.macPortCfg_EN p rfl).trans hen
    have hAligned : (s.reportLink p a lf rf hb).flag F.macLink_ALIGNED p = a := by
      rw [State.reportLink, flag_setFld_apart h3 (by decide), flag_setFld_apart h2 (by decide), flag_setFld_apart h1 (by decide)]
      exact flag_setFld_bool h.regs (by decide) p a
    have hLf : (s.reportLink p a lf rf hb).flag F.macLink_LF p = lf := by
      rw [State.reportLink, flag_setFld_apart h3 (by decide), flag_setFld_apart h2 (by decide)]
      exact flag_setFld_bool h1 (by decide) p lf
    have hRf : (s.reportLink p a lf rf hb).flag F.macLink_RF p = rf := by
      rw [State.reportLink, flag_setFld_apart h3 (by decide)]
      exact flag_setFld_bool h2 (by decide) p rf
    have hHiBer : (s.reportLink p a lf rf hb).flag F.macLink_HI_BER p = hb := flag_setFld_bool h3 (by decide) p hb
    rw [State.linkConditions, hEn, hAligned, hLf, hRf, hHiBer, Bool.true_and]

theorem linkLoss_exec (hp : p < 512) (hport : s.hasPort p = true) (hcfg : s.configured p = true) (hvis : s.hidden p = false)
    (hen : s.flag F.macPortCfg_EN p = true) (a lf rf hb : Bool) :
    exec (.linkLoss p a lf rf hb) s = .next ((s.reportLink p a lf rf hb).linkChanged p) := by
  change execLinkLoss p a lf rf hb s = _
  rw [execLinkLoss, if_neg (by simp [hp, hport, hcfg, hvis, hen])]
  rfl

/-! ### A link is lost (R303, R351) -/

/-- The link goes down: UP falls, LINK_DOWN sets, and the loss is counted. -/
def State.linkCut (s : State) (p : Nat) : State := ((s.setFld F.macLink_UP p 0).raise F.macStat_LINK_DOWN p).count .macLinkDownCnt p 1

theorem linkCut_keeps (h : Inv s) (p : Nat) : Keeps { parts := [.meet, .cnt], regs := [.macLink, .macStat] } s (s.linkCut p) :=
  keeps_count (keeps_raise (keeps_setFld (keeps_self h) (by decide)) (by decide) (by decide)) (by decide)

theorem linkCut_shows (h : RegsWf s) (p : Nat) : (s.linkCut p).linkUp p = false ∧ (s.linkCut p).flag F.macStat_LINK_DOWN p = true := by
  have hw := wf_setFld h F.macLink_UP p 0
  refine ⟨?_, flag_raise_self hw (by decide) p⟩
  rw [State.linkUp, State.linkCut, count_flag_eq, flag_raise_apart hw (by decide), flag_setFld_zero h (by decide)]

/-- The first half of a freeze (R298): the chosen frame goes back, and the port's flow control stops. -/
def State.stopFlow (s : State) (p : Nat) : State :=
  let s := s.withdraw p
  (((s.setFlow p { s.flow p with timers := List.replicate 8 0, loads := [], due := 0, frames := [] }).setFld F.fcStat_TX_XOFF p 0).showPaused p)

theorem stopFlow_keeps {M : Change} {k : State} (h : Keeps M k s) (hM : Change.le { parts := [.path], regs := [.fcStat] } M = true) (p : Nat) :
    Keeps M k (s.stopFlow p) :=
  keeps_showPaused (keeps_setFld (keeps_setFlow (keeps_withdraw h)))

/-- A port is held until slot `e`. -/
def State.heldUntil (s : State) (p e : Nat) : State := (s.setPortState p 1).inPath fun t => { t with hold := Table.insert t.hold p e }

theorem heldUntil_hold (s : State) (p e : Nat) : OTable.get? (s.heldUntil p e).path.hold p = some e := OTable.get?_insert_self ..

theorem heldUntil_regs (s : State) (p e : Nat) : (s.heldUntil p e).regs = (s.setPortState p 1).regs := rfl

theorem settle_regs (s : State) : s.settle.regs = s.regs := rfl

theorem settle_hold (s : State) : s.settle.path.hold = s.path.hold := rfl

/-- The second half (R303): an UP port without a hold time is DOWN and flushed, one with a hold time is HELD until its end. -/
theorem freeze_eq (s : State) (p : Nat) :
    s.freeze p = if ((s.stopFlow p).portState p != 0) = true then s.stopFlow p
      else if min 2 ((s.stopFlow p).fld F.qmPortCfg_HOLD p) = 0 then (((s.stopFlow p).setPortState p 2).flush p).1
      else (s.stopFlow p).heldUntil p ((s.stopFlow p).tick.slot + min 2 ((s.stopFlow p).fld F.qmPortCfg_HOLD p) * Config.epochSlots) := rfl

theorem freeze_of_down (hup : (s.stopFlow p).portState p = 0) (hhold : (s.stopFlow p).fld F.qmPortCfg_HOLD p = 0) :
    s.freeze p = (((s.stopFlow p).setPortState p 2).flush p).1 := by
  rw [freeze_eq, if_neg (by simp [hup]), if_pos (by rw [hhold]; rfl)]

theorem freeze_of_hold (hup : (s.stopFlow p).portState p = 0) (hhold : (s.stopFlow p).fld F.qmPortCfg_HOLD p = 1) :
    s.freeze p = (s.stopFlow p).heldUntil p ((s.stopFlow p).tick.slot + Config.epochSlots) := by
  rw [freeze_eq, if_neg (by simp [hup]), if_neg (by rw [hhold]; decide), hhold, Nat.min_eq_right (by decide), Nat.one_mul]

/-- The frames that a lost link cuts: the one in transmission is ended, those in reception end in error (R351). -/
def State.cutFrames (s : State) (p : Nat) : State := ((s.linkCut p).abortTx p).truncate p

theorem linkLoss_of_up (hup : s.linkUp p = true) : s.linkLoss p = ((s.cutFrames p).freeze p).settle := by
  rw [State.linkLoss, if_neg (by simp [hup])]
  rfl

/-- What the loss of a link may change behind UP and LINK_DOWN. -/
def cutChange : Change := { parts := [.meet, .cnt, .path, .out], regs := [.fcStat, .macModeStat, .mirStat, .qmPortStat, .qmStat] }

theorem cutFrames_keeps {M : Change} {k : State} (h : Keeps M k (s.linkCut p))
    (hM : Change.le { parts := [.meet, .cnt, .path, .out], regs := [.mirStat] } M = true) : Keeps M k (s.cutFrames p) :=
  keeps_truncate (keeps_abortTx h)

theorem linkLoss_after_cut (h : Inv s) (hup : s.linkUp p = true) : Keeps cutChange (s.linkCut p) (s.linkLoss p) := by
  rw [linkLoss_of_up hup]
  exact keeps_settle (keeps_freeze (cutFrames_keeps (keeps_self (keeps_inv (linkCut_keeps h p))) (by decide)) (by decide)) (by decide)

/-- A lost link is down (R350). -/
theorem linkLoss_shows (h : Inv s) (hup : s.linkUp p = true) :
    (s.linkLoss p).linkUp p = false ∧ (s.linkLoss p).flag F.macStat_LINK_DOWN p = true := by
  obtain ⟨hdown, hstat⟩ := linkCut_shows h.regs p
  have hk := linkLoss_after_cut h hup
  exact ⟨(flag_of_keeps hk F.macLink_UP p rfl).trans hdown, (flag_of_keeps hk F.macStat_LINK_DOWN p rfl).trans hstat⟩

theorem linkUp_linkLoss (h : Inv s) (p : Nat) : (s.linkLoss p).linkUp p = false := by
  by_cases hup : s.linkUp p = true
  · exact (linkLoss_shows h hup).1
  · rw [State.linkLoss, if_pos (by simp [hup])]
    exact Bool.eq_false_iff.2 hup

/-- What stands when the port's queues are about to be frozen. -/
theorem stopped_keeps (h : Inv s) (p : Nat) :
    Keeps { parts := [.meet, .cnt, .path, .out], regs := [.fcStat, .macLink, .macStat, .mirStat] } s ((s.cutFrames p).stopFlow p) :=
  stopFlow_keeps (cutFrames_keeps (keeps_count (keeps_raise (keeps_setFld (keeps_self h) (by decide)) (by decide) (by decide)) (by decide))
    (by decide)) (by decide) p

/-- An UP port without a hold time goes DOWN with its link (R303). -/
theorem linkLoss_without_hold (h : Inv s) (hp : p < 512) (hup : s.linkUp p = true) (hstate : s.portState p = 0)
    (hhold : s.fld F.qmPortCfg_HOLD p = 0) : (s.linkLoss p).portState p = 2 := by
  have hk := stopped_keeps h p
  have hdown := keeps_setPortState (M := { regs := [.macModeStat, .qmPortStat] }) (p := p) (st := 2) (keeps_self (keeps_inv hk)) (by decide)
  have hflush : Keeps { parts := [.meet, .cnt, .path], regs := [.qmStat] } _ (((((s.cutFrames p).stopFlow p).setPortState p 2).flush p).1.settle) :=
    keeps_settle (keeps_flush (keeps_self (keeps_inv hdown)) (by decide)) (by decide)
  rw [linkLoss_of_up hup, freeze_of_down ((portState_of_keeps hk rfl p).trans hstate) ((fld_of_keeps hk _ p rfl).trans hhold),
    portState_of_keeps hflush rfl]
  exact (setPortState_shows hk.regs hp (by decide)).1

/-- An UP port whose hold time is one epoch is HELD for it (R303). -/
theorem linkLoss_with_hold (h : Inv s) (hp : p < 512) (hup : s.linkUp p = true) (hstate : s.portState p = 0)
    (hhold : s.fld F.qmPortCfg_HOLD p = 1) :
    (s.linkLoss p).portState p = 1 ∧ OTable.get? (s.linkLoss p).path.hold p = some (s.tick.slot + Config.epochSlots) := by
  have hk := stopped_keeps h p
  rw [linkLoss_of_up hup, freeze_of_hold ((portState_of_keeps hk rfl p).trans hstate) ((fld_of_keeps hk _ p rfl).trans hhold),
    hk.within.tick rfl, settle_hold, heldUntil_hold, portState_of_regs ((settle_regs _).trans (heldUntil_regs ..))]
  exact ⟨(setPortState_shows hk.regs hp (by decide)).1, rfl⟩

/-! ### A change of the conditions -/

theorem linkChanged_of_good (hc : s.linkConditions p = true) : s.linkChanged p = s.noteLink p s.tick.slot := if_pos hc

/-- While the conditions hold the link stays as it is. -/
theorem linkUp_linkChanged_of_good (hc : s.linkConditions p = true) : (s.linkChanged p).linkUp p = s.linkUp p := by
  rw [linkChanged_of_good hc]
  rfl

theorem linkChanged_of_bad (hc : s.linkConditions p = false) : s.linkChanged p = (s.noteLink p s.tick.slot).linkLoss p :=
  if_neg (by rw [show (s.noteLink p s.tick.slot).linkConditions p = s.linkConditions p from rfl, hc]; decide)

theorem noteLink_inv (h : Inv s) (p first : Nat) : Inv (s.noteLink p first) := ⟨h.regs, h.slot, h.whorl⟩

theorem linkUp_linkChanged_of_bad (h : Inv s) (hc : s.linkConditions p = false) : (s.linkChanged p).linkUp p = false := by
  rw [linkChanged_of_bad hc]
  exact linkUp_linkLoss (noteLink_inv h p _) p

/-- What a failing condition makes of a port whose link is up (R303, R350). -/
theorem linkChanged_of_bad_shows (h : Inv s) (hp : p < 512) (hc : s.linkConditions p = false) (hup : s.linkUp p = true) :
    (s.linkChanged p).linkUp p = false ∧ (s.linkChanged p).flag F.macStat_LINK_DOWN p = true
    ∧ (s.portState p = 0 → s.fld F.qmPortCfg_HOLD p = 0 → (s.linkChanged p).portState p = 2)
    ∧ (s.portState p = 0 → s.fld F.qmPortCfg_HOLD p = 1 → (s.linkChanged p).portState p = 1
      ∧ OTable.get? (s.linkChanged p).path.hold p = some (s.tick.slot + Config.epochSlots)) := by
  have hinv := noteLink_inv h p s.tick.slot
  obtain ⟨hdown, hstat⟩ := linkLoss_shows hinv hup
  rw [linkChanged_of_bad hc]
  exact ⟨hdown, hstat, fun h0 h1 => linkLoss_without_hold hinv hp hup h0 h1, fun h0 h1 => linkLoss_with_hold hinv hp hup h0 h1⟩

/-! ### The deadline of a held port (R303) -/

/-- A flush of a port without copies, hanks or a chosen frame only forgets the frames that are done (R304). -/
theorem flush_frames_of_empty (hcopies : s.path.copies = []) (hhanks : s.path.hanks = []) (hnext : s.nextTx p = none) :
    (s.flush p).1.path.frames = s.settle.path.frames := by
  have hwithdraw : s.withdraw p = s := by rw [State.withdraw, hnext]
  have hqueued : s.queued p = [] := by simp [State.queued, hcopies, hhanks]
  have hdrop : ∀ l : List Nat, l.foldl (fun s i => s.dropHank (16 * p + i) 0x44) s = s := fun l => by
    induction l with
    | nil => rfl
    | cons i l ih => rw [List.foldl_cons, show s.dropHank (16 * p + i) 0x44 = s by simp [State.dropHank, State.hank?, hhanks, OTable.get?], ih]
  rw [flush_state, State.emptyQueues, hwithdraw, hqueued, List.foldl_nil, hdrop]
  rfl

/-- A held port whose deadline has come is no longer held, but DOWN. -/
def State.holdOver (s : State) (p : Nat) : State := (s.inPath fun t => { t with hold := Table.erase t.hold p }).setPortState p 2

theorem holdOver_keeps (h : Inv s) (p : Nat) : Keeps { parts := [.path], regs := [.macModeStat, .qmPortStat] } s (s.holdOver p) :=
  keeps_setPortState (keeps_inPath (keeps_self h) (by decide)) (by decide)

theorem holdDeadline_exec {e : Nat} (hheld : OTable.get? s.path.hold p = some e) (hdue : e ≤ s.tick.slot) :
    exec (.holdDeadline p) s = .next ((s.holdOver p).flush p).1 := by
  change execHoldDeadline p s = _
  rw [execHoldDeadline, hheld]
  exact if_neg (Nat.not_lt.2 hdue)

theorem holdDeadline_shows (h : Inv s) (hp : p < 512) :
    ((s.holdOver p).flush p).1.portState p = 2 ∧ ((s.holdOver p).flush p).1.flag F.macModeStat_HOLD p = false
    ∧ ((s.holdOver p).flush p).1.flag F.qmStat_FLUSH (Config.sliceOf p) = true := by
  have hinv := keeps_inv (holdOver_keeps h p)
  have hk : Keeps { parts := [.meet, .cnt, .path], regs := [.qmStat] } (s.holdOver p) ((s.holdOver p).flush p).1 :=
    keeps_flush (keeps_self hinv) (by decide)
  obtain ⟨hstate, hhold⟩ := setPortState_shows (s := s.inPath fun t => { t with hold := Table.erase t.hold p }) h.regs hp (st := 2) (by decide)
  exact ⟨(portState_of_keeps hk rfl p).trans hstate, (flag_of_keeps hk _ p rfl).trans hhold, flag_flush hinv p⟩

/-! ### The link comes up (R298, R303, R361) -/

/-- The link is reported up: UP rises and LINK_UP sets. -/
def State.linkRaised (s : State) (p : Nat) : State := (s.setFld F.macLink_UP p 1).raise F.macStat_LINK_UP p

theorem linkRaised_shows (h : RegsWf s) (p : Nat) :
    RegsWf (s.linkRaised p) ∧ (s.linkRaised p).linkUp p = true ∧ (s.linkRaised p).flag F.macStat_LINK_UP p = true := by
  have hw := wf_setFld h F.macLink_UP p 1
  refine ⟨wf_raise hw _ _, ?_, flag_raise_self hw (by decide) p⟩
  rw [State.linkUp, State.linkRaised, flag_raise_apart hw (by decide), flag_setFld_one h (by decide)]

theorem linkComesUp_of_unheld (h : OTable.get? s.path.hold p = none) :
    s.linkComesUp p = ((s.linkRaised p).setPortState p 0).setFlow p { s.flow p with due := (s.flow p).req } := by
  have hheld : OTable.get? ((s.setFld F.macLink_UP p 1).raise F.macStat_LINK_UP p).path.hold p = none := h
  rw [State.linkComesUp]
  simp only [hheld]
  rfl

/-- With its link a port is UP, and every standing request is due. -/
theorem linkComesUp_shows (h : Inv s) (hflow : FlowWf s) (hp : p < 512) (hhold : OTable.get? s.path.hold p = none) :
    (s.linkComesUp p).linkUp p = true ∧ (s.linkComesUp p).flag F.macStat_LINK_UP p = true ∧ (s.linkComesUp p).portState p = 0
    ∧ ((s.linkComesUp p).flow p).due = (s.flow p).req := by
  obtain ⟨hr, hup, hstat⟩ := linkRaised_shows h.regs p
  have hs := wf_setFld hr F.qmPortStat_STATE p 0
  have hregs : (s.linkComesUp p).regs = ((s.linkRaised p).setPortState p 0).regs := by
    rw [linkComesUp_of_unheld hhold]
    rfl
  have hflow' : FlowWf ((s.linkRaised p).setPortState p 0) := hflow
  refine ⟨?_, ?_, ?_, ?_⟩
  · rw [State.linkUp, flag_of_regs hregs, State.setPortState, flag_setFld_apart hs (by decide), flag_setFld_apart hr (by decide)]
    exact hup
  · rw [flag_of_regs hregs, State.setPortState, flag_setFld_apart hs (by decide), flag_setFld_apart hr (by decide)]
    exact hstat
  · rw [portState_of_regs hregs]
    exact (setPortState_shows hr hp (by decide)).1
  · rw [linkComesUp_of_unheld hhold, flow_setFlow_self hflow']

theorem linkComesUp_keeps (h : Inv s) (p : Nat) :
    Keeps { parts := [.meet, .cnt, .path], regs := [.macLink, .macModeStat, .macStat, .qmPortStat, .qmStat] } s (s.linkComesUp p) :=
  keeps_linkComesUp (keeps_self h) (by decide)

theorem linkUp_exec {t0 : Nat} (hsince : OTable.get? s.path.linkSince p = some t0) (hdue : t0 + 65536 ≤ s.tick.slot)
    (hdown : s.linkUp p = false) (hc : s.linkConditions p = true) (hstandby : s.flag F.macModeStat_SB_ACT p = false)
    (hwake : OTable.has s.path.wakeAt p = false) : exec (.linkUp p) s = .next (s.linkComesUp p) := by
  change execLinkUp p s = _
  rw [execLinkUp, hsince]
  exact if_neg (by simp [hdown, hc, hstandby, hwake, hdue])

/-- A waking port waits no longer (R361). -/
def State.endWait (s : State) (p : Nat) : State := s.inPath fun q => { q with wakeAt := Table.erase q.wakeAt p }

/-- The wake of a port is over, and with it its idle exit (R361). -/
def State.wakeOver (s : State) (p : Nat) : State :=
  if (s.endWait p).idleTx p = 3 then ((s.endWait p).setFld F.pcsState_IDLE_TX p 0).setFld F.macModeStat_IDLE_ACT p 0 else s.endWait p

theorem wakeOver_keeps (h : Inv s) (p : Nat) : Keeps { parts := [.path], regs := [.pcsState, .macModeStat] } s (s.wakeOver p) := by
  have hin : Keeps { parts := [.path], regs := [.pcsState, .macModeStat] } s (s.endWait p) := keeps_inPath (keeps_self h) (by decide)
  exact keeps_ite (fun _ => keeps_setFld (keeps_setFld hin (by decide)) (by decide)) fun _ => hin

theorem wakeOver_path (s : State) (p : Nat) : (s.wakeOver p).path = (s.endWait p).path := by
  unfold State.wakeOver
  split <;> rfl

theorem wakeOver_idleTx (h : RegsWf s) (hidle : s.idleTx p = 3) : (s.wakeOver p).idleTx p = 0 := by
  have hwait : RegsWf (s.endWait p) := h
  rw [State.wakeOver, if_pos (show (s.endWait p).idleTx p = 3 from hidle), State.idleTx,
    fld_setFld_apart (wf_setFld hwait ..) (by decide), fld_setFld_self hwait (by decide), Nat.zero_mod]

theorem wakeLinkUp_exec (h : Inv s) {t0 : Nat} (hwake : OTable.get? s.path.wakeAt p = some t0) (hdue : t0 ≤ s.tick.slot)
    (hc : s.linkConditions p = true) (hstandby : s.flag F.macModeStat_SB_ACT p = false) :
    exec (.wakeLinkUp p) s = .next ((s.wakeOver p).linkComesUp p) := by
  have hk := wakeOver_keeps h p
  have hcond : (s.wakeOver p).linkConditions p = true := by
    rw [State.linkConditions, flag_of_keeps hk _ p rfl, flag_of_keeps hk _ p rfl, flag_of_keeps hk _ p rfl, flag_of_keeps hk _ p rfl,
      flag_of_keeps hk _ p rfl]
    exact hc
  change execWakeLinkUp p s = _
  rw [execWakeLinkUp, hwake]
  refine (if_neg (by simp [hdue, hstandby])).trans ?_
  exact congrArg Host.Outcome.next (if_pos hcond)

end

/-! ### Lanes find and lose their markers (R379, R380) -/

section
variable {s : State} {l p : Nat}

theorem realign_keeps (h : Inv s) (p : Nat) :
    Keeps { parts := [.meet, .cnt, .path, .out], regs := [.fcStat, .macLink, .macModeStat, .macStat, .mirStat, .pcsStat, .qmPortStat, .qmStat] } s
      (s.realign p) := keeps_realign (keeps_self h) (by decide)

/-- A port with an unlocked lane is not aligned, so its link is down. -/
theorem linkUp_realign_of_unlocked (h : Inv s) (hl : l ∈ s.lanesOf p) (hlock : s.flag F.lnStat_LOCK l = false) :
    (s.realign p).linkUp p = false := by
  have hany : ((s.lanesOf p).all fun l => s.flag F.lnStat_LOCK l) = false :=
    List.all_eq_false.2 ⟨l, hl, by simp [hlock]⟩
  have heq : s.realign p = (s.setFld F.macLink_ALIGNED p 0).linkChanged p := by
    unfold State.realign
    simp only [hany, Bool.false_and, Bool.false_eq_true, if_false]
    rfl
  have hbad : (s.setFld F.macLink_ALIGNED p 0).linkConditions p = false := by
    have hclear := flag_setFld_zero h.regs (f := F.macLink_ALIGNED) (by decide) p
    simp [State.linkConditions, hclear]
  rw [heq]
  exact linkUp_linkChanged_of_bad ⟨wf_setFld h.regs .., h.slot, h.whorl⟩ hbad

/-- What a lane that has found its markers shows: `map` is its word of LN_RX_MAP. -/
def State.foundMarkers (s : State) (l p : Nat) (map : Word) (inverted : Bool) (skew : Nat) : State :=
  (((s.setFld F.lnStat_LOCK l 1).setFld F.lnStat_PN_SWAP l (b2n inverted)).setReg .lnRxMap l map).setFld F.pcsState_SKEW p (min 255 skew)

theorem laneLock_exec {pcsl : Nat} (hrun : s.runningPort l = some p) (hlock : s.flag F.lnStat_LOCK l = false)
    (hpcsl : pcsl < if s.portMode p = 0x10 then 4 else s.width p) (half inverted : Bool) (skew : Nat) :
    exec (.laneLock l half pcsl inverted skew) s
      = .next ((s.foundMarkers l p (word (2 ^ 31 + 16 * b2n half + pcsl)) inverted skew).realign p) := by
  change execLaneLock l half pcsl inverted skew s = _
  rw [execLaneLock, hrun]
  exact if_neg (by simpa [hlock] using hpcsl)

theorem foundMarkers_shows (h : Inv s) (l p : Nat) (map : Word) (inverted : Bool) (skew : Nat) :
    Inv (s.foundMarkers l p map inverted skew) ∧ (s.foundMarkers l p map inverted skew).flag F.lnStat_LOCK l = true
    ∧ (s.foundMarkers l p map inverted skew).flag F.lnStat_PN_SWAP l = inverted
    ∧ (s.foundMarkers l p map inverted skew).reg .lnRxMap l = map
    ∧ (s.foundMarkers l p map inverted skew).fld F.pcsState_SKEW p = min 255 skew := by
  have h1 := wf_setFld h.regs F.lnStat_LOCK l 1
  have h2 := wf_setFld h1 F.lnStat_PN_SWAP l (b2n inverted)
  have h3 := wf_setReg h2 .lnRxMap l map
  have hstat : (s.foundMarkers l p map inverted skew).reg .lnStat l
      = ((s.setFld F.lnStat_LOCK l 1).setFld F.lnStat_PN_SWAP l (b2n inverted)).reg .lnStat l :=
    (reg_setFld_ne h3 _ (by simp [F.pcsState_SKEW])).trans (reg_setReg_ne h2 _ (by simp))
  have hk : Keeps { regs := [.lnStat, .lnRxMap, .pcsState] } s (s.foundMarkers l p map inverted skew) :=
    keeps_setFld (keeps_setReg (keeps_setFld (keeps_setFld (keeps_self h) (by decide)) (by decide)) (by decide)) (by decide)
  refine ⟨keeps_inv hk, ?_, ?_, ?_, ?_⟩
  · rw [flag_of_reg (f := F.lnStat_LOCK) hstat, flag_setFld_apart h1 (by decide)]
    exact flag_setFld_one h.regs (by decide) l
  · rw [flag_of_reg (f := F.lnStat_PN_SWAP) hstat]
    exact flag_setFld_bool h1 (by decide) l inverted
  · exact (reg_setFld_ne h3 _ (by simp [F.pcsState_SKEW])).trans (reg_setReg_self h2 ..)
  · exact (fld_setFld_self h3 (by decide) p _).trans (Nat.mod_eq_of_lt (Nat.lt_succ_of_le (min_le_left ..)))

/-- A lane without its lock. -/
def State.unlocked (s : State) (l : Nat) : State :=
  (((s.setFld F.lnStat_LOCK l 0).setFld F.lnStat_PN_SWAP l 0).raise F.lnStat_LOCK_LOST l).setFld F.lnRxMap_VALID l 0

theorem laneLockLoss_exec (hrun : s.runningPort l = some p) (hlock : s.flag F.lnStat_LOCK l = true) (hrx : (s.lane l).rx = 0) :
    exec (.laneLockLoss l) s = .next ((s.unlocked l).realign p) := by
  change execLaneLockLoss l s = _
  rw [execLaneLockLoss, hrun]
  exact if_neg (by simp [hlock, hrx])

theorem unlocked_shows (h : Inv s) (l : Nat) :
    Inv (s.unlocked l) ∧ (s.unlocked l).flag F.lnStat_LOCK l = false ∧ (s.unlocked l).flag F.lnStat_LOCK_LOST l = true
    ∧ (s.unlocked l).flag F.lnRxMap_VALID l = false ∧ ∀ p, (s.unlocked l).lanesOf p = s.lanesOf p := by
  have h1 := wf_setFld h.regs F.lnStat_LOCK l 0
  have h2 := wf_setFld h1 F.lnStat_PN_SWAP l 0
  have h3 := wf_raise h2 F.lnStat_LOCK_LOST l
  have hk : Keeps { parts := [.meet], regs := [.lnStat, .lnRxMap] } s (s.unlocked l) :=
    keeps_setFld (keeps_raise (keeps_setFld (keeps_setFld (keeps_self h) (by decide)) (by decide)) (by decide) (by decide)) (by decide)
  refine ⟨keeps_inv hk, ?_, ?_, flag_setFld_zero h3 (by decide) l, fun p => ?_⟩
  · rw [State.unlocked, flag_setFld_apart h3 (by decide), flag_raise_apart h2 (by decide), flag_setFld_apart h1 (by decide)]
    exact flag_setFld_zero h.regs (by decide) l
  · rw [State.unlocked, flag_setFld_apart h3 (by decide)]
    exact flag_raise_self h2 (by decide) l
  · simp only [State.lanesOf, State.width, State.portMode, fld_of_keeps hk F.macPortCfg_MODE p rfl]

end

/-- Settles O27: each event puts the fields that it names and then loses the link, brings it up or flushes, and those leave other registers. -/
theorem linksGoDownAndComeUp : Obligations.LinksGoDownAndComeUp := by
  refine ⟨?loss, ?deadline, ?up, ?wake, ?lock, ?lockLoss⟩
  case loss =>
    intro p a lf rf hb s h hp hport hcfg hvis hen hup
    obtain ⟨hlink, hcond⟩ := reportLink_shows h hen a lf rf hb
    have hk := reportLink_keeps h p a lf rf hb
    have hexec := linkLoss_exec hp hport hcfg hvis hen a lf rf hb
    constructor
    · rintro ⟨rfl, rfl, rfl, rfl⟩
      exact ⟨_, hexec, (linkUp_linkChanged_of_good hcond).trans (hlink.trans hup)⟩
    · intro hbad
      have hfail : (s.reportLink p a lf rf hb).linkConditions p = false :=
        Bool.eq_false_iff.2 fun hgood => hbad (by simpa [hcond, and_assoc] using hgood)
      obtain ⟨hdown, hstat, hwithout, hwith⟩ := linkChanged_of_bad_shows (keeps_inv hk) hp hfail (hlink.trans hup)
      rw [portState_of_keeps hk rfl, fld_of_keeps hk _ p rfl] at hwithout hwith
      rw [hk.within.tick rfl] at hwith
      exact ⟨_, hexec, hdown, hstat, hwithout, hwith⟩
  case deadline =>
    intro p e s h hp hheld hdue
    obtain ⟨hstate, hhold, hflush⟩ := holdDeadline_shows h hp
    exact ⟨_, holdDeadline_exec hheld hdue, hstate, hhold, hflush, fun hcopies hhanks hnext => flush_frames_of_empty hcopies hhanks hnext⟩
  case up =>
    intro p t0 s h hflow hp hsince hdue hdown hc hstandby hwake hhold
    exact ⟨_, linkUp_exec hsince hdue hdown hc hstandby hwake, linkComesUp_shows h hflow hp hhold⟩
  case wake =>
    intro p t0 s h hflow hp hwake hdue hc hstandby hhold
    have hinv := keeps_inv (wakeOver_keeps h p)
    have hpath := wakeOver_path s p
    have hsame : (s.wakeOver p).flow p = s.flow p := flow_of_path (by rw [hpath]; rfl) p
    obtain ⟨hup, -, hstate, hreq⟩ := linkComesUp_shows hinv (by rw [FlowWf, hpath]; exact hflow) hp (by rw [hpath]; exact hhold)
    refine ⟨_, wakeLinkUp_exec h hwake hdue hc hstandby, hup, hstate, hreq.trans (by rw [hsame]), fun hidle => ?_⟩
    exact (fld_of_keeps (linkComesUp_keeps hinv p) F.pcsState_IDLE_TX p rfl).trans (wakeOver_idleTx h.regs hidle)
  case lock =>
    intro l p pcsl skew half inverted s h hrun hlock hpcsl
    obtain ⟨hinv, hlocked, hswap, hmap, hskew⟩ := foundMarkers_shows h l p (word (2 ^ 31 + 16 * b2n half + pcsl)) inverted skew
    have hk := realign_keeps hinv p
    exact ⟨_, laneLock_exec hrun hlock hpcsl half inverted skew, (flag_of_keeps hk F.lnStat_LOCK l rfl).trans hlocked,
      (flag_of_keeps hk F.lnStat_PN_SWAP l rfl).trans hswap, (hk.within.regs .lnRxMap l rfl).trans hmap,
      (fld_of_keeps hk F.pcsState_SKEW p rfl).trans hskew⟩
  case lockLoss =>
    intro l p s h hrun hl hlock hrx
    obtain ⟨hinv, hunlocked, hlost, hvalid, hlanes⟩ := unlocked_shows h l
    have hk := realign_keeps hinv p
    exact ⟨_, laneLockLoss_exec hrun hlock hrx, (flag_of_keeps hk F.lnStat_LOCK l rfl).trans hunlocked,
      (flag_of_keeps hk F.lnStat_LOCK_LOST l rfl).trans hlost, (flag_of_keeps hk F.lnRxMap_VALID l rfl).trans hvalid,
      linkUp_realign_of_unlocked hinv (by rw [hlanes]; exact hl) hunlocked⟩

end Sys2Proof.Machine

/-!
Packets of ports (O39): the configuration, modes and wake patterns that they write, and the answers of PORT_MODE_GET and PORT_STATUS_GET.
-/
namespace Sys2Proof.Machine
open Sys2Proof

section
variable {p : Packet} {a : Args} {s : State}

/-! ### PORT_CONFIG (R364) -/

/-- The word of MAC_PORT_CFG that PORT_CONFIG writes. -/
def portWord (en : Bool) (mode mfs : Nat) : Word := word (b2n en * 2 ^ 31 + mode * 2 ^ 16 + mfs)

theorem portWord_fields (en : Bool) {mode mfs : Nat} (hmode : mode ≤ 0x10) (hmfs : mfs ≤ 10240) :
    (portWord en mode mfs).toNat / 2 ^ 31 % 2 ^ 1 = b2n en ∧ (portWord en mode mfs).toNat / 2 ^ 16 % 2 ^ 5 = mode
    ∧ (portWord en mode mfs).toNat / 2 ^ 0 % 2 ^ 14 = mfs := by
  have hen := b2n_le_one en
  simp only [portWord, word, BitVec.toNat_ofNat]
  omega

/-- What follows a write of MAC_PORT_CFG: a link that is lost, or lanes that start or stop. -/
def enableChange : Change :=
  { parts := [.meet, .cnt, .path, .lanes, .out]
    regs := [.fcStat, .lnCemCommit, .lnCemId, .lnFfe, .lnRate, .lnRxMap, .lnRxcfg, .lnStat, .lnTxcfg, .lnTxeq, .macLink, .macModeStat, .macStat,
      .mirStat, .pcsState, .qmPortStat, .qmStat] }

theorem writePortCfg_keeps (h : Inv s) (port : Nat) (v : Word) :
    Keeps enableChange (s.plainWrite .macPortCfg port v) (s.writePortCfg port v) := by
  have hplain : Keeps { regs := [.macPortCfg] } s (s.plainWrite .macPortCfg port v) := keeps_plainWrite (keeps_self h) (by decide)
  have hself : Keeps enableChange _ (s.plainWrite .macPortCfg port v) := keeps_self (keeps_inv hplain)
  unfold State.writePortCfg
  refine keeps_ite (fun _ => hself) fun _ => keeps_ite (fun _ => ?off) fun _ => keeps_ite (fun _ => ?on) fun _ => hself
  case off =>
    exact keeps_inPath (keeps_setReg (keeps_disableLanes (keeps_linkLoss hself (by decide)) (by decide)) (by decide)) (by decide)
  case on => exact keeps_standbyCheck (keeps_enableLanes hself (by decide)) (by decide)

theorem writePortCfg_shows (h : Inv s) (port : Nat) (en : Bool) {mode mfs : Nat} (hmode : mode ≤ 0x10) (hmfs : mfs ≤ 10240) :
    (s.writePortCfg port (portWord en mode mfs)).fld F.macPortCfg_MODE port = mode
    ∧ (s.writePortCfg port (portWord en mode mfs)).fld F.macPortCfg_MFS port = mfs
    ∧ (s.writePortCfg port (portWord en mode mfs)).flag F.macPortCfg_EN port = en := by
  have hk := writePortCfg_keeps h port (portWord en mode mfs)
  obtain ⟨hfEn, hfMode, hfMfs⟩ := portWord_fields en hmode hmfs
  have hfld : ∀ f : Fld, f.reg = .macPortCfg → (s.writePortCfg port (portWord en mode mfs)).fld f port
      = (s.plainWrite .macPortCfg port (portWord en mode mfs)).fld f port := fun f hf => fld_of_reg (by rw [hf]; exact hk.within.regs _ _ rfl)
  refine ⟨(hfld _ rfl).trans ?_, (hfld _ rfl).trans ?_, ?_⟩
  · exact (fld_plainWrite h.regs (f := F.macPortCfg_MODE) (by decide) (by decide) rfl port _).trans hfMode
  · exact (fld_plainWrite h.regs (f := F.macPortCfg_MFS) (by decide) (by decide) rfl port _).trans hfMfs
  · have hbit := (hfld F.macPortCfg_EN rfl).trans ((fld_plainWrite h.regs (f := F.macPortCfg_EN) (by decide) (by decide) rfl port _).trans hfEn)
    rw [State.flag, hbit, b2n_ne_zero]

/-- A register that neither the write nor what follows it names. -/
theorem writePortCfg_reg (h : Inv s) (port : Nat) (v : Word) {r : Reg} (hr : r ≠ .macPortCfg) (hm : enableChange.may r = false) (i : Nat) :
    (s.writePortCfg port v).reg r i = s.reg r i :=
  ((writePortCfg_keeps h port v).within.regs r i hm).trans (reg_plainWrite_ne h.regs _ fun c => hr c.1)

/-- What PORT_CONFIG does before it writes the port's own registers: removals, the state of a new port, headroom, quanta and read-back thresholds. -/
def State.portPlan (s : State) (port mode mfs : Nat) : State :=
  let old := s.portMode port
  let change := decide (mode != old)
  let gone := (if change && mode == 0 then [port] else []) ++ (if change then s.hiddenBy port (modeRow mode).1 else [])
  let s := gone.foldl (fun s x => s.removePort x) s
  let s := (s.setFld F.macPortCfg_MODE port mode).setFld F.macPortCfg_MFS port mfs
  let s := if change && old == 0 then s.setPortState port 2 else s
  let s := if change && mode != 0 then s.setReadBack port else s
  (s.recompute (Config.sliceOf port)).raiseQuanta port

theorem portPlan_inv (h : Inv s) (port mode mfs : Nat) : Inv (s.portPlan port mode mfs) := by
  have hM : Change.le { parts := [.meet, .cnt, .log, .tab, .path], anyReg := true }
      { parts := [.meet, .cnt, .log, .tab, .path], anyReg := true } = true := Change.le_self _
  refine keeps_inv (M := { parts := [.meet, .cnt, .log, .tab, .path], anyReg := true }) (k := s) ?_
  unfold State.portPlan
  extract_lets old change gone s1 s2 s3 s4
  have h1 : Keeps _ s s1 := keeps_foldl (keeps_self h) fun _ _ hu => keeps_removePort hu hM
  have h2 : Keeps _ s s2 := keeps_setFld (keeps_setFld h1)
  have h3 : Keeps _ s s3 := keeps_ite (fun _ => keeps_setPortState h2) fun _ => h2
  have h4 : Keeps _ s s4 := keeps_ite (fun _ => keeps_setReadBack h3) fun _ => h3
  exact keeps_raiseQuanta (keeps_recompute h4)

/-- The port's address and PAUSE_EN. -/
def State.setMac (s : State) (port addr : Nat) (pause : Bool) : State :=
  ((s.setReg .macAddrHi port (word (addr / 2 ^ 32 % 2 ^ 16))).setReg .macAddrLo port (word (addr % 2 ^ 32))).setFld
    F.macRxCfg_PAUSE_EN port (b2n pause)

theorem setMac_shows (h : Inv s) (port addr : Nat) (pause : Bool) :
    Inv (s.setMac port addr pause) ∧ (s.setMac port addr pause).flag F.macRxCfg_PAUSE_EN port = pause
    ∧ (s.setMac port addr pause).reg .macAddrLo port = word addr
    ∧ (s.setMac port addr pause).reg .macAddrHi port = word (addr / 2 ^ 32 % 2 ^ 16) := by
  have hhi := wf_setReg h.regs .macAddrHi port (word (addr / 2 ^ 32 % 2 ^ 16))
  have hlo := wf_setReg hhi .macAddrLo port (word (addr % 2 ^ 32))
  have hword : word (addr % 2 ^ 32) = word addr := BitVec.eq_of_toNat_eq (by simp [word])
  refine ⟨⟨wf_setFld hlo .., h.slot, h.whorl⟩, flag_setFld_bool hlo (by decide) port pause, ?_, ?_⟩
  · exact (reg_setFld_ne hlo _ (by simp [F.macRxCfg_PAUSE_EN])).trans ((reg_setReg_self hhi ..).trans hword)
  · exact (reg_setFld_ne hlo _ (by simp [F.macRxCfg_PAUSE_EN])).trans ((reg_setReg_ne hhi _ (by simp)).trans (reg_setReg_self h.regs ..))

theorem portConfig_eq (s : State) (port mode : Nat) (en : Bool) (mfs addr : Nat) (pause : Bool) :
    s.portConfig port mode en mfs addr pause
      = ((s.portPlan port mode mfs).setMac port addr pause).writePortCfg port (portWord en mode mfs) := rfl

theorem portConfig_shows (h : Inv s) (port : Nat) (en : Bool) {mode mfs : Nat} (addr : Nat) (pause : Bool) (hmode : mode ≤ 0x10)
    (hmfs : mfs ≤ 10240) :
    (s.portConfig port mode en mfs addr pause).fld F.macPortCfg_MODE port = mode
    ∧ (s.portConfig port mode en mfs addr pause).fld F.macPortCfg_MFS port = mfs
    ∧ (s.portConfig port mode en mfs addr pause).flag F.macPortCfg_EN port = en
    ∧ (s.portConfig port mode en mfs addr pause).flag F.macRxCfg_PAUSE_EN port = pause
    ∧ (s.portConfig port mode en mfs addr pause).reg .macAddrLo port = word addr
    ∧ (s.portConfig port mode en mfs addr pause).reg .macAddrHi port = word (addr / 2 ^ 32 % 2 ^ 16) := by
  obtain ⟨hinv, hpause, hlo, hhi⟩ := setMac_shows (portPlan_inv h port mode mfs) port addr pause
  obtain ⟨hfMode, hfMfs, hfEn⟩ := writePortCfg_shows hinv port en hmode hmfs
  rw [portConfig_eq]
  exact ⟨hfMode, hfMfs, hfEn, (flag_of_reg (writePortCfg_reg hinv port _ (by decide) (by decide) _)).trans hpause,
    (writePortCfg_reg hinv port _ (by decide) (by decide) _).trans hlo, (writePortCfg_reg hinv port _ (by decide) (by decide) _).trans hhi⟩

/-- The lanes of a port pass each of the checks that PORT_CONFIG makes of them. -/
theorem lanes_any_false {w port : Nat} {f : Nat → Bool} (h : ∀ l, l < w → f (port + l) = false) :
    ((List.range w).map (port + ·)).any f = false := by
  simp only [List.any_eq_false, List.mem_map, List.mem_range, Bool.not_eq_true]
  rintro _ ⟨l, hl, rfl⟩
  exact h l hl

theorem begun_ownerOfLane (op l : Nat) : (begun op p s).ownerOfLane l = s.ownerOfLane l := rfl

theorem begun_record (op l rate : Nat) : (begun op p s).record? l rate = s.record? l rate := rfl

theorem portConfig_completes (hacc : Accepts 0x0100 p s) (ha : readParams 0x0100 p.params = a) (hbad : a.bad = false) (hfront : a.n 0 < 512)
    (hport : s.hasPort (a.n 0) = true) (hmode : a.n 1 ≤ 0x10) (hmin : 1518 ≤ a.n 3) (hmax : a.n 3 ≤ 10240)
    (halign : a.n 0 % max 1 (modeRow (a.n 1)).1 = 0)
    (hlanes : ∀ l, l < (modeRow (a.n 1)).1 → s.hasLane (a.n 0 + l) = true ∧ (∀ o, s.ownerOfLane (a.n 0 + l) = some o → o = a.n 0)
      ∧ (s.record? (a.n 0 + l) (modeRow (a.n 1)).2.1).isSome = true)
    (hidle : a.n 1 = s.portMode (a.n 0) ∨ s.flag F.macPortCfg_EN (a.n 0) = false)
    (hfits : firstFail (limitChecks (begun 0x0100 p s) ((begun 0x0100 p s).portConfig (a.n 0) (a.n 1) (a.f 2) (a.n 3) (a.n 4) (a.f 5))
      (Config.quadOf (a.n 0))) = none) :
    Completes (.portConfig p) 0x0100 p s ((begun 0x0100 p s).portConfig (a.n 0) (a.n 1) (a.f 2) (a.n 3) (a.n 4) (a.f 5)) .ok (emitBlock []) := by
  have hpresent : ((List.range (modeRow (a.n 1)).1).map (a.n 0 + ·)).any (fun l => !(begun 0x0100 p s).hasLane l) = false :=
    lanes_any_false fun l hl => by simp [(hlanes l hl).1]
  have howner : ((List.range (modeRow (a.n 1)).1).map (a.n 0 + ·)).any
      (fun l => ((begun 0x0100 p s).ownerOfLane l).any fun o => o != a.n 0) = false :=
    lanes_any_false fun l hl => by simpa [begun_ownerOfLane, Option.any_eq_false] using (hlanes l hl).2.1
  have hrecord : ((List.range (modeRow (a.n 1)).1).map (a.n 0 + ·)).any
      (fun l => ((begun 0x0100 p s).record? l (modeRow (a.n 1)).2.1).isNone) = false :=
    lanes_any_false fun l hl => by simpa [begun_record] using (hlanes l hl).2.2
  have hactive : (a.n 1 != (begun 0x0100 p s).portMode (a.n 0) && (begun 0x0100 p s).flag F.macPortCfg_EN (a.n 0)) = false := by
    rcases hidle with hsame | hoff
    · rw [show (begun 0x0100 p s).portMode (a.n 0) = a.n 1 from hsame.symm, bne_self_eq_false, Bool.false_and]
    · rw [begun_flag_eq, hoff, Bool.and_false]
  subst ha
  change execPortConfig p s = _
  unfold execPortConfig
  refine completes_of_checks hacc ?_ rfl
  rw [firstFail_append (firstFail_of_all_false ?own)]
  case own =>
    rw [hpresent, howner, hrecord, hactive]
    simp [hport, hbad, hfront, hmode, hmin, hmax, halign]
  exact hfits

/-! ### PORT_MODE_SET (R81) -/

/-- The bits of MAC_MODE after a write: those that the word's upper half and the port select are its lower half's (R84). -/
def modeWritten (port old v : Nat) : Nat :=
  (old &&& (0xFFF ^^^ (v / 2 ^ 16 % 2 ^ 16 &&& modeBits port))) ||| (v &&& (v / 2 ^ 16 % 2 ^ 16 &&& modeBits port))

/-- What the rises and falls of mode bits may bring about. -/
def modeChange : Change :=
  { parts := [.meet, .cnt, .path]
    regs := [.fcStat, .gclOperPos, .macLink, .macModeStat, .macStat, .pcsState, .qmPortStat, .qmStat] }

theorem writeMode_keeps (h : Inv s) (port v : Nat) :
    Keeps modeChange (s.setReg .macMode port (word (modeWritten port (s.reg .macMode port).toNat v))) (s.writeMode port v) := by
  have hM : Change.le modeChange modeChange = true := Change.le_self _
  unfold State.writeMode
  extract_lets mask old new s1 rises falls s2 s3 s4 line s5
  have h1 : Keeps modeChange s1 s1 := keeps_self ⟨wf_setReg h.regs .., h.slot, h.whorl⟩
  have h2 : Keeps modeChange s1 s2 := keeps_ite (fun _ => keeps_foldl h1 fun _ _ hu => keeps_xoffCheck hu) fun _ => h1
  have h3 : Keeps modeChange s1 s3 := keeps_ite (fun _ => keeps_losslessOff h2) fun _ => h2
  have h4 : Keeps modeChange s1 s4 := keeps_ite (fun _ => keeps_openGates h3) fun _ => h3
  have h5 : Keeps modeChange s1 s5 := keeps_ite (fun _ => keeps_setLine h4) fun _ => h4
  exact keeps_ite (fun _ => keeps_standbyCheck (keeps_withdraw h5)) fun _ => keeps_ite (fun _ => keeps_wake h5) fun _ => h5

/-- The recomputation of a front port's slice (R300). -/
theorem recomputeFront_keeps {k : State} {M : Change} (h : Keeps M k s) (hM : planChange.le M = true) (port : Nat) :
    Keeps M k (if port < 512 then s.recompute (Config.sliceOf port) else s) := keeps_ite (fun _ => keeps_recompute h hM) fun _ => h

theorem askLl_keeps (h : Inv s) (k : ModeAsk) : Keeps { parts := [.path], regs := [.fcCfg, .fcStat] } s (s.askLl k) :=
  keeps_askLl (keeps_self h) (by decide)

/-- A mode change at once leaves the written bits in MAC_MODE. -/
theorem reg_modeNow (h : Inv s) (k : ModeAsk) :
    (s.modeNow k).reg .macMode k.port = word (modeWritten k.port (s.reg .macMode k.port).toNat k.modeWord) := by
  have hask := askLl_keeps h k
  have hwrite := writeMode_keeps (keeps_inv hask) k.port k.modeWord
  have hplan : Keeps planChange ((s.askLl k).writeMode k.port k.modeWord) (s.modeNow k) :=
    recomputeFront_keeps (keeps_writeDeep (keeps_self (keeps_inv hwrite)) (by decide)) (by decide) k.port
  rw [hplan.within.regs _ _ rfl, hwrite.within.regs _ _ rfl, reg_setReg_self hask.regs, hask.within.regs _ _ rfl]

theorem modeBits_lt (port : Nat) : modeBits port < 2 ^ 12 := by
  unfold modeBits
  split <;> decide

/-- The word of a mode change: the bits it sets or clears above those it sets. -/
theorem modeWord_halves {k : ModeAsk} (hset : k.set < 2 ^ 16) (hclr : k.clr < 2 ^ 16) :
    k.modeWord / 2 ^ 16 % 2 ^ 16 = k.set ||| k.clr ∧ k.modeWord % 2 ^ 16 = k.set := by
  have hor := Nat.or_lt_two_pow hset hclr
  rw [ModeAsk.modeWord]
  omega

theorem testBit_twelve_ones {b : Nat} (hb : b < 12) : Nat.testBit 0xFFF b = true := by
  rw [show 0xFFF = 2 ^ 12 - 1 from rfl, Nat.testBit_two_pow_sub_one, decide_eq_true hb]

/-- Set bits that the port can carry. -/
theorem modeBits_of_set {port set b : Nat} (hset : set &&& (0xFFF ^^^ modeBits port) = 0) (hb : b < 12) (h : set.testBit b = true) :
    (modeBits port).testBit b = true := by
  have hbit := congrArg (Nat.testBit · b) hset
  simp only [Nat.testBit_and, Nat.testBit_xor, testBit_twelve_ones hb, h, Nat.zero_testBit, Bool.true_and, Bool.true_xor] at hbit
  simpa using hbit

/-- A mode change sets the bits of its set mask, clears those of its clear mask that the port has, and leaves the others. -/
theorem testBit_modeWritten {k : ModeAsk} {clr old b : Nat} (hset : k.set < 2 ^ 12) (hclr : k.clr = clr &&& modeBits k.port)
    (hbits : k.set &&& (0xFFF ^^^ modeBits k.port) = 0) (hb : b < 12) :
    (modeWritten k.port old k.modeWord).testBit b
      = (k.set.testBit b || (old.testBit b && !(clr.testBit b && (modeBits k.port).testBit b))) := by
  have hclr16 : k.clr < 2 ^ 16 := hclr ▸ Nat.lt_of_le_of_lt Nat.and_le_right ((modeBits_lt k.port).trans (by decide))
  obtain ⟨hhigh, hlow⟩ := modeWord_halves (hset.trans (by decide)) hclr16
  have hword : k.modeWord.testBit b = k.set.testBit b := by
    rw [← hlow, Nat.testBit_mod_two_pow, decide_eq_true (by omega : b < 16), Bool.true_and]
  simp only [modeWritten, Nat.testBit_or, Nat.testBit_and, Nat.testBit_xor, testBit_twelve_ones hb, hhigh, hword, hclr]
  by_cases hs : k.set.testBit b = true
  · simp [hs, modeBits_of_set hbits hb hs]
  · cases hm : (modeBits k.port).testBit b <;> simp [hs]

theorem regBit_modeNow (h : Inv s) {k : ModeAsk} {clr b : Nat} (hset : k.set < 2 ^ 12) (hclr : k.clr = clr &&& modeBits k.port)
    (hbits : k.set &&& (0xFFF ^^^ modeBits k.port) = 0) (hb : b < 12) :
    (s.modeNow k).regBit .macMode k.port b
      = (k.set.testBit b || (s.regBit .macMode k.port b && !(clr.testBit b && (modeBits k.port).testBit b))) := by
  rw [State.regBit, reg_modeNow h, word, BitVec.toNat_ofNat, Nat.testBit_mod_two_pow, decide_eq_true (by omega : b < 32), Bool.true_and,
    testBit_modeWritten hset hclr hbits hb]
  rfl

/-- A command stands last in the held list, under the last handle given. -/
def State.withHeld (s : State) (x : Held) : State := { s with tick := { s.tick with lastHandle := x.handle, held := s.tick.held ++ [x] } }

theorem withHeld_inv (h : Inv s) (x : Held) : Inv (s.withHeld x) := ⟨h.regs, h.slot, h.whorl⟩

/-- A command far ahead is held, under the next handle, and not placed (R59). -/
theorem acceptHeld_of_far {time : Nat} (hfar : s.netNs + 2 ^ 30 ≤ time) (acts : List SchedAct) (port : Option Nat) :
    s.acceptHeld time acts port
      = (s.withHeld { handle := s.nextHandle, time := time, acts := acts, modePort := port }, s.nextHandle) := by
  unfold State.acceptHeld
  generalize s.nextHandle = n
  exact congrArg (·, n) (if_pos hfar)

theorem nextHandle_of_tick {t : State} (h : t.tick = s.tick) : t.nextHandle = s.nextHandle := by rw [State.nextHandle, State.nextHandle, h]

/-- The two register writes of a timed mode change; a queue whose deep headroom it brings about is not cleared by it (R55). -/
def ModeAsk.writes (k : ModeAsk) (forced : Nat) : List SchedAct :=
  [ { action := 2, addr := Reg.macMode.offset k.port, data := k.modeWord },
    { action := 2, addr := Reg.qmQmode.offset k.port, data := { k with deepClr := k.deepClr &&& (0xFFFF ^^^ forced) }.deepWord } ]

theorem modeLater_eq (s : State) (k : ModeAsk) (forced : Nat) :
    s.modeLater k forced = (if k.port < 512 then ((s.askLl k).acceptHeld k.time (k.writes forced) (some k.port)).1.recompute (Config.sliceOf k.port)
      else ((s.askLl k).acceptHeld k.time (k.writes forced) (some k.port)).1,
      ((s.askLl k).acceptHeld k.time (k.writes forced) (some k.port)).2) := rfl

/-- A timed mode change is held as two register writes under the next handle, and MAC_MODE stays. -/
theorem modeLater_holds (h : Inv s) {k : ModeAsk} (hfar : s.netNs + 2 ^ 30 ≤ k.time) (forced : Nat) :
    (s.modeLater k forced).2 = s.nextHandle ∧ (s.modeLater k forced).1.reg .macMode k.port = s.reg .macMode k.port
    ∧ ∃ x : Held, (s.modeLater k forced).1.tick.held = s.tick.held ++ [x] ∧ x.handle = s.nextHandle ∧ x.time = k.time
      ∧ x.modePort = some k.port ∧ x.acts.length = 2 := by
  have hask := askLl_keeps h k
  have hhandle := nextHandle_of_tick (hask.within.tick rfl)
  have hfar' : (s.askLl k).netNs + 2 ^ 30 ≤ k.time := by rw [netNs_of_time (hask.within.time rfl)]; exact hfar
  rw [modeLater_eq, acceptHeld_of_far hfar', hhandle]
  generalize s.nextHandle = n
  generalize hx : ({ handle := n, time := k.time, acts := k.writes forced, modePort := some k.port } : Held) = x
  have hplan := recomputeFront_keeps (M := planChange) (keeps_self (withHeld_inv (keeps_inv hask) x)) (Change.le_self _) k.port
  refine ⟨rfl, (hplan.within.regs _ _ rfl).trans (hask.within.regs _ _ rfl), x, ?_, by subst hx; exact ⟨rfl, rfl, rfl, rfl⟩⟩
  have hheld : ((s.askLl k).withHeld x).tick.held = (s.askLl k).tick.held ++ [x] := rfl
  rw [hplan.within.tick rfl, hheld, hask.within.tick rfl]

/-- The mode change that a PORT_MODE_SET's parameters ask for. -/
def Args.modeAsk (a : Args) : ModeAsk :=
  { port := a.n 0, set := a.n 1, clr := a.n 2 &&& modeBits (a.n 0), deepSet := a.n 3, deepClr := a.n 4, ll := a.n 5, time := unpackNet (a.n 6) }

/-- The checks of PORT_MODE_SET, with those on its time (R81). -/
def State.modeChecks (s : State) (a : Args) : List (Bool × Status) :=
  [ (a.bad, .paramInvalid), (!s.hasPort (a.n 0), .resourceAbsent), (s.hidden (a.n 0), .lanesInUse),
    (a.n 1 &&& a.n 2 != 0 || a.n 3 &&& a.n 4 != 0 || (a.n 1).testBit 2 || (a.n 2).testBit 2
      || a.n 1 &&& (0xFFF ^^^ modeBits (a.n 0)) != 0, .modeInvalid),
    ((List.range 8).any (fun i => (a.n 4).testBit i && s.deepHeadroom (16 * a.n 0 + i) != 0), .modeInvalid) ]
  ++ (if a.n 0 < 512 then limitChecks s (s.modePlan a.modeAsk) (Config.quadOf (a.n 0)) else [])
  ++ (if a.n 6 != 0 then s.timeChecks a.modeAsk.time ++ [(decide (1024 ≤ s.tick.held.length), .schedFull)] else [])

theorem modeChecks_pass (hbad : a.bad = false) (hport : s.hasPort (a.n 0) = true) (hhidden : s.hidden (a.n 0) = false)
    (hmasks : a.n 1 &&& a.n 2 = 0) (hdeep : a.n 3 &&& a.n 4 = 0) (hclr2 : (a.n 2).testBit 2 = false)
    (hbits : a.n 1 &&& (0xFFF ^^^ modeBits (a.n 0)) = 0)
    (hforced : ∀ i, i < 8 → (a.n 4).testBit i = true → s.deepHeadroom (16 * a.n 0 + i) = 0)
    (hfits : a.n 0 < 512 → firstFail (limitChecks s (s.modePlan a.modeAsk) (Config.quadOf (a.n 0))) = none)
    (htime : a.n 6 ≠ 0 → s.netNs < a.modeAsk.time ∧ a.modeAsk.time ≤ 86400 * 1000000000 + s.netNs ∧ s.tick.held.length < 1024) :
    firstFail (s.modeChecks a) = none := by
  have hset2 : (a.n 1).testBit 2 = false := by
    refine Bool.eq_false_iff.2 fun hset => ?_
    have hcarried := modeBits_of_set hbits (by decide) hset
    unfold modeBits at hcarried
    revert hcarried
    split <;> decide
  have hkept : (List.range 8).any (fun i => (a.n 4).testBit i && s.deepHeadroom (16 * a.n 0 + i) != 0) = false := by
    simpa using hforced
  rw [State.modeChecks, List.append_assoc, firstFail_append (firstFail_of_all_false ?own), firstFail_append ?limits]
  case own =>
    rw [hkept]
    simp [hbad, hport, hhidden, hmasks, hdeep, hclr2, hbits, hset2]
  case limits =>
    split
    · exact hfits ‹_›
    · rfl
  by_cases hnow : a.n 6 = 0
  · rw [if_neg (by simp [hnow])]
    rfl
  · obtain ⟨hpast, hrange, hroom⟩ := htime hnow
    rw [if_pos (by simp [hnow])]
    exact firstFail_of_all_false (by simp [State.timeChecks, hpast, hrange, hroom])

theorem portModeSet_now (hacc : Accepts 0x0101 p s) (ha : readParams 0x0101 p.params = a)
    (hchecks : firstFail ((begun 0x0101 p s).modeChecks a) = none) (hnow : a.n 6 = 0) :
    Completes (.portModeSet p) 0x0101 p s ((begun 0x0101 p s).modeNow a.modeAsk) .ok (emitBlock []) := by
  subst ha
  change execPortModeSet p s = _
  unfold execPortModeSet
  exact completes_of_checks hacc hchecks (congrArg (guarded _ _) (if_neg (by simp [hnow])))

theorem portModeSet_later (hacc : Accepts 0x0101 p s) (ha : readParams 0x0101 p.params = a)
    (hchecks : firstFail ((begun 0x0101 p s).modeChecks a) = none) (hlater : a.n 6 ≠ 0) :
    ∃ forced, Completes (.portModeSet p) 0x0101 p s ((begun 0x0101 p s).modeLater a.modeAsk forced).1 .ok
      (emitBlock [(.u 16, ((begun 0x0101 p s).modeLater a.modeAsk forced).2)]) := by
  subst ha
  refine ⟨bitsWhere 8 fun i => ((begun 0x0101 p s).modePlan (readParams 0x0101 p.params).modeAsk).deepHeadroom
    (16 * (readParams 0x0101 p.params).n 0 + i) != 0, ?_⟩
  change execPortModeSet p s = _
  unfold execPortModeSet
  exact completes_of_checks hacc hchecks (congrArg (guarded _ _) (if_pos (by simp [hlater])))

/-! ### PORT_MODE_GET and PORT_STATUS_GET (R82, R367) -/

theorem portModeGet_completes (hacc : Accepts 0x0102 p s) (ha : readParams 0x0102 p.params = a) (hbad : a.bad = false)
    (hport : s.hasPort (a.n 0) = true) :
    Completes (.portModeGet p) 0x0102 p s (begun 0x0102 p s) .ok (emitBlock [ (.u 32, (s.view .macMode (a.n 0)).toNat),
      (.u 32, (s.view .qmQmode (a.n 0)).toNat), (.u 32, (s.view .macModeStat (a.n 0)).toNat), (.u 8, s.fld F.fcCfg_LL_MASK (a.n 0)),
      (.u 16, s.modeHandle (a.n 0)) ]) := by
  subst ha
  change execPortModeGet p s = _
  unfold execPortModeGet
  refine completes_of_checks hacc (firstFail_of_all_false ?_) rfl
  simp [hbad, hport]

/-- The words that PORT_STATUS_GET answers first: MAC_PORT_CFG, MAC_LINK, MAC_STAT, MAC_MODE, MAC_MODE_STAT and QM_PORT_STAT. -/
def State.statusWords (s : State) (port : Nat) : List Nat :=
  [Reg.macPortCfg, .macLink, .macStat, .macMode, .macModeStat, .qmPortStat].map fun r => (s.view r port).toNat

/-- The port's address and enabled patterns, which follow them. -/
def State.statusTail (s : State) (port : Nat) : List (Ty × Nat) :=
  [(.mac, s.fld F.macAddrHi_ADDR port * 2 ^ 32 + s.fld F.macAddrLo_ADDR port), (.u 8, s.fld F.macWakeCtl_PAT_EN port)]

theorem portStatusGet_completes (hacc : Accepts 0x0103 p s) (ha : readParams 0x0103 p.params = a) (hbad : a.bad = false)
    (hport : s.hasPort (a.n 0) = true) :
    Completes (.portStatusGet p) 0x0103 p s (begun 0x0103 p s) .ok (emitBlock (wordFields (s.statusWords (a.n 0)) ++ s.statusTail (a.n 0))) := by
  subst ha
  change execPortStatusGet p s = _
  unfold execPortStatusGet
  refine completes_of_checks hacc (firstFail_of_all_false ?_) rfl
  simp [hbad, hport]

theorem length_statusTail (addr pat : Nat) : (emitFrom [(Ty.mac, addr), (.u 8, pat)] 24).length = 9 := by
  simp [emitFrom, padTo, Ty.align, Ty.size, Ty.encode, numBytes]

/-- The block is 24 bytes of words, 8 of the address, one of the patterns, and 3 of padding (R491). -/
theorem statusBlock_eq (s : State) (port : Nat) :
    ∃ rest : List Byte, rest.length = 12 ∧ emitBlock (wordFields (s.statusWords port) ++ s.statusTail port)
      = (s.statusWords port).flatMap (leBytes 4) ++ rest := by
  have htail : (emitFrom (s.statusTail port) 24).length = 9 := length_statusTail _ _
  have hwords : ((s.statusWords port).flatMap (leBytes 4)).length = 24 := length_words _
  have hpad : padTo 4 ((s.statusWords port).flatMap (leBytes 4) ++ emitFrom (s.statusTail port) 24).length = 3 := by
    rw [List.length_append, hwords, htail]
    rfl
  refine ⟨emitFrom (s.statusTail port) 24 ++ List.replicate 3 0, by simp [htail], ?_⟩
  rw [emitBlock, emitFrom_words _ _ rfl, show 0 + 4 * (s.statusWords port).length = 24 from rfl, hpad, List.append_assoc]

theorem leAt_statusWords (s : State) (port : Nat) (rest : List Byte) {k : Nat} {w : Word} (hk : (s.statusWords port)[k]? = some w.toNat) :
    leAt ((s.statusWords port).flatMap (leBytes 4) ++ rest) (4 * k) 4 = w.toNat :=
  (leAt_words hk rest).trans (Nat.mod_eq_of_lt w.isLt)

/-! ### WAKE_SET (R366) -/

/-- Words written to neighbouring places of a register stand there, and no other register changes. -/
theorem reg_foldl_range (h : RegsWf s) (r : Reg) (base : Nat) (w : Nat → Word) (n : Nat) :
    RegsWf ((List.range n).foldl (fun s k => s.setReg r (base + k) (w k)) s)
    ∧ (∀ k, k < n → ((List.range n).foldl (fun s k => s.setReg r (base + k) (w k)) s).reg r (base + k) = w k)
    ∧ ∀ q j, q ≠ r → ((List.range n).foldl (fun s k => s.setReg r (base + k) (w k)) s).reg q j = s.reg q j := by
  induction n with
  | zero => exact ⟨h, fun k hk => absurd hk (Nat.not_lt_zero k), fun _ _ _ => rfl⟩
  | succ n ih =>
    obtain ⟨hwf, hat, hother⟩ := ih
    rw [List.range_succ, List.foldl_append, List.foldl_cons, List.foldl_nil]
    refine ⟨wf_setReg hwf .., fun k hk => ?_, fun q j hq => (reg_setReg_ne hwf _ fun c => hq c.1).trans (hother q j hq)⟩
    by_cases hkn : k = n
    · subst hkn
      exact reg_setReg_self hwf ..
    · exact (reg_setReg_ne hwf _ fun c => hkn (Nat.add_left_cancel c.2)).trans (hat k (by omega))

/-- Pattern `i` of a port with its mask, length and check, and its enable. -/
def State.setPattern (s : State) (port i : Nat) (en : Bool) (len mask check : Nat) : State :=
  let u := ((List.range 4).foldl (fun s k => s.setReg .macWakeMask (4 * (8 * port + i) + k) (word (mask / 2 ^ (32 * k)))) s).setReg .macWakePcfg
    (8 * port + i) (word (len * 2 ^ 16 + check))
  u.setFld F.macWakeCtl_PAT_EN port (setBits (s.fld F.macWakeCtl_PAT_EN port) i i (b2n en))

/-- A mask of 8 bits with one bit put. -/
theorem testBit_setBit_mod (m i : Nat) (b : Bool) {k : Nat} (hk : k < 8) :
    (setBits m i i (b2n b) % 2 ^ 8).testBit k = if k = i then b else m.testBit k := by
  have hbit := testBit_setBits m i 1 (b2n b) k (by decide)
  rw [Nat.add_sub_cancel] at hbit
  rw [Nat.testBit_mod_two_pow, decide_eq_true hk, Bool.true_and, hbit]
  by_cases hki : k = i
  · subst hki
    rw [if_pos (by omega), if_pos rfl, Nat.sub_self]
    cases b <;> rfl
  · rw [if_neg (by omega), if_neg hki]

theorem setPattern_shows (h : RegsWf s) (port i : Nat) (en : Bool) (len mask check : Nat) :
    (∀ k, k < 4 → (s.setPattern port i en len mask check).reg .macWakeMask (4 * (8 * port + i) + k) = word (mask / 2 ^ (32 * k)))
    ∧ (s.setPattern port i en len mask check).reg .macWakePcfg (8 * port + i) = word (len * 2 ^ 16 + check)
    ∧ (∀ k, k < 8 → ((s.setPattern port i en len mask check).fld F.macWakeCtl_PAT_EN port).testBit k
      = if k = i then en else (s.fld F.macWakeCtl_PAT_EN port).testBit k)
    ∧ ∀ r j, r ≠ .macWakeMask → r ≠ .macWakePcfg → r ≠ .macWakeCtl → (s.setPattern port i en len mask check).reg r j = s.reg r j := by
  obtain ⟨hmaskwf, hmask, hother⟩ := reg_foldl_range h .macWakeMask (4 * (8 * port + i)) (fun k => word (mask / 2 ^ (32 * k))) 4
  have hwf := wf_setReg hmaskwf .macWakePcfg (8 * port + i) (word (len * 2 ^ 16 + check))
  refine ⟨fun k hk => ?_, ?_, fun k hk => ?_, fun r j h1 h2 h3 => ?_⟩
  · exact (reg_setFld_ne hwf _ (by simp [F.macWakeCtl_PAT_EN])).trans ((reg_setReg_ne hmaskwf _ (by simp)).trans (hmask k hk))
  · exact (reg_setFld_ne hwf _ (by simp [F.macWakeCtl_PAT_EN])).trans (reg_setReg_self hmaskwf ..)
  · rw [State.setPattern, fld_setFld_self hwf (by decide)]
    exact testBit_setBit_mod _ i en hk
  · exact (reg_setFld_ne hwf _ fun c => h3 c.1).trans ((reg_setReg_ne hmaskwf _ fun c => h2 c.1).trans (hother r j h1))

theorem wakeSet_completes (hacc : Accepts 0x0104 p s) (ha : readParams 0x0104 p.params = a) (hbad : a.bad = false) (hfront : a.n 0 < 512)
    (hport : s.hasPort (a.n 0) = true) (hhidden : s.hidden (a.n 0) = false) (hpat : a.n 1 ≤ 7) (hlen : 1 ≤ a.n 3) (hmax : a.n 3 ≤ 128)
    (hmask : a.n 4 < 2 ^ a.n 3) (hen : a.f 2 = true → a.n 4 ≠ 0) :
    Completes (.wakeSet p) 0x0104 p s ((begun 0x0104 p s).setPattern (a.n 0) (a.n 1) (a.f 2) (a.n 3) (a.n 4) (a.n 5)) .ok (emitBlock []) := by
  subst ha
  have hhidden' : (begun 0x0104 p s).hidden ((readParams 0x0104 p.params).n 0) = false := hhidden
  have hinside : (readParams 0x0104 p.params).n 4 / 2 ^ (readParams 0x0104 p.params).n 3 = 0 := Nat.div_eq_of_lt hmask
  change execWakeSet p s = _
  unfold execWakeSet
  refine completes_of_checks hacc (firstFail_of_all_false ?_) rfl
  simp [hport, hhidden', hbad, hfront, hpat, Nat.one_le_iff_ne_zero.1 hlen, hmax, hinside]
  simpa using hen

end

/-- Settles O39: each packet passes its checks; what it writes is read back from the registers and the held list, and what it answers stands at
the place of its word. -/
theorem portPacketsAnswer : Obligations.PortPacketsAnswer := by
  refine ⟨?config, ?modeSet, ?modeGet, ?statusGet, ?wakeSet⟩
  case config =>
    intro p a s h hacc ha hbad hfront hport hmode hmin hmax halign hlanes hidle hfits
    obtain ⟨hfMode, hfMfs, hfEn, hpause, hlo, hhi⟩ :=
      portConfig_shows (begun_inv h 0x0100 p) (a.n 0) (a.f 2) (a.n 4) (a.f 5) hmode hmax
    exact ⟨_, portConfig_completes hacc ha hbad hfront hport hmode hmin hmax halign hlanes hidle hfits, hfMode, hfMfs, hfEn, hpause, hlo, hhi⟩
  case modeSet =>
    intro p a k s h hacc ha hbad hk hport hhidden hmasks hdeep hclr2 hbits hforced hfits
    obtain rfl : k = a.modeAsk := hk
    have hinv := begun_inv h 0x0101 p
    refine ⟨fun hnow => ?_, fun hlater hfar hrange hroom => ?_⟩
    · have hset : a.n 1 < 2 ^ 12 := by subst ha; exact readParams_num_lt hbad rfl
      have hchecks := modeChecks_pass (s := begun 0x0101 p s) hbad hport hhidden hmasks hdeep hclr2 hbits hforced hfits
        fun hlater => absurd hnow hlater
      exact ⟨_, portModeSet_now hacc ha hchecks hnow, fun b hb => regBit_modeNow hinv (k := a.modeAsk) hset rfl hbits hb⟩
    · have hchecks := modeChecks_pass (s := begun 0x0101 p s) hbad hport hhidden hmasks hdeep hclr2 hbits hforced hfits
        fun _ => ⟨Nat.lt_of_lt_of_le (Nat.lt_add_of_pos_right (by decide)) hfar, hrange, hroom⟩
      obtain ⟨forced, hcompletes⟩ := portModeSet_later hacc ha hchecks hlater
      obtain ⟨hhandle, hreg, x, hheld, hxh, hxt, hxp, hxa⟩ := modeLater_holds hinv (k := a.modeAsk) hfar forced
      rw [hhandle] at hcompletes
      exact ⟨_, x, hcompletes, hheld, hxh, hxt, hxp, hxa, hreg⟩
  case modeGet =>
    intro p a s hacc ha hbad hport
    exact portModeGet_completes hacc ha hbad hport
  case statusGet =>
    intro p a s hacc ha hbad hport
    obtain ⟨rest, hlen, hblock⟩ := statusBlock_eq s (a.n 0)
    have hwords : ((s.statusWords (a.n 0)).flatMap (leBytes 4)).length = 24 := length_words _
    refine ⟨_, portStatusGet_completes hacc ha hbad hport, ?_⟩
    rw [hblock]
    exact ⟨by rw [List.length_append, hwords, hlen], leAt_statusWords s _ rest (k := 0) rfl, leAt_statusWords s _ rest (k := 1) rfl,
      leAt_statusWords s _ rest (k := 2) rfl, leAt_statusWords s _ rest (k := 3) rfl, leAt_statusWords s _ rest (k := 4) rfl,
      leAt_statusWords s _ rest (k := 5) rfl⟩
  case wakeSet =>
    intro p a s h hacc ha hbad hfront hport hhidden hpat hlen hmax hmask hen
    exact ⟨_, wakeSet_completes hacc ha hbad hfront hport hhidden hpat hlen hmax hmask hen,
      setPattern_shows (s := begun 0x0104 p s) h.regs (a.n 0) (a.n 1) (a.f 2) (a.n 3) (a.n 4) (a.n 5)⟩

end Sys2Proof.Machine

/-!
The codec of parameter blocks (O60): what stands at a place of written bytes, and what is read of a written field.
-/
namespace Sys2Proof.Machine
open Sys2Proof

/-- The values that a parameter of a kind admits (R491, R492). -/
def Ty.admits (t : Ty) (v : Nat) : Prop :=
  match t with
  | .u b => b ≤ 64 ∧ v < 2 ^ b
  | .wide b => v < 2 ^ b
  | .s b => 1 ≤ b ∧ b ≤ 64 ∧ v < 2 ^ (8 * numBytes b) ∧ ofSigned (8 * numBytes b) (toSigned b v) = v
  | .mac => v < 2 ^ 48
  | .ip4 => v < 2 ^ 32
  | .ip6 => v < 2 ^ 128
  | .flag => v < 2
  | .dma => v < 2 ^ 97

theorem pow_256 (n : Nat) : 256 ^ n = 2 ^ (8 * n) := by rw [show 256 = 2 ^ 8 from rfl, ← pow_mul]

theorem le_numBytes {b : Nat} (h : b ≤ 64) : b ≤ 8 * numBytes b := by
  unfold numBytes
  split_ifs <;> omega

theorem le_cdiv_16 (b : Nat) : b ≤ 8 * (2 * cdiv b 16) := by
  unfold cdiv
  omega

theorem leNat_replicate_zero (n : Nat) : leNat (List.replicate n 0) = 0 := by
  induction n with
  | zero => rfl
  | succ n ih => rw [List.replicate_succ, leNat, ih]; rfl

theorem beNat_reverse (bs : List Byte) : beNat bs.reverse = leNat bs := by
  rw [beNat, List.foldl_reverse]
  induction bs with
  | nil => rfl
  | cons b t ih => rw [List.foldr_cons, ih, leNat, Nat.add_comm]

theorem beNat_beBytes {n v : Nat} (h : v < 256 ^ n) : beNat (beBytes n v) = v := by
  rw [beBytes, beNat_reverse, leNat_leBytes, Nat.mod_eq_of_lt h]

/-- A slice of the length of the bytes that stand at its place gives these bytes. -/
theorem slice_between (pre bs rest : List Byte) : slice (pre ++ (bs ++ rest)) pre.length bs.length = bs := by
  rw [slice, List.drop_left, List.take_left, Nat.sub_self, List.replicate_zero, List.append_nil]

section
variable {t : Ty} {v : Nat}

theorem Ty.length_encode (t : Ty) (v : Nat) : (t.encode v).length = t.size := by
  cases t <;> simp [Ty.encode, Ty.size]

/-- The kinds whose bytes spell a number, least significant byte first. -/
def Ty.isNumber : Ty → Bool
  | .mac | .ip4 | .ip6 => false
  | _ => true

theorem Ty.lt_of_admits (hn : t.isNumber = true) (h : t.admits v) : v < 256 ^ t.size := by
  rw [pow_256]
  cases t with
  | u b => exact h.2.trans_le (Nat.pow_le_pow_right (by decide) (le_numBytes h.1))
  | wide b => exact Nat.lt_of_lt_of_le h (Nat.pow_le_pow_right (by decide) (le_cdiv_16 b))
  | s b => exact h.2.2.1
  | flag => exact Nat.lt_of_lt_of_le h (by decide)
  | dma => exact Nat.lt_of_lt_of_le h (by decide)
  | mac | ip4 | ip6 => cases hn

theorem Ty.leNat_encode (hn : t.isNumber = true) (h : t.admits v) : leNat (t.encode v) = v := by
  have he : t.encode v = leBytes t.size v := by
    cases t with
    | mac | ip4 | ip6 => cases hn
    | _ => rfl
  rw [he, leNat_leBytes, Nat.mod_eq_of_lt (t.lt_of_admits hn h)]

theorem Ty.decode_encode (h : t.admits v) : t.decode (t.encode v) = v := by
  cases t with
  | mac =>
    rw [Ty.decode, Ty.encode, List.take_left' (beBytes_length 6 v)]
    exact beNat_beBytes h
  | ip4 => exact beNat_beBytes h
  | ip6 => exact beNat_beBytes h
  | _ => exact Ty.leNat_encode rfl h

theorem Ty.reservedBad_encode (h : t.admits v) : t.reservedBad (t.encode v) = false := by
  cases t with
  | mac =>
    rw [Ty.reservedBad, Ty.encode, List.drop_left' (beBytes_length 6 v)]
    rfl
  | ip4 | ip6 => rfl
  | s b =>
    rw [Ty.reservedBad, Ty.leNat_encode rfl h]
    exact decide_eq_false (not_not.2 h.2.2.2)
  | u b =>
    rw [Ty.reservedBad, Ty.leNat_encode rfl h]
    exact decide_eq_false (Nat.not_le.2 h.2)
  | _ =>
    rw [Ty.reservedBad, Ty.leNat_encode rfl h]
    exact decide_eq_false (Nat.not_le.2 h)

/-- Written fields stand where their layout is read: each at its multiple, after zero bytes. -/
theorem parseFrom_emitFrom (fs : List (Ty × Nat)) (h : ∀ f ∈ fs, f.1.admits f.2) (pre rest : List Byte) :
    parseFrom (pre ++ (emitFrom fs pre.length ++ rest)) (fs.map (·.1)) pre.length
      = { vals := fs.map (·.2), bad := false, size := pre.length + (emitFrom fs pre.length).length } := by
  induction fs generalizing pre with
  | nil => rfl
  | cons f fs ih =>
    obtain ⟨t, v⟩ := f
    have hv : t.admits v := h (t, v) List.mem_cons_self
    have hpad : ∀ n (l : List Byte), slice (pre ++ (List.replicate n 0 ++ l)) pre.length n = List.replicate n 0 := fun n l => by
      simpa only [List.length_replicate] using slice_between pre (List.replicate n 0) l
    have hfield : ∀ n (l : List Byte), slice (pre ++ (List.replicate n 0 ++ (t.encode v ++ l))) (pre.length + n) t.size = t.encode v := fun n l => by
      have hslice := slice_between (pre ++ List.replicate n 0) (t.encode v) l
      rwa [List.append_assoc, List.length_append, List.length_replicate, Ty.length_encode] at hslice
    have hrest := ih (fun f hf => h f (List.mem_cons_of_mem _ hf)) (pre ++ (List.replicate (padTo t.align pre.length) 0 ++ t.encode v))
    simp only [List.append_assoc, List.length_append, List.length_replicate, Ty.length_encode, ← Nat.add_assoc] at hrest
    simp only [List.map_cons, parseFrom, emitFrom, List.append_assoc, hpad, hfield, hrest, leNat_replicate_zero, Ty.decode_encode hv,
      Ty.reservedBad_encode hv, List.length_append, List.length_replicate, Ty.length_encode, ← Nat.add_assoc]
    rfl

end

/-- Settles O60, by induction on the fields: what stands before a field in the block is as long as the offset at which it is read. -/
theorem parameterBlocksRoundTrip : Obligations.ParameterBlocksRoundTrip := by
  unfold Obligations.ParameterBlocksRoundTrip
  intro fs h
  have hfields := parseFrom_emitFrom fs (fun f hf => h f.1 f.2 hf) [] (List.replicate (padTo 4 (emitFrom fs 0).length) 0)
  simp only [List.nil_append, List.length_nil, Nat.zero_add] at hfields
  have hpad := slice_between (emitFrom fs 0) (List.replicate (padTo 4 (emitFrom fs 0).length) 0) []
  simp only [List.append_nil, List.length_replicate] at hpad
  simp only [parseBlock, emitBlock, hfields, hpad, leNat_replicate_zero, List.length_append, List.length_replicate]
  rfl

end Sys2Proof.Machine

/-!
Packets with a faulty header (O59): firmware's reply to the first header check that fails.
-/
namespace Sys2Proof.Machine
open Sys2Proof

theorem firstFail_of_true {b : Bool} (e : Status) (t : List (Bool × Status)) (h : b = true) : firstFail ((b, e) :: t) = some e := by
  rw [h, firstFail]

theorem firstFail_of_false {b : Bool} (e : Status) (t : List (Bool × Status)) (h : b = false) : firstFail ((b, e) :: t) = firstFail t := by
  rw [h, firstFail]

section
variable {op : Nat} {p : Packet} {s : State} {c : Packet → Instr}

/-- A packet is new to a firmware that consumes and restores nothing. -/
structure Consumed (op : Nat) (p : Packet) (s : State) : Prop where
  running : s.fwRunning = true
  consuming : s.boot.switchAt = none
  noRestore : s.shadow = none
  fresh : s.takenOf op p = none

theorem runPacket_of_consumed (h : Consumed op p s) (body : Args → State → Res) :
    runPacket op p body s = .next (consume op p (s.incarnation p.chan) (lengthBad op p.params)
      (runConsumed op p (s.incarnation p.chan) (body (readParams op p.params))) s) := by
  simp [runPacket, h.running, h.consuming, h.noRestore, h.fresh]

theorem runPacket_of_full (h : Consumed op p s) (hfull : 64 ≤ s.waiting p.chan) (body : Args → State → Res) :
    runPacket op p body s = .next (s.logEvent 0x4005 (leBytes 4 p.chan ++ leBytes 4 p.tag)) := by
  rw [runPacket_of_consumed h, consume, if_pos hfull]

theorem runPacket_of_refused (h : Consumed op p s) (hroom : s.waiting p.chan < 64) {e : Status}
    (hfail : firstFail (headerChecks s op p (lengthBad op p.params)) = some e) (body : Args → State → Res) :
    runPacket op p body s = .next (s.reply (mkReply s op p (s.incarnation p.chan) e [])) := by
  rw [runPacket_of_consumed h, consume, if_neg (Nat.not_le.2 hroom), hfail]

/-- The packets of O59: of each group a plain one, a secure-only one, or one that boot code answers. -/
def HeaderSample (c : Packet → Instr) (op : Nat) : Prop :=
  (c, op) ∈ [(Instr.echo, 0x0002), (.portConfig, 0x0100), (.cbRetire, 0x0508), (.timeSet, 0x0901), (.fwActivate, 0x0C01), (.ksWrite, 0x0D00)]

theorem headerSample_iff : HeaderSample c op ↔ (c = .echo ∧ op = 0x0002) ∨ (c = .portConfig ∧ op = 0x0100) ∨ (c = .cbRetire ∧ op = 0x0508)
    ∨ (c = .timeSet ∧ op = 0x0901) ∨ (c = .fwActivate ∧ op = 0x0C01) ∨ (c = .ksWrite ∧ op = 0x0D00) := by
  simp only [HeaderSample, List.mem_cons, List.not_mem_nil, Prod.mk.injEq, or_false]

theorem exec_headerSample (h : HeaderSample c op) (p : Packet) (s : State) : ∃ body, exec (c p) s = runPacket op p body s := by
  obtain ⟨rfl, rfl⟩ | ⟨rfl, rfl⟩ | ⟨rfl, rfl⟩ | ⟨rfl, rfl⟩ | ⟨rfl, rfl⟩ | ⟨rfl, rfl⟩ := headerSample_iff.1 h
  · exact ⟨_, (rfl : _ = execEcho p s)⟩
  · exact ⟨_, (rfl : _ = execPortConfig p s)⟩
  · exact ⟨_, (rfl : _ = execCbRetire p s)⟩
  · exact ⟨_, (rfl : _ = execTimeSet p s)⟩
  · exact ⟨_, (rfl : _ = execFwActivate p s)⟩
  · exact ⟨_, (rfl : _ = execKsWrite p s)⟩

/-- What R507 and R587 say of the opcodes of the samples. -/
theorem opcode_headerSample (h : HeaderSample c op) :
    op ≠ 0x0001 ∧ opcodeKnown op = true ∧ (op ∈ recoveryOpcodes ↔ op ∈ [0x0002, 0x0C01])
      ∧ (op ∈ secureOnly ↔ op ∈ [0x0508, 0x0C01, 0x0D00]) := by
  obtain ⟨-, rfl⟩ | ⟨-, rfl⟩ | ⟨-, rfl⟩ | ⟨-, rfl⟩ | ⟨-, rfl⟩ | ⟨-, rfl⟩ := headerSample_iff.1 h <;> decide

end

/-- Settles O59: each clause names the first of the header checks that fails. -/
theorem faultyHeadersAreRefused : Obligations.FaultyHeadersAreRefused := by
  unfold Obligations.FaultyHeadersAreRefused
  intro c op p no s hmem hrun hcons hshadow hfresh hno
  obtain ⟨body, hexec⟩ := exec_headerSample hmem p s
  obtain ⟨hop, hknown, hrecovery, hsecure⟩ := opcode_headerSample hmem
  have hc : Consumed op p s := ⟨hrun, hcons, hshadow, hfresh⟩
  refine ⟨fun hfull => ⟨_, hexec.trans (runPacket_of_full hc hfull body), rfl, rfl⟩, fun hroom => ?_⟩
  have refused : ∀ e, firstFail (headerChecks s op p (lengthBad op p.params)) = some e → no e s := fun e he => by
    rw [hno]
    exact hexec.trans (runPacket_of_refused hc hroom he body)
  have hversion : s.versionOk p.version = true → (!s.versionOk p.version && op != 0x0001) = false := fun h => by simp [h]
  refine ⟨fun hv => refused _ (firstFail_of_true _ _ (by simp [hv, hop])), fun hv => ?_⟩
  have refused := fun e he => refused e ((firstFail_of_false _ _ (hversion hv)).trans he)
  refine ⟨fun hr hnot => refused _ (firstFail_of_true _ _ (by simp [hr, hrecovery, hnot, -List.mem_cons])), fun hr => ?_⟩
  have hboot : (!opcodeKnown op || (s.flag F.protBoot_RECOVERY 0 && !recoveryOpcodes.contains op)) = false := by
    rcases hr with hr | hr <;> simp [hknown, hr, hrecovery, -List.mem_cons]
  have refused := fun e he => refused e ((firstFail_of_false _ _ hboot).trans he)
  refine ⟨fun hl => refused _ (firstFail_of_true _ _ (by simpa [or_assoc] using hl)), fun hlong hfour hlen => ?_⟩
  have refused := fun e he => refused e ((firstFail_of_false _ _ (by simp [hlong, hfour, hlen])).trans he)
  refine ⟨fun hz => refused _ (firstFail_of_true _ _ (by simpa using hz)), fun hflags hzero => ?_⟩
  have refused := fun e he => refused e ((firstFail_of_false _ _ (by simp [hflags, hzero])).trans he)
  refine ⟨fun hch hsec => refused _ (firstFail_of_true _ _ (by simp [hch, hsecure, hsec, -List.mem_cons])), fun hperm => ?_⟩
  have hright : (secureOnly.contains op && decide (3 < p.chan)) = false := by
    rcases hperm with hch | hnot
    · simp [hch]
    · simp [hsecure, hnot, -List.mem_cons]
  have refused := fun e he => refused e ((firstFail_of_false _ _ hright).trans he)
  refine ⟨fun htag => refused _ (firstFail_of_true _ _ (by simpa using htag)), fun htag hq => ?_⟩
  exact refused _ ((firstFail_of_false _ _ (by simpa using htag)).trans (firstFail_of_true _ _ (by simpa using hq)))

end Sys2Proof.Machine

/-!
Writes of TS_SLEW_COUNT, TS_SLEW_DELTA and TS_INC_NS that meet in a slot (O58): what the slot edge leaves of the increment and of the slew.
-/
namespace Sys2Proof.Machine
open Sys2Proof

/-! ### What governs the addition of a slot -/

/-- The increment, and the slots and DELTA of the slew: what governs the addition of a slot (R405). -/
def TimeEng.rate (t : TimeEng) : Nat × Nat × Int := (t.inc, t.slewLeft, t.slewDelta)

theorem rate_eq_iff {t : TimeEng} {inc left : Nat} {delta : Int} :
    t.rate = (inc, left, delta) ↔ t.inc = inc ∧ t.slewLeft = left ∧ t.slewDelta = delta := by simp [TimeEng.rate]

theorem setArm_rate (t : TimeEng) (o b : Bool) : (t.setArm o b).rate = t.rate := by unfold TimeEng.setArm; split <;> rfl
theorem setBase_rate (t : TimeEng) (o : Bool) (b : NetBase) : (t.setBase o b).rate = t.rate := by unfold TimeEng.setBase; split <;> rfl

theorem loadBase_rate (s : State) (o : Bool) (b : NetBase) : (s.loadBase o b).time.rate = s.time.rate := by
  unfold State.loadBase
  dsimp only
  split
  · exact setBase_rate _ _ _
  · exact (setArm_rate _ _ _).trans (setBase_rate _ _ _)

theorem loadEdge_rate (s : State) : s.loadEdge.time.rate = s.time.rate := by
  unfold State.loadEdge
  split
  · exact loadBase_rate _ _ _
  · rfl

theorem wrapTest_rate (s : State) : s.wrapTest.time.rate = s.time.rate := by
  unfold State.wrapTest
  dsimp only
  split
  · split <;> exact setArm_rate _ _ _
  · split <;> rfl

/-- A wrap and a base load leave the increment and the slew alone. -/
theorem timeEdge_rate (s : State) : s.timeEdge.time.rate = s.advanced.time.rate := by
  unfold State.timeEdge
  split
  · rw [loadEdge_rate, wrapTest_rate]
  · rw [loadEdge_rate]

theorem slotEdge_rate {s : State} (h : s.tick.locked = true) : (slotEdge s).time.rate = s.advanced.time.rate := by
  rw [slotEdge_time h, timeEdge_rate]

theorem incEdge_rate (s : State) : s.incEdge.time.rate = (s.time.incPend.getD s.time.inc, s.time.slewLeft, s.time.slewDelta) := by
  unfold State.incEdge
  split
  · next h => rw [h]; rfl
  · next h => rw [h]; rfl

theorem slewEdge_rate (s : State) : s.slewEdge.time.rate = (s.time.inc, s.time.slewPend.getD (s.time.slewLeft - 1),
    if s.time.slewPend.isSome then slewDeltaOf (s.reg .tsSlewDelta 0) else s.time.slewDelta) := by
  unfold State.slewEdge
  split
  · next h => rw [h]; rfl
  · next h =>
    rw [h]
    dsimp only
    split <;> rfl

theorem slewEdge_incPend (s : State) : s.slewEdge.time.incPend = s.time.incPend := by
  obtain ⟨_, _, _, hframe⟩ := slewEdge_frame s
  rw [hframe]

theorem counted_reg_slewDelta {s : State} (h : Inv s) : s.counted.reg .tsSlewDelta 0 = s.reg .tsSlewDelta 0 :=
  (counted_keeps h).within.regs _ _ (by decide)

/-- After a slot the committed increment and the written slew govern; without a write the slew is one slot shorter (R406 to R408). -/
theorem advanced_rate {s : State} (h : Inv s) : s.advanced.time.rate = (s.time.incPend.getD s.time.inc, s.time.slewPend.getD (s.time.slewLeft - 1),
    if s.time.slewPend.isSome then slewDeltaOf (s.reg .tsSlewDelta 0) else s.time.slewDelta) := by
  have hslew := slewEdge_rate s.counted
  rw [counted_reg_slewDelta h, counted_time] at hslew
  obtain ⟨hinc, hleft, hdelta⟩ := rate_eq_iff.1 hslew
  rw [State.advanced, incEdge_rate, slewEdge_incPend, hinc, hleft, hdelta, counted_time]
  rfl

theorem rawInc_of_rate {t : TimeEng} {inc left : Nat} {delta : Int} (h : t.rate = (inc, left, delta)) :
    t.rawInc = (inc : Int) + (if left = 0 then 0 else delta) := by
  obtain ⟨hinc, hleft, hdelta⟩ := rate_eq_iff.1 h
  rw [TimeEng.rawInc, hinc, hleft, hdelta]

/-- A write of TS_SLEW_COUNT keeps the slew's end from setting SLEW_DONE (R408). -/
theorem timeEdge_slewDone_of_written {s : State} (h : Inv s) (hp : s.time.slewPend.isSome = true) :
    s.timeEdge.flag F.tsStat_SLEW_DONE 0 = s.flag F.tsStat_SLEW_DONE 0 := by
  have hclamp : s.clamped.flag F.tsStat_SLEW_DONE 0 = s.flag F.tsStat_SLEW_DONE 0 := by
    unfold State.clamped
    split
    · exact flag_raise_other h.regs (by decide) 0 rfl (by decide)
    · rfl
  have hslew : s.advanced.regs = s.clamped.regs := by
    obtain ⟨n, hn⟩ := Option.isSome_iff_exists.1 (show s.counted.time.slewPend.isSome = true by rw [counted_time]; exact hp)
    rw [State.advanced, State.slewEdge, hn]
    unfold State.incEdge
    split <;> rfl
  unfold State.timeEdge
  rw [loadEdge_slewDone (wrapTested_keeps h).regs, ← hclamp, ← flag_of_regs hslew]
  split
  · exact wrapTest_slewDone (advanced_keeps h).regs
  · rfl

/-! ### The writes of the control complex -/

section
variable {s : State}

/-- A write of TS_SLEW_COUNT by the control complex, which owns the time registers. -/
def State.slewWritten (s : State) (v : Word) : State := (s.noteWrite .tsSlewCount 0 0xFFFFFFFF 0).writeSlewCount v

theorem exec_slewStart_cc (hown : s.flag F.tsCtl_HOST_OWN 0 = false) (v : Word) : exec (.slewStart .cc v) s = .next (s.slewWritten v) := by
  rw [slewStart_of_none rfl, if_pos (by simp [State.ownsTime, hown])]
  rfl

theorem exec_tsIncCommit_cc (hown : s.flag F.tsCtl_HOST_OWN 0 = false) (v : Word) : exec (.tsIncCommit .cc v) s = .next (s.writeIncNs v) := by
  rw [tsIncCommit_of_none rfl, if_pos (by simp [State.ownsTime, hown])]

theorem slewWritten_time (v : Word) : (s.slewWritten v).time = { s.time with slewPend := some v.toNat } := by
  rw [State.slewWritten, writeSlewCount_time, noteWrite_time]

theorem slewWritten_keeps (h : Inv s) (v : Word) : Keeps ⟨[.time, .meet, .cnt], [.glbStat, .glbUpdInfo], false⟩ s (s.slewWritten v) := by
  have hnote := keeps_noteWrite (M := ⟨[.time, .meet, .cnt], [.glbStat, .glbUpdInfo], false⟩) (keeps_self h) (r := .tsSlewCount) (i := 0) (mask := 0xFFFFFFFF)
    (party := 0) (by decide)
  exact keeps_time _ (fun hw => hw) hnote (by decide)

theorem writeIncNs_time (v : Word) :
    (s.writeIncNs v).time = { s.time with incPend := some (v.toNat % 256 * 2 ^ 32 + s.time.incShadow) } := rfl

/-- A plain write of a register all of whose bits are RW puts the written word. -/
theorem reg_plainWrite_full (h : RegsWf s) {r : Reg} (hrw : word r.desc.rw = BitVec.allOnes 32) (hw1c : r.desc.w1c = 0) (i : Nat) (v : Word) :
    (s.plainWrite r i v).reg r i = v := by
  have hne : r.desc.rw ≠ 0 := fun h0 => absurd (h0 ▸ hrw) (by decide)
  rw [plainWrite_eq, if_pos hw1c, State.rwWrite, if_neg hne, reg_setReg_self h, hrw, BitVec.not_allOnes, BitVec.and_zero, BitVec.zero_or, BitVec.and_allOnes]

/-- The control complex's write of TS_SLEW_DELTA puts the written word and touches nothing of the time engine. -/
theorem exec_slewDelta_cc (h : Inv s) (hown : s.flag F.tsCtl_HOST_OWN 0 = false) (v : Word) :
    ∃ t, exec (.registerWrite .cc (Reg.tsSlewDelta.offset 0) [v] true) s = .next t ∧ Inv t ∧ t.time = s.time ∧ t.tick = s.tick
      ∧ t.reg .tsSlewDelta 0 = v := by
  have hpres : s.regPresent .tsSlewDelta 0 = true := rfl
  have hrst : s.inReset .tsSlewDelta 0 = false := by
    unfold State.inReset
    split
    · rfl
    · split <;> rfl
  have hwrite : s.writeReg .cc 0 .tsSlewDelta 0 v = (s.noteWrite .tsSlewDelta 0 0xFFFFFFFF 0).plainWrite .tsSlewDelta 0 v := by
    unfold State.writeReg
    rw [if_neg (by rw [answers_of_present hpres hrst (by decide)]; decide), if_neg (by decide), if_neg (by decide),
      if_neg (by simp [State.ownsTime, hown])]
    rfl
  have hnote := keeps_noteWrite (M := noteChange) (keeps_self h) (r := .tsSlewDelta) (i := 0) (mask := 0xFFFFFFFF) (party := 0) (by decide)
  have htime : ((s.noteWrite .tsSlewDelta 0 0xFFFFFFFF 0).plainWrite .tsSlewDelta 0 v).time = s.time := by
    rw [plainWrite_time, noteWrite_time]
  have htick : ((s.noteWrite .tsSlewDelta 0 0xFFFFFFFF 0).plainWrite .tsSlewDelta 0 v).tick = s.tick := hnote.within.tick rfl
  refine ⟨_, registerWrite_of_busWrite (by decide) ((busWrite_main (by decide) (by decide +kernel) v s).trans (congrArg some hwrite)),
    ⟨plainWrite_wf hnote.regs _ _ _, htick ▸ h.slot, htime ▸ h.whorl⟩, htime, htick, ?_⟩
  exact reg_plainWrite_full hnote.regs (by decide) rfl 0 v

/-- The edge of the slot that ends with the queue empty: the addition, and what governs the next one. -/
theorem step_of_emptied (h : Inv s) (hl : s.tick.locked = true) : ∃ u, step { s with pending := [] } = .next u
    ∧ u.time.whorl = (s.time.whorl + s.time.effInc) % 2 ^ 64
    ∧ u.time.rate = (s.time.incPend.getD s.time.inc, s.time.slewPend.getD (s.time.slewLeft - 1),
      if s.time.slewPend.isSome then slewDeltaOf (s.reg .tsSlewDelta 0) else s.time.slewDelta)
    ∧ (s.time.slewPend.isSome = true → u.flag F.tsStat_SLEW_DONE 0 = s.flag F.tsStat_SLEW_DONE 0) := by
  have hinv : Inv { s with pending := [] } := ⟨h.regs, h.slot, h.whorl⟩
  have hlock : ({ s with pending := [] } : State).tick.locked = true := hl
  refine ⟨_, step_of_idle rfl, ?_, ?_, fun hp => ?_⟩
  · rw [slotEdge_time hlock, timeEdge_whorl]
  · exact (slotEdge_rate hlock).trans (advanced_rate hinv)
  · rw [slotEdge_flag_tsStat hinv hlock rfl]
    exact timeEdge_slewDone_of_written hinv hp

theorem effInc_of_bounds {t : TimeEng} (hlo : (Config.incMin : Int) ≤ t.rawInc) (hhi : t.rawInc ≤ Config.incMax) : (t.effInc : Int) = t.rawInc := by
  unfold TimeEng.effInc
  rw [if_neg (by omega), if_neg (by omega)]
  exact Int.toNat_of_nonneg ((by decide : (0 : Int) ≤ Config.incMin).trans hlo)

end

/-- Both writes of a slot, in either order, have put the increment and the slew that wait for the edge. -/
theorem step_of_bothWritten {s t : State} {inc : Nat} {v : Word} (ht : Inv t) (hl : t.tick.locked = true)
    (htime : t.time = { s.time with incPend := some inc, slewPend := some v.toNat }) (hdelta : t.reg .tsSlewDelta 0 = s.reg .tsSlewDelta 0) :
    ∃ x, step { t with pending := [] } = .next x ∧ x.time.whorl = (s.time.whorl + s.time.effInc) % 2 ^ 64 ∧ x.time.inc = inc
      ∧ x.time.slewLeft = v.toNat ∧ (v ≠ 0 → x.time.rawInc = inc + slewDeltaOf (s.reg .tsSlewDelta 0)) ∧ (v = 0 → x.time.rawInc = inc) := by
  obtain ⟨x, hstep, hwhorl, hrate, -⟩ := step_of_emptied ht hl
  rw [htime, hdelta] at hrate
  rw [htime] at hwhorl
  have hrate : x.time.rate = (inc, v.toNat, slewDeltaOf (s.reg .tsSlewDelta 0)) := hrate
  obtain ⟨hinc, hleft, -⟩ := rate_eq_iff.1 hrate
  refine ⟨x, hstep, hwhorl, hinc, hleft, fun hv => ?_, fun hv => ?_⟩
  · rw [rawInc_of_rate hrate, if_neg (show v.toNat ≠ 0 from fun h0 => hv (BitVec.eq_of_toNat_eq h0))]
  · rw [rawInc_of_rate hrate, hv]
    exact Int.add_zero _

/-- Settles O58: each clause is what waits at the edge, which `step_of_emptied` then puts in force. -/
theorem slewAndIncrementWritesMeet : Obligations.SlewAndIncrementWritesMeet := by
  refine ⟨fun v s h hl _ hown => ?count, fun v s h hl hp hown => ?delta, fun w v inc s h hl hown hinc => ⟨?incFirst, ?slewFirst⟩,
    fun w s h hl hown h1 hp hlo hhi => ?last⟩
  case count =>
    have hk := slewWritten_keeps h v
    obtain ⟨u, hstep, hwhorl, hrate, hdone⟩ := step_of_emptied (keeps_inv hk) (by rw [hk.within.tick rfl]; exact hl)
    have hflag : (s.slewWritten v).flag F.tsStat_SLEW_DONE 0 = s.flag F.tsStat_SLEW_DONE 0 := flag_of_reg (hk.within.regs .tsStat 0 (by decide))
    rw [slewWritten_time, hk.within.regs .tsSlewDelta 0 (by decide)] at hrate
    rw [slewWritten_time] at hwhorl hdone
    obtain ⟨-, hleft, hdelta⟩ := rate_eq_iff.1 hrate
    exact ⟨_, u, exec_slewStart_cc hown v, hstep, hleft, hdelta, (hdone rfl).trans hflag, hwhorl⟩
  case delta =>
    obtain ⟨t, hexec, hinv, htime, htick, hreg⟩ := exec_slewDelta_cc h hown v
    obtain ⟨u, hstep, -, hrate, -⟩ := step_of_emptied hinv (by rw [htick]; exact hl)
    rw [htime, hp] at hrate
    obtain ⟨-, hleft, hdelta⟩ := rate_eq_iff.1 hrate
    exact ⟨t, u, hexec, hreg, hstep, hdelta, hleft⟩
  case incFirst =>
    have ht : Inv (s.writeIncNs w) := ⟨h.regs, h.slot, h.whorl⟩
    have hk := slewWritten_keeps ht v
    obtain ⟨x, hx⟩ := step_of_bothWritten (s := s) (inc := inc) (v := v) (keeps_inv hk) (by rw [hk.within.tick rfl]; exact hl)
      (by rw [slewWritten_time, writeIncNs_time, hinc]) (hk.within.regs .tsSlewDelta 0 (by decide))
    exact ⟨_, _, x, exec_tsIncCommit_cc hown w, exec_slewStart_cc (s := s.writeIncNs w) hown v, hx⟩
  case slewFirst =>
    have hk := slewWritten_keeps h v
    have hown' : (s.slewWritten v).flag F.tsCtl_HOST_OWN 0 = false := (flag_of_reg (hk.within.regs .tsCtl 0 (by decide))).trans hown
    have hinv := keeps_inv hk
    obtain ⟨x, hx⟩ := step_of_bothWritten (s := s) (t := (s.slewWritten v).writeIncNs w) (inc := inc) (v := v) ⟨hinv.regs, hinv.slot, hinv.whorl⟩
      ((congrArg Tick.locked (hk.within.tick rfl)).trans hl) (by rw [writeIncNs_time, slewWritten_time, hinc]) (hk.within.regs .tsSlewDelta 0 (by decide))
    exact ⟨_, _, x, exec_slewStart_cc hown v, exec_tsIncCommit_cc hown' w, hx⟩
  case last =>
    obtain ⟨u, hstep, hwhorl, hrate, -⟩ := step_of_emptied (s := s.writeIncNs w) ⟨h.regs, h.slot, h.whorl⟩ hl
    rw [writeIncNs_time, hp, h1] at hrate
    obtain ⟨hinc, hleft, -⟩ := rate_eq_iff.1 hrate
    have hraw : s.time.rawInc = s.time.inc + s.time.slewDelta := by rw [TimeEng.rawInc, h1, if_neg (by decide)]
    have heff : (s.time.effInc : Int) = s.time.inc + s.time.slewDelta := hraw ▸ effInc_of_bounds (hraw ▸ hlo) (hraw ▸ hhi)
    refine ⟨_, u, exec_tsIncCommit_cc hown w, hstep, hleft, ?_, hinc⟩
    rw [hwhorl, ← heff]
    exact_mod_cast rfl

end Sys2Proof.Machine

/-!
The whorl through the resets (O57): what the resets clear of the data path, the packets and the host interface leaves the time engine alone.
-/
namespace Sys2Proof.Machine
open Sys2Proof

/-! ### Copies cut by a reset -/

theorem time_ite {c : Prop} [Decidable c] {a b s : State} (ha : a.time = s.time) (hb : b.time = s.time) : (if c then a else b).time = s.time := by
  split
  · exact ha
  · exact hb

theorem drop_time (s : State) (p code : Nat) : (s.drop p code).time = s.time := by unfold State.drop; split <;> rfl

theorem onCopy_time (s : State) (fid port : Nat) (g : Copy → Copy) : (s.onCopy fid port g).time = s.time := rfl

theorem onFrame_time (s : State) (id : Nat) (g : Frame → Frame) : (s.onFrame id g).time = s.time := rfl

theorem toWalker_time (s : State) (sl : Nat) (cells : List Nat) (qu : Nat) : (s.toWalker sl cells qu).time = s.time := by
  unfold State.toWalker
  split
  · rfl
  · exact foldl_part (·.time) (fun s c => by dsimp only; split <;> rfl) cells s

theorem openPages_time (q fuel : Nat) (h : Hank) (s : State) : (State.openPages q fuel h s).2.time = s.time := by
  induction fuel generalizing h s with
  | zero => rfl
  | succ fuel ih =>
    rw [State.openPages]
    split
    · split
      · exact ih _ _
      · rfl
    · split
      · rfl
      · split
        · rfl
        · split
          · rfl
          · exact ih _ _

theorem putHank_time (s : State) (q qu : Nat) (h : Hank) : (s.putHank q qu h).time = s.time := openPages_time q 40 h s

theorem rbDrop_time (s : State) (sl qu pool : Nat) (r : HankRec) (code : Nat) : (s.rbDrop sl qu pool r code).time = s.time :=
  (drop_time _ _ _).trans (toWalker_time _ _ _ _)

theorem hankLose_time (s : State) (qu fid code : Nat) : (s.hankLose qu fid code).time = s.time := by
  unfold State.hankLose
  split
  · rfl
  · split
    · rfl
    · exact (putHank_time _ _ _ _).trans (rbDrop_time _ _ _ _ _ _)

theorem surplus_time (s : State) (sl b vq : Nat) (cells : List Nat) : (s.surplus sl b vq cells).time = s.time :=
  (toWalker_time _ _ _ _).trans (foldl_part (·.time) (by intros; rfl) cells s)

theorem giveBack_time (s : State) (c : Copy) : (s.giveBack c).time = s.time := (surplus_time _ _ _ _ _).trans (toWalker_time _ _ _ _)

theorem dropCopy_time (s : State) (c : Copy) (code : Nat) : (s.dropCopy c code).time = s.time := (drop_time _ _ _).trans (giveBack_time _ _)

theorem undoCommit_time (s : State) (c : Commit) : (s.undoCommit c).time = s.time := by
  unfold State.undoCommit
  split
  · rfl
  · dsimp only
    split
    · rfl
    · exact hankLose_time _ _ _ _
    · exact surplus_time _ _ _ _ _
    · rfl

theorem purge_time (s : State) (fid port : Nat) : (s.purge fid port).time = s.time := foldl_part (·.time) undoCommit_time _ s

theorem loseCopy_time (s : State) (fid port code : Nat) : (s.loseCopy fid port code).time = s.time := by
  unfold State.loseCopy
  dsimp only
  split
  · exact (dropCopy_time _ _ _).trans (purge_time _ _ _)
  · split
    · exact (hankLose_time _ _ _ _).trans (purge_time _ _ _)
    · exact purge_time _ _ _

theorem chargeShapers_time (s : State) (p qu : Nat) (bytes : Int) : (s.chargeShapers p qu bytes).time = s.time :=
  foldl_part (·.time) (fun s k => by split <;> rfl) _ s

theorem withdraw_time (s : State) (p : Nat) : (s.withdraw p).time = s.time := by
  unfold State.withdraw
  split
  · rfl
  · dsimp only
    split
    · rfl
    · refine (onCopy_time _ _ _ _).trans (time_ite ?_ ?_)
      · exact chargeShapers_time _ _ _ _
      · exact chargeShapers_time _ _ _ _

theorem lateDrop_time (s : State) (fid port code : Nat) : (s.lateDrop fid port code).time = s.time := by
  have hnext : ∀ next : Bool, (if next then s.withdraw port else s).time = s.time := fun next => time_ite (withdraw_time _ _) rfl
  unfold State.lateDrop
  refine time_ite rfl (time_ite ?_ (time_ite ?_ ?_))
  · exact (loseCopy_time _ _ _ _).trans (hnext _)
  · exact (drop_time _ _ _).trans ((purge_time _ _ _).trans (hnext _))
  · exact hnext _

theorem endBad_time (s : State) (f : Frame) (reason : Nat) : (s.endBad f reason).time = s.time := by
  unfold State.endBad
  split
  · exact time_ite ((drop_time _ _ _).trans rfl) rfl
  · rfl
  · rfl
  · exact time_ite ((drop_time _ _ _).trans rfl) rfl
  · refine foldl_part (·.time) (fun s g => time_ite (onFrame_time _ _ _) ?_) _ s
    exact (foldl_part (·.time) (fun s d => time_ite (lateDrop_time _ _ _ _) (drop_time _ _ _)) _ _).trans (onFrame_time _ _ _)

theorem severCopies_time (s : State) (quads : Nat) : (s.severCopies quads).time = s.time := by
  unfold State.severCopies
  refine (foldl_part (·.time) (fun s c => ?_) _ _).trans ((foldl_part (·.time) (fun s f => time_ite (endBad_time _ _ _) rfl) _ _).trans
    (foldl_part (·.time) (fun s c => foldl_part (·.time) (fun s d => drop_time _ _ _) _ _) _ _))
  split
  · exact time_ite (lateDrop_time _ _ _ _) rfl
  · rfl

/-! ### The resets -/

theorem takeShadow_time (s : State) (quads : Nat) : (s.takeShadow quads).time = s.time := by unfold State.takeShadow; rfl

theorem settle_time (s : State) : s.settle.time = s.time := by unfold State.settle State.inPath; rfl

theorem clearQuads_time (s : State) (quads : Nat) (core : Bool) : (s.clearQuads quads core).time = s.time := by
  unfold State.clearQuads
  rw [settle_time]
  dsimp only
  rw [severCopies_time, takeShadow_time]

theorem ccReset_time (s : State) (cause : Nat) (handover : Bool) : (s.ccReset cause handover).time = s.time := by
  unfold State.ccReset
  dsimp only
  rw [setFld_time, setFld_time, setFld_time]

theorem coreReset_time (s : State) : s.coreReset.time = s.time := by
  unfold State.coreReset
  dsimp only
  rw [ccReset_time, clearQuads_time]

theorem quadReset_time (s : State) (quads : Nat) : (s.quadReset quads).time = s.time := by
  unfold State.quadReset
  dsimp only
  refine time_ite rfl ?_
  dsimp only
  rw [clearQuads_time]

theorem requestReset_time (s : State) (v : Nat) : (s.requestReset v).time = s.time := by
  unfold State.requestReset
  dsimp only
  exact time_ite rfl (time_ite (coreReset_time s) (time_ite ((ccReset_time _ _ _).trans (quadReset_time _ _)) (quadReset_time _ _)))

theorem violation_time (s : State) (kind sid addr : Nat) (write : Bool) : (s.violation kind sid addr write).time = s.time := by
  have hrec : ∀ (m : State) (a i : Word), (((m.setReg .protViolAddr 0 a).setReg .protViolInfo 0 i).count .protViolCnt 0 1).time = m.time := fun m a i => by
    rw [count_time, setReg_time, setReg_time]
  refine (hrec _ _ _).trans ?_
  split <;> exact raise_time _ _ _

theorem secureWrite_time (s : State) (who : Sender) (x : Nat) {k : State → State} (hk : (k s).time = s.time) :
    (s.secureWrite who x k).time = s.time := by
  unfold State.secureWrite
  split
  · exact hk
  · unfold State.access
    split
    · exact violation_time _ _ _ _ _
    · exact time_ite hk (violation_time _ _ _ _ _)

theorem stepJob_time (s : State) (chan tag : Nat) (f : Job → Job) (ans : Job → State → Status × List Byte) :
    (s.stepJob chan tag f ans).time = s.time := by
  unfold State.stepJob
  split
  · rfl
  · exact time_ite (answer_time _ _ _ _ _ _) rfl

theorem answerStops_time (s : State) : s.answerStops.time = s.time := foldl_part (·.time) (fun s _ => stepJob_time s _ _ _ _) _ s

theorem ringOff_time (s : State) (tx : Bool) (r : Nat) : (s.ringOff tx r).time = s.time := by
  unfold State.ringOff
  dsimp only
  refine time_ite (setReg_time _ _ _ _) ?_
  dsimp only
  rw [setReg_time]

theorem newInc_time (s : State) (n : Nat) : (s.newInc n).time = s.time := by
  unfold State.newInc
  refine time_ite ?_ (setFld_time _ _ _ _)
  unfold State.applyInc
  exact time_ite (by rw [setReg_time, setFld_time, setFld_time]) (setFld_time _ _ _ _)

/-! ### The commands -/

/-- A command that goes on and leaves the time engine alone. -/
def KeepsTime (o : Host.Outcome State Fault Refusal) (s : State) : Prop := ∃ t, o = .next t ∧ t.time = s.time

theorem keepsTime_secureWrite (s : State) (who : Sender) (v : Nat) :
    KeepsTime (.next (s.secureWrite who (Reg.protRst.offset 0) fun s => s.requestReset v)) s :=
  ⟨_, rfl, secureWrite_time s who _ (requestReset_time s v)⟩

theorem keepsTime_watchdogExpire (s : State) : KeepsTime (exec .watchdogExpire s) s := by
  change KeepsTime (execWatchdogExpire s) s
  unfold execWatchdogExpire
  split
  · exact ⟨_, rfl, rfl⟩
  · exact ⟨_, rfl, (ccReset_time _ _ _).trans (raise_time _ _ _)⟩

theorem keepsTime_fwSwitch (s : State) : KeepsTime (exec .fwSwitch s) s := by
  change KeepsTime (execFwSwitch s) s
  unfold execFwSwitch
  split
  · exact ⟨_, rfl, rfl⟩
  · split
    · exact ⟨_, rfl, rfl⟩
    · split
      · split
        · exact ⟨_, rfl, rfl⟩
        · split
          · exact ⟨_, rfl, ccReset_time _ _ _⟩
          · exact ⟨_, rfl, rfl⟩
      · split
        · exact ⟨_, rfl, ccReset_time _ _ _⟩
        · exact ⟨_, rfl, rfl⟩

theorem keepsTime_pcieReset (s : State) : KeepsTime (exec .pcieReset s) s := by
  have hoff := foldl_part (·.time) (f := fun s r => (s.ringOff false r).ringOff true r) (fun s r => (ringOff_time _ _ _).trans (ringOff_time _ _ _))
    (List.range 32) s
  change KeepsTime (execPcieReset s) s
  unfold execPcieReset
  generalize hoffs : (List.range 32).foldl (fun s r => (s.ringOff false r).ringOff true r) s = u at hoff ⊢
  have hstop : ∀ v : State, v.time = u.time → v.answerStops.time = s.time := fun v hv => (answerStops_time v).trans (hv.trans hoff)
  dsimp only
  split
  · exact ⟨_, rfl, hstop _ rfl⟩
  · exact ⟨_, rfl, (foldl_part (·.time) (fun s n => newInc_time s n) _ _).trans (hstop _ rfl)⟩

theorem exec_powerOnReset (straps : Nat) (flash : List (Nat × List Byte)) (s : State) :
    ∃ t, exec (.powerOnReset straps flash) s = .next t ∧ t.tick.locked = false ∧ t.time.whorl = 0 ∧ t.time.parity = false :=
  ⟨_, rfl, rfl, rfl, rfl⟩

/-- The slot in which the PLL locks is slot 0, in which the whorl is 0 (R42). -/
theorem exec_pllLock {s : State} (h : s.tick.locked = false) :
    ∃ t, exec .pllLock s = .next t ∧ t.tick.slot = 0 ∧ t.time.whorl = 0 ∧ t.time.parity = false :=
  ⟨_, if_neg (by simp [h]), rfl, rfl, rfl⟩

/-- Settles O57: the power-on reset starts the time engine again, and no other reset writes it. -/
theorem resetsKeepTheWhorl : Obligations.ResetsKeepTheWhorl := by
  refine ⟨fun straps flash s => ?_, fun i who quads s hi => ?_⟩
  · obtain ⟨t, ht, hlocked, hwhorl, hparity⟩ := exec_powerOnReset straps flash s
    obtain ⟨u, hu⟩ := exec_pllLock hlocked
    exact ⟨t, u, ht, hwhorl, hparity, hu⟩
  have hkeeps : KeepsTime (exec i s) s := by
    simp only [List.mem_cons, List.not_mem_nil, or_false] at hi
    obtain rfl | rfl | rfl | rfl | rfl | rfl := hi
    · exact keepsTime_secureWrite s who 0x100
    · exact keepsTime_secureWrite s who 0x10
    · exact keepsTime_secureWrite s who (quads % 16)
    · exact keepsTime_watchdogExpire s
    · exact keepsTime_fwSwitch s
    · exact keepsTime_pcieReset s
  obtain ⟨t, ht, htime⟩ := hkeeps
  exact ⟨t, ht, congrArg TimeEng.whorl htime, congrArg TimeEng.parity htime⟩

end Sys2Proof.Machine

/-!
Requests of PROT_RST (O10): what each request becomes once its sender may make it, and what a refused one leaves.
-/
namespace Sys2Proof.Machine
open Sys2Proof

/-- A number put together from the bits that a predicate sets below `n` has exactly these bits. -/
theorem testBit_bitsWhere (n : Nat) (p : Nat → Bool) (k : Nat) : (bitsWhere n p).testBit k = (decide (k < n) && p k) := by
  have hsucc : ∀ n, bitsWhere (n + 1) p = if p n then 2 ^ n + bitsWhere n p else bitsWhere n p := fun n => by
    rw [bitsWhere, List.range_succ, List.foldl_append, List.foldl_cons, List.foldl_nil, Nat.add_comm]
    rfl
  have hlt : ∀ n, bitsWhere n p < 2 ^ n := fun n => by
    induction n with
    | zero => exact Nat.one_pos
    | succ n ih => rw [hsucc, pow_succ]; split <;> omega
  induction n with
  | zero => simp [bitsWhere]
  | succ n ih =>
    have htop := Nat.testBit_lt_two_pow (hlt n)
    obtain hk | rfl | hk := Nat.lt_trichotomy k n
    · have hsame : (bitsWhere (n + 1) p).testBit k = (bitsWhere n p).testBit k := by
        rw [hsucc]
        split
        · exact Nat.testBit_two_pow_add_gt hk _
        · rfl
      rw [hsame, ih, decide_eq_true hk, decide_eq_true (Nat.lt_succ_of_lt hk)]
    · rw [hsucc, decide_eq_true (Nat.lt_succ_self k), Bool.true_and]
      split
      · next hp => rw [Nat.testBit_two_pow_add_eq, htop, hp, Bool.not_false]
      · next hp => rw [htop, Bool.eq_false_iff.2 hp]
    · rw [Nat.testBit_lt_two_pow (lt_of_lt_of_le (hlt (n + 1)) (Nat.pow_le_pow_right (by decide) hk)), decide_eq_false (by omega), Bool.false_and]

section
variable {who : Sender} {s : State}

/-! ### Who may write -/

theorem secureWrite_of_secureWriter {x : Nat} (h : SecureWriter who x s) (k : State → State) : s.secureWrite who x k = k s := by
  obtain rfl | ⟨hadmit, hsecure⟩ := h
  · rfl
  · unfold State.secureWrite
    split
    · rfl
    · rw [access_of_none hadmit, if_pos hsecure]

/-- A sender without a secure SID is refused by the firewall or by the register's own rule (R582, R593). -/
theorem secureWrite_of_notSecure {rid : Nat} {ide : Bool} (h : sidSecure (s.sid (.host rid ide)) = false) (x : Nat) (k : State → State) :
    ∃ kind, s.secureWrite (.host rid ide) x k = s.violation kind (s.sid (.host rid ide)) x true := by
  unfold State.secureWrite State.access
  dsimp only
  split
  · exact ⟨_, rfl⟩
  · exact ⟨1, by rw [h, if_neg Bool.false_ne_true]⟩

theorem exec_coreReset_of_secureWriter (h : SecureWriter who (Reg.protRst.offset 0) s) : exec (.coreReset who) s = .next (s.requestReset 0x100) := by
  change execCoreReset who s = _
  rw [execCoreReset, secureWrite_of_secureWriter h]

theorem exec_controlComplexReset_of_secureWriter (h : SecureWriter who (Reg.protRst.offset 0) s) :
    exec (.controlComplexReset who) s = .next (s.requestReset 0x10) := by
  change execControlComplexReset who s = _
  rw [execControlComplexReset, secureWrite_of_secureWriter h]

theorem exec_quadrantReset_of_secureWriter (h : SecureWriter who (Reg.protRst.offset 0) s) (quads : Nat) :
    exec (.quadrantReset who quads) s = .next (s.requestReset (quads % 16)) := by
  change execQuadrantReset who quads s = _
  rw [execQuadrantReset, secureWrite_of_secureWriter h]

/-! ### What a request does -/

theorem requestReset_of_inCore (h : s.inCore = true) (v : Nat) : s.requestReset v = s := by rw [State.requestReset, if_pos h]

theorem requestReset_core (h : s.inCore = false) : s.requestReset 0x100 = s.coreReset := by
  rw [State.requestReset, if_neg (by simp [h]), if_pos (by decide)]

/-- The quadrants that a request's QUAD bits reset: named, present and not in reset already (R582). -/
def State.resetQuads (s : State) (quads : Nat) : Nat :=
  let old := match s.boot.reset with
    | some k => k.quads
    | none => 0
  let new := quads &&& (15 ^^^ old)
  (List.range 4).foldl (fun m q => if new.testBit q && s.hasQuad q then m + 2 ^ q else m) 0

theorem quadReset_of_none (quads : Nat) (h : s.resetQuads quads = 0) : s.quadReset quads = s := if_pos h

theorem requestReset_cc (h : s.inCore = false) : s.requestReset 0x10 = s.ccReset 2 false := by
  rw [State.requestReset, if_neg (by simp [h]), if_neg (by decide)]
  exact congrArg (State.ccReset · 2 false) (quadReset_of_none _ (by simp [State.resetQuads]))

theorem requestReset_quads (h : s.inCore = false) {quads : Nat} (hq : quads < 16) : s.requestReset quads = s.quadReset quads := by
  have hbit : ∀ k, 4 ≤ k → quads.testBit k = false := fun k hk =>
    Nat.testBit_lt_two_pow (lt_of_lt_of_le hq (Nat.pow_le_pow_right (n := 2) (i := 4) (by decide) hk))
  rw [State.requestReset, if_neg (by simp [h]), if_neg (by simp [hbit])]
  dsimp only
  rw [if_neg (by simp [hbit]), Nat.mod_eq_of_lt hq]

/-- With no reset running, the reset quadrants are the present ones that the request names. -/
theorem testBit_resetQuads (h : s.boot.reset = none) (quads k : Nat) :
    (s.resetQuads quads).testBit k = (decide (k < 4) && (quads.testBit k && s.hasQuad k)) := by
  have hbits := testBit_bitsWhere 4 (fun q => (quads &&& (15 ^^^ 0)).testBit q && s.hasQuad q) k
  have hnew : (quads &&& (15 ^^^ 0)).testBit k = (quads.testBit k && decide (k < 4)) := by
    rw [Nat.testBit_and, Nat.xor_zero, show 15 = 2 ^ 4 - 1 from rfl, Nat.testBit_two_pow_sub_one]
  rw [State.resetQuads, h]
  refine hbits.trans ?_
  rw [hnew]
  by_cases hk : k < 4 <;> simp [hk]

theorem clearQuads_tick (h : Inv s) (quads : Nat) (core : Bool) : (s.clearQuads quads core).tick = s.tick :=
  (keeps_clearQuads (M := mayChange (.coreReset .cc)) (keeps_self h) (by decide +kernel)).within.tick rfl

/-- A reset of quadrants runs from the present slot (R581). -/
theorem quadReset_reset (h : Inv s) (hnone : s.boot.reset = none) {quads : Nat} (hne : s.resetQuads quads ≠ 0) :
    (s.quadReset quads).boot.reset = some { quads := s.resetQuads quads, start := s.tick.slot } := by
  have hrun : (s.quadReset quads).boot.reset = some
      { quads := (match s.boot.reset with | some k => k.quads | none => 0) ||| s.resetQuads quads
        start := (s.clearQuads (s.resetQuads quads) false).tick.slot } := congrArg (fun t : State => t.boot.reset) (if_neg hne)
  rw [hrun, hnone, Nat.zero_or, clearQuads_tick h]

/-! ### The core and the control complex -/

theorem ccReset_path (s : State) (cause : Nat) (handover : Bool) : (s.ccReset cause handover).path = s.path := by
  unfold State.ccReset
  dsimp only
  rw [setFld_path, setFld_path, setFld_path]

theorem ccReset_addr (s : State) (cause : Nat) (handover : Bool) : (s.ccReset cause handover).tab.addr = s.tab.addr := by
  unfold State.ccReset
  dsimp only
  rw [setFld_tab, setFld_tab, setFld_tab]

theorem ccReset_reset (s : State) (cause : Nat) (handover : Bool) : (s.ccReset cause handover).boot.reset = s.boot.reset := by
  unfold State.ccReset
  dsimp only
  rw [setFld_boot, setFld_boot, setFld_boot]

/-- What a reset of the control complex loses of its working memory (R581, R596). -/
theorem ccReset_lost (s : State) (cause : Nat) (handover : Bool) :
    (s.ccReset cause handover).boot.nextCause = cause ∧ (s.ccReset cause handover).tab.jobs = [] ∧ (s.ccReset cause handover).pkts.taken = [] :=
  ⟨rfl, rfl, rfl⟩

theorem ccReset_tick (s : State) (cause : Nat) (handover : Bool) : (s.ccReset cause handover).tick = s.tick := by
  unfold State.ccReset
  dsimp only
  rw [setFld_tick, setFld_tick, setFld_tick]

theorem coreReset_reset (h : Inv s) : s.coreReset.boot.reset = some { core := true, quads := 15, start := s.tick.slot, cause := 1 } := by
  unfold State.coreReset
  dsimp only
  rw [ccReset_tick, clearQuads_tick h]

theorem coreReset_lost (s : State) : s.coreReset.boot.nextCause = 1 ∧ s.coreReset.tab.jobs = [] ∧ s.coreReset.pkts.taken = [] :=
  ⟨rfl, rfl, rfl⟩

end

/-- Settles O10: a sender that may write PROT_RST makes the request, during a core reset it has no effect, and another sender is refused. -/
theorem resetRequests : Obligations.ResetRequests := by
  refine ⟨fun who s h hwho hcore => ⟨?core, ?complex, fun quads hnone habsent => ?absent, fun quads q hnone hq hbit hpresent => ?quads⟩,
    fun who s hwho hcore => ?during, fun rid ide s hsec => secureWrite_of_notSecure hsec _ _ |>.imp fun _ => congrArg Host.Outcome.next⟩
  case core =>
    have hexec := exec_coreReset_of_secureWriter hwho
    rw [requestReset_core hcore] at hexec
    have hk : Keeps (mayChange (.coreReset who)) s s.coreReset := (exec_keeps h _).keeps _ hexec
    obtain ⟨hcause, hjobs, htaken⟩ := coreReset_lost s
    exact ⟨_, hexec, coreReset_reset h, hcause, hjobs, htaken, hk.within.tick rfl, hk.within.time rfl, hk.within.queue⟩
  case complex =>
    have hexec := exec_controlComplexReset_of_secureWriter hwho
    rw [requestReset_cc hcore] at hexec
    obtain ⟨hcause, hjobs, htaken⟩ := ccReset_lost s 2 false
    exact ⟨_, hexec, ccReset_reset _ _ _, hcause, hjobs, htaken, ccReset_path _ _ _, ccReset_addr _ _ _, ccReset_tick _ _ _, ccReset_time _ _ _⟩
  case absent =>
    have hzero : s.resetQuads (quads % 16) = 0 := Nat.eq_of_testBit_eq fun k => by
      rw [testBit_resetQuads hnone, Nat.zero_testBit, show 16 = 2 ^ 4 from rfl, Nat.testBit_mod_two_pow]
      by_cases hk : k < 4
      · cases hb : quads.testBit k
        · simp
        · simp [habsent k hk hb]
      · simp [hk]
    rw [exec_quadrantReset_of_secureWriter hwho, requestReset_quads hcore (Nat.mod_lt _ (by decide)), quadReset_of_none _ hzero]
  case quads =>
    have htest : (s.resetQuads (quads % 16)).testBit q = true := by
      rw [testBit_resetQuads hnone, show 16 = 2 ^ 4 from rfl, Nat.testBit_mod_two_pow]
      simp [hq, hbit, hpresent]
    have hne : s.resetQuads (quads % 16) ≠ 0 := fun h0 => by simp [h0] at htest
    have hexec := exec_quadrantReset_of_secureWriter hwho quads
    rw [requestReset_quads hcore (Nat.mod_lt _ (by decide))] at hexec
    have hk : Keeps (mayChange (.quadrantReset who quads)) s (s.quadReset (quads % 16)) := (exec_keeps h _).keeps _ hexec
    exact ⟨_, _, hexec, quadReset_reset h hnone hne, rfl, htest, rfl, hk.within.tick rfl, hk.within.time rfl⟩
  case during =>
    refine ⟨?_, ?_, fun quads => ?_⟩
    · rw [exec_coreReset_of_secureWriter hwho, requestReset_of_inCore hcore]
    · rw [exec_controlComplexReset_of_secureWriter hwho, requestReset_of_inCore hcore]
    · rw [exec_quadrantReset_of_secureWriter hwho, requestReset_of_inCore hcore]

end Sys2Proof.Machine

/-! The power-on reset (O7). -/
namespace Sys2Proof.Machine
open Sys2Proof

/-- With no register listed, each register holds its reset value. -/
theorem reg_of_noneListed {s : State} (h : s.regs = []) (r : Reg) (i : Nat) : s.reg r i = r.resetAt i := by
  rw [reg_eq, h]
  exact regDefault_regKey r i

/-- Settles O7: the state that the reset leaves is `State.reset` but for what the device keeps without power. -/
theorem powerOnResetLeavesResetValues : Obligations.PowerOnResetLeavesResetValues := by
  intro straps flash s
  refine ⟨_, rfl, reg_of_noneListed rfl, ?_⟩
  exact ⟨rfl, rfl, rfl, rfl, rfl, rfl, rfl, rfl, rfl, rfl, rfl, rfl, rfl, rfl, rfl, rfl, rfl, rfl, rfl, rfl, rfl⟩

end Sys2Proof.Machine

/-!
The servo and its sources (O16): what a measurement, a lapse and a time-out do in each state of the servo, and the squelch of a recovered clock.
-/
namespace Sys2Proof.Machine
open Sys2Proof

/-! ### The servo's transitions -/

section
variable {s : State}

/-- A change of state keeps all of the servo but its state, the epochs in it, its run of good measurements and its counts (R420). -/
theorem servoTo_servo (s : State) (n : ServoState) : (s.servoTo n).time.servo.state = n
    ∧ (s.servoTo n).time.servo.lastOffset = s.time.servo.lastOffset ∧ (s.servoTo n).time.servo.qualified = s.time.servo.qualified
    ∧ (s.servoTo n).time.servo.lastPps = s.time.servo.lastPps := by
  unfold State.servoTo
  split
  · next h => exact ⟨h, rfl, rfl, rfl⟩
  · exact ⟨rfl, rfl, rfl, rfl⟩

theorem servoTo_inc (s : State) (n : ServoState) : (s.servoTo n).time.inc = s.time.inc ∧ (s.servoTo n).time.incPend = s.time.incPend := by
  unfold State.servoTo
  split <;> exact ⟨rfl, rfl⟩

theorem sourceQualifies_of_freeRun (h : s.time.servo.state = .freeRun) :
    s.sourceQualifies = ({ s with time := { s.time with servo := { s.time.servo with qualified := true } } }).servoTo .acquiring := by
  unfold State.sourceQualifies
  simp only [h]

/-- A source lost in LOCKED: the mean increment of the history governs HOLDOVER (R419). -/
theorem sourceLost_of_locked (h : s.time.servo.state = .locked) : s.sourceLost.time.servo.state = .holdover
    ∧ s.sourceLost.time.incPend = some s.meanInc ∧ s.sourceLost.time.servo.qualified = false := by
  unfold State.sourceLost
  simp only [h]
  exact ⟨(servoTo_servo _ _).1, (servoTo_inc _ _).2, (servoTo_servo _ _).2.2.1⟩

/-- A lost source does not qualify and gives no seconds; in ACQUIRING the servo falls to FREE_RUN (R419, R432). -/
theorem sourceLost_source (s : State) : s.sourceLost.time.servo.qualified = false ∧ s.sourceLost.time.servo.lastPps = none
    ∧ (s.time.servo.state = .acquiring → s.sourceLost.time.servo.state = .freeRun) := by
  unfold State.sourceLost
  dsimp only
  split
  · exact ⟨(servoTo_servo _ _).2.2.1, (servoTo_servo _ _).2.2.2, fun _ => (servoTo_servo _ _).1⟩
  · next h => exact ⟨(servoTo_servo _ _).2.2.1, (servoTo_servo _ _).2.2.2, fun ha => absurd (ha.symm.trans h) (by decide)⟩
  · next h _ => exact ⟨rfl, rfl, fun ha => absurd ha h⟩

/-! ### A measurement -/

/-- The measurement is kept as the last offset. -/
def State.measured (s : State) (offset : Int) : State := { s with time := { s.time with servo := { s.time.servo with lastOffset := offset } } }

theorem exec_servoMeasurement_lost (hrun : s.fwRunning = true) (h0 : s.time.servo.mode ≠ 0) (h3 : s.time.servo.mode ≠ 3) (offset : Int) :
    exec (.servoMeasurement offset false) s = .next (s.measured offset).sourceLost := by
  change execServoMeasurement offset false s = _
  unfold execServoMeasurement
  simp only [hrun, h0, h3, State.measured, Bool.not_true, Bool.not_false, decide_false, Bool.or_self, Bool.false_eq_true, if_false, if_true]

theorem exec_servoMeasurement_freeRun (hrun : s.fwRunning = true) (h0 : s.time.servo.mode ≠ 0) (h3 : s.time.servo.mode ≠ 3)
    (h : s.time.servo.state = .freeRun) (offset : Int) : exec (.servoMeasurement offset true) s = .next (s.measured offset).sourceQualifies := by
  change execServoMeasurement offset true s = _
  unfold execServoMeasurement
  simp only [hrun, h0, h3, h, State.measured, Bool.not_true, decide_false, Bool.or_self, Bool.false_eq_true, if_false]

/-- An offset beyond STEP_NS in ACQUIRING: the active base is loaded so that network time loses it (R419). -/
theorem exec_servoMeasurement_step (hrun : s.fwRunning = true) (h0 : s.time.servo.mode ≠ 0) (h3 : s.time.servo.mode ≠ 3)
    (h : s.time.servo.state = .acquiring) {offset : Int} (hbig : s.time.servo.stepNs < offset.natAbs) :
    exec (.servoMeasurement offset true) s = .next ((s.measured offset).setNetTime (((s.measured offset).netNs - offset).toNat)) := by
  change execServoMeasurement offset true s = _
  unfold execServoMeasurement
  simp only [hrun, h0, h3, h, hbig, State.measured, Bool.not_true, decide_false, decide_true, Bool.or_self, Bool.and_self, Bool.false_eq_true,
    if_false, if_true]

/-- The run of good measurements after a correction. -/
def State.goodRun (s : State) (n : Nat) : State := { s with time := { s.time with servo := { s.time.servo with goodRun := n } } }

/-- The sixteenth good measurement in ACQUIRING corrects and locks (R419). -/
theorem exec_servoMeasurement_lock (hrun : s.fwRunning = true) (h0 : s.time.servo.mode ≠ 0) (h3 : s.time.servo.mode ≠ 3)
    (h : s.time.servo.state = .acquiring) {offset : Int} (hstep : offset.natAbs ≤ s.time.servo.stepNs) (hlock : offset.natAbs ≤ s.time.servo.lockNs)
    (hrun15 : 15 ≤ s.time.servo.goodRun) :
    exec (.servoMeasurement offset true) s
      = .next ((((s.measured offset).servoCorrect offset).goodRun (s.time.servo.goodRun + 1)).servoTo .locked) := by
  have hbig : ¬s.time.servo.stepNs < offset.natAbs := Nat.not_lt.2 hstep
  have h16 : 16 ≤ s.time.servo.goodRun + 1 := Nat.succ_le_succ hrun15
  change execServoMeasurement offset true s = _
  unfold execServoMeasurement
  simp only [hrun, h0, h3, h, hbig, hlock, h16, State.measured, State.goodRun, Bool.not_true, decide_false, decide_true, Bool.or_self, Bool.and_self,
    Bool.and_false, Bool.false_eq_true, if_false, if_true]

/-- The run of good measurements is all that changes. -/
theorem goodRun_time (s : State) (n : Nat) : (s.goodRun n).time.servo.lastOffset = s.time.servo.lastOffset
    ∧ (s.goodRun n).time.incPend = s.time.incPend := ⟨rfl, rfl⟩

/-- A correction commits an increment inside its bounds (R405, R419). -/
theorem servoCorrect_time (s : State) (offset : Int) : (s.servoCorrect offset).time.servo = s.time.servo
    ∧ ∃ inc, (s.servoCorrect offset).time.incPend = some inc ∧ Config.incMin ≤ inc ∧ inc ≤ Config.incMax := by
  have hlt : Config.freeNat s.free % (Config.incMax - Config.incMin + 1) < Config.incMax - Config.incMin + 1 := Nat.mod_lt _ (Nat.succ_pos _)
  have hle : Config.incMin ≤ Config.incMax := by decide
  have hbounds : Config.incMin + Config.freeNat s.free % (Config.incMax - Config.incMin + 1) ≤ Config.incMax := by omega
  have hslew : ∀ (m : State) (d : Word) (count : Nat),
      (if count = 0 then m.setReg .tsSlewDelta 0 d
        else { m.setReg .tsSlewDelta 0 d with time := { (m.setReg .tsSlewDelta 0 d).time with slewPend := some (min count (2 ^ 32 - 1)) } }).time.servo
        = m.time.servo
      ∧ (if count = 0 then m.setReg .tsSlewDelta 0 d
        else { m.setReg .tsSlewDelta 0 d with time := { (m.setReg .tsSlewDelta 0 d).time with slewPend := some (min count (2 ^ 32 - 1)) } }).time.incPend
        = m.time.incPend := fun m d count => by
    split <;> exact ⟨rfl, rfl⟩
  obtain ⟨hservo, hinc⟩ := hslew { s with time := { s.time with incPend := some (Config.incMin + Config.freeNat s.free % (Config.incMax - Config.incMin + 1)) }
                                          free := s.free + 2 } _ _
  exact ⟨hservo, _, hinc, Nat.le_add_right _ _, hbounds⟩

/-! ### A load of the active base -/

/-- A load of the active base replaces network time and makes it valid (R412). -/
theorem loadBase_active (h : RegsWf s) (b : NetBase) : (s.loadBase s.time.parity b).time = ({ s.time.setBase s.time.parity b with todSet := true, staleAct := false, remap := true } : TimeEng)
    ∧ (s.loadBase s.time.parity b).flag F.tsStat_ACT_LOAD 0 = true
    ∧ ∀ r i, r ≠ .tsStat → (s.loadBase s.time.parity b).reg r i = s.reg r i := by
  unfold State.loadBase
  rw [if_pos (setBase_parity s.time s.time.parity b).symm]
  exact ⟨rfl, flag_raise_self (s := { s with time := _ }) h (by decide) 0, fun r i hr => reg_raise_ne (s := { s with time := _ }) h (fun hk => hr hk.1)⟩

theorem setBase_active (t : TimeEng) (b : NetBase) : (t.setBase t.parity b).active = b ∧ (t.setBase t.parity b).next = t.next
    ∧ (t.setBase t.parity b).servo = t.servo := by
  unfold TimeEng.setBase TimeEng.active TimeEng.next
  split
  · exact ⟨rfl, rfl, rfl⟩
  · exact ⟨rfl, rfl, rfl⟩

/-- The load of the next base continues the active one by 2^32 ns and arms it; nothing else of the time engine but TOD_SET changes (R412, R416). -/
theorem loadNextBase_time (s : State) : s.loadNextBase.time.parity = s.time.parity ∧ s.loadNextBase.time.active = s.time.active
    ∧ s.loadNextBase.time.next = NetBase.ofNs (s.time.active.total + 2 ^ 32) ∧ s.loadNextBase.time.arm (!s.time.parity) = true
    ∧ s.loadNextBase.time.todSet = true ∧ s.loadNextBase.time.staleAct = s.time.staleAct ∧ s.loadNextBase.time.servo = s.time.servo
    ∧ s.loadNextBase.regs = s.regs := by
  unfold State.loadNextBase
  obtain ⟨hp, ha, hn, harm⟩ := loadBase_other s (NetBase.ofNs (s.time.active.total + 2 ^ 32))
  refine ⟨hp, ha, hn, harm, ?_⟩
  unfold State.loadBase
  cases h : s.time.parity <;> simp [TimeEng.setBase, TimeEng.setArm, h]

/-- Firmware's load of network time: the active base such that the next slot reads `n`, valid, and the next base armed behind it (R412, R429). -/
theorem setNetTime_time (h : RegsWf s) (n : Nat) {b : NetBase}
    (hb : b = NetBase.ofNs ((n % (2 ^ 48 * 1000000000) + 2 ^ 48 * 1000000000 - (s.time.whorl + s.time.effInc) / 2 ^ 32) % (2 ^ 48 * 1000000000))) :
    (s.setNetTime n).time.parity = s.time.parity ∧ (s.setNetTime n).time.active = b ∧ (s.setNetTime n).time.next = NetBase.ofNs (b.total + 2 ^ 32)
    ∧ (s.setNetTime n).time.arm (!s.time.parity) = true ∧ (s.setNetTime n).time.todSet = true ∧ (s.setNetTime n).time.staleAct = false
    ∧ (s.setNetTime n).time.servo = s.time.servo := by
  subst hb
  unfold State.setNetTime
  dsimp only
  generalize hb : NetBase.ofNs _ = b
  obtain ⟨ht, -, -⟩ := loadBase_active h b
  obtain ⟨ha, -, hservo⟩ := setBase_active s.time b
  have hp : (s.loadBase s.time.parity b).time.parity = s.time.parity := loadBase_parity s _ _
  have hact : (s.loadBase s.time.parity b).time.active = b := by rw [ht]; exact ha
  obtain ⟨hp', ha', hn', harm', htod, hstale, hservo', -⟩ := loadNextBase_time (s.loadBase s.time.parity b)
  rw [hact] at ha' hn'
  rw [hp] at hp' harm'
  refine ⟨hp', ha', hn', harm', htod, hstale.trans ?_, hservo'.trans ?_⟩
  · rw [ht]
  · rw [ht]; exact hservo

/-- Firmware's load of network time raises ACT_LOAD and changes no other register. -/
theorem setNetTime_regs (h : RegsWf s) (n : Nat) : (s.setNetTime n).flag F.tsStat_ACT_LOAD 0 = true
    ∧ ∀ r i, r ≠ .tsStat → (s.setNetTime n).reg r i = s.reg r i := by
  unfold State.setNetTime
  dsimp only
  generalize NetBase.ofNs _ = b
  obtain ⟨-, hload, hreg⟩ := loadBase_active h b
  obtain ⟨-, -, -, -, -, -, -, hregs⟩ := loadNextBase_time (s.loadBase s.time.parity b)
  exact ⟨(flag_of_regs hregs _ _).trans hload, fun r i hr => (reg_of_regs hregs r i).trans (hreg r i hr)⟩

/-- A hint 1.5 s old lapses with a log record (R432). -/
theorem exec_todHintLapse_due {sec at0 : Nat} (hhint : s.time.servo.hint = some (sec, at0))
    (hlate : at0 + 3 * Config.slotsPerSec / 2 ≤ s.tick.slot) : exec .todHintLapse s
      = .next ({ s with time := { s.time with servo := { s.time.servo with hint := none } } }.logEvent 0x4003 (leBytes 8 sec)) := by
  change execTodHintLapse s = _
  unfold execTodHintLapse
  rw [hhint]
  exact if_pos hlate

/-- No PPS_IN edge for 1.1 s: the source is lost (R432). -/
theorem exec_ppsSourceTimeout_due (hrun : s.fwRunning = true) (hmode : s.time.servo.mode = 2) (hpps : s.time.servo.lastPps.isSome = true)
    (hlate : s.time.servo.lastEdgeSlot + 11 * Config.slotsPerSec / 10 ≤ s.tick.slot) : exec .ppsSourceTimeout s = .next s.sourceLost := by
  change execPpsSourceTimeout s = _
  unfold execPpsSourceTimeout
  exact if_pos (by rw [hrun, hmode, hpps, decide_eq_true hlate]; rfl)

/-- SQUELCHED follows its conditions, SQ_CHG sets and the pin shows it (R427). -/
theorem exec_rclkSquelchChange_change (h : RegsWf s) {r : Nat} (hr : r < 2) (hne : s.rclkSquelched r ≠ s.flag F.tsRclkStat_SQUELCHED r) :
    ∃ t, exec (.rclkSquelchChange r) s = .next t ∧ t.flag F.tsRclkStat_SQUELCHED r = s.rclkSquelched r
      ∧ t.flag F.tsRclkStat_SQ_CHG r = true ∧ t.out = s.out ++ [.pin 2 r (s.rclkSquelched r)] := by
  have hset : RegsWf (s.setFld F.tsRclkStat_SQUELCHED r (b2n (s.rclkSquelched r))) := wf_setFld h _ _ _
  have hgate : (decide (2 ≤ r) || s.rclkSquelched r == s.flag F.tsRclkStat_SQUELCHED r) = false := by
    simp [hne, Nat.not_le.2 hr]
  refine ⟨((s.setFld F.tsRclkStat_SQUELCHED r (b2n (s.rclkSquelched r))).raise F.tsRclkStat_SQ_CHG r).emit (.pin 2 r (s.rclkSquelched r)), ?_, ?_, ?_, ?_⟩
  · change execRclkSquelchChange r s = _
    unfold execRclkSquelchChange
    rw [hgate]
    exact if_neg Bool.false_ne_true
  · refine (emit_flag_eq _ _ _ _).trans ((flag_raise_apart hset (f := F.tsRclkStat_SQ_CHG) (g := F.tsRclkStat_SQUELCHED) (by decide) r r).trans (flag_setFld_bool h (by decide) r _))
  · exact (emit_flag_eq _ _ _ _).trans (flag_raise_self hset (by decide) r)
  · rfl

end

/-- Settles O16: each transition of the servo is one equation of its step, and a load of network time is a load of the active base followed by one of the next base. -/
theorem servoAndItsSources : Obligations.ServoAndItsSources := by
  unfold Obligations.ServoAndItsSources
  refine ⟨fun offset s hrun h0 h3 => ⟨?_, ?_, ?_, ?_⟩, ?_, ?_, ?_, ?_⟩
  · intro hst
    refine ⟨_, exec_servoMeasurement_freeRun hrun h0 h3 hst offset, ?_⟩
    rw [sourceQualifies_of_freeRun (s := s.measured offset) hst]
    obtain ⟨hstate, hoff, hq, -⟩ := servoTo_servo ({ s.measured offset with time := { (s.measured offset).time with servo := { (s.measured offset).time.servo with qualified := true } } }) .acquiring
    exact ⟨hstate, hoff, hq⟩
  · intro hst hbig hinv
    refine ⟨_, exec_servoMeasurement_step hrun h0 h3 hst hbig, ?_⟩
    have hm : RegsWf (s.measured offset) := hinv.regs
    obtain ⟨-, -, -, -, htod, hstale, hservo⟩ := setNetTime_time hm ((s.measured offset).netNs - offset).toNat rfl
    exact ⟨(setNetTime_regs hm _).1, htod, hstale, by rw [hservo]; exact hst⟩
  · intro hst hstep hlock h15
    obtain ⟨hservo, inc, hinc, hlo, hhi⟩ := servoCorrect_time (s.measured offset) offset
    obtain ⟨hstate, hoff, -, -⟩ := servoTo_servo (((s.measured offset).servoCorrect offset).goodRun (s.time.servo.goodRun + 1)) .locked
    refine ⟨_, inc, exec_servoMeasurement_lock hrun h0 h3 hst hstep hlock h15, hstate, ?_, ?_, hlo, hhi⟩
    · rw [hoff, (goodRun_time _ _).1, hservo]
      rfl
    · rw [(servoTo_inc _ _).2, (goodRun_time _ _).2, hinc]
  · intro hst
    exact ⟨_, exec_servoMeasurement_lost hrun h0 h3 offset, sourceLost_of_locked (s := s.measured offset) hst⟩
  · intro s hrun hst hmax
    refine ⟨_, ?_, (servoTo_servo s .freeRun).1, servoTo_inc s .freeRun⟩
    change execHoldoverExpire s = _
    unfold execHoldoverExpire
    simp only [hrun, hst, hmax, beq_self_eq_true, decide_true, Bool.and_self, if_true]
  · exact fun s sec at0 hhint hlate => ⟨_, exec_todHintLapse_due hhint hlate, rfl, rfl⟩
  · exact fun s hrun hmode hpps hlate => ⟨_, exec_ppsSourceTimeout_due hrun hmode hpps hlate, sourceLost_source s⟩
  · exact fun r s hinv hr hne => exec_rclkSquelchChange_change hinv.regs hr hne

end Sys2Proof.Machine

/-!
Event outputs, PPS_OUT and capture inputs (O17): arming and the edges of an output, the pulse of the second, and the FIFO of an input.
-/
namespace Sys2Proof.Machine
open Sys2Proof

section
variable {s m : State} {i : Nat}

/-! ### Updates by hardware and notes of writes -/

/-- A register other than those of a lost update stays under the note of a write. -/
theorem reg_noteWrite (h : Inv s) (r : Reg) (i mask party : Nat) {q : Reg} (hq : noteChange.may q = false) (j : Nat) :
    (s.noteWrite r i mask party).reg q j = s.reg q j :=
  (keeps_noteWrite (M := noteChange) (keeps_self h) (Change.le_self _)).within.regs _ j hq

/-- A lost update changes its own two registers. -/
theorem updLost_regs (h : RegsWf m) (offset party : Nat) : RegsWf (m.updLost offset party) ∧ (m.updLost offset party).out = m.out
    ∧ ∀ r j, r ≠ .glbStat → r ≠ .glbUpdInfo → (m.updLost offset party).reg r j = m.reg r j := by
  have hraise := wf_raise h F.glbStat_UPD_LOST 0
  unfold State.updLost
  generalize word _ = w
  refine ⟨wf_setReg hraise _ _ _, by rw [count_out, setReg_out, raise_out], fun r j h1 h2 => ?_⟩
  rw [count_reg_eq, reg_setReg_ne hraise _ fun hk => h2 hk.1, reg_raise_ne h fun hk => h1 hk.1]

/-- A hardware update of a field changes its register, or records that it is lost (R541). -/
theorem hwFld_frame (h : RegsWf m) (f : Fld) (i v : Nat) : RegsWf (m.hwFld f i v) ∧ (m.hwFld f i v).out = m.out
    ∧ ∀ r j, r ≠ f.reg → r ≠ .glbStat → r ≠ .glbUpdInfo → (m.hwFld f i v).reg r j = m.reg r j := by
  unfold State.hwFld
  split
  · next party _ =>
    obtain ⟨hwf, hout, hreg⟩ := updLost_regs h (f.reg.offset i) party
    exact ⟨hwf, hout, fun r j _ h1 h2 => hreg r j h1 h2⟩
  · exact ⟨wf_setFld h _ _ _, rfl, fun r j hr _ _ => reg_setFld_ne h _ fun hk => hr hk.1⟩

/-! ### Arming an event output -/

/-- A pulse that still runs ends before the output is armed again (log entry 47). -/
def State.pulseEnded (s : State) (i : Nat) : State :=
  if (OTable.get? s.time.outputs i).any (·.high) then (s.setFld F.tsEvtStat_ACTIVE i 0).emit (.pin 0 i (s.evtLevel i false)) else s

theorem evtArm_eq (s : State) (i : Nat) : s.evtArm i =
    if (s.pulseEnded i).dueAt ((s.pulseEnded i).reg .tsEvtStart i).toNat then ((s.pulseEnded i).setFld F.tsEvtCtl_EN i 0).raise F.tsEvtStat_MISSED i
    else { s.pulseEnded i with time := { (s.pulseEnded i).time with
      outputs := Table.insert (s.pulseEnded i).time.outputs i { next := (s.pulseEnded i).evtStart i } } } := rfl

theorem pulseEnded_frame (h : RegsWf m) (i : Nat) : RegsWf (m.pulseEnded i) ∧ (m.pulseEnded i).time = m.time
    ∧ ∀ r j, ¬(r = .tsEvtStat ∧ j = i) → (m.pulseEnded i).reg r j = m.reg r j := by
  unfold State.pulseEnded
  split
  · exact ⟨wf_setFld h _ _ _, rfl, fun r j hne => reg_setFld_ne h _ hne⟩
  · exact ⟨h, rfl, fun _ _ _ => rfl⟩

theorem evtStart_of_regs {t : State} (h1 : t.reg .tsEvtStart i = m.reg .tsEvtStart i) (h2 : t.reg .tsEvtFrac i = m.reg .tsEvtFrac i) :
    t.evtStart i = m.evtStart i := by
  rw [State.evtStart, State.evtStart, h1, fld_of_reg (f := F.tsEvtFrac_START_FRAC) h2]

/-- An output whose start lies ahead is armed: its next edge is its start (R423). -/
theorem evtArm_ahead (h : RegsWf m) (hdue : m.dueAt (m.reg .tsEvtStart i).toNat = false) :
    (m.evtArm i).time = { m.time with outputs := Table.insert m.time.outputs i { next := m.evtStart i } }
    ∧ ∀ r j, ¬(r = .tsEvtStat ∧ j = i) → (m.evtArm i).reg r j = m.reg r j := by
  obtain ⟨-, htime, hreg⟩ := pulseEnded_frame h i
  have hstart := hreg .tsEvtStart i (fun hk => absurd hk.1 (by decide))
  have hnot : ¬ (m.pulseEnded i).dueAt ((m.pulseEnded i).reg .tsEvtStart i).toNat = true := by
    rw [dueAt_of_time htime, hstart, hdue]
    exact Bool.false_ne_true
  rw [evtArm_eq, if_neg hnot]
  refine ⟨?_, fun r j hne => hreg r j hne⟩
  dsimp only
  rw [htime, evtStart_of_regs hstart (hreg .tsEvtFrac i (fun hk => absurd hk.1 (by decide)))]

/-- A start that is due is missed: EN clears, MISSED sets, and nothing runs (R423). -/
theorem evtArm_due (h : RegsWf m) (hdue : m.dueAt (m.reg .tsEvtStart i).toNat = true) :
    (m.evtArm i).time = m.time ∧ (m.evtArm i).flag F.tsEvtCtl_EN i = false ∧ (m.evtArm i).flag F.tsEvtStat_MISSED i = true := by
  obtain ⟨hwf, htime, hreg⟩ := pulseEnded_frame h i
  have hthen : (m.pulseEnded i).dueAt ((m.pulseEnded i).reg .tsEvtStart i).toNat = true := by
    rw [dueAt_of_time htime, hreg .tsEvtStart i (fun hk => absurd hk.1 (by decide))]
    exact hdue
  rw [evtArm_eq, if_pos hthen]
  have hset := wf_setFld hwf F.tsEvtCtl_EN i 0
  refine ⟨?_, (flag_raise_apart hset (by decide) i i).trans (flag_setFld_zero hwf (by decide) i), flag_raise_self hset (by decide) i⟩
  rw [raise_time, setFld_time, htime]

/-- The bits of TS_EVT_CTL that a write stores. -/
theorem evtCtl_bits (v : Word) : (v &&& 0x8000000E).toNat.testBit 31 = v.toNat.testBit 31 := by
  rw [BitVec.toNat_and, Nat.testBit_and]
  exact Bool.and_true _

/-- A flag of one bit reads its bit of the register's word. -/
theorem flag_of_bit {f : Fld} (hf : f.width = 1) {w : Word} (hw : s.reg f.reg i = w) {b : Bool} (hb : w.toNat.testBit f.lo = b) :
    s.flag f i = b := by
  rw [State.flag, fld_of_reg_eq hw, hf, ← hb, Nat.testBit_eq_decide_div_mod_eq]
  have hlt := Nat.mod_lt (w.toNat / 2 ^ f.lo) (y := 2) (by decide)
  exact decide_eq_decide.2 (by omega)

/-- Setting EN of an output that is off arms it (R423). -/
theorem writeEvtCtl_arms {v : Word} (hoff : m.flag F.tsEvtCtl_EN i = false) (hv : v.toNat.testBit 31 = true) :
    m.writeEvtCtl i v = (m.setReg .tsEvtCtl i (v &&& 0x8000000E)).evtArm i := by
  unfold State.writeEvtCtl
  simp only [hoff, hv, Bool.not_true, Bool.not_false, Bool.and_true, Bool.and_false, Bool.false_eq_true, if_false, if_true]

/-- TS_EVT_CTL of an output as a write of the control complex leaves it, before the output is armed. -/
def State.evtSet (s : State) (i : Nat) (v : Word) : State := (s.noteWrite .tsEvtCtl i 0x8000000E 0).setReg .tsEvtCtl i (v &&& 0x8000000E)

theorem evtSet_frame (h : Inv s) (i : Nat) (v : Word) : RegsWf (s.evtSet i v) ∧ (s.evtSet i v).time = s.time
    ∧ (s.evtSet i v).reg .tsEvtCtl i = v &&& 0x8000000E
    ∧ ∀ q, noteChange.may q = false → q ≠ .tsEvtCtl → (s.evtSet i v).reg q i = s.reg q i := by
  have hwf := wf_noteWrite h .tsEvtCtl i 0x8000000E 0
  refine ⟨wf_setReg hwf _ _ _, (setReg_time _ _ _ _).trans (noteWrite_time _ _ _ _ _), reg_setReg_self hwf _ _ _, fun q hq hne => ?_⟩
  exact (reg_setReg_ne hwf _ fun hk => hne hk.1).trans (reg_noteWrite h _ _ _ _ hq i)

theorem exec_eventOutputArm_sets (h : Inv s) {n : Nat} (hn : n < 8) {v : Word} (hv : v.toNat.testBit 31 = true) (hoff : s.flag F.tsEvtCtl_EN n = false) :
    exec (.eventOutputArm .cc n v) s = .next ((s.evtSet n v).evtArm n) := by
  have hoff' := (flag_of_reg (f := F.tsEvtCtl_EN) (reg_noteWrite h .tsEvtCtl n 0x8000000E 0 rfl n)).trans hoff
  have hexec : exec (.eventOutputArm .cc n v) s = .next ((s.noteWrite .tsEvtCtl n 0x8000000E 0).writeEvtCtl n v) := by
    change execEventOutputArm .cc n v s = _
    unfold execEventOutputArm
    rw [if_neg (Nat.not_le.2 hn)]
    rfl
  rw [hexec, writeEvtCtl_arms hoff' hv]
  rfl

/-- EN set by the control complex for a start that lies ahead: the output is armed at it (R423). -/
theorem eventOutputArm_ahead (h : Inv s) {v : Word} (hv : v.toNat.testBit 31 = true) (hdue : s.dueAt (s.reg .tsEvtStart i).toNat = false) :
    OTable.get? ((s.evtSet i v).evtArm i).time.outputs i = some { next := (s.reg .tsEvtStart i).toNat * 256 + s.fld F.tsEvtFrac_START_FRAC i }
      ∧ ((s.evtSet i v).evtArm i).flag F.tsEvtCtl_EN i = true := by
  obtain ⟨hwf, htime, hctl, hreg⟩ := evtSet_frame h i v
  have hstart := hreg .tsEvtStart rfl (by decide)
  have hdue' : (s.evtSet i v).dueAt ((s.evtSet i v).reg .tsEvtStart i).toNat = false := by
    rw [hstart, dueAt_of_time htime]
    exact hdue
  obtain ⟨ht, hkeep⟩ := evtArm_ahead hwf hdue'
  refine ⟨?_, ?_⟩
  · rw [ht, evtStart_of_regs hstart (hreg .tsEvtFrac rfl (by decide))]
    exact OTable.get?_insert_self _ _ _
  · refine (flag_of_reg (f := F.tsEvtCtl_EN) (hkeep .tsEvtCtl i (fun hk => absurd hk.1 (by decide)))).trans ?_
    exact flag_of_bit (f := F.tsEvtCtl_EN) rfl hctl ((evtCtl_bits v).trans hv)

theorem eventOutputArm_due (h : Inv s) (v : Word) (hdue : s.dueAt (s.reg .tsEvtStart i).toNat = true) :
    ((s.evtSet i v).evtArm i).flag F.tsEvtCtl_EN i = false ∧ ((s.evtSet i v).evtArm i).flag F.tsEvtStat_MISSED i = true
      ∧ ((s.evtSet i v).evtArm i).time.outputs = s.time.outputs := by
  obtain ⟨hwf, htime, -, hreg⟩ := evtSet_frame h i v
  have hdue' : (s.evtSet i v).dueAt ((s.evtSet i v).reg .tsEvtStart i).toNat = true := by
    rw [hreg .tsEvtStart rfl (by decide), dueAt_of_time htime]
    exact hdue
  obtain ⟨ht, hen, hmissed⟩ := evtArm_due hwf hdue'
  exact ⟨hen, hmissed, by rw [ht, htime]⟩

/-! ### The edges of an event output and of PPS_OUT -/

/-- The asserting edge: ACTIVE sets, the pin shows it, and the next edge is WIDTH later (R422). -/
theorem exec_eventOutputEdge_rise (h : RegsWf s) {r : EvtRun} (hr : OTable.get? s.time.outputs i = some r) (hdue : s.due256 r.next = true)
    (hlow : r.high = false) : ∃ t, exec (.eventOutputEdge i) s = .next t ∧ t.flag F.tsEvtStat_ACTIVE i = true
      ∧ t.out = s.out ++ [.pin 0 i (!s.flag F.tsEvtCtl_POL i)]
      ∧ OTable.get? t.time.outputs i = some { next := (r.next + s.fld F.tsEvtWidth_NS i * 256) % 2 ^ 40, high := true } := by
  have hexec : exec (.eventOutputEdge i) s = .next (({ s with time := { s.time with
      outputs := Table.insert s.time.outputs i { next := later256 r.next (s.fld F.tsEvtWidth_NS i * 256), high := true } } }.setFld
        F.tsEvtStat_ACTIVE i 1).emit (.pin 0 i (s.evtLevel i true))) := by
    change execEventOutputEdge i s = _
    unfold execEventOutputEdge
    simp only [hr, hdue, hlow, Bool.not_true, Bool.not_false, Bool.false_eq_true, if_false, if_true]
  refine ⟨_, hexec, ?_, ?_, ?_⟩
  · rw [emit_flag_eq]
    exact flag_setFld_one (s := { s with time := _ }) h (by decide) i
  · exact congrArg (fun b => s.out ++ [Out.pin 0 i b]) (Bool.true_xor _)
  · rw [emit_time, setFld_time]
    exact OTable.get?_insert_self _ _ _

/-- The deasserting edge of a one-shot: ACTIVE clears, the pin shows it, EN clears and DONE sets (R422). -/
theorem exec_eventOutputEdge_fall (h : RegsWf s) {r : EvtRun} (hr : OTable.get? s.time.outputs i = some r) (hdue : s.due256 r.next = true)
    (hhigh : r.high = true) (hone : s.flag F.tsEvtCtl_PERIODIC i = false) : ∃ t, exec (.eventOutputEdge i) s = .next t
      ∧ t.flag F.tsEvtStat_ACTIVE i = false ∧ t.flag F.tsEvtStat_DONE i = true ∧ t.out = s.out ++ [.pin 0 i (s.flag F.tsEvtCtl_POL i)]
      ∧ (s.meet.writes = [] → t.flag F.tsEvtCtl_EN i = false) := by
  have hexec : exec (.eventOutputEdge i) s = .next (((s.setFld F.tsEvtStat_ACTIVE i 0).emit (.pin 0 i (s.evtLevel i false))).evtDone i) := by
    change execEventOutputEdge i s = _
    unfold execEventOutputEdge
    simp only [hr, hdue, hhigh, hone, Bool.not_true, Bool.false_eq_true, if_false]
  refine ⟨_, hexec, ?_⟩
  have hpin : ((s.setFld F.tsEvtStat_ACTIVE i 0).emit (.pin 0 i (s.evtLevel i false))).out = s.out ++ [.pin 0 i (s.flag F.tsEvtCtl_POL i)] :=
    congrArg (fun b => s.out ++ [Out.pin 0 i b]) (Bool.false_xor _)
  have hact : ((s.setFld F.tsEvtStat_ACTIVE i 0).emit (.pin 0 i (s.evtLevel i false))).flag F.tsEvtStat_ACTIVE i = false := by
    rw [emit_flag_eq]
    exact flag_setFld_zero h (by decide) i
  have hwf : RegsWf ((s.setFld F.tsEvtStat_ACTIVE i 0).emit (.pin 0 i (s.evtLevel i false))) := wf_setFld h _ _ _
  have hmeet : ((s.setFld F.tsEvtStat_ACTIVE i 0).emit (.pin 0 i (s.evtLevel i false))).meet = s.meet := rfl
  generalize (s.setFld F.tsEvtStat_ACTIVE i 0).emit (.pin 0 i (s.evtLevel i false)) = m at *
  obtain ⟨hwf', hout', hreg'⟩ := hwFld_frame (m := { m with time := { m.time with outputs := Table.erase m.time.outputs i } }) hwf F.tsEvtCtl_EN i 0
  unfold State.evtDone
  refine ⟨?_, flag_raise_self hwf' (by decide) i, ?_, fun hnone => ?_⟩
  · rw [flag_raise_apart hwf' (by decide) i i]
    exact (flag_of_reg (f := F.tsEvtStat_ACTIVE) (hreg' .tsEvtStat i (by decide) (by decide) (by decide))).trans hact
  · rw [raise_out, hout']
    exact hpin
  · rw [flag_raise_apart hwf' (by decide) i i]
    refine (flag_of_regs (hwFld_regs (s := { m with time := { m.time with outputs := Table.erase m.time.outputs i } }) ?_ _ _ _) _ _).trans
      (flag_setFld_zero (s := { m with time := { m.time with outputs := Table.erase m.time.outputs i } }) hwf (by decide) i)
    exact (congrArg Meet.writes hmeet).trans hnone

/-- PPS_OUT rises as the second of network time passes (R424). -/
theorem exec_ppsOutPulse_rise (hlow : s.time.ppsHigh = none) (hen : s.flag F.tsPpsCfg_EN 0 = true) (hvalid : s.netValid = true)
    (hsec : s.secondPasses = true) : ∃ t, exec .ppsOutPulse s = .next t ∧ t.time.ppsHigh.isSome = true ∧ t.out = s.out ++ [.pin 1 0 true] := by
  have hexec : ∃ at0, exec .ppsOutPulse s = .next ({ s with time := { s.time with ppsHigh := some at0 } }.emit (.pin 1 0 true)) := by
    refine ⟨later256 s.whorl256 (((1000000000 - s.netNs % 1000000000) * 2 ^ 32 - s.time.whorl % 2 ^ 32) / 2 ^ 24 + s.ppsWidth * 256), ?_⟩
    change execPpsOutPulse s = _
    unfold execPpsOutPulse
    simp only [hlow, hen, hvalid, hsec, Bool.and_self, if_true]
  obtain ⟨at0, hexec⟩ := hexec
  exact ⟨_, hexec, rfl, rfl⟩

/-- PPS_OUT falls at its time (R424). -/
theorem exec_ppsOutPulse_fall {at0 : Nat} (hhigh : s.time.ppsHigh = some at0) (hdue : s.due256 at0 = true) :
    exec .ppsOutPulse s = .next ({ s with time := { s.time with ppsHigh := none } }.emit (.pin 1 0 false)) := by
  change execPpsOutPulse s = _
  unfold execPpsOutPulse
  simp only [hhigh, hdue, if_true]

/-! ### Capture inputs -/

/-- What an input's FIFO holds and how its level reads once records are put into it. -/
theorem setCaptures_result (h : RegsWf s) (j : Nat) (l : List CapRec) : (l ≠ [] → (s.setCaptures j l).captures j = l)
    ∧ (s.setCaptures j l).fld F.tsCapStat_LEVEL j = l.length % 32 ∧ (s.setCaptures j l).out = s.out
    ∧ ∀ r i, ¬(r = .tsCapStat ∧ i = j) → (s.setCaptures j l).reg r i = s.reg r i := by
  unfold State.setCaptures
  refine ⟨fun hl => ?_, fld_setFld_self (s := { s with time := _ }) h (by decide) j _, rfl, fun r i hne => reg_setFld_ne (s := { s with time := _ }) h _ hne⟩
  unfold State.captures
  rw [setFld_time]
  dsimp only
  rw [Table.set, if_neg hl, OTable.get?_insert_self]
  rfl

theorem setCaptures_servo (s : State) (j : Nat) (l : List CapRec) : (s.setCaptures j l).time.servo = s.time.servo := by
  unfold State.setCaptures
  rw [setFld_time]

/-- The edge that an input stamps now is its last one. -/
def State.edgeNoted (s : State) (j sub : Nat) : State :=
  { s with time := { s.time with lastEdge := Table.insert s.time.lastEdge j (s.instant sub) } }

/-- The record of an edge `sub` units into the slot (R425). -/
def State.capStamp (s : State) (sub : Nat) (rise : Bool) : CapRec :=
  { ns := (s.whorl256 + sub * 256 / 100) / 256 % 2 ^ 32, frac := (s.whorl256 + sub * 256 / 100) % 256
    parity := s.time.parity != decide (2 ^ 40 ≤ s.whorl256 + sub * 256 / 100), rise := rise }

section
variable {j sub : Nat} {rise : Bool} (hj : j < 5) (hsel : s.capSelects j rise = true) (hlast : OTable.get? s.time.lastEdge j = none)
  (hmode : s.time.servo.mode ≠ 2)
include hj hsel hlast hmode

/-- A selected edge is stamped and joins the FIFO, or is lost where 16 records are held (R425, R426). -/
theorem exec_captureEdge_selected : exec (.captureEdge j sub rise) s = .next
    (if (s.captures j).length < 16 then (s.edgeNoted j sub).setCaptures j (s.captures j ++ [s.capStamp sub rise])
      else ((s.edgeNoted j sub).raise F.tsCapStat_OVF j).count .tsCapOvfCnt j 1) := by
  have hgate : ¬((decide (5 ≤ j) || !s.capSelects j rise) = true) := by simp [hsel, Nat.not_le.2 hj]
  have hservo : ∀ m : State, m.time.servo = s.time.servo → ¬((decide (j = 4) && m.time.servo.mode == 2) = true) := fun m hm => by
    rw [hm]
    simp [hmode]
  change execCaptureEdge j sub rise s = _
  unfold execCaptureEdge
  rw [if_neg hgate]
  simp only [hlast]
  refine if_neg (hservo _ ?_)
  split
  · exact setCaptures_servo _ _ _
  · rw [count_time, raise_time]

theorem captureEdge_joins (h : RegsWf s) (hroom : (s.captures j).length < 16) : ∃ t r, exec (.captureEdge j sub rise) s = .next t
    ∧ t.captures j = s.captures j ++ [r] ∧ r.rise = rise ∧ r.ns = (s.time.whorl / 2 ^ 24 + sub * 256 / 100) / 256 % 2 ^ 32
    ∧ r.frac = (s.time.whorl / 2 ^ 24 + sub * 256 / 100) % 256 ∧ t.fld F.tsCapStat_LEVEL j = (s.captures j).length + 1 := by
  obtain ⟨hcap, hlevel, -⟩ := setCaptures_result (s := s.edgeNoted j sub) h j (s.captures j ++ [s.capStamp sub rise])
  have hexec := exec_captureEdge_selected (sub := sub) hj hsel hlast hmode
  rw [if_pos hroom] at hexec
  refine ⟨_, s.capStamp sub rise, hexec, hcap (by simp), rfl, rfl, rfl, hlevel.trans ?_⟩
  rw [List.length_append, List.length_singleton]
  exact Nat.mod_eq_of_lt (by omega)

theorem captureEdge_lost (h : RegsWf s) (hfull : 16 ≤ (s.captures j).length) : ∃ t, exec (.captureEdge j sub rise) s = .next t
    ∧ t.captures j = s.captures j ∧ t.flag F.tsCapStat_OVF j = true ∧ t.cnt = (s.count .tsCapOvfCnt j 1).cnt := by
  have hexec := exec_captureEdge_selected (sub := sub) hj hsel hlast hmode
  rw [if_neg (Nat.not_lt.2 hfull)] at hexec
  refine ⟨_, hexec, ?_, ?_, rfl⟩
  · unfold State.captures
    rw [count_time, raise_time]
    rfl
  · rw [count_flag_eq]
    exact flag_raise_self (s := s.edgeNoted j sub) h (by decide) j

end

/-- The fields of TS_CAP_INFO in the word that a pop latches. -/
theorem capInfo_fields (parity rise : Bool) {frac : Nat} (hfrac : frac < 256) :
    (word (2 ^ 31 + b2n parity * 2 ^ 30 + b2n rise * 2 ^ 29 + frac)).toNat.testBit 31 = true
    ∧ (word (2 ^ 31 + b2n parity * 2 ^ 30 + b2n rise * 2 ^ 29 + frac)).toNat.testBit 29 = rise := by
  have hlt : 2 ^ 31 + b2n parity * 2 ^ 30 + b2n rise * 2 ^ 29 + frac < 2 ^ 32 := by
    have := b2n_le_one parity
    have := b2n_le_one rise
    omega
  rw [word, BitVec.toNat_ofNat, Nat.mod_eq_of_lt hlt, Nat.testBit_eq_decide_div_mod_eq, Nat.testBit_eq_decide_div_mod_eq]
  cases parity <;> cases rise <;> simp only [b2n, decide_eq_true_eq, decide_eq_false_iff_not, if_true, Bool.false_eq_true, if_false] <;> omega

theorem exec_capturePop_cc {j : Nat} (hj : j < 5) :
    exec (.capturePop .cc j) s = .next ((s.capPop .cc j).1.emit (.readData .cc (Reg.tsCapNs.offset j) (s.capPop .cc j).2)) := by
  change execCapturePop .cc j s = _
  unfold execCapturePop
  rw [if_neg (Nat.not_le.2 hj), readAccess_of_none rfl]

/-- The owner's read pops the oldest record and latches its fields (R426). -/
theorem capturePop_oldest (h : RegsWf s) {j : Nat} (hj : j < 5) (hown : s.flag F.tsCapCtl_OWNER j = true) {r : CapRec} {l : List CapRec}
    (hcap : s.captures j = r :: l) (hlen : l.length < 16) (hfrac : r.frac < 256) : ∃ t, exec (.capturePop .cc j) s = .next t
      ∧ t.out = s.out ++ [.readData .cc (Reg.tsCapNs.offset j) (word r.ns)] ∧ t.flag F.tsCapInfo_VALID j = true
      ∧ t.flag F.tsCapInfo_RISE j = r.rise ∧ t.fld F.tsCapStat_LEVEL j = l.length ∧ (l ≠ [] → t.captures j = l) := by
  have hpop : s.capPop .cc j
      = ((s.setReg .tsCapInfo j (word (2 ^ 31 + b2n r.parity * 2 ^ 30 + b2n r.rise * 2 ^ 29 + r.frac))).setCaptures j l, word r.ns) := by
    unfold State.capPop
    simp only [hown, hcap]
  obtain ⟨hvalid, hrise⟩ := capInfo_fields r.parity r.rise hfrac
  refine ⟨_, exec_capturePop_cc hj, ?_⟩
  rw [hpop]
  dsimp only
  generalize word (2 ^ 31 + b2n r.parity * 2 ^ 30 + b2n r.rise * 2 ^ 29 + r.frac) = w at *
  obtain ⟨hheld, hlevel, hout, hreg⟩ := setCaptures_result (wf_setReg h .tsCapInfo j w) j l
  have hinfo := (hreg .tsCapInfo j (fun hk => absurd hk.1 (by decide))).trans (reg_setReg_self h .tsCapInfo j w)
  refine ⟨?_, ?_, ?_, ?_, hheld⟩
  · exact congrArg (· ++ _) (hout.trans (setReg_out _ _ _ _))
  · exact flag_of_bit (f := F.tsCapInfo_VALID) rfl hinfo hvalid
  · exact flag_of_bit (f := F.tsCapInfo_RISE) rfl hinfo hrise
  · exact hlevel.trans (Nat.mod_eq_of_lt (by omega))

/-- A read of an empty FIFO returns 0 with VALID 0 (R426). -/
theorem capturePop_empty (h : RegsWf s) {j : Nat} (hj : j < 5) (hcap : s.captures j = []) : ∃ t, exec (.capturePop .cc j) s = .next t
    ∧ t.out = s.out ++ [.readData .cc (Reg.tsCapNs.offset j) 0] ∧ t.flag F.tsCapInfo_VALID j = false := by
  have hpop : s.capPop .cc j = (s.setReg .tsCapInfo j 0, 0) := by
    unfold State.capPop
    simp only [hcap]
    split
    · next heq => exact absurd heq (by simp)
    · rfl
  refine ⟨_, exec_capturePop_cc hj, ?_⟩
  rw [hpop]
  exact ⟨rfl, flag_of_bit (f := F.tsCapInfo_VALID) rfl (reg_setReg_self h .tsCapInfo j 0) rfl⟩

end

/-- Settles O17: arming is the end of a running pulse and one insertion, an edge one more, and a pop takes the head of the FIFO. -/
theorem eventOutputsAndCaptures : Obligations.EventOutputsAndCaptures := by
  unfold Obligations.EventOutputsAndCaptures
  refine ⟨fun n v s h hn hv hoff => ⟨fun hdue => ?_, fun hdue => ?_⟩, fun n r s h hr hdue => ⟨fun hlow => ?_, fun hhigh hone => ?_⟩,
    fun s => ⟨fun hlow hen hvalid hsec => ?_, fun at0 hhigh hdue => ?_⟩,
    fun j sub rise s h hj hsel hlast hmode => ⟨fun hroom => ?_, fun hfull => ?_⟩,
    fun j s h hj hown => ⟨fun r l hcap hlen hfrac => ?_, fun hcap => ?_⟩⟩
  · exact ⟨_, exec_eventOutputArm_sets h hn hv hoff, eventOutputArm_ahead h hv hdue⟩
  · exact ⟨_, exec_eventOutputArm_sets h hn hv hoff, eventOutputArm_due h v hdue⟩
  · exact exec_eventOutputEdge_rise h.regs hr hdue hlow
  · exact exec_eventOutputEdge_fall h.regs hr hdue hhigh hone
  · exact exec_ppsOutPulse_rise hlow hen hvalid hsec
  · exact exec_ppsOutPulse_fall hhigh hdue
  · exact captureEdge_joins hj hsel hlast hmode h.regs hroom
  · exact captureEdge_lost hj hsel hlast hmode h.regs hfull
  · exact capturePop_oldest h.regs hj hown hcap hlen hfrac
  · exact capturePop_empty h.regs hj hcap

end Sys2Proof.Machine

/-!
Packets of the whorl, of network time and of the servo (O51): TIME_GET, TIME_SET, TIME_ADJ, TIME_SERVO_SET, TIME_SERVO_GET and TOD_HINT; and where the fields of an answer lie.
-/
namespace Sys2Proof.Machine
open Sys2Proof

/-! ### Where the fields of a block lie (R491) -/

/-- The offset of field `k` of a block whose fields have these types from offset `pos` on. -/
def fieldAt : List Ty → Nat → Nat → Nat
  | [], _, pos => pos
  | t :: _, 0, pos => pos + padTo t.align pos
  | t :: ts, k + 1, pos => fieldAt ts k (pos + padTo t.align pos + t.size)

/-- A field of a block is read at its offset, whatever precedes the block's start. -/
theorem leAt_emitFrom {t : Ty} {v : Nat} (hle : t.encode v = leBytes t.size v) : ∀ (l : List (Ty × Nat)) (k : Nat) (pre rest : List Byte), l[k]? = some (t, v) →
    leAt (pre ++ emitFrom l pre.length ++ rest) (fieldAt (l.map Prod.fst) k pre.length) t.size = v % 256 ^ t.size
  | [], _, _, _, hk => by simp at hk
  | (u, w) :: l, k, pre, rest, hk => by
    have hsplit : pre ++ emitFrom ((u, w) :: l) pre.length
        = (pre ++ List.replicate (padTo u.align pre.length) 0) ++ (u.encode w ++ emitFrom l (pre.length + padTo u.align pre.length + u.size)) := by
      simp only [emitFrom, List.append_assoc]
    have hpre : (pre ++ List.replicate (padTo u.align pre.length) (0 : Byte)).length = pre.length + padTo u.align pre.length := by
      rw [List.length_append, List.length_replicate]
    cases k with
    | zero =>
      obtain ⟨rfl, rfl⟩ := Prod.mk.inj (Option.some.inj hk)
      rw [hsplit, hle, List.append_assoc (pre ++ _), List.append_assoc (leBytes _ _)]
      exact (leAt_append_right hpre _ 0 _).trans (leAt_leBytes_append _ _ _)
    | succ k =>
      have hlen : (pre ++ List.replicate (padTo u.align pre.length) (0 : Byte) ++ u.encode w).length
          = pre.length + padTo u.align pre.length + u.size := by
        rw [List.length_append, hpre, Ty.length_encode]
      have ih := leAt_emitFrom hle l k (pre ++ List.replicate (padTo u.align pre.length) (0 : Byte) ++ u.encode w) rest hk
      rw [hlen] at ih
      rw [hsplit, ← List.append_assoc]
      exact ih

theorem fieldAt_append (more : List Ty) : ∀ (ts : List Ty) (k pos : Nat), k < ts.length → fieldAt (ts ++ more) k pos = fieldAt ts k pos
  | [], _, _, hk => absurd hk (Nat.not_lt_zero _)
  | _ :: _, 0, _, _ => rfl
  | _ :: ts, k + 1, _, hk => fieldAt_append more ts k _ (Nat.lt_of_succ_lt_succ hk)

/-- What field `k` of a reply reads, whose first fields have the types `ts`: its value, as far as its bytes hold it. -/
theorem leAt_emitBlock {l : List (Ty × Nat)} {ts more : List Ty} (hts : l.map Prod.fst = ts ++ more) {k x n v : Nat} {t : Ty}
    (hk : l[k]? = some (t, v)) (hx : fieldAt ts k 0 = x ∧ k < ts.length) (hn : t.size = n) (hle : t.encode v = leBytes t.size v) :
    leAt (emitBlock l) x n = v % 256 ^ n := by
  obtain ⟨rfl, hlt⟩ := hx
  subst hn
  have hread := leAt_emitFrom hle l k [] (List.replicate (padTo 4 (emitFrom l 0).length) 0) hk
  rw [hts, fieldAt_append more ts k _ hlt] at hread
  exact hread

section
variable {s t : State} {p : Packet} {a : Args}

/-! ### TIME_GET and TIME_SERVO_GET (R428, R431) -/

theorem b2n_mod_byte (b : Bool) : b2n b % 256 = b2n b := Nat.mod_eq_of_lt (Nat.lt_of_le_of_lt (b2n_le_one b) (by decide))

theorem packNet_lt (n : Nat) : packNet n < 256 ^ 10 := by
  rw [packNet]
  omega

/-- The fields that TIME_GET answers. -/
def State.timeFields (s : State) : List (Ty × Nat) :=
  [ (.u 32, s.whorlNs), (.u 32, s.time.whorl % 2 ^ 32), flagOf s.time.parity, (.wide 80, packNet s.netNs), flagOf s.netValid,
    (.wide 80, s.time.even.ns + s.time.even.sec * 2 ^ 32), flagOf s.time.armEven, (.wide 80, s.time.odd.ns + s.time.odd.sec * 2 ^ 32),
    flagOf s.time.armOdd, flagOf s.time.todSet, flagOf s.time.staleAct, (.u 40, s.time.inc), (.s 32, (s.reg .tsSlewDelta 0).toNat),
    (.u 32, s.time.slewLeft), (.u 8, s.time.servo.state.num) ]

theorem timeFields_types (s : State) : s.timeFields.map Prod.fst
    = [.u 32, .u 32, .flag, .wide 80, .flag] ++ [.wide 80, .flag, .wide 80, .flag, .flag, .flag, .u 40, .s 32, .u 32, .u 8] := rfl

theorem timeGet_completes (hacc : Accepts 0x0900 p s) : Completes (.timeGet p) 0x0900 p s (begun 0x0900 p s) .ok (emitBlock s.timeFields) := by
  change execTimeGet p s = _
  unfold execTimeGet
  exact completes_of_checks (checks := []) hacc rfl rfl

theorem leAt_timeFields (s : State) : leAt (emitBlock s.timeFields) 0 4 = s.whorlNs % 2 ^ 32 ∧ leAt (emitBlock s.timeFields) 4 4 = s.time.whorl % 2 ^ 32
    ∧ leAt (emitBlock s.timeFields) 8 1 = b2n s.time.parity ∧ leAt (emitBlock s.timeFields) 16 10 = packNet s.netNs
    ∧ leAt (emitBlock s.timeFields) 26 1 = b2n s.netValid := by
  refine ⟨?_, ?_, ?_, ?_, ?_⟩
  · exact leAt_emitBlock (timeFields_types s) (k := 0) rfl (by decide) rfl rfl
  · exact (leAt_emitBlock (timeFields_types s) (k := 1) rfl (by decide) rfl rfl).trans (Nat.mod_mod _ _)
  · exact (leAt_emitBlock (timeFields_types s) (k := 2) rfl (by decide) rfl rfl).trans (b2n_mod_byte _)
  · exact (leAt_emitBlock (timeFields_types s) (k := 3) rfl (by decide) rfl rfl).trans (Nat.mod_eq_of_lt (packNet_lt _))
  · exact (leAt_emitBlock (timeFields_types s) (k := 4) rfl (by decide) rfl rfl).trans (b2n_mod_byte _)

/-- The fields that TIME_SERVO_GET answers. -/
def State.servoFields (s : State) : List (Ty × Nat) :=
  [ (.u 2, s.time.servo.mode), (.u 10, s.time.servo.port), (.u 8, s.time.servo.domain), (.u 32, s.time.servo.lockNs), (.u 32, s.time.servo.stepNs),
    (.u 32, s.time.servo.slewMax), (.u 32, s.time.servo.holdMax), (.u 8, s.time.servo.state.num), (.s 64, ofSigned 64 s.time.servo.lastOffset),
    (.u 32, s.epoch - s.time.servo.since) ] ++ s.time.servo.changes.map fun n => (.u 32, n)

theorem servoFields_types (s : State) : s.servoFields.map Prod.fst = [.u 2, .u 10, .u 8, .u 32, .u 32, .u 32, .u 32, .u 8]
    ++ ([.s 64, .u 32] ++ (s.time.servo.changes.map fun n => (Ty.u 32, n)).map Prod.fst) := rfl

theorem timeServoGet_completes (hacc : Accepts 0x0904 p s) :
    Completes (.timeServoGet p) 0x0904 p s (begun 0x0904 p s) .ok (emitBlock s.servoFields) := by
  change execTimeServoGet p s = _
  unfold execTimeServoGet
  exact completes_of_checks (checks := []) hacc rfl rfl

theorem leAt_servoFields (s : State) : leAt (emitBlock s.servoFields) 0 1 = s.time.servo.mode % 256
    ∧ leAt (emitBlock s.servoFields) 2 2 = s.time.servo.port % 65536 ∧ leAt (emitBlock s.servoFields) 4 1 = s.time.servo.domain % 256
    ∧ leAt (emitBlock s.servoFields) 8 4 = s.time.servo.lockNs % 2 ^ 32 ∧ leAt (emitBlock s.servoFields) 12 4 = s.time.servo.stepNs % 2 ^ 32
    ∧ leAt (emitBlock s.servoFields) 16 4 = s.time.servo.slewMax % 2 ^ 32 ∧ leAt (emitBlock s.servoFields) 20 4 = s.time.servo.holdMax % 2 ^ 32
    ∧ leAt (emitBlock s.servoFields) 24 1 = s.time.servo.state.num := by
  refine ⟨?_, ?_, ?_, ?_, ?_, ?_, ?_, ?_⟩
  · exact leAt_emitBlock (servoFields_types s) (k := 0) rfl (by decide) rfl rfl
  · exact leAt_emitBlock (servoFields_types s) (k := 1) rfl (by decide) rfl rfl
  · exact leAt_emitBlock (servoFields_types s) (k := 2) rfl (by decide) rfl rfl
  · exact leAt_emitBlock (servoFields_types s) (k := 3) rfl (by decide) rfl rfl
  · exact leAt_emitBlock (servoFields_types s) (k := 4) rfl (by decide) rfl rfl
  · exact leAt_emitBlock (servoFields_types s) (k := 5) rfl (by decide) rfl rfl
  · exact leAt_emitBlock (servoFields_types s) (k := 6) rfl (by decide) rfl rfl
  · refine (leAt_emitBlock (servoFields_types s) (k := 7) rfl (by decide) rfl rfl).trans ?_
    cases s.time.servo.state <;> rfl

/-! ### TIME_SET (R429) -/

theorem timeSet_completes (hacc : Accepts 0x0901 p s) (ha : readParams 0x0901 p.params = a) (hbad : a.bad = false) (hmode : s.time.servo.mode = 0)
    (hns : a.n 0 % 2 ^ 32 ≤ 999999999) :
    Completes (.timeSet p) 0x0901 p s ((begun 0x0901 p s).setNetTime (unpackNet (a.n 0))) .ok (emitBlock []) := by
  subst ha
  change execTimeSet p s = _
  unfold execTimeSet
  refine completes_of_checks hacc (firstFail_of_all_false ?_) rfl
  simp only [List.forall_mem_cons, hbad, begun_time, hmode, bne_self_eq_false, Bool.false_or, decide_eq_false_iff_not, not_lt, hns, true_and]
  exact fun c hc => absurd hc List.not_mem_nil

/-- A load of network time leaves the whorl and what governs its addition. -/
theorem setNetTime_rate (s : State) (n : Nat) : (s.setNetTime n).time.whorl = s.time.whorl ∧ (s.setNetTime n).time.rate = s.time.rate := by
  unfold State.setNetTime State.loadNextBase
  dsimp only
  generalize NetBase.ofNs _ = b
  exact ⟨(loadBase_whorl _ _ _).trans (loadBase_whorl _ _ _), (loadBase_rate _ _ _).trans (loadBase_rate _ _ _)⟩

theorem effInc_of_rate {t u : TimeEng} (h : t.rate = u.rate) : t.effInc = u.effInc := by
  have hraw : t.rawInc = u.rawInc := rawInc_of_rate h
  rw [TimeEng.effInc, TimeEng.effInc, hraw]

/-- A base holds its ns modulo the 48-bit range of its seconds. -/
theorem ofNs_total (n : Nat) : (NetBase.ofNs n).total = n % (2 ^ 48 * 1000000000) := by
  dsimp only [NetBase.ofNs, NetBase.total]
  omega

theorem ofNs_congr {m n : Nat} (h : m % (2 ^ 48 * 1000000000) = n % (2 ^ 48 * 1000000000)) : NetBase.ofNs m = NetBase.ofNs n := by
  rw [NetBase.ofNs, NetBase.ofNs, NetBase.mk.injEq]
  omega

/-- The whorl at the end of a slot is far below the range of network time. -/
theorem whorlEnd_le (h : Inv s) : (s.time.whorl + s.time.effInc) / 2 ^ 32 ≤ 2 ^ 48 * 1000000000 := by
  have hw := h.whorl
  have he : s.time.effInc ≤ 2 ^ 64 := Nat.le_trans (effInc_le _) (by decide)
  omega

theorem setNetTime_result (h : Inv s) (n : Nat) : (s.setNetTime n).netValid = true ∧ (s.setNetTime n).flag F.tsStat_ACT_LOAD 0 = true
    ∧ (s.setNetTime n).time.whorl = s.time.whorl ∧ (s.setNetTime n).time.parity = s.time.parity
    ∧ NetBase.ofNs ((s.setNetTime n).time.active.total + ((s.setNetTime n).time.whorl + (s.setNetTime n).time.effInc) / 2 ^ 32) = NetBase.ofNs n
    ∧ (s.setNetTime n).time.next = NetBase.ofNs ((s.setNetTime n).time.active.total + 2 ^ 32)
    ∧ (s.setNetTime n).time.arm (!(s.setNetTime n).time.parity) = true ∧ ∀ r i, r ≠ .tsStat → (s.setNetTime n).reg r i = s.reg r i := by
  obtain ⟨hparity, hactive, hnext, harm, htod, hstale, -⟩ := setNetTime_time h.regs n rfl
  obtain ⟨hload, hreg⟩ := setNetTime_regs h.regs n
  obtain ⟨hwhorl, hrate⟩ := setNetTime_rate s n
  have hend := whorlEnd_le h
  refine ⟨?_, hload, hwhorl, hparity, ?_, ?_, ?_, hreg⟩
  · rw [State.netValid, htod, hstale]
    rfl
  · rw [hactive, hwhorl, effInc_of_rate hrate, ofNs_total]
    refine ofNs_congr ?_
    generalize (s.time.whorl + s.time.effInc) / 2 ^ 32 = w at *
    omega
  · rw [hnext, hactive]
  · rw [hparity]
    exact harm

/-! ### TIME_ADJ (R430) -/

/-- A DELTA inside its bounds is read from the register as it was written. -/
theorem slewDeltaOf_ofSigned {d : Int} (hlo : -(2 ^ 28) ≤ d) (hhi : d ≤ 2 ^ 28) : slewDeltaOf (word (ofSigned 32 d)) = d := by
  have hword : (word (ofSigned 32 d)).toNat = ofSigned 32 d := by
    rw [word, BitVec.toNat_ofNat, Nat.mod_eq_of_lt (ofSigned_lt 32 d)]
  rw [slewDeltaOf, hword, toSigned, ofSigned]
  split <;> omega

/-- The increment that TIME_ADJ gives is committed. -/
def State.adjInc (s : State) (set : Bool) (inc : Nat) : State :=
  if set then { s with time := { s.time with incShadow := inc % 2 ^ 32, incPend := some inc } } else s

/-- The slew that TIME_ADJ gives waits for the edge. -/
def State.adjSlew (s : State) (set : Bool) (delta : Int) (n : Nat) : State :=
  if set then { s.setReg .tsSlewDelta 0 (word (ofSigned 32 delta)) with time := { s.time with slewPend := some n } } else s

theorem adjInc_time (s : State) (set : Bool) (inc : Nat) : (s.adjInc set inc).time.incPend = (if set then some inc else s.time.incPend)
    ∧ (s.adjInc set inc).time.slewPend = s.time.slewPend ∧ (s.adjInc set inc).time.whorl = s.time.whorl ∧ (s.adjInc set inc).regs = s.regs := by
  cases set <;> exact ⟨rfl, rfl, rfl, rfl⟩

theorem adjSlew_time (h : RegsWf s) (set : Bool) {delta : Int} (n : Nat) : (s.adjSlew set delta n).time.incPend = s.time.incPend
    ∧ (s.adjSlew set delta n).time.slewPend = (if set then some n else s.time.slewPend) ∧ (s.adjSlew set delta n).time.whorl = s.time.whorl
    ∧ (set = true → (s.adjSlew set delta n).reg .tsSlewDelta 0 = word (ofSigned 32 delta))
    ∧ ∀ r i, set = false ∨ r ≠ .tsSlewDelta → (s.adjSlew set delta n).reg r i = s.reg r i := by
  cases set with
  | false => exact ⟨rfl, rfl, rfl, fun hset => absurd hset Bool.false_ne_true, fun _ _ _ => rfl⟩
  | true =>
    refine ⟨rfl, rfl, rfl, fun _ => reg_setReg_self h _ _ _, fun r i hne => ?_⟩
    exact reg_setReg_ne h _ fun hk => hne.elim (fun hset => Bool.false_ne_true hset.symm) (· hk.1)

/-- The slots and the DELTA of the slew that TIME_ADJ asks for. -/
def Args.adjSlots (a : Args) : Nat := if a.f 2 then slewSlots (a.i 3 64) (a.n 4) else 0

def Args.adjDelta (a : Args) : Int := if a.i 3 64 < 0 then -(a.n 4 : Int) else a.n 4

/-- What TIME_ADJ checks of its increment and of its slew (R430). -/
structure AdjGood (a : Args) (inc : Nat) : Prop where
  lo : Config.incMin ≤ inc
  hi : inc ≤ Config.incMax
  sum : a.f 2 = true → (Config.incMin : Int) ≤ inc + a.adjDelta ∧ (inc : Int) + a.adjDelta ≤ Config.incMax
  slew : a.f 2 = true → (a.i 3 64).natAbs ≤ 25600000000 ∧ 1 ≤ a.n 4 ∧ a.n 4 ≤ 2 ^ 28 ∧ slewSlots (a.i 3 64) (a.n 4) ≤ 2 ^ 32 - 1

theorem AdjGood.passes {inc : Nat} (hgood : AdjGood a inc) :
    (false || decide (inc < Config.incMin) || decide (Config.incMax < inc)
      || decide ((inc : Int) + (if a.f 2 then if a.i 3 64 < 0 then -(a.n 4 : Int) else a.n 4 else 0) < Config.incMin)
      || decide ((Config.incMax : Int) < inc + (if a.f 2 then if a.i 3 64 < 0 then -(a.n 4 : Int) else a.n 4 else 0))
      || (a.f 2 && (decide (25600000000 < (a.i 3 64).natAbs) || decide (a.n 4 < 1) || decide (2 ^ 28 < a.n 4)
        || decide (2 ^ 32 - 1 < if a.f 2 then slewSlots (a.i 3 64) (a.n 4) else 0)))) = false := by
  obtain ⟨hlo, hhi, hsum, hslew⟩ := hgood
  cases h2 : a.f 2 with
  | false =>
    simp only [Bool.false_and, Bool.or_false, Bool.false_or, Bool.false_eq_true, if_false, Int.add_zero, Bool.or_eq_false_iff,
      decide_eq_false_iff_not, not_lt, Nat.cast_le]
    exact ⟨⟨⟨hlo, hhi⟩, hlo⟩, hhi⟩
  | true =>
    obtain ⟨hlo', hhi'⟩ := hsum h2
    obtain ⟨hphase, hmin, hmax, hslots⟩ := hslew h2
    simp only [Bool.true_and, Bool.false_or, if_true, Bool.or_eq_false_iff, decide_eq_false_iff_not, not_lt]
    exact ⟨⟨⟨⟨hlo, hhi⟩, hlo'⟩, hhi'⟩, ⟨⟨hphase, hmin⟩, hmax⟩, hslots⟩

theorem timeAdj_completes (hacc : Accepts 0x0902 p s) (ha : readParams 0x0902 p.params = a) (hbad : a.bad = false) (hmode : s.time.servo.mode = 0)
    {inc : Nat} (hinc : inc = if a.f 0 then a.n 1 else s.time.inc) (hgood : AdjGood a inc) :
    Completes (.timeAdj p) 0x0902 p s (((begun 0x0902 p s).adjInc (a.f 0) inc).adjSlew (a.f 2) a.adjDelta a.adjSlots) .ok
      (emitBlock [(.u 32, a.adjSlots)]) := by
  subst ha
  generalize ha : readParams 0x0902 p.params = a at *
  change execTimeAdj p s = _
  unfold execTimeAdj
  refine completes_of_checks hacc (firstFail_of_all_false ?_) (by rw [ha, hinc]; rfl)
  rw [begun_time, hmode, ← hinc, hbad]
  exact List.forall_mem_cons.2 ⟨rfl, List.forall_mem_singleton.2 hgood.passes⟩

theorem adjGood_of {inc : Nat} {delta : Int} (hdelta : delta = a.adjDelta)
    (hinc : Config.incMin ≤ inc ∧ inc ≤ Config.incMax ∧ (a.f 2 = true → (Config.incMin : Int) ≤ inc + delta ∧ (inc : Int) + delta ≤ Config.incMax))
    (hslew : a.f 2 = true → (a.i 3 64).natAbs ≤ 25600000000 ∧ 1 ≤ a.n 4 ∧ a.n 4 ≤ 2 ^ 28 ∧ slewSlots (a.i 3 64) (a.n 4) ≤ 2 ^ 32 - 1) :
    AdjGood a inc := ⟨hinc.1, hinc.2.1, hdelta ▸ hinc.2.2, hslew⟩

theorem timeAdj_result (h : Inv s) (hslew : a.f 2 = true → a.n 4 ≤ 2 ^ 28) (inc : Nat) {t : State}
    (ht : t = ((begun 0x0902 p s).adjInc (a.f 0) inc).adjSlew (a.f 2) a.adjDelta a.adjSlots) (hinc : a.f 0 = true → inc = a.n 1) :
    t.time.incPend = (if a.f 0 then some (a.n 1) else s.time.incPend)
    ∧ t.time.slewPend = (if a.f 2 then some (slewSlots (a.i 3 64) (a.n 4)) else s.time.slewPend)
    ∧ (a.f 2 = true → slewDeltaOf (t.reg .tsSlewDelta 0) = a.adjDelta) ∧ t.time.whorl = s.time.whorl
    ∧ ∀ r i, a.f 2 = false ∨ r ≠ .tsSlewDelta → t.reg r i = s.reg r i := by
  subst ht
  obtain ⟨hi1, hi2, hi3, hi4⟩ := adjInc_time (begun 0x0902 p s) (a.f 0) inc
  have hwf : RegsWf ((begun 0x0902 p s).adjInc (a.f 0) inc) := by
    rw [RegsWf, hi4]
    exact h.regs
  obtain ⟨hs1, hs2, hs3, hs4, hs5⟩ := adjSlew_time hwf (a.f 2) (delta := a.adjDelta) a.adjSlots
  refine ⟨hs1.trans (hi1.trans ?_), hs2.trans ?_, fun h2 => ?_, hs3.trans hi3, fun r i hne => (hs5 r i hne).trans (reg_of_regs hi4 r i)⟩
  · split
    · next h0 => rw [hinc h0]
    · rfl
  · rw [hi2, Args.adjSlots]
    split <;> rfl
  · rw [hs4 h2]
    have hbound := hslew h2
    have hsign : -(2 ^ 28) ≤ a.adjDelta ∧ a.adjDelta ≤ 2 ^ 28 := by
      rw [Args.adjDelta]
      split <;> omega
    exact slewDeltaOf_ofSigned hsign.1 hsign.2

/-! ### TIME_SERVO_SET and TOD_HINT (R431, R432) -/

/-- The servo's parameters as TIME_SERVO_SET puts them. -/
def State.servoPut (s : State) (a : Args) : State :=
  { s with time := { s.time with servo := { s.time.servo with
      mode := a.n 0, port := a.n 1, domain := a.n 2, lockNs := a.n 3, stepNs := a.n 4, slewMax := a.n 5, holdMax := a.n 6 } } }

/-- HOST_OWN and the owner of the PPS_IN capture input follow the mode. -/
def State.servoOwn (s : State) (mode : Nat) : State :=
  if mode = 2 then (s.setFld F.tsCtl_HOST_OWN 0 (b2n (mode == 3))).setFld F.tsCapCtl_OWNER 4 1 else s.setFld F.tsCtl_HOST_OWN 0 (b2n (mode == 3))

/-- The servo stops in modes 0 and 3 and starts a changed mode in FREE_RUN. -/
def State.servoStart (s : State) (was mode : Nat) : State :=
  if mode = 0 ∨ mode = 3 then s.servoTo .stopped else if mode = was then s else s.servoTo .freeRun

theorem timeServoSet_completes (hacc : Accepts 0x0903 p s) (ha : readParams 0x0903 p.params = a) (hbad : a.bad = false)
    (hsource : a.n 0 = 1 → s.hasPort (a.n 1) = true ∧ s.flag F.macMode_BC (a.n 1) = true ∧ s.domainConfigured (a.n 1) (a.n 2) = true)
    (hlock : a.n 3 ≠ 0) (hstep : a.n 3 < a.n 4) (hmin : 1 ≤ a.n 5) (hmax : a.n 5 ≤ 2 ^ 28) :
    Completes (.timeServoSet p) 0x0903 p s ((((begun 0x0903 p s).servoPut a).servoOwn (a.n 0)).servoStart s.time.servo.mode (a.n 0)) .ok
      (emitBlock []) := by
  subst ha
  change execTimeServoSet p s = _
  unfold execTimeServoSet
  refine completes_of_checks hacc (firstFail_of_all_false ?_) rfl
  generalize readParams 0x0903 p.params = a at *
  have hport : (a.n 0 == 1 && !(begun 0x0903 p s).hasPort (a.n 1)) = false := by
    by_cases h1 : a.n 0 = 1
    · simp [(hsource h1).1]
    · simp [h1]
  have hbc : (a.bad || (a.n 0 == 1 && (!(begun 0x0903 p s).flag F.macMode_BC (a.n 1) || !(begun 0x0903 p s).domainConfigured (a.n 1) (a.n 2)))) = false := by
    by_cases h1 : a.n 0 = 1
    · have hdom : (begun 0x0903 p s).domainConfigured (a.n 1) (a.n 2) = true := (hsource h1).2.2
      simp [hbad, (hsource h1).2.1, hdom]
    · simp [hbad, h1]
  have hpar : (a.n 3 == 0 || decide (a.n 4 ≤ a.n 3) || decide (a.n 5 < 1) || decide (2 ^ 28 < a.n 5)) = false := by
    simp [hlock, hstep, Nat.pos_iff_ne_zero.1 hmin]
    omega
  exact List.forall_mem_cons.2 ⟨hport, List.forall_mem_cons.2 ⟨hbc, List.forall_mem_singleton.2 hpar⟩⟩

theorem servoTo_regs (s : State) (n : ServoState) : (s.servoTo n).regs = s.regs ∧ (s.servoTo n).time.slewLeft = s.time.slewLeft := by
  unfold State.servoTo
  split <;> exact ⟨rfl, rfl⟩

/-- A change of state leaves the mode and the parameters. -/
theorem servoTo_parameters (s : State) (n : ServoState) : (s.servoTo n).time.servo.mode = s.time.servo.mode
    ∧ (s.servoTo n).time.servo.port = s.time.servo.port ∧ (s.servoTo n).time.servo.domain = s.time.servo.domain
    ∧ (s.servoTo n).time.servo.lockNs = s.time.servo.lockNs ∧ (s.servoTo n).time.servo.stepNs = s.time.servo.stepNs
    ∧ (s.servoTo n).time.servo.slewMax = s.time.servo.slewMax ∧ (s.servoTo n).time.servo.holdMax = s.time.servo.holdMax := by
  unfold State.servoTo
  split <;> exact ⟨rfl, rfl, rfl, rfl, rfl, rfl, rfl⟩

/-- The start of a mode is a change of state or nothing. -/
theorem servoStart_cases (s : State) (was mode : Nat) : s.servoStart was mode = s ∨ ∃ n, s.servoStart was mode = s.servoTo n := by
  unfold State.servoStart
  split
  · exact Or.inr ⟨_, rfl⟩
  · split
    · exact Or.inl rfl
    · exact Or.inr ⟨_, rfl⟩

theorem servoStart_state (s : State) (was mode : Nat) : (s.servoStart was mode).time.servo.state
    = if mode = 0 ∨ mode = 3 then .stopped else if mode = was then s.time.servo.state else .freeRun := by
  unfold State.servoStart
  split
  · exact (servoTo_servo _ _).1
  · split
    · rfl
    · exact (servoTo_servo _ _).1

theorem servoOwn_frame (h : RegsWf s) (mode : Nat) : (s.servoOwn mode).time = s.time ∧ (s.servoOwn mode).flag F.tsCtl_HOST_OWN 0 = (mode == 3)
    ∧ ∀ r i, r ≠ .tsCtl → ¬(r = .tsCapCtl ∧ i = 4 ∧ mode = 2) → (s.servoOwn mode).reg r i = s.reg r i := by
  have hown := flag_setFld_bool h (f := F.tsCtl_HOST_OWN) (by decide) 0 (mode == 3)
  have hwf : RegsWf (s.setFld F.tsCtl_HOST_OWN 0 (b2n (mode == 3))) := wf_setFld h _ _ _
  have hreg : ∀ r i, r ≠ .tsCtl → (s.setFld F.tsCtl_HOST_OWN 0 (b2n (mode == 3))).reg r i = s.reg r i :=
    fun r i hr => reg_setFld_ne h _ fun hk => hr hk.1
  have htime := setFld_time (s := s) F.tsCtl_HOST_OWN 0 (b2n (mode == 3))
  unfold State.servoOwn
  generalize s.setFld F.tsCtl_HOST_OWN 0 (b2n (mode == 3)) = m at *
  split
  · next h2 =>
    refine ⟨(setFld_time _ _ _ _).trans htime, (flag_setFld_apart hwf (by decide) _ _ _).trans hown, fun r i hr hne => ?_⟩
    exact (reg_setFld_ne hwf _ fun hk => hne ⟨hk.1, hk.2, h2⟩).trans (hreg r i hr)
  · exact ⟨htime, hown, fun r i hr _ => hreg r i hr⟩

/-- What TIME_SERVO_SET leaves (R431). -/
theorem timeServoSet_result (h : RegsWf s) (was : Nat) {t : State} (ht : t = ((s.servoPut a).servoOwn (a.n 0)).servoStart was (a.n 0)) :
    (t.time.servo.mode = a.n 0 ∧ t.time.servo.port = a.n 1 ∧ t.time.servo.domain = a.n 2 ∧ t.time.servo.lockNs = a.n 3
      ∧ t.time.servo.stepNs = a.n 4 ∧ t.time.servo.slewMax = a.n 5 ∧ t.time.servo.holdMax = a.n 6)
    ∧ t.flag F.tsCtl_HOST_OWN 0 = (a.n 0 == 3)
    ∧ t.time.servo.state = (if a.n 0 = 0 ∨ a.n 0 = 3 then .stopped else if a.n 0 = was then s.time.servo.state else .freeRun)
    ∧ t.time.slewLeft = s.time.slewLeft ∧ ∀ r i, r ≠ .tsCtl → ¬(r = .tsCapCtl ∧ i = 4 ∧ a.n 0 = 2) → t.reg r i = s.reg r i := by
  subst ht
  obtain ⟨htime, hown, hreg⟩ := servoOwn_frame (s := s.servoPut a) h (a.n 0)
  rw [servoStart_state]
  generalize (s.servoPut a).servoOwn (a.n 0) = m at *
  have hservo : m.time.servo.mode = a.n 0 ∧ m.time.servo.port = a.n 1 ∧ m.time.servo.domain = a.n 2 ∧ m.time.servo.lockNs = a.n 3
      ∧ m.time.servo.stepNs = a.n 4 ∧ m.time.servo.slewMax = a.n 5 ∧ m.time.servo.holdMax = a.n 6 := by
    rw [htime]
    exact ⟨rfl, rfl, rfl, rfl, rfl, rfl, rfl⟩
  have hstate : m.time.servo.state = s.time.servo.state := by rw [htime]; rfl
  have hslew : m.time.slewLeft = s.time.slewLeft := by rw [htime]; rfl
  rw [hstate]
  rcases servoStart_cases m was (a.n 0) with hkeep | ⟨n, hto⟩
  · rw [hkeep]
    exact ⟨hservo, hown, rfl, hslew, hreg⟩
  · obtain ⟨hregs, hleft⟩ := servoTo_regs m n
    obtain ⟨h1, h2, h3, h4, h5, h6, h7⟩ := servoTo_parameters m n
    rw [hto, h1, h2, h3, h4, h5, h6, h7, hleft, flag_of_regs hregs]
    exact ⟨hservo, hown, rfl, hslew, fun r i hr hne => (reg_of_regs hregs r i).trans (hreg r i hr hne)⟩

theorem todHint_completes (hacc : Accepts 0x0905 p s) (ha : readParams 0x0905 p.params = a) (hbad : a.bad = false) (hmode : s.time.servo.mode = 2)
    (hsec : a.n 0 ≤ 2 ^ 48 - 1) : ∃ t, Completes (.todHint p) 0x0905 p s t .ok (emitBlock [(.u 32, s.whorlNs)])
      ∧ t.time.servo.hint = some (a.n 0, s.tick.slot) ∧ t.time.servo.state = s.time.servo.state ∧ t.regs = s.regs := by
  subst ha
  refine ⟨{ begun 0x0905 p s with time := { s.time with servo := { s.time.servo with hint := some ((readParams 0x0905 p.params).n 0, s.tick.slot) } } },
    ?_, rfl, rfl, rfl⟩
  change execTodHint p s = _
  unfold execTodHint
  refine completes_of_checks hacc (firstFail_of_all_false ?_) rfl
  have hsec' : ¬ 2 ^ 48 - 1 < (readParams 0x0905 p.params).n 0 := Nat.not_lt.2 hsec
  refine List.forall_mem_cons.2 ⟨?_, List.forall_mem_singleton.2 (decide_eq_false hsec')⟩
  rw [begun_time, hbad, hmode]
  rfl

end

/-- Settles O51: each packet passes its checks; TIME_SET is firmware's load of network time, and the fields of an answer lie at their offsets. -/
theorem timePacketsAnswer : Obligations.TimePacketsAnswer := by
  unfold Obligations.TimePacketsAnswer
  refine ⟨fun p s hacc => ⟨_, timeGet_completes hacc, leAt_timeFields s⟩, ?_, ?_, ?_, fun p s hacc => ⟨_, timeServoGet_completes hacc, leAt_servoFields s⟩,
    fun p a s hacc ha hbad hmode hsec => todHint_completes hacc ha hbad hmode hsec⟩
  · intro p a s h hacc ha hbad hmode hns
    exact ⟨_, timeSet_completes hacc ha hbad hmode hns, setNetTime_result (s := begun 0x0901 p s) (begun_inv h _ _) _⟩
  · intro p a delta s h hacc ha hbad hmode hdelta hinc hslew
    refine ⟨_, timeAdj_completes hacc ha hbad hmode rfl (adjGood_of hdelta (hinc _ rfl) hslew), ?_⟩
    rw [hdelta]
    exact timeAdj_result h (fun h2 => (hslew h2).2.2.1) _ rfl fun h0 => if_pos h0
  · intro p a s h hacc ha hbad hsource hlock hstep hmin hmax
    obtain ⟨⟨h0, h1, h2, h3, h4, h5, h6⟩, hown, hstate, hslew, hreg⟩ :=
      timeServoSet_result (s := begun 0x0903 p s) (a := a) h.regs s.time.servo.mode rfl
    exact ⟨_, timeServoSet_completes hacc ha hbad hsource hlock hstep hmin hmax, h0, h1, h2, h3, h4, h5, h6, hown, hstate, hslew, hreg⟩

end Sys2Proof.Machine

/-!
Packets of the time pins (O52): TIME_EVT_SET, TIME_PPS_SET, TIME_CAP_SET, TIME_CAP_GET and TIME_RCLK_SET.
-/
namespace Sys2Proof.Machine
open Sys2Proof

section
variable {s m : State} {p : Packet} {a : Args} {i : Nat}

/-! ### A write of TS_EVT_CTL -/

/-- The stop of an output changes at most what runs on it. -/
theorem evtStop_frame (h : RegsWf m) (i : Nat) : RegsWf (m.evtStop i) ∧ (m.evtStop i).time.held = m.time.held
    ∧ (m.evtStop i).time.whorl = m.time.whorl ∧ (m.evtStop i).time.active = m.time.active
    ∧ ∀ r j, ¬(r = .tsEvtStat ∧ j = i) → (m.evtStop i).reg r j = m.reg r j := by
  have hset : ∀ u : State, RegsWf u → RegsWf (u.setFld F.tsEvtStat_ACTIVE i 0) := fun u hu => wf_setFld hu _ _ _
  have htime : ∀ (u : State) (o : Out), ((u.setFld F.tsEvtStat_ACTIVE i 0).emit o).time = u.time := fun u o => (emit_time (s := u.setFld F.tsEvtStat_ACTIVE i 0) o).trans (setFld_time _ _ _ _)
  unfold State.evtStop
  split
  · split
    · exact ⟨h, rfl, rfl, rfl, fun _ _ _ => rfl⟩
    · dsimp only
      split
      · refine ⟨hset { m with time := _ } h, ?_, ?_, ?_, fun r j hne => reg_setFld_ne (s := { m with time := _ }) h _ hne⟩ <;> rw [htime]
        · rfl
      · exact ⟨h, rfl, rfl, rfl, fun _ _ _ => rfl⟩
  · exact ⟨h, rfl, rfl, rfl, fun _ _ _ => rfl⟩

/-- A write that clears EN stops the output and stores the written bits (R423). -/
theorem writeEvtCtl_clear (h : RegsWf m) {v : Word} (hv : v.toNat.testBit 31 = false) (i : Nat) : RegsWf (m.writeEvtCtl i v)
    ∧ (m.writeEvtCtl i v).time.held = m.time.held ∧ (m.writeEvtCtl i v).time.whorl = m.time.whorl
    ∧ (m.writeEvtCtl i v).time.active = m.time.active ∧ (m.writeEvtCtl i v).flag F.tsEvtCtl_EN i = false
    ∧ ∀ r j, ¬((r = .tsEvtCtl ∨ r = .tsEvtStat) ∧ j = i) → (m.writeEvtCtl i v).reg r j = m.reg r j := by
  have hstop : ∀ b : Bool, RegsWf (if b then m.evtStop i else m) ∧ (if b then m.evtStop i else m).time.held = m.time.held
      ∧ (if b then m.evtStop i else m).time.whorl = m.time.whorl ∧ (if b then m.evtStop i else m).time.active = m.time.active
      ∧ ∀ r j, ¬(r = .tsEvtStat ∧ j = i) → (if b then m.evtStop i else m).reg r j = m.reg r j := fun b => by
    cases b
    · exact ⟨h, rfl, rfl, rfl, fun _ _ _ => rfl⟩
    · exact evtStop_frame h i
  obtain ⟨hwf, hheld, hwhorl, hact, hreg⟩ := hstop (m.flag F.tsEvtCtl_EN i && !v.toNat.testBit 31)
  unfold State.writeEvtCtl
  dsimp only
  generalize (if m.flag F.tsEvtCtl_EN i && !v.toNat.testBit 31 then m.evtStop i else m) = u at *
  rw [hv, Bool.false_and, if_neg Bool.false_ne_true, setReg_time]
  refine ⟨wf_setReg hwf _ _ _, hheld, hwhorl, hact, ?_, fun r j hne => ?_⟩
  · exact flag_of_bit (f := F.tsEvtCtl_EN) rfl (reg_setReg_self hwf _ _ _) ((evtCtl_bits v).trans hv)
  · exact (reg_setReg_ne hwf _ fun hk => hne ⟨Or.inl hk.1, hk.2⟩).trans (hreg r j fun hk => hne ⟨Or.inr hk.1, hk.2⟩)

/-! ### The programming of an output -/

/-- The output stopped, and noted among those that firmware has programmed (R423). -/
def State.evtNoted (s : State) (h : EvtHeld) : State :=
  { s.writeEvtCtl h.out 0 with time := { (s.writeEvtCtl h.out 0).time with
      evts := (s.writeEvtCtl h.out 0).time.evts.filter (fun (e : EvtHeld) => e.out != h.out) ++ [h] } }

/-- The registers of an output as firmware loads them, before EN is set (R423). -/
def State.evtLoaded (m : State) (h : EvtHeld) : State :=
  (((m.setReg .tsEvtStart h.out (word ((m.whorlNs + (h.start - m.netNs)) % 2 ^ 32))).setReg .tsEvtFrac h.out (word h.frac)).setReg
    .tsEvtPeriod h.out (word h.period)).setReg .tsEvtWidth h.out (word h.width)

theorem evtProgram_eq (s : State) (h : EvtHeld) : s.evtProgram h = ((s.evtNoted h).evtLoaded h).writeEvtCtl h.out (word h.ctl) := rfl

theorem evtNoted_frame (hs : RegsWf s) (h : EvtHeld) : RegsWf (s.evtNoted h) ∧ (s.evtNoted h).time.whorl = s.time.whorl
    ∧ (s.evtNoted h).time.active = s.time.active ∧ (s.evtNoted h).flag F.tsEvtCtl_EN h.out = false
    ∧ ∀ r j, ¬((r = .tsEvtCtl ∨ r = .tsEvtStat) ∧ j = h.out) → (s.evtNoted h).reg r j = s.reg r j := by
  obtain ⟨hwf, -, hwhorl, hact, hen, hreg⟩ := writeEvtCtl_clear hs (v := 0) rfl h.out
  unfold State.evtNoted
  generalize s.writeEvtCtl h.out 0 = m at *
  exact ⟨hwf, hwhorl, hact, hen, hreg⟩

/-- The registers that firmware loads for an output. -/
def evtRegs : List Reg := [.tsEvtCtl, .tsEvtStat, .tsEvtStart, .tsEvtFrac, .tsEvtPeriod, .tsEvtWidth]

/-- Four words put into four registers of one index. -/
theorem setReg_four (hm : RegsWf m) {r1 r2 r3 r4 : Reg} (i : Nat) (v1 v2 v3 v4 : Word) (h12 : r1 ≠ r2) (h13 : r1 ≠ r3) (h14 : r1 ≠ r4) (h23 : r2 ≠ r3)
    (h24 : r2 ≠ r4) (h34 : r3 ≠ r4) {u : State} (hu : u = (((m.setReg r1 i v1).setReg r2 i v2).setReg r3 i v3).setReg r4 i v4) :
    RegsWf u ∧ u.time = m.time ∧ u.reg r1 i = v1 ∧ u.reg r2 i = v2 ∧ u.reg r3 i = v3 ∧ u.reg r4 i = v4
    ∧ ∀ r j, ¬((r = r1 ∨ r = r2 ∨ r = r3 ∨ r = r4) ∧ j = i) → u.reg r j = m.reg r j := by
  have w1 := wf_setReg hm r1 i v1
  have w2 := wf_setReg w1 r2 i v2
  have w3 := wf_setReg w2 r3 i v3
  subst hu
  refine ⟨wf_setReg w3 _ _ _, ?_, ?_, ?_, ?_, reg_setReg_self w3 _ _ _, fun r j hne => ?_⟩
  · rw [setReg_time, setReg_time, setReg_time, setReg_time]
  · rw [reg_setReg_ne w3 _ fun hk => h14 hk.1, reg_setReg_ne w2 _ fun hk => h13 hk.1, reg_setReg_ne w1 _ fun hk => h12 hk.1, reg_setReg_self hm]
  · rw [reg_setReg_ne w3 _ fun hk => h24 hk.1, reg_setReg_ne w2 _ fun hk => h23 hk.1, reg_setReg_self w1]
  · rw [reg_setReg_ne w3 _ fun hk => h34 hk.1, reg_setReg_self w2]
  · rw [reg_setReg_ne w3 _ fun hk => hne ⟨Or.inr (Or.inr (Or.inr hk.1)), hk.2⟩, reg_setReg_ne w2 _ fun hk => hne ⟨Or.inr (Or.inr (Or.inl hk.1)), hk.2⟩,
      reg_setReg_ne w1 _ fun hk => hne ⟨Or.inr (Or.inl hk.1), hk.2⟩, reg_setReg_ne hm _ fun hk => hne ⟨Or.inl hk.1, hk.2⟩]

/-- What firmware loads: the whorl instant of the start, the period with its fraction and the width; EN stays 0. -/
theorem evtLoaded_result (hs : RegsWf s) (h : EvtHeld) {u : State} (hu : u = (s.evtNoted h).evtLoaded h) : RegsWf u ∧ u.time.whorl = s.time.whorl
    ∧ u.flag F.tsEvtCtl_EN h.out = false ∧ u.reg .tsEvtStart h.out = word ((s.whorlNs + (h.start - s.netNs)) % 2 ^ 32)
    ∧ u.reg .tsEvtFrac h.out = word h.frac ∧ u.reg .tsEvtPeriod h.out = word h.period ∧ u.reg .tsEvtWidth h.out = word h.width
    ∧ ∀ r j, j ≠ h.out ∨ r ∉ evtRegs → u.reg r j = s.reg r j := by
  obtain ⟨hwf, hwhorl, hact, hen, hreg⟩ := evtNoted_frame hs h
  generalize s.evtNoted h = m at *
  have hns : m.whorlNs = s.whorlNs := by rw [State.whorlNs, State.whorlNs, hwhorl]
  have hnet : m.netNs = s.netNs := by rw [State.netNs, State.netNs, hact, hns]
  rw [State.evtLoaded, hns, hnet] at hu
  obtain ⟨hu, htime, h1, h2, h3, h4, hkeep⟩ := setReg_four hwf h.out _ _ _ _ (by decide) (by decide) (by decide) (by decide) (by decide) (by decide) hu
  refine ⟨hu, (congrArg TimeEng.whorl htime).trans hwhorl, ?_, h1, h2, h3, h4, fun r j hne => ?_⟩
  · exact (flag_of_reg (f := F.tsEvtCtl_EN) (hkeep .tsEvtCtl h.out (by simp))).trans hen
  · refine (hkeep r j ?_).trans (hreg r j ?_)
    · rintro ⟨hr, hj⟩
      exact hne.elim (· hj) fun hout => hout (by rcases hr with rfl | rfl | rfl | rfl <;> decide)
    · rintro ⟨hr, hj⟩
      exact hne.elim (· hj) fun hout => hout (by rcases hr with rfl | rfl <;> decide)

theorem dueAt_of_whorl {t : State} (h : t.time.whorl = s.time.whorl) (x : Nat) : t.dueAt x = s.dueAt x := by
  rw [State.dueAt, State.dueAt, State.whorlNs, State.whorlNs, h]

/-- The bits of TS_EVT_CTL as firmware writes them. -/
theorem evtCtl_word (ie : Nat) (hie : ie < 2) (pol periodic : Bool) : (word (2 ^ 31 + ie * 8 + b2n pol * 4 + b2n periodic * 2)).toNat.testBit 31 = true
    ∧ (word (2 ^ 31 + ie * 8 + b2n pol * 4 + b2n periodic * 2) &&& 0x8000000E).toNat = 2 ^ 31 + ie * 8 + b2n pol * 4 + b2n periodic * 2 := by
  have hie' : ie = 0 ∨ ie = 1 := by omega
  rcases hie' with rfl | rfl <;> cases pol <;> cases periodic <;> decide

theorem evtCtl_flags {ie : Nat} (hie : ie < 2) (pol periodic : Bool) : (2 ^ 31 + ie * 8 + b2n pol * 4 + b2n periodic * 2).testBit 31 = true
    ∧ (2 ^ 31 + ie * 8 + b2n pol * 4 + b2n periodic * 2).testBit 1 = periodic ∧ (2 ^ 31 + ie * 8 + b2n pol * 4 + b2n periodic * 2).testBit 2 = pol
    ∧ (2 ^ 31 + ie * 8 + b2n pol * 4 + b2n periodic * 2).testBit 3 = decide (ie ≠ 0) := by
  have hie' : ie = 0 ∨ ie = 1 := by omega
  rcases hie' with rfl | rfl <;> cases pol <;> cases periodic <;> decide

/-- An output that firmware programs for a start less than 2^31 ns ahead is armed at its whorl instant (R423, R433). -/
theorem evtProgram_result (hs : Inv s) (h : EvtHeld) {ie : Nat} (hie : ie < 2) {pol periodic : Bool}
    (hctl : h.ctl = 2 ^ 31 + ie * 8 + b2n pol * 4 + b2n periodic * 2) {start : Nat} (hstart : h.start = s.netNs + start) (h0 : 0 < start)
    (hnear : start < 2 ^ 30) : (s.evtProgram h).reg .tsEvtCtl h.out = word h.ctl &&& 0x8000000E
      ∧ (s.evtProgram h).reg .tsEvtStart h.out = word ((s.whorlNs + start) % 2 ^ 32) ∧ (s.evtProgram h).reg .tsEvtFrac h.out = word h.frac
      ∧ (s.evtProgram h).reg .tsEvtPeriod h.out = word h.period ∧ (s.evtProgram h).reg .tsEvtWidth h.out = word h.width
      ∧ OTable.get? (s.evtProgram h).time.outputs h.out = some { next := (s.evtProgram h).evtStart h.out }
      ∧ ∀ r j, j ≠ h.out ∨ r ∉ evtRegs → (s.evtProgram h).reg r j = s.reg r j := by
  obtain ⟨hwf, hwhorl, hen, h1, h2, h3, h4, hkeep⟩ := evtLoaded_result hs.regs h rfl
  have hdist : h.start - s.netNs = start := by rw [hstart, Nat.add_sub_cancel_left]
  rw [hdist] at h1
  have h31 : (word h.ctl).toNat.testBit 31 = true := hctl ▸ (evtCtl_word ie hie pol periodic).1
  rw [evtProgram_eq, writeEvtCtl_arms hen h31]
  generalize (s.evtNoted h).evtLoaded h = m at *
  generalize word h.ctl &&& 0x8000000E = v
  have hset := wf_setReg hwf .tsEvtCtl h.out v
  have hne : ∀ r j, ¬(r = .tsEvtCtl ∧ j = h.out) → (m.setReg .tsEvtCtl h.out v).reg r j = m.reg r j := fun r j hk => reg_setReg_ne hwf _ hk
  have hdue : (m.setReg .tsEvtCtl h.out v).dueAt ((m.setReg .tsEvtCtl h.out v).reg .tsEvtStart h.out).toNat = false := by
    rw [hne .tsEvtStart h.out (by simp), h1, dueAt_of_whorl (s := s) ((congrArg TimeEng.whorl (setReg_time _ _ _ _)).trans hwhorl)]
    exact dueAt_ahead hs h0 (by omega)
  obtain ⟨htime, harm⟩ := evtArm_ahead hset hdue
  have hread : ∀ r, r ≠ .tsEvtStat → r ≠ .tsEvtCtl → ((m.setReg .tsEvtCtl h.out v).evtArm h.out).reg r h.out = m.reg r h.out := fun r hr1 hr2 =>
    (harm r h.out fun hk => hr1 hk.1).trans (hne r h.out fun hk => hr2 hk.1)
  refine ⟨(harm .tsEvtCtl h.out (by simp)).trans (reg_setReg_self hwf _ _ _), (hread .tsEvtStart (by decide) (by decide)).trans h1,
    (hread .tsEvtFrac (by decide) (by decide)).trans h2, (hread .tsEvtPeriod (by decide) (by decide)).trans h3,
    (hread .tsEvtWidth (by decide) (by decide)).trans h4, ?_, fun r j hout => ?_⟩
  · rw [htime, OTable.get?_insert_self, evtStart_of_regs (harm .tsEvtStart h.out (by simp)) (harm .tsEvtFrac h.out (by simp))]
  · refine (harm r j ?_).trans ((hne r j ?_).trans (hkeep r j hout))
    · rintro ⟨rfl, hj⟩
      exact hout.elim (· hj) (· (by decide))
    · rintro ⟨rfl, hj⟩
      exact hout.elim (· hj) (· (by decide))

/-! ### TIME_EVT_SET (R433) -/

/-- Firmware holds nothing for an output any more. -/
def State.evtUnheld (s : State) (i : Nat) : State := { s with time := { s.time with held := s.time.held.filter fun h => h.out != i } }

/-- What firmware keeps of an output's request. -/
def evtRequest (s : State) (a : Args) : EvtHeld :=
  { out := a.n 0, start := unpackNet (a.n 4), frac := a.n 6 * 256, period := a.n 5, width := a.n 7
    ctl := 2 ^ 31 + s.fld F.tsEvtCtl_IE (a.n 0) * 8 + b2n (a.f 3) * 4 + b2n (a.f 2) * 2 }

theorem timeEvtSet_stop_completes (hacc : Accepts 0x0906 p s) (ha : readParams 0x0906 p.params = a) (hbad : a.bad = false) (hi : a.n 0 ≤ 7)
    (hoff : a.f 1 = false) : Completes (.timeEvtSet p) 0x0906 p s (((begun 0x0906 p s).evtUnheld (a.n 0)).writeEvtCtl (a.n 0) 0) .ok (emitBlock []) := by
  subst ha
  change execTimeEvtSet p s = _
  unfold execTimeEvtSet
  refine completes_of_checks (checks := [((readParams 0x0906 p.params).bad || decide (7 < (readParams 0x0906 p.params).n 0), .paramInvalid)]) hacc
    (firstFail_of_all_false ?_) ?_
  · simp [hbad, Nat.not_lt.2 hi]
  · dsimp only
    rw [hoff, Bool.not_false, if_pos rfl]
    rfl

/-- What an output that is set, and neither 7 nor less nor of a broken period, passes (R433). -/
structure EvtGood (a : Args) (s : State) (start : Nat) : Prop where
  out : a.n 0 ≤ 7
  on : a.f 1 = true
  width : 8 ≤ a.n 7
  period : a.f 2 = true → 16 ≤ a.n 5 ∧ a.n 7 + 8 ≤ a.n 5
  valid : s.netValid = true
  at_ : unpackNet (a.n 4) = s.netNs + start
  ahead : 0 < start
  day : start ≤ 86400 * 1000000000

/-- The checks of an output that is set (R433). -/
def evtChecks (a : Args) (s : State) : List (Bool × Status) :=
  [ (a.bad || decide (7 < a.n 0) || ((a.f 2 && (decide (a.n 5 < 16) || decide (a.n 5 < a.n 7 + 8))) || decide (a.n 7 < 8)), .paramInvalid),
    (!s.netValid, .todUnset), (decide (unpackNet (a.n 4) ≤ s.netNs), .schedPast),
    (decide (86400 * 1000000000 < unpackNet (a.n 4) - s.netNs), .schedRange) ]

theorem EvtGood.passes {start : Nat} (hgood : EvtGood a s start) (hbad : a.bad = false) : firstFail (evtChecks a s) = none := by
  obtain ⟨hout, -, hwidth, hperiod, hvalid, hat, hahead, hday⟩ := hgood
  have hp : (a.f 2 && (decide (a.n 5 < 16) || decide (a.n 5 < a.n 7 + 8))) = false := by
    cases h2 : a.f 2
    · rfl
    · obtain ⟨h16, h8⟩ := hperiod h2
      rw [decide_eq_false (Nat.not_lt.2 h16), decide_eq_false (Nat.not_lt.2 h8)]
      rfl
  have hpast : decide (unpackNet (a.n 4) ≤ s.netNs) = false := decide_eq_false (by omega)
  have hrange : decide (86400 * 1000000000 < unpackNet (a.n 4) - s.netNs) = false := decide_eq_false (by omega)
  refine firstFail_of_all_false ?_
  rw [evtChecks, hbad, hp, hvalid, hpast, hrange, decide_eq_false (Nat.not_lt.2 hout), decide_eq_false (Nat.not_lt.2 hwidth)]
  decide +revert

theorem timeEvtSet_near_completes (hacc : Accepts 0x0906 p s) (ha : readParams 0x0906 p.params = a) (hbad : a.bad = false) {start : Nat}
    (hgood : EvtGood a s start) (hnear : start < 2 ^ 30) :
    Completes (.timeEvtSet p) 0x0906 p s (((begun 0x0906 p s).evtUnheld (a.n 0)).evtProgram (evtRequest s a)) .ok (emitBlock []) := by
  subst ha
  have hless : unpackNet ((readParams 0x0906 p.params).n 4) - (begun 0x0906 p s).netNs < 2 ^ 30 := by
    rw [hgood.at_]
    exact (Nat.add_sub_cancel_left _ _).trans_lt hnear
  change execTimeEvtSet p s = _
  unfold execTimeEvtSet
  refine completes_of_checks (checks := evtChecks _ (begun 0x0906 p s)) hacc (EvtGood.passes (s := s) hgood hbad) ?_
  dsimp only
  rw [hgood.on, Bool.not_true, if_neg Bool.false_ne_true, if_pos hless]
  rfl

theorem timeEvtSet_far_completes (hacc : Accepts 0x0906 p s) (ha : readParams 0x0906 p.params = a) (hbad : a.bad = false) {start : Nat}
    (hgood : EvtGood a s start) (hfar : 2 ^ 30 ≤ start) : Completes (.timeEvtSet p) 0x0906 p s
      { ((begun 0x0906 p s).evtUnheld (a.n 0)).writeEvtCtl (a.n 0) 0 with
        time := { (((begun 0x0906 p s).evtUnheld (a.n 0)).writeEvtCtl (a.n 0) 0).time with
          held := (((begun 0x0906 p s).evtUnheld (a.n 0)).writeEvtCtl (a.n 0) 0).time.held ++ [evtRequest s a] } } .ok (emitBlock []) := by
  subst ha
  have hmore : ¬ unpackNet ((readParams 0x0906 p.params).n 4) - (begun 0x0906 p s).netNs < 2 ^ 30 := by
    rw [hgood.at_]
    exact Nat.not_lt.2 (hfar.trans_eq (Nat.add_sub_cancel_left _ _).symm)
  change execTimeEvtSet p s = _
  unfold execTimeEvtSet
  refine completes_of_checks (checks := evtChecks _ (begun 0x0906 p s)) hacc (EvtGood.passes (s := s) hgood hbad) ?_
  dsimp only
  rw [hgood.on, Bool.not_true, if_neg Bool.false_ne_true, if_neg hmore]
  rfl

theorem toNat_word {n : Nat} (h : n < 2 ^ 32) : (word n).toNat = n := by rw [word, BitVec.toNat_ofNat, Nat.mod_eq_of_lt h]

/-- The registers of an output that a near request programs and arms (R433). -/
theorem timeEvtSet_near_result (h : Inv s) (ha : readParams 0x0906 p.params = a) (hbad : a.bad = false) {start : Nat}
    (hat : unpackNet (a.n 4) = s.netNs + start) (h0 : 0 < start) (hnear : start < 2 ^ 30) {t : State}
    (ht : t = ((begun 0x0906 p s).evtUnheld (a.n 0)).evtProgram (evtRequest s a)) : t.flag F.tsEvtCtl_EN (a.n 0) = true
      ∧ t.flag F.tsEvtCtl_PERIODIC (a.n 0) = a.f 2 ∧ t.flag F.tsEvtCtl_POL (a.n 0) = a.f 3 ∧ t.flag F.tsEvtCtl_IE (a.n 0) = s.flag F.tsEvtCtl_IE (a.n 0)
      ∧ (t.reg .tsEvtStart (a.n 0)).toNat = (s.whorlNs + start) % 2 ^ 32 ∧ t.fld F.tsEvtFrac_START_FRAC (a.n 0) = 0
      ∧ t.fld F.tsEvtFrac_PER_FRAC (a.n 0) = a.n 6 ∧ t.fld F.tsEvtPeriod_NS (a.n 0) = a.n 5 ∧ t.fld F.tsEvtWidth_NS (a.n 0) = a.n 7
      ∧ OTable.get? t.time.outputs (a.n 0) = some { next := t.evtStart (a.n 0) }
      ∧ ∀ r j, j ≠ a.n 0 ∨ r ∉ [.tsEvtCtl, .tsEvtStat, .tsEvtStart, .tsEvtFrac, .tsEvtPeriod, .tsEvtWidth] → t.reg r j = s.reg r j := by
  have hfrac : a.n 6 < 2 ^ 8 := by subst ha; exact readParams_num_lt hbad rfl
  have hperiod : a.n 5 < 2 ^ 31 := by subst ha; exact readParams_num_lt hbad rfl
  have hwidth : a.n 7 < 2 ^ 31 := by subst ha; exact readParams_num_lt hbad rfl
  have hie : s.fld F.tsEvtCtl_IE (a.n 0) < 2 := Nat.mod_lt _ (by decide)
  obtain ⟨hctl, hstart, hf, hp, hw, hout, hreg⟩ := evtProgram_result (s := (begun 0x0906 p s).evtUnheld (a.n 0)) ⟨h.regs, h.slot, h.whorl⟩
    (evtRequest s a) hie (pol := a.f 3) (periodic := a.f 2) rfl hat h0 hnear
  rw [← ht] at hctl hstart hf hp hw hout hreg
  have hval := (evtCtl_word _ hie (a.f 3) (a.f 2)).2
  have hbit : ∀ (f : Fld) (b : Bool), f.reg = .tsEvtCtl → f.width = 1 →
      (2 ^ 31 + s.fld F.tsEvtCtl_IE (a.n 0) * 8 + b2n (a.f 3) * 4 + b2n (a.f 2) * 2).testBit f.lo = b → t.flag f (a.n 0) = b := fun f b hf hw hb =>
    flag_of_bit (w := word (evtRequest s a).ctl &&& 0x8000000E) hw (hf ▸ hctl) (hval ▸ hb)
  obtain ⟨hen, hper, hpol, hieb⟩ := evtCtl_flags hie (a.f 3) (a.f 2)
  have hnum : ∀ (f : Fld) (n : Nat), n < 2 ^ 32 → t.reg f.reg (a.n 0) = word n → t.fld f (a.n 0) = n / 2 ^ f.lo % 2 ^ f.width := fun f n hn hr => by
    rw [fld_of_reg_eq hr, toNat_word hn]
  refine ⟨hbit _ _ rfl rfl hen, hbit _ _ rfl rfl hper, hbit _ _ rfl rfl hpol, hbit _ _ rfl rfl hieb, ?_, ?_, ?_, ?_, ?_, hout, hreg⟩
  · refine (congrArg BitVec.toNat hstart).trans ((toNat_word (Nat.mod_lt _ (by decide))).trans ?_)
    rfl
  · rw [hnum F.tsEvtFrac_START_FRAC (a.n 6 * 256) (by omega) hf]
    dsimp only [F.tsEvtFrac_START_FRAC]
    omega
  · rw [hnum F.tsEvtFrac_PER_FRAC (a.n 6 * 256) (by omega) hf]
    dsimp only [F.tsEvtFrac_PER_FRAC]
    omega
  · exact fld_of_word (f := F.tsEvtPeriod_NS) rfl (by decide) hperiod hp
  · exact fld_of_word (f := F.tsEvtWidth_NS) rfl (by decide) hwidth hw

/-! ### TIME_PPS_SET, TIME_CAP_SET and TIME_RCLK_SET (R433, R434) -/

theorem timePpsSet_completes (hacc : Accepts 0x0907 p s) (ha : readParams 0x0907 p.params = a) (hbad : a.bad = false) (hmin : 8 ≤ a.n 1)
    (hmax : a.n 1 ≤ 500000000) :
    Completes (.timePpsSet p) 0x0907 p s ((begun 0x0907 p s).setReg .tsPpsCfg 0 (word (a.n 0 * 2 ^ 31 + a.n 1))) .ok (emitBlock []) := by
  subst ha
  change execTimePpsSet p s = _
  unfold execTimePpsSet
  refine completes_of_checks hacc (firstFail_of_all_false ?_) rfl
  simp [hbad, Nat.not_lt.2 hmin, Nat.not_lt.2 hmax]

/-- A flag in bit 31 above a number of fewer bits. -/
theorem flagWord (flag n : Nat) (hflag : flag < 2) (hn : n < 2 ^ 31) : (word (flag * 2 ^ 31 + n)).toNat = flag * 2 ^ 31 + n
    ∧ (word (flag * 2 ^ 31 + n)).toNat.testBit 31 = decide (flag ≠ 0) := by
  have hword : (word (flag * 2 ^ 31 + n)).toNat = flag * 2 ^ 31 + n := by
    rw [word, BitVec.toNat_ofNat, Nat.mod_eq_of_lt (by omega)]
  refine ⟨hword, ?_⟩
  rw [hword, Nat.testBit_eq_decide_div_mod_eq]
  exact decide_eq_decide.2 (by omega)

theorem timeCapSet_completes (hacc : Accepts 0x0908 p s) (ha : readParams 0x0908 p.params = a) (hbad : a.bad = false) (hj : a.n 0 ≤ 4)
    (hedge : a.f 1 = true → a.n 2 ≠ 0) (hpps : a.n 0 = 4 → s.time.servo.mode = 2 → a.f 3 = true) : Completes (.timeCapSet p) 0x0908 p s
      ((((begun 0x0908 p s).setFld F.tsCapCtl_EN (a.n 0) (a.n 1)).setFld F.tsCapCtl_EDGE (a.n 0) (a.n 2)).setFld F.tsCapCtl_OWNER (a.n 0) (a.n 3)) .ok
      (emitBlock []) := by
  subst ha
  change execTimeCapSet p s = _
  unfold execTimeCapSet
  refine completes_of_checks hacc (firstFail_of_all_false ?_) rfl
  generalize readParams 0x0908 p.params = a at *
  have h1 : (a.f 1 && a.n 2 == 0) = false := by
    cases hon : a.f 1
    · rfl
    · simp [hedge hon]
  have h2 : (a.n 0 == 4 && !a.f 3 && (begun 0x0908 p s).time.servo.mode == 2) = false := by
    by_cases h4 : a.n 0 = 4
    · by_cases hm : s.time.servo.mode = 2
      · simp [hpps h4 hm]
      · simp [hm]
    · simp [h4]
  refine List.forall_mem_singleton.2 ?_
  rw [hbad, h1, h2, decide_eq_false (Nat.not_lt.2 hj)]
  rfl

/-- Three fields of one register, put one after another, each read what was put; the rest of the registers stays. -/
theorem setFld_three (h : RegsWf s) {f g k : Fld} (hf : 0 < f.width ∧ f.lo + f.width ≤ 32) (hg : 0 < g.width ∧ g.lo + g.width ≤ 32)
    (hk : 0 < k.width ∧ k.lo + k.width ≤ 32) (hgf : g.apart f = true) (hkf : k.apart f = true) (hkg : k.apart g = true) (i x y z : Nat) {u : State}
    (hu : u = ((s.setFld f i x).setFld g i y).setFld k i z) : u.fld f i = x % 2 ^ f.width ∧ u.fld g i = y % 2 ^ g.width ∧ u.fld k i = z % 2 ^ k.width
      ∧ (∀ e : Fld, f.apart e = true → g.apart e = true → k.apart e = true → u.fld e i = s.fld e i)
      ∧ ∀ r j, ¬((r = f.reg ∨ r = g.reg ∨ r = k.reg) ∧ j = i) → u.reg r j = s.reg r j := by
  have h1 := wf_setFld h f i x
  have h2 := wf_setFld h1 g i y
  subst hu
  refine ⟨?_, ?_, fld_setFld_self h2 hk _ _, fun e ef eg ek => ?_, fun r j hne => ?_⟩
  · rw [fld_setFld_apart h2 hkf, fld_setFld_apart h1 hgf, fld_setFld_self h hf]
  · rw [fld_setFld_apart h2 hkg, fld_setFld_self h1 hg]
  · rw [fld_setFld_apart h2 ek, fld_setFld_apart h1 eg, fld_setFld_apart h ef]
  · rw [reg_setFld_ne h2 _ fun hr => hne ⟨Or.inr (Or.inr hr.1), hr.2⟩, reg_setFld_ne h1 _ fun hr => hne ⟨Or.inr (Or.inl hr.1), hr.2⟩,
      reg_setFld_ne h _ fun hr => hne ⟨Or.inl hr.1, hr.2⟩]

theorem timeRclkSet_completes (hacc : Accepts 0x090A p s) (ha : readParams 0x090A p.params = a) (hbad : a.bad = false) (hr : a.n 0 ≤ 1)
    (hlane : s.hasLane (a.n 2) = true) : Completes (.timeRclkSet p) 0x090A p s
      ((begun 0x090A p s).setReg .tsRclkCtl (a.n 0) (word (a.n 1 * 2 ^ 31 + a.n 2 * 2 ^ 16 + a.n 3))) .ok (emitBlock []) := by
  subst ha
  change execTimeRclkSet p s = _
  unfold execTimeRclkSet
  refine completes_of_checks hacc (firstFail_of_all_false ?_) rfl
  simp [hbad, Nat.not_lt.2 hr, hlane]

theorem hasLane_lt {l : Nat} (h : s.hasLane l = true) : l < 512 := by
  have hlanes : s.fuses.code.lanes ≤ 512 := by cases s.fuses.code <;> decide
  exact Nat.lt_of_lt_of_le (of_decide_eq_true h) hlanes

/-! ### TIME_CAP_GET (R434) -/

theorem timeCapGet_completes (hacc : Accepts 0x0909 p s) (ha : readParams 0x0909 p.params = a) (hbad : a.bad = false) (hj : a.n 0 ≤ 4)
    (hmin : 1 ≤ a.n 1) (hmax : a.n 1 ≤ 16) (hown : s.flag F.tsCapCtl_OWNER (a.n 0) = true) : Completes (.timeCapGet p) 0x0909 p s
      ((begun 0x0909 p s).setCaptures (a.n 0) ((s.captures (a.n 0)).drop (a.n 1))) .ok
      (emitBlock ((.u 8, ((s.captures (a.n 0)).take (a.n 1)).length) :: ((s.captures (a.n 0)).take (a.n 1)).flatMap s.capReply)) := by
  subst ha
  change execTimeCapGet p s = _
  unfold execTimeCapGet
  refine completes_of_checks hacc (firstFail_of_all_false ?_) rfl
  simp [hbad, Nat.not_lt.2 hj, Nat.pos_iff_ne_zero.1 hmin, Nat.not_lt.2 hmax, hown]

/-- The records of an input, as its entry of a table whose reset contents are an empty FIFO. -/
theorem getD_get? {V : Type} (d : V) (l : OTable V) (k : Nat) : (OTable.get? l k).getD d = Table.get (fun _ => d) l k := by
  induction l with
  | nil => rfl
  | cons e l ih =>
    simp only [OTable.get?, Table.get]
    split
    · rfl
    · split
      · rfl
      · exact ih

theorem setCaptures_captures (s : State) (j : Nat) (l : List CapRec) :
    (s.setCaptures j l).time.captures = Table.set (fun _ => []) s.time.captures j l := by
  rw [State.setCaptures, setFld_time]

/-- The rest of an input's FIFO after its oldest records are taken (R434). -/
theorem setCaptures_drop (h : RegsWf s) (hwf : Table.wf (fun _ => ([] : List CapRec)) s.time.captures = true) (j n : Nat) {t : State}
    (ht : t = s.setCaptures j ((s.captures j).drop n)) : s.captures j = (s.captures j).take n ++ t.captures j
      ∧ (∀ k, k ≠ j → t.captures k = s.captures k) ∧ t.fld F.tsCapStat_LEVEL j = (t.captures j).length % 32
      ∧ ∀ r i, r ≠ .tsCapStat ∨ i ≠ j → t.reg r i = s.reg r i := by
  subst ht
  obtain ⟨-, hlevel, -, hreg⟩ := setCaptures_result h j ((s.captures j).drop n)
  have hself : (s.setCaptures j ((s.captures j).drop n)).captures j = (s.captures j).drop n := by
    rw [State.captures, getD_get?, setCaptures_captures]
    exact Table.get_set_self hwf _ _
  refine ⟨by rw [hself, List.take_append_drop], fun k hk => ?_, by rw [hself, hlevel], fun r i hne => hreg r i fun hc => hne.elim (· hc.1) (· hc.2)⟩
  refine (getD_get? _ _ _).trans (Eq.trans ?_ (getD_get? _ _ _).symm)
  rw [setCaptures_captures]
  exact Table.get_set_ne hwf _ hk

end

/-- Settles O52: each packet passes its checks and puts the words of its registers; a near start programs and arms its output. -/
theorem timePinPacketsAnswer : Obligations.TimePinPacketsAnswer := by
  unfold Obligations.TimePinPacketsAnswer
  refine ⟨?evt, ?pps, ?capSet, ?capGet, ?rclk⟩
  case evt =>
    intro p a i s h hacc ha hbad hout hi
    subst hout
    have hi' := hi
    refine ⟨fun hoff => ?_, fun start hon hwidth hperiod hvalid hat hahead hday => ⟨fun hnear => ?_, fun hfar => ?_⟩⟩
    · obtain ⟨-, hheld, -, -, hen, hreg⟩ := writeEvtCtl_clear (m := (begun 0x0906 p s).evtUnheld (a.n 0)) h.regs (v := 0) rfl (a.n 0)
      refine ⟨_, timeEvtSet_stop_completes hacc ha hbad hi hoff, hen, fun k hk => ?_, fun r j hne => hreg r j hne⟩
      rw [hheld] at hk
      simpa using (List.mem_filter.1 hk).2
    · have hgood : EvtGood a s start := ⟨hi, hon, hwidth, hperiod, hvalid, hat, hahead, hday⟩
      exact ⟨_, timeEvtSet_near_completes hacc ha hbad hgood hnear, timeEvtSet_near_result (p := p) h ha hbad hat hahead hnear rfl⟩
    · have hgood : EvtGood a s start := ⟨hi, hon, hwidth, hperiod, hvalid, hat, hahead, hday⟩
      obtain ⟨-, -, -, -, hen, hreg⟩ := writeEvtCtl_clear (m := (begun 0x0906 p s).evtUnheld (a.n 0)) h.regs (v := 0) rfl (a.n 0)
      refine ⟨_, evtRequest s a, timeEvtSet_far_completes hacc ha hbad hgood hfar, hen, ?_, rfl, rfl, rfl, rfl, fun r j hne => hreg r j hne⟩
      exact List.mem_append_right _ (List.mem_singleton_self _)
  case pps =>
    intro p a s h hacc ha hbad hmin hmax
    have hen : a.n 0 < 2 := by subst ha; exact readParams_flag_lt hbad rfl
    have hw := reg_setReg_self (s := begun 0x0907 p s) h.regs .tsPpsCfg 0 (word (a.n 0 * 2 ^ 31 + a.n 1))
    obtain ⟨hval, hbit⟩ := flagWord (a.n 0) (a.n 1) hen (by omega)
    refine ⟨_, timePpsSet_completes hacc ha hbad hmin hmax, flag_of_bit (f := F.tsPpsCfg_EN) rfl hw hbit, ?_, fun r i hne => ?_⟩
    · rw [fld_of_reg_eq (f := F.tsPpsCfg_WIDTH) hw, hval]
      dsimp only [F.tsPpsCfg_WIDTH]
      omega
    · exact reg_setReg_ne (s := begun 0x0907 p s) h.regs _ fun hk => hne.elim (· hk.1) (· hk.2)
  case capSet =>
    intro p a s h hacc ha hbad hj hedge hpps
    have hen : a.n 1 < 2 := by subst ha; exact readParams_flag_lt hbad rfl
    have hedge4 : a.n 2 < 2 ^ 2 := by subst ha; exact readParams_num_lt hbad rfl
    have hown : a.n 3 < 2 := by subst ha; exact readParams_flag_lt hbad rfl
    obtain ⟨h1, h2, h3, hie, hreg⟩ := setFld_three (s := begun 0x0908 p s) h.regs (f := F.tsCapCtl_EN) (g := F.tsCapCtl_EDGE) (k := F.tsCapCtl_OWNER)
      (by decide) (by decide) (by decide) (by decide) (by decide) (by decide) (a.n 0) (a.n 1) (a.n 2) (a.n 3) rfl
    refine ⟨_, timeCapSet_completes hacc ha hbad hj hedge hpps, ?_, h2.trans (Nat.mod_eq_of_lt hedge4), ?_, ?_, fun r i hne => hreg r i fun hk => ?_⟩
    · exact congrArg (fun n => decide (n ≠ 0)) (h1.trans (Nat.mod_eq_of_lt hen))
    · exact congrArg (fun n => decide (n ≠ 0)) (h3.trans (Nat.mod_eq_of_lt hown))
    · exact congrArg (fun n => decide (n ≠ 0)) (hie F.tsCapCtl_IE (by decide) (by decide) (by decide))
    · exact hne.elim (· (by rcases hk.1 with hr | hr | hr <;> exact hr)) (· hk.2)
  case capGet =>
    intro p a l s h hwf hacc ha hbad hj hmin hmax hown hl
    subst hl
    exact ⟨_, timeCapGet_completes hacc ha hbad hj hmin hmax hown, setCaptures_drop (s := begun 0x0909 p s) h.regs hwf (a.n 0) (a.n 1) rfl⟩
  case rclk =>
    intro p a s h hacc ha hbad hr hlane
    have hen : a.n 1 < 2 := by subst ha; exact readParams_flag_lt hbad rfl
    have hdiv : a.n 3 < 2 ^ 3 := by subst ha; exact readParams_num_lt hbad rfl
    have hlane9 : a.n 2 < 2 ^ 9 := hasLane_lt hlane
    have hw := reg_setReg_self (s := begun 0x090A p s) h.regs .tsRclkCtl (a.n 0) (word (a.n 1 * 2 ^ 31 + (a.n 2 * 2 ^ 16 + a.n 3)))
    obtain ⟨hval, hbit⟩ := flagWord (a.n 1) (a.n 2 * 2 ^ 16 + a.n 3) hen (by omega)
    refine ⟨_, timeRclkSet_completes hacc ha hbad hr hlane, ?_, ?_, ?_, fun r i hne => ?_⟩ <;> rw [Nat.add_assoc]
    · exact flag_of_bit (f := F.tsRclkCtl_EN) rfl hw hbit
    · rw [fld_of_reg_eq (f := F.tsRclkCtl_LANE) hw, hval]
      dsimp only [F.tsRclkCtl_LANE]
      omega
    · rw [fld_of_reg_eq (f := F.tsRclkCtl_DIV) hw, hval]
      dsimp only [F.tsRclkCtl_DIV]
      omega
    · exact reg_setReg_ne (s := begun 0x090A p s) h.regs _ fun hk => hne.elim (· hk.1) (· hk.2)

end Sys2Proof.Machine

/-!
Packets of stamping and of mirroring (O53): PTP_PORT_SET and GET, TS_RING_SET, TS_STP_SET, MIR_SESSION_SET and GET, and MIR_PORT_SET.
-/
namespace Sys2Proof.Machine
open Sys2Proof

section
variable {s : State} {p : Packet} {a : Args}

/-! ### Several registers of one index -/

/-- Words put into registers of one index, one after another. -/
def State.putRegs (s : State) (i : Nat) (l : List (Reg × Word)) : State := l.foldl (fun s e => s.setReg e.1 i e.2) s

theorem putRegs_frame (i : Nat) (l : List (Reg × Word)) {s : State} (h : RegsWf s) : RegsWf (s.putRegs i l)
    ∧ ∀ r j, ¬(r ∈ l.map Prod.fst ∧ j = i) → (s.putRegs i l).reg r j = s.reg r j := by
  induction l generalizing s with
  | nil => exact ⟨h, fun _ _ _ => rfl⟩
  | cons e l ih =>
    obtain ⟨hwf, hreg⟩ := ih (wf_setReg h e.1 i e.2)
    refine ⟨hwf, fun r j hne => ?_⟩
    refine (hreg r j fun hk => hne ⟨List.mem_cons_of_mem _ hk.1, hk.2⟩).trans (reg_setReg_ne h _ fun hk => hne ⟨?_, hk.2⟩)
    rw [hk.1]
    exact List.mem_cons_self

/-- Of distinct registers each holds its word. -/
theorem reg_putRegs {r : Reg} {w : Word} (i : Nat) {l : List (Reg × Word)} {s : State} (h : RegsWf s) (hl : (l.map Prod.fst).Nodup) (he : (r, w) ∈ l) :
    (s.putRegs i l).reg r i = w := by
  induction l generalizing s with
  | nil => exact absurd he List.not_mem_nil
  | cons e l ih =>
    obtain ⟨hnot, hnodup⟩ := List.nodup_cons.1 hl
    rcases List.mem_cons.1 he with rfl | he
    · refine ((putRegs_frame i l (wf_setReg h r i w)).2 r i fun hk => hnot hk.1).trans (reg_setReg_self h _ _ _)
    · exact ih (wf_setReg h e.1 i e.2) hnodup he

theorem putRegs_wf (h : RegsWf s) (i : Nat) (l : List (Reg × Word)) : RegsWf (s.putRegs i l) := (putRegs_frame i l h).1

/-! ### PTP_PORT_SET and PTP_PORT_GET (R454) -/

/-- A list without repeats loses nothing to the removal of repeats. -/
theorem eraseDups_of_nodup {α : Type} [BEq α] [LawfulBEq α] {l : List α} (h : l.Nodup) : l.eraseDups = l := by
  induction l with
  | nil => rfl
  | cons x l ih =>
    obtain ⟨hx, hl⟩ := List.nodup_cons.1 h
    have hfilter : (l.filter fun y => !(y == x)) = l := List.filter_eq_self.2 fun y hy => by
      have hne : y ≠ x := fun he => hx (he ▸ hy)
      simp [hne]
    rw [List.eraseDups_cons, hfilter, ih hl]

/-- The domains that PTP_PORT_SET enables. -/
def Args.domains (a : Args) : List Nat := (onesOf 8 (a.n 1)).map fun i => a.n (2 + i)

/-- Four domains of a port as one word. -/
def Args.domWord (a : Args) (k : Nat) : Word := word ((List.range 4).foldl (fun n j => n + a.n (2 + k + j) * 256 ^ j) 0)

/-- The words that PTP_PORT_SET puts into a port's registers. -/
def Args.ptpWords (a : Args) : List (Reg × Word) :=
  [ (.tsPortDomLo, a.domWord 0), (.tsPortDomHi, a.domWord 4), (.tsPortDomEn, word (a.n 1)),
    (.tsPortTrim, word (ofSigned 16 (a.i 11 16) * 2 ^ 16 + ofSigned 16 (a.i 10 16))) ]

theorem domains_nodup (hdiff : ∀ i j, i < j → j < 8 → (a.n 1).testBit i = true → (a.n 1).testBit j = true → a.n (2 + i) ≠ a.n (2 + j)) :
    a.domains.Nodup := by
  refine List.Nodup.map_on (fun i hi j hj he => ?_) (onesOf_nodup 8 (a.n 1))
  obtain ⟨hi8, hi⟩ := mem_onesOf.1 hi
  obtain ⟨hj8, hj⟩ := mem_onesOf.1 hj
  rcases Nat.lt_trichotomy i j with hlt | heq | hgt
  · exact absurd he (hdiff i j hlt hj8 hi hj)
  · exact heq
  · exact absurd he.symm (hdiff j i hgt hi8 hj hi)

theorem ptpPortSet_completes (hacc : Accepts 0x090B p s) (ha : readParams 0x090B p.params = a) (hbad : a.bad = false) (hfront : a.n 0 < 512)
    (hport : s.hasPort (a.n 0) = true) (hhid : s.hidden (a.n 0) = false)
    (hservo : s.time.servo.mode = 1 → s.time.servo.port = a.n 0 → ∃ i, i < 8 ∧ (a.n 1).testBit i = true ∧ a.n (2 + i) = s.time.servo.domain)
    (hdiff : ∀ i j, i < j → j < 8 → (a.n 1).testBit i = true → (a.n 1).testBit j = true → a.n (2 + i) ≠ a.n (2 + j)) :
    Completes (.ptpPortSet p) 0x090B p s ((begun 0x090B p s).putRegs (a.n 0) a.ptpWords) .ok (emitBlock []) := by
  subst ha
  change execPtpPortSet p s = _
  unfold execPtpPortSet
  refine completes_of_checks hacc (firstFail_of_all_false ?_) rfl
  generalize readParams 0x090B p.params = a at *
  have hdups : decide (a.domains.eraseDups.length < a.domains.length) = false := by
    rw [eraseDups_of_nodup (domains_nodup hdiff)]
    exact decide_eq_false (Nat.lt_irrefl _)
  have howned : ∀ was : Bool, (s.time.servo.mode == 1 && s.time.servo.port == a.n 0 && was && !a.domains.contains s.time.servo.domain) = false := fun was => by
    by_cases hmine : s.time.servo.mode = 1 ∧ s.time.servo.port = a.n 0
    · obtain ⟨i, hi, hbit, hdom⟩ := hservo hmine.1 hmine.2
      have hmem : s.time.servo.domain ∈ a.domains := List.mem_map.2 ⟨i, mem_onesOf.2 ⟨hi, hbit⟩, hdom⟩
      simp [hmem]
    · rcases not_and_or.1 hmine with h | h <;> simp [h]
  have hhid' : (begun 0x090B p s).hidden (a.n 0) = false := hhid
  refine List.forall_mem_cons.2 ⟨?_, List.forall_mem_cons.2 ⟨hhid', List.forall_mem_cons.2 ⟨?_, List.forall_mem_singleton.2 (howned _)⟩⟩⟩
  · rw [begun_hasPort, hport]
    rfl
  · rw [hbad, decide_eq_false (Nat.not_le.2 hfront)]
    exact hdups

theorem foldl_range_four {α : Type} (f : α → Nat → α) (x : α) : (List.range 4).foldl f x = f (f (f (f x 0) 1) 2) 3 := rfl

/-- Byte `k` of a word of four domains is the domain at its place. -/
theorem domWord_byte {base k : Nat} (h : ∀ j, j < 4 → a.n (2 + base + j) < 256) (hk : k < 4) :
    (a.domWord base).toNat / 256 ^ k % 256 = a.n (2 + base + k) := by
  have h0 := h 0 (by decide)
  have h1 := h 1 (by decide)
  have h2 := h 2 (by decide)
  have h3 := h 3 (by decide)
  rw [Args.domWord, foldl_range_four, toNat_word (by omega)]
  interval_cases k <;> omega

/-- A signed number put into its field reads back. -/
theorem toSigned_ofSigned (w v : Nat) : toSigned w (ofSigned w (toSigned w v)) = toSigned w v := by
  have hval : ofSigned w (toSigned w v) = v % 2 ^ w := by
    rw [ofSigned, toSigned]
    have hlt := Nat.mod_lt v (Nat.two_pow_pos w)
    generalize v % 2 ^ w = u at *
    split
    · rw [← Int.natCast_mod, Int.toNat_natCast, Nat.mod_eq_of_lt hlt]
    · rw [Int.sub_emod_right, ← Int.natCast_mod, Int.toNat_natCast, Nat.mod_eq_of_lt hlt]
  rw [hval, toSigned, toSigned, Nat.mod_mod]

theorem ptpPortSet_result (h : RegsWf s) (ha : readParams 0x090B p.params = a) (hbad : a.bad = false) {t : State}
    (ht : t = s.putRegs (a.n 0) a.ptpWords) : t.fld F.tsPortDomEn_EN (a.n 0) = a.n 1
      ∧ (∀ k, k < 4 → (t.reg .tsPortDomLo (a.n 0)).toNat / 256 ^ k % 256 = a.n (2 + k)
        ∧ (t.reg .tsPortDomHi (a.n 0)).toNat / 256 ^ k % 256 = a.n (6 + k))
      ∧ toSigned 16 (t.fld F.tsPortTrim_RX_TRIM (a.n 0)) = a.i 10 16 ∧ toSigned 16 (t.fld F.tsPortTrim_TX_TRIM (a.n 0)) = a.i 11 16
      ∧ ∀ r i, ¬(r ∈ [.tsPortDomEn, .tsPortDomLo, .tsPortDomHi, .tsPortTrim] ∧ i = a.n 0) → t.reg r i = s.reg r i := by
  have hen : a.n 1 < 2 ^ 8 := by subst ha; exact readParams_num_lt hbad rfl
  have hdom : ∀ j, j < 8 → a.n (2 + j) < 256 := fun j hj => by
    subst ha
    interval_cases j <;> exact readParams_num_lt (bits := 8) hbad rfl
  have hset : ∀ r w, (r, w) ∈ a.ptpWords → t.reg r (a.n 0) = w := fun r w he => ht ▸ reg_putRegs (a.n 0) h (by simp [Args.ptpWords]) he
  have htrim := hset .tsPortTrim (word (ofSigned 16 (a.i 11 16) * 2 ^ 16 + ofSigned 16 (a.i 10 16))) (by simp [Args.ptpWords])
  have hrx := ofSigned_lt 16 (a.i 10 16)
  have htx := ofSigned_lt 16 (a.i 11 16)
  have hword := toNat_word (n := ofSigned 16 (a.i 11 16) * 2 ^ 16 + ofSigned 16 (a.i 10 16)) (by omega)
  refine ⟨?_, fun k hk => ⟨?_, ?_⟩, ?_, ?_, fun r i hne => ?_⟩
  · exact fld_of_word (f := F.tsPortDomEn_EN) rfl (by decide) hen (hset .tsPortDomEn _ (by simp [Args.ptpWords]))
  · rw [hset .tsPortDomLo (a.domWord 0) (by simp [Args.ptpWords])]
    exact domWord_byte (fun j hj => hdom j (by omega)) hk
  · rw [hset .tsPortDomHi (a.domWord 4) (by simp [Args.ptpWords])]
    exact domWord_byte (fun j hj => by rw [Nat.add_assoc]; exact hdom (4 + j) (by omega)) hk
  · rw [fld_of_reg_eq (f := F.tsPortTrim_RX_TRIM) htrim, hword]
    dsimp only [F.tsPortTrim_RX_TRIM]
    have hmod : (ofSigned 16 (a.i 11 16) * 2 ^ 16 + ofSigned 16 (a.i 10 16)) / 2 ^ 0 % 2 ^ 16 = ofSigned 16 (a.i 10 16) := by omega
    rw [hmod]
    exact toSigned_ofSigned 16 _
  · rw [fld_of_reg_eq (f := F.tsPortTrim_TX_TRIM) htrim, hword]
    dsimp only [F.tsPortTrim_TX_TRIM]
    have hdiv : (ofSigned 16 (a.i 11 16) * 2 ^ 16 + ofSigned 16 (a.i 10 16)) / 2 ^ 16 % 2 ^ 16 = ofSigned 16 (a.i 11 16) := by omega
    rw [hdiv]
    exact toSigned_ofSigned 16 _
  · rw [ht]
    refine (putRegs_frame (a.n 0) a.ptpWords h).2 r i fun hk => hne ⟨?_, hk.2⟩
    simpa [Args.ptpWords, or_left_comm] using hk.1

/-- The registers that PTP_PORT_GET answers. -/
def ptpRegs : List Reg :=
  [ .tsPortDomLo, .tsPortDomHi, .tsPortDomEn, .tsPortTrim, .tsPortCorrCnt, .tsPortTermCnt, .tsPortOriginCnt, .tsPortBcPassCnt ]

/-- A block of words is their bytes. -/
theorem emitBlock_words (ws : List Nat) : emitBlock (wordFields ws) = ws.flatMap (leBytes 4) := by
  have hwords := emitFrom_words ws [] (pos := 0) rfl
  rw [List.append_nil] at hwords
  rw [emitBlock, hwords, emitFrom, List.append_nil, length_words]
  simp [padTo]

/-- Word `k` of a block of words. -/
theorem leAt_emitBlock_words {ws : List Nat} {k x : Nat} {v : Word} (hx : x = 4 * k) (hk : ws[k]? = some v.toNat) :
    leAt (emitBlock (wordFields ws)) x 4 = v.toNat := by
  rw [emitBlock_words, ← List.append_nil (ws.flatMap _)]
  exact leAt_word hx hk

theorem ptpPortGet_completes (hacc : Accepts 0x090C p s) (ha : readParams 0x090C p.params = a) (hbad : a.bad = false) (hport : s.hasPort (a.n 0) = true) :
    Completes (.ptpPortGet p) 0x090C p s (begun 0x090C p s) .ok (emitBlock (ptpRegs.map fun r => (Ty.u 32, (s.view r (a.n 0)).toNat))) := by
  subst ha
  change execPtpPortGet p s = _
  unfold execPtpPortGet
  refine completes_of_checks hacc (firstFail_of_all_false ?_) rfl
  simp [hbad, hport]

/-! ### TS_RING_SET and TS_STP_SET (R455) -/

/-- EN and OWNER of a quadrant's ring as TS_RING_SET writes them. -/
def State.ringFlags (s : State) (q : Nat) (en own : Bool) : State := (s.setFld F.tsRingCtl_EN q (b2n en)).setFld F.tsRingCtl_OWNER q (b2n own)

/-- A ring that changes its owner is empty (R455). -/
def State.ringEmptied (s : State) (q : Nat) : State := (s.setReg .tsRingCons q (s.reg .tsRingProd q)).setReg .tsRingStat q 0

theorem tsRingSet_completes (hacc : Accepts 0x090D p s) (ha : readParams 0x090D p.params = a) (hbad : a.bad = false) (hquad : s.hasQuad (a.n 0) = true) :
    Completes (.tsRingSet p) 0x090D p s
      (if s.flag F.tsRingCtl_OWNER (a.n 0) != a.f 2 then ((begun 0x090D p s).ringFlags (a.n 0) (a.f 1) (a.f 2)).ringEmptied (a.n 0)
        else (begun 0x090D p s).ringFlags (a.n 0) (a.f 1) (a.f 2)) .ok (emitBlock []) := by
  subst ha
  change execTsRingSet p s = _
  unfold execTsRingSet
  refine completes_of_checks hacc (firstFail_of_all_false ?_) rfl
  simp [hbad, hquad]

theorem tsStpSet_completes (hacc : Accepts 0x090E p s) (ha : readParams 0x090E p.params = a) (hbad : a.bad = false) :
    Completes (.tsStpSet p) 0x090E p s ((begun 0x090E p s).setReg .tsStpCtl 0 (word (b2n (a.f 0)))) .ok (emitBlock []) := by
  subst ha
  change execTsStpSet p s = _
  unfold execTsStpSet
  refine completes_of_checks hacc (firstFail_of_all_false ?_) rfl
  simp [hbad]

theorem tsRingSet_result (h : RegsWf s) (q : Nat) (en own : Bool) {t : State}
    (ht : t = if s.flag F.tsRingCtl_OWNER q != own then (s.ringFlags q en own).ringEmptied q else s.ringFlags q en own) :
    t.flag F.tsRingCtl_EN q = en ∧ t.flag F.tsRingCtl_OWNER q = own ∧ t.flag F.tsRingCtl_IE q = s.flag F.tsRingCtl_IE q
    ∧ (s.flag F.tsRingCtl_OWNER q ≠ own → t.reg .tsRingCons q = s.reg .tsRingProd q ∧ t.flag F.tsRingStat_OVF q = false)
    ∧ (s.flag F.tsRingCtl_OWNER q = own → ∀ i, t.reg .tsRingCons i = s.reg .tsRingCons i ∧ t.reg .tsRingStat i = s.reg .tsRingStat i)
    ∧ ∀ r i, ¬(r ∈ [.tsRingCtl, .tsRingCons, .tsRingStat] ∧ i = q) → t.reg r i = s.reg r i := by
  have hen : RegsWf (s.setFld F.tsRingCtl_EN q (b2n en)) := wf_setFld h _ _ _
  have hm : RegsWf (s.ringFlags q en own) := wf_setFld hen _ _ _
  have h1 : (s.ringFlags q en own).flag F.tsRingCtl_EN q = en :=
    (flag_setFld_apart hen (by decide) _ _ _).trans (flag_setFld_bool h (by decide) q en)
  have h2 : (s.ringFlags q en own).flag F.tsRingCtl_OWNER q = own := flag_setFld_bool hen (by decide) q own
  have h3 : (s.ringFlags q en own).flag F.tsRingCtl_IE q = s.flag F.tsRingCtl_IE q :=
    (flag_setFld_apart hen (by decide) _ _ _).trans (flag_setFld_apart h (by decide) _ _ _)
  have hreg : ∀ r i, ¬(r = .tsRingCtl ∧ i = q) → (s.ringFlags q en own).reg r i = s.reg r i := fun r i hne =>
    (reg_setFld_ne hen _ hne).trans (reg_setFld_ne h _ hne)
  generalize s.ringFlags q en own = m at *
  by_cases hown : s.flag F.tsRingCtl_OWNER q = own
  · rw [if_neg (by simp [hown])] at ht
    subst ht
    refine ⟨h1, h2, h3, fun hne => absurd hown hne, fun _ i => ⟨hreg _ _ (by simp), hreg _ _ (by simp)⟩, fun r i hne => hreg r i fun hk => hne ⟨?_, hk.2⟩⟩
    rw [hk.1]
    exact List.mem_cons_self
  · rw [if_pos (by simp [hown])] at ht
    have hc := wf_setReg hm .tsRingCons q (m.reg .tsRingProd q)
    have hkeep : ∀ r i, ¬((r = .tsRingCons ∨ r = .tsRingStat) ∧ i = q) → t.reg r i = m.reg r i := fun r i hne => by
      rw [ht]
      exact (reg_setReg_ne hc _ fun hk => hne ⟨Or.inr hk.1, hk.2⟩).trans (reg_setReg_ne hm _ fun hk => hne ⟨Or.inl hk.1, hk.2⟩)
    have hctl := hkeep .tsRingCtl q (by simp)
    refine ⟨(flag_of_reg (f := F.tsRingCtl_EN) hctl).trans h1, (flag_of_reg (f := F.tsRingCtl_OWNER) hctl).trans h2,
      (flag_of_reg (f := F.tsRingCtl_IE) hctl).trans h3, fun _ => ⟨?_, ?_⟩, fun he => absurd he hown, fun r i hne => ?_⟩
    · rw [ht]
      exact (reg_setReg_ne hc _ (by simp)).trans ((reg_setReg_self hm _ _ _).trans (hreg _ _ (by simp)))
    · rw [ht]
      exact flag_of_bit (f := F.tsRingStat_OVF) rfl (reg_setReg_self hc .tsRingStat q 0) rfl
    · refine (hkeep r i fun hk => hne ⟨?_, hk.2⟩).trans (hreg r i fun hk => hne ⟨?_, hk.2⟩)
      · rcases hk.1 with rfl | rfl <;> decide
      · rw [hk.1]
        exact List.mem_cons_self

/-! ### The fields that follow the fixed ones of a block (R492) -/

/-- A parameter of a block without reserved bits is read from as many bytes as its type has. -/
theorem parseFrom_bytes {ps : List Byte} {ts : List Ty} {pos k : Nat} {t : Ty} (hbad : (parseFrom ps ts pos).bad = false) (hk : ts[k]? = some t) :
    ∃ bs, bs.length = t.size ∧ (parseFrom ps ts pos).n k = t.decode bs ∧ t.reservedBad bs = false := by
  induction ts generalizing pos k with
  | nil => simp at hk
  | cons u us ih =>
    simp only [parseFrom, Bool.or_eq_false_iff] at hbad
    obtain ⟨⟨-, hfirst⟩, hrest⟩ := hbad
    cases k with
    | zero => cases hk; exact ⟨_, length_slice _ _ _, rfl, hfirst⟩
    | succ k => exact ih hrest hk

/-- The first fields of a block do not depend on what follows them. -/
theorem parseFrom_append {ps : List Byte} {ts : List Ty} (us : List Ty) {pos k : Nat} (hk : k < ts.length) :
    (parseFrom ps (ts ++ us) pos).n k = (parseFrom ps ts pos).n k := by
  induction ts generalizing pos k with
  | nil => exact absurd hk (Nat.not_lt_zero k)
  | cons u ts ih =>
    cases k with
    | zero => rfl
    | succ k => exact ih (Nat.lt_of_succ_lt_succ hk)

/-- A field behind the fixed ones: the tail's layout is read from the fixed fields as the whole block has them. -/
theorem readParams_tail {op k : Nat} {ps : List Byte} {t : Ty} (hbad : (readParams op ps).bad = false)
    (hk : (fixedOf op ps ++ tailOf op ps (parseFrom ps (fixedOf op ps) 0))[k]? = some t) :
    ∃ bs, bs.length = t.size ∧ (readParams op ps).n k = t.decode bs ∧ t.reservedBad bs = false := by
  simp only [readParams, parseBlock, Bool.or_eq_false_iff] at hbad
  exact parseFrom_bytes hbad.1 hk

theorem readParams_fixed {op k : Nat} {ps : List Byte} (hk : k < (fixedOf op ps).length) :
    (parseFrom ps (fixedOf op ps) 0).n k = (readParams op ps).n k := (parseFrom_append _ hk).symm

theorem beNat_lt (bs : List Byte) : beNat bs < 256 ^ bs.length := by
  have hlt := leNat_lt bs.reverse
  rwa [← beNat_reverse, List.reverse_reverse, List.length_reverse] at hlt

/-- A MAC address is a number of 48 bits. -/
theorem Ty.decode_mac_lt (bs : List Byte) : Ty.mac.decode bs < 2 ^ 48 :=
  Nat.lt_of_lt_of_le (beNat_lt (bs.take 6)) (Nat.pow_le_pow_right (n := 256) (by decide) (List.length_take_le 6 bs))

/-! ### MIR_SESSION_SET (R469) -/

/-- An outer address in the four words of a session. -/
theorem setMirAddr_frame (h : RegsWf s) (r : Reg) (m v : Nat) : RegsWf (s.setMirAddr r m v)
    ∧ (∀ w, w < 4 → (s.setMirAddr r m v).reg r (4 * m + w) = word (v / 2 ^ (96 - 32 * w)))
    ∧ ∀ q j, ¬(q = r ∧ j / 4 = m) → (s.setMirAddr r m v).reg q j = s.reg q j := by
  obtain ⟨hwf, hat, -⟩ := reg_foldl_range h r (m * 4) (fun w => word (v / 2 ^ (96 - 32 * w))) 4
  refine ⟨hwf, fun w hw => ?_, fun q j hne => ?_⟩
  · rw [Nat.mul_comm 4 m]
    exact hat w hw
  · have h0 := wf_setReg h r (m * 4 + 0) (word (v / 2 ^ (96 - 32 * 0)))
    have h1 := wf_setReg h0 r (m * 4 + 1) (word (v / 2 ^ (96 - 32 * 1)))
    have h2 := wf_setReg h1 r (m * 4 + 2) (word (v / 2 ^ (96 - 32 * 2)))
    have hj : ∀ w, w < 4 → ¬(q = r ∧ j = m * 4 + w) := fun w hw hk => hne ⟨hk.1, by omega⟩
    rw [State.setMirAddr, foldl_range_four, reg_setReg_ne h2 _ (hj 3 (by decide)), reg_setReg_ne h1 _ (hj 2 (by decide)),
      reg_setReg_ne h0 _ (hj 1 (by decide)), reg_setReg_ne h _ (hj 0 (by decide))]

/-- The word of MIR_SESS_CFG. -/
def Args.mirCfg (a : Args) : Nat := b2n (a.f 1) * 2 ^ 31 + a.n 2 * 2 ^ 28 + a.n 3 * 2 ^ 24 + a.n 4 * 2 ^ 20 + a.n 5

/-- The words of a session. -/
def Args.mirWords (a : Args) : List (Reg × Word) :=
  [(.mirSessCfg, word a.mirCfg), (.mirSessTrunc, word (a.n 6)), (.mirSessRate, word (a.n 7)), (.mirSessBurst, word (a.n 8))]

/-- The words of a session's outer header, but for its addresses. -/
def Args.encWords (a : Args) : List (Reg × Word) :=
  [ (.mirEncDmacHi, word (a.n 9 / 2 ^ 32)), (.mirEncDmacLo, word (a.n 9)), (.mirEncSmacHi, word (a.n 10 / 2 ^ 32)), (.mirEncSmacLo, word (a.n 10)),
    (.mirEncL3, word (a.n 15 * 2 ^ 24 + a.n 14 * 2 ^ 16 + a.n 11)), (.mirEncUdp, word (a.n 16 * 65536 + a.n 17)) ]

/-- The place of an IPv4 address in the four words. -/
def Args.ipShift (a : Args) : Nat := if a.n 2 = 2 then 2 ^ 96 else 1

/-- The outer header of a remote session. -/
def State.mirOuter (s : State) (a : Args) : State :=
  ((s.putRegs (a.n 0) a.encWords).setMirAddr .mirEncSip (a.n 0) (a.n 12 * a.ipShift)).setMirAddr .mirEncDip (a.n 0) (a.n 13 * a.ipShift)

/-- What MIR_SESSION_SET writes. -/
def State.mirPut (s : State) (a : Args) : State :=
  if !decide (2 ≤ a.n 2) then s.putRegs (a.n 0) a.mirWords else (s.putRegs (a.n 0) a.mirWords).mirOuter a

/-- What the parameters of MIR_SESSION_SET satisfy to pass its checks. -/
structure MirGood (a : Args) (s : State) : Prop where
  session : a.n 0 ≤ 7
  kind : a.n 2 ≤ 3
  point : a.n 3 ≤ 1
  trunc : a.n 6 = 0 ∨ 64 ≤ a.n 6 ∧ a.n 6 ≤ 10240
  group : a.n 2 = 1 → a.n 5 < 16384
  port : a.n 2 ≠ 1 → a.n 5 ≤ 515 ∧ s.hasPort (a.n 5) = true
  outer : 2 ≤ a.n 2 → a.n 5 < 512 ∧ a.n 11 ≠ 4095 ∧ a.n 15 ≠ 0 ∧ a.n 17 ≠ 0
  rate : a.n 7 ≤ 2 ^ 24
  burst : a.n 8 < 2 ^ 24

/-- The checks of MIR_SESSION_SET. -/
def mirChecks (a : Args) (s : State) : List (Bool × Status) :=
  [ (a.bad || decide (7 < a.n 0) || decide (3 < a.n 2) || decide (1 < a.n 3) || (a.n 6 != 0 && (decide (a.n 6 < 64) || decide (10240 < a.n 6)))
      || (a.n 2 != 1 && decide (515 < a.n 5)), .paramInvalid),
    (a.n 2 == 1 && decide (16384 ≤ a.n 5), .indexRange), (a.n 2 != 1 && !s.hasPort (a.n 5), .resourceAbsent),
    (decide (2 ≤ a.n 2) && (decide (512 ≤ a.n 5) || a.n 11 == 4095 || a.n 15 == 0 || a.n 17 == 0), .paramInvalid),
    (decide (2 ^ 24 < a.n 7) || decide (2 ^ 24 ≤ a.n 8), .rateInvalid) ]

theorem MirGood.passes (hgood : MirGood a s) (hbad : a.bad = false) : firstFail (mirChecks a s) = none := by
  obtain ⟨hsession, hkind, hpoint, htrunc, hgroup, hport, houter, hrate, hburst⟩ := hgood
  have h6 : (a.n 6 != 0 && (decide (a.n 6 < 64) || decide (10240 < a.n 6))) = false := by
    rcases htrunc with h | ⟨hlo, hhi⟩
    · simp [h]
    · simp [Nat.not_lt.2 hlo, Nat.not_lt.2 hhi]
  have h1 : (a.n 2 == 1 && decide (16384 ≤ a.n 5)) = false ∧ (a.n 2 != 1 && decide (515 < a.n 5)) = false ∧ (a.n 2 != 1 && !s.hasPort (a.n 5)) = false := by
    by_cases hk : a.n 2 = 1
    · simp [hk, Nat.not_le.2 (hgroup hk)]
    · simp [hk, Nat.not_lt.2 (hport hk).1, (hport hk).2]
  have h2 : (decide (2 ≤ a.n 2) && (decide (512 ≤ a.n 5) || a.n 11 == 4095 || a.n 15 == 0 || a.n 17 == 0)) = false := by
    by_cases hk : 2 ≤ a.n 2
    · obtain ⟨h5, h11, h15, h17⟩ := houter hk
      simp [Nat.not_le.2 h5, h11, h15, h17]
    · simp [hk]
  refine firstFail_of_all_false ?_
  rw [mirChecks, hbad, h6, h1.1, h1.2.1, h1.2.2, h2, decide_eq_false (Nat.not_lt.2 hsession), decide_eq_false (Nat.not_lt.2 hkind),
    decide_eq_false (Nat.not_lt.2 hpoint), decide_eq_false (Nat.not_lt.2 hrate), decide_eq_false (Nat.not_le.2 hburst)]
  decide +revert

theorem mirSessionSet_completes (hacc : Accepts 0x0A00 p s) (ha : readParams 0x0A00 p.params = a) (hbad : a.bad = false) (hgood : MirGood a s) :
    Completes (.mirSessionSet p) 0x0A00 p s ((begun 0x0A00 p s).mirPut a) .ok (emitBlock []) := by
  subst ha
  change execMirSessionSet p s = _
  unfold execMirSessionSet
  exact completes_of_checks (checks := mirChecks _ (begun 0x0A00 p s)) hacc (MirGood.passes (s := s) hgood hbad) rfl

/-- Words that pass the checks leave their fields as they were given. -/
theorem mirWords_fields (ha : readParams 0x0A00 p.params = a) (hbad : a.bad = false) (hgood : MirGood a s) {t : State}
    (ht : ∀ r w, (r, w) ∈ a.mirWords → t.reg r (a.n 0) = w) : t.flag F.mirSessCfg_VALID (a.n 0) = a.f 1 ∧ t.fld F.mirSessCfg_KIND (a.n 0) = a.n 2
      ∧ t.fld F.mirSessCfg_POINT (a.n 0) = a.n 3 ∧ t.fld F.mirSessCfg_CLASS (a.n 0) = a.n 4 ∧ t.fld F.mirSessCfg_DEST (a.n 0) = a.n 5
      ∧ t.fld F.mirSessTrunc_TRUNC_LEN (a.n 0) = a.n 6 ∧ t.fld F.mirSessRate_RATE (a.n 0) = a.n 7 ∧ t.fld F.mirSessBurst_BURST (a.n 0) = a.n 8 := by
  have hcls : a.n 4 < 2 ^ 3 := by subst ha; exact readParams_num_lt hbad rfl
  have hdest : a.n 5 < 2 ^ 16 := by subst ha; exact readParams_num_lt hbad rfl
  have htrunc : a.n 6 < 2 ^ 14 := by subst ha; exact readParams_num_lt hbad rfl
  have hv := b2n_le_one (a.f 1)
  have hkind := hgood.kind
  have hpoint := hgood.point
  have hcfg := ht .mirSessCfg (word a.mirCfg) (by simp [Args.mirWords])
  have hword : (word a.mirCfg).toNat = a.mirCfg := toNat_word (by rw [Args.mirCfg]; omega)
  have hfld : ∀ f : Fld, f.reg = .mirSessCfg → t.fld f (a.n 0) = a.mirCfg / 2 ^ f.lo % 2 ^ f.width := fun f hf => by
    rw [fld_of_reg_eq (hf ▸ hcfg), hword]
  refine ⟨?_, ?_, ?_, ?_, ?_, ?_, ?_, ?_⟩
  · rw [State.flag, hfld F.mirSessCfg_VALID rfl, ← b2n_ne_zero (a.f 1)]
    dsimp only [F.mirSessCfg_VALID, Args.mirCfg]
    exact decide_eq_decide.2 (by omega)
  · rw [hfld F.mirSessCfg_KIND rfl]
    dsimp only [F.mirSessCfg_KIND, Args.mirCfg]
    omega
  · rw [hfld F.mirSessCfg_POINT rfl]
    dsimp only [F.mirSessCfg_POINT, Args.mirCfg]
    omega
  · rw [hfld F.mirSessCfg_CLASS rfl]
    dsimp only [F.mirSessCfg_CLASS, Args.mirCfg]
    omega
  · rw [hfld F.mirSessCfg_DEST rfl]
    dsimp only [F.mirSessCfg_DEST, Args.mirCfg]
    omega
  · exact fld_of_word (f := F.mirSessTrunc_TRUNC_LEN) rfl (by decide) htrunc (ht .mirSessTrunc _ (by simp [Args.mirWords]))
  · exact fld_of_word (f := F.mirSessRate_RATE) rfl (by decide) (Nat.lt_of_le_of_lt hgood.rate (by decide)) (ht .mirSessRate _ (by simp [Args.mirWords]))
  · exact fld_of_word (f := F.mirSessBurst_BURST) rfl (by decide) hgood.burst (ht .mirSessBurst _ (by simp [Args.mirWords]))

/-- The layout of the outer header behind the fixed fields. -/
theorem mir_tail (ha : readParams 0x0A00 p.params = a) (h2 : 2 ≤ a.n 2) (h3 : a.n 2 ≤ 3) :
    tailOf 0x0A00 p.params (parseFrom p.params (fixedOf 0x0A00 p.params) 0)
      = [.mac, .mac, .u 12, if a.n 2 = 2 then .ip4 else .ip6, if a.n 2 = 2 then .ip4 else .ip6, .u 6, .u 8, .u 16, .u 16] := by
  have hn : (parseFrom p.params (fixedOf 0x0A00 p.params) 0).n 2 = a.n 2 := by
    subst ha
    exact readParams_fixed (show 2 < 9 by decide)
  have hk : a.n 2 = 2 ∨ a.n 2 = 3 := by omega
  simp only [tailOf, hn, if_pos hk]

/-- What the fields of the outer header are bounded by. -/
structure OuterBounds (a : Args) : Prop where
  dmac : a.n 9 < 2 ^ 48
  smac : a.n 10 < 2 ^ 48
  vid : a.n 11 < 2 ^ 12
  dscp : a.n 14 < 2 ^ 6
  ttl : a.n 15 < 2 ^ 8
  sport : a.n 16 < 2 ^ 16
  dport : a.n 17 < 2 ^ 16
  ip4 : a.n 2 = 2 → a.n 12 < 2 ^ 32 ∧ a.n 13 < 2 ^ 32

theorem outerBounds (ha : readParams 0x0A00 p.params = a) (hbad : a.bad = false) (h2 : 2 ≤ a.n 2) (h3 : a.n 2 ≤ 3) : OuterBounds a := by
  have htail := mir_tail ha h2 h3
  have hat : ∀ k t, (fixedOf 0x0A00 p.params ++ [.mac, .mac, .u 12, if a.n 2 = 2 then .ip4 else .ip6, if a.n 2 = 2 then .ip4 else .ip6, .u 6, .u 8,
      .u 16, .u 16])[k]? = some t → ∃ bs, bs.length = t.size ∧ a.n k = t.decode bs ∧ t.reservedBad bs = false := fun k t hk => by
    subst ha
    exact readParams_tail hbad (by rw [htail]; exact hk)
  have hnum : ∀ k bits, (fixedOf 0x0A00 p.params ++ [.mac, .mac, .u 12, if a.n 2 = 2 then .ip4 else .ip6, if a.n 2 = 2 then .ip4 else .ip6, .u 6, .u 8,
      .u 16, .u 16])[k]? = some (.u bits) → a.n k < 2 ^ bits := fun k bits hk => by
    obtain ⟨bs, -, hn, hres⟩ := hat k _ hk
    rw [hn]
    exact not_le.1 (of_decide_eq_false hres)
  have hmac : ∀ k, (fixedOf 0x0A00 p.params ++ [.mac, .mac, .u 12, if a.n 2 = 2 then .ip4 else .ip6, if a.n 2 = 2 then .ip4 else .ip6, .u 6, .u 8,
      .u 16, .u 16])[k]? = some .mac → a.n k < 2 ^ 48 := fun k hk => by
    obtain ⟨bs, -, hn, -⟩ := hat k _ hk
    rw [hn]
    exact Ty.decode_mac_lt bs
  refine ⟨hmac 9 rfl, hmac 10 rfl, hnum 11 12 rfl, hnum 14 6 rfl, hnum 15 8 rfl, hnum 16 16 rfl, hnum 17 16 rfl, fun hk => ?_⟩
  have hip : ∀ k, (fixedOf 0x0A00 p.params ++ [.mac, .mac, .u 12, if a.n 2 = 2 then .ip4 else .ip6, if a.n 2 = 2 then .ip4 else .ip6, .u 6, .u 8,
      .u 16, .u 16])[k]? = some .ip4 → a.n k < 2 ^ 32 := fun k hk => by
    obtain ⟨bs, hlen, hn, -⟩ := hat k _ hk
    have hlt := beNat_lt bs
    rw [hlen] at hlt
    rw [hn]
    exact hlt
  exact ⟨hip 12 (by rw [if_pos hk]; rfl), hip 13 (by rw [if_pos hk]; rfl)⟩

/-- Words of the outer header leave their fields as they were given. -/
theorem encWords_fields (hb : OuterBounds a) {t : State} (ht : ∀ r w, (r, w) ∈ a.encWords → t.reg r (a.n 0) = w) :
    t.fld F.mirEncDmacHi_ADDR (a.n 0) * 2 ^ 32 + t.fld F.mirEncDmacLo_ADDR (a.n 0) = a.n 9
    ∧ t.fld F.mirEncSmacHi_ADDR (a.n 0) * 2 ^ 32 + t.fld F.mirEncSmacLo_ADDR (a.n 0) = a.n 10 ∧ t.fld F.mirEncL3_VID (a.n 0) = a.n 11
    ∧ t.fld F.mirEncL3_DSCP (a.n 0) = a.n 14 ∧ t.fld F.mirEncL3_TTL (a.n 0) = a.n 15 ∧ t.fld F.mirEncUdp_SPORT (a.n 0) = a.n 16
    ∧ t.fld F.mirEncUdp_DPORT (a.n 0) = a.n 17 := by
  obtain ⟨hdmac, hsmac, hvid, hdscp, httl, hsport, hdport, -⟩ := hb
  have hfld : ∀ (f : Fld) (n : Nat), (f.reg, word n) ∈ a.encWords → t.fld f (a.n 0) = n % 2 ^ 32 / 2 ^ f.lo % 2 ^ f.width := fun f n he => by
    rw [fld_of_reg_eq (ht _ _ he), word, BitVec.toNat_ofNat]
  refine ⟨?_, ?_, ?_, ?_, ?_, ?_, ?_⟩
  · rw [hfld F.mirEncDmacHi_ADDR (a.n 9 / 2 ^ 32) (by simp [Args.encWords, F.mirEncDmacHi_ADDR]),
      hfld F.mirEncDmacLo_ADDR (a.n 9) (by simp [Args.encWords, F.mirEncDmacLo_ADDR])]
    dsimp only [F.mirEncDmacHi_ADDR, F.mirEncDmacLo_ADDR]
    omega
  · rw [hfld F.mirEncSmacHi_ADDR (a.n 10 / 2 ^ 32) (by simp [Args.encWords, F.mirEncSmacHi_ADDR]),
      hfld F.mirEncSmacLo_ADDR (a.n 10) (by simp [Args.encWords, F.mirEncSmacLo_ADDR])]
    dsimp only [F.mirEncSmacHi_ADDR, F.mirEncSmacLo_ADDR]
    omega
  · rw [hfld F.mirEncL3_VID (a.n 15 * 2 ^ 24 + a.n 14 * 2 ^ 16 + a.n 11) (by simp [Args.encWords, F.mirEncL3_VID])]
    dsimp only [F.mirEncL3_VID]
    omega
  · rw [hfld F.mirEncL3_DSCP (a.n 15 * 2 ^ 24 + a.n 14 * 2 ^ 16 + a.n 11) (by simp [Args.encWords, F.mirEncL3_DSCP])]
    dsimp only [F.mirEncL3_DSCP]
    omega
  · rw [hfld F.mirEncL3_TTL (a.n 15 * 2 ^ 24 + a.n 14 * 2 ^ 16 + a.n 11) (by simp [Args.encWords, F.mirEncL3_TTL])]
    dsimp only [F.mirEncL3_TTL]
    omega
  · rw [hfld F.mirEncUdp_SPORT (a.n 16 * 65536 + a.n 17) (by simp [Args.encWords, F.mirEncUdp_SPORT])]
    dsimp only [F.mirEncUdp_SPORT]
    omega
  · rw [hfld F.mirEncUdp_DPORT (a.n 16 * 65536 + a.n 17) (by simp [Args.encWords, F.mirEncUdp_DPORT])]
    dsimp only [F.mirEncUdp_DPORT]
    omega

/-- The outer addresses, for IPv4 in the first word and for IPv6 in all four. -/
theorem mirOuter_result (h : RegsWf s) (hkind : a.n 2 = 2 → a.n 12 < 2 ^ 32 ∧ a.n 13 < 2 ^ 32) {t : State} (ht : t = s.mirOuter a) :
    RegsWf t ∧ (∀ r w, (r, w) ∈ a.encWords → t.reg r (a.n 0) = w)
    ∧ (a.n 2 = 2 → t.fld F.mirEncSip_ADDR (4 * a.n 0) = a.n 12 ∧ t.fld F.mirEncDip_ADDR (4 * a.n 0) = a.n 13)
    ∧ (a.n 2 = 3 → ∀ w, w < 4 → t.fld F.mirEncSip_ADDR (4 * a.n 0 + w) = a.n 12 / 2 ^ (96 - 32 * w) % 2 ^ 32
      ∧ t.fld F.mirEncDip_ADDR (4 * a.n 0 + w) = a.n 13 / 2 ^ (96 - 32 * w) % 2 ^ 32)
    ∧ ∀ r i, ¬(r ∈ [.mirEncDmacHi, .mirEncDmacLo, .mirEncSmacHi, .mirEncSmacLo, .mirEncL3, .mirEncUdp] ∧ i = a.n 0)
      ∧ ¬(r ∈ [.mirEncSip, .mirEncDip] ∧ i / 4 = a.n 0) → t.reg r i = s.reg r i := by
  subst ht
  have henc := putRegs_wf h (a.n 0) a.encWords
  obtain ⟨hsip, hsipAt, hsipOther⟩ := setMirAddr_frame henc .mirEncSip (a.n 0) (a.n 12 * a.ipShift)
  obtain ⟨hdip, hdipAt, hdipOther⟩ := setMirAddr_frame hsip .mirEncDip (a.n 0) (a.n 13 * a.ipShift)
  have hs : ∀ w, w < 4 → (s.mirOuter a).fld F.mirEncSip_ADDR (4 * a.n 0 + w) = a.n 12 * a.ipShift / 2 ^ (96 - 32 * w) % 2 ^ 32 := fun w hw => by
    have hreg : (s.mirOuter a).reg .mirEncSip (4 * a.n 0 + w) = word (a.n 12 * a.ipShift / 2 ^ (96 - 32 * w)) :=
      (hdipOther .mirEncSip _ (by simp)).trans (hsipAt w hw)
    rw [fld_of_reg_eq (f := F.mirEncSip_ADDR) hreg, word, BitVec.toNat_ofNat]
    dsimp only [F.mirEncSip_ADDR]
    rw [pow_zero, Nat.div_one, Nat.mod_mod]
  have hd : ∀ w, w < 4 → (s.mirOuter a).fld F.mirEncDip_ADDR (4 * a.n 0 + w) = a.n 13 * a.ipShift / 2 ^ (96 - 32 * w) % 2 ^ 32 := fun w hw => by
    rw [fld_of_reg_eq (s := s.mirOuter a) (f := F.mirEncDip_ADDR) (hdipAt w hw), word, BitVec.toNat_ofNat]
    dsimp only [F.mirEncDip_ADDR]
    rw [pow_zero, Nat.div_one, Nat.mod_mod]
  refine ⟨hdip, fun r w he => ?_, fun hk => ?_, fun hk w hw => ?_, fun r i hne => ?_⟩
  · have hr : r ≠ .mirEncSip ∧ r ≠ .mirEncDip := by
      have hmem := List.mem_map_of_mem (f := Prod.fst) he
      constructor <;> rintro rfl <;> exact absurd hmem (by simp [Args.encWords])
    exact (hdipOther r _ fun hc => hr.2 hc.1).trans ((hsipOther r _ fun hc => hr.1 hc.1).trans (reg_putRegs _ h (by simp [Args.encWords]) he))
  · obtain ⟨h12, h13⟩ := hkind hk
    have hshift : a.ipShift = 2 ^ 96 := if_pos hk
    have hsw := hs 0 (by decide)
    have hdw := hd 0 (by decide)
    rw [hshift, Nat.mul_zero, Nat.sub_zero, Nat.mul_div_cancel _ (Nat.two_pow_pos 96), Nat.add_zero] at hsw hdw
    exact ⟨hsw.trans (Nat.mod_eq_of_lt h12), hdw.trans (Nat.mod_eq_of_lt h13)⟩
  · have hshift : a.ipShift = 1 := if_neg (by omega)
    have hsw := hs w hw
    have hdw := hd w hw
    rw [hshift, Nat.mul_one] at hsw hdw
    exact ⟨hsw, hdw⟩
  · obtain ⟨henc', haddr⟩ := hne
    refine (hdipOther r i fun hc => haddr ⟨by rw [hc.1]; decide, hc.2⟩).trans ((hsipOther r i fun hc => haddr ⟨by rw [hc.1]; decide, hc.2⟩).trans ?_)
    exact (putRegs_frame (a.n 0) a.encWords h).2 r i fun hc => henc' ⟨by simpa [Args.encWords] using hc.1, hc.2⟩

/-- The state that MIR_SESSION_SET leaves (R469). -/
theorem mirPut_result (h : RegsWf s) (ha : readParams 0x0A00 p.params = a) (hbad : a.bad = false) (hgood : MirGood a s) {t : State} (ht : t = s.mirPut a) :
    (∀ r w, (r, w) ∈ a.mirWords → t.reg r (a.n 0) = w)
    ∧ (2 ≤ a.n 2 → t.fld F.mirEncDmacHi_ADDR (a.n 0) * 2 ^ 32 + t.fld F.mirEncDmacLo_ADDR (a.n 0) = a.n 9
      ∧ t.fld F.mirEncSmacHi_ADDR (a.n 0) * 2 ^ 32 + t.fld F.mirEncSmacLo_ADDR (a.n 0) = a.n 10 ∧ t.fld F.mirEncL3_VID (a.n 0) = a.n 11
      ∧ t.fld F.mirEncL3_DSCP (a.n 0) = a.n 14 ∧ t.fld F.mirEncL3_TTL (a.n 0) = a.n 15 ∧ t.fld F.mirEncUdp_SPORT (a.n 0) = a.n 16
      ∧ t.fld F.mirEncUdp_DPORT (a.n 0) = a.n 17)
    ∧ (a.n 2 = 2 → t.fld F.mirEncSip_ADDR (4 * a.n 0) = a.n 12 ∧ t.fld F.mirEncDip_ADDR (4 * a.n 0) = a.n 13)
    ∧ (a.n 2 = 3 → ∀ w, w < 4 → t.fld F.mirEncSip_ADDR (4 * a.n 0 + w) = a.n 12 / 2 ^ (96 - 32 * w) % 2 ^ 32
      ∧ t.fld F.mirEncDip_ADDR (4 * a.n 0 + w) = a.n 13 / 2 ^ (96 - 32 * w) % 2 ^ 32)
    ∧ ∀ r i, ¬(r ∈ [.mirSessCfg, .mirSessTrunc, .mirSessRate, .mirSessBurst] ∧ i = a.n 0)
      ∧ ¬(2 ≤ a.n 2 ∧ r ∈ [.mirEncDmacHi, .mirEncDmacLo, .mirEncSmacHi, .mirEncSmacLo, .mirEncL3, .mirEncUdp] ∧ i = a.n 0)
      ∧ ¬(2 ≤ a.n 2 ∧ r ∈ [.mirEncSip, .mirEncDip] ∧ i / 4 = a.n 0) → t.reg r i = s.reg r i := by
  have hm := putRegs_wf h (a.n 0) a.mirWords
  have hat : ∀ r w, (r, w) ∈ a.mirWords → (s.putRegs (a.n 0) a.mirWords).reg r (a.n 0) = w := fun r w he =>
    reg_putRegs _ h (by simp [Args.mirWords]) he
  have hother : ∀ r i, ¬(r ∈ [.mirSessCfg, .mirSessTrunc, .mirSessRate, .mirSessBurst] ∧ i = a.n 0) →
      (s.putRegs (a.n 0) a.mirWords).reg r i = s.reg r i := fun r i hne =>
    (putRegs_frame (a.n 0) a.mirWords h).2 r i fun hc => hne ⟨by simpa [Args.mirWords] using hc.1, hc.2⟩
  unfold State.mirPut at ht
  by_cases h2 : 2 ≤ a.n 2
  · rw [if_neg (by simp [h2])] at ht
    have hbounds := outerBounds ha hbad h2 hgood.kind
    obtain ⟨-, henc, hip4, hip6, hrest⟩ := mirOuter_result hm hbounds.ip4 ht
    refine ⟨fun r w he => ?_, fun _ => encWords_fields hbounds henc, hip4, hip6, fun r i hne => ?_⟩
    · refine (hrest r _ ⟨fun hc => ?_, fun hc => ?_⟩).trans (hat r w he)
      all_goals
        have hmem := List.mem_map_of_mem (f := Prod.fst) he
        simp only [Args.mirWords, List.map_cons, List.map_nil, List.mem_cons, List.not_mem_nil, or_false] at hmem
        rcases hmem with rfl | rfl | rfl | rfl <;> exact absurd hc.1 (by decide)
    · obtain ⟨hcfg, henc', haddr⟩ := hne
      exact (hrest r i ⟨fun hc => henc' ⟨h2, hc⟩, fun hc => haddr ⟨h2, hc⟩⟩).trans (hother r i hcfg)
  · rw [if_pos (by simp [h2])] at ht
    subst ht
    exact ⟨hat, fun hk => absurd hk h2, fun hk => absurd hk.ge h2, fun hk => absurd (hk ▸ by decide) h2, fun r i hne => hother r i hne.1⟩

/-! ### MIR_SESSION_GET (R469) -/

/-- A block splits at any of its fields. -/
theorem emitFrom_split {t : Ty} {v : Nat} : ∀ (l : List (Ty × Nat)) (k pos : Nat), l[k]? = some (t, v) →
    ∃ pre rest, emitFrom l pos = pre ++ (t.encode v ++ rest) ∧ pos + pre.length = fieldAt (l.map Prod.fst) k pos
  | [], _, _, hk => by simp at hk
  | (u, w) :: l, 0, pos, hk => by
    obtain ⟨rfl, rfl⟩ := Prod.mk.inj (Option.some.inj hk)
    refine ⟨List.replicate (padTo u.align pos) 0, emitFrom l (pos + padTo u.align pos + u.size), ?_, ?_⟩
    · simp only [emitFrom, List.append_assoc]
    · rw [List.length_replicate]
      rfl
  | (u, w) :: l, k + 1, pos, hk => by
    obtain ⟨pre, rest, hemit, hlen⟩ := emitFrom_split l k (pos + padTo u.align pos + u.size) hk
    refine ⟨List.replicate (padTo u.align pos) 0 ++ u.encode w ++ pre, rest, ?_, ?_⟩
    · simp only [emitFrom, hemit, List.append_assoc]
    · rw [List.length_append, List.length_append, List.length_replicate, Ty.length_encode, ← Nat.add_assoc, ← Nat.add_assoc, hlen]
      rfl

/-- A MAC address of a reply is read in wire order. -/
theorem beAt_emitBlock_mac {l : List (Ty × Nat)} {ts more : List Ty} (hts : l.map Prod.fst = ts ++ more) {k x v : Nat} (hk : l[k]? = some (.mac, v))
    (hx : fieldAt ts k 0 = x ∧ k < ts.length) (hv : v < 2 ^ 48) : beAt (emitBlock l) x 6 = v := by
  obtain ⟨pre, rest, hemit, hlen⟩ := emitFrom_split l k 0 hk
  rw [hts, fieldAt_append more ts k 0 hx.2, hx.1, Nat.zero_add] at hlen
  have hsplit : emitBlock l = pre ++ (beBytes 6 v ++ ([0, 0] ++ (rest ++ List.replicate (padTo 4 (emitFrom l 0).length) 0))) := by
    rw [emitBlock, hemit]
    simp only [Ty.encode, List.append_assoc]
  have hslice := slice_between pre (beBytes 6 v) ([0, 0] ++ (rest ++ List.replicate (padTo 4 (emitFrom l 0).length) 0))
  rw [← hsplit, hlen, beBytes_length] at hslice
  rw [beAt, hslice, beNat_beBytes hv]

/-- The first fields of the answer of MIR_SESSION_GET. -/
def State.mirHead (s : State) (m : Nat) : List (Ty × Nat) :=
  [ (.flag, s.fld F.mirSessCfg_VALID m), (.u 8, s.fld F.mirSessCfg_KIND m), (.u 8, s.fld F.mirSessCfg_POINT m), (.u 3, s.fld F.mirSessCfg_CLASS m),
    (.u 16, s.fld F.mirSessCfg_DEST m), (.u 14, s.fld F.mirSessTrunc_TRUNC_LEN m), (.u 32, s.fld F.mirSessRate_RATE m),
    (.u 32, s.fld F.mirSessBurst_BURST m) ]

/-- The four words of an outer address as one number. -/
def State.mirIp (s : State) (m : Nat) (f : Fld) : Nat := (List.range 4).foldl (fun n w => n * 2 ^ 32 + s.fld f (m * 4 + w)) 0

def State.mirAddrField (s : State) (m : Nat) (f : Fld) : Ty × Nat :=
  if s.fld F.mirSessCfg_KIND m = 2 then (Ty.ip4, s.mirIp m f / 2 ^ 96) else (Ty.ip6, s.mirIp m f)

/-- The fields of the outer header. -/
def State.mirOuterFields (s : State) (m : Nat) : List (Ty × Nat) :=
  [ (.mac, s.fld F.mirEncDmacHi_ADDR m * 2 ^ 32 + s.fld F.mirEncDmacLo_ADDR m), (.mac, s.fld F.mirEncSmacHi_ADDR m * 2 ^ 32 + s.fld F.mirEncSmacLo_ADDR m),
    (.u 12, s.fld F.mirEncL3_VID m), s.mirAddrField m F.mirEncSip_ADDR, s.mirAddrField m F.mirEncDip_ADDR, (.u 6, s.fld F.mirEncL3_DSCP m),
    (.u 8, s.fld F.mirEncL3_TTL m), (.u 16, s.fld F.mirEncUdp_SPORT m), (.u 16, s.fld F.mirEncUdp_DPORT m) ]

/-- A counter of a session, summed over the quadrants. -/
def State.mirSum (s : State) (m : Nat) (r : Reg) : Nat := (List.range 4).foldl (fun n q => n + s.image r (q * 8 + m)) 0

/-- The answer of MIR_SESSION_GET. -/
def State.mirFields (s : State) (m : Nat) : List (Ty × Nat) :=
  s.mirHead m ++ (if s.fld F.mirSessCfg_KIND m < 2 then [] else s.mirOuterFields m)
    ++ [(.u 64, s.mirSum m .mirCopyCnt), (.u 64, s.mirSum m .mirRateDropCnt), (.u 64, s.mirSum m .mirTruncCnt)]

theorem mirSessionGet_completes (hacc : Accepts 0x0A01 p s) (ha : readParams 0x0A01 p.params = a) (hbad : a.bad = false) (hm : a.n 0 ≤ 7) :
    Completes (.mirSessionGet p) 0x0A01 p s (begun 0x0A01 p s) .ok (emitBlock (s.mirFields (a.n 0))) := by
  subst ha
  change execMirSessionGet p s = _
  unfold execMirSessionGet
  refine completes_of_checks hacc (firstFail_of_all_false ?_) rfl
  simp [hbad, Nat.not_lt.2 hm]

theorem fld_lt (s : State) (f : Fld) (i : Nat) : s.fld f i < 2 ^ f.width := Nat.mod_lt _ (Nat.two_pow_pos _)

/-- The types of the first fields of the answer. -/
def mirHeadTypes : List Ty := [.flag, .u 8, .u 8, .u 3, .u 16, .u 14, .u 32, .u 32]

/-- A field of a register that a reply's field has room for is answered whole. -/
theorem fld_mod_lt (s : State) (f : Fld) (i : Nat) {n : Nat} (h : 2 ^ f.width ≤ 256 ^ n) : s.fld f i % 256 ^ n = s.fld f i :=
  Nat.mod_eq_of_lt (Nat.lt_of_lt_of_le (fld_lt s f i) h)

theorem mirHead_answer (s : State) (m : Nat) {ps : List Byte} {rest : List (Ty × Nat)} (hps : ps = emitBlock (s.mirHead m ++ rest)) :
    leAt ps 0 1 = s.fld F.mirSessCfg_VALID m ∧ leAt ps 1 1 = s.fld F.mirSessCfg_KIND m ∧ leAt ps 2 1 = s.fld F.mirSessCfg_POINT m
      ∧ leAt ps 3 1 = s.fld F.mirSessCfg_CLASS m ∧ leAt ps 4 2 = s.fld F.mirSessCfg_DEST m ∧ leAt ps 6 2 = s.fld F.mirSessTrunc_TRUNC_LEN m
      ∧ leAt ps 8 4 = s.fld F.mirSessRate_RATE m ∧ leAt ps 12 4 = s.fld F.mirSessBurst_BURST m := by
  subst hps
  have hts : (s.mirHead m ++ rest).map Prod.fst = mirHeadTypes ++ rest.map Prod.fst := rfl
  refine ⟨?_, ?_, ?_, ?_, ?_, ?_, ?_, ?_⟩
  · exact (leAt_emitBlock hts (k := 0) rfl (by decide) rfl rfl).trans (fld_mod_lt _ _ _ (by decide))
  · exact (leAt_emitBlock hts (k := 1) rfl (by decide) rfl rfl).trans (fld_mod_lt _ _ _ (by decide))
  · exact (leAt_emitBlock hts (k := 2) rfl (by decide) rfl rfl).trans (fld_mod_lt _ _ _ (by decide))
  · exact (leAt_emitBlock hts (k := 3) rfl (by decide) rfl rfl).trans (fld_mod_lt _ _ _ (by decide))
  · exact (leAt_emitBlock hts (k := 4) rfl (by decide) rfl rfl).trans (fld_mod_lt _ _ _ (by decide))
  · exact (leAt_emitBlock hts (k := 5) rfl (by decide) rfl rfl).trans (fld_mod_lt _ _ _ (by decide))
  · exact (leAt_emitBlock hts (k := 6) rfl (by decide) rfl rfl).trans (fld_mod_lt _ _ _ (by decide))
  · exact (leAt_emitBlock hts (k := 7) rfl (by decide) rfl rfl).trans (fld_mod_lt _ _ _ (by decide))

/-- Without an outer header the copy count follows the first fields. -/
theorem mirCopies_answer (s : State) (m : Nat) (rest : List (Ty × Nat)) : leAt (emitBlock (s.mirHead m ++ ((.u 64, s.mirSum m .mirCopyCnt) :: rest))) 16 8
    = (s.reg .mirCopyCnt m).toNat + (s.reg .mirCopyCnt (8 + m)).toNat + (s.reg .mirCopyCnt (16 + m)).toNat + (s.reg .mirCopyCnt (24 + m)).toNat := by
  have hts : (s.mirHead m ++ ((Ty.u 64, s.mirSum m .mirCopyCnt) :: rest)).map Prod.fst = (mirHeadTypes ++ [.u 64]) ++ rest.map Prod.fst := rfl
  refine (leAt_emitBlock hts (k := 8) rfl (by decide) rfl rfl).trans ?_
  rw [State.mirSum, foldl_range_four]
  simp only [State.image, Nat.zero_mul, Nat.one_mul, Nat.zero_add, Nat.reduceMul]
  refine Nat.mod_eq_of_lt (Nat.lt_of_lt_of_le (m := 2 ^ 64) (by omega) (by decide))

/-- The outer header begins behind the first fields. -/
theorem mirOuter_answer (s : State) (m : Nat) (rest : List (Ty × Nat)) {ps : List Byte} (hps : ps = emitBlock (s.mirHead m ++ s.mirOuterFields m ++ rest)) :
    beAt ps 16 6 = s.fld F.mirEncDmacHi_ADDR m * 2 ^ 32 + s.fld F.mirEncDmacLo_ADDR m
    ∧ beAt ps 24 6 = s.fld F.mirEncSmacHi_ADDR m * 2 ^ 32 + s.fld F.mirEncSmacLo_ADDR m ∧ leAt ps 32 2 = s.fld F.mirEncL3_VID m := by
  subst hps
  have hts : (s.mirHead m ++ s.mirOuterFields m ++ rest).map Prod.fst = (mirHeadTypes ++ [.mac, .mac, .u 12])
      ++ (((s.mirOuterFields m).drop 3).map Prod.fst ++ rest.map Prod.fst) := by
    rw [List.map_append]
    rfl
  have hmac : ∀ f g : Fld, f.width = 16 → g.width = 32 → s.fld f m * 2 ^ 32 + s.fld g m < 2 ^ 48 := fun f g hf hg => by
    have h1 := fld_lt s f m
    have h2 := fld_lt s g m
    rw [hf] at h1
    rw [hg] at h2
    omega
  refine ⟨?_, ?_, ?_⟩
  · exact beAt_emitBlock_mac hts (k := 8) rfl (by decide) (hmac _ _ rfl rfl)
  · exact beAt_emitBlock_mac hts (k := 9) rfl (by decide) (hmac _ _ rfl rfl)
  · exact (leAt_emitBlock hts (k := 10) rfl (by decide) rfl rfl).trans (fld_mod_lt _ _ _ (by decide))

/-! ### MIR_PORT_SET (R470) -/

theorem mirPortSet_completes (hacc : Accepts 0x0A02 p s) (ha : readParams 0x0A02 p.params = a) (hbad : a.bad = false) (hport : s.hasPort (a.n 0) = true)
    (hhid : s.hidden (a.n 0) = false) :
    Completes (.mirPortSet p) 0x0A02 p s ((begun 0x0A02 p s).setReg .mirPortSrc (a.n 0) (word (a.n 2 * 256 + a.n 1))) .ok (emitBlock []) := by
  subst ha
  have hhid' : (begun 0x0A02 p s).hidden ((readParams 0x0A02 p.params).n 0) = false := hhid
  change execMirPortSet p s = _
  unfold execMirPortSet
  refine completes_of_checks hacc (firstFail_of_all_false ?_) rfl
  simp [hbad, hport, hhid']

end

/-- Settles O53: each packet passes its checks; what it leaves is the words put into registers of one index, and an answer's fields lie at their offsets. -/
theorem stampingAndMirrorPacketsAnswer : Obligations.StampingAndMirrorPacketsAnswer := by
  unfold Obligations.StampingAndMirrorPacketsAnswer
  refine ⟨?ptpSet, ?ptpGet, ?ring, ?stp, ?mirSet, ?mirGet, ?mirPort⟩
  case ptpSet =>
    intro p a s h hacc ha hbad hfront hport hhid hservo hdiff
    exact ⟨_, ptpPortSet_completes hacc ha hbad hfront hport hhid hservo hdiff, ptpPortSet_result (s := begun 0x090B p s) h.regs ha hbad rfl⟩
  case ptpGet =>
    intro p a s hacc ha hbad hport
    have hwords : (ptpRegs.map fun r => (Ty.u 32, (s.view r (a.n 0)).toNat)) = wordFields (ptpRegs.map fun r => (s.view r (a.n 0)).toNat) := rfl
    refine ⟨_, ptpPortGet_completes hacc ha hbad hport, ?_⟩
    rw [hwords]
    refine ⟨?_, ?_, ?_, ?_, ?_, ?_, ?_⟩
    · rw [emitBlock_words, length_words]
      rfl
    · exact leAt_emitBlock_words (k := 0) rfl rfl
    · exact leAt_emitBlock_words (k := 1) rfl rfl
    · exact leAt_emitBlock_words (k := 2) rfl rfl
    · exact leAt_emitBlock_words (k := 3) rfl rfl
    · exact leAt_emitBlock_words (k := 4) rfl rfl
    · exact leAt_emitBlock_words (k := 7) rfl rfl
  case ring =>
    intro p a s h hacc ha hbad hquad
    exact ⟨_, tsRingSet_completes hacc ha hbad hquad, tsRingSet_result (s := begun 0x090D p s) h.regs (a.n 0) (a.f 1) (a.f 2) rfl⟩
  case stp =>
    intro p a s h hacc ha hbad
    refine ⟨_, tsStpSet_completes hacc ha hbad, reg_setReg_self (s := begun 0x090E p s) h.regs _ _ _, fun r i hne => ?_⟩
    exact reg_setReg_ne (s := begun 0x090E p s) h.regs _ fun hk => hne.elim (· hk.1) (· hk.2)
  case mirSet =>
    intro p a m s h hacc ha hbad hm hsession hkind hpoint htrunc hgroup hport houter hrate hburst
    subst hm
    have hgood : MirGood a s := ⟨hsession, hkind, hpoint, htrunc, hgroup, hport, houter, hrate, hburst⟩
    obtain ⟨hat, henc, hip4, hip6, hrest⟩ := mirPut_result (s := begun 0x0A00 p s) h.regs ha hbad ⟨hsession, hkind, hpoint, htrunc, hgroup, hport, houter,
      hrate, hburst⟩ rfl
    obtain ⟨h1, h2, h3, h4, h5, h6, h7, h8⟩ := mirWords_fields ha hbad hgood hat
    exact ⟨_, mirSessionSet_completes hacc ha hbad hgood, h1, h2, h3, h4, h5, h6, h7, h8, henc, hip4, hip6, hrest⟩
  case mirGet =>
    intro p a s hacc ha hbad hm
    have hhead := mirHead_answer s (a.n 0) (ps := emitBlock (s.mirFields (a.n 0))) (by rw [State.mirFields, List.append_assoc])
    obtain ⟨h1, h2, h3, h4, h5, h6, h7, h8⟩ := hhead
    refine ⟨_, mirSessionGet_completes hacc ha hbad hm, h1, h2, h3, h4, h5, h6, h7, h8, fun hlocal => ?_, fun hremote => ?_⟩
    · rw [State.mirFields, if_pos hlocal, List.append_nil]
      exact mirCopies_answer s (a.n 0) _
    · exact mirOuter_answer s (a.n 0) _ (by rw [State.mirFields, if_neg (Nat.not_lt.2 hremote)])
  case mirPort =>
    intro p a s h hacc ha hbad hport hhid
    have hin : a.n 1 < 2 ^ 8 := by subst ha; exact readParams_num_lt hbad rfl
    have heg : a.n 2 < 2 ^ 8 := by subst ha; exact readParams_num_lt hbad rfl
    have hw := reg_setReg_self (s := begun 0x0A02 p s) h.regs .mirPortSrc (a.n 0) (word (a.n 2 * 256 + a.n 1))
    have hval : (word (a.n 2 * 256 + a.n 1)).toNat = a.n 2 * 256 + a.n 1 := toNat_word (by omega)
    refine ⟨_, mirPortSet_completes hacc ha hbad hport hhid, ?_, ?_, fun r i hne => ?_⟩
    · rw [fld_of_reg_eq (f := F.mirPortSrc_IN_MASK) hw, hval]
      dsimp only [F.mirPortSrc_IN_MASK]
      omega
    · rw [fld_of_reg_eq (f := F.mirPortSrc_EG_MASK) hw, hval]
      dsimp only [F.mirPortSrc_EG_MASK]
      omega
    · exact reg_setReg_ne (s := begun 0x0A02 p s) h.regs _ fun hk => hne.elim (· hk.1) (· hk.2)

end Sys2Proof.Machine

/-!
Snapshots (O19): the state in which a snapshot does not advance the sequence number by one.
-/
namespace Sys2Proof.Machine
open Sys2Proof

/-- A block in its reset state whose live counters list one count under the key of CNT_SNAP_SEQ. No counter of the hardware has this key, but the
invariant does not exclude it. -/
def miscountedSequence : State := { State.reset with cnt := { live := [(regKey .cntSnapSeq 0, 1)] } }

theorem miscountedSequence_inv : Inv miscountedSequence := ⟨by decide +kernel, by decide, by decide⟩

/-- The snapshot adds the count to the register before it advances the sequence: the number rises by two. -/
theorem miscountedSequence_snapshot : exec (.cntSnapRequest .cc 1) miscountedSequence = .next miscountedSequence.snapshot
    ∧ miscountedSequence.snapshot.reg .cntSnapSeq 0 = 2 ∧ miscountedSequence.reg .cntSnapSeq 0 = 0 :=
  ⟨rfl, by decide +kernel, by decide +kernel⟩

/-- Refutes O19: its first clause has CNT_SNAP_SEQ advance by one whatever the live counters are, while the snapshot first adds every live counter
into the register that its key names (R474); in `miscountedSequence` that is CNT_SNAP_SEQ itself, which then reads 2. -/
theorem not_snapshotsAndTransfers : ¬ Obligations.SnapshotsAndTransfers := by
  intro hall
  obtain ⟨hrequest, -⟩ := hall
  obtain ⟨-, hfirst⟩ := hrequest .cc 1 miscountedSequence miscountedSequence_inv rfl (by decide)
  obtain ⟨t, ht, -, -, hseq⟩ := hfirst (by decide)
  obtain ⟨hexec, hnew, hold⟩ := miscountedSequence_snapshot
  obtain rfl : t = miscountedSequence.snapshot := Host.Outcome.next.inj (ht.symm.trans hexec)
  obtain ⟨hone, -⟩ := hseq (by decide)
  rw [hnew, hold] at hone
  exact absurd hone (by decide)

end Sys2Proof.Machine

/-! Capacitor, energy, sessions and heat (O14): what the hold-up's measurements write, the end of a write session, and a reading that no thermal level undoes. -/

namespace Sys2Proof.Machine
open Sys2Proof

section
variable {s : State}

/-! ### The measured voltage and CAP_STATE -/

theorem setHoldV_wf (h : RegsWf s) (mv : Nat) : RegsWf (s.setHoldV mv) := wf_setFld (wf_setReg h _ _ _) _ _ _

theorem fld_setHoldV_mv (h : RegsWf s) (mv : Nat) : (s.setHoldV mv).fld F.pwrHoldV_MV 0 = min mv 16383 := by
  unfold State.setHoldV
  rw [fld_setFld_apart (wf_setReg h _ _ _) (by decide)]
  exact fld_of_word rfl (by decide) (show min mv 16383 < 2 ^ 14 by omega) (reg_setReg_self h _ _ _)

/-- A measurement of VHOLD leaves the fields of every register but PWR_HOLDV, CHARGED apart. -/
theorem fld_setHoldV_apart (h : RegsWf s) {f : Fld} (hr : f.reg ≠ .pwrHoldV) (hap : F.pwrStat_CHARGED.apart f = true) (mv i : Nat) :
    (s.setHoldV mv).fld f i = s.fld f i := by
  unfold State.setHoldV
  rw [fld_setFld_apart (wf_setReg h _ _ _) hap]
  exact fld_of_reg (reg_setReg_ne h _ fun hk => hr hk.1)

theorem flag_setHoldV_apart (h : RegsWf s) {f : Fld} (hr : f.reg ≠ .pwrHoldV) (hap : F.pwrStat_CHARGED.apart f = true) (mv i : Nat) :
    (s.setHoldV mv).flag f i = s.flag f i := by simp only [State.flag, fld_setHoldV_apart h hr hap]

theorem setHoldV_frame (s : State) (mv : Nat) : (s.setHoldV mv).tick = s.tick ∧ (s.setHoldV mv).power = s.power := by
  unfold State.setHoldV
  exact ⟨by rw [setFld_tick, setReg_tick], by rw [setFld_power, setReg_power]⟩

/-- What setting CAP_STATE leaves of the registers (R616). -/
theorem setCap_regs (s : State) (n : Nat) :
    (s.setCap n).regs = (if n = 1 then s.setFld F.pwrStat_CAP_STATE 0 n else (s.setFld F.pwrStat_CAP_STATE 0 n).raise F.pwrStat_CAP_FAULT 0).regs := by
  unfold State.setCap
  dsimp only
  have hlog : ∀ (c : Prop) [Decidable c] (m : State) (d : List Byte), (if c then m.logEvent 0x4008 d else m).regs = m.regs := by
    intro c _ m d
    split
    · exact logEvent_regs _ _ _
    · rfl
  exact hlog _ _ _

theorem fld_setCap_state (h : RegsWf s) {n : Nat} (hn : n < 8) : (s.setCap n).fld F.pwrStat_CAP_STATE 0 = n := by
  have hself : (s.setFld F.pwrStat_CAP_STATE 0 n).fld F.pwrStat_CAP_STATE 0 = n := by
    rw [fld_setFld_self h (by decide)]
    exact Nat.mod_eq_of_lt hn
  rw [fld_of_regs (setCap_regs s n)]
  split
  · exact hself
  · rw [fld_raise_apart (wf_setFld h _ _ _) (by decide)]
    exact hself

theorem flag_setCap_fault (h : RegsWf s) {n : Nat} (hn : n ≠ 1) : (s.setCap n).flag F.pwrStat_CAP_FAULT 0 = true := by
  rw [flag_of_regs (setCap_regs s n), if_neg hn]
  exact flag_raise_self (wf_setFld h _ _ _) (by decide) 0

theorem fld_setCap_apart (h : RegsWf s) {f : Fld} (hst : F.pwrStat_CAP_STATE.apart f = true) (hft : F.pwrStat_CAP_FAULT.apart f = true)
    (n i : Nat) : (s.setCap n).fld f i = s.fld f i := by
  rw [fld_of_regs (setCap_regs s n)]
  split
  · exact fld_setFld_apart h hst _ _ _
  · rw [fld_raise_apart (wf_setFld h _ _ _) hft, fld_setFld_apart h hst]

/-! ### The capacitor's checks (R615, R616) -/

/-- The outcome of the capacitor's test (R615). -/
def capOutcome (low : Bool) (rise esr : Nat) : Nat :=
  if low then 3 else if rise < 80000 then 2 else if rise < 2200 * 160 then 4 else if 500 < esr then 5 else 1

theorem capOutcome_lt (low : Bool) (rise esr : Nat) : capOutcome low rise esr < 8 := by
  unfold capOutcome
  repeat' split
  all_goals decide

/-- The measurements as PWR_CAP holds them. -/
def capWord (rise esr : Nat) : Word := word (min esr 65535 * 2 ^ 16 + min (rise / 160) 65535)

theorem capWord_fields {t : State} (ht : t.reg .pwrCap 0 = capWord rise esr) :
    t.fld F.pwrCap_C 0 = min (rise / 160) 65535 ∧ t.fld F.pwrCap_ESR 0 = min esr 65535 := by
  have hc : min (rise / 160) 65535 < 2 ^ 16 := by omega
  have he : min esr 65535 < 2 ^ 16 := by omega
  have hval : (capWord rise esr).toNat = min esr 65535 * 2 ^ 16 + min (rise / 160) 65535 := toNat_word (by omega)
  rw [fld_of_reg_eq (f := F.pwrCap_C) ht, fld_of_reg_eq (f := F.pwrCap_ESR) ht, hval]
  show (_ / 2 ^ 0 % 2 ^ 16 = _) ∧ (_ / 2 ^ 16 % 2 ^ 16 = _)
  omega

theorem exec_capTestComplete (hst : s.fld F.pwrStat_CAP_STATE 0 = 0) (low : Bool) (rise esr : Nat) :
    ∃ m : State, (m = s.setReg .pwrCap 0 (capWord rise esr) ∨ m = (s.setReg .pwrCap 0 (capWord rise esr)).setHoldV 11000)
      ∧ exec (.capTestComplete low rise esr) s = .next (m.setCap (capOutcome low rise esr)) := by
  refine ⟨if capOutcome low rise esr = 1 ∨ capOutcome low rise esr = 5 ∨ capOutcome low rise esr = 4
    then (s.setReg .pwrCap 0 (capWord rise esr)).setHoldV 11000 else s.setReg .pwrCap 0 (capWord rise esr), ?_, ?_⟩
  · split
    · exact Or.inr rfl
    · exact Or.inl rfl
  · change execCapTestComplete low rise esr s = _
    unfold execCapTestComplete capOutcome capWord
    rw [if_neg (not_not.2 hst)]

theorem capTest_result (h : RegsWf s) (hst : s.fld F.pwrStat_CAP_STATE 0 = 0) (low : Bool) (rise esr : Nat) :
    ∃ t, exec (.capTestComplete low rise esr) s = .next t ∧ t.fld F.pwrStat_CAP_STATE 0 = capOutcome low rise esr
      ∧ t.fld F.pwrCap_C 0 = min (rise / 160) 65535 ∧ t.fld F.pwrCap_ESR 0 = min esr 65535 := by
  obtain ⟨m, hm, hrun⟩ := exec_capTestComplete hst low rise esr
  have hw : RegsWf (s.setReg .pwrCap 0 (capWord rise esr)) := wf_setReg h _ _ _
  have hmeas := capWord_fields (reg_setReg_self h .pwrCap 0 (capWord rise esr))
  have hwf : RegsWf m := by
    rcases hm with rfl | rfl
    · exact hw
    · exact setHoldV_wf hw _
  obtain ⟨hc, he⟩ : m.fld F.pwrCap_C 0 = min (rise / 160) 65535 ∧ m.fld F.pwrCap_ESR 0 = min esr 65535 := by
    rcases hm with rfl | rfl
    · exact hmeas
    · rw [fld_setHoldV_apart hw (by decide) (by decide), fld_setHoldV_apart hw (by decide) (by decide)]
      exact hmeas
  exact ⟨_, hrun, fld_setCap_state hwf (capOutcome_lt ..), (fld_setCap_apart hwf (by decide) (by decide) _ _).trans hc,
    (fld_setCap_apart hwf (by decide) (by decide) _ _).trans he⟩

theorem exec_capRuntimeCheck_of_high {mv : Nat} {m : State} (hm : m = s.setHoldV mv) (hmv : 10000 ≤ mv) :
    exec (.capRuntimeCheck mv) s = .next { m with power := { m.power with lowSince := none } } := by
  change execCapRuntimeCheck mv s = _
  unfold execCapRuntimeCheck
  rw [← hm]
  have hlow : decide (mv < 10000) = false := decide_eq_false (by omega)
  simp only [hlow, Bool.false_and, Bool.false_eq_true, if_false]

theorem capRuntime_charged (h : RegsWf s) {mv : Nat} (hmv : 10000 ≤ mv) : ∃ t, exec (.capRuntimeCheck mv) s = .next t ∧ t.power.lowSince = none
    ∧ t.fld F.pwrHoldV_MV 0 = min mv 16383 ∧ t.fld F.pwrStat_CAP_STATE 0 = s.fld F.pwrStat_CAP_STATE 0 := by
  refine ⟨_, exec_capRuntimeCheck_of_high rfl hmv, rfl, ?_, ?_⟩
  · rw [fld_mk]
    exact fld_setHoldV_mv h mv
  · rw [fld_mk]
    exact fld_setHoldV_apart h (by decide) (by decide) mv 0

theorem wf_withPower (h : RegsWf s) (x : Power) : RegsWf { s with power := x } := h

/-- A short: VHOLD has been low for a whole epoch with the charger on (R616). -/
theorem exec_capRuntimeCheck_of_short {mv at0 : Nat} {m : State} (hm : m = s.setHoldV mv)
    (hlow : (decide (mv < 10000) && m.flag F.pwrCtl_CHG_EN 0 && !m.flag F.pwrStat_ON_HOLD 0) = true) (hsince : m.power.lowSince = some at0)
    (hst : m.fld F.pwrStat_CAP_STATE 0 = 1) (hlong : at0 + Config.epochSlots ≤ m.tick.slot) :
    exec (.capRuntimeCheck mv) s = .next (State.setCap { m with power := { m.power with lowSince := some at0 } } 3) := by
  change execCapRuntimeCheck mv s = _
  unfold execCapRuntimeCheck
  rw [← hm]
  simp only [hlow, if_true, hsince, Option.getD_some]
  refine if_pos ?_
  rw [fld_mk, hst, decide_eq_true hlong]
  rfl

theorem capRuntime_short (h : RegsWf s) {mv at0 : Nat} (hmv : mv < 10000) (hchg : s.flag F.pwrCtl_CHG_EN 0 = true)
    (hoff : s.flag F.pwrStat_ON_HOLD 0 = false) (hsince : s.power.lowSince = some at0) (hst : s.fld F.pwrStat_CAP_STATE 0 = 1)
    (hlong : at0 + 1048576 ≤ s.tick.slot) :
    ∃ t, exec (.capRuntimeCheck mv) s = .next t ∧ t.fld F.pwrStat_CAP_STATE 0 = 3 ∧ t.flag F.pwrStat_CAP_FAULT 0 = true := by
  have hlow : (decide (mv < 10000) && (s.setHoldV mv).flag F.pwrCtl_CHG_EN 0 && !(s.setHoldV mv).flag F.pwrStat_ON_HOLD 0) = true := by
    rw [flag_setHoldV_apart h (by decide) (by decide), flag_setHoldV_apart h (by decide) (by decide), hchg, hoff, decide_eq_true hmv]
    rfl
  obtain ⟨htick, hpow⟩ := setHoldV_frame s mv
  have hsince' : (s.setHoldV mv).power.lowSince = some at0 := by
    rw [hpow]
    exact hsince
  have hst' := (fld_setHoldV_apart h (f := F.pwrStat_CAP_STATE) (by decide) (by decide) mv 0).trans hst
  have hepoch : at0 + Config.epochSlots ≤ (s.setHoldV mv).tick.slot := by
    rw [htick, show Config.epochSlots = 1048576 from rfl]
    exact hlong
  exact ⟨_, exec_capRuntimeCheck_of_short rfl hlow hsince' hst' hepoch, fld_setCap_state (wf_withPower (setHoldV_wf h mv) _) (by decide),
    flag_setCap_fault (wf_withPower (setHoldV_wf h mv) _) (by decide)⟩

theorem capOvervoltage_result (h : RegsWf s) {mv : Nat} (hmv : 12000 < mv) : ∃ t, exec (.capOvervoltage mv) s = .next t
    ∧ t.flag F.pwrCtl_CHG_EN 0 = false ∧ (s.fld F.pwrStat_CAP_STATE 0 = 1 → t.fld F.pwrStat_CAP_STATE 0 = 6 ∧ t.flag F.pwrStat_CAP_FAULT 0 = true) := by
  have hv := setHoldV_wf h mv
  have hm : RegsWf ((s.setHoldV mv).setFld F.pwrCtl_CHG_EN 0 0) := wf_setFld hv _ _ _
  have hoff : ((s.setHoldV mv).setFld F.pwrCtl_CHG_EN 0 0).fld F.pwrCtl_CHG_EN 0 = 0 := fld_setFld_self hv (by decide) 0 0
  have hst : ((s.setHoldV mv).setFld F.pwrCtl_CHG_EN 0 0).fld F.pwrStat_CAP_STATE 0 = s.fld F.pwrStat_CAP_STATE 0 := by
    rw [fld_setFld_apart hv (by decide), fld_setHoldV_apart h (by decide) (by decide)]
  refine ⟨_, if_neg (Nat.not_le.2 hmv), ?_⟩
  generalize (s.setHoldV mv).setFld F.pwrCtl_CHG_EN 0 0 = m at hm hoff hst
  rw [← hst]
  split
  · refine ⟨?_, fun _ => ⟨fld_setCap_state hm (by decide), flag_setCap_fault hm (by decide)⟩⟩
    rw [State.flag, fld_setCap_apart hm (by decide) (by decide), hoff]
    rfl
  next hbig =>
    refine ⟨?_, fun h1 => absurd h1 (by omega)⟩
    rw [State.flag, hoff]
    rfl

/-! ### Energy and the save buffer (R617, R619, R621) -/

/-- E_avail depends on the measured voltage and capacitance alone (R617). -/
theorem energy2_congr {t : State} (hv : t.reg .pwrHoldV 0 = s.reg .pwrHoldV 0) (hc : t.reg .pwrCap 0 = s.reg .pwrCap 0) : t.energy2 = s.energy2 := by
  unfold State.energy2
  rw [fld_of_reg (f := F.pwrHoldV_MV) hv, fld_of_reg (f := F.pwrCap_C) hc]

theorem energy2_saveRisk (h : RegsWf s) (v : Nat) : (s.setFld F.ksStat_SAVE_RISK 0 v).energy2 = s.energy2 :=
  energy2_congr (reg_setFld_ne h _ (by simp [F.ksStat_SAVE_RISK])) (reg_setFld_ne h _ (by simp [F.ksStat_SAVE_RISK]))

theorem holdupEnergyCheck_result (h : RegsWf s) (hrun : s.flag F.protBoot_RUNNING 0 = true) (hoff : s.epochOffset = 786432) (mv : Nat) :
    ∃ t, exec (.holdupEnergyCheck mv) s = .next t ∧ t.flag F.ksStat_SAVE_RISK 0 = decide (t.energy2 < 2000000 * 40000) := by
  have hm := setHoldV_wf h mv
  change ∃ t, execHoldupEnergyCheck mv s = .next t ∧ _
  unfold execHoldupEnergyCheck
  rw [hrun, hoff]
  simp only [Bool.not_true, bne_self_eq_false, Bool.or_self, Bool.false_eq_true, if_false]
  generalize s.setHoldV mv = m at hm
  split
  next hlow =>
    refine ⟨_, rfl, ?_⟩
    rw [flag_of_regs (logEvent_regs _ _ _), flag_setFld_one hm (by decide), energy2_congr (reg_of_regs (logEvent_regs _ _ _) _ _)
      (reg_of_regs (logEvent_regs _ _ _) _ _), energy2_saveRisk hm, decide_eq_true hlow]
  next hhigh =>
    refine ⟨_, rfl, ?_⟩
    rw [flag_setFld_zero hm (by decide), energy2_saveRisk hm, decide_eq_false hhigh]

theorem ownSession_image (s : State) (bytes : Nat) (d : SessionData) : (s.ownSession bytes d).ks.image = s.ks.image := by
  unfold State.ownSession State.openSession
  split
  · rfl
  split
  · rw [setFld_ks]
  · rw [logEvent_ks, count_ks]

theorem saveImageUpdate_result (hrun : s.flag F.protBoot_RUNNING 0 = true) :
    ∃ t, exec .saveImageUpdate s = .next t ∧ t.ks.image = some s.freshImage := by
  change ∃ t, execSaveImageUpdate s = .next t ∧ _
  unfold execSaveImageUpdate
  rw [hrun]
  simp only [Bool.not_true, Bool.false_eq_true, if_false]
  split
  · exact ⟨_, rfl, rfl⟩
  · exact ⟨_, rfl, ownSession_image _ _ _⟩

/-! ### The end of a session (R618, R620) -/

/-- The host area with some bytes written from an offset on. -/
def hostAreaWith (area : Table Byte) (off : Nat) (bs : List Byte) : Table Byte :=
  bs.zipIdx.foldl (fun m e => Table.set (fun _ => 0) m (off + e.2) e.1) area

/-- The state in which the first open session has left the list. -/
def State.sessionDone (s : State) (rest : List Session) (worn : Nat) (ok : Bool) : State :=
  { s with ks := { s.ks with sessions := rest, spares := s.ks.spares - worn, failed := s.ks.failed || !ok } }.setFld F.ksStat_SESSION 0
    (b2n !rest.isEmpty)

/-- What a session without a command to answer leaves. -/
theorem exec_ksSessionComplete {d : SessionData} {rest : List Session} (hses : s.ks.sessions = { data := d } :: rest) {worn : Nat} {ok : Bool}
    (hok : decide (worn ≤ s.ks.spares) = ok) : exec (.ksSessionComplete worn) s
      = .next (if ok then ((s.sessionDone rest worn ok).storeSession d).count .ksSessionCnt 0 1 else (s.sessionDone rest worn ok).raise F.ksStat_WR_ERR 0) := by
  change execKsSessionComplete worn s = _
  unfold execKsSessionComplete
  simp only [hses, hok]
  rfl

theorem storeSession_host (s : State) (off : Nat) (bs : List Byte) : (s.storeSession (.host off bs)).cnt = s.cnt
    ∧ (s.storeSession (.host off bs)).ks = { s.ks with hostArea := hostAreaWith s.ks.hostArea off bs } := ⟨rfl, rfl⟩

theorem sessionDone_frame (s : State) (rest : List Session) (worn : Nat) (ok : Bool) : (s.sessionDone rest worn ok).cnt = s.cnt
    ∧ (s.sessionDone rest worn ok).ks = { s.ks with sessions := rest, spares := s.ks.spares - worn, failed := s.ks.failed || !ok } := by
  unfold State.sessionDone
  exact ⟨by rw [setFld_cnt], by rw [setFld_ks]⟩

theorem count_cnt_congr {m u : State} (h : m.cnt = u.cnt) (r : Reg) (i n : Nat) : (m.count r i n).cnt = (u.count r i n).cnt := by
  unfold State.count
  rw [h]

theorem sessionComplete_well {off : Nat} {bs : List Byte} {rest : List Session} (hses : s.ks.sessions = { data := .host off bs } :: rest) :
    ∃ t, exec (.ksSessionComplete 0) s = .next t ∧ t.ks.sessions = rest ∧ t.cnt = (s.count .ksSessionCnt 0 1).cnt
      ∧ t.ks.hostArea = hostAreaWith s.ks.hostArea off bs := by
  obtain ⟨hcnt, hks⟩ := sessionDone_frame s rest 0 true
  refine ⟨_, exec_ksSessionComplete hses (decide_eq_true (Nat.zero_le _)), ?_⟩
  rw [if_pos rfl, count_ks]
  generalize s.sessionDone rest 0 true = m at hcnt hks
  obtain ⟨hstCnt, hstKs⟩ := storeSession_host m off bs
  rw [hstKs, hks]
  exact ⟨rfl, count_cnt_congr (hstCnt.trans hcnt) _ _ _, rfl⟩

theorem sessionComplete_worn (h : RegsWf s) {off : Nat} {bs : List Byte} {rest : List Session}
    (hses : s.ks.sessions = { data := .host off bs } :: rest) {worn : Nat} (hworn : s.ks.spares < worn) :
    ∃ t, exec (.ksSessionComplete worn) s = .next t ∧ t.ks.sessions = rest ∧ t.ks.failed = true
      ∧ t.ks.hostArea = s.ks.hostArea ∧ t.cnt = s.cnt ∧ t.flag F.ksStat_WR_ERR 0 = true := by
  obtain ⟨hcnt, hks⟩ := sessionDone_frame s rest worn false
  have hwf : RegsWf (s.sessionDone rest worn false) := wf_setFld h _ _ _
  refine ⟨_, exec_ksSessionComplete hses (decide_eq_false (Nat.not_le.2 hworn)), ?_⟩
  rw [if_neg (by decide), raise_ks, raise_cnt, hks, hcnt]
  exact ⟨rfl, Bool.or_true _, rfl, rfl, flag_raise_self hwf (by decide) 0⟩

/-! ### What a core reset keeps of the registers (R581) -/

/-- Dropping what some quadrants hold and the copies to them leaves every register. -/
theorem severed_regs (h : Inv s) (quads : Nat) (r : Reg) (i : Nat) : ((s.takeShadow quads).severCopies quads).reg r i = s.reg r i :=
  (keeps_severCopies (M := ⟨[.cnt, .path, .shadow], [], false⟩) (keeps_takeShadow (keeps_self h) (by decide +kernel)) (by decide +kernel)).within.regs r i rfl

theorem severed_wf (h : Inv s) (quads : Nat) : RegsWf ((s.takeShadow quads).severCopies quads) :=
  (keeps_severCopies (M := ⟨[.cnt, .path, .shadow], [], false⟩) (keeps_takeShadow (keeps_self h) (by decide +kernel)) (by decide +kernel)).regs

theorem clearQuads_reg (h : Inv s) {quads : Nat} {core : Bool} {r : Reg} {i : Nat} (hstay : keyCleared quads core (regKey r i) = false) :
    (s.clearQuads quads core).reg r i = s.reg r i := by
  have hwf := severed_wf h quads
  have hreg := severed_regs h quads r i
  unfold State.clearQuads
  rw [reg_of_regs (settle_regs _), ← hreg, reg_eq]
  simp only [reg_eq]
  generalize (s.takeShadow quads).severCopies quads = m at hwf
  have hsorted : Table.sortedFrom 0 m.regs = true := (Bool.and_eq_true_iff.1 hwf).1
  rw [Table.get_filter hsorted]
  exact if_pos (by rw [hstay]; rfl)

theorem ccReset_reg (h : RegsWf s) (cause : Nat) (handover : Bool) {r : Reg} (hr : r ≠ .protBoot) (i : Nat) :
    (s.ccReset cause handover).reg r i = s.reg r i := by
  have hne : ∀ j, ¬(r = Reg.protBoot ∧ i = j) := fun j hk => hr hk.1
  have hframe : (s.ccReset cause handover).regs
      = (((s.setFld F.protBoot_RUNNING 0 0).setFld F.protBoot_RECOVERY 0 0).setFld F.protBoot_STAGE 0 0).regs := by
    unfold State.ccReset
    dsimp only
  rw [reg_of_regs hframe, reg_setFld_ne (wf_setFld (wf_setFld h _ _ _) _ _ _) _ (hne 0), reg_setFld_ne (wf_setFld h _ _ _) _ (hne 0),
    reg_setFld_ne h _ (hne 0)]

theorem clearQuads_inv (h : Inv s) (quads : Nat) (core : Bool) : Inv (s.clearQuads quads core) :=
  keeps_inv (keeps_clearQuads (M := mayChange (.coreReset .cc)) (keeps_self h) (by decide +kernel))

/-- A core reset keeps the registers of the blocks that serve through it, but PROT_BOOT. -/
theorem coreReset_reg (h : Inv s) {r : Reg} {i : Nat} (hstay : keyCleared 15 true (regKey r i) = false) (hr : r ≠ .protBoot) :
    s.coreReset.reg r i = s.reg r i := by
  have hframe : s.coreReset.regs = ((s.clearQuads 15 true).ccReset 1 false).regs := by
    unfold State.coreReset
    dsimp only
  rw [reg_of_regs hframe, ccReset_reg (clearQuads_inv h _ _).regs _ _ hr, clearQuads_reg h hstay]

/-! ### A temperature sample (R627) -/

/-- The invariant holds and THM_TEMP of sensor 0 reads a word. -/
def ReadsTemp (w : Word) (s : State) : Prop := Inv s ∧ s.reg .thmTemp 0 = w

theorem ReadsTemp.of_keeps {w : Word} {t : State} {M : Change} (hs : ReadsTemp w s) (hk : Keeps M s t) (hM : M.may .thmTemp = false) : ReadsTemp w t :=
  ⟨keeps_inv hk, (hk.within.regs _ _ hM).trans hs.2⟩

theorem ReadsTemp.setReg {w v : Word} {r : Reg} (hs : ReadsTemp w s) (hr : r ≠ .thmTemp) (i : Nat) : ReadsTemp w (s.setReg r i v) :=
  ⟨⟨wf_setReg hs.1.regs _ _ _, hs.1.slot, hs.1.whorl⟩, (reg_setReg_ne hs.1.regs v fun hk => hr hk.1.symm).trans hs.2⟩

theorem ReadsTemp.setFld {w : Word} {f : Fld} (hs : ReadsTemp w s) (hf : f.reg ≠ .thmTemp) (i v : Nat) : ReadsTemp w (s.setFld f i v) := hs.setReg hf i

theorem ReadsTemp.raise {w : Word} {f : Fld} (hs : ReadsTemp w s) (hf : f.reg ≠ .thmTemp) (i : Nat) : ReadsTemp w (s.raise f i) :=
  ⟨⟨wf_raise hs.1.regs _ _, hs.1.slot, hs.1.whorl⟩, (reg_raise_ne hs.1.regs fun hk => hf hk.1.symm).trans hs.2⟩

theorem ReadsTemp.coreReset {w : Word} (hs : ReadsTemp w s) : ReadsTemp w s.coreReset :=
  ⟨keeps_inv (keeps_coreReset (M := mayChange (.coreReset .cc)) (keeps_self hs.1) (by decide +kernel)),
    (coreReset_reg hs.1 (by decide) (by decide)).trans hs.2⟩

theorem ReadsTemp.withPower {w : Word} (hs : ReadsTemp w s) (x : Power) : ReadsTemp w { s with power := x } :=
  ⟨⟨hs.1.regs, hs.1.slot, hs.1.whorl⟩, hs.2⟩

theorem ReadsTemp.emit {w : Word} (hs : ReadsTemp w s) (o : Out) : ReadsTemp w (s.emit o) := ⟨⟨hs.1.regs, hs.1.slot, hs.1.whorl⟩, hs.2⟩

theorem ReadsTemp.logEvent {w : Word} (hs : ReadsTemp w s) (k : Nat) (d : List Byte) : ReadsTemp w (s.logEvent k d) :=
  ⟨⟨hs.1.regs, hs.1.slot, hs.1.whorl⟩, hs.2⟩

/-- A choice between two states that read the word. -/
theorem ReadsTemp.ite {w : Word} {c : Prop} [Decidable c] {t u : State} (ht : ReadsTemp w t) (hu : ReadsTemp w u) : ReadsTemp w (if c then t else u) := by
  split
  · exact ht
  · exact hu

/-- No step of a thermal level undoes a reading: the temperature block serves through the core reset of CRIT. -/
theorem ReadsTemp.levelStep {w : Word} (hs : ReadsTemp w s) (tj : Int) (k : Nat) : ReadsTemp w (s.levelStep tj k) := by
  have hflag : ∀ k, (match k with | 1 => F.thmStat_WARN | 2 => F.thmStat_HOT | _ => F.thmStat_CRIT).reg ≠ .thmTemp := by
    intro k
    split <;> decide
  unfold State.levelStep
  extract_lets th up down power m level raised logged held held' lowered
  have hm : ReadsTemp w m := hs.withPower _
  clear_value m level
  refine ReadsTemp.ite ?_ (ReadsTemp.ite ?_ hm)
  · have hup : ReadsTemp w raised := (hm.setFld (by decide) 0 k).raise (hflag k) 0
    clear_value raised
    have hlog : ReadsTemp w logged := (hup.logEvent _ _).ite hup
    clear_value logged
    have hheld : ReadsTemp w held := hlog.ite hlog.coreReset
    clear_value held
    exact ((hheld.withPower _).emit _).ite hlog
  · have hlow : ReadsTemp w lowered := hm.setFld (by decide) 0 (k - 1)
    clear_value lowered
    exact (hlow.logEvent _ _).ite hlow

theorem ReadsTemp.foldl {w : Word} {α : Type} {f : State → α → State} (hf : ∀ u a, ReadsTemp w u → ReadsTemp w (f u a)) (l : List α)
    (hs : ReadsTemp w s) : ReadsTemp w (l.foldl f s) := by
  induction l generalizing s with
  | nil => exact hs
  | cons a l ih => exact ih (hf _ _ hs)

/-- The word of a reading inside the sensors' range. -/
def tempWord (temp : Int) : Word := word (2 ^ 31 + ofSigned 12 temp)

theorem takeTemps_single {temp : Int} (hlo : -320 ≤ temp) (hhi : temp < 480) : s.takeTemps [temp] = s.setReg .thmTemp 0 (tempWord temp) := by
  have hsensor : s.hasSensor 0 = true := rfl
  have hrange : ¬(temp < -320 ∨ 1200 < temp) := by omega
  change (if (!s.hasSensor 0) = true then s else if temp < -320 ∨ 1200 < temp then _ else _) = _
  rw [hsensor, if_neg (by decide), if_neg hrange]
  rfl

theorem tempWord_reads {temp : Int} (hlo : -320 ≤ temp) (hhi : temp < 480) {t : State} (ht : t.reg .thmTemp 0 = tempWord temp) :
    t.flag F.thmTemp_VALID 0 = true ∧ toSigned 12 (t.fld F.thmTemp_TEMP 0) = temp := by
  have hlt := ofSigned_lt 12 temp
  have hval : (tempWord temp).toNat = 2 ^ 31 + ofSigned 12 temp := toNat_word (by omega)
  have htemp : t.fld F.thmTemp_TEMP 0 = ofSigned 12 temp := by
    rw [fld_of_reg_eq (f := F.thmTemp_TEMP) ht, hval]
    show (2 ^ 31 + ofSigned 12 temp) / 2 ^ 0 % 2 ^ 12 = _
    omega
  have hvalid : t.fld F.thmTemp_VALID 0 = 1 := by
    rw [fld_of_reg_eq (f := F.thmTemp_VALID) ht, hval]
    show (2 ^ 31 + ofSigned 12 temp) / 2 ^ 31 % 2 ^ 1 = _
    omega
  refine ⟨by rw [State.flag, hvalid]; rfl, ?_⟩
  rw [htemp, toSigned, Nat.mod_eq_of_lt hlt]
  unfold ofSigned
  split <;> omega

/-- A pass over the thermal levels (R627). -/
theorem ReadsTemp.levels {w : Word} (tj : Int) (l : List Nat) (p : State → Nat → Prop) [∀ u k, Decidable (p u k)] (hs : ReadsTemp w s) :
    ReadsTemp w (l.foldl (fun s k => if p s k then s.levelStep tj k else s) s) :=
  ReadsTemp.foldl (fun _ k hv => (hv.levelStep tj k).ite hv) l hs

theorem thermalSample_reads (h : Inv s) {temp : Int} (hslot : s.tick.slot % 1024 = 0) (hlo : -320 ≤ temp) (hhi : temp < 480) :
    ∃ t, exec (.thermalSample [temp]) s = .next t ∧ ReadsTemp (tempWord temp) t := by
  have hm : ReadsTemp (tempWord temp) (s.takeTemps [temp]) := by
    rw [takeTemps_single hlo hhi]
    exact ⟨⟨wf_setReg h.regs _ _ _, h.slot, h.whorl⟩, reg_setReg_self h.regs _ _ _⟩
  change ∃ t, execThermalSample [temp] s = .next t ∧ _
  unfold execThermalSample
  rw [if_neg (not_not.2 hslot)]
  extract_lets m
  change ReadsTemp _ m at hm
  clear_value m
  split
  · exact ⟨m, rfl, hm⟩
  next tj _ =>
    extract_lets mMax mDown mUp power mTrip
    have hmax : ReadsTemp (tempWord temp) mMax := (hm.setReg (by decide) 0).ite hm
    have hup : ReadsTemp (tempWord temp) mUp := (hmax.levels tj _ _).levels tj _ _
    have htrip : ReadsTemp (tempWord temp) mTrip := ((hup.withPower _).emit _).ite hup
    clear_value mTrip
    split
    · exact ⟨_, rfl, (htrip.withPower _).logEvent _ _⟩
    · exact ⟨_, rfl, htrip⟩

end

/-- Settles O14: each measurement writes its field or its fault, a session's end stores or fails, and a reading stays whatever the levels do. -/
theorem capacitorSessionsAndHeat : Obligations.CapacitorSessionsAndHeat := by
  unfold Obligations.CapacitorSessionsAndHeat
  refine ⟨fun low rise esr s h hst => capTest_result h.regs hst low rise esr, fun mv s h => ⟨capRuntime_charged h.regs, ?_⟩,
    fun mv s h hmv => capOvervoltage_result h.regs hmv, fun mv s h hrun hoff => holdupEnergyCheck_result h.regs hrun hoff mv, ?_, ?_, ?_⟩
  · intro at0 hmv hchg hoff hsince hst hlong
    exact capRuntime_short h.regs hmv hchg hoff hsince hst hlong
  · intro s hrun
    obtain ⟨t, hexec, himg⟩ := saveImageUpdate_result hrun
    exact ⟨t, _, hexec, himg, rfl, rfl⟩
  · intro s off bs rest hses
    exact ⟨sessionComplete_well hses, fun worn hworn h => sessionComplete_worn h.regs hses hworn⟩
  · intro temp s h hslot hlo hhi _ _
    obtain ⟨t, hexec, _, hreg⟩ := thermalSample_reads h hslot hlo (by omega)
    exact ⟨t, hexec, tempWord_reads hlo (by omega) hreg⟩

end Sys2Proof.Machine

/-! Sags and supplies (O13): the start and the end of the emergency save, and what the loss of a supply resets. -/

namespace Sys2Proof.Machine
open Sys2Proof

section
variable {s : State}

/-! ### The emergency save (R610, R622) -/

/-- The slot that the next save takes: the one other than the newest valid one. -/
def KeepStore.nextSlot (k : KeepStore) : Nat :=
  match k.newest with
  | some e => 1 - e.1
  | none => 0

theorem startSave_of_idle (hnone : s.ks.save = none) : s.startSave
    = State.setFld { s with ks := { s.ks with save := some (s.ks.nextSlot, s.captureSave), saves := Table.erase s.ks.saves s.ks.nextSlot } }
        F.ksStat_SAVE_BUSY 0 1 := by
  unfold State.startSave
  rw [hnone]
  rfl

theorem captureSave_header (s : State) : s.captureSave.slot = s.tick.slot ∧ s.captureSave.whorl = s.whorlNs
    ∧ ∀ e, s.ks.newest = some e → s.captureSave.seq = e.2.seq + 1 := by
  unfold State.captureSave
  exact ⟨rfl, rfl, fun e he => by simp only [he]⟩

/-- The state in which a sag has been recorded, before its save starts (R610). -/
def State.sagNoted (s : State) (src : Nat) : State :=
  (((s.raise F.pwrStat_SAG 0).setFld F.pwrStat_ON_HOLD 0 1).setReg .pwrSagInfo 0 (word src)).count .pwrSagCnt 0 1

theorem wf_count (h : RegsWf s) (r : Reg) (i n : Nat) : RegsWf (s.count r i n) := h

theorem sagNoted_wf (h : RegsWf s) (src : Nat) : RegsWf (s.sagNoted src) := by
  unfold State.sagNoted
  exact wf_count (wf_setReg (wf_setFld (wf_raise h _ _) _ _ _) _ _ _) _ _ _

theorem sagNoted_fields (h : RegsWf s) {src : Nat} (hsrc : src < 4) : (s.sagNoted src).flag F.pwrStat_SAG 0 = true
    ∧ (s.sagNoted src).flag F.pwrStat_ON_HOLD 0 = true ∧ (s.sagNoted src).fld F.pwrSagInfo_SOURCE 0 = src := by
  have hr := wf_raise h F.pwrStat_SAG 0
  have hm := wf_setFld hr F.pwrStat_ON_HOLD 0 1
  have hstat : (s.sagNoted src).reg .pwrStat 0 = ((s.raise F.pwrStat_SAG 0).setFld F.pwrStat_ON_HOLD 0 1).reg .pwrStat 0 := by
    unfold State.sagNoted
    rw [reg_of_regs (count_regs _ _ _ _)]
    exact reg_setReg_ne hm _ (by simp)
  refine ⟨?_, ?_, ?_⟩
  · rw [flag_of_reg (f := F.pwrStat_SAG) hstat, flag_setFld_apart hr (by decide)]
    exact flag_raise_self h (by decide) 0
  · rw [flag_of_reg (f := F.pwrStat_ON_HOLD) hstat]
    exact flag_setFld_one hr (by decide) 0
  · unfold State.sagNoted
    rw [fld_of_regs (count_regs _ _ _ _)]
    exact fld_of_word rfl (by decide) (show src < 2 ^ 2 from hsrc) (reg_setReg_self hm _ _ _)

theorem sagNoted_frame (s : State) (src : Nat) : (s.sagNoted src).ks = s.ks ∧ (s.sagNoted src).tick = s.tick ∧ (s.sagNoted src).time = s.time
    ∧ (s.sagNoted src).cnt = (s.count .pwrSagCnt 0 1).cnt := by
  unfold State.sagNoted
  refine ⟨by rw [count_ks, setReg_ks, setFld_ks, raise_ks], by rw [count_tick, setReg_tick, setFld_tick, raise_tick],
    by rw [count_time, setReg_time, setFld_time, raise_time], count_cnt_congr ?_ _ _ _⟩
  rw [setReg_cnt, setFld_cnt, raise_cnt]

theorem exec_sagBegin (hsrc : src % 4 ≠ 0) (hch : s.power.charged = true) (hoff : s.flag F.pwrStat_ON_HOLD 0 = false) :
    exec (.sagBegin src) s = .next (s.sagNoted (src % 4)).startSave := by
  change execSagBegin src s = _
  unfold execSagBegin State.sagNoted
  simp only [hsrc, hch, hoff, Bool.not_true, Bool.false_eq_true, if_false]

theorem sagBegin_result (h : RegsWf s) {src : Nat} (hsrc : src % 4 ≠ 0) (hch : s.power.charged = true)
    (hoff : s.flag F.pwrStat_ON_HOLD 0 = false) (hnone : s.ks.save = none) : ∃ t slot img, exec (.sagBegin src) s = .next t
      ∧ t.flag F.pwrStat_SAG 0 = true ∧ t.flag F.pwrStat_ON_HOLD 0 = true ∧ t.fld F.pwrSagInfo_SOURCE 0 = src % 4
      ∧ t.cnt = (s.count .pwrSagCnt 0 1).cnt ∧ t.ks.save = some (slot, img) ∧ img.slot = s.tick.slot ∧ img.whorl = s.whorlNs
      ∧ (∀ e, s.ks.newest = some e → slot = 1 - e.1 ∧ img.seq = e.2.seq + 1) ∧ t.flag F.ksStat_SAVE_BUSY 0 = true := by
  have hm := sagNoted_wf h (src % 4)
  obtain ⟨hsag, hhold, hsource⟩ := sagNoted_fields h (Nat.mod_lt src (by decide : 0 < 4))
  obtain ⟨hks, htick, htime, hcnt⟩ := sagNoted_frame s (src % 4)
  have hrun := exec_sagBegin hsrc hch hoff
  generalize s.sagNoted (src % 4) = m at hm hsag hhold hsource hks htick htime hcnt hrun
  obtain ⟨hslot, hwhorl, hseq⟩ := captureSave_header m
  have hwhorlNs : m.whorlNs = s.whorlNs := by rw [State.whorlNs, htime, State.whorlNs]
  rw [startSave_of_idle (hks ▸ hnone)] at hrun
  have hwf : ∀ k : KeepStore, RegsWf { m with ks := k } := fun _ => hm
  refine ⟨_, m.ks.nextSlot, m.captureSave, hrun, ?_, ?_, ?_, ?_, ?_, hslot.trans (by rw [htick]), hwhorl.trans hwhorlNs, ?_,
    flag_setFld_one (hwf _) (by decide) 0⟩
  · rw [flag_setFld_apart (hwf _) (by decide), flag_mk, hsag]
  · rw [flag_setFld_apart (hwf _) (by decide), flag_mk, hhold]
  · rw [fld_setFld_apart (hwf _) (by decide), fld_mk, hsource]
  · rw [setFld_cnt]
    exact hcnt
  · rw [setFld_ks]
  · intro e he
    rw [← hks] at he
    refine ⟨?_, hseq e he⟩
    unfold KeepStore.nextSlot
    rw [he]

/-- The state in which the save has ended, with the saves that are then valid (R622). -/
def State.saveEnded (s : State) (saves : OTable SaveImage) : State :=
  { s with ks := { s.ks with save := none, saves := saves } }

theorem saveEnded_wf (h : RegsWf s) (saves : OTable SaveImage) : RegsWf (s.saveEnded saves) := h

theorem saveEnded_flag (s : State) (saves : OTable SaveImage) (f : Fld) : (s.saveEnded saves).flag f 0 = s.flag f 0 := rfl

theorem saveEnded_ks (s : State) (saves : OTable SaveImage) : (s.saveEnded saves).ks.save = none ∧ (s.saveEnded saves).ks.saves = saves := ⟨rfl, rfl⟩

theorem exec_saveComplete {slot : Nat} {img : SaveImage} (hsave : s.ks.save = some (slot, img)) (hses : s.ks.sessions = []) {m : State}
    (hm : m = s.setFld F.ksStat_SAVE_BUSY 0 0) :
    exec (.saveComplete true) s = .next ((((m.saveEnded (Table.insert m.ks.saves slot img)).setReg .ksSaveSeq 0 (word img.seq)).setReg .ksSaveLen 0
      (word (slot * 2 ^ 31 + img.len % 2 ^ 20))).raise F.ksStat_SAVE_DONE 0)
    ∧ exec (.saveComplete false) s = .next ((m.saveEnded m.ks.saves).raise F.ksStat_SAVE_FAIL 0) := by
  have hexec : ∀ ok, exec (.saveComplete ok) s = execSaveComplete ok s := fun _ => rfl
  rw [hexec, hexec]
  unfold execSaveComplete State.saveEnded
  rw [hsave, hses, ← hm]
  exact ⟨rfl, rfl⟩

theorem saveComplete_well (h : RegsWf s) {slot : Nat} {img : SaveImage} (hsave : s.ks.save = some (slot, img)) (hses : s.ks.sessions = []) :
    ∃ t, exec (.saveComplete true) s = .next t ∧ t.ks.save = none ∧ OTable.get? t.ks.saves slot = some img
      ∧ t.reg .ksSaveSeq 0 = word img.seq ∧ t.flag F.ksStat_SAVE_BUSY 0 = false ∧ t.flag F.ksStat_SAVE_DONE 0 = true := by
  have hmwf := wf_setFld h F.ksStat_SAVE_BUSY 0 0
  have hbusy := flag_setFld_zero h (f := F.ksStat_SAVE_BUSY) (by decide) 0
  have hrun := (exec_saveComplete hsave hses rfl).1
  generalize s.setFld F.ksStat_SAVE_BUSY 0 0 = m at hmwf hbusy hrun
  have huwf := saveEnded_wf hmwf (Table.insert m.ks.saves slot img)
  have hubusy := (saveEnded_flag m (Table.insert m.ks.saves slot img) F.ksStat_SAVE_BUSY).trans hbusy
  obtain ⟨husave, husaves⟩ := saveEnded_ks m (Table.insert m.ks.saves slot img)
  generalize m.saveEnded (Table.insert m.ks.saves slot img) = u at huwf hubusy husave husaves hrun
  have hseq : RegsWf (u.setReg .ksSaveSeq 0 (word img.seq)) := wf_setReg huwf _ _ _
  generalize word (slot * 2 ^ 31 + img.len % 2 ^ 20) = len at hrun
  have hlen := wf_setReg hseq .ksSaveLen 0 len
  refine ⟨_, hrun, ?_, ?_, ?_, ?_, flag_raise_self hlen (by decide) 0⟩
  · rw [raise_ks, setReg_ks, setReg_ks, husave]
  · rw [raise_ks, setReg_ks, setReg_ks, husaves]
    exact OTable.get?_insert_self _ _ _
  · rw [reg_raise_ne hlen (by simp [F.ksStat_SAVE_DONE]), reg_setReg_ne hseq _ (by simp), reg_setReg_self huwf]
  · rw [flag_raise_apart hlen (by decide), flag_of_reg (reg_setReg_ne hseq _ (by simp [F.ksStat_SAVE_BUSY])),
      flag_of_reg (reg_setReg_ne huwf _ (by simp [F.ksStat_SAVE_BUSY])), hubusy]

theorem saveComplete_failed (h : RegsWf s) {slot : Nat} {img : SaveImage} (hsave : s.ks.save = some (slot, img)) (hses : s.ks.sessions = []) :
    ∃ t, exec (.saveComplete false) s = .next t ∧ t.ks.save = none ∧ t.ks.saves = s.ks.saves
      ∧ t.flag F.ksStat_SAVE_BUSY 0 = false ∧ t.flag F.ksStat_SAVE_FAIL 0 = true := by
  have hmwf := wf_setFld h F.ksStat_SAVE_BUSY 0 0
  have hbusy := flag_setFld_zero h (f := F.ksStat_SAVE_BUSY) (by decide) 0
  have hrun := (exec_saveComplete hsave hses rfl).2
  have hks := setFld_ks s F.ksStat_SAVE_BUSY 0 0
  generalize s.setFld F.ksStat_SAVE_BUSY 0 0 = m at hmwf hbusy hrun hks
  have huwf := saveEnded_wf hmwf m.ks.saves
  refine ⟨_, hrun, ?_, ?_, ?_, flag_raise_self huwf (by decide) 0⟩
  · rw [raise_ks, (saveEnded_ks _ _).1]
  · rw [raise_ks, (saveEnded_ks _ _).2, hks]
  · rw [flag_raise_apart huwf (by decide), saveEnded_flag, hbusy]

/-! ### The end of a sag, and the supplies (R609, R612, R613) -/

theorem sagEnd_result (h : RegsWf s) (hhold : s.flag F.pwrStat_ON_HOLD 0 = true) : ∃ t, exec .sagEnd s = .next t
    ∧ t.flag F.pwrStat_ON_HOLD 0 = false ∧ t.flag F.pwrStat_SAG_END 0 = true := by
  have hz : RegsWf (s.setFld F.pwrStat_ON_HOLD 0 0) := wf_setFld h _ _ _
  have hoff : ((s.setFld F.pwrStat_ON_HOLD 0 0).raise F.pwrStat_SAG_END 0).flag F.pwrStat_ON_HOLD 0 = false := by
    rw [flag_raise_apart hz (by decide)]
    exact flag_setFld_zero h (by decide) 0
  have hend : ((s.setFld F.pwrStat_ON_HOLD 0 0).raise F.pwrStat_SAG_END 0).flag F.pwrStat_SAG_END 0 = true := flag_raise_self hz (by decide) 0
  change ∃ t, execSagEnd s = .next t ∧ _
  unfold execSagEnd
  rw [hhold]
  simp only [Bool.not_true, Bool.false_eq_true, if_false]
  generalize (s.setFld F.pwrStat_ON_HOLD 0 0).raise F.pwrStat_SAG_END 0 = m at hoff hend
  split
  · exact ⟨m, rfl, hoff, hend⟩
  · refine ⟨_, rfl, ?_, ?_⟩
    · rw [flag_of_regs (logEvent_regs _ _ _), hoff]
    · rw [flag_of_regs (logEvent_regs _ _ _), hend]

/-- The state in which the core reset of a lost core supply starts (R612). -/
def State.coreLossNoted (s : State) (rails : Nat) : State :=
  (s.raise F.pwrStat_CORE_LOSS 0).setReg .pwrRail 0 (word (s.fld F.pwrRail_GOOD 0 &&& (31 ^^^ (rails % 8))))

theorem coreLossNoted_frame (s : State) (rails : Nat) : (s.coreLossNoted rails).tick = s.tick ∧ (s.coreLossNoted rails).time = s.time
    ∧ (s.coreLossNoted rails).ks = s.ks := by
  unfold State.coreLossNoted
  exact ⟨by rw [setReg_tick, raise_tick], by rw [setReg_time, raise_time], by rw [setReg_ks, raise_ks]⟩

theorem coreLossNoted_inv (h : Inv s) (rails : Nat) : Inv (s.coreLossNoted rails) :=
  ⟨wf_setReg (wf_raise h.regs _ _) _ _ _, by rw [(coreLossNoted_frame s rails).1]; exact h.slot,
    by rw [(coreLossNoted_frame s rails).2.1]; exact h.whorl⟩

theorem coreLossNoted_flag (h : Inv s) (rails : Nat) : (s.coreLossNoted rails).flag F.pwrStat_CORE_LOSS 0 = true := by
  have hr := wf_raise h.regs F.pwrStat_CORE_LOSS 0
  unfold State.coreLossNoted
  rw [flag_of_reg (f := F.pwrStat_CORE_LOSS) (reg_setReg_ne hr _ (by simp [F.pwrStat_CORE_LOSS]))]
  exact flag_raise_self h.regs (by decide) 0

theorem clearQuads_ks (h : Inv s) (quads : Nat) (core : Bool) : (s.clearQuads quads core).ks = s.ks :=
  (keeps_clearQuads (M := ⟨[.cnt, .samp, .tab, .path, .lanes, .shadow], [], true⟩) (keeps_self h) (by decide +kernel)).within.ks rfl

theorem ccReset_saves (s : State) (cause : Nat) (handover : Bool) : (s.ccReset cause handover).ks.saves = s.ks.saves := by
  unfold State.ccReset
  dsimp only
  rw [setFld_ks, setFld_ks, setFld_ks]

/-- A core reset keeps the saves and the slot count. -/
theorem coreReset_keeps (h : Inv s) : s.coreReset.ks.saves = s.ks.saves ∧ s.coreReset.tick = s.tick := by
  unfold State.coreReset
  dsimp only
  exact ⟨by rw [ccReset_saves, clearQuads_ks h], by rw [ccReset_tick, clearQuads_tick h]⟩

/-- The core supply is lost, and with it the endpoint's set-up (R612). -/
def State.coreLost (s : State) : State :=
  { s with power := { s.power with coreLost := true }
           host := { s.host with bme := false, msixOn := false, fnMask := false, vecMask := 2 ^ 64 - 1, vecPend := 0 } }

theorem coreLost_frame (s : State) : s.coreLost.regs = s.regs ∧ s.coreLost.tick = s.tick ∧ s.coreLost.time = s.time
    ∧ s.coreLost.boot = s.boot ∧ s.coreLost.ks = s.ks ∧ s.coreLost.power.coreLost = true := ⟨rfl, rfl, rfl, rfl, rfl, rfl⟩

theorem exec_coreSupplyLoss_held (rails : Nat) (hgood : s.power.coreLost = false) (hhold : s.flag F.pwrStat_ON_HOLD 0 = true) :
    exec (.coreSupplyLoss rails) s = .next (s.coreLossNoted rails).coreReset.coreLost := by
  change execCoreSupplyLoss rails s = _
  unfold execCoreSupplyLoss State.coreLossNoted State.coreLost
  simp only [hgood, hhold, Bool.not_true, Bool.false_eq_true, if_false]

theorem coreSupplyLoss_held (h : Inv s) (rails : Nat) (hgood : s.power.coreLost = false) (hhold : s.flag F.pwrStat_ON_HOLD 0 = true) :
    ∃ t k, exec (.coreSupplyLoss rails) s = .next t ∧ t.power.coreLost = true ∧ t.boot.reset = some k ∧ k.core = true
      ∧ t.flag F.pwrStat_CORE_LOSS 0 = true ∧ t.tick = s.tick ∧ t.time = s.time ∧ t.ks.saves = s.ks.saves := by
  have hinv := coreLossNoted_inv h rails
  have hflag := coreLossNoted_flag h rails
  obtain ⟨htick, htime, hks⟩ := coreLossNoted_frame s rails
  have hnext := exec_coreSupplyLoss_held rails hgood hhold
  generalize s.coreLossNoted rails = m at hinv hflag htick htime hks hnext
  obtain ⟨hsaves, hctick⟩ := coreReset_keeps hinv
  have hreset := coreReset_reset hinv
  have hctime := coreReset_time m
  have hcflag : m.coreReset.flag F.pwrStat_CORE_LOSS 0 = true :=
    (flag_of_reg (f := F.pwrStat_CORE_LOSS) (coreReset_reg hinv (by decide) (by decide))).trans hflag
  generalize m.coreReset = u at hsaves hctick hreset hctime hcflag hnext
  obtain ⟨hlregs, hltick, hltime, hlboot, hlks, hlost⟩ := coreLost_frame u
  refine ⟨_, _, hnext, hlost, by rw [hlboot, hreset], rfl, (flag_of_regs hlregs _ _).trans hcflag, hltick.trans (hctick.trans htick),
    hltime.trans (hctime.trans htime), ?_⟩
  rw [hlks, hsaves, hks]

theorem coreSupplyRestored_result (hlost : s.power.coreLost = true) : ∃ t k, exec .coreSupplyRestored s = .next t ∧ t.power.coreLost = false
    ∧ t.boot.reset = some k ∧ k.core = true ∧ k.start = s.tick.slot := by
  change ∃ t k, execCoreSupplyRestored s = .next t ∧ _
  unfold execCoreSupplyRestored
  rw [hlost]
  exact ⟨_, _, rfl, rfl, rfl, rfl, rfl⟩

end

/-- Settles O13: each event writes the flags of its supply, and the save takes the slot that the newest one leaves. -/
theorem sagsAndSupplies : Obligations.SagsAndSupplies := by
  unfold Obligations.SagsAndSupplies
  refine ⟨fun src s h hsrc hch => ⟨fun hhold => ?_, sagBegin_result h.regs hsrc hch⟩,
    fun s slot img h hsave hses => ⟨saveComplete_well h.regs hsave hses, saveComplete_failed h.regs hsave hses⟩,
    fun s h hhold => sagEnd_result h.regs hhold, fun rails s h hgood => ⟨coreSupplyLoss_held h rails hgood, fun hoff => ?_⟩,
    fun s hlost => coreSupplyRestored_result hlost, fun s hhold => ⟨_, if_pos hhold, rfl, rfl, rfl, rfl, rfl⟩,
    fun s h => ⟨_, rfl, flag_raise_self h.regs (by decide) 0⟩, fun s => ⟨_, rfl, rfl, rfl⟩⟩
  · change execSagBegin src s = _
    unfold execSagBegin
    simp only [hsrc, hch, hhold, Bool.not_true, Bool.false_eq_true, if_false, if_true]
  · change execCoreSupplyLoss rails s = _
    unfold execCoreSupplyLoss
    rw [hgood, hoff]
    rfl

end Sys2Proof.Machine

/-! The protection, the watchdog and the change of firmware (O12): what the lock, a kick and a revocation write, and what a reset of the control complex
leaves when the watchdog or a switch starts it. -/

namespace Sys2Proof.Machine
open Sys2Proof

section
variable {s : State}

/-! ### The lock and the DMA windows (R594, R595) -/

theorem lockWrite_flag (h : RegsWf s) (v : Nat) : (s.lockWrite v).flag F.protCtl_LOCK 0 = (s.flag F.protCtl_LOCK 0 || v.testBit 31) := by
  unfold State.lockWrite
  cases v.testBit 31
  · exact (Bool.or_false _).symm
  · rw [if_pos rfl, Bool.or_true]
    exact flag_setFld_one h (by decide) 0

/-- Clearing VALID of the windows of a list clears it of those windows only. -/
theorem foldl_clearValid (h : RegsWf s) (l : List Nat) (k : Nat) :
    (l.foldl (fun s j => s.setFld F.protDmaCfg_VALID j 0) s).flag F.protDmaCfg_VALID k = (s.flag F.protDmaCfg_VALID k && !l.contains k) := by
  induction l generalizing s with
  | nil => exact (Bool.and_true _).symm
  | cons j l ih =>
    rw [List.foldl_cons, ih (wf_setFld h _ _ _), List.contains_cons]
    by_cases hj : k = j
    · subst hj
      rw [flag_setFld_zero h (by decide), beq_self_eq_true, Bool.true_or, Bool.not_true, Bool.false_and, Bool.and_false]
    · have hne : (s.setFld F.protDmaCfg_VALID j 0).flag F.protDmaCfg_VALID k = s.flag F.protDmaCfg_VALID k :=
        flag_of_reg (f := F.protDmaCfg_VALID) (reg_setFld_ne h _ fun hk => hj hk.2)
      rw [hne, beq_false_of_ne hj, Bool.false_or]

theorem revoke_flag (h : RegsWf s) (mask : Nat) {k : Nat} (hk : k < 16) :
    (s.revoke mask).flag F.protDmaCfg_VALID k = (s.flag F.protDmaCfg_VALID k && !mask.testBit k) := by
  unfold State.revoke
  rw [foldl_clearValid h]
  congr 2
  rw [Bool.eq_iff_iff, List.contains_iff_mem, mem_onesOf]
  exact and_iff_right hk

/-! ### What a reset of the control complex leaves (R581, R596, R598) -/

theorem ccReset_boot (s : State) (cause : Nat) (handover : Bool) : (s.ccReset cause handover).boot
    = { s.boot with nextCause := cause, handover := handover, switchTo := none, switchAt := none } := by
  unfold State.ccReset
  dsimp only
  rw [setFld_boot, setFld_boot, setFld_boot]

/-- A handover keeps the counters' totals and the lanes' working records (R598). -/
theorem ccReset_handover (s : State) (cause : Nat) : (s.ccReset cause true).cnt = s.cnt ∧ (s.ccReset cause true).lanes = s.lanes := by
  unfold State.ccReset
  dsimp only
  rw [if_pos rfl, if_pos rfl, setFld_cnt, setFld_cnt, setFld_cnt, setFld_lanes, setFld_lanes, setFld_lanes]
  exact ⟨rfl, rfl⟩

theorem ccReset_regs (s : State) (cause : Nat) (handover : Bool) : (s.ccReset cause handover).regs
    = (((s.setFld F.protBoot_RUNNING 0 0).setFld F.protBoot_RECOVERY 0 0).setFld F.protBoot_STAGE 0 0).regs := by
  unfold State.ccReset
  dsimp only

/-- After the reset no firmware runs and the next start is at stage 0. -/
theorem ccReset_stopped (h : RegsWf s) (cause : Nat) (handover : Bool) :
    (s.ccReset cause handover).fwRunning = false ∧ (s.ccReset cause handover).stage = 0 := by
  have hregs := ccReset_regs s cause handover
  have hrun : RegsWf (s.setFld F.protBoot_RUNNING 0 0) := wf_setFld h _ _ _
  have hrec : RegsWf ((s.setFld F.protBoot_RUNNING 0 0).setFld F.protBoot_RECOVERY 0 0) := wf_setFld hrun _ _ _
  constructor
  · unfold State.fwRunning
    rw [flag_of_regs hregs, flag_of_regs hregs, flag_setFld_apart hrec (by decide), flag_setFld_apart hrun (by decide),
      flag_setFld_zero h (by decide), flag_setFld_apart hrec (by decide), flag_setFld_zero hrun (by decide), Bool.or_self]
  · unfold State.stage
    rw [fld_of_regs hregs, fld_setFld_self hrec (by decide)]
    rfl

theorem watchdogExpire_result (h : RegsWf s) (hen : s.flag F.protWdt_EN 0 = true) (hfw : s.fwRunning = true) (hcore : s.inCore = false)
    (hlate : s.boot.kickEpoch + 1024 ≤ s.epoch) : ∃ t, exec .watchdogExpire s = .next t ∧ t.flag F.protStat_WDT 0 = true
      ∧ t.boot.nextCause = 3 ∧ t.fwRunning = false ∧ t.boot.handover = false ∧ t.stage = 0 ∧ t.path = s.path := by
  have hexec : exec .watchdogExpire s = .next ((s.raise F.protStat_WDT 0).ccReset 3 false) := by
    change execWatchdogExpire s = _
    unfold execWatchdogExpire
    rw [hen, hfw, hcore, decide_eq_false (Nat.not_lt.2 hlate)]
    rfl
  have hm : RegsWf (s.raise F.protStat_WDT 0) := wf_raise h _ _
  have hflag : (s.raise F.protStat_WDT 0).flag F.protStat_WDT 0 = true := flag_raise_self h (by decide) 0
  have hpath := raise_path s F.protStat_WDT 0
  generalize s.raise F.protStat_WDT 0 = m at hexec hm hflag hpath
  obtain ⟨hstop, hstage⟩ := ccReset_stopped hm 3 false
  have hboot := ccReset_boot m 3 false
  refine ⟨_, hexec, ?_, ?_, hstop, ?_, hstage, (ccReset_path m 3 false).trans hpath⟩
  · exact (flag_of_reg (f := F.protStat_WDT) (ccReset_reg hm 3 false (by decide) 0)).trans hflag
  · rw [hboot]
  · rw [hboot]

/-! ### The switch of firmware (R597, R598) -/

theorem exec_fwSwitch_due {k cause : Nat} (hto : s.boot.switchTo = some (k, cause)) (hfw : s.fwRunning = true) (hat : s.boot.switchAt = none)
    (hmay : s.mayStartSwitch = true) :
    exec .fwSwitch s = .next (if s.tab.jobs.isEmpty then s.ccReset cause true else { s with boot := { s.boot with switchAt := some s.tick.slot } }) := by
  change execFwSwitch s = _
  unfold execFwSwitch
  simp only [hto, hfw, hat, hmay, Bool.not_true, Bool.false_eq_true, if_false]
  split <;> rfl

theorem exec_fwSwitch_late {k cause : Nat} (hto : s.boot.switchTo = some (k, cause)) (hfw : s.fwRunning = true) {at0 : Nat}
    (hat : s.boot.switchAt = some at0) (hlate : at0 + 15625000 ≤ s.tick.slot) : exec .fwSwitch s = .next (s.ccReset cause true) := by
  change execFwSwitch s = _
  unfold execFwSwitch
  simp only [hto, hfw, hat, hlate, decide_true, Bool.or_true, Bool.not_true, Bool.false_eq_true, if_false, if_true]

/-! ### The deadline of a trial (R600) -/

theorem ownSession_opens (hok : s.ksFaulted = false) {bytes : Nat} (henergy : s.energyFor bytes = true) (d : SessionData) :
    s.ownSession bytes d = s.openSession { data := d } := by
  unfold State.ownSession
  rw [hok, henergy]
  rfl

theorem openSession_result (h : RegsWf s) (x : Session) : (s.openSession x).ks.sessions = s.ks.sessions ++ [x]
    ∧ (s.openSession x).flag F.ksStat_SESSION 0 = true ∧ (s.openSession x).log = s.log := by
  have hwf : RegsWf { s with ks := { s.ks with sessions := s.ks.sessions ++ [x] } } := h
  unfold State.openSession
  exact ⟨by rw [setFld_ks], flag_setFld_one hwf (by decide) 0, by rw [setFld_log]⟩

theorem logEvent_nextSeq (s : State) (k : Nat) (d : List Byte) : (s.logEvent k d).log.nextSeq = s.log.nextSeq + 1 := rfl

theorem trialDeadline_result (h : RegsWf s) (hrun : s.flag F.protBoot_RUNNING 0 = true) (htrial : s.nextRecord.trial = true)
    (hlate : s.nextRecord.deadline ≤ s.tick.slot) (hto : s.boot.switchTo = none) (hok : s.ksFaulted = false) (henergy : s.energyFor 64 = true) :
    ∃ t, exec .trialDeadline s = .next t ∧ t.ks.sessions = s.ks.sessions ++ [{ data := s.nextRecord.revert }]
      ∧ t.flag F.ksStat_SESSION 0 = true ∧ t.log.nextSeq = s.log.nextSeq + 1 := by
  obtain ⟨hsessions, hflag, hlog⟩ := openSession_result h { data := s.nextRecord.revert }
  have hopen := ownSession_opens hok henergy s.nextRecord.revert
  refine ⟨((s.ownSession 64 s.nextRecord.revert).logEvent 0x4000 ([5, 2, byte s.nextRecord.prev, 0] ++ leBytes 4 s.boot.build)), ?_, ?_⟩
  · change execTrialDeadline s = _
    unfold execTrialDeadline
    simp only [hrun, htrial, hto, decide_eq_false (Nat.not_lt.2 hlate), Bool.not_true, Bool.or_self, Option.isSome_none, Bool.false_eq_true,
      if_false]
  · rw [hopen, logEvent_ks, flag_of_regs (logEvent_regs _ _ _), logEvent_nextSeq, hsessions, hflag, hlog]
    exact ⟨rfl, rfl, rfl⟩

end

/-- Settles O12: each write and each expiry has its one outcome, read off the reset of the control complex where it starts one. -/
theorem protectionWatchdogAndSwitch : Obligations.ProtectionWatchdogAndSwitch := by
  unfold Obligations.ProtectionWatchdogAndSwitch
  refine ⟨fun v s h => ⟨_, rfl, lockWrite_flag h.regs _⟩, ?_, fun s h hen hfw hcore hlate => watchdogExpire_result h.regs hen hfw hcore hlate, ?_, ?_, ?_⟩
  · intro v s hbit
    refine ⟨s.kick, ?_, rfl⟩
    change Host.Outcome.next (if v.toNat.testBit 0 then s.kick else s) = _
    rw [hbit]
    rfl
  · intro who v s k h hwho hk
    refine ⟨s.revoke v.toNat, ?_, revoke_flag h.regs _ hk⟩
    exact congrArg Host.Outcome.next (secureWrite_of_secureWriter hwho _)
  · intro s k cause h hto hfw
    obtain ⟨hstop, _⟩ := ccReset_stopped h.regs cause true
    have hboot := ccReset_boot s cause true
    obtain ⟨hcnt, hlanes⟩ := ccReset_handover s cause
    have hpath := ccReset_path s cause true
    obtain ⟨_, hjobs, _⟩ := ccReset_lost s cause true
    refine ⟨fun hat hmay hempty => ?_, fun hat hmay hbusy => ?_, fun at0 hat hlate => ?_⟩
    · refine ⟨s.ccReset cause true, ?_, ?_, ?_, hstop, hcnt, hlanes, hpath⟩
      · rw [exec_fwSwitch_due hto hfw hat hmay, hempty]
        rfl
      · rw [hboot]
      · rw [hboot]
    · refine ⟨{ s with boot := { s.boot with switchAt := some s.tick.slot } }, ?_, rfl, rfl⟩
      rw [exec_fwSwitch_due hto hfw hat hmay, if_neg fun he => hbusy (List.isEmpty_iff.1 he)]
    · refine ⟨_, exec_fwSwitch_late hto hfw hat hlate, ?_, ?_, hjobs, hstop⟩
      · rw [hboot]
      · rw [hboot]
  · intro s h hrun htrial hlate hto hok henergy
    exact trialDeadline_result h.regs hrun htrial hlate hto hok henergy

end Sys2Proof.Machine

/-! Release and initialisation (O11): the end of a reset, the initialisation of pools and stacks, and firmware's restoration, whose log records are counted
in any state. -/

namespace Sys2Proof.Machine
open Sys2Proof

/-! ### Work that leaves the fuses and the event log aside -/

/-- The fuses and the event log are the same. -/
structure Aside (s t : State) : Prop where
  fuses : t.fuses = s.fuses
  log : t.log = s.log

theorem Aside.refl (s : State) : Aside s s := ⟨rfl, rfl⟩

theorem Aside.trans {s t u : State} (h : Aside s t) (k : Aside t u) : Aside s u := ⟨k.fuses.trans h.fuses, k.log.trans h.log⟩

theorem aside_ite {c : Prop} [Decidable c] {s a b : State} (ha : Aside s a) (hb : Aside s b) : Aside s (if c then a else b) := by
  split
  · exact ha
  · exact hb

theorem aside_foldl {α : Type} {f : State → α → State} (hf : ∀ u a, Aside u (f u a)) (l : List α) (s : State) : Aside s (l.foldl f s) := by
  induction l generalizing s with
  | nil => exact .refl s
  | cons a l ih => exact (hf s a).trans (ih _)

section
variable (s : State)

theorem aside_inPath (f : Path → Path) : Aside s (s.inPath f) := ⟨rfl, rfl⟩

theorem aside_setReg (r : Reg) (i : Nat) (v : Word) : Aside s (s.setReg r i v) := ⟨rfl, rfl⟩

theorem aside_setFld (f : Fld) (i v : Nat) : Aside s (s.setFld f i v) := ⟨rfl, rfl⟩

theorem aside_raise (f : Fld) (i : Nat) : Aside s (s.raise f i) := ⟨rfl, rfl⟩

theorem aside_count (r : Reg) (i n : Nat) : Aside s (s.count r i n) := ⟨rfl, rfl⟩

theorem aside_drop (p code : Nat) : Aside s (s.drop p code) := by
  unfold State.drop
  exact aside_ite (.refl s) ⟨rfl, rfl⟩

/-! ### Cells, hanks and copies -/

theorem aside_onPool (sl : Nat) (f : Pool → Pool) : Aside s (s.onPool sl f) := aside_inPath s _

theorem aside_unreserve (sl i n : Nat) : Aside s (s.unreserve sl i n) := aside_onPool s sl _

theorem aside_subCq (qu n : Nat) : Aside s (s.subCq qu n) := aside_inPath s _

theorem aside_setWbuf (q n : Nat) : Aside s (s.setWbuf q n) := aside_inPath s _

theorem aside_setHank (qu : Nat) (h : Hank) : Aside s (s.setHank qu h) := aside_inPath s _

theorem aside_onStack (h : Nat) (f : Stack → Stack) : Aside s (s.onStack h f) := aside_inPath s _

theorem aside_freePage (page : Nat) : Aside s (s.freePage page) := by
  unfold State.freePage
  exact aside_onStack s _ _

theorem aside_setFlow (p : Nat) (f : Flow) : Aside s (s.setFlow p f) := aside_inPath s _

theorem aside_setLine (p : Nat) (l : PortLine) : Aside s (s.setLine p l) := aside_inPath s _

theorem aside_settle : Aside s s.settle := aside_inPath s _

theorem aside_toWalker (sl : Nat) (cells : List Nat) (qu : Nat) : Aside s (s.toWalker sl cells qu) := by
  unfold State.toWalker
  refine aside_ite (.refl s) (((aside_foldl (fun u c => ?_) cells s).trans (aside_onPool _ _ _)).trans (aside_inPath _ _))
  exact aside_ite (.refl u) (aside_onPool _ _ _)

theorem aside_surplus (sl b vq : Nat) (cells : List Nat) : Aside s (s.surplus sl b vq cells) :=
  (aside_foldl (fun u _ => aside_onPool u _ _) cells s).trans (aside_toWalker _ _ _ _)

theorem aside_giveBack (c : Copy) : Aside s (s.giveBack c) :=
  (((aside_unreserve s _ _ _).trans (aside_subCq _ _ _)).trans (aside_toWalker _ _ _ _)).trans (aside_surplus _ _ _ _ _)

theorem aside_dropCopy (c : Copy) (code : Nat) : Aside s (s.dropCopy c code) :=
  ((aside_inPath s _).trans (aside_giveBack _ c)).trans (aside_drop _ _ _)

theorem aside_rbDrop (sl qu pool : Nat) (r : HankRec) (code : Nat) : Aside s (s.rbDrop sl qu pool r code) :=
  (((aside_unreserve s _ _ _).trans (aside_subCq _ _ _)).trans (aside_toWalker _ _ _ _)).trans (aside_drop _ _ _)

theorem aside_openPages (q fuel : Nat) (h : Hank) : Aside s (State.openPages q fuel h s).2 := by
  induction fuel generalizing h s with
  | zero => exact .refl s
  | succ fuel ih =>
    simp only [State.openPages]
    split
    · split
      · exact ih s _
      · exact .refl s
    · split
      · exact .refl s
      · split
        · exact .refl s
        · split
          · exact .refl s
          · exact (aside_onStack s _ _).trans (ih _ _)

theorem aside_putHank (q qu : Nat) (h : Hank) : Aside s (s.putHank q qu h) := (aside_openPages s q 40 h).trans (aside_setHank _ qu _)

theorem aside_hankLose (qu fid code : Nat) : Aside s (s.hankLose qu fid code) := by
  unfold State.hankLose
  split
  · exact .refl s
  · split
    · exact .refl s
    · exact ((aside_rbDrop s _ _ _ _ _).trans (aside_setWbuf _ _ _)).trans (aside_putHank _ _ _ _)

theorem aside_dropHank (qu code : Nat) : Aside s (s.dropHank qu code) := by
  unfold State.dropHank
  split
  · exact .refl s
  · exact (((aside_foldl (fun u _ => aside_rbDrop u _ _ _ _ _) _ s).trans (aside_foldl (fun u _ => aside_freePage u _) _ _)).trans
      (aside_setWbuf _ _ _)).trans (aside_inPath _ _)

theorem aside_undoCommit (c : Commit) : Aside s (s.undoCommit c) := by
  unfold State.undoCommit
  split
  · exact .refl s
  · dsimp only
    split
    · exact aside_subCq _ _ _
    · exact aside_hankLose _ _ _ _
    · exact ((aside_unreserve s _ _ _).trans (aside_surplus _ _ _ _ _)).trans (aside_subCq _ _ _)
    · exact .refl s

theorem aside_purge (fid port : Nat) : Aside s (s.purge fid port) := by
  unfold State.purge
  exact (aside_foldl (fun u c => aside_undoCommit u c) _ s).trans (aside_inPath _ _)

theorem aside_loseCopy (fid port code : Nat) : Aside s (s.loseCopy fid port code) := by
  unfold State.loseCopy
  dsimp only
  refine (aside_purge s fid port).trans ?_
  split
  · exact aside_dropCopy _ _ _
  · split
    · exact aside_hankLose _ _ _ _
    · exact .refl _

/-! ### The loss of a port's link, and standby (R303, R359) -/

theorem aside_withdraw (p : Nat) : Aside s (s.withdraw p) := by
  obtain ⟨q, hq⟩ := pathOnly_withdraw s p
  rw [hq]
  exact ⟨rfl, rfl⟩

theorem aside_flush (p : Nat) : Aside s (s.flush p).1 := by
  unfold State.flush
  exact (((((aside_withdraw s p).trans (aside_foldl (fun u id => aside_loseCopy u id p 0x44) _ _)).trans
    (aside_foldl (fun u i => aside_dropHank u _ _) _ _)).trans (aside_count _ _ _ _)).trans (aside_raise _ _ _)).trans (aside_settle _)

theorem aside_setPortState (p st : Nat) : Aside s (s.setPortState p st) := (aside_setFld s _ _ _).trans (aside_setFld _ _ _ _)

theorem aside_freeze (p : Nat) : Aside s (s.freeze p) := by
  unfold State.freeze
  extract_lets s1 flow s2 s3 hold
  have h3 : Aside s s3 := (((aside_withdraw s p).trans (aside_setFlow _ _ _)).trans (aside_setFld _ _ _ _)).trans (aside_setFld _ _ _ _)
  clear_value s3
  exact aside_ite h3 (aside_ite ((h3.trans (aside_setPortState _ _ _)).trans (aside_flush _ _))
    ((h3.trans (aside_setPortState _ _ _)).trans (aside_inPath _ _)))

theorem aside_standbyCheck (p : Nat) : Aside s (s.standbyCheck p) := by
  unfold State.standbyCheck State.enterStandby
  refine aside_ite ?_ (.refl s)
  extract_lets up s1 s2 s3 line s4
  have h4 : Aside s s4 := ((((aside_setFld s _ _ _).trans (aside_inPath _ _)).trans (aside_setFld _ _ _ _)).trans (aside_setFld _ _ _ _)).trans
    (aside_setLine _ _ _)
  clear_value s4
  exact aside_ite ((((h4.trans (aside_setFld _ _ _ _)).trans (aside_raise _ _ _)).trans (aside_count _ _ _ _)).trans (aside_freeze _ _))
    (h4.trans (aside_freeze _ _))

theorem aside_setShadow (l : Nat) (ws : List Nat) : Aside s (s.setShadow l ws) :=
  (((((aside_setReg s _ _ _).trans (aside_setReg _ _ _ _)).trans (aside_setReg _ _ _ _)).trans (aside_setReg _ _ _ _)).trans
    (aside_setReg _ _ _ _)).trans (aside_setReg _ _ _ _)

theorem aside_setLane (l : Nat) (x : LaneSt) : Aside s (s.setLane l x) := ⟨rfl, rfl⟩

theorem aside_enableLanes (p : Nat) : Aside s (s.enableLanes p) := by
  unfold State.enableLanes
  refine ((aside_foldl (fun u l => ?_) _ s).trans (aside_setReg _ _ _ _)).trans (aside_setLine _ _ _)
  exact ((((((((aside_setShadow u l _).trans (aside_setReg _ _ _ _)).trans (aside_setFld _ _ _ _)).trans (aside_setReg _ _ _ _)).trans
    (aside_setReg _ _ _ _)).trans (aside_setFld _ _ _ _)).trans (aside_setFld _ _ _ _)).trans (aside_setFld _ _ _ _)).trans (aside_setLane _ _ _)

/-! ### What firmware restores (R583) -/

theorem aside_restoreRegs (sh : Shadow) : Aside s (s.restoreRegs sh) := by
  unfold State.restoreRegs
  refine aside_foldl (fun u e => ?_) _ s
  split
  · exact .refl u
  · exact aside_setReg _ _ _ _

theorem aside_restoreTables (sh : Shadow) : Aside s (s.restoreTables sh) := ⟨rfl, rfl⟩

theorem aside_restoreGates (sh : Shadow) : Aside s (s.restoreGates sh) := by
  unfold State.restoreGates
  refine aside_foldl (fun u e => ?_) _ s
  exact ⟨rfl, rfl⟩

end

section
variable {s : State}

theorem firmwareRestoration_result {sh : Shadow} (hsh : s.shadow = some sh) (hrun : s.flag F.protBoot_RUNNING 0 = true)
    (hnone : s.boot.reset = none) (hready : ∀ q, q < 4 → sh.quads.testBit q = true → s.hasQuad q = true → s.quadReady q = true) :
    ∃ t, exec .firmwareRestoration s = .next t ∧ t.shadow = none ∧ s.log.nextSeq + 2 ≤ t.log.nextSeq := by
  have hall : ((onesOf 4 sh.quads).filter s.hasQuad).all s.quadReady = true := by
    rw [List.all_eq_true]
    intro q hq
    obtain ⟨hones, hhas⟩ := List.mem_filter.1 hq
    obtain ⟨hq4, hbit⟩ := mem_onesOf.1 hones
    exact hready q hq4 hbit hhas
  change ∃ t, execFirmwareRestoration s = .next t ∧ _
  unfold execFirmwareRestoration
  simp only [hsh, hrun, hnone, hall, Bool.not_true, Option.isSome_none, Bool.or_self, Bool.false_eq_true, if_false]
  refine ⟨_, rfl, rfl, ?_⟩
  have hfirst := logEvent_nextSeq s 0x4004 [byte sh.quads, 0]
  generalize s.logEvent 0x4004 [byte sh.quads, 0] = m at hfirst
  have hset : Aside m (((m.restoreRegs sh).restoreTables sh).restoreGates sh) :=
    ((aside_restoreRegs m sh).trans (aside_restoreTables _ sh)).trans (aside_restoreGates _ sh)
  generalize ((m.restoreRegs sh).restoreTables sh).restoreGates sh = u at hset
  have hports := hset.trans (aside_foldl (f := fun s p => (s.enableLanes p).standbyCheck p)
    (fun v p => (aside_enableLanes v p).trans (aside_standbyCheck _ p))
    ((List.range 512).filter fun p => sh.quads.testBit (Config.quadOf p) && u.flag F.macPortCfg_EN p && u.configured p && !u.hidden p) u)
  rw [logEvent_nextSeq]
  dsimp only
  rw [hports.log, hfirst]

/-! ### The release of a reset (R581) -/

theorem resetRelease_result {k : RunningReset} (hk : s.boot.reset = some k) (hgood : s.power.coreLost = false) (hcool : s.power.trip = false) :
    (s.tick.slot < k.start + 1024 → exec .resetRelease s = .next s)
    ∧ (k.start + 1024 ≤ s.tick.slot → ∃ t, exec .resetRelease s = .next t ∧ t.boot.reset = none
      ∧ ∀ q, t.initialising q = (s.tick.locked && s.hasQuad q)) := by
  change (_ → execResetRelease s = _) ∧ (_ → ∃ t, execResetRelease s = _ ∧ _)
  unfold execResetRelease
  rw [hk]
  dsimp only
  rw [hgood, hcool, Bool.or_self, Bool.and_false, Bool.or_false]
  refine ⟨fun hearly => if_pos (decide_eq_true hearly), fun hlate => ⟨_, if_neg (by simpa using hlate), rfl, fun q => ?_⟩⟩
  unfold State.initialising
  exact Bool.and_true _

/-! ### The cell pools and the deep tier (R227, R259) -/

theorem pool_onPool_of_ne {sl : Nat} {f : Pool → Pool} (hf : f (s.pool sl) ≠ {}) : (s.onPool sl f).pool sl = f (s.pool sl) := by
  unfold State.pool State.onPool State.inPath at *
  dsimp only
  rw [Table.set, if_neg hf]
  exact Table.get_insert_self _ _ _

/-- The state in which a slice's free list is loaded, before the cells on record are retired again (R227). -/
def State.poolLoaded (s : State) (sl : Nat) : State :=
  (s.onPool sl fun p => { p with free := 65536, next := 0, back := [] }).setFld F.cbStat_INIT_DONE sl 1

theorem poolLoaded_inv (h : Inv s) (sl : Nat) : Inv (s.poolLoaded sl) := by
  have hm : Inv (s.onPool sl fun p => { p with free := 65536, next := 0, back := [] }) := ⟨h.regs, h.slot, h.whorl⟩
  unfold State.poolLoaded
  exact ⟨wf_setFld hm.regs _ _ _, hm.slot, hm.whorl⟩

theorem poolLoaded_done (h : Inv s) (sl : Nat) : (s.poolLoaded sl).flag F.cbStat_INIT_DONE sl = true := by
  have hm : RegsWf (s.onPool sl fun p => { p with free := 65536, next := 0, back := [] }) := h.regs
  unfold State.poolLoaded
  exact flag_setFld_one hm (by decide) sl

theorem pool_of_path {t : State} (h : t.path = s.path) (sl : Nat) : t.pool sl = s.pool sl := by
  unfold State.pool
  rw [h]

theorem poolLoaded_free (s : State) (sl : Nat) : ((s.poolLoaded sl).pool sl).free = 65536 := by
  unfold State.poolLoaded
  rw [pool_of_path (setFld_path _ _ _ _), pool_onPool_of_ne fun hd => absurd (congrArg Pool.free hd : 65536 = 0) (by decide)]

theorem cbInitDone_result (h : Inv s) {sl : Nat} (hhas : s.hasSlice sl = true) (hinit : s.initialising (Config.quadOfSlice sl) = true)
    (hnot : s.flag F.cbStat_INIT_DONE sl = false) (hlate : s.initFrom (Config.quadOfSlice sl) + 4096 ≤ s.tick.slot) :
    ∃ t, exec (.cbInitDone sl) s = .next t ∧ t.flag F.cbStat_INIT_DONE sl = true
      ∧ (s.ks.retiredCells.filter (fun k => k / 65536 = sl) = [] → (t.pool sl).free = 65536) := by
  have hks : (s.poolLoaded sl).ks = s.ks := by
    unfold State.poolLoaded
    rw [setFld_ks, State.onPool, inPath_ks]
  have hexec : exec (.cbInitDone sl) s
      = .next (((s.poolLoaded sl).ks.retiredCells.filter fun k => k / 65536 = sl).foldl (fun s k => s.retireCell sl (k % 65536)) (s.poolLoaded sl)) := by
    change execCbInitDone sl s = _
    unfold execCbInitDone State.poolLoaded
    dsimp only
    rw [hhas, hinit, hnot, decide_eq_false (Nat.not_lt.2 hlate)]
    rfl
  have hinv := poolLoaded_inv h sl
  have hdone := poolLoaded_done h sl
  have hfree := poolLoaded_free s sl
  generalize s.poolLoaded sl = m at hks hexec hinv hdone hfree
  have hkeeps : Keeps ⟨[.path], [], false⟩ m ((m.ks.retiredCells.filter fun k => k / 65536 = sl).foldl (fun s k => s.retireCell sl (k % 65536)) m) :=
    keeps_foldl (keeps_self hinv) fun _ _ hu => keeps_retireCell hu (by decide +kernel)
  refine ⟨_, hexec, (flag_of_keeps hkeeps F.cbStat_INIT_DONE sl rfl).trans hdone, fun hnone => ?_⟩
  rw [hks, hnone]
  exact hfree

theorem dtInitDone_result (h : Inv s) {q : Nat} (hinit : s.initialising q = true) (hnot : s.flag F.dtStat_INIT_DONE q = false) :
    ∃ t, exec (.dtInitDone q) s = .next t ∧ t.flag F.dtStat_INIT_DONE q = true := by
  change ∃ t, execDtInitDone q s = .next t ∧ _
  unfold execDtInitDone
  rw [hinit, hnot]
  refine ⟨_, rfl, ?_⟩
  have hstacks : Keeps ⟨[.path], [.dtStkStat], false⟩ s ([2 * q, 2 * q + 1].foldl (fun s h => s.onStack h fun k => { k with next := 0, back := [], used := 0 }) s) :=
    keeps_foldl (keeps_self h) fun _ _ hu => keeps_onStack hu (by decide +kernel)
  generalize [2 * q, 2 * q + 1].foldl (fun s h => s.onStack h fun k => { k with next := 0, back := [], used := 0 }) s = m at hstacks
  have hpages := keeps_foldl (l := m.ks.retiredPages.filter fun k => k / 2 ^ 23 = q) (f := fun s k => s.retirePage k) hstacks
    fun _ _ hu => keeps_retirePage hu (by decide +kernel)
  generalize (m.ks.retiredPages.filter fun k => k / 2 ^ 23 = q).foldl (fun s k => s.retirePage k) m = u at hpages
  have hretired := keeps_foldl (l := u.ks.retiredStacks.filter fun h => h / 2 = q) (f := fun s h => s.setFld F.dtStkStat_STATE h 2) hpages
    fun _ _ hv => keeps_setFld hv rfl
  exact flag_setFld_one hretired.regs (by decide) q

end

/-- Settles O11: a reset ends on time, pools and stacks initialise whatever is retired again, and a restoration ends with its two records. -/
theorem releaseAndInitialisation : Obligations.ReleaseAndInitialisation := by
  unfold Obligations.ReleaseAndInitialisation
  exact ⟨fun s k hk hgood hcool => resetRelease_result hk hgood hcool, fun sl s h hhas hinit hnot hlate => cbInitDone_result h hhas hinit hnot hlate,
    fun q s h hinit hnot => dtInitDone_result h hinit hnot, fun s sh hsh hrun hnone hready => firmwareRestoration_result hsh hrun hnone hready⟩

end Sys2Proof.Machine

/-! The stages of a start (O9): the ROM's choice of boot code, boot code's lock and its choice of firmware, and firmware's start. -/

namespace Sys2Proof.Machine
open Sys2Proof

section
variable {s : State}

/-! ### The ROM (R585, R586) -/

/-- PROT_BOOT and the rails as the ROM leaves them before its choice (R585). -/
def State.romNoted (s : State) : State :=
  let t := (s.setFld F.protBoot_STARTS 0 (min 255 (s.fld F.protBoot_STARTS 0 + 1))).setFld F.protBoot_CAUSE 0 s.boot.nextCause
  if s.boot.nextCause = 0 then t.setFld F.pwrRail_GOOD 0 31 else t

theorem romNoted_wf (h : RegsWf s) : RegsWf s.romNoted := by
  have ht := wf_setFld (wf_setFld h F.protBoot_STARTS 0 (min 255 (s.fld F.protBoot_STARTS 0 + 1))) F.protBoot_CAUSE 0 s.boot.nextCause
  unfold State.romNoted
  dsimp only
  split
  · exact wf_setFld ht _ _ _
  · exact ht

theorem romNoted_fields (h : RegsWf s) : s.romNoted.fld F.protBoot_STARTS 0 = min 255 (s.fld F.protBoot_STARTS 0 + 1)
    ∧ s.romNoted.fld F.protBoot_CAUSE 0 = s.boot.nextCause % 16 := by
  have hstarts := wf_setFld h F.protBoot_STARTS 0 (min 255 (s.fld F.protBoot_STARTS 0 + 1))
  have hlt : min 255 (s.fld F.protBoot_STARTS 0 + 1) < 2 ^ 8 := by omega
  have hself := (fld_setFld_self h (f := F.protBoot_STARTS) (by decide) 0 (min 255 (s.fld F.protBoot_STARTS 0 + 1))).trans (Nat.mod_eq_of_lt hlt)
  have hwf := wf_setFld hstarts F.protBoot_CAUSE 0 s.boot.nextCause
  have hkeep := (fld_setFld_apart hstarts (f := F.protBoot_CAUSE) (g := F.protBoot_STARTS) (by decide) 0 s.boot.nextCause 0).trans hself
  have hcause := fld_setFld_self hstarts (f := F.protBoot_CAUSE) (by decide) 0 s.boot.nextCause
  unfold State.romNoted
  dsimp only
  generalize (s.setFld F.protBoot_STARTS 0 (min 255 (s.fld F.protBoot_STARTS 0 + 1))).setFld F.protBoot_CAUSE 0 s.boot.nextCause = m at hwf hkeep hcause
  split
  · rw [fld_setFld_apart hwf (by decide), fld_setFld_apart hwf (by decide)]
    exact ⟨hkeep, hcause⟩
  · exact ⟨hkeep, hcause⟩

/-- The boot record without the preference that a power-on has used, and the fuses as the image advances them (R586, R589). -/
def State.bootChosen (s : State) (k cause : Nat) : State :=
  let r := s.ks.bootRec.map fun r => if cause = 0 then { r with bootPref := none } else r
  { s with ks := { s.ks with bootRec := r } }.advanceFuses k

theorem bootChosen_regs (s : State) (k cause : Nat) : (s.bootChosen k cause).regs = s.regs := rfl

theorem exec_bootRomStart (hlock : s.tick.locked = true) (hcore : s.inCore = false) (hfw : s.fwRunning = false) (hstage : s.stage = 0) :
    exec .bootRomStart s = match s.chooseBoot with
      | none => .next (s.romNoted.setFld F.protBoot_STAGE 0 3)
      | some k => .next (((s.romNoted.setFld F.protBoot_STAGE 0 1).setFld F.protBoot_BOOT_SLOT 0 (k - 2)).bootChosen k s.boot.nextCause) := by
  change execBootRomStart s = _
  unfold execBootRomStart
  rw [hlock, hcore, hfw, hstage]
  rfl

theorem bootRomStart_found (h : RegsWf s) (hlock : s.tick.locked = true) (hcore : s.inCore = false) (hfw : s.fwRunning = false) (hstage : s.stage = 0)
    {k : Nat} (hk : s.chooseBoot = some k) : ∃ t, exec .bootRomStart s = .next t ∧ t.stage = 1 ∧ t.fld F.protBoot_BOOT_SLOT 0 = (k - 2) % 2
      ∧ t.fld F.protBoot_STARTS 0 = min 255 (s.fld F.protBoot_STARTS 0 + 1) ∧ t.fld F.protBoot_CAUSE 0 = s.boot.nextCause % 16 := by
  obtain ⟨hstarts, hcause⟩ := romNoted_fields h
  have hrom := romNoted_wf h
  have hexec := exec_bootRomStart hlock hcore hfw hstage
  rw [hk] at hexec
  refine ⟨_, hexec, ?_⟩
  unfold State.stage
  simp only [fld_of_regs (bootChosen_regs _ _ _)]
  generalize s.romNoted = m at hrom hstarts hcause
  have hst : RegsWf (m.setFld F.protBoot_STAGE 0 1) := wf_setFld hrom _ _ _
  refine ⟨?_, fld_setFld_self hst (by decide) 0 (k - 2), ?_, ?_⟩
  · rw [fld_setFld_apart hst (by decide)]
    exact fld_setFld_self hrom (by decide) 0 1
  · rw [fld_setFld_apart hst (by decide), fld_setFld_apart hrom (by decide), hstarts]
  · rw [fld_setFld_apart hst (by decide), fld_setFld_apart hrom (by decide), hcause]

theorem bootRomStart_halts (h : RegsWf s) (hlock : s.tick.locked = true) (hcore : s.inCore = false) (hfw : s.fwRunning = false) (hstage : s.stage = 0)
    (hk : s.chooseBoot = none) : ∃ t, exec .bootRomStart s = .next t ∧ t.stage = 3
      ∧ t.fld F.protBoot_STARTS 0 = min 255 (s.fld F.protBoot_STARTS 0 + 1) := by
  obtain ⟨hstarts, _⟩ := romNoted_fields h
  have hrom := romNoted_wf h
  have hexec := exec_bootRomStart hlock hcore hfw hstage
  rw [hk] at hexec
  refine ⟨_, hexec, fld_setFld_self hrom (by decide) 0 3, ?_⟩
  rw [fld_setFld_apart hrom (by decide), hstarts]

/-! ### Boot code (R586, R587, R590) -/

/-- The set-up as boot code leaves it: written and locked, unless it was locked already (R590). -/
def State.setupLocked (s : State) (setup : List (Nat × Word)) : State :=
  if s.flag F.protCtl_LOCK 0 then s
  else ((setup.foldl (fun s w => s.setupWrite w) s).setFld F.protWdt_EN 0 1).setFld F.protCtl_LOCK 0 1

theorem setupLocked_result (h : Inv s) (setup : List (Nat × Word)) :
    RegsWf (s.setupLocked setup) ∧ (s.setupLocked setup).flag F.protCtl_LOCK 0 = true := by
  unfold State.setupLocked
  split
  next hlock => exact ⟨h.regs, hlock⟩
  next =>
    have hset := keeps_foldl (M := mayChange (.bootCodeStart [])) (l := setup) (f := fun s w => s.setupWrite w) (keeps_self h)
      fun _ _ hu => keeps_setupWrite hu (by decide +kernel)
    have hwdt := wf_setFld hset.regs F.protWdt_EN 0 1
    exact ⟨wf_setFld hwdt _ _ _, flag_setFld_one hwdt (by decide) 0⟩

/-- The record and the cause after boot code's choice of firmware, with the watchdog's count begun again (R586, R600). -/
def State.choiceNoted (s : State) : State :=
  let c := s.chooseFirmware
  let s := { s with ks := { s.ks with bootRec := c.record }
                    boot := { s.boot with trialStarts := s.boot.trialStarts + b2n c.counts } }
  let s := s.setFld F.protBoot_TRIAL 0 (b2n ((c.record.map fun r => r.trial).getD false))
  (if c.revert then s.setFld F.protBoot_CAUSE 0 5 else s).kick

/-- Boot code is done: the set-up is locked and the watchdog's count has begun again. -/
structure BootNoted (s : State) : Prop where
  wf : RegsWf s
  locked : s.flag F.protCtl_LOCK 0 = true
  kicked : s.boot.kickEpoch = s.epoch

theorem kick_noted (h : RegsWf s) (hlock : s.flag F.protCtl_LOCK 0 = true) : BootNoted s.kick := ⟨h, hlock, rfl⟩

theorem BootNoted.setFld (hs : BootNoted s) {f : Fld} (hf : f.reg ≠ .protCtl) (i v : Nat) : BootNoted (s.setFld f i v) where
  wf := wf_setFld hs.wf _ _ _
  locked := (flag_of_reg (f := F.protCtl_LOCK) (reg_setFld_ne hs.wf _ fun hk => hf hk.1.symm)).trans hs.locked
  kicked := by
    rw [State.epoch, setFld_boot, setFld_tick, hs.kicked]
    rfl

theorem choiceNoted_noted (h : RegsWf s) (hlock : s.flag F.protCtl_LOCK 0 = true) : BootNoted s.choiceNoted := by
  have hstep : ∀ {m : State} {f : Fld} (v : Nat), f.reg = .protBoot → RegsWf m → m.flag F.protCtl_LOCK 0 = true →
      RegsWf (m.setFld f 0 v) ∧ (m.setFld f 0 v).flag F.protCtl_LOCK 0 = true := fun v hf hm hl =>
    ⟨wf_setFld hm _ _ _, (flag_of_reg (f := F.protCtl_LOCK) (reg_setFld_ne hm _ fun hk => absurd (hk.1.trans hf) (by decide))).trans hl⟩
  unfold State.choiceNoted
  extract_lets c boot ks m u
  have hm : RegsWf m ∧ m.flag F.protCtl_LOCK 0 = true := ⟨h, hlock⟩
  clear_value m
  obtain ⟨huwf, hulock⟩ : RegsWf u ∧ u.flag F.protCtl_LOCK 0 = true := hstep _ rfl hm.1 hm.2
  clear_value u
  split
  · obtain ⟨hwf, hl⟩ := hstep (f := F.protBoot_CAUSE) 5 rfl huwf hulock
    exact kick_noted hwf hl
  · exact kick_noted huwf hulock

/-- The build and the protocol range of the image that runs. -/
theorem BootNoted.withImage (hs : BootNoted s) (build lo hi : Nat) :
    BootNoted { s with boot := { s.boot with build := build, protoMin := lo, protoMax := hi } } := ⟨hs.wf, hs.locked, hs.kicked⟩

theorem enterRecovery_result (hs : BootNoted s) : BootNoted s.enterRecovery ∧ s.enterRecovery.flag F.protBoot_RECOVERY 0 = true := by
  have hm : BootNoted { s with boot := { s.boot with build := 0, protoMin := 0x0100, protoMax := 0x0100, handover := false } } :=
    ⟨hs.wf, hs.locked, hs.kicked⟩
  unfold State.enterRecovery
  exact ⟨hm.setFld (by decide) 0 1, flag_setFld_one hm.wf (by decide) 0⟩

theorem startSlot_result (hs : BootNoted s) (k : Nat) : BootNoted (s.startSlot k) ∧ (s.startSlot k).stage = 2 := by
  have hm : BootNoted { s with boot := { s.boot with build := s.slotBuild k, protoMin := (s.slotProto k).1, protoMax := (s.slotProto k).2 } } :=
    hs.withImage _ _ _
  have hslot := hm.setFld (f := F.protBoot_FW_SLOT) (by decide) 0 k
  unfold State.startSlot
  exact ⟨hslot.setFld (by decide) 0 2, fld_setFld_self hslot.wf (by decide) 0 2⟩

theorem BootNoted.startRecord (hs : BootNoted s) : BootNoted s.startRecord ∧ s.startRecord.stage = s.stage := by
  unfold State.startRecord
  exact ⟨⟨hs.wf, hs.locked, hs.kicked⟩, rfl⟩

theorem exec_bootCodeStart (hstage : s.stage = 1) (hfw : s.fwRunning = false) (setup : List (Nat × Word)) :
    exec (.bootCodeStart setup) s = match (s.setupLocked setup).chooseFirmware.slot with
      | none => .next (s.setupLocked setup).choiceNoted.enterRecovery
      | some k =>
        if (s.setupLocked setup).choiceNoted.slotValid k then .next ((s.setupLocked setup).choiceNoted.startSlot k)
        else if (s.setupLocked setup).choiceNoted.slotValid (1 - k) then .next ((s.setupLocked setup).choiceNoted.startSlot (1 - k)).startRecord
        else .next (s.setupLocked setup).choiceNoted.enterRecovery := by
  change execBootCodeStart setup s = _
  unfold execBootCodeStart
  rw [hstage, hfw]
  rfl

theorem bootCodeStart_result (h : Inv s) (hstage : s.stage = 1) (hfw : s.fwRunning = false) (setup : List (Nat × Word)) :
    ∃ t, exec (.bootCodeStart setup) s = .next t ∧ t.flag F.protCtl_LOCK 0 = true
      ∧ (t.stage = 2 ∨ t.flag F.protBoot_RECOVERY 0 = true) ∧ t.boot.kickEpoch = t.epoch := by
  obtain ⟨hwf, hlock⟩ := setupLocked_result h setup
  rw [exec_bootCodeStart hstage hfw]
  generalize s.setupLocked setup = m at hwf hlock
  have hnoted := choiceNoted_noted hwf hlock
  generalize m.choiceNoted = u at hnoted
  have hrecovery : ∃ t, Host.Outcome.next u.enterRecovery = (.next t : Host.Outcome State Fault Refusal) ∧ t.flag F.protCtl_LOCK 0 = true
      ∧ (t.stage = 2 ∨ t.flag F.protBoot_RECOVERY 0 = true) ∧ t.boot.kickEpoch = t.epoch := by
    obtain ⟨hn, hr⟩ := enterRecovery_result hnoted
    exact ⟨_, rfl, hn.locked, Or.inr hr, hn.kicked⟩
  split
  · exact hrecovery
  next k _ =>
    split
    · obtain ⟨hn, hst⟩ := startSlot_result hnoted k
      exact ⟨_, rfl, hn.locked, Or.inl hst, hn.kicked⟩
    split
    · obtain ⟨hn, hst⟩ := startSlot_result hnoted (1 - k)
      obtain ⟨hrec, hsame⟩ := hn.startRecord
      exact ⟨_, rfl, hrec.locked, Or.inl (hsame.trans hst), hrec.kicked⟩
    · exact hrecovery

/-! ### Firmware (R585) -/

/-- What firmware has read and set up before its handover ends (R585 step 6). -/
def State.firmwareReady (s : State) : State :=
  let s := if s.powerOnStart then s.takeSave else s.restartServo
  let s := if s.boot.handover then s else s.loadFlashTable
  let s := (s.setFld F.tickCtl_SCH_EN 0 1).answerJournal
  s.restartBases.restartHeld.restartSwaps

/-- The handover is over, the watchdog's count begins again, and the start is logged. -/
def State.handoverEnded (s : State) : State := { s with boot := { s.boot with handover := false } }.kick.startRecord

theorem handoverEnded_result (s : State) : s.handoverEnded.boot.handover = false ∧ s.handoverEnded.boot.kickEpoch = s.handoverEnded.epoch := ⟨rfl, rfl⟩

theorem exec_firmwareStart (hstage : s.stage = 2) (hrun : s.flag F.protBoot_RUNNING 0 = false) (hcore : s.inCore = false) :
    exec .firmwareStart s = .next (s.firmwareReady.handoverEnded.setFld F.protBoot_RUNNING 0 1).checkAll := by
  change execFirmwareStart s = _
  unfold execFirmwareStart
  rw [hstage, hrun, hcore]
  rfl

end

/-- Settles O9: the ROM notes its start and its choice, boot code locks the set-up whichever image it finds, and firmware ends the handover. -/
theorem startUpStages : Obligations.StartUpStages := by
  unfold Obligations.StartUpStages
  refine ⟨fun s h hlock hcore hfw hstage => ⟨fun k hk => bootRomStart_found h.regs hlock hcore hfw hstage hk,
    bootRomStart_halts h.regs hlock hcore hfw hstage⟩, fun setup s h hstage hfw => bootCodeStart_result h hstage hfw setup, ?_⟩
  intro s hstage hrun hcore
  obtain ⟨hhand, hkick⟩ := handoverEnded_result s.firmwareReady
  exact ⟨_, exec_firmwareStart hstage hrun hcore, hhand, hkick⟩

end Sys2Proof.Machine

/-!
General packets (O38): the SNAPSHOT packet in the state in which a snapshot does not advance the sequence number by one.
-/
namespace Sys2Proof.Machine
open Sys2Proof

/-- Firmware runs in `miscountedSequence`. -/
def miscountedRunning : State := miscountedSequence.setFld F.protBoot_RUNNING 0 1

theorem miscountedRunning_inv : Inv miscountedRunning :=
  ⟨wf_setFld miscountedSequence_inv.regs _ _ _, miscountedSequence_inv.slot, miscountedSequence_inv.whorl⟩

/-- A SNAPSHOT packet of channel 0. -/
def snapshotPacket : Packet := { chan := 0, tag := 1 }

theorem snapshotPacket_accepted : Accepts 0x0A03 snapshotPacket miscountedRunning :=
  ⟨by decide, by decide, by decide, by decide, by decide, by decide⟩

/-- The packet's snapshot adds the count to the register before it advances the sequence: the number rises by two. -/
theorem snapshotPacket_counts_two : ∃ t, exec (.snapshot snapshotPacket) miscountedRunning = .next t
    ∧ (t.reg .cntSnapSeq 0).toNat = 2 ∧ (miscountedRunning.reg .cntSnapSeq 0).toNat = 0 :=
  ⟨_, rfl, by decide +kernel, by decide +kernel⟩

/-- Refutes O38: its clause of SNAPSHOT has CNT_SNAP_SEQ advance by one whatever the live counters are, while the snapshot first adds every live counter
into the register that its key names (R474); in `miscountedRunning` that is CNT_SNAP_SEQ itself, which then reads 2. -/
theorem not_generalPacketsAnswer : ¬ Obligations.GeneralPacketsAnswer := by
  intro hall
  obtain ⟨-, -, -, -, -, -, -, hsnapshot, -⟩ := hall
  obtain ⟨t, e, ps, hdone, -, -, hfirst⟩ := hsnapshot snapshotPacket miscountedRunning miscountedRunning_inv snapshotPacket_accepted
  obtain ⟨hone, -⟩ := hfirst (by decide) (by decide)
  obtain ⟨u, hu, htwo, hzero⟩ := snapshotPacket_counts_two
  have hnext : replied 0x0A03 snapshotPacket miscountedRunning t e ps = u := Host.Outcome.next.inj (hdone.symm.trans hu)
  rw [← hnext, replied, reg_of_regs (answer_regs _ _ _ _ _ _), hone, hzero] at htwo
  exact absurd htwo (by decide)

end Sys2Proof.Machine

/-! Packets of the keep store (O56): KS_WRITE and the write session that it waits for, KS_READ, HOLDUP_STATUS_GET and THM_GET. -/

namespace Sys2Proof.Machine
open Sys2Proof

section
variable {s t : State} {p : Packet} {a : Args} {op : Nat}

/-! ### A command that waits for its write session (R617, R618) -/

theorem begun_energyFor (op : Nat) (p : Packet) (n : Nat) : (begun op p s).energyFor n = s.energyFor n := by
  unfold State.energyFor State.energy2
  rw [begun_fld_eq, begun_fld_eq]

theorem begun_ksFaulted (op : Nat) (p : Packet) : (begun op p s).ksFaulted = s.ksFaulted := by
  unfold State.ksFaulted
  rw [begun_fld_eq, begun_ks]

/-- The state that waits for the session of a command: its job, and the session (R618). -/
def State.sessionOpened (s : State) (op : Nat) (p : Packet) (d : SessionData) : State :=
  (Res.job s op p 1).state.openSession { data := d, job := some (p.chan, p.tag) }

theorem sessionCommand_opens {bytes : Nat} (he : s.energyFor bytes = true) (op : Nat) (p : Packet) (d : SessionData) :
    s.sessionCommand op p bytes d = { status := .ok, params := [], state := s.sessionOpened op p d, deferred := true } := by
  unfold State.sessionCommand
  rw [if_pos he]
  rfl

theorem sessionCommand_refuses {bytes : Nat} (he : s.energyFor bytes = false) (op : Nat) (p : Packet) (d : SessionData) :
    s.sessionCommand op p bytes d = { status := .holdupLow, params := [], state := s.count .ksRefuseCnt 0 1 } := by
  unfold State.sessionCommand
  rw [if_neg (by rw [he]; exact Bool.false_ne_true)]
  rfl

/-- What is left while a command waits for its session. -/
structure AwaitsSession (s : State) (p : Packet) (d : SessionData) (t : State) : Prop where
  sessions : t.ks.sessions = s.ks.sessions ++ [{ data := d, job := some (p.chan, p.tag) }]
  area : t.ks.hostArea = s.ks.hostArea
  flag : t.flag F.ksStat_SESSION 0 = true
  jobs : t.tab.jobs.length = s.tab.jobs.length + 1
  replies : t.pkts.replies = s.pkts.replies
  boot : t.boot = s.boot
  regs : ∀ r i, r ≠ .ksStat → t.reg r i = s.reg r i

theorem sessionOpened_awaits (h : RegsWf s) (op : Nat) (p : Packet) (d : SessionData) : AwaitsSession s p d (s.sessionOpened op p d) := by
  have hwf : ∀ ks : KeepStore, RegsWf { (Res.job s op p 1).state with ks := ks } := fun _ => h
  unfold State.sessionOpened State.openSession
  refine ⟨by rw [setFld_ks]; rfl, by rw [setFld_ks]; rfl, flag_setFld_one (hwf _) (by decide) 0, ?_, by rw [setFld_pkts]; rfl, by rw [setFld_boot]; rfl, ?_⟩
  · rw [setFld_tab]
    exact List.length_append
  · intro r i hr
    rw [reg_setFld_ne (hwf _) _ fun hk => hr hk.1]
    rfl

theorem AwaitsSession.of_begun {d : SessionData} (ht : AwaitsSession (begun op p s) p d t) : AwaitsSession s p d t :=
  ⟨ht.sessions, ht.area, ht.flag, ht.jobs, ht.replies, ht.boot, ht.regs⟩

/-! ### KS_WRITE (R628) -/

/-- The checks of KS_WRITE pass. -/
def ksWriteChecks (a : Args) (p : Packet) (s : State) : List (Bool × Status) :=
  [ (a.bad || a.n 0 % 4096 != 0 || dmaLen (a.n 1) % 4096 != 0 || decide (2 ^ 20 < dmaLen (a.n 1)), .paramInvalid),
    (decide (2 ^ 22 < a.n 0 + dmaLen (a.n 1)), .indexRange) ] ++ dmaChecks s p (a.n 1) false 0 ++ [(s.ksFaulted, .ksFault)]

theorem ksWriteChecks_pass (hbad : a.bad = false) (hoff : a.n 0 % 4096 = 0) (hlen : dmaLen (a.n 1) % 4096 = 0) (hmax : dmaLen (a.n 1) ≤ 2 ^ 20)
    (hend : a.n 0 + dmaLen (a.n 1) ≤ 2 ^ 22) (hdma : firstFail (dmaChecks s p (a.n 1) false 0) = none) (hok : s.ksFaulted = false) :
    firstFail (ksWriteChecks a p s) = none := by
  have hfirst : firstFail [ (a.bad || a.n 0 % 4096 != 0 || dmaLen (a.n 1) % 4096 != 0 || decide (2 ^ 20 < dmaLen (a.n 1)), Status.paramInvalid),
      (decide (2 ^ 22 < a.n 0 + dmaLen (a.n 1)), .indexRange) ] = none := by
    rw [hbad, hoff, hlen, decide_eq_false (Nat.not_lt.2 hmax), decide_eq_false (Nat.not_lt.2 hend)]
    rfl
  unfold ksWriteChecks
  rw [List.append_assoc, firstFail_append hfirst, firstFail_append hdma, hok]
  rfl

theorem ksWrite_checked (hacc : Accepts 0x0D00 p s) (ha : readParams 0x0D00 p.params = a) (hpass : firstFail (ksWriteChecks a p s) = none)
    (hfault : p.dmaFault = false) :
    (s.energyFor (dmaLen (a.n 1)) = true → exec (.ksWrite p) s = .next ((begun 0x0D00 p s).sessionOpened 0x0D00 p (.host (a.n 0) (slice p.dma 0 (dmaLen (a.n 1))))))
    ∧ (s.energyFor (dmaLen (a.n 1)) = false → Completes (.ksWrite p) 0x0D00 p s ((begun 0x0D00 p s).count .ksRefuseCnt 0 1) .holdupLow []) := by
  subst ha
  have hpass' : firstFail (ksWriteChecks (readParams 0x0D00 p.params) p (begun 0x0D00 p s)) = none := hpass
  have hexec : exec (.ksWrite p) s = execKsWrite p s := rfl
  rw [Completes, hexec]
  unfold execKsWrite
  rw [← begun_energyFor 0x0D00 p]
  refine ⟨fun he => deferred_of_checks (e := .ok) (ps := []) hacc hpass' ?_, fun he => completes_of_checks hacc hpass' ?_⟩
  · dsimp only
    rw [hfault, if_neg Bool.false_ne_true, sessionCommand_opens he]
    rfl
  · dsimp only
    rw [hfault, if_neg Bool.false_ne_true, sessionCommand_refuses he]
    rfl

/-! ### KS_READ (R629) -/

/-- The checks of KS_READ. -/
def ksReadChecks (a : Args) (p : Packet) (s : State) : List (Bool × Status) :=
  [ (a.bad || a.n 0 == 0 || decide (5 < a.n 0) || a.n 1 % 64 != 0 || dmaLen (a.n 2) % 64 != 0, .paramInvalid),
    (decide (areaSize (a.n 0) < a.n 1 + dmaLen (a.n 2)), .indexRange) ] ++ dmaChecks s p (a.n 2) true 0

theorem ksReadChecks_pass (hbad : a.bad = false) (hlo : 1 ≤ a.n 0) (hhi : a.n 0 ≤ 5) (hoff : a.n 1 % 64 = 0) (hlen : dmaLen (a.n 2) % 64 = 0)
    (hend : a.n 1 + dmaLen (a.n 2) ≤ areaSize (a.n 0)) (hdma : firstFail (dmaChecks s p (a.n 2) true 0) = none) :
    firstFail (ksReadChecks a p s) = none := by
  have hfirst : firstFail [ (a.bad || a.n 0 == 0 || decide (5 < a.n 0) || a.n 1 % 64 != 0 || dmaLen (a.n 2) % 64 != 0, Status.paramInvalid),
      (decide (areaSize (a.n 0) < a.n 1 + dmaLen (a.n 2)), .indexRange) ] = none := by
    rw [hbad, hoff, hlen, beq_false_of_ne (Nat.pos_iff_ne_zero.1 hlo), decide_eq_false (Nat.not_lt.2 hhi), decide_eq_false (Nat.not_lt.2 hend)]
    rfl
  unfold ksReadChecks
  rw [firstFail_append hfirst, hdma]

/-- The bytes that a read of an area takes. -/
def State.areaBytes (s : State) (area off len : Nat) : List Byte := (List.range len).map fun k => s.areaByte area (off + k)

theorem ksRead_completes (hacc : Accepts 0x0D01 p s) (ha : readParams 0x0D01 p.params = a) (hpass : firstFail (ksReadChecks a p s) = none)
    (hfault : p.dmaFault = false) :
    Completes (.ksRead p) 0x0D01 p s ((begun 0x0D01 p s).emit (.hostWrite (dmaAddr (a.n 2))
      ((begun 0x0D01 p s).areaBytes (a.n 0) (a.n 1) (dmaLen (a.n 2))))).draw .ok (emitBlock []) := by
  subst ha
  have hpass' : firstFail (ksReadChecks (readParams 0x0D01 p.params) p (begun 0x0D01 p s)) = none := hpass
  change execKsRead p s = _
  unfold execKsRead
  refine completes_of_checks hacc hpass' ?_
  dsimp only
  rw [dmaWrite, hfault, if_neg Bool.false_ne_true]
  rfl

theorem areaBytes_get? (s : State) (area off : Nat) {len k : Nat} (hk : k < len) : (s.areaBytes area off len)[k]? = some (s.areaByte area (off + k)) := by
  rw [State.areaBytes, List.getElem?_map, List.getElem?_range hk]
  rfl

/-- Bytes that are those of a number are read as the number. -/
theorem leAt_of_bytes {bs : List Byte} {x n v : Nat} (h : ∀ k, k < n → bs[x + k]? = (leBytes n v)[k]?) : leAt bs x n = v % 256 ^ n := by
  have htake : (bs.drop x).take n = leBytes n v := by
    refine List.ext_getElem? fun k => ?_
    rw [List.getElem?_take, List.getElem?_drop]
    split
    next hk => exact h k hk
    next hk => exact (List.getElem?_eq_none (by rw [leBytes_length]; exact Nat.not_lt.1 hk)).symm
  rw [leAt, slice, htake, leBytes_length, Nat.sub_self, List.replicate_zero, List.append_nil, leNat_leBytes]

/-- A byte of an occupied save slot whose place is given. -/
theorem areaByte_save {n x : Nat} {i : SaveImage} {b : Byte} (hn : n < 2) (hi : OTable.get? s.ks.saves n = some i) (hb : i.byteAt x = some b) :
    s.areaByte (n + 1) x = b := by
  have hcases : n = 0 ∨ n = 1 := by omega
  unfold State.areaByte
  rcases hcases with rfl | rfl
  · simp only [hi, Option.bind_some, hb, Option.getD_some]
  · simp only [hi, Option.bind_some, hb, Option.getD_some]

theorem leBytes_get? {n v k : Nat} (hk : k < n) : ∃ b, (leBytes n v)[k]? = some b :=
  ⟨_, List.getElem?_eq_getElem (by rw [leBytes_length]; exact hk)⟩

/-- An occupied save slot begins with MAGIC and SEQ (R621). -/
theorem areaBytes_header {n len : Nat} {i : SaveImage} (hn : n < 2) (hi : OTable.get? s.ks.saves n = some i) (hlen : 12 ≤ len) :
    leAt (s.areaBytes (n + 1) 0 len) 0 4 = 0x45564153 ∧ leAt (s.areaBytes (n + 1) 0 len) 4 8 = i.seq % 2 ^ 64 := by
  constructor
  · refine (leAt_of_bytes (v := 0x45564153) fun k hk => ?_).trans (by decide)
    obtain ⟨b, hb⟩ := leBytes_get? (v := 0x45564153) hk
    have hbyte : i.byteAt (0 + (0 + k)) = some b := by
      rw [Nat.zero_add, Nat.zero_add, SaveImage.byteAt, if_pos hk, hb]
    rw [hb, areaBytes_get? _ _ _ (by omega), areaByte_save hn hi hbyte]
  · refine leAt_of_bytes fun k hk => ?_
    obtain ⟨b, hb⟩ := leBytes_get? (v := i.seq) hk
    have hbyte : i.byteAt (0 + (4 + k)) = some b := by
      rw [Nat.zero_add, SaveImage.byteAt, if_neg (by omega), if_pos (by omega), Nat.add_sub_cancel_left, hb]
    rw [hb, areaBytes_get? _ _ _ (by omega), areaByte_save hn hi hbyte]

/-! ### HOLDUP_STATUS_GET and THM_GET (R630) -/

/-- The newest valid save as HOLDUP_STATUS_GET answers it. -/
def State.saveFields (s : State) : List (Ty × Nat) :=
  match s.ks.newest with
  | some e => [(Ty.flag, 1), (.u 8, e.1), (.u 64, e.2.seq), (.u 32, e.2.len), (.u 8, 1), (.u 64, e.2.slot), (.u 32, e.2.whorl)]
  | none => [(Ty.flag, 0), (.u 8, 0), (.u 64, 0), (.u 32, 0), (.u 8, 0), (.u 64, 0), (.u 32, 0)]

/-- The hold-up as HOLDUP_STATUS_GET answers it. -/
def State.holdupFields (s : State) : List (Ty × Nat) :=
  [ (.u 14, s.fld F.pwrHoldV_MV 0), (.u 16, s.fld F.pwrCap_C 0), (.u 16, s.fld F.pwrCap_ESR 0),
    (.u 3, s.fld F.pwrStat_CAP_STATE 0), (.flag, s.fld F.pwrCtl_CHG_EN 0), (.u 32, s.energyUj), (.u 32, 40000),
    (.u 32, if s.ksFaulted then 0 else s.largestSession), (.flag, s.fld F.ksStat_SAVE_RISK 0),
    (.u 32, (s.reg .pwrSagCnt 0).toNat) ]

/-- The types of the hold-up's fields and of the first of the save's. -/
def holdupTypes : List Ty := [.u 14, .u 16, .u 16, .u 3, .flag, .u 32, .u 32, .u 32, .flag, .u 32, .flag, .u 8, .u 64]

theorem holdupFields_types (s : State) : (s.holdupFields ++ s.saveFields).map Prod.fst = holdupTypes ++ [.u 32, .u 8, .u 64, .u 32] := by
  unfold State.saveFields
  split <;> rfl

theorem holdupStatusGet_completes (hacc : Accepts 0x0D02 p s) :
    Completes (.holdupStatusGet p) 0x0D02 p s (begun 0x0D02 p s) .ok (emitBlock (s.holdupFields ++ s.saveFields)) := by
  change execHoldupStatusGet p s = _
  unfold execHoldupStatusGet
  exact completes_of_checks (checks := []) hacc rfl rfl

theorem leAt_holdupFields (s : State) {ps : List Byte} (hps : ps = emitBlock (s.holdupFields ++ s.saveFields)) :
    leAt ps 0 2 = s.fld F.pwrHoldV_MV 0 ∧ leAt ps 2 2 = s.fld F.pwrCap_C 0 ∧ leAt ps 4 2 = s.fld F.pwrCap_ESR 0
      ∧ leAt ps 6 1 = s.fld F.pwrStat_CAP_STATE 0 ∧ leAt ps 8 4 = s.energyUj % 2 ^ 32 ∧ (s.ksFaulted = true → leAt ps 16 4 = 0) := by
  subst hps
  have hts := holdupFields_types s
  refine ⟨?_, ?_, ?_, ?_, ?_, fun hfault => ?_⟩
  · exact (leAt_emitBlock hts (k := 0) rfl (by decide) rfl rfl).trans (fld_mod_lt _ _ _ (by decide))
  · exact (leAt_emitBlock hts (k := 1) rfl (by decide) rfl rfl).trans (fld_mod_lt _ _ _ (by decide))
  · exact (leAt_emitBlock hts (k := 2) rfl (by decide) rfl rfl).trans (fld_mod_lt _ _ _ (by decide))
  · exact (leAt_emitBlock hts (k := 3) rfl (by decide) rfl rfl).trans (fld_mod_lt _ _ _ (by decide))
  · exact leAt_emitBlock hts (k := 5) rfl (by decide) rfl rfl
  · have hread : leAt (emitBlock (s.holdupFields ++ s.saveFields)) 16 4 = (if s.ksFaulted then 0 else s.largestSession) % 256 ^ 4 :=
      leAt_emitBlock hts (k := 7) rfl (by decide) rfl rfl
    rw [hread, if_pos hfault, Nat.zero_mod]

theorem leAt_saveFields (s : State) {ps : List Byte} (hps : ps = emitBlock (s.holdupFields ++ s.saveFields)) :
    leAt ps 28 1 = b2n s.ks.newest.isSome ∧ ∀ e, s.ks.newest = some e → leAt ps 29 1 = e.1 % 256 ∧ leAt ps 32 8 = e.2.seq % 2 ^ 64 := by
  subst hps
  have hts := holdupFields_types s
  unfold State.saveFields at *
  split at hts
  next e he =>
    rw [he]
    refine ⟨leAt_emitBlock hts (k := 10) rfl (by decide) rfl rfl, fun e' he' => ?_⟩
    obtain rfl := Option.some.inj he'
    exact ⟨leAt_emitBlock hts (k := 11) rfl (by decide) rfl rfl, leAt_emitBlock hts (k := 12) rfl (by decide) rfl rfl⟩
  next he =>
    rw [he]
    exact ⟨leAt_emitBlock hts (k := 10) rfl (by decide) rfl rfl, fun e' he' => absurd he' (by simp)⟩

/-- The sensors as THM_GET answers them. -/
def State.sensorFields (s : State) : List (Ty × Nat) := wordFields ((List.range 32).map fun t => (s.reg .thmTemp t).toNat)

/-- The level and the temperatures as THM_GET answers them. -/
def State.heatFields (s : State) : List (Ty × Nat) :=
  [(.u 12, ofSigned 12 (s.dieMax.getD 0)), (.u 2, s.fld F.thmStat_LEVEL 0), (.u 12, s.fld F.thmMax_TJ 0), (.u 8, s.fld F.thmCtl_WARN_C 0)]

theorem thmGet_completes (hacc : Accepts 0x0D03 p s) :
    Completes (.thmGet p) 0x0D03 p s (begun 0x0D03 p s) .ok (emitBlock (s.sensorFields ++ s.heatFields)) := by
  change execThmGet p s = _
  unfold execThmGet
  exact completes_of_checks (checks := []) hacc rfl rfl

/-- The types of the fields of THM_GET's answer. -/
def thmTypes : List Ty := List.replicate 32 (.u 32) ++ [.u 12, .u 2, .u 12, .u 8]

theorem thmFields_types (s : State) : (s.sensorFields ++ s.heatFields).map Prod.fst = thmTypes ++ [] := rfl

theorem leAt_thmFields (s : State) {ps : List Byte} (hps : ps = emitBlock (s.sensorFields ++ s.heatFields)) :
    (∀ n, n < 32 → leAt ps (4 * n) 4 = (s.reg .thmTemp n).toNat) ∧ leAt ps 130 1 = s.fld F.thmStat_LEVEL 0
      ∧ leAt ps 132 2 = s.fld F.thmMax_TJ 0 ∧ leAt ps 134 1 = s.fld F.thmCtl_WARN_C 0 := by
  subst hps
  have hts := thmFields_types s
  have hpos : ∀ n, n < 32 → fieldAt thmTypes n 0 = 4 * n ∧ n < thmTypes.length := by decide
  refine ⟨fun n hn => ?_, ?_, ?_, ?_⟩
  · have hget : (s.sensorFields ++ s.heatFields)[n]? = some (.u 32, (s.reg .thmTemp n).toNat) := by
      rw [List.getElem?_append_left (by simpa [State.sensorFields, wordFields] using hn)]
      simp [State.sensorFields, wordFields, List.getElem?_range hn]
    exact (leAt_emitBlock hts hget (hpos n hn) rfl rfl).trans (Nat.mod_eq_of_lt (s.reg .thmTemp n).isLt)
  · exact (leAt_emitBlock hts (k := 33) rfl (by decide) rfl rfl).trans (fld_mod_lt _ _ _ (by decide))
  · exact (leAt_emitBlock hts (k := 34) rfl (by decide) rfl rfl).trans (fld_mod_lt _ _ _ (by decide))
  · exact (leAt_emitBlock hts (k := 35) rfl (by decide) rfl rfl).trans (fld_mod_lt _ _ _ (by decide))

end

/-- Settles O56: a write waits for its session or is refused, a read takes the area's bytes, and the answers' fields lie at their offsets. -/
theorem keepStorePacketsAnswer : Obligations.KeepStorePacketsAnswer := by
  unfold Obligations.KeepStorePacketsAnswer
  refine ⟨?write, ?read, ?holdup, ?heat⟩
  case write =>
    rintro p a _ _ s h hacc ha hbad rfl rfl hoff hlen hmax hend hdma hok hfault
    obtain ⟨hopens, hrefuses⟩ := ksWrite_checked hacc ha (ksWriteChecks_pass hbad hoff hlen hmax hend hdma hok) hfault
    refine ⟨fun he => ⟨_, hopens he, ?_⟩, fun he => ⟨_, hrefuses he, rfl, rfl, rfl⟩⟩
    obtain ⟨hsessions, harea, hflag, hjobs, hreplies, -, hregs⟩ :=
      (sessionOpened_awaits (begun_inv h 0x0D00 p).regs 0x0D00 p (.host (a.n 0) (slice p.dma 0 (dmaLen (a.n 1))))).of_begun
    exact ⟨hsessions, harea, hflag, hjobs, hreplies, hregs⟩
  case read =>
    rintro p a _ _ _ s hacc ha hbad rfl rfl rfl hlo hhi hoff hlen hend hdma hfault
    refine ⟨_, ksRead_completes hacc ha (ksReadChecks_pass hbad hlo hhi hoff hlen hend hdma) hfault, ?_, fun h5 k hk => ?_, ?_⟩
    · rw [State.areaBytes, List.length_map, List.length_range]
    · rw [areaBytes_get? _ _ _ hk, h5]
      rfl
    · intro n i harea hn hi hzero hpos
      rw [harea, hzero]
      exact areaBytes_header hn hi (by omega)
  case holdup =>
    intro p s hacc
    obtain ⟨hv, hc, hesr, hstate, henergy, hfault⟩ := leAt_holdupFields s rfl
    obtain ⟨hpresent, hnewest⟩ := leAt_saveFields s rfl
    exact ⟨_, holdupStatusGet_completes hacc, hv, hc, hesr, hstate, henergy, hfault, hpresent, hnewest⟩
  case heat =>
    intro p s hacc
    exact ⟨_, thmGet_completes hacc, leAt_thmFields s rfl⟩

end Sys2Proof.Machine

/-! Packets of the firmware (O55): FW_IMAGE_WRITE and what it leaves in the flash, FW_ACTIVATE and its boot record, FW_STATUS_GET and PROT_STATUS_GET. -/

namespace Sys2Proof.Machine
open Sys2Proof

/-! ### Bytes put into a flash -/

/-- A flash in canonical form: erased bytes are not listed. -/
abbrev FlashWf (f : Table Byte) : Prop := Table.wf (fun _ => (0xFF : Byte)) f = true

/-- Bytes numbered from `n` on are put at their numbers behind an offset. -/
theorem program_result (x : Nat) (bs : List Byte) : ∀ (n : Nat) {f : Table Byte}, FlashWf f →
    (∀ i b, bs[i]? = some b → Table.get (fun _ => 0xFF)
      ((bs.zipIdx n).foldl (fun f (e : Byte × Nat) => Table.set (fun _ => 0xFF) f (x + e.2) e.1) f) (x + n + i) = b)
    ∧ ∀ j, j < x + n ∨ x + n + bs.length ≤ j → Table.get (fun _ => 0xFF)
      ((bs.zipIdx n).foldl (fun f (e : Byte × Nat) => Table.set (fun _ => 0xFF) f (x + e.2) e.1) f) j = Table.get (fun _ => 0xFF) f j := by
  induction bs with
  | nil => exact fun n f _ => ⟨fun i b hb => absurd hb (by simp), fun j _ => rfl⟩
  | cons c bs ih =>
    intro n f hf
    obtain ⟨hin, hout⟩ := ih (n + 1) (Table.wf_set hf (x + n) c)
    simp only [List.zipIdx_cons, List.foldl_cons]
    refine ⟨fun i b hb => ?_, fun j hj => ?_⟩
    · cases i with
      | zero =>
        obtain rfl : c = b := by simpa using hb
        rw [Nat.add_zero, hout _ (Or.inl (by omega))]
        exact Table.get_set_self hf _ _
      | succ i =>
        rw [show x + n + (i + 1) = x + (n + 1) + i by omega]
        exact hin i b (by simpa using hb)
    · have hlen : (c :: bs).length = bs.length + 1 := rfl
      rw [hout j (by omega)]
      exact Table.get_set_ne hf _ (by omega)

theorem programFlash_inside {f : Table Byte} (hf : FlashWf f) (x : Nat) {bs : List Byte} {i : Nat} {b : Byte} (hb : bs[i]? = some b) :
    Table.get (fun _ => 0xFF) (programFlash f x bs) (x + i) = b := (program_result x bs 0 hf).1 i b hb

theorem programFlash_outside {f : Table Byte} (hf : FlashWf f) (x : Nat) (bs : List Byte) {j : Nat} (hj : j < x ∨ x + bs.length ≤ j) :
    Table.get (fun _ => 0xFF) (programFlash f x bs) j = Table.get (fun _ => 0xFF) f j := (program_result x bs 0 hf).2 j hj

/-- A flash in which some bytes have been erased. -/
theorem get_erased {f : Table Byte} (hf : FlashWf f) (lo hi x : Nat) :
    Table.get (fun _ => 0xFF) (f.filter fun e => decide (e.1 < lo) || decide (hi ≤ e.1)) x
      = if x < lo ∨ hi ≤ x then Table.get (fun _ => 0xFF) f x else 0xFF := by
  have hsorted : Table.sortedFrom 0 f = true := (Bool.and_eq_true_iff.1 hf).1
  rw [Table.get_filter hsorted]
  simp only [Bool.or_eq_true, decide_eq_true_eq]

section
variable {s t : State} {p : Packet} {a : Args}

/-! ### FW_IMAGE_WRITE (R603) -/

theorem slotSize_of_entry {k : Nat} {e : Nat × Nat} (he : s.entryOf (slotKind k) = some e) : s.slotSize k = min e.2 (slotMax k) := by
  unfold State.slotSize
  rw [he]

theorem leAt_take {bs : List Byte} {m x n : Nat} (h : x + n ≤ m) : leAt (bs.take m) x n = leAt bs x n := by
  rw [leAt, leAt, slice, slice, List.drop_take, List.take_take, Nat.min_eq_left (by omega)]

/-- An image without a fault fits its slot, which the directory names. -/
theorem imageFault_zero {k : Nat} {img : List Byte} (h : s.imageFault k img = 0) :
    8192 + leAt img 16 4 ≤ s.slotSize k ∧ 8192 + leAt img 16 4 ≤ img.length ∧ ∃ e, s.entryOf (slotKind k) = some e := by
  have hlen : leAt (img.take 8192) 16 4 = leAt img 16 4 := leAt_take (by decide)
  have hfit : 8192 + leAt img 16 4 ≤ s.slotSize k ∧ 8192 + leAt img 16 4 ≤ img.length := by
    unfold State.imageFault at h
    dsimp only at h
    rw [hlen] at h
    split at h
    · exact absurd h (by decide)
    next hgood =>
      simp only [Bool.or_eq_true, decide_eq_true_eq, not_or, not_lt] at hgood
      exact ⟨hgood.1.1.1.1.2, hgood.1.1.1.2⟩
  refine ⟨hfit.1, hfit.2, ?_⟩
  cases he : s.entryOf (slotKind k) with
  | some e => exact ⟨e, rfl⟩
  | none =>
    have hzero : s.slotSize k = 0 := by
      unfold State.slotSize
      rw [he]
    omega

/-- The flash once the bytes of a range have been erased. -/
def erasedFlash (f : Table Byte) (lo hi : Nat) : Table Byte := f.filter fun e => decide (e.1 < lo) || decide (hi ≤ e.1)

theorem writeSlot_flash {k : Nat} {img : List Byte} {e : Nat × Nat} (he : s.entryOf (slotKind k) = some e) : s.writeSlot k img
    = { s with flash := programFlash (erasedFlash s.flash e.1 (e.1 + s.slotSize k)) e.1 (img.take (8192 + leAt img 16 4)) } := by
  unfold State.writeSlot
  rw [he]
  rfl

/-- What the write of an image without a fault leaves (R603). -/
theorem writeSlot_result (hf : FlashWf s.flash) {k : Nat} {img : List Byte} (h : s.imageFault k img = 0) :
    ∃ e, s.entryOf (slotKind k) = some e ∧ (s.writeSlot k img).regs = s.regs
      ∧ (∀ x b, (img.take (8192 + leAt img 16 4))[x]? = some b → Table.get (fun _ => 0xFF) (s.writeSlot k img).flash (e.1 + x) = b)
      ∧ (∀ x, 8192 + leAt img 16 4 ≤ x → x < s.slotSize k → Table.get (fun _ => 0xFF) (s.writeSlot k img).flash (e.1 + x) = 0xFF)
      ∧ ∀ x, x < e.1 ∨ e.1 + s.slotSize k ≤ x → Table.get (fun _ => 0xFF) (s.writeSlot k img).flash x = Table.get (fun _ => 0xFF) s.flash x := by
  obtain ⟨hfit, hwhole, e, he⟩ := imageFault_zero h
  have hwf : FlashWf (erasedFlash s.flash e.1 (e.1 + s.slotSize k)) := Table.wf_filter hf _
  have hlen : (img.take (8192 + leAt img 16 4)).length = 8192 + leAt img 16 4 := by
    rw [List.length_take]
    omega
  refine ⟨e, he, ?_⟩
  rw [writeSlot_flash he]
  refine ⟨rfl, fun x b hb => programFlash_inside hwf _ hb, fun x hlo hhi => ?_, fun x hx => ?_⟩
  · have hplace : e.1 + (img.take (8192 + leAt img 16 4)).length ≤ e.1 + x := by omega
    refine (programFlash_outside hwf e.1 _ (Or.inr hplace)).trans ?_
    rw [erasedFlash, get_erased hf, if_neg (by omega)]
  · have hplace : x < e.1 ∨ e.1 + (img.take (8192 + leAt img 16 4)).length ≤ x := by omega
    refine (programFlash_outside hwf e.1 _ hplace).trans ?_
    rw [erasedFlash, get_erased hf, if_pos hx]

theorem begun_slotBusy (op k : Nat) : (begun op p s).slotBusy k = s.slotBusy k := rfl
theorem begun_nextRecord (op : Nat) : (begun op p s).nextRecord = s.nextRecord := rfl
theorem begun_activation (op k mode n : Nat) : (begun op p s).activation k mode n = s.activation k mode n := rfl

theorem begun_entryOf (op kind : Nat) : (begun op p s).entryOf kind = s.entryOf kind := by
  have hbytes : ∀ x n, (begun op p s).flashBytes x n = s.flashBytes x n := fun _ _ => rfl
  have hdir : (begun op p s).directory = s.directory := by
    unfold State.directory
    rw [hbytes, hbytes]
  unfold State.entryOf
  rw [hdir]

theorem begun_slotSize (op k : Nat) : (begun op p s).slotSize k = s.slotSize k := by
  unfold State.slotSize
  rw [begun_entryOf]

theorem begun_slotImage (op k : Nat) : (begun op p s).slotImage k = s.slotImage k := by
  have hbytes : ∀ x n, (begun op p s).flashBytes x n = s.flashBytes x n := fun _ _ => rfl
  unfold State.slotImage
  simp only [begun_entryOf, begun_slotSize, hbytes]

theorem begun_imageFault (op k : Nat) (img : List Byte) : (begun op p s).imageFault k img = s.imageFault k img := by
  have hmin : ∀ n, (begun op p s).svnMin n = s.svnMin n := fun _ => rfl
  have hfuses : (begun op p s).fuses = s.fuses := rfl
  unfold State.imageFault
  rw [begun_slotSize, hmin, hfuses]

theorem begun_slotFault (op k : Nat) : (begun op p s).slotFault k = s.slotFault k := by
  unfold State.slotFault
  rw [begun_entryOf, begun_slotImage, begun_imageFault]

theorem begun_slotValid (op k : Nat) : (begun op p s).slotValid k = s.slotValid k := by
  rw [State.slotValid, begun_slotFault, State.slotValid]

/-- The checks of FW_IMAGE_WRITE before the image itself is looked at. -/
def imageChecks (a : Args) (p : Packet) (s : State) : List (Bool × Status) :=
  [(a.bad || decide (3 < a.n 0), .paramInvalid)] ++ dmaChecks s p (a.n 1) false 0

/-- The checks of FW_IMAGE_WRITE that look at the slot and at the image. -/
def slotChecks (a : Args) (p : Packet) (s : State) : List (Bool × Status) :=
  [(s.slotBusy (a.n 0), .busy), (p.dmaFault, .dmaFault), (s.imageFault (a.n 0) (slice p.dma 0 (dmaLen (a.n 1))) != 0, .imageInvalid)]

theorem imageChecks_pass (hbad : a.bad = false) (hk : a.n 0 ≤ 3) (hdma : firstFail (dmaChecks s p (a.n 1) false 0) = none) :
    firstFail (imageChecks a p s) = none := by
  have hfirst : firstFail [(a.bad || decide (3 < a.n 0), Status.paramInvalid)] = none := by
    rw [hbad, decide_eq_false (Nat.not_lt.2 hk)]
    rfl
  unfold imageChecks
  rw [firstFail_append hfirst, hdma]

theorem fwImageWrite_completes (hacc : Accepts 0x0C00 p s) (ha : readParams 0x0C00 p.params = a) (hpass : firstFail (imageChecks a p s) = none)
    (hbusy : s.slotBusy (a.n 0) = false) (hfault : p.dmaFault = false) :
    (s.imageFault (a.n 0) (slice p.dma 0 (dmaLen (a.n 1))) ≠ 0 → Completes (.fwImageWrite p) 0x0C00 p s (begun 0x0C00 p s) .imageInvalid [])
    ∧ (s.imageFault (a.n 0) (slice p.dma 0 (dmaLen (a.n 1))) = 0 → ∀ t, t = (begun 0x0C00 p s).writeSlot (a.n 0) (slice p.dma 0 (dmaLen (a.n 1))) →
      Completes (.fwImageWrite p) 0x0C00 p s t (if t.slotValid (a.n 0) then .ok else .imageInvalid) []) := by
  subst ha
  have hpass' : firstFail (imageChecks (readParams 0x0C00 p.params) p (begun 0x0C00 p s)) = none := hpass
  rw [← begun_imageFault 0x0C00]
  rw [← begun_slotBusy 0x0C00] at hbusy
  have hexec : exec (.fwImageWrite p) s = execFwImageWrite p s := rfl
  constructor
  · intro h0
    have hlast : firstFail (slotChecks (readParams 0x0C00 p.params) p (begun 0x0C00 p s)) = some .imageInvalid := by
      rw [slotChecks, hbusy, hfault, bne_iff_ne.2 h0]
      rfl
    rw [Completes, hexec]
    unfold execFwImageWrite
    refine completes_of_checks (checks := []) hacc rfl ?_
    exact (guarded_of_some _ ((firstFail_append hpass').trans hlast) _).trans rfl
  · intro h0 t ht
    have hall : firstFail (imageChecks (readParams 0x0C00 p.params) p (begun 0x0C00 p s) ++ slotChecks (readParams 0x0C00 p.params) p (begun 0x0C00 p s)) = none := by
      rw [firstFail_append hpass', slotChecks, hbusy, hfault, h0]
      rfl
    rw [Completes, hexec]
    unfold execFwImageWrite
    refine completes_of_checks hacc hall ?_
    subst ht
    dsimp only
    split
    · rfl
    · rfl

/-! ### FW_ACTIVATE (R597, R600, R604) -/

/-- The checks of FW_ACTIVATE. -/
def activateChecks (a : Args) (s : State) : List (Bool × Status) :=
  [ (a.bad || decide (3 < a.n 0) || decide (3 < a.n 1) || (a.n 1 == 0 && (decide (a.n 2 < 10) || decide (3600 < a.n 2))), .paramInvalid),
    (decide (2 ≤ a.n 0) && a.n 1 != 3, .protLocked),
    (a.n 1 == 0 && (s.runningSlot == some (a.n 0) || s.nextRecord.trial), .busy),
    ((a.n 1 == 1 || a.n 1 == 2) && (!s.nextRecord.trial || s.nextRecord.active != a.n 0), .paramInvalid),
    ((a.n 1 == 0 || a.n 1 == 3) && !s.slotValid (a.n 0), .imageInvalid), (s.ksFaulted, .ksFault) ]

theorem activateChecks_pass (hbad : a.bad = false) (hk : a.n 0 ≤ 3) (hm : a.n 1 ≤ 3) (hboot : a.n 0 < 2 ∨ a.n 1 = 3)
    (htrial : a.n 1 = 0 → 10 ≤ a.n 2 ∧ a.n 2 ≤ 3600 ∧ s.runningSlot ≠ some (a.n 0) ∧ s.nextRecord.trial = false)
    (hend : a.n 1 = 1 ∨ a.n 1 = 2 → s.nextRecord.trial = true ∧ s.nextRecord.active = a.n 0)
    (hvalid : a.n 1 = 0 ∨ a.n 1 = 3 → s.slotValid (a.n 0) = true) (hok : s.ksFaulted = false) : firstFail (activateChecks a s) = none := by
  refine firstFail_of_all_false fun c hc => ?_
  simp only [activateChecks, List.mem_cons, List.not_mem_nil, or_false] at hc
  rcases hc with rfl | rfl | rfl | rfl | rfl | rfl
  · simp only [hbad, Bool.false_or, Bool.or_eq_false_iff, decide_eq_false_iff_not, Bool.and_eq_false_imp, beq_iff_eq]
    exact ⟨⟨by omega, by omega⟩, fun h0 => ⟨by have := htrial h0; omega, by have := htrial h0; omega⟩⟩
  · simp only [Bool.and_eq_false_imp, decide_eq_true_eq, bne_eq_false_iff_eq]
    omega
  · simp only [Bool.and_eq_false_imp, beq_iff_eq, Bool.or_eq_false_iff, beq_eq_false_iff_ne]
    exact fun h0 => (htrial h0).2.2
  · simp only [Bool.and_eq_false_imp, Bool.or_eq_true, beq_iff_eq, Bool.or_eq_false_iff, Bool.not_eq_false', bne_eq_false_iff_eq]
    exact hend
  · simp only [Bool.and_eq_false_imp, Bool.or_eq_true, beq_iff_eq, Bool.not_eq_false']
    exact hvalid
  · exact hok

theorem begun_activateChecks (op : Nat) : activateChecks a (begun op p s) = activateChecks a s := by
  have hrunning : (begun op p s).runningSlot = s.runningSlot := rfl
  unfold activateChecks
  rw [hrunning, begun_nextRecord, begun_slotValid, begun_ksFaulted]

/-- A trial begins with no start counted; the other modes leave the count. -/
def State.forMode (s : State) (mode : Nat) : State := if mode = 0 then { s with boot := { s.boot with trialStarts := 0 } } else s

theorem forMode_frame (s : State) (mode : Nat) : (s.forMode mode).ks = s.ks ∧ (s.forMode mode).regs = s.regs ∧ (s.forMode mode).tab = s.tab
    ∧ (s.forMode mode).pkts = s.pkts ∧ (mode = 0 → (s.forMode mode).boot.trialStarts = 0) := by
  unfold State.forMode
  split
  next h => exact ⟨rfl, rfl, rfl, rfl, fun _ => rfl⟩
  next h => exact ⟨rfl, rfl, rfl, rfl, fun h0 => absurd h0 h⟩

theorem fwActivate_checked (hacc : Accepts 0x0C01 p s) (ha : readParams 0x0C01 p.params = a) (hpass : firstFail (activateChecks a s) = none) :
    (s.energyFor 64 = true → exec (.fwActivate p) s
      = .next (((begun 0x0C01 p s).forMode (a.n 1)).sessionOpened 0x0C01 p (s.activation (a.n 0) (a.n 1) (a.n 2))))
    ∧ (s.energyFor 64 = false → Completes (.fwActivate p) 0x0C01 p s ((begun 0x0C01 p s).count .ksRefuseCnt 0 1) .holdupLow []) := by
  subst ha
  rw [← begun_activateChecks 0x0C01] at hpass
  have hexec : exec (.fwActivate p) s = execFwActivate p s := rfl
  rw [Completes, hexec]
  unfold execFwActivate
  rw [← begun_energyFor 0x0C01 p, ← begun_activation 0x0C01]
  refine ⟨fun he => deferred_of_checks (e := .ok) (ps := []) hacc hpass ?_, fun he => completes_of_checks hacc hpass ?_⟩
  · have henergy : ((begun 0x0C01 p s).forMode ((readParams 0x0C01 p.params).n 1)).energyFor 64 = true := by
      unfold State.forMode
      split
      · exact he
      · exact he
    dsimp only
    rw [if_pos he, ← State.forMode, sessionCommand_opens henergy]
    rfl
  · dsimp only
    rw [if_neg (by rw [he]; exact Bool.false_ne_true), sessionCommand_refuses he]
    rfl

/-- The boot record that an activation writes, by its mode (R597, R600, R604). -/
theorem activation_record (s : State) (k mode n : Nat) : ∃ b sw c, s.activation k mode n = .bootRecord b sw c
    ∧ (mode = 0 → b.active = k ∧ b.trial = true ∧ b.deadline = s.tick.slot + n * Config.slotsPerSec ∧ sw = some (k, 4))
    ∧ (mode = 1 → b = { s.nextRecord with trial := false } ∧ sw = none ∧ c = some k)
    ∧ (mode = 2 → b.active = s.nextRecord.prev ∧ b.trial = false ∧ sw = some (s.nextRecord.prev, 5))
    ∧ (mode = 3 → b.active = s.nextRecord.active ∧ sw = none ∧ c = none) := by
  match mode with
  | 0 => exact ⟨_, _, _, rfl, fun _ => ⟨rfl, rfl, rfl, rfl⟩, fun h => absurd h (by decide), fun h => absurd h (by decide), fun h => absurd h (by decide)⟩
  | 1 => exact ⟨_, _, _, rfl, fun h => absurd h (by decide), fun _ => ⟨rfl, rfl, rfl⟩, fun h => absurd h (by decide), fun h => absurd h (by decide)⟩
  | 2 => exact ⟨_, _, _, rfl, fun h => absurd h (by decide), fun h => absurd h (by decide), fun _ => ⟨rfl, rfl, rfl⟩, fun h => absurd h (by decide)⟩
  | m + 3 =>
    refine ⟨_, _, _, rfl, fun h => absurd h (by omega), fun h => absurd h (by omega), fun h => absurd h (by omega), fun _ => ⟨?_, rfl, rfl⟩⟩
    split
    · rfl
    · rfl

/-! ### FW_STATUS_GET and PROT_STATUS_GET (R605) -/

/-- A slot as FW_STATUS_GET answers it. -/
def State.slotFields (s : State) (k : Nat) : List (Ty × Nat) :=
  [ (Ty.u 8, s.slotFault k), (.u 8, slotType k), (.u 32, s.slotSvn k), (.u 32, s.slotBuild k), (.u 16, (s.slotProto k).1), (.u 16, (s.slotProto k).2) ]

/-- The running slots, the boot record and the minima as FW_STATUS_GET answers them. -/
def State.bootFields (s : State) (r : BootRec) : List (Ty × Nat) :=
  [ (.u 8, 2 + s.fld F.protBoot_BOOT_SLOT 0), (.u 8, s.fld F.protBoot_FW_SLOT 0), (.u 8, r.active), (.u 8, r.prev), (.flag, b2n r.trial),
    (.u 64, r.deadline), (.u 8, s.boot.trialStarts), (.u 8, s.fuses.svnMinBoot), (.u 8, s.fuses.svnMinFw), (.u 32, (s.reg .protBoot 0).toNat) ]

/-- The answer of FW_STATUS_GET. -/
def State.fwFields (s : State) : List (Ty × Nat) := (List.range 4).flatMap s.slotFields ++ s.bootFields (s.ks.bootRec.getD {})

theorem fwStatusGet_completes (hacc : Accepts 0x0C02 p s) :
    Completes (.fwStatusGet p) 0x0C02 p s (begun 0x0C02 p s) .ok (emitBlock (begun 0x0C02 p s).fwFields) := by
  change execFwStatusGet p s = _
  unfold execFwStatusGet
  exact completes_of_checks (checks := []) hacc rfl rfl

/-- The types of the fields of FW_STATUS_GET's answer. -/
def fwTypes : List Ty :=
  (List.replicate 4 [Ty.u 8, .u 8, .u 32, .u 32, .u 16, .u 16]).flatten ++ [.u 8, .u 8, .u 8, .u 8, .flag, .u 64, .u 8, .u 8, .u 8, .u 32]

theorem fwFields_types (s : State) : s.fwFields.map Prod.fst = fwTypes ++ [] := rfl

theorem imageFault_le (k : Nat) (img : List Byte) : s.imageFault k img ≤ 4 := by
  unfold State.imageFault
  dsimp only
  repeat' split
  all_goals decide

theorem slotFault_le (k : Nat) : s.slotFault k ≤ 4 := by
  unfold State.slotFault
  split
  · decide
  · exact imageFault_le k _

theorem slotType_lt (k : Nat) : slotType k < 256 := by
  unfold slotType
  split <;> decide

/-- A number read from `n` bytes is below 256^n. -/
theorem leAt_lt_pow (bs : List Byte) (x n : Nat) : leAt bs x n < 256 ^ n := by
  rw [leAt]
  refine (leNat_lt _).trans_eq ?_
  rw [slice, List.length_append, List.length_replicate, List.length_take]
  congr 1
  omega

/-- What an image's header names fits its fields. -/
theorem slot_header_lt (s : State) (k : Nat) : s.slotSvn k < 256 ^ 4 ∧ s.slotBuild k < 256 ^ 4 ∧ (s.slotProto k).1 < 256 ^ 2 ∧ (s.slotProto k).2 < 256 ^ 2 := by
  unfold State.slotSvn State.slotBuild State.slotProto
  dsimp only
  generalize s.slotImage k = img
  exact ⟨leAt_lt_pow _ 8 4, leAt_lt_pow _ 12 4, leAt_lt_pow _ 24 2, leAt_lt_pow _ 26 2⟩

theorem begun_header (op k : Nat) : (begun op p s).slotSvn k = s.slotSvn k ∧ (begun op p s).slotBuild k = s.slotBuild k
    ∧ (begun op p s).slotProto k = s.slotProto k := by
  unfold State.slotSvn State.slotBuild State.slotProto
  rw [begun_slotImage]
  exact ⟨rfl, rfl, rfl⟩

/-- Where the fields of a slot stand in the answer. -/
theorem fwFields_slot (s : State) {k : Nat} (hk : k < 4) : s.fwFields[6 * k]? = some (.u 8, s.slotFault k) ∧ s.fwFields[6 * k + 1]? = some (.u 8, slotType k)
    ∧ s.fwFields[6 * k + 2]? = some (.u 32, s.slotSvn k) ∧ s.fwFields[6 * k + 3]? = some (.u 32, s.slotBuild k)
    ∧ s.fwFields[6 * k + 4]? = some (.u 16, (s.slotProto k).1) ∧ s.fwFields[6 * k + 5]? = some (.u 16, (s.slotProto k).2) := by
  interval_cases k
  all_goals exact ⟨rfl, rfl, rfl, rfl, rfl, rfl⟩

theorem leAt_slotFields (s : State) {k : Nat} (hk : k < 4) : leAt (emitBlock s.fwFields) (16 * k) 1 = s.slotFault k
    ∧ leAt (emitBlock s.fwFields) (16 * k + 1) 1 = slotType k ∧ leAt (emitBlock s.fwFields) (16 * k + 4) 4 = s.slotSvn k
    ∧ leAt (emitBlock s.fwFields) (16 * k + 8) 4 = s.slotBuild k ∧ leAt (emitBlock s.fwFields) (16 * k + 12) 2 = (s.slotProto k).1
    ∧ leAt (emitBlock s.fwFields) (16 * k + 14) 2 = (s.slotProto k).2 := by
  have hts := fwFields_types s
  have hle : ∀ n v, (Ty.u n).encode v = leBytes (Ty.u n).size v := fun _ _ => rfl
  obtain ⟨g0, g1, g2, g3, g4, g5⟩ := fwFields_slot s hk
  have hpos : ∀ k, k < 4 → (fieldAt fwTypes (6 * k) 0 = 16 * k ∧ 6 * k < fwTypes.length) ∧ (fieldAt fwTypes (6 * k + 1) 0 = 16 * k + 1 ∧ 6 * k + 1 < fwTypes.length)
      ∧ (fieldAt fwTypes (6 * k + 2) 0 = 16 * k + 4 ∧ 6 * k + 2 < fwTypes.length) ∧ (fieldAt fwTypes (6 * k + 3) 0 = 16 * k + 8 ∧ 6 * k + 3 < fwTypes.length)
      ∧ (fieldAt fwTypes (6 * k + 4) 0 = 16 * k + 12 ∧ 6 * k + 4 < fwTypes.length) ∧ (fieldAt fwTypes (6 * k + 5) 0 = 16 * k + 14 ∧ 6 * k + 5 < fwTypes.length) := by decide
  obtain ⟨h0, h1, h2, h3, h4, h5⟩ := hpos k hk
  obtain ⟨hsvn, hbuild, hmin, hmax⟩ := slot_header_lt s k
  refine ⟨?_, ?_, ?_, ?_, ?_, ?_⟩
  · exact (leAt_emitBlock hts g0 h0 rfl (hle _ _)).trans (Nat.mod_eq_of_lt (lt_of_le_of_lt (slotFault_le k) (by decide)))
  · exact (leAt_emitBlock hts g1 h1 rfl (hle _ _)).trans (Nat.mod_eq_of_lt (slotType_lt k))
  · exact (leAt_emitBlock hts g2 h2 rfl (hle _ _)).trans (Nat.mod_eq_of_lt hsvn)
  · exact (leAt_emitBlock hts g3 h3 rfl (hle _ _)).trans (Nat.mod_eq_of_lt hbuild)
  · exact (leAt_emitBlock hts g4 h4 rfl (hle _ _)).trans (Nat.mod_eq_of_lt hmin)
  · exact (leAt_emitBlock hts g5 h5 rfl (hle _ _)).trans (Nat.mod_eq_of_lt hmax)

theorem leAt_bootFields (s : State) {r : BootRec} (hr : r = s.ks.bootRec.getD {}) : leAt (emitBlock s.fwFields) 64 1 = 2 + s.fld F.protBoot_BOOT_SLOT 0
    ∧ leAt (emitBlock s.fwFields) 65 1 = s.fld F.protBoot_FW_SLOT 0 ∧ leAt (emitBlock s.fwFields) 66 1 = r.active % 256
    ∧ leAt (emitBlock s.fwFields) 67 1 = r.prev % 256 ∧ leAt (emitBlock s.fwFields) 68 1 = b2n r.trial
    ∧ leAt (emitBlock s.fwFields) 72 8 = r.deadline % 2 ^ 64 ∧ leAt (emitBlock s.fwFields) 84 4 = (s.reg .protBoot 0).toNat := by
  subst hr
  have hts := fwFields_types s
  have hslot : s.fld F.protBoot_BOOT_SLOT 0 < 2 := fld_lt _ _ _
  refine ⟨?_, ?_, ?_, ?_, ?_, ?_, ?_⟩
  · exact (leAt_emitBlock hts (k := 24) rfl (by decide) rfl rfl).trans (Nat.mod_eq_of_lt (show _ < 256 by omega))
  · exact (leAt_emitBlock hts (k := 25) rfl (by decide) rfl rfl).trans (fld_mod_lt _ _ _ (by decide))
  · exact leAt_emitBlock hts (k := 26) rfl (by decide) rfl rfl
  · exact leAt_emitBlock hts (k := 27) rfl (by decide) rfl rfl
  · exact (leAt_emitBlock hts (k := 28) rfl (by decide) rfl rfl).trans (b2n_mod_byte _)
  · exact leAt_emitBlock hts (k := 29) rfl (by decide) rfl rfl
  · exact (leAt_emitBlock hts (k := 33) rfl (by decide) rfl rfl).trans (Nat.mod_eq_of_lt (s.reg .protBoot 0).isLt)

/-- The bytes of the PROT registers and bindings. -/
def State.protBytes (s : State) : List Byte := protWords.flatMap fun r => leBytes 4 (s.reg r.1 r.2).toNat

theorem protBytes_length : 496 ≤ s.protBytes.length := by
  have hwords : protWords.length = 328 := by decide +kernel
  rw [State.protBytes, List.length_flatMap]
  simp only [leBytes_length, List.map_const', List.sum_replicate, hwords]
  decide

theorem protStatusGet_inline (hacc : Accepts 0x0C03 p s) (hnone : p.params = []) :
    Completes (.protStatusGet p) 0x0C03 p s (begun 0x0C03 p s) .ok (s.protBytes.take 496) := by
  change execProtStatusGet p s = _
  unfold execProtStatusGet
  refine completes_of_checks (checks := []) hacc rfl ?_
  dsimp only
  rw [if_pos (List.isEmpty_iff.2 hnone)]
  rfl

theorem protStatusGet_buffered (hacc : Accepts 0x0C03 p s) (ha : readParams 0x0C03 p.params = a) (hsome : p.params ≠ [])
    (hdma : firstFail (dmaChecks s p (a.n 0) true s.protBytes.length) = none) (hfault : p.dmaFault = false) :
    Completes (.protStatusGet p) 0x0C03 p s ((begun 0x0C03 p s).emit (.hostWrite (dmaAddr (a.n 0)) s.protBytes)) .ok (emitBlock []) := by
  subst ha
  have hpass : firstFail (dmaChecks (begun 0x0C03 p s) p ((readParams 0x0C03 p.params).n 0) true s.protBytes.length) = none := hdma
  change execProtStatusGet p s = _
  unfold execProtStatusGet
  refine completes_of_checks hacc hpass ?_
  dsimp only
  rw [if_neg (fun hempty => hsome (List.isEmpty_iff.1 hempty)), dmaWrite, hfault, if_neg Bool.false_ne_true]
  rfl

end

/-- Settles O55: an image is written only without a fault, an activation opens the session of its record, and the reports' fields lie at their offsets. -/
theorem firmwarePacketsAnswer : Obligations.FirmwarePacketsAnswer := by
  unfold Obligations.FirmwarePacketsAnswer
  refine ⟨?image, ?activate, ?status, ?prot⟩
  case image =>
    rintro p a _ _ s hf hacc ha hbad rfl hk hdma hbusy hfault rfl
    obtain ⟨hfaulty, hgood⟩ := fwImageWrite_completes hacc ha (imageChecks_pass hbad hk hdma) hbusy hfault
    refine ⟨hfaulty, fun h0 => ?_⟩
    obtain ⟨e, he, hregs, hin, herased, hout⟩ := writeSlot_result (s := begun 0x0C00 p s) hf ((begun_imageFault _ _ _).trans h0)
    rw [begun_entryOf] at he
    rw [begun_slotSize] at herased hout
    exact ⟨_, e, hgood h0 _ rfl, he, hregs, hin, herased, hout⟩
  case activate =>
    rintro p a _ _ _ s h hacc ha hbad rfl rfl rfl hk hm hboot htrial hend hvalid hok
    obtain ⟨hopens, hrefuses⟩ := fwActivate_checked hacc ha (activateChecks_pass hbad hk hm hboot htrial hend hvalid hok)
    refine ⟨fun he => ?_, fun he => ⟨_, hrefuses he, rfl, rfl, rfl, rfl⟩⟩
    obtain ⟨b, sw, c, hrec, h0, h1, h2, h3⟩ := activation_record s (a.n 0) (a.n 1) (a.n 2)
    obtain ⟨hks, hregs, htab, hpkts, hstarts⟩ := forMode_frame (begun 0x0C01 p s) (a.n 1)
    have hwf : RegsWf ((begun 0x0C01 p s).forMode (a.n 1)) := by
      rw [RegsWf, hregs]
      exact h.regs
    have hopened := sessionOpened_awaits hwf 0x0C01 p (s.activation (a.n 0) (a.n 1) (a.n 2))
    refine ⟨_, b, sw, c, hopens he, ?_, hopened.flag, ?_, ?_, ?_, h1, h2, h3, ?_⟩
    · rw [hopened.sessions, hks, hrec]
      rfl
    · rw [hopened.jobs, htab]
      rfl
    · rw [hopened.replies, hpkts]
      rfl
    · intro hmode
      obtain ⟨hactive, hon, hdeadline, hsw⟩ := h0 hmode
      refine ⟨hactive, hon, hdeadline, hsw, ?_⟩
      rw [hopened.boot]
      exact hstarts hmode
    · intro x i hx
      rw [hopened.regs x i hx, State.reg, hregs]
      rfl
  case status =>
    intro p r s hacc hr
    obtain ⟨hboot, hfw, hactive, hprev, htrial, hdeadline, hreg⟩ := leAt_bootFields (begun 0x0C02 p s) hr
    refine ⟨_, fwStatusGet_completes hacc, fun k hk => ?_, hboot, hfw, hactive, hprev, htrial, hdeadline, hreg⟩
    have hslot := leAt_slotFields (begun 0x0C02 p s) hk
    obtain ⟨hsvn, hbuild, hproto⟩ := begun_header (s := s) (p := p) 0x0C02 k
    rw [begun_slotFault, hsvn, hbuild, hproto] at hslot
    exact hslot
  case prot =>
    intro p a bytes s hacc ha hbytes
    obtain rfl : bytes = s.protBytes := hbytes
    refine ⟨fun hnone => ⟨_, protStatusGet_inline hacc hnone, rfl, ?_⟩, fun hsome hdma hfault => protStatusGet_buffered hacc ha hsome hdma hfault⟩
    rw [List.length_take]
    exact Nat.min_eq_left protBytes_length

end Sys2Proof.Machine

/-! Packets of the lanes (O50): the Cemond records, eye scans, LANE_TEST_SET and LANE_STATUS_GET. -/

namespace Sys2Proof.Machine
open Sys2Proof

section
variable {s t : State} {p : Packet} {a : Args}

/-! ### The working table and the shadow of a lane (R385, R396, R400) -/

theorem setShadow_lanes (s : State) (l : Nat) (ws : List Nat) : (s.setShadow l ws).lanes = s.lanes := by
  unfold State.setShadow
  simp only [setReg_lanes]
theorem setLane_cemond (s : State) (l : Nat) (x : LaneSt) : (s.setLane l x).lanes.cemond = s.lanes.cemond := rfl
theorem setLane_regs (s : State) (l : Nat) (x : LaneSt) : (s.setLane l x).regs = s.regs := rfl
theorem commitLane_cemond (s : State) (l : Nat) : (s.commitLane l).lanes.cemond = s.lanes.cemond := rfl

theorem setShadow_wf (h : RegsWf s) (l : Nat) (ws : List Nat) : RegsWf (s.setShadow l ws) :=
  wf_setReg (wf_setReg (wf_setReg (wf_setReg (wf_setReg (wf_setReg h _ _ _) _ _ _) _ _ _) _ _ _) _ _ _) _ _ _

/-- Words put into register instances, one after the other. -/
def State.putCells (s : State) (l : List ((Reg × Nat) × Word)) : State := l.foldl (fun s e => s.setReg e.1.1 e.1.2 e.2) s

theorem putCells_frame (l : List ((Reg × Nat) × Word)) {s : State} (h : RegsWf s) : RegsWf (s.putCells l)
    ∧ ∀ r i, (r, i) ∉ l.map Prod.fst → (s.putCells l).reg r i = s.reg r i := by
  induction l generalizing s with
  | nil => exact ⟨h, fun _ _ _ => rfl⟩
  | cons e l ih =>
    obtain ⟨hwf, hreg⟩ := ih (wf_setReg h e.1.1 e.1.2 e.2)
    refine ⟨hwf, fun r i hnot => ?_⟩
    rw [List.map_cons, List.mem_cons, not_or] at hnot
    exact (hreg r i hnot.2).trans (reg_setReg_ne h _ fun hk => hnot.1 (Prod.ext hk.1 hk.2))

/-- Of different instances each holds its word. -/
theorem reg_putCells {r : Reg} {i : Nat} {w : Word} {l : List ((Reg × Nat) × Word)} {s : State} (h : RegsWf s) (hl : (l.map Prod.fst).Nodup)
    (he : ((r, i), w) ∈ l) : (s.putCells l).reg r i = w := by
  induction l generalizing s with
  | nil => exact absurd he List.not_mem_nil
  | cons e l ih =>
    obtain ⟨hnot, hnodup⟩ := List.nodup_cons.1 hl
    rcases List.mem_cons.1 he with rfl | he
    · exact ((putCells_frame l (wf_setReg h r i w)).2 r i hnot).trans (reg_setReg_self h _ _ _)
    · exact ih (wf_setReg h e.1.1 e.1.2 e.2) hnodup he

theorem setShadow_eq (s : State) (l : Nat) (ws : List Nat) :
    s.setShadow l ws = s.putCells ((shadowRegs l).zip ((List.range 6).map fun k => word (ws.getD k 0))) := rfl

theorem shadowRegs_nodup (l : Nat) : (shadowRegs l).Nodup := by
  simp [shadowRegs]

/-- Six words stand in the shadow as they were written. -/
theorem laneShadow_setShadow (h : RegsWf s) (l : Nat) {ws : List Nat} (hlen : ws.length = 6) (hws : ∀ w ∈ ws, w < 2 ^ 32) :
    (s.setShadow l ws).laneShadow l = ws := by
  have hput : ∀ x w, (x, w) ∈ (shadowRegs l).zip ((List.range 6).map fun k => word (ws.getD k 0)) → (s.setShadow l ws).reg x.1 x.2 = w :=
    fun x w he => setShadow_eq s l ws ▸ reg_putCells h (by rw [List.map_fst_zip (by rfl)]; exact shadowRegs_nodup l) he
  unfold State.laneShadow
  refine List.ext_getElem (by rw [List.length_map, hlen]; rfl) fun k hk hk' => ?_
  have hregs : (shadowRegs l).length = 6 := rfl
  have hk6 : k < (shadowRegs l).length := by omega
  have hword := hput (shadowRegs l)[k] (word (ws.getD k 0)) (List.mem_iff_getElem.2 ⟨k, by simp; omega, by simp⟩)
  rw [List.getElem_map, hword, List.getD_eq_getElem _ _ hk', toNat_word (hws _ (List.getElem_mem hk'))]

/-- The words of a record fit their registers. -/
theorem recordWords_lt (r : List Byte) : (recordWords r).length = 6 ∧ ∀ w ∈ recordWords r, w < 2 ^ 32 := by
  have hword : ∀ x, leAt r x 4 < 2 ^ 32 := fun x => leAt_lt_pow r x 4
  have hbyte : ∀ x, leAt r x 1 < 256 := fun x => leAt_lt_pow r x 1
  refine ⟨rfl, fun w hw => ?_⟩
  simp only [recordWords, List.mem_cons, List.not_mem_nil, or_false] at hw
  rcases hw with rfl | rfl | rfl | rfl | rfl | rfl
  · exact hword 4
  · have h8 := hbyte 8
    omega
  · have h9 := hbyte 9
    have h10 := hbyte 10
    have h11 := hbyte 11
    omega
  · exact hword 12
  · exact hword 16
  · exact hword 20

theorem setRecord_cemond (s : State) (l : Nat) (r : List Byte) :
    (s.setRecord l r).lanes.cemond = Table.insert s.lanes.cemond (4 * l + leAt r 2 1) r := by
  unfold State.setRecord
  dsimp only
  split
  · rw [setLane_cemond, commitLane_cemond, setShadow_lanes]
  · rfl

theorem record?_setRecord (s : State) (l : Nat) (r : List Byte) : (s.setRecord l r).record? l (leAt r 2 1) = some r := by
  rw [State.record?, setRecord_cemond]
  exact OTable.get?_insert_self _ _ _

theorem record?_setRecord_ne (s : State) {l j k : Nat} {r : List Byte} (hrate : leAt r 2 1 < 4) (hk : k < 4) (hne : j ≠ l ∨ k ≠ leAt r 2 1) :
    (s.setRecord l r).record? j k = s.record? j k := by
  rw [State.record?, setRecord_cemond]
  exact OTable.get?_insert_ne _ _ (by omega)

/-- A lane that runs at the record's rate has its words put into the shadow and committed (R385). -/
theorem setRecord_commits (h : RegsWf s) {l : Nat} {r : List Byte} (hon : s.laneOn l = true) (hrate : s.fld F.lnRate_RATE l = leAt r 2 1) :
    (s.setRecord l r).laneShadow l = recordWords r ∧ (s.setRecord l r).flag F.lnCemCommit_COMMIT l = true := by
  obtain ⟨m, hm, hregs⟩ : ∃ m : State, (s.setRecord l r).regs = ((m.setShadow l (recordWords r)).setFld F.lnCemCommit_COMMIT l 1).regs
      ∧ m.regs = s.regs := by
    refine ⟨{ s with lanes := { s.lanes with cemond := Table.insert s.lanes.cemond (4 * l + leAt r 2 1) r } }, ?_, rfl⟩
    unfold State.setRecord
    dsimp only
    rw [if_pos]
    · rfl
    · rw [Bool.and_eq_true]
      exact ⟨hon, beq_iff_eq.2 hrate⟩
  have hwf : RegsWf m := by rw [RegsWf, hregs]; exact h
  have hshadow := laneShadow_setShadow hwf l (recordWords_lt r).1 (recordWords_lt r).2
  have hwf' := setShadow_wf hwf l (recordWords r)
  constructor
  · refine Eq.trans ?_ hshadow
    refine List.map_congr_left fun x hx => ?_
    rw [State.reg, hm]
    refine congrArg BitVec.toNat (reg_setFld_ne hwf' _ fun hk => ?_)
    simp only [shadowRegs, List.mem_cons, List.not_mem_nil, or_false] at hx
    rcases hx with rfl | rfl | rfl | rfl | rfl | rfl <;> exact Reg.noConfusion hk.1
  · have hflag := flag_setFld_one hwf' (f := F.lnCemCommit_COMMIT) (by decide) l
    rw [State.flag, State.fld, State.reg] at hflag ⊢
    rw [hm]
    exact hflag

theorem setRecord_regs {l : Nat} {r : List Byte} (hoff : s.laneOn l = false ∨ s.fld F.lnRate_RATE l ≠ leAt r 2 1) :
    (s.setRecord l r).regs = s.regs := by
  unfold State.setRecord
  dsimp only
  rw [if_neg]
  rw [Bool.and_eq_true, beq_iff_eq]
  rintro ⟨hon, hrate⟩
  rcases hoff with hoff | hoff
  · exact absurd (hon.symm.trans hoff) (by decide)
  · exact hoff hrate

theorem recordOk_rate {r : List Byte} (h : recordOk r = true) : leAt r 2 1 < 4 := by
  simp only [recordOk, Bool.and_eq_true, decide_eq_true_eq] at h
  omega

/-! ### CEMOND_SET, CEMOND_GET, CEMOND_LOAD (R396, R397) -/

theorem cemondSet_completes {r : List Byte} (hacc : Accepts 0x0800 p s) (ha : readParams 0x0800 p.params = a) (hbad : a.bad = false)
    (hlane : s.hasLane (a.n 0) = true) (hr : r = leBytes 32 (a.n 1)) (hnum : leAt r 0 2 = a.n 0) (hok : recordOk r = true) :
    Completes (.cemondSet p) 0x0800 p s ((begun 0x0800 p s).setRecord (a.n 0) r) .ok (emitBlock []) := by
  subst ha hr
  change execCemondSet p s = _
  unfold execCemondSet
  refine completes_of_checks hacc (firstFail_of_all_false ?_) rfl
  simp [hbad, hlane, hnum, hok]

theorem cemondGet_completes (hacc : Accepts 0x0801 p s) (ha : readParams 0x0801 p.params = a) (hbad : a.bad = false)
    (hlane : s.hasLane (a.n 0) = true) (hrate : a.n 1 ≤ 3) :
    (∀ r, s.record? (a.n 0) (a.n 1) = some r → Completes (.cemondGet p) 0x0801 p s (begun 0x0801 p s) .ok (emitBlock [(.wide 256, leNat r)]))
    ∧ (s.record? (a.n 0) (a.n 1) = none → Completes (.cemondGet p) 0x0801 p s (begun 0x0801 p s) .notFound []) := by
  subst ha
  have hrec : (begun 0x0801 p s).record? ((readParams 0x0801 p.params).n 0) ((readParams 0x0801 p.params).n 1)
      = s.record? ((readParams 0x0801 p.params).n 0) ((readParams 0x0801 p.params).n 1) := rfl
  have hexec : exec (.cemondGet p) s = execCemondGet p s := rfl
  have hpass : firstFail [(!(begun 0x0801 p s).hasLane ((readParams 0x0801 p.params).n 0), Status.resourceAbsent),
      ((readParams 0x0801 p.params).bad || decide (3 < (readParams 0x0801 p.params).n 1), .paramInvalid)] = none := by
    rw [begun_hasLane, hlane, hbad, decide_eq_false (Nat.not_lt.2 hrate)]
    rfl
  simp only [Completes, hexec]
  unfold execCemondGet
  refine ⟨fun r hr => completes_of_checks hacc hpass ?_, fun hnone => completes_of_checks hacc hpass ?_⟩
  · rw [hrec, hr]
    rfl
  · rw [hrec, hnone]
    rfl

/-- The records of a table that enter the working copy (R384, R397). -/
def State.goodRecords (s : State) (tab : List Byte) : List (List Byte) := (tableRecords tab).filter fun r => recordOk r && s.hasLane (leAt r 0 2)

theorem cemondLoad_completes (hacc : Accepts 0x0802 p s) (ha : readParams 0x0802 p.params = a) (hbad : a.bad = false)
    (hdma : firstFail (dmaChecks s p (a.n 0) false 16) = none) (hfault : p.dmaFault = false) (htab : tableOk p.dma (dmaLen (a.n 0)) = true) :
    Completes (.cemondLoad p) 0x0802 p s ((s.goodRecords p.dma).foldl (fun s r => s.setRecord (leAt r 0 2) r) (begun 0x0802 p s)) .ok
      (emitBlock [(.u 16, (s.goodRecords p.dma).length), (.u 16, leAt p.dma 6 2 - (s.goodRecords p.dma).length)]) := by
  subst ha
  have hpass : firstFail (dmaChecks (begun 0x0802 p s) p ((readParams 0x0802 p.params).n 0) false 16) = none := hdma
  change execCemondLoad p s = _
  unfold execCemondLoad
  refine completes_of_checks hacc hpass ?_
  dsimp only
  rw [hfault, if_neg Bool.false_ne_true, if_neg (by simp [hbad, htab])]
  rfl

/-- The record that was taken last stands in the table. -/
theorem record?_loaded (s : State) {good : List (List Byte)} {r : List Byte} (hlast : good.getLast? = some r) :
    (good.foldl (fun s r => s.setRecord (leAt r 0 2) r) s).record? (leAt r 0 2) (leAt r 2 1) = some r := by
  obtain ⟨before, rfl⟩ := List.getLast?_eq_some_iff.1 hlast
  rw [List.foldl_append]
  exact record?_setRecord _ _ _

/-! ### Eye scans (R398) -/

theorem eyeScanStart_completes {e : EyeScan} (hacc : Accepts 0x0803 p s) (ha : readParams 0x0803 p.params = a) (hbad : a.bad = false)
    (hlane : s.hasLane (a.n 0) = true) (heye : a.n 1 ≤ 2) (hph : -32 ≤ a.i 2 8 ∧ a.i 2 8 ≤ a.i 3 8 ∧ a.i 3 8 ≤ 31)
    (hv : -127 ≤ a.i 5 8 ∧ a.i 5 8 ≤ a.i 6 8 ∧ a.i 6 8 ≤ 127) (hsteps : a.n 4 ≠ 0 ∧ a.n 7 ≠ 0)
    (hwin : 16 ≤ a.n 8 ∧ a.n 8 ≤ 23 + s.fld F.lnRate_RATE (a.n 0)) (hidle : ∀ x, OTable.get? s.lanes.scans (a.n 0) = some x → x.running = false)
    (hlock : s.flag F.lnStat_LOCK (a.n 0) = true)
    (he : e = { eye := a.n 1, ph0 := a.i 2 8, ph1 := a.i 3 8, phStep := a.n 4, v0 := a.i 5 8, v1 := a.i 6 8, vStep := a.n 7, win := a.n 8
                start := s.epoch + 1 }) :
    Completes (.eyeScanStart p) 0x0803 p s (((begun 0x0803 p s).setScan (a.n 0) e).setReg .lnEscanCfg (a.n 0) (word (e.cfg true))) .ok
      (emitBlock []) := by
  subst ha he
  change execEyeScanStart p s = _
  unfold execEyeScanStart
  refine completes_of_checks hacc (firstFail_of_all_false ?_) rfl
  simp only [List.mem_cons, List.not_mem_nil, or_false, forall_eq_or_imp, forall_eq, Bool.or_eq_false_iff, decide_eq_false_iff_not,
    beq_eq_false_iff_ne, Bool.not_eq_false', begun_hasLane, begun_fld_eq, begun_flag_eq]
  refine ⟨hlane, ⟨⟨⟨⟨⟨⟨⟨⟨⟨⟨⟨hbad, by omega⟩, by omega⟩, by omega⟩, by omega⟩, by omega⟩, by omega⟩, by omega⟩, hsteps.1⟩, hsteps.2⟩, by omega⟩, ?_⟩,
    ?_, hlock⟩
  · exact decide_eq_false (Nat.not_lt.2 hwin.2)
  · split
    next x hx => exact hidle x hx
    next => rfl

/-- The points that a lane's scan has measured. -/
def State.eyePoints (s : State) (l : Nat) : List EyePoint := ((OTable.get? s.lanes.scans l).map (·.results)).getD []

theorem eyeScanGet_completes (hacc : Accepts 0x0804 p s) (ha : readParams 0x0804 p.params = a) (hbad : a.bad = false)
    (hlane : s.hasLane (a.n 0) = true) (hdma : firstFail (dmaChecks s p (a.n 1) true (16 * (s.eyePoints (a.n 0)).length)) = none)
    (hfault : p.dmaFault = false) :
    Completes (.eyeScanGet p) 0x0804 p s ((begun 0x0804 p s).emit (.hostWrite (dmaAddr (a.n 1)) ((s.eyePoints (a.n 0)).flatMap EyePoint.bytes))) .ok
      (emitBlock [(.u 32, (s.eyePoints (a.n 0)).length)]) := by
  subst ha
  have hlanes : (begun 0x0804 p s).lanes = s.lanes := rfl
  have hfirst : firstFail [(!(begun 0x0804 p s).hasLane ((readParams 0x0804 p.params).n 0), Status.resourceAbsent),
      ((readParams 0x0804 p.params).bad, .paramInvalid)] = none := by
    rw [begun_hasLane, hlane, hbad]
    rfl
  have hpass : firstFail ([(!(begun 0x0804 p s).hasLane ((readParams 0x0804 p.params).n 0), Status.resourceAbsent),
      ((readParams 0x0804 p.params).bad, .paramInvalid)] ++ dmaChecks (begun 0x0804 p s) p ((readParams 0x0804 p.params).n 1) true
        (16 * (s.eyePoints ((readParams 0x0804 p.params).n 0)).length)) = none := by
    rw [firstFail_append hfirst]
    exact hdma
  change execEyeScanGet p s = _
  unfold execEyeScanGet
  refine completes_of_checks hacc hpass ?_
  dsimp only
  rw [dmaWrite, hfault, if_neg Bool.false_ne_true, State.eyePoints, hlanes]
  cases OTable.get? s.lanes.scans ((readParams 0x0804 p.params).n 0) with
  | none => rfl
  | some e => rfl

theorem eyeScanStop_completes (hacc : Accepts 0x0805 p s) (ha : readParams 0x0805 p.params = a) (hbad : a.bad = false)
    (hlane : s.hasLane (a.n 0) = true) :
    (OTable.get? s.lanes.scans (a.n 0) = none → Completes (.eyeScanStop p) 0x0805 p s (begun 0x0805 p s) .ok (emitBlock []))
    ∧ ∀ e, OTable.get? s.lanes.scans (a.n 0) = some e → Completes (.eyeScanStop p) 0x0805 p s
        (((begun 0x0805 p s).setScan (a.n 0) { e with running := false }).setFld F.lnEscanCfg_EN (a.n 0) 0) .ok (emitBlock []) := by
  subst ha
  have hlanes : (begun 0x0805 p s).lanes = s.lanes := rfl
  have hexec : exec (.eyeScanStop p) s = execEyeScanStop p s := rfl
  have hpass : firstFail [(!(begun 0x0805 p s).hasLane ((readParams 0x0805 p.params).n 0), Status.resourceAbsent),
      ((readParams 0x0805 p.params).bad, .paramInvalid)] = none := by
    rw [begun_hasLane, hlane, hbad]
    rfl
  simp only [Completes, hexec]
  unfold execEyeScanStop
  refine ⟨fun hnone => completes_of_checks hacc hpass ?_, fun e he => completes_of_checks hacc hpass ?_⟩
  · dsimp only
    rw [hlanes, hnone]
    rfl
  · dsimp only
    rw [hlanes, he]
    rfl

/-! ### LANE_TEST_SET and LANE_STATUS_GET (R399) -/

theorem laneTestSet_completes (hacc : Accepts 0x0806 p s) (ha : readParams 0x0806 p.params = a) (hbad : a.bad = false)
    (hlane : s.hasLane (a.n 0) = true) (hgen : a.n 1 ≤ 2) (hchk : a.n 2 ≤ 2) (hoff : s.laneOn (a.n 0) = false) :
    Completes (.laneTestSet p) 0x0806 p s ((begun 0x0806 p s).setReg .lnTest (a.n 0) (word (a.n 3 * 256 + a.n 2 * 16 + a.n 1))) .ok (emitBlock []) := by
  subst ha
  have hoff' : (begun 0x0806 p s).laneOn ((readParams 0x0806 p.params).n 0) = false := hoff
  change execLaneTestSet p s = _
  unfold execLaneTestSet
  refine completes_of_checks hacc (firstFail_of_all_false ?_) rfl
  simp [hbad, hlane, hoff', Nat.not_lt.2 hgen, Nat.not_lt.2 hchk]

/-- The mask of the working records of a lane. -/
def recordMask (recs : List (Option (List Byte))) : Nat :=
  (recs.zipIdx.filter fun (e : Option (List Byte) × Nat) => e.1.isSome).foldl (fun m e => m + 2 ^ e.2) 0

/-- The mask has a bit for each record there is. -/
theorem recordMask_eq (r0 r1 r2 r3 : Option (List Byte)) :
    recordMask [r0, r1, r2, r3] = b2n r0.isSome + 2 * b2n r1.isSome + 4 * b2n r2.isSome + 8 * b2n r3.isSome := by
  cases r0 <;> cases r1 <;> cases r2 <;> cases r3 <;> rfl

theorem recordMask_testBit (r0 r1 r2 r3 : Option (List Byte)) : recordMask [r0, r1, r2, r3] < 256
    ∧ ∀ k r, [r0, r1, r2, r3][k]? = some r → (recordMask [r0, r1, r2, r3]).testBit k = r.isSome := by
  have hbits : ∀ b0 b1 b2 b3 : Bool, b2n b0 + 2 * b2n b1 + 4 * b2n b2 + 8 * b2n b3 < 256
      ∧ (b2n b0 + 2 * b2n b1 + 4 * b2n b2 + 8 * b2n b3).testBit 0 = b0 ∧ (b2n b0 + 2 * b2n b1 + 4 * b2n b2 + 8 * b2n b3).testBit 1 = b1
      ∧ (b2n b0 + 2 * b2n b1 + 4 * b2n b2 + 8 * b2n b3).testBit 2 = b2 ∧ (b2n b0 + 2 * b2n b1 + 4 * b2n b2 + 8 * b2n b3).testBit 3 = b3 := by
    decide
  obtain ⟨hlt, h0, h1, h2, h3⟩ := hbits r0.isSome r1.isSome r2.isSome r3.isSome
  rw [recordMask_eq]
  refine ⟨hlt, fun k r hk => ?_⟩
  match k, hk with
  | 0, hk => exact h0.trans (congrArg Option.isSome (Option.some.inj hk))
  | 1, hk => exact h1.trans (congrArg Option.isSome (Option.some.inj hk))
  | 2, hk => exact h2.trans (congrArg Option.isSome (Option.some.inj hk))
  | 3, hk => exact h3.trans (congrArg Option.isSome (Option.some.inj hk))

/-- The answer of LANE_STATUS_GET. -/
def State.laneFields (s : State) (l : Nat) : List (Ty × Nat) :=
  ((laneRegs l).map fun r => (Ty.u 32, (s.laneReg r.1 r.2).toNat)) ++ [(.u 8, recordMask ((List.range 4).map fun k => s.record? l k))]
    ++ ((List.range 4).map fun k => s.record? l k).map fun r => (Ty.wide 256, leNat (r.getD []))

theorem laneStatusGet_completes (hacc : Accepts 0x0807 p s) (ha : readParams 0x0807 p.params = a) (hbad : a.bad = false)
    (hlane : s.hasLane (a.n 0) = true) :
    Completes (.laneStatusGet p) 0x0807 p s (begun 0x0807 p s) .ok (emitBlock ((begun 0x0807 p s).laneFields (a.n 0))) := by
  subst ha
  change execLaneStatusGet p s = _
  unfold execLaneStatusGet
  refine completes_of_checks hacc (firstFail_of_all_false ?_) rfl
  simp [hbad, hlane]

/-- The types of the fields of LANE_STATUS_GET's answer. -/
def laneTypes : List Ty := List.replicate 20 (.u 32) ++ [.u 8] ++ List.replicate 4 (.wide 256)

theorem laneFields_types (s : State) (l : Nat) : (s.laneFields l).map Prod.fst = laneTypes ++ [] := rfl

/-- The bytes of a string are those of the number it spells. -/
theorem leBytes_leNat : ∀ bs : List Byte, leBytes bs.length (leNat bs) = bs
  | [] => rfl
  | b :: bs => by
    have hb := b.isLt
    have hdiv : (b.toNat + 256 * leNat bs) / 256 = leNat bs := by omega
    have hbyte : byte (b.toNat + 256 * leNat bs) = b := BitVec.eq_of_toNat_eq (by rw [byte, BitVec.toNat_ofNat]; omega)
    rw [List.length_cons, leBytes, leNat, hdiv, hbyte, leBytes_leNat bs]

/-- Bytes that read as the number of a string of their length are that string. -/
theorem slice_of_leAt {bs r : List Byte} {x : Nat} (h : leAt bs x r.length = leNat r) : slice bs x r.length = r := by
  have hlen : (slice bs x r.length).length = r.length := by
    rw [slice, List.length_append, List.length_replicate, List.length_take]
    omega
  rw [← leBytes_leNat (slice bs x r.length), hlen, ← leAt, h, leBytes_leNat]

theorem leAt_laneFields (s : State) (l : Nat) {ps : List Byte} (hps : ps = emitBlock (s.laneFields l)) :
    (∀ i r, (laneRegs l)[i]? = some r → leAt ps (4 * i) 4 = (s.laneReg r.1 r.2).toNat)
    ∧ ∀ k, k < 4 → (leAt ps 80 1).testBit k = (s.record? l k).isSome
      ∧ ∀ r, s.record? l k = some r → r.length = 32 → slice ps (88 + 32 * k) 32 = r := by
  subst hps
  have hts := laneFields_types s l
  have hlen : (laneRegs l).length = 20 := rfl
  constructor
  · intro i r hr
    have hi : i < 20 := by
      rw [← hlen]
      exact (List.getElem?_eq_some_iff.1 hr).1
    have hget : (s.laneFields l)[i]? = some (.u 32, (s.laneReg r.1 r.2).toNat) := by
      rw [State.laneFields, List.append_assoc, List.getElem?_append_left (by rw [List.length_map, hlen]; exact hi), List.getElem?_map, hr]
      rfl
    have hpos : ∀ i, i < 20 → fieldAt laneTypes i 0 = 4 * i ∧ i < laneTypes.length := by decide
    exact (leAt_emitBlock hts hget (hpos i hi) rfl rfl).trans (Nat.mod_eq_of_lt (s.laneReg r.1 r.2).isLt)
  · intro k hk
    obtain ⟨hmask, hbits⟩ := recordMask_testBit (s.record? l 0) (s.record? l 1) (s.record? l 2) (s.record? l 3)
    have hread : leAt (emitBlock (s.laneFields l)) 80 1 = recordMask [s.record? l 0, s.record? l 1, s.record? l 2, s.record? l 3] :=
      (leAt_emitBlock hts (k := 20) rfl (by decide) rfl rfl).trans (Nat.mod_eq_of_lt hmask)
    have hlist : [s.record? l 0, s.record? l 1, s.record? l 2, s.record? l 3][k]? = some (s.record? l k) := by
      interval_cases k <;> rfl
    refine ⟨by rw [hread, hbits k _ hlist], fun r hr hlong => ?_⟩
    have hget : (s.laneFields l)[21 + k]? = some (.wide 256, leNat r) := by
      rw [show leNat r = leNat ((s.record? l k).getD []) by rw [hr]; rfl]
      interval_cases k <;> rfl
    have hpos : ∀ k, k < 4 → fieldAt laneTypes (21 + k) 0 = 88 + 32 * k ∧ 21 + k < laneTypes.length := by decide
    have hnum : leAt (emitBlock (s.laneFields l)) (88 + 32 * k) r.length = leNat r := by
      have hlt := leNat_lt r
      rw [hlong] at hlt ⊢
      exact (leAt_emitBlock hts hget (hpos k hk) rfl rfl).trans (Nat.mod_eq_of_lt hlt)
    have hslice := slice_of_leAt hnum
    rwa [hlong] at hslice

end

/-- Settles O50: each packet passes its checks and leaves the record, scan or register that it names, and the answers' fields lie at their offsets. -/
theorem lanePacketsAnswer : Obligations.LanePacketsAnswer := by
  unfold Obligations.LanePacketsAnswer
  refine ⟨?set, ?get, ?load, ?start, ?points, ?stop, ?test, ?status⟩
  case set =>
    intro p a r s h hacc ha hbad hlane hr hnum hok
    refine ⟨_, cemondSet_completes hacc ha hbad hlane hr hnum hok, record?_setRecord _ _ _, fun l k hk hne => ?_, fun hon hrate => ?_, fun hoff => ?_⟩
    · exact record?_setRecord_ne _ (recordOk_rate hok) hk hne
    · exact setRecord_commits (s := begun 0x0800 p s) h.regs hon hrate
    · exact setRecord_regs (s := begun 0x0800 p s) hoff
  case get =>
    intro p a s hacc ha hbad hlane hrate
    exact cemondGet_completes hacc ha hbad hlane hrate
  case load =>
    intro p a good s hacc ha hbad hdma hfault htab hgood
    obtain rfl : good = s.goodRecords p.dma := hgood
    refine ⟨_, cemondLoad_completes hacc ha hbad hdma hfault htab, fun hnil => by rw [hnil]; rfl, fun r hlast => record?_loaded _ hlast⟩
  case start =>
    intro p a e s h hacc ha hbad hlane heye hp0 hp1 hp2 hv0 hv1 hv2 hstep hvstep hw0 hw1 hidle hlock he
    refine ⟨_, eyeScanStart_completes hacc ha hbad hlane heye ⟨hp0, hp1, hp2⟩ ⟨hv0, hv1, hv2⟩ ⟨hstep, hvstep⟩ ⟨hw0, hw1⟩ hidle hlock he, ?_, ?_, ?_⟩
    · exact OTable.get?_insert_self _ _ _
    · exact reg_setReg_self (s := (begun 0x0803 p s).setScan (a.n 0) e) h.regs _ _ _
    · exact fun r i hne => reg_setReg_ne (s := (begun 0x0803 p s).setScan (a.n 0) e) h.regs _ hne
  case points =>
    intro p a pts s hacc ha hbad hlane hpts hdma hfault
    obtain rfl : pts = s.eyePoints (a.n 0) := hpts
    exact eyeScanGet_completes hacc ha hbad hlane hdma hfault
  case stop =>
    intro p a s h hacc ha hbad hlane
    obtain ⟨hnone, hsome⟩ := eyeScanStop_completes hacc ha hbad hlane
    refine ⟨hnone, fun e he => ⟨_, hsome e he, ?_, ?_⟩⟩
    · rw [setFld_lanes]
      exact OTable.get?_insert_self _ _ _
    · exact flag_setFld_zero (s := (begun 0x0805 p s).setScan (a.n 0) { e with running := false }) h.regs (by decide) _
  case test =>
    intro p a s h hacc ha hbad hlane hgen hchk hoff
    have hlpbk : a.n 3 < 2 := by subst ha; exact readParams_flag_lt hbad rfl
    have hval := toNat_word (n := a.n 3 * 256 + a.n 2 * 16 + a.n 1) (by omega)
    have hw := reg_setReg_self (s := begun 0x0806 p s) h.regs .lnTest (a.n 0) (word (a.n 3 * 256 + a.n 2 * 16 + a.n 1))
    refine ⟨_, laneTestSet_completes hacc ha hbad hlane hgen hchk hoff, ?_, ?_, ?_, fun r i hne => ?_⟩
    · rw [fld_of_reg_eq (f := F.lnTest_GEN) hw, hval]
      dsimp only [F.lnTest_GEN]
      omega
    · rw [fld_of_reg_eq (f := F.lnTest_CHK) hw, hval]
      dsimp only [F.lnTest_CHK]
      omega
    · refine flag_of_bit (f := F.lnTest_LPBK) rfl hw ?_
      rw [hval, Args.f, ← Args.n, Nat.testBit_eq_decide_div_mod_eq]
      dsimp only [F.lnTest_LPBK]
      exact decide_eq_decide.2 (by omega)
    · exact reg_setReg_ne (s := begun 0x0806 p s) h.regs _ hne
  case status =>
    intro p a s hacc ha hbad hlane
    exact ⟨_, laneStatusGet_completes hacc ha hbad hlane, leAt_laneFields (begun 0x0807 p s) (a.n 0) rfl⟩

end Sys2Proof.Machine

/-! Lane settings, electrical idle, eye scans and the leg checks (O28). -/

namespace Sys2Proof.Machine
open Sys2Proof

section
variable {s t m : State} {l p : Nat}

/-! ### Lanes and lines as tables -/

/-- The lanes in canonical form. -/
abbrev LanesWf (s : State) : Prop := Table.wf (fun _ => ({} : LaneSt)) s.lanes.lane = true

theorem lane_of_lanes (h : t.lanes = s.lanes) (l : Nat) : t.lane l = s.lane l := by rw [State.lane, State.lane, h]

theorem lane_setLane (hw : LanesWf s) (l : Nat) (x : LaneSt) : (s.setLane l x).lane l = x := Table.get_set_self hw l x

theorem line_of_path (h : t.path = s.path) (p : Nat) : t.line p = s.line p := by rw [State.line, State.line, h]

theorem line_setLine (hw : Table.wf (fun _ => ({} : PortLine)) s.path.lines = true) (p : Nat) (x : PortLine) : (s.setLine p x).line p = x :=
  Table.get_set_self hw p x

theorem setLine_regs (s : State) (p : Nat) (x : PortLine) : (s.setLine p x).regs = s.regs := rfl

/-! ### Commits (R385) -/

/-- A lane whose settings wait for both boundaries. -/
def LaneSt.committing (x : LaneSt) : LaneSt := { x with txPend := true, rxPend := true }

theorem commitLane_shows (h : RegsWf s) (hw : LanesWf s) (l : Nat) :
    (s.commitLane l).flag F.lnCemCommit_COMMIT l = true ∧ (s.commitLane l).lane l = (s.lane l).committing :=
  ⟨(flag_of_regs (setLane_regs _ _ _) _ _).trans (flag_setFld_one h (by decide) l), lane_setLane (s := s.setFld F.lnCemCommit_COMMIT l 1) hw l _⟩

theorem exec_cemondCommit (hlane : s.hasLane l = true) {v : Word} (hv : v.toNat.testBit 0 = true) :
    exec (.cemondCommit .cc l v) s = .next (s.commitLane l) := by
  change execCemondCommit .cc l v s = _
  unfold execCemondCommit
  rw [if_neg (by simp [hlane]), State.ccWrite, if_pos hv]

/-- A lane whose settings are those of the shadow. -/
def LaneSt.committed (x : LaneSt) (shadow : List Nat) : LaneSt := { x with force := shadow, txPend := false, rxPend := false }

/-- A commit whose halves both reach their boundary ends. -/
theorem applyCommit_both (htx : (s.lane l).txPend = true) (hrx : (s.lane l).rxPend = true) : s.applyCommit l true true
    = (((s.setLane l ((s.lane l).committed (s.laneShadow l))).setFld F.lnCemCommit_COMMIT l 0).raise F.lnStat_CEM_DONE l).setReg .lnCemId l
        (word (s.lane l).crcPend) := by
  unfold State.applyCommit
  simp only [htx, hrx, Bool.not_true, Bool.and_self, Bool.false_eq_true, if_false, if_true, List.take_append_drop, Bool.or_self]
  rfl

theorem applyCommit_both_shows (h : RegsWf s) (hw : LanesWf s) (htx : (s.lane l).txPend = true) (hrx : (s.lane l).rxPend = true)
    (ht : t = s.applyCommit l true true) : (t.lane l).force = s.laneShadow l ∧ t.flag F.lnCemCommit_COMMIT l = false
      ∧ t.flag F.lnStat_CEM_DONE l = true ∧ t.reg .lnCemId l = word (s.lane l).crcPend := by
  rw [applyCommit_both htx hrx] at ht
  have hlane := lane_setLane hw l ((s.lane l).committed (s.laneShadow l))
  have hm : RegsWf (s.setLane l ((s.lane l).committed (s.laneShadow l))) := h
  generalize s.setLane l ((s.lane l).committed (s.laneShadow l)) = m at ht hlane hm
  have h1 := wf_setFld hm F.lnCemCommit_COMMIT l 0
  have h2 := wf_raise h1 F.lnStat_CEM_DONE l
  subst ht
  refine ⟨?_, ?_, ?_, reg_setReg_self h2 _ _ _⟩
  · rw [lane_of_lanes (s := m) (by rw [setReg_lanes, raise_lanes, setFld_lanes]), hlane]
    rfl
  · rw [flag_of_reg (f := F.lnCemCommit_COMMIT) (reg_setReg_ne h2 _ (by simp [F.lnCemCommit_COMMIT])), flag_raise_apart h1 (by decide)]
    exact flag_setFld_zero hm (by decide) l
  · rw [flag_of_reg (f := F.lnStat_CEM_DONE) (reg_setReg_ne h2 _ (by simp [F.lnStat_CEM_DONE]))]
    exact flag_raise_self h1 (by decide) l

theorem exec_cemondCommitApply (hrun : s.runningPort l = some p) (hidle : s.idleTx p = 0) :
    exec (.cemondCommitApply l) s = .next (s.applyCommit l true true) := by
  change execCemondCommitApply l s = _
  unfold execCemondCommitApply
  rw [hrun]
  simp only [hidle, beq_self_eq_true, Bool.true_or]

/-! ### Transmit idle (R387, R388) -/

theorem exec_idleEntry_decided (hp : p < 512) (hidle : s.idleTx p = 0) (hmay : s.mayIdle p = true) : exec (.idleEntry p) s
    = .next ((s.setLine p { s.line p with due := s.boundaryFrom p (s.tick.slot + 1), exitReq := none }).setFld F.pcsState_IDLE_TX p 1) := by
  change execIdleEntry p s = _
  rw [execIdleEntry, if_neg (Nat.not_le.2 hp), if_pos hidle, if_pos hmay]

theorem exec_idleEntry_over (hp : p < 512) (hidle : s.idleTx p = 1) (hdue : (s.line p).due + 4 ≤ s.tick.slot) : exec (.idleEntry p) s
    = .next (((s.setFld F.pcsState_IDLE_TX p 2).setFld F.macModeStat_IDLE_ACT p 1).count .pcsIdleEntryCnt p 1) := by
  change execIdleEntry p s = _
  rw [execIdleEntry, if_neg (Nat.not_le.2 hp), if_neg (by rw [hidle]; decide), if_pos (by simp [hidle, hdue])]

theorem exec_idleExit_requested {r : Nat} (hidle : s.idleTx p = 2) (hstandby : s.flag F.macModeStat_SB_ACT p = false)
    (hreq : s.exitRequest p = some r) : exec (.idleExit p) s
    = .next ((s.setLine p { s.line p with exitReq := none, due := s.boundaryFrom p (r + 201) }).setFld F.pcsState_IDLE_TX p 3) := by
  change execIdleExit p s = _
  rw [execIdleExit, if_neg (by simp [hidle, hstandby]), hreq]

/-- A state of idle that is written with a port's line stands beside it. -/
theorem idle_shows (h : RegsWf s) (hw : Table.wf (fun _ => ({} : PortLine)) s.path.lines = true) (p : Nat) (x : PortLine) {n : Nat} (hn : n < 4) :
    ((s.setLine p x).setFld F.pcsState_IDLE_TX p n).idleTx p = n ∧ ((s.setLine p x).setFld F.pcsState_IDLE_TX p n).line p = x := by
  have hm : RegsWf (s.setLine p x) := h
  refine ⟨(fld_setFld_self hm (by decide) p n).trans (Nat.mod_eq_of_lt hn), ?_⟩
  rw [line_of_path (setFld_path _ _ _ _)]
  exact line_setLine hw p x

/-- Without a commit that waits, a boundary changes nothing. -/
theorem applyCommit_idle (htx : (s.lane l).txPend = false) (hrx : (s.lane l).rxPend = false) (tx rx : Bool) : s.applyCommit l tx rx = s := by
  unfold State.applyCommit
  dsimp only
  rw [htx, hrx]
  rfl

theorem foldl_applyCommit_idle (hnone : s.lanes.lane = []) (tx rx : Bool) (ls : List Nat) :
    ls.foldl (fun s l => s.applyCommit l tx rx) s = s := by
  induction ls with
  | nil => rfl
  | cons l ls ih =>
    have hlane : s.lane l = {} := by rw [State.lane, hnone]; rfl
    rw [List.foldl_cons, applyCommit_idle (by rw [hlane]) (by rw [hlane])]
    exact ih

/-- A port that transmits again. -/
def State.resumed (s : State) (p : Nat) : State := (s.setFld F.pcsState_IDLE_TX p 0).setFld F.macModeStat_IDLE_ACT p 0

theorem exec_idleResume (hidle : s.idleTx p = 3) (hdue : (s.line p).due ≤ s.tick.slot) (hnone : s.lanes.lane = []) : exec (.idleResume p) s
    = .next ((s.resumed p).setLine p { (s.resumed p).line p with lastChosen := (s.resumed p).tick.slot }) := by
  have hlanes : ((s.resumed p).setLine p { (s.resumed p).line p with lastChosen := (s.resumed p).tick.slot }).lanes.lane = [] := hnone
  change execIdleResume p s = _
  unfold execIdleResume
  rw [if_neg (by simp [hidle, hdue])]
  dsimp only
  rw [← State.resumed, foldl_applyCommit_idle hlanes]

theorem resumed_shows (h : RegsWf s) (p : Nat) : (s.resumed p).idleTx p = 0 ∧ (s.resumed p).flag F.macModeStat_IDLE_ACT p = false := by
  have h1 := wf_setFld h F.pcsState_IDLE_TX p 0
  refine ⟨?_, flag_setFld_zero h1 (by decide) p⟩
  rw [State.idleTx, State.resumed, fld_setFld_apart h1 (by decide), fld_setFld_self h (by decide)]
  rfl

/-! ### Receive idle (R389, R390) -/

theorem inRx_of_state {st : Nat} (hrun : s.runningPort l = some p) (hst : (s.lane l).rx = st) (k : State → Nat → State) :
    s.inRx l st k = .next (k s p) := by
  unfold State.inRx
  rw [hrun]
  exact if_pos hst

/-- A receiver that changes its state. -/
def LaneSt.inState (x : LaneSt) (st slot : Nat) : LaneSt := { x with rx := st, rxAt := slot }

theorem setRx_shows (h : RegsWf s) (hw : LanesWf s) (l p st : Nat) :
    (s.setRx l p st).lane l = (s.lane l).inState st s.tick.slot ∧ (s.setRx l p st).flag F.lnStat_IDLE l = (st != 0) := by
  have hlane := lane_setLane hw l ((s.lane l).inState st s.tick.slot)
  have hm : RegsWf (s.setLane l ((s.lane l).inState st s.tick.slot)) := h
  unfold State.setRx
  rw [← LaneSt.inState]
  generalize s.setLane l ((s.lane l).inState st s.tick.slot) = m at hlane hm
  have h1 := wf_setFld hm F.lnStat_IDLE l (b2n (st != 0))
  constructor
  · rw [lane_of_lanes (setFld_lanes _ _ _ _), lane_of_lanes (setFld_lanes _ _ _ _)]
    exact hlane
  · rw [flag_setFld_apart h1 (by decide)]
    exact flag_setFld_bool hm (by decide) l _

theorem exec_rxIdleEnter (hrun : s.runningPort l = some p) (hrx : (s.lane l).rx = 0) : exec (.rxIdleEnter l) s = .next (s.setRx l p 1) := by
  change execRxIdleEnter l s = _
  rw [execRxIdleEnter, inRx_of_state hrun hrx]

theorem exec_rxSignalDetect (hrun : s.runningPort l = some p) (hrx : (s.lane l).rx = 1) :
    exec (.rxSignalDetect l) s = .next (s.setRx l p 2) := by
  change execRxSignalDetect l s = _
  rw [execRxSignalDetect, inRx_of_state hrun hrx]

/-- A marker that is received well: its PHASE is the lane's. -/
def State.phased (s : State) (l phase : Nat) : State := s.setLane l { s.lane l with phase := phase }

theorem exec_rxResumeMarker_good {field : Word} (hrun : s.runningPort l = some p) (hrx : (s.lane l).rx = 2)
    (hcrc : crc8 (beBytes 3 field.toNat) = field.toNat / 2 ^ 24) :
    exec (.rxResumeMarker l field) s = .next ((s.phased l (field.toNat % 2 ^ 20)).setRx l p 0) := by
  change execRxResumeMarker l field s = _
  rw [execRxResumeMarker, inRx_of_state hrun hrx]
  dsimp only
  rw [if_neg (by simp [hcrc])]
  rfl

theorem exec_rxResumeMarker_bad {field : Word} (hrun : s.runningPort l = some p) (hrx : (s.lane l).rx = 2)
    (hcrc : crc8 (beBytes 3 field.toNat) ≠ field.toNat / 2 ^ 24) : exec (.rxResumeMarker l field) s = .next s := by
  change execRxResumeMarker l field s = _
  rw [execRxResumeMarker, inRx_of_state hrun hrx]
  dsimp only
  rw [if_pos (bne_iff_ne.2 hcrc)]

theorem exec_rxResumeTimeout (hrun : s.runningPort l = some p) (hrx : (s.lane l).rx = 2) (hdue : (s.lane l).rxAt + 390 ≤ s.tick.slot) :
    exec (.rxResumeTimeout l) s = .next (((((s.setRx l p 0).count .pcsResumeFailCnt p 1).raise F.pcsStat_RESUME_FAIL p).unlocked l).realign p) := by
  change execRxResumeTimeout l s = _
  rw [execRxResumeTimeout, inRx_of_state hrun hrx]
  rw [if_neg (Nat.not_lt.2 hdue)]
  rfl

/-- A new judgement of the alignment leaves RESUME_FAIL. -/
theorem realign_resumeFail (h : Inv s) (p : Nat) : (s.realign p).flag F.pcsStat_RESUME_FAIL p = s.flag F.pcsStat_RESUME_FAIL p := by
  have hchanged : ∀ u : State, Inv u → (u.linkChanged p).flag F.pcsStat_RESUME_FAIL p = u.flag F.pcsStat_RESUME_FAIL p := fun u hu =>
    flag_of_keeps (M := { parts := [.meet, .cnt, .path, .out], regs := [.fcStat, .macLink, .macModeStat, .macStat, .mirStat, .qmPortStat, .qmStat] })
      (keeps_linkChanged (keeps_self hu) (by decide)) F.pcsStat_RESUME_FAIL p rfl
  have haligned : ∀ (u : State) (n : Nat), RegsWf u → (u.setFld F.macLink_ALIGNED p n).flag F.pcsStat_RESUME_FAIL p = u.flag F.pcsStat_RESUME_FAIL p :=
    fun u n hu => flag_setFld_apart hu (by decide) p n p
  have hraised := wf_raise h.regs F.pcsStat_DESKEW_ERR p
  unfold State.realign
  dsimp only
  split
  · rw [hchanged _ ⟨wf_setFld hraised _ _ _, h.slot, h.whorl⟩, haligned _ _ hraised]
    exact flag_raise_apart h.regs (by decide) p p
  · rw [hchanged _ ⟨wf_setFld h.regs _ _ _, h.slot, h.whorl⟩, haligned _ _ h.regs]

theorem setRx_inv (h : Inv s) (l p st : Nat) : Inv (s.setRx l p st) := ⟨wf_setFld (wf_setFld h.regs _ _ _) _ _ _, h.slot, h.whorl⟩

theorem resumeFailed_shows (h : Inv s) (l p : Nat) (ht : t = ((s.count .pcsResumeFailCnt p 1).raise F.pcsStat_RESUME_FAIL p)) :
    ((t.unlocked l).realign p).flag F.lnStat_LOCK l = false ∧ ((t.unlocked l).realign p).flag F.lnStat_LOCK_LOST l = true
      ∧ ((t.unlocked l).realign p).flag F.pcsStat_RESUME_FAIL p = true := by
  have hinv : Inv t := ht ▸ ⟨wf_raise h.regs _ _, h.slot, h.whorl⟩
  have hfail : t.flag F.pcsStat_RESUME_FAIL p = true := by
    rw [ht]
    exact flag_raise_self (s := s.count .pcsResumeFailCnt p 1) h.regs (by decide) p
  obtain ⟨hinv', hunlocked, hlost, -, -⟩ := unlocked_shows hinv l
  have hk := realign_keeps hinv' p
  have hstays : Keeps { parts := [.meet], regs := [.lnStat, .lnRxMap] } t (t.unlocked l) :=
    keeps_setFld (keeps_raise (keeps_setFld (keeps_setFld (keeps_self hinv) (by decide)) (by decide)) (by decide) (by decide)) (by decide)
  refine ⟨(flag_of_keeps hk F.lnStat_LOCK l rfl).trans hunlocked, (flag_of_keeps hk F.lnStat_LOCK_LOST l rfl).trans hlost, ?_⟩
  rw [realign_resumeFail hinv', flag_of_keeps hstays F.pcsStat_RESUME_FAIL p rfl, hfail]

/-! ### Eye scans (R392, R393) -/

/-- A scan after a step: a void point is measured again, another one is added. -/
def EyeScan.stepped (e : EyeScan) (epoch errs : Nat) (void : Bool) : EyeScan :=
  { e with start := epoch + 1, again := void, idx := if void then e.idx else e.idx + 1
           results := if void then e.results else e.results ++
             [{ phase := e.point.1, volt := e.point.2, again := e.again, errs := min errs (2 ^ e.win), ui := 2 ^ e.win }] }

/-- A scan that has taken its last point has ended. -/
def EyeScan.orEnded (e : EyeScan) (points : Nat) : EyeScan := { e with running := decide (e.idx < points) }

/-- What a step of a scan shows. -/
def State.scanShown (s : State) (l : Nat) (errs ui : Word) : State :=
  ((s.setReg .lnEscanErr l errs).setReg .lnEscanUi l ui).raise F.lnStat_ESCAN_STEP l

theorem exec_eyeScanStep {e : EyeScan} (hscan : OTable.get? s.lanes.scans l = some e) (hrun : s.runningPort l = some p) (hon : e.running = true)
    (hheat : s.fld F.thmStat_LEVEL 0 < 2) (hstart : e.start ≤ s.epoch) (hoff : 524288 ≤ s.epochOffset) (hup : s.linkUp p = true)
    (hlock : s.flag F.lnStat_LOCK l = true) (errs : Nat) (void : Bool) : ∃ g ui cfg, g = (e.stepped s.epoch errs void).orEnded (e.phases * e.volts)
      ∧ exec (.eyeScanStep l errs void) s
        = .next (((s.scanShown l (word (min errs (2 ^ e.win))) ui).setScan l g).setReg .lnEscanCfg l cfg) := by
  refine ⟨_, word (b2n void * 2 ^ 31 + 2 ^ e.win), word (e.cfg ((e.stepped s.epoch errs void).orEnded (e.phases * e.volts)).running), rfl, ?_⟩
  change execEyeScanStep l errs void s = _
  unfold execEyeScanStep
  rw [hscan, hrun]
  have hepoch : ∀ errs ui, (s.scanShown l errs ui).epoch = s.epoch := fun errs ui => by
    unfold State.epoch State.scanShown
    rw [raise_tick, setReg_tick, setReg_tick]
  have hgoes : ¬ (!e.running || decide (2 ≤ s.fld F.thmStat_LEVEL 0) || decide (s.epoch < e.start) || decide (s.epochOffset < 524288) || !s.linkUp p
      || !s.flag F.lnStat_LOCK l) = true := by
    simp [hon, Nat.not_le.2 hheat, Nat.not_lt.2 hstart, Nat.not_lt.2 hoff, hup, hlock]
  refine (if_neg hgoes).trans ?_
  dsimp only
  rw [← State.scanShown, hepoch]
  rfl

theorem scanShown_shows (h : RegsWf s) (l : Nat) (errs ui cfg : Word) (g : EyeScan)
    (ht : t = ((s.scanShown l errs ui).setScan l g).setReg .lnEscanCfg l cfg) :
    t.reg .lnEscanErr l = errs ∧ t.flag F.lnStat_ESCAN_STEP l = true ∧ OTable.get? t.lanes.scans l = some g := by
  have h1 := wf_setReg h .lnEscanErr l errs
  have h2 := wf_setReg h1 .lnEscanUi l ui
  have h3 : RegsWf (s.scanShown l errs ui) := wf_raise h2 _ _
  have hregs : ((s.scanShown l errs ui).setScan l g).regs = (s.scanShown l errs ui).regs := rfl
  have h4 : RegsWf ((s.scanShown l errs ui).setScan l g) := h3
  subst ht
  refine ⟨?_, ?_, ?_⟩
  · rw [reg_setReg_ne h4 _ (by simp), reg_of_regs hregs, State.scanShown, reg_raise_ne h2 (by simp [F.lnStat_ESCAN_STEP]),
      reg_setReg_ne h1 _ (by simp)]
    exact reg_setReg_self h _ _ _
  · rw [flag_of_reg (f := F.lnStat_ESCAN_STEP) (reg_setReg_ne h4 _ (by simp [F.lnStat_ESCAN_STEP])), flag_of_regs hregs]
    exact flag_raise_self h2 (by decide) l
  · rw [setReg_lanes]
    exact OTable.get?_insert_self _ _ _

/-! ### The leg checks (R395) -/

/-- The codes of a check as they stand in LN_FAULT. -/
def legsNow (codes : Nat) : Nat := legLows.foldl (fun v lo => v + legCode lo (codes / 2 ^ lo) * 2 ^ lo) 0

theorem legCode_lt (lo c : Nat) : legCode lo c < 8 := by
  unfold legCode
  dsimp only
  split
  · decide
  · exact Nat.mod_lt _ (by decide)

/-- Four codes of three bits stand apart in a number. -/
theorem legs_digits {c0 c4 c8 c12 n : Nat} (h0 : c0 < 8) (h4 : c4 < 8) (h8 : c8 < 8) (h12 : c12 < 8) (hn : n = c0 + c4 * 16 + c8 * 256 + c12 * 4096) :
    n / 2 ^ 0 % 8 = c0 ∧ n / 2 ^ 4 % 8 = c4 ∧ n / 2 ^ 8 % 8 = c8 ∧ n / 2 ^ 12 % 8 = c12 := by
  omega

theorem bitsOf_legsNow (codes : Nat) {lo : Nat} (hlo : lo ∈ legLows) : bitsOf (legsNow codes) (lo + 2) lo = legCode lo (codes / 2 ^ lo) := by
  have hnow : legsNow codes = legCode 0 (codes / 2 ^ 0) + legCode 4 (codes / 2 ^ 4) * 16 + legCode 8 (codes / 2 ^ 8) * 256
      + legCode 12 (codes / 2 ^ 12) * 4096 := by
    simp [legsNow, legLows]
  obtain ⟨h0, h4, h8, h12⟩ := legs_digits (legCode_lt 0 _) (legCode_lt 4 _) (legCode_lt 8 _) (legCode_lt 12 _) hnow
  simp only [legLows, List.mem_cons, List.not_mem_nil, or_false] at hlo
  rw [bitsOf, Nat.shiftRight_eq_div_pow]
  rcases hlo with rfl | rfl | rfl | rfl
  · exact h0
  · exact h4
  · exact h8
  · exact h12

/-- A leg whose code was seen twice is reported. -/
def legReport (now seen v lo : Nat) : Nat :=
  if bitsOf now (lo + 2) lo = bitsOf seen (lo + 2) lo then setBits v (lo + 2) lo (bitsOf now (lo + 2) lo) else v

theorem bitsOf_legReport_self (now seen v lo : Nat) : bitsOf (legReport now seen v lo) (lo + 2) lo
    = if bitsOf now (lo + 2) lo = bitsOf seen (lo + 2) lo then bitsOf now (lo + 2) lo else bitsOf v (lo + 2) lo := by
  have hw : lo + 2 - lo + 1 = 3 := by omega
  unfold legReport
  split
  · rw [bitsOf, hw]
    refine (setBits_field v lo 3 _ (by decide)).trans ?_
    rw [bitsOf, hw, Nat.mod_mod]
  · rfl

theorem bitsOf_legReport_apart (now seen v : Nat) {lo lo' : Nat} (hne : lo' + 3 ≤ lo ∨ lo + 3 ≤ lo') :
    bitsOf (legReport now seen v lo) (lo' + 2) lo' = bitsOf v (lo' + 2) lo' := by
  have hw : lo' + 2 - lo' + 1 = 3 := by omega
  unfold legReport
  split
  · rw [bitsOf, hw]
    refine Eq.trans ?_ (congrArg (fun n => (v >>> lo') % 2 ^ n) hw).symm
    exact setBits_other v lo 3 _ lo' 3 (by decide) hne
  · rfl

theorem legReport_lt {now seen v lo : Nat} (hv : v < 2 ^ 32) (hlo : lo + 3 ≤ 32) : legReport now seen v lo < 2 ^ 32 := by
  unfold legReport
  split
  · exact setBits_lt (w := 3) hv (by decide) hlo
  · exact hv

/-- The reports of all legs. -/
def legReports (now seen v : Nat) : Nat := legLows.foldl (legReport now seen) v

theorem legReports_lt {now seen v : Nat} (hv : v < 2 ^ 32) : legReports now seen v < 2 ^ 32 :=
  legReport_lt (legReport_lt (legReport_lt (legReport_lt hv (by decide)) (by decide)) (by decide)) (by decide)

theorem bitsOf_legReports (now seen v : Nat) {lo : Nat} (hlo : lo ∈ legLows) : bitsOf (legReports now seen v) (lo + 2) lo
    = if bitsOf now (lo + 2) lo = bitsOf seen (lo + 2) lo then bitsOf now (lo + 2) lo else bitsOf v (lo + 2) lo := by
  have hfold : legReports now seen v = legReport now seen (legReport now seen (legReport now seen (legReport now seen v 0) 4) 8) 12 := rfl
  simp only [legLows, List.mem_cons, List.not_mem_nil, or_false] at hlo
  rw [hfold]
  rcases hlo with rfl | rfl | rfl | rfl
  · rw [bitsOf_legReport_apart _ _ _ (by decide), bitsOf_legReport_apart _ _ _ (by decide), bitsOf_legReport_apart _ _ _ (by decide),
      bitsOf_legReport_self]
  · rw [bitsOf_legReport_apart _ _ _ (by decide), bitsOf_legReport_apart _ _ _ (by decide), bitsOf_legReport_self,
      bitsOf_legReport_apart _ _ _ (by decide)]
  · rw [bitsOf_legReport_apart _ _ _ (by decide), bitsOf_legReport_self, bitsOf_legReport_apart _ _ _ (by decide),
      bitsOf_legReport_apart _ _ _ (by decide)]
  · rw [bitsOf_legReport_self, bitsOf_legReport_apart _ _ _ (by decide), bitsOf_legReport_apart _ _ _ (by decide),
      bitsOf_legReport_apart _ _ _ (by decide)]

/-- A lane with the codes of its last check. -/
def LaneSt.saw (x : LaneSt) (now : Nat) : LaneSt := { x with seen := now }

/-- A lane once its legs have been checked, before a report. -/
def State.legsSeen (s : State) (l now los : Nat) : State := (s.setLane l ((s.lane l).saw now)).setFld F.lnStat_LOS l los

theorem exec_legMonitorCheck (hon : s.laneOn l = true) (codes : Nat) {new : Nat}
    (hnew : new = legReports (legsNow codes) (s.lane l).seen (s.reg .lnFault l).toNat) : ∃ los, exec (.legMonitorCheck l codes) s
      = .next (if new = (s.reg .lnFault l).toNat then s.legsSeen l (legsNow codes) los
          else ((s.legsSeen l (legsNow codes) los).setReg .lnFault l (word new)).raise F.lnStat_FAULT_CHG l) := by
  subst hnew
  refine ⟨b2n (bitsOf (legsNow codes) 10 8 == 1 || bitsOf (legsNow codes) 14 12 == 1), ?_⟩
  change execLegMonitorCheck l codes s = _
  unfold execLegMonitorCheck
  rw [if_neg (by simp [hon])]
  dsimp only
  exact (apply_ite Host.Outcome.next _ _ _).symm

theorem legChecked_shows (h : RegsWf s) (hw : LanesWf s) (l now los : Nat) {new : Nat} (hnew : new < 2 ^ 32)
    (ht : t = if new = (s.reg .lnFault l).toNat then s.legsSeen l now los
      else ((s.legsSeen l now los).setReg .lnFault l (word new)).raise F.lnStat_FAULT_CHG l) :
    (t.lane l).seen = now ∧ (t.reg .lnFault l).toNat = new := by
  have hlane := lane_setLane hw l ((s.lane l).saw now)
  have hseen : (s.legsSeen l now los).lane l = (s.lane l).saw now := by
    rw [State.legsSeen, lane_of_lanes (setFld_lanes _ _ _ _), hlane]
  have hm : RegsWf (s.setLane l ((s.lane l).saw now)) := h
  have hu : RegsWf (s.legsSeen l now los) := wf_setFld hm _ _ _
  have hfault : (s.legsSeen l now los).reg .lnFault l = s.reg .lnFault l := reg_setFld_ne hm _ (by simp [F.lnStat_LOS])
  generalize s.legsSeen l now los = u at ht hseen hu hfault
  split at ht
  next hsame =>
    subst ht
    exact ⟨by rw [hseen]; rfl, by rw [hfault, hsame]⟩
  next hdiff =>
    subst ht
    refine ⟨by rw [lane_of_lanes (raise_lanes _ _ _), lane_of_lanes (setReg_lanes _ _ _ _), hseen]; rfl, ?_⟩
    rw [reg_raise_ne (wf_setReg hu _ _ _) (by simp [F.lnStat_FAULT_CHG]), reg_setReg_self hu]
    exact toNat_word hnew

end

/-- Settles O28: each event puts what it names in the lane, its line or its registers, and the others leave that. -/
theorem laneSettingsIdleAndScans : Obligations.LaneSettingsIdleAndScans := by
  unfold Obligations.LaneSettingsIdleAndScans
  refine ⟨?commit, ?apply, ?idle, ?receive, ?scan, ?legs⟩
  case commit =>
    intro l v s h hw hlane hv
    obtain ⟨hflag, hst⟩ := commitLane_shows h.regs hw l
    exact ⟨_, exec_cemondCommit hlane hv, hflag, by rw [hst]; rfl, by rw [hst]; rfl, by rw [hst]; rfl⟩
  case apply =>
    intro l p s h hw hrun hidle htx hrx
    exact ⟨_, exec_cemondCommitApply hrun hidle, applyCommit_both_shows h.regs hw htx hrx rfl⟩
  case idle =>
    intro p s h hw hp
    refine ⟨fun hidle hmay => ?_, fun hidle hdue => ?_, fun r hidle hstandby hreq => ?_, fun hidle hdue hnone => ?_⟩
    · obtain ⟨hst, hline⟩ := idle_shows h.regs hw p { s.line p with due := s.boundaryFrom p (s.tick.slot + 1), exitReq := none } (n := 1) (by decide)
      exact ⟨_, exec_idleEntry_decided hp hidle hmay, hst, by rw [hline]⟩
    · have h1 := wf_setFld h.regs F.pcsState_IDLE_TX p 2
      refine ⟨_, exec_idleEntry_over hp hidle hdue, ?_, ?_, count_cnt_congr (by rw [setFld_cnt, setFld_cnt]) _ _ _⟩
      · rw [State.idleTx, count_fld_eq, fld_setFld_apart h1 (by decide), fld_setFld_self h.regs (by decide)]
        rfl
      · rw [count_flag_eq]
        exact flag_setFld_one h1 (by decide) p
    · obtain ⟨hst, hline⟩ := idle_shows h.regs hw p { s.line p with exitReq := none, due := s.boundaryFrom p (r + 201) } (n := 3) (by decide)
      exact ⟨_, exec_idleExit_requested hidle hstandby hreq, hst, by rw [hline]⟩
    · obtain ⟨hst, hflag⟩ := resumed_shows h.regs p
      have hlines : (s.resumed p).path = s.path := by rw [State.resumed, setFld_path, setFld_path]
      have htick : (s.resumed p).tick = s.tick := by rw [State.resumed, setFld_tick, setFld_tick]
      have hexec := exec_idleResume hidle hdue hnone
      have hw' : Table.wf (fun _ => ({} : PortLine)) (s.resumed p).path.lines = true := by rw [hlines]; exact hw
      generalize s.resumed p = m at hst hflag htick hexec hw'
      refine ⟨_, hexec, ?_, ?_, ?_⟩
      · rw [State.idleTx, fld_of_regs (setLine_regs _ _ _)]
        exact hst
      · rw [flag_of_regs (setLine_regs _ _ _)]
        exact hflag
      · rw [line_setLine hw', htick]
  case receive =>
    intro l p field s h hw hrun
    refine ⟨fun hrx => ?_, fun hrx => ?_, fun hrx hcrc => ?_, fun hrx hcrc => exec_rxResumeMarker_bad hrun hrx hcrc, fun hrx hdue => ?_⟩
    · obtain ⟨hlane, hflag⟩ := setRx_shows h.regs hw l p 1
      exact ⟨_, exec_rxIdleEnter hrun hrx, by rw [hlane]; rfl, hflag⟩
    · obtain ⟨hlane, -⟩ := setRx_shows h.regs hw l p 2
      exact ⟨_, exec_rxSignalDetect hrun hrx, by rw [hlane]; rfl, by rw [hlane]; rfl⟩
    · have hphase := lane_setLane hw l { s.lane l with phase := field.toNat % 2 ^ 20 }
      obtain ⟨hlane, hflag⟩ := setRx_shows (s := s.phased l (field.toNat % 2 ^ 20)) h.regs (Table.wf_set hw _ _) l p 0
      refine ⟨_, exec_rxResumeMarker_good hrun hrx hcrc, by rw [hlane]; rfl, ?_, hflag⟩
      rw [hlane, State.phased, hphase]
      rfl
    · exact ⟨_, exec_rxResumeTimeout hrun hrx hdue, resumeFailed_shows (setRx_inv h l p 0) l p rfl⟩
  case scan =>
    intro l p errs void e s h hscan hrun hon hheat hstart hoff hup hlock
    obtain ⟨g, ui, cfg, hg, hexec⟩ := exec_eyeScanStep hscan hrun hon hheat hstart hoff hup hlock errs void
    obtain ⟨herr, hstep, hget⟩ := scanShown_shows h.regs l (word (min errs (2 ^ e.win))) ui cfg g rfl
    refine ⟨_, g, hexec, herr, hstep, hget, by rw [hg]; rfl, fun hv => ?_, fun hv => ?_⟩
    · subst hg hv
      exact ⟨rfl, rfl, rfl⟩
    · subst hg hv
      exact ⟨rfl, rfl, rfl⟩
  case legs =>
    intro l codes lo s h hw hon hlo
    obtain ⟨los, hexec⟩ := exec_legMonitorCheck hon codes rfl
    obtain ⟨hseen, hfault⟩ := legChecked_shows h.regs hw l (legsNow codes) los (legReports_lt (s.reg .lnFault l).isLt) rfl
    refine ⟨_, hexec, by rw [hseen, bitsOf_legsNow codes hlo], ?_⟩
    rw [hfault, bitsOf_legReports _ _ _ hlo, bitsOf_legsNow codes hlo]
    simp only [eq_comm]

end Sys2Proof.Machine

/-! Mailboxes and doorbells (O31): slots posted and consumed, incarnations, and the doorbell bits. -/

namespace Sys2Proof.Machine
open Sys2Proof

section
variable {s t m : State} {n : Nat}

/-! ### Refused accesses of a channel (R515, R518) -/

theorem mbError_wf (h : RegsWf s) (kind chan sid : Nat) : RegsWf (s.mbError kind chan sid) := by
  have hinfo := wf_setReg h .mbErrInfo 0 (word (sid * 2 ^ 24 + chan % 16 * 2 ^ 16 + kind))
  unfold State.mbError
  dsimp only
  split
  · exact wf_raise hinfo _ _
  · exact wf_raise hinfo _ _

/-- A refused access changes the record of errors only. -/
theorem mbError_reg (h : RegsWf s) (kind chan sid : Nat) {r : Reg} (hinfo : r ≠ .mbErrInfo) (herr : r ≠ .mbErr) (i : Nat) :
    (s.mbError kind chan sid).reg r i = s.reg r i := by
  have hw := wf_setReg h .mbErrInfo 0 (word (sid * 2 ^ 24 + chan % 16 * 2 ^ 16 + kind))
  have hset : (s.setReg .mbErrInfo 0 (word (sid * 2 ^ 24 + chan % 16 * 2 ^ 16 + kind))).reg r i = s.reg r i :=
    reg_setReg_ne h _ fun hk => hinfo hk.1
  unfold State.mbError
  dsimp only
  split
  · rw [count_reg_eq, reg_raise_ne hw (fun hk => herr hk.1), hset]
  · rw [reg_raise_ne hw (fun hk => herr hk.1), hset]

theorem mbError_violation (h : RegsWf s) (chan sid : Nat) : (s.mbError 1 chan sid).flag F.mbErr_VIOL 0 = true := by
  unfold State.mbError
  dsimp only
  rw [if_pos (Or.inl rfl), count_flag_eq]
  exact flag_raise_self (wf_setReg h _ _ _) (by decide) 0

theorem mbError_sequence (h : RegsWf s) (chan sid : Nat) : (s.mbError 2 chan sid).flag F.mbErr_SEQ 0 = true := by
  unfold State.mbError
  dsimp only
  rw [if_neg (by decide)]
  exact flag_raise_self (wf_setReg h _ _ _) (by decide) 0

/-! ### Incarnations and inbound slots (R517, R523, R524) -/

/-- What the application of a waiting increment leaves. -/
theorem applyInc_shows (h : RegsWf s) (n : Nat) : RegsWf (s.applyInc n)
    ∧ (s.applyInc n).reg .mbInInc n = s.reg .mbInInc n + (if s.flag F.mbInCtl_INC_PEND n then 1 else 0)
    ∧ (s.applyInc n).flag F.mbInCtl_INC_PEND n = false ∧ (s.applyInc n).flag F.mbInCtl_STATE n = s.flag F.mbInCtl_STATE n
    ∧ ∀ r i, r ≠ .mbInInc → r ≠ .mbInCtl → (s.applyInc n).reg r i = s.reg r i := by
  have h1 := wf_setFld h F.mbInCtl_INC_PEND n 0
  unfold State.applyInc
  split
  next hpend =>
    refine ⟨wf_setReg h1 _ _ _, ?_, ?_, ?_, fun r i hinc hctl => ?_⟩
    · exact reg_setReg_self h1 _ _ _
    · rw [flag_of_reg (f := F.mbInCtl_INC_PEND) (reg_setReg_ne h1 _ (by simp [F.mbInCtl_INC_PEND]))]
      exact flag_setFld_zero h (by decide) n
    · rw [flag_of_reg (f := F.mbInCtl_STATE) (reg_setReg_ne h1 _ (by simp [F.mbInCtl_STATE]))]
      exact flag_setFld_apart h (by decide) n 0 n
    · exact (reg_setReg_ne h1 _ fun hk => hinc hk.1).trans (reg_setFld_ne h _ fun hk => hctl hk.1)
  next hpend =>
    exact ⟨h, (BitVec.add_zero _).symm, Bool.eq_false_iff.2 hpend, rfl, fun _ _ _ _ => rfl⟩

theorem postIn_empty (hempty : s.flag F.mbInCtl_STATE n = false) (sid : Nat) :
    (s.postIn n sid).regs = ((s.applyInc n).setFld F.mbInCtl_STATE n 1).regs := by
  unfold State.postIn
  rw [if_neg (by simp [hempty])]

theorem postIn_shows (h : RegsWf s) (hempty : s.flag F.mbInCtl_STATE n = false) (sid : Nat) :
    (s.postIn n sid).flag F.mbInCtl_STATE n = true ∧ (s.postIn n sid).flag F.mbInCtl_INC_PEND n = false
      ∧ (s.postIn n sid).reg .mbInInc n = s.reg .mbInInc n + (if s.flag F.mbInCtl_INC_PEND n then 1 else 0) := by
  obtain ⟨hw, hinc, hpend, -, -⟩ := applyInc_shows h n
  have hregs := postIn_empty hempty sid
  refine ⟨?_, ?_, ?_⟩
  · rw [flag_of_regs hregs]
    exact flag_setFld_one hw (by decide) n
  · rw [flag_of_regs hregs, flag_setFld_apart hw (by decide), hpend]
  · rw [reg_of_regs hregs, reg_setFld_ne hw _ (by simp [F.mbInCtl_STATE]), hinc]

theorem postIn_posted (hposted : s.flag F.mbInCtl_STATE n = true) (sid : Nat) : s.postIn n sid = s.mbError 2 n sid := if_pos hposted

theorem newInc_alone (hposts : s.meet.posts = []) (n : Nat) : s.newInc n = s.setFld F.mbInCtl_INC_PEND n 1 := by
  have hmeet : (s.setFld F.mbInCtl_INC_PEND n 1).meet = s.meet := setFld_meet s _ _ _
  unfold State.newInc
  dsimp only
  rw [hmeet, hposts]
  rfl

theorem exec_mbInPost_host {rid : Nat} {tr : Bool} (hn : n < 16) (hpass : s.refusal (.host rid tr) (Reg.mbInCtl.offset n) true = none) :
    exec (.mbInPost (.host rid tr) n) s = .next (if s.bound n (s.sid (.host rid tr)) then s.postIn n (s.sid (.host rid tr))
      else s.mbError 1 n (s.sid (.host rid tr))) := by
  change execMbInPost (.host rid tr) n s = _
  unfold execMbInPost
  rw [if_neg (Nat.not_le.2 hn)]
  exact congrArg Host.Outcome.next (access_of_none hpass _)

theorem exec_mbNewInc_host {rid : Nat} {tr : Bool} (hn : n < 16) (hpass : s.refusal (.host rid tr) (Reg.mbInCtl.offset n) true = none)
    (hbound : s.bound n (s.sid (.host rid tr)) = true) : exec (.mbNewInc (.host rid tr) n) s = .next (s.newInc n) := by
  change execMbNewInc (.host rid tr) n s = _
  unfold execMbNewInc
  rw [if_neg (Nat.not_le.2 hn)]
  exact congrArg Host.Outcome.next ((access_of_none hpass _).trans (if_pos hbound))

/-! ### The consumption of an inbound slot (R501, R518, R519) -/

/-- What the CONSUME of a POSTED slot leaves. -/
theorem consumeIn_shows (h : RegsWf s) (hn : n < 16) : (s.consumeIn n).flag F.mbInCtl_STATE n = false
    ∧ (s.consumeIn n).reg .mbInCinc n = s.reg .mbInInc n ∧ (s.consumeIn n).regBit .mbStat 0 n = true
    ∧ (s.consumeIn n).flag F.protBoot_RECOVERY 0 = s.flag F.protBoot_RECOVERY 0 := by
  have h1 := wf_setReg h .mbInCinc n (s.reg .mbInInc n)
  have h2 := wf_setFld h1 F.mbInCtl_STATE n 0
  have h3 := wf_raiseBits h2 .mbStat 0 (2 ^ n)
  obtain ⟨-, -, -, hstate, hreg⟩ := applyInc_shows h3 n
  have hbit := regBit_raiseBits h2 .mbStat 0 (2 ^ n) (k := n) (by omega)
  unfold State.consumeIn
  refine ⟨?_, ?_, ?_, ?_⟩
  · rw [hstate, flag_of_reg (f := F.mbInCtl_STATE) (reg_raiseBits_ne h2 _ (by simp [F.mbInCtl_STATE]))]
    exact flag_setFld_zero h1 (by decide) n
  · rw [hreg _ _ (by decide) (by decide), reg_raiseBits_ne h2 _ (by simp), reg_setFld_ne h1 _ (by simp [F.mbInCtl_STATE]), reg_setReg_self h]
  · rw [State.regBit, hreg _ _ (by decide) (by decide), ← State.regBit, hbit, Nat.testBit_two_pow_self, Bool.or_true]
  · rw [flag_of_reg (f := F.protBoot_RECOVERY) (hreg _ _ (by decide) (by decide)),
      flag_of_reg (f := F.protBoot_RECOVERY) (reg_raiseBits_ne h2 _ (by simp [F.protBoot_RECOVERY])),
      flag_of_reg (f := F.protBoot_RECOVERY) (reg_setFld_ne h1 _ (by simp [F.protBoot_RECOVERY, F.mbInCtl_STATE])),
      flag_of_reg (f := F.protBoot_RECOVERY) (reg_setReg_ne h _ (by simp [F.protBoot_RECOVERY]))]

theorem applyInc_rest (s : State) (n : Nat) : (s.applyInc n).pkts = s.pkts ∧ (s.applyInc n).boot = s.boot := by
  unfold State.applyInc
  split
  · exact ⟨by rw [setReg_pkts, setFld_pkts], by rw [setReg_boot, setFld_boot]⟩
  · exact ⟨rfl, rfl⟩

theorem consumeIn_rest (s : State) (n : Nat) : (s.consumeIn n).pkts = s.pkts ∧ (s.consumeIn n).boot = s.boot := by
  unfold State.consumeIn
  rw [(applyInc_rest _ n).1, (applyInc_rest _ n).2]
  exact ⟨by rw [raiseBits_pkts, setFld_pkts, setReg_pkts], by rw [raiseBits_boot, setFld_boot, setReg_boot]⟩

/-- The header checks look at the journal, the version range and RECOVERY only. -/
theorem headerChecks_congr (hpkts : t.pkts = s.pkts) (hboot : t.boot = s.boot) (hrec : t.flag F.protBoot_RECOVERY 0 = s.flag F.protBoot_RECOVERY 0)
    (op : Nat) (p : Packet) (lenBad : Bool) : headerChecks t op p lenBad = headerChecks s op p lenBad := by
  unfold headerChecks State.versionOk
  rw [hpkts, hboot, hrec]

/-- A command with a sound header and room for its reply is taken into the journal (R503, R505). -/
theorem consume_sound {op inc : Nat} {p : Packet} {lenBad : Bool} (hroom : s.waiting p.chan < 64) (hgood : firstFail (headerChecks s op p lenBad) = none)
    (k : State → State) : consume op p inc lenBad k s
      = k (s.addJournal { chan := p.chan, tag := p.tag, inc := inc, version := p.version, opcode := op, state := .consumed }) := by
  unfold consume
  rw [if_neg (Nat.not_le.2 hroom), hgood]

/-- The packet of a command with the bytes its DMA reference meets. -/
def withDma (p : Packet) (dma : List Byte) (fault : Bool) : Packet := { p with dma := dma, dmaFault := fault }

/-- The journal entry of a command that has been consumed. -/
def consumedEntry (op inc : Nat) (p : Packet) : JEntry :=
  { chan := p.chan, tag := p.tag, inc := inc, version := p.version, opcode := op, state := .consumed }

theorem exec_mbInConsume {op : Nat} {p : Packet} (hn : n < 16) (hrun : s.fwRunning = true) (hswitch : s.boot.switchAt = none)
    (hposts : s.meet.posts = []) (hposted : s.flag F.mbInCtl_STATE n = true) (hparse : parsePacket n (s.inSlotBytes n) = (op, p))
    (dma : List Byte) (fault : Bool) : exec (.mbInConsume n dma fault) s = .next (consume op (withDma p dma fault)
      ((s.consumeIn n).reg .mbInCinc n).toNat (lengthBad op p.params)
      (fun u => u.take_ op ((s.consumeIn n).reg .mbInCinc n).toNat (withDma p dma fault)) (s.consumeIn n)) := by
  change execMbInConsume n dma fault s = _
  unfold execMbInConsume
  rw [if_neg (by simp [hrun, hswitch, hn]), if_neg (by simp [hposts]), if_neg (by simp [hposted]), hparse]
  rfl

theorem mbInConsume_result {op : Nat} {p : Packet} (h : RegsWf s) (hn : n < 16) (hparse : parsePacket n (s.inSlotBytes n) = (op, p))
    (hroom : s.waiting n < 64) (hgood : firstFail (headerChecks s op p (lengthBad op p.params)) = none) (dma : List Byte) (fault : Bool) :
    consume op (withDma p dma fault) ((s.consumeIn n).reg .mbInCinc n).toNat (lengthBad op p.params)
      (fun u => u.take_ op ((s.consumeIn n).reg .mbInCinc n).toNat (withDma p dma fault)) (s.consumeIn n)
    = ((s.consumeIn n).addJournal (consumedEntry op (s.reg .mbInInc n).toNat p)).take_ op (s.reg .mbInInc n).toNat (withDma p dma fault) := by
  obtain ⟨-, hinc, -, hrec⟩ := consumeIn_shows h hn
  obtain ⟨hpkts, hboot⟩ := consumeIn_rest s n
  have hchan : (withDma p dma fault).chan = n := by
    have hp : p = (parsePacket n (s.inSlotBytes n)).2 := by rw [hparse]
    rw [hp]
    rfl
  have hroom' : (s.consumeIn n).waiting (withDma p dma fault).chan < 64 := by rw [hchan, State.waiting, hpkts]; exact hroom
  have hgood' : firstFail (headerChecks (s.consumeIn n) op (withDma p dma fault) (lengthBad op p.params)) = none := by
    rw [headerChecks_congr hpkts hboot hrec]
    exact hgood
  rw [hinc, consume_sound hroom' hgood']
  rfl

/-! ### Outbound slots (R517, R519, R522) -/

/-- The words of a packet in an outbound slot. -/
def outCells (n : Nat) (bs : List Byte) : List ((Reg × Nat) × Word) :=
  (List.range (cdiv bs.length 4)).map fun w => ((.mbOutSlot, n * 128 + w), word (leAt bs (4 * w) 4))

theorem writeOutSlot_eq (s : State) (n : Nat) (bs : List Byte) : s.writeOutSlot n bs = s.putCells (outCells n bs) := by
  rw [State.writeOutSlot, State.putCells, outCells, List.foldl_map]

theorem outCells_nodup (n : Nat) (bs : List Byte) : ((outCells n bs).map Prod.fst).Nodup := by
  rw [outCells, List.map_map]
  refine List.Nodup.map (fun a b hab => ?_) List.nodup_range
  have hkey : n * 128 + a = n * 128 + b := congrArg Prod.snd hab
  omega

theorem writeOutSlot_shows (h : RegsWf s) (n : Nat) (bs : List Byte) : RegsWf (s.writeOutSlot n bs)
    ∧ ∀ w, 4 * w < bs.length → (s.writeOutSlot n bs).reg .mbOutSlot (n * 128 + w) = word (leAt bs (4 * w) 4) := by
  rw [writeOutSlot_eq]
  refine ⟨(putCells_frame _ h).1, fun w hw => reg_putCells h (outCells_nodup n bs) (List.mem_map.2 ⟨w, List.mem_range.2 ?_, rfl⟩)⟩
  unfold cdiv
  omega

/-- The registers once a reply stands in its slot. -/
def State.outPosted (s : State) (n : Nat) (bs : List Byte) : State :=
  ((s.writeOutSlot n bs).setFld F.mbOutCtl_STATE n 1).raiseBits .mbStat 0 (2 ^ (16 + n))

theorem outPosted_shows (h : RegsWf s) (hn : n < 16) (bs : List Byte) : (s.outPosted n bs).flag F.mbOutCtl_STATE n = true
    ∧ (s.outPosted n bs).regBit .mbStat 0 (16 + n) = true
    ∧ ∀ w, 4 * w < bs.length → (s.outPosted n bs).reg .mbOutSlot (n * 128 + w) = word (leAt bs (4 * w) 4) := by
  obtain ⟨h1, hwords⟩ := writeOutSlot_shows h n bs
  have h2 := wf_setFld h1 F.mbOutCtl_STATE n 1
  refine ⟨?_, ?_, fun w hw => ?_⟩
  · rw [State.outPosted, flag_of_reg (f := F.mbOutCtl_STATE) (reg_raiseBits_ne h2 _ (by simp [F.mbOutCtl_STATE]))]
    exact flag_setFld_one h1 (by decide) n
  · rw [State.outPosted, regBit_raiseBits h2 _ _ _ (by omega), Nat.testBit_two_pow_self, Bool.or_true]
  · rw [State.outPosted, reg_raiseBits_ne h2 _ (by simp), reg_setFld_ne h1 _ (by simp [F.mbOutCtl_STATE]), hwords w hw]

/-- A reply in its slot is no longer held, and its journal entry is gone. -/
def State.outGone (u : State) (n : Nat) (r : Reply) : State :=
  { u with pkts := { u.pkts with replies := u.pkts.replies.erase r
                                 journal := u.pkts.journal.filter fun j => !(j.chan = n && j.tag = r.tag && j.state == .done) }
           meet := { u.meet with posts := (16 + n) :: u.meet.posts } }

theorem putCells_pkts (l : List ((Reg × Nat) × Word)) (u : State) : (u.putCells l).pkts = u.pkts := by
  induction l generalizing u with
  | nil => rfl
  | cons e l ih => exact ih (u.setReg e.1.1 e.1.2 e.2)

theorem outGone_replies {u : State} {r : Reply} (hone : u.pkts.replies = [r]) (n : Nat) : (u.outGone n r).pkts.replies = [] := by
  have herase : u.pkts.replies.erase r = [] := by rw [hone, List.erase_cons_head]
  exact herase

theorem exec_mbOutPost {r : Reply} (hn : n < 16) (hrun : s.fwRunning = true) (hempty : s.flag F.mbOutCtl_STATE n = false)
    (hvalid : s.flag F.mbBind_VALID n = true) (hone : s.pkts.replies = [r]) (hchan : r.chan = n) :
    exec (.mbOutPost n) s = .next ((s.outPosted n r.bytes).outGone n r) := by
  have hfind : s.pkts.replies.find? (fun x => x.chan = n) = some r := by rw [hone]; simp [hchan]
  change execMbOutPost n s = _
  unfold execMbOutPost
  rw [if_neg (by simp [hrun, hempty, hvalid, hn]), hfind]
  dsimp only
  rw [← State.outPosted, ← State.outGone]

theorem outPosted_pkts (s : State) (n : Nat) (bs : List Byte) : (s.outPosted n bs).pkts = s.pkts := by
  rw [State.outPosted, raiseBits_pkts, setFld_pkts, writeOutSlot_eq, putCells_pkts]

theorem exec_mbOutConsume {rid : Nat} {tr : Bool} (hn : n < 16) (hpass : s.refusal (.host rid tr) (Reg.mbOutCtl.offset n) true = none)
    (hbound : s.bound n (s.sid (.host rid tr)) = true) (hposts : s.meet.posts = []) (hposted : s.flag F.mbOutCtl_STATE n = true) :
    exec (.mbOutConsume (.host rid tr) n) s = .next (s.setFld F.mbOutCtl_STATE n 0) := by
  change execMbOutConsume (.host rid tr) n s = _
  unfold execMbOutConsume
  rw [if_neg (Nat.not_le.2 hn)]
  refine congrArg Host.Outcome.next ((access_of_none hpass _).trans ?_)
  unfold State.consumeOut
  rw [if_neg (by simp [hbound]), if_neg (by simp [hposts]), if_neg (by simp [hposted])]

/-! ### Doorbells (R528) -/

theorem h2dReg_apart (hi : Bool) : h2dReg hi ≠ .mbErrInfo ∧ h2dReg hi ≠ .mbErr := by
  cases hi <;> exact ⟨by decide, by decide⟩

theorem d2hReg_apart (hi : Bool) : d2hReg hi ≠ .mbErrInfo ∧ d2hReg hi ≠ .mbErr := by
  cases hi <;> exact ⟨by decide, by decide⟩

/-- A state after an access, in part refused: a register beside the record of errors is as the access left it. -/
theorem reg_partlyRefused (h : RegsWf s) {r : Reg} (hinfo : r ≠ .mbErrInfo) (herr : r ≠ .mbErr) (i sid : Nat) (c : Prop) [Decidable c] :
    (if c then s else s.mbError 5 0 sid).reg r i = s.reg r i := by
  split
  · rfl
  · exact mbError_reg h _ _ _ hinfo herr i

theorem h2dSet_reg (h : RegsWf s) (hn : n < 16) {sid : Nat} (hbound : s.bound n sid = true) (hi : Bool) (bits : Nat) :
    (s.h2dSet hi sid bits).reg (h2dReg hi) 0 = s.reg (h2dReg hi) 0 ||| word (bits &&& dbRights hi sid) := by
  obtain ⟨hinfo, herr⟩ := h2dReg_apart hi
  have hany : (List.range 16).any (fun k => s.bound k sid) = true := List.any_eq_true.2 ⟨n, List.mem_range.2 hn, hbound⟩
  unfold State.h2dSet
  rw [if_neg (by simp [hany])]
  dsimp only
  rw [reg_partlyRefused (wf_raiseBits h _ _ _) hinfo herr]
  exact reg_setReg_self h _ _ _

theorem exec_doorbellH2dSet {rid : Nat} {tr : Bool} (hi : Bool) (bits : Word)
    (hpass : s.refusal (.host rid tr) ((h2dReg hi).offset 0) true = none) :
    exec (.doorbellH2dSet (.host rid tr) hi bits) s = .next (s.h2dSet hi (s.sid (.host rid tr)) bits.toNat) :=
  congrArg Host.Outcome.next (access_of_none hpass _)

/-- Without a set in the same slot a write of ones clears the bits that it names. -/
theorem regBit_w1c_alone (h : RegsWf s) (hsets : s.meet.sets = []) (r : Reg) (b : Nat) {k : Nat} (hk : k < 32) :
    (s.w1c r 0 b).regBit r 0 k = (s.regBit r 0 k && !b.testBit k) := by
  have hnow : s.setNow r 0 = 0 := by rw [State.setNow, hsets]; rfl
  rw [regBit_w1c h r 0 b hk, hnow, Nat.zero_testBit, Bool.or_false]

theorem d2hClear_regBit (h : RegsWf s) (hsets : s.meet.sets = []) (hi : Bool) (sid bits : Nat) {k : Nat} (hk : k < 32) :
    (s.d2hClear hi sid bits).regBit (d2hReg hi) 0 k = (s.regBit (d2hReg hi) 0 k && !(bits &&& dbRights hi sid).testBit k) := by
  obtain ⟨hinfo, herr⟩ := d2hReg_apart hi
  have hw : RegsWf (s.w1c (d2hReg hi) 0 (bits &&& dbRights hi sid)) := wf_setReg h _ _ _
  unfold State.d2hClear
  dsimp only
  rw [State.regBit, reg_partlyRefused hw hinfo herr, ← State.regBit]
  exact regBit_w1c_alone h hsets _ _ hk

theorem exec_doorbellD2hClear {rid : Nat} {tr : Bool} (hi : Bool) (bits : Word)
    (hpass : s.refusal (.host rid tr) ((d2hReg hi).offset 0) true = none) :
    exec (.doorbellD2hClear (.host rid tr) hi bits) s = .next (s.d2hClear hi (s.sid (.host rid tr)) bits.toNat) :=
  congrArg Host.Outcome.next (access_of_none hpass _)

end

/-- Settles O31: each event writes the slot, incarnation or doorbell bits that it names, and a refused one its record of errors only. -/
theorem mailboxesAndDoorbells : Obligations.MailboxesAndDoorbells := by
  unfold Obligations.MailboxesAndDoorbells
  refine ⟨?post, ?apply, ?consume, ?reply, ?empty, ?h2dSet, ?h2dClear, ?d2hSet, ?d2hClear⟩
  case post =>
    intro rid n tr s h hn hpass
    have hexec := exec_mbInPost_host hn hpass
    refine ⟨fun hbound hempty => ?_, fun hbound hposted => ?_, fun hbound => ?_, fun hbound hposts => ?_⟩
    · rw [if_pos hbound] at hexec
      exact ⟨_, hexec, postIn_shows h.regs hempty _⟩
    · rw [if_pos hbound, postIn_posted hposted] at hexec
      exact ⟨_, hexec, mbError_sequence h.regs _ _, mbError_reg h.regs _ _ _ (by decide) (by decide) n⟩
    · rw [if_neg (by simp [hbound])] at hexec
      exact ⟨_, hexec, mbError_violation h.regs _ _, mbError_reg h.regs _ _ _ (by decide) (by decide) n⟩
    · have hnew := exec_mbNewInc_host hn hpass hbound
      rw [newInc_alone hposts] at hnew
      exact ⟨_, hnew, flag_setFld_one h.regs (by decide) n, reg_setFld_ne h.regs _ (by simp [F.mbInCtl_INC_PEND])⟩
  case apply =>
    intro n s h hn hpend hempty
    obtain ⟨-, hinc, hclear, -, -⟩ := applyInc_shows h.regs n
    refine ⟨s.applyInc n, if_pos (by simp [hn, hpend, hempty]), ?_, hclear⟩
    rw [hinc, if_pos hpend]
  case consume =>
    intro n dma fault op p s h hn hrun hswitch hposts hposted hparse hroom hgood
    obtain ⟨hstate, hinc, hbit, -⟩ := consumeIn_shows h.regs hn
    obtain ⟨hpkts, -⟩ := consumeIn_rest s n
    have hexec := exec_mbInConsume hn hrun hswitch hposts hposted hparse dma fault
    rw [mbInConsume_result h.regs hn hparse hroom hgood] at hexec
    generalize s.consumeIn n = u at hstate hinc hbit hpkts hexec
    have hchan : p.chan = n := by
      have hp : p = (parsePacket n (s.inSlotBytes n)).2 := by rw [hparse]
      rw [hp]
      rfl
    exact ⟨_, hexec, hstate, hinc, hbit, by rw [← hpkts]; rfl, _, by rw [← hpkts]; rfl, hchan, rfl, rfl⟩
  case reply =>
    intro n r s h hn hrun hempty hvalid hone hchan
    have hregs : ((s.outPosted n r.bytes).outGone n r).regs = (s.outPosted n r.bytes).regs := rfl
    obtain ⟨hstate, hbit, hwords⟩ := outPosted_shows h.regs hn r.bytes
    refine ⟨_, exec_mbOutPost hn hrun hempty hvalid hone hchan, (flag_of_regs hregs _ _).trans hstate,
      outGone_replies (by rw [outPosted_pkts, hone]) n, ?_, fun w hw => (reg_of_regs hregs _ _).trans (hwords w hw)⟩
    rw [State.regBit, reg_of_regs hregs]
    exact hbit
  case empty =>
    intro rid n tr s h hn hpass hbound hposts hposted
    exact ⟨_, exec_mbOutConsume hn hpass hbound hposts hposted, flag_setFld_zero h.regs (by decide) n⟩
  case h2dSet =>
    intro rid n tr hi bits s h hpass hn hbound
    exact ⟨_, exec_doorbellH2dSet hi bits hpass, h2dSet_reg h.regs hn hbound hi bits.toNat⟩
  case h2dClear =>
    intro hi bits s h hsets
    exact ⟨_, rfl, fun k hk => regBit_w1c_alone h.regs hsets _ _ hk⟩
  case d2hSet =>
    intro n s h hn
    exact ⟨s.d2hSet n, if_neg (Nat.not_le.2 hn), reg_setReg_self h.regs _ _ _⟩
  case d2hClear =>
    intro rid tr hi bits s h hsets hpass
    exact ⟨_, exec_doorbellD2hClear hi bits hpass, fun k hk => d2hClear_regBit h.regs hsets hi _ bits.toNat hk⟩

end Sys2Proof.Machine

/-! Rhogen links (O36): delivery in sequence, acknowledgements and replays, and what the loss of a link leaves. -/

namespace Sys2Proof.Machine
open Sys2Proof

section
variable {s t u : State} {k : Nat}

/-! ### Ports -/

/-- The tree's ports in canonical form. -/
abbrev PortsWf (s : State) : Prop := Table.wf (fun _ => ({} : RlPort)) s.tree.ports = true

theorem rl_setRl_self (hw : PortsWf s) (k : Nat) (p : RlPort) : (s.setRl k p).rl k = p := Table.get_set_self hw k p

theorem rl_setRl_ne (hw : PortsWf s) (p : RlPort) {j : Nat} (hne : j ≠ k) : (s.setRl k p).rl j = s.rl j := Table.get_set_ne hw p hne

theorem rl_of_tree (h : t.tree = s.tree) (k : Nat) : t.rl k = s.rl k := by rw [State.rl, State.rl, h]

theorem setRl_regs (s : State) (k : Nat) (p : RlPort) : (s.setRl k p).regs = s.regs := rfl

theorem node?_of (htree : t.tree = s.tree) (hregs : t.regs = s.regs) : t.node? = s.node? := by
  rw [State.node?, State.node?, htree, fld_of_regs hregs]

/-! ### What a new choice of roles leaves of the tree (R571 to R574) -/

/-- Roles, peers and locks stand. -/
structure RolesKept (s t : State) : Prop where
  root : t.tree.root = s.tree.root
  parent : t.tree.parent = s.tree.parent
  hops : t.tree.hops = s.tree.hops
  wf : PortsWf s → PortsWf t
  ports : PortsWf s → ∀ j, (t.rl j).peer = (s.rl j).peer ∧ (t.rl j).lock = (s.rl j).lock

theorem RolesKept.refl (s : State) : RolesKept s s := ⟨rfl, rfl, rfl, id, fun _ _ => ⟨rfl, rfl⟩⟩

theorem RolesKept.trans (h : RolesKept s t) (h' : RolesKept t u) : RolesKept s u :=
  ⟨h'.root.trans h.root, h'.parent.trans h.parent, h'.hops.trans h.hops, fun hw => h'.wf (h.wf hw),
    fun hw j => ⟨((h'.ports (h.wf hw) j).1).trans (h.ports hw j).1, ((h'.ports (h.wf hw) j).2).trans (h.ports hw j).2⟩⟩

theorem RolesKept.of_tree (h : t.tree = s.tree) : RolesKept s t :=
  ⟨by rw [h], by rw [h], by rw [h], fun hw => by rw [PortsWf, h]; exact hw, fun _ j => by rw [rl_of_tree h]; exact ⟨rfl, rfl⟩⟩

theorem RolesKept.ite (c : Prop) [Decidable c] (ht : RolesKept s t) (hu : RolesKept s u) : RolesKept s (if c then t else u) := by
  split
  · exact ht
  · exact hu

theorem RolesKept.foldl {α : Type} {f : State → α → State} (hf : ∀ m a, RolesKept m (f m a)) (l : List α) (s : State) :
    RolesKept s (l.foldl f s) := by
  induction l generalizing s with
  | nil => exact .refl s
  | cons a l ih => exact (hf s a).trans (ih (f s a))

/-- A port that is written with its peer and its lock. -/
theorem rolesKept_setRl {p : RlPort} (hpeer : p.peer = (s.rl k).peer) (hlock : p.lock = (s.rl k).lock) : RolesKept s (s.setRl k p) := by
  refine ⟨rfl, rfl, rfl, fun hw => Table.wf_set hw k p, fun hw j => ?_⟩
  by_cases hj : j = k
  · subst hj
    rw [rl_setRl_self hw]
    exact ⟨hpeer, hlock⟩
  · rw [rl_setRl_ne hw p hj]
    exact ⟨rfl, rfl⟩

theorem rolesKept_transmit (s : State) (k : Nat) (x : RlPacket) : RolesKept s (s.transmit k x) :=
  (rolesKept_setRl (p := { s.rl k with owed := 0 }) rfl rfl).trans (.of_tree (emit_tree _ _))

/-- A port whose packet is sent in sequence. -/
def RlPort.sent (p : RlPort) (x : RlPacket) (slot : Nat) : RlPort :=
  { p with txSeq := seqNext p.txSeq, unacked := p.unacked ++ [x], sentAt := if p.unacked.isEmpty then slot else p.sentAt }

theorem sendSeq_eq (s : State) (k : Nat) (x : RlPacket) : s.sendSeq k x
    = if (!(s.rl k).waiting.isEmpty || !(s.rl k).room x) = true then s.setRl k { s.rl k with waiting := (s.rl k).waiting ++ [x] }
      else (s.setRl k ((s.rl k).sent { x with seqd := true, seq := (s.rl k).txSeq } s.tick.slot)).transmit k
        { x with seqd := true, seq := (s.rl k).txSeq } := rfl

theorem rolesKept_sendSeq (s : State) (k : Nat) (x : RlPacket) : RolesKept s (s.sendSeq k x) := by
  rw [sendSeq_eq]
  refine .ite _ (rolesKept_setRl rfl rfl) ?_
  exact (rolesKept_setRl (p := (s.rl k).sent { x with seqd := true, seq := (s.rl k).txSeq } s.tick.slot) rfl rfl).trans (rolesKept_transmit _ _ _)

theorem stepJob_tree (s : State) (chan tag : Nat) (f : Job → Job) (answer : Job → State → Status × List Byte) :
    (s.stepJob chan tag f answer).tree = s.tree := by
  unfold State.stepJob
  split
  · rfl
  · dsimp only
    split
    · rw [answer_tree]
    · rfl

theorem rolesKept_fanResult (s : State) (f : FanOut) (status handle : Nat) : RolesKept s (s.fanResult f status handle) := by
  have hfans : RolesKept s { s with tree := { s.tree with fans := s.tree.fans.filter fun g => g != f } } :=
    ⟨rfl, rfl, rfl, id, fun _ _ => ⟨rfl, rfl⟩⟩
  exact hfans.trans (.of_tree (stepJob_tree _ _ _ _ _))

theorem setRoutable_tree (s : State) (n : Nat) (on : Bool) : (s.setRoutable n on).tree = s.tree := by
  cases on <;> rfl

/-- The nodes of a list lose their routes. -/
def State.unroute (s : State) (ns : List Nat) : State := ns.foldl (fun s n => s.setFld F.rlRoute_VALID n 0) s

/-- The nodes of a list are no longer routable on the root. -/
def State.unroutable (s : State) (ns : List Nat) : State := ns.foldl (fun s n => s.setRoutable n false) s

/-- A change of the topology shows. -/
def State.topoShown (s : State) (ns : List Nat) : State := if ns.isEmpty then s else s.raise F.rlStat_TOPO 0

/-- The fan-outs that wait for a node of a list fail. -/
def State.fansFail (s : State) (ns : List Nat) : State :=
  (s.tree.fans.filter fun f => ns.contains f.node).foldl (fun s f => s.fanResult f Status.nodeUnreachable.code 0) s

theorem loseNodes_eq (s : State) (mask : Nat) : s.loseNodes mask = if (!(s.unroute (onesOf 64 mask)).tree.root) = true then s.unroute (onesOf 64 mask)
    else (((s.unroute (onesOf 64 mask)).unroutable (onesOf 64 mask)).topoShown (onesOf 64 mask)).fansFail (onesOf 64 mask) := rfl

theorem rolesKept_unroute (s : State) (ns : List Nat) : RolesKept s (s.unroute ns) := .foldl (fun m _ => .of_tree (setFld_tree m _ _ _)) ns s

theorem rolesKept_unroutable (s : State) (ns : List Nat) : RolesKept s (s.unroutable ns) :=
  .foldl (fun m n => .of_tree (setRoutable_tree m n false)) ns s

theorem rolesKept_topoShown (s : State) (ns : List Nat) : RolesKept s (s.topoShown ns) := .ite _ (.refl s) (.of_tree (raise_tree s _ _))

theorem rolesKept_fansFail (s : State) (ns : List Nat) : RolesKept s (s.fansFail ns) := .foldl (fun m f => rolesKept_fanResult m f _ _) _ s

theorem rolesKept_loseNodes (s : State) (mask : Nat) : RolesKept s (s.loseNodes mask) := by
  have hunroute := rolesKept_unroute s (onesOf 64 mask)
  rw [loseNodes_eq]
  exact .ite _ hunroute (((hunroute.trans (rolesKept_unroutable _ _)).trans (rolesKept_topoShown _ _)).trans (rolesKept_fansFail _ _))

theorem rolesKept_sendLost (s : State) (mask : Nat) : RolesKept s (s.sendLost mask) := by
  unfold State.sendLost
  split
  · exact .ite _ (.refl _) (rolesKept_sendSeq _ _ _)
  · exact .refl _

/-- A port without the packets held for it. -/
def RlPort.emptied (p : RlPort) : RlPort :=
  { p with unacked := [], waiting := [], txSeq := 0, rxSeq := 0, owed := 0, naking := false, replays := 0 }

/-- A link without the packets held for it, which are counted. -/
def State.linkEmptied (s : State) (k : Nat) : State :=
  (s.count .rlLostCnt 0 ((s.rl k).unacked.length + (s.rl k).waiting.length)).setRl k (s.rl k).emptied

theorem leaveActive_eq (s : State) (k was : Nat) : s.leaveActive k was
    = if was = 8 then ((s.linkEmptied k).loseNodes ((s.linkEmptied k).nodesOn k)).sendLost ((s.linkEmptied k).nodesOn k) else s.linkEmptied k := rfl

theorem rolesKept_linkEmptied (s : State) (k : Nat) : RolesKept s (s.linkEmptied k) := by
  have hcount : RolesKept s (s.count .rlLostCnt 0 ((s.rl k).unacked.length + (s.rl k).waiting.length)) := .of_tree (count_tree _ _ _ _)
  exact hcount.trans (rolesKept_setRl rfl rfl)

theorem rolesKept_leaveActive (s : State) (k was : Nat) : RolesKept s (s.leaveActive k was) := by
  rw [leaveActive_eq]
  exact .ite _ (((rolesKept_linkEmptied s k).trans (rolesKept_loseNodes _ _)).trans (rolesKept_sendLost _ _)) (rolesKept_linkEmptied s k)

theorem rolesKept_reportChild (s : State) : RolesKept s s.reportChild := by
  unfold State.reportChild
  split
  · exact .ite _ ((rolesKept_sendSeq _ _ _).trans (.of_tree (draw_tree _))) (.refl _)
  · exact .refl _

/-- RL_PORT_STAT of a port as its role is decided. -/
def State.roleWord (s : State) (k : Nat) : Word :=
  word (b2n (s.rlUp k) * 2 ^ 31 + b2n (s.roleOf k).2 * 2 ^ 30 + (s.roleOf k).1 * 2 ^ 24 + s.peerHops k % 16 * 2 ^ 20
    + (((s.rl k).peer.bind selected).getD 0))

/-- A state of a link that is a conflict shows. -/
def State.conflictShown (s : State) (now : Nat) : State := if (now = 3 || now = 4) = true then s.raise F.rlStat_CONFLICT 0 else s

/-- A link that was used is left. -/
def State.usedLeft (s : State) (k was : Nat) : State := if (was = 7 || was = 8) = true then s.leaveActive k was else s

/-- A child that is found is reported. -/
def State.childReported (s : State) (now : Nat) : State := if now = 8 then s.reportChild else s

theorem decideRole_eq (s : State) (k : Nat) : s.decideRole k = if s.rlState k = (s.roleOf k).1 then s.setReg .rlPortStat k (s.roleWord k)
    else ((((s.setReg .rlPortStat k (s.roleWord k)).raise F.rlStat_TOPO 0).conflictShown (s.roleOf k).1).usedLeft k (s.rlState k)).childReported
      (s.roleOf k).1 := rfl

theorem rolesKept_decideRole (s : State) (k : Nat) : RolesKept s (s.decideRole k) := by
  have hput : RolesKept s (s.setReg .rlPortStat k (s.roleWord k)) := .of_tree (setReg_tree _ _ _ _)
  have hconflict : ∀ (m : State) (now : Nat), RolesKept m (m.conflictShown now) := fun m now => .ite _ (.of_tree (raise_tree _ _ _)) (.refl _)
  have hleft : ∀ (m : State) (was : Nat), RolesKept m (m.usedLeft k was) := fun m was => .ite _ (rolesKept_leaveActive _ _ _) (.refl _)
  have hchild : ∀ (m : State) (now : Nat), RolesKept m (m.childReported now) := fun m now => .ite _ (rolesKept_reportChild _) (.refl _)
  rw [decideRole_eq]
  exact .ite _ hput ((((hput.trans (.of_tree (raise_tree _ _ _))).trans (hconflict _ _)).trans (hleft _ _)).trans (hchild _ _))

/-- A port is told that a field of its HELLO has changed. -/
def State.portDirty (s : State) (k : Nat) : State := s.onRl k fun p => { p with dirty := p.lock }

theorem rolesKept_portDirty (s : State) (k : Nat) : RolesKept s (s.portDirty k) :=
  rolesKept_setRl (p := { s.rl k with dirty := (s.rl k).lock }) rfl rfl

theorem portDirty_regs (s : State) (k : Nat) : (s.portDirty k).regs = s.regs := rfl

/-- The tree with its parent and HOPS chosen again, every port told of a change. -/
def State.parentChosen (s : State) : State :=
  let u : State := { s with tree := { s.tree with parent := s.chooseParent.1, hops := s.chooseParent.2 } }
  if s.chooseParent.1 != s.tree.parent || s.chooseParent.2 != s.tree.hops then
    (List.range 4).foldl State.portDirty u
  else u

theorem decideRoles_eq (s : State) : s.decideRoles = (List.range 4).foldl (fun s k => s.decideRole k) s.parentChosen := rfl

theorem rolesKept_dirty (u : State) (l : List Nat) : RolesKept u (l.foldl State.portDirty u) := .foldl rolesKept_portDirty l u

theorem parentChosen_shows (s : State) : s.parentChosen.tree.root = s.tree.root ∧ s.parentChosen.tree.parent = s.chooseParent.1
    ∧ s.parentChosen.tree.hops = s.chooseParent.2 ∧ (PortsWf s → PortsWf s.parentChosen)
    ∧ (PortsWf s → ∀ j, (s.parentChosen.rl j).peer = (s.rl j).peer ∧ (s.parentChosen.rl j).lock = (s.rl j).lock) := by
  have hkept := rolesKept_dirty { s with tree := { s.tree with parent := s.chooseParent.1, hops := s.chooseParent.2 } } (List.range 4)
  unfold State.parentChosen
  dsimp only
  split
  · exact ⟨hkept.root, hkept.parent, hkept.hops, hkept.wf, hkept.ports⟩
  · exact ⟨rfl, rfl, rfl, id, fun _ _ => ⟨rfl, rfl⟩⟩

/-- What a new choice of roles leaves: the parent and HOPS chosen, and every peer and lock. -/
theorem decideRoles_shows (s : State) : s.decideRoles.tree.root = s.tree.root ∧ s.decideRoles.tree.parent = s.chooseParent.1
    ∧ s.decideRoles.tree.hops = s.chooseParent.2
    ∧ (PortsWf s → ∀ j, (s.decideRoles.rl j).peer = (s.rl j).peer ∧ (s.decideRoles.rl j).lock = (s.rl j).lock) := by
  obtain ⟨hroot, hparent, hhops, hwf, hports⟩ := parentChosen_shows s
  have hkept : RolesKept s.parentChosen s.decideRoles := .foldl (fun m k => rolesKept_decideRole m k) _ _
  refine ⟨hkept.root.trans hroot, hkept.parent.trans hparent, hkept.hops.trans hhops, fun hw j => ?_⟩
  obtain ⟨hpeer, hlock⟩ := hkept.ports (hwf hw) j
  exact ⟨hpeer.trans (hports hw j).1, hlock.trans (hports hw j).2⟩

/-! ### Routes only end, and another port's state stands -/

/-- ROOT, the state of port `k` and the ports of routes stand; a route that has ended stays so. -/
structure RoutesEnd (k : Nat) (s t : State) : Prop where
  wf : RegsWf s → RegsWf t
  isRoot : RegsWf s → t.flag F.rlStat_ROOT 0 = s.flag F.rlStat_ROOT 0
  stat : RegsWf s → t.reg .rlPortStat k = s.reg .rlPortStat k
  port : RegsWf s → ∀ n, t.fld F.rlRoute_PORT n = s.fld F.rlRoute_PORT n
  valid : RegsWf s → ∀ n, s.flag F.rlRoute_VALID n = false → t.flag F.rlRoute_VALID n = false

theorem RoutesEnd.of_regs (h : t.regs = s.regs) : RoutesEnd k s t :=
  ⟨fun hw => by rw [RegsWf, h]; exact hw, fun _ => flag_of_regs h _ _, fun _ => reg_of_regs h _ _, fun _ n => fld_of_regs h _ n,
    fun _ n hn => (flag_of_regs h _ n).trans hn⟩

theorem RoutesEnd.refl (k : Nat) (s : State) : RoutesEnd k s s := .of_regs rfl

theorem RoutesEnd.trans (h : RoutesEnd k s t) (h' : RoutesEnd k t u) : RoutesEnd k s u :=
  ⟨fun hw => h'.wf (h.wf hw), fun hw => (h'.isRoot (h.wf hw)).trans (h.isRoot hw), fun hw => (h'.stat (h.wf hw)).trans (h.stat hw),
    fun hw n => (h'.port (h.wf hw) n).trans (h.port hw n), fun hw n hn => h'.valid (h.wf hw) n (h.valid hw n hn)⟩

theorem RoutesEnd.ite (c : Prop) [Decidable c] (ht : RoutesEnd k s t) (hu : RoutesEnd k s u) : RoutesEnd k s (if c then t else u) := by
  split
  · exact ht
  · exact hu

theorem RoutesEnd.foldl {α : Type} {f : State → α → State} (l : List α) (hf : ∀ m a, a ∈ l → RoutesEnd k m (f m a)) (s : State) :
    RoutesEnd k s (l.foldl f s) := by
  induction l generalizing s with
  | nil => exact .refl k s
  | cons a l ih => exact (hf s a List.mem_cons_self).trans (ih (fun m b hb => hf m b (List.mem_cons_of_mem a hb)) (f s a))

/-- A register beside those of the routes is written. -/
theorem routesEnd_setReg {r : Reg} {i : Nat} (hroot : r ≠ .rlStat) (hroute : r ≠ .rlRoute) (hstat : ¬ (r = .rlPortStat ∧ i = k)) (v : Word) :
    RoutesEnd k s (s.setReg r i v) where
  wf hw := wf_setReg hw _ _ _
  isRoot hw := flag_of_reg (f := F.rlStat_ROOT) (reg_setReg_ne hw _ fun hk => hroot hk.1.symm)
  stat hw := reg_setReg_ne hw _ fun hk => hstat ⟨hk.1.symm, hk.2.symm⟩
  port hw _ := fld_of_reg (f := F.rlRoute_PORT) (reg_setReg_ne hw _ fun hk => hroute hk.1.symm)
  valid hw _ hn := (flag_of_reg (f := F.rlRoute_VALID) (reg_setReg_ne hw _ fun hk => hroute hk.1.symm)).trans hn

/-- A flag of RL_STAT beside ROOT is raised. -/
theorem routesEnd_raise {f : Fld} (hreg : f.reg = .rlStat) (hroot : f.apart F.rlStat_ROOT = true) : RoutesEnd k s (s.raise f 0) where
  wf hw := wf_raise hw _ _
  isRoot hw := flag_raise_apart hw hroot 0 0
  stat hw := reg_raise_ne hw fun hk => by simp [hreg] at hk
  port hw _ := fld_of_reg (f := F.rlRoute_PORT) (reg_raise_ne hw fun hk => by simp [hreg, F.rlRoute_PORT] at hk)
  valid hw _ hn := (flag_of_reg (f := F.rlRoute_VALID) (reg_raise_ne hw fun hk => by simp [hreg, F.rlRoute_VALID] at hk)).trans hn

/-- A route ends. -/
theorem routesEnd_unrouted (k n : Nat) (s : State) : RoutesEnd k s (s.setFld F.rlRoute_VALID n 0) where
  wf hw := wf_setFld hw _ _ _
  isRoot hw := flag_setFld_apart hw (by decide) n 0 0
  stat hw := reg_setFld_ne hw _ (by simp [F.rlRoute_VALID])
  port hw j := fld_setFld_apart hw (by decide) n 0 j
  valid hw j hj := by
    by_cases hjn : j = n
    · subst hjn
      exact flag_setFld_zero hw (by decide) j
    · refine Eq.trans (flag_of_reg (f := F.rlRoute_VALID) ?_) hj
      exact reg_setFld_ne hw _ fun hk => hjn hk.2

theorem routesEnd_setRoutable (k n : Nat) (s : State) : RoutesEnd k s (s.setRoutable n false) := by
  have hput : ∀ r : Reg, r = .rlNodeValidLo ∨ r = .rlNodeValidHi → RoutesEnd k s (s.clearBit r 0 (n % 32)) := by
    rintro r (rfl | rfl)
    · exact routesEnd_setReg (by decide) (by decide) (by simp) _
    · exact routesEnd_setReg (by decide) (by decide) (by simp) _
  exact hput _ (by split; exacts [Or.inl rfl, Or.inr rfl])

theorem sendSeq_regs (s : State) (k : Nat) (x : RlPacket) : (s.sendSeq k x).regs = s.regs := by
  rw [sendSeq_eq]
  split
  · rfl
  · rfl

theorem fanResult_regs (s : State) (f : FanOut) (status handle : Nat) : (s.fanResult f status handle).regs = s.regs := by
  unfold State.fanResult State.stepJob
  dsimp only
  split
  · rfl
  · split
    · rw [answer_regs]
    · rfl

theorem routesEnd_unroute (k : Nat) (s : State) (ns : List Nat) : RoutesEnd k s (s.unroute ns) :=
  .foldl ns (fun m n _ => routesEnd_unrouted k n m) s

theorem routesEnd_unroutable (k : Nat) (s : State) (ns : List Nat) : RoutesEnd k s (s.unroutable ns) :=
  .foldl ns (fun m n _ => routesEnd_setRoutable k n m) s

theorem routesEnd_topoShown (k : Nat) (s : State) (ns : List Nat) : RoutesEnd k s (s.topoShown ns) :=
  .ite _ (.refl k s) (routesEnd_raise rfl (by decide))

theorem routesEnd_fansFail (k : Nat) (s : State) (ns : List Nat) : RoutesEnd k s (s.fansFail ns) :=
  .foldl _ (fun m f _ => .of_regs (fanResult_regs m f _ _)) s

theorem routesEnd_loseNodes (k mask : Nat) (s : State) : RoutesEnd k s (s.loseNodes mask) := by
  have hunroute := routesEnd_unroute k s (onesOf 64 mask)
  rw [loseNodes_eq]
  exact .ite _ hunroute (((hunroute.trans (routesEnd_unroutable k _ _)).trans (routesEnd_topoShown k _ _)).trans (routesEnd_fansFail k _ _))

theorem sendLost_regs (s : State) (mask : Nat) : (s.sendLost mask).regs = s.regs := by
  unfold State.sendLost
  split
  · split
    · rfl
    · exact sendSeq_regs _ _ _
  · rfl

theorem routesEnd_leaveActive (k j was : Nat) (s : State) : RoutesEnd k s (s.leaveActive j was) := by
  have hempty : RoutesEnd k s (s.linkEmptied j) := .of_regs rfl
  rw [leaveActive_eq]
  exact .ite _ ((hempty.trans (routesEnd_loseNodes k _ _)).trans (.of_regs (sendLost_regs _ _))) hempty

theorem reportChild_regs (s : State) : s.reportChild.regs = s.regs := by
  unfold State.reportChild
  split
  · split
    · rw [draw_regs, sendSeq_regs]
    · rfl
  · rfl

/-- What follows when a link's state has changed. -/
theorem routesEnd_changed (k j was now : Nat) (s : State) :
    RoutesEnd k s ((((s.raise F.rlStat_TOPO 0).conflictShown now).usedLeft j was).childReported now) := by
  have htopo : RoutesEnd k s (s.raise F.rlStat_TOPO 0) := routesEnd_raise rfl (by decide)
  have hconflict : ∀ m : State, RoutesEnd k m (m.conflictShown now) := fun m => .ite _ (routesEnd_raise rfl (by decide)) (.refl _ _)
  have hleft : ∀ m : State, RoutesEnd k m (m.usedLeft j was) := fun m => .ite _ (routesEnd_leaveActive k j was m) (.refl _ _)
  have hchild : ∀ m : State, RoutesEnd k m (m.childReported now) := fun m => .ite _ (.of_regs (reportChild_regs m)) (.refl _ _)
  exact ((htopo.trans (hconflict _)).trans (hleft _)).trans (hchild _)

theorem routesEnd_decideRole {j : Nat} (hne : j ≠ k) (s : State) : RoutesEnd k s (s.decideRole j) := by
  have hput : RoutesEnd k s (s.setReg .rlPortStat j (s.roleWord j)) := routesEnd_setReg (by decide) (by decide) (fun hk => hne hk.2) _
  rw [decideRole_eq]
  exact .ite _ hput (hput.trans (routesEnd_changed k j _ _ _))

theorem parentChosen_regs (s : State) : s.parentChosen.regs = s.regs := by
  have hdirty : ∀ (l : List Nat) (m : State), (l.foldl State.portDirty m).regs = m.regs := fun l => by
    induction l with
    | nil => exact fun _ => rfl
    | cons k l ih => exact fun m => (ih (m.portDirty k)).trans (portDirty_regs m k)
  unfold State.parentChosen
  dsimp only
  split
  · exact hdirty _ _
  · rfl

/-! ### A port without a peer is down (R574) -/

theorem roleOf_alone (hpeer : (s.rl k).peer = none) : s.roleOf k = (0, false) := by
  unfold State.roleOf
  rw [hpeer]

theorem roleWord_alone (hpeer : (s.rl k).peer = none) : s.roleWord k = word (15 * 2 ^ 20) := by
  have hup : s.rlUp k = false := by
    unfold State.rlUp
    rw [hpeer]
    exact Bool.and_false _
  have hhops : s.peerHops k = 15 := by
    unfold State.peerHops
    rw [hpeer]
    rfl
  unfold State.roleWord
  rw [roleOf_alone hpeer, hup, hhops, hpeer]
  rfl

/-- A sum of different powers of two has the bits that it is made of. -/
theorem foldl_pow_range (c : Nat → Bool) (n : Nat) : (List.range n).foldl (fun m k => if c k then m + 2 ^ k else m) 0 < 2 ^ n
    ∧ ∀ k, k < n → ((List.range n).foldl (fun m k => if c k then m + 2 ^ k else m) 0).testBit k = c k := by
  induction n with
  | zero => exact ⟨Nat.one_pos, fun k hk => absurd hk (Nat.not_lt_zero k)⟩
  | succ n ih =>
    obtain ⟨hlt, hbit⟩ := ih
    rw [List.range_succ, List.foldl_append, List.foldl_cons, List.foldl_nil]
    generalize (List.range n).foldl (fun m k => if c k then m + 2 ^ k else m) 0 = m at hlt hbit
    have hpow : 2 ^ (n + 1) = 2 ^ n + 2 ^ n := by rw [Nat.pow_succ]; omega
    have hself : m.testBit n = false := Nat.testBit_lt_two_pow hlt
    split
    next hc =>
      have hadd : m + 2 ^ n = 2 ^ n + m := Nat.add_comm _ _
      refine ⟨by omega, fun k hk => ?_⟩
      rw [hadd]
      rcases Nat.lt_succ_iff_lt_or_eq.1 hk with hlow | rfl
      · rw [Nat.testBit_two_pow_add_gt hlow, hbit k hlow]
      · rw [Nat.testBit_two_pow_add_eq, hself, hc]
        rfl
    next hc =>
      refine ⟨by omega, fun k hk => ?_⟩
      rcases Nat.lt_succ_iff_lt_or_eq.1 hk with hlow | rfl
      · exact hbit k hlow
      · rw [hself]
        exact (Bool.eq_false_iff.2 hc).symm

theorem nodesOn_testBit {n : Nat} (hn : n < 64) : (s.nodesOn k).testBit n = (s.flag F.rlRoute_VALID n && s.fld F.rlRoute_PORT n == k) :=
  (foldl_pow_range (fun n => s.flag F.rlRoute_VALID n && s.fld F.rlRoute_PORT n == k) 64).2 n hn

/-- The named nodes have no route any more. -/
theorem unroute_ends (h : RegsWf s) {ns : List Nat} {n : Nat} (hn : n ∈ ns) : (s.unroute ns).flag F.rlRoute_VALID n = false := by
  unfold State.unroute
  induction ns generalizing s with
  | nil => exact absurd hn List.not_mem_nil
  | cons j ns ih =>
    have hw := wf_setFld h F.rlRoute_VALID j 0
    rcases List.mem_cons.1 hn with rfl | hn
    · exact (routesEnd_unroute 0 _ ns).valid hw n (flag_setFld_zero h (by decide) n)
    · exact ih hw hn

theorem loseNodes_ends (h : RegsWf s) {mask n : Nat} (hn : n < 64) (hbit : mask.testBit n = true) :
    (s.loseNodes mask).flag F.rlRoute_VALID n = false := by
  have hends := unroute_ends h (mem_onesOf.2 ⟨hn, hbit⟩)
  have hw : RegsWf (s.unroute (onesOf 64 mask)) := (routesEnd_unroute 0 s _).wf h
  rw [loseNodes_eq]
  split
  · exact hends
  · exact (((routesEnd_unroutable 0 _ _).trans (routesEnd_topoShown 0 _ _)).trans (routesEnd_fansFail 0 _ _)).valid hw n hends

theorem linkEmptied_regs (s : State) (k : Nat) : (s.linkEmptied k).regs = s.regs := rfl

/-- A downstream link that is left takes the routes over it with it (R574). -/
theorem leaveActive_ends (h : RegsWf s) {n : Nat} (hn : n < 64) (hvalid : s.flag F.rlRoute_VALID n = true) (hport : s.fld F.rlRoute_PORT n = k) :
    (s.leaveActive k 8).flag F.rlRoute_VALID n = false := by
  have hregs := linkEmptied_regs s k
  rw [leaveActive_eq, if_pos rfl]
  generalize s.linkEmptied k = m at hregs
  have hw : RegsWf m := by rw [RegsWf, hregs]; exact h
  have hbit : (m.nodesOn k).testBit n = true := by
    rw [nodesOn_testBit hn, flag_of_regs hregs, fld_of_regs hregs, hvalid, hport, beq_self_eq_true]
    rfl
  rw [flag_of_regs (sendLost_regs _ _)]
  exact loseNodes_ends hw hn hbit

/-- What a port that leaves its downstream link shows. -/
theorem changed_ends (h : RegsWf s) {n : Nat} (hn : n < 64) (hport : s.fld F.rlRoute_PORT n = k) :
    ((((s.raise F.rlStat_TOPO 0).conflictShown 0).usedLeft k 8).childReported 0).flag F.rlRoute_VALID n = false := by
  have hconflict : ∀ m : State, m.conflictShown 0 = m := fun m => if_neg (by decide)
  have hused : ∀ m : State, m.usedLeft k 8 = m.leaveActive k 8 := fun m => if_pos rfl
  have hchild : ∀ m : State, m.childReported 0 = m := fun m => if_neg (by decide)
  have htopo : RoutesEnd k s (s.raise F.rlStat_TOPO 0) := routesEnd_raise rfl (by decide)
  rw [hconflict, hused, hchild]
  have hw := htopo.wf h
  have hport' := (htopo.port h n).trans hport
  generalize s.raise F.rlStat_TOPO 0 = m at hw hport'
  by_cases hvalid : m.flag F.rlRoute_VALID n = true
  · exact leaveActive_ends hw hn hvalid hport'
  · exact (routesEnd_leaveActive k k 8 m).valid hw n (Bool.eq_false_iff.2 hvalid)

/-- A port without a peer shows state 0, and the routes over a link that it leaves end. -/
theorem decideRole_alone (h : RegsWf s) (hpeer : (s.rl k).peer = none) : RegsWf (s.decideRole k) ∧ (s.decideRole k).fld F.rlPortStat_STATE k = 0
    ∧ (s.rlState k = 8 → ∀ n, n < 64 → s.fld F.rlRoute_PORT n = k → (s.decideRole k).flag F.rlRoute_VALID n = false) := by
  have hput := wf_setReg h .rlPortStat k (s.roleWord k)
  have hstate : (s.setReg .rlPortStat k (s.roleWord k)).fld F.rlPortStat_STATE k = 0 := by
    refine (fld_of_reg_eq (f := F.rlPortStat_STATE) (reg_setReg_self h _ _ _)).trans ?_
    rw [roleWord_alone hpeer]
    decide
  have hport : ∀ n, (s.setReg .rlPortStat k (s.roleWord k)).fld F.rlRoute_PORT n = s.fld F.rlRoute_PORT n := fun n =>
    fld_of_reg (f := F.rlRoute_PORT) (reg_setReg_ne h _ (by simp [F.rlRoute_PORT]))
  rw [decideRole_eq, roleOf_alone hpeer]
  generalize s.setReg .rlPortStat k (s.roleWord k) = m at hput hstate hport
  have hends := routesEnd_changed k k (s.rlState k) 0 m
  refine ⟨?_, ?_, fun hwas n hn hroute => ?_⟩
  · split
    · exact hput
    · exact hends.wf hput
  · split
    · exact hstate
    · exact (fld_of_reg (f := F.rlPortStat_STATE) (hends.stat hput)).trans hstate
  · rw [if_neg (by rw [hwas]; decide), hwas]
    exact changed_ends hput hn ((hport n).trans hroute)

/-- The other ports leave what a port without a peer shows. -/
theorem decideRoles_alone (h : RegsWf s) (hw : PortsWf s) (hk : k < 4) (hpeer : (s.rl k).peer = none) : s.decideRoles.fld F.rlPortStat_STATE k = 0
    ∧ (s.rlState k = 8 → ∀ n, n < 64 → s.fld F.rlRoute_PORT n = k → s.decideRoles.flag F.rlRoute_VALID n = false) := by
  obtain ⟨before, after, hsplit⟩ := List.append_of_mem (List.mem_range.2 hk)
  have hnodup : (before ++ k :: after).Nodup := hsplit ▸ List.nodup_range
  have hbefore : k ∉ before := fun hmem => (List.nodup_append.1 hnodup).2.2 k hmem k List.mem_cons_self rfl
  have hafter : k ∉ after := (List.nodup_cons.1 (List.nodup_append.1 hnodup).2.1).1
  obtain ⟨-, -, -, hwf, hports⟩ := parentChosen_shows s
  have hregs := parentChosen_regs s
  have hothers : ∀ (l : List Nat) (m : State), k ∉ l → RoutesEnd k m (l.foldl (fun s k => s.decideRole k) m) := fun l m hl =>
    .foldl l (fun m j hj => routesEnd_decideRole (fun he : j = k => hl (he ▸ hj)) m) m
  have hkept : RolesKept s.parentChosen (before.foldl (fun s k => s.decideRole k) s.parentChosen) := .foldl (fun m k => rolesKept_decideRole m k) _ _
  have hfirst : RoutesEnd k s (before.foldl (fun s k => s.decideRole k) s.parentChosen) :=
    (RoutesEnd.of_regs hregs).trans (hothers before _ hbefore)
  have hpeer' := (hkept.ports (hwf hw) k).1.trans ((hports hw k).1.trans hpeer)
  rw [decideRoles_eq, hsplit, List.foldl_append, List.foldl_cons]
  generalize before.foldl (fun s k => s.decideRole k) s.parentChosen = m at hfirst hpeer'
  obtain ⟨hwf', hstate, hroutes⟩ := decideRole_alone (hfirst.wf h) hpeer'
  have hrest := hothers after (m.decideRole k) hafter
  refine ⟨(fld_of_reg (f := F.rlPortStat_STATE) (hrest.stat hwf')).trans hstate, fun hwas n hn hport => ?_⟩
  have hwas' : m.rlState k = 8 := (fld_of_reg (f := F.rlPortStat_STATE) (hfirst.stat h)).trans hwas
  exact hrest.valid hwf' n (hroutes hwas' n hn ((hfirst.port h n).trans hport))

/-! ### HELLO, acknowledgements and packets (R566, R567, R570) -/

/-- A port that finds block lock. -/
def RlPort.found (p : RlPort) (slot : Nat) : RlPort := { p with lock := true, peer := none, helloAt := slot }

theorem exec_rhogenBlockLock (hk : k < 4) (hlock : (s.rl k).lock = false) :
    exec (.rhogenBlockLock k) s = .next (s.setRl k ((s.rl k).found s.tick.slot)) := by
  change execRhogenBlockLock k s = _
  rw [execRhogenBlockLock, if_neg (by simp [hk, hlock])]
  rfl

/-- A port whose HELLO goes out. -/
def RlPort.greeted (p : RlPort) (slot : Nat) : RlPort := { p with helloAt := slot, dirty := false }

theorem exec_rhogenHelloTimer_dirty (hk : k < 4) (hlock : (s.rl k).lock = true) (hdirty : (s.rl k).dirty = true) : exec (.rhogenHelloTimer k) s
    = .next ((s.setRl k ((s.rl k).greeted s.tick.slot)).emit (.rhogen k { typ := 0x01, payload := helloBytes (s.myHello k), src := s.node?.getD 0 })) := by
  change execRhogenHelloTimer k s = _
  rw [execRhogenHelloTimer, if_neg (by simp [hk, hlock]), if_pos (by simp [hdirty])]
  rfl

/-- A port that has acknowledged, by NAK or not. -/
def RlPort.acked (p : RlPort) (nak : Bool) : RlPort := { p with owed := 0, naking := p.naking || nak }

theorem sendAck_eq (s : State) (k : Nat) (nak : Bool) : s.sendAck k nak = (s.setRl k ((s.rl k).acked nak)).emit
    (.rhogen k { typ := if nak then 0x03 else 0x02, ack := seqPrev (s.rl k).rxSeq, ackV := true, src := s.node?.getD 0 }) := rfl

theorem rl_sendAck (hw : PortsWf s) (k : Nat) (nak : Bool) : (s.sendAck k nak).rl k = (s.rl k).acked nak := by
  rw [sendAck_eq, rl_of_tree (emit_tree _ _), rl_setRl_self hw]

theorem sendAck_out (s : State) (k : Nat) (nak : Bool) : (s.sendAck k nak).out = s.out ++ [.rhogen k
    { typ := if nak then 0x03 else 0x02, ack := seqPrev (s.rl k).rxSeq, ackV := true, src := s.node?.getD 0 }] := rfl

theorem exec_rhogenPacketReceive_bad (hk : k < 4) (hlock : (s.rl k).lock = true) (hactive : s.rlActive k = true) (hnak : (s.rl k).naking = false)
    (x : RlPacket) : exec (.rhogenPacketReceive k x false) s = .next ((s.count .rlCrcErrCnt k 1).sendAck k true) := by
  have hactive' : (s.count .rlCrcErrCnt k 1).rlActive k = true := hactive
  have hnak' : ((s.count .rlCrcErrCnt k 1).rl k).naking = false := hnak
  change execRhogenPacketReceive k x false s = _
  unfold execRhogenPacketReceive
  rw [if_neg (by simp [hk, hlock]), if_pos (by decide)]
  dsimp only
  rw [if_pos (by simp [hactive', hnak'])]

theorem exec_rhogenPacketReceive_good (hk : k < 4) (hlock : (s.rl k).lock = true) (hactive : s.rlActive k = true) {x : RlPacket} (hx : x.typ ≠ 0x01)
    (htaken : s.takePacket k x = .ok t) : exec (.rhogenPacketReceive k x true) s = .next t := by
  change execRhogenPacketReceive k x true s = _
  unfold execRhogenPacketReceive
  rw [if_neg (by simp [hk, hlock]), if_neg (by decide), if_neg hx, if_neg (by simp [hactive]), htaken]

/-- A port that has accepted the packet it expected. -/
def RlPort.accepted (p : RlPort) (slot : Nat) : RlPort :=
  { p with rxSeq := seqNext p.rxSeq, naking := false, owed := p.owed + 1, owedAt := if p.owed = 0 then slot else p.owedAt }

/-- The packet expected next is accepted and served (R567). -/
theorem takePacket_expected {x : RlPacket} (htyp : x.typ = 0x30) (hseqd : x.seqd = true) (hack : x.ackV = false) (hseq : x.seq = (s.rl k).rxSeq)
    (howed : (s.rl k).owed < 7) : s.takePacket k x = (s.setRl k ((s.rl k).accepted s.tick.slot)).routePacket k x := by
  have hnone : ¬ (x.ackV || decide (x.typ = 0x02) || decide (x.typ = 0x03)) = true := by simp [hack, htyp]
  unfold State.takePacket
  dsimp only
  rw [if_neg hnone, if_neg (by simp [htyp]), if_neg (by simp [hseqd]), if_pos hseq, if_neg (by omega)]
  rfl

/-- A packet ahead of the one expected is refused (R567). -/
theorem takePacket_ahead {x : RlPacket} (htyp : x.typ = 0x30) (hseqd : x.seqd = true) (hack : x.ackV = false) (hseq : x.seq ≠ (s.rl k).rxSeq)
    (hnak : (s.rl k).naking = false) (hahead : seqUpTo (seqPrev (s.rl k).rxSeq) x.seq = false) : s.takePacket k x = .ok (s.sendAck k true) := by
  have hnone : ¬ (x.ackV || decide (x.typ = 0x02) || decide (x.typ = 0x03)) = true := by simp [hack, htyp]
  unfold State.takePacket
  dsimp only
  rw [if_neg hnone, if_neg (by simp [htyp]), if_neg (by simp [hseqd]), if_neg hseq, if_neg (by simp [hnak]), if_neg (by simp [hahead])]

/-- An INT for this node shows at its source (R575). -/
theorem routePacket_int {x : RlPacket} (htyp : x.typ = 0x30) (hnode : s.node? = some x.dst) (hsrc : x.src < 32) (j : Nat) :
    s.routePacket j x = .ok (s.raiseBits .rlNodeIntLo 0 (2 ^ x.src)) := by
  have hmod : x.src % 32 = x.src := Nat.mod_eq_of_lt hsrc
  unfold State.routePacket
  rw [if_neg (by simp [htyp]), if_neg (by simp [htyp]), if_neg (by simp [htyp]), if_neg (by simp [hnode]), htyp]
  simp only [if_pos hsrc, hmod]

theorem exec_rhogenAckTimer (hk : k < 4) (howed : (s.rl k).owed ≠ 0) (hdue : 3125 ≤ 2 * (s.tick.slot - (s.rl k).owedAt)) :
    exec (.rhogenAckTimer k) s = .next (s.sendAck k false) := by
  change execRhogenAckTimer k s = _
  rw [execRhogenAckTimer, if_neg (by simp [hk, howed, Nat.not_lt.2 hdue])]

/-! ### Replays and the loss of a link (R567, R574) -/

/-- A port that sends again what is outstanding. -/
def RlPort.replaying (p : RlPort) (slot : Nat) : RlPort := { p with replays := p.replays + 1, sentAt := slot }

/-- A port that has sent with its acknowledgement. -/
def RlPort.unowing (p : RlPort) : RlPort := { p with owed := 0 }

theorem transmit_eq (s : State) (k : Nat) (x : RlPacket) : s.transmit k x
    = (s.setRl k (s.rl k).unowing).emit (.rhogen k { x with ack := seqPrev (s.rl k).rxSeq, ackV := (s.rl k).owed != 0 }) := rfl

theorem exec_rhogenReplayTimeout_again {x : RlPacket} (hk : k < 4) (hone : (s.rl k).unacked = [x]) (hdue : (s.rl k).sentAt + 31250 ≤ s.tick.slot)
    (hfew : (s.rl k).replays < 16) : exec (.rhogenReplayTimeout k) s
      = .next (((s.setRl k ((s.rl k).replaying s.tick.slot)).count .rlReplayCnt k 1).transmit k x) := by
  change execRhogenReplayTimeout k s = _
  unfold execRhogenReplayTimeout
  dsimp only
  rw [if_neg (by simp [hk, hone, Nat.not_lt.2 hdue]), if_neg (Nat.not_le.2 hfew)]
  refine congrArg Host.Outcome.next ?_
  change (s.rl k).unacked.foldl (fun s y => s.transmit k y) ((s.setRl k ((s.rl k).replaying s.tick.slot)).count .rlReplayCnt k 1) = _
  rw [hone]
  rfl

/-- A link without its peer, before roles are chosen again. -/
def State.linkCleared (s : State) (k : Nat) (lock : Bool) : State := s.setRl k { s.rl k with lock := lock, peer := none, dirty := false }

theorem linkCleared_shows (hw : PortsWf s) (k : Nat) (lock : Bool) : PortsWf (s.linkCleared k lock) ∧ ((s.linkCleared k lock).rl k).lock = lock
    ∧ ((s.linkCleared k lock).rl k).peer = none ∧ (s.linkCleared k lock).regs = s.regs := by
  refine ⟨Table.wf_set hw _ _, ?_, ?_, rfl⟩
  · rw [State.linkCleared, rl_setRl_self hw]
  · rw [State.linkCleared, rl_setRl_self hw]

theorem exec_rhogenReplayTimeout_down {x : RlPacket} (hk : k < 4) (hone : (s.rl k).unacked = [x]) (hdue : (s.rl k).sentAt + 31250 ≤ s.tick.slot)
    (hmany : 16 ≤ (s.rl k).replays) : exec (.rhogenReplayTimeout k) s = .next (s.linkCleared k true).decideRoles := by
  change execRhogenReplayTimeout k s = _
  unfold execRhogenReplayTimeout
  dsimp only
  rw [if_neg (by simp [hk, hone, Nat.not_lt.2 hdue]), if_pos hmany]
  rfl

theorem exec_rhogenLinkDown (hk : k < 4) : exec (.rhogenLinkDown k) s = .next (s.linkCleared k false).decideRoles := if_neg (Nat.not_le.2 hk)

/-- A link that has gone down has no peer. -/
theorem linkCleared_decided (hw : PortsWf s) (k : Nat) (lock : Bool) :
    ((s.linkCleared k lock).decideRoles.rl k).peer = none ∧ ((s.linkCleared k lock).decideRoles.rl k).lock = lock := by
  obtain ⟨hwf, hlock, hpeer, -⟩ := linkCleared_shows hw k lock
  obtain ⟨-, -, -, hports⟩ := decideRoles_shows (s.linkCleared k lock)
  exact ⟨(hports hwf k).1.trans hpeer, (hports hwf k).2.trans hlock⟩

end

/-- Settles O36: each event writes its port and sends what it owes, and a new choice of roles leaves peers and locks. -/
theorem treeLinksDeliverInOrder : Obligations.TreeLinksDeliverInOrder := by
  unfold Obligations.TreeLinksDeliverInOrder
  refine ⟨?lock, ?hello, ?packet, ?ack, ?replay, ?down⟩
  case lock =>
    intro k s hw hk hlock
    refine ⟨_, exec_rhogenBlockLock hk hlock, ?_, ?_, ?_, rfl⟩ <;> rw [rl_setRl_self hw] <;> rfl
  case hello =>
    intro k s hw hk hlock hdirty
    refine ⟨_, exec_rhogenHelloTimer_dirty hk hlock hdirty, ?_, ?_, rfl⟩ <;> rw [rl_of_tree (emit_tree _ _), rl_setRl_self hw] <;> rfl
  case packet =>
    intro k x s h hw hk hlock hactive
    refine ⟨fun hnak => ?_, fun htyp hseqd hack hseq howed hnode hsrc => ?_, fun htyp hseqd hack hseq hnak hahead => ?_⟩
    · refine ⟨_, exec_rhogenPacketReceive_bad hk hlock hactive hnak x, rfl, ?_, sendAck_out (s.count .rlCrcErrCnt k 1) k true⟩
      rw [rl_sendAck (s := s.count .rlCrcErrCnt k 1) hw]
      exact Bool.or_true _
    · have hport := rl_setRl_self hw k ((s.rl k).accepted s.tick.slot)
      have hwf : RegsWf (s.setRl k ((s.rl k).accepted s.tick.slot)) := h.regs
      have hnode' : (s.setRl k ((s.rl k).accepted s.tick.slot)).node? = some x.dst := hnode
      have htaken := (takePacket_expected htyp hseqd hack hseq howed).trans (routePacket_int htyp hnode' hsrc k)
      have hout : (s.setRl k ((s.rl k).accepted s.tick.slot)).out = s.out := rfl
      generalize s.setRl k ((s.rl k).accepted s.tick.slot) = m at hport hwf htaken hout
      refine ⟨_, exec_rhogenPacketReceive_good hk hlock hactive (by rw [htyp]; decide) htaken, ?_, ?_, ?_, ?_⟩
      · rw [rl_of_tree (raiseBits_tree _ _ _ _), hport]
        rfl
      · rw [rl_of_tree (raiseBits_tree _ _ _ _), hport]
        rfl
      · rw [regBit_raiseBits hwf _ _ _ hsrc, Nat.testBit_two_pow_self, Bool.or_true]
      · rw [raiseBits_out, hout]
    · have hexec := exec_rhogenPacketReceive_good hk hlock hactive (by rw [htyp]; decide) (takePacket_ahead htyp hseqd hack hseq hnak hahead)
      refine ⟨_, hexec, ?_, ?_, rfl⟩ <;> rw [rl_sendAck hw]
      · rfl
      · exact Bool.or_true _
  case ack =>
    intro k s hw hk howed hdue
    refine ⟨_, exec_rhogenAckTimer hk howed hdue, ?_, rfl⟩
    rw [rl_sendAck hw]
    rfl
  case replay =>
    intro k x s hw hk hone hdue
    refine ⟨fun hfew => ?_, fun hmany => ?_⟩
    · have hport := rl_setRl_self hw k ((s.rl k).replaying s.tick.slot)
      have hwf : PortsWf (s.setRl k ((s.rl k).replaying s.tick.slot)) := Table.wf_set hw _ _
      have hexec := exec_rhogenReplayTimeout_again hk hone hdue hfew
      have hcnt : (s.setRl k ((s.rl k).replaying s.tick.slot)).cnt = s.cnt := rfl
      have hout : (s.setRl k ((s.rl k).replaying s.tick.slot)).out = s.out := rfl
      generalize s.setRl k ((s.rl k).replaying s.tick.slot) = m at hport hwf hexec hcnt hout
      have hcount : (m.count .rlReplayCnt k 1).rl k = (s.rl k).replaying s.tick.slot := hport
      have hwf' : PortsWf (m.count .rlReplayCnt k 1) := hwf
      have hcnt' : (m.count .rlReplayCnt k 1).cnt = (s.count .rlReplayCnt k 1).cnt := count_cnt_congr hcnt _ _ _
      have hout' : (m.count .rlReplayCnt k 1).out = s.out := hout
      generalize m.count .rlReplayCnt k 1 = m' at hexec hcount hwf' hcnt' hout'
      rw [transmit_eq] at hexec
      refine ⟨_, hexec, ?_, ?_, hcnt', ?_⟩
      · rw [rl_of_tree (emit_tree _ _), rl_setRl_self hwf', hcount]
        rfl
      · rw [rl_of_tree (emit_tree _ _), rl_setRl_self hwf', hcount]
        exact hone
      · rw [hcount, ← hout']
        rfl
    · exact ⟨_, exec_rhogenReplayTimeout_down hk hone hdue hmany, linkCleared_decided hw k true⟩
  case down =>
    intro k s h hw hk
    obtain ⟨hwf, -, hpeer, hregs⟩ := linkCleared_shows hw k false
    obtain ⟨hgone, hlock⟩ := linkCleared_decided hw k false
    obtain ⟨hstate, hroutes⟩ := decideRoles_alone (s := s.linkCleared k false) (by rw [RegsWf, hregs]; exact h.regs) hwf hk hpeer
    refine ⟨_, exec_rhogenLinkDown hk, hlock, hgone, hstate, fun hwas n hn _ hport => hroutes ?_ n hn ?_⟩
    · exact (fld_of_regs hregs _ _).trans hwas
    · exact (fld_of_regs hregs _ _).trans hport

end Sys2Proof.Machine

/-! Roles and remote accesses of the tree (O37): a HELLO's parent, the root's numbers, and the requests that go out, complete or time out. -/

namespace Sys2Proof.Machine
open Sys2Proof

section
variable {s t : State} {k n node y : Nat}

/-! ### A HELLO that makes a parent (R570 to R572) -/

/-- A HELLO of port `k` is kept. -/
def State.peerHeard (s : State) (k : Nat) (h : Hello) : State := s.setRl k { s.rl k with peer := some h }

/-- A HELLO is kept, and the port sends its own again where its acknowledgement changes. -/
def State.helloKept (s : State) (k : Nat) (h : Hello) : State :=
  if ((s.peerHeard k h).myHello k).flags = (s.myHello k).flags then s.peerHeard k h
  else (s.peerHeard k h).setRl k { (s.peerHeard k h).rl k with dirty := true }

theorem takeHello_eq (s : State) (k : Nat) (h : Hello) :
    s.takeHello k h = if (!(s.rl k).lock) = true then s else (s.helloKept k h).decideRoles := rfl

theorem exec_rhogenHelloReceive (hk : k < 4) (hlock : (s.rl k).lock = true) (h : Hello) :
    exec (.rhogenHelloReceive k h) s = .next (s.helloKept k h).decideRoles := by
  change execRhogenHelloReceive k h s = _
  rw [execRhogenHelloReceive, if_neg (Nat.not_le.2 hk), takeHello_eq, if_neg (by simp [hlock])]

/-- What stands once the HELLO is kept: the roles, the other ports, and the HELLO. -/
theorem helloKept_shows (hw : PortsWf s) (k : Nat) (h : Hello) : (s.helloKept k h).tree.root = s.tree.root
    ∧ (s.helloKept k h).tree.parent = s.tree.parent ∧ PortsWf (s.helloKept k h) ∧ ((s.helloKept k h).rl k).peer = some h
    ∧ ((s.helloKept k h).rl k).lock = (s.rl k).lock ∧ ∀ j, j ≠ k → ((s.helloKept k h).rl j).peer = (s.rl j).peer := by
  have hwf : PortsWf (s.peerHeard k h) := Table.wf_set hw _ _
  have hself : (s.peerHeard k h).rl k = { s.rl k with peer := some h } := rl_setRl_self hw _ _
  have hother : ∀ j, j ≠ k → (s.peerHeard k h).rl j = s.rl j := fun j hj => rl_setRl_ne hw _ hj
  have hkept : RolesKept (s.peerHeard k h) (s.helloKept k h) := .ite _ (.refl _) (rolesKept_setRl rfl rfl)
  refine ⟨hkept.root, hkept.parent, hkept.wf hwf, ?_, ?_, fun j hj => ?_⟩
  · rw [(hkept.ports hwf k).1, hself]
  · rw [(hkept.ports hwf k).2, hself]
  · rw [(hkept.ports hwf j).1, hother j hj]

/-- A port whose peer offers a version, acknowledges it and is near the root may lead to a parent. -/
theorem mayParent_of_peer {h : Hello} (hlock : (s.rl k).lock = true) (hpeer : (s.rl k).peer = some h) (hmin : h.vmin ≤ 0x0100)
    (hmax : 0x0100 ≤ h.vmax) (hacked : h.flags.testBit 2 = true) (hhops : h.hops ≤ 3) : s.mayParent k 15 = true := by
  have hsel : (selected h).isSome = true := by
    rw [selected, if_pos (by simp only [rlVersion]; omega), Option.isSome_some]
  have hlt : h.hops < 15 := by omega
  simp [State.mayParent, State.rlUp, hlock, hpeer, hsel, hacked, hhops, hlt]

theorem mayParent_alone (hpeer : (s.rl k).peer = none) (own : Nat) : s.mayParent k own = false := by
  simp [State.mayParent, hpeer]

/-- The only port with a peer that may be a parent leads to the parent. -/
theorem chooseParent_only (hroot : s.tree.root = false) (hparent : s.tree.parent = none) (hk : k < 4) (hmay : s.mayParent k 15 = true)
    (hothers : ∀ j, j < 4 → j ≠ k → (s.rl j).peer = none) : s.chooseParent = (some k, s.peerHops k + 1) := by
  have hfound : (List.range 4).find? (fun j => s.mayParent j 15) = some k :=
    List.find?_range_eq_some.2 ⟨hmay, List.mem_range.2 hk, fun j hj =>
      by rw [mayParent_alone (hothers j (Nat.lt_trans hj hk) (Nat.ne_of_lt hj))]; rfl⟩
  unfold State.chooseParent
  rw [if_neg (by simp [hroot]), hparent]
  simp only [Option.none_or, hfound]

/-! ### Packets in sequence (R567) -/

/-- A packet of an idle link goes out at once, with the next sequence number. -/
theorem sendSeq_idle {x : RlPacket} (hunacked : (s.rl k).unacked = []) (hwaiting : (s.rl k).waiting = []) (hsize : rlSize x ≤ 32768) :
    ∃ z, (s.sendSeq k x).out = s.out ++ [.rhogen k z] ∧ z.seq = (s.rl k).txSeq
      ∧ z = { x with seqd := true, seq := z.seq, ack := z.ack, ackV := z.ackV } := by
  rw [sendSeq_eq, if_neg (by simp [hwaiting, RlPort.room, hunacked, hsize])]
  exact ⟨_, rfl, rfl, rfl⟩

/-- What a packet in sequence leaves of the tree: the numbers bound and the reads that wait. -/
theorem sendSeq_bound (s : State) (k : Nat) (x : RlPacket) : (s.sendSeq k x).tree.bound = s.tree.bound
    ∧ (s.sendSeq k x).tree.reads = s.tree.reads := by
  rw [sendSeq_eq]
  split <;> exact ⟨rfl, rfl⟩

theorem sendTo_active {x : RlPacket} (hport : s.portTo x.dst = some k) (hactive : s.rlActive k = true) : s.sendTo x = s.sendSeq k x := by
  rw [State.sendTo, hport]
  exact if_pos hactive

theorem routable_of_regs (h : t.regs = s.regs) (n : Nat) : t.routable n = s.routable n := by
  rw [State.routable, State.routable, State.regBit, State.regBit, State.regBit, State.regBit, reg_of_regs h, reg_of_regs h]

/-! ### The root numbers a child (R573) -/

/-- A path is bound to a number. -/
def State.pathBound (s : State) (path : List Nat) (n : Nat) : State :=
  { s with tree := { s.tree with bound := Table.insert s.tree.bound n path, refused := s.tree.refused.filter (· != path) } }

theorem pathBound_rl (s : State) (path : List Nat) (n j : Nat) : (s.pathBound path n).rl j = s.rl j := rfl

/-- A node gets its route over port `k` and is routable. -/
def State.nodeRouted (s : State) (k n : Nat) : State :=
  ((s.setReg .rlRoute n (word (2 ^ 31 + k))).setRoutable n true).raise F.rlStat_TOPO 0

/-- ASSIGN of a number to the child at a path. -/
def assignPacket (path : List Nat) (n : Nat) : RlPacket :=
  { typ := 0x40, dst := n, payload := byte path.length :: (slice (path.map byte) 0 4) ++ [byte n, 0, 0] }

theorem exec_nodeEnumerate {rest : List Nat} (hroot : s.tree.root = true) (hrun : s.fwRunning = true) (hlen : (k :: rest).length ≤ 4)
    (hports : (k :: rest).all (fun x => decide (x ≤ 3)) = true) (hstate : s.rlState k = 8) (hnumber : s.numberFor (k :: rest) = some n) :
    exec (.nodeEnumerate (k :: rest)) s
      = .next (((s.pathBound (k :: rest) n).nodeRouted k n).sendSeq k (assignPacket (k :: rest) n)) := by
  have hany : (k :: rest).any (fun x => decide (3 < x)) = false := by
    rw [List.any_eq_false]
    intro x hx
    have := of_decide_eq_true (List.all_eq_true.1 hports x hx)
    simpa using this
  change execNodeEnumerate (k :: rest) s = _
  rw [execNodeEnumerate, if_neg (by rw [hany]; simpa [hroot, hrun, hstate] using hlen), hnumber]
  rfl

theorem nodeRouted_tree (s : State) (k n : Nat) : (s.nodeRouted k n).tree = s.tree := rfl

theorem nodeRouted_out (s : State) (k n : Nat) : (s.nodeRouted k n).out = s.out := rfl

theorem regBit_setBit_self (h : RegsWf s) (r : Reg) (i : Nat) {b : Nat} (hb : b < 32) : (s.setBit r i b).regBit r i b = true := by
  have hword : (word (2 ^ b)).getLsbD b = true := by rw [word, BitVec.getLsbD_ofNat, Nat.testBit_two_pow_self, decide_eq_true hb, Bool.and_self]
  rw [State.setBit, regBit_setReg_self h, BitVec.getLsbD_or, hword, Bool.or_true]

/-- A bit is set and the topology's change shows: the bit is 1, and the routes stand. -/
theorem bitSet_shows (h : RegsWf s) {r : Reg} (hstat : r ≠ .rlStat) (hroute : r ≠ .rlRoute) {b : Nat} (hb : b < 32) (n : Nat) :
    ((s.setBit r 0 b).raise F.rlStat_TOPO 0).regBit r 0 b = true
      ∧ ((s.setBit r 0 b).raise F.rlStat_TOPO 0).reg .rlRoute n = s.reg .rlRoute n := by
  have hbit := regBit_setBit_self h r 0 hb
  have hkept : (s.setBit r 0 b).reg .rlRoute n = s.reg .rlRoute n := reg_setReg_ne h _ fun hk => hroute hk.1.symm
  have hwf : RegsWf (s.setBit r 0 b) := wf_setReg h _ _ _
  generalize s.setBit r 0 b = m at hbit hkept hwf
  rw [State.regBit, reg_raise_ne hwf (fun hk => hstat hk.1), reg_raise_ne hwf (by simp [F.rlStat_TOPO]), hkept]
  exact ⟨hbit, rfl⟩

theorem nodeRouted_shows (h : RegsWf s) (k n : Nat) :
    (s.nodeRouted k n).routable n = true ∧ (s.nodeRouted k n).reg .rlRoute n = word (2 ^ 31 + k) := by
  have hput := reg_setReg_self h .rlRoute n (word (2 ^ 31 + k))
  have hwf := wf_setReg h .rlRoute n (word (2 ^ 31 + k))
  unfold State.nodeRouted
  generalize s.setReg .rlRoute n (word (2 ^ 31 + k)) = m at hput hwf
  by_cases hlow : n < 32
  · obtain ⟨hbit, hroute⟩ := bitSet_shows hwf (r := .rlNodeValidLo) (by decide) (by decide) hlow n
    rw [State.setRoutable, if_pos hlow, if_pos rfl, Nat.mod_eq_of_lt hlow, State.routable, if_pos hlow]
    exact ⟨hbit, hroute.trans hput⟩
  · obtain ⟨hbit, hroute⟩ := bitSet_shows hwf (r := .rlNodeValidHi) (by decide) (by decide) (Nat.mod_lt n (by decide)) n
    rw [State.setRoutable, if_neg hlow, if_pos rfl, State.routable, if_neg hlow]
    exact ⟨hbit, hroute.trans hput⟩

theorem rlSize_assign (path : List Nat) (n : Nat) : rlSize (assignPacket path n) ≤ 32768 := by
  simp [rlSize, assignPacket, length_slice]

/-! ### Remote accesses (R568, R569) -/

/-- WR_REQ of an access. -/
def writeRequest (node y sid : Nat) (ws : List Word) : RlPacket :=
  { typ := 0x11, dst := node, sid := sid, arg := y, payload := ws.flatMap fun w => leBytes 4 w.toNat }

theorem rlSize_write {ws : List Word} (hlen : ws.length ≤ 16) (node y sid : Nat) : rlSize (writeRequest node y sid ws) ≤ 32768 := by
  have hbytes : (ws.flatMap fun w => leBytes 4 w.toNat).length = 4 * ws.length := by
    rw [List.length_flatMap]
    simp [leBytes_length, Nat.mul_comm]
  rw [rlSize, writeRequest, hbytes]
  omega

/-- The node and the offset that an offset of BAR2 names. -/
theorem bar2_offset (hnode : node < 64) (hy : y < 2 ^ 28) (halign : y % 4 = 0) :
    (node * 2 ^ 28 + y) / 2 ^ 28 % 64 = node ∧ (node * 2 ^ 28 + y) % 2 ^ 28 = y ∧ (node * 2 ^ 28 + y) % 4 = 0 := by
  refine ⟨?_, ?_, ?_⟩ <;> omega

theorem exec_treeWrite {ws : List Word} (hroot : s.tree.root = true) (hnode : node < 64) (hzero : node ≠ 0) (hy : y < 2 ^ 28) (halign : y % 4 = 0)
    (hsome : ws.length ≠ 0) (hlen : ws.length ≤ 16) (who : Sender) (tag : Nat) :
    exec (.treeRemoteAccess who (node * 2 ^ 28 + y) true ws 0 true tag) s
      = .next (if s.routable node = true then s.sendTo (writeRequest node y (s.sid who) ws) else s.unreachable) := by
  obtain ⟨hn, ho, ha⟩ := bar2_offset hnode hy halign
  change execTreeRemoteAccess who (node * 2 ^ 28 + y) true ws 0 true tag s = _
  unfold execTreeRemoteAccess
  generalize node * 2 ^ 28 + y = x at hn ho ha
  dsimp only
  rw [hn, ho, if_neg (by simp [hroot]), if_neg (by rw [if_pos rfl]; omega), if_neg (by simp), if_neg hzero, if_pos rfl]
  split <;> rfl

/-- A remote read as it arrives. -/
def remoteRead (node y n sid tag : Nat) : RemoteRead := { node := node, offset := y, n := n, sid := sid, host := tag }

/-- A remote read joins those that wait. -/
def State.readWaits (s : State) (x : RemoteRead) : State := { s with tree := { s.tree with reads := s.tree.reads ++ [x] } }

theorem exec_treeRead (hroot : s.tree.root = true) (hnode : node < 64) (hzero : node ≠ 0) (hy : y < 2 ^ 28) (halign : y % 4 = 0)
    (hsome : n ≠ 0) (hlen : n ≤ 16) (who : Sender) (tag : Nat) : exec (.treeRemoteAccess who (node * 2 ^ 28 + y) false [] n true tag) s
      = .next (if s.routable node = true then (s.readWaits (remoteRead node y n (s.sid who) tag)).pump
          else s.unreachable.emit (.completion tag (List.replicate n 0xFFFFFFFF))) := by
  obtain ⟨hn, ho, ha⟩ := bar2_offset hnode hy halign
  change execTreeRemoteAccess who (node * 2 ^ 28 + y) false [] n true tag s = _
  unfold execTreeRemoteAccess
  generalize node * 2 ^ 28 + y = x at hn ho ha
  dsimp only
  rw [hn, ho, if_neg (by simp [hroot]), if_neg (by rw [if_neg (by decide)]; omega), if_neg (by simp), if_neg hzero, if_neg (by simp)]
  split <;> rfl

/-- A read that is sent, under its TAG. -/
def RemoteRead.sent (x : RemoteRead) (tag slot : Nat) : RemoteRead := { x with tag := some tag, at_ := slot }

/-- RD_REQ of a read. -/
def readRequest (x : RemoteRead) (tag : Nat) : RlPacket :=
  { typ := 0x10, dst := x.node, src := 0, sid := x.sid, tag := tag, arg := (x.n - 1) * 2 ^ 28 + x.offset % 2 ^ 28 }

/-- The reads that wait or are out. -/
def State.withReads (s : State) (l : List RemoteRead) : State := { s with tree := { s.tree with reads := l } }

/-- The only read of the device is sent under TAG 0 (R569). -/
theorem pump_only {x : RemoteRead} (hreads : s.tree.reads = [x]) (hwaits : x.tag = none) (hroutable : s.routable x.node = true) :
    s.pump = (s.withReads [x.sent 0 s.tick.slot]).sendTo (readRequest x 0) := by
  have hout : s.readsOut = [] := by simp [State.readsOut, hreads, hwaits]
  have hfree : s.freeTag = 0 := by rw [State.freeTag, hout]; rfl
  have hwaiting : s.tree.reads.filter (fun x => x.tag.isNone) = [x] := by simp [hreads, hwaits]
  rw [State.pump, hwaiting, pumpReads, if_neg (by simp [hout]), if_neg (by simp [hroutable]), hfree, hreads]
  simp only [List.map_cons, List.map_nil, if_pos]
  rfl

theorem rlSize_read (x : RemoteRead) (tag : Nat) : rlSize (readRequest x tag) ≤ 32768 := by
  simp [rlSize, readRequest]

/-- The only read goes out over its idle link and waits for its completion. -/
theorem pump_only_sent {x : RemoteRead} (hreads : s.tree.reads = [x]) (hwaits : x.tag = none) (hroutable : s.routable x.node = true)
    (hport : s.portTo x.node = some k) (hactive : s.rlActive k = true) (hunacked : (s.rl k).unacked = []) (hwaiting : (s.rl k).waiting = []) :
    s.pump.tree.reads = [x.sent 0 s.tick.slot] ∧ ∃ z, s.pump.out = s.out ++ [.rhogen k z]
      ∧ z = { readRequest x 0 with seqd := true, seq := z.seq, ack := z.ack, ackV := z.ackV } := by
  have hsend : (s.withReads [x.sent 0 s.tick.slot]).sendTo (readRequest x 0) = (s.withReads [x.sent 0 s.tick.slot]).sendSeq k (readRequest x 0) :=
    sendTo_active hport hactive
  have hpump := (pump_only hreads hwaits hroutable).trans hsend
  obtain ⟨z, hsent, -, hz⟩ := sendSeq_idle (s := s.withReads [x.sent 0 s.tick.slot]) (x := readRequest x 0) hunacked hwaiting (rlSize_read x 0)
  rw [hpump]
  exact ⟨(sendSeq_bound _ k _).2, z, hsent, hz⟩

/-- Nothing waits to be sent. -/
theorem pump_none (hreads : s.tree.reads = []) : s.pump = s := by
  rw [State.pump, hreads]
  rfl

/-- A host's read fails: all ones. -/
theorem readFails_host {x : RemoteRead} (hjob : x.job = none) : s.readFails x
    = (s.unreachable.withReads (s.tree.reads.filter fun y => y != x)).emit (.completion x.host (List.replicate x.n 0xFFFFFFFF)) := by
  unfold State.readFails State.readDone
  dsimp only
  rw [hjob]
  rfl

theorem exec_remoteReadTimeout {x : RemoteRead} {tag : Nat} (hreads : s.tree.reads = [x]) (htag : x.tag = some tag)
    (hdue : x.at_ + 156250 ≤ s.tick.slot) : exec (.remoteReadTimeout tag) s = .next (s.readFails x).pump := by
  have hfound : s.readsOut.find? (fun x => x.tag == some tag) = some x := by simp [State.readsOut, hreads, htag]
  change execRemoteReadTimeout tag s = _
  rw [execRemoteReadTimeout, hfound]
  exact if_neg (Nat.not_lt.2 hdue)

end

/-- Settles O37: a HELLO's port is the only one that may lead to a parent, and a request of an idle active link goes out at once. -/
theorem treeRolesAndRemoteAccess : Obligations.TreeRolesAndRemoteAccess := by
  unfold Obligations.TreeRolesAndRemoteAccess
  refine ⟨?hello, ?number, ?access, ?timeout⟩
  case hello =>
    intro k h s hw hk hlock
    obtain ⟨hroot', hparent', hwf, hpeer, hlock', hother⟩ := helloKept_shows hw k h
    obtain ⟨-, hparent, hhops, hports⟩ := decideRoles_shows (s.helloKept k h)
    refine ⟨_, exec_rhogenHelloReceive hk hlock h, (hports hwf k).1.trans hpeer, fun hroot hnone hothers hmin hmax hacked hnear => ?_⟩
    have hchoice := chooseParent_only (hroot'.trans hroot) (hparent'.trans hnone) hk
      (mayParent_of_peer (hlock'.trans hlock) hpeer hmin hmax hacked hnear) (fun j hj hne => (hother j hne).trans (hothers j hj hne))
    rw [hparent, hhops, hchoice, State.peerHops, hpeer]
    exact ⟨rfl, rfl⟩
  case number =>
    intro k n rest s h hroot hrun hlen hports hstate hnumber hn hunacked hwaiting
    have hwf : RegsWf (s.pathBound (k :: rest) n) := h.regs
    obtain ⟨hroutable, hroute⟩ := nodeRouted_shows hwf k n
    have hexec := exec_nodeEnumerate hroot hrun hlen hports hstate hnumber
    have htree := nodeRouted_tree (s.pathBound (k :: rest) n) k n
    have hout : ((s.pathBound (k :: rest) n).nodeRouted k n).out = s.out := nodeRouted_out _ k n
    have hport : ((s.pathBound (k :: rest) n).nodeRouted k n).rl k = s.rl k := (rl_of_tree htree k).trans (pathBound_rl s _ n k)
    generalize (s.pathBound (k :: rest) n).nodeRouted k n = m at hroutable hroute hexec htree hout hport
    obtain ⟨z, hsent, hseq, hz⟩ := sendSeq_idle (s := m) (by rw [hport, hunacked]) (by rw [hport, hwaiting]) (rlSize_assign (k :: rest) n)
    have hregs := sendSeq_regs m k (assignPacket (k :: rest) n)
    refine ⟨_, z, hexec, ?_, ?_, ?_, ?_, congrArg RlPacket.typ hz, congrArg RlPacket.dst hz, ?_⟩
    · rw [(sendSeq_bound m k _).1, htree]
      exact OTable.get?_insert_self _ _ _
    · rw [routable_of_regs hregs, hroutable]
    · rw [reg_of_regs hregs, hroute]
    · rw [hsent, hout]
    · rw [hseq, hport]
  case access =>
    intro who node y k n tag ws s hroot hnode hzero hy halign hsome hlen hsome' hlen'
    have hwrite := exec_treeWrite (s := s) hroot hnode hzero hy halign hsome hlen who tag
    have hread := exec_treeRead (s := s) hroot hnode hzero hy halign hsome' hlen' who tag
    refine ⟨fun hroutable hport hactive hunacked hwaiting => ⟨?_, fun hreads => ?_⟩, fun hroutable => ?_⟩
    · obtain ⟨z, hsent, -, hz⟩ := sendSeq_idle (s := s) hunacked hwaiting (rlSize_write hlen node y (s.sid who))
      rw [if_pos hroutable, sendTo_active (x := writeRequest node y (s.sid who) ws) hport hactive] at hwrite
      exact ⟨_, z, hwrite, hsent, congrArg RlPacket.typ hz, congrArg RlPacket.dst hz, congrArg RlPacket.arg hz, congrArg RlPacket.sid hz,
        congrArg RlPacket.payload hz⟩
    · have hwaits : (s.readWaits (remoteRead node y n (s.sid who) tag)).tree.reads = [remoteRead node y n (s.sid who) tag] := by
        rw [State.readWaits, hreads]
        rfl
      obtain ⟨hout, z, hsent, hz⟩ := pump_only_sent (s := s.readWaits (remoteRead node y n (s.sid who) tag)) hwaits rfl hroutable hport hactive
        hunacked hwaiting
      rw [if_pos hroutable] at hread
      exact ⟨_, z, hread, hsent, congrArg RlPacket.typ hz, congrArg RlPacket.dst hz, congrArg RlPacket.tag hz, congrArg (List.map RemoteRead.host) hout⟩
    · rw [if_neg (by simp [hroutable])] at hwrite hread
      exact ⟨hwrite, hread⟩
  case timeout =>
    intro x tag s h hreads htag hjob hdue
    have hexec := exec_remoteReadTimeout hreads htag hdue
    have hnone : s.tree.reads.filter (fun y => y != x) = [] := by simp [hreads]
    rw [readFails_host hjob, hnone] at hexec
    rw [pump_none (s := (s.unreachable.withReads []).emit _) rfl] at hexec
    refine ⟨_, hexec, rfl, ?_, rfl⟩
    exact flag_raise_self h.regs (f := F.rlStat_UNREACH) (by decide) 0

end Sys2Proof.Machine

/-! Host rings and interrupts (O35): indices, the frames that cross the host port, coalescing, vectors, and the endpoint's reset and start. -/

namespace Sys2Proof.Machine
open Sys2Proof

section
variable {s t : State} {tx : Bool} {r : Nat}

/-! ### Rings (R551, R553, R554) -/

/-- What the engine keeps of the rings, in canonical form. -/
abbrev RingsWf (s : State) : Prop := Table.wf (fun _ => ({} : RingSt)) s.host.rings = true

theorem ring_setRing (hw : RingsWf s) (tx : Bool) (r : Nat) (x : RingSt) : (s.setRing tx r x).ring tx r = x := Table.get_set_self hw _ x

theorem setRing_regs (s : State) (tx : Bool) (r : Nat) (x : RingSt) : (s.setRing tx r x).regs = s.regs := rfl

theorem ring_of_host (h : t.host = s.host) (tx : Bool) (r : Nat) : t.ring tx r = s.ring tx r := by rw [State.ring, State.ring, h]

/-- The frames that remain for the other rings. -/
def State.jobsBeside (s : State) (r : Nat) : State :=
  { s with host := { s.host with jobs := s.host.jobs.filter fun (j : RxJob) => j.ring != r } }

/-- A ring's EN is cleared. -/
def State.enCleared (s : State) (tx : Bool) (r : Nat) : State := s.setReg (ringCfg tx) r (word (setBits (s.reg (ringCfg tx) r).toNat 31 31 0))

theorem ringOff_eq (s : State) (tx : Bool) (r : Nat) :
    s.ringOff tx r = if tx = true then s.enCleared tx r else (s.enCleared tx r).jobsBeside r := rfl

theorem jobsBeside_regs (s : State) (r : Nat) : (s.jobsBeside r).regs = s.regs := rfl
theorem jobsBeside_out (s : State) (r : Nat) : (s.jobsBeside r).out = s.out := rfl
theorem jobsBeside_tab (s : State) (r : Nat) : (s.jobsBeside r).tab = s.tab := rfl
theorem jobsBeside_tree (s : State) (r : Nat) : (s.jobsBeside r).tree = s.tree := rfl
theorem jobsBeside_meet (s : State) (r : Nat) : (s.jobsBeside r).meet = s.meet := rfl
theorem jobsBeside_jobs (s : State) (r : Nat) : (s.jobsBeside r).host.jobs = s.host.jobs.filter (fun (j : RxJob) => j.ring != r) := rfl

theorem ringOff_regs (s : State) (tx : Bool) (r : Nat) : (s.ringOff tx r).regs = (s.enCleared tx r).regs := by
  rw [ringOff_eq]
  split
  · rfl
  · rw [jobsBeside_regs]

theorem wf_ringOff (h : RegsWf s) (tx : Bool) (r : Nat) : RegsWf (s.ringOff tx r) := by
  rw [RegsWf, ringOff_regs]
  exact wf_setReg h _ _ _

theorem ringOn_of_reg (h : t.reg (ringCfg tx) r = s.reg (ringCfg tx) r) : t.ringOn tx r = s.ringOn tx r := by
  rw [State.ringOn, State.ringOn, State.regBit, State.regBit, h]

theorem ringOn_of_regs (h : t.regs = s.regs) (tx : Bool) (r : Nat) : t.ringOn tx r = s.ringOn tx r := ringOn_of_reg (reg_of_regs h _ _)

/-- A ring that stops is off. -/
theorem ringOn_ringOff (h : RegsWf s) (tx : Bool) (r : Nat) : (s.ringOff tx r).ringOn tx r = false := by
  rw [ringOn_of_regs (ringOff_regs s tx r), State.ringOn, State.regBit, State.enCleared, reg_setReg_self h]
  have hlt : setBits (s.reg (ringCfg tx) r).toNat 31 31 0 < 2 ^ 32 := setBits_lt (lo := 31) (w := 1) (BitVec.isLt _) (by decide) (by decide)
  have hbit := testBit_setBits (s.reg (ringCfg tx) r).toNat 31 1 0 31 (by decide)
  rw [toNat_word hlt]
  exact hbit.trans (if_pos (by decide))

theorem reg_ringOff_ne (h : RegsWf s) {q : Reg} {i : Nat} (hne : ¬(q = ringCfg tx ∧ i = r)) : (s.ringOff tx r).reg q i = s.reg q i :=
  (reg_of_regs (ringOff_regs s tx r) _ _).trans (reg_setReg_ne h _ hne)

/-- A receive ring that stops loses its frames. -/
theorem ringOff_rx (s : State) (r : Nat) : (s.ringOff false r).host.jobs = s.host.jobs.filter (fun (j : RxJob) => j.ring != r) := by
  rw [ringOff_eq, if_neg (by decide), jobsBeside_jobs, State.enCleared, setReg_host]

theorem ringOff_out (s : State) (tx : Bool) (r : Nat) : (s.ringOff tx r).out = s.out := by
  rw [ringOff_eq]
  split
  · rw [State.enCleared, setReg_out]
  · rw [jobsBeside_out, State.enCleared, setReg_out]

theorem ringOff_tab (s : State) (tx : Bool) (r : Nat) : (s.ringOff tx r).tab = s.tab := by
  rw [ringOff_eq]
  split
  · rw [State.enCleared, setReg_tab]
  · rw [jobsBeside_tab, State.enCleared, setReg_tab]

/-! ### The answers of the stop commands (R577) -/

/-- With no job there is no stop command to answer. -/
theorem answerStops_idle (hjobs : s.tab.jobs = []) : s.answerStops = s := by
  unfold State.answerStops
  rw [hjobs]
  rfl

theorem stepJob_regs (s : State) (chan tag : Nat) (f : Job → Job) (answer : Job → State → Status × List Byte) :
    (s.stepJob chan tag f answer).regs = s.regs := by
  unfold State.stepJob
  split
  · rfl
  · dsimp only
    split
    · rw [answer_regs]
    · rfl

theorem stepJob_host (s : State) (chan tag : Nat) (f : Job → Job) (answer : Job → State → Status × List Byte) :
    (s.stepJob chan tag f answer).host = s.host := by
  unfold State.stepJob
  split
  · rfl
  · dsimp only
    split
    · rw [answer_host]
    · rfl

theorem stepJob_meet (s : State) (chan tag : Nat) (f : Job → Job) (answer : Job → State → Status × List Byte) :
    (s.stepJob chan tag f answer).meet = s.meet := by
  unfold State.stepJob
  split
  · rfl
  · dsimp only
    split
    · rw [answer_meet]
    · rfl

/-- What the answers leave: the registers, the host port, the meetings of the slot and the tree. -/
theorem answerStops_leaves (s : State) : s.answerStops.regs = s.regs ∧ s.answerStops.host = s.host ∧ s.answerStops.meet = s.meet
    ∧ s.answerStops.tree = s.tree := by
  unfold State.answerStops
  exact ⟨foldl_part (·.regs) (fun s _ => stepJob_regs s _ _ _ _) _ s, foldl_part (·.host) (fun s _ => stepJob_host s _ _ _ _) _ s,
    foldl_part (·.meet) (fun s _ => stepJob_meet s _ _ _ _) _ s, foldl_part (·.tree) (fun s _ => stepJob_tree s _ _ _ _) _ s⟩

/-! ### TAIL (R553) -/

theorem exec_dmaTailWrite {who : Sender} (hadm : s.refusal who ((ringTail tx).offset r) true = none) (hr : r < 32) (v : Word) :
    exec (.dmaTailWrite who tx r v) s = .next (s.writeTail tx r v.toNat) := by
  change execDmaTailWrite who tx r v s = _
  rw [execDmaTailWrite, if_neg (Nat.not_le.2 hr), access_of_none hadm]

theorem writeTail_waits (hroot : s.tree.root = true) {v : Nat} (hfits : (v + 2 ^ 32 - (s.reg (ringHead tx) r).toNat) % 2 ^ 32 ≤ s.ringCount tx r) :
    s.writeTail tx r v = s.setRing tx r { s.ring tx r with tail := some v } := by
  rw [State.writeTail, if_neg (by simp [hroot]), if_neg (Nat.not_lt.2 hfits)]

theorem writeTail_excess (hroot : s.tree.root = true) {v : Nat} (hover : s.ringCount tx r < (v + 2 ^ 32 - (s.reg (ringHead tx) r).toNat) % 2 ^ 32) :
    s.writeTail tx r v = s.raise F.dmaStat_TAIL_ERR 0 := by
  rw [State.writeTail, if_neg (by simp [hroot]), if_pos hover]

/-! ### Coalescing (R560) -/

/-- A ring whose completions have signalled. -/
def RingSt.signalled (x : RingSt) : RingSt := { x with done := 0 }

theorem ringSignal_eq (s : State) (tx : Bool) (r : Nat) :
    s.ringSignal tx r = (s.setRing tx r (s.ring tx r).signalled).raiseBits (if tx then .dmaTxStat else .dmaRxStat) 0 (2 ^ r) := rfl

theorem exec_dmaCoalesceTimer (hsome : (s.ring tx r).done ≠ 0) (hdue : 3125 * s.coalUs tx r ≤ 2 * (s.tick.slot - (s.ring tx r).since)) :
    exec (.dmaCoalesceTimer tx r) s = .next (s.ringSignal tx r) := by
  change execDmaCoalesceTimer tx r s = _
  rw [execDmaCoalesceTimer, if_neg (by simp [hsome, Nat.not_lt.2 hdue])]

/-- The completions signal: the count is 0 and the status bit is 1. -/
theorem ringSignal_shows (h : RegsWf s) (hw : RingsWf s) (tx : Bool) (hr : r < 32) : ((s.ringSignal tx r).ring tx r).done = 0
    ∧ (s.ringSignal tx r).regBit (if tx then .dmaTxStat else .dmaRxStat) 0 r = true := by
  have hring := ring_setRing hw tx r (s.ring tx r).signalled
  have hwf : RegsWf (s.setRing tx r (s.ring tx r).signalled) := h
  rw [ringSignal_eq]
  generalize s.setRing tx r (s.ring tx r).signalled = m at hring hwf
  constructor
  · rw [ring_of_host (raiseBits_host _ _ _ _), hring]
    rfl
  · rw [regBit_raiseBits hwf _ _ _ hr, Nat.testBit_two_pow_self, Bool.or_true]

/-- A ring of which one more frame has completed. -/
def RingSt.completed (x : RingSt) (slot : Nat) : RingSt := { x with done := x.done + 1, since := if x.done = 0 then slot else x.since }

/-- A frame has completed on a ring, before its completions may signal. -/
def State.ringCounted (s : State) (tx : Bool) (r : Nat) : State := s.setRing tx r ((s.ring tx r).completed s.tick.slot)

theorem ringDone_eq (s : State) (tx : Bool) (r : Nat) : s.ringDone tx r
    = if (s.ringCounted tx r).coalUs tx r = 0 ∨ (s.ringCounted tx r).coalFrames tx r ≤ (s.ring tx r).done + 1 then (s.ringCounted tx r).ringSignal tx r
      else s.ringCounted tx r := rfl

/-- A completion leaves the frames under way, the counters, the output, the path and the jobs. -/
theorem ringDone_leaves (s : State) (tx : Bool) (r : Nat) : (s.ringDone tx r).host.jobs = s.host.jobs ∧ (s.ringDone tx r).cnt = s.cnt
    ∧ (s.ringDone tx r).out = s.out ∧ (s.ringDone tx r).path = s.path ∧ (s.ringDone tx r).tab = s.tab := by
  rw [ringDone_eq]
  split
  · rw [ringSignal_eq]
    generalize hm : (s.ringCounted tx r).setRing tx r ((s.ringCounted tx r).ring tx r).signalled = m
    rw [raiseBits_host, raiseBits_cnt, raiseBits_out, raiseBits_path, raiseBits_tab, ← hm]
    exact ⟨rfl, rfl, rfl, rfl, rfl⟩
  · exact ⟨rfl, rfl, rfl, rfl, rfl⟩

/-- A completion leaves every register but the direction's status. -/
theorem reg_ringDone (h : RegsWf s) {q : Reg} (hq : q ≠ if tx then .dmaTxStat else .dmaRxStat) (i : Nat) :
    (s.ringDone tx r).reg q i = s.reg q i := by
  rw [ringDone_eq]
  split
  · rw [ringSignal_eq]
    exact reg_raiseBits_ne (s := (s.ringCounted tx r).setRing tx r ((s.ringCounted tx r).ring tx r).signalled) h _ fun hk => hq hk.1
  · rfl

/-! ### Receive (R558, R559) -/

/-- The bytes of a received frame that are written. -/
def RxJob.data (j : RxJob) (bs : List Byte) : List Byte := if j.fcs then bs else bs.take (bs.length - 4)

/-- A received frame in one buffer and its descriptor go to the host. -/
def State.rxWritten (s : State) (r : Nat) (addr : Nat) (j : RxJob) (data : List Byte) : State :=
  (s.emit (.hostWrite addr (data.take (s.rxBuf r)))).emit
    (.hostWrite (s.descAddr false r j.idx + 8) (rxDescBytes j data.length (s.rxBuf r) 0))

/-- A received frame is no longer under way. -/
def State.rxEnded (s : State) (r : Nat) (j : RxJob) : State :=
  { s with host := { s.host with jobs := s.host.jobs.filter fun (x : RxJob) => !(x.ring = r && x.idx = j.idx) } }

theorem exec_dmaRxFrameWrite {bufs : List Nat} {j : RxJob} {bs : List Byte} (hjobs : s.host.jobs = [j]) (hring : j.ring = r)
    (hbytes : j.bytes = some bs) (hone : j.n = 1) (hadm : s.rxRefusal j bufs (j.data bs).length (s.rxBuf r) = none) (fault : Bool) :
    exec (.dmaRxFrameWrite r bufs fault) s = .next (if fault = true then s.ringFault false r 3
      else ((((s.rxWritten r (bufs.getD 0 0) j (j.data bs)).rxEnded r j).count .dmaRxFrameCnt r 1).ringDone false r).answerStops) := by
  have hfound : s.host.jobs.find? (fun (j : RxJob) => decide (j.ring = r)) = some j := by simp [hjobs, hring]
  change execDmaRxFrameWrite r bufs fault s = _
  unfold execDmaRxFrameWrite
  rw [hfound]
  dsimp only
  rw [hbytes]
  dsimp only
  rw [← RxJob.data, hadm]
  dsimp only
  cases fault
  · rw [if_neg (by decide), if_neg (by decide), hone]
    simp only [List.range_one, List.foldl_cons, List.foldl_nil, Nat.zero_mul, List.drop_zero]
    rfl
  · rw [if_pos rfl, if_pos rfl]

theorem rxWritten_out (s : State) (r addr : Nat) (j : RxJob) (data : List Byte) : (s.rxWritten r addr j data).out
    = s.out ++ [.hostWrite addr (data.take (s.rxBuf r)), .hostWrite (s.descAddr false r j.idx + 8) (rxDescBytes j data.length (s.rxBuf r) 0)] := by
  rw [State.rxWritten]
  exact List.append_assoc _ _ _

/-- The registers of a ring's fault. -/
def State.faultShown (s : State) (w : Word) : State := (s.raise F.dmaStat_FAULT 0).setReg .dmaErrInfo 0 w

theorem ringFault_eq (s : State) (tx : Bool) (r kind : Nat) :
    s.ringFault tx r kind = ((s.ringOff tx r).faultShown (word (kind * 256 + b2n tx * 128 + r))).answerStops := rfl

theorem faultShown_shows (h : RegsWf s) (w : Word) : (s.faultShown w).flag F.dmaStat_FAULT 0 = true
    ∧ (∀ tx r, (s.faultShown w).ringOn tx r = s.ringOn tx r) ∧ (s.faultShown w).host = s.host ∧ (s.faultShown w).out = s.out
    ∧ (s.faultShown w).tab = s.tab := by
  have hflag := flag_raise_self h (f := F.dmaStat_FAULT) (by decide) 0
  have hwf := wf_raise h F.dmaStat_FAULT 0
  have hcfg : ∀ tx r, (s.raise F.dmaStat_FAULT 0).reg (ringCfg tx) r = s.reg (ringCfg tx) r := fun tx r =>
    reg_raise_ne h (by cases tx <;> simp [F.dmaStat_FAULT, ringCfg])
  have hrest : (s.raise F.dmaStat_FAULT 0).host = s.host ∧ (s.raise F.dmaStat_FAULT 0).out = s.out ∧ (s.raise F.dmaStat_FAULT 0).tab = s.tab :=
    ⟨raise_host _ _ _, raise_out _ _ _, raise_tab _ _ _⟩
  unfold State.faultShown
  generalize s.raise F.dmaStat_FAULT 0 = m at hflag hwf hcfg hrest
  refine ⟨?_, fun tx r => ringOn_of_reg ?_, hrest⟩
  · rw [flag_of_reg (f := F.dmaStat_FAULT) (reg_setReg_ne hwf _ (by simp [F.dmaStat_FAULT])), hflag]
  · rw [reg_setReg_ne hwf _ (by cases tx <;> simp [ringCfg]), hcfg]

/-! ### Transmit (R561 to R564) -/

theorem fcsBytes_length (bs : List Byte) : (fcsBytes bs).length = 4 := by
  simp [fcsBytes]

/-- A frame of port 512 that a transmit ring releases, whole and good. -/
def txFrame (s : State) (body : List Byte) : Frame :=
  { id := 0, port := 512, bytes := body ++ fcsBytes body, start := s.tick.slot, tx := none, md := { iport := 512 } }

/-- A frame whose last bytes have come. -/
def Frame.whole (f : Frame) (slot : Nat) : Frame := { f with ended := some slot }

/-- A frame under its number. -/
def Frame.numbered (f : Frame) (id : Nat) : Frame := { f with id := id }

theorem addFrame_shows (s : State) (f : Frame) : (s.addFrame f).path.frames = s.path.frames ++ [f.numbered s.path.nextId]
    ∧ (s.addFrame f).regs = s.regs ∧ (s.addFrame f).out = s.out := ⟨rfl, rfl, rfl⟩

/-- A whole good frame enters. -/
theorem enterWhole_good {f : Frame} {body : List Byte} (hbytes : f.bytes = body ++ fcsBytes body) (htype : etherType f.bytes ≠ 0x8808)
    (hmin : 60 ≤ body.length) (hmax : body.length ≤ 10236) :
    s.enterWhole f = (s.rxGood f.port f.bytes).addFrame (f.whole s.tick.slot) := by
  have hlen : f.bytes.length = body.length + 4 := by rw [hbytes, List.length_append, fcsBytes_length]
  have hbody : f.bytes.take (f.bytes.length - 4) = body := by rw [hlen, hbytes, Nat.add_sub_cancel, List.take_left]
  have hfcs : f.bytes.drop (f.bytes.length - 4) = fcsBytes body := by rw [hlen, hbytes, Nat.add_sub_cancel, List.drop_left]
  unfold State.enterWhole
  dsimp only
  rw [if_neg htype, if_neg (by omega), if_neg (by omega), hbody, hfcs, if_neg (fun hne => hne rfl)]
  rfl

/-- Port 512's line is busy for a frame. -/
def State.lineBusy (s : State) (len : Nat) : State :=
  { s with host := { s.host with txLine := max s.host.txLine (256 * s.tick.slot) + 8 * (len + 24) } }

theorem txRelease_single {d : TxDesc} (hhdr : d.hdr = false) (htype : etherType (slice d.data 0 d.blen ++ fcsBytes (slice d.data 0 d.blen)) ≠ 0x8808)
    (hmin : 60 ≤ d.blen) (hmax : d.blen ≤ 10236) : s.txRelease [d]
      = ((s.lineBusy d.blen).rxGood 512 (slice d.data 0 d.blen ++ fcsBytes (slice d.data 0 d.blen))).addFrame
        ((txFrame s (slice d.data 0 d.blen)).whole s.tick.slot) := by
  have hlen := length_slice d.data 0 d.blen
  unfold State.txRelease
  have hgood := enterWhole_good (s := s.lineBusy d.blen) (f := txFrame s (slice d.data 0 d.blen)) rfl htype (by omega) (by omega)
  simp only [List.flatMap_cons, List.flatMap_nil, List.append_nil, List.headD_cons, hhdr, hlen, Bool.false_and, Bool.false_eq_true, if_false]
  split
  · exact hgood
  · exact hgood

theorem rxGood_leaves (s : State) (p : Nat) (bs : List Byte) : (s.rxGood p bs).regs = s.regs ∧ (s.rxGood p bs).out = s.out := by
  unfold State.rxGood
  dsimp only
  split <;> simp only [count_regs, count_out, and_self]

/-- A frame that a transmit ring releases joins the frames of port 512. -/
theorem txRelease_shows {d : TxDesc} (hhdr : d.hdr = false) (htype : etherType (slice d.data 0 d.blen ++ fcsBytes (slice d.data 0 d.blen)) ≠ 0x8808)
    (hmin : 60 ≤ d.blen) (hmax : d.blen ≤ 10236) : ∃ f, (s.txRelease [d]).path.frames = s.path.frames ++ [f] ∧ f.port = 512
      ∧ f.bytes = slice d.data 0 d.blen ++ fcsBytes (slice d.data 0 d.blen) ∧ (s.txRelease [d]).regs = s.regs ∧ (s.txRelease [d]).out = s.out := by
  obtain ⟨hregs, hout⟩ := rxGood_leaves (s.lineBusy d.blen) 512 (slice d.data 0 d.blen ++ fcsBytes (slice d.data 0 d.blen))
  have hpath := rxGood_path (s.lineBusy d.blen) 512 (slice d.data 0 d.blen ++ fcsBytes (slice d.data 0 d.blen))
  rw [txRelease_single hhdr htype hmin hmax]
  generalize (s.lineBusy d.blen).rxGood 512 (slice d.data 0 d.blen ++ fcsBytes (slice d.data 0 d.blen)) = m at hregs hout hpath
  obtain ⟨hframes, hregs', hout'⟩ := addFrame_shows m ((txFrame s (slice d.data 0 d.blen)).whole s.tick.slot)
  exact ⟨_, hframes.trans (by rw [hpath]; rfl), rfl, rfl, hregs'.trans hregs, hout'.trans hout⟩

theorem descAddr_of_regs (h : t.regs = s.regs) (tx : Bool) (r i : Nat) : t.descAddr tx r i = s.descAddr tx r i := by
  simp only [State.descAddr, State.ringBase, State.ringCount, reg_of_regs h]

/-- One descriptor is written back with DONE and no error, and HEAD moves over it. -/
def State.headPast (s : State) (r idx : Nat) : State :=
  (s.emit (.hostWrite (s.descAddr true r idx + 10) [7, 0])).setReg .dmaTxHead r (word (idx + 1))

theorem txWriteBack_single {d : TxDesc} (hfirst : d.first = true) (hlast : d.last = true) (hhdr : d.hdr = false) (s : State) (r idx : Nat) :
    s.txWriteBack r idx [d] 0 = ((s.headPast r idx).count .dmaTxFrameCnt r 1).ringDone true r := by
  unfold State.txWriteBack
  simp only [List.zipIdx_cons, List.zipIdx_nil, List.foldl_cons, List.foldl_nil, hfirst, hlast, hhdr, if_true, Nat.add_zero, List.length_singleton]
  rfl

theorem headPast_shows (h : RegsWf s) (r idx : Nat) : RegsWf (s.headPast r idx) ∧ (s.headPast r idx).reg .dmaTxHead r = word (idx + 1)
    ∧ (s.headPast r idx).path = s.path ∧ (s.headPast r idx).out = s.out ++ [.hostWrite (s.descAddr true r idx + 10) [7, 0]] := by
  have hwf : RegsWf (s.emit (.hostWrite (s.descAddr true r idx + 10) [7, 0])) := h
  have hout : (s.emit (.hostWrite (s.descAddr true r idx + 10) [7, 0])).out = s.out ++ [.hostWrite (s.descAddr true r idx + 10) [7, 0]] := rfl
  have hpath : (s.emit (.hostWrite (s.descAddr true r idx + 10) [7, 0])).path = s.path := emit_path _ _
  unfold State.headPast
  generalize s.emit (.hostWrite (s.descAddr true r idx + 10) [7, 0]) = m at hwf hout hpath
  rw [setReg_path, setReg_out]
  exact ⟨wf_setReg hwf _ _ _, reg_setReg_self hwf _ _ _, hpath, hout⟩

theorem txWriteBack_shows {d : TxDesc} (h : RegsWf s) (hfirst : d.first = true) (hlast : d.last = true) (hhdr : d.hdr = false) (r idx : Nat) :
    (s.txWriteBack r idx [d] 0).path = s.path ∧ (s.txWriteBack r idx [d] 0).reg .dmaTxHead r = word (idx + 1)
      ∧ (s.txWriteBack r idx [d] 0).out = s.out ++ [.hostWrite (s.descAddr true r idx + 10) [7, 0]] := by
  obtain ⟨hwf, hhead, hpath, hout⟩ := headPast_shows h r idx
  rw [txWriteBack_single hfirst hlast hhdr]
  generalize s.headPast r idx = m at hwf hhead hpath hout
  have hcount : (m.count .dmaTxFrameCnt r 1).path = m.path ∧ (m.count .dmaTxFrameCnt r 1).regs = m.regs ∧ (m.count .dmaTxFrameCnt r 1).out = m.out :=
    ⟨count_path _ _ _ _, count_regs _ _ _ _, count_out _ _ _ _⟩
  generalize m.count .dmaTxFrameCnt r 1 = u at hcount
  obtain ⟨hpath', hregs', hout'⟩ := hcount
  obtain ⟨-, -, hsent, hkept, -⟩ := ringDone_leaves u true r
  have hreg := reg_ringDone (s := u) (tx := true) (r := r) (by rw [RegsWf, hregs']; exact hwf) (q := .dmaTxHead) (by simp) r
  exact ⟨hkept.trans (hpath'.trans hpath), hreg.trans ((reg_of_regs hregs' _ _).trans hhead), hsent.trans (hout'.trans hout)⟩

/-- A descriptor that is first and last is a chain. -/
theorem txChain_single {d : TxDesc} (hfirst : d.first = true) (hlast : d.last = true) : txChain ([d].take 1) 0 = some (1, true) := by
  rw [List.take_succ_cons, List.take_zero, txChain, if_neg (by simp [hfirst]), if_neg (by simp), if_pos hlast]
  rfl

/-- A granted ring whose single descriptor holds a frame releases it (R561, R562). -/
theorem exec_dmaTxFrameFetch {d : TxDesc} (hr : r < 32) (hroot : s.tree.root = true) (hon : s.ringOn true r = true) (hbme : s.host.bme = true)
    (hline : s.host.txLine < 256 * (s.tick.slot + 1)) (hheld : s.held32 .dmaTxTail .dmaTxHead r = 1) (hfirst : d.first = true) (hlast : d.last = true)
    (hmin : 60 ≤ d.blen) (hmax : d.blen ≤ 10236) (hdesc : s.dmaAdmits (s.descAddr true r (s.reg .dmaTxHead r).toNat) 32 false true = true)
    (hbuf : s.dmaAdmits d.addr d.blen false true = true) : exec (.dmaTxFrameFetch r [d] false) s
      = .next ((s.txRelease [d]).txWriteBack r (s.reg .dmaTxHead r).toNat [d] 0) := by
  have hat : ((List.range 1).map fun k => s.descAddr true r ((s.reg .dmaTxHead r).toNat + k)).find? (fun a => !s.dmaAdmits a 32 false true) = none := by
    rw [List.range_one, List.map_singleton, Nat.add_zero, List.find?_singleton, hdesc]
    rfl
  have hbufs : [d].find? (fun d => !s.dmaAdmits d.addr d.blen false true) = none := by
    rw [List.find?_singleton, hbuf]
    rfl
  change execDmaTxFrameFetch r [d] false s = _
  unfold execDmaTxFrameFetch
  refine (if_neg ?_).trans ?_
  · simp [hr, hroot, hon, hbme, hline]
  rw [hheld, txChain_single hfirst hlast]
  dsimp only
  rw [hat]
  dsimp only
  rw [List.take_succ_cons, List.take_zero, List.map_singleton, List.sum_singleton, if_neg (by decide), if_neg (by omega), hbufs]
  rfl

/-! ### Vectors (R546, R550) -/

/-- The register of the vectors that have fired. -/
abbrev firedReg (v : Nat) : Reg := if v < 32 then .glbIntFiredLo else .glbIntFiredHi

/-- A vector has fired. -/
def State.vecFired (s : State) (v : Nat) : State := s.raiseBits (firedReg v) 0 (2 ^ (v % 32))

/-- A vector waits for its mask. -/
def State.vecWaits (s : State) (v : Nat) : State := { s with host := { s.host with vecPend := s.host.vecPend ||| 2 ^ v } }

theorem exec_vectorFire {v : Nat} (hv : v < 64) (hnot : s.regBit (firedReg v) 0 (v % 32) = false) (hor : s.vectorOr v = true)
    (hroot : s.tree.root = true) : exec (.vectorFire v) s
      = .next (if (s.host.msixOn && !s.host.fnMask && !s.host.vecMask.testBit v) = true then (s.vecFired v).emit (.msix v)
        else (s.vecFired v).vecWaits v) := by
  have hroot' : (s.vecFired v).tree.root = true := by rw [State.vecFired, raiseBits_tree, hroot]
  have hhost : (s.vecFired v).host = s.host := raiseBits_host _ _ _ _
  change execVectorFire v s = _
  unfold execVectorFire
  dsimp only
  rw [if_neg (by simp only [hnot, hor]; simp [hv])]
  rw [← State.vecFired, if_neg (by simp [hroot']), hhost]
  split
  · rfl
  · rfl

theorem vecFired_shows (h : RegsWf s) (v : Nat) : (s.vecFired v).regBit (firedReg v) 0 (v % 32) = true ∧ (s.vecFired v).out = s.out := by
  refine ⟨?_, raiseBits_out _ _ _ _⟩
  rw [State.vecFired, regBit_raiseBits h _ _ _ (Nat.mod_lt _ (by decide)), Nat.testBit_two_pow_self, Bool.or_true]

/-! ### CONS of a timestamp ring (R452) -/

/-- CONS and the level it leaves are written. -/
def State.consPut (s : State) (q v : Nat) : State := (s.setFld F.tsRingCons_CONS q v).setFld F.tsRingStat_LEVEL q ((s.setFld F.tsRingCons_CONS q v).ringLevel q)

theorem exec_tsRingConsWrite {q : Nat} {v : Word} (hq : s.hasQuad q = true) (hown : s.flag F.tsRingCtl_OWNER q = true) (hv : v.toNat < 65536)
    (hlead : (s.fld F.tsRingProd_PROD q + 65536 - v.toNat) % 65536 ≤ s.ringLevel q) :
    exec (.tsRingConsWrite .cc q v) s = .next (s.consPut q v.toNat) := by
  change execTsRingConsWrite .cc q v s = _
  rw [execTsRingConsWrite, if_neg (by simp [hq]), access_of_none rfl, State.writeCons]
  dsimp only
  rw [if_neg (by rw [Nat.mod_eq_of_lt (a := v.toNat) (b := 2 ^ 16) hv]; simpa [hown] using hlead)]
  rfl

/-! ### The endpoint's reset (R551) -/

/-- Every ring stops. -/
def State.ringsStopped (s : State) : State := (List.range 32).foldl (fun s r => (s.ringOff false r).ringOff true r) s

/-- The endpoint's configuration returns to its reset values, and the host's remote reads are discarded. -/
def State.endpointReset (s : State) : State :=
  { s with
    host := { s.host with bme := false, msixOn := false, fnMask := false, vecMask := 2 ^ 64 - 1, vecPend := 0, jobs := [] }
    tree := { s.tree with reads := s.tree.reads.filter fun (x : RemoteRead) => x.job.isSome } }

/-- Every valid inbound channel requests an increment. -/
def State.channelsRenewed (s : State) : State :=
  ((List.range 16).filter fun n => s.flag F.mbBind_VALID n).foldl (fun s n => s.newInc n) s

theorem endpointReset_leaves (s : State) : s.endpointReset.regs = s.regs ∧ s.endpointReset.meet = s.meet ∧ s.endpointReset.tree.root = s.tree.root
    ∧ s.endpointReset.host.bme = false ∧ s.endpointReset.host.msixOn = false ∧ s.endpointReset.host.jobs = [] := ⟨rfl, rfl, rfl, rfl, rfl, rfl⟩

theorem exec_pcieReset (s : State) : exec .pcieReset s
    = if (!s.ringsStopped.endpointReset.answerStops.tree.root) = true then .next s.ringsStopped.endpointReset.answerStops
      else .next s.ringsStopped.endpointReset.answerStops.channelsRenewed := rfl

/-- A ring's stop leaves the rest: output, jobs, tree and the meetings of the slot. -/
theorem ringOff_leaves (s : State) (tx : Bool) (r : Nat) : (s.ringOff tx r).tree = s.tree ∧ (s.ringOff tx r).meet = s.meet := by
  rw [ringOff_eq]
  split
  · exact ⟨setReg_tree _ _ _ _, setReg_meet _ _ _ _⟩
  · exact ⟨(jobsBeside_tree _ _).trans (setReg_tree _ _ _ _), (jobsBeside_meet _ _).trans (setReg_meet _ _ _ _)⟩

/-- Both rings of a number stop. -/
def State.ringPairOff (s : State) (r : Nat) : State := (s.ringOff false r).ringOff true r

theorem wf_ringPairOff (h : RegsWf s) (r : Nat) : RegsWf (s.ringPairOff r) := wf_ringOff (wf_ringOff h _ _) _ _

theorem ringPairOff_off (h : RegsWf s) (tx : Bool) (r : Nat) : (s.ringPairOff r).ringOn tx r = false := by
  have hwf := wf_ringOff h false r
  cases tx with
  | true => exact ringOn_ringOff hwf true r
  | false => exact (ringOn_of_reg (reg_ringOff_ne hwf (by simp [ringCfg]))).trans (ringOn_ringOff h false r)

theorem reg_ringPairOff_ne (h : RegsWf s) {q : Reg} {i : Nat} (hne : ∀ tx, ¬(q = ringCfg tx ∧ i = r)) : (s.ringPairOff r).reg q i = s.reg q i :=
  (reg_ringOff_ne (wf_ringOff h _ _) (hne true)).trans (reg_ringOff_ne h (hne false))

/-- Every ring is off, and no other register, nor the tree or the meetings of the slot, has changed. -/
theorem ringsStopped_shows (h : RegsWf s) : RegsWf s.ringsStopped ∧ (∀ tx r, r < 32 → s.ringsStopped.ringOn tx r = false)
    ∧ (∀ q i, (∀ tx, q ≠ ringCfg tx) → s.ringsStopped.reg q i = s.reg q i) ∧ s.ringsStopped.tree = s.tree ∧ s.ringsStopped.meet = s.meet := by
  have hkeeps : ∀ u a, RegsWf u → RegsWf (State.ringPairOff u a) := fun u a hu => wf_ringPairOff hu a
  have htree : ∀ u a, (State.ringPairOff u a).tree = u.tree := fun u a => (ringOff_leaves _ true a).1.trans (ringOff_leaves u false a).1
  have hmeet : ∀ u a, (State.ringPairOff u a).meet = u.meet := fun u a => (ringOff_leaves _ true a).2.trans (ringOff_leaves u false a).2
  refine ⟨?_, fun tx r hr => ?_, fun q i hq => ?_, foldl_part (·.tree) htree _ s, foldl_part (·.meet) hmeet _ s⟩
  · exact List.foldlRecOn (List.range 32) State.ringPairOff h fun u hu a _ => hkeeps u a hu
  · obtain ⟨u, hu, -, hoff⟩ := foldl_of_mem (f := State.ringPairOff) (P := RegsWf) (g := fun s => s.ringOn tx r) hkeeps
      (fun u a hu ha => ringOn_of_reg (reg_ringPairOff_ne hu fun _ hk => ha hk.2.symm)) List.nodup_range (List.mem_range.2 hr) h
    exact hoff.trans (ringPairOff_off hu tx r)
  · exact foldl_of_notMem (f := State.ringPairOff) (P := RegsWf) (g := fun s => s.reg q i) (q := 32) hkeeps
      (fun u a hu _ => reg_ringPairOff_ne hu fun tx hk => hq tx hk.1) (by decide) h

/-- The state after the reset, before the channels ask for increments. -/
theorem endpointReset_shows (h : RegsWf s) : RegsWf s.ringsStopped.endpointReset.answerStops
    ∧ (∀ tx r, r < 32 → s.ringsStopped.endpointReset.answerStops.ringOn tx r = false)
    ∧ (∀ q i, (∀ tx, q ≠ ringCfg tx) → s.ringsStopped.endpointReset.answerStops.reg q i = s.reg q i)
    ∧ s.ringsStopped.endpointReset.answerStops.tree.root = s.tree.root ∧ s.ringsStopped.endpointReset.answerStops.meet = s.meet
    ∧ s.ringsStopped.endpointReset.answerStops.host = s.ringsStopped.endpointReset.host := by
  obtain ⟨hwf, hoff, hreg, htree, hmeet⟩ := ringsStopped_shows h
  obtain ⟨hreset, hmeets, hroot, -, -, -⟩ := endpointReset_leaves s.ringsStopped
  obtain ⟨hregs, hhost, hmeet', htree'⟩ := answerStops_leaves s.ringsStopped.endpointReset
  have hall := hregs.trans hreset
  refine ⟨by rw [RegsWf, hall]; exact hwf, fun tx r hr => (ringOn_of_regs hall tx r).trans (hoff tx r hr),
    fun q i hq => (reg_of_regs hall q i).trans (hreg q i hq), ?_, hmeet'.trans (hmeets.trans hmeet), hhost⟩
  rw [htree', hroot, htree]

/-- Canonical registers in a slot without a POST. -/
abbrev NoPosts (s : State) : Prop := RegsWf s ∧ s.meet.posts = []

theorem noPosts_newInc (h : NoPosts s) (n : Nat) : NoPosts (s.newInc n) := by
  rw [newInc_alone h.2]
  exact ⟨wf_setFld h.1 _ _ _, (congrArg Meet.posts (setFld_meet _ _ _ _)).trans h.2⟩

theorem newInc_host (h : NoPosts s) (n : Nat) : (s.newInc n).host = s.host := by rw [newInc_alone h.2, setFld_host]

theorem newInc_pending (h : NoPosts s) (n : Nat) : (s.newInc n).flag F.mbInCtl_INC_PEND n = true := by
  rw [newInc_alone h.2]
  exact flag_setFld_one h.1 (by decide) n

theorem reg_newInc_ne (h : NoPosts s) {n : Nat} {q : Reg} {i : Nat} (hne : ¬(q = .mbInCtl ∧ i = n)) : (s.newInc n).reg q i = s.reg q i := by
  rw [newInc_alone h.2]
  exact reg_setFld_ne h.1 1 hne

/-- Every valid channel has asked, and the rings and the host port stand. -/
theorem channelsRenewed_shows (h : NoPosts s) : s.channelsRenewed.host = s.host
    ∧ (∀ tx r, s.channelsRenewed.ringOn tx r = s.ringOn tx r)
    ∧ ∀ n, n < 16 → s.flag F.mbBind_VALID n = true → s.channelsRenewed.flag F.mbInCtl_INC_PEND n = true := by
  have hkeeps : ∀ u a, NoPosts u → NoPosts (State.newInc u a) := fun u a hu => noPosts_newInc hu a
  have hnot : 16 ∉ (List.range 16).filter fun n => s.flag F.mbBind_VALID n := fun hmem => by simp at hmem
  refine ⟨?_, fun tx r => ?_, fun n hn hvalid => ?_⟩
  · exact foldl_of_notMem (f := State.newInc) (g := fun u => u.host) hkeeps (fun u a hu _ => newInc_host hu a) hnot h
  · exact foldl_of_notMem (f := State.newInc) (g := fun u => u.ringOn tx r) hkeeps
      (fun u a hu _ => ringOn_of_reg (reg_newInc_ne hu (by cases tx <;> simp [ringCfg]))) hnot h
  · obtain ⟨u, hu, -, hpend⟩ := foldl_of_mem (f := State.newInc) (g := fun u => u.flag F.mbInCtl_INC_PEND n) hkeeps
      (fun u a hu ha => flag_of_reg (f := F.mbInCtl_INC_PEND) (reg_newInc_ne hu fun hk => ha hk.2.symm))
      (List.nodup_range.filter _) (List.mem_filter.2 ⟨List.mem_range.2 hn, hvalid⟩) h
    exact hpend.trans (newInc_pending hu n)

/-! ### The endpoint's data link (R550, R571) -/

/-- The vectors that wait and are no longer masked. -/
def State.vectorsDue (s : State) (on fm : Bool) (vm : Nat) : List Nat :=
  onesOf 64 (if on && !fm then s.host.vecPend &&& ((2 ^ 64 - 1) ^^^ (vm % 2 ^ 64)) else 0)

/-- The endpoint's configuration as the host writes it. -/
def State.endpointSet (s : State) (bme on fm : Bool) (vm : Nat) : State :=
  { s with host := { s.host with bme := bme, msixOn := on, fnMask := fm, vecMask := vm % 2 ^ 64
                                 vecPend := (s.vectorsDue on fm vm).foldl (fun m v => m - 2 ^ v) s.host.vecPend } }

theorem endpointSet_leaves (h : Inv s) (bme on fm : Bool) (vm : Nat) : Inv (s.endpointSet bme on fm vm)
    ∧ (s.endpointSet bme on fm vm).host.bme = bme ∧ (s.endpointSet bme on fm vm).host.msixOn = on ∧ (s.endpointSet bme on fm vm).host.fnMask = fm :=
  ⟨⟨h.regs, h.slot, h.whorl⟩, rfl, rfl, rfl⟩

/-- The messages of the vectors in a list go out. -/
def State.vectorsSent (s : State) (vs : List Nat) : State := vs.foldl (fun s v => s.emit (.msix v)) s

/-- The registers that show the root. -/
def State.rootShown (s : State) : State := (s.setFld F.rlStat_ROOT 0 1).setFld F.glbDevid_NODE 0 0

/-- The device is the root. -/
def State.isRootNow (s : State) : State := { s with tree := { s.tree with root := true, numbered := false, path := [] } }

theorem isRootNow_leaves (h : Inv s) : Inv s.isRootNow ∧ s.isRootNow.tree.root = true ∧ s.isRootNow.regs = s.regs ∧ s.isRootNow.host = s.host :=
  ⟨⟨h.regs, h.slot, h.whorl⟩, rfl, rfl, rfl⟩

theorem exec_pcieDataLinkUp (hstrap : s.power.straps.testBit 0 = false) (bme on fm : Bool) (vm : Nat) : exec (.pcieDataLinkUp bme on fm vm) s
    = .next (((s.endpointSet bme on fm vm).vectorsSent (s.vectorsDue on fm vm)).rootShown.isRootNow).decideRoles := by
  change execPcieDataLinkUp bme on fm vm s = _
  unfold execPcieDataLinkUp
  exact if_neg (by simp [hstrap])

theorem vectorsSent_leaves (s : State) (vs : List Nat) : (s.vectorsSent vs).regs = s.regs ∧ (s.vectorsSent vs).host = s.host
    ∧ (s.vectorsSent vs).tick = s.tick ∧ (s.vectorsSent vs).time = s.time :=
  ⟨foldl_part (·.regs) (fun s v => emit_regs s (.msix v)) vs s, foldl_part (·.host) (fun s v => emit_host s (.msix v)) vs s,
    foldl_part (·.tick) (fun s v => emit_tick s (.msix v)) vs s, foldl_part (·.time) (fun s v => emit_time s (.msix v)) vs s⟩

theorem rootShown_shows (h : Inv s) : Inv s.rootShown ∧ s.rootShown.flag F.rlStat_ROOT 0 = true ∧ s.rootShown.fld F.glbDevid_NODE 0 = 0
    ∧ s.rootShown.host = s.host := by
  have hwf := wf_setFld h.regs F.rlStat_ROOT 0 1
  have hroot : (s.setFld F.rlStat_ROOT 0 1).flag F.rlStat_ROOT 0 = true := flag_setFld_one h.regs (by decide) 0
  have hrest : (s.setFld F.rlStat_ROOT 0 1).tick = s.tick ∧ (s.setFld F.rlStat_ROOT 0 1).time = s.time ∧ (s.setFld F.rlStat_ROOT 0 1).host = s.host :=
    ⟨setFld_tick _ _ _ _, setFld_time _ _ _ _, setFld_host _ _ _ _⟩
  unfold State.rootShown
  generalize s.setFld F.rlStat_ROOT 0 1 = m at hwf hroot hrest
  obtain ⟨htick, htime, hhost⟩ := hrest
  refine ⟨⟨wf_setFld hwf _ _ _, ?_, ?_⟩, ?_, ?_, ?_⟩
  · rw [setFld_tick, htick]
    exact h.slot
  · rw [setFld_time, htime]
    exact h.whorl
  · rw [flag_of_reg (f := F.rlStat_ROOT) (reg_setFld_ne hwf 0 (by simp [F.rlStat_ROOT, F.glbDevid_NODE])), hroot]
  · rw [fld_setFld_self hwf (by decide)]
    rfl
  · rw [setFld_host, hhost]

/-- The root has no parent and is 0 hops from itself. -/
theorem chooseParent_root (hroot : s.tree.root = true) : s.chooseParent = (none, 0) := by
  unfold State.chooseParent
  rw [if_pos hroot]

/-- A new choice of roles leaves ROOT. -/
theorem routesEnd_decideRoles (s : State) : RoutesEnd 4 s s.decideRoles := by
  rw [decideRoles_eq]
  exact (RoutesEnd.of_regs (parentChosen_regs s)).trans
    (.foldl _ (fun m j hj => routesEnd_decideRole (Nat.ne_of_lt (List.mem_range.1 hj)) m) _)

/-- A new choice of roles leaves the host port and the device's number. -/
theorem decideRoles_leaves (h : Inv s) : s.decideRoles.host = s.host ∧ s.decideRoles.fld F.glbDevid_NODE 0 = s.fld F.glbDevid_NODE 0 := by
  have hkeeps := keeps_decideRoles (M := ⟨[.meet, .cnt, .pkts, .log, .tab, .tree, .out, .free],
    [.rlNodeValidHi, .rlNodeValidLo, .rlPortStat, .rlRoute, .rlStat], false⟩) (keeps_self h) (Change.le_self _)
  exact ⟨hkeeps.within.host (by decide), fld_of_keeps hkeeps F.glbDevid_NODE 0 (by decide)⟩

end

/-- Settles O35: each event is one step of its ring, vector or endpoint, and the answers of stop commands leave registers and rings. -/
theorem hostRingsAndInterrupts : Obligations.HostRingsAndInterrupts := by
  unfold Obligations.HostRingsAndInterrupts
  refine ⟨?tail, ?receive, ?transmit, ?coalesce, ?vector, ?cons, ?reset, ?up⟩
  case tail =>
    intro who tx r v s h hw hadm hr hroot
    refine ⟨fun hfits => ?_, fun hover => ?_⟩
    · refine ⟨_, exec_dmaTailWrite hadm hr v, ?_, ?_⟩
      · rw [writeTail_waits hroot hfits, ring_setRing hw]
      · rw [writeTail_waits hroot hfits, reg_of_regs (setRing_regs _ _ _ _)]
    · refine ⟨_, exec_dmaTailWrite hadm hr v, ?_, ?_⟩
      · rw [writeTail_excess hroot hover]
        exact flag_raise_self h.regs (by decide) 0
      · rw [writeTail_excess hroot hover, raise_host]
  case receive =>
    intro r bufs j bs s h htab hjobs hring hbytes hone hadm
    have hexec := exec_dmaRxFrameWrite hjobs hring hbytes hone hadm
    refine ⟨?_, ?_⟩
    · have hwritten := rxWritten_out s r (bufs.getD 0 0) j (j.data bs)
      have hrest : (s.rxWritten r (bufs.getD 0 0) j (j.data bs)).cnt = s.cnt ∧ (s.rxWritten r (bufs.getD 0 0) j (j.data bs)).tab = s.tab
        ∧ (s.rxWritten r (bufs.getD 0 0) j (j.data bs)).host = s.host := ⟨rfl, rfl, rfl⟩
      have hexec := (hexec false).trans (congrArg Host.Outcome.next (if_neg (by decide)))
      generalize s.rxWritten r (bufs.getD 0 0) j (j.data bs) = m at hexec hwritten hrest
      obtain ⟨hcnt, htab', hhost⟩ := hrest
      have hended : (m.rxEnded r j).host.jobs = [] ∧ (m.rxEnded r j).cnt = m.cnt ∧ (m.rxEnded r j).out = m.out ∧ (m.rxEnded r j).tab = m.tab := by
        refine ⟨?_, rfl, rfl, rfl⟩
        change m.host.jobs.filter (fun (x : RxJob) => !(x.ring = r && x.idx = j.idx)) = []
        rw [hhost, hjobs]
        simp [hring]
      generalize m.rxEnded r j = u at hexec hended
      obtain ⟨hnone, hcnt', hout', htab''⟩ := hended
      obtain ⟨hjobs', hcount, hout, -, htabs⟩ := ringDone_leaves (u.count .dmaRxFrameCnt r 1) false r
      rw [answerStops_idle (by rw [htabs, count_tab, htab'', htab', htab])] at hexec
      refine ⟨_, hexec, ?_, ?_, ?_⟩
      · rw [hjobs', count_host, hnone]
      · rw [hcount]
        exact count_cnt_congr (hcnt'.trans hcnt) _ _ _
      · rw [hout, count_out, hout', hwritten]
        rfl
    · have hoff := ringOn_ringOff h.regs false r
      have hwf := wf_ringOff h.regs false r
      have hrest : (s.ringOff false r).host.jobs = [] ∧ (s.ringOff false r).out = s.out ∧ (s.ringOff false r).tab = s.tab := by
        refine ⟨?_, ringOff_out _ _ _, ringOff_tab _ _ _⟩
        rw [ringOff_rx, hjobs]
        simp [hring]
      have hexec := (hexec true).trans (congrArg Host.Outcome.next ((if_pos rfl).trans (ringFault_eq s false r 3)))
      generalize s.ringOff false r = m at hexec hoff hwf hrest
      obtain ⟨hnone, hout, htab'⟩ := hrest
      obtain ⟨hflag, hrings, hhost, hout', htabs⟩ := faultShown_shows hwf (word (3 * 256 + b2n false * 128 + r))
      rw [answerStops_idle (by rw [htabs, htab', htab])] at hexec
      exact ⟨_, hexec, (hrings false r).trans hoff, hflag, by rw [hhost, hnone], hout'.trans hout⟩
  case transmit =>
    intro r d s h hr hroot hon hbme hline hheld hfirst hlast hhdr hmin hmax hdesc hbuf htype
    have hexec := exec_dmaTxFrameFetch hr hroot hon hbme hline hheld hfirst hlast hmin hmax hdesc hbuf
    obtain ⟨f, hframes, hport, hbytes, hregs, hout⟩ := txRelease_shows (s := s) hhdr htype hmin hmax
    generalize s.txRelease [d] = m at hexec hframes hregs hout
    obtain ⟨hpath, hhead, hsent⟩ := txWriteBack_shows (s := m) (by rw [RegsWf, hregs]; exact h.regs) hfirst hlast hhdr r (s.reg .dmaTxHead r).toNat
    refine ⟨_, f, hexec, by rw [hpath, hframes], hport, hbytes, ?_, ?_⟩
    · rw [hhead, word, BitVec.ofNat_add, BitVec.ofNat_toNat, BitVec.setWidth_eq]
      rfl
    · rw [hsent, hout, descAddr_of_regs hregs]
  case coalesce =>
    intro tx r s h hw hr hsome hdue
    exact ⟨_, exec_dmaCoalesceTimer hsome hdue, ringSignal_shows h.regs hw tx hr⟩
  case vector =>
    intro v s h hv hnot hor hroot
    have hexec := exec_vectorFire hv hnot hor hroot
    obtain ⟨hfired, hout⟩ := vecFired_shows h.regs v
    refine ⟨fun hon hfn hvec => ?_, fun hoff => ?_⟩
    · rw [if_pos (by simp [hon, hfn, hvec])] at hexec
      generalize s.vecFired v = m at hexec hfired hout
      exact ⟨_, hexec, by rw [← hout]; rfl, hfired⟩
    · rw [if_neg (by simp [hoff])] at hexec
      generalize s.vecFired v = m at hexec hfired hout
      refine ⟨_, hexec, ?_, hout, hfired⟩
      rw [State.vecWaits, Nat.testBit_or, Nat.testBit_two_pow_self, Bool.or_true]
  case cons =>
    intro q v s h hq hown hv hlead
    have hwf := wf_setFld h.regs F.tsRingCons_CONS q v.toNat
    have hput : (s.setFld F.tsRingCons_CONS q v.toNat).fld F.tsRingCons_CONS q = v.toNat :=
      (fld_setFld_self h.regs (by decide) q v.toNat).trans (Nat.mod_eq_of_lt hv)
    refine ⟨_, exec_tsRingConsWrite hq hown hv hlead, ?_⟩
    unfold State.consPut
    generalize s.setFld F.tsRingCons_CONS q v.toNat = m at hwf hput
    rw [fld_of_reg (f := F.tsRingCons_CONS) (reg_setFld_ne hwf _ (by simp [F.tsRingCons_CONS, F.tsRingStat_LEVEL])), hput]
  case reset =>
    intro s h hposts
    obtain ⟨hwf, hoff, hreg, hroot, hmeet, hhost⟩ := endpointReset_shows h.regs
    obtain ⟨-, -, -, hreset⟩ := endpointReset_leaves s.ringsStopped
    have hexec := exec_pcieReset s
    rw [← hhost] at hreset
    generalize s.ringsStopped.endpointReset.answerStops = m at hexec hwf hoff hreg hroot hmeet hreset
    obtain ⟨hbme, hmsix, hjobs⟩ := hreset
    cases hr : s.tree.root with
    | false =>
      rw [if_pos (by rw [hroot, hr]; rfl)] at hexec
      exact ⟨m, hexec, hbme, hmsix, hjobs, fun r hlt => ⟨hoff false r hlt, hoff true r hlt⟩, fun hcon => absurd hcon (by decide)⟩
    | true =>
      rw [if_neg (by rw [hroot, hr]; decide)] at hexec
      obtain ⟨hkept, hrings, hpend⟩ := channelsRenewed_shows ⟨hwf, by rw [hmeet, hposts]⟩
      refine ⟨_, hexec, by rw [hkept, hbme], by rw [hkept, hmsix], by rw [hkept, hjobs],
        fun r hlt => ⟨(hrings false r).trans (hoff false r hlt), (hrings true r).trans (hoff true r hlt)⟩, fun _ n hn hvalid => hpend n hn ?_⟩
      exact (flag_of_reg (f := F.mbBind_VALID) (hreg .mbBind n fun tx => by cases tx <;> simp [ringCfg])).trans hvalid
  case up =>
    intro bme on fm vm s h hstrap
    have hset := endpointSet_leaves h bme on fm vm
    have hexec := exec_pcieDataLinkUp hstrap bme on fm vm
    generalize s.endpointSet bme on fm vm = m at hset hexec
    obtain ⟨hinv, hbme, hon, hfm⟩ := hset
    obtain ⟨hregs, hhost, htick, htime⟩ := vectorsSent_leaves m (s.vectorsDue on fm vm)
    have hinv' : Inv (m.vectorsSent (s.vectorsDue on fm vm)) := ⟨by rw [RegsWf, hregs]; exact hinv.regs, by rw [htick]; exact hinv.slot, by rw [htime]; exact hinv.whorl⟩
    generalize m.vectorsSent (s.vectorsDue on fm vm) = u at hexec hhost hinv'
    obtain ⟨hshown, hflag, hnode, hhost'⟩ := rootShown_shows hinv'
    generalize u.rootShown = w at hexec hshown hflag hnode hhost'
    have hroot := isRootNow_leaves hshown
    generalize w.isRootNow = x at hexec hroot
    obtain ⟨hinv'', hisRoot, hregs', hhost''⟩ := hroot
    obtain ⟨hkept, hparent, hhops, -⟩ := decideRoles_shows x
    obtain ⟨hhost3, hnode'⟩ := decideRoles_leaves hinv''
    have hall : x.decideRoles.host = m.host := hhost3.trans (hhost''.trans (hhost'.trans hhost))
    rw [chooseParent_root hisRoot] at hparent hhops
    refine ⟨_, hexec, hkept.trans hisRoot, hhops, hparent, ?_, ?_, by rw [hall, hbme], by rw [hall, hon], by rw [hall, hfm]⟩
    · rw [(routesEnd_decideRoles x).isRoot hinv''.regs, flag_of_regs hregs', hflag]
    · rw [hnode', fld_of_regs hregs', hnode]

end Sys2Proof.Machine

/-! Writes without a stated outcome (O33): no write changes the ordering code, and only a write at a gap under GRD2048-F stops the block. -/

namespace Sys2Proof.Machine
open Sys2Proof

section
variable (s : State)

/-! ### What a register write leaves: the fuses (R7, R12) -/

@[simp] theorem accError_fuses (kind sid x : Nat) : (s.accError kind sid x).fuses = s.fuses := by
  unfold State.accError
  dsimp only
  split <;> simp

@[simp] theorem violation_fuses (kind sid x : Nat) (write : Bool) : (s.violation kind sid x write).fuses = s.fuses := by
  unfold State.violation
  refine (count_fuses _ _ _ _).trans ((setReg_fuses _ _ _ _).trans ((setReg_fuses _ _ _ _).trans ?_))
  split <;> exact raise_fuses _ _ _

@[simp] theorem plainWrite_fuses (r : Reg) (i : Nat) (v : Word) : (s.plainWrite r i v).fuses = s.fuses := by
  unfold State.plainWrite
  dsimp only
  split <;> split <;> simp

@[simp] theorem updLost_fuses (x party : Nat) : (s.updLost x party).fuses = s.fuses := by
  rw [State.updLost, count_fuses, setReg_fuses, raise_fuses]

@[simp] theorem noteWrite_fuses (r : Reg) (i mask party : Nat) : (s.noteWrite r i mask party).fuses = s.fuses := by
  unfold State.noteWrite
  dsimp only
  split <;> simp

/-! The modes of a port (R81 to R82, R303). -/

@[simp] theorem setFlow_fuses (p : Nat) (f : Flow) : (s.setFlow p f).fuses = s.fuses := (aside_setFlow s p f).fuses
@[simp] theorem setLine_fuses (p : Nat) (l : PortLine) : (s.setLine p l).fuses = s.fuses := (aside_setLine s p l).fuses
@[simp] theorem setLane_fuses (l : Nat) (x : LaneSt) : (s.setLane l x).fuses = s.fuses := rfl
@[simp] theorem drop_fuses (p code : Nat) : (s.drop p code).fuses = s.fuses := (aside_drop s p code).fuses
@[simp] theorem purge_fuses (fid port : Nat) : (s.purge fid port).fuses = s.fuses := (aside_purge s fid port).fuses
@[simp] theorem dropCopy_fuses (c : Copy) (code : Nat) : (s.dropCopy c code).fuses = s.fuses := (aside_dropCopy s c code).fuses
@[simp] theorem loseCopy_fuses (fid port code : Nat) : (s.loseCopy fid port code).fuses = s.fuses := (aside_loseCopy s fid port code).fuses
@[simp] theorem withdraw_fuses (p : Nat) : (s.withdraw p).fuses = s.fuses := (aside_withdraw s p).fuses
@[simp] theorem freeze_fuses (p : Nat) : (s.freeze p).fuses = s.fuses := (aside_freeze s p).fuses
@[simp] theorem settle_fuses : s.settle.fuses = s.fuses := (aside_settle s).fuses
@[simp] theorem standbyCheck_fuses (p : Nat) : (s.standbyCheck p).fuses = s.fuses := (aside_standbyCheck s p).fuses
@[simp] theorem enableLanes_fuses (p : Nat) : (s.enableLanes p).fuses = s.fuses := (aside_enableLanes s p).fuses

@[simp] theorem setXoff_fuses (p c : Nat) (on : Bool) : (s.setXoff p c on).fuses = s.fuses := by
  unfold State.setXoff
  dsimp only
  split <;> simp

@[simp] theorem xoffCheck_fuses (p c : Nat) : (s.xoffCheck p c).fuses = s.fuses := by
  unfold State.xoffCheck
  dsimp only
  split
  · simp
  · split <;> simp

@[simp] theorem losslessOff_fuses (p : Nat) : (s.losslessOff p).fuses = s.fuses := by
  simp [State.losslessOff, State.showPaused]

@[simp] theorem openGates_fuses (p : Nat) : (s.openGates p).fuses = s.fuses := (setFld_fuses _ _ _ _).trans (setFld_fuses s _ _ _)

@[simp] theorem wake_fuses (p : Nat) : (s.wake p).fuses = s.fuses := by
  unfold State.wake
  dsimp only
  split <;> simp

/-- The lossless classes of a port that rise and fall with its mode. -/
theorem xoffChecks_fuses (p : Nat) (l : List Nat) : (l.foldl (fun s c => s.xoffCheck p c) s).fuses = s.fuses :=
  foldl_part (·.fuses) (fun s c => xoffCheck_fuses s p c) l s

theorem ite_fuses {c : Prop} [Decidable c] {t u : State} (ht : t.fuses = s.fuses) (hu : u.fuses = s.fuses) : (if c then t else u).fuses = s.fuses := by
  split
  · exact ht
  · exact hu

@[simp] theorem writeMode_fuses (p v : Nat) : (s.writeMode p v).fuses = s.fuses := by
  unfold State.writeMode
  extract_lets mask old new s1 rises falls s2 s3 s4 line s5
  have h1 : s1.fuses = s.fuses := setReg_fuses s _ _ _
  have h2 : s2.fuses = s.fuses := ite_fuses s ((xoffChecks_fuses s1 p _).trans h1) h1
  have h3 : s3.fuses = s.fuses := ite_fuses s ((losslessOff_fuses s2 p).trans h2) h2
  have h4 : s4.fuses = s.fuses := ite_fuses s ((openGates_fuses s3 p).trans h3) h3
  have h5 : s5.fuses = s.fuses := ite_fuses s ((setLine_fuses s4 p _).trans h4) h4
  exact ite_fuses s ((standbyCheck_fuses _ p).trans ((withdraw_fuses s5 p).trans h5)) (ite_fuses s ((wake_fuses s5 p).trans h5) h5)

@[simp] theorem writeDeep_fuses (p v : Nat) : (s.writeDeep p v).fuses = s.fuses := setFld_fuses s _ _ _

/-! A port that stops (R348, R350). -/

@[simp] theorem onFrame_fuses (id : Nat) (g : Frame → Frame) : (s.onFrame id g).fuses = s.fuses := rfl
@[simp] theorem setTx_fuses (k : Nat) (t : Option Tx) : (s.setTx k t).fuses = s.fuses := rfl
@[simp] theorem setSched_fuses (p : Nat) (d : Sched) : (s.setSched p d).fuses = s.fuses := rfl

/-- A line's lanes are off. -/
@[simp] theorem disableLanes_fuses (p : Nat) : (s.disableLanes p).fuses = s.fuses := by
  unfold State.disableLanes
  refine (setFld_fuses _ _ _ _).trans ((setLine_fuses _ _ _).trans ((setReg_fuses _ _ _ _).trans ?_))
  refine foldl_part (·.fuses) (fun m l => ?_) _ s
  exact (setLane_fuses _ _ _).trans ((setFld_fuses _ _ _ _).trans ((setFld_fuses _ _ _ _).trans ((setFld_fuses _ _ _ _).trans
    ((setReg_fuses _ _ _ _).trans (setReg_fuses _ _ _ _)))))

/-- A copy that a later fault takes back. -/
@[simp] theorem lateDrop_fuses (fid port code : Nat) : (s.lateDrop fid port code).fuses = s.fuses := by
  unfold State.lateDrop
  extract_lets begun next starts s1 deep
  have h1 : s1.fuses = s.fuses := ite_fuses s (withdraw_fuses s port) rfl
  exact ite_fuses s rfl (ite_fuses s ((loseCopy_fuses s1 _ _ _).trans h1) (ite_fuses s ((drop_fuses _ _ _).trans ((purge_fuses s1 _ _).trans h1)) h1))

@[simp] theorem endBad_fuses (f : Frame) (reason : Nat) : (s.endBad f reason).fuses = s.fuses := by
  unfold State.endBad
  extract_lets now short arrived done
  split
  · exact ite_fuses s (drop_fuses _ _ _) rfl
  · rfl
  · rfl
  · exact ite_fuses s (drop_fuses _ _ _) rfl
  · refine foldl_part (·.fuses) (fun m g => ?_) _ s
    extract_lets staged m1
    refine ite_fuses m rfl ((foldl_part (·.fuses) (fun u d => ?_) _ m1).trans rfl)
    exact ite_fuses u (lateDrop_fuses u _ _ _) (drop_fuses u _ _)

@[simp] theorem truncate_fuses (p : Nat) : (s.truncate p).fuses = s.fuses := by
  unfold State.truncate
  refine foldl_part (·.fuses) (fun m f => ?_) _ s
  extract_lets m1
  split
  · rfl
  · exact (drop_fuses _ _ _).trans (count_fuses _ _ _ _)
  · exact (drop_fuses _ _ _).trans (count_fuses _ _ _ _)
  · exact (count_fuses _ _ _ _).trans (endBad_fuses m1 _ _)

@[simp] theorem forgetCopy_fuses (c : Copy) : (s.forgetCopy c).fuses = s.fuses := by
  unfold State.forgetCopy
  split
  · exact (dropCopy_fuses _ _ _).trans (purge_fuses s _ _)
  · rfl

@[simp] theorem endMirrors_fuses (p fid : Nat) (bad : Bool) : (s.endMirrors p fid bad).fuses = s.fuses := by
  unfold State.endMirrors
  refine foldl_part (·.fuses) (fun m g => ?_) _ s
  extract_lets m1
  refine ite_fuses m rfl ((raise_fuses _ _ _).trans ((drop_fuses _ _ _).trans ?_))
  exact foldl_part (·.fuses) (fun u d => loseCopy_fuses u _ _ _) _ m1

@[simp] theorem abortTx_fuses (p : Nat) : (s.abortTx p).fuses = s.fuses := by
  unfold State.abortTx
  split
  · rfl
  · extract_lets s1 line s2
    have h2 : s2.fuses = s.fuses := (setSched_fuses s1 _ _).trans ((setTx_fuses _ _ _).trans (count_fuses s _ _ _))
    split
    · exact (emit_fuses s2 _).trans h2
    · extract_lets body s3
      have h3 : s3.fuses = s.fuses := (emit_fuses _ _).trans (ite_fuses s ((drop_fuses s2 _ _).trans h2) h2)
      exact (forgetCopy_fuses _ _).trans ((endMirrors_fuses s3 _ _ _).trans h3)

@[simp] theorem linkLoss_fuses (p : Nat) : (s.linkLoss p).fuses = s.fuses := by
  unfold State.linkLoss
  extract_lets s1
  have h1 : s1.fuses = s.fuses := (count_fuses _ _ _ _).trans ((raise_fuses _ _ _).trans (setFld_fuses s _ _ _))
  exact ite_fuses s rfl ((settle_fuses _).trans ((freeze_fuses _ _).trans ((truncate_fuses _ _).trans ((abortTx_fuses s1 _).trans h1))))

@[simp] theorem writePortCfg_fuses (p : Nat) (v : Word) : (s.writePortCfg p v).fuses = s.fuses := by
  unfold State.writePortCfg
  extract_lets on s1
  have h1 : s1.fuses = s.fuses := plainWrite_fuses s _ _ _
  refine ite_fuses s h1 (ite_fuses s ?_ (ite_fuses s ?_ h1))
  · exact (inPath_fuses _ _).trans ((setReg_fuses _ _ _ _).trans ((disableLanes_fuses _ _).trans ((linkLoss_fuses s1 _).trans h1)))
  · exact (standbyCheck_fuses _ _).trans ((enableLanes_fuses s1 _).trans h1)

/-! Time, rings, gates and lanes (R54, R408, R413, R423, R452, R326, R385). -/

@[simp] theorem missEntry_fuses (e cause : Nat) : (s.missEntry e cause).fuses = s.fuses :=
  (raiseBits_fuses _ _ _ _).trans ((setFld_fuses _ _ _ _).trans (setFld_fuses s _ _ _))

@[simp] theorem writeSchAct_fuses (e : Nat) (v : Word) : (s.writeSchAct e v).fuses = s.fuses := by
  unfold State.writeSchAct
  extract_lets was s1
  have h1 : s1.fuses = s.fuses := plainWrite_fuses s _ _ _
  exact ite_fuses s (ite_fuses s ((missEntry_fuses s1 _ _).trans h1) (ite_fuses s ((missEntry_fuses s1 _ _).trans h1) h1)) h1

@[simp] theorem writeIncFrac_fuses (v : Word) : (s.writeIncFrac v).fuses = s.fuses := rfl
@[simp] theorem writeIncNs_fuses (v : Word) : (s.writeIncNs v).fuses = s.fuses := rfl
@[simp] theorem writeSlewCount_fuses (v : Word) : (s.writeSlewCount v).fuses = s.fuses := rfl

@[simp] theorem writeBaseCtl_fuses (v : Word) : (s.writeBaseCtl v).fuses = s.fuses := by
  unfold State.writeBaseCtl
  extract_lets s1
  have h1 : s1.fuses = s.fuses := setFld_fuses s _ _ _
  exact ite_fuses s h1 h1

@[simp] theorem evtStop_fuses (i : Nat) : (s.evtStop i).fuses = s.fuses := by
  unfold State.evtStop
  split
  · exact ite_fuses s rfl (ite_fuses s rfl rfl)
  · rfl

@[simp] theorem evtArm_fuses (i : Nat) : (s.evtArm i).fuses = s.fuses := by
  unfold State.evtArm
  extract_lets s1
  have h1 : s1.fuses = s.fuses := ite_fuses s rfl rfl
  exact ite_fuses s ((raise_fuses _ _ _).trans ((setFld_fuses s1 _ _ _).trans h1)) h1

@[simp] theorem writeEvtCtl_fuses (i : Nat) (v : Word) : (s.writeEvtCtl i v).fuses = s.fuses := by
  unfold State.writeEvtCtl
  extract_lets was s0 s1
  have h0 : s0.fuses = s.fuses := ite_fuses s (evtStop_fuses s i) rfl
  have h1 : s1.fuses = s.fuses := (setReg_fuses s0 _ _ _).trans h0
  exact ite_fuses s ((evtArm_fuses s1 i).trans h1) h1

@[simp] theorem writeCons_fuses (q v : Nat) (control : Bool) : (s.writeCons q v control).fuses = s.fuses :=
  ite_fuses s rfl ((setFld_fuses _ _ _ _).trans (setFld_fuses s _ _ _))

@[simp] theorem writeCycStart_fuses (p v : Nat) : (s.writeCycStart p v).fuses = s.fuses := (raise_fuses _ _ _).trans (setFld_fuses s _ _ _)

theorem setGcl_fuses (p : Nat) (g : GclRun) : (s.setGcl p g).fuses = s.fuses := rfl

@[simp] theorem armSwap_fuses (p : Nat) : (s.armSwap p).fuses = s.fuses := by
  unfold State.armSwap
  extract_lets late run s1
  have h1 : s1.fuses = s.fuses := (setGcl_fuses _ _ _).trans ((setFld_fuses _ _ _ _).trans (setFld_fuses s _ _ _))
  exact ite_fuses s h1 h1

@[simp] theorem writeSwapCtl_fuses (p v : Nat) : (s.writeSwapCtl p v).fuses = s.fuses := by
  unfold State.writeSwapCtl
  extract_lets arm s1
  have h1 : s1.fuses = s.fuses := setFld_fuses s _ _ _
  exact ite_fuses s (ite_fuses s rfl ((setFld_fuses _ _ _ _).trans (setFld_fuses s _ _ _))) (ite_fuses s ((armSwap_fuses s1 p).trans h1) h1)

@[simp] theorem keepRate_fuses (key : Nat) : (s.keepRate key).fuses = s.fuses := ite_fuses s rfl rfl

@[simp] theorem writeTail_fuses (tx : Bool) (r v : Nat) : (s.writeTail tx r v).fuses = s.fuses :=
  ite_fuses s rfl (ite_fuses s (raise_fuses s _ _) rfl)

theorem jobsBeside_fuses (r : Nat) : (s.jobsBeside r).fuses = s.fuses := rfl

@[simp] theorem ringOff_fuses (tx : Bool) (r : Nat) : (s.ringOff tx r).fuses = s.fuses := by
  rw [ringOff_eq]
  exact ite_fuses s (setReg_fuses s _ _ _) ((jobsBeside_fuses _ _).trans (setReg_fuses s _ _ _))

@[simp] theorem commitLane_fuses (l : Nat) : (s.commitLane l).fuses = s.fuses := rfl

@[simp] theorem lockWrite_fuses (v : Nat) : (s.lockWrite v).fuses = s.fuses := ite_fuses s (setFld_fuses s _ _ _) rfl

@[simp] theorem wdtWrite_fuses (who : Sender) (x v : Nat) : (s.wdtWrite who x v).fuses = s.fuses := by
  unfold State.wdtWrite
  extract_lets s1
  have h1 : s1.fuses = s.fuses := ite_fuses s (setFld_fuses s _ _ _) (ite_fuses s rfl (violation_fuses s _ _ _ _))
  exact ite_fuses s ((kick_fuses s1).trans h1) h1

@[simp] theorem revoke_fuses (mask : Nat) : (s.revoke mask).fuses = s.fuses := foldl_part (·.fuses) (fun m _ => setFld_fuses m _ _ _) _ s

/-! Snapshots (R474). -/

@[simp] theorem addImage_fuses (key n : Nat) : (s.addImage key n).fuses = s.fuses := by
  unfold State.addImage
  split
  · rfl
  · exact ite_fuses s rfl (setReg_fuses s _ _ _)

@[simp] theorem mergeQueue_fuses (q : Nat) (a : QAcc) : (s.mergeQueue q a).fuses = s.fuses := by
  unfold State.mergeQueue
  extract_lets inv s1 s2 s3 s4 s5 s6 s7 quad e
  have h3 : s3.fuses = s.fuses := (addImage_fuses s2 _ _).trans ((setReg_fuses s1 _ _ _).trans (setReg_fuses s _ _ _))
  have h6 : s6.fuses = s.fuses := (addImage_fuses s5 _ _).trans ((setReg_fuses s4 _ _ _).trans ((setReg_fuses s3 _ _ _).trans h3))
  have h7 : s7.fuses = s.fuses := ite_fuses s h3 ((setReg_fuses s6 _ _ _).trans h6)
  exact (setReg_fuses s7 _ _ _).trans h7

@[simp] theorem snapSamples_fuses : s.snapSamples.fuses = s.fuses := by
  unfold State.snapSamples
  extract_lets qs s1
  have h1 : s1.fuses = s.fuses := foldl_part (·.fuses) (fun m q => mergeQueue_fuses m q _) qs s
  clear_value s1
  exact ite_fuses s rfl h1

@[simp] theorem addArrImage_fuses (x n : Nat) : (s.addArrImage x n).fuses = s.fuses := by
  unfold State.addArrImage
  extract_lets v s1
  exact ite_fuses s (raise_fuses _ _ _) rfl

@[simp] theorem snapArrays_fuses : s.snapArrays.fuses = s.fuses := by
  unfold State.snapArrays
  extract_lets s1
  have h1 : s1.fuses = s.fuses := foldl_part (·.fuses) (fun m (e : Nat × Nat) => addArrImage_fuses m e.1 e.2) _ s
  clear_value s1
  exact h1

@[simp] theorem snapRegs_fuses : s.snapRegs.fuses = s.fuses := by
  unfold State.snapRegs
  extract_lets done s1
  have h1 : s1.fuses = s.fuses := foldl_part (·.fuses) (fun m (e : Nat × Nat) => addImage_fuses m e.1 e.2) done s
  clear_value s1
  exact h1

@[simp] theorem snapshot_fuses : s.snapshot.fuses = s.fuses := by
  unfold State.snapshot
  extract_lets skip s1 seq s2 s3 s4 s5 s6 s7 s8 counters s9
  have h1 : s1.fuses = s.fuses := (snapSamples_fuses _).trans ((snapArrays_fuses _).trans (snapRegs_fuses s))
  have h3 : s3.fuses = s.fuses := (setReg_fuses s2 _ _ _).trans ((setReg_fuses s1 _ _ _).trans h1)
  have h5 : s5.fuses = s.fuses := (setReg_fuses s4 _ _ _).trans ((setReg_fuses s3 _ _ _).trans h3)
  have h6 : s6.fuses = s.fuses := (setReg_fuses s5 _ _ _).trans h5
  have h7 : s7.fuses = s.fuses := ite_fuses s h6 ((raise_fuses s6 _ _).trans h6)
  have h8 : s8.fuses = s.fuses := (raise_fuses s7 _ _).trans h7
  have h9 : s9.fuses = s8.fuses := rfl
  exact ite_fuses s rfl ((logEvent_fuses s9 _ _).trans (h9.trans h8))

/-! Resets (R581, R582). -/

@[simp] theorem ccReset_fuses (cause : Nat) (handover : Bool) : (s.ccReset cause handover).fuses = s.fuses := by
  unfold State.ccReset
  dsimp only
  rw [setFld_fuses, setFld_fuses, setFld_fuses]

@[simp] theorem severCopies_fuses (quads : Nat) : (s.severCopies quads).fuses = s.fuses := by
  unfold State.severCopies
  extract_lets goneP goneS s1 s2
  have h1 : s1.fuses = s.fuses := foldl_part (·.fuses) (fun m c => foldl_part (·.fuses) (fun u d => drop_fuses u _ _) _ m) _ s
  have h2 : s2.fuses = s1.fuses := foldl_part (·.fuses) (fun m f => ite_fuses m (endBad_fuses m f _) rfl) _ s1
  refine (foldl_part (·.fuses) (fun m c => ?_) _ s2).trans (h2.trans h1)
  split
  · exact ite_fuses m (lateDrop_fuses m _ _ _) rfl
  · rfl

theorem takeShadow_fuses (quads : Nat) : (s.takeShadow quads).fuses = s.fuses := rfl

@[simp] theorem clearQuads_fuses (quads : Nat) (core : Bool) : (s.clearQuads quads core).fuses = s.fuses := by
  unfold State.clearQuads
  extract_lets s1
  have h1 : s1.fuses = s.fuses := (severCopies_fuses _ _).trans (takeShadow_fuses s _)
  clear_value s1
  exact (settle_fuses _).trans h1

@[simp] theorem coreReset_fuses : s.coreReset.fuses = s.fuses := by
  unfold State.coreReset
  dsimp only
  rw [ccReset_fuses, clearQuads_fuses]

@[simp] theorem quadReset_fuses (quads : Nat) : (s.quadReset quads).fuses = s.fuses := by
  unfold State.quadReset
  extract_lets old new m s1
  have h1 : s1.fuses = s.fuses := clearQuads_fuses s m false
  clear_value s1
  exact ite_fuses s rfl h1

@[simp] theorem requestReset_fuses (v : Nat) : (s.requestReset v).fuses = s.fuses := by
  unfold State.requestReset
  extract_lets s1
  have h1 : s1.fuses = s.fuses := quadReset_fuses s _
  exact ite_fuses s rfl (ite_fuses s (coreReset_fuses s) (ite_fuses s ((ccReset_fuses s1 _ _).trans h1) h1))

/-! Mailboxes and doorbells (R515 to R528). -/

@[simp] theorem mbError_fuses (kind chan sid : Nat) : (s.mbError kind chan sid).fuses = s.fuses := by
  unfold State.mbError
  extract_lets s1
  have h1 : s1.fuses = s.fuses := setReg_fuses s _ _ _
  exact ite_fuses s ((count_fuses _ _ _ _).trans ((raise_fuses s1 _ _).trans h1)) ((raise_fuses s1 _ _).trans h1)

@[simp] theorem d2hClear_fuses (hi : Bool) (sid bits : Nat) : (s.d2hClear hi sid bits).fuses = s.fuses := by
  unfold State.d2hClear
  extract_lets s1
  have h1 : s1.fuses = s.fuses := w1c_fuses s _ _ _
  exact ite_fuses s h1 ((mbError_fuses s1 _ _ _).trans h1)

@[simp] theorem h2dSet_fuses (hi : Bool) (sid bits : Nat) : (s.h2dSet hi sid bits).fuses = s.fuses := by
  unfold State.h2dSet
  extract_lets s1
  have h1 : s1.fuses = s.fuses := raiseBits_fuses s _ _ _
  exact ite_fuses s (mbError_fuses s _ _ _) (ite_fuses s h1 ((mbError_fuses s1 _ _ _).trans h1))

@[simp] theorem applyInc_fuses (n : Nat) : (s.applyInc n).fuses = s.fuses := ite_fuses s ((setReg_fuses _ _ _ _).trans (setFld_fuses s _ _ _)) rfl

@[simp] theorem consumeIn_fuses (n : Nat) : (s.consumeIn n).fuses = s.fuses := by
  unfold State.consumeIn
  extract_lets s1 s2
  exact (applyInc_fuses _ _).trans ((raiseBits_fuses s2 _ _ _).trans ((setFld_fuses s1 _ _ _).trans (setReg_fuses s _ _ _)))

@[simp] theorem postIn_fuses (n sid : Nat) : (s.postIn n sid).fuses = s.fuses := by
  unfold State.postIn
  extract_lets s1
  have h1 : s1.fuses = s.fuses := (setFld_fuses _ _ _ _).trans (applyInc_fuses s _)
  exact ite_fuses s (mbError_fuses s _ _ _) h1

@[simp] theorem newInc_fuses (n : Nat) : (s.newInc n).fuses = s.fuses := by
  unfold State.newInc
  extract_lets s1
  have h1 : s1.fuses = s.fuses := setFld_fuses s _ _ _
  exact ite_fuses s ((applyInc_fuses s1 _).trans h1) h1

@[simp] theorem consumeOut_fuses (n sid : Nat) : (s.consumeOut n sid).fuses = s.fuses :=
  ite_fuses s (mbError_fuses s _ _ _) (ite_fuses s (mbError_fuses s _ _ _) (ite_fuses s (mbError_fuses s _ _ _) (setFld_fuses s _ _ _)))

@[simp] theorem mbWrite_fuses (sid : Nat) (r : Reg) (i : Nat) (v : Word) : (s.mbWrite sid r i v).fuses = s.fuses := by
  unfold State.mbWrite
  extract_lets n s1 s2
  refine ite_fuses s (mbError_fuses s _ _ _) ?_
  have h1 : s1.fuses = s.fuses := ite_fuses s (postIn_fuses s _ _) rfl
  have h2 : s2.fuses = s.fuses := ite_fuses s ((newInc_fuses s1 _).trans h1) h1
  split
  · exact ite_fuses s (mbError_fuses s _ _ _) (setReg_fuses s _ _ _)
  · exact ite_fuses s ((mbError_fuses s2 _ _ _).trans h2) h2
  · exact ite_fuses s (consumeOut_fuses s _ _) rfl

/-! ### Any write of BAR0 -/

@[simp] theorem writeReg_fuses (who : Sender) (party : Nat) (r : Reg) (i : Nat) (v : Word) : (s.writeReg who party r i v).fuses = s.fuses := by
  unfold State.writeReg
  extract_lets cc n s1
  have h1 : s1.fuses = s.fuses := ite_fuses s rfl (noteWrite_fuses s _ _ _ _)
  refine ite_fuses s rfl (ite_fuses s (accError_fuses s _ _ _) (ite_fuses s ?_ (ite_fuses s rfl ?_)))
  · exact ite_fuses s (violation_fuses s _ _ _ _) (ite_fuses s rfl (plainWrite_fuses s _ _ _))
  · clear_value s1
    split <;> simp only [apply_ite State.fuses, ite_self, writeMode_fuses, writeDeep_fuses, writePortCfg_fuses, writeSchAct_fuses, writeIncFrac_fuses,
      writeIncNs_fuses, writeSlewCount_fuses, writeBaseCtl_fuses, writeEvtCtl_fuses, plainWrite_fuses, writeCons_fuses, w1c_fuses, writeCycStart_fuses,
      writeSwapCtl_fuses, keepRate_fuses, snapshot_fuses, writeTail_fuses, ringOff_fuses, commitLane_fuses, lockWrite_fuses, wdtWrite_fuses,
      requestReset_fuses, violation_fuses, revoke_fuses, d2hClear_fuses, consumeIn_fuses, mbWrite_fuses, setReg_fuses, h1]

@[simp] theorem aliasWrite_fuses (who : Sender) (party k : Nat) (r : Reg) (i : Nat) (v : Word) : (s.aliasWrite who party k r i v).fuses = s.fuses := by
  unfold State.aliasWrite
  refine ite_fuses s rfl (ite_fuses s (accError_fuses s _ _ _) ?_)
  split
  · split
    · exact w1c_fuses s _ _ _
    · rfl
    · exact h2dSet_fuses s _ _ _
    · rfl
  · split
    · exact w1c_fuses s _ _ _
    · rfl
    · exact h2dSet_fuses s _ _ _
    · rfl
  · exact (setReg_fuses _ _ _ _).trans (noteWrite_fuses s _ _ _ _)

/-! ### The write that has no outcome (R536) -/

variable {s} {t : State}

/-- A word that is written leaves the ordering code; a write without an outcome is one at a gap under GRD2048-F. -/
theorem writeWord_some {who : Sender} {party y : Nat} {v : Word} (h : s.writeWord who party y v = some t) : t.fuses = s.fuses := by
  unfold State.writeWord at h
  extract_lets x at h
  split at h
  · rw [← Option.some.inj h]
  · split at h
    · rw [← Option.some.inj h]
    · split at h
      · exact absurd h (by simp)
      · rw [← Option.some.inj h]
    · rw [← Option.some.inj h]
      exact ite_fuses s (writeReg_fuses s _ _ _ _ _) (aliasWrite_fuses s _ _ _ _ _ _)

theorem writeWord_none {who : Sender} {party y : Nat} {v : Word} (h : s.writeWord who party y v = none) : s.fuses.code = .f := by
  unfold State.writeWord at h
  extract_lets x at h
  split at h
  · exact absurd h (by simp)
  · split at h
    · exact absurd h (by simp)
    · split at h
      · assumption
      · exact absurd h (by simp)
    · exact absurd h (by simp)

theorem busWrite_some {who : Sender} {y : Nat} {v : Word} (h : s.busWrite who y v = some t) : t.fuses = s.fuses := by
  unfold State.busWrite at h
  split at h
  · rw [← Option.some.inj h, violation_fuses]
  · exact writeWord_some h

theorem busWrite_none {who : Sender} {y : Nat} {v : Word} (h : s.busWrite who y v = none) : s.fuses.code = .f := by
  unfold State.busWrite at h
  split at h
  · exact absurd h (by simp)
  · exact writeWord_none h

/-- A request stops at its first word without an outcome. -/
theorem busWrites_error {who : Sender} {ws : List Word} {y x : Nat} (h : busWrites who y ws s = .error x) : s.fuses.code = .f := by
  induction ws generalizing y s with
  | nil => exact absurd h (by simp [busWrites])
  | cons v ws ih =>
    unfold busWrites at h
    cases hw : s.busWrite who y v with
    | none => exact busWrite_none hw
    | some t =>
      rw [hw] at h
      rw [← busWrite_some hw]
      exact ih h

/-- A command goes on, or stops at a write without an outcome under GRD2048-F. -/
def GoesOn (s : State) (o : Host.Outcome State Fault Refusal) : Prop := Runs o ∨ (s.fuses.code = .f ∧ ∃ x, o = .fault (.unspecifiedWrite x))

theorem goesOn_next (s t : State) : GoesOn s (.next t) := .inl ⟨t, rfl⟩

theorem goesOn_ite {c : Prop} [Decidable c] {a b : Host.Outcome State Fault Refusal} (ha : GoesOn s a) (hb : GoesOn s b) : GoesOn s (if c then a else b) := by
  split
  · exact ha
  · exact hb

theorem goesOn_writeOutcome (who : Sender) (y : Nat) (ws : List Word) (s : State) : GoesOn s (writeOutcome who y ws s) := by
  unfold writeOutcome
  cases hw : busWrites who y ws s with
  | ok t => exact goesOn_next s t
  | error x => exact .inr ⟨busWrites_error hw, x, rfl⟩

theorem goesOn_registerWrite (who : Sender) (y : Nat) (ws : List Word) (enables : Bool) (s : State) : GoesOn s (exec (.registerWrite who y ws enables) s) :=
  goesOn_ite (goesOn_next _ _) (goesOn_ite (goesOn_next _ _) (goesOn_writeOutcome _ _ _ _))

theorem goesOn_aliasAt (who : Sender) (k y : Nat) (v : Word) (s : State) : GoesOn s (aliasAt who k y v s) :=
  goesOn_ite (goesOn_next _ _) (goesOn_writeOutcome _ _ _ _)

theorem goesOn_treeRemoteAccess (who : Sender) (y : Nat) (write : Bool) (ws : List Word) (n : Nat) (enables : Bool) (tag : Nat) (s : State) :
    GoesOn s (exec (.treeRemoteAccess who y write ws n enables tag) s) := by
  change GoesOn s (execTreeRemoteAccess who y write ws n enables tag s)
  unfold execTreeRemoteAccess
  extract_lets node x len sid
  refine goesOn_ite (goesOn_next _ _) (goesOn_ite (goesOn_next _ _) (goesOn_ite (goesOn_next _ _) (goesOn_ite ?_ (goesOn_ite ?_ ?_))))
  · exact goesOn_ite (goesOn_writeOutcome _ _ _ _) (goesOn_next _ _)
  · exact goesOn_ite (goesOn_next _ _) (goesOn_next _ _)
  · exact goesOn_ite (goesOn_next _ _) (goesOn_next _ _)

/-! ### Scheduled writes (R55) -/

theorem regwrite_some {y : Nat} {v : Word} (h : s.regwrite y v = some t) : t.fuses = s.fuses := by
  unfold State.regwrite at h
  extract_lets old at h
  cases hw : s.writeWord .cc 2 y v with
  | none => simp [hw] at h
  | some u =>
    have hfuses := writeWord_some hw
    rw [hw] at h
    dsimp only at h
    split at h <;> rw [← Option.some.inj h] <;> exact hfuses

theorem regwrite_none {y : Nat} {v : Word} (h : s.regwrite y v = none) : s.fuses.code = .f := by
  unfold State.regwrite at h
  extract_lets old at h
  cases hw : s.writeWord .cc 2 y v with
  | none => exact writeWord_none hw
  | some u =>
    rw [hw] at h
    dsimp only at h
    split at h <;> exact absurd h (by simp)

theorem regwrites_error {l : List Nat} {x : Nat} (h : regwrites l s = .error x) : s.fuses.code = .f := by
  induction l generalizing s with
  | nil => exact absurd h (by simp [regwrites])
  | cons e l ih =>
    unfold regwrites at h
    cases hw : s.regwrite (s.reg .tickSchAddr e).toNat (s.reg .tickSchData e) with
    | none => exact regwrite_none hw
    | some t =>
      rw [hw] at h
      rw [← regwrite_some hw]
      exact ih h

theorem goesOn_scheduleEntryDue (s : State) : GoesOn s (exec .scheduleEntryDue s) := by
  change GoesOn s (execScheduleEntryDue s)
  unfold execScheduleEntryDue
  extract_lets due run act s1
  have h1 : s1.fuses = s.fuses := ite_fuses s rfl (snapshot_fuses s)
  clear_value s1
  cases hw : regwrites (act 2) s1 with
  | ok t => exact goesOn_next _ _
  | error x => exact .inr ⟨h1 ▸ regwrites_error hw, x, rfl⟩

/-! ### Packets of the tree (R567 to R569) -/

@[simp] theorem setRl_fuses (s : State) (k : Nat) (p : RlPort) : (s.setRl k p).fuses = s.fuses := rfl

theorem sendSeq_fuses (s : State) (k : Nat) (x : RlPacket) : (s.sendSeq k x).fuses = s.fuses := by
  rw [sendSeq_eq]
  exact ite_fuses s rfl rfl

theorem releaseWaiting_fuses (k : Nat) (l : List RlPacket) (s : State) : (releaseWaiting k l s).fuses = s.fuses := by
  induction l generalizing s with
  | nil => rfl
  | cons x l ih =>
    unfold releaseWaiting
    exact ite_fuses s ((ih _).trans ((setRl_fuses _ _ _).trans (sendSeq_fuses _ _ _))) rfl

theorem ackUpTo_fuses (s : State) (k a : Nat) : (s.ackUpTo k a).fuses = s.fuses := by
  unfold State.ackUpTo
  exact ite_fuses s rfl (releaseWaiting_fuses _ _ _)

theorem sendAck_fuses (s : State) (k : Nat) (nak : Bool) : (s.sendAck k nak).fuses = s.fuses := rfl

theorem serveWrite_error {x : RlPacket} {y : Nat} (h : s.serveWrite x = .error y) : s.fuses.code = .f := by
  unfold State.serveWrite at h
  extract_lets z n at h
  split at h
  · exact absurd h (by simp)
  · exact busWrites_error h

theorem routePacket_error {k : Nat} {x : RlPacket} {y : Nat} (h : s.routePacket k x = .error y) : s.fuses.code = .f := by
  unfold State.routePacket at h
  extract_lets m at h
  split at h
  · cases h
  split at h
  · cases h
  split at h
  · cases h
  split at h
  · cases h
  split at h
  · cases h
  · exact serveWrite_error h
  · split at h <;> cases h
  · cases h
  · cases h

theorem takePacket_error {k : Nat} {x : RlPacket} {y : Nat} (h : s.takePacket k x = .error y) : s.fuses.code = .f := by
  unfold State.takePacket at h
  extract_lets s1 p s2 s3 s4 at h
  have h1 : s1.fuses = s.fuses := ite_fuses s (ackUpTo_fuses s k _) rfl
  have h3 : s3.fuses = s.fuses := (setRl_fuses s1 k _).trans h1
  have h4 : s4.fuses = s.fuses := ite_fuses s ((sendAck_fuses s3 k false).trans h3) h3
  split at h
  · cases h
  split at h
  · cases h
  split at h
  · exact h4 ▸ routePacket_error h
  · split at h
    · cases h
    · split at h <;> cases h

theorem goesOn_rhogenPacketReceive (k : Nat) (x : RlPacket) (crcOk : Bool) (s : State) : GoesOn s (exec (.rhogenPacketReceive k x crcOk) s) := by
  change GoesOn s (execRhogenPacketReceive k x crcOk s)
  unfold execRhogenPacketReceive
  refine goesOn_ite (goesOn_next _ _) (goesOn_ite (goesOn_next _ _) (goesOn_ite (goesOn_next _ _) (goesOn_ite (goesOn_next _ _) ?_)))
  cases hw : s.takePacket k x with
  | ok t => exact goesOn_next _ _
  | error y => exact .inr ⟨takePacket_error hw, y, rfl⟩

/-! ### Commands without a register write -/

theorem runs_next (t : State) : Runs (.next t) := ⟨t, rfl⟩

theorem runs_ite {c : Prop} [Decidable c] {a b : Host.Outcome State Fault Refusal} (ha : Runs a) (hb : Runs b) : Runs (if c then a else b) := by
  split
  · exact ha
  · exact hb

theorem runs_either {c : Prop} [Decidable c] (t u : State) : Runs (if c then .next t else .next u) := runs_ite (runs_next t) (runs_next u)

/-- Every packet's command goes on. -/
theorem runs_runPacket (op : Nat) (p : Packet) (body : Args → State → Res) (s : State) : Runs (runPacket op p body s) := by
  unfold runPacket
  extract_lets inc consumed
  refine runs_ite (runs_next _) ?_
  split <;> exact runs_next _

/-- Every event of a receiving lane goes on. -/
theorem runs_inRx (l state : Nat) (k : State → Nat → State) (s : State) : Runs (s.inRx l state k) := by
  unfold State.inRx
  repeat' split
  all_goals exact runs_next _

theorem runs_execDmaTxFrameFetch (r descs fault) (s : State) : Runs (execDmaTxFrameFetch r descs fault s) := by
  unfold execDmaTxFrameFetch
  extract_lets held idx
  refine runs_ite (runs_next _) ?_
  cases txChain (descs.take held) 0 with
  | none => exact runs_next _
  | some chain =>
    obtain ⟨n, whole⟩ := chain
    dsimp only
    split
    · exact runs_next _
    · refine runs_ite (runs_next _) (runs_ite (runs_next _) ?_)
      split
      · exact runs_next _
      · exact runs_either _ _

/-! The other commands that branch on more than a condition: every branch goes on. -/

theorem runs_execBootRomStart (s : State) : Runs (execBootRomStart s) := by
  unfold execBootRomStart
  repeat' split
  all_goals exact runs_next _

theorem runs_execBootCodeStart (setup) (s : State) : Runs (execBootCodeStart setup s) := by
  unfold execBootCodeStart
  extract_lets
  repeat' split
  all_goals exact runs_next _

theorem runs_execResetRelease (s : State) : Runs (execResetRelease s) := by
  unfold execResetRelease
  repeat' split
  all_goals exact runs_next _

theorem runs_execFirmwareRestoration (s : State) : Runs (execFirmwareRestoration s) := by
  unfold execFirmwareRestoration
  dsimp only
  repeat' split
  all_goals exact runs_next _

theorem runs_execFwSwitch (s : State) : Runs (execFwSwitch s) := by
  unfold execFwSwitch
  repeat' split
  all_goals exact runs_next _

theorem runs_execSaveComplete (ok) (s : State) : Runs (execSaveComplete ok s) := by
  unfold execSaveComplete
  repeat' split
  all_goals exact runs_next _

theorem runs_execCapRuntimeCheck (mv) (s : State) : Runs (execCapRuntimeCheck mv s) := by
  unfold execCapRuntimeCheck
  dsimp only
  repeat' split
  all_goals exact runs_next _

theorem runs_execHoldupEnergyCheck (mv) (s : State) : Runs (execHoldupEnergyCheck mv s) := by
  unfold execHoldupEnergyCheck
  extract_lets s1
  exact runs_ite (runs_next _) (runs_either _ _)

theorem runs_execKsSessionComplete (worn) (s : State) : Runs (execKsSessionComplete worn s) := by
  unfold execKsSessionComplete
  repeat' split
  all_goals exact runs_next _

theorem runs_execThermalSample (temps) (s : State) : Runs (execThermalSample temps s) := by
  unfold execThermalSample
  dsimp only
  repeat' split
  all_goals exact runs_next _

theorem runs_execEyeScanStep (l errs void) (s : State) : Runs (execEyeScanStep l errs void s) := by
  unfold execEyeScanStep
  repeat' split
  all_goals exact runs_next _

theorem runs_execServoMeasurement (offset qualifies) (s : State) : Runs (execServoMeasurement offset qualifies s) := by
  unfold execServoMeasurement
  extract_lets
  repeat' split
  all_goals exact runs_next _

theorem runs_execEventOutputEdge (n) (s : State) : Runs (execEventOutputEdge n s) := by
  unfold execEventOutputEdge
  repeat' split
  all_goals exact runs_next _

theorem runs_execPpsOutPulse (s : State) : Runs (execPpsOutPulse s) := by
  unfold execPpsOutPulse
  repeat' split
  all_goals exact runs_next _

theorem runs_execTodHintLapse (s : State) : Runs (execTodHintLapse s) := by
  unfold execTodHintLapse
  repeat' split
  all_goals exact runs_next _

theorem runs_execFrameStart (p bytes edge phase sym) (s : State) : Runs (execFrameStart p bytes edge phase sym s) := by
  unfold execFrameStart
  repeat' split
  all_goals exact runs_next _

theorem runs_execFrameEnd (p pcsErr) (s : State) : Runs (execFrameEnd p pcsErr s) := by
  unfold execFrameEnd
  dsimp only
  repeat' split
  all_goals exact runs_next _

theorem runs_execFrameReady (p fw) (s : State) : Runs (execFrameReady p fw s) := by
  unfold execFrameReady
  dsimp only
  repeat' split
  all_goals exact runs_next _

theorem runs_execStrandComplete (p seq faults) (s : State) : Runs (execStrandComplete p seq faults s) := by
  unfold execStrandComplete
  dsimp only
  repeat' split
  all_goals exact runs_next _

theorem runs_execFabricEntry (p seq) (s : State) : Runs (execFabricEntry p seq s) := by
  unfold execFabricEntry
  extract_lets
  repeat' split
  all_goals exact runs_next _

theorem runs_execSpillReturn (ing sq) (s : State) : Runs (execSpillReturn ing sq s) := by
  unfold execSpillReturn
  dsimp only
  repeat' split
  all_goals exact runs_next _

theorem runs_execPolicerCorrection (p seq) (s : State) : Runs (execPolicerCorrection p seq s) := by
  unfold execPolicerCorrection
  repeat' split
  all_goals exact runs_next _

theorem runs_execStartDecision (p edge sym) (s : State) : Runs (execStartDecision p edge sym s) := by
  unfold execStartDecision
  extract_lets
  repeat' split
  all_goals exact runs_next _

theorem runs_execTransmitStart (p) (s : State) : Runs (execTransmitStart p s) := by
  unfold execTransmitStart
  repeat' split
  all_goals exact runs_next _

theorem runs_execCellRead (p ecc) (s : State) : Runs (execCellRead p ecc s) := by
  unfold execCellRead
  repeat' split
  all_goals exact runs_next _

theorem runs_execTransmitEnd (p) (s : State) : Runs (execTransmitEnd p s) := by
  unfold execTransmitEnd
  dsimp only
  repeat' split
  all_goals exact runs_next _

theorem runs_execWalkerFree (sl wrong) (s : State) : Runs (execWalkerFree sl wrong s) := by
  unfold execWalkerFree
  repeat' split
  all_goals exact runs_next _

theorem runs_execReclaimSweepStart (sl) (s : State) : Runs (execReclaimSweepStart sl s) := by
  unfold execReclaimSweepStart
  extract_lets
  repeat' split
  all_goals exact runs_next _

theorem runs_execReclaimSweepEnd (sl) (s : State) : Runs (execReclaimSweepEnd sl s) := by
  unfold execReclaimSweepEnd
  extract_lets
  repeat' split
  all_goals exact runs_next _

theorem runs_execCbDataScrubVisit (sl c err) (s : State) : Runs (execCbDataScrubVisit sl c err s) := by
  unfold execCbDataScrubVisit
  extract_lets
  repeat' split
  all_goals exact runs_next _

theorem runs_execScrubWriteBack (sl) (s : State) : Runs (execScrubWriteBack sl s) := by
  unfold execScrubWriteBack
  repeat' split
  all_goals exact runs_next _

theorem runs_execDescriptorScrubVisit (sl c err) (s : State) : Runs (execDescriptorScrubVisit sl c err s) := by
  unfold execDescriptorScrubVisit
  repeat' split
  all_goals exact runs_next _

theorem runs_execPageClose (qu) (s : State) : Runs (execPageClose qu s) := by
  unfold execPageClose
  dsimp only
  repeat' split
  all_goals exact runs_next _

theorem runs_execPageWriteComplete (qu) (s : State) : Runs (execPageWriteComplete qu s) := by
  unfold execPageWriteComplete
  repeat' split
  all_goals exact runs_next _

theorem runs_execReadbackIssue (qu) (s : State) : Runs (execReadbackIssue qu s) := by
  unfold execReadbackIssue
  dsimp only
  repeat' split
  all_goals exact runs_next _

theorem runs_execPageReadComplete (qu faults) (s : State) : Runs (execPageReadComplete qu faults s) := by
  unfold execPageReadComplete
  dsimp only
  repeat' split
  all_goals exact runs_next _

theorem runs_execDeepExit (qu) (s : State) : Runs (execDeepExit qu s) := by
  unfold execDeepExit
  repeat' split
  all_goals exact runs_next _

theorem runs_execHbmScrubVisit (page burst err inner) (s : State) : Runs (execHbmScrubVisit page burst err inner s) := by
  unfold execHbmScrubVisit
  extract_lets
  repeat' split
  all_goals exact runs_next _

theorem runs_execLinkUp (p) (s : State) : Runs (execLinkUp p s) := by
  unfold execLinkUp
  repeat' split
  all_goals exact runs_next _

theorem runs_execHoldDeadline (p) (s : State) : Runs (execHoldDeadline p s) := by
  unfold execHoldDeadline
  repeat' split
  all_goals exact runs_next _

theorem runs_execWakeLinkUp (p) (s : State) : Runs (execWakeLinkUp p s) := by
  unfold execWakeLinkUp
  repeat' split
  all_goals exact runs_next _

theorem runs_execTbScrubVisit (q bucketIdx k err) (s : State) : Runs (execTbScrubVisit q bucketIdx k err s) := by
  unfold execTbScrubVisit
  repeat' split
  all_goals exact runs_next _

theorem runs_execLearnRequestServe (q) (s : State) : Runs (execLearnRequestServe q s) := by
  unfold execLearnRequestServe
  repeat' split
  all_goals exact runs_next _

theorem runs_execScanPass (q) (s : State) : Runs (execScanPass q s) := by
  unfold execScanPass
  dsimp only
  repeat' split
  all_goals exact runs_next _

theorem runs_execShadowRestore (table q idx) (s : State) : Runs (execShadowRestore table q idx s) := by
  unfold execShadowRestore
  repeat' split
  all_goals exact runs_next _

theorem runs_execLaneLock (l half pcsl inverted skew) (s : State) : Runs (execLaneLock l half pcsl inverted skew s) := by
  unfold execLaneLock
  dsimp only
  repeat' split
  all_goals exact runs_next _

theorem runs_execLaneLockLoss (l) (s : State) : Runs (execLaneLockLoss l s) := by
  unfold execLaneLockLoss
  repeat' split
  all_goals exact runs_next _

theorem runs_execCemondCommitApply (l) (s : State) : Runs (execCemondCommitApply l s) := by
  unfold execCemondCommitApply
  repeat' split
  all_goals exact runs_next _

theorem runs_execIdleEntry (p) (s : State) : Runs (execIdleEntry p s) := by
  unfold execIdleEntry
  repeat' split
  all_goals exact runs_next _

theorem runs_execIdleExit (p) (s : State) : Runs (execIdleExit p s) := by
  unfold execIdleExit
  repeat' split
  all_goals exact runs_next _

theorem runs_execMbInPost (who n) (s : State) : Runs (execMbInPost who n s) := by
  unfold execMbInPost
  repeat' split
  all_goals exact runs_next _

theorem runs_execMbOutPost (n) (s : State) : Runs (execMbOutPost n s) := by
  unfold execMbOutPost
  repeat' split
  all_goals exact runs_next _

theorem runs_execMbOutConsume (who n) (s : State) : Runs (execMbOutConsume who n s) := by
  unfold execMbOutConsume
  repeat' split
  all_goals exact runs_next _

theorem runs_execMbNewInc (who n) (s : State) : Runs (execMbNewInc who n s) := by
  unfold execMbNewInc
  repeat' split
  all_goals exact runs_next _

theorem runs_execDoorbellH2dSet (who hi bits) (s : State) : Runs (execDoorbellH2dSet who hi bits s) := by
  unfold execDoorbellH2dSet
  repeat' split
  all_goals exact runs_next _

theorem runs_execDmaRxFrameWrite (r bufs fault) (s : State) : Runs (execDmaRxFrameWrite r bufs fault s) := by
  unfold execDmaRxFrameWrite
  dsimp only
  repeat' split
  all_goals exact runs_next _

theorem runs_execRemoteReadTimeout (tag) (s : State) : Runs (execRemoteReadTimeout tag s) := by
  unfold execRemoteReadTimeout
  repeat' split
  all_goals exact runs_next _

theorem runs_execNodeEnumerate (path) (s : State) : Runs (execNodeEnumerate path s) := by
  unfold execNodeEnumerate
  repeat' split
  all_goals exact runs_next _

/-- The commands that carry a register write. -/
def writesRegister : Instr → Bool
  | .registerWrite .. | .aliasSet .. | .aliasClear .. | .aliasToggle .. | .scheduleEntryDue | .treeRemoteAccess .. | .rhogenPacketReceive .. => true
  | _ => false

/-- Every command without a register write goes on. -/
theorem runs_exec (s : State) : ∀ c : Instr, writesRegister c = false → Runs (exec c s)
  | .powerOnReset straps flash, _ => (runs_next _ : Runs (execPowerOnReset straps flash s))
  | .pllLock, _ => (runs_either _ _ : Runs (execPllLock s))
  | .referenceLost, _ => (runs_either _ _ : Runs (execReferenceLost s))
  | .referenceRestored, _ => (runs_either _ _ : Runs (execReferenceRestored s))
  | .bootRomStart, _ => runs_execBootRomStart s
  | .bootCodeStart setup, _ => runs_execBootCodeStart setup s
  | .firmwareStart, _ => (runs_either _ _ : Runs (execFirmwareStart s))
  | .coreReset who, _ => (runs_next _ : Runs (execCoreReset who s))
  | .controlComplexReset who, _ => (runs_next _ : Runs (execControlComplexReset who s))
  | .quadrantReset who quads, _ => (runs_next _ : Runs (execQuadrantReset who quads s))
  | .resetRelease, _ => runs_execResetRelease s
  | .cbInitDone sl, _ => (runs_either _ _ : Runs (execCbInitDone sl s))
  | .dtInitDone q, _ => (runs_either _ _ : Runs (execDtInitDone q s))
  | .firmwareRestoration, _ => runs_execFirmwareRestoration s
  | .protLock who v, _ => (runs_next _ : Runs (execProtLock who v s))
  | .watchdogKick who v, _ => (runs_next _ : Runs (execWatchdogKick who v s))
  | .watchdogExpire, _ => (runs_either _ _ : Runs (execWatchdogExpire s))
  | .dmaWindowRevoke who v, _ => (runs_next _ : Runs (execDmaWindowRevoke who v s))
  | .fwSwitch, _ => runs_execFwSwitch s
  | .trialDeadline, _ => (runs_either _ _ : Runs (execTrialDeadline s))
  | .sagBegin source, _ => (runs_ite (runs_next _) (runs_ite (runs_next _) (runs_either _ _)) : Runs (execSagBegin source s))
  | .saveComplete ok, _ => runs_execSaveComplete ok s
  | .sagEnd, _ => (runs_ite (runs_next _) (runs_either _ _) : Runs (execSagEnd s))
  | .coreSupplyLoss rails, _ => (runs_ite (runs_next _) (runs_either _ _) : Runs (execCoreSupplyLoss rails s))
  | .coreSupplyRestored, _ => (runs_either _ _ : Runs (execCoreSupplyRestored s))
  | .vholdExhausted, _ => (runs_either _ _ : Runs (execVholdExhausted s))
  | .capTestComplete low rise esr, _ => (runs_either _ _ : Runs (execCapTestComplete low rise esr s))
  | .capRuntimeCheck mv, _ => runs_execCapRuntimeCheck mv s
  | .capOvervoltage mv, _ => (runs_either _ _ : Runs (execCapOvervoltage mv s))
  | .holdupEnergyCheck mv, _ => runs_execHoldupEnergyCheck mv s
  | .saveImageUpdate, _ => (runs_ite (runs_next _) (runs_either _ _) : Runs (execSaveImageUpdate s))
  | .ksSessionComplete worn, _ => runs_execKsSessionComplete worn s
  | .thermalSample temps, _ => runs_execThermalSample temps s
  | .pcieReset, _ => (runs_either _ _ : Runs (execPcieReset s))
  | .sampleIntervalBoundary, _ => (runs_either _ _ : Runs (execSampleIntervalBoundary s))
  | .epochBoundary, _ => (runs_either _ _ : Runs (execEpochBoundary s))
  | .learnNoticeFlush q, _ => (runs_either _ _ : Runs (execLearnNoticeFlush q s))
  | .agingSweepStart q, _ => (runs_ite (runs_next _) (runs_either _ _) : Runs (execAgingSweepStart q s))
  | .agingSweepStep q, _ => (runs_ite (runs_next _) (runs_either _ _) : Runs (execAgingSweepStep q s))
  | .arrayTransfer, _ => (runs_ite (runs_next _) (runs_either _ _) : Runs (execArrayTransfer s))
  | .eyeScanStep l errs void, _ => runs_execEyeScanStep l errs void s
  | .legMonitorCheck l codes, _ => (runs_ite (runs_next _) (runs_either _ _) : Runs (execLegMonitorCheck l codes s))
  | .scheduleEntryArm who e v, _ => (runs_either _ _ : Runs (execScheduleEntryArm who e v s))
  | .scheduleEntryDue, h => nomatch h
  | .heldListCheck, _ => (runs_either _ _ : Runs (execHeldListCheck s))
  | .scheduleReconvert, _ => (runs_either _ _ : Runs (execScheduleReconvert s))
  | .tickSlotRead who, _ => (runs_next _ : Runs (execTickSlotRead who s))
  | .whorlWrap, _ => (runs_either _ _ : Runs (execWhorlWrap s))
  | .tsIncCommit who v, _ => (runs_next _ : Runs (execTsIncCommit who v s))
  | .slewStart who v, _ => (runs_next _ : Runs (execSlewStart who v s))
  | .slewEnd, _ => (runs_either _ _ : Runs (execSlewEnd s))
  | .baseLoad who v, _ => (runs_next _ : Runs (execBaseLoad who v s))
  | .nextBaseLoad, _ => (runs_either _ _ : Runs (execNextBaseLoad s))
  | .whorlRead who, _ => (runs_next _ : Runs (execWhorlRead who s))
  | .servoMeasurement offset qualifies, _ => runs_execServoMeasurement offset qualifies s
  | .holdoverExpire, _ => (runs_either _ _ : Runs (execHoldoverExpire s))
  | .eventOutputArm who n v, _ => (runs_either _ _ : Runs (execEventOutputArm who n v s))
  | .eventOutputEdge n, _ => runs_execEventOutputEdge n s
  | .ppsOutPulse, _ => runs_execPpsOutPulse s
  | .captureEdge j sub rise, _ => (runs_ite (runs_next _) (runs_ite (runs_next _) (runs_either _ _)) : Runs (execCaptureEdge j sub rise s))
  | .capturePop who j, _ => (runs_either _ _ : Runs (execCapturePop who j s))
  | .todHintLapse, _ => runs_execTodHintLapse s
  | .ppsSourceTimeout, _ => (runs_either _ _ : Runs (execPpsSourceTimeout s))
  | .rclkSquelchChange r, _ => (runs_either _ _ : Runs (execRclkSquelchChange r s))
  | .frameStart p bytes edge phase sym, _ => runs_execFrameStart p bytes edge phase sym s
  | .frameEnd p pcsErr, _ => runs_execFrameEnd p pcsErr s
  | .frameReady p fw, _ => runs_execFrameReady p fw s
  | .headerDispatch sl, _ => (runs_either _ _ : Runs (execHeaderDispatch sl s))
  | .strandComplete p seq faults, _ => runs_execStrandComplete p seq faults s
  | .reorderRelease sl, _ => (runs_either _ _ : Runs (execReorderRelease sl s))
  | .fabricEntry p seq, _ => runs_execFabricEntry p seq s
  | .spillReturn ing sq, _ => runs_execSpillReturn ing sq s
  | .cellGrant, _ => (runs_either _ _ : Runs (execCellGrant s))
  | .cellWrite sl errs, _ => (runs_either _ _ : Runs (execCellWrite sl errs s))
  | .policerCorrection p seq, _ => runs_execPolicerCorrection p seq s
  | .policerRefresh q x, _ => (runs_next _ : Runs (execPolicerRefresh q x s))
  | .startDecision p edge sym, _ => runs_execStartDecision p edge sym s
  | .transmitStart p, _ => runs_execTransmitStart p s
  | .cellRead p ecc, _ => runs_execCellRead p ecc s
  | .transmitEnd p, _ => runs_execTransmitEnd p s
  | .cellTransmitFree sl wrong, _ => (runs_next _ : Runs (execCellTransmitFree sl wrong s))
  | .walkerFree sl wrong, _ => runs_execWalkerFree sl wrong s
  | .reclaimSweepStart sl, _ => runs_execReclaimSweepStart sl s
  | .reclaimSweepEnd sl, _ => runs_execReclaimSweepEnd sl s
  | .cbDataScrubVisit sl c err, _ => runs_execCbDataScrubVisit sl c err s
  | .scrubWriteBack sl, _ => runs_execScrubWriteBack sl s
  | .descriptorScrubVisit sl c err, _ => runs_execDescriptorScrubVisit sl c err s
  | .pageClose qu, _ => runs_execPageClose qu s
  | .pageWriteComplete qu, _ => runs_execPageWriteComplete qu s
  | .readbackIssue qu, _ => runs_execReadbackIssue qu s
  | .pageReadComplete qu faults, _ => runs_execPageReadComplete qu faults s
  | .deepExit qu, _ => runs_execDeepExit qu s
  | .hbmScrubVisit page burst err inner, _ => runs_execHbmScrubVisit page burst err inner s
  | .stackFatalFault h, _ => (runs_either _ _ : Runs (execStackFatalFault h s))
  | .stackDrainComplete h, _ => (runs_either _ _ : Runs (execStackDrainComplete h s))
  | .pauseLoadApply p, _ => (runs_either _ _ : Runs (execPauseLoadApply p s))
  | .pauseTimerExpire p c, _ => (runs_either _ _ : Runs (execPauseTimerExpire p c s))
  | .pfcGenerate p, _ => (runs_either _ _ : Runs (execPfcGenerate p s))
  | .pfcRefresh p, _ => (runs_either _ _ : Runs (execPfcRefresh p s))
  | .linkLoss p aligned lf rf hiBer, _ => (runs_either _ _ : Runs (execLinkLoss p aligned lf rf hiBer s))
  | .linkUp p, _ => runs_execLinkUp p s
  | .holdDeadline p, _ => runs_execHoldDeadline p s
  | .wakeLinkUp p, _ => runs_execWakeLinkUp p s
  | .gateEntryBoundary p, _ => (runs_either _ _ : Runs (execGateEntryBoundary p s))
  | .gclCycleStart p, _ => (runs_either _ _ : Runs (execGclCycleStart p s))
  | .gclSwap p, _ => (runs_ite (runs_next _) (runs_either _ _) : Runs (execGclSwap p s))
  | .gclCycStartWrite who p v, _ => (runs_either _ _ : Runs (execGclCycStartWrite who p v s))
  | .gclSwapArm who p v, _ => (runs_either _ _ : Runs (execGclSwapArm who p v s))
  | .tbScrubVisit q bucketIdx k err, _ => runs_execTbScrubVisit q bucketIdx k err s
  | .learnRequestServe q, _ => runs_execLearnRequestServe q s
  | .scanPass q, _ => runs_execScanPass q s
  | .noticeRingDelivery cons, _ => (runs_ite (runs_next _) (runs_either _ _) : Runs (execNoticeRingDelivery cons s))
  | .clsScrubVisit q x bad, _ => (runs_next _ : Runs (execClsScrubVisit q x bad s))
  | .fwdScrubVisit q table idx kind, _ => (runs_ite (runs_next _) (runs_either _ _) : Runs (execFwdScrubVisit q table idx kind s))
  | .shadowRestore table q idx, _ => runs_execShadowRestore table q idx s
  | .prefixBankInsert q, _ => (runs_next _ : Runs (execPrefixBankInsert q s))
  | .prefixBankDelete q, _ => (runs_next _ : Runs (execPrefixBankDelete q s))
  | .ecmpRangeFree q, _ => (runs_next _ : Runs (execEcmpRangeFree q s))
  | .laneLock l half pcsl inverted skew, _ => runs_execLaneLock l half pcsl inverted skew s
  | .laneLockLoss l, _ => runs_execLaneLockLoss l s
  | .cemondCommit who l v, _ => (runs_either _ _ : Runs (execCemondCommit who l v s))
  | .cemondCommitApply l, _ => runs_execCemondCommitApply l s
  | .idleEntry p, _ => runs_execIdleEntry p s
  | .idleExit p, _ => runs_execIdleExit p s
  | .idleResume p, _ => (runs_either _ _ : Runs (execIdleResume p s))
  | .rxIdleEnter l, _ => (runs_inRx _ _ _ _ : Runs (execRxIdleEnter l s))
  | .rxSignalDetect l, _ => (runs_inRx _ _ _ _ : Runs (execRxSignalDetect l s))
  | .rxResumeMarker l field, _ => (runs_inRx _ _ _ _ : Runs (execRxResumeMarker l field s))
  | .rxResumeTimeout l, _ => (runs_inRx _ _ _ _ : Runs (execRxResumeTimeout l s))
  | .mbInPost who n, _ => runs_execMbInPost who n s
  | .mbInConsume n dma dmaFault, _ => (runs_ite (runs_next _) (runs_ite (runs_next _) (runs_either _ _)) : Runs (execMbInConsume n dma dmaFault s))
  | .mbOutPost n, _ => runs_execMbOutPost n s
  | .mbOutConsume who n, _ => runs_execMbOutConsume who n s
  | .mbNewInc who n, _ => runs_execMbNewInc who n s
  | .incarnationApply n, _ => (runs_either _ _ : Runs (execIncarnationApply n s))
  | .doorbellH2dSet who hi bits, _ => runs_execDoorbellH2dSet who hi bits s
  | .doorbellH2dClear hi bits, _ => (runs_next _ : Runs (execDoorbellH2dClear hi bits s))
  | .doorbellD2hSet n, _ => (runs_either _ _ : Runs (execDoorbellD2hSet n s))
  | .doorbellD2hClear who hi bits, _ => (runs_next _ : Runs (execDoorbellD2hClear who hi bits s))
  | .registerWrite .., h => nomatch h
  | .aliasSet .., h => nomatch h
  | .aliasClear .., h => nomatch h
  | .aliasToggle .., h => nomatch h
  | .rcRead who offset, _ => (runs_either _ _ : Runs (execRcRead who offset s))
  | .holdingSumRead who offset, _ => (runs_either _ _ : Runs (execHoldingSumRead who offset s))
  | .cntSnapRequest who v, _ => (runs_next _ : Runs (execCntSnapRequest who v s))
  | .firmwareSnapshot, _ => (runs_either _ _ : Runs (execFirmwareSnapshot s))
  | .vectorFire v, _ => (runs_ite (runs_next _) (runs_ite (runs_next _) (runs_either _ _)) : Runs (execVectorFire v s))
  | .dmaTailWrite who tx r v, _ => (runs_either _ _ : Runs (execDmaTailWrite who tx r v s))
  | .dmaRxFrameWrite r bufs fault, _ => runs_execDmaRxFrameWrite r bufs fault s
  | .dmaCoalesceTimer tx r, _ => (runs_either _ _ : Runs (execDmaCoalesceTimer tx r s))
  | .dmaTxFrameFetch r descs fault, _ => runs_execDmaTxFrameFetch r descs fault s
  | .tsRingConsWrite who q v, _ => (runs_either _ _ : Runs (execTsRingConsWrite who q v s))
  | .treeRemoteAccess .., h => nomatch h
  | .remoteReadTimeout tag, _ => runs_execRemoteReadTimeout tag s
  | .rhogenPacketReceive .., h => nomatch h
  | .rhogenHelloReceive k h, _ => (runs_either _ _ : Runs (execRhogenHelloReceive k h s))
  | .rhogenHelloTimer k, _ => (runs_ite (runs_next _) (runs_either _ _) : Runs (execRhogenHelloTimer k s))
  | .rhogenAckTimer k, _ => (runs_either _ _ : Runs (execRhogenAckTimer k s))
  | .rhogenReplayTimeout k, _ => (runs_ite (runs_next _) (runs_either _ _) : Runs (execRhogenReplayTimeout k s))
  | .rhogenLinkDown k, _ => (runs_either _ _ : Runs (execRhogenLinkDown k s))
  | .nodeEnumerate path, _ => runs_execNodeEnumerate path s
  | .hello p, _ => (runs_runPacket _ _ _ _ : Runs (execHello p s))
  | .echo p, _ => (runs_runPacket _ _ _ _ : Runs (execEcho p s))
  | .eventLogRead p, _ => (runs_runPacket _ _ _ _ : Runs (execEventLogRead p s))
  | .schedule p, _ => (runs_runPacket _ _ _ _ : Runs (execSchedule p s))
  | .scheduleCancel p, _ => (runs_runPacket _ _ _ _ : Runs (execScheduleCancel p s))
  | .scheduleList p, _ => (runs_runPacket _ _ _ _ : Runs (execScheduleList p s))
  | .portConfig p, _ => (runs_runPacket _ _ _ _ : Runs (execPortConfig p s))
  | .portModeSet p, _ => (runs_runPacket _ _ _ _ : Runs (execPortModeSet p s))
  | .portModeGet p, _ => (runs_runPacket _ _ _ _ : Runs (execPortModeGet p s))
  | .portStatusGet p, _ => (runs_runPacket _ _ _ _ : Runs (execPortStatusGet p s))
  | .wakeSet p, _ => (runs_runPacket _ _ _ _ : Runs (execWakeSet p s))
  | .clsWrite p, _ => (runs_runPacket _ _ _ _ : Runs (execClsWrite p s))
  | .clsRead p, _ => (runs_runPacket _ _ _ _ : Runs (execClsRead p s))
  | .clsInvalidate p, _ => (runs_runPacket _ _ _ _ : Runs (execClsInvalidate p s))
  | .polSet p, _ => (runs_runPacket _ _ _ _ : Runs (execPolSet p s))
  | .polGet p, _ => (runs_runPacket _ _ _ _ : Runs (execPolGet p s))
  | .ingPortSet p, _ => (runs_runPacket _ _ _ _ : Runs (execIngPortSet p s))
  | .ingPortGet p, _ => (runs_runPacket _ _ _ _ : Runs (execIngPortGet p s))
  | .fdbInsert p, _ => (runs_runPacket _ _ _ _ : Runs (execFdbInsert p s))
  | .fdbDelete p, _ => (runs_runPacket _ _ _ _ : Runs (execFdbDelete p s))
  | .fdbSearch p, _ => (runs_runPacket _ _ _ _ : Runs (execFdbSearch p s))
  | .fdbNext p, _ => (runs_runPacket _ _ _ _ : Runs (execFdbNext p s))
  | .fdbFlushPort p, _ => (runs_runPacket _ _ _ _ : Runs (execFdbFlushPort p s))
  | .fdbAgeSet p, _ => (runs_runPacket _ _ _ _ : Runs (execFdbAgeSet p s))
  | .fdbLearnSet p, _ => (runs_runPacket _ _ _ _ : Runs (execFdbLearnSet p s))
  | .fdbNotifySet p, _ => (runs_runPacket _ _ _ _ : Runs (execFdbNotifySet p s))
  | .vlanSet p, _ => (runs_runPacket _ _ _ _ : Runs (execVlanSet p s))
  | .vlanGet p, _ => (runs_runPacket _ _ _ _ : Runs (execVlanGet p s))
  | .pfxInsert p, _ => (runs_runPacket _ _ _ _ : Runs (execPfxInsert p s))
  | .pfxDelete p, _ => (runs_runPacket _ _ _ _ : Runs (execPfxDelete p s))
  | .pfxSearch p, _ => (runs_runPacket _ _ _ _ : Runs (execPfxSearch p s))
  | .pfxLookup p, _ => (runs_runPacket _ _ _ _ : Runs (execPfxLookup p s))
  | .pfxNext p, _ => (runs_runPacket _ _ _ _ : Runs (execPfxNext p s))
  | .pfxRead p, _ => (runs_runPacket _ _ _ _ : Runs (execPfxRead p s))
  | .pfxSelSet p, _ => (runs_runPacket _ _ _ _ : Runs (execPfxSelSet p s))
  | .nhSet p, _ => (runs_runPacket _ _ _ _ : Runs (execNhSet p s))
  | .nhGet p, _ => (runs_runPacket _ _ _ _ : Runs (execNhGet p s))
  | .ecmpSet p, _ => (runs_runPacket _ _ _ _ : Runs (execEcmpSet p s))
  | .ecmpMemberSet p, _ => (runs_runPacket _ _ _ _ : Runs (execEcmpMemberSet p s))
  | .ecmpGet p, _ => (runs_runPacket _ _ _ _ : Runs (execEcmpGet p s))
  | .ecmpHashSet p, _ => (runs_runPacket _ _ _ _ : Runs (execEcmpHashSet p s))
  | .rifSet p, _ => (runs_runPacket _ _ _ _ : Runs (execRifSet p s))
  | .rifBind p, _ => (runs_runPacket _ _ _ _ : Runs (execRifBind p s))
  | .rifGet p, _ => (runs_runPacket _ _ _ _ : Runs (execRifGet p s))
  | .replSet p, _ => (runs_runPacket _ _ _ _ : Runs (execReplSet p s))
  | .replGet p, _ => (runs_runPacket _ _ _ _ : Runs (execReplGet p s))
  | .fabStgSet p, _ => (runs_runPacket _ _ _ _ : Runs (execFabStgSet p s))
  | .fabStgGet p, _ => (runs_runPacket _ _ _ _ : Runs (execFabStgGet p s))
  | .cbPoolSet p, _ => (runs_runPacket _ _ _ _ : Runs (execCbPoolSet p s))
  | .cbPoolGet p, _ => (runs_runPacket _ _ _ _ : Runs (execCbPoolGet p s))
  | .cbQuarList p, _ => (runs_runPacket _ _ _ _ : Runs (execCbQuarList p s))
  | .cbQuarRelease p, _ => (runs_runPacket _ _ _ _ : Runs (execCbQuarRelease p s))
  | .cbRetire p, _ => (runs_runPacket _ _ _ _ : Runs (execCbRetire p s))
  | .cbReclaim p, _ => (runs_runPacket _ _ _ _ : Runs (execCbReclaim p s))
  | .cbScrubSet p, _ => (runs_runPacket _ _ _ _ : Runs (execCbScrubSet p s))
  | .dtQueueSet p, _ => (runs_runPacket _ _ _ _ : Runs (execDtQueueSet p s))
  | .dtQueueGet p, _ => (runs_runPacket _ _ _ _ : Runs (execDtQueueGet p s))
  | .dtStackRetire p, _ => (runs_runPacket _ _ _ _ : Runs (execDtStackRetire p s))
  | .dtPageRetire p, _ => (runs_runPacket _ _ _ _ : Runs (execDtPageRetire p s))
  | .dtPageRelease p, _ => (runs_runPacket _ _ _ _ : Runs (execDtPageRelease p s))
  | .dtScrubSet p, _ => (runs_runPacket _ _ _ _ : Runs (execDtScrubSet p s))
  | .dtStatusGet p, _ => (runs_runPacket _ _ _ _ : Runs (execDtStatusGet p s))
  | .fcPortSet p, _ => (runs_runPacket _ _ _ _ : Runs (execFcPortSet p s))
  | .fcPortGet p, _ => (runs_runPacket _ _ _ _ : Runs (execFcPortGet p s))
  | .qmQueueSet p, _ => (runs_runPacket _ _ _ _ : Runs (execQmQueueSet p s))
  | .qmQueueGet p, _ => (runs_runPacket _ _ _ _ : Runs (execQmQueueGet p s))
  | .qmPortSet p, _ => (runs_runPacket _ _ _ _ : Runs (execQmPortSet p s))
  | .qmPortFlush p, _ => (runs_runPacket _ _ _ _ : Runs (execQmPortFlush p s))
  | .schPortSet p, _ => (runs_runPacket _ _ _ _ : Runs (execSchPortSet p s))
  | .schQueueSet p, _ => (runs_runPacket _ _ _ _ : Runs (execSchQueueSet p s))
  | .schGet p, _ => (runs_runPacket _ _ _ _ : Runs (execSchGet p s))
  | .gclSet p, _ => (runs_runPacket _ _ _ _ : Runs (execGclSet p s))
  | .gclCancel p, _ => (runs_runPacket _ _ _ _ : Runs (execGclCancel p s))
  | .gclGet p, _ => (runs_runPacket _ _ _ _ : Runs (execGclGet p s))
  | .cemondSet p, _ => (runs_runPacket _ _ _ _ : Runs (execCemondSet p s))
  | .cemondGet p, _ => (runs_runPacket _ _ _ _ : Runs (execCemondGet p s))
  | .cemondLoad p, _ => (runs_runPacket _ _ _ _ : Runs (execCemondLoad p s))
  | .eyeScanStart p, _ => (runs_runPacket _ _ _ _ : Runs (execEyeScanStart p s))
  | .eyeScanGet p, _ => (runs_runPacket _ _ _ _ : Runs (execEyeScanGet p s))
  | .eyeScanStop p, _ => (runs_runPacket _ _ _ _ : Runs (execEyeScanStop p s))
  | .laneTestSet p, _ => (runs_runPacket _ _ _ _ : Runs (execLaneTestSet p s))
  | .laneStatusGet p, _ => (runs_runPacket _ _ _ _ : Runs (execLaneStatusGet p s))
  | .timeGet p, _ => (runs_runPacket _ _ _ _ : Runs (execTimeGet p s))
  | .timeSet p, _ => (runs_runPacket _ _ _ _ : Runs (execTimeSet p s))
  | .timeAdj p, _ => (runs_runPacket _ _ _ _ : Runs (execTimeAdj p s))
  | .timeServoSet p, _ => (runs_runPacket _ _ _ _ : Runs (execTimeServoSet p s))
  | .timeServoGet p, _ => (runs_runPacket _ _ _ _ : Runs (execTimeServoGet p s))
  | .todHint p, _ => (runs_runPacket _ _ _ _ : Runs (execTodHint p s))
  | .timeEvtSet p, _ => (runs_runPacket _ _ _ _ : Runs (execTimeEvtSet p s))
  | .timePpsSet p, _ => (runs_runPacket _ _ _ _ : Runs (execTimePpsSet p s))
  | .timeCapSet p, _ => (runs_runPacket _ _ _ _ : Runs (execTimeCapSet p s))
  | .timeCapGet p, _ => (runs_runPacket _ _ _ _ : Runs (execTimeCapGet p s))
  | .timeRclkSet p, _ => (runs_runPacket _ _ _ _ : Runs (execTimeRclkSet p s))
  | .ptpPortSet p, _ => (runs_runPacket _ _ _ _ : Runs (execPtpPortSet p s))
  | .ptpPortGet p, _ => (runs_runPacket _ _ _ _ : Runs (execPtpPortGet p s))
  | .tsRingSet p, _ => (runs_runPacket _ _ _ _ : Runs (execTsRingSet p s))
  | .tsStpSet p, _ => (runs_runPacket _ _ _ _ : Runs (execTsStpSet p s))
  | .mirSessionSet p, _ => (runs_runPacket _ _ _ _ : Runs (execMirSessionSet p s))
  | .mirSessionGet p, _ => (runs_runPacket _ _ _ _ : Runs (execMirSessionGet p s))
  | .mirPortSet p, _ => (runs_runPacket _ _ _ _ : Runs (execMirPortSet p s))
  | .snapshot p, _ => (runs_runPacket _ _ _ _ : Runs (execSnapshot p s))
  | .cntRead p, _ => (runs_runPacket _ _ _ _ : Runs (execCntRead p s))
  | .dmaRingSet p, _ => (runs_runPacket _ _ _ _ : Runs (execDmaRingSet p s))
  | .dmaRingGet p, _ => (runs_runPacket _ _ _ _ : Runs (execDmaRingGet p s))
  | .treeStatusGet p, _ => (runs_runPacket _ _ _ _ : Runs (execTreeStatusGet p s))
  | .rlStatusGet p, _ => (runs_runPacket _ _ _ _ : Runs (execRlStatusGet p s))
  | .fwImageWrite p, _ => (runs_runPacket _ _ _ _ : Runs (execFwImageWrite p s))
  | .fwActivate p, _ => (runs_runPacket _ _ _ _ : Runs (execFwActivate p s))
  | .fwStatusGet p, _ => (runs_runPacket _ _ _ _ : Runs (execFwStatusGet p s))
  | .protStatusGet p, _ => (runs_runPacket _ _ _ _ : Runs (execProtStatusGet p s))
  | .ksWrite p, _ => (runs_runPacket _ _ _ _ : Runs (execKsWrite p s))
  | .ksRead p, _ => (runs_runPacket _ _ _ _ : Runs (execKsRead p s))
  | .holdupStatusGet p, _ => (runs_runPacket _ _ _ _ : Runs (execHoldupStatusGet p s))
  | .thmGet p, _ => (runs_runPacket _ _ _ _ : Runs (execThmGet p s))
  | .pcieDataLinkUp bme msixOn fnMask vecMask, _ => (runs_either _ _ : Runs (execPcieDataLinkUp bme msixOn fnMask vecMask s))
  | .vddUndervoltage, _ => (runs_next _ : Runs (execVddUndervoltage s))
  | .vholdFirstCharge, _ => (runs_next _ : Runs (execVholdFirstCharge s))
  | .rhogenBlockLock k, _ => (runs_either _ _ : Runs (execRhogenBlockLock k s))

/-- Every command goes on, or stops at a write without an outcome. -/
theorem goesOn_exec (c : Instr) (s : State) : GoesOn s (exec c s) := by
  cases hc : writesRegister c with
  | false => exact .inl (runs_exec s c hc)
  | true =>
    unfold writesRegister at hc
    split at hc
    · exact goesOn_registerWrite _ _ _ _ s
    · exact goesOn_aliasAt _ 1 _ _ s
    · exact goesOn_aliasAt _ 2 _ _ s
    · exact goesOn_aliasAt _ 3 _ _ s
    · exact goesOn_scheduleEntryDue s
    · exact goesOn_treeRemoteAccess _ _ _ _ _ _ _ s
    · exact goesOn_rhogenPacketReceive _ _ _ s
    · exact absurd hc (by decide)

/-! ### A write at a gap -/

/-- The control complex's write at a gap has no outcome under GRD2048-F, and no effect under another ordering code. -/
theorem busWrite_gap {x : Nat} (v : Word) (hx : x < 0x2000000) (hgap : placeAt x = .gap) :
    s.busWrite .cc x v = if s.fuses.code = .f then none else some s := by
  have hjudged : judgedAt x = x := if_pos (by omega)
  change s.writeWord .cc 0 x v = _
  unfold State.writeWord aliasOf
  dsimp only
  rw [hjudged, if_neg (by omega), hgap]

theorem exec_registerWrite_one {x : Nat} (v : Word) (halign : x % 4 = 0) : exec (.registerWrite .cc x [v] true) s = writeOutcome .cc x [v] s := by
  change execRegisterWrite .cc x [v] true s = _
  rw [execRegisterWrite, if_neg (by simp [halign]), if_neg (by decide)]

end

/-- Settles O33: no write changes the ordering code, so that a stop comes from a gap under GRD2048-F, and no other command can stop. -/
theorem writesWithoutAStatedOutcome : Obligations.WritesWithoutAStatedOutcome := by
  unfold Obligations.WritesWithoutAStatedOutcome
  refine ⟨fun x v s halign hx hgap => ⟨fun hcode => ?_, fun hcode => ?_⟩, fun c s => ⟨goesOn_exec c s, fun hc => runs_exec s c ?_⟩⟩
  · have hnone := busWrite_gap (s := s) v hx hgap
    rw [if_pos hcode] at hnone
    rw [exec_registerWrite_one v halign, writeOutcome, busWrites, hnone]
  · have hsame := busWrite_gap (s := s) v hx hgap
    rw [if_neg hcode] at hsame
    exact registerWrite_of_busWrite halign hsame
  · unfold writesRegister
    split
    case h_8 => rfl
    all_goals exact hc.elim

end Sys2Proof.Machine
